-- ==== Sys2Proof/Word.lean ====
section
/-!
DEFINITION. The plain word types of the ZW56 model and the sparse map that every indexed store of the state uses.
-/

namespace Sys2Proof

/-- One byte of memory, of a packet or of an object value. -/
abbrev Byte := BitVec 8

/-- A word of the control network and of the configuration blocks (R52, R174). -/
abbrev Word32 := BitVec 32

/-- A 64-bit word: an object value, a global address or a span-map entry (R275, R277). -/
abbrev Word64 := BitVec 64

/-- A sync-counter count (R218). -/
abbrev Count48 := BitVec 48

/-- A sparse table: pairs of a key and an entry. An unlisted key reads as the default that its reader names. -/
abbrev AMap (α : Type) := List (Nat × α)

end Sys2Proof
end

