-- ==== Sys2Proof/Syntax.lean ====
section
/-!
DEFINITION. The commands of the ZW56 (spec/opcode_table.json): one constructor of Instr for each row, with the
operands that the spec gives the message, packet, object write or event of the row.
-/

namespace Sys2Proof

/-- A cell (x, y, slot) of R22: slots 0 to 2 are compute cells, slot 3 is the memory cell. -/
structure CellRef where
  x : Nat
  y : Nat
  slot : Nat
deriving DecidableEq, Repr

/-- What the header of a mesh packet or control message names (R178, R181). A destination x of 0x1FF names the ring or a
crest unit. -/
structure Head where
  src : CellRef
  dst : CellRef
  target : Nat
  domain : Nat
  tag : BitVec 16
deriving DecidableEq, Repr

/-- What the ingress port reads of a fabric packet for this wafer (R247, R258, R264, R267): port, source node, domain, key slot and
16-bit flow sequence; the generation, the key and the extended number under which its sender sealed it; the hop sequence, and
whether its CRC is good. -/
structure Pkt where
  port : Nat
  node : Nat
  domain : Nat
  slot : Nat
  gen : Nat
  seq : BitVec 16
  key : List Byte := []
  full : Nat := 0
  hop : BitVec 16 := 0
  good : Bool := true
deriving DecidableEq, Repr

/-- What a port passes on of a packet in transit beside its way and its place in its flow (R247). -/
structure TransitRest where
  opcode : Nat
  slot : Nat
  compressed : Bool
  len : Nat
  body : List Byte
  hop : BitVec 16 := 0
  good : Bool := true
deriving DecidableEq, Repr

/-- What a port reads of a packet in transit (R247): the header fields that the source fixed, the payload length, the hop fields, the
ciphertext and tag, and whether its CRC is good. -/
structure TransitPkt extends TransitRest where
  dst : Nat
  src : Nat
  domain : Nat
  seq : BitVec 16
  vc : Nat
  hops : Nat
  nonMin : Bool
deriving DecidableEq, Repr

/-- A span-map entry as it comes to a translation cache: its position and the generation of the map that it was read from (R278,
R280). -/
structure SpanFill where
  pos : Nat
  gen : Nat
deriving DecidableEq, Repr

/-- The sites at which overlay training has failed, and those whose router has failed its self-test (R191, R428). -/
structure SiteFailures where
  overlays : List Nat := []
  routers : List Nat := []
deriving DecidableEq, Repr

/-- The 8 bytes that begin a host command (R170). -/
structure Hdr where
  job : BitVec 32
  part : Nat
  tag : BitVec 16
deriving DecidableEq, Repr

/-- A unit that R251 or the opcode tables turn away: of reserved class, or with hop count 8, by the port that reads it; or a command
with a reserved opcode, or one that only devices send, with its request tag (R171, R235, R272, R292, R414). -/
inductive ReservedUnit where
  | unit (port : Nat) (hop : BitVec 16) (good : Bool)
  | command (p : Pkt) (h : Hdr) (opcode : Nat)
deriving DecidableEq, Repr

/-- The path by which an object is written or read (R365): the EtherCAT mailbox, or a fabric OBJECT command. -/
inductive Via where
  | sdo
  | fabric (p : Pkt) (h : Hdr)
deriving DecidableEq, Repr

/-- The two management controllers (R28). -/
inductive Ctl where
  | cope
  | drag
deriving DecidableEq, Repr

/-- The roles of R12 and R365. -/
inductive Role where
  | operator
  | tenant
  | metrology
  | vendor
  | service
deriving DecidableEq, Repr

/-- The four directions of a mesh port (R174), and the four sides of the wafer (R37). -/
inductive Dir where
  | north
  | east
  | south
  | west
deriving DecidableEq, Repr

/-- The receive region that a halo strip fills (R80): a side, or a corner. -/
inductive HaloPart where
  | north
  | south
  | east
  | west
  | northEast
  | northWest
  | southEast
  | southWest
deriving DecidableEq, Repr

/-- A counter reference of a host command (R235): x and y are 0xFFFF for a crest counter. -/
structure CtrRef where
  x : Nat
  y : Nat
  index : Nat
deriving DecidableEq, Repr

/-- The fields of a COUNTER message that name its counter and its issuer (R222). -/
structure CtrMsg where
  crest : Bool
  index : Nat
  ackWanted : Bool
  retCell : CellRef
  retTarget : Nat
deriving DecidableEq, Repr

/-- The fields of a WATCH message (R226). -/
structure WatchMsg where
  crest : Bool
  index : Nat
  onC : Bool
  v : Count48
  tgtCell : CellRef
  tgtTarget : Nat
deriving DecidableEq, Repr

/-- A memory command of a host (R292): target (or BULK_COPY source), second address or operand, third operand, length,
request tag, and the flag fields. -/
structure MemCmd where
  addr : Word64
  v : Word64
  s : Word64
  len : Nat
  tag : BitVec 16
  size : Nat
  ty : Nat
  compressed : Bool
  ctrEnable : Bool
  ctrIndex : Nat
deriving DecidableEq, Repr

/-- A MEM_REQ payload (R289), with the global address that the operation names. -/
structure MemReq where
  op : Nat
  size : Nat
  ty : Nat
  len : Nat
  space : Nat
  offset : Nat
  addr : Word64
  reqId : Nat
  data : List Byte
  v : Word64
  s : Word64
deriving DecidableEq, Repr

/-- A memory reply (R290, R292): status, operation, request ID, offset within the operation, data or old value. -/
structure MemRep where
  status : Nat
  op : Nat
  reqId : Nat
  offset : Nat
  data : List Byte
  old : Word64
deriving DecidableEq, Repr

/-- How a memory reply arrives: over the mesh (R290), or from another wafer over the fabric (R292). -/
inductive RepVia where
  | mesh (h : Head)
  | fabric (p : Pkt)
deriving DecidableEq, Repr

/-- The prefix of a COMBINE payload (R200). -/
structure CombinePrefix where
  count : Nat
  ordinal : Nat
  isInt : Bool
  det : Bool
deriving DecidableEq, Repr

/-- A packet or control message that a mesh fault discards (R204): its header, whether it is a control message, its type,
and the request ID of a memory packet. -/
structure LostUnit where
  head : Head
  control : Bool
  kind : Nat
  reqId : Nat
deriving DecidableEq, Repr

/-- A DISCOVERY packet and the delay measured with it (R240, R272). -/
structure Discovery where
  node : Nat
  port : Nat
  groupSize : Nat
  groupCount : Nat
  host : Bool
  delay : Nat
deriving DecidableEq, Repr

/-- The admission fields of CADENCE_ADMIT (R171). -/
structure CadenceReq where
  period : Nat
  estimate : Nat
  energy : Nat
  late : Bool
  start : Word64
  sections : List Nat
deriving DecidableEq, Repr

/-- A guard on a crest counter (R153): comparison 0 none, 1 ≥, 2 <. -/
structure Guard where
  cmp : Nat
  index : Nat
  value : Count48
deriving DecidableEq, Repr

/-- What a subsystem puts into an event request (R407, R409). -/
structure EvReq where
  code : Nat
  kind : Nat
  cls : Nat
  part : Nat
  x : Nat
  y : Nat
  unit : Nat
  domain : Nat
  node : Nat
  detail : Nat
  withdrawn : Bool
deriving DecidableEq, Repr

/-- A parameter change at the Assay's optical port (R347, R349). -/
inductive AssayChange where
  | parameter (index value : Nat)
  | firmware (checksum : Word32)
  | clearCase
deriving DecidableEq, Repr

/-- The commands of the block, one for each row of the table of operations and events. -/
inductive Instr where
  /-- TOKEN, R60: a token with its valid row and column counts reaches a binding or a generator. -/
  | token (h : Head) (rows cols : Nat)
  /-- TUPLE, R208: a value of one to four words reaches a value-mode port. -/
  | tuple (h : Head) (words : List Word32)
  /-- CREDIT, R79: a ring buffer returns to its producer. -/
  | credit (h : Head)
  /-- ACTOR_FIRE, R61: the actor of a compute cell fires. -/
  | actorFire (c : CellRef)
  /-- BUFFER_RELEASE, R63: the port buffers of the tag in the array are released. -/
  | bufferRelease (c : CellRef)
  /-- DRAIN_COMPLETE, R116: the drain has written a tag's last output block. -/
  | drainComplete (c : CellRef)
  /-- GENERATOR_TRANSFER, R79: a generator fills the buffer for its next tag. -/
  | generatorTransfer (x y g : Nat)
  /-- HALO, R81: a halo strip arrives. -/
  | halo (h : Head) (part : HaloPart) (data : List Byte)
  /-- STREAM, R207: output block lines arrive for a consumer's ring. -/
  | stream (h : Head) (data : List Byte)
  /-- ECC_WRITE_BACK, R67: a corrected word is written back. -/
  | eccWriteBack (x y addr : Nat)
  /-- QUEUE_SAMPLE, R168: a sampling period of a partition elapses. -/
  | queueSample (part : Nat)
  /-- AGGREGATE_TRIGGER, R111: a write to the aggregate trigger. -/
  | aggregateTrigger (via : Via) (value : Nat)
  /-- AGGREGATE_COMPLETE, R111: the counter sum completes. -/
  | aggregateComplete
  /-- JOB_OPEN, R171. -/
  | jobOpen (p : Pkt) (h : Hdr) (group : BitVec 32) (notify : Nat)
  /-- SECTION_COMMIT, R149. -/
  | sectionCommit (p : Pkt) (h : Hdr) (addr : Word64) (len : Nat)
  /-- COMMIT_COMPLETE, R150: the loader finishes a commit. -/
  | commitComplete (part : Nat)
  /-- SECTION_RELEASE, R171. -/
  | sectionRelease (p : Pkt) (h : Hdr) (sec : Nat)
  /-- SECTION_ENQUEUE, R153. -/
  | sectionEnqueue (p : Pkt) (h : Hdr) (sec prio : Nat) (guard : Guard) (preds : List Nat)
  /-- SECTION_CANCEL, R162. -/
  | sectionCancel (p : Pkt) (h : Hdr) (run : Nat)
  /-- JOB_START, R360. -/
  | jobStart (p : Pkt) (h : Hdr)
  /-- JOB_STOP, R361. -/
  | jobStop (p : Pkt) (h : Hdr)
  /-- JOB_ABORT, R161. -/
  | jobAbort (p : Pkt) (h : Hdr)
  /-- JOB_CLOSE, R141. -/
  | jobClose (p : Pkt) (h : Hdr)
  /-- STATUS, R172: the state of a run, 0 for the current one. -/
  | runStatus (p : Pkt) (h : Hdr) (run : Nat)
  /-- CADENCE_ADMIT, R164. -/
  | cadenceAdmit (p : Pkt) (h : Hdr) (r : CadenceReq)
  /-- CADENCE_STOP, R171. -/
  | cadenceStop (p : Pkt) (h : Hdr)
  /-- CADENCE_WINDOW, R165: the next window of a partition's grid opens. -/
  | cadenceWindow (part : Nat)
  /-- SECTION_START, R158: a start message reaches a tile. -/
  | sectionStart (x y : Nat)
  /-- SECTION_DONE, R147: a tile reports its agents finished. -/
  | sectionDone (x y : Nat)
  /-- SECTION_ABORT, R162: an abort message reaches a tile. -/
  | sectionAbort (x y : Nat)
  /-- STARVATION_LIMIT_REACHED, R332. -/
  | starvationLimitReached (part run : Nat)
  /-- RUN_OVERRUN, R160. -/
  | runOverrun (part : Nat)
  /-- ROLE_CHANGE, R42: a write of a partition's role. -/
  | roleChange (via : Via) (part role : Nat)
  /-- MEM_REQ, R289. -/
  | memReq (h : Head) (m : MemReq)
  /-- MEM_REPLY, R290. -/
  | memReply (via : RepVia) (m : MemRep)
  /-- MCAST_RECT, R194. -/
  | mcastRect (h : Head) (x1 y1 inner : Nat) (data : List Byte)
  /-- MCAST_MASK, R195. -/
  | mcastMask (h : Head) (mask : Word64) (inner : Nat) (data : List Byte)
  /-- MCAST_ACK, R199: the acknowledgement of some copies of a source's multicast. -/
  | mcastAck (h : Head) (delivered refused : Nat)
  /-- MCAST_STALL, R198: a branch waits longer than the stall report time. -/
  | mcastStall (x y : Nat) (stalled : CellRef) (domain : Nat)
  /-- COMBINE, R214. -/
  | combine (h : Head) (pre : CombinePrefix) (elems : List Word32)
  /-- FAIL_NOTICE, R204. -/
  | failNotice (h : Head) (reason lostType reqId : Nat)
  /-- RESERVED_PACKET_TYPE, R179: read by the router at (x, y). -/
  | reservedPacketType (x y : Nat) (h : Head) (type : Nat)
  /-- MCAST, R182: a control message to a rectangle; words are the inner message's words 2 onwards. -/
  | mcastControl (h : Head) (x1 y1 inner : Nat) (words : List Word32)
  /-- ROUTE, R188: detour entries for the router at (x, y), sent by a controller or by another agent. -/
  | routeWrite (sender : Option Ctl) (x y : Nat) (entries : List (Dir × Dir))
  /-- RESERVED_CONTROL_KIND, R182. -/
  | reservedControlKind (x y : Nat) (h : Head) (kind : Nat)
  /-- FLIT_ERROR, R204: an uncorrectable flit or word at the router at (x, y). -/
  | flitError (x y : Nat) (u : Option LostUnit)
  /-- ROUTER_FAULT, R204: the router at (x, y) stops answering; the units it holds. -/
  | routerFault (x y : Nat) (held : List LostUnit)
  /-- RETIRE_REQUEST, R191: a permitted write of 0x2B00:05. -/
  | retireRequest (value : Word32)
  /-- RETIREMENT, R193: a pending retirement becomes due. -/
  | retirement (x y : Nat)
  /-- DESCRIPTOR, R211: a descriptor tuple at a service port. -/
  | descriptor (h : Head) (w0 w1 w2 w3 : Word32)
  /-- PRODUCE, R219. -/
  | ctrProduce (h : Head) (m : CtrMsg) (n : BitVec 32)
  /-- CONSUME, R219. -/
  | ctrConsume (h : Head) (m : CtrMsg) (n : BitVec 32)
  /-- READ, R219. -/
  | ctrRead (h : Head) (m : CtrMsg)
  /-- BOUND, R219. -/
  | ctrBound (h : Head) (m : CtrMsg) (b : BitVec 16)
  /-- INIT, R220. -/
  | ctrInit (h : Head) (m : CtrMsg)
  /-- ACK, R222. -/
  | ctrAck (h : Head) (m : CtrMsg) (status : Nat)
  /-- READ_REPLY, R222. -/
  | ctrReadReply (h : Head) (m : CtrMsg) (p c : Count48)
  /-- REGISTER, R223. -/
  | watchRegister (h : Head) (m : WatchMsg)
  /-- CANCEL, R225. -/
  | watchCancel (h : Head) (m : WatchMsg)
  /-- NOTIFY, R224. -/
  | watchNotify (h : Head) (m : WatchMsg) (status : Nat)
  /-- ARRIVE, R229: a tile's or a relayed member's arrival reaches the wafer crest. -/
  | crestArrive (h : Head) (seq : Nat) (value : Word64)
  /-- RELEASE, R229. -/
  | crestRelease (h : Head) (seq : Nat) (value : Word64)
  /-- STILL, R227, R233: a tile reports to its field crest unit that it has become still. -/
  | crestStill (h : Head) (seq : Nat)
  /-- MOVING, R227, R233. -/
  | crestMoving (h : Head) (seq : Nat)
  /-- COLLECTED, R231. -/
  | crestCollected (h : Head) (seq : Nat)
  /-- ABORT, R232: an abort of a job group reaches this member; the value names the group. -/
  | crestAbort (h : Head) (group : BitVec 32)
  /-- HANG_TIMER_EXPIRE, R228. -/
  | hangTimerExpire (part : Nat)
  /-- SIGNAL_PRODUCE, R235. -/
  | signalProduce (p : Pkt) (h : Hdr) (c : CtrRef) (n : BitVec 32)
  /-- SIGNAL_CONSUME, R235. -/
  | signalConsume (p : Pkt) (h : Hdr) (c : CtrRef) (n : BitVec 32)
  /-- COUNTER_READ, R235. -/
  | counterRead (p : Pkt) (h : Hdr) (c : CtrRef)
  /-- WATCH_SET, R235. -/
  | watchSet (p : Pkt) (h : Hdr) (c : CtrRef) (count : Nat) (v : Count48) (id : BitVec 32)
  /-- WATCH_CANCEL, R235. -/
  | hostWatchCancel (p : Pkt) (h : Hdr) (id : BitVec 32)
  /-- COUNTER_BOUND, R235. -/
  | counterBound (p : Pkt) (h : Hdr) (c : CtrRef) (b : BitVec 16)
  /-- COUNTER_INIT, R235. -/
  | counterInit (p : Pkt) (h : Hdr) (c : CtrRef)
  /-- DESCRIPTOR_POST, R235. -/
  | descriptorPost (p : Pkt) (h : Hdr) (x y : Nat) (w0 w1 w2 w3 : Word32)
  /-- BARRIER, R229. -/
  | barrier (p : Pkt) (h : Hdr) (arrival release : Nat) (v : Count48)
  /-- BROADCAST, R230. -/
  | broadcast (p : Pkt) (h : Hdr) (ctr : Nat) (n : BitVec 32)
  /-- SNAPSHOT, R231. -/
  | snapshot (p : Pkt) (h : Hdr) (addr : Nat)
  /-- PMD_TRAINING_COMPLETE, R240: training of a port ends; trained is false where the partner or the channel cannot train. -/
  | pmdTrainingComplete (port : Nat) (trained : Bool)
  /-- DISCOVERY, R240. -/
  | discovery (port : Nat) (d : Discovery)
  /-- RETRAIN_INTERVAL, R240. -/
  | retrainInterval (port : Nat)
  /-- LINK_STATUS_BLOCK, R250: the fields of a good block that this end acts on: NAK flag, acknowledged hop sequence, off bits. -/
  | linkStatusBlock (port : Nat) (nak : Bool) (ack : BitVec 16) (off : BitVec 4)
  /-- LINK_STATUS_SEND, R250. -/
  | linkStatusSend (port : Nat)
  /-- REPLAY_TIMEOUT, R264. -/
  | replayTimeout (port : Nat)
  /-- RESERVED_UNIT, R251: a unit of reserved class or opcode, or with hop count 8, read by a port. -/
  | reservedUnit (u : ReservedUnit)
  /-- TRANSIT_PACKET, R255: a packet for another wafer enters by a port. -/
  | transitPacket (port dst src domain : Nat) (seq : BitVec 16) (vc hops : Nat) (nonMin : Bool) (x : TransitRest)
  /-- PACKET_SEND, R259: the oldest waiting packet of a flow leaves its source. -/
  | packetSend (dst domain : Nat)
  /-- E2E_ACK, R259: base sequence, delivered bits, refused bits. -/
  | e2eAck (p : Pkt) (base : BitVec 16) (delivered refused : BitVec 32)
  /-- RETRANSMIT_TIMEOUT, R261, for the packet of a flow with an extended sequence number. -/
  | retransmitTimeout (dst domain seq : Nat)
  /-- SKIP, R262. -/
  | skipQuery (p : Pkt) (seq : BitVec 16)
  /-- SKIP_ANSWER, R262: clear is set for the untagged "no key" answer. -/
  | skipAnswer (p : Pkt) (seq : BitVec 16) (status : Nat) (clear : Bool)
  /-- ESCAPE_TIMEOUT, R257: the packet with a hop sequence waiting at a port's output. -/
  | escapeTimeout (port : Nat) (hopSeq : BitVec 16)
  /-- CREST_RELAY, R233: words 2 to 4 of a CREST message from another wafer, and its origin field. -/
  | crestRelay (p : Pkt) (w2 w3 w4 : Word32) (origin : Nat)
  /-- LINK_STATE, R242. -/
  | linkState (p : Pkt) (port state peerNode peerPort : Nat)
  /-- PORT_QUERY, R272. -/
  | portQuery (p : Pkt) (h : Hdr) (port : Nat)
  /-- PORT_CONTROL, R272. -/
  | portControl (p : Pkt) (h : Hdr) (port action : Nat) (permit : List Byte)
  /-- ECHO, R272. -/
  | echoCmd (p : Pkt) (h : Hdr) (data : List Byte)
  /-- LOAD, R282. -/
  | memLoad (p : Pkt) (m : MemCmd)
  /-- STORE, R282; compressed packets carry R266 framing. -/
  | memStore (p : Pkt) (m : MemCmd) (data : List Byte)
  /-- ATOMIC_ADD, R283. -/
  | atomicAdd (p : Pkt) (m : MemCmd)
  /-- ATOMIC_MAX, R283. -/
  | atomicMax (p : Pkt) (m : MemCmd)
  /-- ATOMIC_CAS, R282. -/
  | atomicCas (p : Pkt) (m : MemCmd)
  /-- BULK_COPY, R286. -/
  | bulkCopy (p : Pkt) (m : MemCmd)
  /-- TRANSLATION_FILL, R278, R280: the span-map entry of a position, with its generation, reaches cache 0 to 67. -/
  | translationFill (cache : Nat) (fill : SpanFill)
  /-- AGE_TICK, R279. -/
  | ageTick
  /-- INVALIDATION_COMPLETE, R280. -/
  | invalidationComplete
  /-- REFERENCE_LOCK, R295. -/
  | referenceLock
  /-- REFERENCE_LOSS, R299. -/
  | referenceLoss
  /-- HOLDOVER_TIMEOUT, R299. -/
  | holdoverTimeout
  /-- TIME_FRAME, R296: bytes 1 to 13 of the frame, after the K28.1 start. -/
  | timeFrame (bytes : List Byte)
  /-- EPOCH_MARK, R297. -/
  | epochMark
  /-- FLL_WINDOW, R302: the mesh-cycle count of a field's window. -/
  | fllWindow (field count : Nat)
  /-- SETTLE_DELAY_EXPIRE, R304. -/
  | settleDelayExpire (field : Nat)
  /-- PLL_LOCK, R306. -/
  | pllLock (pll : Nat)
  /-- PLL_LOSS, R309. -/
  | pllLoss (pll : Nat)
  /-- SOURCE_SWITCH, R308: sub is 7 (control bus) or 8 (ring switch). -/
  | sourceSwitch (via : Via) (sub value : Nat)
  /-- PLL_MULTIPLIER_WRITE, R309: sub is 4 or 5. -/
  | pllMultiplierWrite (via : Via) (sub value : Nat)
  /-- FIELD_CLOCK_TARGET_WRITE, R301. -/
  | fieldClockTargetWrite (via : Via) (field value : Nat)
  /-- PPS_EDGE, R457. -/
  | ppsEdge (pin : Nat)
  /-- HV_BAND_CHANGE, R312: the voltage after the change. -/
  | hvBandChange (volts : Nat)
  /-- HV_OUT_OF_RANGE, R312. -/
  | hvOutOfRange (volts : Nat)
  /-- HV_PRESENT, R312. -/
  | hvPresent
  /-- CONVERTER_FAULT, R314. -/
  | converterFault (index : Nat)
  /-- BUS_UNDERVOLTAGE, R316. -/
  | busUndervoltage (millivolts : Nat)
  /-- REGULATOR_REPORT, R318: millivolts, milliamperes, watts, delivered energy count in µJ. -/
  | regulatorReport (field millivolts milliamps watts : Nat) (energy : Word64)
  /-- FIELD_SUPPLY_FAULT, R319. -/
  | fieldSupplyFault (field : Nat)
  /-- ATTRIBUTION_INTERVAL, R321: the average inlet power of the interval in W, the ring supply's and the standby converter's
  measured energy in µJ. -/
  | attributionInterval (average ring standby : Nat)
  /-- CLAMP_END, R327. -/
  | clampEnd
  /-- SHARE_PUBLISH, R331: the sample of P_in, in W. -/
  | sharePublish (sample : Nat)
  /-- CURRENT_LIMIT, R328. -/
  | currentLimit
  /-- CURRENT_LIMIT_TIMEOUT, R328. -/
  | currentLimitTimeout
  /-- SENSOR_SAMPLE, R335: the readings of a field's 16 sensors in 0.1 °C. -/
  | sensorSample (field : Nat) (readings : List Int)
  /-- THERMAL_PERIOD, R334. -/
  | thermalPeriod
  /-- COOLANT_SAMPLE, R338: inlet and outlet in 0.1 °C, flow in 0.1 L/min. -/
  | coolantSample (inlet outlet : Int) (flow : Nat)
  /-- COOLING_FAULT, R338. -/
  | coolingFault
  /-- RESERVATION_WRITE, R330: a write of 0x2210 (weight false) or 0x2211 (weight true). -/
  | reservationWrite (via : Via) (weight : Bool) (part value : Nat)
  /-- MIRROR_FRAME, R354: a frame received by a controller. -/
  | mirrorFrame (c : Ctl) (bytes : List Byte)
  /-- MIRROR_LINK_LOSS, R354. -/
  | mirrorLinkLoss (c : Ctl)
  /-- LEDGER_CLOSE, R357. -/
  | ledgerClose
  /-- METROLOGICAL_PULSE, R350. -/
  | metrologicalPulse
  /-- DIAGNOSTIC_PULSE, R350. -/
  | diagnosticPulse
  /-- LED_CHECK_WINDOW, R351: drive current seen in every pulse, optical response within limits. -/
  | ledCheckWindow (drive optical : Bool)
  /-- PROGRAMMING_MODE, R347: seal switch pressed, authority's password given. -/
  | programmingMode (sealPressed password : Bool)
  /-- LOG_CLEAR, R349. -/
  | logClear
  /-- DATA_READOUT, R348. -/
  | dataReadout
  /-- CASE_OPENED, R352. -/
  | caseOpened
  /-- PARTITION_CREATE, R370: a permitted write of 0x2400:01. -/
  | partitionCreate (value : Word32)
  /-- PARTITION_DELETE, R371: a permitted write of 0x2400:02. -/
  | partitionDelete (part : Nat)
  /-- SCRUB_COMPLETE, R380: the sites whose read-back failed. -/
  | scrubComplete (part : Nat) (failed : List Nat)
  /-- SPAN_SECRET_LOAD, R375: a permitted write of 0x2500:05. -/
  | spanSecretLoad (value : List Byte)
  /-- STAGE_SLOT, R377. -/
  | stageSlot (domain slot gen : Nat)
  /-- LOAD_SLOT, R378. -/
  | loadSlot (domain slot : Nat)
  /-- CLEAR_SLOT, R377. -/
  | clearSlot (domain slot : Nat)
  /-- CLEAR_SECRET, R377. -/
  | clearSecret
  /-- FLOW_RESTART, R378. -/
  | flowRestart (domain : Nat)
  /-- PERMIT_SUBMISSION, R385: a write of 0x2500:10. -/
  | permitSubmission (via : Via) (permit : List Byte)
  /-- READ_SESSION, R369: a permitted write of 0x2500:12. -/
  | readSession (signer : Role) (seconds : Nat)
  /-- READ_SESSION_EXPIRE, R369. -/
  | readSessionExpire
  /-- CONTROLLER_BOOT, R388. -/
  | controllerBoot (c : Ctl)
  /-- IMAGE_TARGET, R427. -/
  | imageTarget (via : Via) (value : Nat)
  /-- IMAGE_CHUNK, R427. -/
  | imageChunk (via : Via) (bytes : List Byte)
  /-- IMAGE_VERIFY, R389. -/
  | imageVerify
  /-- START_TRIAL, R389. -/
  | startTrial (via : Via) (value : Nat)
  /-- CONFIRM_TRIAL, R389. -/
  | confirmTrial (via : Via) (value : Nat)
  /-- TRIAL_TIMEOUT, R389. -/
  | trialTimeout
  /-- ETHERCAT_FRAME, R393: a frame enters by port 0 or 1. -/
  | ethercatFrame (port : Nat)
  /-- ETHERCAT_LINK_CHANGE, R415. -/
  | ethercatLinkChange (port : Nat) (up : Bool)
  /-- ESM_STATE_CHANGE, R394: 0 INIT, 1 PRE-OP, 2 SAFE-OP, 3 OP. -/
  | esmStateChange (state : Nat)
  /-- SDO_INFORMATION, R394: the object asked for. -/
  | sdoInformation (index : Nat)
  /-- UNSUPPORTED_MAILBOX_REQUEST, R394: a CoE service not supported, or another protocol. -/
  | unsupportedMailboxRequest (coe : Bool)
  /-- REGISTER_WRITE, R398: an SDO write. -/
  | registerWrite (index sub : Nat) (value : List Byte)
  /-- LEASE_RENEWAL, R402. -/
  | leaseRenewal (c : Ctl) (epoch : BitVec 32)
  /-- LEASE_EXPIRY, R402. -/
  | leaseExpiry
  /-- READY_REPORT, R403. -/
  | readyReport (c : Ctl) (epoch : BitVec 32)
  /-- CLAIM_WINDOW_EXPIRE, R403. -/
  | claimWindowExpire
  /-- PASS_LEASE, R405: a write of 0x2720:04. -/
  | passLease (via : Via) (value : Nat)
  /-- EVENT_REQUEST, R407. -/
  | eventRequest (r : EvReq)
  /-- EVENT_SELECT, R408. -/
  | eventSelect
  /-- EVENT_CLAIM, R408. -/
  | eventClaim
  /-- EVENT_READ, R414. -/
  | eventRead (p : Pkt) (h : Hdr) (first : BitVec 32) (wanted : Nat)
  /-- EVENT_ACK, R414. -/
  | eventAck (p : Pkt) (h : Hdr) (seq : BitVec 32)
  /-- EVENT_STATUS, R414. -/
  | eventStatus (p : Pkt) (h : Hdr)
  /-- OBJECT_READ, R399. -/
  | objectRead (p : Pkt) (h : Hdr) (index sub : Nat)
  /-- OBJECT_WRITE, R399. -/
  | objectWrite (p : Pkt) (h : Hdr) (index sub : Nat) (value : List Byte)
  /-- SLEEP_REQUEST, R418. -/
  | sleepRequest (via : Via) (value : Nat)
  /-- SLEEP_COMPLETE, R418. -/
  | sleepComplete
  /-- WAKE_SOURCE, R420: the sources that fire in one pilot cycle. -/
  | wakeSource (sources : List Nat)
  /-- WAKE_REQUEST, R419. -/
  | wakeRequest (via : Via) (value : Nat)
  /-- ALARM, R419: alarm 0 to 7. -/
  | alarmFire (n : Nat)
  /-- SAVE_COMPLETE, R424. -/
  | saveComplete (good : Bool)
  /-- POWER_UP, R428. -/
  | powerUp
  /-- FIELD_GROUP_POWER, R428. -/
  | fieldGroupPower (group : Nat)
  /-- POWER_UP_STEP_OVERDUE, R429. -/
  | powerUpStepOverdue
  /-- RESET_N, R430. -/
  | resetN
  /-- STANDBY_INPUT_LOSS, R430. -/
  | standbyInputLoss
  /-- FIELD_RESET_REQUEST, R432: a permitted write of 0x2A20. -/
  | fieldResetRequest (field : Nat)
  /-- FIELD_RESET_COMPLETE, R432. -/
  | fieldResetComplete (field : Nat)
  /-- PARTITION_RESET_REQUEST, R437. -/
  | partitionResetRequest (via : Via) (part value : Nat)
  /-- RESOLUTION_LIMIT_EXPIRE, R437. -/
  | resolutionLimitExpire (part : Nat)
  /-- WAFER_RESET_REQUEST, R439: a permitted write of 0x2A00:05. -/
  | waferResetRequest
  /-- DISCHARGE_HOLD_EXPIRE, R439. -/
  | dischargeHoldExpire
  /-- SELF_TEST_REQUEST, R442. -/
  | selfTestRequest (via : Via) (value : Word32)
  /-- SERVICE_SELF_TEST_REQUEST, R442: a permitted write of 0x2A10:02. -/
  | serviceSelfTestRequest (value : Word32)
  /-- SELF_TEST_COMPLETE, R444: failures and the first failing site. -/
  | selfTestComplete (failures : Nat) (first : CellRef)
  /-- SELF_TEST_LIMIT_EXPIRE, R443. -/
  | selfTestLimitExpire
  /-- SIDEBAND_FUNCTION_WRITE, R458. -/
  | sidebandFunctionWrite (via : Via) (pin value : Nat)
  /-- SIDEBAND_INPUT_CHANGE, R457. -/
  | sidebandInputChange (pin : Nat) (level : Bool)
  /-- SYNC_PULSE_END, R459. -/
  | syncPulseEnd (pin : Nat)
  /-- HOLDOVER_TICK, R299. -/
  | holdoverTick
  /-- SUPPLY_GOOD, R304. -/
  | supplyGood (field : Nat)
  /-- OVERLAY_TRAINING_COMPLETE, R428. -/
  | overlayTrainingComplete (failed : SiteFailures)
  /-- BUS_REGULATION_REACHED, R428. -/
  | busRegulationReached
  /-- RESET_N_RELEASE, R428. -/
  | resetNRelease
  /-- ASSAY_PARAMETER_CHANGE, R347. -/
  | assayParameterChange (c : AssayChange)
  /-- SEAL_SWITCH_RELEASE, R347. -/
  | sealSwitchRelease
deriving DecidableEq, Repr

end Sys2Proof
end

