-- ==== Sys2Proof/Config.lean ====
section
/-!
DEFINITION. The values that the spec leaves open and that no claim may rest on: constants without a body.
-/

namespace Sys2Proof.Config

/-- Which of the chain-precision values within 1 unit in the last place the drain gives for a function of R133: by the code
of R132, whether the chain precision is binary64, and the bits of the input. -/
opaque drainPick : Nat → Bool → Nat → Nat

/-- The n-th random permit nonce (R386). -/
opaque freeNonce : Nat → Word64

/-- Static energy of a field in a 1 ms interval, in µJ, by field, voltage in mV, clock target code and temperature in
0.1 °C: calibrated by the vendor (R320). -/
opaque staticEnergy : Nat → Nat → Nat → Int → Nat

/-- Supply set point of a field for a clock target code, in 2.5 mV steps: the vendor's calibration at test (R317). -/
opaque setPoint : Nat → Nat → Nat

/-- Activity coefficient of a field, at a calibration point, for a category of R320, in nJ: the vendor's calibration at test. -/
opaque coefficient : Nat → Nat → Nat → Nat

/-- Firmware identifier of the Assay, by the checksum of its firmware (R345, R348). -/
opaque firmwareIdent : Nat → Nat

/-- How far a save that a module reset cuts has come, by the count of values drawn: 0 nothing is written, 1 copy 0 is half written, 2 copy 0
is whole, 3 copy 1 is half written as well; others as 0 (R424, R430). -/
opaque saveCut : Nat → Nat

/-- The k-th intermediate group drawn for a packet, by source node and flow sequence (R255). -/
opaque candidate : Nat → Nat → Nat → Nat

/-- Bitmap lines, block lines and blocks of the grid with which the ring switch frames a compressed copy of a source address and
length: the command of R292 does not carry them (R126, R266, R286). -/
opaque tensorShape : Word64 → Nat → Nat × Nat × Nat

/-- How far a field's trim lands from the count asked for, within its 0.1% resolution (R302), by field and window. -/
opaque trimError : Nat → Nat → Int

/-- A compute cell's combining contributions carry the deterministic flag (R200, R203): no field of the spec's configuration
blocks or section image chooses it. By the configuration word of the binding. -/
opaque combineDet : Nat → Bool

/-- The other wafers registered in a job group when a job of it is opened here, by job group ID, domain and the count of openings: no
message of the spec carries a registration (R434). -/
opaque groupMembers : BitVec 32 → Nat → Nat → List Nat

end Sys2Proof.Config
end

