-- ==== Sys2Proof/Machine/Bytes.lean ====
section
/-!
DEFINITION. Byte order, bit fields, sign extension and the two cyclic redundancy checks that the spec names.
-/

namespace Sys2Proof.Machine

/-- A number as n bytes, little-endian (R10). -/
def leBytes : Nat → Nat → List Byte
  | 0, _ => []
  | n + 1, v => BitVec.ofNat 8 v :: leBytes n (v / 256)

/-- The number that bytes spell, little-endian (R10). -/
def leNat : List Byte → Nat
  | [] => 0
  | b :: r => b.toNat + 256 * leNat r

/-- The number that bytes spell, big-endian. -/
def beNat (bs : List Byte) : Nat := leNat bs.reverse

/-- A number as n bytes, big-endian. -/
def beBytes (n v : Nat) : List Byte := (leBytes n v).reverse

/-- Bits hi down to lo of a number (R9). -/
def bitsOf (v hi lo : Nat) : Nat := v / 2 ^ lo % 2 ^ (hi + 1 - lo)

/-- One bit of a number. -/
def bitAt (v i : Nat) : Bool := v.testBit i

/-- n bytes of a string from an offset; bytes beyond its end read as zero. -/
def slice (bs : List Byte) (off n : Nat) : List Byte :=
  let t := (bs.drop off).take n
  t ++ List.replicate (n - t.length) 0

/-- A little-endian field of a string. -/
def fieldAt (bs : List Byte) (off n : Nat) : Nat := leNat (slice bs off n)

/-- A two's complement number of w bits as an integer. -/
def signed (w v : Nat) : Int :=
  let u := v % 2 ^ w
  if u < 2 ^ (w - 1) then (u : Int) else (u : Int) - (2 ^ w : Nat)

/-- An integer as a two's complement number of w bits. -/
def unsigned (w : Nat) (i : Int) : Nat := (i % ((2 ^ w : Nat) : Int)).toNat

/-- A count that stops at 0xFFFF_FFFF. -/
def sat32 (n : Nat) : Nat := min n 0xFFFFFFFF

/-- The characters of a string as bytes, padded with zeros to n. -/
def strBytes (t : String) (n : Nat) : List Byte :=
  slice (t.toList.map (fun ch => BitVec.ofNat 8 ch.toNat)) 0 n

/-- One bit step of the reflected CRC-32C register. -/
def crc32cBit (r : Nat) : Nat := if r % 2 = 1 then (r / 2) ^^^ 0x82F63B78 else r / 2

/-- One byte step of the reflected CRC-32C register. -/
def crc32cByte (r : Nat) (b : Byte) : Nat :=
  (List.range 8).foldl (fun r _ => crc32cBit r) (r ^^^ b.toNat)

/-- CRC-32C of a string (R142, R248, R353, R423): the Castagnoli polynomial, reflected, initial value and final inversion
all ones. PRESUMED from the name: the spec gives no polynomial (log 11). -/
def crc32c (bs : List Byte) : Nat := (bs.foldl crc32cByte 0xFFFFFFFF) ^^^ 0xFFFFFFFF

/-- One byte step of the CRC-16 of R296: polynomial 0x1021, most significant bit first. -/
def crc16Byte (r : Nat) (b : Byte) : Nat :=
  (List.range 8).foldl
    (fun r _ => if r ≥ 0x8000 then ((r * 2) % 0x10000) ^^^ 0x1021 else (r * 2) % 0x10000)
    (r ^^^ (b.toNat * 256))

/-- The CRC-16 of R296 over a string: polynomial 0x1021, initial value 0xFFFF. -/
def crc16 (bs : List Byte) : Nat := bs.foldl crc16Byte 0xFFFF

end Sys2Proof.Machine
end

