-- ==== Sys2Proof/Machine/Operands.lean ====
section
/-!
DEFINITION. Element formats, the configuration words of compute cells and generators, and exact numbers (R52 to R58, R70
to R80, R89 to R95).
-/

namespace Sys2Proof.Machine

/-! ## Exact numbers -/

/-- An exact value: NaN, an infinity, or (−1)^neg × man × 2^exp. The low bit of man stands for every bit beyond it where a
value is not a dyadic number. -/
inductive Num where
  | nan
  | inf (neg : Bool)
  | fin (neg : Bool) (man : Nat) (exp : Int)
deriving DecidableEq, Repr

/-- A zero of a sign. -/
def Num.zero (neg : Bool) : Num := .fin neg 0 0

/-- The value is a NaN. -/
def Num.isNan : Num → Bool
  | .nan => true
  | _ => false

/-- The value is infinite. -/
def Num.isInf : Num → Bool
  | .inf _ => true
  | _ => false

/-- The value is a zero of either sign. -/
def Num.isZero : Num → Bool
  | .fin _ m _ => m == 0
  | _ => false

/-- The sign of a value. -/
def Num.sign : Num → Bool
  | .nan => false
  | .inf n => n
  | .fin n _ _ => n

/-- The number of bits of a magnitude. -/
def bitLen (n : Nat) : Nat := if n = 0 then 0 else n.log2 + 1

/-- 2 to an integer power as a shift of a magnitude, for exponents at or above the lower one. -/
def shiftTo (man : Nat) (exp lo : Int) : Nat := man * 2 ^ (exp - lo).toNat

/-- A signed sum of two finite values, exact. -/
def addFin (n1 : Bool) (m1 : Nat) (e1 : Int) (n2 : Bool) (m2 : Nat) (e2 : Int) : Int × Int :=
  let lo := min e1 e2
  let a : Int := shiftTo m1 e1 lo
  let b : Int := shiftTo m2 e2 lo
  ((if n1 then -a else a) + (if n2 then -b else b), lo)

/-! ## Formats (R54, R89, R90) -/

/-- Bits of an element of a format code (R54). -/
def fmtBits (f : Nat) : Nat :=
  match f with
  | 0 | 1 => 16
  | 2 | 3 | 6 | 7 => 8
  | 4 => 6
  | 5 | 8 => 4
  | 9 => 32
  | 10 => 64
  | _ => 8

/-- The format is an integer format (R90). -/
def fmtInt (f : Nat) : Bool := f == 6 || f == 7 || f == 8

/-- Exponent bits, fraction bits and bias of a floating-point format (R89). -/
def fmtShape (f : Nat) : Nat × Nat × Nat :=
  match f with
  | 0 => (5, 10, 15)
  | 1 => (8, 7, 127)
  | 2 => (4, 3, 7)
  | 3 => (5, 2, 15)
  | 4 => (3, 2, 3)
  | 5 => (2, 1, 1)
  | 9 => (8, 23, 127)
  | _ => (11, 52, 1023)

/-- The format has infinities: an exponent of all ones with a zero fraction (R89). -/
def fmtHasInf (f : Nat) : Bool := f == 0 || f == 1 || f == 3 || f == 9 || f == 10

/-- The exponent of the smallest normal (R89). -/
def fmtMinExp (f : Nat) : Int := 1 - ((fmtShape f).2.2 : Int)

/-- The exponent of the largest finite value (R89). -/
def fmtMaxExp (f : Nat) : Int :=
  let (e, _, b) := fmtShape f
  if fmtHasInf f then (2 ^ e : Nat) - 2 - (b : Int) else (2 ^ e : Nat) - 1 - (b : Int)

/-- The largest finite magnitude: all fraction bits set (R89). -/
def fmtMax (f : Nat) : Num :=
  let (_, m, _) := fmtShape f
  .fin false (2 ^ (m + 1) - 1) (fmtMaxExp f - m)

/-- Least and greatest integer of an integer format (R90). -/
def intRange (f : Nat) : Int × Int :=
  match f with
  | 6 => (-128, 127)
  | 7 => (0, 255)
  | _ => (-8, 7)

/-- The format is the tensor path's, where subnormals are flushed, or a short format, flushed on both paths (R88). -/
def fmtFlush (tensor : Bool) (f : Nat) : Bool :=
  match f with
  | 0 | 1 => tensor
  | 2 | 3 | 4 | 5 => true
  | _ => false

/-- A decoded element: value, flushed on input, NaN, signalling NaN (R88, R93, R95). -/
structure Elem where
  num : Num
  flushed : Bool := false
  nan : Bool := false
  snan : Bool := false
deriving DecidableEq, Repr

/-- Decodes an element code of a format on the tensor or the element-wise path (R88 to R95). -/
def decodeElem (tensor : Bool) (f bits : Nat) : Elem :=
  if fmtInt f then
    let v := if f = 7 then (bits % 256 : Int) else signed (fmtBits f) bits
    ⟨.fin (decide (v < 0)) v.natAbs 0, false, false, false⟩
  else
    let (e, m, b) := fmtShape f
    let frac := bits % 2 ^ m
    let ex := bits / 2 ^ m % 2 ^ e
    let neg := bits / 2 ^ (e + m) % 2 == 1
    if f = 2 ∧ bits % 256 = 0x80 then ⟨.nan, false, true, false⟩
    else if fmtHasInf f ∧ ex = 2 ^ e - 1 then
      if frac = 0 then ⟨.inf neg, false, false, false⟩
      else ⟨.nan, false, true, !tensor && f != 3 && frac < 2 ^ (m - 1)⟩
    else if ex = 0 then
      if frac = 0 then ⟨.zero neg, false, false, false⟩
      else if fmtFlush tensor f then ⟨.zero neg, true, false, false⟩
      else ⟨.fin neg frac (1 - (b : Int) - m), false, false, false⟩
    else ⟨.fin neg (2 ^ m + frac) ((ex : Int) - b - m), false, false, false⟩

/-- The factor of an E8 scale code as an exponent; none for the NaN scale (R90). -/
def scaleExp (e : Nat) : Option Int := if e = 255 then none else some ((e : Int) - 127)

/-- Element i of a packed row that begins at a byte: little-endian bit order (R91). -/
def getElem (bs : List Byte) (base f i : Nat) : Nat :=
  let w := fmtBits f
  let lo := i * w
  fieldAt bs (base + lo / 8) 9 / 2 ^ (lo % 8) % 2 ^ w

/-- Bytes of n elements of a format. -/
def packedBytes (f n : Nat) : Nat := (n * fmtBits f + 7) / 8

/-! ## The compute cell configuration block (R52 to R58) -/

/-- A word of a configuration block. -/
def cfgWord (cfg : List Word32) (i : Nat) : Nat := (cfg.getD i 0).toNat

/-- Operation class: 0 idle, 1 tensor, 2 element-wise (R53). -/
def ccClass (cfg : List Word32) : Nat := bitsOf (cfgWord cfg 0) 31 28
/-- A format (R53). -/
def ccFmtA (cfg : List Word32) : Nat := bitsOf (cfgWord cfg 0) 27 24
/-- B format (R53). -/
def ccFmtB (cfg : List Word32) : Nat := bitsOf (cfgWord cfg 0) 23 20
/-- Output format (R53). -/
def ccFmtOut (cfg : List Word32) : Nat := bitsOf (cfgWord cfg 0) 19 16
/-- Final rounding (R53). -/
def ccMode (cfg : List Word32) : Nat := bitsOf (cfgWord cfg 0) 15 14
/-- Sparsity of A (R53). -/
def ccSparsity (cfg : List Word32) : Nat := bitsOf (cfgWord cfg 0) 13 12
/-- Block scales (R53). -/
def ccScales (cfg : List Word32) : Bool := bitAt (cfgWord cfg 0) 11
/-- Chain precision is binary64 (R53). -/
def ccChain64 (cfg : List Word32) : Bool := bitAt (cfgWord cfg 0) 10
/-- K steps (R52). -/
def ccKSteps (cfg : List Word32) : Nat := bitsOf (cfgWord cfg 1) 31 8
/-- M blocks (R52). -/
def ccMb (cfg : List Word32) : Nat := bitsOf (cfgWord cfg 2) 31 24
/-- N blocks (R52). -/
def ccNb (cfg : List Word32) : Nat := bitsOf (cfgWord cfg 2) 23 16
/-- Window W (R52). -/
def ccWindow (cfg : List Word32) : Nat := bitsOf (cfgWord cfg 2) 15 11 + 1
/-- First line of the constant table (R52). -/
def ccConstLine (cfg : List Word32) : Nat := bitsOf (cfgWord cfg 5) 31 22
/-- Drain chain operation i as a byte (R52). -/
def ccChainOp (cfg : List Word32) (i : Nat) : Nat :=
  let w := cfgWord cfg (3 + i / 4)
  bitsOf w (31 - i % 4 * 8) (24 - i % 4 * 8)

/-- The chain up to its end code (R55). -/
def ccChain (cfg : List Word32) : List Nat :=
  ((List.range 8).map (ccChainOp cfg)).takeWhile (fun b => b / 8 != 0)

/-- A port descriptor (R56). -/
structure PortDesc where
  mode : Nat
  binding : Nat
  depth : Nat
  base : Nat
  size : Nat
deriving DecidableEq, Repr

/-- Reads a port descriptor (R56). -/
def portDesc (w : Nat) : PortDesc :=
  ⟨bitsOf w 31 30, bitsOf w 29 28, bitsOf w 27 25 + 1, bitsOf w 24 15, bitsOf w 14 5⟩

/-- Operand port i, or the output port for i = 4 (R52). Port 1 of an element-wise actor is unused, whatever its descriptor says
(R52, R55). -/
def ccPort (cfg : List Word32) (i : Nat) : PortDesc :=
  let d := portDesc (cfgWord cfg (6 + i))
  if i = 1 ∧ ccClass cfg = 2 then { d with mode := 0 } else d

/-- A binding word (R58). -/
structure Binding where
  enable : Bool
  kind : Nat
  depth : Nat
  x : Nat
  y : Nat
  slot : Nat
  peer : Nat
deriving DecidableEq, Repr

/-- Reads a binding word (R58). -/
def bindingOf (w : Nat) : Binding :=
  ⟨bitAt w 31, bitsOf w 30 29, bitsOf w 28 25 + 1, bitsOf w 24 16, bitsOf w 15 7, bitsOf w 6 5, bitsOf w 4 3⟩

/-- Inbound binding i (R52). -/
def ccIn (cfg : List Word32) (i : Nat) : Binding := bindingOf (cfgWord cfg (12 + i))

/-- Outbound binding i (R52). -/
def ccOut (cfg : List Word32) (i : Nat) : Binding := bindingOf (cfgWord cfg (16 + i))

/-- The buffer of a tag in a ring: its first line (R57). -/
def bufferLine (d : PortDesc) (tag : Nat) : Nat := d.base + tag % d.depth * d.size

/-- N of R49 and R118: columns of an output block. -/
def ccN (cfg : List Word32) : Nat :=
  if ccClass cfg = 2 then 16
  else
    let w := max (fmtBits (ccFmtA cfg)) (fmtBits (ccFmtB cfg))
    if w ≥ 16 then 12 else if w ≥ 6 then 24 else 48

/-- Rows of the output (R114). -/
def ccRows (cfg : List Word32) : Nat := 16 * ccMb cfg

/-- Columns of the output (R114, R118). -/
def ccCols (cfg : List Word32) : Nat := ccN cfg * ccNb cfg

/-- Logical K (R114). -/
def ccK (cfg : List Word32) : Nat := if ccSparsity cfg = 1 then 2 * ccKSteps cfg else ccKSteps cfg

/-- The element format of an operand port: A, B, and for ports 2 and 3 the output format or the chain precision (R129). -/
def portFmt (cfg : List Word32) (i : Nat) : Nat :=
  match i with
  | 0 => ccFmtA cfg
  | 1 => ccFmtB cfg
  | 2 => ccFmtOut cfg
  | _ => if ccChain64 cfg then 10 else 9

/-- Lines of a region of n bytes. -/
def lines (n : Nat) : Nat := (n + 63) / 64

/-- First byte of each region of the A buffer: values, codes or blocks, scales (R116, R123, R126). The codes take K/8 bytes a row,
packed back to back, which is half a byte more than a whole number where K is 4 modulo 8 (R123; log 125). DESIGN CHOICE (log 126):
the spec gives no place for the scales of a block-sparse A; they follow the worst-case block slots in the dense order. -/
def aRegions (cfg : List Word32) : Nat × Nat × Nat :=
  let f := ccFmtA cfg
  let rows := ccRows cfg
  let k := ccK cfg
  match ccSparsity cfg with
  | 1 =>
    let vals := lines (rows * packedBytes f (k / 2)) * 64
    let codes := lines (rows * k / 8) * 64
    (0, vals, vals + codes)
  | 2 =>
    let grid := ccMb cfg * (k / 16)
    let map := lines ((grid + 7) / 8) * 64
    let blk := lines (packedBytes f 256) * 64
    (0, map, map + grid * blk)
  | _ => (0, 0, lines (rows * packedBytes f k) * 64)

/-- Lines that the regions of a port need (R116 to R118, R129, R131). -/
def portNeed (cfg : List Word32) (i : Nat) : Nat :=
  let rows := ccRows cfg
  let cols := ccCols cfg
  let k := ccK cfg
  match i with
  | 0 =>
    if ccClass cfg = 2 then lines (rows * packedBytes (ccFmtA cfg) cols)
    else
      let sc := (aRegions cfg).2.2
      sc / 64 + (if ccScales cfg then lines (rows * (k / 32)) else 0)
  | 1 => lines (k * packedBytes (ccFmtB cfg) cols) + (if ccScales cfg then lines (k / 32 * cols) else 0)
  | 2 => lines (rows * packedBytes (ccFmtOut cfg) cols)
  | 3 => lines (rows * (if ccChain64 cfg then 8 else 4))
  | _ => lines (rows * packedBytes (ccFmtOut cfg) cols)

/-- Length of the constant table in lines (R130). -/
def constLines (cfg : List Word32) : Nat :=
  let sel := (ccChain cfg).map (fun b => b % 8)
  let top := sel.foldl (fun m x => if 1 ≤ x ∧ x ≤ 4 then max m x else m) 0
  if top = 0 ∧ !sel.contains 7 then 0
  else 1 + top * lines (ccCols cfg * (if ccChain64 cfg then 8 else 4))

/-! ## The address generator block (R70 to R80) -/

/-- The program runs at section start (R71). -/
def agEnable (cfg : List Word32) : Bool := bitAt (cfgWord cfg 0) 31
/-- Number of loops (R71). -/
def agLoops (cfg : List Word32) : Nat := bitsOf (cfgWord cfg 0) 30 28 + 1
/-- Element format (R71). -/
def agFmt (cfg : List Word32) : Nat := bitsOf (cfgWord cfg 0) 27 24
/-- Elements of a run (R71). -/
def agRun (cfg : List Word32) : Nat := bitsOf (cfgWord cfg 3) 31 18 + 1
/-- Source space, slot and byte address (R72). -/
def agSrc (cfg : List Word32) : Nat × Nat × Nat :=
  let w := cfgWord cfg 1
  (bitsOf w 31 30, bitsOf w 29 28, bitsOf w 21 0)
/-- Destination space, slot and byte address (R72). -/
def agDst (cfg : List Word32) : Nat × Nat × Nat :=
  let w := cfgWord cfg 2
  (bitsOf w 31 30, bitsOf w 29 28, bitsOf w 21 0)
/-- Count of loop i (R74). -/
def agCount (cfg : List Word32) (i : Nat) : Nat := bitsOf (cfgWord cfg (4 + i)) 31 22 + 1
/-- Stride of loop i in bytes (R74). -/
def agStride (cfg : List Word32) (i : Nat) : Int := signed 22 (bitsOf (cfgWord cfg (4 + i)) 21 0)
/-- Row loop of the predicate (R76). -/
def agRowLoop (cfg : List Word32) : Nat := bitsOf (cfgWord cfg 10) 31 29
/-- Row limit, the extended one for row loop 6 (R76). -/
def agRowLimit (cfg : List Word32) : Nat :=
  if agRowLoop cfg = 6 then cfgWord cfg 13 else bitsOf (cfgWord cfg 10) 28 16
/-- Column limit, if columns are masked (R76). -/
def agColLimit (cfg : List Word32) : Option Nat :=
  if bitAt (cfgWord cfg 10) 15 then some (bitsOf (cfgWord cfg 10) 14 0) else none
/-- First tag (R78). -/
def agFirstTag (cfg : List Word32) : Nat := bitsOf (cfgWord cfg 12) 31 16
/-- Token loop (R78). -/
def agTokenLoop (cfg : List Word32) : Nat := bitsOf (cfgWord cfg 12) 15 13
/-- Halo widths north, south, east, west (R80). -/
def agHalo (cfg : List Word32) : Nat × Nat × Nat × Nat :=
  let w := cfgWord cfg 11
  (bitsOf w 31 28, bitsOf w 27 24, bitsOf w 23 20, bitsOf w 19 16)
/-- Corner blocks are exchanged (R80). -/
def agCorners (cfg : List Word32) : Bool := bitAt (cfgWord cfg 11) 15
/-- Receive base in the staging bank, in bytes (R80). -/
def agRecvBase (cfg : List Word32) : Nat := bitsOf (cfgWord cfg 11) 9 0 * 128
/-- The program has a halo window (R80). -/
def agHasHalo (cfg : List Word32) : Bool :=
  let (n, so, e, w) := agHalo cfg
  n + so + e + w > 0
/-- Iterations of the token loop and every loop above it, or 1 for token loop 6 (R147). -/
def agTokens (cfg : List Word32) : Nat :=
  if agTokenLoop cfg ≥ 6 then 1
  else ((List.range (agLoops cfg)).filter (fun i => agTokenLoop cfg ≤ i)).foldl (fun a i => a * agCount cfg i) 1
/-- Iterations of the loops below the token loop that make one token's block; all loops for token loop 6 (R78). -/
def agPerToken (cfg : List Word32) : Nat :=
  ((List.range (agLoops cfg)).filter (fun i => i < agTokenLoop cfg || agTokenLoop cfg ≥ 6)).foldl (fun a i => a * agCount cfg i) 1

end Sys2Proof.Machine
end

