-- ==== Sys2Proof/Machine/State.lean ====
section
/-!
DEFINITION. The state of the ZW56 module as plain data, the reasons a step can stop, and the state right after reset.
-/

namespace Sys2Proof.Machine

/-- The model raises no fault: every condition that the spec calls a fault is an event, a status or a discarded packet
of the next state, as R13 says, so no constructor is needed to stop the machine. -/
inductive Fault where
deriving DecidableEq, Repr

/-- The reasons for which a command is turned away. -/
inductive Refusal where
  /-- Raised by exec for a command that has no meaning yet; safe: the model stops where the hardware goes on. -/
  | notModelled (mnemonic : String)
deriving DecidableEq, Repr

/-- The reference states of 0x2100:01 (R299, R311). -/
inductive RefState where
  | noLock
  | locked
  | holdover
  | holdoverLong
deriving DecidableEq, Repr

/-- The field clock states of 0x2112 (R304, R305, R311). -/
inductive FcState where
  | off
  | settling
  | locking
  | locked
  | failed
deriving DecidableEq, Repr

/-- The bands of the HV inlet (R312); absent is the inlet with no voltage at the standby converter. -/
inductive HvBand where
  | absent
  | outOfRange
  | warning
  | operating
deriving DecidableEq, Repr

/-- The port states of 0x2611 (R240, R274). -/
inductive PortState where
  | down
  | training
  | discovery
  | up
  | refused
  | disabled
deriving DecidableEq, Repr

/-- The states of a tile site (R189, R206). -/
inductive SiteState where
  | enabled
  | spare
  | spareAssigned
  | absentAtTest
  | retiredCovered
  | retiredUncovered
deriving DecidableEq, Repr

/-- The states of an existing partition in 0x2404 (R391). -/
inductive PState where
  | ready
  | jobOpen
  | resetting
  | scrubbing
deriving DecidableEq, Repr

/-- What a tile does in the current run (R158, R159, R86). -/
inductive TileRun where
  | idle
  | loading
  | running
  | finished
  | stopped
deriving DecidableEq, Repr

/-- What a key slot holds (R377, R392). -/
inductive SlotUse where
  | empty
  | staged
  | loaded
deriving DecidableEq, Repr

/-- The firmware slot states of 0x2910 and 0x2911 (R388, R427). -/
inductive ImgSlot where
  | empty
  | valid
  | invalid
  | trial
deriving DecidableEq, Repr

/-- The standby states of 0x2720:06 (R417). -/
inductive StandbyState where
  | absent
  | booting
  | ready
  | trial
  | halted
deriving DecidableEq, Repr

/-- The job states of 0x2820 (R364). -/
inductive JobMark where
  | none
  | open
  | started
  | stopped
  | closed
deriving DecidableEq, Repr

/-- An error in a 64-bit word of a store (R67): a single-bit error not yet counted, one counted and awaiting its write-back, or a double-bit error. -/
inductive EccMark where
  | single
  | counted
  | double
deriving DecidableEq, Repr

/-- The LED check results of R351. -/
inductive LedCheck where
  | notYetRun
  | good
  | failed
  | unverified
deriving DecidableEq, Repr

/-- Who uses a field (R372, 0x2400:04): idle, being scrubbed, or held by a partition. -/
inductive FieldOwner where
  | idle
  | scrubbing
  | held (part : Nat)
deriving DecidableEq, Repr

/-- A sync counter by its holder (R217): a tile counter of a site, or a crest counter by its index. -/
inductive CtrKey where
  | tile (site index : Nat)
  | crest (index : Nat)
deriving DecidableEq, Repr

/-- A packet or control message on the wafer mesh (R178, R181): its header, its type or kind, and its payload bytes (words
2 onwards of a control message, little-endian). -/
structure MeshMsg where
  head : Head
  control : Bool
  kind : Nat
  body : List Byte
deriving DecidableEq, Repr

/-- Who issued an operation that the ring switch executes (R286, R289, R292). -/
inductive Issuer where
  | host (node domain : Nat) (tag : BitVec 16) (port : Nat)
  | cell (x y reqId domain : Nat)
  | bulkLoad (id : Nat)
  | bulkStore (id : Nat)

deriving DecidableEq, Repr

/-- A sync counter (R218). -/
structure Counter where
  /-- Produced count (R218). -/
  p : Count48 := 0
  /-- Consumed count (R218). -/
  c : Count48 := 0
  /-- Bound B (R218). -/
  bound : BitVec 16 := 0xFFFF
deriving DecidableEq, Repr

/-- A registered watch (R223, R226). -/
structure Watch where
  /-- The watched counter (R223). -/
  key : CtrKey := .crest 0
  /-- The condition is on c, else on p (R226). -/
  onC : Bool := false
  /-- The value waited for (R226). -/
  v : Count48 := 0
  /-- Domain of word 1 (R226). -/
  domain : Nat := 0
  /-- Tag of word 1 (R226). -/
  tag : BitVec 16 := 0
  /-- Notification x, y and slot (R226). -/
  tgtCell : CellRef := ⟨0, 0, 0⟩
  /-- Notification target (R226). -/
  tgtTarget : Nat := 0
  /-- Watch ID and host node of a host watch (R235). -/
  host : Option (BitVec 32 × Nat) := none
deriving DecidableEq, Repr

/-- One set of the five numeric counters of a compute cell (R108, R110). -/
structure NumCounters where
  /-- Flushed on input (R108). -/
  flushIn : Nat := 0
  /-- Flushed on output (R108). -/
  flushOut : Nat := 0
  /-- Saturated (R108). -/
  saturated : Nat := 0
  /-- NaN inputs (R108). -/
  nanIn : Nat := 0
  /-- Invalid operations (R108). -/
  invalid : Nat := 0
deriving DecidableEq, Repr

/-- An arrival at an inbound binding (R60, R83, R182). -/
structure Arrival where
  /-- Iteration tag (R60). -/
  tag : BitVec 16 := 0
  /-- Tuple of a value-mode arrival (R57). -/
  words : List Word32 := []
  /-- Valid rows of a token (R77). -/
  rows : Nat := 0
  /-- Valid columns of a token (R77). -/
  cols : Nat := 0
deriving DecidableEq, Repr

/-- A slot of the tag-match table (R60 to R64). -/
structure TagSlot where
  /-- Slot number 0 to 31 (R60). -/
  index : Nat := 0
  /-- The tag that the slot holds (R60). -/
  tag : BitVec 16 := 0
  /-- Allocation order, which decides the reference tag (R64). -/
  age : Nat := 0
  /-- The arrival of each port present (R60). -/
  present : AMap Arrival := []
  /-- Order in which slots became ready (R62). -/
  readyAt : Option Nat := none
deriving DecidableEq, Repr

/-- One of the two accumulator banks of a compute cell, as it stands once its output block is complete (R48, R50). -/
structure Bank where
  /-- The tag whose last output block it holds (R50). -/
  tag : BitVec 16 := 0
  /-- The exact sums of the block, row by row (R50). -/
  sums : List Num := []
deriving DecidableEq, Repr

/-- A fired tag in the pipeline (R48, R63, R116). -/
structure Fired where
  /-- The tag (R61). -/
  tag : BitVec 16 := 0
  /-- Cycles from its first K step, or first line, to its last (R49, R61). -/
  steps : Nat := 0
  /-- Output blocks of the tag; 0 for an element-wise actor, which fills no bank (R49, R50). -/
  blocks : Nat := 0
  /-- The sums of its last output block (R50). -/
  sums : List Num := []
  /-- Output element codes row by row, none where masked (R121) (R116). -/
  elems : List (Option Nat) := []
  /-- Valid rows of A (R121). -/
  rows : Nat := 0
  /-- Valid columns of B (R121). -/
  cols : Nat := 0
  /-- The port buffers are released (R63). -/
  released : Bool := false
deriving DecidableEq, Repr

/-- A compute cell (R47, R52 to R65, R108). -/
structure CC where
  /-- Configuration block (R52). -/
  cfg : List Word32 := []
  /-- Tag-match table (R60). -/
  slots : List TagSlot := []
  /-- Inbound binding queues (R58, R83). -/
  queues : AMap (List Arrival) := []
  /-- Stationary ports filled, with their valid counts (R57). -/
  filled : AMap Arrival := []
  /-- Last tag fired in the section (R64). -/
  lastFired : Option (BitVec 16) := none
  /-- Tags fired in this run (R147). -/
  firedCount : Nat := 0
  /-- Tags drained in this run (R147). -/
  drainedCount : Nat := 0
  /-- Order of arrivals at this cell (R62, R64). -/
  clock : Nat := 0
  /-- Tags fired and not yet drained (R48, R50). -/
  pipe : List Fired := []
  /-- The accumulator banks that hold a complete block and are not drained, oldest first: at most two (R50). -/
  banks : List Bank := []
  /-- Rows and columns, from the first, of each stationary port's elements that the section has counted (R109). -/
  counted : AMap (List (Nat × Nat)) := []
  /-- Buffers of each outbound binding's ring that are in use (R207). -/
  outCredits : AMap Nat := []
  /-- Credits that the consumers of a one-to-many binding have returned for buffers still held, by binding and consumer: binding × 65,536
  + the consumer's place in the list of R209 (R209). -/
  creditWait : AMap Nat := []
  /-- Bytes of the block of each binding and tag that have arrived (R207). -/
  streamFill : AMap Nat := []
  /-- Counters of the current section (R108). -/
  current : NumCounters := {}
  /-- Counters of the section before (R110). -/
  previous : NumCounters := {}
  /-- Section number of the current set (R111). -/
  curSection : Nat := 0
  /-- Section number of the previous set (R111). -/
  prevSection : Nat := 0
  /-- Stopped by a cell fault or an abort (R85). -/
  stopped : Bool := false
deriving DecidableEq, Repr

/-- A combining piece held ahead of its turn; its elements are in its slot of the staging bank (R215). -/
structure HeldPiece where
  /-- Buffer t mod D (R215). -/
  buffer : Nat := 0
  /-- Piece j (R215). -/
  piece : Nat := 0
  /-- Contributor ordinal (R215). -/
  ordinal : Nat := 0
  /-- Contributor count of the piece (R215). -/
  count : Nat := 0
deriving DecidableEq, Repr

/-- An address generator of a memory cell (R70 to R81, R138, R213 to R216). -/
structure AG where
  /-- Configuration block (R70). -/
  cfg : List Word32 := []
  /-- Ring depth copied by the loader (R73). -/
  depth : Nat := 0
  /-- Ring buffer lines copied by the loader (R73). -/
  size : Nat := 0
  /-- Iterations of the token loop completed (R78). -/
  next : Nat := 0
  /-- Buffers filled whose credit has not returned; a stationary port returns none (R79). -/
  used : Nat := 0
  /-- Tokens of a ring source not yet consumed (R73). -/
  tokens : List Arrival := []
  /-- Strips received and not yet used, by receive region (R81). -/
  haloGot : AMap Nat := []
  /-- Bytes received of the strip that is arriving, by receive region (R81, R178). -/
  haloFill : AMap Nat := []
  /-- Buffers for which the own strips have been sent (R81). -/
  haloSent : Nat := 0
  /-- The staging token has arrived at this reader (R138). -/
  handoff : Bool := false
  /-- The writer's one credit is out with its reader (R138). -/
  handoffOut : Bool := false
  /-- The program has finished (R147). -/
  finished : Bool := false
  /-- Stopped by a cell fault or an abort (R86). -/
  stopped : Bool := false
  /-- Expected contributor count C_exp; 0 where the generator is no home (R213). -/
  expected : Nat := 0
  /-- Arrival count of each piece of each buffer (R214). -/
  arrived : AMap Nat := []
  /-- Fills m of each buffer (R214). -/
  fills : AMap Nat := []
  /-- Pieces ahead of their turn (R215). -/
  held : List HeldPiece := []
  /-- Buffers that never complete, a piece of theirs having been discarded (R216). -/
  spoiled : List Nat := []
deriving DecidableEq, Repr

/-- A descriptor at a memory cell (R211, R212, R286, R288). -/
structure Desc where
  /-- Source global address (R211). -/
  src : Word64 := 0
  /-- Bytes to copy (R211). -/
  len : Nat := 0
  /-- Destination space (R211). -/
  space : Nat := 0
  /-- Destination line of 64 bytes (R211). -/
  line : Nat := 0
  /-- Counter space (R211). -/
  crest : Bool := false
  /-- Counter index (R211). -/
  index : Nat := 0
  /-- Domain of the source address (R212). -/
  domain : Nat := 0
  /-- Bytes whose LOADs have been issued (R286). -/
  issued : Nat := 0
  /-- Bytes written (R286). -/
  arrived : Nat := 0
  /-- Outstanding LOADs: request ID, with start offset and bytes still to come (R286). -/
  loads : AMap (Nat × Nat) := []
  /-- A part has failed (R212). -/
  failed : Bool := false
deriving DecidableEq, Repr

/-- A tile (R20): its cells, generators and sync unit. -/
structure Tile where
  /-- Compute cells by slot (R20). -/
  cc : AMap CC := []
  /-- Address generators by number (R66). -/
  ag : AMap AG := []
  /-- What the tile does in the current run (R158, R159). -/
  run : TileRun := .idle
  /-- Overlay address of its loaded record (R145). -/
  base : Nat := 0
  /-- Tile sync counters (R217). -/
  counters : AMap Counter := []
  /-- Counter operations awaiting ACK at the sync unit (R222). -/
  opsOut : Nat := 0
  /-- ACKs and READ_REPLYs passed on to agents: slot, target, status, p, c (R222). -/
  agent : List (Nat × Nat × Nat × Nat × Nat) := []
  /-- Descriptors executing (R288). -/
  descs : List Desc := []
  /-- Descriptors waiting at the service port (R288). -/
  waiting : List Desc := []
  /-- Remote requests that the memory cell has not yet performed, in arrival order: the first 64 in its queue, the rest held by the
  mesh under on/off flow control (R68, R83, R288). -/
  remote : List (Head × MemReq) := []
  /-- Next request ID that the memory cell chooses (R289). -/
  nextReq : Nat := 0
  /-- Next place in the sample ring (R168). -/
  sampleAt : Nat := 0
  /-- Corrected errors in the current hour (R67, R205). -/
  corrected : Nat := 0
  /-- Hour in which they are counted (R205). -/
  correctedHour : Nat := 0
  /-- Times of uncorrectable errors (R191). -/
  uncorrected : List Nat := []
  /-- MCAST_ACKs received: slot, tag, delivered, refused (R199). -/
  acks : List (Nat × Nat × Nat × Nat) := []
  /-- Detour entry of each mesh output, as direction numbers (R186). -/
  detours : AMap Nat := []
  /-- The router is faulty and treated as off (R204). -/
  routerOff : Bool := false
  /-- The tile has arrived at the pending crest operation (R229). -/
  arrivedAt : Bool := false
  /-- Counter operations held in a freeze, in order (R231, R236). -/
  heldOps : List Instr := []
deriving DecidableEq, Repr

/-- A resident section (R146). -/
structure Section where
  /-- Section number (R146). -/
  number : Nat := 0
  /-- Declared time T, ns (R142). -/
  time : Nat := 0
  /-- Declared energy E, µJ (R142). -/
  energy : Nat := 0
  /-- Configuration base in each overlay (R142). -/
  base : Nat := 0
  /-- Record length in units of 256 bytes (R142). -/
  recLen : Nat := 0
  /-- Physical sites of the mapped tiles (R145). -/
  sites : List Nat := []
  /-- Crest counters and buffer bounds (R143). -/
  counters : List (Nat × Nat) := []
  /-- Edges: producer cell and binding, consumer cell and binding, as cell keys (R143). -/
  edges : List (Nat × Nat × Nat × Nat) := []
  /-- Tags per run of each compute cell (R147). -/
  tags : AMap Nat := []
  /-- Per generator: ring depth, ring size and expected contributors (R73, R213). -/
  rings : AMap (Nat × Nat × Nat) := []
  /-- Contributor ordinal of each combining binding (R203). -/
  ordinals : AMap Nat := []
  /-- Buffers of the ring that each stream or combining binding fills, by cell key × 4 + binding (R73, R207, R213). -/
  depths : AMap Nat := []
  /-- Entries of the queue of each inbound binding in use, by cell key × 4 + binding (R58, R83). -/
  queueDepths : AMap Nat := []
deriving DecidableEq, Repr

/-- A queued run (R153, R155). -/
structure Run where
  /-- Run number (R153). -/
  number : Nat := 0
  /-- Section number (R171). -/
  sec : Nat := 0
  /-- Priority, 7 highest (R155). -/
  prio : Nat := 0
  /-- Predecessor run numbers (R153). -/
  preds : List Nat := []
  /-- Guard on a crest counter (R153). -/
  guard : Guard := ⟨0, 0, 0⟩
  /-- The run is ready (R153). -/
  ready : Bool := false
  /-- When the run became ready (R155). -/
  readySince : Nat := 0
  /-- Event 0x00E has been written for it (R332). -/
  starvedNoted : Bool := false
deriving DecidableEq, Repr

/-- The running run (R140, R158). -/
structure Current where
  /-- Run number (R173). -/
  number : Nat := 0
  /-- Section number (R140). -/
  sec : Nat := 0
  /-- When the run was chosen (R160). -/
  startedAt : Nat := 0
  /-- Tiles past step 5 (R158). -/
  loaded : List Nat := []
  /-- Tiles that reported done (R158). -/
  finished : List Nat := []
  /-- Event 0x381 has been written (R160). -/
  overran : Bool := false
  /-- It is a section of a cadence frame (R166). -/
  frame : Bool := false
deriving DecidableEq, Repr

/-- An open job (R141, R171, R360). -/
structure Job where
  /-- Job ID (R170). -/
  id : BitVec 32 := 0
  /-- Job group ID (R171). -/
  group : BitVec 32 := 0
  /-- Notification node (R171). -/
  notify : Nat := 0
  /-- Nodes of the other members known to be registered in the job group (R434, R229). -/
  members : List Nat := []
  /-- In the started state (R360). -/
  started : Bool := false
  /-- Partition credits of the open ledger second in the intervals the job covers (R362). -/
  credits : Nat := 0
deriving DecidableEq, Repr

/-- The job record of 0x2820 to 0x2823 (R360 to R364). -/
structure JobStamp where
  /-- Job state (R364). -/
  mark : JobMark := .none
  /-- Start tick, ms (R364). -/
  start : Word64 := 0
  /-- Stop tick, ms (R364). -/
  stop : Word64 := 0
  /-- Job energy, mJ (R364). -/
  energy : Nat := 0
deriving DecidableEq, Repr

/-- An admitted frame list (R163 to R167). -/
structure Cadence where
  /-- P, ns (R163). -/
  period : Nat := 0
  /-- T_f, ns (R164). -/
  estimate : Nat := 0
  /-- E_f, mJ (R164). -/
  energy : Nat := 0
  /-- Section numbers in frame order (R171). -/
  sections : List Nat := []
  /-- W_0 in tenths of a ns on the reference-cycle time base (R163). -/
  w0 : Int := 0
  /-- W_0 waits for the first 1 ms tick after admission (R163). -/
  w0Tick : Bool := false
  /-- Index of the next window to open (R163). -/
  nextK : Nat := 0
  /-- Windows opened while a frame or run held the partition (R165). -/
  undecided : List Nat := []
  /-- Window of the frame in progress (R165). -/
  frameK : Option Nat := none
  /-- Sections of the frame still to run (R166). -/
  frameLeft : List Nat := []
  /-- End of the last frame, in tenths of a ns (R165). -/
  frameEnd : Option Nat := none
  /-- No further frame starts (R171). -/
  stopping : Bool := false
  /-- Cadence state 2, running (R173). -/
  started : Bool := false
deriving DecidableEq, Repr

/-- A commit in progress (R149, R150). -/
structure Commit where
  /-- Image global address (R171). -/
  addr : Word64 := 0
  /-- Image length (R171). -/
  len : Nat := 0
  /-- Requester's node (R172). -/
  node : Nat := 0
  /-- Requester's domain (R39). -/
  domain : Nat := 0
  /-- Request tag (R170). -/
  tag : BitVec 16 := 0
deriving DecidableEq, Repr

/-- A partition reset in progress (R437). -/
structure PReset where
  /-- When it began (R437). -/
  since : Nat := 0
  /-- It ends in a delete (R371, R433). -/
  deleting : Bool := false
  /-- Fields under a field reset not yet complete (R437). -/
  fields : List Nat := []
  /-- Packets reported failed (R440). -/
  failed : Nat := 0
  /-- Operations abandoned (R440). -/
  abandoned : Nat := 0
  /-- Counters discarded (R440). -/
  discarded : Nat := 0
deriving DecidableEq, Repr

/-- A pending host barrier, broadcast or snapshot (R229 to R231). -/
structure HostOp where
  /-- 0 barrier, 1 broadcast, 2 snapshot (R237). -/
  kind : Nat := 0
  /-- Requester's node (R235). -/
  node : Nat := 0
  /-- Request tag (R235). -/
  tag : BitVec 16 := 0
  /-- Arrival crest counter (R229). -/
  arrival : Nat := 0
  /-- Release crest counter (R229). -/
  release : Nat := 0
  /-- Value of the arrival counter waited for (R229). -/
  v : Count48 := 0
  /-- Snapshot address (R231). -/
  addr : Nat := 0
  /-- Sum of the arrivals so far (R229). -/
  sum : Word64 := 0
  /-- This partition has arrived (R229). -/
  arrivedHere : Bool := false
  /-- Other members that have arrived (R229). -/
  members : List Nat := []
  /-- 0 gathering, 1 waiting for the release, 2 collecting, 3 second gathering, 4 waiting for the second release (R231). -/
  phase : Nat := 0
  /-- Operation sequence number (R233). -/
  seq : Nat := 0
deriving DecidableEq, Repr

/-- An existing partition (R36, R370, R391). -/
structure Part where
  /-- West field column (R391). -/
  fx : Nat := 0
  /-- South field row (R391). -/
  fy : Nat := 0
  /-- Fields from west to east (R391). -/
  width : Nat := 1
  /-- Fields from south to north (R391). -/
  height : Nat := 1
  /-- Partition domain (R374). -/
  domain : Nat := 0
  /-- 0 pour, 1 draw, 2 hold (R40). -/
  role : Nat := 0
  /-- Partition state (R391). -/
  pstate : PState := .ready
  /-- The open job (R141). -/
  job : Option Job := none
  /-- Job stamps (R364). -/
  stamp : JobStamp := {}
  /-- Job intervals that ended in the open ledger second: start, stop, credits of the open second, energy of earlier seconds (R362). -/
  ending : List (Word64 × Word64 × Nat × Nat) := []
  /-- Next section number (R146). -/
  nextSection : Nat := 1
  /-- Next run number (R153). -/
  nextRun : Nat := 1
  /-- Resident sections (R146). -/
  resident : List Section := []
  /-- Queued runs, oldest first (R153). -/
  queue : List Run := []
  /-- The running run (R140). -/
  current : Option Current := none
  /-- Ended runs: number, status, code (R172). -/
  ended : List (Nat × Nat × Nat) := []
  /-- The commits in progress, oldest first (R150). -/
  commits : List Commit := []
  /-- Last loader refusal (R173). -/
  lastRefusal : Word64 := 0
  /-- Cadence mode (R163). -/
  cadence : Option Cadence := none
  /-- Section number of the newest run, whose counters are the current set; 0 before any run (R111). -/
  lastSec : Nat := 0
  /-- Section number of the run before it (R110). -/
  prevSec : Nat := 0
  /-- Sampling under way: period in µs, ring base and ring length as read at enable (R168, R173). -/
  sampling : Option (Nat × Nat × Nat) := none
  /-- Frames run since admission (R173). -/
  framesRun : Nat := 0
  /-- Frames late (R173). -/
  framesLate : Nat := 0
  /-- Frames dropped (R173). -/
  framesDropped : Nat := 0
  /-- P as admitted (R173). -/
  framePeriod : Nat := 0
  /-- Available share A_p, W (R331). -/
  share : Nat := 0
  /-- Reservation R_p, W (R329, R341). -/
  reservation : Nat := 0
  /-- Pool weight (R329, R341). -/
  weight : Nat := 0
  /-- Reservation and pool weight in force: as written before the last publication (R330). -/
  inForce : Nat × Nat := (0, 0)
  /-- Attributed energy, µJ (R341). -/
  attributed : Nat := 0
  /-- Credit of the last interval (R324). -/
  lastCredit : Nat := 0
  /-- Credits of the open ledger second (R357). -/
  secondCredit : Nat := 0
  /-- Partition energy, mJ (R364). -/
  energy : Nat := 0
  /-- Tenant energy, J (R359, R364). -/
  tenantEnergy : Nat := 0
  /-- Mapped tiles that are still (R227). -/
  still : List Nat := []
  /-- When the hang timer started (R227). -/
  hangTimer : Option Nat := none
  /-- Hangs raised (R237). -/
  hangs : Nat := 0
  /-- Counter faults (R237). -/
  counterFaults : Nat := 0
  /-- Last hang (R237). -/
  lastHang : Word64 := 0
  /-- Pending global operations (R235). -/
  hostOps : List HostOp := []
  /-- Counters frozen (R231). -/
  frozen : Bool := false
  /-- Crest-counter operations and commands held in a freeze, in order (R231). -/
  heldCrest : List Instr := []
  /-- Next crest operation sequence number (R233). -/
  opSeq : Nat := 0
  /-- Arrivals of other members for an operation not yet commanded here: sequence, node, value (R229). -/
  early : List (Nat × Nat × Word64) := []
  /-- Partition reset in progress (R437). -/
  reset : Option PReset := none
  /-- Partition resets (R446). -/
  resets : Nat := 0
  /-- Last partition reset cause (R446). -/
  resetCause : Nat := 0
  /-- Remote operations served (R293). -/
  served : Nat := 0
  /-- Remote operations refused (R293). -/
  refusedOps : Nat := 0
deriving DecidableEq, Repr

/-- The reference, the time of day and the ring clocks (R295 to R311). -/
structure TimeS where
  /-- Reference cycles since the module first had standby power; the model's time base (R9, R297). -/
  refCycles : Nat := 0
  /-- Time of day, ns (R297, R311). -/
  tod : Word64 := 0
  /-- Tenths of a ns beside the time of day (R297). -/
  todTenths : Nat := 0
  /-- Reference state (R311). -/
  ref : RefState := .noLock
  /-- The link has locked again and holdover ends at the next epoch mark (R299). -/
  regaining : Bool := false
  /-- When holdover began (R299). -/
  holdoverSince : Nat := 0
  /-- Time of the next epoch mark from a good frame (R296). -/
  frameTod : Option Word64 := none
  /-- Flags of the last good frame (R296). -/
  leapFlags : Nat := 0
  /-- TAI − UTC of the last good frame (R296). -/
  utcOffset : BitVec 16 := 0
  /-- Bad time frames (R311). -/
  badFrames : Nat := 0
  /-- Pulse-per-second offset (R311). -/
  ppsOffset : BitVec 32 := 0x7FFFFFFF
  /-- 1 ms ticks since power-up (R297). -/
  ticks : Nat := 0
  /-- Reference cycle of the last tick (R297). -/
  lastTick : Nat := 0
  /-- Ring PLL 0 ready (R311). -/
  pll0 : Bool := false
  /-- Ring PLL 1 ready (R311). -/
  pll1 : Bool := false
deriving DecidableEq, Repr

/-- The clock island of a field (R301 to R305). -/
structure FieldClk where
  /-- Field clock state (R311). -/
  st : FcState := .off
  /-- The loop's internal target (R302). -/
  target : Nat := 0
  /-- Adjustment made at the end of the last window, in codes (R302). -/
  trim : Int := 0
  /-- Mesh cycles in the last window (R311). -/
  measured : Nat := 0
  /-- Consecutive windows within ±0.5% of the effective target (R302). -/
  inBand : Nat := 0
  /-- Windows since the settle delay (R305). -/
  windows : Nat := 0
  /-- Lock failures since the last power-up or wafer reset (R305). -/
  failures : Nat := 0
  /-- Droop windows (R311). -/
  droops : Nat := 0
  /-- Consecutive windows out of lock outside droop (R310). -/
  unlocked : Nat := 0
  /-- The reference cycle at which the settle delay ends (R304). -/
  settleEnd : Nat := 0
  /-- The field has locked since power-up (R302). -/
  everLocked : Bool := false
deriving DecidableEq, Repr

/-- The power and heat of a field (R317 to R343). -/
structure FieldPwr where
  /-- The regulator stack is on (R316). -/
  powered : Bool := false
  /-- Supply good (R304). -/
  good : Bool := false
  /-- Supply fault: unpowered until the next wafer reset (R319). -/
  fault : Bool := false
  /-- Supply set point, in 2.5 mV steps (R317). -/
  setPoint : Nat := 0
  /-- The clock target code whose set point the stack holds (R317). -/
  supplyCode : Nat := 0
  /-- Field voltage, last report (R343). -/
  millivolts : Nat := 0
  /-- Current, last report (R318). -/
  milliamps : Nat := 0
  /-- Field power, last report (R343). -/
  watts : Nat := 0
  /-- The stack's count of delivered energy, µJ (R318). -/
  delivered : Word64 := 0
  /-- That count at the start of the interval (R321). -/
  intervalBase : Word64 := 0
  /-- Reports in this interval (R322). -/
  reports : Nat := 0
  /-- The stack missed a report in the last interval (R46, R322). -/
  missed : Bool := false
  /-- Field energy, µJ (R343). -/
  energy : Nat := 0
  /-- When event 0x009 was last written (R322). -/
  missedAt : Option Nat := none
  /-- Consecutive intervals with the model ratio outside 0.5 to 2.0 (R323). -/
  ratioBad : Nat := 0
  /-- Credits of the field in the last interval by account (R324, R333). -/
  lastCredit : AMap Nat := []
  /-- Activity counts of the interval, by account and category (R320). -/
  activity : AMap Nat := []
  /-- Last sensor readings (R334). -/
  readings : List Int := []
  /-- Field temperature, 0.1 °C (R343). -/
  temp : Int := 0
  /-- Bit per failed sensor (R343). -/
  failedSensors : Nat := 0
  /-- Thermal steps t_f (R343). -/
  tSteps : Nat := 0
  /-- Power steps e_f (R343). -/
  eSteps : Nat := 0
  /-- Thermal steps added (R343). -/
  stepsAdded : Nat := 0
  /-- Event 0x042 written and not yet below 103 °C (R335). -/
  hot103 : Bool := false
  /-- Field owner (R391). -/
  owner : FieldOwner := .idle
  /-- Under a field reset (R432). -/
  resetting : Bool := false
  /-- Field corrected errors (R206). -/
  corrected : Nat := 0
  /-- Span-map generation of the field's first entry (R277). -/
  spanGen : Nat := 0
  /-- The field's span-map entries are valid (R277). -/
  spanValid : Bool := false
deriving DecidableEq, Repr

/-- The HV side, the coolant and the budget (R312 to R342). -/
structure PowerS where
  /-- HV voltage, V (R341). -/
  volts : Nat := 0
  /-- HV band (R312). -/
  band : HvBand := .absent
  /-- HV present (R312). -/
  present : Bool := false
  /-- HV has been out of range since it was last present (R312, R340). -/
  wasOut : Bool := false
  /-- The standby converter runs (R315). -/
  standby : Bool := false
  /-- Standby power, W (R341). -/
  standbyWatts : Nat := 0
  /-- Standby energy in the open ledger second (R357). -/
  standbyEnergy : Nat := 0
  /-- Converters running (R313, R341). -/
  running : BitVec 8 := 0
  /-- Converter faults (R341). -/
  faults : BitVec 8 := 0
  /-- Bus voltage, mV (R341). -/
  busMv : Nat := 0
  /-- The 54 V bus is in regulation (R428). -/
  busGood : Bool := false
  /-- A converter is current-limiting (R328). -/
  limiting : Bool := false
  /-- Last sample of P_in, W (R324). -/
  sample : Nat := 0
  /-- Inlet power, 1 ms average, W (R341). -/
  average : Nat := 0
  /-- Publications since power-up (R331). -/
  publishes : Nat := 0
  /-- Publications of the last 1 s whose sample exceeded the peak (R333). -/
  overPeak : List Nat := []
  /-- Peak allowance, mJ (R326). -/
  allowance : Nat := 12000000
  /-- A clamp is in force (R327). -/
  clamped : Bool := false
  /-- When it ends (R327). -/
  clampEnds : Nat := 0
  /-- Power steps are in force (R333). -/
  throttled : Bool := false
  /-- House power H, W (R341). -/
  house : Nat := 0
  /-- House credit of the last interval (R324). -/
  houseCredit : Nat := 0
  /-- House credits of the open ledger second (R357). -/
  houseSecond : Nat := 0
  /-- Link blocks and ring-switch passes of the interval, by account (R321). -/
  ringActivity : AMap Nat := []
  /-- Measured ring-supply energy of the interval (R321). -/
  ringEnergy : Nat := 0
  /-- Coolant inlet, 0.1 °C (R342). -/
  inlet : Int := 0
  /-- Coolant outlet, 0.1 °C (R342). -/
  outlet : Int := 0
  /-- Coolant flow, 0.1 L/min (R342). -/
  flow : Nat := 0
  /-- Coolant value of S (R342). -/
  coolantS : Nat := 30000
  /-- Coolant derating (R338). -/
  derating : Bool := false
  /-- Inlet below 20 °C (R339). -/
  cold : Bool := false
  /-- Budget channel state (R392). -/
  channel : Nat := 0
  /-- Publication at which a condition of R383 last failed (R383). -/
  channelBad : Option Nat := none
deriving DecidableEq, Repr

/-- The Assay energy meter (R344 to R353). -/
structure AssayS where
  /-- Nameplate serial (R353). -/
  serial : Word64 := 0
  /-- Cumulative energy since manufacture, mJ (R353). -/
  energy : Nat := 0
  /-- Firmware checksum (R345). -/
  checksum : Word32 := 0
  /-- Self-test passed (R353). -/
  selfTest : Bool := false
  /-- Case-opened bit (R352). -/
  caseOpen : Bool := false
  /-- Seal switch (R347). -/
  sealHeld : Bool := false
  /-- Programming mode (R347). -/
  programming : Bool := false
  /-- Event log: kind, time, and two details (R349). -/
  log : List (Nat × Nat × Nat × Nat) := []
  /-- Log-full status bit (R349). -/
  logFull : Bool := false
  /-- Power and case events while the log was full (R349). -/
  lostEvents : Nat := 0
  /-- Parameters that the metrology authority set (R347). -/
  params : AMap Nat := []
  /-- LED check result (R351). -/
  led : LedCheck := .notYetRun
  /-- Metrological pulses emitted (R350). -/
  pulses : Nat := 0
  /-- Metrological pulses in the check window (R351). -/
  windowPulses : Nat := 0
  /-- Diagnostic pulses in the check window (R351). -/
  windowDiag : Nat := 0
  /-- When the last metrological pulse fell (R350). -/
  lastPulse : Option Nat := none
  /-- When the last diagnostic pulse fell (R350). -/
  lastDiag : Option Nat := none
  /-- What the optical port has returned (R348). -/
  readouts : List (List Nat) := []
deriving DecidableEq, Repr

/-- A controller's end of the mirror link (R353, R354, R364). -/
structure Mirror where
  /-- Assay serial (R364). -/
  serial : Word64 := 0
  /-- Firmware checksum (R364). -/
  checksum : Word32 := 0
  /-- Assay status (R364). -/
  status : BitVec 16 := 0
  /-- Metered energy, mJ (R364). -/
  energy : Nat := 0
  /-- Inlet voltage (R364). -/
  millivolts : Nat := 0
  /-- Inlet current (R364). -/
  milliamps : Nat := 0
  /-- Inlet power (R364). -/
  tenthWatts : Nat := 0
  /-- Log entries used (R364). -/
  logUsed : Nat := 0
  /-- Frame counter (R364). -/
  counter : BitVec 32 := 0
  /-- Bad frames (R364). -/
  bad : Nat := 0
  /-- Missed frames (R364). -/
  missed : Nat := 0
  /-- Link state (R364). -/
  link : Nat := 0
  /-- When the last valid frame arrived (R354). -/
  lastAt : Nat := 0
  /-- A valid frame has arrived in the open ledger second (R356). -/
  fresh : Bool := false
  /-- A new serial appeared in the open ledger second (R358). -/
  newSerial : Bool := false
  /-- The cumulative energy fell in the open ledger second (R358). -/
  fell : Bool := false
  /-- The last frame of a second whose closing tick has passed, its marks, and the base that a later frame sets: energy, fresh,
  newSerial, fell, base (R355, R358). -/
  due : Option (Nat × Bool × Bool × Bool × Option Nat) := none
deriving DecidableEq, Repr

/-- The ledger (R355 to R364). -/
structure LedgerS where
  /-- A whole-second tick has been seen since power-up (R355). -/
  begun : Bool := false
  /-- Ticks in the open second (R355). -/
  ticks : Nat := 0
  /-- Ledger seconds closed (R364). -/
  seconds : Nat := 0
  /-- Ledger total, mJ (R364). -/
  total : Nat := 0
  /-- House energy, mJ (R364). -/
  house : Nat := 0
  /-- Unapportioned energy, mJ (R364). -/
  unapportioned : Nat := 0
  /-- M of the last close (R364). -/
  last : Nat := 0
  /-- Cumulative energy of the last valid frame of an earlier second (R356). -/
  base : Option Nat := none
  /-- Energy booked to partitions since power-up (R16, R357). -/
  booked : Nat := 0
  /-- The lease passed in the open second (R358). -/
  leaseMoved : Bool := false
  /-- A wafer reset has stopped the closing of seconds (R358). -/
  waferReset : Bool := false
deriving DecidableEq, Repr

/-- One of cope and drag (R388, R403, R427). -/
structure CtlS where
  /-- Slot A version (R427). -/
  verA : Nat := 0
  /-- Slot A security version (R387). -/
  secA : Nat := 0
  /-- Slot A state (R427). -/
  slotA : ImgSlot := .valid
  /-- Slot B version (R427). -/
  verB : Nat := 0
  /-- Slot B security version (R387). -/
  secB : Nat := 0
  /-- Slot B state (R427). -/
  slotB : ImgSlot := .empty
  /-- Preferred slot is B (R427). -/
  prefB : Bool := false
  /-- Minimum security version (R427). -/
  minSec : Nat := 0
  /-- Running slot (R427). -/
  runningB : Option Bool := none
  /-- Runs a verified slot (R388). -/
  booted : Bool := false
  /-- When it last reported ready (R402). -/
  readyAt : Option Nat := none
  /-- Its claim at cold start (R403). -/
  claimed : Bool := false
  /-- Its end of the mirror link (R354). -/
  mirror : Mirror := {}
deriving DecidableEq, Repr

/-- The lease register (R401 to R405). -/
structure LeaseS where
  /-- Owner (R401). -/
  owner : Option Ctl := none
  /-- Epoch (R401). -/
  epoch : BitVec 32 := 0
  /-- Previous owner (R401). -/
  previous : Option Ctl := none
  /-- When the countdown reaches 0 (R401). -/
  deadline : Nat := 0
  /-- First claim of the cold start (R403). -/
  claimSince : Option Nat := none
  /-- Standby state (R417). -/
  standby : StandbyState := .absent
deriving DecidableEq, Repr

/-- A written event record (R409). -/
structure EvRec where
  /-- Sequence (R409). -/
  seq : BitVec 32 := 0
  /-- Time at claim (R409). -/
  time : Word64 := 0
  /-- Code, kind, source, partition, domain, node, detail (R409). -/
  req : EvReq := ⟨0, 0, 0, 0, 0, 0, 0, 0, 0, 0, false⟩
  /-- Priority (R409). -/
  prio : Nat := 0
  /-- Records were lost before this one (R409, R410). -/
  lostBefore : Bool := false
deriving DecidableEq, Repr

/-- The event controller and queue (R407 to R412). -/
structure EventS where
  /-- Requests waiting at their source (R407). -/
  waiting : List EvReq := []
  /-- Requests pending in the controller (R407). -/
  pending : List EvReq := []
  /-- Request between selection and claim (R408). -/
  selected : Option EvReq := none
  /-- Records held (R410). -/
  queue : List EvRec := []
  /-- Next sequence number (R409). -/
  nextSeq : BitVec 32 := 1
  /-- Newest sequence (R417). -/
  newest : BitVec 32 := 0
  /-- Records lost (R417). -/
  lost : Nat := 0
  /-- The next record carries bit 15 (R410). -/
  lossFlag : Bool := false
deriving DecidableEq, Repr

/-- The key slots of a domain (R377, R392). -/
structure KeySlots where
  /-- Generation of each staged or loaded slot (R377). -/
  gens : AMap Nat := []
  /-- Key of each staged or loaded slot (R376, R377). -/
  keys : AMap (List Byte) := []
  /-- The send slot (R377). -/
  send : Option Nat := none
  /-- Packets under the previous send slot are being resolved (R378). -/
  draining : Bool := false
  /-- Generation of the previous send slot (R378). -/
  oldGen : Nat := 0
deriving DecidableEq, Repr

/-- Keys, permits and sessions (R365 to R392). -/
structure SecS where
  /-- Permit nonce (R392). -/
  nonce : Word64 := 0
  /-- How many random nonces have been drawn (R386). -/
  nonceDraws : Nat := 0
  /-- Permit status (R392). -/
  status : Word32 := 0
  /-- Operator key (R392). -/
  opKey : Option (List Byte) := none
  /-- Metrology key (R392). -/
  metKey : Option (List Byte) := none
  /-- Service key (R392). -/
  svcKey : Option (List Byte) := none
  /-- Span secret in the protected store (R375). -/
  secret : Option (List Byte) := none
  /-- Key slots by domain (R377, R392). -/
  slots : AMap KeySlots := []
  /-- Highest generation staged by domain (R392). -/
  highest : AMap Nat := []
  /-- Open read session: role and expiry (R369). -/
  session : Option (Role × Nat) := none
deriving DecidableEq, Repr

/-- A fabric packet at its source (R247, R259). -/
structure Packet where
  /-- Destination node (R247). -/
  dst : Nat := 0
  /-- Partition domain (R247). -/
  domain : Nat := 0
  /-- Opcode (R247). -/
  opcode : Nat := 0
  /-- Payload (R247). -/
  data : List Byte := []
  /-- Compressed bit (R247, R266). -/
  compressed : Bool := false
  /-- The partition that issued it (R42). -/
  part : Option Nat := none
deriving DecidableEq, Repr

/-- A packet at a port, with its header fields (R247, R258, R264). -/
structure WirePkt where
  /-- The packet (R247). -/
  pkt : Packet := {}
  /-- Source node (R247). -/
  src : Nat := 0
  /-- Key slot (R247). -/
  slot : Nat := 0
  /-- Generation that seals it (R267). -/
  gen : Nat := 0
  /-- Flow sequence or control counter (R247, R258). -/
  seq : BitVec 16 := 0
  /-- Virtual channel (R252). -/
  vc : Nat := 0
  /-- Hop count (R247). -/
  hops : Nat := 0
  /-- Non-minimal path (R247, R255). -/
  nonMin : Bool := false
  /-- Bytes on the wire (R248, R249). -/
  size : Nat := 0
  /-- Payload length (R247). -/
  len : Nat := 0
  /-- Ciphertext and tag, as the source sealed them (R248, R249, R267). -/
  body : List Byte := []
  /-- Hop sequence (R247, R264). -/
  hopSeq : BitVec 16 := 0
  /-- Ingress port and virtual channel whose receive buffer holds it (R253). -/
  heldAt : Option (Nat × Nat) := none
deriving DecidableEq, Repr

/-- A link status block (R250). -/
structure StatusBlock where
  /-- The port that sends it (R250). -/
  port : Nat := 0
  /-- NAK flag (R250, R264). -/
  nak : Bool := false
  /-- Acknowledged hop sequence (R250). -/
  ack : BitVec 16 := 0
  /-- Off bits (R250, R253). -/
  off : BitVec 4 := 0
  /-- The sender's time stamp (R250). -/
  echo : Nat := 0
deriving DecidableEq, Repr

/-- An outstanding operation of a port (R259 to R262). -/
structure Outst where
  /-- Extended flow sequence (R258). -/
  seq : Nat := 0
  /-- The kept copy (R259). -/
  wire : WirePkt := {}
  /-- Source port that holds the record (R259). -/
  port : Nat := 0
  /-- Port by which its last copy left (R261). -/
  last : Nat := 0
  /-- Retransmissions made (R262). -/
  tries : Nat := 0
  /-- SKIP has been sent (R262). -/
  skipping : Bool := false
deriving DecidableEq, Repr

/-- The sending end of a flow (R258, R259). -/
structure FlowTx where
  /-- Next extended sequence number (R258). -/
  next : Nat := 0
  /-- End-to-end credits free (R259). -/
  credits : Nat := 32
  /-- Outstanding operations (R259). -/
  out : List Outst := []
  /-- Packets waiting at the source (R259). -/
  waiting : List Packet := []
  /-- Completion reports: delivered (R263). -/
  delivered : Nat := 0
  /-- Completion reports: refused (R263). -/
  refused : Nat := 0
  /-- Completion reports: failed (R263). -/
  failed : Nat := 0
  /-- Event 0x209 has been written (R258, R273). -/
  exhaustedNoted : Bool := false
deriving DecidableEq, Repr

/-- The receiving end of a flow (R260, R378). -/
structure FlowRx where
  /-- Next extended sequence number to pass on (R258, R260). -/
  next : Nat := 0
  /-- Generation of the last slot accepted (R378). -/
  gen : Nat := 0
  /-- Numbers answered closed (R262). -/
  closed : List Nat := []
  /-- Packets held in the reorder store: number and command (R260). -/
  held : List (Nat × Instr) := []
  /-- Deliveries counted (R263). -/
  delivered : Nat := 0
  /-- Numbers resolved as refused, for repeated acknowledgements (R270). -/
  refusedSeqs : List Nat := []
  /-- Held packets that the reorder stage has passed on and that the model has still to process (R260). -/
  passed : List Nat := []
deriving DecidableEq, Repr

/-- The control counters for a peer node and domain (R258). -/
structure CtlCount where
  /-- Control packets sent (R258). -/
  sent : Nat := 0
  /-- Highest control counter accepted (R258). -/
  accepted : Nat := 0
deriving DecidableEq, Repr

/-- An edge port (R238 to R265, R274). -/
structure Port where
  /-- Port state (R274). -/
  st : PortState := .down
  /-- Peer (R274). -/
  peer : Word32 := 0xFFFFFFFF
  /-- Measured delay, ns (R274). -/
  delay : Nat := 0
  /-- Hop replays (R274). -/
  replays : Nat := 0
  /-- Links down (R274). -/
  downs : Nat := 0
  /-- Escape entries (R274). -/
  escapes : Nat := 0
  /-- Its first training and discovery have ended (R428). -/
  trainedOnce : Bool := false
  /-- Next hop sequence to send (R264). -/
  txSeq : BitVec 16 := 0
  /-- Replay buffer (R264). -/
  replay : List WirePkt := []
  /-- Output queue of packets not yet started (R255). -/
  queue : List WirePkt := []
  /-- Last hop sequence received good and in order (R250, R264). -/
  rxSeq : BitVec 16 := 0xFFFF
  /-- Off bits received from the peer (R250, R253). -/
  peerOff : BitVec 4 := 0
  /-- Off bits that this port sends (R253). -/
  ownOff : BitVec 4 := 0
  /-- Last hop sequence of the replay that is not yet acknowledged (R264). -/
  replayTo : Option (BitVec 16) := none
  /-- Times of failed replays (R264). -/
  fails : List Nat := []
  /-- Outstanding operations recorded here (R259). -/
  outstanding : Nat := 0
  /-- A NAK has been sent for the packet that comes next in hop sequence (R264). -/
  nakSent : Bool := false
  /-- Link blocks granted to VC0 and VC2 since traffic of VC1 or VC3 last had one while it waited (R252). -/
  dataWait : Nat := 0
deriving DecidableEq, Repr

/-- An entry of a translation cache (R278, R279). -/
structure CacheEntry where
  /-- Slot number (R278). -/
  slot : Nat := 0
  /-- Position (R278). -/
  pos : Nat := 0
  /-- Span-map entry (R277). -/
  entry : Word64 := 0
  /-- Age (R279). -/
  age : Nat := 0
  /-- The cycle of its last hit, until the next age tick: a hit in the tick's own cycle wins (R279). -/
  hitAt : Option Nat := none
deriving DecidableEq, Repr

/-- A part of an operation at one position (R284, R289). -/
structure Piece where
  /-- Position (R275). -/
  pos : Nat := 0
  /-- Space (R275). -/
  space : Nat := 0
  /-- Offset in the space (R275). -/
  offset : Nat := 0
  /-- Byte offset within the operation (R290). -/
  start : Nat := 0
  /-- Bytes, at most 256 (R289). -/
  len : Nat := 0
  /-- Its MEM_REQ has gone to the home (R289). -/
  sent : Bool := false
  /-- Its reply has come (R287). -/
  ended : Bool := false
deriving DecidableEq, Repr

/-- A memory operation at the ring switch (R278 to R290). -/
structure RingOp where
  /-- Opcode (R292). -/
  op : Nat := 0
  /-- Who is told the outcome (R287). -/
  issuer : Issuer := .host 0 0 0 0
  /-- Domain of the packet (R281). -/
  domain : Nat := 0
  /-- The requester is on another node (R281). -/
  remote : Bool := false
  /-- Translation cache it uses (R278). -/
  cache : Nat := 0
  /-- Its parts (R289). -/
  pieces : List Piece := []
  /-- Store data, or load data gathered (R292). -/
  data : List Byte := []
  /-- Operand v or compare value (R292). -/
  v : Word64 := 0
  /-- Swap value (R292). -/
  s : Word64 := 0
  /-- Size code of an atomic: 0 for 4 bytes, 1 for 8 (R292). -/
  size : Nat := 0
  /-- Arithmetic type (R292). -/
  ty : Nat := 0
  /-- Old value of an atomic (R292). -/
  old : Word64 := 0
  /-- First failure status met (R290). -/
  status : Nat := 0
  /-- Bytes performed (R292). -/
  done : Nat := 0
  /-- Requester's node (R294). -/
  reqNode : Nat := 0
  /-- Bytes asked for (R292). -/
  len : Nat := 0
  /-- Node to which the operation has been passed on (R289). -/
  fwd : Option Nat := none
  /-- Completion crest counter of a copy's last store (R287). -/
  ctr : Option Nat := none
deriving DecidableEq, Repr

/-- A BULK_COPY that the ring switch executes (R286, R287). -/
structure BulkOp where
  /-- Source address (R286). -/
  src : Word64 := 0
  /-- Destination address (R286). -/
  dst : Word64 := 0
  /-- Bytes (R286). -/
  len : Nat := 0
  /-- Bytes stored (R286). -/
  done : Nat := 0
  /-- Bytes of the piece under way (R286). -/
  piece : Nat := 0
  /-- Domain (R286). -/
  domain : Nat := 0
  /-- Requester's node (R287). -/
  node : Nat := 0
  /-- Request tag (R292). -/
  tag : BitVec 16 := 0
  /-- Ingress port of the command (R278). -/
  port : Nat := 0
  /-- Compressed framing (R286). -/
  compressed : Bool := false
  /-- Compressed frames still to send (R266). -/
  frames : List (List Byte) := []
  /-- Source bytes gathered for compression (R266). -/
  image : List Byte := []
  /-- Completion crest counter (R287). -/
  ctr : Option Nat := none
deriving DecidableEq, Repr

/-- The ring switch (R245 to R266) and the memory operations it executes. -/
structure FabricS where
  /-- Edge ports (R238). -/
  ports : AMap Port := []
  /-- Sending flows by destination node and domain (R258). -/
  tx : AMap FlowTx := []
  /-- Receiving flows by source node and domain (R260). -/
  rx : AMap FlowRx := []
  /-- Control counters by peer node and domain (R258). -/
  ctl : AMap CtlCount := []
  /-- Last LINK_STATE of each member's port, from which the group table follows: state and peer node (R242). -/
  linkNotices : AMap (Nat × Nat) := []
  /-- Held packets whose gap is filled, in sequence order (R260). -/
  released : List Instr := []
  /-- Translation caches (R278). -/
  caches : AMap (List CacheEntry) := []
  /-- Translation misses (R293). -/
  misses : AMap Nat := []
  /-- Span-map generation (R293). -/
  spanGen : Nat := 1
  /-- Entries changed since their partition was created (R277, R280). -/
  spanOver : AMap Word64 := []
  /-- Physical site of each position left unserved by a retirement without a spare since its entry was written; the entry
  stands until the map changes next (R280). -/
  spanKept : AMap Nat := []
  /-- Fields whose cached entries are being invalidated (R280). -/
  invalidating : List Nat := []
  /-- Single positions being invalidated (R280). -/
  invalPos : List Nat := []
  /-- Operations by request ID (R289). -/
  ops : AMap RingOp := []
  /-- Bulk copies by number (R286). -/
  bulks : AMap BulkOp := []
  /-- Next request ID of the ring switch (R289). -/
  nextReq : Nat := 0
  /-- Next bulk copy number (R286). -/
  nextBulk : Nat := 0
  /-- Packets that ports have put on their links (R239). -/
  wire : List (Nat × WirePkt) := []
  /-- Link status blocks sent (R250). -/
  blocks : List StatusBlock := []
  /-- Node ID, group size and group count in force since the last port training (R274). -/
  node : Nat := 0xFFFF
  groupSize : Nat := 32
  groupCount : Nat := 1
  /-- Packets reported failed at once at the source (R244, R269). -/
  refusedAtSource : Nat := 0
  /-- Packets reported failed since the last wafer reset began (R440). -/
  failedPkts : Nat := 0
deriving DecidableEq, Repr

/-- A packet or control message that a router holds in an input buffer (R176 to R178, R186). -/
structure Moving where
  /-- The message. -/
  msg : MeshMsg
  /-- The router that holds it. -/
  site : Nat := 0
  /-- The input that it came by: 0 north, 1 east, 2 south, 3 west, 4 to 7 the cells of slots 0 to 3, 8 the ring (R174, R245). -/
  port : Nat := 0
  /-- The detour flag: it travels on the detour channel of its class (R178, R186). -/
  detour : Bool := false
  /-- It finishes the y dimension before the x dimension, as its last sidestep found it (R186). -/
  yFirst : Bool := false
deriving DecidableEq, Repr

/-- A data multicast whose copies the replicating routers are making (R198, R199). -/
structure Cast where
  /-- Header of the multicast (R178). -/
  head : Head
  /-- Its type: rectangle or mask (R179). -/
  kind : Nat := 5
  /-- Inner type (R197). -/
  inner : Nat := 1
  /-- Inner payload (R197). -/
  data : List Byte := []
  /-- Positions whose branch has not yet taken its copy (R198). -/
  left : List Nat := []
  /-- Copies delivered so far (R199). -/
  delivered : Nat := 0
  /-- Copies refused so far (R199). -/
  refused : Nat := 0
  /-- Time at which the copies began (R198). -/
  since : Nat := 0
  /-- The stall has been reported (R198). -/
  noted : Bool := false
deriving DecidableEq, Repr

/-- The wafer mesh (R174 to R206) and what travels on it. -/
structure MeshS where
  /-- Changes to the state of a site since test (R189, R206). -/
  sites : AMap SiteState := []
  /-- Spare that covers each retired site (R206). -/
  cover : AMap Nat := []
  /-- Sites whose retirement is pending (R192). -/
  pendingRet : List Nat := []
  /-- Routing generation (R206). -/
  routingGen : Nat := 1
  /-- Routing state (R206). -/
  routingReady : Bool := false
  /-- Packets and control messages sent that no router holds yet, oldest first (R227). -/
  flight : List MeshMsg := []
  /-- Packets and control messages in the input buffers of routers, in the order in which they came (R176, R177). -/
  transit : List Moving := []
  /-- Input that each output of a router granted last (R176). -/
  granted : AMap Nat := []
  /-- Multicasts with branches that wait (R198). -/
  casts : List Cast := []
  /-- Absent edge tiles that the attachments in force avoid (R245). -/
  edgeGone : List Nat := []
deriving DecidableEq, Repr

/-- The crest units (R217 to R233). -/
structure CrestS where
  /-- Crest counters (R217). -/
  counters : AMap Counter := []
  /-- Registered watches, oldest first (R223). -/
  watches : List Watch := []
  /-- Jobs opened on this wafer; the model's own count, to which the members of a job group at an opening belong (log 141). -/
  opens : Nat := 0
  /-- Wafer-crest counter base by partition (R237). -/
  base : AMap Nat := []
  /-- Wafer-crest counter count by partition (R237). -/
  count : AMap Nat := []
  /-- Aggregate status (R112). -/
  aggStatus : Nat := 0
  /-- Partition of the sum under way (R111). -/
  aggPart : Nat := 0
  /-- The sum under way is of the previous section (R111). -/
  aggPrev : Bool := false
  /-- Section number summed (R112). -/
  aggSection : Nat := 0
  /-- The five sums (R112). -/
  aggSums : NumCounters := {}
  /-- Stopped counters (R112). -/
  aggStopped : Nat := 0
deriving DecidableEq, Repr

/-- A record of the settings store (R423). -/
structure SetRec where
  /-- Index and subindex (R423). -/
  key : Nat := 0
  /-- Type code (R423). -/
  ty : Nat := 0
  /-- Value (R423). -/
  value : List Byte := []
deriving DecidableEq, Repr

/-- A copy of the settings store (R423, R425). -/
structure SetCopy where
  /-- Magic, format, length and CRC-32C are correct (R423). -/
  valid : Bool := false
  /-- Generation (R423). -/
  generation : Nat := 0
  /-- Image version of the writing firmware (R423). -/
  version : Nat := 0
  /-- Records (R423). -/
  records : List SetRec := []
deriving DecidableEq, Repr

/-- The settings store and the firmware objects (R422 to R427). -/
structure SettingsS where
  /-- Copy 0 in cope's flash (R423). -/
  copy0 : SetCopy := {}
  /-- Copy 1 in drag's flash (R423). -/
  copy1 : SetCopy := {}
  /-- Settings generation (R427). -/
  generation : Nat := 0
  /-- Copy state at boot (R427). -/
  copyState : Nat := 0
  /-- A save runs (R424). -/
  saving : Bool := false
  /-- The last save failed (R424). -/
  failed : Bool := false
  /-- Changes wait for the next save (R424). -/
  dirty : Bool := false
  /-- What the save under way writes (R424). -/
  snapshot : List SetRec := []
  /-- Unreadable and unknown records carried through saves (R426). -/
  carried : List SetRec := []
  /-- Restored records of partitions and site states that wait for their power-up step (R428). -/
  boot : List SetRec := []
  /-- Unreadable records: key and reason (R426, R427). -/
  migration : List (Nat × Nat) := []
  /-- Image target (R427). -/
  target : Nat := 0xFF
  /-- Bytes accepted (R427). -/
  image : List Byte := []
  /-- Image offset (R427). -/
  offset : Nat := 0
  /-- Image state (R427). -/
  imageState : Nat := 0
  /-- Running trial: controller and its deadline (R389). -/
  trial : Option (Ctl × Nat) := none
deriving DecidableEq, Repr

/-- A sideband pin (R457 to R460). -/
structure Pin where
  /-- Function in force (R457, R461). -/
  func : Nat := 0
  /-- Function that takes over at the next edge (R458). -/
  switching : Option Nat := none
  /-- Write held while the pin switches (R458). -/
  later : Option Nat := none
  /-- Input level: last sample, or the level latched in a switch (R461). -/
  level : Bool := true
  /-- Level at the pin at the last reference edge (R457). -/
  sample : Bool := true
  /-- Level driven by an output function or its keeper (R457, R458). -/
  drive : Option Bool := none
  /-- A sync-out pulse is in progress (R457, R459). -/
  pulse : Bool := false
deriving DecidableEq, Repr

/-- EtherCAT, wake, sideband pins, power-up and resets (R393, R418 to R421, R428 to R440, R457). -/
structure PilotS where
  /-- EtherCAT state (R394). -/
  esm : Nat := 0
  /-- EtherCAT port 0 link (R393). -/
  link0 : Bool := false
  /-- EtherCAT port 1 link (R393). -/
  link1 : Bool := false
  /-- Ports by which EtherCAT frames have left (R393). -/
  frames : List Nat := []
  /-- SDO replies: abort code or 0, and data (R395). -/
  sdo : List (Nat × List Byte) := []
  /-- SDO writes waiting in SM0: object key and value (R395, R430). -/
  mailbox : List (Nat × List Byte) := []
  /-- Sideband pins (R457). -/
  pins : AMap Pin := []
  /-- Wafer power state (R421). -/
  sleep : Nat := 0
  /-- Wake cause (R421). -/
  wakeCause : Nat := 0xFFFF
  /-- Wake sources fired (R421). -/
  wakeFired : List Nat := []
  /-- Selected wake sources latched while sleep is being entered (R420). -/
  wakeLatched : List Nat := []
  /-- RESET_N is held low (R428, R455). -/
  resetLow : Bool := false
  /-- Power-up step (R446). -/
  step : Nat := 0
  /-- When the power-up was triggered (R428). -/
  trigger : Nat := 0
  /-- When the step was reached (R429). -/
  stepSince : Nat := 0
  /-- Early steps that were overdue, with the wait in ms (R429). -/
  overdue : List (Nat × Nat) := []
  /-- Power-up duration, ms (R446). -/
  duration : Nat := 0
  /-- Field groups powered (R428). -/
  groups : Nat := 0
  /-- Pending detail of event 0x3CE (R430). -/
  resetDetail : Nat := 0
  /-- Wafer reset in progress since (R439). -/
  waferReset : Option Nat := none
  /-- In the discharge hold of step 4 (R439). -/
  waferHold : Bool := false
  /-- Last wafer reset cause (R446). -/
  waferCause : Nat := 0
  /-- Wafer resets (R446). -/
  waferResets : Nat := 0
  /-- Operations outstanding at step 2 of the wafer reset (R440). -/
  waferAbandoned : Nat := 0
  /-- Counters discarded by the wafer reset (R440). -/
  waferDiscarded : Nat := 0
  /-- The power-up sequence runs as a wake (R418, R420). -/
  waking : Bool := false
  /-- The power-up steps run as the recovery of a wafer that was up (R439). -/
  recovering : Bool := false
  /-- Loss report time (R446). -/
  lossTime : Word64 := 0
  /-- Loss report scope (R446). -/
  lossScope : Nat := 0xFF
  /-- Packets reported failed (R446). -/
  lossFailed : Nat := 0
  /-- Operations abandoned (R446). -/
  lossAbandoned : Nat := 0
  /-- Counters discarded (R446). -/
  lossCounters : Nat := 0
  /-- Energy unapportioned, mJ (R446). -/
  lossEnergy : Nat := 0
  /-- Recovery duration, µs (R446). -/
  lossDuration : Nat := 0
deriving DecidableEq, Repr

/-- The self-test (R441 to R446). -/
structure TestS where
  /-- Self-test state (R446). -/
  st : Nat := 0
  /-- Self-test code (R446). -/
  code : Nat := 0
  /-- Self-test request echo (R446). -/
  echo : Word32 := 0
  /-- Failures (R446). -/
  failures : Nat := 0
  /-- First failure (R446). -/
  first : Word64 := 0
  /-- Idle fields that a destructive test holds as scrubbing (R444). -/
  held : List Nat := []
deriving DecidableEq, Repr

/-- What manufacture, test and assembly fix (R4, R317, R320, R392, R400). -/
structure IdentS where
  /-- Grade tile count (R400). -/
  grade : Nat := 79200
  /-- Device serial (R400). -/
  serial : Word64 := 0
  /-- Hardware version (R400). -/
  hwVersion : List Byte := []
  /-- Revision (R400). -/
  revision : Word32 := 0
  /-- Vendor key (R392). -/
  vendorKey : List Byte := []
  /-- The device's X25519 private key (R375). -/
  deviceKey : List Byte := []
  /-- Lease strap (R417). -/
  strap : Ctl := .cope
  /-- Supply set point by field and clock target code, in 2.5 mV steps (R317). -/
  calibration : AMap Nat := []
  /-- Activity coefficient by field, calibration point (clock target code) and category, in nJ (R317, R320). -/
  coefficients : AMap Nat := []
  /-- Good tiles at test (R400). -/
  good : Nat := 80640
deriving DecidableEq, Repr

/-- The whole state of the ZW56 module. -/
structure State where
  /-- MODEL'S OWN field: the commands waiting, first in, first out. -/
  pending : List Instr := []
  /-- Reference, time of day and ring clocks (R295). -/
  time : TimeS := {}
  /-- Field clock islands by field index (R300). -/
  clk : AMap FieldClk := []
  /-- Field power, heat and owner by field index (R317). -/
  fld : AMap FieldPwr := []
  /-- Inlet, coolant and budget (R312). -/
  power : PowerS := {}
  /-- The Assay (R344). -/
  assay : AssayS := {}
  /-- The ledger (R355). -/
  ledger : LedgerS := {}
  /-- Controller cope (R28). -/
  cope : CtlS := {}
  /-- Controller drag (R28). -/
  drag : CtlS := {}
  /-- Lease register (R401). -/
  lease : LeaseS := {}
  /-- Event controller and queue (R407). -/
  events : EventS := {}
  /-- Keys, permits, sessions (R365). -/
  sec : SecS := {}
  /-- Partitions by partition ID (R370). -/
  parts : AMap Part := []
  /-- Tiles by site y × 288 + x (R20). -/
  tiles : AMap Tile := []
  /-- Bytes of overlay, staging bank and operand stores by memory key (R20, R67). -/
  mem : List Host.Cell := []
  /-- Words of the stores that hold an error (R67). -/
  ecc : AMap EccMark := []
  /-- Defect map and mesh traffic (R174). -/
  mesh : MeshS := {}
  /-- Crest units (R217). -/
  crest : CrestS := {}
  /-- Ring switch, ports, flows and memory operations (R245). -/
  fabric : FabricS := {}
  /-- Settings store and firmware update (R422). -/
  settings : SettingsS := {}
  /-- Pilot domain, power-up, resets and loss report (R418). -/
  pilot : PilotS := {}
  /-- Self-test (R441). -/
  test : TestS := {}
  /-- Manufacture, test and assembly (R400). -/
  ident : IdentS := {}
  /-- Values of RW and RWP objects that differ from their default, by index × 256 + subindex (R397). -/
  regs : AMap Nat := []
  /-- How many free values have been drawn (R133). -/
  freeCount : Nat := 0
deriving DecidableEq, Repr

/-- The module right after reset, before HV rises (R428, R430): every field at the value that the spec states for reset, or
at the value that the assumption log names. -/
def State.reset : State := {}

end Sys2Proof.Machine
end

