-- ==== Sys2Proof/Machine/Flags.lean ====
section
/-!
DEFINITION. Rounding, output conversion and the five numeric counters of a compute cell (R92, R103 to R109).
-/

namespace Sys2Proof.Machine

/-- Rounding directions: the four of R53 and round-to-odd (R103). -/
inductive Rnd where
  | nearest
  | zero
  | up
  | down
  | odd
deriving DecidableEq, Repr

/-- The final rounding of a mode field (R53). -/
def rndOf (m : Nat) : Rnd :=
  match m with
  | 0 => .nearest
  | 1 => .zero
  | 2 => .up
  | _ => .down

/-- Drops the low k bits of a magnitude in a rounding direction. -/
def roundDrop (r : Rnd) (neg : Bool) (man k : Nat) : Nat :=
  let q := man / 2 ^ k
  let rest := man % 2 ^ k
  if rest = 0 then q
  else
    match r with
    | .nearest => if 2 * rest > 2 ^ k ∨ (2 * rest = 2 ^ k ∧ q % 2 = 1) then q + 1 else q
    | .zero => q
    | .up => if neg then q else q + 1
    | .down => if neg then q + 1 else q
    | .odd => if q % 2 = 1 then q else q + 1

/-- A magnitude rounded to a multiple of 2^quantum. -/
def roundAt (r : Rnd) (neg : Bool) (man : Nat) (exp quantum : Int) : Nat × Int :=
  if exp ≥ quantum then (man, exp) else (roundDrop r neg man (quantum - exp).toNat, quantum)

/-- The exponent of the leading bit of a magnitude. -/
def topExp (man : Nat) (exp : Int) : Int := exp + bitLen man - 1

/-- A magnitude rounded to p significant bits with an unbounded exponent. -/
def roundBits (r : Rnd) (neg : Bool) (p man : Nat) (exp : Int) : Nat × Int :=
  roundAt r neg man exp (topExp man exp - p + 1)

/-- Compares two magnitudes: the first is greater. -/
def magGt (m1 : Nat) (e1 : Int) (m2 : Nat) (e2 : Int) : Bool :=
  let lo := min e1 e2
  shiftTo m1 e1 lo > shiftTo m2 e2 lo

/-- A value rounded to odd at a floating-point format with subnormals: overflow gives the largest finite value, an infinity
stays (R103). -/
def roundOdd (f : Nat) (x : Num) : Num :=
  match x with
  | .fin neg man exp =>
    if man = 0 then .zero neg
    else
      let (_, m, _) := fmtShape f
      let q := max (topExp man exp - m) (fmtMinExp f - m)
      let (a, e) := roundAt .odd neg man exp q
      match fmtMax f with
      | .fin _ mm me => if magGt a e mm me then .fin neg mm me else .fin neg a e
      | y => y
  | y => y

/-- What an output conversion counts (R105 to R107). -/
structure OutFlags where
  sat : Bool := false
  flush : Bool := false
  inv : Bool := false
deriving DecidableEq, Repr

/-- The code of a finite value that a floating-point format holds exactly. -/
def encodeFin (f : Nat) (neg : Bool) (man : Nat) (exp : Int) : Nat :=
  let (e, m, b) := fmtShape f
  let sgn := if neg then 2 ^ (e + m) else 0
  if man = 0 then if f = 2 then 0 else sgn
  else
    let top := topExp man exp
    if top < fmtMinExp f then sgn + (shiftTo man exp (min exp (fmtMinExp f - m))) / 2 ^ ((fmtMinExp f - m) - min exp (fmtMinExp f - m)).toNat
    else
      let lo := top - m
      let sig := if exp ≥ lo then man * 2 ^ (exp - lo).toNat else man / 2 ^ (lo - exp).toNat
      sgn + (top + b).toNat * 2 ^ m + (sig - 2 ^ m)

/-- The canonical NaN of a format, or the NaN substitute (R89, R92). -/
def nanCode (f : Nat) : Nat :=
  match f with
  | 0 => 0x7E00
  | 1 => 0x7FC0
  | 2 => 0x80
  | 3 => 0x7E
  | 9 => 0x7FC00000
  | 10 => 0x7FF8000000000000
  | _ => 0

/-- The format has no NaN (R92). -/
def fmtNoNan (f : Nat) : Bool := f == 4 || f == 5 || fmtInt f

/-- The code of an infinity of a format that has one. -/
def infCode (f : Nat) (neg : Bool) : Nat :=
  let (e, m, _) := fmtShape f
  (2 ^ e - 1) * 2 ^ m + (if neg then 2 ^ (e + m) else 0)

/-- The code of the largest finite value with a sign. -/
def maxCode (f : Nat) (neg : Bool) : Nat :=
  match fmtMax f with
  | .fin _ m e => encodeFin f neg m e
  | _ => 0

/-- An overflowing finite result (R105). -/
def overflowCode (f : Nat) (r : Rnd) (neg : Bool) : Nat :=
  if !fmtHasInf f then maxCode f neg
  else
    match r with
    | .nearest => infCode f neg
    | .zero | .odd => maxCode f neg
    | .up => if neg then maxCode f true else infCode f false
    | .down => if neg then infCode f true else maxCode f false

/-- A result converted to an output format (R92, R105 to R107): the code, and what is counted. -/
def convertOut (tensor : Bool) (f : Nat) (r : Rnd) (x : Num) : Nat × OutFlags :=
  match x with
  | .nan => (nanCode f, ⟨false, false, fmtNoNan f⟩)
  | .inf neg =>
    if fmtInt f then
      let (lo, hi) := intRange f
      (unsigned (fmtBits f) (if neg then lo else hi), ⟨true, false, false⟩)
    else if fmtHasInf f then (infCode f neg, ⟨false, false, false⟩)
    else (maxCode f neg, ⟨true, false, false⟩)
  | .fin neg man exp =>
    if fmtInt f then
      let (a, e) := roundAt r neg man exp 0
      let mag : Int := shiftTo a e 0
      let v := if neg then -mag else mag
      let (lo, hi) := intRange f
      if v < lo then (unsigned (fmtBits f) lo, ⟨true, false, false⟩)
      else if v > hi then (unsigned (fmtBits f) hi, ⟨true, false, false⟩)
      else (unsigned (fmtBits f) v, ⟨false, false, false⟩)
    else if man = 0 then (encodeFin f neg 0 0, ⟨false, false, false⟩)
    else
      let (_, m, _) := fmtShape f
      let (a, e) := roundBits r neg (m + 1) man exp
      match fmtMax f with
      | .fin _ mm me =>
        if magGt a e mm me then (overflowCode f r neg, ⟨true, false, false⟩)
        else if topExp a e < fmtMinExp f then
          if fmtFlush tensor f then (encodeFin f neg 0 0, ⟨false, true, false⟩)
          else
            let (c, d) := roundAt r neg man exp (fmtMinExp f - m)
            (encodeFin f neg c d, ⟨false, false, false⟩)
        else (encodeFin f neg a e, ⟨false, false, false⟩)
      | _ => (0, {})

/-- A floating-point code as a value, subnormals kept. -/
def decodeKept (f bits : Nat) : Num :=
  if fmtInt f then (decodeElem false f bits).num
  else if f = 4 ∨ f = 5 ∨ f = 2 ∨ f = 3 then
    let (e, m, b) := fmtShape f
    let frac := bits % 2 ^ m
    let ex := bits / 2 ^ m % 2 ^ e
    if ex = 0 ∧ frac ≠ 0 then .fin (bits / 2 ^ (e + m) % 2 == 1) frac (1 - (b : Int) - m) else (decodeElem false f bits).num
  else (decodeElem false f bits).num

/-- The code of a chain-precision value: binary64 or binary32, exact. -/
def chainCode (wide : Bool) (x : Num) : Nat :=
  let f := if wide then 10 else 9
  match x with
  | .nan => nanCode f
  | .inf neg => infCode f neg
  | .fin neg man exp => encodeFin f neg man exp

/-- Adds to a counter that stops at 0xFFFF_FFFF (R110). -/
def addStop (n k : Nat) : Nat := sat32 (n + k)

/-- Two sets of counts added, each stopping (R108, R110). -/
def addCounters (a b : NumCounters) : NumCounters :=
  ⟨addStop a.flushIn b.flushIn, addStop a.flushOut b.flushOut, addStop a.saturated b.saturated, addStop a.nanIn b.nanIn,
   addStop a.invalid b.invalid⟩

/-- The input counts of one element (R108). -/
def elemCounts (e : Elem) : NumCounters :=
  ⟨if e.flushed then 1 else 0, 0, 0, if e.nan then 1 else 0, 0⟩

/-- The output counts of one element: invalid where any invalid operation occurred (R108). -/
def outCounts (f : OutFlags) (invalid : Bool) : NumCounters :=
  ⟨0, if f.flush then 1 else 0, if f.sat then 1 else 0, 0, if f.inv || invalid then 1 else 0⟩

end Sys2Proof.Machine
end

