-- ==== Sys2Proof/Machine/Drain.lean ====
section
/-!
DEFINITION. The drain: IEEE 754 operations on exact numbers, the functions of R133, and chains (R103, R104, R129 to R136).
-/

namespace Sys2Proof.Machine

/-- A result of a chain operation and whether the operation was invalid (R132). -/
abbrev OpRes := Num × Bool

/-- x + y exactly; an exact zero sum of unlike zeros or of opposites takes the sign of the selected mode (R103). -/
def numAdd (r : Rnd) (x y : Num) : OpRes :=
  match x, y with
  | .nan, _ | _, .nan => (.nan, false)
  | .inf a, .inf b => if a = b then (.inf a, false) else (.nan, true)
  | .inf a, _ => (.inf a, false)
  | _, .inf b => (.inf b, false)
  | .fin n1 m1 e1, .fin n2 m2 e2 =>
    let (v, e) := addFin n1 m1 e1 n2 m2 e2
    if v = 0 then
      if m1 = 0 ∧ m2 = 0 ∧ n1 = n2 then (.zero n1, false) else (.zero (r == .down), false)
    else (.fin (decide (v < 0)) v.natAbs e, false)

/-- The value with its sign inverted. -/
def numNeg (x : Num) : Num :=
  match x with
  | .nan => .nan
  | .inf n => .inf !n
  | .fin n m e => .fin (!n) m e

/-- The value with its sign cleared. -/
def numAbs (x : Num) : Num :=
  match x with
  | .nan => .nan
  | .inf _ => .inf false
  | .fin _ m e => .fin false m e

/-- x × y exactly. -/
def numMul (x y : Num) : OpRes :=
  match x, y with
  | .nan, _ | _, .nan => (.nan, false)
  | .inf a, .inf b => (.inf (a != b), false)
  | .inf a, .fin n m _ | .fin n m _, .inf a => if m = 0 then (.nan, true) else (.inf (a != n), false)
  | .fin n1 m1 e1, .fin n2 m2 e2 => (.fin (n1 != n2) (m1 * m2) (e1 + e2), false)

/-- A quotient to more bits than any precision, its low bit set where a remainder is left. -/
def quotient (m1 m2 : Nat) : Nat × Int :=
  let k := 200 + bitLen m2
  let q := m1 * 2 ^ k / m2
  (2 * q + (if m1 * 2 ^ k % m2 = 0 then 0 else 1), -(k : Int) - 1)

/-- x / y (R132): 0/0 and ∞/∞ are invalid; a finite non-zero value over zero is infinite and not counted. -/
def numDiv (x y : Num) : OpRes :=
  match x, y with
  | .nan, _ | _, .nan => (.nan, false)
  | .inf _, .inf _ => (.nan, true)
  | .inf a, .fin n _ _ => (.inf (a != n), false)
  | .fin n _ _, .inf b => (.zero (n != b), false)
  | .fin n1 m1 e1, .fin n2 m2 e2 =>
    if m2 = 0 then if m1 = 0 then (.nan, true) else (.inf (n1 != n2), false)
    else if m1 = 0 then (.zero (n1 != n2), false)
    else
      let (q, k) := quotient m1 m2
      (.fin (n1 != n2) q (e1 - e2 + k), false)

/-- x < y for numbers, with −0 < +0 (R132). -/
def numLt (x y : Num) : Bool :=
  match x, y with
  | .nan, _ | _, .nan => false
  | .inf a, .inf b => a && !b
  | .inf a, _ => a
  | _, .inf b => !b
  | .fin n1 m1 e1, .fin n2 m2 e2 =>
    if m1 = 0 ∧ m2 = 0 then n1 && !n2
    else
      let lo := min e1 e2
      let a : Int := shiftTo m1 e1 lo
      let b : Int := shiftTo m2 e2 lo
      (if n1 then -a else a) < (if n2 then -b else b)

/-- The maximum of IEEE 754-2019: a NaN propagates. -/
def numMax (x y : Num) : Num := if x.isNan || y.isNan then .nan else if numLt x y then y else x

/-- The minimum of IEEE 754-2019: a NaN propagates. -/
def numMin (x y : Num) : Num := if x.isNan || y.isNan then .nan else if numLt y x then y else x

/-! ## The functions of R133 -/

/-- Fraction bits of the fixed-point evaluation. -/
def fxBits : Nat := 320

/-- ln 2 with fxBits fraction bits, from Σ 1 / (k 2^k). -/
def ln2Fix : Nat :=
  (List.range 340).foldl (fun a i => a + 2 ^ (fxBits + 20) / ((i + 1) * 2 ^ (i + 1))) 0 / 2 ^ 20

/-- A finite value in fixed point, rounded toward minus infinity; a value too small for it keeps its sign. -/
def toFix (neg : Bool) (man : Nat) (exp : Int) : Int :=
  if man = 0 then 0
  else
    let v : Int := if exp + fxBits ≥ 0 then shiftTo man (exp + fxBits) 0 else (man / 2 ^ (-(exp + fxBits)).toNat : Nat)
    let v := max v (2 ^ 120 : Nat)
    if neg then -v - 1 else v

/-- e^x for x in fixed point: a magnitude and an exponent, correct to about 300 bits. -/
def expFix (x : Int) : Nat × Int :=
  let l : Int := ln2Fix
  let k := x / l
  let r := (x - k * l).toNat
  let (sum, _) := (List.range 90).foldl
    (fun (acc : Nat × Nat) i => (acc.1 + acc.2, acc.2 * r / (2 ^ fxBits * (i + 1)))) (0, 2 ^ fxBits)
  (sum, k - fxBits)

/-- 1200 in fixed point: beyond it every function has reached its limit at any chain precision. -/
def fixCap : Int := (1200 * 2 ^ fxBits : Nat)

/-- The logistic function of x in fixed point, e^x / (1 + e^x) or 1 / (1 + e^−x), to about 300 significant bits. -/
def logistic (x : Int) : Nat × Int :=
  let x := max (-fixCap) (min fixCap x)
  let (m, e) := expFix (if x ≥ 0 then -x else x)
  let one := 2 ^ 2200
  let t := max 1 (shiftTo m (e + 2200) 0 + (if e + 2200 < 0 then m / 2 ^ (-(e + 2200)).toNat else 0))
  if x ≥ 0 then (one * 2 ^ 400 / (one + t) * 2 + 1, -401) else (m * 2 ^ 2600 / (one + t) * 2 + 1, e - 401)

/-- The exact function, nearly: sign, magnitude and exponent, with the low bit set where more bits follow. -/
def drainExact (code : Nat) (neg : Bool) (man : Nat) (exp : Int) : Num :=
  let x := toFix neg man exp
  match code with
  | 0x0C =>
    if man = 0 then .fin false 1 0
    else if x > fixCap then .fin false 3 1500
    else if x < -fixCap then .fin false 3 (-1800)
    else let (m, e) := expFix x; .fin false (2 * m + 1) (e - 1)
  | 0x0D => if man = 0 then .fin false 1 (-1) else let (m, e) := logistic x; .fin false m e
  | 0x0E =>
    if man = 0 then .zero neg
    else if topExp man exp < -100 then .fin neg (man * 2 ^ 260 - 1) (exp - 260)
    else
      let (m, e) := logistic (max (-fixCap) (min fixCap (2 * toFix false man exp)))
      .fin neg (2 * m - shiftTo 1 0 e) e
  | 0x0F =>
    if man = 0 then .zero neg
    else
      let xq := max (-fixCap) (min fixCap x)
      let u := 2 * 7978845608 * (xq * 1000000 * 2 ^ (2 * fxBits) + 44715 * xq * xq * xq) / (10 ^ 16 * 2 ^ (2 * fxBits))
      let (m, e) := logistic u
      .fin neg (man * m) (exp + e)
  | 0x10 => if man = 0 then .zero neg else let (m, e) := logistic x; .fin neg (man * m) (exp + e)
  | _ =>
    let (m, e) := if exp % 2 = 0 then (man, exp) else (2 * man, exp - 1)
    let n := 2 ^ (2 * (bitLen m + 200)) / m
    let r := (List.range (bitLen n / 2 + 1)).foldr
      (fun i acc => let t := acc + 2 ^ i; if t * t ≤ n then t else acc) 0
    if r * r * m = 2 ^ (2 * (bitLen m + 200)) then .fin false r (-(e / 2) - (bitLen m + 200 : Nat))
    else .fin false (2 * r + 1) (-(e / 2) - (bitLen m + 200 : Nat) - 1)

/-- A value of chain precision within 1 unit in the last place of the exact function, picked by the free value; beyond the
precision's range the result is infinite at the end of a chain (R132, R133). -/
def drainFn (wide : Bool) (code : Nat) (bits : Nat) (x : Num) : Num :=
  let f := if wide then 10 else 9
  match x with
  | .fin neg man exp =>
    match drainExact code neg man exp with
    | .fin n m e =>
      if m = 0 then .zero n
      else
        let (_, mb, _) := fmtShape f
        let q := max (topExp m e - mb) (fmtMinExp f - mb)
        let (a0, e0) := roundAt .zero n m e q
        let a := shiftTo a0 e0 q
        let pick := Config.drainPick code wide bits
        let low := if shiftTo m e (min e q) = shiftTo a q (min e q) then pick % 3 else 1 + pick % 2
        let v : Num := .fin n (a + low - 1) q
        match v, fmtMax f with
        | .fin vn vm ve, .fin _ mm me => if magGt vm ve mm me then .inf vn else .fin vn vm ve
        | w, _ => w
    | y => y
  | y => y

/-! ## Chain operations (R132) -/

/-- What a chain needs beside the running value. -/
structure ChainEnv where
  tensor : Bool
  wide : Bool
  out : Nat
  mode : Rnd
  operand : Nat → Nat → Num
  divisor : Num

/-- The exact result of a chain operation on x, with its operand y (R132 to R135). -/
def chainOp (env : ChainEnv) (code sel : Nat) (x y : Num) : OpRes :=
  match code with
  | 0x01 => numAdd env.mode x y
  | 0x02 => numAdd env.mode x (numNeg y)
  | 0x03 => numMul x y
  | 0x04 => numDiv x y
  | 0x05 => (numMax x y, false)
  | 0x06 => (numMin x y, false)
  | 0x07 =>
    if x.isNan then (.nan, sel != 0 && y.isNan)
    else if sel = 0 then
      let b :=
        if fmtInt env.out then Num.fin false (intRange env.out).2.toNat 0 else fmtMax env.out
      (numMin (numMax x (numNeg b)) b, false)
    else if y.isNan then (.nan, true)
    else (numMin (numMax x (numNeg (numAbs y))) (numAbs y), false)
  | 0x08 =>
    if x.isNan then (.nan, false)
    else if x.sign && !x.isZero then numMul x y else (x, false)
  | 0x09 =>
    if x.isNan then (.nan, false) else if x.sign || x.isZero then (.zero false, false) else (x, false)
  | 0x0A => (numAbs x, false)
  | 0x0B => (numNeg x, false)
  | 0x12 => numDiv (.fin false 1 0) x
  | 0x13 =>
    let (bits, _) := convertOut env.tensor env.out env.mode x
    if fmtNoNan env.out && x.isNan then (.zero false, false) else (decodeKept env.out bits, false)
  | 0x14 => numDiv x env.divisor
  | _ =>
    let bits := chainCode env.wide x
    match x, code with
    | .nan, _ => (.nan, false)
    | .inf n, 0x0C => (if n then .zero false else .inf false, false)
    | .inf n, 0x0D => (if n then .zero false else .fin false 1 0, false)
    | .inf n, 0x0E => (.fin n 1 0, false)
    | .inf n, 0x0F | .inf n, 0x10 => (if n then .zero true else .inf false, false)
    | .inf n, _ => if n then (.nan, true) else (.zero false, false)
    | .fin n m _, 0x11 =>
      if m = 0 then (.inf n, false) else if n then (.nan, true) else (drainFn env.wide code bits x, false)
    | _, _ => (drainFn env.wide code bits x, false)

/-- An intermediate result at chain precision, rounded to odd. An overflow of EXP gives the largest finite value (R103,
R132). -/
def intermediate (wide : Bool) (code : Nat) (x r : Num) : Num :=
  let f := if wide then 10 else 9
  match r with
  | .inf n => if code = 0x0C && !x.isInf then (match fmtMax f with | .fin _ m e => .fin n m e | y => y) else .inf n
  | _ => roundOdd f r

/-- Runs the rest of a chain from a running value; k is the position of the next operation. Answers the exact result of
the last operation, and whether any was invalid (R104). -/
def runChain (env : ChainEnv) : List Nat → Nat → Num → Bool → OpRes
  | [], _, x, inv => (x, inv)
  | op :: rest, k, x, inv =>
    let code := op / 8
    let sel := op % 8
    let y := if sel = 0 then Num.zero false else env.operand sel k
    let (r, i) := chainOp env code sel x y
    match rest with
    | [] => (r, inv || i)
    | _ :: _ => runChain env rest (k + 1) (if code = 0x13 then r else intermediate env.wide code x r) (inv || i)

/-- An output element: the accumulator's result through the chain and the one final rounding (R104), with its counts. -/
def drainElem (env : ChainEnv) (chain : List Nat) (x : Num) (invalid : Bool) : Nat × NumCounters :=
  let f := if env.wide then 10 else 9
  let (r, inv) := match chain with
    | [] => (x, invalid)
    | _ :: _ => runChain env chain 0 (roundOdd f x) invalid
  let (bits, fl) := convertOut env.tensor env.out env.mode r
  (bits, outCounts fl inv)

end Sys2Proof.Machine
end

