-- ==== Sys2Proof/Machine/AMap.lean ====
section
/-!
DEFINITION. Reading and writing sparse tables: lists of key and entry, kept in rising order of keys.
-/

namespace Sys2Proof.Machine

/-- The entry that a key has, if it is listed. -/
def amFind {α : Type} : AMap α → Nat → Option α
  | [], _ => none
  | (k, a) :: r, key => if k = key then some a else amFind r key

/-- The entry of a key, or the default of the table. -/
def amGet {α : Type} (m : AMap α) (key : Nat) (d : α) : α := (amFind m key).getD d

/-- Puts an entry at its place in the order of keys, in place of the one that the key had. -/
def amSet {α : Type} : AMap α → Nat → α → AMap α
  | [], key, a => [(key, a)]
  | (k, b) :: r, key, a =>
    if key < k then (key, a) :: (k, b) :: r
    else if key = k then (key, a) :: r
    else (k, b) :: amSet r key a

/-- Takes the entry of a key out. -/
def amDel {α : Type} (m : AMap α) (key : Nat) : AMap α := m.filter (fun e => e.1 != key)

/-- Changes the entry of a key, starting from the default where the key is not listed. -/
def amMod {α : Type} (m : AMap α) (key : Nat) (d : α) (f : α → α) : AMap α := amSet m key (f (amGet m key d))

/-- The keys of a table, rising. -/
def amKeys {α : Type} (m : AMap α) : List Nat := m.map Prod.fst

/-- Changes every listed entry. -/
def amMap {α : Type} (m : AMap α) (f : Nat → α → α) : AMap α := m.map (fun e => (e.1, f e.1 e.2))

end Sys2Proof.Machine
end

