-- ==== Sys2Proof/Machine/Ops.lean ====
section
/-!
DEFINITION. The named operations over the state that every family shares: time, settings, events, sites and partitions,
stored bytes with their error marks, mesh messages, and packets put at a flow's source.
-/

namespace Sys2Proof.Machine

/-- What a meaning answers: the next state; no command of the model ends in a fault or a refusal. -/
abbrev Out := Host.Outcome State Fault Refusal

/-! ## Time -/

/-- The model's time in tenths of a ns since the pilot domain left reset: 64 for each reference cycle (R9, R297). -/
def now (s : State) : Nat := s.time.refCycles * 64

/-- Tenths of a ns in 1 µs. -/
def usT : Nat := 10000

/-- Tenths of a ns in 1 ms. -/
def msT : Nat := 10000000

/-- Tenths of a ns in 1 s. -/
def secT : Nat := 10000000000

/-- The value of a plain setting: index × 256 + subindex, and its default (R397, R422). -/
def reg (s : State) (key d : Nat) : Nat := amGet s.regs key d

/-- A pin at a reference edge: a switch of function under way ends, and a write held meanwhile is accepted. A new output
function drives its level from this edge (R458, R459). -/
def pinEdge (out : Bool) (p : Pin) : Pin :=
  match p.switching with
  | none => p
  | some f =>
    { p with func := f, switching := p.later, later := none, pulse := false
             drive := if f = 1 then some out else if f = 4 then some false else none
             level := if f = 1 ∨ f = 4 then p.level else p.sample }

/-- The sideband pins after n reference edges: two end every switch and every held write (R458). -/
def pinEdges (n : Nat) (s : State) : AMap Pin :=
  let edge := fun (m : AMap Pin) => amMap m (fun i (p : Pin) => pinEdge (reg s (0x400101 + i) 0 == 1) p)
  if n = 0 then s.pilot.pins else if n = 1 then edge s.pilot.pins else edge (edge s.pilot.pins)

/-- n reference cycles pass: the time of day advances by 6.4 ns for each (R297), and pins that switch take their new
function (R458). -/
def addCycles (n : Nat) (s : State) : State :=
  let t := s.time.tod.toNat * 10 + s.time.todTenths + n * 64
  { s with time := { s.time with refCycles := s.time.refCycles + n, tod := BitVec.ofNat 64 (t / 10), todTenths := t % 10 }
           pilot := { s.pilot with pins := pinEdges n s } }

/-- The reference runs on to a time, if it lies ahead (log 3). -/
def advanceTo (t : Nat) (s : State) : State := addCycles ((t - now s + 63) / 64) s

/-- The timing link is locked: characters and frames are received (R295, R299). -/
def linkLocked (s : State) : Bool := s.time.ref == .locked || s.time.regaining

/-- A wafer reset waits at the timing-link step of the power-up sequence (R299). The controllers run on through it (R431). -/
def linkWait (s : State) : Bool := s.pilot.waferReset.isSome && s.pilot.step == 3

/-- Reference cycles in 1 ms (R297). -/
def tickCycles : Nat := 156250

/-! ## Settings -/

/-- Writes a plain setting. -/
def setReg (key v : Nat) (s : State) : State := { s with regs := amSet s.regs key v }

/-- The management domain (R392). -/
def mgmtDomain (s : State) : Nat := reg s 0x250004 63

/-- The node ID (R274). -/
def nodeId (s : State) : Nat := s.fabric.node

/-! ## Controllers -/

/-- The other controller. -/
def otherCtl : Ctl → Ctl
  | .cope => .drag
  | .drag => .cope

/-- 0 cope, 1 drag (R409). -/
def ctlNum : Ctl → Nat
  | .cope => 0
  | .drag => 1

/-- A controller's state. -/
def getCtl (c : Ctl) (s : State) : CtlS :=
  match c with
  | .cope => s.cope
  | .drag => s.drag

/-- Changes a controller's state. -/
def modCtl (c : Ctl) (f : CtlS → CtlS) (s : State) : State :=
  match c with
  | .cope => { s with cope := f s.cope }
  | .drag => { s with drag := f s.drag }

/-- The controller that owns the lease, cope before the first grant. -/
def activeCtl (s : State) : Ctl := s.lease.owner.getD .cope

/-- Some controller holds the lease and serves (R395, R404). -/
def hasActive (s : State) : Bool := s.lease.owner.isSome

/-! ## Events (R407 to R411) -/

/-- A request of the wafer itself, with nothing named (R409). -/
def evWafer (code kind detail : Nat) : EvReq := ⟨code, kind, 7, 0xFF, 0xFFFF, 0xFFFF, 0xFF, 0x80, 0xFFFF, detail, false⟩

/-- Two requests come from one source: class, x, y and unit (R407). -/
def sameSource (a b : EvReq) : Bool := a.cls == b.cls && a.x == b.x && a.y == b.y && a.unit == b.unit

/-- A subsystem sends an event request: it enters the controller's 256 pending places, else one of its source's 4 waiting
places, else it is lost, counted and flagged (R407, R410). -/
def raise (e : EvReq) (s : State) : State :=
  if s.events.pending.length < 256 ∧ s.events.waiting = [] then
    { s with events := { s.events with pending := s.events.pending ++ [e] } }
  else if (s.events.waiting.filter (sameSource e)).length < 4 then
    { s with events := { s.events with waiting := s.events.waiting ++ [e] } }
  else
    { s with events := { s.events with lost := sat32 (s.events.lost + 1), lossFlag := true } }

/-- Sends several requests in order. -/
def raiseAll (es : List EvReq) (s : State) : State := es.foldl (fun s e => raise e s) s

/-- Withdraws every request that a test names, wherever it is (R411). -/
def withdraw (p : EvReq → Bool) (s : State) : State :=
  let f := fun e : EvReq => if p e then { e with withdrawn := true } else e
  { s with events := { s.events with waiting := s.events.waiting.map f, pending := s.events.pending.map f
                                     selected := s.events.selected.map f } }

/-! ## Sites, fields and partitions (R34 to R36, R189, R190) -/

/-- The number of a site: y × 288 + x (R275). -/
def siteKey (x y : Nat) : Nat := y * 288 + x

/-- x of a site. -/
def siteX (k : Nat) : Nat := k % 288

/-- y of a site. -/
def siteY (k : Nat) : Nat := k / 288

/-- The field of a site (R35). -/
def fieldOf (k : Nat) : Nat := siteY k / 40 * 8 + siteX k / 36

/-- The in-field position of a site: row by row from the field's south-west (R206). -/
def inField (k : Nat) : Nat := siteY k % 40 * 36 + siteX k % 36

/-- The site at an in-field position of a field. -/
def siteAt (f p : Nat) : Nat := siteKey (f % 8 * 36 + p % 36) (f / 8 * 40 + p / 36)

/-- The sites of a field, row by row. -/
def fieldSites (f : Nat) : List Nat := (List.range 1440).map (siteAt f)

/-- Spares that the vendor's test left in a field of a wafer with a grade count, all 80,640 sites being good: the spares of the
wafer shared evenly over the 56 fields, the first fields taking one more (R4, R5; log 9). -/
def testSpares (grade f : Nat) : Nat := (80640 - grade) / 56 + (if f < (80640 - grade) % 56 then 1 else 0)

/-- What the vendor's test made of a site: the grade count enabled and the others unassigned spares (R4, R5, R189; log 9). -/
def testState (grade k : Nat) : SiteState :=
  if inField k < testSpares grade (fieldOf k) then .spare else .enabled

/-- The state of a site (R189). -/
def siteState (s : State) (k : Nat) : SiteState := amGet s.mesh.sites k (testState s.ident.grade k)

/-- The site takes no part in routing: absent or retired (R26). -/
def siteAbsent (s : State) (k : Nat) : Bool :=
  match siteState s k with
  | .absentAtTest | .retiredCovered | .retiredUncovered => true
  | _ => false

/-- The cells of the site are out of reset when its field runs: enabled, or a spare that is assigned (R26). -/
def siteWorks (s : State) (k : Nat) : Bool :=
  match siteState s k with
  | .enabled | .spareAssigned => true
  | _ => false

/-- The position is served (R190). -/
def served (s : State) (k : Nat) : Bool :=
  match siteState s k with
  | .enabled | .retiredCovered => true
  | _ => false

/-- The physical site of a position: the spare that covers it, or the site itself (R145). -/
def physical (s : State) (k : Nat) : Nat := amGet s.mesh.cover k k

/-- The position that a site answers for: the one it covers, or its own. -/
def positionOf (s : State) (k : Nat) : Nat :=
  match s.mesh.cover.find? (fun e => e.2 == k) with
  | some e => e.1
  | none => k

/-- A field's power and owner. -/
def getFld (s : State) (f : Nat) : FieldPwr := amGet s.fld f {}

/-- Changes a field's power and owner. -/
def modFld (f : Nat) (g : FieldPwr → FieldPwr) (s : State) : State := { s with fld := amMod s.fld f {} g }

/-- A field's clock island. -/
def getClk (s : State) (f : Nat) : FieldClk := amGet s.clk f {}

/-- Changes a field's clock island. -/
def modClk (f : Nat) (g : FieldClk → FieldClk) (s : State) : State := { s with clk := amMod s.clk f {} g }

/-- The partition that holds a field (R30). -/
def holder (s : State) (f : Nat) : Option Nat :=
  match (getFld s f).owner with
  | .held p => some p
  | _ => none

/-- The partition that holds a site's field. -/
def siteHolder (s : State) (k : Nat) : Option Nat := holder s (fieldOf k)

/-- A partition that exists. -/
def getPart (s : State) (p : Nat) : Option Part := amFind s.parts p

/-- Changes a partition that exists. -/
def modPart (p : Nat) (g : Part → Part) (s : State) : State :=
  match amFind s.parts p with
  | some a => { s with parts := amSet s.parts p (g a) }
  | none => s

/-- The fields of a rectangle, in rising index (R36). -/
def rectFields (fx fy w h : Nat) : List Nat :=
  ((List.range h).map (fun j => (List.range w).map (fun i => (fy + j) * 8 + fx + i))).flatten

/-- The fields of a partition. -/
def partFields (a : Part) : List Nat := rectFields a.fx a.fy a.width a.height

/-- The south-west site of a partition (R143). -/
def southWest (a : Part) : Nat := siteKey (a.fx * 36) (a.fy * 40)

/-- The site at a position (u, v) of a partition (R143, R145). -/
def atUV (a : Part) (u v : Nat) : Nat := siteKey (a.fx * 36 + u) (a.fy * 40 + v)

/-- A site lies in a partition's rectangle. -/
def inPart (a : Part) (k : Nat) : Bool :=
  a.fx * 36 ≤ siteX k && siteX k < (a.fx + a.width) * 36 && a.fy * 40 ≤ siteY k && siteY k < (a.fy + a.height) * 40

/-- The domain of the partition that holds a site, if any. -/
def siteDomain (s : State) (k : Nat) : Option Nat :=
  match siteHolder s k with
  | some p => (getPart s p).map Part.domain
  | none => none

/-- The partition of this wafer that holds a domain (R374). -/
def partOfDomain (s : State) (d : Nat) : Option Nat := (s.parts.find? (fun e => e.2.domain == d)).map Prod.fst

/-- A request that names a cell, with the partition and domain that hold it (R22, R409). -/
def evCell (s : State) (code kind : Nat) (c : CellRef) (detail : Nat) : EvReq :=
  let p := siteHolder s (siteKey c.x c.y)
  ⟨code, kind, 0, p.getD 0xFF, c.x, c.y, c.slot, (siteDomain s (siteKey c.x c.y)).getD 0x80, 0xFFFF, detail, false⟩

/-- A request that names a field. -/
def evField (s : State) (code kind f detail : Nat) : EvReq :=
  let p := holder s f
  ⟨code, kind, 1, p.getD 0xFF, 0xFFFF, 0xFFFF, f, ((p.bind (getPart s)).map Part.domain).getD 0x80, 0xFFFF, detail, false⟩

/-- A request that names an edge port. -/
def evPort (code kind port detail : Nat) : EvReq := ⟨code, kind, 2, 0xFF, 0xFFFF, 0xFFFF, port, 0x80, 0xFFFF, detail, false⟩

/-- A request of an edge port about a packet of a node and domain. -/
def evPortPkt (s : State) (code kind port domain node detail : Nat) : EvReq :=
  ⟨code, kind, 2, (partOfDomain s domain).getD 0xFF, 0xFFFF, 0xFFFF, port, domain, node, detail, false⟩

/-- A request of a controller. -/
def evCtl (code kind : Nat) (c : Ctl) (detail : Nat) : EvReq :=
  ⟨code, kind, 3, 0xFF, 0xFFFF, 0xFFFF, ctlNum c, 0x80, 0xFFFF, detail, false⟩

/-- A request of the pilot domain. -/
def evPilot (code kind detail : Nat) : EvReq := ⟨code, kind, 5, 0xFF, 0xFFFF, 0xFFFF, 0xFF, 0x80, 0xFFFF, detail, false⟩

/-- A request of the active controller about a partition. -/
def evPart (s : State) (code kind p detail : Nat) : EvReq :=
  ⟨code, kind, 3, p, 0xFFFF, 0xFFFF, ctlNum (activeCtl s), ((getPart s p).map Part.domain).getD 0x80, 0xFFFF, detail, false⟩

/-! ## Tiles and cells -/

/-- The state of a site's tile. -/
def getTile (s : State) (k : Nat) : Tile := amGet s.tiles k {}

/-- Changes a site's tile. -/
def modTile (k : Nat) (g : Tile → Tile) (s : State) : State := { s with tiles := amMod s.tiles k {} g }

/-- A compute cell of a site. -/
def getCC (s : State) (k slot : Nat) : CC := amGet (getTile s k).cc slot {}

/-- Changes a compute cell. -/
def modCC (k slot : Nat) (g : CC → CC) (s : State) : State :=
  modTile k (fun t => { t with cc := amMod t.cc slot {} g }) s

/-- An address generator of a site. -/
def getAG (s : State) (k g : Nat) : AG := amGet (getTile s k).ag g {}

/-- Changes an address generator. -/
def modAG (k g : Nat) (h : AG → AG) (s : State) : State :=
  modTile k (fun t => { t with ag := amMod t.ag g {} h }) s

/-- A cell as one number: site × 4 + slot. -/
def cellKey (k slot : Nat) : Nat := k * 4 + slot

/-! ## Stored bytes (R20, R45, R67, R275) -/

/-- Bytes of each space: overlay, staging bank, operand store (R72). -/
def spaceSize (space : Nat) : Nat :=
  match space with
  | 0 => 2097152
  | 1 => 131072
  | 2 => 49152
  | _ => 0

/-- Where a space begins among the bytes of a site: overlay, staging bank, operand store of a slot. -/
def spaceBase (space slot : Nat) : Nat :=
  match space with
  | 0 => 0
  | 1 => 0x200000
  | _ => 0x220000 + 0x10000 * slot

/-- The key of a byte: the site, the space, the slot of an operand store, and the byte address. -/
def memKey (k space slot addr : Nat) : Nat := k * 0x400000 + spaceBase space slot + addr

/-- What a byte that no write has listed reads as: every store is written to zero at power-up (R428; log 7). -/
def memDefault : Byte := 0

/-- The byte at a key. -/
def cellGet : List Host.Cell → Nat → Byte
  | [], _ => memDefault
  | (k, b) :: r, a => if k = a then b else if a < k then memDefault else cellGet r a

/-- Writes one byte and keeps the canonical form. -/
def cellSet : List Host.Cell → Nat → Byte → List Host.Cell
  | [], a, b => if b = memDefault then [] else [(a, b)]
  | (k, c) :: r, a, b =>
    if a < k then if b = memDefault then (k, c) :: r else (a, b) :: (k, c) :: r
    else if k = a then if b = memDefault then r else (a, b) :: r
    else (k, c) :: cellSet r a b

/-- Addresses strictly rising, and no entry that reads as an unlisted one. -/
def Memory.wfFrom : Option Nat → List Host.Cell → Bool
  | _, [] => true
  | lo, (k, b) :: r =>
    (match lo with
     | none => true
     | some l => decide (l < k)) && b != memDefault && Memory.wfFrom (some k) r

/-- The canonical form of the stored bytes. -/
def Memory.wf (m : List Host.Cell) : Bool := Memory.wfFrom none m

/-- One stored byte. -/
def readByte (s : State) (key : Nat) : Byte := cellGet s.mem key

/-- n bytes from a key. -/
def readBytes (s : State) (key n : Nat) : List Byte := (List.range n).map (fun i => cellGet s.mem (key + i))

/-- Writes bytes from a key on. -/
def cellsSet : List Host.Cell → Nat → List Byte → List Host.Cell
  | m, _, [] => m
  | m, a, b :: r => cellsSet (cellSet m a b) (a + 1) r

/-- The 64-bit words that n bytes from a key touch (R67). -/
def wordKeys (key n : Nat) : List Nat :=
  if n = 0 then [] else (List.range ((key + n - 1) / 8 + 1 - key / 8)).map (fun i => key / 8 + i)

/-- Writes bytes: a word that is written takes new check bits, so its error mark goes (R67); DESIGN CHOICE (log 131): also where only part
of the word is written. -/
def writeBytes (key : Nat) (bs : List Byte) (s : State) : State :=
  let ws := wordKeys key bs.length
  { s with mem := cellsSet s.mem key bs, ecc := s.ecc.filter (fun e => !ws.contains e.1) }

/-- Takes out every byte and mark whose site a test names: they read zero (R371, R380, R428). -/
def zeroSites (p : Nat → Bool) (s : State) : State :=
  { s with mem := s.mem.filter (fun c => !p (c.1 / 0x400000)), ecc := s.ecc.filter (fun e => !p (e.1 / 0x80000)) }

/-- The hour of the model's time (R205). -/
def hourOf (s : State) : Nat := now s / (3600 * secT)

/-- One corrected error of a tile: counted for its field, and for the tile in the present hour; at the threshold event
0x110 (R67, R205, R206). -/
def countCorrected (k : Nat) (s : State) : State :=
  let t := getTile s k
  let n := if t.correctedHour = hourOf s then t.corrected + 1 else 1
  let s := modTile k (fun t => { t with corrected := n, correctedHour := hourOf s }) s
  let s := modFld (fieldOf k) (fun f => { f with corrected := sat32 (f.corrected + 1) }) s
  if n = reg s 0x2B0006 1000 then raise (evCell s 0x110 1 ⟨siteX k, siteY k, 3⟩ n) s else s

/-- Reading bytes meets an uncorrectable error (R67). -/
def hasDouble (s : State) (key n : Nat) : Bool := (wordKeys key n).any (fun w => amFind s.ecc w == some .double)

/-- Reading bytes corrects each single-bit error and counts it once (R67). -/
def touchRead (key n : Nat) (s : State) : State :=
  (wordKeys key n).foldl
    (fun s w =>
      if amFind s.ecc w = some .single then countCorrected (w / 0x80000) { s with ecc := amSet s.ecc w .counted } else s) s

/-! ## The wafer mesh -/

/-- Traffic of a domain stops the hang timer of its partition (R227). -/
def noteTraffic (domain : Nat) (s : State) : State :=
  match partOfDomain s domain with
  | some p => modPart p (fun a => { a with hangTimer := none }) s
  | none => s

/-- The account of house in the activity tables; a partition's account is its ID (R321). -/
def houseAccount : Nat := 56

/-- The account of a domain: the partition of this wafer that holds it, else house (R320, R321). -/
def domainAccount (s : State) (domain : Nat) : Nat := (partOfDomain s domain).getD houseAccount

/-- Counts ring activity of an account: link blocks, ring-switch passes and mesh attachments (R321). -/
def ringCount (account n : Nat) (s : State) : State :=
  { s with power := { s.power with ringActivity := amMod s.power.ringActivity account 0 (· + n) } }

/-- A message leaves its cell; a data packet that leaves the ring for the mesh passes an attachment (R321). -/
def send (m : MeshMsg) (s : State) : State :=
  let s := if !m.control && m.head.src.x == 0x1FF then ringCount (domainAccount s m.head.domain) 1 s else s
  noteTraffic m.head.domain { s with mesh := { s.mesh with flight := s.mesh.flight ++ [m] } }

/-- A message has the header, network and kind given. -/
def isMsg (h : Head) (control : Bool) (kind : Nat) (m : MeshMsg) : Bool :=
  m.head == h && m.control == control && m.kind == kind

/-- Every packet and control message of the mesh: those that routers hold, and those that no router holds yet (R227). -/
def inMesh (s : State) : List MeshMsg := s.mesh.transit.map Moving.msg ++ s.mesh.flight

/-- The first message of a kind leaves the mesh. -/
def leaveMesh (p : MeshMsg → Bool) (s : State) : State :=
  if s.mesh.transit.any (fun v => p v.msg) then
    { s with mesh := { s.mesh with transit := s.mesh.transit.eraseP (fun v => p v.msg) } }
  else { s with mesh := { s.mesh with flight := s.mesh.flight.eraseP p } }

/-- A message arrives: the first such message leaves the mesh (R227). -/
def land (h : Head) (control : Bool) (kind : Nat) (s : State) : State := leaveMesh (isMsg h control kind) s

/-- The site that a header names as destination. -/
def dstSite (h : Head) : Nat := siteKey h.dst.x h.dst.y

/-- The header's destination is a tile and not the ring or a crest unit. -/
def dstIsTile (h : Head) : Bool := h.dst.x < 288 && h.dst.y < 280

/-- The router at the destination delivers: the domain is that of the partition that holds the cell's field, and the site
answers (R26, R31, R180). -/
def delivers (s : State) (h : Head) : Bool :=
  dstIsTile h && siteWorks s (dstSite h) && siteDomain s (dstSite h) == some h.domain

/-- Destination coordinates that name the ring or a crest unit (R181, R289). -/
def ringXY : Nat := 0x1FF

/-- The header of an answer: source and destination exchanged. -/
def replyHead (h : Head) (target : Nat) : Head := ⟨h.dst, h.src, target, h.domain, h.tag⟩

/-! ## Packets at their source (R247, R259) -/

/-- A flow as one number: peer node × 64 + domain (R258). -/
def flowKey (node domain : Nat) : Nat := node * 64 + domain

/-- The sending end of a flow. -/
def getTx (s : State) (node domain : Nat) : FlowTx := amGet s.fabric.tx (flowKey node domain) {}

/-- Changes the sending end of a flow. -/
def modTx (node domain : Nat) (g : FlowTx → FlowTx) (s : State) : State :=
  { s with fabric := { s.fabric with tx := amMod s.fabric.tx (flowKey node domain) {} g } }

/-- A domain has a send key on this wafer (R269, R377). -/
def hasSendKey (s : State) (domain : Nat) : Bool := ((amFind s.sec.slots domain).bind KeySlots.send).isSome

/-- A host node has a route entry (R244). -/
def hostRoute (s : State) (node : Nat) : Option Nat :=
  ((List.range 0xFE).map (fun i => reg s (0x262001 + i) 0)).find? (fun v => v != 0 && bitsOf v 47 32 == node)

/-- A packet is put at its source. Without a send key, or for a host without a route, it is reported failed at once with
event 0x207 (R244, R269); else it waits for a credit (R259). -/
def enqueue (p : Packet) (s : State) : State :=
  if !hasSendKey s p.domain || (p.dst ≥ 12288 && (hostRoute s p.dst).isNone) then
    let s := { s with fabric := { s.fabric with refusedAtSource := s.fabric.refusedAtSource + 1
                                                failedPkts := s.fabric.failedPkts + 1 } }
    raise ⟨0x207, 2, 7, p.part.getD 0xFF, 0xFFFF, 0xFFFF, 0xFF, p.domain, p.dst, 0, false⟩ s
  else modTx p.dst p.domain (fun f => { f with waiting := f.waiting ++ [p] }) s

/-- A packet of the device for a node: opcode and payload. -/
def sendPkt (node domain opcode : Nat) (data : List Byte) (s : State) : State :=
  enqueue ⟨node, domain, opcode, data, false, none⟩ s

/-! ## Activity (R320) -/

/-- Counts activity of a field for an account. The categories: 0 to 4 multiply-array cycles of the width classes of R115, 5 and 6
drain element operations of binary32 and binary64, 7 to 9 accesses of operand store, staging bank and overlay, 10 and 11 data
flits and control words per hop, 12 and 13 the same per ridge crossing (R320). -/
def countActivity (f account category n : Nat) (s : State) : State :=
  if n = 0 then s
  else modFld f (fun (x : FieldPwr) => { x with activity := amMod x.activity (account * 16 + category) 0 (· + n) }) s

/-- Counts accesses of a site's stores by its memory cell: space 0 overlay, 1 staging bank, 2 operand store (R320). -/
def countAccess (k space n : Nat) (s : State) : State :=
  countActivity (fieldOf k) ((siteHolder s k).getD houseAccount) (9 - space) n s

/-- Bytes of one access of a space: overlay, staging bank, operand store (R67, R69). -/
def accessBytes (space : Nat) : Nat := if space = 1 then 128 else 256

/-- The aligned blocks of a space that some bytes touch, in order (R67, R69). -/
def blocksOf (space addr n : Nat) : List Nat :=
  if n = 0 then []
  else (List.range ((addr + n - 1) / accessBytes space + 1 - addr / accessBytes space)).map (fun i => addr / accessBytes space + i)

/-- Accesses that runs of bytes of a space take: one for each aligned block, shared by runs that follow one another in it, as the
worked example of R82 counts them (R67). -/
def accessesOf (space : Nat) (runs : List (Nat × Nat)) : Nat :=
  let bs := runs.flatMap (fun e => blocksOf space e.1 e.2)
  ((bs.zip (none :: bs.map some)).filter (fun e => some e.1 != e.2)).length

/-- Operations that a partition has issued on the fabric and that are not complete: its packets waiting or outstanding, and
its descriptors (R42, R259, R288). -/
def partOutstanding (s : State) (p : Nat) : Nat :=
  let pk := (s.fabric.tx.map (fun e =>
    (e.2.waiting.filter (fun q => q.part == some p)).length + (e.2.out.filter (fun o => o.wire.pkt.part == some p)).length)).sum
  let ds := (s.tiles.map (fun e =>
    if siteHolder s e.1 == some p then e.2.descs.length + e.2.waiting.length else 0)).sum
  pk + ds

/-- A destructive self-test runs on a partition and counts as its running section (R444). -/
def testHolds (s : State) (p : Nat) : Bool :=
  s.test.st == 1 &&
  (let t := bitsOf s.test.echo.toNat 31 24
   let scope := bitsOf s.test.echo.toNat 23 16
   let id := bitsOf s.test.echo.toNat 15 8
   (t == 5 || t == 6) &&
   ((scope == 0 && id == p) || (scope == 1 && holder s id == some p) || scope == 2))

/-- The partition is quiesced: no section runs or is queued, and no fabric operation it issued is outstanding (R42). -/
def quiesced (s : State) (p : Nat) : Bool :=
  match getPart s p with
  | some a => a.current.isNone && a.queue.isEmpty && partOutstanding s p == 0 && !testHolds s p
  | none => true

/-- The slowest field clock of a partition as a fraction of 1.50 GHz: the target code, at least 1 (R158). -/
def slowestCode (s : State) (a : Part) : Nat :=
  (partFields a).foldl (fun m f => let c := (getClk s f).target; if c = 0 then m else min m c) 3840

end Sys2Proof.Machine
end

