-- ==== Sys2Proof/Machine/Routing.lean ====
section
/-!
DEFINITION. Routing over the grid: hops, detour entries and their verification, ring attachments, the nearest spare (R183 to
R188, R191, R245, R289).
-/

namespace Sys2Proof.Machine

/-- Direction numbers: 0 north, 1 east, 2 south, 3 west (R174). -/
def dirNum : Dir → Nat
  | .north => 0
  | .east => 1
  | .south => 2
  | .west => 3

/-- The neighbour of a site in a direction, if it lies on the wafer (R34). -/
def neighbour (k : Nat) (d : Nat) : Option Nat :=
  let x := siteX k
  let y := siteY k
  match d with
  | 0 => if y < 279 then some (siteKey x (y + 1)) else none
  | 1 => if x < 287 then some (siteKey (x + 1) y) else none
  | 2 => if y > 0 then some (siteKey x (y - 1)) else none
  | _ => if x > 0 then some (siteKey (x - 1) y) else none

/-- Hops between two sites without detours, without the two local hops (R183). -/
def hops (a b : Nat) : Nat :=
  (max (siteX a) (siteX b) - min (siteX a) (siteX b)) + (max (siteY a) (siteY b) - min (siteY a) (siteY b))

/-- The sidestep that R187 prefers for an output toward an absent site: within the absent tile's field, turning inward at
its edge rows and columns. -/
def preferred (absent d : Nat) : Nat :=
  if d = 1 ∨ d = 3 then if siteY absent % 40 = 39 then 2 else 0
  else if siteX absent % 36 = 35 then 3 else 1

/-- The opposite direction. -/
def opposite (d : Nat) : Nat := (d + 2) % 4

/-- A site can be entered: it is on the wafer and present. -/
def canEnter (absent : Nat → Bool) (k d : Nat) : Bool :=
  match neighbour k d with
  | some n => !absent n
  | none => false

/-- The detour entry of a router for an output whose neighbour is absent: the preferred sidestep, else the other direction,
else none (R187). -/
def detourEntry (absent : Nat → Bool) (k d : Nat) : Option Nat :=
  match neighbour k d with
  | none => none
  | some n =>
    if !absent n then none
    else
      let p := preferred n d
      if canEnter absent k p then some p
      else if canEnter absent k (opposite p) then some (opposite p)
      else none

/-- The entries of a router: output and sidestep (R186). -/
def detourEntries (absent : Nat → Bool) (k : Nat) : AMap Nat :=
  (List.range 4).filterMap (fun d => (detourEntry absent k d).map (fun e => (d, e)))

/-- The direction of the next hop toward a destination, in x before y or in y before x (R185, R186). -/
def nextDir (yFirst : Bool) (k dst : Nat) : Option Nat :=
  let ex := if siteX k < siteX dst then some 1 else if siteX dst < siteX k then some 3 else none
  let ey := if siteY k < siteY dst then some 0 else if siteY dst < siteY k then some 2 else none
  if yFirst then ey <|> ex else ex <|> ey

/-- The channels that a packet takes from a router, by the sites that are off and the entries of each router; none where the route
does not end. Each is site × 8 + direction, plus 4 on a detour channel (R185, R186). -/
def routeFrom (off : Nat → Bool) (entry : Nat → Nat → Option Nat) : Nat → Bool → Bool → Nat → Nat → Option (List Nat)
  | 0, _, _, _, _ => none
  | n + 1, detour, yFirst, k, dst =>
    match nextDir yFirst k dst with
    | none => some []
    | some d =>
      match entry k d with
      | some e =>
        match neighbour k e with
        | none => none
        | some m =>
          if off m then none
          else (routeFrom off entry n true (d == 0 || d == 2) m dst).map (fun r => (k * 8 + 4 + e) :: r)
      | none =>
        match neighbour k d with
        | none => none
        | some m =>
          if off m then none
          else (routeFrom off entry n detour yFirst m dst).map (fun r => (k * 8 + (if detour then 4 else 0) + d) :: r)

/-- Two sites are at most two columns and two rows apart: a route past one may meet the other. -/
def nearBy (a b : Nat) : Bool :=
  siteX a ≤ siteX b + 2 && siteX b ≤ siteX a + 2 && siteY a ≤ siteY b + 2 && siteY b ≤ siteY a + 2

/-- The absent sites of a site's cluster: those that a chain of near ones joins to it, by at most n steps. -/
def clusterOf (gone : List Nat) : Nat → List Nat → List Nat
  | 0, c => c
  | n + 1, c =>
    let more := gone.filter (fun a => !c.contains a && c.any (nearBy a))
    if more.isEmpty then c else clusterOf gone n (c ++ more)

/-- The present sites of the smallest rectangle around a cluster, with a margin of four columns and rows. -/
def around (absent : Nat → Bool) (c : List Nat) : List Nat :=
  let x0 := (c.map siteX).foldl min 287 - 4
  let y0 := (c.map siteY).foldl min 279 - 4
  let x1 := min 287 ((c.map siteX).foldl max 0 + 4)
  let y1 := min 279 ((c.map siteY).foldl max 0 + 4)
  (List.range (y1 + 1 - y0)).flatMap (fun j => (List.range (x1 + 1 - x0)).filterMap (fun i =>
    if absent (siteKey (x0 + i) (y0 + j)) then none else some (siteKey (x0 + i) (y0 + j))))

/-- The routes that meet an absent site of a cluster from a neighbour, to every present site around the cluster. -/
def routesPast (absent : Nat → Bool) (c : List Nat) : List (Option (List Nat)) :=
  let dsts := around absent c
  c.flatMap (fun k => (List.range 4).flatMap (fun d =>
    match neighbour k d with
    | none => []
    | some n =>
      if absent n then []
      else dsts.flatMap (fun dst => [false, true].map (fun yf => routeFrom absent (detourEntry absent) 700 false yf n dst))))

/-- Consecutive detour channels of a route. -/
def detourPairs : List Nat → List (Nat × Nat)
  | a :: b :: r => if a % 8 ≥ 4 ∧ b % 8 ≥ 4 then (a, b) :: detourPairs (b :: r) else detourPairs (b :: r)
  | _ => []

/-- Takes out, n times, every dependency whose second channel waits for no other. -/
def pruneDeps : Nat → List (Nat × Nat) → List (Nat × Nat)
  | 0, es => es
  | n + 1, es => pruneDeps n (es.filter (fun e => es.any (fun f => f.1 == e.2)))

/-- The routes past a cluster of absent sites end, and their detour channels wait for one another in no cycle (R187; log 21). -/
def clusterOk (absent : Nat → Bool) (c : List Nat) : Bool :=
  let rs := routesPast absent c
  rs.all Option.isSome &&
  (let es := (rs.flatMap (fun r => detourPairs (r.getD []))).eraseDups
   (pruneDeps es.length es).isEmpty)

/-- The absent sites: those absent at test and the retired ones (R26, R189). -/
def absentSites (s : State) : List Nat := (s.mesh.sites.filter (fun e => siteAbsent s e.1)).map Prod.fst

/-- The cluster of an absent site on the wafer. -/
def clusterAt (s : State) (k : Nat) : List Nat := clusterOf (absentSites s) (absentSites s).length [k]

/-- The site that the firmware marks next where a cluster fails: the nearest unassigned spare around it, else the nearest enabled
tile, ties to the lowest y and then the lowest x (R187). -/
def markNext (s : State) (k : Nat) : Option Nat :=
  let c := clusterAt s k
  let near := around (siteAbsent s) c
  let far := fun (n : Nat) => (c.map (hops n)).foldl min 1000
  let best := fun (st : SiteState) => (near.filter (fun n => siteState s n == st)).foldl
    (fun (b : Option Nat) n =>
      match b with
      | none => some n
      | some m => if far n < far m then some n else some m) none
  best .spare <|> best .enabled

/-- An edge tile. -/
def onEdge (k : Nat) : Bool := siteX k == 0 || siteX k == 287 || siteY k == 0 || siteY k == 279

/-- The attachments follow the defect map: they take effect with the detour entries (R188, R245). -/
def latchEdges (s : State) : State := { s with mesh := { s.mesh with edgeGone := (absentSites s).filter onEdge } }

/-- Writes every router's detour entries, and the attachments, from the defect map (R187, R245). -/
def writeDetours (s : State) : State :=
  let ks := ((absentSites s).flatMap (fun k => (List.range 4).filterMap (neighbour k))).eraseDups
  let s := { s with tiles := s.tiles.map (fun e => (e.1, { e.2 with detours := [] })) }
  ks.foldl (fun s k => modTile k (fun t => { t with detours := detourEntries (siteAbsent s) k }) s) (latchEdges s)

/-- The edge tile nearest to a site, of those present when the attachments were built, and its edge: 3 west, 1 east, 2 south, 0
north, in the order of ties of R245. -/
def attachment (s : State) (k : Nat) : Nat × Nat :=
  let west := (List.range 280).map (fun y => (3, siteKey 0 y))
  let east := (List.range 280).map (fun y => (1, siteKey 287 y))
  let south := (List.range 288).map (fun x => (2, siteKey x 0))
  let north := (List.range 288).map (fun x => (0, siteKey x 279))
  ((west ++ east ++ south ++ north).filter (fun e => !s.mesh.edgeGone.contains e.2)).foldl
    (fun b e => if hops k e.2 < hops k b.2 then e else b) (3, siteKey 1000 1000)

/-- The translation cache of a tile's exit attachment: 64 north, 65 east, 66 south, 67 west (R278, R289, R293). -/
def exitCache (s : State) (k : Nat) : Nat := 64 + (attachment s k).1

/-- The nearest unassigned spare of a site's field, ties to the lowest y and then the lowest x (R25, R191). -/
def nearestSpare (s : State) (k : Nat) : Option Nat :=
  ((fieldSites (fieldOf k)).filter (fun n => siteState s n == .spare)).foldl
    (fun (b : Option Nat) n =>
      match b with
      | none => some n
      | some m => if hops k n < hops k m then some n else some m) none

/-- Where a message enters the mesh and where it leaves it: its cells' sites, or the attachments of the ring (R245, R289). -/
def meshEnds (s : State) (h : Head) : Nat × Nat :=
  let src := siteKey h.src.x h.src.y
  let tile := h.src.x < 288 && h.src.y < 280
  (if tile then src else (attachment s (dstSite h)).2, if dstIsTile h then dstSite h else (attachment s src).2)

/-- A router that its neighbours do not send to: an absent tile's, or one that has faulted (R26, R204). -/
def routerGone (s : State) (k : Nat) : Bool := siteAbsent s k || (getTile s k).routerOff

/-- The detour entry that a router holds for an output (R186, R188). -/
def heldEntry (s : State) (k d : Nat) : Option Nat := amFind (getTile s k).detours d

/-- The channels from one site to another by the entries that the routers hold; none while a router on the way is off (R188, R204). -/
def routeNow (s : State) (a b : Nat) : Option (List Nat) := routeFrom (routerGone s) (heldEntry s) 1200 false false a b

/-! ## Multicast trees (R194 to R196) -/

/-- A number held to a range. -/
def clampTo (v lo hi : Nat) : Nat := max lo (min v hi)

/-- The rectangle of a multicast, or the window of a mask, with the mask: corners and selected positions (R182, R194, R195, R197);
none for another message. -/
def castArea (m : MeshMsg) : Option (Nat × Nat × Nat × Nat × List Nat) :=
  let x0 := m.head.dst.x
  let y0 := m.head.dst.y
  let area := fun (x1 y1 : Nat) =>
    (List.range (min (y1 + 1) 280 - y0)).flatMap (fun j => (List.range (min (x1 + 1) 288 - x0)).map (fun i => siteKey (x0 + i) (y0 + j)))
  if m.control && m.kind == 8 then
    let w := fieldAt m.body 0 4
    some (x0, y0, bitsOf w 31 23, bitsOf w 22 14, area (bitsOf w 31 23) (bitsOf w 22 14))
  else if !m.control && m.kind == 5 then
    some (x0, y0, fieldAt m.body 0 2, fieldAt m.body 2 2, area (fieldAt m.body 0 2) (fieldAt m.body 2 2))
  else if !m.control && m.kind == 6 then
    let mask := fieldAt m.body 0 8
    some (x0, y0, min 287 (x0 + 7), min 279 (y0 + 7), (area (x0 + 7) (y0 + 7)).filter (fun k => bitAt mask ((siteY k - y0) * 8 + (siteX k - x0))))
  else none

/-- The router at which a multicast begins to spread (R194). -/
def castRoot (src x0 y0 x1 y1 : Nat) : Nat := siteKey (clampTo (siteX src) x0 x1) (clampTo (siteY src) y0 y1)

/-- The sites of a line from one coordinate, not counted, to another. -/
def lineOf (site : Nat → Nat) (a b : Nat) : List Nat :=
  if a ≤ b then (List.range (b - a)).map (fun i => site (a + 1 + i)) else (List.range (a - b)).map (fun i => site (a - 1 - i))

/-- The channels of a branch along a line of sites: an absent site is passed by sidestep, and the branch goes on after it (R196). -/
def chainLinks (s : State) : Nat → List Nat → List Nat
  | _, [] => []
  | a, b :: r => if routerGone s b then chainLinks s a r else (routeNow s a b).getD [] ++ chainLinks s b r

/-- The channels by which a multicast spreads from its root: along the row to the columns with selected tiles, and in each such
column to the selected tiles (R194, R195). -/
def spreadLinks (s : State) (root : Nat) (ks : List Nat) : List Nat :=
  let cx := siteX root
  let cy := siteY root
  let xs := ks.map siteX
  let row := fun (x : Nat) => siteKey x cy
  let cols := xs.eraseDups.flatMap (fun x =>
    let ys := (ks.filter (fun k => siteX k == x)).map siteY
    let foot := ((row cx :: lineOf row cx x).filter (fun k => !routerGone s k)).getLastD root
    chainLinks s foot (lineOf (siteKey x) cy (ys.foldl max cy)) ++ chainLinks s foot (lineOf (siteKey x) cy (ys.foldl min cy)))
  chainLinks s root (lineOf row cx (xs.foldl max cx)) ++ chainLinks s root (lineOf row cx (xs.foldl min cx)) ++ cols

/-- Where a message goes first: its destination, its ring attachment, or the root of its multicast (R185, R194, R289). -/
def goalOf (s : State) (m : MeshMsg) : Nat :=
  let (a, b) := meshEnds s m.head
  match castArea m with
  | some (x0, y0, x1, y1, _) => castRoot a x0 y0 x1 y1
  | none => b

/-- The channels that a message takes through the mesh, and the sites at which it leaves a router for a cell or the ring (R183,
R194 to R196). -/
def pathOf (s : State) (m : MeshMsg) : List Nat × List Nat :=
  let way := (routeNow s (meshEnds s m.head).1 (goalOf s m)).getD []
  match castArea m with
  | some (_, _, _, _, ks) => (way ++ spreadLinks s (goalOf s m) ks, ks.filter (served s))
  | none => (way, [goalOf s m])

/-- Flits of a data packet or words of a control message (R174, R181). -/
def msgUnits (m : MeshMsg) : Nat := if m.control then 2 + m.body.length / 4 else 1 + (m.body.length - 48 + 63) / 64

/-- Counts the hops and ridge crossings of a message: flits of the data network, words of the control network (R320). -/
def noteHops (m : MeshMsg) (s : State) : State :=
  let (links, ends) := pathOf s m
  let who := domainAccount s m.head.domain
  let cat := if m.control then 11 else 10
  let units := msgUnits m
  let s := links.foldl (fun s c =>
    let f := fieldOf (c / 8)
    let s := countActivity f who cat units s
    match neighbour (c / 8) (c % 4) with
    | some n => if fieldOf n = f then s else countActivity f who (cat + 2) units s
    | none => s) s
  ends.foldl (fun s k => countActivity (fieldOf k) who cat units s) s

/-- A message has crossed the mesh: it is counted, and leaves the mesh (R227, R320). A data packet that reaches the ring passes an
attachment (R321). -/
def crossed (h : Head) (control : Bool) (kind : Nat) (s : State) : State :=
  match (inMesh s).find? (isMsg h control kind) with
  | none => s
  | some m =>
    let s := if !control && !dstIsTile h then ringCount (domainAccount s h.domain) 1 s else s
    noteHops m (land h control kind s)

/-- The gate of the ridge between two fields is closed: they do not belong to one partition, and are not both idle (R372). -/
def gateClosed (s : State) (f g : Nat) : Bool :=
  f != g && !((getFld s f).owner == (getFld s g).owner && (getFld s f).owner != .scrubbing)

/-- A closed gate passes a packet or message into a field: one for the ring, in transit to another partition, or into the partition on
its far side in that partition's domain (R373). -/
def gatePasses (s : State) (h : Head) (far : Nat) : Bool :=
  !dstIsTile h ||
  (match siteHolder s (dstSite h) with
   | some q => holder s far != some q || siteDomain s (dstSite h) == some h.domain
   | none => false)

/-- A ridge gate on the way discards a packet or message (R373). -/
def gateStops (s : State) (h : Head) : Bool :=
  ((routeNow s (meshEnds s h).1 (meshEnds s h).2).getD []).any (fun c =>
    match neighbour (c / 8) (c % 4) with
    | some n => gateClosed s (fieldOf (c / 8)) (fieldOf n) && !gatePasses s h (fieldOf n)
    | none => false)

/-- The event code for a packet or message that is not delivered: 0x307 where a closed ridge gate on its way discards it, 0x113 where
the destination is absent or unserved, 0x114 where the domain differs at the destination (R180, R205, R373). -/
def refuseCode (s : State) (h : Head) : Nat :=
  if !dstIsTile h then 0x113
  else if gateStops s h then 0x307
  else if siteWorks s (dstSite h) then 0x114
  else 0x113

/-- The event for a packet or message that is not delivered; the record names the source cell (R180, R373). -/
def refuseEvent (s : State) (h : Head) : EvReq :=
  let code := refuseCode s h
  { evCell s code (if code = 0x307 then 1 else 2) h.src 0 with domain := h.domain }

end Sys2Proof.Machine
end

