-- ==== Sys2Proof/Machine/Crypto.lean ====
section
/-!
DEFINITION. The named standard functions of the security chapter: SHA-256, HMAC and HKDF (R375, R376), SHA-512 and Ed25519
verification (R384, R387), X25519 (R375). PRESUMED from the standards that the spec names (log 11).
-/

namespace Sys2Proof.Machine

/-- Rotates a word of w bits right. -/
def rotr (w n v : Nat) : Nat := (v / 2 ^ n) ||| (v * 2 ^ (w - n) % 2 ^ w)

/-- The first 64 primes, from which both hash functions draw their constants. -/
def primes64 : List Nat :=
  [2, 3, 5, 7, 11, 13, 17, 19, 23, 29, 31, 37, 41, 43, 47, 53, 59, 61, 67, 71, 73, 79, 83, 89, 97, 101, 103, 107, 109,
   113, 127, 131, 137, 139, 149, 151, 157, 163, 167, 173, 179, 181, 191, 193, 197, 199, 211, 223, 227, 229, 233, 239,
   241, 251, 257, 263, 269, 271, 277, 281, 283, 293, 307, 311]

/-- The next 16 primes, which SHA-512 uses beside them. -/
def primes80 : List Nat := primes64 ++ [313, 317, 331, 337, 347, 349, 353, 359, 367, 373, 379, 383, 389, 397, 401, 409]

/-- The greatest r with r ^ p ≤ n, by bits from bit k down. -/
def rootBits (p n : Nat) : Nat → Nat → Nat
  | 0, r => r
  | k + 1, r => let t := r + 2 ^ k; rootBits p n k (if t ^ p ≤ n then t else r)

/-- The first w fractional bits of the p-th root of n. -/
def rootFrac (p n w : Nat) : Nat := rootBits p (n * 2 ^ (p * w)) (w + 6) 0 % 2 ^ w

/-- A hash of the SHA-2 family by its word width and rotation amounts. -/
structure Sha2 where
  w : Nat
  rounds : Nat
  big0 : Nat × Nat × Nat
  big1 : Nat × Nat × Nat
  small0 : Nat × Nat × Nat
  small1 : Nat × Nat × Nat

/-- SHA-256. -/
def sha256Params : Sha2 := ⟨32, 64, (2, 13, 22), (6, 11, 25), (7, 18, 3), (17, 19, 10)⟩

/-- SHA-512. -/
def sha512Params : Sha2 := ⟨64, 80, (28, 34, 39), (14, 18, 41), (1, 8, 7), (19, 61, 6)⟩

/-- A sum of three rotations. -/
def shaBig (w : Nat) (r : Nat × Nat × Nat) (x : Nat) : Nat := rotr w r.1 x ^^^ rotr w r.2.1 x ^^^ rotr w r.2.2 x

/-- Two rotations and a shift. -/
def shaSmall (w : Nat) (r : Nat × Nat × Nat) (x : Nat) : Nat := rotr w r.1 x ^^^ rotr w r.2.1 x ^^^ (x / 2 ^ r.2.2)

/-- Extends the message schedule, held newest first, by n words. -/
def shaSchedule (p : Sha2) : Nat → List Nat → List Nat
  | 0, ws => ws
  | n + 1, ws =>
    let at' := fun i => ws.getD i 0
    let t := shaSmall p.w p.small1 (at' 1) + at' 6 + shaSmall p.w p.small0 (at' 14) + at' 15
    shaSchedule p n (t % 2 ^ p.w :: ws)

/-- One round on the eight working words. -/
def shaRound (p : Sha2) (v : List Nat) (k w : Nat) : List Nat :=
  let m := 2 ^ p.w
  match v with
  | [a, b, c, d, e, f, g, h] =>
    let ch := (e &&& f) ^^^ ((m - 1 - e) &&& g)
    let maj := (a &&& b) ^^^ (a &&& c) ^^^ (b &&& c)
    let t1 := h + shaBig p.w p.big1 e + ch + k + w
    let t2 := shaBig p.w p.big0 a + maj
    [(t1 + t2) % m, a, b, c, (d + t1) % m, e, f, g]
  | _ => v

/-- The round constants and the starting words of a hash. -/
def shaConsts (p : Sha2) : List Nat × List Nat :=
  ((primes80.take p.rounds).map (fun q => rootFrac 3 q p.w), (primes80.take 8).map (fun q => rootFrac 2 q p.w))

/-- Splits a string into pieces of n bytes. -/
def chunks (n : Nat) : Nat → List Byte → List (List Byte)
  | 0, _ => []
  | fuel + 1, bs => if bs.isEmpty then [] else bs.take n :: chunks n fuel (bs.drop n)

/-- A hash of the family over a string. -/
def sha2 (p : Sha2) (msg : List Byte) : List Byte :=
  let wb := p.w / 8
  let block := 16 * wb
  let len := msg.length
  let zeros := (block - (len + 1 + 2 * wb) % block) % block
  let padded := msg ++ 0x80 :: List.replicate zeros 0 ++ beBytes (2 * wb) (8 * len)
  let (ks, h0) := shaConsts p
  let step := fun (h : List Nat) (blk : List Byte) =>
    let ws := (chunks wb 16 blk).map beNat
    let sched := (shaSchedule p (p.rounds - 16) ws.reverse).reverse
    let v := (ks.zip sched).foldl (fun v kw => shaRound p v kw.1 kw.2) h
    (h.zip v).map (fun q => (q.1 + q.2) % 2 ^ p.w)
  let h := (chunks block (padded.length / block + 1) padded).foldl step h0
  h.flatMap (beBytes wb)

/-- SHA-256. -/
def sha256 (msg : List Byte) : List Byte := sha2 sha256Params msg

/-- SHA-512 (R387). -/
def sha512 (msg : List Byte) : List Byte := sha2 sha512Params msg

/-- HMAC-SHA-256. -/
def hmac256 (key msg : List Byte) : List Byte :=
  let k := slice (if key.length > 64 then sha256 key else key) 0 64
  sha256 (k.map (fun b => b ^^^ 0x5C) ++ sha256 (k.map (fun b => b ^^^ 0x36) ++ msg))

/-- HKDF-SHA-256 with an output of at most 32 bytes (RFC 5869, R375, R376). -/
def hkdf (ikm salt info : List Byte) (n : Nat) : List Byte :=
  let prk := hmac256 (if salt.isEmpty then List.replicate 32 0 else salt) ikm
  (hmac256 prk (info ++ [1])).take n

/-- The key of a domain at a generation, under a span secret (R376). -/
def domainKey (secret : List Byte) (d g : Nat) : List Byte :=
  hkdf secret [] (strBytes "ZW56 domain key" 15 ++ beBytes 1 d ++ beBytes 4 g) 32

/-- The prime of Curve25519. -/
def p25519 : Nat := 2 ^ 255 - 19

/-- Power modulo a number, over the bits of the exponent. -/
def powMod (m b : Nat) : Nat → Nat → Nat
  | 0, _ => 1
  | k + 1, e =>
    let h := powMod m b k (e / 2)
    if e % 2 = 1 then h * h % m * b % m else h * h % m

/-- Inverse modulo the prime. -/
def inv25519 (x : Nat) : Nat := powMod p25519 x 256 (p25519 - 2)

/-- Subtraction modulo the prime. -/
def sub25519 (a b : Nat) : Nat := (a + p25519 - b % p25519) % p25519

/-- One step of the Montgomery ladder of X25519 for bit t of the scalar. -/
def ladderStep (x1 k : Nat) (st : Nat × Nat × Nat × Nat) (t : Nat) : Nat × Nat × Nat × Nat :=
  let p := p25519
  let sw := k.testBit t
  let (x2, z2, x3, z3) := if sw then (st.2.2.1, st.2.2.2, st.1, st.2.1) else st
  let a := (x2 + z2) % p
  let b := sub25519 x2 z2
  let aa := a * a % p
  let bb := b * b % p
  let e := sub25519 aa bb
  let da := sub25519 x3 z3 * a % p
  let cb := (x3 + z3) % p * b % p
  let x3' := (da + cb) % p * ((da + cb) % p) % p
  let z3' := x1 * (sub25519 da cb * sub25519 da cb % p) % p
  let x2' := aa * bb % p
  let z2' := e * (aa + 121665 * e) % p
  if sw then (x3', z3', x2', z2') else (x2', z2', x3', z3')

/-- X25519 of a private key and a public key (RFC 7748, R375). -/
def x25519 (scalar u : List Byte) : List Byte :=
  let k0 := leNat (slice scalar 0 32)
  let k := k0 % 2 ^ 254 / 8 * 8 + 2 ^ 254
  let x1 := leNat (slice u 0 32) % 2 ^ 255 % p25519
  let st := (List.range 255).foldl (fun st i => ladderStep x1 k st (254 - i)) (1, 0, x1, 1)
  leBytes 32 (st.1 * inv25519 st.2.1 % p25519)

/-- The constant d of edwards25519. -/
def edD : Nat := sub25519 0 (121665 * inv25519 121666 % p25519)

/-- The order of the base point. -/
def edL : Nat := 2 ^ 252 + 27742317777372353535851937790883648493

/-- A point of edwards25519 in extended coordinates. -/
abbrev EdPoint := Nat × Nat × Nat × Nat

/-- Addition of two points. -/
def edAdd (a b : EdPoint) : EdPoint :=
  let p := p25519
  let aa := sub25519 a.2.1 a.1 * sub25519 b.2.1 b.1 % p
  let bb := (a.2.1 + a.1) % p * ((b.2.1 + b.1) % p) % p
  let cc := a.2.2.2 * 2 % p * edD % p * b.2.2.2 % p
  let dd := a.2.2.1 * 2 % p * b.2.2.1 % p
  let e := sub25519 bb aa
  let f := sub25519 dd cc
  let g := (dd + cc) % p
  let h := (bb + aa) % p
  (e * f % p, g * h % p, f * g % p, e * h % p)

/-- A multiple of a point, over the bits of the scalar. -/
def edMul (pt : EdPoint) : Nat → Nat → EdPoint
  | 0, _ => (0, 1, 1, 0)
  | k + 1, e =>
    let h := edMul pt k (e / 2)
    let d := edAdd h h
    if e % 2 = 1 then edAdd d pt else d

/-- The x of a point from its y and the sign bit, if there is one. -/
def edRecover (y : Nat) (sign : Bool) : Option Nat :=
  let p := p25519
  if y ≥ p then none
  else
    let u := sub25519 (y * y % p) 1
    let v := (edD * (y * y % p) + 1) % p
    let xx := u * inv25519 v % p
    let x0 := powMod p xx 256 ((p + 3) / 8)
    let x1 := if x0 * x0 % p = xx then x0 else x0 * powMod p 2 256 ((p - 1) / 4) % p
    if x1 * x1 % p ≠ xx then none
    else if x1 = 0 then (if sign then none else some 0)
    else some (if (x1 % 2 = 1) = sign then x1 else p - x1)

/-- The point that 32 bytes spell, if they do. -/
def edDecode (bs : List Byte) : Option EdPoint :=
  let n := leNat (slice bs 0 32)
  let y := n % 2 ^ 255
  match edRecover y (n.testBit 255) with
  | none => none
  | some x => some (x, y, 1, x * y % p25519)

/-- The base point. -/
def edBase : EdPoint :=
  let y := 4 * inv25519 5 % p25519
  let x := (edRecover y false).getD 0
  (x, y, 1, x * y % p25519)

/-- Two extended points are the same point. -/
def edEq (a b : EdPoint) : Bool :=
  a.1 * b.2.2.1 % p25519 == b.1 * a.2.2.1 % p25519 && a.2.1 * b.2.2.1 % p25519 == b.2.1 * a.2.2.1 % p25519

/-- Ed25519 verification (RFC 8032, R384, R387). -/
def edVerify (key msg sig : List Byte) : Bool :=
  let s := leNat (slice sig 32 32)
  match edDecode key, edDecode (sig.take 32) with
  | some a, some r =>
    if key.length = 32 ∧ sig.length = 64 ∧ s < edL then
      let h := leNat (sha512 (sig.take 32 ++ key ++ msg)) % edL
      edEq (edMul edBase 256 s) (edAdd r (edMul a 256 h))
    else false
  | _, _ => false

end Sys2Proof.Machine
end

