-- ==== Sys2Proof/Machine/Gcm.lean ====
section
/-!
DEFINITION. AES-256-GCM, with which the fabric protects its packets (R267). PRESUMED from the standards that the spec names (log
11): FIPS 197 and SP 800-38D.
-/

namespace Sys2Proof.Machine

/-- Doubling in the field of AES. -/
def gfDouble (a : Nat) : Nat := if a ≥ 128 then (a * 2 % 256) ^^^ 0x1B else a * 2

/-- A product in the field of AES, over n bits of the second factor. -/
def gfMul : Nat → Nat → Nat → Nat
  | 0, _, _ => 0
  | n + 1, a, b => (if b % 2 = 1 then a else 0) ^^^ gfMul n (gfDouble a) (b / 2)

/-- The 254th power of an element: its inverse, and 0 for 0. -/
def gfInv (a : Nat) : Nat :=
  let sq := fun x => gfMul 8 x x
  let a2 := sq a
  let a4 := sq a2
  let a8 := sq a4
  let a16 := sq a8
  let a32 := sq a16
  let a64 := sq a32
  let a128 := sq a64
  [a4, a8, a16, a32, a64, a128].foldl (gfMul 8) a2

/-- A byte rotated left. -/
def rotByte (n v : Nat) : Nat := v * 2 ^ n % 256 + v / 2 ^ (8 - n)

/-- The substitution box of a byte. -/
def aesBoxOf (a : Nat) : Nat :=
  let b := gfInv a
  b ^^^ rotByte 1 b ^^^ rotByte 2 b ^^^ rotByte 3 b ^^^ rotByte 4 b ^^^ 0x63

/-- The whole substitution box. -/
def aesBox : List Nat := (List.range 256).map aesBoxOf

/-- The substitution of a byte. -/
def subByte (a : Nat) : Nat := aesBox.getD a 0

/-- Bytewise exclusive or of two strings. -/
def xorBytes (a b : List Nat) : List Nat := List.zipWith (fun x y => x ^^^ y) a b

/-- The round constant of the i-th use. -/
def aesRcon : Nat → Nat
  | 0 => 1
  | n + 1 => gfDouble (aesRcon n)

/-- Words of the AES-256 key schedule after the first 8, newest first; i is the number of words made. -/
def aesExpand : Nat → Nat → List (List Nat) → List (List Nat)
  | 0, _, ws => ws
  | n + 1, i, ws =>
    let prev := ws.headD []
    let t :=
      if i % 8 = 0 then xorBytes ((prev.drop 1 ++ prev.take 1).map subByte) [aesRcon (i / 8 - 1), 0, 0, 0]
      else if i % 8 = 4 then prev.map subByte
      else prev
    aesExpand n (i + 1) (xorBytes (ws.getD 7 []) t :: ws)

/-- The 15 round keys of a 32-byte key. -/
def aesKeys (key : List Nat) : List (List Nat) :=
  let w0 := (List.range 8).map (fun i => (key.drop (4 * i)).take 4)
  let ws := (aesExpand 52 8 w0.reverse).reverse
  (List.range 15).map (fun i => ((ws.drop (4 * i)).take 4).flatten)

/-- The bytes of a block, column by column, with row r turned left by r columns. -/
def shiftRows (b : List Nat) : List Nat := (List.range 16).map (fun i => b.getD ((i + 4 * (i % 4)) % 16) 0)

/-- The mixing of one column. -/
def mixColumn (c : List Nat) : List Nat :=
  let at' := fun i => c.getD (i % 4) 0
  (List.range 4).map (fun i => gfDouble (at' i) ^^^ gfDouble (at' (i + 1)) ^^^ at' (i + 1) ^^^ at' (i + 2) ^^^ at' (i + 3))

/-- The mixing of every column. -/
def mixColumns (b : List Nat) : List Nat := (List.range 4).flatMap (fun i => mixColumn ((b.drop (4 * i)).take 4))

/-- AES-256 of one block under its round keys. -/
def aesBlock (ks : List (List Nat)) (b : List Nat) : List Nat :=
  let b := xorBytes b (ks.headD [])
  let b := (List.range 13).foldl (fun b i => xorBytes (mixColumns (shiftRows (b.map subByte))) (ks.getD (i + 1) [])) b
  xorBytes (shiftRows (b.map subByte)) (ks.getD 14 [])

/-- A product in the field of GHASH, over n bits of the first factor from bit n - 1 down. -/
def ghashMul : Nat → Nat → Nat → Nat
  | 0, _, _ => 0
  | n + 1, x, v =>
    (if x.testBit n then v else 0) ^^^ ghashMul n x (if v % 2 = 1 then (v / 2) ^^^ (0xE1 * 2 ^ 120) else v / 2)

/-- GHASH over a string of whole blocks. -/
def ghash (h : Nat) : Nat → List Byte → Nat → Nat
  | 0, _, y => y
  | n + 1, bs, y => if bs.isEmpty then y else ghash h n (bs.drop 16) (ghashMul 128 (y ^^^ beNat (bs.take 16)) h)

/-- A string with zeros to a whole number of blocks. -/
def pad16 (bs : List Byte) : List Byte := bs ++ List.replicate ((16 - bs.length % 16) % 16) 0

/-- The key stream for n blocks from a counter value. -/
def gcmStream (ks : List (List Nat)) (iv : List Byte) (n from' : Nat) : List Byte :=
  (List.range n).flatMap (fun i => (aesBlock ks ((iv ++ beBytes 4 (from' + i)).map BitVec.toNat)).map (BitVec.ofNat 8))

/-- AES-256-GCM: the ciphertext of a string and its tag of n bytes, under a key of 32 bytes, an IV of 12 and additional data. -/
def gcmSeal (key iv aad plain : List Byte) (n : Nat) : List Byte × List Byte :=
  let ks := aesKeys (key.map BitVec.toNat)
  let h := beNat ((aesBlock ks (List.replicate 16 0)).map (BitVec.ofNat 8))
  let stream := gcmStream ks iv ((plain.length + 15) / 16) 2
  let c := List.zipWith (fun (a b : Byte) => a ^^^ b) plain stream
  let text := pad16 aad ++ pad16 c ++ beBytes 8 (8 * aad.length) ++ beBytes 8 (8 * c.length)
  let t := beBytes 16 (ghash h (text.length / 16) text 0)
  (c, (List.zipWith (fun (a b : Byte) => a ^^^ b) t (gcmStream ks iv 1 1)).take n)

end Sys2Proof.Machine
end

