-- ==== Sys2Proof/Machine/Fabric.lean ====
section
/-!
DEFINITION. The ring switch's shared operations: paths, port queues and replay buffers, acknowledgements, the ingress of
every packet addressed to this wafer, and the resolution of outstanding packets (R239, R246 to R265, R269, R270).
-/

namespace Sys2Proof.Machine

/-! ## Ports -/

/-- An edge port. -/
def getPort (s : State) (i : Nat) : Port := amGet s.fabric.ports i {}

/-- Changes an edge port. -/
def modPort (i : Nat) (g : Port → Port) (s : State) : State :=
  { s with fabric := { s.fabric with ports := amMod s.fabric.ports i {} g } }

/-- The port is up (R240). -/
def portUp (s : State) (i : Nat) : Bool := (getPort s i).st == .up

/-- The peer's node, where the port has learnt one (R274). -/
def peerNode (s : State) (i : Nat) : Option Nat :=
  let v := (getPort s i).peer.toNat
  if v = 0xFFFFFFFF then none else some (bitsOf v 29 16)

/-- Bytes of a packet on the wire: a control packet up to 32 payload bytes, else a data packet (R248, R249). -/
def wireBytes (n : Nat) : Nat := if n ≤ 32 then 64 else 64 * ((36 + n + 63) / 64)

/-- The group of a node (R38). -/
def groupOf (n : Nat) : Nat := n / 32

/-- The port is wired to another group: a global port, 31 to 63, in a span of several groups (R241, R243). -/
def isGlobal (s : State) (i : Nat) : Bool := i ≥ 31 && s.fabric.groupCount != 1

/-! ## Bytes on the wire (R247 to R250, R267) -/

/-- A packet of the data class; it leaves on VC1 or VC3 (R247, R252). -/
def isData (w : WirePkt) : Bool := w.vc % 2 == 1

/-- Header bytes 0 to 11, which the source fixes (R247). -/
def fixedHeader (w : WirePkt) : List Byte :=
  [BitVec.ofNat 8 ((if isData w then 64 else 0) + (if w.pkt.compressed then 32 else 0)), BitVec.ofNat 8 w.pkt.opcode] ++
  leBytes 2 w.pkt.dst ++ leBytes 2 w.src ++ [BitVec.ofNat 8 (w.slot % 4 * 64 + w.pkt.domain % 64), 0] ++
  leBytes 2 w.seq.toNat ++ leBytes 2 w.len

/-- Header bytes 12 to 15, which every hop writes anew (R247). -/
def hopHeader (w : WirePkt) : List Byte :=
  leBytes 2 w.hopSeq.toNat ++ [BitVec.ofNat 8 (w.vc % 4 * 64 + (if w.nonMin then 32 else 0) + w.hops % 16), 0]

/-- The IV of a packet: source, destination, the bit of unsequenced packets, and the extended number (R267). -/
def packetIv (src dst full : Nat) (ctl : Bool) : List Byte :=
  beBytes 2 src ++ beBytes 2 dst ++ [if ctl then 0x80 else 0, 0] ++ beBytes 6 full

/-- Bytes of the tag (R267). -/
def tagBytes (w : WirePkt) : Nat := if isData w then 16 else 12

/-- The plaintext that is sealed: the payload, in a control packet with zeros to 32 bytes (R248, R249). -/
def packetPlain (w : WirePkt) : List Byte := if isData w then w.pkt.data else slice w.pkt.data 0 32

/-- The source seals a packet under a key and an extended number (R267). -/
def sealPkt (key : List Byte) (full : Nat) (ctl : Bool) (w : WirePkt) : WirePkt :=
  let c := gcmSeal key (packetIv w.src w.pkt.dst full ctl) (fixedHeader w) (packetPlain w) (tagBytes w)
  { w with body := c.1 ++ c.2 }

/-- A packet that leaves without a key: its payload in clear, and a tag of zeros (R240, R269; log 142). -/
def clearPkt (w : WirePkt) : WirePkt := { w with body := packetPlain w ++ List.replicate (tagBytes w) 0 }

/-- The bytes of a packet on the wire (R247 to R249). -/
def wireImage (w : WirePkt) : List Byte :=
  let front := fixedHeader w ++ hopHeader w ++ w.body
  slice (front ++ leBytes 4 (crc32c front)) 0 w.size

/-- The bytes of a link status block (R250). -/
def statusImage (b : StatusBlock) : List Byte :=
  let front := [0x80, if b.nak then 1 else 0] ++ leBytes 2 b.ack.toNat ++ [b.off.setWidth 8, 0, 0, 0] ++ leBytes 8 b.echo ++
    List.replicate 44 0
  front ++ leBytes 4 (crc32c front)

/-- Bytes waiting in a port's output queue (R255). -/
def queueBytes (s : State) (i : Nat) : Nat := ((getPort s i).queue.map WirePkt.size).sum

/-- The wafer group that a port's link reaches, where the port is up and its peer is a wafer of another group. -/
def linkGroup (s : State) (i : Nat) : Option Nat :=
  match peerNode s i with
  | some n => if portUp s i && n < 12288 && groupOf n != groupOf (nodeId s) then some (groupOf n) else none
  | none => none

/-- The group table's row of a group: the live global links from this group to it, as member and port: this wafer's own, and
those that the other members' LINK_STATE notices tell (R242). -/
def groupLinks (s : State) (g : Nat) : List (Nat × Nat) :=
  ((List.range 64).filter (fun i => linkGroup s i == some g)).map (fun i => (nodeId s % 32, i)) ++
  (s.fabric.linkNotices.filter (fun e => e.2.1 == 3 && e.2.2 < 12288 && groupOf e.2.2 == g)).map (fun e => (e.1 / 64, e.1 % 64))

/-- A member of this group has a live global link to a group, by the group table (R242). -/
def memberReaches (s : State) (m g : Nat) : Bool :=
  s.fabric.linkNotices.any (fun e => e.1 / 64 == m && e.2.1 == 3 && e.2.2 < 12288 && groupOf e.2.2 == g)

/-- A change of the link that reaches a group has left the pair of groups with fewer than two live global links (R242, R273). -/
def notePair (g : Nat) (before : State) (s : State) : State :=
  let n := (groupLinks s g).length
  if g ≠ groupOf (nodeId s) ∧ n < 2 ∧ n ≠ (groupLinks before g).length then raise (evWafer 0x20B 1 g) s else s

/-- A member of this group has a live link to a node, by its notices (R242). -/
def memberLinked (s : State) (m n : Nat) : Bool :=
  s.fabric.linkNotices.any (fun e => e.1 / 64 == m && e.2.1 == 3 && e.2.2 == n)

/-- The intermediate groups that are candidates for a packet: none is the group of the source itself (R255). -/
def candidateGroups (s : State) (src seq : Nat) : List Nat :=
  let n := max 1 s.fabric.groupCount
  [Config.candidate src seq 0 % n, Config.candidate src seq 1 % n].filter (· != groupOf src)

/-- The live ports to wafers, with their peers. -/
def liveLinks (s : State) : List (Nat × Nat) :=
  (List.range 64).filterMap (fun i =>
    if portUp s i then (peerNode s i).bind (fun n => if n < 12288 then some (i, n) else none) else none)

/-- The minimal paths to a wafer: the direct link, or in another group at most one local, one global and one local hop (R255).
First-hop port, hops, and false: not non-minimal. -/
def minimalPaths (s : State) (dst : Nat) : List (Nat × Nat × Bool) :=
  let own := nodeId s
  (liveLinks s).filterMap (fun e =>
    if e.2 = dst then some (e.1, 1, false)
    else if groupOf dst = groupOf own then none
    else if groupOf e.2 = groupOf dst then some (e.1, 2, false)
    else if groupOf e.2 = groupOf own ∧ memberReaches s (e.2 % 32) (groupOf dst) then some (e.1, 3, false)
    else none)

/-- The way on where the minimal next hop within the group is down: a local hop to a member that has a live link onward (R255). -/
def aroundPaths (s : State) (dst : Nat) : List (Nat × Nat × Bool) :=
  let own := nodeId s
  if groupOf dst ≠ groupOf own then []
  else (liveLinks s).filterMap (fun e =>
    if groupOf e.2 = groupOf own ∧ memberLinked s (e.2 % 32) dst then some (e.1, 2, false) else none)

/-- The minimal paths, or the way around where none is live (R255). -/
def nearPaths (s : State) (dst : Nat) : List (Nat × Nat × Bool) :=
  if (minimalPaths s dst).isEmpty then aroundPaths s dst else minimalPaths s dst

/-- The paths that first cross to a candidate group: from there a minimal path follows, at most 5 hops in all (R255). -/
def farPaths (s : State) (src seq : Nat) : List (Nat × Nat × Bool) :=
  let own := nodeId s
  (liveLinks s).filterMap (fun e =>
    if groupOf e.2 ≠ groupOf own then
      (if (candidateGroups s src seq).contains (groupOf e.2) then some (e.1, 4, true) else none)
    else if (candidateGroups s src seq).any (memberReaches s (e.2 % 32)) then some (e.1, 5, true)
    else none)

/-- The paths of a packet to a wafer: first-hop port, hops, and whether the path is non-minimal (R255). A packet for a group to
which no member has a live link waits at its source (R242). -/
def paths (s : State) (src seq dst : Nat) : List (Nat × Nat × Bool) :=
  if groupOf dst ≠ groupOf (nodeId s) ∧ groupLinks s (groupOf dst) = [] then []
  else
    let near := nearPaths s dst
    near ++ (farPaths s src seq).filter (fun p => !near.any (fun q => q.1 == p.1))

/-- The score of a path (R255). -/
def pathScore (s : State) (p : Nat × Nat × Bool) : Nat :=
  queueBytes s p.1 + 4096 * p.2.1 + (if p.2.2 then reg s 0x260007 65536 else 0)

/-- The path of lowest score, ties to the lowest port index (R255). -/
def bestPath (s : State) (ps : List (Nat × Nat × Bool)) : Option (Nat × Nat × Bool) :=
  ps.foldl (fun b p =>
    match b with
    | none => some p
    | some q => if pathScore s p < pathScore s q then some p else some q) none

/-- The port by which a packet leaves this wafer and whether its path is non-minimal: a host by its route entry, a wafer by
the best path (R244, R255). -/
def choosePath (s : State) (src seq dst : Nat) : Option (Nat × Bool) :=
  let wafer :=
    if dst ≥ 12288 then (hostRoute s dst).map (fun v => (bitsOf v 29 16, bitsOf v 5 0)) else some (dst, 64)
  match wafer with
  | none => none
  | some (w, port) =>
    if w = nodeId s then if port < 64 ∧ portUp s port then some (port, false) else none
    else (bestPath s (paths s src seq w)).map (fun p => (p.1, p.2.2))

/-- The account of a packet at an edge port: transit traffic is house's (R321). -/
def pktAccount (s : State) (src domain : Nat) : Nat := if src = nodeId s then domainAccount s domain else houseAccount

/-- The wafer that a packet is bound for, and the port of a host adapter on it (R244). -/
def boundFor (s : State) (dst : Nat) : Option (Nat × Option Nat) :=
  if dst ≥ 12288 then (hostRoute s dst).map (fun v => (bitsOf v 29 16, some (bitsOf v 5 0))) else some (dst, none)

/-- A packet that has taken its global hop, or needs none: it is bound for this wafer's group (R257). -/
def pastGlobal (s : State) (w : WirePkt) : Bool :=
  match boundFor s w.pkt.dst with
  | some (n, _) => groupOf n == groupOf (nodeId s)
  | none => false

/-- A packet of a port's queue may start: its channel is on at the peer, and the replay buffer has room (R253, R264). -/
def mayStart (p : Port) (w : WirePkt) : Bool :=
  !p.peerOff.getLsbD w.vc && (p.replay.map WirePkt.size).sum + w.size ≤ 262144

/-- The packets of a channel that may start, in their order. An escape channel is not first-in first-out across phases: a packet
past its global hop is never behind one that is not (R257). -/
def readyOn (s : State) (p : Port) (v : Nat) : List WirePkt :=
  let q := p.queue.filter (fun w => w.vc == v && mayStart p w)
  if v < 2 then q else q.filter (pastGlobal s) ++ q.filter (fun w => !pastGlobal s w)

/-- The packet that a port grants next: VC2, then VC0, then VC3, then VC1; but VC3 or VC1 where they have waited for seven link
blocks, so that the two together get one in eight (R252). -/
def grantNext (s : State) (p : Port) : Option WirePkt :=
  let data := readyOn s p 3 ++ readyOn s p 1
  if p.dataWait ≥ 7 ∧ data ≠ [] then data.head? else (readyOn s p 2 ++ readyOn s p 0 ++ data).head?

/-- A packet starts: it takes the port's next hop sequence, enters the replay buffer and goes on the link (R239, R264). -/
def startPacket (i : Nat) (w : WirePkt) (s : State) : State :=
  let p := getPort s i
  let n := w.size / 64
  let waits := !(readyOn s p 3 ++ readyOn s p 1).isEmpty
  let w' := { w with hopSeq := p.txSeq, heldAt := none }
  let s := modPort i (fun p => { p with
    queue := p.queue.erase w, replay := p.replay ++ [w'], txSeq := p.txSeq + 1
    dataWait := if isData w || !waits then 0 else p.dataWait + n }) s
  let s := ringCount (pktAccount s w.src w.pkt.domain) n s
  { s with fabric := { s.fabric with wire := s.fabric.wire ++ [(i, w')] } }

/-- The packets of a port's queue start one after the other, as far as they may. -/
def drainN (i : Nat) : Nat → State → State
  | 0, s => s
  | n + 1, s =>
    match grantNext s (getPort s i) with
    | none => s
    | some w => drainN i n (startPacket i w s)

/-- The packets of a port's queue that may start now do so (R252, R253, R264). -/
def drainPort (i : Nat) (s : State) : State :=
  if (getPort s i).st = .up then drainN i (getPort s i).queue.length s else s

/-- A packet passes the ring switch, joins a port's output queue and starts as soon as it may. -/
def putOnPort (i : Nat) (w : WirePkt) (s : State) : State :=
  drainPort i (ringCount (pktAccount s w.src w.pkt.domain) 1 (modPort i (fun p => { p with queue := p.queue ++ [w] }) s))

/-! ## Keys in use -/

/-- The generation that a slot of a domain holds (R377). -/
def slotGen (s : State) (domain slot : Nat) : Option Nat :=
  (amFind s.sec.slots domain).bind (fun k => amFind k.gens slot)

/-- The domain has some key on this wafer (R269). -/
def hasKey (s : State) (domain : Nat) : Bool :=
  match amFind s.sec.slots domain with
  | some k => !k.gens.isEmpty
  | none => false

/-- The send slot of a domain and its generation. -/
def sendSlot (s : State) (domain : Nat) : Option (Nat × Nat) :=
  (amFind s.sec.slots domain).bind (fun k => k.send.bind (fun n => (amFind k.gens n).map (fun g => (n, g))))

/-- The key that a slot of a domain holds (R376, R377). -/
def slotKey (s : State) (domain slot : Nat) : List Byte :=
  ((amFind s.sec.slots domain).map (fun k => amGet k.keys slot [])).getD []

/-- A 16-bit number extended to the count nearest a reference (R258). -/
def extendSeq (ref : Nat) (q : BitVec 16) : Nat :=
  let d := (q - BitVec.ofNat 16 ref).toInt
  ((ref : Int) + d).toNat

/-- The packet's tag verifies: its slot holds the generation and the key that sealed it, and the extended number of its IV is the one
that the receiver reckons (R267 to R269; log 12). -/
def authentic (s : State) (p : Pkt) (ref : Nat) : Bool :=
  slotGen s p.domain p.slot == some p.gen && slotKey s p.domain p.slot == p.key && extendSeq ref p.seq == p.full

/-! ## Unsequenced packets (R258 to R262) -/

/-- The count of control packets and the highest sequence number that a key allows (R258). -/
def seqLimit : Nat := 2 ^ 48 - 2 ^ 16

/-- The slot and generation under which a domain's unsequenced packets leave: the send slot, but the one before it while packets
under that one are outstanding, so that no IV repeats (R258, R268, R378). -/
def ctlSlot (s : State) (domain : Nat) : Option (Nat × Nat) :=
  match amFind s.sec.slots domain with
  | none => none
  | some k =>
    if k.draining then
      match k.gens.find? (fun e => e.2 == k.oldGen) with
      | some e => some e
      | none => sendSlot s domain
    else sendSlot s domain

/-- Sends an E2E_ACK, SKIP or SKIP_ANSWER under the send slot, or else the slot that authenticated the flow, with the next
control counter value (R258, R261, R267); in clear where no key is named (R269). -/
def sendUnseq (node domain opcode : Nat) (data : List Byte) (alt : Nat × Nat) (s : State) : State :=
  let own := ctlSlot s domain
  let (slot, gen) := own.getD alt
  let c := amGet s.fabric.ctl (flowKey node domain) {}
  if c.sent ≥ seqLimit then raise (evPortPkt s 0x209 1 0xFF domain node c.sent) s
  else
    match choosePath s (nodeId s) c.sent node with
    | none => s
    | some (i, nm) =>
      let w : WirePkt := { pkt := ⟨node, domain, opcode, data, false, none⟩, src := nodeId s, slot := slot, gen := gen
                           seq := BitVec.ofNat 16 c.sent, hops := 1, nonMin := nm, size := 64, len := data.length }
      let w := if own.isNone && !hasKey s domain then clearPkt w else sealPkt (slotKey s domain slot) c.sent true w
      putOnPort i w { s with fabric := { s.fabric with ctl := amSet s.fabric.ctl (flowKey node domain) { c with sent := c.sent + 1 } } }

/-- Acknowledges one sequence number of a received flow as delivered or refused (R261, R270, R272). -/
def sendAck (p : Pkt) (n : Nat) (refused : Bool) (s : State) : State :=
  let bits := fun (b : Bool) => leBytes 4 (if b then 1 else 0)
  sendUnseq p.node p.domain 0x60 (leBytes 2 (n % 65536) ++ bits (!refused) ++ bits refused ++ List.replicate 22 0)
    (p.slot, p.gen) s

/-! ## Ingress -/

/-- The receiving end of a flow. -/
def getRx (s : State) (node domain : Nat) : FlowRx := amGet s.fabric.rx (flowKey node domain) {}

/-- Changes the receiving end of a flow. -/
def modRx (node domain : Nat) (g : FlowRx → FlowRx) (s : State) : State :=
  { s with fabric := { s.fabric with rx := amMod s.fabric.rx (flowKey node domain) {} g } }

/-- The ingress port takes packets of the domain into the wafer: some partition that is not being reset or scrubbed holds
it, or it is the management domain (R246, R437). -/
def domainTaken (s : State) (domain : Nat) : Bool :=
  domain == mgmtDomain s ||
  (match (partOfDomain s domain).bind (getPart s) with
   | some a => a.pstate == .ready || a.pstate == .jobOpen
   | none => false)

/-- Bytes of the reorder store that a held command takes (R249, R260). -/
def heldBytes : Instr → Nat
  | .memStore _ _ data => wireBytes (32 + data.length)
  | .objectWrite _ _ _ _ v => wireBytes (16 + v.length)
  | .portControl .. => wireBytes 176
  | .memReply _ m => wireBytes (16 + m.data.length)
  | .permitSubmission _ v => wireBytes (16 + v.length)
  | .imageChunk _ v => wireBytes (16 + v.length)
  | .sectionEnqueue .. => wireBytes 40
  | .cadenceAdmit .. => wireBytes 96
  | .echoCmd _ _ d => wireBytes (8 + d.length)
  | _ => 64

/-- Bytes of the reorder store in use (R274). -/
def reorderUse (s : State) : Nat := (s.fabric.rx.map (fun e => (e.2.held.map (fun h => heldBytes h.2)).sum)).sum

/-- The reorder stage passes on the held packets that now follow in sequence, and steps over the numbers answered closed
(R260, R262). -/
def advanceRx (node domain : Nat) : Nat → State → State
  | 0, s => s
  | n + 1, s =>
    let rx := getRx s node domain
    if rx.closed.contains rx.next then
      advanceRx node domain n
        (modRx node domain (fun r => { r with next := r.next + 1 }) s)
    else
      match rx.held.find? (fun h => h.1 == rx.next) with
      | none => s
      | some (q, i) =>
        let s := modRx node domain (fun r => { r with next := r.next + 1, passed := r.passed ++ [q]
                                                      held := r.held.filter (fun h => h.1 != q) }) s
        advanceRx node domain n { s with fabric := { s.fabric with released := s.fabric.released ++ [i] } }

/-- As many steps as the reorder stage can take at once. -/
def advanceAll (node domain : Nat) (s : State) : State :=
  let rx := getRx s node domain
  advanceRx node domain (rx.closed.length + rx.held.length + 1) s

/-- A packet at the head of its sequence is delivered and acknowledged, or refused where its domain is not taken (R246,
R260, R261, R270). -/
def deliver (p : Pkt) (n : Nat) (act : State → State) (s : State) : State :=
  if domainTaken s p.domain then
    act (sendAck p n false (modRx p.node p.domain (fun r => { r with delivered := r.delivered + 1 }) s))
  else
    let s := modRx p.node p.domain (fun r => { r with refusedSeqs := r.refusedSeqs ++ [n] }) s
    raise (evPortPkt s 0x206 2 p.port p.domain p.node 0) (sendAck p n true s)

/-- A port takes a packet: its CRC is good, and its hop sequence follows the last one taken (R264). -/
def hopGood (s : State) (i : Nat) (hop : BitVec 16) (good : Bool) : Bool := good && hop == (getPort s i).rxSeq + 1

/-- A port has received a packet of some bytes good and in hop sequence; its link blocks and its pass of the ring switch are
counted for an account (R250, R264, R321). -/
def received (i account size : Nat) (s : State) : State :=
  ringCount account (size / 64 + 1) (modPort i (fun p => { p with rxSeq := p.rxSeq + 1, nakSent := false }) s)

/-- A port sends a link status block (R250). -/
def sendBlock (i : Nat) (nak : Bool) (s : State) : State :=
  let p := getPort s i
  if p.st = .up then
    { s with fabric := { s.fabric with blocks := s.fabric.blocks ++
        [{ port := i, nak := nak, ack := p.rxSeq, off := p.ownOff, echo := now s / 10 }] } }
  else s

/-- A packet that is bad or out of hop sequence is not passed on; the first one draws a NAK (R264). -/
def hopBad (i : Nat) (s : State) : State :=
  if (getPort s i).nakSent then s else sendBlock i true (modPort i (fun p => { p with nakSent := true }) s)

/-- What a port does with a packet of its link (R264): it passes on one that is good and in hop sequence, and counts it. -/
def linkTake (i account size : Nat) (hop : BitVec 16) (good : Bool) (act : State → State) (s : State) : State :=
  if !portUp s i then s
  else if hopGood s i hop good then act (received i account size s)
  else hopBad i s

/-- The first packet of a flow under a newer generation restarts its receive state at 0 (R378). -/
def restartRx (p : Pkt) (s : State) : State :=
  if (getRx s p.node p.domain).gen < p.gen then
    modRx p.node p.domain (fun r => { gen := p.gen, delivered := r.delivered }) s
  else s

/-- A sequenced packet that its port passes on is authenticated, put in sequence, and acted on (R246, R258 to R262, R269, R378). -/
def sequenced (p : Pkt) (self : Instr) (act : State → State) (s : State) : State :=
  let rx0 := getRx s p.node p.domain
  if !authentic s p (if rx0.gen < p.gen then 0 else rx0.next) then raise (evPortPkt s 0x205 1 p.port p.domain p.node 0) s
  else if p.gen < rx0.gen then s
  else
    let s := restartRx p s
    let rx := getRx s p.node p.domain
    let n := extendSeq rx.next p.seq
    if rx.closed.contains n || rx.held.any (fun h => h.1 == n) then s
    else if n < rx.next then
      if rx.refusedSeqs.contains n then sendAck p n true s else sendAck p n false s
    else if n > rx.next then
      if reorderUse s + heldBytes self > 33554432 then raise (evPortPkt s 0x20A 1 p.port p.domain p.node 0) s
      else modRx p.node p.domain (fun r => { r with held := r.held ++ [(n, self)] }) s
    else
      advanceAll p.node p.domain
        (deliver p n act (modRx p.node p.domain (fun r => { r with next := r.next + 1 }) s))

/-- A sequenced packet arrives for this wafer by its port, or leaves the reorder stage (R246, R258 to R264, R269, R378). The command itself is what the reorder store holds. -/
def ingress (p : Pkt) (self : Instr) (act : State → State) (s : State) : State :=
  let rx0 := getRx s p.node p.domain
  if rx0.gen = p.gen ∧ rx0.passed.contains (extendSeq rx0.next p.seq) then
    deliver p (extendSeq rx0.next p.seq) act
      (modRx p.node p.domain (fun r => { r with passed := r.passed.erase (extendSeq rx0.next p.seq) }) s)
  else linkTake p.port (domainAccount s p.domain) (heldBytes self) p.hop p.good (fun s => sequenced p self act s) s

/-! ## Resolution of outstanding packets (R259, R263) -/

/-- How a packet is resolved (R259). -/
inductive Resolved where
  | delivered
  | refused
  | failed
deriving DecidableEq, Repr

/-- Resolves one outstanding packet: its credit and its record are released once, and one report is counted (R259,
R263). -/
def resolveOut (dst domain seq : Nat) (how : Resolved) (s : State) : State :=
  let f := getTx s dst domain
  match f.out.find? (fun o => o.seq == seq) with
  | none => s
  | some o =>
    let s := modTx dst domain (fun f =>
      { f with out := f.out.eraseP (fun o => o.seq == seq), credits := f.credits + 1
               delivered := f.delivered + (if how = .delivered then 1 else 0)
               refused := f.refused + (if how = .refused then 1 else 0)
               failed := f.failed + (if how = .failed then 1 else 0) }) s
    let s := modPort o.port (fun p => { p with outstanding := p.outstanding - 1 }) s
    if how = .failed then { s with fabric := { s.fabric with failedPkts := s.fabric.failedPkts + 1 } } else s

/-- The last copy of an outstanding packet leaves by a port (R261). -/
def leftBy (i dst domain : Nat) (q : BitVec 16) (s : State) : State :=
  modTx dst domain (fun f => { f with out := f.out.map (fun x => if x.wire.seq = q then { x with last := i } else x) }) s

/-- Sends a kept copy again by the path of the moment, unchanged but for its hop fields (R261). -/
def resend (o : Outst) (s : State) : State :=
  match choosePath s o.wire.src o.seq o.wire.pkt.dst with
  | none => s
  | some (i, nm) =>
    putOnPort i { o.wire with nonMin := nm, hops := 1, vc := if o.wire.size = 64 then 0 else 1 }
      (leftBy i o.wire.pkt.dst o.wire.pkt.domain o.wire.seq s)

/-! ## Link state (R242, R265) -/

/-- LINK_STATE of a port to every other member of the group, with the state code given (R242, R272). -/
def sendLinkState (i code : Nat) (s : State) : State :=
  let v := (getPort s i).peer.toNat
  let body := [BitVec.ofNat 8 i, BitVec.ofNat 8 code] ++ leBytes 2 (if v = 0xFFFFFFFF then 0xFFFF else bitsOf v 29 16) ++
    [BitVec.ofNat 8 (if v = 0xFFFFFFFF then 0xFF else bitsOf v 5 0)] ++ List.replicate 27 0
  if nodeId s ≥ 12288 then s
  else
    ((List.range s.fabric.groupSize).filter (fun m => m != nodeId s % 32)).foldl (fun s m =>
      sendPkt (nodeId s / 32 * 32 + m) (mgmtDomain s) 0x64 body s) s

/-- A port without a link: its buffers are empty and its sequences start again. -/
def portEmptied (i : Nat) (s : State) : State :=
  modPort i (fun p => { p with st := .down, downs := p.downs + 1, replay := [], queue := [], txSeq := 0, rxSeq := 0xFFFF
                               peerOff := 0, ownOff := 0, replayTo := none, fails := [], nakSent := false, dataWait := 0 }) s

/-- The code of a port state (R274). -/
def portCode (st : PortState) : Nat :=
  match st with
  | .down => 0
  | .training => 1
  | .discovery => 2
  | .up => 3
  | .refused => 4
  | .disabled => 5

/-- The node ID, the group size and the group count that the objects hold take effect, for the whole wafer (R274; DEDUCED,
log 143). -/
def latchNode (s : State) : State :=
  { s with fabric := { s.fabric with node := reg s 0x260001 0xFFFF, groupSize := reg s 0x260002 32, groupCount := reg s 0x260003 1 } }

/-- A port takes a state; a change is told to the group (R242). A training brings the node ID and the group into force (R274). -/
def setPort (i : Nat) (st : PortState) (s : State) : State :=
  if (getPort s i).st = st then s
  else sendLinkState i (portCode st) (modPort i (fun p => { p with st := st }) (if st = .training then latchNode s else s))

/-! ## Receive buffers and status blocks (R250, R253) -/

/-- Bytes of the receive buffer of a virtual channel (R253). -/
def bufferBytes (v : Nat) : Nat :=
  match v with
  | 0 => 262144
  | 1 => 524288
  | 2 => 262144
  | _ => 393216

/-- The off and on thresholds of a cable class, free bytes (R253). -/
def offThresholds (cls : Nat) : Nat × Nat :=
  match cls with
  | 0 => (49152, 81920)
  | 1 => (81920, 114688)
  | _ => (163840, 196608)

/-- Packets of a port's receive buffer that wait for an output (R253). -/
def buffered (s : State) (i v : Nat) : List WirePkt :=
  s.fabric.ports.flatMap (fun e => e.2.queue.filter (fun w => w.heldAt == some (i, v)))

/-- Bytes that a list of packets takes. -/
def bytesOf (ws : List WirePkt) : Nat := (ws.map WirePkt.size).sum

/-- Free bytes of a receive buffer (R253). In an escape buffer 4,160 bytes are kept for packets past their global hop (R257). -/
def bufferFree (s : State) (i v : Nat) : Nat :=
  let ws := buffered s i v
  if v < 2 then bufferBytes v - bytesOf ws
  else bufferBytes v - 4160 - bytesOf (ws.filter (fun w => !pastGlobal s w)) - (bytesOf (ws.filter (pastGlobal s)) - 4160)

/-- The off bits of a port (R253). -/
def offBits (s : State) (i : Nat) : BitVec 4 :=
  let (off, on) := offThresholds (reg s (0x261201 + i) 1)
  BitVec.ofNat 4 (((List.range 4).map (fun v =>
    let free := bufferFree s i v
    if free ≤ off ∨ (free < on ∧ (getPort s i).ownOff.getLsbD v) then 2 ^ v else 0)).sum)

/-- Every port whose off bits change sends a status block at once (R250, R253). -/
def refreshOff (s : State) : State :=
  (amKeys s.fabric.ports).foldl (fun s i =>
    if portUp s i ∧ offBits s i ≠ (getPort s i).ownOff then
      let b := offBits s i
      sendBlock i false (modPort i (fun p => { p with ownOff := b }) s)
    else s) s

/-! ## The escape route (R256, R257) -/

/-- The lowest-numbered live port to a wafer. -/
def portTo (s : State) (n : Nat) : Option Nat := (List.range 64).find? (fun i => portUp s i && peerNode s i == some n)

/-- The lowest-numbered member with live links to both ends of a bond that is down (R256). -/
def bridgeTo (s : State) (n : Nat) : Option Nat :=
  let own := nodeId s
  ((List.range 32).map (fun m => own / 32 * 32 + m)).findSome? (fun m =>
    if m ≠ own ∧ m ≠ n ∧ memberLinked s (m % 32) n then portTo s m else none)

/-- The first hop of the escape route to a wafer from this one (R256). -/
def escapeTo (s : State) (n : Nat) : Option Nat :=
  let own := nodeId s
  if groupOf n = groupOf own then (portTo s n).orElse (fun _ => bridgeTo s n)
  else
    let members := (groupLinks s (groupOf n)).map Prod.fst
    match members with
    | [] => none
    | m :: rest =>
      let least := rest.foldl min m
      if least = own % 32 then (List.range 64).find? (fun i => linkGroup s i == some (groupOf n))
      else
        let w := own / 32 * 32 + least
        (portTo s w).orElse (fun _ => bridgeTo s w)

/-- The first hop of the escape route of a packet (R256). -/
def escapePort (s : State) (dst : Nat) : Option Nat :=
  match boundFor s dst with
  | none => none
  | some (w, host) => if w = nodeId s then host.bind (fun i => if portUp s i then some i else none) else escapeTo s w

/-- A packet that waits at a port without a link takes another path: on an escape channel the escape route (R252, R256). -/
def reroute (w : WirePkt) (s : State) : State :=
  if w.vc ≥ 2 then
    (match escapePort s w.pkt.dst with
     | some j => putOnPort j w s
     | none => s)
  else
    match choosePath s w.src w.seq.toNat w.pkt.dst with
    | some (j, nm) => putOnPort j { w with nonMin := nm } s
    | none => s

/-- E2E_ACK, SKIP and SKIP_ANSWER, which have no record (R258, R259). -/
def unsequencedOp (op : Nat) : Bool := 0x60 ≤ op && op ≤ 0x62

/-- The packets of this wafer that are outstanding and whose last copy left by a port (R261). -/
def lastBy (s : State) (i : Nat) : List Outst := s.fabric.tx.flatMap (fun e => e.2.out.filter (fun o => o.last == i))

/-- A port declares its link down: what it has sent and the peer has not acknowledged is discarded, and the packets of this wafer
that are outstanding and last left by it are sent again by another path (R261, R264, R265). -/
def linkDown (i : Nat) (s : State) : State :=
  let p := getPort s i
  let g := linkGroup s i
  let before := s
  let s := raise (evPort 0x200 1 i 0) (portEmptied i s)
  let s := match g with
    | some g => notePair g before s
    | none => s
  let s := (lastBy before i).foldl (fun s o => resend o s) s
  let s := (p.queue.filter (fun w => w.src != nodeId s || unsequencedOp w.pkt.opcode)).foldl (fun s w => reroute w s) s
  refreshOff (sendLinkState i 0 s)

/-! ## Host commands -/

/-- The partition that a command names exists and its domain is the packet's (R171, R235). -/
def cmdPart (s : State) (p : Pkt) (h : Hdr) : Option Part :=
  match getPart s h.part with
  | some a => if a.domain = p.domain then some a else none
  | none => none

/-- REPLY and RUN_NOTIFY payload (R172). -/
def runReply (tag : BitVec 16) (status code x y slot detail number : Nat) : List Byte :=
  leBytes 2 tag.toNat ++ [BitVec.ofNat 8 status, BitVec.ofNat 8 code] ++ leBytes 2 x ++ leBytes 2 y ++
  [BitVec.ofNat 8 slot, BitVec.ofNat 8 detail, 0, 0] ++ leBytes 4 number

/-- Answers a section or job command that names no cell (R172). -/
def replyRun (p : Pkt) (h : Hdr) (status code number : Nat) (s : State) : State :=
  sendPkt p.node p.domain 0x3F (runReply h.tag status code 0xFFFF 0xFFFF 0xFF 0xFF number) s

/-- SYNC_REPLY (R235). -/
def replySync (p : Pkt) (h : Hdr) (status ack : Nat) (pc cc : Count48) (sum : Word64) (s : State) : State :=
  sendPkt p.node p.domain 0x4F
    (leBytes 2 h.tag.toNat ++ [BitVec.ofNat 8 status, BitVec.ofNat 8 ack] ++ leBytes 6 pc.toNat ++ leBytes 6 cc.toNat ++
     leBytes 8 sum.toNat) s

end Sys2Proof.Machine
end

