-- ==== Sys2Proof/Machine/Objects.lean ====
section
/-!
DEFINITION. The object dictionary as a table: every object's type, access, roles and range, and what a read of it returns
(R12, R397).
-/

namespace Sys2Proof.Machine

/-- Access of an object (R12). -/
inductive Acc where
  | ro
  | rw
  | rwp
  | wo
deriving DecidableEq, Repr

/-- What the subindexes of an object count: nothing, or partitions, fields, ports or domains. -/
inductive Ent where
  | single
  | part
  | field
  | port
  | domain
deriving DecidableEq, Repr

/-- A row of an object table: index, first and last subindex, type code of R423, length in bytes, access, roles, what its
subindexes count, least and greatest value that a write may give, one further value, and whether a tenant may read it. -/
structure Obj where
  index : Nat
  first : Nat
  last : Nat
  ty : Nat
  len : Nat
  acc : Acc
  roles : List Role
  ent : Ent
  lo : Nat
  hi : Nat
  also : Option Nat
  tenantReads : Bool
deriving DecidableEq, Repr

/-! ## The tables -/

/-- The objects of R112. -/
def objsR112 : List Obj :=
  [⟨0x2F00, 1, 1, 2, 1, .rw, [.operator, .tenant], .single, 0, 55, none, true⟩,
   ⟨0x2F00, 2, 2, 2, 1, .rw, [.operator, .tenant], .single, 0, 1, none, true⟩,
   ⟨0x2F00, 3, 3, 1, 1, .wo, [.operator, .tenant], .single, 0, 1, none, true⟩,
   ⟨0x2F00, 4, 4, 2, 1, .ro, [], .single, 0, 255, none, true⟩,
   ⟨0x2F00, 5, 5, 4, 4, .ro, [], .single, 0, 4294967295, none, true⟩,
   ⟨0x2F00, 6, 6, 5, 8, .ro, [], .single, 0, 18446744073709551615, none, true⟩,
   ⟨0x2F00, 7, 7, 5, 8, .ro, [], .single, 0, 18446744073709551615, none, true⟩,
   ⟨0x2F00, 8, 8, 5, 8, .ro, [], .single, 0, 18446744073709551615, none, true⟩,
   ⟨0x2F00, 9, 9, 5, 8, .ro, [], .single, 0, 18446744073709551615, none, true⟩,
   ⟨0x2F00, 10, 10, 5, 8, .ro, [], .single, 0, 18446744073709551615, none, true⟩,
   ⟨0x2F00, 11, 11, 4, 4, .ro, [], .single, 0, 4294967295, none, true⟩]

/-- The objects of R173. -/
def objsR173 : List Obj :=
  [⟨0x2D00, 1, 1, 4, 4, .rw, [.operator], .single, 100, 1000000, none, true⟩,
   ⟨0x2D00, 2, 2, 2, 1, .rw, [.operator], .single, 2, 255, none, true⟩,
   ⟨0x2D00, 3, 3, 2, 1, .rw, [.operator], .single, 60, 94, none, true⟩,
   ⟨0x2D01, 1, 56, 4, 4, .ro, [], .part, 0, 4294967295, none, true⟩,
   ⟨0x2D02, 1, 56, 3, 2, .ro, [], .part, 0, 65535, none, true⟩,
   ⟨0x2D03, 1, 56, 2, 1, .ro, [], .part, 0, 255, none, true⟩,
   ⟨0x2D04, 1, 56, 5, 8, .ro, [], .part, 0, 18446744073709551615, none, true⟩,
   ⟨0x2D10, 1, 56, 2, 1, .ro, [], .part, 0, 255, none, true⟩,
   ⟨0x2D11, 1, 56, 4, 4, .ro, [], .part, 0, 4294967295, none, true⟩,
   ⟨0x2D12, 1, 56, 2, 1, .rw, [.operator, .tenant], .part, 0, 1, none, true⟩,
   ⟨0x2D13, 1, 56, 4, 4, .ro, [], .part, 0, 4294967295, none, true⟩,
   ⟨0x2D14, 1, 56, 4, 4, .ro, [], .part, 0, 4294967295, none, true⟩,
   ⟨0x2D15, 1, 56, 4, 4, .ro, [], .part, 0, 4294967295, none, true⟩,
   ⟨0x2D20, 1, 56, 1, 1, .rw, [.operator, .tenant], .part, 0, 1, none, true⟩,
   ⟨0x2D21, 1, 56, 4, 4, .rw, [.operator, .tenant], .part, 1, 65535, none, true⟩,
   ⟨0x2D22, 1, 56, 4, 4, .rw, [.operator, .tenant], .part, 0, 4294967295, none, true⟩,
   ⟨0x2D23, 1, 56, 4, 4, .rw, [.operator, .tenant], .part, 1, 524288, none, true⟩]

/-- The objects of R206. -/
def objsR206 : List Obj :=
  [⟨0x2B00, 1, 1, 4, 4, .ro, [], .single, 0, 4294967295, none, true⟩,
   ⟨0x2B00, 2, 2, 4, 4, .ro, [], .single, 0, 4294967295, none, true⟩,
   ⟨0x2B00, 3, 3, 4, 4, .ro, [], .single, 0, 4294967295, none, true⟩,
   ⟨0x2B00, 4, 4, 4, 4, .ro, [], .single, 0, 4294967295, none, true⟩,
   ⟨0x2B00, 5, 5, 4, 4, .rwp, [.operator, .service], .single, 0, 4294967295, none, true⟩,
   ⟨0x2B00, 6, 6, 4, 4, .rw, [.operator], .single, 1, 1000000, none, true⟩,
   ⟨0x2B00, 7, 7, 2, 1, .rw, [.operator], .single, 1, 255, none, true⟩,
   ⟨0x2B00, 8, 8, 4, 4, .rw, [.operator], .single, 10, 1000000, none, true⟩,
   ⟨0x2B00, 9, 9, 4, 4, .ro, [], .single, 0, 4294967295, none, true⟩,
   ⟨0x2B00, 10, 10, 2, 1, .ro, [], .single, 0, 255, none, true⟩,
   ⟨0x2B10, 1, 56, 3, 2, .ro, [], .field, 0, 65535, none, true⟩,
   ⟨0x2B11, 1, 56, 3, 2, .ro, [], .field, 0, 65535, none, true⟩,
   ⟨0x2B12, 1, 56, 4, 4, .ro, [], .field, 0, 4294967295, none, true⟩,
   ⟨0x2B13, 1, 56, 8, 720, .ro, [], .field, 0, 0, none, true⟩,
   ⟨0x2B14, 1, 56, 8, 2880, .ro, [], .field, 0, 0, none, true⟩]

/-- The objects of R237. -/
def objsR237 : List Obj :=
  [⟨0x2C00, 1, 1, 4, 4, .rw, [.operator], .single, 100, 60000000, none, true⟩,
   ⟨0x2C00, 2, 2, 1, 1, .rw, [.operator], .single, 0, 1, none, true⟩,
   ⟨0x2C00, 3, 3, 3, 2, .ro, [], .single, 0, 65535, none, true⟩,
   ⟨0x2C01, 1, 56, 3, 2, .rw, [.operator], .part, 14336, 16383, none, true⟩,
   ⟨0x2C02, 1, 56, 3, 2, .rw, [.operator], .part, 0, 2048, none, true⟩,
   ⟨0x2C03, 1, 56, 4, 4, .ro, [], .part, 0, 4294967295, none, true⟩,
   ⟨0x2C04, 1, 56, 4, 4, .ro, [], .part, 0, 4294967295, none, true⟩,
   ⟨0x2C05, 1, 56, 5, 8, .ro, [], .part, 0, 18446744073709551615, none, true⟩,
   ⟨0x2C06, 1, 56, 2, 1, .ro, [], .part, 0, 255, none, true⟩]

/-- The objects of R274. -/
def objsR274 : List Obj :=
  [⟨0x2600, 1, 1, 3, 2, .rwp, [.operator], .single, 0, 12287, some 65535, true⟩,
   ⟨0x2600, 2, 2, 2, 1, .rwp, [.operator], .single, 1, 32, none, true⟩,
   ⟨0x2600, 3, 3, 3, 2, .rwp, [.operator], .single, 1, 384, none, true⟩,
   ⟨0x2600, 4, 4, 4, 4, .rw, [.operator], .single, 1, 1000, none, true⟩,
   ⟨0x2600, 5, 5, 4, 4, .rw, [.operator], .single, 5, 10000, none, true⟩,
   ⟨0x2600, 6, 6, 2, 1, .rw, [.operator], .single, 1, 15, none, true⟩,
   ⟨0x2600, 7, 7, 4, 4, .rw, [.operator], .single, 0, 1048576, none, true⟩,
   ⟨0x2600, 8, 8, 4, 4, .rw, [.operator], .single, 10, 60000, none, true⟩,
   ⟨0x2600, 9, 9, 4, 4, .ro, [], .single, 0, 4294967295, none, false⟩,
   ⟨0x2600, 10, 10, 4, 4, .ro, [], .single, 0, 4294967295, none, false⟩,
   ⟨0x2610, 1, 64, 1, 1, .rw, [.operator], .port, 0, 1, none, true⟩,
   ⟨0x2611, 1, 64, 2, 1, .ro, [], .port, 0, 255, none, true⟩,
   ⟨0x2612, 1, 64, 2, 1, .rw, [.operator], .port, 0, 2, none, true⟩,
   ⟨0x2613, 1, 64, 4, 4, .ro, [], .port, 0, 4294967295, none, true⟩,
   ⟨0x2614, 1, 64, 3, 2, .ro, [], .port, 0, 65535, none, true⟩,
   ⟨0x2615, 1, 64, 4, 4, .ro, [], .port, 0, 4294967295, none, false⟩,
   ⟨0x2616, 1, 64, 4, 4, .ro, [], .port, 0, 4294967295, none, false⟩,
   ⟨0x2617, 1, 64, 4, 4, .ro, [], .port, 0, 4294967295, none, false⟩,
   ⟨0x2618, 1, 64, 3, 2, .rw, [.operator], .port, 12288, 16383, some 65535, true⟩,
   ⟨0x2619, 1, 64, 2, 1, .rwp, [.operator, .service], .port, 0, 2, some 255, true⟩,
   ⟨0x2620, 1, 254, 5, 8, .rw, [.operator], .single, 0, 18446744073709551615, none, true⟩]

/-- The objects of R293. -/
def objsR293 : List Obj :=
  [⟨0x2E00, 1, 1, 4, 4, .ro, [], .single, 0, 4294967295, none, true⟩,
   ⟨0x2E00, 2, 2, 4, 4, .rw, [.operator], .single, 1, 10000, none, true⟩,
   ⟨0x2E01, 1, 56, 1, 1, .rw, [.operator, .tenant], .part, 0, 1, none, true⟩,
   ⟨0x2E02, 1, 56, 5, 8, .ro, [], .part, 0, 18446744073709551615, none, true⟩,
   ⟨0x2E03, 1, 56, 4, 4, .ro, [], .part, 0, 4294967295, none, true⟩,
   ⟨0x2E10, 1, 68, 4, 4, .ro, [], .single, 0, 4294967295, none, false⟩]

/-- The objects of R311. -/
def objsR311 : List Obj :=
  [⟨0x2100, 1, 1, 2, 1, .ro, [], .single, 0, 255, none, true⟩,
   ⟨0x2100, 2, 2, 5, 8, .ro, [], .single, 0, 18446744073709551615, none, true⟩,
   ⟨0x2100, 3, 3, 4, 4, .rwp, [.operator], .single, 1000, 1000000, none, true⟩,
   ⟨0x2100, 4, 4, 2, 1, .rw, [.operator], .single, 4, 16, none, true⟩,
   ⟨0x2100, 5, 5, 2, 1, .rw, [.operator], .single, 4, 16, none, true⟩,
   ⟨0x2100, 6, 6, 2, 1, .ro, [], .single, 0, 255, none, true⟩,
   ⟨0x2100, 7, 7, 2, 1, .rw, [.operator], .single, 0, 255, none, true⟩,
   ⟨0x2100, 8, 8, 2, 1, .rw, [.operator], .single, 0, 2, none, true⟩,
   ⟨0x2100, 9, 9, 4, 4, .ro, [], .single, 0, 4294967295, none, true⟩,
   ⟨0x2100, 10, 10, 6, 4, .ro, [], .single, 0, 4294967295, none, true⟩,
   ⟨0x2110, 1, 56, 3, 2, .rw, [.operator], .field, 1536, 4608, none, true⟩,
   ⟨0x2111, 1, 56, 3, 2, .ro, [], .field, 0, 65535, none, true⟩,
   ⟨0x2112, 1, 56, 2, 1, .ro, [], .field, 0, 255, none, true⟩,
   ⟨0x2113, 1, 56, 4, 4, .ro, [], .field, 0, 4294967295, none, true⟩]

/-- The objects of R341. -/
def objsR341 : List Obj :=
  [⟨0x2200, 1, 1, 3, 2, .ro, [], .single, 0, 65535, none, true⟩,
   ⟨0x2200, 2, 2, 4, 4, .ro, [], .single, 0, 4294967295, none, false⟩,
   ⟨0x2200, 3, 3, 4, 4, .ro, [], .single, 0, 4294967295, none, true⟩,
   ⟨0x2200, 4, 4, 2, 1, .ro, [], .single, 0, 255, none, true⟩,
   ⟨0x2200, 5, 5, 3, 2, .ro, [], .single, 0, 65535, none, true⟩,
   ⟨0x2200, 6, 6, 3, 2, .rw, [.operator], .single, 5, 600, none, true⟩,
   ⟨0x2200, 7, 7, 4, 4, .rw, [.operator], .single, 10000, 36000, none, true⟩,
   ⟨0x2200, 8, 8, 4, 4, .rw, [.operator], .single, 0, 36000, none, true⟩,
   ⟨0x2200, 9, 9, 3, 2, .rw, [.operator], .single, 50, 5000, none, true⟩,
   ⟨0x2200, 10, 10, 4, 4, .ro, [], .single, 0, 4294967295, none, false⟩,
   ⟨0x2200, 11, 11, 2, 1, .ro, [], .single, 0, 255, none, true⟩,
   ⟨0x2200, 12, 12, 2, 1, .ro, [], .single, 0, 255, none, true⟩,
   ⟨0x2200, 13, 13, 2, 1, .ro, [], .single, 0, 255, none, true⟩,
   ⟨0x2200, 14, 14, 3, 2, .ro, [], .single, 0, 65535, none, true⟩,
   ⟨0x2210, 1, 56, 4, 4, .rw, [.operator], .part, 0, 4294967295, none, true⟩,
   ⟨0x2211, 1, 56, 2, 1, .rw, [.operator], .part, 0, 15, none, true⟩,
   ⟨0x2212, 1, 56, 4, 4, .ro, [], .part, 0, 4294967295, none, true⟩,
   ⟨0x2213, 1, 56, 4, 4, .ro, [], .part, 0, 4294967295, none, true⟩,
   ⟨0x2214, 1, 56, 5, 8, .ro, [], .part, 0, 18446744073709551615, none, false⟩]

/-- The objects of R342. -/
def objsR342 : List Obj :=
  [⟨0x2300, 1, 1, 2, 1, .rw, [.operator], .single, 80, 95, none, true⟩,
   ⟨0x2300, 2, 2, 2, 1, .rw, [.operator], .single, 70, 94, none, true⟩,
   ⟨0x2300, 3, 3, 6, 4, .ro, [], .single, 0, 4294967295, none, true⟩,
   ⟨0x2300, 4, 4, 6, 4, .ro, [], .single, 0, 4294967295, none, true⟩,
   ⟨0x2300, 5, 5, 3, 2, .ro, [], .single, 0, 65535, none, true⟩,
   ⟨0x2300, 6, 6, 4, 4, .ro, [], .single, 0, 4294967295, none, true⟩]

/-- The objects of R343. -/
def objsR343 : List Obj :=
  [⟨0x3000, 1, 56, 4, 4, .ro, [], .field, 0, 4294967295, none, false⟩,
   ⟨0x3001, 1, 56, 3, 2, .ro, [], .field, 0, 65535, none, false⟩,
   ⟨0x3002, 1, 56, 6, 4, .ro, [], .field, 0, 4294967295, none, true⟩,
   ⟨0x3003, 1, 56, 2, 1, .ro, [], .field, 0, 255, none, true⟩,
   ⟨0x3004, 1, 56, 2, 1, .ro, [], .field, 0, 255, none, true⟩,
   ⟨0x3005, 1, 56, 5, 8, .ro, [], .field, 0, 18446744073709551615, none, false⟩,
   ⟨0x3006, 1, 56, 3, 2, .ro, [], .field, 0, 65535, none, true⟩,
   ⟨0x3007, 1, 56, 4, 4, .ro, [], .field, 0, 4294967295, none, true⟩]

/-- The objects of R364. -/
def objsR364 : List Obj :=
  [⟨0x2800, 1, 1, 5, 8, .ro, [], .single, 0, 18446744073709551615, none, true⟩,
   ⟨0x2800, 2, 2, 4, 4, .ro, [], .single, 0, 4294967295, none, true⟩,
   ⟨0x2800, 3, 3, 3, 2, .ro, [], .single, 0, 65535, none, true⟩,
   ⟨0x2800, 4, 4, 5, 8, .ro, [], .single, 0, 18446744073709551615, none, false⟩,
   ⟨0x2800, 5, 5, 4, 4, .ro, [], .single, 0, 4294967295, none, false⟩,
   ⟨0x2800, 6, 6, 4, 4, .ro, [], .single, 0, 4294967295, none, false⟩,
   ⟨0x2800, 7, 7, 4, 4, .ro, [], .single, 0, 4294967295, none, false⟩,
   ⟨0x2800, 8, 8, 3, 2, .ro, [], .single, 0, 65535, none, true⟩,
   ⟨0x2800, 9, 9, 4, 4, .ro, [], .single, 0, 4294967295, none, true⟩,
   ⟨0x2800, 10, 10, 4, 4, .ro, [], .single, 0, 4294967295, none, true⟩,
   ⟨0x2800, 11, 11, 4, 4, .ro, [], .single, 0, 4294967295, none, true⟩,
   ⟨0x2800, 12, 12, 2, 1, .ro, [], .single, 0, 255, none, true⟩,
   ⟨0x2801, 1, 1, 4, 4, .ro, [], .single, 0, 4294967295, none, false⟩,
   ⟨0x2801, 2, 2, 5, 8, .ro, [], .single, 0, 18446744073709551615, none, false⟩,
   ⟨0x2801, 3, 3, 5, 8, .ro, [], .single, 0, 18446744073709551615, none, false⟩,
   ⟨0x2801, 4, 4, 5, 8, .ro, [], .single, 0, 18446744073709551615, none, false⟩,
   ⟨0x2801, 5, 5, 4, 4, .ro, [], .single, 0, 4294967295, none, false⟩,
   ⟨0x2810, 1, 56, 5, 8, .ro, [], .part, 0, 18446744073709551615, none, false⟩,
   ⟨0x2811, 1, 56, 5, 8, .ro, [], .part, 0, 18446744073709551615, none, true⟩,
   ⟨0x2820, 1, 56, 2, 1, .ro, [], .part, 0, 255, none, true⟩,
   ⟨0x2821, 1, 56, 5, 8, .ro, [], .part, 0, 18446744073709551615, none, true⟩,
   ⟨0x2822, 1, 56, 5, 8, .ro, [], .part, 0, 18446744073709551615, none, true⟩,
   ⟨0x2823, 1, 56, 5, 8, .ro, [], .part, 0, 18446744073709551615, none, true⟩]

/-- The objects of R391. -/
def objsR391 : List Obj :=
  [⟨0x2400, 1, 1, 4, 4, .rwp, [.operator], .single, 0, 4294967295, none, true⟩,
   ⟨0x2400, 2, 2, 2, 1, .rwp, [.operator], .single, 0, 55, none, true⟩,
   ⟨0x2400, 3, 3, 2, 1, .ro, [], .single, 0, 255, none, true⟩,
   ⟨0x2400, 4, 4, 8, 56, .ro, [], .single, 0, 0, none, false⟩,
   ⟨0x2401, 1, 56, 3, 2, .ro, [], .part, 0, 65535, none, true⟩,
   ⟨0x2402, 1, 56, 2, 1, .ro, [], .part, 0, 255, none, true⟩,
   ⟨0x2403, 1, 56, 2, 1, .rw, [.operator], .part, 0, 2, none, true⟩,
   ⟨0x2404, 1, 56, 2, 1, .ro, [], .part, 0, 255, none, true⟩]

/-- The objects of R392. -/
def objsR392 : List Obj :=
  [⟨0x2500, 3, 3, 5, 8, .ro, [], .single, 0, 18446744073709551615, none, true⟩,
   ⟨0x2500, 4, 4, 2, 1, .rwp, [.operator], .single, 0, 63, none, true⟩,
   ⟨0x2500, 5, 5, 8, 64, .rwp, [.operator], .single, 0, 0, none, true⟩,
   ⟨0x2500, 6, 6, 8, 8, .ro, [], .single, 0, 0, none, true⟩,
   ⟨0x2500, 7, 7, 8, 32, .ro, [], .single, 0, 0, none, true⟩,
   ⟨0x2500, 8, 8, 5, 8, .rwp, [.operator], .single, 0, 18446744073709551615, none, true⟩,
   ⟨0x2500, 9, 9, 2, 1, .ro, [], .single, 0, 255, none, true⟩,
   ⟨0x2500, 10, 10, 5, 8, .rwp, [.operator], .single, 0, 18446744073709551615, none, true⟩,
   ⟨0x2500, 16, 16, 8, 160, .wo, [.operator, .metrology, .vendor, .service], .single, 0, 0, none, true⟩,
   ⟨0x2500, 17, 17, 4, 4, .ro, [], .single, 0, 4294967295, none, true⟩,
   ⟨0x2500, 18, 18, 3, 2, .rwp, [.metrology, .vendor, .service], .single, 0, 3600, none, true⟩,
   ⟨0x2510, 1, 1, 8, 32, .rwp, [.operator, .vendor], .single, 0, 0, none, true⟩,
   ⟨0x2510, 2, 2, 8, 32, .rwp, [.operator], .single, 0, 0, none, true⟩,
   ⟨0x2510, 3, 3, 8, 32, .ro, [], .single, 0, 0, none, true⟩,
   ⟨0x2510, 4, 4, 8, 32, .rwp, [.operator], .single, 0, 0, none, true⟩,
   ⟨0x2520, 1, 64, 3, 2, .ro, [], .domain, 0, 65535, none, false⟩,
   ⟨0x2521, 1, 64, 4, 4, .ro, [], .domain, 0, 4294967295, none, false⟩]

/-- The objects of R400. -/
def objsR400 : List Obj :=
  [⟨0x1000, 0, 0, 4, 4, .ro, [], .single, 0, 4294967295, none, true⟩,
   ⟨0x1008, 0, 0, 9, 16, .ro, [], .single, 0, 0, none, true⟩,
   ⟨0x1009, 0, 0, 9, 8, .ro, [], .single, 0, 0, none, true⟩,
   ⟨0x100A, 0, 0, 9, 16, .ro, [], .single, 0, 0, none, true⟩,
   ⟨0x1018, 1, 1, 4, 4, .ro, [], .single, 0, 4294967295, none, true⟩,
   ⟨0x1018, 2, 2, 4, 4, .ro, [], .single, 0, 4294967295, none, true⟩,
   ⟨0x1018, 3, 3, 4, 4, .ro, [], .single, 0, 4294967295, none, true⟩,
   ⟨0x1018, 4, 4, 4, 4, .ro, [], .single, 0, 4294967295, none, true⟩,
   ⟨0x2000, 1, 1, 9, 12, .ro, [], .single, 0, 0, none, true⟩,
   ⟨0x2000, 2, 2, 5, 8, .ro, [], .single, 0, 18446744073709551615, none, true⟩,
   ⟨0x2000, 3, 3, 4, 4, .ro, [], .single, 0, 4294967295, none, true⟩,
   ⟨0x2000, 4, 4, 4, 4, .ro, [], .single, 0, 4294967295, none, true⟩,
   ⟨0x2000, 5, 5, 4, 4, .ro, [], .single, 0, 4294967295, none, true⟩]

/-- The objects of R417. -/
def objsR417 : List Obj :=
  [⟨0x2700, 1, 1, 3, 2, .ro, [], .single, 0, 65535, none, false⟩,
   ⟨0x2700, 2, 2, 4, 4, .ro, [], .single, 0, 4294967295, none, false⟩,
   ⟨0x2700, 3, 3, 4, 4, .ro, [], .single, 0, 4294967295, none, false⟩,
   ⟨0x2700, 4, 4, 4, 4, .rw, [.operator], .single, 0, 4294967295, none, false⟩,
   ⟨0x2700, 5, 5, 8, 32, .ro, [], .single, 0, 0, none, false⟩,
   ⟨0x2700, 6, 6, 4, 4, .wo, [.operator], .single, 0, 4294967295, none, false⟩,
   ⟨0x2700, 7, 7, 4, 4, .ro, [], .single, 0, 4294967295, none, false⟩,
   ⟨0x2700, 8, 8, 3, 2, .rw, [.operator], .single, 0, 16383, some 65535, false⟩,
   ⟨0x2701, 1, 10, 2, 1, .rw, [.operator], .single, 0, 2, none, true⟩,
   ⟨0x2720, 1, 1, 2, 1, .ro, [], .single, 0, 255, none, true⟩,
   ⟨0x2720, 2, 2, 4, 4, .ro, [], .single, 0, 4294967295, none, true⟩,
   ⟨0x2720, 3, 3, 3, 2, .rw, [.operator], .single, 5, 1000, none, true⟩,
   ⟨0x2720, 4, 4, 1, 1, .wo, [.operator], .single, 1, 1, none, true⟩,
   ⟨0x2720, 5, 5, 2, 1, .ro, [], .single, 0, 255, none, true⟩,
   ⟨0x2720, 6, 6, 2, 1, .ro, [], .single, 0, 255, none, true⟩]

/-- The objects of R421. -/
def objsR421 : List Obj :=
  [⟨0x2730, 1, 32, 3, 2, .rw, [.operator], .single, 0, 93, some 65535, true⟩,
   ⟨0x2731, 1, 1, 1, 1, .wo, [.operator], .single, 1, 1, none, true⟩,
   ⟨0x2731, 2, 2, 1, 1, .wo, [.operator], .single, 1, 1, none, true⟩,
   ⟨0x2731, 3, 3, 2, 1, .ro, [], .single, 0, 255, none, true⟩,
   ⟨0x2731, 4, 4, 3, 2, .ro, [], .single, 0, 65535, none, true⟩,
   ⟨0x2731, 5, 5, 8, 32, .ro, [], .single, 0, 0, none, true⟩,
   ⟨0x2732, 1, 8, 5, 8, .rw, [.operator], .single, 0, 18446744073709551615, none, true⟩]

/-- The objects of R427. -/
def objsR427 : List Obj :=
  [⟨0x2900, 1, 1, 5, 8, .ro, [], .single, 0, 18446744073709551615, none, true⟩,
   ⟨0x2900, 2, 2, 2, 1, .ro, [], .single, 0, 255, none, true⟩,
   ⟨0x2900, 3, 3, 2, 1, .ro, [], .single, 0, 255, none, true⟩,
   ⟨0x2900, 5, 5, 3, 2, .ro, [], .single, 0, 65535, none, true⟩,
   ⟨0x2900, 6, 6, 8, 1024, .ro, [], .single, 0, 0, none, true⟩,
   ⟨0x2910, 1, 1, 4, 4, .ro, [], .single, 0, 4294967295, none, true⟩,
   ⟨0x2911, 1, 1, 4, 4, .ro, [], .single, 0, 4294967295, none, true⟩,
   ⟨0x2910, 2, 2, 2, 1, .ro, [], .single, 0, 255, none, true⟩,
   ⟨0x2911, 2, 2, 2, 1, .ro, [], .single, 0, 255, none, true⟩,
   ⟨0x2910, 3, 3, 4, 4, .ro, [], .single, 0, 4294967295, none, true⟩,
   ⟨0x2911, 3, 3, 4, 4, .ro, [], .single, 0, 4294967295, none, true⟩,
   ⟨0x2910, 4, 4, 2, 1, .ro, [], .single, 0, 255, none, true⟩,
   ⟨0x2911, 4, 4, 2, 1, .ro, [], .single, 0, 255, none, true⟩,
   ⟨0x2910, 5, 5, 2, 1, .ro, [], .single, 0, 255, none, true⟩,
   ⟨0x2911, 5, 5, 2, 1, .ro, [], .single, 0, 255, none, true⟩,
   ⟨0x2910, 6, 6, 4, 4, .ro, [], .single, 0, 4294967295, none, true⟩,
   ⟨0x2911, 6, 6, 4, 4, .ro, [], .single, 0, 4294967295, none, true⟩,
   ⟨0x2910, 7, 7, 2, 1, .ro, [], .single, 0, 255, none, true⟩,
   ⟨0x2911, 7, 7, 2, 1, .ro, [], .single, 0, 255, none, true⟩,
   ⟨0x2920, 1, 1, 2, 1, .rw, [.operator], .single, 0, 1, some 255, true⟩,
   ⟨0x2920, 2, 2, 4, 4, .ro, [], .single, 0, 4294967295, none, true⟩,
   ⟨0x2920, 3, 3, 8, 1024, .wo, [.operator], .single, 0, 0, none, true⟩,
   ⟨0x2920, 4, 4, 2, 1, .ro, [], .single, 0, 255, none, true⟩,
   ⟨0x2920, 5, 5, 1, 1, .wo, [.operator], .single, 1, 1, none, true⟩,
   ⟨0x2920, 6, 6, 1, 1, .wo, [.operator], .single, 1, 1, none, true⟩,
   ⟨0x2920, 7, 7, 3, 2, .ro, [], .single, 0, 65535, none, true⟩]

/-- The objects of R446. -/
def objsR446 : List Obj :=
  [⟨0x2A00, 1, 1, 2, 1, .ro, [], .single, 0, 255, none, true⟩,
   ⟨0x2A00, 2, 2, 4, 4, .ro, [], .single, 0, 4294967295, none, true⟩,
   ⟨0x2A00, 3, 3, 2, 1, .ro, [], .single, 0, 255, none, true⟩,
   ⟨0x2A00, 4, 4, 4, 4, .ro, [], .single, 0, 4294967295, none, true⟩,
   ⟨0x2A00, 5, 5, 1, 1, .rwp, [.operator], .single, 1, 1, none, true⟩,
   ⟨0x2A00, 6, 6, 3, 2, .rw, [.operator], .single, 10, 1000, none, true⟩,
   ⟨0x2A01, 1, 1, 5, 8, .ro, [], .single, 0, 18446744073709551615, none, true⟩,
   ⟨0x2A01, 2, 2, 2, 1, .ro, [], .single, 0, 255, none, true⟩,
   ⟨0x2A01, 3, 3, 4, 4, .ro, [], .single, 0, 4294967295, none, true⟩,
   ⟨0x2A01, 4, 4, 4, 4, .ro, [], .single, 0, 4294967295, none, true⟩,
   ⟨0x2A01, 5, 5, 4, 4, .ro, [], .single, 0, 4294967295, none, true⟩,
   ⟨0x2A01, 6, 6, 5, 8, .ro, [], .single, 0, 18446744073709551615, none, true⟩,
   ⟨0x2A01, 7, 7, 4, 4, .ro, [], .single, 0, 4294967295, none, true⟩,
   ⟨0x2A02, 1, 56, 1, 1, .wo, [.operator, .tenant], .part, 1, 1, none, true⟩,
   ⟨0x2A03, 1, 56, 4, 4, .ro, [], .part, 0, 4294967295, none, true⟩,
   ⟨0x2A04, 1, 56, 2, 1, .ro, [], .part, 0, 255, none, true⟩,
   ⟨0x2A05, 1, 56, 2, 1, .rw, [.operator, .tenant], .part, 0, 1, none, true⟩,
   ⟨0x2A10, 1, 1, 4, 4, .wo, [.operator, .tenant], .single, 0, 4294967295, none, true⟩,
   ⟨0x2A10, 2, 2, 4, 4, .rwp, [.service], .single, 0, 4294967295, none, true⟩,
   ⟨0x2A10, 3, 3, 4, 4, .rw, [.operator], .single, 1, 3600, none, true⟩,
   ⟨0x2A12, 1, 1, 2, 1, .ro, [], .single, 0, 255, none, true⟩,
   ⟨0x2A12, 2, 2, 2, 1, .ro, [], .single, 0, 255, none, true⟩,
   ⟨0x2A12, 3, 3, 4, 4, .ro, [], .single, 0, 4294967295, none, true⟩,
   ⟨0x2A12, 4, 4, 4, 4, .ro, [], .single, 0, 4294967295, none, true⟩,
   ⟨0x2A12, 5, 5, 5, 8, .ro, [], .single, 0, 18446744073709551615, none, true⟩,
   ⟨0x2A20, 1, 56, 1, 1, .rwp, [.operator, .service], .field, 1, 1, none, true⟩]

/-- The objects of R461. -/
def objsR461 : List Obj :=
  [⟨0x4000, 1, 8, 2, 1, .rw, [.operator], .single, 0, 4, none, true⟩,
   ⟨0x4001, 1, 8, 1, 1, .rw, [.operator], .single, 0, 1, none, true⟩,
   ⟨0x4002, 1, 8, 1, 1, .ro, [], .single, 0, 1, none, true⟩,
   ⟨0x4003, 1, 8, 2, 1, .rw, [.operator], .single, 0, 255, none, true⟩,
   ⟨0x4004, 1, 8, 2, 1, .rw, [.operator], .single, 0, 2, none, true⟩]

/-- Every object of the dictionary (R397). -/
def allObjs : List Obj :=
  objsR112 ++ objsR173 ++ objsR206 ++ objsR237 ++ objsR274 ++ objsR293 ++ objsR311 ++ objsR341 ++ objsR342 ++ objsR343 ++ objsR364 ++ objsR391 ++ objsR392 ++ objsR400 ++ objsR417 ++ objsR421 ++ objsR427 ++ objsR446 ++ objsR461

/-- The row of an object, if the index exists and defines the subindex. -/
def findObj (index sub : Nat) : Option Obj := allObjs.find? (fun o => o.index == index && o.first ≤ sub && sub ≤ o.last)

/-- The index exists. -/
def indexExists (index : Nat) : Bool := allObjs.any (fun o => o.index == index)

/-- Subindex 00 of an array: how many entries it has (R173, R206, R274, R392). -/
def arrayCount (index : Nat) : Option Nat :=
  (allObjs.find? (fun o => o.index == index && o.ent != .single)).map (fun o => o.last)

/-! ## Figures that objects and the budget share -/

/-- Converters running, k (R313). -/
def runningK (s : State) : Nat := ((List.range 8).filter (fun i => s.power.running.getLsbD i)).length

/-- The sustained limit S, in W; with no converter running the limits are those of eight (R325; log 22). -/
def limitS (s : State) : Nat :=
  let k := if runningK s = 0 then 8 else runningK s
  min 30000 (min (4500 * k) s.power.coolantS)

/-- The peak, in W (R325). -/
def limitPeak (s : State) : Nat :=
  let k := if runningK s = 0 then 8 else runningK s
  min (limitS s + 6000) (4500 * k)

/-- The draw limit: S in a clamp, else the peak (R326, R327). -/
def drawLimit (s : State) : Nat := if s.power.clamped then limitS s else limitPeak s

/-- The budget state of 0x2200:04 (R341). -/
def budgetState (s : State) : Nat :=
  (if s.power.limiting || (s.power.sample > limitPeak s && s.power.overPeak.length ≥ 5000) then 3
   else if s.power.clamped then 2 else if s.power.average > limitS s then 1 else 0) +
  (if s.power.derating then 128 else 0)

/-- The reservation granularity G (R329). -/
def granularity (s : State) : Nat := max 1 (reg s 0x220009 250)

/-- ΣR over all partitions (R330). -/
def sumReserved (s : State) : Nat := (s.parts.map (fun e => e.2.reservation)).sum

/-- The largest share of a partition, by the reservations and weights in force (R330, R332). -/
def largestShare (s : State) (a : Part) : Nat :=
  if a.inForce.2 > 0 then
    (a.inForce.1 + (reg s 0x220007 30000 - (s.parts.map (fun e => e.2.inForce.1)).sum)) / granularity s * granularity s
  else a.inForce.1



/-- Counts sites of a kind: what the test left, adjusted by every site that changed since (R206). -/
def countSites (s : State) (base : Nat) (was : SiteState → Bool) (in' : Nat → Bool) : Nat :=
  let ch := s.mesh.sites.filter (fun e => in' e.1)
  base + (ch.filter (fun e => was e.2)).length - (ch.filter (fun e => was (testState s.ident.grade e.1))).length

/-- A site state that makes its position served (R190). -/
def stServed : SiteState → Bool
  | .enabled | .retiredCovered => true
  | _ => false

/-- Positions served now (R206). -/
def servedCount (s : State) : Nat := countSites s s.ident.grade stServed (fun _ => true)

/-- The part number of a grade count (R4). -/
def partNumber (grade : Nat) : String :=
  match grade with
  | 76800 => "ZW56-B768"
  | 72000 => "ZW56-C720"
  | _ => "ZW56-A792"

/-- A site's code in 0x2B13 (R206). -/
def siteCode : SiteState → Nat
  | .enabled => 0
  | .spare => 1
  | .spareAssigned => 2
  | .absentAtTest => 3
  | .retiredCovered => 4
  | .retiredUncovered => 5

/-- The two halves of a list of nibbles as bytes, low nibble first. -/
def nibbles : List Nat → List Byte
  | a :: b :: r => BitVec.ofNat 8 (a + 16 * b) :: nibbles r
  | [a] => [BitVec.ofNat 8 a]
  | [] => []

/-- The record of 0x2B13 for a field: 4 bits per position (R206). -/
def fieldStates (s : State) (f : Nat) : List Byte :=
  nibbles ((fieldSites f).map (fun k => siteCode (siteState s k)))

/-- The record of 0x2B14 for a field: the spare that covers a retired position, and the position that a spare covers (R206). -/
def fieldAssigns (s : State) (f : Nat) : List Byte :=
  (fieldSites f).flatMap (fun k =>
    leBytes 2 (match siteState s k with
      | .retiredCovered => inField (physical s k)
      | .spareAssigned => inField (positionOf s k)
      | _ => 0xFFFF))

/-- An event record's 32 bytes (R409). -/
def recBytes (r : EvRec) : List Byte :=
  let q := r.req
  leBytes 4 r.seq.toNat ++ leBytes 8 r.time.toNat ++
  leBytes 2 (q.code + q.kind * 2 ^ 10 + r.prio * 2 ^ 12 + (if r.lostBefore then 2 ^ 15 else 0)) ++
  [BitVec.ofNat 8 q.part, BitVec.ofNat 8 q.cls] ++ leBytes 2 q.x ++ leBytes 2 q.y ++
  [BitVec.ofNat 8 q.unit, BitVec.ofNat 8 q.domain] ++ leBytes 2 q.node ++ leBytes 8 q.detail

/-- The sequence number after another: 0xFFFF_FFFF wraps to 1 (R409). -/
def nextSeqNo (q : BitVec 32) : BitVec 32 := if q = 0xFFFFFFFF then 1 else q + 1

/-- How far a sequence number lies from another, counting forward through the wrap to 1 (R467). -/
def seqAhead (fromSeq v : BitVec 32) : Nat :=
  if fromSeq ≤ v then v.toNat - fromSeq.toNat else v.toNat + (2 ^ 32 - 1) - fromSeq.toNat

/-- The records from a sequence value on, in queue order (R467). -/
def recordsFrom (q : List EvRec) (v : BitVec 32) : List EvRec :=
  match q, q.getLast? with
  | old :: _, some new =>
    if v = 0 then q
    else if seqAhead old.seq v ≤ seqAhead old.seq new.seq then
      q.dropWhile (fun r => seqAhead old.seq r.seq < seqAhead old.seq v)
    else if seqAhead v old.seq ≤ 2 ^ 31 then q
    else []
  | _, _ => []

/-- Little-endian bits as bytes: bit n set for each n listed. -/
def bitBytes (n : Nat) (ns : List Nat) : List Byte := leBytes n (ns.eraseDups.map (fun i => 2 ^ i)).sum

/-- A key slot word of 0x2520 (R392). -/
def slotWord (k : KeySlots) : Nat :=
  (List.range 4).foldl (fun w i =>
    w + (if (amFind k.gens i).isNone then 0 else if k.send = some i then 2 else 1) * 4 ^ i) (k.send.getD 0 * 256)

/-- The seconds left of the read session (R369, R392). -/
def sessionLeft (s : State) : Nat :=
  match s.sec.session with
  | some (_, t) => (t - now s + secT - 1) / secT
  | none => 0

/-- A number's decimal digits (log 23). -/
def digits (n : Nat) : List Byte := (toString n).toList.map (fun ch => BitVec.ofNat 8 ch.toNat)

/-- The image version that a controller runs. -/
def runningVersion (c : CtlS) : Nat :=
  match c.runningB with
  | some true => c.verB
  | some false => c.verA
  | none => 0

/-- The trial's seconds left (R389, R427). -/
def trialLeft (s : State) : Nat :=
  match s.settings.trial with
  | some (_, t) => (t - now s + secT - 1) / secT
  | none => 0

/-- The code of a firmware slot state (R427). -/
def slotCode : ImgSlot → Nat
  | .empty => 0
  | .valid => 1
  | .invalid => 2
  | .trial => 3

/-- A controller's entries in 0x2910 and 0x2911 (R427). -/
def ctlObj (c : CtlS) (sub : Nat) : Nat :=
  match sub with
  | 1 => c.verA
  | 2 => slotCode c.slotA
  | 3 => c.verB
  | 4 => slotCode c.slotB
  | 5 => if c.prefB then 1 else 0
  | 6 => c.minSec
  | _ => match c.runningB with | none => 0xFF | some b => if b then 1 else 0

/-- The reference state of 0x2100:01 (R311). -/
def refCode : RefState → Nat
  | .noLock => 0
  | .locked => 1
  | .holdover => 2
  | .holdoverLong => 3

/-- The field clock state of 0x2112 (R311). -/
def fcCode : FcState → Nat
  | .off => 0
  | .settling => 1
  | .locking => 2
  | .locked => 3
  | .failed => 4

/-- The standby state of 0x2720:06 (R417). -/
def standbyCode : StandbyState → Nat
  | .absent => 0
  | .booting => 1
  | .ready => 2
  | .trial => 3
  | .halted => 4

/-- The partition state of 0x2404 (R391). -/
def pstateCode : PState → Nat
  | .ready => 1
  | .jobOpen => 2
  | .resetting => 3
  | .scrubbing => 4

/-- The job state of 0x2820 (R364). -/
def markCode : JobMark → Nat
  | .none => 0
  | .open => 1
  | .started => 2
  | .stopped => 3
  | .closed => 4

/-- A controller as 0x2720 numbers it (R417). -/
def ownerCode : Option Ctl → Nat
  | none => 0
  | some .cope => 1
  | some .drag => 2

/-- Ready flags of 0x2100:06: the reference's is set while it is locked or in holdover (R308, R311). -/
def readyFlags (s : State) : Nat :=
  (if s.time.ref = .noLock then 0 else 1) + (if s.time.pll0 then 2 else 0) + (if s.time.pll1 then 4 else 0)

/-- Defaults of the objects whose value is a plain setting (R397). -/
def plainDefault (index sub : Nat) : Nat :=
  match index with
  | 0x2100 => match sub with | 3 => 15625 | 4 => 10 | 5 => 10 | 7 => 0x11 | _ => 1
  | 0x2110 => 3840
  | 0x2200 => match sub with | 6 => 20 | 7 => 30000 | 8 => 26000 | _ => 250
  | 0x2300 => if sub = 1 then 95 else 92
  | 0x2400 => if sub = 2 then 0xFF else 0
  | 0x2500 => if sub = 4 then 63 else 0
  | 0x2600 => match sub with | 1 => 0xFFFF | 2 => 32 | 3 => 1 | 4 => 10 | 5 => 20 | 6 => 4 | 7 => 65536 | _ => 100
  | 0x2610 | 0x2612 | 0x2E01 | 0x4004 => 1
  | 0x2618 | 0x2730 => 0xFFFF
  | 0x2619 => 0xFF
  | 0x2700 => if sub = 8 then 0xFFFF else 0
  | 0x2720 => 10
  | 0x2A00 => if sub = 6 then 1000 else 0
  | 0x2A10 => if sub = 3 then 60 else 0
  | 0x2B00 => match sub with | 6 => 1000 | 7 => 3 | 8 => 100 | _ => 0
  | 0x2C00 => if sub = 1 then 2000 else 1
  | 0x2D00 => match sub with | 1 => 10000 | 2 => 4 | _ => 90
  | 0x2D21 => 10
  | 0x2E00 => 10
  | _ => 0

/-- A setting by index and subindex. -/
def setting (s : State) (index sub : Nat) : Nat := reg s (index * 256 + sub) (plainDefault index sub)

/-- A numeric entry of a partition. -/
def partNum (s : State) (tenant : Bool) (index p : Nat) (a : Part) : Nat :=
  match index with
  | 0x2210 => a.reservation
  | 0x2211 => a.weight
  | 0x2212 => a.share
  | 0x2213 => largestShare s a
  | 0x2214 => a.attributed
  | 0x2401 => a.fx * 2 ^ 13 + a.fy * 2 ^ 10 + (a.width - 1) * 2 ^ 7 + (a.height - 1) * 2 ^ 4
  | 0x2402 => a.domain
  | 0x2403 => a.role
  | 0x2404 => pstateCode a.pstate
  | 0x2810 => a.energy
  | 0x2811 => a.tenantEnergy
  | 0x2820 => markCode a.stamp.mark
  | 0x2821 => a.stamp.start.toNat
  | 0x2822 => a.stamp.stop.toNat
  | 0x2823 => if tenant then a.stamp.energy / 1000 else a.stamp.energy
  | 0x2A03 => sat32 a.resets
  | 0x2A04 => a.resetCause
  | 0x2C01 => amGet s.crest.base p 0
  | 0x2C02 => amGet s.crest.count p 0
  | 0x2C03 => sat32 a.hangs
  | 0x2C04 => sat32 a.counterFaults
  | 0x2C05 => a.lastHang.toNat
  | 0x2C06 =>
    (if a.hostOps.any (fun o => o.kind == 0) then 1 else 0) + (if a.hostOps.any (fun o => o.kind == 1) then 2 else 0) +
    (if a.hostOps.any (fun o => o.kind == 2) then 4 else 0) + (if a.frozen then 8 else 0)
  | 0x2D01 => (a.current.map Current.number).getD 0
  | 0x2D02 => a.queue.length
  | 0x2D03 => a.resident.length
  | 0x2D04 => a.lastRefusal.toNat
  | 0x2D10 => match a.cadence with | none => 0 | some c => if c.started then 2 else 1
  | 0x2D11 => a.framePeriod
  | 0x2D13 => sat32 a.framesRun
  | 0x2D14 => sat32 a.framesLate
  | 0x2D15 => sat32 a.framesDropped
  | 0x2E02 => a.served
  | 0x2E03 => sat32 a.refusedOps
  | _ => setting s index (p + 1)

/-- A numeric entry of a field. -/
def fieldNum (s : State) (index f : Nat) : Nat :=
  let c := getClk s f
  let w := getFld s f
  match index with
  | 0x2111 => c.measured
  | 0x2112 => fcCode c.st
  | 0x2113 => sat32 c.droops
  | 0x2B10 => countSites s (1440 - testSpares s.ident.grade f) stServed (fun k => fieldOf k == f)
  | 0x2B11 => countSites s (testSpares s.ident.grade f) (· == .spare) (fun k => fieldOf k == f)
  | 0x2B12 => sat32 w.corrected
  | 0x3000 => w.watts
  | 0x3001 => w.millivolts
  | 0x3002 => unsigned 32 w.temp
  | 0x3003 => w.tSteps
  | 0x3004 => w.eSteps
  | 0x3005 => w.energy
  | 0x3006 => w.failedSensors
  | 0x3007 => sat32 w.stepsAdded
  | _ => setting s index (f + 1)

/-- A numeric entry of an edge port. -/
def portNum (s : State) (index i : Nat) : Nat :=
  let q := amGet s.fabric.ports i {}
  match index with
  | 0x2611 => portCode q.st
  | 0x2613 => q.peer.toNat
  | 0x2614 => q.delay
  | 0x2615 => sat32 q.replays
  | 0x2616 => sat32 q.downs
  | 0x2617 => sat32 q.escapes
  | _ => setting s index (i + 1)

/-- The Assay mirror of the active controller (R364). -/
def mirrorNum (m : Mirror) (sub : Nat) : Nat :=
  match sub with
  | 1 => m.serial.toNat
  | 2 => m.checksum.toNat
  | 3 => m.status.toNat
  | 4 => m.energy
  | 5 => m.millivolts
  | 6 => m.milliamps
  | 7 => m.tenthWatts
  | 8 => m.logUsed
  | 9 => m.counter.toNat
  | 10 => sat32 m.bad
  | 11 => sat32 m.missed
  | _ => m.link

/-- A numeric object that belongs to no partition, field or port. -/
def wholeNum (s : State) (index sub : Nat) : Nat :=
  match index, sub with
  | 0x1000, _ => 0
  | 0x1018, 1 => 0xC4B
  | 0x1018, 2 => 0x5A570038
  | 0x1018, 3 => s.ident.revision.toNat
  | 0x1018, _ => s.ident.serial.toNat % 2 ^ 32
  | 0x2000, 2 => s.ident.serial.toNat
  | 0x2000, 3 => s.ident.grade
  | 0x2000, 4 => servedCount s
  | 0x2000, _ => s.ident.good
  | 0x2100, 1 => refCode s.time.ref
  | 0x2100, 2 => s.time.tod.toNat
  | 0x2100, 6 => readyFlags s
  | 0x2100, 9 => sat32 s.time.badFrames
  | 0x2100, 10 => s.time.ppsOffset.toNat
  | 0x2200, 1 => s.power.volts
  | 0x2200, 2 => s.power.average
  | 0x2200, 3 => drawLimit s
  | 0x2200, 4 => budgetState s
  | 0x2200, 5 => s.power.allowance / 1000
  | 0x2200, 10 => s.power.house
  | 0x2200, 11 => runningK s
  | 0x2200, 12 => s.power.faults.toNat
  | 0x2200, 13 => s.power.standbyWatts
  | 0x2200, 14 => s.power.busMv
  | 0x2300, 3 => unsigned 32 s.power.inlet
  | 0x2300, 4 => unsigned 32 s.power.outlet
  | 0x2300, 5 => s.power.flow
  | 0x2300, 6 => s.power.coolantS
  | 0x2400, 3 => s.parts.length
  | 0x2500, 3 => s.sec.nonce.toNat
  | 0x2500, 9 => s.power.channel
  | 0x2500, 17 => s.sec.status.toNat
  | 0x2500, 18 => sessionLeft s
  | 0x2520, _ => ((amFind s.sec.slots (sub - 1)).map slotWord).getD 0
  | 0x2521, _ => amGet s.sec.highest (sub - 1) 0
  | 0x2600, 9 => (s.fabric.ports.map (fun e => e.2.outstanding)).sum
  | 0x2600, 10 => reorderUse s
  | 0x2700, 1 => s.events.queue.length
  | 0x2700, 2 => (s.events.queue.head?.map (fun r => r.seq.toNat)).getD 0
  | 0x2700, 3 => s.events.newest.toNat
  | 0x2700, 7 => sat32 s.events.lost
  | 0x2720, 1 => ownerCode s.lease.owner
  | 0x2720, 2 => s.lease.epoch.toNat
  | 0x2720, 5 => ownerCode (some s.ident.strap)
  | 0x2720, 6 => standbyCode s.lease.standby
  | 0x2731, 3 => s.pilot.sleep
  | 0x2731, 4 => s.pilot.wakeCause
  | 0x2800, _ => mirrorNum (getCtl (activeCtl s) s).mirror sub
  | 0x2801, 1 => sat32 s.ledger.seconds
  | 0x2801, 2 => s.ledger.total
  | 0x2801, 3 => s.ledger.house
  | 0x2801, 4 => s.ledger.unapportioned
  | 0x2801, _ => s.ledger.last
  | 0x2900, 1 => s.settings.generation
  | 0x2900, 2 => s.settings.copyState
  | 0x2900, 3 => if s.settings.saving then 1 else if s.settings.failed then 2 else 0
  | 0x2900, 5 => s.settings.migration.length
  | 0x2910, _ => ctlObj s.cope sub
  | 0x2911, _ => ctlObj s.drag sub
  | 0x2920, 1 => s.settings.target
  | 0x2920, 2 => s.settings.offset
  | 0x2920, 4 => s.settings.imageState
  | 0x2920, 7 => trialLeft s
  | 0x2A00, 1 => s.pilot.step
  | 0x2A00, 2 => s.pilot.duration
  | 0x2A00, 3 => s.pilot.waferCause
  | 0x2A00, 4 => sat32 s.pilot.waferResets
  | 0x2A01, 1 => s.pilot.lossTime.toNat
  | 0x2A01, 2 => s.pilot.lossScope
  | 0x2A01, 3 => s.pilot.lossFailed
  | 0x2A01, 4 => s.pilot.lossAbandoned
  | 0x2A01, 5 => s.pilot.lossCounters
  | 0x2A01, 6 => s.pilot.lossEnergy
  | 0x2A01, 7 => s.pilot.lossDuration
  | 0x2A12, 1 => s.test.st
  | 0x2A12, 2 => s.test.code
  | 0x2A12, 3 => s.test.echo.toNat
  | 0x2A12, 4 => sat32 s.test.failures
  | 0x2A12, 5 => s.test.first.toNat
  | 0x2B00, 1 => servedCount s
  | 0x2B00, 2 => countSites s (80640 - s.ident.grade) (· == .spare) (fun _ => true)
  | 0x2B00, 3 => countSites s 0 (· == .absentAtTest) (fun _ => true)
  | 0x2B00, 4 => countSites s 0 (fun t => t == .retiredCovered || t == .retiredUncovered) (fun _ => true)
  | 0x2B00, 9 => s.mesh.routingGen
  | 0x2B00, 10 => if s.mesh.routingReady then 1 else 0
  | 0x2C00, 3 => 2048 - (s.crest.count.map Prod.snd).sum
  | 0x2E00, 1 => s.fabric.spanGen
  | 0x2E10, _ => sat32 (amGet s.fabric.misses (sub - 1) 0)
  | 0x2F00, 4 => s.crest.aggStatus
  | 0x2F00, 5 => s.crest.aggSection
  | 0x2F00, 6 => s.crest.aggSums.flushIn
  | 0x2F00, 7 => s.crest.aggSums.flushOut
  | 0x2F00, 8 => s.crest.aggSums.saturated
  | 0x2F00, 9 => s.crest.aggSums.nanIn
  | 0x2F00, 10 => s.crest.aggSums.invalid
  | 0x2F00, 11 => s.crest.aggStopped
  | 0x4002, _ => if (amGet s.pilot.pins (sub - 1) {}).level then 1 else 0
  | _, _ => setting s index sub

/-- The owner bytes of 0x2400:04 (R391). -/
def ownerBytes (s : State) : List Byte :=
  (List.range 56).map (fun f =>
    match (getFld s f).owner with
    | .held p => BitVec.ofNat 8 p
    | .scrubbing => 0xFE
    | .idle => 0xFF)

/-- A string object (R12). -/
def octets (s : State) (index sub : Nat) : List Byte :=
  match index, sub with
  | 0x1008, _ => strBytes "Zoroon ZW56" 16
  | 0x1009, _ => slice s.ident.hwVersion 0 8
  | 0x100A, _ => slice (digits (runningVersion (getCtl (activeCtl s) s))) 0 16
  | 0x2000, _ => strBytes (partNumber s.ident.grade) 12
  | 0x2400, _ => ownerBytes s
  | 0x2500, 5 => List.replicate 64 0
  | 0x2500, 6 => match s.sec.secret with
    | some x => hkdf x [] (strBytes "ZW56 fingerprint" 16) 8
    | none => List.replicate 8 0
  | 0x2500, 7 => x25519 s.ident.deviceKey (9 :: List.replicate 31 0)
  | 0x2510, 1 => s.sec.opKey.getD (List.replicate 32 0)
  | 0x2510, 2 => s.sec.metKey.getD (List.replicate 32 0)
  | 0x2510, 3 => slice s.ident.vendorKey 0 32
  | 0x2510, 4 => s.sec.svcKey.getD (List.replicate 32 0)
  | 0x2700, _ => match recordsFrom s.events.queue (BitVec.ofNat 32 (setting s 0x2700 4)) with
    | r :: _ => recBytes r
    | [] => List.replicate 32 0
  | 0x2731, _ => bitBytes 32 s.pilot.wakeFired
  | 0x2900, _ =>
    slice (s.settings.migration.flatMap (fun m =>
      [BitVec.ofNat 8 (m.1 / 65536), BitVec.ofNat 8 (m.1 / 256), BitVec.ofNat 8 m.1, BitVec.ofNat 8 m.2])) 0 1024
  | 0x2B13, _ => fieldStates s (sub - 1)
  | _, _ => fieldAssigns s (sub - 1)

/-- The numeric value of an object. -/
def objNum (s : State) (tenant : Bool) (o : Obj) (sub : Nat) : Nat :=
  match o.ent with
  | .part => match getPart s (sub - 1) with
    | some a => partNum s tenant o.index (sub - 1) a
    | none => setting s o.index sub
  | .field => fieldNum s o.index (sub - 1)
  | .port => portNum s o.index (sub - 1)
  | _ => wholeNum s o.index sub

/-- The bytes that a read of an object returns (R398). -/
def objBytes (s : State) (tenant : Bool) (o : Obj) (sub : Nat) : List Byte :=
  if o.ty ≥ 8 then octets s o.index sub else leBytes o.len (objNum s tenant o sub)

/-! ## Plain writes -/

/-- A value without the reserved bits of its object, which read as zero and have no effect (R11, R206, R391, R392, R446). -/
def keptBits (index sub v : Nat) : Nat :=
  match index, sub with
  | 0x2400, 1 => v / 4096 * 4096
  | 0x2500, 8 => v / 2 ^ 48 * 2 ^ 48 + v % 2 ^ 32
  | 0x2A10, _ => v / 256 * 256
  | 0x2B00, 5 => v / 16384 * 16384
  | _, _ => v

/-- Writes a value to its home, with no effect beyond the object's own value. -/
def putNum (index sub v : Nat) (s : State) : State :=
  match index with
  | 0x2210 => modPart (sub - 1) (fun a => { a with reservation := v }) s
  | 0x2211 => modPart (sub - 1) (fun a => { a with weight := v }) s
  | 0x2403 => modPart (sub - 1) (fun a => { a with role := v }) s
  | 0x2C01 => { s with crest := { s.crest with base := amSet s.crest.base (sub - 1) v } }
  | 0x2C02 => { s with crest := { s.crest with count := amSet s.crest.count (sub - 1) v } }
  | 0x2920 => { s with settings := { s.settings with target := v } }
  | _ => setReg (index * 256 + sub) (keptBits index sub v) s

/-- Writes a key object (R392); the other string objects that can be written have effects of their own. -/
def putOctets (index sub : Nat) (v : List Byte) (s : State) : State :=
  match index, sub with
  | 0x2510, 1 => { s with sec := { s.sec with opKey := some v } }
  | 0x2510, 2 => { s with sec := { s.sec with metKey := some v } }
  | 0x2510, 4 => { s with sec := { s.sec with svcKey := some v } }
  | _, _ => s

end Sys2Proof.Machine
end

