-- ==== Sys2Proof/Machine/Settings.lean ====
section
/-!
DEFINITION. The settings store: what it holds, when it is saved, and what a boot restores from it (R422 to R426).
-/

namespace Sys2Proof.Machine

/-- Objects that are written and not stored (R422). -/
def notStored : List (Nat × Nat) :=
  [(0x2400, 1), (0x2400, 2), (0x2500, 5), (0x2500, 8), (0x2500, 16), (0x2500, 18), (0x2B00, 5), (0x2F00, 3), (0x2700, 4),
   (0x2700, 6), (0x2720, 4), (0x2731, 1), (0x2731, 2)]

/-- The store holds an object's value: it is RW or RWP and not excepted, or it is part of the partition set or of the site
states and assignments (R422). -/
def isStored (o : Obj) (sub : Nat) : Bool :=
  ((o.acc == .rw || o.acc == .rwp) && !notStored.contains (o.index, sub) && o.index != 0x2920) ||
  [0x2401, 0x2402, 0x2B13, 0x2B14].contains o.index

/-- The subindexes of an object whose entries exist now: those of partitions that exist, and all others (R422). -/
def liveSubs (s : State) (o : Obj) : List Nat :=
  ((List.range (o.last + 1)).filter (fun n => o.first ≤ n)).filter (fun n =>
    o.ent != .part || ((getPart s (n - 1)).map (fun a => !((a.reset.map PReset.deleting).getD false))).getD false)

/-- Every record that a save writes for the values of the moment: a record that the firmware cannot read stands for its object, and is
carried with those of unknown objects (R422, R423, R426). -/
def storedRecords (s : State) : List SetRec :=
  s.settings.boot ++
  allObjs.flatMap (fun o =>
    ((liveSubs s o).filter (isStored o)).filterMap (fun n =>
      let key := o.index * 256 + n
      if (s.settings.boot ++ s.settings.carried).any (fun r => r.key == key) then none else some ⟨key, o.ty, objBytes s false o n⟩)) ++
  s.settings.carried

/-- The bytes of a record (R423). -/
def setRecBytes (r : SetRec) : List Byte :=
  leBytes 2 (r.key / 256) ++ [BitVec.ofNat 8 r.key, BitVec.ofNat 8 r.ty] ++ leBytes 2 r.value.length ++ [0, 0] ++ r.value ++
  List.replicate ((8 - r.value.length % 8) % 8) 0

/-- The bytes of a copy of the settings store, its CRC-32C over the copy with that field taken as zero (R423). -/
def copyBytes (c : SetCopy) : List Byte :=
  let rs := c.records.flatMap setRecBytes
  let a := leBytes 4 0x5A575345 ++ leBytes 2 1 ++ [0, 0] ++ leBytes 8 c.generation ++ leBytes 4 (32 + rs.length) ++ leBytes 4 c.version
  let b := leBytes 4 c.records.length ++ rs
  a ++ leBytes 4 (crc32c (a ++ [0, 0, 0, 0] ++ b)) ++ b

/-- A stored value has changed: a save starts, or the next one will hold it (R424). -/
def noteChange (s : State) : State :=
  if s.settings.saving then { s with settings := { s.settings with dirty := true } }
  else { s with settings := { s.settings with saving := true, snapshot := storedRecords s } }

/-- The copy that the running save writes (R423, R424). -/
def savedCopy (s : State) : SetCopy :=
  { valid := true, generation := s.settings.generation + 1, version := runningVersion (getCtl (activeCtl s) s)
    records := s.settings.snapshot }

/-- What a module reset leaves of the two copies: a save that it cuts has written copy 0 before copy 1, and one that is half written is
not valid; how far the save has come is a free value (R424, R430; log 146). -/
def cutCopies (s : State) : SetCopy × SetCopy :=
  let v := s.settings
  if !v.saving then (v.copy0, v.copy1)
  else
    match Config.saveCut s.freeCount with
    | 1 => ({ v.copy0 with valid := false }, v.copy1)
    | 2 => (savedCopy s, v.copy1)
    | 3 => (savedCopy s, { v.copy1 with valid := false })
    | _ => (v.copy0, v.copy1)

/-- A save has ended. A good one has written both copies with generation g + 1; another starts if changes wait (R424). -/
def endSave (good : Bool) (s : State) : State :=
  if !s.settings.saving then s
  else
    let v := s.settings
    let copy := savedCopy s
    let s :=
      if good then
        { s with settings := { v with copy0 := copy, copy1 := copy, generation := copy.generation, saving := false, failed := false, dirty := false
                                      snapshot := [] } }
      else
        raise (evCtl 0x38E 1 (activeCtl s) 0)
          { s with settings := { v with saving := false, failed := true, dirty := false, snapshot := [] } }
    if v.dirty then noteChange s else s

/-- The copy that a boot uses, if any is valid: the higher generation, copy 0 among equals (R425). -/
def usedCopy (s : State) : Option SetCopy :=
  let a := s.settings.copy0
  let b := s.settings.copy1
  if a.valid && b.valid then some (if a.generation < b.generation then b else a)
  else if a.valid then some a
  else if b.valid then some b
  else none

/-- A number lies in an object's range (R396, R426). -/
def inRange (s : State) (o : Obj) (sub v : Nat) : Bool :=
  ((o.lo ≤ v && v ≤ o.hi) || o.also == some v) &&
  (match o.index, sub with
   | 0x2100, 7 => bitsOf v 3 0 ≤ 2 && bitsOf v 5 4 ≤ 2
   | 0x2200, 8 => v ≤ setting s 0x2200 7
   | 0x2D22, _ => v % 4 == 0 && v < 2097152
   | 0x4003, _ => v ≤ 1 || (0x80 ≤ v && v < 0x80 + 56)
   | _, _ => true)

/-- A record that waits for its power-up step, as a number. -/
def bootNum (s : State) (index sub : Nat) : Option Nat :=
  (s.settings.boot.find? (fun r => r.key == index * 256 + sub)).map (fun r => leNat r.value)

/-- A restored wafer-crest range lies in the wafer crest's counters, and overlaps none restored before it (R237, R426). -/
def bootRangeOk (s : State) (sub n : Nat) : Bool :=
  let b := (bootNum s 0x2C01 sub).getD 0
  14336 ≤ b && b + n ≤ 16384 && (List.range 56).all (fun p =>
    let c := (bootNum s 0x2C01 (p + 1)).getD 0
    let m := (bootNum s 0x2C02 (p + 1)).getD 0
    p + 1 == sub || m == 0 || b + n ≤ c || c + m ≤ b)

/-- The owning chapter's rules that a restored value can break (R426): a release threshold at or above the throttle
threshold, a second pulse-per-second pin, a control bus above 1.25 GHz, a sample ring beyond the overlay, a wafer-crest range outside
its counters or on another. -/
def restoreRule (s : State) (index sub v : Nat) : Bool :=
  match index with
  | 0x2300 => sub != 2 || v < setting s 0x2300 1
  | 0x2100 => sub != 7 || v % 16 == 0 || setting s 0x2100 (3 + v % 16) ≤ 8 * 2 ^ bitsOf v 5 4
  | 0x2D23 => (bootNum s 0x2D22 sub).getD 0 + 4 * v ≤ 2097152
  | 0x2C02 => v == 0 || bootRangeOk s sub v
  | 0x4000 => v != 3 || !(List.range 8).any (fun i => i + 1 != sub && setting s 0x4000 (i + 1) == 3)
  | _ => true

/-- Restores one record (R426): an unknown object's is carried; an unreadable one is carried and listed; those of partitions
and sites wait for their power-up step (R428). -/
def restoreRec (s : State) (r : SetRec) : State :=
  let index := r.key / 256
  let sub := r.key % 256
  let carry := fun (why : Nat) (s : State) =>
    { s with settings := { s.settings with carried := s.settings.carried ++ [r]
                                           migration := s.settings.migration ++ [(r.key, why)] } }
  match findObj index sub with
  | none => { s with settings := { s.settings with carried := s.settings.carried ++ [r] } }
  | some o =>
    if r.ty ≠ o.ty then carry 1 s
    else if r.value.length ≠ o.len then carry 2 s
    else if o.ty < 8 ∧ o.acc ≠ .ro ∧ !inRange s o sub (leNat r.value) then carry 3 s
    else if o.ty < 8 ∧ !restoreRule s index sub (leNat r.value) then carry 4 s
    else if o.ent = .part ∨ o.index = 0x2B13 ∨ o.index = 0x2B14 then
      { s with settings := { s.settings with boot := s.settings.boot ++ [r] } }
    else if o.ty ≥ 8 then (if r.value.all (· == 0) then s else putOctets index sub r.value s)
    else putNum index sub (leNat r.value) s

/-- The active controller reads both copies at boot and restores the settings (R425, R426). -/
def restoreSettings (s : State) : State :=
  let a := s.settings.copy0
  let b := s.settings.copy1
  let c := activeCtl s
  let st := (if a.valid then 1 else 0) + (if b.valid then 2 else 0) + (if a.valid && b.valid && copyBytes a != copyBytes b then 4 else 0)
  let s := { s with settings := { s.settings with copyState := st, carried := [], migration := [], boot := [] } }
  match usedCopy s with
  | none => raise (evCtl 0x38C 1 c 0) s
  | some u =>
    let s := { s with settings := { s.settings with generation := u.generation } }
    let s := if !(a.valid && b.valid) then raise (evCtl 0x38B 1 c 0) s
             else if copyBytes a != copyBytes b then raise (evCtl 0x38A 1 c u.generation) s else s
    let s := u.records.foldl restoreRec s
    if s.settings.migration.isEmpty then s else raise (evCtl 0x38D 0 c s.settings.migration.length) s

/-- A write of an object replaces the record that was carried for it (R426). -/
def dropCarried (key : Nat) (s : State) : State :=
  { s with settings := { s.settings with carried := s.settings.carried.filter (fun r => r.key != key) } }

/-- The defect-map step applies the stored site states and assignments (R193, R428). -/
def applySites (s : State) : State :=
  let st := fun (r : SetRec) (s : State) =>
    let f := r.key % 256 - 1
    (List.range 1440).foldl (fun s p =>
      let v := fieldAt r.value (p / 2) 1 / (if p % 2 = 0 then 1 else 16) % 16
      let k := siteAt f p
      let t : SiteState := match v with
        | 0 => .enabled | 1 => .spare | 2 => .spareAssigned | 3 => .absentAtTest | 4 => .retiredCovered | _ => .retiredUncovered
      if t = testState s.ident.grade k then s else { s with mesh := { s.mesh with sites := amSet s.mesh.sites k t } }) s
  let cv := fun (r : SetRec) (s : State) =>
    let f := r.key % 256 - 1
    (List.range 1440).foldl (fun s p =>
      let v := fieldAt r.value (2 * p) 2
      if v < 1440 ∧ siteState s (siteAt f p) = .retiredCovered then
        { s with mesh := { s.mesh with cover := amSet s.mesh.cover (siteAt f p) (siteAt f v) } }
      else s) s
  let s := (s.settings.boot.filter (fun r => r.key / 256 == 0x2B13)).foldl (fun s r => st r s) s
  let s := (s.settings.boot.filter (fun r => r.key / 256 == 0x2B14)).foldl (fun s r => cv r s) s
  { s with settings := { s.settings with boot := s.settings.boot.filter (fun r => r.key / 256 != 0x2B13 && r.key / 256 != 0x2B14) } }

end Sys2Proof.Machine
end

