-- ==== Sys2Proof/Machine/Span.lean ====
section
/-!
DEFINITION. The span map and the translation caches of the ring switch (R277 to R281), and the retirement of a tile, which
changes both the map and the routes (R187 to R193).
-/

namespace Sys2Proof.Machine

/-! ## The span map (R277, R280) -/

/-- The generation of a position's entry: that of a change of its own, or its place in its field's last change (R277). -/
def spanGenOf (s : State) (pos : Nat) : Nat :=
  match amFind s.fabric.spanOver pos with
  | some g => g.toNat
  | none => (getFld s (fieldOf pos)).spanGen + inField pos

/-- The span-map entry of a position, from the partition objects and the defect map (R277). -/
def spanEntry (s : State) (pos : Nat) : Word64 :=
  let f := getFld s (fieldOf pos)
  let p := holder s (fieldOf pos)
  match p.bind (getPart s) with
  | some a =>
    let k := (amFind s.fabric.spanKept pos).getD (physical s pos)
    let valid := f.spanValid && (served s pos || (amFind s.fabric.spanKept pos).isSome)
    BitVec.ofNat 64
      ((if valid then 2 ^ 63 else 0) + (if setting s 0x2E01 (p.getD 0 + 1) = 0 then 0 else 2 ^ 62) + a.domain * 2 ^ 56 +
       p.getD 0 * 2 ^ 50 + siteX k * 2 ^ 41 + siteY k * 2 ^ 32 + spanGenOf s pos % 2 ^ 32)
  | none => BitVec.ofNat 64 (spanGenOf s pos % 2 ^ 32)

/-- Every position of some fields changes in the map: each takes the next generation, and is invalidated in all 68 caches
(R280, R371); each change is recorded with event 0x286 (R294). -/
def spanFields (fs : List Nat) (valid : Bool) (s : State) : State :=
  fs.foldl (fun s f =>
    let g := s.fabric.spanGen
    let s := modFld f (fun x => { x with spanGen := g + 1, spanValid := valid }) s
    let s := { s with fabric := { s.fabric with spanGen := g + 1440
                                                spanOver := s.fabric.spanOver.filter (fun e => fieldOf e.1 != f)
                                                spanKept := s.fabric.spanKept.filter (fun e => fieldOf e.1 != f)
                                                invalidating := s.fabric.invalidating ++ [f] } }
    raiseAll ((List.range 1440).map (fun i =>
      let k := siteAt f i
      { evCtl 0x286 0 (activeCtl s) (g + 1 + i) with x := siteX k, y := siteY k })) s) s

/-- One position changes in the map (R280, R193). -/
def spanPosition (pos : Nat) (s : State) : State :=
  let g := s.fabric.spanGen + 1
  raise { evCtl 0x286 0 (activeCtl s) g with x := siteX pos, y := siteY pos }
    { s with fabric := { s.fabric with spanGen := g, spanOver := amSet s.fabric.spanOver pos (BitVec.ofNat 64 g)
                                       spanKept := amDel s.fabric.spanKept pos
                                       invalPos := s.fabric.invalPos ++ [pos] } }

/-- Every cache has acknowledged the invalidations (R280). -/
def invalidateDone (s : State) : State :=
  let gone := fun (e : CacheEntry) => s.fabric.invalPos.contains e.pos || s.fabric.invalidating.contains (fieldOf e.pos)
  { s with fabric := { s.fabric with caches := s.fabric.caches.map (fun c => (c.1, c.2.filter (fun e => !gone e)))
                                     invalidating := [], invalPos := [] } }

/-! ## Translation caches (R278, R279) -/

/-- The cached entry of a position. -/
def cached (s : State) (cache pos : Nat) : Option CacheEntry :=
  (amGet s.fabric.caches cache []).find? (fun e => e.pos == pos)

/-- Changes a cache. -/
def modCache (cache : Nat) (g : List CacheEntry → List CacheEntry) (s : State) : State :=
  { s with fabric := { s.fabric with caches := amMod s.fabric.caches cache [] g } }

/-- A hit sets the age to 0 (R279). -/
def cacheHit (cache pos : Nat) (s : State) : State :=
  modCache cache (fun es => es.map (fun e => if e.pos = pos then { e with age := 0, hitAt := some s.time.refCycles } else e)) s

/-- The lowest slot that no entry uses. -/
def freeSlot (es : List CacheEntry) : Option Nat := (List.range 1024).find? (fun n => !es.any (fun e => e.slot == n))

/-- The entry that a fill of a full cache replaces: the highest age, among equal ages the lowest slot (R278). -/
def oldestSlot (es : List CacheEntry) : Nat :=
  (es.foldl (fun (b : Nat × Nat) e => if e.age > b.2 ∨ (e.age = b.2 ∧ e.slot < b.1) then (e.slot, e.age) else b) (1024, 0)).1

/-- A span-map entry fills a cache at age 0 (R278, R279). -/
def cacheFill (cache pos : Nat) (entry : Word64) (s : State) : State :=
  modCache cache (fun es =>
    match es.find? (fun e => e.pos == pos) with
    | some old => es.map (fun e => if e.slot = old.slot then { e with entry := entry, age := 0, hitAt := none } else e)
    | none =>
      match freeSlot es with
      | some n => es ++ [⟨n, pos, entry, 0, none⟩]
      | none => let n := oldestSlot es; es.map (fun e => if e.slot = n then ⟨n, pos, entry, 0, none⟩ else e)) s

/-- An age tick (R279): entries of age 3 age out, and the others' ages rise by 1. An entry hit in the same cycle stays, with age 0
(DESIGN CHOICE: the cycle is the reference cycle, log 144). -/
def ageCaches (s : State) : State :=
  let hit := fun (e : CacheEntry) => e.hitAt == some s.time.refCycles
  { s with fabric := { s.fabric with caches := s.fabric.caches.map (fun c =>
      (c.1, (c.2.filter (fun e => e.age < 3 || hit e)).map (fun e => { e with age := if hit e then 0 else e.age + 1, hitAt := none }))) } }

/-! ## Routes and retirement (R187 to R193) -/

/-- ROUTE messages leave the active controller for every router whose detour entries differ from the defect map's (R187,
R188, R193). -/
def sendRoutes (s : State) : State :=
  let near := ((absentSites s).flatMap (fun k => (List.range 4).filterMap (neighbour k))).eraseDups
  let have' := (s.tiles.filter (fun e => !e.2.detours.isEmpty)).map Prod.fst
  ((near ++ have').eraseDups.filter (fun k => !siteAbsent s k)).foldl (fun s k =>
    let es := detourEntries (siteAbsent s) k
    if es = (getTile s k).detours then s
    else
      send ⟨⟨⟨ringXY, ringXY, 0⟩, ⟨siteX k, siteY k, 3⟩, 0, 0, 0⟩, true, 9,
        es.flatMap (fun e => [BitVec.ofNat 8 e.1, BitVec.ofNat 8 e.2])⟩ s) s

/-- What a tile is while it is not yet configured. -/
def blankTile : Tile := {}

/-- Takes a site out: its own state, the spare that takes its position over, and the stores of both (R191, R193). The
answer tells whether a spare was found. An unassigned spare serves no position, so none replaces it: it ends retired and
not covered (R5, R25). The span map changes only where a spare is assigned; a position left unserved keeps its entry (R280). -/
def replaceSite (k : Nat) (s : State) : Bool × State :=
  let pos := positionOf s k
  let sp := if siteState s k = .spare then none else nearestSpare s k
  let old := physical s pos
  let own : SiteState := if pos = k then (if sp.isSome then .retiredCovered else .retiredUncovered) else .retiredUncovered
  let sites := amSet s.mesh.sites k own
  let (sites, cover) :=
    match sp with
    | some n => (amSet sites n .spareAssigned, amSet s.mesh.cover pos n)
    | none => (if pos = k then sites else amSet sites pos .retiredUncovered, amDel s.mesh.cover pos)
  let s := { s with mesh := { s.mesh with sites := sites, cover := cover, pendingRet := s.mesh.pendingRet.erase k } }
  let s := { s with tiles := amDel (match sp with | some n => amDel s.tiles n | none => s.tiles) k }
  let s := zeroSites (fun j => j == k || some j == sp) s
  let s := if (holder s (fieldOf pos)).isNone then s
    else if sp.isSome then spanPosition pos s
    else { s with fabric := { s.fabric with spanKept := amSet s.fabric.spanKept pos old } }
  (sp.isSome, s)

/-- Marks further sites absent until every cluster's routes end without a cycle; each is retired with event 0x119 (R187). -/
def settleRoutes : Nat → Nat → State → State
  | 0, _, s => s
  | n + 1, k, s =>
    if clusterOk (siteAbsent s) (clusterAt s k) then s
    else
      match markNext s k with
      | none => s
      | some m =>
        let s := raise (evCell s 0x119 1 ⟨siteX m, siteY m, 3⟩ 0) s
        settleRoutes n k (replaceSite m s).2

/-- No ROUTE message is on its way: every router holds the entries of the last rebuild (R188). -/
def routesLanded (s : State) : Bool := !(inMesh s).any (fun m => m.control && m.kind == 9)

/-- New detour entries are computed, verified and sent; the routing generation counts up (R187, R193). The attachments take effect
with the entries (R245). -/
def rebuildRoutes (k : Nat) (s : State) : State :=
  let s := sendRoutes (settleRoutes 81 k s)
  let s := if routesLanded s then latchEdges s else s
  raise (evCtl 0x11A 0 (activeCtl s) (s.mesh.routingGen + 1))
    { s with mesh := { s.mesh with routingGen := s.mesh.routingGen + 1 } }

/-- Retires a tile now (R191, R193). -/
def retireNow (k : Nat) (s : State) : State :=
  let ev := evCell s 0 0 ⟨siteX k, siteY k, 3⟩ 0
  let (covered, s) := replaceSite k s
  let s := rebuildRoutes k s
  noteChange (raise (if covered then { ev with code := 0x117 } else { ev with code := 0x118, kind := 1 }) s)

/-- The partition that holds a site has an open job (R192). -/
def siteBusy (s : State) (k : Nat) : Bool :=
  match (siteHolder s k).bind (getPart s) with
  | some a => a.job.isSome
  | none => false

/-- A tile is to be retired: at once, or, while its partition holds an open job, pending with event 0x116 (R191, R192). -/
def retire (k : Nat) (s : State) : State :=
  if siteAbsent s k ∨ s.mesh.pendingRet.contains k then s
  else if siteBusy s k then
    raise (evCell s 0x116 0 ⟨siteX k, siteY k, 3⟩ 0) { s with mesh := { s.mesh with pendingRet := s.mesh.pendingRet ++ [k] } }
  else retireNow k s

/-- An uncorrectable error of a tile's stores or links counts toward its retirement: at the threshold within 24 hours the
tile is retired (R191, R206). -/
def noteUncorrected (k : Nat) (s : State) : State :=
  let recent := ((getTile s k).uncorrected ++ [now s]).filter (fun t => now s < t + 24 * 3600 * secT)
  let s := modTile k (fun t => { t with uncorrected := recent }) s
  if recent.length ≥ setting s 0x2B00 7 then retire k s else s

end Sys2Proof.Machine
end

