-- ==== Sys2Proof/Machine/Sync.lean ====
section
/-!
DEFINITION. Sync counters, watches, and the crest tree of global operations (R217 to R236).
-/

namespace Sys2Proof.Machine

/-! ## Counters (R217 to R222) -/

/-- A sync counter; a counter in no table starts at p = c = 0 with B = 65,535 (R221). -/
def getCtr (s : State) (key : CtrKey) : Counter :=
  match key with
  | .tile k i => amGet (getTile s k).counters i {}
  | .crest i => amGet s.crest.counters i {}

/-- Replaces a sync counter. -/
def setCtr (key : CtrKey) (v : Counter) (s : State) : State :=
  match key with
  | .tile k i => modTile k (fun t => { t with counters := amSet t.counters i v }) s
  | .crest i => { s with crest := { s.crest with counters := amSet s.crest.counters i v } }

/-- The partition that owns a crest counter: the holder of its field, or the partition whose wafer-crest range holds the
index (R217, R237). -/
def crestOwner (s : State) (i : Nat) : Option Nat :=
  if i < 14336 then holder s (i / 256)
  else
    (s.parts.find? (fun e =>
      let b := amGet s.crest.base e.1 0
      b ≤ i && i < b + amGet s.crest.count e.1 0)).map Prod.fst

/-- The partition that owns a counter (R217). -/
def ctrOwner (s : State) (key : CtrKey) : Option Nat :=
  match key with
  | .tile k i => if i < 8 ∧ siteWorks s k then siteHolder s k else none
  | .crest i => crestOwner s i

/-- The cell or crest unit that holds a counter (R217, R181). -/
def ctrHolder (key : CtrKey) : CellRef :=
  match key with
  | .tile k _ => ⟨siteX k, siteY k, 3⟩
  | .crest i => ⟨ringXY, if i < 14336 then i / 256 else ringXY, 0⟩

/-- A request about a counter, which names its holder (R236, R409). -/
def evCtr (s : State) (code kind : Nat) (key : CtrKey) (detail : Nat) : EvReq :=
  match key with
  | .tile k _ => evCell s code kind ⟨siteX k, siteY k, 3⟩ detail
  | .crest i =>
    if i < 14336 then evField s code kind (i / 256) detail
    else
      let p := crestOwner s i
      { evWafer code kind detail with part := p.getD 0xFF, domain := ((p.bind (getPart s)).map Part.domain).getD 0x80 }

/-- d of a counter (R218). -/
def ctrDiff (v : Counter) : Nat := (v.p - v.c).toNat

/-- The comparison "count ≥ v" (R218). -/
def countGe (count v : Count48) : Bool := (count - v).toNat < 2 ^ 47

/-- What a counter operation does to a counter: ACK status, event with its detail, and the counter after it (R219, R220).
The partition's quiescence decides INIT. -/
def ctrStep (op n : Nat) (quiet : Bool) (v : Counter) : Nat × Option (Nat × Nat × Nat) × Counter :=
  let d := ctrDiff v
  match op with
  | 1 =>
    if n = 0 then (0, none, v)
    else if d + n > v.bound.toNat then (1, some (0x180, 1, 0), v)
    else (0, none, { v with p := v.p + BitVec.ofNat 48 n })
  | 2 =>
    if n > d then (2, some (0x181, 1, 0), v)
    else (0, none, { v with c := v.c + BitVec.ofNat 48 n })
  | 4 =>
    if n = 0 ∨ n < d then (4, some (0x183, 2, 0), v)
    else (0, none, { v with bound := BitVec.ofNat 16 n })
  | 5 =>
    if !quiet then (4, some (0x183, 2, 0), v)
    else (0, if d > 0 then some (0x189, 0, d) else none, { v with p := 0, c := 0 })
  | _ => (0, none, v)

/-! ## Watches (R223 to R226) -/

/-- The condition of a watch holds (R223). -/
def watchHolds (s : State) (w : Watch) : Bool :=
  let v := getCtr s w.key
  countGe (if w.onC then v.c else v.p) w.v

/-- The head of a counter's or watch's word 2: operation, space, index (R222, R226). -/
def ctrWord2 (op : Nat) (key : CtrKey) (bit12 : Bool) (status : Nat) : Nat :=
  let (sp, i) := match key with
    | .tile _ i => (0, i)
    | .crest i => (1, i)
  op * 2 ^ 28 + sp * 2 ^ 27 + i * 2 ^ 13 + (if bit12 then 2 ^ 12 else 0) + status * 2 ^ 8

/-- A cell and target as R222 and R226 pack them. -/
def cellWord (c : CellRef) (target : Nat) : Nat := c.x * 2 ^ 23 + c.y * 2 ^ 14 + c.slot * 2 ^ 12 + target * 2 ^ 7

/-- Notifies a watch's target: a WATCH message of operation NOTIFY, or SYNC_NOTIFY to a host; status 0 fired, 1 refused
(R223, R224, R235). -/
def notifyWatch (w : Watch) (status : Nat) (s : State) : State :=
  let v := getCtr s w.key
  match w.host with
  | some (id, node) =>
    sendPkt node w.domain 0x4E
      (leBytes 4 id.toNat ++ [BitVec.ofNat 8 status, 0, 0, 0] ++ leBytes 6 v.p.toNat ++ leBytes 6 v.c.toNat) s
  | none =>
    send ⟨⟨ctrHolder w.key, w.tgtCell, w.tgtTarget, w.domain, w.tag⟩, true, 5,
      leBytes 4 (ctrWord2 3 w.key w.onC status) ++ leBytes 4 (w.v.toNat % 2 ^ 32) ++ leBytes 4 (w.v.toNat / 2 ^ 32) ++
      leBytes 4 (cellWord w.tgtCell w.tgtTarget)⟩ s

/-- Fires the watches of a counter that now hold, oldest first; each is removed (R223). -/
def fireWatches (key : CtrKey) (s : State) : State :=
  let hit := fun w : Watch => w.key == key && watchHolds s w
  let fired := s.crest.watches.filter hit
  fired.foldl (fun s w => notifyWatch w 0 s)
    { s with crest := { s.crest with watches := s.crest.watches.filter (fun w => !hit w) } }

/-- Watches that a counter's holder can keep (R223). -/
def watchRoom (key : CtrKey) : Nat :=
  match key with
  | .tile _ _ => 16
  | .crest i => if i < 14336 then 512 else 1024

/-- Registers a watch: beyond its holder's capacity it is refused with event 0x184 and a refused notification; where its
condition holds it fires at once (R223). -/
def registerWatch (w : Watch) (s : State) : State :=
  if (s.crest.watches.filter (fun a => ctrHolder a.key == ctrHolder w.key)).length ≥ watchRoom w.key then
    notifyWatch w 1 (raise (evCtr s 0x184 2 w.key 0) s)
  else if watchHolds s w then notifyWatch w 0 s
  else { s with crest := { s.crest with watches := s.crest.watches ++ [w] } }

/-- Two watches have one name: counter, notification target and tag (R226). -/
def sameWatch (a b : Watch) : Bool :=
  a.key == b.key && a.tgtCell == b.tgtCell && a.tgtTarget == b.tgtTarget && a.domain == b.domain && a.tag == b.tag &&
  a.host.isNone && b.host.isNone

/-- Removes the watch that a name names; with none there is nothing to do (R225). -/
def cancelWatch (w : Watch) (s : State) : State :=
  { s with crest := { s.crest with watches := s.crest.watches.filter (fun a => !sameWatch a w) } }

/-! ## Applying an operation -/

/-- Applies a counter operation of R219 to a counter, with its event, the fault count of 0x2C04 and its watches; the answer
is the ACK status (R219 to R221). -/
def applyCtr (op n : Nat) (key : CtrKey) (s : State) : Nat × State :=
  let own := ctrOwner s key
  let (st, ev, v) := ctrStep op n (match own with | some p => quiesced s p | none => false) (getCtr s key)
  let s := setCtr key v s
  let s := match ev with
    | some (code, kind, detail) => raise (evCtr s code kind key detail) s
    | none => s
  let s := match st, own with
    | 1, some p => modPart p (fun a => { a with counterFaults := sat32 (a.counterFaults + 1) }) s
    | 2, some p => modPart p (fun a => { a with counterFaults := sat32 (a.counterFaults + 1) }) s
    | _, _ => s
  (st, fireWatches key s)

/-- The counters of the partition that owns a counter are frozen (R231). -/
def ctrFrozen (s : State) (key : CtrKey) : Bool :=
  match (ctrOwner s key).bind (getPart s) with
  | some a => a.frozen
  | none => false

/-- A held operation is one on a counter. -/
def isCtrInstr : Instr → Bool
  | .ctrProduce .. | .ctrConsume .. | .ctrRead .. | .ctrBound .. | .ctrInit .. => true
  | .signalProduce .. | .signalConsume .. | .counterRead .. | .counterBound .. | .counterInit .. | .broadcast .. => true
  | _ => false

/-- Holds an operation that arrives in a freeze, in order; beyond 16 in one tile event 0x187 is written (R231, R236). -/
def holdCtr (key : CtrKey) (self : Instr) (s : State) : State :=
  match key with
  | .tile k _ =>
    let s := if ((getTile s k).heldOps.filter isCtrInstr).length ≥ 16 then raise (evCtr s 0x187 1 key 0) s else s
    modTile k (fun t => { t with heldOps := t.heldOps ++ [self] }) s
  | .crest _ =>
    match ctrOwner s key with
    | some p => modPart p (fun a => { a with heldCrest := a.heldCrest ++ [self] }) s
    | none => s

/-! ## The crest tree (R229 to R233) -/

/-- The body of a CREST message: words 2 to 4 (R233). -/
def crestBody (op seq : Nat) (value : Word64) : List Byte :=
  leBytes 4 (op * 2 ^ 28 + seq % 16 * 2 ^ 24) ++ leBytes 8 value.toNat

/-- Sends a CREST_RELAY to another wafer (R233, R272). -/
def relay (node domain op seq : Nat) (value : Word64) (s : State) : State :=
  sendPkt node domain 0x63 (crestBody op seq value ++ leBytes 2 0xFFFF ++ List.replicate 18 0) s

/-- The nodes of a job group: this wafer and the members known to it (R434; log 141). -/
def groupNodes (s : State) (j : Job) : List Nat := nodeId s :: j.members

/-- The least of a list of nodes, or a default. -/
def leastNode (d : Nat) (ns : List Nat) : Nat := ns.foldl min d

/-- The head of a node's group: the lowest-numbered member in it; the root: the lowest node of all (R229). -/
def headOf (ns : List Nat) (n : Nat) : Nat := leastNode n (ns.filter (fun m => groupOf m == groupOf n))

/-- The parent of a node in the tree, if it is not the root. -/
def parentOf (ns : List Nat) (n : Nat) : Option Nat :=
  let root := leastNode n ns
  if n = root then none else if n = headOf ns n then some root else some (headOf ns n)

/-- The members whose parent is this wafer. -/
def childrenOf (s : State) (j : Job) : List Nat :=
  let ns := groupNodes s j
  (j.members.filter (fun m => m != nodeId s && parentOf ns m == some (nodeId s))).eraseDups

/-- Sends a RELEASE to the children. -/
def relayDown (j : Job) (domain op seq : Nat) (value : Word64) (s : State) : State :=
  (childrenOf s j).foldl (fun s m => relay m domain op seq value s) s

/-! ## Global operations of hosts (R229 to R231, R235) -/

/-- The sites of a partition that answer (R26). -/
def partSites (s : State) (a : Part) : List Nat := ((partFields a).flatMap fieldSites).filter (siteWorks s)

/-- SYNC_REPLY to a requester (R235). -/
def replySyncTo (node domain : Nat) (tag : BitVec 16) (status ack : Nat) (pc cc : Count48) (sum : Word64) (s : State) : State :=
  sendPkt node domain 0x4F
    (leBytes 2 tag.toNat ++ [BitVec.ofNat 8 status, BitVec.ofNat 8 ack] ++ leBytes 6 pc.toNat ++ leBytes 6 cc.toNat ++
     leBytes 8 sum.toNat) s

/-- Changes a pending global operation of a partition, by its kind. -/
def modHostOp (p kind : Nat) (g : HostOp → HostOp) (s : State) : State :=
  modPart p (fun a => { a with hostOps := a.hostOps.map (fun o => if o.kind = kind then g o else o) }) s

/-- A pending global operation of a partition, by its kind. -/
def getHostOp (s : State) (p kind : Nat) : Option HostOp :=
  (getPart s p).bind (fun a => a.hostOps.find? (fun o => o.kind == kind))

/-- Removes a global operation. -/
def endHostOp (p kind : Nat) (s : State) : State :=
  modPart p (fun a => { a with hostOps := a.hostOps.filter (fun o => o.kind != kind) }) s

/-- A PRODUCE of the crest itself on a crest counter, held in a freeze (R229 to R231). -/
def crestProduce (p i n : Nat) (s : State) : State :=
  let h : Head := ⟨⟨ringXY, ringXY, 0⟩, ⟨ringXY, ringXY, 0⟩, 0, ((getPart s p).map Part.domain).getD 0, 0⟩
  if ctrFrozen s (.crest i) then
    holdCtr (.crest i) (.ctrProduce h ⟨true, i, false, ⟨ringXY, ringXY, 0⟩, 0⟩ (BitVec.ofNat 32 n)) s
  else (applyCtr 1 n (.crest i) s).2

/-- Every byte of a tile's counters as a snapshot lays it out: p, then c, 8 bytes each (R231). -/
def snapBytes (vs : List Counter) : List Byte :=
  vs.flatMap (fun v => leBytes 8 v.p.toNat ++ leBytes 8 v.c.toNat)

/-- The crest counters of a partition in index order (R217). -/
def crestIndexes (s : State) (p : Nat) (a : Part) : List Nat :=
  (partFields a).flatMap (fun f => (List.range 256).map (fun i => f * 256 + i)) ++
  (List.range (amGet s.crest.count p 0)).map (fun i => amGet s.crest.base p 0 + i)

/-- Freezes the counters of a partition, writes its crest counters into the south-west tile's overlay, and releases its
tiles to write theirs (R231). -/
def freezePart (p : Nat) (a : Part) (o : HostOp) (s : State) : State :=
  let sites := partSites s a
  let vals := (crestIndexes s p a).map (fun i => getCtr s (.crest i))
  let s := writeBytes (memKey (physical s (southWest a)) 0 0 (o.addr + 128)) (snapBytes vals) s
  let s := modPart p (fun a => { a with frozen := true }) s
  let s := modHostOp p 2 (fun o => { o with phase := 2, members := [], sum := 0 }) s
  sites.foldl (fun s k =>
    send ⟨⟨⟨ringXY, ringXY, 0⟩, ⟨siteX k, siteY k, 3⟩, 5, a.domain, 0⟩, true, 6, crestBody 2 o.seq 0⟩
      (modTile k (fun t => { t with arrivedAt := false }) s)) s

/-- ACK or READ_REPLY to the issuing tile's sync unit, which has counted the operation as outstanding (R222). -/
def ackCtr (op status : Nat) (h : Head) (m : CtrMsg) (key : CtrKey) (s : State) : State :=
  if dstIsTile { h with dst := h.src } then
    let v := getCtr s key
    let rest := if op = 9 then
        leBytes 4 (v.p.toNat % 2 ^ 32) ++ leBytes 4 (v.p.toNat / 2 ^ 32 * 2 ^ 16 + v.c.toNat / 2 ^ 32) ++
        leBytes 4 (v.c.toNat % 2 ^ 32)
      else leBytes 4 0 ++ leBytes 4 (cellWord m.retCell m.retTarget)
    send ⟨⟨h.dst, ⟨h.src.x, h.src.y, 3⟩, 5, h.domain, h.tag⟩, true, 4, leBytes 4 (ctrWord2 op key m.ackWanted status) ++ rest⟩ s
  else s

/-- Performs a COUNTER message at the holder and answers it: an operation of another domain is refused with status 3 and
event 0x182 (R219 to R222). -/
def performCtr (op n : Nat) (h : Head) (m : CtrMsg) (key : CtrKey) (s : State) : State :=
  let ownDomain := ((ctrOwner s key).bind (getPart s)).map Part.domain
  if ownDomain ≠ some h.domain then ackCtr 8 3 h m key (raise { evCtr s 0x182 2 key 0 with domain := h.domain } s)
  else
    let (st, s) := applyCtr op n key s
    ackCtr (if op = 3 then 9 else 8) st h m key s

/-- Performs a host's counter command and answers it: 0 applied, 1 fault, 2 error (R235). -/
def performHostCtr (op n : Nat) (p : Pkt) (h : Hdr) (key : CtrKey) (s : State) : State :=
  let (st, s) := applyCtr op n key s
  let v := getCtr s key
  replySync p h (if st = 0 then 0 else if st = 4 then 2 else 1) st v.p v.c 0 s

/-- The counter that a host's reference names, where it lies in the partition's allotment (R217, R235). -/
def hostKey (s : State) (part : Nat) (c : CtrRef) : Option CtrKey :=
  let key : CtrKey := if c.x = 0xFFFF ∧ c.y = 0xFFFF then .crest c.index else .tile (siteKey c.x c.y) c.index
  let real := (c.x = 0xFFFF ∧ c.y = 0xFFFF) ∨ (c.x < 288 ∧ c.y < 280)
  if real ∧ ctrOwner s key = some part then some key else none

/-- Broadcasts to this member: an amount on a crest counter (R230). -/
def castHere (part ctr n : Nat) (s : State) : State := crestProduce part ctr n s

/-- Performs an operation that a freeze had held (R231). -/
def applyHeld (i : Instr) (s : State) : State :=
  match i with
  | .ctrProduce h m n => performCtr 1 n.toNat h m (if m.crest then .crest m.index else .tile (dstSite h) m.index) s
  | .ctrConsume h m n => performCtr 2 n.toNat h m (if m.crest then .crest m.index else .tile (dstSite h) m.index) s
  | .ctrRead h m => performCtr 3 0 h m (if m.crest then .crest m.index else .tile (dstSite h) m.index) s
  | .ctrBound h m b => performCtr 4 b.toNat h m (if m.crest then .crest m.index else .tile (dstSite h) m.index) s
  | .ctrInit h m => performCtr 5 0 h m (if m.crest then .crest m.index else .tile (dstSite h) m.index) s
  | .signalProduce p h c n => match hostKey s h.part c with
    | some key => performHostCtr 1 n.toNat p h key s
    | none => replySync p h 2 3 0 0 0 s
  | .signalConsume p h c n => match hostKey s h.part c with
    | some key => performHostCtr 2 n.toNat p h key s
    | none => replySync p h 2 3 0 0 0 s
  | .counterRead p h c => match hostKey s h.part c with
    | some key => performHostCtr 3 0 p h key s
    | none => replySync p h 2 3 0 0 0 s
  | .counterBound p h c b => match hostKey s h.part c with
    | some key => performHostCtr 4 b.toNat p h key s
    | none => replySync p h 2 3 0 0 0 s
  | .counterInit p h c => match hostKey s h.part c with
    | some key => performHostCtr 5 0 p h key s
    | none => replySync p h 2 3 0 0 0 s
  | .broadcast p h ctr n =>
    let (st, s) := applyCtr 1 n.toNat (.crest ctr) s
    replySync p h (if st = 0 then 0 else 1) st 0 0 0 (endHostOp h.part 1 s)
  | _ => s

/-- Unfreezes the counters of a partition and performs what the freeze held: each tile's operations and the crest's, in
order (R231). -/
def unfreeze (p : Nat) (s : State) : State :=
  match getPart s p with
  | none => s
  | some a =>
    let sites := (s.tiles.filter (fun e => siteHolder s e.1 == some p)).map Prod.fst
    let s := modPart p (fun a => { a with frozen := false, heldCrest := [] }) s
    let s := sites.foldl (fun s k =>
      let held := (getTile s k).heldOps.filter isCtrInstr
      held.foldl (fun s i => applyHeld i s)
        (modTile k (fun t => { t with heldOps := t.heldOps.filter (fun i => !isCtrInstr i) }) s)) s
    a.heldCrest.foldl (fun s i => applyHeld i s) s

/-- A global operation is released at this member: a barrier produces 1 on its release counter; the first release of a
snapshot freezes, the second unfreezes; the requester is answered, and the children are released in turn (R229, R231). -/
def releaseOp (p kind : Nat) (total : Word64) (s : State) : State :=
  match getPart s p with
  | none => s
  | some a =>
    match a.hostOps.find? (fun o => o.kind == kind), a.job with
    | some o, some j =>
      let s := relayDown j a.domain 2 o.seq total s
      if kind = 2 ∧ o.phase < 2 then freezePart p a o s
      else
        let s := endHostOp p kind s
        let s := if kind = 2 then unfreeze p s else crestProduce p o.release 1 s
        replySyncTo o.node a.domain o.tag 0 0 0 0 (if kind = 0 then total else 0) s
    | _, _ => s

/-- This member and all its children have arrived: the root releases, another member sends its arrival on (R229). -/
def gatherTry (p kind : Nat) (s : State) : State :=
  match getPart s p with
  | none => s
  | some a =>
    match a.hostOps.find? (fun o => o.kind == kind), a.job with
    | some o, some j =>
      if o.arrivedHere && (o.phase == 0 || o.phase == 3) && (childrenOf s j).all (o.members.contains ·) then
        let s := modHostOp p kind (fun o => { o with phase := o.phase + 1 }) s
        match parentOf (groupNodes s j) (nodeId s) with
        | none => releaseOp p kind o.sum s
        | some up => relay up a.domain 1 o.seq o.sum s
      else s
    | _, _ => s

/-- A barrier whose arrival counter has reached v arrives with the produced count as it stands (R229). -/
def barrierTry (p : Nat) (s : State) : State :=
  match getHostOp s p 0 with
  | some o =>
    let v := getCtr s (.crest o.arrival)
    if !o.arrivedHere && o.phase == 0 && countGe v.p o.v then
      gatherTry p 0 (modHostOp p 0 (fun o => { o with arrivedHere := true, sum := o.sum + BitVec.setWidth 64 v.p }) s)
    else s
  | none => s

/-- A CREST message of an operation is in flight between the partition's tiles and the crest units. -/
def crestInFlight (s : State) (domain op : Nat) : Bool :=
  (inMesh s).any (fun m => m.control && m.kind == 6 && m.head.domain == domain && fieldAt m.body 0 4 / 2 ^ 28 == op)

/-- A tile sends its arrival at a snapshot once its sync unit has no operation awaiting ACK (R231). -/
def snapArrive (k : Nat) (s : State) : State :=
  match (siteHolder s k).bind (getPart s) with
  | some a =>
    match a.hostOps.find? (fun o => o.kind == 2) with
    | some o =>
      let t := getTile s k
      if o.phase == 0 && !t.arrivedAt && t.opsOut == 0 then
        send ⟨⟨⟨siteX k, siteY k, 3⟩, ⟨ringXY, ringXY, 0⟩, 0, a.domain, 0⟩, true, 6, crestBody 1 o.seq 0⟩
          (modTile k (fun t => { t with arrivedAt := true }) s)
      else s
    | none => s
  | none => s

/-- The partition has no fabric counter operation outstanding (R231). -/
def ctrPacketsOut (s : State) (p : Nat) : Bool :=
  let isCtr := fun q : Packet => q.part == some p && 0x40 ≤ q.opcode && q.opcode ≤ 0x46
  s.fabric.tx.any (fun e => e.2.waiting.any isCtr || e.2.out.any (fun o => isCtr o.wire.pkt))

/-- Every tile of the partition has answered the present phase of a snapshot: arrived, or collected (R231). -/
def snapTry (p : Nat) (s : State) : State :=
  match getPart s p with
  | none => s
  | some a =>
    match a.hostOps.find? (fun o => o.kind == 2) with
    | none => s
    | some o =>
      let all := (partSites s a).all (fun k => (getTile s k).arrivedAt)
      if o.phase == 0 && !o.arrivedHere && all && !crestInFlight s a.domain 1 && !ctrPacketsOut s p then
        gatherTry p 2 (modHostOp p 2 (fun o => { o with arrivedHere := true }) s)
      else if o.phase == 2 && all && !crestInFlight s a.domain 5 then
        gatherTry p 2 (modHostOp p 2 (fun o => { o with phase := 3 }) s)
      else s

/-- An arrival of another member: kept until this member's operation with that sequence number is commanded (R229). -/
def memberArrives (p seq node : Nat) (value : Word64) (s : State) : State :=
  match getPart s p with
  | none => s
  | some a =>
    let s := modPart p (fun a => { a with job := a.job.map (fun j =>
      if j.members.contains node || node == nodeId s then j else { j with members := j.members ++ [node] }) }) s
    match a.hostOps.find? (fun o => o.seq == seq) with
    | some o =>
      if o.members.contains node then s
      else gatherTry p o.kind (modHostOp p o.kind (fun o => { o with members := o.members ++ [node], sum := o.sum + value }) s)
    | none => modPart p (fun a => { a with early := a.early ++ [(seq, node, value)] }) s

/-- A new global operation of a partition takes the next sequence number and the arrivals that came early (R229, R233). -/
def startHostOp (p : Nat) (o : HostOp) (s : State) : State :=
  modPart p (fun a =>
    let mine := a.early.filter (fun e => e.1 == a.opSeq)
    let o := { o with seq := a.opSeq, members := mine.map (fun e => e.2.1), sum := mine.foldl (fun t e => t + e.2.2) 0 }
    { a with hostOps := a.hostOps ++ [o], opSeq := (a.opSeq + 1) % 16
             early := a.early.filter (fun e => e.1 != a.opSeq) }) s

/-- A counter operation has been applied: a barrier may now arrive (R229). -/
def afterCtr (key : CtrKey) (s : State) : State :=
  match key with
  | .crest _ =>
    match ctrOwner s key with
    | some p => barrierTry p s
    | none => s
  | .tile _ _ => s

/-- The watch that a WATCH message names (R226). -/
def watchOf (h : Head) (m : WatchMsg) : Watch :=
  { key := if m.crest then .crest m.index else .tile (dstSite h) m.index
    onC := m.onC
    v := m.v
    domain := h.domain
    tag := h.tag
    tgtCell := m.tgtCell
    tgtTarget := m.tgtTarget }

/-- Removes every watch on the counters of a partition, and those of its hosts, without notification (R225). -/
def dropWatches (p : Nat) (s : State) : State :=
  { s with crest := { s.crest with watches := s.crest.watches.filter (fun w => ctrOwner s w.key != some p) } }

/-- A control message arrives at the tile it names, or at the ring or a crest unit: the router at a tile delivers it only
under R31 (R180, R182). -/
def arriveCtl (h : Head) (kind : Nat) (act : State → State) (s : State) : State :=
  let s := crossed h true kind s
  if h.dst.x = ringXY || delivers s h then act s else raise (refuseEvent s h) s

/-- A data packet arrives at the tile it names (R180). -/
def arriveData (h : Head) (kind : Nat) (act : State → State) (s : State) : State :=
  let s := crossed h false kind s
  if delivers s h then act s else raise (refuseEvent s h) s

end Sys2Proof.Machine
end

