-- ==== Sys2Proof/Machine/CellView.lean ====
section
/-!
DEFINITION. What the cells of a tile wait for: tags, credits, tokens and strips, and the blocked bits that follow (R57 to R65,
R73 to R84, R147).
-/

namespace Sys2Proof.Machine

/-- The partition of a site with its running run and that run's section (R140). -/
def running (s : State) (k : Nat) : Option (Nat × Part × Current × Section) :=
  match siteHolder s k with
  | none => none
  | some p =>
    match getPart s p with
    | none => none
    | some a =>
      match a.current with
      | none => none
      | some c => (a.resident.find? (fun r => r.number == c.sec)).map (fun r => (p, a, c, r))

/-- The ports of an actor that a binding delivers (R56). -/
def portsOn (cfg : List Word32) (b : Nat) : List Nat :=
  (List.range 4).filter (fun i => (ccPort cfg i).mode != 0 && (ccPort cfg i).binding == b)

/-- The ports in value or buffer mode (R61). -/
def tagPorts (cfg : List Word32) : List Nat :=
  (List.range 4).filter (fun i => (ccPort cfg i).mode == 1 || (ccPort cfg i).mode == 2)

/-- The ports in stationary mode (R57). -/
def fixedPorts (cfg : List Word32) : List Nat := (List.range 4).filter (fun i => (ccPort cfg i).mode == 3)

/-- Tags per run of a compute cell in a section (R147). -/
def ccTags (r : Section) (k slot : Nat) : Nat := amGet r.tags (cellKey k slot) 1

/-- A slot has every arrival and every stationary port is filled (R61). -/
def slotReady (c : CC) (t : TagSlot) : Bool :=
  (tagPorts c.cfg).all (fun i => (amFind t.present i).isSome) && (fixedPorts c.cfg).all (fun i => (amFind c.filled i).isSome)

/-- The ready slot that fires next: the one that became ready first, then the lowest-numbered (R62). -/
def nextSlot (c : CC) : Option TagSlot :=
  (c.slots.filter (slotReady c)).foldl (fun b t =>
    match b with
    | none => some t
    | some u =>
      let key := fun (x : TagSlot) => (x.readyAt.getD 0, x.index)
      if (key t).1 < (key u).1 ∨ ((key t).1 = (key u).1 ∧ t.index < u.index) then some t else some u) none

/-- An actor with no value-mode or buffer-mode port fires without waiting for arrivals (R147). -/
def selfPaced (cfg : List Word32) : Bool := (tagPorts cfg).isEmpty

/-- The consumers of an outbound binding: one peer, or the consumers of its edges in the section (R209). -/
def consumers (r : Section) (k slot b : Nat) (w : Binding) : List CellRef :=
  let es := (r.edges.filter (fun e => e.1 == cellKey k slot && e.2.1 == b)).map (fun e =>
    (⟨siteX (e.2.2.1 / 4), siteY (e.2.2.1 / 4), e.2.2.1 % 4⟩ : CellRef))
  if es.isEmpty then [⟨w.x, w.y, w.slot⟩] else es.eraseDups

/-- Buffers of the ring that an outbound binding fills, as the section has them: its own output ring toward a generator, the
consumer's ring for a stream, the home's for a combining contribution (R73, R207, R213). -/
def outDepth (r : Section) (k slot : Nat) (cfg : List Word32) (b : Nat) : Nat :=
  amGet r.depths (cellKey k slot * 4 + b) (ccPort cfg 4).depth

/-- Tuples that a tile still loading holds for an inbound binding of a cell (R159). -/
def heldTuples (s : State) (k slot b : Nat) : Nat :=
  ((getTile s k).heldOps.filter (fun i =>
    match i with
    | .tuple h _ => h.dst.slot == slot && h.target == b
    | _ => false)).length

/-- Every consumer's inbound queue has a free entry for a tuple of an outbound binding (R83, R159, R207). -/
def queuesFree (s : State) (r : Section) (k slot b : Nat) (w : Binding) : Bool :=
  (consumers r k slot b w).all (fun p =>
    p.slot == 3 ||
    (let n := siteKey p.x p.y
     let used := if (getTile s n).run = .loading then heldTuples s n p.slot w.peer
       else (amGet (getCC s n p.slot).queues w.peer []).length
     used < amGet r.queueDepths (cellKey n p.slot * 4 + w.peer) 1))

/-- The output has a free buffer or entry for one more tag (R61, R83). -/
def outFree (s : State) (r : Section) (k slot : Nat) (c : CC) : Bool :=
  let d := ccPort c.cfg 4
  let w := ccOut c.cfg d.binding
  if !w.enable then true
  else if d.mode = 2 then amGet c.outCredits d.binding 0 < outDepth r k slot c.cfg d.binding
  else if d.mode = 1 then queuesFree s r k slot d.binding w
  else true

/-- The compute cells of a site are clock-gated: its partition has the hold role (R40; log 139). -/
def gated (s : State) (k : Nat) : Bool := ((siteHolder s k).bind (getPart s)).any (fun a => a.role == 2)

/-- A compute cell has fired and drained all its tags (R147). -/
def ccDone (r : Section) (k slot : Nat) (c : CC) : Bool := ccClass c.cfg == 0 || ccTags r k slot ≤ c.drainedCount

/-- A generator has finished its program (R147). -/
def agDone (g : AG) : Bool := !agEnable g.cfg || g.finished

/-- Every agent of a tile has finished (R147). -/
def tileDone (s : State) (r : Section) (k : Nat) : Bool :=
  (List.range 3).all (fun i => ccDone r k i (getCC s k i)) && (List.range 4).all (fun g => agDone (getAG s k g))

/-- The source side of a generator is a ring (R73). -/
def agFromRing (g : AG) : Bool := (agSrc g.cfg).1 == 2

/-- The destination side of a generator is a ring (R73). -/
def agToRing (g : AG) : Bool := (agDst g.cfg).1 == 2

/-- The destination port of a generator is stationary (R79). -/
def agStationary (s : State) (k : Nat) (g : AG) : Bool :=
  agToRing g &&
  (let slot := (agDst g.cfg).2.1
   let cfg := (getCC s k slot).cfg
   (List.range 4).any (fun i => (ccPort cfg i).mode == 3 && (ccPort cfg i).base * 64 == (agDst g.cfg).2.2))

/-- The generator holds a credit for its next buffer: as many as the ring has buffers at first, and for a stationary port one
that never returns (R79). -/
def agCredit (s : State) (k : Nat) (g : AG) : Bool :=
  !agToRing g || g.used < (if agStationary s k g then 1 else max 1 g.depth)

/-- The sides and corners of a halo window: region number, sites apart in x and y (R80, R81). Regions: 0 north, 1 south,
2 east, 3 west, 4 north-east, 5 north-west, 6 south-east, 7 south-west. -/
def haloSides (cfg : List Word32) : List (Nat × Int × Int) :=
  let (n, so, e, w) := agHalo cfg
  let on := fun (b : Bool) (x : Nat × Int × Int) => if b then [x] else []
  on (n > 0) (0, 0, 1) ++ on (so > 0) (1, 0, -1) ++ on (e > 0) (2, 1, 0) ++ on (w > 0) (3, -1, 0) ++
  (if agCorners cfg then
     on (n > 0 && e > 0) (4, 1, 1) ++ on (n > 0 && w > 0) (5, -1, 1) ++ on (so > 0 && e > 0) (6, 1, -1) ++
     on (so > 0 && w > 0) (7, -1, -1)
   else [])

/-- The site across a side that exchanges strips: one of the same partition (R82). Positions decide, and a spare answers for
the one it covers. -/
def haloPeer (s : State) (k : Nat) (d : Int × Int) : Option Nat :=
  let pos := positionOf s k
  let x := (siteX pos : Int) + d.1
  let y := (siteY pos : Int) + d.2
  if x < 0 ∨ y < 0 then none
  else
    let n := siteKey x.toNat y.toNat
    match (siteHolder s k).bind (getPart s) with
    | some a => if x.toNat < 288 && y.toNat < 280 && inPart a n then some (physical s n) else none
    | none => none

/-- The regions that wait for a strip of a neighbour. -/
def haloWaits (s : State) (k : Nat) (g : AG) : List Nat :=
  ((haloSides g.cfg).filter (fun e => (haloPeer s k e.2).isSome)).map Prod.fst

/-- Every strip that the next buffer needs has arrived (R81). -/
def haloReady (s : State) (k : Nat) (g : AG) : Bool := (haloWaits s k g).all (fun r => amGet g.haloGot r 0 > 0)

/-- The generators of the tile that hand over a staging region to this one, or take one from it: those with the same address in
the staging bank (R138). -/
def stagingWriter (s : State) (k : Nat) (g : AG) : Option Nat :=
  if (agSrc g.cfg).1 = 1 then
    (List.range 4).find? (fun i =>
      let w := getAG s k i
      agEnable w.cfg && (agDst w.cfg).1 == 1 && (agDst w.cfg).2.2 == (agSrc g.cfg).2.2)
  else none

/-- The generator that reads what a staging writer writes (R138). -/
def stagingReader (s : State) (k : Nat) (g : AG) : Option Nat :=
  if (agDst g.cfg).1 = 1 then
    (List.range 4).find? (fun i =>
      let r := getAG s k i
      agEnable r.cfg && (agSrc r.cfg).1 == 1 && (agSrc r.cfg).2.2 == (agDst g.cfg).2.2)
  else none

/-- A generator may fill its next buffer (R73, R79, R81, R138). -/
def agReady (s : State) (k : Nat) (g : AG) : Bool :=
  agEnable g.cfg && !g.finished && !g.stopped && agCredit s k g && (!agFromRing g || !g.tokens.isEmpty) &&
  ((stagingWriter s k g).isNone || g.handoff) && !g.handoffOut

/-- What the head of an inbound queue meets at the table. -/
inductive Admit where
  | placed (c : CC)
  | blocked
  | fault (code : Nat)

/-- The reference tag: that of the oldest slot, else the one after the last tag fired, else none (R64). -/
def refTag (c : CC) : Option (BitVec 16) :=
  let oldest := c.slots.foldl (fun (b : Option TagSlot) t =>
    match b with
    | none => some t
    | some u => if t.age < u.age then some t else some u) none
  match oldest with
  | some t => some t.tag
  | none => c.lastFired.map (fun t => t + 1)

/-- The lowest-numbered free slot. -/
def freeIndex (c : CC) : Nat := ((List.range 32).find? (fun i => !c.slots.any (fun (t : TagSlot) => t.index == i))).getD 0

/-- An arrival for port i meets the table: it fills a stationary port, joins the slot of its tag, or takes a free slot within the
window; a second arrival and a stale tag are cell faults (R57, R60, R64, R85). -/
def admitReq (c : CC) (i : Nat) (a : Arrival) : Admit :=
  if (ccPort c.cfg i).mode = 3 then .placed { c with filled := amSet c.filled i a }
  else
    match c.slots.find? (fun (t : TagSlot) => t.tag == a.tag) with
    | some t =>
      if (amFind t.present i).isSome then .fault 0x100
      else .placed { c with slots := c.slots.map (fun (u : TagSlot) =>
        if u.index = t.index then { u with present := amSet u.present i a } else u) }
    | none =>
      if (refTag c).any (fun r => decide ((a.tag - r).toNat ≥ 32768)) then .fault 0x101
      else if c.slots.length < ccWindow c.cfg then
        .placed { c with slots := c.slots ++ [{ index := freeIndex c, tag := a.tag, age := c.clock, present := amSet [] i a }] }
      else .blocked

/-- No arrival can enter the table from an inbound queue: it is empty, or its head finds no free slot (R60, R65, R83). -/
def queueWaits (c : CC) (b : Nat) : Bool :=
  match amGet c.queues b [], portsOn c.cfg b with
  | [], _ => true
  | a :: _, i :: _ =>
    (match admitReq c i a with
     | .blocked => true
     | _ => false)
  | _, _ => false

/-- The blocked bits of a tile as slot and agent number: inbound bindings 0 to 3 and outbound bindings 4 to 7 of each compute
cell, then the generators as slot 3 (R65, R83, R84; log 24). -/
def blockedBits (s : State) (k : Nat) : List (Nat × Nat) :=
  match running s k with
  | none => []
  | some (_, _, _, r) =>
    if (getTile s k).run ≠ .running then []
    else
      (List.range 3).flatMap (fun i =>
        let c := getCC s k i
        if ccDone r k i c || c.stopped then []
        else
          ((List.range 4).filter (fun b =>
            (ccIn c.cfg b).enable && !(portsOn c.cfg b).isEmpty && queueWaits c b && (nextSlot c).isNone &&
            !selfPaced c.cfg)).map (fun b => (i, b)) ++
          (if !outFree s r k i c then [(i, 4 + (ccPort c.cfg 4).binding)] else [])) ++
      ((List.range 4).filter (fun g =>
        let a := getAG s k g
        agEnable a.cfg && !a.finished && !a.stopped && (a.expected > 0 || !agReady s k a || (a.haloSent > a.next && !haloReady s k a)))).map
        (fun g => (3, g))

/-- A tile is still: each agent of the run is finished or blocked (R227). -/
def tileStill (s : State) (r : Section) (k : Nat) : Bool :=
  let b := blockedBits s k
  (List.range 3).all (fun i => let c := getCC s k i; ccDone r k i c || c.stopped || b.any (fun x => x.1 == i)) &&
  (List.range 4).all (fun g => let a := getAG s k g; agDone a || a.stopped || b.contains (3, g))

end Sys2Proof.Machine
end

