-- ==== Sys2Proof/Machine/Sched.lean ====
section
/-!
DEFINITION. Runs, the section switch, aborts, the end of a job, cadence frames and the choice of the next run (R140, R141, R152
to R167).
-/

namespace Sys2Proof.Machine

/-! ## Ends of runs and jobs -/

/-- A resident section of a partition (R146). -/
def sectionOf (a : Part) (n : Nat) : Option Section := a.resident.find? (fun (x : Section) => x.number == n)

/-- The sites that a resident section maps. -/
def sitesOf (a : Part) (n : Nat) : List Nat := ((sectionOf a n).map Section.sites).getD []

/-- RUN_NOTIFY to the job's notification node, if it names one (R171, R172). -/
def runNotify (a : Part) (status code number : Nat) (s : State) : State :=
  match a.job with
  | some j =>
    if j.notify < 16384 then
      sendPkt j.notify a.domain 0x3E (runReply 0 status code 0xFFFF 0xFFFF 0xFF 0xFF number) s
    else s
  | none => s

/-- A run has ended: it is kept among the last 256 of its job and notified (R172). -/
def endRun (p number status code : Nat) (s : State) : State :=
  match getPart s p with
  | none => s
  | some a =>
    runNotify a status code number
      (modPart p (fun a => { a with ended := (a.ended ++ [(number, status, code)]).drop (a.ended.length + 1 - 256) }) s)

/-- The millisecond of the time of day (R297, R360). -/
def tickStamp (s : State) : Word64 := BitVec.ofNat 64 (s.time.tod.toNat / 1000000)

/-- The started job of a partition stops at this tick (R361, R362). -/
def stopStamp (p : Nat) (mark : JobMark) (s : State) : State :=
  let t := tickStamp s
  modPart p (fun a =>
    match a.job with
    | some j =>
      if j.started then
        { a with stamp := { a.stamp with mark := mark, stop := t }
                 ending := a.ending ++ [(a.stamp.start, t, j.credits, a.stamp.energy)]
                 job := some { j with started := false, credits := 0 } }
      else { a with stamp := { a.stamp with mark := mark } }
    | none => a) s

/-- SECTION messages: 0 start, 1 done, 2 abort (R182). -/
def sendSection (domain k code : Nat) (s : State) : State :=
  send ⟨⟨⟨ringXY, ringXY, 0⟩, ⟨siteX k, siteY k, 3⟩, 0, domain, 0⟩, true, 7, [BitVec.ofNat 8 code]⟩ s

/-- A SECTION message arrives at a tile. -/
def landSection (k code : Nat) (s : State) : State :=
  leaveMesh (fun m => m.control && m.kind == 7 && dstSite m.head == k && m.body == [BitVec.ofNat 8 code]) s

/-- A compute cell after a tile reset: pipelines, table and queues are empty; the counter sets stay (R431). -/
def resetCC (c : CC) : CC := { cfg := c.cfg, current := c.current, previous := c.previous, curSection := c.curSection, prevSection := c.prevSection }

/-- A generator after a tile reset (R431). -/
def resetAG (g : AG) : AG := { cfg := g.cfg, depth := g.depth, size := g.size, expected := g.expected }

/-- A tile reset: stores, tile counters, watches and both counter sets stay (R431). -/
def tileReset (k : Nat) (s : State) : State :=
  modTile k (fun t => { t with cc := amMap t.cc (fun _ c => resetCC c), ag := amMap t.ag (fun _ g => resetAG g), run := .idle
                               heldOps := t.heldOps.filter isCtrInstr, agent := [], acks := [] }) s

/-- The partition's job closes: its sections are released, its watches removed, its commit and global operations end as
errors, its cadence and its counters' freeze end, and it leaves its job group (R141, R225, R362, R434). -/
def closeJob (p : Nat) (s : State) : State :=
  match getPart s p with
  | none => s
  | some a =>
    if a.job.isNone then s
    else
      let s := stopStamp p .closed s
      let s := a.hostOps.foldl (fun s o => replySyncTo o.node a.domain o.tag 2 0 0 0 0 s) s
      let s := a.commits.foldl (fun s (c : Commit) =>
        sendPkt c.node c.domain 0x3F (runReply c.tag 2 0 0xFFFF 0xFFFF 0xFF 0xFF 0) s) s
      let s := unfreeze p (modPart p (fun a => { a with hostOps := [] }) s)
      let s := dropWatches p s
      modPart p (fun a => { a with job := none, resident := [], queue := [], ended := [], commits := [], cadence := none
                                   early := [], opSeq := 0, hangTimer := none, still := []
                                   pstate := if a.pstate = .jobOpen then .ready else a.pstate }) s

/-- Sends an abort to every other member of the job group over the tree (R232, R434). -/
def spreadAbort (a : Part) (s : State) : State :=
  match a.job with
  | some j =>
    ((j.members.filter (· != nodeId s)).eraseDups).foldl (fun s m =>
      relay m a.domain 6 0 (BitVec.setWidth 64 j.group) s) s
  | none => s

/-- Aborts the run of a partition and closes its job (R161, R162, R434, R435): its run is reported aborted, its queued runs
discarded, with what its tiles hold for cells that have not started, and abort messages go to the tiles; a tile that has not loaded
does not start. -/
def abortRun (p code : Nat) (s : State) : State :=
  match getPart s p with
  | none => s
  | some a =>
    if a.job.isNone then s
    else
      let s := match a.current with
        | some c => runNotify a 1 code c.number s
        | none => s
      let s := a.queue.foldl (fun s (r : Run) => runNotify a 4 0 r.number s) s
      let sites := match a.current with
        | some c => sitesOf a c.sec
        | none => []
      let s := sites.foldl (fun s k =>
        sendSection a.domain k 2
          (modTile k (fun t => { t with run := .stopped, cc := amMap t.cc (fun _ c => { resetCC c with stopped := true })
                                        ag := amMap t.ag (fun _ g => { resetAG g with stopped := true })
                                        heldOps := t.heldOps.filter isCtrInstr }) s)) s
      let s := if code = 0x42 then s else spreadAbort a s
      closeJob p (modPart p (fun a => { a with current := none, queue := [] }) s)

/-- A cell fault: the cell stops and discards its tags, the event names it, and the run that contains it is aborted with code
0x40 (R85, R86, R161). Slot 3 is the memory cell, whose generator g stops. -/
def cellFault (k slot g code : Nat) (s : State) : State :=
  let s := raise (evCell s code 1 ⟨siteX k, siteY k, slot⟩ 0) s
  let s := if slot < 3 then modCC k slot (fun c => { c with slots := [], stopped := true }) s
           else if g < 4 then modAG k g (fun a => { a with stopped := true }) s else s
  match running s k with
  | some (p, _, _, r) => if r.sites.contains k then abortRun p 0x40 s else s
  | none => s

/-! ## The switch (R152, R158, R159) -/

/-- A compute cell at the section switch: its configuration, empty tables, and its counter sets moved on (R110, R152). -/
def switchCC (cfg : List Word32) (sec : Nat) (c : CC) : CC :=
  { cfg := cfg, previous := c.current, prevSection := c.curSection, curSection := sec }

/-- A generator at the section switch, with the ring that the loader gave it (R73, R213). -/
def switchAG (cfg : List Word32) (ring : Nat × Nat × Nat) : AG :=
  { cfg := cfg, depth := ring.1, size := ring.2.1, expected := ring.2.2 }

/-- n 32-bit words of an overlay, little-endian. -/
def overlayWords (s : State) (k addr n : Nat) : List Word32 :=
  (List.range n).map (fun i => BitVec.ofNat 32 (leNat (readBytes s (memKey k 0 0 (addr + 4 * i)) 4)))

/-- The memory cell reads its tile record and writes configuration and constant tables, and the tile starts (R144, R158, R159). -/
def loadTile (k : Nat) (r : Section) (s : State) : State :=
  let len := r.recLen * 256
  let s := touchRead (memKey k 0 0 r.base) len s
  if hasDouble s (memKey k 0 0 r.base) len then cellFault k 3 4 0x104 (noteUncorrected k s)
  else
    let cfgs := (List.range 3).map (fun i => overlayWords s k (r.base + 96 * i) 24)
    let s := (List.range 3).foldl (fun s i => modCC k i (switchCC (cfgs.getD i []) r.number) s) s
    let s := (List.range 4).foldl (fun s g =>
      modAG k g (fun _ => switchAG (overlayWords s k (r.base + 288 + 64 * g) 16) (amGet r.rings (k * 4 + g) (0, 0, 0))) s) s
    let s := ((List.range 3).foldl (fun (acc : Nat × State) i =>
      let cfg := cfgs.getD i []
      let n := if ccClass cfg = 0 then 0 else constLines cfg * 64
      (acc.1 + n, if n = 0 then acc.2 else
        writeBytes (memKey k 2 i (ccConstLine cfg * 64)) (readBytes acc.2 (memKey k 0 0 (r.base + acc.1)) n) acc.2)) (544, s)).2
    modTile k (fun t => { t with run := .running, base := r.base }) (countAccess k 0 r.recLen s)

/-- Starts a run: the tiles of its section are sent start messages and load (R158). -/
def startRun (p number : Nat) (r : Section) (frame : Bool) (s : State) : State :=
  let cur : Current := { number := number, sec := r.number, startedAt := now s, frame := frame }
  let s := modPart p (fun a => { a with current := some cur, queue := a.queue.filter (fun q => q.number != number), still := []
                                        hangTimer := none, lastSec := r.number, prevSec := a.lastSec }) s
  let d := ((getPart s p).map Part.domain).getD 0
  r.sites.foldl (fun s k => sendSection d k 0 (modTile k (fun t => { t with run := .loading }) s)) s

/-! ## Readiness (R153, R154) -/

/-- A predecessor counts as complete: it completed or was not taken, or it is no longer known (R153). -/
def predDone (a : Part) (n : Nat) : Bool :=
  !a.queue.any (fun q => q.number == n) && (a.current.map Current.number) != some n &&
  !a.ended.any (fun e => e.1 == n && (e.2.1 == 1 || e.2.1 == 4))

/-- The guard of a run holds (R153, R218). -/
def guardHolds (s : State) (g : Guard) : Bool :=
  let v := getCtr s (.crest g.index)
  match g.cmp with
  | 1 => countGe v.p g.value
  | 2 => !countGe v.p g.value
  | _ => true

/-- Every queued run whose predecessors are now complete becomes ready, or is not taken where its guard is false; this goes on
as long as it changes anything (R153). -/
def resolveReady (p : Nat) : Nat → State → State
  | 0, s => s
  | n + 1, s =>
    match getPart s p with
    | none => s
    | some a =>
      if !((a.job.map Job.started).getD false) then s
      else
        match a.queue.find? (fun q => !q.ready && q.preds.all (predDone a)) with
        | none => s
        | some q =>
          if guardHolds s q.guard then
            let t := now s
            resolveReady p n (modPart p (fun a => { a with queue := a.queue.map (fun r =>
              if r.number = q.number then { r with ready := true, readySince := t } else r) }) s)
          else
            resolveReady p n
              (endRun p q.number 3 0 (modPart p (fun a => { a with queue := a.queue.filter (fun r => r.number != q.number) }) s))

/-- Discards every queued run that names a run which was aborted, cancelled or discarded (R154). -/
def discardAfter (p : Nat) : Nat → State → State
  | 0, s => s
  | n + 1, s =>
    match getPart s p with
    | none => s
    | some a =>
      match a.queue.find? (fun q => q.preds.any (fun m => a.ended.any (fun e => e.1 == m && (e.2.1 == 1 || e.2.1 == 4)))) with
      | none => s
      | some q =>
        discardAfter p n
          (endRun p q.number 4 0 (modPart p (fun a => { a with queue := a.queue.filter (fun r => r.number != q.number) }) s))

/-! ## Cadence (R163 to R167) -/

/-- W_k in tenths of a ns. -/
def windowAt (c : Cadence) (k : Nat) : Int := c.w0 + (k * c.period * 10 : Nat)

/-- Changes a partition's cadence. -/
def modCadence (p : Nat) (g : Cadence → Cadence) (s : State) : State :=
  modPart p (fun a => { a with cadence := a.cadence.map g }) s

/-- Starts the next section of the frame in progress, if the partition is free (R166). -/
def nextFrameSection (p : Nat) (s : State) : State :=
  match getPart s p with
  | none => s
  | some a =>
    match a.cadence, a.current with
    | some c, none =>
      match c.frameLeft with
      | n :: rest =>
        match a.resident.find? (fun r => r.number == n) with
        | some r =>
          let num := a.nextRun
          startRun p num r true
            (modCadence p (fun c => { c with frameLeft := rest }) (modPart p (fun a => { a with nextRun := num + 1 }) s))
        | none => modCadence p (fun c => { c with frameLeft := rest }) s
      | [] => s
    | _, _ => s

/-- S_k: the window's opening, or the end of the frame before where that is later (R165). -/
def frameStart (c : Cadence) (k : Nat) : Int :=
  match c.frameEnd with
  | some t => max (windowAt c k) (t : Int)
  | none => windowAt c k

/-- Decides the frame of window k: it is dropped, or starts now that the partition is free (R165). -/
def decideFrame (p k : Nat) (s : State) : State :=
  match (getPart s p).bind Part.cadence with
  | none => s
  | some c =>
    let sk : Int := frameStart c k
    let next := windowAt c (k + 1)
    let late := setting s 0x2D12 (p + 1) == 1
    if sk ≥ next ∨ (sk + (c.estimate * 10 : Nat) > next ∧ !late) then
      raise (evPart s 0x382 0 p k) (modPart p (fun a => { a with framesDropped := a.framesDropped + 1 }) s)
    else
      nextFrameSection p (modCadence p (fun c => { c with frameK := some k, frameLeft := c.sections, started := true }) s)

/-- Decides the windows that opened while the partition was held, oldest first, until a frame starts (R165). -/
def decideWaiting (p : Nat) : Nat → State → State
  | 0, s => s
  | n + 1, s =>
    match getPart s p with
    | none => s
    | some a =>
      match a.cadence with
      | none => s
      | some c =>
        if a.current.isSome || c.frameK.isSome then s
        else if c.stopping then modPart p (fun a => { a with cadence := none }) s
        else
          match c.undecided with
          | k :: rest => decideWaiting p n (decideFrame p k (modCadence p (fun c => { c with undecided := rest }) s))
          | [] => s

/-- The frame in progress has ended: it is counted, and late if it ended after the next window opened (R165). -/
def endFrame (p : Nat) (s : State) : State :=
  match (getPart s p).bind Part.cadence with
  | some c =>
    match c.frameK with
    | some k =>
      let late := decide ((now s : Int) > windowAt c (k + 1))
      let t := now s
      let s := modCadence p (fun c => { c with frameK := none, frameEnd := some t }) s
      let s := modPart p (fun a => { a with framesRun := a.framesRun + 1, framesLate := a.framesLate + (if late then 1 else 0) }) s
      if late then raise (evPart s 0x383 0 p k) s else s
    | none => s
  | none => s

/-! ## The choice (R155, R156, R167) -/

/-- E and T of a run's section. -/
def runCost (a : Part) (r : Run) : Nat × Nat :=
  match a.resident.find? (fun x => x.number == r.sec) with
  | some x => (x.energy, x.time)
  | none => (0, 1)

/-- p(s) ≤ A (R155). -/
def eligible (a : Part) (r : Run) : Bool := 1000 * (runCost a r).1 ≤ a.share * (runCost a r).2

/-- The hottest field of a partition is at or above the advisory temperature (R155). -/
def hotPart (s : State) (a : Part) : Bool :=
  (partFields a).any (fun f => (getFld s f).temp ≥ (setting s 0x2D00 3 * 10 : Nat))

/-- The run has waited for the starvation limit (R155). -/
def starved (s : State) (r : Run) : Bool := now s ≥ r.readySince + setting s 0x2D00 1 * usT

/-- The next window at which a frame may start: the next of the grid, or the next 1 ms tick where W_0 waits for it (R163, R167). -/
def nextWindow (s : State) (c : Cadence) : Int :=
  if c.w0Tick then (((s.time.lastTick + tickCycles) * 64 : Nat) : Int) else windowAt c c.nextK

/-- A run outside the frame list fits before the next window (R167). -/
def fitsCadence (s : State) (a : Part) (r : Run) : Bool :=
  match a.cadence with
  | none => true
  | some c => c.stopping || ((now s : Int) + ((runCost a r).2 * 10 : Nat) ≤ nextWindow s c)

/-- What the scheduler needs of the fields of a partition is there: the stacks' reports of the last interval, and a temperature (R46). -/
def measured (s : State) (a : Part) : Bool :=
  (partFields a).all (fun f => let x := getFld s f; !x.missed && !x.readings.isEmpty && x.failedSensors % 65536 != 65535)

/-- The run that the section scheduler chooses, if any (R155); none while a measurement that it needs is missing (R46). -/
def chooseRun (s : State) (a : Part) : Option Run :=
  let rd := if measured s a then a.queue.filter Run.ready else []
  match rd.filter (starved s) with
  | r :: _ => if eligible a r then some r else none
  | [] =>
    let el := rd.filter (fun r => eligible a r && fitsCadence s a r)
    let top := el.foldl (fun m r => max m r.prio) 0
    let best := el.filter (fun r => r.prio == top)
    let kept :=
      if hotPart s a then
        best.filter (fun r => best.all (fun q => (runCost a r).1 * (runCost a q).2 ≤ (runCost a q).1 * (runCost a r).2))
      else best
    kept.head?

/-- The scheduler acts: a waiting frame first, else a run of the queue (R155, R167). The loader starts no section while the
routing state is not ready (R46), and a destructive self-test counts as a running section (R444). -/
def schedule (p : Nat) (s : State) : State :=
  let s := resolveReady p (((getPart s p).map (fun a => a.queue.length)).getD 0 + 1) s
  match getPart s p with
  | none => s
  | some a =>
    if a.current.isSome || a.pstate != .jobOpen || !s.mesh.routingReady || testHolds s p then s
    else
      let s := nextFrameSection p s
      let n := ((a.cadence.map (fun c => c.undecided.length)).getD 0) + 1
      let s := decideWaiting p n s
      match getPart s p with
      | none => s
      | some a =>
        if a.current.isSome || ((a.cadence.map (fun c => c.frameK.isSome)).getD false) || !((a.job.map Job.started).getD false) then s
        else
          match chooseRun s a with
          | none => s
          | some r =>
            match a.resident.find? (fun x => x.number == r.sec) with
            | some sec => if starved s r && !fitsCadence s a r then s else startRun p r.number sec false s
            | none => s

/-- The switch barrier of the running run completes: the run is complete, and the scheduler chooses (R155, R158). -/
def completeRun (p : Nat) (s : State) : State :=
  match getPart s p with
  | none => s
  | some a =>
    match a.current with
    | none => s
    | some c =>
      let sites := sitesOf a c.sec
      let s := sites.foldl (fun s k => modTile k (fun t => { t with run := .idle }) s) s
      let s := endRun p c.number 0 0 (modPart p (fun a => { a with current := none, hangTimer := none, still := [] }) s)
      let left := (a.cadence.map Cadence.frameLeft).getD []
      schedule p (if c.frame && left.isEmpty then endFrame p s else s)

/-! ## Hang detection (R227, R228) -/

/-- Traffic of a partition is in flight: packets and messages of its domain, counter operations awaiting ACK, fabric operations that
it has issued, and outstanding packets of its domain (R227, R262). -/
def trafficInFlight (s : State) (p : Nat) (a : Part) : Bool :=
  (inMesh s).any (fun m => m.head.domain == a.domain) || s.mesh.casts.any (fun c => c.head.domain == a.domain) || partOutstanding s p > 0 ||
  s.fabric.tx.any (fun e => e.1 % 64 == a.domain && !e.2.out.isEmpty) ||
  s.tiles.any (fun e => siteHolder s e.1 == some p && e.2.opsOut > 0)

/-- The hang timer starts when every mapped tile is still and no traffic is in flight, and stops otherwise (R227). -/
def hangCheck (p : Nat) (s : State) : State :=
  match getPart s p with
  | none => s
  | some a =>
    match a.current with
    | none => s
    | some c =>
      let sites := sitesOf a c.sec
      let quiet := setting s 0x2C00 2 = 1 && sites.all (fun k => a.still.contains k) && !trafficInFlight s p a
      if quiet then (if a.hangTimer.isSome then s else let t := now s; modPart p (fun a => { a with hangTimer := some t }) s)
      else modPart p (fun a => { a with hangTimer := none }) s

/-- The loader refuses a commit or a run: event 0x380, the last refusal, and the reply with its code (R149, R172, R415). -/
def loaderRefuse (p node domain : Nat) (tag : BitVec 16) (code x y slot detail : Nat) (s : State) : State :=
  let s := raise { evPart s 0x380 2 p (code + slot * 2 ^ 8 + detail * 2 ^ 16) with x := x, y := y, unit := slot } s
  let last : Word64 := BitVec.ofNat 64 (code * 2 ^ 56 + x * 2 ^ 40 + y * 2 ^ 24 + slot * 2 ^ 16 + detail * 2 ^ 8)
  let s := modPart p (fun a => { a with lastRefusal := last }) s
  sendPkt node domain 0x3F (runReply tag 1 code x y slot detail 0) s

end Sys2Proof.Machine
end

