-- ==== Sys2Proof/Machine/MemOps.lean ====
section
/-!
DEFINITION. Memory operations at the ring switch, at their homes and at the memory cells that execute descriptors (R211, R212,
R275 to R292).
-/

namespace Sys2Proof.Machine

/-! ## Addresses (R275, R276, R283) -/

/-- The fields of a global address (R275). -/
structure GAddr where
  domain : Nat
  node : Nat
  space : Nat
  pos : Nat
  offset : Nat
  good : Bool
deriving DecidableEq, Repr

/-- Reads a global address, and whether it is well formed (R275, R276). -/
def gAddr (a : Word64) : GAddr :=
  let v := a.toNat
  let space := bitsOf v 43 42
  let off := bitsOf v 20 0
  let pos := bitsOf v 37 21
  let inSpace := match space with
    | 0 => true
    | 1 => off < 131072
    | 2 => off < 196608 && off % 65536 < 49152
    | _ => false
  ⟨bitsOf v 63 58, bitsOf v 57 44, space, pos, off, bitsOf v 41 38 == 0 && pos < 80640 && inSpace⟩

/-- A region of n bytes stays within its space, and an overlay region within the wafer's positions (R275, R283). -/
def gFits (g : GAddr) (n : Nat) : Bool :=
  g.good &&
  (match g.space with
   | 0 => g.pos * 2097152 + g.offset + n ≤ 80640 * 2097152
   | 1 => g.offset + n ≤ 131072
   | _ => g.offset % 65536 + n ≤ 49152)

/-- Cuts a region into parts of at most 256 bytes that no 256-byte boundary crosses (R284, R289): place in the space's line of
positions, byte offset within the operation, length. -/
def cutParts : Nat → Nat → Nat → Nat → List (Nat × Nat × Nat)
  | 0, _, _, _ => []
  | fuel + 1, flat, start, n =>
    if n = 0 then []
    else
      let m := min n (256 - flat % 256)
      (flat, start, m) :: cutParts fuel (flat + m) (start + m) (n - m)

/-- The parts of a region whose first byte is byte `start` of the operation. -/
def piecesOf (g : GAddr) (start n : Nat) : List Piece :=
  (cutParts (n / 256 + 2) (g.pos * 2097152 + g.offset) start n).map (fun c =>
    { pos := c.1 / 2097152, space := g.space, offset := c.1 % 2097152, start := c.2.1, len := c.2.2 })

/-- An address some bytes on, in the same line of positions. -/
def gPlus (g : GAddr) (n : Nat) : GAddr :=
  let flat := g.pos * 2097152 + g.offset + n
  { g with pos := flat / 2097152, offset := flat % 2097152 }

/-- The pieces of a compressed store (R266): the bitmap region at the base, and the present blocks at their places; none where
the prefix and the data disagree. -/
def framePieces (g : GAddr) (data : List Byte) : Option (List Piece) :=
  let first := fieldAt data 0 2
  let count := fieldAt data 2 2
  let bl := fieldAt data 4 1
  let withMap := fieldAt data 5 1 % 2 = 1
  let bm := fieldAt data 6 2
  let mapBytes := if withMap then bm * 64 else 0
  if data.length ≠ 8 + mapBytes + count * bl * 64 ∨ !([2, 3, 4, 8].contains bl) ∨ count > 64 ∨ bm = 0 then none
  else
    let at1 := (bm + first * bl) * 64
    if (withMap ∧ !gFits g mapBytes) ∨ (count > 0 ∧ !gFits g (at1 + count * bl * 64)) then none
    else some ((if withMap then piecesOf g 8 mapBytes else []) ++ piecesOf (gPlus g at1) (8 + mapBytes) (count * bl * 64))

/-- Space, operand-store slot and byte address of a place in a position (R275). -/
def placeKey (k space offset : Nat) : Nat :=
  if space = 2 then memKey k 2 (offset / 65536) (offset % 65536) else memKey k space 0 offset

/-! ## Messages (R289, R290, R292) -/

/-- The flags byte of an operation (R292). -/
def memFlags (size ty : Nat) (compressed : Bool) : Nat :=
  size % 4 + ty % 4 * 4 + (if compressed then 16 else 0)

/-- A MEM_REQ payload (R289). -/
def memReqBytes (op flags len space offset reqId : Nat) (data : List Byte) : List Byte :=
  [BitVec.ofNat 8 op, BitVec.ofNat 8 flags] ++ leBytes 2 len ++ leBytes 4 (space * 2 ^ 30 + offset) ++ leBytes 4 reqId ++
  [0, 0, 0, 0] ++ data

/-- A MEM_REPLY payload (R290). -/
def memRepBytes (status op reqId offset : Nat) (data : List Byte) : List Byte :=
  [BitVec.ofNat 8 status, BitVec.ofNat 8 op] ++ leBytes 2 data.length ++ leBytes 4 reqId ++ leBytes 4 offset ++ data

/-- The first 32 bytes of a memory command (R292). -/
def memCmdBytes (addr v sw : Word64) (len : Nat) (tag : BitVec 16) (flags : Nat) : List Byte :=
  leBytes 8 addr.toNat ++ leBytes 8 v.toNat ++ leBytes 8 sw.toNat ++ leBytes 4 len ++ leBytes 2 tag.toNat ++
  [BitVec.ofNat 8 flags, 0]

/-- The ring's own place in a header. -/
def ringCell : CellRef := ⟨ringXY, ringXY, 0⟩

/-- A memory reply from the ring to a memory cell, or from a home to the ring. -/
def sendReply (src dst : CellRef) (domain status op reqId offset : Nat) (data : List Byte) (s : State) : State :=
  send ⟨⟨src, dst, 4, domain, BitVec.ofNat 16 reqId⟩, false, 4, memRepBytes status op reqId offset data⟩ s

/-! ## Operations of the ring switch -/

/-- The operation writes (R281). -/
def memWrites (op : Nat) : Bool := 2 ≤ op && op ≤ 5

/-- The event of a failure status (R290, R294). -/
def memEvent (s : State) (status node domain : Nat) (pos : Option Nat) : EvReq :=
  ⟨0x27F + status, if status ≤ 4 then 2 else 1, 7, (partOfDomain s domain).getD 0xFF,
   (pos.map siteX).getD 0xFFFF, (pos.map siteY).getD 0xFFFF, 0xFF, domain, node, 0, false⟩

/-- Records a failure: its event, and a refusal of its partition for statuses 1 to 4 (R293, R294). -/
def memFails (status node domain : Nat) (pos : Option Nat) (s : State) : State :=
  let s := raise (memEvent s status node domain pos) s
  match partOfDomain s domain with
  | some p => if status ≤ 4 then modPart p (fun a => { a with refusedOps := a.refusedOps + 1 }) s else s
  | none => s

/-- Answers a host or another ring: LOAD_DATA, or MEM_REPLY (R292). -/
def answerMem (op node domain : Nat) (tag : BitVec 16) (status : Nat) (old : Word64) (done : Nat) (data : List Byte) (s : State) : State :=
  if op = 1 ∧ status = 0 then
    sendPkt node domain 0x1E (leBytes 2 tag.toNat ++ [0, 0] ++ leBytes 4 data.length ++ data) s
  else
    sendPkt node domain 0x1F
      (leBytes 2 tag.toNat ++ [BitVec.ofNat 8 status, 0] ++ leBytes 8 old.toNat ++ leBytes 4 done ++ List.replicate 16 0) s

/-- A bulk copy ends: its host is told, once (R287). -/
def endBulk (b status : Nat) (s : State) : State :=
  match amFind s.fabric.bulks b with
  | none => s
  | some c =>
    answerMem 6 c.node c.domain c.tag status 0 c.done []
      { s with fabric := { s.fabric with bulks := amDel s.fabric.bulks b } }

/-- Tells the issuer of an operation that it has failed (R287, R289, R290). -/
def tellFailed (op : RingOp) (status : Nat) (s : State) : State :=
  match op.issuer with
  | .host node domain tag _ => answerMem op.op node domain tag status op.old op.done [] s
  | .cell x y reqId domain => sendReply ringCell ⟨x, y, 3⟩ domain status op.op reqId 0 [] s
  | .bulkLoad b => endBulk b status s
  | .bulkStore b => endBulk b status s

/-- Takes an operation out. -/
def dropOp (id : Nat) (s : State) : State := { s with fabric := { s.fabric with ops := amDel s.fabric.ops id } }

/-- Replaces an operation. -/
def putOp (id : Nat) (op : RingOp) (s : State) : State := { s with fabric := { s.fabric with ops := amSet s.fabric.ops id op } }

/-- An operation fails: it ends, with its event (R287, R294). -/
def failOp (id status : Nat) (pos : Option Nat) (s : State) : State :=
  match amFind s.fabric.ops id with
  | none => s
  | some op => tellFailed op status (memFails status op.reqNode op.domain pos (dropOp id s))

/-- The refusal of R281 for a cached entry, if any. -/
def entryRefuses (s : State) (op : RingOp) (e : Word64) : Option Nat :=
  let v := e.toNat
  if !bitAt v 63 then some 2
  else if bitsOf v 61 56 ≠ op.domain then some 1
  else if memWrites op.op ∧ op.remote ∧ setting s 0x2E01 (bitsOf v 55 50 + 1) = 0 then some 3
  else none

/-- Operand or store bytes that go with a part. -/
def pieceData (op : RingOp) (p : Piece) : List Byte :=
  if op.op = 2 then slice op.data p.start p.len
  else if 3 ≤ op.op then leBytes 8 op.v.toNat ++ leBytes 8 op.s.toNat
  else []

/-- The length that a request names: the bytes asked for, or those of the data that it carries (R289). -/
def reqLen (op : RingOp) (p : Piece) : Nat := if op.op = 1 then p.len else (pieceData op p).length

/-- Sends every part of a translated operation to its home (R281, R289). -/
def sendPieces (id : Nat) (op : RingOp) (s : State) : State :=
  let s := (List.range op.pieces.length).foldl (fun s i =>
    match op.pieces[i]? with
    | none => s
    | some p =>
      match cached s op.cache p.pos with
      | none => s
      | some e =>
        let v := e.entry.toNat
        let rid := id * 64 + i
        send ⟨⟨ringCell, ⟨bitsOf v 49 41, bitsOf v 40 32, 3⟩, 4, op.domain, BitVec.ofNat 16 rid⟩, false, 3,
          memReqBytes op.op (memFlags op.size op.ty false) (reqLen op p) p.space p.offset rid (pieceData op p)⟩ s) s
  putOp id { op with pieces := op.pieces.map (fun p => { p with sent := true }) } s

/-- The positions of an operation. -/
def opPositions (op : RingOp) : List Nat := (op.pieces.map Piece.pos).eraseDups

/-- Translates an operation: misses are counted on its first try and wait for their fill; once every position is cached the
operation is refused as a whole or sent on (R278 to R281). -/
def tryOp (first : Bool) (id : Nat) (s : State) : State :=
  match amFind s.fabric.ops id with
  | none => s
  | some op =>
    if op.fwd.isSome || op.pieces.any Piece.sent then s
    else
      let ps := opPositions op
      let miss := ps.filter (fun p => (cached s op.cache p).isNone)
      let s := if first then
          { s with fabric := { s.fabric with misses := amMod s.fabric.misses op.cache 0 (· + miss.length) } }
        else s
      if !miss.isEmpty then s
      else
        let s := ps.foldl (fun s p => cacheHit op.cache p s) s
        match ps.findSome? (fun p => ((cached s op.cache p).bind (fun e => entryRefuses s op e.entry)).map (fun st => (st, p))) with
        | some (st, p) => failOp id st (some p) s
        | none => sendPieces id op s

/-- Some operation waits for a position in a cache. -/
def waitsFor (s : State) (cache pos : Nat) : Bool :=
  s.fabric.ops.any (fun e =>
    e.2.cache == cache && e.2.fwd.isNone && !e.2.pieces.any Piece.sent && (opPositions e.2).contains pos &&
    (cached s cache pos).isNone)

/-- A new operation starts at the ring switch. -/
def launch (op : RingOp) (s : State) : State :=
  let id := s.fabric.nextReq
  tryOp true id (putOp id op { s with fabric := { s.fabric with nextReq := (id + 1) % 67108864 } })

/-- An operation on another node is passed on to that node's ring switch with a tag of this one (R289, R292). -/
def passOn (op : RingOp) (node : Nat) (addr : Word64) (flags : Nat) (body : List Byte) (sw : Word64) (s : State) : State :=
  let id := s.fabric.nextReq
  let s := putOp id { op with fwd := some node } { s with fabric := { s.fabric with nextReq := (id + 1) % 67108864 } }
  let part := match op.issuer with
    | .cell x y _ _ => siteHolder s (siteKey x y)
    | _ => none
  if !hasSendKey s op.domain || (node ≥ 12288 && (hostRoute s node).isNone) then
    failOp id 6 none (enqueue ⟨node, op.domain, op.op, [], false, part⟩ s)
  else
    enqueue ⟨node, op.domain, op.op, memCmdBytes addr op.v sw op.len (BitVec.ofNat 16 id) flags ++ body, bitAt flags 4, part⟩ s

/-- Bytes of an atomic by its size code (R292). -/
def atomicBytes (size : Nat) : Nat := if size = 0 then 4 else 8

/-- The first refusal that an operation's own fields give: status 4 for what R276, R282 or R283 calls malformed, or for the
management domain (R246). A compressed store is held to its space by the places that it writes (R266), and an atomic's length is
that of its size code (R282, R292). -/
def malformed (s : State) (op : Nat) (g : GAddr) (len size ty domain : Nat) (framed : Bool) : Bool :=
  !g.good || domain == mgmtDomain s ||
  (if op ≤ 2 then len = 0 || len > 4064 || (!framed && !gFits g len)
   else size > 1 || len ≠ atomicBytes size || g.offset % atomicBytes size ≠ 0 || !gFits g (atomicBytes size) || (op ≠ 5 && ty = 3))

/-- Starts an operation of any requester (R281 to R283, R289). -/
def startOp (op : RingOp) (addr : Word64) (compressed : Bool) (s : State) : State :=
  let g := gAddr addr
  let pieces : Option (List Piece) :=
    if malformed s op.op g op.len op.size op.ty op.domain (op.op = 2 && compressed) then none
    else if op.op = 2 ∧ compressed then framePieces g op.data
    else some (piecesOf g 0 op.len)
  let ctrBad : Bool := match op.ctr with
    | some i => g.node == nodeId s && crestOwner s i != holder s (fieldOf g.pos)
    | none => false
  match pieces with
  | none => tellFailed op 4 (memFails 4 op.reqNode op.domain (if g.good then some g.pos else none) s)
  | some ps =>
    if (op.op = 2 ∧ op.data.length ≠ op.len) ∨ ctrBad then
      tellFailed op 4 (memFails 4 op.reqNode op.domain (some g.pos) s)
    else if g.domain ≠ op.domain then
      tellFailed op 1 (memFails 1 op.reqNode op.domain (some g.pos) s)
    else if g.node ≠ nodeId s then
      let sw := match op.ctr with
        | some i => BitVec.ofNat 64 (32768 + i)
        | none => op.s
      passOn op g.node addr (memFlags op.size op.ty compressed) (if op.op = 2 then op.data else []) sw s
    else launch { op with pieces := ps } s

/-! ## Bulk copies (R266, R286, R287) -/

/-- Present blocks of a block-sparse image, by the bitmap bits of its grid; bits beyond the grid are ignored (R126). -/
def presentBlocks (image : List Byte) (grid : Nat) : Nat :=
  ((List.range grid).filter (fun i => (image.getD (i / 8) 0).getLsbD (i % 8))).length

/-- The frames of R266 of a block-sparse image; none where its shape cannot be framed. -/
def frameImage (src : Word64) (image : List Byte) : Option (List (List Byte)) :=
  let (bm, bl, grid) := Config.tensorShape src image.length
  if bm = 0 ∨ 8 + bm * 64 > 4064 ∨ image.length < bm * 64 ∨ !([2, 3, 4, 8].contains bl) then none
  else
    let n := min (presentBlocks image (min grid (bm * 512))) ((image.length - bm * 64) / (bl * 64))
    let head := min n (min 64 ((4064 - 8 - bm * 64) / (bl * 64)))
    let per := min 64 (4056 / (bl * 64))
    let frame := fun (first count : Nat) (withMap : Bool) =>
      leBytes 2 first ++ leBytes 2 count ++ [BitVec.ofNat 8 bl, if withMap then 1 else 0] ++ leBytes 2 bm ++
      (if withMap then image.take (bm * 64) else []) ++ slice image ((bm + first * bl) * 64) (count * bl * 64)
    some (frame 0 head true ::
      (List.range ((n - head + per - 1) / per)).map (fun i => frame (head + i * per) (min per (n - head - i * per)) false))

/-- The next read of a bulk copy, at most 4,064 bytes in ascending order (R286). -/
def bulkRead (b : Nat) (c : BulkOp) (fromByte : Nat) (s : State) : State :=
  let n := min 4064 (c.len - fromByte)
  let s := { s with fabric := { s.fabric with bulks := amSet s.fabric.bulks b { c with piece := n } } }
  startOp { op := 1, issuer := .bulkLoad b, domain := c.domain, remote := true, cache := c.port, reqNode := c.node, len := n }
    (c.src + BitVec.ofNat 64 fromByte) false s

/-- The next store of a bulk copy; the last one carries the completion counter (R286, R287). -/
def bulkWrite (b : Nat) (c : BulkOp) (addr : Word64) (data : List Byte) (framed last : Bool) (s : State) : State :=
  let s := { s with fabric := { s.fabric with bulks := amSet s.fabric.bulks b c } }
  startOp { op := 2, issuer := .bulkStore b, domain := c.domain, remote := true, cache := c.port, reqNode := c.node
            len := data.length, data := data, ctr := if last then c.ctr else none } addr framed s

/-- A read of a bulk copy has come back. -/
def bulkLoaded (b : Nat) (data : List Byte) (s : State) : State :=
  match amFind s.fabric.bulks b with
  | none => s
  | some c =>
    if c.compressed then
      let c := { c with image := c.image ++ data }
      if c.image.length < c.len then bulkRead b c c.image.length s
      else
        match frameImage c.src c.image with
        | some (f :: rest) => bulkWrite b { c with frames := rest } c.dst f true rest.isEmpty s
        | _ =>
          let c := { c with compressed := false }
          bulkWrite b { c with piece := min 4064 c.len } c.dst (c.image.take 4064) false (c.len ≤ 4064) s
    else bulkWrite b c (c.dst + BitVec.ofNat 64 c.done) data false (c.done + data.length ≥ c.len) s

/-- A store of a bulk copy is done: the next one follows, or the copy is complete (R286, R287). -/
def bulkStored (b : Nat) (s : State) : State :=
  match amFind s.fabric.bulks b with
  | none => s
  | some c =>
    if c.compressed then
      match c.frames with
      | f :: rest => bulkWrite b { c with frames := rest } c.dst f true rest.isEmpty s
      | [] => endBulk b 0 { s with fabric := { s.fabric with bulks := amSet s.fabric.bulks b { c with done := c.len } } }
    else
      let c := { c with done := c.done + c.piece }
      if c.done ≥ c.len then endBulk b 0 { s with fabric := { s.fabric with bulks := amSet s.fabric.bulks b c } }
      else if !c.image.isEmpty then
        let n := min 4064 (c.len - c.done)
        bulkWrite b { c with piece := n } (c.dst + BitVec.ofNat 64 c.done) (slice c.image c.done n) false (c.done + n ≥ c.len) s
      else bulkRead b c c.done s

/-- Two regions overlap (R286). -/
def overlaps (a b : GAddr) (n : Nat) : Bool :=
  let x := a.pos * 2097152 + a.offset
  let y := b.pos * 2097152 + b.offset
  a.node == b.node && a.space == b.space && x < y + n && y < x + n

/-- Starts a BULK_COPY at the wafer that holds its first source byte (R282, R286, R287); another wafer passes it on. -/
def startBulk (p : Pkt) (m : MemCmd) (s : State) : State :=
  let a := gAddr m.addr
  let d := gAddr m.v
  let ctrBad := m.ctrEnable && d.node == nodeId s && crestOwner s m.ctrIndex != holder s (fieldOf d.pos)
  if !gFits a m.len ∨ !gFits d m.len ∨ m.len < 64 ∨ m.len % 64 ≠ 0 ∨ m.len > 4294967232 ∨ a.domain ≠ d.domain ∨
      overlaps a d m.len ∨ ctrBad ∨ p.domain = mgmtDomain s then
    answerMem 6 p.node p.domain m.tag 4 0 0 [] (memFails 4 p.node p.domain (if a.good then some a.pos else none) s)
  else if a.domain ≠ p.domain then
    answerMem 6 p.node p.domain m.tag 1 0 0 [] (memFails 1 p.node p.domain (some a.pos) s)
  else if a.node ≠ nodeId s then
    passOn { op := 6, issuer := .host p.node p.domain m.tag p.port, domain := p.domain, remote := true, cache := p.port, v := m.v
             reqNode := p.node, len := m.len } a.node m.addr (memFlags 0 0 m.compressed) []
      (if m.ctrEnable then BitVec.ofNat 64 (32768 + m.ctrIndex) else 0) s
  else
    let b := s.fabric.nextBulk
    let c : BulkOp := { src := m.addr, dst := m.v, len := m.len, domain := p.domain, node := p.node, tag := m.tag, port := p.port
                        compressed := m.compressed, ctr := if m.ctrEnable then some m.ctrIndex else none }
    bulkRead b c 0 { s with fabric := { s.fabric with nextBulk := b + 1 } }

/-- A memory command of a host or of another ring (R282, R292). -/
def startCmd (op : Nat) (p : Pkt) (m : MemCmd) (data : List Byte) (s : State) : State :=
  startOp { op := op, issuer := .host p.node p.domain m.tag p.port, domain := p.domain, remote := p.node != nodeId s
            cache := p.port, v := m.v, s := m.s, size := m.size, ty := m.ty, reqNode := p.node, len := m.len, data := data
            ctr := if op = 2 && m.ctrEnable then some m.ctrIndex else none } m.addr m.compressed s

/-! ## Success (R287, R289) -/

/-- The pieces of a LOAD's data as the ring returns them to a memory cell (R289). -/
def replyCell (x y reqId domain op : Nat) (data : List Byte) (s : State) : State :=
  (List.range ((data.length + 255) / 256)).foldl (fun s i =>
    sendReply ringCell ⟨x, y, 3⟩ domain 0 op reqId (i * 256) ((data.drop (i * 256)).take 256) s) s

/-- Every part of an operation has been performed: its issuer is told, and a copy goes on (R286, R287). -/
def succeedOp (id : Nat) (op : RingOp) (s : State) : State :=
  let s := dropOp id s
  let s := match op.fwd, op.pieces.head? with
    | none, some p =>
      (match siteHolder s p.pos with
       | some q => modPart q (fun a => { a with served := a.served + 1 }) s
       | none => s)
    | _, _ => s
  let s := match op.fwd, op.ctr with
    | none, some i =>
      if (siteHolder s ((op.pieces.head?.map Piece.pos).getD 0)).isSome && crestOwner s i == siteHolder s ((op.pieces.head?.map Piece.pos).getD 0)
      then
        let p := (crestOwner s i).getD 0
        afterCtr (.crest i) (crestProduce p i 1 s)
      else s
    | _, _ => s
  match op.issuer with
  | .host node domain tag _ => answerMem op.op node domain tag 0 op.old op.len op.data s
  | .cell x y reqId domain =>
    if op.op = 1 then replyCell x y reqId domain op.op op.data s
    else sendReply ringCell ⟨x, y, 3⟩ domain 0 op.op reqId 0 (leBytes 8 op.old.toNat) s
  | .bulkLoad b => bulkLoaded b op.data s
  | .bulkStore b => bulkStored b s

/-- Bytes put into a string at an offset; the string grows with zeros where it is shorter. -/
def putBytes (bs : List Byte) (off : Nat) (new : List Byte) : List Byte :=
  slice bs 0 off ++ new ++ bs.drop (off + new.length)

/-- A home's reply reaches the ring (R287, R289): the first failure ends the operation, the last reply completes it. -/
def ringReply (m : MemRep) (s : State) : State :=
  let id := m.reqId / 64
  match amFind s.fabric.ops id with
  | none => s
  | some op =>
    match op.pieces[m.reqId % 64]? with
    | none => s
    | some p =>
      if p.ended || !p.sent then s
      else if m.status ≠ 0 then failOp id m.status (some p.pos) s
      else
        let op := { op with
          pieces := op.pieces.set (m.reqId % 64) { p with ended := true }
          data := if op.op = 1 then putBytes op.data p.start m.data else op.data
          old := if 3 ≤ op.op then m.old else op.old
          done := op.done + p.len }
        if op.pieces.all Piece.ended then succeedOp id op s else putOp id op s

/-- A FAIL_NOTICE about a memory packet of the ring (R204, R290): a refused delivery is a domain mismatch, an unserved home a
position not valid, a mesh fault a lost packet. -/
def noticeStatus (reason : Nat) : Nat :=
  match reason with
  | 3 => 2
  | 4 => 1
  | _ => 6

/-- The ring's own packet was lost. -/
def ringLost (reqId reason : Nat) (s : State) : State :=
  ringReply ⟨noticeStatus reason, 0, reqId, 0, [], 0⟩ s

/-- The answer of another ring to an operation passed on, in that operation's domain (R246, R289, R292). -/
def passedReply (node domain : Nat) (m : MemRep) (s : State) : State :=
  match s.fabric.ops.find? (fun e => e.2.fwd == some node && e.2.domain == domain && e.1 % 65536 == m.reqId % 65536) with
  | none => s
  | some (id, op) =>
    if m.status ≠ 0 then tellFailed { op with done := m.offset } m.status (dropOp id s)
    else if op.op = 1 ∧ m.data.length ≠ op.len then failOp id 6 none s
    else succeedOp id { op with data := m.data, old := m.old } s

/-- A packet of the device has been resolved as refused or failed: an operation passed on in it fails (R270, R287, R290). -/
def memLost (q : Packet) (refused : Bool) (s : State) : State :=
  if 1 ≤ q.opcode && q.opcode ≤ 6 then
    match s.fabric.ops.find? (fun e => e.2.fwd == some q.dst && e.1 % 65536 == fieldAt q.data 28 2) with
    | some (id, _) => failOp id (if refused then 1 else 6) none s
    | none => s
  else s

/-! ## At the home (R282 to R285) -/

/-- The value that an atomic leaves (R282, R283). -/
def atomicNew (op ty size : Nat) (m v sw : Nat) : Nat :=
  let w := size * 8
  let v := v % 2 ^ w
  match op with
  | 3 =>
    if ty = 2 then
      let f := if size = 8 then 10 else 9
      (convertOut false f (rndOf 0) (numAdd (rndOf 0) (decodeKept f m) (decodeKept f v)).1).1
    else (m + v) % 2 ^ w
  | 4 =>
    if ty = 2 then
      let f := if size = 8 then 10 else 9
      (convertOut false f (rndOf 0) (numMax (decodeKept f m) (decodeKept f v))).1
    else if ty = 1 then (if signed w m < signed w v then v else m)
    else max m v
  | _ => if m = v then sw % 2 ^ w else m

/-- A memory cell performs a remote request and answers it (R282 to R286): status 5 where a word it reads has an uncorrectable error,
which is a cell fault of the memory cell as well (R67, R85, R86; DEDUCED, log 132). DESIGN CHOICE (log 131): a store that covers only
part of a word with an error succeeds, and the word's mark goes. -/
def homePerform (h : Head) (m : MemReq) (s : State) : State :=
  let k := dstSite h
  let size := if m.op = 1 then m.len else if m.op = 2 then m.data.length else atomicBytes m.size
  let key := placeKey k m.space m.offset
  let reply := fun (status : Nat) (data : List Byte) (s : State) =>
    sendReply ⟨siteX k, siteY k, 3⟩ h.src h.domain status m.op m.reqId 0 data s
  let s := countAccess k m.space (accessesOf m.space [(key, size)]) s
  if m.op = 2 then reply 0 [] (writeBytes key m.data s)
  else
    let s := touchRead key size s
    if hasDouble s key size then
      cellFault k 3 4 (if m.space = 0 then 0x104 else if m.space = 1 then 0x103 else 0x102) (reply 5 [] (noteUncorrected k s))
    else if m.op = 1 then reply 0 (readBytes s key size) s
    else
      let old := leNat (readBytes s key size)
      let new := atomicNew m.op m.ty size old m.v.toNat m.s.toNat
      reply 0 (leBytes 8 old) (if new = old then s else writeBytes key (leBytes size new) s)

/-- A generator of a running tile that may act waits for its overlay: with its strips to send it is halo exchange, else it moves data
for its cells (R66, R68). -/
def overlayWants (s : State) (k : Nat) (halo : Bool) (g : AG) : Bool :=
  let strips := agHasHalo g.cfg && g.haloSent ≤ g.next
  g.expected == 0 && agReady s k g &&
  (if halo then strips && (agSrc g.cfg).1 == 0
   else !strips && ((agSrc g.cfg).1 == 0 || (agDst g.cfg).1 == 0) && (!agHasHalo g.cfg || haloReady s k g))

/-- A class above remote requests waits for the overlay, in the service order of the partition's role: pour generators and halo
exchange, draw generators, hold none (R40, R68). DEDUCED at this grain (log 138). -/
def remoteWaits (s : State) (k : Nat) : Bool :=
  let wants := fun (halo : Bool) => (getTile s k).run == .running && (List.range 4).any (fun g => overlayWants s k halo (getAG s k g))
  match ((siteHolder s k).bind (getPart s)).map Part.role with
  | some 0 => wants false || wants true
  | some 1 => wants false
  | _ => false

/-- The memory cell performs its remote requests in arrival order, as long as no higher class waits for the overlay (R43, R68,
R83). -/
def mcServeN (k : Nat) : Nat → State → State
  | 0, s => s
  | n + 1, s =>
    match (getTile s k).remote with
    | [] => s
    | (h, m) :: rest =>
      if m.space = 0 && remoteWaits s k then s
      else mcServeN k n (homePerform h m (modTile k (fun t => { t with remote := rest }) s))

/-- The memory cell of a site goes on with its remote requests. -/
def mcServe (k : Nat) (s : State) : State := mcServeN k (getTile s k).remote.length s

/-- A remote request reaches its home and is served in turn (R68, R83, R288). -/
def homeTake (h : Head) (m : MemReq) (s : State) : State :=
  mcServe (dstSite h) (modTile (dstSite h) (fun t => { t with remote := t.remote ++ [(h, m)] }) s)

/-- Every memory cell goes on with its remote requests. -/
def mcServeAll (s : State) : State :=
  ((s.tiles.filter (fun e => !e.2.remote.isEmpty)).map Prod.fst).foldl (fun s k => mcServe k s) s

/-! ## Descriptors (R211, R212, R286, R288) -/

/-- A descriptor's words (R211). -/
def readDesc (w0 w1 w2 w3 : Word32) : Desc :=
  let a := w2.toNat
  let b := w3.toNat
  { src := BitVec.ofNat 64 (w0.toNat + w1.toNat * 2 ^ 32), len := bitsOf a 31 16 * 64, space := bitsOf a 15 14
    line := bitsOf b 31 17, crest := bitAt b 16, index := bitsOf b 15 2, domain := bitsOf w1.toNat 31 26 }

/-- Event 0x188 of a memory cell (R236). -/
def descFault (k : Nat) (s : State) : State := raise (evCell s 0x188 1 ⟨siteX k, siteY k, 3⟩ 0) s

/-- One LOAD of an executing descriptor, while it has fewer than 8 outstanding (R286). -/
def issueLoad (k i : Nat) (s : State) : State :=
  let t := getTile s k
  match t.descs[i]? with
  | none => s
  | some d =>
    if d.loads.length ≥ 8 ∨ d.issued ≥ d.len then s
    else
      let n := min 4064 (d.len - d.issued)
      let rid := t.nextReq % 2 ^ 32
      let addr := d.src + BitVec.ofNat 64 d.issued
      let d' := { d with issued := d.issued + n, loads := amSet d.loads rid (d.issued, n) }
      send ⟨⟨⟨siteX k, siteY k, 3⟩, ringCell, 4, d.domain, BitVec.ofNat 16 rid⟩, false, 3,
          memReqBytes 1 0 n (gAddr addr).space (gAddr addr).offset rid []⟩
        (modTile k (fun t => { t with descs := t.descs.set i d', nextReq := t.nextReq + 1 }) s)

/-- Every executing descriptor of a tile issues what it may. -/
def issueLoads (k : Nat) (s : State) : State :=
  (List.range (getTile s k).descs.length).foldl (fun s i => (List.range 8).foldl (fun s _ => issueLoad k i s) s) s

/-- Descriptors that wait begin, at most 4 at a time, in arrival order (R288): a reserved space or length is discarded, a
destination beyond its space is a cell fault (R212). -/
def promoteDescs (k : Nat) : Nat → State → State
  | 0, s => s
  | n + 1, s =>
    let t := getTile s k
    if t.descs.length ≥ 4 then s
    else
      match t.waiting with
      | [] => s
      | d :: rest =>
        let s := modTile k (fun t => { t with waiting := rest }) s
        promoteDescs k n
          (if d.space ≥ 2 ∨ d.len = 0 ∨ d.len > 2097152 then descFault k s
           else if d.line * 64 + d.len > spaceSize d.space then cellFault k 3 4 0x105 s
           else modTile k (fun t => { t with descs := t.descs ++ [d] }) s)

/-- The memory cell goes on with its descriptors. -/
def runDescs (k : Nat) (s : State) : State := issueLoads k (promoteDescs k ((getTile s k).waiting.length + 1) s)

/-- A descriptor reaches the service port (R211, R288). -/
def postDesc (k : Nat) (d : Desc) (s : State) : State :=
  runDescs k (modTile k (fun t => { t with waiting := t.waiting ++ [d] }) s)

/-- A descriptor leaves its memory cell. -/
def dropDesc (k i : Nat) (s : State) : State := modTile k (fun t => { t with descs := t.descs.eraseIdx i }) s

/-- A finished descriptor produces 1 on its counter, which must lie in its tile's partition (R212, R217). -/
def descProduce (k : Nat) (d : Desc) (s : State) : State :=
  let key : CtrKey := if d.crest then .crest d.index else .tile k d.index
  let self : CellRef := ⟨siteX k, siteY k, 3⟩
  if ctrOwner s key ≠ siteHolder s k ∨ (siteHolder s k).isNone then raise (evCtr s 0x182 2 key 0) s
  else if ctrFrozen s key then
    holdCtr key (.ctrProduce ⟨self, if d.crest then ctrHolder key else self, 5, (siteDomain s k).getD 0, 0⟩
      ⟨d.crest, d.index, false, self, 0⟩ 1) s
  else afterCtr key (applyCtr 1 1 key s).2

/-- The index of the executing descriptor that waits for a request ID. -/
def descOf (s : State) (k reqId : Nat) : Option (Nat × Desc × Nat × Nat) :=
  let ds := (getTile s k).descs
  (List.range ds.length).findSome? (fun i =>
    match ds[i]? with
    | some d => (amFind d.loads reqId).map (fun l => (i, d, l.1, l.2))
    | none => none)

/-- A reply to a LOAD of a descriptor reaches the memory cell: its bytes are written at their place; a failed part ends the
descriptor with event 0x188 (R212, R286, R289). -/
def cellReply (k : Nat) (m : MemRep) (s : State) : State :=
  match descOf s k m.reqId with
  | none => s
  | some (i, d, start, left) =>
    if m.status ≠ 0 then runDescs k (descFault k (dropDesc k i s))
    else
      let n := m.data.length
      let s := countAccess k d.space 1 (writeBytes (placeKey k d.space (d.line * 64 + start + m.offset)) m.data s)
      let loads := if left ≤ n then amDel d.loads m.reqId else amSet d.loads m.reqId (start, left - n)
      let d' := { d with loads := loads, arrived := d.arrived + n }
      if d'.arrived ≥ d'.len ∧ loads.isEmpty then runDescs k (descProduce k d (dropDesc k i s))
      else issueLoads k (modTile k (fun t => { t with descs := t.descs.set i d' }) s)

/-- A memory packet of a memory cell was lost in the mesh or refused (R204, R212, R290). -/
def cellLost (k reqId reason : Nat) (s : State) : State :=
  match descOf s k reqId with
  | none => s
  | some (_, d, _, _) =>
    let st := noticeStatus reason
    cellReply k ⟨st, 1, reqId, 0, [], 0⟩ (memFails st (nodeId s) d.domain (some (gAddr d.src).pos) s)

end Sys2Proof.Machine
end

