-- ==== Sys2Proof/Machine/Pins.lean ====
section
/-!
DEFINITION. The sideband pins: function writes, output levels, samples and sync pulses (R457 to R461).
-/

namespace Sys2Proof.Machine

/-- A sideband pin. -/
def getPin (s : State) (i : Nat) : Pin := amGet s.pilot.pins i {}

/-- Changes a sideband pin. -/
def modPin (i : Nat) (g : Pin → Pin) (s : State) : State :=
  { s with pilot := { s.pilot with pins := amMod s.pilot.pins i {} g } }

/-- Another pin carries the pulse-per-second function, or has been given it (R457). -/
def ppsTaken (s : State) (i : Nat) : Bool := (List.range 8).any (fun j => j != i && setting s 0x4000 (j + 1) == 3)

/-- Accepts a function for a pin: the old function keeps its level, and the new one takes over at the next reference edge. A
pin that is still switching holds the write (R458). A sync-out pulse is cut, and the keeper holds the pin (R459). -/
def pinFunction (i f : Nat) (s : State) : State :=
  let p := getPin s i
  let s := if p.func = 3 ∧ f ≠ 3 then { s with time := { s.time with ppsOffset := 0x7FFFFFFF } } else s
  if p.switching.isSome then modPin i (fun p => { p with later := some f }) s
  else modPin i (fun p => { p with switching := some f, pulse := false }) s

/-- The output level of a pin takes effect while its function is output (R459). -/
def pinLevel (i : Nat) (v : Bool) (s : State) : State :=
  let p := getPin s i
  if p.func = 1 ∧ p.switching = none then modPin i (fun p => { p with drive := some v }) s else s

/-- The stored functions are applied at power-up step 5, each as a switch (R460). -/
def pinsRestore (s : State) : State :=
  (List.range 8).foldl (fun s i =>
    let f := setting s 0x4000 (i + 1)
    if f = (getPin s i).func then s else pinFunction i f s) s

/-- Time-stamps a pulse-per-second edge: the time of day less the nearest whole second, in ns (R457, R311). -/
def ppsStamp (s : State) : State :=
  let r := s.time.tod.toNat % 1000000000
  let off : Int := if r ≥ 500000000 then (r : Int) - 1000000000 else (r : Int)
  { s with time := { s.time with ppsOffset := BitVec.ofInt 32 off } }

/-- An input is sampled at a reference edge with a new level: the wake sources that its edge fires, and the state (R457,
R419). -/
def pinSample (i : Nat) (level : Bool) (s : State) : List Nat × State :=
  let s := addCycles 1 s
  let p := getPin s i
  let rising := level && !p.sample
  let falling := !level && p.sample
  let s := modPin i (fun p => { p with sample := level, level := if p.func = 1 ∨ p.func = 4 then p.level else level }) s
  let s := if p.func = 3 ∧ rising then ppsStamp s else s
  (if p.func = 2 then (if falling then [i] else if rising then [8 + i] else []) else [], s)

/-- The events of a kind start a pulse on every sync-out pin whose source is that kind (R457, R459). -/
def syncPulse (source : Nat) (s : State) : State :=
  { s with pilot := { s.pilot with pins := amMap s.pilot.pins (fun i (p : Pin) =>
      if p.func = 4 ∧ p.switching = none ∧ setting s 0x4003 (i + 1) = source then { p with drive := some true, pulse := true }
      else p) } }

/-- A sync pulse ends (R459). -/
def syncEnd (i : Nat) (s : State) : State :=
  modPin i (fun p => if p.pulse then { p with pulse := false, drive := some false } else p) s

end Sys2Proof.Machine
end

