-- ==== Sys2Proof/Machine/Resets.lean ====
section
/-!
DEFINITION. Creating, deleting, resetting and scrubbing partitions; field, wafer and module resets; the power-up sequence; changes
of the lease (R329, R370, R371, R380, R406, R428 to R440).
-/

namespace Sys2Proof.Machine

/-! ## Clearing -/

/-- What a tile keeps when its stores and cells are cleared: its router's entries and its error history. -/
def keepTile (t : Tile) : Tile :=
  { detours := t.detours, routerOff := t.routerOff, corrected := t.corrected, correctedHour := t.correctedHour
    uncorrected := t.uncorrected }

/-- Clears the cells, counters and stores of sites (R380, R431). -/
def clearSites (p : Nat → Bool) (s : State) : State :=
  zeroSites p { s with tiles := s.tiles.map (fun e => if p e.1 then (e.1, keepTile e.2) else e) }

/-- Takes out the crest counters of a range of indexes and the watches on them: they start again as a new partition's (R221). -/
def clearCrest (p : Nat → Bool) (s : State) : State :=
  { s with crest := { s.crest with
      counters := s.crest.counters.filter (fun e => !p e.1)
      watches := s.crest.watches.filter (fun w => match w.key with | .crest i => !p i | .tile _ _ => true) } }

/-- Clears a field that loses its power: stores, tile counters, field-held crest counters, watches (R431). -/
def clearField (f : Nat) (s : State) : State :=
  let s := clearCrest (fun i => i < 14336 && i / 256 == f) (clearSites (fun k => fieldOf k == f) s)
  { s with crest := { s.crest with watches := s.crest.watches.filter (fun w =>
      match w.key with | .tile k _ => fieldOf k != f | .crest _ => true) } }

/-- The request comes from a tile or field of a partition (R411). -/
def ofPart (a : Part) (e : EvReq) : Bool :=
  (e.cls == 0 && inPart a (siteKey e.x e.y)) || (e.cls == 1 && (partFields a).contains e.unit)

/-- A counter holds something (R440). -/
def ctrUsed (v : Counter) : Bool := v.p != 0 || v.c != 0

/-- Counters of a partition with p or c not zero (R440). -/
def usedCounters (s : State) (p : Nat) : Nat :=
  ((s.tiles.filter (fun e => siteHolder s e.1 == some p)).map (fun e => (e.2.counters.filter (fun c => ctrUsed c.2)).length)).sum +
  (s.crest.counters.filter (fun e => crestOwner s e.1 == some p && ctrUsed e.2)).length

/-- Writes the loss report (R440, R446). -/
def writeLoss (scope failed abandoned counters energy since : Nat) (s : State) : State :=
  { s with pilot := { s.pilot with lossTime := s.time.tod, lossScope := scope, lossFailed := failed, lossAbandoned := abandoned
                                   lossCounters := counters, lossEnergy := energy, lossDuration := (now s - since) / usT } }

/-! ## Self-test ends (R433, R442, R444) -/

/-- The running self-test ends without a result: 0x68 or 0x69; the idle fields that it held are free again (R444, R445). -/
def endTest (code : Nat) (s : State) : State :=
  if s.test.st ≠ 1 then s
  else
    let s := s.test.held.foldl (fun s f => modFld f (fun x => { x with owner := .idle }) s) s
    raise (evCtl 0x3CD 1 (activeCtl s) code) { s with test := { s.test with st := 5, code := code, held := [] } }

/-- The running self-test's scope covers a field. -/
def testCovers (s : State) (f : Nat) : Bool :=
  s.test.st == 1 &&
  (let scope := bitsOf s.test.echo.toNat 23 16
   let id := bitsOf s.test.echo.toNat 15 8
   scope == 2 || (scope == 1 && id == f) || (scope == 0 && holder s f == some id))

/-- A reset of some fields ends a self-test on them (R433). -/
def resetTest (fs : List Nat) (s : State) : State := if fs.any (testCovers s) then endTest 0x68 s else s

/-! ## Reservations (R329, R330) -/

/-- Reservation per field and pool weight of a role (R329). -/
def roleBudget (role : Nat) : Nat × Nat :=
  match role with
  | 0 => (400, 4)
  | 1 => (350, 2)
  | _ => (150, 1)

/-- Gives a partition a reservation and a weight, reduced to the largest multiple of G that the reservable limit leaves, with
event 0x00D (R329, R330). With cadence admitted it holds at least the reservation that it has (R164). -/
def reserve (p want weight : Nat) (s : State) : State :=
  match getPart s p with
  | none => s
  | some a =>
    let g := granularity s
    let want := want / g * g
    let free := (setting s 0x2200 8 - (sumReserved s - a.reservation)) / g * g
    let got := if a.cadence.isSome then max (min want free) a.reservation else min want free
    let s := modPart p (fun a => { a with reservation := got, weight := weight, inForce := (got, weight) }) s
    if free < want then raise (evPart s 0x00D 2 p got) s else s

/-- Applies a role's defaults (R329). -/
def applyRole (p role : Nat) (s : State) : State :=
  match getPart s p with
  | none => s
  | some a => reserve p ((roleBudget role).1 * (a.width * a.height)) (roleBudget role).2 (modPart p (fun a => { a with role := role }) s)

/-! ## Creation (R370) -/

/-- The objects that hold one setting for each partition (R422). -/
def partSettings : List Nat := [0x2D12, 0x2D20, 0x2D21, 0x2D22, 0x2D23, 0x2E01, 0x2A05]

/-- Takes out a partition's settings: they read their defaults (R422). -/
def dropPartSettings (p : Nat) (s : State) : State :=
  { s with regs := s.regs.filter (fun e => !(partSettings.contains (e.1 / 256) && e.1 % 256 == p + 1)) }

/-- Takes out the stored records of a partition that was not created at its power-up step (R422). -/
def dropBoot (p : Nat) (s : State) : State :=
  { s with settings := { s.settings with boot := s.settings.boot.filter (fun r => r.key % 256 != p + 1) } }

/-- R370 allows a creation. -/
def mayCreate (s : State) (fx fy w h domain role : Nat) : Bool :=
  role < 3 && fx + w ≤ 8 && fy + h ≤ 7 &&
  (rectFields fx fy w h).all (fun f => (getFld s f).owner == .idle && (getClk s f).st == .locked) &&
  domain != mgmtDomain s && (partOfDomain s domain).isNone

/-- Creates a partition that R370 allows: owners, span map, counters, reservation; event 0x303 (R370). -/
def createPart (fx fy w h domain role : Nat) (kept : Option Part) (s : State) : State :=
  let p := fy * 8 + fx
  let fs := rectFields fx fy w h
  let a : Part := (kept.getD {})
  let s := { s with parts := amSet s.parts p { a with fx := fx, fy := fy, width := w, height := h, domain := domain, role := role
                                                      pstate := .ready } }
  let s := fs.foldl (fun s f => modFld f (fun x => { x with owner := .held p }) s) s
  let s := clearCrest (fun i => i < 14336 && fs.contains (i / 256)) (spanFields fs true s)
  let s := match kept with
    | some b => reserve p b.reservation b.weight s
    | none => applyRole p role (dropBoot p (dropPartSettings p s))
  noteChange (raise (evPart s 0x303 0 p 0) s)

/-- The creation that a value of 0x2400:01 names; nothing where R370 refuses it (R370, R391). -/
def tryCreate (v : Nat) (s : State) : Bool × State :=
  let fx := bitsOf v 31 29
  let fy := bitsOf v 28 26
  let w := bitsOf v 25 23 + 1
  let h := bitsOf v 22 20 + 1
  let d := bitsOf v 19 14
  let role := bitsOf v 13 12
  if mayCreate s fx fy w h d role then (true, createPart fx fy w h d role none s)
  else (false, raise (evCtl 0x302 2 (activeCtl s) v) s)

/-! ## Partition reset, scrub and delete (R371, R380, R437, R438) -/

/-- The fields of a partition begin their scrub (R437, R380). -/
def startScrub (p : Nat) (s : State) : State := modPart p (fun a => { a with pstate := .scrubbing }) s

/-- A delete takes the partition out of the span map and the settings; its wafer-crest range is free; event 0x304 (R371). -/
def deleteSpan (p : Nat) (s : State) : State :=
  match getPart s p with
  | none => s
  | some a =>
    let fs := partFields a
    let s := spanFields fs false s
    let s := clearCrest (fun i => 14336 ≤ i && crestOwner s i == some p) s
    let s := { s with crest := { s.crest with base := amDel s.crest.base p, count := amDel s.crest.count p } }
    let s := fs.foldl (fun s f => modFld f (fun x => { x with owner := .scrubbing }) s) s
    noteChange (raise (evPart s 0x304 0 p 0) s)

/-- A partition reset goes on: its fields are back and its fabric operations resolved, so the scrub begins (R437); a delete
that waited for it proceeds (R433). -/
def advanceReset (p : Nat) (s : State) : State :=
  match getPart s p with
  | none => s
  | some a =>
    match a.reset with
    | none => s
    | some r =>
      if a.pstate = .resetting ∧ r.fields = [] ∧ partOutstanding s p = 0 then
        (if r.deleting then deleteSpan p (startScrub p s) else startScrub p s)
      else s

/-- Starts a partition reset for a cause, with the fields under a field reset; one in progress only takes in the fields and the
delete (R433, R437). -/
def beginReset (p cause : Nat) (fields : List Nat) (deleting : Bool) (s : State) : State :=
  match getPart s p with
  | none => s
  | some a =>
    match a.reset with
    | some r =>
      modPart p (fun a => { a with reset := some { r with deleting := r.deleting || deleting, fields := (r.fields ++ fields).eraseDups } }) s
    | none =>
      let t := now s
      let n := usedCounters s p
      let s := resetTest (partFields a) s
      let s := abortRun p 0x44 s
      let sites := (s.tiles.filter (fun e => siteHolder s e.1 == some p)).map Prod.fst
      let s := sites.foldl (fun s k => modTile k (fun t =>
        { t with descs := [], waiting := [], opsOut := 0, heldOps := [], arrivedAt := false }) (tileReset k s)) s
      let s := dropWatches p (setReg (0x2D2000 + p + 1) 0 s)
      let s := withdraw (ofPart a) s
      let s := modPart p (fun a => { a with
        pstate := .resetting, resets := a.resets + 1, resetCause := cause, frozen := false, heldCrest := [], hostOps := [], job := none
        current := none, queue := [], resident := [], commits := [], cadence := none, sampling := none, early := []
        reset := some { since := t, deleting := deleting, fields := fields, discarded := n } }) s
      advanceReset p (raise (evPart s 0x3C4 1 p cause) s)

/-- Reports every fabric operation that a partition still has outstanding as failed: credits and records are released (R437,
R438). -/
def abandonOps (p : Nat) (s : State) : State :=
  let out := s.fabric.tx.flatMap (fun e => (e.2.out.filter (fun o => o.wire.pkt.part == some p)).map (fun o => (o.wire.pkt.dst, o.wire.pkt.domain, o.seq)))
  let wait := (s.fabric.tx.map (fun e => (e.2.waiting.filter (fun q => q.part == some p)).length)).sum
  let s := out.foldl (fun s e => resolveOut e.1 e.2.1 e.2.2 .failed s) s
  let s := { s with fabric := { s.fabric with
      tx := s.fabric.tx.map (fun e => (e.1, { e.2 with waiting := e.2.waiting.filter (fun q => q.part != some p) }))
      ops := s.fabric.ops.filter (fun e => match e.2.issuer with | .cell x y _ _ => siteHolder s (siteKey x y) != some p | _ => true)
      failedPkts := s.fabric.failedPkts + wait } }
  let n := out.length + wait
  modPart p (fun a => { a with reset := a.reset.map (fun r => { r with failed := r.failed + n, abandoned := r.abandoned + n }) }) s

/-- An outstanding packet is resolved (R259, R263), with what follows for a memory operation passed on in it and for a reset of
the partition that issued it (R287, R437). -/
def resolvePkt (dst domain seq : Nat) (how : Resolved) (s : State) : State :=
  match (getTx s dst domain).out.find? (fun o => o.seq == seq) with
  | none => s
  | some o =>
    let q := o.wire.pkt
    let s := resolveOut dst domain seq how s
    let s := if how = .delivered then s else memLost q (how == .refused) s
    match q.part with
    | some p =>
      let bad := how == .failed
      advanceReset p (modPart p (fun a => { a with reset := a.reset.map (fun r => if bad then { r with failed := r.failed + 1 } else r) }) s)
    | none => s

/-- A partition that no longer exists: its fields are idle (R371). -/
def freePart (p : Nat) (s : State) : State :=
  match getPart s p with
  | none => s
  | some a =>
    let s := (partFields a).foldl (fun s f => modFld f (fun x => { x with owner := .idle }) s) s
    let c := ((getPart s p).map Part.secondCredit).getD 0
    dropPartSettings p { s with parts := amDel s.parts p, power := { s.power with houseSecond := s.power.houseSecond + c } }

/-- The domain's packets in the reorder store are discarded (R380). -/
def dropHeld (domain : Nat) (s : State) : State :=
  { s with fabric := { s.fabric with rx := s.fabric.rx.map (fun e =>
      if e.1 % 64 = domain then (e.1, { e.2 with held := [], passed := [] }) else e) } }

/-- A field of the partition stays unpowered after a field supply fault (R438). -/
def faultField (s : State) (a : Part) : Option Nat := (partFields a).find? (fun f => (getFld s f).fault)

/-- The scrub of a partition has ended; the sites whose read-back failed are retired (R380). A reset partition is ready again
with its loss report; one that is deleted, or that holds a field without supply, is gone (R371, R437, R438). -/
def scrubDone (p : Nat) (failed : List Nat) (s : State) : State :=
  match getPart s p with
  | none => s
  | some a =>
    let r := a.reset.getD {}
    let n := r.discarded
    let fs := partFields a
    let s := dropHeld a.domain (clearSites (fun k => inPart a k) s)
    let s := clearCrest (fun i => (i < 14336 && fs.contains (i / 256)) || crestOwner s i == some p) (dropWatches p s)
    let s := { s with mesh := { s.mesh with
        flight := s.mesh.flight.filter (fun m => m.head.domain != a.domain)
        transit := s.mesh.transit.filter (fun v => v.msg.head.domain != a.domain)
        casts := s.mesh.casts.filter (fun c => c.head.domain != a.domain) } }
    let s := failed.foldl (fun s k =>
      retireNow k (raise (evCell s 0x306 1 ⟨siteX k, siteY k, 3⟩ 0) s)) s
    if r.deleting then raise { evCtl 0x305 0 (activeCtl s) 0 with part := p } (freePart p s)
    else
      match faultField s a with
      | some f =>
        let s := deleteSpan p s
        let s := writeLoss p r.failed r.abandoned n 0 r.since s
        raise { evCtl 0x3C6 1 (activeCtl s) f with part := p, domain := a.domain } (freePart p s)
      | none =>
        let s := modPart p (fun a => { a with pstate := .ready, reset := none, lastSec := 0, prevSec := 0 }) s
        let s := reserve p a.reservation a.weight s
        let s := writeLoss p r.failed r.abandoned n 0 r.since s
        raise (evPart s 0x3C5 0 p ((now s - r.since) / usT)) s

/-- A delete by permit: a partition that is not quiesced is first reset (R371). -/
def deletePart (p : Nat) (s : State) : State :=
  match getPart s p with
  | none => s
  | some a =>
    if a.pstate = .scrubbing then
      if (a.reset.map PReset.deleting).getD false then s
      else deleteSpan p (modPart p (fun a => { a with reset := a.reset.map (fun r => { r with deleting := true }) }) s)
    else if a.reset.isSome ∨ !quiesced s p then noteChange (beginReset p 3 [] true s)
    else
      let s := closeJob p s
      let t := now s
      let s := modPart p (fun a => { a with reset := some { since := t, deleting := true } }) s
      deleteSpan p (startScrub p s)

/-! ## Fields (R304, R305, R432) -/

/-- A field is powered down (R316, R319, R432). -/
def fieldOff (f : Nat) (s : State) : State :=
  let s := modFld f (fun x => { x with powered := false, good := false, setPoint := 0, supplyCode := 0, millivolts := 0, milliamps := 0
                                       watts := 0 }) s
  clearField f (modClk f (fun c => { c with st := .off, target := 0, trim := 0, measured := 0, inBand := 0, windows := 0, unlocked := 0
                                            everLocked := false }) s)

/-! ## Clock limits (R301, R333, R335) -/

/-- The steps that a field holds: thermal and power (R333). -/
def fieldSteps (s : State) (f : Nat) : Nat := (getFld s f).tSteps + (getFld s f).eSteps

/-- Failed sensors of a field (R335). -/
def failedCount (s : State) (f : Nat) : Nat := ((List.range 16).filter (fun i => bitAt (getFld s f).failedSensors i)).length

/-- A field's effective target: the lowest of the operator's code and the throttle limit (R301, R333, R335). -/
def effectiveTarget (s : State) (f : Nat) : Nat :=
  let n := setting s 0x2110 (f + 1)
  if failedCount s f > 4 then min n 1536 else min n (max 1536 (n - 192 * fieldSteps s f))

/-- The set point of a field for a clock target code: from its calibration table, within 0.60 to 0.85 V, and 0.72 V at the reference
operating point (R317). -/
def setPointOf (s : State) (f code : Nat) : Nat :=
  if code = 3840 then 288 else max 240 (min 340 (amGet s.ident.calibration (f * 8192 + code) (Config.setPoint f code)))

/-- A stack's supply follows the effective target: up at once, before the clock; down only once the field is locked at the lower
target (R317; log 147). -/
def regulate (f : Nat) (locked : Bool) (s : State) : State :=
  let e := effectiveTarget s f
  let c := (getFld s f).supplyCode
  if c < e ∨ (e < c ∧ locked) then modFld f (fun x => { x with supplyCode := e, setPoint := setPointOf s f e }) s else s

/-- A field is powered, its supply at the set point of its effective target (R316, R317, R428). -/
def fieldOn (f : Nat) (s : State) : State := regulate f false (modFld f (fun x => { x with powered := true, good := false }) s)

/-- The field regulators can be powered: the 54 V bus is in regulation, and the power-up sequence has reached the step that powers
the field groups (R46, R428). -/
def canPower (s : State) : Bool := s.power.busGood && 7 ≤ s.pilot.step

/-- A field reset (R432): it first resets the partition that holds the field; the field's power goes down and comes back. Where
the bus or the power-up order does not allow it, the field stays unpowered until its group is powered (R46), and one that failed to
lock until the next wafer reset (R305). -/
def fieldReset (f : Nat) (s : State) : State :=
  if (getFld s f).resetting || (getFld s f).fault then s
  else
    let s := resetTest [f] s
    let s := match holder s f with
      | some p => beginReset p 1 [f] false s
      | none => withdraw (fun e => (e.cls == 1 && e.unit == f) || (e.cls == 0 && fieldOf (siteKey e.x e.y) == f)) s
    let s :=
      if (getClk s f).st = .failed then s
      else
        let s := fieldOff f (modFld f (fun x => { x with resetting := true }) s)
        if canPower s then fieldOn f s else s
    raise (evField s 0x3C7 1 f f) s

/-- A field supply fault (R319): the field stays unpowered, and its partition is reset. -/
def supplyFault (f : Nat) (s : State) : State :=
  let s := modFld f (fun x => { x with fault := true, resetting := false }) (fieldOff f s)
  let s := match holder s f with
    | some p =>
      let s := beginReset p 2 [] false s
      advanceReset p (modPart p (fun a => { a with reset := a.reset.map (fun r => { r with fields := r.fields.erase f }) }) s)
    | none => resetTest [f] s
  raise (evField s 0x00B 1 f 0) s

/-- A field reset has ended: the field is locked and its overlay interfaces are trained (R432, R437). -/
def fieldBack (f : Nat) (s : State) : State :=
  let s := modFld f (fun x => { x with resetting := false }) s
  match holder s f with
  | some p => advanceReset p (modPart p (fun a => { a with reset := a.reset.map (fun r => { r with fields := r.fields.erase f }) }) s)
  | none => s

/-! ## The lease (R401 to R406) -/

/-- A new random permit nonce (R386). -/
def newNonce (s : State) : State :=
  { s with sec := { s.sec with nonce := Config.freeNonce s.sec.nonceDraws, nonceDraws := s.sec.nonceDraws + 1 } }

/-- The read session ends, with its event where one was open (R369, R406). -/
def endSession (s : State) : State :=
  if s.sec.session.isSome then
    raise (evCtl 0x30C 0 (activeCtl s) 0) { s with sec := { s.sec with session := none } }
  else s

/-- The countdown starts again from the lease time (R401). -/
def restartLease (s : State) : State :=
  { s with lease := { s.lease with deadline := now s + setting s 0x2720 3 * msT } }

/-- An SDO download longer than the 512 bytes of SM0, less 16 bytes of headers, comes in segments (R394). -/
def segmented (v : List Byte) : Bool := v.length > 496

/-- A lease change aborts the segmented transfers in progress (R395, R396, R406). -/
def abortSegmented (s : State) : State :=
  let n := (s.pilot.mailbox.filter (fun e => segmented e.2)).length
  { s with pilot := { s.pilot with mailbox := s.pilot.mailbox.filter (fun e => !segmented e.2)
                                   sdo := s.pilot.sdo ++ List.replicate n (0x08000020, []) } }

/-- The owner changes: nonce, session, commits, ledger second and the selected request follow R406. -/
def changeOwner (c : Ctl) (s : State) : State :=
  let old := s.lease.owner
  let s := s.parts.foldl (fun s e =>
    e.2.commits.foldl (fun s (m : Commit) =>
      loaderRefuse e.1 m.node m.domain m.tag 0x3F 0xFFFF 0xFFFF 0xFF 0xFF s)
      (modPart e.1 (fun a => { a with commits := [] }) s)) s
  let s := endSession (if old.isSome then abortSegmented s else s)
  let s := { s with events := { s.events with selected := s.events.selected.map (fun (e : EvReq) => { e with withdrawn := true }) }
                    ledger := { s.ledger with leaseMoved := true } }
  let s := { s with lease := { s.lease with owner := some c, previous := old, epoch := s.lease.epoch + 1, claimSince := none } }
  restartLease (newNonce s)

/-! ## Wafer reset (R433, R439, R440) -/

/-- Puts an edge port out of service without an event of its own. -/
def portStop (i : Nat) (s : State) : State :=
  modPort i (fun p =>
    let st : PortState := if p.st = .disabled then .disabled else .down
    ({ st := st, downs := p.downs, delay := p.delay, peer := p.peer, replays := p.replays, escapes := p.escapes } : Port)) s

/-- Every packet that this wafer has outstanding or waiting. -/
def allOutstanding (s : State) : Nat := (s.fabric.tx.map (fun e => e.2.out.length + e.2.waiting.length)).sum

/-- The ring switch, its ports and flows start again (R439, R431). -/
def ringCleared (s : State) : State :=
  let s := (List.range 64).foldl (fun s i => if (amFind s.fabric.ports i).isSome then portStop i s else s) s
  { s with fabric := { s.fabric with tx := [], rx := [], ctl := [], linkNotices := [], released := [], caches := []
                                     ops := [], bulks := [], wire := [], blocks := [], invalidating := [], invalPos := [] } }

/-- Every key slot is emptied (R379). -/
def slotsEmptied (s : State) : State :=
  raise (evCtl 0x30B 0 (activeCtl s) 0) { s with sec := { s.sec with slots := [] } }

/-- Every field is powered down and the bus converters stop (R418, R439). A wafer reset lets a field power up again that had no supply or
had failed to lock; sleep does not (R305, R319). -/
def allOff (reset : Bool) (s : State) : State :=
  let s := (List.range 56).foldl (fun s f =>
    modClk f (fun c => { droops := c.droops, st := if !reset && c.st == .failed then .failed else .off
                         failures := if reset then 0 else c.failures })
      (modFld f (fun x => { x with powered := false, good := false, fault := !reset && x.fault, resetting := false, setPoint := 0
                                   supplyCode := 0, millivolts := 0, milliamps := 0, watts := 0, tSteps := 0, eSteps := 0, activity := []
                                   lastCredit := [], reports := 0 }) s)) s
  { s with mem := [], ecc := [], tiles := s.tiles.map (fun e => (e.1, keepTile { e.2 with routerOff := false }))
           crest := { s.crest with counters := [], watches := [], aggStatus := 0 }
           mesh := { s.mesh with flight := [], transit := [], casts := [], routingReady := false }
           power := { s.power with running := 0, busGood := false, busMv := 0, limiting := false, throttled := false } }

/-- Starts step 3 of the wafer recovery and its hold (R439). -/
def waferStep3 (s : State) : State :=
  let s := slotsEmptied (allOff true (ringCleared s))
  { s with pilot := { s.pilot with step := 5, stepSince := now s, waferHold := true, groups := 0, waking := false, sleep := 0 } }

/-- A wafer reset for a cause (R439). One that comes during another takes over at step 3 (R433); before the fields are powered
there is nothing to reset. -/
def waferReset (cause : Nat) (s : State) : State :=
  if s.pilot.waferReset.isSome then
    waferStep3 { s with pilot := { s.pilot with waferCause := cause } }
  else if s.pilot.step < 6 ∨ s.pilot.sleep = 2 then s
  else
    let s := endTest 0x68 s
    let counters := (s.parts.map (fun e => usedCounters s e.1)).sum
    let s := s.parts.foldl (fun s e => abortRun e.1 0x44 s) s
    let s := s.parts.foldl (fun s e => closeJob e.1 s) s
    let s := s.parts.foldl (fun s e => modPart e.1 (fun a => { a with pstate := .resetting, current := none }) s) s
    let s := withdraw (fun e => e.cls == 0 || e.cls == 1 || e.cls == 2 || e.cls == 7) s
    let s := raise (evCtl 0x3C2 1 (activeCtl s) cause) s
    let n := allOutstanding s
    let s := { s with fabric := { s.fabric with failedPkts := n }, ledger := { s.ledger with waferReset := true } }
    let s := { s with pilot := { s.pilot with waferReset := some (now s), waferCause := cause, waferResets := s.pilot.waferResets + 1
                                              recovering := s.pilot.recovering || s.pilot.step == 12
                                              waferAbandoned := n, waferDiscarded := counters } }
    waferStep3 s

/-- The cause of the wafer reset persists (R439). -/
def causePersists (s : State) : Bool :=
  match s.pilot.waferCause with
  | 1 => s.power.band == .absent || s.power.band == .outOfRange
  | 5 => s.power.inlet > 450 || s.power.flow < 200
  | _ => false

/-! ## Power-up (R428 to R430) -/

/-- The sequence reaches a step; the wait of an early step that was overdue is kept (R429). -/
def enterStep (n : Nat) (s : State) : State :=
  let wait := (now s - s.pilot.stepSince) / msT
  { s with pilot := { s.pilot with
      step := n, stepSince := now s
      overdue := s.pilot.overdue.map (fun e => if e.1 = s.pilot.step ∧ e.1 ≤ 4 then (e.1, wait) else e) } }

/-- Step 5: the settings are restored; the early steps that were overdue and the module reset are recorded (R428 to R430). -/
def stepFive (s : State) : State :=
  let s := pinsRestore (restoreSettings s)
  let s := (s.pilot.overdue.filter (fun e => e.1 ≤ 4)).foldl (fun s e => raise (evCtl 0x3C1 1 (activeCtl s) e.2) s) s
  if s.pilot.resetDetail = 0 then s
  else raise (evPilot 0x3CE 0 s.pilot.resetDetail) { s with pilot := { s.pilot with resetDetail := 0 } }

/-- The bus converters start (R428). -/
def startConverters (s : State) : State :=
  if s.power.running = 0 then { s with power := { s.power with running := 0xFF, faults := 0 } } else s

/-- A field is locked, or stays without power until the next wafer reset (R305, R319). -/
def fieldSettled (s : State) (f : Nat) : Bool :=
  (getClk s f).st == .locked || (getClk s f).st == .failed || (getFld s f).fault

/-- Creates the partitions that the settings hold and that are not yet created, of those with the subindexes given, in ascending
partition ID (R428). -/
def restoreParts (subs : List Nat) (s : State) : State :=
  let ids := (List.range 56).filter (fun p => subs.contains (p + 1) && (bootNum s 0x2401 (p + 1)).isSome)
  ids.foldl (fun s p =>
    let e := (bootNum s 0x2401 (p + 1)).getD 0
    let d := (bootNum s 0x2402 (p + 1)).getD 0
    let role := (bootNum s 0x2403 (p + 1)).getD 0
    let (fx, fy, w, h) := (bitsOf e 15 13, bitsOf e 12 10, bitsOf e 9 7 + 1, bitsOf e 6 4 + 1)
    let mine := s.settings.boot.filter (fun r => r.key % 256 == p + 1)
    if mayCreate s fx fy w h d role then
      let num := fun (i def' : Nat) => (bootNum s i (p + 1)).getD def'
      let n := w * h
      let kept : Part := { reservation := num 0x2210 ((roleBudget role).1 * n), weight := num 0x2211 (roleBudget role).2 }
      let s := { s with settings := { s.settings with boot := s.settings.boot.filter (fun r => r.key % 256 != p + 1) } }
      let s := createPart fx fy w h d role (some kept) s
      let s := (mine.filter (fun r => !([0x2401, 0x2402, 0x2403, 0x2210, 0x2211].contains (r.key / 256)))).foldl (fun s r =>
        putNum (r.key / 256) (p + 1) (leNat r.value) s) s
      let ring := (setting s 0x2D21 (p + 1), setting s 0x2D22 (p + 1), setting s 0x2D23 (p + 1))
      if setting s 0x2D20 (p + 1) = 1 then modPart p (fun a => { a with sampling := some ring }) s else s
    else raise { evCtl 0x302 2 (activeCtl s) 0 with part := p } s) s

/-- The records of a partition as the settings store holds them. -/
def partRecords (p : Nat) (rs : List SetRec) : List SetRec :=
  rs.filter (fun r => r.key % 256 == p + 1 && ((findObj (r.key / 256) (p + 1)).map Obj.ent) == some .part)

/-- Creates again the partitions that a wafer reset found; one that a delete had taken from the settings is gone, and one that R370
refuses stays in the settings (R371, R439). -/
def recreateParts (s : State) : State :=
  let old := s.parts
  let rs := storedRecords s
  let s := { s with parts := [] }
  let s := (List.range 56).foldl (fun s f => modFld f (fun x => { x with owner := .idle }) s) s
  let s := old.foldl (fun s e =>
    let a := e.2
    if (a.reset.map PReset.deleting).getD false then dropPartSettings e.1 s
    else if mayCreate s a.fx a.fy a.width a.height a.domain a.role then
      createPart a.fx a.fy a.width a.height a.domain a.role
        (some { a with reset := none, still := [], hangTimer := none, hostOps := [], frozen := false, heldCrest := [], early := []
                       share := 0, lastCredit := 0 }) s
    else
      raise { evCtl 0x302 2 (activeCtl s) 0 with part := e.1 }
        { s with settings := { s.settings with boot := s.settings.boot ++ partRecords e.1 rs } }) s
  old.foldl (fun s e => if (getPart s e.1).isSome then s
    else { s with crest := { s.crest with base := amDel s.crest.base e.1, count := amDel s.crest.count e.1 } }) s

/-- The wafer reset is complete: loss report and event 0x3C3 (R439, R440, R358). -/
def waferDone (s : State) : State :=
  match s.pilot.waferReset with
  | none => s
  | some t =>
    let n := s.fabric.failedPkts
    let s := writeLoss 0xFE n s.pilot.waferAbandoned s.pilot.waferDiscarded 0 t s
    raise (evCtl 0x3C3 0 (activeCtl s) n) { s with pilot := { s.pilot with waferReset := none } }

/-- Step 9: the defect map is applied, the detours are built, verified and written, and every store is zero (R187, R428). -/
def routesReady (s : State) : State :=
  let s := applySites s
  let s := writeDetours ((absentSites s).foldl (fun s k => settleRoutes 81 k s) s)
  { s with mem := [], ecc := [], mesh := { s.mesh with routingReady := true } }

/-- Step 10: partitions are restored from the settings, or stand again after a wafer reset, whose loss is then reported (R428,
R440). -/
def partsBack (s : State) : State :=
  let ids := (s.settings.boot.map (fun r => r.key % 256)).eraseDups
  let t := recreateParts s
  waferDone (restoreParts ids t)

/-- Step 12: the wafer is up, with event 0x3C0 and the duration (R428, R446); the recovery of a wafer that was up ends without it
(R439). -/
def upDone (s : State) : State :=
  let d := (now s - s.pilot.trigger) / msT
  let s := enterStep 12 s
  if s.pilot.recovering then { s with pilot := { s.pilot with recovering := false, waking := false, sleep := 0 } }
  else
  let s := { s with pilot := { s.pilot with duration := d, waking := false, sleep := 0 } }
  raise (evCtl 0x3C0 0 (activeCtl s) d) s

/-- Every enabled port has trained once, or tried (R428). -/
def portsSettled (s : State) : Bool := (List.range 64).all (fun i => setting s 0x2610 (i + 1) = 0 || (getPort s i).trainedOnce)

/-- Step 6 ends with four converters running and the bus good (R428). -/
def busUp (s : State) : Option State := if runningK s ≥ 4 && s.power.busGood then some (enterStep 7 s) else none

/-- One step of the power-up sequence, where its conditions hold (R428). -/
def upStep (s : State) : Option State :=
  match s.pilot.step with
  | 1 => if s.power.standby && !s.pilot.resetLow then some (enterStep 2 s) else none
  | 2 => some (enterStep 3 s)
  | 3 =>
    if !linkLocked s then none
    else if s.pilot.waferReset.isSome then some (enterStep 6 s)
    else some (enterStep 4 s)
  | 4 => if s.lease.owner.isSome then some (enterStep 5 s) else none
  | 5 =>
    if s.pilot.waferReset.isSome then
      if s.pilot.waferHold || causePersists s then none
      else some (enterStep (if linkLocked s then 6 else 3) s)
    else some (enterStep 6 (stepFive s))
  | 6 => if s.power.present then busUp (startConverters s) else none
  | 7 => if s.pilot.groups = 7 && (List.range 56).all (fieldSettled s) then some (enterStep 8 s) else none
  | 9 => some (enterStep 10 (routesReady s))
  | 10 => some (enterStep 11 (partsBack s))
  | 11 => if portsSettled s then some (upDone s) else none
  | _ => none

/-- The sequence goes on as far as it can (R428). The bus converters start as soon as step 6 finds HV present. -/
def upLoop : Nat → State → State
  | 0, s => s
  | n + 1, s =>
    match upStep s with
    | some t => upLoop n t
    | none => if s.pilot.step = 6 && s.power.present then startConverters s else s

/-- The power-up sequence goes on. -/
def advanceUp (s : State) : State := upLoop 12 s

/-- Powers the fields that failed to lock once, after the last group (R305, R428). -/
def retryFields (s : State) : State :=
  (List.range 56).foldl (fun s f =>
    let c := getClk s f
    if c.failures = 1 ∧ c.st = .off ∧ !(getFld s f).powered ∧ !(getFld s f).fault ∧ s.pilot.groups = 7 then fieldOn f s else s) s

/-- A controller as its flash and one-way storage keep it through a module reset (R388, R430). -/
def ctlCold (c : CtlS) : CtlS :=
  let cold := fun (x : ImgSlot) => if x = .trial then .valid else x
  { verA := c.verA, secA := c.secA, slotA := cold c.slotA, verB := c.verB, secB := c.secB, slotB := cold c.slotB, prefB := c.prefB
    minSec := c.minSec }

/-- A module reset: 1 RESET_N, 2 loss of standby input (R430). -/
def moduleReset (detail : Nat) (s : State) : State :=
  let z : State := {}
  { z with
    pending := s.pending, freeCount := s.freeCount + 1, ident := s.ident, assay := s.assay
    settings := { z.settings with copy0 := (cutCopies s).1, copy1 := (cutCopies s).2 }
    sec := { z.sec with secret := s.sec.secret, highest := s.sec.highest, nonceDraws := s.sec.nonceDraws }
    cope := ctlCold s.cope, drag := ctlCold s.drag
    time := { z.time with refCycles := s.time.refCycles }
    power := { z.power with volts := s.power.volts, band := s.power.band, present := s.power.present, standby := s.power.standby && detail == 1 }
    pilot := { z.pilot with link0 := s.pilot.link0, link1 := s.pilot.link1, resetLow := s.pilot.resetLow, resetDetail := detail
                            step := if detail = 1 then 1 else 0, trigger := now s, stepSince := now s
                            pins := s.pilot.pins.map (fun e => (e.1, { level := e.2.level, sample := e.2.sample })) } }

end Sys2Proof.Machine
end

