-- ==== Sys2Proof/Machine/Power.lean ====
section
/-!
DEFINITION. The budget controller and the ledger: attribution, draw limit, throttle steps, shares, thermal steps, the close of
a ledger second (R301, R320 to R338, R355 to R362, R383).
-/

namespace Sys2Proof.Machine

/-! ## Clock limits (R301, R333, R335) -/

/-- The field is at its floor and takes no further step (R333). -/
def atFloor (s : State) (f : Nat) : Bool := effectiveTarget s f ≤ 1536

/-- The fields that belong to a partition, the only ones that are stepped (R333). -/
def heldFields (s : State) : List Nat := (List.range 56).filter (fun f => (holder s f).isSome)

/-! ## Power steps (R333) -/

/-- Sum of the values of a table. -/
def amSum (m : AMap Nat) : Nat := (m.map Prod.snd).sum

/-- All the credits of the last interval (R324). -/
def totalCredit (s : State) : Nat := (s.parts.map (fun e => e.2.lastCredit)).sum + s.power.houseCredit

/-- The excess of a field as a fraction: its part of the inlet power in the last interval, less its part of its partition's
share (R333). -/
def excess (s : State) (f : Nat) : Int × Nat :=
  let total := max 1 (totalCredit s)
  match (holder s f).bind (getPart s) with
  | some a =>
    let n := a.width * a.height
    ((s.power.average * amSum (getFld s f).lastCredit * n : Nat) - (a.share * total : Nat), total * n)
  | none => ((s.power.average * amSum (getFld s f).lastCredit : Nat), total)

/-- A fraction is less than another. -/
def fracLt (x y : Int × Nat) : Bool := x.1 * (y.2 : Int) < y.1 * (x.2 : Int)

/-- The field that a measure puts first, ties to the lowest index. -/
def firstBy (better : Nat → Nat → Bool) (fs : List Nat) : Option Nat :=
  fs.foldl (fun b f =>
    match b with
    | none => some f
    | some g => if better f g then some f else some g) none

/-- Every pool weight is 0 (R331, R383). -/
def weightsZero (s : State) : Bool := s.parts.all (fun e => e.2.weight == 0)

/-- One power step for the field of greatest excess that is not at its floor (R333); a step to a field whose excess is not
positive marks the budget channel (R383). -/
def addPowerStep (s : State) : State :=
  match firstBy (fun f g => fracLt (excess s g) (excess s f)) ((heldFields s).filter (fun f => !atFloor s f)) with
  | none => s
  | some f =>
    let bad := (excess s f).1 ≤ 0
    let s := modFld f (fun x => { x with eSteps := x.eSteps + 1 }) s
    let s := if bad then { s with power := { s.power with channelBad := some s.power.publishes } } else s
    if s.power.throttled then s
    else raise (evField s 0x007 0 f 0) { s with power := { s.power with throttled := true } }

/-- One power step taken from the field of least excess that has one (R333). -/
def dropPowerStep (s : State) : State :=
  match firstBy (fun f g => fracLt (excess s f) (excess s g)) ((List.range 56).filter (fun f => (getFld s f).eSteps > 0)) with
  | none => s
  | some f =>
    let s := modFld f (fun x => { x with eSteps := x.eSteps - 1 }) s
    if (List.range 56).any (fun f => (getFld s f).eSteps > 0) then s
    else raise (evField s 0x008 0 f 0) { s with power := { s.power with throttled := false } }

/-! ## Attribution (R320 to R324) -/

/-- The coefficient that weighs a count: of its field, calibration point and category (R317, R320). -/
def coefficientOf (s : State) (f point cat : Nat) : Nat :=
  amGet s.ident.coefficients ((f * 8192 + point) * 16 + cat) (Config.coefficient f point cat)

/-- The modelled energy of a field by account, in nJ (R320). -/
def modelled (s : State) (f : Nat) : AMap Nat :=
  let x := getFld s f
  let counts := x.activity.foldl (fun m e =>
    amMod m (e.1 / 16) 0 (· + e.2 * coefficientOf s f (getClk s f).target (e.1 % 16))) ([] : AMap Nat)
  let st := if x.powered then Config.staticEnergy f x.millivolts (getClk s f).target x.temp * 1000 else 0
  amMod counts ((holder s f).getD houseAccount) 0 (· + st)

/-- Splits an energy by modelled energies: each partition's part rounded down, house the remainder (R321). -/
def splitEnergy (e : Nat) (m : AMap Nat) : AMap Nat :=
  let total := amSum m
  let parts := (m.filter (fun x => x.1 < houseAccount)).map (fun x => (x.1, if total = 0 then 0 else e * x.2 / total))
  amSet parts houseAccount (e - amSum parts)

/-- A partition that is being reset is credited nothing: its energy goes to house (R17, R358). -/
def takesCredit (s : State) (p : Nat) : Bool :=
  match getPart s p with
  | some a => a.pstate == .ready || a.pstate == .jobOpen
  | none => false

/-- Moves to house what no partition takes. -/
def settleCredits (s : State) (m : AMap Nat) : AMap Nat :=
  let ok := m.filter (fun x => x.1 < houseAccount && takesCredit s x.1)
  amSet ok houseAccount (amSum m - amSum ok)

/-- Attributes a field's energy of the interval (R321 to R323). -/
def attributeField (f : Nat) (s : State) : State :=
  let x := getFld s f
  let e := (x.delivered - x.intervalBase).toNat
  let m := modelled s f
  let missed := x.powered && x.reports < 100
  let split := if missed then amSet [] houseAccount e else settleCredits s (splitEnergy e m)
  let total := amSum m
  let out := 2 * (e * 1000) < total ∨ e * 1000 > 2 * total
  let bad := if out then x.ratioBad + 1 else 0
  let again := missed && (match x.missedAt with | some t => now s ≥ t + secT | none => true)
  let t := now s
  let s := modFld f (fun x => { x with energy := x.energy + e, intervalBase := x.delivered, reports := 0, activity := []
                                       lastCredit := split, missed := missed, ratioBad := bad, missedAt := if again then some t else x.missedAt }) s
  let s := if again then raise (evField s 0x009 1 f 0) s else s
  if bad = 1000 then raise (evField s 0x00A 1 f 0) s else s

/-- The credits of every account in the interval: fields and ring supply (R321). -/
def intervalCredits (s : State) : AMap Nat :=
  let ring := settleCredits s (splitEnergy s.power.ringEnergy s.power.ringActivity)
  ((List.range 56).map (fun f => (getFld s f).lastCredit)).foldl (fun m x =>
    x.foldl (fun m e => amMod m e.1 0 (· + e.2)) m) ring

/-- Books the credits of an interval to the accounts (R321, R341, R357, R362). -/
def bookCredits (s : State) : State :=
  let m := intervalCredits s
  let h := amGet m houseAccount 0
  let s := { s with parts := amMap s.parts (fun p (a : Part) =>
      let c := amGet m p 0
      { a with lastCredit := c, attributed := a.attributed + c, secondCredit := a.secondCredit + c
               job := a.job.map (fun (j : Job) => if j.started then { j with credits := j.credits + c } else j) }) }
  { s with power := { s.power with houseCredit := h, houseSecond := s.power.houseSecond + h, ringActivity := [] } }

/-! ## The peak allowance (R326, R327) -/

/-- An interval's average draws on the allowance or refills it; an empty allowance begins a clamp (R326, R327). -/
def allowanceStep (s : State) : State :=
  let w := s.power
  let lim := limitS s
  if w.average > lim then
    let left := w.allowance - (w.average - lim)
    let s := { s with power := { w with allowance := left } }
    if left = 0 ∧ !w.clamped then
      raise (evCtl 0x005 0 (activeCtl s) 0)
        { s with power := { s.power with clamped := true, clampEnds := now s + setting s 0x2200 6 * secT } }
    else s
  else { s with power := { w with allowance := min 12000000 (w.allowance + 12000 / setting s 0x2200 6) } }

/-- The clamp ends (R327). -/
def clampOver (s : State) : State :=
  raise (evCtl 0x006 0 (activeCtl s) 0) { s with power := { s.power with clamped := false, allowance := 12000000 } }

/-! ## Shares (R331, R383) -/

/-- A partition is busy: it has a running or ready run or admitted cadence (R331). -/
def partBusy (a : Part) : Bool := a.current.isSome || a.queue.any Run.ready || a.cadence.isSome

/-- The published budget B (R331). -/
def budgetB (s : State) : Nat := min (setting s 0x2200 7) (drawLimit s) - s.power.house

/-- A_p, rounded down to a multiple of G (R331). -/
def shareOf (s : State) (a : Part) : Nat :=
  let b := budgetB s
  let r := sumReserved s
  let w := ((s.parts.filter (fun e => partBusy e.2)).map (fun e => e.2.weight)).sum
  let num1 := a.reservation * min b r
  let den1 := max 1 r
  let pool := b - r
  let num2 := if partBusy a then pool * a.weight else 0
  let den2 := max 1 w
  (num1 * den2 + num2 * den1) / (den1 * den2) / granularity s * granularity s

/-- The budget channel state of the publication (R383). -/
def channelStep (s : State) : State :=
  let w := s.power
  let bad := if budgetB s < sumReserved s then some w.publishes else w.channelBad
  let st :=
    if !weightsZero s then 0
    else match bad with
      | some n => if w.publishes < n + 100000 then 2 else 1
      | none => 1
  let s := { s with power := { w with channel := st, channelBad := bad } }
  if st = 2 ∧ w.channel ≠ 2 then raise (evCtl 0x30D 1 (activeCtl s) 0) s else s

/-- A publication (R324, R331, R333, R383): house power, the 10 µs check, the shares, and the choices that the new shares
allow (R155). -/
def publish (sample : Nat) (s : State) : State :=
  let total := totalCredit s
  let house := if total = 0 then sample else sample * s.power.houseCredit / total
  let n := s.power.publishes + 1
  let peaks := (s.power.overPeak.filter (fun k => n < k + 100000)) ++ (if sample > limitPeak s then [n] else [])
  let lim := s.power.limiting && sample ≥ 4750 * runningK s
  let s := { s with power := { s.power with sample := sample, house := house, publishes := n, overPeak := peaks, limiting := lim } }
  let s := if s.power.limiting ∨ (sample > limitPeak s ∧ peaks.length ≥ 5000) then addPowerStep s else s
  let s := { s with parts := amMap s.parts (fun _ a => { a with share := shareOf s a, inForce := (a.reservation, a.weight) }) }
  let s := channelStep s
  (s.parts.map Prod.fst).foldl (fun s p => schedule p s) s

/-! ## Heat (R333 to R335) -/

/-- The thermal period (R334): at most one step added and one removed, on different fields. -/
def thermalStep (s : State) : State :=
  let hot := (heldFields s).filter (fun f => (getFld s f).temp ≥ (setting s 0x2300 1 * 10 : Nat) && !atFloor s f)
  let first := firstBy (fun f g => (getFld s f).temp > (getFld s g).temp) hot
  let cool := (List.range 56).filter (fun f =>
    (getFld s f).tSteps > 0 && (getFld s f).temp ≤ (setting s 0x2300 2 * 10 : Nat) && first != some f)
  let s := match first with
    | some f =>
      raise (evField s 0x040 0 f (unsigned 64 (getFld s f).temp))
        (modFld f (fun x => { x with tSteps := x.tSteps + 1, stepsAdded := x.stepsAdded + 1 }) s)
    | none => s
  match firstBy (fun f g => (getFld s f).temp < (getFld s g).temp) cool with
  | some f =>
    let s := modFld f (fun x => { x with tSteps := x.tSteps - 1 }) s
    if (getFld s f).tSteps = 0 then raise (evField s 0x041 0 f (unsigned 64 (getFld s f).temp)) s else s
  | none => s

/-- A list of integers in rising order. -/
def sortInts (xs : List Int) : List Int :=
  let ins := fun (l : List Int) (x : Int) => l.takeWhile (· ≤ x) ++ [x] ++ l.dropWhile (· ≤ x)
  xs.foldl ins []

/-- Twice the median of a field's readings. -/
def median2 (xs : List Int) : Int :=
  let s := sortInts xs
  let n := s.length
  s.getD ((n - 1) / 2) 0 + s.getD (n / 2) 0

/-- The sensors of a sample that fail: outside −20 to 150 °C, or more than 15 °C from the median (R335). -/
def sensorFails (xs : List Int) (i : Nat) : Bool :=
  let x := xs.getD i 0
  x < -200 || x > 1500 || (2 * x - median2 xs).natAbs > 300

/-- A sample of a field's 16 sensors (R334, R335). -/
def sampleField (f : Nat) (xs : List Int) (s : State) : State :=
  let old := (getFld s f).failedSensors
  let bad := (List.range 16).filter (fun i => i < xs.length && (bitAt old i || sensorFails xs i))
  let good := ((List.range 16).filter (fun i => i < xs.length && !bad.contains i)).map (fun i => xs.getD i 0)
  let temp := match good with
    | x :: r => r.foldl max x
    | [] => (getFld s f).temp
  let s := modFld f (fun x => { x with readings := xs, failedSensors := (bad.map (fun i => 2 ^ i)).sum, temp := temp }) s
  let s := (bad.filter (fun i => !bitAt old i)).foldl (fun s i => raise (evField s 0x044 1 f i) s) s
  let s :=
    if temp ≥ 1030 ∧ !(getFld s f).hot103 then
      let need := (setting s 0x2110 (f + 1) - 1536 + 191) / 192
      raise (evField s 0x042 1 f (unsigned 64 temp))
        (modFld f (fun x => { x with
          hot103 := true, tSteps := max x.tSteps (need - x.eSteps), stepsAdded := x.stepsAdded + (need - x.eSteps - x.tSteps) }) s)
    else if temp < 1030 then modFld f (fun x => { x with hot103 := false }) s
    else s
  if temp ≥ 1050 ∧ (getFld s f).powered then
    raise (evField s 0x043 1 f (unsigned 64 temp)) (supplyFault f s)
  else s

/-! ## Converters and coolant (R314, R325, R338) -/

/-- The coolant value of S (R338): 30 kW × min(1, F / 40) less 1.5 kW for each °C above 40 °C. -/
def coolantValue (inlet : Int) (flow : Nat) : Nat :=
  let base := 30000 * min flow 400 / 400
  base - (150 * (inlet - 400)).toNat

/-- Fewer than four converters run: every field is powered down, which is a wafer reset (R314). -/
def checkConverters (s : State) : State := if runningK s < 4 then waferReset 2 s else s

/-! ## The ledger (R355 to R362) -/

/-- Books a closed second's energy to one partition (R357, R359, R362). -/
def bookPart (m total p : Nat) (s : State) : State :=
  match getPart s p with
  | none => s
  | some a =>
    let sp := if total = 0 then 0 else m * a.secondCredit / total
    let of := fun c : Nat => if a.secondCredit = 0 then 0 else sp * c / a.secondCredit
    let done := a.ending.map (fun e => (e.1, e.2.1, e.2.2.2 + of e.2.2.1))
    let run := match a.job with
      | some j => if j.started then of j.credits else 0
      | none => 0
    let stamped := match done.find? (fun e => e.1 == a.stamp.start && e.2.1 == a.stamp.stop) with
      | some e => if (a.job.map Job.started).getD false then a.stamp.energy else e.2.2
      | none => a.stamp.energy
    let s := modPart p (fun a => { a with
      energy := a.energy + sp, tenantEnergy := (a.energy + sp) / 1000, secondCredit := 0, ending := []
      stamp := { a.stamp with energy := stamped + run }
      job := a.job.map (fun j => { j with credits := 0 }) }) s
    done.foldl (fun s e => raise (evPart s 0x34A 0 p e.2.2) s) { s with ledger := { s.ledger with booked := s.ledger.booked + sp } }

/-- The open second's partition credits go to house, and none are left for its jobs (R356, R358, R362). -/
def creditsToHouse (s : State) : State :=
  let c := (s.parts.map (fun e => e.2.secondCredit)).sum
  { s with parts := amMap s.parts (fun _ (a : Part) =>
             { a with secondCredit := 0, ending := a.ending.map (fun e => (e.1, e.2.1, 0, e.2.2.2))
                      job := a.job.map (fun (j : Job) => { j with credits := 0 }) })
           power := { s.power with houseSecond := s.power.houseSecond + c } }

/-- The ledger's view of the second that closes: energy of its last frame, and whether it had a valid frame, a new serial, a fall. A
frame that came after the closing tick belongs to the next second (R355). -/
def closingView (m : Mirror) : Nat × Bool × Bool × Bool :=
  match m.due with
  | some d => (d.1, d.2.1, d.2.2.1, d.2.2.2.1)
  | none => (m.energy, m.fresh, m.newSerial, m.fell)

/-- A mirror at the start of the next second: the marks of the frames that belong to it (R355, R356). -/
def freshMirror (m : Mirror) : Mirror :=
  match m.due with
  | some _ => { m with due := none }
  | none => { m with fresh := false, newSerial := false, fell := false }

/-- The base of a second that has just begun, where a frame of it has set one (R355, R358). -/
def dueBase (m : Mirror) (base : Option Nat) : Option Nat :=
  match m.due with
  | some d => d.2.2.2.2 <|> base
  | none => base

/-- Ends the ledger second: marks of the frame, the lease and the credits start again. -/
def freshSecond (s : State) : State :=
  let b := dueBase (getCtl (activeCtl s) s).mirror s.ledger.base
  { s with power := { s.power with houseSecond := 0, standbyEnergy := 0 }
           ledger := { s.ledger with leaseMoved := false, base := b }
           cope := { s.cope with mirror := freshMirror s.cope.mirror }, drag := { s.drag with mirror := freshMirror s.drag.mirror } }

/-- A ledger second ends without a close: a frame after its last tick is one of the next (R355). -/
def skipSecond (s : State) : State :=
  let due := fun (c : CtlS) => { c with mirror := { c.mirror with due := none } }
  let b := dueBase (getCtl (activeCtl s) s).mirror s.ledger.base
  { s with ledger := { s.ledger with base := b }, cope := due s.cope, drag := due s.drag }

/-- A second without a valid frame ends: its credits go to house, its energy to the next frame; event 0x342 (R356, R358). -/
def emptySecond (s : State) : State := raise (evCtl 0x342 1 (activeCtl s) 0) (creditsToHouse (skipSecond s))

/-- Closes a ledger second (R356 to R358, R362). -/
def closeSecond (s : State) : State :=
  let (energy, fresh, newSerial, fell) := closingView (getCtl (activeCtl s) s).mirror
  if s.ledger.waferReset ∧ s.pilot.waferReset.isSome then skipSecond s
  else if !fresh then emptySecond s
  else
    let rebased := newSerial || fell || s.ledger.base.isNone
    let m := if rebased then 0 else energy - s.ledger.base.getD 0
    let base := if newSerial || fell then s.ledger.base else some energy
    let lost := s.ledger.waferReset
    let moved := s.ledger.leaseMoved
    let s := if lost || moved then creditsToHouse s else s
    let total := (s.parts.map (fun e => e.2.secondCredit)).sum + s.power.houseSecond + s.power.standbyEnergy
    let before := s.ledger.booked
    let s := (s.parts.map Prod.fst).foldl (fun s p => bookPart m total p s) s
    let house := m - (s.ledger.booked - before)
    let s := { s with ledger := { s.ledger with
        seconds := s.ledger.seconds + 1, total := s.ledger.total + m, house := s.ledger.house + house, last := m, base := base
        unapportioned := s.ledger.unapportioned + (if lost || moved then m else 0), waferReset := false } }
    let s := if lost then raise (evCtl 0x34C 1 (activeCtl s) m) { s with pilot := { s.pilot with lossEnergy := m } } else s
    let s := if moved then raise (evCtl 0x34B 1 (activeCtl s) m) s else s
    freshSecond s

end Sys2Proof.Machine
end

