-- ==== Sys2Proof/Machine/Wake.lean ====
section
/-!
DEFINITION. Sleep and wake of the wafer (R418 to R421).
-/

namespace Sys2Proof.Machine

/-- A source is selected in 0x2730 (R419). -/
def wakeSelected (s : State) (n : Nat) : Bool := (List.range 32).any (fun i => setting s 0x2730 (i + 1) == n)

/-- The wake begins: the sources and the lowest of them are recorded, event 0x391 is written, and the power-up sequence runs
from its bus-converter step (R418, R420). The duration of that sequence counts from the wake (DESIGN CHOICE, log 145). -/
def beginWake (ns : List Nat) (s : State) : State :=
  let first := ns.foldl min (ns.headD 0xFFFF)
  let s := { s with pilot := { s.pilot with
      wakeFired := ns, wakeCause := first, wakeLatched := [], sleep := 3, waking := true, step := 6, stepSince := now s
      trigger := now s, groups := 0 } }
  let s := raise (evPilot 0x391 0 first) s
  advanceUp { s with lease := { s.lease with standby := if s.lease.standby = .halted then .booting else s.lease.standby } }

/-- Wake sources fire in one pilot cycle: asleep, a selected one wakes the wafer; while sleep is being entered it is latched;
else it has no effect (R419, R420). -/
def wakeFire (ns : List Nat) (s : State) : State :=
  let sel := ns.filter (wakeSelected s)
  if sel.isEmpty then s
  else if s.pilot.sleep = 2 then beginWake sel s
  else if s.pilot.sleep = 1 then { s with pilot := { s.pilot with wakeLatched := s.pilot.wakeLatched ++ sel } }
  else s

/-- The wafer may sleep: it runs, every partition is quiesced and no job is open (R418, R420). -/
def maySleep (s : State) : Bool :=
  s.pilot.sleep == 0 && s.pilot.step == 12 && s.parts.all (fun e => quiesced s e.1 && e.2.job.isNone)

/-- The wafer enters sleep: ports down, fields and converters off, standby controller halted (R418). -/
def beginSleep (s : State) : State :=
  let s := (List.range 64).foldl (fun s i => if (amFind s.fabric.ports i).isSome then portStop i s else s) s
  let s := allOff false s
  let sb := if s.lease.standby = .absent then StandbyState.absent else .halted
  { s with pilot := { s.pilot with sleep := 1, wakeLatched := [] }, lease := { s.lease with standby := sb } }

/-- The wafer is asleep: event 0x390, and a latched source wakes it at once (R418, R420). -/
def sleepDone (s : State) : State :=
  if s.pilot.sleep = 1 then
    let s := raise (evPilot 0x390 0 0) { s with pilot := { s.pilot with sleep := 2 } }
    if s.pilot.wakeLatched.isEmpty then s else beginWake s.pilot.wakeLatched s
  else s

end Sys2Proof.Machine
end

