-- ==== Sys2Proof/Machine/Clocks.lean ====
section
/-!
DEFINITION. The reference, the time of day, the field loops and the ring clocks (R295 to R309).
-/

namespace Sys2Proof.Machine

/-- n 1 ms ticks have been issued, the last one now: the ledger counts them from the first whole second, waiting grids take
their W_0, and sync pins pulse (R163, R297, R355, R459). -/
def msTicks (n : Nat) (s : State) : State :=
  if n = 0 then s
  else
    let whole := s.time.tod.toNat % 1000000000 == 0 && s.time.todTenths == 0
    let l := s.ledger
    let w : Int := now s
    let s := { s with
      time := { s.time with ticks := s.time.ticks + n, lastTick := s.time.refCycles }
      ledger := if l.begun then { l with ticks := l.ticks + n } else { l with begun := whole }
      parts := amMap s.parts (fun _ (a : Part) =>
        { a with cadence := a.cadence.map (fun (c : Cadence) => if c.w0Tick then { c with w0 := w, w0Tick := false } else c) }) }
    let s := syncPulse 0 s
    if whole then syncPulse 1 s else s

/-- The reference runs to the time of the next tick. -/
def toNextTick (s : State) : State := advanceTo ((s.time.lastTick + tickCycles) * 64) s

/-- The epoch mark sets the time of day to the frame's, with event 0x088 where it steps by more than 1 µs (R297). -/
def setTod (s : State) : State :=
  match s.time.frameTod with
  | none => s
  | some v =>
    let far := v.toNat > s.time.tod.toNat + 1000 || s.time.tod.toNat > v.toNat + 1000
    let s := { s with time := { s.time with tod := v, todTenths := 0, frameTod := none } }
    if far then raise (evPilot 0x088 0 0) s else s

/-- An epoch mark (R297, R299). -/
def epoch (s : State) : State :=
  if linkLocked s then
    let s := setTod (toNextTick s)
    let s :=
      if s.time.regaining then
        raise (evPilot 0x082 0 0) { s with time := { s.time with ref := .locked, regaining := false } }
      else s
    advanceUp (msTicks 1 s)
  else s

/-- A time frame: bytes 1 to 13 after the start character (R296, R297). -/
def takeFrame (bs : List Byte) (s : State) : State :=
  if !linkLocked s then s
  else if bs.length = 13 ∧ crc16 (bs.take 11) = fieldAt bs 11 2 then
    { s with time := { s.time with frameTod := some (BitVec.ofNat 64 (fieldAt bs 0 8)), leapFlags := fieldAt bs 8 1
                                   utcOffset := BitVec.ofNat 16 (fieldAt bs 9 2) } }
  else { s with time := { s.time with badFrames := s.time.badFrames + 1 } }

/-! ## Field loops (R301 to R305) -/

/-- A target moved toward another by at most 32 codes (R302). -/
def moveTarget (t goal : Nat) : Nat := if t < goal then min goal (t + 32) else max goal (t - 32)

/-- The trim adjustment at the end of a window, in codes: toward the next target within the loop's resolution of 0.1%, and by at
most 3% once the field has locked, the loop's own error included (R302, R303; log 10). -/
def trimStep (f : Nat) (c : FieldClk) (next count : Nat) : Int :=
  let cap : Int := if c.everLocked then (3 * count / 100 : Nat) else (4608 : Nat)
  let want : Int := (next : Int) - (count : Int)
  let res : Int := (next / 1000 : Nat)
  let err := max (-res) (min res (Config.trimError f c.windows))
  max (-cap) (min cap (want + err))

/-- A field fails to lock within 64 windows: powered down and tried once more, then left unpowered (R305). -/
def lockFails (f : Nat) (s : State) : State :=
  let s := modClk f (fun c => { c with failures := c.failures + 1 }) (fieldOff f s)
  if (getClk s f).failures ≥ 2 then
    advanceUp (raise (evField s 0x087 1 f 0) (modClk f (fun c => { c with st := .failed }) s))
  else if (getFld s f).resetting then fieldOn f s
  else retryFields s

/-- The end of a window of a field's loop (R302, R303, R305, R310). -/
def fllStep (f count : Nat) (s : State) : State :=
  let c := getClk s f
  if c.st ≠ .locking ∧ c.st ≠ .locked then s
  else
    let e := effectiveTarget s f
    let next := moveTarget c.target e
    let droop := c.st == .locked && count * 100 < c.target * 97
    let near := fun (t : Nat) => decide (200 * (count - t + (t - count)) ≤ t)
    let band := if near e then c.inBand + 1 else 0
    let out := if droop then c.unlocked else if c.st = .locked ∧ !near c.target then c.unlocked + 1 else 0
    let s := modClk f (fun c => { c with
      target := next, measured := count, windows := c.windows + 1, inBand := band, unlocked := out
      trim := if droop then 0 else trimStep f c next count, droops := if droop then c.droops + 1 else c.droops }) s
    let s := regulate f (band ≥ 4) s
    if c.st = .locking then
      if band ≥ 4 then advanceUp (modClk f (fun c => { c with st := .locked, everLocked := true, failures := 0 }) s)
      else if c.windows + 1 ≥ 64 then lockFails f s
      else s
    else if out ≥ 16 then fieldReset f (raise (evField s 0x083 1 f 0) s)
    else s

/-- A field's supply is good: its oscillators start, and the settle delay begins, as long as 0x2100:03 says at that moment
(R304). -/
def supplyIsGood (f : Nat) (s : State) : State :=
  let x := getFld s f
  if x.powered ∧ !x.good ∧ !x.fault then
    let d := s.time.refCycles + setting s 0x2100 3
    modClk f (fun c => { c with st := .settling, settleEnd := d, windows := 0, inBand := 0, unlocked := 0 })
      (modFld f (fun x => { x with good := true }) s)
  else s

/-- The settle delay of a field has passed: its loop begins to count, with the internal target at the effective one (R302, R304;
log 3). -/
def settleOver (f : Nat) (s : State) : State :=
  if (getClk s f).st = .settling then
    let s := addCycles ((getClk s f).settleEnd - s.time.refCycles) s
    let e := effectiveTarget s f
    modClk f (fun c => { c with st := .locking, target := e, windows := 0, inBand := 0 }) s
  else s

/-! ## Ring clocks (R306 to R309) -/

/-- The source of the control bus: its low four bits (R311). -/
def busSource (s : State) : Nat := setting s 0x2100 7 % 16

/-- The source of the ring switch (R311). -/
def switchSource (s : State) : Nat := setting s 0x2100 8

/-- The ready flag of a source: 0 reference, 1 ring PLL 0, 2 ring PLL 1 (R308, R311). -/
def sourceReady (s : State) (n : Nat) : Bool := bitAt (readyFlags s) n

/-- A ring PLL drives the control bus or the ring switch (R309). -/
def pllUsed (s : State) (i : Nat) : Bool := busSource s == i + 1 || switchSource s == i + 1

/-- A control bus setting gives more than 1.25 GHz: multiplier above 8 for each unit of divider (R311). -/
def busTooFast (s : State) (v : Nat) : Bool :=
  let n := v % 16
  n != 0 && setting s 0x2100 (3 + n) > 8 * 2 ^ bitsOf v 5 4

/-- Refuses a clock write with event 0x085 (R308, R309). -/
def clockRefused (s : State) : Nat × State := (0x08000022, raise (evPilot 0x085 2 0) s)

/-- A write of a source setting switches the domain at once, or is refused (R308, R311). -/
def writeSource (sub v : Nat) (s : State) : Nat × State :=
  let n := if sub = 7 then v % 16 else v
  if !sourceReady s n || (sub == 7 && busTooFast s v) then clockRefused s
  else (0, raise (evPilot 0x086 0 0) (setReg (0x2100 * 256 + sub) v s))

/-- A write of a multiplier: the PLL starts to lock again (R309). -/
def writeMultiplier (sub v : Nat) (s : State) : Nat × State :=
  let i := sub - 4
  if pllUsed s i then clockRefused s
  else
    let s := setReg (0x2100 * 256 + sub) v s
    (0, { s with time := if i = 0 then { s.time with pll0 := false } else { s.time with pll1 := false } })

/-- A domain whose PLL has lost lock falls back to the other PLL if it is ready, else to the reference (R309). -/
def fallBack (sub i : Nat) (s : State) : State :=
  let other := 1 - i
  let n := if sourceReady s (other + 1) then other + 1 else 0
  let v := setting s 0x2100 sub
  raise (evPilot 0x084 1 0) (setReg (0x2100 * 256 + sub) (if sub = 7 then v / 16 * 16 + n else n) s)

/-- A ring PLL loses lock (R309). -/
def pllLost (i : Nat) (s : State) : State :=
  let bus := busSource s == i + 1
  let ring := switchSource s == i + 1
  let s := { s with time := if i = 0 then { s.time with pll0 := false } else { s.time with pll1 := false } }
  let s := if bus then fallBack 7 i s else s
  if ring then fallBack 8 i s else s

end Sys2Proof.Machine
end

