-- ==== Sys2Proof/Machine/Events.lean ====
section
/-!
DEFINITION. The event controller and the event queue: selection, claim, acknowledgement, reading (R407 to R414, R467).
-/

namespace Sys2Proof.Machine

/-- The range of R416 that an event code belongs to, from 0. -/
def codeRange (code : Nat) : Nat :=
  if code < 0x300 then code / 128 else if code < 0x340 then 6 else if code < 0x380 then 7 else if code < 0x3C0 then 8 else 9

/-- The priority of a request: its kind's base plus the boost of its original code's range (R408). -/
def evPriority (s : State) (e : EvReq) : Nat :=
  (match e.kind with | 1 => 5 | 2 => 3 | _ => 1) + setting s 0x2701 (codeRange e.code + 1)

/-- The request to select: highest priority, then earliest to enter (R408). -/
def bestRequest (s : State) (es : List EvReq) : Option EvReq :=
  es.foldl (fun b e =>
    match b with
    | none => some e
    | some c => if evPriority s c < evPriority s e then some e else some c) none

/-- Selection: a request leaves the pending places, and one that waits at its source enters (R407, R408). -/
def selectEvent (s : State) : State :=
  match s.events.selected, bestRequest s s.events.pending with
  | none, some e =>
    let rest := s.events.pending.erase e
    { s with events := { s.events with selected := some e, pending := rest ++ s.events.waiting.take 1, waiting := s.events.waiting.drop 1 } }
  | _, _ => s

/-- The request as its record holds it: a withdrawn one has code 0x3FF, with its own code and the low 48 bits of its detail as
detail (R411). -/
def recordOf (e : EvReq) : EvReq :=
  if e.withdrawn then { e with code := 0x3FF, detail := e.code % 65536 + e.detail % 2 ^ 48 * 65536 } else e

/-- ALERT_N is asserted, low: the queue holds a record, and the standby rail is up (R412, R455). -/
def alertLow (s : State) : Bool := s.power.standby && !s.events.queue.isEmpty

/-- EVENT_NOTIFY to the notification node at a change between empty and non-empty (R412, R414). -/
def notifyQueue (was : Bool) (s : State) : State :=
  let node := setting s 0x2700 8
  if was = s.events.queue.isEmpty ∨ node = 0xFFFF then s
  else
    sendPkt node (mgmtDomain s) 0x5D
      ([BitVec.ofNat 8 (if s.events.queue.isEmpty then 0 else 1), 0, 0, 0] ++ leBytes 4 s.events.newest.toNat) s

/-- The oldest record of the lowest priority (R410). -/
def weakest (q : List EvRec) : Option EvRec :=
  q.foldl (fun b r =>
    match b with
    | none => some r
    | some c => if r.prio < c.prio then some r else some c) none

/-- Claim: the selected request becomes a record (R408 to R410). -/
def claimEvent (s : State) : State :=
  match s.events.selected with
  | none => s
  | some e =>
    let v := s.events
    let prio := evPriority s e
    let r := fun (flag : Bool) => ({ seq := v.nextSeq, time := s.time.tod, req := recordOf e, prio := prio, lostBefore := flag } : EvRec)
    let was := v.queue.isEmpty
    let v := { v with selected := none, nextSeq := nextSeqNo v.nextSeq }
    if v.queue.length < 4096 then
      let v := { v with queue := v.queue ++ [r v.lossFlag], newest := (r false).seq, lossFlag := false }
      notifyQueue was { s with events := v }
    else
      match weakest v.queue with
      | some w =>
        if w.prio < prio then
          { s with events := { v with queue := v.queue.erase w ++ [r true], newest := (r false).seq, lost := sat32 (v.lost + 1)
                                      lossFlag := false } }
        else { s with events := { v with lost := sat32 (v.lost + 1), lossFlag := true } }
      | none => { s with events := v }

/-- Removes every record up to a sequence number, if the queue holds it (R414, R417). -/
def ackEvents (q : BitVec 32) (s : State) : Bool × State :=
  if s.events.queue.any (fun r => r.seq == q) then
    let was := s.events.queue.isEmpty
    let rest := (s.events.queue.dropWhile (fun r => r.seq != q)).drop 1
    (true, notifyQueue was { s with events := { s.events with queue := rest } })
  else (false, s)

/-- The records that a requester may read: all, or those of its own partition (R413). -/
def visible (own : Option Nat) (part : Nat) (q : List EvRec) : List EvRec :=
  q.filter (fun r => (match own with | some p => r.req.part == p | none => true) && (part == 0xFF || r.req.part == part))

end Sys2Proof.Machine
end

