-- ==== Sys2Proof/Machine/Keys.lean ====
section
/-!
DEFINITION. Key operations, the span secret, read sessions and firmware slots (R368, R369, R375 to R379, R387 to R389).
-/

namespace Sys2Proof.Machine

/-! ## Key slots (R377, R378) -/

/-- The key slots of a domain. -/
def getSlots (s : State) (d : Nat) : KeySlots := amGet s.sec.slots d {}

/-- Changes the key slots of a domain. -/
def modSlots (d : Nat) (g : KeySlots → KeySlots) (s : State) : State :=
  { s with sec := { s.sec with slots := amMod s.sec.slots d {} g } }

/-- A key operation's event: 0x308 done, 0x309 refused; the record names the domain (R377). -/
def keyEvent (code kind d : Nat) (s : State) : State :=
  raise { evCtl code kind (activeCtl s) 0 with domain := d, part := (partOfDomain s d).getD 0xFF } s

/-- Packets of a domain that are outstanding (R259). -/
def domainOut (s : State) (d : Nat) : Nat :=
  ((s.fabric.tx.filter (fun e => e.1 % 64 == d)).map (fun e => e.2.out.length)).sum

/-- The domain's flows restart at sequence 0 under the new send slot, once every packet under the one before is resolved
(R258, R378). -/
def restartFlows (d : Nat) (s : State) : State :=
  if (getSlots s d).draining ∧ domainOut s d = 0 then
    let s := modSlots d (fun k => { k with draining := false }) s
    { s with fabric := { s.fabric with
        tx := amMap s.fabric.tx (fun key (f : FlowTx) => if key % 64 = d then { f with next := 0, exhaustedNoted := false } else f)
        ctl := amMap s.fabric.ctl (fun key (c : CtlCount) => if key % 64 = d then {} else c) } }
  else s

/-- STAGE: a slot holds the key of a new generation, and receives under it (R376, R377). -/
def stageKey (d slot g : Nat) (s : State) : Bool × State :=
  if s.sec.secret.isNone ∨ g ≤ amGet s.sec.highest d 0 ∨ (getSlots s d).send = some slot then (false, keyEvent 0x309 2 d s)
  else
    let key := domainKey (s.sec.secret.getD []) d g
    let s := modSlots d (fun k => { k with gens := amSet k.gens slot g, keys := amSet k.keys slot key }) s
    (true, keyEvent 0x308 0 d { s with sec := { s.sec with highest := amSet s.sec.highest d g } })

/-- LOAD: a staged slot becomes the send slot, and the domain's flows restart (R377, R378). -/
def loadKey (d slot : Nat) (s : State) : Bool × State :=
  let k := getSlots s d
  if (amFind k.gens slot).isNone ∨ k.send = some slot then (false, keyEvent 0x309 2 d s)
  else
    let old := match k.send with
      | some t => amGet k.gens t 0
      | none => 0
    let s := modSlots d (fun k => { k with send := some slot, draining := true, oldGen := old }) s
    (true, keyEvent 0x308 0 d (restartFlows d s))

/-- CLEAR: a slot becomes empty (R377). -/
def clearKey (d slot : Nat) (s : State) : Bool × State :=
  let s := modSlots d (fun k => { k with gens := amDel k.gens slot, keys := amDel k.keys slot, send := if k.send = some slot then none else k.send }) s
  (true, keyEvent 0x308 0 d s)

/-- CLEAR SECRET: the span secret, every slot and every highest generation are erased (R375, R377). -/
def clearSecretOp (s : State) : Bool × State :=
  let s := { s with sec := { s.sec with secret := none, slots := [], highest := [] } }
  (true, raise (evCtl 0x30A 0 (activeCtl s) 0) (keyEvent 0x308 0 0x80 s))

/-- A value of the key operation object (R377, R392). An operation number that R377 does not list is refused. -/
def keyOperation (v : Nat) (s : State) : Bool × State :=
  let d := bitsOf v 55 50
  let slot := bitsOf v 49 48
  match bitsOf v 63 56 with
  | 1 => stageKey d slot (bitsOf v 31 0) s
  | 2 => loadKey d slot s
  | 3 => clearKey d slot s
  | 4 => clearSecretOp s
  | _ => (false, keyEvent 0x309 2 d s)

/-- Loads the span secret from the 64 bytes of R375, with event 0x30A. -/
def loadSecret (v : List Byte) (s : State) : State :=
  let shared := x25519 s.ident.deviceKey (slice v 0 32)
  let k := hkdf shared (leBytes 8 s.ident.serial.toNat) (strBytes "ZW56 span secret" 16) 32
  let secret := List.zipWith (fun (a b : Byte) => a ^^^ b) (slice v 32 32) k
  raise (evCtl 0x30A 0 (activeCtl s) 0) { s with sec := { s.sec with secret := some secret } }

/-! ## Read sessions (R369) -/

/-- Opens a read session for a signer, or ends the one that is open (R369, R390). -/
def readSessionOp (signer : Role) (seconds : Nat) (s : State) : State :=
  if seconds = 0 then endSession s
  else
    let t := now s
    raise (evCtl 0x30C 0 (activeCtl s) 0) { s with sec := { s.sec with session := some (signer, t + seconds * secT) } }

/-- The read session's time has run out (R369). -/
def sessionOver (s : State) : State :=
  match s.sec.session with
  | some (_, t) => endSession (advanceTo t s)
  | none => s

/-! ## Firmware slots (R387 to R389, R427) -/

/-- The slot that a controller does not run; true is B. -/
def inactiveB (c : CtlS) : Bool := c.runningB != some true

/-- The state of one of a controller's slots. -/
def slotState (c : CtlS) (b : Bool) : ImgSlot := if b then c.slotB else c.slotA

/-- Changes the state of one of a controller's slots. -/
def setSlotState (b : Bool) (x : ImgSlot) (c : CtlS) : CtlS := if b then { c with slotB := x } else { c with slotA := x }

/-- The security version of the image in a slot (R387). -/
def slotSec (c : CtlS) (b : Bool) : Nat := if b then c.secB else c.secA

/-- A slot can be booted: its signature and hash verify and its security version is at least the minimum (R388). -/
def bootable (c : CtlS) (b : Bool) : Bool :=
  (slotState c b == .valid || slotState c b == .trial) && slotSec c b ≥ c.minSec

/-- The controller that an image target names (R427). -/
def targetCtl (s : State) : Option Ctl :=
  match s.settings.target with
  | 0 => some .cope
  | 1 => some .drag
  | _ => none

/-- Writes the image target: the offset restarts at 0 (R427). -/
def writeTarget (v : Nat) (s : State) : State :=
  { s with settings := { s.settings with target := v, offset := 0, image := [], imageState := 0 } }

/-- The length of the image whose header has been received (R387). -/
def imageLength (bs : List Byte) : Option Nat := if bs.length ≥ 192 then some (192 + fieldAt bs 12 4) else none

/-- The largest image file (R427). -/
def imageMax : Nat := 67108864

/-- Takes an image chunk at the offset; refused with event 0x393 (R427). -/
def imageChunkOp (bs : List Byte) (s : State) : Bool × State :=
  let v := s.settings
  let total := (imageLength v.image).getD imageMax
  let running := match targetCtl s, v.trial with
    | some c, some (t, _) => c == t
    | _, _ => false
  if (targetCtl s).isNone || running || v.imageState ≥ 2 || v.offset ≥ total || v.offset + bs.length > imageMax then
    (false, raise (evCtl 0x393 2 (activeCtl s) 0) s)
  else
    let all := v.image ++ bs
    let len := (imageLength all).getD imageMax
    if len > imageMax then (false, raise (evCtl 0x393 2 (activeCtl s) 0) s)
    else
      let kept := all.take len
      (true, { s with settings := { v with image := kept, offset := kept.length, imageState := if kept.length = len then 2 else 1 } })

/-- A whole image is valid: its header is that of R387, the body's hash is the header's, and the vendor's signature holds. -/
def imageValid (s : State) (bs : List Byte) : Bool :=
  fieldAt bs 0 4 == 0x5A574631 && fieldAt bs 12 4 % 64 == 0 && bs.length == 192 + fieldAt bs 12 4 &&
  sha512 (bs.drop 192) == slice bs 16 64 && edVerify s.ident.vendorKey (bs.take 128) (slice bs 128 64)

/-- The written image is verified, and its slot is marked valid or invalid (R389). -/
def verifyImage (s : State) : State :=
  match targetCtl s with
  | none => s
  | some c =>
    if s.settings.imageState ≠ 2 then s
    else
      let bs := s.settings.image
      let ok := imageValid s bs
      let b := inactiveB (getCtl c s)
      let ver := fieldAt bs 4 4
      let sec := fieldAt bs 8 4
      let s := modCtl c (fun k =>
        let k := setSlotState b (if ok then .valid else .invalid) k
        if b then { k with verB := ver, secB := sec } else { k with verA := ver, secA := sec }) s
      let s := { s with settings := { s.settings with imageState := if ok then 3 else 4, image := [] } }
      if ok then s else raise (evCtl 0x30E 1 c 0) s

/-- The standby restarts on its valid inactive slot, as a trial of 600 s (R389, R427). -/
def startTrialOp (s : State) : Bool × State :=
  let c := otherCtl (activeCtl s)
  let k := getCtl c s
  let b := inactiveB k
  if s.settings.trial.isSome || targetCtl s == some (activeCtl s) || !k.booted || slotState k b != .valid then (false, s)
  else
    let t := now s
    let s := modCtl c (fun k => { setSlotState b .trial k with booted := false, runningB := some b, readyAt := none }) s
    let s := { s with settings := { s.settings with trial := some (c, t + 600 * secT) }, lease := { s.lease with standby := .trial } }
    (true, raise (evCtl 0x30F 0 c 0) s)

/-- The operator confirms the trial: its slot is preferred and the minimum rises (R389). -/
def confirmTrialOp (s : State) : Bool × State :=
  match s.settings.trial with
  | none => (false, s)
  | some (c, _) =>
    let b := (getCtl c s).runningB.getD false
    let s := modCtl c (fun k =>
      { setSlotState b .valid k with prefB := b, minSec := max k.minSec (slotSec k b) }) s
    let sb := if s.lease.standby = .trial then StandbyState.ready else s.lease.standby
    let s := { s with settings := { s.settings with trial := none }, lease := { s.lease with standby := sb } }
    (true, raise (evCtl 0x310 0 c 0) s)

/-- The trial ends unconfirmed: its controller restarts on the slot before, with event 0x311 (R389). -/
def revertTrial (s : State) : State :=
  match s.settings.trial with
  | none => s
  | some (c, _) =>
    let b := (getCtl c s).runningB.getD false
    let s := modCtl c (fun k =>
      { setSlotState b .valid k with booted := false, runningB := some (!b), readyAt := none }) s
    let s := { s with settings := { s.settings with trial := none }, lease := { s.lease with standby := .booting } }
    raise (evCtl 0x311 1 c 0) s

end Sys2Proof.Machine
end

