-- ==== Sys2Proof/Machine/Effects.lean ====
section
/-!
DEFINITION. What an accepted write of an object does beyond its own value, and the rules of the owning chapters that refuse a
write (R396 row 10).
-/

namespace Sys2Proof.Machine

/-- The abort code of a write that the owning chapter's rule refuses (R396). -/
def abortRule : Nat := 0x08000022

/-- A write accepted as a plain value. -/
def plainWrite (index sub v : Nat) (s : State) : Nat × State := (0, putNum index sub v s)

/-! ## Counter aggregates (R110 to R112) -/

/-- The compute cells of a partition, as site and slot. -/
def partCells (s : State) (p : Nat) : List CC :=
  (s.tiles.filter (fun e => siteHolder s e.1 == some p)).flatMap (fun e => e.2.cc.map Prod.snd)

/-- The set of a cell that belongs to a section, whether or not the cell has switched since: of the section before, its previous set
first (R110, R111). -/
def suppliedSet (c : CC) (sec : Nat) (prev : Bool) : Option NumCounters :=
  let old := if c.prevSection = sec then some c.previous else none
  let new := if c.curSection = sec then some c.current else none
  if prev then old <|> new else new <|> old

/-- Counters of a set that stand at their maximum (R112). -/
def stoppedIn (n : NumCounters) : Nat :=
  ([n.flushIn, n.flushOut, n.saturated, n.nanIn, n.invalid].filter (fun k => k == 0xFFFFFFFF)).length

/-- The aggregate trigger: the sum of the named partition and section starts, or is unavailable (R111, R112). DESIGN CHOICE (log 136):
0x2F00:05 names the new section from the trigger on, the sums stay as the last sum left them until the new one completes, and an
unavailable trigger changes the status alone. -/
def aggStart (s : State) : State :=
  let p := setting s 0x2F00 1
  let prev := setting s 0x2F00 2 == 1
  match getPart s p with
  | none => { s with crest := { s.crest with aggStatus := 4 } }
  | some a =>
    let sec := if prev then a.prevSec else a.lastSec
    if sec = 0 then { s with crest := { s.crest with aggStatus := 4 } }
    else { s with crest := { s.crest with aggStatus := 1, aggPart := p, aggPrev := prev, aggSection := sec } }

/-- The sum completes: each cell supplies the set of the named section (R111, R112). -/
def aggFinish (s : State) : State :=
  let v := s.crest
  if v.aggStatus ≠ 1 then s
  else
    let sets := (partCells s v.aggPart).filterMap (fun c => suppliedSet c v.aggSection v.aggPrev)
    let sum := sets.foldl (fun (m : NumCounters) n =>
      { flushIn := m.flushIn + n.flushIn, flushOut := m.flushOut + n.flushOut, saturated := m.saturated + n.saturated
        nanIn := m.nanIn + n.nanIn, invalid := m.invalid + n.invalid }) ({} : NumCounters)
    let running := !v.aggPrev && (((getPart s v.aggPart).bind Part.current).map Current.sec) == some v.aggSection
    { s with crest := { v with aggStatus := if running then 3 else 2, aggSums := sum, aggStopped := (sets.map stoppedIn).sum } }

/-! ## Power (R329, R330, R341, R342) -/

/-- E_f / P of a partition's admitted cadence is above a reservation (R330): E_f in mJ, P in ns. -/
def belowCadence (a : Part) (v : Nat) : Bool :=
  match a.cadence with
  | some c => v * c.period < c.energy * 1000000
  | none => false

/-- A write of a reservation (R330). -/
def writeReservation (p v : Nat) (s : State) : Nat × State :=
  match getPart s p with
  | none => (abortRule, s)
  | some a =>
    if v % granularity s ≠ 0 ∨ sumReserved s - a.reservation + v > setting s 0x2200 8 ∨ belowCadence a v then
      (abortRule, raise (evPart s 0x00D 2 p 0) s)
    else plainWrite 0x2210 (p + 1) v s

/-! ## Roles (R42) -/

/-- A write of a partition's role: refused with event 0x384 unless the partition is quiesced; the new service order holds from the next
grant of its memory cells on (R42, R43, R329). -/
def writeRole (p v : Nat) (s : State) : Nat × State :=
  if quiesced s p then (0, mcServeAll (applyRole p v s)) else (abortRule, raise (evPart s 0x384 2 p 0) s)

/-! ## Wafer-crest allotment (R237) -/

/-- The range of a partition would overlap another's (R237). -/
def rangeTaken (s : State) (p base n : Nat) : Bool :=
  s.parts.any (fun e =>
    let b := amGet s.crest.base e.1 0
    let m := amGet s.crest.count e.1 0
    e.1 != p && n != 0 && m != 0 && base < b + m && b < base + n)

/-- A refused write of a partition's wafer-crest range has event 0x183, one outside the object's own range as well (R237). -/
def rangeRefused (index p : Nat) (s : State) : State :=
  if index = 0x2C01 ∨ index = 0x2C02 then raise (evPart s 0x183 2 p 0) s else s

/-- The wafer-crest counters that a partition's range takes in anew start at p = c = 0 with B = 65,535 (R221); DESIGN CHOICE (log 140):
those that the same partition had given up before as well. -/
def freshRange (p base n : Nat) (s : State) : State :=
  let b := amGet s.crest.base p 0
  let m := amGet s.crest.count p 0
  clearCrest (fun i => base ≤ i && i < base + n && !(b ≤ i && i < b + m)) s

/-- A write of a wafer-crest range's base or count (R237). -/
def writeRange (index p v : Nat) (s : State) : Nat × State :=
  let base := if index = 0x2C01 then v else amGet s.crest.base p 0
  let n := if index = 0x2C02 then v else amGet s.crest.count p 0
  if quiesced s p && (n == 0 || (14336 ≤ base && base + n ≤ 16384)) && !rangeTaken s p base n then
    plainWrite index (p + 1) v (freshRange p base n s)
  else (abortRule, rangeRefused index p s)

/-! ## Edge ports (R240, R272, R274) -/

/-- An enabled port that is down begins PMD training, from power-up step 11 on (R240, R428). -/
def portTrain (i : Nat) (s : State) : State :=
  if setting s 0x2610 (i + 1) = 1 ∧ s.pilot.step ≥ 11 ∧ (getPort s i).st ≠ .up then setPort i .training s
  else s

/-- Takes a port out of service: a link that is up goes down (R240, R264). -/
def portOut (i : Nat) (s : State) : State := if portUp s i then linkDown i s else s

/-- Sets a port's enable: 0 holds the port down, 1 lets it train (R274). -/
def portEnable (i v : Nat) (s : State) : State :=
  let s := putNum 0x2610 (i + 1) v s
  if v = 0 then setPort i .disabled (portOut i s)
  else if (getPort s i).st = .disabled then portTrain i (setPort i .down s)
  else s

/-- PORT_CONTROL's actions: 0 disable, 1 enable, 2 restart PMD training once (R272, R274). -/
def portAction (i v : Nat) (s : State) : State :=
  let s := putNum 0x2619 (i + 1) v s
  match v with
  | 0 => portEnable i 0 s
  | 1 => portEnable i 1 s
  | 2 => portTrain i (portOut i s)
  | _ => s

/-! ## Sampling (R168, R173) -/

/-- Sampling of a partition is enabled, with the period, base and length of the moment, or disabled (R168, R173). -/
def writeSampling (p v : Nat) (s : State) : State :=
  let cfg := (setting s 0x2D21 (p + 1), setting s 0x2D22 (p + 1), setting s 0x2D23 (p + 1))
  let s := modPart p (fun a => { a with sampling := if v = 1 then some cfg else none }) (putNum 0x2D20 (p + 1) v s)
  { s with tiles := amMap s.tiles (fun k (t : Tile) => if siteHolder s k = some p then { t with sampleAt := 0 } else t) }

/-- The sample ring would end beyond the overlay (R173). -/
def ringTooLong (base len : Nat) : Bool := base + 4 * len > 2097152

/-! ## Lease, sleep, resets, tests -/

/-- A controller has reported ready in the last 2 ms (R402, R405). -/
def readyLately (s : State) (c : Ctl) : Bool :=
  match (getCtl c s).readyAt with
  | some t => now s ≤ t + 2 * msT
  | none => false

/-- The lease passes on request (R405). -/
def passLeaseOp (s : State) : Nat × State :=
  let c := otherCtl (activeCtl s)
  if readyLately s c then
    let s := changeOwner c s
    (0, raise (evPilot 0x387 0 s.lease.epoch.toNat) s)
  else (abortRule, s)

/-- A sleep request (R418). -/
def sleepOp (s : State) : Nat × State :=
  if maySleep s then (0, beginSleep s) else (abortRule, raise (evPilot 0x392 2 0) s)

/-- The scopes that a self-test allows (R441): 0 partition, 1 field, 2 wafer, 3 port. -/
def testScopes (t : Nat) : List Nat :=
  match t with
  | 1 | 5 | 6 => [0, 1, 2]
  | 2 | 3 => [1, 2]
  | 4 => [0, 2]
  | 7 => [3]
  | _ => []

/-- A partition is not free for a destructive test (R442). -/
def partHeld (s : State) (p : Nat) : Bool := !quiesced s p || ((getPart s p).bind Part.job).isSome

/-- Why a self-test request is refused, or 0 (R441, R442); the order of the checks is the model's (log 26). -/
def testRefusal (own : Option Nat) (v : Nat) (s : State) : Nat :=
  let t := bitsOf v 31 24
  let scope := bitsOf v 23 16
  let id := bitsOf v 15 8
  let owned := match own with
    | none => true
    | some p => (scope == 0 && id == p) || (scope == 1 && holder s id == some p)
  let exists' := match scope with
    | 0 => (getPart s id).isSome
    | 1 => id < 56
    | 2 => true
    | _ => id < 64
  let busy := match scope with
    | 0 => partHeld s id
    | 1 => match (getFld s id).owner with
      | .held p => partHeld s p
      | .scrubbing => true
      | .idle => false
    | 2 => s.parts.any (fun e => partHeld s e.1)
    | _ => (getPort s id).st != .disabled
  if !(testScopes t).contains scope then 0x63
  else if !owned || !exists' then 0x62
  else if s.test.st = 1 then 0x61
  else if t ≥ 5 && busy then 0x60
  else 0

/-- The idle fields that a destructive test holds as scrubbing (R444). -/
def testHeld (v : Nat) (s : State) : List Nat :=
  let scope := bitsOf v 23 16
  if bitsOf v 31 24 < 5 then []
  else ((List.range 56).filter (fun f => scope == 2 || (scope == 1 && f == bitsOf v 15 8))).filter (fun f => (getFld s f).owner == .idle)

/-- A self-test request (R442, R444). -/
def selfTestOp (own : Option Nat) (v : Nat) (s : State) : Nat × State :=
  let code := testRefusal own v s
  let part := if bitsOf v 23 16 = 0 then bitsOf v 15 8 else own.getD 0xFF
  let ev := fun (c k d : Nat) => ({ evCtl c k (activeCtl s) d with part := part } : EvReq)
  if code ≠ 0 then
    let test := if s.test.st = 1 then { s.test with code := code }
      else { s.test with st := 4, code := code, echo := BitVec.ofNat 32 (keptBits 0x2A10 1 v), failures := 0, first := 0 }
    (abortRule, raise (ev 0x3CA 2 code) { s with test := test })
  else
    let held := testHeld v s
    let s := held.foldl (fun s f => modFld f (fun x => { x with owner := .scrubbing }) s) s
    (0, raise (ev 0x3C9 0 (bitsOf v 31 24))
      { s with test := { st := 1, code := 0, echo := BitVec.ofNat 32 (keptBits 0x2A10 1 v), failures := 0, first := 0, held := held } })

/-! ## Plain writes (R396 row 10, R398) -/

/-- Subindexes 5 and 6 of 0x2920: start a trial, confirm it (R427). -/
def trialOp (sub : Nat) (s : State) : Bool × State := if sub = 5 then startTrialOp s else confirmTrialOp s

/-- An accepted value in range is written, with the effect that its chapter gives it; the abort code, or 0. The requester's own
partition is given for a tenant. -/
def ruleWrite (own : Option Nat) (index sub v : Nat) (s : State) : Nat × State :=
  let p := sub - 1
  match index with
  | 0x2F00 =>
    if sub = 1 then (if own.isSome && own != some v then (abortRule, s) else plainWrite index sub v s)
    else if sub = 3 then (if v = 0 then (0, s) else if s.crest.aggStatus = 1 then (abortRule, s) else (0, aggStart s))
    else plainWrite index sub v s
  | 0x2100 =>
    if sub = 4 ∨ sub = 5 then writeMultiplier sub v s
    else if sub = 7 ∨ sub = 8 then writeSource sub v s
    else plainWrite index sub v s
  | 0x2200 =>
    if (sub = 8 ∧ v < sumReserved s) ∨ (sub = 9 ∧ s.parts ≠ []) then (abortRule, s) else plainWrite index sub v s
  | 0x2210 => writeReservation p v s
  | 0x2300 => if sub = 2 ∧ v ≥ setting s 0x2300 1 then (abortRule, s) else plainWrite index sub v s
  | 0x2403 => writeRole p v s
  | 0x2C01 | 0x2C02 => writeRange index p v s
  | 0x2610 => (0, portEnable p v s)
  | 0x2612 => (0, refreshOff (putNum index sub v s))
  | 0x2D20 => (0, writeSampling p v s)
  | 0x2D22 => if ringTooLong v (setting s 0x2D23 sub) then (abortRule, s) else plainWrite index sub v s
  | 0x2D23 => if ringTooLong (setting s 0x2D22 sub) v then (abortRule, s) else plainWrite index sub v s
  | 0x2700 =>
    if sub = 6 then
      let (ok, s) := ackEvents (BitVec.ofNat 32 v) s
      (if ok then 0 else abortRule, s)
    else plainWrite index sub v s
  | 0x2720 => if sub = 4 then passLeaseOp s else plainWrite index sub v s
  | 0x2731 => if sub = 1 then sleepOp s else (0, wakeFire [93] s)
  | 0x2920 =>
    if sub = 1 then (0, writeTarget v s)
    else
      let (ok, s) := trialOp sub s
      (if ok then 0 else abortRule, s)
  | 0x2A02 => (0, beginReset p 5 [] false s)
  | 0x2A10 => if sub = 1 then selfTestOp own v s else plainWrite index sub v s
  | 0x4000 =>
    if v = 3 ∧ ppsTaken s p then (abortRule, s) else (0, pinFunction p v (putNum index sub v s))
  | 0x4001 => (0, pinLevel p (v == 1) (putNum index sub v s))
  | _ => plainWrite index sub v s

/-! ## Permitted writes (R385 status 7) -/

/-- A write of a key object, with event 0x313 (R368, R390). -/
def writeKey (sub : Nat) (v : List Byte) (s : State) : State := raise (evCtl 0x313 0 (activeCtl s) 0) (putOctets 0x2510 sub v s)

/-- The site that a retire request names (R206). -/
def retireSite (v : Nat) : Option Nat :=
  let x := bitsOf v 31 23
  let y := bitsOf v 22 14
  if x < 288 ∧ y < 280 then some (siteKey x y) else none

/-- A retire request that is refused, its permit being invalid or its site not enabled, has event 0x11D (R205). -/
def refuseRetire (isRetire : Bool) (s : State) : State := if isRetire then raise (evCtl 0x11D 2 (activeCtl s) 0) s else s

/-- A value that a permit carries is written, with the effect that its chapter gives it; false where the chapter's rule refuses
it (R385). -/
def permitted (signer : Role) (index sub : Nat) (bs : List Byte) (s : State) : Bool × State :=
  let v := leNat bs
  match index with
  | 0x2B00 => match retireSite v with
    | some k => if siteState s k = .enabled then (true, retire k (putNum index sub v s)) else (false, s)
    | none => (false, s)
  | 0x2400 =>
    if sub = 1 then
      let (ok, s) := tryCreate v s
      (ok, if ok then putNum index sub v s else s)
    else if (getPart s v).isSome then (true, deletePart v (putNum index sub v s))
    else (false, s)
  | 0x2500 =>
    if sub = 4 then (if (partOfDomain s v).isSome then (false, s) else (true, putNum index sub v s))
    else if sub = 5 then (true, loadSecret bs s)
    else if sub = 8 then
      let (ok, s) := keyOperation v s
      (ok, if ok then putNum index sub v s else s)
    else if sub = 18 then (true, readSessionOp signer v s)
    else (true, putNum index sub v s)
  | 0x2510 => (true, writeKey sub bs s)
  | 0x2619 => (true, portAction (sub - 1) v s)
  | 0x2A00 => (true, waferReset 6 s)
  | 0x2A10 =>
    let (code, s) := selfTestOp none v s
    (code == 0, if code = 0 then putNum index sub v s else s)
  | 0x2A20 => if (getFld s (sub - 1)).fault then (false, s) else (true, fieldReset (sub - 1) s)
  | _ => (true, putNum index sub v s)

end Sys2Proof.Machine
end

