-- ==== Sys2Proof/Machine/Dict.lean ====
section
/-!
DEFINITION. Requests to the object dictionary: the checks of R396 in their order, permits, and the two paths by which a request
arrives (R365, R384 to R386, R394 to R399, R414).
-/

namespace Sys2Proof.Machine

/-- Who asks (R365): the operator, with the role of an open read session, or the tenant of a partition. -/
structure Asker where
  own : Option Nat
  session : Option Role
deriving DecidableEq, Repr

/-- The request may write objects with these roles, its own partition's entries only for a tenant (R396 row 5, R399). -/
def mayWrite (w : Asker) (o : Obj) (sub : Nat) : Bool :=
  match w.own with
  | none => o.roles.contains .operator
  | some p => o.roles.contains .tenant && (o.ent != .part || sub == p + 1)

/-- The request may read an entry (R12, R112, R396 row 5, R446): a tenant only what its table allows, of its own partition and
the fields that it holds. -/
def mayRead (s : State) (w : Asker) (o : Obj) (sub : Nat) : Bool :=
  match w.own with
  | none => true
  | some p =>
    o.tenantReads &&
    (match o.ent with
     | .part => sub == p + 1
     | .field => holder s (sub - 1) == some p
     | _ => true) &&
    (match o.index with
     | 0x2F00 => sub < 5 || setting s 0x2F00 1 == p
     | 0x2A01 => s.pilot.lossScope == p
     | 0x2A12 => bitsOf s.test.echo.toNat 23 16 == 0 && bitsOf s.test.echo.toNat 15 8 == p
     | _ => true)

/-- The subindex is the entry of a partition that does not exist (R396 row 6); fields, ports and domains all exist. -/
def entryMissing (s : State) (o : Obj) (sub : Nat) : Bool := o.ent == .part && (getPart s (sub - 1)).isNone

/-- Reads an object: the abort code, or 0 and the value (R396, R398). Subindex 00 of an array holds its number of entries. -/
def readObject (w : Asker) (index sub : Nat) (s : State) : Nat × List Byte :=
  if !indexExists index then (0x06020000, [])
  else
    match findObj index sub with
    | none =>
      match arrayCount index with
      | some n => if sub = 0 then (0, [BitVec.ofNat 8 n]) else (0x06090011, [])
      | none => (0x06090011, [])
    | some o =>
      if o.acc = .wo then (0x06010001, [])
      else if !mayRead s w o sub then (0x06010000, [])
      else if entryMissing s o sub then (0x06090011, [])
      else (0, objBytes s w.own.isSome o sub)

/-! ## Permits (R384, R385) -/

/-- The role that a permit's signer byte names (R384). -/
def signerRole (n : Nat) : Option Role :=
  match n with
  | 1 => some .operator
  | 2 => some .metrology
  | 3 => some .vendor
  | 4 => some .service
  | _ => none

/-- The registered key of a signer; the service key counts only in the service window (R368, R385 status 4). -/
def signerKey (s : State) (r : Role) : Option (List Byte) :=
  match r with
  | .operator => s.sec.opKey
  | .metrology => s.sec.metKey
  | .vendor => some s.ident.vendorKey
  | .service => if s.time.tod.toNat < setting s 0x2500 10 then s.sec.svcKey else none
  | .tenant => none

/-- An accepted change of a stored object is saved, and replaces a record carried for it (R424, R426). -/
def noteWrite (o : Obj) (sub : Nat) (s : State) : State :=
  if isStored o sub then noteChange (dropCarried (o.index * 256 + sub) s) else s

/-- The last checks of a permit: its object, and its value under the owning chapter's rule (R385 status 6 and 7). A permit in
PORT_CONTROL must name the object and action of its command. -/
def applyPermit (want : Option (Nat × Nat × Nat)) (r : Role) (index sub len : Nat) (bs : List Byte) (s : State) : Nat × State :=
  match findObj index sub with
  | none => (6, s)
  | some o =>
    if o.acc ≠ .rwp ∨ !o.roles.contains r ∨ entryMissing s o sub then (6, s)
    else if len ≠ o.len ∨ (o.ty < 8 ∧ !inRange s o sub (leNat bs)) then (7, s)
    else if want.any (fun x => x != (index, sub, leNat bs)) then (7, s)
    else
      let (ok, t) := permitted r index sub bs (raise (evCtl 0x300 0 (activeCtl s) 0) s)
      if ok then (0, noteWrite o sub t) else (7, (permitted r index sub bs s).2)

/-- Checks a permit in the order of R385: its status, and the state after it. The nonce rises where the signature verified, and
a refusal writes event 0x301 (R386), and one of a retire request event 0x11D as well (R205). -/
def checkPermit (want : Option (Nat × Nat × Nat)) (bs : List Byte) (s : State) : Nat × State :=
  let index := fieldAt bs 24 2
  let sub := fieldAt bs 26 1
  let len := fieldAt bs 27 1
  let signer := signerRole (fieldAt bs 5 1)
  let key := signer.bind (signerKey s)
  let set := fun (st : Nat) (s : State) =>
    let s := { s with sec := { s.sec with status := BitVec.ofNat 32 (st * 2 ^ 24 + index * 256 + sub) } }
    if st = 0 then s else refuseRetire (index == 0x2B00 && sub == 5) (raise (evCtl 0x301 2 (activeCtl s) st) s)
  let st :=
    if fieldAt bs 0 4 ≠ 0x5A575031 ∨ fieldAt bs 4 1 ≠ 1 ∨ fieldAt bs 6 2 ≠ 0 ∨ fieldAt bs 28 4 ≠ 0 ∨ len = 0 ∨ len > 64 then 1
    else if fieldAt bs 8 8 ≠ s.ident.serial.toNat then 2
    else if fieldAt bs 16 8 ≠ s.sec.nonce.toNat then 3
    else match key with
      | none => 4
      | some k => if edVerify k (slice bs 0 96) (slice bs 96 64) then 0 else 5
  if st ≠ 0 then (st, set st s)
  else
    let s := { s with sec := { s.sec with nonce := s.sec.nonce + 1 } }
    let (st, s) := applyPermit want (signer.getD .operator) index sub len (slice bs 32 len) s
    (st, set st s)

/-! ## Writes (R396, R398) -/

/-- A write whose object is found: rows 3 to 10 of R396. -/
def writeFound (w : Asker) (sdo : Bool) (o : Obj) (sub : Nat) (v : List Byte) (s : State) : Nat × State :=
  let first := sdo && o.index == 0x2510 && sub == 1 && s.sec.opKey.isNone
  if o.acc = .ro then (0x06010002, s)
  else if !mayWrite w o sub then (0x06010000, s)
  else if entryMissing s o sub then (0x06090011, s)
  else if o.acc = .rwp ∧ !first then (0x08000021, raise (evCtl 0x314 2 (activeCtl s) 0) s)
  else if v.length ≠ o.len then (0x06070010, s)
  else if first then (0, noteWrite o sub (writeKey sub v s))
  else if o.ty ≥ 8 then
    if o.index = 0x2500 then
      let (st, s) := checkPermit none v s
      (if st = 0 then 0 else abortRule, s)
    else
      let (ok, s) := imageChunkOp v s
      (if ok then 0 else abortRule, s)
  else if !inRange s o sub (leNat v) then (0x06090030, rangeRefused o.index (sub - 1) s)
  else
    let (code, t) := ruleWrite w.own o.index sub (leNat v) s
    (code, if code = 0 then noteWrite o sub t else t)

/-- Writes an object: the abort code, or 0, and the state after it (R396, R398). -/
def writeObject (w : Asker) (sdo : Bool) (index sub : Nat) (v : List Byte) (s : State) : Nat × State :=
  if !indexExists index then (0x06020000, s)
  else
    match findObj index sub with
    | none => (if sub = 0 ∧ (arrayCount index).isSome then 0x06010002 else 0x06090011, s)
    | some o => writeFound w sdo o sub v s

/-! ## EtherCAT (R394, R395) -/

/-- The operator, with the role of an open read session (R365). -/
def sdoAsker (s : State) : Asker := ⟨none, s.sec.session.map Prod.fst⟩

/-- Puts an SDO reply out: abort code or 0, and data (R395). -/
def sdoReply (code : Nat) (data : List Byte) (s : State) : State :=
  { s with pilot := { s.pilot with sdo := s.pilot.sdo ++ [(code, data)] } }

/-- The active controller serves an SDO write. -/
def sdoServe (index sub : Nat) (v : List Byte) (s : State) : State :=
  let (code, s) := writeObject (sdoAsker s) true index sub v s
  sdoReply code [] s

/-- The mailbox can be served: an active controller has the settings (R395, R430). -/
def mailboxServed (s : State) : Bool := hasActive s && (s.pilot.step ≥ 5 || linkWait s)

/-- Requests that wait in SM0 are served, oldest first (R395). -/
def serveMailbox (s : State) : State :=
  if mailboxServed s then
    let ws := s.pilot.mailbox
    ws.foldl (fun s e => sdoServe (e.1 / 256) (e.1 % 256) e.2 s) { s with pilot := { s.pilot with mailbox := [] } }
  else s

/-- The bytes of SM0 that a waiting request takes: 16 of headers and its value, or for a segmented download its first segment (R394). -/
def mailboxUse (v : List Byte) : Nat := min 512 (16 + v.length)

/-- An SDO write arrives: from PRE-OP on it is served, or waits in SM0 while no controller serves the mailbox (R394, R395). -/
def sdoWrite (index sub : Nat) (v : List Byte) (s : State) : State :=
  if s.pilot.esm = 0 then s
  else if mailboxServed s then sdoServe index sub v (serveMailbox s)
  else if ((s.pilot.mailbox.map (fun e => mailboxUse e.2)).sum + mailboxUse v ≤ 512) then
    { s with pilot := { s.pilot with mailbox := s.pilot.mailbox ++ [(index * 256 + sub, v)] } }
  else s

/-! ## The fabric (R365, R399, R414) -/

/-- The requester of a fabric command (R365). -/
def fabricAsker (s : State) (domain : Nat) : Asker :=
  if domain = mgmtDomain s then ⟨none, none⟩ else ⟨some ((partOfDomain s domain).getD 0xFF), none⟩

/-- The header names a partition that the requester may name: any for the operator, its own or 0xFF for a tenant (R414). -/
def headerOk (w : Asker) (h : Hdr) : Bool :=
  match w.own with
  | none => true
  | some p => h.part == p || h.part == 0xFF

/-- MGMT_REPLY: status 0 or 2, abort code, the queue's figures where they apply, and a value (R414). -/
def mgmtReply (p : Pkt) (h : Hdr) (status abort oldest newest held lost : Nat) (value : List Byte) (s : State) : State :=
  sendPkt p.node p.domain 0x5F
    (leBytes 2 h.tag.toNat ++ [BitVec.ofNat 8 status, 0] ++ leBytes 4 abort ++ leBytes 4 oldest ++ leBytes 4 newest ++
     leBytes 2 held ++ [0, 0] ++ leBytes 4 lost ++ value) s

/-- MGMT_REPLY of an object command. -/
def objReply (p : Pkt) (h : Hdr) (abort : Nat) (value : List Byte) (s : State) : State :=
  mgmtReply p h (if abort = 0 then 0 else 2) abort 0 0 0 0 value s

/-- OBJECT_WRITE, once delivered (R399, R414). -/
def fabricWrite (p : Pkt) (h : Hdr) (index sub : Nat) (v : List Byte) (s : State) : State :=
  let w := fabricAsker s p.domain
  if headerOk w h then
    let (code, s) := writeObject w false index sub v s
    objReply p h code [] s
  else objReply p h 0x06010000 [] s

/-- OBJECT_READ, once delivered (R399, R414). -/
def fabricRead (p : Pkt) (h : Hdr) (index sub : Nat) (s : State) : State :=
  let w := fabricAsker s p.domain
  if headerOk w h then
    let (code, v) := readObject w index sub s
    objReply p h code v s
  else objReply p h 0x06010000 [] s

/-- A write of an object by either path (R365). -/
def viaWrite (self : Instr) (via : Via) (index sub : Nat) (v : List Byte) (s : State) : State :=
  match via with
  | .sdo => sdoWrite index sub v s
  | .fabric p h => ingress p self (fabricWrite p h index sub v) s

/-- A write of a number to an object of a length in bytes; a number that does not fit is a longer value. -/
def viaNum (self : Instr) (via : Via) (index sub n v : Nat) (s : State) : State :=
  viaWrite self via index sub (leBytes (if v < 256 ^ n then n else n + 1) v) s

end Sys2Proof.Machine
end

