-- ==== Sys2Proof/Machine/AssayFam.lean ====
section
/-!
DEFINITION. The commands of the Assay, its mirror links and the ledger (R344 to R364).
-/

namespace Sys2Proof.Machine

/-! ## The Assay's log (R349) -/

/-- Kinds of log entries: 0 power-up, 1 power-down, 2 programming mode, 3 parameter change, 4 firmware change, 5 case opened,
6 LED check result, 7 log cleared. The numbers are the model's own (log 27). -/
def assayLog (kind a b : Nat) (s : State) : State :=
  let v := s.assay
  if v.log.length < 1024 then
    { s with assay := { v with log := v.log ++ [(kind, now s, a, b)], logFull := v.log.length + 1 = 1024 } }
  else if kind ≤ 1 ∨ kind = 5 then { s with assay := { v with lostEvents := min 0xFFFF (v.lostEvents + 1) } }
  else s

/-- The LED check result as R353 codes it. -/
def ledCode : LedCheck → Nat
  | .good => 0
  | .failed => 1
  | .unverified => 2
  | .notYetRun => 3

/-- The Assay's status word (R353); bit 6 follows the last frame's current, below Imin of 0.5 A (R344). -/
def assayStatus (s : State) : Nat :=
  let v := s.assay
  let amps := (getCtl (activeCtl s) s).mirror.milliamps
  (if v.selfTest then 1 else 0) + (if v.caseOpen then 2 else 0) + (if v.programming then 4 else 0) + (if v.logFull then 8 else 0) +
  ledCode v.led * 16 + (if amps < 500 then 64 else 0)

/-- What a data readout returns: energy, firmware identifier and checksum, status, the count of events lost to a full log, and the log
(R348, R349). -/
def assayReadout (s : State) : List Nat :=
  [s.assay.energy, Config.firmwareIdent s.assay.checksum.toNat, s.assay.checksum.toNat, assayStatus s, s.assay.lostEvents] ++
  s.assay.log.flatMap (fun e => [e.1, e.2.1, e.2.2.1, e.2.2.2])

/-- The energy that the Assay's display shows, in Wh, that is kWh with three decimals (R345). -/
def displayWh (s : State) : Nat := s.assay.energy / 3600000

/-- The eight hexadecimal digits of the checksum that it shows on a press of its button, highest first (R345). -/
def displayChecksum (s : State) : List Nat := (List.range 8).map (fun i => bitsOf s.assay.checksum.toNat (31 - 4 * i) (28 - 4 * i))

/-- The optical port returns a readout. -/
def putReadout (s : State) : State := { s with assay := { s.assay with readouts := s.assay.readouts ++ [assayReadout s] } }

/-! ## The mirror link (R353, R354) -/

/-- A frame is valid: its sync, length and CRC-32C are those of R353. -/
def frameValid (bs : List Byte) : Bool :=
  bs.length == 48 && fieldAt bs 0 2 == 0xA55A && fieldAt bs 2 2 == 48 && crc32c (bs.take 44) == fieldAt bs 44 4

/-- The events that a controller's ledger side writes for a frame after an earlier one (R352, R354, R363). -/
def frameEvents (old new : Mirror) (c : Ctl) (s : State) : State :=
  let led := fun (m : Mirror) => bitsOf m.status.toNat 5 4
  let again := fun (b : Bool) (code kind detail : Nat) (s : State) => if b then raise { evCtl code kind c detail with cls := 4 } s else s
  let s := again (old.link == 2) 0x341 0 0 s
  let s := again new.newSerial 0x343 0 0 s
  let s := again (new.fell && !old.fell) 0x344 1 0 s
  let s := again (old.link != 0 && old.checksum != new.checksum) 0x345 0 new.checksum.toNat s
  let s := again (bitAt new.status.toNat 1 && !bitAt old.status.toNat 1) 0x346 1 0 s
  let s := again (led new == 1 && led old != 1) 0x347 1 0 s
  let s := again ((led new == 2 && led old != 2) || (led new == 0 && (led old == 1 || led old == 2))) 0x348 0 (led new) s
  again (bitAt new.status.toNat 3 && !bitAt old.status.toNat 3) 0x34D 0 0 s

/-- The tick that closes the open ledger second has passed, or falls in this cycle: a frame now belongs to the next second (R355). -/
def closeDue (s : State) : Bool :=
  s.ledger.begun && (s.ledger.ticks ≥ 1000 || (s.ledger.ticks == 999 && s.time.refCycles ≥ s.time.lastTick + tickCycles))

/-- A valid frame reaches a controller (R353, R354, R356, R358). The active controller's end feeds the ledger and writes the
events. -/
def takeMirror (c : Ctl) (bs : List Byte) (s : State) : State :=
  let old := (getCtl c s).mirror
  let serial : Word64 := BitVec.ofNat 64 (fieldAt bs 8 8)
  let energy := fieldAt bs 16 8
  let counter : BitVec 32 := BitVec.ofNat 32 (fieldAt bs 4 4)
  let changed := old.link != 0 && serial != old.serial
  let gap := if old.link = 0 ∨ changed then 0 else (counter - old.counter - 1).toNat
  let fell := old.link != 0 && !changed && energy < old.energy
  let t := now s
  let rebase := if changed || fell then some energy else none
  let first := closeDue s && old.due.isNone
  let due := if first then some (old.energy, old.fresh, old.newSerial, old.fell, rebase)
             else old.due.map (fun d => (d.1, d.2.1, d.2.2.1, d.2.2.2.1, rebase <|> d.2.2.2.2))
  let new : Mirror :=
    { serial := serial, checksum := BitVec.ofNat 32 (fieldAt bs 36 4), status := BitVec.ofNat 16 (fieldAt bs 40 2), energy := energy
      millivolts := fieldAt bs 24 4, milliamps := fieldAt bs 28 4, tenthWatts := fieldAt bs 32 4, logUsed := fieldAt bs 42 2
      counter := counter, bad := old.bad, missed := sat32 (old.missed + gap), link := 1, lastAt := t, fresh := true
      newSerial := (!first && old.newSerial) || changed, fell := (!first && old.fell) || fell, due := due }
  let s := modCtl c (fun k => { k with mirror := new }) s
  let s := { s with assay := { s.assay with serial := serial, energy := energy, checksum := new.checksum
                                            selfTest := bitAt new.status.toNat 0 } }
  if c = activeCtl s then
    let s := if due.isNone && rebase.isSome then { s with ledger := { s.ledger with base := rebase } } else s
    let s := frameEvents old { new with newSerial := changed, fell := fell || old.fell } c s
    if old.link = 2 then wakeFire [91] s else s
  else s

/-- MIRROR_FRAME (R353, R354): a frame is received by a controller; a bad one is counted. -/
def execMirrorFrame (c : Ctl) (bytes : List Byte) (s : State) : Out :=
  .next (
    if frameValid bytes then takeMirror c bytes s
    else modCtl c (fun k => { k with mirror := { k.mirror with bad := sat32 (k.mirror.bad + 1) } }) s)

/-- MIRROR_LINK_LOSS (R354): no valid frame has arrived for 1 s, with event 0x340. -/
def execMirrorLinkLoss (c : Ctl) (s : State) : Out :=
  .next (
    let m := (getCtl c s).mirror
    if m.link ≠ 1 then s
    else
      let s := modCtl c (fun k => { k with mirror := { k.mirror with link := 2 } }) (advanceTo (m.lastAt + secT) s)
      if c = activeCtl s then raise { evCtl 0x340 1 c 0 with cls := 4 } s else s)

/-- LEDGER_CLOSE (R355 to R358, R362): the 1,000th tick of the open ledger second; ticks not yet issued pass first (log 3). -/
def execLedgerClose (s : State) : Out :=
  .next (
    let missing := 1000 - s.ledger.ticks
    let s := if s.ledger.begun then s else { s with ledger := { s.ledger with begun := true } }
    let s := msTicks missing (advanceTo ((s.time.lastTick + missing * tickCycles) * 64) s)
    closeSecond { s with ledger := { s.ledger with ticks := s.ledger.ticks - 1000 } })

/-! ## Pulses, log and programming mode (R347 to R352) -/

/-- METROLOGICAL_PULSE (R350): one pulse for 3.6 kJ. -/
def execMetrologicalPulse (s : State) : Out :=
  .next (
    let t := now s
    { s with assay := { s.assay with pulses := s.assay.pulses + 1, windowPulses := s.assay.windowPulses + 1, lastPulse := some t } })

/-- DIAGNOSTIC_PULSE (R350): at most one per second, and none within 10 ms of a metrological pulse. -/
def execDiagnosticPulse (s : State) : Out :=
  .next (
    let t := now s
    let soon := match s.assay.lastDiag with
      | some d => t < d + secT
      | none => false
    let near := match s.assay.lastPulse with
      | some m => t < m + 10 * msT
      | none => false
    if soon || near then s
    else { s with assay := { s.assay with windowDiag := s.assay.windowDiag + 1, lastDiag := some t } })

/-- LED_CHECK_WINDOW (R351): the result of a 60 s window; pulses of 2 ms and 20 µs give the on-time. A change is logged (R349). -/
def execLedCheckWindow (drive optical : Bool) (s : State) : Out :=
  .next (
    let onUs := 2000 * s.assay.windowPulses + 20 * s.assay.windowDiag
    let r : LedCheck :=
      if !drive then .failed else if onUs < 4000 then .unverified else if optical then .good else .failed
    let old := s.assay.led
    let s := { s with assay := { s.assay with led := r, windowPulses := 0, windowDiag := 0 } }
    if r = old then s else assayLog 6 (ledCode old) (ledCode r) s)

/-- PROGRAMMING_MODE (R347, R348): entered while the seal switch is held and with the authority's password; the entry is logged. -/
def execProgrammingMode (sealPressed password : Bool) (s : State) : Out :=
  .next (
    let s := { s with assay := { s.assay with sealHeld := sealPressed } }
    if sealPressed && password then assayLog 2 0 0 { s with assay := { s.assay with programming := true } }
    else { s with assay := { s.assay with programming := s.assay.programming && sealPressed } })

/-- SEAL_SWITCH_RELEASE (R347): programming mode ends with the seal switch. -/
def execSealSwitchRelease (s : State) : Out :=
  .next { s with assay := { s.assay with sealHeld := false, programming := false } }

/-- ASSAY_PARAMETER_CHANGE (R347, R349, R352): accepted in programming mode while the log is not full, and logged. -/
def execAssayParameterChange (c : AssayChange) (s : State) : Out :=
  .next (
    if !s.assay.programming || s.assay.logFull then s
    else match c with
      | .parameter i v => assayLog 3 i v { s with assay := { s.assay with params := amSet s.assay.params i v } }
      | .firmware k => assayLog 4 s.assay.checksum.toNat k.toNat { s with assay := { s.assay with checksum := k } }
      | .clearCase => assayLog 3 0 0 { s with assay := { s.assay with caseOpen := false } })

/-- LOG_CLEAR (R349): in programming mode with a full log, a read of the whole log followed by its clearing, recorded as the first entry. -/
def execLogClear (s : State) : Out :=
  .next (
    if !s.assay.programming || !s.assay.logFull then s
    else
      let n := s.assay.log.length
      let s := putReadout s
      assayLog 7 n 0 { s with assay := { s.assay with log := [], logFull := false } })

/-- DATA_READOUT (R348). -/
def execDataReadout (s : State) : Out := .next (putReadout s)

/-- CASE_OPENED (R349, R352). -/
def execCaseOpened (s : State) : Out := .next (assayLog 5 0 0 { s with assay := { s.assay with caseOpen := true } })

end Sys2Proof.Machine
end

