-- ==== Sys2Proof/Machine/Actor.lean ====
section
/-!
DEFINITION. What an actor computes for one tag: accumulation, sparsity, ragged edges and the element counts (R97 to R102,
R109, R114 to R131).
-/

namespace Sys2Proof.Machine

/-- A product of one accumulator: logical K position, element of A, element of B. -/
abbrev Prod3 := Nat × Elem × Elem

/-- The running sum of R99 with one more product: members aligned to the largest exponent, 112 bits and a sticky bit each,
added exactly and rounded to odd at 112 bits. -/
def wideStep (acc : Bool × Nat × Int) (n : Bool) (m : Nat) (e : Int) : Bool × Nat × Int :=
  let (n0, m0, e0) := acc
  if m = 0 then acc
  else
    let top := if m0 = 0 then topExp m e else max (topExp m0 e0) (topExp m e)
    let q := top - 112
    let align := fun (m : Nat) (e : Int) =>
      if e ≥ q + 1 then shiftTo m e q
      else
        let k := (q + 1 - e).toNat
        2 * (m / 2 ^ k) + (if m % 2 ^ k = 0 then 0 else 1)
    let a : Int := if m0 = 0 then 0 else align m0 e0
    let b : Int := align m e
    let v := (if n0 then -a else a) + (if n then -b else b)
    let (r, re) := roundBits .odd (decide (v < 0)) 112 v.natAbs q
    if v = 0 then (false, 0, 0) else (decide (v < 0), r, re)

/-- The running intermediate of R98 with one more block sum: rounded to odd at 64 bits. -/
def blockStep (acc : Bool × Nat × Int) (n : Bool) (m : Nat) (e : Int) : Bool × Nat × Int :=
  let (v, lo) := addFin acc.1 acc.2.1 acc.2.2 n m e
  if v = 0 then (false, 0, 0)
  else let (r, re) := roundBits .odd (decide (v < 0)) 64 v.natAbs lo; (decide (v < 0), r, re)

/-- The finite products as signed magnitudes. -/
def finProds (ps : List Prod3) : List (Nat × Bool × Nat × Int) :=
  ps.filterMap (fun (k, a, b) =>
    match (numMul a.num b.num).1 with
    | .fin n m e => some (k, n, m, e)
    | _ => none)

/-- The exact sum of signed magnitudes (R97). -/
def exactSum (xs : List (Bool × Nat × Int)) : Bool × Nat × Int :=
  xs.foldl (fun acc x =>
    let (v, lo) := addFin acc.1 acc.2.1 acc.2.2 x.1 x.2.1 x.2.2
    (decide (v < 0), v.natAbs, lo)) (false, 0, 0)

/-- One accumulator (R97 to R101). Scales give the factor exponent of each block of 32 along K, none for a NaN scale. DEDUCED
(log 127): the scales of a block of 32 that sums no product, all of it being absent or beyond the extent, take no part (R98, R122,
R128). -/
def accumulate (mode : Rnd) (wide : Bool) (scales : Option (Nat → Option Int)) (blocks : Nat) (ps : List Prod3) : OpRes :=
  let nan := ps.any (fun (_, a, b) => a.num.isNan || b.num.isNan) ||
    (match scales with
     | some f => (List.range blocks).any (fun j => (f j).isNone && ps.any (fun x => x.1 / 32 == j))
     | none => false)
  let bad := ps.any (fun (_, a, b) => (numMul a.num b.num).2)
  let infs := ps.filterMap (fun (_, a, b) => match (numMul a.num b.num).1 with | .inf n => some n | _ => none)
  let fs := finProds ps
  let sum : Bool × Nat × Int :=
    match scales with
    | some f =>
      (List.range blocks).foldl (fun acc j =>
        let s := exactSum ((fs.filter (fun x => x.1 / 32 == j)).map (fun x => x.2))
        if s.2.1 = 0 then acc else blockStep acc s.1 s.2.1 (s.2.2 + (f j).getD 0)) (false, 0, 0)
    | none =>
      if wide then fs.foldl (fun acc x => wideStep acc x.2.1 x.2.2.1 x.2.2.2) (false, 0, 0)
      else exactSum (fs.map (fun x => x.2))
  if nan then (.nan, false)
  else if bad || (infs.contains true && infs.contains false) then (.nan, true)
  else
    match infs with
    | n :: _ => (.inf n, false)
    | [] =>
      if sum.2.1 = 0 then
        let allNeg := !fs.isEmpty && fs.all (fun x => x.2.1 && x.2.2.1 == 0)
        let some1 := fs.any (fun x => x.2.2.1 != 0)
        (.zero (allNeg || (mode == .down && some1)), false)
      else (.fin sum.1 sum.2.1 sum.2.2, false)

/-- The bytes and valid counts with which a port delivers its operand, and the regions of a stationary port whose elements the
section has counted already, as rows and columns from the first (R109). -/
structure PortIn where
  bytes : List Byte
  rows : Nat
  cols : Nat
  seen : List (Nat × Nat)
deriving DecidableEq, Repr

/-- An element at a row and column lies in a region that has been counted (R109). -/
def PortIn.met (p : PortIn) (r c : Nat) : Bool := p.seen.any (fun e => r < e.1 && c < e.2)

/-- An element of A at a row and logical position of a dense A. -/
def aDense (cfg : List Word32) (bs : List Byte) (r k : Nat) : Elem :=
  decodeElem true (ccFmtA cfg) (getElem bs (r * packedBytes (ccFmtA cfg) (ccK cfg)) (ccFmtA cfg) k)

/-- The products' A side of a row in K order: logical position and element (R122 to R128). -/
def aRow (cfg : List Word32) (bs : List Byte) (ext r : Nat) : List (Nat × Elem) :=
  let f := ccFmtA cfg
  let k := ccK cfg
  let (_, r1, _) := aRegions cfg
  match ccSparsity cfg with
  | 1 =>
    ((List.range (k / 2)).map (fun i =>
      let g := r * (k / 4) + i / 2
      let code := fieldAt bs (r1 + g / 2) 1 / 2 ^ (g % 2 * 4 + i % 2 * 2) % 4
      (i / 2 * 4 + code, decodeElem true f (getElem bs (r * packedBytes f (k / 2)) f i)))).filter (fun e => e.1 < ext)
  | 2 =>
    let present := fun n : Nat => fieldAt bs (n / 8) 1 / 2 ^ (n % 8) % 2 == 1
    let blk := lines (packedBytes f 256) * 64
    ((List.range (k / 16)).map (fun j =>
      let n := r / 16 * (k / 16) + j
      if present n then
        let at0 := r1 + ((List.range n).filter present).length * blk
        (List.range 16).map (fun i => (j * 16 + i, decodeElem true f (getElem bs at0 f (r % 16 * 16 + i))))
      else [])).flatten.filter (fun e => e.1 < ext)
  | _ => ((List.range k).map (fun i => (i, aDense cfg bs r i))).filter (fun e => e.1 < ext)

/-- An element of B. -/
def bElem (cfg : List Word32) (bs : List Byte) (k c : Nat) : Elem :=
  decodeElem true (ccFmtB cfg) (getElem bs (k * packedBytes (ccFmtB cfg) (ccCols cfg)) (ccFmtB cfg) c)

/-- The scale code of A for a row and block of 32 (R116). -/
def aScale (cfg : List Word32) (bs : List Byte) (r j : Nat) : Nat :=
  fieldAt bs ((aRegions cfg).2.2 + r * (ccK cfg / 32) + j) 1

/-- The scale code of B for a block of 32 and a column (R116). -/
def bScale (cfg : List Word32) (bs : List Byte) (j c : Nat) : Nat :=
  fieldAt bs (lines (ccK cfg * packedBytes (ccFmtB cfg) (ccCols cfg)) * 64 + j * ccCols cfg + c) 1

/-- The K extent of a tag (R122). -/
def kExtent (cfg : List Word32) (a b : PortIn) : Nat :=
  min (ccK cfg) (min (if ccSparsity cfg = 1 then 2 * a.cols else a.cols) b.rows)

/-- The constant vectors and scalars of the constant table (R130). -/
def constEntry (wide : Bool) (table : List Byte) (cols sel c k : Nat) : Num :=
  let w := if wide then 8 else 4
  let off := if sel = 7 then k * w else 64 + (sel - 1) * (lines (cols * w) * 64) + c * w
  (decodeElem false (if wide then 10 else 9) (fieldAt table off w)).num

/-- The result before the drain of an output element, and whether an invalid operation occurred. -/
def preDrain (cfg : List Word32) (pin : Nat → PortIn) (r c : Nat) : OpRes :=
  if ccClass cfg = 2 then
    let e := decodeElem false (ccFmtA cfg)
      (getElem (pin 0).bytes (r * packedBytes (ccFmtA cfg) (ccCols cfg)) (ccFmtA cfg) c)
    let x := if ccFmtA cfg = 10 ∧ !ccChain64 cfg then roundOdd 9 e.num else e.num
    (x, e.snan)
  else
    let ext := kExtent cfg (pin 0) (pin 1)
    let ps : List Prod3 := (aRow cfg (pin 0).bytes ext r).map (fun e => (e.1, e.2, bElem cfg (pin 1).bytes e.1 c))
    let scales : Option (Nat → Option Int) :=
      if ccScales cfg then
        some (fun j =>
          match scaleExp (aScale cfg (pin 0).bytes r j), scaleExp (bScale cfg (pin 1).bytes j c) with
          | some x, some y => some (x + y)
          | _, _ => none)
      else none
    accumulate (rndOf (ccMode cfg)) (ccN cfg == 12) scales ((ext + 31) / 32) ps

/-- A port-2 element at an output place, as the path's unpack decodes it (R131). -/
def port2Elem (cfg : List Word32) (p : PortIn) (r c : Nat) : Elem :=
  decodeElem (ccClass cfg == 1) (ccFmtOut cfg)
    (getElem p.bytes (r * packedBytes (ccFmtOut cfg) (ccCols cfg)) (ccFmtOut cfg) c)

/-- A second operand (R129): a constant, a port-2 element narrowed to odd, a port-3 row value, a scalar. -/
def chainOperand (cfg : List Word32) (pin : Nat → PortIn) (table : List Byte) (r c sel k : Nat) : Num :=
  let wide := ccChain64 cfg
  match sel with
  | 5 =>
    let x := (port2Elem cfg (pin 2) r c).num
    if ccFmtOut cfg = 10 ∧ !wide then roundOdd 9 x else x
  | 6 =>
    let w := if wide then 8 else 4
    (decodeElem false (if wide then 10 else 9) (fieldAt (pin 3).bytes (r * w) w)).num
  | _ => constEntry wide table (ccCols cfg) sel c k

/-- The chain environment of an output element. -/
def chainEnv (cfg : List Word32) (pin : Nat → PortIn) (table : List Byte) (r c : Nat) : ChainEnv :=
  let f := if ccChain64 cfg then 10 else 9
  ⟨ccClass cfg == 1, ccChain64 cfg, ccFmtOut cfg, rndOf (ccMode cfg), chainOperand cfg pin table r c,
   roundOdd f (preDrain cfg pin r 0).1⟩

/-- Valid rows and columns of the output (R121). -/
def outValid (cfg : List Word32) (pin : Nat → PortIn) : Nat × Nat :=
  if ccClass cfg = 2 then (min (ccRows cfg) (pin 0).rows, min (ccCols cfg) (pin 0).cols)
  else (min (ccRows cfg) (pin 0).rows, min (ccCols cfg) (pin 1).cols)

/-- Sums the counts of a list of elements. -/
def sumCounts (es : List Elem) : NumCounters := es.foldl (fun a e => addCounters a (elemCounts e)) {}

/-- The elements of an operand port that a tag uses, as rows and columns from the first: logical K for the columns of A and the
rows of B (R109, R122, R131). A tag without a valid output row or column uses none (R119, R121). -/
def usedRect (cfg : List Word32) (pin : Nat → PortIn) (i : Nat) : Nat × Nat :=
  let (vr, vc) := outValid cfg pin
  if vr = 0 ∨ vc = 0 then (0, 0)
  else
    match i with
    | 0 => if ccClass cfg = 2 then (vr, vc) else (vr, kExtent cfg (pin 0) (pin 1))
    | 1 => if ccClass cfg = 2 then (0, 0) else (kExtent cfg (pin 0) (pin 1), vc)
    | 2 => if (ccPort cfg 2).mode = 0 then (0, 0) else (min vr (pin 2).rows, min vc (pin 2).cols)
    | _ => (0, 0)

/-- A scale code of a block of 32 counts once for the section with the first element of its block (R109). -/
def PortIn.metScale (p : PortIn) (byRow : Bool) (x j : Nat) : Bool := if byRow then p.met x (32 * j) else p.met (32 * j) x

/-- The elements of port i that a tag decodes and that the section has not counted (R109): A row by row without absent
positions, B, port 2, or the input stream of an element-wise actor. -/
def freshElems (cfg : List Word32) (pin : Nat → PortIn) (i : Nat) : List Elem :=
  let p := pin i
  let (n, m) := usedRect cfg pin i
  let grid := fun (f : Nat → Nat → Elem) =>
    (List.range n).flatMap (fun r => (List.range m).filterMap (fun c => if p.met r c then none else some (f r c)))
  match i with
  | 0 =>
    if ccClass cfg = 2 then
      grid (fun r c => decodeElem false (ccFmtA cfg) (getElem p.bytes (r * packedBytes (ccFmtA cfg) (ccCols cfg)) (ccFmtA cfg) c))
    else (List.range n).flatMap (fun r =>
      (aRow cfg p.bytes m r).filterMap (fun e => if p.met r e.1 then none else some e.2))
  | 1 => grid (bElem cfg p.bytes)
  | 2 => grid (port2Elem cfg p)
  | _ => []

/-- The scale codes of A or B that a tag uses and that the section has not counted (R98, R109). DEDUCED (log 127): a scale of A
whose block holds no element of the row is not used. -/
def freshScales (cfg : List Word32) (pin : Nat → PortIn) (i : Nat) : List Nat :=
  let p := pin i
  let (n, m) := usedRect cfg pin i
  if !ccScales cfg then []
  else
    match i with
    | 0 => (List.range n).flatMap (fun r => (List.range ((m + 31) / 32)).filterMap (fun j =>
        if p.metScale true r j || !(aRow cfg p.bytes m r).any (fun e => e.1 / 32 == j) then none else some (aScale cfg p.bytes r j)))
    | 1 => (List.range ((n + 31) / 32)).flatMap (fun j => (List.range m).filterMap (fun c =>
        if p.metScale false c j then none else some (bScale cfg p.bytes j c)))
    | _ => []

/-- The input counts of a tag (R108, R109, R122, R131). -/
def inputCounts (cfg : List Word32) (pin : Nat → PortIn) : NumCounters :=
  let nans := fun (l : List Nat) => (⟨0, 0, 0, (l.filter (fun e => e == 255)).length, 0⟩ : NumCounters)
  let one := fun (i : Nat) => addCounters (sumCounts (freshElems cfg pin i)) (if ccClass cfg = 1 then nans (freshScales cfg pin i) else {})
  addCounters (addCounters (one 0) (one 1)) (one 2)

/-- The output of a tag: element codes row by row, none where masked, and every count (R108, R121). DESIGN CHOICE (log 128): a
signalling NaN makes an output element an invalid operation where it is the input or a port-2 element that its chain selects; a
port-3 value or a constant is used as it stands, and its signalling NaN is none (R93, R108, R131). -/
def computeTag (cfg : List Word32) (pin : Nat → PortIn) (table : List Byte) : List (Option Nat) × NumCounters :=
  let (vr, vc) := outValid cfg pin
  let chain := ccChain cfg
  let outs := (List.range (ccRows cfg)).flatMap (fun r => (List.range (ccCols cfg)).map (fun c =>
    if r < vr ∧ c < vc then
      let (x, inv) := preDrain cfg pin r c
      let snan := chain.any (fun b => b % 8 == 5) && (port2Elem cfg (pin 2) r c).snan
      some (drainElem (chainEnv cfg pin table r c) chain x (inv || snan))
    else none))
  (outs.map (fun o => o.map Prod.fst),
   outs.foldl (fun a o => match o with | some (_, n) => addCounters a n | none => a) (inputCounts cfg pin))

/-- An output row of elements as packed bytes; masked elements are zero (R91, R464). -/
def packRow (f : Nat) (es : List (Option Nat)) : List Byte :=
  let w := fmtBits f
  let v := es.foldr (fun e acc => acc * 2 ^ w + (e.getD 0) % 2 ^ w) 0
  leBytes ((es.length * w + 7) / 8) v

end Sys2Proof.Machine
end

