-- ==== Sys2Proof/Machine/CellOps.lean ====
section
/-!
DEFINITION. What the cells of a tile do with arrivals, credits, firings and transfers (R57 to R82, R116, R137, R138, R207 to
R216, R464).
-/

namespace Sys2Proof.Machine

/-! ## Arrivals at a tile -/

/-- What a message for an agent of a tile meets: a running tile takes it, a stopped one discards it, and one that is not yet
running holds it until it starts, or discards it where nothing is to be held (R86, R159, R161). -/
def atRunning (k : Nat) (self : Option Instr) (act : State → State) (s : State) : State :=
  match (getTile s k).run with
  | .running | .finished => act s
  | .stopped => s
  | .idle | .loading =>
    match self with
    | some i => modTile k (fun (t : Tile) => { t with heldOps := t.heldOps ++ [i] }) s
    | none => s

/-- The cell of a site and slot. -/
def cellAt (k slot : Nat) : CellRef := ⟨siteX k, siteY k, slot⟩

/-- The domain of the partition that holds a site, 0 where none does. -/
def domainAt (s : State) (k : Nat) : Nat := (siteDomain s k).getD 0

/-! ## The tag-match table (R60 to R64) -/

/-- Slots that have become ready are marked with the order in which they did (R62). -/
def markReady (c : CC) : CC :=
  { c with slots := c.slots.map (fun (t : TagSlot) =>
             if t.readyAt.isNone && slotReady c t then { t with readyAt := some c.clock } else t)
           clock := c.clock + 1 }

/-- The first inbound binding whose head can leave its queue, with what comes of it. DESIGN CHOICE (log 130): where the heads of
several queues wait for one free slot, the lowest-numbered binding goes first. -/
def admitNext (c : CC) : Option (Sum CC Nat) :=
  (List.range 4).findSome? (fun b =>
    match amGet c.queues b [], portsOn c.cfg b with
    | a :: rest, i :: _ =>
      match admitReq c i a with
      | .placed d => some (.inl (markReady { d with queues := amSet d.queues b rest }))
      | .fault code => some (.inr code)
      | .blocked => none
    | _, _ => none)

/-- The heads of the inbound queues enter the table as long as one can (R60). -/
def settle : Nat → CC → CC × Option Nat
  | 0, c => (c, none)
  | n + 1, c =>
    match admitNext c with
    | some (.inl d) => settle n d
    | some (.inr code) => (c, some code)
    | none => (c, none)

/-- The inbound queues of a cell advance; an arrival that is a fault stops the cell (R60, R85). A clock-gated cell takes nothing
from them (R40). -/
def settleCC (k slot : Nat) (s : State) : State :=
  if gated s k then s else
  let c := getCC s k slot
  let (d, f) := settle ((c.queues.map (fun e => e.2.length)).sum) c
  let s := modCC k slot (fun _ => d) s
  match f with
  | some code => cellFault k slot 4 code s
  | none => s

/-- An arrival at an inbound binding of a compute cell. One on a binding that is disabled or that no operand port names is a cell
fault; a stopped cell takes nothing (R86, R465). -/
def ccArrive (k slot b : Nat) (a : Arrival) (s : State) : State :=
  let c := getCC s k slot
  if c.stopped then s
  else if ccClass c.cfg = 0 || !(ccIn c.cfg b).enable || (portsOn c.cfg b).isEmpty then cellFault k slot 4 0x106 s
  else settleCC k slot (modCC k slot (fun (c : CC) => { c with queues := amMod c.queues b [] (· ++ [a]) }) s)

/-! ## Messages between cells -/

/-- A CREDIT for a binding or generator of a cell of the same partition (R63, R79). -/
def sendCredit (k slot : Nat) (dst : CellRef) (target : Nat) (s : State) : State :=
  send ⟨⟨cellAt k slot, dst, target, domainAt s k, 0⟩, true, 2, []⟩ s

/-- The body of a TOKEN: valid rows and columns (R77, R182). -/
def tokenBody (rows cols : Nat) : List Byte := leBytes 4 (min rows 8191 * 2 ^ 19 + min cols 32767 * 16)

/-- A TOKEN to a binding or generator (R78, R207). -/
def sendToken (k slot : Nat) (dst : CellRef) (target : Nat) (tag : BitVec 16) (rows cols : Nat) (s : State) : State :=
  send ⟨⟨cellAt k slot, dst, target, domainAt s k, tag⟩, true, 1, tokenBody rows cols⟩ s

/-- The corners of the smallest rectangle that holds cells. -/
def rectOf (cs : List CellRef) : Nat × Nat × Nat × Nat :=
  cs.foldl (fun (b : Nat × Nat × Nat × Nat) c => (min b.1 c.x, min b.2.1 c.y, max b.2.2.1 c.x, max b.2.2.2 c.y)) (511, 511, 0, 0)

/-- The cells fill a whole rectangle (R194). -/
def fullRect (cs : List CellRef) : Bool :=
  let (x0, y0, x1, y1) := rectOf cs
  cs.length == (x1 + 1 - x0) * (y1 + 1 - y0)

/-- The mask of the cells in the 8 × 8 window whose corner is (x0, y0) (R195). -/
def maskOf (x0 y0 : Nat) (cs : List CellRef) : Nat :=
  (cs.map (fun (c : CellRef) => 2 ^ ((c.y - y0) * 8 + (c.x - x0)))).sum

/-- The cells by the positions that their sites answer for: a multicast names positions, and the copy for a covered one goes to its
spare (R196). -/
def atPositions (s : State) (cs : List CellRef) : List CellRef :=
  cs.map (fun (c : CellRef) => cellAt (positionOf s (siteKey c.x c.y)) c.slot)

/-- A control message to every consumer of a binding: one multicast where they fill a rectangle (R182, R209). -/
def castCtl (k slot : Nat) (cs : List CellRef) (target kind : Nat) (tag : BitVec 16) (body : List Byte) (s : State) : State :=
  let d := domainAt s k
  let ps := atPositions s cs
  match cs with
  | a :: _ :: _ =>
    if fullRect ps then
      let (x0, y0, x1, y1) := rectOf ps
      send ⟨⟨cellAt k slot, ⟨x0, y0, a.slot⟩, target, d, tag⟩, true, 8,
        leBytes 4 (x1 * 2 ^ 23 + y1 * 2 ^ 14 + kind * 2 ^ 10) ++ body⟩ s
    else cs.foldl (fun s c => send ⟨⟨cellAt k slot, c, target, d, tag⟩, true, kind, body⟩ s) s
  | _ => cs.foldl (fun s c => send ⟨⟨cellAt k slot, c, target, d, tag⟩, true, kind, body⟩ s) s

/-- A data packet to every consumer of a binding: a rectangle or a window multicast (R197, R209). -/
def castData (k slot : Nat) (cs : List CellRef) (target kind : Nat) (tag : BitVec 16) (body : List Byte) (s : State) : State :=
  let d := domainAt s k
  let ps := atPositions s cs
  match cs with
  | a :: _ :: _ =>
    let (x0, y0, x1, y1) := rectOf ps
    let h : Head := ⟨cellAt k slot, ⟨x0, y0, a.slot⟩, target, d, tag⟩
    if fullRect ps then
      send ⟨h, false, 5, leBytes 2 x1 ++ leBytes 2 y1 ++ leBytes 4 0 ++ leBytes 8 kind ++ body⟩ s
    else send ⟨h, false, 6, leBytes 8 (maskOf x0 y0 ps) ++ leBytes 8 kind ++ body⟩ s
  | _ => cs.foldl (fun s c => send ⟨⟨cellAt k slot, c, target, d, tag⟩, false, kind, body⟩ s) s

/-- A tile whose agents have all finished reports done to its field crest unit (R147, R158). -/
def doneTry (k : Nat) (s : State) : State :=
  match running s k with
  | none => s
  | some (_, a, _, r) =>
    if (getTile s k).run = .running ∧ tileDone s r k then
      send ⟨⟨cellAt k 3, ⟨ringXY, fieldOf k, 0⟩, 0, a.domain, 0⟩, true, 7, [1]⟩
        (modTile k (fun (t : Tile) => { t with run := .finished }) s)
    else s

/-! ## Firing (R56, R57, R61, R109) -/

/-- What an operand port delivers for a tag, and the region of the operand store that it reads (R57, R208). A stationary port comes
with the regions whose elements the section has counted (R109). -/
def readPort (s : State) (k slot : Nat) (c : CC) (tag : BitVec 16) (present : AMap Arrival) (i : Nat) : PortIn × Nat × Nat :=
  let d := ccPort c.cfg i
  let n := min d.size (portNeed c.cfg i) * 64
  match d.mode with
  | 1 => (⟨(amGet present i {}).words.flatMap (fun w => leBytes 4 w.toNat), 8191, 32767, []⟩, 0, 0)
  | 2 =>
    let a := amGet present i {}
    let key := memKey k 2 slot (bufferLine d tag.toNat * 64)
    (⟨readBytes s key n, a.rows, a.cols, []⟩, key, n)
  | 3 =>
    let a := amGet c.filled i {}
    let key := memKey k 2 slot (d.base * 64)
    (⟨readBytes s key n, a.rows, a.cols, amGet c.counted i []⟩, key, n)
  | _ => (⟨[], 0, 0, []⟩, 0, 0)

/-- The width class of an actor's pair of formats as an activity category: 0 4-bit, 1 8-bit and 6-bit, 2 16-bit (R115, R320). -/
def widthClass (cfg : List Word32) : Nat := if ccN cfg = 48 then 0 else if ccN cfg = 24 then 1 else 2

/-- K steps that the multiply array executes for a tag: those of each output block, 16 for each present block of a block-sparse
A and at least 1 (R114, R128). -/
def arrayCycles (cfg : List Word32) (a : List Byte) : Nat :=
  if ccClass cfg ≠ 1 then 0
  else if ccSparsity cfg = 2 then
    let cols := ccK cfg / 16
    ((List.range (ccMb cfg)).map (fun i =>
      let n := ((List.range cols).filter (fun j => bitAt (fieldAt a ((i * cols + j) / 8) 1) ((i * cols + j) % 8))).length
      max 1 (16 * n))).sum * ccNb cfg
  else ccMb cfg * ccNb cfg * ccKSteps cfg

/-- Cycles that a tag's lines take in the pipeline stage that paces firing: K steps of a tensor actor, lines of port 0 of an
element-wise one (R49, R61). -/
def tagSteps (cfg : List Word32) (a : List Byte) : Nat :=
  if ccClass cfg = 1 then arrayCycles cfg a else lines (ccRows cfg * packedBytes (ccFmtA cfg) (ccCols cfg))

/-- Output blocks that a tag passes through the accumulator banks (R49, R50). -/
def tagBlocks (cfg : List Word32) : Nat := if ccClass cfg = 1 then ccMb cfg * ccNb cfg else 0

/-- The sums of a tag's last output block, as its bank holds them (R49, R50). -/
def lastBlock (cfg : List Word32) (pin : Nat → PortIn) : List Num :=
  if ccClass cfg = 1 then
    (List.range 16).flatMap (fun i => (List.range (ccN cfg)).map (fun j =>
      (preDrain cfg pin ((ccMb cfg - 1) * 16 + i) ((ccNb cfg - 1) * ccN cfg + j)).1))
  else []

/-- The stationary ports' regions that a tag uses join those the section has counted (R109). -/
def countUsed (c : CC) (pin : Nat → PortIn) : AMap (List (Nat × Nat)) :=
  (fixedPorts c.cfg).foldl (fun m i => amMod m i [] (· ++ [usedRect c.cfg pin i])) c.counted

/-- The actor of a cell fires a tag: its operands are read and its result computed, the counters count it, its slot is freed, and
the heads of the queues advance (R61 to R63, R108, R320). An uncorrectable operand error is a cell fault (R85). -/
def fireTag (p k slot : Nat) (tag : BitVec 16) (present : AMap Arrival) (s : State) : State :=
  let c := getCC s k slot
  let ports := (List.range 4).map (readPort s k slot c tag present)
  let pin := fun i => (ports.getD i (⟨[], 0, 0, []⟩, 0, 0)).1
  let tkey := memKey k 2 slot (ccConstLine c.cfg * 64)
  let tlen := constLines c.cfg * 64
  let table := readBytes s tkey tlen
  let bad := ports.any (fun q => hasDouble s q.2.1 q.2.2) || hasDouble s tkey tlen
  let s := touchRead tkey tlen (ports.foldl (fun s q => touchRead q.2.1 q.2.2 s) s)
  if bad then cellFault k slot 4 0x102 (noteUncorrected k s)
  else
    let (elems, n) := computeTag c.cfg pin table
    let (vr, vc) := outValid c.cfg pin
    let d := ccPort c.cfg 4
    let s := countActivity (fieldOf k) p (widthClass c.cfg) (arrayCycles c.cfg (pin 0).bytes) s
    let s := countActivity (fieldOf k) p (if ccChain64 c.cfg then 6 else 5) (vr * vc * max 1 (ccChain c.cfg).length) s
    settleCC k slot (modCC k slot (fun (c : CC) =>
      { c with slots := c.slots.filter (fun (t : TagSlot) => t.tag != tag)
               lastFired := some tag
               firedCount := c.firedCount + 1
               pipe := c.pipe ++ [{ tag := tag, steps := tagSteps c.cfg (pin 0).bytes, blocks := tagBlocks c.cfg
                                    sums := lastBlock c.cfg pin, elems := elems, rows := vr, cols := vc }]
               counted := countUsed c pin
               current := addCounters c.current n
               outCredits := if d.mode = 2 ∧ (ccOut c.cfg d.binding).enable then amMod c.outCredits d.binding 0 (· + 1)
                             else c.outCredits }) s)

/-- Tags whose last K step, or line, has been read and whose result is not drained (R50). -/
def heldResults (c : CC) : Nat := (c.pipe.filter Fired.released).length

/-- The pipeline can take a new tag (R50, R61). A tag fires three cycles before its first K step enters the array, or one cycle
before its first line is unpacked, and so while its predecessor is within its last steps; it does not fire while the array holds a
full bank because the drain has not released the other. DEDUCED (log 129). -/
def pipeReady (c : CC) : Bool :=
  let open1 := c.pipe.filter (fun (f : Fired) => !f.released)
  let lead := if ccClass c.cfg = 1 then 2 else 0
  heldResults c ≤ 1 && ((open1.drop 1).map Fired.steps).sum ≤ lead &&
  (!open1.any (fun (f : Fired) => f.blocks ≥ 2) || heldResults c == 0)

/-- The array can read the last K step of the oldest tag in it: a bank is free for its last block (R50). A tag of several blocks has
filled the other bank itself, so every result before it is drained. -/
def canRelease (c : CC) (f : Fired) : Bool := if f.blocks ≥ 2 then heldResults c == 0 else heldResults c ≤ 1

/-- The actor fires if a tag is ready, its output has room, and the pipeline can take it (R50, R61, R147). A clock-gated cell does
not (R40). -/
def fireTry (k slot : Nat) (s : State) : State :=
  match running s k with
  | none => s
  | some (p, _, _, r) =>
    let c := getCC s k slot
    let room := pipeReady c && outFree s r k slot c && !gated s k
    if (getTile s k).run ≠ .running ∨ c.stopped ∨ ccClass c.cfg = 0 ∨ !room ∨ ccTags r k slot ≤ c.firedCount then s
    else if selfPaced c.cfg then
      if (fixedPorts c.cfg).all (fun i => (amFind c.filled i).isSome) then
        fireTag p k slot (BitVec.ofNat 16 c.firedCount) [] s
      else s
    else
      match nextSlot c with
      | some t => fireTag p k slot t.tag t.present s
      | none => s

/-! ## Release and drain (R63, R116, R207, R464) -/

/-- The oldest tag whose operands have not been released: its last block fills a bank, and its port buffers return to their
producers (R50, R63). -/
def releaseTry (k slot : Nat) (s : State) : State :=
  let c := getCC s k slot
  match c.pipe.find? (fun (f : Fired) => !f.released) with
  | none => s
  | some f =>
    if !canRelease c f then s
    else
      let s := modCC k slot (fun (c : CC) =>
        { c with pipe := c.pipe.map (fun (g : Fired) => if g.tag = f.tag then { g with released := true } else g)
                 banks := if f.blocks = 0 then c.banks else c.banks ++ [{ tag := f.tag, sums := f.sums }] }) s
      (List.range 4).foldl (fun s i =>
        let d := ccPort c.cfg i
        let w := ccIn c.cfg d.binding
        if d.mode = 2 then sendCredit k slot ⟨w.x, w.y, w.slot⟩ w.peer s else s) s

/-- The output rows of a tag as bytes: a masked element takes what stands there, or zero (R77, R116, R464). -/
def outBytes (cfg : List Word32) (elems : List (Option Nat)) (old : List Byte) : List Byte :=
  let f := ccFmtOut cfg
  let n := ccCols cfg
  (List.range (ccRows cfg)).flatMap (fun r =>
    packRow f (((elems.drop (r * n)).take n).mapIdx (fun c e =>
      some (e.getD (getElem old (r * packedBytes f n) f c)))))

/-- The block's lines as STREAM packets of at most 256 bytes, then the token (R207). -/
def streamOut (k slot : Nat) (cs : List CellRef) (peer : Nat) (f : Fired) (bytes : List Byte) (s : State) : State :=
  let s := (chunks 256 ((bytes.length + 255) / 256) bytes).foldl (fun s b => castData k slot cs peer 1 f.tag b s) s
  castCtl k slot cs peer 1 f.tag (tokenBody f.rows f.cols) s

/-- Pieces of a combining contribution of a home with lines S per buffer (R213). -/
def pieceCount (size : Nat) : Nat := (size + 3) / 4

/-- The COMBINE packets of a contribution to the generator w.peer of the memory cell that the binding names, with the home's depth D and
size S as the loader derived them for the section (R200, R213). -/
def combineOut (k slot b : Nat) (r : Section) (w : Binding) (f : Fired) (key : Nat) (s : State) : State :=
  let c := getCC s k slot
  let (depth, size, _) := amGet r.rings (siteKey w.x w.y * 4 + w.peer) (0, 0, 0)
  let n := pieceCount size
  let fmt := if ccFmtOut c.cfg = 9 then 0 else 1
  let det := if Config.combineDet (cfgWord c.cfg (16 + b)) then 1 else 0
  let ord := amGet r.ordinals (cellKey k slot * 4 + b) 0xFFFF
  (List.range n).foldl (fun s j =>
    let m := min 64 (size * 16 - 64 * j)
    let body := leBytes 2 1 ++ leBytes 2 ord ++ leBytes 1 fmt ++ leBytes 1 det ++ leBytes 2 m ++ readBytes s (key + 256 * j) (m * 4)
    let tag := BitVec.ofNat 16 (f.tag.toNat % max 1 depth * n + j)
    send ⟨⟨cellAt k slot, ⟨w.x, w.y, 3⟩, w.peer, domainAt s k, tag⟩, false, 7, body⟩ s) s

/-- The drain has written the last block of the oldest tag in the pipeline: the result stands in the output ring, and its token,
stream, contribution or tuple leaves over the outbound binding (R57, R116, R207, R464). -/
def drainTag (k slot : Nat) (r : Section) (f : Fired) (s : State) : State :=
  let c := getCC s k slot
  let d := ccPort c.cfg 4
  let w := ccOut c.cfg d.binding
  let cs := consumers r k slot d.binding w
  let key := memKey k 2 slot (bufferLine d f.tag.toNat * 64)
  let len := ccRows c.cfg * packedBytes (ccFmtOut c.cfg) (ccCols c.cfg)
  let s := modCC k slot (fun (c : CC) =>
    { c with pipe := c.pipe.drop 1, banks := c.banks.filter (fun (b : Bank) => b.tag != f.tag), drainedCount := c.drainedCount + 1 }) s
  if d.mode = 1 then
    if w.enable then castCtl k slot cs w.peer 3 f.tag (slice (outBytes c.cfg f.elems []) 0 16) s else s
  else
    let s := writeBytes key (outBytes c.cfg f.elems (readBytes s key len)) s
    if d.mode ≠ 2 ∨ !w.enable then s
    else if w.kind = 3 then combineOut k slot d.binding r w f key s
    else if w.kind = 2 ∧ w.slot ≠ 3 then streamOut k slot cs w.peer f (readBytes s key len) s
    else castCtl k slot cs w.peer 1 f.tag (tokenBody f.rows f.cols) s

/-- The drain holds a result: its outbound queue has no free entry at some consumer (R83). -/
def drainHolds (s : State) (r : Section) (k slot : Nat) (c : CC) : Bool :=
  let d := ccPort c.cfg 4
  let w := ccOut c.cfg d.binding
  d.mode == 1 && w.enable && !queuesFree s r k slot d.binding w

/-- The oldest tag of a cell's pipeline has drained (R116), unless the drain has to hold its result (R83) or the cell is
clock-gated (R40). -/
def drainTry (k slot : Nat) (s : State) : State :=
  match running s k with
  | none => s
  | some (_, _, _, r) =>
    let c := getCC s k slot
    if c.stopped || gated s k || drainHolds s r k slot c then s
    else
      match c.pipe with
      | [] => s
      | f :: _ => doneTry k (drainTag k slot r f (if f.released then s else releaseTry k slot s))

/-! ## Credits (R63, R79, R209, R214) -/

/-- The place of a consumer's credits in the count of a binding. -/
def creditKey (b i : Nat) : Nat := b * 65536 + i

/-- A credit of a consumer returns to an outbound binding. A one-to-many binding gets a buffer back when every consumer has returned
its own credit for it: each consumer returns its buffers in order, so that buffer is back when each has returned one more
(R63, R209). -/
def creditCC (k slot b : Nat) (src : CellRef) (r : Section) (s : State) : State :=
  let c := getCC s k slot
  let cs := consumers r k slot b (ccOut c.cfg b)
  if cs.length ≤ 1 then modCC k slot (fun (c : CC) => { c with outCredits := amMod c.outCredits b 0 (· - 1) }) s
  else
    let got := (List.range cs.length).map (fun i =>
      amGet c.creditWait (creditKey b i) 0 + (if cs[i]? = some src then 1 else 0))
    let back := if got.all (· > 0) then 1 else 0
    modCC k slot (fun (c : CC) =>
      { c with creditWait := got.zipIdx.foldl (fun m e => amSet m (creditKey b e.2) (e.1 - back)) c.creditWait
               outCredits := amMod c.outCredits b 0 (· - back) }) s

/-- A credit returns to a generator: to a staging writer from its reader, else for a ring buffer, and a home passes one on to
each contributor (R79, R138, R214). -/
def creditAG (k g : Nat) (r : Section) (s : State) : State :=
  let a := getAG s k g
  if (stagingReader s k a).isSome then modAG k g (fun (a : AG) => { a with handoffOut := false }) s
  else
    let s := modAG k g (fun (a : AG) => { a with used := a.used - 1 }) s
    if a.expected = 0 then s
    else
      (r.edges.filter (fun e => e.2.2.1 == cellKey k 3 && e.2.2.2 == g)).foldl (fun s e =>
        sendCredit k 3 (cellAt (e.1 / 4) (e.1 % 4)) e.2.1 s) s

/-! ## The programs of the generators (R74 to R81, R137, R138) -/

/-- The index of loop i in the flattened iteration n of a program (R74, R76). -/
def agIndex (cfg : List Word32) (n i : Nat) : Nat :=
  n / ((List.range i).foldl (fun a j => a * agCount cfg j) 1) % agCount cfg i

/-- The sum of indices times strides (R74). -/
def agOffset (cfg : List Word32) (n : Nat) : Int :=
  (List.range (agLoops cfg)).foldl (fun a i => a + (agIndex cfg n i : Int) * agStride cfg i) 0

/-- The run of a flattened iteration is masked by the row limit (R76). -/
def agRowMasked (cfg : List Word32) (n : Nat) : Bool :=
  let ρ := agRowLoop cfg
  if ρ = 7 then false
  else
    let row := if ρ = 6 then n
      else n % ((List.range (min (ρ + 1) (agLoops cfg))).foldl (fun a j => a * agCount cfg j) 1)
    agRowLimit cfg ≤ row

/-- Columns of a run that no column limit masks (R76). -/
def agCols (cfg : List Word32) : Nat := min (agRun cfg) ((agColLimit cfg).getD (agRun cfg))

/-- The rows of a program's next block: flattened iterations (R78). -/
def agRows (g : AG) : List Nat := (List.range (agPerToken g.cfg)).map (fun r => g.next * agPerToken g.cfg + r)

/-- Byte address of the r-th row of the next block on the source side: contiguous in the buffer of the token's tag where the
source is a ring (R73, R74). -/
def agSrcAddr (s : State) (k : Nat) (g : AG) (r n : Nat) : Int :=
  let (_, slot, base) := agSrc g.cfg
  if agFromRing g then
    let tag := ((g.tokens.head?).map Arrival.tag).getD 0
    (bufferLine (ccPort (getCC s k slot).cfg 4) tag.toNat * 64 + r * packedBytes (agFmt g.cfg) (agRun g.cfg) : Nat)
  else base + agOffset g.cfg n

/-- The tag of the next token (R78). -/
def agTag (g : AG) : BitVec 16 := BitVec.ofNat 16 (agFirstTag g.cfg + g.next)

/-- Bytes lie within a space (R75). -/
def inSpace (space : Nat) (a : Int) (n : Nat) : Bool := 0 ≤ a && a + n ≤ (spaceSize space : Int)

/-- The event code of an uncorrectable error in a space (R85). -/
def eccCode (space : Nat) : Nat := if space = 0 then 0x104 else if space = 1 then 0x103 else 0x102

/-- The regions that a block reads: key and bytes of each unmasked run. -/
def agReads (s : State) (k : Nat) (g : AG) : List (Nat × Nat) :=
  let (space, slot, _) := agSrc g.cfg
  (agRows g).zipIdx.filterMap (fun e =>
    if agRowMasked g.cfg e.1 then none
    else some (memKey k space slot (agSrcAddr s k g e.2 e.1).toNat, packedBytes (agFmt g.cfg) (agCols g.cfg)))

/-- Every address that a block reads lies in its space; those of masked elements are not checked (R75). -/
def agReadsOk (s : State) (k : Nat) (g : AG) : Bool :=
  (agRows g).zipIdx.all (fun e =>
    agRowMasked g.cfg e.1 || agCols g.cfg == 0 ||
    inSpace (agSrc g.cfg).1 (agSrcAddr s k g e.2 e.1) (packedBytes (agFmt g.cfg) (agCols g.cfg)))

/-- The element codes of a block row by row; a masked element is none (R76, R77). -/
def agBlock (s : State) (k : Nat) (g : AG) : List (List (Option Nat)) :=
  let (space, slot, _) := agSrc g.cfg
  let f := agFmt g.cfg
  let n := agCols g.cfg
  (agRows g).zipIdx.map (fun e =>
    if agRowMasked g.cfg e.1 then List.replicate (agRun g.cfg) none
    else
      let bs := readBytes s (memKey k space slot (agSrcAddr s k g e.2 e.1).toNat) (packedBytes f n)
      (List.range (agRun g.cfg)).map (fun c => if c < n then some (getElem bs 0 f c) else none))

/-- The port of a compute cell whose ring a generator fills (R73, R79). -/
def agPort (s : State) (k : Nat) (g : AG) : Option Nat :=
  let (_, slot, base) := agDst g.cfg
  let cfg := (getCC s k slot).cfg
  (List.range 4).find? (fun i => (ccPort cfg i).mode ≥ 2 && (ccPort cfg i).base * 64 == base)

/-- Elements of a row of the operand that a port takes, and bits of one: a row of A as stored, of B, of the output shape for port 2,
a value for port 3; none where the operand has no rows of elements, a block-sparse A (R116, R123, R124). -/
def portRow (cfg : List Word32) (i : Nat) : Option (Nat × Nat) :=
  match i with
  | 0 =>
    if ccClass cfg = 2 then some (ccCols cfg, fmtBits (ccFmtA cfg))
    else if ccSparsity cfg = 2 then none
    else some (if ccSparsity cfg = 1 then ccK cfg / 2 else ccK cfg, fmtBits (ccFmtA cfg))
  | 1 => some (ccCols cfg, fmtBits (ccFmtB cfg))
  | 2 => some (ccCols cfg, fmtBits (ccFmtOut cfg))
  | _ => some (1, if ccChain64 cfg then 64 else 32)

/-- Rows and columns of a block with no mask, as the port that takes it counts them: elements per row of its operand, and as many rows
as the bytes of the block hold. DESIGN CHOICE (log 134): all a port can take for a block-sparse A; the runs and their length where
no port takes the block. -/
def agExtent (s : State) (k : Nat) (g : AG) : Nat × Nat :=
  let runs := agPerToken g.cfg
  let cfg := (getCC s k (agDst g.cfg).2.1).cfg
  if !agToRing g then (runs, agRun g.cfg)
  else
    match agPort s k g with
    | none => (runs, agRun g.cfg)
    | some i =>
      match portRow cfg i with
      | none => (8191, 32767)
      | some (n, bits) => (runs * packedBytes (agFmt g.cfg) (agRun g.cfg) * 8 / bits / max 1 n, n)

/-- Valid rows and columns of a block, which its token carries: all of a padded block; else the rows and columns that the predicate
leaves, and where it masks none those of the whole block (R77, R121, R137; log 134). -/
def agValid (s : State) (k : Nat) (g : AG) : Nat × Nat :=
  if agHasHalo g.cfg then
    let (n, so, e, w) := agHalo g.cfg
    (so + agPerToken g.cfg + n, w + agRun g.cfg + e)
  else
    let (rows, cols) := agExtent s k g
    (if agRowLoop g.cfg = 7 then rows else ((agRows g).filter (fun n => !agRowMasked g.cfg n)).length,
     if (agColLimit g.cfg).isSome then agCols g.cfg else cols)

/-! ### Halo strips (R80 to R82, R137, R139) -/

/-- Rows and columns of a receive region (R80). -/
def haloShape (cfg : List Word32) (region : Nat) : Nat × Nat :=
  let (n, so, e, w) := agHalo cfg
  let rows := agPerToken cfg
  let cols := agRun cfg
  match region with
  | 0 => (n, cols)
  | 1 => (so, cols)
  | 2 => (rows, e)
  | 3 => (rows, w)
  | 4 => (n, e)
  | 5 => (n, w)
  | 6 => (so, e)
  | _ => (so, w)

/-- Bytes of a receive region. -/
def haloBytes (cfg : List Word32) (region : Nat) : Nat :=
  let (r, c) := haloShape cfg region
  r * packedBytes (agFmt cfg) c

/-- Where a receive region begins in the staging bank (R80). -/
def haloBase (cfg : List Word32) (region : Nat) : Nat :=
  agRecvBase cfg + (((haloSides cfg).filter (fun e => e.1 < region)).map (fun e => haloBytes cfg e.1)).sum

/-- The region that a strip fills at the neighbour on a side: the opposite one. -/
def haloOpposite (region : Nat) : Nat :=
  match region with
  | 0 => 1
  | 1 => 0
  | 2 => 3
  | _ => 2

/-- The last n entries of a list. -/
def lastN {α : Type} (n : Nat) (l : List α) : List α := l.drop (l.length - n)

/-- The strip of a block for a side: the highest rows are north, the highest columns of the run east (R80). -/
def haloStrip (cfg : List Word32) (side : Nat) (blk : List (List (Option Nat))) : List Byte :=
  let (n, so, e, w) := agHalo cfg
  let rows := if side = 0 then lastN n blk else if side = 1 then blk.take so else blk
  let cut := fun (l : List (Option Nat)) => if side = 2 then lastN e l else if side = 3 then l.take w else l
  rows.flatMap (fun l => packRow (agFmt cfg) (cut l))

/-- Sends a strip to the same generator of a neighbour as HALO packets of at most 304 bytes, in order. DESIGN CHOICE (log 137): the tag of
each packet is the number of the receive region. -/
def sendStrip (k gi region peer : Nat) (bytes : List Byte) (s : State) : State :=
  (chunks 304 ((bytes.length + 303) / 304) bytes).foldl (fun s b =>
    send ⟨⟨cellAt k 3, cellAt peer 3, gi, domainAt s k, BitVec.ofNat 16 region⟩, false, 2, b⟩ s) s

/-- The generator sends its strip of each side to the neighbour there, once for each buffer (R81). Corner blocks follow by way of the
neighbours that received the north and south strips (R80, R139). -/
def sendStrips (k gi : Nat) (s : State) : State :=
  let g := getAG s k gi
  let blk := agBlock s k g
  ((haloSides g.cfg).filter (fun e => e.1 < 4)).foldl (fun s e =>
    match haloPeer s k e.2 with
    | some p => sendStrip k gi (haloOpposite e.1) p (haloStrip g.cfg e.1 blk) s
    | none => s) (modAG k gi (fun (g : AG) => { g with haloSent := g.next + 1 }) s)

/-- The columns of a received north or south strip that are the corner block of the east or west neighbour. -/
def cornerBlock (s : State) (k : Nat) (g : AG) (region : Nat) (east : Bool) : List Byte :=
  let (rows, cols) := haloShape g.cfg region
  let (_, _, e, w) := agHalo g.cfg
  let n := packedBytes (agFmt g.cfg) cols
  (List.range rows).flatMap (fun i =>
    let bs := readBytes s (memKey k 1 0 (haloBase g.cfg region + i * n)) n
    let l := (List.range cols).map (fun j => some (getElem bs 0 (agFmt g.cfg) j))
    packRow (agFmt g.cfg) (if east then l.drop (cols - e) else l.take w))

/-- A north or south strip has arrived whole: its corner blocks go on as additional east and west transfers (R80, R139). -/
def passCorners (k gi region : Nat) (s : State) : State :=
  let g := getAG s k gi
  if region ≥ 2 ∨ !agCorners g.cfg then s
  else
    ((haloSides g.cfg).filter (fun e => e.1 == 2 || e.1 == 3)).foldl (fun s e =>
      match haloPeer s k e.2 with
      | some p => sendStrip k gi (if e.1 = 2 then (if region = 1 then 7 else 5) else (if region = 1 then 6 else 4)) p
          (cornerBlock s k g region (e.1 == 2)) s
      | none => s) s

/-- A receive region as rows of elements: zero where the side has no neighbour (R81, R82). -/
def haloRows (s : State) (k : Nat) (g : AG) (region : Nat) : List (List (Option Nat)) :=
  let (r, c) := haloShape g.cfg region
  let w := packedBytes (agFmt g.cfg) c
  let got := (haloWaits s k g).contains region
  (List.range r).map (fun i =>
    let bs := readBytes s (memKey k 1 0 (haloBase g.cfg region + i * w)) w
    (List.range c).map (fun j => some (if got then getElem bs 0 (agFmt g.cfg) j else 0)))

/-- The block with its received border: south rows, the interior between west and east columns, north rows (R137). -/
def padded (s : State) (k : Nat) (g : AG) : List (List (Option Nat)) :=
  let (n, so, e, w) := agHalo g.cfg
  let corner := fun (on : Nat) (region rows cols : Nat) =>
    if on = 0 then List.replicate rows (List.replicate cols (some 0))
    else haloRows s k g region
  let c := if agCorners g.cfg then 1 else 0
  let join3 := fun (a b d : List (List (Option Nat))) => (a.zip (b.zip d)).map (fun x => x.1 ++ x.2.1 ++ x.2.2)
  join3 (corner c 7 so w) (haloRows s k g 1) (corner c 6 so e) ++
  join3 (haloRows s k g 3) (agBlock s k g) (haloRows s k g 2) ++
  join3 (corner c 5 n w) (haloRows s k g 0) (corner c 4 n e)

/-! ### The destination -/

/-- What a transfer writes: key, space, byte address, old-preserving rows. A ring buffer and a padded block are filled
contiguously; else each run goes to its address (R57, R74, R137). -/
def agWrites (s : State) (k : Nat) (g : AG) (rows : List (List (Option Nat))) : List (Int × List (Option Nat)) :=
  let (_, slot, base) := agDst g.cfg
  let f := agFmt g.cfg
  if agToRing g then
    let start :=
      if agStationary s k g then base
      else
        let cfg := (getCC s k slot).cfg
        match (List.range 4).find? (fun i => (ccPort cfg i).mode == 2 && (ccPort cfg i).base * 64 == base) with
        | some i => bufferLine (ccPort cfg i) (agTag g).toNat * 64
            | none => base
    rows.mapIdx (fun i l => (((start + i * packedBytes f l.length : Nat) : Int), l.map (fun e => some (e.getD 0))))
  else if agHasHalo g.cfg then rows.mapIdx (fun i l => (((base + i * packedBytes f l.length : Nat) : Int), l))
  else (agRows g).zip rows |>.map (fun e => ((base : Int) + agOffset g.cfg e.1, e.2))

/-- A row's last element that is written, counted from 1. -/
def validLen (l : List (Option Nat)) : Nat := (l.zipIdx.filter (fun e => e.1.isSome)).foldl (fun m e => max m (e.2 + 1)) 0

/-- Writes rows; a masked element keeps what stands there, whole in bytes that hold no other element (R77). -/
def writeRows (k space slot f : Nat) (ws : List (Int × List (Option Nat))) (s : State) : State :=
  ws.foldl (fun s w =>
    let l := w.2.take (validLen w.2)
    let n := packedBytes f l.length
    let key := memKey k space slot w.1.toNat
    let old := readBytes s key n
    if n = 0 then s
    else
      let bits := (l.zipIdx.map (fun e => (e.1.getD (getElem old 0 f e.2)) * 2 ^ (e.2 * fmtBits f))).sum
      let used := l.length * fmtBits f
      writeBytes key (leBytes n (bits + leNat old / 2 ^ used * 2 ^ used)) s) s

/-- After the last byte of a block: a ring source's buffer returns to its cell, a ring destination's token goes to the port, a
staging region passes to its reader, and a reader that has finished returns the writer's credit (R73, R78, R79, R138). -/
def agNotify (k : Nat) (g : AG) (valid : Nat × Nat) (s : State) : State :=
  let last := g.next + 1 ≥ agTokens g.cfg
  let s := if agFromRing g then
      let slot := (agSrc g.cfg).2.1
      sendCredit k 3 (cellAt k slot) (ccPort (getCC s k slot).cfg 4).binding s
    else s
  let s := if agToRing g then
      let slot := (agDst g.cfg).2.1
      match agPort s k g with
      | some i => sendToken k 3 (cellAt k slot) (ccPort (getCC s k slot).cfg i).binding (agTag g) valid.1 valid.2 s
      | none => s
    else s
  let s := match stagingReader s k g with
    | some r => if last then sendToken k 3 (cellAt k 3) r (agTag g) valid.1 valid.2 s else s
    | none => s
  match stagingWriter s k g with
  | some w => if last then sendCredit k 3 (cellAt k 3) w s else s
  | none => s

/-- A generator's progress after a block. -/
def agAdvance (s : State) (k : Nat) (g : AG) : AG :=
  let last := g.next + 1 ≥ agTokens g.cfg
  { g with next := g.next + 1
           used := if agToRing g then g.used + 1 else g.used
           tokens := if agFromRing g then g.tokens.drop 1 else g.tokens
           haloGot := (haloWaits s k g).foldl (fun m r => amMod m r 0 (· - 1)) g.haloGot
           handoffOut := g.handoffOut || (last && (stagingReader s k g).isSome)
           handoff := g.handoff && !last
           finished := last }

/-- The event code of an uncorrectable error that a generator's next reads meet, if any: in its source, or in the staging bank where the
strips of a halo stand (R85). -/
def agError (s : State) (k : Nat) (g : AG) (halo : List (Nat × Nat)) : Option Nat :=
  if (agReads s k g).any (fun e => hasDouble s e.1 e.2) then some (eccCode (agSrc g.cfg).1)
  else if halo.any (fun e => hasDouble s e.1 e.2) then some 0x103
  else none

/-- The regions whose strips a block takes in, by key and bytes. -/
def haloReads (s : State) (k : Nat) (g : AG) : List (Nat × Nat) :=
  if agHasHalo g.cfg then (haloWaits s k g).map (fun r => (memKey k 1 0 (haloBase g.cfg r), haloBytes g.cfg r)) else []

/-- A generator with all that its next block needs copies it (R75, R77, R81). DESIGN CHOICE (log 133): where an address of the block that
no mask covers is outside its space, nothing of the block is written. -/
def agCopy (k gi : Nat) (s : State) : State :=
  let g := getAG s k gi
  let (sp, _, _) := agSrc g.cfg
  let (dp, slot, _) := agDst g.cfg
  let rows := if agHasHalo g.cfg then padded s k g else agBlock s k g
  let ws := agWrites s k g rows
  let f := agFmt g.cfg
  let reads := agReads s k g
  let halo := haloReads s k g
  let bad := agError s k g halo
  let s := (reads ++ halo).foldl (fun s e => touchRead e.1 e.2 s) s
  if !ws.all (fun w => validLen w.2 == 0 || inSpace dp w.1 (packedBytes f (validLen w.2))) then cellFault k 3 gi 0x105 s
  else
    match bad with
    | some code => cellFault k 3 gi code (noteUncorrected k s)
    | none =>
      let valid := agValid s k g
      let s := countAccess k sp (accessesOf sp reads) s
      let s := countAccess k dp (accessesOf dp (ws.map (fun w => (w.1.toNat, packedBytes f (validLen w.2))))) s
      let s := writeRows k dp slot f ws s
      doneTry k (agNotify k g valid (modAG k gi (fun (g : AG) => agAdvance s k g) s))

/-- A generator acts: with a credit, token and hand-off it sends its strips, and with its neighbours' strips it fills the buffer
for its next tag (R78, R79, R81, R138). -/
def agTry (k gi : Nat) (s : State) : State :=
  let g := getAG s k gi
  if (running s k).isNone ∨ (getTile s k).run ≠ .running ∨ g.expected > 0 ∨ !agReady s k g then s
  else if !agReadsOk s k g then cellFault k 3 gi 0x105 s
  else
    let first := agHasHalo g.cfg && g.haloSent ≤ g.next
    match if first then agError s k g [] else none with
    | some code => cellFault k 3 gi code (noteUncorrected k ((agReads s k g).foldl (fun s e => touchRead e.1 e.2 s) s))
    | none =>
      let s := if first then sendStrips k gi ((agReads s k g).foldl (fun s e => touchRead e.1 e.2 s) s) else s
      if agHasHalo g.cfg && !haloReady s k (getAG s k gi) then s else agCopy k gi s

/-- Bytes of a strip arrive in its receive region, after those of the same strip that came before; with the last of them the strip is
there, and its corner blocks go on (R80, R81, R139). -/
def haloArrive (k gi region : Nat) (data : List Byte) (s : State) : State :=
  let g := getAG s k gi
  let n := haloBytes g.cfg region
  let off := amGet g.haloFill region 0
  let bytes := data.take (n - off)
  let last := off + data.length ≥ n
  if g.stopped || !(haloSides g.cfg).any (fun e => e.1 == region) then s
  else if !inSpace 1 (haloBase g.cfg region) n then cellFault k 3 gi 0x105 s
  else
    let s := countAccess k 1 (accessesOf 1 [(haloBase g.cfg region + off, bytes.length)])
      (writeBytes (memKey k 1 0 (haloBase g.cfg region + off)) bytes s)
    if last then
      passCorners k gi region (modAG k gi (fun (g : AG) =>
        { g with haloGot := amMod g.haloGot region 0 (· + 1), haloFill := amDel g.haloFill region }) s)
    else modAG k gi (fun (g : AG) => { g with haloFill := amSet g.haloFill region (off + data.length) }) s

/-- Output block lines arrive for the ring of the port that a binding delivers, after those of the same block that came before
(R57, R207). -/
def streamArrive (k slot b : Nat) (tag : BitVec 16) (data : List Byte) (s : State) : State :=
  let c := getCC s k slot
  if c.stopped then s
  else if ccClass c.cfg = 0 || !(ccIn c.cfg b).enable then cellFault k slot 4 0x106 s
  else
    match portsOn c.cfg b with
    | [] => cellFault k slot 4 0x106 s
    | i :: _ =>
      let d := ccPort c.cfg i
      if d.mode < 2 then s
      else
        let line := if d.mode = 3 then d.base else bufferLine d tag.toNat
        let off := amGet c.streamFill (b * 65536 + tag.toNat) 0
        let bytes := data.take (d.size * 64 - off)
        modCC k slot (fun (c : CC) => { c with streamFill := amSet c.streamFill (b * 65536 + tag.toNat) (off + data.length) })
          (writeBytes (memKey k 2 slot (line * 64 + off)) bytes s)

/-- The token of a streamed block ends its fill. -/
def streamEnd (k slot b : Nat) (tag : BitVec 16) (s : State) : State :=
  if (amFind (getCC s k slot).streamFill (b * 65536 + tag.toNat)).isSome then
    modCC k slot (fun (c : CC) => { c with streamFill := amDel c.streamFill (b * 65536 + tag.toNat) }) s
  else s

/-- A token at a generator: from its staging writer it is the hand-off, else a filled buffer of its ring source (R73, R138). -/
def tokenAG (k gi : Nat) (a : Arrival) (s : State) : State :=
  modAG k gi (fun (g : AG) =>
    if g.stopped then g
    else if (agSrc g.cfg).1 = 1 then { g with handoff := true } else { g with tokens := g.tokens ++ [a] }) s

end Sys2Proof.Machine
end

