-- ==== Sys2Proof/Machine/Combine.lean ====
section
/-!
DEFINITION. The home of a combining queue: pieces, their order, and the token of a complete buffer (R202, R203, R213 to R216).
-/

namespace Sys2Proof.Machine

/-- The elements of a home are binary32: its generator's element format is F32; else they are 32-bit integers (R200, R216). -/
def homeFloat (g : AG) : Bool := agFmt g.cfg == 9

/-- Elements of piece j of a home's buffers (R213). -/
def pieceLen (g : AG) (j : Nat) : Nat := min 64 (g.size * 16 - 64 * j)

/-- The port of a compute cell that a home fills: a ring in buffer mode whose base is the destination address (R73, R213). -/
def homePort (s : State) (k : Nat) (g : AG) : Option PortDesc :=
  let (_, slot, base) := agDst g.cfg
  let cfg := (getCC s k slot).cfg
  ((List.range 4).find? (fun i => (ccPort cfg i).mode ≥ 2 && (ccPort cfg i).base * 64 == base)).map (ccPort cfg)

/-- Key of piece j of buffer i of a home (R57, R214). -/
def pieceKey (k : Nat) (g : AG) (i j : Nat) : Nat :=
  memKey k 2 (agDst g.cfg).2.1 ((agDst g.cfg).2.2 + i * g.size * 64 + 256 * j)

/-- Two elements added (R202). -/
def addElem (float : Bool) (a b : Nat) : Nat := atomicNew 3 (if float then 2 else 0) 4 a b 0

/-- The pieces of a buffer are complete, and none of it was discarded (R216): a token goes to the consumer, and the buffer's next fill begins (R214). -/
def fillDone (k gi i : Nat) (s : State) : State :=
  let g := getAG s k gi
  let n := pieceCount g.size
  if !g.spoiled.contains i && (List.range n).all (fun j => amGet g.arrived (i * n + j) 0 == g.expected) then
    let m := amGet g.fills i 0
    let tag := BitVec.ofNat 16 (agFirstTag g.cfg + m * g.depth + i)
    let rows := if agRowLoop g.cfg = 7 then 8191 else agRowLimit g.cfg
    let cols := (agColLimit g.cfg).getD 32767
    let s := modAG k gi (fun (g : AG) =>
      { g with fills := amSet g.fills i (m + 1), used := g.used + 1, next := g.next + 1
               arrived := g.arrived.filter (fun e => e.1 / n != i)
               finished := g.next + 1 ≥ agTokens g.cfg }) s
    let s := match homePort s k g with
      | some d => sendToken k 3 (cellAt k (agDst g.cfg).2.1) d.binding tag rows cols s
      | none => s
    doneTry k s
  else s

/-- A piece is written into its buffer where it is the first, else added (R214); an uncorrectable error of the operand store is a
cell fault (R85). -/
def addPiece (k gi i j count : Nat) (elems : List Nat) (s : State) : State :=
  let g := getAG s k gi
  let at0 := i * pieceCount g.size + j
  let key := pieceKey k g i j
  let cur := amGet g.arrived at0 0
  let n := elems.length * 4
  if cur > 0 && hasDouble s key n then cellFault k 3 gi 0x102 (noteUncorrected k s)
  else
    let s := if cur > 0 then touchRead key n s else s
    let old := readBytes s key n
    let new := if cur = 0 then elems
      else elems.zipIdx.map (fun e => addElem (homeFloat g) (fieldAt old (4 * e.2) 4) e.1)
    let s := countAccess k 2 1 (writeBytes key (new.flatMap (leBytes 4)) s)
    fillDone k gi i (modAG k gi (fun (g : AG) => { g with arrived := amSet g.arrived at0 (cur + count) }) s)

/-- Byte address in the staging bank of the slot that holds a piece ahead of its turn (R215). -/
def holdAddr (g : AG) (j ordinal : Nat) : Nat := agRecvBase g.cfg + ((ordinal - 1) * pieceCount g.size + j) * 256

/-- Held pieces whose turn has come are added, one after another (R215). -/
def drainHeld (k gi i j : Nat) : Nat → State → State
  | 0, s => s
  | n + 1, s =>
    let g := getAG s k gi
    let cur := amGet g.arrived (i * pieceCount g.size + j) 0
    match g.held.find? (fun (p : HeldPiece) => p.buffer == i && p.piece == j && p.ordinal == cur) with
    | none => s
    | some p =>
      if g.stopped || cur = 0 then s
      else
        let key := memKey k 1 0 (holdAddr g j p.ordinal)
        let len := pieceLen g j * 4
        let s := modAG k gi (fun (g : AG) => { g with held := g.held.erase p }) s
        if hasDouble s key len then cellFault k 3 gi 0x103 (noteUncorrected k s)
        else
          let s := touchRead key len s
          let bs := readBytes s key len
          drainHeld k gi i j n (addPiece k gi i j p.count ((List.range (pieceLen g j)).map (fun e => fieldAt bs (4 * e) 4)) s)

/-- A piece that a home does not take: it is discarded with event 0x186, and its buffer never completes (R216). -/
def refusePiece (k gi i : Nat) (s : State) : State :=
  raise (evCell s 0x186 1 (cellAt k 3) 0)
    (modAG k gi (fun (g : AG) => { g with spoiled := if g.spoiled.contains i then g.spoiled else g.spoiled ++ [i] }) s)

/-- A piece arrives at a home (R213 to R216): beyond C_exp or of another format or length it is a fault; in deterministic mode one
ahead of its turn is held in the staging bank. -/
def combineArrive (k gi : Nat) (tag : BitVec 16) (pre : CombinePrefix) (elems : List Word32) (s : State) : State :=
  let g := getAG s k gi
  if g.stopped then s
  else
    let n := pieceCount g.size
    let i := tag.toNat / max 1 n
    let j := tag.toNat % max 1 n
    let cur := amGet g.arrived (i * n + j) 0
    let es := elems.map BitVec.toNat
    if g.expected = 0 ∨ n = 0 ∨ i ≥ max 1 g.depth ∨ elems.length ≠ pieceLen g j ∨ pre.isInt = homeFloat g ∨ pre.count = 0
        ∨ cur + pre.count > g.expected then refusePiece k gi i s
    else if !pre.det ∨ pre.ordinal = cur then
      drainHeld k gi i j g.held.length (addPiece k gi i j pre.count es s)
    else if pre.ordinal < cur ∨ pre.ordinal ≥ g.expected
        ∨ g.held.any (fun (p : HeldPiece) => p.buffer == i && p.piece == j && p.ordinal == pre.ordinal) then refusePiece k gi i s
    else
      let a := holdAddr g j pre.ordinal
      if a + 256 > 131072 then cellFault k 3 gi 0x105 s
      else
        modAG k gi (fun (g : AG) => { g with held := g.held ++ [{ buffer := i, piece := j, ordinal := pre.ordinal, count := pre.count }] })
          (countAccess k 1 2 (writeBytes (memKey k 1 0 a) (es.flatMap (leBytes 4)) s))

/-- A contribution that routers may have added into one that arrives: the same destination, target, tag, domain, format and element
count, without the deterministic flag, and with no more contributors than are left (R201). -/
def joinedIn (h : Head) (pre : CombinePrefix) (size left : Nat) (m : MeshMsg) : Bool :=
  !m.control && m.kind == 7 && m.head.dst == h.dst && m.head.target == h.target && m.head.domain == h.domain && m.head.tag == h.tag &&
  fieldAt m.body 4 1 == (if pre.isInt then 1 else 0) && fieldAt m.body 6 2 == size && fieldAt m.body 5 1 % 2 == 0 &&
  1 ≤ fieldAt m.body 0 2 && fieldAt m.body 0 2 ≤ left

/-- Routers have combined contributions into the one that arrives: those that they have added to it leave the mesh (R201). -/
def mergedAway (h : Head) (pre : CombinePrefix) (size : Nat) : Nat → Nat → State → State
  | 0, _, s => s
  | n + 1, left, s =>
    if pre.det then s
    else
      match (inMesh s).find? (joinedIn h pre size left) with
      | none => s
      | some m => mergedAway h pre size n (left - fieldAt m.body 0 2) (leaveMesh (· == m) s)

end Sys2Proof.Machine
end

