-- ==== Sys2Proof/Machine/CellFam.lean ====
section
/-!
DEFINITION. The commands of compute cells and memory cells: arrivals, firings, drains, transfers, strips, corrected words and
samples (R47 to R86, R168, R207, R208).
-/

namespace Sys2Proof.Machine

/-- A token at a running tile: it enters the inbound queue that its header names, or is a filled buffer or the hand-off of a
generator (R60, R73, R138). -/
def tokenIn (h : Head) (rows cols : Nat) (s : State) : State :=
  let k := dstSite h
  let a : Arrival := { tag := h.tag, rows := rows, cols := cols }
  if h.dst.slot < 3 then ccArrive k h.dst.slot h.target a (streamEnd k h.dst.slot h.target h.tag s)
  else if h.target < 4 then tokenAG k h.target a s else s

/-- TOKEN (R60, R73, R77, R138, R207): a token reaches a binding of a compute cell, or a generator of a memory cell. -/
def execToken (h : Head) (rows cols : Nat) (s : State) : Out :=
  .next (arriveCtl h 1 (atRunning (dstSite h) (some (.token h rows cols)) (tokenIn h rows cols)) s)

/-- A tuple at a compute cell of a running tile (R60, R208). -/
def tupleIn (h : Head) (words : List Word32) (s : State) : State :=
  ccArrive (dstSite h) h.dst.slot h.target { tag := h.tag, words := words, rows := 8191, cols := 32767 } s

/-- TUPLE (R208, R211): a value reaches a binding of a compute cell, or a descriptor a memory cell's service port. -/
def execTuple (h : Head) (words : List Word32) (s : State) : Out :=
  .next (arriveCtl h 3 (fun s =>
    let k := dstSite h
    if h.dst.slot < 3 then atRunning k (some (.tuple h words)) (tupleIn h words) s
    else if h.target = 4 then
      postDesc k (readDesc (words.getD 0 0) (words.getD 1 0) (words.getD 2 0) (words.getD 3 0)) s
    else s) s)

/-- CREDIT (R63, R79, R138, R209, R214): a buffer returns to an outbound binding or a generator. -/
def execCredit (h : Head) (s : State) : Out :=
  .next (arriveCtl h 2 (fun s =>
    let k := dstSite h
    atRunning k none (fun s =>
      match running s k with
      | none => s
      | some (_, _, _, r) =>
        if 4 ≤ h.target then s
        else if h.dst.slot < 3 then creditCC k h.dst.slot h.target h.src r s
        else creditAG k h.target r s) s) s)

/-- ACTOR_FIRE (R61, R62). -/
def execActorFire (c : CellRef) (s : State) : Out := .next (fireTry (siteKey c.x c.y) c.slot s)

/-- BUFFER_RELEASE (R63). -/
def execBufferRelease (c : CellRef) (s : State) : Out := .next (releaseTry (siteKey c.x c.y) c.slot s)

/-- DRAIN_COMPLETE (R116, R464). -/
def execDrainComplete (c : CellRef) (s : State) : Out := .next (drainTry (siteKey c.x c.y) c.slot s)

/-- GENERATOR_TRANSFER (R74 to R79): the memory cell grants its overlay to the generator in the class order of its role, and then serves
what waited behind it (R68). -/
def execGeneratorTransfer (x y g : Nat) (s : State) : Out :=
  .next (mcServe (siteKey x y) (agTry (siteKey x y) g s))

/-- The number of a receive region (R80). -/
def haloRegion : HaloPart → Nat
  | .north => 0
  | .south => 1
  | .east => 2
  | .west => 3
  | .northEast => 4
  | .northWest => 5
  | .southEast => 6
  | .southWest => 7

/-- Bytes of a strip at a generator of a running tile (R81). -/
def haloIn (h : Head) (part : HaloPart) (data : List Byte) (s : State) : State :=
  if h.target < 4 then haloArrive (dstSite h) h.target (haloRegion part) data s else s

/-- HALO (R81): a strip arrives in a generator's receive region. -/
def execHalo (h : Head) (part : HaloPart) (data : List Byte) (s : State) : Out :=
  .next (arriveData h 2 (atRunning (dstSite h) (some (.halo h part data)) (haloIn h part data)) s)

/-- STREAM (R57, R207): output block lines arrive for a consumer's ring. -/
def execStream (h : Head) (data : List Byte) (s : State) : Out :=
  .next (arriveData h 1 (fun s =>
    if h.dst.slot < 3 then
      atRunning (dstSite h) (some (.stream h data)) (streamArrive (dstSite h) h.dst.slot h.target h.tag data) s
    else s) s)

/-- A combining piece at a running tile (R214). -/
def combineIn (h : Head) (pre : CombinePrefix) (elems : List Word32) (s : State) : State :=
  combineArrive (dstSite h) h.target h.tag pre elems s

/-- A watch's notification at a compute cell of a running tile: the token for its tag where the binding takes tokens (R224). -/
def notifyIn (h : Head) (s : State) : State :=
  let k := dstSite h
  if h.target < 4 ∧ (ccIn (getCC s k h.dst.slot).cfg h.target).kind = 1 then
    ccArrive k h.dst.slot h.target { tag := h.tag, rows := 8191, cols := 32767 } s
  else s

/-- What a tile held while it was loading is delivered when it starts (R159). -/
def deliverHeld (i : Instr) (s : State) : State :=
  match i with
  | .token h rows cols => tokenIn h rows cols s
  | .tuple h words => tupleIn h words s
  | .halo h part data => haloIn h part data s
  | .stream h data => streamArrive (dstSite h) h.dst.slot h.target h.tag data s
  | .combine h pre elems => combineIn h pre elems s
  | .watchNotify h _ _ => notifyIn h s
  | _ => s

/-- Delivers all that a tile held for its agents, in order (R159). -/
def deliverAll (k : Nat) (s : State) : State :=
  let held := (getTile s k).heldOps.filter (fun i => !isCtrInstr i)
  held.foldl (fun s i => deliverHeld i s)
    (modTile k (fun (t : Tile) => { t with heldOps := t.heldOps.filter isCtrInstr }) s)

/-- ECC_WRITE_BACK (R67): a corrected and counted word of a site's stores is written back; one that a write has replaced, or that
awaits none, stays as it is. -/
def execEccWriteBack (x y addr : Nat) (s : State) : Out :=
  .next (
    let w := (siteKey x y * 0x400000 + addr) / 8
    if amFind s.ecc w = some .counted then { s with ecc := amDel s.ecc w } else s)

/-- The sample word of a tile (R168). -/
def sampleWord (s : State) (a : Part) (k : Nat) : Nat :=
  let cs := (getTile s k).cc.map Prod.snd
  let deep := (cs.flatMap (fun c => c.queues.map (fun e => e.2.length))).foldl max 0
  let slots := (cs.map (fun c => c.slots.length)).foldl max 0
  let run := (a.current.map Current.number).getD 0
  min deep 16 * 2 ^ 27 + min (blockedBits s k).length 28 * 2 ^ 22 + min slots 32 * 2 ^ 16 + run % 2 ^ 16

/-- The sites that the resident sections of a partition map. -/
def mappedSites (a : Part) : List Nat := (a.resident.flatMap Section.sites).eraseDups

/-- QUEUE_SAMPLE (R168): every mapped memory cell writes one sample into its ring, at one overlay access. -/
def execQueueSample (part : Nat) (s : State) : Out :=
  .next (
    match getPart s part with
    | none => s
    | some a =>
      match a.sampling with
      | none => s
      | some (_, base, len) =>
        (mappedSites a).foldl (fun s k =>
          let at0 := (getTile s k).sampleAt % max 1 len
          let s := writeBytes (memKey k 0 0 (base + 4 * at0)) (leBytes 4 (sampleWord s a k)) s
          countAccess k 0 1 (modTile k (fun (t : Tile) => { t with sampleAt := (at0 + 1) % max 1 len }) s)) s)

end Sys2Proof.Machine
end

