-- ==== Sys2Proof/Machine/ClockFam.lean ====
section
/-!
DEFINITION. The commands of the timing link, the field clock islands and the ring clocks (R295 to R311).
-/

namespace Sys2Proof.Machine

/-- REFERENCE_LOCK (R295, R299): the link locks; in holdover the reference is regained at the next epoch mark, wake source 90
fires (R419), and a wafer reset that waits for the link goes on. -/
def execReferenceLock (s : State) : Out :=
  .next (
    if s.pilot.step < 2 then s
    else match s.time.ref with
      | .noLock => advanceUp { s with time := { s.time with ref := .locked } }
      | .locked => s
      | _ => if s.time.regaining then s else advanceUp (wakeFire [90] { s with time := { s.time with regaining := true } }))

/-- REFERENCE_LOSS (R299): the pilot domain enters holdover, with event 0x080. -/
def execReferenceLoss (s : State) : Out :=
  .next (
    match s.time.ref with
    | .noLock => s
    | .locked =>
      let t := now s
      raise (evPilot 0x080 1 0) { s with time := { s.time with ref := .holdover, holdoverSince := t, regaining := false, frameTod := none } }
    | _ => { s with time := { s.time with regaining := false, frameTod := none } })

/-- HOLDOVER_TIMEOUT (R299): 60 s of holdover have passed, with event 0x081. -/
def execHoldoverTimeout (s : State) : Out :=
  .next (
    if s.time.ref = .holdover then
      let s := advanceTo (s.time.holdoverSince + 60 * secT) s
      raise (evPilot 0x081 1 0) { s with time := { s.time with ref := .holdoverLong } }
    else s)

/-- TIME_FRAME (R296, R297). -/
def execTimeFrame (bytes : List Byte) (s : State) : Out := .next (takeFrame bytes s)

/-- EPOCH_MARK (R296, R297, R299). -/
def execEpochMark (s : State) : Out := .next (epoch s)

/-- HOLDOVER_TICK (R299): the 1 ms tick goes on while the link has no lock. -/
def execHoldoverTick (s : State) : Out :=
  .next (
    match s.time.ref with
    | .holdover | .holdoverLong => msTicks 1 (toNextTick s)
    | _ => s)

/-- FLL_WINDOW (R302, R303, R305, R310). -/
def execFllWindow (field count : Nat) (s : State) : Out := .next (if field < 56 then fllStep field count s else s)

/-- SUPPLY_GOOD (R304). -/
def execSupplyGood (field : Nat) (s : State) : Out := .next (if field < 56 then supplyIsGood field s else s)

/-- SETTLE_DELAY_EXPIRE (R302, R304). -/
def execSettleDelayExpire (field : Nat) (s : State) : Out := .next (if field < 56 then settleOver field s else s)

/-- PLL_LOCK (R306): a ring PLL sets its ready flag; it multiplies the reference, so it cannot lock without one. -/
def execPllLock (pll : Nat) (s : State) : Out :=
  .next (
    if s.time.ref = .noLock then s
    else if pll = 0 then { s with time := { s.time with pll0 := true } }
    else if pll = 1 then { s with time := { s.time with pll1 := true } }
    else s)

/-- PLL_LOSS (R309): a ring PLL loses lock, and the domains that it drives fall back. -/
def execPllLoss (pll : Nat) (s : State) : Out := .next (if pll < 2 then pllLost pll s else s)

/-- SOURCE_SWITCH (R308): a write of 0x2100:07 or 0x2100:08. -/
def execSourceSwitch (via : Via) (sub value : Nat) (s : State) : Out :=
  .next (viaNum (.sourceSwitch via sub value) via 0x2100 (if sub = 7 then 7 else 8) 1 value s)

/-- PLL_MULTIPLIER_WRITE (R309): a write of 0x2100:04 or 0x2100:05. -/
def execPllMultiplierWrite (via : Via) (sub value : Nat) (s : State) : Out :=
  .next (viaNum (.pllMultiplierWrite via sub value) via 0x2100 (if sub = 4 then 4 else 5) 1 value s)

/-- FIELD_CLOCK_TARGET_WRITE (R301): a write of 0x2110. -/
def execFieldClockTargetWrite (via : Via) (field value : Nat) (s : State) : Out :=
  .next (viaNum (.fieldClockTargetWrite via field value) via 0x2110 (field + 1) 2 value s)

/-- PPS_EDGE (R457): a rising edge on the pin that carries the pulse-per-second function. -/
def execPpsEdge (pin : Nat) (s : State) : Out :=
  .next (
    if pin < 8 ∧ (getPin s pin).func = 3 then
      ppsStamp (modPin pin (fun p => { p with sample := true, level := true }) (addCycles 1 s))
    else s)

end Sys2Proof.Machine
end

