-- ==== Sys2Proof/Machine/FabricFam.lean ====
section
/-!
DEFINITION. The commands of the edge ports, the packet flows and the link and maintenance opcodes (R238 to R274).
-/

namespace Sys2Proof.Machine

/-! ## Training and discovery (R240 to R244, R254) -/

/-- A port's training and discovery have ended for this time; the power-up sequence may go on (R428). -/
def portSettled (i : Nat) (s : State) : State := advanceUp (modPort i (fun p => { p with trainedOnce := true }) s)

/-- A port sends DISCOVERY to the peer that it does not yet know (R240, R272; log 142). -/
def sendDiscovery (i : Nat) (s : State) : State :=
  let body := leBytes 2 (nodeId s) ++ [BitVec.ofNat 8 i, BitVec.ofNat 8 s.fabric.groupSize] ++ leBytes 2 s.fabric.groupCount ++ [0, 0] ++
    leBytes 8 (now s / 10)
  let w := clearPkt { pkt := { dst := 0x3FFF, domain := mgmtDomain s, opcode := 0x65, data := body }, src := nodeId s, hops := 1
                      size := 64, len := 16 }
  { s with fabric := { s.fabric with wire := s.fabric.wire ++ [(i, w)] } }

/-- PMD_TRAINING_COMPLETE (R240): a trained port sends DISCOVERY and begins discovery, another stays down. Without a node ID no port
leaves discovery (R274). -/
def execPmdTrainingComplete (port : Nat) (trained : Bool) (s : State) : Out :=
  .next (
    if (getPort s port).st ≠ .training then s
    else if trained then
      let s := sendDiscovery port (setPort port .discovery s)
      if nodeId s = 0xFFFF then portSettled port s else s
    else portSettled port (setPort port .down s))

/-- Where R241 wires a port of member i in a set of n ports, for a group of m members: the peer's member number and its port of
the same set. -/
def wiredTo (m i n q : Nat) : Option (Nat × Nat) :=
  if m < 2 then none
  else
    let r := q % (m - 1)
    if q < n / (m - 1) * (m - 1) then some ((i + 1 + r) % m, (m - 2 - r) + (m - 1) * (q / (m - 1))) else none

/-- The peer that R241 or R243 gives a port of this wafer: node and port; none where they leave the port unused, or where it is
a global port of a span of several groups. -/
def wiredPeer (s : State) (port : Nat) : Option (Nat × Nat) :=
  let m := s.fabric.groupSize
  let own := nodeId s
  let at' := fun (base : Nat) (e : Nat × Nat) => (own / 32 * 32 + e.1, base + e.2)
  if port < 31 then (wiredTo m (own % 32) 31 port).map (at' 0)
  else if s.fabric.groupCount = 1 then (wiredTo m (own % 32) 33 (port - 31)).map (at' 31)
  else none

/-- The peer satisfies R241, R243 or R244: the wired member, a wafer of another group on a global port, or the host adapter
registered for a port that the wiring leaves free. A wafer of group size 1 takes only host adapters. -/
def peerAllowed (s : State) (port : Nat) (d : Discovery) : Bool :=
  if d.host || d.node ≥ 12288 then
    d.node ≥ 12288 && setting s 0x2618 (port + 1) == d.node && (wiredPeer s port).isNone
  else if s.fabric.groupSize < 2 then false
  else if isGlobal s port then
    31 ≤ d.port && d.port < 64 && groupOf d.node != groupOf (nodeId s) && groupOf d.node < s.fabric.groupCount
  else wiredPeer s port == some (d.node, d.port)

/-- The longest propagation delay of a cable class, ns (R253). -/
def classDelay (cls : Nat) : Nat :=
  match cls with
  | 0 => 15
  | 1 => 100
  | _ => 300

/-- What a port learns from DISCOVERY (R274). -/
def learnPeer (port : Nat) (d : Discovery) (s : State) : State :=
  modPort port (fun p => { p with
    delay := d.delay
    peer := BitVec.ofNat 32 ((if d.host || d.node ≥ 12288 then 2 ^ 31 else 0) + d.node % 16384 * 65536 + d.port % 64) }) s

/-- A port's link comes up, with event 0x201 (R240, R273). -/
def linkUp (port : Nat) (s : State) : State :=
  let before := s
  let s := raise (evPort 0x201 0 port 0) (setPort port .up s)
  match linkGroup s port with
  | some g => notePair g before s
  | none => s

/-- FABRIC_REPLY with a status and the figures of a port (R272). -/
def fabricReply (node domain : Nat) (tag : BitVec 16) (status : Nat) (body : List Byte) (s : State) : State :=
  sendPkt node domain 0x6F (leBytes 2 tag.toNat ++ [BitVec.ofNat 8 status, 0] ++ body) s

/-- A refused link command: status 2, and nothing changes (R272). -/
def fabricRefused (node domain : Nat) (tag : BitVec 16) (s : State) : State :=
  fabricReply node domain tag 2 (List.replicate 28 0) s

/-- DISCOVERY (R240, R254, R273): the port comes up, or is refused with event 0x202 or 0x203. -/
def execDiscovery (port : Nat) (d : Discovery) (s : State) : Out :=
  .next (
    if (getPort s port).st = .up then fabricRefused d.node (mgmtDomain s) 0 s
    else if (getPort s port).st ≠ .discovery then s
    else
      let s := learnPeer port d s
      let cls := setting s 0x2612 (port + 1)
      if nodeId s = 0xFFFF then s
      else if !peerAllowed s port d then
        portSettled port (raise (evPort 0x202 2 port 0) (setPort port .refused s))
      else if d.delay > classDelay cls ∨ (cls = 2 ∧ port < 31) then
        portSettled port (raise (evPort 0x203 2 port d.delay) (setPort port .refused s))
      else portSettled port (linkUp port s))

/-- RETRAIN_INTERVAL (R240): an enabled port that is down trains again. -/
def execRetrainInterval (port : Nat) (s : State) : Out :=
  .next (if (getPort s port).st = .down then portTrain port s else s)

/-! ## The link (R250, R251, R264) -/

/-- A port replays every packet that the peer has not acknowledged. A replay that the one before has not completed counts as
failed; the eighth within 10 µs takes the link down (R264). -/
def replayPort (port : Nat) (s : State) : State :=
  let p := getPort s port
  match p.replay.getLast? with
  | none => s
  | some z =>
    let failed := match p.replayTo with
      | some q => p.replay.any (fun w => w.hopSeq == q)
      | none => false
    let fails := if failed then (p.fails ++ [now s]).filter (fun t => now s ≤ t + 10 * usT) else p.fails
    let s := modPort port (fun p => { p with fails := fails, replays := sat32 (p.replays + 1), replayTo := some z.hopSeq }) s
    if fails.length ≥ 8 then linkDown port s
    else { s with fabric := { s.fabric with wire := s.fabric.wire ++ p.replay.map (fun w => (port, w)) } }

/-- The packets of a replay buffer after the one that is acknowledged; all, where none is. -/
def afterAck (ack : BitVec 16) (ws : List WirePkt) : List WirePkt :=
  if ws.any (fun w => w.hopSeq == ack) then (ws.dropWhile (fun w => w.hopSeq != ack)).drop 1 else ws

/-- LINK_STATUS_BLOCK (R250, R253, R264). -/
def execLinkStatusBlock (port : Nat) (nak : Bool) (ack : BitVec 16) (off : BitVec 4) (s : State) : Out :=
  .next (
    if !portUp s port then s
    else
      let s := modPort port (fun p =>
        let rest := afterAck ack p.replay
        { p with replay := rest, peerOff := off
                 replayTo := p.replayTo.bind (fun q => if rest.any (fun w => w.hopSeq == q) then some q else none) }) s
      let s := if nak then replayPort port s else s
      refreshOff (drainPort port s))

/-- LINK_STATUS_SEND (R250). -/
def execLinkStatusSend (port : Nat) (s : State) : Out := .next (sendBlock port false s)

/-- REPLAY_TIMEOUT (R264). -/
def execReplayTimeout (port : Nat) (s : State) : Out := .next (if portUp s port then replayPort port s else s)

/-- A command with a reserved opcode, or one that only devices send, is an error, answered with the reply of its chapter (R171, R235,
R272, R292, R414). -/
def refuseOpcode (p : Pkt) (h : Hdr) (op : Nat) (s : State) : State :=
  if op < 0x20 then answerMem 2 p.node p.domain h.tag 4 0 0 [] (memFails 4 p.node p.domain none s)
  else if op < 0x40 then replyRun p h 2 0 0 s
  else if op < 0x50 then replySync p h 2 0 0 0 0 s
  else if op < 0x60 then mgmtReply p h 2 0 0 0 0 0 [] s
  else fabricRefused p.node p.domain h.tag s

/-- The replies and notices that devices send and that no host may (R171, R235, R272, R414). -/
def deviceOnly (op : Nat) : Bool := [0x3E, 0x3F, 0x4E, 0x4F, 0x5D, 0x5E, 0x5F, 0x6F].contains op

/-- RESERVED_UNIT (R251): a unit of reserved class or with hop count 8, and a packet whose opcode belongs to no chapter, are discarded
with event 0x204; an opcode that a chapter reserves is refused by that chapter. -/
def execReservedUnit (u : ReservedUnit) (s : State) : Out :=
  .next (
    match u with
    | .unit port hop good => linkTake port houseAccount 64 hop good (raise (evPort 0x204 1 port 0)) s
    | .command p h op =>
      if op = 0 ∨ op ≥ 0x70 then linkTake p.port houseAccount 64 p.hop p.good (raise (evPort 0x204 1 p.port 0)) s
      else
        ingress p (.reservedUnit u) (fun s => if p.node < 12288 ∧ deviceOnly op then s else refuseOpcode p h op s) s)

/-! ## Transit and the escape route (R255 to R257) -/

/-- The paths by which a packet in transit may go on (R255): one on a non-minimal path that is still in its source's group first
crosses to a candidate group, by a global port where this wafer has one; any other goes minimally. -/
def transitPaths (s : State) (src seq w : Nat) (nonMin : Bool) : List (Nat × Nat × Bool) :=
  let far := if nonMin ∧ groupOf src = groupOf (nodeId s) then farPaths s src seq else []
  let global := far.filter (fun p => p.2.1 == 4)
  if !global.isEmpty then global else if !far.isEmpty then far else nearPaths s w

/-- The port by which a packet in transit goes on, by the score (R255). -/
def transitPort (s : State) (src seq dst : Nat) (nonMin : Bool) : Option Nat :=
  match boundFor s dst with
  | none => none
  | some (w, host) =>
    if w = nodeId s then host.bind (fun i => if portUp s i then some i else none)
    else (bestPath s (transitPaths s src seq w nonMin)).map Prod.fst

/-- A packet in transit as it goes on: bytes 0 to 11 and the ciphertext as the source fixed them (R247, R267). -/
def passPacket (port : Nat) (x : TransitPkt) : WirePkt :=
  { pkt := { dst := x.dst, domain := x.domain, opcode := x.opcode, compressed := x.compressed }, src := x.src, slot := x.slot
    seq := x.seq, vc := x.vc, hops := x.hops + 1, nonMin := x.nonMin, size := if x.vc % 2 = 1 then 64 * ((36 + x.len + 63) / 64) else 64
    len := x.len, body := x.body, heldAt := some (port, x.vc) }

/-- TRANSIT_PACKET (R246, R251, R255): forwarded without a domain check, or discarded at hop count 8. -/
def execTransitPacket (port dst src domain : Nat) (seq : BitVec 16) (vc hops : Nat) (nonMin : Bool) (x : TransitRest) (s : State) : Out :=
  .next (
    let x : TransitPkt := { x with dst := dst, src := src, domain := domain, seq := seq, vc := vc, hops := hops, nonMin := nonMin }
    if x.dst = nodeId s then s
    else
      let w := passPacket port x
      linkTake port houseAccount w.size x.hop x.good (fun s =>
        if x.hops ≥ 8 then raise (evPort 0x204 1 port x.hops) s
        else
          match (if x.vc ≥ 2 then escapePort s x.dst else transitPort s x.src x.seq.toNat x.dst x.nonMin) with
          | none => s
          | some i => refreshOff (putOnPort i w s)) s)

/-- ESCAPE_TIMEOUT (R257): a packet of a base channel that waits too long takes the escape channel of its class and the escape
route. -/
def execEscapeTimeout (port : Nat) (hopSeq : BitVec 16) (s : State) : Out :=
  .next (
    let p := getPort s port
    let n := (hopSeq - p.txSeq).toNat
    match p.queue[n]? with
    | none => s
    | some w =>
      if w.vc ≥ 2 then s
      else
        match escapePort s w.pkt.dst with
        | none => s
        | some i =>
          let s := modPort port (fun p => { p with queue := p.queue.eraseIdx n, escapes := sat32 (p.escapes + 1) }) s
          let s := if w.src = nodeId s ∧ !unsequencedOp w.pkt.opcode then leftBy i w.pkt.dst w.pkt.domain w.seq s else s
          refreshOff (putOnPort i { w with vc := w.vc + 2 } s))

/-! ## Flows (R258 to R263, R269, R270) -/

/-- The oldest waiting packet of a flow is refused at its source: its domain has no send key (R269). -/
def refuseWaiting (dst domain : Nat) (q : Packet) (s : State) : State :=
  let s := modTx dst domain (fun f => { f with waiting := f.waiting.drop 1 }) s
  let s := { s with fabric := { s.fabric with refusedAtSource := s.fabric.refusedAtSource + 1, failedPkts := s.fabric.failedPkts + 1 } }
  let s := raise ⟨0x207, 2, 7, q.part.getD 0xFF, 0xFFFF, 0xFFFF, 0xFF, q.domain, q.dst, 0, false⟩ s
  let s := memLost q false s
  match q.part with
  | some p => advanceReset p (modPart p (fun a => { a with reset := a.reset.map (fun r => { r with failed := r.failed + 1 }) }) s)
  | none => s

/-- A packet leaves its source by a port, sealed, as the flow's next number: a credit and a record are taken and a copy is kept
(R258, R259, R267). -/
def launchPacket (dst domain : Nat) (q : Packet) (slot gen i : Nat) (nm : Bool) (s : State) : State :=
  let n := (getTx s dst domain).next
  let size := wireBytes q.data.length
  let w := sealPkt (slotKey s domain slot) n false
    { pkt := q, src := nodeId s, slot := slot, gen := gen, seq := BitVec.ofNat 16 n, vc := if size = 64 then 0 else 1, hops := 1
      nonMin := nm, size := size, len := q.data.length }
  let s := modTx dst domain (fun f =>
    { f with next := n + 1, credits := f.credits - 1, waiting := f.waiting.drop 1
             out := f.out ++ [{ seq := n, wire := w, port := i, last := i }] }) s
  let s := modPort i (fun p => { p with outstanding := p.outstanding + 1 }) s
  noteTraffic q.domain (putOnPort i w s)

/-- PACKET_SEND (R258, R259, R269): the oldest waiting packet leaves once its flow holds a credit, no key change is in progress, a
path is live and the port has a record free. -/
def execPacketSend (dst domain : Nat) (s : State) : Out :=
  .next (
    let f := getTx s dst domain
    match f.waiting.head? with
    | none => s
    | some q =>
      match sendSlot s domain with
      | none => refuseWaiting dst domain q s
      | some (slot, gen) =>
        if f.credits = 0 || (getSlots s domain).draining then s
        else if f.next ≥ seqLimit then
          if f.exhaustedNoted then s
          else raise (evPortPkt s 0x209 1 0xFF domain dst f.next) (modTx dst domain (fun f => { f with exhaustedNoted := true }) s)
        else
          match choosePath s (nodeId s) f.next dst with
          | none => s
          | some (i, nm) => if (getPort s i).outstanding ≥ 4096 then s else launchPacket dst domain q slot gen i nm s)

/-- The control counter of an unsequenced packet is accepted (R258). -/
def noteControl (p : Pkt) (s : State) : State :=
  { s with fabric := { s.fabric with ctl := amMod s.fabric.ctl (flowKey p.node p.domain) {} (fun c =>
      { c with accepted := max c.accepted (extendSeq c.accepted p.seq) }) } }

/-- An E2E_ACK, SKIP or SKIP_ANSWER arrives: acted on at once where it is authentic (R260, R269). -/
def unsequenced (p : Pkt) (act : State → State) (s : State) : State :=
  linkTake p.port (domainAccount s p.domain) 64 p.hop p.good (fun s =>
    if authentic s p (amGet s.fabric.ctl (flowKey p.node p.domain) {}).accepted then act (noteControl p s)
    else raise (evPortPkt s 0x205 1 p.port p.domain p.node 0) s) s

/-- The outstanding packet of a flow that a 16-bit number names (R258). -/
def outstandingAt (s : State) (dst domain : Nat) (q : BitVec 16) : Option Outst :=
  (getTx s dst domain).out.find? (fun o => BitVec.ofNat 16 o.seq == q)

/-- A packet is resolved, and flows that wait for the last one of a key restart (R259, R378). -/
def resolveSeq (dst domain : Nat) (q : BitVec 16) (how : Resolved) (s : State) : State :=
  match outstandingAt s dst domain q with
  | some o => restartFlows domain (resolvePkt dst domain o.seq how s)
  | none => s

/-- A host's E2E_ACK or SKIP_ANSWER that names no outstanding packet of the flow is refused (R272); a host endpoint's answer about
a packet that it was sent acts (R259-R263). -/
def hostStray (p : Pkt) (qs : List (BitVec 16)) (s : State) : Bool :=
  decide (12288 ≤ p.node) && !qs.any (fun q => (outstandingAt s p.node p.domain q).isSome)

/-- E2E_ACK (R259, R261, R270). -/
def execE2eAck (p : Pkt) (base : BitVec 16) (delivered refused : BitVec 32) (s : State) : Out :=
  .next (unsequenced p (fun s =>
    if hostStray p ((List.range 32).map (fun i => base + BitVec.ofNat 16 i)) s then
      fabricRefused p.node p.domain (refused.setWidth 16) s
    else (List.range 32).foldl (fun s i =>
      let q := base + BitVec.ofNat 16 i
      if delivered.getLsbD i then resolveSeq p.node p.domain q .delivered s
      else if refused.getLsbD i then resolveSeq p.node p.domain q .refused s
      else s) s) s)

/-- SKIP for an outstanding packet (R262). -/
def sendSkip (dst domain : Nat) (o : Outst) (s : State) : State :=
  sendUnseq dst domain 0x61 (leBytes 2 (o.seq % 65536) ++ List.replicate 30 0) (o.wire.slot, o.wire.gen) s

/-- RETRANSMIT_TIMEOUT (R261, R262): the packet is sent again unchanged, or, after the limit, a SKIP. -/
def execRetransmitTimeout (dst domain seq : Nat) (s : State) : Out :=
  .next (
    match (getTx s dst domain).out.find? (fun o => o.seq == seq) with
    | none => s
    | some o =>
      let mark := fun (g : Outst → Outst) =>
        modTx dst domain (fun f => { f with out := f.out.map (fun x => if x.seq = seq then g x else x) }) s
      if o.skipping ∨ o.tries ≥ setting s 0x2600 6 then
        sendSkip dst domain o (mark (fun x => { x with skipping := true }))
      else resend o (mark (fun x => { x with tries := x.tries + 1 })))

/-- SKIP_ANSWER for a number (R262). -/
def answerSkip (p : Pkt) (q : BitVec 16) (status : Nat) (s : State) : State :=
  sendUnseq p.node p.domain 0x62 (leBytes 2 q.toNat ++ [BitVec.ofNat 8 status] ++ List.replicate 29 0) (p.slot, p.gen) s

/-- What the destination answers to a SKIP, and what it keeps: a number that it has passed on is delivered or refused, any other is
closed from now on and the packets behind it are released (R260, R262). -/
def skipped (p : Pkt) (q : BitVec 16) (s : State) : State :=
  if p.gen < (getRx s p.node p.domain).gen then s
  else
    let s := restartRx p s
    let rx := getRx s p.node p.domain
    let n := extendSeq rx.next q
    if rx.closed.contains n then answerSkip p q 1 s
    else if n < rx.next then answerSkip p q (if rx.refusedSeqs.contains n then 2 else 0) s
    else
      advanceAll p.node p.domain
        (answerSkip p q 1 (modRx p.node p.domain (fun r =>
          { r with closed := r.closed ++ [n], held := r.held.filter (fun h => h.1 != n) }) s))

/-- SKIP (R262, R269): without a key for the domain the answer is "no key" in clear. -/
def execSkipQuery (p : Pkt) (seq : BitVec 16) (s : State) : Out :=
  .next (
    if !hasKey s p.domain then
      linkTake p.port houseAccount 64 p.hop p.good
        (sendUnseq p.node p.domain 0x62 (leBytes 2 seq.toNat ++ [3] ++ List.replicate 29 0) (0, 0)) s
    else unsequenced p (skipped p seq) s)

/-- A SKIP_ANSWER's effect on the packet that waits for it (R262, R263): status 0 delivered, 1 closed, 2 refused, 3 no key. -/
def skipResolved (p : Pkt) (q : BitVec 16) (status : Nat) (s : State) : State :=
  match outstandingAt s p.node p.domain q with
  | none => s
  | some o =>
    if !o.skipping ∨ status > 3 then s
    else if status = 0 then resolveSeq p.node p.domain q .delivered s
    else if status = 2 then resolveSeq p.node p.domain q .refused s
    else
      resolveSeq p.node p.domain q .failed (raise (evPortPkt s 0x208 1 o.port p.domain p.node status) s)

/-- SKIP_ANSWER (R262, R269): the answer "no key" is the only one taken without a tag. -/
def execSkipAnswer (p : Pkt) (seq : BitVec 16) (status : Nat) (clear : Bool) (s : State) : Out :=
  .next (
    if clear && status == 3 then
      linkTake p.port houseAccount 64 p.hop p.good (skipResolved p seq status) s
    else unsequenced p (fun s => if hostStray p [seq] s then fabricRefused p.node p.domain 0 s else skipResolved p seq status s) s)

/-! ## Link and maintenance commands (R242, R272) -/

/-- The figures of a port: a tenant gets only its state and peer (R272). -/
def portFigures (s : State) (domain port : Nat) : List Byte :=
  let p := getPort s port
  let v := p.peer.toNat
  let peer := if v = 0xFFFFFFFF then leBytes 2 0xFFFF ++ [0xFF] else leBytes 2 (bitsOf v 29 16) ++ [BitVec.ofNat 8 (bitsOf v 5 0)]
  [BitVec.ofNat 8 (portCode p.st), 0] ++ peer ++
  (if domain = mgmtDomain s then [BitVec.ofNat 8 (setting s 0x2612 (port + 1))] ++ leBytes 2 p.delay ++ leBytes 4 p.replays
   else List.replicate 7 0) ++ List.replicate 16 0

/-- A member's notice about one of its ports enters the group table (R242). -/
def takeNotice (p : Pkt) (port state peerNode : Nat) (s : State) : State :=
  if groupOf p.node ≠ groupOf (nodeId s) ∨ p.node = nodeId s then s
  else
    let key := p.node % 32 * 64 + port
    let old := (amFind s.fabric.linkNotices key).map Prod.snd
    let t := { s with fabric := { s.fabric with linkNotices := amSet s.fabric.linkNotices key (state, peerNode) } }
    let gs := ((old.toList ++ [peerNode]).filter (· < 12288)).map groupOf
    gs.eraseDups.foldl (fun t g => notePair g s t) t

/-- LINK_STATE (R242, R272). -/
def execLinkState (p : Pkt) (port state peerNode peerPort : Nat) (s : State) : Out :=
  .next (ingress p (.linkState p port state peerNode peerPort) (fun s =>
    if p.node ≥ 12288 then fabricRefused p.node p.domain 0 s else takeNotice p port state peerNode s) s)

/-- PORT_QUERY (R272). -/
def execPortQuery (p : Pkt) (h : Hdr) (port : Nat) (s : State) : Out :=
  .next (ingress p (.portQuery p h port) (fun s =>
    if port > 63 then fabricRefused p.node p.domain h.tag s else fabricReply p.node p.domain h.tag 0 (portFigures s p.domain port) s) s)

/-- PORT_CONTROL (R272, R385, R386): the permit's status decides, and its effect is the port's action. -/
def execPortControl (p : Pkt) (h : Hdr) (port action : Nat) (permit : List Byte) (s : State) : Out :=
  .next (ingress p (.portControl p h port action permit) (fun s =>
    let (st, s) := checkPermit (some (0x2619, port + 1, action)) permit s
    if st = 0 then fabricReply p.node p.domain h.tag 0 (portFigures s p.domain port) s else fabricRefused p.node p.domain h.tag s) s)

/-- ECHO (R272). -/
def execEchoCmd (p : Pkt) (h : Hdr) (data : List Byte) (s : State) : Out :=
  .next (ingress p (.echoCmd p h data) (fabricReply p.node p.domain h.tag 0 (slice data 0 24 ++ List.replicate 4 0)) s)

end Sys2Proof.Machine
end

