-- ==== Sys2Proof/Machine/FirmwareFam.lean ====
section
/-!
DEFINITION. The commands of the controllers' firmware and of the settings save (R387 to R389, R424, R427).
-/

namespace Sys2Proof.Machine

/-- A controller runs a slot (R388). -/
def bootSlot (c : Ctl) (b : Bool) (s : State) : State :=
  let s := modCtl c (fun k => { k with runningB := some b, booted := true }) s
  let sb := if (s.settings.trial.map Prod.fst) = some c then StandbyState.trial else .booting
  if s.lease.owner.isSome ∧ s.lease.owner ≠ some c then { s with lease := { s.lease with standby := sb } } else s

/-- CONTROLLER_BOOT (R388, R389): the preferred slot, or the other with event 0x312 by the other controller; a trial that cannot
boot is reverted. Before step 4 of the power-up no controller boots (R3, R428). -/
def execControllerBoot (c : Ctl) (s : State) : Out :=
  .next (
    let k := getCtl c s
    let failed := fun (s : State) => raise (evCtl 0x312 1 (otherCtl c) 0) s
    if k.booted || (s.pilot.step < 4 && !linkWait s) then s
    else if (s.settings.trial.map Prod.fst) == some c then
      let b := k.runningB.getD false
      if bootable k b then bootSlot c b s
      else
        let s := revertTrial s
        if bootable k (!b) then bootSlot c (!b) s else failed s
    else
      let b := k.prefB
      if bootable k b then bootSlot c b s
      else if bootable k (!b) then bootSlot c (!b) (failed s)
      else failed (modCtl c (fun k => { k with runningB := none }) s))

/-- IMAGE_TARGET (R427): a write of 0x2920:01. -/
def execImageTarget (via : Via) (value : Nat) (s : State) : Out := .next (viaNum (.imageTarget via value) via 0x2920 1 1 value s)

/-- IMAGE_CHUNK (R427): a write of 0x2920:03. -/
def execImageChunk (via : Via) (bytes : List Byte) (s : State) : Out :=
  .next (viaWrite (.imageChunk via bytes) via 0x2920 3 bytes s)

/-- IMAGE_VERIFY (R389). -/
def execImageVerify (s : State) : Out := .next (verifyImage s)

/-- START_TRIAL (R389, R427): a write of 0x2920:05. -/
def execStartTrial (via : Via) (value : Nat) (s : State) : Out := .next (viaNum (.startTrial via value) via 0x2920 5 1 value s)

/-- CONFIRM_TRIAL (R389, R427): a write of 0x2920:06. -/
def execConfirmTrial (via : Via) (value : Nat) (s : State) : Out := .next (viaNum (.confirmTrial via value) via 0x2920 6 1 value s)

/-- TRIAL_TIMEOUT (R389): 600 s have passed without a confirmation. -/
def execTrialTimeout (s : State) : Out :=
  .next (
    match s.settings.trial with
    | some (_, t) => revertTrial (advanceTo t s)
    | none => s)

/-- SAVE_COMPLETE (R424). -/
def execSaveComplete (good : Bool) (s : State) : Out := .next (endSave good s)

end Sys2Proof.Machine
end

