-- ==== Sys2Proof/Machine/MemFam.lean ====
section
/-!
DEFINITION. The commands of the one memory space: memory commands of the fabric, translation, memory packets of the mesh, and
descriptors (R211, R275 to R292).
-/

namespace Sys2Proof.Machine

/-! ## Memory commands (R282, R292) -/

/-- LOAD (R282, R292). -/
def execMemLoad (p : Pkt) (m : MemCmd) (s : State) : Out := .next (ingress p (.memLoad p m) (startCmd 1 p m []) s)

/-- STORE (R266, R282, R292). -/
def execMemStore (p : Pkt) (m : MemCmd) (data : List Byte) (s : State) : Out :=
  .next (ingress p (.memStore p m data) (startCmd 2 p m data) s)

/-- ATOMIC_ADD (R282, R283). -/
def execAtomicAdd (p : Pkt) (m : MemCmd) (s : State) : Out := .next (ingress p (.atomicAdd p m) (startCmd 3 p m []) s)

/-- ATOMIC_MAX (R282, R283). -/
def execAtomicMax (p : Pkt) (m : MemCmd) (s : State) : Out := .next (ingress p (.atomicMax p m) (startCmd 4 p m []) s)

/-- ATOMIC_CAS (R282, R283). -/
def execAtomicCas (p : Pkt) (m : MemCmd) (s : State) : Out := .next (ingress p (.atomicCas p m) (startCmd 5 p m []) s)

/-- BULK_COPY (R282, R286, R287). -/
def execBulkCopy (p : Pkt) (m : MemCmd) (s : State) : Out := .next (ingress p (.bulkCopy p m) (startBulk p m) s)

/-! ## Translation (R278 to R280) -/

/-- TRANSLATION_FILL (R278, R280, R281): the span-map entry fills the cache, and every operation that waits in this cache is checked
and sent on where all its positions are now cached. An entry of an older generation than the map's is discarded and fetched again. -/
def execTranslationFill (cache : Nat) (fill : SpanFill) (s : State) : Out :=
  .next (
    if waitsFor s cache fill.pos ∧ spanGenOf s fill.pos % 2 ^ 32 ≤ fill.gen then
      let ids := (s.fabric.ops.filter (fun e => e.2.cache == cache)).map Prod.fst
      ids.foldl (fun s id => tryOp false id s) (cacheFill cache fill.pos (spanEntry s fill.pos) s)
    else s)

/-- AGE_TICK (R279). -/
def execAgeTick (s : State) : Out := .next (ageCaches s)

/-- INVALIDATION_COMPLETE (R280). -/
def execInvalidationComplete (s : State) : Out := .next (invalidateDone s)

/-! ## Memory packets of the mesh (R289, R290) -/

/-- A memory cell's operation reaches the ring switch by its exit attachment (R289). -/
def ringRequest (h : Head) (m : MemReq) (s : State) : State :=
  let k := siteKey h.src.x h.src.y
  startOp { op := m.op, issuer := .cell h.src.x h.src.y m.reqId h.domain, domain := h.domain, remote := false, cache := exitCache s k
            v := m.v, s := m.s, size := m.size, ty := m.ty, reqNode := nodeId s
            len := if m.op ≤ 2 then m.len else atomicBytes m.size, data := m.data } m.addr false s

/-- FAIL_NOTICE for a memory packet to the cell that issued the request (R180, R204). -/
def sendNotice (src dst : CellRef) (domain reqId reason lost : Nat) (s : State) : State :=
  send ⟨⟨src, dst, 4, domain, BitVec.ofNat 16 reqId⟩, false, 10, [BitVec.ofNat 8 reason, BitVec.ofNat 8 lost, 0, 0, 0, 0, 0, 0]⟩ s

/-- MEM_REQ (R180, R282, R289): at the ring the operation starts; at a home it is performed, and one that is not delivered is
answered with FAIL_NOTICE reason 3 or 4. -/
def execMemReq (h : Head) (m : MemReq) (s : State) : Out :=
  .next (
    let s := crossed h false 3 s
    if !dstIsTile h then ringRequest h m s
    else if delivers s h then homeTake h m s
    else
      let reason := if refuseCode s h = 0x113 then 3 else 4
      sendNotice h.dst h.src h.domain m.reqId reason 3 (raise (refuseEvent s h) s))

/-- A reply from another node: one of a host is not accepted, nor any in the management domain (R246, R292). -/
def fabricReplyIn (p : Pkt) (m : MemRep) (s : State) : State :=
  if p.node ≥ 12288 ∨ p.domain = mgmtDomain s then answerMem 2 p.node p.domain (BitVec.ofNat 16 m.reqId) 4 0 0 [] s
  else passedReply p.node p.domain m s

/-- MEM_REPLY, and LOAD_DATA over the fabric (R287, R289, R290, R292). -/
def execMemReply (via : RepVia) (m : MemRep) (s : State) : Out :=
  .next (
    match via with
    | .fabric p => ingress p (.memReply via m) (fabricReplyIn p m) s
    | .mesh h =>
      if dstIsTile h then arriveData h 4 (cellReply (dstSite h) m) s else ringReply m (crossed h false 4 s))

/-! ## Descriptors (R211, R212) -/

/-- DESCRIPTOR (R211, R212, R288): a tuple at a memory cell's service port. -/
def execDescriptor (h : Head) (w0 w1 w2 w3 : Word32) (s : State) : Out :=
  .next (arriveCtl h 3 (postDesc (dstSite h) (readDesc w0 w1 w2 w3)) s)

end Sys2Proof.Machine
end

