-- ==== Sys2Proof/Machine/Mesh.lean ====
section
/-!
DEFINITION. The routers: virtual channels, input buffers, flow control, grants, and combining in output queues (R174 to R178, R185 to
R188, R200 to R202, R204).
-/

namespace Sys2Proof.Machine

/-! ## Channels and buffers (R176, R177) -/

/-- A packet of class P: memory replies, multicast acknowledgements and failure notices (R176, R179). -/
def classP (m : MeshMsg) : Bool := !m.control && [4, 9, 10].contains m.kind

/-- Two messages lie in the same input buffer: router, input, network, class and channel (R176). -/
def sameBuffer (v w : Moving) : Bool :=
  v.site == w.site && v.port == w.port && v.msg.control == w.msg.control && classP v.msg == classP w.msg && v.detour == w.detour

/-- Places of an input buffer, and the free places at which it signals off: inside a field 8 and 2, at a ridge crossing 16 and 6
(R177). -/
def bufferShape (ridge : Bool) : Nat × Nat := if ridge then (16, 6) else (8, 2)

/-- The input lies across a ridge from the router before it (R24, R177). -/
def overRidge (k port : Nat) : Bool :=
  port < 4 && (match neighbour k port with
    | some n => fieldOf n != fieldOf k
    | none => false)

/-- An input buffer takes a message: it signals on, and the message fits; an empty one takes any (R177). -/
def takesIn (s : State) (v : Moving) : Bool :=
  let used := ((s.mesh.transit.filter (sameBuffer v)).map (fun w => msgUnits w.msg)).sum
  let (places, off) := bufferShape (overRidge v.site v.port)
  used == 0 || (places - used > off && msgUnits v.msg ≤ places - used)

/-! ## Routing (R185, R186, R188, R194) -/

/-- Where a message goes next: the output, and the channel and dimension order that it then has; none where it has reached its goal.
A router whose neighbour is absent sidesteps by the entry that it holds (R186, R188). -/
def nextOut (s : State) (v : Moving) : Option (Nat × Bool × Bool) :=
  match nextDir v.yFirst v.site (goalOf s v.msg) with
  | none => none
  | some d =>
    match heldEntry s v.site d with
    | some e => some (e, true, d == 0 || d == 2)
    | none => some (d, v.detour, v.yFirst)

/-- A message as the next router would hold it; none at the wafer's edge and where that router is off (R204). -/
def atNext (s : State) (v : Moving) : Option Moving :=
  match nextOut s v with
  | none => none
  | some (d, detour, yFirst) =>
    match neighbour v.site d with
    | none => none
    | some n => if routerGone s n then none else some { msg := v.msg, site := n, port := opposite d, detour := detour, yFirst := yFirst }

/-! ## Combining (R201, R202) -/

/-- The output queue that a message waits in: output, and the channel that it leaves by. -/
def outQueue (s : State) (v : Moving) : Option (Nat × Bool) := (nextOut s v).map (fun o => (o.1, o.2.1))

/-- Two contributions that wait in the same output queue are combined: the same destination, target, tag, domain, format and element
count, neither deterministic, and a count of at most 65,535 (R200, R201). -/
def combines (s : State) (v w : Moving) : Bool :=
  let a := v.msg
  let b := w.msg
  v.site == w.site && outQueue s v == outQueue s w && (outQueue s v).isSome && !a.control && !b.control && a.kind == 7 && b.kind == 7 &&
  a.head.dst == b.head.dst && a.head.target == b.head.target && a.head.tag == b.head.tag && a.head.domain == b.head.domain &&
  fieldAt a.body 4 1 == fieldAt b.body 4 1 && fieldAt a.body 6 2 == fieldAt b.body 6 2 &&
  fieldAt a.body 5 1 % 2 == 0 && fieldAt b.body 5 1 % 2 == 0 && fieldAt a.body 0 2 + fieldAt b.body 0 2 ≤ 65535

/-- The sum of two contributions, in the place of the first: contributor counts and elements are added (R201, R202). -/
def combineTwo (v w : Moving) : Moving :=
  let a := v.msg.body
  let b := w.msg.body
  let float := fieldAt a 4 1 == 0
  let es := (List.range (fieldAt a 6 2)).flatMap (fun i => leBytes 4 (addElem float (fieldAt a (8 + 4 * i) 4) (fieldAt b (8 + 4 * i) 4)))
  { v with msg := { v.msg with body := leBytes 2 (fieldAt a 0 2 + fieldAt b 0 2) ++ slice a 2 6 ++ es } }

/-- A message joins those before it: the first with which it combines takes it in (R201). -/
def joinQueue (s : State) (w : Moving) : List Moving → List Moving
  | [] => [w]
  | v :: r => if combines s v w then combineTwo v w :: r else v :: joinQueue s w r

/-- Every output queue combines what waits in it (R201). -/
def combineAll (s : State) : State :=
  { s with mesh := { s.mesh with transit := s.mesh.transit.foldl (fun vs w => joinQueue s w vs) [] } }

/-! ## One cycle (R176) -/

/-- The messages at the heads of the input buffers. -/
def bufferHeads : List Moving → List Moving
  | [] => []
  | v :: r => v :: (bufferHeads r).filter (fun w => !sameBuffer v w)

/-- An output of a router on one of the two networks: router, direction, control. -/
def outputOf (s : State) (v : Moving) : Option (Nat × Nat × Bool) := (nextOut s v).map (fun o => (v.site, o.1, v.msg.control))

/-- An output as one number, by class. -/
def grantKey (o : Nat × Nat × Bool) (p : Bool) : Nat := ((o.1 * 4 + o.2.1) * 2 + (if o.2.2 then 1 else 0)) * 2 + (if p then 1 else 0)

/-- An input of a router as one number: the port, and the base or the detour channel. -/
def inputNum (v : Moving) : Nat := v.port * 2 + (if v.detour then 1 else 0)

/-- Among messages of one class, the input whose turn it is: the first after the one granted last (R176). -/
def inTurn (last : Nat) (vs : List Moving) : Option Moving :=
  let after := fun (v : Moving) => (inputNum v + 18 - (last + 1) % 18) % 18
  vs.foldl (fun b v =>
    match b with
    | none => some v
    | some w => if after v < after w then some v else some w) none

/-- The message that an output grants: class P before class Q, and within a class the inputs in turn (R176). Only a message whose
next buffer takes it stands for the grant (R177). -/
def grantOutput (s : State) (heads : List Moving) (o : Nat × Nat × Bool) : Option Moving :=
  let ready := heads.filter (fun v => outputOf s v == some o && (match atNext s v with
    | some w => takesIn s w
    | none => false))
  let p := ready.filter (fun v => classP v.msg)
  if p.isEmpty then inTurn (amGet s.mesh.granted (grantKey o false) 17) ready
  else inTurn (amGet s.mesh.granted (grantKey o true) 17) p

/-- An output passes the message that it grants to the next router. -/
def passOutput (heads : List Moving) (s : State) (o : Nat × Nat × Bool) : State :=
  match grantOutput s heads o with
  | none => s
  | some v =>
    match atNext s v with
    | none => s
    | some w =>
      { s with mesh := { s.mesh with
          transit := s.mesh.transit.erase v ++ [w], granted := amSet s.mesh.granted (grantKey o (classP v.msg)) (inputNum v) } }

/-- The router and the input by which a message enters the mesh: its cell's local port, or the ring's (R174, R245). -/
def entering (s : State) (m : MeshMsg) : Moving :=
  { msg := m, site := (meshEnds s m.head).1, port := if m.head.src.x < 288 && m.head.src.y < 280 then 4 + m.head.src.slot % 4 else 8 }

/-- The oldest message of each local input enters its router, where the buffer takes it; the others wait at their cells. -/
def enterAll : List MeshMsg → List Moving → State → State
  | [], _, s => s
  | m :: r, seen, s =>
    let v := entering s m
    if seen.any (sameBuffer v) || routerGone s v.site || !takesIn s v then enterAll r (v :: seen) s
    else
      enterAll r (v :: seen)
        { s with mesh := { s.mesh with flight := s.mesh.flight.erase m, transit := s.mesh.transit ++ [v] } }

/-- One cycle of the mesh: waiting contributions combine, every output passes at most one message on, and cells put in theirs (R174,
R176, R177, R201). A message at its goal stays in its buffer until it is taken. A packet moves as a whole (log 115). -/
def meshCycle (s : State) : State :=
  if s.mesh.transit = [] ∧ s.mesh.flight = [] then s
  else
    let s := combineAll s
    let heads := bufferHeads s.mesh.transit
    let s := (heads.filterMap (outputOf s)).eraseDups.foldl (passOutput heads) s
    enterAll s.mesh.flight [] s

end Sys2Proof.Machine
end

