-- ==== Sys2Proof/Machine/Loader.lean ====
section
/-!
DEFINITION. The loader: the section image, its folds, its checks, and the section that it leaves resident (R119, R120, R142 to
R149, R466).
-/

namespace Sys2Proof.Machine

/-! ## The image (R142 to R144) -/

/-- A mapped tile of an image: position, record offset, configuration blocks, and how many tags a fold gives each compute cell. -/
structure ImgTile where
  u : Nat
  v : Nat
  off : Nat
  cc : List (List Word32)
  ag : List (List Word32)
  folded : AMap Nat
deriving DecidableEq, Repr

/-- An entry of the edge table (R143). -/
structure ImgEdge where
  pu : Nat
  pv : Nat
  ps : Nat
  pb : Nat
  cu : Nat
  cv : Nat
  cs : Nat
  cb : Nat
  tokens : Nat
deriving DecidableEq, Repr

/-- An entry of the carry table (R143). -/
structure ImgCarry where
  u : Nat
  v : Nat
  space : Nat
  slot : Nat
  addr : Nat
  len : Nat
deriving DecidableEq, Repr

/-- An entry of the fold table (R143): position, slot, and for each dimension whether B varies and its extent. -/
structure ImgFold where
  u : Nat
  v : Nat
  slot : Nat
  count : Nat
  dims : List (Bool × Nat)
deriving DecidableEq, Repr

/-- What the loader reads of an image. -/
structure Image where
  bytes : List Byte
  time : Nat
  energy : Nat
  base : Nat
  recLen : Nat
  tiles : List ImgTile
  edges : List ImgEdge
  counters : List (Nat × Nat)
  carries : List ImgCarry
  folds : List ImgFold
deriving DecidableEq, Repr

/-- Offset, entry count and entry size of each table that has an entry (R142, R143). -/
def imgTables (bs : List Byte) : List (Nat × Nat × Nat) :=
  [(fieldAt bs 44 4, fieldAt bs 28 4, 8), (fieldAt bs 48 4, fieldAt bs 32 4, 16), (fieldAt bs 52 4, fieldAt bs 38 2, 8),
   (fieldAt bs 56 4, fieldAt bs 40 2, 16), (fieldAt bs 60 4, fieldAt bs 42 2, 32)].filter (fun t => t.2.1 > 0)

/-- The byte offset of each entry of a table. -/
def entryOffs (off count size : Nat) : List Nat := (List.range count).map (fun i => off + i * size)

/-- n words of the image. -/
def imgWords (bs : List Byte) (off n : Nat) : List Word32 :=
  (List.range n).map (fun i => BitVec.ofNat 32 (fieldAt bs (off + 4 * i) 4))

/-- Reads a tile map entry and its record (R143, R144). -/
def readTile (bs : List Byte) (o : Nat) : ImgTile :=
  let off := fieldAt bs (o + 4) 4
  ⟨fieldAt bs o 2, fieldAt bs (o + 2) 2, off, (List.range 3).map (fun i => imgWords bs (off + 96 * i) 24),
   (List.range 4).map (fun g => imgWords bs (off + 288 + 64 * g) 16), []⟩

/-- Reads an edge (R143). -/
def readEdge (bs : List Byte) (o : Nat) : ImgEdge :=
  ⟨fieldAt bs o 2, fieldAt bs (o + 2) 2, fieldAt bs (o + 4) 1, fieldAt bs (o + 5) 1, fieldAt bs (o + 6) 2, fieldAt bs (o + 8) 2,
   fieldAt bs (o + 10) 1, fieldAt bs (o + 11) 1, fieldAt bs (o + 12) 4⟩

/-- Reads a carry entry (R143). -/
def readCarry (bs : List Byte) (o : Nat) : ImgCarry :=
  ⟨fieldAt bs o 2, fieldAt bs (o + 2) 2, fieldAt bs (o + 4) 1, fieldAt bs (o + 5) 1, fieldAt bs (o + 8) 4, fieldAt bs (o + 12) 4⟩

/-- Reads a fold entry (R143). -/
def readFold (bs : List Byte) (o : Nat) : ImgFold :=
  let n := fieldAt bs (o + 5) 1
  ⟨fieldAt bs o 2, fieldAt bs (o + 2) 2, fieldAt bs (o + 4) 1, n,
   (List.range (min n 6)).map (fun i => let w := fieldAt bs (o + 8 + 4 * i) 4; (bitAt w 31, w % 2 ^ 31))⟩

/-- The entries of the table whose offset and count stand at the header places given. -/
def imgEntries (bs : List Byte) (offAt countAt countBytes size : Nat) : List Nat :=
  entryOffs (fieldAt bs offAt 4) (fieldAt bs countAt countBytes) size

/-- Reads an image (R142 to R144). -/
def readImage (bs : List Byte) : Image :=
  { bytes := bs
    time := fieldAt bs 16 4
    energy := fieldAt bs 20 4
    base := fieldAt bs 24 4
    recLen := fieldAt bs 36 2
    tiles := (imgEntries bs 44 28 4 8).map (readTile bs)
    edges := (imgEntries bs 48 32 4 16).map (readEdge bs)
    counters := (imgEntries bs 52 38 2 8).map (fun o => (fieldAt bs o 2, fieldAt bs (o + 2) 2))
    carries := (imgEntries bs 56 40 2 16).map (readCarry bs)
    folds := (imgEntries bs 60 42 2 32).map (readFold bs) }

/-- Magic, version and reserved field (R142). -/
def headerBad (bs : List Byte) : Bool := fieldAt bs 0 4 != 0x5A575331 || fieldAt bs 4 2 != 1 || fieldAt bs 6 2 != 0

/-- Length of the constant tables of a record (R130, R144). -/
def constBytes (t : ImgTile) : Nat := (t.cc.map (fun c => if ccClass c = 0 then 0 else constLines c * 64)).sum

/-- The position (0xFFFF, 0xFFFF) means every mapped tile (R143). -/
def everyTile (u v : Nat) : Bool := u == 0xFFFF && v == 0xFFFF

/-- A mapped tile of an image. -/
def tileAt (ts : List ImgTile) (u v : Nat) : Option ImgTile := ts.find? (fun (t : ImgTile) => t.u == u && t.v == v)

/-- Two spans of bytes or lines overlap. -/
def spansMeet (a b : Nat × Nat) : Bool := a.1 < b.2 && b.1 < a.2

/-- No two spans of a list overlap. -/
def spansApart : List (Nat × Nat) → Bool
  | [] => true
  | a :: r => r.all (fun b => !spansMeet a b) && spansApart r

/-- Everything of code 0x02 that the header alone shows, for an image of n bytes (R142, R143). -/
def headerRange (bs : List Byte) (n : Nat) : Bool :=
  let base := fieldAt bs 24 4
  let rl := fieldAt bs 36 2
  let tc := fieldAt bs 28 4
  let crc := crc32c (bs.take 12 ++ [0, 0, 0, 0] ++ bs.drop 16)
  let ts := imgTables bs
  n ≥ 64 && n % 64 == 0 && fieldAt bs 8 4 == n && crc == fieldAt bs 12 4 && base % 256 == 0 && 1 ≤ tc && tc ≤ 80640 &&
  3 ≤ rl && rl ≤ 64 && fieldAt bs 38 2 ≤ 4096 && base + rl * 256 ≤ 2097152 &&
  ts.all (fun t => t.1 % 64 == 0 && 64 ≤ t.1 && t.1 + t.2.1 * t.2.2 ≤ n) &&
  spansApart (ts.map (fun t => (t.1, t.1 + t.2.1 * t.2.2)))

/-- A fold entry is well formed (R143). -/
def foldOk (ts : List ImgTile) (f : ImgFold) : Bool :=
  1 ≤ f.count && f.count ≤ 6 && f.dims.all (fun d => d.2 ≥ 1) && f.slot ≤ 2 && (everyTile f.u f.v || (tileAt ts f.u f.v).isSome)

/-- Everything of code 0x02 that the tables show: records within the image, no position mapped twice, folds well formed (R143). -/
def tablesOk (img : Image) : Bool :=
  img.tiles.all (fun t => t.off % 64 == 0 && t.off + 544 + constBytes t ≤ img.bytes.length) &&
  (img.tiles.map (fun t => (t.u, t.v))).eraseDups.length == img.tiles.length &&
  img.folds.all (foldOk img.tiles)

/-! ## Reading the image from the partition's memory (R149, R466) -/

/-- The pieces of an image's address in a partition: none where it does not lie in the partition's domain, on this wafer, at served
positions of the partition (R142, R149). -/
def imagePieces (s : State) (a : Part) (addr : Word64) (len : Nat) : Option (List Piece) :=
  let g := gAddr addr
  let ps := piecesOf g 0 len
  if g.domain = a.domain && g.node == nodeId s && gFits g len && ps.all (fun p => inPart a p.pos && served s p.pos) then some ps
  else none

/-- The key of a piece's first byte. -/
def pieceAt (s : State) (p : Piece) : Nat := placeKey (physical s p.pos) p.space p.offset

/-- The bytes of an image, if none meets an uncorrectable error. -/
def imageBytes (s : State) (ps : List Piece) : Option (List Byte) :=
  if ps.any (fun p => hasDouble s (pieceAt s p) p.len) then none
  else some (ps.flatMap (fun p => readBytes s (pieceAt s p) p.len))

/-- Reading an image corrects single errors, counts uncorrectable ones toward retirement, and costs accesses (R67, R320, R466). -/
def touchImage (ps : List Piece) (s : State) : State :=
  ps.foldl (fun s p =>
    let key := pieceAt s p
    let s := countAccess (physical s p.pos) p.space 1 (touchRead key p.len s)
    if hasDouble s key p.len then noteUncorrected (physical s p.pos) s else s) s

/-! ## Folds (R119, R120) -/

/-- Replaces word i of a block. -/
def setWord (cfg : List Word32) (i v : Nat) : List Word32 := cfg.set i (BitVec.ofNat 32 v)

/-- A loop word (R74). -/
def loopWord (count : Nat) (stride : Int) : Nat := (count - 1) * 2 ^ 22 + unsigned 22 stride

/-- The generator of a tile whose destination is port 0 of a compute cell (R73, R119). -/
def feeder (t : ImgTile) (slot : Nat) : Option Nat :=
  let base := (ccPort (t.cc.getD slot []) 0).base * 64
  (List.range 4).find? (fun g =>
    let w := t.ag.getD g []
    agEnable w && (agDst w).1 == 2 && (agDst w).2.1 == slot && (agDst w).2.2 == base)

/-- The loops of a folded generator: counts and strides, and which is the token loop (R119). -/
def foldLoops (mb T : Nat) (sp : Int) : List (Nat × Int) × Nat × Nat :=
  let rows := 16 * mb
  let c2 := if T > 1024 then (T + 1023) / 1024 else 1
  let c1 := (T + c2 - 1) / c2
  let low := if rows ≤ 1024 then [(rows, sp)] else [(16, sp), (mb, 16 * sp)]
  let tags := (c1, (rows : Int) * sp) :: (if c2 > 1 then [(c2, (c1 * rows : Nat) * sp)] else [])
  (low ++ tags, low.length, c1 * c2)

/-- A folded actor: a refusal code, or the tile with its feeding generator programmed and its tags (R119, R120). The new predicate has the
row limit of all folded rows and no column mask. DESIGN CHOICE (log 135): M_total is the product of the declared extents, the rows
within the innermost dimension being its extent. -/
def foldTile (f : ImgFold) (t : ImgTile) : Sum Nat ImgTile :=
  let cfg := t.cc.getD f.slot []
  let total := f.dims.foldl (fun a d => a * d.2) 1
  let mb := max 1 (ccMb cfg)
  let T := (total + 16 * mb - 1) / (16 * mb)
  if f.dims.any Prod.fst then .inl 0x29
  else if T > 65536 then .inl 0x2A
  else
    match feeder t f.slot with
    | none => .inr { t with folded := amSet t.folded f.slot T }
    | some g =>
      let w := t.ag.getD g []
      let sp := if agStride w 0 = 0 then (packedBytes (agFmt w) (agRun w) : Int) else agStride w 0
      let (loops, tl, tags) := foldLoops mb T sp
      if loops.any (fun l => l.2 < -2097152 || l.2 > 2097151) then .inl 0x2A
      else
        let w0 := cfgWord w 0
        let w := setWord w 0 (w0 - bitsOf w0 30 28 * 2 ^ 28 + (loops.length - 1) * 2 ^ 28)
        let w := (List.range 6).foldl (fun w i =>
          let l := loops.getD i (1, 0)
          setWord w (4 + i) (loopWord l.1 l.2)) w
        let w := setWord w 10 (6 * 2 ^ 29)
        let w := setWord w 12 (cfgWord w 12 / 2 ^ 16 * 2 ^ 16 + tl * 2 ^ 13)
        let w := setWord w 13 total
        .inr { t with ag := t.ag.set g w, folded := amSet t.folded f.slot tags }

/-- Applies every fold to the tiles that it names; a refused fold leaves its tile, and is reported with position, slot and code. -/
def applyFolds (img : Image) : List ImgTile × List (Nat × Nat × Nat × Nat) :=
  img.folds.foldl (fun (acc : List ImgTile × List (Nat × Nat × Nat × Nat)) f =>
    acc.1.foldl (fun (b : List ImgTile × List (Nat × Nat × Nat × Nat)) t =>
      if everyTile f.u f.v || (t.u == f.u && t.v == f.v) then
        match foldTile f t with
        | .inl code => (b.1 ++ [t], b.2 ++ [(t.u, t.v, f.slot, code)])
        | .inr t => (b.1 ++ [t], b.2)
      else (b.1 ++ [t], b.2)) ([], acc.2)) (img.tiles, [])

/-! ## Tokens per run (R147) -/

/-- The mode of the operand port that an inbound binding delivers, 0 where none does. -/
def bindMode (cfg : List Word32) (b : Nat) : Nat :=
  match portsOn cfg b with
  | i :: _ => (ccPort cfg i).mode
  | [] => 0

/-- Tags per run of a compute cell (R119, R147). -/
def tagsOf (ts : List ImgTile) (es : List ImgEdge) (u v slot : Nat) : Nat :=
  match tileAt ts u v with
  | none => 0
  | some t =>
    match amFind t.folded slot with
    | some n => n
    | none =>
      let cfg := t.cc.getD slot []
      let into := es.find? (fun e => e.cu == u && e.cv == v && e.cs == slot && (bindMode cfg e.cb == 1 || bindMode cfg e.cb == 2))
      let out := es.find? (fun e => e.pu == u && e.pv == v && e.ps == slot)
      match into, out with
      | some e, _ => e.tokens
      | none, some e => e.tokens
      | none, none => 1

/-- Tokens per run of an agent: a generator's program, or a compute cell's tags; 0 where there is no such agent. -/
def agentTokens (ts : List ImgTile) (es : List ImgEdge) (u v slot g : Nat) : Nat :=
  match tileAt ts u v with
  | none => 0
  | some t =>
    if slot = 3 then
      let w := t.ag.getD g []
      if agEnable w then agTokens w else 0
    else if ccClass (t.cc.getD slot []) = 0 then 0
    else tagsOf ts es u v slot

/-- Tokens per run at the consumer of an edge: 1 into a stationary port (R147). -/
def edgeTokens (ts : List ImgTile) (es : List ImgEdge) (e : ImgEdge) : Nat :=
  match tileAt ts e.cu e.cv with
  | some t => if e.cs < 3 ∧ bindMode (t.cc.getD e.cs []) e.cb = 3 then 1 else agentTokens ts es e.cu e.cv e.cs e.cb
  | none => 0

/-! ## The checks (R149) -/

/-- A failing check's cell: y, x, slot and detail, in the order in which the lowest is named (R149, R172). -/
abbrev Named := Nat × Nat × Nat × Nat

/-- No cell is named. -/
def noCell : Named := (0xFFFF, 0xFFFF, 0xFF, 0xFF)

/-- A cell of a site, with a detail. -/
def nameCell (k slot detail : Nat) : Named := (siteY k, siteX k, slot, detail)

/-- The lower of two names. -/
def lowerName (a b : Named) : Named :=
  let key := fun (n : Named) => ((n.1 * 2 ^ 16 + n.2.1) * 256 + n.2.2.1) * 256 + n.2.2.2
  if key b < key a then b else a

/-- The rings of a compute cell: port and descriptor; port 4 is the output (R56, R57). -/
def ringsOf (cfg : List Word32) : List (Nat × PortDesc) :=
  ((List.range 5).map (fun i => (i, ccPort cfg i))).filter (fun p => p.2.mode ≥ 2)

/-- The lines of each ring and of the constant table, with the detail that names it (R130, R172). -/
def lineSpans (cfg : List Word32) : List ((Nat × Nat) × Nat) :=
  (ringsOf cfg).map (fun p => ((p.2.base, p.2.base + p.2.depth * p.2.size), p.1)) ++
  (if constLines cfg > 0 then [((ccConstLine cfg, ccConstLine cfg + constLines cfg), 0xFF)] else [])

/-- The formats that a cell's class uses (R53, R55). -/
def usedFmts (cfg : List Word32) : List Nat :=
  [ccFmtA cfg, ccFmtOut cfg] ++ (if ccClass cfg = 1 then [ccFmtB cfg] else [])

/-- The chain operation takes two operands (R132, R136). -/
def binaryOp (code : Nat) : Bool := (1 ≤ code && code ≤ 6) || code == 8

/-- The chain operation takes one (R132, R136). -/
def unaryOp (code : Nat) : Bool := 9 ≤ code && code ≤ 0x14

/-- The chain operation is listed (R132). -/
def knownOp (code : Nat) : Bool := 1 ≤ code && code ≤ 0x14

/-- Details of the failures of a check of one compute cell whose class is not idle (R55, R149). -/
def ccFails (code : Nat) (hold : Bool) (cfg : List Word32) : List Nat :=
  let tensor := ccClass cfg == 1
  let one := fun (b : Bool) => if b then [0xFF] else []
  let chain := ccChain cfg
  let ports := (List.range 4).map (fun i => (i, ccPort cfg i))
  match code with
  | 0x04 => one hold
  | 0x08 => one (ccClass cfg > 2)
  | 0x09 => one ((usedFmts cfg).any (fun f => f > 10) || (tensor && (ccFmtA cfg > 8 || ccFmtB cfg > 8)))
  | 0x0A => one (tensor && ccSparsity cfg == 3)
  | 0x0B => one (chain.any (fun b => !knownOp (b / 8)))
  | 0x0C => one (tensor && ccScales cfg && (fmtBits (ccFmtA cfg) == 16 || fmtBits (ccFmtB cfg) == 16))
  | 0x0D => one (ccClass cfg == 2 && ccKSteps cfg != 1)
  | 0x0E => one (ccMb cfg == 0 || ccNb cfg == 0 || ccKSteps cfg == 0)
  | 0x10 =>
    ((ringsOf cfg).filter (fun p => p.2.size == 0 || p.2.base + p.2.depth * p.2.size > 768)).map Prod.fst ++
    (if (ccPort cfg 4).mode = 0 then [4] else []) ++
    one (constLines cfg > 0 && ccConstLine cfg + constLines cfg > 768)
  | 0x11 =>
    let sp := (lineSpans cfg).zipIdx
    (sp.filter (fun a => sp.any (fun b => b.2 != a.2 && spansMeet a.1.1 b.1.1))).map (fun a => a.1.2)
  | 0x12 =>
    ((ringsOf cfg).filter (fun p => (tensor || p.1 != 1) && p.2.size < portNeed cfg p.1)).map Prod.fst
  | 0x13 =>
    one (tensor && ((ccSparsity cfg != 2 &&
          ((if ccSparsity cfg = 1 then ccK cfg / 2 else ccK cfg) * fmtBits (ccFmtA cfg)) % 8 != 0) ||
         (ccCols cfg * fmtBits (ccFmtB cfg)) % 8 != 0))
  | 0x14 =>
    one (tensor && ((ccScales cfg && ccK cfg % 32 != 0) || (ccSparsity cfg == 1 && ccK cfg % 4 != 0) ||
         (ccSparsity cfg == 2 && ccK cfg % 16 != 0)))
  | 0x15 =>
    one (chain.any (fun b =>
      let c := b / 8
      let sel := b % 8
      (unaryOp c && sel != 0) || (binaryOp c && sel == 0) ||
      ((sel == 5 || sel == 6) && (ccPort cfg (sel - 3)).mode == 0))) ++
    ((ports.filter (fun p => p.1 ≥ 2 && p.2.mode == 1)).map Prod.fst)
  | 0x18 =>
    ((ports.filter (fun p => p.2.mode != 0 && ports.any (fun q => q.1 < p.1 && q.2.mode != 0 && q.2.binding == p.2.binding)))).map Prod.fst
  | 0x1B => (List.range 4).filter (fun b => (ccIn cfg b).enable && (portsOn cfg b).isEmpty)
  | _ => []

/-- Details of the failures of the binding checks of one compute cell; peers are positions (R58, R59, R144, R149). -/
def bindFails (code : Nat) (a : Part) (ts : List ImgTile) (cfg : List Word32) : List Nat :=
  (List.range 8).filterMap (fun i =>
    let w := if i < 4 then ccIn cfg i else ccOut cfg (i - 4)
    let inside := w.x < a.width * 36 && w.y < a.height * 40
    let ok := match tileAt ts w.x w.y with
      | none => false
      | some t =>
        if w.slot = 3 then agEnable (t.ag.getD w.peer [])
        else
          let p := t.cc.getD w.slot []
          let q := if i < 4 then ccOut p w.peer else ccIn p w.peer
          ccClass p != 0 && q.enable && q.kind == w.kind
    if !w.enable then none
    else if code = 0x19 then (if inside then none else some (i % 4))
    else if inside && (!ok || (i < 4 && w.kind == 3)) then some (i % 4) else none)

/-- A check of one generator that runs fails (R71 to R73, R78, R138, R149). -/
def agFails (code : Nat) (t : ImgTile) (g : Nat) : Bool :=
  let w := t.ag.getD g []
  let (ss, sslot, saddr) := agSrc w
  let (ds, dslot, daddr) := agDst w
  let tl := agTokenLoop w
  match code with
  | 0x09 => agFmt w > 10
  | 0x13 => agRun w * fmtBits (agFmt w) % 8 != 0
  | 0x20 => agLoops w > 6 || tl == 7 || (tl < 6 && tl ≥ agLoops w) || ss == 3 || ds == 3
  | 0x21 =>
    let src := t.cc.getD sslot []
    let dst := t.cc.getD dslot []
    (ss == 2 && !(sslot < 3 && ccClass src != 0 && (ccPort src 4).mode == 2 && (ccPort src 4).base * 64 == saddr)) ||
    (ds == 2 && !(dslot < 3 && ccClass dst != 0 &&
      (List.range 4).any (fun i => (ccPort dst i).mode ≥ 2 && (ccPort dst i).base * 64 == daddr)))
  | 0x22 =>
    let readers := (List.range 4).filter (fun h =>
      let r := t.ag.getD h []
      agEnable r && (agSrc r).1 == 1 && (agSrc r).2.2 == daddr)
    ds == 1 && (tl != 6 || readers.length != 1)
  | _ => false

/-- The physical site of a mapped position (R145). -/
def tileSite (s : State) (a : Part) (u v : Nat) : Nat := physical s (atUV a u v)

/-- The consumers of an image's producer binding, without repeats. -/
def edgeSet (es : List ImgEdge) (e : ImgEdge) : List (Nat × Nat × Nat × Nat) :=
  ((es.filter (fun d => d.pu == e.pu && d.pv == e.pv && d.ps == e.ps && d.pb == e.pb)).map
    (fun d => (d.cu, d.cv, d.cs, d.cb))).eraseDups

/-- One multicast covers the consumers of a binding: one slot and number, and a rectangle or an 8 × 8 window (R209). -/
def oneCast (cs : List (Nat × Nat × Nat × Nat)) : Bool :=
  match cs with
  | [] => true
  | c :: r =>
    if r.isEmpty then true
    else
      let cells := cs.map (fun d => (⟨d.1, d.2.1, d.2.2.1⟩ : CellRef))
      let (x0, y0, x1, y1) := rectOf cells
      cs.all (fun d => d.2.2 == c.2.2) && (fullRect cells || (x1 - x0 < 8 && y1 - y0 < 8))

/-- The failures of one check of R149, over the folded tiles of an image. -/
def checkFails (s : State) (p : Nat) (a : Part) (img : Image) (ts : List ImgTile) (folds : List (Nat × Nat × Nat × Nat))
    (code : Nat) : List Named :=
  let site := fun (t : ImgTile) => tileSite s a t.u t.v
  let none1 := fun (b : Bool) => if b then [noCell] else []
  let ofCells := ts.flatMap (fun t => (List.range 3).flatMap (fun i =>
    let cfg := t.cc.getD i []
    if ccClass cfg = 0 then [] else (ccFails code (a.role == 2) cfg).map (nameCell (site t) i)))
  let ofGens := ts.flatMap (fun t => ((List.range 4).filter (fun g => agEnable (t.ag.getD g []) && agFails code t g)).map
    (nameCell (site t) 3))
  match code with
  | 0x03 => none1 (ts.any (fun t => !(t.u < a.width * 36 && t.v < a.height * 40 && served s (atUV a t.u t.v))))
  | 0x05 => none1 (img.time == 0 || img.energy == 0 || 1000 * img.energy > largestShare s a * img.time)
  | 0x19 | 0x1A =>
    ts.flatMap (fun t => (List.range 3).flatMap (fun i =>
      let cfg := t.cc.getD i []
      if ccClass cfg = 0 then [] else (bindFails code a ts cfg).map (nameCell (site t) i))) ++
    (if code = 0x1A then
      (img.edges.filter (fun e => !oneCast (edgeSet img.edges e))).map (fun e => nameCell (tileSite s a e.pu e.pv) e.ps e.pb)
     else [])
  | 0x28 =>
    (img.edges.filter (fun e =>
      !(agentTokens ts img.edges e.pu e.pv e.ps e.pb == e.tokens && edgeTokens ts img.edges e == e.tokens))).map
      (fun e => nameCell (tileSite s a e.pu e.pv) e.ps e.pb)
  | 0x29 | 0x2A => (folds.filter (fun f => f.2.2.2 == code)).map (fun f => nameCell (tileSite s a f.1 f.2.1) f.2.2.1 0xFF)
  | 0x30 => none1 (img.counters.any (fun c => crestOwner s c.1 != some p || c.2 == 0))
  | 0x31 =>
    ts.flatMap (fun t => (List.range 3).flatMap (fun i =>
      let cfg := t.cc.getD i []
      if ccClass cfg ≠ 0 && img.carries.any (fun c =>
          c.space == 2 && c.slot == i && (everyTile c.u c.v || (c.u == t.u && c.v == t.v)) &&
          (lineSpans cfg).any (fun l => spansMeet (l.1.1 * 64, l.1.2 * 64) (c.addr, c.addr + c.len))) then
        [nameCell (site t) i 0xFF]
      else []))
  | 0x32 =>
    ts.flatMap (fun t =>
      if 544 + constBytes t > img.recLen * 256 || a.resident.any (fun r =>
          r.sites.contains (site t) && spansMeet (r.base, r.base + r.recLen * 256) (img.base, img.base + img.recLen * 256)) then
        [nameCell (site t) 0xFF 0xFF]
      else [])
  | 0x33 => none1 (a.resident.length ≥ 64)
  | _ => ofCells ++ ofGens

/-- The codes that the loader checks at commit after 0x01 and 0x02, rising (R149). -/
def commitCodes : List Nat :=
  [0x03, 0x04, 0x05, 0x08, 0x09, 0x0A, 0x0B, 0x0C, 0x0D, 0x0E, 0x10, 0x11, 0x12, 0x13, 0x14, 0x15, 0x18, 0x19, 0x1A, 0x1B, 0x20,
   0x21, 0x22, 0x28, 0x29, 0x2A, 0x30, 0x31, 0x32, 0x33]

/-- The failing check that the reply names: the lowest code, and its lowest cell (R149). -/
def firstFail (s : State) (p : Nat) (a : Part) (img : Image) (ts : List ImgTile) (folds : List (Nat × Nat × Nat × Nat)) :
    Option (Nat × Named) :=
  commitCodes.findSome? (fun code =>
    match checkFails s p a img ts folds code with
    | [] => none
    | n :: r => some (code, r.foldl lowerName n))

/-! ## Making a section resident (R145, R146) -/

/-- A binding word with the physical coordinates of its peer (R145). -/
def placeBinding (s : State) (a : Part) (w : Word32) : Word32 :=
  let b := bindingOf w.toNat
  if !b.enable then w
  else
    let k := tileSite s a b.x b.y
    BitVec.ofNat 32 (w.toNat - b.x * 2 ^ 16 - b.y * 2 ^ 7 + siteX k * 2 ^ 16 + siteY k * 2 ^ 7)

/-- A compute cell's block as it is written: bindings name physical peers (R52, R145). -/
def placeBlock (s : State) (a : Part) (cfg : List Word32) : List Word32 :=
  if ccClass cfg = 0 then cfg
  else cfg.zipIdx.map (fun e => if 12 ≤ e.2 ∧ e.2 < 20 then placeBinding s a e.1 else e.1)

/-- The bytes of a tile record (R144). -/
def recordBytes (s : State) (a : Part) (img : Image) (t : ImgTile) : List Byte :=
  let words := t.cc.flatMap (placeBlock s a) ++ t.ag.flatten
  words.flatMap (fun w => leBytes 4 w.toNat) ++ slice img.bytes (t.off + 544) (constBytes t)

/-- An edge with the physical cells that it joins. -/
def placeEdge (s : State) (a : Part) (e : ImgEdge) : Nat × Nat × Nat × Nat :=
  (cellKey (tileSite s a e.pu e.pv) e.ps, e.pb, cellKey (tileSite s a e.cu e.cv) e.cs, e.cb)

/-- The edge ends at a home: its producer's outbound binding is a combining contribution (R213). -/
def homeEdge (ts : List ImgTile) (e : ImgEdge) : Bool :=
  e.ps < 3 && e.cs == 3 &&
  (match tileAt ts e.pu e.pv with
   | some t => (ccOut (t.cc.getD e.ps []) e.pb).kind == 3
   | none => false)

/-- Depth and size of the ring that a generator fills, and its expected contributors (R73, R213). -/
def genRing (ts : List ImgTile) (es : List ImgEdge) (t : ImgTile) (g : Nat) : Nat × Nat × Nat :=
  let (sp, slot, base) := agDst (t.ag.getD g [])
  let cfg := t.cc.getD slot []
  let port := if sp = 2 then (List.range 4).find? (fun i => (ccPort cfg i).mode ≥ 2 && (ccPort cfg i).base * 64 == base) else none
  let n := (es.filter (fun e => homeEdge ts e && e.cu == t.u && e.cv == t.v && e.cb == g)).length
  match port with
  | some i => ((ccPort cfg i).depth, (ccPort cfg i).size, n)
  | none => (0, 0, n)

/-- Buffers of the ring that a stream or combining binding of a compute cell fills: its own output ring toward a generator, that of the
consumer's port, one where the port is stationary, or that of the home (R57, R73, R207, R213). -/
def ringDepth (ts : List ImgTile) (es : List ImgEdge) (cfg : List Word32) (b : Nat) : Nat :=
  let w := ccOut cfg b
  match tileAt ts w.x w.y with
  | none => (ccPort cfg 4).depth
  | some t =>
    if w.kind = 3 then max 1 (genRing ts es t w.peer).1
    else if w.slot = 3 then (ccPort cfg 4).depth
    else
      let peer := t.cc.getD w.slot []
      match portsOn peer w.peer with
      | i :: _ => if (ccPort peer i).mode = 3 then 1 else (ccPort peer i).depth
      | [] => 1

/-- The ordinal of a contribution: its place among those of its home by physical y, x and slot (R203). -/
def ordinalOf (s : State) (a : Part) (es : List ImgEdge) (e : ImgEdge) : Nat :=
  let key := fun (d : ImgEdge) => cellKey (tileSite s a d.pu d.pv) d.ps * 4 + d.pb
  (es.filter (fun d => d.cu == e.cu && d.cv == e.cv && d.cb == e.cb && key d < key e)).length

/-- The resident section that a commit leaves (R142, R143, R145, R147, R203, R213). -/
def makeSection (s : State) (a : Part) (img : Image) (ts : List ImgTile) : Section :=
  let site := fun (t : ImgTile) => tileSite s a t.u t.v
  let homes := img.edges.filter (homeEdge ts)
  { number := a.nextSection
    time := img.time
    energy := img.energy
    base := img.base
    recLen := img.recLen
    sites := ts.map site
    counters := img.counters
    edges := img.edges.map (placeEdge s a)
    tags := ts.foldl (fun m t => (List.range 3).foldl (fun m i =>
      if ccClass (t.cc.getD i []) = 0 then m else amSet m (cellKey (site t) i) (tagsOf ts img.edges t.u t.v i)) m) []
    rings := ts.foldl (fun m t => (List.range 4).foldl (fun m g => amSet m (site t * 4 + g) (genRing ts img.edges t g)) m) []
    ordinals := homes.foldl (fun m e =>
      amSet m (cellKey (tileSite s a e.pu e.pv) e.ps * 4 + e.pb) (ordinalOf s a homes e)) []
    depths := ts.foldl (fun m t => (List.range 3).foldl (fun m i => (List.range 4).foldl (fun m b =>
      let w := ccOut (t.cc.getD i []) b
      if ccClass (t.cc.getD i []) ≠ 0 && w.enable && w.kind ≥ 2 then
        amSet m (cellKey (site t) i * 4 + b) (ringDepth ts img.edges (t.cc.getD i []) b) else m) m) m) []
    queueDepths := ts.foldl (fun m t => (List.range 3).foldl (fun m i => (List.range 4).foldl (fun m b =>
      let w := ccIn (t.cc.getD i []) b
      if ccClass (t.cc.getD i []) ≠ 0 && w.enable then amSet m (cellKey (site t) i * 4 + b) w.depth else m) m) m) [] }

/-- Writes the tile records and makes the section resident (R145, R146). -/
def installSection (p : Nat) (a : Part) (img : Image) (ts : List ImgTile) (s : State) : State :=
  let sec := makeSection s a img ts
  let recs := ts.map (fun t => (tileSite s a t.u t.v, recordBytes s a img t))
  let s := recs.foldl (fun s r =>
    countAccess r.1 0 ((r.2.length + 255) / 256) (writeBytes (memKey r.1 0 0 img.base) r.2 s)) s
  modPart p (fun (a : Part) => { a with resident := a.resident ++ [sec], nextSection := a.nextSection + 1 }) s

/-- The loader finishes a commit: a refusal by its lowest failing check, or a resident section whose number the reply carries
(R149, R150, R172, R466). -/
def finishCommit (p : Nat) (a : Part) (c : Commit) (s : State) : State :=
  let refuse := fun (code : Nat) (n : Named) (s : State) => loaderRefuse p c.node c.domain c.tag code n.2.1 n.1 n.2.2.1 n.2.2.2 s
  match imagePieces s a c.addr c.len with
  | none => refuse 0x02 noCell s
  | some ps =>
    let got := imageBytes s ps
    let s := touchImage ps s
    match got with
    | none => refuse 0x02 noCell s
    | some bs =>
      if headerBad bs then refuse 0x01 noCell s
      else if !headerRange bs c.len then refuse 0x02 noCell s
      else
        let img := readImage bs
        if !tablesOk img then refuse 0x02 noCell s
        else
          let (ts, folds) := applyFolds img
          match firstFail s p a img ts folds with
          | some (code, n) => refuse code n s
          | none =>
            let number := a.nextSection
            sendPkt c.node c.domain 0x3F (runReply c.tag 0 0 0xFFFF 0xFFFF 0xFF 0xFF number) (installSection p a img ts s)

end Sys2Proof.Machine
end

