-- ==== Sys2Proof/Machine/SectionFam.lean ====
section
/-!
DEFINITION. The commands of jobs, sections, runs and cadence frames (R140 to R172, R332, R360, R361).
-/

namespace Sys2Proof.Machine

/-! ## Jobs and sections (R141, R146, R171, R172) -/

/-- The partition of a command whose domain is the packet's and whose open job is the one named (R170, R171). -/
def jobPart (s : State) (p : Pkt) (h : Hdr) : Option (Part × Job) :=
  match cmdPart s p h with
  | some a =>
    match a.job with
    | some j => if j.id = h.job then some (a, j) else none
    | none => none
  | none => none

/-- Answers a command as an error that changes nothing (R171). -/
def runError (p : Pkt) (h : Hdr) (s : State) : State := replyRun p h 2 0 0 s

/-- JOB_OPEN (R141, R171, R434, R444): refused while a job is open, or while a destructive self-test runs, which counts as one. The
partition registers with the crest tree of its job group, whose members so far are an open value (log 141). -/
def execJobOpen (p : Pkt) (h : Hdr) (group : BitVec 32) (notify : Nat) (s : State) : Out :=
  .next (ingress p (.jobOpen p h group notify) (fun s =>
    match cmdPart s p h with
    | none => runError p h s
    | some a =>
      if a.job.isSome ∨ a.pstate ≠ .ready ∨ testHolds s h.part then runError p h s
      else
        let j : Job := { id := h.job, group := group, notify := notify
                         members := Config.groupMembers group a.domain s.crest.opens }
        let s := { s with crest := { s.crest with opens := s.crest.opens + 1 } }
        replyRun p h 0 0 0 (modPart h.part (fun (a : Part) =>
          { a with job := some j, pstate := .jobOpen, stamp := { mark := .open }, ended := [], opSeq := 0, early := [] }) s)) s)

/-- SECTION_COMMIT (R149, R150): the loader begins a commit, whose reply comes when it completes. -/
def execSectionCommit (p : Pkt) (h : Hdr) (addr : Word64) (len : Nat) (s : State) : Out :=
  .next (ingress p (.sectionCommit p h addr len) (fun s =>
    match jobPart s p h with
    | none => runError p h s
    | some _ =>
      let c : Commit := { addr := addr, len := len, node := p.node, domain := p.domain, tag := h.tag }
      modPart h.part (fun (a : Part) => { a with commits := a.commits ++ [c] }) s) s)

/-- COMMIT_COMPLETE (R149, R150): the loader finishes the oldest commit of a partition. -/
def execCommitComplete (part : Nat) (s : State) : Out :=
  .next (
    match getPart s part with
    | none => s
    | some a =>
      match a.commits with
      | [] => s
      | c :: rest => finishCommit part { a with commits := rest } c (modPart part (fun (a : Part) => { a with commits := rest }) s))

/-- A run of a section is queued or running (R171). -/
def sectionUsed (a : Part) (n : Nat) : Bool :=
  a.queue.any (fun (r : Run) => r.sec == n) || (a.current.map Current.sec) == some n

/-- SECTION_RELEASE (R146, R171). -/
def execSectionRelease (p : Pkt) (h : Hdr) (sec : Nat) (s : State) : Out :=
  .next (ingress p (.sectionRelease p h sec) (fun s =>
    match jobPart s p h with
    | none => runError p h s
    | some (a, _) =>
      if (sectionOf a sec).isNone || sectionUsed a sec then runError p h s
      else
        replyRun p h 0 0 sec (modPart h.part (fun (a : Part) =>
          { a with resident := a.resident.filter (fun (x : Section) => x.number != sec) }) s)) s)

/-! ## Runs (R153 to R162) -/

/-- A run may be named as predecessor: it is queued, running or complete (R153). -/
def knownPred (a : Part) (n : Nat) : Bool :=
  a.queue.any (fun (r : Run) => r.number == n) || (a.current.map Current.number) == some n ||
  a.ended.any (fun e => e.1 == n && (e.2.1 == 0 || e.2.1 == 3))

/-- SECTION_ENQUEUE (R149, R153, R156, R171): a run joins the queue, or the loader refuses it with code 0x05 or 0x34. -/
def execSectionEnqueue (p : Pkt) (h : Hdr) (sec prio : Nat) (guard : Guard) (preds : List Nat) (s : State) : Out :=
  .next (ingress p (.sectionEnqueue p h sec prio guard preds) (fun s =>
    match jobPart s p h with
    | none => runError p h s
    | some (a, _) =>
      match sectionOf a sec with
      | none => runError p h s
      | some x =>
        if prio > 7 ∨ guard.cmp > 2 ∨ preds.length > 4 ∨ (guard.cmp ≠ 0 ∧ crestOwner s guard.index ≠ some h.part) then runError p h s
        else if 1000 * x.energy > largestShare s a * x.time then
          loaderRefuse h.part p.node p.domain h.tag 0x05 0xFFFF 0xFFFF 0xFF 0xFF s
        else if a.queue.length ≥ 256 ∨ !preds.all (knownPred a) then
          loaderRefuse h.part p.node p.domain h.tag 0x34 0xFFFF 0xFFFF 0xFF 0xFF s
        else
          let n := a.nextRun
          let r : Run := { number := n, sec := sec, prio := prio, preds := preds, guard := guard }
          schedule h.part (replyRun p h 0 0 n (modPart h.part (fun (a : Part) =>
            { a with queue := a.queue ++ [r], nextRun := n + 1 }) s))) s)

/-- SECTION_CANCEL (R154, R162): a queued run only; it and every run that names it are discarded. -/
def execSectionCancel (p : Pkt) (h : Hdr) (run : Nat) (s : State) : Out :=
  .next (ingress p (.sectionCancel p h run) (fun s =>
    match jobPart s p h with
    | none => runError p h s
    | some (a, _) =>
      if a.queue.any (fun (r : Run) => r.number == run) then
        let s := replyRun p h 0 0 run s
        let s := modPart h.part (fun (a : Part) => { a with queue := a.queue.filter (fun (r : Run) => r.number != run) }) s
        discardAfter h.part 257 (endRun h.part run 4 0 s)
      else runError p h s) s)

/-- JOB_START (R360): the first start stamps the job; the queue may now run. -/
def execJobStart (p : Pkt) (h : Hdr) (s : State) : Out :=
  .next (ingress p (.jobStart p h) (fun s =>
    match jobPart s p h with
    | none => runError p h s
    | some (_, j) =>
      if j.started then replyRun p h 0 0 0 s
      else
        let t := tickStamp s
        schedule h.part (replyRun p h 0 0 0 (modPart h.part (fun (a : Part) =>
          { a with job := some { j with started := true, credits := 0 }
                   stamp := { mark := .started, start := t, stop := 0, energy := 0 } }) s))) s)

/-- JOB_STOP (R361): refused with event 0x349 unless the open job is started; the running run completes. -/
def execJobStop (p : Pkt) (h : Hdr) (s : State) : Out :=
  .next (ingress p (.jobStop p h) (fun s =>
    match cmdPart s p h with
    | none => runError p h s
    | some _ =>
      match jobPart s p h with
      | none => runError p h (raise (evPart s 0x349 2 h.part 0) s)
      | some (_, j) =>
        if j.started then replyRun p h 0 0 0 (stopStamp h.part .stopped s)
        else runError p h (raise (evPart s 0x349 2 h.part 0) s)) s)

/-- JOB_ABORT (R161): the run is aborted with code 0x43 and the job closes. -/
def execJobAbort (p : Pkt) (h : Hdr) (s : State) : Out :=
  .next (ingress p (.jobAbort p h) (fun s =>
    match jobPart s p h with
    | none => runError p h s
    | some _ => replyRun p h 0 0 0 (abortRun h.part 0x43 s)) s)

/-- JOB_CLOSE (R141, R171, R362): refused while a run is running; its queued runs are discarded. -/
def execJobClose (p : Pkt) (h : Hdr) (s : State) : Out :=
  .next (ingress p (.jobClose p h) (fun s =>
    match jobPart s p h with
    | none => runError p h s
    | some (a, _) =>
      if a.current.isSome then runError p h s
      else
        let s := a.queue.foldl (fun s (r : Run) => runNotify a 4 0 r.number s) s
        replyRun p h 0 0 0 (closeJob h.part s)) s)

/-- State and code of a run that the device still keeps (R172). -/
def runState (a : Part) (n : Nat) : Option (Nat × Nat) :=
  if (a.current.map Current.number) = some n then some (7, 0)
  else
    match a.queue.find? (fun (r : Run) => r.number == n) with
    | some r => some (if r.ready then 6 else 5, 0)
    | none => (a.ended.find? (fun e => e.1 == n)).map (fun e => e.2)

/-- STATUS (R172): the state of a run, or of the current one for 0. -/
def execRunStatus (p : Pkt) (h : Hdr) (run : Nat) (s : State) : Out :=
  .next (ingress p (.runStatus p h run) (fun s =>
    match jobPart s p h with
    | none => runError p h s
    | some (a, _) =>
      let n := if run = 0 then (a.current.map Current.number).getD 0 else run
      match (if n = 0 then none else runState a n) with
      | some (st, code) => replyRun p h st code n s
      | none => runError p h s) s)

/-! ## Cadence (R163 to R167, R171) -/

/-- W_0 of an admission on the model's time base: the start time named, as a time of day (R163). -/
def startWindow (s : State) (start : Word64) : Int :=
  (now s : Int) + (start.toNat * 10 : Nat) - (s.time.tod.toNat * 10 + s.time.todTenths : Nat)

/-- CADENCE_ADMIT (R163, R164): a pour partition whose reservation covers E_f / P admits a list of resident sections. -/
def execCadenceAdmit (p : Pkt) (h : Hdr) (r : CadenceReq) (s : State) : Out :=
  .next (ingress p (.cadenceAdmit p h r) (fun s =>
    match jobPart s p h with
    | none => runError p h s
    | some (a, _) =>
      if a.role ≠ 0 ∨ a.cadence.isSome ∨ r.sections.isEmpty ∨ r.sections.length > 16 ∨ !r.sections.all (fun n => (sectionOf a n).isSome)
          ∨ r.period = 0 ∨ r.estimate > r.period ∨ r.energy * 1000000 > a.reservation * r.period then runError p h s
      else
        let c : Cadence :=
          { period := r.period, estimate := r.estimate, energy := r.energy, sections := r.sections
            w0 := if r.start = 0 then 0 else startWindow s r.start
            w0Tick := r.start == 0 }
        let s := setReg (0x2D1200 + h.part + 1) (if r.late then 1 else 0) s
        replyRun p h 0 0 0 (modPart h.part (fun (a : Part) =>
          { a with cadence := some c, framePeriod := r.period, framesRun := 0, framesLate := 0, framesDropped := 0 }) s)) s)

/-- CADENCE_STOP (R171): the frame in progress completes, and no further frame starts. -/
def execCadenceStop (p : Pkt) (h : Hdr) (s : State) : Out :=
  .next (ingress p (.cadenceStop p h) (fun s =>
    match jobPart s p h with
    | none => runError p h s
    | some (a, _) =>
      match a.cadence with
      | none => runError p h s
      | some c =>
        let s := modPart h.part (fun (a : Part) =>
          { a with cadence := if c.frameK.isSome then some { c with stopping := true } else none }) s
        schedule h.part (replyRun p h 0 0 0 s)) s)

/-- CADENCE_WINDOW (R163, R165): the next window of the grid opens, at its time; its frame is decided now, or when the partition
is free. -/
def execCadenceWindow (part : Nat) (s : State) : Out :=
  .next (
    match (getPart s part).bind Part.cadence with
    | none => s
    | some c =>
      if c.w0Tick || c.stopping then s
      else
        let k := c.nextK
        let s := advanceTo (windowAt c k).toNat s
        let s := modCadence part (fun (c : Cadence) => { c with nextK := k + 1, started := true }) s
        let s := syncPulse (0x80 + part) s
        match getPart s part with
        | none => s
        | some a =>
          let busy := a.current.isSome || c.frameK.isSome || !c.undecided.isEmpty || !s.mesh.routingReady || testHolds s part
          if busy then schedule part (modCadence part (fun (c : Cadence) => { c with undecided := c.undecided ++ [k] }) s)
          else schedule part (decideFrame part k s))

/-! ## The switch (R158 to R162) -/

/-- Crest counters of the section's table take their bounds at step 5 (R143, R221). -/
def setBounds (r : Section) (s : State) : State :=
  r.counters.foldl (fun s e => setCtr (.crest e.1) { getCtr s (.crest e.1) with bound := BitVec.ofNat 16 e.2 } s) s

/-- SECTION_START (R158, R159): a tile receives its start message, reads its record and starts. -/
def execSectionStart (x y : Nat) (s : State) : Out :=
  .next (
    let k := siteKey x y
    let s := landSection k 0 s
    match running s k with
    | none => s
    | some (p, _, c, r) =>
      if (getTile s k).run ≠ .loading ∨ !r.sites.contains k then s
      else
        let s := if c.loaded.isEmpty then setBounds r s else s
        let s := modPart p (fun (a : Part) =>
          { a with current := a.current.map (fun (c : Current) => { c with loaded := c.loaded ++ [k] }) }) s
        doneTry k (deliverAll k (loadTile k r s)))

/-- A tile's done report leaves the mesh. -/
def landDone (k : Nat) (s : State) : State :=
  leaveMesh (fun m => m.control && m.kind == 7 && m.head.src == cellAt k 3 && m.body == [1]) s

/-- SECTION_DONE (R147, R158): a tile's agents have finished; with the last tile the switch barrier completes and the scheduler
chooses. -/
def execSectionDone (x y : Nat) (s : State) : Out :=
  .next (
    let k := siteKey x y
    match running s k with
    | none => landDone k s
    | some (p, _, c, r) =>
      if (getTile s k).run ≠ .finished ∨ !r.sites.contains k ∨ c.finished.contains k then landDone k s
      else
        let done := c.finished ++ [k]
        let s := modPart p (fun (a : Part) =>
          { a with current := a.current.map (fun (c : Current) => { c with finished := done }) }) (landDone k s)
        if r.sites.all (fun j => done.contains j) then completeRun p s else s)

/-- SECTION_ABORT (R161, R162): a tile whose run is aborted stops, and one that has not started does not start. -/
def execSectionAbort (x y : Nat) (s : State) : Out :=
  .next (
    let k := siteKey x y
    let s := landSection k 2 s
    match running s k with
    | some (_, _, _, r) => if r.sites.contains k then s else modTile k (fun (t : Tile) => { t with run := .stopped }) s
    | none => modTile k (fun (t : Tile) => { t with run := .stopped }) s)

/-- STARVATION_LIMIT_REACHED (R155, R332): a ready run that the budget holds back gets event 0x00E, once. -/
def execStarvationLimitReached (part run : Nat) (s : State) : Out :=
  .next (
    match (getPart s part).bind (fun (a : Part) => a.queue.find? (fun (r : Run) => r.number == run && r.ready)) with
    | none => s
    | some r =>
      let s := advanceTo (r.readySince + setting s 0x2D00 1 * usT) s
      match getPart s part with
      | none => s
      | some a =>
        let s :=
          if eligible a r || r.starvedNoted then s
          else
            raise (evPart s 0x00E 0 part run) (modPart part (fun (a : Part) => { a with queue := a.queue.map (fun (q : Run) =>
              if q.number = run then { q with starvedNoted := true } else q) }) s)
        schedule part s)

/-- RUN_OVERRUN (R160): a run has lasted T × the overrun factor; event 0x381 is written once, and the run continues. -/
def execRunOverrun (part : Nat) (s : State) : Out :=
  .next (
    match getPart s part with
    | none => s
    | some a =>
      match a.current with
      | none => s
      | some c =>
        if c.overran then s
        else
          let t := ((sectionOf a c.sec).map Section.time).getD 0
          let s := advanceTo (c.startedAt + t * 10 * setting s 0x2D00 2) s
          raise (evPart s 0x381 0 part c.number) (modPart part (fun (a : Part) =>
            { a with current := a.current.map (fun (c : Current) => { c with overran := true }) }) s))

end Sys2Proof.Machine
end

