-- ==== Sys2Proof/Machine/SyncFam.lean ====
section
/-!
DEFINITION. The commands of sync counters, watches, hang detection, global operations and the sync commands of hosts (R217 to
R236).
-/

namespace Sys2Proof.Machine

/-! ## COUNTER messages (R219 to R222) -/

/-- The header's source is a tile. -/
def srcIsTile (h : Head) : Bool := h.src.x < 288 && h.src.y < 280

/-- The counter that a message names at the holder it reaches; a tile counter at a crest unit does not exist (R222). -/
def msgKey (h : Head) (crest : Bool) (index : Nat) : CtrKey :=
  if crest then .crest index else .tile (if dstIsTile h then dstSite h else 0x100000) index

/-- The issuing tile's sync unit counts an operation as outstanding until its ACK or READ_REPLY returns (R222). -/
def opIssued (h : Head) (s : State) : State :=
  if srcIsTile h then modTile (siteKey h.src.x h.src.y) (fun (t : Tile) => { t with opsOut := t.opsOut + 1 }) s else s

/-- A COUNTER message reaches its holder: an operation of the counter's domain is held in a freeze, else it is performed and
answered (R219 to R222, R231). -/
def ctrArrive (op n : Nat) (h : Head) (m : CtrMsg) (self : Instr) (s : State) : State :=
  arriveCtl h 4 (fun s =>
    let key := msgKey h m.crest m.index
    let s := opIssued h s
    let own := ((ctrOwner s key).bind (getPart s)).map Part.domain
    if own = some h.domain ∧ ctrFrozen s key then holdCtr key self s
    else afterCtr key (performCtr op n h m key s)) s

/-- PRODUCE (R219). -/
def execCtrProduce (h : Head) (m : CtrMsg) (n : BitVec 32) (s : State) : Out := .next (ctrArrive 1 n.toNat h m (.ctrProduce h m n) s)

/-- CONSUME (R219). -/
def execCtrConsume (h : Head) (m : CtrMsg) (n : BitVec 32) (s : State) : Out := .next (ctrArrive 2 n.toNat h m (.ctrConsume h m n) s)

/-- READ (R219). -/
def execCtrRead (h : Head) (m : CtrMsg) (s : State) : Out := .next (ctrArrive 3 0 h m (.ctrRead h m) s)

/-- BOUND (R219, R220). -/
def execCtrBound (h : Head) (m : CtrMsg) (b : BitVec 16) (s : State) : Out := .next (ctrArrive 4 b.toNat h m (.ctrBound h m b) s)

/-- INIT (R219, R220). -/
def execCtrInit (h : Head) (m : CtrMsg) (s : State) : Out := .next (ctrArrive 5 0 h m (.ctrInit h m) s)

/-- An answer reaches the issuing tile's sync unit: one operation fewer is outstanding, the answer is passed on where the agent
asked for it, and the tile may now arrive at a snapshot (R222, R231). -/
def ctrAnswered (h : Head) (m : CtrMsg) (status p c : Nat) (s : State) : State :=
  arriveCtl h 4 (fun s =>
    if !dstIsTile h then s
    else
      let k := dstSite h
      snapArrive k (modTile k (fun (t : Tile) =>
        { t with opsOut := t.opsOut - 1
                 agent := if m.ackWanted then t.agent ++ [(m.retCell.slot, m.retTarget, status, p, c)] else t.agent }) s)) s

/-- ACK (R220, R222). -/
def execCtrAck (h : Head) (m : CtrMsg) (status : Nat) (s : State) : Out := .next (ctrAnswered h m status 0 0 s)

/-- READ_REPLY (R222). -/
def execCtrReadReply (h : Head) (m : CtrMsg) (p c : Count48) (s : State) : Out :=
  .next (ctrAnswered h m 0 p.toNat c.toNat s)

/-! ## WATCH messages (R223 to R226) -/

/-- The watch that a message names, at the holder that it reaches. -/
def msgWatch (h : Head) (m : WatchMsg) : Watch := { watchOf h m with key := msgKey h m.crest m.index }

/-- A watch message reaches its holder; one of another domain is refused with event 0x182 (R222, R236). -/
def watchArrive (h : Head) (m : WatchMsg) (act : Watch → State → State) (s : State) : State :=
  arriveCtl h 5 (fun s =>
    let w := msgWatch h m
    if ((ctrOwner s w.key).bind (getPart s)).map Part.domain = some h.domain then act w s
    else raise { evCtr s 0x182 2 w.key 0 with domain := h.domain } s) s

/-- REGISTER (R223). -/
def execWatchRegister (h : Head) (m : WatchMsg) (s : State) : Out := .next (watchArrive h m registerWatch s)

/-- CANCEL (R225). -/
def execWatchCancel (h : Head) (m : WatchMsg) (s : State) : Out := .next (watchArrive h m cancelWatch s)

/-- NOTIFY (R224): at an inbound binding of kind 01 it is the token for its tag with every row and column valid; a refused one is
not delivered. -/
def execWatchNotify (h : Head) (m : WatchMsg) (status : Nat) (s : State) : Out :=
  .next (arriveCtl h 5 (fun s =>
    let k := dstSite h
    if status ≠ 0 ∨ h.dst.slot ≥ 3 ∨ !dstIsTile h then s
    else atRunning k (some (.watchNotify h m status)) (notifyIn h) s) s)

/-! ## CREST messages (R227 to R233) -/

/-- A CREST message from any agent but a tile or a crest unit is discarded with event 0x115 (R233). -/
def crestDiscard (h : Head) (s : State) : State := raise { evCell s 0x115 1 h.src 0 with domain := h.domain } s

/-- A CREST message to a crest unit from a tile's memory cell. -/
def fromTile (h : Head) : Bool := srcIsTile h && h.src.slot == 3 && !dstIsTile h

/-- The tile of a header's source has answered its partition's snapshot with the sequence number (R231). -/
def tileAnswered (h : Head) (seq : Nat) (s : State) : State :=
  let k := siteKey h.src.x h.src.y
  match siteHolder s k with
  | none => s
  | some p =>
    match getHostOp s p 2 with
    | none => s
    | some o =>
      if o.seq = seq then snapTry p (modTile k (fun (t : Tile) => { t with arrivedAt := true }) s) else s

/-- ARRIVE (R229, R231): a tile arrives at a snapshot. -/
def execCrestArrive (h : Head) (seq : Nat) (_value : Word64) (s : State) : Out :=
  .next (arriveCtl h 6 (fun s => if fromTile h then tileAnswered h seq s else crestDiscard h s) s)

/-- A tile's memory cell writes its tile counters into its overlay and reports them collected (R231). -/
def collectTile (k : Nat) (o : HostOp) (domain : Nat) (s : State) : State :=
  let vals := (List.range 8).map (fun i => getCtr s (.tile k i))
  let s := countAccess k 0 1 (writeBytes (memKey k 0 0 o.addr) (snapBytes vals) s)
  send ⟨⟨cellAt k 3, ⟨ringXY, ringXY, 0⟩, 0, domain, 0⟩, true, 6, crestBody 5 o.seq 0⟩ s

/-- RELEASE (R229, R231): the release of a snapshot reaches a tile. -/
def execCrestRelease (h : Head) (seq : Nat) (_value : Word64) (s : State) : Out :=
  .next (arriveCtl h 6 (fun s =>
    if srcIsTile h || !dstIsTile h then crestDiscard h s
    else
      let k := dstSite h
      match (siteHolder s k).bind (getPart s) with
      | none => s
      | some a =>
        match a.hostOps.find? (fun (o : HostOp) => o.kind == 2) with
        | some o => if o.phase = 2 ∧ o.seq = seq then collectTile k o a.domain s else s
        | none => s) s)

/-- A tile of the run has become still: the hang timer may start (R227). -/
def tileRests (k : Nat) (s : State) : State :=
  match running s k with
  | none => s
  | some (p, _, _, r) =>
    if r.sites.contains k && tileStill s r k then
      hangCheck p (modPart p (fun (a : Part) => { a with still := if a.still.contains k then a.still else a.still ++ [k] }) s)
    else s

/-- STILL (R227, R233): a tile reports that it has become still. The report bears no operation, so its sequence number says nothing. -/
def execCrestStill (h : Head) (_seq : Nat) (s : State) : Out :=
  .next (arriveCtl h 6 (fun s => if fromTile h then tileRests (siteKey h.src.x h.src.y) s else crestDiscard h s) s)

/-- A tile moves again: the hang timer stops (R227). -/
def tileMoves (k : Nat) (s : State) : State :=
  match siteHolder s k with
  | none => s
  | some p =>
    modPart p (fun (a : Part) => { a with still := a.still.filter (fun j => j != k)
                                          hangTimer := if a.current.isSome then none else a.hangTimer }) s

/-- MOVING (R227, R233): a tile reports that it moves again. -/
def execCrestMoving (h : Head) (_seq : Nat) (s : State) : Out :=
  .next (arriveCtl h 6 (fun s => if fromTile h then tileMoves (siteKey h.src.x h.src.y) s else crestDiscard h s) s)

/-- COLLECTED (R231): a tile has written its counters. -/
def execCrestCollected (h : Head) (seq : Nat) (s : State) : Out :=
  .next (arriveCtl h 6 (fun s => if fromTile h then tileAnswered h seq s else crestDiscard h s) s)

/-- Every partition of this wafer in a job group and domain aborts with code 0x42 (R232, R434, R435). -/
def abortGroup (group : BitVec 32) (domain : Nat) (s : State) : State :=
  let ps := (s.parts.filter (fun e => e.2.domain == domain && (e.2.job.map Job.group) == some group)).map Prod.fst
  ps.foldl (fun s p => abortRun p 0x42 s) s

/-- ABORT (R232, R434, R435). -/
def execCrestAbort (h : Head) (group : BitVec 32) (s : State) : Out :=
  .next (arriveCtl h 6 (fun s => if srcIsTile h then crestDiscard h s else abortGroup group h.domain s) s)

/-- The still tile that event 0x185 names: the lowest with a blocked agent, by y and then x, and that agent; else the lowest mapped
tile (R228). -/
def hangNames (s : State) (sites : List Nat) : Nat × Nat × Nat :=
  let low := fun (l : List Nat) => l.foldl (fun (m : Option Nat) k => match m with | none => some k | some j => some (min j k)) none
  match low (sites.filter (fun k => !(blockedBits s k).isEmpty)) with
  | some k =>
    let b := (blockedBits s k).headD (3, 0)
    (k, b.1, b.2)
  | none => ((low sites).getD 0, 0xFF, 0xFF)

/-- HANG_TIMER_EXPIRE (R228, R237, R436): at the hang time, with detection enabled, every mapped tile still and no traffic in flight, event 0x185 is
written and the run aborted; under hang action 1 the partition resets. -/
def execHangTimerExpire (part : Nat) (s : State) : Out :=
  .next (
    match (getPart s part).bind Part.hangTimer with
    | none => s
    | some t =>
      let s := advanceTo (t + setting s 0x2C00 1 * usT) s
      match getPart s part with
      | none => s
      | some a =>
        let sec := (a.current.bind (fun (c : Current) => sectionOf a c.sec)).getD {}
        if setting s 0x2C00 2 ≠ 1 || !(sec.sites.all (tileStill s sec)) || trafficInFlight s part a then
          modPart part (fun (a : Part) => { a with hangTimer := none }) s
        else
          let (k, slot, agent) := hangNames s sec.sites
          let last : Word64 := BitVec.ofNat 64 (siteX k * 2 ^ 48 + siteY k * 2 ^ 32 + slot * 2 ^ 24 + agent * 2 ^ 16)
          let s := modPart part (fun (a : Part) => { a with hangs := sat32 (a.hangs + 1), lastHang := last, hangTimer := none }) s
          let s := raise { evCell s 0x185 1 ⟨siteX k, siteY k, slot⟩ agent with unit := slot } s
          let s := abortRun part 0x41 s
          if setting s 0x2A05 (part + 1) = 1 then beginReset part 4 [] false s else s)

/-! ## Sync commands of hosts (R235) -/

/-- The partition that a sync command acts on: its domain is the packet's, and the job it names is the open one. -/
def syncPart (s : State) (p : Pkt) (h : Hdr) : Option Part :=
  match cmdPart s p h with
  | some a =>
    match a.job with
    | some j => if j.id = h.job then some a else none
    | none => some a
  | none => none

/-- Answers a sync command as an error that changes nothing (R235). -/
def syncError (p : Pkt) (h : Hdr) (s : State) : State := replySync p h 2 0 0 0 0 s

/-- A reference outside the partition's allotment: an error with ACK status 3 and event 0x182 (R220, R235, R236). -/
def syncOutside (p : Pkt) (h : Hdr) (s : State) : State :=
  replySync p h 2 3 0 0 0
    (raise ⟨0x182, 2, 7, (partOfDomain s p.domain).getD 0xFF, 0xFFFF, 0xFFFF, 0xFF, p.domain, p.node, 0, false⟩ s)

/-- A counter command of a host: held in a freeze, else performed and answered (R219 to R221, R231, R235). -/
def hostCtr (op n : Nat) (p : Pkt) (h : Hdr) (c : CtrRef) (self : Instr) (s : State) : State :=
  ingress p self (fun s =>
    match syncPart s p h with
    | none => syncError p h s
    | some _ =>
      match hostKey s h.part c with
      | none => syncOutside p h s
      | some key =>
        if ctrFrozen s key then holdCtr key self s else afterCtr key (performHostCtr op n p h key s)) s

/-- SIGNAL_PRODUCE (R219, R235). -/
def execSignalProduce (p : Pkt) (h : Hdr) (c : CtrRef) (n : BitVec 32) (s : State) : Out :=
  .next (hostCtr 1 n.toNat p h c (.signalProduce p h c n) s)

/-- SIGNAL_CONSUME (R219, R235). -/
def execSignalConsume (p : Pkt) (h : Hdr) (c : CtrRef) (n : BitVec 32) (s : State) : Out :=
  .next (hostCtr 2 n.toNat p h c (.signalConsume p h c n) s)

/-- COUNTER_READ (R219, R235). -/
def execCounterRead (p : Pkt) (h : Hdr) (c : CtrRef) (s : State) : Out := .next (hostCtr 3 0 p h c (.counterRead p h c) s)

/-- COUNTER_BOUND (R219, R220, R235). -/
def execCounterBound (p : Pkt) (h : Hdr) (c : CtrRef) (b : BitVec 16) (s : State) : Out :=
  .next (hostCtr 4 b.toNat p h c (.counterBound p h c b) s)

/-- COUNTER_INIT (R219, R220, R235). -/
def execCounterInit (p : Pkt) (h : Hdr) (c : CtrRef) (s : State) : Out := .next (hostCtr 5 0 p h c (.counterInit p h c) s)

/-- WATCH_SET (R223, R224, R235): a registration beyond the holder's capacity is an error. -/
def execWatchSet (p : Pkt) (h : Hdr) (c : CtrRef) (count : Nat) (v : Count48) (id : BitVec 32) (s : State) : Out :=
  .next (ingress p (.watchSet p h c count v id) (fun s =>
    match syncPart s p h with
    | none => syncError p h s
    | some _ =>
      match hostKey s h.part c with
      | none => syncOutside p h s
      | some key =>
        if count > 1 then syncError p h s
        else
          let w : Watch := { key := key, onC := count == 1, v := v, domain := p.domain, host := some (id, p.node) }
          let full := (s.crest.watches.filter (fun (a : Watch) => ctrHolder a.key == ctrHolder key)).length ≥ watchRoom key
          replySync p h (if full then 2 else 0) 0 0 0 0 (registerWatch w s)) s)

/-- WATCH_CANCEL (R225, R235): with no such watch there is nothing to do. -/
def execHostWatchCancel (p : Pkt) (h : Hdr) (id : BitVec 32) (s : State) : Out :=
  .next (ingress p (.hostWatchCancel p h id) (fun s =>
    match syncPart s p h with
    | none => syncError p h s
    | some _ =>
      let keep := fun (w : Watch) => !(w.host == some (id, p.node) && ctrOwner s w.key == some h.part)
      replySync p h 0 0 0 0 0 { s with crest := { s.crest with watches := s.crest.watches.filter keep } }) s)

/-- DESCRIPTOR_POST (R211, R235): a descriptor for a memory cell of the partition. -/
def execDescriptorPost (p : Pkt) (h : Hdr) (x y : Nat) (w0 w1 w2 w3 : Word32) (s : State) : Out :=
  .next (ingress p (.descriptorPost p h x y w0 w1 w2 w3) (fun s =>
    match syncPart s p h with
    | none => syncError p h s
    | some _ =>
      let k := siteKey x y
      if x < 288 ∧ y < 280 ∧ siteWorks s k ∧ siteHolder s k = some h.part then
        replySync p h 0 0 0 0 0 (postDesc k (readDesc w0 w1 w2 w3) s)
      else syncOutside p h s) s)

/-- The partition of a global operation: its job is open, and no operation of the kind is pending (R235). -/
def globalPart (s : State) (p : Pkt) (h : Hdr) (kind : Nat) : Option Part :=
  match syncPart s p h with
  | some a => if a.job.isSome ∧ !a.hostOps.any (fun (o : HostOp) => o.kind == kind) then some a else none
  | none => none

/-- BARRIER (R229, R235): answered when it releases. -/
def execBarrier (p : Pkt) (h : Hdr) (arrival release : Nat) (v : Count48) (s : State) : Out :=
  .next (ingress p (.barrier p h arrival release v) (fun s =>
    match globalPart s p h 0 with
    | none => syncError p h s
    | some _ =>
      if crestOwner s arrival ≠ some h.part ∨ crestOwner s release ≠ some h.part then syncOutside p h s
      else
        barrierTry h.part (startHostOp h.part
          { kind := 0, node := p.node, tag := h.tag, arrival := arrival, release := release, v := v } s)) s)

/-- A broadcast goes to every other member of the job group, with its counter and amount (R230). -/
def spreadCast (a : Part) (ctr : Nat) (n : BitVec 32) (s : State) : State :=
  match a.job with
  | some j =>
    ((j.members.filter (· != nodeId s)).eraseDups).foldl (fun s m =>
      relay m a.domain 2 a.opSeq (BitVec.ofNat 64 (ctr * 2 ^ 32 + n.toNat)) s) s
  | none => s

/-- BROADCAST (R230, R235): the amount is produced on the named counter of every member; in a freeze it is held here. -/
def execBroadcast (p : Pkt) (h : Hdr) (ctr : Nat) (n : BitVec 32) (s : State) : Out :=
  .next (ingress p (.broadcast p h ctr n) (fun s =>
    match globalPart s p h 1 with
    | none => syncError p h s
    | some a =>
      if crestOwner s ctr ≠ some h.part then syncOutside p h s
      else
        let s := spreadCast a ctr n s
        let s := startHostOp h.part { kind := 1, node := p.node, tag := h.tag, release := ctr } s
        if a.frozen then holdCtr (.crest ctr) (.broadcast p h ctr n) s
        else
          let (st, s) := applyCtr 1 n.toNat (.crest ctr) s
          barrierTry h.part (replySync p h (if st = 0 then 0 else 1) st 0 0 0 (endHostOp h.part 1 s))) s)

/-- SNAPSHOT (R231, R235): answered when it releases. Its region must lie in the overlay. -/
def execSnapshot (p : Pkt) (h : Hdr) (addr : Nat) (s : State) : Out :=
  .next (ingress p (.snapshot p h addr) (fun s =>
    match globalPart s p h 2 with
    | none => syncError p h s
    | some a =>
      if addr % 256 ≠ 0 ∨ addr + 128 + 16 * (crestIndexes s h.part a).length > 2097152 then syncError p h s
      else
        let s := startHostOp h.part { kind := 2, node := p.node, tag := h.tag, addr := addr } s
        let s := (partSites s a).foldl (fun s k =>
          modTile k (fun (t : Tile) => { t with arrivedAt := false }) s) s
        (partSites s a).foldl (fun s k => snapArrive k s) s) s)

/-! ## CREST_RELAY (R233, R272) -/

/-- A RELEASE from another wafer: it releases the pending operation that has sent its arrival, and is otherwise a broadcast, whose
value names counter and amount (R229, R230). -/
def relayedRelease (q seq : Nat) (value : Word64) (s : State) : State :=
  match getPart s q with
  | none => s
  | some a =>
    match a.hostOps.find? (fun (o : HostOp) => o.seq == seq && (o.phase == 1 || o.phase == 4)) with
    | some o => releaseOp q o.kind value s
    | none =>
      let ctr := value.toNat / 2 ^ 32
      let s := modPart q (fun (a : Part) => { a with opSeq := if a.opSeq = seq then (a.opSeq + 1) % 16 else a.opSeq }) s
      if a.job.isSome ∧ crestOwner s ctr = some q then barrierTry q (castHere q ctr (value.toNat % 2 ^ 32) s) else s

/-- CREST_RELAY (R229, R232, R233, R272, R434): a CREST message of another wafer's crest; one from a host is refused. -/
def execCrestRelay (p : Pkt) (w2 w3 w4 : Word32) (origin : Nat) (s : State) : Out :=
  .next (ingress p (.crestRelay p w2 w3 w4 origin) (fun s =>
    if p.node ≥ 12288 then fabricRefused p.node p.domain (BitVec.ofNat 16 (w3.toNat / 2 ^ 16)) s
    else
      let op := w2.toNat / 2 ^ 28
      let seq := w2.toNat / 2 ^ 24 % 16
      let value : Word64 := BitVec.ofNat 64 (w4.toNat * 2 ^ 32 + w3.toNat)
      match op with
      | 6 => abortGroup w3 p.domain s
      | 1 =>
        match partOfDomain s p.domain with
        | some q => memberArrives q seq p.node value s
        | none => s
      | 2 =>
        match partOfDomain s p.domain with
        | some q => relayedRelease q seq value s
        | none => s
      | _ => raise (evPortPkt s 0x115 1 p.port p.domain p.node op) s) s)

end Sys2Proof.Machine
end

