-- ==== Sys2Proof/Machine/MeshFam.lean ====
section
/-!
DEFINITION. The commands of the wafer mesh: multicasts, combining, detour entries, mesh faults and retirements (R179 to R204).
-/

namespace Sys2Proof.Machine

/-- The state that a meaning leaves. -/
def outState (s : State) : Out → State
  | .next t => t
  | _ => s

/-- Discards a packet or message of a reserved type or kind, with event 0x115 (R179, R182). -/
def discardReserved (h : Head) (s : State) : State := raise { evCell s 0x115 1 h.src 0 with domain := h.domain } s

/-! ## Multicast (R194 to R199) -/

/-- The header of the copy for a position: a retired, covered site's goes to its spare (R196). -/
def copyHead (s : State) (h : Head) (pos : Nat) : Head :=
  let k := physical s pos
  { h with dst := ⟨siteX k, siteY k, h.dst.slot⟩ }

/-- A halo region by its number. -/
def haloPart (n : Nat) : HaloPart :=
  match n with
  | 0 => .north
  | 1 => .south
  | 2 => .east
  | 3 => .west
  | 4 => .northEast
  | 5 => .northWest
  | 6 => .southEast
  | _ => .southWest

/-- The inner packet of a data multicast as a command at its target (R197). -/
def innerData (inner : Nat) (h : Head) (data : List Byte) : State → Out :=
  if inner = 1 then execStream h data else execHalo h (haloPart (h.tag.toNat % 8)) data

/-- The message that a multicast command brings (R179, R197). -/
def castMsg (h : Head) (kind x1 y1 : Nat) (mask : Word64) (inner : Nat) (data : List Byte) : MeshMsg :=
  ⟨h, false, kind, (if kind = 5 then leBytes 2 x1 ++ leBytes 2 y1 ++ leBytes 4 0 else leBytes 8 mask.toNat) ++ leBytes 8 inner ++ data⟩

/-- The routers through which the copy for a tile goes, from the root of the tree: along the root's row, then along the tile's column;
a router that is off is passed by sidestep (R194, R196). -/
def castBranch (s : State) (root pos : Nat) : List Nat :=
  (lineOf (fun x => siteKey x (siteY root)) (siteX root) (siteX pos) ++
   lineOf (siteKey (siteX pos)) (siteY root) (siteY pos)).filter (fun k => !siteAbsent s k)

/-- The side by which a tile of a multicast's tree gets its copy: from the row of the root, or from the tile before it in the row. -/
def castSide (root k : Nat) : Nat :=
  if siteY k > siteY root then 2 else if siteY k < siteY root then 0 else if siteX k > siteX root then 3 else 1

/-- A branch waits: a router on it has faulted, or does not take the copy into its buffer (R177, R198, R204). -/
def branchWaits (s : State) (m : MeshMsg) (root pos : Nat) : Bool :=
  (castBranch s root pos).any (fun k =>
    (getTile s k).routerOff || !takesIn s { msg := m, site := k, port := castSide root k })

/-- The root of a multicast's tree (R194). -/
def rootOf (s : State) (m : MeshMsg) : Nat := goalOf s m

/-- The target of a position takes its copy, or refuses it, and the acknowledgement counts it (R180, R196, R199). -/
def castCopy (c : Cast) (pos : Nat) (acc : Nat × Nat × State) : Nat × Nat × State :=
  let s := acc.2.2
  let h := copyHead s c.head pos
  let ok := delivers s h
  (acc.1 + (if ok then 1 else 0), acc.2.1 + (if ok then 0 else 1), outState s (innerData c.inner h c.data s))

/-- Every target of a multicast has answered: the replicating routers have added the acknowledgements of their branches, and one
MCAST_ACK goes to the source. Those of two multicasts of a source with the same tag are added together (R199). -/
def castDone (c : Cast) (s : State) : State :=
  let s := crossed c.head false c.kind s
  let twin := fun (d : Cast) => d.head.src == c.head.src && d.head.tag == c.head.tag
  if s.mesh.casts.any twin then
    { s with mesh := { s.mesh with casts := s.mesh.casts.map (fun d =>
        if twin d then { d with delivered := d.delivered + c.delivered, refused := d.refused + c.refused } else d) } }
  else send ⟨⟨c.head.dst, c.head.src, 0, c.head.domain, c.head.tag⟩, false, 9, leBytes 2 c.delivered ++ leBytes 2 c.refused ++ leBytes 4 0⟩ s

/-- The branches of a multicast that do not wait take their copies; the packet stays in its buffer until every branch has taken its
own (R198). -/
def castGo (m : MeshMsg) (c : Cast) (s : State) : State :=
  let root := rootOf s m
  let (wait, go) := c.left.partition (branchWaits s m root)
  let (d, r, s) := go.foldl (fun acc pos => castCopy c pos acc) (c.delivered, c.refused, s)
  let c := { c with left := wait, delivered := d, refused := r }
  if wait.isEmpty then castDone c s else { s with mesh := { s.mesh with casts := s.mesh.casts ++ [c] } }

/-- A multicast begins to spread (R194 to R199): its copies go to the served positions that it selects. -/
def castStart (m : MeshMsg) (inner : Nat) (data : List Byte) (s : State) : State :=
  if inner ≠ 1 ∧ inner ≠ 2 then discardReserved m.head (crossed m.head false m.kind s)
  else
    let ks := match castArea m with
      | some (_, _, _, _, ks) => ks.filter (served s)
      | none => []
    castGo m { head := m.head, kind := m.kind, inner := inner, data := data, left := ks, since := now s } s

/-- The packet of a multicast whose branches wait. -/
def castPacket (s : State) (c : Cast) : MeshMsg :=
  ((inMesh s).find? (isMsg c.head false c.kind)).getD ⟨c.head, false, c.kind, leBytes 8 0 ++ leBytes 8 c.inner ++ c.data⟩

/-- The multicasts with branches that wait try again (R198). -/
def castAgain (s : State) : State :=
  s.mesh.casts.foldl (fun s c => castGo (castPacket s c) c { s with mesh := { s.mesh with casts := s.mesh.casts.erase c } }) s

/-- MCAST_RECT (R194, R196 to R199). -/
def execMcastRect (h : Head) (x1 y1 inner : Nat) (data : List Byte) (s : State) : Out :=
  .next (castStart (castMsg h 5 x1 y1 0 inner data) inner data s)

/-- MCAST_MASK (R195 to R199): bit dy × 8 + dx selects the position (x + dx, y + dy). -/
def execMcastMask (h : Head) (mask : Word64) (inner : Nat) (data : List Byte) (s : State) : Out :=
  .next (castStart (castMsg h 6 0 0 mask inner data) inner data s)

/-- MCAST_ACK (R199, R210): the source learns how many copies were delivered and refused. -/
def execMcastAck (h : Head) (delivered refused : Nat) (s : State) : Out :=
  .next (arriveData h 9 (modTile (dstSite h) (fun (t : Tile) =>
    { t with acks := t.acks ++ [(h.dst.slot, h.tag.toNat, delivered, refused)] })) s)

/-- MCAST_STALL (R198, R206): a branch has waited for longer than the stall report time; the router at (x, y) writes one event that
names the target that stalls, and the branch keeps waiting. -/
def execMcastStall (_x _y : Nat) (stalled : CellRef) (domain : Nat) (s : State) : Out :=
  .next (
    let stands := fun (c : Cast) =>
      c.head.domain == domain && !c.noted && c.left.any (fun pos => physical s pos == siteKey stalled.x stalled.y)
    match s.mesh.casts.find? stands with
    | none => s
    | some c =>
      let s := advanceTo (c.since + setting s 0x2B00 8 * usT) s
      let s := { s with mesh := { s.mesh with casts := s.mesh.casts.map (fun d => if d = c then { d with noted := true } else d) } }
      raise { evCell s 0x11B 1 stalled 0 with domain := domain } s)

/-- A word of an inner message, counted from its word 2. -/
def innerWord (words : List Word32) (i : Nat) : Nat := (words.getD i 0).toNat

/-- Reads a cell and target as R222 and R226 pack them. -/
def readCell (w : Nat) : CellRef × Nat := (⟨bitsOf w 31 23, bitsOf w 22 14, bitsOf w 13 12⟩, bitsOf w 11 7)

/-- Reads the fields of a COUNTER message (R222). -/
def readCtr (words : List Word32) : CtrMsg :=
  let w := innerWord words 0
  let c := readCell (innerWord words 2)
  ⟨bitAt w 27, bitsOf w 26 13, bitAt w 12, c.1, c.2⟩

/-- Reads the fields of a WATCH message (R226). -/
def readWatch (words : List Word32) : WatchMsg :=
  let w := innerWord words 0
  let c := readCell (innerWord words 3)
  ⟨bitAt w 27, bitsOf w 26 13, bitAt w 12, BitVec.ofNat 48 (innerWord words 1 + bitsOf (innerWord words 2) 15 0 * 2 ^ 32), c.1, c.2⟩

/-- The inner COUNTER message of a multicast (R219, R222). -/
def innerCtr (h : Head) (words : List Word32) (s : State) : State :=
  let m := readCtr words
  let n := innerWord words 1
  match innerWord words 0 / 2 ^ 28 with
  | 1 => outState s (execCtrProduce h m (BitVec.ofNat 32 n) s)
  | 2 => outState s (execCtrConsume h m (BitVec.ofNat 32 n) s)
  | 3 => outState s (execCtrRead h m s)
  | 4 => outState s (execCtrBound h m (BitVec.ofNat 16 n) s)
  | 5 => outState s (execCtrInit h m s)
  | 8 => outState s (execCtrAck h m (bitsOf (innerWord words 0) 11 8) s)
  | _ => s

/-- The inner WATCH message of a multicast (R226). -/
def innerWatch (h : Head) (words : List Word32) (s : State) : State :=
  let m := readWatch words
  match innerWord words 0 / 2 ^ 28 with
  | 1 => outState s (execWatchRegister h m s)
  | 2 => outState s (execWatchCancel h m s)
  | 3 => outState s (execWatchNotify h m (bitsOf (innerWord words 0) 11 8) s)
  | _ => s

/-- The inner CREST message of a multicast (R182, R233). -/
def innerCrest (h : Head) (words : List Word32) (s : State) : State :=
  let w := innerWord words 0
  let seq := bitsOf w 27 24
  let v := BitVec.ofNat 64 (innerWord words 2 * 2 ^ 32 + innerWord words 1)
  match w / 2 ^ 28 with
  | 1 => outState s (execCrestArrive h seq v s)
  | 2 => outState s (execCrestRelease h seq v s)
  | 3 => outState s (execCrestStill h seq s)
  | 4 => outState s (execCrestMoving h seq s)
  | 5 => outState s (execCrestCollected h seq s)
  | 6 => outState s (execCrestAbort h (v.setWidth 32) s)
  | _ => s

/-- The inner SECTION message of a multicast: the crest units start, and stop, the tiles of a run (R158, R161, R182); one of any other
sender is discarded (log 96). -/
def innerSection (h : Head) (code : Nat) (s : State) : State :=
  if h.src.x ≠ ringXY then discardReserved h s
  else
    match code with
    | 0 => outState s (execSectionStart h.dst.x h.dst.y s)
    | 2 => outState s (execSectionAbort h.dst.x h.dst.y s)
    | _ => s

/-- The inner message of a control multicast at one target (R182). -/
def innerCtl (kind : Nat) (h : Head) (words : List Word32) (s : State) : State :=
  let w := innerWord words 0
  match kind with
  | 1 => outState s (execToken h (bitsOf w 31 19) (bitsOf w 18 4) s)
  | 2 => outState s (execCredit h s)
  | 3 => outState s (execTuple h words s)
  | 4 => innerCtr h words s
  | 5 => innerWatch h words s
  | 6 => innerCrest h words s
  | 7 => innerSection h (w % 256) s
  | _ => discardReserved h s

/-- MCAST (R182, R194): a control message to every served position of a rectangle. -/
def execMcastControl (h : Head) (x1 y1 inner : Nat) (words : List Word32) (s : State) : Out :=
  .next (
    let m : MeshMsg := ⟨h, true, 8, leBytes 4 (x1 * 2 ^ 23 + y1 * 2 ^ 14 + inner * 2 ^ 10)⟩
    let s := crossed h true 8 s
    if inner = 0 ∨ inner > 7 then discardReserved h s
    else
      match castArea m with
      | some (_, _, _, _, ks) => (ks.filter (served s)).foldl (fun s pos => innerCtl inner (copyHead s h pos) words s) s
      | none => s)

/-! ## Combining (R200 to R203, R213 to R216) -/

/-- COMBINE (R201, R214): a piece, into which routers may have combined others, reaches its home. -/
def execCombine (h : Head) (pre : CombinePrefix) (elems : List Word32) (s : State) : Out :=
  .next (arriveData h 7 (fun s =>
    let s := mergedAway h pre elems.length pre.count (pre.count - 1) s
    if h.dst.slot = 3 ∧ h.target < 4 then
      atRunning (dstSite h) (some (.combine h pre elems)) (combineIn h pre elems) s
    else s) s)

/-! ## Mesh faults (R179, R182, R188, R204) -/

/-- FAIL_NOTICE (R180, R204, R290): the issuer of a memory request learns that a packet of it was lost. -/
def execFailNotice (h : Head) (reason _lostType reqId : Nat) (s : State) : Out :=
  .next (if dstIsTile h then arriveData h 10 (cellLost (dstSite h) reqId reason) s else ringLost reqId reason (crossed h false 10 s))

/-- RESERVED_PACKET_TYPE (R179): the first router that reads it discards it, with event 0x115. -/
def execReservedPacketType (_x _y : Nat) (h : Head) (type : Nat) (s : State) : Out :=
  .next (if [1, 2, 3, 4, 5, 6, 7, 9, 10].contains type then s else discardReserved h s)

/-- RESERVED_CONTROL_KIND (R182): discarded, with event 0x115. -/
def execReservedControlKind (_x _y : Nat) (h : Head) (kind : Nat) (s : State) : Out :=
  .next (if 1 ≤ kind ∧ kind ≤ 9 then s else discardReserved h s)

/-- A ROUTE message to a router leaves the mesh. -/
def landRoute (k : Nat) (s : State) : State :=
  leaveMesh (fun m => m.control && m.kind == 9 && dstSite m.head == k) s

/-- ROUTE (R182, R188): the router takes the detour entries of the active controller; from any other agent the message is discarded
with event 0x11C. -/
def execRouteWrite (sender : Option Ctl) (x y : Nat) (entries : List (Dir × Dir)) (s : State) : Out :=
  .next (
    let k := siteKey x y
    if sender.isSome ∧ sender = s.lease.owner then
      let table : AMap Nat := entries.foldl (fun m e => amSet m (dirNum e.1) (dirNum e.2)) []
      let s := modTile k (fun (t : Tile) => { t with detours := table }) (landRoute k s)
      if routesLanded s then latchEdges s else s
    else raise (evCell s 0x11C 1 ⟨x, y, 3⟩ 0) s)

/-- A discarded unit: the issuer of a memory request gets a FAIL_NOTICE, and any other packet or message aborts the run of the
partition that owns its domain with code 0x40 (R204). -/
def unitLost (k reason : Nat) (u : LostUnit) (s : State) : State :=
  let s := land u.head u.control u.kind s
  let here := cellAt k 3
  if !u.control ∧ u.kind = 3 then sendNotice here u.head.src u.head.domain u.reqId reason 3 s
  else if !u.control ∧ u.kind = 4 then sendNotice here u.head.dst u.head.domain u.reqId reason 4 s
  else
    match partOfDomain s u.head.domain with
    | some p => abortRun p 0x40 s
    | none => s

/-- FLIT_ERROR (R174, R191, R204, R206): the packet or message with the corrupted flit or word is discarded, with event 0x111, and
the error counts toward the tile's retirement. A single-bit error is corrected and counted. -/
def execFlitError (x y : Nat) (u : Option LostUnit) (s : State) : Out :=
  .next (
    let k := siteKey x y
    match u with
    | none => countCorrected k s
    | some u => noteUncorrected k (unitLost k 1 u (raise (evCell s 0x111 1 ⟨x, y, 3⟩ 0) s)))

/-- The run of the partition that holds a faulty router's tile is aborted, which closes the job (R161, R192). -/
def closeAround (k : Nat) (s : State) : State :=
  match siteHolder s k with
  | some p => abortRun p 0x40 s
  | none => s

/-- ROUTER_FAULT (R191, R192, R204): what the faulty router holds is discarded, with event 0x112, its neighbours treat it as off, and
its tile is retired straight away, for the abort that follows closes the job. -/
def execRouterFault (x y : Nat) (held : List LostUnit) (s : State) : Out :=
  .next (
    let k := siteKey x y
    let s := raise (evCell s 0x112 1 ⟨x, y, 3⟩ 0) (modTile k (fun (t : Tile) => { t with routerOff := true }) s)
    retire k (closeAround k (held.foldl (fun s u => unitLost k 2 u s) s)))

/-- RETIREMENT (R192, R193): a pending retirement whose partition holds no open job any more takes place. -/
def execRetirement (x y : Nat) (s : State) : Out :=
  .next (
    let k := siteKey x y
    if s.mesh.pendingRet.contains k && !siteBusy s k then retireNow k s else s)

end Sys2Proof.Machine
end

