-- ==== Sys2Proof/Machine/MgmtFam.lean ====
section
/-!
DEFINITION. The commands of EtherCAT, the lease, events, objects over the fabric, sleep and wake (R393 to R421).
-/

namespace Sys2Proof.Machine

/-! ## EtherCAT (R393 to R395) -/

/-- The forwarding path works: standby power is on, and it has not been reset by a loss of it (R393, R430). -/
def forwards (s : State) : Bool := s.power.standby && (s.pilot.step ≥ 2 || s.pilot.resetDetail == 1)

/-- ETHERCAT_FRAME (R393): a frame from port 0 leaves by port 1, or returns where port 1 has no link; one from port 1 leaves by
port 0. -/
def execEthercatFrame (port : Nat) (s : State) : Out :=
  .next (
    if forwards s then
      let out := if port = 0 ∧ s.pilot.link1 then 1 else 0
      { s with pilot := { s.pilot with frames := s.pilot.frames ++ [out] } }
    else s)

/-- ETHERCAT_LINK_CHANGE (R415, R419): event 0x38F with port and state; a link up is wake source 92. -/
def execEthercatLinkChange (port : Nat) (up : Bool) (s : State) : Out :=
  .next (
    if port > 1 then s
    else
      let s := { s with pilot := if port = 0 then { s.pilot with link0 := up } else { s.pilot with link1 := up } }
      let s := raise (evPilot 0x38F 0 (port + (if up then 256 else 0))) s
      if up then wakeFire [92] s else s)

/-- ESM_STATE_CHANGE (R394). -/
def execEsmStateChange (state : Nat) (s : State) : Out :=
  .next (if state < 4 ∧ forwards s then { s with pilot := { s.pilot with esm := state } } else s)

/-- The answer of the SDO Information service: the index, and for each row of its table first and last subindex, type code,
length and access (R394; the form is the model's, log 29). -/
def objectInfo (index : Nat) : List Byte :=
  leBytes 2 index ++ (allObjs.filter (fun o => o.index == index)).flatMap (fun o =>
    [BitVec.ofNat 8 o.first, BitVec.ofNat 8 o.last, BitVec.ofNat 8 o.ty] ++ leBytes 2 o.len ++
    [BitVec.ofNat 8 (match o.acc with | .ro => 0 | .rw => 1 | .rwp => 2 | .wo => 3)])

/-- SDO_INFORMATION (R394). -/
def execSdoInformation (index : Nat) (s : State) : Out :=
  .next (
    if s.pilot.esm = 0 ∨ !mailboxServed s then s
    else if indexExists index then sdoReply 0 (objectInfo index) s
    else sdoReply 0x06020000 [] s)

/-- UNSUPPORTED_MAILBOX_REQUEST (R394): abort 0x0601_0000, or the mailbox error for an unsupported protocol, whose number 2 is
that of the EtherCAT mailbox (PRESUMED, log 29). -/
def execUnsupportedMailboxRequest (coe : Bool) (s : State) : Out :=
  .next (if s.pilot.esm = 0 then s else sdoReply (if coe then 0x06010000 else 2) [] s)

/-- REGISTER_WRITE (R396, R398): an SDO write. -/
def execRegisterWrite (index sub : Nat) (value : List Byte) (s : State) : Out := .next (sdoWrite index sub value s)

/-! ## The lease (R401 to R406) -/

/-- LEASE_RENEWAL (R402): accepted from the owner with the current epoch; any other controller that renews goes standby, with event
0x389. -/
def execLeaseRenewal (c : Ctl) (epoch : BitVec 32) (s : State) : Out :=
  .next (
    if s.lease.owner = some c ∧ epoch = s.lease.epoch then restartLease s
    else
      let sb := if s.lease.owner ≠ some c ∧ s.lease.standby = .absent then StandbyState.booting else s.lease.standby
      raise (evCtl 0x389 1 c 0) { s with lease := { s.lease with standby := sb } })

/-- LEASE_EXPIRY (R402): the countdown reaches 0; the lease moves to a controller that has reported ready in the last 2 ms, with
event 0x386, and else starts again. -/
def execLeaseExpiry (s : State) : Out :=
  .next (
    match s.lease.owner with
    | none => s
    | some c =>
      let s := advanceTo s.lease.deadline s
      if readyLately s (otherCtl c) then
        let s := changeOwner (otherCtl c) s
        let s := { s with lease := { s.lease with standby := .absent } }
        raise (evPilot 0x386 1 s.lease.epoch.toNat) s
      else restartLease s)

/-- READY_REPORT (R403): a running controller without the lease reports ready, naming the epoch that it has read; before the
first grant the report is a claim. -/
def execReadyReport (c : Ctl) (epoch : BitVec 32) (s : State) : Out :=
  .next (
    let k := getCtl c s
    if !k.booted || epoch != s.lease.epoch || s.lease.owner == some c then s
    else
      let t := now s
      match s.lease.owner with
      | none =>
        let s := modCtl c (fun k => { k with claimed := true, readyAt := some t }) s
        { s with lease := { s.lease with claimSince := some (s.lease.claimSince.getD t) } }
      | some _ =>
        let sb := if (s.settings.trial.map Prod.fst) = some c then StandbyState.trial else .ready
        modCtl c (fun k => { k with readyAt := some t }) { s with lease := { s.lease with standby := sb } })

/-- The first grant (R403): event 0x385, with detail 1 where the strap decided; the loser stands by with event 0x388. -/
def firstGrant (c : Ctl) (both : Bool) (s : State) : State :=
  let s := changeOwner c s
  let s := { s with ledger := { s.ledger with leaseMoved := false } }
  let s := raise (evPilot 0x385 0 (if both then 1 else 0)) s
  if both then raise (evCtl 0x388 1 (otherCtl c) 0) { s with lease := { s.lease with standby := .ready } } else s

/-- CLAIM_WINDOW_EXPIRE (R403): 100 ms after the first claim the lease is granted, and the power-up sequence goes on. -/
def execClaimWindowExpire (s : State) : Out :=
  .next (
    match s.lease.owner, s.lease.claimSince with
    | none, some t =>
      let s := advanceTo (t + 100 * msT) s
      let both := s.cope.claimed && s.drag.claimed
      let c := if both then s.ident.strap else if s.drag.claimed then .drag else .cope
      advanceUp (firstGrant c both s)
    | _, _ => s)

/-- PASS_LEASE (R405): a write of 0x2720:04. -/
def execPassLease (via : Via) (value : Nat) (s : State) : Out := .next (viaNum (.passLease via value) via 0x2720 4 1 value s)

/-! ## Events (R407 to R414) -/

/-- EVENT_REQUEST (R407). -/
def execEventRequest (r : EvReq) (s : State) : Out := .next (raise r s)

/-- EVENT_SELECT (R408). -/
def execEventSelect (s : State) : Out := .next (selectEvent s)

/-- EVENT_CLAIM (R408 to R412). -/
def execEventClaim (s : State) : Out := .next (claimEvent s)

/-- EVENT_READ, once delivered (R413, R414, R467). -/
def eventData (p : Pkt) (h : Hdr) (first : BitVec 32) (wanted : Nat) (s : State) : State :=
  let w := fabricAsker s p.domain
  if wanted = 0 ∨ wanted > 127 ∨ !headerOk w h then mgmtReply p h 2 0 0 0 0 0 [] s
  else
    let rs := (visible w.own h.part (recordsFrom s.events.queue first)).take wanted
    let next := match rs.getLast? with
      | some r => nextSeqNo r.seq
      | none => first
    sendPkt p.node p.domain 0x5E
      (leBytes 2 h.tag.toNat ++ [BitVec.ofNat 8 rs.length, 0] ++ leBytes 4 next.toNat ++ rs.flatMap recBytes) s

/-- EVENT_READ (R414). -/
def execEventRead (p : Pkt) (h : Hdr) (first : BitVec 32) (wanted : Nat) (s : State) : Out :=
  .next (ingress p (.eventRead p h first wanted) (eventData p h first wanted) s)

/-- The queue's figures for a requester: oldest and newest sequence, records held and records lost (R414). -/
def queueFigures (w : Asker) (part : Nat) (s : State) : Nat × Nat × Nat × Nat :=
  match w.own with
  | none =>
    ((s.events.queue.head?.map (fun r => r.seq.toNat)).getD 0, s.events.newest.toNat, s.events.queue.length, sat32 s.events.lost)
  | some _ =>
    let rs := visible w.own part s.events.queue
    ((rs.head?.map (fun r => r.seq.toNat)).getD 0, (rs.getLast?.map (fun r => r.seq.toNat)).getD 0, rs.length, 0)

/-- MGMT_REPLY with the queue's figures (R414). -/
def figuresReply (p : Pkt) (h : Hdr) (s : State) : State :=
  let f := queueFigures (fabricAsker s p.domain) h.part s
  mgmtReply p h 0 0 f.1 f.2.1 f.2.2.1 f.2.2.2 [] s

/-- EVENT_ACK (R414): only the operator acknowledges, and only a sequence number that the queue holds. -/
def execEventAck (p : Pkt) (h : Hdr) (seq : BitVec 32) (s : State) : Out :=
  .next (ingress p (.eventAck p h seq) (fun s =>
    if p.domain = mgmtDomain s then
      let (ok, s) := ackEvents seq s
      if ok then figuresReply p h s else mgmtReply p h 2 0 0 0 0 0 [] s
    else mgmtReply p h 2 0 0 0 0 0 [] s) s)

/-- EVENT_STATUS (R414). -/
def execEventStatus (p : Pkt) (h : Hdr) (s : State) : Out :=
  .next (ingress p (.eventStatus p h) (fun s =>
    if headerOk (fabricAsker s p.domain) h then figuresReply p h s else mgmtReply p h 2 0 0 0 0 0 [] s) s)

/-- OBJECT_READ (R399, R414). -/
def execObjectRead (p : Pkt) (h : Hdr) (index sub : Nat) (s : State) : Out :=
  .next (ingress p (.objectRead p h index sub) (fabricRead p h index sub) s)

/-- OBJECT_WRITE (R399, R414). -/
def execObjectWrite (p : Pkt) (h : Hdr) (index sub : Nat) (value : List Byte) (s : State) : Out :=
  .next (ingress p (.objectWrite p h index sub value) (fabricWrite p h index sub value) s)

/-! ## Sleep and wake (R418 to R421) -/

/-- SLEEP_REQUEST (R418): a write of 0x2731:01. -/
def execSleepRequest (via : Via) (value : Nat) (s : State) : Out := .next (viaNum (.sleepRequest via value) via 0x2731 1 1 value s)

/-- SLEEP_COMPLETE (R418, R420). -/
def execSleepComplete (s : State) : Out := .next (sleepDone s)

/-- WAKE_SOURCE (R419, R420). -/
def execWakeSource (sources : List Nat) (s : State) : Out := .next (wakeFire sources s)

/-- WAKE_REQUEST (R419): a write of 0x2731:02. -/
def execWakeRequest (via : Via) (value : Nat) (s : State) : Out := .next (viaNum (.wakeRequest via value) via 0x2731 2 1 value s)

/-- The reference runs until the time of day has reached a value (R297). -/
def toTod (v : Nat) (s : State) : State := addCycles (((v - s.time.tod.toNat) * 10 - s.time.todTenths + 63) / 64) s

/-- ALARM (R419): the time of day reaches an alarm time that is set. -/
def execAlarmFire (n : Nat) (s : State) : Out :=
  .next (
    let v := setting s 0x2732 (n + 1)
    if n < 8 ∧ v ≠ 0 then wakeFire [80 + n] (toTod v s) else s)

end Sys2Proof.Machine
end

