-- ==== Sys2Proof/Machine/PinFam.lean ====
section
/-!
DEFINITION. The commands of the sideband pins (R457 to R461).
-/

namespace Sys2Proof.Machine

/-- SIDEBAND_FUNCTION_WRITE (R458): a write of 0x4000. -/
def execSidebandFunctionWrite (via : Via) (pin value : Nat) (s : State) : Out :=
  .next (viaNum (.sidebandFunctionWrite via pin value) via 0x4000 (pin + 1) 1 value s)

/-- SIDEBAND_INPUT_CHANGE (R457, R458): a pin is sampled with a level at a reference edge; its wake edges fire (R419). -/
def execSidebandInputChange (pin : Nat) (level : Bool) (s : State) : Out :=
  .next (
    if pin < 8 then
      let (ns, s) := pinSample pin level s
      wakeFire ns s
    else s)

/-- SYNC_PULSE_END (R457, R459): a sync-out pulse ends. -/
def execSyncPulseEnd (pin : Nat) (s : State) : Out := .next (if pin < 8 then syncEnd pin s else s)

end Sys2Proof.Machine
end

