-- ==== Sys2Proof/Machine/PowerFam.lean ====
section
/-!
DEFINITION. The commands of the HV side, the field supplies, the budget and the coolant (R312 to R342).
-/

namespace Sys2Proof.Machine

/-- HV_BAND_CHANGE (R312): the voltage moves to another band; the warning band writes event 0x000 on entry, and the operating
band is wake source 88 (R419). -/
def execHvBandChange (volts : Nat) (s : State) : Out :=
  .next (
    let old := s.power.band
    let band : HvBand :=
      if 680 ≤ volts ∧ volts ≤ 920 then .operating else if 650 ≤ volts ∧ volts ≤ 950 then .warning else .outOfRange
    let s := { s with power := { s.power with volts := volts, band := band } }
    let s := if band = .warning ∧ old ≠ .warning then raise (evCtl 0x000 0 (activeCtl s) 0) s else s
    advanceUp (if band = .operating ∧ old ≠ .operating then wakeFire [88] s else s))

/-- HV_OUT_OF_RANGE (R312): out of range for 100 µs, every bus converter stops, with event 0x001 and a wafer reset. -/
def execHvOutOfRange (volts : Nat) (s : State) : Out :=
  .next (
    if 650 ≤ volts ∧ volts ≤ 950 then s
    else
      let s := { s with power := { s.power with volts := volts, band := .outOfRange, present := false, wasOut := true, running := 0
                                                busGood := false } }
      waferReset 1 (raise (evCtl 0x001 1 (activeCtl s) 0) s))

/-- HV_PRESENT (R312): HV has stayed in the operating band for 100 ms. -/
def execHvPresent (s : State) : Out :=
  .next (
    if s.power.band = .operating ∧ !s.power.present then
      let was := s.power.wasOut
      let s := { s with power := { s.power with present := true, wasOut := false } }
      advanceUp (if was then raise (evCtl 0x002 0 (activeCtl s) 0) s else s)
    else s)

/-- CONVERTER_FAULT (R314): a running converter stops, with event 0x003; with fewer than four running, a wafer reset. -/
def execConverterFault (index : Nat) (s : State) : Out :=
  .next (
    if index < 8 ∧ s.power.running.getLsbD index then
      let bit : BitVec 8 := BitVec.ofNat 8 (2 ^ index)
      let s := { s with power := { s.power with running := s.power.running &&& ~~~bit, faults := s.power.faults ||| bit } }
      checkConverters (raise (evCtl 0x003 1 (activeCtl s) 0) s)
    else s)

/-- BUS_UNDERVOLTAGE (R316): the 54 V bus has stayed below 44 V for 1 ms, with event 0x00C and a wafer reset. -/
def execBusUndervoltage (millivolts : Nat) (s : State) : Out :=
  .next (
    let s := { s with power := { s.power with busMv := millivolts } }
    if millivolts < 44000 ∧ s.power.running ≠ 0 then
      waferReset 4 (raise (evCtl 0x00C 1 (activeCtl s) 0) { s with power := { s.power with busGood := false } })
    else s)

/-- BUS_REGULATION_REACHED (R428): the 54 V bus is in regulation, and the power-up sequence goes on. -/
def execBusRegulationReached (s : State) : Out :=
  .next (
    if s.power.running = 0 then s
    else advanceUp { s with power := { s.power with busGood := true, busMv := 54000 } })

/-- REGULATOR_REPORT (R318): a powered stack's voltage, current, power and energy count. -/
def execRegulatorReport (field millivolts milliamps watts : Nat) (energy : Word64) (s : State) : Out :=
  .next (
    if field < 56 ∧ (getFld s field).powered then
      modFld field (fun x => { x with millivolts := millivolts, milliamps := milliamps, watts := watts, delivered := energy
                                      reports := x.reports + 1 }) s
    else s)

/-- FIELD_SUPPLY_FAULT (R319). -/
def execFieldSupplyFault (field : Nat) (s : State) : Out :=
  .next (if field < 56 ∧ (getFld s field).powered then supplyFault field s else s)

/-- ATTRIBUTION_INTERVAL (R320 to R324, R326, R327, R333): the credits of a 1 ms interval, the peak allowance, and the two 1 ms
power-step checks. -/
def execAttributionInterval (average ring standby : Nat) (s : State) : Out :=
  .next (
    let s := { s with power := { s.power with average := average, ringEnergy := ring, standbyEnergy := s.power.standbyEnergy + standby
                                              standbyWatts := standby / 1000 } }
    let s := bookCredits ((List.range 56).foldl (fun s f => attributeField f s) s)
    let s := allowanceStep s
    if average > drawLimit s then addPowerStep s
    else if 100 * average < 98 * drawLimit s ∧ (List.range 56).any (fun f => (getFld s f).eSteps > 0) then dropPowerStep s
    else s)

/-- CLAMP_END (R327). -/
def execClampEnd (s : State) : Out := .next (if s.power.clamped then clampOver (advanceTo s.power.clampEnds s) else s)

/-- SHARE_PUBLISH (R324, R331, R333, R383). -/
def execSharePublish (sample : Nat) (s : State) : Out := .next (publish sample s)

/-- CURRENT_LIMIT (R328): a converter begins to limit its current, with event 0x004. -/
def execCurrentLimit (s : State) : Out :=
  .next (
    if s.power.limiting ∨ s.power.running = 0 then s
    else raise (evCtl 0x004 1 (activeCtl s) 0) { s with power := { s.power with limiting := true } })

/-- CURRENT_LIMIT_TIMEOUT (R328): the limit has been held for 100 ms, and the converters stop: a wafer reset. -/
def execCurrentLimitTimeout (s : State) : Out :=
  .next (
    if s.power.limiting then waferReset 3 { s with power := { s.power with limiting := false, running := 0, busGood := false } } else s)

/-- SENSOR_SAMPLE (R334, R335). -/
def execSensorSample (field : Nat) (readings : List Int) (s : State) : Out := .next (if field < 56 then sampleField field readings s else s)

/-- THERMAL_PERIOD (R334). -/
def execThermalPeriod (s : State) : Out := .next (thermalStep s)

/-- COOLANT_SAMPLE (R337 to R339): inlet, outlet and flow, the coolant value of S, and wake source 89 (R419). -/
def execCoolantSample (inlet outlet : Int) (flow : Nat) (s : State) : Out :=
  .next (
    let bad := s.power.inlet > 450 || s.power.flow < 200
    let v := coolantValue inlet flow
    let wasDerated := s.power.derating
    let wasCold := s.power.cold
    let s := { s with power := { s.power with inlet := inlet, outlet := outlet, flow := flow, coolantS := v, derating := v < 30000
                                              cold := inlet < 200 } }
    let s := if v < 30000 ∧ !wasDerated then raise (evCtl 0x045 1 (activeCtl s) 0) s
             else if v ≥ 30000 ∧ wasDerated then raise (evCtl 0x046 0 (activeCtl s) 0) s else s
    let s := if inlet < 200 ∧ !wasCold then raise (evCtl 0x048 1 (activeCtl s) 0) s else s
    let s := if bad ∧ inlet ≤ 450 ∧ flow ≥ 200 then wakeFire [89] s else s
    advanceUp s)

/-- COOLING_FAULT (R338): the inlet above 45 °C or the flow below 20 L/min for 5 s, with event 0x047 and a wafer reset. -/
def execCoolingFault (s : State) : Out :=
  .next (
    if s.power.inlet > 450 ∨ s.power.flow < 200 then waferReset 5 (raise (evCtl 0x047 1 (activeCtl s) 0) s) else s)

/-- RESERVATION_WRITE (R330): a write of 0x2210 or 0x2211. -/
def execReservationWrite (via : Via) (weight : Bool) (part value : Nat) (s : State) : Out :=
  .next (
    if weight then viaNum (.reservationWrite via weight part value) via 0x2211 (part + 1) 1 value s
    else viaNum (.reservationWrite via weight part value) via 0x2210 (part + 1) 4 value s)

end Sys2Proof.Machine
end

