-- ==== Sys2Proof/Machine/SecurityFam.lean ====
section
/-!
DEFINITION. The commands of partitions, keys, permits and sessions (R365 to R392).
-/

namespace Sys2Proof.Machine

/-- A write that a permit has carried, in the object's range, takes its effect (R385 status 7 and 0); a refusal leaves only the
owning chapter's event. The permit's own status, event and nonce belong to PERMIT_SUBMISSION (log 28). -/
def grant (r : Role) (index sub : Nat) (bs : List Byte) (s : State) : State :=
  match findObj index sub with
  | none => s
  | some o =>
    if entryMissing s o sub ∨ (o.ty < 8 ∧ !inRange s o sub (leNat bs)) then s
    else
      let (ok, t) := permitted r index sub bs s
      if ok then noteWrite o sub t else t

/-- PARTITION_CREATE (R370). -/
def execPartitionCreate (value : Word32) (s : State) : Out := .next (grant .operator 0x2400 1 (leBytes 4 value.toNat) s)

/-- PARTITION_DELETE (R371). -/
def execPartitionDelete (part : Nat) (s : State) : Out := .next (if part < 56 then grant .operator 0x2400 2 (leBytes 1 part) s else s)

/-- SCRUB_COMPLETE (R371, R380, R437, R438): the caches have acknowledged the invalidation that the scrub waits for. -/
def execScrubComplete (part : Nat) (failed : List Nat) (s : State) : Out :=
  .next (
    match getPart s part with
    | some a => if a.pstate = .scrubbing then scrubDone part (failed.filter (inPart a)) (invalidateDone s) else s
    | none => s)

/-- SPAN_SECRET_LOAD (R375). -/
def execSpanSecretLoad (value : List Byte) (s : State) : Out := .next (if value.length = 64 then grant .operator 0x2500 5 value s else s)

/-- STAGE_SLOT (R377). -/
def execStageSlot (domain slot gen : Nat) (s : State) : Out :=
  .next (if domain < 64 ∧ slot < 4 ∧ gen < 2 ^ 32 then (stageKey domain slot gen s).2 else s)

/-- LOAD_SLOT (R377, R378). -/
def execLoadSlot (domain slot : Nat) (s : State) : Out := .next (if domain < 64 ∧ slot < 4 then (loadKey domain slot s).2 else s)

/-- CLEAR_SLOT (R377). -/
def execClearSlot (domain slot : Nat) (s : State) : Out := .next (if domain < 64 ∧ slot < 4 then (clearKey domain slot s).2 else s)

/-- CLEAR_SECRET (R377). -/
def execClearSecret (s : State) : Out := .next (clearSecretOp s).2

/-- FLOW_RESTART (R378): the last packet under the previous send slot has been resolved. -/
def execFlowRestart (domain : Nat) (s : State) : Out := .next (restartFlows domain s)

/-- PERMIT_SUBMISSION (R385): a write of 0x2500:10. -/
def execPermitSubmission (via : Via) (permit : List Byte) (s : State) : Out :=
  .next (viaWrite (.permitSubmission via permit) via 0x2500 16 permit s)

/-- READ_SESSION (R369). -/
def execReadSession (signer : Role) (seconds : Nat) (s : State) : Out :=
  .next (
    if (signer = .metrology ∨ signer = .vendor ∨ signer = .service) ∧ seconds ≤ 3600 then grant signer 0x2500 18 (leBytes 2 seconds) s else s)

/-- READ_SESSION_EXPIRE (R369). -/
def execReadSessionExpire (s : State) : Out := .next (sessionOver s)

/-- ROLE_CHANGE (R42): a write of 0x2403. -/
def execRoleChange (via : Via) (part role : Nat) (s : State) : Out :=
  .next (viaNum (.roleChange via part role) via 0x2403 (part + 1) 1 role s)

/-- RETIRE_REQUEST (R191, R192, R206): a site that is not enabled is refused with event 0x11D (R205). -/
def execRetireRequest (value : Word32) (s : State) : Out :=
  .next (
    if (retireSite value.toNat).any (fun k => siteState s k == .enabled) then grant .operator 0x2B00 5 (leBytes 4 value.toNat) s else refuseRetire true s)

/-- AGGREGATE_TRIGGER (R111): a write of 0x2F00:03. -/
def execAggregateTrigger (via : Via) (value : Nat) (s : State) : Out :=
  .next (viaNum (.aggregateTrigger via value) via 0x2F00 3 1 value s)

/-- AGGREGATE_COMPLETE (R111, R112). -/
def execAggregateComplete (s : State) : Out := .next (aggFinish s)

end Sys2Proof.Machine
end

