-- ==== Sys2Proof/Machine/StartFam.lean ====
section
/-!
DEFINITION. The commands of power-up, resets and self-tests (R428 to R446).
-/

namespace Sys2Proof.Machine

/-- POWER_UP (R428): the HV at the inlet first rises above 400 V, and the standby converter starts. The Assay logs it (R349). -/
def execPowerUp (s : State) : Out :=
  .next (
    if s.power.standby then s
    else
      let t := now s
      let v := { s.assay with led := .notYetRun, windowPulses := 0, windowDiag := 0, programming := false }
      let s := assayLog 0 0 0 { s with power := { s.power with standby := true }, assay := v }
      advanceUp { s with pilot := { s.pilot with step := 1, trigger := t, stepSince := t } })

/-- FIELD_GROUP_POWER (R428): group g is the eight fields of row g; groups start in order, and after the last the fields that
failed to lock once are tried again (R305). -/
def execFieldGroupPower (group : Nat) (s : State) : Out :=
  .next (
    if s.pilot.step = 7 ∧ group = s.pilot.groups ∧ group < 7 then
      let s := (List.range 8).foldl (fun s i =>
        let f := group * 8 + i
        if (getFld s f).fault ∨ (getClk s f).st = .failed then s else fieldOn f s) s
      let s := { s with pilot := { s.pilot with groups := group + 1 } }
      advanceUp (if group = 6 then retryFields s else s)
    else s)

/-- OVERLAY_TRAINING_COMPLETE (R27, R191, R428): in step 8 the sites whose training failed are retired under the stored
assignments, with those whose router failed the boot self-test, and the sequence goes on; at a field reset they are retired as R192
says. -/
def execOverlayTrainingComplete (failed : SiteFailures) (s : State) : Out :=
  .next (
    let failed := (failed.overlays ++ failed.routers).eraseDups
    if s.pilot.step = 8 then
      let s := failed.foldl (fun s k => if siteAbsent s k then s else retireNow k s) (applySites s)
      advanceUp (enterStep 9 s)
    else failed.foldl (fun s k => retire k s) s)

/-- POWER_UP_STEP_OVERDUE (R429): a step has waited 1 s beyond its time; before step 5 the wait is recorded at step 5. -/
def execPowerUpStepOverdue (s : State) : Out :=
  .next (
    let n := s.pilot.step
    if n = 0 ∨ n ≥ 12 then s
    else
      let s := advanceTo (s.pilot.stepSince + secT) s
      if n ≤ 4 ∧ linkWait s = false then { s with pilot := { s.pilot with overdue := s.pilot.overdue ++ [(n, 0)] } }
      else raise (evCtl 0x3C1 1 (activeCtl s) n) s)

/-- RESET_N (R430, R455): held low for at least 10 µs, a module reset. -/
def execResetN (s : State) : Out :=
  .next (
    let s := { s with pilot := { s.pilot with resetLow := true } }
    if s.power.standby then moduleReset 1 s else s)

/-- RESET_N_RELEASE (R428): the sequence leaves step 1. -/
def execResetNRelease (s : State) : Out := .next (advanceUp { s with pilot := { s.pilot with resetLow := false } })

/-- STANDBY_INPUT_LOSS (R430): the standby converter loses its input, a module reset. The Assay logs the power-down (R349). -/
def execStandbyInputLoss (s : State) : Out := .next (if s.power.standby then moduleReset 2 (assayLog 1 0 0 s) else s)

/-- FIELD_RESET_REQUEST (R431, R432). -/
def execFieldResetRequest (field : Nat) (s : State) : Out := .next (grant .operator 0x2A20 (field + 1) [1] s)

/-- FIELD_RESET_COMPLETE (R432, R437): the field is powered, locked and its overlay interfaces are trained. -/
def execFieldResetComplete (field : Nat) (s : State) : Out :=
  .next (if (getFld s field).resetting ∧ (getClk s field).st = .locked then fieldBack field s else s)

/-- PARTITION_RESET_REQUEST (R437): a write of 0x2A02. -/
def execPartitionResetRequest (via : Via) (part value : Nat) (s : State) : Out :=
  .next (viaNum (.partitionResetRequest via part value) via 0x2A02 (part + 1) 1 value s)

/-- RESOLUTION_LIMIT_EXPIRE (R437 step 4): operations still outstanding are reported failed and counted as abandoned, with event
0x3C8, and the reset goes on. -/
def execResolutionLimitExpire (part : Nat) (s : State) : Out :=
  .next (
    match getPart s part with
    | none => s
    | some a =>
      match a.reset with
      | none => s
      | some r =>
        if a.pstate ≠ .resetting then s
        else
          let s := advanceTo (r.since + setting s 0x2A00 6 * msT) s
          let n := partOutstanding s part
          if n = 0 then advanceReset part s
          else advanceReset part (raise (evPart s 0x3C8 1 part n) (abandonOps part s)))

/-- WAFER_RESET_REQUEST (R439). -/
def execWaferResetRequest (s : State) : Out := .next (grant .operator 0x2A00 5 [1] s)

/-- DISCHARGE_HOLD_EXPIRE (R439 step 4): the hold of 1 s has passed. -/
def execDischargeHoldExpire (s : State) : Out :=
  .next (
    if s.pilot.waferHold then
      let s := advanceTo (s.pilot.stepSince + secT) s
      advanceUp { s with pilot := { s.pilot with waferHold := false } }
    else s)

/-- SELF_TEST_REQUEST (R441, R442, R444): a write of 0x2A10:01. -/
def execSelfTestRequest (via : Via) (value : Word32) (s : State) : Out :=
  .next (viaNum (.selfTestRequest via value) via 0x2A10 1 4 value.toNat s)

/-- SERVICE_SELF_TEST_REQUEST (R442). -/
def execServiceSelfTestRequest (value : Word32) (s : State) : Out := .next (grant .service 0x2A10 2 (leBytes 4 value.toNat) s)

/-- A site lies in the scope of the running self-test. -/
def testSite (s : State) (k : Nat) : Bool := testCovers s (fieldOf k)

/-- What a test does to the stores of its scope: the store read corrects single-bit errors and counts the uncorrectable ones
toward retirement (R67, R443); a destructive one leaves the stores zero (R441). -/
def testStores (s : State) : State :=
  match bitsOf s.test.echo.toNat 31 24 with
  | 1 =>
    let ws := s.ecc.filter (fun e => testSite s (e.1 / 0x80000))
    ws.foldl (fun s e =>
      match e.2 with
      | .single => countCorrected (e.1 / 0x80000) { s with ecc := amSet s.ecc e.1 .counted }
      | .counted => s
      | .double => noteUncorrected (e.1 / 0x80000) s) s
  | 5 | 6 =>
    let t := s
    zeroSites (fun k => testSite t k) s
  | _ => s

/-- SELF_TEST_COMPLETE (R444): the results, with event 0x3CB or 0x3CC. -/
def execSelfTestComplete (failures : Nat) (first : CellRef) (s : State) : Out :=
  .next (
    if s.test.st ≠ 1 then s
    else
      let t := bitsOf s.test.echo.toNat 31 24
      let part := if bitsOf s.test.echo.toNat 23 16 = 0 then bitsOf s.test.echo.toNat 15 8 else 0xFF
      let s := testStores s
      let s := s.test.held.foldl (fun s f => modFld f (fun x => { x with owner := .idle }) s) s
      let site : Word64 :=
        if failures = 0 then 0 else BitVec.ofNat 64 (first.x * 2 ^ 48 + first.y * 2 ^ 32 + first.slot * 2 ^ 24)
      let s := { s with test := { s.test with st := if failures = 0 then 2 else 3, failures := failures, first := site, held := [] } }
      let ev : EvReq := if failures = 0 then evCtl 0x3CB 0 (activeCtl s) t else evCtl 0x3CC 1 (activeCtl s) failures
      raise { ev with part := part } s)

/-- SELF_TEST_LIMIT_EXPIRE (R443). -/
def execSelfTestLimitExpire (s : State) : Out := .next (endTest 0x69 s)

end Sys2Proof.Machine
end

