-- ==== Sys2Proof/Machine/Dispatch.lean ====
section
/-! DEFINITION. The meaning of every command, one arm for each constructor of Instr. -/

namespace Sys2Proof.Machine

/-- The effect of a command on everything but the queue. -/
def exec (i : Instr) (s : State) : Host.Outcome State Fault Refusal :=
  match i with
  | .token h rows cols => Sys2Proof.Machine.execToken h rows cols s
  | .tuple h words => Sys2Proof.Machine.execTuple h words s
  | .credit h => Sys2Proof.Machine.execCredit h s
  | .actorFire c => Sys2Proof.Machine.execActorFire c s
  | .bufferRelease c => Sys2Proof.Machine.execBufferRelease c s
  | .drainComplete c => Sys2Proof.Machine.execDrainComplete c s
  | .generatorTransfer x y g => Sys2Proof.Machine.execGeneratorTransfer x y g s
  | .halo h part data => Sys2Proof.Machine.execHalo h part data s
  | .stream h data => Sys2Proof.Machine.execStream h data s
  | .eccWriteBack x y addr => Sys2Proof.Machine.execEccWriteBack x y addr s
  | .queueSample part => Sys2Proof.Machine.execQueueSample part s
  | .aggregateTrigger via value => Sys2Proof.Machine.execAggregateTrigger via value s
  | .aggregateComplete => Sys2Proof.Machine.execAggregateComplete s
  | .jobOpen p h group notify => Sys2Proof.Machine.execJobOpen p h group notify s
  | .sectionCommit p h addr len => Sys2Proof.Machine.execSectionCommit p h addr len s
  | .commitComplete part => Sys2Proof.Machine.execCommitComplete part s
  | .sectionRelease p h sec => Sys2Proof.Machine.execSectionRelease p h sec s
  | .sectionEnqueue p h sec prio guard preds => Sys2Proof.Machine.execSectionEnqueue p h sec prio guard preds s
  | .sectionCancel p h run => Sys2Proof.Machine.execSectionCancel p h run s
  | .jobStart p h => Sys2Proof.Machine.execJobStart p h s
  | .jobStop p h => Sys2Proof.Machine.execJobStop p h s
  | .jobAbort p h => Sys2Proof.Machine.execJobAbort p h s
  | .jobClose p h => Sys2Proof.Machine.execJobClose p h s
  | .runStatus p h run => Sys2Proof.Machine.execRunStatus p h run s
  | .cadenceAdmit p h r => Sys2Proof.Machine.execCadenceAdmit p h r s
  | .cadenceStop p h => Sys2Proof.Machine.execCadenceStop p h s
  | .cadenceWindow part => Sys2Proof.Machine.execCadenceWindow part s
  | .sectionStart x y => Sys2Proof.Machine.execSectionStart x y s
  | .sectionDone x y => Sys2Proof.Machine.execSectionDone x y s
  | .sectionAbort x y => Sys2Proof.Machine.execSectionAbort x y s
  | .starvationLimitReached part run => Sys2Proof.Machine.execStarvationLimitReached part run s
  | .runOverrun part => Sys2Proof.Machine.execRunOverrun part s
  | .roleChange via part role => Sys2Proof.Machine.execRoleChange via part role s
  | .memReq h m => Sys2Proof.Machine.execMemReq h m s
  | .memReply via m => Sys2Proof.Machine.execMemReply via m s
  | .mcastRect h x1 y1 inner data => Sys2Proof.Machine.execMcastRect h x1 y1 inner data s
  | .mcastMask h mask inner data => Sys2Proof.Machine.execMcastMask h mask inner data s
  | .mcastAck h delivered refused => Sys2Proof.Machine.execMcastAck h delivered refused s
  | .mcastStall x y stalled domain => Sys2Proof.Machine.execMcastStall x y stalled domain s
  | .combine h pre elems => Sys2Proof.Machine.execCombine h pre elems s
  | .failNotice h reason lostType reqId => Sys2Proof.Machine.execFailNotice h reason lostType reqId s
  | .reservedPacketType x y h type => Sys2Proof.Machine.execReservedPacketType x y h type s
  | .mcastControl h x1 y1 inner words => Sys2Proof.Machine.execMcastControl h x1 y1 inner words s
  | .routeWrite sender x y entries => Sys2Proof.Machine.execRouteWrite sender x y entries s
  | .reservedControlKind x y h kind => Sys2Proof.Machine.execReservedControlKind x y h kind s
  | .flitError x y u => Sys2Proof.Machine.execFlitError x y u s
  | .routerFault x y held => Sys2Proof.Machine.execRouterFault x y held s
  | .retireRequest value => Sys2Proof.Machine.execRetireRequest value s
  | .retirement x y => Sys2Proof.Machine.execRetirement x y s
  | .descriptor h w0 w1 w2 w3 => Sys2Proof.Machine.execDescriptor h w0 w1 w2 w3 s
  | .ctrProduce h m n => Sys2Proof.Machine.execCtrProduce h m n s
  | .ctrConsume h m n => Sys2Proof.Machine.execCtrConsume h m n s
  | .ctrRead h m => Sys2Proof.Machine.execCtrRead h m s
  | .ctrBound h m b => Sys2Proof.Machine.execCtrBound h m b s
  | .ctrInit h m => Sys2Proof.Machine.execCtrInit h m s
  | .ctrAck h m status => Sys2Proof.Machine.execCtrAck h m status s
  | .ctrReadReply h m p c => Sys2Proof.Machine.execCtrReadReply h m p c s
  | .watchRegister h m => Sys2Proof.Machine.execWatchRegister h m s
  | .watchCancel h m => Sys2Proof.Machine.execWatchCancel h m s
  | .watchNotify h m status => Sys2Proof.Machine.execWatchNotify h m status s
  | .crestArrive h seq value => Sys2Proof.Machine.execCrestArrive h seq value s
  | .crestRelease h seq value => Sys2Proof.Machine.execCrestRelease h seq value s
  | .crestStill h seq => Sys2Proof.Machine.execCrestStill h seq s
  | .crestMoving h seq => Sys2Proof.Machine.execCrestMoving h seq s
  | .crestCollected h seq => Sys2Proof.Machine.execCrestCollected h seq s
  | .crestAbort h group => Sys2Proof.Machine.execCrestAbort h group s
  | .hangTimerExpire part => Sys2Proof.Machine.execHangTimerExpire part s
  | .signalProduce p h c n => Sys2Proof.Machine.execSignalProduce p h c n s
  | .signalConsume p h c n => Sys2Proof.Machine.execSignalConsume p h c n s
  | .counterRead p h c => Sys2Proof.Machine.execCounterRead p h c s
  | .watchSet p h c count v id => Sys2Proof.Machine.execWatchSet p h c count v id s
  | .hostWatchCancel p h id => Sys2Proof.Machine.execHostWatchCancel p h id s
  | .counterBound p h c b => Sys2Proof.Machine.execCounterBound p h c b s
  | .counterInit p h c => Sys2Proof.Machine.execCounterInit p h c s
  | .descriptorPost p h x y w0 w1 w2 w3 => Sys2Proof.Machine.execDescriptorPost p h x y w0 w1 w2 w3 s
  | .barrier p h arrival release v => Sys2Proof.Machine.execBarrier p h arrival release v s
  | .broadcast p h ctr n => Sys2Proof.Machine.execBroadcast p h ctr n s
  | .snapshot p h addr => Sys2Proof.Machine.execSnapshot p h addr s
  | .pmdTrainingComplete port trained => Sys2Proof.Machine.execPmdTrainingComplete port trained s
  | .discovery port d => Sys2Proof.Machine.execDiscovery port d s
  | .retrainInterval port => Sys2Proof.Machine.execRetrainInterval port s
  | .linkStatusBlock port nak ack off => Sys2Proof.Machine.execLinkStatusBlock port nak ack off s
  | .linkStatusSend port => Sys2Proof.Machine.execLinkStatusSend port s
  | .replayTimeout port => Sys2Proof.Machine.execReplayTimeout port s
  | .reservedUnit u => Sys2Proof.Machine.execReservedUnit u s
  | .transitPacket port dst src domain seq vc hops nonMin x => Sys2Proof.Machine.execTransitPacket port dst src domain seq vc hops nonMin x s
  | .packetSend dst domain => Sys2Proof.Machine.execPacketSend dst domain s
  | .e2eAck p base delivered refused => Sys2Proof.Machine.execE2eAck p base delivered refused s
  | .retransmitTimeout dst domain seq => Sys2Proof.Machine.execRetransmitTimeout dst domain seq s
  | .skipQuery p seq => Sys2Proof.Machine.execSkipQuery p seq s
  | .skipAnswer p seq status clear => Sys2Proof.Machine.execSkipAnswer p seq status clear s
  | .escapeTimeout port hopSeq => Sys2Proof.Machine.execEscapeTimeout port hopSeq s
  | .crestRelay p w2 w3 w4 origin => Sys2Proof.Machine.execCrestRelay p w2 w3 w4 origin s
  | .linkState p port state peerNode peerPort => Sys2Proof.Machine.execLinkState p port state peerNode peerPort s
  | .portQuery p h port => Sys2Proof.Machine.execPortQuery p h port s
  | .portControl p h port action permit => Sys2Proof.Machine.execPortControl p h port action permit s
  | .echoCmd p h data => Sys2Proof.Machine.execEchoCmd p h data s
  | .memLoad p m => Sys2Proof.Machine.execMemLoad p m s
  | .memStore p m data => Sys2Proof.Machine.execMemStore p m data s
  | .atomicAdd p m => Sys2Proof.Machine.execAtomicAdd p m s
  | .atomicMax p m => Sys2Proof.Machine.execAtomicMax p m s
  | .atomicCas p m => Sys2Proof.Machine.execAtomicCas p m s
  | .bulkCopy p m => Sys2Proof.Machine.execBulkCopy p m s
  | .translationFill cache fill => Sys2Proof.Machine.execTranslationFill cache fill s
  | .ageTick => Sys2Proof.Machine.execAgeTick s
  | .invalidationComplete => Sys2Proof.Machine.execInvalidationComplete s
  | .referenceLock => Sys2Proof.Machine.execReferenceLock s
  | .referenceLoss => Sys2Proof.Machine.execReferenceLoss s
  | .holdoverTimeout => Sys2Proof.Machine.execHoldoverTimeout s
  | .timeFrame bytes => Sys2Proof.Machine.execTimeFrame bytes s
  | .epochMark => Sys2Proof.Machine.execEpochMark s
  | .fllWindow field count => Sys2Proof.Machine.execFllWindow field count s
  | .settleDelayExpire field => Sys2Proof.Machine.execSettleDelayExpire field s
  | .pllLock pll => Sys2Proof.Machine.execPllLock pll s
  | .pllLoss pll => Sys2Proof.Machine.execPllLoss pll s
  | .sourceSwitch via sub value => Sys2Proof.Machine.execSourceSwitch via sub value s
  | .pllMultiplierWrite via sub value => Sys2Proof.Machine.execPllMultiplierWrite via sub value s
  | .fieldClockTargetWrite via field value => Sys2Proof.Machine.execFieldClockTargetWrite via field value s
  | .ppsEdge pin => Sys2Proof.Machine.execPpsEdge pin s
  | .hvBandChange volts => Sys2Proof.Machine.execHvBandChange volts s
  | .hvOutOfRange volts => Sys2Proof.Machine.execHvOutOfRange volts s
  | .hvPresent => Sys2Proof.Machine.execHvPresent s
  | .converterFault index => Sys2Proof.Machine.execConverterFault index s
  | .busUndervoltage millivolts => Sys2Proof.Machine.execBusUndervoltage millivolts s
  | .regulatorReport field millivolts milliamps watts energy => Sys2Proof.Machine.execRegulatorReport field millivolts milliamps watts energy s
  | .fieldSupplyFault field => Sys2Proof.Machine.execFieldSupplyFault field s
  | .attributionInterval average ring standby => Sys2Proof.Machine.execAttributionInterval average ring standby s
  | .clampEnd => Sys2Proof.Machine.execClampEnd s
  | .sharePublish sample => Sys2Proof.Machine.execSharePublish sample s
  | .currentLimit => Sys2Proof.Machine.execCurrentLimit s
  | .currentLimitTimeout => Sys2Proof.Machine.execCurrentLimitTimeout s
  | .sensorSample field readings => Sys2Proof.Machine.execSensorSample field readings s
  | .thermalPeriod => Sys2Proof.Machine.execThermalPeriod s
  | .coolantSample inlet outlet flow => Sys2Proof.Machine.execCoolantSample inlet outlet flow s
  | .coolingFault => Sys2Proof.Machine.execCoolingFault s
  | .reservationWrite via weight part value => Sys2Proof.Machine.execReservationWrite via weight part value s
  | .mirrorFrame c bytes => Sys2Proof.Machine.execMirrorFrame c bytes s
  | .mirrorLinkLoss c => Sys2Proof.Machine.execMirrorLinkLoss c s
  | .ledgerClose => Sys2Proof.Machine.execLedgerClose s
  | .metrologicalPulse => Sys2Proof.Machine.execMetrologicalPulse s
  | .diagnosticPulse => Sys2Proof.Machine.execDiagnosticPulse s
  | .ledCheckWindow drive optical => Sys2Proof.Machine.execLedCheckWindow drive optical s
  | .programmingMode sealPressed password => Sys2Proof.Machine.execProgrammingMode sealPressed password s
  | .logClear => Sys2Proof.Machine.execLogClear s
  | .dataReadout => Sys2Proof.Machine.execDataReadout s
  | .caseOpened => Sys2Proof.Machine.execCaseOpened s
  | .partitionCreate value => Sys2Proof.Machine.execPartitionCreate value s
  | .partitionDelete part => Sys2Proof.Machine.execPartitionDelete part s
  | .scrubComplete part failed => Sys2Proof.Machine.execScrubComplete part failed s
  | .spanSecretLoad value => Sys2Proof.Machine.execSpanSecretLoad value s
  | .stageSlot domain slot gen => Sys2Proof.Machine.execStageSlot domain slot gen s
  | .loadSlot domain slot => Sys2Proof.Machine.execLoadSlot domain slot s
  | .clearSlot domain slot => Sys2Proof.Machine.execClearSlot domain slot s
  | .clearSecret => Sys2Proof.Machine.execClearSecret s
  | .flowRestart domain => Sys2Proof.Machine.execFlowRestart domain s
  | .permitSubmission via permit => Sys2Proof.Machine.execPermitSubmission via permit s
  | .readSession signer seconds => Sys2Proof.Machine.execReadSession signer seconds s
  | .readSessionExpire => Sys2Proof.Machine.execReadSessionExpire s
  | .controllerBoot c => Sys2Proof.Machine.execControllerBoot c s
  | .imageTarget via value => Sys2Proof.Machine.execImageTarget via value s
  | .imageChunk via bytes => Sys2Proof.Machine.execImageChunk via bytes s
  | .imageVerify => Sys2Proof.Machine.execImageVerify s
  | .startTrial via value => Sys2Proof.Machine.execStartTrial via value s
  | .confirmTrial via value => Sys2Proof.Machine.execConfirmTrial via value s
  | .trialTimeout => Sys2Proof.Machine.execTrialTimeout s
  | .ethercatFrame port => Sys2Proof.Machine.execEthercatFrame port s
  | .ethercatLinkChange port up => Sys2Proof.Machine.execEthercatLinkChange port up s
  | .esmStateChange state => Sys2Proof.Machine.execEsmStateChange state s
  | .sdoInformation index => Sys2Proof.Machine.execSdoInformation index s
  | .unsupportedMailboxRequest coe => Sys2Proof.Machine.execUnsupportedMailboxRequest coe s
  | .registerWrite index sub value => Sys2Proof.Machine.execRegisterWrite index sub value s
  | .leaseRenewal c epoch => Sys2Proof.Machine.execLeaseRenewal c epoch s
  | .leaseExpiry => Sys2Proof.Machine.execLeaseExpiry s
  | .readyReport c epoch => Sys2Proof.Machine.execReadyReport c epoch s
  | .claimWindowExpire => Sys2Proof.Machine.execClaimWindowExpire s
  | .passLease via value => Sys2Proof.Machine.execPassLease via value s
  | .eventRequest r => Sys2Proof.Machine.execEventRequest r s
  | .eventSelect => Sys2Proof.Machine.execEventSelect s
  | .eventClaim => Sys2Proof.Machine.execEventClaim s
  | .eventRead p h first wanted => Sys2Proof.Machine.execEventRead p h first wanted s
  | .eventAck p h seq => Sys2Proof.Machine.execEventAck p h seq s
  | .eventStatus p h => Sys2Proof.Machine.execEventStatus p h s
  | .objectRead p h index sub => Sys2Proof.Machine.execObjectRead p h index sub s
  | .objectWrite p h index sub value => Sys2Proof.Machine.execObjectWrite p h index sub value s
  | .sleepRequest via value => Sys2Proof.Machine.execSleepRequest via value s
  | .sleepComplete => Sys2Proof.Machine.execSleepComplete s
  | .wakeSource sources => Sys2Proof.Machine.execWakeSource sources s
  | .wakeRequest via value => Sys2Proof.Machine.execWakeRequest via value s
  | .alarmFire n => Sys2Proof.Machine.execAlarmFire n s
  | .saveComplete good => Sys2Proof.Machine.execSaveComplete good s
  | .powerUp => Sys2Proof.Machine.execPowerUp s
  | .fieldGroupPower group => Sys2Proof.Machine.execFieldGroupPower group s
  | .powerUpStepOverdue => Sys2Proof.Machine.execPowerUpStepOverdue s
  | .resetN => Sys2Proof.Machine.execResetN s
  | .standbyInputLoss => Sys2Proof.Machine.execStandbyInputLoss s
  | .fieldResetRequest field => Sys2Proof.Machine.execFieldResetRequest field s
  | .fieldResetComplete field => Sys2Proof.Machine.execFieldResetComplete field s
  | .partitionResetRequest via part value => Sys2Proof.Machine.execPartitionResetRequest via part value s
  | .resolutionLimitExpire part => Sys2Proof.Machine.execResolutionLimitExpire part s
  | .waferResetRequest => Sys2Proof.Machine.execWaferResetRequest s
  | .dischargeHoldExpire => Sys2Proof.Machine.execDischargeHoldExpire s
  | .selfTestRequest via value => Sys2Proof.Machine.execSelfTestRequest via value s
  | .serviceSelfTestRequest value => Sys2Proof.Machine.execServiceSelfTestRequest value s
  | .selfTestComplete failures first => Sys2Proof.Machine.execSelfTestComplete failures first s
  | .selfTestLimitExpire => Sys2Proof.Machine.execSelfTestLimitExpire s
  | .sidebandFunctionWrite via pin value => Sys2Proof.Machine.execSidebandFunctionWrite via pin value s
  | .sidebandInputChange pin level => Sys2Proof.Machine.execSidebandInputChange pin level s
  | .syncPulseEnd pin => Sys2Proof.Machine.execSyncPulseEnd pin s
  | .holdoverTick => Sys2Proof.Machine.execHoldoverTick s
  | .supplyGood field => Sys2Proof.Machine.execSupplyGood field s
  | .overlayTrainingComplete failed => Sys2Proof.Machine.execOverlayTrainingComplete failed s
  | .busRegulationReached => Sys2Proof.Machine.execBusRegulationReached s
  | .resetNRelease => Sys2Proof.Machine.execResetNRelease s
  | .assayParameterChange c => Sys2Proof.Machine.execAssayParameterChange c s
  | .sealSwitchRelease => Sys2Proof.Machine.execSealSwitchRelease s

end Sys2Proof.Machine
end

