-- ==== Sys2Proof/Machine/Tick.lean ====
section
/-!
DEFINITION. One reference cycle of the pilot domain with no command waiting (log 2).
-/

namespace Sys2Proof.Machine

/-- One reference cycle (R297): while the standby converter runs the reference advances, pins that switch take their new
function (R458), the mailbox is served (R395), memory cells go on with their remote requests (R68), the mesh moves by one cycle (R176), multicasts that wait try again (R198), and
each partition's stillness is judged (R227). -/
def tick (s : State) : State :=
  if s.power.standby then
    let s := serveMailbox (addCycles 1 s)
    (s.parts.map Prod.fst).foldl (fun s p => hangCheck p s) (castAgain (meshCycle (mcServeAll s)))
  else s

end Sys2Proof.Machine
end

