-- ==== Sys2Proof/Machine/Step.lean ====
section
/-!
DEFINITION. One step of the block: the command at the front of the queue, else a held packet whose turn has come, else one
reference cycle of the pilot domain (log 2).
-/

namespace Sys2Proof.Machine

/-- One step: exec on the front command with the queue's rest. With no command waiting, a packet that the reorder store has
released (R260) is processed, and with none the reference clock runs for one cycle. -/
def step (s : State) : Host.Outcome State Fault Refusal :=
  match s.pending with
  | i :: rest => exec i { s with pending := rest }
  | [] =>
    match s.fabric.released with
    | i :: rest => exec i { s with fabric := { s.fabric with released := rest } }
    | [] => .next (tick s)

/-- The state with the command that a word spells at the front of its queue; no row of the table has bits, so no word
spells a command and the state stays as it is. -/
def State.withFetchWord (s : State) (nbits w : Nat) : State :=
  match decodeTableWord nbits w with
  | some i => { s with pending := i :: s.pending }
  | none => s

end Sys2Proof.Machine
end

