-- ==== Sys2Proof/Safety.lean ====
section
/-!
DEFINITION. What counts as a safe run, in the terms that claims use: steps that answer a next state, the parts of the state that a
command may write, and the invariant that every step keeps.
-/

namespace Sys2Proof

open Machine

/-- A state from which a step answers a next state: neither a fault nor a refusal. -/
def Safe (s : State) : Prop := ∃ t, step s = .next t

/-- Every step of a run of n steps answers a next state. -/
def SafeFor : Nat → State → Prop
  | 0, _ => True
  | n + 1, s => ∃ t, step s = .next t ∧ SafeFor n t

/-- The parts of the state, one for each field of State. -/
inductive Region where
  | pending | time | clk | fld | power | assay | ledger | cope | drag | lease | events | sec | parts | tiles | mem | ecc | mesh
  | crest | fabric | settings | pilot | test | ident | regs | freeCount
deriving DecidableEq, Repr

/-- A part of the state is what it was. -/
def Region.Same (s t : State) : Region → Prop
  | .pending => t.pending = s.pending
  | .time => t.time = s.time
  | .clk => t.clk = s.clk
  | .fld => t.fld = s.fld
  | .power => t.power = s.power
  | .assay => t.assay = s.assay
  | .ledger => t.ledger = s.ledger
  | .cope => t.cope = s.cope
  | .drag => t.drag = s.drag
  | .lease => t.lease = s.lease
  | .events => t.events = s.events
  | .sec => t.sec = s.sec
  | .parts => t.parts = s.parts
  | .tiles => t.tiles = s.tiles
  | .mem => t.mem = s.mem
  | .ecc => t.ecc = s.ecc
  | .mesh => t.mesh = s.mesh
  | .crest => t.crest = s.crest
  | .fabric => t.fabric = s.fabric
  | .settings => t.settings = s.settings
  | .pilot => t.pilot = s.pilot
  | .test => t.test = s.test
  | .ident => t.ident = s.ident
  | .regs => t.regs = s.regs
  | .freeCount => t.freeCount = s.freeCount

/-- Nothing outside the parts named has changed. -/
def Only (w : List Region) (s t : State) : Prop := ∀ r, w.contains r = false → r.Same s t

/-- Every flow's free credits and outstanding packets make up its 32 credits (R259). -/
def FlowsOk (tx : AMap FlowTx) : Prop := ∀ e ∈ tx, e.2.credits + e.2.out.length = 32

/-- What every step keeps: the stored bytes are in canonical form; at most 256 requests are pending in the event controller and at
most 4,096 records held (R407, R410); no flow holds more than 32 credits (R259); the Assay's log holds at most 1,024 entries
(R349). -/
structure Inv (s : State) : Prop where
  mem : Memory.wf s.mem = true
  pending : s.events.pending.length ≤ 256
  queue : s.events.queue.length ≤ 4096
  flows : FlowsOk s.fabric.tx
  log : s.assay.log.length ≤ 1024

/-- A change that stays within the parts named and keeps the invariant. -/
structure Keeps (w : List Region) (s t : State) : Prop where
  only : Only w s t
  inv : Inv s → Inv t

/-- The parts of the state that a command may write; exec leaves every other part as it was. -/
def footprint : Instr → List Region
  | .token .. | .tuple .. | .descriptor .. | .watchNotify .. | .crestAbort .. =>
    [.fld, .power, .events, .parts, .tiles, .mesh, .crest, .fabric]
  | .credit .. | .ctrAck .. | .ctrReadReply .. =>
    [.fld, .power, .events, .parts, .tiles, .mesh]
  | .actorFire .. | .generatorTransfer .. | .sectionStart .. | .memReq .. | .combine .. | .mcastControl .. | .flitError .. =>
    [.fld, .power, .events, .parts, .tiles, .mem, .ecc, .mesh, .crest, .fabric, .settings]
  | .bufferRelease .. =>
    [.power, .parts, .tiles, .mesh]
  | .drainComplete .. =>
    [.power, .parts, .tiles, .mem, .ecc, .mesh]
  | .halo .. | .stream .. | .memReply .. | .mcastRect .. | .mcastMask .. | .failNotice .. | .ctrProduce .. | .ctrConsume ..
  | .ctrRead .. | .ctrBound .. | .ctrInit .. | .crestArrive .. | .crestCollected .. =>
    [.fld, .power, .events, .parts, .tiles, .mem, .ecc, .mesh, .crest, .fabric]
  | .eccWriteBack .. =>
    [.ecc]
  | .queueSample .. =>
    [.fld, .tiles, .mem, .ecc]
  | .aggregateTrigger .. | .roleChange .. | .sourceSwitch .. | .pllMultiplierWrite .. | .fieldClockTargetWrite ..
  | .reservationWrite .. | .permitSubmission .. | .imageTarget .. | .imageChunk .. | .startTrial .. | .confirmTrial ..
  | .registerWrite .. | .passLease .. | .objectWrite .. | .sleepRequest .. | .wakeRequest .. | .partitionResetRequest ..
  | .selfTestRequest .. | .sidebandFunctionWrite .. =>
    [.time, .clk, .fld, .power, .ledger, .cope, .drag, .lease, .events, .sec, .parts, .tiles, .mem, .ecc, .mesh, .crest, .fabric, .settings, .pilot, .test, .regs]
  | .aggregateComplete =>
    [.crest]
  | .jobOpen .. =>
    [.power, .events, .parts, .crest, .fabric]
  | .sectionCommit .. | .sectionRelease .. | .sectionCancel .. | .jobStop .. | .reservedUnit .. =>
    [.power, .events, .parts, .fabric]
  | .commitComplete .. =>
    [.fld, .power, .events, .parts, .tiles, .mem, .ecc, .mesh, .fabric, .settings]
  | .sectionEnqueue .. | .jobStart .. | .cadenceStop .. | .sectionDone .. | .snapshot .. =>
    [.power, .events, .parts, .tiles, .mesh, .fabric]
  | .jobAbort .. | .jobClose .. | .descriptorPost .. =>
    [.power, .events, .parts, .tiles, .mesh, .crest, .fabric]
  | .runStatus .. | .linkStatusBlock .. | .replayTimeout .. | .transitPacket .. | .retransmitTimeout .. | .skipQuery ..
  | .linkState .. | .portQuery .. | .echoCmd .. | .eventRead .. | .eventAck .. | .eventStatus .. | .objectRead .. =>
    [.power, .events, .fabric]
  | .cadenceAdmit .. =>
    [.power, .events, .parts, .fabric, .regs]
  | .cadenceWindow .. | .starvationLimitReached .. =>
    [.time, .power, .events, .parts, .tiles, .mesh, .fabric, .pilot]
  | .sectionAbort .. =>
    [.tiles, .mesh]
  | .runOverrun .. =>
    [.time, .events, .parts, .pilot]
  | .mcastAck .. =>
    [.fld, .power, .events, .tiles, .mesh]
  | .mcastStall .. =>
    [.time, .events, .mesh, .pilot]
  | .reservedPacketType .. | .reservedControlKind .. | .eventRequest .. | .eventSelect =>
    [.events]
  | .routeWrite .. =>
    [.events, .tiles, .mesh]
  | .routerFault .. =>
    [.power, .events, .parts, .tiles, .mem, .ecc, .mesh, .crest, .fabric, .settings]
  | .retireRequest .. | .portControl .. | .partitionCreate .. | .partitionDelete .. | .spanSecretLoad .. | .readSession ..
  | .fieldResetRequest .. | .waferResetRequest | .serviceSelfTestRequest .. =>
    [.clk, .fld, .power, .ledger, .events, .sec, .parts, .tiles, .mem, .ecc, .mesh, .crest, .fabric, .settings, .pilot, .test, .regs]
  | .retirement .. =>
    [.power, .events, .parts, .tiles, .mem, .ecc, .mesh, .fabric, .settings]
  | .watchRegister .. =>
    [.fld, .power, .events, .parts, .mesh, .crest, .fabric]
  | .watchCancel .. =>
    [.fld, .power, .events, .mesh, .crest]
  | .crestRelease .. =>
    [.fld, .power, .events, .parts, .mem, .ecc, .mesh]
  | .crestStill .. | .crestMoving .. =>
    [.fld, .power, .events, .parts, .mesh]
  | .hangTimerExpire .. =>
    [.time, .fld, .power, .events, .parts, .tiles, .mesh, .crest, .fabric, .settings, .pilot, .test, .regs]
  | .signalProduce .. | .signalConsume .. | .counterRead .. | .counterBound .. | .counterInit .. | .barrier ..
  | .broadcast .. | .crestRelay .. =>
    [.power, .events, .parts, .tiles, .mem, .ecc, .mesh, .crest, .fabric]
  | .watchSet .. =>
    [.power, .events, .parts, .mesh, .crest, .fabric]
  | .hostWatchCancel .. =>
    [.power, .events, .crest, .fabric]
  | .pmdTrainingComplete .. | .discovery .. | .hvPresent | .fieldGroupPower .. | .dischargeHoldExpire
  | .overlayTrainingComplete .. | .busRegulationReached | .resetNRelease =>
    [.time, .fld, .power, .events, .sec, .parts, .tiles, .mem, .ecc, .mesh, .crest, .fabric, .settings, .pilot, .regs]
  | .retrainInterval .. | .eventClaim =>
    [.events, .fabric]
  | .linkStatusSend .. | .ageTick | .invalidationComplete =>
    [.fabric]
  | .packetSend .. =>
    [.fld, .power, .events, .parts, .mesh, .crest, .fabric, .settings]
  | .e2eAck .. | .skipAnswer .. =>
    [.fld, .power, .events, .sec, .parts, .mesh, .crest, .fabric, .settings]
  | .escapeTimeout .. =>
    [.power, .fabric]
  | .memLoad .. | .memStore .. | .atomicAdd .. | .atomicMax .. | .atomicCas .. | .bulkCopy .. | .translationFill .. =>
    [.power, .events, .parts, .mesh, .fabric]
  | .referenceLock | .hvBandChange .. | .coolantSample .. | .ethercatLinkChange .. | .sleepComplete | .wakeSource ..
  | .alarmFire .. | .sidebandInputChange .. =>
    [.time, .fld, .power, .lease, .events, .sec, .parts, .tiles, .mem, .ecc, .mesh, .crest, .fabric, .settings, .pilot, .regs]
  | .referenceLoss =>
    [.time, .events]
  | .holdoverTimeout | .powerUpStepOverdue =>
    [.time, .events, .pilot]
  | .timeFrame .. | .pllLock .. =>
    [.time]
  | .epochMark =>
    [.time, .fld, .power, .ledger, .events, .sec, .parts, .tiles, .mem, .ecc, .mesh, .crest, .fabric, .settings, .pilot, .regs]
  | .fllWindow .. =>
    [.time, .clk, .fld, .power, .events, .sec, .parts, .tiles, .mem, .ecc, .mesh, .crest, .fabric, .settings, .pilot, .test, .regs]
  | .settleDelayExpire .. =>
    [.time, .clk, .pilot]
  | .pllLoss .. =>
    [.time, .events, .regs]
  | .ppsEdge .. =>
    [.time, .pilot]
  | .hvOutOfRange .. | .converterFault .. | .busUndervoltage .. | .currentLimitTimeout | .coolingFault =>
    [.clk, .fld, .power, .ledger, .events, .sec, .parts, .tiles, .mem, .ecc, .mesh, .crest, .fabric, .pilot, .test]
  | .regulatorReport .. =>
    [.fld]
  | .fieldSupplyFault .. | .sensorSample .. =>
    [.clk, .fld, .power, .events, .parts, .tiles, .mem, .ecc, .mesh, .crest, .fabric, .settings, .test, .regs]
  | .attributionInterval .. =>
    [.fld, .power, .events, .parts]
  | .clampEnd =>
    [.time, .power, .events, .pilot]
  | .sharePublish .. =>
    [.fld, .power, .events, .parts, .tiles, .mesh, .fabric]
  | .currentLimit =>
    [.power, .events]
  | .thermalPeriod =>
    [.fld, .events]
  | .mirrorFrame .. =>
    [.time, .fld, .power, .assay, .ledger, .cope, .drag, .lease, .events, .sec, .parts, .tiles, .mem, .ecc, .mesh, .crest, .fabric, .settings, .pilot, .regs]
  | .mirrorLinkLoss .. =>
    [.time, .cope, .drag, .events, .pilot]
  | .ledgerClose =>
    [.time, .power, .ledger, .cope, .drag, .events, .parts, .pilot]
  | .metrologicalPulse | .diagnosticPulse | .ledCheckWindow .. | .programmingMode .. | .logClear | .dataReadout | .caseOpened
  | .assayParameterChange .. | .sealSwitchRelease =>
    [.assay]
  | .scrubComplete .. =>
    [.fld, .power, .events, .parts, .tiles, .mem, .ecc, .mesh, .crest, .fabric, .settings, .pilot, .regs]
  | .stageSlot .. | .clearSlot .. | .clearSecret =>
    [.events, .sec]
  | .loadSlot .. =>
    [.events, .sec, .fabric]
  | .flowRestart .. =>
    [.sec, .fabric]
  | .readSessionExpire =>
    [.time, .events, .sec, .pilot]
  | .controllerBoot .. =>
    [.cope, .drag, .lease, .events, .settings]
  | .imageVerify =>
    [.cope, .drag, .events, .settings]
  | .trialTimeout =>
    [.time, .cope, .drag, .lease, .events, .settings, .pilot]
  | .ethercatFrame .. | .esmStateChange .. | .sdoInformation .. | .unsupportedMailboxRequest .. | .syncPulseEnd .. =>
    [.pilot]
  | .leaseRenewal .. =>
    [.lease, .events]
  | .leaseExpiry =>
    [.time, .ledger, .lease, .events, .sec, .parts, .fabric, .pilot]
  | .readyReport .. =>
    [.cope, .drag, .lease]
  | .claimWindowExpire =>
    [.time, .fld, .power, .ledger, .lease, .events, .sec, .parts, .tiles, .mem, .ecc, .mesh, .crest, .fabric, .settings, .pilot, .regs]
  | .saveComplete .. =>
    [.events, .settings]
  | .powerUp =>
    [.time, .fld, .power, .assay, .events, .sec, .parts, .tiles, .mem, .ecc, .mesh, .crest, .fabric, .settings, .pilot, .regs]
  | .resetN =>
    [.time, .clk, .fld, .power, .ledger, .cope, .drag, .lease, .events, .sec, .parts, .tiles, .mem, .ecc, .mesh, .crest, .fabric, .settings, .pilot, .test, .regs, .freeCount]
  | .standbyInputLoss =>
    [.time, .clk, .fld, .power, .assay, .ledger, .cope, .drag, .lease, .events, .sec, .parts, .tiles, .mem, .ecc, .mesh, .crest, .fabric, .settings, .pilot, .test, .regs, .freeCount]
  | .fieldResetComplete .. =>
    [.fld, .events, .parts, .crest, .fabric, .settings]
  | .resolutionLimitExpire .. =>
    [.time, .fld, .events, .parts, .crest, .fabric, .settings, .pilot]
  | .selfTestComplete .. =>
    [.fld, .power, .events, .parts, .tiles, .mem, .ecc, .mesh, .fabric, .settings, .test]
  | .selfTestLimitExpire =>
    [.fld, .events, .test]
  | .holdoverTick =>
    [.time, .ledger, .parts, .pilot]
  | .supplyGood .. =>
    [.clk, .fld]

/-- A command answers a next state that has a property, and writes only the parts of its footprint. -/
def Completes (c : Instr) (s : State) (q : State → Prop) : Prop :=
  ∃ t, exec c s = .next t ∧ Only (footprint c) s t ∧ q t

/-- The event controller has taken one request more, or counted it as lost, and nothing else has changed there (R407). -/
def Raised (e : EvReq) (s t : State) : Prop := t.events = (raise e s).events

/-- A packet can wait at its source: its domain has a send key, and a host among its destinations a route (R244, R269). -/
def Sendable (s : State) (node domain : Nat) : Bool := hasSendKey s domain && (node < 12288 || (hostRoute s node).isSome)

/-- One packet more waits at its source, behind those that waited (R259). -/
def Sent (node domain opcode : Nat) (data : List Byte) (s t : State) : Prop :=
  (getTx t node domain).waiting = (getTx s node domain).waiting ++ [⟨node, domain, opcode, data, false, none⟩]

/-- The receiving end that a packet meets: a newer generation of its key starts it again at 0 (R378). -/
def rxFor (p : Pkt) (s : State) : FlowRx :=
  let rx := getRx s p.node p.domain
  if rx.gen < p.gen then { gen := p.gen, delivered := rx.delivered } else rx

/-- A packet arrives by a port that is up, good and in hop sequence, verifies, and is the next of its flow (R246, R258, R260,
R264, R267). -/
structure InSequence (p : Pkt) (s : State) : Prop where
  up : portUp s p.port = true
  taken : hopGood s p.port p.hop p.good = true
  verified : authentic s p (rxFor p s).next = true
  gen : (rxFor p s).gen = p.gen
  next : extendSeq (rxFor p s).next p.seq = (rxFor p s).next
  open' : (rxFor p s).next ∉ (rxFor p s).closed
  single : ∀ h ∈ (rxFor p s).held, h.1 ≠ (rxFor p s).next
  unmet : ¬((getRx s p.node p.domain).gen = p.gen ∧
    extendSeq (getRx s p.node p.domain).next p.seq ∈ (getRx s p.node p.domain).passed)

/-- A packet that the reorder store has held, and whose turn has come (R260). -/
structure Reordered (p : Pkt) (s : State) : Prop where
  gen : (getRx s p.node p.domain).gen = p.gen
  passed : extendSeq (getRx s p.node p.domain).next p.seq ∈ (getRx s p.node p.domain).passed

/-- A packet is delivered: it is next in its flow, at once or out of the reorder store, and the wafer takes its domain (R246, R260). -/
def Arrives (p : Pkt) (s : State) : Prop := (InSequence p s ∨ Reordered p s) ∧ domainTaken s p.domain = true

/-- The settings of a port that no packet changes. -/
def portLine (p : Port) : PortState × Word32 × Nat × Nat × Nat × Nat := (p.st, p.peer, p.delay, p.replays, p.downs, p.outstanding)

/-- A packet has been counted at its port, accepted and acknowledged, and nothing else has changed (R246, R260, R261). -/
structure Accepted (s u : State) : Prop where
  only : Only [.power, .events, .fabric] s u
  power : ∃ m, u.power = { s.power with ringActivity := m }
  queue : u.events.queue = s.events.queue
  selected : u.events.selected = s.events.selected
  nextSeq : u.events.nextSeq = s.events.nextSeq
  newest : u.events.newest = s.events.newest
  fabric : ∃ a b c d, u.fabric = { s.fabric with ports := a, rx := b, ctl := c, wire := d }
  line : ∀ i, portLine (getPort u i) = portLine (getPort s i)

/-- The reorder stage has passed on the held packets whose turn has come, and nothing else has changed (R260). -/
structure Advanced (x v : State) : Prop where
  only : Only [.fabric] x v
  fabric : ∃ a b, v.fabric = { x.fabric with rx := a, released := b }

/-- A delivered packet's command completes: the packet is accepted, the command acts on the accepted state u and leaves v, and
the reorder stage goes on from v. All of it stays in the command's footprint. -/
def Delivers (c : Instr) (s : State) (q : State → State → Prop) : Prop :=
  ∃ u v t, exec c s = .next t ∧ Only (footprint c) s t ∧ Accepted s u ∧ q u v ∧ Advanced v t

/-- Who writes by a path (R365). -/
def writer (via : Via) (s : State) : Asker :=
  match via with
  | .sdo => sdoAsker s
  | .fabric p _ => fabricAsker s p.domain

/-- A write is served at once: by the active controller, from PRE-OP on and with no request before it in the mailbox, or as a
delivered fabric command that names a partition its sender may name (R394, R395, R414). -/
def Served (via : Via) (s : State) : Prop :=
  match via with
  | .sdo => s.pilot.esm ≠ 0 ∧ mailboxServed s = true ∧ s.pilot.mailbox = []
  | .fabric p h => Arrives p s ∧ headerOk (fabricAsker s p.domain) h = true

/-- A served write completes: checked on a state u it leaves r with an abort code, or 0, and the answer goes back by its path. -/
def Writes (c : Instr) (via : Via) (s : State) (q : State → Nat → State → Prop) : Prop :=
  ∃ u code r t, exec c s = .next t ∧ Only (footprint c) s t ∧ q u code r ∧
    match via with
    | .sdo => u = s ∧ t = sdoReply code [] r
    | .fabric p h => Accepted s u ∧ Advanced (objReply p h code [] r) t

/-- An accepted change of an object that the settings hold is saved (R424). -/
def saved (index sub : Nat) (s : State) : State :=
  match findObj index sub with
  | some o => noteWrite o sub s
  | none => s

end Sys2Proof
end

