-- ==== Sys2Proof/Certificates/Slice0/Obligations.lean ====
section
/-! DEFINITION. The statements for the provers: what each command does, what it leaves, and what every step keeps. -/

open Sys2Proof Sys2Proof.Machine

/-- For every command and every state, a step of the state with the command at the front of its queue is exec of that
command on the state with the queue's rest. -/
def Obligations.StepRunsFrontCommand : Prop :=
  ∀ (c : Instr) (rest : List Instr) (s : State), step { s with pending := c :: rest } = exec c { s with pending := rest }

/-- With an empty queue a step runs the first packet that the reorder store has released (R260), else one reference cycle
passes while the standby converter runs and the mailbox is empty, else the state stays. The cycle changes no register, and
writes no event where no multicast waits and no memory cell holds a remote request. That a step without a command is one
reference cycle is the model's own choice (log 2). -/
def Obligations.StepWithoutCommandRunsTheReference : Prop :=
  ∀ s : State, s.pending = [] →
    (∀ c rest, s.fabric.released = c :: rest → step s = exec c { s with fabric := { s.fabric with released := rest } }) ∧
    (s.fabric.released = [] →
      (s.power.standby = false → step s = .next s) ∧
      (s.power.standby = true → s.pilot.mailbox = [] →
        ∃ t, step s = .next t ∧ t.time.refCycles = s.time.refCycles + 1 ∧ t.regs = s.regs ∧
          (s.mesh.casts = [] → (∀ e ∈ s.tiles, e.2.remote = []) → t.events = s.events)))

/-- From every state that satisfies Inv, a step that answers a next state gives one that satisfies Inv: the stored bytes
are in canonical form, at most 256 requests are pending and at most 4,096 records held, every flow's free credits and
outstanding packets make up 32, and the Assay's log holds at most 1,024 entries. -/
def Obligations.EveryStepKeepsTheInvariant : Prop :=
  ∀ s t : State, step s = .next t → Inv s → Inv t

/-- Inv holds of State.reset. -/
def Obligations.ResetHoldsTheInvariant : Prop := Inv State.reset

/-- Whatever command runs on whatever state, when exec answers a next state the queue of waiting commands is as it was,
and so are the serial, the versions, the vendor key, the device key, the lease strap, the calibration and the
coefficients. -/
def Obligations.NoCommandTouchesTheQueueOrManufacture : Prop :=
  ∀ (c : Instr) (s t : State), exec c s = .next t → t.pending = s.pending ∧ t.ident = s.ident

/-- The frame of all 215 commands: when exec answers a next state, every part of the state outside the command's footprint
is what it was. The footprint is a table over the commands that names parts of State. -/
def Obligations.EveryCommandStaysInItsFootprint : Prop :=
  ∀ (c : Instr) (s t : State), exec c s = .next t → Only (footprint c) s t

/-- Each of the 215 commands completes in every state: exec answers a next state, whatever the command, its operands and
the state. What the spec calls an error is an event, a status or a discarded packet of that state, and the spec stops the
machine at no command. -/
def Obligations.EveryCommandAnswersANextState : Prop :=
  ∀ (c : Instr) (s : State), ∃ t, exec c s = .next t

/-- A first lock sets the reference locked and lets the power-up sequence go on: at step 3 without a lease owner it stands
at step 4. In holdover a lock is kept for the next epoch mark, wake source 90 fires and a power-up that waited for the
link goes on. A loss of a locked link enters holdover, drops a frame's time and writes event 0x080. 60 s of holdover make
it long, with event 0x081, at a time not before holdover began plus 60 s. -/
def Obligations.TheTimingLinkMovesTheReference : Prop :=
  ∀ s : State,
    (2 ≤ s.pilot.step → s.time.ref = .noLock →
      Completes .referenceLock s (fun t => t = advanceUp { s with time := { s.time with ref := .locked } })) ∧
    (s.pilot.step = 3 → s.time.ref = .noLock → s.lease.owner = none → s.pilot.waferReset = none →
      Completes .referenceLock s (fun t => t.time = { s.time with ref := .locked } ∧ t.pilot.step = 4)) ∧
    (2 ≤ s.pilot.step → s.time.ref = .holdover ∨ s.time.ref = .holdoverLong → s.time.regaining = false →
      Completes .referenceLock s (fun t =>
        t = advanceUp (wakeFire [90] { s with time := { s.time with regaining := true } }))) ∧
    (s.time.ref = .locked →
      Completes .referenceLoss s (fun t =>
        t.time = { s.time with ref := .holdover, holdoverSince := now s, regaining := false, frameTod := none } ∧
        Raised (evPilot 0x080 1 0) s t)) ∧
    (s.time.ref = .holdover →
      Completes .holdoverTimeout s (fun t =>
        t.time.ref = .holdoverLong ∧ s.time.holdoverSince + 60 * secT ≤ now t ∧ now s ≤ now t ∧ Raised (evPilot 0x081 1 0) s t))

/-- A good frame on a locked link leaves its time, leap flags and UTC offset for the next epoch mark; a bad one is
counted. At the mark of a running wafer the time of day becomes the frame's, the tick is issued, a regained link is locked
again with event 0x082, and a step beyond 1 µs writes event 0x088. In holdover the tick goes on, 156,250 reference cycles
after the last. -/
def Obligations.FramesAndMarksSetTheTimeOfDay : Prop :=
  ∀ s : State,
    (∀ bs : List Byte, linkLocked s = true →
      Completes (.timeFrame bs) s (fun t =>
        t.time =
          if bs.length = 13 ∧ crc16 (bs.take 11) = fieldAt bs 11 2 then
            { s.time with frameTod := some (BitVec.ofNat 64 (fieldAt bs 0 8)), leapFlags := fieldAt bs 8 1
                          utcOffset := BitVec.ofNat 16 (fieldAt bs 9 2) }
          else { s.time with badFrames := s.time.badFrames + 1 })) ∧
    (∀ v : Word64, linkLocked s = true → s.pilot.step = 12 → s.time.frameTod = some v →
      Completes .epochMark s (fun t =>
        t.time.tod = v ∧ t.time.todTenths = 0 ∧ t.time.frameTod = none ∧ t.time.ticks = s.time.ticks + 1 ∧
        t.time.regaining = false ∧ (s.time.regaining = true → t.time.ref = .locked) ∧
        s.time.lastTick + 156250 ≤ t.time.refCycles ∧ t.time.lastTick = t.time.refCycles ∧
        (s.time.regaining = false →
          if v.toNat > (toNextTick s).time.tod.toNat + 1000 ∨ (toNextTick s).time.tod.toNat > v.toNat + 1000 then
            Raised (evPilot 0x088 0 0) s t
          else t.events = s.events))) ∧
    (s.time.ref = .holdover ∨ s.time.ref = .holdoverLong →
      Completes .holdoverTick s (fun t =>
        t.time.ticks = s.time.ticks + 1 ∧ t.time.ref = s.time.ref ∧ s.time.lastTick + 156250 ≤ t.time.refCycles ∧
        t.time.lastTick = t.time.refCycles ∧ t.events = s.events))

/-- A good supply starts the settle delay of 0x2100:03 reference cycles; its end, not before them, starts the loop at the
effective target. A window moves the internal target by at most 32 codes toward the effective one and stores the count.
The fourth window in band locks a locking field of a running wafer; the 64th window without lock is a first failure, which
powers the field down, or a second one, which leaves it failed with event 0x087. A locked field's droop zeroes the trim
and is counted; the 16th unlocked window resets the field. No other field's island changes on the way to lock. -/
def Obligations.FieldLoopsSettleLockDroopAndFail : Prop :=
  ∀ (f : Nat) (s : State), f < 56 →
    let c := getClk s f
    let e := effectiveTarget s f
    let near := fun (count t : Nat) => 200 * (count - t + (t - count)) ≤ t
    ((getFld s f).powered = true → (getFld s f).good = false → (getFld s f).fault = false →
      Completes (.supplyGood f) s (fun t =>
        getFld t f = { getFld s f with good := true } ∧
        getClk t f = { c with st := .settling, settleEnd := s.time.refCycles + setting s 0x2100 3
                              windows := 0, inBand := 0, unlocked := 0 } ∧
        ∀ g, g ≠ f → getFld t g = getFld s g ∧ getClk t g = getClk s g)) ∧
    (c.st = .settling →
      Completes (.settleDelayExpire f) s (fun t =>
        getClk t f = { c with st := .locking, target := e, windows := 0, inBand := 0 } ∧ c.settleEnd ≤ t.time.refCycles ∧
        ∀ g, g ≠ f → getClk t g = getClk s g)) ∧
    (∀ count, c.st = .locking → c.windows + 1 < 64 → ¬(near count e ∧ 4 ≤ c.inBand + 1) →
      Completes (.fllWindow f count) s (fun t =>
        (getClk t f).st = .locking ∧ (getClk t f).target = moveTarget c.target e ∧ (getClk t f).measured = count ∧
        (getClk t f).windows = c.windows + 1 ∧ (near count e → (getClk t f).inBand = c.inBand + 1) ∧
        (¬near count e → (getClk t f).inBand = 0) ∧ t.events = s.events ∧ ∀ g, g ≠ f → getClk t g = getClk s g)) ∧
    (∀ count, c.st = .locking → near count e → 4 ≤ c.inBand + 1 → s.pilot.step = 12 →
      Completes (.fllWindow f count) s (fun t =>
        (getClk t f).st = .locked ∧ (getClk t f).everLocked = true ∧ (getClk t f).measured = count ∧ t.events = s.events ∧
        ∀ g, g ≠ f → getClk t g = getClk s g)) ∧
    (∀ count, c.st = .locking → 64 ≤ c.windows + 1 → ¬(near count e ∧ 4 ≤ c.inBand + 1) → c.failures = 0 →
      Completes (.fllWindow f count) s (fun t =>
        (getClk t f).st = .off ∧ (getClk t f).failures = 1 ∧ t.events = s.events)) ∧
    (∀ count, c.st = .locking → 64 ≤ c.windows + 1 → ¬(near count e ∧ 4 ≤ c.inBand + 1) → 1 ≤ c.failures → s.pilot.step = 12 →
      Completes (.fllWindow f count) s (fun t =>
        (getClk t f).st = .failed ∧ (getFld t f).powered = false ∧ Raised (evField s 0x087 1 f 0) s t)) ∧
    (∀ count, c.st = .locked → count * 100 < c.target * 97 → c.unlocked < 16 →
      Completes (.fllWindow f count) s (fun t =>
        (getClk t f).st = .locked ∧ (getClk t f).trim = 0 ∧ (getClk t f).droops = c.droops + 1 ∧
        (getClk t f).unlocked = c.unlocked ∧ t.events = s.events)) ∧
    (∀ count, c.st = .locked → ¬(count * 100 < c.target * 97) → near count c.target →
      Completes (.fllWindow f count) s (fun t =>
        (getClk t f).st = .locked ∧ (getClk t f).target = moveTarget c.target e ∧ (getClk t f).measured = count ∧
        (getClk t f).unlocked = 0 ∧ t.events = s.events ∧ ∀ g, g ≠ f → getClk t g = getClk s g)) ∧
    (∀ count, c.st = .locked → ¬(count * 100 < c.target * 97) → ¬near count c.target → c.unlocked = 15 →
      (getFld s f).fault = false → (getFld s f).resetting = false → s.power.busGood = true → 7 ≤ s.pilot.step →
      Completes (.fllWindow f count) s (fun t =>
        (getFld t f).resetting = true ∧ (getFld t f).powered = true ∧ (getFld t f).good = false ∧ (getClk t f).st = .off))

/-- A ring PLL that locks sets its ready flag. A PLL that loses lock clears it, and each domain that it drives falls back
to the other PLL if ready, else to the reference, with event 0x084. A write of a source takes effect with event 0x086
where the source is ready, and is refused with event 0x085 and abort 0x0800_0022 where it is not. A write of an unused
PLL's multiplier clears its ready flag; one of a PLL in use is refused. A write of a field clock target is stored. -/
def Obligations.RingClocksLockFallBackAndSwitch : Prop :=
  ∀ s : State,
    (s.time.ref ≠ .noLock →
      Completes (.pllLock 0) s (fun t => t.time = { s.time with pll0 := true }) ∧
      Completes (.pllLock 1) s (fun t => t.time = { s.time with pll1 := true })) ∧
    (busSource s ≠ 1 → switchSource s ≠ 1 →
      Completes (.pllLoss 0) s (fun t => t.time = { s.time with pll0 := false } ∧ t.events = s.events ∧ t.regs = s.regs)) ∧
    (busSource s ≠ 2 → switchSource s ≠ 2 →
      Completes (.pllLoss 1) s (fun t => t.time = { s.time with pll1 := false } ∧ t.events = s.events ∧ t.regs = s.regs)) ∧
    (busSource s ≠ 1 → switchSource s = 1 →
      Completes (.pllLoss 0) s (fun t =>
        switchSource t = (if s.time.pll1 then 2 else 0) ∧ busSource t = busSource s ∧ t.time.pll0 = false ∧
        Raised (evPilot 0x084 1 0) s t)) ∧
    (busSource s = 2 → switchSource s ≠ 2 →
      Completes (.pllLoss 1) s (fun t =>
        busSource t = (if s.time.pll0 then 1 else 0) ∧ setting t 0x2100 7 / 16 = setting s 0x2100 7 / 16 ∧
        switchSource t = switchSource s ∧ t.time.pll1 = false ∧ Raised (evPilot 0x084 1 0) s t)) ∧
    (∀ via v, Served via s → (writer via s).own = none → v ≤ 2 →
      Writes (.sourceSwitch via 8 v) via s (fun u code r =>
        if sourceReady s v then code = 0 ∧ r = saved 0x2100 8 (raise (evPilot 0x086 0 0) (setReg 0x210008 v u))
        else code = 0x08000022 ∧ r = raise (evPilot 0x085 2 0) u)) ∧
    (∀ via v, Served via s → (writer via s).own = none → v < 256 → v % 16 ≤ 2 → v / 16 % 4 ≤ 2 →
      Writes (.sourceSwitch via 7 v) via s (fun u code r =>
        if sourceReady s (v % 16) = true ∧ busTooFast s v = false then
          code = 0 ∧ r = saved 0x2100 7 (raise (evPilot 0x086 0 0) (setReg 0x210007 v u))
        else code = 0x08000022 ∧ r = raise (evPilot 0x085 2 0) u)) ∧
    (∀ via v, Served via s → (writer via s).own = none → 4 ≤ v → v ≤ 16 →
      Writes (.pllMultiplierWrite via 4 v) via s (fun u code r =>
        if pllUsed s 0 then code = 0x08000022 ∧ r = raise (evPilot 0x085 2 0) u
        else code = 0 ∧ r = saved 0x2100 4 { setReg 0x210004 v u with time := { u.time with pll0 := false } })) ∧
    (∀ via v, Served via s → (writer via s).own = none → 4 ≤ v → v ≤ 16 →
      Writes (.pllMultiplierWrite via 5 v) via s (fun u code r =>
        if pllUsed s 1 then code = 0x08000022 ∧ r = raise (evPilot 0x085 2 0) u
        else code = 0 ∧ r = saved 0x2100 5 { setReg 0x210005 v u with time := { u.time with pll1 := false } })) ∧
    (∀ via f v, Served via s → (writer via s).own = none → f < 56 → 1536 ≤ v → v ≤ 4608 →
      Writes (.fieldClockTargetWrite via f v) via s (fun u code r =>
        code = 0 ∧ r = saved 0x2110 (f + 1) (setReg (0x211000 + f + 1) v u)))

/-- A pulse-per-second edge is stamped with the time of day less the nearest whole second, at one reference cycle more. A
sampled input takes the level, and its wake edges fire where the wafer may wake. A sync pulse's end drives its pin low. A
written function is saved and takes over as R458 says, while a second pulse-per-second pin is refused. -/
def Obligations.SidebandPinsSampleSwitchAndStamp : Prop :=
  ∀ (s : State) (pin : Nat), pin < 8 →
    ((getPin s pin).func = 3 →
      Completes (.ppsEdge pin) s (fun t =>
        t.time.refCycles = s.time.refCycles + 1 ∧ (getPin t pin).sample = true ∧ (getPin t pin).level = true ∧
        (t.time.tod.toNat % 1000000000 < 500000000 → t.time.ppsOffset = BitVec.ofNat 32 (t.time.tod.toNat % 1000000000)) ∧
        (500000000 ≤ t.time.tod.toNat % 1000000000 →
          t.time.ppsOffset = BitVec.ofInt 32 ((t.time.tod.toNat % 1000000000 : Nat) - 1000000000 : Int)))) ∧
    (∀ level, s.pilot.sleep = 0 → (getPin s pin).switching = none → (getPin s pin).func ≠ 3 →
      Completes (.sidebandInputChange pin level) s (fun t =>
        t.time.refCycles = s.time.refCycles + 1 ∧
        getPin t pin = { getPin s pin with
          sample := level, level := if (getPin s pin).func = 1 ∨ (getPin s pin).func = 4 then (getPin s pin).level else level } ∧
        t.events = s.events)) ∧
    (∀ level, Completes (.sidebandInputChange pin level) s (fun t =>
      t = wakeFire (pinSample pin level s).1 (pinSample pin level s).2)) ∧
    Completes (.syncPulseEnd pin) s (fun t =>
      (∀ i, i ≠ pin → getPin t i = getPin s i) ∧
      ((getPin s pin).pulse = true → getPin t pin = { getPin s pin with pulse := false, drive := some false }) ∧
      ((getPin s pin).pulse = false → getPin t pin = getPin s pin)) ∧
    (∀ via v, Served via s → (writer via s).own = none → v ≤ 4 →
      Writes (.sidebandFunctionWrite via pin v) via s (fun u code r =>
        if v = 3 ∧ ppsTaken s pin = true then code = 0x08000022 ∧ r = u
        else code = 0 ∧ r = saved 0x4000 (pin + 1) (pinFunction pin v (setReg (0x400000 + pin + 1) v u))))

/-- No wafer reset is in progress, the fields are powered or being powered, and the wafer is awake (R439). -/
def MayReset (s : State) : Prop := s.pilot.waferReset = none ∧ 6 ≤ s.pilot.step ∧ s.pilot.sleep ≠ 2

/-- A wafer reset for a cause has begun (R439): it is counted and timed, stands in its discharge hold at step 5, and every
field is without power, every store zero, every key slot empty and every flow new. -/
def WaferResetBegun (cause : Nat) (s t : State) : Prop :=
  t.pilot.waferCause = cause ∧ t.pilot.waferResets = s.pilot.waferResets + 1 ∧ t.pilot.waferReset = some (now s) ∧
  t.pilot.step = 5 ∧ t.pilot.waferHold = true ∧ t.mem = [] ∧ t.power.running = 0 ∧ t.power.busGood = false ∧
  t.sec.slots = [] ∧ t.fabric.tx = [] ∧ t.fabric.rx = [] ∧ t.ledger.waferReset = true ∧
  ∀ f, f < 56 → (getFld t f).powered = false ∧ (getClk t f).st = .off ∧ (getFld t f).fault = false

/-- From a state in which a wafer reset may begin: HV out of range is cause 1, fewer than four converters 2, the current
limit held 3, bus undervoltage 4, a cooling fault 5 and the request by permit 6. The reset is counted and timed, every
field loses power, every store is zero, every key slot is empty and every flow new. One that comes during another changes
only the cause and starts its step 3 again. -/
def Obligations.EveryCauseBeginsAWaferReset : Prop :=
  ∀ s : State,
    (MayReset s →
      (∀ v, ¬(650 ≤ v ∧ v ≤ 950) → Completes (.hvOutOfRange v) s (fun t =>
        WaferResetBegun 1 s t ∧ t.power.present = false ∧ t.power.wasOut = true ∧ t.power.band = .outOfRange ∧ t.power.volts = v)) ∧
      (∀ i, i < 8 → s.power.running.getLsbD i = true →
        runningK { s with power := { s.power with running := s.power.running &&& ~~~(BitVec.ofNat 8 (2 ^ i)) } } < 4 →
        Completes (.converterFault i) s (WaferResetBegun 2 s)) ∧
      (s.power.limiting = true → Completes .currentLimitTimeout s (fun t => WaferResetBegun 3 s t ∧ t.power.limiting = false)) ∧
      (∀ mv, mv < 44000 → s.power.running ≠ 0 → Completes (.busUndervoltage mv) s (WaferResetBegun 4 s)) ∧
      (450 < s.power.inlet ∨ s.power.flow < 200 → Completes .coolingFault s (WaferResetBegun 5 s)) ∧
      Completes .waferResetRequest s (WaferResetBegun 6 s)) ∧
    (s.pilot.waferReset.isSome = true →
      Completes .waferResetRequest s (fun t =>
        t.pilot.waferCause = 6 ∧ t.pilot.waferResets = s.pilot.waferResets ∧ t.pilot.waferReset = s.pilot.waferReset ∧
        t.pilot.step = 5 ∧ t.pilot.waferHold = true ∧ t.mem = []))

/-- A change of band stores the voltage and the band; entering the warning band writes event 0x000. HV is present once it
stayed in the operating band, with event 0x002 after an outage. A fault of one of more than four converters stops it and
writes event 0x003. The bus in regulation is noted, and lets the power-up sequence go on. A converter that begins to limit
writes event 0x004. -/
def Obligations.TheInletAndTheConvertersReport : Prop :=
  ∀ s : State,
    (∀ v, s.pilot.step = 12 → s.pilot.sleep = 0 →
      Completes (.hvBandChange v) s (fun t =>
        let band : HvBand := if 680 ≤ v ∧ v ≤ 920 then .operating else if 650 ≤ v ∧ v ≤ 950 then .warning else .outOfRange
        t.power = { s.power with volts := v, band := band } ∧
        if band = .warning ∧ s.power.band ≠ .warning then Raised (evCtl 0x000 0 (activeCtl s) 0) s t else t.events = s.events)) ∧
    (s.power.band = .operating → s.power.present = false → s.pilot.step = 12 →
      Completes .hvPresent s (fun t =>
        t.power = { s.power with present := true, wasOut := false } ∧
        if s.power.wasOut then Raised (evCtl 0x002 0 (activeCtl s) 0) s t else t.events = s.events)) ∧
    (∀ i, i < 8 → s.power.running.getLsbD i = true →
      4 ≤ runningK { s with power := { s.power with running := s.power.running &&& ~~~(BitVec.ofNat 8 (2 ^ i)) } } →
      Completes (.converterFault i) s (fun t =>
        t.power = { s.power with running := s.power.running &&& ~~~(BitVec.ofNat 8 (2 ^ i))
                                 faults := s.power.faults ||| BitVec.ofNat 8 (2 ^ i) } ∧
        Raised (evCtl 0x003 1 (activeCtl s) 0) s t)) ∧
    (s.power.running ≠ 0 →
      Completes .busRegulationReached s (fun t =>
        t = advanceUp { s with power := { s.power with busGood := true, busMv := 54000 } })) ∧
    (s.power.running ≠ 0 → s.pilot.step = 12 →
      Completes .busRegulationReached s (fun t => t.power = { s.power with busGood := true, busMv := 54000 })) ∧
    (s.pilot.step = 6 → s.power.present = true → 4 ≤ runningK s → s.pilot.groups ≠ 7 →
      Completes .busRegulationReached s (fun t => t.pilot.step = 7 ∧ t.power.busGood = true)) ∧
    (s.power.limiting = false → s.power.running ≠ 0 →
      Completes .currentLimit s (fun t =>
        t.power = { s.power with limiting := true } ∧ Raised (evCtl 0x004 1 (activeCtl s) 0) s t))

/-- A report of a powered field's regulator stores voltage, current, power and energy count and is counted; no other field
changes. A supply fault of a powered field leaves it without power, faulty, and with its clock island off; a field that no
partition holds writes event 0x00B. -/
def Obligations.FieldSuppliesReportAndFault : Prop :=
  ∀ (f : Nat) (s : State), f < 56 → (getFld s f).powered = true →
    (∀ mv ma w (e : Word64),
      Completes (.regulatorReport f mv ma w e) s (fun t =>
        getFld t f = { getFld s f with millivolts := mv, milliamps := ma, watts := w, delivered := e
                                       reports := (getFld s f).reports + 1 } ∧
        ∀ g, g ≠ f → getFld t g = getFld s g)) ∧
    (holder s f = none →
      Completes (.fieldSupplyFault f) s (fun t =>
        (getFld t f).powered = false ∧ (getFld t f).fault = true ∧ (getFld t f).good = false ∧ (getFld t f).resetting = false ∧
        (getClk t f).st = .off ∧ (∀ g, g ≠ f → getClk t g = getClk s g) ∧
        (s.test.st ≠ 1 → Raised (evField s 0x00B 1 f 0) s t))) ∧
    (∀ p a, holder s f = some p → getPart s p = some a → a.reset = none →
      Completes (.fieldSupplyFault f) s (fun t =>
        (getFld t f).powered = false ∧ (getFld t f).fault = true ∧ (getFld t f).good = false ∧ (getClk t f).st = .off ∧
        ∃ b, getPart t p = some b ∧ b.resets = a.resets + 1 ∧ b.resetCause = 2 ∧ b.job = none ∧ b.current = none ∧ b.queue = [] ∧
          (b.pstate = .resetting ∨ b.pstate = .scrubbing)))

/-- In an attribution interval each field's energy grows by what its regulator has delivered since the last one, and the
credits of that field add up to exactly that energy. The allowance loses what the inlet's average has drawn above the
sustained limit, or refills to at most 12 kJ; emptied, it begins a clamp. The clamp ends not before its time, with the
allowance full and event 0x006. -/
def Obligations.EnergyIsCreditedAndTheAllowanceKept : Prop :=
  ∀ s : State,
    (∀ average ring standby f, f < 56 →
      Completes (.attributionInterval average ring standby) s (fun t =>
        (getFld t f).energy = (getFld s f).energy + ((getFld s f).delivered - (getFld s f).intervalBase).toNat ∧
        amSum (getFld t f).lastCredit = ((getFld s f).delivered - (getFld s f).intervalBase).toNat ∧
        (getFld t f).intervalBase = (getFld s f).delivered ∧ (getFld t f).activity = [] ∧ (getFld t f).reports = 0)) ∧
    (∀ average ring standby,
      Completes (.attributionInterval average ring standby) s (fun t =>
        t.power.average = average ∧ t.power.standbyEnergy = s.power.standbyEnergy + standby ∧ t.power.ringActivity = [] ∧
        t.power.allowance =
          (if average > limitS s then s.power.allowance - (average - limitS s)
           else min 12000000 (s.power.allowance + 12000 / setting s 0x2200 6)) ∧
        (limitS s + s.power.allowance ≤ average → limitS s < average → t.power.clamped = true) ∧
        (average ≤ limitS s → t.power.clamped = s.power.clamped))) ∧
    (s.power.clamped = true →
      Completes .clampEnd s (fun t =>
        t.power = { s.power with clamped := false, allowance := 12000000 } ∧ s.power.clampEnds ≤ now t ∧
        Raised (evCtl 0x006 0 (activeCtl s) 0) s t))

/-- On a wafer whose partitions have nothing queued and no cadence, a publication takes the house power from the sample
and the last credits and gives each partition exactly the share of R331 under the power of the moment. A write of a
reservation is accepted where it is a multiple of G, fits the reservable limit and covers the admitted cadence, and is
refused with event 0x00D otherwise. A pool weight up to 15 is stored. -/
def Obligations.SharesFollowTheBudget : Prop :=
  ∀ s : State,
    (∀ sample, (∀ e ∈ s.parts, e.2.queue = [] ∧ e.2.cadence = none) → s.power.limiting = false → sample ≤ limitPeak s →
      Completes (.sharePublish sample) s (fun t =>
        t.power.sample = sample ∧ t.power.publishes = s.power.publishes + 1 ∧
        t.power.house = (if totalCredit s = 0 then sample else sample * s.power.houseCredit / totalCredit s) ∧
        ∀ p a, getPart s p = some a →
          ∃ b, getPart t p = some b ∧
            b = { a with share := shareOf { s with power := { s.power with house := t.power.house } } a
                         inForce := (a.reservation, a.weight) })) ∧
    (∀ via p v a, Served via s → (writer via s).own = none → p < 56 → v < 2 ^ 32 → getPart s p = some a →
      Writes (.reservationWrite via false p v) via s (fun u code r =>
        if v % granularity s = 0 ∧ sumReserved s - a.reservation + v ≤ setting s 0x2200 8 ∧ belowCadence a v = false then
          code = 0 ∧ r = saved 0x2210 (p + 1) (modPart p (fun b => { b with reservation := v }) u)
        else code = 0x08000022 ∧ r = raise (evPart s 0x00D 2 p 0) u)) ∧
    (∀ via p v a, Served via s → (writer via s).own = none → p < 56 → v ≤ 15 → getPart s p = some a →
      Writes (.reservationWrite via true p v) via s (fun u code r =>
        code = 0 ∧ r = saved 0x2211 (p + 1) (modPart p (fun b => { b with weight := v }) u)))

/-- A sample of 16 good readings stores them and makes the field's temperature the greatest, with no event below 103 °C.
In a thermal period a single partition-held field at or above the throttle threshold that has no step left to give back
takes one step, with event 0x040, and no field changes where none is hot and none holds a step. A coolant sample stores
inlet, outlet, flow and the coolant value of S; entering and leaving derating write events 0x045 and 0x046. -/
def Obligations.HeatAndCoolantStepTheFields : Prop :=
  ∀ s : State,
    (∀ f xs, f < 56 → xs.length = 16 → (getFld s f).failedSensors = 0 → (∀ i, i < 16 → sensorFails xs i = false) →
      (∀ x ∈ xs, x < 1030) →
      Completes (.sensorSample f xs) s (fun t =>
        (getFld t f).readings = xs ∧ (getFld t f).failedSensors = 0 ∧ (getFld t f).temp ∈ xs ∧
        (∀ x ∈ xs, x ≤ (getFld t f).temp) ∧ (getFld t f).hot103 = false ∧ (getFld t f).tSteps = (getFld s f).tSteps ∧
        t.events = s.events ∧ ∀ g, g ≠ f → getFld t g = getFld s g)) ∧
    (∀ f, f < 56 → (holder s f).isSome = true → (getFld s f).temp ≥ (setting s 0x2300 1 * 10 : Nat) → atFloor s f = false →
      (∀ g, g < 56 → g ≠ f → holder s g = none ∨ (getFld s g).temp < (setting s 0x2300 1 * 10 : Nat)) →
      (∀ g, g < 56 → (getFld s g).tSteps = 0) → setting s 0x2300 2 < setting s 0x2300 1 →
      Completes .thermalPeriod s (fun t =>
        (getFld t f).tSteps = 1 ∧ (getFld t f).stepsAdded = (getFld s f).stepsAdded + 1 ∧
        (∀ g, g ≠ f → getFld t g = getFld s g) ∧ Raised (evField s 0x040 0 f (unsigned 64 (getFld s f).temp)) s t)) ∧
    ((∀ g, g < 56 → (getFld s g).tSteps = 0 ∧ (holder s g = none ∨ (getFld s g).temp < (setting s 0x2300 1 * 10 : Nat))) →
      Completes .thermalPeriod s (fun t => t = s)) ∧
    (∀ inlet outlet flow, s.pilot.step = 12 → s.pilot.sleep = 0 → 200 ≤ inlet →
      Completes (.coolantSample inlet outlet flow) s (fun t =>
        t.power = { s.power with inlet := inlet, outlet := outlet, flow := flow, coolantS := coolantValue inlet flow
                                 derating := coolantValue inlet flow < 30000, cold := false } ∧
        if coolantValue inlet flow < 30000 ∧ s.power.derating = false then Raised (evCtl 0x045 1 (activeCtl s) 0) s t
        else if 30000 ≤ coolantValue inlet flow ∧ s.power.derating = true then Raised (evCtl 0x046 0 (activeCtl s) 0) s t
        else t.events = s.events))

/-- A frame that fails its sync, length or CRC changes only that controller's bad-frame count. A valid one on a link that
is not lost stores its figures, marks the open ledger second, adds the gap of the frame counter to the missed frames and
makes the link receiving; the other controller is unchanged. A first frame of an unremarkable status at the active
controller writes no event. A new serial there sets the ledger's base to the frame's energy, at once, or where the frame
came after the closing tick of a second that has still to close, when that second has closed. Where the link was
receiving, a second without a frame loses it, not before 1 s after the last frame, with event 0x340 at the active
controller only. -/
def Obligations.MirrorFramesReachTheController : Prop :=
  ∀ (c : Ctl) (s : State),
    (∀ bs, frameValid bs = false →
      Completes (.mirrorFrame c bs) s (fun t =>
        getCtl c t = { getCtl c s with mirror := { (getCtl c s).mirror with bad := min 0xFFFFFFFF ((getCtl c s).mirror.bad + 1) } } ∧
        getCtl (otherCtl c) t = getCtl (otherCtl c) s ∧ t.events = s.events ∧ t.ledger = s.ledger ∧ t.assay = s.assay)) ∧
    (∀ bs, frameValid bs = true → (getCtl c s).mirror.link ≠ 2 →
      Completes (.mirrorFrame c bs) s (fun t =>
        let m := (getCtl c t).mirror
        m.serial = BitVec.ofNat 64 (fieldAt bs 8 8) ∧ m.energy = fieldAt bs 16 8 ∧ m.millivolts = fieldAt bs 24 4 ∧
        m.milliamps = fieldAt bs 28 4 ∧ m.tenthWatts = fieldAt bs 32 4 ∧ m.checksum = BitVec.ofNat 32 (fieldAt bs 36 4) ∧
        m.status = BitVec.ofNat 16 (fieldAt bs 40 2) ∧ m.logUsed = fieldAt bs 42 2 ∧ m.counter = BitVec.ofNat 32 (fieldAt bs 4 4) ∧
        m.link = 1 ∧ m.lastAt = now s ∧ m.fresh = true ∧ m.bad = (getCtl c s).mirror.bad ∧
        ((getCtl c s).mirror.link = 0 → m.missed = min 0xFFFFFFFF (getCtl c s).mirror.missed) ∧
        ((getCtl c s).mirror.link = 1 → m.counter = (getCtl c s).mirror.counter + 1 →
          m.missed = min 0xFFFFFFFF (getCtl c s).mirror.missed) ∧
        getCtl (otherCtl c) t = getCtl (otherCtl c) s ∧ (c ≠ activeCtl s → t.events = s.events ∧ t.ledger = s.ledger))) ∧
    (∀ bs, frameValid bs = true → c = activeCtl s → (getCtl c s).mirror = {} → fieldAt bs 40 2 = 1 →
      Completes (.mirrorFrame c bs) s (fun t => t.events = s.events ∧ t.ledger = s.ledger)) ∧
    (∀ bs, frameValid bs = true → c = activeCtl s → (getCtl c s).mirror.link = 1 →
      (getCtl c s).mirror.serial ≠ BitVec.ofNat 64 (fieldAt bs 8 8) →
      Completes (.mirrorFrame c bs) s (fun t =>
        (getCtl c t).mirror.newSerial = true ∧
        (closeDue s = false → (getCtl c s).mirror.due = none →
          t.ledger = { s.ledger with base := some (fieldAt bs 16 8) }) ∧
        (closeDue s = true ∨ (getCtl c s).mirror.due.isSome = true →
          t.ledger = s.ledger ∧ dueBase (getCtl c t).mirror s.ledger.base = some (fieldAt bs 16 8)))) ∧
    ((getCtl c s).mirror.link = 1 →
      Completes (.mirrorLinkLoss c) s (fun t =>
        getCtl c t = { getCtl c s with mirror := { (getCtl c s).mirror with link := 2 } } ∧
        getCtl (otherCtl c) t = getCtl (otherCtl c) s ∧ (getCtl c s).mirror.lastAt + secT ≤ now t ∧
        if c = activeCtl s then Raised { evCtl 0x340 1 c 0 with cls := 4 } s t else t.events = s.events))

/-- Where the second had a valid frame and neither a new serial, a fall, a lease change nor a wafer reset marks it,
LEDGER_CLOSE counts one second, adds M (the energy of the second's last frame less the base) to the ledger total, books
each partition its part of M rounded down, and house the rest, so that house and the partitions together gain exactly M.
The next second starts empty. A second without a frame stays open: its partition credits go to house, with event 0x342.
While a wafer reset goes on no second closes. -/
def Obligations.TheLedgerSecondClosesExactly : Prop :=
  ∀ s : State, s.ledger.begun = true →
    let mir := (getCtl (activeCtl s) s).mirror
    let view := closingView mir
    let credits := (s.parts.map (fun e => e.2.secondCredit)).sum + s.power.houseSecond + s.power.standbyEnergy
    (∀ b, view.2.1 = true → view.2.2.1 = false → view.2.2.2 = false → s.ledger.base = some b →
      s.ledger.waferReset = false → s.ledger.leaseMoved = false →
      Completes .ledgerClose s (fun t =>
        t.ledger.seconds = s.ledger.seconds + 1 ∧ t.ledger.total = s.ledger.total + (view.1 - b) ∧
        t.ledger.last = view.1 - b ∧ t.ledger.base = dueBase mir (some view.1) ∧
        t.ledger.unapportioned = s.ledger.unapportioned ∧ t.ledger.ticks = s.ledger.ticks - 1000 ∧
        t.ledger.house + t.ledger.booked = s.ledger.house + s.ledger.booked + (view.1 - b) ∧
        t.power.houseSecond = 0 ∧ t.power.standbyEnergy = 0 ∧ (getCtl (activeCtl s) t).mirror = freshMirror mir ∧
        ∀ p a, getPart s p = some a → ∃ a', getPart t p = some a' ∧ a'.secondCredit = 0 ∧
          a'.energy = a.energy + (if credits = 0 then 0 else (view.1 - b) * a.secondCredit / credits) ∧
          a'.tenantEnergy = a'.energy / 1000)) ∧
    (view.2.1 = false → ¬(s.ledger.waferReset = true ∧ s.pilot.waferReset.isSome = true) →
      Completes .ledgerClose s (fun t =>
        t.power.houseSecond = s.power.houseSecond + (s.parts.map (fun e => e.2.secondCredit)).sum ∧
        t.power.standbyEnergy = s.power.standbyEnergy ∧ t.ledger.total = s.ledger.total ∧ t.ledger.house = s.ledger.house ∧
        t.ledger.seconds = s.ledger.seconds ∧ t.ledger.base = dueBase mir s.ledger.base ∧
        (∀ p a, getPart s p = some a → ∃ a', getPart t p = some a' ∧ a'.secondCredit = 0 ∧ a'.energy = a.energy) ∧
        Raised (evCtl 0x342 1 (activeCtl s) 0) s t)) ∧
    (s.ledger.waferReset = true → s.pilot.waferReset.isSome = true →
      Completes .ledgerClose s (fun t =>
        t.ledger.seconds = s.ledger.seconds ∧ t.ledger.total = s.ledger.total ∧ t.ledger.house = s.ledger.house ∧
        t.events = s.events ∧ t.power = s.power))

/-- A metrological pulse is counted and timed. A diagnostic pulse comes at most once a second and never within 10 ms of a
metrological one. A 60 s window yields the LED result of R351 and starts new counts; a change is logged. Programming mode
needs the held seal switch and the password, and ends with the switch. In programming mode and with a log that is not full
a parameter, the firmware or the case bit changes and is logged; outside it nothing changes. A full log cleared in
programming mode has been read out and holds the clearing as its first entry; a log that is not full is not cleared. A
readout returns energy, checksum, status and log. An opened case sets its bit and is logged. -/
def Obligations.TheAssayKeepsItsPulsesAndLog : Prop :=
  ∀ s : State,
    let v := s.assay
    let onUs := 2000 * v.windowPulses + 20 * v.windowDiag
    let logged := fun (kind a b : Nat) (old : List (Nat × Nat × Nat × Nat)) (t : State) =>
      t.assay.log = old ++ [(kind, now s, a, b)] ∧ t.assay.logFull = (decide (old.length + 1 = 1024))
    Completes .metrologicalPulse s (fun t =>
      t.assay = { v with pulses := v.pulses + 1, windowPulses := v.windowPulses + 1, lastPulse := some (now s) }) ∧
    ((∀ d, v.lastDiag = some d → d + secT ≤ now s) → (∀ m, v.lastPulse = some m → m + 10 * msT ≤ now s) →
      Completes .diagnosticPulse s (fun t => t.assay = { v with windowDiag := v.windowDiag + 1, lastDiag := some (now s) })) ∧
    ((∃ d, v.lastDiag = some d ∧ now s < d + secT) ∨ (∃ m, v.lastPulse = some m ∧ now s < m + 10 * msT) →
      Completes .diagnosticPulse s (fun t => t = s)) ∧
    (∀ drive optical,
      Completes (.ledCheckWindow drive optical) s (fun t =>
        t.assay.led =
          (if drive = false then .failed else if onUs < 4000 then .unverified else if optical then .good else .failed) ∧
        t.assay.windowPulses = 0 ∧ t.assay.windowDiag = 0 ∧ t.assay.pulses = v.pulses ∧ t.assay.energy = v.energy ∧
        (t.assay.led = v.led → t.assay.log = v.log) ∧
        (t.assay.led ≠ v.led → v.log.length < 1024 → logged 6 (ledCode v.led) (ledCode t.assay.led) v.log t))) ∧
    (v.log.length < 1024 →
      Completes (.programmingMode true true) s (fun t =>
        t.assay.programming = true ∧ t.assay.sealHeld = true ∧ logged 2 0 0 v.log t ∧ t.assay.params = v.params)) ∧
    (∀ password, Completes (.programmingMode false password) s (fun t =>
      t.assay = { v with sealHeld := false, programming := false })) ∧
    Completes (.programmingMode true false) s (fun t => t.assay = { v with sealHeld := true }) ∧
    Completes .sealSwitchRelease s (fun t => t.assay = { v with sealHeld := false, programming := false }) ∧
    (v.programming = true → v.logFull = false → v.log.length < 1024 →
      (∀ i x, Completes (.assayParameterChange (.parameter i x)) s (fun t =>
        amFind t.assay.params i = some x ∧ (∀ j, j ≠ i → amFind t.assay.params j = amFind v.params j) ∧ logged 3 i x v.log t)) ∧
      (∀ k, Completes (.assayParameterChange (.firmware k)) s (fun t =>
        t.assay.checksum = k ∧ t.assay.params = v.params ∧ logged 4 v.checksum.toNat k.toNat v.log t)) ∧
      Completes (.assayParameterChange .clearCase) s (fun t =>
        t.assay.caseOpen = false ∧ t.assay.params = v.params ∧ logged 3 0 0 v.log t)) ∧
    (∀ c, v.programming = false ∨ v.logFull = true → Completes (.assayParameterChange c) s (fun t => t = s)) ∧
    (v.programming = true → v.logFull = true →
      Completes .logClear s (fun t =>
        logged 7 v.log.length 0 [] t ∧ t.assay.readouts = v.readouts ++ [assayReadout s] ∧ t.assay.programming = true)) ∧
    (v.programming = false ∨ v.logFull = false → Completes .logClear s (fun t => t = s)) ∧
    Completes .dataReadout s (fun t => t.assay = { v with readouts := v.readouts ++ [assayReadout s] }) ∧
    (v.log.length < 1024 → Completes .caseOpened s (fun t => t.assay.caseOpen = true ∧ logged 5 0 0 v.log t)) ∧
    (1024 ≤ v.log.length → Completes .caseOpened s (fun t =>
      t.assay = { v with caseOpen := true, lostEvents := min 0xFFFF (v.lostEvents + 1) }))

/-- The last request that a change has made of the event controller is the one given. -/
def LastRaised (e : EvReq) (t : State) : Prop := ∃ u, t.events = (raise e u).events

/-- A request of the active controller about a key domain (R377). -/
def keyEv (s : State) (code kind d : Nat) : EvReq :=
  { evCtl code kind (activeCtl s) 0 with domain := d, part := (partOfDomain s d).getD 0xFF }

/-- A creation that R370 allows makes the partition of its south-west field's number with the role's budget, holds its
fields and changes no other partition or field; any other is refused with event 0x302. A delete of a quiesced partition
without a job begins its scrub and frees the fields from it; one that is not quiesced is first reset with cause 3. A
completed scrub zeroes every store of the partition and no other byte; a deleted partition is then gone, its fields idle,
with event 0x305, and a reset one is ready again. -/
def Obligations.PartitionsAreCreatedDeletedAndScrubbed : Prop :=
  ∀ s : State,
    (∀ value : Word32,
      let v := value.toNat
      let fx := bitsOf v 31 29
      let fy := bitsOf v 28 26
      let w := bitsOf v 25 23 + 1
      let h := bitsOf v 22 20 + 1
      let d := bitsOf v 19 14
      let role := bitsOf v 13 12
      let p := fy * 8 + fx
      let g := granularity s
      (mayCreate s fx fy w h d role = true → getPart s p = none →
        Completes (.partitionCreate value) s (fun t =>
          (∃ a, getPart t p = some a ∧ a.fx = fx ∧ a.fy = fy ∧ a.width = w ∧ a.height = h ∧ a.domain = d ∧ a.role = role ∧
            a.pstate = .ready ∧ a.job = none ∧ a.weight = (roleBudget role).2 ∧
            a.reservation =
              min ((roleBudget role).1 * (w * h) / g * g) ((setting s 0x2200 8 - sumReserved s) / g * g)) ∧
          (∀ q, q ≠ p → getPart t q = getPart s q) ∧
          (∀ f, f ∈ rectFields fx fy w h → (getFld t f).owner = .held p ∧ (getFld t f).spanValid = true) ∧
          (∀ f, f ∉ rectFields fx fy w h → getFld t f = getFld s f) ∧ LastRaised (evPart t 0x303 0 p 0) t)) ∧
      (mayCreate s fx fy w h d role = false →
        Completes (.partitionCreate value) s (fun t => t = raise (evCtl 0x302 2 (activeCtl s) v) s))) ∧
    (∀ p a, p < 56 → getPart s p = some a → a.reset = none → a.pstate ≠ .scrubbing → quiesced s p = true → a.job = none →
      Completes (.partitionDelete p) s (fun t =>
        getPart t p = some { a with pstate := .scrubbing, reset := some { since := now s, deleting := true } } ∧
        (∀ q, q ≠ p → getPart t q = getPart s q) ∧
        (∀ f, f ∈ partFields a → (getFld t f).owner = .scrubbing ∧ (getFld t f).spanValid = false) ∧
        (∀ f, f ∉ partFields a → getFld t f = getFld s f) ∧ LastRaised (evPart t 0x304 0 p 0) t)) ∧
    (∀ p a, p < 56 → getPart s p = some a → a.reset = none → a.pstate ≠ .scrubbing → quiesced s p = false →
      Completes (.partitionDelete p) s (fun t =>
        ∃ b, getPart t p = some b ∧ b.resets = a.resets + 1 ∧ b.resetCause = 3 ∧ b.job = none ∧ b.current = none ∧ b.queue = [] ∧
          b.reset.map PReset.deleting = some true)) ∧
    (∀ p, p < 56 → getPart s p = none → Completes (.partitionDelete p) s (fun t => t = s)) ∧
    (∀ p a, getPart s p = some a → a.pstate = .scrubbing → Memory.wf s.mem = true →
      Completes (.scrubComplete p []) s (fun t =>
        (∀ key, readByte t key = if inPart a (key / 0x400000) then 0 else readByte s key) ∧
        ((a.reset.map PReset.deleting).getD false = true →
          getPart t p = none ∧ (∀ f, f ∈ partFields a → (getFld t f).owner = .idle) ∧
          Raised { evCtl 0x305 0 (activeCtl s) 0 with part := p } s t) ∧
        ((a.reset.map PReset.deleting).getD false = false → faultField s a = none →
          (∃ b, getPart t p = some b ∧ b.pstate = .ready ∧ b.reset = none ∧ b.resets = a.resets ∧ b.domain = a.domain) ∧
          t.pilot.lossScope = p ∧ t.pilot.lossTime = s.time.tod ∧ (∀ f, getFld t f = getFld s f) ∧
          (sumReserved s + a.reservation ≤ setting s 0x2200 8 → a.reservation % granularity s = 0 →
            Raised (evPart s 0x3C5 0 p ((now s - (a.reset.getD {}).since) / usT)) s t))))

/-- STAGE under a generation above every earlier one, with a secret and to a slot that is not the send slot, fills the
slot with the domain's key of that generation and records the generation, with event 0x308; else event 0x309 and nothing
else. LOAD of a staged slot makes it the send slot; the domain's flows restart at 0 once nothing of the domain is
outstanding. CLEAR empties a slot. CLEAR SECRET erases secret, slots and generations. A span secret is the second half of
its 64 bytes under the key that the X25519 exchange with the first half gives. No operation touches another domain's
slots. -/
def Obligations.KeySlotsFollowTheirOperations : Prop :=
  ∀ (d slot : Nat) (s : State), d < 64 → slot < 4 →
    let k := getSlots s d
    let restarted := fun (t : State) =>
      (∀ node, getTx t node d = { getTx s node d with next := 0, exhaustedNoted := false }) ∧
      (∀ node e, e < 64 → e ≠ d → getTx t node e = getTx s node e)
    let others := fun (t : State) => ∀ e, e ≠ d → getSlots t e = getSlots s e
    (∀ gen, gen < 2 ^ 32 → s.sec.secret.isSome = true → amGet s.sec.highest d 0 < gen → k.send ≠ some slot →
      Completes (.stageSlot d slot gen) s (fun t =>
        amFind (getSlots t d).gens slot = some gen ∧ (∀ i, i ≠ slot → amFind (getSlots t d).gens i = amFind k.gens i) ∧
        (∀ x, s.sec.secret = some x → amFind (getSlots t d).keys slot = some (domainKey x d gen)) ∧
        (getSlots t d).send = k.send ∧ amGet t.sec.highest d 0 = gen ∧ t.sec.secret = s.sec.secret ∧ others t ∧
        Raised (keyEv s 0x308 0 d) s t)) ∧
    (∀ gen, gen < 2 ^ 32 → s.sec.secret = none ∨ gen ≤ amGet s.sec.highest d 0 ∨ k.send = some slot →
      Completes (.stageSlot d slot gen) s (fun t => t = raise (keyEv s 0x309 2 d) s)) ∧
    ((amFind k.gens slot).isSome = true → k.send ≠ some slot →
      Completes (.loadSlot d slot) s (fun t =>
        (getSlots t d).send = some slot ∧ (getSlots t d).gens = k.gens ∧ others t ∧ Raised (keyEv s 0x308 0 d) s t ∧
        (∀ i, k.send = some i → (getSlots t d).oldGen = amGet k.gens i 0) ∧
        (domainOut s d = 0 → (getSlots t d).draining = false ∧ restarted t) ∧
        (domainOut s d ≠ 0 → (getSlots t d).draining = true ∧ t.fabric = s.fabric))) ∧
    (amFind k.gens slot = none ∨ k.send = some slot →
      Completes (.loadSlot d slot) s (fun t => t = raise (keyEv s 0x309 2 d) s)) ∧
    Completes (.clearSlot d slot) s (fun t =>
      amFind (getSlots t d).gens slot = none ∧ (∀ i, i ≠ slot → amFind (getSlots t d).gens i = amFind k.gens i) ∧
      (getSlots t d).send = (if k.send = some slot then none else k.send) ∧ t.sec.highest = s.sec.highest ∧ others t ∧
      Raised (keyEv s 0x308 0 d) s t) ∧
    Completes .clearSecret s (fun t =>
      t.sec = { s.sec with secret := none, slots := [], highest := [] } ∧
      t.events = (raise (evCtl 0x30A 0 (activeCtl s) 0) (raise (keyEv s 0x308 0 0x80) s)).events) ∧
    (∀ value : List Byte, value.length = 64 →
      Completes (.spanSecretLoad value) s (fun t =>
        t.sec = { s.sec with secret := some (List.zipWith (fun (a b : Byte) => a ^^^ b) (slice value 32 32)
          (hkdf (x25519 s.ident.deviceKey (slice value 0 32)) (leBytes 8 s.ident.serial.toNat) (strBytes "ZW56 span secret" 16) 32)) } ∧
        Raised (evCtl 0x30A 0 (activeCtl s) 0) s t)) ∧
    (k.draining = true → domainOut s d = 0 →
      Completes (.flowRestart d) s (fun t =>
        getSlots t d = { k with draining := false } ∧ others t ∧ t.sec.highest = s.sec.highest ∧ restarted t)) ∧
    (k.draining = false ∨ domainOut s d ≠ 0 → Completes (.flowRestart d) s (fun t => t = s))

/-- The header of a permit is formed as R384 says: its magic, version, reserved bytes and value length. -/
def permitFormed (bs : List Byte) : Prop :=
  fieldAt bs 0 4 = 0x5A575031 ∧ fieldAt bs 4 1 = 1 ∧ fieldAt bs 6 2 = 0 ∧ fieldAt bs 28 4 = 0 ∧ 1 ≤ fieldAt bs 27 1 ∧ fieldAt bs 27 1 ≤ 64

/-- The permit status object after a permit: the status and the object that it named (R385). -/
def permitNoted (st : Nat) (bs : List Byte) (s : State) : State :=
  { s with sec := { s.sec with status := BitVec.ofNat 32 (st * 2 ^ 24 + fieldAt bs 24 2 * 256 + fieldAt bs 26 1) } }

/-- A permit refused with a status: the status is noted, event 0x301 carries it, and the write aborts (R385, R386); one
for a retirement writes event 0x11D also (R205). -/
def PermitRefused (st : Nat) (bs : List Byte) (w : State) (code : Nat) (r : State) : Prop :=
  code = 0x08000022 ∧
  r = refuseRetire (fieldAt bs 24 2 == 0x2B00 && fieldAt bs 26 1 == 5) (raise (evCtl 0x301 2 (activeCtl w) st) (permitNoted st bs w))

/-- A permit of 160 bytes is refused with status 1 where its form is wrong, else 2 for another serial, 3 for another
nonce, 4 for a signer without a key, 5 for a signature that does not verify; none of these spends the nonce. One whose
signature verifies spends the nonce and has the outcome of the object's own rule: an object that no permit writes gives
status 6, and an accepted change of the management domain number is written with event 0x300 and status 0. A read session
of M, V or S lasts the seconds that its permit names, ends at 0 seconds, and ends not before its time. -/
def Obligations.PermitsAreCheckedInOrder : Prop :=
  ∀ s : State,
    (∀ via bs, Served via s → (writer via s).own = none → bs.length = 160 →
      let key := (signerRole (fieldAt bs 5 1)).bind (signerKey s)
      let serial := fieldAt bs 8 8 = s.ident.serial.toNat
      let nonce := fieldAt bs 16 8 = s.sec.nonce.toNat
      let spent := fun (u : State) => { u with sec := { u.sec with nonce := u.sec.nonce + 1 } }
      (¬permitFormed bs → Writes (.permitSubmission via bs) via s (fun u code r => PermitRefused 1 bs u code r)) ∧
      (permitFormed bs → ¬serial → Writes (.permitSubmission via bs) via s (fun u code r => PermitRefused 2 bs u code r)) ∧
      (permitFormed bs → serial → ¬nonce →
        Writes (.permitSubmission via bs) via s (fun u code r => PermitRefused 3 bs u code r)) ∧
      (permitFormed bs → serial → nonce → key = none →
        Writes (.permitSubmission via bs) via s (fun u code r => PermitRefused 4 bs u code r)) ∧
      (∀ k, permitFormed bs → serial → nonce → key = some k → edVerify k (slice bs 0 96) (slice bs 96 64) = false →
        Writes (.permitSubmission via bs) via s (fun u code r => PermitRefused 5 bs u code r)) ∧
      (∀ k, permitFormed bs → serial → nonce → key = some k → edVerify k (slice bs 0 96) (slice bs 96 64) = true →
        Writes (.permitSubmission via bs) via s (fun u code r =>
          let (st, w) := applyPermit none ((signerRole (fieldAt bs 5 1)).getD .operator) (fieldAt bs 24 2) (fieldAt bs 26 1)
            (fieldAt bs 27 1) (slice bs 32 (fieldAt bs 27 1)) (spent u)
          if st = 0 then code = 0 ∧ r = permitNoted 0 bs w else PermitRefused st bs w code r)) ∧
      (∀ k, permitFormed bs → serial → nonce → key = some k → edVerify k (slice bs 0 96) (slice bs 96 64) = true →
        findObj (fieldAt bs 24 2) (fieldAt bs 26 1) = none →
        Writes (.permitSubmission via bs) via s (fun u code r => PermitRefused 6 bs (spent u) code r)) ∧
      (∀ k, permitFormed bs → serial → nonce → key = some k → edVerify k (slice bs 0 96) (slice bs 96 64) = true →
        fieldAt bs 5 1 = 1 → fieldAt bs 24 2 = 0x2500 → fieldAt bs 26 1 = 4 → fieldAt bs 27 1 = 1 → fieldAt bs 32 1 < 64 →
        partOfDomain s (fieldAt bs 32 1) = none →
        Writes (.permitSubmission via bs) via s (fun u code r =>
          code = 0 ∧ mgmtDomain r = fieldAt bs 32 1 ∧ r.sec.nonce = s.sec.nonce + 1 ∧ r.sec.status = 0x00250004 ∧
          r.events = (raise (evCtl 0x300 0 (activeCtl s) 0) u).events))) ∧
    (∀ signer seconds, signer = .metrology ∨ signer = .vendor ∨ signer = .service → 0 < seconds → seconds ≤ 3600 →
      Completes (.readSession signer seconds) s (fun t =>
        t.sec = { s.sec with session := some (signer, now s + seconds * secT) } ∧ Raised (evCtl 0x30C 0 (activeCtl s) 0) s t)) ∧
    (∀ signer x, signer = .metrology ∨ signer = .vendor ∨ signer = .service → s.sec.session = some x →
      Completes (.readSession signer 0) s (fun t =>
        t.sec = { s.sec with session := none } ∧ Raised (evCtl 0x30C 0 (activeCtl s) 0) s t)) ∧
    (∀ r at', s.sec.session = some (r, at') →
      Completes .readSessionExpire s (fun t =>
        t.sec = { s.sec with session := none } ∧ at' ≤ now t ∧ Raised (evCtl 0x30C 0 (activeCtl s) 0) s t))

/-- A tile that is to be retired while its partition holds an open job waits with event 0x116; with no open job it is
retired: its site is absent, its stores are zero and its tile blank, the routing generation counts up, and event 0x117 or
0x118 tells whether a spare took over; a request for a site that is not enabled only writes event 0x11D. RETIREMENT does
the same to a waiting tile once the job has closed. A router takes a whole table of detour entries from the active
controller, and discards one of any other sender with event 0x11C. A corrected unit is counted at its tile and its field.
A corrupted unit is discarded with event 0x111: a lost memory request sends a FAIL_NOTICE, any other aborts the run of its
partition and so closes its job. A faulty router closes the job of the partition that holds its tile (log 110) and is
retired. -/
def Obligations.TilesRetireAndRoutersTakeTheirEntries : Prop :=
  ∀ (x y : Nat) (s : State), x < 288 → y < 280 →
    let k := siteKey x y
    let retired := fun (t : State) =>
      siteAbsent t k = true ∧ t.mesh.routingGen = s.mesh.routingGen + 1 ∧ getTile t k = {} ∧
      (∀ key, key / 0x400000 = k → readByte t key = 0) ∧
      LastRaised (if (nearestSpare s k).isSome then { evCell s 0 0 ⟨x, y, 3⟩ 0 with code := 0x117 }
        else { evCell s 0 0 ⟨x, y, 3⟩ 0 with code := 0x118, kind := 1 }) t
    let works := siteState s k = .enabled ∨ siteState s k = .spareAssigned
    (∀ value : Word32, bitsOf value.toNat 31 23 = x → bitsOf value.toNat 22 14 = y →
      (siteState s k = .enabled → k ∉ s.mesh.pendingRet → siteBusy s k = false → Completes (.retireRequest value) s retired) ∧
      (siteState s k = .enabled → k ∉ s.mesh.pendingRet → siteBusy s k = true →
        Completes (.retireRequest value) s (fun t =>
          t.mesh = { s.mesh with pendingRet := s.mesh.pendingRet ++ [k] } ∧ t.tiles = s.tiles ∧ t.mem = s.mem ∧
          Raised (evCell s 0x116 0 ⟨x, y, 3⟩ 0) s t)) ∧
      (siteState s k ≠ .enabled → Completes (.retireRequest value) s (fun t =>
        t.mesh = s.mesh ∧ t.tiles = s.tiles ∧ Raised (evCtl 0x11D 2 (activeCtl s) 0) s t))) ∧
    (works → k ∈ s.mesh.pendingRet → siteBusy s k = false → Completes (.retirement x y) s retired) ∧
    (k ∉ s.mesh.pendingRet ∨ siteBusy s k = true → Completes (.retirement x y) s (fun t => t = s)) ∧
    (∀ c entries, s.lease.owner = some c →
      Completes (.routeWrite (some c) x y entries) s (fun t =>
        getTile t k = { getTile s k with
          detours := entries.foldl (fun m e => amSet m (dirNum e.1) (dirNum e.2)) ([] : AMap Nat) } ∧
        (∀ j, j ≠ k → getTile t j = getTile s j) ∧ t.events = s.events)) ∧
    (∀ sender entries, sender = none ∨ sender ≠ s.lease.owner →
      Completes (.routeWrite sender x y entries) s (fun t => t = raise (evCell s 0x11C 1 ⟨x, y, 3⟩ 0) s)) ∧
    (∀ n, (if (getTile s k).correctedHour = hourOf s then (getTile s k).corrected + 1 else 1) = n →
      Completes (.flitError x y none) s (fun t =>
        getTile t k = { getTile s k with corrected := n, correctedHour := hourOf s } ∧
        getFld t (fieldOf k) = { getFld s (fieldOf k) with corrected := min ((getFld s (fieldOf k)).corrected + 1) 0xFFFFFFFF } ∧
        t.mesh = s.mesh ∧
        (n = reg s 0x2B0006 1000 → Raised (evCell s 0x110 1 ⟨x, y, 3⟩ n) s t) ∧
        (n ≠ reg s 0x2B0006 1000 → t.events = s.events))) ∧
    (∀ u : LostUnit, (((getTile s k).uncorrected ++ [now s]).filter (fun t => now s < t + 24 * 3600 * secT)).length
        < setting s 0x2B00 7 →
      (u.control = false → u.kind = 3 →
        Completes (.flitError x y (some u)) s (fun t =>
          t.mesh.flight = (land u.head false 3 s).mesh.flight ++
            [⟨⟨cellAt k 3, u.head.src, 4, u.head.domain, BitVec.ofNat 16 u.reqId⟩, false, 10, [1, 3, 0, 0, 0, 0, 0, 0]⟩] ∧
          Raised (evCell s 0x111 1 ⟨x, y, 3⟩ 0) s t)) ∧
      (u.control = true ∨ (u.kind ≠ 3 ∧ u.kind ≠ 4) → partOfDomain s u.head.domain = none →
        Completes (.flitError x y (some u)) s (fun t =>
          t.mesh = (land u.head u.control u.kind s).mesh ∧ t.parts = s.parts ∧ Raised (evCell s 0x111 1 ⟨x, y, 3⟩ 0) s t)) ∧
      (∀ p a, u.control = true ∨ (u.kind ≠ 3 ∧ u.kind ≠ 4) → partOfDomain s u.head.domain = some p → getPart s p = some a →
        a.job.isSome = true →
        Completes (.flitError x y (some u)) s (fun t => ∃ b, getPart t p = some b ∧ b.job = none ∧ b.queue = []))) ∧
    (works → k ∉ s.mesh.pendingRet →
      Completes (.routerFault x y []) s (fun t =>
        retired t ∧
        ∀ p a, siteHolder s k = some p → getPart s p = some a → a.job.isSome = true → ∃ b, getPart t p = some b ∧ b.job = none)) ∧
    (works → k ∈ s.mesh.pendingRet → siteHolder s k = none →
      Completes (.routerFault x y []) s (fun t =>
        getTile t k = { getTile s k with routerOff := true } ∧ t.mesh = s.mesh ∧ Raised (evCell s 0x112 1 ⟨x, y, 3⟩ 0) s t))

/-- A written 1 starts the sum for the partition and section that the selection names, and is refused with abort
0x0800_0022 while one is being formed; a partition that does not exist or has started no such section makes it
unavailable; a written 0 changes nothing. The completed sum adds the set that each cell supplies for that section, counts
the counters that stand at their maximum, and tells whether the section still runs. -/
def Obligations.CounterAggregatesSumTheCells : Prop :=
  ∀ s : State,
    (∀ via, Served via s → Writes (.aggregateTrigger via 0) via s (fun u code r => code = 0 ∧ r = u)) ∧
    (∀ via, Served via s →
      Writes (.aggregateTrigger via 1) via s (fun u code r =>
        let p := setting s 0x2F00 1
        let prev := setting s 0x2F00 2 == 1
        let sec := ((getPart s p).map (fun (a : Part) => if prev then a.prevSec else a.lastSec)).getD 0
        if s.crest.aggStatus = 1 then code = 0x08000022 ∧ r = u
        else code = 0 ∧
          r = { u with crest :=
            if sec = 0 then { u.crest with aggStatus := 4 }
            else { u.crest with aggStatus := 1, aggPart := p, aggPrev := prev, aggSection := sec } })) ∧
    (s.crest.aggStatus = 1 →
      Completes .aggregateComplete s (fun t =>
        let sets := (partCells s s.crest.aggPart).filterMap (fun c => suppliedSet c s.crest.aggSection s.crest.aggPrev)
        t.crest.aggSums.flushIn = (sets.map NumCounters.flushIn).sum ∧
        t.crest.aggSums.flushOut = (sets.map NumCounters.flushOut).sum ∧
        t.crest.aggSums.saturated = (sets.map NumCounters.saturated).sum ∧
        t.crest.aggSums.nanIn = (sets.map NumCounters.nanIn).sum ∧
        t.crest.aggSums.invalid = (sets.map NumCounters.invalid).sum ∧
        t.crest.aggStopped = (sets.map stoppedIn).sum ∧ t.crest.counters = s.crest.counters ∧
        t.crest.watches = s.crest.watches ∧ t.crest.aggSection = s.crest.aggSection ∧
        t.crest.aggStatus =
          (if s.crest.aggPrev = false ∧
              ((getPart s s.crest.aggPart).bind Part.current).map Current.sec = some s.crest.aggSection then 3 else 2))) ∧
    (s.crest.aggStatus ≠ 1 → Completes .aggregateComplete s (fun t => t = s))

/-- From step 4 on, or while a wafer reset waits for the link, a controller that does not run boots its preferred slot
where that can be booted, else the other slot with event 0x312 of the other controller, else none with that event. A trial
restarts the standby on its valid inactive slot for 600 s, with event 0x30F; it is refused with abort 0x0800_0022 while
another trial runs, for the active controller, or without a valid slot. A confirmed trial prefers the slot and raises the
least security version, with event 0x310; an unconfirmed one ends not before its time, back on the other slot, with event
0x311. -/
def Obligations.ControllersBootAndTryImages : Prop :=
  ∀ (c : Ctl) (s : State),
    let k := getCtl c s
    (k.booted = false → 4 ≤ s.pilot.step ∨ linkWait s = true → s.settings.trial = none →
      (bootable k k.prefB = true →
        Completes (.controllerBoot c) s (fun t =>
          getCtl c t = { k with runningB := some k.prefB, booted := true } ∧ getCtl (otherCtl c) t = getCtl (otherCtl c) s ∧
          t.lease = (if s.lease.owner = some (otherCtl c) then { s.lease with standby := .booting } else s.lease) ∧
          t.events = s.events)) ∧
      (bootable k k.prefB = false → bootable k (!k.prefB) = true →
        Completes (.controllerBoot c) s (fun t =>
          getCtl c t = { k with runningB := some (!k.prefB), booted := true } ∧
          getCtl (otherCtl c) t = getCtl (otherCtl c) s ∧ Raised (evCtl 0x312 1 (otherCtl c) 0) s t)) ∧
      (bootable k k.prefB = false → bootable k (!k.prefB) = false →
        Completes (.controllerBoot c) s (fun t =>
          getCtl c t = { k with runningB := none } ∧ t.lease = s.lease ∧ Raised (evCtl 0x312 1 (otherCtl c) 0) s t))) ∧
    (∀ via, Served via s → (writer via s).own = none → c = otherCtl (activeCtl s) →
      Writes (.startTrial via 1) via s (fun u code r =>
        let b := inactiveB k
        if s.settings.trial = none ∧ targetCtl s ≠ some (activeCtl s) ∧ k.booted = true ∧ slotState k b = .valid then
          code = 0 ∧ (getCtl c r).booted = false ∧ (getCtl c r).runningB = some b ∧ slotState (getCtl c r) b = .trial ∧
          slotState (getCtl c r) (!b) = slotState k (!b) ∧ getCtl (activeCtl s) r = getCtl (activeCtl s) s ∧
          r.settings = { u.settings with trial := some (c, now s + 600 * secT) } ∧
          r.lease = { u.lease with standby := .trial } ∧ r.events = (raise (evCtl 0x30F 0 c 0) u).events
        else code = 0x08000022 ∧ r = u)) ∧
    (∀ at', s.settings.trial = some (c, at') →
      let b := k.runningB.getD false
      (∀ via, Served via s → (writer via s).own = none →
        Writes (.confirmTrial via 1) via s (fun u code r =>
          code = 0 ∧ (getCtl c r).prefB = b ∧ slotState (getCtl c r) b = .valid ∧
          (getCtl c r).minSec = max k.minSec (slotSec k b) ∧ (getCtl c r).runningB = k.runningB ∧
          r.settings = { u.settings with trial := none } ∧ r.events = (raise (evCtl 0x310 0 c 0) u).events)) ∧
      Completes .trialTimeout s (fun t =>
        (getCtl c t).booted = false ∧ (getCtl c t).runningB = some (!b) ∧ slotState (getCtl c t) b = .valid ∧
        (getCtl c t).prefB = k.prefB ∧ t.settings = { s.settings with trial := none } ∧
        t.lease = { s.lease with standby := .booting } ∧ at' ≤ now t ∧ Raised (evCtl 0x311 1 c 0) s t)) ∧
    (∀ via, Served via s → (writer via s).own = none → s.settings.trial = none →
      Writes (.confirmTrial via 1) via s (fun u code r => code = 0x08000022 ∧ r = u))

/-- A written target starts an image at offset 0. A chunk of 1,024 bytes is added at the offset up to the image's length,
and is refused with event 0x393 without a target, after the last byte, or while the target runs a trial. A whole image
makes the inactive slot valid with its version, or invalid with event 0x30E. A good save writes both copies with the next
generation and the snapshot's records; a bad one leaves both copies with event 0x38E. -/
def Obligations.ImagesAndSavesAreWritten : Prop :=
  ∀ s : State,
    (∀ via v, Served via s → (writer via s).own = none → v ≤ 1 ∨ v = 0xFF →
      Writes (.imageTarget via v) via s (fun u code r =>
        code = 0 ∧ r = { u with settings := { u.settings with target := v, offset := 0, image := [], imageState := 0 } })) ∧
    (∀ via bs, Served via s → (writer via s).own = none → bs.length = 1024 →
      Writes (.imageChunk via bs) via s (fun u code r =>
        let v := s.settings
        let all := v.image ++ bs
        let len := (imageLength all).getD 67108864
        if targetCtl s = none ∨ 2 ≤ v.imageState ∨ (imageLength v.image).getD 67108864 ≤ v.offset ∨ 67108864 < v.offset + 1024 ∨
            67108864 < len ∨ (targetCtl s = v.trial.map Prod.fst ∧ v.trial.isSome = true) then
          code = 0x08000022 ∧ r = raise (evCtl 0x393 2 (activeCtl s) 0) u
        else
          code = 0 ∧ r = { u with settings := { u.settings with
            image := all.take len, offset := min len all.length, imageState := if len ≤ all.length then 2 else 1 } })) ∧
    (∀ c, targetCtl s = some c → s.settings.imageState = 2 →
      let b := inactiveB (getCtl c s)
      (imageValid s s.settings.image = true →
        Completes .imageVerify s (fun t =>
          slotState (getCtl c t) b = .valid ∧ slotState (getCtl c t) (!b) = slotState (getCtl c s) (!b) ∧
          slotSec (getCtl c t) b = fieldAt s.settings.image 8 4 ∧
          (if b then (getCtl c t).verB else (getCtl c t).verA) = fieldAt s.settings.image 4 4 ∧
          getCtl (otherCtl c) t = getCtl (otherCtl c) s ∧ t.settings = { s.settings with imageState := 3, image := [] } ∧
          t.events = s.events)) ∧
      (imageValid s s.settings.image = false →
        Completes .imageVerify s (fun t =>
          slotState (getCtl c t) b = .invalid ∧ slotState (getCtl c t) (!b) = slotState (getCtl c s) (!b) ∧
          t.settings = { s.settings with imageState := 4, image := [] } ∧ Raised (evCtl 0x30E 1 c 0) s t))) ∧
    (s.settings.saving = true → s.settings.dirty = false →
      Completes (.saveComplete true) s (fun t =>
        t.settings.generation = s.settings.generation + 1 ∧ t.settings.copy0 = t.settings.copy1 ∧ t.settings.copy0.valid = true ∧
        t.settings.copy0.generation = s.settings.generation + 1 ∧
        t.settings.copy0.records = s.settings.snapshot ∧ t.settings.saving = false ∧
        t.settings.failed = false ∧ t.events = s.events) ∧
      Completes (.saveComplete false) s (fun t =>
        t.settings = { s.settings with saving := false, failed := true, snapshot := [] } ∧
        Raised (evCtl 0x38E 1 (activeCtl s) 0) s t)) ∧
    (s.settings.saving = true → s.settings.dirty = true →
      Completes (.saveComplete true) s (fun t =>
        t.settings.generation = s.settings.generation + 1 ∧ t.settings.saving = true ∧ t.settings.dirty = false))

/-- With standby power a frame from port 0 leaves by port 1 where that has a link and returns otherwise; one from port 1
leaves by port 0. A change of link is stored and written as event 0x38F with port and state; a link that comes up wakes
the wafer as source 92. A requested state of the four is taken. SDO Information answers from the dictionary, and abort
0x0602_0000 for an index that does not exist; an unsupported request is answered with an error. In INIT the mailbox
answers nothing. -/
def Obligations.EtherCatForwardsAndAnswers : Prop :=
  ∀ s : State,
    (forwards s = true →
      (Completes (.ethercatFrame 0) s (fun t =>
        t.pilot = { s.pilot with frames := s.pilot.frames ++ [if s.pilot.link1 then 1 else 0] })) ∧
      (Completes (.ethercatFrame 1) s (fun t => t.pilot = { s.pilot with frames := s.pilot.frames ++ [0] })) ∧
      (∀ n, n < 4 → Completes (.esmStateChange n) s (fun t => t.pilot = { s.pilot with esm := n }))) ∧
    (forwards s = false → ∀ port, Completes (.ethercatFrame port) s (fun t => t = s)) ∧
    Completes (.ethercatLinkChange 0 false) s (fun t =>
      t.pilot = { s.pilot with link0 := false } ∧ Raised (evPilot 0x38F 0 0) s t) ∧
    Completes (.ethercatLinkChange 1 false) s (fun t =>
      t.pilot = { s.pilot with link1 := false } ∧ Raised (evPilot 0x38F 0 1) s t) ∧
    (s.pilot.sleep = 0 →
      Completes (.ethercatLinkChange 0 true) s (fun t =>
        t.pilot = { s.pilot with link0 := true } ∧ Raised (evPilot 0x38F 0 256) s t) ∧
      Completes (.ethercatLinkChange 1 true) s (fun t =>
        t.pilot = { s.pilot with link1 := true } ∧ Raised (evPilot 0x38F 0 257) s t)) ∧
    (s.pilot.sleep = 1 → wakeSelected s 92 = true →
      Completes (.ethercatLinkChange 1 true) s (fun t => t.pilot.wakeLatched = s.pilot.wakeLatched ++ [92] ∧ t.pilot.link1 = true)) ∧
    (s.pilot.esm ≠ 0 → mailboxServed s = true →
      (∀ index, indexExists index = true →
        Completes (.sdoInformation index) s (fun t =>
          t.pilot = { s.pilot with sdo := s.pilot.sdo ++ [(0, objectInfo index)] })) ∧
      (∀ index, indexExists index = false →
        Completes (.sdoInformation index) s (fun t => t.pilot = { s.pilot with sdo := s.pilot.sdo ++ [(0x06020000, [])] }))) ∧
    (s.pilot.esm ≠ 0 →
      Completes (.unsupportedMailboxRequest true) s (fun t =>
        t.pilot = { s.pilot with sdo := s.pilot.sdo ++ [(0x06010000, [])] }) ∧
      Completes (.unsupportedMailboxRequest false) s (fun t =>
        t.pilot = { s.pilot with sdo := s.pilot.sdo ++ [(2, [])] })) ∧
    (s.pilot.esm = 0 →
      (∀ index, Completes (.sdoInformation index) s (fun t => t = s)) ∧
      (∀ coe, Completes (.unsupportedMailboxRequest coe) s (fun t => t = s)))

/-- The state in which a change of owner raises no event of its own: no commit is pending and no read session is open
(R406). -/
def NothingToDrop (s : State) : Prop := (∀ e ∈ s.parts, e.2.commits = []) ∧ s.sec.session = none

/-- The lease has passed to a controller (R401, R406): previous owner, next epoch, a fresh countdown, a new nonce and an
open ledger second that is marked; the selected request is withdrawn before an event is raised. -/
def LeaseMoved (c : Ctl) (moved : Bool) (es : List EvReq) (s t : State) : Prop :=
  t.lease.owner = some c ∧ t.lease.previous = s.lease.owner ∧ t.lease.epoch = s.lease.epoch + 1 ∧ t.lease.claimSince = none ∧
  t.lease.deadline = now t + setting s 0x2720 3 * msT ∧ t.sec.nonce = Config.freeNonce s.sec.nonceDraws ∧
  t.sec.nonceDraws = s.sec.nonceDraws + 1 ∧ t.sec.session = none ∧ t.ledger.leaseMoved = moved ∧
  t.events = (raiseAll es { s with events := { s.events with
    selected := s.events.selected.map (fun (e : EvReq) => { e with withdrawn := true }) } }).events

/-- A renewal of the owner with the current epoch starts the countdown again; any other writes event 0x389 and changes no
owner, epoch or countdown. At the end of the countdown the lease moves to a controller that has reported ready within 2
ms, with the next epoch and event 0x386, and else starts again. A ready report of the current epoch is noted, and is a
claim while there is no owner. The first grant goes to the only claimant, or to the strap's with event 0x388 for the
other. A requested pass moves the lease with event 0x387 to a controller that is ready, and is refused otherwise. The
value of a new nonce is free. -/
def Obligations.TheLeasePassesByItsRules : Prop :=
  ∀ s : State,
    (∀ c, s.lease.owner = some c →
      Completes (.leaseRenewal c s.lease.epoch) s (fun t =>
        t.lease = { s.lease with deadline := now s + setting s 0x2720 3 * msT } ∧ t.events = s.events)) ∧
    (∀ c e, s.lease.owner ≠ some c ∨ e ≠ s.lease.epoch →
      Completes (.leaseRenewal c e) s (fun t =>
        t.lease.owner = s.lease.owner ∧ t.lease.epoch = s.lease.epoch ∧ t.lease.deadline = s.lease.deadline ∧
        Raised (evCtl 0x389 1 c 0) s t)) ∧
    (∀ c, s.lease.owner = some c → NothingToDrop s → readyLately (advanceTo s.lease.deadline s) (otherCtl c) = true →
      Completes .leaseExpiry s (fun t =>
        s.lease.deadline ≤ now t ∧ LeaseMoved (otherCtl c) true [evPilot 0x386 1 (s.lease.epoch + 1).toNat] s t)) ∧
    (∀ c, s.lease.owner = some c → readyLately (advanceTo s.lease.deadline s) (otherCtl c) = false →
      Completes .leaseExpiry s (fun t =>
        t.lease = { s.lease with deadline := now t + setting s 0x2720 3 * msT } ∧ s.lease.deadline ≤ now t ∧
        t.events = s.events)) ∧
    (∀ c, (getCtl c s).booted = true → s.lease.owner = none →
      Completes (.readyReport c s.lease.epoch) s (fun t =>
        getCtl c t = { getCtl c s with claimed := true, readyAt := some (now s) } ∧
        getCtl (otherCtl c) t = getCtl (otherCtl c) s ∧
        t.lease = { s.lease with claimSince := some (s.lease.claimSince.getD (now s)) })) ∧
    (∀ c, (getCtl c s).booted = true → s.lease.owner = some (otherCtl c) →
      Completes (.readyReport c s.lease.epoch) s (fun t =>
        getCtl c t = { getCtl c s with readyAt := some (now s) } ∧ t.lease.owner = s.lease.owner ∧
        t.lease.standby = (if s.settings.trial.map Prod.fst = some c then .trial else .ready))) ∧
    (∀ c e, e ≠ s.lease.epoch → Completes (.readyReport c e) s (fun t => t = s)) ∧
    (∀ at', s.lease.owner = none → s.lease.claimSince = some at' →
      let both := s.cope.claimed && s.drag.claimed
      let winner := if both then s.ident.strap else if s.drag.claimed then .drag else .cope
      Completes .claimWindowExpire s (fun t => t = advanceUp (firstGrant winner both (advanceTo (at' + 100 * msT) s))) ∧
      (s.pilot.step = 3 → linkLocked s = false → NothingToDrop s →
        Completes .claimWindowExpire s (fun t =>
          at' + 100 * msT ≤ now t ∧
          LeaseMoved winner false
            (if both then [evPilot 0x385 0 1, evCtl 0x388 1 (otherCtl winner) 0] else [evPilot 0x385 0 0]) s t))) ∧
    (∀ via, Served via s → (writer via s).own = none → NothingToDrop s → hasActive s = true →
      Writes (.passLease via 1) via s (fun u code r =>
        if readyLately s (otherCtl (activeCtl s)) then
          code = 0 ∧ LeaseMoved (otherCtl (activeCtl s)) true [evPilot 0x387 0 (s.lease.epoch + 1).toNat] u r
        else code = 0x08000022 ∧ r = u))

/-- A request takes one of the 256 pending places, else one of its source's four, else it is lost and counted. Selection
takes the request of highest priority, the earliest among equals, and one that waits at its source moves up. A claim makes
the selected request the newest record, with the next sequence number and the time of day. Where the queue is full, the
weakest record gives way to a request of higher priority, and any other request is lost; both count one loss. -/
def Obligations.EventsAreSelectedClaimedAndKept : Prop :=
  ∀ s : State,
    let v := s.events
    (∀ e, v.pending.length < 256 → v.waiting = [] →
      Completes (.eventRequest e) s (fun t => t.events = { v with pending := v.pending ++ [e] })) ∧
    (∀ e, 256 ≤ v.pending.length ∨ v.waiting ≠ [] → (v.waiting.filter (sameSource e)).length < 4 →
      Completes (.eventRequest e) s (fun t => t.events = { v with waiting := v.waiting ++ [e] })) ∧
    (∀ e, 256 ≤ v.pending.length ∨ v.waiting ≠ [] → 4 ≤ (v.waiting.filter (sameSource e)).length →
      Completes (.eventRequest e) s (fun t =>
        t.events = { v with lost := min (v.lost + 1) 0xFFFFFFFF, lossFlag := true })) ∧
    (v.selected = none → v.pending ≠ [] →
      Completes .eventSelect s (fun t =>
        ∃ pre e post, v.pending = pre ++ e :: post ∧ (∀ x ∈ pre, evPriority s x < evPriority s e) ∧
          (∀ x ∈ post, evPriority s x ≤ evPriority s e) ∧
          t.events = { v with selected := some e, pending := pre ++ post ++ v.waiting.take 1, waiting := v.waiting.drop 1 })) ∧
    (v.selected.isSome = true ∨ v.pending = [] → Completes .eventSelect s (fun t => t = s)) ∧
    (∀ e, v.selected = some e →
      let r := fun (flag : Bool) =>
        ({ seq := v.nextSeq, time := s.time.tod, req := recordOf e, prio := evPriority s e, lostBefore := flag } : EvRec)
      (v.queue.length < 4096 →
        Completes .eventClaim s (fun t =>
          t.events.queue = v.queue ++ [r v.lossFlag] ∧ t.events.selected = none ∧ t.events.nextSeq = nextSeqNo v.nextSeq ∧
          t.events.newest = v.nextSeq ∧ (v.queue ≠ [] → t.events.lossFlag = false ∧ t.events.lost = v.lost ∧ t.fabric = s.fabric))) ∧
      (∀ w, 4096 ≤ v.queue.length → weakest v.queue = some w → w.prio < evPriority s e →
        Completes .eventClaim s (fun t =>
          t.events.queue = v.queue.erase w ++ [r true] ∧ t.events.selected = none ∧ t.events.newest = v.nextSeq ∧
          t.events.nextSeq = nextSeqNo v.nextSeq ∧ t.events.lost = min (v.lost + 1) 0xFFFFFFFF)) ∧
      (∀ w, 4096 ≤ v.queue.length → weakest v.queue = some w → evPriority s e ≤ w.prio →
        Completes .eventClaim s (fun t =>
          t.events.queue = v.queue ∧ t.events.selected = none ∧ t.events.nextSeq = nextSeqNo v.nextSeq ∧
          t.events.lost = min (v.lost + 1) 0xFFFFFFFF ∧ t.events.lossFlag = true))) ∧
    (v.selected = none → Completes .eventClaim s (fun t => t = s))

/-- A delivered EVENT_READ is answered by EVENT_DATA with up to the wanted number of visible records from the first
sequence, oldest first, and the next sequence to read; a wanted number of 0 or above 127, or a header that names another's
partition, is answered with status 2. EVENT_ACK of the management domain removes every record up to a sequence number that
the queue holds; of any other domain, or for another number, it removes none and is answered with status 2. EVENT_STATUS
answers with the figures of the wafer for the operator, and of the visible records only for a tenant. -/
def Obligations.EventsAreReadOverTheFabric : Prop :=
  ∀ (p : Pkt) (h : Hdr) (s : State), Arrives p s →
    let w := fabricAsker s p.domain
    (∀ first wanted, 1 ≤ wanted → wanted ≤ 127 → headerOk w h = true →
      Delivers (.eventRead p h first wanted) s (fun u v =>
        let rs := (visible w.own h.part (recordsFrom s.events.queue first)).take wanted
        v = sendPkt p.node p.domain 0x5E
          (leBytes 2 h.tag.toNat ++ [BitVec.ofNat 8 rs.length, 0] ++
           leBytes 4 (((rs.getLast?.map (fun r => nextSeqNo r.seq)).getD first).toNat) ++ rs.flatMap recBytes) u)) ∧
    (∀ first wanted, wanted = 0 ∨ 127 < wanted ∨ headerOk w h = false →
      Delivers (.eventRead p h first wanted) s (fun u v => v = mgmtReply p h 2 0 0 0 0 0 [] u)) ∧
    (∀ (seq : BitVec 32) (pre post : List EvRec) (r : EvRec), p.domain = mgmtDomain s → s.events.queue = pre ++ r :: post → r.seq = seq →
      (∀ q ∈ pre, q.seq ≠ seq) →
      Delivers (.eventAck p h seq) s (fun u v =>
        v = figuresReply p h (ackEvents seq u).2 ∧ v.events.queue = post ∧ v.events.newest = s.events.newest ∧
        v.events.nextSeq = s.events.nextSeq)) ∧
    (∀ seq : BitVec 32, p.domain ≠ mgmtDomain s ∨ (∀ q ∈ s.events.queue, q.seq ≠ seq) →
      Delivers (.eventAck p h seq) s (fun u v => v = mgmtReply p h 2 0 0 0 0 0 [] u)) ∧
    (p.domain = mgmtDomain s →
      Delivers (.eventStatus p h) s (fun u v =>
        v = mgmtReply p h 0 0 ((s.events.queue.head?.map (fun r => r.seq.toNat)).getD 0) s.events.newest.toNat
          s.events.queue.length (min u.events.lost 0xFFFFFFFF) [] u)) ∧
    (∀ part, w.own = some part → headerOk w h = true →
      Delivers (.eventStatus p h) s (fun u v =>
        let rs := visible (some part) h.part s.events.queue
        v = mgmtReply p h 0 0 ((rs.head?.map (fun r => r.seq.toNat)).getD 0) ((rs.getLast?.map (fun r => r.seq.toNat)).getD 0)
          rs.length 0 [] u ∧ ∀ r ∈ rs, r.req.part = part)) ∧
    (headerOk w h = false → Delivers (.eventStatus p h) s (fun u v => v = mgmtReply p h 2 0 0 0 0 0 [] u))

/-- A command that writes an object by a path: an SDO write, or OBJECT_WRITE (R398, R399). -/
def WriteBy (c : Instr) (via : Via) (index sub : Nat) (v : List Byte) : Prop :=
  (c = .registerWrite index sub v ∧ via = .sdo) ∨ ∃ p h, c = .objectWrite p h index sub v ∧ via = .fabric p h

/-- Every served `registerWrite`, `objectWrite` and `objectRead` completes. A write that fails a check changes nothing and
is answered with the first failing check's abort code: no such index, no such subindex, read-only, no role, no such entry,
a permit needed (with event 0x314), a wrong length, a value out of range (with event 0x183 where it is a partition's
wafer-crest range). A write of the lease time that passes them all is stored and saved. A read is answered with the
object's bytes, or with the first failing check's abort code: a write-only object, or one that the requester may not
read. -/
def Obligations.ObjectsAreReadAndWrittenInOrder : Prop :=
  ∀ s : State,
    (∀ c via index sub v, WriteBy c via index sub v → Served via s →
      let w := writer via s
      let refused := fun (n : Nat) => Writes c via s (fun u code r => code = n ∧ r = u)
      (indexExists index = false → refused 0x06020000) ∧
      (indexExists index = true → findObj index sub = none → sub ≠ 0 ∨ arrayCount index = none → refused 0x06090011) ∧
      (∀ o, findObj index sub = some o →
        (o.acc = .ro → refused 0x06010002) ∧
        (o.acc ≠ .ro → mayWrite w o sub = false → refused 0x06010000) ∧
        (o.acc ≠ .ro → mayWrite w o sub = true → entryMissing s o sub = true → refused 0x06090011) ∧
        (o.acc = .rwp → mayWrite w o sub = true → entryMissing s o sub = false →
          ¬(via = .sdo ∧ index = 0x2510 ∧ sub = 1 ∧ s.sec.opKey = none) →
          Writes c via s (fun u code r => code = 0x08000021 ∧ r = raise (evCtl 0x314 2 (activeCtl s) 0) u)) ∧
        (o.acc = .rw ∨ o.acc = .wo → mayWrite w o sub = true → entryMissing s o sub = false → v.length ≠ o.len →
          refused 0x06070010) ∧
        (o.acc = .rw ∨ o.acc = .wo → mayWrite w o sub = true → entryMissing s o sub = false → v.length = o.len → o.ty < 8 →
          inRange s o sub (leNat v) = false →
          Writes c via s (fun u code r => code = 0x06090030 ∧ r = rangeRefused o.index (sub - 1) u))) ∧
      (index = 0x2720 → sub = 3 → w.own = none → v.length = 2 → 5 ≤ leNat v → leNat v ≤ 1000 →
        Writes c via s (fun u code r =>
          code = 0 ∧ r = saved 0x2720 3 (setReg 0x272003 (leNat v) u) ∧ setting r 0x2720 3 = leNat v))) ∧
    (∀ p h index sub, Arrives p s →
      let w := fabricAsker s p.domain
      let refused := fun (n : Nat) => Delivers (.objectRead p h index sub) s (fun u v => v = objReply p h n [] u)
      (headerOk w h = false → refused 0x06010000) ∧
      (headerOk w h = true → indexExists index = false → refused 0x06020000) ∧
      (∀ o, headerOk w h = true → findObj index sub = some o →
        (o.acc = .wo → refused 0x06010001) ∧
        (o.acc ≠ .wo → mayRead s w o sub = false → refused 0x06010000) ∧
        (o.acc ≠ .wo → mayRead s w o sub = true → entryMissing s o sub = true → refused 0x06090011) ∧
        (o.acc ≠ .wo → mayRead s w o sub = true → entryMissing s o sub = false →
          Delivers (.objectRead p h index sub) s (fun u v => v = objReply p h 0 (objBytes u w.own.isSome o sub) u))) ∧
      (headerOk w h = true → indexExists index = true → findObj index sub = none → sub ≠ 0 → refused 0x06090011) ∧
      (∀ n, headerOk w h = true → findObj index 0 = none → arrayCount index = some n → sub = 0 →
        Delivers (.objectRead p h index sub) s (fun u v => v = objReply p h 0 [BitVec.ofNat 8 n] u)))

/-- A sleep request of a running wafer whose partitions are quiesced without a job takes every field's power, the stores'
contents and the converters away; any other is refused with event 0x392. The wafer is then asleep with event 0x390; a
source latched meanwhile wakes it at once. Asleep, a selected source wakes the wafer: it records the sources and the
lowest of them, writes event 0x391 and goes on from step 6. While sleep is being entered a selected source is latched;
awake, or not selected, it changes nothing. A wake request is source 93, the alarm n source 80 + n at the time of day that
it is set to. -/
def Obligations.TheWaferSleepsAndWakes : Prop :=
  ∀ s : State,
    let wakes := fun (ns : List Nat) (first : Nat) (t : State) =>
      t.pilot.wakeFired = ns ∧ t.pilot.wakeCause = first ∧ t.pilot.sleep = 3 ∧ t.pilot.waking = true ∧ t.pilot.step = 6 ∧
      t.pilot.wakeLatched = []
    (∀ via, Served via s → (writer via s).own = none →
      Writes (.sleepRequest via 1) via s (fun u code r =>
        if maySleep s then
          code = 0 ∧ r.pilot.sleep = 1 ∧ r.pilot.wakeLatched = [] ∧ r.mem = [] ∧ r.power.running = 0 ∧ r.power.busGood = false ∧
          (∀ f, f < 56 → (getFld r f).powered = false ∧
            (getClk r f).st = (if (getClk s f).st = .failed then .failed else .off)) ∧ (∀ i, i < 64 → portUp r i = false) ∧
          r.sec = u.sec ∧ r.regs = u.regs ∧ r.lease.owner = u.lease.owner
        else code = 0x08000022 ∧ r = raise (evPilot 0x392 2 0) u)) ∧
    (s.pilot.sleep = 1 → s.pilot.wakeLatched = [] →
      Completes .sleepComplete s (fun t => t.pilot = { s.pilot with sleep := 2 } ∧ Raised (evPilot 0x390 0 0) s t)) ∧
    (∀ n, s.pilot.sleep = 1 → s.pilot.wakeLatched = [n] → s.power.present = false →
      Completes .sleepComplete s (fun t =>
        wakes [n] n t ∧ t.events = (raise (evPilot 0x391 0 n) (raise (evPilot 0x390 0 0) s)).events)) ∧
    (s.pilot.sleep ≠ 1 → Completes .sleepComplete s (fun t => t = s)) ∧
    (∀ ns, (∃ n ∈ ns, wakeSelected s n = true) → s.pilot.sleep = 2 → s.power.present = false →
      let sel := ns.filter (wakeSelected s)
      let first := sel.foldl min (sel.headD 0xFFFF)
      Completes (.wakeSource ns) s (fun t =>
        wakes sel first t ∧ (first ∈ sel) ∧ (∀ n ∈ sel, first ≤ n) ∧ Raised (evPilot 0x391 0 first) s t)) ∧
    (∀ ns, s.pilot.sleep = 1 →
      Completes (.wakeSource ns) s (fun t =>
        t.pilot = { s.pilot with wakeLatched := s.pilot.wakeLatched ++ ns.filter (wakeSelected s) } ∧ t.events = s.events)) ∧
    (∀ ns, s.pilot.sleep = 0 ∨ (∀ n ∈ ns, wakeSelected s n = false) → Completes (.wakeSource ns) s (fun t => t = s)) ∧
    (∀ via, Served via s → (writer via s).own = none → s.pilot.sleep = 2 → wakeSelected s 93 = true → s.power.present = false →
      Writes (.wakeRequest via 1) via s (fun u code r =>
        code = 0 ∧ wakes [93] 93 r ∧ r.events = (raise (evPilot 0x391 0 93) u).events)) ∧
    (∀ via, Served via s → (writer via s).own = none → s.pilot.sleep = 0 →
      Writes (.wakeRequest via 1) via s (fun u code r => code = 0 ∧ r = u)) ∧
    (∀ n, n < 8 → setting s 0x2732 (n + 1) ≠ 0 → wakeSelected s (80 + n) = true → s.pilot.sleep = 2 → s.power.present = false →
      Completes (.alarmFire n) s (fun t => wakes [80 + n] (80 + n) t ∧ Raised (evPilot 0x391 0 (80 + n)) s t)) ∧
    (∀ n, n < 8 → setting s 0x2732 (n + 1) ≠ 0 → s.pilot.sleep = 0 →
      Completes (.alarmFire n) s (fun t => t = toTod (setting s 0x2732 (n + 1)) s)) ∧
    (∀ n, setting s 0x2732 (n + 1) = 0 → Completes (.alarmFire n) s (fun t => t = s))

/-- A first rise of the HV starts the standby converter, is logged by the Assay and begins the sequence, which waits at
step 1 while RESET_N is low and at step 3 for the timing link. Group g of step 7 powers the fields of its row but those
that are faulty or failed, and after the last group the fields that failed to lock once. A completed overlay training of a
wafer without stored partitions and without clusters to be fenced off zeroes every store, makes the routing ready, and
reaches step 11, or step 12 with event 0x3C0 and the duration where every enabled port has settled. A step overdue from
step 5 on writes event 0x3C1, as does step 3 of a wafer reset; an earlier one is noted for step 5. -/
def Obligations.ThePowerUpSequenceGoesOn : Prop :=
  ∀ s : State,
    (s.power.standby = false → s.assay.log.length < 1024 → s.pilot.waferReset = none →
      (s.pilot.resetLow = true →
        Completes .powerUp s (fun t =>
          t.power = { s.power with standby := true } ∧ t.pilot = { s.pilot with step := 1, trigger := now s, stepSince := now s } ∧
          t.assay.log = s.assay.log ++ [(0, now s, 0, 0)] ∧ t.events = s.events)) ∧
      (s.pilot.resetLow = false → linkLocked s = false →
        Completes .powerUp s (fun t =>
          t.power = { s.power with standby := true } ∧ t.pilot.step = 3 ∧ t.pilot.trigger = now s ∧ t.events = s.events))) ∧
    (s.power.standby = true → Completes .powerUp s (fun t => t = s)) ∧
    (s.pilot.step = 1 → s.power.standby = true → linkLocked s = false →
      Completes .resetNRelease s (fun t => t.pilot.step = 3 ∧ t.pilot.resetLow = false ∧ t.events = s.events)) ∧
    (s.pilot.step = 12 → Completes .resetNRelease s (fun t => t.pilot = { s.pilot with resetLow := false })) ∧
    (∀ g, g < 7 → s.pilot.step = 7 → s.pilot.groups = g →
      Completes (.fieldGroupPower g) s (fun t =>
        t.pilot.groups = g + 1 ∧
        (∀ f, f / 8 = g → (getFld s f).fault = false → (getClk s f).st ≠ .failed →
          getFld t f = { getFld s f with powered := true, good := false, setPoint := (getFld t f).setPoint
                                         supplyCode := max (getFld s f).supplyCode (effectiveTarget s f) }) ∧
        (∀ f, f / 8 = g → (getFld s f).fault = true ∨ (getClk s f).st = .failed → getFld t f = getFld s f) ∧
        (g < 6 → t.pilot.step = 7 ∧ ∀ f, f / 8 ≠ g → getFld t f = getFld s f) ∧
        (g = 6 → ∀ f, f < 48 → (getClk s f).failures = 1 → (getClk s f).st = .off → (getFld s f).powered = false →
          (getFld s f).fault = false → (getFld t f).powered = true))) ∧
    (s.pilot.step = 8 → s.parts = [] → s.settings.boot = [] → s.pilot.waferReset = none → s.pilot.recovering = false →
      (∀ k ∈ absentSites s, clusterOk (siteAbsent s) (clusterAt s k) = true) →
      Completes (.overlayTrainingComplete {}) s (fun t =>
        t.mem = [] ∧ t.ecc = [] ∧ t.mesh.routingReady = true ∧ t.mesh.sites = s.mesh.sites ∧
        (portsSettled s = false → t.pilot.step = 11 ∧ t.events = s.events) ∧
        (portsSettled s = true → t.pilot.step = 12 ∧ t.pilot.duration = (now s - s.pilot.trigger) / msT ∧
          Raised (evCtl 0x3C0 0 (activeCtl s) ((now s - s.pilot.trigger) / msT)) s t))) ∧
    (∀ k, s.pilot.step ≠ 8 →
      Completes (.overlayTrainingComplete { overlays := [k] }) s (fun t => t = retire k s) ∧
      Completes (.overlayTrainingComplete { routers := [k] }) s (fun t => t = retire k s)) ∧
    (1 ≤ s.pilot.step → s.pilot.step ≤ 4 → linkWait s = false →
      Completes .powerUpStepOverdue s (fun t =>
        t.pilot.overdue = s.pilot.overdue ++ [(s.pilot.step, 0)] ∧ t.pilot.step = s.pilot.step ∧
        s.pilot.stepSince + secT ≤ now t ∧ t.events = s.events)) ∧
    ((5 ≤ s.pilot.step ∧ s.pilot.step ≤ 11) ∨ linkWait s = true →
      Completes .powerUpStepOverdue s (fun t =>
        t.pilot.step = s.pilot.step ∧ t.pilot.overdue = s.pilot.overdue ∧ s.pilot.stepSince + secT ≤ now t ∧
        Raised (evCtl 0x3C1 1 (activeCtl s) s.pilot.step) s t))

/-- A module reset (R430): the lease has no owner and epoch 0, the event queue is empty, stores, partitions, key slots and
the settings in use are gone; the settings copies, as a save in progress leaves them (log 146), the span secret, the flash
and the Assay's serial and energy stay. -/
def ModuleReset (detail : Nat) (s t : State) : Prop :=
  t.lease = {} ∧ t.events = {} ∧ t.mem = [] ∧ t.parts = [] ∧ t.tiles = [] ∧ t.fld = [] ∧ t.clk = [] ∧ t.regs = [] ∧
  t.sec.slots = [] ∧ t.sec.session = none ∧ t.sec.secret = s.sec.secret ∧ t.sec.highest = s.sec.highest ∧
  (t.settings.copy0, t.settings.copy1) = cutCopies s ∧ t.ledger = {} ∧
  t.time.ref = .noLock ∧ t.time.tod = 0 ∧ t.time.refCycles = s.time.refCycles ∧ t.fabric.tx = [] ∧ t.power.running = 0 ∧
  (∀ c, (getCtl c t).booted = false ∧ (getCtl c t).minSec = (getCtl c s).minSec ∧ (getCtl c t).prefB = (getCtl c s).prefB ∧
    (getCtl c t).verA = (getCtl c s).verA ∧ (getCtl c t).verB = (getCtl c s).verB) ∧
  t.assay.serial = s.assay.serial ∧ t.assay.energy = s.assay.energy ∧ t.pilot.resetDetail = detail

/-- RESET_N held low on a module with standby power resets it to step 1; the loss of the standby input resets it to step 0
without standby power, and is logged by the Assay. Without standby power a low RESET_N changes only the pin, and there is
no standby input to lose. The freed reset values are the model's own where the spec gives none (log 8). -/
def Obligations.ModuleResetsStartTheModuleAgain : Prop :=
  ∀ s : State,
    (s.power.standby = true →
      Completes .resetN s (fun t =>
        ModuleReset 1 s t ∧ t.pilot.step = 1 ∧ t.pilot.resetLow = true ∧ t.power.standby = true ∧ t.assay = s.assay ∧
        t.pilot.trigger = now s) ∧
      Completes .standbyInputLoss s (fun t =>
        ModuleReset 2 s t ∧ t.pilot.step = 0 ∧ t.power.standby = false ∧
        (s.assay.log.length < 1024 → t.assay.log = s.assay.log ++ [(1, now s, 0, 0)]))) ∧
    (s.power.standby = false →
      Completes .resetN s (fun t => t.pilot = { s.pilot with resetLow := true } ∧ t.events = s.events ∧ t.lease = s.lease) ∧
      Completes .standbyInputLoss s (fun t => t = s))

/-- A field reset takes the power of a field without a fault away and gives it back where the bus is good and the fields
are powered: its stores read zero, its loop is off, and its partition is reset with cause 1; event 0x3C7 is the last. One
of a field that has failed to lock twice leaves the field as it is. It ends when the field is locked. A partition reset by
request has cause 5: the job and the queue are gone. At the resolution limit, not before its time, a reset with nothing
outstanding begins its scrub, and one with operations outstanding counts them as abandoned with event 0x3C8. The discharge
hold ends not before 1 s; the sequence goes on only when the cause is gone, at step 3 where the timing link is not
locked. -/
def Obligations.FieldsAndPartitionsAreReset : Prop :=
  ∀ s : State,
    (∀ f, f < 56 → (getFld s f).fault = false → (getFld s f).resetting = false → (getClk s f).st = .failed → holder s f = none →
      Completes (.fieldResetRequest f) s (fun t =>
        getFld t f = getFld s f ∧ t.clk = s.clk ∧ t.parts = s.parts ∧ LastRaised (evField s 0x3C7 1 f f) t)) ∧
    (∀ f, f < 56 → (getFld s f).fault = false → (getFld s f).resetting = false → (getClk s f).st ≠ .failed →
      Completes (.fieldResetRequest f) s (fun t =>
        (getFld t f).resetting = true ∧ (getFld t f).powered = canPower s ∧ (getFld t f).good = false ∧ (getClk t f).st = .off ∧
        (getClk t f).trim = 0 ∧ (∀ g, g ≠ f → getClk t g = getClk s g) ∧
        (∀ key, fieldOf (key / 0x400000) = f → readByte t key = 0) ∧
        (∀ p a, holder s f = some p → f ∉ s.test.held → getPart s p = some a → a.reset = none →
          ∃ b, getPart t p = some b ∧ b.resets = a.resets + 1 ∧ b.resetCause = 1 ∧ b.job = none ∧ b.current = none ∧ b.queue = [] ∧
            b.pstate = .resetting ∧ b.reset.map PReset.fields = some [f]) ∧
        (holder s f = none → t.parts = s.parts ∧ LastRaised (evField s 0x3C7 1 f f) t))) ∧
    (∀ f, f < 56 → (getFld s f).fault = true → Completes (.fieldResetRequest f) s (fun t => t = s)) ∧
    (∀ f, (getFld s f).resetting = true → (getClk s f).st = .locked →
      Completes (.fieldResetComplete f) s (fun t =>
        getFld t f = { getFld s f with resetting := false } ∧ (holder s f = none → t.parts = s.parts) ∧
        (∀ p a r, holder s f = some p → getPart s p = some a → a.reset = some r → a.pstate = .resetting → r.deleting = false →
          (r.fields.erase f = [] → partOutstanding s p = 0 → (getPart t p).map Part.pstate = some .scrubbing) ∧
          (r.fields.erase f ≠ [] →
            getPart t p = some { a with reset := some { r with fields := r.fields.erase f } })))) ∧
    (∀ via p a, Served via s → (writer via s).own = none ∨ (writer via s).own = some p → p < 56 → getPart s p = some a →
      a.reset = none →
      Writes (.partitionResetRequest via p 1) via s (fun _ code r =>
        code = 0 ∧ ∃ b, getPart r p = some b ∧ b.resets = a.resets + 1 ∧ b.resetCause = 5 ∧ b.job = none ∧ b.current = none ∧
          b.queue = [] ∧ (b.pstate = .resetting ∨ b.pstate = .scrubbing))) ∧
    (∀ p a r, getPart s p = some a → a.reset = some r → a.pstate = .resetting → r.fields = [] → r.deleting = false →
      (partOutstanding s p = 0 →
        Completes (.resolutionLimitExpire p) s (fun t =>
          getPart t p = some { a with pstate := .scrubbing } ∧ r.since + setting s 0x2A00 6 * msT ≤ now t ∧ t.events = s.events)) ∧
      (partOutstanding s p ≠ 0 →
        Completes (.resolutionLimitExpire p) s (fun t =>
          r.since + setting s 0x2A00 6 * msT ≤ now t ∧ LastRaised (evPart s 0x3C8 1 p (partOutstanding s p)) t))) ∧
    (s.pilot.waferHold = true → s.pilot.step = 5 → s.pilot.waferReset.isSome = true →
      (causePersists s = true →
        Completes .dischargeHoldExpire s (fun t =>
          t.pilot.waferHold = false ∧ t.pilot.step = 5 ∧ s.pilot.stepSince + secT ≤ now t ∧ t.events = s.events)) ∧
      (causePersists s = false → linkLocked s = false →
        Completes .dischargeHoldExpire s (fun t =>
          t.pilot.waferHold = false ∧ t.pilot.step = 3 ∧ s.pilot.stepSince + secT ≤ now t ∧ t.events = s.events)) ∧
      (causePersists s = false → linkLocked s = true → s.power.present = false →
        Completes .dischargeHoldExpire s (fun t =>
          t.pilot.waferHold = false ∧ t.pilot.step = 6 ∧ s.pilot.stepSince + secT ≤ now t ∧ t.events = s.events))) ∧
    (s.pilot.waferHold = false → Completes .dischargeHoldExpire s (fun t => t = s))

/-- A request for which R442 gives no refusal code starts the test with event 0x3C9: its state, echo and held idle fields
are set; any other is refused with its code in event 0x3CA, and leaves a running test as it is. A completed test has state
2 or 3 with its failures and first site, frees the fields it held, and writes event 0x3CB or 0x3CC; a destructive one
leaves the stores of its scope zero. At the limit a running test ends with code 0x69 and event 0x3CD. The order of the
refusal checks is the model's own (log 26). -/
def Obligations.SelfTestsAreJudgedRunAndEnded : Prop :=
  ∀ s : State,
    let scope := fun (v : Nat) => bitsOf v 23 16
    let started := fun (own : Option Nat) (v : Nat) (u r : State) =>
      r.test = { st := 1, code := 0, echo := BitVec.ofNat 32 (keptBits 0x2A10 1 v), failures := 0, first := 0, held := testHeld v s } ∧
      (∀ f, getFld r f = if f ∈ testHeld v s then { getFld s f with owner := .scrubbing } else getFld s f) ∧
      r.events = (raise { evCtl 0x3C9 0 (activeCtl s) (bitsOf v 31 24) with
        part := if scope v = 0 then bitsOf v 15 8 else own.getD 0xFF } u).events
    let refused := fun (own : Option Nat) (v : Nat) (u r : State) =>
      r.test = (if s.test.st = 1 then { s.test with code := testRefusal own v s }
        else { s.test with st := 4, code := testRefusal own v s, echo := BitVec.ofNat 32 (keptBits 0x2A10 1 v), failures := 0, first := 0 }) ∧
      (∀ f, getFld r f = getFld s f) ∧
      r.events = (raise { evCtl 0x3CA 2 (activeCtl s) (testRefusal own v s) with
        part := if scope v = 0 then bitsOf v 15 8 else own.getD 0xFF } u).events
    (∀ via (value : Word32), Served via s →
      Writes (.selfTestRequest via value) via s (fun u code r =>
        let own := (writer via s).own
        if testRefusal own value.toNat s = 0 then code = 0 ∧ started own value.toNat u r
        else code = 0x08000022 ∧ refused own value.toNat u r)) ∧
    (∀ value : Word32,
      Completes (.serviceSelfTestRequest value) s (fun t =>
        if testRefusal none value.toNat s = 0 then started none value.toNat s t else refused none value.toNat s t)) ∧
    (s.test.st = 1 → bitsOf s.test.echo.toNat 31 24 ≠ 1 →
      let part := if scope s.test.echo.toNat = 0 then bitsOf s.test.echo.toNat 15 8 else 0xFF
      let freed := fun (t : State) =>
        (∀ f, getFld t f = if f ∈ s.test.held then { getFld s f with owner := .idle } else getFld s f) ∧
        (bitsOf s.test.echo.toNat 31 24 = 5 ∨ bitsOf s.test.echo.toNat 31 24 = 6 →
          ∀ key, testCovers s (fieldOf (key / 0x400000)) = true → readByte t key = 0)
      (∀ first, Completes (.selfTestComplete 0 first) s (fun t =>
        t.test = { s.test with st := 2, failures := 0, first := 0, held := [] } ∧ freed t ∧
        Raised { evCtl 0x3CB 0 (activeCtl s) (bitsOf s.test.echo.toNat 31 24) with part := part } s t)) ∧
      (∀ n first, 1 ≤ n → Completes (.selfTestComplete n first) s (fun t =>
        t.test = { s.test with st := 3, failures := n, held := [],
                               first := BitVec.ofNat 64 (first.x * 2 ^ 48 + first.y * 2 ^ 32 + first.slot * 2 ^ 24) } ∧ freed t ∧
        Raised { evCtl 0x3CC 1 (activeCtl s) n with part := part } s t)) ∧
      Completes .selfTestLimitExpire s (fun t =>
        t.test = { s.test with st := 5, code := 0x69, held := [] } ∧
        (∀ f, getFld t f = if f ∈ s.test.held then { getFld s f with owner := .idle } else getFld s f) ∧
        Raised (evCtl 0x3CD 1 (activeCtl s) 0x69) s t)) ∧
    (s.test.st ≠ 1 →
      Completes .selfTestLimitExpire s (fun t => t = s) ∧ ∀ n first, Completes (.selfTestComplete n first) s (fun t => t = s))

/-- A delivered section or job command names a partition of the packet's domain whose open job is the one it names (R170,
R171). -/
def Commands (p : Pkt) (h : Hdr) (s : State) (a : Part) (j : Job) : Prop :=
  Arrives p s ∧ getPart s h.part = some a ∧ a.domain = p.domain ∧ a.job = some j ∧ j.id = h.job

/-- A delivered command that names no partition of its domain, or not its open job (R171). -/
def NotCommanded (p : Pkt) (h : Hdr) (s : State) : Prop := Arrives p s ∧ jobPart s p h = none

/-- A ready partition without a job, and in no destructive test, opens the one named; any other is refused with status 2.
The members of the job's group are a free value (log 141). The first start stamps the job with the tick and a further one
changes nothing. A stop of a started job stamps it, and one of any other job is refused with event 0x349. An abort or a
close ends the job with its queue and sections; a close is refused while a run is running. A command that names another
partition's domain, or not the open job, changes nothing and is answered with status 2. -/
def Obligations.JobsOpenStartStopAndClose : Prop :=
  ∀ (p : Pkt) (h : Hdr) (s : State),
    (∀ a group notify, Arrives p s → getPart s h.part = some a → a.domain = p.domain →
      (a.job = none → a.pstate = .ready → testHolds s h.part = false →
        Delivers (.jobOpen p h group notify) s (fun u v =>
          getPart v h.part = some { a with
            job := some { id := h.job, group := group, notify := notify
                          members := Config.groupMembers group a.domain s.crest.opens }, pstate := .jobOpen, stamp := { mark := .open }
            ended := [], opSeq := 0, early := [] } ∧
          ∃ w, Only [.parts, .crest] u w ∧ (∀ q, q ≠ h.part → getPart w q = getPart u q) ∧ v = replyRun p h 0 0 0 w)) ∧
      (a.job.isSome = true ∨ a.pstate ≠ .ready ∨ testHolds s h.part = true →
        Delivers (.jobOpen p h group notify) s (fun u v => v = replyRun p h 2 0 0 u))) ∧
    (∀ group notify, Arrives p s → cmdPart s p h = none →
      Delivers (.jobOpen p h group notify) s (fun u v => v = replyRun p h 2 0 0 u) ∧
      Delivers (.jobStop p h) s (fun u v => v = replyRun p h 2 0 0 u)) ∧
    (∀ a j, Commands p h s a j →
      (j.started = false → a.queue = [] → a.cadence = none →
        Delivers (.jobStart p h) s (fun u v =>
          v = replyRun p h 0 0 0 (modPart h.part (fun a => { a with
            job := some { j with started := true, credits := 0 }
            stamp := { mark := .started, start := BitVec.ofNat 64 (s.time.tod.toNat / 1000000), stop := 0, energy := 0 } }) u))) ∧
      (j.started = true → Delivers (.jobStart p h) s (fun u v => v = replyRun p h 0 0 0 u)) ∧
      (j.started = true →
        Delivers (.jobStop p h) s (fun u v =>
          v = replyRun p h 0 0 0 (stopStamp h.part .stopped u) ∧
          getPart v h.part = some { a with
            stamp := { a.stamp with mark := .stopped, stop := BitVec.ofNat 64 (s.time.tod.toNat / 1000000) }
            ending := a.ending ++
              [(a.stamp.start, BitVec.ofNat 64 (s.time.tod.toNat / 1000000), j.credits, a.stamp.energy)]
            job := some { j with started := false, credits := 0 } })) ∧
      (j.started = false →
        Delivers (.jobStop p h) s (fun u v => v = replyRun p h 2 0 0 (raise (evPart s 0x349 2 h.part 0) u))) ∧
      Delivers (.jobAbort p h) s (fun u v =>
        v = replyRun p h 0 0 0 (abortRun h.part 0x43 u) ∧
        ∃ b, getPart v h.part = some b ∧ b.job = none ∧ b.queue = [] ∧ b.resident = []) ∧
      (a.current = none → a.queue = [] →
        Delivers (.jobClose p h) s (fun u v =>
          v = replyRun p h 0 0 0 (closeJob h.part u) ∧
          ∃ b, getPart v h.part = some b ∧ b.job = none ∧ b.queue = [] ∧ b.resident = [] ∧ b.commits = [] ∧ b.cadence = none)) ∧
      (a.current.isSome = true → Delivers (.jobClose p h) s (fun u v => v = replyRun p h 2 0 0 u))) ∧
    (NotCommanded p h s →
      Delivers (.jobStart p h) s (fun u v => v = replyRun p h 2 0 0 u) ∧
      Delivers (.jobAbort p h) s (fun u v => v = replyRun p h 2 0 0 u) ∧
      Delivers (.jobClose p h) s (fun u v => v = replyRun p h 2 0 0 u) ∧
      (∀ a, getPart s h.part = some a → a.domain = p.domain →
        Delivers (.jobStop p h) s (fun u v => v = replyRun p h 2 0 0 (raise (evPart s 0x349 2 h.part 0) u))))

/-- A commit waits behind those before it. The loader refuses the oldest with code 0x02 where the image is not in the
partition's memory or cannot be read, 0x01 for a bad magic, version or reserved field, and else with the lowest failing
check's code; the last refusal holds it, and the sections stay. An image that passes every check becomes the next section.
A release of a resident section that no queued or running run uses takes it out, and any other is refused with status
2. -/
def Obligations.SectionsAreCommittedAndReleased : Prop :=
  ∀ s : State,
    (∀ p h a j addr len, Commands p h s a j →
      Delivers (.sectionCommit p h addr len) s (fun u v =>
        getPart v h.part = some { a with
          commits := a.commits ++ [{ addr := addr, len := len, node := p.node, domain := p.domain, tag := h.tag }] } ∧
        (∀ q, q ≠ h.part → getPart v q = getPart s q) ∧ v.events = u.events ∧ v.fabric = u.fabric)) ∧
    (∀ part a c rest, getPart s part = some a → a.commits = c :: rest →
      let s' := modPart part (fun (a : Part) => { a with commits := rest }) s
      let a' := { a with commits := rest }
      let refused := fun (code y x slot detail : Nat) (t : State) =>
        ∃ b, getPart t part = some b ∧ b.commits = rest ∧ b.resident = a.resident ∧ b.nextSection = a.nextSection ∧
          b.lastRefusal = BitVec.ofNat 64 (code * 2 ^ 56 + x * 2 ^ 40 + y * 2 ^ 24 + slot * 2 ^ 16 + detail * 2 ^ 8)
      (imagePieces s' a' c.addr c.len = none →
        Completes (.commitComplete part) s (refused 0x02 0xFFFF 0xFFFF 0xFF 0xFF)) ∧
      (∀ ps, imagePieces s' a' c.addr c.len = some ps →
        (imageBytes s' ps = none → Completes (.commitComplete part) s (refused 0x02 0xFFFF 0xFFFF 0xFF 0xFF)) ∧
        (∀ bs, imageBytes s' ps = some bs →
          (headerBad bs = true → Completes (.commitComplete part) s (refused 0x01 0xFFFF 0xFFFF 0xFF 0xFF)) ∧
          (headerBad bs = false → headerRange bs c.len = false ∨ tablesOk (readImage bs) = false →
            Completes (.commitComplete part) s (refused 0x02 0xFFFF 0xFFFF 0xFF 0xFF)) ∧
          (headerBad bs = false → headerRange bs c.len = true → tablesOk (readImage bs) = true →
            let img := readImage bs
            let ts := (applyFolds img).1
            let u := touchImage ps s'
            (∀ code n, firstFail u part a' img ts (applyFolds img).2 = some (code, n) →
              Completes (.commitComplete part) s (refused code n.1 n.2.1 n.2.2.1 n.2.2.2)) ∧
            (firstFail u part a' img ts (applyFolds img).2 = none →
              Completes (.commitComplete part) s (fun t =>
                ∃ b, getPart t part = some b ∧ b.commits = rest ∧ b.resident = a.resident ++ [makeSection u a' img ts] ∧
                  b.nextSection = a.nextSection + 1 ∧ b.lastRefusal = a.lastRefusal)))))) ∧
    (∀ p h a j n, Commands p h s a j →
      (∀ x, sectionOf a n = some x → sectionUsed a n = false →
        Delivers (.sectionRelease p h n) s (fun u v =>
          v = replyRun p h 0 0 n (modPart h.part (fun (a : Part) =>
            { a with resident := a.resident.filter (fun (x : Section) => x.number != n) }) u) ∧
          ((getPart v h.part).bind (fun b => sectionOf b n)) = none)) ∧
      (sectionOf a n = none ∨ sectionUsed a n = true →
        Delivers (.sectionRelease p h n) s (fun u v => v = replyRun p h 2 0 0 u))) ∧
    (∀ p h n, NotCommanded p h s →
      Delivers (.sectionRelease p h n) s (fun u v => v = replyRun p h 2 0 0 u) ∧
      ∀ addr len, Delivers (.sectionCommit p h addr len) s (fun u v => v = replyRun p h 2 0 0 u))

/-- A well-formed enqueue of a resident section joins the queue under the next run number; the loader refuses it with code
0x05 where its power exceeds the largest share, and with 0x34 where the queue is full or a predecessor unknown. A cancel
takes a queued run out, and with it every run that names it; a run that is not queued cannot be cancelled. STATUS answers
with the state of a run that is kept. A starved run is noted with event 0x00E, and a run beyond its time and factor with
event 0x381, each once and not before its time. -/
def Obligations.RunsAreQueuedReportedAndWatched : Prop :=
  ∀ s : State,
    (∀ p h a j sec prio guard preds x, Commands p h s a j → sectionOf a sec = some x → prio ≤ 7 → guard.cmp ≤ 2 → preds.length ≤ 4 →
      guard.cmp = 0 ∨ crestOwner s guard.index = some h.part →
      (largestShare s a * x.time < 1000 * x.energy →
        Delivers (.sectionEnqueue p h sec prio guard preds) s (fun u v =>
          v = loaderRefuse h.part p.node p.domain h.tag 0x05 0xFFFF 0xFFFF 0xFF 0xFF u)) ∧
      (1000 * x.energy ≤ largestShare s a * x.time → 256 ≤ a.queue.length ∨ preds.all (knownPred a) = false →
        Delivers (.sectionEnqueue p h sec prio guard preds) s (fun u v =>
          v = loaderRefuse h.part p.node p.domain h.tag 0x34 0xFFFF 0xFFFF 0xFF 0xFF u)) ∧
      (1000 * x.energy ≤ largestShare s a * x.time → a.queue.length < 256 → preds.all (knownPred a) = true →
        Delivers (.sectionEnqueue p h sec prio guard preds) s (fun u v =>
          v = schedule h.part (replyRun p h 0 0 a.nextRun (modPart h.part (fun (a : Part) => { a with
            queue := a.queue ++ [{ number := a.nextRun, sec := sec, prio := prio, preds := preds, guard := guard }]
            nextRun := a.nextRun + 1 }) u)) ∧
          (j.started = false → a.cadence = none →
            getPart v h.part = some { a with
              queue := a.queue ++ [{ number := a.nextRun, sec := sec, prio := prio, preds := preds, guard := guard }]
              nextRun := a.nextRun + 1 })))) ∧
    (∀ p h a j sec prio guard preds, Commands p h s a j →
      sectionOf a sec = none ∨ 7 < prio ∨ 2 < guard.cmp ∨ 4 < preds.length ∨
        (guard.cmp ≠ 0 ∧ crestOwner s guard.index ≠ some h.part) →
      Delivers (.sectionEnqueue p h sec prio guard preds) s (fun u v => v = replyRun p h 2 0 0 u)) ∧
    (∀ p h a j run, Commands p h s a j →
      ((∃ r ∈ a.queue, r.number = run) → a.queue.length ≤ 256 →
        Delivers (.sectionCancel p h run) s (fun _ v =>
          ∃ b, getPart v h.part = some b ∧ (∀ q ∈ b.queue, q.number ≠ run ∧ run ∉ q.preds) ∧
            (∀ q ∈ b.queue, q ∈ a.queue) ∧ (run, 4, 0) ∈ b.ended ∧ b.current = a.current)) ∧
      ((∀ r ∈ a.queue, r.number ≠ run) →
        Delivers (.sectionCancel p h run) s (fun u v => v = replyRun p h 2 0 0 u))) ∧
    (∀ p h a j run, Commands p h s a j →
      (∀ st code, run ≠ 0 → runState a run = some (st, code) →
        Delivers (.runStatus p h run) s (fun u v => v = replyRun p h st code run u)) ∧
      (∀ c, a.current = some c → c.number ≠ 0 →
        Delivers (.runStatus p h 0) s (fun u v => v = replyRun p h 7 0 c.number u)) ∧
      (a.current = none → Delivers (.runStatus p h 0) s (fun u v => v = replyRun p h 2 0 0 u)) ∧
      (run ≠ 0 → runState a run = none → Delivers (.runStatus p h run) s (fun u v => v = replyRun p h 2 0 0 u))) ∧
    (∀ part a r, getPart s part = some a → a.queue = [r] → r.ready = true → r.starvedNoted = false → eligible a r = false →
      a.cadence = none →
      Completes (.starvationLimitReached part r.number) s (fun t =>
        getPart t part = some { a with queue := [{ r with starvedNoted := true }] } ∧
        r.readySince + setting s 0x2D00 1 * usT ≤ now t ∧ Raised (evPart s 0x00E 0 part r.number) s t)) ∧
    (∀ part a c, getPart s part = some a → a.current = some c → c.overran = false →
      Completes (.runOverrun part) s (fun t =>
        getPart t part = some { a with current := some { c with overran := true } } ∧
        c.startedAt + ((sectionOf a c.sec).map Section.time).getD 0 * 10 * setting s 0x2D00 2 ≤ now t ∧
        Raised (evPart s 0x381 0 part c.number) s t))

/-- A pour partition without cadence, whose reservation covers the frame energy over the period, admits a list of 1 to 16
resident sections; any other admission is refused with status 2. A stop ends a cadence that is between frames, and lets a
frame in progress complete. A window opens not before its time: while a run holds the partition its frame waits to be
decided; else the frame, whose start is its window or the end of the frame before it where that is later, starts its first
section, or is dropped with event 0x382 where it would not end by the next window and late frames are not allowed. -/
def Obligations.CadenceFramesFollowTheGrid : Prop :=
  ∀ s : State,
    (∀ p h a j (r : CadenceReq), Commands p h s a j →
      let good := a.role = 0 ∧ a.cadence = none ∧ 1 ≤ r.sections.length ∧ r.sections.length ≤ 16 ∧
        (∀ n ∈ r.sections, (sectionOf a n).isSome = true) ∧ 0 < r.period ∧ r.estimate ≤ r.period ∧
        r.energy * 1000000 ≤ a.reservation * r.period
      (good →
        Delivers (.cadenceAdmit p h r) s (fun _ v =>
          setting v 0x2D12 (h.part + 1) = (if r.late then 1 else 0) ∧
          ∃ b c, getPart v h.part = some b ∧ b.cadence = some c ∧ c.period = r.period ∧ c.estimate = r.estimate ∧
            c.energy = r.energy ∧ c.sections = r.sections ∧ c.nextK = 0 ∧ c.frameK = none ∧ c.w0Tick = (r.start == 0) ∧
            (r.start ≠ 0 → c.w0 = startWindow s r.start) ∧ b.framesRun = 0 ∧ b.framesLate = 0 ∧ b.framesDropped = 0 ∧
            b.framePeriod = r.period ∧ b.queue = a.queue ∧ b.current = a.current)) ∧
      (¬good → Delivers (.cadenceAdmit p h r) s (fun u v => v = replyRun p h 2 0 0 u))) ∧
    (∀ p h a j c, Commands p h s a j → a.cadence = some c →
      (c.frameK = none → a.queue = [] →
        Delivers (.cadenceStop p h) s (fun u v =>
          v = replyRun p h 0 0 0 (modPart h.part (fun (a : Part) => { a with cadence := none }) u))) ∧
      (c.frameK.isSome = true → a.queue = [] → a.current.isSome = true →
        Delivers (.cadenceStop p h) s (fun u v =>
          v = replyRun p h 0 0 0 (modPart h.part (fun (a : Part) => { a with cadence := some { c with stopping := true } }) u)))) ∧
    (∀ p h a j, Commands p h s a j → a.cadence = none →
      Delivers (.cadenceStop p h) s (fun u v => v = replyRun p h 2 0 0 u)) ∧
    (∀ part a c, getPart s part = some a → a.cadence = some c → c.w0Tick = false → c.stopping = false → a.queue = [] →
      let at' := windowAt c c.nextK
      (a.current.isSome = true →
        Completes (.cadenceWindow part) s (fun t =>
          at' ≤ (now t : Int) ∧ t.events = s.events ∧
          getPart t part = some { a with
            cadence := some { c with nextK := c.nextK + 1, started := true, undecided := c.undecided ++ [c.nextK] } })) ∧
      (a.current = none → c.frameK = none → c.undecided = [] → c.frameLeft = [] → a.pstate = .jobOpen →
        s.mesh.routingReady = true → testHolds s part = false →
        let start := frameStart c c.nextK
        let next := windowAt c (c.nextK + 1)
        let fits := start < next ∧ (start + (c.estimate * 10 : Nat) ≤ next ∨ setting s 0x2D12 (part + 1) = 1)
        (¬fits →
          Completes (.cadenceWindow part) s (fun t =>
            at' ≤ (now t : Int) ∧
            getPart t part = some { a with
              cadence := some { c with nextK := c.nextK + 1, started := true }, framesDropped := a.framesDropped + 1 } ∧
            Raised (evPart s 0x382 0 part c.nextK) s t)) ∧
        (∀ n rest x, fits → c.sections = n :: rest → sectionOf a n = some x →
          Completes (.cadenceWindow part) s (fun t =>
            at' ≤ (now t : Int) ∧ t.events = s.events ∧
            ∃ b, getPart t part = some b ∧
              b.current = some { number := a.nextRun, sec := x.number, startedAt := now t, frame := true } ∧
              b.nextRun = a.nextRun + 1 ∧ b.lastSec = x.number ∧ b.prevSec = a.lastSec ∧
              b.cadence = some { c with nextK := c.nextK + 1, started := true, frameK := some c.nextK, frameLeft := rest })))) ∧
    (∀ (c : Cadence) k, (c.frameEnd = none → frameStart c k = windowAt c k) ∧
      ∀ e, c.frameEnd = some e → frameStart c k = max (windowAt c k) (e : Int))

/-- A loading tile of the running section reads its record from the overlay: its cells take their 24 words, new counters
and the section's number, its generators their 16 words, and it runs; what it held is then delivered in its order, and it
has finished where nothing is left to be done. A finished tile's report is counted once; the last one completes the run. A
tile outside the running section stops when it is aborted. -/
def Obligations.TilesStartFinishAndAbortARun : Prop :=
  ∀ (x y : Nat) (s : State),
    let k := siteKey x y
    (∀ p a c r, running s k = some (p, a, c, r) → (getTile s k).run = .loading → k ∈ r.sites →
      r.base + r.recLen * 256 ≤ 2097152 →
      hasDouble s (memKey k 0 0 r.base) (r.recLen * 256) = false →
      let loaded := fun (t : State) =>
        (getTile t k).base = r.base ∧
        (∀ i, i < 3 →
          (getCC t k i).cfg = overlayWords s k (r.base + 96 * i) 24 ∧ (getCC t k i).curSection = r.number ∧
          (getCC t k i).current = {} ∧ (getCC t k i).previous = (getCC s k i).current ∧
          (getCC t k i).prevSection = (getCC s k i).curSection ∧ (getCC t k i).slots = [] ∧ (getCC t k i).stopped = false) ∧
        (∀ g, g < 4 → (getAG t k g).cfg = overlayWords s k (r.base + 288 + 64 * g) 16 ∧ (getAG t k g).next = 0 ∧
          (getAG t k g).finished = false) ∧
        (∀ j, j ≠ k → getTile t j = getTile s j) ∧
        ∃ b d, getPart t p = some b ∧ b.current = some d ∧ d.loaded = c.loaded ++ [k] ∧ d.number = c.number
      Completes (.sectionStart x y) s (fun t =>
        (∃ u, loaded u ∧ (getTile u k).run = .running ∧ (getTile u k).heldOps = (getTile s k).heldOps ∧
          t = doneTry k (deliverAll k u)) ∧
        ((∀ o ∈ (getTile s k).heldOps, isCtrInstr o = true) →
          ((getTile t k).run = .running ∨ (getTile t k).run = .finished) ∧ loaded t))) ∧
    (∀ p a c r, running s k = some (p, a, c, r) → (getTile s k).run = .finished → k ∈ r.sites → k ∉ c.finished →
      ((∃ j ∈ r.sites, j ≠ k ∧ j ∉ c.finished) →
        Completes (.sectionDone x y) s (fun t =>
          getPart t p = some { a with current := some { c with finished := c.finished ++ [k] } } ∧ t.tiles = s.tiles ∧
          t.events = s.events)) ∧
      ((∀ j ∈ r.sites, j = k ∨ j ∈ c.finished) → a.queue = [] → a.cadence = none →
        Completes (.sectionDone x y) s (fun t =>
          (∃ b, getPart t p = some b ∧ b.current = none ∧ (c.number, 0, 0) ∈ b.ended ∧ b.hangTimer = none) ∧
          (∀ j ∈ sitesOf a c.sec, (getTile t j).run = .idle)))) ∧
    (running s k = none → Completes (.sectionAbort x y) s (fun t =>
      getTile t k = { getTile s k with run := .stopped } ∧ ∀ j, j ≠ k → getTile t j = getTile s j)) ∧
    (∀ p a c r, running s k = some (p, a, c, r) → k ∉ r.sites → Completes (.sectionAbort x y) s (fun t =>
      getTile t k = { getTile s k with run := .stopped } ∧ ∀ j, j ≠ k → getTile t j = getTile s j)) ∧
    (∀ p a c r, running s k = some (p, a, c, r) → k ∈ r.sites → Completes (.sectionAbort x y) s (fun t => t.tiles = s.tiles))

/-- The tile of a message's destination is delivered to and takes messages for its agents (R26, R86, R180). -/
def Live (h : Head) (s : State) : Prop :=
  delivers s h = true ∧ ((getTile s (dstSite h)).run = .running ∨ (getTile s (dstSite h)).run = .finished)

/-- No byte outside n bytes from a key has changed; the stored bytes are in canonical form to begin with. -/
def OnlyBytes (key n : Nat) (s t : State) : Prop :=
  Memory.wf s.mem = true → ∀ a, a < key ∨ key + n ≤ a → readByte t a = readByte s a

/-- No tile but one has changed, and of that one nothing but a compute cell. -/
def OnlyCC (k slot : Nat) (s t : State) : Prop :=
  (∀ j i, ¬(j = k ∧ i = slot) → getCC t j i = getCC s j i) ∧ ∀ j i, getAG t j i = getAG s j i

/-- No tile but one has changed, and of that one nothing but a generator. -/
def OnlyAG (k gi : Nat) (s t : State) : Prop :=
  (∀ j i, ¬(j = k ∧ i = gi) → getAG t j i = getAG s j i) ∧ ∀ j i, getCC t j i = getCC s j i

/-- Every `token`, `tuple` and `credit` completes. A token or tuple delivered to a running compute cell joins the queue of
its binding, and the first of its tag takes slot 0 of an empty table; a stale tag stops the cell, and so does a message
outside any binding in use. A token joins a generator's ring source, or is the hand-off of its staging writer; a tuple at
the service port is a descriptor. A credit frees a buffer of a binding once each of its consumers has returned it, or one
of a generator. A tile that has not started holds tokens and tuples; a stopped one discards all three; one that is not
delivered writes its event and does nothing else. -/
def Obligations.TokensTuplesAndCreditsReachTheirAgents : Prop :=
  ∀ (h : Head) (s : State),
    let k := dstSite h
    let b := h.target
    let slot := h.dst.slot
    let c := getCC s k slot
    let g := getAG s k h.target
    let queued := fun (a : Arrival) (v : State) =>
      modCC k slot (fun (c : CC) => { c with queues := amMod c.queues b [] (· ++ [a]) }) v
    let taken := ccClass c.cfg ≠ 0 ∧ (ccIn c.cfg b).enable = true ∧ portsOn c.cfg b ≠ []
    let first := fun (a : Arrival) (t : State) =>
      ∀ i rest, gated s k = false → portsOn c.cfg b = i :: rest → (ccPort c.cfg i).mode ≠ 3 → c.queues = [] → c.slots = [] →
        0 < ccWindow c.cfg →
        (c.lastFired.any (fun f => decide ((h.tag - (f + 1)).toNat ≥ 32768)) = false →
          ∃ x, (getCC t k slot).slots = [x] ∧ x.index = 0 ∧ x.tag = h.tag ∧ x.present = [(i, a)]) ∧
        (c.lastFired.any (fun f => decide ((h.tag - (f + 1)).toNat ≥ 32768)) = true →
          (getCC t k slot).slots = [] ∧ (getCC t k slot).stopped = true)
    (Live h s → slot < 3 → c.stopped = false →
      (taken →
        (∀ rows cols, Completes (.token h rows cols) s (fun t =>
          let a : Arrival := { tag := h.tag, rows := rows, cols := cols }
          t = settleCC k slot (queued a (streamEnd k slot b h.tag (crossed h true 1 s))) ∧ first a t)) ∧
        (∀ words, Completes (.tuple h words) s (fun t =>
          let a : Arrival := { tag := h.tag, words := words, rows := 8191, cols := 32767 }
          t = settleCC k slot (queued a (crossed h true 3 s)) ∧ first a t))) ∧
      (¬taken →
        (∀ rows cols, Completes (.token h rows cols) s (fun t =>
          t = cellFault k slot 4 0x106 (streamEnd k slot b h.tag (crossed h true 1 s)) ∧
          (getCC t k slot).stopped = true ∧ (getCC t k slot).slots = [])) ∧
        (∀ words, Completes (.tuple h words) s (fun t =>
          t = cellFault k slot 4 0x106 (crossed h true 3 s) ∧
          (getCC t k slot).stopped = true ∧ (getCC t k slot).slots = [])))) ∧
    (Live h s → slot < 3 → c.stopped = true →
      (∀ rows cols, Completes (.token h rows cols) s (fun t => t = streamEnd k slot b h.tag (crossed h true 1 s))) ∧
      (∀ words, Completes (.tuple h words) s (fun t => t = crossed h true 3 s))) ∧
    (Live h s → 3 ≤ slot → h.target < 4 → g.stopped = false →
      ∀ rows cols, Completes (.token h rows cols) s (fun t =>
        getAG t k h.target =
          (if (agSrc g.cfg).1 = 1 then { g with handoff := true }
           else { g with tokens := g.tokens ++ [{ tag := h.tag, rows := rows, cols := cols }] }) ∧
        OnlyAG k h.target s t ∧ t.events = s.events)) ∧
    (Live h s → 3 ≤ slot → 4 ≤ h.target → ∀ rows cols, Completes (.token h rows cols) s (fun t => t = crossed h true 1 s)) ∧
    (delivers s h = true → slot ≥ 3 →
      (h.target = 4 → ∀ words, Completes (.tuple h words) s (fun t =>
        t = postDesc k (readDesc (words.getD 0 0) (words.getD 1 0) (words.getD 2 0) (words.getD 3 0)) (crossed h true 3 s))) ∧
      (h.target ≠ 4 → ∀ words, Completes (.tuple h words) s (fun t => t = crossed h true 3 s))) ∧
    (∀ p a d r, Live h s → running s k = some (p, a, d, r) →
      (slot < 3 → h.target < 4 →
        let cs := consumers r k slot b (ccOut c.cfg b)
        let got := fun (i : Nat) => amGet c.creditWait (creditKey b i) 0 + (if cs[i]? = some h.src then 1 else 0)
        let back := if cs.length ≤ 1 ∨ ∀ i, i < cs.length → 0 < got i then 1 else 0
        Completes (.credit h) s (fun t =>
          (∃ wait out, getCC t k slot = { c with creditWait := wait, outCredits := out } ∧
            amGet out b 0 = amGet c.outCredits b 0 - back ∧ (∀ q, q ≠ b → amGet out q 0 = amGet c.outCredits q 0) ∧
            (2 ≤ cs.length → ∀ i, i < cs.length → amGet wait (creditKey b i) 0 = got i - back)) ∧
          OnlyCC k slot s t ∧ t.events = s.events)) ∧
      (3 ≤ slot → h.target < 4 → (stagingReader s k g).isSome = true → Completes (.credit h) s (fun t =>
        getAG t k h.target = { g with handoffOut := false } ∧ OnlyAG k h.target s t)) ∧
      (3 ≤ slot → h.target < 4 → stagingReader s k g = none → Completes (.credit h) s (fun t =>
        getAG t k h.target = { g with used := g.used - 1 } ∧ OnlyAG k h.target s t ∧
        (g.expected ≠ 0 → ∀ e ∈ r.edges, e.2.2.1 = cellKey k 3 → e.2.2.2 = h.target →
          ⟨⟨cellAt k 3, cellAt (e.1 / 4) (e.1 % 4), e.2.1, domainAt s k, 0⟩, true, 2, []⟩ ∈ t.mesh.flight)))) ∧
    (Live h s → running s k = none ∨ 4 ≤ h.target → Completes (.credit h) s (fun t => t = crossed h true 2 s ∧ t.tiles = s.tiles)) ∧
    (delivers s h = true → (getTile s k).run = .idle ∨ (getTile s k).run = .loading →
      (∀ rows cols, Completes (.token h rows cols) s (fun t =>
        getTile t k = { getTile s k with heldOps := (getTile s k).heldOps ++ [.token h rows cols] } ∧ t.events = s.events)) ∧
      (slot < 3 → ∀ words, Completes (.tuple h words) s (fun t =>
        getTile t k = { getTile s k with heldOps := (getTile s k).heldOps ++ [.tuple h words] } ∧ t.events = s.events)) ∧
      Completes (.credit h) s (fun t => t = crossed h true 2 s ∧ t.tiles = s.tiles)) ∧
    (delivers s h = true → (getTile s k).run = .stopped →
      (∀ rows cols, Completes (.token h rows cols) s (fun t => t = crossed h true 1 s ∧ t.tiles = s.tiles)) ∧
      (slot < 3 → ∀ words, Completes (.tuple h words) s (fun t => t = crossed h true 3 s ∧ t.tiles = s.tiles)) ∧
      Completes (.credit h) s (fun t => t = crossed h true 2 s ∧ t.tiles = s.tiles)) ∧
    (h.dst.x ≠ ringXY → delivers s h = false →
      let refused := fun (kind : Nat) (t : State) =>
        t.tiles = s.tiles ∧ t.parts = s.parts ∧ Raised (refuseEvent (crossed h true kind s) h) s t
      (∀ rows cols, Completes (.token h rows cols) s (refused 1)) ∧ (∀ words, Completes (.tuple h words) s (refused 3)) ∧
      Completes (.credit h) s (refused 2))

/-- Every `actorFire`, `bufferRelease` and `drainComplete` completes. An actor fires its next ready tag, or the next
number where it waits for no arrivals, when its pipeline and its output have room and its partition is not held: the
pipeline takes the computed elements, the sums of its last output block and the valid counts, the counters the tag's
counts, the tag leaves the table, and a buffer of the output ring is taken. An uncorrectable operand stops the cell. A
release puts the last block into a bank and returns a credit for each port in buffer mode. The drain frees the bank,
writes the oldest tag's rows to its buffer of the output ring, and no other byte, and sends its token, stream,
contribution or tuple; it holds a result where a value-mode consumer's queue has no free entry. Without the conditions
nothing changes. -/
def Obligations.ActorsFireReleaseAndDrain : Prop :=
  ∀ (x y slot : Nat) (s : State),
    let k := siteKey x y
    let c := getCC s k slot
    let o := ccPort c.cfg 4
    let w := ccOut c.cfg o.binding
    let due := fun (tag : BitVec 16) (present : AMap Arrival) =>
      (selfPaced c.cfg = false ∧ ∃ f, nextSlot c = some f ∧ f.tag = tag ∧ f.present = present) ∨
      (selfPaced c.cfg = true ∧ (∀ i ∈ fixedPorts c.cfg, (amFind c.filled i).isSome = true) ∧ tag = BitVec.ofNat 16 c.firedCount ∧
        present = [])
    (∀ p a d r tag present, running s k = some (p, a, d, r) → (getTile s k).run = .running → c.stopped = false →
      ccClass c.cfg ≠ 0 → pipeReady c = true → gated s k = false → outFree s r k slot c = true →
      c.firedCount < ccTags r k slot → due tag present →
      let ports := (List.range 4).map (readPort s k slot c tag present)
      let tkey := memKey k 2 slot (ccConstLine c.cfg * 64)
      let tlen := constLines c.cfg * 64
      ((∀ q ∈ ports, hasDouble s q.2.1 q.2.2 = false) → hasDouble s tkey tlen = false → c.queues = [] →
        let pin := fun (i : Nat) => (ports.getD i (⟨[], 0, 0, []⟩, 0, 0)).1
        let out := computeTag c.cfg pin (readBytes s tkey tlen)
        Completes (.actorFire ⟨x, y, slot⟩) s (fun t =>
          getCC t k slot = { c with
            slots := c.slots.filter (fun (q : TagSlot) => q.tag != tag)
            lastFired := some tag
            firedCount := c.firedCount + 1
            pipe := c.pipe ++ [{ tag := tag, steps := tagSteps c.cfg (pin 0).bytes, blocks := tagBlocks c.cfg
                                 sums := lastBlock c.cfg pin, elems := out.1, rows := (outValid c.cfg pin).1
                                 cols := (outValid c.cfg pin).2 }]
            counted := countUsed c pin
            current := addCounters c.current out.2
            outCredits := if o.mode = 2 ∧ w.enable = true then amMod c.outCredits o.binding 0 (· + 1) else c.outCredits } ∧
          OnlyCC k slot s t ∧ t.mem = s.mem ∧ t.mesh = s.mesh ∧ t.parts = s.parts)) ∧
      (slot < 3 → (∃ q ∈ ports, hasDouble s q.2.1 q.2.2 = true) ∨ hasDouble s tkey tlen = true →
        Completes (.actorFire ⟨x, y, slot⟩) s (fun t => (getCC t k slot).stopped = true ∧ (getCC t k slot).slots = []))) ∧
    (running s k = none ∨ (getTile s k).run ≠ .running ∨ c.stopped = true ∨ ccClass c.cfg = 0 ∨ pipeReady c = false ∨
        gated s k = true ∨ (selfPaced c.cfg = false ∧ nextSlot c = none) →
      Completes (.actorFire ⟨x, y, slot⟩) s (fun t => t = s)) ∧
    (∀ p a d r, running s k = some (p, a, d, r) → outFree s r k slot c = false ∨ ccTags r k slot ≤ c.firedCount →
      Completes (.actorFire ⟨x, y, slot⟩) s (fun t => t = s)) ∧
    (c.pipe = [] → pipeReady c = true) ∧ (2 ≤ heldResults c → pipeReady c = false) ∧
    (∀ f, c.pipe.find? (fun (q : Fired) => !q.released) = some f →
      let room := if 2 ≤ f.blocks then heldResults c = 0 else heldResults c ≤ 1
      (room → Completes (.bufferRelease ⟨x, y, slot⟩) s (fun t =>
        getCC t k slot = { c with
          pipe := c.pipe.map (fun (q : Fired) => if q.tag = f.tag then { q with released := true } else q)
          banks := if f.blocks = 0 then c.banks else c.banks ++ [{ tag := f.tag, sums := f.sums }] } ∧
        OnlyCC k slot s t ∧
        t.mesh = { s.mesh with flight := s.mesh.flight ++
          ((List.range 4).filter (fun i => (ccPort c.cfg i).mode == 2)).map (fun i =>
            let v := ccIn c.cfg (ccPort c.cfg i).binding
            ⟨⟨cellAt k slot, ⟨v.x, v.y, v.slot⟩, v.peer, domainAt s k, 0⟩, true, 2, []⟩) })) ∧
      (¬room → Completes (.bufferRelease ⟨x, y, slot⟩) s (fun t => t = s))) ∧
    (c.pipe.find? (fun (q : Fired) => !q.released) = none → Completes (.bufferRelease ⟨x, y, slot⟩) s (fun t => t = s)) ∧
    (∀ p a d r f rest, running s k = some (p, a, d, r) → c.stopped = false → gated s k = false → drainHolds s r k slot c = false →
      c.pipe = f :: rest →
      (f.released = false → Completes (.drainComplete ⟨x, y, slot⟩) s (fun t =>
        t = doneTry k (drainTag k slot r f (releaseTry k slot s)))) ∧
      (f.released = true →
        let key := memKey k 2 slot (bufferLine o f.tag.toNat * 64)
        let bytes := outBytes c.cfg f.elems (readBytes s key (ccRows c.cfg * packedBytes (ccFmtOut c.cfg) (ccCols c.cfg)))
        let popped := modCC k slot (fun (c : CC) => { c with
          pipe := c.pipe.drop 1, banks := c.banks.filter (fun (b : Bank) => b.tag != f.tag), drainedCount := c.drainedCount + 1 }) s
        let written := writeBytes key bytes popped
        Completes (.drainComplete ⟨x, y, slot⟩) s (fun t =>
          getCC t k slot = { c with
            pipe := rest, banks := c.banks.filter (fun (b : Bank) => b.tag != f.tag), drainedCount := c.drainedCount + 1 } ∧
          OnlyCC k slot s t ∧
          (o.mode = 1 → t.mem = s.mem) ∧ (o.mode ≠ 1 → t.mem = written.mem ∧ OnlyBytes key bytes.length s t) ∧
          (o.mode = 1 → w.enable = true → t = doneTry k (castCtl k slot (consumers r k slot o.binding w) w.peer 3 f.tag
            (slice (outBytes c.cfg f.elems []) 0 16) popped)) ∧
          (o.mode = 2 → w.enable = true →
            (w.kind = 3 → t = doneTry k (combineOut k slot o.binding r w f key written)) ∧
            (w.kind = 2 → w.slot ≠ 3 → t = doneTry k (streamOut k slot (consumers r k slot o.binding w) w.peer f
              (readBytes written key (ccRows c.cfg * packedBytes (ccFmtOut c.cfg) (ccCols c.cfg))) written)) ∧
            (w.kind ≠ 3 → w.kind ≠ 2 ∨ w.slot = 3 → t = doneTry k (castCtl k slot (consumers r k slot o.binding w) w.peer 1 f.tag
              (tokenBody f.rows f.cols) written)))))) ∧
    (∀ p a d r, running s k = some (p, a, d, r) → drainHolds s r k slot c = true →
      Completes (.drainComplete ⟨x, y, slot⟩) s (fun t => t = s)) ∧
    (running s k = none ∨ c.stopped = true ∨ gated s k = true ∨ c.pipe = [] →
      Completes (.drainComplete ⟨x, y, slot⟩) s (fun t => t = s))

/-- Every `generatorTransfer` completes. A ready generator copies its block's rows to where its program puts them, and no
byte outside that space; it counts the block, takes a buffer of a ring it fills and a token of a ring it empties, sends
the block's token to the port it fills and the credit to the cell it empties, and has finished after its last block. A
halo generator first sends each of the four neighbours its strip, and waits for theirs. An address outside its space and
an uncorrectable word that it reads each stop it. A generator that is not ready, or a home, does nothing. The memory cell
then serves what requests wait there. -/
def Obligations.GeneratorsFillTheirBuffers : Prop :=
  ∀ (x y gi : Nat) (s : State),
    let k := siteKey x y
    let g := getAG s k gi
    let dp := (agDst g.cfg).1
    let dslot := (agDst g.cfg).2.1
    let rows := if agHasHalo g.cfg then padded s k g else agBlock s k g
    let ws := agWrites s k g rows
    let ready := (running s k).isSome = true ∧ (getTile s k).run = .running ∧ g.expected = 0 ∧ agReady s k g = true
    let after := fun (q : State → Prop) => Completes (.generatorTransfer x y gi) s (fun t => ∃ u, q u ∧ t = mcServe k u)
    let fits := ∀ v ∈ ws, validLen v.2 = 0 ∨ inSpace dp v.1 (packedBytes (agFmt g.cfg) (validLen v.2)) = true
    (∀ u, (getTile u k).remote = [] → mcServe k u = u) ∧
    (¬ready → after (fun u => u = s)) ∧
    (ready → gi < 4 → agReadsOk s k g = false → after (fun u => (getAG u k gi).stopped = true)) ∧
    (ready → gi < 4 → agReadsOk s k g = true → agHasHalo g.cfg = true → g.haloSent ≤ g.next →
      (∃ e ∈ agReads s k g, hasDouble s e.1 e.2 = true) → after (fun u => (getAG u k gi).stopped = true)) ∧
    (ready → agReadsOk s k g = true → agHasHalo g.cfg = true → g.haloSent ≤ g.next → haloReady s k g = false →
      (∀ e ∈ agReads s k g, hasDouble s e.1 e.2 = false) →
      after (fun u =>
        getAG u k gi = { g with haloSent := g.next + 1 } ∧ OnlyAG k gi s u ∧ u.mem = s.mem ∧
        (getTile u k).remote = (getTile s k).remote ∧
        ∀ e ∈ haloSides g.cfg, e.1 < 4 → ∀ p, haloPeer s k e.2 = some p →
          let strip := haloStrip g.cfg e.1 (agBlock s k g)
          ∀ b ∈ chunks 304 ((strip.length + 303) / 304) strip,
            ⟨⟨cellAt k 3, cellAt p 3, gi, domainAt s k, BitVec.ofNat 16 (haloOpposite e.1)⟩, false, 2, b⟩ ∈ u.mesh.flight)) ∧
    (ready → agReadsOk s k g = true → agHasHalo g.cfg = true → g.next < g.haloSent → haloReady s k g = false →
      after (fun u => u = s)) ∧
    (ready → agReadsOk s k g = true → (agHasHalo g.cfg = true → haloReady s k g = true) →
      (∀ e ∈ agReads s k g, hasDouble s e.1 e.2 = false) →
      (∀ e ∈ haloReads s k g, hasDouble s e.1 e.2 = false) → fits →
      after (fun u =>
        u.mem = (writeRows k dp dslot (agFmt g.cfg) ws s).mem ∧
        OnlyBytes (memKey k dp dslot 0) (spaceSize dp) s u ∧ (getTile u k).remote = (getTile s k).remote ∧
        (getAG u k gi).next = g.next + 1 ∧ (getAG u k gi).finished = decide (agTokens g.cfg ≤ g.next + 1) ∧
        (getAG u k gi).used = (if agToRing g = true then g.used + 1 else g.used) ∧
        (getAG u k gi).tokens = (if agFromRing g = true then g.tokens.drop 1 else g.tokens) ∧ OnlyAG k gi s u ∧
        (∀ i, agToRing g = true →
          (List.range 4).find? (fun i => (ccPort (getCC s k dslot).cfg i).mode ≥ 2 &&
            (ccPort (getCC s k dslot).cfg i).base * 64 == (agDst g.cfg).2.2) = some i →
          ⟨⟨cellAt k 3, cellAt k dslot, (ccPort (getCC s k dslot).cfg i).binding, domainAt s k, agTag g⟩, true, 1,
            tokenBody (agValid s k g).1 (agValid s k g).2⟩ ∈ u.mesh.flight) ∧
        (agFromRing g = true →
          ⟨⟨cellAt k 3, cellAt k (agSrc g.cfg).2.1, (ccPort (getCC s k (agSrc g.cfg).2.1).cfg 4).binding, domainAt s k, 0⟩,
            true, 2, []⟩ ∈ u.mesh.flight))) ∧
    (ready → gi < 4 → agReadsOk s k g = true → (agHasHalo g.cfg = true → haloReady s k g = true) →
      (agHasHalo g.cfg = true → g.haloSent ≤ g.next → ∀ e ∈ agReads s k g, hasDouble s e.1 e.2 = false) →
      ¬fits ∨ (∃ e ∈ agReads s k g, hasDouble s e.1 e.2 = true) ∨ (∃ e ∈ haloReads s k g, hasDouble s e.1 e.2 = true) →
      after (fun u => (getAG u k gi).stopped = true))

/-- Every `halo`, `stream`, `eccWriteBack` and `queueSample` completes. A piece of a strip that is delivered to a
generator with that region follows those before it in its receive region; the last piece counts the strip as received, and
of a north or south strip its corner blocks go on to the east and west neighbours. Stream bytes follow those of their
block in the buffer of the port that their binding delivers; no other byte changes. A binding that no port names stops the
cell. A tile that has not started holds both, a stopped one discards them, and one that is not delivered writes its event.
A corrected word that is counted is written back, once. A sample of a partition whose sampling is on is written at every
mapped site at the next place of its ring, and the place moves on; with sampling off nothing changes. -/
def Obligations.StripsStreamsAndSamplesAreStored : Prop :=
  ∀ s : State,
    (∀ (h : Head) part data, Live h s → h.target < 4 →
      let k := dstSite h
      let gi := h.target
      let g := getAG s k gi
      let q := haloRegion part
      let n := haloBytes g.cfg q
      let off := amGet g.haloFill q 0
      let bytes := data.take (n - off)
      let key := memKey k 1 0 (haloBase g.cfg q + off)
      (g.stopped = false → (∃ e ∈ haloSides g.cfg, e.1 = q) →
        (inSpace 1 (haloBase g.cfg q) n = true →
          Completes (.halo h part data) s (fun t =>
            t.mem = (writeBytes key bytes s).mem ∧ OnlyBytes key bytes.length s t ∧ OnlyAG k gi s t ∧ t.events = s.events ∧
            (off + data.length < n → getAG t k gi = { g with haloFill := amSet g.haloFill q (off + data.length) }) ∧
            (n ≤ off + data.length →
              getAG t k gi = { g with haloGot := amMod g.haloGot q 0 (· + 1), haloFill := amDel g.haloFill q } ∧
              (q < 2 → agCorners g.cfg = true → ∀ e ∈ haloSides g.cfg, e.1 = 2 ∨ e.1 = 3 → ∀ p, haloPeer s k e.2 = some p →
                let region := if e.1 = 2 then (if q = 1 then 7 else 5) else (if q = 1 then 6 else 4)
                let corner := cornerBlock t k g q (e.1 == 2)
                ∀ b ∈ chunks 304 ((corner.length + 303) / 304) corner,
                  ⟨⟨cellAt k 3, cellAt p 3, gi, domainAt s k, BitVec.ofNat 16 region⟩, false, 2, b⟩ ∈ t.mesh.flight)))) ∧
        (inSpace 1 (haloBase g.cfg q) n = false →
          Completes (.halo h part data) s (fun t => (getAG t k gi).stopped = true))) ∧
      (g.stopped = true ∨ (∀ e ∈ haloSides g.cfg, e.1 ≠ q) →
        Completes (.halo h part data) s (fun t => t = crossed h false 2 s ∧ t.tiles = s.tiles ∧ t.mem = s.mem))) ∧
    (∀ (h : Head) part data, Live h s → 4 ≤ h.target →
      Completes (.halo h part data) s (fun t => t = crossed h false 2 s ∧ t.tiles = s.tiles ∧ t.mem = s.mem)) ∧
    (∀ (h : Head) data, Live h s → h.dst.slot < 3 →
      let k := dstSite h
      let b := h.target
      let c := getCC s k h.dst.slot
      let off := amGet c.streamFill (b * 65536 + h.tag.toNat) 0
      (∀ i rest, c.stopped = false → ccClass c.cfg ≠ 0 → (ccIn c.cfg b).enable = true → portsOn c.cfg b = i :: rest →
        (2 ≤ (ccPort c.cfg i).mode →
          let d := ccPort c.cfg i
          let line := if d.mode = 3 then d.base else bufferLine d h.tag.toNat
          let key := memKey k 2 h.dst.slot (line * 64 + off)
          Completes (.stream h data) s (fun t =>
            t.mem = (writeBytes key (data.take (d.size * 64 - off)) s).mem ∧ OnlyBytes key (data.take (d.size * 64 - off)).length s t ∧
            getCC t k h.dst.slot = { c with streamFill := amSet c.streamFill (b * 65536 + h.tag.toNat) (off + data.length) } ∧
            OnlyCC k h.dst.slot s t ∧ t.events = s.events)) ∧
        ((ccPort c.cfg i).mode < 2 → Completes (.stream h data) s (fun t => t = crossed h false 1 s))) ∧
      (c.stopped = false → ccClass c.cfg = 0 ∨ (ccIn c.cfg b).enable = false ∨ portsOn c.cfg b = [] →
        Completes (.stream h data) s (fun t => (getCC t k h.dst.slot).stopped = true ∧ t.mem = s.mem)) ∧
      (c.stopped = true → Completes (.stream h data) s (fun t => t.tiles = s.tiles ∧ t.mem = s.mem))) ∧
    (∀ (h : Head) data, delivers s h = true → 3 ≤ h.dst.slot → Completes (.stream h data) s (fun t => t = crossed h false 1 s)) ∧
    (∀ (h : Head) part data, delivers s h = true →
      let k := dstSite h
      ((getTile s k).run = .idle ∨ (getTile s k).run = .loading →
        Completes (.halo h part data) s (fun t => t.mem = s.mem ∧
          getTile t k = { getTile s k with heldOps := (getTile s k).heldOps ++ [.halo h part data] }) ∧
        (h.dst.slot < 3 → Completes (.stream h data) s (fun t => t.mem = s.mem ∧
          getTile t k = { getTile s k with heldOps := (getTile s k).heldOps ++ [.stream h data] }))) ∧
      ((getTile s k).run = .stopped →
        Completes (.halo h part data) s (fun t => t = crossed h false 2 s) ∧
        Completes (.stream h data) s (fun t => t = crossed h false 1 s))) ∧
    (∀ (h : Head) part data, delivers s h = false →
      Completes (.halo h part data) s (fun t => t.tiles = s.tiles ∧ t.mem = s.mem ∧ Raised (refuseEvent (crossed h false 2 s) h) s t) ∧
      Completes (.stream h data) s (fun t => t.tiles = s.tiles ∧ t.mem = s.mem ∧ Raised (refuseEvent (crossed h false 1 s) h) s t)) ∧
    (∀ x y addr,
      let word := (siteKey x y * 0x400000 + addr) / 8
      (amFind s.ecc word = some .counted →
        Completes (.eccWriteBack x y addr) s (fun t => t.ecc = amDel s.ecc word ∧ t.mem = s.mem ∧ t.tiles = s.tiles)) ∧
      (amFind s.ecc word ≠ some .counted → Completes (.eccWriteBack x y addr) s (fun t => t = s))) ∧
    (∀ part a j base len, getPart s part = some a → a.sampling = some (j, base, len) →
      Completes (.queueSample part) s (fun t =>
        (∀ k ∈ mappedSites a, getTile t k = { getTile s k with
          sampleAt := ((getTile s k).sampleAt % max 1 len + 1) % max 1 len }) ∧
        (∀ k, k ∉ mappedSites a → getTile t k = getTile s k) ∧ t.parts = s.parts ∧
        (∀ k, mappedSites a = [k] →
          let key := memKey k 0 0 (base + 4 * ((getTile s k).sampleAt % max 1 len))
          t.mem = (writeBytes key (leBytes 4 (sampleWord s a k)) s).mem ∧ OnlyBytes key 4 s t))) ∧
    (∀ part, (getPart s part).bind Part.sampling = none → Completes (.queueSample part) s (fun t => t = s))

/-- Every `mcastRect`, `mcastMask`, `mcastControl`, `mcastAck` and `mcastStall` completes. Every served position of a
rectangle, or of an 8 by 8 window under its mask, is a target; each whose branch has room takes or refuses its copy as its
own packet would, and the packet stays until every branch has taken one. The source then gets one acknowledgement with the
two counts, and one of the same tag that is still out takes them in instead. A lone target's copy acts as the inner packet
does there. A control multicast acts at each target as its inner message does. An acknowledgement joins those of its tile;
a stalled branch is named by event 0x11B, not before the report time and once; an inner type that is none is discarded
with event 0x115. -/
def Obligations.MulticastsReachTheirRectangle : Prop :=
  ∀ (h : Head) (s : State),
    let targets := fun (m : MeshMsg) => (((castArea m).map (fun a => a.2.2.2.2)).getD []).filter (served s)
    let waits := fun (m : MeshMsg) => branchWaits s m (rootOf s m)
    let begun := fun (m : MeshMsg) (inner : Nat) (data : List Byte) (t : State) =>
      let wait := (targets m).filter (waits m)
      let go := (targets m).filter (fun pos => !waits m pos)
      let cast := fun (d r : Nat) => (Cast.mk h m.kind inner data wait d r (now s) false)
      ∃ d r v, d + r = go.length ∧ (wait = [] → t = castDone (cast d r) v) ∧
        (wait ≠ [] → t = { v with mesh := { v.mesh with casts := v.mesh.casts ++ [cast d r] } }) ∧
        (go = [] → v = s) ∧
        (∀ pos, go = [pos] → innerData inner (copyHead s h pos) data s = .next v ∧
          d = (if delivers s (copyHead s h pos) = true then 1 else 0))
    (∀ x1 y1 inner data, inner = 1 ∨ inner = 2 →
      Completes (.mcastRect h x1 y1 inner data) s (begun (castMsg h 5 x1 y1 0 inner data) inner data)) ∧
    (∀ (mask : Word64) inner data, inner = 1 ∨ inner = 2 →
      Completes (.mcastMask h mask inner data) s (begun (castMsg h 6 0 0 mask inner data) inner data)) ∧
    (∀ (c : Cast) (v : State),
      let twin := fun (d : Cast) => d.head.src = c.head.src ∧ d.head.tag = c.head.tag
      ((∀ d ∈ v.mesh.casts, ¬twin d) →
        castDone c v = send ⟨⟨c.head.dst, c.head.src, 0, c.head.domain, c.head.tag⟩, false, 9,
          leBytes 2 c.delivered ++ leBytes 2 c.refused ++ leBytes 4 0⟩ (crossed c.head false c.kind v)) ∧
      (∀ d, v.mesh.casts = [d] → twin d →
        (castDone c v).mesh.casts = [{ d with delivered := d.delivered + c.delivered, refused := d.refused + c.refused }])) ∧
    (∀ inner data, inner ≠ 1 → inner ≠ 2 →
      (∀ x1 y1, Completes (.mcastRect h x1 y1 inner data) s (fun t =>
        t.tiles = s.tiles ∧ Raised { evCell s 0x115 1 h.src 0 with domain := h.domain } s t)) ∧
      (∀ mask, Completes (.mcastMask h mask inner data) s (fun t =>
        t.tiles = s.tiles ∧ Raised { evCell s 0x115 1 h.src 0 with domain := h.domain } s t))) ∧
    (∀ x1 y1 inner data k, x1 < 288 → y1 < 280 → (k ∈ targets (castMsg h 5 x1 y1 0 inner data) ↔
      ∃ x y, k = siteKey x y ∧ h.dst.x ≤ x ∧ x ≤ x1 ∧ h.dst.y ≤ y ∧ y ≤ y1 ∧ served s k = true)) ∧
    (∀ (mask : Word64) inner data k, k ∈ targets (castMsg h 6 0 0 mask inner data) ↔
      ∃ x y, k = siteKey x y ∧ h.dst.x ≤ x ∧ x ≤ h.dst.x + 7 ∧ x < 288 ∧ h.dst.y ≤ y ∧ y ≤ h.dst.y + 7 ∧ y < 280 ∧
        mask.getLsbD ((y - h.dst.y) * 8 + (x - h.dst.x)) = true ∧ served s k = true) ∧
    (∀ x1 y1 inner words, 1 ≤ inner → inner ≤ 7 → x1 < 288 → y1 < 280 →
      Completes (.mcastControl h x1 y1 inner words) s (fun t =>
        t = (targets (castMsg h 5 x1 y1 0 inner [])).foldl (fun s pos => innerCtl inner (copyHead s h pos) words s) (crossed h true 8 s))) ∧
    (∀ x1 y1 inner words, inner = 0 ∨ 7 < inner →
      Completes (.mcastControl h x1 y1 inner words) s (fun t =>
        t.tiles = s.tiles ∧ Raised { evCell s 0x115 1 h.src 0 with domain := h.domain } s t)) ∧
    (∀ d r, delivers s h = true → Completes (.mcastAck h d r) s (fun t =>
      getTile t (dstSite h) = { getTile s (dstSite h) with
        acks := (getTile s (dstSite h)).acks ++ [(h.dst.slot, h.tag.toNat, d, r)] } ∧
      (∀ j, j ≠ dstSite h → getTile t j = getTile s j) ∧ t.events = s.events)) ∧
    (∀ d r, delivers s h = false → Completes (.mcastAck h d r) s (fun t =>
      t.tiles = s.tiles ∧ Raised (refuseEvent (crossed h false 9 s) h) s t)) ∧
    (∀ x y (stalled : CellRef) domain,
      let stands := fun (c : Cast) => c.head.domain = domain ∧ c.noted = false ∧ ∃ pos ∈ c.left, physical s pos = siteKey stalled.x stalled.y
      ((∀ c ∈ s.mesh.casts, ¬stands c) → Completes (.mcastStall x y stalled domain) s (fun t => t = s)) ∧
      (∀ c, s.mesh.casts = [c] → stands c → Completes (.mcastStall x y stalled domain) s (fun t =>
        t.tiles = s.tiles ∧ t.mesh.casts = [{ c with noted := true }] ∧ c.since + setting s 0x2B00 8 * usT ≤ now t ∧
        Raised { evCell s 0x11B 1 stalled 0 with domain := domain } s t)))

/-- Every `combine`, `failNotice`, `reservedPacketType` and `reservedControlKind` completes. The first piece of a buffer
is written at its place and a further one added to what stands there; the arrival count takes every contribution in it,
and the last piece of a buffer completes its fill. In deterministic order a piece ahead of its turn is held in the staging
bank. A piece that is not of the home's length or format, or that would pass the expected count, is discarded with event
0x186, and its buffer never completes. A word that it meets with an uncorrectable error, or a place past the staging bank,
stops the home. A tile that has not started holds a piece, and one that is stopped, or has no generator there, discards
it. A failure notice fails the descriptor or ring operation with its request ID, if there is one. A reserved packet type
or message kind is discarded with event 0x115, and one that is not reserved is none of these. -/
def Obligations.CombiningHomesAddTheirPieces : Prop :=
  ∀ (h : Head) (s : State),
    (∀ (pre : CombinePrefix) elems, Live h s → h.dst.slot = 3 → h.target < 4 →
      let k := dstSite h
      let gi := h.target
      let g := getAG s k gi
      let n := pieceCount g.size
      let i := h.tag.toNat / max 1 n
      let j := h.tag.toNat % max 1 n
      let cur := amGet g.arrived (i * n + j) 0
      let key := pieceKey k g i j
      let es := elems.map BitVec.toNat
      let sum := (if cur = 0 then es
        else es.zipIdx.map (fun e => addElem (homeFloat g) (fieldAt (readBytes s key (es.length * 4)) (4 * e.2) 4) e.1)).flatMap (leBytes 4)
      let fits := 0 < g.expected ∧ 0 < n ∧ i < max 1 g.depth ∧ elems.length = pieceLen g j ∧ pre.isInt = !homeFloat g ∧ 0 < pre.count ∧
        cur + pre.count ≤ g.expected
      g.stopped = false →
      (fits → pre.det = false ∨ pre.ordinal = cur → g.held = [] → (cur = 0 ∨ hasDouble s key (es.length * 4) = false) →
        Completes (.combine h pre elems) s (fun t =>
          t.mem = (writeBytes key sum s).mem ∧ OnlyBytes key (elems.length * 4) s t ∧ OnlyAG k gi s t ∧
          ((cur + pre.count < g.expected ∨ i ∈ g.spoiled ∨ ∃ q < n, q ≠ j ∧ amGet g.arrived (i * n + q) 0 ≠ g.expected) →
            getAG t k gi = { g with arrived := amSet g.arrived (i * n + j) (cur + pre.count) }) ∧
          (cur + pre.count = g.expected → i ∉ g.spoiled → (∀ q < n, q ≠ j → amGet g.arrived (i * n + q) 0 = g.expected) →
            (getAG t k gi).next = g.next + 1 ∧ (getAG t k gi).used = g.used + 1 ∧
            (getAG t k gi).fills = amSet g.fills i (amGet g.fills i 0 + 1) ∧
            (getAG t k gi).finished = decide (agTokens g.cfg ≤ g.next + 1) ∧
            (∀ q < n, amGet (getAG t k gi).arrived (i * n + q) 0 = 0) ∧
            ∀ d, homePort s k g = some d →
              ⟨⟨cellAt k 3, cellAt k (agDst g.cfg).2.1, d.binding, domainAt s k,
                BitVec.ofNat 16 (agFirstTag g.cfg + amGet g.fills i 0 * g.depth + i)⟩, true, 1,
                tokenBody (if agRowLoop g.cfg = 7 then 8191 else agRowLimit g.cfg) ((agColLimit g.cfg).getD 32767)⟩
                ∈ t.mesh.flight))) ∧
      (fits → pre.det = false ∨ pre.ordinal = cur → g.held = [] → 0 < cur → hasDouble s key (es.length * 4) = true →
        Completes (.combine h pre elems) s (fun t => (getAG t k gi).stopped = true)) ∧
      (fits → pre.det = true → cur < pre.ordinal → pre.ordinal < g.expected →
        (∀ q ∈ g.held, ¬(q.buffer = i ∧ q.piece = j ∧ q.ordinal = pre.ordinal)) → 131072 < holdAddr g j pre.ordinal + 256 →
        Completes (.combine h pre elems) s (fun t => (getAG t k gi).stopped = true)) ∧
      (fits → pre.det = true → cur < pre.ordinal → pre.ordinal < g.expected →
        (∀ q ∈ g.held, ¬(q.buffer = i ∧ q.piece = j ∧ q.ordinal = pre.ordinal)) → holdAddr g j pre.ordinal + 256 ≤ 131072 →
        Completes (.combine h pre elems) s (fun t =>
          getAG t k gi = { g with held := g.held ++ [{ buffer := i, piece := j, ordinal := pre.ordinal, count := pre.count }] } ∧
          t.mem = (writeBytes (memKey k 1 0 (holdAddr g j pre.ordinal)) (es.flatMap (leBytes 4)) s).mem ∧
          OnlyBytes (memKey k 1 0 (holdAddr g j pre.ordinal)) (elems.length * 4) s t ∧ OnlyAG k gi s t ∧ t.events = s.events)) ∧
      (¬fits ∨ (pre.det = true ∧ (pre.ordinal < cur ∨ (cur < pre.ordinal ∧ (g.expected ≤ pre.ordinal ∨
          ∃ q ∈ g.held, q.buffer = i ∧ q.piece = j ∧ q.ordinal = pre.ordinal)))) →
        Completes (.combine h pre elems) s (fun t =>
          getAG t k gi = { g with spoiled := if i ∈ g.spoiled then g.spoiled else g.spoiled ++ [i] } ∧ OnlyAG k gi s t ∧
          t.mem = s.mem ∧ Raised (evCell s 0x186 1 (cellAt k 3) 0) s t))) ∧
    (∀ (pre : CombinePrefix) elems,
      let k := dstSite h
      (delivers s h = true → ¬(h.dst.slot = 3 ∧ h.target < 4) ∨ (getTile s k).run = .stopped ∨
          ((getTile s k).run ≠ .idle ∧ (getTile s k).run ≠ .loading ∧ (getAG s k h.target).stopped = true) →
        Completes (.combine h pre elems) s (fun t => t.tiles = s.tiles ∧ t.mem = s.mem ∧ t.events = s.events)) ∧
      (delivers s h = true → h.dst.slot = 3 → h.target < 4 → (getTile s k).run = .idle ∨ (getTile s k).run = .loading →
        Completes (.combine h pre elems) s (fun t => t.mem = s.mem ∧ t.events = s.events ∧
          getTile t k = { getTile s k with heldOps := (getTile s k).heldOps ++ [.combine h pre elems] })) ∧
      (delivers s h = false → Completes (.combine h pre elems) s (fun t =>
        t.tiles = s.tiles ∧ t.mem = s.mem ∧ Raised (refuseEvent (crossed h false 7 s) h) s t))) ∧
    (∀ reason lostType reqId,
      (dstIsTile h = true → delivers s h = true →
        Completes (.failNotice h reason lostType reqId) s (fun t =>
          t = cellLost (dstSite h) reqId reason (crossed h false 10 s) ∧
          (descOf s (dstSite h) reqId = none → t.tiles = s.tiles ∧ t.mem = s.mem ∧ t.events = s.events))) ∧
      (dstIsTile h = true → delivers s h = false →
        Completes (.failNotice h reason lostType reqId) s (fun t =>
          t.tiles = s.tiles ∧ Raised (refuseEvent (crossed h false 10 s) h) s t)) ∧
      (dstIsTile h = false →
        Completes (.failNotice h reason lostType reqId) s (fun t => t = ringLost reqId reason (crossed h false 10 s)))) ∧
    (∀ x y type, type = 0 ∨ type = 8 ∨ 11 ≤ type →
      Completes (.reservedPacketType x y h type) s (fun t =>
        t.mesh = s.mesh ∧ Raised { evCell s 0x115 1 h.src 0 with domain := h.domain } s t)) ∧
    (∀ x y type, type ≠ 0 → type ≠ 8 → type ≤ 10 → Completes (.reservedPacketType x y h type) s (fun t => t = s)) ∧
    (∀ x y kind, 1 ≤ kind → kind ≤ 9 → Completes (.reservedControlKind x y h kind) s (fun t => t = s)) ∧
    (∀ x y kind, kind = 0 ∨ 10 ≤ kind →
      Completes (.reservedControlKind x y h kind) s (fun t =>
        t.mesh = s.mesh ∧ Raised { evCell s 0x115 1 h.src 0 with domain := h.domain } s t))

/-- No barrier, broadcast or snapshot of a counter's owner waits (R229). -/
def NoBarrier (key : CtrKey) (s : State) : Prop := ∀ q, ctrOwner s key = some q → getHostOp s q 0 = none

/-- A counter has a new value and no other counter, nor the stored bytes, has changed. -/
def OnlyCtr (key : CtrKey) (v : Counter) (s t : State) : Prop :=
  getCtr t key = v ∧ (∀ j, j ≠ key → getCtr t j = getCtr s j) ∧ t.crest.watches = s.crest.watches ∧ t.mem = s.mem

/-- An operation writes an event, or none. -/
def Wrote (e : Option EvReq) (s t : State) : Prop :=
  match e with
  | some e => Raised e s t
  | none => t.events = s.events

/-- What R219 and R220 say of an operation with amount n on a counter: the counter after it, its ACK status, its event. -/
def Operation (quiet : Bool) (key : CtrKey) (s : State) (op n : Nat) (w : Counter) (status : Nat) (e : Option EvReq) : Prop :=
  let v := getCtr s key
  let d := (v.p - v.c).toNat
  (op = 1 ∧ (n = 0 ∨ d + n ≤ v.bound.toNat) ∧ w = { v with p := v.p + BitVec.ofNat 48 n } ∧ status = 0 ∧ e = none) ∨
  (op = 1 ∧ n ≠ 0 ∧ v.bound.toNat < d + n ∧ w = v ∧ status = 1 ∧ e = some (evCtr s 0x180 1 key 0)) ∨
  (op = 2 ∧ n ≤ d ∧ w = { v with c := v.c + BitVec.ofNat 48 n } ∧ status = 0 ∧ e = none) ∨
  (op = 2 ∧ d < n ∧ w = v ∧ status = 2 ∧ e = some (evCtr s 0x181 1 key 0)) ∨
  (op = 3 ∧ w = v ∧ status = 0 ∧ e = none) ∨
  (op = 4 ∧ n ≠ 0 ∧ d ≤ n ∧ w = { v with bound := BitVec.ofNat 16 n } ∧ status = 0 ∧ e = none) ∨
  (op = 4 ∧ (n = 0 ∨ n < d) ∧ w = v ∧ status = 4 ∧ e = some (evCtr s 0x183 2 key 0)) ∨
  (op = 5 ∧ quiet = true ∧ w = { v with p := 0, c := 0 } ∧ status = 0 ∧ e = if d = 0 then none else some (evCtr s 0x189 0 key d)) ∨
  (op = 5 ∧ quiet = false ∧ w = v ∧ status = 4 ∧ e = some (evCtr s 0x183 2 key 0))

/-- A tile's operation on a counter, with its number and amount (R222). -/
def OfTile (h : Head) (m : CtrMsg) (i : Instr) (op n : Nat) : Prop :=
  (∃ a : BitVec 32, i = .ctrProduce h m a ∧ op = 1 ∧ n = a.toNat) ∨ (∃ a : BitVec 32, i = .ctrConsume h m a ∧ op = 2 ∧ n = a.toNat) ∨
  (i = .ctrRead h m ∧ op = 3 ∧ n = 0) ∨ (∃ b : BitVec 16, i = .ctrBound h m b ∧ op = 4 ∧ n = b.toNat) ∨
  (i = .ctrInit h m ∧ op = 5 ∧ n = 0)

/-- A host's operation on a counter, with its number and amount (R235). -/
def OfHost (p : Pkt) (h : Hdr) (c : CtrRef) (i : Instr) (op n : Nat) : Prop :=
  (∃ a : BitVec 32, i = .signalProduce p h c a ∧ op = 1 ∧ n = a.toNat) ∨
  (∃ a : BitVec 32, i = .signalConsume p h c a ∧ op = 2 ∧ n = a.toNat) ∨ (i = .counterRead p h c ∧ op = 3 ∧ n = 0) ∨
  (∃ b : BitVec 16, i = .counterBound p h c b ∧ op = 4 ∧ n = b.toNat) ∨ (i = .counterInit p h c ∧ op = 5 ∧ n = 0)

/-- Every `ctrProduce`, `ctrConsume`, `ctrRead`, `ctrBound`, `ctrInit`, `signalProduce`, `signalConsume`, `counterRead`,
`counterBound` and `counterInit` completes. A produce adds to p where d + n is at most the bound, and is an overflow with
event 0x180 where not; a consume adds to c where n is at most d, else an underflow with 0x181; a bound below d or of 0 is
refused with 0x183; an INIT of a quiesced owner zeroes both counts, with 0x189 where d was above 0, and is refused with
0x183 otherwise. A tile's operation is answered by an ACK or READ_REPLY, a host's by SYNC_REPLY with the counter. In a
freeze the operation is held. One of another domain has status 3 and event 0x182 and changes nothing; one not delivered
writes its event. Watched counters and pending barriers are stated elsewhere. -/
def Obligations.CountersTakeTheirOperations : Prop :=
  ∀ s : State,
    (∀ (h : Head) (m : CtrMsg) (i : Instr) (op n : Nat), OfTile h m i op n → h.dst.x ≠ ringXY → delivers s h = false →
      Completes i s (fun t => t.tiles = s.tiles ∧ t.crest = s.crest ∧ Raised (refuseEvent (crossed h true 4 s) h) s t)) ∧
    (∀ (h : Head) (m : CtrMsg) (i : Instr) (op n : Nat), OfTile h m i op n → h.dst.x = ringXY ∨ delivers s h = true →
      let key := msgKey h m.crest m.index
      let v := getCtr s key
      let u := opIssued h (crossed h true 4 s)
      let own := ((ctrOwner s key).bind (getPart s)).map Part.domain = some h.domain
      let answered := fun (code status : Nat) (body : List Byte) (t : State) => srcIsTile h = true →
        (getTile t (siteKey h.src.x h.src.y)).opsOut = (getTile s (siteKey h.src.x h.src.y)).opsOut + 1 ∧
        ⟨⟨h.dst, ⟨h.src.x, h.src.y, 3⟩, 5, h.domain, h.tag⟩, true, 4, leBytes 4 (ctrWord2 code key m.ackWanted status) ++ body⟩
          ∈ t.mesh.flight
      (own → ctrFrozen s key = false → (∀ w ∈ s.crest.watches, w.key ≠ key) → NoBarrier key s →
        ∀ w status e, Operation ((ctrOwner s key).any (quiesced u)) key s op n w status e →
          Completes i s (fun t =>
            OnlyCtr key w s t ∧ Wrote e s t ∧
            (op ≠ 3 → answered 8 status (leBytes 4 0 ++ leBytes 4 (cellWord m.retCell m.retTarget)) t) ∧
            (op = 3 → answered 9 0 (leBytes 4 (v.p.toNat % 2 ^ 32) ++
              leBytes 4 (v.p.toNat / 2 ^ 32 * 2 ^ 16 + v.c.toNat / 2 ^ 32) ++ leBytes 4 (v.c.toNat % 2 ^ 32)) t) ∧
            (status = 1 ∨ status = 2 → ∀ q a, ctrOwner s key = some q → getPart s q = some a →
              ∃ b, getPart t q = some b ∧ b.counterFaults = sat32 (a.counterFaults + 1)))) ∧
      (own → ctrFrozen s key = true → Completes i s (fun t =>
        (∀ j, getCtr t j = getCtr s j) ∧ t.mesh = (crossed h true 4 s).mesh ∧
        (∀ k j, key = .tile k j → (getTile t k).heldOps = (getTile s k).heldOps ++ [i] ∧
          Wrote (if 16 ≤ ((getTile s k).heldOps.filter isCtrInstr).length then some (evCtr s 0x187 1 key 0) else none) s t) ∧
        (∀ j q a, key = .crest j → ctrOwner s key = some q → getPart s q = some a →
          ∃ b, getPart t q = some b ∧ b.heldCrest = a.heldCrest ++ [i]))) ∧
      (¬own → NoBarrier key s → Completes i s (fun t =>
        OnlyCtr key v s t ∧ Wrote (some { evCtr s 0x182 2 key 0 with domain := h.domain }) s t ∧
        answered 8 3 (leBytes 4 0 ++ leBytes 4 (cellWord m.retCell m.retTarget)) t))) ∧
    (∀ (p : Pkt) (h : Hdr) (c : CtrRef) (i : Instr) (op n : Nat), Arrives p s → OfHost p h c i op n →
      (∀ a key, syncPart s p h = some a → hostKey s h.part c = some key →
        (ctrFrozen s key = false → (∀ w ∈ s.crest.watches, w.key ≠ key) → NoBarrier key s →
          ∀ w status e, Operation (quiesced s h.part) key s op n w status e →
            Delivers i s (fun u v => ∃ r, OnlyCtr key w u r ∧ Wrote e u r ∧ r.fabric = u.fabric ∧
              v = replySync p h (if status = 0 then 0 else if status = 4 then 2 else 1) status w.p w.c 0 r)) ∧
        (ctrFrozen s key = true → Delivers i s (fun u v => v = holdCtr key i u ∧ ∀ j, getCtr v j = getCtr s j))) ∧
      (syncPart s p h = none → Delivers i s (fun u v => v = replySync p h 2 0 0 0 0 u)) ∧
      (∀ a, syncPart s p h = some a → hostKey s h.part c = none → Delivers i s (fun u v =>
        ∃ e : EvReq, e.code = 0x182 ∧ e.domain = p.domain ∧ v = replySync p h 2 3 0 0 0 (raise e u))))

/-- Every `ctrAck`, `ctrReadReply`, `watchRegister`, `watchCancel`, `watchNotify`, `watchSet` and `hostWatchCancel`
completes. An answer lowers its tile's count of outstanding operations, is passed on to the agent that asked for it, and
lets the tile arrive at a snapshot that waits for it. A watch whose condition holds is notified at once; one that does not
hold is kept where its holder has room, and refused with event 0x184 and a refused notification where it has none. A
cancel removes the watches of its name. Both refuse another domain with event 0x182. A notification is a token at a
binding of kind 01, held by a tile that has not started. A host's watch is answered, and kept or refused in the same way,
and its cancel removes those of its ID. One not delivered writes its event. -/
def Obligations.WatchesAreKeptAndNotify : Prop :=
  ∀ s : State,
    (∀ (h : Head) (m : CtrMsg) (i : Instr) (status p c : Nat),
      ((i = .ctrAck h m status ∧ p = 0 ∧ c = 0) ∨ ∃ a b : Count48, i = .ctrReadReply h m a b ∧ status = 0 ∧ p = a.toNat ∧ c = b.toNat) →
      (h.dst.x ≠ ringXY → delivers s h = false →
        Completes i s (fun t => t.tiles = s.tiles ∧ Raised (refuseEvent (crossed h true 4 s) h) s t)) ∧
      (h.dst.x = ringXY → Completes i s (fun t => t = crossed h true 4 s ∧ t.tiles = s.tiles)) ∧ (delivers s h = true →
      let k := dstSite h
      let t0 := getTile s k
      let t1 := { t0 with
        opsOut := t0.opsOut - 1
        agent := if m.ackWanted = true then t0.agent ++ [(m.retCell.slot, m.retTarget, status, p, c)] else t0.agent }
      ((∀ q, siteHolder s k = some q → getHostOp s q 2 = none) →
        Completes i s (fun t => getTile t k = t1 ∧ (∀ j, j ≠ k → getTile t j = getTile s j) ∧ t.mesh = (crossed h true 4 s).mesh ∧
          t.events = s.events)) ∧
      (∀ q a o, siteHolder s k = some q → getPart s q = some a → getHostOp s q 2 = some o → o.phase = 0 → t0.arrivedAt = false →
        (t0.opsOut ≤ 1 → Completes i s (fun t => getTile t k = { t1 with arrivedAt := true } ∧
          ⟨⟨⟨siteX k, siteY k, 3⟩, ⟨ringXY, ringXY, 0⟩, 0, a.domain, 0⟩, true, 6, crestBody 1 o.seq 0⟩ ∈ t.mesh.flight)) ∧
        (1 < t0.opsOut → Completes i s (fun t => getTile t k = t1 ∧ t.mesh = (crossed h true 4 s).mesh))))) ∧
    (∀ (h : Head) (m : WatchMsg), h.dst.x ≠ ringXY → delivers s h = false → ∀ i, i = .watchRegister h m ∨ i = .watchCancel h m →
      Completes i s (fun t => t.crest = s.crest ∧ Raised (refuseEvent (crossed h true 5 s) h) s t)) ∧
    (∀ (h : Head) (m : WatchMsg), h.dst.x = ringXY ∨ delivers s h = true →
      let key := msgKey h m.crest m.index
      let w : Watch := {
        key := key, onC := m.onC, v := m.v, domain := h.domain, tag := h.tag, tgtCell := m.tgtCell, tgtTarget := m.tgtTarget }
      let own := ((ctrOwner s key).bind (getPart s)).map Part.domain = some h.domain
      let notice := fun (st : Nat) (t : State) => t.crest = s.crest ∧
        ⟨⟨ctrHolder key, m.tgtCell, m.tgtTarget, h.domain, h.tag⟩, true, 5,
          leBytes 4 (ctrWord2 3 key m.onC st) ++ leBytes 4 (m.v.toNat % 2 ^ 32) ++ leBytes 4 (m.v.toNat / 2 ^ 32) ++
          leBytes 4 (cellWord m.tgtCell m.tgtTarget)⟩ ∈ t.mesh.flight
      let kept := (s.crest.watches.filter (fun (a : Watch) => ctrHolder a.key == ctrHolder key)).length
      (own → watchRoom key ≤ kept → Completes (.watchRegister h m) s (fun t =>
        notice 1 t ∧ Raised (evCtr s 0x184 2 key 0) s t)) ∧
      (own → kept < watchRoom key →
        let count := if m.onC = true then (getCtr s key).c else (getCtr s key).p
        ((count - m.v).toNat < 2 ^ 47 → Completes (.watchRegister h m) s (fun t => notice 0 t ∧ t.events = s.events)) ∧
        (2 ^ 47 ≤ (count - m.v).toNat → Completes (.watchRegister h m) s (fun t =>
          t.crest = { s.crest with watches := s.crest.watches ++ [w] } ∧ t.mesh = (crossed h true 5 s).mesh ∧ t.events = s.events))) ∧
      (own → Completes (.watchCancel h m) s (fun t =>
        t.crest = { s.crest with watches := s.crest.watches.filter (fun (a : Watch) => !sameWatch a w) } ∧
        t.mesh = (crossed h true 5 s).mesh ∧ t.events = s.events)) ∧
      (¬own → ∀ i, i = .watchRegister h m ∨ i = .watchCancel h m → Completes i s (fun t =>
        t.crest = s.crest ∧ t.mesh = (crossed h true 5 s).mesh ∧
        Raised { evCtr s 0x182 2 key 0 with domain := h.domain } s t))) ∧
    (∀ (h : Head) (m : WatchMsg) (status : Nat),
      let k := dstSite h
      let b := h.target
      (Live h s → status = 0 → h.dst.slot < 3 → b < 4 → (ccIn (getCC s k h.dst.slot).cfg b).kind = 1 →
        Completes (.watchNotify h m status) s (fun t =>
          t = ccArrive k h.dst.slot b { tag := h.tag, rows := 8191, cols := 32767 } (crossed h true 5 s))) ∧
      (Live h s → status ≠ 0 ∨ 3 ≤ h.dst.slot ∨ 4 ≤ b ∨ (ccIn (getCC s k h.dst.slot).cfg b).kind ≠ 1 →
        Completes (.watchNotify h m status) s (fun t => t = crossed h true 5 s ∧ t.tiles = s.tiles)) ∧
      (h.dst.x = ringXY ∨ (delivers s h = true ∧ (getTile s k).run = .stopped) →
        Completes (.watchNotify h m status) s (fun t => t = crossed h true 5 s ∧ t.tiles = s.tiles)) ∧
      (delivers s h = true → status = 0 → h.dst.slot < 3 → (getTile s k).run = .idle ∨ (getTile s k).run = .loading →
        Completes (.watchNotify h m status) s (fun t =>
          getTile t k = { getTile s k with heldOps := (getTile s k).heldOps ++ [.watchNotify h m status] } ∧ t.events = s.events)) ∧
      (h.dst.x ≠ ringXY → delivers s h = false →
        Completes (.watchNotify h m status) s (fun t => t.tiles = s.tiles ∧ Raised (refuseEvent (crossed h true 5 s) h) s t))) ∧
    (∀ (p : Pkt) (h : Hdr) (c : CtrRef) (count : Nat) (v : Count48) (id : BitVec 32), Arrives p s →
      let set : Instr := .watchSet p h c count v id
      let cancel : Instr := .hostWatchCancel p h id
      (∀ a key, syncPart s p h = some a → hostKey s h.part c = some key →
        let w : Watch := { key := key, onC := count == 1, v := v, domain := p.domain, host := some (id, p.node) }
        let full := watchRoom key ≤ (s.crest.watches.filter (fun (a : Watch) => ctrHolder a.key == ctrHolder key)).length
        (1 < count → Delivers set s (fun u v => v = replySync p h 2 0 0 0 0 u)) ∧
        (count ≤ 1 → full → Delivers set s (fun u v =>
          v = replySync p h 2 0 0 0 0 (notifyWatch w 1 (raise (evCtr u 0x184 2 key 0) u)))) ∧
        (count ≤ 1 → ¬full → watchHolds s w = true → Delivers set s (fun u v => v = replySync p h 0 0 0 0 0 (notifyWatch w 0 u))) ∧
        (count ≤ 1 → ¬full → watchHolds s w = false → Delivers set s (fun u v =>
          v = replySync p h 0 0 0 0 0 { u with crest := { u.crest with watches := u.crest.watches ++ [w] } }))) ∧
      (∀ a, syncPart s p h = some a → hostKey s h.part c = none → Delivers set s (fun u v =>
        ∃ e : EvReq, e.code = 0x182 ∧ e.domain = p.domain ∧ v = replySync p h 2 3 0 0 0 (raise e u))) ∧
      (∀ a, syncPart s p h = some a → Delivers cancel s (fun u v =>
        v = replySync p h 0 0 0 0 0 { u with crest := { u.crest with watches := u.crest.watches.filter (fun (w : Watch) =>
          !(w.host == some (id, p.node) && ctrOwner s w.key == some h.part)) } })) ∧
      (syncPart s p h = none → ∀ i, i = set ∨ i = cancel → Delivers i s (fun u v => v = replySync p h 2 0 0 0 0 u)))

/-- Every `crestStill`, `crestMoving` and `hangTimerExpire` completes. A still tile of the running section joins those
that are still, and with the last one, detection on and no traffic in flight the timer starts at the present time. A tile
that moves leaves them and stops the timer. Either message from an agent that is no tile's memory cell is discarded with
event 0x115. At the hang time, which the expiry is not before, a partition whose detection is on, whose mapped tiles are
all still and that has no traffic in flight is reported hung by event 0x185: its hangs count up, its job closes and its
run is reported aborted. Otherwise the timer stops. With no timer running nothing changes. -/
def Obligations.StillTilesRunTheHangTimer : Prop :=
  ∀ s : State,
    (∀ (h : Head) seq, h.dst.x = ringXY → fromTile h = true →
      let k := siteKey h.src.x h.src.y
      let u := crossed h true 6 s
      (∀ p a c r, running s k = some (p, a, c, r) →
        let still := if a.still.contains k then a.still else a.still ++ [k]
        (k ∈ r.sites → tileStill s r k = true →
          let go := setting s 0x2C00 2 = 1 ∧ (∀ j ∈ sitesOf a c.sec, j ∈ still) ∧ trafficInFlight u p a = false
          (go → Completes (.crestStill h seq) s (fun t =>
            getPart t p = some { a with still := still, hangTimer := some (a.hangTimer.getD (now s)) } ∧ ∀ q, q ≠ p → getPart t q = getPart s q)) ∧
          (¬go → Completes (.crestStill h seq) s (fun t =>
            getPart t p = some { a with still := still, hangTimer := none } ∧ ∀ q, q ≠ p → getPart t q = getPart s q))) ∧
        (k ∉ r.sites ∨ tileStill s r k = false → Completes (.crestStill h seq) s (fun t => t = u ∧ t.parts = s.parts))) ∧
      (running s k = none → Completes (.crestStill h seq) s (fun t => t = u ∧ t.parts = s.parts)) ∧
      (∀ p a, siteHolder s k = some p → getPart s p = some a →
        Completes (.crestMoving h seq) s (fun t =>
          getPart t p = some { a with
            still := a.still.filter (fun j => j != k), hangTimer := if a.current.isSome = true then none else a.hangTimer } ∧
          ∀ q, q ≠ p → getPart t q = getPart s q)) ∧
      (siteHolder s k = none → Completes (.crestMoving h seq) s (fun t => t = u ∧ t.parts = s.parts))) ∧
    (∀ (h : Head) seq i, i = .crestStill h seq ∨ i = .crestMoving h seq →
      (h.dst.x = ringXY ∨ delivers s h = true → fromTile h = false → Completes i s (fun t =>
        t.parts = s.parts ∧ Raised { evCell s 0x115 1 h.src 0 with domain := h.domain } s t)) ∧
      (h.dst.x ≠ ringXY → delivers s h = false → Completes i s (fun t =>
        t.parts = s.parts ∧ Raised (refuseEvent (crossed h true 6 s) h) s t))) ∧
    (∀ part, (getPart s part).bind Part.hangTimer = none → Completes (.hangTimerExpire part) s (fun t => t = s)) ∧
    (∀ part a since c r j, getPart s part = some a → a.hangTimer = some since → a.current = some c → sectionOf a c.sec = some r →
      a.job = some j →
      let due := since + setting s 0x2C00 1 * usT
      let hung := setting s 0x2C00 2 = 1 ∧ (∀ k ∈ r.sites, tileStill s r k = true) ∧ trafficInFlight s part a = false
      (¬hung → Completes (.hangTimerExpire part) s (fun t =>
        due ≤ now t ∧ getPart t part = some { a with hangTimer := none } ∧ t.events = s.events)) ∧
      (hung → setting s 0x2A05 (part + 1) ≠ 1 → Completes (.hangTimerExpire part) s (fun t =>
        due ≤ now t ∧ (∃ b, getPart t part = some b ∧ b.hangs = sat32 (a.hangs + 1) ∧ b.hangTimer = none ∧ b.job = none ∧
          b.current = none ∧ b.queue = []) ∧
        ∃ e : EvReq, e.code = 0x185 ∧ e.x = siteX (hangNames s r.sites).1 ∧ e.y = siteY (hangNames s r.sites).1 ∧
          ∃ l, t.events.pending = (raise e s).events.pending ++ l)))

/-- Every `barrier`, `broadcast`, `snapshot`, `descriptorPost`, `crestRelay`, `crestArrive`, `crestCollected`,
`crestAbort` and `crestRelease` completes. A barrier of a lone wafer whose arrival counter has reached its value releases
at once: the release counter takes 1, and the answer carries the arrival count; one that has not waits. A broadcast of a
lone wafer adds its amount to the named counter. A snapshot asks every tile with no operation outstanding to arrive; when
the last tile has arrived the counters freeze, and when the last is collected they unfreeze and the answer goes out. An
abort closes the group's jobs. Another operation of the kind still pending, or no open job, is an error; a counter outside
the allotment has status 3 and event 0x182. A relayed arrival is kept until its operation is commanded. A descriptor joins
its memory cell. A message from an agent that may not send it is discarded with event 0x115. -/
def Obligations.GlobalOperationsGatherAndRelease : Prop :=
  ∀ s : State,
    (∀ (p : Pkt) (h : Hdr) a j, Arrives p s → syncPart s p h = some a → a.job = some j → j.members = [] → a.early = [] →
      (∀ arrival release (v : Count48), (∀ o ∈ a.hostOps, o.kind ≠ 0) →
        (crestOwner s arrival = some h.part → crestOwner s release = some h.part →
          let n := (getCtr s (.crest arrival)).p
          let r := getCtr s (.crest release)
          let waits : HostOp := { kind := 0, node := p.node, tag := h.tag, arrival := arrival, release := release, v := v, seq := a.opSeq }
          (countGe n v = false → Delivers (.barrier p h arrival release v) s (fun u v =>
            v = modPart h.part (fun (a : Part) => { a with hostOps := a.hostOps ++ [waits], opSeq := (a.opSeq + 1) % 16 }) u)) ∧
          (countGe n v = true → a.frozen = false → (∀ w ∈ s.crest.watches, w.key ≠ .crest release) →
            ctrDiff r + 1 ≤ r.bound.toNat →
            Delivers (.barrier p h arrival release v) s (fun u v => ∃ w,
              OnlyCtr (.crest release) { r with p := r.p + 1 } u w ∧ w.events = u.events ∧ w.fabric = u.fabric ∧
              getPart w h.part = some { a with opSeq := (a.opSeq + 1) % 16 } ∧
              v = replySyncTo p.node p.domain h.tag 0 0 0 0 (BitVec.setWidth 64 n) w))) ∧
        (crestOwner s arrival ≠ some h.part ∨ crestOwner s release ≠ some h.part →
          Delivers (.barrier p h arrival release v) s (fun u v =>
            ∃ e : EvReq, e.code = 0x182 ∧ e.domain = p.domain ∧ v = replySync p h 2 3 0 0 0 (raise e u)))) ∧
      (∀ ctr (n : BitVec 32), (∀ o ∈ a.hostOps, o.kind ≠ 0 ∧ o.kind ≠ 1) → crestOwner s ctr = some h.part → a.frozen = false →
        (∀ w ∈ s.crest.watches, w.key ≠ .crest ctr) →
        let r := getCtr s (.crest ctr)
        n.toNat = 0 ∨ ctrDiff r + n.toNat ≤ r.bound.toNat →
        Delivers (.broadcast p h ctr n) s (fun u v => ∃ w,
          OnlyCtr (.crest ctr) { r with p := r.p + BitVec.ofNat 48 n.toNat } u w ∧ w.events = u.events ∧ w.fabric = u.fabric ∧
          getPart w h.part = some { a with opSeq := (a.opSeq + 1) % 16 } ∧ v = replySync p h 0 0 0 0 0 w)) ∧
      (∀ addr, (∀ o ∈ a.hostOps, o.kind ≠ 2) →
        (addr % 256 = 0 → addr + 128 + 16 * (crestIndexes s h.part a).length ≤ 2097152 →
          Delivers (.snapshot p h addr) s (fun u v =>
            (getHostOp v h.part 2) = some { kind := 2, node := p.node, tag := h.tag, addr := addr, seq := a.opSeq } ∧
            (∀ k ∈ partSites s a, siteHolder s k = some h.part →
              ((getTile v k).arrivedAt = true ↔ (getTile s k).opsOut = 0) ∧
              ((getTile s k).opsOut = 0 → ⟨⟨⟨siteX k, siteY k, 3⟩, ⟨ringXY, ringXY, 0⟩, 0, a.domain, 0⟩, true, 6,
                crestBody 1 a.opSeq 0⟩ ∈ v.mesh.flight)) ∧
            v.events = u.events)) ∧
        (addr % 256 ≠ 0 ∨ 2097152 < addr + 128 + 16 * (crestIndexes s h.part a).length →
          Delivers (.snapshot p h addr) s (fun u v => v = replySync p h 2 0 0 0 0 u)))) ∧
    (∀ (p : Pkt) (h : Hdr), Arrives p s →
      (syncPart s p h = none ∨ ((syncPart s p h).bind Part.job) = none →
        (∀ arrival release v, Delivers (.barrier p h arrival release v) s (fun u v => v = replySync p h 2 0 0 0 0 u)) ∧
        (∀ ctr n, Delivers (.broadcast p h ctr n) s (fun u v => v = replySync p h 2 0 0 0 0 u)) ∧
        (∀ addr, Delivers (.snapshot p h addr) s (fun u v => v = replySync p h 2 0 0 0 0 u))) ∧
      (∀ a x y w0 w1 w2 w3, syncPart s p h = some a →
        (x < 288 → y < 280 → siteWorks s (siteKey x y) = true → siteHolder s (siteKey x y) = some h.part →
          Delivers (.descriptorPost p h x y w0 w1 w2 w3) s (fun u v =>
            v = replySync p h 0 0 0 0 0 (postDesc (siteKey x y) (readDesc w0 w1 w2 w3) u))) ∧
        (288 ≤ x ∨ 280 ≤ y ∨ siteWorks s (siteKey x y) = false ∨ siteHolder s (siteKey x y) ≠ some h.part →
          Delivers (.descriptorPost p h x y w0 w1 w2 w3) s (fun u v =>
            ∃ e : EvReq, e.code = 0x182 ∧ e.domain = p.domain ∧ v = replySync p h 2 3 0 0 0 (raise e u)))) ∧
      (∀ w2 w3 w4 origin q a, p.node < 12288 → w2.toNat / 2 ^ 28 = 1 → partOfDomain s p.domain = some q → getPart s q = some a →
        (∀ o ∈ a.hostOps, o.seq ≠ w2.toNat / 2 ^ 24 % 16) →
        Delivers (.crestRelay p w2 w3 w4 origin) s (fun _ v => ∃ b, getPart v q = some b ∧
          b.early = a.early ++ [(w2.toNat / 2 ^ 24 % 16, p.node, BitVec.ofNat 64 (w4.toNat * 2 ^ 32 + w3.toNat))] ∧
          b.hostOps = a.hostOps)) ∧
      (∀ w2 w3 w4 origin q, p.node < 12288 → w2.toNat / 2 ^ 28 = 2 → partOfDomain s p.domain = some q →
        Delivers (.crestRelay p w2 w3 w4 origin) s (fun u v =>
          v = relayedRelease q (w2.toNat / 2 ^ 24 % 16) (BitVec.ofNat 64 (w4.toNat * 2 ^ 32 + w3.toNat)) u)) ∧
      (∀ w2 w3 w4 origin, p.node < 12288 → w2.toNat / 2 ^ 28 = 6 →
        Delivers (.crestRelay p w2 w3 w4 origin) s (fun u v => v = abortGroup w3 p.domain u)) ∧
      (∀ w2 w3 w4 origin, p.node < 12288 → w2.toNat / 2 ^ 28 ∉ [1, 2, 6] →
        Delivers (.crestRelay p w2 w3 w4 origin) s (fun u v => ∃ e : EvReq, e.code = 0x115 ∧ e.domain = p.domain ∧ v = raise e u)) ∧
      (∀ w2 w3 w4 origin, 12288 ≤ p.node →
        Delivers (.crestRelay p w2 w3 w4 origin) s (fun u v =>
          v = fabricRefused p.node p.domain (BitVec.ofNat 16 (w3.toNat / 2 ^ 16)) u))) ∧
    (∀ (h : Head) seq, h.dst.x ≠ ringXY → delivers s h = false → ∀ i,
      (∃ value, i = .crestArrive h seq value ∨ i = .crestRelease h seq value) ∨ i = .crestCollected h seq ∨ (∃ g, i = .crestAbort h g) →
      Completes i s (fun t => t.tiles = s.tiles ∧ t.parts = s.parts ∧ Raised (refuseEvent (crossed h true 6 s) h) s t)) ∧
    (∀ (h : Head) seq, h.dst.x = ringXY ∨ delivers s h = true →
      (∀ i, (∃ value, i = .crestArrive h seq value) ∨ i = .crestCollected h seq →
        (fromTile h = true → Completes i s (fun t => t = tileAnswered h seq (crossed h true 6 s))) ∧
        (fromTile h = false → Completes i s (fun t => t.tiles = s.tiles ∧ t.parts = s.parts ∧
          Raised { evCell s 0x115 1 h.src 0 with domain := h.domain } s t)) ∧
        (∀ q a o, fromTile h = true → siteHolder s (siteKey h.src.x h.src.y) = some q → getPart s q = some a →
          getHostOp s q 2 = some o → o.seq = seq → (∃ k ∈ partSites s a, k ≠ siteKey h.src.x h.src.y ∧ (getTile s k).arrivedAt = false) →
          Completes i s (fun t => (getTile t (siteKey h.src.x h.src.y)).arrivedAt = true ∧ t.parts = s.parts))) ∧
      (∀ value, srcIsTile h = true ∨ dstIsTile h = false → Completes (.crestRelease h seq value) s (fun t =>
        t.tiles = s.tiles ∧ t.parts = s.parts ∧ Raised { evCell s 0x115 1 h.src 0 with domain := h.domain } s t)) ∧
      (∀ group, srcIsTile h = false → Completes (.crestAbort h group) s (fun t => t = abortGroup group h.domain (crossed h true 6 s))) ∧
      (∀ group, srcIsTile h = true → Completes (.crestAbort h group) s (fun t => t.parts = s.parts ∧
        Raised { evCell s 0x115 1 h.src 0 with domain := h.domain } s t))) ∧
    (∀ (h : Head) seq value, delivers s h = true → srcIsTile h = false →
      let k := dstSite h
      (∀ q a o, siteHolder s k = some q → getPart s q = some a → getHostOp s q 2 = some o → o.phase = 2 → o.seq = seq →
        let bytes := snapBytes ((List.range 8).map (fun i => getCtr s (.tile k i)))
        Completes (.crestRelease h seq value) s (fun t =>
          t.mem = (writeBytes (memKey k 0 0 o.addr) bytes s).mem ∧ OnlyBytes (memKey k 0 0 o.addr) 128 s t ∧
          ⟨⟨cellAt k 3, ⟨ringXY, ringXY, 0⟩, 0, a.domain, 0⟩, true, 6, crestBody 5 o.seq 0⟩ ∈ t.mesh.flight ∧ t.tiles = s.tiles)) ∧
      ((∀ q o, siteHolder s k = some q → getHostOp s q 2 = some o → o.phase ≠ 2 ∨ o.seq ≠ seq) →
        Completes (.crestRelease h seq value) s (fun t => t.mem = s.mem ∧ t.parts = s.parts ∧ t.tiles = s.tiles)))

/-- A port that reads a bad packet sends one NAK, with the number of its last good one, and nothing else changes
(R264). -/
def Nak (port : Nat) (s t : State) : Prop :=
  getPort t port = { getPort s port with nakSent := true } ∧ t.events = s.events ∧
  t.fabric.blocks = s.fabric.blocks ++
    [{ port := port, nak := true, ack := (getPort s port).rxSeq, off := (getPort s port).ownOff, echo := now s / 10 }]

/-- Every `pmdTrainingComplete`, `discovery`, `retrainInterval`, `linkStatusBlock`, `linkStatusSend`, `replayTimeout`,
`reservedUnit`, `transitPacket` and `escapeTimeout` completes. A trained port begins discovery and sends its own; another
is down and trains again. In discovery the peer's node, port and delay are learnt; the port comes up with event 0x201
where the wiring and the cable class allow it, and is refused with 0x202 or 0x203 where not. A status block releases what
the peer has acknowledged and takes its off bits; a replay sends again all that is not, and the eighth failed one within
10 µs takes the link down with event 0x200. A packet out of its hop sequence, or one that does not check, is dropped with
one NAK. A unit of a reserved class is discarded with event 0x204, and a command with a reserved opcode is answered as its
kind is refused. A transit packet goes on as it came with one hop more, by the escape route on an escape channel, and is
discarded with event 0x204 at hop count 8. A packet that waited too long changes to the escape channel of its class. -/
def Obligations.LinksTrainReplayAndRoute : Prop :=
  ∀ (port : Nat) (s : State),
    let p := getPort s port
    let settled := s.pilot.step = 0 ∨ s.pilot.step = 8 ∨ 12 ≤ s.pilot.step
    (p.st = .training → settled →
      (nodeId s ≠ 0xFFFF → Completes (.pmdTrainingComplete port true) s (fun t =>
        getPort t port = { p with st := .discovery } ∧
        ∃ w, t.fabric.wire = s.fabric.wire ++ [(port, w)] ∧ w.pkt.opcode = 0x65 ∧ w.pkt.dst = 0x3FFF ∧ w.hops = 1 ∧ w.vc = 0 ∧
          w.pkt.data.take 6 = leBytes 2 (nodeId s) ++ [BitVec.ofNat 8 port, BitVec.ofNat 8 s.fabric.groupSize] ++
            leBytes 2 s.fabric.groupCount)) ∧
      (nodeId s = 0xFFFF → Completes (.pmdTrainingComplete port true) s (fun t =>
        getPort t port = { p with st := .discovery, trainedOnce := true })) ∧
      Completes (.pmdTrainingComplete port false) s (fun t => getPort t port = { p with st := .down, trainedOnce := true })) ∧
    (p.st ≠ .training → ∀ b, Completes (.pmdTrainingComplete port b) s (fun t => t = s)) ∧
    (∀ d : Discovery, p.st = .discovery → settled → nodeId s ≠ 0xFFFF → hasSendKey s (mgmtDomain s) = true →
      let cls := setting s 0x2612 (port + 1)
      let peer : Word32 := BitVec.ofNat 32 ((if d.host || d.node ≥ 12288 then 2 ^ 31 else 0) + d.node % 16384 * 65536 + d.port % 64)
      let met := { p with delay := d.delay, peer := peer, trainedOnce := true }
      let far := d.delay > classDelay cls ∨ (cls = 2 ∧ port < 31)
      (peerAllowed s port d = false → Completes (.discovery port d) s (fun t =>
        getPort t port = { met with st := .refused } ∧ Raised (evPort 0x202 2 port 0) s t)) ∧
      (peerAllowed s port d = true → far → Completes (.discovery port d) s (fun t =>
        getPort t port = { met with st := .refused } ∧ Raised (evPort 0x203 2 port d.delay) s t)) ∧
      (peerAllowed s port d = true → ¬far → Completes (.discovery port d) s (fun t =>
        getPort t port = { met with st := .up } ∧ ∃ l, t.events.pending = (raise (evPort 0x201 0 port 0) s).events.pending ++ l))) ∧
    (∀ d : Discovery, p.st = .discovery → nodeId s = 0xFFFF → Completes (.discovery port d) s (fun t =>
      (getPort t port).st = .discovery ∧ (getPort t port).delay = d.delay ∧ t.events = s.events)) ∧
    (∀ d : Discovery, p.st = .up → Completes (.discovery port d) s (fun t => t = fabricRefused d.node (mgmtDomain s) 0 s)) ∧
    (∀ d : Discovery, p.st ≠ .up → p.st ≠ .discovery → Completes (.discovery port d) s (fun t => t = s)) ∧
    (p.st = .down → setting s 0x2610 (port + 1) = 1 → 11 ≤ s.pilot.step →
      Completes (.retrainInterval port) s (fun t => getPort t port = { p with st := .training })) ∧
    (p.st ≠ .down ∨ setting s 0x2610 (port + 1) ≠ 1 ∨ s.pilot.step < 11 →
      Completes (.retrainInterval port) s (fun t => t = s)) ∧
    (∀ ack off, p.st = .up →
      let rest := afterAck ack p.replay
      let q := { p with
        replay := rest
        peerOff := off
        replayTo := p.replayTo.bind (fun q => if rest.any (fun w => w.hopSeq == q) then some q else none) }
      Completes (.linkStatusBlock port false ack off) s (fun t =>
        t = refreshOff (drainPort port (modPort port (fun _ => q) s)) ∧
        (p.queue = [] → (getPort t port).replay = rest ∧ (getPort t port).peerOff = off ∧ (getPort t port).queue = [])) ∧
      Completes (.linkStatusBlock port true ack off) s (fun t =>
        t = refreshOff (drainPort port (replayPort port (modPort port (fun _ => q) s))))) ∧
    (p.st ≠ .up → ∀ nak ack off, Completes (.linkStatusBlock port nak ack off) s (fun t => t = s)) ∧
    (p.st = .up → Completes (.linkStatusSend port) s (fun t =>
      t.fabric = { s.fabric with
        blocks := s.fabric.blocks ++ [{ port := port, nak := false, ack := p.rxSeq, off := p.ownOff, echo := now s / 10 }] })) ∧
    (p.st ≠ .up → Completes (.linkStatusSend port) s (fun t => t = s)) ∧
    (∀ front z, p.st = .up → p.replay = front ++ [z] →
      let failed := ∃ q, p.replayTo = some q ∧ ∃ w ∈ p.replay, w.hopSeq = q
      let recent := (p.fails ++ [now s]).filter (fun t => now s ≤ t + 10 * usT)
      (¬failed → p.fails.length < 8 → Completes (.replayTimeout port) s (fun t =>
        t.fabric.wire = s.fabric.wire ++ p.replay.map (fun w => (port, w)) ∧ t.events = s.events ∧
        getPort t port = { p with replays := sat32 (p.replays + 1), replayTo := some z.hopSeq })) ∧
      (failed → recent.length < 8 → Completes (.replayTimeout port) s (fun t =>
        t.fabric.wire = s.fabric.wire ++ p.replay.map (fun w => (port, w)) ∧ t.events = s.events ∧
        getPort t port = { p with fails := recent, replays := sat32 (p.replays + 1), replayTo := some z.hopSeq })) ∧
      (failed → 8 ≤ recent.length → Completes (.replayTimeout port) s (fun t =>
        (getPort t port).st = .down ∧ (getPort t port).downs = p.downs + 1 ∧ (getPort t port).replay = [] ∧
        ∃ l, t.events.pending = (raise (evPort 0x200 1 port 0) s).events.pending ++ l))) ∧
    (p.st ≠ .up ∨ p.replay = [] → Completes (.replayTimeout port) s (fun t => t = s)) ∧
    (∀ i hop good,
      (∃ c, i = .reservedUnit (.unit port hop good) ∧ c = 0) ∨
        (∃ (q : Pkt) (h : Hdr) (op : Nat), i = .reservedUnit (.command q h op) ∧ q.port = port ∧ q.hop = hop ∧ q.good = good ∧
          (op = 0 ∨ 0x70 ≤ op)) →
      (p.st = .up → good = true → hop = p.rxSeq + 1 → Completes i s (fun t =>
        getPort t port = { p with rxSeq := p.rxSeq + 1, nakSent := false } ∧ Raised (evPort 0x204 1 port 0) s t)) ∧
      (p.st = .up → good = false ∨ hop ≠ p.rxSeq + 1 → p.nakSent = false → Completes i s (fun t => Nak port s t)) ∧
      (p.st = .up → good = false ∨ hop ≠ p.rxSeq + 1 → p.nakSent = true → Completes i s (fun t => t = s)) ∧
      (p.st ≠ .up → Completes i s (fun t => t = s))) ∧
    (∀ (q : Pkt) (h : Hdr) op, Arrives q s → 0 < op → op < 0x70 →
      let i : Instr := .reservedUnit (.command q h op)
      let turned := ¬(q.node < 12288 ∧ deviceOnly op = true)
      (¬turned → Delivers i s (fun u v => v = u)) ∧
      (turned → op < 0x20 → Delivers i s (fun u v =>
        v = answerMem 2 q.node q.domain h.tag 4 0 0 [] (memFails 4 q.node q.domain none u))) ∧
      (turned → 0x20 ≤ op → op < 0x40 → Delivers i s (fun u v => v = replyRun q h 2 0 0 u)) ∧
      (turned → 0x40 ≤ op → op < 0x50 → Delivers i s (fun u v => v = replySync q h 2 0 0 0 0 u)) ∧
      (turned → 0x50 ≤ op → op < 0x60 → Delivers i s (fun u v => v = mgmtReply q h 2 0 0 0 0 0 [] u)) ∧
      (turned → 0x60 ≤ op → Delivers i s (fun u v => v = fabricRefused q.node q.domain h.tag u))) ∧
    (∀ x : TransitPkt, x.dst ≠ nodeId s →
      let w := passPacket port x
      let u := received port houseAccount w.size s
      let out := if x.vc ≥ 2 then escapePort u x.dst else transitPort u x.src x.seq.toNat x.dst x.nonMin
      (p.st = .up → x.good = true → x.hop = p.rxSeq + 1 →
        (8 ≤ x.hops → Completes (.transitPacket port x.dst x.src x.domain x.seq x.vc x.hops x.nonMin x.toTransitRest) s (fun t =>
          t = raise (evPort 0x204 1 port x.hops) u ∧ ∀ i, (getPort t i).queue = (getPort s i).queue)) ∧
        (∀ i, x.hops < 8 → out = some i → Completes (.transitPacket port x.dst x.src x.domain x.seq x.vc x.hops x.nonMin x.toTransitRest) s (fun t =>
          (∃ v ∈ (getPort t i).queue ++ (getPort t i).replay, v.pkt = w.pkt ∧ v.src = x.src ∧ v.slot = x.slot ∧ v.seq = x.seq ∧
            v.vc = x.vc ∧ v.hops = x.hops + 1 ∧ v.nonMin = x.nonMin ∧ v.len = x.len ∧ v.body = x.body) ∧ t.events = s.events)) ∧
        (x.hops < 8 → out = none → Completes (.transitPacket port x.dst x.src x.domain x.seq x.vc x.hops x.nonMin x.toTransitRest) s (fun t => t = u))) ∧
      (p.st = .up → x.good = false ∨ x.hop ≠ p.rxSeq + 1 → p.nakSent = false →
        Completes (.transitPacket port x.dst x.src x.domain x.seq x.vc x.hops x.nonMin x.toTransitRest) s (fun t => Nak port s t)) ∧
      (p.st ≠ .up ∨ ((x.good = false ∨ x.hop ≠ p.rxSeq + 1) ∧ p.nakSent = true) →
        Completes (.transitPacket port x.dst x.src x.domain x.seq x.vc x.hops x.nonMin x.toTransitRest) s (fun t => t = s))) ∧
    (∀ x : TransitPkt, x.dst = nodeId s → Completes (.transitPacket port x.dst x.src x.domain x.seq x.vc x.hops x.nonMin x.toTransitRest) s (fun t => t = s)) ∧
    (∀ hopSeq,
      let n := (hopSeq - p.txSeq).toNat
      (∀ w i, p.queue[n]? = some w → w.vc < 2 → escapePort s w.pkt.dst = some i →
        Completes (.escapeTimeout port hopSeq) s (fun t =>
          (getPort t port).escapes = sat32 (p.escapes + 1) ∧ t.events = s.events ∧
          (∃ v ∈ (getPort t i).queue ++ (getPort t i).replay, v.pkt = w.pkt ∧ v.vc = w.vc + 2 ∧ v.hops = w.hops ∧ v.seq = w.seq))) ∧
      (p.queue[n]? = none → Completes (.escapeTimeout port hopSeq) s (fun t => t = s)) ∧
      (∀ w, p.queue[n]? = some w → 2 ≤ w.vc ∨ escapePort s w.pkt.dst = none →
        Completes (.escapeTimeout port hopSeq) s (fun t => t = s)))

/-- Every `packetSend`, `e2eAck`, `skipQuery`, `skipAnswer`, `retransmitTimeout`, `linkState`, `portQuery`, `portControl`
and `echoCmd` completes. The oldest waiting packet leaves as its flow's next number, sealed with its domain's key, taking
a credit and a record, when a credit, a key, a path and a record are there; without a key it is refused at its source with
event 0x207. An acknowledgement returns the credit and counts one report. A retransmission sends the kept copy again, and
after the limit a SKIP. A SKIP is answered delivered or refused for a number passed on, and else closed, and the number
stays closed; without a key the answer is "no key". An answer resolves only a packet that waits for one, closed and no key
with event 0x208. A packet whose tag does not verify is dropped with event 0x205, and one out of its hop sequence with one
NAK. A member's notice enters the group table; a query, control or echo is answered. -/
def Obligations.FlowsAreSequencedAndResolved : Prop :=
  ∀ s : State,
    (∀ dst domain q rest, (getTx s dst domain).waiting = q :: rest →
      let f := getTx s dst domain
      (∀ slot gen i nm, sendSlot s domain = some (slot, gen) → 0 < f.credits → (getSlots s domain).draining = false → f.next < seqLimit →
        choosePath s (nodeId s) f.next dst = some (i, nm) → (getPort s i).outstanding < 4096 →
        let size := wireBytes q.data.length
        let w := sealPkt (slotKey s domain slot) f.next false
          { pkt := q, src := nodeId s, slot := slot, gen := gen, seq := BitVec.ofNat 16 f.next, vc := if size = 64 then 0 else 1, hops := 1
            nonMin := nm, size := size, len := q.data.length }
        Completes (.packetSend dst domain) s (fun t =>
          getTx t dst domain = { f with
            next := f.next + 1, credits := f.credits - 1, waiting := rest
            out := f.out ++ [{ seq := f.next, wire := w, port := i, last := i }] } ∧
          (getPort t i).outstanding = (getPort s i).outstanding + 1 ∧
          (∃ v ∈ (getPort t i).queue ++ (getPort t i).replay, { v with hopSeq := 0, heldAt := none } = w) ∧ t.events = s.events)) ∧
      (∀ slot gen, sendSlot s domain = some (slot, gen) →
        f.credits = 0 ∨ (getSlots s domain).draining = true ∨
          (f.next < seqLimit ∧ choosePath s (nodeId s) f.next dst = none) ∨ (seqLimit ≤ f.next ∧ f.exhaustedNoted = true) →
        Completes (.packetSend dst domain) s (fun t => t = s)) ∧
      (∀ slot gen i nm, sendSlot s domain = some (slot, gen) → f.next < seqLimit → choosePath s (nodeId s) f.next dst = some (i, nm) →
        4096 ≤ (getPort s i).outstanding → Completes (.packetSend dst domain) s (fun t => t = s)) ∧
      (∀ slot gen, sendSlot s domain = some (slot, gen) → 0 < f.credits → (getSlots s domain).draining = false → seqLimit ≤ f.next →
        f.exhaustedNoted = false → Completes (.packetSend dst domain) s (fun t =>
          getTx t dst domain = { f with exhaustedNoted := true } ∧ Raised (evPortPkt s 0x209 1 0xFF domain dst f.next) s t)) ∧
      (sendSlot s domain = none → q.part = none → q.opcode = 0 ∨ 6 < q.opcode → Completes (.packetSend dst domain) s (fun t =>
        getTx t dst domain = { f with waiting := rest } ∧ t.fabric.refusedAtSource = s.fabric.refusedAtSource + 1 ∧
        t.fabric.failedPkts = s.fabric.failedPkts + 1 ∧
        ∃ e : EvReq, e.code = 0x207 ∧ e.domain = q.domain ∧ e.node = q.dst ∧ Raised e s t))) ∧
    (∀ dst domain, (getTx s dst domain).waiting = [] → Completes (.packetSend dst domain) s (fun t => t = s)) ∧
    (∀ (p : Pkt) i, (∃ base d r, i = .e2eAck p base d r) ∨ (∃ seq, i = .skipQuery p seq) ∨ (∃ seq st c, i = .skipAnswer p seq st c) →
      (portUp s p.port = false → Completes i s (fun t => t = s)) ∧
      (portUp s p.port = true → hopGood s p.port p.hop p.good = false → (getPort s p.port).nakSent = false →
        Completes i s (fun t => Nak p.port s t))) ∧
    (∀ (p : Pkt), portUp s p.port = true → hopGood s p.port p.hop p.good = true →
      let ok := authentic s p (amGet s.fabric.ctl (flowKey p.node p.domain) {}).accepted
      let u := received p.port (domainAccount s p.domain) 64 s
      let v := noteControl p u
      let f := getTx s p.node p.domain
      (ok = false →
        let bad := fun (t : State) => t.fabric.tx = s.fabric.tx ∧ t.fabric.rx = s.fabric.rx ∧
          Raised (evPortPkt s 0x205 1 p.port p.domain p.node 0) s t
        (∀ base d r, Completes (.e2eAck p base d r) s bad) ∧ (∀ seq, hasKey s p.domain = true → Completes (.skipQuery p seq) s bad) ∧
        (∀ seq status clear, clear = false ∨ status ≠ 3 → Completes (.skipAnswer p seq status clear) s bad)) ∧
      (ok = true → (getSlots s p.domain).draining = false →
        (∀ (base : BitVec 16) o, outstandingAt s p.node p.domain base = some o → o.wire.pkt.part = none →
          Completes (.e2eAck p base 1 0) s (fun t =>
            getTx t p.node p.domain = { f with
              out := f.out.eraseP (fun x => x.seq == o.seq), credits := f.credits + 1, delivered := f.delivered + 1 } ∧
            (getPort t o.port).outstanding = (getPort s o.port).outstanding - 1 ∧ t.fabric.failedPkts = s.fabric.failedPkts) ∧
          (o.wire.pkt.opcode = 0 ∨ 6 < o.wire.pkt.opcode → Completes (.e2eAck p base 0 1) s (fun t =>
            getTx t p.node p.domain = { f with
              out := f.out.eraseP (fun x => x.seq == o.seq), credits := f.credits + 1, refused := f.refused + 1 }))) ∧
        (∀ (base : BitVec 16) (d r : BitVec 32), p.node < 12288 → (∀ i < 32, outstandingAt s p.node p.domain (base + BitVec.ofNat 16 i) = none) →
          Completes (.e2eAck p base d r) s (fun t => t = v)) ∧
        (∀ (base : BitVec 16) (d r : BitVec 32), 12288 ≤ p.node →
          (∀ i < 32, outstandingAt s p.node p.domain (base + BitVec.ofNat 16 i) = none) →
          Completes (.e2eAck p base d r) s (fun t => t = fabricRefused p.node p.domain (r.setWidth 16) v))) ∧
      (∀ seq, hasKey s p.domain = false → Completes (.skipQuery p seq) s (fun t =>
        t = sendUnseq p.node p.domain 0x62 (leBytes 2 seq.toNat ++ [3] ++ List.replicate 29 0) (0, 0) (received p.port houseAccount 64 s) ∧
        t.fabric.rx = s.fabric.rx)) ∧
      (∀ seq, hasKey s p.domain = true → ok = true → (getRx s p.node p.domain).gen ≤ p.gen →
        let rx := rxFor p s
        let n := extendSeq rx.next seq
        (n < rx.next → n ∉ rx.closed → Completes (.skipQuery p seq) s (fun t =>
          t = answerSkip p seq (if n ∈ rx.refusedSeqs then 2 else 0) (restartRx p v))) ∧
        (n ∈ rx.closed → Completes (.skipQuery p seq) s (fun t => t = answerSkip p seq 1 (restartRx p v))) ∧
        (rx.next ≤ n → n ∉ rx.closed → Completes (.skipQuery p seq) s (fun t =>
          t = skipped p seq v ∧ n ∈ (getRx t p.node p.domain).closed ∧ n ∉ (getRx t p.node p.domain).passed.drop rx.passed.length))) ∧
      (∀ seq, hasKey s p.domain = true → ok = true → p.gen < (getRx s p.node p.domain).gen →
        Completes (.skipQuery p seq) s (fun t => t = v)) ∧
      (∀ seq status, ok = true →
        (∀ o, outstandingAt s p.node p.domain seq = some o → o.skipping = true → o.wire.pkt.part = none →
          o.wire.pkt.opcode = 0 ∨ 6 < o.wire.pkt.opcode → (getSlots s p.domain).draining = false →
          (status = 0 → Completes (.skipAnswer p seq status false) s (fun t =>
            getTx t p.node p.domain = { f with
              out := f.out.eraseP (fun x => x.seq == o.seq), credits := f.credits + 1, delivered := f.delivered + 1 } ∧ t.events = s.events)) ∧
          (status = 2 → Completes (.skipAnswer p seq status false) s (fun t =>
            getTx t p.node p.domain = { f with
              out := f.out.eraseP (fun x => x.seq == o.seq), credits := f.credits + 1, refused := f.refused + 1 } ∧ t.events = s.events)) ∧
          (status = 1 ∨ status = 3 → Completes (.skipAnswer p seq status false) s (fun t =>
            getTx t p.node p.domain = { f with
              out := f.out.eraseP (fun x => x.seq == o.seq), credits := f.credits + 1, failed := f.failed + 1 } ∧
            t.fabric.failedPkts = s.fabric.failedPkts + 1 ∧ Raised (evPortPkt s 0x208 1 o.port p.domain p.node status) s t))) ∧
        (∀ o, outstandingAt s p.node p.domain seq = some o → o.skipping = false →
          Completes (.skipAnswer p seq status false) s (fun t => t = v))) ∧
      (∀ seq, Completes (.skipAnswer p seq 3 true) s (fun t => t = skipResolved p seq 3 (received p.port houseAccount 64 s)))) ∧
    (∀ dst domain seq,
      let f := getTx s dst domain
      let mark := fun (g : Outst → Outst) =>
        modTx dst domain (fun (f : FlowTx) => { f with out := f.out.map (fun x => if x.seq = seq then g x else x) }) s
      (∀ o, f.out.find? (fun o => o.seq == seq) = some o → o.skipping = false → o.tries < setting s 0x2600 6 →
        Completes (.retransmitTimeout dst domain seq) s (fun t =>
          t = resend o (mark (fun x => { x with tries := x.tries + 1 })) ∧ t.events = s.events ∧
          (getTx t dst domain).out.map (fun x => (x.seq, x.tries)) =
            f.out.map (fun x => (x.seq, if x.seq = seq then x.tries + 1 else x.tries)))) ∧
      (∀ o, f.out.find? (fun o => o.seq == seq) = some o → o.skipping = true ∨ setting s 0x2600 6 ≤ o.tries →
        Completes (.retransmitTimeout dst domain seq) s (fun t =>
          t = sendSkip dst domain o (mark (fun x => { x with skipping := true })) ∧
          getTx t dst domain = { f with out := f.out.map (fun x => if x.seq = seq then { x with skipping := true } else x) })) ∧
      (f.out.find? (fun o => o.seq == seq) = none → Completes (.retransmitTimeout dst domain seq) s (fun t => t = s))) ∧
    (∀ (p : Pkt) (h : Hdr), Arrives p s →
      (∀ port state peerNode peerPort,
        (p.node < 12288 → groupOf p.node = groupOf (nodeId s) → p.node ≠ nodeId s →
          Delivers (.linkState p port state peerNode peerPort) s (fun _ v =>
            amFind v.fabric.linkNotices (p.node % 32 * 64 + port) = some (state, peerNode) ∧
            ∀ k, k ≠ p.node % 32 * 64 + port → amFind v.fabric.linkNotices k = amFind s.fabric.linkNotices k)) ∧
        (12288 ≤ p.node → Delivers (.linkState p port state peerNode peerPort) s (fun u v => v = fabricRefused p.node p.domain 0 u))) ∧
      (∀ port, port ≤ 63 → Delivers (.portQuery p h port) s (fun u v =>
        v = fabricReply p.node p.domain h.tag 0 (portFigures s p.domain port) u)) ∧
      (∀ port, 63 < port → Delivers (.portQuery p h port) s (fun u v => v = fabricRefused p.node p.domain h.tag u)) ∧
      (∀ port action permit, Delivers (.portControl p h port action permit) s (fun u v =>
        let c := checkPermit (some (0x2619, port + 1, action)) permit u
        (c.1 = 0 → v = fabricReply p.node p.domain h.tag 0 (portFigures c.2 p.domain port) c.2) ∧
        (c.1 ≠ 0 → v = fabricRefused p.node p.domain h.tag c.2))) ∧
      (∀ data, Delivers (.echoCmd p h data) s (fun u v =>
        v = fabricReply p.node p.domain h.tag 0 (slice data 0 24 ++ List.replicate 4 0) u)))

/-- The operation codes, flags and data of the five memory commands of one region (R282, R292). -/
def MemoryCommand (p : Pkt) (m : MemCmd) (i : Instr) (op : Nat) (data : List Byte) : Prop :=
  (i = .memLoad p m ∧ op = 1 ∧ data = []) ∨ (i = .memStore p m data ∧ op = 2) ∨ (i = .atomicAdd p m ∧ op = 3 ∧ data = []) ∨
  (i = .atomicMax p m ∧ op = 4 ∧ data = []) ∨ (i = .atomicCas p m ∧ op = 5 ∧ data = [])

/-- The operation that the ring switch makes of a memory command of this wafer's own memory (R278, R289, R292). -/
def ringOp (s : State) (p : Pkt) (m : MemCmd) (op : Nat) (data : List Byte) : RingOp :=
  { op := op, issuer := .host p.node p.domain m.tag p.port, domain := p.domain, remote := p.node != nodeId s, cache := p.port
    pieces := piecesOf (gAddr m.addr) 0 m.len, data := data, v := m.v, s := m.s, size := m.size, ty := m.ty, reqNode := p.node
    len := m.len }

/-- The refusal that the cached entries of an operation's positions give, with its position (R281). -/
def entriesRefuse (s : State) (op : RingOp) : Option (Nat × Nat) :=
  (opPositions op).findSome? (fun p => ((cached s op.cache p).bind (fun e => entryRefuses s op e.entry)).map (fun st => (st, p)))

/-- Every `memLoad`, `memStore`, `atomicAdd`, `atomicMax`, `atomicCas`, `bulkCopy`, `translationFill`, `ageTick` and
`invalidationComplete` completes. A malformed command, an atomic whose length is not its operand's among them, is refused
as a whole with status 4, one of another domain with status 1; neither reads or writes anything. A command for this wafer
takes the next request number; positions that its cache does not hold are counted as misses and wait; with all of them
cached it is refused by the first entry that forbids it, with its event, or every part goes to its home. One for another
node is passed on to it. A fill answers what waits for it, unless it is of an older generation. An age tick invalidates
the entries of age 3 and ages the others, but one hit in the same cycle has age 0. A completed invalidation leaves no
entry of the positions that changed. Stores with compressed data or a counter, and the steps of a bulk copy, are stated
only by their start. -/
def Obligations.MemoryCommandsAreCheckedAndTranslated : Prop :=
  ∀ s : State,
    (∀ p m i op data, MemoryCommand p m i op data → Arrives p s →
      let g := gAddr m.addr
      let bad := malformed s op g m.len m.size m.ty p.domain (op = 2 && m.compressed)
      let o := ringOp s p m op data
      let id := s.fabric.nextReq
      let told := fun (status : Nat) (pos : Option Nat) (u v : State) =>
        ∃ w, v = answerMem op p.node p.domain m.tag status 0 0 [] w ∧ w.mem = u.mem ∧ w.mesh = u.mesh ∧ w.tiles = u.tiles ∧
          Raised (memEvent s status p.node p.domain pos) u w
      let plain := op = 2 → data.length = m.len ∧ m.compressed = false ∧ m.ctrEnable = false
      (bad = true → Delivers i s (fun u v => told 4 (if g.good then some g.pos else none) u v ∧ v.fabric.ops = u.fabric.ops)) ∧
      (bad = false → op = 2 → data.length ≠ m.len → m.compressed = false → Delivers i s (fun u v => told 4 (some g.pos) u v)) ∧
      (bad = false → plain → g.domain ≠ p.domain →
        Delivers i s (fun u v => told 1 (some g.pos) u v ∧ v.fabric.ops = u.fabric.ops)) ∧
      (bad = false → plain → g.domain = p.domain → g.node = nodeId s →
        let missing := (opPositions o).filter (fun q => (cached s p.port q).isNone)
        (missing ≠ [] → Delivers i s (fun u v =>
          amFind v.fabric.ops id = some o ∧ v.fabric.nextReq = (id + 1) % 67108864 ∧ v.mesh = u.mesh ∧ v.mem = u.mem ∧
          amGet v.fabric.misses p.port 0 = amGet s.fabric.misses p.port 0 + missing.length)) ∧
        (∀ st pos, missing = [] → entriesRefuse s o = some (st, pos) → Delivers i s (fun u v =>
          told st (some pos) u v ∧ amFind v.fabric.ops id = none)) ∧
        (missing = [] → entriesRefuse s o = none → Delivers i s (fun u v =>
          amFind v.fabric.ops id = some { o with pieces := o.pieces.map (fun q => { q with sent := true }) } ∧
          v.fabric.nextReq = (id + 1) % 67108864 ∧ v.mem = u.mem ∧ v.events = u.events ∧
          ∀ n q e, o.pieces[n]? = some q → cached s p.port q.pos = some e →
            ⟨⟨ringCell, ⟨bitsOf e.entry.toNat 49 41, bitsOf e.entry.toNat 40 32, 3⟩, 4, p.domain, BitVec.ofNat 16 (id * 64 + n)⟩,
              false, 3, memReqBytes op (memFlags m.size m.ty false) (reqLen o q) q.space q.offset (id * 64 + n) (pieceData o q)⟩
              ∈ v.mesh.flight))) ∧
      (bad = false → plain → g.domain = p.domain → g.node ≠ nodeId s → hasSendKey s p.domain = true → g.node < 12288 →
        Delivers i s (fun u v =>
          amFind v.fabric.ops id = some { o with pieces := [], fwd := some g.node } ∧ v.mem = u.mem ∧ v.events = u.events ∧
          (getTx v g.node p.domain).waiting = (getTx u g.node p.domain).waiting ++
            [⟨g.node, p.domain, op, memCmdBytes m.addr m.v m.s m.len (BitVec.ofNat 16 id)
              (memFlags m.size m.ty m.compressed) ++ data, bitAt (memFlags m.size m.ty m.compressed) 4, none⟩]))) ∧
    (∀ p (m : MemCmd), Arrives p s →
      let a := gAddr m.addr
      let d := gAddr m.v
      let bad := gFits a m.len = false ∨ gFits d m.len = false ∨ m.len < 64 ∨ m.len % 64 ≠ 0 ∨ 4294967232 < m.len ∨ a.domain ≠ d.domain ∨
        overlaps a d m.len = true ∨ p.domain = mgmtDomain s ∨
        (m.ctrEnable = true ∧ d.node = nodeId s ∧ crestOwner s m.ctrIndex ≠ holder s (fieldOf d.pos))
      (bad → Delivers (.bulkCopy p m) s (fun u v => v = answerMem 6 p.node p.domain m.tag 4 0 0 []
        (memFails 4 p.node p.domain (if a.good then some a.pos else none) u) ∧ v.mem = u.mem ∧ v.fabric.bulks = u.fabric.bulks)) ∧
      (¬bad → a.domain ≠ p.domain → Delivers (.bulkCopy p m) s (fun u v => v = answerMem 6 p.node p.domain m.tag 1 0 0 []
        (memFails 1 p.node p.domain (some a.pos) u) ∧ v.mem = u.mem ∧ v.fabric.bulks = u.fabric.bulks)) ∧
      (¬bad → a.domain = p.domain → a.node = nodeId s → Delivers (.bulkCopy p m) s (fun u v =>
        v = bulkRead s.fabric.nextBulk { src := m.addr, dst := m.v, len := m.len, domain := p.domain, node := p.node, tag := m.tag
                                         port := p.port, compressed := m.compressed
                                         ctr := if m.ctrEnable then some m.ctrIndex else none } 0
          { u with fabric := { u.fabric with nextBulk := u.fabric.nextBulk + 1 } } ∧ v.mem = u.mem)) ∧
      (¬bad → a.domain = p.domain → a.node ≠ nodeId s → hasSendKey s p.domain = true → a.node < 12288 →
        Delivers (.bulkCopy p m) s (fun u v => v.mem = u.mem ∧
          (getTx v a.node p.domain).waiting = (getTx u a.node p.domain).waiting ++
            [⟨a.node, p.domain, 6, memCmdBytes m.addr m.v (if m.ctrEnable then BitVec.ofNat 64 (32768 + m.ctrIndex) else 0) m.len
              (BitVec.ofNat 16 s.fabric.nextReq) (memFlags 0 0 m.compressed), bitAt (memFlags 0 0 m.compressed) 4, none⟩]))) ∧
    (∀ cache pos gen,
      (waitsFor s cache pos = true → spanGenOf s pos % 2 ^ 32 ≤ gen →
        Completes (.translationFill cache ⟨pos, gen⟩) s (fun t =>
          t = ((s.fabric.ops.filter (fun e => e.2.cache == cache)).map Prod.fst).foldl (fun s id => tryOp false id s)
            (cacheFill cache pos (spanEntry s pos) s) ∧
          ((freeSlot (amGet s.fabric.caches cache [])).isSome = true →
            (cached t cache pos).map CacheEntry.entry = some (spanEntry s pos)))) ∧
      (waitsFor s cache pos = false ∨ gen < spanGenOf s pos % 2 ^ 32 →
        Completes (.translationFill cache ⟨pos, gen⟩) s (fun t => t = s))) ∧
    (let hit := fun (e : CacheEntry) => e.hitAt == some s.time.refCycles
     Completes .ageTick s (fun t => t.fabric = { s.fabric with caches := s.fabric.caches.map (fun c =>
        (c.1, (c.2.filter (fun e => e.age < 3 || hit e)).map (fun e =>
          { e with age := if hit e then 0 else e.age + 1, hitAt := none }))) })) ∧
    Completes .invalidationComplete s (fun t =>
      t.fabric.invalidating = [] ∧ t.fabric.invalPos = [] ∧
      ∀ c ∈ t.fabric.caches, ∃ b ∈ s.fabric.caches, c.1 = b.1 ∧
        ∀ e, e ∈ c.2 ↔ e ∈ b.2 ∧ e.pos ∉ s.fabric.invalPos ∧ fieldOf e.pos ∉ s.fabric.invalidating)

/-- Every `memReq`, `memReply` and `descriptor` completes. A home performs a delivered request once its memory cell's
service order lets it: a store writes its bytes and no other, a load answers the bytes, an atomic answers the old value
and stores the new one; a word it reads with an uncorrectable error gives status 5, no change and a cell fault of the
memory cell. Until then the request waits behind those before it. A request that is not delivered is answered with a
failure notice. A reply to the ring ends its part, fails the operation, or completes it after the last part. A reply to a
memory cell writes its bytes at their place; a failed one ends the descriptor with event 0x188. A reply from another wafer
is matched to the operation passed on, and one of a host, or in the management domain, is answered with status 4. A
descriptor that is valid begins with a load of at most 4,064 bytes; one of a reserved space or length is discarded with
event 0x188, and one that runs past its space is a cell fault. -/
def Obligations.HomesPerformAndRepliesReturn : Prop :=
  ∀ s : State,
    (∀ (h : Head) (m : MemReq), dstIsTile h = false →
      Completes (.memReq h m) s (fun t => t = ringRequest h m (crossed h false 3 s))) ∧
    (∀ (h : Head) (m : MemReq), delivers s h = true →
      let k := dstSite h
      let key := placeKey k m.space m.offset
      let size := if m.size = 0 then 4 else 8
      let n := if m.op = 1 then m.len else size
      let old := leNat (readBytes s key size)
      let new := atomicNew m.op m.ty size old m.v.toNat m.s.toNat
      let reply := fun (status : Nat) (data : List Byte) (t : State) =>
        ⟨⟨⟨siteX k, siteY k, 3⟩, h.src, 4, h.domain, BitVec.ofNat 16 m.reqId⟩, false, 4, memRepBytes status m.op m.reqId 0 data⟩
          ∈ t.mesh.flight
      let code := if m.space = 0 then 0x104 else if m.space = 1 then 0x103 else 0x102
      (∀ h0 m0 rest, (getTile s k).remote ++ [(h, m)] = (h0, m0) :: rest → m0.space = 0 → remoteWaits s k = true →
        Completes (.memReq h m) s (fun t =>
          getTile t k = { getTile s k with remote := (getTile s k).remote ++ [(h, m)] } ∧ t.mem = s.mem ∧ t.events = s.events)) ∧
      ((getTile s k).remote = [] → m.space ≠ 0 ∨ remoteWaits s k = false →
        (m.op = 2 → Completes (.memReq h m) s (fun t =>
          t.mem = (writeBytes key m.data s).mem ∧ OnlyBytes key m.data.length s t ∧ reply 0 [] t ∧
          ∀ j, getTile t j = getTile s j)) ∧
        (m.op = 1 → hasDouble s key m.len = false → Completes (.memReq h m) s (fun t =>
          t.mem = s.mem ∧ reply 0 (readBytes s key m.len) t)) ∧
        (m.op ≠ 1 → m.op ≠ 2 → hasDouble s key size = false → Completes (.memReq h m) s (fun t =>
          reply 0 (leBytes 8 old) t ∧ (new = old → t.mem = s.mem) ∧
          (new ≠ old → t.mem = (writeBytes key (leBytes size new) s).mem ∧ OnlyBytes key size s t))) ∧
        (m.op ≠ 2 → hasDouble s key n = true →
          (((getTile s k).uncorrected ++ [now s]).filter (fun t => now s < t + 24 * 3600 * secT)).length < setting s 0x2B00 7 →
          Completes (.memReq h m) s (fun t => t.mem = s.mem ∧ reply 5 [] t ∧
            ∃ l, t.events.pending = (raise (evCell s code 1 (cellAt k 3) 0) s).events.pending ++ l)))) ∧
    (∀ (h : Head) (m : MemReq), dstIsTile h = true → delivers s h = false →
      let u := crossed h false 3 s
      Completes (.memReq h m) s (fun t =>
        t.mem = s.mem ∧ Raised (refuseEvent u h) s t ∧
        ⟨⟨h.dst, h.src, 4, h.domain, BitVec.ofNat 16 m.reqId⟩, false, 10,
          [BitVec.ofNat 8 (if refuseCode u h = 0x113 then 3 else 4), BitVec.ofNat 8 3, 0, 0, 0, 0, 0, 0]⟩ ∈ t.mesh.flight)) ∧
    (∀ (h : Head) (m : MemRep), dstIsTile h = false →
      let id := m.reqId / 64
      let n := m.reqId % 64
      let none' := fun (t : State) => t = crossed h false 4 s
      (amFind s.fabric.ops id = none → Completes (.memReply (.mesh h) m) s none') ∧
      (∀ op, amFind s.fabric.ops id = some op →
        (op.pieces[n]? = none → Completes (.memReply (.mesh h) m) s none') ∧
        (∀ q, op.pieces[n]? = some q → q.ended = true ∨ q.sent = false → Completes (.memReply (.mesh h) m) s none') ∧
        (∀ q, op.pieces[n]? = some q → q.ended = false → q.sent = true →
          let next := { op with
            pieces := op.pieces.set n { q with ended := true }
            data := if op.op = 1 then putBytes op.data q.start m.data else op.data
            old := if 3 ≤ op.op then m.old else op.old
            done := op.done + q.len }
          (m.status ≠ 0 → Completes (.memReply (.mesh h) m) s (fun t =>
            t = failOp id m.status (some q.pos) (crossed h false 4 s))) ∧
          (m.status = 0 → (∃ r ∈ next.pieces, r.ended = false) → Completes (.memReply (.mesh h) m) s (fun t =>
            t.fabric = { s.fabric with ops := amSet s.fabric.ops id next } ∧ t.events = s.events)) ∧
          (m.status = 0 → (∀ r ∈ next.pieces, r.ended = true) → Completes (.memReply (.mesh h) m) s (fun t =>
            t = succeedOp id next (crossed h false 4 s)))))) ∧
    (∀ (h : Head) (m : MemRep), dstIsTile h = true → delivers s h = false → Completes (.memReply (.mesh h) m) s (fun t =>
      t.mem = s.mem ∧ t.tiles = s.tiles ∧ Raised (refuseEvent (crossed h false 4 s) h) s t)) ∧
    (∀ (h : Head) (m : MemRep), delivers s h = true →
      let k := dstSite h
      (descOf s k m.reqId = none → Completes (.memReply (.mesh h) m) s (fun t => t = crossed h false 4 s ∧ t.tiles = s.tiles)) ∧
      (∀ i d start left, descOf s k m.reqId = some (i, d, start, left) → m.status = 0 →
        let key := placeKey k d.space (d.line * 64 + start + m.offset)
        let d' := { d with
          loads := if left ≤ m.data.length then amDel d.loads m.reqId else amSet d.loads m.reqId (start, left - m.data.length)
          arrived := d.arrived + m.data.length }
        d'.arrived < d.len ∨ d'.loads ≠ [] → d'.issued = d.len → (∀ j e, (getTile s k).descs[j]? = some e → j ≠ i → e.len ≤ e.issued) →
        Completes (.memReply (.mesh h) m) s (fun t =>
          t.mem = (writeBytes key m.data s).mem ∧ OnlyBytes key m.data.length s t ∧
          getTile t k = { getTile s k with descs := (getTile s k).descs.set i d' } ∧ t.events = s.events)) ∧
      (∀ i d start left, descOf s k m.reqId = some (i, d, start, left) → m.status ≠ 0 → (getTile s k).descs = [d] →
        (getTile s k).waiting = [] →
        Completes (.memReply (.mesh h) m) s (fun t => (getTile t k).descs = [] ∧ t.mem = s.mem ∧
          Raised (evCell s 0x188 1 (cellAt k 3) 0) s t)) ∧
      (∀ i d start left, descOf s k m.reqId = some (i, d, start, left) → m.status = 0 → (getTile s k).descs = [d] →
        (getTile s k).waiting = [] → d.len ≤ d.arrived + m.data.length →
        (if left ≤ m.data.length then amDel d.loads m.reqId else amSet d.loads m.reqId (start, left - m.data.length)) = [] →
        d.crest = true → siteHolder s k ≠ none → crestOwner s d.index = siteHolder s k → ctrFrozen s (.crest d.index) = false →
        NoBarrier (.crest d.index) s → (∀ w ∈ s.crest.watches, w.key ≠ .crest d.index) →
        ctrDiff (getCtr s (.crest d.index)) + 1 ≤ (getCtr s (.crest d.index)).bound.toNat →
        Completes (.memReply (.mesh h) m) s (fun t =>
          (getTile t k).descs = [] ∧ (getCtr t (.crest d.index)).p = (getCtr s (.crest d.index)).p + 1 ∧
          t.mem = (writeBytes (placeKey k d.space (d.line * 64 + start + m.offset)) m.data s).mem))) ∧
    (∀ (p : Pkt) (m : MemRep), Arrives p s →
      (12288 ≤ p.node ∨ p.domain = mgmtDomain s → Delivers (.memReply (.fabric p) m) s (fun u v =>
        v = answerMem 2 p.node p.domain (BitVec.ofNat 16 m.reqId) 4 0 0 [] u)) ∧
      (p.node < 12288 → p.domain ≠ mgmtDomain s → Delivers (.memReply (.fabric p) m) s (fun u v =>
        v = passedReply p.node p.domain m u)) ∧
      (p.node < 12288 → p.domain ≠ mgmtDomain s →
        s.fabric.ops.find? (fun e => e.2.fwd == some p.node && e.2.domain == p.domain && e.1 % 65536 == m.reqId % 65536) = none →
        Delivers (.memReply (.fabric p) m) s (fun u v => v = u))) ∧
    (∀ (h : Head) (w0 w1 w2 w3 : Word32), h.dst.x ≠ ringXY → delivers s h = false →
      Completes (.descriptor h w0 w1 w2 w3) s (fun t => t.tiles = s.tiles ∧ Raised (refuseEvent (crossed h true 3 s) h) s t)) ∧
    (∀ (h : Head) (w0 w1 w2 w3 : Word32), delivers s h = true →
      let k := dstSite h
      let d := readDesc w0 w1 w2 w3
      let t0 := getTile s k
      let n := min 4064 d.len
      (t0.descs = [] → t0.waiting = [] → d.space < 2 → 0 < d.len → d.len ≤ 2097152 → d.line * 64 + d.len ≤ spaceSize d.space →
        Completes (.descriptor h w0 w1 w2 w3) s (fun t =>
          (∃ d', (getTile t k).descs = [d'] ∧ d'.src = d.src ∧ d'.len = d.len ∧ d'.arrived = 0 ∧ n ≤ d'.issued ∧ d'.issued ≤ d.len) ∧
          (getTile t k).waiting = [] ∧ t.mem = s.mem ∧ t.events = s.events ∧
          ⟨⟨cellAt k 3, ringCell, 4, d.domain, BitVec.ofNat 16 (t0.nextReq % 2 ^ 32)⟩, false, 3,
            memReqBytes 1 0 n (gAddr d.src).space (gAddr d.src).offset (t0.nextReq % 2 ^ 32) []⟩ ∈ t.mesh.flight)) ∧
      (t0.descs = [] → t0.waiting = [] → 2 ≤ d.space ∨ d.len = 0 ∨ 2097152 < d.len →
        Completes (.descriptor h w0 w1 w2 w3) s (fun t =>
          (getTile t k).descs = [] ∧ t.mem = s.mem ∧ Raised (evCell s 0x188 1 (cellAt k 3) 0) s t)) ∧
      (t0.descs = [] → t0.waiting = [] → d.space < 2 → 0 < d.len → d.len ≤ 2097152 → spaceSize d.space < d.line * 64 + d.len →
        Completes (.descriptor h w0 w1 w2 w3) s (fun t =>
          (getTile t k).descs = [] ∧ t.mem = s.mem ∧
          ∃ l, t.events.pending = (raise (evCell s 0x105 1 (cellAt k 3) 0) s).events.pending ++ l)) ∧
      (4 ≤ t0.descs.length → (∀ e ∈ t0.descs, e.len ≤ e.issued) → Completes (.descriptor h w0 w1 w2 w3) s (fun t =>
        getTile t k = { t0 with waiting := t0.waiting ++ [d] } ∧ t.events = s.events)))

/-- No command waits; no partition exists and every stored byte reads 0; every counter is p = c = 0 with bound 65,535; the
lease has no owner and epoch 0; no event is held, and the first record will be number 1; no link has lock, no PLL is
ready, no field is powered or locked; no edge port is up and every flow begins at 0 with 32 credits. That a byte which
nothing has written reads 0 rests on R428, by log 7. -/
def Obligations.ResetLeavesTheModuleOff : Prop :=
  let s := State.reset
  s.pending = [] ∧ s.parts = [] ∧ (∀ key, readByte s key = 0) ∧ (∀ key, getCtr s key = { p := 0, c := 0, bound := 65535 }) ∧
  s.lease.owner = none ∧ s.lease.epoch = 0 ∧ s.events.queue = [] ∧ s.events.pending = [] ∧ s.events.nextSeq = 1 ∧
  s.time.ref = .noLock ∧ s.time.pll0 = false ∧ s.time.pll1 = false ∧ s.power.standby = false ∧ s.pilot.step = 0 ∧
  (∀ f, holder s f = none ∧ (getFld s f).powered = false ∧ (getClk s f).st = .off) ∧
  (∀ i, portUp s i = false) ∧ (∀ n d, (getTx s n d).next = 0 ∧ (getTx s n d).credits = 32 ∧ (getRx s n d).next = 0) ∧
  (∀ k, (getTile s k).run = .idle) ∧ s.mesh.flight = [] ∧ s.mesh.transit = [] ∧ s.mesh.casts = [] ∧ s.crest.watches = []

/-- The operator changes a partition's role only while no section of it is running or queued and no fabric operation it
issued is outstanding; a destructive self-test that holds the partition counts as its running section (R444). A change
requested at any other time is refused: the role is unchanged and an event is written. No request, accepted or refused,
changes a stored byte; what remote requests wait at a memory cell are then served in the new order. A tenant's request is
refused. -/
def Obligations.RoleChangesNeedQuiescence : Prop :=
  ∀ (s : State) (via : Via) (p role : Nat) (a : Part), Served via s → p < 56 → role < 3 → getPart s p = some a →
    let quiet := a.current = none ∧ a.queue = [] ∧ partOutstanding s p = 0 ∧ testHolds s p = false
    ((writer via s).own = none → quiet →
      Writes (.roleChange via p role) via s (fun u code r =>
        code = 0 ∧ r = saved 0x2403 (p + 1) (mcServeAll (applyRole p role u)) ∧ ((getPart r p).map Part.role) = some role ∧
        (applyRole p role u).mem = s.mem ∧ ((∀ e ∈ s.tiles, e.2.remote = []) → r.mem = s.mem))) ∧
    ((writer via s).own = none → ¬quiet →
      Writes (.roleChange via p role) via s (fun u code r =>
        code = 0x08000022 ∧ r.parts = u.parts ∧ ((getPart r p).map Part.role) = some a.role ∧ r.mem = s.mem ∧
        Raised (evPart s 0x384 2 p 0) u r)) ∧
    (∀ q, (writer via s).own = some q →
      Writes (.roleChange via p role) via s (fun u code r => code ≠ 0 ∧ r = u))

/-- An address is malformed whose space is 11, whose reserved bits are not 0, whose offset lies beyond its space, or whose
position is 80,640 or above. A memory command, a bulk copy or a memory cell's request that names one is answered with
status 4 (the table of R290): no stored byte, tile or operation of the ring switch changes, and nothing goes to a home. -/
def Obligations.MalformedAddressesAreRefusedWhole : Prop :=
  ∀ (s : State) (addr : Word64),
    let v := addr.toNat
    let space := v / 2 ^ 42 % 4
    let offset := v % 2 ^ 21
    let malformed := space = 3 ∨ v / 2 ^ 38 % 16 ≠ 0 ∨ 80640 ≤ v / 2 ^ 21 % 2 ^ 17 ∨ (space = 1 ∧ 131072 ≤ offset) ∨
      (space = 2 ∧ (3 ≤ offset / 65536 ∨ 49152 ≤ offset % 65536))
    malformed →
    (∀ p m i op data, MemoryCommand p m i op data → m.addr = addr → Arrives p s →
      Delivers i s (fun u w => w.mem = s.mem ∧ w.mesh = s.mesh ∧ w.tiles = s.tiles ∧ w.fabric.ops = s.fabric.ops ∧
        ∃ x, w = answerMem op p.node p.domain m.tag 4 0 0 [] x ∧ x.fabric = u.fabric)) ∧
    (∀ p (m : MemCmd), m.addr = addr ∨ m.v = addr → Arrives p s →
      Delivers (.bulkCopy p m) s (fun u w => w.mem = s.mem ∧ w.mesh = s.mesh ∧ w.tiles = s.tiles ∧ w.fabric.ops = s.fabric.ops ∧
        w.fabric.bulks = s.fabric.bulks ∧ ∃ x, w = answerMem 6 p.node p.domain m.tag 4 0 0 [] x ∧ x.fabric = u.fabric)) ∧
    (∀ (h : Head) (m : MemReq), dstIsTile h = false → m.addr = addr →
      Completes (.memReq h m) s (fun t => t.mem = s.mem ∧ t.tiles = s.tiles ∧ t.fabric = s.fabric ∧
        t.mesh.flight = (crossed h false 3 s).mesh.flight ++
          [⟨⟨ringCell, ⟨h.src.x, h.src.y, 3⟩, 4, h.domain, BitVec.ofNat 16 m.reqId⟩, false, 4, memRepBytes 4 m.op m.reqId 0 []⟩]))
end

