-- ==== Sys2Proof/Laws/Memory.lean ====
section
/-! SUPPORT. The stored bytes: writes keep the canonical form, and a byte read back is the byte last written there. -/

namespace Sys2Proof.Machine

open Sys2Proof

-- One proof at a time, so that few threads hold memory.
set_option Elab.async false

/-- An entry may stand first behind a lower bound. -/
def Memory.above (lo : Option Nat) (k : Nat) : Prop := ∀ l, lo = some l → l < k

theorem wfFrom_cons {lo : Option Nat} {k : Nat} {b : Byte} {r : List Host.Cell} :
    Memory.wfFrom lo ((k, b) :: r) = true ↔ Memory.above lo k ∧ b ≠ memDefault ∧ Memory.wfFrom (some k) r = true := by
  cases lo <;> simp [Memory.wfFrom, Memory.above, and_assoc]

theorem wfFrom_weaken {k l : Nat} {m : List Host.Cell} (h : Memory.wfFrom (some l) m = true) (hk : k ≤ l) :
    Memory.wfFrom (some k) m = true := by
  cases m with
  | nil => rfl
  | cons c r =>
    obtain ⟨a, b⟩ := c
    rw [wfFrom_cons] at h ⊢
    refine ⟨?_, h.2⟩
    intro x hx
    cases hx
    exact Nat.lt_of_le_of_lt hk (h.1 l rfl)

theorem wfFrom_above {lo : Option Nat} {k l : Nat} {m : List Host.Cell} (ha : Memory.above lo k) (hk : k ≤ l)
    (h : Memory.wfFrom (some l) m = true) : Memory.wfFrom lo m = true := by
  cases m with
  | nil => rfl
  | cons c r =>
    obtain ⟨a, b⟩ := c
    rw [wfFrom_cons] at h ⊢
    refine ⟨?_, h.2⟩
    intro x hx
    have := ha x hx
    have := h.1 l rfl
    omega

theorem wfFrom_cellSet {lo : Option Nat} {m : List Host.Cell} {a : Nat} {b : Byte} (h : Memory.wfFrom lo m = true)
    (ha : Memory.above lo a) : Memory.wfFrom lo (cellSet m a b) = true := by
  induction m generalizing lo with
  | nil =>
    unfold cellSet
    split
    · rfl
    · next hb => exact wfFrom_cons.mpr ⟨ha, hb, rfl⟩
  | cons c r ih =>
    obtain ⟨k, c⟩ := c
    have h' := wfFrom_cons.mp h
    unfold cellSet
    split
    · next hlt =>
      split
      · exact h
      · next hb => exact wfFrom_cons.mpr ⟨ha, hb, wfFrom_cons.mpr ⟨by intro x hx; cases hx; exact hlt, h'.2⟩⟩
    · split
      · next hk =>
        split
        · exact wfFrom_above h'.1 (Nat.le_refl _) h'.2.2
        · next hb => exact wfFrom_cons.mpr ⟨ha, hb, hk ▸ h'.2.2⟩
      · next hlt hk =>
        exact wfFrom_cons.mpr ⟨h'.1, h'.2.1, ih h'.2.2 (by intro x hx; cases hx; omega)⟩

/-- Writing a byte keeps the canonical form. -/
theorem wf_cellSet {m : List Host.Cell} {a : Nat} {b : Byte} (h : Memory.wf m = true) : Memory.wf (cellSet m a b) = true :=
  wfFrom_cellSet h (by intro x hx; cases hx)

/-- Writing bytes keeps the canonical form. -/
theorem wf_cellsSet (bs : List Byte) (a : Nat) {m : List Host.Cell} (h : Memory.wf m = true) : Memory.wf (cellsSet m a bs) = true := by
  induction bs generalizing a m with
  | nil => exact h
  | cons b r ih => exact ih (a + 1) (wf_cellSet h)

theorem wfFrom_filter (p : Host.Cell → Bool) {lo : Option Nat} {m : List Host.Cell} (h : Memory.wfFrom lo m = true) :
    Memory.wfFrom lo (m.filter p) = true := by
  induction m generalizing lo with
  | nil => exact h
  | cons c r ih =>
    obtain ⟨k, b⟩ := c
    have h' := wfFrom_cons.mp h
    rw [List.filter_cons]
    split
    · exact wfFrom_cons.mpr ⟨h'.1, h'.2.1, ih h'.2.2⟩
    · exact wfFrom_above h'.1 (Nat.le_refl _) (ih h'.2.2)

/-- Taking bytes out keeps the canonical form. -/
theorem wf_filter (p : Host.Cell → Bool) {m : List Host.Cell} (h : Memory.wf m = true) : Memory.wf (m.filter p) = true :=
  wfFrom_filter p h

theorem cellGet_cons (k a : Nat) (b : Byte) (r : List Host.Cell) :
    cellGet ((k, b) :: r) a = if k = a then b else if a < k then memDefault else cellGet r a := rfl

theorem cellGet_below {lo a : Nat} {m : List Host.Cell} (h : Memory.wfFrom (some lo) m = true) (ha : a ≤ lo) :
    cellGet m a = memDefault := by
  cases m with
  | nil => rfl
  | cons c r =>
    obtain ⟨k, b⟩ := c
    have := (wfFrom_cons.mp h).1 lo rfl
    unfold cellGet
    rw [if_neg (by omega), if_pos (by omega)]

theorem cellGet_cellSet_from {lo : Option Nat} {m : List Host.Cell} (h : Memory.wfFrom lo m = true) (a x : Nat) (b : Byte) :
    cellGet (cellSet m a b) x = if x = a then b else cellGet m x := by
  induction m generalizing lo with
  | nil =>
    unfold cellSet
    split <;> simp only [cellGet] <;> repeat' split <;> simp_all <;> omega
  | cons c r ih =>
    obtain ⟨k, c⟩ := c
    have h' := wfFrom_cons.mp h
    unfold cellSet
    by_cases hak : a < k
    · rw [if_pos hak]
      by_cases hb : b = memDefault
      · rw [if_pos hb]
        by_cases hx : x = a
        · subst hx hb
          rw [if_pos rfl, cellGet_cons, if_neg (by omega), if_pos hak]
        · rw [if_neg hx]
      · rw [if_neg hb, cellGet_cons]
        by_cases hx : x = a
        · rw [if_pos hx.symm, if_pos hx]
        · rw [if_neg (fun e => hx e.symm), if_neg hx]
          by_cases hl : x < a
          · rw [if_pos hl, cellGet_cons, if_neg (by omega), if_pos (by omega)]
          · rw [if_neg hl]
    · rw [if_neg hak]
      by_cases hk : k = a
      · subst hk
        rw [if_pos rfl]
        by_cases hb : b = memDefault
        · rw [if_pos hb]
          by_cases hx : x = k
          · subst hx hb
            rw [if_pos rfl]
            exact cellGet_below h'.2.2 (Nat.le_refl _)
          · rw [if_neg hx, cellGet_cons, if_neg (fun e => hx e.symm)]
            by_cases hl : x < k
            · rw [if_pos hl]
              exact cellGet_below h'.2.2 (Nat.le_of_lt hl)
            · rw [if_neg hl]
        · rw [if_neg hb, cellGet_cons, cellGet_cons]
          by_cases hx : x = k
          · rw [if_pos hx.symm, if_pos hx]
          · simp only [if_neg hx, if_neg (Ne.symm hx)]
      · rw [if_neg hk, cellGet_cons, cellGet_cons, ih h'.2.2]
        by_cases hx : x = a
        · subst hx
          simp only [if_neg hk, if_neg hak, if_true]
        · simp only [if_neg hx]

/-- A byte read after a byte is written: the byte itself at its address, and what was there at every other. -/
theorem cellGet_cellSet {m : List Host.Cell} (h : Memory.wf m = true) (a x : Nat) (b : Byte) :
    cellGet (cellSet m a b) x = if x = a then b else cellGet m x := cellGet_cellSet_from h a x b

/-- A byte read after bytes are written: the one written at its address, and what was there outside them. -/
theorem cellGet_cellsSet (bs : List Byte) (a x : Nat) {m : List Host.Cell} (h : Memory.wf m = true) :
    cellGet (cellsSet m a bs) x = if a ≤ x ∧ x < a + bs.length then bs.getD (x - a) 0 else cellGet m x := by
  induction bs generalizing a m with
  | nil => rw [if_neg (by simp)]; rfl
  | cons b r ih =>
    rw [cellsSet, ih (a + 1) (wf_cellSet h), cellGet_cellSet h]
    by_cases hx : x = a
    · subst hx
      rw [if_neg (by omega), if_pos rfl, if_pos (by simp)]
      simp
    · by_cases hr : a + 1 ≤ x ∧ x < a + 1 + r.length
      · rw [if_pos hr, if_pos (by simp; omega)]
        obtain ⟨n, rfl⟩ : ∃ n, x = a + 1 + n := ⟨x - (a + 1), by omega⟩
        rw [show a + 1 + n - a = n + 1 by omega, show a + 1 + n - (a + 1) = n by omega, List.getD_cons_succ]
      · rw [if_neg hr, if_neg hx, if_neg (by simp; omega)]

/-! ## Sparse tables -/

theorem amFind_amSet {α : Type} (m : AMap α) (k x : Nat) (a : α) :
    amFind (amSet m k a) x = if x = k then some a else amFind m x := by
  induction m with
  | nil =>
    by_cases hx : x = k
    · simp [amSet, amFind, hx]
    · simp [amSet, amFind, hx, Ne.symm hx]
  | cons c r ih =>
    obtain ⟨j, b⟩ := c
    unfold amSet
    split
    · by_cases hx : x = k
      · simp [amFind, hx]
      · simp [amFind, hx, Ne.symm hx]
    · split
      · next h =>
        subst h
        by_cases hx : x = k
        · simp [amFind, hx]
        · simp [amFind, hx, Ne.symm hx]
      · next h =>
        rw [amFind, ih]
        by_cases hx : x = k
        · subst hx
          simp [Ne.symm h]
        · by_cases hj : j = x <;> simp [amFind, hx, hj]

/-- An entry read after an entry is put: the entry itself under its key, and what was there under every other. -/
theorem amGet_amSet {α : Type} (m : AMap α) (k x : Nat) (a d : α) : amGet (amSet m k a) x d = if x = k then a else amGet m x d := by
  unfold amGet
  rw [amFind_amSet]
  split <;> rfl

theorem amGet_amMod {α : Type} (m : AMap α) (k x : Nat) (d : α) (f : α → α) :
    amGet (amMod m k d f) x d = if x = k then f (amGet m k d) else amGet m x d := amGet_amSet m k x _ d

theorem mem_amSet {α : Type} {m : AMap α} {k : Nat} {a : α} {e : Nat × α} (h : e ∈ amSet m k a) : e = (k, a) ∨ e ∈ m := by
  induction m with
  | nil => simpa [amSet] using h
  | cons c r ih =>
    obtain ⟨j, b⟩ := c
    unfold amSet at h
    split at h
    · simpa using h
    · split at h
      · simp at h ⊢
        tauto
      · simp at h ⊢
        rcases h with h | h
        · exact Or.inr (Or.inl h)
        · rcases ih h with h | h
          · exact Or.inl h
          · exact Or.inr (Or.inr h)

theorem amFind_mem {α : Type} {m : AMap α} {k : Nat} {a : α} (h : amFind m k = some a) : (k, a) ∈ m := by
  induction m with
  | nil => cases h
  | cons c r ih =>
    obtain ⟨j, b⟩ := c
    unfold amFind at h
    split at h
    · next hj => cases h; simp [hj]
    · exact List.mem_cons_of_mem _ (ih h)

/-- Every flow keeps its 32 credits where one flow is changed by a function that keeps them (R259). -/
theorem flowsOk_amMod {tx : AMap FlowTx} {k : Nat} {d : FlowTx} {g : FlowTx → FlowTx} (h : FlowsOk tx)
    (hd : d.credits + d.out.length = 32)
    (hg : ∀ f : FlowTx, f.credits + f.out.length = 32 → (g f).credits + (g f).out.length = 32) : FlowsOk (amMod tx k d g) := by
  intro e he
  rcases mem_amSet he with rfl | he
  · refine hg _ ?_
    unfold amGet
    cases hf : amFind tx k with
    | none => exact hd
    | some f => exact h _ (amFind_mem hf)
  · exact h e he

/-- Every flow keeps its 32 credits where one outstanding packet of a flow is resolved (R259). -/
theorem flowsOk_set {tx : AMap FlowTx} {k : Nat} {f : FlowTx} (h : FlowsOk tx) (hf : f.credits + f.out.length = 32) :
    FlowsOk (amSet tx k f) := by
  intro e he
  rcases mem_amSet he with rfl | he
  · exact hf
  · exact h e he

theorem flowsOk_get {tx : AMap FlowTx} (h : FlowsOk tx) (k : Nat) : (amGet tx k {}).credits + (amGet tx k {}).out.length = 32 := by
  unfold amGet
  cases hf : amFind tx k with
  | none => rfl
  | some f => exact h _ (amFind_mem hf)

theorem flowsOk_map {tx : AMap FlowTx} {g : Nat → FlowTx → FlowTx} (h : FlowsOk tx)
    (hg : ∀ k f, (g k f).credits = f.credits ∧ (g k f).out = f.out) : FlowsOk (tx.map (fun e => (e.1, g e.1 e.2))) := by
  intro e he
  obtain ⟨x, hx, rfl⟩ := List.mem_map.mp he
  rw [(hg x.1 x.2).1, (hg x.1 x.2).2]
  exact h x hx

theorem flowsOk_nil {p : Prop} (_ : p) : FlowsOk [] := by
  intro e he
  cases he

end Sys2Proof.Machine
end

