-- ==== Sys2Proof/Laws/State.lean ====
section
/-!
SUPPORT. What each update of the state leaves: one lemma for each field and each update, so that no proof unfolds a record update.
Those of advanceTo are not by rfl alone: the kernel would compare times with large numbers one by one.
-/

namespace Sys2Proof.Machine

-- One proof at a time, so that few threads hold memory.
set_option Elab.async false

/-! ## setReg -/

@[simp] theorem setReg_pending (key v : Nat) (s : State) : (setReg key v s).pending = s.pending := rfl

@[simp] theorem setReg_time (key v : Nat) (s : State) : (setReg key v s).time = s.time := rfl

@[simp] theorem setReg_clk (key v : Nat) (s : State) : (setReg key v s).clk = s.clk := rfl

@[simp] theorem setReg_fld (key v : Nat) (s : State) : (setReg key v s).fld = s.fld := rfl

@[simp] theorem setReg_power (key v : Nat) (s : State) : (setReg key v s).power = s.power := rfl

@[simp] theorem setReg_assay (key v : Nat) (s : State) : (setReg key v s).assay = s.assay := rfl

@[simp] theorem setReg_ledger (key v : Nat) (s : State) : (setReg key v s).ledger = s.ledger := rfl

@[simp] theorem setReg_cope (key v : Nat) (s : State) : (setReg key v s).cope = s.cope := rfl

@[simp] theorem setReg_drag (key v : Nat) (s : State) : (setReg key v s).drag = s.drag := rfl

@[simp] theorem setReg_lease (key v : Nat) (s : State) : (setReg key v s).lease = s.lease := rfl

@[simp] theorem setReg_events (key v : Nat) (s : State) : (setReg key v s).events = s.events := rfl

@[simp] theorem setReg_sec (key v : Nat) (s : State) : (setReg key v s).sec = s.sec := rfl

@[simp] theorem setReg_parts (key v : Nat) (s : State) : (setReg key v s).parts = s.parts := rfl

@[simp] theorem setReg_tiles (key v : Nat) (s : State) : (setReg key v s).tiles = s.tiles := rfl

@[simp] theorem setReg_mem (key v : Nat) (s : State) : (setReg key v s).mem = s.mem := rfl

@[simp] theorem setReg_ecc (key v : Nat) (s : State) : (setReg key v s).ecc = s.ecc := rfl

@[simp] theorem setReg_mesh (key v : Nat) (s : State) : (setReg key v s).mesh = s.mesh := rfl

@[simp] theorem setReg_crest (key v : Nat) (s : State) : (setReg key v s).crest = s.crest := rfl

@[simp] theorem setReg_fabric (key v : Nat) (s : State) : (setReg key v s).fabric = s.fabric := rfl

@[simp] theorem setReg_settings (key v : Nat) (s : State) : (setReg key v s).settings = s.settings := rfl

@[simp] theorem setReg_pilot (key v : Nat) (s : State) : (setReg key v s).pilot = s.pilot := rfl

@[simp] theorem setReg_test (key v : Nat) (s : State) : (setReg key v s).test = s.test := rfl

@[simp] theorem setReg_ident (key v : Nat) (s : State) : (setReg key v s).ident = s.ident := rfl

@[simp] theorem setReg_freeCount (key v : Nat) (s : State) : (setReg key v s).freeCount = s.freeCount := rfl

/-! ## modFld -/

@[simp] theorem modFld_pending (f : Nat) (g : FieldPwr → FieldPwr) (s : State) : (modFld f g s).pending = s.pending := rfl

@[simp] theorem modFld_time (f : Nat) (g : FieldPwr → FieldPwr) (s : State) : (modFld f g s).time = s.time := rfl

@[simp] theorem modFld_clk (f : Nat) (g : FieldPwr → FieldPwr) (s : State) : (modFld f g s).clk = s.clk := rfl

@[simp] theorem modFld_power (f : Nat) (g : FieldPwr → FieldPwr) (s : State) : (modFld f g s).power = s.power := rfl

@[simp] theorem modFld_assay (f : Nat) (g : FieldPwr → FieldPwr) (s : State) : (modFld f g s).assay = s.assay := rfl

@[simp] theorem modFld_ledger (f : Nat) (g : FieldPwr → FieldPwr) (s : State) : (modFld f g s).ledger = s.ledger := rfl

@[simp] theorem modFld_cope (f : Nat) (g : FieldPwr → FieldPwr) (s : State) : (modFld f g s).cope = s.cope := rfl

@[simp] theorem modFld_drag (f : Nat) (g : FieldPwr → FieldPwr) (s : State) : (modFld f g s).drag = s.drag := rfl

@[simp] theorem modFld_lease (f : Nat) (g : FieldPwr → FieldPwr) (s : State) : (modFld f g s).lease = s.lease := rfl

@[simp] theorem modFld_events (f : Nat) (g : FieldPwr → FieldPwr) (s : State) : (modFld f g s).events = s.events := rfl

@[simp] theorem modFld_sec (f : Nat) (g : FieldPwr → FieldPwr) (s : State) : (modFld f g s).sec = s.sec := rfl

@[simp] theorem modFld_parts (f : Nat) (g : FieldPwr → FieldPwr) (s : State) : (modFld f g s).parts = s.parts := rfl

@[simp] theorem modFld_tiles (f : Nat) (g : FieldPwr → FieldPwr) (s : State) : (modFld f g s).tiles = s.tiles := rfl

@[simp] theorem modFld_mem (f : Nat) (g : FieldPwr → FieldPwr) (s : State) : (modFld f g s).mem = s.mem := rfl

@[simp] theorem modFld_ecc (f : Nat) (g : FieldPwr → FieldPwr) (s : State) : (modFld f g s).ecc = s.ecc := rfl

@[simp] theorem modFld_mesh (f : Nat) (g : FieldPwr → FieldPwr) (s : State) : (modFld f g s).mesh = s.mesh := rfl

@[simp] theorem modFld_crest (f : Nat) (g : FieldPwr → FieldPwr) (s : State) : (modFld f g s).crest = s.crest := rfl

@[simp] theorem modFld_fabric (f : Nat) (g : FieldPwr → FieldPwr) (s : State) : (modFld f g s).fabric = s.fabric := rfl

@[simp] theorem modFld_settings (f : Nat) (g : FieldPwr → FieldPwr) (s : State) : (modFld f g s).settings = s.settings := rfl

@[simp] theorem modFld_pilot (f : Nat) (g : FieldPwr → FieldPwr) (s : State) : (modFld f g s).pilot = s.pilot := rfl

@[simp] theorem modFld_test (f : Nat) (g : FieldPwr → FieldPwr) (s : State) : (modFld f g s).test = s.test := rfl

@[simp] theorem modFld_ident (f : Nat) (g : FieldPwr → FieldPwr) (s : State) : (modFld f g s).ident = s.ident := rfl

@[simp] theorem modFld_regs (f : Nat) (g : FieldPwr → FieldPwr) (s : State) : (modFld f g s).regs = s.regs := rfl

@[simp] theorem modFld_freeCount (f : Nat) (g : FieldPwr → FieldPwr) (s : State) : (modFld f g s).freeCount = s.freeCount := rfl

/-! ## modClk -/

@[simp] theorem modClk_pending (f : Nat) (g : FieldClk → FieldClk) (s : State) : (modClk f g s).pending = s.pending := rfl

@[simp] theorem modClk_time (f : Nat) (g : FieldClk → FieldClk) (s : State) : (modClk f g s).time = s.time := rfl

@[simp] theorem modClk_fld (f : Nat) (g : FieldClk → FieldClk) (s : State) : (modClk f g s).fld = s.fld := rfl

@[simp] theorem modClk_power (f : Nat) (g : FieldClk → FieldClk) (s : State) : (modClk f g s).power = s.power := rfl

@[simp] theorem modClk_assay (f : Nat) (g : FieldClk → FieldClk) (s : State) : (modClk f g s).assay = s.assay := rfl

@[simp] theorem modClk_ledger (f : Nat) (g : FieldClk → FieldClk) (s : State) : (modClk f g s).ledger = s.ledger := rfl

@[simp] theorem modClk_cope (f : Nat) (g : FieldClk → FieldClk) (s : State) : (modClk f g s).cope = s.cope := rfl

@[simp] theorem modClk_drag (f : Nat) (g : FieldClk → FieldClk) (s : State) : (modClk f g s).drag = s.drag := rfl

@[simp] theorem modClk_lease (f : Nat) (g : FieldClk → FieldClk) (s : State) : (modClk f g s).lease = s.lease := rfl

@[simp] theorem modClk_events (f : Nat) (g : FieldClk → FieldClk) (s : State) : (modClk f g s).events = s.events := rfl

@[simp] theorem modClk_sec (f : Nat) (g : FieldClk → FieldClk) (s : State) : (modClk f g s).sec = s.sec := rfl

@[simp] theorem modClk_parts (f : Nat) (g : FieldClk → FieldClk) (s : State) : (modClk f g s).parts = s.parts := rfl

@[simp] theorem modClk_tiles (f : Nat) (g : FieldClk → FieldClk) (s : State) : (modClk f g s).tiles = s.tiles := rfl

@[simp] theorem modClk_mem (f : Nat) (g : FieldClk → FieldClk) (s : State) : (modClk f g s).mem = s.mem := rfl

@[simp] theorem modClk_ecc (f : Nat) (g : FieldClk → FieldClk) (s : State) : (modClk f g s).ecc = s.ecc := rfl

@[simp] theorem modClk_mesh (f : Nat) (g : FieldClk → FieldClk) (s : State) : (modClk f g s).mesh = s.mesh := rfl

@[simp] theorem modClk_crest (f : Nat) (g : FieldClk → FieldClk) (s : State) : (modClk f g s).crest = s.crest := rfl

@[simp] theorem modClk_fabric (f : Nat) (g : FieldClk → FieldClk) (s : State) : (modClk f g s).fabric = s.fabric := rfl

@[simp] theorem modClk_settings (f : Nat) (g : FieldClk → FieldClk) (s : State) : (modClk f g s).settings = s.settings := rfl

@[simp] theorem modClk_pilot (f : Nat) (g : FieldClk → FieldClk) (s : State) : (modClk f g s).pilot = s.pilot := rfl

@[simp] theorem modClk_test (f : Nat) (g : FieldClk → FieldClk) (s : State) : (modClk f g s).test = s.test := rfl

@[simp] theorem modClk_ident (f : Nat) (g : FieldClk → FieldClk) (s : State) : (modClk f g s).ident = s.ident := rfl

@[simp] theorem modClk_regs (f : Nat) (g : FieldClk → FieldClk) (s : State) : (modClk f g s).regs = s.regs := rfl

@[simp] theorem modClk_freeCount (f : Nat) (g : FieldClk → FieldClk) (s : State) : (modClk f g s).freeCount = s.freeCount := rfl

/-! ## modTile -/

@[simp] theorem modTile_pending (k : Nat) (g : Tile → Tile) (s : State) : (modTile k g s).pending = s.pending := rfl

@[simp] theorem modTile_time (k : Nat) (g : Tile → Tile) (s : State) : (modTile k g s).time = s.time := rfl

@[simp] theorem modTile_clk (k : Nat) (g : Tile → Tile) (s : State) : (modTile k g s).clk = s.clk := rfl

@[simp] theorem modTile_fld (k : Nat) (g : Tile → Tile) (s : State) : (modTile k g s).fld = s.fld := rfl

@[simp] theorem modTile_power (k : Nat) (g : Tile → Tile) (s : State) : (modTile k g s).power = s.power := rfl

@[simp] theorem modTile_assay (k : Nat) (g : Tile → Tile) (s : State) : (modTile k g s).assay = s.assay := rfl

@[simp] theorem modTile_ledger (k : Nat) (g : Tile → Tile) (s : State) : (modTile k g s).ledger = s.ledger := rfl

@[simp] theorem modTile_cope (k : Nat) (g : Tile → Tile) (s : State) : (modTile k g s).cope = s.cope := rfl

@[simp] theorem modTile_drag (k : Nat) (g : Tile → Tile) (s : State) : (modTile k g s).drag = s.drag := rfl

@[simp] theorem modTile_lease (k : Nat) (g : Tile → Tile) (s : State) : (modTile k g s).lease = s.lease := rfl

@[simp] theorem modTile_events (k : Nat) (g : Tile → Tile) (s : State) : (modTile k g s).events = s.events := rfl

@[simp] theorem modTile_sec (k : Nat) (g : Tile → Tile) (s : State) : (modTile k g s).sec = s.sec := rfl

@[simp] theorem modTile_parts (k : Nat) (g : Tile → Tile) (s : State) : (modTile k g s).parts = s.parts := rfl

@[simp] theorem modTile_mem (k : Nat) (g : Tile → Tile) (s : State) : (modTile k g s).mem = s.mem := rfl

@[simp] theorem modTile_ecc (k : Nat) (g : Tile → Tile) (s : State) : (modTile k g s).ecc = s.ecc := rfl

@[simp] theorem modTile_mesh (k : Nat) (g : Tile → Tile) (s : State) : (modTile k g s).mesh = s.mesh := rfl

@[simp] theorem modTile_crest (k : Nat) (g : Tile → Tile) (s : State) : (modTile k g s).crest = s.crest := rfl

@[simp] theorem modTile_fabric (k : Nat) (g : Tile → Tile) (s : State) : (modTile k g s).fabric = s.fabric := rfl

@[simp] theorem modTile_settings (k : Nat) (g : Tile → Tile) (s : State) : (modTile k g s).settings = s.settings := rfl

@[simp] theorem modTile_pilot (k : Nat) (g : Tile → Tile) (s : State) : (modTile k g s).pilot = s.pilot := rfl

@[simp] theorem modTile_test (k : Nat) (g : Tile → Tile) (s : State) : (modTile k g s).test = s.test := rfl

@[simp] theorem modTile_ident (k : Nat) (g : Tile → Tile) (s : State) : (modTile k g s).ident = s.ident := rfl

@[simp] theorem modTile_regs (k : Nat) (g : Tile → Tile) (s : State) : (modTile k g s).regs = s.regs := rfl

@[simp] theorem modTile_freeCount (k : Nat) (g : Tile → Tile) (s : State) : (modTile k g s).freeCount = s.freeCount := rfl

/-! ## modCC -/

@[simp] theorem modCC_pending (k slot : Nat) (g : CC → CC) (s : State) : (modCC k slot g s).pending = s.pending := rfl

@[simp] theorem modCC_time (k slot : Nat) (g : CC → CC) (s : State) : (modCC k slot g s).time = s.time := rfl

@[simp] theorem modCC_clk (k slot : Nat) (g : CC → CC) (s : State) : (modCC k slot g s).clk = s.clk := rfl

@[simp] theorem modCC_fld (k slot : Nat) (g : CC → CC) (s : State) : (modCC k slot g s).fld = s.fld := rfl

@[simp] theorem modCC_power (k slot : Nat) (g : CC → CC) (s : State) : (modCC k slot g s).power = s.power := rfl

@[simp] theorem modCC_assay (k slot : Nat) (g : CC → CC) (s : State) : (modCC k slot g s).assay = s.assay := rfl

@[simp] theorem modCC_ledger (k slot : Nat) (g : CC → CC) (s : State) : (modCC k slot g s).ledger = s.ledger := rfl

@[simp] theorem modCC_cope (k slot : Nat) (g : CC → CC) (s : State) : (modCC k slot g s).cope = s.cope := rfl

@[simp] theorem modCC_drag (k slot : Nat) (g : CC → CC) (s : State) : (modCC k slot g s).drag = s.drag := rfl

@[simp] theorem modCC_lease (k slot : Nat) (g : CC → CC) (s : State) : (modCC k slot g s).lease = s.lease := rfl

@[simp] theorem modCC_events (k slot : Nat) (g : CC → CC) (s : State) : (modCC k slot g s).events = s.events := rfl

@[simp] theorem modCC_sec (k slot : Nat) (g : CC → CC) (s : State) : (modCC k slot g s).sec = s.sec := rfl

@[simp] theorem modCC_parts (k slot : Nat) (g : CC → CC) (s : State) : (modCC k slot g s).parts = s.parts := rfl

@[simp] theorem modCC_mem (k slot : Nat) (g : CC → CC) (s : State) : (modCC k slot g s).mem = s.mem := rfl

@[simp] theorem modCC_ecc (k slot : Nat) (g : CC → CC) (s : State) : (modCC k slot g s).ecc = s.ecc := rfl

@[simp] theorem modCC_mesh (k slot : Nat) (g : CC → CC) (s : State) : (modCC k slot g s).mesh = s.mesh := rfl

@[simp] theorem modCC_crest (k slot : Nat) (g : CC → CC) (s : State) : (modCC k slot g s).crest = s.crest := rfl

@[simp] theorem modCC_fabric (k slot : Nat) (g : CC → CC) (s : State) : (modCC k slot g s).fabric = s.fabric := rfl

@[simp] theorem modCC_settings (k slot : Nat) (g : CC → CC) (s : State) : (modCC k slot g s).settings = s.settings := rfl

@[simp] theorem modCC_pilot (k slot : Nat) (g : CC → CC) (s : State) : (modCC k slot g s).pilot = s.pilot := rfl

@[simp] theorem modCC_test (k slot : Nat) (g : CC → CC) (s : State) : (modCC k slot g s).test = s.test := rfl

@[simp] theorem modCC_ident (k slot : Nat) (g : CC → CC) (s : State) : (modCC k slot g s).ident = s.ident := rfl

@[simp] theorem modCC_regs (k slot : Nat) (g : CC → CC) (s : State) : (modCC k slot g s).regs = s.regs := rfl

@[simp] theorem modCC_freeCount (k slot : Nat) (g : CC → CC) (s : State) : (modCC k slot g s).freeCount = s.freeCount := rfl

/-! ## modAG -/

@[simp] theorem modAG_pending (k g : Nat) (h : AG → AG) (s : State) : (modAG k g h s).pending = s.pending := rfl

@[simp] theorem modAG_time (k g : Nat) (h : AG → AG) (s : State) : (modAG k g h s).time = s.time := rfl

@[simp] theorem modAG_clk (k g : Nat) (h : AG → AG) (s : State) : (modAG k g h s).clk = s.clk := rfl

@[simp] theorem modAG_fld (k g : Nat) (h : AG → AG) (s : State) : (modAG k g h s).fld = s.fld := rfl

@[simp] theorem modAG_power (k g : Nat) (h : AG → AG) (s : State) : (modAG k g h s).power = s.power := rfl

@[simp] theorem modAG_assay (k g : Nat) (h : AG → AG) (s : State) : (modAG k g h s).assay = s.assay := rfl

@[simp] theorem modAG_ledger (k g : Nat) (h : AG → AG) (s : State) : (modAG k g h s).ledger = s.ledger := rfl

@[simp] theorem modAG_cope (k g : Nat) (h : AG → AG) (s : State) : (modAG k g h s).cope = s.cope := rfl

@[simp] theorem modAG_drag (k g : Nat) (h : AG → AG) (s : State) : (modAG k g h s).drag = s.drag := rfl

@[simp] theorem modAG_lease (k g : Nat) (h : AG → AG) (s : State) : (modAG k g h s).lease = s.lease := rfl

@[simp] theorem modAG_events (k g : Nat) (h : AG → AG) (s : State) : (modAG k g h s).events = s.events := rfl

@[simp] theorem modAG_sec (k g : Nat) (h : AG → AG) (s : State) : (modAG k g h s).sec = s.sec := rfl

@[simp] theorem modAG_parts (k g : Nat) (h : AG → AG) (s : State) : (modAG k g h s).parts = s.parts := rfl

@[simp] theorem modAG_mem (k g : Nat) (h : AG → AG) (s : State) : (modAG k g h s).mem = s.mem := rfl

@[simp] theorem modAG_ecc (k g : Nat) (h : AG → AG) (s : State) : (modAG k g h s).ecc = s.ecc := rfl

@[simp] theorem modAG_mesh (k g : Nat) (h : AG → AG) (s : State) : (modAG k g h s).mesh = s.mesh := rfl

@[simp] theorem modAG_crest (k g : Nat) (h : AG → AG) (s : State) : (modAG k g h s).crest = s.crest := rfl

@[simp] theorem modAG_fabric (k g : Nat) (h : AG → AG) (s : State) : (modAG k g h s).fabric = s.fabric := rfl

@[simp] theorem modAG_settings (k g : Nat) (h : AG → AG) (s : State) : (modAG k g h s).settings = s.settings := rfl

@[simp] theorem modAG_pilot (k g : Nat) (h : AG → AG) (s : State) : (modAG k g h s).pilot = s.pilot := rfl

@[simp] theorem modAG_test (k g : Nat) (h : AG → AG) (s : State) : (modAG k g h s).test = s.test := rfl

@[simp] theorem modAG_ident (k g : Nat) (h : AG → AG) (s : State) : (modAG k g h s).ident = s.ident := rfl

@[simp] theorem modAG_regs (k g : Nat) (h : AG → AG) (s : State) : (modAG k g h s).regs = s.regs := rfl

@[simp] theorem modAG_freeCount (k g : Nat) (h : AG → AG) (s : State) : (modAG k g h s).freeCount = s.freeCount := rfl

/-! ## modTx -/

@[simp] theorem modTx_pending (node domain : Nat) (g : FlowTx → FlowTx) (s : State) : (modTx node domain g s).pending = s.pending := rfl

@[simp] theorem modTx_time (node domain : Nat) (g : FlowTx → FlowTx) (s : State) : (modTx node domain g s).time = s.time := rfl

@[simp] theorem modTx_clk (node domain : Nat) (g : FlowTx → FlowTx) (s : State) : (modTx node domain g s).clk = s.clk := rfl

@[simp] theorem modTx_fld (node domain : Nat) (g : FlowTx → FlowTx) (s : State) : (modTx node domain g s).fld = s.fld := rfl

@[simp] theorem modTx_power (node domain : Nat) (g : FlowTx → FlowTx) (s : State) : (modTx node domain g s).power = s.power := rfl

@[simp] theorem modTx_assay (node domain : Nat) (g : FlowTx → FlowTx) (s : State) : (modTx node domain g s).assay = s.assay := rfl

@[simp] theorem modTx_ledger (node domain : Nat) (g : FlowTx → FlowTx) (s : State) : (modTx node domain g s).ledger = s.ledger := rfl

@[simp] theorem modTx_cope (node domain : Nat) (g : FlowTx → FlowTx) (s : State) : (modTx node domain g s).cope = s.cope := rfl

@[simp] theorem modTx_drag (node domain : Nat) (g : FlowTx → FlowTx) (s : State) : (modTx node domain g s).drag = s.drag := rfl

@[simp] theorem modTx_lease (node domain : Nat) (g : FlowTx → FlowTx) (s : State) : (modTx node domain g s).lease = s.lease := rfl

@[simp] theorem modTx_events (node domain : Nat) (g : FlowTx → FlowTx) (s : State) : (modTx node domain g s).events = s.events := rfl

@[simp] theorem modTx_sec (node domain : Nat) (g : FlowTx → FlowTx) (s : State) : (modTx node domain g s).sec = s.sec := rfl

@[simp] theorem modTx_parts (node domain : Nat) (g : FlowTx → FlowTx) (s : State) : (modTx node domain g s).parts = s.parts := rfl

@[simp] theorem modTx_tiles (node domain : Nat) (g : FlowTx → FlowTx) (s : State) : (modTx node domain g s).tiles = s.tiles := rfl

@[simp] theorem modTx_mem (node domain : Nat) (g : FlowTx → FlowTx) (s : State) : (modTx node domain g s).mem = s.mem := rfl

@[simp] theorem modTx_ecc (node domain : Nat) (g : FlowTx → FlowTx) (s : State) : (modTx node domain g s).ecc = s.ecc := rfl

@[simp] theorem modTx_mesh (node domain : Nat) (g : FlowTx → FlowTx) (s : State) : (modTx node domain g s).mesh = s.mesh := rfl

@[simp] theorem modTx_crest (node domain : Nat) (g : FlowTx → FlowTx) (s : State) : (modTx node domain g s).crest = s.crest := rfl

@[simp] theorem modTx_settings (node domain : Nat) (g : FlowTx → FlowTx) (s : State) : (modTx node domain g s).settings = s.settings := rfl

@[simp] theorem modTx_pilot (node domain : Nat) (g : FlowTx → FlowTx) (s : State) : (modTx node domain g s).pilot = s.pilot := rfl

@[simp] theorem modTx_test (node domain : Nat) (g : FlowTx → FlowTx) (s : State) : (modTx node domain g s).test = s.test := rfl

@[simp] theorem modTx_ident (node domain : Nat) (g : FlowTx → FlowTx) (s : State) : (modTx node domain g s).ident = s.ident := rfl

@[simp] theorem modTx_regs (node domain : Nat) (g : FlowTx → FlowTx) (s : State) : (modTx node domain g s).regs = s.regs := rfl

@[simp] theorem modTx_freeCount (node domain : Nat) (g : FlowTx → FlowTx) (s : State) : (modTx node domain g s).freeCount = s.freeCount := rfl

/-! ## modRx -/

@[simp] theorem modRx_pending (node domain : Nat) (g : FlowRx → FlowRx) (s : State) : (modRx node domain g s).pending = s.pending := rfl

@[simp] theorem modRx_time (node domain : Nat) (g : FlowRx → FlowRx) (s : State) : (modRx node domain g s).time = s.time := rfl

@[simp] theorem modRx_clk (node domain : Nat) (g : FlowRx → FlowRx) (s : State) : (modRx node domain g s).clk = s.clk := rfl

@[simp] theorem modRx_fld (node domain : Nat) (g : FlowRx → FlowRx) (s : State) : (modRx node domain g s).fld = s.fld := rfl

@[simp] theorem modRx_power (node domain : Nat) (g : FlowRx → FlowRx) (s : State) : (modRx node domain g s).power = s.power := rfl

@[simp] theorem modRx_assay (node domain : Nat) (g : FlowRx → FlowRx) (s : State) : (modRx node domain g s).assay = s.assay := rfl

@[simp] theorem modRx_ledger (node domain : Nat) (g : FlowRx → FlowRx) (s : State) : (modRx node domain g s).ledger = s.ledger := rfl

@[simp] theorem modRx_cope (node domain : Nat) (g : FlowRx → FlowRx) (s : State) : (modRx node domain g s).cope = s.cope := rfl

@[simp] theorem modRx_drag (node domain : Nat) (g : FlowRx → FlowRx) (s : State) : (modRx node domain g s).drag = s.drag := rfl

@[simp] theorem modRx_lease (node domain : Nat) (g : FlowRx → FlowRx) (s : State) : (modRx node domain g s).lease = s.lease := rfl

@[simp] theorem modRx_events (node domain : Nat) (g : FlowRx → FlowRx) (s : State) : (modRx node domain g s).events = s.events := rfl

@[simp] theorem modRx_sec (node domain : Nat) (g : FlowRx → FlowRx) (s : State) : (modRx node domain g s).sec = s.sec := rfl

@[simp] theorem modRx_parts (node domain : Nat) (g : FlowRx → FlowRx) (s : State) : (modRx node domain g s).parts = s.parts := rfl

@[simp] theorem modRx_tiles (node domain : Nat) (g : FlowRx → FlowRx) (s : State) : (modRx node domain g s).tiles = s.tiles := rfl

@[simp] theorem modRx_mem (node domain : Nat) (g : FlowRx → FlowRx) (s : State) : (modRx node domain g s).mem = s.mem := rfl

@[simp] theorem modRx_ecc (node domain : Nat) (g : FlowRx → FlowRx) (s : State) : (modRx node domain g s).ecc = s.ecc := rfl

@[simp] theorem modRx_mesh (node domain : Nat) (g : FlowRx → FlowRx) (s : State) : (modRx node domain g s).mesh = s.mesh := rfl

@[simp] theorem modRx_crest (node domain : Nat) (g : FlowRx → FlowRx) (s : State) : (modRx node domain g s).crest = s.crest := rfl

@[simp] theorem modRx_settings (node domain : Nat) (g : FlowRx → FlowRx) (s : State) : (modRx node domain g s).settings = s.settings := rfl

@[simp] theorem modRx_pilot (node domain : Nat) (g : FlowRx → FlowRx) (s : State) : (modRx node domain g s).pilot = s.pilot := rfl

@[simp] theorem modRx_test (node domain : Nat) (g : FlowRx → FlowRx) (s : State) : (modRx node domain g s).test = s.test := rfl

@[simp] theorem modRx_ident (node domain : Nat) (g : FlowRx → FlowRx) (s : State) : (modRx node domain g s).ident = s.ident := rfl

@[simp] theorem modRx_regs (node domain : Nat) (g : FlowRx → FlowRx) (s : State) : (modRx node domain g s).regs = s.regs := rfl

@[simp] theorem modRx_freeCount (node domain : Nat) (g : FlowRx → FlowRx) (s : State) : (modRx node domain g s).freeCount = s.freeCount := rfl

/-! ## modPort -/

@[simp] theorem modPort_pending (i : Nat) (g : Port → Port) (s : State) : (modPort i g s).pending = s.pending := rfl

@[simp] theorem modPort_time (i : Nat) (g : Port → Port) (s : State) : (modPort i g s).time = s.time := rfl

@[simp] theorem modPort_clk (i : Nat) (g : Port → Port) (s : State) : (modPort i g s).clk = s.clk := rfl

@[simp] theorem modPort_fld (i : Nat) (g : Port → Port) (s : State) : (modPort i g s).fld = s.fld := rfl

@[simp] theorem modPort_power (i : Nat) (g : Port → Port) (s : State) : (modPort i g s).power = s.power := rfl

@[simp] theorem modPort_assay (i : Nat) (g : Port → Port) (s : State) : (modPort i g s).assay = s.assay := rfl

@[simp] theorem modPort_ledger (i : Nat) (g : Port → Port) (s : State) : (modPort i g s).ledger = s.ledger := rfl

@[simp] theorem modPort_cope (i : Nat) (g : Port → Port) (s : State) : (modPort i g s).cope = s.cope := rfl

@[simp] theorem modPort_drag (i : Nat) (g : Port → Port) (s : State) : (modPort i g s).drag = s.drag := rfl

@[simp] theorem modPort_lease (i : Nat) (g : Port → Port) (s : State) : (modPort i g s).lease = s.lease := rfl

@[simp] theorem modPort_events (i : Nat) (g : Port → Port) (s : State) : (modPort i g s).events = s.events := rfl

@[simp] theorem modPort_sec (i : Nat) (g : Port → Port) (s : State) : (modPort i g s).sec = s.sec := rfl

@[simp] theorem modPort_parts (i : Nat) (g : Port → Port) (s : State) : (modPort i g s).parts = s.parts := rfl

@[simp] theorem modPort_tiles (i : Nat) (g : Port → Port) (s : State) : (modPort i g s).tiles = s.tiles := rfl

@[simp] theorem modPort_mem (i : Nat) (g : Port → Port) (s : State) : (modPort i g s).mem = s.mem := rfl

@[simp] theorem modPort_ecc (i : Nat) (g : Port → Port) (s : State) : (modPort i g s).ecc = s.ecc := rfl

@[simp] theorem modPort_mesh (i : Nat) (g : Port → Port) (s : State) : (modPort i g s).mesh = s.mesh := rfl

@[simp] theorem modPort_crest (i : Nat) (g : Port → Port) (s : State) : (modPort i g s).crest = s.crest := rfl

@[simp] theorem modPort_settings (i : Nat) (g : Port → Port) (s : State) : (modPort i g s).settings = s.settings := rfl

@[simp] theorem modPort_pilot (i : Nat) (g : Port → Port) (s : State) : (modPort i g s).pilot = s.pilot := rfl

@[simp] theorem modPort_test (i : Nat) (g : Port → Port) (s : State) : (modPort i g s).test = s.test := rfl

@[simp] theorem modPort_ident (i : Nat) (g : Port → Port) (s : State) : (modPort i g s).ident = s.ident := rfl

@[simp] theorem modPort_regs (i : Nat) (g : Port → Port) (s : State) : (modPort i g s).regs = s.regs := rfl

@[simp] theorem modPort_freeCount (i : Nat) (g : Port → Port) (s : State) : (modPort i g s).freeCount = s.freeCount := rfl

/-! ## modPin -/

@[simp] theorem modPin_pending (i : Nat) (g : Pin → Pin) (s : State) : (modPin i g s).pending = s.pending := rfl

@[simp] theorem modPin_time (i : Nat) (g : Pin → Pin) (s : State) : (modPin i g s).time = s.time := rfl

@[simp] theorem modPin_clk (i : Nat) (g : Pin → Pin) (s : State) : (modPin i g s).clk = s.clk := rfl

@[simp] theorem modPin_fld (i : Nat) (g : Pin → Pin) (s : State) : (modPin i g s).fld = s.fld := rfl

@[simp] theorem modPin_power (i : Nat) (g : Pin → Pin) (s : State) : (modPin i g s).power = s.power := rfl

@[simp] theorem modPin_assay (i : Nat) (g : Pin → Pin) (s : State) : (modPin i g s).assay = s.assay := rfl

@[simp] theorem modPin_ledger (i : Nat) (g : Pin → Pin) (s : State) : (modPin i g s).ledger = s.ledger := rfl

@[simp] theorem modPin_cope (i : Nat) (g : Pin → Pin) (s : State) : (modPin i g s).cope = s.cope := rfl

@[simp] theorem modPin_drag (i : Nat) (g : Pin → Pin) (s : State) : (modPin i g s).drag = s.drag := rfl

@[simp] theorem modPin_lease (i : Nat) (g : Pin → Pin) (s : State) : (modPin i g s).lease = s.lease := rfl

@[simp] theorem modPin_events (i : Nat) (g : Pin → Pin) (s : State) : (modPin i g s).events = s.events := rfl

@[simp] theorem modPin_sec (i : Nat) (g : Pin → Pin) (s : State) : (modPin i g s).sec = s.sec := rfl

@[simp] theorem modPin_parts (i : Nat) (g : Pin → Pin) (s : State) : (modPin i g s).parts = s.parts := rfl

@[simp] theorem modPin_tiles (i : Nat) (g : Pin → Pin) (s : State) : (modPin i g s).tiles = s.tiles := rfl

@[simp] theorem modPin_mem (i : Nat) (g : Pin → Pin) (s : State) : (modPin i g s).mem = s.mem := rfl

@[simp] theorem modPin_ecc (i : Nat) (g : Pin → Pin) (s : State) : (modPin i g s).ecc = s.ecc := rfl

@[simp] theorem modPin_mesh (i : Nat) (g : Pin → Pin) (s : State) : (modPin i g s).mesh = s.mesh := rfl

@[simp] theorem modPin_crest (i : Nat) (g : Pin → Pin) (s : State) : (modPin i g s).crest = s.crest := rfl

@[simp] theorem modPin_fabric (i : Nat) (g : Pin → Pin) (s : State) : (modPin i g s).fabric = s.fabric := rfl

@[simp] theorem modPin_settings (i : Nat) (g : Pin → Pin) (s : State) : (modPin i g s).settings = s.settings := rfl

@[simp] theorem modPin_test (i : Nat) (g : Pin → Pin) (s : State) : (modPin i g s).test = s.test := rfl

@[simp] theorem modPin_ident (i : Nat) (g : Pin → Pin) (s : State) : (modPin i g s).ident = s.ident := rfl

@[simp] theorem modPin_regs (i : Nat) (g : Pin → Pin) (s : State) : (modPin i g s).regs = s.regs := rfl

@[simp] theorem modPin_freeCount (i : Nat) (g : Pin → Pin) (s : State) : (modPin i g s).freeCount = s.freeCount := rfl

/-! ## modSlots -/

@[simp] theorem modSlots_pending (d : Nat) (g : KeySlots → KeySlots) (s : State) : (modSlots d g s).pending = s.pending := rfl

@[simp] theorem modSlots_time (d : Nat) (g : KeySlots → KeySlots) (s : State) : (modSlots d g s).time = s.time := rfl

@[simp] theorem modSlots_clk (d : Nat) (g : KeySlots → KeySlots) (s : State) : (modSlots d g s).clk = s.clk := rfl

@[simp] theorem modSlots_fld (d : Nat) (g : KeySlots → KeySlots) (s : State) : (modSlots d g s).fld = s.fld := rfl

@[simp] theorem modSlots_power (d : Nat) (g : KeySlots → KeySlots) (s : State) : (modSlots d g s).power = s.power := rfl

@[simp] theorem modSlots_assay (d : Nat) (g : KeySlots → KeySlots) (s : State) : (modSlots d g s).assay = s.assay := rfl

@[simp] theorem modSlots_ledger (d : Nat) (g : KeySlots → KeySlots) (s : State) : (modSlots d g s).ledger = s.ledger := rfl

@[simp] theorem modSlots_cope (d : Nat) (g : KeySlots → KeySlots) (s : State) : (modSlots d g s).cope = s.cope := rfl

@[simp] theorem modSlots_drag (d : Nat) (g : KeySlots → KeySlots) (s : State) : (modSlots d g s).drag = s.drag := rfl

@[simp] theorem modSlots_lease (d : Nat) (g : KeySlots → KeySlots) (s : State) : (modSlots d g s).lease = s.lease := rfl

@[simp] theorem modSlots_events (d : Nat) (g : KeySlots → KeySlots) (s : State) : (modSlots d g s).events = s.events := rfl

@[simp] theorem modSlots_parts (d : Nat) (g : KeySlots → KeySlots) (s : State) : (modSlots d g s).parts = s.parts := rfl

@[simp] theorem modSlots_tiles (d : Nat) (g : KeySlots → KeySlots) (s : State) : (modSlots d g s).tiles = s.tiles := rfl

@[simp] theorem modSlots_mem (d : Nat) (g : KeySlots → KeySlots) (s : State) : (modSlots d g s).mem = s.mem := rfl

@[simp] theorem modSlots_ecc (d : Nat) (g : KeySlots → KeySlots) (s : State) : (modSlots d g s).ecc = s.ecc := rfl

@[simp] theorem modSlots_mesh (d : Nat) (g : KeySlots → KeySlots) (s : State) : (modSlots d g s).mesh = s.mesh := rfl

@[simp] theorem modSlots_crest (d : Nat) (g : KeySlots → KeySlots) (s : State) : (modSlots d g s).crest = s.crest := rfl

@[simp] theorem modSlots_fabric (d : Nat) (g : KeySlots → KeySlots) (s : State) : (modSlots d g s).fabric = s.fabric := rfl

@[simp] theorem modSlots_settings (d : Nat) (g : KeySlots → KeySlots) (s : State) : (modSlots d g s).settings = s.settings := rfl

@[simp] theorem modSlots_pilot (d : Nat) (g : KeySlots → KeySlots) (s : State) : (modSlots d g s).pilot = s.pilot := rfl

@[simp] theorem modSlots_test (d : Nat) (g : KeySlots → KeySlots) (s : State) : (modSlots d g s).test = s.test := rfl

@[simp] theorem modSlots_ident (d : Nat) (g : KeySlots → KeySlots) (s : State) : (modSlots d g s).ident = s.ident := rfl

@[simp] theorem modSlots_regs (d : Nat) (g : KeySlots → KeySlots) (s : State) : (modSlots d g s).regs = s.regs := rfl

@[simp] theorem modSlots_freeCount (d : Nat) (g : KeySlots → KeySlots) (s : State) : (modSlots d g s).freeCount = s.freeCount := rfl

/-! ## writeBytes -/

@[simp] theorem writeBytes_pending (key : Nat) (bs : List Byte) (s : State) : (writeBytes key bs s).pending = s.pending := rfl

@[simp] theorem writeBytes_time (key : Nat) (bs : List Byte) (s : State) : (writeBytes key bs s).time = s.time := rfl

@[simp] theorem writeBytes_clk (key : Nat) (bs : List Byte) (s : State) : (writeBytes key bs s).clk = s.clk := rfl

@[simp] theorem writeBytes_fld (key : Nat) (bs : List Byte) (s : State) : (writeBytes key bs s).fld = s.fld := rfl

@[simp] theorem writeBytes_power (key : Nat) (bs : List Byte) (s : State) : (writeBytes key bs s).power = s.power := rfl

@[simp] theorem writeBytes_assay (key : Nat) (bs : List Byte) (s : State) : (writeBytes key bs s).assay = s.assay := rfl

@[simp] theorem writeBytes_ledger (key : Nat) (bs : List Byte) (s : State) : (writeBytes key bs s).ledger = s.ledger := rfl

@[simp] theorem writeBytes_cope (key : Nat) (bs : List Byte) (s : State) : (writeBytes key bs s).cope = s.cope := rfl

@[simp] theorem writeBytes_drag (key : Nat) (bs : List Byte) (s : State) : (writeBytes key bs s).drag = s.drag := rfl

@[simp] theorem writeBytes_lease (key : Nat) (bs : List Byte) (s : State) : (writeBytes key bs s).lease = s.lease := rfl

@[simp] theorem writeBytes_events (key : Nat) (bs : List Byte) (s : State) : (writeBytes key bs s).events = s.events := rfl

@[simp] theorem writeBytes_sec (key : Nat) (bs : List Byte) (s : State) : (writeBytes key bs s).sec = s.sec := rfl

@[simp] theorem writeBytes_parts (key : Nat) (bs : List Byte) (s : State) : (writeBytes key bs s).parts = s.parts := rfl

@[simp] theorem writeBytes_tiles (key : Nat) (bs : List Byte) (s : State) : (writeBytes key bs s).tiles = s.tiles := rfl

@[simp] theorem writeBytes_mesh (key : Nat) (bs : List Byte) (s : State) : (writeBytes key bs s).mesh = s.mesh := rfl

@[simp] theorem writeBytes_crest (key : Nat) (bs : List Byte) (s : State) : (writeBytes key bs s).crest = s.crest := rfl

@[simp] theorem writeBytes_fabric (key : Nat) (bs : List Byte) (s : State) : (writeBytes key bs s).fabric = s.fabric := rfl

@[simp] theorem writeBytes_settings (key : Nat) (bs : List Byte) (s : State) : (writeBytes key bs s).settings = s.settings := rfl

@[simp] theorem writeBytes_pilot (key : Nat) (bs : List Byte) (s : State) : (writeBytes key bs s).pilot = s.pilot := rfl

@[simp] theorem writeBytes_test (key : Nat) (bs : List Byte) (s : State) : (writeBytes key bs s).test = s.test := rfl

@[simp] theorem writeBytes_ident (key : Nat) (bs : List Byte) (s : State) : (writeBytes key bs s).ident = s.ident := rfl

@[simp] theorem writeBytes_regs (key : Nat) (bs : List Byte) (s : State) : (writeBytes key bs s).regs = s.regs := rfl

@[simp] theorem writeBytes_freeCount (key : Nat) (bs : List Byte) (s : State) : (writeBytes key bs s).freeCount = s.freeCount := rfl

/-! ## addCycles -/

@[simp] theorem addCycles_pending (n : Nat) (s : State) : (addCycles n s).pending = s.pending := rfl

@[simp] theorem addCycles_clk (n : Nat) (s : State) : (addCycles n s).clk = s.clk := rfl

@[simp] theorem addCycles_fld (n : Nat) (s : State) : (addCycles n s).fld = s.fld := rfl

@[simp] theorem addCycles_power (n : Nat) (s : State) : (addCycles n s).power = s.power := rfl

@[simp] theorem addCycles_assay (n : Nat) (s : State) : (addCycles n s).assay = s.assay := rfl

@[simp] theorem addCycles_ledger (n : Nat) (s : State) : (addCycles n s).ledger = s.ledger := rfl

@[simp] theorem addCycles_cope (n : Nat) (s : State) : (addCycles n s).cope = s.cope := rfl

@[simp] theorem addCycles_drag (n : Nat) (s : State) : (addCycles n s).drag = s.drag := rfl

@[simp] theorem addCycles_lease (n : Nat) (s : State) : (addCycles n s).lease = s.lease := rfl

@[simp] theorem addCycles_events (n : Nat) (s : State) : (addCycles n s).events = s.events := rfl

@[simp] theorem addCycles_sec (n : Nat) (s : State) : (addCycles n s).sec = s.sec := rfl

@[simp] theorem addCycles_parts (n : Nat) (s : State) : (addCycles n s).parts = s.parts := rfl

@[simp] theorem addCycles_tiles (n : Nat) (s : State) : (addCycles n s).tiles = s.tiles := rfl

@[simp] theorem addCycles_mem (n : Nat) (s : State) : (addCycles n s).mem = s.mem := rfl

@[simp] theorem addCycles_ecc (n : Nat) (s : State) : (addCycles n s).ecc = s.ecc := rfl

@[simp] theorem addCycles_mesh (n : Nat) (s : State) : (addCycles n s).mesh = s.mesh := rfl

@[simp] theorem addCycles_crest (n : Nat) (s : State) : (addCycles n s).crest = s.crest := rfl

@[simp] theorem addCycles_fabric (n : Nat) (s : State) : (addCycles n s).fabric = s.fabric := rfl

@[simp] theorem addCycles_settings (n : Nat) (s : State) : (addCycles n s).settings = s.settings := rfl

@[simp] theorem addCycles_test (n : Nat) (s : State) : (addCycles n s).test = s.test := rfl

@[simp] theorem addCycles_ident (n : Nat) (s : State) : (addCycles n s).ident = s.ident := rfl

@[simp] theorem addCycles_regs (n : Nat) (s : State) : (addCycles n s).regs = s.regs := rfl

@[simp] theorem addCycles_freeCount (n : Nat) (s : State) : (addCycles n s).freeCount = s.freeCount := rfl

/-! ## withdraw -/

@[simp] theorem withdraw_pending (p : EvReq → Bool) (s : State) : (withdraw p s).pending = s.pending := rfl

@[simp] theorem withdraw_time (p : EvReq → Bool) (s : State) : (withdraw p s).time = s.time := rfl

@[simp] theorem withdraw_clk (p : EvReq → Bool) (s : State) : (withdraw p s).clk = s.clk := rfl

@[simp] theorem withdraw_fld (p : EvReq → Bool) (s : State) : (withdraw p s).fld = s.fld := rfl

@[simp] theorem withdraw_power (p : EvReq → Bool) (s : State) : (withdraw p s).power = s.power := rfl

@[simp] theorem withdraw_assay (p : EvReq → Bool) (s : State) : (withdraw p s).assay = s.assay := rfl

@[simp] theorem withdraw_ledger (p : EvReq → Bool) (s : State) : (withdraw p s).ledger = s.ledger := rfl

@[simp] theorem withdraw_cope (p : EvReq → Bool) (s : State) : (withdraw p s).cope = s.cope := rfl

@[simp] theorem withdraw_drag (p : EvReq → Bool) (s : State) : (withdraw p s).drag = s.drag := rfl

@[simp] theorem withdraw_lease (p : EvReq → Bool) (s : State) : (withdraw p s).lease = s.lease := rfl

@[simp] theorem withdraw_sec (p : EvReq → Bool) (s : State) : (withdraw p s).sec = s.sec := rfl

@[simp] theorem withdraw_parts (p : EvReq → Bool) (s : State) : (withdraw p s).parts = s.parts := rfl

@[simp] theorem withdraw_tiles (p : EvReq → Bool) (s : State) : (withdraw p s).tiles = s.tiles := rfl

@[simp] theorem withdraw_mem (p : EvReq → Bool) (s : State) : (withdraw p s).mem = s.mem := rfl

@[simp] theorem withdraw_ecc (p : EvReq → Bool) (s : State) : (withdraw p s).ecc = s.ecc := rfl

@[simp] theorem withdraw_mesh (p : EvReq → Bool) (s : State) : (withdraw p s).mesh = s.mesh := rfl

@[simp] theorem withdraw_crest (p : EvReq → Bool) (s : State) : (withdraw p s).crest = s.crest := rfl

@[simp] theorem withdraw_fabric (p : EvReq → Bool) (s : State) : (withdraw p s).fabric = s.fabric := rfl

@[simp] theorem withdraw_settings (p : EvReq → Bool) (s : State) : (withdraw p s).settings = s.settings := rfl

@[simp] theorem withdraw_pilot (p : EvReq → Bool) (s : State) : (withdraw p s).pilot = s.pilot := rfl

@[simp] theorem withdraw_test (p : EvReq → Bool) (s : State) : (withdraw p s).test = s.test := rfl

@[simp] theorem withdraw_ident (p : EvReq → Bool) (s : State) : (withdraw p s).ident = s.ident := rfl

@[simp] theorem withdraw_regs (p : EvReq → Bool) (s : State) : (withdraw p s).regs = s.regs := rfl

@[simp] theorem withdraw_freeCount (p : EvReq → Bool) (s : State) : (withdraw p s).freeCount = s.freeCount := rfl

/-! ## leaveMesh -/

@[simp] theorem leaveMesh_pending (p : MeshMsg → Bool) (s : State) : (leaveMesh p s).pending = s.pending := by
  unfold leaveMesh; split <;> rfl

@[simp] theorem leaveMesh_time (p : MeshMsg → Bool) (s : State) : (leaveMesh p s).time = s.time := by
  unfold leaveMesh; split <;> rfl

@[simp] theorem leaveMesh_clk (p : MeshMsg → Bool) (s : State) : (leaveMesh p s).clk = s.clk := by
  unfold leaveMesh; split <;> rfl

@[simp] theorem leaveMesh_fld (p : MeshMsg → Bool) (s : State) : (leaveMesh p s).fld = s.fld := by
  unfold leaveMesh; split <;> rfl

@[simp] theorem leaveMesh_power (p : MeshMsg → Bool) (s : State) : (leaveMesh p s).power = s.power := by
  unfold leaveMesh; split <;> rfl

@[simp] theorem leaveMesh_assay (p : MeshMsg → Bool) (s : State) : (leaveMesh p s).assay = s.assay := by
  unfold leaveMesh; split <;> rfl

@[simp] theorem leaveMesh_ledger (p : MeshMsg → Bool) (s : State) : (leaveMesh p s).ledger = s.ledger := by
  unfold leaveMesh; split <;> rfl

@[simp] theorem leaveMesh_cope (p : MeshMsg → Bool) (s : State) : (leaveMesh p s).cope = s.cope := by
  unfold leaveMesh; split <;> rfl

@[simp] theorem leaveMesh_drag (p : MeshMsg → Bool) (s : State) : (leaveMesh p s).drag = s.drag := by
  unfold leaveMesh; split <;> rfl

@[simp] theorem leaveMesh_lease (p : MeshMsg → Bool) (s : State) : (leaveMesh p s).lease = s.lease := by
  unfold leaveMesh; split <;> rfl

@[simp] theorem leaveMesh_events (p : MeshMsg → Bool) (s : State) : (leaveMesh p s).events = s.events := by
  unfold leaveMesh; split <;> rfl

@[simp] theorem leaveMesh_sec (p : MeshMsg → Bool) (s : State) : (leaveMesh p s).sec = s.sec := by
  unfold leaveMesh; split <;> rfl

@[simp] theorem leaveMesh_parts (p : MeshMsg → Bool) (s : State) : (leaveMesh p s).parts = s.parts := by
  unfold leaveMesh; split <;> rfl

@[simp] theorem leaveMesh_tiles (p : MeshMsg → Bool) (s : State) : (leaveMesh p s).tiles = s.tiles := by
  unfold leaveMesh; split <;> rfl

@[simp] theorem leaveMesh_mem (p : MeshMsg → Bool) (s : State) : (leaveMesh p s).mem = s.mem := by
  unfold leaveMesh; split <;> rfl

@[simp] theorem leaveMesh_ecc (p : MeshMsg → Bool) (s : State) : (leaveMesh p s).ecc = s.ecc := by
  unfold leaveMesh; split <;> rfl

@[simp] theorem leaveMesh_crest (p : MeshMsg → Bool) (s : State) : (leaveMesh p s).crest = s.crest := by
  unfold leaveMesh; split <;> rfl

@[simp] theorem leaveMesh_fabric (p : MeshMsg → Bool) (s : State) : (leaveMesh p s).fabric = s.fabric := by
  unfold leaveMesh; split <;> rfl

@[simp] theorem leaveMesh_settings (p : MeshMsg → Bool) (s : State) : (leaveMesh p s).settings = s.settings := by
  unfold leaveMesh; split <;> rfl

@[simp] theorem leaveMesh_pilot (p : MeshMsg → Bool) (s : State) : (leaveMesh p s).pilot = s.pilot := by
  unfold leaveMesh; split <;> rfl

@[simp] theorem leaveMesh_test (p : MeshMsg → Bool) (s : State) : (leaveMesh p s).test = s.test := by
  unfold leaveMesh; split <;> rfl

@[simp] theorem leaveMesh_ident (p : MeshMsg → Bool) (s : State) : (leaveMesh p s).ident = s.ident := by
  unfold leaveMesh; split <;> rfl

@[simp] theorem leaveMesh_regs (p : MeshMsg → Bool) (s : State) : (leaveMesh p s).regs = s.regs := by
  unfold leaveMesh; split <;> rfl

@[simp] theorem leaveMesh_freeCount (p : MeshMsg → Bool) (s : State) : (leaveMesh p s).freeCount = s.freeCount := by
  unfold leaveMesh; split <;> rfl

/-! ## land -/

@[simp] theorem land_pending (h : Head) (control : Bool) (kind : Nat) (s : State) : (land h control kind s).pending = s.pending := leaveMesh_pending _ _

@[simp] theorem land_time (h : Head) (control : Bool) (kind : Nat) (s : State) : (land h control kind s).time = s.time := leaveMesh_time _ _

@[simp] theorem land_clk (h : Head) (control : Bool) (kind : Nat) (s : State) : (land h control kind s).clk = s.clk := leaveMesh_clk _ _

@[simp] theorem land_fld (h : Head) (control : Bool) (kind : Nat) (s : State) : (land h control kind s).fld = s.fld := leaveMesh_fld _ _

@[simp] theorem land_power (h : Head) (control : Bool) (kind : Nat) (s : State) : (land h control kind s).power = s.power := leaveMesh_power _ _

@[simp] theorem land_assay (h : Head) (control : Bool) (kind : Nat) (s : State) : (land h control kind s).assay = s.assay := leaveMesh_assay _ _

@[simp] theorem land_ledger (h : Head) (control : Bool) (kind : Nat) (s : State) : (land h control kind s).ledger = s.ledger := leaveMesh_ledger _ _

@[simp] theorem land_cope (h : Head) (control : Bool) (kind : Nat) (s : State) : (land h control kind s).cope = s.cope := leaveMesh_cope _ _

@[simp] theorem land_drag (h : Head) (control : Bool) (kind : Nat) (s : State) : (land h control kind s).drag = s.drag := leaveMesh_drag _ _

@[simp] theorem land_lease (h : Head) (control : Bool) (kind : Nat) (s : State) : (land h control kind s).lease = s.lease := leaveMesh_lease _ _

@[simp] theorem land_events (h : Head) (control : Bool) (kind : Nat) (s : State) : (land h control kind s).events = s.events := leaveMesh_events _ _

@[simp] theorem land_sec (h : Head) (control : Bool) (kind : Nat) (s : State) : (land h control kind s).sec = s.sec := leaveMesh_sec _ _

@[simp] theorem land_parts (h : Head) (control : Bool) (kind : Nat) (s : State) : (land h control kind s).parts = s.parts := leaveMesh_parts _ _

@[simp] theorem land_tiles (h : Head) (control : Bool) (kind : Nat) (s : State) : (land h control kind s).tiles = s.tiles := leaveMesh_tiles _ _

@[simp] theorem land_mem (h : Head) (control : Bool) (kind : Nat) (s : State) : (land h control kind s).mem = s.mem := leaveMesh_mem _ _

@[simp] theorem land_ecc (h : Head) (control : Bool) (kind : Nat) (s : State) : (land h control kind s).ecc = s.ecc := leaveMesh_ecc _ _

@[simp] theorem land_crest (h : Head) (control : Bool) (kind : Nat) (s : State) : (land h control kind s).crest = s.crest := leaveMesh_crest _ _

@[simp] theorem land_fabric (h : Head) (control : Bool) (kind : Nat) (s : State) : (land h control kind s).fabric = s.fabric := leaveMesh_fabric _ _

@[simp] theorem land_settings (h : Head) (control : Bool) (kind : Nat) (s : State) : (land h control kind s).settings = s.settings := leaveMesh_settings _ _

@[simp] theorem land_pilot (h : Head) (control : Bool) (kind : Nat) (s : State) : (land h control kind s).pilot = s.pilot := leaveMesh_pilot _ _

@[simp] theorem land_test (h : Head) (control : Bool) (kind : Nat) (s : State) : (land h control kind s).test = s.test := leaveMesh_test _ _

@[simp] theorem land_ident (h : Head) (control : Bool) (kind : Nat) (s : State) : (land h control kind s).ident = s.ident := leaveMesh_ident _ _

@[simp] theorem land_regs (h : Head) (control : Bool) (kind : Nat) (s : State) : (land h control kind s).regs = s.regs := leaveMesh_regs _ _

@[simp] theorem land_freeCount (h : Head) (control : Bool) (kind : Nat) (s : State) : (land h control kind s).freeCount = s.freeCount := leaveMesh_freeCount _ _

/-! ## ringCount -/

@[simp] theorem ringCount_pending (account n : Nat) (s : State) : (ringCount account n s).pending = s.pending := rfl

@[simp] theorem ringCount_time (account n : Nat) (s : State) : (ringCount account n s).time = s.time := rfl

@[simp] theorem ringCount_clk (account n : Nat) (s : State) : (ringCount account n s).clk = s.clk := rfl

@[simp] theorem ringCount_fld (account n : Nat) (s : State) : (ringCount account n s).fld = s.fld := rfl

@[simp] theorem ringCount_assay (account n : Nat) (s : State) : (ringCount account n s).assay = s.assay := rfl

@[simp] theorem ringCount_ledger (account n : Nat) (s : State) : (ringCount account n s).ledger = s.ledger := rfl

@[simp] theorem ringCount_cope (account n : Nat) (s : State) : (ringCount account n s).cope = s.cope := rfl

@[simp] theorem ringCount_drag (account n : Nat) (s : State) : (ringCount account n s).drag = s.drag := rfl

@[simp] theorem ringCount_lease (account n : Nat) (s : State) : (ringCount account n s).lease = s.lease := rfl

@[simp] theorem ringCount_events (account n : Nat) (s : State) : (ringCount account n s).events = s.events := rfl

@[simp] theorem ringCount_sec (account n : Nat) (s : State) : (ringCount account n s).sec = s.sec := rfl

@[simp] theorem ringCount_parts (account n : Nat) (s : State) : (ringCount account n s).parts = s.parts := rfl

@[simp] theorem ringCount_tiles (account n : Nat) (s : State) : (ringCount account n s).tiles = s.tiles := rfl

@[simp] theorem ringCount_mem (account n : Nat) (s : State) : (ringCount account n s).mem = s.mem := rfl

@[simp] theorem ringCount_ecc (account n : Nat) (s : State) : (ringCount account n s).ecc = s.ecc := rfl

@[simp] theorem ringCount_mesh (account n : Nat) (s : State) : (ringCount account n s).mesh = s.mesh := rfl

@[simp] theorem ringCount_crest (account n : Nat) (s : State) : (ringCount account n s).crest = s.crest := rfl

@[simp] theorem ringCount_fabric (account n : Nat) (s : State) : (ringCount account n s).fabric = s.fabric := rfl

@[simp] theorem ringCount_settings (account n : Nat) (s : State) : (ringCount account n s).settings = s.settings := rfl

@[simp] theorem ringCount_pilot (account n : Nat) (s : State) : (ringCount account n s).pilot = s.pilot := rfl

@[simp] theorem ringCount_test (account n : Nat) (s : State) : (ringCount account n s).test = s.test := rfl

@[simp] theorem ringCount_ident (account n : Nat) (s : State) : (ringCount account n s).ident = s.ident := rfl

@[simp] theorem ringCount_regs (account n : Nat) (s : State) : (ringCount account n s).regs = s.regs := rfl

@[simp] theorem ringCount_freeCount (account n : Nat) (s : State) : (ringCount account n s).freeCount = s.freeCount := rfl

/-! ## modPart -/

@[simp] theorem modPart_pending (p : Nat) (g : Part → Part) (s : State) : (modPart p g s).pending = s.pending := by
  unfold modPart
  split <;> rfl

@[simp] theorem modPart_time (p : Nat) (g : Part → Part) (s : State) : (modPart p g s).time = s.time := by
  unfold modPart
  split <;> rfl

@[simp] theorem modPart_clk (p : Nat) (g : Part → Part) (s : State) : (modPart p g s).clk = s.clk := by
  unfold modPart
  split <;> rfl

@[simp] theorem modPart_fld (p : Nat) (g : Part → Part) (s : State) : (modPart p g s).fld = s.fld := by
  unfold modPart
  split <;> rfl

@[simp] theorem modPart_power (p : Nat) (g : Part → Part) (s : State) : (modPart p g s).power = s.power := by
  unfold modPart
  split <;> rfl

@[simp] theorem modPart_assay (p : Nat) (g : Part → Part) (s : State) : (modPart p g s).assay = s.assay := by
  unfold modPart
  split <;> rfl

@[simp] theorem modPart_ledger (p : Nat) (g : Part → Part) (s : State) : (modPart p g s).ledger = s.ledger := by
  unfold modPart
  split <;> rfl

@[simp] theorem modPart_cope (p : Nat) (g : Part → Part) (s : State) : (modPart p g s).cope = s.cope := by
  unfold modPart
  split <;> rfl

@[simp] theorem modPart_drag (p : Nat) (g : Part → Part) (s : State) : (modPart p g s).drag = s.drag := by
  unfold modPart
  split <;> rfl

@[simp] theorem modPart_lease (p : Nat) (g : Part → Part) (s : State) : (modPart p g s).lease = s.lease := by
  unfold modPart
  split <;> rfl

@[simp] theorem modPart_events (p : Nat) (g : Part → Part) (s : State) : (modPart p g s).events = s.events := by
  unfold modPart
  split <;> rfl

@[simp] theorem modPart_sec (p : Nat) (g : Part → Part) (s : State) : (modPart p g s).sec = s.sec := by
  unfold modPart
  split <;> rfl

@[simp] theorem modPart_tiles (p : Nat) (g : Part → Part) (s : State) : (modPart p g s).tiles = s.tiles := by
  unfold modPart
  split <;> rfl

@[simp] theorem modPart_mem (p : Nat) (g : Part → Part) (s : State) : (modPart p g s).mem = s.mem := by
  unfold modPart
  split <;> rfl

@[simp] theorem modPart_ecc (p : Nat) (g : Part → Part) (s : State) : (modPart p g s).ecc = s.ecc := by
  unfold modPart
  split <;> rfl

@[simp] theorem modPart_mesh (p : Nat) (g : Part → Part) (s : State) : (modPart p g s).mesh = s.mesh := by
  unfold modPart
  split <;> rfl

@[simp] theorem modPart_crest (p : Nat) (g : Part → Part) (s : State) : (modPart p g s).crest = s.crest := by
  unfold modPart
  split <;> rfl

@[simp] theorem modPart_fabric (p : Nat) (g : Part → Part) (s : State) : (modPart p g s).fabric = s.fabric := by
  unfold modPart
  split <;> rfl

@[simp] theorem modPart_settings (p : Nat) (g : Part → Part) (s : State) : (modPart p g s).settings = s.settings := by
  unfold modPart
  split <;> rfl

@[simp] theorem modPart_pilot (p : Nat) (g : Part → Part) (s : State) : (modPart p g s).pilot = s.pilot := by
  unfold modPart
  split <;> rfl

@[simp] theorem modPart_test (p : Nat) (g : Part → Part) (s : State) : (modPart p g s).test = s.test := by
  unfold modPart
  split <;> rfl

@[simp] theorem modPart_ident (p : Nat) (g : Part → Part) (s : State) : (modPart p g s).ident = s.ident := by
  unfold modPart
  split <;> rfl

@[simp] theorem modPart_regs (p : Nat) (g : Part → Part) (s : State) : (modPart p g s).regs = s.regs := by
  unfold modPart
  split <;> rfl

@[simp] theorem modPart_freeCount (p : Nat) (g : Part → Part) (s : State) : (modPart p g s).freeCount = s.freeCount := by
  unfold modPart
  split <;> rfl

/-! ## raise -/

@[simp] theorem raise_pending (e : EvReq) (s : State) : (raise e s).pending = s.pending := by
  unfold raise
  split
  · rfl
  · split <;> rfl

@[simp] theorem raise_time (e : EvReq) (s : State) : (raise e s).time = s.time := by
  unfold raise
  split
  · rfl
  · split <;> rfl

@[simp] theorem raise_clk (e : EvReq) (s : State) : (raise e s).clk = s.clk := by
  unfold raise
  split
  · rfl
  · split <;> rfl

@[simp] theorem raise_fld (e : EvReq) (s : State) : (raise e s).fld = s.fld := by
  unfold raise
  split
  · rfl
  · split <;> rfl

@[simp] theorem raise_power (e : EvReq) (s : State) : (raise e s).power = s.power := by
  unfold raise
  split
  · rfl
  · split <;> rfl

@[simp] theorem raise_assay (e : EvReq) (s : State) : (raise e s).assay = s.assay := by
  unfold raise
  split
  · rfl
  · split <;> rfl

@[simp] theorem raise_ledger (e : EvReq) (s : State) : (raise e s).ledger = s.ledger := by
  unfold raise
  split
  · rfl
  · split <;> rfl

@[simp] theorem raise_cope (e : EvReq) (s : State) : (raise e s).cope = s.cope := by
  unfold raise
  split
  · rfl
  · split <;> rfl

@[simp] theorem raise_drag (e : EvReq) (s : State) : (raise e s).drag = s.drag := by
  unfold raise
  split
  · rfl
  · split <;> rfl

@[simp] theorem raise_lease (e : EvReq) (s : State) : (raise e s).lease = s.lease := by
  unfold raise
  split
  · rfl
  · split <;> rfl

@[simp] theorem raise_sec (e : EvReq) (s : State) : (raise e s).sec = s.sec := by
  unfold raise
  split
  · rfl
  · split <;> rfl

@[simp] theorem raise_parts (e : EvReq) (s : State) : (raise e s).parts = s.parts := by
  unfold raise
  split
  · rfl
  · split <;> rfl

@[simp] theorem raise_tiles (e : EvReq) (s : State) : (raise e s).tiles = s.tiles := by
  unfold raise
  split
  · rfl
  · split <;> rfl

@[simp] theorem raise_mem (e : EvReq) (s : State) : (raise e s).mem = s.mem := by
  unfold raise
  split
  · rfl
  · split <;> rfl

@[simp] theorem raise_ecc (e : EvReq) (s : State) : (raise e s).ecc = s.ecc := by
  unfold raise
  split
  · rfl
  · split <;> rfl

@[simp] theorem raise_mesh (e : EvReq) (s : State) : (raise e s).mesh = s.mesh := by
  unfold raise
  split
  · rfl
  · split <;> rfl

@[simp] theorem raise_crest (e : EvReq) (s : State) : (raise e s).crest = s.crest := by
  unfold raise
  split
  · rfl
  · split <;> rfl

@[simp] theorem raise_fabric (e : EvReq) (s : State) : (raise e s).fabric = s.fabric := by
  unfold raise
  split
  · rfl
  · split <;> rfl

@[simp] theorem raise_settings (e : EvReq) (s : State) : (raise e s).settings = s.settings := by
  unfold raise
  split
  · rfl
  · split <;> rfl

@[simp] theorem raise_pilot (e : EvReq) (s : State) : (raise e s).pilot = s.pilot := by
  unfold raise
  split
  · rfl
  · split <;> rfl

@[simp] theorem raise_test (e : EvReq) (s : State) : (raise e s).test = s.test := by
  unfold raise
  split
  · rfl
  · split <;> rfl

@[simp] theorem raise_ident (e : EvReq) (s : State) : (raise e s).ident = s.ident := by
  unfold raise
  split
  · rfl
  · split <;> rfl

@[simp] theorem raise_regs (e : EvReq) (s : State) : (raise e s).regs = s.regs := by
  unfold raise
  split
  · rfl
  · split <;> rfl

@[simp] theorem raise_freeCount (e : EvReq) (s : State) : (raise e s).freeCount = s.freeCount := by
  unfold raise
  split
  · rfl
  · split <;> rfl

/-! ## advanceTo -/

@[simp] theorem advanceTo_pending (t : Nat) (s : State) : (advanceTo t s).pending = s.pending := by
  cases s
  rfl

@[simp] theorem advanceTo_clk (t : Nat) (s : State) : (advanceTo t s).clk = s.clk := by
  cases s
  rfl

@[simp] theorem advanceTo_fld (t : Nat) (s : State) : (advanceTo t s).fld = s.fld := by
  cases s
  rfl

@[simp] theorem advanceTo_power (t : Nat) (s : State) : (advanceTo t s).power = s.power := by
  cases s
  rfl

@[simp] theorem advanceTo_assay (t : Nat) (s : State) : (advanceTo t s).assay = s.assay := by
  cases s
  rfl

@[simp] theorem advanceTo_ledger (t : Nat) (s : State) : (advanceTo t s).ledger = s.ledger := by
  cases s
  rfl

@[simp] theorem advanceTo_cope (t : Nat) (s : State) : (advanceTo t s).cope = s.cope := by
  cases s
  rfl

@[simp] theorem advanceTo_drag (t : Nat) (s : State) : (advanceTo t s).drag = s.drag := by
  cases s
  rfl

@[simp] theorem advanceTo_lease (t : Nat) (s : State) : (advanceTo t s).lease = s.lease := by
  cases s
  rfl

@[simp] theorem advanceTo_events (t : Nat) (s : State) : (advanceTo t s).events = s.events := by
  cases s
  rfl

@[simp] theorem advanceTo_sec (t : Nat) (s : State) : (advanceTo t s).sec = s.sec := by
  cases s
  rfl

@[simp] theorem advanceTo_parts (t : Nat) (s : State) : (advanceTo t s).parts = s.parts := by
  cases s
  rfl

@[simp] theorem advanceTo_tiles (t : Nat) (s : State) : (advanceTo t s).tiles = s.tiles := by
  cases s
  rfl

@[simp] theorem advanceTo_mem (t : Nat) (s : State) : (advanceTo t s).mem = s.mem := by
  cases s
  rfl

@[simp] theorem advanceTo_ecc (t : Nat) (s : State) : (advanceTo t s).ecc = s.ecc := by
  cases s
  rfl

@[simp] theorem advanceTo_mesh (t : Nat) (s : State) : (advanceTo t s).mesh = s.mesh := by
  cases s
  rfl

@[simp] theorem advanceTo_crest (t : Nat) (s : State) : (advanceTo t s).crest = s.crest := by
  cases s
  rfl

@[simp] theorem advanceTo_fabric (t : Nat) (s : State) : (advanceTo t s).fabric = s.fabric := by
  cases s
  rfl

@[simp] theorem advanceTo_settings (t : Nat) (s : State) : (advanceTo t s).settings = s.settings := by
  cases s
  rfl

@[simp] theorem advanceTo_test (t : Nat) (s : State) : (advanceTo t s).test = s.test := by
  cases s
  rfl

@[simp] theorem advanceTo_ident (t : Nat) (s : State) : (advanceTo t s).ident = s.ident := by
  cases s
  rfl

@[simp] theorem advanceTo_regs (t : Nat) (s : State) : (advanceTo t s).regs = s.regs := by
  cases s
  rfl

@[simp] theorem advanceTo_freeCount (t : Nat) (s : State) : (advanceTo t s).freeCount = s.freeCount := by
  cases s
  rfl

/-! ## enqueue -/

@[simp] theorem enqueue_pending (p : Packet) (s : State) : (enqueue p s).pending = s.pending := by
  unfold enqueue
  split
  · simp
  · simp

@[simp] theorem enqueue_time (p : Packet) (s : State) : (enqueue p s).time = s.time := by
  unfold enqueue
  split
  · simp
  · simp

@[simp] theorem enqueue_clk (p : Packet) (s : State) : (enqueue p s).clk = s.clk := by
  unfold enqueue
  split
  · simp
  · simp

@[simp] theorem enqueue_fld (p : Packet) (s : State) : (enqueue p s).fld = s.fld := by
  unfold enqueue
  split
  · simp
  · simp

@[simp] theorem enqueue_power (p : Packet) (s : State) : (enqueue p s).power = s.power := by
  unfold enqueue
  split
  · simp
  · simp

@[simp] theorem enqueue_assay (p : Packet) (s : State) : (enqueue p s).assay = s.assay := by
  unfold enqueue
  split
  · simp
  · simp

@[simp] theorem enqueue_ledger (p : Packet) (s : State) : (enqueue p s).ledger = s.ledger := by
  unfold enqueue
  split
  · simp
  · simp

@[simp] theorem enqueue_cope (p : Packet) (s : State) : (enqueue p s).cope = s.cope := by
  unfold enqueue
  split
  · simp
  · simp

@[simp] theorem enqueue_drag (p : Packet) (s : State) : (enqueue p s).drag = s.drag := by
  unfold enqueue
  split
  · simp
  · simp

@[simp] theorem enqueue_lease (p : Packet) (s : State) : (enqueue p s).lease = s.lease := by
  unfold enqueue
  split
  · simp
  · simp

@[simp] theorem enqueue_sec (p : Packet) (s : State) : (enqueue p s).sec = s.sec := by
  unfold enqueue
  split
  · simp
  · simp

@[simp] theorem enqueue_parts (p : Packet) (s : State) : (enqueue p s).parts = s.parts := by
  unfold enqueue
  split
  · simp
  · simp

@[simp] theorem enqueue_tiles (p : Packet) (s : State) : (enqueue p s).tiles = s.tiles := by
  unfold enqueue
  split
  · simp
  · simp

@[simp] theorem enqueue_mem (p : Packet) (s : State) : (enqueue p s).mem = s.mem := by
  unfold enqueue
  split
  · simp
  · simp

@[simp] theorem enqueue_ecc (p : Packet) (s : State) : (enqueue p s).ecc = s.ecc := by
  unfold enqueue
  split
  · simp
  · simp

@[simp] theorem enqueue_mesh (p : Packet) (s : State) : (enqueue p s).mesh = s.mesh := by
  unfold enqueue
  split
  · simp
  · simp

@[simp] theorem enqueue_crest (p : Packet) (s : State) : (enqueue p s).crest = s.crest := by
  unfold enqueue
  split
  · simp
  · simp

@[simp] theorem enqueue_settings (p : Packet) (s : State) : (enqueue p s).settings = s.settings := by
  unfold enqueue
  split
  · simp
  · simp

@[simp] theorem enqueue_pilot (p : Packet) (s : State) : (enqueue p s).pilot = s.pilot := by
  unfold enqueue
  split
  · simp
  · simp

@[simp] theorem enqueue_test (p : Packet) (s : State) : (enqueue p s).test = s.test := by
  unfold enqueue
  split
  · simp
  · simp

@[simp] theorem enqueue_ident (p : Packet) (s : State) : (enqueue p s).ident = s.ident := by
  unfold enqueue
  split
  · simp
  · simp

@[simp] theorem enqueue_regs (p : Packet) (s : State) : (enqueue p s).regs = s.regs := by
  unfold enqueue
  split
  · simp
  · simp

@[simp] theorem enqueue_freeCount (p : Packet) (s : State) : (enqueue p s).freeCount = s.freeCount := by
  unfold enqueue
  split
  · simp
  · simp

/-! ## sendPkt -/

@[simp] theorem sendPkt_pending (node domain opcode : Nat) (data : List Byte) (s : State) : (sendPkt node domain opcode data s).pending = s.pending := by simp [sendPkt]

@[simp] theorem sendPkt_time (node domain opcode : Nat) (data : List Byte) (s : State) : (sendPkt node domain opcode data s).time = s.time := by simp [sendPkt]

@[simp] theorem sendPkt_clk (node domain opcode : Nat) (data : List Byte) (s : State) : (sendPkt node domain opcode data s).clk = s.clk := by simp [sendPkt]

@[simp] theorem sendPkt_fld (node domain opcode : Nat) (data : List Byte) (s : State) : (sendPkt node domain opcode data s).fld = s.fld := by simp [sendPkt]

@[simp] theorem sendPkt_power (node domain opcode : Nat) (data : List Byte) (s : State) : (sendPkt node domain opcode data s).power = s.power := by simp [sendPkt]

@[simp] theorem sendPkt_assay (node domain opcode : Nat) (data : List Byte) (s : State) : (sendPkt node domain opcode data s).assay = s.assay := by simp [sendPkt]

@[simp] theorem sendPkt_ledger (node domain opcode : Nat) (data : List Byte) (s : State) : (sendPkt node domain opcode data s).ledger = s.ledger := by simp [sendPkt]

@[simp] theorem sendPkt_cope (node domain opcode : Nat) (data : List Byte) (s : State) : (sendPkt node domain opcode data s).cope = s.cope := by simp [sendPkt]

@[simp] theorem sendPkt_drag (node domain opcode : Nat) (data : List Byte) (s : State) : (sendPkt node domain opcode data s).drag = s.drag := by simp [sendPkt]

@[simp] theorem sendPkt_lease (node domain opcode : Nat) (data : List Byte) (s : State) : (sendPkt node domain opcode data s).lease = s.lease := by simp [sendPkt]

@[simp] theorem sendPkt_sec (node domain opcode : Nat) (data : List Byte) (s : State) : (sendPkt node domain opcode data s).sec = s.sec := by simp [sendPkt]

@[simp] theorem sendPkt_parts (node domain opcode : Nat) (data : List Byte) (s : State) : (sendPkt node domain opcode data s).parts = s.parts := by simp [sendPkt]

@[simp] theorem sendPkt_tiles (node domain opcode : Nat) (data : List Byte) (s : State) : (sendPkt node domain opcode data s).tiles = s.tiles := by simp [sendPkt]

@[simp] theorem sendPkt_mem (node domain opcode : Nat) (data : List Byte) (s : State) : (sendPkt node domain opcode data s).mem = s.mem := by simp [sendPkt]

@[simp] theorem sendPkt_ecc (node domain opcode : Nat) (data : List Byte) (s : State) : (sendPkt node domain opcode data s).ecc = s.ecc := by simp [sendPkt]

@[simp] theorem sendPkt_mesh (node domain opcode : Nat) (data : List Byte) (s : State) : (sendPkt node domain opcode data s).mesh = s.mesh := by simp [sendPkt]

@[simp] theorem sendPkt_crest (node domain opcode : Nat) (data : List Byte) (s : State) : (sendPkt node domain opcode data s).crest = s.crest := by simp [sendPkt]

@[simp] theorem sendPkt_settings (node domain opcode : Nat) (data : List Byte) (s : State) : (sendPkt node domain opcode data s).settings = s.settings := by simp [sendPkt]

@[simp] theorem sendPkt_pilot (node domain opcode : Nat) (data : List Byte) (s : State) : (sendPkt node domain opcode data s).pilot = s.pilot := by simp [sendPkt]

@[simp] theorem sendPkt_test (node domain opcode : Nat) (data : List Byte) (s : State) : (sendPkt node domain opcode data s).test = s.test := by simp [sendPkt]

@[simp] theorem sendPkt_ident (node domain opcode : Nat) (data : List Byte) (s : State) : (sendPkt node domain opcode data s).ident = s.ident := by simp [sendPkt]

@[simp] theorem sendPkt_regs (node domain opcode : Nat) (data : List Byte) (s : State) : (sendPkt node domain opcode data s).regs = s.regs := by simp [sendPkt]

@[simp] theorem sendPkt_freeCount (node domain opcode : Nat) (data : List Byte) (s : State) : (sendPkt node domain opcode data s).freeCount = s.freeCount := by simp [sendPkt]

/-! ## sdoReply -/

@[simp] theorem sdoReply_pending (code : Nat) (data : List Byte) (s : State) : (sdoReply code data s).pending = s.pending := rfl

@[simp] theorem sdoReply_time (code : Nat) (data : List Byte) (s : State) : (sdoReply code data s).time = s.time := rfl

@[simp] theorem sdoReply_clk (code : Nat) (data : List Byte) (s : State) : (sdoReply code data s).clk = s.clk := rfl

@[simp] theorem sdoReply_fld (code : Nat) (data : List Byte) (s : State) : (sdoReply code data s).fld = s.fld := rfl

@[simp] theorem sdoReply_power (code : Nat) (data : List Byte) (s : State) : (sdoReply code data s).power = s.power := rfl

@[simp] theorem sdoReply_assay (code : Nat) (data : List Byte) (s : State) : (sdoReply code data s).assay = s.assay := rfl

@[simp] theorem sdoReply_ledger (code : Nat) (data : List Byte) (s : State) : (sdoReply code data s).ledger = s.ledger := rfl

@[simp] theorem sdoReply_cope (code : Nat) (data : List Byte) (s : State) : (sdoReply code data s).cope = s.cope := rfl

@[simp] theorem sdoReply_drag (code : Nat) (data : List Byte) (s : State) : (sdoReply code data s).drag = s.drag := rfl

@[simp] theorem sdoReply_lease (code : Nat) (data : List Byte) (s : State) : (sdoReply code data s).lease = s.lease := rfl

@[simp] theorem sdoReply_events (code : Nat) (data : List Byte) (s : State) : (sdoReply code data s).events = s.events := rfl

@[simp] theorem sdoReply_sec (code : Nat) (data : List Byte) (s : State) : (sdoReply code data s).sec = s.sec := rfl

@[simp] theorem sdoReply_parts (code : Nat) (data : List Byte) (s : State) : (sdoReply code data s).parts = s.parts := rfl

@[simp] theorem sdoReply_tiles (code : Nat) (data : List Byte) (s : State) : (sdoReply code data s).tiles = s.tiles := rfl

@[simp] theorem sdoReply_mem (code : Nat) (data : List Byte) (s : State) : (sdoReply code data s).mem = s.mem := rfl

@[simp] theorem sdoReply_ecc (code : Nat) (data : List Byte) (s : State) : (sdoReply code data s).ecc = s.ecc := rfl

@[simp] theorem sdoReply_mesh (code : Nat) (data : List Byte) (s : State) : (sdoReply code data s).mesh = s.mesh := rfl

@[simp] theorem sdoReply_crest (code : Nat) (data : List Byte) (s : State) : (sdoReply code data s).crest = s.crest := rfl

@[simp] theorem sdoReply_fabric (code : Nat) (data : List Byte) (s : State) : (sdoReply code data s).fabric = s.fabric := rfl

@[simp] theorem sdoReply_settings (code : Nat) (data : List Byte) (s : State) : (sdoReply code data s).settings = s.settings := rfl

@[simp] theorem sdoReply_test (code : Nat) (data : List Byte) (s : State) : (sdoReply code data s).test = s.test := rfl

@[simp] theorem sdoReply_ident (code : Nat) (data : List Byte) (s : State) : (sdoReply code data s).ident = s.ident := rfl

@[simp] theorem sdoReply_regs (code : Nat) (data : List Byte) (s : State) : (sdoReply code data s).regs = s.regs := rfl

@[simp] theorem sdoReply_freeCount (code : Nat) (data : List Byte) (s : State) : (sdoReply code data s).freeCount = s.freeCount := rfl

/-! ## modCtl -/

@[simp] theorem modCtl_pending (c : Ctl) (f : CtlS → CtlS) (s : State) : (modCtl c f s).pending = s.pending := by cases c <;> rfl

@[simp] theorem modCtl_time (c : Ctl) (f : CtlS → CtlS) (s : State) : (modCtl c f s).time = s.time := by cases c <;> rfl

@[simp] theorem modCtl_clk (c : Ctl) (f : CtlS → CtlS) (s : State) : (modCtl c f s).clk = s.clk := by cases c <;> rfl

@[simp] theorem modCtl_fld (c : Ctl) (f : CtlS → CtlS) (s : State) : (modCtl c f s).fld = s.fld := by cases c <;> rfl

@[simp] theorem modCtl_power (c : Ctl) (f : CtlS → CtlS) (s : State) : (modCtl c f s).power = s.power := by cases c <;> rfl

@[simp] theorem modCtl_assay (c : Ctl) (f : CtlS → CtlS) (s : State) : (modCtl c f s).assay = s.assay := by cases c <;> rfl

@[simp] theorem modCtl_ledger (c : Ctl) (f : CtlS → CtlS) (s : State) : (modCtl c f s).ledger = s.ledger := by cases c <;> rfl

@[simp] theorem modCtl_lease (c : Ctl) (f : CtlS → CtlS) (s : State) : (modCtl c f s).lease = s.lease := by cases c <;> rfl

@[simp] theorem modCtl_events (c : Ctl) (f : CtlS → CtlS) (s : State) : (modCtl c f s).events = s.events := by cases c <;> rfl

@[simp] theorem modCtl_sec (c : Ctl) (f : CtlS → CtlS) (s : State) : (modCtl c f s).sec = s.sec := by cases c <;> rfl

@[simp] theorem modCtl_parts (c : Ctl) (f : CtlS → CtlS) (s : State) : (modCtl c f s).parts = s.parts := by cases c <;> rfl

@[simp] theorem modCtl_tiles (c : Ctl) (f : CtlS → CtlS) (s : State) : (modCtl c f s).tiles = s.tiles := by cases c <;> rfl

@[simp] theorem modCtl_mem (c : Ctl) (f : CtlS → CtlS) (s : State) : (modCtl c f s).mem = s.mem := by cases c <;> rfl

@[simp] theorem modCtl_ecc (c : Ctl) (f : CtlS → CtlS) (s : State) : (modCtl c f s).ecc = s.ecc := by cases c <;> rfl

@[simp] theorem modCtl_mesh (c : Ctl) (f : CtlS → CtlS) (s : State) : (modCtl c f s).mesh = s.mesh := by cases c <;> rfl

@[simp] theorem modCtl_crest (c : Ctl) (f : CtlS → CtlS) (s : State) : (modCtl c f s).crest = s.crest := by cases c <;> rfl

@[simp] theorem modCtl_fabric (c : Ctl) (f : CtlS → CtlS) (s : State) : (modCtl c f s).fabric = s.fabric := by cases c <;> rfl

@[simp] theorem modCtl_settings (c : Ctl) (f : CtlS → CtlS) (s : State) : (modCtl c f s).settings = s.settings := by cases c <;> rfl

@[simp] theorem modCtl_pilot (c : Ctl) (f : CtlS → CtlS) (s : State) : (modCtl c f s).pilot = s.pilot := by cases c <;> rfl

@[simp] theorem modCtl_test (c : Ctl) (f : CtlS → CtlS) (s : State) : (modCtl c f s).test = s.test := by cases c <;> rfl

@[simp] theorem modCtl_ident (c : Ctl) (f : CtlS → CtlS) (s : State) : (modCtl c f s).ident = s.ident := by cases c <;> rfl

@[simp] theorem modCtl_regs (c : Ctl) (f : CtlS → CtlS) (s : State) : (modCtl c f s).regs = s.regs := by cases c <;> rfl

@[simp] theorem modCtl_freeCount (c : Ctl) (f : CtlS → CtlS) (s : State) : (modCtl c f s).freeCount = s.freeCount := by cases c <;> rfl

end Sys2Proof.Machine
end

