-- ==== Sys2Proof/Laws/Access.lean ====
section
/-! SUPPORT. What each named read gives after each named write. -/

namespace Sys2Proof.Machine

-- One proof at a time, so that few threads hold memory.
set_option Elab.async false

@[simp] theorem reg_setReg (key k d v : Nat) (s : State) : reg (setReg key v s) k d = if k = key then v else reg s k d := by
  simp [reg, setReg, amGet_amSet]

@[simp] theorem getFld_modFld (f x : Nat) (g : FieldPwr → FieldPwr) (s : State) :
    getFld (modFld f g s) x = if x = f then g (getFld s f) else getFld s x := amGet_amMod ..

@[simp] theorem getClk_modClk (f x : Nat) (g : FieldClk → FieldClk) (s : State) :
    getClk (modClk f g s) x = if x = f then g (getClk s f) else getClk s x := amGet_amMod ..

@[simp] theorem getTile_modTile (k x : Nat) (g : Tile → Tile) (s : State) :
    getTile (modTile k g s) x = if x = k then g (getTile s k) else getTile s x := amGet_amMod ..

@[simp] theorem getPort_modPort (i x : Nat) (g : Port → Port) (s : State) :
    getPort (modPort i g s) x = if x = i then g (getPort s i) else getPort s x := amGet_amMod ..

@[simp] theorem getPin_modPin (i x : Nat) (g : Pin → Pin) (s : State) :
    getPin (modPin i g s) x = if x = i then g (getPin s i) else getPin s x := amGet_amMod ..

@[simp] theorem getSlots_modSlots (d x : Nat) (g : KeySlots → KeySlots) (s : State) :
    getSlots (modSlots d g s) x = if x = d then g (getSlots s d) else getSlots s x := amGet_amMod ..

theorem getTx_modTx (n d n' d' : Nat) (g : FlowTx → FlowTx) (s : State) :
    getTx (modTx n d g s) n' d' = if flowKey n' d' = flowKey n d then g (getTx s n d) else getTx s n' d' := amGet_amMod ..

@[simp] theorem getTx_modTx_self (n d : Nat) (g : FlowTx → FlowTx) (s : State) : getTx (modTx n d g s) n d = g (getTx s n d) := by
  simp [getTx_modTx]

theorem getRx_modRx (n d n' d' : Nat) (g : FlowRx → FlowRx) (s : State) :
    getRx (modRx n d g s) n' d' = if flowKey n' d' = flowKey n d then g (getRx s n d) else getRx s n' d' := amGet_amMod ..

@[simp] theorem getRx_modRx_self (n d : Nat) (g : FlowRx → FlowRx) (s : State) : getRx (modRx n d g s) n d = g (getRx s n d) := by
  simp [getRx_modRx]

@[simp] theorem getPart_modPart (p x : Nat) (g : Part → Part) (s : State) :
    getPart (modPart p g s) x = if x = p then (getPart s p).map g else getPart s x := by
  unfold getPart modPart
  split
  · rename_i a ha
    simp only [amFind_amSet, ha]
    rfl
  · rename_i ha
    split
    · rename_i hx
      rw [hx, ha]
      rfl
    · rfl

@[simp] theorem getCC_modCC (k slot x y : Nat) (g : CC → CC) (s : State) :
    getCC (modCC k slot g s) x y = if x = k ∧ y = slot then g (getCC s k slot) else getCC s x y := by
  unfold getCC modCC
  rw [getTile_modTile]
  by_cases hx : x = k
  · subst hx
    simp only [if_true, true_and]
    exact amGet_amMod ..
  · simp [hx]

@[simp] theorem getAG_modAG (k g x y : Nat) (h : AG → AG) (s : State) :
    getAG (modAG k g h s) x y = if x = k ∧ y = g then h (getAG s k g) else getAG s x y := by
  unfold getAG modAG
  rw [getTile_modTile]
  by_cases hx : x = k
  · subst hx
    simp only [if_true, true_and]
    exact amGet_amMod ..
  · simp [hx]

@[simp] theorem getCtl_modCtl (c x : Ctl) (f : CtlS → CtlS) (s : State) :
    getCtl x (modCtl c f s) = if x = c then f (getCtl c s) else getCtl x s := by
  cases c <;> cases x <;> rfl

/-! ## The event controller -/

@[simp] theorem raise_queue (e : EvReq) (s : State) : (raise e s).events.queue = s.events.queue := by
  unfold raise
  split
  · rfl
  · split <;> rfl

@[simp] theorem raise_selected (e : EvReq) (s : State) : (raise e s).events.selected = s.events.selected := by
  unfold raise
  split
  · rfl
  · split <;> rfl

@[simp] theorem raise_nextSeq (e : EvReq) (s : State) : (raise e s).events.nextSeq = s.events.nextSeq := by
  unfold raise
  split
  · rfl
  · split <;> rfl

@[simp] theorem raise_newest (e : EvReq) (s : State) : (raise e s).events.newest = s.events.newest := by
  unfold raise
  split
  · rfl
  · split <;> rfl

/-- What a request adds depends on the event controller alone. -/
theorem raise_events (e : EvReq) {s t : State} (h : s.events = t.events) : (raise e s).events = (raise e t).events := by
  unfold raise
  rw [h]
  split
  · rfl
  · split <;> rfl

end Sys2Proof.Machine
end

