-- ==== Sys2Proof/Laws/Keeps.lean ====
section
/-! SUPPORT. How changes that stay within named parts of the state and keep the invariant compose. -/

namespace Sys2Proof

open Machine

-- One proof at a time, so that few threads hold memory.
set_option Elab.async false

variable {w w1 : List Region} {s t u : State}

theorem Keeps.refl (w : List Region) (s : State) : Keeps w s s :=
  ⟨fun r _ => by cases r <;> rfl, id⟩

theorem Only.trans (h1 : Only w s t) (h2 : Only w t u) : Only w s u := by
  intro r hr
  have a := h1 r hr
  have b := h2 r hr
  cases r <;> exact Eq.trans b a

theorem Only.mono (h : Only w1 s t) (hw : w1.all (w.contains ·) = true) : Only w s t := by
  intro r hr
  refine h r ?_
  cases hc : w1.contains r
  · rfl
  · rw [List.all_eq_true.mp hw r (by simpa using hc)] at hr
    cases hr

theorem cover {a b c : List Region} (h1 : a.all (b.contains ·) = true) (h2 : b.all (c.contains ·) = true) :
    a.all (c.contains ·) = true := by
  simp only [List.all_eq_true, List.contains_iff_mem] at *
  exact fun x hx => h2 x (h1 x hx)

/-- A change that keeps, followed by one whose parts are among the first one's. -/
theorem Keeps.step (h1 : Keeps w s t) (h2 : Keeps w1 t u) (hw : w1.all (w.contains ·) = true) : Keeps w s u :=
  ⟨h1.1.trans (h2.1.mono hw), fun h => h2.2 (h1.2 h)⟩

theorem Keeps.trans (h1 : Keeps w s t) (h2 : Keeps w t u) : Keeps w s u :=
  ⟨h1.1.trans h2.1, fun h => h2.2 (h1.2 h)⟩

theorem Keeps.mono (h : Keeps w1 s t) (hw : w1.all (w.contains ·) = true) : Keeps w s t := ⟨h.1.mono hw, h.2⟩

/-- A record update that names the parts it writes. -/
theorem Keeps.upd {a1 a2 a3 a4 a5 a6 a7 a8 a9 a10 a11 a12 a13 a14 a15 a16 a17 a18 a19 a20 a21 a22 a23 a24}
    (h1 : Keeps w s t)
    (h2 : ∀ r, w.contains r = false → Region.Same t
      ⟨t.pending, a1, a2, a3, a4, a5, a6, a7, a8, a9, a10, a11, a12, a13, a14, a15, a16, a17, a18, a19, a20, a21, a22, a23, a24⟩ r)
    (hm : Memory.wf t.mem = true → Memory.wf a14 = true)
    (hp : t.events.pending.length ≤ 256 → a10.pending.length ≤ 256)
    (hq : t.events.queue.length ≤ 4096 → a10.queue.length ≤ 4096)
    (hf : FlowsOk t.fabric.tx → FlowsOk a18.tx)
    (hl : t.assay.log.length ≤ 1024 → a5.log.length ≤ 1024) :
    Keeps w s
      ⟨t.pending, a1, a2, a3, a4, a5, a6, a7, a8, a9, a10, a11, a12, a13, a14, a15, a16, a17, a18, a19, a20, a21, a22, a23, a24⟩ :=
  h1.trans ⟨h2, fun h => ⟨hm h.1, hp h.2, hq h.3, hf h.4, hl h.5⟩⟩

theorem Keeps.ite {c : Prop} [Decidable c] {a b : State} (h1 : Keeps w s a) (h2 : Keeps w s b) :
    Keeps w s (if c then a else b) := by
  split <;> assumption

theorem Keeps.foldl {α : Type} {g : State → α → State} {l : List α} (h0 : Keeps w s t) (h : ∀ t a, Keeps w s t → Keeps w s (g t a)) :
    Keeps w s (l.foldl g t) := by
  induction l generalizing t with
  | nil => exact h0
  | cons a l ih => exact ih (h t a h0)

theorem Keeps.foldlSnd {α β : Type} {g : β × State → α → β × State} {l : List α} {p : β × State} (h0 : Keeps w s p.2)
    (h : ∀ p a, Keeps w s p.2 → Keeps w s (g p a).2) : Keeps w s (l.foldl g p).2 := by
  induction l generalizing p with
  | nil => exact h0
  | cons a l ih => exact ih (h p a h0)

theorem Keeps.foldlOf {α β : Type} (f : β → State) {g : β → α → β} {l : List α} {p : β} (h0 : Keeps w s (f p))
    (h : ∀ p a, Keeps w s (f p) → Keeps w s (f (g p a))) : Keeps w s (f (l.foldl g p)) := by
  induction l generalizing p with
  | nil => exact h0
  | cons a l ih => exact ih (h p a h0)

end Sys2Proof
end

