-- ==== Sys2Proof/Laws/KeepsSet.lean ====
section
/-! SUPPORT. Record updates of the state stay within the fields that they name. -/

namespace Sys2Proof

open Machine

-- One proof at a time, so that few threads hold memory.
set_option Elab.async false

variable {w : List Region} {s t : State}

theorem Keeps.setTime {x0 : TimeS} (h : Keeps w s t) (c0 : w.contains .time = true) :
    Keeps w s { t with time := x0 } :=
  h.trans ⟨fun r hr => by cases r <;> first | rfl | simp_all, fun h => ⟨h.1, h.2, h.3, h.4, h.5⟩⟩

theorem Keeps.setClk {x0 : AMap FieldClk} (h : Keeps w s t) (c0 : w.contains .clk = true) :
    Keeps w s { t with clk := x0 } :=
  h.trans ⟨fun r hr => by cases r <;> first | rfl | simp_all, fun h => ⟨h.1, h.2, h.3, h.4, h.5⟩⟩

theorem Keeps.setFld {x0 : AMap FieldPwr} (h : Keeps w s t) (c0 : w.contains .fld = true) :
    Keeps w s { t with fld := x0 } :=
  h.trans ⟨fun r hr => by cases r <;> first | rfl | simp_all, fun h => ⟨h.1, h.2, h.3, h.4, h.5⟩⟩

theorem Keeps.setPower {x0 : PowerS} (h : Keeps w s t) (c0 : w.contains .power = true) :
    Keeps w s { t with power := x0 } :=
  h.trans ⟨fun r hr => by cases r <;> first | rfl | simp_all, fun h => ⟨h.1, h.2, h.3, h.4, h.5⟩⟩

theorem Keeps.setAssay {x0 : AssayS} (h : Keeps w s t) (c0 : w.contains .assay = true)
    (i0 : t.assay.log.length ≤ 1024 → x0.log.length ≤ 1024) :
    Keeps w s { t with assay := x0 } :=
  h.trans ⟨fun r hr => by cases r <;> first | rfl | simp_all, fun h => ⟨h.1, h.2, h.3, h.4, i0 h.5⟩⟩

theorem Keeps.setLedger {x0 : LedgerS} (h : Keeps w s t) (c0 : w.contains .ledger = true) :
    Keeps w s { t with ledger := x0 } :=
  h.trans ⟨fun r hr => by cases r <;> first | rfl | simp_all, fun h => ⟨h.1, h.2, h.3, h.4, h.5⟩⟩

theorem Keeps.setCope {x0 : CtlS} (h : Keeps w s t) (c0 : w.contains .cope = true) :
    Keeps w s { t with cope := x0 } :=
  h.trans ⟨fun r hr => by cases r <;> first | rfl | simp_all, fun h => ⟨h.1, h.2, h.3, h.4, h.5⟩⟩

theorem Keeps.setDrag {x0 : CtlS} (h : Keeps w s t) (c0 : w.contains .drag = true) :
    Keeps w s { t with drag := x0 } :=
  h.trans ⟨fun r hr => by cases r <;> first | rfl | simp_all, fun h => ⟨h.1, h.2, h.3, h.4, h.5⟩⟩

theorem Keeps.setLease {x0 : LeaseS} (h : Keeps w s t) (c0 : w.contains .lease = true) :
    Keeps w s { t with lease := x0 } :=
  h.trans ⟨fun r hr => by cases r <;> first | rfl | simp_all, fun h => ⟨h.1, h.2, h.3, h.4, h.5⟩⟩

theorem Keeps.setEvents {x0 : EventS} (h : Keeps w s t) (c0 : w.contains .events = true)
    (i0 : t.events.pending.length ≤ 256 → x0.pending.length ≤ 256)
    (i1 : t.events.queue.length ≤ 4096 → x0.queue.length ≤ 4096) :
    Keeps w s { t with events := x0 } :=
  h.trans ⟨fun r hr => by cases r <;> first | rfl | simp_all, fun h => ⟨h.1, i0 h.2, i1 h.3, h.4, h.5⟩⟩

theorem Keeps.setSec {x0 : SecS} (h : Keeps w s t) (c0 : w.contains .sec = true) :
    Keeps w s { t with sec := x0 } :=
  h.trans ⟨fun r hr => by cases r <;> first | rfl | simp_all, fun h => ⟨h.1, h.2, h.3, h.4, h.5⟩⟩

theorem Keeps.setParts {x0 : AMap Machine.Part} (h : Keeps w s t) (c0 : w.contains .parts = true) :
    Keeps w s { t with parts := x0 } :=
  h.trans ⟨fun r hr => by cases r <;> first | rfl | simp_all, fun h => ⟨h.1, h.2, h.3, h.4, h.5⟩⟩

theorem Keeps.setTiles {x0 : AMap Tile} (h : Keeps w s t) (c0 : w.contains .tiles = true) :
    Keeps w s { t with tiles := x0 } :=
  h.trans ⟨fun r hr => by cases r <;> first | rfl | simp_all, fun h => ⟨h.1, h.2, h.3, h.4, h.5⟩⟩

theorem Keeps.setEcc {x0 : AMap EccMark} (h : Keeps w s t) (c0 : w.contains .ecc = true) :
    Keeps w s { t with ecc := x0 } :=
  h.trans ⟨fun r hr => by cases r <;> first | rfl | simp_all, fun h => ⟨h.1, h.2, h.3, h.4, h.5⟩⟩

theorem Keeps.setMesh {x0 : MeshS} (h : Keeps w s t) (c0 : w.contains .mesh = true) :
    Keeps w s { t with mesh := x0 } :=
  h.trans ⟨fun r hr => by cases r <;> first | rfl | simp_all, fun h => ⟨h.1, h.2, h.3, h.4, h.5⟩⟩

theorem Keeps.setCrest {x0 : CrestS} (h : Keeps w s t) (c0 : w.contains .crest = true) :
    Keeps w s { t with crest := x0 } :=
  h.trans ⟨fun r hr => by cases r <;> first | rfl | simp_all, fun h => ⟨h.1, h.2, h.3, h.4, h.5⟩⟩

theorem Keeps.setFabric {x0 : FabricS} (h : Keeps w s t) (c0 : w.contains .fabric = true)
    (i0 : FlowsOk t.fabric.tx → FlowsOk x0.tx) :
    Keeps w s { t with fabric := x0 } :=
  h.trans ⟨fun r hr => by cases r <;> first | rfl | simp_all, fun h => ⟨h.1, h.2, h.3, i0 h.4, h.5⟩⟩

theorem Keeps.setSettings {x0 : SettingsS} (h : Keeps w s t) (c0 : w.contains .settings = true) :
    Keeps w s { t with settings := x0 } :=
  h.trans ⟨fun r hr => by cases r <;> first | rfl | simp_all, fun h => ⟨h.1, h.2, h.3, h.4, h.5⟩⟩

theorem Keeps.setPilot {x0 : PilotS} (h : Keeps w s t) (c0 : w.contains .pilot = true) :
    Keeps w s { t with pilot := x0 } :=
  h.trans ⟨fun r hr => by cases r <;> first | rfl | simp_all, fun h => ⟨h.1, h.2, h.3, h.4, h.5⟩⟩

theorem Keeps.setTest {x0 : TestS} (h : Keeps w s t) (c0 : w.contains .test = true) :
    Keeps w s { t with test := x0 } :=
  h.trans ⟨fun r hr => by cases r <;> first | rfl | simp_all, fun h => ⟨h.1, h.2, h.3, h.4, h.5⟩⟩

theorem Keeps.setRegs {x0 : AMap Nat} (h : Keeps w s t) (c0 : w.contains .regs = true) :
    Keeps w s { t with regs := x0 } :=
  h.trans ⟨fun r hr => by cases r <;> first | rfl | simp_all, fun h => ⟨h.1, h.2, h.3, h.4, h.5⟩⟩

theorem Keeps.setTimePilot {x0 : TimeS} {x1 : PilotS} (h : Keeps w s t) (c0 : w.contains .time = true) (c1 : w.contains .pilot = true) :
    Keeps w s { t with time := x0, pilot := x1 } :=
  h.trans ⟨fun r hr => by cases r <;> first | rfl | simp_all, fun h => ⟨h.1, h.2, h.3, h.4, h.5⟩⟩

theorem Keeps.setPowerParts {x0 : PowerS} {x1 : AMap Machine.Part} (h : Keeps w s t) (c0 : w.contains .power = true) (c1 : w.contains .parts = true) :
    Keeps w s { t with power := x0, parts := x1 } :=
  h.trans ⟨fun r hr => by cases r <;> first | rfl | simp_all, fun h => ⟨h.1, h.2, h.3, h.4, h.5⟩⟩

theorem Keeps.setLedgerEvents {x0 : LedgerS} {x1 : EventS} (h : Keeps w s t) (c0 : w.contains .ledger = true) (c1 : w.contains .events = true)
    (i0 : t.events.pending.length ≤ 256 → x1.pending.length ≤ 256)
    (i1 : t.events.queue.length ≤ 4096 → x1.queue.length ≤ 4096) :
    Keeps w s { t with ledger := x0, events := x1 } :=
  h.trans ⟨fun r hr => by cases r <;> first | rfl | simp_all, fun h => ⟨h.1, i0 h.2, i1 h.3, h.4, h.5⟩⟩

theorem Keeps.setLedgerFabric {x0 : LedgerS} {x1 : FabricS} (h : Keeps w s t) (c0 : w.contains .ledger = true) (c1 : w.contains .fabric = true)
    (i0 : FlowsOk t.fabric.tx → FlowsOk x1.tx) :
    Keeps w s { t with ledger := x0, fabric := x1 } :=
  h.trans ⟨fun r hr => by cases r <;> first | rfl | simp_all, fun h => ⟨h.1, h.2, h.3, i0 h.4, h.5⟩⟩

theorem Keeps.setLeasePilot {x0 : LeaseS} {x1 : PilotS} (h : Keeps w s t) (c0 : w.contains .lease = true) (c1 : w.contains .pilot = true) :
    Keeps w s { t with lease := x0, pilot := x1 } :=
  h.trans ⟨fun r hr => by cases r <;> first | rfl | simp_all, fun h => ⟨h.1, h.2, h.3, h.4, h.5⟩⟩

theorem Keeps.setLeaseSettings {x0 : LeaseS} {x1 : SettingsS} (h : Keeps w s t) (c0 : w.contains .lease = true) (c1 : w.contains .settings = true) :
    Keeps w s { t with lease := x0, settings := x1 } :=
  h.trans ⟨fun r hr => by cases r <;> first | rfl | simp_all, fun h => ⟨h.1, h.2, h.3, h.4, h.5⟩⟩

theorem Keeps.setMemEcc {x0 : List Host.Cell} {x1 : AMap EccMark} (h : Keeps w s t) (c0 : w.contains .mem = true) (c1 : w.contains .ecc = true)
    (i0 : Memory.wf t.mem = true → Memory.wf x0 = true) :
    Keeps w s { t with mem := x0, ecc := x1 } :=
  h.trans ⟨fun r hr => by cases r <;> first | rfl | simp_all, fun h => ⟨i0 h.1, h.2, h.3, h.4, h.5⟩⟩

theorem Keeps.setTimeLedgerParts {x0 : TimeS} {x1 : LedgerS} {x2 : AMap Machine.Part} (h : Keeps w s t) (c0 : w.contains .time = true) (c1 : w.contains .ledger = true) (c2 : w.contains .parts = true) :
    Keeps w s { t with time := x0, ledger := x1, parts := x2 } :=
  h.trans ⟨fun r hr => by cases r <;> first | rfl | simp_all, fun h => ⟨h.1, h.2, h.3, h.4, h.5⟩⟩

theorem Keeps.setMemEccMesh {x0 : List Host.Cell} {x1 : AMap EccMark} {x2 : MeshS} (h : Keeps w s t) (c0 : w.contains .mem = true) (c1 : w.contains .ecc = true) (c2 : w.contains .mesh = true)
    (i0 : Memory.wf t.mem = true → Memory.wf x0 = true) :
    Keeps w s { t with mem := x0, ecc := x1, mesh := x2 } :=
  h.trans ⟨fun r hr => by cases r <;> first | rfl | simp_all, fun h => ⟨i0 h.1, h.2, h.3, h.4, h.5⟩⟩

theorem Keeps.setPowerLedgerCopeDrag {x0 : PowerS} {x1 : LedgerS} {x2 : CtlS} {x3 : CtlS} (h : Keeps w s t) (c0 : w.contains .power = true) (c1 : w.contains .ledger = true) (c2 : w.contains .cope = true) (c3 : w.contains .drag = true) :
    Keeps w s { t with power := x0, ledger := x1, cope := x2, drag := x3 } :=
  h.trans ⟨fun r hr => by cases r <;> first | rfl | simp_all, fun h => ⟨h.1, h.2, h.3, h.4, h.5⟩⟩

theorem Keeps.setPowerTilesMemEccMeshCrest {x0 : PowerS} {x1 : AMap Tile} {x2 : List Host.Cell} {x3 : AMap EccMark} {x4 : MeshS} {x5 : CrestS} (h : Keeps w s t) (c0 : w.contains .power = true) (c1 : w.contains .tiles = true) (c2 : w.contains .mem = true) (c3 : w.contains .ecc = true) (c4 : w.contains .mesh = true) (c5 : w.contains .crest = true)
    (i0 : Memory.wf t.mem = true → Memory.wf x2 = true) :
    Keeps w s { t with power := x0, tiles := x1, mem := x2, ecc := x3, mesh := x4, crest := x5 } :=
  h.trans ⟨fun r hr => by cases r <;> first | rfl | simp_all, fun h => ⟨i0 h.1, h.2, h.3, h.4, h.5⟩⟩

theorem Keeps.setTimePowerCopeDragSecSettingsPilot {x0 : TimeS} {x1 : PowerS} {x2 : CtlS} {x3 : CtlS} {x4 : SecS} {x5 : SettingsS} {x6 : PilotS} (h : Keeps w s t) (c0 : w.contains .time = true) (c1 : w.contains .power = true) (c2 : w.contains .cope = true) (c3 : w.contains .drag = true) (c4 : w.contains .sec = true) (c5 : w.contains .settings = true) (c6 : w.contains .pilot = true) :
    Keeps w s { t with time := x0, power := x1, cope := x2, drag := x3, sec := x4, settings := x5, pilot := x6 } :=
  h.trans ⟨fun r hr => by cases r <;> first | rfl | simp_all, fun h => ⟨h.1, h.2, h.3, h.4, h.5⟩⟩

theorem Keeps.setPowerAssay {x0 : PowerS} {x1 : AssayS} (h : Keeps w s t) (c0 : w.contains .power = true) (c1 : w.contains .assay = true)
    (i0 : t.assay.log.length ≤ 1024 → x1.log.length ≤ 1024) :
    Keeps w s { t with power := x0, assay := x1 } :=
  h.trans ⟨fun r hr => by cases r <;> first | rfl | simp_all, fun h => ⟨h.1, h.2, h.3, h.4, i0 h.5⟩⟩

theorem Keeps.setLedgerCopeDrag {x0 : LedgerS} {x1 : CtlS} {x2 : CtlS} (h : Keeps w s t) (c0 : w.contains .ledger = true) (c1 : w.contains .cope = true) (c2 : w.contains .drag = true) :
    Keeps w s { t with ledger := x0, cope := x1, drag := x2 } :=
  h.trans ⟨fun r hr => by cases r <;> first | rfl | simp_all, fun h => ⟨h.1, h.2, h.3, h.4, h.5⟩⟩

end Sys2Proof
end

