-- ==== Sys2Proof/Laws/Keeps/Ops.lean ====
section
/-! SUPPORT. What the operations of Machine/Ops.lean may write, and that they keep the invariant. -/

namespace Sys2Proof.Machine

open Sys2Proof

set_option linter.unusedTactic false
set_option linter.unreachableTactic false

theorem addCycles_keeps (n : Nat) (s : State) : Keeps [.time, .pilot] s (addCycles n s) := by
  unfold addCycles
  repeat' first
    | (with_reducible exact Keeps.refl _ _)
    | (with_reducible assumption)
    | (exact rfl)
    | (exact ‹_ + _ = 32›)
    | (intro)
    | (extract_lets)
    | (with_reducible apply Keeps.ite)
    | (with_reducible apply Keeps.foldl)
    | (with_reducible apply Keeps.foldlSnd)
    | (fail_if_no_progress ((with_reducible apply Keeps.setTimePilot) <;> [skip; (exact rfl); (exact rfl)]))
    | (split)
    | (dsimp only)
    | (dsimp +zetaDelta only)

theorem advanceTo_keeps (t : Nat) (s : State) : Keeps [.time, .pilot] s (advanceTo t s) := by
  unfold advanceTo
  repeat' first
    | (with_reducible exact Keeps.refl _ _)
    | (with_reducible assumption)
    | (exact rfl)
    | (exact ‹_ + _ = 32›)
    | (intro)
    | (extract_lets)
    | (with_reducible apply Keeps.ite)
    | (with_reducible apply Keeps.foldl)
    | (with_reducible apply Keeps.foldlSnd)
    | (with_reducible apply Keeps.step ?_ (addCycles_keeps _ _) ?_)
    | (split)
    | (dsimp only)
    | (dsimp +zetaDelta only)

theorem setReg_keeps (key v : Nat) (s : State) : Keeps [.regs] s (setReg key v s) := by
  unfold setReg
  repeat' first
    | (with_reducible exact Keeps.refl _ _)
    | (with_reducible assumption)
    | (exact rfl)
    | (exact ‹_ + _ = 32›)
    | (intro)
    | (extract_lets)
    | (with_reducible apply Keeps.ite)
    | (with_reducible apply Keeps.foldl)
    | (with_reducible apply Keeps.foldlSnd)
    | (fail_if_no_progress ((with_reducible apply Keeps.setRegs) <;> [skip; (exact rfl)]))
    | (split)
    | (dsimp only)
    | (dsimp +zetaDelta only)

theorem modCtl_keeps (c : Ctl) (f : CtlS → CtlS) (s : State) : Keeps [.cope, .drag] s (modCtl c f s) := by
  unfold modCtl
  repeat' first
    | (with_reducible exact Keeps.refl _ _)
    | (with_reducible assumption)
    | (exact rfl)
    | (exact ‹_ + _ = 32›)
    | (intro)
    | (extract_lets)
    | (with_reducible apply Keeps.ite)
    | (with_reducible apply Keeps.foldl)
    | (with_reducible apply Keeps.foldlSnd)
    | (fail_if_no_progress ((with_reducible apply Keeps.setCope) <;> [skip; (exact rfl)]))
    | (fail_if_no_progress ((with_reducible apply Keeps.setDrag) <;> [skip; (exact rfl)]))
    | (split)
    | (dsimp only)
    | (dsimp +zetaDelta only)

theorem raise_keeps (e : EvReq) (s : State) : Keeps [.events] s (raise e s) := by
  unfold raise
  split
  · next h => exact Keeps.setEvents (Keeps.refl _ _) rfl (fun _ => by simp; omega) (fun h => h)
  · split
    · exact Keeps.setEvents (Keeps.refl _ _) rfl (fun h => h) (fun h => h)
    · exact Keeps.setEvents (Keeps.refl _ _) rfl (fun h => h) (fun h => h)

theorem raiseAll_keeps (es : List EvReq) (s : State) : Keeps [.events] s (raiseAll es s) := by
  unfold raiseAll
  repeat' first
    | (with_reducible exact Keeps.refl _ _)
    | (with_reducible assumption)
    | (exact rfl)
    | (exact ‹_ + _ = 32›)
    | (intro)
    | (extract_lets)
    | (with_reducible apply Keeps.ite)
    | (with_reducible apply Keeps.foldl)
    | (with_reducible apply Keeps.foldlSnd)
    | (with_reducible apply Keeps.step ?_ (raise_keeps _ _) ?_)
    | (split)
    | (dsimp only)
    | (dsimp +zetaDelta only)

theorem withdraw_keeps (p : EvReq → Bool) (s : State) : Keeps [.events] s (withdraw p s) := by
  unfold withdraw
  exact Keeps.setEvents (Keeps.refl _ _) rfl (fun h => by simpa using h) (fun h => h)

theorem modFld_keeps (f : Nat) (g : FieldPwr → FieldPwr) (s : State) : Keeps [.fld] s (modFld f g s) := by
  unfold modFld
  repeat' first
    | (with_reducible exact Keeps.refl _ _)
    | (with_reducible assumption)
    | (exact rfl)
    | (exact ‹_ + _ = 32›)
    | (intro)
    | (extract_lets)
    | (with_reducible apply Keeps.ite)
    | (with_reducible apply Keeps.foldl)
    | (with_reducible apply Keeps.foldlSnd)
    | (fail_if_no_progress ((with_reducible apply Keeps.setFld) <;> [skip; (exact rfl)]))
    | (split)
    | (dsimp only)
    | (dsimp +zetaDelta only)

theorem modClk_keeps (f : Nat) (g : FieldClk → FieldClk) (s : State) : Keeps [.clk] s (modClk f g s) := by
  unfold modClk
  repeat' first
    | (with_reducible exact Keeps.refl _ _)
    | (with_reducible assumption)
    | (exact rfl)
    | (exact ‹_ + _ = 32›)
    | (intro)
    | (extract_lets)
    | (with_reducible apply Keeps.ite)
    | (with_reducible apply Keeps.foldl)
    | (with_reducible apply Keeps.foldlSnd)
    | (fail_if_no_progress ((with_reducible apply Keeps.setClk) <;> [skip; (exact rfl)]))
    | (split)
    | (dsimp only)
    | (dsimp +zetaDelta only)

theorem modPart_keeps (p : Nat) (g : Part → Part) (s : State) : Keeps [.parts] s (modPart p g s) := by
  unfold modPart
  repeat' first
    | (with_reducible exact Keeps.refl _ _)
    | (with_reducible assumption)
    | (exact rfl)
    | (exact ‹_ + _ = 32›)
    | (intro)
    | (extract_lets)
    | (with_reducible apply Keeps.ite)
    | (with_reducible apply Keeps.foldl)
    | (with_reducible apply Keeps.foldlSnd)
    | (fail_if_no_progress ((with_reducible apply Keeps.setParts) <;> [skip; (exact rfl)]))
    | (split)
    | (dsimp only)
    | (dsimp +zetaDelta only)

theorem modTile_keeps (k : Nat) (g : Tile → Tile) (s : State) : Keeps [.tiles] s (modTile k g s) := by
  unfold modTile
  repeat' first
    | (with_reducible exact Keeps.refl _ _)
    | (with_reducible assumption)
    | (exact rfl)
    | (exact ‹_ + _ = 32›)
    | (intro)
    | (extract_lets)
    | (with_reducible apply Keeps.ite)
    | (with_reducible apply Keeps.foldl)
    | (with_reducible apply Keeps.foldlSnd)
    | (fail_if_no_progress ((with_reducible apply Keeps.setTiles) <;> [skip; (exact rfl)]))
    | (split)
    | (dsimp only)
    | (dsimp +zetaDelta only)

theorem modCC_keeps (k slot : Nat) (g : CC → CC) (s : State) : Keeps [.tiles] s (modCC k slot g s) := by
  unfold modCC
  repeat' first
    | (with_reducible exact Keeps.refl _ _)
    | (with_reducible assumption)
    | (exact rfl)
    | (exact ‹_ + _ = 32›)
    | (intro)
    | (extract_lets)
    | (with_reducible apply Keeps.ite)
    | (with_reducible apply Keeps.foldl)
    | (with_reducible apply Keeps.foldlSnd)
    | (with_reducible apply Keeps.step ?_ (modTile_keeps _ _ _) ?_)
    | (split)
    | (dsimp only)
    | (dsimp +zetaDelta only)

theorem modAG_keeps (k g : Nat) (h : AG → AG) (s : State) : Keeps [.tiles] s (modAG k g h s) := by
  unfold modAG
  repeat' first
    | (with_reducible exact Keeps.refl _ _)
    | (with_reducible assumption)
    | (exact rfl)
    | (exact ‹_ + _ = 32›)
    | (intro)
    | (extract_lets)
    | (with_reducible apply Keeps.ite)
    | (with_reducible apply Keeps.foldl)
    | (with_reducible apply Keeps.foldlSnd)
    | (with_reducible apply Keeps.step ?_ (modTile_keeps _ _ _) ?_)
    | (split)
    | (dsimp only)
    | (dsimp +zetaDelta only)

theorem writeBytes_keeps (key : Nat) (bs : List Byte) (s : State) : Keeps [.mem, .ecc] s (writeBytes key bs s) := by
  unfold writeBytes
  exact Keeps.setMemEcc (Keeps.refl _ _) rfl rfl (fun h => wf_cellsSet bs key h)

theorem zeroSites_keeps (p : Nat → Bool) (s : State) : Keeps [.mem, .ecc] s (zeroSites p s) := by
  unfold zeroSites
  exact Keeps.setMemEcc (Keeps.refl _ _) rfl rfl (fun h => wf_filter _ h)

theorem countCorrected_keeps (k : Nat) (s : State) : Keeps [.fld, .events, .tiles] s (countCorrected k s) := by
  unfold countCorrected
  repeat' first
    | (with_reducible exact Keeps.refl _ _)
    | (with_reducible assumption)
    | (exact rfl)
    | (exact ‹_ + _ = 32›)
    | (intro)
    | (extract_lets)
    | (with_reducible apply Keeps.ite)
    | (with_reducible apply Keeps.foldl)
    | (with_reducible apply Keeps.foldlSnd)
    | (with_reducible apply Keeps.step ?_ (modTile_keeps _ _ _) ?_)
    | (with_reducible apply Keeps.step ?_ (modFld_keeps _ _ _) ?_)
    | (with_reducible apply Keeps.step ?_ (raise_keeps _ _) ?_)
    | (split)
    | (dsimp only)
    | (dsimp +zetaDelta only)

theorem touchRead_keeps (key n : Nat) (s : State) : Keeps [.fld, .events, .tiles, .ecc] s (touchRead key n s) := by
  unfold touchRead
  repeat' first
    | (with_reducible exact Keeps.refl _ _)
    | (with_reducible assumption)
    | (exact rfl)
    | (exact ‹_ + _ = 32›)
    | (intro)
    | (extract_lets)
    | (with_reducible apply Keeps.ite)
    | (with_reducible apply Keeps.foldl)
    | (with_reducible apply Keeps.foldlSnd)
    | (fail_if_no_progress ((with_reducible apply Keeps.setEcc) <;> [skip; (exact rfl)]))
    | (with_reducible apply Keeps.step ?_ (countCorrected_keeps _ _) ?_)
    | (split)
    | (dsimp only)
    | (dsimp +zetaDelta only)

theorem noteTraffic_keeps (domain : Nat) (s : State) : Keeps [.parts] s (noteTraffic domain s) := by
  unfold noteTraffic
  repeat' first
    | (with_reducible exact Keeps.refl _ _)
    | (with_reducible assumption)
    | (exact rfl)
    | (exact ‹_ + _ = 32›)
    | (intro)
    | (extract_lets)
    | (with_reducible apply Keeps.ite)
    | (with_reducible apply Keeps.foldl)
    | (with_reducible apply Keeps.foldlSnd)
    | (with_reducible apply Keeps.step ?_ (modPart_keeps _ _ _) ?_)
    | (split)
    | (dsimp only)
    | (dsimp +zetaDelta only)

theorem ringCount_keeps (account n : Nat) (s : State) : Keeps [.power] s (ringCount account n s) := by
  unfold ringCount
  repeat' first
    | (with_reducible exact Keeps.refl _ _)
    | (with_reducible assumption)
    | (exact rfl)
    | (exact ‹_ + _ = 32›)
    | (intro)
    | (extract_lets)
    | (with_reducible apply Keeps.ite)
    | (with_reducible apply Keeps.foldl)
    | (with_reducible apply Keeps.foldlSnd)
    | (fail_if_no_progress ((with_reducible apply Keeps.setPower) <;> [skip; (exact rfl)]))
    | (split)
    | (dsimp only)
    | (dsimp +zetaDelta only)

theorem send_keeps (m : MeshMsg) (s : State) : Keeps [.power, .parts, .mesh] s (send m s) := by
  unfold send
  repeat' first
    | (with_reducible exact Keeps.refl _ _)
    | (with_reducible assumption)
    | (exact rfl)
    | (exact ‹_ + _ = 32›)
    | (intro)
    | (extract_lets)
    | (with_reducible apply Keeps.ite)
    | (with_reducible apply Keeps.foldl)
    | (with_reducible apply Keeps.foldlSnd)
    | (fail_if_no_progress ((with_reducible apply Keeps.setMesh) <;> [skip; (exact rfl)]))
    | (with_reducible apply Keeps.step ?_ (ringCount_keeps _ _ _) ?_)
    | (with_reducible apply Keeps.step ?_ (noteTraffic_keeps _ _) ?_)
    | (split)
    | (dsimp only)
    | (dsimp +zetaDelta only)

theorem leaveMesh_keeps (p : MeshMsg → Bool) (s : State) : Keeps [.mesh] s (leaveMesh p s) := by
  unfold leaveMesh
  repeat' first
    | (with_reducible exact Keeps.refl _ _)
    | (with_reducible assumption)
    | (exact rfl)
    | (exact ‹_ + _ = 32›)
    | (intro)
    | (extract_lets)
    | (with_reducible apply Keeps.ite)
    | (with_reducible apply Keeps.foldl)
    | (with_reducible apply Keeps.foldlSnd)
    | (fail_if_no_progress ((with_reducible apply Keeps.setMesh) <;> [skip; (exact rfl)]))
    | (split)
    | (dsimp only)
    | (dsimp +zetaDelta only)

theorem land_keeps (h : Head) (control : Bool) (kind : Nat) (s : State) : Keeps [.mesh] s (land h control kind s) := by
  unfold land
  repeat' first
    | (with_reducible exact Keeps.refl _ _)
    | (with_reducible assumption)
    | (exact rfl)
    | (exact ‹_ + _ = 32›)
    | (intro)
    | (extract_lets)
    | (with_reducible apply Keeps.ite)
    | (with_reducible apply Keeps.foldl)
    | (with_reducible apply Keeps.foldlSnd)
    | (with_reducible apply Keeps.step ?_ (leaveMesh_keeps _ _) ?_)
    | (split)
    | (dsimp only)
    | (dsimp +zetaDelta only)

theorem modTx_keeps (node domain : Nat) (g : FlowTx → FlowTx) (s : State)
    (hg : ∀ f : FlowTx, f.credits + f.out.length = 32 → (g f).credits + (g f).out.length = 32) :
    Keeps [.fabric] s (modTx node domain g s) := by
  unfold modTx
  exact Keeps.setFabric (Keeps.refl _ _) rfl (fun h => flowsOk_amMod h rfl hg)

theorem enqueue_keeps (p : Packet) (s : State) : Keeps [.events, .fabric] s (enqueue p s) := by
  unfold enqueue
  repeat' first
    | (with_reducible exact Keeps.refl _ _)
    | (with_reducible assumption)
    | (exact rfl)
    | (exact ‹_ + _ = 32›)
    | (intro)
    | (extract_lets)
    | (with_reducible apply Keeps.ite)
    | (with_reducible apply Keeps.foldl)
    | (with_reducible apply Keeps.foldlSnd)
    | (fail_if_no_progress ((with_reducible apply Keeps.setFabric) <;> [skip; (exact rfl); (first | exact fun h => h | exact fun _ => rfl | exact flowsOk_nil)]))
    | (with_reducible apply Keeps.step ?_ (raise_keeps _ _) ?_)
    | (with_reducible apply Keeps.step ?_ (modTx_keeps _ _ _ _ ?_) ?_)
    | ((simp only [List.length_map]; assumption))
    | (split)
    | (dsimp only)
    | (dsimp +zetaDelta only)

theorem sendPkt_keeps (node domain opcode : Nat) (data : List Byte) (s : State) : Keeps [.events, .fabric] s (sendPkt node domain opcode data s) := by
  unfold sendPkt
  repeat' first
    | (with_reducible exact Keeps.refl _ _)
    | (with_reducible assumption)
    | (exact rfl)
    | (exact ‹_ + _ = 32›)
    | (intro)
    | (extract_lets)
    | (with_reducible apply Keeps.ite)
    | (with_reducible apply Keeps.foldl)
    | (with_reducible apply Keeps.foldlSnd)
    | (with_reducible apply Keeps.step ?_ (enqueue_keeps _ _) ?_)
    | (split)
    | (dsimp only)
    | (dsimp +zetaDelta only)

theorem countActivity_keeps (f account category n : Nat) (s : State) : Keeps [.fld] s (countActivity f account category n s) := by
  unfold countActivity
  repeat' first
    | (with_reducible exact Keeps.refl _ _)
    | (with_reducible assumption)
    | (exact rfl)
    | (exact ‹_ + _ = 32›)
    | (intro)
    | (extract_lets)
    | (with_reducible apply Keeps.ite)
    | (with_reducible apply Keeps.foldl)
    | (with_reducible apply Keeps.foldlSnd)
    | (with_reducible apply Keeps.step ?_ (modFld_keeps _ _ _) ?_)
    | (split)
    | (dsimp only)
    | (dsimp +zetaDelta only)

theorem countAccess_keeps (k space n : Nat) (s : State) : Keeps [.fld] s (countAccess k space n s) := by
  unfold countAccess
  repeat' first
    | (with_reducible exact Keeps.refl _ _)
    | (with_reducible assumption)
    | (exact rfl)
    | (exact ‹_ + _ = 32›)
    | (intro)
    | (extract_lets)
    | (with_reducible apply Keeps.ite)
    | (with_reducible apply Keeps.foldl)
    | (with_reducible apply Keeps.foldlSnd)
    | (with_reducible apply Keeps.step ?_ (countActivity_keeps _ _ _ _ _) ?_)
    | (split)
    | (dsimp only)
    | (dsimp +zetaDelta only)

end Sys2Proof.Machine
end

