-- ==== Sys2Proof/Laws/Keeps/Routing.lean ====
section
/-! SUPPORT. What the operations of Machine/Routing.lean may write, and that they keep the invariant. -/

namespace Sys2Proof.Machine

open Sys2Proof

set_option linter.unusedTactic false
set_option linter.unreachableTactic false

theorem latchEdges_keeps (s : State) : Keeps [.mesh] s (latchEdges s) := by
  unfold latchEdges
  repeat' first
    | (with_reducible exact Keeps.refl _ _)
    | (with_reducible assumption)
    | (exact rfl)
    | (exact ‹_ + _ = 32›)
    | (intro)
    | (extract_lets)
    | (with_reducible apply Keeps.ite)
    | (with_reducible apply Keeps.foldl)
    | (with_reducible apply Keeps.foldlSnd)
    | (fail_if_no_progress ((with_reducible apply Keeps.setMesh) <;> [skip; (exact rfl)]))
    | (split)
    | (dsimp only)
    | (dsimp +zetaDelta only)

theorem writeDetours_keeps (s : State) : Keeps [.tiles, .mesh] s (writeDetours s) := by
  unfold writeDetours
  repeat' first
    | (with_reducible exact Keeps.refl _ _)
    | (with_reducible assumption)
    | (exact rfl)
    | (exact ‹_ + _ = 32›)
    | (intro)
    | (extract_lets)
    | (with_reducible apply Keeps.ite)
    | (with_reducible apply Keeps.foldl)
    | (with_reducible apply Keeps.foldlSnd)
    | (fail_if_no_progress ((with_reducible apply Keeps.setTiles) <;> [skip; (exact rfl)]))
    | (with_reducible apply Keeps.step ?_ (modTile_keeps _ _ _) ?_)
    | (with_reducible apply Keeps.step ?_ (latchEdges_keeps _) ?_)
    | (split)
    | (dsimp only)
    | (dsimp +zetaDelta only)

theorem noteHops_keeps (m : MeshMsg) (s : State) : Keeps [.fld] s (noteHops m s) := by
  unfold noteHops
  repeat' first
    | (with_reducible exact Keeps.refl _ _)
    | (with_reducible assumption)
    | (exact rfl)
    | (exact ‹_ + _ = 32›)
    | (intro)
    | (extract_lets)
    | (with_reducible apply Keeps.ite)
    | (with_reducible apply Keeps.foldl)
    | (with_reducible apply Keeps.foldlSnd)
    | (with_reducible apply Keeps.step ?_ (countActivity_keeps _ _ _ _ _) ?_)
    | (split)
    | (dsimp only)
    | (dsimp +zetaDelta only)

theorem crossed_keeps (h : Head) (control : Bool) (kind : Nat) (s : State) : Keeps [.fld, .power, .mesh] s (crossed h control kind s) := by
  unfold crossed
  repeat' first
    | (with_reducible exact Keeps.refl _ _)
    | (with_reducible assumption)
    | (exact rfl)
    | (exact ‹_ + _ = 32›)
    | (intro)
    | (extract_lets)
    | (with_reducible apply Keeps.ite)
    | (with_reducible apply Keeps.foldl)
    | (with_reducible apply Keeps.foldlSnd)
    | (with_reducible apply Keeps.step ?_ (ringCount_keeps _ _ _) ?_)
    | (with_reducible apply Keeps.step ?_ (noteHops_keeps _ _) ?_)
    | (with_reducible apply Keeps.step ?_ (land_keeps _ _ _ _) ?_)
    | (split)
    | (dsimp only)
    | (dsimp +zetaDelta only)

end Sys2Proof.Machine
end

