-- ==== Sys2Proof/Laws/Keeps/Objects.lean ====
section
/-! SUPPORT. What the operations of Machine/Objects.lean may write, and that they keep the invariant. -/

namespace Sys2Proof.Machine

open Sys2Proof

set_option linter.unusedTactic false
set_option linter.unreachableTactic false

theorem putNum_keeps (index sub v : Nat) (s : State) : Keeps [.parts, .crest, .settings, .regs] s (putNum index sub v s) := by
  unfold putNum
  repeat' first
    | (with_reducible exact Keeps.refl _ _)
    | (with_reducible assumption)
    | (exact rfl)
    | (exact ‹_ + _ = 32›)
    | (intro)
    | (extract_lets)
    | (with_reducible apply Keeps.ite)
    | (with_reducible apply Keeps.foldl)
    | (with_reducible apply Keeps.foldlSnd)
    | (fail_if_no_progress ((with_reducible apply Keeps.setCrest) <;> [skip; (exact rfl)]))
    | (fail_if_no_progress ((with_reducible apply Keeps.setSettings) <;> [skip; (exact rfl)]))
    | (with_reducible apply Keeps.step ?_ (modPart_keeps _ _ _) ?_)
    | (with_reducible apply Keeps.step ?_ (setReg_keeps _ _ _) ?_)
    | (split)
    | (dsimp only)
    | (dsimp +zetaDelta only)

theorem putOctets_keeps (index sub : Nat) (v : List Byte) (s : State) : Keeps [.sec] s (putOctets index sub v s) := by
  unfold putOctets
  repeat' first
    | (with_reducible exact Keeps.refl _ _)
    | (with_reducible assumption)
    | (exact rfl)
    | (exact ‹_ + _ = 32›)
    | (intro)
    | (extract_lets)
    | (with_reducible apply Keeps.ite)
    | (with_reducible apply Keeps.foldl)
    | (with_reducible apply Keeps.foldlSnd)
    | (fail_if_no_progress ((with_reducible apply Keeps.setSec) <;> [skip; (exact rfl)]))
    | (split)
    | (dsimp only)
    | (dsimp +zetaDelta only)

end Sys2Proof.Machine
end

