-- ==== Sys2Proof/Laws/Keeps/Settings.lean ====
section
/-! SUPPORT. What the operations of Machine/Settings.lean may write, and that they keep the invariant. -/

namespace Sys2Proof.Machine

open Sys2Proof

set_option linter.unusedTactic false
set_option linter.unreachableTactic false

theorem noteChange_keeps (s : State) : Keeps [.settings] s (noteChange s) := by
  unfold noteChange
  repeat' first
    | (with_reducible exact Keeps.refl _ _)
    | (with_reducible assumption)
    | (exact rfl)
    | (exact ‹_ + _ = 32›)
    | (intro)
    | (extract_lets)
    | (with_reducible apply Keeps.ite)
    | (with_reducible apply Keeps.foldl)
    | (with_reducible apply Keeps.foldlSnd)
    | (fail_if_no_progress ((with_reducible apply Keeps.setSettings) <;> [skip; (exact rfl)]))
    | (split)
    | (dsimp only)
    | (dsimp +zetaDelta only)

theorem endSave_keeps (good : Bool) (s : State) : Keeps [.events, .settings] s (endSave good s) := by
  unfold endSave
  repeat' first
    | (with_reducible exact Keeps.refl _ _)
    | (with_reducible assumption)
    | (exact rfl)
    | (exact ‹_ + _ = 32›)
    | (intro)
    | (extract_lets)
    | (with_reducible apply Keeps.ite)
    | (with_reducible apply Keeps.foldl)
    | (with_reducible apply Keeps.foldlSnd)
    | (fail_if_no_progress ((with_reducible apply Keeps.setSettings) <;> [skip; (exact rfl)]))
    | (with_reducible apply Keeps.step ?_ (raise_keeps _ _) ?_)
    | (with_reducible apply Keeps.step ?_ (noteChange_keeps _) ?_)
    | (split)
    | (dsimp only)
    | (dsimp +zetaDelta only)

theorem restoreRec_keeps (s : State) (r : SetRec) : Keeps [.sec, .parts, .crest, .settings, .regs] s (restoreRec s r) := by
  unfold restoreRec
  repeat' first
    | (with_reducible exact Keeps.refl _ _)
    | (with_reducible assumption)
    | (exact rfl)
    | (exact ‹_ + _ = 32›)
    | (intro)
    | (extract_lets)
    | (with_reducible apply Keeps.ite)
    | (with_reducible apply Keeps.foldl)
    | (with_reducible apply Keeps.foldlSnd)
    | (fail_if_no_progress ((with_reducible apply Keeps.setSettings) <;> [skip; (exact rfl)]))
    | (with_reducible apply Keeps.step ?_ (putOctets_keeps _ _ _ _) ?_)
    | (with_reducible apply Keeps.step ?_ (putNum_keeps _ _ _ _) ?_)
    | (split)
    | (dsimp only)
    | (dsimp +zetaDelta only)

theorem restoreSettings_keeps (s : State) : Keeps [.events, .sec, .parts, .crest, .settings, .regs] s (restoreSettings s) := by
  unfold restoreSettings
  repeat' first
    | (with_reducible exact Keeps.refl _ _)
    | (with_reducible assumption)
    | (exact rfl)
    | (exact ‹_ + _ = 32›)
    | (intro)
    | (extract_lets)
    | (with_reducible apply Keeps.ite)
    | (with_reducible apply Keeps.foldl)
    | (with_reducible apply Keeps.foldlSnd)
    | (fail_if_no_progress ((with_reducible apply Keeps.setSettings) <;> [skip; (exact rfl)]))
    | (with_reducible apply Keeps.step ?_ (raise_keeps _ _) ?_)
    | (with_reducible apply Keeps.step ?_ (restoreRec_keeps _ _) ?_)
    | (split)
    | (dsimp only)
    | (dsimp +zetaDelta only)

theorem dropCarried_keeps (key : Nat) (s : State) : Keeps [.settings] s (dropCarried key s) := by
  unfold dropCarried
  repeat' first
    | (with_reducible exact Keeps.refl _ _)
    | (with_reducible assumption)
    | (exact rfl)
    | (exact ‹_ + _ = 32›)
    | (intro)
    | (extract_lets)
    | (with_reducible apply Keeps.ite)
    | (with_reducible apply Keeps.foldl)
    | (with_reducible apply Keeps.foldlSnd)
    | (fail_if_no_progress ((with_reducible apply Keeps.setSettings) <;> [skip; (exact rfl)]))
    | (split)
    | (dsimp only)
    | (dsimp +zetaDelta only)

theorem applySites_keeps (s : State) : Keeps [.mesh, .settings] s (applySites s) := by
  unfold applySites
  repeat' first
    | (with_reducible exact Keeps.refl _ _)
    | (with_reducible assumption)
    | (exact rfl)
    | (exact ‹_ + _ = 32›)
    | (intro)
    | (extract_lets)
    | (with_reducible apply Keeps.ite)
    | (with_reducible apply Keeps.foldl)
    | (with_reducible apply Keeps.foldlSnd)
    | (fail_if_no_progress ((with_reducible apply Keeps.setMesh) <;> [skip; (exact rfl)]))
    | (fail_if_no_progress ((with_reducible apply Keeps.setSettings) <;> [skip; (exact rfl)]))
    | (split)
    | (dsimp only)
    | (dsimp +zetaDelta only)

end Sys2Proof.Machine
end

