-- ==== Sys2Proof/Laws/Keeps/Span.lean ====
section
/-! SUPPORT. What the operations of Machine/Span.lean may write, and that they keep the invariant. -/

namespace Sys2Proof.Machine

open Sys2Proof

set_option linter.unusedTactic false
set_option linter.unreachableTactic false

theorem spanFields_keeps (fs : List Nat) (valid : Bool) (s : State) : Keeps [.fld, .events, .fabric] s (spanFields fs valid s) := by
  unfold spanFields
  repeat' first
    | (with_reducible exact Keeps.refl _ _)
    | (with_reducible assumption)
    | (exact rfl)
    | (exact ‹_ + _ = 32›)
    | (intro)
    | (extract_lets)
    | (with_reducible apply Keeps.ite)
    | (with_reducible apply Keeps.foldl)
    | (with_reducible apply Keeps.foldlSnd)
    | (fail_if_no_progress ((with_reducible apply Keeps.setFabric) <;> [skip; (exact rfl); (first | exact fun h => h | exact fun _ => rfl | exact flowsOk_nil)]))
    | (with_reducible apply Keeps.step ?_ (modFld_keeps _ _ _) ?_)
    | (with_reducible apply Keeps.step ?_ (raiseAll_keeps _ _) ?_)
    | (split)
    | (dsimp only)
    | (dsimp +zetaDelta only)

theorem spanPosition_keeps (pos : Nat) (s : State) : Keeps [.events, .fabric] s (spanPosition pos s) := by
  unfold spanPosition
  repeat' first
    | (with_reducible exact Keeps.refl _ _)
    | (with_reducible assumption)
    | (exact rfl)
    | (exact ‹_ + _ = 32›)
    | (intro)
    | (extract_lets)
    | (with_reducible apply Keeps.ite)
    | (with_reducible apply Keeps.foldl)
    | (with_reducible apply Keeps.foldlSnd)
    | (fail_if_no_progress ((with_reducible apply Keeps.setFabric) <;> [skip; (exact rfl); (first | exact fun h => h | exact fun _ => rfl | exact flowsOk_nil)]))
    | (with_reducible apply Keeps.step ?_ (raise_keeps _ _) ?_)
    | (split)
    | (dsimp only)
    | (dsimp +zetaDelta only)

theorem invalidateDone_keeps (s : State) : Keeps [.fabric] s (invalidateDone s) := by
  unfold invalidateDone
  repeat' first
    | (with_reducible exact Keeps.refl _ _)
    | (with_reducible assumption)
    | (exact rfl)
    | (exact ‹_ + _ = 32›)
    | (intro)
    | (extract_lets)
    | (with_reducible apply Keeps.ite)
    | (with_reducible apply Keeps.foldl)
    | (with_reducible apply Keeps.foldlSnd)
    | (fail_if_no_progress ((with_reducible apply Keeps.setFabric) <;> [skip; (exact rfl); (first | exact fun h => h | exact fun _ => rfl | exact flowsOk_nil)]))
    | (split)
    | (dsimp only)
    | (dsimp +zetaDelta only)

theorem modCache_keeps (cache : Nat) (g : List CacheEntry → List CacheEntry) (s : State) : Keeps [.fabric] s (modCache cache g s) := by
  unfold modCache
  repeat' first
    | (with_reducible exact Keeps.refl _ _)
    | (with_reducible assumption)
    | (exact rfl)
    | (exact ‹_ + _ = 32›)
    | (intro)
    | (extract_lets)
    | (with_reducible apply Keeps.ite)
    | (with_reducible apply Keeps.foldl)
    | (with_reducible apply Keeps.foldlSnd)
    | (fail_if_no_progress ((with_reducible apply Keeps.setFabric) <;> [skip; (exact rfl); (first | exact fun h => h | exact fun _ => rfl | exact flowsOk_nil)]))
    | (split)
    | (dsimp only)
    | (dsimp +zetaDelta only)

theorem cacheHit_keeps (cache pos : Nat) (s : State) : Keeps [.fabric] s (cacheHit cache pos s) := by
  unfold cacheHit
  repeat' first
    | (with_reducible exact Keeps.refl _ _)
    | (with_reducible assumption)
    | (exact rfl)
    | (exact ‹_ + _ = 32›)
    | (intro)
    | (extract_lets)
    | (with_reducible apply Keeps.ite)
    | (with_reducible apply Keeps.foldl)
    | (with_reducible apply Keeps.foldlSnd)
    | (with_reducible apply Keeps.step ?_ (modCache_keeps _ _ _) ?_)
    | (split)
    | (dsimp only)
    | (dsimp +zetaDelta only)

theorem cacheFill_keeps (cache pos : Nat) (entry : Word64) (s : State) : Keeps [.fabric] s (cacheFill cache pos entry s) := by
  unfold cacheFill
  repeat' first
    | (with_reducible exact Keeps.refl _ _)
    | (with_reducible assumption)
    | (exact rfl)
    | (exact ‹_ + _ = 32›)
    | (intro)
    | (extract_lets)
    | (with_reducible apply Keeps.ite)
    | (with_reducible apply Keeps.foldl)
    | (with_reducible apply Keeps.foldlSnd)
    | (with_reducible apply Keeps.step ?_ (modCache_keeps _ _ _) ?_)
    | (split)
    | (dsimp only)
    | (dsimp +zetaDelta only)

theorem ageCaches_keeps (s : State) : Keeps [.fabric] s (ageCaches s) := by
  unfold ageCaches
  repeat' first
    | (with_reducible exact Keeps.refl _ _)
    | (with_reducible assumption)
    | (exact rfl)
    | (exact ‹_ + _ = 32›)
    | (intro)
    | (extract_lets)
    | (with_reducible apply Keeps.ite)
    | (with_reducible apply Keeps.foldl)
    | (with_reducible apply Keeps.foldlSnd)
    | (fail_if_no_progress ((with_reducible apply Keeps.setFabric) <;> [skip; (exact rfl); (first | exact fun h => h | exact fun _ => rfl | exact flowsOk_nil)]))
    | (split)
    | (dsimp only)
    | (dsimp +zetaDelta only)

theorem sendRoutes_keeps (s : State) : Keeps [.power, .parts, .mesh] s (sendRoutes s) := by
  unfold sendRoutes
  repeat' first
    | (with_reducible exact Keeps.refl _ _)
    | (with_reducible assumption)
    | (exact rfl)
    | (exact ‹_ + _ = 32›)
    | (intro)
    | (extract_lets)
    | (with_reducible apply Keeps.ite)
    | (with_reducible apply Keeps.foldl)
    | (with_reducible apply Keeps.foldlSnd)
    | (with_reducible apply Keeps.step ?_ (send_keeps _ _) ?_)
    | (split)
    | (dsimp only)
    | (dsimp +zetaDelta only)

theorem replaceSite_keeps (k : Nat) (s : State) : Keeps [.events, .tiles, .mem, .ecc, .mesh, .fabric] s (replaceSite k s).2 := by
  unfold replaceSite
  repeat' first
    | (with_reducible exact Keeps.refl _ _)
    | (with_reducible assumption)
    | (exact rfl)
    | (exact ‹_ + _ = 32›)
    | (intro)
    | (extract_lets)
    | (with_reducible apply Keeps.ite)
    | (with_reducible apply Keeps.foldl)
    | (with_reducible apply Keeps.foldlSnd)
    | (fail_if_no_progress ((with_reducible apply Keeps.setFabric) <;> [skip; (exact rfl); (first | exact fun h => h | exact fun _ => rfl | exact flowsOk_nil)]))
    | (fail_if_no_progress ((with_reducible apply Keeps.setMesh) <;> [skip; (exact rfl)]))
    | (fail_if_no_progress ((with_reducible apply Keeps.setTiles) <;> [skip; (exact rfl)]))
    | (with_reducible apply Keeps.step ?_ (zeroSites_keeps _ _) ?_)
    | (with_reducible apply Keeps.step ?_ (spanPosition_keeps _ _) ?_)
    | (split)
    | (dsimp only)
    | (dsimp +zetaDelta only)

theorem replaceSite_eq {k : Nat} {s : State} {x} {t : State} (h : replaceSite k s = (x, t)) : Keeps [.events, .tiles, .mem, .ecc, .mesh, .fabric] s t := by
  have := replaceSite_keeps k s
  rwa [h] at this

theorem settleRoutes_keeps (n m : Nat) (s : State) : Keeps [.events, .tiles, .mem, .ecc, .mesh, .fabric] s (settleRoutes n m s) := by
  induction n generalizing m s with
  | zero => exact Keeps.refl _ _
  | succ n ih =>
    unfold settleRoutes
    repeat' first
      | (with_reducible exact Keeps.refl _ _)
      | (with_reducible assumption)
      | (exact rfl)
      | (exact ‹_ + _ = 32›)
      | (intro)
      | (extract_lets)
      | (with_reducible apply Keeps.ite)
      | (with_reducible apply Keeps.foldl)
      | (with_reducible apply Keeps.foldlSnd)
      | (with_reducible apply Keeps.step ?_ (raise_keeps _ _) ?_)
      | (with_reducible apply Keeps.step ?_ (replaceSite_keeps _ _) ?_)
      | (with_reducible apply Keeps.step ?_ (replaceSite_eq ‹_›) ?_)
      | (with_reducible apply Keeps.trans ?_ (ih _ _))
      | (split)
      | (dsimp only)
      | (dsimp +zetaDelta only)

theorem rebuildRoutes_keeps (k : Nat) (s : State) : Keeps [.power, .events, .parts, .tiles, .mem, .ecc, .mesh, .fabric] s (rebuildRoutes k s) := by
  unfold rebuildRoutes
  repeat' first
    | (with_reducible exact Keeps.refl _ _)
    | (with_reducible assumption)
    | (exact rfl)
    | (exact ‹_ + _ = 32›)
    | (intro)
    | (extract_lets)
    | (with_reducible apply Keeps.ite)
    | (with_reducible apply Keeps.foldl)
    | (with_reducible apply Keeps.foldlSnd)
    | (fail_if_no_progress ((with_reducible apply Keeps.setMesh) <;> [skip; (exact rfl)]))
    | (with_reducible apply Keeps.step ?_ (sendRoutes_keeps _) ?_)
    | (with_reducible apply Keeps.step ?_ (settleRoutes_keeps _ _ _) ?_)
    | (with_reducible apply Keeps.step ?_ (latchEdges_keeps _) ?_)
    | (with_reducible apply Keeps.step ?_ (raise_keeps _ _) ?_)
    | (split)
    | (dsimp only)
    | (dsimp +zetaDelta only)

theorem retireNow_keeps (k : Nat) (s : State) : Keeps [.power, .events, .parts, .tiles, .mem, .ecc, .mesh, .fabric, .settings] s (retireNow k s) := by
  unfold retireNow
  repeat' first
    | (with_reducible exact Keeps.refl _ _)
    | (with_reducible assumption)
    | (exact rfl)
    | (exact ‹_ + _ = 32›)
    | (intro)
    | (extract_lets)
    | (with_reducible apply Keeps.ite)
    | (with_reducible apply Keeps.foldl)
    | (with_reducible apply Keeps.foldlSnd)
    | (with_reducible apply Keeps.step ?_ (replaceSite_keeps _ _) ?_)
    | (with_reducible apply Keeps.step ?_ (replaceSite_eq ‹_›) ?_)
    | (with_reducible apply Keeps.step ?_ (rebuildRoutes_keeps _ _) ?_)
    | (with_reducible apply Keeps.step ?_ (noteChange_keeps _) ?_)
    | (with_reducible apply Keeps.step ?_ (raise_keeps _ _) ?_)
    | (split)
    | (dsimp only)
    | (dsimp +zetaDelta only)

theorem retire_keeps (k : Nat) (s : State) : Keeps [.power, .events, .parts, .tiles, .mem, .ecc, .mesh, .fabric, .settings] s (retire k s) := by
  unfold retire
  repeat' first
    | (with_reducible exact Keeps.refl _ _)
    | (with_reducible assumption)
    | (exact rfl)
    | (exact ‹_ + _ = 32›)
    | (intro)
    | (extract_lets)
    | (with_reducible apply Keeps.ite)
    | (with_reducible apply Keeps.foldl)
    | (with_reducible apply Keeps.foldlSnd)
    | (fail_if_no_progress ((with_reducible apply Keeps.setMesh) <;> [skip; (exact rfl)]))
    | (with_reducible apply Keeps.step ?_ (raise_keeps _ _) ?_)
    | (with_reducible apply Keeps.step ?_ (retireNow_keeps _ _) ?_)
    | (split)
    | (dsimp only)
    | (dsimp +zetaDelta only)

theorem noteUncorrected_keeps (k : Nat) (s : State) : Keeps [.power, .events, .parts, .tiles, .mem, .ecc, .mesh, .fabric, .settings] s (noteUncorrected k s) := by
  unfold noteUncorrected
  repeat' first
    | (with_reducible exact Keeps.refl _ _)
    | (with_reducible assumption)
    | (exact rfl)
    | (exact ‹_ + _ = 32›)
    | (intro)
    | (extract_lets)
    | (with_reducible apply Keeps.ite)
    | (with_reducible apply Keeps.foldl)
    | (with_reducible apply Keeps.foldlSnd)
    | (with_reducible apply Keeps.step ?_ (modTile_keeps _ _ _) ?_)
    | (with_reducible apply Keeps.step ?_ (retire_keeps _ _) ?_)
    | (split)
    | (dsimp only)
    | (dsimp +zetaDelta only)

end Sys2Proof.Machine
end

