-- ==== Sys2Proof/Laws/Keeps/Fabric.lean ====
section
/-! SUPPORT. What the operations of Machine/Fabric.lean may write, and that they keep the invariant. -/

namespace Sys2Proof.Machine

open Sys2Proof

set_option linter.unusedTactic false
set_option linter.unreachableTactic false

theorem modPort_keeps (i : Nat) (g : Port → Port) (s : State) : Keeps [.fabric] s (modPort i g s) := by
  unfold modPort
  repeat' first
    | (with_reducible exact Keeps.refl _ _)
    | (with_reducible assumption)
    | (exact rfl)
    | (exact ‹_ + _ = 32›)
    | (intro)
    | (extract_lets)
    | (with_reducible apply Keeps.ite)
    | (with_reducible apply Keeps.foldl)
    | (with_reducible apply Keeps.foldlSnd)
    | (fail_if_no_progress ((with_reducible apply Keeps.setFabric) <;> [skip; (exact rfl); (first | exact fun h => h | exact fun _ => rfl | exact flowsOk_nil)]))
    | (split)
    | (dsimp only)
    | (dsimp +zetaDelta only)

theorem notePair_keeps (g : Nat) (before s : State) : Keeps [.events] s (notePair g before s) := by
  unfold notePair
  repeat' first
    | (with_reducible exact Keeps.refl _ _)
    | (with_reducible assumption)
    | (exact rfl)
    | (exact ‹_ + _ = 32›)
    | (intro)
    | (extract_lets)
    | (with_reducible apply Keeps.ite)
    | (with_reducible apply Keeps.foldl)
    | (with_reducible apply Keeps.foldlSnd)
    | (with_reducible apply Keeps.step ?_ (raise_keeps _ _) ?_)
    | (split)
    | (dsimp only)
    | (dsimp +zetaDelta only)

theorem startPacket_keeps (i : Nat) (w : WirePkt) (s : State) : Keeps [.power, .fabric] s (startPacket i w s) := by
  unfold startPacket
  repeat' first
    | (with_reducible exact Keeps.refl _ _)
    | (with_reducible assumption)
    | (exact rfl)
    | (exact ‹_ + _ = 32›)
    | (intro)
    | (extract_lets)
    | (with_reducible apply Keeps.ite)
    | (with_reducible apply Keeps.foldl)
    | (with_reducible apply Keeps.foldlSnd)
    | (fail_if_no_progress ((with_reducible apply Keeps.setFabric) <;> [skip; (exact rfl); (first | exact fun h => h | exact fun _ => rfl | exact flowsOk_nil)]))
    | (with_reducible apply Keeps.step ?_ (modPort_keeps _ _ _) ?_)
    | (with_reducible apply Keeps.step ?_ (ringCount_keeps _ _ _) ?_)
    | (split)
    | (dsimp only)
    | (dsimp +zetaDelta only)

theorem drainN_keeps (i n : Nat) (s : State) : Keeps [.power, .fabric] s (drainN i n s) := by
  induction n generalizing s with
  | zero => exact Keeps.refl _ _
  | succ n ih =>
    unfold drainN
    repeat' first
      | (with_reducible exact Keeps.refl _ _)
      | (with_reducible assumption)
      | (exact rfl)
      | (exact ‹_ + _ = 32›)
      | (intro)
      | (extract_lets)
      | (with_reducible apply Keeps.ite)
      | (with_reducible apply Keeps.foldl)
      | (with_reducible apply Keeps.foldlSnd)
      | (with_reducible apply Keeps.step ?_ (startPacket_keeps _ _ _) ?_)
      | (with_reducible apply Keeps.trans ?_ (ih _))
      | (split)
      | (dsimp only)
      | (dsimp +zetaDelta only)

theorem drainPort_keeps (i : Nat) (s : State) : Keeps [.power, .fabric] s (drainPort i s) := by
  unfold drainPort
  repeat' first
    | (with_reducible exact Keeps.refl _ _)
    | (with_reducible assumption)
    | (exact rfl)
    | (exact ‹_ + _ = 32›)
    | (intro)
    | (extract_lets)
    | (with_reducible apply Keeps.ite)
    | (with_reducible apply Keeps.foldl)
    | (with_reducible apply Keeps.foldlSnd)
    | (with_reducible apply Keeps.step ?_ (drainN_keeps _ _ _) ?_)
    | (split)
    | (dsimp only)
    | (dsimp +zetaDelta only)

theorem putOnPort_keeps (i : Nat) (w : WirePkt) (s : State) : Keeps [.power, .fabric] s (putOnPort i w s) := by
  unfold putOnPort
  repeat' first
    | (with_reducible exact Keeps.refl _ _)
    | (with_reducible assumption)
    | (exact rfl)
    | (exact ‹_ + _ = 32›)
    | (intro)
    | (extract_lets)
    | (with_reducible apply Keeps.ite)
    | (with_reducible apply Keeps.foldl)
    | (with_reducible apply Keeps.foldlSnd)
    | (with_reducible apply Keeps.step ?_ (drainPort_keeps _ _) ?_)
    | (with_reducible apply Keeps.step ?_ (ringCount_keeps _ _ _) ?_)
    | (with_reducible apply Keeps.step ?_ (modPort_keeps _ _ _) ?_)
    | (split)
    | (dsimp only)
    | (dsimp +zetaDelta only)

theorem sendUnseq_keeps (node domain opcode : Nat) (data : List Byte) (alt : Nat × Nat) (s : State) : Keeps [.power, .events, .fabric] s (sendUnseq node domain opcode data alt s) := by
  unfold sendUnseq
  repeat' first
    | (with_reducible exact Keeps.refl _ _)
    | (with_reducible assumption)
    | (exact rfl)
    | (exact ‹_ + _ = 32›)
    | (intro)
    | (extract_lets)
    | (with_reducible apply Keeps.ite)
    | (with_reducible apply Keeps.foldl)
    | (with_reducible apply Keeps.foldlSnd)
    | (fail_if_no_progress ((with_reducible apply Keeps.setFabric) <;> [skip; (exact rfl); (first | exact fun h => h | exact fun _ => rfl | exact flowsOk_nil)]))
    | (with_reducible apply Keeps.step ?_ (raise_keeps _ _) ?_)
    | (with_reducible apply Keeps.step ?_ (putOnPort_keeps _ _ _) ?_)
    | (split)
    | (dsimp only)
    | (dsimp +zetaDelta only)

theorem sendAck_keeps (p : Pkt) (n : Nat) (refused : Bool) (s : State) : Keeps [.power, .events, .fabric] s (sendAck p n refused s) := by
  unfold sendAck
  repeat' first
    | (with_reducible exact Keeps.refl _ _)
    | (with_reducible assumption)
    | (exact rfl)
    | (exact ‹_ + _ = 32›)
    | (intro)
    | (extract_lets)
    | (with_reducible apply Keeps.ite)
    | (with_reducible apply Keeps.foldl)
    | (with_reducible apply Keeps.foldlSnd)
    | (with_reducible apply Keeps.step ?_ (sendUnseq_keeps _ _ _ _ _ _) ?_)
    | (split)
    | (dsimp only)
    | (dsimp +zetaDelta only)

theorem modRx_keeps (node domain : Nat) (g : FlowRx → FlowRx) (s : State) : Keeps [.fabric] s (modRx node domain g s) := by
  unfold modRx
  repeat' first
    | (with_reducible exact Keeps.refl _ _)
    | (with_reducible assumption)
    | (exact rfl)
    | (exact ‹_ + _ = 32›)
    | (intro)
    | (extract_lets)
    | (with_reducible apply Keeps.ite)
    | (with_reducible apply Keeps.foldl)
    | (with_reducible apply Keeps.foldlSnd)
    | (fail_if_no_progress ((with_reducible apply Keeps.setFabric) <;> [skip; (exact rfl); (first | exact fun h => h | exact fun _ => rfl | exact flowsOk_nil)]))
    | (split)
    | (dsimp only)
    | (dsimp +zetaDelta only)

theorem advanceRx_keeps (node domain n : Nat) (s : State) : Keeps [.fabric] s (advanceRx node domain n s) := by
  induction n generalizing s with
  | zero => exact Keeps.refl _ _
  | succ n ih =>
    unfold advanceRx
    repeat' first
      | (with_reducible exact Keeps.refl _ _)
      | (with_reducible assumption)
      | (exact rfl)
      | (exact ‹_ + _ = 32›)
      | (intro)
      | (extract_lets)
      | (with_reducible apply Keeps.ite)
      | (with_reducible apply Keeps.foldl)
      | (with_reducible apply Keeps.foldlSnd)
      | (fail_if_no_progress ((with_reducible apply Keeps.setFabric) <;> [skip; (exact rfl); (first | exact fun h => h | exact fun _ => rfl | exact flowsOk_nil)]))
      | (with_reducible apply Keeps.step ?_ (modRx_keeps _ _ _ _) ?_)
      | (with_reducible apply Keeps.trans ?_ (ih _))
      | (split)
      | (dsimp only)
      | (dsimp +zetaDelta only)

theorem advanceAll_keeps (node domain : Nat) (s : State) : Keeps [.fabric] s (advanceAll node domain s) := by
  unfold advanceAll
  repeat' first
    | (with_reducible exact Keeps.refl _ _)
    | (with_reducible assumption)
    | (exact rfl)
    | (exact ‹_ + _ = 32›)
    | (intro)
    | (extract_lets)
    | (with_reducible apply Keeps.ite)
    | (with_reducible apply Keeps.foldl)
    | (with_reducible apply Keeps.foldlSnd)
    | (with_reducible apply Keeps.step ?_ (advanceRx_keeps _ _ _ _) ?_)
    | (split)
    | (dsimp only)
    | (dsimp +zetaDelta only)

theorem deliver_keeps {w : List Region} (p : Pkt) (n : Nat) (act : State → State) (s : State) (hact : ∀ s, Keeps w s (act s))
    (hw : List.all [.power, .events, .fabric] (w.contains ·) = true) : Keeps w s (deliver p n act s) := by
  unfold deliver
  repeat' first
    | (with_reducible exact Keeps.refl _ _)
    | (with_reducible assumption)
    | (exact rfl)
    | (exact ‹_ + _ = 32›)
    | (intro)
    | (extract_lets)
    | (with_reducible apply Keeps.ite)
    | (with_reducible apply Keeps.foldl)
    | (with_reducible apply Keeps.foldlSnd)
    | (with_reducible apply Keeps.trans ?_ (hact _))
    | (with_reducible apply Keeps.step ?_ (sendAck_keeps _ _ _ _) ?_)
    | (with_reducible apply Keeps.step ?_ (modRx_keeps _ _ _ _) ?_)
    | (with_reducible apply Keeps.step ?_ (raise_keeps _ _) ?_)
    | (exact cover rfl hw)
    | ((simp_all; done))
    | (split)
    | (dsimp only)
    | (dsimp +zetaDelta only)

theorem received_keeps (i account size : Nat) (s : State) : Keeps [.power, .fabric] s (received i account size s) := by
  unfold received
  repeat' first
    | (with_reducible exact Keeps.refl _ _)
    | (with_reducible assumption)
    | (exact rfl)
    | (exact ‹_ + _ = 32›)
    | (intro)
    | (extract_lets)
    | (with_reducible apply Keeps.ite)
    | (with_reducible apply Keeps.foldl)
    | (with_reducible apply Keeps.foldlSnd)
    | (with_reducible apply Keeps.step ?_ (ringCount_keeps _ _ _) ?_)
    | (with_reducible apply Keeps.step ?_ (modPort_keeps _ _ _) ?_)
    | (split)
    | (dsimp only)
    | (dsimp +zetaDelta only)

theorem sendBlock_keeps (i : Nat) (nak : Bool) (s : State) : Keeps [.fabric] s (sendBlock i nak s) := by
  unfold sendBlock
  repeat' first
    | (with_reducible exact Keeps.refl _ _)
    | (with_reducible assumption)
    | (exact rfl)
    | (exact ‹_ + _ = 32›)
    | (intro)
    | (extract_lets)
    | (with_reducible apply Keeps.ite)
    | (with_reducible apply Keeps.foldl)
    | (with_reducible apply Keeps.foldlSnd)
    | (fail_if_no_progress ((with_reducible apply Keeps.setFabric) <;> [skip; (exact rfl); (first | exact fun h => h | exact fun _ => rfl | exact flowsOk_nil)]))
    | (split)
    | (dsimp only)
    | (dsimp +zetaDelta only)

theorem hopBad_keeps (i : Nat) (s : State) : Keeps [.fabric] s (hopBad i s) := by
  unfold hopBad
  repeat' first
    | (with_reducible exact Keeps.refl _ _)
    | (with_reducible assumption)
    | (exact rfl)
    | (exact ‹_ + _ = 32›)
    | (intro)
    | (extract_lets)
    | (with_reducible apply Keeps.ite)
    | (with_reducible apply Keeps.foldl)
    | (with_reducible apply Keeps.foldlSnd)
    | (with_reducible apply Keeps.step ?_ (sendBlock_keeps _ _ _) ?_)
    | (with_reducible apply Keeps.step ?_ (modPort_keeps _ _ _) ?_)
    | (split)
    | (dsimp only)
    | (dsimp +zetaDelta only)

theorem linkTake_keeps {w : List Region} (i account size : Nat) (hop : BitVec 16) (good : Bool) (act : State → State) (s : State) (hact : ∀ s, Keeps w s (act s))
    (hw : List.all [.power, .fabric] (w.contains ·) = true) : Keeps w s (linkTake i account size hop good act s) := by
  unfold linkTake
  repeat' first
    | (with_reducible exact Keeps.refl _ _)
    | (with_reducible assumption)
    | (exact rfl)
    | (exact ‹_ + _ = 32›)
    | (intro)
    | (extract_lets)
    | (with_reducible apply Keeps.ite)
    | (with_reducible apply Keeps.foldl)
    | (with_reducible apply Keeps.foldlSnd)
    | (with_reducible apply Keeps.trans ?_ (hact _))
    | (with_reducible apply Keeps.step ?_ (received_keeps _ _ _ _) ?_)
    | (with_reducible apply Keeps.step ?_ (hopBad_keeps _ _) ?_)
    | (exact cover rfl hw)
    | ((simp_all; done))
    | (split)
    | (dsimp only)
    | (dsimp +zetaDelta only)

theorem restartRx_keeps (p : Pkt) (s : State) : Keeps [.fabric] s (restartRx p s) := by
  unfold restartRx
  repeat' first
    | (with_reducible exact Keeps.refl _ _)
    | (with_reducible assumption)
    | (exact rfl)
    | (exact ‹_ + _ = 32›)
    | (intro)
    | (extract_lets)
    | (with_reducible apply Keeps.ite)
    | (with_reducible apply Keeps.foldl)
    | (with_reducible apply Keeps.foldlSnd)
    | (with_reducible apply Keeps.step ?_ (modRx_keeps _ _ _ _) ?_)
    | (split)
    | (dsimp only)
    | (dsimp +zetaDelta only)

theorem sequenced_keeps {w : List Region} (p : Pkt) (self : Instr) (act : State → State) (s : State) (hact : ∀ s, Keeps w s (act s))
    (hw : List.all [.power, .events, .fabric] (w.contains ·) = true) : Keeps w s (sequenced p self act s) := by
  unfold sequenced
  repeat' first
    | (with_reducible exact Keeps.refl _ _)
    | (with_reducible assumption)
    | (exact rfl)
    | (exact ‹_ + _ = 32›)
    | (intro)
    | (extract_lets)
    | (with_reducible apply Keeps.ite)
    | (with_reducible apply Keeps.foldl)
    | (with_reducible apply Keeps.foldlSnd)
    | (with_reducible apply Keeps.trans ?_ (hact _))
    | (with_reducible apply Keeps.step ?_ (raise_keeps _ _) ?_)
    | (with_reducible apply Keeps.step ?_ (restartRx_keeps _ _) ?_)
    | (with_reducible apply Keeps.step ?_ (sendAck_keeps _ _ _ _) ?_)
    | (with_reducible apply Keeps.step ?_ (modRx_keeps _ _ _ _) ?_)
    | (with_reducible apply Keeps.step ?_ (advanceAll_keeps _ _ _) ?_)
    | (with_reducible apply Keeps.trans ?_ (deliver_keeps _ _ _ _ ?_ ?_))
    | (exact cover rfl hw)
    | ((simp_all; done))
    | (split)
    | (dsimp only)
    | (dsimp +zetaDelta only)

theorem ingress_keeps {w : List Region} (p : Pkt) (self : Instr) (act : State → State) (s : State) (hact : ∀ s, Keeps w s (act s))
    (hw : List.all [.power, .events, .fabric] (w.contains ·) = true) : Keeps w s (ingress p self act s) := by
  unfold ingress
  repeat' first
    | (with_reducible exact Keeps.refl _ _)
    | (with_reducible assumption)
    | (exact rfl)
    | (exact ‹_ + _ = 32›)
    | (intro)
    | (extract_lets)
    | (with_reducible apply Keeps.ite)
    | (with_reducible apply Keeps.foldl)
    | (with_reducible apply Keeps.foldlSnd)
    | (with_reducible apply Keeps.trans ?_ (hact _))
    | (with_reducible apply Keeps.trans ?_ (deliver_keeps _ _ _ _ ?_ ?_))
    | (with_reducible apply Keeps.step ?_ (modRx_keeps _ _ _ _) ?_)
    | (with_reducible apply Keeps.trans ?_ (linkTake_keeps _ _ _ _ _ _ _ ?_ ?_))
    | (with_reducible apply Keeps.trans ?_ (sequenced_keeps _ _ _ _ ?_ ?_))
    | (exact cover rfl hw)
    | ((simp_all; done))
    | (split)
    | (dsimp only)
    | (dsimp +zetaDelta only)

theorem resolveOut_keeps (dst domain seq : Nat) (how : Resolved) (s : State) :
    Keeps [.fabric] s (resolveOut dst domain seq how s) := by
  unfold resolveOut
  extract_lets f t
  split
  · exact Keeps.refl _ _
  · next o ho =>
    extract_lets u src
    have h1 : Keeps [.fabric] s t := by
      unfold t modTx
      refine Keeps.setFabric (Keeps.refl _ _) rfl (fun h => ?_)
      have hf := flowsOk_get h (flowKey dst domain)
      refine flowsOk_set h ?_
      have hm := List.mem_of_find?_eq_some ho
      have hl := List.length_eraseP_of_mem (p := fun x : Outst => x.seq == seq) hm (List.find?_some (p := fun x : Outst => x.seq == seq) ho)
      have hp := List.length_pos_of_mem hm
      simp only [f, getTx] at hl hp
      simp only [hl]
      omega
    have h2 : Keeps [.fabric] s u := h1.step (modPort_keeps _ _ _) rfl
    exact Keeps.ite (Keeps.setFabric h2 rfl id) h2

theorem leftBy_keeps (i dst domain : Nat) (q : BitVec 16) (s : State) : Keeps [.fabric] s (leftBy i dst domain q s) := by
  unfold leftBy
  repeat' first
    | (with_reducible exact Keeps.refl _ _)
    | (with_reducible assumption)
    | (exact rfl)
    | (exact ‹_ + _ = 32›)
    | (intro)
    | (extract_lets)
    | (with_reducible apply Keeps.ite)
    | (with_reducible apply Keeps.foldl)
    | (with_reducible apply Keeps.foldlSnd)
    | (with_reducible apply Keeps.step ?_ (modTx_keeps _ _ _ _ ?_) ?_)
    | ((simp only [List.length_map]; assumption))
    | (split)
    | (dsimp only)
    | (dsimp +zetaDelta only)

theorem resend_keeps (o : Outst) (s : State) : Keeps [.power, .fabric] s (resend o s) := by
  unfold resend
  repeat' first
    | (with_reducible exact Keeps.refl _ _)
    | (with_reducible assumption)
    | (exact rfl)
    | (exact ‹_ + _ = 32›)
    | (intro)
    | (extract_lets)
    | (with_reducible apply Keeps.ite)
    | (with_reducible apply Keeps.foldl)
    | (with_reducible apply Keeps.foldlSnd)
    | (with_reducible apply Keeps.step ?_ (putOnPort_keeps _ _ _) ?_)
    | (with_reducible apply Keeps.step ?_ (leftBy_keeps _ _ _ _ _) ?_)
    | (split)
    | (dsimp only)
    | (dsimp +zetaDelta only)

theorem sendLinkState_keeps (i code : Nat) (s : State) : Keeps [.events, .fabric] s (sendLinkState i code s) := by
  unfold sendLinkState
  repeat' first
    | (with_reducible exact Keeps.refl _ _)
    | (with_reducible assumption)
    | (exact rfl)
    | (exact ‹_ + _ = 32›)
    | (intro)
    | (extract_lets)
    | (with_reducible apply Keeps.ite)
    | (with_reducible apply Keeps.foldl)
    | (with_reducible apply Keeps.foldlSnd)
    | (with_reducible apply Keeps.step ?_ (sendPkt_keeps _ _ _ _ _) ?_)
    | (split)
    | (dsimp only)
    | (dsimp +zetaDelta only)

theorem portEmptied_keeps (i : Nat) (s : State) : Keeps [.fabric] s (portEmptied i s) := by
  unfold portEmptied
  repeat' first
    | (with_reducible exact Keeps.refl _ _)
    | (with_reducible assumption)
    | (exact rfl)
    | (exact ‹_ + _ = 32›)
    | (intro)
    | (extract_lets)
    | (with_reducible apply Keeps.ite)
    | (with_reducible apply Keeps.foldl)
    | (with_reducible apply Keeps.foldlSnd)
    | (with_reducible apply Keeps.step ?_ (modPort_keeps _ _ _) ?_)
    | (split)
    | (dsimp only)
    | (dsimp +zetaDelta only)

theorem latchNode_keeps (s : State) : Keeps [.fabric] s (latchNode s) := by
  unfold latchNode
  repeat' first
    | (with_reducible exact Keeps.refl _ _)
    | (with_reducible assumption)
    | (exact rfl)
    | (exact ‹_ + _ = 32›)
    | (intro)
    | (extract_lets)
    | (with_reducible apply Keeps.ite)
    | (with_reducible apply Keeps.foldl)
    | (with_reducible apply Keeps.foldlSnd)
    | (fail_if_no_progress ((with_reducible apply Keeps.setFabric) <;> [skip; (exact rfl); (first | exact fun h => h | exact fun _ => rfl | exact flowsOk_nil)]))
    | (split)
    | (dsimp only)
    | (dsimp +zetaDelta only)

theorem setPort_keeps (i : Nat) (st : PortState) (s : State) : Keeps [.events, .fabric] s (setPort i st s) := by
  unfold setPort
  repeat' first
    | (with_reducible exact Keeps.refl _ _)
    | (with_reducible assumption)
    | (exact rfl)
    | (exact ‹_ + _ = 32›)
    | (intro)
    | (extract_lets)
    | (with_reducible apply Keeps.ite)
    | (with_reducible apply Keeps.foldl)
    | (with_reducible apply Keeps.foldlSnd)
    | (with_reducible apply Keeps.step ?_ (sendLinkState_keeps _ _ _) ?_)
    | (with_reducible apply Keeps.step ?_ (modPort_keeps _ _ _) ?_)
    | (with_reducible apply Keeps.step ?_ (latchNode_keeps _) ?_)
    | (split)
    | (dsimp only)
    | (dsimp +zetaDelta only)

theorem refreshOff_keeps (s : State) : Keeps [.fabric] s (refreshOff s) := by
  unfold refreshOff
  repeat' first
    | (with_reducible exact Keeps.refl _ _)
    | (with_reducible assumption)
    | (exact rfl)
    | (exact ‹_ + _ = 32›)
    | (intro)
    | (extract_lets)
    | (with_reducible apply Keeps.ite)
    | (with_reducible apply Keeps.foldl)
    | (with_reducible apply Keeps.foldlSnd)
    | (with_reducible apply Keeps.step ?_ (sendBlock_keeps _ _ _) ?_)
    | (with_reducible apply Keeps.step ?_ (modPort_keeps _ _ _) ?_)
    | (split)
    | (dsimp only)
    | (dsimp +zetaDelta only)

theorem reroute_keeps (w : WirePkt) (s : State) : Keeps [.power, .fabric] s (reroute w s) := by
  unfold reroute
  repeat' first
    | (with_reducible exact Keeps.refl _ _)
    | (with_reducible assumption)
    | (exact rfl)
    | (exact ‹_ + _ = 32›)
    | (intro)
    | (extract_lets)
    | (with_reducible apply Keeps.ite)
    | (with_reducible apply Keeps.foldl)
    | (with_reducible apply Keeps.foldlSnd)
    | (with_reducible apply Keeps.step ?_ (putOnPort_keeps _ _ _) ?_)
    | (split)
    | (dsimp only)
    | (dsimp +zetaDelta only)

theorem linkDown_keeps (i : Nat) (s : State) : Keeps [.power, .events, .fabric] s (linkDown i s) := by
  unfold linkDown
  repeat' first
    | (with_reducible exact Keeps.refl _ _)
    | (with_reducible assumption)
    | (exact rfl)
    | (exact ‹_ + _ = 32›)
    | (intro)
    | (extract_lets)
    | (with_reducible apply Keeps.ite)
    | (with_reducible apply Keeps.foldl)
    | (with_reducible apply Keeps.foldlSnd)
    | (with_reducible apply Keeps.step ?_ (raise_keeps _ _) ?_)
    | (with_reducible apply Keeps.step ?_ (portEmptied_keeps _ _) ?_)
    | (with_reducible apply Keeps.step ?_ (notePair_keeps _ _ _) ?_)
    | (with_reducible apply Keeps.step ?_ (resend_keeps _ _) ?_)
    | (with_reducible apply Keeps.step ?_ (reroute_keeps _ _) ?_)
    | (with_reducible apply Keeps.step ?_ (refreshOff_keeps _) ?_)
    | (with_reducible apply Keeps.step ?_ (sendLinkState_keeps _ _ _) ?_)
    | (split)
    | (dsimp only)
    | (dsimp +zetaDelta only)

theorem replyRun_keeps (p : Pkt) (h : Hdr) (status code number : Nat) (s : State) : Keeps [.events, .fabric] s (replyRun p h status code number s) := by
  unfold replyRun
  repeat' first
    | (with_reducible exact Keeps.refl _ _)
    | (with_reducible assumption)
    | (exact rfl)
    | (exact ‹_ + _ = 32›)
    | (intro)
    | (extract_lets)
    | (with_reducible apply Keeps.ite)
    | (with_reducible apply Keeps.foldl)
    | (with_reducible apply Keeps.foldlSnd)
    | (with_reducible apply Keeps.step ?_ (sendPkt_keeps _ _ _ _ _) ?_)
    | (split)
    | (dsimp only)
    | (dsimp +zetaDelta only)

theorem replySync_keeps (p : Pkt) (h : Hdr) (status ack : Nat) (pc cc : Count48) (sum : Word64) (s : State) : Keeps [.events, .fabric] s (replySync p h status ack pc cc sum s) := by
  unfold replySync
  repeat' first
    | (with_reducible exact Keeps.refl _ _)
    | (with_reducible assumption)
    | (exact rfl)
    | (exact ‹_ + _ = 32›)
    | (intro)
    | (extract_lets)
    | (with_reducible apply Keeps.ite)
    | (with_reducible apply Keeps.foldl)
    | (with_reducible apply Keeps.foldlSnd)
    | (with_reducible apply Keeps.step ?_ (sendPkt_keeps _ _ _ _ _) ?_)
    | (split)
    | (dsimp only)
    | (dsimp +zetaDelta only)

end Sys2Proof.Machine
end

