-- ==== Sys2Proof/Laws/Keeps/Sync.lean ====
section
/-! SUPPORT. What the operations of Machine/Sync.lean may write, and that they keep the invariant. -/

namespace Sys2Proof.Machine

open Sys2Proof

set_option linter.unusedTactic false
set_option linter.unreachableTactic false

theorem setCtr_keeps (key : CtrKey) (v : Counter) (s : State) : Keeps [.tiles, .crest] s (setCtr key v s) := by
  unfold setCtr
  repeat' first
    | (with_reducible exact Keeps.refl _ _)
    | (with_reducible assumption)
    | (exact rfl)
    | (exact ‹_ + _ = 32›)
    | (intro)
    | (extract_lets)
    | (with_reducible apply Keeps.ite)
    | (with_reducible apply Keeps.foldl)
    | (with_reducible apply Keeps.foldlSnd)
    | (fail_if_no_progress ((with_reducible apply Keeps.setCrest) <;> [skip; (exact rfl)]))
    | (with_reducible apply Keeps.step ?_ (modTile_keeps _ _ _) ?_)
    | (split)
    | (dsimp only)
    | (dsimp +zetaDelta only)

theorem notifyWatch_keeps (w : Watch) (status : Nat) (s : State) : Keeps [.power, .events, .parts, .mesh, .fabric] s (notifyWatch w status s) := by
  unfold notifyWatch
  repeat' first
    | (with_reducible exact Keeps.refl _ _)
    | (with_reducible assumption)
    | (exact rfl)
    | (exact ‹_ + _ = 32›)
    | (intro)
    | (extract_lets)
    | (with_reducible apply Keeps.ite)
    | (with_reducible apply Keeps.foldl)
    | (with_reducible apply Keeps.foldlSnd)
    | (with_reducible apply Keeps.step ?_ (sendPkt_keeps _ _ _ _ _) ?_)
    | (with_reducible apply Keeps.step ?_ (send_keeps _ _) ?_)
    | (split)
    | (dsimp only)
    | (dsimp +zetaDelta only)

theorem fireWatches_keeps (key : CtrKey) (s : State) : Keeps [.power, .events, .parts, .mesh, .crest, .fabric] s (fireWatches key s) := by
  unfold fireWatches
  repeat' first
    | (with_reducible exact Keeps.refl _ _)
    | (with_reducible assumption)
    | (exact rfl)
    | (exact ‹_ + _ = 32›)
    | (intro)
    | (extract_lets)
    | (with_reducible apply Keeps.ite)
    | (with_reducible apply Keeps.foldl)
    | (with_reducible apply Keeps.foldlSnd)
    | (fail_if_no_progress ((with_reducible apply Keeps.setCrest) <;> [skip; (exact rfl)]))
    | (with_reducible apply Keeps.step ?_ (notifyWatch_keeps _ _ _) ?_)
    | (split)
    | (dsimp only)
    | (dsimp +zetaDelta only)

theorem registerWatch_keeps (w : Watch) (s : State) : Keeps [.power, .events, .parts, .mesh, .crest, .fabric] s (registerWatch w s) := by
  unfold registerWatch
  repeat' first
    | (with_reducible exact Keeps.refl _ _)
    | (with_reducible assumption)
    | (exact rfl)
    | (exact ‹_ + _ = 32›)
    | (intro)
    | (extract_lets)
    | (with_reducible apply Keeps.ite)
    | (with_reducible apply Keeps.foldl)
    | (with_reducible apply Keeps.foldlSnd)
    | (fail_if_no_progress ((with_reducible apply Keeps.setCrest) <;> [skip; (exact rfl)]))
    | (with_reducible apply Keeps.step ?_ (notifyWatch_keeps _ _ _) ?_)
    | (with_reducible apply Keeps.step ?_ (raise_keeps _ _) ?_)
    | (split)
    | (dsimp only)
    | (dsimp +zetaDelta only)

theorem cancelWatch_keeps (w : Watch) (s : State) : Keeps [.crest] s (cancelWatch w s) := by
  unfold cancelWatch
  repeat' first
    | (with_reducible exact Keeps.refl _ _)
    | (with_reducible assumption)
    | (exact rfl)
    | (exact ‹_ + _ = 32›)
    | (intro)
    | (extract_lets)
    | (with_reducible apply Keeps.ite)
    | (with_reducible apply Keeps.foldl)
    | (with_reducible apply Keeps.foldlSnd)
    | (fail_if_no_progress ((with_reducible apply Keeps.setCrest) <;> [skip; (exact rfl)]))
    | (split)
    | (dsimp only)
    | (dsimp +zetaDelta only)

theorem applyCtr_keeps (op n : Nat) (key : CtrKey) (s : State) : Keeps [.power, .events, .parts, .tiles, .mesh, .crest, .fabric] s (applyCtr op n key s).2 := by
  unfold applyCtr
  repeat' first
    | (with_reducible exact Keeps.refl _ _)
    | (with_reducible assumption)
    | (exact rfl)
    | (exact ‹_ + _ = 32›)
    | (intro)
    | (extract_lets)
    | (with_reducible apply Keeps.ite)
    | (with_reducible apply Keeps.foldl)
    | (with_reducible apply Keeps.foldlSnd)
    | (with_reducible apply Keeps.step ?_ (setCtr_keeps _ _ _) ?_)
    | (with_reducible apply Keeps.step ?_ (raise_keeps _ _) ?_)
    | (with_reducible apply Keeps.step ?_ (modPart_keeps _ _ _) ?_)
    | (with_reducible apply Keeps.step ?_ (fireWatches_keeps _ _) ?_)
    | (split)
    | (dsimp only)
    | (dsimp +zetaDelta only)

theorem applyCtr_eq {op n : Nat} {key : CtrKey} {s : State} {x} {t : State} (h : applyCtr op n key s = (x, t)) : Keeps [.power, .events, .parts, .tiles, .mesh, .crest, .fabric] s t := by
  have := applyCtr_keeps op n key s
  rwa [h] at this

theorem holdCtr_keeps (key : CtrKey) (self : Instr) (s : State) : Keeps [.events, .parts, .tiles] s (holdCtr key self s) := by
  unfold holdCtr
  repeat' first
    | (with_reducible exact Keeps.refl _ _)
    | (with_reducible assumption)
    | (exact rfl)
    | (exact ‹_ + _ = 32›)
    | (intro)
    | (extract_lets)
    | (with_reducible apply Keeps.ite)
    | (with_reducible apply Keeps.foldl)
    | (with_reducible apply Keeps.foldlSnd)
    | (with_reducible apply Keeps.step ?_ (raise_keeps _ _) ?_)
    | (with_reducible apply Keeps.step ?_ (modTile_keeps _ _ _) ?_)
    | (with_reducible apply Keeps.step ?_ (modPart_keeps _ _ _) ?_)
    | (split)
    | (dsimp only)
    | (dsimp +zetaDelta only)

theorem relay_keeps (node domain op seq : Nat) (value : Word64) (s : State) : Keeps [.events, .fabric] s (relay node domain op seq value s) := by
  unfold relay
  repeat' first
    | (with_reducible exact Keeps.refl _ _)
    | (with_reducible assumption)
    | (exact rfl)
    | (exact ‹_ + _ = 32›)
    | (intro)
    | (extract_lets)
    | (with_reducible apply Keeps.ite)
    | (with_reducible apply Keeps.foldl)
    | (with_reducible apply Keeps.foldlSnd)
    | (with_reducible apply Keeps.step ?_ (sendPkt_keeps _ _ _ _ _) ?_)
    | (split)
    | (dsimp only)
    | (dsimp +zetaDelta only)

theorem relayDown_keeps (j : Job) (domain op seq : Nat) (value : Word64) (s : State) : Keeps [.events, .fabric] s (relayDown j domain op seq value s) := by
  unfold relayDown
  repeat' first
    | (with_reducible exact Keeps.refl _ _)
    | (with_reducible assumption)
    | (exact rfl)
    | (exact ‹_ + _ = 32›)
    | (intro)
    | (extract_lets)
    | (with_reducible apply Keeps.ite)
    | (with_reducible apply Keeps.foldl)
    | (with_reducible apply Keeps.foldlSnd)
    | (with_reducible apply Keeps.step ?_ (relay_keeps _ _ _ _ _ _) ?_)
    | (split)
    | (dsimp only)
    | (dsimp +zetaDelta only)

theorem replySyncTo_keeps (node domain : Nat) (tag : BitVec 16) (status ack : Nat) (pc cc : Count48) (sum : Word64) (s : State) : Keeps [.events, .fabric] s (replySyncTo node domain tag status ack pc cc sum s) := by
  unfold replySyncTo
  repeat' first
    | (with_reducible exact Keeps.refl _ _)
    | (with_reducible assumption)
    | (exact rfl)
    | (exact ‹_ + _ = 32›)
    | (intro)
    | (extract_lets)
    | (with_reducible apply Keeps.ite)
    | (with_reducible apply Keeps.foldl)
    | (with_reducible apply Keeps.foldlSnd)
    | (with_reducible apply Keeps.step ?_ (sendPkt_keeps _ _ _ _ _) ?_)
    | (split)
    | (dsimp only)
    | (dsimp +zetaDelta only)

theorem modHostOp_keeps (p kind : Nat) (g : HostOp → HostOp) (s : State) : Keeps [.parts] s (modHostOp p kind g s) := by
  unfold modHostOp
  repeat' first
    | (with_reducible exact Keeps.refl _ _)
    | (with_reducible assumption)
    | (exact rfl)
    | (exact ‹_ + _ = 32›)
    | (intro)
    | (extract_lets)
    | (with_reducible apply Keeps.ite)
    | (with_reducible apply Keeps.foldl)
    | (with_reducible apply Keeps.foldlSnd)
    | (with_reducible apply Keeps.step ?_ (modPart_keeps _ _ _) ?_)
    | (split)
    | (dsimp only)
    | (dsimp +zetaDelta only)

theorem endHostOp_keeps (p kind : Nat) (s : State) : Keeps [.parts] s (endHostOp p kind s) := by
  unfold endHostOp
  repeat' first
    | (with_reducible exact Keeps.refl _ _)
    | (with_reducible assumption)
    | (exact rfl)
    | (exact ‹_ + _ = 32›)
    | (intro)
    | (extract_lets)
    | (with_reducible apply Keeps.ite)
    | (with_reducible apply Keeps.foldl)
    | (with_reducible apply Keeps.foldlSnd)
    | (with_reducible apply Keeps.step ?_ (modPart_keeps _ _ _) ?_)
    | (split)
    | (dsimp only)
    | (dsimp +zetaDelta only)

theorem crestProduce_keeps (p i n : Nat) (s : State) : Keeps [.power, .events, .parts, .tiles, .mesh, .crest, .fabric] s (crestProduce p i n s) := by
  unfold crestProduce
  repeat' first
    | (with_reducible exact Keeps.refl _ _)
    | (with_reducible assumption)
    | (exact rfl)
    | (exact ‹_ + _ = 32›)
    | (intro)
    | (extract_lets)
    | (with_reducible apply Keeps.ite)
    | (with_reducible apply Keeps.foldl)
    | (with_reducible apply Keeps.foldlSnd)
    | (with_reducible apply Keeps.step ?_ (holdCtr_keeps _ _ _) ?_)
    | (with_reducible apply Keeps.step ?_ (applyCtr_keeps _ _ _ _) ?_)
    | (with_reducible apply Keeps.step ?_ (applyCtr_eq ‹_›) ?_)
    | (split)
    | (dsimp only)
    | (dsimp +zetaDelta only)

theorem freezePart_keeps (p : Nat) (a : Part) (o : HostOp) (s : State) : Keeps [.power, .parts, .tiles, .mem, .ecc, .mesh] s (freezePart p a o s) := by
  unfold freezePart
  repeat' first
    | (with_reducible exact Keeps.refl _ _)
    | (with_reducible assumption)
    | (exact rfl)
    | (exact ‹_ + _ = 32›)
    | (intro)
    | (extract_lets)
    | (with_reducible apply Keeps.ite)
    | (with_reducible apply Keeps.foldl)
    | (with_reducible apply Keeps.foldlSnd)
    | (with_reducible apply Keeps.step ?_ (writeBytes_keeps _ _ _) ?_)
    | (with_reducible apply Keeps.step ?_ (modPart_keeps _ _ _) ?_)
    | (with_reducible apply Keeps.step ?_ (modHostOp_keeps _ _ _ _) ?_)
    | (with_reducible apply Keeps.step ?_ (send_keeps _ _) ?_)
    | (with_reducible apply Keeps.step ?_ (modTile_keeps _ _ _) ?_)
    | (split)
    | (dsimp only)
    | (dsimp +zetaDelta only)

theorem ackCtr_keeps (op status : Nat) (h : Head) (m : CtrMsg) (key : CtrKey) (s : State) : Keeps [.power, .parts, .mesh] s (ackCtr op status h m key s) := by
  unfold ackCtr
  repeat' first
    | (with_reducible exact Keeps.refl _ _)
    | (with_reducible assumption)
    | (exact rfl)
    | (exact ‹_ + _ = 32›)
    | (intro)
    | (extract_lets)
    | (with_reducible apply Keeps.ite)
    | (with_reducible apply Keeps.foldl)
    | (with_reducible apply Keeps.foldlSnd)
    | (with_reducible apply Keeps.step ?_ (send_keeps _ _) ?_)
    | (split)
    | (dsimp only)
    | (dsimp +zetaDelta only)

theorem performCtr_keeps (op n : Nat) (h : Head) (m : CtrMsg) (key : CtrKey) (s : State) : Keeps [.power, .events, .parts, .tiles, .mesh, .crest, .fabric] s (performCtr op n h m key s) := by
  unfold performCtr
  repeat' first
    | (with_reducible exact Keeps.refl _ _)
    | (with_reducible assumption)
    | (exact rfl)
    | (exact ‹_ + _ = 32›)
    | (intro)
    | (extract_lets)
    | (with_reducible apply Keeps.ite)
    | (with_reducible apply Keeps.foldl)
    | (with_reducible apply Keeps.foldlSnd)
    | (with_reducible apply Keeps.step ?_ (ackCtr_keeps _ _ _ _ _ _) ?_)
    | (with_reducible apply Keeps.step ?_ (raise_keeps _ _) ?_)
    | (with_reducible apply Keeps.step ?_ (applyCtr_keeps _ _ _ _) ?_)
    | (with_reducible apply Keeps.step ?_ (applyCtr_eq ‹_›) ?_)
    | (split)
    | (dsimp only)
    | (dsimp +zetaDelta only)

theorem performHostCtr_keeps (op n : Nat) (p : Pkt) (h : Hdr) (key : CtrKey) (s : State) : Keeps [.power, .events, .parts, .tiles, .mesh, .crest, .fabric] s (performHostCtr op n p h key s) := by
  unfold performHostCtr
  repeat' first
    | (with_reducible exact Keeps.refl _ _)
    | (with_reducible assumption)
    | (exact rfl)
    | (exact ‹_ + _ = 32›)
    | (intro)
    | (extract_lets)
    | (with_reducible apply Keeps.ite)
    | (with_reducible apply Keeps.foldl)
    | (with_reducible apply Keeps.foldlSnd)
    | (with_reducible apply Keeps.step ?_ (applyCtr_keeps _ _ _ _) ?_)
    | (with_reducible apply Keeps.step ?_ (applyCtr_eq ‹_›) ?_)
    | (with_reducible apply Keeps.step ?_ (replySync_keeps _ _ _ _ _ _ _ _) ?_)
    | (split)
    | (dsimp only)
    | (dsimp +zetaDelta only)

theorem castHere_keeps (part ctr n : Nat) (s : State) : Keeps [.power, .events, .parts, .tiles, .mesh, .crest, .fabric] s (castHere part ctr n s) := by
  unfold castHere
  repeat' first
    | (with_reducible exact Keeps.refl _ _)
    | (with_reducible assumption)
    | (exact rfl)
    | (exact ‹_ + _ = 32›)
    | (intro)
    | (extract_lets)
    | (with_reducible apply Keeps.ite)
    | (with_reducible apply Keeps.foldl)
    | (with_reducible apply Keeps.foldlSnd)
    | (with_reducible apply Keeps.step ?_ (crestProduce_keeps _ _ _ _) ?_)
    | (split)
    | (dsimp only)
    | (dsimp +zetaDelta only)

theorem applyHeld_keeps (i : Instr) (s : State) : Keeps [.power, .events, .parts, .tiles, .mesh, .crest, .fabric] s (applyHeld i s) := by
  unfold applyHeld
  repeat' first
    | (with_reducible exact Keeps.refl _ _)
    | (with_reducible assumption)
    | (exact rfl)
    | (exact ‹_ + _ = 32›)
    | (intro)
    | (extract_lets)
    | (with_reducible apply Keeps.ite)
    | (with_reducible apply Keeps.foldl)
    | (with_reducible apply Keeps.foldlSnd)
    | (with_reducible apply Keeps.step ?_ (performCtr_keeps _ _ _ _ _ _) ?_)
    | (with_reducible apply Keeps.step ?_ (performHostCtr_keeps _ _ _ _ _ _) ?_)
    | (with_reducible apply Keeps.step ?_ (replySync_keeps _ _ _ _ _ _ _ _) ?_)
    | (with_reducible apply Keeps.step ?_ (applyCtr_keeps _ _ _ _) ?_)
    | (with_reducible apply Keeps.step ?_ (applyCtr_eq ‹_›) ?_)
    | (with_reducible apply Keeps.step ?_ (endHostOp_keeps _ _ _) ?_)
    | (split)
    | (dsimp only)
    | (dsimp +zetaDelta only)

theorem unfreeze_keeps (p : Nat) (s : State) : Keeps [.power, .events, .parts, .tiles, .mesh, .crest, .fabric] s (unfreeze p s) := by
  unfold unfreeze
  repeat' first
    | (with_reducible exact Keeps.refl _ _)
    | (with_reducible assumption)
    | (exact rfl)
    | (exact ‹_ + _ = 32›)
    | (intro)
    | (extract_lets)
    | (with_reducible apply Keeps.ite)
    | (with_reducible apply Keeps.foldl)
    | (with_reducible apply Keeps.foldlSnd)
    | (with_reducible apply Keeps.step ?_ (modPart_keeps _ _ _) ?_)
    | (with_reducible apply Keeps.step ?_ (applyHeld_keeps _ _) ?_)
    | (with_reducible apply Keeps.step ?_ (modTile_keeps _ _ _) ?_)
    | (split)
    | (dsimp only)
    | (dsimp +zetaDelta only)

theorem releaseOp_keeps (p kind : Nat) (total : Word64) (s : State) : Keeps [.power, .events, .parts, .tiles, .mem, .ecc, .mesh, .crest, .fabric] s (releaseOp p kind total s) := by
  unfold releaseOp
  repeat' first
    | (with_reducible exact Keeps.refl _ _)
    | (with_reducible assumption)
    | (exact rfl)
    | (exact ‹_ + _ = 32›)
    | (intro)
    | (extract_lets)
    | (with_reducible apply Keeps.ite)
    | (with_reducible apply Keeps.foldl)
    | (with_reducible apply Keeps.foldlSnd)
    | (with_reducible apply Keeps.step ?_ (relayDown_keeps _ _ _ _ _ _) ?_)
    | (with_reducible apply Keeps.step ?_ (freezePart_keeps _ _ _ _) ?_)
    | (with_reducible apply Keeps.step ?_ (endHostOp_keeps _ _ _) ?_)
    | (with_reducible apply Keeps.step ?_ (unfreeze_keeps _ _) ?_)
    | (with_reducible apply Keeps.step ?_ (crestProduce_keeps _ _ _ _) ?_)
    | (with_reducible apply Keeps.step ?_ (replySyncTo_keeps _ _ _ _ _ _ _ _ _) ?_)
    | (split)
    | (dsimp only)
    | (dsimp +zetaDelta only)

theorem gatherTry_keeps (p kind : Nat) (s : State) : Keeps [.power, .events, .parts, .tiles, .mem, .ecc, .mesh, .crest, .fabric] s (gatherTry p kind s) := by
  unfold gatherTry
  repeat' first
    | (with_reducible exact Keeps.refl _ _)
    | (with_reducible assumption)
    | (exact rfl)
    | (exact ‹_ + _ = 32›)
    | (intro)
    | (extract_lets)
    | (with_reducible apply Keeps.ite)
    | (with_reducible apply Keeps.foldl)
    | (with_reducible apply Keeps.foldlSnd)
    | (with_reducible apply Keeps.step ?_ (modHostOp_keeps _ _ _ _) ?_)
    | (with_reducible apply Keeps.step ?_ (releaseOp_keeps _ _ _ _) ?_)
    | (with_reducible apply Keeps.step ?_ (relay_keeps _ _ _ _ _ _) ?_)
    | (split)
    | (dsimp only)
    | (dsimp +zetaDelta only)

theorem barrierTry_keeps (p : Nat) (s : State) : Keeps [.power, .events, .parts, .tiles, .mem, .ecc, .mesh, .crest, .fabric] s (barrierTry p s) := by
  unfold barrierTry
  repeat' first
    | (with_reducible exact Keeps.refl _ _)
    | (with_reducible assumption)
    | (exact rfl)
    | (exact ‹_ + _ = 32›)
    | (intro)
    | (extract_lets)
    | (with_reducible apply Keeps.ite)
    | (with_reducible apply Keeps.foldl)
    | (with_reducible apply Keeps.foldlSnd)
    | (with_reducible apply Keeps.step ?_ (gatherTry_keeps _ _ _) ?_)
    | (with_reducible apply Keeps.step ?_ (modHostOp_keeps _ _ _ _) ?_)
    | (split)
    | (dsimp only)
    | (dsimp +zetaDelta only)

theorem snapArrive_keeps (k : Nat) (s : State) : Keeps [.power, .parts, .tiles, .mesh] s (snapArrive k s) := by
  unfold snapArrive
  repeat' first
    | (with_reducible exact Keeps.refl _ _)
    | (with_reducible assumption)
    | (exact rfl)
    | (exact ‹_ + _ = 32›)
    | (intro)
    | (extract_lets)
    | (with_reducible apply Keeps.ite)
    | (with_reducible apply Keeps.foldl)
    | (with_reducible apply Keeps.foldlSnd)
    | (with_reducible apply Keeps.step ?_ (send_keeps _ _) ?_)
    | (with_reducible apply Keeps.step ?_ (modTile_keeps _ _ _) ?_)
    | (split)
    | (dsimp only)
    | (dsimp +zetaDelta only)

theorem snapTry_keeps (p : Nat) (s : State) : Keeps [.power, .events, .parts, .tiles, .mem, .ecc, .mesh, .crest, .fabric] s (snapTry p s) := by
  unfold snapTry
  repeat' first
    | (with_reducible exact Keeps.refl _ _)
    | (with_reducible assumption)
    | (exact rfl)
    | (exact ‹_ + _ = 32›)
    | (intro)
    | (extract_lets)
    | (with_reducible apply Keeps.ite)
    | (with_reducible apply Keeps.foldl)
    | (with_reducible apply Keeps.foldlSnd)
    | (with_reducible apply Keeps.step ?_ (gatherTry_keeps _ _ _) ?_)
    | (with_reducible apply Keeps.step ?_ (modHostOp_keeps _ _ _ _) ?_)
    | (split)
    | (dsimp only)
    | (dsimp +zetaDelta only)

theorem memberArrives_keeps (p seq node : Nat) (value : Word64) (s : State) : Keeps [.power, .events, .parts, .tiles, .mem, .ecc, .mesh, .crest, .fabric] s (memberArrives p seq node value s) := by
  unfold memberArrives
  repeat' first
    | (with_reducible exact Keeps.refl _ _)
    | (with_reducible assumption)
    | (exact rfl)
    | (exact ‹_ + _ = 32›)
    | (intro)
    | (extract_lets)
    | (with_reducible apply Keeps.ite)
    | (with_reducible apply Keeps.foldl)
    | (with_reducible apply Keeps.foldlSnd)
    | (with_reducible apply Keeps.step ?_ (modPart_keeps _ _ _) ?_)
    | (with_reducible apply Keeps.step ?_ (gatherTry_keeps _ _ _) ?_)
    | (with_reducible apply Keeps.step ?_ (modHostOp_keeps _ _ _ _) ?_)
    | (split)
    | (dsimp only)
    | (dsimp +zetaDelta only)

theorem startHostOp_keeps (p : Nat) (o : HostOp) (s : State) : Keeps [.parts] s (startHostOp p o s) := by
  unfold startHostOp
  repeat' first
    | (with_reducible exact Keeps.refl _ _)
    | (with_reducible assumption)
    | (exact rfl)
    | (exact ‹_ + _ = 32›)
    | (intro)
    | (extract_lets)
    | (with_reducible apply Keeps.ite)
    | (with_reducible apply Keeps.foldl)
    | (with_reducible apply Keeps.foldlSnd)
    | (with_reducible apply Keeps.step ?_ (modPart_keeps _ _ _) ?_)
    | (split)
    | (dsimp only)
    | (dsimp +zetaDelta only)

theorem afterCtr_keeps (key : CtrKey) (s : State) : Keeps [.power, .events, .parts, .tiles, .mem, .ecc, .mesh, .crest, .fabric] s (afterCtr key s) := by
  unfold afterCtr
  repeat' first
    | (with_reducible exact Keeps.refl _ _)
    | (with_reducible assumption)
    | (exact rfl)
    | (exact ‹_ + _ = 32›)
    | (intro)
    | (extract_lets)
    | (with_reducible apply Keeps.ite)
    | (with_reducible apply Keeps.foldl)
    | (with_reducible apply Keeps.foldlSnd)
    | (with_reducible apply Keeps.step ?_ (barrierTry_keeps _ _) ?_)
    | (split)
    | (dsimp only)
    | (dsimp +zetaDelta only)

theorem dropWatches_keeps (p : Nat) (s : State) : Keeps [.crest] s (dropWatches p s) := by
  unfold dropWatches
  repeat' first
    | (with_reducible exact Keeps.refl _ _)
    | (with_reducible assumption)
    | (exact rfl)
    | (exact ‹_ + _ = 32›)
    | (intro)
    | (extract_lets)
    | (with_reducible apply Keeps.ite)
    | (with_reducible apply Keeps.foldl)
    | (with_reducible apply Keeps.foldlSnd)
    | (fail_if_no_progress ((with_reducible apply Keeps.setCrest) <;> [skip; (exact rfl)]))
    | (split)
    | (dsimp only)
    | (dsimp +zetaDelta only)

theorem arriveCtl_keeps {w : List Region} (h : Head) (kind : Nat) (act : State → State) (s : State) (hact : ∀ s, Keeps w s (act s))
    (hw : List.all [.fld, .power, .events, .mesh] (w.contains ·) = true) : Keeps w s (arriveCtl h kind act s) := by
  unfold arriveCtl
  repeat' first
    | (with_reducible exact Keeps.refl _ _)
    | (with_reducible assumption)
    | (exact rfl)
    | (exact ‹_ + _ = 32›)
    | (intro)
    | (extract_lets)
    | (with_reducible apply Keeps.ite)
    | (with_reducible apply Keeps.foldl)
    | (with_reducible apply Keeps.foldlSnd)
    | (with_reducible apply Keeps.trans ?_ (hact _))
    | (with_reducible apply Keeps.step ?_ (crossed_keeps _ _ _ _) ?_)
    | (with_reducible apply Keeps.step ?_ (raise_keeps _ _) ?_)
    | (exact cover rfl hw)
    | ((simp_all; done))
    | (split)
    | (dsimp only)
    | (dsimp +zetaDelta only)

theorem arriveData_keeps {w : List Region} (h : Head) (kind : Nat) (act : State → State) (s : State) (hact : ∀ s, Keeps w s (act s))
    (hw : List.all [.fld, .power, .events, .mesh] (w.contains ·) = true) : Keeps w s (arriveData h kind act s) := by
  unfold arriveData
  repeat' first
    | (with_reducible exact Keeps.refl _ _)
    | (with_reducible assumption)
    | (exact rfl)
    | (exact ‹_ + _ = 32›)
    | (intro)
    | (extract_lets)
    | (with_reducible apply Keeps.ite)
    | (with_reducible apply Keeps.foldl)
    | (with_reducible apply Keeps.foldlSnd)
    | (with_reducible apply Keeps.trans ?_ (hact _))
    | (with_reducible apply Keeps.step ?_ (crossed_keeps _ _ _ _) ?_)
    | (with_reducible apply Keeps.step ?_ (raise_keeps _ _) ?_)
    | (exact cover rfl hw)
    | ((simp_all; done))
    | (split)
    | (dsimp only)
    | (dsimp +zetaDelta only)

end Sys2Proof.Machine
end

