-- ==== Sys2Proof/Laws/Keeps/Sched.lean ====
section
/-! SUPPORT. What the operations of Machine/Sched.lean may write, and that they keep the invariant. -/

namespace Sys2Proof.Machine

open Sys2Proof

set_option linter.unusedTactic false
set_option linter.unreachableTactic false

theorem runNotify_keeps (a : Part) (status code number : Nat) (s : State) : Keeps [.events, .fabric] s (runNotify a status code number s) := by
  unfold runNotify
  repeat' first
    | (with_reducible exact Keeps.refl _ _)
    | (with_reducible assumption)
    | (exact rfl)
    | (exact ‹_ + _ = 32›)
    | (intro)
    | (extract_lets)
    | (with_reducible apply Keeps.ite)
    | (with_reducible apply Keeps.foldl)
    | (with_reducible apply Keeps.foldlSnd)
    | (with_reducible apply Keeps.step ?_ (sendPkt_keeps _ _ _ _ _) ?_)
    | (split)
    | (dsimp only)
    | (dsimp +zetaDelta only)

theorem endRun_keeps (p number status code : Nat) (s : State) : Keeps [.events, .parts, .fabric] s (endRun p number status code s) := by
  unfold endRun
  repeat' first
    | (with_reducible exact Keeps.refl _ _)
    | (with_reducible assumption)
    | (exact rfl)
    | (exact ‹_ + _ = 32›)
    | (intro)
    | (extract_lets)
    | (with_reducible apply Keeps.ite)
    | (with_reducible apply Keeps.foldl)
    | (with_reducible apply Keeps.foldlSnd)
    | (with_reducible apply Keeps.step ?_ (runNotify_keeps _ _ _ _ _) ?_)
    | (with_reducible apply Keeps.step ?_ (modPart_keeps _ _ _) ?_)
    | (split)
    | (dsimp only)
    | (dsimp +zetaDelta only)

theorem stopStamp_keeps (p : Nat) (mark : JobMark) (s : State) : Keeps [.parts] s (stopStamp p mark s) := by
  unfold stopStamp
  repeat' first
    | (with_reducible exact Keeps.refl _ _)
    | (with_reducible assumption)
    | (exact rfl)
    | (exact ‹_ + _ = 32›)
    | (intro)
    | (extract_lets)
    | (with_reducible apply Keeps.ite)
    | (with_reducible apply Keeps.foldl)
    | (with_reducible apply Keeps.foldlSnd)
    | (with_reducible apply Keeps.step ?_ (modPart_keeps _ _ _) ?_)
    | (split)
    | (dsimp only)
    | (dsimp +zetaDelta only)

theorem sendSection_keeps (domain k code : Nat) (s : State) : Keeps [.power, .parts, .mesh] s (sendSection domain k code s) := by
  unfold sendSection
  repeat' first
    | (with_reducible exact Keeps.refl _ _)
    | (with_reducible assumption)
    | (exact rfl)
    | (exact ‹_ + _ = 32›)
    | (intro)
    | (extract_lets)
    | (with_reducible apply Keeps.ite)
    | (with_reducible apply Keeps.foldl)
    | (with_reducible apply Keeps.foldlSnd)
    | (with_reducible apply Keeps.step ?_ (send_keeps _ _) ?_)
    | (split)
    | (dsimp only)
    | (dsimp +zetaDelta only)

theorem landSection_keeps (k code : Nat) (s : State) : Keeps [.mesh] s (landSection k code s) := by
  unfold landSection
  repeat' first
    | (with_reducible exact Keeps.refl _ _)
    | (with_reducible assumption)
    | (exact rfl)
    | (exact ‹_ + _ = 32›)
    | (intro)
    | (extract_lets)
    | (with_reducible apply Keeps.ite)
    | (with_reducible apply Keeps.foldl)
    | (with_reducible apply Keeps.foldlSnd)
    | (with_reducible apply Keeps.step ?_ (leaveMesh_keeps _ _) ?_)
    | (split)
    | (dsimp only)
    | (dsimp +zetaDelta only)

theorem tileReset_keeps (k : Nat) (s : State) : Keeps [.tiles] s (tileReset k s) := by
  unfold tileReset
  repeat' first
    | (with_reducible exact Keeps.refl _ _)
    | (with_reducible assumption)
    | (exact rfl)
    | (exact ‹_ + _ = 32›)
    | (intro)
    | (extract_lets)
    | (with_reducible apply Keeps.ite)
    | (with_reducible apply Keeps.foldl)
    | (with_reducible apply Keeps.foldlSnd)
    | (with_reducible apply Keeps.step ?_ (modTile_keeps _ _ _) ?_)
    | (split)
    | (dsimp only)
    | (dsimp +zetaDelta only)

theorem closeJob_keeps (p : Nat) (s : State) : Keeps [.power, .events, .parts, .tiles, .mesh, .crest, .fabric] s (closeJob p s) := by
  unfold closeJob
  repeat' first
    | (with_reducible exact Keeps.refl _ _)
    | (with_reducible assumption)
    | (exact rfl)
    | (exact ‹_ + _ = 32›)
    | (intro)
    | (extract_lets)
    | (with_reducible apply Keeps.ite)
    | (with_reducible apply Keeps.foldl)
    | (with_reducible apply Keeps.foldlSnd)
    | (with_reducible apply Keeps.step ?_ (stopStamp_keeps _ _ _) ?_)
    | (with_reducible apply Keeps.step ?_ (replySyncTo_keeps _ _ _ _ _ _ _ _ _) ?_)
    | (with_reducible apply Keeps.step ?_ (sendPkt_keeps _ _ _ _ _) ?_)
    | (with_reducible apply Keeps.step ?_ (unfreeze_keeps _ _) ?_)
    | (with_reducible apply Keeps.step ?_ (modPart_keeps _ _ _) ?_)
    | (with_reducible apply Keeps.step ?_ (dropWatches_keeps _ _) ?_)
    | (split)
    | (dsimp only)
    | (dsimp +zetaDelta only)

theorem spreadAbort_keeps (a : Part) (s : State) : Keeps [.events, .fabric] s (spreadAbort a s) := by
  unfold spreadAbort
  repeat' first
    | (with_reducible exact Keeps.refl _ _)
    | (with_reducible assumption)
    | (exact rfl)
    | (exact ‹_ + _ = 32›)
    | (intro)
    | (extract_lets)
    | (with_reducible apply Keeps.ite)
    | (with_reducible apply Keeps.foldl)
    | (with_reducible apply Keeps.foldlSnd)
    | (with_reducible apply Keeps.step ?_ (relay_keeps _ _ _ _ _ _) ?_)
    | (split)
    | (dsimp only)
    | (dsimp +zetaDelta only)

theorem abortRun_keeps (p code : Nat) (s : State) : Keeps [.power, .events, .parts, .tiles, .mesh, .crest, .fabric] s (abortRun p code s) := by
  unfold abortRun
  repeat' first
    | (with_reducible exact Keeps.refl _ _)
    | (with_reducible assumption)
    | (exact rfl)
    | (exact ‹_ + _ = 32›)
    | (intro)
    | (extract_lets)
    | (with_reducible apply Keeps.ite)
    | (with_reducible apply Keeps.foldl)
    | (with_reducible apply Keeps.foldlSnd)
    | (with_reducible apply Keeps.step ?_ (runNotify_keeps _ _ _ _ _) ?_)
    | (with_reducible apply Keeps.step ?_ (sendSection_keeps _ _ _ _) ?_)
    | (with_reducible apply Keeps.step ?_ (modTile_keeps _ _ _) ?_)
    | (with_reducible apply Keeps.step ?_ (spreadAbort_keeps _ _) ?_)
    | (with_reducible apply Keeps.step ?_ (closeJob_keeps _ _) ?_)
    | (with_reducible apply Keeps.step ?_ (modPart_keeps _ _ _) ?_)
    | (split)
    | (dsimp only)
    | (dsimp +zetaDelta only)

theorem cellFault_keeps (k slot g code : Nat) (s : State) : Keeps [.power, .events, .parts, .tiles, .mesh, .crest, .fabric] s (cellFault k slot g code s) := by
  unfold cellFault
  repeat' first
    | (with_reducible exact Keeps.refl _ _)
    | (with_reducible assumption)
    | (exact rfl)
    | (exact ‹_ + _ = 32›)
    | (intro)
    | (extract_lets)
    | (with_reducible apply Keeps.ite)
    | (with_reducible apply Keeps.foldl)
    | (with_reducible apply Keeps.foldlSnd)
    | (with_reducible apply Keeps.step ?_ (raise_keeps _ _) ?_)
    | (with_reducible apply Keeps.step ?_ (modCC_keeps _ _ _ _) ?_)
    | (with_reducible apply Keeps.step ?_ (modAG_keeps _ _ _ _) ?_)
    | (with_reducible apply Keeps.step ?_ (abortRun_keeps _ _ _) ?_)
    | (split)
    | (dsimp only)
    | (dsimp +zetaDelta only)

theorem loadTile_keeps (k : Nat) (r : Section) (s : State) : Keeps [.fld, .power, .events, .parts, .tiles, .mem, .ecc, .mesh, .crest, .fabric, .settings] s (loadTile k r s) := by
  unfold loadTile
  repeat' first
    | (with_reducible exact Keeps.refl _ _)
    | (with_reducible assumption)
    | (exact rfl)
    | (exact ‹_ + _ = 32›)
    | (intro)
    | (extract_lets)
    | (with_reducible apply Keeps.ite)
    | (with_reducible apply Keeps.foldl)
    | (with_reducible apply Keeps.foldlSnd)
    | (with_reducible apply Keeps.step ?_ (touchRead_keeps _ _ _) ?_)
    | (with_reducible apply Keeps.step ?_ (cellFault_keeps _ _ _ _ _) ?_)
    | (with_reducible apply Keeps.step ?_ (noteUncorrected_keeps _ _) ?_)
    | (with_reducible apply Keeps.step ?_ (modCC_keeps _ _ _ _) ?_)
    | (with_reducible apply Keeps.step ?_ (modAG_keeps _ _ _ _) ?_)
    | (with_reducible apply Keeps.step ?_ (writeBytes_keeps _ _ _) ?_)
    | (with_reducible apply Keeps.step ?_ (modTile_keeps _ _ _) ?_)
    | (with_reducible apply Keeps.step ?_ (countAccess_keeps _ _ _ _) ?_)
    | (split)
    | (dsimp only)
    | (dsimp +zetaDelta only)

theorem startRun_keeps (p number : Nat) (r : Section) (frame : Bool) (s : State) : Keeps [.power, .parts, .tiles, .mesh] s (startRun p number r frame s) := by
  unfold startRun
  repeat' first
    | (with_reducible exact Keeps.refl _ _)
    | (with_reducible assumption)
    | (exact rfl)
    | (exact ‹_ + _ = 32›)
    | (intro)
    | (extract_lets)
    | (with_reducible apply Keeps.ite)
    | (with_reducible apply Keeps.foldl)
    | (with_reducible apply Keeps.foldlSnd)
    | (with_reducible apply Keeps.step ?_ (modPart_keeps _ _ _) ?_)
    | (with_reducible apply Keeps.step ?_ (sendSection_keeps _ _ _ _) ?_)
    | (with_reducible apply Keeps.step ?_ (modTile_keeps _ _ _) ?_)
    | (split)
    | (dsimp only)
    | (dsimp +zetaDelta only)

theorem resolveReady_keeps (p n : Nat) (s : State) : Keeps [.events, .parts, .fabric] s (resolveReady p n s) := by
  induction n generalizing s with
  | zero => exact Keeps.refl _ _
  | succ n ih =>
    unfold resolveReady
    repeat' first
      | (with_reducible exact Keeps.refl _ _)
      | (with_reducible assumption)
      | (exact rfl)
      | (exact ‹_ + _ = 32›)
      | (intro)
      | (extract_lets)
      | (with_reducible apply Keeps.ite)
      | (with_reducible apply Keeps.foldl)
      | (with_reducible apply Keeps.foldlSnd)
      | (with_reducible apply Keeps.step ?_ (modPart_keeps _ _ _) ?_)
      | (with_reducible apply Keeps.step ?_ (endRun_keeps _ _ _ _ _) ?_)
      | (with_reducible apply Keeps.trans ?_ (ih _))
      | (split)
      | (dsimp only)
      | (dsimp +zetaDelta only)

theorem discardAfter_keeps (p n : Nat) (s : State) : Keeps [.events, .parts, .fabric] s (discardAfter p n s) := by
  induction n generalizing s with
  | zero => exact Keeps.refl _ _
  | succ n ih =>
    unfold discardAfter
    repeat' first
      | (with_reducible exact Keeps.refl _ _)
      | (with_reducible assumption)
      | (exact rfl)
      | (exact ‹_ + _ = 32›)
      | (intro)
      | (extract_lets)
      | (with_reducible apply Keeps.ite)
      | (with_reducible apply Keeps.foldl)
      | (with_reducible apply Keeps.foldlSnd)
      | (with_reducible apply Keeps.step ?_ (endRun_keeps _ _ _ _ _) ?_)
      | (with_reducible apply Keeps.step ?_ (modPart_keeps _ _ _) ?_)
      | (with_reducible apply Keeps.trans ?_ (ih _))
      | (split)
      | (dsimp only)
      | (dsimp +zetaDelta only)

theorem modCadence_keeps (p : Nat) (g : Cadence → Cadence) (s : State) : Keeps [.parts] s (modCadence p g s) := by
  unfold modCadence
  repeat' first
    | (with_reducible exact Keeps.refl _ _)
    | (with_reducible assumption)
    | (exact rfl)
    | (exact ‹_ + _ = 32›)
    | (intro)
    | (extract_lets)
    | (with_reducible apply Keeps.ite)
    | (with_reducible apply Keeps.foldl)
    | (with_reducible apply Keeps.foldlSnd)
    | (with_reducible apply Keeps.step ?_ (modPart_keeps _ _ _) ?_)
    | (split)
    | (dsimp only)
    | (dsimp +zetaDelta only)

theorem nextFrameSection_keeps (p : Nat) (s : State) : Keeps [.power, .parts, .tiles, .mesh] s (nextFrameSection p s) := by
  unfold nextFrameSection
  repeat' first
    | (with_reducible exact Keeps.refl _ _)
    | (with_reducible assumption)
    | (exact rfl)
    | (exact ‹_ + _ = 32›)
    | (intro)
    | (extract_lets)
    | (with_reducible apply Keeps.ite)
    | (with_reducible apply Keeps.foldl)
    | (with_reducible apply Keeps.foldlSnd)
    | (with_reducible apply Keeps.step ?_ (startRun_keeps _ _ _ _ _) ?_)
    | (with_reducible apply Keeps.step ?_ (modCadence_keeps _ _ _) ?_)
    | (with_reducible apply Keeps.step ?_ (modPart_keeps _ _ _) ?_)
    | (split)
    | (dsimp only)
    | (dsimp +zetaDelta only)

theorem decideFrame_keeps (p k : Nat) (s : State) : Keeps [.power, .events, .parts, .tiles, .mesh] s (decideFrame p k s) := by
  unfold decideFrame
  repeat' first
    | (with_reducible exact Keeps.refl _ _)
    | (with_reducible assumption)
    | (exact rfl)
    | (exact ‹_ + _ = 32›)
    | (intro)
    | (extract_lets)
    | (with_reducible apply Keeps.ite)
    | (with_reducible apply Keeps.foldl)
    | (with_reducible apply Keeps.foldlSnd)
    | (with_reducible apply Keeps.step ?_ (raise_keeps _ _) ?_)
    | (with_reducible apply Keeps.step ?_ (modPart_keeps _ _ _) ?_)
    | (with_reducible apply Keeps.step ?_ (nextFrameSection_keeps _ _) ?_)
    | (with_reducible apply Keeps.step ?_ (modCadence_keeps _ _ _) ?_)
    | (split)
    | (dsimp only)
    | (dsimp +zetaDelta only)

theorem decideWaiting_keeps (p n : Nat) (s : State) : Keeps [.power, .events, .parts, .tiles, .mesh] s (decideWaiting p n s) := by
  induction n generalizing s with
  | zero => exact Keeps.refl _ _
  | succ n ih =>
    unfold decideWaiting
    repeat' first
      | (with_reducible exact Keeps.refl _ _)
      | (with_reducible assumption)
      | (exact rfl)
      | (exact ‹_ + _ = 32›)
      | (intro)
      | (extract_lets)
      | (with_reducible apply Keeps.ite)
      | (with_reducible apply Keeps.foldl)
      | (with_reducible apply Keeps.foldlSnd)
      | (with_reducible apply Keeps.step ?_ (modPart_keeps _ _ _) ?_)
      | (with_reducible apply Keeps.step ?_ (decideFrame_keeps _ _ _) ?_)
      | (with_reducible apply Keeps.step ?_ (modCadence_keeps _ _ _) ?_)
      | (with_reducible apply Keeps.trans ?_ (ih _))
      | (split)
      | (dsimp only)
      | (dsimp +zetaDelta only)

theorem endFrame_keeps (p : Nat) (s : State) : Keeps [.events, .parts] s (endFrame p s) := by
  unfold endFrame
  repeat' first
    | (with_reducible exact Keeps.refl _ _)
    | (with_reducible assumption)
    | (exact rfl)
    | (exact ‹_ + _ = 32›)
    | (intro)
    | (extract_lets)
    | (with_reducible apply Keeps.ite)
    | (with_reducible apply Keeps.foldl)
    | (with_reducible apply Keeps.foldlSnd)
    | (with_reducible apply Keeps.step ?_ (modCadence_keeps _ _ _) ?_)
    | (with_reducible apply Keeps.step ?_ (modPart_keeps _ _ _) ?_)
    | (with_reducible apply Keeps.step ?_ (raise_keeps _ _) ?_)
    | (split)
    | (dsimp only)
    | (dsimp +zetaDelta only)

theorem schedule_keeps (p : Nat) (s : State) : Keeps [.power, .events, .parts, .tiles, .mesh, .fabric] s (schedule p s) := by
  unfold schedule
  repeat' first
    | (with_reducible exact Keeps.refl _ _)
    | (with_reducible assumption)
    | (exact rfl)
    | (exact ‹_ + _ = 32›)
    | (intro)
    | (extract_lets)
    | (with_reducible apply Keeps.ite)
    | (with_reducible apply Keeps.foldl)
    | (with_reducible apply Keeps.foldlSnd)
    | (with_reducible apply Keeps.step ?_ (resolveReady_keeps _ _ _) ?_)
    | (with_reducible apply Keeps.step ?_ (nextFrameSection_keeps _ _) ?_)
    | (with_reducible apply Keeps.step ?_ (decideWaiting_keeps _ _ _) ?_)
    | (with_reducible apply Keeps.step ?_ (startRun_keeps _ _ _ _ _) ?_)
    | (split)
    | (dsimp only)
    | (dsimp +zetaDelta only)

theorem completeRun_keeps (p : Nat) (s : State) : Keeps [.power, .events, .parts, .tiles, .mesh, .fabric] s (completeRun p s) := by
  unfold completeRun
  repeat' first
    | (with_reducible exact Keeps.refl _ _)
    | (with_reducible assumption)
    | (exact rfl)
    | (exact ‹_ + _ = 32›)
    | (intro)
    | (extract_lets)
    | (with_reducible apply Keeps.ite)
    | (with_reducible apply Keeps.foldl)
    | (with_reducible apply Keeps.foldlSnd)
    | (with_reducible apply Keeps.step ?_ (modTile_keeps _ _ _) ?_)
    | (with_reducible apply Keeps.step ?_ (endRun_keeps _ _ _ _ _) ?_)
    | (with_reducible apply Keeps.step ?_ (modPart_keeps _ _ _) ?_)
    | (with_reducible apply Keeps.step ?_ (schedule_keeps _ _) ?_)
    | (with_reducible apply Keeps.step ?_ (endFrame_keeps _ _) ?_)
    | (split)
    | (dsimp only)
    | (dsimp +zetaDelta only)

theorem hangCheck_keeps (p : Nat) (s : State) : Keeps [.parts] s (hangCheck p s) := by
  unfold hangCheck
  repeat' first
    | (with_reducible exact Keeps.refl _ _)
    | (with_reducible assumption)
    | (exact rfl)
    | (exact ‹_ + _ = 32›)
    | (intro)
    | (extract_lets)
    | (with_reducible apply Keeps.ite)
    | (with_reducible apply Keeps.foldl)
    | (with_reducible apply Keeps.foldlSnd)
    | (with_reducible apply Keeps.step ?_ (modPart_keeps _ _ _) ?_)
    | (split)
    | (dsimp only)
    | (dsimp +zetaDelta only)

theorem loaderRefuse_keeps (p node domain : Nat) (tag : BitVec 16) (code x y slot detail : Nat) (s : State) : Keeps [.events, .parts, .fabric] s (loaderRefuse p node domain tag code x y slot detail s) := by
  unfold loaderRefuse
  repeat' first
    | (with_reducible exact Keeps.refl _ _)
    | (with_reducible assumption)
    | (exact rfl)
    | (exact ‹_ + _ = 32›)
    | (intro)
    | (extract_lets)
    | (with_reducible apply Keeps.ite)
    | (with_reducible apply Keeps.foldl)
    | (with_reducible apply Keeps.foldlSnd)
    | (with_reducible apply Keeps.step ?_ (raise_keeps _ _) ?_)
    | (with_reducible apply Keeps.step ?_ (modPart_keeps _ _ _) ?_)
    | (with_reducible apply Keeps.step ?_ (sendPkt_keeps _ _ _ _ _) ?_)
    | (split)
    | (dsimp only)
    | (dsimp +zetaDelta only)

end Sys2Proof.Machine
end

