-- ==== Sys2Proof/Laws/Keeps/MemOps.lean ====
section
/-! SUPPORT. What the operations of Machine/MemOps.lean may write, and that they keep the invariant. -/

namespace Sys2Proof.Machine

open Sys2Proof

set_option linter.unusedTactic false
set_option linter.unreachableTactic false

theorem sendReply_keeps (src dst : CellRef) (domain status op reqId offset : Nat) (data : List Byte) (s : State) : Keeps [.power, .parts, .mesh] s (sendReply src dst domain status op reqId offset data s) := by
  unfold sendReply
  repeat' first
    | (with_reducible exact Keeps.refl _ _)
    | (with_reducible assumption)
    | (exact rfl)
    | (exact ‹_ + _ = 32›)
    | (intro)
    | (extract_lets)
    | (with_reducible apply Keeps.ite)
    | (with_reducible apply Keeps.foldl)
    | (with_reducible apply Keeps.foldlSnd)
    | (with_reducible apply Keeps.step ?_ (send_keeps _ _) ?_)
    | (split)
    | (dsimp only)
    | (dsimp +zetaDelta only)

theorem memFails_keeps (status node domain : Nat) (pos : Option Nat) (s : State) : Keeps [.events, .parts] s (memFails status node domain pos s) := by
  unfold memFails
  repeat' first
    | (with_reducible exact Keeps.refl _ _)
    | (with_reducible assumption)
    | (exact rfl)
    | (exact ‹_ + _ = 32›)
    | (intro)
    | (extract_lets)
    | (with_reducible apply Keeps.ite)
    | (with_reducible apply Keeps.foldl)
    | (with_reducible apply Keeps.foldlSnd)
    | (with_reducible apply Keeps.step ?_ (raise_keeps _ _) ?_)
    | (with_reducible apply Keeps.step ?_ (modPart_keeps _ _ _) ?_)
    | (split)
    | (dsimp only)
    | (dsimp +zetaDelta only)

theorem answerMem_keeps (op node domain : Nat) (tag : BitVec 16) (status : Nat) (old : Word64) (done : Nat) (data : List Byte) (s : State) : Keeps [.events, .fabric] s (answerMem op node domain tag status old done data s) := by
  unfold answerMem
  repeat' first
    | (with_reducible exact Keeps.refl _ _)
    | (with_reducible assumption)
    | (exact rfl)
    | (exact ‹_ + _ = 32›)
    | (intro)
    | (extract_lets)
    | (with_reducible apply Keeps.ite)
    | (with_reducible apply Keeps.foldl)
    | (with_reducible apply Keeps.foldlSnd)
    | (with_reducible apply Keeps.step ?_ (sendPkt_keeps _ _ _ _ _) ?_)
    | (split)
    | (dsimp only)
    | (dsimp +zetaDelta only)

theorem endBulk_keeps (b status : Nat) (s : State) : Keeps [.events, .fabric] s (endBulk b status s) := by
  unfold endBulk
  repeat' first
    | (with_reducible exact Keeps.refl _ _)
    | (with_reducible assumption)
    | (exact rfl)
    | (exact ‹_ + _ = 32›)
    | (intro)
    | (extract_lets)
    | (with_reducible apply Keeps.ite)
    | (with_reducible apply Keeps.foldl)
    | (with_reducible apply Keeps.foldlSnd)
    | (fail_if_no_progress ((with_reducible apply Keeps.setFabric) <;> [skip; (exact rfl); (first | exact fun h => h | exact fun _ => rfl | exact flowsOk_nil)]))
    | (with_reducible apply Keeps.step ?_ (answerMem_keeps _ _ _ _ _ _ _ _ _) ?_)
    | (split)
    | (dsimp only)
    | (dsimp +zetaDelta only)

theorem tellFailed_keeps (op : RingOp) (status : Nat) (s : State) : Keeps [.power, .events, .parts, .mesh, .fabric] s (tellFailed op status s) := by
  unfold tellFailed
  repeat' first
    | (with_reducible exact Keeps.refl _ _)
    | (with_reducible assumption)
    | (exact rfl)
    | (exact ‹_ + _ = 32›)
    | (intro)
    | (extract_lets)
    | (with_reducible apply Keeps.ite)
    | (with_reducible apply Keeps.foldl)
    | (with_reducible apply Keeps.foldlSnd)
    | (with_reducible apply Keeps.step ?_ (answerMem_keeps _ _ _ _ _ _ _ _ _) ?_)
    | (with_reducible apply Keeps.step ?_ (sendReply_keeps _ _ _ _ _ _ _ _ _) ?_)
    | (with_reducible apply Keeps.step ?_ (endBulk_keeps _ _ _) ?_)
    | (split)
    | (dsimp only)
    | (dsimp +zetaDelta only)

theorem dropOp_keeps (id : Nat) (s : State) : Keeps [.fabric] s (dropOp id s) := by
  unfold dropOp
  repeat' first
    | (with_reducible exact Keeps.refl _ _)
    | (with_reducible assumption)
    | (exact rfl)
    | (exact ‹_ + _ = 32›)
    | (intro)
    | (extract_lets)
    | (with_reducible apply Keeps.ite)
    | (with_reducible apply Keeps.foldl)
    | (with_reducible apply Keeps.foldlSnd)
    | (fail_if_no_progress ((with_reducible apply Keeps.setFabric) <;> [skip; (exact rfl); (first | exact fun h => h | exact fun _ => rfl | exact flowsOk_nil)]))
    | (split)
    | (dsimp only)
    | (dsimp +zetaDelta only)

theorem putOp_keeps (id : Nat) (op : RingOp) (s : State) : Keeps [.fabric] s (putOp id op s) := by
  unfold putOp
  repeat' first
    | (with_reducible exact Keeps.refl _ _)
    | (with_reducible assumption)
    | (exact rfl)
    | (exact ‹_ + _ = 32›)
    | (intro)
    | (extract_lets)
    | (with_reducible apply Keeps.ite)
    | (with_reducible apply Keeps.foldl)
    | (with_reducible apply Keeps.foldlSnd)
    | (fail_if_no_progress ((with_reducible apply Keeps.setFabric) <;> [skip; (exact rfl); (first | exact fun h => h | exact fun _ => rfl | exact flowsOk_nil)]))
    | (split)
    | (dsimp only)
    | (dsimp +zetaDelta only)

theorem failOp_keeps (id status : Nat) (pos : Option Nat) (s : State) : Keeps [.power, .events, .parts, .mesh, .fabric] s (failOp id status pos s) := by
  unfold failOp
  repeat' first
    | (with_reducible exact Keeps.refl _ _)
    | (with_reducible assumption)
    | (exact rfl)
    | (exact ‹_ + _ = 32›)
    | (intro)
    | (extract_lets)
    | (with_reducible apply Keeps.ite)
    | (with_reducible apply Keeps.foldl)
    | (with_reducible apply Keeps.foldlSnd)
    | (with_reducible apply Keeps.step ?_ (tellFailed_keeps _ _ _) ?_)
    | (with_reducible apply Keeps.step ?_ (memFails_keeps _ _ _ _ _) ?_)
    | (with_reducible apply Keeps.step ?_ (dropOp_keeps _ _) ?_)
    | (split)
    | (dsimp only)
    | (dsimp +zetaDelta only)

theorem sendPieces_keeps (id : Nat) (op : RingOp) (s : State) : Keeps [.power, .parts, .mesh, .fabric] s (sendPieces id op s) := by
  unfold sendPieces
  repeat' first
    | (with_reducible exact Keeps.refl _ _)
    | (with_reducible assumption)
    | (exact rfl)
    | (exact ‹_ + _ = 32›)
    | (intro)
    | (extract_lets)
    | (with_reducible apply Keeps.ite)
    | (with_reducible apply Keeps.foldl)
    | (with_reducible apply Keeps.foldlSnd)
    | (with_reducible apply Keeps.step ?_ (send_keeps _ _) ?_)
    | (with_reducible apply Keeps.step ?_ (putOp_keeps _ _ _) ?_)
    | (split)
    | (dsimp only)
    | (dsimp +zetaDelta only)

theorem tryOp_keeps (first : Bool) (id : Nat) (s : State) : Keeps [.power, .events, .parts, .mesh, .fabric] s (tryOp first id s) := by
  unfold tryOp
  repeat' first
    | (with_reducible exact Keeps.refl _ _)
    | (with_reducible assumption)
    | (exact rfl)
    | (exact ‹_ + _ = 32›)
    | (intro)
    | (extract_lets)
    | (with_reducible apply Keeps.ite)
    | (with_reducible apply Keeps.foldl)
    | (with_reducible apply Keeps.foldlSnd)
    | (fail_if_no_progress ((with_reducible apply Keeps.setFabric) <;> [skip; (exact rfl); (first | exact fun h => h | exact fun _ => rfl | exact flowsOk_nil)]))
    | (with_reducible apply Keeps.step ?_ (cacheHit_keeps _ _ _) ?_)
    | (with_reducible apply Keeps.step ?_ (failOp_keeps _ _ _ _) ?_)
    | (with_reducible apply Keeps.step ?_ (sendPieces_keeps _ _ _) ?_)
    | (split)
    | (dsimp only)
    | (dsimp +zetaDelta only)

theorem launch_keeps (op : RingOp) (s : State) : Keeps [.power, .events, .parts, .mesh, .fabric] s (launch op s) := by
  unfold launch
  repeat' first
    | (with_reducible exact Keeps.refl _ _)
    | (with_reducible assumption)
    | (exact rfl)
    | (exact ‹_ + _ = 32›)
    | (intro)
    | (extract_lets)
    | (with_reducible apply Keeps.ite)
    | (with_reducible apply Keeps.foldl)
    | (with_reducible apply Keeps.foldlSnd)
    | (fail_if_no_progress ((with_reducible apply Keeps.setFabric) <;> [skip; (exact rfl); (first | exact fun h => h | exact fun _ => rfl | exact flowsOk_nil)]))
    | (with_reducible apply Keeps.step ?_ (tryOp_keeps _ _ _) ?_)
    | (with_reducible apply Keeps.step ?_ (putOp_keeps _ _ _) ?_)
    | (split)
    | (dsimp only)
    | (dsimp +zetaDelta only)

theorem passOn_keeps (op : RingOp) (node : Nat) (addr : Word64) (flags : Nat) (body : List Byte) (sw : Word64) (s : State) : Keeps [.power, .events, .parts, .mesh, .fabric] s (passOn op node addr flags body sw s) := by
  unfold passOn
  repeat' first
    | (with_reducible exact Keeps.refl _ _)
    | (with_reducible assumption)
    | (exact rfl)
    | (exact ‹_ + _ = 32›)
    | (intro)
    | (extract_lets)
    | (with_reducible apply Keeps.ite)
    | (with_reducible apply Keeps.foldl)
    | (with_reducible apply Keeps.foldlSnd)
    | (fail_if_no_progress ((with_reducible apply Keeps.setFabric) <;> [skip; (exact rfl); (first | exact fun h => h | exact fun _ => rfl | exact flowsOk_nil)]))
    | (with_reducible apply Keeps.step ?_ (putOp_keeps _ _ _) ?_)
    | (with_reducible apply Keeps.step ?_ (failOp_keeps _ _ _ _) ?_)
    | (with_reducible apply Keeps.step ?_ (enqueue_keeps _ _) ?_)
    | (split)
    | (dsimp only)
    | (dsimp +zetaDelta only)

theorem startOp_keeps (op : RingOp) (addr : Word64) (compressed : Bool) (s : State) : Keeps [.power, .events, .parts, .mesh, .fabric] s (startOp op addr compressed s) := by
  unfold startOp
  repeat' first
    | (with_reducible exact Keeps.refl _ _)
    | (with_reducible assumption)
    | (exact rfl)
    | (exact ‹_ + _ = 32›)
    | (intro)
    | (extract_lets)
    | (with_reducible apply Keeps.ite)
    | (with_reducible apply Keeps.foldl)
    | (with_reducible apply Keeps.foldlSnd)
    | (with_reducible apply Keeps.step ?_ (tellFailed_keeps _ _ _) ?_)
    | (with_reducible apply Keeps.step ?_ (memFails_keeps _ _ _ _ _) ?_)
    | (with_reducible apply Keeps.step ?_ (passOn_keeps _ _ _ _ _ _ _) ?_)
    | (with_reducible apply Keeps.step ?_ (launch_keeps _ _) ?_)
    | (split)
    | (dsimp only)
    | (dsimp +zetaDelta only)

theorem bulkRead_keeps (b : Nat) (c : BulkOp) (fromByte : Nat) (s : State) : Keeps [.power, .events, .parts, .mesh, .fabric] s (bulkRead b c fromByte s) := by
  unfold bulkRead
  repeat' first
    | (with_reducible exact Keeps.refl _ _)
    | (with_reducible assumption)
    | (exact rfl)
    | (exact ‹_ + _ = 32›)
    | (intro)
    | (extract_lets)
    | (with_reducible apply Keeps.ite)
    | (with_reducible apply Keeps.foldl)
    | (with_reducible apply Keeps.foldlSnd)
    | (fail_if_no_progress ((with_reducible apply Keeps.setFabric) <;> [skip; (exact rfl); (first | exact fun h => h | exact fun _ => rfl | exact flowsOk_nil)]))
    | (with_reducible apply Keeps.step ?_ (startOp_keeps _ _ _ _) ?_)
    | (split)
    | (dsimp only)
    | (dsimp +zetaDelta only)

theorem bulkWrite_keeps (b : Nat) (c : BulkOp) (addr : Word64) (data : List Byte) (framed last : Bool) (s : State) : Keeps [.power, .events, .parts, .mesh, .fabric] s (bulkWrite b c addr data framed last s) := by
  unfold bulkWrite
  repeat' first
    | (with_reducible exact Keeps.refl _ _)
    | (with_reducible assumption)
    | (exact rfl)
    | (exact ‹_ + _ = 32›)
    | (intro)
    | (extract_lets)
    | (with_reducible apply Keeps.ite)
    | (with_reducible apply Keeps.foldl)
    | (with_reducible apply Keeps.foldlSnd)
    | (fail_if_no_progress ((with_reducible apply Keeps.setFabric) <;> [skip; (exact rfl); (first | exact fun h => h | exact fun _ => rfl | exact flowsOk_nil)]))
    | (with_reducible apply Keeps.step ?_ (startOp_keeps _ _ _ _) ?_)
    | (split)
    | (dsimp only)
    | (dsimp +zetaDelta only)

theorem bulkLoaded_keeps (b : Nat) (data : List Byte) (s : State) : Keeps [.power, .events, .parts, .mesh, .fabric] s (bulkLoaded b data s) := by
  unfold bulkLoaded
  repeat' first
    | (with_reducible exact Keeps.refl _ _)
    | (with_reducible assumption)
    | (exact rfl)
    | (exact ‹_ + _ = 32›)
    | (intro)
    | (extract_lets)
    | (with_reducible apply Keeps.ite)
    | (with_reducible apply Keeps.foldl)
    | (with_reducible apply Keeps.foldlSnd)
    | (with_reducible apply Keeps.step ?_ (bulkRead_keeps _ _ _ _) ?_)
    | (with_reducible apply Keeps.step ?_ (bulkWrite_keeps _ _ _ _ _ _ _) ?_)
    | (split)
    | (dsimp only)
    | (dsimp +zetaDelta only)

theorem bulkStored_keeps (b : Nat) (s : State) : Keeps [.power, .events, .parts, .mesh, .fabric] s (bulkStored b s) := by
  unfold bulkStored
  repeat' first
    | (with_reducible exact Keeps.refl _ _)
    | (with_reducible assumption)
    | (exact rfl)
    | (exact ‹_ + _ = 32›)
    | (intro)
    | (extract_lets)
    | (with_reducible apply Keeps.ite)
    | (with_reducible apply Keeps.foldl)
    | (with_reducible apply Keeps.foldlSnd)
    | (fail_if_no_progress ((with_reducible apply Keeps.setFabric) <;> [skip; (exact rfl); (first | exact fun h => h | exact fun _ => rfl | exact flowsOk_nil)]))
    | (with_reducible apply Keeps.step ?_ (bulkWrite_keeps _ _ _ _ _ _ _) ?_)
    | (with_reducible apply Keeps.step ?_ (endBulk_keeps _ _ _) ?_)
    | (with_reducible apply Keeps.step ?_ (bulkRead_keeps _ _ _ _) ?_)
    | (split)
    | (dsimp only)
    | (dsimp +zetaDelta only)

theorem startBulk_keeps (p : Pkt) (m : MemCmd) (s : State) : Keeps [.power, .events, .parts, .mesh, .fabric] s (startBulk p m s) := by
  unfold startBulk
  repeat' first
    | (with_reducible exact Keeps.refl _ _)
    | (with_reducible assumption)
    | (exact rfl)
    | (exact ‹_ + _ = 32›)
    | (intro)
    | (extract_lets)
    | (with_reducible apply Keeps.ite)
    | (with_reducible apply Keeps.foldl)
    | (with_reducible apply Keeps.foldlSnd)
    | (fail_if_no_progress ((with_reducible apply Keeps.setFabric) <;> [skip; (exact rfl); (first | exact fun h => h | exact fun _ => rfl | exact flowsOk_nil)]))
    | (with_reducible apply Keeps.step ?_ (answerMem_keeps _ _ _ _ _ _ _ _ _) ?_)
    | (with_reducible apply Keeps.step ?_ (memFails_keeps _ _ _ _ _) ?_)
    | (with_reducible apply Keeps.step ?_ (passOn_keeps _ _ _ _ _ _ _) ?_)
    | (with_reducible apply Keeps.step ?_ (bulkRead_keeps _ _ _ _) ?_)
    | (split)
    | (dsimp only)
    | (dsimp +zetaDelta only)

theorem startCmd_keeps (op : Nat) (p : Pkt) (m : MemCmd) (data : List Byte) (s : State) : Keeps [.power, .events, .parts, .mesh, .fabric] s (startCmd op p m data s) := by
  unfold startCmd
  repeat' first
    | (with_reducible exact Keeps.refl _ _)
    | (with_reducible assumption)
    | (exact rfl)
    | (exact ‹_ + _ = 32›)
    | (intro)
    | (extract_lets)
    | (with_reducible apply Keeps.ite)
    | (with_reducible apply Keeps.foldl)
    | (with_reducible apply Keeps.foldlSnd)
    | (with_reducible apply Keeps.step ?_ (startOp_keeps _ _ _ _) ?_)
    | (split)
    | (dsimp only)
    | (dsimp +zetaDelta only)

theorem replyCell_keeps (x y reqId domain op : Nat) (data : List Byte) (s : State) : Keeps [.power, .parts, .mesh] s (replyCell x y reqId domain op data s) := by
  unfold replyCell
  repeat' first
    | (with_reducible exact Keeps.refl _ _)
    | (with_reducible assumption)
    | (exact rfl)
    | (exact ‹_ + _ = 32›)
    | (intro)
    | (extract_lets)
    | (with_reducible apply Keeps.ite)
    | (with_reducible apply Keeps.foldl)
    | (with_reducible apply Keeps.foldlSnd)
    | (with_reducible apply Keeps.step ?_ (sendReply_keeps _ _ _ _ _ _ _ _ _) ?_)
    | (split)
    | (dsimp only)
    | (dsimp +zetaDelta only)

theorem succeedOp_keeps (id : Nat) (op : RingOp) (s : State) : Keeps [.power, .events, .parts, .tiles, .mem, .ecc, .mesh, .crest, .fabric] s (succeedOp id op s) := by
  unfold succeedOp
  repeat' first
    | (with_reducible exact Keeps.refl _ _)
    | (with_reducible assumption)
    | (exact rfl)
    | (exact ‹_ + _ = 32›)
    | (intro)
    | (extract_lets)
    | (with_reducible apply Keeps.ite)
    | (with_reducible apply Keeps.foldl)
    | (with_reducible apply Keeps.foldlSnd)
    | (with_reducible apply Keeps.step ?_ (dropOp_keeps _ _) ?_)
    | (with_reducible apply Keeps.step ?_ (modPart_keeps _ _ _) ?_)
    | (with_reducible apply Keeps.step ?_ (afterCtr_keeps _ _) ?_)
    | (with_reducible apply Keeps.step ?_ (crestProduce_keeps _ _ _ _) ?_)
    | (with_reducible apply Keeps.step ?_ (answerMem_keeps _ _ _ _ _ _ _ _ _) ?_)
    | (with_reducible apply Keeps.step ?_ (replyCell_keeps _ _ _ _ _ _ _) ?_)
    | (with_reducible apply Keeps.step ?_ (sendReply_keeps _ _ _ _ _ _ _ _ _) ?_)
    | (with_reducible apply Keeps.step ?_ (bulkLoaded_keeps _ _ _) ?_)
    | (with_reducible apply Keeps.step ?_ (bulkStored_keeps _ _) ?_)
    | (split)
    | (dsimp only)
    | (dsimp +zetaDelta only)

theorem ringReply_keeps (m : MemRep) (s : State) : Keeps [.power, .events, .parts, .tiles, .mem, .ecc, .mesh, .crest, .fabric] s (ringReply m s) := by
  unfold ringReply
  repeat' first
    | (with_reducible exact Keeps.refl _ _)
    | (with_reducible assumption)
    | (exact rfl)
    | (exact ‹_ + _ = 32›)
    | (intro)
    | (extract_lets)
    | (with_reducible apply Keeps.ite)
    | (with_reducible apply Keeps.foldl)
    | (with_reducible apply Keeps.foldlSnd)
    | (with_reducible apply Keeps.step ?_ (failOp_keeps _ _ _ _) ?_)
    | (with_reducible apply Keeps.step ?_ (succeedOp_keeps _ _ _) ?_)
    | (with_reducible apply Keeps.step ?_ (putOp_keeps _ _ _) ?_)
    | (split)
    | (dsimp only)
    | (dsimp +zetaDelta only)

theorem ringLost_keeps (reqId reason : Nat) (s : State) : Keeps [.power, .events, .parts, .tiles, .mem, .ecc, .mesh, .crest, .fabric] s (ringLost reqId reason s) := by
  unfold ringLost
  repeat' first
    | (with_reducible exact Keeps.refl _ _)
    | (with_reducible assumption)
    | (exact rfl)
    | (exact ‹_ + _ = 32›)
    | (intro)
    | (extract_lets)
    | (with_reducible apply Keeps.ite)
    | (with_reducible apply Keeps.foldl)
    | (with_reducible apply Keeps.foldlSnd)
    | (with_reducible apply Keeps.step ?_ (ringReply_keeps _ _) ?_)
    | (split)
    | (dsimp only)
    | (dsimp +zetaDelta only)

theorem passedReply_keeps (node domain : Nat) (m : MemRep) (s : State) : Keeps [.power, .events, .parts, .tiles, .mem, .ecc, .mesh, .crest, .fabric] s (passedReply node domain m s) := by
  unfold passedReply
  repeat' first
    | (with_reducible exact Keeps.refl _ _)
    | (with_reducible assumption)
    | (exact rfl)
    | (exact ‹_ + _ = 32›)
    | (intro)
    | (extract_lets)
    | (with_reducible apply Keeps.ite)
    | (with_reducible apply Keeps.foldl)
    | (with_reducible apply Keeps.foldlSnd)
    | (with_reducible apply Keeps.step ?_ (tellFailed_keeps _ _ _) ?_)
    | (with_reducible apply Keeps.step ?_ (dropOp_keeps _ _) ?_)
    | (with_reducible apply Keeps.step ?_ (failOp_keeps _ _ _ _) ?_)
    | (with_reducible apply Keeps.step ?_ (succeedOp_keeps _ _ _) ?_)
    | (split)
    | (dsimp only)
    | (dsimp +zetaDelta only)

theorem memLost_keeps (q : Packet) (refused : Bool) (s : State) : Keeps [.power, .events, .parts, .mesh, .fabric] s (memLost q refused s) := by
  unfold memLost
  repeat' first
    | (with_reducible exact Keeps.refl _ _)
    | (with_reducible assumption)
    | (exact rfl)
    | (exact ‹_ + _ = 32›)
    | (intro)
    | (extract_lets)
    | (with_reducible apply Keeps.ite)
    | (with_reducible apply Keeps.foldl)
    | (with_reducible apply Keeps.foldlSnd)
    | (with_reducible apply Keeps.step ?_ (failOp_keeps _ _ _ _) ?_)
    | (split)
    | (dsimp only)
    | (dsimp +zetaDelta only)

theorem homePerform_keeps (h : Head) (m : MemReq) (s : State) : Keeps [.fld, .power, .events, .parts, .tiles, .mem, .ecc, .mesh, .crest, .fabric, .settings] s (homePerform h m s) := by
  unfold homePerform
  repeat' first
    | (with_reducible exact Keeps.refl _ _)
    | (with_reducible assumption)
    | (exact rfl)
    | (exact ‹_ + _ = 32›)
    | (intro)
    | (extract_lets)
    | (with_reducible apply Keeps.ite)
    | (with_reducible apply Keeps.foldl)
    | (with_reducible apply Keeps.foldlSnd)
    | (with_reducible apply Keeps.step ?_ (sendReply_keeps _ _ _ _ _ _ _ _ _) ?_)
    | (with_reducible apply Keeps.step ?_ (countAccess_keeps _ _ _ _) ?_)
    | (with_reducible apply Keeps.step ?_ (writeBytes_keeps _ _ _) ?_)
    | (with_reducible apply Keeps.step ?_ (touchRead_keeps _ _ _) ?_)
    | (with_reducible apply Keeps.step ?_ (cellFault_keeps _ _ _ _ _) ?_)
    | (with_reducible apply Keeps.step ?_ (noteUncorrected_keeps _ _) ?_)
    | (split)
    | (dsimp only)
    | (dsimp +zetaDelta only)

theorem mcServeN_keeps (k n : Nat) (s : State) : Keeps [.fld, .power, .events, .parts, .tiles, .mem, .ecc, .mesh, .crest, .fabric, .settings] s (mcServeN k n s) := by
  induction n generalizing s with
  | zero => exact Keeps.refl _ _
  | succ n ih =>
    unfold mcServeN
    repeat' first
      | (with_reducible exact Keeps.refl _ _)
      | (with_reducible assumption)
      | (exact rfl)
      | (exact ‹_ + _ = 32›)
      | (intro)
      | (extract_lets)
      | (with_reducible apply Keeps.ite)
      | (with_reducible apply Keeps.foldl)
      | (with_reducible apply Keeps.foldlSnd)
      | (with_reducible apply Keeps.step ?_ (homePerform_keeps _ _ _) ?_)
      | (with_reducible apply Keeps.step ?_ (modTile_keeps _ _ _) ?_)
      | (with_reducible apply Keeps.trans ?_ (ih _))
      | (split)
      | (dsimp only)
      | (dsimp +zetaDelta only)

theorem mcServe_keeps (k : Nat) (s : State) : Keeps [.fld, .power, .events, .parts, .tiles, .mem, .ecc, .mesh, .crest, .fabric, .settings] s (mcServe k s) := by
  unfold mcServe
  repeat' first
    | (with_reducible exact Keeps.refl _ _)
    | (with_reducible assumption)
    | (exact rfl)
    | (exact ‹_ + _ = 32›)
    | (intro)
    | (extract_lets)
    | (with_reducible apply Keeps.ite)
    | (with_reducible apply Keeps.foldl)
    | (with_reducible apply Keeps.foldlSnd)
    | (with_reducible apply Keeps.step ?_ (mcServeN_keeps _ _ _) ?_)
    | (split)
    | (dsimp only)
    | (dsimp +zetaDelta only)

theorem homeTake_keeps (h : Head) (m : MemReq) (s : State) : Keeps [.fld, .power, .events, .parts, .tiles, .mem, .ecc, .mesh, .crest, .fabric, .settings] s (homeTake h m s) := by
  unfold homeTake
  repeat' first
    | (with_reducible exact Keeps.refl _ _)
    | (with_reducible assumption)
    | (exact rfl)
    | (exact ‹_ + _ = 32›)
    | (intro)
    | (extract_lets)
    | (with_reducible apply Keeps.ite)
    | (with_reducible apply Keeps.foldl)
    | (with_reducible apply Keeps.foldlSnd)
    | (with_reducible apply Keeps.step ?_ (mcServe_keeps _ _) ?_)
    | (with_reducible apply Keeps.step ?_ (modTile_keeps _ _ _) ?_)
    | (split)
    | (dsimp only)
    | (dsimp +zetaDelta only)

theorem mcServeAll_keeps (s : State) : Keeps [.fld, .power, .events, .parts, .tiles, .mem, .ecc, .mesh, .crest, .fabric, .settings] s (mcServeAll s) := by
  unfold mcServeAll
  repeat' first
    | (with_reducible exact Keeps.refl _ _)
    | (with_reducible assumption)
    | (exact rfl)
    | (exact ‹_ + _ = 32›)
    | (intro)
    | (extract_lets)
    | (with_reducible apply Keeps.ite)
    | (with_reducible apply Keeps.foldl)
    | (with_reducible apply Keeps.foldlSnd)
    | (with_reducible apply Keeps.step ?_ (mcServe_keeps _ _) ?_)
    | (split)
    | (dsimp only)
    | (dsimp +zetaDelta only)

theorem descFault_keeps (k : Nat) (s : State) : Keeps [.events] s (descFault k s) := by
  unfold descFault
  repeat' first
    | (with_reducible exact Keeps.refl _ _)
    | (with_reducible assumption)
    | (exact rfl)
    | (exact ‹_ + _ = 32›)
    | (intro)
    | (extract_lets)
    | (with_reducible apply Keeps.ite)
    | (with_reducible apply Keeps.foldl)
    | (with_reducible apply Keeps.foldlSnd)
    | (with_reducible apply Keeps.step ?_ (raise_keeps _ _) ?_)
    | (split)
    | (dsimp only)
    | (dsimp +zetaDelta only)

theorem issueLoad_keeps (k i : Nat) (s : State) : Keeps [.power, .parts, .tiles, .mesh] s (issueLoad k i s) := by
  unfold issueLoad
  repeat' first
    | (with_reducible exact Keeps.refl _ _)
    | (with_reducible assumption)
    | (exact rfl)
    | (exact ‹_ + _ = 32›)
    | (intro)
    | (extract_lets)
    | (with_reducible apply Keeps.ite)
    | (with_reducible apply Keeps.foldl)
    | (with_reducible apply Keeps.foldlSnd)
    | (with_reducible apply Keeps.step ?_ (send_keeps _ _) ?_)
    | (with_reducible apply Keeps.step ?_ (modTile_keeps _ _ _) ?_)
    | (split)
    | (dsimp only)
    | (dsimp +zetaDelta only)

theorem issueLoads_keeps (k : Nat) (s : State) : Keeps [.power, .parts, .tiles, .mesh] s (issueLoads k s) := by
  unfold issueLoads
  repeat' first
    | (with_reducible exact Keeps.refl _ _)
    | (with_reducible assumption)
    | (exact rfl)
    | (exact ‹_ + _ = 32›)
    | (intro)
    | (extract_lets)
    | (with_reducible apply Keeps.ite)
    | (with_reducible apply Keeps.foldl)
    | (with_reducible apply Keeps.foldlSnd)
    | (with_reducible apply Keeps.step ?_ (issueLoad_keeps _ _ _) ?_)
    | (split)
    | (dsimp only)
    | (dsimp +zetaDelta only)

theorem promoteDescs_keeps (k n : Nat) (s : State) : Keeps [.power, .events, .parts, .tiles, .mesh, .crest, .fabric] s (promoteDescs k n s) := by
  induction n generalizing s with
  | zero => exact Keeps.refl _ _
  | succ n ih =>
    unfold promoteDescs
    repeat' first
      | (with_reducible exact Keeps.refl _ _)
      | (with_reducible assumption)
      | (exact rfl)
      | (exact ‹_ + _ = 32›)
      | (intro)
      | (extract_lets)
      | (with_reducible apply Keeps.ite)
      | (with_reducible apply Keeps.foldl)
      | (with_reducible apply Keeps.foldlSnd)
      | (with_reducible apply Keeps.step ?_ (modTile_keeps _ _ _) ?_)
      | (with_reducible apply Keeps.step ?_ (descFault_keeps _ _) ?_)
      | (with_reducible apply Keeps.step ?_ (cellFault_keeps _ _ _ _ _) ?_)
      | (with_reducible apply Keeps.trans ?_ (ih _))
      | (split)
      | (dsimp only)
      | (dsimp +zetaDelta only)

theorem runDescs_keeps (k : Nat) (s : State) : Keeps [.power, .events, .parts, .tiles, .mesh, .crest, .fabric] s (runDescs k s) := by
  unfold runDescs
  repeat' first
    | (with_reducible exact Keeps.refl _ _)
    | (with_reducible assumption)
    | (exact rfl)
    | (exact ‹_ + _ = 32›)
    | (intro)
    | (extract_lets)
    | (with_reducible apply Keeps.ite)
    | (with_reducible apply Keeps.foldl)
    | (with_reducible apply Keeps.foldlSnd)
    | (with_reducible apply Keeps.step ?_ (issueLoads_keeps _ _) ?_)
    | (with_reducible apply Keeps.step ?_ (promoteDescs_keeps _ _ _) ?_)
    | (split)
    | (dsimp only)
    | (dsimp +zetaDelta only)

theorem postDesc_keeps (k : Nat) (d : Desc) (s : State) : Keeps [.power, .events, .parts, .tiles, .mesh, .crest, .fabric] s (postDesc k d s) := by
  unfold postDesc
  repeat' first
    | (with_reducible exact Keeps.refl _ _)
    | (with_reducible assumption)
    | (exact rfl)
    | (exact ‹_ + _ = 32›)
    | (intro)
    | (extract_lets)
    | (with_reducible apply Keeps.ite)
    | (with_reducible apply Keeps.foldl)
    | (with_reducible apply Keeps.foldlSnd)
    | (with_reducible apply Keeps.step ?_ (runDescs_keeps _ _) ?_)
    | (with_reducible apply Keeps.step ?_ (modTile_keeps _ _ _) ?_)
    | (split)
    | (dsimp only)
    | (dsimp +zetaDelta only)

theorem dropDesc_keeps (k i : Nat) (s : State) : Keeps [.tiles] s (dropDesc k i s) := by
  unfold dropDesc
  repeat' first
    | (with_reducible exact Keeps.refl _ _)
    | (with_reducible assumption)
    | (exact rfl)
    | (exact ‹_ + _ = 32›)
    | (intro)
    | (extract_lets)
    | (with_reducible apply Keeps.ite)
    | (with_reducible apply Keeps.foldl)
    | (with_reducible apply Keeps.foldlSnd)
    | (with_reducible apply Keeps.step ?_ (modTile_keeps _ _ _) ?_)
    | (split)
    | (dsimp only)
    | (dsimp +zetaDelta only)

theorem descProduce_keeps (k : Nat) (d : Desc) (s : State) : Keeps [.power, .events, .parts, .tiles, .mem, .ecc, .mesh, .crest, .fabric] s (descProduce k d s) := by
  unfold descProduce
  repeat' first
    | (with_reducible exact Keeps.refl _ _)
    | (with_reducible assumption)
    | (exact rfl)
    | (exact ‹_ + _ = 32›)
    | (intro)
    | (extract_lets)
    | (with_reducible apply Keeps.ite)
    | (with_reducible apply Keeps.foldl)
    | (with_reducible apply Keeps.foldlSnd)
    | (with_reducible apply Keeps.step ?_ (raise_keeps _ _) ?_)
    | (with_reducible apply Keeps.step ?_ (holdCtr_keeps _ _ _) ?_)
    | (with_reducible apply Keeps.step ?_ (afterCtr_keeps _ _) ?_)
    | (with_reducible apply Keeps.step ?_ (applyCtr_keeps _ _ _ _) ?_)
    | (with_reducible apply Keeps.step ?_ (applyCtr_eq ‹_›) ?_)
    | (split)
    | (dsimp only)
    | (dsimp +zetaDelta only)

theorem cellReply_keeps (k : Nat) (m : MemRep) (s : State) : Keeps [.fld, .power, .events, .parts, .tiles, .mem, .ecc, .mesh, .crest, .fabric] s (cellReply k m s) := by
  unfold cellReply
  repeat' first
    | (with_reducible exact Keeps.refl _ _)
    | (with_reducible assumption)
    | (exact rfl)
    | (exact ‹_ + _ = 32›)
    | (intro)
    | (extract_lets)
    | (with_reducible apply Keeps.ite)
    | (with_reducible apply Keeps.foldl)
    | (with_reducible apply Keeps.foldlSnd)
    | (with_reducible apply Keeps.step ?_ (runDescs_keeps _ _) ?_)
    | (with_reducible apply Keeps.step ?_ (descFault_keeps _ _) ?_)
    | (with_reducible apply Keeps.step ?_ (dropDesc_keeps _ _ _) ?_)
    | (with_reducible apply Keeps.step ?_ (countAccess_keeps _ _ _ _) ?_)
    | (with_reducible apply Keeps.step ?_ (writeBytes_keeps _ _ _) ?_)
    | (with_reducible apply Keeps.step ?_ (descProduce_keeps _ _ _) ?_)
    | (with_reducible apply Keeps.step ?_ (issueLoads_keeps _ _) ?_)
    | (with_reducible apply Keeps.step ?_ (modTile_keeps _ _ _) ?_)
    | (split)
    | (dsimp only)
    | (dsimp +zetaDelta only)

theorem cellLost_keeps (k reqId reason : Nat) (s : State) : Keeps [.fld, .power, .events, .parts, .tiles, .mem, .ecc, .mesh, .crest, .fabric] s (cellLost k reqId reason s) := by
  unfold cellLost
  repeat' first
    | (with_reducible exact Keeps.refl _ _)
    | (with_reducible assumption)
    | (exact rfl)
    | (exact ‹_ + _ = 32›)
    | (intro)
    | (extract_lets)
    | (with_reducible apply Keeps.ite)
    | (with_reducible apply Keeps.foldl)
    | (with_reducible apply Keeps.foldlSnd)
    | (with_reducible apply Keeps.step ?_ (cellReply_keeps _ _ _) ?_)
    | (with_reducible apply Keeps.step ?_ (memFails_keeps _ _ _ _ _) ?_)
    | (split)
    | (dsimp only)
    | (dsimp +zetaDelta only)

end Sys2Proof.Machine
end

