-- ==== Sys2Proof/Laws/Keeps/Pins.lean ====
section
/-! SUPPORT. What the operations of Machine/Pins.lean may write, and that they keep the invariant. -/

namespace Sys2Proof.Machine

open Sys2Proof

set_option linter.unusedTactic false
set_option linter.unreachableTactic false

theorem modPin_keeps (i : Nat) (g : Pin → Pin) (s : State) : Keeps [.pilot] s (modPin i g s) := by
  unfold modPin
  repeat' first
    | (with_reducible exact Keeps.refl _ _)
    | (with_reducible assumption)
    | (exact rfl)
    | (exact ‹_ + _ = 32›)
    | (intro)
    | (extract_lets)
    | (with_reducible apply Keeps.ite)
    | (with_reducible apply Keeps.foldl)
    | (with_reducible apply Keeps.foldlSnd)
    | (fail_if_no_progress ((with_reducible apply Keeps.setPilot) <;> [skip; (exact rfl)]))
    | (split)
    | (dsimp only)
    | (dsimp +zetaDelta only)

theorem pinFunction_keeps (i f : Nat) (s : State) : Keeps [.time, .pilot] s (pinFunction i f s) := by
  unfold pinFunction
  repeat' first
    | (with_reducible exact Keeps.refl _ _)
    | (with_reducible assumption)
    | (exact rfl)
    | (exact ‹_ + _ = 32›)
    | (intro)
    | (extract_lets)
    | (with_reducible apply Keeps.ite)
    | (with_reducible apply Keeps.foldl)
    | (with_reducible apply Keeps.foldlSnd)
    | (fail_if_no_progress ((with_reducible apply Keeps.setTime) <;> [skip; (exact rfl)]))
    | (with_reducible apply Keeps.step ?_ (modPin_keeps _ _ _) ?_)
    | (split)
    | (dsimp only)
    | (dsimp +zetaDelta only)

theorem pinLevel_keeps (i : Nat) (v : Bool) (s : State) : Keeps [.pilot] s (pinLevel i v s) := by
  unfold pinLevel
  repeat' first
    | (with_reducible exact Keeps.refl _ _)
    | (with_reducible assumption)
    | (exact rfl)
    | (exact ‹_ + _ = 32›)
    | (intro)
    | (extract_lets)
    | (with_reducible apply Keeps.ite)
    | (with_reducible apply Keeps.foldl)
    | (with_reducible apply Keeps.foldlSnd)
    | (with_reducible apply Keeps.step ?_ (modPin_keeps _ _ _) ?_)
    | (split)
    | (dsimp only)
    | (dsimp +zetaDelta only)

theorem pinsRestore_keeps (s : State) : Keeps [.time, .pilot] s (pinsRestore s) := by
  unfold pinsRestore
  repeat' first
    | (with_reducible exact Keeps.refl _ _)
    | (with_reducible assumption)
    | (exact rfl)
    | (exact ‹_ + _ = 32›)
    | (intro)
    | (extract_lets)
    | (with_reducible apply Keeps.ite)
    | (with_reducible apply Keeps.foldl)
    | (with_reducible apply Keeps.foldlSnd)
    | (with_reducible apply Keeps.step ?_ (pinFunction_keeps _ _ _) ?_)
    | (split)
    | (dsimp only)
    | (dsimp +zetaDelta only)

theorem ppsStamp_keeps (s : State) : Keeps [.time] s (ppsStamp s) := by
  unfold ppsStamp
  repeat' first
    | (with_reducible exact Keeps.refl _ _)
    | (with_reducible assumption)
    | (exact rfl)
    | (exact ‹_ + _ = 32›)
    | (intro)
    | (extract_lets)
    | (with_reducible apply Keeps.ite)
    | (with_reducible apply Keeps.foldl)
    | (with_reducible apply Keeps.foldlSnd)
    | (fail_if_no_progress ((with_reducible apply Keeps.setTime) <;> [skip; (exact rfl)]))
    | (split)
    | (dsimp only)
    | (dsimp +zetaDelta only)

theorem pinSample_keeps (i : Nat) (level : Bool) (s : State) : Keeps [.time, .pilot] s (pinSample i level s).2 := by
  unfold pinSample
  repeat' first
    | (with_reducible exact Keeps.refl _ _)
    | (with_reducible assumption)
    | (exact rfl)
    | (exact ‹_ + _ = 32›)
    | (intro)
    | (extract_lets)
    | (with_reducible apply Keeps.ite)
    | (with_reducible apply Keeps.foldl)
    | (with_reducible apply Keeps.foldlSnd)
    | (with_reducible apply Keeps.step ?_ (addCycles_keeps _ _) ?_)
    | (with_reducible apply Keeps.step ?_ (modPin_keeps _ _ _) ?_)
    | (with_reducible apply Keeps.step ?_ (ppsStamp_keeps _) ?_)
    | (split)
    | (dsimp only)
    | (dsimp +zetaDelta only)

theorem pinSample_eq {i : Nat} {level : Bool} {s : State} {x} {t : State} (h : pinSample i level s = (x, t)) : Keeps [.time, .pilot] s t := by
  have := pinSample_keeps i level s
  rwa [h] at this

theorem syncPulse_keeps (source : Nat) (s : State) : Keeps [.pilot] s (syncPulse source s) := by
  unfold syncPulse
  repeat' first
    | (with_reducible exact Keeps.refl _ _)
    | (with_reducible assumption)
    | (exact rfl)
    | (exact ‹_ + _ = 32›)
    | (intro)
    | (extract_lets)
    | (with_reducible apply Keeps.ite)
    | (with_reducible apply Keeps.foldl)
    | (with_reducible apply Keeps.foldlSnd)
    | (fail_if_no_progress ((with_reducible apply Keeps.setPilot) <;> [skip; (exact rfl)]))
    | (split)
    | (dsimp only)
    | (dsimp +zetaDelta only)

theorem syncEnd_keeps (i : Nat) (s : State) : Keeps [.pilot] s (syncEnd i s) := by
  unfold syncEnd
  repeat' first
    | (with_reducible exact Keeps.refl _ _)
    | (with_reducible assumption)
    | (exact rfl)
    | (exact ‹_ + _ = 32›)
    | (intro)
    | (extract_lets)
    | (with_reducible apply Keeps.ite)
    | (with_reducible apply Keeps.foldl)
    | (with_reducible apply Keeps.foldlSnd)
    | (with_reducible apply Keeps.step ?_ (modPin_keeps _ _ _) ?_)
    | (split)
    | (dsimp only)
    | (dsimp +zetaDelta only)

end Sys2Proof.Machine
end

