-- ==== Sys2Proof/Laws/Keeps/Resets.lean ====
section
/-! SUPPORT. What the operations of Machine/Resets.lean may write, and that they keep the invariant. -/

namespace Sys2Proof.Machine

open Sys2Proof

set_option linter.unusedTactic false
set_option linter.unreachableTactic false

theorem keeps_some {w : List Region} {s a t : State} (h : some a = some t) (ha : Keeps w s a) : Keeps w s t :=
  Option.some.inj h ▸ ha

theorem keeps_ite {w : List Region} {c : Prop} [Decidable c] {s a t : State} (h : (if c then some a else none) = some t)
    (ha : Keeps w s a) : Keeps w s t := by
  by_cases hc : c
  · rw [if_pos hc] at h
    exact keeps_some h ha
  · rw [if_neg hc] at h
    cases h


theorem clearSites_keeps (p : Nat → Bool) (s : State) : Keeps [.tiles, .mem, .ecc] s (clearSites p s) := by
  unfold clearSites
  repeat' first
    | (with_reducible exact Keeps.refl _ _)
    | (with_reducible assumption)
    | (exact rfl)
    | (exact ‹_ + _ = 32›)
    | (intro)
    | (extract_lets)
    | (with_reducible apply Keeps.ite)
    | (with_reducible apply Keeps.foldl)
    | (with_reducible apply Keeps.foldlSnd)
    | (fail_if_no_progress ((with_reducible apply Keeps.setTiles) <;> [skip; (exact rfl)]))
    | (with_reducible apply Keeps.step ?_ (zeroSites_keeps _ _) ?_)
    | (split)
    | (dsimp only)
    | (dsimp +zetaDelta only)

theorem clearCrest_keeps (p : Nat → Bool) (s : State) : Keeps [.crest] s (clearCrest p s) := by
  unfold clearCrest
  repeat' first
    | (with_reducible exact Keeps.refl _ _)
    | (with_reducible assumption)
    | (exact rfl)
    | (exact ‹_ + _ = 32›)
    | (intro)
    | (extract_lets)
    | (with_reducible apply Keeps.ite)
    | (with_reducible apply Keeps.foldl)
    | (with_reducible apply Keeps.foldlSnd)
    | (fail_if_no_progress ((with_reducible apply Keeps.setCrest) <;> [skip; (exact rfl)]))
    | (split)
    | (dsimp only)
    | (dsimp +zetaDelta only)

theorem clearField_keeps (f : Nat) (s : State) : Keeps [.tiles, .mem, .ecc, .crest] s (clearField f s) := by
  unfold clearField
  repeat' first
    | (with_reducible exact Keeps.refl _ _)
    | (with_reducible assumption)
    | (exact rfl)
    | (exact ‹_ + _ = 32›)
    | (intro)
    | (extract_lets)
    | (with_reducible apply Keeps.ite)
    | (with_reducible apply Keeps.foldl)
    | (with_reducible apply Keeps.foldlSnd)
    | (fail_if_no_progress ((with_reducible apply Keeps.setCrest) <;> [skip; (exact rfl)]))
    | (with_reducible apply Keeps.step ?_ (clearCrest_keeps _ _) ?_)
    | (with_reducible apply Keeps.step ?_ (clearSites_keeps _ _) ?_)
    | (split)
    | (dsimp only)
    | (dsimp +zetaDelta only)

theorem writeLoss_keeps (scope failed abandoned counters energy since : Nat) (s : State) : Keeps [.pilot] s (writeLoss scope failed abandoned counters energy since s) := by
  unfold writeLoss
  repeat' first
    | (with_reducible exact Keeps.refl _ _)
    | (with_reducible assumption)
    | (exact rfl)
    | (exact ‹_ + _ = 32›)
    | (intro)
    | (extract_lets)
    | (with_reducible apply Keeps.ite)
    | (with_reducible apply Keeps.foldl)
    | (with_reducible apply Keeps.foldlSnd)
    | (fail_if_no_progress ((with_reducible apply Keeps.setPilot) <;> [skip; (exact rfl)]))
    | (split)
    | (dsimp only)
    | (dsimp +zetaDelta only)

theorem endTest_keeps (code : Nat) (s : State) : Keeps [.fld, .events, .test] s (endTest code s) := by
  unfold endTest
  repeat' first
    | (with_reducible exact Keeps.refl _ _)
    | (with_reducible assumption)
    | (exact rfl)
    | (exact ‹_ + _ = 32›)
    | (intro)
    | (extract_lets)
    | (with_reducible apply Keeps.ite)
    | (with_reducible apply Keeps.foldl)
    | (with_reducible apply Keeps.foldlSnd)
    | (fail_if_no_progress ((with_reducible apply Keeps.setTest) <;> [skip; (exact rfl)]))
    | (with_reducible apply Keeps.step ?_ (modFld_keeps _ _ _) ?_)
    | (with_reducible apply Keeps.step ?_ (raise_keeps _ _) ?_)
    | (split)
    | (dsimp only)
    | (dsimp +zetaDelta only)

theorem resetTest_keeps (fs : List Nat) (s : State) : Keeps [.fld, .events, .test] s (resetTest fs s) := by
  unfold resetTest
  repeat' first
    | (with_reducible exact Keeps.refl _ _)
    | (with_reducible assumption)
    | (exact rfl)
    | (exact ‹_ + _ = 32›)
    | (intro)
    | (extract_lets)
    | (with_reducible apply Keeps.ite)
    | (with_reducible apply Keeps.foldl)
    | (with_reducible apply Keeps.foldlSnd)
    | (with_reducible apply Keeps.step ?_ (endTest_keeps _ _) ?_)
    | (split)
    | (dsimp only)
    | (dsimp +zetaDelta only)

theorem reserve_keeps (p want weight : Nat) (s : State) : Keeps [.events, .parts] s (reserve p want weight s) := by
  unfold reserve
  repeat' first
    | (with_reducible exact Keeps.refl _ _)
    | (with_reducible assumption)
    | (exact rfl)
    | (exact ‹_ + _ = 32›)
    | (intro)
    | (extract_lets)
    | (with_reducible apply Keeps.ite)
    | (with_reducible apply Keeps.foldl)
    | (with_reducible apply Keeps.foldlSnd)
    | (with_reducible apply Keeps.step ?_ (modPart_keeps _ _ _) ?_)
    | (with_reducible apply Keeps.step ?_ (raise_keeps _ _) ?_)
    | (split)
    | (dsimp only)
    | (dsimp +zetaDelta only)

theorem applyRole_keeps (p role : Nat) (s : State) : Keeps [.events, .parts] s (applyRole p role s) := by
  unfold applyRole
  repeat' first
    | (with_reducible exact Keeps.refl _ _)
    | (with_reducible assumption)
    | (exact rfl)
    | (exact ‹_ + _ = 32›)
    | (intro)
    | (extract_lets)
    | (with_reducible apply Keeps.ite)
    | (with_reducible apply Keeps.foldl)
    | (with_reducible apply Keeps.foldlSnd)
    | (with_reducible apply Keeps.step ?_ (reserve_keeps _ _ _ _) ?_)
    | (with_reducible apply Keeps.step ?_ (modPart_keeps _ _ _) ?_)
    | (split)
    | (dsimp only)
    | (dsimp +zetaDelta only)

theorem dropPartSettings_keeps (p : Nat) (s : State) : Keeps [.regs] s (dropPartSettings p s) := by
  unfold dropPartSettings
  repeat' first
    | (with_reducible exact Keeps.refl _ _)
    | (with_reducible assumption)
    | (exact rfl)
    | (exact ‹_ + _ = 32›)
    | (intro)
    | (extract_lets)
    | (with_reducible apply Keeps.ite)
    | (with_reducible apply Keeps.foldl)
    | (with_reducible apply Keeps.foldlSnd)
    | (fail_if_no_progress ((with_reducible apply Keeps.setRegs) <;> [skip; (exact rfl)]))
    | (split)
    | (dsimp only)
    | (dsimp +zetaDelta only)

theorem dropBoot_keeps (p : Nat) (s : State) : Keeps [.settings] s (dropBoot p s) := by
  unfold dropBoot
  repeat' first
    | (with_reducible exact Keeps.refl _ _)
    | (with_reducible assumption)
    | (exact rfl)
    | (exact ‹_ + _ = 32›)
    | (intro)
    | (extract_lets)
    | (with_reducible apply Keeps.ite)
    | (with_reducible apply Keeps.foldl)
    | (with_reducible apply Keeps.foldlSnd)
    | (fail_if_no_progress ((with_reducible apply Keeps.setSettings) <;> [skip; (exact rfl)]))
    | (split)
    | (dsimp only)
    | (dsimp +zetaDelta only)

theorem createPart_keeps (fx fy w h domain role : Nat) (kept : Option Part) (s : State) : Keeps [.fld, .events, .parts, .crest, .fabric, .settings, .regs] s (createPart fx fy w h domain role kept s) := by
  unfold createPart
  repeat' first
    | (with_reducible exact Keeps.refl _ _)
    | (with_reducible assumption)
    | (exact rfl)
    | (exact ‹_ + _ = 32›)
    | (intro)
    | (extract_lets)
    | (with_reducible apply Keeps.ite)
    | (with_reducible apply Keeps.foldl)
    | (with_reducible apply Keeps.foldlSnd)
    | (fail_if_no_progress ((with_reducible apply Keeps.setParts) <;> [skip; (exact rfl)]))
    | (with_reducible apply Keeps.step ?_ (modFld_keeps _ _ _) ?_)
    | (with_reducible apply Keeps.step ?_ (clearCrest_keeps _ _) ?_)
    | (with_reducible apply Keeps.step ?_ (spanFields_keeps _ _ _) ?_)
    | (with_reducible apply Keeps.step ?_ (reserve_keeps _ _ _ _) ?_)
    | (with_reducible apply Keeps.step ?_ (applyRole_keeps _ _ _) ?_)
    | (with_reducible apply Keeps.step ?_ (dropBoot_keeps _ _) ?_)
    | (with_reducible apply Keeps.step ?_ (dropPartSettings_keeps _ _) ?_)
    | (with_reducible apply Keeps.step ?_ (noteChange_keeps _) ?_)
    | (with_reducible apply Keeps.step ?_ (raise_keeps _ _) ?_)
    | (split)
    | (dsimp only)
    | (dsimp +zetaDelta only)

theorem tryCreate_keeps (v : Nat) (s : State) : Keeps [.fld, .events, .parts, .crest, .fabric, .settings, .regs] s (tryCreate v s).2 := by
  unfold tryCreate
  repeat' first
    | (with_reducible exact Keeps.refl _ _)
    | (with_reducible assumption)
    | (exact rfl)
    | (exact ‹_ + _ = 32›)
    | (intro)
    | (extract_lets)
    | (with_reducible apply Keeps.ite)
    | (with_reducible apply Keeps.foldl)
    | (with_reducible apply Keeps.foldlSnd)
    | (with_reducible apply Keeps.step ?_ (createPart_keeps _ _ _ _ _ _ _ _) ?_)
    | (with_reducible apply Keeps.step ?_ (raise_keeps _ _) ?_)
    | (split)
    | (dsimp only)
    | (dsimp +zetaDelta only)

theorem tryCreate_eq {v : Nat} {s : State} {x} {t : State} (h : tryCreate v s = (x, t)) : Keeps [.fld, .events, .parts, .crest, .fabric, .settings, .regs] s t := by
  have := tryCreate_keeps v s
  rwa [h] at this

theorem startScrub_keeps (p : Nat) (s : State) : Keeps [.parts] s (startScrub p s) := by
  unfold startScrub
  repeat' first
    | (with_reducible exact Keeps.refl _ _)
    | (with_reducible assumption)
    | (exact rfl)
    | (exact ‹_ + _ = 32›)
    | (intro)
    | (extract_lets)
    | (with_reducible apply Keeps.ite)
    | (with_reducible apply Keeps.foldl)
    | (with_reducible apply Keeps.foldlSnd)
    | (with_reducible apply Keeps.step ?_ (modPart_keeps _ _ _) ?_)
    | (split)
    | (dsimp only)
    | (dsimp +zetaDelta only)

theorem deleteSpan_keeps (p : Nat) (s : State) : Keeps [.fld, .events, .crest, .fabric, .settings] s (deleteSpan p s) := by
  unfold deleteSpan
  repeat' first
    | (with_reducible exact Keeps.refl _ _)
    | (with_reducible assumption)
    | (exact rfl)
    | (exact ‹_ + _ = 32›)
    | (intro)
    | (extract_lets)
    | (with_reducible apply Keeps.ite)
    | (with_reducible apply Keeps.foldl)
    | (with_reducible apply Keeps.foldlSnd)
    | (fail_if_no_progress ((with_reducible apply Keeps.setCrest) <;> [skip; (exact rfl)]))
    | (with_reducible apply Keeps.step ?_ (spanFields_keeps _ _ _) ?_)
    | (with_reducible apply Keeps.step ?_ (clearCrest_keeps _ _) ?_)
    | (with_reducible apply Keeps.step ?_ (modFld_keeps _ _ _) ?_)
    | (with_reducible apply Keeps.step ?_ (noteChange_keeps _) ?_)
    | (with_reducible apply Keeps.step ?_ (raise_keeps _ _) ?_)
    | (split)
    | (dsimp only)
    | (dsimp +zetaDelta only)

theorem advanceReset_keeps (p : Nat) (s : State) : Keeps [.fld, .events, .parts, .crest, .fabric, .settings] s (advanceReset p s) := by
  unfold advanceReset
  repeat' first
    | (with_reducible exact Keeps.refl _ _)
    | (with_reducible assumption)
    | (exact rfl)
    | (exact ‹_ + _ = 32›)
    | (intro)
    | (extract_lets)
    | (with_reducible apply Keeps.ite)
    | (with_reducible apply Keeps.foldl)
    | (with_reducible apply Keeps.foldlSnd)
    | (with_reducible apply Keeps.step ?_ (deleteSpan_keeps _ _) ?_)
    | (with_reducible apply Keeps.step ?_ (startScrub_keeps _ _) ?_)
    | (split)
    | (dsimp only)
    | (dsimp +zetaDelta only)

theorem beginReset_keeps (p cause : Nat) (fields : List Nat) (deleting : Bool) (s : State) : Keeps [.fld, .power, .events, .parts, .tiles, .mesh, .crest, .fabric, .settings, .test, .regs] s (beginReset p cause fields deleting s) := by
  unfold beginReset
  repeat' first
    | (with_reducible exact Keeps.refl _ _)
    | (with_reducible assumption)
    | (exact rfl)
    | (exact ‹_ + _ = 32›)
    | (intro)
    | (extract_lets)
    | (with_reducible apply Keeps.ite)
    | (with_reducible apply Keeps.foldl)
    | (with_reducible apply Keeps.foldlSnd)
    | (with_reducible apply Keeps.step ?_ (modPart_keeps _ _ _) ?_)
    | (with_reducible apply Keeps.step ?_ (resetTest_keeps _ _) ?_)
    | (with_reducible apply Keeps.step ?_ (abortRun_keeps _ _ _) ?_)
    | (with_reducible apply Keeps.step ?_ (modTile_keeps _ _ _) ?_)
    | (with_reducible apply Keeps.step ?_ (tileReset_keeps _ _) ?_)
    | (with_reducible apply Keeps.step ?_ (dropWatches_keeps _ _) ?_)
    | (with_reducible apply Keeps.step ?_ (setReg_keeps _ _ _) ?_)
    | (with_reducible apply Keeps.step ?_ (withdraw_keeps _ _) ?_)
    | (with_reducible apply Keeps.step ?_ (advanceReset_keeps _ _) ?_)
    | (with_reducible apply Keeps.step ?_ (raise_keeps _ _) ?_)
    | (split)
    | (dsimp only)
    | (dsimp +zetaDelta only)

theorem abandonOps_keeps (p : Nat) (s : State) : Keeps [.parts, .fabric] s (abandonOps p s) := by
  unfold abandonOps
  extract_lets out wait t src
  have ht : Keeps [.parts, .fabric] s t := by
    unfold t
    refine Keeps.foldl (Keeps.refl _ _) (fun t a h => ?_)
    exact h.step (resolveOut_keeps _ _ _ _ _) rfl
  refine Keeps.step ?_ (modPart_keeps _ _ _) rfl
  exact Keeps.setFabric ht rfl (fun h => flowsOk_map (g := fun _ f => { f with waiting := f.waiting.filter (fun q => q.part != some p) }) h
    (fun _ _ => ⟨rfl, rfl⟩))

theorem resolvePkt_keeps (dst domain seq : Nat) (how : Resolved) (s : State) : Keeps [.fld, .power, .events, .parts, .mesh, .crest, .fabric, .settings] s (resolvePkt dst domain seq how s) := by
  unfold resolvePkt
  repeat' first
    | (with_reducible exact Keeps.refl _ _)
    | (with_reducible assumption)
    | (exact rfl)
    | (exact ‹_ + _ = 32›)
    | (intro)
    | (extract_lets)
    | (with_reducible apply Keeps.ite)
    | (with_reducible apply Keeps.foldl)
    | (with_reducible apply Keeps.foldlSnd)
    | (with_reducible apply Keeps.step ?_ (resolveOut_keeps _ _ _ _ _) ?_)
    | (with_reducible apply Keeps.step ?_ (memLost_keeps _ _ _) ?_)
    | (with_reducible apply Keeps.step ?_ (advanceReset_keeps _ _) ?_)
    | (with_reducible apply Keeps.step ?_ (modPart_keeps _ _ _) ?_)
    | (split)
    | (dsimp only)
    | (dsimp +zetaDelta only)

theorem freePart_keeps (p : Nat) (s : State) : Keeps [.fld, .power, .parts, .regs] s (freePart p s) := by
  unfold freePart
  repeat' first
    | (with_reducible exact Keeps.refl _ _)
    | (with_reducible assumption)
    | (exact rfl)
    | (exact ‹_ + _ = 32›)
    | (intro)
    | (extract_lets)
    | (with_reducible apply Keeps.ite)
    | (with_reducible apply Keeps.foldl)
    | (with_reducible apply Keeps.foldlSnd)
    | (fail_if_no_progress ((with_reducible apply Keeps.setPowerParts) <;> [skip; (exact rfl); (exact rfl)]))
    | (with_reducible apply Keeps.step ?_ (modFld_keeps _ _ _) ?_)
    | (with_reducible apply Keeps.step ?_ (dropPartSettings_keeps _ _) ?_)
    | (split)
    | (dsimp only)
    | (dsimp +zetaDelta only)

theorem dropHeld_keeps (domain : Nat) (s : State) : Keeps [.fabric] s (dropHeld domain s) := by
  unfold dropHeld
  repeat' first
    | (with_reducible exact Keeps.refl _ _)
    | (with_reducible assumption)
    | (exact rfl)
    | (exact ‹_ + _ = 32›)
    | (intro)
    | (extract_lets)
    | (with_reducible apply Keeps.ite)
    | (with_reducible apply Keeps.foldl)
    | (with_reducible apply Keeps.foldlSnd)
    | (fail_if_no_progress ((with_reducible apply Keeps.setFabric) <;> [skip; (exact rfl); (first | exact fun h => h | exact fun _ => rfl | exact flowsOk_nil)]))
    | (split)
    | (dsimp only)
    | (dsimp +zetaDelta only)

theorem scrubDone_keeps (p : Nat) (failed : List Nat) (s : State) : Keeps [.fld, .power, .events, .parts, .tiles, .mem, .ecc, .mesh, .crest, .fabric, .settings, .pilot, .regs] s (scrubDone p failed s) := by
  unfold scrubDone
  repeat' first
    | (with_reducible exact Keeps.refl _ _)
    | (with_reducible assumption)
    | (exact rfl)
    | (exact ‹_ + _ = 32›)
    | (intro)
    | (extract_lets)
    | (with_reducible apply Keeps.ite)
    | (with_reducible apply Keeps.foldl)
    | (with_reducible apply Keeps.foldlSnd)
    | (fail_if_no_progress ((with_reducible apply Keeps.setMesh) <;> [skip; (exact rfl)]))
    | (with_reducible apply Keeps.step ?_ (dropHeld_keeps _ _) ?_)
    | (with_reducible apply Keeps.step ?_ (clearSites_keeps _ _) ?_)
    | (with_reducible apply Keeps.step ?_ (clearCrest_keeps _ _) ?_)
    | (with_reducible apply Keeps.step ?_ (dropWatches_keeps _ _) ?_)
    | (with_reducible apply Keeps.step ?_ (retireNow_keeps _ _) ?_)
    | (with_reducible apply Keeps.step ?_ (raise_keeps _ _) ?_)
    | (with_reducible apply Keeps.step ?_ (freePart_keeps _ _) ?_)
    | (with_reducible apply Keeps.step ?_ (deleteSpan_keeps _ _) ?_)
    | (with_reducible apply Keeps.step ?_ (writeLoss_keeps _ _ _ _ _ _ _) ?_)
    | (with_reducible apply Keeps.step ?_ (modPart_keeps _ _ _) ?_)
    | (with_reducible apply Keeps.step ?_ (reserve_keeps _ _ _ _) ?_)
    | (split)
    | (dsimp only)
    | (dsimp +zetaDelta only)

theorem deletePart_keeps (p : Nat) (s : State) : Keeps [.fld, .power, .events, .parts, .tiles, .mesh, .crest, .fabric, .settings, .test, .regs] s (deletePart p s) := by
  unfold deletePart
  repeat' first
    | (with_reducible exact Keeps.refl _ _)
    | (with_reducible assumption)
    | (exact rfl)
    | (exact ‹_ + _ = 32›)
    | (intro)
    | (extract_lets)
    | (with_reducible apply Keeps.ite)
    | (with_reducible apply Keeps.foldl)
    | (with_reducible apply Keeps.foldlSnd)
    | (with_reducible apply Keeps.step ?_ (deleteSpan_keeps _ _) ?_)
    | (with_reducible apply Keeps.step ?_ (modPart_keeps _ _ _) ?_)
    | (with_reducible apply Keeps.step ?_ (noteChange_keeps _) ?_)
    | (with_reducible apply Keeps.step ?_ (beginReset_keeps _ _ _ _ _) ?_)
    | (with_reducible apply Keeps.step ?_ (closeJob_keeps _ _) ?_)
    | (with_reducible apply Keeps.step ?_ (startScrub_keeps _ _) ?_)
    | (split)
    | (dsimp only)
    | (dsimp +zetaDelta only)

theorem fieldOff_keeps (f : Nat) (s : State) : Keeps [.clk, .fld, .tiles, .mem, .ecc, .crest] s (fieldOff f s) := by
  unfold fieldOff
  repeat' first
    | (with_reducible exact Keeps.refl _ _)
    | (with_reducible assumption)
    | (exact rfl)
    | (exact ‹_ + _ = 32›)
    | (intro)
    | (extract_lets)
    | (with_reducible apply Keeps.ite)
    | (with_reducible apply Keeps.foldl)
    | (with_reducible apply Keeps.foldlSnd)
    | (with_reducible apply Keeps.step ?_ (modFld_keeps _ _ _) ?_)
    | (with_reducible apply Keeps.step ?_ (clearField_keeps _ _) ?_)
    | (with_reducible apply Keeps.step ?_ (modClk_keeps _ _ _) ?_)
    | (split)
    | (dsimp only)
    | (dsimp +zetaDelta only)

theorem regulate_keeps (f : Nat) (locked : Bool) (s : State) : Keeps [.fld] s (regulate f locked s) := by
  unfold regulate
  repeat' first
    | (with_reducible exact Keeps.refl _ _)
    | (with_reducible assumption)
    | (exact rfl)
    | (exact ‹_ + _ = 32›)
    | (intro)
    | (extract_lets)
    | (with_reducible apply Keeps.ite)
    | (with_reducible apply Keeps.foldl)
    | (with_reducible apply Keeps.foldlSnd)
    | (with_reducible apply Keeps.step ?_ (modFld_keeps _ _ _) ?_)
    | (split)
    | (dsimp only)
    | (dsimp +zetaDelta only)

theorem fieldOn_keeps (f : Nat) (s : State) : Keeps [.fld] s (fieldOn f s) := by
  unfold fieldOn
  repeat' first
    | (with_reducible exact Keeps.refl _ _)
    | (with_reducible assumption)
    | (exact rfl)
    | (exact ‹_ + _ = 32›)
    | (intro)
    | (extract_lets)
    | (with_reducible apply Keeps.ite)
    | (with_reducible apply Keeps.foldl)
    | (with_reducible apply Keeps.foldlSnd)
    | (with_reducible apply Keeps.step ?_ (regulate_keeps _ _ _) ?_)
    | (with_reducible apply Keeps.step ?_ (modFld_keeps _ _ _) ?_)
    | (split)
    | (dsimp only)
    | (dsimp +zetaDelta only)

theorem fieldReset_keeps (f : Nat) (s : State) : Keeps [.clk, .fld, .power, .events, .parts, .tiles, .mem, .ecc, .mesh, .crest, .fabric, .settings, .test, .regs] s (fieldReset f s) := by
  unfold fieldReset
  repeat' first
    | (with_reducible exact Keeps.refl _ _)
    | (with_reducible assumption)
    | (exact rfl)
    | (exact ‹_ + _ = 32›)
    | (intro)
    | (extract_lets)
    | (with_reducible apply Keeps.ite)
    | (with_reducible apply Keeps.foldl)
    | (with_reducible apply Keeps.foldlSnd)
    | (with_reducible apply Keeps.step ?_ (resetTest_keeps _ _) ?_)
    | (with_reducible apply Keeps.step ?_ (beginReset_keeps _ _ _ _ _) ?_)
    | (with_reducible apply Keeps.step ?_ (withdraw_keeps _ _) ?_)
    | (with_reducible apply Keeps.step ?_ (fieldOff_keeps _ _) ?_)
    | (with_reducible apply Keeps.step ?_ (modFld_keeps _ _ _) ?_)
    | (with_reducible apply Keeps.step ?_ (fieldOn_keeps _ _) ?_)
    | (with_reducible apply Keeps.step ?_ (raise_keeps _ _) ?_)
    | (split)
    | (dsimp only)
    | (dsimp +zetaDelta only)

theorem supplyFault_keeps (f : Nat) (s : State) : Keeps [.clk, .fld, .power, .events, .parts, .tiles, .mem, .ecc, .mesh, .crest, .fabric, .settings, .test, .regs] s (supplyFault f s) := by
  unfold supplyFault
  repeat' first
    | (with_reducible exact Keeps.refl _ _)
    | (with_reducible assumption)
    | (exact rfl)
    | (exact ‹_ + _ = 32›)
    | (intro)
    | (extract_lets)
    | (with_reducible apply Keeps.ite)
    | (with_reducible apply Keeps.foldl)
    | (with_reducible apply Keeps.foldlSnd)
    | (with_reducible apply Keeps.step ?_ (modFld_keeps _ _ _) ?_)
    | (with_reducible apply Keeps.step ?_ (fieldOff_keeps _ _) ?_)
    | (with_reducible apply Keeps.step ?_ (beginReset_keeps _ _ _ _ _) ?_)
    | (with_reducible apply Keeps.step ?_ (advanceReset_keeps _ _) ?_)
    | (with_reducible apply Keeps.step ?_ (modPart_keeps _ _ _) ?_)
    | (with_reducible apply Keeps.step ?_ (resetTest_keeps _ _) ?_)
    | (with_reducible apply Keeps.step ?_ (raise_keeps _ _) ?_)
    | (split)
    | (dsimp only)
    | (dsimp +zetaDelta only)

theorem fieldBack_keeps (f : Nat) (s : State) : Keeps [.fld, .events, .parts, .crest, .fabric, .settings] s (fieldBack f s) := by
  unfold fieldBack
  repeat' first
    | (with_reducible exact Keeps.refl _ _)
    | (with_reducible assumption)
    | (exact rfl)
    | (exact ‹_ + _ = 32›)
    | (intro)
    | (extract_lets)
    | (with_reducible apply Keeps.ite)
    | (with_reducible apply Keeps.foldl)
    | (with_reducible apply Keeps.foldlSnd)
    | (with_reducible apply Keeps.step ?_ (modFld_keeps _ _ _) ?_)
    | (with_reducible apply Keeps.step ?_ (advanceReset_keeps _ _) ?_)
    | (with_reducible apply Keeps.step ?_ (modPart_keeps _ _ _) ?_)
    | (split)
    | (dsimp only)
    | (dsimp +zetaDelta only)

theorem newNonce_keeps (s : State) : Keeps [.sec] s (newNonce s) := by
  unfold newNonce
  repeat' first
    | (with_reducible exact Keeps.refl _ _)
    | (with_reducible assumption)
    | (exact rfl)
    | (exact ‹_ + _ = 32›)
    | (intro)
    | (extract_lets)
    | (with_reducible apply Keeps.ite)
    | (with_reducible apply Keeps.foldl)
    | (with_reducible apply Keeps.foldlSnd)
    | (fail_if_no_progress ((with_reducible apply Keeps.setSec) <;> [skip; (exact rfl)]))
    | (split)
    | (dsimp only)
    | (dsimp +zetaDelta only)

theorem endSession_keeps (s : State) : Keeps [.events, .sec] s (endSession s) := by
  unfold endSession
  repeat' first
    | (with_reducible exact Keeps.refl _ _)
    | (with_reducible assumption)
    | (exact rfl)
    | (exact ‹_ + _ = 32›)
    | (intro)
    | (extract_lets)
    | (with_reducible apply Keeps.ite)
    | (with_reducible apply Keeps.foldl)
    | (with_reducible apply Keeps.foldlSnd)
    | (fail_if_no_progress ((with_reducible apply Keeps.setSec) <;> [skip; (exact rfl)]))
    | (with_reducible apply Keeps.step ?_ (raise_keeps _ _) ?_)
    | (split)
    | (dsimp only)
    | (dsimp +zetaDelta only)

theorem restartLease_keeps (s : State) : Keeps [.lease] s (restartLease s) := by
  unfold restartLease
  repeat' first
    | (with_reducible exact Keeps.refl _ _)
    | (with_reducible assumption)
    | (exact rfl)
    | (exact ‹_ + _ = 32›)
    | (intro)
    | (extract_lets)
    | (with_reducible apply Keeps.ite)
    | (with_reducible apply Keeps.foldl)
    | (with_reducible apply Keeps.foldlSnd)
    | (fail_if_no_progress ((with_reducible apply Keeps.setLease) <;> [skip; (exact rfl)]))
    | (split)
    | (dsimp only)
    | (dsimp +zetaDelta only)

theorem abortSegmented_keeps (s : State) : Keeps [.pilot] s (abortSegmented s) := by
  unfold abortSegmented
  repeat' first
    | (with_reducible exact Keeps.refl _ _)
    | (with_reducible assumption)
    | (exact rfl)
    | (exact ‹_ + _ = 32›)
    | (intro)
    | (extract_lets)
    | (with_reducible apply Keeps.ite)
    | (with_reducible apply Keeps.foldl)
    | (with_reducible apply Keeps.foldlSnd)
    | (fail_if_no_progress ((with_reducible apply Keeps.setPilot) <;> [skip; (exact rfl)]))
    | (split)
    | (dsimp only)
    | (dsimp +zetaDelta only)

theorem changeOwner_keeps (c : Ctl) (s : State) : Keeps [.ledger, .lease, .events, .sec, .parts, .fabric, .pilot] s (changeOwner c s) := by
  unfold changeOwner
  repeat' first
    | (with_reducible exact Keeps.refl _ _)
    | (with_reducible assumption)
    | (exact rfl)
    | (exact ‹_ + _ = 32›)
    | (intro)
    | (extract_lets)
    | (with_reducible apply Keeps.ite)
    | (with_reducible apply Keeps.foldl)
    | (with_reducible apply Keeps.foldlSnd)
    | (fail_if_no_progress ((with_reducible apply Keeps.setLease) <;> [skip; (exact rfl)]))
    | (fail_if_no_progress ((with_reducible apply Keeps.setLedgerEvents) <;> [skip; (exact rfl); (exact rfl); (first | exact fun h => h | exact fun _ => rfl | exact flowsOk_nil); (first | exact fun h => h | exact fun _ => rfl | exact flowsOk_nil)]))
    | (with_reducible apply Keeps.step ?_ (loaderRefuse_keeps _ _ _ _ _ _ _ _ _ _) ?_)
    | (with_reducible apply Keeps.step ?_ (modPart_keeps _ _ _) ?_)
    | (with_reducible apply Keeps.step ?_ (endSession_keeps _) ?_)
    | (with_reducible apply Keeps.step ?_ (abortSegmented_keeps _) ?_)
    | (with_reducible apply Keeps.step ?_ (restartLease_keeps _) ?_)
    | (with_reducible apply Keeps.step ?_ (newNonce_keeps _) ?_)
    | (split)
    | (dsimp only)
    | (dsimp +zetaDelta only)

theorem portStop_keeps (i : Nat) (s : State) : Keeps [.fabric] s (portStop i s) := by
  unfold portStop
  repeat' first
    | (with_reducible exact Keeps.refl _ _)
    | (with_reducible assumption)
    | (exact rfl)
    | (exact ‹_ + _ = 32›)
    | (intro)
    | (extract_lets)
    | (with_reducible apply Keeps.ite)
    | (with_reducible apply Keeps.foldl)
    | (with_reducible apply Keeps.foldlSnd)
    | (with_reducible apply Keeps.step ?_ (modPort_keeps _ _ _) ?_)
    | (split)
    | (dsimp only)
    | (dsimp +zetaDelta only)

theorem ringCleared_keeps (s : State) : Keeps [.fabric] s (ringCleared s) := by
  unfold ringCleared
  refine Keeps.setFabric (Keeps.foldl (Keeps.refl _ _) (fun t a h => ?_)) rfl flowsOk_nil
  exact Keeps.ite (h.step (portStop_keeps _ _) rfl) h

theorem slotsEmptied_keeps (s : State) : Keeps [.events, .sec] s (slotsEmptied s) := by
  unfold slotsEmptied
  repeat' first
    | (with_reducible exact Keeps.refl _ _)
    | (with_reducible assumption)
    | (exact rfl)
    | (exact ‹_ + _ = 32›)
    | (intro)
    | (extract_lets)
    | (with_reducible apply Keeps.ite)
    | (with_reducible apply Keeps.foldl)
    | (with_reducible apply Keeps.foldlSnd)
    | (fail_if_no_progress ((with_reducible apply Keeps.setSec) <;> [skip; (exact rfl)]))
    | (with_reducible apply Keeps.step ?_ (raise_keeps _ _) ?_)
    | (split)
    | (dsimp only)
    | (dsimp +zetaDelta only)

theorem allOff_keeps (reset : Bool) (s : State) : Keeps [.clk, .fld, .power, .tiles, .mem, .ecc, .mesh, .crest] s (allOff reset s) := by
  unfold allOff
  repeat' first
    | (with_reducible exact Keeps.refl _ _)
    | (with_reducible assumption)
    | (exact rfl)
    | (exact ‹_ + _ = 32›)
    | (intro)
    | (extract_lets)
    | (with_reducible apply Keeps.ite)
    | (with_reducible apply Keeps.foldl)
    | (with_reducible apply Keeps.foldlSnd)
    | (fail_if_no_progress ((with_reducible apply Keeps.setPowerTilesMemEccMeshCrest) <;> [skip; (exact rfl); (exact rfl); (exact rfl); (exact rfl); (exact rfl); (exact rfl); (first | exact fun h => h | exact fun _ => rfl | exact flowsOk_nil)]))
    | (with_reducible apply Keeps.step ?_ (modClk_keeps _ _ _) ?_)
    | (with_reducible apply Keeps.step ?_ (modFld_keeps _ _ _) ?_)
    | (split)
    | (dsimp only)
    | (dsimp +zetaDelta only)

theorem waferStep3_keeps (s : State) : Keeps [.clk, .fld, .power, .events, .sec, .tiles, .mem, .ecc, .mesh, .crest, .fabric, .pilot] s (waferStep3 s) := by
  unfold waferStep3
  repeat' first
    | (with_reducible exact Keeps.refl _ _)
    | (with_reducible assumption)
    | (exact rfl)
    | (exact ‹_ + _ = 32›)
    | (intro)
    | (extract_lets)
    | (with_reducible apply Keeps.ite)
    | (with_reducible apply Keeps.foldl)
    | (with_reducible apply Keeps.foldlSnd)
    | (fail_if_no_progress ((with_reducible apply Keeps.setPilot) <;> [skip; (exact rfl)]))
    | (with_reducible apply Keeps.step ?_ (slotsEmptied_keeps _) ?_)
    | (with_reducible apply Keeps.step ?_ (allOff_keeps _ _) ?_)
    | (with_reducible apply Keeps.step ?_ (ringCleared_keeps _) ?_)
    | (split)
    | (dsimp only)
    | (dsimp +zetaDelta only)

theorem waferReset_keeps (cause : Nat) (s : State) : Keeps [.clk, .fld, .power, .ledger, .events, .sec, .parts, .tiles, .mem, .ecc, .mesh, .crest, .fabric, .pilot, .test] s (waferReset cause s) := by
  unfold waferReset
  repeat' first
    | (with_reducible exact Keeps.refl _ _)
    | (with_reducible assumption)
    | (exact rfl)
    | (exact ‹_ + _ = 32›)
    | (intro)
    | (extract_lets)
    | (with_reducible apply Keeps.ite)
    | (with_reducible apply Keeps.foldl)
    | (with_reducible apply Keeps.foldlSnd)
    | (fail_if_no_progress ((with_reducible apply Keeps.setLedgerFabric) <;> [skip; (exact rfl); (exact rfl); (first | exact fun h => h | exact fun _ => rfl | exact flowsOk_nil)]))
    | (fail_if_no_progress ((with_reducible apply Keeps.setPilot) <;> [skip; (exact rfl)]))
    | (with_reducible apply Keeps.step ?_ (waferStep3_keeps _) ?_)
    | (with_reducible apply Keeps.step ?_ (endTest_keeps _ _) ?_)
    | (with_reducible apply Keeps.step ?_ (abortRun_keeps _ _ _) ?_)
    | (with_reducible apply Keeps.step ?_ (closeJob_keeps _ _) ?_)
    | (with_reducible apply Keeps.step ?_ (modPart_keeps _ _ _) ?_)
    | (with_reducible apply Keeps.step ?_ (withdraw_keeps _ _) ?_)
    | (with_reducible apply Keeps.step ?_ (raise_keeps _ _) ?_)
    | (split)
    | (dsimp only)
    | (dsimp +zetaDelta only)

theorem enterStep_keeps (n : Nat) (s : State) : Keeps [.pilot] s (enterStep n s) := by
  unfold enterStep
  repeat' first
    | (with_reducible exact Keeps.refl _ _)
    | (with_reducible assumption)
    | (exact rfl)
    | (exact ‹_ + _ = 32›)
    | (intro)
    | (extract_lets)
    | (with_reducible apply Keeps.ite)
    | (with_reducible apply Keeps.foldl)
    | (with_reducible apply Keeps.foldlSnd)
    | (fail_if_no_progress ((with_reducible apply Keeps.setPilot) <;> [skip; (exact rfl)]))
    | (split)
    | (dsimp only)
    | (dsimp +zetaDelta only)

theorem stepFive_keeps (s : State) : Keeps [.time, .events, .sec, .parts, .crest, .settings, .pilot, .regs] s (stepFive s) := by
  unfold stepFive
  repeat' first
    | (with_reducible exact Keeps.refl _ _)
    | (with_reducible assumption)
    | (exact rfl)
    | (exact ‹_ + _ = 32›)
    | (intro)
    | (extract_lets)
    | (with_reducible apply Keeps.ite)
    | (with_reducible apply Keeps.foldl)
    | (with_reducible apply Keeps.foldlSnd)
    | (fail_if_no_progress ((with_reducible apply Keeps.setPilot) <;> [skip; (exact rfl)]))
    | (with_reducible apply Keeps.step ?_ (pinsRestore_keeps _) ?_)
    | (with_reducible apply Keeps.step ?_ (restoreSettings_keeps _) ?_)
    | (with_reducible apply Keeps.step ?_ (raise_keeps _ _) ?_)
    | (split)
    | (dsimp only)
    | (dsimp +zetaDelta only)

theorem startConverters_keeps (s : State) : Keeps [.power] s (startConverters s) := by
  unfold startConverters
  repeat' first
    | (with_reducible exact Keeps.refl _ _)
    | (with_reducible assumption)
    | (exact rfl)
    | (exact ‹_ + _ = 32›)
    | (intro)
    | (extract_lets)
    | (with_reducible apply Keeps.ite)
    | (with_reducible apply Keeps.foldl)
    | (with_reducible apply Keeps.foldlSnd)
    | (fail_if_no_progress ((with_reducible apply Keeps.setPower) <;> [skip; (exact rfl)]))
    | (split)
    | (dsimp only)
    | (dsimp +zetaDelta only)

theorem restoreParts_keeps (subs : List Nat) (s : State) : Keeps [.fld, .events, .parts, .crest, .fabric, .settings, .regs] s (restoreParts subs s) := by
  unfold restoreParts
  repeat' first
    | (with_reducible exact Keeps.refl _ _)
    | (with_reducible assumption)
    | (exact rfl)
    | (exact ‹_ + _ = 32›)
    | (intro)
    | (extract_lets)
    | (with_reducible apply Keeps.ite)
    | (with_reducible apply Keeps.foldl)
    | (with_reducible apply Keeps.foldlSnd)
    | (fail_if_no_progress ((with_reducible apply Keeps.setSettings) <;> [skip; (exact rfl)]))
    | (with_reducible apply Keeps.step ?_ (createPart_keeps _ _ _ _ _ _ _ _) ?_)
    | (with_reducible apply Keeps.step ?_ (putNum_keeps _ _ _ _) ?_)
    | (with_reducible apply Keeps.step ?_ (modPart_keeps _ _ _) ?_)
    | (with_reducible apply Keeps.step ?_ (raise_keeps _ _) ?_)
    | (split)
    | (dsimp only)
    | (dsimp +zetaDelta only)

theorem recreateParts_keeps (s : State) : Keeps [.fld, .events, .parts, .crest, .fabric, .settings, .regs] s (recreateParts s) := by
  unfold recreateParts
  repeat' first
    | (with_reducible exact Keeps.refl _ _)
    | (with_reducible assumption)
    | (exact rfl)
    | (exact ‹_ + _ = 32›)
    | (intro)
    | (extract_lets)
    | (with_reducible apply Keeps.ite)
    | (with_reducible apply Keeps.foldl)
    | (with_reducible apply Keeps.foldlSnd)
    | (fail_if_no_progress ((with_reducible apply Keeps.setCrest) <;> [skip; (exact rfl)]))
    | (fail_if_no_progress ((with_reducible apply Keeps.setParts) <;> [skip; (exact rfl)]))
    | (fail_if_no_progress ((with_reducible apply Keeps.setSettings) <;> [skip; (exact rfl)]))
    | (with_reducible apply Keeps.step ?_ (modFld_keeps _ _ _) ?_)
    | (with_reducible apply Keeps.step ?_ (dropPartSettings_keeps _ _) ?_)
    | (with_reducible apply Keeps.step ?_ (createPart_keeps _ _ _ _ _ _ _ _) ?_)
    | (with_reducible apply Keeps.step ?_ (raise_keeps _ _) ?_)
    | (split)
    | (dsimp only)
    | (dsimp +zetaDelta only)

theorem waferDone_keeps (s : State) : Keeps [.events, .pilot] s (waferDone s) := by
  unfold waferDone
  repeat' first
    | (with_reducible exact Keeps.refl _ _)
    | (with_reducible assumption)
    | (exact rfl)
    | (exact ‹_ + _ = 32›)
    | (intro)
    | (extract_lets)
    | (with_reducible apply Keeps.ite)
    | (with_reducible apply Keeps.foldl)
    | (with_reducible apply Keeps.foldlSnd)
    | (fail_if_no_progress ((with_reducible apply Keeps.setPilot) <;> [skip; (exact rfl)]))
    | (with_reducible apply Keeps.step ?_ (writeLoss_keeps _ _ _ _ _ _ _) ?_)
    | (with_reducible apply Keeps.step ?_ (raise_keeps _ _) ?_)
    | (split)
    | (dsimp only)
    | (dsimp +zetaDelta only)

theorem routesReady_keeps (s : State) : Keeps [.events, .tiles, .mem, .ecc, .mesh, .fabric, .settings] s (routesReady s) := by
  unfold routesReady
  extract_lets s1 s2
  have h1 : Keeps [.events, .tiles, .mem, .ecc, .mesh, .fabric, .settings] s s1 := (applySites_keeps _).mono rfl
  have h2 : Keeps [.events, .tiles, .mem, .ecc, .mesh, .fabric, .settings] s ((absentSites s1).foldl (fun s k => settleRoutes 81 k s) s1) :=
    Keeps.foldl h1 (fun _ _ h => h.step (settleRoutes_keeps _ _ _) rfl)
  exact Keeps.setMemEccMesh (h2.step (writeDetours_keeps _) rfl) rfl rfl rfl (fun _ => rfl)

theorem partsBack_keeps (s : State) : Keeps [.fld, .events, .parts, .crest, .fabric, .settings, .pilot, .regs] s (partsBack s) := by
  unfold partsBack
  repeat' first
    | (with_reducible exact Keeps.refl _ _)
    | (with_reducible assumption)
    | (exact rfl)
    | (exact ‹_ + _ = 32›)
    | (intro)
    | (extract_lets)
    | (with_reducible apply Keeps.ite)
    | (with_reducible apply Keeps.foldl)
    | (with_reducible apply Keeps.foldlSnd)
    | (with_reducible apply Keeps.step ?_ (recreateParts_keeps _) ?_)
    | (with_reducible apply Keeps.step ?_ (waferDone_keeps _) ?_)
    | (with_reducible apply Keeps.step ?_ (restoreParts_keeps _ _) ?_)
    | (split)
    | (dsimp only)
    | (dsimp +zetaDelta only)

theorem upDone_keeps (s : State) : Keeps [.events, .pilot] s (upDone s) := by
  unfold upDone
  repeat' first
    | (with_reducible exact Keeps.refl _ _)
    | (with_reducible assumption)
    | (exact rfl)
    | (exact ‹_ + _ = 32›)
    | (intro)
    | (extract_lets)
    | (with_reducible apply Keeps.ite)
    | (with_reducible apply Keeps.foldl)
    | (with_reducible apply Keeps.foldlSnd)
    | (fail_if_no_progress ((with_reducible apply Keeps.setPilot) <;> [skip; (exact rfl)]))
    | (with_reducible apply Keeps.step ?_ (enterStep_keeps _ _) ?_)
    | (with_reducible apply Keeps.step ?_ (raise_keeps _ _) ?_)
    | (split)
    | (dsimp only)
    | (dsimp +zetaDelta only)

theorem busUp_eq {s t : State} (h : busUp s = some t) : Keeps [.pilot] s t := by
  unfold busUp at h
  exact keeps_ite h ((enterStep_keeps _ _).mono rfl)

theorem upStep_eq {s t : State} (h : upStep s = some t) : Keeps [.time, .fld, .power, .events, .sec, .parts, .tiles, .mem, .ecc, .mesh, .crest, .fabric, .settings, .pilot, .regs] s t := by
  have he : ∀ k, Keeps [.time, .fld, .power, .events, .sec, .parts, .tiles, .mem, .ecc, .mesh, .crest, .fabric, .settings, .pilot, .regs] s (enterStep k s) := fun k => (enterStep_keeps _ _).mono rfl
  have h5 : Keeps [.time, .fld, .power, .events, .sec, .parts, .tiles, .mem, .ecc, .mesh, .crest, .fabric, .settings, .pilot, .regs] s (enterStep 6 (stepFive s)) := ((stepFive_keeps _).mono rfl).step (enterStep_keeps _ _) rfl
  have h6 : busUp (startConverters s) = some t → Keeps [.time, .fld, .power, .events, .sec, .parts, .tiles, .mem, .ecc, .mesh, .crest, .fabric, .settings, .pilot, .regs] s t :=
    fun h => ((startConverters_keeps _).mono rfl).step (busUp_eq h) rfl
  have h9 : Keeps [.time, .fld, .power, .events, .sec, .parts, .tiles, .mem, .ecc, .mesh, .crest, .fabric, .settings, .pilot, .regs] s (enterStep 10 (routesReady s)) := ((routesReady_keeps _).mono rfl).step (enterStep_keeps _ _) rfl
  have h10 : Keeps [.time, .fld, .power, .events, .sec, .parts, .tiles, .mem, .ecc, .mesh, .crest, .fabric, .settings, .pilot, .regs] s (enterStep 11 (partsBack s)) := ((partsBack_keeps _).mono rfl).step (enterStep_keeps _ _) rfl
  have h11 : Keeps [.time, .fld, .power, .events, .sec, .parts, .tiles, .mem, .ecc, .mesh, .crest, .fabric, .settings, .pilot, .regs] s (upDone s) := (upDone_keeps _).mono rfl
  unfold upStep at h
  split at h
  · exact keeps_ite h (he _)
  · exact keeps_some h (he _)
  · split at h
    · cases h
    · split at h
      · exact keeps_some h (he _)
      · exact keeps_some h (he _)
  · exact keeps_ite h (he _)
  · split at h
    · split at h
      · cases h
      · exact keeps_some h (he _)
    · exact keeps_some h h5
  · split at h
    · exact h6 h
    · cases h
  · exact keeps_ite h (he _)
  · exact keeps_some h h9
  · exact keeps_some h h10
  · exact keeps_ite h h11
  · cases h

theorem upLoop_keeps (n : Nat) (s : State) : Keeps [.time, .fld, .power, .events, .sec, .parts, .tiles, .mem, .ecc, .mesh, .crest, .fabric, .settings, .pilot, .regs] s (upLoop n s) := by
  induction n generalizing s with
  | zero => exact Keeps.refl _ _
  | succ n ih =>
    unfold upLoop
    repeat' first
      | (with_reducible exact Keeps.refl _ _)
      | (with_reducible assumption)
      | (exact rfl)
      | (exact ‹_ + _ = 32›)
      | (intro)
      | (extract_lets)
      | (with_reducible apply Keeps.ite)
      | (with_reducible apply Keeps.foldl)
      | (with_reducible apply Keeps.foldlSnd)
      | (with_reducible apply Keeps.step ?_ (upStep_eq ‹_›) ?_)
      | (with_reducible apply Keeps.step ?_ (startConverters_keeps _) ?_)
      | (with_reducible apply Keeps.trans ?_ (ih _))
      | (split)
      | (dsimp only)
      | (dsimp +zetaDelta only)

theorem advanceUp_keeps (s : State) : Keeps [.time, .fld, .power, .events, .sec, .parts, .tiles, .mem, .ecc, .mesh, .crest, .fabric, .settings, .pilot, .regs] s (advanceUp s) := by
  unfold advanceUp
  repeat' first
    | (with_reducible exact Keeps.refl _ _)
    | (with_reducible assumption)
    | (exact rfl)
    | (exact ‹_ + _ = 32›)
    | (intro)
    | (extract_lets)
    | (with_reducible apply Keeps.ite)
    | (with_reducible apply Keeps.foldl)
    | (with_reducible apply Keeps.foldlSnd)
    | (with_reducible apply Keeps.step ?_ (upLoop_keeps _ _) ?_)
    | (split)
    | (dsimp only)
    | (dsimp +zetaDelta only)

theorem retryFields_keeps (s : State) : Keeps [.fld] s (retryFields s) := by
  unfold retryFields
  repeat' first
    | (with_reducible exact Keeps.refl _ _)
    | (with_reducible assumption)
    | (exact rfl)
    | (exact ‹_ + _ = 32›)
    | (intro)
    | (extract_lets)
    | (with_reducible apply Keeps.ite)
    | (with_reducible apply Keeps.foldl)
    | (with_reducible apply Keeps.foldlSnd)
    | (with_reducible apply Keeps.step ?_ (fieldOn_keeps _ _) ?_)
    | (split)
    | (dsimp only)
    | (dsimp +zetaDelta only)

theorem moduleReset_keeps (detail : Nat) (s : State) : Keeps [.time, .clk, .fld, .power, .ledger, .cope, .drag, .lease, .events, .sec, .parts, .tiles, .mem, .ecc, .mesh, .crest, .fabric, .settings, .pilot, .test, .regs, .freeCount] s (moduleReset detail s) := by
  refine ⟨fun r hr => ?_, fun h => ⟨rfl, ?_, ?_, flowsOk_nil trivial, h.5⟩⟩
  · cases r <;> first | rfl | exact absurd hr (by decide)
  · exact Nat.zero_le _
  · exact Nat.zero_le _

end Sys2Proof.Machine
end

