-- ==== Sys2Proof/Laws/Keeps/Clocks.lean ====
section
/-! SUPPORT. What the operations of Machine/Clocks.lean may write, and that they keep the invariant. -/

namespace Sys2Proof.Machine

open Sys2Proof

set_option linter.unusedTactic false
set_option linter.unreachableTactic false

theorem msTicks_keeps (n : Nat) (s : State) : Keeps [.time, .ledger, .parts, .pilot] s (msTicks n s) := by
  unfold msTicks
  repeat' first
    | (with_reducible exact Keeps.refl _ _)
    | (with_reducible assumption)
    | (exact rfl)
    | (exact ‹_ + _ = 32›)
    | (intro)
    | (extract_lets)
    | (with_reducible apply Keeps.ite)
    | (with_reducible apply Keeps.foldl)
    | (with_reducible apply Keeps.foldlSnd)
    | (fail_if_no_progress ((with_reducible apply Keeps.setTimeLedgerParts) <;> [skip; (exact rfl); (exact rfl); (exact rfl)]))
    | (with_reducible apply Keeps.step ?_ (syncPulse_keeps _ _) ?_)
    | (split)
    | (dsimp only)
    | (dsimp +zetaDelta only)

theorem toNextTick_keeps (s : State) : Keeps [.time, .pilot] s (toNextTick s) := by
  unfold toNextTick
  repeat' first
    | (with_reducible exact Keeps.refl _ _)
    | (with_reducible assumption)
    | (exact rfl)
    | (exact ‹_ + _ = 32›)
    | (intro)
    | (extract_lets)
    | (with_reducible apply Keeps.ite)
    | (with_reducible apply Keeps.foldl)
    | (with_reducible apply Keeps.foldlSnd)
    | (with_reducible apply Keeps.step ?_ (advanceTo_keeps _ _) ?_)
    | (split)
    | (dsimp only)
    | (dsimp +zetaDelta only)

theorem setTod_keeps (s : State) : Keeps [.time, .events] s (setTod s) := by
  unfold setTod
  repeat' first
    | (with_reducible exact Keeps.refl _ _)
    | (with_reducible assumption)
    | (exact rfl)
    | (exact ‹_ + _ = 32›)
    | (intro)
    | (extract_lets)
    | (with_reducible apply Keeps.ite)
    | (with_reducible apply Keeps.foldl)
    | (with_reducible apply Keeps.foldlSnd)
    | (fail_if_no_progress ((with_reducible apply Keeps.setTime) <;> [skip; (exact rfl)]))
    | (with_reducible apply Keeps.step ?_ (raise_keeps _ _) ?_)
    | (split)
    | (dsimp only)
    | (dsimp +zetaDelta only)

theorem epoch_keeps (s : State) : Keeps [.time, .fld, .power, .ledger, .events, .sec, .parts, .tiles, .mem, .ecc, .mesh, .crest, .fabric, .settings, .pilot, .regs] s (epoch s) := by
  unfold epoch
  repeat' first
    | (with_reducible exact Keeps.refl _ _)
    | (with_reducible assumption)
    | (exact rfl)
    | (exact ‹_ + _ = 32›)
    | (intro)
    | (extract_lets)
    | (with_reducible apply Keeps.ite)
    | (with_reducible apply Keeps.foldl)
    | (with_reducible apply Keeps.foldlSnd)
    | (fail_if_no_progress ((with_reducible apply Keeps.setTime) <;> [skip; (exact rfl)]))
    | (with_reducible apply Keeps.step ?_ (setTod_keeps _) ?_)
    | (with_reducible apply Keeps.step ?_ (toNextTick_keeps _) ?_)
    | (with_reducible apply Keeps.step ?_ (raise_keeps _ _) ?_)
    | (with_reducible apply Keeps.step ?_ (advanceUp_keeps _) ?_)
    | (with_reducible apply Keeps.step ?_ (msTicks_keeps _ _) ?_)
    | (split)
    | (dsimp only)
    | (dsimp +zetaDelta only)

theorem takeFrame_keeps (bs : List Byte) (s : State) : Keeps [.time] s (takeFrame bs s) := by
  unfold takeFrame
  repeat' first
    | (with_reducible exact Keeps.refl _ _)
    | (with_reducible assumption)
    | (exact rfl)
    | (exact ‹_ + _ = 32›)
    | (intro)
    | (extract_lets)
    | (with_reducible apply Keeps.ite)
    | (with_reducible apply Keeps.foldl)
    | (with_reducible apply Keeps.foldlSnd)
    | (fail_if_no_progress ((with_reducible apply Keeps.setTime) <;> [skip; (exact rfl)]))
    | (split)
    | (dsimp only)
    | (dsimp +zetaDelta only)

theorem lockFails_keeps (f : Nat) (s : State) : Keeps [.time, .clk, .fld, .power, .events, .sec, .parts, .tiles, .mem, .ecc, .mesh, .crest, .fabric, .settings, .pilot, .regs] s (lockFails f s) := by
  unfold lockFails
  repeat' first
    | (with_reducible exact Keeps.refl _ _)
    | (with_reducible assumption)
    | (exact rfl)
    | (exact ‹_ + _ = 32›)
    | (intro)
    | (extract_lets)
    | (with_reducible apply Keeps.ite)
    | (with_reducible apply Keeps.foldl)
    | (with_reducible apply Keeps.foldlSnd)
    | (with_reducible apply Keeps.step ?_ (modClk_keeps _ _ _) ?_)
    | (with_reducible apply Keeps.step ?_ (fieldOff_keeps _ _) ?_)
    | (with_reducible apply Keeps.step ?_ (advanceUp_keeps _) ?_)
    | (with_reducible apply Keeps.step ?_ (raise_keeps _ _) ?_)
    | (with_reducible apply Keeps.step ?_ (fieldOn_keeps _ _) ?_)
    | (with_reducible apply Keeps.step ?_ (retryFields_keeps _) ?_)
    | (split)
    | (dsimp only)
    | (dsimp +zetaDelta only)

theorem fllStep_keeps (f count : Nat) (s : State) : Keeps [.time, .clk, .fld, .power, .events, .sec, .parts, .tiles, .mem, .ecc, .mesh, .crest, .fabric, .settings, .pilot, .test, .regs] s (fllStep f count s) := by
  unfold fllStep
  repeat' first
    | (with_reducible exact Keeps.refl _ _)
    | (with_reducible assumption)
    | (exact rfl)
    | (exact ‹_ + _ = 32›)
    | (intro)
    | (extract_lets)
    | (with_reducible apply Keeps.ite)
    | (with_reducible apply Keeps.foldl)
    | (with_reducible apply Keeps.foldlSnd)
    | (with_reducible apply Keeps.step ?_ (modClk_keeps _ _ _) ?_)
    | (with_reducible apply Keeps.step ?_ (regulate_keeps _ _ _) ?_)
    | (with_reducible apply Keeps.step ?_ (advanceUp_keeps _) ?_)
    | (with_reducible apply Keeps.step ?_ (lockFails_keeps _ _) ?_)
    | (with_reducible apply Keeps.step ?_ (fieldReset_keeps _ _) ?_)
    | (with_reducible apply Keeps.step ?_ (raise_keeps _ _) ?_)
    | (split)
    | (dsimp only)
    | (dsimp +zetaDelta only)

theorem supplyIsGood_keeps (f : Nat) (s : State) : Keeps [.clk, .fld] s (supplyIsGood f s) := by
  unfold supplyIsGood
  repeat' first
    | (with_reducible exact Keeps.refl _ _)
    | (with_reducible assumption)
    | (exact rfl)
    | (exact ‹_ + _ = 32›)
    | (intro)
    | (extract_lets)
    | (with_reducible apply Keeps.ite)
    | (with_reducible apply Keeps.foldl)
    | (with_reducible apply Keeps.foldlSnd)
    | (with_reducible apply Keeps.step ?_ (modClk_keeps _ _ _) ?_)
    | (with_reducible apply Keeps.step ?_ (modFld_keeps _ _ _) ?_)
    | (split)
    | (dsimp only)
    | (dsimp +zetaDelta only)

theorem settleOver_keeps (f : Nat) (s : State) : Keeps [.time, .clk, .pilot] s (settleOver f s) := by
  unfold settleOver
  repeat' first
    | (with_reducible exact Keeps.refl _ _)
    | (with_reducible assumption)
    | (exact rfl)
    | (exact ‹_ + _ = 32›)
    | (intro)
    | (extract_lets)
    | (with_reducible apply Keeps.ite)
    | (with_reducible apply Keeps.foldl)
    | (with_reducible apply Keeps.foldlSnd)
    | (with_reducible apply Keeps.step ?_ (addCycles_keeps _ _) ?_)
    | (with_reducible apply Keeps.step ?_ (modClk_keeps _ _ _) ?_)
    | (split)
    | (dsimp only)
    | (dsimp +zetaDelta only)

theorem clockRefused_keeps (s : State) : Keeps [.events] s (clockRefused s).2 := by
  unfold clockRefused
  repeat' first
    | (with_reducible exact Keeps.refl _ _)
    | (with_reducible assumption)
    | (exact rfl)
    | (exact ‹_ + _ = 32›)
    | (intro)
    | (extract_lets)
    | (with_reducible apply Keeps.ite)
    | (with_reducible apply Keeps.foldl)
    | (with_reducible apply Keeps.foldlSnd)
    | (with_reducible apply Keeps.step ?_ (raise_keeps _ _) ?_)
    | (split)
    | (dsimp only)
    | (dsimp +zetaDelta only)

theorem clockRefused_eq {s : State} {x} {t : State} (h : clockRefused s = (x, t)) : Keeps [.events] s t := by
  have := clockRefused_keeps s
  rwa [h] at this

theorem writeSource_keeps (sub v : Nat) (s : State) : Keeps [.events, .regs] s (writeSource sub v s).2 := by
  unfold writeSource
  repeat' first
    | (with_reducible exact Keeps.refl _ _)
    | (with_reducible assumption)
    | (exact rfl)
    | (exact ‹_ + _ = 32›)
    | (intro)
    | (extract_lets)
    | (with_reducible apply Keeps.ite)
    | (with_reducible apply Keeps.foldl)
    | (with_reducible apply Keeps.foldlSnd)
    | (with_reducible apply Keeps.step ?_ (clockRefused_keeps _) ?_)
    | (with_reducible apply Keeps.step ?_ (clockRefused_eq ‹_›) ?_)
    | (with_reducible apply Keeps.step ?_ (raise_keeps _ _) ?_)
    | (with_reducible apply Keeps.step ?_ (setReg_keeps _ _ _) ?_)
    | (split)
    | (dsimp only)
    | (dsimp +zetaDelta only)

theorem writeSource_eq {sub v : Nat} {s : State} {x} {t : State} (h : writeSource sub v s = (x, t)) : Keeps [.events, .regs] s t := by
  have := writeSource_keeps sub v s
  rwa [h] at this

theorem writeMultiplier_keeps (sub v : Nat) (s : State) : Keeps [.time, .events, .regs] s (writeMultiplier sub v s).2 := by
  unfold writeMultiplier
  repeat' first
    | (with_reducible exact Keeps.refl _ _)
    | (with_reducible assumption)
    | (exact rfl)
    | (exact ‹_ + _ = 32›)
    | (intro)
    | (extract_lets)
    | (with_reducible apply Keeps.ite)
    | (with_reducible apply Keeps.foldl)
    | (with_reducible apply Keeps.foldlSnd)
    | (fail_if_no_progress ((with_reducible apply Keeps.setTime) <;> [skip; (exact rfl)]))
    | (with_reducible apply Keeps.step ?_ (clockRefused_keeps _) ?_)
    | (with_reducible apply Keeps.step ?_ (clockRefused_eq ‹_›) ?_)
    | (with_reducible apply Keeps.step ?_ (setReg_keeps _ _ _) ?_)
    | (split)
    | (dsimp only)
    | (dsimp +zetaDelta only)

theorem writeMultiplier_eq {sub v : Nat} {s : State} {x} {t : State} (h : writeMultiplier sub v s = (x, t)) : Keeps [.time, .events, .regs] s t := by
  have := writeMultiplier_keeps sub v s
  rwa [h] at this

theorem fallBack_keeps (sub i : Nat) (s : State) : Keeps [.events, .regs] s (fallBack sub i s) := by
  unfold fallBack
  repeat' first
    | (with_reducible exact Keeps.refl _ _)
    | (with_reducible assumption)
    | (exact rfl)
    | (exact ‹_ + _ = 32›)
    | (intro)
    | (extract_lets)
    | (with_reducible apply Keeps.ite)
    | (with_reducible apply Keeps.foldl)
    | (with_reducible apply Keeps.foldlSnd)
    | (with_reducible apply Keeps.step ?_ (raise_keeps _ _) ?_)
    | (with_reducible apply Keeps.step ?_ (setReg_keeps _ _ _) ?_)
    | (split)
    | (dsimp only)
    | (dsimp +zetaDelta only)

theorem pllLost_keeps (i : Nat) (s : State) : Keeps [.time, .events, .regs] s (pllLost i s) := by
  unfold pllLost
  repeat' first
    | (with_reducible exact Keeps.refl _ _)
    | (with_reducible assumption)
    | (exact rfl)
    | (exact ‹_ + _ = 32›)
    | (intro)
    | (extract_lets)
    | (with_reducible apply Keeps.ite)
    | (with_reducible apply Keeps.foldl)
    | (with_reducible apply Keeps.foldlSnd)
    | (fail_if_no_progress ((with_reducible apply Keeps.setTime) <;> [skip; (exact rfl)]))
    | (with_reducible apply Keeps.step ?_ (fallBack_keeps _ _ _) ?_)
    | (split)
    | (dsimp only)
    | (dsimp +zetaDelta only)

end Sys2Proof.Machine
end

