-- ==== Sys2Proof/Laws/Keeps/Events.lean ====
section
/-! SUPPORT. What the operations of Machine/Events.lean may write, and that they keep the invariant. -/

namespace Sys2Proof.Machine

open Sys2Proof

set_option linter.unusedTactic false
set_option linter.unreachableTactic false

theorem bestRequest_mem {s : State} {es : List EvReq} {e : EvReq} (h : bestRequest s es = some e) : e ∈ es := by
  have key : ∀ (l : List EvReq) (b : Option EvReq), (∀ c, b = some c → c ∈ es) → (∀ c ∈ l, c ∈ es) → ∀ e,
      l.foldl (fun b e => match b with
        | none => some e
        | some c => if evPriority s c < evPriority s e then some e else some c) b = some e → e ∈ es := by
    intro l
    induction l with
    | nil => intro b hb _ e he; exact hb e he
    | cons x r ih =>
      intro b hb hl e he
      refine ih _ ?_ (fun c hc => hl c (List.mem_cons_of_mem _ hc)) e he
      intro c hc
      have hx := hl x List.mem_cons_self
      dsimp only at hc
      split at hc
      · cases hc; exact hx
      · next d =>
        have hd := hb d rfl
        split at hc <;> cases hc <;> assumption
  exact key es none (by simp) (fun _ h => h) e h

theorem selectEvent_keeps (s : State) : Keeps [.events] s (selectEvent s) := by
  unfold selectEvent
  split
  · next e _ he =>
    refine Keeps.setEvents (Keeps.refl _ _) rfl (fun h => ?_) (fun h => h)
    have := List.length_erase_of_mem (bestRequest_mem he)
    have := List.length_pos_of_mem (bestRequest_mem he)
    simp only [List.length_append, List.length_take]
    omega
  · exact Keeps.refl _ _

theorem notifyQueue_keeps (was : Bool) (s : State) : Keeps [.events, .fabric] s (notifyQueue was s) := by
  unfold notifyQueue
  repeat' first
    | (with_reducible exact Keeps.refl _ _)
    | (with_reducible assumption)
    | (exact rfl)
    | (exact ‹_ + _ = 32›)
    | (intro)
    | (extract_lets)
    | (with_reducible apply Keeps.ite)
    | (with_reducible apply Keeps.foldl)
    | (with_reducible apply Keeps.foldlSnd)
    | (with_reducible apply Keeps.step ?_ (sendPkt_keeps _ _ _ _ _) ?_)
    | (split)
    | (dsimp only)
    | (dsimp +zetaDelta only)

theorem weakest_mem {q : List EvRec} {r : EvRec} (h : weakest q = some r) : r ∈ q := by
  have key : ∀ (l : List EvRec) (b : Option EvRec), (∀ c, b = some c → c ∈ q) → (∀ c ∈ l, c ∈ q) → ∀ e,
      l.foldl (fun b r => match b with
        | none => some r
        | some c => if r.prio < c.prio then some r else some c) b = some e → e ∈ q := by
    intro l
    induction l with
    | nil => intro b hb _ e he; exact hb e he
    | cons x r ih =>
      intro b hb hl e he
      refine ih _ ?_ (fun c hc => hl c (List.mem_cons_of_mem _ hc)) e he
      intro c hc
      have hx := hl x List.mem_cons_self
      dsimp only at hc
      split at hc
      · cases hc; exact hx
      · next d =>
        have hd := hb d rfl
        split at hc <;> cases hc <;> assumption
  exact key q none (by simp) (fun _ h => h) r h

theorem claimEvent_keeps (s : State) : Keeps [.events, .fabric] s (claimEvent s) := by
  unfold claimEvent
  split
  · exact Keeps.refl _ _
  · next e _ =>
    extract_lets v prio r was u
    split
    · next hq =>
      refine Keeps.step ?_ (notifyQueue_keeps _ _) rfl
      refine Keeps.setEvents (Keeps.refl _ _) rfl (fun h => h) (fun h => ?_)
      change (u.queue ++ [_]).length ≤ 4096
      rw [List.length_append]
      exact hq
    · next hq =>
      split
      · next w hw =>
        refine Keeps.ite (Keeps.setEvents (Keeps.refl _ _) rfl (fun h => h) (fun h => ?_))
          (Keeps.setEvents (Keeps.refl _ _) rfl (fun h => h) (fun h => h))
        have := List.length_erase_of_mem (weakest_mem hw)
        have := List.length_pos_of_mem (weakest_mem hw)
        change u.queue.length ≤ 4096 at h
        simp only [List.length_append, List.length_singleton]
        omega
      · exact Keeps.setEvents (Keeps.refl _ _) rfl (fun h => h) (fun h => h)

theorem ackEvents_keeps (q : BitVec 32) (s : State) : Keeps [.events, .fabric] s (ackEvents q s).2 := by
  unfold ackEvents
  split
  · refine Keeps.step ?_ (notifyQueue_keeps _ _) rfl
    refine Keeps.setEvents (Keeps.refl _ _) rfl (fun h => h) (fun h => ?_)
    have := List.length_dropWhile_le (fun r : EvRec => r.seq != q) s.events.queue
    simp only [List.length_drop]
    omega
  · exact Keeps.refl _ _

theorem ackEvents_eq {q : BitVec 32} {s : State} {x} {t : State} (h : ackEvents q s = (x, t)) : Keeps [.events, .fabric] s t := by
  have := ackEvents_keeps q s
  rwa [h] at this

end Sys2Proof.Machine
end

