-- ==== Sys2Proof/Laws/Keeps/Keys.lean ====
section
/-! SUPPORT. What the operations of Machine/Keys.lean may write, and that they keep the invariant. -/

namespace Sys2Proof.Machine

open Sys2Proof

set_option linter.unusedTactic false
set_option linter.unreachableTactic false

theorem modSlots_keeps (d : Nat) (g : KeySlots → KeySlots) (s : State) : Keeps [.sec] s (modSlots d g s) := by
  unfold modSlots
  repeat' first
    | (with_reducible exact Keeps.refl _ _)
    | (with_reducible assumption)
    | (exact rfl)
    | (exact ‹_ + _ = 32›)
    | (intro)
    | (extract_lets)
    | (with_reducible apply Keeps.ite)
    | (with_reducible apply Keeps.foldl)
    | (with_reducible apply Keeps.foldlSnd)
    | (fail_if_no_progress ((with_reducible apply Keeps.setSec) <;> [skip; (exact rfl)]))
    | (split)
    | (dsimp only)
    | (dsimp +zetaDelta only)

theorem keyEvent_keeps (code kind d : Nat) (s : State) : Keeps [.events] s (keyEvent code kind d s) := by
  unfold keyEvent
  repeat' first
    | (with_reducible exact Keeps.refl _ _)
    | (with_reducible assumption)
    | (exact rfl)
    | (exact ‹_ + _ = 32›)
    | (intro)
    | (extract_lets)
    | (with_reducible apply Keeps.ite)
    | (with_reducible apply Keeps.foldl)
    | (with_reducible apply Keeps.foldlSnd)
    | (with_reducible apply Keeps.step ?_ (raise_keeps _ _) ?_)
    | (split)
    | (dsimp only)
    | (dsimp +zetaDelta only)

theorem restartFlows_keeps (d : Nat) (s : State) : Keeps [.sec, .fabric] s (restartFlows d s) := by
  unfold restartFlows
  extract_lets t src
  have ht : Keeps [.sec, .fabric] s t := (modSlots_keeps _ _ _).mono rfl
  refine Keeps.ite (Keeps.setFabric ht rfl (fun h => ?_)) (Keeps.refl _ _)
  refine flowsOk_map (g := fun key (f : FlowTx) => if key % 64 = d then { f with next := 0, exhaustedNoted := false } else f) h
    (fun k f => ?_)
  split <;> exact ⟨rfl, rfl⟩

theorem stageKey_keeps (d slot g : Nat) (s : State) : Keeps [.events, .sec] s (stageKey d slot g s).2 := by
  unfold stageKey
  repeat' first
    | (with_reducible exact Keeps.refl _ _)
    | (with_reducible assumption)
    | (exact rfl)
    | (exact ‹_ + _ = 32›)
    | (intro)
    | (extract_lets)
    | (with_reducible apply Keeps.ite)
    | (with_reducible apply Keeps.foldl)
    | (with_reducible apply Keeps.foldlSnd)
    | (fail_if_no_progress ((with_reducible apply Keeps.setSec) <;> [skip; (exact rfl)]))
    | (with_reducible apply Keeps.step ?_ (keyEvent_keeps _ _ _ _) ?_)
    | (with_reducible apply Keeps.step ?_ (modSlots_keeps _ _ _) ?_)
    | (split)
    | (dsimp only)
    | (dsimp +zetaDelta only)

theorem stageKey_eq {d slot g : Nat} {s : State} {x} {t : State} (h : stageKey d slot g s = (x, t)) : Keeps [.events, .sec] s t := by
  have := stageKey_keeps d slot g s
  rwa [h] at this

theorem loadKey_keeps (d slot : Nat) (s : State) : Keeps [.events, .sec, .fabric] s (loadKey d slot s).2 := by
  unfold loadKey
  repeat' first
    | (with_reducible exact Keeps.refl _ _)
    | (with_reducible assumption)
    | (exact rfl)
    | (exact ‹_ + _ = 32›)
    | (intro)
    | (extract_lets)
    | (with_reducible apply Keeps.ite)
    | (with_reducible apply Keeps.foldl)
    | (with_reducible apply Keeps.foldlSnd)
    | (with_reducible apply Keeps.step ?_ (keyEvent_keeps _ _ _ _) ?_)
    | (with_reducible apply Keeps.step ?_ (modSlots_keeps _ _ _) ?_)
    | (with_reducible apply Keeps.step ?_ (restartFlows_keeps _ _) ?_)
    | (split)
    | (dsimp only)
    | (dsimp +zetaDelta only)

theorem loadKey_eq {d slot : Nat} {s : State} {x} {t : State} (h : loadKey d slot s = (x, t)) : Keeps [.events, .sec, .fabric] s t := by
  have := loadKey_keeps d slot s
  rwa [h] at this

theorem clearKey_keeps (d slot : Nat) (s : State) : Keeps [.events, .sec] s (clearKey d slot s).2 := by
  unfold clearKey
  repeat' first
    | (with_reducible exact Keeps.refl _ _)
    | (with_reducible assumption)
    | (exact rfl)
    | (exact ‹_ + _ = 32›)
    | (intro)
    | (extract_lets)
    | (with_reducible apply Keeps.ite)
    | (with_reducible apply Keeps.foldl)
    | (with_reducible apply Keeps.foldlSnd)
    | (with_reducible apply Keeps.step ?_ (modSlots_keeps _ _ _) ?_)
    | (with_reducible apply Keeps.step ?_ (keyEvent_keeps _ _ _ _) ?_)
    | (split)
    | (dsimp only)
    | (dsimp +zetaDelta only)

theorem clearKey_eq {d slot : Nat} {s : State} {x} {t : State} (h : clearKey d slot s = (x, t)) : Keeps [.events, .sec] s t := by
  have := clearKey_keeps d slot s
  rwa [h] at this

theorem clearSecretOp_keeps (s : State) : Keeps [.events, .sec] s (clearSecretOp s).2 := by
  unfold clearSecretOp
  repeat' first
    | (with_reducible exact Keeps.refl _ _)
    | (with_reducible assumption)
    | (exact rfl)
    | (exact ‹_ + _ = 32›)
    | (intro)
    | (extract_lets)
    | (with_reducible apply Keeps.ite)
    | (with_reducible apply Keeps.foldl)
    | (with_reducible apply Keeps.foldlSnd)
    | (fail_if_no_progress ((with_reducible apply Keeps.setSec) <;> [skip; (exact rfl)]))
    | (with_reducible apply Keeps.step ?_ (raise_keeps _ _) ?_)
    | (with_reducible apply Keeps.step ?_ (keyEvent_keeps _ _ _ _) ?_)
    | (split)
    | (dsimp only)
    | (dsimp +zetaDelta only)

theorem clearSecretOp_eq {s : State} {x} {t : State} (h : clearSecretOp s = (x, t)) : Keeps [.events, .sec] s t := by
  have := clearSecretOp_keeps s
  rwa [h] at this

theorem keyOperation_keeps (v : Nat) (s : State) : Keeps [.events, .sec, .fabric] s (keyOperation v s).2 := by
  unfold keyOperation
  repeat' first
    | (with_reducible exact Keeps.refl _ _)
    | (with_reducible assumption)
    | (exact rfl)
    | (exact ‹_ + _ = 32›)
    | (intro)
    | (extract_lets)
    | (with_reducible apply Keeps.ite)
    | (with_reducible apply Keeps.foldl)
    | (with_reducible apply Keeps.foldlSnd)
    | (with_reducible apply Keeps.step ?_ (stageKey_keeps _ _ _ _) ?_)
    | (with_reducible apply Keeps.step ?_ (stageKey_eq ‹_›) ?_)
    | (with_reducible apply Keeps.step ?_ (loadKey_keeps _ _ _) ?_)
    | (with_reducible apply Keeps.step ?_ (loadKey_eq ‹_›) ?_)
    | (with_reducible apply Keeps.step ?_ (clearKey_keeps _ _ _) ?_)
    | (with_reducible apply Keeps.step ?_ (clearKey_eq ‹_›) ?_)
    | (with_reducible apply Keeps.step ?_ (clearSecretOp_keeps _) ?_)
    | (with_reducible apply Keeps.step ?_ (clearSecretOp_eq ‹_›) ?_)
    | (with_reducible apply Keeps.step ?_ (keyEvent_keeps _ _ _ _) ?_)
    | (split)
    | (dsimp only)
    | (dsimp +zetaDelta only)

theorem keyOperation_eq {v : Nat} {s : State} {x} {t : State} (h : keyOperation v s = (x, t)) : Keeps [.events, .sec, .fabric] s t := by
  have := keyOperation_keeps v s
  rwa [h] at this

theorem loadSecret_keeps (v : List Byte) (s : State) : Keeps [.events, .sec] s (loadSecret v s) := by
  unfold loadSecret
  repeat' first
    | (with_reducible exact Keeps.refl _ _)
    | (with_reducible assumption)
    | (exact rfl)
    | (exact ‹_ + _ = 32›)
    | (intro)
    | (extract_lets)
    | (with_reducible apply Keeps.ite)
    | (with_reducible apply Keeps.foldl)
    | (with_reducible apply Keeps.foldlSnd)
    | (fail_if_no_progress ((with_reducible apply Keeps.setSec) <;> [skip; (exact rfl)]))
    | (with_reducible apply Keeps.step ?_ (raise_keeps _ _) ?_)
    | (split)
    | (dsimp only)
    | (dsimp +zetaDelta only)

theorem readSessionOp_keeps (signer : Role) (seconds : Nat) (s : State) : Keeps [.events, .sec] s (readSessionOp signer seconds s) := by
  unfold readSessionOp
  repeat' first
    | (with_reducible exact Keeps.refl _ _)
    | (with_reducible assumption)
    | (exact rfl)
    | (exact ‹_ + _ = 32›)
    | (intro)
    | (extract_lets)
    | (with_reducible apply Keeps.ite)
    | (with_reducible apply Keeps.foldl)
    | (with_reducible apply Keeps.foldlSnd)
    | (fail_if_no_progress ((with_reducible apply Keeps.setSec) <;> [skip; (exact rfl)]))
    | (with_reducible apply Keeps.step ?_ (endSession_keeps _) ?_)
    | (with_reducible apply Keeps.step ?_ (raise_keeps _ _) ?_)
    | (split)
    | (dsimp only)
    | (dsimp +zetaDelta only)

theorem sessionOver_keeps (s : State) : Keeps [.time, .events, .sec, .pilot] s (sessionOver s) := by
  unfold sessionOver
  repeat' first
    | (with_reducible exact Keeps.refl _ _)
    | (with_reducible assumption)
    | (exact rfl)
    | (exact ‹_ + _ = 32›)
    | (intro)
    | (extract_lets)
    | (with_reducible apply Keeps.ite)
    | (with_reducible apply Keeps.foldl)
    | (with_reducible apply Keeps.foldlSnd)
    | (with_reducible apply Keeps.step ?_ (endSession_keeps _) ?_)
    | (with_reducible apply Keeps.step ?_ (advanceTo_keeps _ _) ?_)
    | (split)
    | (dsimp only)
    | (dsimp +zetaDelta only)

theorem writeTarget_keeps (v : Nat) (s : State) : Keeps [.settings] s (writeTarget v s) := by
  unfold writeTarget
  repeat' first
    | (with_reducible exact Keeps.refl _ _)
    | (with_reducible assumption)
    | (exact rfl)
    | (exact ‹_ + _ = 32›)
    | (intro)
    | (extract_lets)
    | (with_reducible apply Keeps.ite)
    | (with_reducible apply Keeps.foldl)
    | (with_reducible apply Keeps.foldlSnd)
    | (fail_if_no_progress ((with_reducible apply Keeps.setSettings) <;> [skip; (exact rfl)]))
    | (split)
    | (dsimp only)
    | (dsimp +zetaDelta only)

theorem imageChunkOp_keeps (bs : List Byte) (s : State) : Keeps [.events, .settings] s (imageChunkOp bs s).2 := by
  unfold imageChunkOp
  repeat' first
    | (with_reducible exact Keeps.refl _ _)
    | (with_reducible assumption)
    | (exact rfl)
    | (exact ‹_ + _ = 32›)
    | (intro)
    | (extract_lets)
    | (with_reducible apply Keeps.ite)
    | (with_reducible apply Keeps.foldl)
    | (with_reducible apply Keeps.foldlSnd)
    | (fail_if_no_progress ((with_reducible apply Keeps.setSettings) <;> [skip; (exact rfl)]))
    | (with_reducible apply Keeps.step ?_ (raise_keeps _ _) ?_)
    | (split)
    | (dsimp only)
    | (dsimp +zetaDelta only)

theorem imageChunkOp_eq {bs : List Byte} {s : State} {x} {t : State} (h : imageChunkOp bs s = (x, t)) : Keeps [.events, .settings] s t := by
  have := imageChunkOp_keeps bs s
  rwa [h] at this

theorem verifyImage_keeps (s : State) : Keeps [.cope, .drag, .events, .settings] s (verifyImage s) := by
  unfold verifyImage
  repeat' first
    | (with_reducible exact Keeps.refl _ _)
    | (with_reducible assumption)
    | (exact rfl)
    | (exact ‹_ + _ = 32›)
    | (intro)
    | (extract_lets)
    | (with_reducible apply Keeps.ite)
    | (with_reducible apply Keeps.foldl)
    | (with_reducible apply Keeps.foldlSnd)
    | (fail_if_no_progress ((with_reducible apply Keeps.setSettings) <;> [skip; (exact rfl)]))
    | (with_reducible apply Keeps.step ?_ (modCtl_keeps _ _ _) ?_)
    | (with_reducible apply Keeps.step ?_ (raise_keeps _ _) ?_)
    | (split)
    | (dsimp only)
    | (dsimp +zetaDelta only)

theorem startTrialOp_keeps (s : State) : Keeps [.cope, .drag, .lease, .events, .settings] s (startTrialOp s).2 := by
  unfold startTrialOp
  repeat' first
    | (with_reducible exact Keeps.refl _ _)
    | (with_reducible assumption)
    | (exact rfl)
    | (exact ‹_ + _ = 32›)
    | (intro)
    | (extract_lets)
    | (with_reducible apply Keeps.ite)
    | (with_reducible apply Keeps.foldl)
    | (with_reducible apply Keeps.foldlSnd)
    | (fail_if_no_progress ((with_reducible apply Keeps.setLeaseSettings) <;> [skip; (exact rfl); (exact rfl)]))
    | (with_reducible apply Keeps.step ?_ (modCtl_keeps _ _ _) ?_)
    | (with_reducible apply Keeps.step ?_ (raise_keeps _ _) ?_)
    | (split)
    | (dsimp only)
    | (dsimp +zetaDelta only)

theorem startTrialOp_eq {s : State} {x} {t : State} (h : startTrialOp s = (x, t)) : Keeps [.cope, .drag, .lease, .events, .settings] s t := by
  have := startTrialOp_keeps s
  rwa [h] at this

theorem confirmTrialOp_keeps (s : State) : Keeps [.cope, .drag, .lease, .events, .settings] s (confirmTrialOp s).2 := by
  unfold confirmTrialOp
  repeat' first
    | (with_reducible exact Keeps.refl _ _)
    | (with_reducible assumption)
    | (exact rfl)
    | (exact ‹_ + _ = 32›)
    | (intro)
    | (extract_lets)
    | (with_reducible apply Keeps.ite)
    | (with_reducible apply Keeps.foldl)
    | (with_reducible apply Keeps.foldlSnd)
    | (fail_if_no_progress ((with_reducible apply Keeps.setLeaseSettings) <;> [skip; (exact rfl); (exact rfl)]))
    | (with_reducible apply Keeps.step ?_ (modCtl_keeps _ _ _) ?_)
    | (with_reducible apply Keeps.step ?_ (raise_keeps _ _) ?_)
    | (split)
    | (dsimp only)
    | (dsimp +zetaDelta only)

theorem confirmTrialOp_eq {s : State} {x} {t : State} (h : confirmTrialOp s = (x, t)) : Keeps [.cope, .drag, .lease, .events, .settings] s t := by
  have := confirmTrialOp_keeps s
  rwa [h] at this

theorem revertTrial_keeps (s : State) : Keeps [.cope, .drag, .lease, .events, .settings] s (revertTrial s) := by
  unfold revertTrial
  repeat' first
    | (with_reducible exact Keeps.refl _ _)
    | (with_reducible assumption)
    | (exact rfl)
    | (exact ‹_ + _ = 32›)
    | (intro)
    | (extract_lets)
    | (with_reducible apply Keeps.ite)
    | (with_reducible apply Keeps.foldl)
    | (with_reducible apply Keeps.foldlSnd)
    | (fail_if_no_progress ((with_reducible apply Keeps.setLeaseSettings) <;> [skip; (exact rfl); (exact rfl)]))
    | (with_reducible apply Keeps.step ?_ (modCtl_keeps _ _ _) ?_)
    | (with_reducible apply Keeps.step ?_ (raise_keeps _ _) ?_)
    | (split)
    | (dsimp only)
    | (dsimp +zetaDelta only)

end Sys2Proof.Machine
end

