-- ==== Sys2Proof/Laws/Keeps/Wake.lean ====
section
/-! SUPPORT. What the operations of Machine/Wake.lean may write, and that they keep the invariant. -/

namespace Sys2Proof.Machine

open Sys2Proof

set_option linter.unusedTactic false
set_option linter.unreachableTactic false

theorem beginWake_keeps (ns : List Nat) (s : State) : Keeps [.time, .fld, .power, .lease, .events, .sec, .parts, .tiles, .mem, .ecc, .mesh, .crest, .fabric, .settings, .pilot, .regs] s (beginWake ns s) := by
  unfold beginWake
  repeat' first
    | (with_reducible exact Keeps.refl _ _)
    | (with_reducible assumption)
    | (exact rfl)
    | (exact ‹_ + _ = 32›)
    | (intro)
    | (extract_lets)
    | (with_reducible apply Keeps.ite)
    | (with_reducible apply Keeps.foldl)
    | (with_reducible apply Keeps.foldlSnd)
    | (fail_if_no_progress ((with_reducible apply Keeps.setLease) <;> [skip; (exact rfl)]))
    | (fail_if_no_progress ((with_reducible apply Keeps.setPilot) <;> [skip; (exact rfl)]))
    | (with_reducible apply Keeps.step ?_ (raise_keeps _ _) ?_)
    | (with_reducible apply Keeps.step ?_ (advanceUp_keeps _) ?_)
    | (split)
    | (dsimp only)
    | (dsimp +zetaDelta only)

theorem wakeFire_keeps (ns : List Nat) (s : State) : Keeps [.time, .fld, .power, .lease, .events, .sec, .parts, .tiles, .mem, .ecc, .mesh, .crest, .fabric, .settings, .pilot, .regs] s (wakeFire ns s) := by
  unfold wakeFire
  repeat' first
    | (with_reducible exact Keeps.refl _ _)
    | (with_reducible assumption)
    | (exact rfl)
    | (exact ‹_ + _ = 32›)
    | (intro)
    | (extract_lets)
    | (with_reducible apply Keeps.ite)
    | (with_reducible apply Keeps.foldl)
    | (with_reducible apply Keeps.foldlSnd)
    | (fail_if_no_progress ((with_reducible apply Keeps.setPilot) <;> [skip; (exact rfl)]))
    | (with_reducible apply Keeps.step ?_ (beginWake_keeps _ _) ?_)
    | (split)
    | (dsimp only)
    | (dsimp +zetaDelta only)

theorem beginSleep_keeps (s : State) : Keeps [.clk, .fld, .power, .lease, .tiles, .mem, .ecc, .mesh, .crest, .fabric, .pilot] s (beginSleep s) := by
  unfold beginSleep
  repeat' first
    | (with_reducible exact Keeps.refl _ _)
    | (with_reducible assumption)
    | (exact rfl)
    | (exact ‹_ + _ = 32›)
    | (intro)
    | (extract_lets)
    | (with_reducible apply Keeps.ite)
    | (with_reducible apply Keeps.foldl)
    | (with_reducible apply Keeps.foldlSnd)
    | (fail_if_no_progress ((with_reducible apply Keeps.setLeasePilot) <;> [skip; (exact rfl); (exact rfl)]))
    | (with_reducible apply Keeps.step ?_ (portStop_keeps _ _) ?_)
    | (with_reducible apply Keeps.step ?_ (allOff_keeps _ _) ?_)
    | (split)
    | (dsimp only)
    | (dsimp +zetaDelta only)

theorem sleepDone_keeps (s : State) : Keeps [.time, .fld, .power, .lease, .events, .sec, .parts, .tiles, .mem, .ecc, .mesh, .crest, .fabric, .settings, .pilot, .regs] s (sleepDone s) := by
  unfold sleepDone
  repeat' first
    | (with_reducible exact Keeps.refl _ _)
    | (with_reducible assumption)
    | (exact rfl)
    | (exact ‹_ + _ = 32›)
    | (intro)
    | (extract_lets)
    | (with_reducible apply Keeps.ite)
    | (with_reducible apply Keeps.foldl)
    | (with_reducible apply Keeps.foldlSnd)
    | (fail_if_no_progress ((with_reducible apply Keeps.setPilot) <;> [skip; (exact rfl)]))
    | (with_reducible apply Keeps.step ?_ (raise_keeps _ _) ?_)
    | (with_reducible apply Keeps.step ?_ (beginWake_keeps _ _) ?_)
    | (split)
    | (dsimp only)
    | (dsimp +zetaDelta only)

end Sys2Proof.Machine
end

