-- ==== Sys2Proof/Laws/Keeps/Effects.lean ====
section
/-! SUPPORT. What the operations of Machine/Effects.lean may write, and that they keep the invariant. -/

namespace Sys2Proof.Machine

open Sys2Proof

set_option linter.unusedTactic false
set_option linter.unreachableTactic false

theorem plainWrite_keeps (index sub v : Nat) (s : State) : Keeps [.parts, .crest, .settings, .regs] s (plainWrite index sub v s).2 := by
  unfold plainWrite
  repeat' first
    | (with_reducible exact Keeps.refl _ _)
    | (with_reducible assumption)
    | (exact rfl)
    | (exact ‹_ + _ = 32›)
    | (intro)
    | (extract_lets)
    | (with_reducible apply Keeps.ite)
    | (with_reducible apply Keeps.foldl)
    | (with_reducible apply Keeps.foldlSnd)
    | (with_reducible apply Keeps.step ?_ (putNum_keeps _ _ _ _) ?_)
    | (split)
    | (dsimp only)
    | (dsimp +zetaDelta only)

theorem plainWrite_eq {index sub v : Nat} {s : State} {x} {t : State} (h : plainWrite index sub v s = (x, t)) : Keeps [.parts, .crest, .settings, .regs] s t := by
  have := plainWrite_keeps index sub v s
  rwa [h] at this

theorem aggStart_keeps (s : State) : Keeps [.crest] s (aggStart s) := by
  unfold aggStart
  repeat' first
    | (with_reducible exact Keeps.refl _ _)
    | (with_reducible assumption)
    | (exact rfl)
    | (exact ‹_ + _ = 32›)
    | (intro)
    | (extract_lets)
    | (with_reducible apply Keeps.ite)
    | (with_reducible apply Keeps.foldl)
    | (with_reducible apply Keeps.foldlSnd)
    | (fail_if_no_progress ((with_reducible apply Keeps.setCrest) <;> [skip; (exact rfl)]))
    | (split)
    | (dsimp only)
    | (dsimp +zetaDelta only)

theorem aggFinish_keeps (s : State) : Keeps [.crest] s (aggFinish s) := by
  unfold aggFinish
  repeat' first
    | (with_reducible exact Keeps.refl _ _)
    | (with_reducible assumption)
    | (exact rfl)
    | (exact ‹_ + _ = 32›)
    | (intro)
    | (extract_lets)
    | (with_reducible apply Keeps.ite)
    | (with_reducible apply Keeps.foldl)
    | (with_reducible apply Keeps.foldlSnd)
    | (fail_if_no_progress ((with_reducible apply Keeps.setCrest) <;> [skip; (exact rfl)]))
    | (split)
    | (dsimp only)
    | (dsimp +zetaDelta only)

theorem writeReservation_keeps (p v : Nat) (s : State) : Keeps [.events, .parts, .crest, .settings, .regs] s (writeReservation p v s).2 := by
  unfold writeReservation
  repeat' first
    | (with_reducible exact Keeps.refl _ _)
    | (with_reducible assumption)
    | (exact rfl)
    | (exact ‹_ + _ = 32›)
    | (intro)
    | (extract_lets)
    | (with_reducible apply Keeps.ite)
    | (with_reducible apply Keeps.foldl)
    | (with_reducible apply Keeps.foldlSnd)
    | (with_reducible apply Keeps.step ?_ (raise_keeps _ _) ?_)
    | (with_reducible apply Keeps.step ?_ (plainWrite_keeps _ _ _ _) ?_)
    | (with_reducible apply Keeps.step ?_ (plainWrite_eq ‹_›) ?_)
    | (split)
    | (dsimp only)
    | (dsimp +zetaDelta only)

theorem writeReservation_eq {p v : Nat} {s : State} {x} {t : State} (h : writeReservation p v s = (x, t)) : Keeps [.events, .parts, .crest, .settings, .regs] s t := by
  have := writeReservation_keeps p v s
  rwa [h] at this

theorem writeRole_keeps (p v : Nat) (s : State) : Keeps [.fld, .power, .events, .parts, .tiles, .mem, .ecc, .mesh, .crest, .fabric, .settings] s (writeRole p v s).2 := by
  unfold writeRole
  repeat' first
    | (with_reducible exact Keeps.refl _ _)
    | (with_reducible assumption)
    | (exact rfl)
    | (exact ‹_ + _ = 32›)
    | (intro)
    | (extract_lets)
    | (with_reducible apply Keeps.ite)
    | (with_reducible apply Keeps.foldl)
    | (with_reducible apply Keeps.foldlSnd)
    | (with_reducible apply Keeps.step ?_ (mcServeAll_keeps _) ?_)
    | (with_reducible apply Keeps.step ?_ (applyRole_keeps _ _ _) ?_)
    | (with_reducible apply Keeps.step ?_ (raise_keeps _ _) ?_)
    | (split)
    | (dsimp only)
    | (dsimp +zetaDelta only)

theorem writeRole_eq {p v : Nat} {s : State} {x} {t : State} (h : writeRole p v s = (x, t)) : Keeps [.fld, .power, .events, .parts, .tiles, .mem, .ecc, .mesh, .crest, .fabric, .settings] s t := by
  have := writeRole_keeps p v s
  rwa [h] at this

theorem rangeRefused_keeps (index p : Nat) (s : State) : Keeps [.events] s (rangeRefused index p s) := by
  unfold rangeRefused
  repeat' first
    | (with_reducible exact Keeps.refl _ _)
    | (with_reducible assumption)
    | (exact rfl)
    | (exact ‹_ + _ = 32›)
    | (intro)
    | (extract_lets)
    | (with_reducible apply Keeps.ite)
    | (with_reducible apply Keeps.foldl)
    | (with_reducible apply Keeps.foldlSnd)
    | (with_reducible apply Keeps.step ?_ (raise_keeps _ _) ?_)
    | (split)
    | (dsimp only)
    | (dsimp +zetaDelta only)

theorem freshRange_keeps (p base n : Nat) (s : State) : Keeps [.crest] s (freshRange p base n s) := by
  unfold freshRange
  repeat' first
    | (with_reducible exact Keeps.refl _ _)
    | (with_reducible assumption)
    | (exact rfl)
    | (exact ‹_ + _ = 32›)
    | (intro)
    | (extract_lets)
    | (with_reducible apply Keeps.ite)
    | (with_reducible apply Keeps.foldl)
    | (with_reducible apply Keeps.foldlSnd)
    | (with_reducible apply Keeps.step ?_ (clearCrest_keeps _ _) ?_)
    | (split)
    | (dsimp only)
    | (dsimp +zetaDelta only)

theorem writeRange_keeps (index p v : Nat) (s : State) : Keeps [.events, .parts, .crest, .settings, .regs] s (writeRange index p v s).2 := by
  unfold writeRange
  repeat' first
    | (with_reducible exact Keeps.refl _ _)
    | (with_reducible assumption)
    | (exact rfl)
    | (exact ‹_ + _ = 32›)
    | (intro)
    | (extract_lets)
    | (with_reducible apply Keeps.ite)
    | (with_reducible apply Keeps.foldl)
    | (with_reducible apply Keeps.foldlSnd)
    | (with_reducible apply Keeps.step ?_ (plainWrite_keeps _ _ _ _) ?_)
    | (with_reducible apply Keeps.step ?_ (plainWrite_eq ‹_›) ?_)
    | (with_reducible apply Keeps.step ?_ (freshRange_keeps _ _ _ _) ?_)
    | (with_reducible apply Keeps.step ?_ (rangeRefused_keeps _ _ _) ?_)
    | (split)
    | (dsimp only)
    | (dsimp +zetaDelta only)

theorem writeRange_eq {index p v : Nat} {s : State} {x} {t : State} (h : writeRange index p v s = (x, t)) : Keeps [.events, .parts, .crest, .settings, .regs] s t := by
  have := writeRange_keeps index p v s
  rwa [h] at this

theorem portTrain_keeps (i : Nat) (s : State) : Keeps [.events, .fabric] s (portTrain i s) := by
  unfold portTrain
  repeat' first
    | (with_reducible exact Keeps.refl _ _)
    | (with_reducible assumption)
    | (exact rfl)
    | (exact ‹_ + _ = 32›)
    | (intro)
    | (extract_lets)
    | (with_reducible apply Keeps.ite)
    | (with_reducible apply Keeps.foldl)
    | (with_reducible apply Keeps.foldlSnd)
    | (with_reducible apply Keeps.step ?_ (setPort_keeps _ _ _) ?_)
    | (split)
    | (dsimp only)
    | (dsimp +zetaDelta only)

theorem portOut_keeps (i : Nat) (s : State) : Keeps [.power, .events, .fabric] s (portOut i s) := by
  unfold portOut
  repeat' first
    | (with_reducible exact Keeps.refl _ _)
    | (with_reducible assumption)
    | (exact rfl)
    | (exact ‹_ + _ = 32›)
    | (intro)
    | (extract_lets)
    | (with_reducible apply Keeps.ite)
    | (with_reducible apply Keeps.foldl)
    | (with_reducible apply Keeps.foldlSnd)
    | (with_reducible apply Keeps.step ?_ (linkDown_keeps _ _) ?_)
    | (split)
    | (dsimp only)
    | (dsimp +zetaDelta only)

theorem portEnable_keeps (i v : Nat) (s : State) : Keeps [.power, .events, .parts, .crest, .fabric, .settings, .regs] s (portEnable i v s) := by
  unfold portEnable
  repeat' first
    | (with_reducible exact Keeps.refl _ _)
    | (with_reducible assumption)
    | (exact rfl)
    | (exact ‹_ + _ = 32›)
    | (intro)
    | (extract_lets)
    | (with_reducible apply Keeps.ite)
    | (with_reducible apply Keeps.foldl)
    | (with_reducible apply Keeps.foldlSnd)
    | (with_reducible apply Keeps.step ?_ (putNum_keeps _ _ _ _) ?_)
    | (with_reducible apply Keeps.step ?_ (setPort_keeps _ _ _) ?_)
    | (with_reducible apply Keeps.step ?_ (portOut_keeps _ _) ?_)
    | (with_reducible apply Keeps.step ?_ (portTrain_keeps _ _) ?_)
    | (split)
    | (dsimp only)
    | (dsimp +zetaDelta only)

theorem portAction_keeps (i v : Nat) (s : State) : Keeps [.power, .events, .parts, .crest, .fabric, .settings, .regs] s (portAction i v s) := by
  unfold portAction
  repeat' first
    | (with_reducible exact Keeps.refl _ _)
    | (with_reducible assumption)
    | (exact rfl)
    | (exact ‹_ + _ = 32›)
    | (intro)
    | (extract_lets)
    | (with_reducible apply Keeps.ite)
    | (with_reducible apply Keeps.foldl)
    | (with_reducible apply Keeps.foldlSnd)
    | (with_reducible apply Keeps.step ?_ (putNum_keeps _ _ _ _) ?_)
    | (with_reducible apply Keeps.step ?_ (portEnable_keeps _ _ _) ?_)
    | (with_reducible apply Keeps.step ?_ (portTrain_keeps _ _) ?_)
    | (with_reducible apply Keeps.step ?_ (portOut_keeps _ _) ?_)
    | (split)
    | (dsimp only)
    | (dsimp +zetaDelta only)

theorem writeSampling_keeps (p v : Nat) (s : State) : Keeps [.parts, .tiles, .crest, .settings, .regs] s (writeSampling p v s) := by
  unfold writeSampling
  repeat' first
    | (with_reducible exact Keeps.refl _ _)
    | (with_reducible assumption)
    | (exact rfl)
    | (exact ‹_ + _ = 32›)
    | (intro)
    | (extract_lets)
    | (with_reducible apply Keeps.ite)
    | (with_reducible apply Keeps.foldl)
    | (with_reducible apply Keeps.foldlSnd)
    | (fail_if_no_progress ((with_reducible apply Keeps.setTiles) <;> [skip; (exact rfl)]))
    | (with_reducible apply Keeps.step ?_ (modPart_keeps _ _ _) ?_)
    | (with_reducible apply Keeps.step ?_ (putNum_keeps _ _ _ _) ?_)
    | (split)
    | (dsimp only)
    | (dsimp +zetaDelta only)

theorem passLeaseOp_keeps (s : State) : Keeps [.ledger, .lease, .events, .sec, .parts, .fabric, .pilot] s (passLeaseOp s).2 := by
  unfold passLeaseOp
  repeat' first
    | (with_reducible exact Keeps.refl _ _)
    | (with_reducible assumption)
    | (exact rfl)
    | (exact ‹_ + _ = 32›)
    | (intro)
    | (extract_lets)
    | (with_reducible apply Keeps.ite)
    | (with_reducible apply Keeps.foldl)
    | (with_reducible apply Keeps.foldlSnd)
    | (with_reducible apply Keeps.step ?_ (changeOwner_keeps _ _) ?_)
    | (with_reducible apply Keeps.step ?_ (raise_keeps _ _) ?_)
    | (split)
    | (dsimp only)
    | (dsimp +zetaDelta only)

theorem passLeaseOp_eq {s : State} {x} {t : State} (h : passLeaseOp s = (x, t)) : Keeps [.ledger, .lease, .events, .sec, .parts, .fabric, .pilot] s t := by
  have := passLeaseOp_keeps s
  rwa [h] at this

theorem sleepOp_keeps (s : State) : Keeps [.clk, .fld, .power, .lease, .events, .tiles, .mem, .ecc, .mesh, .crest, .fabric, .pilot] s (sleepOp s).2 := by
  unfold sleepOp
  repeat' first
    | (with_reducible exact Keeps.refl _ _)
    | (with_reducible assumption)
    | (exact rfl)
    | (exact ‹_ + _ = 32›)
    | (intro)
    | (extract_lets)
    | (with_reducible apply Keeps.ite)
    | (with_reducible apply Keeps.foldl)
    | (with_reducible apply Keeps.foldlSnd)
    | (with_reducible apply Keeps.step ?_ (beginSleep_keeps _) ?_)
    | (with_reducible apply Keeps.step ?_ (raise_keeps _ _) ?_)
    | (split)
    | (dsimp only)
    | (dsimp +zetaDelta only)

theorem sleepOp_eq {s : State} {x} {t : State} (h : sleepOp s = (x, t)) : Keeps [.clk, .fld, .power, .lease, .events, .tiles, .mem, .ecc, .mesh, .crest, .fabric, .pilot] s t := by
  have := sleepOp_keeps s
  rwa [h] at this

theorem selfTestOp_keeps (own : Option Nat) (v : Nat) (s : State) : Keeps [.fld, .events, .test] s (selfTestOp own v s).2 := by
  unfold selfTestOp
  repeat' first
    | (with_reducible exact Keeps.refl _ _)
    | (with_reducible assumption)
    | (exact rfl)
    | (exact ‹_ + _ = 32›)
    | (intro)
    | (extract_lets)
    | (with_reducible apply Keeps.ite)
    | (with_reducible apply Keeps.foldl)
    | (with_reducible apply Keeps.foldlSnd)
    | (fail_if_no_progress ((with_reducible apply Keeps.setTest) <;> [skip; (exact rfl)]))
    | (with_reducible apply Keeps.step ?_ (raise_keeps _ _) ?_)
    | (with_reducible apply Keeps.step ?_ (modFld_keeps _ _ _) ?_)
    | (split)
    | (dsimp only)
    | (dsimp +zetaDelta only)

theorem selfTestOp_eq {own : Option Nat} {v : Nat} {s : State} {x} {t : State} (h : selfTestOp own v s = (x, t)) : Keeps [.fld, .events, .test] s t := by
  have := selfTestOp_keeps own v s
  rwa [h] at this

theorem trialOp_keeps (sub : Nat) (s : State) : Keeps [.cope, .drag, .lease, .events, .settings] s (trialOp sub s).2 := by
  unfold trialOp
  repeat' first
    | (with_reducible exact Keeps.refl _ _)
    | (with_reducible assumption)
    | (exact rfl)
    | (exact ‹_ + _ = 32›)
    | (intro)
    | (extract_lets)
    | (with_reducible apply Keeps.ite)
    | (with_reducible apply Keeps.foldl)
    | (with_reducible apply Keeps.foldlSnd)
    | (with_reducible apply Keeps.step ?_ (startTrialOp_keeps _) ?_)
    | (with_reducible apply Keeps.step ?_ (startTrialOp_eq ‹_›) ?_)
    | (with_reducible apply Keeps.step ?_ (confirmTrialOp_keeps _) ?_)
    | (with_reducible apply Keeps.step ?_ (confirmTrialOp_eq ‹_›) ?_)
    | (split)
    | (dsimp only)
    | (dsimp +zetaDelta only)

theorem trialOp_eq {sub : Nat} {s : State} {x} {t : State} (h : trialOp sub s = (x, t)) : Keeps [.cope, .drag, .lease, .events, .settings] s t := by
  have := trialOp_keeps sub s
  rwa [h] at this

theorem ruleWrite_keeps (own : Option Nat) (index sub v : Nat) (s : State) : Keeps [.time, .clk, .fld, .power, .ledger, .cope, .drag, .lease, .events, .sec, .parts, .tiles, .mem, .ecc, .mesh, .crest, .fabric, .settings, .pilot, .test, .regs] s (ruleWrite own index sub v s).2 := by
  unfold ruleWrite
  repeat' first
    | (with_reducible exact Keeps.refl _ _)
    | (with_reducible assumption)
    | (exact rfl)
    | (exact ‹_ + _ = 32›)
    | (intro)
    | (extract_lets)
    | (with_reducible apply Keeps.ite)
    | (with_reducible apply Keeps.foldl)
    | (with_reducible apply Keeps.foldlSnd)
    | (with_reducible apply Keeps.step ?_ (plainWrite_keeps _ _ _ _) ?_)
    | (with_reducible apply Keeps.step ?_ (plainWrite_eq ‹_›) ?_)
    | (with_reducible apply Keeps.step ?_ (aggStart_keeps _) ?_)
    | (with_reducible apply Keeps.step ?_ (writeMultiplier_keeps _ _ _) ?_)
    | (with_reducible apply Keeps.step ?_ (writeMultiplier_eq ‹_›) ?_)
    | (with_reducible apply Keeps.step ?_ (writeSource_keeps _ _ _) ?_)
    | (with_reducible apply Keeps.step ?_ (writeSource_eq ‹_›) ?_)
    | (with_reducible apply Keeps.step ?_ (writeReservation_keeps _ _ _) ?_)
    | (with_reducible apply Keeps.step ?_ (writeReservation_eq ‹_›) ?_)
    | (with_reducible apply Keeps.step ?_ (writeRole_keeps _ _ _) ?_)
    | (with_reducible apply Keeps.step ?_ (writeRole_eq ‹_›) ?_)
    | (with_reducible apply Keeps.step ?_ (writeRange_keeps _ _ _ _) ?_)
    | (with_reducible apply Keeps.step ?_ (writeRange_eq ‹_›) ?_)
    | (with_reducible apply Keeps.step ?_ (portEnable_keeps _ _ _) ?_)
    | (with_reducible apply Keeps.step ?_ (refreshOff_keeps _) ?_)
    | (with_reducible apply Keeps.step ?_ (putNum_keeps _ _ _ _) ?_)
    | (with_reducible apply Keeps.step ?_ (writeSampling_keeps _ _ _) ?_)
    | (with_reducible apply Keeps.step ?_ (ackEvents_keeps _ _) ?_)
    | (with_reducible apply Keeps.step ?_ (ackEvents_eq ‹_›) ?_)
    | (with_reducible apply Keeps.step ?_ (passLeaseOp_keeps _) ?_)
    | (with_reducible apply Keeps.step ?_ (passLeaseOp_eq ‹_›) ?_)
    | (with_reducible apply Keeps.step ?_ (sleepOp_keeps _) ?_)
    | (with_reducible apply Keeps.step ?_ (sleepOp_eq ‹_›) ?_)
    | (with_reducible apply Keeps.step ?_ (wakeFire_keeps _ _) ?_)
    | (with_reducible apply Keeps.step ?_ (writeTarget_keeps _ _) ?_)
    | (with_reducible apply Keeps.step ?_ (trialOp_keeps _ _) ?_)
    | (with_reducible apply Keeps.step ?_ (trialOp_eq ‹_›) ?_)
    | (with_reducible apply Keeps.step ?_ (beginReset_keeps _ _ _ _ _) ?_)
    | (with_reducible apply Keeps.step ?_ (selfTestOp_keeps _ _ _) ?_)
    | (with_reducible apply Keeps.step ?_ (selfTestOp_eq ‹_›) ?_)
    | (with_reducible apply Keeps.step ?_ (pinFunction_keeps _ _ _) ?_)
    | (with_reducible apply Keeps.step ?_ (pinLevel_keeps _ _ _) ?_)
    | (split)
    | (dsimp only)
    | (dsimp +zetaDelta only)

theorem ruleWrite_eq {own : Option Nat} {index sub v : Nat} {s : State} {x} {t : State} (h : ruleWrite own index sub v s = (x, t)) : Keeps [.time, .clk, .fld, .power, .ledger, .cope, .drag, .lease, .events, .sec, .parts, .tiles, .mem, .ecc, .mesh, .crest, .fabric, .settings, .pilot, .test, .regs] s t := by
  have := ruleWrite_keeps own index sub v s
  rwa [h] at this

theorem writeKey_keeps (sub : Nat) (v : List Byte) (s : State) : Keeps [.events, .sec] s (writeKey sub v s) := by
  unfold writeKey
  repeat' first
    | (with_reducible exact Keeps.refl _ _)
    | (with_reducible assumption)
    | (exact rfl)
    | (exact ‹_ + _ = 32›)
    | (intro)
    | (extract_lets)
    | (with_reducible apply Keeps.ite)
    | (with_reducible apply Keeps.foldl)
    | (with_reducible apply Keeps.foldlSnd)
    | (with_reducible apply Keeps.step ?_ (raise_keeps _ _) ?_)
    | (with_reducible apply Keeps.step ?_ (putOctets_keeps _ _ _ _) ?_)
    | (split)
    | (dsimp only)
    | (dsimp +zetaDelta only)

theorem refuseRetire_keeps (isRetire : Bool) (s : State) : Keeps [.events] s (refuseRetire isRetire s) := by
  unfold refuseRetire
  repeat' first
    | (with_reducible exact Keeps.refl _ _)
    | (with_reducible assumption)
    | (exact rfl)
    | (exact ‹_ + _ = 32›)
    | (intro)
    | (extract_lets)
    | (with_reducible apply Keeps.ite)
    | (with_reducible apply Keeps.foldl)
    | (with_reducible apply Keeps.foldlSnd)
    | (with_reducible apply Keeps.step ?_ (raise_keeps _ _) ?_)
    | (split)
    | (dsimp only)
    | (dsimp +zetaDelta only)

theorem permitted_keeps (signer : Role) (index sub : Nat) (bs : List Byte) (s : State) : Keeps [.clk, .fld, .power, .ledger, .events, .sec, .parts, .tiles, .mem, .ecc, .mesh, .crest, .fabric, .settings, .pilot, .test, .regs] s (permitted signer index sub bs s).2 := by
  unfold permitted
  repeat' first
    | (with_reducible exact Keeps.refl _ _)
    | (with_reducible assumption)
    | (exact rfl)
    | (exact ‹_ + _ = 32›)
    | (intro)
    | (extract_lets)
    | (with_reducible apply Keeps.ite)
    | (with_reducible apply Keeps.foldl)
    | (with_reducible apply Keeps.foldlSnd)
    | (with_reducible apply Keeps.step ?_ (retire_keeps _ _) ?_)
    | (with_reducible apply Keeps.step ?_ (putNum_keeps _ _ _ _) ?_)
    | (with_reducible apply Keeps.step ?_ (tryCreate_keeps _ _) ?_)
    | (with_reducible apply Keeps.step ?_ (tryCreate_eq ‹_›) ?_)
    | (with_reducible apply Keeps.step ?_ (deletePart_keeps _ _) ?_)
    | (with_reducible apply Keeps.step ?_ (loadSecret_keeps _ _) ?_)
    | (with_reducible apply Keeps.step ?_ (keyOperation_keeps _ _) ?_)
    | (with_reducible apply Keeps.step ?_ (keyOperation_eq ‹_›) ?_)
    | (with_reducible apply Keeps.step ?_ (readSessionOp_keeps _ _ _) ?_)
    | (with_reducible apply Keeps.step ?_ (writeKey_keeps _ _ _) ?_)
    | (with_reducible apply Keeps.step ?_ (portAction_keeps _ _ _) ?_)
    | (with_reducible apply Keeps.step ?_ (waferReset_keeps _ _) ?_)
    | (with_reducible apply Keeps.step ?_ (selfTestOp_keeps _ _ _) ?_)
    | (with_reducible apply Keeps.step ?_ (selfTestOp_eq ‹_›) ?_)
    | (with_reducible apply Keeps.step ?_ (fieldReset_keeps _ _) ?_)
    | (split)
    | (dsimp only)
    | (dsimp +zetaDelta only)

theorem permitted_eq {signer : Role} {index sub : Nat} {bs : List Byte} {s : State} {x} {t : State} (h : permitted signer index sub bs s = (x, t)) : Keeps [.clk, .fld, .power, .ledger, .events, .sec, .parts, .tiles, .mem, .ecc, .mesh, .crest, .fabric, .settings, .pilot, .test, .regs] s t := by
  have := permitted_keeps signer index sub bs s
  rwa [h] at this

end Sys2Proof.Machine
end

