-- ==== Sys2Proof/Laws/Keeps/Dict.lean ====
section
/-! SUPPORT. What the operations of Machine/Dict.lean may write, and that they keep the invariant. -/

namespace Sys2Proof.Machine

open Sys2Proof

set_option linter.unusedTactic false
set_option linter.unreachableTactic false

theorem noteWrite_keeps (o : Obj) (sub : Nat) (s : State) : Keeps [.settings] s (noteWrite o sub s) := by
  unfold noteWrite
  repeat' first
    | (with_reducible exact Keeps.refl _ _)
    | (with_reducible assumption)
    | (exact rfl)
    | (exact ‹_ + _ = 32›)
    | (intro)
    | (extract_lets)
    | (with_reducible apply Keeps.ite)
    | (with_reducible apply Keeps.foldl)
    | (with_reducible apply Keeps.foldlSnd)
    | (with_reducible apply Keeps.step ?_ (noteChange_keeps _) ?_)
    | (with_reducible apply Keeps.step ?_ (dropCarried_keeps _ _) ?_)
    | (split)
    | (dsimp only)
    | (dsimp +zetaDelta only)

theorem applyPermit_keeps (want : Option (Nat × Nat × Nat)) (r : Role) (index sub len : Nat) (bs : List Byte) (s : State) : Keeps [.clk, .fld, .power, .ledger, .events, .sec, .parts, .tiles, .mem, .ecc, .mesh, .crest, .fabric, .settings, .pilot, .test, .regs] s (applyPermit want r index sub len bs s).2 := by
  unfold applyPermit
  repeat' first
    | (with_reducible exact Keeps.refl _ _)
    | (with_reducible assumption)
    | (exact rfl)
    | (exact ‹_ + _ = 32›)
    | (intro)
    | (extract_lets)
    | (with_reducible apply Keeps.ite)
    | (with_reducible apply Keeps.foldl)
    | (with_reducible apply Keeps.foldlSnd)
    | (with_reducible apply Keeps.step ?_ (permitted_keeps _ _ _ _ _) ?_)
    | (with_reducible apply Keeps.step ?_ (permitted_eq ‹_›) ?_)
    | (with_reducible apply Keeps.step ?_ (raise_keeps _ _) ?_)
    | (with_reducible apply Keeps.step ?_ (noteWrite_keeps _ _ _) ?_)
    | (split)
    | (dsimp only)
    | (dsimp +zetaDelta only)

theorem applyPermit_eq {want : Option (Nat × Nat × Nat)} {r : Role} {index sub len : Nat} {bs : List Byte} {s : State} {x} {t : State} (h : applyPermit want r index sub len bs s = (x, t)) : Keeps [.clk, .fld, .power, .ledger, .events, .sec, .parts, .tiles, .mem, .ecc, .mesh, .crest, .fabric, .settings, .pilot, .test, .regs] s t := by
  have := applyPermit_keeps want r index sub len bs s
  rwa [h] at this

theorem checkPermit_keeps (want : Option (Nat × Nat × Nat)) (bs : List Byte) (s : State) : Keeps [.clk, .fld, .power, .ledger, .events, .sec, .parts, .tiles, .mem, .ecc, .mesh, .crest, .fabric, .settings, .pilot, .test, .regs] s (checkPermit want bs s).2 := by
  unfold checkPermit
  repeat' first
    | (with_reducible exact Keeps.refl _ _)
    | (with_reducible assumption)
    | (exact rfl)
    | (exact ‹_ + _ = 32›)
    | (intro)
    | (extract_lets)
    | (with_reducible apply Keeps.ite)
    | (with_reducible apply Keeps.foldl)
    | (with_reducible apply Keeps.foldlSnd)
    | (fail_if_no_progress ((with_reducible apply Keeps.setSec) <;> [skip; (exact rfl)]))
    | (with_reducible apply Keeps.step ?_ (refuseRetire_keeps _ _) ?_)
    | (with_reducible apply Keeps.step ?_ (raise_keeps _ _) ?_)
    | (with_reducible apply Keeps.step ?_ (applyPermit_keeps _ _ _ _ _ _ _) ?_)
    | (with_reducible apply Keeps.step ?_ (applyPermit_eq ‹_›) ?_)
    | (split)
    | (dsimp only)
    | (dsimp +zetaDelta only)

theorem checkPermit_eq {want : Option (Nat × Nat × Nat)} {bs : List Byte} {s : State} {x} {t : State} (h : checkPermit want bs s = (x, t)) : Keeps [.clk, .fld, .power, .ledger, .events, .sec, .parts, .tiles, .mem, .ecc, .mesh, .crest, .fabric, .settings, .pilot, .test, .regs] s t := by
  have := checkPermit_keeps want bs s
  rwa [h] at this

theorem writeFound_keeps (w : Asker) (sdo : Bool) (o : Obj) (sub : Nat) (v : List Byte) (s : State) : Keeps [.time, .clk, .fld, .power, .ledger, .cope, .drag, .lease, .events, .sec, .parts, .tiles, .mem, .ecc, .mesh, .crest, .fabric, .settings, .pilot, .test, .regs] s (writeFound w sdo o sub v s).2 := by
  unfold writeFound
  repeat' first
    | (with_reducible exact Keeps.refl _ _)
    | (with_reducible assumption)
    | (exact rfl)
    | (exact ‹_ + _ = 32›)
    | (intro)
    | (extract_lets)
    | (with_reducible apply Keeps.ite)
    | (with_reducible apply Keeps.foldl)
    | (with_reducible apply Keeps.foldlSnd)
    | (with_reducible apply Keeps.step ?_ (raise_keeps _ _) ?_)
    | (with_reducible apply Keeps.step ?_ (noteWrite_keeps _ _ _) ?_)
    | (with_reducible apply Keeps.step ?_ (writeKey_keeps _ _ _) ?_)
    | (with_reducible apply Keeps.step ?_ (checkPermit_keeps _ _ _) ?_)
    | (with_reducible apply Keeps.step ?_ (checkPermit_eq ‹_›) ?_)
    | (with_reducible apply Keeps.step ?_ (imageChunkOp_keeps _ _) ?_)
    | (with_reducible apply Keeps.step ?_ (imageChunkOp_eq ‹_›) ?_)
    | (with_reducible apply Keeps.step ?_ (rangeRefused_keeps _ _ _) ?_)
    | (with_reducible apply Keeps.step ?_ (ruleWrite_keeps _ _ _ _ _) ?_)
    | (with_reducible apply Keeps.step ?_ (ruleWrite_eq ‹_›) ?_)
    | (split)
    | (dsimp only)
    | (dsimp +zetaDelta only)

theorem writeFound_eq {w : Asker} {sdo : Bool} {o : Obj} {sub : Nat} {v : List Byte} {s : State} {x} {t : State} (h : writeFound w sdo o sub v s = (x, t)) : Keeps [.time, .clk, .fld, .power, .ledger, .cope, .drag, .lease, .events, .sec, .parts, .tiles, .mem, .ecc, .mesh, .crest, .fabric, .settings, .pilot, .test, .regs] s t := by
  have := writeFound_keeps w sdo o sub v s
  rwa [h] at this

theorem writeObject_keeps (w : Asker) (sdo : Bool) (index sub : Nat) (v : List Byte) (s : State) : Keeps [.time, .clk, .fld, .power, .ledger, .cope, .drag, .lease, .events, .sec, .parts, .tiles, .mem, .ecc, .mesh, .crest, .fabric, .settings, .pilot, .test, .regs] s (writeObject w sdo index sub v s).2 := by
  unfold writeObject
  repeat' first
    | (with_reducible exact Keeps.refl _ _)
    | (with_reducible assumption)
    | (exact rfl)
    | (exact ‹_ + _ = 32›)
    | (intro)
    | (extract_lets)
    | (with_reducible apply Keeps.ite)
    | (with_reducible apply Keeps.foldl)
    | (with_reducible apply Keeps.foldlSnd)
    | (with_reducible apply Keeps.step ?_ (writeFound_keeps _ _ _ _ _ _) ?_)
    | (with_reducible apply Keeps.step ?_ (writeFound_eq ‹_›) ?_)
    | (split)
    | (dsimp only)
    | (dsimp +zetaDelta only)

theorem writeObject_eq {w : Asker} {sdo : Bool} {index sub : Nat} {v : List Byte} {s : State} {x} {t : State} (h : writeObject w sdo index sub v s = (x, t)) : Keeps [.time, .clk, .fld, .power, .ledger, .cope, .drag, .lease, .events, .sec, .parts, .tiles, .mem, .ecc, .mesh, .crest, .fabric, .settings, .pilot, .test, .regs] s t := by
  have := writeObject_keeps w sdo index sub v s
  rwa [h] at this

theorem sdoReply_keeps (code : Nat) (data : List Byte) (s : State) : Keeps [.pilot] s (sdoReply code data s) := by
  unfold sdoReply
  repeat' first
    | (with_reducible exact Keeps.refl _ _)
    | (with_reducible assumption)
    | (exact rfl)
    | (exact ‹_ + _ = 32›)
    | (intro)
    | (extract_lets)
    | (with_reducible apply Keeps.ite)
    | (with_reducible apply Keeps.foldl)
    | (with_reducible apply Keeps.foldlSnd)
    | (fail_if_no_progress ((with_reducible apply Keeps.setPilot) <;> [skip; (exact rfl)]))
    | (split)
    | (dsimp only)
    | (dsimp +zetaDelta only)

theorem sdoServe_keeps (index sub : Nat) (v : List Byte) (s : State) : Keeps [.time, .clk, .fld, .power, .ledger, .cope, .drag, .lease, .events, .sec, .parts, .tiles, .mem, .ecc, .mesh, .crest, .fabric, .settings, .pilot, .test, .regs] s (sdoServe index sub v s) := by
  unfold sdoServe
  repeat' first
    | (with_reducible exact Keeps.refl _ _)
    | (with_reducible assumption)
    | (exact rfl)
    | (exact ‹_ + _ = 32›)
    | (intro)
    | (extract_lets)
    | (with_reducible apply Keeps.ite)
    | (with_reducible apply Keeps.foldl)
    | (with_reducible apply Keeps.foldlSnd)
    | (with_reducible apply Keeps.step ?_ (writeObject_keeps _ _ _ _ _ _) ?_)
    | (with_reducible apply Keeps.step ?_ (writeObject_eq ‹_›) ?_)
    | (with_reducible apply Keeps.step ?_ (sdoReply_keeps _ _ _) ?_)
    | (split)
    | (dsimp only)
    | (dsimp +zetaDelta only)

theorem serveMailbox_keeps (s : State) : Keeps [.time, .clk, .fld, .power, .ledger, .cope, .drag, .lease, .events, .sec, .parts, .tiles, .mem, .ecc, .mesh, .crest, .fabric, .settings, .pilot, .test, .regs] s (serveMailbox s) := by
  unfold serveMailbox
  repeat' first
    | (with_reducible exact Keeps.refl _ _)
    | (with_reducible assumption)
    | (exact rfl)
    | (exact ‹_ + _ = 32›)
    | (intro)
    | (extract_lets)
    | (with_reducible apply Keeps.ite)
    | (with_reducible apply Keeps.foldl)
    | (with_reducible apply Keeps.foldlSnd)
    | (fail_if_no_progress ((with_reducible apply Keeps.setPilot) <;> [skip; (exact rfl)]))
    | (with_reducible apply Keeps.step ?_ (sdoServe_keeps _ _ _ _) ?_)
    | (split)
    | (dsimp only)
    | (dsimp +zetaDelta only)

theorem sdoWrite_keeps (index sub : Nat) (v : List Byte) (s : State) : Keeps [.time, .clk, .fld, .power, .ledger, .cope, .drag, .lease, .events, .sec, .parts, .tiles, .mem, .ecc, .mesh, .crest, .fabric, .settings, .pilot, .test, .regs] s (sdoWrite index sub v s) := by
  unfold sdoWrite
  repeat' first
    | (with_reducible exact Keeps.refl _ _)
    | (with_reducible assumption)
    | (exact rfl)
    | (exact ‹_ + _ = 32›)
    | (intro)
    | (extract_lets)
    | (with_reducible apply Keeps.ite)
    | (with_reducible apply Keeps.foldl)
    | (with_reducible apply Keeps.foldlSnd)
    | (fail_if_no_progress ((with_reducible apply Keeps.setPilot) <;> [skip; (exact rfl)]))
    | (with_reducible apply Keeps.step ?_ (sdoServe_keeps _ _ _ _) ?_)
    | (with_reducible apply Keeps.step ?_ (serveMailbox_keeps _) ?_)
    | (split)
    | (dsimp only)
    | (dsimp +zetaDelta only)

theorem mgmtReply_keeps (p : Pkt) (h : Hdr) (status abort oldest newest held lost : Nat) (value : List Byte) (s : State) : Keeps [.events, .fabric] s (mgmtReply p h status abort oldest newest held lost value s) := by
  unfold mgmtReply
  repeat' first
    | (with_reducible exact Keeps.refl _ _)
    | (with_reducible assumption)
    | (exact rfl)
    | (exact ‹_ + _ = 32›)
    | (intro)
    | (extract_lets)
    | (with_reducible apply Keeps.ite)
    | (with_reducible apply Keeps.foldl)
    | (with_reducible apply Keeps.foldlSnd)
    | (with_reducible apply Keeps.step ?_ (sendPkt_keeps _ _ _ _ _) ?_)
    | (split)
    | (dsimp only)
    | (dsimp +zetaDelta only)

theorem objReply_keeps (p : Pkt) (h : Hdr) (abort : Nat) (value : List Byte) (s : State) : Keeps [.events, .fabric] s (objReply p h abort value s) := by
  unfold objReply
  repeat' first
    | (with_reducible exact Keeps.refl _ _)
    | (with_reducible assumption)
    | (exact rfl)
    | (exact ‹_ + _ = 32›)
    | (intro)
    | (extract_lets)
    | (with_reducible apply Keeps.ite)
    | (with_reducible apply Keeps.foldl)
    | (with_reducible apply Keeps.foldlSnd)
    | (with_reducible apply Keeps.step ?_ (mgmtReply_keeps _ _ _ _ _ _ _ _ _ _) ?_)
    | (split)
    | (dsimp only)
    | (dsimp +zetaDelta only)

theorem fabricWrite_keeps (p : Pkt) (h : Hdr) (index sub : Nat) (v : List Byte) (s : State) : Keeps [.time, .clk, .fld, .power, .ledger, .cope, .drag, .lease, .events, .sec, .parts, .tiles, .mem, .ecc, .mesh, .crest, .fabric, .settings, .pilot, .test, .regs] s (fabricWrite p h index sub v s) := by
  unfold fabricWrite
  repeat' first
    | (with_reducible exact Keeps.refl _ _)
    | (with_reducible assumption)
    | (exact rfl)
    | (exact ‹_ + _ = 32›)
    | (intro)
    | (extract_lets)
    | (with_reducible apply Keeps.ite)
    | (with_reducible apply Keeps.foldl)
    | (with_reducible apply Keeps.foldlSnd)
    | (with_reducible apply Keeps.step ?_ (writeObject_keeps _ _ _ _ _ _) ?_)
    | (with_reducible apply Keeps.step ?_ (writeObject_eq ‹_›) ?_)
    | (with_reducible apply Keeps.step ?_ (objReply_keeps _ _ _ _ _) ?_)
    | (split)
    | (dsimp only)
    | (dsimp +zetaDelta only)

theorem fabricRead_keeps (p : Pkt) (h : Hdr) (index sub : Nat) (s : State) : Keeps [.events, .fabric] s (fabricRead p h index sub s) := by
  unfold fabricRead
  repeat' first
    | (with_reducible exact Keeps.refl _ _)
    | (with_reducible assumption)
    | (exact rfl)
    | (exact ‹_ + _ = 32›)
    | (intro)
    | (extract_lets)
    | (with_reducible apply Keeps.ite)
    | (with_reducible apply Keeps.foldl)
    | (with_reducible apply Keeps.foldlSnd)
    | (with_reducible apply Keeps.step ?_ (objReply_keeps _ _ _ _ _) ?_)
    | (split)
    | (dsimp only)
    | (dsimp +zetaDelta only)

theorem viaWrite_keeps (self : Instr) (via : Via) (index sub : Nat) (v : List Byte) (s : State) : Keeps [.time, .clk, .fld, .power, .ledger, .cope, .drag, .lease, .events, .sec, .parts, .tiles, .mem, .ecc, .mesh, .crest, .fabric, .settings, .pilot, .test, .regs] s (viaWrite self via index sub v s) := by
  unfold viaWrite
  repeat' first
    | (with_reducible exact Keeps.refl _ _)
    | (with_reducible assumption)
    | (exact rfl)
    | (exact ‹_ + _ = 32›)
    | (intro)
    | (extract_lets)
    | (with_reducible apply Keeps.ite)
    | (with_reducible apply Keeps.foldl)
    | (with_reducible apply Keeps.foldlSnd)
    | (with_reducible apply Keeps.step ?_ (sdoWrite_keeps _ _ _ _) ?_)
    | (with_reducible apply Keeps.trans ?_ (ingress_keeps _ _ _ _ ?_ ?_))
    | (with_reducible apply Keeps.step ?_ (fabricWrite_keeps _ _ _ _ _ _) ?_)
    | (split)
    | (dsimp only)
    | (dsimp +zetaDelta only)

theorem viaNum_keeps (self : Instr) (via : Via) (index sub n v : Nat) (s : State) : Keeps [.time, .clk, .fld, .power, .ledger, .cope, .drag, .lease, .events, .sec, .parts, .tiles, .mem, .ecc, .mesh, .crest, .fabric, .settings, .pilot, .test, .regs] s (viaNum self via index sub n v s) := by
  unfold viaNum
  repeat' first
    | (with_reducible exact Keeps.refl _ _)
    | (with_reducible assumption)
    | (exact rfl)
    | (exact ‹_ + _ = 32›)
    | (intro)
    | (extract_lets)
    | (with_reducible apply Keeps.ite)
    | (with_reducible apply Keeps.foldl)
    | (with_reducible apply Keeps.foldlSnd)
    | (with_reducible apply Keeps.step ?_ (viaWrite_keeps _ _ _ _ _ _) ?_)
    | (split)
    | (dsimp only)
    | (dsimp +zetaDelta only)

end Sys2Proof.Machine
end

