-- ==== Sys2Proof/Laws/Ingress.lean ====
section
/-! SUPPORT. What the arrival of a packet does around its command: the acceptance before it and the reorder stage after it. -/

namespace Sys2Proof

open Machine

-- One proof at a time, so that few threads hold memory.
set_option Elab.async false

theorem Accepted.refl (s : State) : Accepted s s :=
  ⟨(Keeps.refl _ s).only, ⟨_, rfl⟩, rfl, rfl, rfl, rfl, ⟨_, _, _, _, rfl⟩, fun _ => rfl⟩

theorem Accepted.trans {s t u : State} (a : Accepted s t) (b : Accepted t u) : Accepted s u := by
  obtain ⟨a1, ⟨m, a2⟩, a3, a4, a5, a6, ⟨p, q, r, w, a7⟩, a8⟩ := a
  obtain ⟨b1, ⟨m', b2⟩, b3, b4, b5, b6, ⟨p', q', r', w', b7⟩, b8⟩ := b
  exact ⟨a1.trans b1, ⟨m', by rw [b2, a2]⟩, b3.trans a3, b4.trans a4, b5.trans a5, b6.trans a6, ⟨p', q', r', w', by rw [b7, a7]⟩,
    fun i => (b8 i).trans (a8 i)⟩

theorem accepted_raise (e : EvReq) (s : State) : Accepted s (raise e s) :=
  ⟨(raise_keeps e s).only.mono (by decide), ⟨s.power.ringActivity, by simp⟩, raise_queue .., raise_selected .., raise_nextSeq ..,
    raise_newest .., ⟨s.fabric.ports, s.fabric.rx, s.fabric.ctl, s.fabric.wire, by simp⟩, fun i => by simp [getPort]⟩

theorem accepted_ringCount (a n : Nat) (s : State) : Accepted s (ringCount a n s) :=
  ⟨(ringCount_keeps a n s).only.mono (by decide), ⟨_, rfl⟩, rfl, rfl, rfl, rfl, ⟨_, _, _, _, rfl⟩, fun _ => rfl⟩

theorem accepted_modPort (i : Nat) (g : Port → Port) (s : State) (hg : ∀ p : Port, portLine (g p) = portLine p) : Accepted s (modPort i g s) := by
  refine ⟨(modPort_keeps i g s).only.mono (by decide), ⟨_, rfl⟩, rfl, rfl, rfl, rfl, ⟨_, _, _, _, rfl⟩, fun x => ?_⟩
  rw [getPort_modPort]
  split
  · rename_i h
    rw [hg, h]
  · rfl

theorem accepted_modRx (n d : Nat) (g : FlowRx → FlowRx) (s : State) : Accepted s (modRx n d g s) :=
  ⟨(modRx_keeps n d g s).only.mono (by decide), ⟨_, rfl⟩, rfl, rfl, rfl, rfl, ⟨_, _, _, _, rfl⟩, fun _ => rfl⟩

theorem accepted_foldl {α : Type} (g : State → α → State) (hg : ∀ s a, Accepted s (g s a)) (l : List α) (s : State) :
    Accepted s (l.foldl g s) := by
  induction l generalizing s with
  | nil => exact Accepted.refl s
  | cons a l ih => exact (hg s a).trans (ih _)

theorem accepted_wire (w : List (Nat × WirePkt)) (s : State) :
    Accepted s { s with fabric := { s.fabric with wire := w } } :=
  ⟨fun r hr => by cases r <;> first | rfl | simp_all, ⟨_, rfl⟩, rfl, rfl, rfl, rfl, ⟨_, _, _, _, rfl⟩, fun _ => rfl⟩

theorem accepted_ctl (c : AMap CtlCount) (s : State) :
    Accepted s { s with fabric := { s.fabric with ctl := c } } :=
  ⟨fun r hr => by cases r <;> first | rfl | simp_all, ⟨_, rfl⟩, rfl, rfl, rfl, rfl, ⟨_, _, _, _, rfl⟩, fun _ => rfl⟩

theorem accepted_startPacket (i : Nat) (w : WirePkt) (s : State) : Accepted s (startPacket i w s) := by
  refine ((accepted_modPort i _ s ?_).trans (accepted_ringCount _ _ _)).trans (accepted_wire _ _)
  exact fun _ => rfl

theorem accepted_drainN (i n : Nat) (s : State) : Accepted s (drainN i n s) := by
  induction n generalizing s with
  | zero => exact Accepted.refl s
  | succ n ih =>
    unfold drainN
    split
    · exact Accepted.refl s
    · exact (accepted_startPacket ..).trans (ih _)

theorem accepted_drainPort (i : Nat) (s : State) : Accepted s (drainPort i s) := by
  unfold drainPort
  split
  · exact accepted_drainN ..
  · exact Accepted.refl s

theorem accepted_putOnPort (i : Nat) (w : WirePkt) (s : State) : Accepted s (putOnPort i w s) := by
  refine ((accepted_modPort i _ s ?_).trans (accepted_ringCount _ _ _)).trans (accepted_drainPort _ _)
  exact fun _ => rfl

theorem accepted_sendUnseq (node domain opcode : Nat) (data : List Byte) (alt : Nat × Nat) (s : State) :
    Accepted s (sendUnseq node domain opcode data alt s) := by
  unfold sendUnseq
  dsimp only
  split
  · exact accepted_raise _ _
  · split
    · exact Accepted.refl s
    · exact (accepted_ctl _ s).trans (accepted_putOnPort _ _ _)

theorem accepted_sendAck (p : Pkt) (n : Nat) (refused : Bool) (s : State) : Accepted s (sendAck p n refused s) :=
  accepted_sendUnseq ..

theorem accepted_received (i account size : Nat) (s : State) : Accepted s (received i account size s) := by
  refine (accepted_modPort i _ s ?_).trans (accepted_ringCount _ _ _)
  exact fun _ => rfl

theorem accepted_restartRx (p : Pkt) (s : State) : Accepted s (restartRx p s) := by
  unfold restartRx
  split
  · exact accepted_modRx ..
  · exact Accepted.refl s

theorem Advanced.refl (x : State) : Advanced x x := ⟨(Keeps.refl _ x).only, ⟨_, _, rfl⟩⟩

theorem Advanced.trans {x y z : State} (a : Advanced x y) (b : Advanced y z) : Advanced x z := by
  obtain ⟨a1, p, q, a2⟩ := a
  obtain ⟨b1, p', q', b2⟩ := b
  exact ⟨a1.trans b1, p', q', by rw [b2, a2]⟩

theorem advanced_modRx (n d : Nat) (g : FlowRx → FlowRx) (s : State) : Advanced s (modRx n d g s) :=
  ⟨(modRx_keeps n d g s).only.mono (by decide), _, _, rfl⟩

theorem advanced_released (l : List Instr) (s : State) : Advanced s { s with fabric := { s.fabric with released := l } } :=
  ⟨fun r hr => by cases r <;> first | rfl | simp_all, _, _, rfl⟩

theorem advanced_advanceRx (node domain n : Nat) (s : State) : Advanced s (advanceRx node domain n s) := by
  induction n generalizing s with
  | zero => exact Advanced.refl s
  | succ n ih =>
    unfold advanceRx
    dsimp only
    split
    · exact (advanced_modRx ..).trans (ih _)
    · split
      · exact Advanced.refl s
      · exact ((advanced_modRx ..).trans (advanced_released _ _)).trans (ih _)

theorem advanced_advanceAll (node domain : Nat) (s : State) : Advanced s (advanceAll node domain s) := advanced_advanceRx ..

/-! ## The arrival -/

theorem Accepted.slots {s u : State} (h : Accepted s u) : u.sec = s.sec := h.only .sec (by decide)

theorem Accepted.parts {s u : State} (h : Accepted s u) : u.parts = s.parts := h.only .parts (by decide)

theorem Accepted.regs {s u : State} (h : Accepted s u) : u.regs = s.regs := h.only .regs (by decide)

theorem Accepted.fld {s u : State} (h : Accepted s u) : u.fld = s.fld := h.only .fld (by decide)

theorem Accepted.tx {s u : State} (h : Accepted s u) : u.fabric.tx = s.fabric.tx := by
  obtain ⟨a, b, c, d, e⟩ := h.fabric
  rw [e]

theorem domainTaken_congr {s u : State} (hp : u.parts = s.parts) (hr : u.regs = s.regs) (d : Nat) : domainTaken u d = domainTaken s d := by
  unfold domainTaken mgmtDomain partOfDomain getPart reg
  rw [hp, hr]

theorem authentic_congr {s u : State} (h : u.sec = s.sec) (p : Pkt) (n : Nat) : authentic u p n = authentic s p n := by
  unfold authentic slotGen slotKey
  rw [h]

theorem getRx_congr {s u : State} (h : u.fabric.rx = s.fabric.rx) (n d : Nat) : getRx u n d = getRx s n d := by
  unfold getRx
  rw [h]

theorem rxFor_congr {s u : State} (h : u.fabric.rx = s.fabric.rx) (p : Pkt) : rxFor p u = rxFor p s := by
  unfold rxFor
  rw [getRx_congr h]

theorem getRx_restartRx (p : Pkt) (s : State) : getRx (restartRx p s) p.node p.domain = rxFor p s := by
  unfold restartRx rxFor
  dsimp only
  split
  · exact getRx_modRx_self ..
  · rfl

/-- A packet that is delivered: its command acts on an accepted state, and the reorder stage goes on after it. -/
theorem ingress_arrives {p : Pkt} {s : State} (h : Arrives p s) (self : Instr) :
    ∃ u, Accepted s u ∧ ∀ act, ∃ v, ingress p self act s = v ∧ Advanced (act u) v := by
  obtain ⟨h1 | h1, hd⟩ := h
  · refine ⟨sendAck p (rxFor p s).next false (modRx p.node p.domain (fun r => { r with delivered := r.delivered + 1 })
      (modRx p.node p.domain (fun r => { r with next := r.next + 1 })
        (restartRx p (received p.port (domainAccount s p.domain) (heldBytes self) s)))), ?_,
      fun act => ⟨advanceAll p.node p.domain (act _), ?_, advanced_advanceAll ..⟩⟩
    · exact ((((accepted_received ..).trans (accepted_restartRx ..)).trans (accepted_modRx ..)).trans (accepted_modRx ..)).trans
        (accepted_sendAck ..)
    · have hrec := accepted_received p.port (domainAccount s p.domain) (heldBytes self) s
      have hrst := hrec.trans (accepted_restartRx p _)
      have hrx : getRx (restartRx p (received p.port (domainAccount s p.domain) (heldBytes self) s)) p.node p.domain = rxFor p s := by
        rw [getRx_restartRx]
        exact rxFor_congr rfl p
      have hle : ¬ p.gen < (getRx s p.node p.domain).gen := by
        have := h1.gen
        unfold rxFor at this
        dsimp only at this
        split at this <;> omega
      have hver : authentic (received p.port (domainAccount s p.domain) (heldBytes self) s) p
          (if (getRx s p.node p.domain).gen < p.gen then 0 else (getRx s p.node p.domain).next) = true := by
        rw [authentic_congr hrec.slots]
        have := h1.verified
        unfold rxFor at this
        dsimp only at this
        split at this
        · rw [if_pos ‹_›]
          exact this
        · rw [if_neg ‹_›]
          exact this
      unfold ingress linkTake
      dsimp only
      rw [if_neg (by simpa using h1.unmet), if_neg (by simp [h1.up]), if_pos h1.taken]
      unfold sequenced
      dsimp only
      have hg : getRx (received p.port (domainAccount s p.domain) (heldBytes self) s) p.node p.domain = getRx s p.node p.domain := rfl
      rw [hg, if_neg (by simp [hver]), if_neg hle, hrx, h1.next]
      have hcl : ((rxFor p s).closed.contains (rxFor p s).next || (rxFor p s).held.any (fun h => h.1 == (rxFor p s).next)) = false := by
        have a := h1.open'
        have b := h1.single
        simp only [Bool.or_eq_false_iff, List.any_eq_false]
        exact ⟨by simpa using a, fun x hx => by simpa using b x hx⟩
      rw [if_neg (by rw [hcl]; simp), if_neg (Nat.lt_irrefl _), if_neg (Nat.lt_irrefl _)]
      unfold deliver
      rw [if_pos]
      have hm := hrst.trans (accepted_modRx p.node p.domain (fun r => { r with next := r.next + 1 }) _)
      rw [domainTaken_congr hm.parts hm.regs]
      exact hd
  · refine ⟨sendAck p (extendSeq (getRx s p.node p.domain).next p.seq) false
      (modRx p.node p.domain (fun r => { r with delivered := r.delivered + 1 })
        (modRx p.node p.domain (fun r => { r with passed := r.passed.erase (extendSeq (getRx s p.node p.domain).next p.seq) }) s)),
      ((accepted_modRx ..).trans (accepted_modRx ..)).trans (accepted_sendAck ..), fun act => ⟨_, ?_, Advanced.refl _⟩⟩
    unfold ingress
    dsimp only
    rw [if_pos ⟨h1.gen, by simpa using h1.passed⟩]
    unfold deliver
    have hm := accepted_modRx p.node p.domain
      (fun r => { r with passed := r.passed.erase (extendSeq (getRx s p.node p.domain).next p.seq) }) s
    rw [if_pos (by rw [domainTaken_congr hm.parts hm.regs]; exact hd)]

end Sys2Proof
end

