-- ==== Sys2Proof/Laws/Keeps/AssayFam.lean ====
section
/-! SUPPORT. What the operations of Machine/AssayFam.lean may write, and that they keep the invariant. -/

namespace Sys2Proof.Machine

open Sys2Proof

set_option linter.unusedTactic false
set_option linter.unreachableTactic false

theorem assayLog_keeps (kind a b : Nat) (s : State) : Keeps [.assay] s (assayLog kind a b s) := by
  unfold assayLog
  extract_lets v
  split
  · next hv =>
    refine Keeps.setAssay (Keeps.refl _ _) rfl (fun h => ?_)
    simp only [List.length_append, List.length_singleton]
    exact hv
  · exact Keeps.ite (Keeps.setAssay (Keeps.refl _ _) rfl (fun h => h)) (Keeps.refl _ _)

theorem putReadout_keeps (s : State) : Keeps [.assay] s (putReadout s) := by
  unfold putReadout
  repeat' first
    | (with_reducible exact Keeps.refl _ _)
    | (with_reducible assumption)
    | (exact rfl)
    | (exact ‹_ + _ = 32›)
    | (intro)
    | (extract_lets)
    | (with_reducible apply Keeps.ite)
    | (with_reducible apply Keeps.foldl)
    | (with_reducible apply Keeps.foldlSnd)
    | (fail_if_no_progress ((with_reducible apply Keeps.setAssay) <;> [skip; (exact rfl); (first | exact fun h => h | exact fun _ => rfl | exact flowsOk_nil)]))
    | (split)
    | (dsimp only)
    | (dsimp +zetaDelta only)

theorem frameEvents_keeps (old new : Mirror) (c : Ctl) (s : State) : Keeps [.events] s (frameEvents old new c s) := by
  unfold frameEvents
  repeat' first
    | (with_reducible exact Keeps.refl _ _)
    | (with_reducible assumption)
    | (exact rfl)
    | (exact ‹_ + _ = 32›)
    | (intro)
    | (extract_lets)
    | (with_reducible apply Keeps.ite)
    | (with_reducible apply Keeps.foldl)
    | (with_reducible apply Keeps.foldlSnd)
    | (with_reducible apply Keeps.step ?_ (raise_keeps _ _) ?_)
    | (split)
    | (dsimp only)
    | (dsimp +zetaDelta only)

theorem takeMirror_keeps (c : Ctl) (bs : List Byte) (s : State) : Keeps [.time, .fld, .power, .assay, .ledger, .cope, .drag, .lease, .events, .sec, .parts, .tiles, .mem, .ecc, .mesh, .crest, .fabric, .settings, .pilot, .regs] s (takeMirror c bs s) := by
  unfold takeMirror
  repeat' first
    | (with_reducible exact Keeps.refl _ _)
    | (with_reducible assumption)
    | (exact rfl)
    | (exact ‹_ + _ = 32›)
    | (intro)
    | (extract_lets)
    | (with_reducible apply Keeps.ite)
    | (with_reducible apply Keeps.foldl)
    | (with_reducible apply Keeps.foldlSnd)
    | (fail_if_no_progress ((with_reducible apply Keeps.setAssay) <;> [skip; (exact rfl); (first | exact fun h => h | exact fun _ => rfl | exact flowsOk_nil)]))
    | (fail_if_no_progress ((with_reducible apply Keeps.setLedger) <;> [skip; (exact rfl)]))
    | (with_reducible apply Keeps.step ?_ (modCtl_keeps _ _ _) ?_)
    | (with_reducible apply Keeps.step ?_ (frameEvents_keeps _ _ _ _) ?_)
    | (with_reducible apply Keeps.step ?_ (wakeFire_keeps _ _) ?_)
    | (split)
    | (dsimp only)
    | (dsimp +zetaDelta only)

theorem execMirrorFrame_keeps (c : Ctl) (bytes : List Byte) (s : State) {t : State} (h : execMirrorFrame c bytes s = .next t) : Keeps [.time, .fld, .power, .assay, .ledger, .cope, .drag, .lease, .events, .sec, .parts, .tiles, .mem, .ecc, .mesh, .crest, .fabric, .settings, .pilot, .regs] s t := by
  unfold execMirrorFrame at h
  injection h with h
  subst h
  repeat' first
    | (with_reducible exact Keeps.refl _ _)
    | (with_reducible assumption)
    | (exact rfl)
    | (exact ‹_ + _ = 32›)
    | (intro)
    | (extract_lets)
    | (with_reducible apply Keeps.ite)
    | (with_reducible apply Keeps.foldl)
    | (with_reducible apply Keeps.foldlSnd)
    | (with_reducible apply Keeps.step ?_ (takeMirror_keeps _ _ _) ?_)
    | (with_reducible apply Keeps.step ?_ (modCtl_keeps _ _ _) ?_)
    | (split)
    | (dsimp only)
    | (dsimp +zetaDelta only)

theorem execMirrorLinkLoss_keeps (c : Ctl) (s : State) {t : State} (h : execMirrorLinkLoss c s = .next t) : Keeps [.time, .cope, .drag, .events, .pilot] s t := by
  unfold execMirrorLinkLoss at h
  injection h with h
  subst h
  repeat' first
    | (with_reducible exact Keeps.refl _ _)
    | (with_reducible assumption)
    | (exact rfl)
    | (exact ‹_ + _ = 32›)
    | (intro)
    | (extract_lets)
    | (with_reducible apply Keeps.ite)
    | (with_reducible apply Keeps.foldl)
    | (with_reducible apply Keeps.foldlSnd)
    | (with_reducible apply Keeps.step ?_ (modCtl_keeps _ _ _) ?_)
    | (with_reducible apply Keeps.step ?_ (advanceTo_keeps _ _) ?_)
    | (with_reducible apply Keeps.step ?_ (raise_keeps _ _) ?_)
    | (split)
    | (dsimp only)
    | (dsimp +zetaDelta only)

theorem execLedgerClose_keeps (s : State) {t : State} (h : execLedgerClose s = .next t) : Keeps [.time, .power, .ledger, .cope, .drag, .events, .parts, .pilot] s t := by
  unfold execLedgerClose at h
  injection h with h
  subst h
  repeat' first
    | (with_reducible exact Keeps.refl _ _)
    | (with_reducible assumption)
    | (exact rfl)
    | (exact ‹_ + _ = 32›)
    | (intro)
    | (extract_lets)
    | (with_reducible apply Keeps.ite)
    | (with_reducible apply Keeps.foldl)
    | (with_reducible apply Keeps.foldlSnd)
    | (fail_if_no_progress ((with_reducible apply Keeps.setLedger) <;> [skip; (exact rfl)]))
    | (with_reducible apply Keeps.step ?_ (msTicks_keeps _ _) ?_)
    | (with_reducible apply Keeps.step ?_ (advanceTo_keeps _ _) ?_)
    | (with_reducible apply Keeps.step ?_ (closeSecond_keeps _) ?_)
    | (split)
    | (dsimp only)
    | (dsimp +zetaDelta only)

theorem execMetrologicalPulse_keeps (s : State) {t : State} (h : execMetrologicalPulse s = .next t) : Keeps [.assay] s t := by
  unfold execMetrologicalPulse at h
  injection h with h
  subst h
  repeat' first
    | (with_reducible exact Keeps.refl _ _)
    | (with_reducible assumption)
    | (exact rfl)
    | (exact ‹_ + _ = 32›)
    | (intro)
    | (extract_lets)
    | (with_reducible apply Keeps.ite)
    | (with_reducible apply Keeps.foldl)
    | (with_reducible apply Keeps.foldlSnd)
    | (fail_if_no_progress ((with_reducible apply Keeps.setAssay) <;> [skip; (exact rfl); (first | exact fun h => h | exact fun _ => rfl | exact flowsOk_nil)]))
    | (split)
    | (dsimp only)
    | (dsimp +zetaDelta only)

theorem execDiagnosticPulse_keeps (s : State) {t : State} (h : execDiagnosticPulse s = .next t) : Keeps [.assay] s t := by
  unfold execDiagnosticPulse at h
  injection h with h
  subst h
  repeat' first
    | (with_reducible exact Keeps.refl _ _)
    | (with_reducible assumption)
    | (exact rfl)
    | (exact ‹_ + _ = 32›)
    | (intro)
    | (extract_lets)
    | (with_reducible apply Keeps.ite)
    | (with_reducible apply Keeps.foldl)
    | (with_reducible apply Keeps.foldlSnd)
    | (fail_if_no_progress ((with_reducible apply Keeps.setAssay) <;> [skip; (exact rfl); (first | exact fun h => h | exact fun _ => rfl | exact flowsOk_nil)]))
    | (split)
    | (dsimp only)
    | (dsimp +zetaDelta only)

theorem execLedCheckWindow_keeps (drive optical : Bool) (s : State) {t : State} (h : execLedCheckWindow drive optical s = .next t) : Keeps [.assay] s t := by
  unfold execLedCheckWindow at h
  injection h with h
  subst h
  repeat' first
    | (with_reducible exact Keeps.refl _ _)
    | (with_reducible assumption)
    | (exact rfl)
    | (exact ‹_ + _ = 32›)
    | (intro)
    | (extract_lets)
    | (with_reducible apply Keeps.ite)
    | (with_reducible apply Keeps.foldl)
    | (with_reducible apply Keeps.foldlSnd)
    | (fail_if_no_progress ((with_reducible apply Keeps.setAssay) <;> [skip; (exact rfl); (first | exact fun h => h | exact fun _ => rfl | exact flowsOk_nil)]))
    | (with_reducible apply Keeps.step ?_ (assayLog_keeps _ _ _ _) ?_)
    | (split)
    | (dsimp only)
    | (dsimp +zetaDelta only)

theorem execProgrammingMode_keeps (sealPressed password : Bool) (s : State) {t : State} (h : execProgrammingMode sealPressed password s = .next t) : Keeps [.assay] s t := by
  unfold execProgrammingMode at h
  injection h with h
  subst h
  repeat' first
    | (with_reducible exact Keeps.refl _ _)
    | (with_reducible assumption)
    | (exact rfl)
    | (exact ‹_ + _ = 32›)
    | (intro)
    | (extract_lets)
    | (with_reducible apply Keeps.ite)
    | (with_reducible apply Keeps.foldl)
    | (with_reducible apply Keeps.foldlSnd)
    | (fail_if_no_progress ((with_reducible apply Keeps.setAssay) <;> [skip; (exact rfl); (first | exact fun h => h | exact fun _ => rfl | exact flowsOk_nil)]))
    | (with_reducible apply Keeps.step ?_ (assayLog_keeps _ _ _ _) ?_)
    | (split)
    | (dsimp only)
    | (dsimp +zetaDelta only)

theorem execSealSwitchRelease_keeps (s : State) {t : State} (h : execSealSwitchRelease s = .next t) : Keeps [.assay] s t := by
  unfold execSealSwitchRelease at h
  injection h with h
  subst h
  repeat' first
    | (with_reducible exact Keeps.refl _ _)
    | (with_reducible assumption)
    | (exact rfl)
    | (exact ‹_ + _ = 32›)
    | (intro)
    | (extract_lets)
    | (with_reducible apply Keeps.ite)
    | (with_reducible apply Keeps.foldl)
    | (with_reducible apply Keeps.foldlSnd)
    | (fail_if_no_progress ((with_reducible apply Keeps.setAssay) <;> [skip; (exact rfl); (first | exact fun h => h | exact fun _ => rfl | exact flowsOk_nil)]))
    | (split)
    | (dsimp only)
    | (dsimp +zetaDelta only)

theorem execAssayParameterChange_keeps (c : AssayChange) (s : State) {t : State} (h : execAssayParameterChange c s = .next t) : Keeps [.assay] s t := by
  unfold execAssayParameterChange at h
  injection h with h
  subst h
  repeat' first
    | (with_reducible exact Keeps.refl _ _)
    | (with_reducible assumption)
    | (exact rfl)
    | (exact ‹_ + _ = 32›)
    | (intro)
    | (extract_lets)
    | (with_reducible apply Keeps.ite)
    | (with_reducible apply Keeps.foldl)
    | (with_reducible apply Keeps.foldlSnd)
    | (fail_if_no_progress ((with_reducible apply Keeps.setAssay) <;> [skip; (exact rfl); (first | exact fun h => h | exact fun _ => rfl | exact flowsOk_nil)]))
    | (with_reducible apply Keeps.step ?_ (assayLog_keeps _ _ _ _) ?_)
    | (split)
    | (dsimp only)
    | (dsimp +zetaDelta only)

theorem execLogClear_keeps (s : State) {t : State} (h : execLogClear s = .next t) : Keeps [.assay] s t := by
  unfold execLogClear at h
  injection h with h
  subst h
  refine Keeps.ite (Keeps.refl _ _) ?_
  refine Keeps.step ?_ (assayLog_keeps _ _ _ _) rfl
  exact Keeps.setAssay ((putReadout_keeps _).mono rfl) rfl (fun _ => Nat.zero_le _)

theorem execDataReadout_keeps (s : State) {t : State} (h : execDataReadout s = .next t) : Keeps [.assay] s t := by
  unfold execDataReadout at h
  injection h with h
  subst h
  repeat' first
    | (with_reducible exact Keeps.refl _ _)
    | (with_reducible assumption)
    | (exact rfl)
    | (exact ‹_ + _ = 32›)
    | (intro)
    | (extract_lets)
    | (with_reducible apply Keeps.ite)
    | (with_reducible apply Keeps.foldl)
    | (with_reducible apply Keeps.foldlSnd)
    | (with_reducible apply Keeps.step ?_ (putReadout_keeps _) ?_)
    | (split)
    | (dsimp only)
    | (dsimp +zetaDelta only)

theorem execCaseOpened_keeps (s : State) {t : State} (h : execCaseOpened s = .next t) : Keeps [.assay] s t := by
  unfold execCaseOpened at h
  injection h with h
  subst h
  repeat' first
    | (with_reducible exact Keeps.refl _ _)
    | (with_reducible assumption)
    | (exact rfl)
    | (exact ‹_ + _ = 32›)
    | (intro)
    | (extract_lets)
    | (with_reducible apply Keeps.ite)
    | (with_reducible apply Keeps.foldl)
    | (with_reducible apply Keeps.foldlSnd)
    | (fail_if_no_progress ((with_reducible apply Keeps.setAssay) <;> [skip; (exact rfl); (first | exact fun h => h | exact fun _ => rfl | exact flowsOk_nil)]))
    | (with_reducible apply Keeps.step ?_ (assayLog_keeps _ _ _ _) ?_)
    | (split)
    | (dsimp only)
    | (dsimp +zetaDelta only)

end Sys2Proof.Machine
end

