-- ==== Sys2Proof/Laws/Keeps/CellOps.lean ====
section
/-! SUPPORT. What the operations of Machine/CellOps.lean may write, and that they keep the invariant. -/

namespace Sys2Proof.Machine

open Sys2Proof

set_option linter.unusedTactic false
set_option linter.unreachableTactic false

theorem atRunning_keeps {w : List Region} (k : Nat) (self : Option Instr) (act : State → State) (s : State) (hact : ∀ s, Keeps w s (act s))
    (hw : List.all [.tiles] (w.contains ·) = true) : Keeps w s (atRunning k self act s) := by
  unfold atRunning
  repeat' first
    | (with_reducible exact Keeps.refl _ _)
    | (with_reducible assumption)
    | (exact rfl)
    | (exact ‹_ + _ = 32›)
    | (intro)
    | (extract_lets)
    | (with_reducible apply Keeps.ite)
    | (with_reducible apply Keeps.foldl)
    | (with_reducible apply Keeps.foldlSnd)
    | (with_reducible apply Keeps.trans ?_ (hact _))
    | (with_reducible apply Keeps.step ?_ (modTile_keeps _ _ _) ?_)
    | (exact cover rfl hw)
    | ((simp_all; done))
    | (split)
    | (dsimp only)
    | (dsimp +zetaDelta only)

theorem settleCC_keeps (k slot : Nat) (s : State) : Keeps [.power, .events, .parts, .tiles, .mesh, .crest, .fabric] s (settleCC k slot s) := by
  unfold settleCC
  repeat' first
    | (with_reducible exact Keeps.refl _ _)
    | (with_reducible assumption)
    | (exact rfl)
    | (exact ‹_ + _ = 32›)
    | (intro)
    | (extract_lets)
    | (with_reducible apply Keeps.ite)
    | (with_reducible apply Keeps.foldl)
    | (with_reducible apply Keeps.foldlSnd)
    | (with_reducible apply Keeps.step ?_ (modCC_keeps _ _ _ _) ?_)
    | (with_reducible apply Keeps.step ?_ (cellFault_keeps _ _ _ _ _) ?_)
    | (split)
    | (dsimp only)
    | (dsimp +zetaDelta only)

theorem ccArrive_keeps (k slot b : Nat) (a : Arrival) (s : State) : Keeps [.power, .events, .parts, .tiles, .mesh, .crest, .fabric] s (ccArrive k slot b a s) := by
  unfold ccArrive
  repeat' first
    | (with_reducible exact Keeps.refl _ _)
    | (with_reducible assumption)
    | (exact rfl)
    | (exact ‹_ + _ = 32›)
    | (intro)
    | (extract_lets)
    | (with_reducible apply Keeps.ite)
    | (with_reducible apply Keeps.foldl)
    | (with_reducible apply Keeps.foldlSnd)
    | (with_reducible apply Keeps.step ?_ (cellFault_keeps _ _ _ _ _) ?_)
    | (with_reducible apply Keeps.step ?_ (settleCC_keeps _ _ _) ?_)
    | (with_reducible apply Keeps.step ?_ (modCC_keeps _ _ _ _) ?_)
    | (split)
    | (dsimp only)
    | (dsimp +zetaDelta only)

theorem sendCredit_keeps (k slot : Nat) (dst : CellRef) (target : Nat) (s : State) : Keeps [.power, .parts, .mesh] s (sendCredit k slot dst target s) := by
  unfold sendCredit
  repeat' first
    | (with_reducible exact Keeps.refl _ _)
    | (with_reducible assumption)
    | (exact rfl)
    | (exact ‹_ + _ = 32›)
    | (intro)
    | (extract_lets)
    | (with_reducible apply Keeps.ite)
    | (with_reducible apply Keeps.foldl)
    | (with_reducible apply Keeps.foldlSnd)
    | (with_reducible apply Keeps.step ?_ (send_keeps _ _) ?_)
    | (split)
    | (dsimp only)
    | (dsimp +zetaDelta only)

theorem sendToken_keeps (k slot : Nat) (dst : CellRef) (target : Nat) (tag : BitVec 16) (rows cols : Nat) (s : State) : Keeps [.power, .parts, .mesh] s (sendToken k slot dst target tag rows cols s) := by
  unfold sendToken
  repeat' first
    | (with_reducible exact Keeps.refl _ _)
    | (with_reducible assumption)
    | (exact rfl)
    | (exact ‹_ + _ = 32›)
    | (intro)
    | (extract_lets)
    | (with_reducible apply Keeps.ite)
    | (with_reducible apply Keeps.foldl)
    | (with_reducible apply Keeps.foldlSnd)
    | (with_reducible apply Keeps.step ?_ (send_keeps _ _) ?_)
    | (split)
    | (dsimp only)
    | (dsimp +zetaDelta only)

theorem castCtl_keeps (k slot : Nat) (cs : List CellRef) (target kind : Nat) (tag : BitVec 16) (body : List Byte) (s : State) : Keeps [.power, .parts, .mesh] s (castCtl k slot cs target kind tag body s) := by
  unfold castCtl
  repeat' first
    | (with_reducible exact Keeps.refl _ _)
    | (with_reducible assumption)
    | (exact rfl)
    | (exact ‹_ + _ = 32›)
    | (intro)
    | (extract_lets)
    | (with_reducible apply Keeps.ite)
    | (with_reducible apply Keeps.foldl)
    | (with_reducible apply Keeps.foldlSnd)
    | (with_reducible apply Keeps.step ?_ (send_keeps _ _) ?_)
    | (split)
    | (dsimp only)
    | (dsimp +zetaDelta only)

theorem castData_keeps (k slot : Nat) (cs : List CellRef) (target kind : Nat) (tag : BitVec 16) (body : List Byte) (s : State) : Keeps [.power, .parts, .mesh] s (castData k slot cs target kind tag body s) := by
  unfold castData
  repeat' first
    | (with_reducible exact Keeps.refl _ _)
    | (with_reducible assumption)
    | (exact rfl)
    | (exact ‹_ + _ = 32›)
    | (intro)
    | (extract_lets)
    | (with_reducible apply Keeps.ite)
    | (with_reducible apply Keeps.foldl)
    | (with_reducible apply Keeps.foldlSnd)
    | (with_reducible apply Keeps.step ?_ (send_keeps _ _) ?_)
    | (split)
    | (dsimp only)
    | (dsimp +zetaDelta only)

theorem doneTry_keeps (k : Nat) (s : State) : Keeps [.power, .parts, .tiles, .mesh] s (doneTry k s) := by
  unfold doneTry
  repeat' first
    | (with_reducible exact Keeps.refl _ _)
    | (with_reducible assumption)
    | (exact rfl)
    | (exact ‹_ + _ = 32›)
    | (intro)
    | (extract_lets)
    | (with_reducible apply Keeps.ite)
    | (with_reducible apply Keeps.foldl)
    | (with_reducible apply Keeps.foldlSnd)
    | (with_reducible apply Keeps.step ?_ (send_keeps _ _) ?_)
    | (with_reducible apply Keeps.step ?_ (modTile_keeps _ _ _) ?_)
    | (split)
    | (dsimp only)
    | (dsimp +zetaDelta only)

theorem fireTag_keeps (p k slot : Nat) (tag : BitVec 16) (present : AMap Arrival) (s : State) : Keeps [.fld, .power, .events, .parts, .tiles, .mem, .ecc, .mesh, .crest, .fabric, .settings] s (fireTag p k slot tag present s) := by
  unfold fireTag
  repeat' first
    | (with_reducible exact Keeps.refl _ _)
    | (with_reducible assumption)
    | (exact rfl)
    | (exact ‹_ + _ = 32›)
    | (intro)
    | (extract_lets)
    | (with_reducible apply Keeps.ite)
    | (with_reducible apply Keeps.foldl)
    | (with_reducible apply Keeps.foldlSnd)
    | (with_reducible apply Keeps.step ?_ (touchRead_keeps _ _ _) ?_)
    | (with_reducible apply Keeps.step ?_ (cellFault_keeps _ _ _ _ _) ?_)
    | (with_reducible apply Keeps.step ?_ (noteUncorrected_keeps _ _) ?_)
    | (with_reducible apply Keeps.step ?_ (countActivity_keeps _ _ _ _ _) ?_)
    | (with_reducible apply Keeps.step ?_ (settleCC_keeps _ _ _) ?_)
    | (with_reducible apply Keeps.step ?_ (modCC_keeps _ _ _ _) ?_)
    | (split)
    | (dsimp only)
    | (dsimp +zetaDelta only)

theorem fireTry_keeps (k slot : Nat) (s : State) : Keeps [.fld, .power, .events, .parts, .tiles, .mem, .ecc, .mesh, .crest, .fabric, .settings] s (fireTry k slot s) := by
  unfold fireTry
  repeat' first
    | (with_reducible exact Keeps.refl _ _)
    | (with_reducible assumption)
    | (exact rfl)
    | (exact ‹_ + _ = 32›)
    | (intro)
    | (extract_lets)
    | (with_reducible apply Keeps.ite)
    | (with_reducible apply Keeps.foldl)
    | (with_reducible apply Keeps.foldlSnd)
    | (with_reducible apply Keeps.step ?_ (fireTag_keeps _ _ _ _ _ _) ?_)
    | (split)
    | (dsimp only)
    | (dsimp +zetaDelta only)

theorem releaseTry_keeps (k slot : Nat) (s : State) : Keeps [.power, .parts, .tiles, .mesh] s (releaseTry k slot s) := by
  unfold releaseTry
  repeat' first
    | (with_reducible exact Keeps.refl _ _)
    | (with_reducible assumption)
    | (exact rfl)
    | (exact ‹_ + _ = 32›)
    | (intro)
    | (extract_lets)
    | (with_reducible apply Keeps.ite)
    | (with_reducible apply Keeps.foldl)
    | (with_reducible apply Keeps.foldlSnd)
    | (with_reducible apply Keeps.step ?_ (modCC_keeps _ _ _ _) ?_)
    | (with_reducible apply Keeps.step ?_ (sendCredit_keeps _ _ _ _ _) ?_)
    | (split)
    | (dsimp only)
    | (dsimp +zetaDelta only)

theorem streamOut_keeps (k slot : Nat) (cs : List CellRef) (peer : Nat) (f : Fired) (bytes : List Byte) (s : State) : Keeps [.power, .parts, .mesh] s (streamOut k slot cs peer f bytes s) := by
  unfold streamOut
  repeat' first
    | (with_reducible exact Keeps.refl _ _)
    | (with_reducible assumption)
    | (exact rfl)
    | (exact ‹_ + _ = 32›)
    | (intro)
    | (extract_lets)
    | (with_reducible apply Keeps.ite)
    | (with_reducible apply Keeps.foldl)
    | (with_reducible apply Keeps.foldlSnd)
    | (with_reducible apply Keeps.step ?_ (castData_keeps _ _ _ _ _ _ _ _) ?_)
    | (with_reducible apply Keeps.step ?_ (castCtl_keeps _ _ _ _ _ _ _ _) ?_)
    | (split)
    | (dsimp only)
    | (dsimp +zetaDelta only)

theorem combineOut_keeps (k slot b : Nat) (r : Section) (w : Binding) (f : Fired) (key : Nat) (s : State) : Keeps [.power, .parts, .mesh] s (combineOut k slot b r w f key s) := by
  unfold combineOut
  repeat' first
    | (with_reducible exact Keeps.refl _ _)
    | (with_reducible assumption)
    | (exact rfl)
    | (exact ‹_ + _ = 32›)
    | (intro)
    | (extract_lets)
    | (with_reducible apply Keeps.ite)
    | (with_reducible apply Keeps.foldl)
    | (with_reducible apply Keeps.foldlSnd)
    | (with_reducible apply Keeps.step ?_ (send_keeps _ _) ?_)
    | (split)
    | (dsimp only)
    | (dsimp +zetaDelta only)

theorem drainTag_keeps (k slot : Nat) (r : Section) (f : Fired) (s : State) : Keeps [.power, .parts, .tiles, .mem, .ecc, .mesh] s (drainTag k slot r f s) := by
  unfold drainTag
  repeat' first
    | (with_reducible exact Keeps.refl _ _)
    | (with_reducible assumption)
    | (exact rfl)
    | (exact ‹_ + _ = 32›)
    | (intro)
    | (extract_lets)
    | (with_reducible apply Keeps.ite)
    | (with_reducible apply Keeps.foldl)
    | (with_reducible apply Keeps.foldlSnd)
    | (with_reducible apply Keeps.step ?_ (modCC_keeps _ _ _ _) ?_)
    | (with_reducible apply Keeps.step ?_ (castCtl_keeps _ _ _ _ _ _ _ _) ?_)
    | (with_reducible apply Keeps.step ?_ (writeBytes_keeps _ _ _) ?_)
    | (with_reducible apply Keeps.step ?_ (combineOut_keeps _ _ _ _ _ _ _ _) ?_)
    | (with_reducible apply Keeps.step ?_ (streamOut_keeps _ _ _ _ _ _ _) ?_)
    | (split)
    | (dsimp only)
    | (dsimp +zetaDelta only)

theorem drainTry_keeps (k slot : Nat) (s : State) : Keeps [.power, .parts, .tiles, .mem, .ecc, .mesh] s (drainTry k slot s) := by
  unfold drainTry
  repeat' first
    | (with_reducible exact Keeps.refl _ _)
    | (with_reducible assumption)
    | (exact rfl)
    | (exact ‹_ + _ = 32›)
    | (intro)
    | (extract_lets)
    | (with_reducible apply Keeps.ite)
    | (with_reducible apply Keeps.foldl)
    | (with_reducible apply Keeps.foldlSnd)
    | (with_reducible apply Keeps.step ?_ (doneTry_keeps _ _) ?_)
    | (with_reducible apply Keeps.step ?_ (drainTag_keeps _ _ _ _ _) ?_)
    | (with_reducible apply Keeps.step ?_ (releaseTry_keeps _ _ _) ?_)
    | (split)
    | (dsimp only)
    | (dsimp +zetaDelta only)

theorem creditCC_keeps (k slot b : Nat) (src : CellRef) (r : Section) (s : State) : Keeps [.tiles] s (creditCC k slot b src r s) := by
  unfold creditCC
  repeat' first
    | (with_reducible exact Keeps.refl _ _)
    | (with_reducible assumption)
    | (exact rfl)
    | (exact ‹_ + _ = 32›)
    | (intro)
    | (extract_lets)
    | (with_reducible apply Keeps.ite)
    | (with_reducible apply Keeps.foldl)
    | (with_reducible apply Keeps.foldlSnd)
    | (with_reducible apply Keeps.step ?_ (modCC_keeps _ _ _ _) ?_)
    | (split)
    | (dsimp only)
    | (dsimp +zetaDelta only)

theorem creditAG_keeps (k g : Nat) (r : Section) (s : State) : Keeps [.power, .parts, .tiles, .mesh] s (creditAG k g r s) := by
  unfold creditAG
  repeat' first
    | (with_reducible exact Keeps.refl _ _)
    | (with_reducible assumption)
    | (exact rfl)
    | (exact ‹_ + _ = 32›)
    | (intro)
    | (extract_lets)
    | (with_reducible apply Keeps.ite)
    | (with_reducible apply Keeps.foldl)
    | (with_reducible apply Keeps.foldlSnd)
    | (with_reducible apply Keeps.step ?_ (modAG_keeps _ _ _ _) ?_)
    | (with_reducible apply Keeps.step ?_ (sendCredit_keeps _ _ _ _ _) ?_)
    | (split)
    | (dsimp only)
    | (dsimp +zetaDelta only)

theorem sendStrip_keeps (k gi region peer : Nat) (bytes : List Byte) (s : State) : Keeps [.power, .parts, .mesh] s (sendStrip k gi region peer bytes s) := by
  unfold sendStrip
  repeat' first
    | (with_reducible exact Keeps.refl _ _)
    | (with_reducible assumption)
    | (exact rfl)
    | (exact ‹_ + _ = 32›)
    | (intro)
    | (extract_lets)
    | (with_reducible apply Keeps.ite)
    | (with_reducible apply Keeps.foldl)
    | (with_reducible apply Keeps.foldlSnd)
    | (with_reducible apply Keeps.step ?_ (send_keeps _ _) ?_)
    | (split)
    | (dsimp only)
    | (dsimp +zetaDelta only)

theorem sendStrips_keeps (k gi : Nat) (s : State) : Keeps [.power, .parts, .tiles, .mesh] s (sendStrips k gi s) := by
  unfold sendStrips
  repeat' first
    | (with_reducible exact Keeps.refl _ _)
    | (with_reducible assumption)
    | (exact rfl)
    | (exact ‹_ + _ = 32›)
    | (intro)
    | (extract_lets)
    | (with_reducible apply Keeps.ite)
    | (with_reducible apply Keeps.foldl)
    | (with_reducible apply Keeps.foldlSnd)
    | (with_reducible apply Keeps.step ?_ (sendStrip_keeps _ _ _ _ _ _) ?_)
    | (with_reducible apply Keeps.step ?_ (modAG_keeps _ _ _ _) ?_)
    | (split)
    | (dsimp only)
    | (dsimp +zetaDelta only)

theorem passCorners_keeps (k gi region : Nat) (s : State) : Keeps [.power, .parts, .mesh] s (passCorners k gi region s) := by
  unfold passCorners
  repeat' first
    | (with_reducible exact Keeps.refl _ _)
    | (with_reducible assumption)
    | (exact rfl)
    | (exact ‹_ + _ = 32›)
    | (intro)
    | (extract_lets)
    | (with_reducible apply Keeps.ite)
    | (with_reducible apply Keeps.foldl)
    | (with_reducible apply Keeps.foldlSnd)
    | (with_reducible apply Keeps.step ?_ (sendStrip_keeps _ _ _ _ _ _) ?_)
    | (split)
    | (dsimp only)
    | (dsimp +zetaDelta only)

theorem writeRows_keeps (k space slot f : Nat) (ws : List (ℤ × List (Option Nat))) (s : State) : Keeps [.mem, .ecc] s (writeRows k space slot f ws s) := by
  unfold writeRows
  repeat' first
    | (with_reducible exact Keeps.refl _ _)
    | (with_reducible assumption)
    | (exact rfl)
    | (exact ‹_ + _ = 32›)
    | (intro)
    | (extract_lets)
    | (with_reducible apply Keeps.ite)
    | (with_reducible apply Keeps.foldl)
    | (with_reducible apply Keeps.foldlSnd)
    | (with_reducible apply Keeps.step ?_ (writeBytes_keeps _ _ _) ?_)
    | (split)
    | (dsimp only)
    | (dsimp +zetaDelta only)

theorem agNotify_keeps (k : Nat) (g : AG) (valid : Nat × Nat) (s : State) : Keeps [.power, .parts, .mesh] s (agNotify k g valid s) := by
  unfold agNotify
  repeat' first
    | (with_reducible exact Keeps.refl _ _)
    | (with_reducible assumption)
    | (exact rfl)
    | (exact ‹_ + _ = 32›)
    | (intro)
    | (extract_lets)
    | (with_reducible apply Keeps.ite)
    | (with_reducible apply Keeps.foldl)
    | (with_reducible apply Keeps.foldlSnd)
    | (with_reducible apply Keeps.step ?_ (sendCredit_keeps _ _ _ _ _) ?_)
    | (with_reducible apply Keeps.step ?_ (sendToken_keeps _ _ _ _ _ _ _ _) ?_)
    | (split)
    | (dsimp only)
    | (dsimp +zetaDelta only)

theorem agCopy_keeps (k gi : Nat) (s : State) : Keeps [.fld, .power, .events, .parts, .tiles, .mem, .ecc, .mesh, .crest, .fabric, .settings] s (agCopy k gi s) := by
  unfold agCopy
  repeat' first
    | (with_reducible exact Keeps.refl _ _)
    | (with_reducible assumption)
    | (exact rfl)
    | (exact ‹_ + _ = 32›)
    | (intro)
    | (extract_lets)
    | (with_reducible apply Keeps.ite)
    | (with_reducible apply Keeps.foldl)
    | (with_reducible apply Keeps.foldlSnd)
    | (with_reducible apply Keeps.step ?_ (touchRead_keeps _ _ _) ?_)
    | (with_reducible apply Keeps.step ?_ (cellFault_keeps _ _ _ _ _) ?_)
    | (with_reducible apply Keeps.step ?_ (noteUncorrected_keeps _ _) ?_)
    | (with_reducible apply Keeps.step ?_ (countAccess_keeps _ _ _ _) ?_)
    | (with_reducible apply Keeps.step ?_ (writeRows_keeps _ _ _ _ _ _) ?_)
    | (with_reducible apply Keeps.step ?_ (doneTry_keeps _ _) ?_)
    | (with_reducible apply Keeps.step ?_ (agNotify_keeps _ _ _ _) ?_)
    | (with_reducible apply Keeps.step ?_ (modAG_keeps _ _ _ _) ?_)
    | (split)
    | (dsimp only)
    | (dsimp +zetaDelta only)

theorem agTry_keeps (k gi : Nat) (s : State) : Keeps [.fld, .power, .events, .parts, .tiles, .mem, .ecc, .mesh, .crest, .fabric, .settings] s (agTry k gi s) := by
  unfold agTry
  repeat' first
    | (with_reducible exact Keeps.refl _ _)
    | (with_reducible assumption)
    | (exact rfl)
    | (exact ‹_ + _ = 32›)
    | (intro)
    | (extract_lets)
    | (with_reducible apply Keeps.ite)
    | (with_reducible apply Keeps.foldl)
    | (with_reducible apply Keeps.foldlSnd)
    | (with_reducible apply Keeps.step ?_ (cellFault_keeps _ _ _ _ _) ?_)
    | (with_reducible apply Keeps.step ?_ (noteUncorrected_keeps _ _) ?_)
    | (with_reducible apply Keeps.step ?_ (touchRead_keeps _ _ _) ?_)
    | (with_reducible apply Keeps.step ?_ (sendStrips_keeps _ _ _) ?_)
    | (with_reducible apply Keeps.step ?_ (agCopy_keeps _ _ _) ?_)
    | (split)
    | (dsimp only)
    | (dsimp +zetaDelta only)

theorem haloArrive_keeps (k gi region : Nat) (data : List Byte) (s : State) : Keeps [.fld, .power, .events, .parts, .tiles, .mem, .ecc, .mesh, .crest, .fabric] s (haloArrive k gi region data s) := by
  unfold haloArrive
  repeat' first
    | (with_reducible exact Keeps.refl _ _)
    | (with_reducible assumption)
    | (exact rfl)
    | (exact ‹_ + _ = 32›)
    | (intro)
    | (extract_lets)
    | (with_reducible apply Keeps.ite)
    | (with_reducible apply Keeps.foldl)
    | (with_reducible apply Keeps.foldlSnd)
    | (with_reducible apply Keeps.step ?_ (cellFault_keeps _ _ _ _ _) ?_)
    | (with_reducible apply Keeps.step ?_ (countAccess_keeps _ _ _ _) ?_)
    | (with_reducible apply Keeps.step ?_ (writeBytes_keeps _ _ _) ?_)
    | (with_reducible apply Keeps.step ?_ (passCorners_keeps _ _ _ _) ?_)
    | (with_reducible apply Keeps.step ?_ (modAG_keeps _ _ _ _) ?_)
    | (split)
    | (dsimp only)
    | (dsimp +zetaDelta only)

theorem streamArrive_keeps (k slot b : Nat) (tag : BitVec 16) (data : List Byte) (s : State) : Keeps [.power, .events, .parts, .tiles, .mem, .ecc, .mesh, .crest, .fabric] s (streamArrive k slot b tag data s) := by
  unfold streamArrive
  repeat' first
    | (with_reducible exact Keeps.refl _ _)
    | (with_reducible assumption)
    | (exact rfl)
    | (exact ‹_ + _ = 32›)
    | (intro)
    | (extract_lets)
    | (with_reducible apply Keeps.ite)
    | (with_reducible apply Keeps.foldl)
    | (with_reducible apply Keeps.foldlSnd)
    | (with_reducible apply Keeps.step ?_ (cellFault_keeps _ _ _ _ _) ?_)
    | (with_reducible apply Keeps.step ?_ (modCC_keeps _ _ _ _) ?_)
    | (with_reducible apply Keeps.step ?_ (writeBytes_keeps _ _ _) ?_)
    | (split)
    | (dsimp only)
    | (dsimp +zetaDelta only)

theorem streamEnd_keeps (k slot b : Nat) (tag : BitVec 16) (s : State) : Keeps [.tiles] s (streamEnd k slot b tag s) := by
  unfold streamEnd
  repeat' first
    | (with_reducible exact Keeps.refl _ _)
    | (with_reducible assumption)
    | (exact rfl)
    | (exact ‹_ + _ = 32›)
    | (intro)
    | (extract_lets)
    | (with_reducible apply Keeps.ite)
    | (with_reducible apply Keeps.foldl)
    | (with_reducible apply Keeps.foldlSnd)
    | (with_reducible apply Keeps.step ?_ (modCC_keeps _ _ _ _) ?_)
    | (split)
    | (dsimp only)
    | (dsimp +zetaDelta only)

theorem tokenAG_keeps (k gi : Nat) (a : Arrival) (s : State) : Keeps [.tiles] s (tokenAG k gi a s) := by
  unfold tokenAG
  repeat' first
    | (with_reducible exact Keeps.refl _ _)
    | (with_reducible assumption)
    | (exact rfl)
    | (exact ‹_ + _ = 32›)
    | (intro)
    | (extract_lets)
    | (with_reducible apply Keeps.ite)
    | (with_reducible apply Keeps.foldl)
    | (with_reducible apply Keeps.foldlSnd)
    | (with_reducible apply Keeps.step ?_ (modAG_keeps _ _ _ _) ?_)
    | (split)
    | (dsimp only)
    | (dsimp +zetaDelta only)

end Sys2Proof.Machine
end

