-- ==== Sys2Proof/Laws/Keeps/Combine.lean ====
section
/-! SUPPORT. What the operations of Machine/Combine.lean may write, and that they keep the invariant. -/

namespace Sys2Proof.Machine

open Sys2Proof

set_option linter.unusedTactic false
set_option linter.unreachableTactic false

theorem fillDone_keeps (k gi i : Nat) (s : State) : Keeps [.power, .parts, .tiles, .mesh] s (fillDone k gi i s) := by
  unfold fillDone
  repeat' first
    | (with_reducible exact Keeps.refl _ _)
    | (with_reducible assumption)
    | (exact rfl)
    | (exact ‹_ + _ = 32›)
    | (intro)
    | (extract_lets)
    | (with_reducible apply Keeps.ite)
    | (with_reducible apply Keeps.foldl)
    | (with_reducible apply Keeps.foldlSnd)
    | (with_reducible apply Keeps.step ?_ (modAG_keeps _ _ _ _) ?_)
    | (with_reducible apply Keeps.step ?_ (sendToken_keeps _ _ _ _ _ _ _ _) ?_)
    | (with_reducible apply Keeps.step ?_ (doneTry_keeps _ _) ?_)
    | (split)
    | (dsimp only)
    | (dsimp +zetaDelta only)

theorem addPiece_keeps (k gi i j count : Nat) (elems : List Nat) (s : State) : Keeps [.fld, .power, .events, .parts, .tiles, .mem, .ecc, .mesh, .crest, .fabric, .settings] s (addPiece k gi i j count elems s) := by
  unfold addPiece
  repeat' first
    | (with_reducible exact Keeps.refl _ _)
    | (with_reducible assumption)
    | (exact rfl)
    | (exact ‹_ + _ = 32›)
    | (intro)
    | (extract_lets)
    | (with_reducible apply Keeps.ite)
    | (with_reducible apply Keeps.foldl)
    | (with_reducible apply Keeps.foldlSnd)
    | (with_reducible apply Keeps.step ?_ (cellFault_keeps _ _ _ _ _) ?_)
    | (with_reducible apply Keeps.step ?_ (noteUncorrected_keeps _ _) ?_)
    | (with_reducible apply Keeps.step ?_ (touchRead_keeps _ _ _) ?_)
    | (with_reducible apply Keeps.step ?_ (countAccess_keeps _ _ _ _) ?_)
    | (with_reducible apply Keeps.step ?_ (writeBytes_keeps _ _ _) ?_)
    | (with_reducible apply Keeps.step ?_ (fillDone_keeps _ _ _ _) ?_)
    | (with_reducible apply Keeps.step ?_ (modAG_keeps _ _ _ _) ?_)
    | (split)
    | (dsimp only)
    | (dsimp +zetaDelta only)

theorem drainHeld_keeps (k gi i j n : Nat) (s : State) : Keeps [.fld, .power, .events, .parts, .tiles, .mem, .ecc, .mesh, .crest, .fabric, .settings] s (drainHeld k gi i j n s) := by
  induction n generalizing s with
  | zero => exact Keeps.refl _ _
  | succ n ih =>
    unfold drainHeld
    repeat' first
      | (with_reducible exact Keeps.refl _ _)
      | (with_reducible assumption)
      | (exact rfl)
      | (exact ‹_ + _ = 32›)
      | (intro)
      | (extract_lets)
      | (with_reducible apply Keeps.ite)
      | (with_reducible apply Keeps.foldl)
      | (with_reducible apply Keeps.foldlSnd)
      | (with_reducible apply Keeps.step ?_ (modAG_keeps _ _ _ _) ?_)
      | (with_reducible apply Keeps.step ?_ (cellFault_keeps _ _ _ _ _) ?_)
      | (with_reducible apply Keeps.step ?_ (noteUncorrected_keeps _ _) ?_)
      | (with_reducible apply Keeps.step ?_ (touchRead_keeps _ _ _) ?_)
      | (with_reducible apply Keeps.step ?_ (addPiece_keeps _ _ _ _ _ _ _) ?_)
      | (with_reducible apply Keeps.trans ?_ (ih _))
      | (split)
      | (dsimp only)
      | (dsimp +zetaDelta only)

theorem refusePiece_keeps (k gi i : Nat) (s : State) : Keeps [.events, .tiles] s (refusePiece k gi i s) := by
  unfold refusePiece
  repeat' first
    | (with_reducible exact Keeps.refl _ _)
    | (with_reducible assumption)
    | (exact rfl)
    | (exact ‹_ + _ = 32›)
    | (intro)
    | (extract_lets)
    | (with_reducible apply Keeps.ite)
    | (with_reducible apply Keeps.foldl)
    | (with_reducible apply Keeps.foldlSnd)
    | (with_reducible apply Keeps.step ?_ (raise_keeps _ _) ?_)
    | (with_reducible apply Keeps.step ?_ (modAG_keeps _ _ _ _) ?_)
    | (split)
    | (dsimp only)
    | (dsimp +zetaDelta only)

theorem combineArrive_keeps (k gi : Nat) (tag : BitVec 16) (pre : CombinePrefix) (elems : List Word32) (s : State) : Keeps [.fld, .power, .events, .parts, .tiles, .mem, .ecc, .mesh, .crest, .fabric, .settings] s (combineArrive k gi tag pre elems s) := by
  unfold combineArrive
  repeat' first
    | (with_reducible exact Keeps.refl _ _)
    | (with_reducible assumption)
    | (exact rfl)
    | (exact ‹_ + _ = 32›)
    | (intro)
    | (extract_lets)
    | (with_reducible apply Keeps.ite)
    | (with_reducible apply Keeps.foldl)
    | (with_reducible apply Keeps.foldlSnd)
    | (with_reducible apply Keeps.step ?_ (refusePiece_keeps _ _ _ _) ?_)
    | (with_reducible apply Keeps.step ?_ (drainHeld_keeps _ _ _ _ _ _) ?_)
    | (with_reducible apply Keeps.step ?_ (addPiece_keeps _ _ _ _ _ _ _) ?_)
    | (with_reducible apply Keeps.step ?_ (cellFault_keeps _ _ _ _ _) ?_)
    | (with_reducible apply Keeps.step ?_ (modAG_keeps _ _ _ _) ?_)
    | (with_reducible apply Keeps.step ?_ (countAccess_keeps _ _ _ _) ?_)
    | (with_reducible apply Keeps.step ?_ (writeBytes_keeps _ _ _) ?_)
    | (split)
    | (dsimp only)
    | (dsimp +zetaDelta only)

theorem mergedAway_keeps (h : Head) (pre : CombinePrefix) (size n m : Nat) (s : State) : Keeps [.mesh] s (mergedAway h pre size n m s) := by
  induction n generalizing m s with
  | zero => exact Keeps.refl _ _
  | succ n ih =>
    unfold mergedAway
    repeat' first
      | (with_reducible exact Keeps.refl _ _)
      | (with_reducible assumption)
      | (exact rfl)
      | (exact ‹_ + _ = 32›)
      | (intro)
      | (extract_lets)
      | (with_reducible apply Keeps.ite)
      | (with_reducible apply Keeps.foldl)
      | (with_reducible apply Keeps.foldlSnd)
      | (with_reducible apply Keeps.step ?_ (leaveMesh_keeps _ _) ?_)
      | (with_reducible apply Keeps.trans ?_ (ih _ _))
      | (split)
      | (dsimp only)
      | (dsimp +zetaDelta only)

end Sys2Proof.Machine
end

