-- ==== Sys2Proof/Laws/Keeps/CellFam.lean ====
section
/-! SUPPORT. What the operations of Machine/CellFam.lean may write, and that they keep the invariant. -/

namespace Sys2Proof.Machine

open Sys2Proof

set_option linter.unusedTactic false
set_option linter.unreachableTactic false

theorem tokenIn_keeps (h : Head) (rows cols : Nat) (s : State) : Keeps [.power, .events, .parts, .tiles, .mesh, .crest, .fabric] s (tokenIn h rows cols s) := by
  unfold tokenIn
  repeat' first
    | (with_reducible exact Keeps.refl _ _)
    | (with_reducible assumption)
    | (exact rfl)
    | (exact ‹_ + _ = 32›)
    | (intro)
    | (extract_lets)
    | (with_reducible apply Keeps.ite)
    | (with_reducible apply Keeps.foldl)
    | (with_reducible apply Keeps.foldlSnd)
    | (with_reducible apply Keeps.step ?_ (ccArrive_keeps _ _ _ _ _) ?_)
    | (with_reducible apply Keeps.step ?_ (streamEnd_keeps _ _ _ _ _) ?_)
    | (with_reducible apply Keeps.step ?_ (tokenAG_keeps _ _ _ _) ?_)
    | (split)
    | (dsimp only)
    | (dsimp +zetaDelta only)

theorem execToken_keeps (h : Head) (rows cols : Nat) (s : State) {t : State} (h : execToken h rows cols s = .next t) : Keeps [.fld, .power, .events, .parts, .tiles, .mesh, .crest, .fabric] s t := by
  unfold execToken at h
  injection h with h
  subst h
  repeat' first
    | (with_reducible exact Keeps.refl _ _)
    | (with_reducible assumption)
    | (exact rfl)
    | (exact ‹_ + _ = 32›)
    | (intro)
    | (extract_lets)
    | (with_reducible apply Keeps.ite)
    | (with_reducible apply Keeps.foldl)
    | (with_reducible apply Keeps.foldlSnd)
    | (with_reducible apply Keeps.trans ?_ (arriveCtl_keeps _ _ _ _ ?_ ?_))
    | (with_reducible apply Keeps.trans ?_ (atRunning_keeps _ _ _ _ ?_ ?_))
    | (with_reducible apply Keeps.step ?_ (tokenIn_keeps _ _ _ _) ?_)
    | (split)
    | (dsimp only)
    | (dsimp +zetaDelta only)

theorem tupleIn_keeps (h : Head) (words : List Word32) (s : State) : Keeps [.power, .events, .parts, .tiles, .mesh, .crest, .fabric] s (tupleIn h words s) := by
  unfold tupleIn
  repeat' first
    | (with_reducible exact Keeps.refl _ _)
    | (with_reducible assumption)
    | (exact rfl)
    | (exact ‹_ + _ = 32›)
    | (intro)
    | (extract_lets)
    | (with_reducible apply Keeps.ite)
    | (with_reducible apply Keeps.foldl)
    | (with_reducible apply Keeps.foldlSnd)
    | (with_reducible apply Keeps.step ?_ (ccArrive_keeps _ _ _ _ _) ?_)
    | (split)
    | (dsimp only)
    | (dsimp +zetaDelta only)

theorem execTuple_keeps (h : Head) (words : List Word32) (s : State) {t : State} (h : execTuple h words s = .next t) : Keeps [.fld, .power, .events, .parts, .tiles, .mesh, .crest, .fabric] s t := by
  unfold execTuple at h
  injection h with h
  subst h
  repeat' first
    | (with_reducible exact Keeps.refl _ _)
    | (with_reducible assumption)
    | (exact rfl)
    | (exact ‹_ + _ = 32›)
    | (intro)
    | (extract_lets)
    | (with_reducible apply Keeps.ite)
    | (with_reducible apply Keeps.foldl)
    | (with_reducible apply Keeps.foldlSnd)
    | (with_reducible apply Keeps.trans ?_ (arriveCtl_keeps _ _ _ _ ?_ ?_))
    | (with_reducible apply Keeps.trans ?_ (atRunning_keeps _ _ _ _ ?_ ?_))
    | (with_reducible apply Keeps.step ?_ (tupleIn_keeps _ _ _) ?_)
    | (with_reducible apply Keeps.step ?_ (postDesc_keeps _ _ _) ?_)
    | (split)
    | (dsimp only)
    | (dsimp +zetaDelta only)

theorem execCredit_keeps (h : Head) (s : State) {t : State} (h : execCredit h s = .next t) : Keeps [.fld, .power, .events, .parts, .tiles, .mesh] s t := by
  unfold execCredit at h
  injection h with h
  subst h
  repeat' first
    | (with_reducible exact Keeps.refl _ _)
    | (with_reducible assumption)
    | (exact rfl)
    | (exact ‹_ + _ = 32›)
    | (intro)
    | (extract_lets)
    | (with_reducible apply Keeps.ite)
    | (with_reducible apply Keeps.foldl)
    | (with_reducible apply Keeps.foldlSnd)
    | (with_reducible apply Keeps.trans ?_ (arriveCtl_keeps _ _ _ _ ?_ ?_))
    | (with_reducible apply Keeps.trans ?_ (atRunning_keeps _ _ _ _ ?_ ?_))
    | (with_reducible apply Keeps.step ?_ (creditCC_keeps _ _ _ _ _ _) ?_)
    | (with_reducible apply Keeps.step ?_ (creditAG_keeps _ _ _ _) ?_)
    | (split)
    | (dsimp only)
    | (dsimp +zetaDelta only)

theorem execActorFire_keeps (c : CellRef) (s : State) {t : State} (h : execActorFire c s = .next t) : Keeps [.fld, .power, .events, .parts, .tiles, .mem, .ecc, .mesh, .crest, .fabric, .settings] s t := by
  unfold execActorFire at h
  injection h with h
  subst h
  repeat' first
    | (with_reducible exact Keeps.refl _ _)
    | (with_reducible assumption)
    | (exact rfl)
    | (exact ‹_ + _ = 32›)
    | (intro)
    | (extract_lets)
    | (with_reducible apply Keeps.ite)
    | (with_reducible apply Keeps.foldl)
    | (with_reducible apply Keeps.foldlSnd)
    | (with_reducible apply Keeps.step ?_ (fireTry_keeps _ _ _) ?_)
    | (split)
    | (dsimp only)
    | (dsimp +zetaDelta only)

theorem execBufferRelease_keeps (c : CellRef) (s : State) {t : State} (h : execBufferRelease c s = .next t) : Keeps [.power, .parts, .tiles, .mesh] s t := by
  unfold execBufferRelease at h
  injection h with h
  subst h
  repeat' first
    | (with_reducible exact Keeps.refl _ _)
    | (with_reducible assumption)
    | (exact rfl)
    | (exact ‹_ + _ = 32›)
    | (intro)
    | (extract_lets)
    | (with_reducible apply Keeps.ite)
    | (with_reducible apply Keeps.foldl)
    | (with_reducible apply Keeps.foldlSnd)
    | (with_reducible apply Keeps.step ?_ (releaseTry_keeps _ _ _) ?_)
    | (split)
    | (dsimp only)
    | (dsimp +zetaDelta only)

theorem execDrainComplete_keeps (c : CellRef) (s : State) {t : State} (h : execDrainComplete c s = .next t) : Keeps [.power, .parts, .tiles, .mem, .ecc, .mesh] s t := by
  unfold execDrainComplete at h
  injection h with h
  subst h
  repeat' first
    | (with_reducible exact Keeps.refl _ _)
    | (with_reducible assumption)
    | (exact rfl)
    | (exact ‹_ + _ = 32›)
    | (intro)
    | (extract_lets)
    | (with_reducible apply Keeps.ite)
    | (with_reducible apply Keeps.foldl)
    | (with_reducible apply Keeps.foldlSnd)
    | (with_reducible apply Keeps.step ?_ (drainTry_keeps _ _ _) ?_)
    | (split)
    | (dsimp only)
    | (dsimp +zetaDelta only)

theorem execGeneratorTransfer_keeps (x y g : Nat) (s : State) {t : State} (h : execGeneratorTransfer x y g s = .next t) : Keeps [.fld, .power, .events, .parts, .tiles, .mem, .ecc, .mesh, .crest, .fabric, .settings] s t := by
  unfold execGeneratorTransfer at h
  injection h with h
  subst h
  repeat' first
    | (with_reducible exact Keeps.refl _ _)
    | (with_reducible assumption)
    | (exact rfl)
    | (exact ‹_ + _ = 32›)
    | (intro)
    | (extract_lets)
    | (with_reducible apply Keeps.ite)
    | (with_reducible apply Keeps.foldl)
    | (with_reducible apply Keeps.foldlSnd)
    | (with_reducible apply Keeps.step ?_ (mcServe_keeps _ _) ?_)
    | (with_reducible apply Keeps.step ?_ (agTry_keeps _ _ _) ?_)
    | (split)
    | (dsimp only)
    | (dsimp +zetaDelta only)

theorem haloIn_keeps (h : Head) (part : HaloPart) (data : List Byte) (s : State) : Keeps [.fld, .power, .events, .parts, .tiles, .mem, .ecc, .mesh, .crest, .fabric] s (haloIn h part data s) := by
  unfold haloIn
  repeat' first
    | (with_reducible exact Keeps.refl _ _)
    | (with_reducible assumption)
    | (exact rfl)
    | (exact ‹_ + _ = 32›)
    | (intro)
    | (extract_lets)
    | (with_reducible apply Keeps.ite)
    | (with_reducible apply Keeps.foldl)
    | (with_reducible apply Keeps.foldlSnd)
    | (with_reducible apply Keeps.step ?_ (haloArrive_keeps _ _ _ _ _) ?_)
    | (split)
    | (dsimp only)
    | (dsimp +zetaDelta only)

theorem execHalo_keeps (h : Head) (part : HaloPart) (data : List Byte) (s : State) {t : State} (h : execHalo h part data s = .next t) : Keeps [.fld, .power, .events, .parts, .tiles, .mem, .ecc, .mesh, .crest, .fabric] s t := by
  unfold execHalo at h
  injection h with h
  subst h
  repeat' first
    | (with_reducible exact Keeps.refl _ _)
    | (with_reducible assumption)
    | (exact rfl)
    | (exact ‹_ + _ = 32›)
    | (intro)
    | (extract_lets)
    | (with_reducible apply Keeps.ite)
    | (with_reducible apply Keeps.foldl)
    | (with_reducible apply Keeps.foldlSnd)
    | (with_reducible apply Keeps.trans ?_ (arriveData_keeps _ _ _ _ ?_ ?_))
    | (with_reducible apply Keeps.trans ?_ (atRunning_keeps _ _ _ _ ?_ ?_))
    | (with_reducible apply Keeps.step ?_ (haloIn_keeps _ _ _ _) ?_)
    | (split)
    | (dsimp only)
    | (dsimp +zetaDelta only)

theorem execStream_keeps (h : Head) (data : List Byte) (s : State) {t : State} (h : execStream h data s = .next t) : Keeps [.fld, .power, .events, .parts, .tiles, .mem, .ecc, .mesh, .crest, .fabric] s t := by
  unfold execStream at h
  injection h with h
  subst h
  repeat' first
    | (with_reducible exact Keeps.refl _ _)
    | (with_reducible assumption)
    | (exact rfl)
    | (exact ‹_ + _ = 32›)
    | (intro)
    | (extract_lets)
    | (with_reducible apply Keeps.ite)
    | (with_reducible apply Keeps.foldl)
    | (with_reducible apply Keeps.foldlSnd)
    | (with_reducible apply Keeps.trans ?_ (arriveData_keeps _ _ _ _ ?_ ?_))
    | (with_reducible apply Keeps.trans ?_ (atRunning_keeps _ _ _ _ ?_ ?_))
    | (with_reducible apply Keeps.step ?_ (streamArrive_keeps _ _ _ _ _ _) ?_)
    | (split)
    | (dsimp only)
    | (dsimp +zetaDelta only)

theorem combineIn_keeps (h : Head) (pre : CombinePrefix) (elems : List Word32) (s : State) : Keeps [.fld, .power, .events, .parts, .tiles, .mem, .ecc, .mesh, .crest, .fabric, .settings] s (combineIn h pre elems s) := by
  unfold combineIn
  repeat' first
    | (with_reducible exact Keeps.refl _ _)
    | (with_reducible assumption)
    | (exact rfl)
    | (exact ‹_ + _ = 32›)
    | (intro)
    | (extract_lets)
    | (with_reducible apply Keeps.ite)
    | (with_reducible apply Keeps.foldl)
    | (with_reducible apply Keeps.foldlSnd)
    | (with_reducible apply Keeps.step ?_ (combineArrive_keeps _ _ _ _ _ _) ?_)
    | (split)
    | (dsimp only)
    | (dsimp +zetaDelta only)

theorem notifyIn_keeps (h : Head) (s : State) : Keeps [.power, .events, .parts, .tiles, .mesh, .crest, .fabric] s (notifyIn h s) := by
  unfold notifyIn
  repeat' first
    | (with_reducible exact Keeps.refl _ _)
    | (with_reducible assumption)
    | (exact rfl)
    | (exact ‹_ + _ = 32›)
    | (intro)
    | (extract_lets)
    | (with_reducible apply Keeps.ite)
    | (with_reducible apply Keeps.foldl)
    | (with_reducible apply Keeps.foldlSnd)
    | (with_reducible apply Keeps.step ?_ (ccArrive_keeps _ _ _ _ _) ?_)
    | (split)
    | (dsimp only)
    | (dsimp +zetaDelta only)

theorem deliverHeld_keeps (i : Instr) (s : State) : Keeps [.fld, .power, .events, .parts, .tiles, .mem, .ecc, .mesh, .crest, .fabric, .settings] s (deliverHeld i s) := by
  unfold deliverHeld
  repeat' first
    | (with_reducible exact Keeps.refl _ _)
    | (with_reducible assumption)
    | (exact rfl)
    | (exact ‹_ + _ = 32›)
    | (intro)
    | (extract_lets)
    | (with_reducible apply Keeps.ite)
    | (with_reducible apply Keeps.foldl)
    | (with_reducible apply Keeps.foldlSnd)
    | (with_reducible apply Keeps.step ?_ (tokenIn_keeps _ _ _ _) ?_)
    | (with_reducible apply Keeps.step ?_ (tupleIn_keeps _ _ _) ?_)
    | (with_reducible apply Keeps.step ?_ (haloIn_keeps _ _ _ _) ?_)
    | (with_reducible apply Keeps.step ?_ (streamArrive_keeps _ _ _ _ _ _) ?_)
    | (with_reducible apply Keeps.step ?_ (combineIn_keeps _ _ _ _) ?_)
    | (with_reducible apply Keeps.step ?_ (notifyIn_keeps _ _) ?_)
    | (split)
    | (dsimp only)
    | (dsimp +zetaDelta only)

theorem deliverAll_keeps (k : Nat) (s : State) : Keeps [.fld, .power, .events, .parts, .tiles, .mem, .ecc, .mesh, .crest, .fabric, .settings] s (deliverAll k s) := by
  unfold deliverAll
  repeat' first
    | (with_reducible exact Keeps.refl _ _)
    | (with_reducible assumption)
    | (exact rfl)
    | (exact ‹_ + _ = 32›)
    | (intro)
    | (extract_lets)
    | (with_reducible apply Keeps.ite)
    | (with_reducible apply Keeps.foldl)
    | (with_reducible apply Keeps.foldlSnd)
    | (with_reducible apply Keeps.step ?_ (deliverHeld_keeps _ _) ?_)
    | (with_reducible apply Keeps.step ?_ (modTile_keeps _ _ _) ?_)
    | (split)
    | (dsimp only)
    | (dsimp +zetaDelta only)

theorem execEccWriteBack_keeps (x y addr : Nat) (s : State) {t : State} (h : execEccWriteBack x y addr s = .next t) : Keeps [.ecc] s t := by
  unfold execEccWriteBack at h
  injection h with h
  subst h
  repeat' first
    | (with_reducible exact Keeps.refl _ _)
    | (with_reducible assumption)
    | (exact rfl)
    | (exact ‹_ + _ = 32›)
    | (intro)
    | (extract_lets)
    | (with_reducible apply Keeps.ite)
    | (with_reducible apply Keeps.foldl)
    | (with_reducible apply Keeps.foldlSnd)
    | (fail_if_no_progress ((with_reducible apply Keeps.setEcc) <;> [skip; (exact rfl)]))
    | (split)
    | (dsimp only)
    | (dsimp +zetaDelta only)

theorem execQueueSample_keeps (part : Nat) (s : State) {t : State} (h : execQueueSample part s = .next t) : Keeps [.fld, .tiles, .mem, .ecc] s t := by
  unfold execQueueSample at h
  injection h with h
  subst h
  repeat' first
    | (with_reducible exact Keeps.refl _ _)
    | (with_reducible assumption)
    | (exact rfl)
    | (exact ‹_ + _ = 32›)
    | (intro)
    | (extract_lets)
    | (with_reducible apply Keeps.ite)
    | (with_reducible apply Keeps.foldl)
    | (with_reducible apply Keeps.foldlSnd)
    | (with_reducible apply Keeps.step ?_ (writeBytes_keeps _ _ _) ?_)
    | (with_reducible apply Keeps.step ?_ (countAccess_keeps _ _ _ _) ?_)
    | (with_reducible apply Keeps.step ?_ (modTile_keeps _ _ _) ?_)
    | (split)
    | (dsimp only)
    | (dsimp +zetaDelta only)

end Sys2Proof.Machine
end

