-- ==== Sys2Proof/Laws/Keeps/ClockFam.lean ====
section
/-! SUPPORT. What the operations of Machine/ClockFam.lean may write, and that they keep the invariant. -/

namespace Sys2Proof.Machine

open Sys2Proof

set_option linter.unusedTactic false
set_option linter.unreachableTactic false

theorem execReferenceLock_keeps (s : State) {t : State} (h : execReferenceLock s = .next t) : Keeps [.time, .fld, .power, .lease, .events, .sec, .parts, .tiles, .mem, .ecc, .mesh, .crest, .fabric, .settings, .pilot, .regs] s t := by
  unfold execReferenceLock at h
  injection h with h
  subst h
  repeat' first
    | (with_reducible exact Keeps.refl _ _)
    | (with_reducible assumption)
    | (exact rfl)
    | (exact ‹_ + _ = 32›)
    | (intro)
    | (extract_lets)
    | (with_reducible apply Keeps.ite)
    | (with_reducible apply Keeps.foldl)
    | (with_reducible apply Keeps.foldlSnd)
    | (fail_if_no_progress ((with_reducible apply Keeps.setTime) <;> [skip; (exact rfl)]))
    | (with_reducible apply Keeps.step ?_ (advanceUp_keeps _) ?_)
    | (with_reducible apply Keeps.step ?_ (wakeFire_keeps _ _) ?_)
    | (split)
    | (dsimp only)
    | (dsimp +zetaDelta only)

theorem execReferenceLoss_keeps (s : State) {t : State} (h : execReferenceLoss s = .next t) : Keeps [.time, .events] s t := by
  unfold execReferenceLoss at h
  injection h with h
  subst h
  repeat' first
    | (with_reducible exact Keeps.refl _ _)
    | (with_reducible assumption)
    | (exact rfl)
    | (exact ‹_ + _ = 32›)
    | (intro)
    | (extract_lets)
    | (with_reducible apply Keeps.ite)
    | (with_reducible apply Keeps.foldl)
    | (with_reducible apply Keeps.foldlSnd)
    | (fail_if_no_progress ((with_reducible apply Keeps.setTime) <;> [skip; (exact rfl)]))
    | (with_reducible apply Keeps.step ?_ (raise_keeps _ _) ?_)
    | (split)
    | (dsimp only)
    | (dsimp +zetaDelta only)

theorem execHoldoverTimeout_keeps (s : State) {t : State} (h : execHoldoverTimeout s = .next t) : Keeps [.time, .events, .pilot] s t := by
  unfold execHoldoverTimeout at h
  injection h with h
  subst h
  repeat' first
    | (with_reducible exact Keeps.refl _ _)
    | (with_reducible assumption)
    | (exact rfl)
    | (exact ‹_ + _ = 32›)
    | (intro)
    | (extract_lets)
    | (with_reducible apply Keeps.ite)
    | (with_reducible apply Keeps.foldl)
    | (with_reducible apply Keeps.foldlSnd)
    | (fail_if_no_progress ((with_reducible apply Keeps.setTime) <;> [skip; (exact rfl)]))
    | (with_reducible apply Keeps.step ?_ (advanceTo_keeps _ _) ?_)
    | (with_reducible apply Keeps.step ?_ (raise_keeps _ _) ?_)
    | (split)
    | (dsimp only)
    | (dsimp +zetaDelta only)

theorem execTimeFrame_keeps (bytes : List Byte) (s : State) {t : State} (h : execTimeFrame bytes s = .next t) : Keeps [.time] s t := by
  unfold execTimeFrame at h
  injection h with h
  subst h
  repeat' first
    | (with_reducible exact Keeps.refl _ _)
    | (with_reducible assumption)
    | (exact rfl)
    | (exact ‹_ + _ = 32›)
    | (intro)
    | (extract_lets)
    | (with_reducible apply Keeps.ite)
    | (with_reducible apply Keeps.foldl)
    | (with_reducible apply Keeps.foldlSnd)
    | (with_reducible apply Keeps.step ?_ (takeFrame_keeps _ _) ?_)
    | (split)
    | (dsimp only)
    | (dsimp +zetaDelta only)

theorem execEpochMark_keeps (s : State) {t : State} (h : execEpochMark s = .next t) : Keeps [.time, .fld, .power, .ledger, .events, .sec, .parts, .tiles, .mem, .ecc, .mesh, .crest, .fabric, .settings, .pilot, .regs] s t := by
  unfold execEpochMark at h
  injection h with h
  subst h
  repeat' first
    | (with_reducible exact Keeps.refl _ _)
    | (with_reducible assumption)
    | (exact rfl)
    | (exact ‹_ + _ = 32›)
    | (intro)
    | (extract_lets)
    | (with_reducible apply Keeps.ite)
    | (with_reducible apply Keeps.foldl)
    | (with_reducible apply Keeps.foldlSnd)
    | (with_reducible apply Keeps.step ?_ (epoch_keeps _) ?_)
    | (split)
    | (dsimp only)
    | (dsimp +zetaDelta only)

theorem execHoldoverTick_keeps (s : State) {t : State} (h : execHoldoverTick s = .next t) : Keeps [.time, .ledger, .parts, .pilot] s t := by
  unfold execHoldoverTick at h
  injection h with h
  subst h
  repeat' first
    | (with_reducible exact Keeps.refl _ _)
    | (with_reducible assumption)
    | (exact rfl)
    | (exact ‹_ + _ = 32›)
    | (intro)
    | (extract_lets)
    | (with_reducible apply Keeps.ite)
    | (with_reducible apply Keeps.foldl)
    | (with_reducible apply Keeps.foldlSnd)
    | (with_reducible apply Keeps.step ?_ (msTicks_keeps _ _) ?_)
    | (with_reducible apply Keeps.step ?_ (toNextTick_keeps _) ?_)
    | (split)
    | (dsimp only)
    | (dsimp +zetaDelta only)

theorem execFllWindow_keeps (field count : Nat) (s : State) {t : State} (h : execFllWindow field count s = .next t) : Keeps [.time, .clk, .fld, .power, .events, .sec, .parts, .tiles, .mem, .ecc, .mesh, .crest, .fabric, .settings, .pilot, .test, .regs] s t := by
  unfold execFllWindow at h
  injection h with h
  subst h
  repeat' first
    | (with_reducible exact Keeps.refl _ _)
    | (with_reducible assumption)
    | (exact rfl)
    | (exact ‹_ + _ = 32›)
    | (intro)
    | (extract_lets)
    | (with_reducible apply Keeps.ite)
    | (with_reducible apply Keeps.foldl)
    | (with_reducible apply Keeps.foldlSnd)
    | (with_reducible apply Keeps.step ?_ (fllStep_keeps _ _ _) ?_)
    | (split)
    | (dsimp only)
    | (dsimp +zetaDelta only)

theorem execSupplyGood_keeps (field : Nat) (s : State) {t : State} (h : execSupplyGood field s = .next t) : Keeps [.clk, .fld] s t := by
  unfold execSupplyGood at h
  injection h with h
  subst h
  repeat' first
    | (with_reducible exact Keeps.refl _ _)
    | (with_reducible assumption)
    | (exact rfl)
    | (exact ‹_ + _ = 32›)
    | (intro)
    | (extract_lets)
    | (with_reducible apply Keeps.ite)
    | (with_reducible apply Keeps.foldl)
    | (with_reducible apply Keeps.foldlSnd)
    | (with_reducible apply Keeps.step ?_ (supplyIsGood_keeps _ _) ?_)
    | (split)
    | (dsimp only)
    | (dsimp +zetaDelta only)

theorem execSettleDelayExpire_keeps (field : Nat) (s : State) {t : State} (h : execSettleDelayExpire field s = .next t) : Keeps [.time, .clk, .pilot] s t := by
  unfold execSettleDelayExpire at h
  injection h with h
  subst h
  repeat' first
    | (with_reducible exact Keeps.refl _ _)
    | (with_reducible assumption)
    | (exact rfl)
    | (exact ‹_ + _ = 32›)
    | (intro)
    | (extract_lets)
    | (with_reducible apply Keeps.ite)
    | (with_reducible apply Keeps.foldl)
    | (with_reducible apply Keeps.foldlSnd)
    | (with_reducible apply Keeps.step ?_ (settleOver_keeps _ _) ?_)
    | (split)
    | (dsimp only)
    | (dsimp +zetaDelta only)

theorem execPllLock_keeps (pll : Nat) (s : State) {t : State} (h : execPllLock pll s = .next t) : Keeps [.time] s t := by
  unfold execPllLock at h
  injection h with h
  subst h
  repeat' first
    | (with_reducible exact Keeps.refl _ _)
    | (with_reducible assumption)
    | (exact rfl)
    | (exact ‹_ + _ = 32›)
    | (intro)
    | (extract_lets)
    | (with_reducible apply Keeps.ite)
    | (with_reducible apply Keeps.foldl)
    | (with_reducible apply Keeps.foldlSnd)
    | (fail_if_no_progress ((with_reducible apply Keeps.setTime) <;> [skip; (exact rfl)]))
    | (split)
    | (dsimp only)
    | (dsimp +zetaDelta only)

theorem execPllLoss_keeps (pll : Nat) (s : State) {t : State} (h : execPllLoss pll s = .next t) : Keeps [.time, .events, .regs] s t := by
  unfold execPllLoss at h
  injection h with h
  subst h
  repeat' first
    | (with_reducible exact Keeps.refl _ _)
    | (with_reducible assumption)
    | (exact rfl)
    | (exact ‹_ + _ = 32›)
    | (intro)
    | (extract_lets)
    | (with_reducible apply Keeps.ite)
    | (with_reducible apply Keeps.foldl)
    | (with_reducible apply Keeps.foldlSnd)
    | (with_reducible apply Keeps.step ?_ (pllLost_keeps _ _) ?_)
    | (split)
    | (dsimp only)
    | (dsimp +zetaDelta only)

theorem execSourceSwitch_keeps (via : Via) (sub value : Nat) (s : State) {t : State} (h : execSourceSwitch via sub value s = .next t) : Keeps [.time, .clk, .fld, .power, .ledger, .cope, .drag, .lease, .events, .sec, .parts, .tiles, .mem, .ecc, .mesh, .crest, .fabric, .settings, .pilot, .test, .regs] s t := by
  unfold execSourceSwitch at h
  injection h with h
  subst h
  repeat' first
    | (with_reducible exact Keeps.refl _ _)
    | (with_reducible assumption)
    | (exact rfl)
    | (exact ‹_ + _ = 32›)
    | (intro)
    | (extract_lets)
    | (with_reducible apply Keeps.ite)
    | (with_reducible apply Keeps.foldl)
    | (with_reducible apply Keeps.foldlSnd)
    | (with_reducible apply Keeps.step ?_ (viaNum_keeps _ _ _ _ _ _ _) ?_)
    | (split)
    | (dsimp only)
    | (dsimp +zetaDelta only)

theorem execPllMultiplierWrite_keeps (via : Via) (sub value : Nat) (s : State) {t : State} (h : execPllMultiplierWrite via sub value s = .next t) : Keeps [.time, .clk, .fld, .power, .ledger, .cope, .drag, .lease, .events, .sec, .parts, .tiles, .mem, .ecc, .mesh, .crest, .fabric, .settings, .pilot, .test, .regs] s t := by
  unfold execPllMultiplierWrite at h
  injection h with h
  subst h
  repeat' first
    | (with_reducible exact Keeps.refl _ _)
    | (with_reducible assumption)
    | (exact rfl)
    | (exact ‹_ + _ = 32›)
    | (intro)
    | (extract_lets)
    | (with_reducible apply Keeps.ite)
    | (with_reducible apply Keeps.foldl)
    | (with_reducible apply Keeps.foldlSnd)
    | (with_reducible apply Keeps.step ?_ (viaNum_keeps _ _ _ _ _ _ _) ?_)
    | (split)
    | (dsimp only)
    | (dsimp +zetaDelta only)

theorem execFieldClockTargetWrite_keeps (via : Via) (field value : Nat) (s : State) {t : State} (h : execFieldClockTargetWrite via field value s = .next t) : Keeps [.time, .clk, .fld, .power, .ledger, .cope, .drag, .lease, .events, .sec, .parts, .tiles, .mem, .ecc, .mesh, .crest, .fabric, .settings, .pilot, .test, .regs] s t := by
  unfold execFieldClockTargetWrite at h
  injection h with h
  subst h
  repeat' first
    | (with_reducible exact Keeps.refl _ _)
    | (with_reducible assumption)
    | (exact rfl)
    | (exact ‹_ + _ = 32›)
    | (intro)
    | (extract_lets)
    | (with_reducible apply Keeps.ite)
    | (with_reducible apply Keeps.foldl)
    | (with_reducible apply Keeps.foldlSnd)
    | (with_reducible apply Keeps.step ?_ (viaNum_keeps _ _ _ _ _ _ _) ?_)
    | (split)
    | (dsimp only)
    | (dsimp +zetaDelta only)

theorem execPpsEdge_keeps (pin : Nat) (s : State) {t : State} (h : execPpsEdge pin s = .next t) : Keeps [.time, .pilot] s t := by
  unfold execPpsEdge at h
  injection h with h
  subst h
  repeat' first
    | (with_reducible exact Keeps.refl _ _)
    | (with_reducible assumption)
    | (exact rfl)
    | (exact ‹_ + _ = 32›)
    | (intro)
    | (extract_lets)
    | (with_reducible apply Keeps.ite)
    | (with_reducible apply Keeps.foldl)
    | (with_reducible apply Keeps.foldlSnd)
    | (with_reducible apply Keeps.step ?_ (ppsStamp_keeps _) ?_)
    | (with_reducible apply Keeps.step ?_ (modPin_keeps _ _ _) ?_)
    | (with_reducible apply Keeps.step ?_ (addCycles_keeps _ _) ?_)
    | (split)
    | (dsimp only)
    | (dsimp +zetaDelta only)

end Sys2Proof.Machine
end

