-- ==== Sys2Proof/Laws/Keeps/FabricFam.lean ====
section
/-! SUPPORT. What the operations of Machine/FabricFam.lean may write, and that they keep the invariant. -/

namespace Sys2Proof.Machine

open Sys2Proof

set_option linter.unusedTactic false
set_option linter.unreachableTactic false

theorem portSettled_keeps (i : Nat) (s : State) : Keeps [.time, .fld, .power, .events, .sec, .parts, .tiles, .mem, .ecc, .mesh, .crest, .fabric, .settings, .pilot, .regs] s (portSettled i s) := by
  unfold portSettled
  repeat' first
    | (with_reducible exact Keeps.refl _ _)
    | (with_reducible assumption)
    | (exact rfl)
    | (exact ‹_ + _ = 32›)
    | (intro)
    | (extract_lets)
    | (with_reducible apply Keeps.ite)
    | (with_reducible apply Keeps.foldl)
    | (with_reducible apply Keeps.foldlSnd)
    | (with_reducible apply Keeps.step ?_ (advanceUp_keeps _) ?_)
    | (with_reducible apply Keeps.step ?_ (modPort_keeps _ _ _) ?_)
    | (split)
    | (dsimp only)
    | (dsimp +zetaDelta only)

theorem sendDiscovery_keeps (i : Nat) (s : State) : Keeps [.fabric] s (sendDiscovery i s) := by
  unfold sendDiscovery
  repeat' first
    | (with_reducible exact Keeps.refl _ _)
    | (with_reducible assumption)
    | (exact rfl)
    | (exact ‹_ + _ = 32›)
    | (intro)
    | (extract_lets)
    | (with_reducible apply Keeps.ite)
    | (with_reducible apply Keeps.foldl)
    | (with_reducible apply Keeps.foldlSnd)
    | (fail_if_no_progress ((with_reducible apply Keeps.setFabric) <;> [skip; (exact rfl); (first | exact fun h => h | exact fun _ => rfl | exact flowsOk_nil)]))
    | (split)
    | (dsimp only)
    | (dsimp +zetaDelta only)

theorem execPmdTrainingComplete_keeps (port : Nat) (trained : Bool) (s : State) {t : State} (h : execPmdTrainingComplete port trained s = .next t) : Keeps [.time, .fld, .power, .events, .sec, .parts, .tiles, .mem, .ecc, .mesh, .crest, .fabric, .settings, .pilot, .regs] s t := by
  unfold execPmdTrainingComplete at h
  injection h with h
  subst h
  repeat' first
    | (with_reducible exact Keeps.refl _ _)
    | (with_reducible assumption)
    | (exact rfl)
    | (exact ‹_ + _ = 32›)
    | (intro)
    | (extract_lets)
    | (with_reducible apply Keeps.ite)
    | (with_reducible apply Keeps.foldl)
    | (with_reducible apply Keeps.foldlSnd)
    | (with_reducible apply Keeps.step ?_ (sendDiscovery_keeps _ _) ?_)
    | (with_reducible apply Keeps.step ?_ (setPort_keeps _ _ _) ?_)
    | (with_reducible apply Keeps.step ?_ (portSettled_keeps _ _) ?_)
    | (split)
    | (dsimp only)
    | (dsimp +zetaDelta only)

theorem learnPeer_keeps (port : Nat) (d : Discovery) (s : State) : Keeps [.fabric] s (learnPeer port d s) := by
  unfold learnPeer
  repeat' first
    | (with_reducible exact Keeps.refl _ _)
    | (with_reducible assumption)
    | (exact rfl)
    | (exact ‹_ + _ = 32›)
    | (intro)
    | (extract_lets)
    | (with_reducible apply Keeps.ite)
    | (with_reducible apply Keeps.foldl)
    | (with_reducible apply Keeps.foldlSnd)
    | (with_reducible apply Keeps.step ?_ (modPort_keeps _ _ _) ?_)
    | (split)
    | (dsimp only)
    | (dsimp +zetaDelta only)

theorem linkUp_keeps (port : Nat) (s : State) : Keeps [.events, .fabric] s (linkUp port s) := by
  unfold linkUp
  repeat' first
    | (with_reducible exact Keeps.refl _ _)
    | (with_reducible assumption)
    | (exact rfl)
    | (exact ‹_ + _ = 32›)
    | (intro)
    | (extract_lets)
    | (with_reducible apply Keeps.ite)
    | (with_reducible apply Keeps.foldl)
    | (with_reducible apply Keeps.foldlSnd)
    | (with_reducible apply Keeps.step ?_ (raise_keeps _ _) ?_)
    | (with_reducible apply Keeps.step ?_ (setPort_keeps _ _ _) ?_)
    | (with_reducible apply Keeps.step ?_ (notePair_keeps _ _ _) ?_)
    | (split)
    | (dsimp only)
    | (dsimp +zetaDelta only)

theorem fabricReply_keeps (node domain : Nat) (tag : BitVec 16) (status : Nat) (body : List Byte) (s : State) : Keeps [.events, .fabric] s (fabricReply node domain tag status body s) := by
  unfold fabricReply
  repeat' first
    | (with_reducible exact Keeps.refl _ _)
    | (with_reducible assumption)
    | (exact rfl)
    | (exact ‹_ + _ = 32›)
    | (intro)
    | (extract_lets)
    | (with_reducible apply Keeps.ite)
    | (with_reducible apply Keeps.foldl)
    | (with_reducible apply Keeps.foldlSnd)
    | (with_reducible apply Keeps.step ?_ (sendPkt_keeps _ _ _ _ _) ?_)
    | (split)
    | (dsimp only)
    | (dsimp +zetaDelta only)

theorem fabricRefused_keeps (node domain : Nat) (tag : BitVec 16) (s : State) : Keeps [.events, .fabric] s (fabricRefused node domain tag s) := by
  unfold fabricRefused
  repeat' first
    | (with_reducible exact Keeps.refl _ _)
    | (with_reducible assumption)
    | (exact rfl)
    | (exact ‹_ + _ = 32›)
    | (intro)
    | (extract_lets)
    | (with_reducible apply Keeps.ite)
    | (with_reducible apply Keeps.foldl)
    | (with_reducible apply Keeps.foldlSnd)
    | (with_reducible apply Keeps.step ?_ (fabricReply_keeps _ _ _ _ _ _) ?_)
    | (split)
    | (dsimp only)
    | (dsimp +zetaDelta only)

theorem execDiscovery_keeps (port : Nat) (d : Discovery) (s : State) {t : State} (h : execDiscovery port d s = .next t) : Keeps [.time, .fld, .power, .events, .sec, .parts, .tiles, .mem, .ecc, .mesh, .crest, .fabric, .settings, .pilot, .regs] s t := by
  unfold execDiscovery at h
  injection h with h
  subst h
  repeat' first
    | (with_reducible exact Keeps.refl _ _)
    | (with_reducible assumption)
    | (exact rfl)
    | (exact ‹_ + _ = 32›)
    | (intro)
    | (extract_lets)
    | (with_reducible apply Keeps.ite)
    | (with_reducible apply Keeps.foldl)
    | (with_reducible apply Keeps.foldlSnd)
    | (with_reducible apply Keeps.step ?_ (fabricRefused_keeps _ _ _ _) ?_)
    | (with_reducible apply Keeps.step ?_ (learnPeer_keeps _ _ _) ?_)
    | (with_reducible apply Keeps.step ?_ (portSettled_keeps _ _) ?_)
    | (with_reducible apply Keeps.step ?_ (raise_keeps _ _) ?_)
    | (with_reducible apply Keeps.step ?_ (setPort_keeps _ _ _) ?_)
    | (with_reducible apply Keeps.step ?_ (linkUp_keeps _ _) ?_)
    | (split)
    | (dsimp only)
    | (dsimp +zetaDelta only)

theorem execRetrainInterval_keeps (port : Nat) (s : State) {t : State} (h : execRetrainInterval port s = .next t) : Keeps [.events, .fabric] s t := by
  unfold execRetrainInterval at h
  injection h with h
  subst h
  repeat' first
    | (with_reducible exact Keeps.refl _ _)
    | (with_reducible assumption)
    | (exact rfl)
    | (exact ‹_ + _ = 32›)
    | (intro)
    | (extract_lets)
    | (with_reducible apply Keeps.ite)
    | (with_reducible apply Keeps.foldl)
    | (with_reducible apply Keeps.foldlSnd)
    | (with_reducible apply Keeps.step ?_ (portTrain_keeps _ _) ?_)
    | (split)
    | (dsimp only)
    | (dsimp +zetaDelta only)

theorem replayPort_keeps (port : Nat) (s : State) : Keeps [.power, .events, .fabric] s (replayPort port s) := by
  unfold replayPort
  repeat' first
    | (with_reducible exact Keeps.refl _ _)
    | (with_reducible assumption)
    | (exact rfl)
    | (exact ‹_ + _ = 32›)
    | (intro)
    | (extract_lets)
    | (with_reducible apply Keeps.ite)
    | (with_reducible apply Keeps.foldl)
    | (with_reducible apply Keeps.foldlSnd)
    | (fail_if_no_progress ((with_reducible apply Keeps.setFabric) <;> [skip; (exact rfl); (first | exact fun h => h | exact fun _ => rfl | exact flowsOk_nil)]))
    | (with_reducible apply Keeps.step ?_ (modPort_keeps _ _ _) ?_)
    | (with_reducible apply Keeps.step ?_ (linkDown_keeps _ _) ?_)
    | (split)
    | (dsimp only)
    | (dsimp +zetaDelta only)

theorem execLinkStatusBlock_keeps (port : Nat) (nak : Bool) (ack : BitVec 16) (off : BitVec 4) (s : State) {t : State} (h : execLinkStatusBlock port nak ack off s = .next t) : Keeps [.power, .events, .fabric] s t := by
  unfold execLinkStatusBlock at h
  injection h with h
  subst h
  repeat' first
    | (with_reducible exact Keeps.refl _ _)
    | (with_reducible assumption)
    | (exact rfl)
    | (exact ‹_ + _ = 32›)
    | (intro)
    | (extract_lets)
    | (with_reducible apply Keeps.ite)
    | (with_reducible apply Keeps.foldl)
    | (with_reducible apply Keeps.foldlSnd)
    | (with_reducible apply Keeps.step ?_ (modPort_keeps _ _ _) ?_)
    | (with_reducible apply Keeps.step ?_ (replayPort_keeps _ _) ?_)
    | (with_reducible apply Keeps.step ?_ (refreshOff_keeps _) ?_)
    | (with_reducible apply Keeps.step ?_ (drainPort_keeps _ _) ?_)
    | (split)
    | (dsimp only)
    | (dsimp +zetaDelta only)

theorem execLinkStatusSend_keeps (port : Nat) (s : State) {t : State} (h : execLinkStatusSend port s = .next t) : Keeps [.fabric] s t := by
  unfold execLinkStatusSend at h
  injection h with h
  subst h
  repeat' first
    | (with_reducible exact Keeps.refl _ _)
    | (with_reducible assumption)
    | (exact rfl)
    | (exact ‹_ + _ = 32›)
    | (intro)
    | (extract_lets)
    | (with_reducible apply Keeps.ite)
    | (with_reducible apply Keeps.foldl)
    | (with_reducible apply Keeps.foldlSnd)
    | (with_reducible apply Keeps.step ?_ (sendBlock_keeps _ _ _) ?_)
    | (split)
    | (dsimp only)
    | (dsimp +zetaDelta only)

theorem execReplayTimeout_keeps (port : Nat) (s : State) {t : State} (h : execReplayTimeout port s = .next t) : Keeps [.power, .events, .fabric] s t := by
  unfold execReplayTimeout at h
  injection h with h
  subst h
  repeat' first
    | (with_reducible exact Keeps.refl _ _)
    | (with_reducible assumption)
    | (exact rfl)
    | (exact ‹_ + _ = 32›)
    | (intro)
    | (extract_lets)
    | (with_reducible apply Keeps.ite)
    | (with_reducible apply Keeps.foldl)
    | (with_reducible apply Keeps.foldlSnd)
    | (with_reducible apply Keeps.step ?_ (replayPort_keeps _ _) ?_)
    | (split)
    | (dsimp only)
    | (dsimp +zetaDelta only)

theorem refuseOpcode_keeps (p : Pkt) (h : Hdr) (op : Nat) (s : State) : Keeps [.events, .parts, .fabric] s (refuseOpcode p h op s) := by
  unfold refuseOpcode
  repeat' first
    | (with_reducible exact Keeps.refl _ _)
    | (with_reducible assumption)
    | (exact rfl)
    | (exact ‹_ + _ = 32›)
    | (intro)
    | (extract_lets)
    | (with_reducible apply Keeps.ite)
    | (with_reducible apply Keeps.foldl)
    | (with_reducible apply Keeps.foldlSnd)
    | (with_reducible apply Keeps.step ?_ (answerMem_keeps _ _ _ _ _ _ _ _ _) ?_)
    | (with_reducible apply Keeps.step ?_ (memFails_keeps _ _ _ _ _) ?_)
    | (with_reducible apply Keeps.step ?_ (replyRun_keeps _ _ _ _ _ _) ?_)
    | (with_reducible apply Keeps.step ?_ (replySync_keeps _ _ _ _ _ _ _ _) ?_)
    | (with_reducible apply Keeps.step ?_ (mgmtReply_keeps _ _ _ _ _ _ _ _ _ _) ?_)
    | (with_reducible apply Keeps.step ?_ (fabricRefused_keeps _ _ _ _) ?_)
    | (split)
    | (dsimp only)
    | (dsimp +zetaDelta only)

theorem execReservedUnit_keeps (u : ReservedUnit) (s : State) {t : State} (h : execReservedUnit u s = .next t) : Keeps [.power, .events, .parts, .fabric] s t := by
  unfold execReservedUnit at h
  injection h with h
  subst h
  repeat' first
    | (with_reducible exact Keeps.refl _ _)
    | (with_reducible assumption)
    | (exact rfl)
    | (exact ‹_ + _ = 32›)
    | (intro)
    | (extract_lets)
    | (with_reducible apply Keeps.ite)
    | (with_reducible apply Keeps.foldl)
    | (with_reducible apply Keeps.foldlSnd)
    | (with_reducible apply Keeps.trans ?_ (linkTake_keeps _ _ _ _ _ _ _ ?_ ?_))
    | (with_reducible apply Keeps.step ?_ (raise_keeps _ _) ?_)
    | (with_reducible apply Keeps.trans ?_ (ingress_keeps _ _ _ _ ?_ ?_))
    | (with_reducible apply Keeps.step ?_ (refuseOpcode_keeps _ _ _ _) ?_)
    | (split)
    | (dsimp only)
    | (dsimp +zetaDelta only)

theorem execTransitPacket_keeps (port dst src domain : Nat) (seq : BitVec 16) (vc hops : Nat) (nonMin : Bool) (x : TransitRest) (s : State) {t : State} (h : execTransitPacket port dst src domain seq vc hops nonMin x s = .next t) : Keeps [.power, .events, .fabric] s t := by
  unfold execTransitPacket at h
  injection h with h
  subst h
  repeat' first
    | (with_reducible exact Keeps.refl _ _)
    | (with_reducible assumption)
    | (exact rfl)
    | (exact ‹_ + _ = 32›)
    | (intro)
    | (extract_lets)
    | (with_reducible apply Keeps.ite)
    | (with_reducible apply Keeps.foldl)
    | (with_reducible apply Keeps.foldlSnd)
    | (with_reducible apply Keeps.trans ?_ (linkTake_keeps _ _ _ _ _ _ _ ?_ ?_))
    | (with_reducible apply Keeps.step ?_ (raise_keeps _ _) ?_)
    | (with_reducible apply Keeps.step ?_ (refreshOff_keeps _) ?_)
    | (with_reducible apply Keeps.step ?_ (putOnPort_keeps _ _ _) ?_)
    | (split)
    | (dsimp only)
    | (dsimp +zetaDelta only)

theorem execEscapeTimeout_keeps (port : Nat) (hopSeq : BitVec 16) (s : State) {t : State} (h : execEscapeTimeout port hopSeq s = .next t) : Keeps [.power, .fabric] s t := by
  unfold execEscapeTimeout at h
  injection h with h
  subst h
  repeat' first
    | (with_reducible exact Keeps.refl _ _)
    | (with_reducible assumption)
    | (exact rfl)
    | (exact ‹_ + _ = 32›)
    | (intro)
    | (extract_lets)
    | (with_reducible apply Keeps.ite)
    | (with_reducible apply Keeps.foldl)
    | (with_reducible apply Keeps.foldlSnd)
    | (with_reducible apply Keeps.step ?_ (modPort_keeps _ _ _) ?_)
    | (with_reducible apply Keeps.step ?_ (leftBy_keeps _ _ _ _ _) ?_)
    | (with_reducible apply Keeps.step ?_ (refreshOff_keeps _) ?_)
    | (with_reducible apply Keeps.step ?_ (putOnPort_keeps _ _ _) ?_)
    | (split)
    | (dsimp only)
    | (dsimp +zetaDelta only)

theorem refuseWaiting_keeps (dst domain : Nat) (q : Packet) (s : State) : Keeps [.fld, .power, .events, .parts, .mesh, .crest, .fabric, .settings] s (refuseWaiting dst domain q s) := by
  unfold refuseWaiting
  repeat' first
    | (with_reducible exact Keeps.refl _ _)
    | (with_reducible assumption)
    | (exact rfl)
    | (exact ‹_ + _ = 32›)
    | (intro)
    | (extract_lets)
    | (with_reducible apply Keeps.ite)
    | (with_reducible apply Keeps.foldl)
    | (with_reducible apply Keeps.foldlSnd)
    | (fail_if_no_progress ((with_reducible apply Keeps.setFabric) <;> [skip; (exact rfl); (first | exact fun h => h | exact fun _ => rfl | exact flowsOk_nil)]))
    | (with_reducible apply Keeps.step ?_ (modTx_keeps _ _ _ _ ?_) ?_)
    | (with_reducible apply Keeps.step ?_ (raise_keeps _ _) ?_)
    | (with_reducible apply Keeps.step ?_ (memLost_keeps _ _ _) ?_)
    | (with_reducible apply Keeps.step ?_ (advanceReset_keeps _ _) ?_)
    | (with_reducible apply Keeps.step ?_ (modPart_keeps _ _ _) ?_)
    | ((simp only [List.length_map]; assumption))
    | (split)
    | (dsimp only)
    | (dsimp +zetaDelta only)

theorem launchPacket_keeps (dst domain : Nat) (q : Packet) (slot gen i : Nat) (nm : Bool) (s : State)
    (hc : (getTx s dst domain).credits ≠ 0) : Keeps [.power, .parts, .fabric] s (launchPacket dst domain q slot gen i nm s) := by
  unfold launchPacket
  extract_lets n size w t u
  refine Keeps.step ?_ (noteTraffic_keeps _ _) rfl
  refine Keeps.step ?_ (putOnPort_keeps _ _ _) rfl
  refine Keeps.step ?_ (modPort_keeps _ _ _) rfl
  unfold t modTx
  refine Keeps.setFabric (Keeps.refl _ _) rfl (fun h => flowsOk_set h ?_)
  have hf := flowsOk_get h (flowKey dst domain)
  unfold getTx at hc
  simp only [List.length_append, List.length_singleton]
  omega

theorem execPacketSend_keeps (dst domain : Nat) (s : State) {t : State} (h : execPacketSend dst domain s = .next t) :
    Keeps [.fld, .power, .events, .parts, .mesh, .crest, .fabric, .settings] s t := by
  unfold execPacketSend at h
  injection h with h
  subst h
  extract_lets f
  split
  · exact Keeps.refl _ _
  · split
    · exact (refuseWaiting_keeps _ _ _ _).mono rfl
    · split
      · exact Keeps.refl _ _
      · next hc =>
        refine Keeps.ite (Keeps.ite (Keeps.refl _ _) ?_) ?_
        · refine Keeps.step ?_ (raise_keeps _ _) rfl
          refine (modTx_keeps _ _ _ _ ?_).mono rfl
          exact fun _ h => h
        · split
          · exact Keeps.refl _ _
          · refine Keeps.ite (Keeps.refl _ _) ((launchPacket_keeps _ _ _ _ _ _ _ _ ?_).mono rfl)
            intro h0
            simp [f, h0] at hc

theorem noteControl_keeps (p : Pkt) (s : State) : Keeps [.fabric] s (noteControl p s) := by
  unfold noteControl
  repeat' first
    | (with_reducible exact Keeps.refl _ _)
    | (with_reducible assumption)
    | (exact rfl)
    | (exact ‹_ + _ = 32›)
    | (intro)
    | (extract_lets)
    | (with_reducible apply Keeps.ite)
    | (with_reducible apply Keeps.foldl)
    | (with_reducible apply Keeps.foldlSnd)
    | (fail_if_no_progress ((with_reducible apply Keeps.setFabric) <;> [skip; (exact rfl); (first | exact fun h => h | exact fun _ => rfl | exact flowsOk_nil)]))
    | (split)
    | (dsimp only)
    | (dsimp +zetaDelta only)

theorem unsequenced_keeps {w : List Region} (p : Pkt) (act : State → State) (s : State) (hact : ∀ s, Keeps w s (act s))
    (hw : List.all [.power, .events, .fabric] (w.contains ·) = true) : Keeps w s (unsequenced p act s) := by
  unfold unsequenced
  repeat' first
    | (with_reducible exact Keeps.refl _ _)
    | (with_reducible assumption)
    | (exact rfl)
    | (exact ‹_ + _ = 32›)
    | (intro)
    | (extract_lets)
    | (with_reducible apply Keeps.ite)
    | (with_reducible apply Keeps.foldl)
    | (with_reducible apply Keeps.foldlSnd)
    | (with_reducible apply Keeps.trans ?_ (hact _))
    | (with_reducible apply Keeps.trans ?_ (linkTake_keeps _ _ _ _ _ _ _ ?_ ?_))
    | (with_reducible apply Keeps.step ?_ (noteControl_keeps _ _) ?_)
    | (with_reducible apply Keeps.step ?_ (raise_keeps _ _) ?_)
    | (exact cover rfl hw)
    | ((simp_all; done))
    | (split)
    | (dsimp only)
    | (dsimp +zetaDelta only)

theorem resolveSeq_keeps (dst domain : Nat) (q : BitVec 16) (how : Resolved) (s : State) : Keeps [.fld, .power, .events, .sec, .parts, .mesh, .crest, .fabric, .settings] s (resolveSeq dst domain q how s) := by
  unfold resolveSeq
  repeat' first
    | (with_reducible exact Keeps.refl _ _)
    | (with_reducible assumption)
    | (exact rfl)
    | (exact ‹_ + _ = 32›)
    | (intro)
    | (extract_lets)
    | (with_reducible apply Keeps.ite)
    | (with_reducible apply Keeps.foldl)
    | (with_reducible apply Keeps.foldlSnd)
    | (with_reducible apply Keeps.step ?_ (restartFlows_keeps _ _) ?_)
    | (with_reducible apply Keeps.step ?_ (resolvePkt_keeps _ _ _ _ _) ?_)
    | (split)
    | (dsimp only)
    | (dsimp +zetaDelta only)

theorem execE2eAck_keeps (p : Pkt) (base : BitVec 16) (delivered refused : BitVec 32) (s : State) {t : State} (h : execE2eAck p base delivered refused s = .next t) : Keeps [.fld, .power, .events, .sec, .parts, .mesh, .crest, .fabric, .settings] s t := by
  unfold execE2eAck at h
  injection h with h
  subst h
  repeat' first
    | (with_reducible exact Keeps.refl _ _)
    | (with_reducible assumption)
    | (exact rfl)
    | (exact ‹_ + _ = 32›)
    | (intro)
    | (extract_lets)
    | (with_reducible apply Keeps.ite)
    | (with_reducible apply Keeps.foldl)
    | (with_reducible apply Keeps.foldlSnd)
    | (with_reducible apply Keeps.trans ?_ (unsequenced_keeps _ _ _ ?_ ?_))
    | (with_reducible apply Keeps.step ?_ (fabricRefused_keeps _ _ _ _) ?_)
    | (with_reducible apply Keeps.step ?_ (resolveSeq_keeps _ _ _ _ _) ?_)
    | (split)
    | (dsimp only)
    | (dsimp +zetaDelta only)

theorem sendSkip_keeps (dst domain : Nat) (o : Outst) (s : State) : Keeps [.power, .events, .fabric] s (sendSkip dst domain o s) := by
  unfold sendSkip
  repeat' first
    | (with_reducible exact Keeps.refl _ _)
    | (with_reducible assumption)
    | (exact rfl)
    | (exact ‹_ + _ = 32›)
    | (intro)
    | (extract_lets)
    | (with_reducible apply Keeps.ite)
    | (with_reducible apply Keeps.foldl)
    | (with_reducible apply Keeps.foldlSnd)
    | (with_reducible apply Keeps.step ?_ (sendUnseq_keeps _ _ _ _ _ _) ?_)
    | (split)
    | (dsimp only)
    | (dsimp +zetaDelta only)

theorem execRetransmitTimeout_keeps (dst domain seq : Nat) (s : State) {t : State}
    (h : execRetransmitTimeout dst domain seq s = .next t) : Keeps [.power, .events, .fabric] s t := by
  unfold execRetransmitTimeout at h
  injection h with h
  subst h
  split
  · exact Keeps.refl _ _
  · next o _ =>
    extract_lets mark
    have hm : ∀ g, Keeps [.power, .events, .fabric] s (mark g) := fun g => (modTx_keeps _ _ _ _ (fun f h => by simpa using h)).mono rfl
    exact Keeps.ite ((hm _).step (sendSkip_keeps _ _ _ _) rfl) ((hm _).step (resend_keeps _ _) rfl)

theorem answerSkip_keeps (p : Pkt) (q : BitVec 16) (status : Nat) (s : State) : Keeps [.power, .events, .fabric] s (answerSkip p q status s) := by
  unfold answerSkip
  repeat' first
    | (with_reducible exact Keeps.refl _ _)
    | (with_reducible assumption)
    | (exact rfl)
    | (exact ‹_ + _ = 32›)
    | (intro)
    | (extract_lets)
    | (with_reducible apply Keeps.ite)
    | (with_reducible apply Keeps.foldl)
    | (with_reducible apply Keeps.foldlSnd)
    | (with_reducible apply Keeps.step ?_ (sendUnseq_keeps _ _ _ _ _ _) ?_)
    | (split)
    | (dsimp only)
    | (dsimp +zetaDelta only)

theorem skipped_keeps (p : Pkt) (q : BitVec 16) (s : State) : Keeps [.power, .events, .fabric] s (skipped p q s) := by
  unfold skipped
  repeat' first
    | (with_reducible exact Keeps.refl _ _)
    | (with_reducible assumption)
    | (exact rfl)
    | (exact ‹_ + _ = 32›)
    | (intro)
    | (extract_lets)
    | (with_reducible apply Keeps.ite)
    | (with_reducible apply Keeps.foldl)
    | (with_reducible apply Keeps.foldlSnd)
    | (with_reducible apply Keeps.step ?_ (restartRx_keeps _ _) ?_)
    | (with_reducible apply Keeps.step ?_ (answerSkip_keeps _ _ _ _) ?_)
    | (with_reducible apply Keeps.step ?_ (advanceAll_keeps _ _ _) ?_)
    | (with_reducible apply Keeps.step ?_ (modRx_keeps _ _ _ _) ?_)
    | (split)
    | (dsimp only)
    | (dsimp +zetaDelta only)

theorem execSkipQuery_keeps (p : Pkt) (seq : BitVec 16) (s : State) {t : State} (h : execSkipQuery p seq s = .next t) : Keeps [.power, .events, .fabric] s t := by
  unfold execSkipQuery at h
  injection h with h
  subst h
  repeat' first
    | (with_reducible exact Keeps.refl _ _)
    | (with_reducible assumption)
    | (exact rfl)
    | (exact ‹_ + _ = 32›)
    | (intro)
    | (extract_lets)
    | (with_reducible apply Keeps.ite)
    | (with_reducible apply Keeps.foldl)
    | (with_reducible apply Keeps.foldlSnd)
    | (with_reducible apply Keeps.trans ?_ (linkTake_keeps _ _ _ _ _ _ _ ?_ ?_))
    | (with_reducible apply Keeps.step ?_ (sendUnseq_keeps _ _ _ _ _ _) ?_)
    | (with_reducible apply Keeps.trans ?_ (unsequenced_keeps _ _ _ ?_ ?_))
    | (with_reducible apply Keeps.step ?_ (skipped_keeps _ _ _) ?_)
    | (split)
    | (dsimp only)
    | (dsimp +zetaDelta only)

theorem skipResolved_keeps (p : Pkt) (q : BitVec 16) (status : Nat) (s : State) : Keeps [.fld, .power, .events, .sec, .parts, .mesh, .crest, .fabric, .settings] s (skipResolved p q status s) := by
  unfold skipResolved
  repeat' first
    | (with_reducible exact Keeps.refl _ _)
    | (with_reducible assumption)
    | (exact rfl)
    | (exact ‹_ + _ = 32›)
    | (intro)
    | (extract_lets)
    | (with_reducible apply Keeps.ite)
    | (with_reducible apply Keeps.foldl)
    | (with_reducible apply Keeps.foldlSnd)
    | (with_reducible apply Keeps.step ?_ (resolveSeq_keeps _ _ _ _ _) ?_)
    | (with_reducible apply Keeps.step ?_ (raise_keeps _ _) ?_)
    | (split)
    | (dsimp only)
    | (dsimp +zetaDelta only)

theorem execSkipAnswer_keeps (p : Pkt) (seq : BitVec 16) (status : Nat) (clear : Bool) (s : State) {t : State} (h : execSkipAnswer p seq status clear s = .next t) : Keeps [.fld, .power, .events, .sec, .parts, .mesh, .crest, .fabric, .settings] s t := by
  unfold execSkipAnswer at h
  injection h with h
  subst h
  repeat' first
    | (with_reducible exact Keeps.refl _ _)
    | (with_reducible assumption)
    | (exact rfl)
    | (exact ‹_ + _ = 32›)
    | (intro)
    | (extract_lets)
    | (with_reducible apply Keeps.ite)
    | (with_reducible apply Keeps.foldl)
    | (with_reducible apply Keeps.foldlSnd)
    | (with_reducible apply Keeps.trans ?_ (linkTake_keeps _ _ _ _ _ _ _ ?_ ?_))
    | (with_reducible apply Keeps.step ?_ (skipResolved_keeps _ _ _ _) ?_)
    | (with_reducible apply Keeps.trans ?_ (unsequenced_keeps _ _ _ ?_ ?_))
    | (with_reducible apply Keeps.step ?_ (fabricRefused_keeps _ _ _ _) ?_)
    | (split)
    | (dsimp only)
    | (dsimp +zetaDelta only)

theorem takeNotice_keeps (p : Pkt) (port state peerNode : Nat) (s : State) : Keeps [.events, .fabric] s (takeNotice p port state peerNode s) := by
  unfold takeNotice
  repeat' first
    | (with_reducible exact Keeps.refl _ _)
    | (with_reducible assumption)
    | (exact rfl)
    | (exact ‹_ + _ = 32›)
    | (intro)
    | (extract_lets)
    | (with_reducible apply Keeps.ite)
    | (with_reducible apply Keeps.foldl)
    | (with_reducible apply Keeps.foldlSnd)
    | (fail_if_no_progress ((with_reducible apply Keeps.setFabric) <;> [skip; (exact rfl); (first | exact fun h => h | exact fun _ => rfl | exact flowsOk_nil)]))
    | (with_reducible apply Keeps.step ?_ (notePair_keeps _ _ _) ?_)
    | (split)
    | (dsimp only)
    | (dsimp +zetaDelta only)

theorem execLinkState_keeps (p : Pkt) (port state peerNode peerPort : Nat) (s : State) {t : State} (h : execLinkState p port state peerNode peerPort s = .next t) : Keeps [.power, .events, .fabric] s t := by
  unfold execLinkState at h
  injection h with h
  subst h
  repeat' first
    | (with_reducible exact Keeps.refl _ _)
    | (with_reducible assumption)
    | (exact rfl)
    | (exact ‹_ + _ = 32›)
    | (intro)
    | (extract_lets)
    | (with_reducible apply Keeps.ite)
    | (with_reducible apply Keeps.foldl)
    | (with_reducible apply Keeps.foldlSnd)
    | (with_reducible apply Keeps.trans ?_ (ingress_keeps _ _ _ _ ?_ ?_))
    | (with_reducible apply Keeps.step ?_ (fabricRefused_keeps _ _ _ _) ?_)
    | (with_reducible apply Keeps.step ?_ (takeNotice_keeps _ _ _ _ _) ?_)
    | (split)
    | (dsimp only)
    | (dsimp +zetaDelta only)

theorem execPortQuery_keeps (p : Pkt) (h : Hdr) (port : Nat) (s : State) {t : State} (h : execPortQuery p h port s = .next t) : Keeps [.power, .events, .fabric] s t := by
  unfold execPortQuery at h
  injection h with h
  subst h
  repeat' first
    | (with_reducible exact Keeps.refl _ _)
    | (with_reducible assumption)
    | (exact rfl)
    | (exact ‹_ + _ = 32›)
    | (intro)
    | (extract_lets)
    | (with_reducible apply Keeps.ite)
    | (with_reducible apply Keeps.foldl)
    | (with_reducible apply Keeps.foldlSnd)
    | (with_reducible apply Keeps.trans ?_ (ingress_keeps _ _ _ _ ?_ ?_))
    | (with_reducible apply Keeps.step ?_ (fabricRefused_keeps _ _ _ _) ?_)
    | (with_reducible apply Keeps.step ?_ (fabricReply_keeps _ _ _ _ _ _) ?_)
    | (split)
    | (dsimp only)
    | (dsimp +zetaDelta only)

theorem execPortControl_keeps (p : Pkt) (h : Hdr) (port action : Nat) (permit : List Byte) (s : State) {t : State} (h : execPortControl p h port action permit s = .next t) : Keeps [.clk, .fld, .power, .ledger, .events, .sec, .parts, .tiles, .mem, .ecc, .mesh, .crest, .fabric, .settings, .pilot, .test, .regs] s t := by
  unfold execPortControl at h
  injection h with h
  subst h
  repeat' first
    | (with_reducible exact Keeps.refl _ _)
    | (with_reducible assumption)
    | (exact rfl)
    | (exact ‹_ + _ = 32›)
    | (intro)
    | (extract_lets)
    | (with_reducible apply Keeps.ite)
    | (with_reducible apply Keeps.foldl)
    | (with_reducible apply Keeps.foldlSnd)
    | (with_reducible apply Keeps.trans ?_ (ingress_keeps _ _ _ _ ?_ ?_))
    | (with_reducible apply Keeps.step ?_ (checkPermit_keeps _ _ _) ?_)
    | (with_reducible apply Keeps.step ?_ (checkPermit_eq ‹_›) ?_)
    | (with_reducible apply Keeps.step ?_ (fabricReply_keeps _ _ _ _ _ _) ?_)
    | (with_reducible apply Keeps.step ?_ (fabricRefused_keeps _ _ _ _) ?_)
    | (split)
    | (dsimp only)
    | (dsimp +zetaDelta only)

theorem execEchoCmd_keeps (p : Pkt) (h : Hdr) (data : List Byte) (s : State) {t : State} (h : execEchoCmd p h data s = .next t) : Keeps [.power, .events, .fabric] s t := by
  unfold execEchoCmd at h
  injection h with h
  subst h
  repeat' first
    | (with_reducible exact Keeps.refl _ _)
    | (with_reducible assumption)
    | (exact rfl)
    | (exact ‹_ + _ = 32›)
    | (intro)
    | (extract_lets)
    | (with_reducible apply Keeps.ite)
    | (with_reducible apply Keeps.foldl)
    | (with_reducible apply Keeps.foldlSnd)
    | (with_reducible apply Keeps.trans ?_ (ingress_keeps _ _ _ _ ?_ ?_))
    | (with_reducible apply Keeps.step ?_ (fabricReply_keeps _ _ _ _ _ _) ?_)
    | (split)
    | (dsimp only)
    | (dsimp +zetaDelta only)

end Sys2Proof.Machine
end

