-- ==== Sys2Proof/Laws/Keeps/MemFam.lean ====
section
/-! SUPPORT. What the operations of Machine/MemFam.lean may write, and that they keep the invariant. -/

namespace Sys2Proof.Machine

open Sys2Proof

set_option linter.unusedTactic false
set_option linter.unreachableTactic false

theorem execMemLoad_keeps (p : Pkt) (m : MemCmd) (s : State) {t : State} (h : execMemLoad p m s = .next t) : Keeps [.power, .events, .parts, .mesh, .fabric] s t := by
  unfold execMemLoad at h
  injection h with h
  subst h
  repeat' first
    | (with_reducible exact Keeps.refl _ _)
    | (with_reducible assumption)
    | (exact rfl)
    | (exact ‹_ + _ = 32›)
    | (intro)
    | (extract_lets)
    | (with_reducible apply Keeps.ite)
    | (with_reducible apply Keeps.foldl)
    | (with_reducible apply Keeps.foldlSnd)
    | (with_reducible apply Keeps.trans ?_ (ingress_keeps _ _ _ _ ?_ ?_))
    | (with_reducible apply Keeps.step ?_ (startCmd_keeps _ _ _ _ _) ?_)
    | (split)
    | (dsimp only)
    | (dsimp +zetaDelta only)

theorem execMemStore_keeps (p : Pkt) (m : MemCmd) (data : List Byte) (s : State) {t : State} (h : execMemStore p m data s = .next t) : Keeps [.power, .events, .parts, .mesh, .fabric] s t := by
  unfold execMemStore at h
  injection h with h
  subst h
  repeat' first
    | (with_reducible exact Keeps.refl _ _)
    | (with_reducible assumption)
    | (exact rfl)
    | (exact ‹_ + _ = 32›)
    | (intro)
    | (extract_lets)
    | (with_reducible apply Keeps.ite)
    | (with_reducible apply Keeps.foldl)
    | (with_reducible apply Keeps.foldlSnd)
    | (with_reducible apply Keeps.trans ?_ (ingress_keeps _ _ _ _ ?_ ?_))
    | (with_reducible apply Keeps.step ?_ (startCmd_keeps _ _ _ _ _) ?_)
    | (split)
    | (dsimp only)
    | (dsimp +zetaDelta only)

theorem execAtomicAdd_keeps (p : Pkt) (m : MemCmd) (s : State) {t : State} (h : execAtomicAdd p m s = .next t) : Keeps [.power, .events, .parts, .mesh, .fabric] s t := by
  unfold execAtomicAdd at h
  injection h with h
  subst h
  repeat' first
    | (with_reducible exact Keeps.refl _ _)
    | (with_reducible assumption)
    | (exact rfl)
    | (exact ‹_ + _ = 32›)
    | (intro)
    | (extract_lets)
    | (with_reducible apply Keeps.ite)
    | (with_reducible apply Keeps.foldl)
    | (with_reducible apply Keeps.foldlSnd)
    | (with_reducible apply Keeps.trans ?_ (ingress_keeps _ _ _ _ ?_ ?_))
    | (with_reducible apply Keeps.step ?_ (startCmd_keeps _ _ _ _ _) ?_)
    | (split)
    | (dsimp only)
    | (dsimp +zetaDelta only)

theorem execAtomicMax_keeps (p : Pkt) (m : MemCmd) (s : State) {t : State} (h : execAtomicMax p m s = .next t) : Keeps [.power, .events, .parts, .mesh, .fabric] s t := by
  unfold execAtomicMax at h
  injection h with h
  subst h
  repeat' first
    | (with_reducible exact Keeps.refl _ _)
    | (with_reducible assumption)
    | (exact rfl)
    | (exact ‹_ + _ = 32›)
    | (intro)
    | (extract_lets)
    | (with_reducible apply Keeps.ite)
    | (with_reducible apply Keeps.foldl)
    | (with_reducible apply Keeps.foldlSnd)
    | (with_reducible apply Keeps.trans ?_ (ingress_keeps _ _ _ _ ?_ ?_))
    | (with_reducible apply Keeps.step ?_ (startCmd_keeps _ _ _ _ _) ?_)
    | (split)
    | (dsimp only)
    | (dsimp +zetaDelta only)

theorem execAtomicCas_keeps (p : Pkt) (m : MemCmd) (s : State) {t : State} (h : execAtomicCas p m s = .next t) : Keeps [.power, .events, .parts, .mesh, .fabric] s t := by
  unfold execAtomicCas at h
  injection h with h
  subst h
  repeat' first
    | (with_reducible exact Keeps.refl _ _)
    | (with_reducible assumption)
    | (exact rfl)
    | (exact ‹_ + _ = 32›)
    | (intro)
    | (extract_lets)
    | (with_reducible apply Keeps.ite)
    | (with_reducible apply Keeps.foldl)
    | (with_reducible apply Keeps.foldlSnd)
    | (with_reducible apply Keeps.trans ?_ (ingress_keeps _ _ _ _ ?_ ?_))
    | (with_reducible apply Keeps.step ?_ (startCmd_keeps _ _ _ _ _) ?_)
    | (split)
    | (dsimp only)
    | (dsimp +zetaDelta only)

theorem execBulkCopy_keeps (p : Pkt) (m : MemCmd) (s : State) {t : State} (h : execBulkCopy p m s = .next t) : Keeps [.power, .events, .parts, .mesh, .fabric] s t := by
  unfold execBulkCopy at h
  injection h with h
  subst h
  repeat' first
    | (with_reducible exact Keeps.refl _ _)
    | (with_reducible assumption)
    | (exact rfl)
    | (exact ‹_ + _ = 32›)
    | (intro)
    | (extract_lets)
    | (with_reducible apply Keeps.ite)
    | (with_reducible apply Keeps.foldl)
    | (with_reducible apply Keeps.foldlSnd)
    | (with_reducible apply Keeps.trans ?_ (ingress_keeps _ _ _ _ ?_ ?_))
    | (with_reducible apply Keeps.step ?_ (startBulk_keeps _ _ _) ?_)
    | (split)
    | (dsimp only)
    | (dsimp +zetaDelta only)

theorem execTranslationFill_keeps (cache : Nat) (fill : SpanFill) (s : State) {t : State} (h : execTranslationFill cache fill s = .next t) : Keeps [.power, .events, .parts, .mesh, .fabric] s t := by
  unfold execTranslationFill at h
  injection h with h
  subst h
  repeat' first
    | (with_reducible exact Keeps.refl _ _)
    | (with_reducible assumption)
    | (exact rfl)
    | (exact ‹_ + _ = 32›)
    | (intro)
    | (extract_lets)
    | (with_reducible apply Keeps.ite)
    | (with_reducible apply Keeps.foldl)
    | (with_reducible apply Keeps.foldlSnd)
    | (with_reducible apply Keeps.step ?_ (tryOp_keeps _ _ _) ?_)
    | (with_reducible apply Keeps.step ?_ (cacheFill_keeps _ _ _ _) ?_)
    | (split)
    | (dsimp only)
    | (dsimp +zetaDelta only)

theorem execAgeTick_keeps (s : State) {t : State} (h : execAgeTick s = .next t) : Keeps [.fabric] s t := by
  unfold execAgeTick at h
  injection h with h
  subst h
  repeat' first
    | (with_reducible exact Keeps.refl _ _)
    | (with_reducible assumption)
    | (exact rfl)
    | (exact ‹_ + _ = 32›)
    | (intro)
    | (extract_lets)
    | (with_reducible apply Keeps.ite)
    | (with_reducible apply Keeps.foldl)
    | (with_reducible apply Keeps.foldlSnd)
    | (with_reducible apply Keeps.step ?_ (ageCaches_keeps _) ?_)
    | (split)
    | (dsimp only)
    | (dsimp +zetaDelta only)

theorem execInvalidationComplete_keeps (s : State) {t : State} (h : execInvalidationComplete s = .next t) : Keeps [.fabric] s t := by
  unfold execInvalidationComplete at h
  injection h with h
  subst h
  repeat' first
    | (with_reducible exact Keeps.refl _ _)
    | (with_reducible assumption)
    | (exact rfl)
    | (exact ‹_ + _ = 32›)
    | (intro)
    | (extract_lets)
    | (with_reducible apply Keeps.ite)
    | (with_reducible apply Keeps.foldl)
    | (with_reducible apply Keeps.foldlSnd)
    | (with_reducible apply Keeps.step ?_ (invalidateDone_keeps _) ?_)
    | (split)
    | (dsimp only)
    | (dsimp +zetaDelta only)

theorem ringRequest_keeps (h : Head) (m : MemReq) (s : State) : Keeps [.power, .events, .parts, .mesh, .fabric] s (ringRequest h m s) := by
  unfold ringRequest
  repeat' first
    | (with_reducible exact Keeps.refl _ _)
    | (with_reducible assumption)
    | (exact rfl)
    | (exact ‹_ + _ = 32›)
    | (intro)
    | (extract_lets)
    | (with_reducible apply Keeps.ite)
    | (with_reducible apply Keeps.foldl)
    | (with_reducible apply Keeps.foldlSnd)
    | (with_reducible apply Keeps.step ?_ (startOp_keeps _ _ _ _) ?_)
    | (split)
    | (dsimp only)
    | (dsimp +zetaDelta only)

theorem sendNotice_keeps (src dst : CellRef) (domain reqId reason lost : Nat) (s : State) : Keeps [.power, .parts, .mesh] s (sendNotice src dst domain reqId reason lost s) := by
  unfold sendNotice
  repeat' first
    | (with_reducible exact Keeps.refl _ _)
    | (with_reducible assumption)
    | (exact rfl)
    | (exact ‹_ + _ = 32›)
    | (intro)
    | (extract_lets)
    | (with_reducible apply Keeps.ite)
    | (with_reducible apply Keeps.foldl)
    | (with_reducible apply Keeps.foldlSnd)
    | (with_reducible apply Keeps.step ?_ (send_keeps _ _) ?_)
    | (split)
    | (dsimp only)
    | (dsimp +zetaDelta only)

theorem execMemReq_keeps (h : Head) (m : MemReq) (s : State) {t : State} (h : execMemReq h m s = .next t) : Keeps [.fld, .power, .events, .parts, .tiles, .mem, .ecc, .mesh, .crest, .fabric, .settings] s t := by
  unfold execMemReq at h
  injection h with h
  subst h
  repeat' first
    | (with_reducible exact Keeps.refl _ _)
    | (with_reducible assumption)
    | (exact rfl)
    | (exact ‹_ + _ = 32›)
    | (intro)
    | (extract_lets)
    | (with_reducible apply Keeps.ite)
    | (with_reducible apply Keeps.foldl)
    | (with_reducible apply Keeps.foldlSnd)
    | (with_reducible apply Keeps.step ?_ (crossed_keeps _ _ _ _) ?_)
    | (with_reducible apply Keeps.step ?_ (ringRequest_keeps _ _ _) ?_)
    | (with_reducible apply Keeps.step ?_ (homeTake_keeps _ _ _) ?_)
    | (with_reducible apply Keeps.step ?_ (sendNotice_keeps _ _ _ _ _ _ _) ?_)
    | (with_reducible apply Keeps.step ?_ (raise_keeps _ _) ?_)
    | (split)
    | (dsimp only)
    | (dsimp +zetaDelta only)

theorem fabricReplyIn_keeps (p : Pkt) (m : MemRep) (s : State) : Keeps [.power, .events, .parts, .tiles, .mem, .ecc, .mesh, .crest, .fabric] s (fabricReplyIn p m s) := by
  unfold fabricReplyIn
  repeat' first
    | (with_reducible exact Keeps.refl _ _)
    | (with_reducible assumption)
    | (exact rfl)
    | (exact ‹_ + _ = 32›)
    | (intro)
    | (extract_lets)
    | (with_reducible apply Keeps.ite)
    | (with_reducible apply Keeps.foldl)
    | (with_reducible apply Keeps.foldlSnd)
    | (with_reducible apply Keeps.step ?_ (answerMem_keeps _ _ _ _ _ _ _ _ _) ?_)
    | (with_reducible apply Keeps.step ?_ (passedReply_keeps _ _ _ _) ?_)
    | (split)
    | (dsimp only)
    | (dsimp +zetaDelta only)

theorem execMemReply_keeps (via : RepVia) (m : MemRep) (s : State) {t : State} (h : execMemReply via m s = .next t) : Keeps [.fld, .power, .events, .parts, .tiles, .mem, .ecc, .mesh, .crest, .fabric] s t := by
  unfold execMemReply at h
  injection h with h
  subst h
  repeat' first
    | (with_reducible exact Keeps.refl _ _)
    | (with_reducible assumption)
    | (exact rfl)
    | (exact ‹_ + _ = 32›)
    | (intro)
    | (extract_lets)
    | (with_reducible apply Keeps.ite)
    | (with_reducible apply Keeps.foldl)
    | (with_reducible apply Keeps.foldlSnd)
    | (with_reducible apply Keeps.trans ?_ (ingress_keeps _ _ _ _ ?_ ?_))
    | (with_reducible apply Keeps.step ?_ (fabricReplyIn_keeps _ _ _) ?_)
    | (with_reducible apply Keeps.trans ?_ (arriveData_keeps _ _ _ _ ?_ ?_))
    | (with_reducible apply Keeps.step ?_ (cellReply_keeps _ _ _) ?_)
    | (with_reducible apply Keeps.step ?_ (ringReply_keeps _ _) ?_)
    | (with_reducible apply Keeps.step ?_ (crossed_keeps _ _ _ _) ?_)
    | (split)
    | (dsimp only)
    | (dsimp +zetaDelta only)

theorem execDescriptor_keeps (h : Head) (w0 w1 w2 w3 : Word32) (s : State) {t : State} (h : execDescriptor h w0 w1 w2 w3 s = .next t) : Keeps [.fld, .power, .events, .parts, .tiles, .mesh, .crest, .fabric] s t := by
  unfold execDescriptor at h
  injection h with h
  subst h
  repeat' first
    | (with_reducible exact Keeps.refl _ _)
    | (with_reducible assumption)
    | (exact rfl)
    | (exact ‹_ + _ = 32›)
    | (intro)
    | (extract_lets)
    | (with_reducible apply Keeps.ite)
    | (with_reducible apply Keeps.foldl)
    | (with_reducible apply Keeps.foldlSnd)
    | (with_reducible apply Keeps.trans ?_ (arriveCtl_keeps _ _ _ _ ?_ ?_))
    | (with_reducible apply Keeps.step ?_ (postDesc_keeps _ _ _) ?_)
    | (split)
    | (dsimp only)
    | (dsimp +zetaDelta only)

end Sys2Proof.Machine
end

