-- ==== Sys2Proof/Laws/Keeps/Mesh.lean ====
section
/-! SUPPORT. What the operations of Machine/Mesh.lean may write, and that they keep the invariant. -/

namespace Sys2Proof.Machine

open Sys2Proof

set_option linter.unusedTactic false
set_option linter.unreachableTactic false

theorem combineAll_keeps (s : State) : Keeps [.mesh] s (combineAll s) := by
  unfold combineAll
  repeat' first
    | (with_reducible exact Keeps.refl _ _)
    | (with_reducible assumption)
    | (exact rfl)
    | (exact ‹_ + _ = 32›)
    | (intro)
    | (extract_lets)
    | (with_reducible apply Keeps.ite)
    | (with_reducible apply Keeps.foldl)
    | (with_reducible apply Keeps.foldlSnd)
    | (fail_if_no_progress ((with_reducible apply Keeps.setMesh) <;> [skip; (exact rfl)]))
    | (split)
    | (dsimp only)
    | (dsimp +zetaDelta only)

theorem passOutput_keeps (heads : List Moving) (s : State) (o : Nat × Nat × Bool) : Keeps [.mesh] s (passOutput heads s o) := by
  unfold passOutput
  repeat' first
    | (with_reducible exact Keeps.refl _ _)
    | (with_reducible assumption)
    | (exact rfl)
    | (exact ‹_ + _ = 32›)
    | (intro)
    | (extract_lets)
    | (with_reducible apply Keeps.ite)
    | (with_reducible apply Keeps.foldl)
    | (with_reducible apply Keeps.foldlSnd)
    | (fail_if_no_progress ((with_reducible apply Keeps.setMesh) <;> [skip; (exact rfl)]))
    | (split)
    | (dsimp only)
    | (dsimp +zetaDelta only)

theorem enterAll_keeps (n : List MeshMsg) (m : List Moving) (s : State) : Keeps [.mesh] s (enterAll n m s) := by
  induction n generalizing m s with
  | nil => exact Keeps.refl _ _
  | cons x n ih =>
    unfold enterAll
    repeat' first
      | (with_reducible exact Keeps.refl _ _)
      | (with_reducible assumption)
      | (exact rfl)
      | (exact ‹_ + _ = 32›)
      | (intro)
      | (extract_lets)
      | (with_reducible apply Keeps.ite)
      | (with_reducible apply Keeps.foldl)
      | (with_reducible apply Keeps.foldlSnd)
      | (fail_if_no_progress ((with_reducible apply Keeps.setMesh) <;> [skip; (exact rfl)]))
      | (with_reducible apply Keeps.trans ?_ (ih _ _))
      | (split)
      | (dsimp only)
      | (dsimp +zetaDelta only)

theorem meshCycle_keeps (s : State) : Keeps [.mesh] s (meshCycle s) := by
  unfold meshCycle
  repeat' first
    | (with_reducible exact Keeps.refl _ _)
    | (with_reducible assumption)
    | (exact rfl)
    | (exact ‹_ + _ = 32›)
    | (intro)
    | (extract_lets)
    | (with_reducible apply Keeps.ite)
    | (with_reducible apply Keeps.foldl)
    | (with_reducible apply Keeps.foldlSnd)
    | (with_reducible apply Keeps.step ?_ (combineAll_keeps _) ?_)
    | (with_reducible apply Keeps.step ?_ (passOutput_keeps _ _ _) ?_)
    | (with_reducible apply Keeps.step ?_ (enterAll_keeps _ _ _) ?_)
    | (split)
    | (dsimp only)
    | (dsimp +zetaDelta only)

end Sys2Proof.Machine
end

