-- ==== Sys2Proof/Laws/Keeps/SectionFam.lean ====
section
/-! SUPPORT. What the operations of Machine/SectionFam.lean may write, and that they keep the invariant. -/

namespace Sys2Proof.Machine

open Sys2Proof

set_option linter.unusedTactic false
set_option linter.unreachableTactic false

theorem runError_keeps (p : Pkt) (h : Hdr) (s : State) : Keeps [.events, .fabric] s (runError p h s) := by
  unfold runError
  repeat' first
    | (with_reducible exact Keeps.refl _ _)
    | (with_reducible assumption)
    | (exact rfl)
    | (exact ‹_ + _ = 32›)
    | (intro)
    | (extract_lets)
    | (with_reducible apply Keeps.ite)
    | (with_reducible apply Keeps.foldl)
    | (with_reducible apply Keeps.foldlSnd)
    | (with_reducible apply Keeps.step ?_ (replyRun_keeps _ _ _ _ _ _) ?_)
    | (split)
    | (dsimp only)
    | (dsimp +zetaDelta only)

theorem execJobOpen_keeps (p : Pkt) (h : Hdr) (group : BitVec 32) (notify : Nat) (s : State) {t : State} (h : execJobOpen p h group notify s = .next t) : Keeps [.power, .events, .parts, .crest, .fabric] s t := by
  unfold execJobOpen at h
  injection h with h
  subst h
  repeat' first
    | (with_reducible exact Keeps.refl _ _)
    | (with_reducible assumption)
    | (exact rfl)
    | (exact ‹_ + _ = 32›)
    | (intro)
    | (extract_lets)
    | (with_reducible apply Keeps.ite)
    | (with_reducible apply Keeps.foldl)
    | (with_reducible apply Keeps.foldlSnd)
    | (fail_if_no_progress ((with_reducible apply Keeps.setCrest) <;> [skip; (exact rfl)]))
    | (with_reducible apply Keeps.trans ?_ (ingress_keeps _ _ _ _ ?_ ?_))
    | (with_reducible apply Keeps.step ?_ (runError_keeps _ _ _) ?_)
    | (with_reducible apply Keeps.step ?_ (replyRun_keeps _ _ _ _ _ _) ?_)
    | (with_reducible apply Keeps.step ?_ (modPart_keeps _ _ _) ?_)
    | (split)
    | (dsimp only)
    | (dsimp +zetaDelta only)

theorem execSectionCommit_keeps (p : Pkt) (h : Hdr) (addr : Word64) (len : Nat) (s : State) {t : State} (h : execSectionCommit p h addr len s = .next t) : Keeps [.power, .events, .parts, .fabric] s t := by
  unfold execSectionCommit at h
  injection h with h
  subst h
  repeat' first
    | (with_reducible exact Keeps.refl _ _)
    | (with_reducible assumption)
    | (exact rfl)
    | (exact ‹_ + _ = 32›)
    | (intro)
    | (extract_lets)
    | (with_reducible apply Keeps.ite)
    | (with_reducible apply Keeps.foldl)
    | (with_reducible apply Keeps.foldlSnd)
    | (with_reducible apply Keeps.trans ?_ (ingress_keeps _ _ _ _ ?_ ?_))
    | (with_reducible apply Keeps.step ?_ (runError_keeps _ _ _) ?_)
    | (with_reducible apply Keeps.step ?_ (modPart_keeps _ _ _) ?_)
    | (split)
    | (dsimp only)
    | (dsimp +zetaDelta only)

theorem execCommitComplete_keeps (part : Nat) (s : State) {t : State} (h : execCommitComplete part s = .next t) : Keeps [.fld, .power, .events, .parts, .tiles, .mem, .ecc, .mesh, .fabric, .settings] s t := by
  unfold execCommitComplete at h
  injection h with h
  subst h
  repeat' first
    | (with_reducible exact Keeps.refl _ _)
    | (with_reducible assumption)
    | (exact rfl)
    | (exact ‹_ + _ = 32›)
    | (intro)
    | (extract_lets)
    | (with_reducible apply Keeps.ite)
    | (with_reducible apply Keeps.foldl)
    | (with_reducible apply Keeps.foldlSnd)
    | (with_reducible apply Keeps.step ?_ (finishCommit_keeps _ _ _ _) ?_)
    | (with_reducible apply Keeps.step ?_ (modPart_keeps _ _ _) ?_)
    | (split)
    | (dsimp only)
    | (dsimp +zetaDelta only)

theorem execSectionRelease_keeps (p : Pkt) (h : Hdr) (sec : Nat) (s : State) {t : State} (h : execSectionRelease p h sec s = .next t) : Keeps [.power, .events, .parts, .fabric] s t := by
  unfold execSectionRelease at h
  injection h with h
  subst h
  repeat' first
    | (with_reducible exact Keeps.refl _ _)
    | (with_reducible assumption)
    | (exact rfl)
    | (exact ‹_ + _ = 32›)
    | (intro)
    | (extract_lets)
    | (with_reducible apply Keeps.ite)
    | (with_reducible apply Keeps.foldl)
    | (with_reducible apply Keeps.foldlSnd)
    | (with_reducible apply Keeps.trans ?_ (ingress_keeps _ _ _ _ ?_ ?_))
    | (with_reducible apply Keeps.step ?_ (runError_keeps _ _ _) ?_)
    | (with_reducible apply Keeps.step ?_ (replyRun_keeps _ _ _ _ _ _) ?_)
    | (with_reducible apply Keeps.step ?_ (modPart_keeps _ _ _) ?_)
    | (split)
    | (dsimp only)
    | (dsimp +zetaDelta only)

theorem execSectionEnqueue_keeps (p : Pkt) (h : Hdr) (sec prio : Nat) (guard : Guard) (preds : List Nat) (s : State) {t : State} (h : execSectionEnqueue p h sec prio guard preds s = .next t) : Keeps [.power, .events, .parts, .tiles, .mesh, .fabric] s t := by
  unfold execSectionEnqueue at h
  injection h with h
  subst h
  repeat' first
    | (with_reducible exact Keeps.refl _ _)
    | (with_reducible assumption)
    | (exact rfl)
    | (exact ‹_ + _ = 32›)
    | (intro)
    | (extract_lets)
    | (with_reducible apply Keeps.ite)
    | (with_reducible apply Keeps.foldl)
    | (with_reducible apply Keeps.foldlSnd)
    | (with_reducible apply Keeps.trans ?_ (ingress_keeps _ _ _ _ ?_ ?_))
    | (with_reducible apply Keeps.step ?_ (runError_keeps _ _ _) ?_)
    | (with_reducible apply Keeps.step ?_ (loaderRefuse_keeps _ _ _ _ _ _ _ _ _ _) ?_)
    | (with_reducible apply Keeps.step ?_ (schedule_keeps _ _) ?_)
    | (with_reducible apply Keeps.step ?_ (replyRun_keeps _ _ _ _ _ _) ?_)
    | (with_reducible apply Keeps.step ?_ (modPart_keeps _ _ _) ?_)
    | (split)
    | (dsimp only)
    | (dsimp +zetaDelta only)

theorem execSectionCancel_keeps (p : Pkt) (h : Hdr) (run : Nat) (s : State) {t : State} (h : execSectionCancel p h run s = .next t) : Keeps [.power, .events, .parts, .fabric] s t := by
  unfold execSectionCancel at h
  injection h with h
  subst h
  repeat' first
    | (with_reducible exact Keeps.refl _ _)
    | (with_reducible assumption)
    | (exact rfl)
    | (exact ‹_ + _ = 32›)
    | (intro)
    | (extract_lets)
    | (with_reducible apply Keeps.ite)
    | (with_reducible apply Keeps.foldl)
    | (with_reducible apply Keeps.foldlSnd)
    | (with_reducible apply Keeps.trans ?_ (ingress_keeps _ _ _ _ ?_ ?_))
    | (with_reducible apply Keeps.step ?_ (runError_keeps _ _ _) ?_)
    | (with_reducible apply Keeps.step ?_ (replyRun_keeps _ _ _ _ _ _) ?_)
    | (with_reducible apply Keeps.step ?_ (modPart_keeps _ _ _) ?_)
    | (with_reducible apply Keeps.step ?_ (discardAfter_keeps _ _ _) ?_)
    | (with_reducible apply Keeps.step ?_ (endRun_keeps _ _ _ _ _) ?_)
    | (split)
    | (dsimp only)
    | (dsimp +zetaDelta only)

theorem execJobStart_keeps (p : Pkt) (h : Hdr) (s : State) {t : State} (h : execJobStart p h s = .next t) : Keeps [.power, .events, .parts, .tiles, .mesh, .fabric] s t := by
  unfold execJobStart at h
  injection h with h
  subst h
  repeat' first
    | (with_reducible exact Keeps.refl _ _)
    | (with_reducible assumption)
    | (exact rfl)
    | (exact ‹_ + _ = 32›)
    | (intro)
    | (extract_lets)
    | (with_reducible apply Keeps.ite)
    | (with_reducible apply Keeps.foldl)
    | (with_reducible apply Keeps.foldlSnd)
    | (with_reducible apply Keeps.trans ?_ (ingress_keeps _ _ _ _ ?_ ?_))
    | (with_reducible apply Keeps.step ?_ (runError_keeps _ _ _) ?_)
    | (with_reducible apply Keeps.step ?_ (replyRun_keeps _ _ _ _ _ _) ?_)
    | (with_reducible apply Keeps.step ?_ (schedule_keeps _ _) ?_)
    | (with_reducible apply Keeps.step ?_ (modPart_keeps _ _ _) ?_)
    | (split)
    | (dsimp only)
    | (dsimp +zetaDelta only)

theorem execJobStop_keeps (p : Pkt) (h : Hdr) (s : State) {t : State} (h : execJobStop p h s = .next t) : Keeps [.power, .events, .parts, .fabric] s t := by
  unfold execJobStop at h
  injection h with h
  subst h
  repeat' first
    | (with_reducible exact Keeps.refl _ _)
    | (with_reducible assumption)
    | (exact rfl)
    | (exact ‹_ + _ = 32›)
    | (intro)
    | (extract_lets)
    | (with_reducible apply Keeps.ite)
    | (with_reducible apply Keeps.foldl)
    | (with_reducible apply Keeps.foldlSnd)
    | (with_reducible apply Keeps.trans ?_ (ingress_keeps _ _ _ _ ?_ ?_))
    | (with_reducible apply Keeps.step ?_ (runError_keeps _ _ _) ?_)
    | (with_reducible apply Keeps.step ?_ (raise_keeps _ _) ?_)
    | (with_reducible apply Keeps.step ?_ (replyRun_keeps _ _ _ _ _ _) ?_)
    | (with_reducible apply Keeps.step ?_ (stopStamp_keeps _ _ _) ?_)
    | (split)
    | (dsimp only)
    | (dsimp +zetaDelta only)

theorem execJobAbort_keeps (p : Pkt) (h : Hdr) (s : State) {t : State} (h : execJobAbort p h s = .next t) : Keeps [.power, .events, .parts, .tiles, .mesh, .crest, .fabric] s t := by
  unfold execJobAbort at h
  injection h with h
  subst h
  repeat' first
    | (with_reducible exact Keeps.refl _ _)
    | (with_reducible assumption)
    | (exact rfl)
    | (exact ‹_ + _ = 32›)
    | (intro)
    | (extract_lets)
    | (with_reducible apply Keeps.ite)
    | (with_reducible apply Keeps.foldl)
    | (with_reducible apply Keeps.foldlSnd)
    | (with_reducible apply Keeps.trans ?_ (ingress_keeps _ _ _ _ ?_ ?_))
    | (with_reducible apply Keeps.step ?_ (runError_keeps _ _ _) ?_)
    | (with_reducible apply Keeps.step ?_ (replyRun_keeps _ _ _ _ _ _) ?_)
    | (with_reducible apply Keeps.step ?_ (abortRun_keeps _ _ _) ?_)
    | (split)
    | (dsimp only)
    | (dsimp +zetaDelta only)

theorem execJobClose_keeps (p : Pkt) (h : Hdr) (s : State) {t : State} (h : execJobClose p h s = .next t) : Keeps [.power, .events, .parts, .tiles, .mesh, .crest, .fabric] s t := by
  unfold execJobClose at h
  injection h with h
  subst h
  repeat' first
    | (with_reducible exact Keeps.refl _ _)
    | (with_reducible assumption)
    | (exact rfl)
    | (exact ‹_ + _ = 32›)
    | (intro)
    | (extract_lets)
    | (with_reducible apply Keeps.ite)
    | (with_reducible apply Keeps.foldl)
    | (with_reducible apply Keeps.foldlSnd)
    | (with_reducible apply Keeps.trans ?_ (ingress_keeps _ _ _ _ ?_ ?_))
    | (with_reducible apply Keeps.step ?_ (runError_keeps _ _ _) ?_)
    | (with_reducible apply Keeps.step ?_ (runNotify_keeps _ _ _ _ _) ?_)
    | (with_reducible apply Keeps.step ?_ (replyRun_keeps _ _ _ _ _ _) ?_)
    | (with_reducible apply Keeps.step ?_ (closeJob_keeps _ _) ?_)
    | (split)
    | (dsimp only)
    | (dsimp +zetaDelta only)

theorem execRunStatus_keeps (p : Pkt) (h : Hdr) (run : Nat) (s : State) {t : State} (h : execRunStatus p h run s = .next t) : Keeps [.power, .events, .fabric] s t := by
  unfold execRunStatus at h
  injection h with h
  subst h
  repeat' first
    | (with_reducible exact Keeps.refl _ _)
    | (with_reducible assumption)
    | (exact rfl)
    | (exact ‹_ + _ = 32›)
    | (intro)
    | (extract_lets)
    | (with_reducible apply Keeps.ite)
    | (with_reducible apply Keeps.foldl)
    | (with_reducible apply Keeps.foldlSnd)
    | (with_reducible apply Keeps.trans ?_ (ingress_keeps _ _ _ _ ?_ ?_))
    | (with_reducible apply Keeps.step ?_ (runError_keeps _ _ _) ?_)
    | (with_reducible apply Keeps.step ?_ (replyRun_keeps _ _ _ _ _ _) ?_)
    | (split)
    | (dsimp only)
    | (dsimp +zetaDelta only)

theorem execCadenceAdmit_keeps (p : Pkt) (h : Hdr) (r : CadenceReq) (s : State) {t : State} (h : execCadenceAdmit p h r s = .next t) : Keeps [.power, .events, .parts, .fabric, .regs] s t := by
  unfold execCadenceAdmit at h
  injection h with h
  subst h
  repeat' first
    | (with_reducible exact Keeps.refl _ _)
    | (with_reducible assumption)
    | (exact rfl)
    | (exact ‹_ + _ = 32›)
    | (intro)
    | (extract_lets)
    | (with_reducible apply Keeps.ite)
    | (with_reducible apply Keeps.foldl)
    | (with_reducible apply Keeps.foldlSnd)
    | (with_reducible apply Keeps.trans ?_ (ingress_keeps _ _ _ _ ?_ ?_))
    | (with_reducible apply Keeps.step ?_ (runError_keeps _ _ _) ?_)
    | (with_reducible apply Keeps.step ?_ (setReg_keeps _ _ _) ?_)
    | (with_reducible apply Keeps.step ?_ (replyRun_keeps _ _ _ _ _ _) ?_)
    | (with_reducible apply Keeps.step ?_ (modPart_keeps _ _ _) ?_)
    | (split)
    | (dsimp only)
    | (dsimp +zetaDelta only)

theorem execCadenceStop_keeps (p : Pkt) (h : Hdr) (s : State) {t : State} (h : execCadenceStop p h s = .next t) : Keeps [.power, .events, .parts, .tiles, .mesh, .fabric] s t := by
  unfold execCadenceStop at h
  injection h with h
  subst h
  repeat' first
    | (with_reducible exact Keeps.refl _ _)
    | (with_reducible assumption)
    | (exact rfl)
    | (exact ‹_ + _ = 32›)
    | (intro)
    | (extract_lets)
    | (with_reducible apply Keeps.ite)
    | (with_reducible apply Keeps.foldl)
    | (with_reducible apply Keeps.foldlSnd)
    | (with_reducible apply Keeps.trans ?_ (ingress_keeps _ _ _ _ ?_ ?_))
    | (with_reducible apply Keeps.step ?_ (runError_keeps _ _ _) ?_)
    | (with_reducible apply Keeps.step ?_ (modPart_keeps _ _ _) ?_)
    | (with_reducible apply Keeps.step ?_ (schedule_keeps _ _) ?_)
    | (with_reducible apply Keeps.step ?_ (replyRun_keeps _ _ _ _ _ _) ?_)
    | (split)
    | (dsimp only)
    | (dsimp +zetaDelta only)

theorem execCadenceWindow_keeps (part : Nat) (s : State) {t : State} (h : execCadenceWindow part s = .next t) : Keeps [.time, .power, .events, .parts, .tiles, .mesh, .fabric, .pilot] s t := by
  unfold execCadenceWindow at h
  injection h with h
  subst h
  repeat' first
    | (with_reducible exact Keeps.refl _ _)
    | (with_reducible assumption)
    | (exact rfl)
    | (exact ‹_ + _ = 32›)
    | (intro)
    | (extract_lets)
    | (with_reducible apply Keeps.ite)
    | (with_reducible apply Keeps.foldl)
    | (with_reducible apply Keeps.foldlSnd)
    | (with_reducible apply Keeps.step ?_ (advanceTo_keeps _ _) ?_)
    | (with_reducible apply Keeps.step ?_ (modCadence_keeps _ _ _) ?_)
    | (with_reducible apply Keeps.step ?_ (syncPulse_keeps _ _) ?_)
    | (with_reducible apply Keeps.step ?_ (schedule_keeps _ _) ?_)
    | (with_reducible apply Keeps.step ?_ (decideFrame_keeps _ _ _) ?_)
    | (split)
    | (dsimp only)
    | (dsimp +zetaDelta only)

theorem setBounds_keeps (r : Section) (s : State) : Keeps [.tiles, .crest] s (setBounds r s) := by
  unfold setBounds
  repeat' first
    | (with_reducible exact Keeps.refl _ _)
    | (with_reducible assumption)
    | (exact rfl)
    | (exact ‹_ + _ = 32›)
    | (intro)
    | (extract_lets)
    | (with_reducible apply Keeps.ite)
    | (with_reducible apply Keeps.foldl)
    | (with_reducible apply Keeps.foldlSnd)
    | (with_reducible apply Keeps.step ?_ (setCtr_keeps _ _ _) ?_)
    | (split)
    | (dsimp only)
    | (dsimp +zetaDelta only)

theorem execSectionStart_keeps (x y : Nat) (s : State) {t : State} (h : execSectionStart x y s = .next t) : Keeps [.fld, .power, .events, .parts, .tiles, .mem, .ecc, .mesh, .crest, .fabric, .settings] s t := by
  unfold execSectionStart at h
  injection h with h
  subst h
  repeat' first
    | (with_reducible exact Keeps.refl _ _)
    | (with_reducible assumption)
    | (exact rfl)
    | (exact ‹_ + _ = 32›)
    | (intro)
    | (extract_lets)
    | (with_reducible apply Keeps.ite)
    | (with_reducible apply Keeps.foldl)
    | (with_reducible apply Keeps.foldlSnd)
    | (with_reducible apply Keeps.step ?_ (landSection_keeps _ _ _) ?_)
    | (with_reducible apply Keeps.step ?_ (setBounds_keeps _ _) ?_)
    | (with_reducible apply Keeps.step ?_ (modPart_keeps _ _ _) ?_)
    | (with_reducible apply Keeps.step ?_ (doneTry_keeps _ _) ?_)
    | (with_reducible apply Keeps.step ?_ (deliverAll_keeps _ _) ?_)
    | (with_reducible apply Keeps.step ?_ (loadTile_keeps _ _ _) ?_)
    | (split)
    | (dsimp only)
    | (dsimp +zetaDelta only)

theorem landDone_keeps (k : Nat) (s : State) : Keeps [.mesh] s (landDone k s) := by
  unfold landDone
  repeat' first
    | (with_reducible exact Keeps.refl _ _)
    | (with_reducible assumption)
    | (exact rfl)
    | (exact ‹_ + _ = 32›)
    | (intro)
    | (extract_lets)
    | (with_reducible apply Keeps.ite)
    | (with_reducible apply Keeps.foldl)
    | (with_reducible apply Keeps.foldlSnd)
    | (with_reducible apply Keeps.step ?_ (leaveMesh_keeps _ _) ?_)
    | (split)
    | (dsimp only)
    | (dsimp +zetaDelta only)

theorem execSectionDone_keeps (x y : Nat) (s : State) {t : State} (h : execSectionDone x y s = .next t) : Keeps [.power, .events, .parts, .tiles, .mesh, .fabric] s t := by
  unfold execSectionDone at h
  injection h with h
  subst h
  repeat' first
    | (with_reducible exact Keeps.refl _ _)
    | (with_reducible assumption)
    | (exact rfl)
    | (exact ‹_ + _ = 32›)
    | (intro)
    | (extract_lets)
    | (with_reducible apply Keeps.ite)
    | (with_reducible apply Keeps.foldl)
    | (with_reducible apply Keeps.foldlSnd)
    | (with_reducible apply Keeps.step ?_ (landDone_keeps _ _) ?_)
    | (with_reducible apply Keeps.step ?_ (modPart_keeps _ _ _) ?_)
    | (with_reducible apply Keeps.step ?_ (completeRun_keeps _ _) ?_)
    | (split)
    | (dsimp only)
    | (dsimp +zetaDelta only)

theorem execSectionAbort_keeps (x y : Nat) (s : State) {t : State} (h : execSectionAbort x y s = .next t) : Keeps [.tiles, .mesh] s t := by
  unfold execSectionAbort at h
  injection h with h
  subst h
  repeat' first
    | (with_reducible exact Keeps.refl _ _)
    | (with_reducible assumption)
    | (exact rfl)
    | (exact ‹_ + _ = 32›)
    | (intro)
    | (extract_lets)
    | (with_reducible apply Keeps.ite)
    | (with_reducible apply Keeps.foldl)
    | (with_reducible apply Keeps.foldlSnd)
    | (with_reducible apply Keeps.step ?_ (landSection_keeps _ _ _) ?_)
    | (with_reducible apply Keeps.step ?_ (modTile_keeps _ _ _) ?_)
    | (split)
    | (dsimp only)
    | (dsimp +zetaDelta only)

theorem execStarvationLimitReached_keeps (part run : Nat) (s : State) {t : State} (h : execStarvationLimitReached part run s = .next t) : Keeps [.time, .power, .events, .parts, .tiles, .mesh, .fabric, .pilot] s t := by
  unfold execStarvationLimitReached at h
  injection h with h
  subst h
  repeat' first
    | (with_reducible exact Keeps.refl _ _)
    | (with_reducible assumption)
    | (exact rfl)
    | (exact ‹_ + _ = 32›)
    | (intro)
    | (extract_lets)
    | (with_reducible apply Keeps.ite)
    | (with_reducible apply Keeps.foldl)
    | (with_reducible apply Keeps.foldlSnd)
    | (with_reducible apply Keeps.step ?_ (advanceTo_keeps _ _) ?_)
    | (with_reducible apply Keeps.step ?_ (raise_keeps _ _) ?_)
    | (with_reducible apply Keeps.step ?_ (modPart_keeps _ _ _) ?_)
    | (with_reducible apply Keeps.step ?_ (schedule_keeps _ _) ?_)
    | (split)
    | (dsimp only)
    | (dsimp +zetaDelta only)

theorem execRunOverrun_keeps (part : Nat) (s : State) {t : State} (h : execRunOverrun part s = .next t) : Keeps [.time, .events, .parts, .pilot] s t := by
  unfold execRunOverrun at h
  injection h with h
  subst h
  repeat' first
    | (with_reducible exact Keeps.refl _ _)
    | (with_reducible assumption)
    | (exact rfl)
    | (exact ‹_ + _ = 32›)
    | (intro)
    | (extract_lets)
    | (with_reducible apply Keeps.ite)
    | (with_reducible apply Keeps.foldl)
    | (with_reducible apply Keeps.foldlSnd)
    | (with_reducible apply Keeps.step ?_ (advanceTo_keeps _ _) ?_)
    | (with_reducible apply Keeps.step ?_ (raise_keeps _ _) ?_)
    | (with_reducible apply Keeps.step ?_ (modPart_keeps _ _ _) ?_)
    | (split)
    | (dsimp only)
    | (dsimp +zetaDelta only)

end Sys2Proof.Machine
end

