-- ==== Sys2Proof/Laws/Keeps/SyncFam.lean ====
section
/-! SUPPORT. What the operations of Machine/SyncFam.lean may write, and that they keep the invariant. -/

namespace Sys2Proof.Machine

open Sys2Proof

set_option linter.unusedTactic false
set_option linter.unreachableTactic false

theorem opIssued_keeps (h : Head) (s : State) : Keeps [.tiles] s (opIssued h s) := by
  unfold opIssued
  repeat' first
    | (with_reducible exact Keeps.refl _ _)
    | (with_reducible assumption)
    | (exact rfl)
    | (exact ‹_ + _ = 32›)
    | (intro)
    | (extract_lets)
    | (with_reducible apply Keeps.ite)
    | (with_reducible apply Keeps.foldl)
    | (with_reducible apply Keeps.foldlSnd)
    | (with_reducible apply Keeps.step ?_ (modTile_keeps _ _ _) ?_)
    | (split)
    | (dsimp only)
    | (dsimp +zetaDelta only)

theorem ctrArrive_keeps (op n : Nat) (h : Head) (m : CtrMsg) (self : Instr) (s : State) : Keeps [.fld, .power, .events, .parts, .tiles, .mem, .ecc, .mesh, .crest, .fabric] s (ctrArrive op n h m self s) := by
  unfold ctrArrive
  repeat' first
    | (with_reducible exact Keeps.refl _ _)
    | (with_reducible assumption)
    | (exact rfl)
    | (exact ‹_ + _ = 32›)
    | (intro)
    | (extract_lets)
    | (with_reducible apply Keeps.ite)
    | (with_reducible apply Keeps.foldl)
    | (with_reducible apply Keeps.foldlSnd)
    | (with_reducible apply Keeps.trans ?_ (arriveCtl_keeps _ _ _ _ ?_ ?_))
    | (with_reducible apply Keeps.step ?_ (opIssued_keeps _ _) ?_)
    | (with_reducible apply Keeps.step ?_ (holdCtr_keeps _ _ _) ?_)
    | (with_reducible apply Keeps.step ?_ (afterCtr_keeps _ _) ?_)
    | (with_reducible apply Keeps.step ?_ (performCtr_keeps _ _ _ _ _ _) ?_)
    | (split)
    | (dsimp only)
    | (dsimp +zetaDelta only)

theorem execCtrProduce_keeps (h : Head) (m : CtrMsg) (n : BitVec 32) (s : State) {t : State} (h : execCtrProduce h m n s = .next t) : Keeps [.fld, .power, .events, .parts, .tiles, .mem, .ecc, .mesh, .crest, .fabric] s t := by
  unfold execCtrProduce at h
  injection h with h
  subst h
  repeat' first
    | (with_reducible exact Keeps.refl _ _)
    | (with_reducible assumption)
    | (exact rfl)
    | (exact ‹_ + _ = 32›)
    | (intro)
    | (extract_lets)
    | (with_reducible apply Keeps.ite)
    | (with_reducible apply Keeps.foldl)
    | (with_reducible apply Keeps.foldlSnd)
    | (with_reducible apply Keeps.step ?_ (ctrArrive_keeps _ _ _ _ _ _) ?_)
    | (split)
    | (dsimp only)
    | (dsimp +zetaDelta only)

theorem execCtrConsume_keeps (h : Head) (m : CtrMsg) (n : BitVec 32) (s : State) {t : State} (h : execCtrConsume h m n s = .next t) : Keeps [.fld, .power, .events, .parts, .tiles, .mem, .ecc, .mesh, .crest, .fabric] s t := by
  unfold execCtrConsume at h
  injection h with h
  subst h
  repeat' first
    | (with_reducible exact Keeps.refl _ _)
    | (with_reducible assumption)
    | (exact rfl)
    | (exact ‹_ + _ = 32›)
    | (intro)
    | (extract_lets)
    | (with_reducible apply Keeps.ite)
    | (with_reducible apply Keeps.foldl)
    | (with_reducible apply Keeps.foldlSnd)
    | (with_reducible apply Keeps.step ?_ (ctrArrive_keeps _ _ _ _ _ _) ?_)
    | (split)
    | (dsimp only)
    | (dsimp +zetaDelta only)

theorem execCtrRead_keeps (h : Head) (m : CtrMsg) (s : State) {t : State} (h : execCtrRead h m s = .next t) : Keeps [.fld, .power, .events, .parts, .tiles, .mem, .ecc, .mesh, .crest, .fabric] s t := by
  unfold execCtrRead at h
  injection h with h
  subst h
  repeat' first
    | (with_reducible exact Keeps.refl _ _)
    | (with_reducible assumption)
    | (exact rfl)
    | (exact ‹_ + _ = 32›)
    | (intro)
    | (extract_lets)
    | (with_reducible apply Keeps.ite)
    | (with_reducible apply Keeps.foldl)
    | (with_reducible apply Keeps.foldlSnd)
    | (with_reducible apply Keeps.step ?_ (ctrArrive_keeps _ _ _ _ _ _) ?_)
    | (split)
    | (dsimp only)
    | (dsimp +zetaDelta only)

theorem execCtrBound_keeps (h : Head) (m : CtrMsg) (b : BitVec 16) (s : State) {t : State} (h : execCtrBound h m b s = .next t) : Keeps [.fld, .power, .events, .parts, .tiles, .mem, .ecc, .mesh, .crest, .fabric] s t := by
  unfold execCtrBound at h
  injection h with h
  subst h
  repeat' first
    | (with_reducible exact Keeps.refl _ _)
    | (with_reducible assumption)
    | (exact rfl)
    | (exact ‹_ + _ = 32›)
    | (intro)
    | (extract_lets)
    | (with_reducible apply Keeps.ite)
    | (with_reducible apply Keeps.foldl)
    | (with_reducible apply Keeps.foldlSnd)
    | (with_reducible apply Keeps.step ?_ (ctrArrive_keeps _ _ _ _ _ _) ?_)
    | (split)
    | (dsimp only)
    | (dsimp +zetaDelta only)

theorem execCtrInit_keeps (h : Head) (m : CtrMsg) (s : State) {t : State} (h : execCtrInit h m s = .next t) : Keeps [.fld, .power, .events, .parts, .tiles, .mem, .ecc, .mesh, .crest, .fabric] s t := by
  unfold execCtrInit at h
  injection h with h
  subst h
  repeat' first
    | (with_reducible exact Keeps.refl _ _)
    | (with_reducible assumption)
    | (exact rfl)
    | (exact ‹_ + _ = 32›)
    | (intro)
    | (extract_lets)
    | (with_reducible apply Keeps.ite)
    | (with_reducible apply Keeps.foldl)
    | (with_reducible apply Keeps.foldlSnd)
    | (with_reducible apply Keeps.step ?_ (ctrArrive_keeps _ _ _ _ _ _) ?_)
    | (split)
    | (dsimp only)
    | (dsimp +zetaDelta only)

theorem ctrAnswered_keeps (h : Head) (m : CtrMsg) (status p c : Nat) (s : State) : Keeps [.fld, .power, .events, .parts, .tiles, .mesh] s (ctrAnswered h m status p c s) := by
  unfold ctrAnswered
  repeat' first
    | (with_reducible exact Keeps.refl _ _)
    | (with_reducible assumption)
    | (exact rfl)
    | (exact ‹_ + _ = 32›)
    | (intro)
    | (extract_lets)
    | (with_reducible apply Keeps.ite)
    | (with_reducible apply Keeps.foldl)
    | (with_reducible apply Keeps.foldlSnd)
    | (with_reducible apply Keeps.trans ?_ (arriveCtl_keeps _ _ _ _ ?_ ?_))
    | (with_reducible apply Keeps.step ?_ (snapArrive_keeps _ _) ?_)
    | (with_reducible apply Keeps.step ?_ (modTile_keeps _ _ _) ?_)
    | (split)
    | (dsimp only)
    | (dsimp +zetaDelta only)

theorem execCtrAck_keeps (h : Head) (m : CtrMsg) (status : Nat) (s : State) {t : State} (h : execCtrAck h m status s = .next t) : Keeps [.fld, .power, .events, .parts, .tiles, .mesh] s t := by
  unfold execCtrAck at h
  injection h with h
  subst h
  repeat' first
    | (with_reducible exact Keeps.refl _ _)
    | (with_reducible assumption)
    | (exact rfl)
    | (exact ‹_ + _ = 32›)
    | (intro)
    | (extract_lets)
    | (with_reducible apply Keeps.ite)
    | (with_reducible apply Keeps.foldl)
    | (with_reducible apply Keeps.foldlSnd)
    | (with_reducible apply Keeps.step ?_ (ctrAnswered_keeps _ _ _ _ _ _) ?_)
    | (split)
    | (dsimp only)
    | (dsimp +zetaDelta only)

theorem execCtrReadReply_keeps (h : Head) (m : CtrMsg) (p c : Count48) (s : State) {t : State} (h : execCtrReadReply h m p c s = .next t) : Keeps [.fld, .power, .events, .parts, .tiles, .mesh] s t := by
  unfold execCtrReadReply at h
  injection h with h
  subst h
  repeat' first
    | (with_reducible exact Keeps.refl _ _)
    | (with_reducible assumption)
    | (exact rfl)
    | (exact ‹_ + _ = 32›)
    | (intro)
    | (extract_lets)
    | (with_reducible apply Keeps.ite)
    | (with_reducible apply Keeps.foldl)
    | (with_reducible apply Keeps.foldlSnd)
    | (with_reducible apply Keeps.step ?_ (ctrAnswered_keeps _ _ _ _ _ _) ?_)
    | (split)
    | (dsimp only)
    | (dsimp +zetaDelta only)

theorem watchArrive_keeps {w : List Region} (h : Head) (m : WatchMsg) (act : Watch → State → State) (s : State) (hact : ∀ x0 s, Keeps w s (act x0 s))
    (hw : List.all [.fld, .power, .events, .mesh] (w.contains ·) = true) : Keeps w s (watchArrive h m act s) := by
  unfold watchArrive
  repeat' first
    | (with_reducible exact Keeps.refl _ _)
    | (with_reducible assumption)
    | (exact rfl)
    | (exact ‹_ + _ = 32›)
    | (intro)
    | (extract_lets)
    | (with_reducible apply Keeps.ite)
    | (with_reducible apply Keeps.foldl)
    | (with_reducible apply Keeps.foldlSnd)
    | (with_reducible apply Keeps.trans ?_ (hact _ _))
    | (with_reducible apply Keeps.trans ?_ (arriveCtl_keeps _ _ _ _ ?_ ?_))
    | (with_reducible apply Keeps.step ?_ (raise_keeps _ _) ?_)
    | (exact cover rfl hw)
    | ((simp_all; done))
    | (split)
    | (dsimp only)
    | (dsimp +zetaDelta only)

theorem execWatchRegister_keeps (h : Head) (m : WatchMsg) (s : State) {t : State} (h : execWatchRegister h m s = .next t) : Keeps [.fld, .power, .events, .parts, .mesh, .crest, .fabric] s t := by
  unfold execWatchRegister at h
  injection h with h
  subst h
  repeat' first
    | (with_reducible exact Keeps.refl _ _)
    | (with_reducible assumption)
    | (exact rfl)
    | (exact ‹_ + _ = 32›)
    | (intro)
    | (extract_lets)
    | (with_reducible apply Keeps.ite)
    | (with_reducible apply Keeps.foldl)
    | (with_reducible apply Keeps.foldlSnd)
    | (with_reducible apply Keeps.trans ?_ (watchArrive_keeps _ _ _ _ ?_ ?_))
    | (with_reducible apply Keeps.step ?_ (registerWatch_keeps _ _) ?_)
    | (split)
    | (dsimp only)
    | (dsimp +zetaDelta only)

theorem execWatchCancel_keeps (h : Head) (m : WatchMsg) (s : State) {t : State} (h : execWatchCancel h m s = .next t) : Keeps [.fld, .power, .events, .mesh, .crest] s t := by
  unfold execWatchCancel at h
  injection h with h
  subst h
  repeat' first
    | (with_reducible exact Keeps.refl _ _)
    | (with_reducible assumption)
    | (exact rfl)
    | (exact ‹_ + _ = 32›)
    | (intro)
    | (extract_lets)
    | (with_reducible apply Keeps.ite)
    | (with_reducible apply Keeps.foldl)
    | (with_reducible apply Keeps.foldlSnd)
    | (with_reducible apply Keeps.trans ?_ (watchArrive_keeps _ _ _ _ ?_ ?_))
    | (with_reducible apply Keeps.step ?_ (cancelWatch_keeps _ _) ?_)
    | (split)
    | (dsimp only)
    | (dsimp +zetaDelta only)

theorem execWatchNotify_keeps (h : Head) (m : WatchMsg) (status : Nat) (s : State) {t : State} (h : execWatchNotify h m status s = .next t) : Keeps [.fld, .power, .events, .parts, .tiles, .mesh, .crest, .fabric] s t := by
  unfold execWatchNotify at h
  injection h with h
  subst h
  repeat' first
    | (with_reducible exact Keeps.refl _ _)
    | (with_reducible assumption)
    | (exact rfl)
    | (exact ‹_ + _ = 32›)
    | (intro)
    | (extract_lets)
    | (with_reducible apply Keeps.ite)
    | (with_reducible apply Keeps.foldl)
    | (with_reducible apply Keeps.foldlSnd)
    | (with_reducible apply Keeps.trans ?_ (arriveCtl_keeps _ _ _ _ ?_ ?_))
    | (with_reducible apply Keeps.trans ?_ (atRunning_keeps _ _ _ _ ?_ ?_))
    | (with_reducible apply Keeps.step ?_ (notifyIn_keeps _ _) ?_)
    | (split)
    | (dsimp only)
    | (dsimp +zetaDelta only)

theorem crestDiscard_keeps (h : Head) (s : State) : Keeps [.events] s (crestDiscard h s) := by
  unfold crestDiscard
  repeat' first
    | (with_reducible exact Keeps.refl _ _)
    | (with_reducible assumption)
    | (exact rfl)
    | (exact ‹_ + _ = 32›)
    | (intro)
    | (extract_lets)
    | (with_reducible apply Keeps.ite)
    | (with_reducible apply Keeps.foldl)
    | (with_reducible apply Keeps.foldlSnd)
    | (with_reducible apply Keeps.step ?_ (raise_keeps _ _) ?_)
    | (split)
    | (dsimp only)
    | (dsimp +zetaDelta only)

theorem tileAnswered_keeps (h : Head) (seq : Nat) (s : State) : Keeps [.power, .events, .parts, .tiles, .mem, .ecc, .mesh, .crest, .fabric] s (tileAnswered h seq s) := by
  unfold tileAnswered
  repeat' first
    | (with_reducible exact Keeps.refl _ _)
    | (with_reducible assumption)
    | (exact rfl)
    | (exact ‹_ + _ = 32›)
    | (intro)
    | (extract_lets)
    | (with_reducible apply Keeps.ite)
    | (with_reducible apply Keeps.foldl)
    | (with_reducible apply Keeps.foldlSnd)
    | (with_reducible apply Keeps.step ?_ (snapTry_keeps _ _) ?_)
    | (with_reducible apply Keeps.step ?_ (modTile_keeps _ _ _) ?_)
    | (split)
    | (dsimp only)
    | (dsimp +zetaDelta only)

theorem execCrestArrive_keeps (h : Head) (seq : Nat) (_value : Word64) (s : State) {t : State} (h : execCrestArrive h seq _value s = .next t) : Keeps [.fld, .power, .events, .parts, .tiles, .mem, .ecc, .mesh, .crest, .fabric] s t := by
  unfold execCrestArrive at h
  injection h with h
  subst h
  repeat' first
    | (with_reducible exact Keeps.refl _ _)
    | (with_reducible assumption)
    | (exact rfl)
    | (exact ‹_ + _ = 32›)
    | (intro)
    | (extract_lets)
    | (with_reducible apply Keeps.ite)
    | (with_reducible apply Keeps.foldl)
    | (with_reducible apply Keeps.foldlSnd)
    | (with_reducible apply Keeps.trans ?_ (arriveCtl_keeps _ _ _ _ ?_ ?_))
    | (with_reducible apply Keeps.step ?_ (tileAnswered_keeps _ _ _) ?_)
    | (with_reducible apply Keeps.step ?_ (crestDiscard_keeps _ _) ?_)
    | (split)
    | (dsimp only)
    | (dsimp +zetaDelta only)

theorem collectTile_keeps (k : Nat) (o : HostOp) (domain : Nat) (s : State) : Keeps [.fld, .power, .parts, .mem, .ecc, .mesh] s (collectTile k o domain s) := by
  unfold collectTile
  repeat' first
    | (with_reducible exact Keeps.refl _ _)
    | (with_reducible assumption)
    | (exact rfl)
    | (exact ‹_ + _ = 32›)
    | (intro)
    | (extract_lets)
    | (with_reducible apply Keeps.ite)
    | (with_reducible apply Keeps.foldl)
    | (with_reducible apply Keeps.foldlSnd)
    | (with_reducible apply Keeps.step ?_ (countAccess_keeps _ _ _ _) ?_)
    | (with_reducible apply Keeps.step ?_ (writeBytes_keeps _ _ _) ?_)
    | (with_reducible apply Keeps.step ?_ (send_keeps _ _) ?_)
    | (split)
    | (dsimp only)
    | (dsimp +zetaDelta only)

theorem execCrestRelease_keeps (h : Head) (seq : Nat) (_value : Word64) (s : State) {t : State} (h : execCrestRelease h seq _value s = .next t) : Keeps [.fld, .power, .events, .parts, .mem, .ecc, .mesh] s t := by
  unfold execCrestRelease at h
  injection h with h
  subst h
  repeat' first
    | (with_reducible exact Keeps.refl _ _)
    | (with_reducible assumption)
    | (exact rfl)
    | (exact ‹_ + _ = 32›)
    | (intro)
    | (extract_lets)
    | (with_reducible apply Keeps.ite)
    | (with_reducible apply Keeps.foldl)
    | (with_reducible apply Keeps.foldlSnd)
    | (with_reducible apply Keeps.trans ?_ (arriveCtl_keeps _ _ _ _ ?_ ?_))
    | (with_reducible apply Keeps.step ?_ (crestDiscard_keeps _ _) ?_)
    | (with_reducible apply Keeps.step ?_ (collectTile_keeps _ _ _ _) ?_)
    | (split)
    | (dsimp only)
    | (dsimp +zetaDelta only)

theorem tileRests_keeps (k : Nat) (s : State) : Keeps [.parts] s (tileRests k s) := by
  unfold tileRests
  repeat' first
    | (with_reducible exact Keeps.refl _ _)
    | (with_reducible assumption)
    | (exact rfl)
    | (exact ‹_ + _ = 32›)
    | (intro)
    | (extract_lets)
    | (with_reducible apply Keeps.ite)
    | (with_reducible apply Keeps.foldl)
    | (with_reducible apply Keeps.foldlSnd)
    | (with_reducible apply Keeps.step ?_ (hangCheck_keeps _ _) ?_)
    | (with_reducible apply Keeps.step ?_ (modPart_keeps _ _ _) ?_)
    | (split)
    | (dsimp only)
    | (dsimp +zetaDelta only)

theorem execCrestStill_keeps (h : Head) (_seq : Nat) (s : State) {t : State} (h : execCrestStill h _seq s = .next t) : Keeps [.fld, .power, .events, .parts, .mesh] s t := by
  unfold execCrestStill at h
  injection h with h
  subst h
  repeat' first
    | (with_reducible exact Keeps.refl _ _)
    | (with_reducible assumption)
    | (exact rfl)
    | (exact ‹_ + _ = 32›)
    | (intro)
    | (extract_lets)
    | (with_reducible apply Keeps.ite)
    | (with_reducible apply Keeps.foldl)
    | (with_reducible apply Keeps.foldlSnd)
    | (with_reducible apply Keeps.trans ?_ (arriveCtl_keeps _ _ _ _ ?_ ?_))
    | (with_reducible apply Keeps.step ?_ (tileRests_keeps _ _) ?_)
    | (with_reducible apply Keeps.step ?_ (crestDiscard_keeps _ _) ?_)
    | (split)
    | (dsimp only)
    | (dsimp +zetaDelta only)

theorem tileMoves_keeps (k : Nat) (s : State) : Keeps [.parts] s (tileMoves k s) := by
  unfold tileMoves
  repeat' first
    | (with_reducible exact Keeps.refl _ _)
    | (with_reducible assumption)
    | (exact rfl)
    | (exact ‹_ + _ = 32›)
    | (intro)
    | (extract_lets)
    | (with_reducible apply Keeps.ite)
    | (with_reducible apply Keeps.foldl)
    | (with_reducible apply Keeps.foldlSnd)
    | (with_reducible apply Keeps.step ?_ (modPart_keeps _ _ _) ?_)
    | (split)
    | (dsimp only)
    | (dsimp +zetaDelta only)

theorem execCrestMoving_keeps (h : Head) (_seq : Nat) (s : State) {t : State} (h : execCrestMoving h _seq s = .next t) : Keeps [.fld, .power, .events, .parts, .mesh] s t := by
  unfold execCrestMoving at h
  injection h with h
  subst h
  repeat' first
    | (with_reducible exact Keeps.refl _ _)
    | (with_reducible assumption)
    | (exact rfl)
    | (exact ‹_ + _ = 32›)
    | (intro)
    | (extract_lets)
    | (with_reducible apply Keeps.ite)
    | (with_reducible apply Keeps.foldl)
    | (with_reducible apply Keeps.foldlSnd)
    | (with_reducible apply Keeps.trans ?_ (arriveCtl_keeps _ _ _ _ ?_ ?_))
    | (with_reducible apply Keeps.step ?_ (tileMoves_keeps _ _) ?_)
    | (with_reducible apply Keeps.step ?_ (crestDiscard_keeps _ _) ?_)
    | (split)
    | (dsimp only)
    | (dsimp +zetaDelta only)

theorem execCrestCollected_keeps (h : Head) (seq : Nat) (s : State) {t : State} (h : execCrestCollected h seq s = .next t) : Keeps [.fld, .power, .events, .parts, .tiles, .mem, .ecc, .mesh, .crest, .fabric] s t := by
  unfold execCrestCollected at h
  injection h with h
  subst h
  repeat' first
    | (with_reducible exact Keeps.refl _ _)
    | (with_reducible assumption)
    | (exact rfl)
    | (exact ‹_ + _ = 32›)
    | (intro)
    | (extract_lets)
    | (with_reducible apply Keeps.ite)
    | (with_reducible apply Keeps.foldl)
    | (with_reducible apply Keeps.foldlSnd)
    | (with_reducible apply Keeps.trans ?_ (arriveCtl_keeps _ _ _ _ ?_ ?_))
    | (with_reducible apply Keeps.step ?_ (tileAnswered_keeps _ _ _) ?_)
    | (with_reducible apply Keeps.step ?_ (crestDiscard_keeps _ _) ?_)
    | (split)
    | (dsimp only)
    | (dsimp +zetaDelta only)

theorem abortGroup_keeps (group : BitVec 32) (domain : Nat) (s : State) : Keeps [.power, .events, .parts, .tiles, .mesh, .crest, .fabric] s (abortGroup group domain s) := by
  unfold abortGroup
  repeat' first
    | (with_reducible exact Keeps.refl _ _)
    | (with_reducible assumption)
    | (exact rfl)
    | (exact ‹_ + _ = 32›)
    | (intro)
    | (extract_lets)
    | (with_reducible apply Keeps.ite)
    | (with_reducible apply Keeps.foldl)
    | (with_reducible apply Keeps.foldlSnd)
    | (with_reducible apply Keeps.step ?_ (abortRun_keeps _ _ _) ?_)
    | (split)
    | (dsimp only)
    | (dsimp +zetaDelta only)

theorem execCrestAbort_keeps (h : Head) (group : BitVec 32) (s : State) {t : State} (h : execCrestAbort h group s = .next t) : Keeps [.fld, .power, .events, .parts, .tiles, .mesh, .crest, .fabric] s t := by
  unfold execCrestAbort at h
  injection h with h
  subst h
  repeat' first
    | (with_reducible exact Keeps.refl _ _)
    | (with_reducible assumption)
    | (exact rfl)
    | (exact ‹_ + _ = 32›)
    | (intro)
    | (extract_lets)
    | (with_reducible apply Keeps.ite)
    | (with_reducible apply Keeps.foldl)
    | (with_reducible apply Keeps.foldlSnd)
    | (with_reducible apply Keeps.trans ?_ (arriveCtl_keeps _ _ _ _ ?_ ?_))
    | (with_reducible apply Keeps.step ?_ (crestDiscard_keeps _ _) ?_)
    | (with_reducible apply Keeps.step ?_ (abortGroup_keeps _ _ _) ?_)
    | (split)
    | (dsimp only)
    | (dsimp +zetaDelta only)

theorem execHangTimerExpire_keeps (part : Nat) (s : State) {t : State} (h : execHangTimerExpire part s = .next t) : Keeps [.time, .fld, .power, .events, .parts, .tiles, .mesh, .crest, .fabric, .settings, .pilot, .test, .regs] s t := by
  unfold execHangTimerExpire at h
  injection h with h
  subst h
  repeat' first
    | (with_reducible exact Keeps.refl _ _)
    | (with_reducible assumption)
    | (exact rfl)
    | (exact ‹_ + _ = 32›)
    | (intro)
    | (extract_lets)
    | (with_reducible apply Keeps.ite)
    | (with_reducible apply Keeps.foldl)
    | (with_reducible apply Keeps.foldlSnd)
    | (with_reducible apply Keeps.step ?_ (advanceTo_keeps _ _) ?_)
    | (with_reducible apply Keeps.step ?_ (modPart_keeps _ _ _) ?_)
    | (with_reducible apply Keeps.step ?_ (raise_keeps _ _) ?_)
    | (with_reducible apply Keeps.step ?_ (abortRun_keeps _ _ _) ?_)
    | (with_reducible apply Keeps.step ?_ (beginReset_keeps _ _ _ _ _) ?_)
    | (split)
    | (dsimp only)
    | (dsimp +zetaDelta only)

theorem syncError_keeps (p : Pkt) (h : Hdr) (s : State) : Keeps [.events, .fabric] s (syncError p h s) := by
  unfold syncError
  repeat' first
    | (with_reducible exact Keeps.refl _ _)
    | (with_reducible assumption)
    | (exact rfl)
    | (exact ‹_ + _ = 32›)
    | (intro)
    | (extract_lets)
    | (with_reducible apply Keeps.ite)
    | (with_reducible apply Keeps.foldl)
    | (with_reducible apply Keeps.foldlSnd)
    | (with_reducible apply Keeps.step ?_ (replySync_keeps _ _ _ _ _ _ _ _) ?_)
    | (split)
    | (dsimp only)
    | (dsimp +zetaDelta only)

theorem syncOutside_keeps (p : Pkt) (h : Hdr) (s : State) : Keeps [.events, .fabric] s (syncOutside p h s) := by
  unfold syncOutside
  repeat' first
    | (with_reducible exact Keeps.refl _ _)
    | (with_reducible assumption)
    | (exact rfl)
    | (exact ‹_ + _ = 32›)
    | (intro)
    | (extract_lets)
    | (with_reducible apply Keeps.ite)
    | (with_reducible apply Keeps.foldl)
    | (with_reducible apply Keeps.foldlSnd)
    | (with_reducible apply Keeps.step ?_ (replySync_keeps _ _ _ _ _ _ _ _) ?_)
    | (with_reducible apply Keeps.step ?_ (raise_keeps _ _) ?_)
    | (split)
    | (dsimp only)
    | (dsimp +zetaDelta only)

theorem hostCtr_keeps (op n : Nat) (p : Pkt) (h : Hdr) (c : CtrRef) (self : Instr) (s : State) : Keeps [.power, .events, .parts, .tiles, .mem, .ecc, .mesh, .crest, .fabric] s (hostCtr op n p h c self s) := by
  unfold hostCtr
  repeat' first
    | (with_reducible exact Keeps.refl _ _)
    | (with_reducible assumption)
    | (exact rfl)
    | (exact ‹_ + _ = 32›)
    | (intro)
    | (extract_lets)
    | (with_reducible apply Keeps.ite)
    | (with_reducible apply Keeps.foldl)
    | (with_reducible apply Keeps.foldlSnd)
    | (with_reducible apply Keeps.trans ?_ (ingress_keeps _ _ _ _ ?_ ?_))
    | (with_reducible apply Keeps.step ?_ (syncError_keeps _ _ _) ?_)
    | (with_reducible apply Keeps.step ?_ (syncOutside_keeps _ _ _) ?_)
    | (with_reducible apply Keeps.step ?_ (holdCtr_keeps _ _ _) ?_)
    | (with_reducible apply Keeps.step ?_ (afterCtr_keeps _ _) ?_)
    | (with_reducible apply Keeps.step ?_ (performHostCtr_keeps _ _ _ _ _ _) ?_)
    | (split)
    | (dsimp only)
    | (dsimp +zetaDelta only)

theorem execSignalProduce_keeps (p : Pkt) (h : Hdr) (c : CtrRef) (n : BitVec 32) (s : State) {t : State} (h : execSignalProduce p h c n s = .next t) : Keeps [.power, .events, .parts, .tiles, .mem, .ecc, .mesh, .crest, .fabric] s t := by
  unfold execSignalProduce at h
  injection h with h
  subst h
  repeat' first
    | (with_reducible exact Keeps.refl _ _)
    | (with_reducible assumption)
    | (exact rfl)
    | (exact ‹_ + _ = 32›)
    | (intro)
    | (extract_lets)
    | (with_reducible apply Keeps.ite)
    | (with_reducible apply Keeps.foldl)
    | (with_reducible apply Keeps.foldlSnd)
    | (with_reducible apply Keeps.step ?_ (hostCtr_keeps _ _ _ _ _ _ _) ?_)
    | (split)
    | (dsimp only)
    | (dsimp +zetaDelta only)

theorem execSignalConsume_keeps (p : Pkt) (h : Hdr) (c : CtrRef) (n : BitVec 32) (s : State) {t : State} (h : execSignalConsume p h c n s = .next t) : Keeps [.power, .events, .parts, .tiles, .mem, .ecc, .mesh, .crest, .fabric] s t := by
  unfold execSignalConsume at h
  injection h with h
  subst h
  repeat' first
    | (with_reducible exact Keeps.refl _ _)
    | (with_reducible assumption)
    | (exact rfl)
    | (exact ‹_ + _ = 32›)
    | (intro)
    | (extract_lets)
    | (with_reducible apply Keeps.ite)
    | (with_reducible apply Keeps.foldl)
    | (with_reducible apply Keeps.foldlSnd)
    | (with_reducible apply Keeps.step ?_ (hostCtr_keeps _ _ _ _ _ _ _) ?_)
    | (split)
    | (dsimp only)
    | (dsimp +zetaDelta only)

theorem execCounterRead_keeps (p : Pkt) (h : Hdr) (c : CtrRef) (s : State) {t : State} (h : execCounterRead p h c s = .next t) : Keeps [.power, .events, .parts, .tiles, .mem, .ecc, .mesh, .crest, .fabric] s t := by
  unfold execCounterRead at h
  injection h with h
  subst h
  repeat' first
    | (with_reducible exact Keeps.refl _ _)
    | (with_reducible assumption)
    | (exact rfl)
    | (exact ‹_ + _ = 32›)
    | (intro)
    | (extract_lets)
    | (with_reducible apply Keeps.ite)
    | (with_reducible apply Keeps.foldl)
    | (with_reducible apply Keeps.foldlSnd)
    | (with_reducible apply Keeps.step ?_ (hostCtr_keeps _ _ _ _ _ _ _) ?_)
    | (split)
    | (dsimp only)
    | (dsimp +zetaDelta only)

theorem execCounterBound_keeps (p : Pkt) (h : Hdr) (c : CtrRef) (b : BitVec 16) (s : State) {t : State} (h : execCounterBound p h c b s = .next t) : Keeps [.power, .events, .parts, .tiles, .mem, .ecc, .mesh, .crest, .fabric] s t := by
  unfold execCounterBound at h
  injection h with h
  subst h
  repeat' first
    | (with_reducible exact Keeps.refl _ _)
    | (with_reducible assumption)
    | (exact rfl)
    | (exact ‹_ + _ = 32›)
    | (intro)
    | (extract_lets)
    | (with_reducible apply Keeps.ite)
    | (with_reducible apply Keeps.foldl)
    | (with_reducible apply Keeps.foldlSnd)
    | (with_reducible apply Keeps.step ?_ (hostCtr_keeps _ _ _ _ _ _ _) ?_)
    | (split)
    | (dsimp only)
    | (dsimp +zetaDelta only)

theorem execCounterInit_keeps (p : Pkt) (h : Hdr) (c : CtrRef) (s : State) {t : State} (h : execCounterInit p h c s = .next t) : Keeps [.power, .events, .parts, .tiles, .mem, .ecc, .mesh, .crest, .fabric] s t := by
  unfold execCounterInit at h
  injection h with h
  subst h
  repeat' first
    | (with_reducible exact Keeps.refl _ _)
    | (with_reducible assumption)
    | (exact rfl)
    | (exact ‹_ + _ = 32›)
    | (intro)
    | (extract_lets)
    | (with_reducible apply Keeps.ite)
    | (with_reducible apply Keeps.foldl)
    | (with_reducible apply Keeps.foldlSnd)
    | (with_reducible apply Keeps.step ?_ (hostCtr_keeps _ _ _ _ _ _ _) ?_)
    | (split)
    | (dsimp only)
    | (dsimp +zetaDelta only)

theorem execWatchSet_keeps (p : Pkt) (h : Hdr) (c : CtrRef) (count : Nat) (v : Count48) (id : BitVec 32) (s : State) {t : State} (h : execWatchSet p h c count v id s = .next t) : Keeps [.power, .events, .parts, .mesh, .crest, .fabric] s t := by
  unfold execWatchSet at h
  injection h with h
  subst h
  repeat' first
    | (with_reducible exact Keeps.refl _ _)
    | (with_reducible assumption)
    | (exact rfl)
    | (exact ‹_ + _ = 32›)
    | (intro)
    | (extract_lets)
    | (with_reducible apply Keeps.ite)
    | (with_reducible apply Keeps.foldl)
    | (with_reducible apply Keeps.foldlSnd)
    | (with_reducible apply Keeps.trans ?_ (ingress_keeps _ _ _ _ ?_ ?_))
    | (with_reducible apply Keeps.step ?_ (syncError_keeps _ _ _) ?_)
    | (with_reducible apply Keeps.step ?_ (syncOutside_keeps _ _ _) ?_)
    | (with_reducible apply Keeps.step ?_ (replySync_keeps _ _ _ _ _ _ _ _) ?_)
    | (with_reducible apply Keeps.step ?_ (registerWatch_keeps _ _) ?_)
    | (split)
    | (dsimp only)
    | (dsimp +zetaDelta only)

theorem execHostWatchCancel_keeps (p : Pkt) (h : Hdr) (id : BitVec 32) (s : State) {t : State} (h : execHostWatchCancel p h id s = .next t) : Keeps [.power, .events, .crest, .fabric] s t := by
  unfold execHostWatchCancel at h
  injection h with h
  subst h
  repeat' first
    | (with_reducible exact Keeps.refl _ _)
    | (with_reducible assumption)
    | (exact rfl)
    | (exact ‹_ + _ = 32›)
    | (intro)
    | (extract_lets)
    | (with_reducible apply Keeps.ite)
    | (with_reducible apply Keeps.foldl)
    | (with_reducible apply Keeps.foldlSnd)
    | (fail_if_no_progress ((with_reducible apply Keeps.setCrest) <;> [skip; (exact rfl)]))
    | (with_reducible apply Keeps.trans ?_ (ingress_keeps _ _ _ _ ?_ ?_))
    | (with_reducible apply Keeps.step ?_ (syncError_keeps _ _ _) ?_)
    | (with_reducible apply Keeps.step ?_ (replySync_keeps _ _ _ _ _ _ _ _) ?_)
    | (split)
    | (dsimp only)
    | (dsimp +zetaDelta only)

theorem execDescriptorPost_keeps (p : Pkt) (h : Hdr) (x y : Nat) (w0 w1 w2 w3 : Word32) (s : State) {t : State} (h : execDescriptorPost p h x y w0 w1 w2 w3 s = .next t) : Keeps [.power, .events, .parts, .tiles, .mesh, .crest, .fabric] s t := by
  unfold execDescriptorPost at h
  injection h with h
  subst h
  repeat' first
    | (with_reducible exact Keeps.refl _ _)
    | (with_reducible assumption)
    | (exact rfl)
    | (exact ‹_ + _ = 32›)
    | (intro)
    | (extract_lets)
    | (with_reducible apply Keeps.ite)
    | (with_reducible apply Keeps.foldl)
    | (with_reducible apply Keeps.foldlSnd)
    | (with_reducible apply Keeps.trans ?_ (ingress_keeps _ _ _ _ ?_ ?_))
    | (with_reducible apply Keeps.step ?_ (syncError_keeps _ _ _) ?_)
    | (with_reducible apply Keeps.step ?_ (replySync_keeps _ _ _ _ _ _ _ _) ?_)
    | (with_reducible apply Keeps.step ?_ (postDesc_keeps _ _ _) ?_)
    | (with_reducible apply Keeps.step ?_ (syncOutside_keeps _ _ _) ?_)
    | (split)
    | (dsimp only)
    | (dsimp +zetaDelta only)

theorem execBarrier_keeps (p : Pkt) (h : Hdr) (arrival release : Nat) (v : Count48) (s : State) {t : State} (h : execBarrier p h arrival release v s = .next t) : Keeps [.power, .events, .parts, .tiles, .mem, .ecc, .mesh, .crest, .fabric] s t := by
  unfold execBarrier at h
  injection h with h
  subst h
  repeat' first
    | (with_reducible exact Keeps.refl _ _)
    | (with_reducible assumption)
    | (exact rfl)
    | (exact ‹_ + _ = 32›)
    | (intro)
    | (extract_lets)
    | (with_reducible apply Keeps.ite)
    | (with_reducible apply Keeps.foldl)
    | (with_reducible apply Keeps.foldlSnd)
    | (with_reducible apply Keeps.trans ?_ (ingress_keeps _ _ _ _ ?_ ?_))
    | (with_reducible apply Keeps.step ?_ (syncError_keeps _ _ _) ?_)
    | (with_reducible apply Keeps.step ?_ (syncOutside_keeps _ _ _) ?_)
    | (with_reducible apply Keeps.step ?_ (barrierTry_keeps _ _) ?_)
    | (with_reducible apply Keeps.step ?_ (startHostOp_keeps _ _ _) ?_)
    | (split)
    | (dsimp only)
    | (dsimp +zetaDelta only)

theorem spreadCast_keeps (a : Part) (ctr : Nat) (n : BitVec 32) (s : State) : Keeps [.events, .fabric] s (spreadCast a ctr n s) := by
  unfold spreadCast
  repeat' first
    | (with_reducible exact Keeps.refl _ _)
    | (with_reducible assumption)
    | (exact rfl)
    | (exact ‹_ + _ = 32›)
    | (intro)
    | (extract_lets)
    | (with_reducible apply Keeps.ite)
    | (with_reducible apply Keeps.foldl)
    | (with_reducible apply Keeps.foldlSnd)
    | (with_reducible apply Keeps.step ?_ (relay_keeps _ _ _ _ _ _) ?_)
    | (split)
    | (dsimp only)
    | (dsimp +zetaDelta only)

theorem execBroadcast_keeps (p : Pkt) (h : Hdr) (ctr : Nat) (n : BitVec 32) (s : State) {t : State} (h : execBroadcast p h ctr n s = .next t) : Keeps [.power, .events, .parts, .tiles, .mem, .ecc, .mesh, .crest, .fabric] s t := by
  unfold execBroadcast at h
  injection h with h
  subst h
  repeat' first
    | (with_reducible exact Keeps.refl _ _)
    | (with_reducible assumption)
    | (exact rfl)
    | (exact ‹_ + _ = 32›)
    | (intro)
    | (extract_lets)
    | (with_reducible apply Keeps.ite)
    | (with_reducible apply Keeps.foldl)
    | (with_reducible apply Keeps.foldlSnd)
    | (with_reducible apply Keeps.trans ?_ (ingress_keeps _ _ _ _ ?_ ?_))
    | (with_reducible apply Keeps.step ?_ (syncError_keeps _ _ _) ?_)
    | (with_reducible apply Keeps.step ?_ (syncOutside_keeps _ _ _) ?_)
    | (with_reducible apply Keeps.step ?_ (spreadCast_keeps _ _ _ _) ?_)
    | (with_reducible apply Keeps.step ?_ (startHostOp_keeps _ _ _) ?_)
    | (with_reducible apply Keeps.step ?_ (holdCtr_keeps _ _ _) ?_)
    | (with_reducible apply Keeps.step ?_ (applyCtr_keeps _ _ _ _) ?_)
    | (with_reducible apply Keeps.step ?_ (applyCtr_eq ‹_›) ?_)
    | (with_reducible apply Keeps.step ?_ (barrierTry_keeps _ _) ?_)
    | (with_reducible apply Keeps.step ?_ (replySync_keeps _ _ _ _ _ _ _ _) ?_)
    | (with_reducible apply Keeps.step ?_ (endHostOp_keeps _ _ _) ?_)
    | (split)
    | (dsimp only)
    | (dsimp +zetaDelta only)

theorem execSnapshot_keeps (p : Pkt) (h : Hdr) (addr : Nat) (s : State) {t : State} (h : execSnapshot p h addr s = .next t) : Keeps [.power, .events, .parts, .tiles, .mesh, .fabric] s t := by
  unfold execSnapshot at h
  injection h with h
  subst h
  repeat' first
    | (with_reducible exact Keeps.refl _ _)
    | (with_reducible assumption)
    | (exact rfl)
    | (exact ‹_ + _ = 32›)
    | (intro)
    | (extract_lets)
    | (with_reducible apply Keeps.ite)
    | (with_reducible apply Keeps.foldl)
    | (with_reducible apply Keeps.foldlSnd)
    | (with_reducible apply Keeps.trans ?_ (ingress_keeps _ _ _ _ ?_ ?_))
    | (with_reducible apply Keeps.step ?_ (syncError_keeps _ _ _) ?_)
    | (with_reducible apply Keeps.step ?_ (startHostOp_keeps _ _ _) ?_)
    | (with_reducible apply Keeps.step ?_ (modTile_keeps _ _ _) ?_)
    | (with_reducible apply Keeps.step ?_ (snapArrive_keeps _ _) ?_)
    | (split)
    | (dsimp only)
    | (dsimp +zetaDelta only)

theorem relayedRelease_keeps (q seq : Nat) (value : Word64) (s : State) : Keeps [.power, .events, .parts, .tiles, .mem, .ecc, .mesh, .crest, .fabric] s (relayedRelease q seq value s) := by
  unfold relayedRelease
  repeat' first
    | (with_reducible exact Keeps.refl _ _)
    | (with_reducible assumption)
    | (exact rfl)
    | (exact ‹_ + _ = 32›)
    | (intro)
    | (extract_lets)
    | (with_reducible apply Keeps.ite)
    | (with_reducible apply Keeps.foldl)
    | (with_reducible apply Keeps.foldlSnd)
    | (with_reducible apply Keeps.step ?_ (releaseOp_keeps _ _ _ _) ?_)
    | (with_reducible apply Keeps.step ?_ (modPart_keeps _ _ _) ?_)
    | (with_reducible apply Keeps.step ?_ (barrierTry_keeps _ _) ?_)
    | (with_reducible apply Keeps.step ?_ (castHere_keeps _ _ _ _) ?_)
    | (split)
    | (dsimp only)
    | (dsimp +zetaDelta only)

theorem execCrestRelay_keeps (p : Pkt) (w2 w3 w4 : Word32) (origin : Nat) (s : State) {t : State} (h : execCrestRelay p w2 w3 w4 origin s = .next t) : Keeps [.power, .events, .parts, .tiles, .mem, .ecc, .mesh, .crest, .fabric] s t := by
  unfold execCrestRelay at h
  injection h with h
  subst h
  repeat' first
    | (with_reducible exact Keeps.refl _ _)
    | (with_reducible assumption)
    | (exact rfl)
    | (exact ‹_ + _ = 32›)
    | (intro)
    | (extract_lets)
    | (with_reducible apply Keeps.ite)
    | (with_reducible apply Keeps.foldl)
    | (with_reducible apply Keeps.foldlSnd)
    | (with_reducible apply Keeps.trans ?_ (ingress_keeps _ _ _ _ ?_ ?_))
    | (with_reducible apply Keeps.step ?_ (fabricRefused_keeps _ _ _ _) ?_)
    | (with_reducible apply Keeps.step ?_ (abortGroup_keeps _ _ _) ?_)
    | (with_reducible apply Keeps.step ?_ (memberArrives_keeps _ _ _ _ _) ?_)
    | (with_reducible apply Keeps.step ?_ (relayedRelease_keeps _ _ _ _) ?_)
    | (with_reducible apply Keeps.step ?_ (raise_keeps _ _) ?_)
    | (split)
    | (dsimp only)
    | (dsimp +zetaDelta only)

end Sys2Proof.Machine
end

