-- ==== Sys2Proof/Laws/Keeps/MeshFam.lean ====
section
/-! SUPPORT. What the operations of Machine/MeshFam.lean may write, and that they keep the invariant. -/

namespace Sys2Proof.Machine

open Sys2Proof

set_option linter.unusedTactic false
set_option linter.unreachableTactic false

theorem outState_step {w w1 : List Region} {s t : State} {o : Out} (h0 : Keeps w s t) (h : ∀ u, o = .next u → Keeps w1 t u)
    (hw : w1.all (w.contains ·) = true) : Keeps w s (outState t o) := by
  unfold outState
  split
  · exact h0.step (h _ rfl) hw
  · exact h0

theorem discardReserved_keeps (h : Head) (s : State) : Keeps [.events] s (discardReserved h s) := by
  unfold discardReserved
  repeat' first
    | (with_reducible exact Keeps.refl _ _)
    | (with_reducible assumption)
    | (exact rfl)
    | (exact ‹_ + _ = 32›)
    | (intro)
    | (extract_lets)
    | (with_reducible apply Keeps.ite)
    | (with_reducible apply Keeps.foldl)
    | (with_reducible apply Keeps.foldlSnd)
    | (with_reducible apply Keeps.step ?_ (raise_keeps _ _) ?_)
    | (split)
    | (dsimp only)
    | (dsimp +zetaDelta only)

theorem innerData_keeps (inner : Nat) (h : Head) (data : List Byte) {s t : State} (hs : innerData inner h data s = .next t) :
    Keeps [.fld, .power, .events, .parts, .tiles, .mem, .ecc, .mesh, .crest, .fabric] s t := by
  unfold innerData at hs
  split at hs
  · exact (execStream_keeps _ _ _ hs).mono rfl
  · exact (execHalo_keeps _ _ _ _ hs).mono rfl

theorem castCopy_keeps (c : Cast) (pos : Nat) (acc : Nat × Nat × State) : Keeps [.fld, .power, .events, .parts, .tiles, .mem, .ecc, .mesh, .crest, .fabric] acc.2.2 (castCopy c pos acc).2.2 := by
  unfold castCopy
  exact outState_step (Keeps.refl _ _) (fun _ => innerData_keeps _ _ _) rfl

theorem castDone_keeps (c : Cast) (s : State) : Keeps [.fld, .power, .parts, .mesh] s (castDone c s) := by
  unfold castDone
  repeat' first
    | (with_reducible exact Keeps.refl _ _)
    | (with_reducible assumption)
    | (exact rfl)
    | (exact ‹_ + _ = 32›)
    | (intro)
    | (extract_lets)
    | (with_reducible apply Keeps.ite)
    | (with_reducible apply Keeps.foldl)
    | (with_reducible apply Keeps.foldlSnd)
    | (fail_if_no_progress ((with_reducible apply Keeps.setMesh) <;> [skip; (exact rfl)]))
    | (with_reducible apply Keeps.step ?_ (crossed_keeps _ _ _ _) ?_)
    | (with_reducible apply Keeps.step ?_ (send_keeps _ _) ?_)
    | (split)
    | (dsimp only)
    | (dsimp +zetaDelta only)

theorem castGo_keeps (m : MeshMsg) (c : Cast) (s : State) : Keeps [.fld, .power, .events, .parts, .tiles, .mem, .ecc, .mesh, .crest, .fabric] s (castGo m c s) := by
  unfold castGo
  repeat' first
    | (with_reducible exact Keeps.refl _ _)
    | (with_reducible assumption)
    | (exact rfl)
    | (exact ‹_ + _ = 32›)
    | (intro)
    | (extract_lets)
    | (with_reducible apply Keeps.ite)
    | (with_reducible apply Keeps.foldl)
    | (with_reducible apply Keeps.foldlSnd)
    | (fail_if_no_progress ((with_reducible apply Keeps.setMesh) <;> [skip; (exact rfl)]))
    | (with_reducible refine Keeps.foldlOf (fun x : Nat × Nat × State => x.2.2) ?_ (fun _ _ h => h.step (castCopy_keeps _ _ _) rfl))
    | (with_reducible apply Keeps.step ?_ (castDone_keeps _ _) ?_)
    | (split)
    | (dsimp only)
    | (dsimp +zetaDelta only)

theorem castStart_keeps (m : MeshMsg) (inner : Nat) (data : List Byte) (s : State) : Keeps [.fld, .power, .events, .parts, .tiles, .mem, .ecc, .mesh, .crest, .fabric] s (castStart m inner data s) := by
  unfold castStart
  repeat' first
    | (with_reducible exact Keeps.refl _ _)
    | (with_reducible assumption)
    | (exact rfl)
    | (exact ‹_ + _ = 32›)
    | (intro)
    | (extract_lets)
    | (with_reducible apply Keeps.ite)
    | (with_reducible apply Keeps.foldl)
    | (with_reducible apply Keeps.foldlSnd)
    | (with_reducible apply Keeps.step ?_ (discardReserved_keeps _ _) ?_)
    | (with_reducible apply Keeps.step ?_ (crossed_keeps _ _ _ _) ?_)
    | (with_reducible apply Keeps.step ?_ (castGo_keeps _ _ _) ?_)
    | (split)
    | (dsimp only)
    | (dsimp +zetaDelta only)

theorem castAgain_keeps (s : State) : Keeps [.fld, .power, .events, .parts, .tiles, .mem, .ecc, .mesh, .crest, .fabric] s (castAgain s) := by
  unfold castAgain
  repeat' first
    | (with_reducible exact Keeps.refl _ _)
    | (with_reducible assumption)
    | (exact rfl)
    | (exact ‹_ + _ = 32›)
    | (intro)
    | (extract_lets)
    | (with_reducible apply Keeps.ite)
    | (with_reducible apply Keeps.foldl)
    | (with_reducible apply Keeps.foldlSnd)
    | (fail_if_no_progress ((with_reducible apply Keeps.setMesh) <;> [skip; (exact rfl)]))
    | (with_reducible apply Keeps.step ?_ (castGo_keeps _ _ _) ?_)
    | (split)
    | (dsimp only)
    | (dsimp +zetaDelta only)

theorem execMcastRect_keeps (h : Head) (x1 y1 inner : Nat) (data : List Byte) (s : State) {t : State} (h : execMcastRect h x1 y1 inner data s = .next t) : Keeps [.fld, .power, .events, .parts, .tiles, .mem, .ecc, .mesh, .crest, .fabric] s t := by
  unfold execMcastRect at h
  injection h with h
  subst h
  repeat' first
    | (with_reducible exact Keeps.refl _ _)
    | (with_reducible assumption)
    | (exact rfl)
    | (exact ‹_ + _ = 32›)
    | (intro)
    | (extract_lets)
    | (with_reducible apply Keeps.ite)
    | (with_reducible apply Keeps.foldl)
    | (with_reducible apply Keeps.foldlSnd)
    | (with_reducible apply Keeps.step ?_ (castStart_keeps _ _ _ _) ?_)
    | (split)
    | (dsimp only)
    | (dsimp +zetaDelta only)

theorem execMcastMask_keeps (h : Head) (mask : Word64) (inner : Nat) (data : List Byte) (s : State) {t : State} (h : execMcastMask h mask inner data s = .next t) : Keeps [.fld, .power, .events, .parts, .tiles, .mem, .ecc, .mesh, .crest, .fabric] s t := by
  unfold execMcastMask at h
  injection h with h
  subst h
  repeat' first
    | (with_reducible exact Keeps.refl _ _)
    | (with_reducible assumption)
    | (exact rfl)
    | (exact ‹_ + _ = 32›)
    | (intro)
    | (extract_lets)
    | (with_reducible apply Keeps.ite)
    | (with_reducible apply Keeps.foldl)
    | (with_reducible apply Keeps.foldlSnd)
    | (with_reducible apply Keeps.step ?_ (castStart_keeps _ _ _ _) ?_)
    | (split)
    | (dsimp only)
    | (dsimp +zetaDelta only)

theorem execMcastAck_keeps (h : Head) (delivered refused : Nat) (s : State) {t : State} (h : execMcastAck h delivered refused s = .next t) : Keeps [.fld, .power, .events, .tiles, .mesh] s t := by
  unfold execMcastAck at h
  injection h with h
  subst h
  repeat' first
    | (with_reducible exact Keeps.refl _ _)
    | (with_reducible assumption)
    | (exact rfl)
    | (exact ‹_ + _ = 32›)
    | (intro)
    | (extract_lets)
    | (with_reducible apply Keeps.ite)
    | (with_reducible apply Keeps.foldl)
    | (with_reducible apply Keeps.foldlSnd)
    | (with_reducible apply Keeps.trans ?_ (arriveData_keeps _ _ _ _ ?_ ?_))
    | (with_reducible apply Keeps.step ?_ (modTile_keeps _ _ _) ?_)
    | (split)
    | (dsimp only)
    | (dsimp +zetaDelta only)

theorem execMcastStall_keeps (_x _y : Nat) (stalled : CellRef) (domain : Nat) (s : State) {t : State} (h : execMcastStall _x _y stalled domain s = .next t) : Keeps [.time, .events, .mesh, .pilot] s t := by
  unfold execMcastStall at h
  injection h with h
  subst h
  repeat' first
    | (with_reducible exact Keeps.refl _ _)
    | (with_reducible assumption)
    | (exact rfl)
    | (exact ‹_ + _ = 32›)
    | (intro)
    | (extract_lets)
    | (with_reducible apply Keeps.ite)
    | (with_reducible apply Keeps.foldl)
    | (with_reducible apply Keeps.foldlSnd)
    | (fail_if_no_progress ((with_reducible apply Keeps.setMesh) <;> [skip; (exact rfl)]))
    | (with_reducible apply Keeps.step ?_ (advanceTo_keeps _ _) ?_)
    | (with_reducible apply Keeps.step ?_ (raise_keeps _ _) ?_)
    | (split)
    | (dsimp only)
    | (dsimp +zetaDelta only)

theorem innerCtr_keeps (h : Head) (words : List Word32) (s : State) : Keeps [.fld, .power, .events, .parts, .tiles, .mem, .ecc, .mesh, .crest, .fabric] s (innerCtr h words s) := by
  unfold innerCtr
  repeat' first
    | (with_reducible exact Keeps.refl _ _)
    | (with_reducible assumption)
    | (exact rfl)
    | (exact ‹_ + _ = 32›)
    | (intro)
    | (extract_lets)
    | (with_reducible apply Keeps.ite)
    | (with_reducible apply Keeps.foldl)
    | (with_reducible apply Keeps.foldlSnd)
    | (with_reducible refine outState_step ?_ (fun _ => execCtrProduce_keeps _ _ _ _) ?_)
    | (with_reducible refine outState_step ?_ (fun _ => execCtrConsume_keeps _ _ _ _) ?_)
    | (with_reducible refine outState_step ?_ (fun _ => execCtrRead_keeps _ _ _) ?_)
    | (with_reducible refine outState_step ?_ (fun _ => execCtrBound_keeps _ _ _ _) ?_)
    | (with_reducible refine outState_step ?_ (fun _ => execCtrInit_keeps _ _ _) ?_)
    | (with_reducible refine outState_step ?_ (fun _ => execCtrAck_keeps _ _ _ _) ?_)
    | (with_reducible apply outState_step ?_ (fun _ => execCtrProduce_keeps _ _ _ _) ?_)
    | (with_reducible apply outState_step ?_ (fun _ => execCtrConsume_keeps _ _ _ _) ?_)
    | (with_reducible apply outState_step ?_ (fun _ => execCtrRead_keeps _ _ _) ?_)
    | (with_reducible apply outState_step ?_ (fun _ => execCtrBound_keeps _ _ _ _) ?_)
    | (with_reducible apply outState_step ?_ (fun _ => execCtrInit_keeps _ _ _) ?_)
    | (with_reducible apply outState_step ?_ (fun _ => execCtrAck_keeps _ _ _ _) ?_)
    | (split)
    | (dsimp only)
    | (dsimp +zetaDelta only)

theorem innerWatch_keeps (h : Head) (words : List Word32) (s : State) : Keeps [.fld, .power, .events, .parts, .tiles, .mesh, .crest, .fabric] s (innerWatch h words s) := by
  unfold innerWatch
  repeat' first
    | (with_reducible exact Keeps.refl _ _)
    | (with_reducible assumption)
    | (exact rfl)
    | (exact ‹_ + _ = 32›)
    | (intro)
    | (extract_lets)
    | (with_reducible apply Keeps.ite)
    | (with_reducible apply Keeps.foldl)
    | (with_reducible apply Keeps.foldlSnd)
    | (with_reducible refine outState_step ?_ (fun _ => execWatchRegister_keeps _ _ _) ?_)
    | (with_reducible refine outState_step ?_ (fun _ => execWatchCancel_keeps _ _ _) ?_)
    | (with_reducible refine outState_step ?_ (fun _ => execWatchNotify_keeps _ _ _ _) ?_)
    | (with_reducible apply outState_step ?_ (fun _ => execWatchRegister_keeps _ _ _) ?_)
    | (with_reducible apply outState_step ?_ (fun _ => execWatchCancel_keeps _ _ _) ?_)
    | (with_reducible apply outState_step ?_ (fun _ => execWatchNotify_keeps _ _ _ _) ?_)
    | (split)
    | (dsimp only)
    | (dsimp +zetaDelta only)

theorem innerCrest_keeps (h : Head) (words : List Word32) (s : State) : Keeps [.fld, .power, .events, .parts, .tiles, .mem, .ecc, .mesh, .crest, .fabric] s (innerCrest h words s) := by
  unfold innerCrest
  repeat' first
    | (with_reducible exact Keeps.refl _ _)
    | (with_reducible assumption)
    | (exact rfl)
    | (exact ‹_ + _ = 32›)
    | (intro)
    | (extract_lets)
    | (with_reducible apply Keeps.ite)
    | (with_reducible apply Keeps.foldl)
    | (with_reducible apply Keeps.foldlSnd)
    | (with_reducible refine outState_step ?_ (fun _ => execCrestArrive_keeps _ _ _ _) ?_)
    | (with_reducible refine outState_step ?_ (fun _ => execCrestRelease_keeps _ _ _ _) ?_)
    | (with_reducible refine outState_step ?_ (fun _ => execCrestStill_keeps _ _ _) ?_)
    | (with_reducible refine outState_step ?_ (fun _ => execCrestMoving_keeps _ _ _) ?_)
    | (with_reducible refine outState_step ?_ (fun _ => execCrestCollected_keeps _ _ _) ?_)
    | (with_reducible refine outState_step ?_ (fun _ => execCrestAbort_keeps _ _ _) ?_)
    | (split)
    | (dsimp only)
    | (dsimp +zetaDelta only)

theorem innerSection_keeps (h : Head) (code : Nat) (s : State) : Keeps [.fld, .power, .events, .parts, .tiles, .mem, .ecc, .mesh, .crest, .fabric, .settings] s (innerSection h code s) := by
  unfold innerSection
  repeat' first
    | (with_reducible exact Keeps.refl _ _)
    | (with_reducible assumption)
    | (exact rfl)
    | (exact ‹_ + _ = 32›)
    | (intro)
    | (extract_lets)
    | (with_reducible apply Keeps.ite)
    | (with_reducible apply Keeps.foldl)
    | (with_reducible apply Keeps.foldlSnd)
    | (with_reducible apply Keeps.step ?_ (discardReserved_keeps _ _) ?_)
    | (with_reducible refine outState_step ?_ (fun _ => execSectionStart_keeps _ _ _) ?_)
    | (with_reducible refine outState_step ?_ (fun _ => execSectionAbort_keeps _ _ _) ?_)
    | (split)
    | (dsimp only)
    | (dsimp +zetaDelta only)

theorem innerCtl_keeps (kind : Nat) (h : Head) (words : List Word32) (s : State) : Keeps [.fld, .power, .events, .parts, .tiles, .mem, .ecc, .mesh, .crest, .fabric, .settings] s (innerCtl kind h words s) := by
  unfold innerCtl
  repeat' first
    | (with_reducible exact Keeps.refl _ _)
    | (with_reducible assumption)
    | (exact rfl)
    | (exact ‹_ + _ = 32›)
    | (intro)
    | (extract_lets)
    | (with_reducible apply Keeps.ite)
    | (with_reducible apply Keeps.foldl)
    | (with_reducible apply Keeps.foldlSnd)
    | (with_reducible refine outState_step ?_ (fun _ => execToken_keeps _ _ _ _) ?_)
    | (with_reducible refine outState_step ?_ (fun _ => execCredit_keeps _ _) ?_)
    | (with_reducible refine outState_step ?_ (fun _ => execTuple_keeps _ _ _) ?_)
    | (with_reducible apply Keeps.step ?_ (innerCtr_keeps _ _ _) ?_)
    | (with_reducible apply Keeps.step ?_ (innerWatch_keeps _ _ _) ?_)
    | (with_reducible apply Keeps.step ?_ (innerCrest_keeps _ _ _) ?_)
    | (with_reducible apply Keeps.step ?_ (innerSection_keeps _ _ _) ?_)
    | (with_reducible apply Keeps.step ?_ (discardReserved_keeps _ _) ?_)
    | (with_reducible apply outState_step ?_ (fun _ => execToken_keeps _ _ _ _) ?_)
    | (with_reducible apply outState_step ?_ (fun _ => execCredit_keeps _ _) ?_)
    | (with_reducible apply outState_step ?_ (fun _ => execTuple_keeps _ _ _) ?_)
    | (with_reducible apply outState_step ?_ (fun _ => execCrestRelease_keeps _ _ _ _) ?_)
    | (split)
    | (dsimp only)
    | (dsimp +zetaDelta only)

theorem execMcastControl_keeps (h : Head) (x1 y1 inner : Nat) (words : List Word32) (s : State) {t : State} (h : execMcastControl h x1 y1 inner words s = .next t) : Keeps [.fld, .power, .events, .parts, .tiles, .mem, .ecc, .mesh, .crest, .fabric, .settings] s t := by
  unfold execMcastControl at h
  injection h with h
  subst h
  repeat' first
    | (with_reducible exact Keeps.refl _ _)
    | (with_reducible assumption)
    | (exact rfl)
    | (exact ‹_ + _ = 32›)
    | (intro)
    | (extract_lets)
    | (with_reducible apply Keeps.ite)
    | (with_reducible apply Keeps.foldl)
    | (with_reducible apply Keeps.foldlSnd)
    | (with_reducible apply Keeps.step ?_ (crossed_keeps _ _ _ _) ?_)
    | (with_reducible apply Keeps.step ?_ (discardReserved_keeps _ _) ?_)
    | (with_reducible apply Keeps.step ?_ (innerCtl_keeps _ _ _ _) ?_)
    | (split)
    | (dsimp only)
    | (dsimp +zetaDelta only)

theorem execCombine_keeps (h : Head) (pre : CombinePrefix) (elems : List Word32) (s : State) {t : State} (h : execCombine h pre elems s = .next t) : Keeps [.fld, .power, .events, .parts, .tiles, .mem, .ecc, .mesh, .crest, .fabric, .settings] s t := by
  unfold execCombine at h
  injection h with h
  subst h
  repeat' first
    | (with_reducible exact Keeps.refl _ _)
    | (with_reducible assumption)
    | (exact rfl)
    | (exact ‹_ + _ = 32›)
    | (intro)
    | (extract_lets)
    | (with_reducible apply Keeps.ite)
    | (with_reducible apply Keeps.foldl)
    | (with_reducible apply Keeps.foldlSnd)
    | (with_reducible apply Keeps.trans ?_ (arriveData_keeps _ _ _ _ ?_ ?_))
    | (with_reducible apply Keeps.step ?_ (mergedAway_keeps _ _ _ _ _ _) ?_)
    | (with_reducible apply Keeps.trans ?_ (atRunning_keeps _ _ _ _ ?_ ?_))
    | (with_reducible apply Keeps.step ?_ (combineIn_keeps _ _ _ _) ?_)
    | (split)
    | (dsimp only)
    | (dsimp +zetaDelta only)

theorem execFailNotice_keeps (h : Head) (reason _lostType reqId : Nat) (s : State) {t : State} (h : execFailNotice h reason _lostType reqId s = .next t) : Keeps [.fld, .power, .events, .parts, .tiles, .mem, .ecc, .mesh, .crest, .fabric] s t := by
  unfold execFailNotice at h
  injection h with h
  subst h
  repeat' first
    | (with_reducible exact Keeps.refl _ _)
    | (with_reducible assumption)
    | (exact rfl)
    | (exact ‹_ + _ = 32›)
    | (intro)
    | (extract_lets)
    | (with_reducible apply Keeps.ite)
    | (with_reducible apply Keeps.foldl)
    | (with_reducible apply Keeps.foldlSnd)
    | (with_reducible apply Keeps.trans ?_ (arriveData_keeps _ _ _ _ ?_ ?_))
    | (with_reducible apply Keeps.step ?_ (cellLost_keeps _ _ _ _) ?_)
    | (with_reducible apply Keeps.step ?_ (ringLost_keeps _ _ _) ?_)
    | (with_reducible apply Keeps.step ?_ (crossed_keeps _ _ _ _) ?_)
    | (split)
    | (dsimp only)
    | (dsimp +zetaDelta only)

theorem execReservedPacketType_keeps (_x _y : Nat) (h : Head) (type : Nat) (s : State) {t : State} (h : execReservedPacketType _x _y h type s = .next t) : Keeps [.events] s t := by
  unfold execReservedPacketType at h
  injection h with h
  subst h
  repeat' first
    | (with_reducible exact Keeps.refl _ _)
    | (with_reducible assumption)
    | (exact rfl)
    | (exact ‹_ + _ = 32›)
    | (intro)
    | (extract_lets)
    | (with_reducible apply Keeps.ite)
    | (with_reducible apply Keeps.foldl)
    | (with_reducible apply Keeps.foldlSnd)
    | (with_reducible apply Keeps.step ?_ (discardReserved_keeps _ _) ?_)
    | (split)
    | (dsimp only)
    | (dsimp +zetaDelta only)

theorem execReservedControlKind_keeps (_x _y : Nat) (h : Head) (kind : Nat) (s : State) {t : State} (h : execReservedControlKind _x _y h kind s = .next t) : Keeps [.events] s t := by
  unfold execReservedControlKind at h
  injection h with h
  subst h
  repeat' first
    | (with_reducible exact Keeps.refl _ _)
    | (with_reducible assumption)
    | (exact rfl)
    | (exact ‹_ + _ = 32›)
    | (intro)
    | (extract_lets)
    | (with_reducible apply Keeps.ite)
    | (with_reducible apply Keeps.foldl)
    | (with_reducible apply Keeps.foldlSnd)
    | (with_reducible apply Keeps.step ?_ (discardReserved_keeps _ _) ?_)
    | (split)
    | (dsimp only)
    | (dsimp +zetaDelta only)

theorem landRoute_keeps (k : Nat) (s : State) : Keeps [.mesh] s (landRoute k s) := by
  unfold landRoute
  repeat' first
    | (with_reducible exact Keeps.refl _ _)
    | (with_reducible assumption)
    | (exact rfl)
    | (exact ‹_ + _ = 32›)
    | (intro)
    | (extract_lets)
    | (with_reducible apply Keeps.ite)
    | (with_reducible apply Keeps.foldl)
    | (with_reducible apply Keeps.foldlSnd)
    | (with_reducible apply Keeps.step ?_ (leaveMesh_keeps _ _) ?_)
    | (split)
    | (dsimp only)
    | (dsimp +zetaDelta only)

theorem execRouteWrite_keeps (sender : Option Ctl) (x y : Nat) (entries : List (Dir × Dir)) (s : State) {t : State} (h : execRouteWrite sender x y entries s = .next t) : Keeps [.events, .tiles, .mesh] s t := by
  unfold execRouteWrite at h
  injection h with h
  subst h
  repeat' first
    | (with_reducible exact Keeps.refl _ _)
    | (with_reducible assumption)
    | (exact rfl)
    | (exact ‹_ + _ = 32›)
    | (intro)
    | (extract_lets)
    | (with_reducible apply Keeps.ite)
    | (with_reducible apply Keeps.foldl)
    | (with_reducible apply Keeps.foldlSnd)
    | (with_reducible apply Keeps.step ?_ (modTile_keeps _ _ _) ?_)
    | (with_reducible apply Keeps.step ?_ (landRoute_keeps _ _) ?_)
    | (with_reducible apply Keeps.step ?_ (latchEdges_keeps _) ?_)
    | (with_reducible apply Keeps.step ?_ (raise_keeps _ _) ?_)
    | (split)
    | (dsimp only)
    | (dsimp +zetaDelta only)

theorem unitLost_keeps (k reason : Nat) (u : LostUnit) (s : State) : Keeps [.power, .events, .parts, .tiles, .mesh, .crest, .fabric] s (unitLost k reason u s) := by
  unfold unitLost
  repeat' first
    | (with_reducible exact Keeps.refl _ _)
    | (with_reducible assumption)
    | (exact rfl)
    | (exact ‹_ + _ = 32›)
    | (intro)
    | (extract_lets)
    | (with_reducible apply Keeps.ite)
    | (with_reducible apply Keeps.foldl)
    | (with_reducible apply Keeps.foldlSnd)
    | (with_reducible apply Keeps.step ?_ (land_keeps _ _ _ _) ?_)
    | (with_reducible apply Keeps.step ?_ (sendNotice_keeps _ _ _ _ _ _ _) ?_)
    | (with_reducible apply Keeps.step ?_ (abortRun_keeps _ _ _) ?_)
    | (split)
    | (dsimp only)
    | (dsimp +zetaDelta only)

theorem execFlitError_keeps (x y : Nat) (u : Option LostUnit) (s : State) {t : State} (h : execFlitError x y u s = .next t) : Keeps [.fld, .power, .events, .parts, .tiles, .mem, .ecc, .mesh, .crest, .fabric, .settings] s t := by
  unfold execFlitError at h
  injection h with h
  subst h
  repeat' first
    | (with_reducible exact Keeps.refl _ _)
    | (with_reducible assumption)
    | (exact rfl)
    | (exact ‹_ + _ = 32›)
    | (intro)
    | (extract_lets)
    | (with_reducible apply Keeps.ite)
    | (with_reducible apply Keeps.foldl)
    | (with_reducible apply Keeps.foldlSnd)
    | (with_reducible apply Keeps.step ?_ (countCorrected_keeps _ _) ?_)
    | (with_reducible apply Keeps.step ?_ (noteUncorrected_keeps _ _) ?_)
    | (with_reducible apply Keeps.step ?_ (unitLost_keeps _ _ _ _) ?_)
    | (with_reducible apply Keeps.step ?_ (raise_keeps _ _) ?_)
    | (split)
    | (dsimp only)
    | (dsimp +zetaDelta only)

theorem closeAround_keeps (k : Nat) (s : State) : Keeps [.power, .events, .parts, .tiles, .mesh, .crest, .fabric] s (closeAround k s) := by
  unfold closeAround
  repeat' first
    | (with_reducible exact Keeps.refl _ _)
    | (with_reducible assumption)
    | (exact rfl)
    | (exact ‹_ + _ = 32›)
    | (intro)
    | (extract_lets)
    | (with_reducible apply Keeps.ite)
    | (with_reducible apply Keeps.foldl)
    | (with_reducible apply Keeps.foldlSnd)
    | (with_reducible apply Keeps.step ?_ (abortRun_keeps _ _ _) ?_)
    | (split)
    | (dsimp only)
    | (dsimp +zetaDelta only)

theorem execRouterFault_keeps (x y : Nat) (held : List LostUnit) (s : State) {t : State} (h : execRouterFault x y held s = .next t) : Keeps [.power, .events, .parts, .tiles, .mem, .ecc, .mesh, .crest, .fabric, .settings] s t := by
  unfold execRouterFault at h
  injection h with h
  subst h
  repeat' first
    | (with_reducible exact Keeps.refl _ _)
    | (with_reducible assumption)
    | (exact rfl)
    | (exact ‹_ + _ = 32›)
    | (intro)
    | (extract_lets)
    | (with_reducible apply Keeps.ite)
    | (with_reducible apply Keeps.foldl)
    | (with_reducible apply Keeps.foldlSnd)
    | (with_reducible apply Keeps.step ?_ (raise_keeps _ _) ?_)
    | (with_reducible apply Keeps.step ?_ (modTile_keeps _ _ _) ?_)
    | (with_reducible apply Keeps.step ?_ (retire_keeps _ _) ?_)
    | (with_reducible apply Keeps.step ?_ (closeAround_keeps _ _) ?_)
    | (with_reducible apply Keeps.step ?_ (unitLost_keeps _ _ _ _) ?_)
    | (split)
    | (dsimp only)
    | (dsimp +zetaDelta only)

theorem execRetirement_keeps (x y : Nat) (s : State) {t : State} (h : execRetirement x y s = .next t) : Keeps [.power, .events, .parts, .tiles, .mem, .ecc, .mesh, .fabric, .settings] s t := by
  unfold execRetirement at h
  injection h with h
  subst h
  repeat' first
    | (with_reducible exact Keeps.refl _ _)
    | (with_reducible assumption)
    | (exact rfl)
    | (exact ‹_ + _ = 32›)
    | (intro)
    | (extract_lets)
    | (with_reducible apply Keeps.ite)
    | (with_reducible apply Keeps.foldl)
    | (with_reducible apply Keeps.foldlSnd)
    | (with_reducible apply Keeps.step ?_ (retireNow_keeps _ _) ?_)
    | (split)
    | (dsimp only)
    | (dsimp +zetaDelta only)

end Sys2Proof.Machine
end

