-- ==== Sys2Proof/Laws/Keeps/Tick.lean ====
section
/-! SUPPORT. What the operations of Machine/Tick.lean may write, and that they keep the invariant. -/

namespace Sys2Proof.Machine

open Sys2Proof

set_option linter.unusedTactic false
set_option linter.unreachableTactic false

theorem tick_keeps (s : State) : Keeps [.time, .clk, .fld, .power, .ledger, .cope, .drag, .lease, .events, .sec, .parts, .tiles, .mem, .ecc, .mesh, .crest, .fabric, .settings, .pilot, .test, .regs] s (tick s) := by
  unfold tick
  repeat' first
    | (with_reducible exact Keeps.refl _ _)
    | (with_reducible assumption)
    | (exact rfl)
    | (exact ‹_ + _ = 32›)
    | (intro)
    | (extract_lets)
    | (with_reducible apply Keeps.ite)
    | (with_reducible apply Keeps.foldl)
    | (with_reducible apply Keeps.foldlSnd)
    | (with_reducible apply Keeps.step ?_ (serveMailbox_keeps _) ?_)
    | (with_reducible apply Keeps.step ?_ (addCycles_keeps _ _) ?_)
    | (with_reducible apply Keeps.step ?_ (hangCheck_keeps _ _) ?_)
    | (with_reducible apply Keeps.step ?_ (castAgain_keeps _) ?_)
    | (with_reducible apply Keeps.step ?_ (meshCycle_keeps _) ?_)
    | (with_reducible apply Keeps.step ?_ (mcServeAll_keeps _) ?_)
    | (split)
    | (dsimp only)
    | (dsimp +zetaDelta only)

end Sys2Proof.Machine
end

