-- ==== Sys2Proof/Laws/Mesh.lean ====
section
/-! SUPPORT. What the crossing of the mesh does before a message acts: activity is counted and the message leaves the mesh. -/

namespace Sys2Proof.Machine

open Sys2Proof

-- One proof at a time, so that few threads hold memory.
set_option Elab.async false

/-- What a field's power state holds beside its activity counts. -/
def FieldPwr.still (f : FieldPwr) : FieldPwr := { f with activity := [] }

/-- A message has left the mesh, its activity is counted, and nothing else has changed (R227, R320, R321). -/
structure Crossed (s u : State) : Prop where
  only : Only [.fld, .power, .mesh] s u
  fld : ∀ f, (getFld u f).still = (getFld s f).still
  power : ∃ m, u.power = { s.power with ringActivity := m }
  mesh : ∃ l m, u.mesh = { s.mesh with flight := l, transit := m }

theorem Crossed.refl (s : State) : Crossed s s := ⟨(Keeps.refl _ s).only, fun _ => rfl, ⟨_, rfl⟩, ⟨_, _, rfl⟩⟩

theorem Crossed.trans {s t u : State} (a : Crossed s t) (b : Crossed t u) : Crossed s u := by
  obtain ⟨a1, a2, ⟨m, a3⟩, ⟨l, n, a4⟩⟩ := a
  obtain ⟨b1, b2, ⟨m', b3⟩, ⟨l', n', b4⟩⟩ := b
  exact ⟨a1.trans b1, fun f => (b2 f).trans (a2 f), ⟨m', by rw [b3, a3]⟩, ⟨l', n', by rw [b4, a4]⟩⟩

theorem crossed_ringCount (a n : Nat) (s : State) : Crossed s (ringCount a n s) :=
  ⟨(ringCount_keeps a n s).only.mono (by decide), fun _ => rfl, ⟨_, rfl⟩, ⟨_, _, rfl⟩⟩

theorem crossed_leaveMesh (p : MeshMsg → Bool) (s : State) : Crossed s (leaveMesh p s) := by
  refine ⟨(leaveMesh_keeps p s).only.mono (by decide), fun f => by simp [getFld], ⟨s.power.ringActivity, by simp⟩, ?_⟩
  unfold leaveMesh
  split
  · exact ⟨_, _, rfl⟩
  · exact ⟨_, _, rfl⟩

theorem crossed_land (h : Head) (c : Bool) (k : Nat) (s : State) : Crossed s (land h c k s) := crossed_leaveMesh _ s

theorem crossed_countActivity (f a c n : Nat) (s : State) : Crossed s (countActivity f a c n s) := by
  refine ⟨(countActivity_keeps f a c n s).only.mono (by decide), fun x => ?_, ⟨s.power.ringActivity, ?_⟩, ⟨s.mesh.flight, s.mesh.transit, ?_⟩⟩ <;>
    unfold countActivity <;> split <;> try rfl
  rw [getFld_modFld]
  split
  · rename_i h
    subst h
    rfl
  · rfl

theorem crossed_foldl {α : Type} (g : State → α → State) (hg : ∀ s a, Crossed s (g s a)) (l : List α) (s : State) :
    Crossed s (l.foldl g s) := by
  induction l generalizing s with
  | nil => exact Crossed.refl s
  | cons a l ih => exact (hg s a).trans (ih _)

theorem crossed_noteHops (m : MeshMsg) (s : State) : Crossed s (noteHops m s) := by
  unfold noteHops
  dsimp only
  refine Crossed.trans (crossed_foldl _ (fun s a => ?_) _ _) (crossed_foldl _ (fun s a => crossed_countActivity ..) _ _)
  split
  · split
    · exact crossed_countActivity ..
    · exact Crossed.trans (crossed_countActivity ..) (crossed_countActivity ..)
  · exact crossed_countActivity ..

theorem crossed_crossed (h : Head) (c : Bool) (k : Nat) (s : State) : Crossed s (crossed h c k s) := by
  unfold crossed
  split
  · exact Crossed.refl s
  · refine Crossed.trans (t := if !c && !dstIsTile h then ringCount (domainAccount s h.domain) 1 s else s) ?_
      (Crossed.trans (crossed_land ..) (crossed_noteHops ..))
    split
    · exact crossed_ringCount ..
    · exact Crossed.refl s

theorem Crossed.owner {s u : State} (h : Crossed s u) (f : Nat) : (getFld u f).owner = (getFld s f).owner :=
  (congrArg FieldPwr.owner (h.fld f) : (getFld u f).still.owner = (getFld s f).still.owner)

theorem Crossed.holder {s u : State} (h : Crossed s u) (f : Nat) : Machine.holder u f = Machine.holder s f := by
  unfold Machine.holder
  rw [h.owner]

theorem Crossed.parts {s u : State} (h : Crossed s u) : u.parts = s.parts := h.only .parts (by decide)

theorem Crossed.tiles {s u : State} (h : Crossed s u) : u.tiles = s.tiles := h.only .tiles (by decide)

theorem Crossed.siteHolder {s u : State} (h : Crossed s u) (k : Nat) : Machine.siteHolder u k = Machine.siteHolder s k := h.holder _

theorem Crossed.siteState {s u : State} (h : Crossed s u) (k : Nat) : Machine.siteState u k = Machine.siteState s k := by
  obtain ⟨l, m, e⟩ := h.mesh
  unfold Machine.siteState
  rw [e, h.only .ident (by decide)]

theorem Crossed.siteWorks {s u : State} (h : Crossed s u) (k : Nat) : Machine.siteWorks u k = Machine.siteWorks s k := by
  unfold Machine.siteWorks
  rw [h.siteState]

theorem Crossed.siteDomain {s u : State} (h : Crossed s u) (k : Nat) : Machine.siteDomain u k = Machine.siteDomain s k := by
  unfold Machine.siteDomain getPart
  rw [h.siteHolder, h.parts]

theorem Crossed.delivers {s u : State} (h : Crossed s u) (m : Head) : Machine.delivers u m = Machine.delivers s m := by
  unfold Machine.delivers
  rw [h.siteWorks, h.siteDomain]

/-- A control message that is delivered acts on a state that the mesh has crossed. -/
theorem arriveCtl_taken {h : Head} {s : State} (kind : Nat) (act : State → State) (hd : h.dst.x = ringXY ∨ delivers s h = true) :
    arriveCtl h kind act s = act (crossed h true kind s) := by
  unfold arriveCtl
  dsimp only
  rw [(crossed_crossed h true kind s).delivers, if_pos (by simpa using hd)]

/-- A data packet that is delivered acts on a state that the mesh has crossed. -/
theorem arriveData_taken {h : Head} {s : State} (kind : Nat) (act : State → State) (hd : delivers s h = true) :
    arriveData h kind act s = act (crossed h false kind s) := by
  unfold arriveData
  dsimp only
  rw [(crossed_crossed h false kind s).delivers, if_pos hd]

/-- A control message that is not delivered does nothing but write its event. -/
theorem arriveCtl_refused {h : Head} {s : State} (kind : Nat) (act : State → State) (hx : h.dst.x ≠ ringXY)
    (hd : delivers s h = false) :
    arriveCtl h kind act s = raise (refuseEvent (crossed h true kind s) h) (crossed h true kind s) := by
  unfold arriveCtl
  dsimp only
  rw [(crossed_crossed h true kind s).delivers, if_neg (by simp [hx, hd])]

/-- A data packet that is not delivered does nothing but write its event. -/
theorem arriveData_refused {h : Head} {s : State} (kind : Nat) (act : State → State) (hd : delivers s h = false) :
    arriveData h kind act s = raise (refuseEvent (crossed h false kind s) h) (crossed h false kind s) := by
  unfold arriveData
  dsimp only
  rw [(crossed_crossed h false kind s).delivers, if_neg (by simp [hd])]

end Sys2Proof.Machine
end

