-- ==== Sys2Proof/Laws/PerInstr.lean ====
section
/-! SUPPORT. What is said of every command as syntax, one lemma for each constructor of Instr: no row of the spec's
table of operations gives bits, so no word spells the command. -/

namespace Sys2Proof.Laws.Unspelled

-- One proof at a time, so that few threads hold memory.
set_option Elab.async false

/-- No word of any length spells the command. -/
def Statement (i : Instr) : Prop := ∀ nbits w : Nat, decodeTableWord nbits w ≠ some i

/-- It holds of every command, since no word spells any. -/
theorem statement_of_no_bits (i : Instr) : Statement i := by
  intro nbits w h
  simp [decodeTableWord] at h

theorem token (h : Head) (rows cols : Nat) :
    Statement (.token h rows cols) :=
  statement_of_no_bits _

theorem tuple (h : Head) (words : List Word32) :
    Statement (.tuple h words) :=
  statement_of_no_bits _

theorem credit (h : Head) :
    Statement (.credit h) :=
  statement_of_no_bits _

theorem actorFire (c : CellRef) :
    Statement (.actorFire c) :=
  statement_of_no_bits _

theorem bufferRelease (c : CellRef) :
    Statement (.bufferRelease c) :=
  statement_of_no_bits _

theorem drainComplete (c : CellRef) :
    Statement (.drainComplete c) :=
  statement_of_no_bits _

theorem generatorTransfer (x y g : Nat) :
    Statement (.generatorTransfer x y g) :=
  statement_of_no_bits _

theorem halo (h : Head) (part : HaloPart) (data : List Byte) :
    Statement (.halo h part data) :=
  statement_of_no_bits _

theorem stream (h : Head) (data : List Byte) :
    Statement (.stream h data) :=
  statement_of_no_bits _

theorem eccWriteBack (x y addr : Nat) :
    Statement (.eccWriteBack x y addr) :=
  statement_of_no_bits _

theorem queueSample (part : Nat) :
    Statement (.queueSample part) :=
  statement_of_no_bits _

theorem aggregateTrigger (via : Via) (value : Nat) :
    Statement (.aggregateTrigger via value) :=
  statement_of_no_bits _

theorem aggregateComplete :
    Statement (.aggregateComplete) :=
  statement_of_no_bits _

theorem jobOpen (p : Pkt) (h : Hdr) (group : BitVec 32) (notify : Nat) :
    Statement (.jobOpen p h group notify) :=
  statement_of_no_bits _

theorem sectionCommit (p : Pkt) (h : Hdr) (addr : Word64) (len : Nat) :
    Statement (.sectionCommit p h addr len) :=
  statement_of_no_bits _

theorem commitComplete (part : Nat) :
    Statement (.commitComplete part) :=
  statement_of_no_bits _

theorem sectionRelease (p : Pkt) (h : Hdr) (sec : Nat) :
    Statement (.sectionRelease p h sec) :=
  statement_of_no_bits _

theorem sectionEnqueue (p : Pkt) (h : Hdr) (sec prio : Nat) (guard : Guard) (preds : List Nat) :
    Statement (.sectionEnqueue p h sec prio guard preds) :=
  statement_of_no_bits _

theorem sectionCancel (p : Pkt) (h : Hdr) (run : Nat) :
    Statement (.sectionCancel p h run) :=
  statement_of_no_bits _

theorem jobStart (p : Pkt) (h : Hdr) :
    Statement (.jobStart p h) :=
  statement_of_no_bits _

theorem jobStop (p : Pkt) (h : Hdr) :
    Statement (.jobStop p h) :=
  statement_of_no_bits _

theorem jobAbort (p : Pkt) (h : Hdr) :
    Statement (.jobAbort p h) :=
  statement_of_no_bits _

theorem jobClose (p : Pkt) (h : Hdr) :
    Statement (.jobClose p h) :=
  statement_of_no_bits _

theorem runStatus (p : Pkt) (h : Hdr) (run : Nat) :
    Statement (.runStatus p h run) :=
  statement_of_no_bits _

theorem cadenceAdmit (p : Pkt) (h : Hdr) (r : CadenceReq) :
    Statement (.cadenceAdmit p h r) :=
  statement_of_no_bits _

theorem cadenceStop (p : Pkt) (h : Hdr) :
    Statement (.cadenceStop p h) :=
  statement_of_no_bits _

theorem cadenceWindow (part : Nat) :
    Statement (.cadenceWindow part) :=
  statement_of_no_bits _

theorem sectionStart (x y : Nat) :
    Statement (.sectionStart x y) :=
  statement_of_no_bits _

theorem sectionDone (x y : Nat) :
    Statement (.sectionDone x y) :=
  statement_of_no_bits _

theorem sectionAbort (x y : Nat) :
    Statement (.sectionAbort x y) :=
  statement_of_no_bits _

theorem starvationLimitReached (part run : Nat) :
    Statement (.starvationLimitReached part run) :=
  statement_of_no_bits _

theorem runOverrun (part : Nat) :
    Statement (.runOverrun part) :=
  statement_of_no_bits _

theorem roleChange (via : Via) (part role : Nat) :
    Statement (.roleChange via part role) :=
  statement_of_no_bits _

theorem memReq (h : Head) (m : MemReq) :
    Statement (.memReq h m) :=
  statement_of_no_bits _

theorem memReply (via : RepVia) (m : MemRep) :
    Statement (.memReply via m) :=
  statement_of_no_bits _

theorem mcastRect (h : Head) (x1 y1 inner : Nat) (data : List Byte) :
    Statement (.mcastRect h x1 y1 inner data) :=
  statement_of_no_bits _

theorem mcastMask (h : Head) (mask : Word64) (inner : Nat) (data : List Byte) :
    Statement (.mcastMask h mask inner data) :=
  statement_of_no_bits _

theorem mcastAck (h : Head) (delivered refused : Nat) :
    Statement (.mcastAck h delivered refused) :=
  statement_of_no_bits _

theorem mcastStall (x y : Nat) (stalled : CellRef) (domain : Nat) :
    Statement (.mcastStall x y stalled domain) :=
  statement_of_no_bits _

theorem combine (h : Head) (pre : CombinePrefix) (elems : List Word32) :
    Statement (.combine h pre elems) :=
  statement_of_no_bits _

theorem failNotice (h : Head) (reason lostType reqId : Nat) :
    Statement (.failNotice h reason lostType reqId) :=
  statement_of_no_bits _

theorem reservedPacketType (x y : Nat) (h : Head) (type : Nat) :
    Statement (.reservedPacketType x y h type) :=
  statement_of_no_bits _

theorem mcastControl (h : Head) (x1 y1 inner : Nat) (words : List Word32) :
    Statement (.mcastControl h x1 y1 inner words) :=
  statement_of_no_bits _

theorem routeWrite (sender : Option Ctl) (x y : Nat) (entries : List (Dir × Dir)) :
    Statement (.routeWrite sender x y entries) :=
  statement_of_no_bits _

theorem reservedControlKind (x y : Nat) (h : Head) (kind : Nat) :
    Statement (.reservedControlKind x y h kind) :=
  statement_of_no_bits _

theorem flitError (x y : Nat) (u : Option LostUnit) :
    Statement (.flitError x y u) :=
  statement_of_no_bits _

theorem routerFault (x y : Nat) (held : List LostUnit) :
    Statement (.routerFault x y held) :=
  statement_of_no_bits _

theorem retireRequest (value : Word32) :
    Statement (.retireRequest value) :=
  statement_of_no_bits _

theorem retirement (x y : Nat) :
    Statement (.retirement x y) :=
  statement_of_no_bits _

theorem descriptor (h : Head) (w0 w1 w2 w3 : Word32) :
    Statement (.descriptor h w0 w1 w2 w3) :=
  statement_of_no_bits _

theorem ctrProduce (h : Head) (m : CtrMsg) (n : BitVec 32) :
    Statement (.ctrProduce h m n) :=
  statement_of_no_bits _

theorem ctrConsume (h : Head) (m : CtrMsg) (n : BitVec 32) :
    Statement (.ctrConsume h m n) :=
  statement_of_no_bits _

theorem ctrRead (h : Head) (m : CtrMsg) :
    Statement (.ctrRead h m) :=
  statement_of_no_bits _

theorem ctrBound (h : Head) (m : CtrMsg) (b : BitVec 16) :
    Statement (.ctrBound h m b) :=
  statement_of_no_bits _

theorem ctrInit (h : Head) (m : CtrMsg) :
    Statement (.ctrInit h m) :=
  statement_of_no_bits _

theorem ctrAck (h : Head) (m : CtrMsg) (status : Nat) :
    Statement (.ctrAck h m status) :=
  statement_of_no_bits _

theorem ctrReadReply (h : Head) (m : CtrMsg) (p c : Count48) :
    Statement (.ctrReadReply h m p c) :=
  statement_of_no_bits _

theorem watchRegister (h : Head) (m : WatchMsg) :
    Statement (.watchRegister h m) :=
  statement_of_no_bits _

theorem watchCancel (h : Head) (m : WatchMsg) :
    Statement (.watchCancel h m) :=
  statement_of_no_bits _

theorem watchNotify (h : Head) (m : WatchMsg) (status : Nat) :
    Statement (.watchNotify h m status) :=
  statement_of_no_bits _

theorem crestArrive (h : Head) (seq : Nat) (value : Word64) :
    Statement (.crestArrive h seq value) :=
  statement_of_no_bits _

theorem crestRelease (h : Head) (seq : Nat) (value : Word64) :
    Statement (.crestRelease h seq value) :=
  statement_of_no_bits _

theorem crestStill (h : Head) (seq : Nat) :
    Statement (.crestStill h seq) :=
  statement_of_no_bits _

theorem crestMoving (h : Head) (seq : Nat) :
    Statement (.crestMoving h seq) :=
  statement_of_no_bits _

theorem crestCollected (h : Head) (seq : Nat) :
    Statement (.crestCollected h seq) :=
  statement_of_no_bits _

theorem crestAbort (h : Head) (group : BitVec 32) :
    Statement (.crestAbort h group) :=
  statement_of_no_bits _

theorem hangTimerExpire (part : Nat) :
    Statement (.hangTimerExpire part) :=
  statement_of_no_bits _

theorem signalProduce (p : Pkt) (h : Hdr) (c : CtrRef) (n : BitVec 32) :
    Statement (.signalProduce p h c n) :=
  statement_of_no_bits _

theorem signalConsume (p : Pkt) (h : Hdr) (c : CtrRef) (n : BitVec 32) :
    Statement (.signalConsume p h c n) :=
  statement_of_no_bits _

theorem counterRead (p : Pkt) (h : Hdr) (c : CtrRef) :
    Statement (.counterRead p h c) :=
  statement_of_no_bits _

theorem watchSet (p : Pkt) (h : Hdr) (c : CtrRef) (count : Nat) (v : Count48) (id : BitVec 32) :
    Statement (.watchSet p h c count v id) :=
  statement_of_no_bits _

theorem hostWatchCancel (p : Pkt) (h : Hdr) (id : BitVec 32) :
    Statement (.hostWatchCancel p h id) :=
  statement_of_no_bits _

theorem counterBound (p : Pkt) (h : Hdr) (c : CtrRef) (b : BitVec 16) :
    Statement (.counterBound p h c b) :=
  statement_of_no_bits _

theorem counterInit (p : Pkt) (h : Hdr) (c : CtrRef) :
    Statement (.counterInit p h c) :=
  statement_of_no_bits _

theorem descriptorPost (p : Pkt) (h : Hdr) (x y : Nat) (w0 w1 w2 w3 : Word32) :
    Statement (.descriptorPost p h x y w0 w1 w2 w3) :=
  statement_of_no_bits _

theorem barrier (p : Pkt) (h : Hdr) (arrival release : Nat) (v : Count48) :
    Statement (.barrier p h arrival release v) :=
  statement_of_no_bits _

theorem broadcast (p : Pkt) (h : Hdr) (ctr : Nat) (n : BitVec 32) :
    Statement (.broadcast p h ctr n) :=
  statement_of_no_bits _

theorem snapshot (p : Pkt) (h : Hdr) (addr : Nat) :
    Statement (.snapshot p h addr) :=
  statement_of_no_bits _

theorem pmdTrainingComplete (port : Nat) (trained : Bool) :
    Statement (.pmdTrainingComplete port trained) :=
  statement_of_no_bits _

theorem discovery (port : Nat) (d : Discovery) :
    Statement (.discovery port d) :=
  statement_of_no_bits _

theorem retrainInterval (port : Nat) :
    Statement (.retrainInterval port) :=
  statement_of_no_bits _

theorem linkStatusBlock (port : Nat) (nak : Bool) (ack : BitVec 16) (off : BitVec 4) :
    Statement (.linkStatusBlock port nak ack off) :=
  statement_of_no_bits _

theorem linkStatusSend (port : Nat) :
    Statement (.linkStatusSend port) :=
  statement_of_no_bits _

theorem replayTimeout (port : Nat) :
    Statement (.replayTimeout port) :=
  statement_of_no_bits _

theorem reservedUnit (u : ReservedUnit) :
    Statement (.reservedUnit u) :=
  statement_of_no_bits _

theorem transitPacket (port dst src domain : Nat) (seq : BitVec 16) (vc hops : Nat) (nonMin : Bool) (x : TransitRest) :
    Statement (.transitPacket port dst src domain seq vc hops nonMin x) :=
  statement_of_no_bits _

theorem packetSend (dst domain : Nat) :
    Statement (.packetSend dst domain) :=
  statement_of_no_bits _

theorem e2eAck (p : Pkt) (base : BitVec 16) (delivered refused : BitVec 32) :
    Statement (.e2eAck p base delivered refused) :=
  statement_of_no_bits _

theorem retransmitTimeout (dst domain seq : Nat) :
    Statement (.retransmitTimeout dst domain seq) :=
  statement_of_no_bits _

theorem skipQuery (p : Pkt) (seq : BitVec 16) :
    Statement (.skipQuery p seq) :=
  statement_of_no_bits _

theorem skipAnswer (p : Pkt) (seq : BitVec 16) (status : Nat) (clear : Bool) :
    Statement (.skipAnswer p seq status clear) :=
  statement_of_no_bits _

theorem escapeTimeout (port : Nat) (hopSeq : BitVec 16) :
    Statement (.escapeTimeout port hopSeq) :=
  statement_of_no_bits _

theorem crestRelay (p : Pkt) (w2 w3 w4 : Word32) (origin : Nat) :
    Statement (.crestRelay p w2 w3 w4 origin) :=
  statement_of_no_bits _

theorem linkState (p : Pkt) (port state peerNode peerPort : Nat) :
    Statement (.linkState p port state peerNode peerPort) :=
  statement_of_no_bits _

theorem portQuery (p : Pkt) (h : Hdr) (port : Nat) :
    Statement (.portQuery p h port) :=
  statement_of_no_bits _

theorem portControl (p : Pkt) (h : Hdr) (port action : Nat) (permit : List Byte) :
    Statement (.portControl p h port action permit) :=
  statement_of_no_bits _

theorem echoCmd (p : Pkt) (h : Hdr) (data : List Byte) :
    Statement (.echoCmd p h data) :=
  statement_of_no_bits _

theorem memLoad (p : Pkt) (m : MemCmd) :
    Statement (.memLoad p m) :=
  statement_of_no_bits _

theorem memStore (p : Pkt) (m : MemCmd) (data : List Byte) :
    Statement (.memStore p m data) :=
  statement_of_no_bits _

theorem atomicAdd (p : Pkt) (m : MemCmd) :
    Statement (.atomicAdd p m) :=
  statement_of_no_bits _

theorem atomicMax (p : Pkt) (m : MemCmd) :
    Statement (.atomicMax p m) :=
  statement_of_no_bits _

theorem atomicCas (p : Pkt) (m : MemCmd) :
    Statement (.atomicCas p m) :=
  statement_of_no_bits _

theorem bulkCopy (p : Pkt) (m : MemCmd) :
    Statement (.bulkCopy p m) :=
  statement_of_no_bits _

theorem translationFill (cache : Nat) (fill : SpanFill) :
    Statement (.translationFill cache fill) :=
  statement_of_no_bits _

theorem ageTick :
    Statement .ageTick :=
  statement_of_no_bits _

theorem invalidationComplete :
    Statement (.invalidationComplete) :=
  statement_of_no_bits _

theorem referenceLock :
    Statement (.referenceLock) :=
  statement_of_no_bits _

theorem referenceLoss :
    Statement (.referenceLoss) :=
  statement_of_no_bits _

theorem holdoverTimeout :
    Statement (.holdoverTimeout) :=
  statement_of_no_bits _

theorem timeFrame (bytes : List Byte) :
    Statement (.timeFrame bytes) :=
  statement_of_no_bits _

theorem epochMark :
    Statement (.epochMark) :=
  statement_of_no_bits _

theorem fllWindow (field count : Nat) :
    Statement (.fllWindow field count) :=
  statement_of_no_bits _

theorem settleDelayExpire (field : Nat) :
    Statement (.settleDelayExpire field) :=
  statement_of_no_bits _

theorem pllLock (pll : Nat) :
    Statement (.pllLock pll) :=
  statement_of_no_bits _

theorem pllLoss (pll : Nat) :
    Statement (.pllLoss pll) :=
  statement_of_no_bits _

theorem sourceSwitch (via : Via) (sub value : Nat) :
    Statement (.sourceSwitch via sub value) :=
  statement_of_no_bits _

theorem pllMultiplierWrite (via : Via) (sub value : Nat) :
    Statement (.pllMultiplierWrite via sub value) :=
  statement_of_no_bits _

theorem fieldClockTargetWrite (via : Via) (field value : Nat) :
    Statement (.fieldClockTargetWrite via field value) :=
  statement_of_no_bits _

theorem ppsEdge (pin : Nat) :
    Statement (.ppsEdge pin) :=
  statement_of_no_bits _

theorem hvBandChange (volts : Nat) :
    Statement (.hvBandChange volts) :=
  statement_of_no_bits _

theorem hvOutOfRange (volts : Nat) :
    Statement (.hvOutOfRange volts) :=
  statement_of_no_bits _

theorem hvPresent :
    Statement (.hvPresent) :=
  statement_of_no_bits _

theorem converterFault (index : Nat) :
    Statement (.converterFault index) :=
  statement_of_no_bits _

theorem busUndervoltage (millivolts : Nat) :
    Statement (.busUndervoltage millivolts) :=
  statement_of_no_bits _

theorem regulatorReport (field millivolts milliamps watts : Nat) (energy : Word64) :
    Statement (.regulatorReport field millivolts milliamps watts energy) :=
  statement_of_no_bits _

theorem fieldSupplyFault (field : Nat) :
    Statement (.fieldSupplyFault field) :=
  statement_of_no_bits _

theorem attributionInterval (average ring standby : Nat) :
    Statement (.attributionInterval average ring standby) :=
  statement_of_no_bits _

theorem clampEnd :
    Statement (.clampEnd) :=
  statement_of_no_bits _

theorem sharePublish (sample : Nat) :
    Statement (.sharePublish sample) :=
  statement_of_no_bits _

theorem currentLimit :
    Statement (.currentLimit) :=
  statement_of_no_bits _

theorem currentLimitTimeout :
    Statement (.currentLimitTimeout) :=
  statement_of_no_bits _

theorem sensorSample (field : Nat) (readings : List Int) :
    Statement (.sensorSample field readings) :=
  statement_of_no_bits _

theorem thermalPeriod :
    Statement (.thermalPeriod) :=
  statement_of_no_bits _

theorem coolantSample (inlet outlet : Int) (flow : Nat) :
    Statement (.coolantSample inlet outlet flow) :=
  statement_of_no_bits _

theorem coolingFault :
    Statement (.coolingFault) :=
  statement_of_no_bits _

theorem reservationWrite (via : Via) (weight : Bool) (part value : Nat) :
    Statement (.reservationWrite via weight part value) :=
  statement_of_no_bits _

theorem mirrorFrame (c : Ctl) (bytes : List Byte) :
    Statement (.mirrorFrame c bytes) :=
  statement_of_no_bits _

theorem mirrorLinkLoss (c : Ctl) :
    Statement (.mirrorLinkLoss c) :=
  statement_of_no_bits _

theorem ledgerClose :
    Statement (.ledgerClose) :=
  statement_of_no_bits _

theorem metrologicalPulse :
    Statement (.metrologicalPulse) :=
  statement_of_no_bits _

theorem diagnosticPulse :
    Statement (.diagnosticPulse) :=
  statement_of_no_bits _

theorem ledCheckWindow (drive optical : Bool) :
    Statement (.ledCheckWindow drive optical) :=
  statement_of_no_bits _

theorem programmingMode (sealPressed password : Bool) :
    Statement (.programmingMode sealPressed password) :=
  statement_of_no_bits _

theorem logClear :
    Statement (.logClear) :=
  statement_of_no_bits _

theorem dataReadout :
    Statement (.dataReadout) :=
  statement_of_no_bits _

theorem caseOpened :
    Statement (.caseOpened) :=
  statement_of_no_bits _

theorem partitionCreate (value : Word32) :
    Statement (.partitionCreate value) :=
  statement_of_no_bits _

theorem partitionDelete (part : Nat) :
    Statement (.partitionDelete part) :=
  statement_of_no_bits _

theorem scrubComplete (part : Nat) (failed : List Nat) :
    Statement (.scrubComplete part failed) :=
  statement_of_no_bits _

theorem spanSecretLoad (value : List Byte) :
    Statement (.spanSecretLoad value) :=
  statement_of_no_bits _

theorem stageSlot (domain slot gen : Nat) :
    Statement (.stageSlot domain slot gen) :=
  statement_of_no_bits _

theorem loadSlot (domain slot : Nat) :
    Statement (.loadSlot domain slot) :=
  statement_of_no_bits _

theorem clearSlot (domain slot : Nat) :
    Statement (.clearSlot domain slot) :=
  statement_of_no_bits _

theorem clearSecret :
    Statement (.clearSecret) :=
  statement_of_no_bits _

theorem flowRestart (domain : Nat) :
    Statement (.flowRestart domain) :=
  statement_of_no_bits _

theorem permitSubmission (via : Via) (permit : List Byte) :
    Statement (.permitSubmission via permit) :=
  statement_of_no_bits _

theorem readSession (signer : Role) (seconds : Nat) :
    Statement (.readSession signer seconds) :=
  statement_of_no_bits _

theorem readSessionExpire :
    Statement (.readSessionExpire) :=
  statement_of_no_bits _

theorem controllerBoot (c : Ctl) :
    Statement (.controllerBoot c) :=
  statement_of_no_bits _

theorem imageTarget (via : Via) (value : Nat) :
    Statement (.imageTarget via value) :=
  statement_of_no_bits _

theorem imageChunk (via : Via) (bytes : List Byte) :
    Statement (.imageChunk via bytes) :=
  statement_of_no_bits _

theorem imageVerify :
    Statement (.imageVerify) :=
  statement_of_no_bits _

theorem startTrial (via : Via) (value : Nat) :
    Statement (.startTrial via value) :=
  statement_of_no_bits _

theorem confirmTrial (via : Via) (value : Nat) :
    Statement (.confirmTrial via value) :=
  statement_of_no_bits _

theorem trialTimeout :
    Statement (.trialTimeout) :=
  statement_of_no_bits _

theorem ethercatFrame (port : Nat) :
    Statement (.ethercatFrame port) :=
  statement_of_no_bits _

theorem ethercatLinkChange (port : Nat) (up : Bool) :
    Statement (.ethercatLinkChange port up) :=
  statement_of_no_bits _

theorem esmStateChange (state : Nat) :
    Statement (.esmStateChange state) :=
  statement_of_no_bits _

theorem sdoInformation (index : Nat) :
    Statement (.sdoInformation index) :=
  statement_of_no_bits _

theorem unsupportedMailboxRequest (coe : Bool) :
    Statement (.unsupportedMailboxRequest coe) :=
  statement_of_no_bits _

theorem registerWrite (index sub : Nat) (value : List Byte) :
    Statement (.registerWrite index sub value) :=
  statement_of_no_bits _

theorem leaseRenewal (c : Ctl) (epoch : BitVec 32) :
    Statement (.leaseRenewal c epoch) :=
  statement_of_no_bits _

theorem leaseExpiry :
    Statement (.leaseExpiry) :=
  statement_of_no_bits _

theorem readyReport (c : Ctl) (epoch : BitVec 32) :
    Statement (.readyReport c epoch) :=
  statement_of_no_bits _

theorem claimWindowExpire :
    Statement (.claimWindowExpire) :=
  statement_of_no_bits _

theorem passLease (via : Via) (value : Nat) :
    Statement (.passLease via value) :=
  statement_of_no_bits _

theorem eventRequest (r : EvReq) :
    Statement (.eventRequest r) :=
  statement_of_no_bits _

theorem eventSelect :
    Statement (.eventSelect) :=
  statement_of_no_bits _

theorem eventClaim :
    Statement (.eventClaim) :=
  statement_of_no_bits _

theorem eventRead (p : Pkt) (h : Hdr) (first : BitVec 32) (wanted : Nat) :
    Statement (.eventRead p h first wanted) :=
  statement_of_no_bits _

theorem eventAck (p : Pkt) (h : Hdr) (seq : BitVec 32) :
    Statement (.eventAck p h seq) :=
  statement_of_no_bits _

theorem eventStatus (p : Pkt) (h : Hdr) :
    Statement (.eventStatus p h) :=
  statement_of_no_bits _

theorem objectRead (p : Pkt) (h : Hdr) (index sub : Nat) :
    Statement (.objectRead p h index sub) :=
  statement_of_no_bits _

theorem objectWrite (p : Pkt) (h : Hdr) (index sub : Nat) (value : List Byte) :
    Statement (.objectWrite p h index sub value) :=
  statement_of_no_bits _

theorem sleepRequest (via : Via) (value : Nat) :
    Statement (.sleepRequest via value) :=
  statement_of_no_bits _

theorem sleepComplete :
    Statement (.sleepComplete) :=
  statement_of_no_bits _

theorem wakeSource (sources : List Nat) :
    Statement (.wakeSource sources) :=
  statement_of_no_bits _

theorem wakeRequest (via : Via) (value : Nat) :
    Statement (.wakeRequest via value) :=
  statement_of_no_bits _

theorem alarmFire (n : Nat) :
    Statement (.alarmFire n) :=
  statement_of_no_bits _

theorem saveComplete (good : Bool) :
    Statement (.saveComplete good) :=
  statement_of_no_bits _

theorem powerUp :
    Statement (.powerUp) :=
  statement_of_no_bits _

theorem fieldGroupPower (group : Nat) :
    Statement (.fieldGroupPower group) :=
  statement_of_no_bits _

theorem powerUpStepOverdue :
    Statement (.powerUpStepOverdue) :=
  statement_of_no_bits _

theorem resetN :
    Statement (.resetN) :=
  statement_of_no_bits _

theorem standbyInputLoss :
    Statement (.standbyInputLoss) :=
  statement_of_no_bits _

theorem fieldResetRequest (field : Nat) :
    Statement (.fieldResetRequest field) :=
  statement_of_no_bits _

theorem fieldResetComplete (field : Nat) :
    Statement (.fieldResetComplete field) :=
  statement_of_no_bits _

theorem partitionResetRequest (via : Via) (part value : Nat) :
    Statement (.partitionResetRequest via part value) :=
  statement_of_no_bits _

theorem resolutionLimitExpire (part : Nat) :
    Statement (.resolutionLimitExpire part) :=
  statement_of_no_bits _

theorem waferResetRequest :
    Statement (.waferResetRequest) :=
  statement_of_no_bits _

theorem dischargeHoldExpire :
    Statement (.dischargeHoldExpire) :=
  statement_of_no_bits _

theorem selfTestRequest (via : Via) (value : Word32) :
    Statement (.selfTestRequest via value) :=
  statement_of_no_bits _

theorem serviceSelfTestRequest (value : Word32) :
    Statement (.serviceSelfTestRequest value) :=
  statement_of_no_bits _

theorem selfTestComplete (failures : Nat) (first : CellRef) :
    Statement (.selfTestComplete failures first) :=
  statement_of_no_bits _

theorem selfTestLimitExpire :
    Statement (.selfTestLimitExpire) :=
  statement_of_no_bits _

theorem sidebandFunctionWrite (via : Via) (pin value : Nat) :
    Statement (.sidebandFunctionWrite via pin value) :=
  statement_of_no_bits _

theorem sidebandInputChange (pin : Nat) (level : Bool) :
    Statement (.sidebandInputChange pin level) :=
  statement_of_no_bits _

theorem syncPulseEnd (pin : Nat) :
    Statement (.syncPulseEnd pin) :=
  statement_of_no_bits _

theorem holdoverTick :
    Statement (.holdoverTick) :=
  statement_of_no_bits _

theorem supplyGood (field : Nat) :
    Statement (.supplyGood field) :=
  statement_of_no_bits _

theorem overlayTrainingComplete (failed : SiteFailures) :
    Statement (.overlayTrainingComplete failed) :=
  statement_of_no_bits _

theorem busRegulationReached :
    Statement (.busRegulationReached) :=
  statement_of_no_bits _

theorem resetNRelease :
    Statement (.resetNRelease) :=
  statement_of_no_bits _

theorem assayParameterChange (c : AssayChange) :
    Statement (.assayParameterChange c) :=
  statement_of_no_bits _

theorem sealSwitchRelease :
    Statement (.sealSwitchRelease) :=
  statement_of_no_bits _

end Sys2Proof.Laws.Unspelled
end

