-- ==== Sys2Proof/Laws/Reads.lean ====
section
/-! SUPPORT. The reads that an update of another part of the state leaves: one lemma for each read and each update. -/

namespace Sys2Proof.Machine

-- One proof at a time, so that few threads hold memory.
set_option Elab.async false

theorem effectiveTarget_congr {s t : State} (hr : t.regs = s.regs) (hf : t.fld = s.fld) (x : Nat) :
    effectiveTarget t x = effectiveTarget s x := by
  have e1 : getFld t x = getFld s x := by unfold getFld; rw [hf]
  have e2 : failedCount t x = failedCount s x := by unfold failedCount; rw [e1]
  have e3 : fieldSteps t x = fieldSteps s x := by unfold fieldSteps; rw [e1]
  have e4 : ∀ i j, setting t i j = setting s i j := fun i j => by unfold setting reg; rw [hr]
  unfold effectiveTarget
  rw [e2, e3, e4]

@[simp] theorem getFld_setReg (key v : Nat) (gx : Nat) (s : State) : getFld (setReg key v s) gx = getFld s gx := rfl

@[simp] theorem holder_setReg (key v : Nat) (gx : Nat) (s : State) : holder (setReg key v s) gx = holder s gx := rfl

@[simp] theorem getClk_setReg (key v : Nat) (gx : Nat) (s : State) : getClk (setReg key v s) gx = getClk s gx := rfl

@[simp] theorem getTile_setReg (key v : Nat) (gx : Nat) (s : State) : getTile (setReg key v s) gx = getTile s gx := rfl

@[simp] theorem getPart_setReg (key v : Nat) (gx : Nat) (s : State) : getPart (setReg key v s) gx = getPart s gx := rfl

@[simp] theorem getPort_setReg (key v : Nat) (gx : Nat) (s : State) : getPort (setReg key v s) gx = getPort s gx := rfl

@[simp] theorem getTx_setReg (key v : Nat) (gx gy : Nat) (s : State) : getTx (setReg key v s) gx gy = getTx s gx gy := rfl

@[simp] theorem getRx_setReg (key v : Nat) (gx gy : Nat) (s : State) : getRx (setReg key v s) gx gy = getRx s gx gy := rfl

@[simp] theorem getPin_setReg (key v : Nat) (gx : Nat) (s : State) : getPin (setReg key v s) gx = getPin s gx := rfl

@[simp] theorem getSlots_setReg (key v : Nat) (gx : Nat) (s : State) : getSlots (setReg key v s) gx = getSlots s gx := rfl

@[simp] theorem now_setReg (key v : Nat) (s : State) : now (setReg key v s) = now s := rfl

@[simp] theorem activeCtl_setReg (key v : Nat) (s : State) : activeCtl (setReg key v s) = activeCtl s := rfl

@[simp] theorem siteState_setReg (key v : Nat) (gx : Nat) (s : State) : siteState (setReg key v s) gx = siteState s gx := rfl

@[simp] theorem siteWorks_setReg (key v : Nat) (gx : Nat) (s : State) : siteWorks (setReg key v s) gx = siteWorks s gx := rfl

@[simp] theorem hasSendKey_setReg (key v : Nat) (gx : Nat) (s : State) : hasSendKey (setReg key v s) gx = hasSendKey s gx := rfl

@[simp] theorem runningK_setReg (key v : Nat) (s : State) : runningK (setReg key v s) = runningK s := rfl

@[simp] theorem partOfDomain_setReg (key v : Nat) (gx : Nat) (s : State) : partOfDomain (setReg key v s) gx = partOfDomain s gx := rfl

@[simp] theorem portUp_setReg (key v : Nat) (gx : Nat) (s : State) : portUp (setReg key v s) gx = portUp s gx := rfl

@[simp] theorem reg_modFld (f : Nat) (g : FieldPwr → FieldPwr) (gk gd : Nat) (s : State) : reg (modFld f g s) gk gd = reg s gk gd := rfl

@[simp] theorem setting_modFld (f : Nat) (g : FieldPwr → FieldPwr) (gi gs : Nat) (s : State) : setting (modFld f g s) gi gs = setting s gi gs := rfl

@[simp] theorem getClk_modFld (f : Nat) (g : FieldPwr → FieldPwr) (gx : Nat) (s : State) : getClk (modFld f g s) gx = getClk s gx := rfl

@[simp] theorem getTile_modFld (f : Nat) (g : FieldPwr → FieldPwr) (gx : Nat) (s : State) : getTile (modFld f g s) gx = getTile s gx := rfl

@[simp] theorem getPart_modFld (f : Nat) (g : FieldPwr → FieldPwr) (gx : Nat) (s : State) : getPart (modFld f g s) gx = getPart s gx := rfl

@[simp] theorem getPort_modFld (f : Nat) (g : FieldPwr → FieldPwr) (gx : Nat) (s : State) : getPort (modFld f g s) gx = getPort s gx := rfl

@[simp] theorem getTx_modFld (f : Nat) (g : FieldPwr → FieldPwr) (gx gy : Nat) (s : State) : getTx (modFld f g s) gx gy = getTx s gx gy := rfl

@[simp] theorem getRx_modFld (f : Nat) (g : FieldPwr → FieldPwr) (gx gy : Nat) (s : State) : getRx (modFld f g s) gx gy = getRx s gx gy := rfl

@[simp] theorem getPin_modFld (f : Nat) (g : FieldPwr → FieldPwr) (gx : Nat) (s : State) : getPin (modFld f g s) gx = getPin s gx := rfl

@[simp] theorem getSlots_modFld (f : Nat) (g : FieldPwr → FieldPwr) (gx : Nat) (s : State) : getSlots (modFld f g s) gx = getSlots s gx := rfl

@[simp] theorem now_modFld (f : Nat) (g : FieldPwr → FieldPwr) (s : State) : now (modFld f g s) = now s := rfl

@[simp] theorem activeCtl_modFld (f : Nat) (g : FieldPwr → FieldPwr) (s : State) : activeCtl (modFld f g s) = activeCtl s := rfl

@[simp] theorem nodeId_modFld (f : Nat) (g : FieldPwr → FieldPwr) (s : State) : nodeId (modFld f g s) = nodeId s := rfl

@[simp] theorem mgmtDomain_modFld (f : Nat) (g : FieldPwr → FieldPwr) (s : State) : mgmtDomain (modFld f g s) = mgmtDomain s := rfl

@[simp] theorem siteState_modFld (f : Nat) (g : FieldPwr → FieldPwr) (gx : Nat) (s : State) : siteState (modFld f g s) gx = siteState s gx := rfl

@[simp] theorem siteWorks_modFld (f : Nat) (g : FieldPwr → FieldPwr) (gx : Nat) (s : State) : siteWorks (modFld f g s) gx = siteWorks s gx := rfl

@[simp] theorem busSource_modFld (f : Nat) (g : FieldPwr → FieldPwr) (s : State) : busSource (modFld f g s) = busSource s := rfl

@[simp] theorem switchSource_modFld (f : Nat) (g : FieldPwr → FieldPwr) (s : State) : switchSource (modFld f g s) = switchSource s := rfl

@[simp] theorem hasSendKey_modFld (f : Nat) (g : FieldPwr → FieldPwr) (gx : Nat) (s : State) : hasSendKey (modFld f g s) gx = hasSendKey s gx := rfl

@[simp] theorem hostRoute_modFld (f : Nat) (g : FieldPwr → FieldPwr) (gx : Nat) (s : State) : hostRoute (modFld f g s) gx = hostRoute s gx := rfl

@[simp] theorem runningK_modFld (f : Nat) (g : FieldPwr → FieldPwr) (s : State) : runningK (modFld f g s) = runningK s := rfl

@[simp] theorem partOfDomain_modFld (f : Nat) (g : FieldPwr → FieldPwr) (gx : Nat) (s : State) : partOfDomain (modFld f g s) gx = partOfDomain s gx := rfl

@[simp] theorem portUp_modFld (f : Nat) (g : FieldPwr → FieldPwr) (gx : Nat) (s : State) : portUp (modFld f g s) gx = portUp s gx := rfl

@[simp] theorem reg_modClk (f : Nat) (g : FieldClk → FieldClk) (gk gd : Nat) (s : State) : reg (modClk f g s) gk gd = reg s gk gd := rfl

@[simp] theorem setting_modClk (f : Nat) (g : FieldClk → FieldClk) (gi gs : Nat) (s : State) : setting (modClk f g s) gi gs = setting s gi gs := rfl

@[simp] theorem getFld_modClk (f : Nat) (g : FieldClk → FieldClk) (gx : Nat) (s : State) : getFld (modClk f g s) gx = getFld s gx := rfl

@[simp] theorem holder_modClk (f : Nat) (g : FieldClk → FieldClk) (gx : Nat) (s : State) : holder (modClk f g s) gx = holder s gx := rfl

@[simp] theorem getTile_modClk (f : Nat) (g : FieldClk → FieldClk) (gx : Nat) (s : State) : getTile (modClk f g s) gx = getTile s gx := rfl

@[simp] theorem getPart_modClk (f : Nat) (g : FieldClk → FieldClk) (gx : Nat) (s : State) : getPart (modClk f g s) gx = getPart s gx := rfl

@[simp] theorem getPort_modClk (f : Nat) (g : FieldClk → FieldClk) (gx : Nat) (s : State) : getPort (modClk f g s) gx = getPort s gx := rfl

@[simp] theorem getTx_modClk (f : Nat) (g : FieldClk → FieldClk) (gx gy : Nat) (s : State) : getTx (modClk f g s) gx gy = getTx s gx gy := rfl

@[simp] theorem getRx_modClk (f : Nat) (g : FieldClk → FieldClk) (gx gy : Nat) (s : State) : getRx (modClk f g s) gx gy = getRx s gx gy := rfl

@[simp] theorem getPin_modClk (f : Nat) (g : FieldClk → FieldClk) (gx : Nat) (s : State) : getPin (modClk f g s) gx = getPin s gx := rfl

@[simp] theorem getSlots_modClk (f : Nat) (g : FieldClk → FieldClk) (gx : Nat) (s : State) : getSlots (modClk f g s) gx = getSlots s gx := rfl

@[simp] theorem now_modClk (f : Nat) (g : FieldClk → FieldClk) (s : State) : now (modClk f g s) = now s := rfl

@[simp] theorem activeCtl_modClk (f : Nat) (g : FieldClk → FieldClk) (s : State) : activeCtl (modClk f g s) = activeCtl s := rfl

@[simp] theorem nodeId_modClk (f : Nat) (g : FieldClk → FieldClk) (s : State) : nodeId (modClk f g s) = nodeId s := rfl

@[simp] theorem mgmtDomain_modClk (f : Nat) (g : FieldClk → FieldClk) (s : State) : mgmtDomain (modClk f g s) = mgmtDomain s := rfl

@[simp] theorem siteState_modClk (f : Nat) (g : FieldClk → FieldClk) (gx : Nat) (s : State) : siteState (modClk f g s) gx = siteState s gx := rfl

@[simp] theorem siteWorks_modClk (f : Nat) (g : FieldClk → FieldClk) (gx : Nat) (s : State) : siteWorks (modClk f g s) gx = siteWorks s gx := rfl

@[simp] theorem busSource_modClk (f : Nat) (g : FieldClk → FieldClk) (s : State) : busSource (modClk f g s) = busSource s := rfl

@[simp] theorem switchSource_modClk (f : Nat) (g : FieldClk → FieldClk) (s : State) : switchSource (modClk f g s) = switchSource s := rfl

@[simp] theorem hasSendKey_modClk (f : Nat) (g : FieldClk → FieldClk) (gx : Nat) (s : State) : hasSendKey (modClk f g s) gx = hasSendKey s gx := rfl

@[simp] theorem hostRoute_modClk (f : Nat) (g : FieldClk → FieldClk) (gx : Nat) (s : State) : hostRoute (modClk f g s) gx = hostRoute s gx := rfl

@[simp] theorem runningK_modClk (f : Nat) (g : FieldClk → FieldClk) (s : State) : runningK (modClk f g s) = runningK s := rfl

@[simp] theorem effectiveTarget_modClk (f : Nat) (g : FieldClk → FieldClk) (gx : Nat) (s : State) : effectiveTarget (modClk f g s) gx = effectiveTarget s gx := rfl

@[simp] theorem partOfDomain_modClk (f : Nat) (g : FieldClk → FieldClk) (gx : Nat) (s : State) : partOfDomain (modClk f g s) gx = partOfDomain s gx := rfl

@[simp] theorem portUp_modClk (f : Nat) (g : FieldClk → FieldClk) (gx : Nat) (s : State) : portUp (modClk f g s) gx = portUp s gx := rfl

@[simp] theorem reg_modTile (k : Nat) (g : Tile → Tile) (gk gd : Nat) (s : State) : reg (modTile k g s) gk gd = reg s gk gd := rfl

@[simp] theorem setting_modTile (k : Nat) (g : Tile → Tile) (gi gs : Nat) (s : State) : setting (modTile k g s) gi gs = setting s gi gs := rfl

@[simp] theorem getFld_modTile (k : Nat) (g : Tile → Tile) (gx : Nat) (s : State) : getFld (modTile k g s) gx = getFld s gx := rfl

@[simp] theorem holder_modTile (k : Nat) (g : Tile → Tile) (gx : Nat) (s : State) : holder (modTile k g s) gx = holder s gx := rfl

@[simp] theorem getClk_modTile (k : Nat) (g : Tile → Tile) (gx : Nat) (s : State) : getClk (modTile k g s) gx = getClk s gx := rfl

@[simp] theorem getPart_modTile (k : Nat) (g : Tile → Tile) (gx : Nat) (s : State) : getPart (modTile k g s) gx = getPart s gx := rfl

@[simp] theorem getPort_modTile (k : Nat) (g : Tile → Tile) (gx : Nat) (s : State) : getPort (modTile k g s) gx = getPort s gx := rfl

@[simp] theorem getTx_modTile (k : Nat) (g : Tile → Tile) (gx gy : Nat) (s : State) : getTx (modTile k g s) gx gy = getTx s gx gy := rfl

@[simp] theorem getRx_modTile (k : Nat) (g : Tile → Tile) (gx gy : Nat) (s : State) : getRx (modTile k g s) gx gy = getRx s gx gy := rfl

@[simp] theorem getPin_modTile (k : Nat) (g : Tile → Tile) (gx : Nat) (s : State) : getPin (modTile k g s) gx = getPin s gx := rfl

@[simp] theorem getSlots_modTile (k : Nat) (g : Tile → Tile) (gx : Nat) (s : State) : getSlots (modTile k g s) gx = getSlots s gx := rfl

@[simp] theorem now_modTile (k : Nat) (g : Tile → Tile) (s : State) : now (modTile k g s) = now s := rfl

@[simp] theorem activeCtl_modTile (k : Nat) (g : Tile → Tile) (s : State) : activeCtl (modTile k g s) = activeCtl s := rfl

@[simp] theorem nodeId_modTile (k : Nat) (g : Tile → Tile) (s : State) : nodeId (modTile k g s) = nodeId s := rfl

@[simp] theorem mgmtDomain_modTile (k : Nat) (g : Tile → Tile) (s : State) : mgmtDomain (modTile k g s) = mgmtDomain s := rfl

@[simp] theorem siteState_modTile (k : Nat) (g : Tile → Tile) (gx : Nat) (s : State) : siteState (modTile k g s) gx = siteState s gx := rfl

@[simp] theorem siteWorks_modTile (k : Nat) (g : Tile → Tile) (gx : Nat) (s : State) : siteWorks (modTile k g s) gx = siteWorks s gx := rfl

@[simp] theorem busSource_modTile (k : Nat) (g : Tile → Tile) (s : State) : busSource (modTile k g s) = busSource s := rfl

@[simp] theorem switchSource_modTile (k : Nat) (g : Tile → Tile) (s : State) : switchSource (modTile k g s) = switchSource s := rfl

@[simp] theorem hasSendKey_modTile (k : Nat) (g : Tile → Tile) (gx : Nat) (s : State) : hasSendKey (modTile k g s) gx = hasSendKey s gx := rfl

@[simp] theorem hostRoute_modTile (k : Nat) (g : Tile → Tile) (gx : Nat) (s : State) : hostRoute (modTile k g s) gx = hostRoute s gx := rfl

@[simp] theorem runningK_modTile (k : Nat) (g : Tile → Tile) (s : State) : runningK (modTile k g s) = runningK s := rfl

@[simp] theorem effectiveTarget_modTile (k : Nat) (g : Tile → Tile) (gx : Nat) (s : State) : effectiveTarget (modTile k g s) gx = effectiveTarget s gx := rfl

@[simp] theorem partOfDomain_modTile (k : Nat) (g : Tile → Tile) (gx : Nat) (s : State) : partOfDomain (modTile k g s) gx = partOfDomain s gx := rfl

@[simp] theorem portUp_modTile (k : Nat) (g : Tile → Tile) (gx : Nat) (s : State) : portUp (modTile k g s) gx = portUp s gx := rfl

@[simp] theorem reg_modCC (k slot : Nat) (g : CC → CC) (gk gd : Nat) (s : State) : reg (modCC k slot g s) gk gd = reg s gk gd := rfl

@[simp] theorem setting_modCC (k slot : Nat) (g : CC → CC) (gi gs : Nat) (s : State) : setting (modCC k slot g s) gi gs = setting s gi gs := rfl

@[simp] theorem getFld_modCC (k slot : Nat) (g : CC → CC) (gx : Nat) (s : State) : getFld (modCC k slot g s) gx = getFld s gx := rfl

@[simp] theorem holder_modCC (k slot : Nat) (g : CC → CC) (gx : Nat) (s : State) : holder (modCC k slot g s) gx = holder s gx := rfl

@[simp] theorem getClk_modCC (k slot : Nat) (g : CC → CC) (gx : Nat) (s : State) : getClk (modCC k slot g s) gx = getClk s gx := rfl

@[simp] theorem getPart_modCC (k slot : Nat) (g : CC → CC) (gx : Nat) (s : State) : getPart (modCC k slot g s) gx = getPart s gx := rfl

@[simp] theorem getPort_modCC (k slot : Nat) (g : CC → CC) (gx : Nat) (s : State) : getPort (modCC k slot g s) gx = getPort s gx := rfl

@[simp] theorem getTx_modCC (k slot : Nat) (g : CC → CC) (gx gy : Nat) (s : State) : getTx (modCC k slot g s) gx gy = getTx s gx gy := rfl

@[simp] theorem getRx_modCC (k slot : Nat) (g : CC → CC) (gx gy : Nat) (s : State) : getRx (modCC k slot g s) gx gy = getRx s gx gy := rfl

@[simp] theorem getPin_modCC (k slot : Nat) (g : CC → CC) (gx : Nat) (s : State) : getPin (modCC k slot g s) gx = getPin s gx := rfl

@[simp] theorem getSlots_modCC (k slot : Nat) (g : CC → CC) (gx : Nat) (s : State) : getSlots (modCC k slot g s) gx = getSlots s gx := rfl

@[simp] theorem now_modCC (k slot : Nat) (g : CC → CC) (s : State) : now (modCC k slot g s) = now s := rfl

@[simp] theorem activeCtl_modCC (k slot : Nat) (g : CC → CC) (s : State) : activeCtl (modCC k slot g s) = activeCtl s := rfl

@[simp] theorem nodeId_modCC (k slot : Nat) (g : CC → CC) (s : State) : nodeId (modCC k slot g s) = nodeId s := rfl

@[simp] theorem mgmtDomain_modCC (k slot : Nat) (g : CC → CC) (s : State) : mgmtDomain (modCC k slot g s) = mgmtDomain s := rfl

@[simp] theorem siteState_modCC (k slot : Nat) (g : CC → CC) (gx : Nat) (s : State) : siteState (modCC k slot g s) gx = siteState s gx := rfl

@[simp] theorem siteWorks_modCC (k slot : Nat) (g : CC → CC) (gx : Nat) (s : State) : siteWorks (modCC k slot g s) gx = siteWorks s gx := rfl

@[simp] theorem busSource_modCC (k slot : Nat) (g : CC → CC) (s : State) : busSource (modCC k slot g s) = busSource s := rfl

@[simp] theorem switchSource_modCC (k slot : Nat) (g : CC → CC) (s : State) : switchSource (modCC k slot g s) = switchSource s := rfl

@[simp] theorem hasSendKey_modCC (k slot : Nat) (g : CC → CC) (gx : Nat) (s : State) : hasSendKey (modCC k slot g s) gx = hasSendKey s gx := rfl

@[simp] theorem hostRoute_modCC (k slot : Nat) (g : CC → CC) (gx : Nat) (s : State) : hostRoute (modCC k slot g s) gx = hostRoute s gx := rfl

@[simp] theorem runningK_modCC (k slot : Nat) (g : CC → CC) (s : State) : runningK (modCC k slot g s) = runningK s := rfl

@[simp] theorem effectiveTarget_modCC (k slot : Nat) (g : CC → CC) (gx : Nat) (s : State) : effectiveTarget (modCC k slot g s) gx = effectiveTarget s gx := rfl

@[simp] theorem partOfDomain_modCC (k slot : Nat) (g : CC → CC) (gx : Nat) (s : State) : partOfDomain (modCC k slot g s) gx = partOfDomain s gx := rfl

@[simp] theorem portUp_modCC (k slot : Nat) (g : CC → CC) (gx : Nat) (s : State) : portUp (modCC k slot g s) gx = portUp s gx := rfl

@[simp] theorem reg_modAG (k g : Nat) (h : AG → AG) (gk gd : Nat) (s : State) : reg (modAG k g h s) gk gd = reg s gk gd := rfl

@[simp] theorem setting_modAG (k g : Nat) (h : AG → AG) (gi gs : Nat) (s : State) : setting (modAG k g h s) gi gs = setting s gi gs := rfl

@[simp] theorem getFld_modAG (k g : Nat) (h : AG → AG) (gx : Nat) (s : State) : getFld (modAG k g h s) gx = getFld s gx := rfl

@[simp] theorem holder_modAG (k g : Nat) (h : AG → AG) (gx : Nat) (s : State) : holder (modAG k g h s) gx = holder s gx := rfl

@[simp] theorem getClk_modAG (k g : Nat) (h : AG → AG) (gx : Nat) (s : State) : getClk (modAG k g h s) gx = getClk s gx := rfl

@[simp] theorem getPart_modAG (k g : Nat) (h : AG → AG) (gx : Nat) (s : State) : getPart (modAG k g h s) gx = getPart s gx := rfl

@[simp] theorem getPort_modAG (k g : Nat) (h : AG → AG) (gx : Nat) (s : State) : getPort (modAG k g h s) gx = getPort s gx := rfl

@[simp] theorem getTx_modAG (k g : Nat) (h : AG → AG) (gx gy : Nat) (s : State) : getTx (modAG k g h s) gx gy = getTx s gx gy := rfl

@[simp] theorem getRx_modAG (k g : Nat) (h : AG → AG) (gx gy : Nat) (s : State) : getRx (modAG k g h s) gx gy = getRx s gx gy := rfl

@[simp] theorem getPin_modAG (k g : Nat) (h : AG → AG) (gx : Nat) (s : State) : getPin (modAG k g h s) gx = getPin s gx := rfl

@[simp] theorem getSlots_modAG (k g : Nat) (h : AG → AG) (gx : Nat) (s : State) : getSlots (modAG k g h s) gx = getSlots s gx := rfl

@[simp] theorem now_modAG (k g : Nat) (h : AG → AG) (s : State) : now (modAG k g h s) = now s := rfl

@[simp] theorem activeCtl_modAG (k g : Nat) (h : AG → AG) (s : State) : activeCtl (modAG k g h s) = activeCtl s := rfl

@[simp] theorem nodeId_modAG (k g : Nat) (h : AG → AG) (s : State) : nodeId (modAG k g h s) = nodeId s := rfl

@[simp] theorem mgmtDomain_modAG (k g : Nat) (h : AG → AG) (s : State) : mgmtDomain (modAG k g h s) = mgmtDomain s := rfl

@[simp] theorem siteState_modAG (k g : Nat) (h : AG → AG) (gx : Nat) (s : State) : siteState (modAG k g h s) gx = siteState s gx := rfl

@[simp] theorem siteWorks_modAG (k g : Nat) (h : AG → AG) (gx : Nat) (s : State) : siteWorks (modAG k g h s) gx = siteWorks s gx := rfl

@[simp] theorem busSource_modAG (k g : Nat) (h : AG → AG) (s : State) : busSource (modAG k g h s) = busSource s := rfl

@[simp] theorem switchSource_modAG (k g : Nat) (h : AG → AG) (s : State) : switchSource (modAG k g h s) = switchSource s := rfl

@[simp] theorem hasSendKey_modAG (k g : Nat) (h : AG → AG) (gx : Nat) (s : State) : hasSendKey (modAG k g h s) gx = hasSendKey s gx := rfl

@[simp] theorem hostRoute_modAG (k g : Nat) (h : AG → AG) (gx : Nat) (s : State) : hostRoute (modAG k g h s) gx = hostRoute s gx := rfl

@[simp] theorem runningK_modAG (k g : Nat) (h : AG → AG) (s : State) : runningK (modAG k g h s) = runningK s := rfl

@[simp] theorem effectiveTarget_modAG (k g : Nat) (h : AG → AG) (gx : Nat) (s : State) : effectiveTarget (modAG k g h s) gx = effectiveTarget s gx := rfl

@[simp] theorem partOfDomain_modAG (k g : Nat) (h : AG → AG) (gx : Nat) (s : State) : partOfDomain (modAG k g h s) gx = partOfDomain s gx := rfl

@[simp] theorem portUp_modAG (k g : Nat) (h : AG → AG) (gx : Nat) (s : State) : portUp (modAG k g h s) gx = portUp s gx := rfl

@[simp] theorem reg_modTx (node domain : Nat) (g : FlowTx → FlowTx) (gk gd : Nat) (s : State) : reg (modTx node domain g s) gk gd = reg s gk gd := rfl

@[simp] theorem setting_modTx (node domain : Nat) (g : FlowTx → FlowTx) (gi gs : Nat) (s : State) : setting (modTx node domain g s) gi gs = setting s gi gs := rfl

@[simp] theorem getFld_modTx (node domain : Nat) (g : FlowTx → FlowTx) (gx : Nat) (s : State) : getFld (modTx node domain g s) gx = getFld s gx := rfl

@[simp] theorem holder_modTx (node domain : Nat) (g : FlowTx → FlowTx) (gx : Nat) (s : State) : holder (modTx node domain g s) gx = holder s gx := rfl

@[simp] theorem getClk_modTx (node domain : Nat) (g : FlowTx → FlowTx) (gx : Nat) (s : State) : getClk (modTx node domain g s) gx = getClk s gx := rfl

@[simp] theorem getTile_modTx (node domain : Nat) (g : FlowTx → FlowTx) (gx : Nat) (s : State) : getTile (modTx node domain g s) gx = getTile s gx := rfl

@[simp] theorem getPart_modTx (node domain : Nat) (g : FlowTx → FlowTx) (gx : Nat) (s : State) : getPart (modTx node domain g s) gx = getPart s gx := rfl

@[simp] theorem getPin_modTx (node domain : Nat) (g : FlowTx → FlowTx) (gx : Nat) (s : State) : getPin (modTx node domain g s) gx = getPin s gx := rfl

@[simp] theorem getSlots_modTx (node domain : Nat) (g : FlowTx → FlowTx) (gx : Nat) (s : State) : getSlots (modTx node domain g s) gx = getSlots s gx := rfl

@[simp] theorem now_modTx (node domain : Nat) (g : FlowTx → FlowTx) (s : State) : now (modTx node domain g s) = now s := rfl

@[simp] theorem activeCtl_modTx (node domain : Nat) (g : FlowTx → FlowTx) (s : State) : activeCtl (modTx node domain g s) = activeCtl s := rfl

@[simp] theorem nodeId_modTx (node domain : Nat) (g : FlowTx → FlowTx) (s : State) : nodeId (modTx node domain g s) = nodeId s := rfl

@[simp] theorem mgmtDomain_modTx (node domain : Nat) (g : FlowTx → FlowTx) (s : State) : mgmtDomain (modTx node domain g s) = mgmtDomain s := rfl

@[simp] theorem siteState_modTx (node domain : Nat) (g : FlowTx → FlowTx) (gx : Nat) (s : State) : siteState (modTx node domain g s) gx = siteState s gx := rfl

@[simp] theorem siteWorks_modTx (node domain : Nat) (g : FlowTx → FlowTx) (gx : Nat) (s : State) : siteWorks (modTx node domain g s) gx = siteWorks s gx := rfl

@[simp] theorem busSource_modTx (node domain : Nat) (g : FlowTx → FlowTx) (s : State) : busSource (modTx node domain g s) = busSource s := rfl

@[simp] theorem switchSource_modTx (node domain : Nat) (g : FlowTx → FlowTx) (s : State) : switchSource (modTx node domain g s) = switchSource s := rfl

@[simp] theorem hasSendKey_modTx (node domain : Nat) (g : FlowTx → FlowTx) (gx : Nat) (s : State) : hasSendKey (modTx node domain g s) gx = hasSendKey s gx := rfl

@[simp] theorem hostRoute_modTx (node domain : Nat) (g : FlowTx → FlowTx) (gx : Nat) (s : State) : hostRoute (modTx node domain g s) gx = hostRoute s gx := rfl

@[simp] theorem runningK_modTx (node domain : Nat) (g : FlowTx → FlowTx) (s : State) : runningK (modTx node domain g s) = runningK s := rfl

@[simp] theorem effectiveTarget_modTx (node domain : Nat) (g : FlowTx → FlowTx) (gx : Nat) (s : State) : effectiveTarget (modTx node domain g s) gx = effectiveTarget s gx := rfl

@[simp] theorem partOfDomain_modTx (node domain : Nat) (g : FlowTx → FlowTx) (gx : Nat) (s : State) : partOfDomain (modTx node domain g s) gx = partOfDomain s gx := rfl

@[simp] theorem reg_modRx (node domain : Nat) (g : FlowRx → FlowRx) (gk gd : Nat) (s : State) : reg (modRx node domain g s) gk gd = reg s gk gd := rfl

@[simp] theorem setting_modRx (node domain : Nat) (g : FlowRx → FlowRx) (gi gs : Nat) (s : State) : setting (modRx node domain g s) gi gs = setting s gi gs := rfl

@[simp] theorem getFld_modRx (node domain : Nat) (g : FlowRx → FlowRx) (gx : Nat) (s : State) : getFld (modRx node domain g s) gx = getFld s gx := rfl

@[simp] theorem holder_modRx (node domain : Nat) (g : FlowRx → FlowRx) (gx : Nat) (s : State) : holder (modRx node domain g s) gx = holder s gx := rfl

@[simp] theorem getClk_modRx (node domain : Nat) (g : FlowRx → FlowRx) (gx : Nat) (s : State) : getClk (modRx node domain g s) gx = getClk s gx := rfl

@[simp] theorem getTile_modRx (node domain : Nat) (g : FlowRx → FlowRx) (gx : Nat) (s : State) : getTile (modRx node domain g s) gx = getTile s gx := rfl

@[simp] theorem getPart_modRx (node domain : Nat) (g : FlowRx → FlowRx) (gx : Nat) (s : State) : getPart (modRx node domain g s) gx = getPart s gx := rfl

@[simp] theorem getPin_modRx (node domain : Nat) (g : FlowRx → FlowRx) (gx : Nat) (s : State) : getPin (modRx node domain g s) gx = getPin s gx := rfl

@[simp] theorem getSlots_modRx (node domain : Nat) (g : FlowRx → FlowRx) (gx : Nat) (s : State) : getSlots (modRx node domain g s) gx = getSlots s gx := rfl

@[simp] theorem now_modRx (node domain : Nat) (g : FlowRx → FlowRx) (s : State) : now (modRx node domain g s) = now s := rfl

@[simp] theorem activeCtl_modRx (node domain : Nat) (g : FlowRx → FlowRx) (s : State) : activeCtl (modRx node domain g s) = activeCtl s := rfl

@[simp] theorem nodeId_modRx (node domain : Nat) (g : FlowRx → FlowRx) (s : State) : nodeId (modRx node domain g s) = nodeId s := rfl

@[simp] theorem mgmtDomain_modRx (node domain : Nat) (g : FlowRx → FlowRx) (s : State) : mgmtDomain (modRx node domain g s) = mgmtDomain s := rfl

@[simp] theorem siteState_modRx (node domain : Nat) (g : FlowRx → FlowRx) (gx : Nat) (s : State) : siteState (modRx node domain g s) gx = siteState s gx := rfl

@[simp] theorem siteWorks_modRx (node domain : Nat) (g : FlowRx → FlowRx) (gx : Nat) (s : State) : siteWorks (modRx node domain g s) gx = siteWorks s gx := rfl

@[simp] theorem busSource_modRx (node domain : Nat) (g : FlowRx → FlowRx) (s : State) : busSource (modRx node domain g s) = busSource s := rfl

@[simp] theorem switchSource_modRx (node domain : Nat) (g : FlowRx → FlowRx) (s : State) : switchSource (modRx node domain g s) = switchSource s := rfl

@[simp] theorem hasSendKey_modRx (node domain : Nat) (g : FlowRx → FlowRx) (gx : Nat) (s : State) : hasSendKey (modRx node domain g s) gx = hasSendKey s gx := rfl

@[simp] theorem hostRoute_modRx (node domain : Nat) (g : FlowRx → FlowRx) (gx : Nat) (s : State) : hostRoute (modRx node domain g s) gx = hostRoute s gx := rfl

@[simp] theorem runningK_modRx (node domain : Nat) (g : FlowRx → FlowRx) (s : State) : runningK (modRx node domain g s) = runningK s := rfl

@[simp] theorem effectiveTarget_modRx (node domain : Nat) (g : FlowRx → FlowRx) (gx : Nat) (s : State) : effectiveTarget (modRx node domain g s) gx = effectiveTarget s gx := rfl

@[simp] theorem partOfDomain_modRx (node domain : Nat) (g : FlowRx → FlowRx) (gx : Nat) (s : State) : partOfDomain (modRx node domain g s) gx = partOfDomain s gx := rfl

@[simp] theorem reg_modPort (i : Nat) (g : Port → Port) (gk gd : Nat) (s : State) : reg (modPort i g s) gk gd = reg s gk gd := rfl

@[simp] theorem setting_modPort (i : Nat) (g : Port → Port) (gi gs : Nat) (s : State) : setting (modPort i g s) gi gs = setting s gi gs := rfl

@[simp] theorem getFld_modPort (i : Nat) (g : Port → Port) (gx : Nat) (s : State) : getFld (modPort i g s) gx = getFld s gx := rfl

@[simp] theorem holder_modPort (i : Nat) (g : Port → Port) (gx : Nat) (s : State) : holder (modPort i g s) gx = holder s gx := rfl

@[simp] theorem getClk_modPort (i : Nat) (g : Port → Port) (gx : Nat) (s : State) : getClk (modPort i g s) gx = getClk s gx := rfl

@[simp] theorem getTile_modPort (i : Nat) (g : Port → Port) (gx : Nat) (s : State) : getTile (modPort i g s) gx = getTile s gx := rfl

@[simp] theorem getPart_modPort (i : Nat) (g : Port → Port) (gx : Nat) (s : State) : getPart (modPort i g s) gx = getPart s gx := rfl

@[simp] theorem getPin_modPort (i : Nat) (g : Port → Port) (gx : Nat) (s : State) : getPin (modPort i g s) gx = getPin s gx := rfl

@[simp] theorem getSlots_modPort (i : Nat) (g : Port → Port) (gx : Nat) (s : State) : getSlots (modPort i g s) gx = getSlots s gx := rfl

@[simp] theorem now_modPort (i : Nat) (g : Port → Port) (s : State) : now (modPort i g s) = now s := rfl

@[simp] theorem activeCtl_modPort (i : Nat) (g : Port → Port) (s : State) : activeCtl (modPort i g s) = activeCtl s := rfl

@[simp] theorem nodeId_modPort (i : Nat) (g : Port → Port) (s : State) : nodeId (modPort i g s) = nodeId s := rfl

@[simp] theorem mgmtDomain_modPort (i : Nat) (g : Port → Port) (s : State) : mgmtDomain (modPort i g s) = mgmtDomain s := rfl

@[simp] theorem siteState_modPort (i : Nat) (g : Port → Port) (gx : Nat) (s : State) : siteState (modPort i g s) gx = siteState s gx := rfl

@[simp] theorem siteWorks_modPort (i : Nat) (g : Port → Port) (gx : Nat) (s : State) : siteWorks (modPort i g s) gx = siteWorks s gx := rfl

@[simp] theorem busSource_modPort (i : Nat) (g : Port → Port) (s : State) : busSource (modPort i g s) = busSource s := rfl

@[simp] theorem switchSource_modPort (i : Nat) (g : Port → Port) (s : State) : switchSource (modPort i g s) = switchSource s := rfl

@[simp] theorem hasSendKey_modPort (i : Nat) (g : Port → Port) (gx : Nat) (s : State) : hasSendKey (modPort i g s) gx = hasSendKey s gx := rfl

@[simp] theorem hostRoute_modPort (i : Nat) (g : Port → Port) (gx : Nat) (s : State) : hostRoute (modPort i g s) gx = hostRoute s gx := rfl

@[simp] theorem runningK_modPort (i : Nat) (g : Port → Port) (s : State) : runningK (modPort i g s) = runningK s := rfl

@[simp] theorem effectiveTarget_modPort (i : Nat) (g : Port → Port) (gx : Nat) (s : State) : effectiveTarget (modPort i g s) gx = effectiveTarget s gx := rfl

@[simp] theorem partOfDomain_modPort (i : Nat) (g : Port → Port) (gx : Nat) (s : State) : partOfDomain (modPort i g s) gx = partOfDomain s gx := rfl

@[simp] theorem reg_modPin (i : Nat) (g : Pin → Pin) (gk gd : Nat) (s : State) : reg (modPin i g s) gk gd = reg s gk gd := rfl

@[simp] theorem setting_modPin (i : Nat) (g : Pin → Pin) (gi gs : Nat) (s : State) : setting (modPin i g s) gi gs = setting s gi gs := rfl

@[simp] theorem getFld_modPin (i : Nat) (g : Pin → Pin) (gx : Nat) (s : State) : getFld (modPin i g s) gx = getFld s gx := rfl

@[simp] theorem holder_modPin (i : Nat) (g : Pin → Pin) (gx : Nat) (s : State) : holder (modPin i g s) gx = holder s gx := rfl

@[simp] theorem getClk_modPin (i : Nat) (g : Pin → Pin) (gx : Nat) (s : State) : getClk (modPin i g s) gx = getClk s gx := rfl

@[simp] theorem getTile_modPin (i : Nat) (g : Pin → Pin) (gx : Nat) (s : State) : getTile (modPin i g s) gx = getTile s gx := rfl

@[simp] theorem getPart_modPin (i : Nat) (g : Pin → Pin) (gx : Nat) (s : State) : getPart (modPin i g s) gx = getPart s gx := rfl

@[simp] theorem getPort_modPin (i : Nat) (g : Pin → Pin) (gx : Nat) (s : State) : getPort (modPin i g s) gx = getPort s gx := rfl

@[simp] theorem getTx_modPin (i : Nat) (g : Pin → Pin) (gx gy : Nat) (s : State) : getTx (modPin i g s) gx gy = getTx s gx gy := rfl

@[simp] theorem getRx_modPin (i : Nat) (g : Pin → Pin) (gx gy : Nat) (s : State) : getRx (modPin i g s) gx gy = getRx s gx gy := rfl

@[simp] theorem getSlots_modPin (i : Nat) (g : Pin → Pin) (gx : Nat) (s : State) : getSlots (modPin i g s) gx = getSlots s gx := rfl

@[simp] theorem now_modPin (i : Nat) (g : Pin → Pin) (s : State) : now (modPin i g s) = now s := rfl

@[simp] theorem activeCtl_modPin (i : Nat) (g : Pin → Pin) (s : State) : activeCtl (modPin i g s) = activeCtl s := rfl

@[simp] theorem nodeId_modPin (i : Nat) (g : Pin → Pin) (s : State) : nodeId (modPin i g s) = nodeId s := rfl

@[simp] theorem mgmtDomain_modPin (i : Nat) (g : Pin → Pin) (s : State) : mgmtDomain (modPin i g s) = mgmtDomain s := rfl

@[simp] theorem siteState_modPin (i : Nat) (g : Pin → Pin) (gx : Nat) (s : State) : siteState (modPin i g s) gx = siteState s gx := rfl

@[simp] theorem siteWorks_modPin (i : Nat) (g : Pin → Pin) (gx : Nat) (s : State) : siteWorks (modPin i g s) gx = siteWorks s gx := rfl

@[simp] theorem busSource_modPin (i : Nat) (g : Pin → Pin) (s : State) : busSource (modPin i g s) = busSource s := rfl

@[simp] theorem switchSource_modPin (i : Nat) (g : Pin → Pin) (s : State) : switchSource (modPin i g s) = switchSource s := rfl

@[simp] theorem hasSendKey_modPin (i : Nat) (g : Pin → Pin) (gx : Nat) (s : State) : hasSendKey (modPin i g s) gx = hasSendKey s gx := rfl

@[simp] theorem hostRoute_modPin (i : Nat) (g : Pin → Pin) (gx : Nat) (s : State) : hostRoute (modPin i g s) gx = hostRoute s gx := rfl

@[simp] theorem runningK_modPin (i : Nat) (g : Pin → Pin) (s : State) : runningK (modPin i g s) = runningK s := rfl

@[simp] theorem effectiveTarget_modPin (i : Nat) (g : Pin → Pin) (gx : Nat) (s : State) : effectiveTarget (modPin i g s) gx = effectiveTarget s gx := rfl

@[simp] theorem partOfDomain_modPin (i : Nat) (g : Pin → Pin) (gx : Nat) (s : State) : partOfDomain (modPin i g s) gx = partOfDomain s gx := rfl

@[simp] theorem portUp_modPin (i : Nat) (g : Pin → Pin) (gx : Nat) (s : State) : portUp (modPin i g s) gx = portUp s gx := rfl

@[simp] theorem reg_modSlots (d : Nat) (g : KeySlots → KeySlots) (gk gd : Nat) (s : State) : reg (modSlots d g s) gk gd = reg s gk gd := rfl

@[simp] theorem setting_modSlots (d : Nat) (g : KeySlots → KeySlots) (gi gs : Nat) (s : State) : setting (modSlots d g s) gi gs = setting s gi gs := rfl

@[simp] theorem getFld_modSlots (d : Nat) (g : KeySlots → KeySlots) (gx : Nat) (s : State) : getFld (modSlots d g s) gx = getFld s gx := rfl

@[simp] theorem holder_modSlots (d : Nat) (g : KeySlots → KeySlots) (gx : Nat) (s : State) : holder (modSlots d g s) gx = holder s gx := rfl

@[simp] theorem getClk_modSlots (d : Nat) (g : KeySlots → KeySlots) (gx : Nat) (s : State) : getClk (modSlots d g s) gx = getClk s gx := rfl

@[simp] theorem getTile_modSlots (d : Nat) (g : KeySlots → KeySlots) (gx : Nat) (s : State) : getTile (modSlots d g s) gx = getTile s gx := rfl

@[simp] theorem getPart_modSlots (d : Nat) (g : KeySlots → KeySlots) (gx : Nat) (s : State) : getPart (modSlots d g s) gx = getPart s gx := rfl

@[simp] theorem getPort_modSlots (d : Nat) (g : KeySlots → KeySlots) (gx : Nat) (s : State) : getPort (modSlots d g s) gx = getPort s gx := rfl

@[simp] theorem getTx_modSlots (d : Nat) (g : KeySlots → KeySlots) (gx gy : Nat) (s : State) : getTx (modSlots d g s) gx gy = getTx s gx gy := rfl

@[simp] theorem getRx_modSlots (d : Nat) (g : KeySlots → KeySlots) (gx gy : Nat) (s : State) : getRx (modSlots d g s) gx gy = getRx s gx gy := rfl

@[simp] theorem getPin_modSlots (d : Nat) (g : KeySlots → KeySlots) (gx : Nat) (s : State) : getPin (modSlots d g s) gx = getPin s gx := rfl

@[simp] theorem now_modSlots (d : Nat) (g : KeySlots → KeySlots) (s : State) : now (modSlots d g s) = now s := rfl

@[simp] theorem activeCtl_modSlots (d : Nat) (g : KeySlots → KeySlots) (s : State) : activeCtl (modSlots d g s) = activeCtl s := rfl

@[simp] theorem nodeId_modSlots (d : Nat) (g : KeySlots → KeySlots) (s : State) : nodeId (modSlots d g s) = nodeId s := rfl

@[simp] theorem mgmtDomain_modSlots (d : Nat) (g : KeySlots → KeySlots) (s : State) : mgmtDomain (modSlots d g s) = mgmtDomain s := rfl

@[simp] theorem siteState_modSlots (d : Nat) (g : KeySlots → KeySlots) (gx : Nat) (s : State) : siteState (modSlots d g s) gx = siteState s gx := rfl

@[simp] theorem siteWorks_modSlots (d : Nat) (g : KeySlots → KeySlots) (gx : Nat) (s : State) : siteWorks (modSlots d g s) gx = siteWorks s gx := rfl

@[simp] theorem busSource_modSlots (d : Nat) (g : KeySlots → KeySlots) (s : State) : busSource (modSlots d g s) = busSource s := rfl

@[simp] theorem switchSource_modSlots (d : Nat) (g : KeySlots → KeySlots) (s : State) : switchSource (modSlots d g s) = switchSource s := rfl

@[simp] theorem hostRoute_modSlots (d : Nat) (g : KeySlots → KeySlots) (gx : Nat) (s : State) : hostRoute (modSlots d g s) gx = hostRoute s gx := rfl

@[simp] theorem runningK_modSlots (d : Nat) (g : KeySlots → KeySlots) (s : State) : runningK (modSlots d g s) = runningK s := rfl

@[simp] theorem effectiveTarget_modSlots (d : Nat) (g : KeySlots → KeySlots) (gx : Nat) (s : State) : effectiveTarget (modSlots d g s) gx = effectiveTarget s gx := rfl

@[simp] theorem partOfDomain_modSlots (d : Nat) (g : KeySlots → KeySlots) (gx : Nat) (s : State) : partOfDomain (modSlots d g s) gx = partOfDomain s gx := rfl

@[simp] theorem portUp_modSlots (d : Nat) (g : KeySlots → KeySlots) (gx : Nat) (s : State) : portUp (modSlots d g s) gx = portUp s gx := rfl

@[simp] theorem reg_writeBytes (key : Nat) (bs : List Byte) (gk gd : Nat) (s : State) : reg (writeBytes key bs s) gk gd = reg s gk gd := rfl

@[simp] theorem setting_writeBytes (key : Nat) (bs : List Byte) (gi gs : Nat) (s : State) : setting (writeBytes key bs s) gi gs = setting s gi gs := rfl

@[simp] theorem getFld_writeBytes (key : Nat) (bs : List Byte) (gx : Nat) (s : State) : getFld (writeBytes key bs s) gx = getFld s gx := rfl

@[simp] theorem holder_writeBytes (key : Nat) (bs : List Byte) (gx : Nat) (s : State) : holder (writeBytes key bs s) gx = holder s gx := rfl

@[simp] theorem getClk_writeBytes (key : Nat) (bs : List Byte) (gx : Nat) (s : State) : getClk (writeBytes key bs s) gx = getClk s gx := rfl

@[simp] theorem getTile_writeBytes (key : Nat) (bs : List Byte) (gx : Nat) (s : State) : getTile (writeBytes key bs s) gx = getTile s gx := rfl

@[simp] theorem getPart_writeBytes (key : Nat) (bs : List Byte) (gx : Nat) (s : State) : getPart (writeBytes key bs s) gx = getPart s gx := rfl

@[simp] theorem getPort_writeBytes (key : Nat) (bs : List Byte) (gx : Nat) (s : State) : getPort (writeBytes key bs s) gx = getPort s gx := rfl

@[simp] theorem getTx_writeBytes (key : Nat) (bs : List Byte) (gx gy : Nat) (s : State) : getTx (writeBytes key bs s) gx gy = getTx s gx gy := rfl

@[simp] theorem getRx_writeBytes (key : Nat) (bs : List Byte) (gx gy : Nat) (s : State) : getRx (writeBytes key bs s) gx gy = getRx s gx gy := rfl

@[simp] theorem getPin_writeBytes (key : Nat) (bs : List Byte) (gx : Nat) (s : State) : getPin (writeBytes key bs s) gx = getPin s gx := rfl

@[simp] theorem getSlots_writeBytes (key : Nat) (bs : List Byte) (gx : Nat) (s : State) : getSlots (writeBytes key bs s) gx = getSlots s gx := rfl

@[simp] theorem now_writeBytes (key : Nat) (bs : List Byte) (s : State) : now (writeBytes key bs s) = now s := rfl

@[simp] theorem activeCtl_writeBytes (key : Nat) (bs : List Byte) (s : State) : activeCtl (writeBytes key bs s) = activeCtl s := rfl

@[simp] theorem nodeId_writeBytes (key : Nat) (bs : List Byte) (s : State) : nodeId (writeBytes key bs s) = nodeId s := rfl

@[simp] theorem mgmtDomain_writeBytes (key : Nat) (bs : List Byte) (s : State) : mgmtDomain (writeBytes key bs s) = mgmtDomain s := rfl

@[simp] theorem siteState_writeBytes (key : Nat) (bs : List Byte) (gx : Nat) (s : State) : siteState (writeBytes key bs s) gx = siteState s gx := rfl

@[simp] theorem siteWorks_writeBytes (key : Nat) (bs : List Byte) (gx : Nat) (s : State) : siteWorks (writeBytes key bs s) gx = siteWorks s gx := rfl

@[simp] theorem busSource_writeBytes (key : Nat) (bs : List Byte) (s : State) : busSource (writeBytes key bs s) = busSource s := rfl

@[simp] theorem switchSource_writeBytes (key : Nat) (bs : List Byte) (s : State) : switchSource (writeBytes key bs s) = switchSource s := rfl

@[simp] theorem hasSendKey_writeBytes (key : Nat) (bs : List Byte) (gx : Nat) (s : State) : hasSendKey (writeBytes key bs s) gx = hasSendKey s gx := rfl

@[simp] theorem hostRoute_writeBytes (key : Nat) (bs : List Byte) (gx : Nat) (s : State) : hostRoute (writeBytes key bs s) gx = hostRoute s gx := rfl

@[simp] theorem runningK_writeBytes (key : Nat) (bs : List Byte) (s : State) : runningK (writeBytes key bs s) = runningK s := rfl

@[simp] theorem effectiveTarget_writeBytes (key : Nat) (bs : List Byte) (gx : Nat) (s : State) : effectiveTarget (writeBytes key bs s) gx = effectiveTarget s gx := rfl

@[simp] theorem partOfDomain_writeBytes (key : Nat) (bs : List Byte) (gx : Nat) (s : State) : partOfDomain (writeBytes key bs s) gx = partOfDomain s gx := rfl

@[simp] theorem portUp_writeBytes (key : Nat) (bs : List Byte) (gx : Nat) (s : State) : portUp (writeBytes key bs s) gx = portUp s gx := rfl

@[simp] theorem reg_addCycles (n : Nat) (gk gd : Nat) (s : State) : reg (addCycles n s) gk gd = reg s gk gd := rfl

@[simp] theorem setting_addCycles (n : Nat) (gi gs : Nat) (s : State) : setting (addCycles n s) gi gs = setting s gi gs := rfl

@[simp] theorem getFld_addCycles (n : Nat) (gx : Nat) (s : State) : getFld (addCycles n s) gx = getFld s gx := rfl

@[simp] theorem holder_addCycles (n : Nat) (gx : Nat) (s : State) : holder (addCycles n s) gx = holder s gx := rfl

@[simp] theorem getClk_addCycles (n : Nat) (gx : Nat) (s : State) : getClk (addCycles n s) gx = getClk s gx := rfl

@[simp] theorem getTile_addCycles (n : Nat) (gx : Nat) (s : State) : getTile (addCycles n s) gx = getTile s gx := rfl

@[simp] theorem getPart_addCycles (n : Nat) (gx : Nat) (s : State) : getPart (addCycles n s) gx = getPart s gx := rfl

@[simp] theorem getPort_addCycles (n : Nat) (gx : Nat) (s : State) : getPort (addCycles n s) gx = getPort s gx := rfl

@[simp] theorem getTx_addCycles (n : Nat) (gx gy : Nat) (s : State) : getTx (addCycles n s) gx gy = getTx s gx gy := rfl

@[simp] theorem getRx_addCycles (n : Nat) (gx gy : Nat) (s : State) : getRx (addCycles n s) gx gy = getRx s gx gy := rfl

@[simp] theorem getSlots_addCycles (n : Nat) (gx : Nat) (s : State) : getSlots (addCycles n s) gx = getSlots s gx := rfl

@[simp] theorem activeCtl_addCycles (n : Nat) (s : State) : activeCtl (addCycles n s) = activeCtl s := rfl

@[simp] theorem nodeId_addCycles (n : Nat) (s : State) : nodeId (addCycles n s) = nodeId s := rfl

@[simp] theorem mgmtDomain_addCycles (n : Nat) (s : State) : mgmtDomain (addCycles n s) = mgmtDomain s := rfl

@[simp] theorem siteState_addCycles (n : Nat) (gx : Nat) (s : State) : siteState (addCycles n s) gx = siteState s gx := rfl

@[simp] theorem siteWorks_addCycles (n : Nat) (gx : Nat) (s : State) : siteWorks (addCycles n s) gx = siteWorks s gx := rfl

@[simp] theorem busSource_addCycles (n : Nat) (s : State) : busSource (addCycles n s) = busSource s := rfl

@[simp] theorem switchSource_addCycles (n : Nat) (s : State) : switchSource (addCycles n s) = switchSource s := rfl

@[simp] theorem hasSendKey_addCycles (n : Nat) (gx : Nat) (s : State) : hasSendKey (addCycles n s) gx = hasSendKey s gx := rfl

@[simp] theorem hostRoute_addCycles (n : Nat) (gx : Nat) (s : State) : hostRoute (addCycles n s) gx = hostRoute s gx := rfl

@[simp] theorem runningK_addCycles (n : Nat) (s : State) : runningK (addCycles n s) = runningK s := rfl

@[simp] theorem effectiveTarget_addCycles (n : Nat) (gx : Nat) (s : State) : effectiveTarget (addCycles n s) gx = effectiveTarget s gx := rfl

@[simp] theorem partOfDomain_addCycles (n : Nat) (gx : Nat) (s : State) : partOfDomain (addCycles n s) gx = partOfDomain s gx := rfl

@[simp] theorem portUp_addCycles (n : Nat) (gx : Nat) (s : State) : portUp (addCycles n s) gx = portUp s gx := rfl

@[simp] theorem reg_withdraw (p : EvReq → Bool) (gk gd : Nat) (s : State) : reg (withdraw p s) gk gd = reg s gk gd := rfl

@[simp] theorem setting_withdraw (p : EvReq → Bool) (gi gs : Nat) (s : State) : setting (withdraw p s) gi gs = setting s gi gs := rfl

@[simp] theorem getFld_withdraw (p : EvReq → Bool) (gx : Nat) (s : State) : getFld (withdraw p s) gx = getFld s gx := rfl

@[simp] theorem holder_withdraw (p : EvReq → Bool) (gx : Nat) (s : State) : holder (withdraw p s) gx = holder s gx := rfl

@[simp] theorem getClk_withdraw (p : EvReq → Bool) (gx : Nat) (s : State) : getClk (withdraw p s) gx = getClk s gx := rfl

@[simp] theorem getTile_withdraw (p : EvReq → Bool) (gx : Nat) (s : State) : getTile (withdraw p s) gx = getTile s gx := rfl

@[simp] theorem getPart_withdraw (p : EvReq → Bool) (gx : Nat) (s : State) : getPart (withdraw p s) gx = getPart s gx := rfl

@[simp] theorem getPort_withdraw (p : EvReq → Bool) (gx : Nat) (s : State) : getPort (withdraw p s) gx = getPort s gx := rfl

@[simp] theorem getTx_withdraw (p : EvReq → Bool) (gx gy : Nat) (s : State) : getTx (withdraw p s) gx gy = getTx s gx gy := rfl

@[simp] theorem getRx_withdraw (p : EvReq → Bool) (gx gy : Nat) (s : State) : getRx (withdraw p s) gx gy = getRx s gx gy := rfl

@[simp] theorem getPin_withdraw (p : EvReq → Bool) (gx : Nat) (s : State) : getPin (withdraw p s) gx = getPin s gx := rfl

@[simp] theorem getSlots_withdraw (p : EvReq → Bool) (gx : Nat) (s : State) : getSlots (withdraw p s) gx = getSlots s gx := rfl

@[simp] theorem now_withdraw (p : EvReq → Bool) (s : State) : now (withdraw p s) = now s := rfl

@[simp] theorem activeCtl_withdraw (p : EvReq → Bool) (s : State) : activeCtl (withdraw p s) = activeCtl s := rfl

@[simp] theorem nodeId_withdraw (p : EvReq → Bool) (s : State) : nodeId (withdraw p s) = nodeId s := rfl

@[simp] theorem mgmtDomain_withdraw (p : EvReq → Bool) (s : State) : mgmtDomain (withdraw p s) = mgmtDomain s := rfl

@[simp] theorem siteState_withdraw (p : EvReq → Bool) (gx : Nat) (s : State) : siteState (withdraw p s) gx = siteState s gx := rfl

@[simp] theorem siteWorks_withdraw (p : EvReq → Bool) (gx : Nat) (s : State) : siteWorks (withdraw p s) gx = siteWorks s gx := rfl

@[simp] theorem busSource_withdraw (p : EvReq → Bool) (s : State) : busSource (withdraw p s) = busSource s := rfl

@[simp] theorem switchSource_withdraw (p : EvReq → Bool) (s : State) : switchSource (withdraw p s) = switchSource s := rfl

@[simp] theorem hasSendKey_withdraw (p : EvReq → Bool) (gx : Nat) (s : State) : hasSendKey (withdraw p s) gx = hasSendKey s gx := rfl

@[simp] theorem hostRoute_withdraw (p : EvReq → Bool) (gx : Nat) (s : State) : hostRoute (withdraw p s) gx = hostRoute s gx := rfl

@[simp] theorem runningK_withdraw (p : EvReq → Bool) (s : State) : runningK (withdraw p s) = runningK s := rfl

@[simp] theorem effectiveTarget_withdraw (p : EvReq → Bool) (gx : Nat) (s : State) : effectiveTarget (withdraw p s) gx = effectiveTarget s gx := rfl

@[simp] theorem partOfDomain_withdraw (p : EvReq → Bool) (gx : Nat) (s : State) : partOfDomain (withdraw p s) gx = partOfDomain s gx := rfl

@[simp] theorem portUp_withdraw (p : EvReq → Bool) (gx : Nat) (s : State) : portUp (withdraw p s) gx = portUp s gx := rfl

@[simp] theorem reg_land (h : Head) (control : Bool) (kind : Nat) (gk gd : Nat) (s : State) : reg (land h control kind s) gk gd = reg s gk gd := by
  unfold land leaveMesh; split <;> rfl

@[simp] theorem setting_land (h : Head) (control : Bool) (kind : Nat) (gi gs : Nat) (s : State) : setting (land h control kind s) gi gs = setting s gi gs := by
  unfold land leaveMesh; split <;> rfl

@[simp] theorem getFld_land (h : Head) (control : Bool) (kind : Nat) (gx : Nat) (s : State) : getFld (land h control kind s) gx = getFld s gx := by
  unfold land leaveMesh; split <;> rfl

@[simp] theorem holder_land (h : Head) (control : Bool) (kind : Nat) (gx : Nat) (s : State) : holder (land h control kind s) gx = holder s gx := by
  unfold land leaveMesh; split <;> rfl

@[simp] theorem getClk_land (h : Head) (control : Bool) (kind : Nat) (gx : Nat) (s : State) : getClk (land h control kind s) gx = getClk s gx := by
  unfold land leaveMesh; split <;> rfl

@[simp] theorem getTile_land (h : Head) (control : Bool) (kind : Nat) (gx : Nat) (s : State) : getTile (land h control kind s) gx = getTile s gx := by
  unfold land leaveMesh; split <;> rfl

@[simp] theorem getPart_land (h : Head) (control : Bool) (kind : Nat) (gx : Nat) (s : State) : getPart (land h control kind s) gx = getPart s gx := by
  unfold land leaveMesh; split <;> rfl

@[simp] theorem getPort_land (h : Head) (control : Bool) (kind : Nat) (gx : Nat) (s : State) : getPort (land h control kind s) gx = getPort s gx := by
  unfold land leaveMesh; split <;> rfl

@[simp] theorem getTx_land (h : Head) (control : Bool) (kind : Nat) (gx gy : Nat) (s : State) : getTx (land h control kind s) gx gy = getTx s gx gy := by
  unfold land leaveMesh; split <;> rfl

@[simp] theorem getRx_land (h : Head) (control : Bool) (kind : Nat) (gx gy : Nat) (s : State) : getRx (land h control kind s) gx gy = getRx s gx gy := by
  unfold land leaveMesh; split <;> rfl

@[simp] theorem getPin_land (h : Head) (control : Bool) (kind : Nat) (gx : Nat) (s : State) : getPin (land h control kind s) gx = getPin s gx := by
  unfold land leaveMesh; split <;> rfl

@[simp] theorem getSlots_land (h : Head) (control : Bool) (kind : Nat) (gx : Nat) (s : State) : getSlots (land h control kind s) gx = getSlots s gx := by
  unfold land leaveMesh; split <;> rfl

@[simp] theorem now_land (h : Head) (control : Bool) (kind : Nat) (s : State) : now (land h control kind s) = now s := by
  unfold land leaveMesh; split <;> rfl

@[simp] theorem activeCtl_land (h : Head) (control : Bool) (kind : Nat) (s : State) : activeCtl (land h control kind s) = activeCtl s := by
  unfold land leaveMesh; split <;> rfl

@[simp] theorem nodeId_land (h : Head) (control : Bool) (kind : Nat) (s : State) : nodeId (land h control kind s) = nodeId s := by
  unfold land leaveMesh; split <;> rfl

@[simp] theorem mgmtDomain_land (h : Head) (control : Bool) (kind : Nat) (s : State) : mgmtDomain (land h control kind s) = mgmtDomain s := by
  unfold land leaveMesh; split <;> rfl

@[simp] theorem busSource_land (h : Head) (control : Bool) (kind : Nat) (s : State) : busSource (land h control kind s) = busSource s := by
  unfold land leaveMesh; split <;> rfl

@[simp] theorem switchSource_land (h : Head) (control : Bool) (kind : Nat) (s : State) : switchSource (land h control kind s) = switchSource s := by
  unfold land leaveMesh; split <;> rfl

@[simp] theorem hasSendKey_land (h : Head) (control : Bool) (kind : Nat) (gx : Nat) (s : State) : hasSendKey (land h control kind s) gx = hasSendKey s gx := by
  unfold land leaveMesh; split <;> rfl

@[simp] theorem hostRoute_land (h : Head) (control : Bool) (kind : Nat) (gx : Nat) (s : State) : hostRoute (land h control kind s) gx = hostRoute s gx := by
  unfold land leaveMesh; split <;> rfl

@[simp] theorem runningK_land (h : Head) (control : Bool) (kind : Nat) (s : State) : runningK (land h control kind s) = runningK s := by
  unfold land leaveMesh; split <;> rfl

@[simp] theorem effectiveTarget_land (h : Head) (control : Bool) (kind : Nat) (gx : Nat) (s : State) : effectiveTarget (land h control kind s) gx = effectiveTarget s gx := by
  unfold land leaveMesh; split <;> rfl

@[simp] theorem partOfDomain_land (h : Head) (control : Bool) (kind : Nat) (gx : Nat) (s : State) : partOfDomain (land h control kind s) gx = partOfDomain s gx := by
  unfold land leaveMesh; split <;> rfl

@[simp] theorem portUp_land (h : Head) (control : Bool) (kind : Nat) (gx : Nat) (s : State) : portUp (land h control kind s) gx = portUp s gx := by
  unfold land leaveMesh; split <;> rfl

@[simp] theorem reg_ringCount (account n : Nat) (gk gd : Nat) (s : State) : reg (ringCount account n s) gk gd = reg s gk gd := rfl

@[simp] theorem setting_ringCount (account n : Nat) (gi gs : Nat) (s : State) : setting (ringCount account n s) gi gs = setting s gi gs := rfl

@[simp] theorem getFld_ringCount (account n : Nat) (gx : Nat) (s : State) : getFld (ringCount account n s) gx = getFld s gx := rfl

@[simp] theorem holder_ringCount (account n : Nat) (gx : Nat) (s : State) : holder (ringCount account n s) gx = holder s gx := rfl

@[simp] theorem getClk_ringCount (account n : Nat) (gx : Nat) (s : State) : getClk (ringCount account n s) gx = getClk s gx := rfl

@[simp] theorem getTile_ringCount (account n : Nat) (gx : Nat) (s : State) : getTile (ringCount account n s) gx = getTile s gx := rfl

@[simp] theorem getPart_ringCount (account n : Nat) (gx : Nat) (s : State) : getPart (ringCount account n s) gx = getPart s gx := rfl

@[simp] theorem getPort_ringCount (account n : Nat) (gx : Nat) (s : State) : getPort (ringCount account n s) gx = getPort s gx := rfl

@[simp] theorem getTx_ringCount (account n : Nat) (gx gy : Nat) (s : State) : getTx (ringCount account n s) gx gy = getTx s gx gy := rfl

@[simp] theorem getRx_ringCount (account n : Nat) (gx gy : Nat) (s : State) : getRx (ringCount account n s) gx gy = getRx s gx gy := rfl

@[simp] theorem getPin_ringCount (account n : Nat) (gx : Nat) (s : State) : getPin (ringCount account n s) gx = getPin s gx := rfl

@[simp] theorem getSlots_ringCount (account n : Nat) (gx : Nat) (s : State) : getSlots (ringCount account n s) gx = getSlots s gx := rfl

@[simp] theorem now_ringCount (account n : Nat) (s : State) : now (ringCount account n s) = now s := rfl

@[simp] theorem activeCtl_ringCount (account n : Nat) (s : State) : activeCtl (ringCount account n s) = activeCtl s := rfl

@[simp] theorem nodeId_ringCount (account n : Nat) (s : State) : nodeId (ringCount account n s) = nodeId s := rfl

@[simp] theorem mgmtDomain_ringCount (account n : Nat) (s : State) : mgmtDomain (ringCount account n s) = mgmtDomain s := rfl

@[simp] theorem siteState_ringCount (account n : Nat) (gx : Nat) (s : State) : siteState (ringCount account n s) gx = siteState s gx := rfl

@[simp] theorem siteWorks_ringCount (account n : Nat) (gx : Nat) (s : State) : siteWorks (ringCount account n s) gx = siteWorks s gx := rfl

@[simp] theorem busSource_ringCount (account n : Nat) (s : State) : busSource (ringCount account n s) = busSource s := rfl

@[simp] theorem switchSource_ringCount (account n : Nat) (s : State) : switchSource (ringCount account n s) = switchSource s := rfl

@[simp] theorem hasSendKey_ringCount (account n : Nat) (gx : Nat) (s : State) : hasSendKey (ringCount account n s) gx = hasSendKey s gx := rfl

@[simp] theorem hostRoute_ringCount (account n : Nat) (gx : Nat) (s : State) : hostRoute (ringCount account n s) gx = hostRoute s gx := rfl

@[simp] theorem effectiveTarget_ringCount (account n : Nat) (gx : Nat) (s : State) : effectiveTarget (ringCount account n s) gx = effectiveTarget s gx := rfl

@[simp] theorem partOfDomain_ringCount (account n : Nat) (gx : Nat) (s : State) : partOfDomain (ringCount account n s) gx = partOfDomain s gx := rfl

@[simp] theorem portUp_ringCount (account n : Nat) (gx : Nat) (s : State) : portUp (ringCount account n s) gx = portUp s gx := rfl

@[simp] theorem reg_modPart (p : Nat) (g : Part → Part) (gk gd : Nat) (s : State) : reg (modPart p g s) gk gd = reg s gk gd := by
  simp only [reg, modPart_regs]

@[simp] theorem setting_modPart (p : Nat) (g : Part → Part) (gi gs : Nat) (s : State) : setting (modPart p g s) gi gs = setting s gi gs := by
  simp only [setting, reg, modPart_regs]

@[simp] theorem getFld_modPart (p : Nat) (g : Part → Part) (gx : Nat) (s : State) : getFld (modPart p g s) gx = getFld s gx := by
  simp only [getFld, modPart_fld]

@[simp] theorem holder_modPart (p : Nat) (g : Part → Part) (gx : Nat) (s : State) : holder (modPart p g s) gx = holder s gx := by
  simp only [holder, getFld, modPart_fld]

@[simp] theorem getClk_modPart (p : Nat) (g : Part → Part) (gx : Nat) (s : State) : getClk (modPart p g s) gx = getClk s gx := by
  simp only [getClk, modPart_clk]

@[simp] theorem getTile_modPart (p : Nat) (g : Part → Part) (gx : Nat) (s : State) : getTile (modPart p g s) gx = getTile s gx := by
  simp only [getTile, modPart_tiles]

@[simp] theorem getPort_modPart (p : Nat) (g : Part → Part) (gx : Nat) (s : State) : getPort (modPart p g s) gx = getPort s gx := by
  simp only [getPort, modPart_fabric]

@[simp] theorem getTx_modPart (p : Nat) (g : Part → Part) (gx gy : Nat) (s : State) : getTx (modPart p g s) gx gy = getTx s gx gy := by
  simp only [getTx, modPart_fabric]

@[simp] theorem getRx_modPart (p : Nat) (g : Part → Part) (gx gy : Nat) (s : State) : getRx (modPart p g s) gx gy = getRx s gx gy := by
  simp only [getRx, modPart_fabric]

@[simp] theorem getPin_modPart (p : Nat) (g : Part → Part) (gx : Nat) (s : State) : getPin (modPart p g s) gx = getPin s gx := by
  simp only [getPin, modPart_pilot]

@[simp] theorem getSlots_modPart (p : Nat) (g : Part → Part) (gx : Nat) (s : State) : getSlots (modPart p g s) gx = getSlots s gx := by
  simp only [getSlots, modPart_sec]

@[simp] theorem now_modPart (p : Nat) (g : Part → Part) (s : State) : now (modPart p g s) = now s := by
  simp only [now, modPart_time]

@[simp] theorem activeCtl_modPart (p : Nat) (g : Part → Part) (s : State) : activeCtl (modPart p g s) = activeCtl s := by
  simp only [activeCtl, modPart_lease]

@[simp] theorem nodeId_modPart (p : Nat) (g : Part → Part) (s : State) : nodeId (modPart p g s) = nodeId s := by
  simp only [nodeId, modPart_fabric]

@[simp] theorem mgmtDomain_modPart (p : Nat) (g : Part → Part) (s : State) : mgmtDomain (modPart p g s) = mgmtDomain s := by
  simp only [mgmtDomain, reg, modPart_regs]

@[simp] theorem siteState_modPart (p : Nat) (g : Part → Part) (gx : Nat) (s : State) : siteState (modPart p g s) gx = siteState s gx := by
  simp only [siteState, modPart_mesh, modPart_ident]

@[simp] theorem siteWorks_modPart (p : Nat) (g : Part → Part) (gx : Nat) (s : State) : siteWorks (modPart p g s) gx = siteWorks s gx := by
  simp only [siteWorks, siteState, modPart_mesh, modPart_ident]

@[simp] theorem busSource_modPart (p : Nat) (g : Part → Part) (s : State) : busSource (modPart p g s) = busSource s := by
  simp only [busSource, setting, reg, modPart_regs]

@[simp] theorem switchSource_modPart (p : Nat) (g : Part → Part) (s : State) : switchSource (modPart p g s) = switchSource s := by
  simp only [switchSource, setting, reg, modPart_regs]

@[simp] theorem hasSendKey_modPart (p : Nat) (g : Part → Part) (gx : Nat) (s : State) : hasSendKey (modPart p g s) gx = hasSendKey s gx := by
  simp only [hasSendKey, modPart_sec]

@[simp] theorem hostRoute_modPart (p : Nat) (g : Part → Part) (gx : Nat) (s : State) : hostRoute (modPart p g s) gx = hostRoute s gx := by
  simp only [hostRoute, reg, modPart_regs]

@[simp] theorem runningK_modPart (p : Nat) (g : Part → Part) (s : State) : runningK (modPart p g s) = runningK s := by
  simp only [runningK, modPart_power]

@[simp] theorem effectiveTarget_modPart (p : Nat) (g : Part → Part) (gx : Nat) (s : State) : effectiveTarget (modPart p g s) gx = effectiveTarget s gx :=
  effectiveTarget_congr (modPart_regs ..) (modPart_fld ..) gx

@[simp] theorem portUp_modPart (p : Nat) (g : Part → Part) (gx : Nat) (s : State) : portUp (modPart p g s) gx = portUp s gx := by
  simp only [portUp, getPort, modPart_fabric]

@[simp] theorem reg_raise (e : EvReq) (gk gd : Nat) (s : State) : reg (raise e s) gk gd = reg s gk gd := by
  simp only [reg, raise_regs]

@[simp] theorem setting_raise (e : EvReq) (gi gs : Nat) (s : State) : setting (raise e s) gi gs = setting s gi gs := by
  simp only [setting, reg, raise_regs]

@[simp] theorem getFld_raise (e : EvReq) (gx : Nat) (s : State) : getFld (raise e s) gx = getFld s gx := by
  simp only [getFld, raise_fld]

@[simp] theorem holder_raise (e : EvReq) (gx : Nat) (s : State) : holder (raise e s) gx = holder s gx := by
  simp only [holder, getFld, raise_fld]

@[simp] theorem getClk_raise (e : EvReq) (gx : Nat) (s : State) : getClk (raise e s) gx = getClk s gx := by
  simp only [getClk, raise_clk]

@[simp] theorem getTile_raise (e : EvReq) (gx : Nat) (s : State) : getTile (raise e s) gx = getTile s gx := by
  simp only [getTile, raise_tiles]

@[simp] theorem getPart_raise (e : EvReq) (gx : Nat) (s : State) : getPart (raise e s) gx = getPart s gx := by
  simp only [getPart, raise_parts]

@[simp] theorem getPort_raise (e : EvReq) (gx : Nat) (s : State) : getPort (raise e s) gx = getPort s gx := by
  simp only [getPort, raise_fabric]

@[simp] theorem getTx_raise (e : EvReq) (gx gy : Nat) (s : State) : getTx (raise e s) gx gy = getTx s gx gy := by
  simp only [getTx, raise_fabric]

@[simp] theorem getRx_raise (e : EvReq) (gx gy : Nat) (s : State) : getRx (raise e s) gx gy = getRx s gx gy := by
  simp only [getRx, raise_fabric]

@[simp] theorem getPin_raise (e : EvReq) (gx : Nat) (s : State) : getPin (raise e s) gx = getPin s gx := by
  simp only [getPin, raise_pilot]

@[simp] theorem getSlots_raise (e : EvReq) (gx : Nat) (s : State) : getSlots (raise e s) gx = getSlots s gx := by
  simp only [getSlots, raise_sec]

@[simp] theorem now_raise (e : EvReq) (s : State) : now (raise e s) = now s := by
  simp only [now, raise_time]

@[simp] theorem activeCtl_raise (e : EvReq) (s : State) : activeCtl (raise e s) = activeCtl s := by
  simp only [activeCtl, raise_lease]

@[simp] theorem nodeId_raise (e : EvReq) (s : State) : nodeId (raise e s) = nodeId s := by
  simp only [nodeId, raise_fabric]

@[simp] theorem mgmtDomain_raise (e : EvReq) (s : State) : mgmtDomain (raise e s) = mgmtDomain s := by
  simp only [mgmtDomain, reg, raise_regs]

@[simp] theorem siteState_raise (e : EvReq) (gx : Nat) (s : State) : siteState (raise e s) gx = siteState s gx := by
  simp only [siteState, raise_mesh, raise_ident]

@[simp] theorem siteWorks_raise (e : EvReq) (gx : Nat) (s : State) : siteWorks (raise e s) gx = siteWorks s gx := by
  simp only [siteWorks, siteState, raise_mesh, raise_ident]

@[simp] theorem busSource_raise (e : EvReq) (s : State) : busSource (raise e s) = busSource s := by
  simp only [busSource, setting, reg, raise_regs]

@[simp] theorem switchSource_raise (e : EvReq) (s : State) : switchSource (raise e s) = switchSource s := by
  simp only [switchSource, setting, reg, raise_regs]

@[simp] theorem hasSendKey_raise (e : EvReq) (gx : Nat) (s : State) : hasSendKey (raise e s) gx = hasSendKey s gx := by
  simp only [hasSendKey, raise_sec]

@[simp] theorem hostRoute_raise (e : EvReq) (gx : Nat) (s : State) : hostRoute (raise e s) gx = hostRoute s gx := by
  simp only [hostRoute, reg, raise_regs]

@[simp] theorem runningK_raise (e : EvReq) (s : State) : runningK (raise e s) = runningK s := by
  simp only [runningK, raise_power]

@[simp] theorem effectiveTarget_raise (e : EvReq) (gx : Nat) (s : State) : effectiveTarget (raise e s) gx = effectiveTarget s gx :=
  effectiveTarget_congr (raise_regs ..) (raise_fld ..) gx

@[simp] theorem partOfDomain_raise (e : EvReq) (gx : Nat) (s : State) : partOfDomain (raise e s) gx = partOfDomain s gx := by
  simp only [partOfDomain, raise_parts]

@[simp] theorem portUp_raise (e : EvReq) (gx : Nat) (s : State) : portUp (raise e s) gx = portUp s gx := by
  simp only [portUp, getPort, raise_fabric]

@[simp] theorem reg_advanceTo (t : Nat) (gk gd : Nat) (s : State) : reg (advanceTo t s) gk gd = reg s gk gd := by
  simp only [reg, advanceTo_regs]

@[simp] theorem setting_advanceTo (t : Nat) (gi gs : Nat) (s : State) : setting (advanceTo t s) gi gs = setting s gi gs := by
  simp only [setting, reg, advanceTo_regs]

@[simp] theorem getFld_advanceTo (t : Nat) (gx : Nat) (s : State) : getFld (advanceTo t s) gx = getFld s gx := by
  simp only [getFld, advanceTo_fld]

@[simp] theorem holder_advanceTo (t : Nat) (gx : Nat) (s : State) : holder (advanceTo t s) gx = holder s gx := by
  simp only [holder, getFld, advanceTo_fld]

@[simp] theorem getClk_advanceTo (t : Nat) (gx : Nat) (s : State) : getClk (advanceTo t s) gx = getClk s gx := by
  simp only [getClk, advanceTo_clk]

@[simp] theorem getTile_advanceTo (t : Nat) (gx : Nat) (s : State) : getTile (advanceTo t s) gx = getTile s gx := by
  simp only [getTile, advanceTo_tiles]

@[simp] theorem getPart_advanceTo (t : Nat) (gx : Nat) (s : State) : getPart (advanceTo t s) gx = getPart s gx := by
  simp only [getPart, advanceTo_parts]

@[simp] theorem getPort_advanceTo (t : Nat) (gx : Nat) (s : State) : getPort (advanceTo t s) gx = getPort s gx := by
  simp only [getPort, advanceTo_fabric]

@[simp] theorem getTx_advanceTo (t : Nat) (gx gy : Nat) (s : State) : getTx (advanceTo t s) gx gy = getTx s gx gy := by
  simp only [getTx, advanceTo_fabric]

@[simp] theorem getRx_advanceTo (t : Nat) (gx gy : Nat) (s : State) : getRx (advanceTo t s) gx gy = getRx s gx gy := by
  simp only [getRx, advanceTo_fabric]

@[simp] theorem getSlots_advanceTo (t : Nat) (gx : Nat) (s : State) : getSlots (advanceTo t s) gx = getSlots s gx := by
  simp only [getSlots, advanceTo_sec]

@[simp] theorem activeCtl_advanceTo (t : Nat) (s : State) : activeCtl (advanceTo t s) = activeCtl s := by
  simp only [activeCtl, advanceTo_lease]

@[simp] theorem nodeId_advanceTo (t : Nat) (s : State) : nodeId (advanceTo t s) = nodeId s := by
  simp only [nodeId, advanceTo_fabric]

@[simp] theorem mgmtDomain_advanceTo (t : Nat) (s : State) : mgmtDomain (advanceTo t s) = mgmtDomain s := by
  simp only [mgmtDomain, reg, advanceTo_regs]

@[simp] theorem siteState_advanceTo (t : Nat) (gx : Nat) (s : State) : siteState (advanceTo t s) gx = siteState s gx := by
  simp only [siteState, advanceTo_mesh, advanceTo_ident]

@[simp] theorem siteWorks_advanceTo (t : Nat) (gx : Nat) (s : State) : siteWorks (advanceTo t s) gx = siteWorks s gx := by
  simp only [siteWorks, siteState, advanceTo_mesh, advanceTo_ident]

@[simp] theorem busSource_advanceTo (t : Nat) (s : State) : busSource (advanceTo t s) = busSource s := by
  simp only [busSource, setting, reg, advanceTo_regs]

@[simp] theorem switchSource_advanceTo (t : Nat) (s : State) : switchSource (advanceTo t s) = switchSource s := by
  simp only [switchSource, setting, reg, advanceTo_regs]

@[simp] theorem hasSendKey_advanceTo (t : Nat) (gx : Nat) (s : State) : hasSendKey (advanceTo t s) gx = hasSendKey s gx := by
  simp only [hasSendKey, advanceTo_sec]

@[simp] theorem hostRoute_advanceTo (t : Nat) (gx : Nat) (s : State) : hostRoute (advanceTo t s) gx = hostRoute s gx := by
  simp only [hostRoute, reg, advanceTo_regs]

@[simp] theorem runningK_advanceTo (t : Nat) (s : State) : runningK (advanceTo t s) = runningK s := by
  simp only [runningK, advanceTo_power]

@[simp] theorem effectiveTarget_advanceTo (t : Nat) (gx : Nat) (s : State) : effectiveTarget (advanceTo t s) gx = effectiveTarget s gx :=
  effectiveTarget_congr (advanceTo_regs ..) (advanceTo_fld ..) gx

@[simp] theorem partOfDomain_advanceTo (t : Nat) (gx : Nat) (s : State) : partOfDomain (advanceTo t s) gx = partOfDomain s gx := by
  simp only [partOfDomain, advanceTo_parts]

@[simp] theorem portUp_advanceTo (t : Nat) (gx : Nat) (s : State) : portUp (advanceTo t s) gx = portUp s gx := by
  simp only [portUp, getPort, advanceTo_fabric]

@[simp] theorem reg_enqueue (p : Packet) (gk gd : Nat) (s : State) : reg (enqueue p s) gk gd = reg s gk gd := by
  simp only [reg, enqueue_regs]

@[simp] theorem setting_enqueue (p : Packet) (gi gs : Nat) (s : State) : setting (enqueue p s) gi gs = setting s gi gs := by
  simp only [setting, reg, enqueue_regs]

@[simp] theorem getFld_enqueue (p : Packet) (gx : Nat) (s : State) : getFld (enqueue p s) gx = getFld s gx := by
  simp only [getFld, enqueue_fld]

@[simp] theorem holder_enqueue (p : Packet) (gx : Nat) (s : State) : holder (enqueue p s) gx = holder s gx := by
  simp only [holder, getFld, enqueue_fld]

@[simp] theorem getClk_enqueue (p : Packet) (gx : Nat) (s : State) : getClk (enqueue p s) gx = getClk s gx := by
  simp only [getClk, enqueue_clk]

@[simp] theorem getTile_enqueue (p : Packet) (gx : Nat) (s : State) : getTile (enqueue p s) gx = getTile s gx := by
  simp only [getTile, enqueue_tiles]

@[simp] theorem getPart_enqueue (p : Packet) (gx : Nat) (s : State) : getPart (enqueue p s) gx = getPart s gx := by
  simp only [getPart, enqueue_parts]

@[simp] theorem getPin_enqueue (p : Packet) (gx : Nat) (s : State) : getPin (enqueue p s) gx = getPin s gx := by
  simp only [getPin, enqueue_pilot]

@[simp] theorem getSlots_enqueue (p : Packet) (gx : Nat) (s : State) : getSlots (enqueue p s) gx = getSlots s gx := by
  simp only [getSlots, enqueue_sec]

@[simp] theorem now_enqueue (p : Packet) (s : State) : now (enqueue p s) = now s := by
  simp only [now, enqueue_time]

@[simp] theorem activeCtl_enqueue (p : Packet) (s : State) : activeCtl (enqueue p s) = activeCtl s := by
  simp only [activeCtl, enqueue_lease]

@[simp] theorem nodeId_enqueue (p : Packet) (s : State) : nodeId (enqueue p s) = nodeId s := by
  unfold nodeId enqueue
  split
  · simp
  · rfl

@[simp] theorem mgmtDomain_enqueue (p : Packet) (s : State) : mgmtDomain (enqueue p s) = mgmtDomain s := by
  simp only [mgmtDomain, reg, enqueue_regs]

@[simp] theorem siteState_enqueue (p : Packet) (gx : Nat) (s : State) : siteState (enqueue p s) gx = siteState s gx := by
  simp only [siteState, enqueue_mesh, enqueue_ident]

@[simp] theorem siteWorks_enqueue (p : Packet) (gx : Nat) (s : State) : siteWorks (enqueue p s) gx = siteWorks s gx := by
  simp only [siteWorks, siteState, enqueue_mesh, enqueue_ident]

@[simp] theorem busSource_enqueue (p : Packet) (s : State) : busSource (enqueue p s) = busSource s := by
  simp only [busSource, setting, reg, enqueue_regs]

@[simp] theorem switchSource_enqueue (p : Packet) (s : State) : switchSource (enqueue p s) = switchSource s := by
  simp only [switchSource, setting, reg, enqueue_regs]

@[simp] theorem hasSendKey_enqueue (p : Packet) (gx : Nat) (s : State) : hasSendKey (enqueue p s) gx = hasSendKey s gx := by
  simp only [hasSendKey, enqueue_sec]

@[simp] theorem hostRoute_enqueue (p : Packet) (gx : Nat) (s : State) : hostRoute (enqueue p s) gx = hostRoute s gx := by
  simp only [hostRoute, reg, enqueue_regs]

@[simp] theorem runningK_enqueue (p : Packet) (s : State) : runningK (enqueue p s) = runningK s := by
  simp only [runningK, enqueue_power]

@[simp] theorem effectiveTarget_enqueue (p : Packet) (gx : Nat) (s : State) : effectiveTarget (enqueue p s) gx = effectiveTarget s gx :=
  effectiveTarget_congr (enqueue_regs ..) (enqueue_fld ..) gx

@[simp] theorem partOfDomain_enqueue (p : Packet) (gx : Nat) (s : State) : partOfDomain (enqueue p s) gx = partOfDomain s gx := by
  simp only [partOfDomain, enqueue_parts]

@[simp] theorem reg_sendPkt (node domain opcode : Nat) (data : List Byte) (gk gd : Nat) (s : State) : reg (sendPkt node domain opcode data s) gk gd = reg s gk gd := by
  simp only [reg, sendPkt_regs]

@[simp] theorem setting_sendPkt (node domain opcode : Nat) (data : List Byte) (gi gs : Nat) (s : State) : setting (sendPkt node domain opcode data s) gi gs = setting s gi gs := by
  simp only [setting, reg, sendPkt_regs]

@[simp] theorem getFld_sendPkt (node domain opcode : Nat) (data : List Byte) (gx : Nat) (s : State) : getFld (sendPkt node domain opcode data s) gx = getFld s gx := by
  simp only [getFld, sendPkt_fld]

@[simp] theorem holder_sendPkt (node domain opcode : Nat) (data : List Byte) (gx : Nat) (s : State) : holder (sendPkt node domain opcode data s) gx = holder s gx := by
  simp only [holder, getFld, sendPkt_fld]

@[simp] theorem getClk_sendPkt (node domain opcode : Nat) (data : List Byte) (gx : Nat) (s : State) : getClk (sendPkt node domain opcode data s) gx = getClk s gx := by
  simp only [getClk, sendPkt_clk]

@[simp] theorem getTile_sendPkt (node domain opcode : Nat) (data : List Byte) (gx : Nat) (s : State) : getTile (sendPkt node domain opcode data s) gx = getTile s gx := by
  simp only [getTile, sendPkt_tiles]

@[simp] theorem getPart_sendPkt (node domain opcode : Nat) (data : List Byte) (gx : Nat) (s : State) : getPart (sendPkt node domain opcode data s) gx = getPart s gx := by
  simp only [getPart, sendPkt_parts]

@[simp] theorem getPin_sendPkt (node domain opcode : Nat) (data : List Byte) (gx : Nat) (s : State) : getPin (sendPkt node domain opcode data s) gx = getPin s gx := by
  simp only [getPin, sendPkt_pilot]

@[simp] theorem getSlots_sendPkt (node domain opcode : Nat) (data : List Byte) (gx : Nat) (s : State) : getSlots (sendPkt node domain opcode data s) gx = getSlots s gx := by
  simp only [getSlots, sendPkt_sec]

@[simp] theorem now_sendPkt (node domain opcode : Nat) (data : List Byte) (s : State) : now (sendPkt node domain opcode data s) = now s := by
  simp only [now, sendPkt_time]

@[simp] theorem activeCtl_sendPkt (node domain opcode : Nat) (data : List Byte) (s : State) : activeCtl (sendPkt node domain opcode data s) = activeCtl s := by
  simp only [activeCtl, sendPkt_lease]

@[simp] theorem nodeId_sendPkt (node domain opcode : Nat) (data : List Byte) (s : State) : nodeId (sendPkt node domain opcode data s) = nodeId s := by
  exact nodeId_enqueue ..

@[simp] theorem mgmtDomain_sendPkt (node domain opcode : Nat) (data : List Byte) (s : State) : mgmtDomain (sendPkt node domain opcode data s) = mgmtDomain s := by
  simp only [mgmtDomain, reg, sendPkt_regs]

@[simp] theorem siteState_sendPkt (node domain opcode : Nat) (data : List Byte) (gx : Nat) (s : State) : siteState (sendPkt node domain opcode data s) gx = siteState s gx := by
  simp only [siteState, sendPkt_mesh, sendPkt_ident]

@[simp] theorem siteWorks_sendPkt (node domain opcode : Nat) (data : List Byte) (gx : Nat) (s : State) : siteWorks (sendPkt node domain opcode data s) gx = siteWorks s gx := by
  simp only [siteWorks, siteState, sendPkt_mesh, sendPkt_ident]

@[simp] theorem busSource_sendPkt (node domain opcode : Nat) (data : List Byte) (s : State) : busSource (sendPkt node domain opcode data s) = busSource s := by
  simp only [busSource, setting, reg, sendPkt_regs]

@[simp] theorem switchSource_sendPkt (node domain opcode : Nat) (data : List Byte) (s : State) : switchSource (sendPkt node domain opcode data s) = switchSource s := by
  simp only [switchSource, setting, reg, sendPkt_regs]

@[simp] theorem hasSendKey_sendPkt (node domain opcode : Nat) (data : List Byte) (gx : Nat) (s : State) : hasSendKey (sendPkt node domain opcode data s) gx = hasSendKey s gx := by
  simp only [hasSendKey, sendPkt_sec]

@[simp] theorem hostRoute_sendPkt (node domain opcode : Nat) (data : List Byte) (gx : Nat) (s : State) : hostRoute (sendPkt node domain opcode data s) gx = hostRoute s gx := by
  simp only [hostRoute, reg, sendPkt_regs]

@[simp] theorem runningK_sendPkt (node domain opcode : Nat) (data : List Byte) (s : State) : runningK (sendPkt node domain opcode data s) = runningK s := by
  simp only [runningK, sendPkt_power]

@[simp] theorem effectiveTarget_sendPkt (node domain opcode : Nat) (data : List Byte) (gx : Nat) (s : State) : effectiveTarget (sendPkt node domain opcode data s) gx = effectiveTarget s gx :=
  effectiveTarget_congr (sendPkt_regs ..) (sendPkt_fld ..) gx

@[simp] theorem partOfDomain_sendPkt (node domain opcode : Nat) (data : List Byte) (gx : Nat) (s : State) : partOfDomain (sendPkt node domain opcode data s) gx = partOfDomain s gx := by
  simp only [partOfDomain, sendPkt_parts]

@[simp] theorem reg_sdoReply (code : Nat) (data : List Byte) (gk gd : Nat) (s : State) : reg (sdoReply code data s) gk gd = reg s gk gd := rfl

@[simp] theorem setting_sdoReply (code : Nat) (data : List Byte) (gi gs : Nat) (s : State) : setting (sdoReply code data s) gi gs = setting s gi gs := rfl

@[simp] theorem getFld_sdoReply (code : Nat) (data : List Byte) (gx : Nat) (s : State) : getFld (sdoReply code data s) gx = getFld s gx := rfl

@[simp] theorem holder_sdoReply (code : Nat) (data : List Byte) (gx : Nat) (s : State) : holder (sdoReply code data s) gx = holder s gx := rfl

@[simp] theorem getClk_sdoReply (code : Nat) (data : List Byte) (gx : Nat) (s : State) : getClk (sdoReply code data s) gx = getClk s gx := rfl

@[simp] theorem getTile_sdoReply (code : Nat) (data : List Byte) (gx : Nat) (s : State) : getTile (sdoReply code data s) gx = getTile s gx := rfl

@[simp] theorem getPart_sdoReply (code : Nat) (data : List Byte) (gx : Nat) (s : State) : getPart (sdoReply code data s) gx = getPart s gx := rfl

@[simp] theorem getPort_sdoReply (code : Nat) (data : List Byte) (gx : Nat) (s : State) : getPort (sdoReply code data s) gx = getPort s gx := rfl

@[simp] theorem getTx_sdoReply (code : Nat) (data : List Byte) (gx gy : Nat) (s : State) : getTx (sdoReply code data s) gx gy = getTx s gx gy := rfl

@[simp] theorem getRx_sdoReply (code : Nat) (data : List Byte) (gx gy : Nat) (s : State) : getRx (sdoReply code data s) gx gy = getRx s gx gy := rfl

@[simp] theorem getSlots_sdoReply (code : Nat) (data : List Byte) (gx : Nat) (s : State) : getSlots (sdoReply code data s) gx = getSlots s gx := rfl

@[simp] theorem now_sdoReply (code : Nat) (data : List Byte) (s : State) : now (sdoReply code data s) = now s := rfl

@[simp] theorem activeCtl_sdoReply (code : Nat) (data : List Byte) (s : State) : activeCtl (sdoReply code data s) = activeCtl s := rfl

@[simp] theorem nodeId_sdoReply (code : Nat) (data : List Byte) (s : State) : nodeId (sdoReply code data s) = nodeId s := rfl

@[simp] theorem mgmtDomain_sdoReply (code : Nat) (data : List Byte) (s : State) : mgmtDomain (sdoReply code data s) = mgmtDomain s := rfl

@[simp] theorem siteState_sdoReply (code : Nat) (data : List Byte) (gx : Nat) (s : State) : siteState (sdoReply code data s) gx = siteState s gx := rfl

@[simp] theorem siteWorks_sdoReply (code : Nat) (data : List Byte) (gx : Nat) (s : State) : siteWorks (sdoReply code data s) gx = siteWorks s gx := rfl

@[simp] theorem busSource_sdoReply (code : Nat) (data : List Byte) (s : State) : busSource (sdoReply code data s) = busSource s := rfl

@[simp] theorem switchSource_sdoReply (code : Nat) (data : List Byte) (s : State) : switchSource (sdoReply code data s) = switchSource s := rfl

@[simp] theorem hasSendKey_sdoReply (code : Nat) (data : List Byte) (gx : Nat) (s : State) : hasSendKey (sdoReply code data s) gx = hasSendKey s gx := rfl

@[simp] theorem hostRoute_sdoReply (code : Nat) (data : List Byte) (gx : Nat) (s : State) : hostRoute (sdoReply code data s) gx = hostRoute s gx := rfl

@[simp] theorem runningK_sdoReply (code : Nat) (data : List Byte) (s : State) : runningK (sdoReply code data s) = runningK s := rfl

@[simp] theorem effectiveTarget_sdoReply (code : Nat) (data : List Byte) (gx : Nat) (s : State) : effectiveTarget (sdoReply code data s) gx = effectiveTarget s gx := rfl

@[simp] theorem partOfDomain_sdoReply (code : Nat) (data : List Byte) (gx : Nat) (s : State) : partOfDomain (sdoReply code data s) gx = partOfDomain s gx := rfl

@[simp] theorem portUp_sdoReply (code : Nat) (data : List Byte) (gx : Nat) (s : State) : portUp (sdoReply code data s) gx = portUp s gx := rfl

@[simp] theorem reg_modCtl (c : Ctl) (f : CtlS → CtlS) (gk gd : Nat) (s : State) : reg (modCtl c f s) gk gd = reg s gk gd := by
  simp only [reg, modCtl_regs]

@[simp] theorem setting_modCtl (c : Ctl) (f : CtlS → CtlS) (gi gs : Nat) (s : State) : setting (modCtl c f s) gi gs = setting s gi gs := by
  simp only [setting, reg, modCtl_regs]

@[simp] theorem getFld_modCtl (c : Ctl) (f : CtlS → CtlS) (gx : Nat) (s : State) : getFld (modCtl c f s) gx = getFld s gx := by
  simp only [getFld, modCtl_fld]

@[simp] theorem holder_modCtl (c : Ctl) (f : CtlS → CtlS) (gx : Nat) (s : State) : holder (modCtl c f s) gx = holder s gx := by
  simp only [holder, getFld, modCtl_fld]

@[simp] theorem getClk_modCtl (c : Ctl) (f : CtlS → CtlS) (gx : Nat) (s : State) : getClk (modCtl c f s) gx = getClk s gx := by
  simp only [getClk, modCtl_clk]

@[simp] theorem getTile_modCtl (c : Ctl) (f : CtlS → CtlS) (gx : Nat) (s : State) : getTile (modCtl c f s) gx = getTile s gx := by
  simp only [getTile, modCtl_tiles]

@[simp] theorem getPart_modCtl (c : Ctl) (f : CtlS → CtlS) (gx : Nat) (s : State) : getPart (modCtl c f s) gx = getPart s gx := by
  simp only [getPart, modCtl_parts]

@[simp] theorem getPort_modCtl (c : Ctl) (f : CtlS → CtlS) (gx : Nat) (s : State) : getPort (modCtl c f s) gx = getPort s gx := by
  simp only [getPort, modCtl_fabric]

@[simp] theorem getTx_modCtl (c : Ctl) (f : CtlS → CtlS) (gx gy : Nat) (s : State) : getTx (modCtl c f s) gx gy = getTx s gx gy := by
  simp only [getTx, modCtl_fabric]

@[simp] theorem getRx_modCtl (c : Ctl) (f : CtlS → CtlS) (gx gy : Nat) (s : State) : getRx (modCtl c f s) gx gy = getRx s gx gy := by
  simp only [getRx, modCtl_fabric]

@[simp] theorem getPin_modCtl (c : Ctl) (f : CtlS → CtlS) (gx : Nat) (s : State) : getPin (modCtl c f s) gx = getPin s gx := by
  simp only [getPin, modCtl_pilot]

@[simp] theorem getSlots_modCtl (c : Ctl) (f : CtlS → CtlS) (gx : Nat) (s : State) : getSlots (modCtl c f s) gx = getSlots s gx := by
  simp only [getSlots, modCtl_sec]

@[simp] theorem now_modCtl (c : Ctl) (f : CtlS → CtlS) (s : State) : now (modCtl c f s) = now s := by
  simp only [now, modCtl_time]

@[simp] theorem activeCtl_modCtl (c : Ctl) (f : CtlS → CtlS) (s : State) : activeCtl (modCtl c f s) = activeCtl s := by
  simp only [activeCtl, modCtl_lease]

@[simp] theorem nodeId_modCtl (c : Ctl) (f : CtlS → CtlS) (s : State) : nodeId (modCtl c f s) = nodeId s := by
  simp only [nodeId, modCtl_fabric]

@[simp] theorem mgmtDomain_modCtl (c : Ctl) (f : CtlS → CtlS) (s : State) : mgmtDomain (modCtl c f s) = mgmtDomain s := by
  simp only [mgmtDomain, reg, modCtl_regs]

@[simp] theorem siteState_modCtl (c : Ctl) (f : CtlS → CtlS) (gx : Nat) (s : State) : siteState (modCtl c f s) gx = siteState s gx := by
  simp only [siteState, modCtl_mesh, modCtl_ident]

@[simp] theorem siteWorks_modCtl (c : Ctl) (f : CtlS → CtlS) (gx : Nat) (s : State) : siteWorks (modCtl c f s) gx = siteWorks s gx := by
  simp only [siteWorks, siteState, modCtl_mesh, modCtl_ident]

@[simp] theorem busSource_modCtl (c : Ctl) (f : CtlS → CtlS) (s : State) : busSource (modCtl c f s) = busSource s := by
  simp only [busSource, setting, reg, modCtl_regs]

@[simp] theorem switchSource_modCtl (c : Ctl) (f : CtlS → CtlS) (s : State) : switchSource (modCtl c f s) = switchSource s := by
  simp only [switchSource, setting, reg, modCtl_regs]

@[simp] theorem hasSendKey_modCtl (c : Ctl) (f : CtlS → CtlS) (gx : Nat) (s : State) : hasSendKey (modCtl c f s) gx = hasSendKey s gx := by
  simp only [hasSendKey, modCtl_sec]

@[simp] theorem hostRoute_modCtl (c : Ctl) (f : CtlS → CtlS) (gx : Nat) (s : State) : hostRoute (modCtl c f s) gx = hostRoute s gx := by
  simp only [hostRoute, reg, modCtl_regs]

@[simp] theorem runningK_modCtl (c : Ctl) (f : CtlS → CtlS) (s : State) : runningK (modCtl c f s) = runningK s := by
  simp only [runningK, modCtl_power]

@[simp] theorem effectiveTarget_modCtl (c : Ctl) (f : CtlS → CtlS) (gx : Nat) (s : State) : effectiveTarget (modCtl c f s) gx = effectiveTarget s gx :=
  effectiveTarget_congr (modCtl_regs ..) (modCtl_fld ..) gx

@[simp] theorem partOfDomain_modCtl (c : Ctl) (f : CtlS → CtlS) (gx : Nat) (s : State) : partOfDomain (modCtl c f s) gx = partOfDomain s gx := by
  simp only [partOfDomain, modCtl_parts]

@[simp] theorem portUp_modCtl (c : Ctl) (f : CtlS → CtlS) (gx : Nat) (s : State) : portUp (modCtl c f s) gx = portUp s gx := by
  simp only [portUp, getPort, modCtl_fabric]

@[simp] theorem getPort_modTx (node domain : Nat) (g : FlowTx → FlowTx) (gx : Nat) (s : State) : getPort (modTx node domain g s) gx = getPort s gx := rfl

@[simp] theorem portUp_modTx (node domain : Nat) (g : FlowTx → FlowTx) (gx : Nat) (s : State) : portUp (modTx node domain g s) gx = portUp s gx := rfl

@[simp] theorem getRx_modTx (node domain : Nat) (g : FlowTx → FlowTx) (gx gy : Nat) (s : State) : getRx (modTx node domain g s) gx gy = getRx s gx gy := rfl

@[simp] theorem getPort_modRx (node domain : Nat) (g : FlowRx → FlowRx) (gx : Nat) (s : State) : getPort (modRx node domain g s) gx = getPort s gx := rfl

@[simp] theorem portUp_modRx (node domain : Nat) (g : FlowRx → FlowRx) (gx : Nat) (s : State) : portUp (modRx node domain g s) gx = portUp s gx := rfl

@[simp] theorem getTx_modRx (node domain : Nat) (g : FlowRx → FlowRx) (gx gy : Nat) (s : State) : getTx (modRx node domain g s) gx gy = getTx s gx gy := rfl

@[simp] theorem getTx_modPort (i : Nat) (g : Port → Port) (gx gy : Nat) (s : State) : getTx (modPort i g s) gx gy = getTx s gx gy := rfl

@[simp] theorem getRx_modPort (i : Nat) (g : Port → Port) (gx gy : Nat) (s : State) : getRx (modPort i g s) gx gy = getRx s gx gy := rfl

@[simp] theorem getPort_sendPkt (node domain opcode : Nat) (data : List Byte) (x : Nat) (s : State) :
    getPort (sendPkt node domain opcode data s) x = getPort s x := by
  unfold sendPkt enqueue
  split
  · simp [getPort]
  · rfl

@[simp] theorem portUp_sendPkt (node domain opcode : Nat) (data : List Byte) (x : Nat) (s : State) :
    portUp (sendPkt node domain opcode data s) x = portUp s x := by
  unfold sendPkt enqueue
  split
  · simp [getPort, portUp]
  · rfl

end Sys2Proof.Machine
end

