-- ==== Sys2Proof/Laws/Time.lean ====
section
/-! SUPPORT. How far the reference runs, and when the power-up sequence stands still. -/

namespace Sys2Proof.Machine

-- One proof at a time, so that few threads hold memory.
set_option Elab.async false

@[simp] theorem addCycles_refCycles (n : Nat) (s : State) : (addCycles n s).time.refCycles = s.time.refCycles + n := rfl

@[simp] theorem addCycles_ref (n : Nat) (s : State) : (addCycles n s).time.ref = s.time.ref := rfl

/-- The time depends on the reference cycles alone. -/
theorem now_congr {s t : State} (h : s.time.refCycles = t.time.refCycles) : now s = now t := by
  unfold now
  rw [h]

theorem now_addCycles (n : Nat) (s : State) : now (addCycles n s) = now s + n * 64 := by
  simp only [now, addCycles_refCycles]
  omega

/-- The time after running on to it is not before it, nor before the time at the start. -/
theorem now_advanceTo (t : Nat) (s : State) : t ≤ now (advanceTo t s) ∧ now s ≤ now (advanceTo t s) := by
  unfold advanceTo
  rw [now_addCycles]
  omega

@[simp] theorem advanceTo_ref (t : Nat) (s : State) : (advanceTo t s).time.ref = s.time.ref := by
  cases s
  rfl

@[simp] theorem advanceTo_regaining (t : Nat) (s : State) : (advanceTo t s).time.regaining = s.time.regaining := by
  cases s
  rfl

@[simp] theorem advanceTo_frameTod (t : Nat) (s : State) : (advanceTo t s).time.frameTod = s.time.frameTod := by
  cases s
  rfl

@[simp] theorem advanceTo_ticks (t : Nat) (s : State) : (advanceTo t s).time.ticks = s.time.ticks := by
  cases s
  rfl

@[simp] theorem advanceTo_lastTick (t : Nat) (s : State) : (advanceTo t s).time.lastTick = s.time.lastTick := by
  cases s
  rfl

@[simp] theorem advanceTo_step (t : Nat) (s : State) : (advanceTo t s).pilot.step = s.pilot.step := by
  cases s
  rfl

/-- Cycles after running on to a time that is a whole number of cycles. -/
theorem refCycles_advanceTo (n : Nat) (s : State) : n ≤ (advanceTo (n * 64) s).time.refCycles := by
  have h := (now_advanceTo (n * 64) s).1
  simp only [now] at h
  omega

/-! ## The power-up sequence -/

theorem upLoop_next {n : Nat} {s t : State} (h : upStep s = some t) : upLoop (n + 1) s = upLoop n t := by
  conv => lhs; unfold upLoop
  rw [h]

theorem upLoop_stop {n : Nat} {s : State} (h : upStep s = none) (h6 : s.pilot.step ≠ 6) : upLoop n s = s := by
  cases n with
  | zero => rfl
  | succ n =>
    unfold upLoop
    rw [h]
    simp [h6]

/-- With no step to take the sequence stands. -/
theorem advanceUp_idle {s : State} (h : upStep s = none) (h6 : s.pilot.step ≠ 6) : advanceUp s = s := upLoop_stop h h6

/-- One step of the sequence is taken, and then it stands. -/
theorem advanceUp_once {s t : State} (h : upStep s = some t) (h2 : upStep t = none) (h6 : t.pilot.step ≠ 6) : advanceUp s = t :=
  (upLoop_next h).trans (upLoop_stop h2 h6)

/-- A wafer that is up, asleep before power-up or in step 8 waits. -/
theorem advanceUp_waits {s : State} (h : s.pilot.step = 0 ∨ s.pilot.step = 8 ∨ s.pilot.step ≥ 12) : advanceUp s = s := by
  refine advanceUp_idle ?_ (by omega)
  unfold upStep
  split <;> first | omega | rfl

theorem advanceUp_up {s : State} (h : s.pilot.step = 12) : advanceUp s = s := advanceUp_waits (by omega)

end Sys2Proof.Machine
end

