-- ==== Sys2Proof/WellFormed.lean ====
section
/-!
DEFINITION. When the operands of a command lie within the fields that the spec gives them. Meanings are total and need no
such premise; the check says which terms stand for something that can be sent to the part.
-/

namespace Sys2Proof

/-- A tile site of R34. -/
def siteOk (x y : Nat) : Bool := x < 288 && y < 280

/-- A field index of R35, which is also a partition ID (R36). -/
def fieldOk (f : Nat) : Bool := f < 56

/-- An edge port index of R37. -/
def portOk (p : Nat) : Bool := p < 64

/-- A node ID of R38. -/
def nodeOk (n : Nat) : Bool := n < 16384

/-- A partition domain of R39. -/
def domainOk (d : Nat) : Bool := d < 64

/-- The cell named has a slot of R22, and its coordinates fit the 9-bit fields of R178. -/
def cellOk (c : CellRef) : Bool := c.x < 512 && c.y < 512 && c.slot < 4

/-- A mesh header whose fields fit R178 and R181. -/
def headOk (h : Head) : Bool := cellOk h.src && cellOk h.dst && h.target < 32 && domainOk h.domain

/-- A packet whose header fields fit R247, R258 and R267. -/
def pktOk (p : Pkt) : Bool := portOk p.port && nodeOk p.node && domainOk p.domain && p.slot < 4

/-- A command prefix whose partition is an ID or 0xFF (R170, R414). -/
def hdrOk (h : Hdr) : Bool := h.part < 256

/-- The path of an object write. -/
def viaOk : Via → Bool
  | .sdo => true
  | .fabric p h => pktOk p && hdrOk h

/-- A counter message whose fields fit R222. -/
def ctrMsgOk (m : CtrMsg) : Bool := m.index < 16384 && cellOk m.retCell && m.retTarget < 32

/-- A watch message whose fields fit R226. -/
def watchMsgOk (m : WatchMsg) : Bool := m.index < 16384 && cellOk m.tgtCell && m.tgtTarget < 32

/-- A counter reference whose fields fit R235. -/
def ctrRefOk (c : CtrRef) : Bool := c.x < 65536 && c.y < 65536 && c.index < 65536

/-- A memory command whose fields fit R292. -/
def memCmdOk (m : MemCmd) : Bool := m.len < 2 ^ 32 && m.size < 4 && m.ty < 4 && m.ctrIndex < 16384

/-- A packet in transit whose fields fit R247 to R249. -/
def transitOk (x : TransitPkt) : Bool :=
  nodeOk x.dst && nodeOk x.src && domainOk x.domain && x.opcode < 256 && x.slot < 4 && x.len ≤ 4096 && x.vc < 4 && x.hops < 16 &&
  x.body.length == (if x.vc % 2 = 1 then x.len + 16 else 44)

/-- An opcode that no row of its own takes: reserved by its chapter or owned by none, or sent by devices alone (R171, R235, R251, R272,
R292, R414). -/
def opcodeOk (op : Nat) : Bool :=
  op == 0 || (0x07 ≤ op && op ≤ 0x1D) || (0x2C ≤ op && op ≤ 0x3F) || (0x4B ≤ op && op ≤ 0x4F) || (0x55 ≤ op && op ≤ 0x5F) ||
  (0x69 ≤ op && op < 256)

/-- A unit that R251 or an opcode table turns away. -/
def reservedOk : ReservedUnit → Bool
  | .unit port _ _ => portOk port
  | .command p h op => pktOk p && hdrOk h && opcodeOk op

/-- A sub-operand that an OBJECT or SDO access carries: index and subindex of 16 and 8 bits (R397). -/
def objOk (index sub : Nat) : Bool := index < 65536 && sub < 256

/-- The operands of a command lie within the fields that the spec gives them. -/
def Instr.wf : Instr → Bool
  | .token h rows cols => headOk h && rows < 65536 && cols < 65536
  | .tuple h words => headOk h && 1 ≤ words.length && words.length ≤ 4
  | .credit h => headOk h
  | .actorFire c | .bufferRelease c | .drainComplete c => siteOk c.x c.y && c.slot < 3
  | .generatorTransfer x y g => siteOk x y && g < 4
  | .halo h _ data | .stream h data => headOk h && data.length ≤ 304
  | .eccWriteBack x y addr => siteOk x y && addr < 2 ^ 22
  | .queueSample p | .commitComplete p | .cadenceWindow p | .runOverrun p | .hangTimerExpire p
  | .resolutionLimitExpire p | .partitionDelete p => fieldOk p
  | .aggregateTrigger via value => viaOk via && value < 256
  | .aggregateComplete => true
  | .jobOpen p h _ notify => pktOk p && hdrOk h && notify < 65536
  | .sectionCommit p h _ len => pktOk p && hdrOk h && len < 2 ^ 32
  | .sectionRelease p h sec => pktOk p && hdrOk h && sec < 2 ^ 32
  | .sectionEnqueue p h sec prio guard preds =>
    pktOk p && hdrOk h && sec < 2 ^ 32 && prio < 256 && guard.index < 65536 && preds.length ≤ 4
  | .sectionCancel p h run | .runStatus p h run => pktOk p && hdrOk h && run < 2 ^ 32
  | .jobStart p h | .jobStop p h | .jobAbort p h | .jobClose p h | .cadenceStop p h | .eventStatus p h => pktOk p && hdrOk h
  | .cadenceAdmit p h r => pktOk p && hdrOk h && r.period < 2 ^ 32 && r.estimate < 2 ^ 32 && r.sections.length ≤ 16
  | .sectionStart x y | .sectionDone x y | .sectionAbort x y | .retirement x y => siteOk x y
  | .starvationLimitReached p _ => fieldOk p
  | .roleChange via p role => viaOk via && fieldOk p && role < 256
  | .memReq h m => headOk h && m.op < 16 && m.size < 4 && m.ty < 4 && m.len ≤ 4064 && m.space < 4 && m.reqId < 2 ^ 32
  | .memReply via m =>
    (match via with
     | .mesh h => headOk h
     | .fabric p => pktOk p) && m.reqId < 2 ^ 32 && m.data.length ≤ 4096
  | .mcastRect h x1 y1 _ data => headOk h && x1 < 512 && y1 < 512 && data.length ≤ 288
  | .mcastMask h _ _ data => headOk h && data.length ≤ 288
  | .mcastAck h d r => headOk h && d < 65536 && r < 65536
  | .mcastStall x y c d => siteOk x y && cellOk c && domainOk d
  | .combine h pre elems => headOk h && pre.count < 65536 && elems.length ≤ 64
  | .failNotice h reason _ _ => headOk h && reason < 16
  | .reservedPacketType x y h type => siteOk x y && headOk h && type < 256
  | .mcastControl h x1 y1 inner words => headOk h && x1 < 512 && y1 < 512 && inner < 16 && words.length ≤ 5
  | .routeWrite _ x y entries => siteOk x y && entries.length ≤ 4
  | .reservedControlKind x y h kind => siteOk x y && headOk h && kind < 16
  | .flitError x y u => siteOk x y && u.all (fun u => headOk u.head)
  | .routerFault x y held => siteOk x y && held.all (fun u => headOk u.head)
  | .retireRequest _ => true
  | .descriptor h _ _ _ _ => headOk h
  | .ctrProduce h m _ | .ctrConsume h m _ | .ctrRead h m | .ctrBound h m _ | .ctrInit h m
  | .ctrReadReply h m _ _ => headOk h && ctrMsgOk m
  | .ctrAck h m status => headOk h && ctrMsgOk m && status < 16
  | .watchRegister h m | .watchCancel h m => headOk h && watchMsgOk m
  | .watchNotify h m status => headOk h && watchMsgOk m && status < 16
  | .crestArrive h seq _ | .crestRelease h seq _ | .crestCollected h seq | .crestStill h seq | .crestMoving h seq => headOk h && seq < 16
  | .crestAbort h _ => headOk h
  | .signalProduce p h c _ | .signalConsume p h c _ | .counterRead p h c | .counterBound p h c _
  | .counterInit p h c => pktOk p && hdrOk h && ctrRefOk c
  | .watchSet p h c count _ _ => pktOk p && hdrOk h && ctrRefOk c && count < 256
  | .hostWatchCancel p h _ => pktOk p && hdrOk h
  | .descriptorPost p h x y _ _ _ _ => pktOk p && hdrOk h && x < 65536 && y < 65536
  | .barrier p h a r _ => pktOk p && hdrOk h && a < 65536 && r < 65536
  | .broadcast p h c _ => pktOk p && hdrOk h && c < 65536
  | .snapshot p h a => pktOk p && hdrOk h && a < 2 ^ 32
  | .pmdTrainingComplete port _ => portOk port
  | .discovery port d => portOk port && nodeOk d.node && d.port < 256
  | .retrainInterval port | .linkStatusSend port | .replayTimeout port => portOk port
  | .reservedUnit u => reservedOk u
  | .linkStatusBlock port _ _ _ => portOk port
  | .transitPacket port dst src domain seq vc hops nonMin x =>
    portOk port && transitOk { x with dst := dst, src := src, domain := domain, seq := seq, vc := vc, hops := hops, nonMin := nonMin }
  | .packetSend dst domain => nodeOk dst && domainOk domain
  | .e2eAck p _ _ _ => pktOk p
  | .retransmitTimeout dst domain _ => nodeOk dst && domainOk domain
  | .skipQuery p _ => pktOk p
  | .skipAnswer p _ status _ => pktOk p && status < 256
  | .escapeTimeout port _ => portOk port
  | .crestRelay p _ _ _ origin => pktOk p && origin < 65536
  | .linkState p port state peerNode peerPort =>
    pktOk p && portOk port && state < 256 && peerNode < 65536 && peerPort < 256
  | .portQuery p h port => pktOk p && hdrOk h && port < 256
  | .portControl p h port action permit => pktOk p && hdrOk h && port < 256 && action < 256 && permit.length = 160
  | .echoCmd p h data => pktOk p && hdrOk h && data.length ≤ 4096
  | .memLoad p m | .atomicAdd p m | .atomicMax p m | .atomicCas p m | .bulkCopy p m => pktOk p && memCmdOk m
  | .memStore p m data => pktOk p && memCmdOk m && data.length ≤ 4096
  | .translationFill cache fill => cache < 68 && fill.pos < 80640 && fill.gen < 2 ^ 32
  | .ageTick => true
  | .invalidationComplete | .referenceLock | .referenceLoss | .holdoverTimeout | .epochMark => true
  | .timeFrame bytes => bytes.length = 13
  | .fllWindow f _ | .settleDelayExpire f => fieldOk f
  | .pllLock n | .pllLoss n => n < 2
  | .sourceSwitch via sub value => viaOk via && (sub = 7 || sub = 8) && value < 256
  | .pllMultiplierWrite via sub value => viaOk via && (sub = 4 || sub = 5) && value < 256
  | .fieldClockTargetWrite via f value => viaOk via && fieldOk f && value < 256
  | .ppsEdge pin => pin < 8
  | .hvBandChange v | .hvOutOfRange v => v < 65536
  | .hvPresent => true
  | .converterFault i => i < 8
  | .busUndervoltage mv => mv < 65536
  | .regulatorReport f _ _ _ _ => fieldOk f
  | .fieldSupplyFault f => fieldOk f
  | .attributionInterval .. | .clampEnd | .sharePublish _ | .currentLimit | .currentLimitTimeout => true
  | .sensorSample f rs => fieldOk f && rs.length = 16
  | .thermalPeriod | .coolingFault => true
  | .coolantSample _ _ flow => flow < 65536
  | .reservationWrite via _ p _ => viaOk via && fieldOk p
  | .mirrorFrame _ bytes => bytes.length = 48
  | .mirrorLinkLoss _ | .ledgerClose | .metrologicalPulse | .diagnosticPulse | .ledCheckWindow _ _
  | .programmingMode _ _ | .logClear | .dataReadout | .caseOpened => true
  | .partitionCreate _ => true
  | .scrubComplete p failed => fieldOk p && failed.all (fun k => k < 80640)
  | .spanSecretLoad v => v.length = 64
  | .stageSlot d slot gen => domainOk d && slot < 4 && gen < 2 ^ 32
  | .loadSlot d slot | .clearSlot d slot => domainOk d && slot < 4
  | .clearSecret => true
  | .flowRestart d => domainOk d
  | .permitSubmission via permit => viaOk via && permit.length = 160
  | .readSession _ sec => sec < 65536
  | .readSessionExpire | .controllerBoot _ | .imageVerify | .trialTimeout => true
  | .imageTarget via v | .startTrial via v | .confirmTrial via v | .passLease via v => viaOk via && v < 256
  | .imageChunk via bytes => viaOk via && bytes.length = 1024
  | .ethercatFrame port | .ethercatLinkChange port _ => port < 2
  | .esmStateChange st => st < 4
  | .sdoInformation index => index < 65536
  | .unsupportedMailboxRequest _ => true
  | .registerWrite index sub _ => objOk index sub
  | .leaseRenewal _ _ | .leaseExpiry | .readyReport _ _ | .claimWindowExpire => true
  | .eventRequest r => r.code < 1024 && r.kind < 3 && r.cls < 8 && r.detail < 2 ^ 64
  | .eventSelect | .eventClaim => true
  | .eventRead p h _ wanted => pktOk p && hdrOk h && wanted < 256
  | .eventAck p h _ => pktOk p && hdrOk h
  | .objectRead p h index sub | .objectWrite p h index sub _ => pktOk p && hdrOk h && objOk index sub
  | .sleepRequest via v | .wakeRequest via v => viaOk via && v < 256
  | .sleepComplete | .saveComplete _ | .powerUp | .powerUpStepOverdue | .resetN | .standbyInputLoss => true
  | .wakeSource srcs => srcs.all (fun n => n < 94)
  | .alarmFire n => n < 8
  | .fieldGroupPower g => g < 7
  | .fieldResetRequest f | .fieldResetComplete f => fieldOk f
  | .partitionResetRequest via p v => viaOk via && fieldOk p && v < 256
  | .waferResetRequest | .dischargeHoldExpire | .selfTestLimitExpire => true
  | .selfTestRequest via _ => viaOk via
  | .serviceSelfTestRequest _ => true
  | .selfTestComplete _ c => c.x < 65536 && c.y < 65536 && c.slot < 256
  | .sidebandFunctionWrite via pin v => viaOk via && pin < 8 && v < 256
  | .sidebandInputChange pin _ | .syncPulseEnd pin => pin < 8
  | .holdoverTick | .busRegulationReached | .resetNRelease | .sealSwitchRelease => true
  | .supplyGood f => fieldOk f
  | .overlayTrainingComplete failed => (failed.overlays ++ failed.routers).all (fun k => k < 80640)
  | .assayParameterChange _ => true

/-- The operands of a command lie within the fields that the spec gives them, as a proposition. -/
abbrev WellFormed (i : Instr) : Prop := i.wf = true

end Sys2Proof
end

