-- ==== Sys2Proof/Tests/Slice0.lean ====
section
/-!
SUPPORT. Tests: an ill-formed term for each check of WellFormed, single commands on small states with results taken from the
spec, and for each statement of the obligations a concrete state and operands that meet its hypotheses.
-/

namespace Sys2Proof.Tests

open Machine

-- One proof at a time: each waits for the kernel, and each waiting thread takes memory.
set_option Elab.async false

/-! ## Well-formedness refuses -/

/-- A mesh header whose fields fit. -/
def hd0 : Head := ⟨⟨36, 41, 0⟩, ⟨36, 40, 0⟩, 0, 5, 0⟩

/-- A key of 32 bytes. -/
def key7 : List Byte := List.replicate 32 7

/-- A packet of a node and domain by a port, sealed under generation 3 of slot 0: number 0 of its flow, first of its link. -/
def pktOf (port node domain : Nat) : Pkt :=
  { port := port, node := node, domain := domain, slot := 0, gen := 3, seq := 0, key := key7 }

/-- A packet of domain 5 from node 2 by port 0. -/
def pkt5 : Pkt := pktOf 0 2 5

/-- A command header of job 7 of partition 9. -/
def hdr9 : Hdr := ⟨7, 9, 0x55⟩

/-- A counter message whose fields fit. -/
def cm0 : CtrMsg := ⟨true, 2304, true, ⟨36, 41, 0⟩, 3⟩

/-- A memory command whose fields fit. -/
def mc0 : MemCmd := ⟨0, 0, 0, 64, 3, 0, 0, false, false, 0⟩

/-- A memory request whose fields fit. -/
def mr0 : MemReq := ⟨1, 0, 0, 64, 0, 0, 0, 9, [], 0, 0⟩

theorem test_wf_refuses_bad_mesh_headers :
    (Instr.credit ⟨⟨512, 0, 0⟩, ⟨0, 0, 0⟩, 0, 0, 0⟩).wf = false ∧ (Instr.credit ⟨⟨0, 512, 0⟩, ⟨0, 0, 0⟩, 0, 0, 0⟩).wf = false ∧
    (Instr.credit ⟨⟨0, 0, 4⟩, ⟨0, 0, 0⟩, 0, 0, 0⟩).wf = false ∧ (Instr.credit ⟨⟨0, 0, 0⟩, ⟨0, 0, 4⟩, 0, 0, 0⟩).wf = false ∧
    (Instr.credit ⟨⟨0, 0, 0⟩, ⟨0, 0, 0⟩, 32, 0, 0⟩).wf = false ∧ (Instr.credit ⟨⟨0, 0, 0⟩, ⟨0, 0, 0⟩, 0, 64, 0⟩).wf = false ∧
    (Instr.crestStill ⟨⟨512, 0, 0⟩, ⟨0, 0, 0⟩, 0, 0, 0⟩ 0).wf = false ∧ (Instr.crestMoving ⟨⟨0, 0, 0⟩, ⟨0, 0, 0⟩, 0, 0, 0⟩ 16).wf = false := by
  decide +kernel

theorem test_wf_refuses_bad_sites :
    (Instr.sectionStart 288 0).wf = false ∧ (Instr.sectionDone 0 280).wf = false ∧ (Instr.sectionAbort 288 280).wf = false ∧
    (Instr.retirement 288 0).wf = false ∧
    (Instr.actorFire ⟨0, 0, 3⟩).wf = false ∧ (Instr.bufferRelease ⟨288, 0, 0⟩).wf = false ∧
    (Instr.drainComplete ⟨0, 280, 0⟩).wf = false ∧ (Instr.generatorTransfer 0 0 4).wf = false ∧
    (Instr.eccWriteBack 0 0 4194304).wf = false ∧ (Instr.mcastStall 288 0 ⟨0, 0, 0⟩ 5).wf = false ∧
    (Instr.routeWrite none 0 280 []).wf = false ∧ (Instr.routerFault 288 0 []).wf = false ∧
    (Instr.routerFault 0 0 [⟨⟨⟨512, 0, 0⟩, ⟨0, 0, 0⟩, 0, 0, 0⟩, false, 1, 0⟩]).wf = false ∧
    (Instr.flitError 0 0 (some ⟨⟨⟨512, 0, 0⟩, ⟨0, 0, 0⟩, 0, 0, 0⟩, false, 1, 0⟩)).wf = false := by
  decide +kernel

theorem test_wf_refuses_bad_mesh_payloads :
    (Instr.token hd0 65536 0).wf = false ∧ (Instr.token hd0 0 65536).wf = false ∧ (Instr.tuple hd0 []).wf = false ∧
    (Instr.tuple hd0 [1, 2, 3, 4, 5]).wf = false ∧ (Instr.mcastAck hd0 65536 0).wf = false ∧
    (Instr.combine hd0 ⟨65536, 0, true, false⟩ []).wf = false ∧ (Instr.combine hd0 ⟨1, 0, true, false⟩ (List.replicate 65 0)).wf = false ∧
    (Instr.failNotice hd0 16 3 0).wf = false ∧ (Instr.reservedPacketType 0 0 hd0 256).wf = false ∧
    (Instr.reservedControlKind 0 0 hd0 16).wf = false ∧ (Instr.mcastControl hd0 512 0 1 []).wf = false ∧
    (Instr.mcastControl hd0 0 0 16 []).wf = false ∧ (Instr.mcastRect hd0 0 512 1 []).wf = false ∧
    (Instr.stream hd0 (List.replicate 305 0)).wf = false ∧ (Instr.halo hd0 .east (List.replicate 305 0)).wf = false ∧
    (Instr.mcastMask hd0 1 1 (List.replicate 289 0)).wf = false ∧
    (Instr.routeWrite none 0 0 (List.replicate 5 (.north, .north))).wf = false ∧
    (Instr.memReq hd0 ⟨16, 0, 0, 64, 0, 0, 0, 9, [], 0, 0⟩).wf = false ∧
    (Instr.memReq hd0 ⟨1, 0, 0, 4065, 0, 0, 0, 9, [], 0, 0⟩).wf = false ∧
    (Instr.memReq hd0 ⟨1, 0, 0, 64, 4, 0, 0, 9, [], 0, 0⟩).wf = false := by
  decide +kernel

theorem test_wf_refuses_bad_counters :
    (Instr.ctrRead hd0 ⟨true, 16384, true, ⟨0, 0, 0⟩, 0⟩).wf = false ∧ (Instr.ctrInit hd0 ⟨true, 0, true, ⟨512, 0, 0⟩, 0⟩).wf = false ∧
    (Instr.ctrAck hd0 cm0 16).wf = false ∧ (Instr.ctrBound hd0 ⟨true, 0, true, ⟨0, 0, 0⟩, 32⟩ 5).wf = false ∧
    (Instr.watchRegister hd0 ⟨true, 16384, true, 0, ⟨0, 0, 0⟩, 0⟩).wf = false ∧
    (Instr.watchNotify hd0 ⟨true, 0, true, 0, ⟨0, 0, 0⟩, 0⟩ 16).wf = false ∧ (Instr.crestArrive hd0 16 0).wf = false ∧
    (Instr.counterRead pkt5 hdr9 ⟨65536, 0, 0⟩).wf = false ∧ (Instr.watchSet pkt5 hdr9 ⟨0, 0, 0⟩ 256 0 0).wf = false ∧
    (Instr.barrier pkt5 hdr9 65536 0 0).wf = false ∧ (Instr.broadcast pkt5 hdr9 65536 0).wf = false ∧
    (Instr.snapshot pkt5 hdr9 4294967296).wf = false ∧ (Instr.descriptorPost pkt5 hdr9 0 65536 0 0 0 0).wf = false := by
  decide +kernel

theorem test_wf_refuses_bad_packets :
    (Instr.jobStart (pktOf 64 2 5) hdr9).wf = false ∧ (Instr.jobStart (pktOf 0 16384 5) hdr9).wf = false ∧
    (Instr.jobStart (pktOf 0 2 64) hdr9).wf = false ∧ (Instr.jobStart { pkt5 with slot := 4 } hdr9).wf = false ∧
    (Instr.jobStart pkt5 ⟨7, 256, 1⟩).wf = false ∧ (Instr.jobOpen pkt5 hdr9 0 65536).wf = false ∧
    (Instr.sectionCommit pkt5 hdr9 0 4294967296).wf = false ∧ (Instr.sectionEnqueue pkt5 hdr9 1 256 ⟨0, 0, 0⟩ []).wf = false ∧
    (Instr.sectionEnqueue pkt5 hdr9 1 0 ⟨0, 65536, 0⟩ []).wf = false ∧
    (Instr.sectionEnqueue pkt5 hdr9 1 0 ⟨0, 0, 0⟩ [1, 2, 3, 4, 5]).wf = false ∧
    (Instr.cadenceAdmit pkt5 hdr9 ⟨1, 1, 1, false, 0, List.replicate 17 1⟩).wf = false ∧
    (Instr.memLoad pkt5 ⟨0, 0, 0, 64, 3, 0, 4, false, false, 0⟩).wf = false ∧ (Instr.memLoad pkt5 ⟨0, 0, 0, 64, 3, 4, 0, false, false, 0⟩).wf = false ∧
    (Instr.bulkCopy pkt5 ⟨0, 0, 0, 4294967296, 3, 0, 0, false, false, 0⟩).wf = false ∧
    (Instr.bulkCopy pkt5 ⟨0, 0, 0, 64, 3, 0, 0, false, true, 16384⟩).wf = false ∧
    (Instr.eventRead pkt5 hdr9 0 256).wf = false ∧ (Instr.objectRead pkt5 hdr9 65536 0).wf = false ∧
    (Instr.objectWrite pkt5 hdr9 0x2000 256 []).wf = false := by
  decide +kernel

/-- A packet in transit whose fields fit: a command of node 2 for node 3. -/
def tp0 : TransitPkt := {
  dst := 3, src := 2, domain := 5, opcode := 0x28, slot := 0, seq := 0, compressed := false, len := 0, vc := 0, hops := 0,
  nonMin := false, body := List.replicate 44 0 }

/-- A packet in transit enters by a port. -/
def transit (port : Nat) (x : TransitPkt) : Instr :=
  .transitPacket port x.dst x.src x.domain x.seq x.vc x.hops x.nonMin x.toTransitRest

theorem test_wf_refuses_bad_ports :
    (Instr.pmdTrainingComplete 64 true).wf = false ∧ (Instr.retrainInterval 64).wf = false ∧ (Instr.linkStatusSend 64).wf = false ∧
    (Instr.replayTimeout 64).wf = false ∧ (Instr.reservedUnit (.unit 64 0 true)).wf = false ∧ (Instr.linkStatusBlock 64 false 0 0).wf = false ∧
    (Instr.discovery 0 ⟨16384, 0, 4, 3, false, 0⟩).wf = false ∧ (Instr.discovery 0 ⟨2, 256, 4, 3, false, 0⟩).wf = false ∧
    (Instr.reservedUnit (.command pkt5 hdr9 0x28)).wf = false ∧ (transit 0 { tp0 with vc := 4 }).wf = false ∧
    (transit 0 { tp0 with hops := 16 }).wf = false ∧ (transit 0 { tp0 with body := [] }).wf = false ∧
    (Instr.packetSend 16384 5).wf = false ∧ (Instr.retransmitTimeout 2 64 0).wf = false ∧ (Instr.escapeTimeout 64 0).wf = false ∧
    (Instr.skipAnswer pkt5 0 256 false).wf = false ∧ (Instr.crestRelay pkt5 0 0 0 65536).wf = false ∧
    (Instr.linkState pkt5 64 0 0 0).wf = false ∧ (Instr.portQuery pkt5 hdr9 256).wf = false ∧
    (Instr.portControl pkt5 hdr9 0 0 []).wf = false ∧ (Instr.translationFill 68 ⟨0, 0⟩).wf = false ∧
    (Instr.translationFill 0 ⟨80640, 0⟩).wf = false ∧ (Instr.ethercatFrame 2).wf = false ∧ (Instr.ethercatLinkChange 2 true).wf = false := by
  decide +kernel

theorem test_wf_refuses_bad_controls :
    (Instr.cadenceWindow 56).wf = false ∧ (Instr.fllWindow 56 0).wf = false ∧ (Instr.settleDelayExpire 56).wf = false ∧
    (Instr.pllLock 2).wf = false ∧ (Instr.sourceSwitch .sdo 6 0).wf = false ∧ (Instr.pllMultiplierWrite .sdo 6 4).wf = false ∧
    (Instr.fieldClockTargetWrite .sdo 56 0).wf = false ∧ (Instr.ppsEdge 8).wf = false ∧ (Instr.timeFrame []).wf = false ∧
    (Instr.hvBandChange 65536).wf = false ∧ (Instr.hvOutOfRange 65536).wf = false ∧ (Instr.converterFault 8).wf = false ∧
    (Instr.busUndervoltage 65536).wf = false ∧ (Instr.regulatorReport 56 0 0 0 0).wf = false ∧
    (Instr.sensorSample 0 []).wf = false ∧ (Instr.coolantSample 0 0 65536).wf = false ∧
    (Instr.reservationWrite .sdo false 56 0).wf = false ∧ (Instr.mirrorFrame .cope []).wf = false ∧
    (Instr.scrubComplete 0 [80640]).wf = false ∧ (Instr.spanSecretLoad []).wf = false ∧ (Instr.stageSlot 64 0 1).wf = false ∧
    (Instr.loadSlot 5 4).wf = false ∧ (Instr.clearSlot 64 0).wf = false ∧ (Instr.flowRestart 64).wf = false ∧
    (Instr.permitSubmission .sdo []).wf = false ∧ (Instr.readSession .vendor 65536).wf = false ∧
    (Instr.imageTarget .sdo 256).wf = false ∧ (Instr.imageChunk .sdo []).wf = false := by
  decide +kernel

theorem test_wf_refuses_bad_requests :
    (Instr.esmStateChange 4).wf = false ∧ (Instr.sdoInformation 65536).wf = false ∧ (Instr.registerWrite 0x2000 256 []).wf = false ∧
    (Instr.eventRequest ⟨1024, 0, 0, 0, 0, 0, 0, 0, 0, 0, false⟩).wf = false ∧
    (Instr.eventRequest ⟨0, 3, 0, 0, 0, 0, 0, 0, 0, 0, false⟩).wf = false ∧
    (Instr.eventRequest ⟨0, 0, 8, 0, 0, 0, 0, 0, 0, 0, false⟩).wf = false ∧ (Instr.sleepRequest .sdo 256).wf = false ∧
    (Instr.wakeRequest .sdo 256).wf = false ∧ (Instr.wakeSource [94]).wf = false ∧ (Instr.alarmFire 8).wf = false ∧
    (Instr.fieldGroupPower 7).wf = false ∧ (Instr.fieldResetRequest 56).wf = false ∧ (Instr.fieldResetComplete 56).wf = false ∧
    (Instr.partitionResetRequest .sdo 56 1).wf = false ∧ (Instr.selfTestComplete 0 ⟨65536, 0, 0⟩).wf = false ∧
    (Instr.sidebandFunctionWrite .sdo 8 0).wf = false ∧ (Instr.sidebandInputChange 8 true).wf = false ∧
    (Instr.syncPulseEnd 8).wf = false ∧ (Instr.supplyGood 56).wf = false ∧ (Instr.overlayTrainingComplete { overlays := [80640] }).wf = false ∧
    (Instr.overlayTrainingComplete { routers := [80640] }).wf = false ∧
    (Instr.roleChange .sdo 56 0).wf = false ∧ (Instr.aggregateTrigger .sdo 256).wf = false ∧
    (Instr.aggregateTrigger (.fabric (pktOf 64 0 0) hdr9) 1).wf = false ∧
    (Instr.selfTestRequest (.fabric pkt5 ⟨0, 256, 0⟩) 0).wf = false := by
  decide +kernel

theorem test_wf_accepts_commands_in_range :
    (Instr.credit hd0).wf = true ∧ (Instr.jobStart pkt5 hdr9).wf = true ∧ (Instr.memReq hd0 mr0).wf = true ∧
    (Instr.memLoad pkt5 mc0).wf = true ∧ (Instr.ctrRead hd0 cm0).wf = true ∧
    (transit 0 tp0).wf = true ∧ (Instr.reservedUnit (.command pkt5 hdr9 0x2C)).wf = true := by
  decide +kernel

/-! ## States -/

def goodField : FieldPwr := { powered := true, good := true, temp := 400, delivered := 5000, intervalBase := 1000, spanGen := 2 }
def lockedClk : FieldClk := { st := .locked, target := 4608, measured := 4608, everLocked := true, windows := 10 }
def keys1 : KeySlots := { gens := [(0, 3)], keys := [(0, key7)], send := some 0 }

/-- A running wafer: node 1 of a group of four, port 0 up to node 2, port 5 up to host 12288; controller Cope owns the lease. -/
def live : State := { State.reset with
  time := { refCycles := 2000000000, tod := 777123456, ref := .locked, pll0 := true, pll1 := true, lastTick := 1999900000, ticks := 12 }
  clk := (List.range 56).map (fun i => (i, lockedClk))
  fld := (List.range 56).map (fun i => (i, goodField))
  power := { volts := 800, band := .operating, present := true, standby := true, running := 0xFF, busMv := 54000, busGood := true,
             inlet := 250, outlet := 350, flow := 1200, sample := 9000, average := 9000 }
  cope := { booted := true, runningB := some false, verA := 10203, secA := 1, readyAt := some 127999990000 }
  drag := { booted := true, runningB := some false, verA := 10203, secA := 1, readyAt := some 127999990000 }
  lease := { owner := some .cope, epoch := 5, deadline := 130000000000, standby := .ready }
  ledger := { begun := true, ticks := 500, seconds := 3, total := 1000, house := 400, base := some 9000 }
  sec := { slots := [(5, keys1), (6, keys1), (63, keys1)], highest := [(5, 3), (6, 3), (63, 3)], secret := some (List.replicate 32 7) }
  mesh := { routingReady := true }
  pilot := { step := 12, esm := 3, link0 := true, link1 := true }
  fabric := { node := 1, groupSize := 4, groupCount := 3, ports := [(0, { st := .up, peer := 131075, trainedOnce := true }),
                        (5, { st := .up, peer := 2952790017, trainedOnce := true })] }
  settings := { saving := true, dirty := true }
  regs := [(0x260001, 1), (0x260002, 4), (0x260003, 3), (0x262001, 2 ^ 63 + 12288 * 2 ^ 32 + 2 ^ 5)] }

def timeOf (f : TimeS → TimeS) (s : State) : State := { s with time := f s.time }
def powerOf (f : PowerS → PowerS) (s : State) : State := { s with power := f s.power }
def pilotOf (f : PilotS → PilotS) (s : State) : State := { s with pilot := f s.pilot }
def leaseOf (f : LeaseS → LeaseS) (s : State) : State := { s with lease := f s.lease }
def assayOf (f : AssayS → AssayS) (s : State) : State := { s with assay := f s.assay }
def eventsOf (f : EventS → EventS) (s : State) : State := { s with events := f s.events }
def settingsOf (f : SettingsS → SettingsS) (s : State) : State := { s with settings := f s.settings }
def copeOf (f : CtlS → CtlS) (s : State) : State := { s with cope := f s.cope }
def dragOf (f : CtlS → CtlS) (s : State) : State := { s with drag := f s.drag }
def clkOf (k : Nat) (f : FieldClk → FieldClk) (s : State) : State := { s with clk := amMod s.clk k {} f }
def fldOf (k : Nat) (f : FieldPwr → FieldPwr) (s : State) : State := { s with fld := amMod s.fld k {} f }
def regOf (key v : Nat) (s : State) : State := { s with regs := amSet s.regs key v }
def portOf (i : Nat) (p : Port) (s : State) : State := { s with fabric := { s.fabric with ports := amSet s.fabric.ports i p } }
def tileOf (k : Nat) (t : Tile) (s : State) : State := { s with tiles := amSet s.tiles k t }
def pinOf (p : Pin) (s : State) : State := { s with pilot := { s.pilot with pins := [(2, p)] } }

/-! Partition 9 holds the field at column 1 and row 1, with domain 5. -/

def site0 : Nat := siteAt 9 100
def site1 : Nat := siteAt 9 101
def x0 : Nat := siteX site0
def y0 : Nat := siteY site0
def section1 : Section := {
  number := 1, time := 1000, energy := 1, base := 0x1000, recLen := 3, sites := [site0, site1],
  edges := [(cellKey site0 0, 1, cellKey site1 0, 2)], tags := [(cellKey site0 0, 4), (cellKey site1 0, 4)] }
def job7 : Job := { id := 7, group := 0, notify := 2, started := true }
def part9 : Part := {
  fx := 1, fy := 1, domain := 5, pstate := .jobOpen, job := some job7, resident := [section1], nextSection := 2, nextRun := 5,
  reservation := 500, share := 500, weight := 1, inForce := (500, 1), secondCredit := 10, energy := 50, stamp := { mark := .started, start := 3 },
  ended := [(3, 0, 0), (2, 4, 0)] }
def withPart (a : Part) : State := { live with
  parts := [(9, a)], fld := amMod live.fld 9 {} (fun f => { f with owner := .held 9, spanValid := true })
  ledger := { live.ledger with booked := 50 } }
def jobbed : State := withPart part9
def cur4 : Current := { number := 4, sec := 1, startedAt := 127000000000, loaded := [site0, site1] }
def running4 : State := withPart { part9 with current := some cur4 }

def pktM : Pkt := pktOf 0 2 63
def pktH : Pkt := pktOf 5 12288 5

/-! ## The premises that are not decided by their form -/

theorem served_sdo (s : State) : Served .sdo s ↔ (s.pilot.esm ≠ 0 ∧ mailboxServed s = true ∧ s.pilot.mailbox = []) := Iff.rfl

theorem served_fabric (p : Pkt) (h : Hdr) (s : State) :
    Served (.fabric p h) s ↔ (Arrives p s ∧ headerOk (fabricAsker s p.domain) h = true) := Iff.rfl

/-- A packet arrives as the next of its flow: InSequence, clause by clause, and its domain is taken. -/
theorem arrives_of {p : Pkt} {s : State}
    (h : portUp s p.port = true ∧ hopGood s p.port p.hop p.good = true ∧ authentic s p (rxFor p s).next = true ∧ (rxFor p s).gen = p.gen ∧
      extendSeq (rxFor p s).next p.seq = (rxFor p s).next ∧ (rxFor p s).next ∉ (rxFor p s).closed ∧
      (∀ h ∈ (rxFor p s).held, h.1 ≠ (rxFor p s).next) ∧
      ¬((getRx s p.node p.domain).gen = p.gen ∧
        extendSeq (getRx s p.node p.domain).next p.seq ∈ (getRx s p.node p.domain).passed) ∧
      domainTaken s p.domain = true) : Arrives p s :=
  ⟨.inl ⟨h.1, h.2.1, h.2.2.1, h.2.2.2.1, h.2.2.2.2.1, h.2.2.2.2.2.1, h.2.2.2.2.2.2.1, h.2.2.2.2.2.2.2.1⟩,
    h.2.2.2.2.2.2.2.2⟩

/-- A quantifier over the value of an option is one over its members. -/
theorem option_all {α : Type} {o : Option α} {q : α → Prop} (h : ∀ a ∈ o, q a) : ∀ a, o = some a → q a := h

/-! ## Results that the spec tables -/

/-- A tensor actor with one output element and an empty chain: the code it writes and what it counts (R113). -/
def worked (f g : Nat) (xs ys : List Nat) (out : Nat) (mode : Rnd) : Nat × NumCounters :=
  let es := xs.map (decodeElem true f)
  let gs := ys.map (decodeElem true g)
  let (r, bad) := accumulate mode (f < 2 || g < 2) none 0 (((List.range xs.length).zip (es.zip gs)).map (fun e => (e.1, e.2.1, e.2.2)))
  let (code, counts) := drainElem ⟨true, false, out, mode, fun _ _ => .zero false, .zero false⟩ [] r bad
  (code, (es ++ gs).foldl (fun c e => addCounters c (elemCounts e)) counts)

/-- Rows of the table of R113. -/
theorem test_worked_nan_and_invalid :
    worked 2 2 [0x7F,0x38,0x38] [0x7F,0x80,0x38] 2 .nearest = (0x80, ⟨0, 0, 0, 1, 0⟩) ∧
    worked 2 2 [0x7F,0x38,0x38] [0x7F,0x80,0x38] 9 .nearest = (0x7fc00000, ⟨0, 0, 0, 1, 0⟩) ∧
    worked 3 3 [0x7C] [0x00] 3 .nearest = (0x7e, ⟨0, 0, 0, 0, 1⟩) ∧
    worked 3 3 [0x7C,0xFC] [0x3C,0x3C] 9 .nearest = (0x7fc00000, ⟨0, 0, 0, 0, 1⟩) ∧
    worked 3 3 [0x7E,0x3C] [0x3C,0x3C] 4 .nearest = (0x0, ⟨0, 0, 0, 1, 1⟩) := by
  decide +kernel

/-- Rows of the table of R113. -/
theorem test_worked_saturation :
    worked 2 2 [0x7F,0x38] [0x7F,0x38] 2 .nearest = (0x7f, ⟨0, 0, 1, 0, 0⟩) ∧
    worked 2 2 [0x7F,0x38] [0x7F,0x38] 3 .nearest = (0x7c, ⟨0, 0, 1, 0, 0⟩) ∧
    worked 2 2 [0x7F,0x38] [0x7F,0x38] 3 .zero = (0x7b, ⟨0, 0, 1, 0, 0⟩) ∧
    worked 2 2 [0x7F,0x38] [0x7F,0x38] 9 .nearest = (0x48610040, ⟨0, 0, 0, 0, 0⟩) := by
  decide +kernel

/-- Rows of the table of R113. -/
theorem test_worked_infinity_and_flush :
    worked 3 3 [0x7C,0x3C] [0x3C,0x3C] 2 .nearest = (0x7f, ⟨0, 0, 1, 0, 0⟩) ∧
    worked 3 3 [0x7C,0x3C] [0x3C,0x3C] 3 .nearest = (0x7c, ⟨0, 0, 0, 0, 0⟩) ∧
    worked 3 3 [0x7C,0x3C] [0x3C,0x3C] 9 .nearest = (0x7f800000, ⟨0, 0, 0, 0, 0⟩) ∧
    worked 2 2 [0x05,0x38] [0x38,0x38] 2 .nearest = (0x38, ⟨1, 0, 0, 0, 0⟩) ∧
    worked 0 0 [0x0001,0x3C00] [0x3C00,0x3C00] 9 .nearest = (0x3f800000, ⟨1, 0, 0, 0, 0⟩) ∧
    worked 2 2 [0x08] [0x30] 2 .nearest = (0x0, ⟨0, 1, 0, 0, 0⟩) ∧
    worked 2 2 [0x08] [0x30] 9 .nearest = (0x3c000000, ⟨0, 0, 0, 0, 0⟩) := by
  decide +kernel

/-- Rows of the table of R113. -/
theorem test_worked_rounding_zero_and_integers :
    worked 2 2 [0x08,0x08] [0x37,0x10] 2 .nearest = (0x8, ⟨0, 0, 0, 0, 0⟩) ∧
    worked 2 2 [0x08,0x08] [0x37,0x10] 2 .zero = (0x0, ⟨0, 1, 0, 0, 0⟩) ∧
    worked 2 2 [0xB8] [0x00] 9 .nearest = (0x80000000, ⟨0, 0, 0, 0, 0⟩) ∧
    worked 2 2 [0xB8] [0x00] 2 .nearest = (0x0, ⟨0, 0, 0, 0, 0⟩) ∧
    worked 6 6 [0x7F,0x7F] [0x7F,0x7F] 6 .nearest = (0x7f, ⟨0, 0, 1, 0, 0⟩) ∧
    worked 6 6 [0x80] [0x01] 7 .nearest = (0x0, ⟨0, 0, 1, 0, 0⟩) ∧
    worked 5 5 [0x7] [0x7] 5 .nearest = (0x7, ⟨0, 0, 1, 0, 0⟩) := by
  decide +kernel

/-- The check value of the Castagnoli polynomial, from its published definition: the digits 1 to 9. -/
theorem test_crc32c_check_value : crc32c [0x31, 0x32, 0x33, 0x34, 0x35, 0x36, 0x37, 0x38, 0x39] = 0xE3069283 := by
  decide +kernel

/-- Test cases 13 and 14 of the published specification of GCM: AES-256 with key and vector zero, an empty and a zero block. -/
theorem test_gcm_published_cases :
    gcmSeal (List.replicate 32 0) (List.replicate 12 0) [] [] 16 =
      ([], [0x53, 0x0f, 0x8a, 0xfb, 0xc7, 0x45, 0x36, 0xb9, 0xa9, 0x63, 0xb4, 0xf1, 0xc4, 0xcb, 0x73, 0x8b]) ∧
    gcmSeal (List.replicate 32 0) (List.replicate 12 0) [] (List.replicate 16 0) 16 =
      ([0xce, 0xa7, 0x40, 0x3d, 0x4d, 0x60, 0x6b, 0x6e, 0x07, 0x4e, 0xc5, 0xd3, 0xba, 0xf3, 0x9d, 0x18],
       [0xd0, 0xd1, 0xc8, 0xa7, 0x99, 0x99, 0x6b, 0xf0, 0x26, 0x5b, 0x98, 0xb5, 0xd4, 0x8a, 0xb9, 0x19]) := by
  decide +kernel

/-- R279: at an age tick an entry of age 3 ages out, one hit in the same cycle stays with age 0, and one hit before ages. -/
theorem test_age_tick_spares_a_hit :
    (ageCaches { State.reset with
        time := { State.reset.time with refCycles := 7 }
        fabric := { State.reset.fabric with caches := [(0, [⟨0, 5, 0, 3, none⟩, ⟨1, 6, 0, 3, some 7⟩, ⟨2, 8, 0, 1, some 6⟩])] } }).fabric.caches =
      [(0, [⟨1, 6, 0, 0, none⟩, ⟨2, 8, 0, 2, none⟩])] := by
  decide +kernel

/-- R219: a PRODUCE that reaches the bound exactly is applied; one more overflows and changes nothing. -/
theorem test_produce_at_the_bound :
    let c : Counter := ⟨10, 7, 5⟩
    ctrStep 1 2 true c = (0, none, ⟨12, 7, 5⟩) ∧ ctrStep 1 3 true c = (1, some (0x180, 1, 0), c) := by
  decide

/-! ## Witnesses: for each statement a concrete state and operands that meet its hypotheses, clause by clause -/

/-- Links: first lock, holdover, locked. -/
def noLock : State := timeOf (fun x => { x with ref := .noLock }) live
def atStep3 : State := leaseOf (fun _ => {}) (pilotOf (fun p => { p with step := 3 }) noLock)
def heldOver : State := timeOf (fun x => { x with ref := .holdover, holdoverSince := 1 }) live

theorem witness_StepWithoutCommandRunsTheReference :
    (live.pending = [] ∧ live.fabric.released = [] ∧ live.power.standby = true ∧ live.pilot.mailbox = [] ∧ live.mesh.casts = [] ∧
      ∀ e ∈ live.tiles, e.2.remote = []) ∧
    (State.reset.pending = [] ∧ State.reset.fabric.released = [] ∧ State.reset.power.standby = false) ∧
    (∃ c rest, ({ live with fabric := { live.fabric with released := [.jobStart pkt5 hdr9] } } : State).fabric.released = c :: rest) :=
  ⟨by decide +kernel, by decide +kernel, _, _, rfl⟩

theorem witness_EveryStepKeepsTheInvariant : (∃ t, step State.reset = .next t) ∧ Inv State.reset :=
  ⟨⟨_, rfl⟩, by decide +kernel, by decide +kernel, by decide +kernel, (by intro e h; cases h), by decide +kernel⟩

theorem witness_NoCommandTouchesTheQueueOrManufacture : ∃ t, exec .dataReadout live = .next t := ⟨_, rfl⟩

theorem witness_EveryCommandStaysInItsFootprint : ∃ t, exec (.syncPulseEnd 2) live = .next t := ⟨_, rfl⟩

theorem witness_TheTimingLinkMovesTheReference :
    (2 ≤ noLock.pilot.step ∧ noLock.time.ref = .noLock) ∧
    (atStep3.pilot.step = 3 ∧ atStep3.time.ref = .noLock ∧ atStep3.lease.owner = none ∧ atStep3.pilot.waferReset = none) ∧
    (2 ≤ heldOver.pilot.step ∧ (heldOver.time.ref = .holdover ∨ heldOver.time.ref = .holdoverLong) ∧ heldOver.time.regaining = false) ∧
    live.time.ref = .locked ∧ heldOver.time.ref = .holdover := by
  decide +kernel

theorem witness_FramesAndMarksSetTheTimeOfDay :
    (let s := timeOf (fun x => { x with frameTod := some 777123500 }) live
     linkLocked s = true ∧ s.pilot.step = 12 ∧ s.time.frameTod = some 777123500) ∧
    (heldOver.time.ref = .holdover ∨ heldOver.time.ref = .holdoverLong) := by
  decide +kernel

/-- Field 9 in a state of its loop. -/
def loop9 (f : FieldClk → FieldClk) : State := clkOf 9 f live

theorem witness_FieldLoopsSettleLockDroopAndFail :
    (let s := fldOf 9 (fun x => { x with good := false }) live
     (getFld s 9).powered = true ∧ (getFld s 9).good = false ∧ (getFld s 9).fault = false) ∧
    (getClk (loop9 (fun c => { c with st := .settling })) 9).st = .settling ∧
    (let s := loop9 (fun c => { c with st := .locking, windows := 62 })
     (getClk s 9).st = .locking ∧ (getClk s 9).windows + 1 < 64 ∧ ¬(200 * (3000 - effectiveTarget s 9 + (effectiveTarget s 9 - 3000)) ≤ effectiveTarget s 9 ∧ 4 ≤ (getClk s 9).inBand + 1)) ∧
    (let s := loop9 (fun c => { c with st := .locking, inBand := 3 })
     (getClk s 9).st = .locking ∧ 200 * (effectiveTarget s 9 - effectiveTarget s 9 + 0) ≤ effectiveTarget s 9 ∧ 4 ≤ (getClk s 9).inBand + 1 ∧ s.pilot.step = 12) ∧
    (let s := loop9 (fun c => { c with st := .locking, windows := 63 })
     (getClk s 9).st = .locking ∧ 64 ≤ (getClk s 9).windows + 1 ∧ ¬(4 ≤ (getClk s 9).inBand + 1) ∧ (getClk s 9).failures = 0) ∧
    (let s := loop9 (fun c => { c with st := .locking, windows := 63, failures := 1 })
     (getClk s 9).st = .locking ∧ 64 ≤ (getClk s 9).windows + 1 ∧ ¬(4 ≤ (getClk s 9).inBand + 1) ∧ 1 ≤ (getClk s 9).failures ∧ s.pilot.step = 12) ∧
    ((getClk live 9).st = .locked ∧ 4469 * 100 < (getClk live 9).target * 97 ∧ (getClk live 9).unlocked < 16) ∧
    ((getClk live 9).st = .locked ∧ ¬(4608 * 100 < (getClk live 9).target * 97) ∧
      200 * (4608 - (getClk live 9).target + ((getClk live 9).target - 4608)) ≤ (getClk live 9).target) ∧
    (let s := loop9 (fun c => { c with unlocked := 15 })
     (getClk s 9).st = .locked ∧ ¬(4470 * 100 < (getClk s 9).target * 97) ∧ ¬(200 * (4470 - (getClk s 9).target + ((getClk s 9).target - 4470)) ≤ (getClk s 9).target) ∧
       (getClk s 9).unlocked = 15 ∧ (getFld s 9).fault = false ∧ (getFld s 9).resetting = false ∧ s.power.busGood = true ∧ 7 ≤ s.pilot.step) := by
  decide +kernel

theorem witness_RingClocksLockFallBackAndSwitch :
    live.time.ref ≠ .noLock ∧
    (let s := regOf 0x210008 0 (regOf 0x210007 0 live)
     (busSource s ≠ 1 ∧ switchSource s ≠ 1) ∧ (busSource s ≠ 2 ∧ switchSource s ≠ 2)) ∧
    (let s := regOf 0x210008 1 (regOf 0x210007 0x22 live)
     busSource s ≠ 1 ∧ switchSource s = 1) ∧
    (let s := regOf 0x210008 1 (regOf 0x210007 0x12 live)
     busSource s = 2 ∧ switchSource s ≠ 2) ∧
    Served .sdo live ∧ (writer .sdo live).own = none ∧
    (sourceReady live 2 = true ∧ sourceReady (timeOf (fun x => { x with pll1 := false }) live) 2 = false) := by
  simp only [served_sdo]; decide +kernel

theorem witness_SidebandPinsSampleSwitchAndStamp :
    (let s := pinOf { func := 3 } live
     (getPin s 2).func = 3) ∧
    (let s := pinOf { func := 2 } live
     s.pilot.sleep = 0 ∧ (getPin s 2).switching = none ∧ (getPin s 2).func ≠ 3) ∧
    Served .sdo live ∧ (writer .sdo live).own = none := by
  simp only [served_sdo]; decide +kernel

theorem witness_EveryCauseBeginsAWaferReset :
    MayReset live ∧ ¬(650 ≤ 649 ∧ 649 ≤ 950) ∧ ¬(650 ≤ 951 ∧ 951 ≤ 950) ∧
    (let s := powerOf (fun p => { p with running := 0x0F, limiting := true, inlet := 451, flow := 199 }) live
     MayReset s ∧ s.power.running.getLsbD 3 = true ∧
       runningK { s with power := { s.power with running := s.power.running &&& ~~~(BitVec.ofNat 8 (2 ^ 3)) } } < 4 ∧
       s.power.limiting = true ∧ s.power.running ≠ 0 ∧ 43999 < 44000 ∧ (450 < s.power.inlet ∨ s.power.flow < 200)) ∧
    (pilotOf (fun p => { p with waferReset := some 5 }) live).pilot.waferReset.isSome = true := by
  simp only [MayReset]; decide +kernel

theorem witness_TheInletAndTheConvertersReport :
    (live.pilot.step = 12 ∧ live.pilot.sleep = 0) ∧
    (let s := powerOf (fun p => { p with present := false }) live
     s.power.band = .operating ∧ s.power.present = false ∧ s.pilot.step = 12) ∧
    (let s := powerOf (fun p => { p with running := 0x1F }) live
     s.power.running.getLsbD 4 = true ∧
       4 ≤ runningK { s with power := { s.power with running := s.power.running &&& ~~~(BitVec.ofNat 8 (2 ^ 4)) } }) ∧
    live.power.running ≠ 0 ∧
    (let s := pilotOf (fun p => { p with step := 6 }) live
     s.pilot.step = 6 ∧ s.power.present = true ∧ 4 ≤ runningK s ∧ s.pilot.groups ≠ 7) ∧
    live.power.running ≠ 0 ∧ live.pilot.step = 12 ∧ live.power.limiting = false := by
  decide +kernel

theorem witness_FieldSuppliesReportAndFault :
    ((getFld live 55).powered = true ∧ holder live 55 = none ∧ live.test.st ≠ 1) ∧
    ((getFld jobbed 9).powered = true ∧ holder jobbed 9 = some 9 ∧ getPart jobbed 9 = some part9 ∧ part9.reset = none) := by
  decide +kernel

theorem witness_EnergyIsCreditedAndTheAllowanceKept :
    (limitS jobbed + jobbed.power.allowance ≤ 20000000 ∧ limitS jobbed < 20000000) ∧ 20000 ≤ limitS jobbed ∧
    (powerOf (fun p => { p with clamped := true, clampEnds := 5 }) live).power.clamped = true := by
  decide +kernel

theorem witness_SharesFollowTheBudget :
    ((∀ e ∈ jobbed.parts, e.2.queue = [] ∧ e.2.cadence = none) ∧ jobbed.power.limiting = false ∧ 9000 ≤ limitPeak jobbed) ∧
    Served .sdo jobbed ∧ (writer .sdo jobbed).own = none ∧ getPart jobbed 9 = some part9 ∧
    (500 % granularity jobbed = 0 ∧ sumReserved jobbed - part9.reservation + 500 ≤ setting jobbed 0x2200 8 ∧ belowCadence part9 500 = false) := by
  simp only [served_sdo]; decide +kernel

theorem witness_HeatAndCoolantStepTheFields :
    (let xs : List Int := List.replicate 16 1029
     xs.length = 16 ∧ (getFld live 9).failedSensors = 0 ∧ (∀ i, i < 16 → sensorFails xs i = false) ∧ ∀ x ∈ xs, x < 1030) ∧
    (let s := fldOf 9 (fun f => { f with temp := 950 }) jobbed
     (holder s 9).isSome = true ∧ (getFld s 9).temp ≥ (setting s 0x2300 1 * 10 : Nat) ∧ atFloor s 9 = false ∧
       (∀ g, g < 56 → g ≠ 9 → holder s g = none ∨ (getFld s g).temp < (setting s 0x2300 1 * 10 : Nat)) ∧
       (∀ g, g < 56 → (getFld s g).tSteps = 0) ∧ setting s 0x2300 2 < setting s 0x2300 1) ∧
    (∀ g, g < 56 → (getFld jobbed g).tSteps = 0 ∧ (holder jobbed g = none ∨ (getFld jobbed g).temp < (setting jobbed 0x2300 1 * 10 : Nat))) ∧
    (live.pilot.step = 12 ∧ live.pilot.sleep = 0 ∧ (200 : Int) ≤ 200) := by
  decide +kernel

/-- A mirror frame with its CRC. -/
def frameOf (serial energy status counter : Nat) : List Byte :=
  let b := leBytes 2 0xA55A ++ leBytes 2 48 ++ leBytes 4 counter ++ leBytes 8 serial ++ leBytes 8 energy ++ leBytes 4 800000 ++
    leBytes 4 20000 ++ leBytes 4 160000 ++ leBytes 4 7 ++ leBytes 2 status ++ leBytes 2 3
  b ++ leBytes 4 (crc32c b)

theorem witness_MirrorFramesReachTheController :
    frameValid ((frameOf 5 10000 1 8).set 9 1) = false ∧ frameValid (frameOf 5 10000 1 8) = true ∧
    (getCtl .cope live).mirror.link ≠ 2 ∧
    (Ctl.cope = activeCtl live ∧ (getCtl .cope live).mirror = {} ∧ fieldAt (frameOf 5 10000 1 8) 40 2 = 1) ∧
    (let s := copeOf (fun c => { c with mirror := { link := 1, serial := 6, energy := 9000, counter := 7 } }) live
     Ctl.cope = activeCtl s ∧ (getCtl .cope s).mirror.link = 1 ∧
       (getCtl .cope s).mirror.serial ≠ BitVec.ofNat 64 (fieldAt (frameOf 5 10000 1 8) 8 8) ∧
       closeDue s = false ∧ (getCtl .cope s).mirror.due = none) ∧
    (let s := copeOf (fun c => { c with mirror := { link := 1, serial := 6 } }) { live with ledger := { live.ledger with ticks := 1000 } }
     closeDue s = true) := by
  decide +kernel

theorem witness_TheLedgerSecondClosesExactly :
    (let s := copeOf (fun c => { c with mirror := { link := 1, fresh := true, energy := 10001 } }) jobbed
     let view := closingView (getCtl (activeCtl s) s).mirror
     s.ledger.begun = true ∧ view.2.1 = true ∧ view.2.2.1 = false ∧ view.2.2.2 = false ∧ s.ledger.base = some 9000 ∧
       s.ledger.waferReset = false ∧ s.ledger.leaseMoved = false) ∧
    (jobbed.ledger.begun = true ∧ (closingView (getCtl (activeCtl jobbed) jobbed).mirror).2.1 = false ∧
      ¬(jobbed.ledger.waferReset = true ∧ jobbed.pilot.waferReset.isSome = true)) ∧
    (let s := { pilotOf (fun p => { p with waferReset := some 3 }) jobbed with ledger := { jobbed.ledger with waferReset := true } }
     s.ledger.begun = true ∧ s.ledger.waferReset = true ∧ s.pilot.waferReset.isSome = true) := by
  decide +kernel

theorem witness_TheAssayKeepsItsPulsesAndLog :
    ((∀ d ∈ live.assay.lastDiag, d + secT ≤ now live) ∧ ∀ m ∈ live.assay.lastPulse, m + 10 * msT ≤ now live) ∧
    (let s := assayOf (fun a => { a with lastPulse := some 5, lastDiag := some (now live - secT) }) live
     (∀ d ∈ s.assay.lastDiag, d + secT ≤ now s) ∧ ∀ m ∈ s.assay.lastPulse, m + 10 * msT ≤ now s) ∧
    (let s := assayOf (fun a => { a with lastDiag := some (now live - secT + 1) }) live
     ∃ d ∈ s.assay.lastDiag, now s < d + secT) ∧
    live.assay.log.length < 1024 ∧
    (let s := assayOf (fun a => { a with programming := true, log := List.replicate 1023 (0, 0, 0, 0) }) live
     s.assay.programming = true ∧ s.assay.logFull = false ∧ s.assay.log.length < 1024) ∧
    (let s := assayOf (fun a => { a with log := List.replicate 1024 (0, 0, 0, 0), logFull := true }) live
     (s.assay.programming = false ∨ s.assay.logFull = true) ∧ 1024 ≤ s.assay.log.length ∧
       (assayOf (fun a => { a with programming := true }) s).assay.programming = true ∧ s.assay.logFull = true) := by
  decide +kernel

/-- The word of a creation: column, row, width, height, domain, role. -/
def createWord (fx fy w h d r : Nat) : Word32 :=
  BitVec.ofNat 32 (fx * 2 ^ 29 + fy * 2 ^ 26 + (w - 1) * 2 ^ 23 + (h - 1) * 2 ^ 20 + d * 2 ^ 14 + r * 2 ^ 12)

theorem witness_PartitionsAreCreatedDeletedAndScrubbed :
    (bitsOf (createWord 2 2 2 2 7 1).toNat 31 29 = 2 ∧ bitsOf (createWord 2 2 2 2 7 1).toNat 19 14 = 7 ∧
      mayCreate jobbed 2 2 2 2 7 1 = true ∧ getPart jobbed 18 = none) ∧
    mayCreate jobbed 1 1 1 1 7 0 = false ∧
    (let a := { part9 with job := none, pstate := .ready }
     getPart (withPart a) 9 = some a ∧ a.reset = none ∧ a.pstate ≠ .scrubbing ∧ quiesced (withPart a) 9 = true ∧ a.job = none) ∧
    (getPart running4 9 = some { part9 with current := some cur4 } ∧ quiesced running4 9 = false ∧ getPart running4 10 = none) ∧
    (let a := { part9 with job := none, pstate := .scrubbing, reset := some { since := 5, deleting := true } }
     getPart (withPart a) 9 = some a ∧ a.pstate = .scrubbing ∧ Memory.wf (withPart a).mem = true ∧
       (a.reset.map PReset.deleting).getD false = true) ∧
    (let a := { part9 with job := none, pstate := .scrubbing, reset := some { since := 5 } }
     getPart (withPart a) 9 = some a ∧ a.pstate = .scrubbing ∧ (a.reset.map PReset.deleting).getD false = false ∧
       faultField (withPart a) a = none ∧ sumReserved (withPart a) + a.reservation ≤ setting (withPart a) 0x2200 8 ∧
       a.reservation % granularity (withPart a) = 0) := by
  decide +kernel

/-- Domain 5 with generations 3 and 2 in slots 0 and 1. -/
def keyed (k : KeySlots) : State := { live with sec := { live.sec with slots := amSet live.sec.slots 5 k } }

theorem witness_KeySlotsFollowTheirOperations :
    (live.sec.secret.isSome = true ∧ amGet live.sec.highest 5 0 < 4 ∧ (getSlots live 5).send ≠ some 1) ∧
    (3 ≤ amGet live.sec.highest 5 0) ∧
    (let s := keyed { gens := [(0, 3), (1, 2)], send := some 0 }
     (amFind (getSlots s 5).gens 1).isSome = true ∧ (getSlots s 5).send ≠ some 1 ∧ domainOut s 5 = 0) ∧
    (amFind (getSlots live 5).gens 2 = none ∨ (getSlots live 5).send = some 2) ∧ (List.replicate 64 (9 : Byte)).length = 64 ∧
    (let s := keyed { gens := [(0, 3), (1, 4)], send := some 1, draining := true, oldGen := 3 }
     (getSlots s 5).draining = true ∧ domainOut s 5 = 0) ∧
    (getSlots live 5).draining = false := by
  decide +kernel

theorem witness_CounterAggregatesSumTheCells :
    Served .sdo live ∧ live.crest.aggStatus ≠ 1 ∧
    (let s := { jobbed with crest := { jobbed.crest with aggStatus := 1, aggPart := 9, aggSection := 1 } }
     s.crest.aggStatus = 1 ∧ ((getPart s s.crest.aggPart).map (fun (a : Part) => a.lastSec)) = some 0) := by
  simp only [served_sdo]; decide +kernel

def dragOff : State := dragOf (fun c => { c with booted := false }) live
def trialB : State := settingsOf (fun v => { v with trial := some (.drag, 5) })
  (dragOf (fun c => { c with slotB := .trial, verB := 3, secB := 2, runningB := some true }) live)

theorem witness_ControllersBootAndTryImages :
    ((getCtl .drag dragOff).booted = false ∧ 4 ≤ dragOff.pilot.step ∧ dragOff.settings.trial = none ∧
      bootable (getCtl .drag dragOff) (getCtl .drag dragOff).prefB = true) ∧
    linkWait (pilotOf (fun p => { p with step := 3, waferReset := some 3 }) (timeOf (fun x => { x with ref := .noLock }) dragOff)) = true ∧
    (let s := dragOf (fun c => { c with slotA := .invalid, slotB := .valid, secB := 1 }) dragOff
     bootable (getCtl .drag s) (getCtl .drag s).prefB = false ∧ bootable (getCtl .drag s) (!(getCtl .drag s).prefB) = true) ∧
    (let s := dragOf (fun c => { c with slotA := .empty }) dragOff
     bootable (getCtl .drag s) (getCtl .drag s).prefB = false ∧ bootable (getCtl .drag s) (!(getCtl .drag s).prefB) = false) ∧
    (let s := dragOf (fun c => { c with slotB := .valid, verB := 3, secB := 2 }) live
     Served .sdo s ∧ (writer .sdo s).own = none ∧ Ctl.drag = otherCtl (activeCtl s) ∧ s.settings.trial = none ∧
       targetCtl s ≠ some (activeCtl s) ∧ (getCtl .drag s).booted = true ∧ slotState (getCtl .drag s) (inactiveB (getCtl .drag s)) = .valid) ∧
    (trialB.settings.trial = some (.drag, 5) ∧ Served .sdo trialB ∧ (writer .sdo trialB).own = none) := by
  simp only [served_sdo]; decide +kernel

/-- The neutral element of edwards25519 as a public key: the all-zero S with R = the key verifies every message (RFC 8032, 8S B = 8R + 8hA). -/
def neutralKey : List Byte := 1 :: List.replicate 31 0

/-- A permit for a one-byte value: its fields, then the signature, whose S begins with a given byte. -/
def permitOf (magic signer serial nonce index sub v : Nat) (s0 : Byte) : List Byte :=
  leBytes 4 magic ++ [1, BitVec.ofNat 8 signer, 0, 0] ++ leBytes 8 serial ++ leBytes 8 nonce ++ leBytes 2 index ++ leBytes 1 sub ++
    leBytes 1 1 ++ leBytes 4 0 ++ leBytes 64 v ++ neutralKey ++ (s0 :: List.replicate 31 0)

def permitting : State := { live with
  ident := { live.ident with serial := 77 }, sec := { live.sec with nonce := 9, opKey := some neutralKey } }

theorem witness_PermitsAreCheckedInOrder :
    Served .sdo permitting ∧ (writer .sdo permitting).own = none ∧ (permitOf 0x5A575031 1 77 9 0x2500 4 11 0).length = 160 ∧
    ¬permitFormed (permitOf 0x5A575032 1 77 9 0x2500 4 11 0) ∧
    (permitFormed (permitOf 0x5A575031 1 78 9 0x2500 4 11 0) ∧ fieldAt (permitOf 0x5A575031 1 78 9 0x2500 4 11 0) 8 8 ≠ permitting.ident.serial.toNat) ∧
    (permitFormed (permitOf 0x5A575031 1 77 8 0x2500 4 11 0) ∧ fieldAt (permitOf 0x5A575031 1 77 8 0x2500 4 11 0) 16 8 ≠ permitting.sec.nonce.toNat) ∧
    (signerRole 2).bind (signerKey permitting) = none ∧ (signerRole 1).bind (signerKey permitting) = some neutralKey ∧
    (let bs := permitOf 0x5A575031 1 77 9 0x2500 4 11 1
     edVerify neutralKey (slice bs 0 96) (slice bs 96 64) = false) ∧
    (let bs := permitOf 0x5A575031 1 77 9 0x2500 4 11 0
     permitFormed bs ∧ fieldAt bs 8 8 = permitting.ident.serial.toNat ∧ fieldAt bs 16 8 = permitting.sec.nonce.toNat ∧
       edVerify neutralKey (slice bs 0 96) (slice bs 96 64) = true ∧ fieldAt bs 5 1 = 1 ∧ fieldAt bs 24 2 = 0x2500 ∧ fieldAt bs 26 1 = 4 ∧
       fieldAt bs 27 1 = 1 ∧ fieldAt bs 32 1 < 64 ∧ partOfDomain permitting (fieldAt bs 32 1) = none) ∧
    findObj 0x2502 4 = none ∧
    ({ live with sec := { live.sec with session := some (.vendor, 128000000000) } } : State).sec.session = some (.vendor, 128000000000) := by
  simp only [served_sdo, permitFormed]; decide +kernel

theorem witness_TilesRetireAndRoutersTakeTheirEntries :
    x0 < 288 ∧ y0 < 280 ∧ siteKey x0 y0 = site0 ∧
    (let v : Word32 := BitVec.ofNat 32 (x0 * 2 ^ 23 + y0 * 2 ^ 14)
     bitsOf v.toNat 31 23 = x0 ∧ bitsOf v.toNat 22 14 = y0) ∧
    (siteState live site0 = .enabled ∧ site0 ∉ live.mesh.pendingRet ∧ siteBusy live site0 = false) ∧
    (siteState jobbed site0 = .enabled ∧ site0 ∉ jobbed.mesh.pendingRet ∧ siteBusy jobbed site0 = true) ∧
    siteState { live with mesh := { live.mesh with sites := [(site0, .retiredCovered)] } } site0 ≠ .enabled ∧
    (let s := { live with mesh := { live.mesh with pendingRet := [site0] } }
     (siteState s site0 = .enabled ∨ siteState s site0 = .spareAssigned) ∧ site0 ∈ s.mesh.pendingRet ∧ siteBusy s site0 = false ∧
       siteHolder s site0 = none) ∧
    siteHolder jobbed site0 = some 9 ∧
    (let s := tileOf site0 { corrected := 999, correctedHour := hourOf live } live
     (if (getTile s site0).correctedHour = hourOf s then (getTile s site0).corrected + 1 else 1) = reg s 0x2B0006 1000) ∧
    live.lease.owner = some .cope ∧ (none : Option Ctl) ≠ live.lease.owner ∧ some Ctl.drag ≠ live.lease.owner ∧
    (((getTile live site0).uncorrected ++ [now live]).filter (fun t => now live < t + 24 * 3600 * secT)).length < setting live 0x2B00 7 ∧
    partOfDomain live 7 = none ∧ partOfDomain jobbed 5 = some 9 ∧ part9.job.isSome = true := by
  decide +kernel

/-- A firmware image signed by the neutral key, of a 64-byte body: magic, version 1.02.03, security version 9, length, hash. -/
def imageBody : List Byte := List.replicate 64 5
def imageOf : List Byte :=
  let h := leBytes 4 0x5A574631 ++ leBytes 4 10203 ++ leBytes 4 9 ++ leBytes 4 64 ++ sha512 imageBody
  h ++ List.replicate (128 - h.length) 0 ++ neutralKey ++ List.replicate 32 0 ++ imageBody
def imaged (bs : List Byte) : State := { settingsOf (fun v => { v with target := 1, imageState := 2, image := bs }) live with
  ident := { live.ident with vendorKey := neutralKey } }

theorem witness_ImagesAndSavesAreWritten :
    Served .sdo live ∧ (writer .sdo live).own = none ∧ (List.replicate 1024 (0 : Byte)).length = 1024 ∧
    (targetCtl (imaged imageOf) = some .drag ∧ (imaged imageOf).settings.imageState = 2 ∧ imageValid (imaged imageOf) (imaged imageOf).settings.image = true) ∧
    imageValid (imaged (imageOf.set 200 1)) (imageOf.set 200 1) = false ∧
    (let s := settingsOf (fun v => { v with saving := true, dirty := false }) live
     s.settings.saving = true ∧ s.settings.dirty = false) ∧
    (live.settings.saving = true ∧ live.settings.dirty = true) := by
  simp only [served_sdo]; decide +kernel

theorem witness_EtherCatForwardsAndAnswers :
    forwards live = true ∧ forwards (powerOf (fun p => { p with standby := false }) live) = false ∧ live.pilot.sleep = 0 ∧
    (let s := regOf 0x273001 92 (pilotOf (fun p => { p with sleep := 1 }) live)
     s.pilot.sleep = 1 ∧ wakeSelected s 92 = true) ∧
    (live.pilot.esm ≠ 0 ∧ mailboxServed live = true ∧ indexExists 0x2100 = true ∧ indexExists 0x9999 = false) ∧
    (pilotOf (fun p => { p with esm := 0 }) live).pilot.esm = 0 := by
  decide +kernel

def claims : State := leaseOf (fun l => { l with owner := none, claimSince := some 127999990000 }) atStep3

theorem witness_TheLeasePassesByItsRules :
    live.lease.owner = some .cope ∧ (live.lease.owner ≠ some .drag ∨ (6 : BitVec 32) ≠ live.lease.epoch) ∧
    (let s := dragOf (fun c => { c with readyAt := some 129999999999 }) live
     s.lease.owner = some .cope ∧ NothingToDrop s ∧ readyLately (advanceTo s.lease.deadline s) (otherCtl .cope) = true) ∧
    readyLately (advanceTo live.lease.deadline live) (otherCtl .cope) = false ∧
    (let s := leaseOf (fun l => { l with owner := none }) live
     (getCtl .cope s).booted = true ∧ s.lease.owner = none) ∧
    ((getCtl .drag live).booted = true ∧ live.lease.owner = some (otherCtl .drag)) ∧ (6 : BitVec 32) ≠ live.lease.epoch ∧
    (claims.lease.owner = none ∧ claims.lease.claimSince = some 127999990000 ∧ claims.pilot.step = 3 ∧ claims.time.ref ≠ .locked ∧ NothingToDrop claims) ∧
    (Served .sdo live ∧ (writer .sdo live).own = none ∧ NothingToDrop live ∧ hasActive live = true) := by
  simp only [served_sdo, NothingToDrop]; decide +kernel

def req0 : EvReq := evPilot 0x080 1 3
def req1 : EvReq := { evPilot 0x300 0 3 with cls := 3 }
def rec1 (n : Nat) (part prio : Nat) : EvRec := { seq := BitVec.ofNat 32 n, prio := prio, req := { req1 with part := part } }
def eventful (f : EventS → EventS) : State := eventsOf f live

/-- A full queue of equal records. -/
def fullQueue (r : EvRec) : State := eventful (fun v => { v with selected := some req0, queue := r :: List.replicate 4095 r })

theorem weakest_replicate (r : EvRec) : ∀ n, weakest (r :: List.replicate n r) = some r
  | 0 => rfl
  | n + 1 => by
    have h := weakest_replicate r n
    simp only [weakest, List.replicate_succ, List.foldl_cons, Nat.lt_irrefl, if_false] at h ⊢
    exact h

theorem fullQueue_length (r : EvRec) : (fullQueue r).events.queue.length = 4096 := by
  show (r :: List.replicate 4095 r).length = 4096
  rw [List.length_cons, List.length_replicate]

theorem witness_EventsAreSelectedClaimedAndKept :
    (live.events.pending.length < 256 ∧ live.events.waiting = []) ∧
    (let s := eventful (fun v => { v with pending := List.replicate 256 req1, waiting := List.replicate 3 req0 })
     (256 ≤ s.events.pending.length ∨ s.events.waiting ≠ []) ∧ (s.events.waiting.filter (sameSource req0)).length < 4) ∧
    (let s := eventful (fun v => { v with pending := List.replicate 256 req1, waiting := List.replicate 4 req0 })
     (256 ≤ s.events.pending.length ∨ s.events.waiting ≠ []) ∧ 4 ≤ (s.events.waiting.filter (sameSource req0)).length) ∧
    (let s := eventful (fun v => { v with pending := [req1, req0] })
     s.events.selected = none ∧ s.events.pending ≠ []) ∧
    (live.events.selected = none ∧ live.events.pending = []) ∧
    (let s := eventful (fun v => { v with selected := some req0, queue := [rec1 2 9 0] })
     s.events.selected = some req0 ∧ s.events.queue.length < 4096 ∧ s.events.queue ≠ []) := by
  decide +kernel

theorem witness_EventsAreSelectedClaimedAndKept_full :
    (4096 ≤ (fullQueue (rec1 2 9 0)).events.queue.length ∧ weakest (fullQueue (rec1 2 9 0)).events.queue = some (rec1 2 9 0) ∧
      (rec1 2 9 0).prio < evPriority (fullQueue (rec1 2 9 0)) req0) ∧
    (4096 ≤ (fullQueue (rec1 2 9 400)).events.queue.length ∧ weakest (fullQueue (rec1 2 9 400)).events.queue = some (rec1 2 9 400) ∧
      evPriority (fullQueue (rec1 2 9 400)) req0 ≤ (rec1 2 9 400).prio) :=
  ⟨⟨(fullQueue_length _).ge, weakest_replicate _ _, by decide +kernel⟩,
    (fullQueue_length _).ge, weakest_replicate _ _, by decide +kernel⟩

/-- Three records in the queue: two of partition 9 and one of the wafer. -/
def queued3 : State := eventsOf (fun _ => { queue := [rec1 1 9 3, rec1 2 0xFF 3, rec1 3 9 3], nextSeq := 4, newest := 3 }) jobbed

theorem witness_EventsAreReadOverTheFabric :
    Arrives pkt5 queued3 ∧ Arrives pktM queued3 ∧
    (headerOk (fabricAsker queued3 pkt5.domain) hdr9 = true ∧ headerOk (fabricAsker queued3 pkt5.domain) ⟨7, 3, 2⟩ = false) ∧
    (pktM.domain = mgmtDomain queued3 ∧ queued3.events.queue = [rec1 1 9 3] ++ rec1 2 0xFF 3 :: [rec1 3 9 3] ∧ (rec1 2 0xFF 3).seq = 2 ∧
      ∀ q ∈ [rec1 1 9 3], q.seq ≠ 2) ∧
    (pkt5.domain ≠ mgmtDomain queued3 ∧ ∀ q ∈ queued3.events.queue, q.seq ≠ 7) ∧ (fabricAsker queued3 pkt5.domain).own = some 9 :=
  ⟨arrives_of (by decide +kernel), arrives_of (by decide +kernel), by decide +kernel, by decide +kernel, by decide +kernel, by decide +kernel⟩

theorem witness_ObjectsAreReadAndWrittenInOrder :
    WriteBy (.registerWrite 0x2720 3 [5, 0]) .sdo 0x2720 3 [5, 0] ∧ Served .sdo live ∧
    WriteBy (.objectWrite pkt5 hdr9 0x2720 3 [5, 0]) (.fabric pkt5 hdr9) 0x2720 3 [5, 0] ∧ Served (.fabric pkt5 hdr9) jobbed ∧
    indexExists 0x5999 = false ∧ (indexExists 0x2720 = true ∧ findObj 0x2720 16 = none ∧ (16 ≠ 0 ∨ arrayCount 0x2720 = none)) ∧
    (∃ o ∈ findObj 0x2000 1, o.acc = .ro ∧ mayRead live (writer .sdo live) o 1 = true ∧ entryMissing live o 1 = false) ∧
    (∃ o ∈ findObj 0x2720 3, o.acc ≠ .ro ∧ mayWrite (writer (.fabric pkt5 hdr9) jobbed) o 3 = false) ∧
    (∃ o ∈ findObj 0x2403 11, o.acc ≠ .ro ∧ mayWrite (writer .sdo jobbed) o 11 = true ∧ entryMissing jobbed o 11 = true) ∧
    (∃ o ∈ findObj 0x2500 4, o.acc = .rwp ∧ mayWrite (writer .sdo live) o 4 = true ∧ entryMissing live o 4 = false) ∧
    (∃ o ∈ findObj 0x2720 3, (o.acc = .rw ∨ o.acc = .wo) ∧ mayWrite (writer .sdo live) o 3 = true ∧ entryMissing live o 3 = false ∧
      ([1] : List Byte).length ≠ o.len ∧ ([4, 0] : List Byte).length = o.len ∧ o.ty < 8 ∧ inRange live o 3 (leNat [4, 0]) = false) ∧
    ((writer .sdo live).own = none ∧ ([5, 0] : List Byte).length = 2 ∧ 5 ≤ leNat [5, 0] ∧ leNat [0xE8, 3] ≤ 1000) ∧
    (Arrives pkt5 jobbed ∧ headerOk (fabricAsker jobbed 5) ⟨7, 3, 2⟩ = false ∧ headerOk (fabricAsker jobbed 5) hdr9 = true) ∧
    (∃ o ∈ findObj 0x2110 1, o.acc ≠ .wo ∧ mayRead jobbed (fabricAsker jobbed 5) o 1 = false) ∧
    (findObj 0x2403 0 = none ∧ (arrayCount 0x2403).isSome = true) :=
  ⟨.inl ⟨rfl, rfl⟩, by simp only [served_sdo]; decide +kernel, .inr ⟨pkt5, hdr9, rfl, rfl⟩, ⟨arrives_of (by decide +kernel), by decide +kernel⟩,
    by decide +kernel, by decide +kernel, by decide +kernel, by decide +kernel, by decide +kernel, by decide +kernel, by decide +kernel,
    by decide +kernel, ⟨arrives_of (by decide +kernel), by decide +kernel⟩, by decide +kernel, by decide +kernel⟩

/-- Wake sources 93, 81 and 92 are selected, and alarm 1 has a time. -/
def selecting : State := regOf 0x273001 93 (regOf 0x273002 81 (regOf 0x273003 92 (regOf 0x273202 5 live)))
def asleep : State := pilotOf (fun p => { p with sleep := 2 }) (powerOf (fun p => { p with present := false }) selecting)

theorem witness_TheWaferSleepsAndWakes :
    (Served .sdo live ∧ (writer .sdo live).own = none ∧ maySleep live = true ∧ maySleep jobbed = false) ∧
    (let s := pilotOf (fun p => { p with sleep := 1 }) selecting
     s.pilot.sleep = 1 ∧ s.pilot.wakeLatched = []) ∧
    (let s := pilotOf (fun p => { p with sleep := 1, wakeLatched := [81] }) (powerOf (fun p => { p with present := false }) selecting)
     s.pilot.sleep = 1 ∧ s.pilot.wakeLatched = [81] ∧ s.power.present = false) ∧
    live.pilot.sleep ≠ 1 ∧ live.pilot.sleep = 0 ∧
    ((∃ n ∈ [5, 81], wakeSelected asleep n = true) ∧ asleep.pilot.sleep = 2 ∧ asleep.power.present = false) ∧
    (∀ n ∈ [5], wakeSelected asleep n = false) ∧
    (Served .sdo asleep ∧ (writer .sdo asleep).own = none ∧ asleep.pilot.sleep = 2 ∧ wakeSelected asleep 93 = true ∧ asleep.power.present = false) ∧
    (setting asleep 0x2732 (1 + 1) ≠ 0 ∧ wakeSelected asleep (80 + 1) = true) ∧ setting selecting 0x2732 (1 + 1) ≠ 0 ∧ selecting.pilot.sleep = 0 ∧
    setting live 0x2732 (7 + 1) = 0 := by
  simp only [served_sdo]; decide +kernel

def unpowered : State := powerOf (fun p => { p with standby := false }) live
def atStep7 (g : Nat) : State := pilotOf (fun p => { p with step := 7, groups := g })
  (clkOf 9 (fun c => { c with st := .failed }) (clkOf 3 (fun c => { c with st := .off, failures := 1 }) (fldOf 3 (fun f => { f with powered := false }) live)))

theorem witness_ThePowerUpSequenceGoesOn :
    (let s := pilotOf (fun p => { p with resetLow := true }) unpowered
     s.power.standby = false ∧ s.assay.log.length < 1024 ∧ s.pilot.waferReset = none ∧ s.pilot.resetLow = true) ∧
    (let s := timeOf (fun x => { x with ref := .noLock }) unpowered
     s.power.standby = false ∧ s.assay.log.length < 1024 ∧ s.pilot.waferReset = none ∧ s.pilot.resetLow = false ∧ linkLocked s = false) ∧
    live.power.standby = true ∧
    (let s := pilotOf (fun p => { p with step := 1, resetLow := true }) noLock
     s.pilot.step = 1 ∧ s.power.standby = true ∧ linkLocked s = false) ∧
    live.pilot.step = 12 ∧
    ((atStep7 0).pilot.step = 7 ∧ (atStep7 0).pilot.groups = 0 ∧ (getFld (atStep7 0) 0).fault = false ∧ (getClk (atStep7 0) 0).st ≠ .failed) ∧
    ((atStep7 1).pilot.groups = 1 ∧ 9 / 8 = 1 ∧ (getClk (atStep7 1) 9).st = .failed) ∧
    ((atStep7 6).pilot.groups = 6 ∧ (getClk (atStep7 6) 3).failures = 1 ∧ (getClk (atStep7 6) 3).st = .off ∧ (getFld (atStep7 6) 3).powered = false ∧
      (getFld (atStep7 6) 3).fault = false) ∧
    (let s := pilotOf (fun p => { p with step := 8 }) live
     s.pilot.step = 8 ∧ s.parts = [] ∧ s.settings.boot = [] ∧ s.pilot.waferReset = none ∧ s.pilot.recovering = false ∧
       (∀ k ∈ absentSites s, clusterOk (siteAbsent s) (clusterAt s k) = true) ∧ portsSettled s = false ∧
       portsSettled { s with fabric := { s.fabric with ports := (List.range 64).map (fun i => (i, { trainedOnce := true })) } } = true) ∧
    live.pilot.step ≠ 8 ∧ (1 ≤ atStep3.pilot.step ∧ atStep3.pilot.step ≤ 4 ∧ linkWait atStep3 = false) ∧
    linkWait (pilotOf (fun p => { p with waferReset := some 3 }) atStep3) = true ∧ (5 ≤ (atStep7 0).pilot.step ∧ (atStep7 0).pilot.step ≤ 11) := by
  decide +kernel

theorem witness_ModuleResetsStartTheModuleAgain :
    (live.power.standby = true ∧ live.assay.log.length < 1024) ∧ unpowered.power.standby = false := by
  decide +kernel

def resettingPart (fields : List Nat) : Part := { part9 with job := none, pstate := .resetting, reset := some { since := 5, fields := fields } }
def discharging (present : Bool) (cause : Nat) : State :=
  pilotOf (fun p => { p with waferHold := true, step := 5, waferReset := some 5, waferCause := cause }) (powerOf (fun p => { p with present := present }) live)

theorem witness_FieldsAndPartitionsAreReset :
    (let s := clkOf 10 (fun c => { c with st := .failed }) live
     (getFld s 10).fault = false ∧ (getFld s 10).resetting = false ∧ (getClk s 10).st = .failed ∧ holder s 10 = none) ∧
    ((getFld live 10).fault = false ∧ (getFld live 10).resetting = false ∧ (getClk live 10).st ≠ .failed ∧ holder live 10 = none) ∧
    ((getFld jobbed 9).fault = false ∧ (getFld jobbed 9).resetting = false ∧ (getClk jobbed 9).st ≠ .failed ∧ holder jobbed 9 = some 9 ∧ 9 ∉ jobbed.test.held ∧
      getPart jobbed 9 = some part9 ∧ part9.reset = none) ∧
    (getFld (fldOf 9 (fun f => { f with fault := true }) live) 9).fault = true ∧
    (let s := fldOf 9 (fun f => { f with resetting := true }) (withPart (resettingPart [9]))
     (getFld s 9).resetting = true ∧ (getClk s 9).st = .locked ∧ holder s 9 = some 9 ∧ getPart s 9 = some (resettingPart [9]) ∧
       [9].erase 9 = [] ∧ partOutstanding s 9 = 0) ∧
    (let s := fldOf 9 (fun f => { f with resetting := true }) (withPart (resettingPart [9, 10]))
     (getFld s 9).resetting = true ∧ getPart s 9 = some (resettingPart [9, 10]) ∧ [9, 10].erase 9 ≠ []) ∧
    (Served .sdo jobbed ∧ (writer .sdo jobbed).own = none ∧ (writer (.fabric pkt5 hdr9) jobbed).own = some 9) ∧
    (getPart (withPart (resettingPart [])) 9 = some (resettingPart []) ∧ partOutstanding (withPart (resettingPart [])) 9 = 0) ∧
    (let s := withPart (resettingPart [])
     partOutstanding { s with fabric := { s.fabric with tx := [(flowKey 2 5, { waiting := [{ part := some 9 }] })] } } 9 ≠ 0) ∧
    ((discharging false 6).pilot.waferHold = true ∧ (discharging false 6).pilot.step = 5 ∧ (discharging false 6).pilot.waferReset.isSome = true ∧
      causePersists (discharging false 6) = false ∧ linkLocked (discharging false 6) = true ∧
      linkLocked (timeOf (fun x => { x with ref := .noLock }) (discharging false 6)) = false ∧ (discharging false 6).power.present = false) ∧
    causePersists (powerOf (fun p => { p with inlet := 500 }) (discharging true 5)) = true ∧ live.pilot.waferHold = false := by
  simp only [served_sdo]; decide +kernel

theorem witness_SelfTestsAreJudgedRunAndEnded :
    Served .sdo live ∧ testRefusal none (5 * 2 ^ 24 + 2 ^ 16 + 10 * 256) live = 0 ∧ testRefusal none (2 * 2 ^ 24) live ≠ 0 ∧
    (let s := { live with test := { st := 1, echo := BitVec.ofNat 32 (5 * 2 ^ 24 + 2 ^ 16 + 10 * 256), held := [10] } }
     s.test.st = 1 ∧ bitsOf s.test.echo.toNat 31 24 ≠ 1) ∧
    live.test.st ≠ 1 := by
  simp only [served_sdo]; decide +kernel

def stopped9 : Part := { part9 with job := some { job7 with started := false } }
def run5 : Run := { number := 5, sec := 1 }

/-- A packet of domain 5 that names job 7 of partition 9 is a command of that job. -/
theorem commands_of {s : State} {a : Part} {j : Job}
    (h : Arrives pkt5 s) (k : getPart s 9 = some a ∧ a.domain = 5 ∧ a.job = some j ∧ j.id = 7) : Commands pkt5 hdr9 s a j :=
  ⟨h, k.1, k.2.1, k.2.2.1, k.2.2.2⟩

theorem jobbed_commands : Commands pkt5 hdr9 jobbed part9 job7 := commands_of (arrives_of (by decide +kernel)) (by decide +kernel)

theorem stopped_commands : Commands pkt5 hdr9 (withPart stopped9) stopped9 { job7 with started := false } :=
  commands_of (arrives_of (by decide +kernel)) (by decide +kernel)

theorem running_commands : Commands pkt5 hdr9 running4 { part9 with current := some cur4 } job7 :=
  commands_of (arrives_of (by decide +kernel)) (by decide +kernel)

/-- A command that names job 8, which is not open. -/
theorem jobbed_not_commanded : NotCommanded pkt5 ⟨8, 9, 1⟩ jobbed := ⟨arrives_of (by decide +kernel), by decide +kernel⟩

theorem witness_JobsOpenStartStopAndClose :
    (let a := { part9 with job := none, pstate := .ready }
     Arrives pkt5 (withPart a) ∧ getPart (withPart a) 9 = some a ∧ a.domain = pkt5.domain ∧ a.job = none ∧ a.pstate = .ready ∧
      testHolds (withPart a) 9 = false) ∧
    part9.job.isSome = true ∧ cmdPart jobbed pkt5 ⟨7, 3, 1⟩ = none ∧
    (Commands pkt5 hdr9 (withPart stopped9) stopped9 { job7 with started := false } ∧ stopped9.queue = [] ∧ stopped9.cadence = none) ∧
    (Commands pkt5 hdr9 jobbed part9 job7 ∧ job7.started = true ∧ part9.current = none ∧ part9.queue = []) ∧
    Commands pkt5 hdr9 running4 { part9 with current := some cur4 } job7 ∧
    (NotCommanded pkt5 ⟨8, 9, 1⟩ jobbed ∧ getPart jobbed 9 = some part9 ∧ part9.domain = pkt5.domain) :=
  ⟨⟨arrives_of (by decide +kernel), by decide +kernel⟩, by decide +kernel, by decide +kernel, ⟨stopped_commands, by decide +kernel⟩,
    ⟨jobbed_commands, by decide +kernel⟩, running_commands, jobbed_not_commanded, by decide +kernel⟩

/-- The first 128 bytes of a section image of one tile, which stands at column u of its template, with a CRC field; 576 zeros follow. -/
def imageHead (u crc : Nat) : List Byte :=
  leBytes 4 0x5A575331 ++ leBytes 2 1 ++ leBytes 2 0 ++ leBytes 4 704 ++ leBytes 4 crc ++ leBytes 4 1000 ++ leBytes 4 1 ++ leBytes 4 0x2000 ++
    leBytes 4 1 ++ leBytes 4 0 ++ leBytes 2 3 ++ leBytes 2 0 ++ leBytes 2 0 ++ leBytes 2 0 ++ leBytes 4 64 ++ leBytes 4 0 ++ leBytes 4 0 ++
    leBytes 4 0 ++ leBytes 4 0 ++ (leBytes 2 u ++ leBytes 2 2 ++ leBytes 4 128) ++ List.replicate 56 0
def zeros96 : List Byte := List.replicate 96 0
def sectionImage (u crc : Nat) : List Byte := imageHead u crc ++ List.replicate 576 0
def image28 : List Byte := sectionImage 28 2062121840
def image200 : List Byte := sectionImage 200 2273162352

/-- The CRC of such an image over its parts. -/
theorem crc_image {u a b c d e f g : Nat} (h0 : (imageHead u 0).foldl crc32cByte 0xFFFFFFFF = a) (h1 : zeros96.foldl crc32cByte a = b)
    (h2 : zeros96.foldl crc32cByte b = c) (h3 : zeros96.foldl crc32cByte c = d) (h4 : zeros96.foldl crc32cByte d = e)
    (h5 : zeros96.foldl crc32cByte e = f) (h6 : zeros96.foldl crc32cByte f = g) : crc32c (sectionImage u 0) = g ^^^ 0xFFFFFFFF := by
  have h : List.replicate 576 (0 : Byte) = zeros96 ++ (zeros96 ++ (zeros96 ++ (zeros96 ++ (zeros96 ++ zeros96)))) := by decide +kernel
  simp only [crc32c, sectionImage, h, List.foldl_append, h0, h1, h2, h3, h4, h5, h6]

theorem image28_in_range : headerRange image28 704 = true := by
  have h : image28.take 12 ++ [0, 0, 0, 0] ++ image28.drop 16 = sectionImage 28 0 := by decide +kernel
  have c : crc32c (sectionImage 28 0) = 2062121840 :=
    crc_image (a := 2822909343) (b := 2299912372) (c := 826569869) (d := 708990265) (e := 409461661) (f := 3191931103) (g := 2232845455)
      (by decide +kernel) (by decide +kernel) (by decide +kernel) (by decide +kernel) (by decide +kernel) (by decide +kernel) (by decide +kernel)
  simp only [headerRange, h, c]; decide +kernel

theorem image200_in_range : headerRange image200 704 = true := by
  have h : image200.take 12 ++ [0, 0, 0, 0] ++ image200.drop 16 = sectionImage 200 0 := by decide +kernel
  have c : crc32c (sectionImage 200 0) = 2273162352 :=
    crc_image (a := 2218363110) (b := 589572650) (c := 3318098475) (d := 881854548) (e := 3687916712) (f := 3643211038) (g := 2021804943)
      (by decide +kernel) (by decide +kernel) (by decide +kernel) (by decide +kernel) (by decide +kernel) (by decide +kernel) (by decide +kernel)
  simp only [headerRange, h, c]; decide +kernel

def imageAt (pos : Nat) : Word64 := BitVec.ofNat 64 (5 * 2 ^ 58 + 2 ^ 44 + pos * 2 ^ 21 + 0x100000)
def committing9 : Part := { part9 with commits := [{ addr := imageAt site0, len := 704, node := 2, domain := 5, tag := 3 }] }

/-- The commit of `committing9`, with bytes in the memory it names, as the loader reads them: the commit is taken off the queue. -/
def committing (bs : List Byte) : State := { withPart committing9 with
  mem := (bs.zipIdx.filter (fun e => e.1 != 0)).map (fun e => (memKey site0 0 0 0x100000 + e.2, e.1)) }
def loading (bs : List Byte) : State := modPart 9 (fun a => { a with commits := [] }) (committing bs)

theorem witness_SectionsAreCommittedAndReleased :
    Commands pkt5 hdr9 jobbed part9 job7 ∧
    (let s := withPart { part9 with commits := [{ addr := imageAt 5, len := 704 }] }
     (getPart s 9).map Part.commits = some [{ addr := imageAt 5, len := 704 }] ∧ imagePieces s { part9 with commits := [] } (imageAt 5) 704 = none) ∧
    (getPart (committing image28) 9 = some committing9 ∧
      ∃ ps ∈ imagePieces (loading (image28.take 8)) part9 (imageAt site0) 64,
        ∃ bs ∈ imageBytes (loading (image28.take 8)) ps, headerBad bs = false ∧ (headerRange bs 64 = false ∨ tablesOk (readImage bs) = false)) ∧
    (∃ ps ∈ imagePieces (loading []) part9 (imageAt site0) 64, ∃ bs ∈ imageBytes (loading []) ps, headerBad bs = true) ∧
    (let s := { loading [] with ecc := [((memKey site0 0 0 0x100000) / 8, .double)] }
     ∃ ps ∈ imagePieces s part9 (imageAt site0) 64, imageBytes s ps = none) ∧
    (sectionOf part9 1 = some section1 ∧ sectionUsed part9 1 = false ∧ sectionOf part9 7 = none) ∧
    NotCommanded pkt5 ⟨8, 9, 1⟩ jobbed :=
  ⟨jobbed_commands, by decide +kernel, by decide +kernel, by decide +kernel, by decide +kernel, by decide +kernel, jobbed_not_commanded⟩

/-- One image passes every check; the other fails one, since its tile lies outside the fabric of its partition. -/
theorem witness_SectionsAreCommittedAndReleased_checks :
    (∃ ps ∈ imagePieces (loading image28) part9 (imageAt site0) 704, imageBytes (loading image28) ps = some image28 ∧
      firstFail (touchImage ps (loading image28)) 9 part9 (readImage image28) (applyFolds (readImage image28)).1 (applyFolds (readImage image28)).2 = none) ∧
    (headerBad image28 = false ∧ headerRange image28 704 = true ∧ tablesOk (readImage image28) = true) ∧
    (∃ ps ∈ imagePieces (loading image200) part9 (imageAt site0) 704, imageBytes (loading image200) ps = some image200 ∧
      (firstFail (touchImage ps (loading image200)) 9 part9 (readImage image200) (applyFolds (readImage image200)).1
        (applyFolds (readImage image200)).2).isSome = true) ∧
    (headerBad image200 = false ∧ headerRange image200 704 = true ∧ tablesOk (readImage image200) = true) :=
  ⟨by decide +kernel, ⟨by decide +kernel, image28_in_range, by decide +kernel⟩, by decide +kernel,
    by decide +kernel, image200_in_range, by decide +kernel⟩

def queued9 (a : Part) (q : List Run) : State := withPart { a with queue := q }

theorem witness_RunsAreQueuedReportedAndWatched :
    (Commands pkt5 hdr9 jobbed part9 job7 ∧ sectionOf part9 1 = some section1 ∧
      1000 * section1.energy ≤ largestShare jobbed part9 * section1.time ∧ part9.queue.length < 256 ∧ ([3] : List Nat).all (knownPred part9) = true ∧
      ([77] : List Nat).all (knownPred part9) = false ∧ crestOwner jobbed (9 * 256) = some 9) ∧
    (let x := { section1 with energy := 100000000 }
     let a := { stopped9 with share := 0, reservation := 0, resident := [x] }
     sectionOf a 1 = some x ∧ largestShare (withPart a) a * x.time < 1000 * x.energy) ∧
    (sectionOf part9 77 = none ∧ 7 < 8 ∧ 2 < 3 ∧ 4 < ([1, 1, 1, 1, 1] : List Nat).length) ∧
    (let a := { stopped9 with queue := [run5, { run5 with number := 8, preds := [5] }] }
     getPart (withPart a) 9 = some a ∧ (∃ r ∈ a.queue, r.number = 5) ∧ a.queue.length ≤ 256 ∧ ∀ r ∈ a.queue, r.number ≠ 4) ∧
    (runState part9 3 = some (0, 0) ∧ cur4.number ≠ 0 ∧ part9.current = none ∧ runState part9 77 = none) ∧
    (let r := { run5 with ready := true, readySince := 3 }
     let a := { stopped9 with queue := [r], share := 0 }
     getPart (withPart a) 9 = some a ∧ r.ready = true ∧ r.starvedNoted = false ∧ eligible a r = false ∧ a.cadence = none) ∧
    (getPart running4 9 = some { part9 with current := some cur4 } ∧ cur4.overran = false) :=
  ⟨⟨jobbed_commands, by decide +kernel⟩, by decide +kernel, by decide +kernel, by decide +kernel, by decide +kernel, by decide +kernel, by decide +kernel⟩

def cadence1 : Cadence := { period := 100000, estimate := 20000, energy := 1, sections := [1], w0 := 127999990000, nextK := 0 }
def paced (f : Cadence → Cadence) : Part := { part9 with cadence := some (f cadence1) }

theorem witness_CadenceFramesFollowTheGrid :
    (Commands pkt5 hdr9 jobbed part9 job7 ∧ part9.role = 0 ∧ part9.cadence = none ∧ (∀ n ∈ [1], (sectionOf part9 n).isSome = true) ∧
      20000 ≤ 100000 ∧ 1 * 1000000 ≤ part9.reservation * 100000) ∧
    (Commands pkt5 hdr9 (withPart (paced id)) (paced id) job7 ∧ (paced id).cadence = some cadence1 ∧ cadence1.frameK = none ∧ (paced id).queue = []) ∧
    (let a := { paced (fun c => { c with frameK := some 3 }) with current := some cur4 }
     a.cadence = some { cadence1 with frameK := some 3 } ∧ a.queue = [] ∧ a.current.isSome = true) ∧
    (getPart (withPart (paced id)) 9 = some (paced id) ∧ cadence1.w0Tick = false ∧ cadence1.stopping = false ∧ (paced id).current = none ∧
      cadence1.undecided = [] ∧ cadence1.frameLeft = [] ∧ (paced id).pstate = .jobOpen ∧ (withPart (paced id)).mesh.routingReady = true ∧
      testHolds (withPart (paced id)) 9 = false) ∧
    (frameStart cadence1 0 < windowAt cadence1 1 ∧ frameStart cadence1 0 + (cadence1.estimate * 10 : Nat) ≤ windowAt cadence1 1 ∧
      cadence1.sections = 1 :: [] ∧ sectionOf (paced id) 1 = some section1) ∧
    (let c := { cadence1 with frameEnd := some 128000980000 }
     ¬(frameStart c 0 + (c.estimate * 10 : Nat) ≤ windowAt c 1 ∨ setting (withPart (paced (fun _ => c))) 0x2D12 (9 + 1) = 1)) :=
  ⟨⟨jobbed_commands, by decide +kernel⟩, ⟨commands_of (arrives_of (by decide +kernel)) (by decide +kernel), by decide +kernel⟩,
    by decide +kernel, by decide +kernel, by decide +kernel, by decide +kernel⟩

def tiled (t : Tile) (f : Current → Current) : State := tileOf site0 t (withPart { part9 with current := some (f cur4) })

theorem witness_TilesStartFinishAndAbortARun :
    siteKey x0 y0 = site0 ∧
    (let c := { cur4 with loaded := [] }
     let s := tiled { run := .loading } (fun _ => c)
     running s site0 = some (9, { part9 with current := some c }, c, section1) ∧ (getTile s site0).run = .loading ∧ site0 ∈ section1.sites ∧
       section1.base + section1.recLen * 256 ≤ 2097152 ∧ hasDouble s (memKey site0 0 0 section1.base) (section1.recLen * 256) = false) ∧
    (let s := tiled { run := .finished } id
     running s site0 = some (9, { part9 with current := some cur4 }, cur4, section1) ∧ (getTile s site0).run = .finished ∧
       site0 ∉ cur4.finished ∧ ∃ j ∈ section1.sites, j ≠ site0 ∧ j ∉ cur4.finished) ∧
    (let c := { cur4 with finished := [site1] }
     let s := tiled { run := .finished } (fun _ => c)
     running s site0 = some (9, { part9 with current := some c }, c, section1) ∧ ∀ j ∈ section1.sites, j = site0 ∨ j ∈ c.finished) ∧
    running jobbed site0 = none ∧
    (let a := { part9 with current := some cur4, resident := [{ section1 with sites := [site1] }] }
     running (withPart a) site0 = some (9, a, cur4, { section1 with sites := [site1] }) ∧ site0 ∉ [site1]) := by
  refine ⟨?_, ?_, ?_, ?_, ?_, ?_⟩ <;> decide +kernel

/-! An element-wise actor of 16 rows and 16 columns: port 0 takes binding 0, the output ring goes to binding 1. -/

def w32 (n : Nat) : Word32 := BitVec.ofNat 32 n
def portWord (mode b depth base size : Nat) : Word32 := w32 (mode * 2 ^ 30 + b * 2 ^ 28 + (depth - 1) * 2 ^ 25 + base * 2 ^ 15 + size * 32)
def bindWord (kind depth x y slot peer : Nat) : Word32 :=
  w32 (2 ^ 31 + kind * 2 ^ 29 + (depth - 1) * 2 ^ 25 + x * 2 ^ 16 + y * 128 + slot * 32 + peer * 8)
def cellCfg (p0 out b0 b1 : Word32) : List Word32 :=
  [w32 (2 * 2 ^ 28 + 6 * 2 ^ 24 + 6 * 2 ^ 20 + 6 * 2 ^ 16), 0, w32 (2 ^ 24 + 2 ^ 16 + 7 * 2 ^ 11), 0, 0, 0, p0, 0, 0, 0, out, 0, b0, 0, 0, 0,
   0, b1, 0, 0, 0, 0, 0, 0]
def bufferPort : Word32 := portWord 2 0 2 0 4
def ringPort : Word32 := portWord 2 1 2 16 4
def from1 : Word32 := bindWord 0 4 (siteX site1) (siteY site1) 0 1
def to1 : Word32 := bindWord 0 4 (siteX site1) (siteY site1) 0 2
def adder : CC := { cfg := cellCfg bufferPort ringPort from1 to1, curSection := 1 }
def genCfg (dst : Nat) : List Word32 :=
  [w32 (2 ^ 31 + 6 * 2 ^ 24), w32 0x4000, w32 dst, w32 (15 * 2 ^ 18), w32 (15 * 2 ^ 22 + 16), 0, 0, 0, 0, 0, w32 (7 * 2 ^ 29), 0,
   w32 (6 * 2 ^ 13), 0, 0, 0]
def toRing : AG := { cfg := genCfg (2 * 2 ^ 30), depth := 2, size := 4 }
def adding (c : CC) : Tile := { run := .running, cc := [(0, c)], base := 0x1000 }

/-- The run of section 1 with a tile at the first site. -/
def on (t : Tile) : State := tileOf site0 t running4
def to0 (target slot : Nat) (tag : BitVec 16) : Head := ⟨⟨siteX site1, siteY site1, 0⟩, ⟨x0, y0, slot⟩, target, 5, tag⟩
def part4 : Part := { part9 with current := some cur4 }

/-- The run of section 1 in a changed partition, and a tile at the first site. -/
def inPart4 (f : Part → Part) (t : Tile) : State := tileOf site0 t (withPart (f part4))

/-- Section 1 with two consumers of the output ring. -/
def section2 : Section := { section1 with edges := [(cellKey site0 0, 1, cellKey site1 0, 2), (cellKey site0 0, 1, cellKey site1 1, 2)] }

theorem witness_TokensTuplesAndCreditsReachTheirAgents :
    (let s := on (adding adder)
     Live (to0 0 0 5) s ∧ (getCC s site0 0).stopped = false ∧ ccClass (getCC s site0 0).cfg ≠ 0 ∧ (ccIn (getCC s site0 0).cfg 0).enable = true ∧
       portsOn (getCC s site0 0).cfg 0 = [0] ∧ gated s site0 = false ∧ (ccPort (getCC s site0 0).cfg 0).mode ≠ 3 ∧ (getCC s site0 0).queues = [] ∧
       (getCC s site0 0).slots = [] ∧ 0 < ccWindow (getCC s site0 0).cfg ∧ dstSite (to0 0 0 5) = site0 ∧ running s site0 = some (9, part4, cur4, section1)) ∧
    (let s := on (adding { adder with lastFired := some 9 })
     (getCC s site0 0).lastFired.any (fun f => decide (((5 : BitVec 16) - (f + 1)).toNat ≥ 32768)) = true) ∧
    (let s := on (adding adder)
     Live (to0 3 0 5) s ∧ (getCC s site0 0).stopped = false ∧ (ccIn (getCC s site0 0).cfg 3).enable = false) ∧
    (let s := on (adding { adder with stopped := true })
     Live (to0 0 0 5) s ∧ (getCC s site0 0).stopped = true) ∧
    (let s := on { adding adder with ag := [(0, { toRing with expected := 3 })] }
     Live (to0 0 3 5) s ∧ Live (to0 4 3 5) s ∧ (getAG s site0 0).stopped = false ∧ stagingReader s site0 (getAG s site0 0) = none) ∧
    (let s := on { adding adder with ag := [(0, { toRing with cfg := genCfg (2 ^ 30 + 0x400) }), (1, { toRing with cfg := (genCfg (2 * 2 ^ 30)).set 1 (w32 (2 ^ 30 + 0x400)) })] }
     Live (to0 0 3 5) s ∧ (stagingReader s site0 (getAG s site0 0)).isSome = true) ∧
    (let s := inPart4 (fun a => { a with resident := [section2] }) (adding adder)
     Live (to0 1 0 0) s ∧ running s site0 = some (9, { part4 with resident := [section2] }, cur4, section2) ∧
       (consumers section2 site0 0 1 (ccOut adder.cfg 1)).length = 2) ∧
    (let s := tileOf site0 (adding adder) jobbed
     Live (to0 0 0 5) s ∧ running s site0 = none) ∧
    (let s := on { adding adder with run := .loading }
     delivers s (to0 0 0 5) = true ∧ (getTile s site0).run = .loading) ∧
    (let s := on { adding adder with run := .stopped }
     delivers s (to0 0 0 5) = true ∧ (getTile s site0).run = .stopped) ∧
    (delivers (on (adding adder)) (to0 4 3 0) = true ∧ (to0 4 3 0).target = 4) ∧
    (let h := { to0 0 0 5 with domain := 6 }
     h.dst.x ≠ ringXY ∧ delivers (on (adding adder)) h = false) := by
  simp only [Live]; refine ⟨?_, ?_, ?_, ?_, ?_, ?_, ?_, ?_, ?_, ?_, ?_, ?_⟩ <;> decide +kernel

/-- Tag 5 has arrived, and the output ring has room. -/
def readySlot : TagSlot := { index := 0, tag := 5, present := [(0, { tag := 5, rows := 16, cols := 16 })], readyAt := some 1 }
def oneFired : Fired := { tag := 5, elems := (List.range 256).map (fun i => some i), rows := 16, cols := 16, released := true }
def firing : State := on (adding { adder with slots := [readySlot] })
def draining (mode kind slot : Nat) : State :=
  on (adding { adder with cfg := cellCfg bufferPort (portWord mode 1 2 16 4) from1 (bindWord kind 4 (siteX site1) (siteY site1) slot 2), pipe := [oneFired] })

theorem witness_ActorsFireReleaseAndDrain :
    (let c := getCC firing site0 0
     running firing site0 = some (9, part4, cur4, section1) ∧ (getTile firing site0).run = .running ∧ c.stopped = false ∧ ccClass c.cfg ≠ 0 ∧
       pipeReady c = true ∧ gated firing site0 = false ∧ outFree firing section1 site0 0 c = true ∧ c.firedCount < ccTags section1 site0 0 ∧
       selfPaced c.cfg = false ∧ nextSlot c = some readySlot ∧ c.queues = [] ∧
       (∀ q ∈ (List.range 4).map (readPort firing site0 0 c 5 readySlot.present), hasDouble firing q.2.1 q.2.2 = false) ∧
       hasDouble firing (memKey site0 2 0 (ccConstLine c.cfg * 64)) (constLines c.cfg * 64) = false) ∧
    (let s := { firing with ecc := [((memKey site0 2 0 256) / 8, .double)] }
     ∃ q ∈ (List.range 4).map (readPort s site0 0 (getCC s site0 0) 5 readySlot.present), hasDouble s q.2.1 q.2.2 = true) ∧
    (let s := on (adding { adder with cfg := cellCfg (portWord 3 0 1 0 4) ringPort 0 0, filled := [(0, { tag := 0, rows := 16, cols := 16 })] })
     let c := getCC s site0 0
     selfPaced c.cfg = true ∧ (∀ i ∈ fixedPorts c.cfg, (amFind c.filled i).isSome = true)) ∧
    (let s := on (adding { adder with slots := [readySlot], outCredits := [(1, 4)], firedCount := 4 })
     running s site0 = some (9, part4, cur4, section1) ∧ outFree s section1 site0 0 (getCC s site0 0) = false ∧
       ccTags section1 site0 0 ≤ (getCC s site0 0).firedCount) ∧
    gated (inPart4 (fun a => { a with role := 2 }) (adding adder)) site0 = true ∧
    (let c := { adder with pipe := [oneFired, oneFired, { oneFired with released := false }] }
     2 ≤ heldResults c ∧ pipeReady c = false ∧ (c.pipe.find? (fun (q : Fired) => !q.released)).isSome = true) ∧
    (let c := { adder with pipe := [{ oneFired with released := false }] }
     (c.pipe.find? (fun (q : Fired) => !q.released)).isSome = true ∧ heldResults c ≤ 1) ∧
    (let s := draining 2 0 0
     let c := getCC s site0 0
     running s site0 = some (9, part4, cur4, section1) ∧ c.stopped = false ∧ gated s site0 = false ∧ drainHolds s section1 site0 0 c = false ∧
       c.pipe = oneFired :: [] ∧ oneFired.released = true ∧
       (ccPort c.cfg 4).mode = 2 ∧ (ccOut c.cfg (ccPort c.cfg 4).binding).enable = true ∧ (ccOut c.cfg (ccPort c.cfg 4).binding).kind ≠ 3 ∧
       (ccOut c.cfg (ccPort c.cfg 4).binding).kind ≠ 2) ∧
    (let c := getCC (draining 1 0 0) site0 0
     (ccPort c.cfg 4).mode = 1 ∧ (ccOut c.cfg (ccPort c.cfg 4).binding).enable = true) ∧
    (let s := tileOf site1 { run := .running, cc := [(0, { queues := [(2, [{ tag := 1 }])] })] } (draining 1 0 0)
     running s site0 = some (9, part4, cur4, section1) ∧ drainHolds s section1 site0 0 (getCC s site0 0) = true) ∧
    (let c := getCC (draining 2 3 3) site0 0
     (ccOut c.cfg (ccPort c.cfg 4).binding).kind = 3) ∧
    (let c := getCC (draining 2 2 0) site0 0
     (ccOut c.cfg (ccPort c.cfg 4).binding).kind = 2 ∧ (ccOut c.cfg (ccPort c.cfg 4).binding).slot ≠ 3) := by
  refine ⟨?_, ?_, ?_, ?_, ?_, ?_, ?_, ?_, ?_, ?_, ?_, ?_⟩ <;> decide +kernel

/-- Generator 0 in the running tile. -/
def gen (g : AG) : State := on { adding adder with ag := [(0, g)] }
def halo0 : AG := { cfg := (genCfg (2 ^ 30 + 0x8000)).set 11 (w32 (2 ^ 28 + 2 * 2 ^ 20 + 2 ^ 15 + 8)), depth := 1, size := 4 }
def genRows (s : State) : List (Int × List (Option Nat)) :=
  let g := getAG s site0 0
  agWrites s site0 g (if agHasHalo g.cfg then padded s site0 g else agBlock s site0 g)

theorem witness_GeneratorsFillTheirBuffers :
    (let s := gen toRing
     let g := getAG s site0 0
     (getTile s site0).remote = [] ∧
     (running s site0).isSome = true ∧ (getTile s site0).run = .running ∧ g.expected = 0 ∧ agReady s site0 g = true ∧ agReadsOk s site0 g = true ∧
       agHasHalo g.cfg = false ∧ (∀ e ∈ agReads s site0 g, hasDouble s e.1 e.2 = false) ∧ haloReads s site0 g = [] ∧ agToRing g = true) ∧
    (let s := { gen toRing with ecc := [(memKey site0 0 0 0x4000 / 8, .double)] }
     ∃ e ∈ agReads s site0 (getAG s site0 0), hasDouble s e.1 e.2 = true) ∧
    (getAG (gen { toRing with expected := 3 }) site0 0).expected ≠ 0 ∧
    (let s := gen { toRing with cfg := (genCfg (2 * 2 ^ 30)).set 1 (w32 0x1FFFF8) }
     (getAG s site0 0).expected = 0 ∧ agReady s site0 (getAG s site0 0) = true ∧ agReadsOk s site0 (getAG s site0 0) = false) ∧
    (let g := { toRing with cfg := (genCfg 0x8000).set 1 (w32 (2 * 2 ^ 30)), tokens := [{ tag := 0 }] }
     agReady (gen g) site0 g = true ∧ agReadsOk (gen g) site0 g = true ∧ agFromRing g = true) ∧
    (let g := getAG (gen halo0) site0 0
     agReady (gen halo0) site0 g = true ∧ agReadsOk (gen halo0) site0 g = true ∧ agHasHalo g.cfg = true ∧ g.haloSent ≤ g.next ∧
       haloReady (gen halo0) site0 g = false ∧ ∀ e ∈ agReads (gen halo0) site0 g, hasDouble (gen halo0) e.1 e.2 = false) ∧
    (let s := { gen halo0 with ecc := [(memKey site0 0 0 0x4000 / 8, .double)] }
     ∃ e ∈ agReads s site0 (getAG s site0 0), hasDouble s e.1 e.2 = true) ∧
    (let s := gen { halo0 with haloSent := 1 }
     agReady s site0 (getAG s site0 0) = true ∧ (getAG s site0 0).next < (getAG s site0 0).haloSent ∧ haloReady s site0 (getAG s site0 0) = false) := by
  refine ⟨?_, ?_, ?_, ?_, ?_, ?_, ?_, ?_⟩ <;> decide +kernel

theorem witness_GeneratorsFillTheirBuffers_rows :
    (∀ v ∈ genRows (gen toRing), validLen v.2 = 0 ∨ inSpace (agDst toRing.cfg).1 v.1 (packedBytes (agFmt toRing.cfg) (validLen v.2)) = true) ∧
    (let g := { toRing with cfg := genCfg (2 ^ 30 + 0x1FFF8) }
     agReady (gen g) site0 g = true ∧ agReadsOk (gen g) site0 g = true ∧
       ¬∀ v ∈ genRows (gen g), validLen v.2 = 0 ∨ inSpace (agDst g.cfg).1 v.1 (packedBytes (agFmt g.cfg) (validLen v.2)) = true) ∧
    (let s := gen { halo0 with haloGot := [(0, 1), (2, 1), (4, 1)], haloSent := 1 }
     let g := getAG s site0 0
     agReady s site0 g = true ∧ haloReady s site0 g = true ∧ ∀ e ∈ haloReads s site0 g, hasDouble s e.1 e.2 = false) ∧
    (let s := { gen { halo0 with haloGot := [(0, 1), (2, 1), (4, 1)], haloSent := 1 } with
       ecc := [(memKey site0 1 0 (haloBase halo0.cfg 0) / 8, .double)] }
     ∃ e ∈ haloReads s site0 (getAG s site0 0), hasDouble s e.1 e.2 = true) := by
  refine ⟨?_, ?_, ?_, ?_⟩ <;> decide +kernel

theorem witness_StripsStreamsAndSamplesAreStored :
    (Live (to0 0 3 5) (gen halo0) ∧ Live (to0 4 3 5) (gen halo0) ∧ (getAG (gen halo0) site0 0).stopped = false ∧
      (∃ e ∈ haloSides halo0.cfg, e.1 = haloRegion .north) ∧ inSpace 1 (haloBase halo0.cfg (haloRegion .north)) (haloBytes halo0.cfg (haloRegion .north)) = true ∧
      haloRegion .north < 2 ∧ agCorners halo0.cfg = true ∧ 2 < haloBytes halo0.cfg (haloRegion .north) ∧
      ∃ e ∈ haloSides halo0.cfg, e.1 = 2 ∧ (haloPeer (gen halo0) site0 e.2).isSome = true) ∧
    (let g := { halo0 with cfg := ((genCfg (2 ^ 30 + 0x8000)).set 0 (w32 (2 ^ 31 + 9 * 2 ^ 24))).set 11 (w32 (2 ^ 28 + 2 * 2 ^ 20 + 2 ^ 15 + 1023)) }
     (∃ e ∈ haloSides g.cfg, e.1 = haloRegion .north ∨ e.1 = haloRegion .east ∨ e.1 = haloRegion .south) ∧
       ∃ e ∈ haloSides g.cfg, inSpace 1 (haloBase g.cfg e.1) (haloBytes g.cfg e.1) = false) ∧
    (∀ e ∈ haloSides toRing.cfg, e.1 ≠ haloRegion .north) ∧
    (let s := on (adding { adder with streamFill := [(5, 100)] })
     Live (to0 0 0 5) s ∧ (getCC s site0 0).stopped = false ∧ ccClass (getCC s site0 0).cfg ≠ 0 ∧ (ccIn (getCC s site0 0).cfg 0).enable = true ∧
       portsOn (getCC s site0 0).cfg 0 = [0] ∧ 2 ≤ (ccPort (getCC s site0 0).cfg 0).mode) ∧
    (let c := { adder with cfg := cellCfg (portWord 1 0 2 0 4) ringPort from1 to1 }
     portsOn c.cfg 0 = [0] ∧ (ccPort c.cfg 0).mode < 2) ∧
    ((ccIn adder.cfg 3).enable = false ∧ adder.stopped = false ∧ (getCC (on (adding { adder with stopped := true })) site0 0).stopped = true) ∧
    (delivers (on { adding adder with run := .loading }) (to0 0 0 5) = true ∧ delivers (on { adding adder with run := .stopped }) (to0 0 0 5) = true ∧
      delivers (on (adding adder)) (to0 0 3 5) = true ∧ delivers (on (adding adder)) { to0 0 0 5 with domain := 6 } = false) ∧
    (let s := { live with ecc := [((siteKey x0 y0 * 0x400000 + 8) / 8, .counted)] }
     amFind s.ecc ((siteKey x0 y0 * 0x400000 + 8) / 8) = some .counted ∧ amFind s.ecc ((siteKey x0 y0 * 0x400000) / 8) ≠ some .counted) ∧
    (let a := { part9 with sampling := some (100, 0x5000, 16) }
     getPart (withPart a) 9 = some a ∧ a.sampling = some (100, 0x5000, 16)) ∧
    (let a := { part4 with sampling := some (100, 0x5000, 3), resident := [{ section1 with sites := [site0] }] }
     mappedSites a = [site0]) ∧
    (getPart jobbed 9).bind Part.sampling = none := by
  simp only [Live]; refine ⟨?_, ?_, ?_, ?_, ?_, ?_, ?_, ?_, ?_, ?_, ?_⟩ <;> decide +kernel

theorem witness_MulticastsReachTheirRectangle :
    (let s := on (adding adder)
     let m := castMsg (to0 0 0 5) 5 x0 y0 0 1 []
     (((castArea m).map (fun a => a.2.2.2.2)).getD []).filter (served s) = [site0] ∧ branchWaits s m (rootOf s m) site0 = false) ∧
    (let s := on { adding adder with routerOff := true }
     let m := castMsg (to0 0 0 5) 5 (x0 + 1) y0 0 1 []
     branchWaits s m (rootOf s m) site0 = true) ∧
    (∃ v, innerData 1 (copyHead (on (adding adder)) (to0 0 0 5) site0) [] (on (adding adder)) = .next v) ∧
    delivers (on (adding adder)) (to0 4 3 0) = true ∧ delivers (on (adding adder)) { to0 4 3 0 with domain := 6 } = false ∧
    (let c : Cast := { head := to0 0 0 5, left := [site0] }
     let s := { on (adding adder) with mesh := { (on (adding adder)).mesh with casts := [c] } }
     s.mesh.casts = [c] ∧ (c.head.src = (to0 0 0 5).src ∧ c.head.tag = (to0 0 0 5).tag) ∧ c.head.domain = 5 ∧ c.noted = false ∧
       (∃ pos ∈ c.left, physical s pos = siteKey x0 y0) ∧ ∀ d ∈ (on (adding adder)).mesh.casts, d ≠ c) :=
  ⟨by decide +kernel, by decide +kernel, ⟨_, rfl⟩, by decide +kernel, by decide +kernel, by decide +kernel⟩

def home : AG := { toRing with cfg := (genCfg (2 * 2 ^ 30)).set 1 (w32 (2 * 2 ^ 30)), expected := 3 }
def piece (count ordinal : Nat) (det : Bool) : CombinePrefix := { count := count, ordinal := ordinal, isInt := true, det := det }

theorem witness_CombiningHomesAddTheirPieces :
    (let s := gen home
     let g := getAG s site0 0
     Live (to0 0 3 0) s ∧ g.stopped = false ∧ 0 < g.expected ∧ 0 < pieceCount g.size ∧ 0 / max 1 (pieceCount g.size) < max 1 g.depth ∧
       (List.replicate 64 (5 : Word32)).length = pieceLen g 0 ∧ (piece 1 0 false).isInt = !homeFloat g ∧ g.held = [] ∧ amGet g.arrived 0 0 = 0 ∧
       (piece 2 1 true).ordinal < g.expected ∧ holdAddr g 0 1 + 256 ≤ 131072) ∧
    (let g := { home with size := 1, arrived := [(0, 2)] }
     pieceCount g.size = 1 ∧ amGet g.arrived 0 0 + 1 = g.expected ∧ 0 ∉ g.spoiled ∧
       hasDouble (gen g) (pieceKey site0 g 0 0) (pieceLen g 0 * 4) = false ∧
       hasDouble { gen g with ecc := [(pieceKey site0 g 0 0 / 8, .double)] } (pieceKey site0 g 0 0) (pieceLen g 0 * 4) = true) ∧
    (let g := { home with expected := 1000 }
     (piece 1 600 true).ordinal < g.expected ∧ 131072 < holdAddr g 0 600 + 256) ∧
    (let g := { home with held := [{ buffer := 0, piece := 0, ordinal := 1, count := 1 }] }
     ∃ q ∈ g.held, q.buffer = 0 ∧ q.piece = 0 ∧ q.ordinal = 1) ∧
    (delivers (gen home) (to0 0 3 0) = true ∧ dstIsTile (to0 0 3 0) = true ∧ descOf (gen home) site0 9 = none) ∧
    (delivers (on { adding adder with run := .loading }) (to0 0 3 0) = true ∧ delivers (on { adding adder with run := .stopped }) (to0 0 3 0) = true ∧
      delivers (gen home) { to0 0 3 0 with domain := 6 } = false ∧ (getAG (gen { home with stopped := true }) site0 0).stopped = true) ∧
    dstIsTile ⟨⟨1, 1, 3⟩, ⟨0x1FF, 0x1FF, 0⟩, 4, 5, 0⟩ = false ∧ pieceLen home 0 ≠ 3 := by
  simp only [Live]; refine ⟨?_, ?_, ?_, ?_, ?_, ?_, ?_, ?_⟩ <;> decide +kernel

/-! Counters: crest counter 2304 of partition 9 and counter 1 of its first tile stand at p = 10, c = 4, bound 20. -/

def counter1 : Counter := { p := 10, c := 4, bound := 20 }
def counted (a : Part) : State := { tileOf site0 { run := .running, counters := [(1, counter1)] } (withPart a) with
  crest := { live.crest with counters := [(9 * 256, counter1)] } }
def crestMsg : CtrMsg := ⟨true, 9 * 256, true, ⟨siteX site1, siteY site1, 0⟩, 3⟩
def tileMsg : CtrMsg := ⟨false, 1, true, ⟨siteX site1, siteY site1, 0⟩, 3⟩
def toCrest : Head := { to0 4 3 7 with dst := ⟨0x1FF, 9, 0⟩ }
def quiet9 : Part := { part9 with job := none, pstate := .ready }

theorem noBarrier_of {key : CtrKey} {s : State} (h : ∀ q ∈ ctrOwner s key, getHostOp s q 0 = none) : NoBarrier key s := h

theorem witness_CountersTakeTheirOperations :
    (toCrest.dst.x = ringXY ∧ delivers (counted part9) (to0 4 3 7) = true ∧ delivers (counted part9) { to0 4 3 7 with domain := 6 } = false ∧
      ctrFrozen (counted { part9 with frozen := true }) (.tile site0 1) = true) ∧
    (((ctrOwner (counted part9) (.crest 2304)).bind (getPart (counted part9))).map Part.domain = some 5 ∧
      ctrFrozen (counted part9) (.crest 2304) = false ∧ (∀ w ∈ (counted part9).crest.watches, w.key ≠ .crest 2304)) ∧
    NoBarrier (.crest 2304) (counted part9) ∧ msgKey toCrest true 2304 = .crest 2304 ∧
    msgKey (to0 4 3 7) false 1 = .tile site0 1 ∧
    (counter1.p - counter1.c).toNat + 14 = counter1.bound.toNat ∧
    Operation true (.crest 2304) (counted quiet9) 1 14 { counter1 with p := 24 } 0 none ∧
    Operation true (.crest 2304) (counted quiet9) 1 15 counter1 1 (some (evCtr (counted quiet9) 0x180 1 (.crest 2304) 0)) ∧
    Operation true (.crest 2304) (counted quiet9) 2 6 { counter1 with c := 10 } 0 none ∧
    Operation true (.crest 2304) (counted quiet9) 2 7 counter1 2 (some (evCtr (counted quiet9) 0x181 1 (.crest 2304) 0)) ∧
    Operation true (.crest 2304) (counted quiet9) 5 0 { counter1 with p := 0, c := 0 } 0 (some (evCtr (counted quiet9) 0x189 0 (.crest 2304) 6)) ∧
    (ctrFrozen (counted { part9 with frozen := true }) (.crest 2304) = true) ∧
    ((ctrOwner (counted part9) (.crest 2304)).bind (getPart (counted part9))).map Part.domain ≠ some 6 ∧
    (Arrives pkt5 jobbed ∧ syncPart jobbed pkt5 hdr9 = some part9 ∧ hostKey jobbed 9 ⟨0xFFFF, 0xFFFF, 2304⟩ = some (.crest 2304) ∧
      hostKey jobbed 9 ⟨0xFFFF, 0xFFFF, 5⟩ = none ∧ syncPart jobbed pkt5 ⟨8, 3, 1⟩ = none) := by
  refine ⟨?_, ?_, noBarrier_of ?_, ?_, ?_, ?_, .inl ?_, .inr (.inl ?_), .inr (.inr (.inl ?_)), .inr (.inr (.inr (.inl ?_))),
    .inr (.inr (.inr (.inr (.inr (.inr (.inr (.inl ?_))))))), ?_, ?_, arrives_of ?_, ?_, ?_, ?_, ?_⟩ <;> decide +kernel

def watched (n : Nat) : State := { counted part9 with
  crest := { (counted part9).crest with watches := List.replicate n { key := .crest 2304, v := 90 } } }
def notifying : State := on (adding { adder with cfg := cellCfg bufferPort 0 (bindWord 1 4 3 3 0 0) 0 })
def snapshotting (phase opsOut : Nat) : State :=
  tileOf site0 { opsOut := opsOut } (withPart { part9 with hostOps := [{ kind := 2, seq := 3, phase := phase, addr := 256 }], opSeq := 4 })

theorem witness_WatchesAreKeptAndNotify :
    (delivers (counted part9) (to0 4 3 7) = true ∧ (∀ q ∈ siteHolder (counted part9) site0, getHostOp (counted part9) q 2 = none) ∧
      delivers (counted part9) { to0 4 3 7 with domain := 6 } = false ∧ (to0 4 3 7).dst.x ≠ ringXY ∧ toCrest.dst.x = ringXY) ∧
    (siteHolder (snapshotting 0 1) site0 = some 9 ∧ ((getHostOp (snapshotting 0 1) 9 2).map HostOp.phase) = some 0 ∧
      (getTile (snapshotting 0 1) site0).arrivedAt = false ∧ (getTile (snapshotting 0 1) site0).opsOut ≤ 1 ∧ 1 < (getTile (snapshotting 0 3) site0).opsOut) ∧
    (((ctrOwner (watched 0) (.crest 2304)).bind (getPart (watched 0))).map Part.domain = some 5 ∧
      ((watched 2).crest.watches.filter (fun (a : Watch) => ctrHolder a.key == ctrHolder (.crest 2304))).length < watchRoom (.crest 2304)) ∧
    (((getCtr (watched 0) (.crest 2304)).p - 5).toNat < 2 ^ 47 ∧ 2 ^ 47 ≤ ((getCtr (watched 0) (.crest 2304)).p - 90).toNat) ∧
    (Live (to0 0 0 7) notifying ∧ (ccIn (getCC notifying site0 0).cfg 0).kind = 1) ∧
    (Live (to0 0 3 7) notifying ∧ 3 ≤ (to0 0 3 7).dst.slot) ∧
    (delivers (on { adding adder with run := .loading }) (to0 0 0 7) = true ∧ delivers (on { adding adder with run := .stopped }) (to0 0 0 7) = true) ∧
    (Arrives pkt5 (watched 2) ∧ syncPart (watched 2) pkt5 hdr9 = some part9 ∧ hostKey (watched 2) 9 ⟨0xFFFF, 0xFFFF, 2304⟩ = some (.crest 2304) ∧
      hostKey (watched 2) 9 ⟨0xFFFF, 0xFFFF, 5⟩ = none ∧ syncPart (watched 2) pkt5 ⟨8, 3, 1⟩ = none ∧
      watchHolds (watched 2) { key := .crest 2304, v := 5 } = true ∧ watchHolds (watched 2) { key := .crest 2304, v := 90 } = false) := by
  simp only [Live]; refine ⟨?_, ?_, ?_, ?_, ?_, ?_, ?_, arrives_of ?_, ?_, ?_, ?_, ?_, ?_, ?_⟩ <;> decide +kernel

/-- A tile has room for a fixed number of watches, and the refusal of the next begins there. -/
theorem witness_WatchesAreKeptAndNotify_full :
    (let s := { counted part9 with crest := { (counted part9).crest with watches := List.replicate (watchRoom (.tile site0 1)) { key := .tile site0 1, v := 90 } } }
     watchRoom (.tile site0 1) ≤ (s.crest.watches.filter (fun (a : Watch) => ctrHolder a.key == ctrHolder (.tile site0 1))).length) := by
  decide +kernel

def stilled (still : List Nat) (timer : Option Nat) (t : Tile) : State :=
  tileOf site1 { run := .finished } (tileOf site0 t (withPart { part4 with still := still, hangTimer := timer }))

def arrived0 : Head := ⟨⟨x0, y0, 3⟩, ⟨0x1FF, 0x1FF, 0⟩, 0, 5, 0⟩

theorem witness_StillTilesRunTheHangTimer :
    (arrived0.dst.x = ringXY ∧ fromTile arrived0 = true ∧ fromTile { arrived0 with src := ⟨x0, y0, 1⟩ } = false ∧
      delivers jobbed { to0 0 3 0 with domain := 6 } = false) ∧
    (let s := stilled [site1] none { run := .finished }
     siteKey x0 y0 = site0 ∧ (running s site0).isSome = true ∧ site0 ∈ section1.sites ∧ tileStill s section1 site0 = true ∧
       setting s 0x2C00 2 = 1 ∧ (∀ j ∈ sitesOf part4 cur4.sec, j ∈ [site1] ++ [site0]) ∧ trafficInFlight s 9 part4 = false) ∧
    (let s := stilled [] none { run := .finished }
     ∃ j ∈ sitesOf part4 cur4.sec, j ∉ [] ++ [site0] ∧ (running s site0).isSome = true) ∧
    (let s := stilled [] none { run := .running, ag := [(0, toRing)] }
     tileStill s section1 site0 = false) ∧
    (running jobbed site0 = none ∧ siteHolder jobbed site0 = some 9 ∧ siteHolder live site0 = none ∧ (getPart jobbed 9).bind Part.hangTimer = none) ∧
    (let s := stilled [site0, site1] (some 5) { run := .finished }
     (getPart s 9).bind Part.hangTimer = some 5 ∧ sectionOf part4 cur4.sec = some section1 ∧ part4.job = some job7 ∧
       (∀ k ∈ section1.sites, tileStill s section1 k = true) ∧ trafficInFlight s 9 part4 = false ∧ setting s 0x2A05 (9 + 1) ≠ 1 ∧
       setting s 0x2C00 2 = 1 ∧ setting (regOf 0x2C0002 0 s) 0x2C00 2 ≠ 1) := by
  refine ⟨?_, ?_, ?_, ?_, ?_, ?_⟩ <;> decide +kernel

theorem witness_GlobalOperationsGatherAndRelease :
    (Arrives pkt5 (counted part9) ∧ syncPart (counted part9) pkt5 hdr9 = some part9 ∧ part9.job = some job7 ∧ job7.members = [] ∧ part9.early = [] ∧
      (∀ o ∈ part9.hostOps, o.kind ≠ 0 ∧ o.kind ≠ 1 ∧ o.kind ≠ 2) ∧ crestOwner (counted part9) 2304 = some 9 ∧
      countGe (getCtr (counted part9) (.crest 2304)).p 100 = false ∧ countGe (getCtr (counted part9) (.crest 2304)).p 10 = true ∧
      part9.frozen = false ∧ (∀ w ∈ (counted part9).crest.watches, w.key ≠ .crest 2304) ∧
      ctrDiff (getCtr (counted part9) (.crest 2304)) + 1 ≤ (getCtr (counted part9) (.crest 2304)).bound.toNat ∧ crestOwner (counted part9) 5 ≠ some 9 ∧
      256 + 128 + 16 * (crestIndexes (counted part9) 9 part9).length ≤ 2097152 ∧ 257 % 256 ≠ 0) ∧
    (Arrives pkt5 (withPart quiet9) ∧ (syncPart (withPart quiet9) pkt5 hdr9).bind Part.job = none) ∧
    (syncPart jobbed pkt5 hdr9 = some part9 ∧ x0 < 288 ∧ y0 < 280 ∧ siteWorks jobbed (siteKey x0 y0) = true ∧
      siteHolder jobbed (siteKey x0 y0) = some 9 ∧ siteHolder jobbed (siteKey 0 0) ≠ some 9) ∧
    (pkt5.node < 12288 ∧ (0x13000009 : Word32).toNat / 2 ^ 28 = 1 ∧ (0x23000009 : Word32).toNat / 2 ^ 28 = 2 ∧ (0x60000009 : Word32).toNat / 2 ^ 28 = 6 ∧
      (0x70000009 : Word32).toNat / 2 ^ 28 ∉ [1, 2, 6] ∧ partOfDomain jobbed 5 = some 9 ∧ ∀ o ∈ part9.hostOps, o.seq ≠ 3) ∧
    (Arrives pktH jobbed ∧ 12288 ≤ pktH.node) ∧
    (arrived0.dst.x = ringXY ∧ dstIsTile arrived0 = false ∧ fromTile arrived0 = true ∧ siteHolder (snapshotting 0 0) (siteKey x0 y0) = some 9 ∧
      (getHostOp (snapshotting 0 0) 9 2).map HostOp.seq = some 3 ∧
      ∃ k ∈ partSites (snapshotting 0 0) part9, k ≠ siteKey x0 y0 ∧ (getTile (snapshotting 0 0) k).arrivedAt = false) ∧
    (let h : Head := ⟨⟨0x1FF, 0x1FF, 0⟩, ⟨0x1FF, 0x1FF, 0⟩, 0, 5, 0⟩
     fromTile h = false ∧ srcIsTile h = false ∧ srcIsTile arrived0 = true ∧ delivers jobbed { to0 0 3 0 with domain := 6 } = false) ∧
    (let h : Head := ⟨⟨0x1FF, 0x1FF, 0⟩, ⟨x0, y0, 3⟩, 0, 5, 0⟩
     delivers (snapshotting 2 0) h = true ∧ srcIsTile h = false ∧ (getHostOp (snapshotting 2 0) 9 2).map HostOp.phase = some 2 ∧
       ∀ q ∈ siteHolder jobbed (dstSite h), getHostOp jobbed q 2 = none) := by
  refine ⟨⟨arrives_of ?_, ?_⟩, ⟨arrives_of ?_, ?_⟩, ?_, ?_, ⟨arrives_of ?_, ?_⟩, ?_, ?_, ?_⟩ <;> decide +kernel

def wire0 (dst : Nat) (seq : BitVec 16) (vc hop : Nat) : WirePkt :=
  { pkt := { dst := dst, domain := 5, opcode := 1 }, src := 1, gen := 3, seq := seq, vc := vc, hops := 1, size := 64, hopSeq := BitVec.ofNat 16 hop }
def replaying (f : Port → Port) : State :=
  portOf 0 (f { (getPort live 0) with replay := [wire0 2 0 0 0, wire0 2 1 0 1, wire0 2 2 1 2], txSeq := 3 }) live
def discovering (i : Nat) : State := portOf i { st := .discovery } live

theorem witness_LinksTrainReplayAndRoute :
    ((getPort (portOf 0 { st := .training } live) 0).st = .training ∧ 12 ≤ live.pilot.step ∧ nodeId live ≠ 0xFFFF ∧
      nodeId State.reset = 0xFFFF ∧ (getPort (portOf 0 { st := .discovery } State.reset) 0).st = .discovery) ∧
    ((getPort (discovering 2) 2).st = .discovery ∧ hasSendKey (discovering 2) (mgmtDomain live) = true ∧
      peerAllowed (discovering 2) 2 ⟨0, 0, 4, 3, false, 10⟩ = true ∧ peerAllowed (discovering 2) 2 ⟨1, 0, 4, 3, false, 10⟩ = false ∧
      ¬(10 > classDelay (setting live 0x2612 3) ∨ (setting live 0x2612 3 = 2 ∧ 2 < 31)) ∧ 60000 > classDelay (setting live 0x2612 3)) ∧
    ((getPort live 0).st = .up ∧ (getPort live 1).st ≠ .up ∧ (getPort live 1).st ≠ .discovery ∧ (getPort live 1).st ≠ .training) ∧
    (let s := portOf 0 { st := .down } live
     (getPort s 0).st = .down ∧ setting s 0x2610 (0 + 1) = 1 ∧ 11 ≤ s.pilot.step) ∧
    (let p := getPort (replaying id) 0
     p.st = .up ∧ p.queue = [] ∧ p.replay = [wire0 2 0 0 0, wire0 2 1 0 1] ++ [wire0 2 2 1 2] ∧ p.fails.length < 8 ∧ p.replayTo = none) ∧
    (let s := replaying (fun p => { p with replayTo := some 2, fails := List.replicate 7 (now live - 1) })
     (∃ w ∈ (getPort s 0).replay, w.hopSeq = 2) ∧ 8 ≤ (((getPort s 0).fails ++ [now s]).filter (fun t => now s ≤ t + 10 * usT)).length) ∧
    (let s := replaying (fun p => { p with replayTo := some 2 })
     (∃ w ∈ (getPort s 0).replay, w.hopSeq = 2) ∧ (((getPort s 0).fails ++ [now s]).filter (fun t => now s ≤ t + 10 * usT)).length < 8) ∧
    ((0 : BitVec 16) = (getPort live 0).rxSeq + 1 ∧ (7 : BitVec 16) ≠ (getPort live 0).rxSeq + 1 ∧ (getPort live 0).nakSent = false ∧ pkt5.port = 0) ∧
    (deviceOnly 0x3E = true ∧ deviceOnly 0x2C = false ∧ pkt5.node < 12288 ∧ 12288 ≤ pktH.node) ∧
    (tp0.dst ≠ nodeId live ∧ tp0.hop = (getPort live 0).rxSeq + 1 ∧ tp0.hops < 8 ∧
      (transitPort (received 0 houseAccount 64 live) 3 0 2 false).isSome = true ∧
      transitPort (received 0 houseAccount 64 live) 3 0 12290 false = none ∧ (escapePort (received 0 houseAccount 64 live) 2).isSome = true) ∧
    (let s := portOf 0 { (getPort live 0) with queue := [wire0 2 9 0 0, wire0 2 10 2 1], peerOff := 15 } live
     (getPort s 0).queue[0]? = some (wire0 2 9 0 0) ∧ (wire0 2 9 0 0).vc < 2 ∧ (escapePort s 2).isSome = true ∧ 2 ≤ (wire0 2 10 2 1).vc ∧
       (getPort s 0).queue[2]? = none) := by
  refine ⟨?_, ?_, ?_, ?_, ?_, ?_, ?_, ?_, ?_, ?_, ?_⟩ <;> decide +kernel

/-- A command with a reserved opcode arrives. -/
theorem witness_LinksTrainReplayAndRoute_opcodes : Arrives pkt5 jobbed ∧ Arrives pktH jobbed :=
  ⟨arrives_of (by decide +kernel), arrives_of (by decide +kernel)⟩

def flow5 (f : FlowTx) : State := { jobbed with fabric := { jobbed.fabric with tx := [(flowKey 2 5, f)] } }
def packet9 : Packet := ⟨2, 5, 9, [1], false, none⟩
def sent9 (seq tries : Nat) (skipping : Bool) : Outst :=
  { seq := seq, tries := tries, skipping := skipping
    wire := { pkt := packet9, src := 1, gen := 3, seq := BitVec.ofNat 16 seq, hops := 1, size := 64 } }

/-- A packet that waits in a single group, where no candidate group leads further (R255). -/
def sending : State :=
  let s := flow5 { waiting := [packet9] }
  { s with fabric := { s.fabric with groupCount := 1 } }

theorem sending_candidates : candidateGroups sending 1 0 = [] := by
  simp only [candidateGroups, show max 1 sending.fabric.groupCount = 1 by decide +kernel, Nat.mod_one]; decide +kernel

theorem sending_path : choosePath sending (nodeId sending) 0 2 = some (0, false) := by
  have h : farPaths sending 1 0 = [] := by simp only [farPaths, sending_candidates]; decide +kernel
  simp only [choosePath, paths, show nodeId sending = 1 by decide +kernel, h]; decide +kernel

def unanswered : State := flow5 { next := 4, credits := 28, out := [sent9 0 0 false, sent9 1 9 false, sent9 2 0 false, sent9 3 1 true] }
def received5 (f : FlowRx) : State := { jobbed with fabric := { jobbed.fabric with rx := [(flowKey 2 5, f)] } }

theorem witness_FlowsAreSequencedAndResolved :
    ((getTx sending 2 5).waiting = packet9 :: [] ∧ sendSlot sending 5 = some (0, 3) ∧ 0 < (getTx sending 2 5).credits ∧
      (getSlots sending 5).draining = false ∧ (getTx sending 2 5).next < seqLimit ∧ (getPort sending 0).outstanding < 4096) ∧
    choosePath sending (nodeId sending) 0 2 = some (0, false) ∧
    ((getTx (flow5 { waiting := [packet9], credits := 0 }) 2 5).credits = 0 ∧
      4096 ≤ (getPort (portOf 0 { (getPort sending 0) with outstanding := 4096 } sending) 0).outstanding) ∧
    (seqLimit ≤ (getTx (flow5 { waiting := [packet9], next := seqLimit }) 2 5).next ∧ (getTx (flow5 { waiting := [packet9], next := seqLimit }) 2 5).exhaustedNoted = false) ∧
    (let s := { sending with sec := { sending.sec with slots := amSet sending.sec.slots 5 {} } }
     sendSlot s 5 = none ∧ packet9.part = none ∧ 6 < packet9.opcode ∧ hasKey s 5 = false) ∧
    ((getTx jobbed 2 5).waiting = [] ∧ portUp jobbed pkt5.port = true ∧ hopGood jobbed pkt5.port pkt5.hop pkt5.good = true ∧ hopGood jobbed pkt5.port 9 true = false ∧
      portUp jobbed 9 = false ∧ (getPort jobbed pkt5.port).nakSent = false ∧
      authentic jobbed { pkt5 with gen := 9 } (amGet jobbed.fabric.ctl (flowKey pkt5.node pkt5.domain) {}).accepted = false ∧ hasKey jobbed 5 = true ∧
      authentic jobbed pkt5 (amGet jobbed.fabric.ctl (flowKey pkt5.node pkt5.domain) {}).accepted = true ∧ (getSlots jobbed 5).draining = false) ∧
    (outstandingAt unanswered 2 5 0 = some (sent9 0 0 false) ∧ (∀ i < 32, outstandingAt unanswered 2 5 (9 + BitVec.ofNat 16 i) = none) ∧ pkt5.node < 12288 ∧
      12288 ≤ pktH.node ∧ portUp jobbed pktH.port = true ∧ authentic jobbed pktH (amGet jobbed.fabric.ctl (flowKey pktH.node pktH.domain) {}).accepted = true) ∧
    (let s := received5 { gen := 3, next := 2, closed := [1, 3], refusedSeqs := [0] }
     (getRx s 2 5).gen ≤ pkt5.gen ∧ extendSeq (rxFor pkt5 s).next 0 < (rxFor pkt5 s).next ∧ extendSeq (rxFor pkt5 s).next 0 ∉ (rxFor pkt5 s).closed ∧
       extendSeq (rxFor pkt5 s).next 1 ∈ (rxFor pkt5 s).closed ∧ (rxFor pkt5 s).next ≤ extendSeq (rxFor pkt5 s).next 2 ∧
       extendSeq (rxFor pkt5 s).next 2 ∉ (rxFor pkt5 s).closed) ∧
    pkt5.gen < (getRx (received5 { gen := 4 }) 2 5).gen ∧
    (outstandingAt unanswered 2 5 3 = some (sent9 3 1 true) ∧ (sent9 3 1 true).skipping = true ∧ (sent9 0 0 false).skipping = false) ∧
    ((getTx unanswered 2 5).out.find? (fun o => o.seq == 0) = some (sent9 0 0 false) ∧ (sent9 0 0 false).tries < setting unanswered 0x2600 6 ∧
      (getTx unanswered 2 5).out.find? (fun o => o.seq == 1) = some (sent9 1 9 false) ∧ setting unanswered 0x2600 6 ≤ (sent9 1 9 false).tries ∧
      (getTx unanswered 2 5).out.find? (fun o => o.seq == 9) = none) ∧
    (Arrives pkt5 jobbed ∧ groupOf pkt5.node = groupOf (nodeId jobbed) ∧ pkt5.node ≠ nodeId jobbed) ∧
    (Arrives pktH jobbed ∧ 12288 ≤ pktH.node) := by
  refine ⟨?_, sending_path, ?_, ?_, ?_, ?_, ?_, ?_, ?_, ?_, ?_, ⟨arrives_of ?_, ?_⟩, ⟨arrives_of ?_, ?_⟩⟩ <;> decide +kernel

def address (domain node pos space offset : Nat) : Word64 :=
  BitVec.ofNat 64 (domain * 2 ^ 58 + node * 2 ^ 44 + space * 2 ^ 42 + pos * 2 ^ 21 + offset)
def loadCmd (a : Word64) (len : Nat) : MemCmd := ⟨a, 0, 0, len, 3, 0, 0, false, false, 0⟩
def copyCmd (a v : Word64) (len : Nat) : MemCmd := ⟨a, v, 0, len, 3, 0, 0, false, false, 0⟩
def cachedWith (e : Word64) : State := { jobbed with fabric := { jobbed.fabric with caches := [(0, [{ pos := site0, entry := e, age := 1 }])] } }

theorem witness_MemoryCommandsAreCheckedAndTranslated :
    (let m := loadCmd (address 5 1 site0 0 0x1000) 64
     MemoryCommand pkt5 m (.memLoad pkt5 m) 1 [] ∧ Arrives pkt5 jobbed ∧ malformed jobbed 1 (gAddr m.addr) 64 0 0 5 false = false ∧
       (gAddr m.addr).domain = pkt5.domain ∧ (gAddr m.addr).node = nodeId jobbed ∧
       (opPositions (ringOp jobbed pkt5 m 1 [])).filter (fun q => (cached jobbed 0 q).isNone) ≠ [] ∧
       (opPositions (ringOp jobbed pkt5 m 1 [])).filter (fun q => (cached (cachedWith 0) 0 q).isNone) = [] ∧
       (entriesRefuse (cachedWith 0) (ringOp (cachedWith 0) pkt5 m 1 [])).isSome = true ∧
       entriesRefuse (cachedWith (spanEntry jobbed site0)) (ringOp (cachedWith (spanEntry jobbed site0)) pkt5 m 1 []) = none) ∧
    malformed jobbed 1 (gAddr (address 5 1 site0 3 0)) 64 0 0 5 false = true ∧
    malformed jobbed 3 (gAddr (address 5 1 site0 0 0x1000)) 8 0 0 5 false = true ∧ malformed jobbed 3 (gAddr (address 5 1 site0 0 0x1000)) 4 0 0 5 false = false ∧
    (let m := loadCmd (address 5 1 site0 0 0x1000) 64
     MemoryCommand pkt5 m (.memStore pkt5 m [1]) 2 [1] ∧ malformed jobbed 2 (gAddr m.addr) 64 0 0 5 false = false ∧ ([1] : List Byte).length ≠ m.len ∧ m.compressed = false) ∧
    (let g := gAddr (address 6 1 site0 0 0x1000)
     malformed jobbed 1 g 64 0 0 5 false = false ∧ g.domain ≠ pkt5.domain) ∧
    (let g := gAddr (address 5 2 site0 0 0x1000)
     malformed jobbed 1 g 64 0 0 5 false = false ∧ g.node ≠ nodeId jobbed ∧ hasSendKey jobbed 5 = true ∧ g.node < 12288) ∧
    (let a := gAddr (address 5 1 site0 0 0x1000)
     let d := gAddr (address 5 1 site1 0 0)
     ¬(gFits a 64 = false ∨ gFits d 64 = false ∨ 64 < 64 ∨ 64 % 64 ≠ 0 ∨ 4294967232 < 64 ∨ a.domain ≠ d.domain ∨ overlaps a d 64 = true ∨
         pkt5.domain = mgmtDomain jobbed ∨ (true = true ∧ d.node = nodeId jobbed ∧ crestOwner jobbed 2304 ≠ holder jobbed (fieldOf d.pos))) ∧
       overlaps a (gAddr (address 5 1 site0 0 0x1020)) 64 = true) ∧
    (let s := { jobbed with fabric := { jobbed.fabric with ops := [(5, ringOp jobbed pkt5 (loadCmd (address 5 1 site0 0 0x1000) 64) 1 [])] } }
     waitsFor s 0 site0 = true ∧ waitsFor s 0 site1 = false ∧ (freeSlot (amGet s.fabric.caches 0 [])).isSome = true ∧
       spanGenOf s site0 % 2 ^ 32 ≤ spanGenOf s site0 ∧ 0 < spanGenOf s site0 % 2 ^ 32) := by
  refine ⟨⟨.inl ⟨rfl, rfl, rfl⟩, arrives_of ?_, ?_⟩, ?_, ?_, ?_, ⟨.inr (.inl ⟨rfl, rfl⟩), ?_⟩, ?_, ?_, ?_, ?_⟩ <;> decide +kernel

def memReqOf (op len : Nat) (data : List Byte) : MemReq := ⟨op, 0, 0, len, 0, 0x1000, address 5 1 site0 0 0x1000, 9, data, 5, 1⟩
def replyOf (status reqId : Nat) (data : List Byte) : MemRep := ⟨status, 1, reqId, 0, data, 3⟩
def pieceOf (sent ended : Bool) (start : Nat) : Piece :=
  { ((piecesOf (gAddr (address 5 1 site0 0 0x1000)) 0 64).headD {}) with sent := sent, ended := ended, start := start }
def ringing (ps : List Piece) : State := { jobbed with fabric := { jobbed.fabric with
  ops := [(5, { op := 1, issuer := .host 2 5 3 0, domain := 5, cache := 0, pieces := ps, len := 64, reqNode := 2 })] } }
def loadDesc (len : Nat) (crest : Bool) : Desc := { len := len, loads := [(9, (0, len))], issued := len, domain := 5, crest := crest, index := 9 * 256 }
def fetching (ds : List Desc) : State := tileOf site0 { descs := ds } (withPart part9)

theorem witness_HomesPerformAndRepliesReturn :
    (let s := gen toRing
     delivers s (to0 4 3 0) = true ∧ remoteWaits s site0 = true ∧ (getTile s site0).remote = [] ∧ (memReqOf 2 4 []).space = 0) ∧
    remoteWaits jobbed site0 = false ∧
    (dstIsTile arrived0 = false ∧ delivers jobbed (to0 4 3 0) = true ∧ dstIsTile (to0 4 3 0) = true ∧
      delivers jobbed { to0 4 3 0 with domain := 6 } = false ∧ (memReqOf 2 4 [1, 2, 3, 4]).op = 2) ∧
    (hasDouble jobbed (placeKey site0 0 0x1000) 64 = false ∧ (memReqOf 3 4 []).op = 3 ∧ atomicNew 3 0 4 0 5 1 ≠ 0) ∧
    (let s := { jobbed with ecc := [((memKey site0 0 0 0x1000) / 8, .double)] }
     hasDouble s (placeKey site0 0 0x1000) 64 = true ∧
       (((getTile s site0).uncorrected ++ [now s]).filter (fun t => now s < t + 24 * 3600 * secT)).length < setting s 0x2B00 7) ∧
    (amFind jobbed.fabric.ops 5 = none ∧ (amFind (ringing [pieceOf true false 0, pieceOf true false 64]).fabric.ops 5).isSome = true ∧ 5 * 64 / 64 = 5 ∧ 5 * 64 % 64 = 0 ∧
      ([pieceOf true false 0] : List Piece)[1]? = none ∧ (pieceOf true true 0).ended = true ∧ (pieceOf true false 0).sent = true) ∧
    (descOf jobbed site0 9 = none ∧ descOf (fetching [loadDesc 64 false]) site0 9 = some (0, loadDesc 64 false, 0, 64) ∧
      (getTile (fetching [loadDesc 64 false]) site0).descs = [loadDesc 64 false] ∧ (getTile (fetching [loadDesc 64 false]) site0).waiting = []) ∧
    (descOf (fetching [loadDesc 100 false]) site0 9 = some (0, loadDesc 100 false, 0, 100) ∧ (loadDesc 100 false).issued = (loadDesc 100 false).len ∧
      0 + 64 < (loadDesc 100 false).len) ∧
    (let s := fetching [loadDesc 64 true]
     (loadDesc 64 true).crest = true ∧ siteHolder s site0 ≠ none ∧ crestOwner s 2304 = siteHolder s site0 ∧ ctrFrozen s (.crest 2304) = false ∧
       (∀ w ∈ s.crest.watches, w.key ≠ .crest 2304) ∧ ctrDiff (getCtr s (.crest 2304)) + 1 ≤ (getCtr s (.crest 2304)).bound.toNat) ∧
    NoBarrier (.crest 2304) (fetching [loadDesc 64 true]) ∧
    (Arrives pkt5 jobbed ∧ pkt5.node < 12288 ∧ pkt5.domain ≠ mgmtDomain jobbed ∧
      jobbed.fabric.ops.find? (fun e => e.2.fwd == some pkt5.node && e.2.domain == pkt5.domain && e.1 % 65536 == 9 % 65536) = none) ∧
    (Arrives pktH jobbed ∧ 12288 ≤ pktH.node) ∧ (Arrives pktM jobbed ∧ pktM.domain = mgmtDomain jobbed) ∧
    (let d := readDesc 0 0x40 0x10000 0
     (getTile jobbed site0).descs = [] ∧ (getTile jobbed site0).waiting = [] ∧ (readDesc 0 0 0 0).len = 0 ∧ 2 ≤ (readDesc 0 0 0x18000 0).space ∧
       d.space < 2 ∧ 0 < d.len ∧ d.len ≤ 2097152 ∧ d.line * 64 + d.len ≤ spaceSize d.space ∧
       (let e := readDesc 0 0x40 0x20000 0xFFFE0000
        e.space < 2 ∧ 0 < e.len ∧ e.len ≤ 2097152 ∧ spaceSize e.space < e.line * 64 + e.len)) ∧
    (4 ≤ (getTile (fetching (List.replicate 4 (loadDesc 64 false))) site0).descs.length ∧
      ∀ e ∈ (getTile (fetching (List.replicate 4 (loadDesc 64 false))) site0).descs, e.len ≤ e.issued) := by
  refine ⟨?_, ?_, ?_, ?_, ?_, ?_, ?_, ?_, ?_, noBarrier_of ?_, ⟨arrives_of ?_, ?_⟩, ⟨arrives_of ?_, ?_⟩,
    ⟨arrives_of ?_, ?_⟩, ?_, ?_⟩ <;> decide +kernel

theorem witness_RoleChangesNeedQuiescence :
    Served .sdo jobbed ∧ (writer .sdo jobbed).own = none ∧ getPart jobbed 9 = some part9 ∧
    (part9.current = none ∧ part9.queue = [] ∧ partOutstanding jobbed 9 = 0 ∧ testHolds jobbed 9 = false) ∧
    (getPart running4 9 = some part4 ∧ part4.current ≠ none) ∧
    Served (.fabric pkt5 hdr9) jobbed ∧ (writer (.fabric pkt5 hdr9) jobbed).own = some 9 := by
  refine ⟨(served_sdo _).2 ?_, ?_, ?_, ?_, ?_, ⟨arrives_of ?_, ?_⟩, ?_⟩ <;> decide +kernel

theorem witness_MalformedAddressesAreRefusedWhole :
    ((address 5 1 site0 3 0).toNat / 2 ^ 42 % 4 = 3 ∧ (address 5 1 site0 0 0 + 2 ^ 38).toNat / 2 ^ 38 % 16 ≠ 0 ∧
      80640 ≤ (address 5 1 80640 0 0).toNat / 2 ^ 21 % 2 ^ 17 ∧ (address 5 1 site0 1 131072).toNat / 2 ^ 42 % 4 = 1 ∧
      131072 ≤ (address 5 1 site0 1 131072).toNat % 2 ^ 21 ∧ 3 ≤ (address 5 1 site0 2 196608).toNat % 2 ^ 21 / 65536 ∧
      49152 ≤ (address 5 1 site0 2 49152).toNat % 2 ^ 21 % 65536) ∧
    Arrives pkt5 jobbed ∧ dstIsTile arrived0 = false := by
  refine ⟨?_, arrives_of ?_, ?_⟩ <;> decide +kernel

end Sys2Proof.Tests
end

section
/-!
PROOF. Only a role change writes a partition's role: nothing that serving the remote requests of the memory cells reaches does
(R42, R43).
-/

namespace Sys2Proof.Machine

open Sys2Proof

/-- The same partitions exist, with the same roles. -/
structure SameRoles (s t : State) : Prop where
  role : ∀ p, (getPart t p).map Part.role = (getPart s p).map Part.role

namespace SameRoles

variable {s t u : State}

theorem refl (s : State) : SameRoles s s := ⟨fun _ => rfl⟩

theorem trans (a : SameRoles s t) (b : SameRoles t u) : SameRoles s u :=
  ⟨fun p => (b.role p).trans (a.role p)⟩

theorem of_keeps {w : List Region} (h : Keeps w s t) (hw : w.contains .parts = false := by rfl) : SameRoles s t := by
  have hp : t.parts = s.parts := h.only .parts hw
  exact ⟨fun p => by unfold getPart; rw [hp]⟩

/-- A step that keeps the roles, followed by one that does not write the partitions. -/
theorem step {w : List Region} (a : SameRoles s t) (h : Keeps w t u) (hw : w.contains .parts = false := by rfl) : SameRoles s u :=
  a.trans (of_keeps h hw)

/-- An update of the mesh alone. -/
theorem setMesh {m : MeshS} (a : SameRoles s t) : SameRoles s { t with mesh := m } := a.trans ⟨fun _ => rfl⟩

/-- An update of the wafer crest alone. -/
theorem setCrest {c : CrestS} (a : SameRoles s t) : SameRoles s { t with crest := c } := a.trans ⟨fun _ => rfl⟩

theorem ite {c : Prop} [Decidable c] (a : SameRoles s t) (b : SameRoles s u) : SameRoles s (if c then t else u) := by
  split <;> assumption

theorem foldl {α : Type} {g : State → α → State} (hg : ∀ s a, SameRoles s (g s a)) (l : List α) (s : State) :
    SameRoles s (l.foldl g s) := by
  induction l generalizing s with
  | nil => exact refl s
  | cons a l ih => exact (hg s a).trans (ih _)

end SameRoles

theorem sameRoles_modPart (p : Nat) (g : Part → Part) (s : State) (hg : ∀ a, (g a).role = a.role := by intro a; rfl) :
    SameRoles s (modPart p g s) := by
  refine ⟨fun x => ?_⟩
  rw [getPart_modPart]
  split
  · next hx =>
    subst hx
    cases getPart s x with
    | none => rfl
    | some a => exact congrArg some (hg a)
  · rfl

/-! ## Messages of the mesh -/

theorem sameRoles_noteTraffic (domain : Nat) (s : State) : SameRoles s (noteTraffic domain s) := by
  unfold noteTraffic
  split
  · exact sameRoles_modPart _ _ _
  · exact SameRoles.refl s

theorem sameRoles_send (m : MeshMsg) (s : State) : SameRoles s (send m s) := by
  unfold send
  exact (SameRoles.ite (.of_keeps (ringCount_keeps ..)) (SameRoles.refl s)).setMesh.trans (sameRoles_noteTraffic ..)

theorem sameRoles_sendReply (src dst : CellRef) (domain status op reqId offset : Nat) (data : List Byte) (s : State) :
    SameRoles s (sendReply src dst domain status op reqId offset data s) := sameRoles_send ..

theorem sameRoles_sendSection (domain k code : Nat) (s : State) : SameRoles s (sendSection domain k code s) := sameRoles_send ..

/-! ## Retirement -/

theorem sameRoles_sendRoutes (s : State) : SameRoles s (sendRoutes s) := by
  unfold sendRoutes
  exact SameRoles.foldl (fun s k => SameRoles.ite (SameRoles.refl s) (sameRoles_send ..)) _ s

theorem sameRoles_rebuildRoutes (k : Nat) (s : State) : SameRoles s (rebuildRoutes k s) := by
  have sent : SameRoles s (sendRoutes (settleRoutes 81 k s)) :=
    (SameRoles.of_keeps (settleRoutes_keeps ..)).trans (sameRoles_sendRoutes _)
  unfold rebuildRoutes
  exact (SameRoles.ite (sent.step (latchEdges_keeps _)) sent).setMesh.step (raise_keeps ..)

theorem sameRoles_retireNow (k : Nat) (s : State) : SameRoles s (retireNow k s) := by
  have replaced : SameRoles s (replaceSite k s).2 := .of_keeps (replaceSite_keeps ..)
  unfold retireNow
  exact ((replaced.trans (sameRoles_rebuildRoutes ..)).step (raise_keeps ..)).step (noteChange_keeps _)

theorem sameRoles_retire (k : Nat) (s : State) : SameRoles s (retire k s) := by
  unfold retire
  exact SameRoles.ite (SameRoles.refl s)
    (SameRoles.ite ((SameRoles.refl s).setMesh.step (raise_keeps ..)) (sameRoles_retireNow k s))

theorem sameRoles_noteUncorrected (k : Nat) (s : State) : SameRoles s (noteUncorrected k s) := by
  have noted (g : Tile → Tile) : SameRoles s (modTile k g s) := .of_keeps (modTile_keeps ..)
  unfold noteUncorrected
  exact SameRoles.ite ((noted _).trans (sameRoles_retire ..)) (noted _)

/-! ## Counters -/

theorem sameRoles_notifyWatch (w : Watch) (status : Nat) (s : State) : SameRoles s (notifyWatch w status s) := by
  unfold notifyWatch
  dsimp only
  split
  · exact .of_keeps (sendPkt_keeps ..)
  · exact sameRoles_send ..

theorem sameRoles_fireWatches (key : CtrKey) (s : State) : SameRoles s (fireWatches key s) := by
  unfold fireWatches
  exact (SameRoles.refl s).setCrest.trans (SameRoles.foldl (fun s w => sameRoles_notifyWatch w 0 s) _ _)

theorem sameRoles_applyCtr (op n : Nat) (key : CtrKey) (s : State) : SameRoles s (applyCtr op n key s).2 := by
  have put (v : Counter) : SameRoles s (setCtr key v s) := .of_keeps (setCtr_keeps ..)
  unfold applyCtr
  dsimp only
  generalize ctrStep op n _ _ = r
  refine SameRoles.trans ?_ (sameRoles_fireWatches ..)
  -- The counter is written and its event raised; a fault is then counted in the partition (R219 to R221).
  split
  case h_1 | h_2 =>
    refine SameRoles.trans ?_ (sameRoles_modPart _ _ _)
    split
    · exact (put _).step (raise_keeps ..)
    · exact put _
  case h_3 =>
    split
    · exact (put _).step (raise_keeps ..)
    · exact put _

theorem sameRoles_ackCtr (op status : Nat) (h : Head) (m : CtrMsg) (key : CtrKey) (s : State) :
    SameRoles s (ackCtr op status h m key s) := by
  unfold ackCtr
  split
  · exact sameRoles_send ..
  · exact SameRoles.refl s

theorem sameRoles_performCtr (op n : Nat) (h : Head) (m : CtrMsg) (key : CtrKey) (s : State) :
    SameRoles s (performCtr op n h m key s) := by
  unfold performCtr
  dsimp only
  split
  · exact (SameRoles.of_keeps (raise_keeps ..)).trans (sameRoles_ackCtr ..)
  · exact (sameRoles_applyCtr ..).trans (sameRoles_ackCtr ..)

theorem sameRoles_performHostCtr (op n : Nat) (p : Pkt) (h : Hdr) (key : CtrKey) (s : State) :
    SameRoles s (performHostCtr op n p h key s) :=
  (sameRoles_applyCtr op n key s).step (replySync_keeps ..)

theorem sameRoles_endHostOp (p kind : Nat) (s : State) : SameRoles s (endHostOp p kind s) := sameRoles_modPart _ _ _

theorem sameRoles_applyHeld (i : Instr) (s : State) : SameRoles s (applyHeld i s) := by
  unfold applyHeld
  split
  case h_1 | h_2 | h_3 | h_4 | h_5 => exact sameRoles_performCtr ..
  case h_6 | h_7 | h_8 | h_9 | h_10 =>
    -- A host's command acts on the counter that its reference names, or is answered as an error (R231, R235).
    split
    · exact sameRoles_performHostCtr ..
    · exact .of_keeps (replySync_keeps ..)
  case h_11 =>
    dsimp only
    exact ((sameRoles_applyCtr ..).trans (sameRoles_endHostOp ..)).step (replySync_keeps ..)
  case h_12 => exact SameRoles.refl s

theorem sameRoles_unfreeze (p : Nat) (s : State) : SameRoles s (unfreeze p s) := by
  have held (l : List Instr) (s : State) : SameRoles s (l.foldl (fun s i => applyHeld i s) s) :=
    SameRoles.foldl (fun s i => sameRoles_applyHeld i s) l s
  unfold unfreeze
  split
  · exact SameRoles.refl s
  · dsimp only
    refine SameRoles.trans (SameRoles.trans (sameRoles_modPart _ _ _) (SameRoles.foldl (fun s k => ?_) _ _)) (held _ _)
    exact (SameRoles.of_keeps (modTile_keeps ..)).trans (held _ _)

/-! ## The end of a job -/

theorem sameRoles_stopStamp (p : Nat) (mark : JobMark) (s : State) : SameRoles s (stopStamp p mark s) := by
  refine sameRoles_modPart p _ s (fun a => ?_)
  split
  · split <;> rfl
  · rfl

theorem sameRoles_closeJob (p : Nat) (s : State) : SameRoles s (closeJob p s) := by
  have answered (l : List HostOp) (d : Nat) (s : State) :
      SameRoles s (l.foldl (fun s o => replySyncTo o.node d o.tag 2 0 0 0 0 s) s) :=
    SameRoles.foldl (fun s o => .of_keeps (replySyncTo_keeps ..)) l s
  have refused (l : List Commit) (s : State) :
      SameRoles s (l.foldl (fun s (c : Commit) => sendPkt c.node c.domain 0x3F (runReply c.tag 2 0 0xFFFF 0xFFFF 0xFF 0xFF 0) s) s) :=
    SameRoles.foldl (fun s c => .of_keeps (sendPkt_keeps ..)) l s
  unfold closeJob
  split
  · exact SameRoles.refl s
  · next a ha =>
    refine SameRoles.ite (SameRoles.refl s) ?_
    have told := ((sameRoles_stopStamp p .closed s).trans (answered a.hostOps a.domain _)).trans (refused a.commits _)
    exact (((told.trans (sameRoles_modPart _ _ _)).trans (sameRoles_unfreeze ..)).step (dropWatches_keeps ..)).trans
      (sameRoles_modPart _ _ _)

theorem sameRoles_runNotify (a : Part) (status code number : Nat) (s : State) : SameRoles s (runNotify a status code number s) :=
  .of_keeps (runNotify_keeps ..)

theorem sameRoles_abortRun (p code : Nat) (s : State) : SameRoles s (abortRun p code s) := by
  unfold abortRun
  split
  · exact SameRoles.refl s
  · next a ha =>
    refine SameRoles.ite (SameRoles.refl s) ?_
    extract_lets reported discarded sites stopped spread
    have h1 : SameRoles s reported := by
      unfold reported
      split
      · exact sameRoles_runNotify ..
      · exact SameRoles.refl s
    have h2 : SameRoles reported discarded := SameRoles.foldl (fun s r => sameRoles_runNotify ..) _ _
    have h3 : SameRoles discarded stopped :=
      SameRoles.foldl (fun s k => (SameRoles.of_keeps (modTile_keeps ..)).trans (sameRoles_sendSection ..)) _ _
    have h4 : SameRoles stopped spread := SameRoles.ite (SameRoles.refl _) (.of_keeps (spreadAbort_keeps ..))
    exact ((((h1.trans h2).trans h3).trans h4).trans (sameRoles_modPart _ _ _)).trans (sameRoles_closeJob ..)

theorem sameRoles_cellFault (k slot g code : Nat) (s : State) : SameRoles s (cellFault k slot g code s) := by
  have stopped (c : CC → CC) (a : AG → AG) (t : State) :
      SameRoles t (if slot < 3 then modCC k slot c t else if g < 4 then modAG k g a t else t) :=
    SameRoles.ite (.of_keeps (modCC_keeps ..)) (SameRoles.ite (.of_keeps (modAG_keeps ..)) (SameRoles.refl t))
  unfold cellFault
  extract_lets t u
  have halted : SameRoles s u := (SameRoles.of_keeps (raise_keeps ..)).trans (stopped _ _ t)
  split
  · exact SameRoles.ite (halted.trans (sameRoles_abortRun ..)) halted
  · exact halted

/-! ## Remote requests at a memory cell -/

theorem sameRoles_homePerform (h : Head) (m : MemReq) (s : State) : SameRoles s (homePerform h m s) := by
  unfold homePerform
  extract_lets k size key reply counted touched old new
  have h1 : SameRoles s counted := .of_keeps (countAccess_keeps ..)
  refine SameRoles.ite ((h1.step (writeBytes_keeps ..)).trans (sameRoles_sendReply ..)) ?_
  have h2 : SameRoles s touched := h1.step (touchRead_keeps ..)
  refine SameRoles.ite ?_ (SameRoles.ite (h2.trans (sameRoles_sendReply ..)) ?_)
  · exact ((h2.trans (sameRoles_noteUncorrected ..)).trans (sameRoles_sendReply ..)).trans (sameRoles_cellFault ..)
  · exact (SameRoles.ite h2 (h2.step (writeBytes_keeps ..))).trans (sameRoles_sendReply ..)

theorem sameRoles_mcServeN (k n : Nat) (s : State) : SameRoles s (mcServeN k n s) := by
  induction n generalizing s with
  | zero => exact SameRoles.refl s
  | succ n ih =>
    unfold mcServeN
    split
    · exact SameRoles.refl s
    · split
      · exact SameRoles.refl s
      · exact ((SameRoles.of_keeps (modTile_keeps ..)).trans (sameRoles_homePerform ..)).trans (ih _)

/-- Serving the remote requests of every memory cell changes no partition's role. -/
theorem sameRoles_mcServeAll (s : State) : SameRoles s (mcServeAll s) :=
  SameRoles.foldl (fun s k => sameRoles_mcServeN k _ s) _ s

theorem mcServeAll_of_no_remote {s : State} (h : ∀ e ∈ s.tiles, e.2.remote = []) : mcServeAll s = s := by
  have none : s.tiles.filter (fun e => !e.2.remote.isEmpty) = [] :=
    List.filter_eq_nil_iff.mpr fun e he => by simp [h e he]
  unfold mcServeAll
  rw [none]
  rfl

/-! ## The change of a role -/

theorem sameRoles_reserve (p want weight : Nat) (s : State) : SameRoles s (reserve p want weight s) := by
  unfold reserve
  split
  · exact SameRoles.refl s
  · dsimp only
    split
    · exact (sameRoles_modPart _ _ _).step (raise_keeps ..)
    · exact sameRoles_modPart _ _ _

theorem role_applyRole {p : Nat} (role : Nat) {s : State} {a : Part} (h : getPart s p = some a) :
    (getPart (applyRole p role s) p).map Part.role = some role := by
  unfold applyRole
  rw [h]
  exact ((sameRoles_reserve ..).role p).trans (by simp [h])

theorem quiesced_iff {s : State} {p : Nat} {a : Part} (h : getPart s p = some a) :
    quiesced s p = true ↔ a.current = none ∧ a.queue = [] ∧ partOutstanding s p = 0 ∧ testHolds s p = false := by
  simp [quiesced, h, and_assoc]

theorem getPart_accepted {s u : State} (h : Accepted s u) (p : Nat) : getPart u p = getPart s p := by
  unfold getPart
  rw [h.parts]

/-- Being quiesced reads the partitions, the tiles, the fields' holders, the self-test and the sending ends, none of which the
acceptance of a packet changes (R42, R444). -/
theorem quiesced_accepted {s u : State} (h : Accepted s u) (p : Nat) : quiesced u p = quiesced s p := by
  have htiles : u.tiles = s.tiles := h.only .tiles (by decide)
  have htest : u.test = s.test := h.only .test (by decide)
  unfold quiesced getPart partOutstanding testHolds siteHolder holder getFld
  rw [h.parts, h.tx, h.fld, htiles, htest]

theorem evPart_accepted {s u : State} (h : Accepted s u) (code kind p detail : Nat) :
    evPart u code kind p detail = evPart s code kind p detail := by
  have hlease : u.lease = s.lease := h.only .lease (by decide)
  unfold evPart activeCtl
  rw [getPart_accepted h, hlease]

/-! ## A served write -/

theorem fabricAsker_accepted {s u : State} (h : Accepted s u) (d : Nat) : fabricAsker u d = fabricAsker s d := by
  unfold fabricAsker mgmtDomain partOfDomain reg
  rw [h.parts, h.regs]

theorem serveMailbox_of_empty {s : State} (h : s.pilot.mailbox = []) : serveMailbox s = s := by
  have emptied : { s.pilot with mailbox := [] } = s.pilot := by rw [← h]
  unfold serveMailbox
  split
  · simp only [h, List.foldl_nil, emptied]
  · rfl

/-- A served write of an object by either path is the write of its writer on an accepted state (R394, R395, R414). -/
theorem writes_of_viaWrite {c : Instr} {via : Via} {index sub : Nat} {v : List Byte} {s : State}
    {q : State → Nat → State → Prop} (hc : exec c s = .next (viaWrite c via index sub v s)) (hs : Served via s)
    (ho : ∀ t, exec c s = .next t → Only (footprint c) s t)
    (hq : ∀ u sdo, Accepted s u →
      q u (writeObject (writer via s) sdo index sub v u).1 (writeObject (writer via s) sdo index sub v u).2) :
    Writes c via s q := by
  cases via with
  | sdo =>
    obtain ⟨hesm, hserved, hbox⟩ := hs
    refine ⟨s, _, _, _, hc, ho _ hc, hq s true (Accepted.refl s), rfl, ?_⟩
    simp only [viaWrite, sdoWrite, if_neg hesm, if_pos hserved, serveMailbox_of_empty hbox]
    rfl
  | fabric p h =>
    obtain ⟨harr, hok⟩ := hs
    obtain ⟨u, hu, hact⟩ := ingress_arrives harr c
    obtain ⟨v', hv, hadv⟩ := hact (fabricWrite p h index sub v)
    refine ⟨u, _, _, _, hc, ho _ hc, hq u false hu, hu, ?_⟩
    have hgo : viaWrite c (.fabric p h) index sub v s = v' := hv
    rw [hgo]
    unfold fabricWrite at hadv
    dsimp only at hadv
    rw [fabricAsker_accepted hu, if_pos hok] at hadv
    exact hadv

/-! ## The role object -/

/-- Object 0x2403: the roles of the partitions, which the operator writes (R391). -/
def roleObj : Obj := ⟨0x2403, 1, 56, 2, 1, .rw, [.operator], .part, 0, 2, none, true⟩

theorem findObj_role : ∀ p < 56, findObj 0x2403 (p + 1) = some roleObj := by decide +kernel

theorem indexExists_role : indexExists 0x2403 = true := by decide +kernel

theorem saved_role {p : Nat} (hp : p < 56) (s : State) : saved 0x2403 (p + 1) s = noteWrite roleObj (p + 1) s := by
  unfold saved
  rw [findObj_role p hp]

theorem inRange_role (s : State) (p : Nat) {role : Nat} (h : role < 3) : inRange s roleObj (p + 1) role = true := by
  have hle : role ≤ 2 := by omega
  simp [inRange, roleObj, hle]

theorem leNat_leBytes_one {v : Nat} (h : v < 256) : leNat (leBytes 1 v) = v := by
  simp [leBytes, leNat, Nat.mod_eq_of_lt h]

theorem writeObject_role (w : Asker) (sdo : Bool) {p : Nat} (hp : p < 56) (v : List Byte) (s : State) :
    writeObject w sdo 0x2403 (p + 1) v s = writeFound w sdo roleObj (p + 1) v s := by
  unfold writeObject
  rw [indexExists_role, findObj_role p hp]
  rfl

/-- A tenant may not write a role (R42, R396 row 5). -/
theorem writeObject_role_tenant {p q : Nat} (hp : p < 56) {w : Asker} (hw : w.own = some q) (sdo : Bool) (v : List Byte) (s : State) :
    writeObject w sdo 0x2403 (p + 1) v s = (0x06010000, s) := by
  have hmay : mayWrite w roleObj (p + 1) = false := by simp [mayWrite, hw, roleObj]
  rw [writeObject_role w sdo hp]
  unfold writeFound
  dsimp only
  rw [if_neg (by decide), if_pos (by rw [hmay]; rfl)]

/-- The operator's write of a role passes the checks of R396 up to the rule of R42. -/
theorem writeObject_role_operator {p role : Nat} (hp : p < 56) (hr : role < 3) {w : Asker} (hw : w.own = none) (sdo : Bool)
    {s : State} {a : Part} (ha : getPart s p = some a) :
    writeObject w sdo 0x2403 (p + 1) (leBytes 1 role) s =
      ((writeRole p role s).1,
        if (writeRole p role s).1 = 0 then noteWrite roleObj (p + 1) (writeRole p role s).2 else (writeRole p role s).2) := by
  have hmay : mayWrite w roleObj (p + 1) = true := by simp [mayWrite, hw, roleObj]
  have hent : entryMissing s roleObj (p + 1) = false := by simp [entryMissing, ha]
  have hnum : leNat (leBytes 1 role) = role := leNat_leBytes_one (by omega)
  have hrule : ruleWrite w.own roleObj.index (p + 1) role s = writeRole p role s := rfl
  have hfirst : (sdo && roleObj.index == 0x2510 && p + 1 == 1 && s.sec.opKey.isNone) = false := by simp [roleObj]
  rw [writeObject_role w sdo hp]
  unfold writeFound
  simp only [hfirst, hnum, hmay, hent, inRange_role s p hr, hrule]
  rfl

theorem viaNum_role (c : Instr) (via : Via) (p : Nat) {role : Nat} (hr : role < 3) (s : State) :
    viaNum c via 0x2403 (p + 1) 1 role s = viaWrite c via 0x2403 (p + 1) (leBytes 1 role) s := by
  unfold viaNum
  rw [if_pos (by omega)]

/-- A served role change writes the role object on an accepted state. -/
theorem writes_roleChange {via : Via} {p role : Nat} {s : State} {q : State → Nat → State → Prop} (hs : Served via s) (hr : role < 3)
    (hq : ∀ u sdo, Accepted s u →
      q u (writeObject (writer via s) sdo 0x2403 (p + 1) (leBytes 1 role) u).1
        (writeObject (writer via s) sdo 0x2403 (p + 1) (leBytes 1 role) u).2) :
    Writes (.roleChange via p role) via s q := by
  refine writes_of_viaWrite ?_ hs (fun t ht => (execRoleChange_keeps via p role s ht).only) hq
  exact congrArg Host.Outcome.next (viaNum_role _ via p hr s)

/-- An accepted role change: the new role stands, after its save and after the remote requests that it lets through (R42, R424). -/
theorem role_after_change {p role : Nat} {u : State} {a : Part} (ha : getPart u p = some a) :
    (getPart (noteWrite roleObj (p + 1) (mcServeAll (applyRole p role u))) p).map Part.role = some role := by
  have kept : SameRoles (applyRole p role u) (noteWrite roleObj (p + 1) (mcServeAll (applyRole p role u))) :=
    (sameRoles_mcServeAll _).step (noteWrite_keeps ..)
  rw [kept.role p, role_applyRole role ha]

/-- Where no remote request waits, an accepted role change leaves every stored byte. -/
theorem mem_after_change {p role : Nat} {u : State} (h : ∀ e ∈ u.tiles, e.2.remote = []) :
    (noteWrite roleObj (p + 1) (mcServeAll (applyRole p role u))).mem = u.mem := by
  have hk := (applyRole_keeps p role u).only
  have htiles : (applyRole p role u).tiles = u.tiles := hk .tiles (by decide)
  rw [mcServeAll_of_no_remote (by rw [htiles]; exact h)]
  exact ((noteWrite_keeps ..).only .mem (by decide)).trans (hk .mem (by decide))

/-! ## The obligation -/

/-- Settles O59: the operator's write of a role is accepted in a quiesced partition alone, and serving the remote requests in the new
order changes no role. -/
theorem roleChangesNeedQuiescence : Obligations.RoleChangesNeedQuiescence := by
  intro s via p role a hs hp hr ha quiet
  have hquiet (u : State) (hu : Accepted s u) : quiesced u p = true ↔ quiet :=
    (quiesced_accepted hu p) ▸ quiesced_iff ha
  have hpart (u : State) (hu : Accepted s u) : getPart u p = some a := (getPart_accepted hu p).trans ha
  refine ⟨fun hown hq => ?_, fun hown hq => ?_, fun q hown => ?_⟩
  · refine writes_roleChange hs hr fun u sdo hu => ?_
    have hmem : u.mem = s.mem := hu.only .mem (by decide)
    have htiles : u.tiles = s.tiles := hu.only .tiles (by decide)
    have hwrite : writeRole p role u = (0, mcServeAll (applyRole p role u)) := if_pos ((hquiet u hu).mpr hq)
    rw [writeObject_role_operator hp hr hown sdo (hpart u hu), hwrite]
    refine ⟨rfl, (saved_role hp _).symm, role_after_change (hpart u hu), ?_, fun h => ?_⟩
    · exact ((applyRole_keeps p role u).only .mem (by decide)).trans hmem
    · exact (mem_after_change (by rw [htiles]; exact h)).trans hmem
  · refine writes_roleChange hs hr fun u sdo hu => ?_
    have hmem : u.mem = s.mem := hu.only .mem (by decide)
    have hwrite : writeRole p role u = (abortRule, raise (evPart u 0x384 2 p 0) u) := if_neg (fun h => hq ((hquiet u hu).mp h))
    rw [writeObject_role_operator hp hr hown sdo (hpart u hu), hwrite, evPart_accepted hu]
    have hkept : SameRoles u (raise (evPart s 0x384 2 p 0) u) := .of_keeps (raise_keeps ..)
    refine ⟨rfl, raise_parts .., ?_, (raise_mem ..).trans hmem, rfl⟩
    exact (hkept.role p).trans (by rw [hpart u hu]; rfl)
  · refine writes_roleChange hs hr fun u sdo hu => ?_
    rw [writeObject_role_tenant hp hown]
    exact ⟨show (0x06010000 : Nat) ≠ 0 by decide, rfl⟩

end Sys2Proof.Machine
end

section
/-!
PROOF. A malformed address is refused before anything acts on it: the ring switch answers with status 4 and keeps its operations,
and no stored byte, tile or message to a home comes of it (R276, R290).
-/

namespace Sys2Proof.Machine

open Sys2Proof

/-! ## Malformed addresses -/

/-- R276 in the numbers of R275: a reserved space, reserved bits that are not 0, a position beyond the last, or an offset beyond its
space. -/
def MalformedAddress (v : Nat) : Prop :=
  v / 2 ^ 42 % 4 = 3 ∨ v / 2 ^ 38 % 16 ≠ 0 ∨ 80640 ≤ v / 2 ^ 21 % 2 ^ 17 ∨ (v / 2 ^ 42 % 4 = 1 ∧ 131072 ≤ v % 2 ^ 21) ∨
    (v / 2 ^ 42 % 4 = 2 ∧ (3 ≤ v % 2 ^ 21 / 65536 ∨ 49152 ≤ v % 2 ^ 21 % 65536))

theorem good_gAddr_of_malformed {addr : Word64} (h : MalformedAddress addr.toNat) : (gAddr addr).good = false := by
  simp only [MalformedAddress, Nat.reducePow] at h
  rcases h with hspace | hreserved | hpos | ⟨hspace, hoff⟩ | ⟨hspace, hoff⟩
  · simp [gAddr, bitsOf, hspace]
  · simp [gAddr, bitsOf, hreserved]
  · simp [gAddr, bitsOf, Nat.not_lt.mpr hpos]
  · simp [gAddr, bitsOf, hspace, hoff]
  · have hbeyond : addr.toNat % 2097152 < 196608 → 49152 ≤ addr.toNat % 65536 := by omega
    simpa [gAddr, bitsOf, hspace] using fun _ _ => hbeyond

theorem gFits_of_not_good {g : GAddr} (h : g.good = false) (n : Nat) : gFits g n = false := by
  simp [gFits, h]

/-! ## Refusals of the ring switch -/

/-- An operation at a malformed address fails with status 4 before its translation (R276, R290). -/
theorem startOp_of_not_good (op : RingOp) {addr : Word64} (h : (gAddr addr).good = false) (compressed : Bool) (s : State) :
    startOp op addr compressed s = tellFailed op 4 (memFails 4 op.reqNode op.domain none s) := by
  simp [startOp, malformed, h]

theorem startCmd_of_not_good (op : Nat) (p : Pkt) {m : MemCmd} (h : (gAddr m.addr).good = false) (data : List Byte) (s : State) :
    startCmd op p m data s = answerMem op p.node p.domain m.tag 4 0 0 [] (memFails 4 p.node p.domain none s) :=
  startOp_of_not_good _ h _ s

theorem ringRequest_of_not_good (h : Head) {m : MemReq} (hm : (gAddr m.addr).good = false) (s : State) :
    ringRequest h m s =
      sendReply ringCell ⟨h.src.x, h.src.y, 3⟩ h.domain 4 m.op m.reqId 0 [] (memFails 4 (nodeId s) h.domain none s) :=
  startOp_of_not_good _ hm _ s

/-- A bulk copy fails with status 4 when either of its two addresses is malformed (R276, R286, R290). -/
theorem startBulk_of_not_good (p : Pkt) {m : MemCmd} (h : (gAddr m.addr).good = false ∨ (gAddr m.v).good = false) (s : State) :
    ∃ pos, startBulk p m s = answerMem 6 p.node p.domain m.tag 4 0 0 [] (memFails 4 p.node p.domain pos s) := by
  have hfits : gFits (gAddr m.addr) m.len = false ∨ gFits (gAddr m.v) m.len = false :=
    h.imp (gFits_of_not_good · _) (gFits_of_not_good · _)
  unfold startBulk
  dsimp only
  rw [if_pos (by rcases hfits with hf | hf <;> simp [hf])]
  exact ⟨_, rfl⟩

/-! ## What a refusal leaves -/

theorem memFails_fabric (status node domain : Nat) (pos : Option Nat) (s : State) :
    (memFails status node domain pos s).fabric = s.fabric := (memFails_keeps ..).only .fabric (by decide)

theorem send_flight (m : MeshMsg) (s : State) : (send m s).mesh.flight = s.mesh.flight ++ [m] := by
  have hmesh (t : State) : (noteTraffic m.head.domain t).mesh = t.mesh := (noteTraffic_keeps ..).only .mesh (by decide)
  unfold send
  dsimp only
  rw [hmesh]
  split <;> rfl

/-- No stored byte, message of the mesh, tile, operation or bulk copy of the ring switch is other than it was. -/
structure MemoryIdle (s t : State) : Prop where
  mem : t.mem = s.mem
  mesh : t.mesh = s.mesh
  tiles : t.tiles = s.tiles
  ops : t.fabric.ops = s.fabric.ops
  bulks : t.fabric.bulks = s.fabric.bulks

theorem MemoryIdle.trans {s t u : State} (a : MemoryIdle s t) (b : MemoryIdle t u) : MemoryIdle s u :=
  ⟨b.mem.trans a.mem, b.mesh.trans a.mesh, b.tiles.trans a.tiles, b.ops.trans a.ops, b.bulks.trans a.bulks⟩

theorem memoryIdle_accepted {s u : State} (h : Accepted s u) : MemoryIdle s u := by
  obtain ⟨ports, rx, ctl, wire, hfabric⟩ := h.fabric
  exact ⟨h.only .mem (by decide), h.only .mesh (by decide), h.only .tiles (by decide), by rw [hfabric], by rw [hfabric]⟩

theorem memoryIdle_memFails (status node domain : Nat) (pos : Option Nat) (s : State) :
    MemoryIdle s (memFails status node domain pos s) := by
  have hk := (memFails_keeps status node domain pos s).only
  have hfabric := memFails_fabric status node domain pos s
  exact ⟨hk .mem (by decide), hk .mesh (by decide), hk .tiles (by decide), by rw [hfabric], by rw [hfabric]⟩

theorem memoryIdle_sendPkt (node domain opcode : Nat) (data : List Byte) (s : State) :
    MemoryIdle s (sendPkt node domain opcode data s) := by
  have hfabric : (sendPkt node domain opcode data s).fabric.ops = s.fabric.ops ∧
      (sendPkt node domain opcode data s).fabric.bulks = s.fabric.bulks := by
    unfold sendPkt enqueue
    split
    · simp
    · exact ⟨rfl, rfl⟩
  exact ⟨sendPkt_mem .., sendPkt_mesh .., sendPkt_tiles .., hfabric.1, hfabric.2⟩

theorem memoryIdle_answerMem (op node domain : Nat) (tag : BitVec 16) (status : Nat) (old : Word64) (done : Nat) (data : List Byte)
    (s : State) : MemoryIdle s (answerMem op node domain tag status old done data s) := by
  unfold answerMem
  split <;> exact memoryIdle_sendPkt ..

/-- A delivered packet whose command is refused and answered leaves the memory, the mesh and the ring's operations. -/
theorem memoryIdle_refused {s u : State} (hu : Accepted s u) (op node domain : Nat) (tag : BitVec 16) (pos : Option Nat) :
    MemoryIdle s (answerMem op node domain tag 4 0 0 [] (memFails 4 node domain pos u)) :=
  ((memoryIdle_accepted hu).trans (memoryIdle_memFails ..)).trans (memoryIdle_answerMem ..)

/-- A memory cell's refused request: one reply of length 0 with status 4 enters the mesh, and no memory, tile or fabric state changes
(R289, R290). -/
theorem ringRequest_refused (h : Head) {m : MemReq} (hm : (gAddr m.addr).good = false) (u : State) :
    (ringRequest h m u).mem = u.mem ∧ (ringRequest h m u).tiles = u.tiles ∧ (ringRequest h m u).fabric = u.fabric ∧
      (ringRequest h m u).mesh.flight = u.mesh.flight ++
        [⟨⟨ringCell, ⟨h.src.x, h.src.y, 3⟩, 4, h.domain, BitVec.ofNat 16 m.reqId⟩, false, 4, memRepBytes 4 m.op m.reqId 0 []⟩] := by
  rw [ringRequest_of_not_good h hm]
  have hfails := memoryIdle_memFails 4 (nodeId u) h.domain none u
  have hreply := (sendReply_keeps ringCell ⟨h.src.x, h.src.y, 3⟩ h.domain 4 m.op m.reqId 0 []
    (memFails 4 (nodeId u) h.domain none u)).only
  refine ⟨(hreply .mem (by decide)).trans hfails.mem, (hreply .tiles (by decide)).trans hfails.tiles,
    (hreply .fabric (by decide)).trans (memFails_fabric ..), ?_⟩
  unfold sendReply
  rw [send_flight, hfails.mesh]

/-! ## Delivery -/

/-- A command that is an arrival and stays in its footprint is delivered, with what it does to every accepted state. -/
theorem delivers_of_ingress {c : Instr} {p : Pkt} {act : State → State} {s : State} {q : State → State → Prop} (harr : Arrives p s)
    (hc : exec c s = .next (ingress p c act s)) (ho : ∀ t, exec c s = .next t → Only (footprint c) s t)
    (hq : ∀ u, Accepted s u → q u (act u)) : Delivers c s q := by
  obtain ⟨u, hu, hact⟩ := ingress_arrives harr c
  obtain ⟨v, hv, hadv⟩ := hact act
  rw [hv] at hc
  exact ⟨u, act u, v, hc, ho _ hc, hu, hq u hu, hadv⟩

theorem exec_memoryCommand {p : Pkt} {m : MemCmd} {i : Instr} {op : Nat} {data : List Byte} (h : MemoryCommand p m i op data)
    (s : State) : exec i s = .next (ingress p i (startCmd op p m data) s) := by
  rcases h with ⟨rfl, rfl, rfl⟩ | ⟨rfl, rfl⟩ | ⟨rfl, rfl, rfl⟩ | ⟨rfl, rfl, rfl⟩ | ⟨rfl, rfl, rfl⟩ <;> rfl

theorem only_memoryCommand {p : Pkt} {m : MemCmd} {i : Instr} {op : Nat} {data : List Byte} (h : MemoryCommand p m i op data)
    {s t : State} (ht : exec i s = .next t) : Only (footprint i) s t := by
  rcases h with ⟨rfl, -, -⟩ | ⟨rfl, -⟩ | ⟨rfl, -, -⟩ | ⟨rfl, -, -⟩ | ⟨rfl, -, -⟩
  · exact (execMemLoad_keeps p m s ht).only
  · exact (execMemStore_keeps p m data s ht).only
  · exact (execAtomicAdd_keeps p m s ht).only
  · exact (execAtomicMax_keeps p m s ht).only
  · exact (execAtomicCas_keeps p m s ht).only

/-- A memory cell's request is taken by the ring switch on the state that the mesh has crossed (R289). -/
theorem execMemReq_to_ring {h : Head} (hring : dstIsTile h = false) (m : MemReq) (s : State) :
    execMemReq h m s = .next (ringRequest h m (crossed h false 3 s)) := by
  simp [execMemReq, hring]

/-! ## The obligation -/

/-- Settles O60: a malformed address makes every start of an operation a refusal with status 4, and the refusal's event, count and
answer leave the memory, the tiles and the ring's operations. -/
theorem malformedAddressesAreRefusedWhole : Obligations.MalformedAddressesAreRefusedWhole := by
  intro s addr v space offset malformed hbad
  have hgood : (gAddr addr).good = false := good_gAddr_of_malformed hbad
  refine ⟨fun p m i op data hi haddr harr => ?_, fun p m haddr harr => ?_, fun h m hring haddr => ?_⟩
  · subst haddr
    refine delivers_of_ingress harr (exec_memoryCommand hi s) (fun t => only_memoryCommand hi) fun u hu => ?_
    have idle := memoryIdle_refused hu op p.node p.domain m.tag none
    rw [startCmd_of_not_good op p hgood]
    exact ⟨idle.mem, idle.mesh, idle.tiles, idle.ops, _, rfl, memFails_fabric ..⟩
  · have hnamed : (gAddr m.addr).good = false ∨ (gAddr m.v).good = false :=
      haddr.imp (fun h => by rw [h]; exact hgood) (fun h => by rw [h]; exact hgood)
    refine delivers_of_ingress harr rfl (fun t ht => (execBulkCopy_keeps p m s ht).only) fun u hu => ?_
    obtain ⟨pos, hstart⟩ := startBulk_of_not_good p hnamed u
    have idle := memoryIdle_refused hu 6 p.node p.domain m.tag pos
    rw [hstart]
    exact ⟨idle.mem, idle.mesh, idle.tiles, idle.ops, idle.bulks, _, rfl, memFails_fabric ..⟩
  · subst haddr
    have hexec : exec (.memReq h m) s = .next (ringRequest h m (crossed h false 3 s)) := execMemReq_to_ring hring m s
    refine ⟨_, hexec, (execMemReq_keeps h m s hexec).only, ?_⟩
    have hcross := (crossed_keeps h false 3 s).only
    obtain ⟨hmem, htiles, hfabric, hflight⟩ := ringRequest_refused h hgood (crossed h false 3 s)
    exact ⟨hmem.trans (hcross .mem (by decide)), htiles.trans (hcross .tiles (by decide)),
      hfabric.trans (hcross .fabric (by decide)), hflight⟩

end Sys2Proof.Machine
end

section
/-!
PROOF. Every command stays in its footprint and keeps the invariant, one law for each constructor; what a step keeps follows.
-/

namespace Sys2Proof.Machine

open Sys2Proof

/-- Every command writes only the parts of its footprint and keeps the invariant: the law of each command's own meaning. -/
theorem exec_keeps (c : Instr) {s t : State} (ht : exec c s = .next t) : Keeps (footprint c) s t := by
  cases c with
  | token h rows cols => exact execToken_keeps h rows cols s ht
  | tuple h words => exact execTuple_keeps h words s ht
  | credit h => exact execCredit_keeps h s ht
  | actorFire c => exact execActorFire_keeps c s ht
  | bufferRelease c => exact execBufferRelease_keeps c s ht
  | drainComplete c => exact execDrainComplete_keeps c s ht
  | generatorTransfer x y g => exact execGeneratorTransfer_keeps x y g s ht
  | halo h part data => exact execHalo_keeps h part data s ht
  | stream h data => exact execStream_keeps h data s ht
  | eccWriteBack x y addr => exact execEccWriteBack_keeps x y addr s ht
  | queueSample part => exact execQueueSample_keeps part s ht
  | aggregateTrigger via value => exact execAggregateTrigger_keeps via value s ht
  | aggregateComplete => exact execAggregateComplete_keeps s ht
  | jobOpen p h group notify => exact execJobOpen_keeps p h group notify s ht
  | sectionCommit p h addr len => exact execSectionCommit_keeps p h addr len s ht
  | commitComplete part => exact execCommitComplete_keeps part s ht
  | sectionRelease p h sec => exact execSectionRelease_keeps p h sec s ht
  | sectionEnqueue p h sec prio guard preds => exact execSectionEnqueue_keeps p h sec prio guard preds s ht
  | sectionCancel p h run => exact execSectionCancel_keeps p h run s ht
  | jobStart p h => exact execJobStart_keeps p h s ht
  | jobStop p h => exact execJobStop_keeps p h s ht
  | jobAbort p h => exact execJobAbort_keeps p h s ht
  | jobClose p h => exact execJobClose_keeps p h s ht
  | runStatus p h run => exact execRunStatus_keeps p h run s ht
  | cadenceAdmit p h r => exact execCadenceAdmit_keeps p h r s ht
  | cadenceStop p h => exact execCadenceStop_keeps p h s ht
  | cadenceWindow part => exact execCadenceWindow_keeps part s ht
  | sectionStart x y => exact execSectionStart_keeps x y s ht
  | sectionDone x y => exact execSectionDone_keeps x y s ht
  | sectionAbort x y => exact execSectionAbort_keeps x y s ht
  | starvationLimitReached part run => exact execStarvationLimitReached_keeps part run s ht
  | runOverrun part => exact execRunOverrun_keeps part s ht
  | roleChange via part role => exact execRoleChange_keeps via part role s ht
  | memReq h m => exact execMemReq_keeps h m s ht
  | memReply via m => exact execMemReply_keeps via m s ht
  | mcastRect h x1 y1 inner data => exact execMcastRect_keeps h x1 y1 inner data s ht
  | mcastMask h mask inner data => exact execMcastMask_keeps h mask inner data s ht
  | mcastAck h delivered refused => exact execMcastAck_keeps h delivered refused s ht
  | mcastStall x y stalled domain => exact execMcastStall_keeps x y stalled domain s ht
  | combine h pre elems => exact execCombine_keeps h pre elems s ht
  | failNotice h reason lostType reqId => exact execFailNotice_keeps h reason lostType reqId s ht
  | reservedPacketType x y h type => exact execReservedPacketType_keeps x y h type s ht
  | mcastControl h x1 y1 inner words => exact execMcastControl_keeps h x1 y1 inner words s ht
  | routeWrite sender x y entries => exact execRouteWrite_keeps sender x y entries s ht
  | reservedControlKind x y h kind => exact execReservedControlKind_keeps x y h kind s ht
  | flitError x y u => exact execFlitError_keeps x y u s ht
  | routerFault x y held => exact execRouterFault_keeps x y held s ht
  | retireRequest value => exact execRetireRequest_keeps value s ht
  | retirement x y => exact execRetirement_keeps x y s ht
  | descriptor h w0 w1 w2 w3 => exact execDescriptor_keeps h w0 w1 w2 w3 s ht
  | ctrProduce h m n => exact execCtrProduce_keeps h m n s ht
  | ctrConsume h m n => exact execCtrConsume_keeps h m n s ht
  | ctrRead h m => exact execCtrRead_keeps h m s ht
  | ctrBound h m b => exact execCtrBound_keeps h m b s ht
  | ctrInit h m => exact execCtrInit_keeps h m s ht
  | ctrAck h m status => exact execCtrAck_keeps h m status s ht
  | ctrReadReply h m p c => exact execCtrReadReply_keeps h m p c s ht
  | watchRegister h m => exact execWatchRegister_keeps h m s ht
  | watchCancel h m => exact execWatchCancel_keeps h m s ht
  | watchNotify h m status => exact execWatchNotify_keeps h m status s ht
  | crestArrive h seq value => exact execCrestArrive_keeps h seq value s ht
  | crestRelease h seq value => exact execCrestRelease_keeps h seq value s ht
  | crestStill h seq => exact execCrestStill_keeps h seq s ht
  | crestMoving h seq => exact execCrestMoving_keeps h seq s ht
  | crestCollected h seq => exact execCrestCollected_keeps h seq s ht
  | crestAbort h group => exact execCrestAbort_keeps h group s ht
  | hangTimerExpire part => exact execHangTimerExpire_keeps part s ht
  | signalProduce p h c n => exact execSignalProduce_keeps p h c n s ht
  | signalConsume p h c n => exact execSignalConsume_keeps p h c n s ht
  | counterRead p h c => exact execCounterRead_keeps p h c s ht
  | watchSet p h c count v id => exact execWatchSet_keeps p h c count v id s ht
  | hostWatchCancel p h id => exact execHostWatchCancel_keeps p h id s ht
  | counterBound p h c b => exact execCounterBound_keeps p h c b s ht
  | counterInit p h c => exact execCounterInit_keeps p h c s ht
  | descriptorPost p h x y w0 w1 w2 w3 => exact execDescriptorPost_keeps p h x y w0 w1 w2 w3 s ht
  | barrier p h arrival release v => exact execBarrier_keeps p h arrival release v s ht
  | broadcast p h ctr n => exact execBroadcast_keeps p h ctr n s ht
  | snapshot p h addr => exact execSnapshot_keeps p h addr s ht
  | pmdTrainingComplete port trained => exact execPmdTrainingComplete_keeps port trained s ht
  | discovery port d => exact execDiscovery_keeps port d s ht
  | retrainInterval port => exact execRetrainInterval_keeps port s ht
  | linkStatusBlock port nak ack off => exact execLinkStatusBlock_keeps port nak ack off s ht
  | linkStatusSend port => exact execLinkStatusSend_keeps port s ht
  | replayTimeout port => exact execReplayTimeout_keeps port s ht
  | reservedUnit u => exact execReservedUnit_keeps u s ht
  | transitPacket port dst src domain seq vc hops nonMin x => exact execTransitPacket_keeps port dst src domain seq vc hops nonMin x s ht
  | packetSend dst domain => exact execPacketSend_keeps dst domain s ht
  | e2eAck p base delivered refused => exact execE2eAck_keeps p base delivered refused s ht
  | retransmitTimeout dst domain seq => exact execRetransmitTimeout_keeps dst domain seq s ht
  | skipQuery p seq => exact execSkipQuery_keeps p seq s ht
  | skipAnswer p seq status clear => exact execSkipAnswer_keeps p seq status clear s ht
  | escapeTimeout port hopSeq => exact execEscapeTimeout_keeps port hopSeq s ht
  | crestRelay p w2 w3 w4 origin => exact execCrestRelay_keeps p w2 w3 w4 origin s ht
  | linkState p port state peerNode peerPort => exact execLinkState_keeps p port state peerNode peerPort s ht
  | portQuery p h port => exact execPortQuery_keeps p h port s ht
  | portControl p h port action permit => exact execPortControl_keeps p h port action permit s ht
  | echoCmd p h data => exact execEchoCmd_keeps p h data s ht
  | memLoad p m => exact execMemLoad_keeps p m s ht
  | memStore p m data => exact execMemStore_keeps p m data s ht
  | atomicAdd p m => exact execAtomicAdd_keeps p m s ht
  | atomicMax p m => exact execAtomicMax_keeps p m s ht
  | atomicCas p m => exact execAtomicCas_keeps p m s ht
  | bulkCopy p m => exact execBulkCopy_keeps p m s ht
  | translationFill cache fill => exact execTranslationFill_keeps cache fill s ht
  | ageTick => exact execAgeTick_keeps s ht
  | invalidationComplete => exact execInvalidationComplete_keeps s ht
  | referenceLock => exact execReferenceLock_keeps s ht
  | referenceLoss => exact execReferenceLoss_keeps s ht
  | holdoverTimeout => exact execHoldoverTimeout_keeps s ht
  | timeFrame bytes => exact execTimeFrame_keeps bytes s ht
  | epochMark => exact execEpochMark_keeps s ht
  | fllWindow field count => exact execFllWindow_keeps field count s ht
  | settleDelayExpire field => exact execSettleDelayExpire_keeps field s ht
  | pllLock pll => exact execPllLock_keeps pll s ht
  | pllLoss pll => exact execPllLoss_keeps pll s ht
  | sourceSwitch via sub value => exact execSourceSwitch_keeps via sub value s ht
  | pllMultiplierWrite via sub value => exact execPllMultiplierWrite_keeps via sub value s ht
  | fieldClockTargetWrite via field value => exact execFieldClockTargetWrite_keeps via field value s ht
  | ppsEdge pin => exact execPpsEdge_keeps pin s ht
  | hvBandChange volts => exact execHvBandChange_keeps volts s ht
  | hvOutOfRange volts => exact execHvOutOfRange_keeps volts s ht
  | hvPresent => exact execHvPresent_keeps s ht
  | converterFault index => exact execConverterFault_keeps index s ht
  | busUndervoltage millivolts => exact execBusUndervoltage_keeps millivolts s ht
  | regulatorReport field millivolts milliamps watts energy => exact execRegulatorReport_keeps field millivolts milliamps watts energy s ht
  | fieldSupplyFault field => exact execFieldSupplyFault_keeps field s ht
  | attributionInterval average ring standby => exact execAttributionInterval_keeps average ring standby s ht
  | clampEnd => exact execClampEnd_keeps s ht
  | sharePublish sample => exact execSharePublish_keeps sample s ht
  | currentLimit => exact execCurrentLimit_keeps s ht
  | currentLimitTimeout => exact execCurrentLimitTimeout_keeps s ht
  | sensorSample field readings => exact execSensorSample_keeps field readings s ht
  | thermalPeriod => exact execThermalPeriod_keeps s ht
  | coolantSample inlet outlet flow => exact execCoolantSample_keeps inlet outlet flow s ht
  | coolingFault => exact execCoolingFault_keeps s ht
  | reservationWrite via weight part value => exact execReservationWrite_keeps via weight part value s ht
  | mirrorFrame c bytes => exact execMirrorFrame_keeps c bytes s ht
  | mirrorLinkLoss c => exact execMirrorLinkLoss_keeps c s ht
  | ledgerClose => exact execLedgerClose_keeps s ht
  | metrologicalPulse => exact execMetrologicalPulse_keeps s ht
  | diagnosticPulse => exact execDiagnosticPulse_keeps s ht
  | ledCheckWindow drive optical => exact execLedCheckWindow_keeps drive optical s ht
  | programmingMode sealPressed password => exact execProgrammingMode_keeps sealPressed password s ht
  | logClear => exact execLogClear_keeps s ht
  | dataReadout => exact execDataReadout_keeps s ht
  | caseOpened => exact execCaseOpened_keeps s ht
  | partitionCreate value => exact execPartitionCreate_keeps value s ht
  | partitionDelete part => exact execPartitionDelete_keeps part s ht
  | scrubComplete part failed => exact execScrubComplete_keeps part failed s ht
  | spanSecretLoad value => exact execSpanSecretLoad_keeps value s ht
  | stageSlot domain slot gen => exact execStageSlot_keeps domain slot gen s ht
  | loadSlot domain slot => exact execLoadSlot_keeps domain slot s ht
  | clearSlot domain slot => exact execClearSlot_keeps domain slot s ht
  | clearSecret => exact execClearSecret_keeps s ht
  | flowRestart domain => exact execFlowRestart_keeps domain s ht
  | permitSubmission via permit => exact execPermitSubmission_keeps via permit s ht
  | readSession signer seconds => exact execReadSession_keeps signer seconds s ht
  | readSessionExpire => exact execReadSessionExpire_keeps s ht
  | controllerBoot c => exact execControllerBoot_keeps c s ht
  | imageTarget via value => exact execImageTarget_keeps via value s ht
  | imageChunk via bytes => exact execImageChunk_keeps via bytes s ht
  | imageVerify => exact execImageVerify_keeps s ht
  | startTrial via value => exact execStartTrial_keeps via value s ht
  | confirmTrial via value => exact execConfirmTrial_keeps via value s ht
  | trialTimeout => exact execTrialTimeout_keeps s ht
  | ethercatFrame port => exact execEthercatFrame_keeps port s ht
  | ethercatLinkChange port up => exact execEthercatLinkChange_keeps port up s ht
  | esmStateChange state => exact execEsmStateChange_keeps state s ht
  | sdoInformation index => exact execSdoInformation_keeps index s ht
  | unsupportedMailboxRequest coe => exact execUnsupportedMailboxRequest_keeps coe s ht
  | registerWrite index sub value => exact execRegisterWrite_keeps index sub value s ht
  | leaseRenewal c epoch => exact execLeaseRenewal_keeps c epoch s ht
  | leaseExpiry => exact execLeaseExpiry_keeps s ht
  | readyReport c epoch => exact execReadyReport_keeps c epoch s ht
  | claimWindowExpire => exact execClaimWindowExpire_keeps s ht
  | passLease via value => exact execPassLease_keeps via value s ht
  | eventRequest r => exact execEventRequest_keeps r s ht
  | eventSelect => exact execEventSelect_keeps s ht
  | eventClaim => exact execEventClaim_keeps s ht
  | eventRead p h first wanted => exact execEventRead_keeps p h first wanted s ht
  | eventAck p h seq => exact execEventAck_keeps p h seq s ht
  | eventStatus p h => exact execEventStatus_keeps p h s ht
  | objectRead p h index sub => exact execObjectRead_keeps p h index sub s ht
  | objectWrite p h index sub value => exact execObjectWrite_keeps p h index sub value s ht
  | sleepRequest via value => exact execSleepRequest_keeps via value s ht
  | sleepComplete => exact execSleepComplete_keeps s ht
  | wakeSource sources => exact execWakeSource_keeps sources s ht
  | wakeRequest via value => exact execWakeRequest_keeps via value s ht
  | alarmFire n => exact execAlarmFire_keeps n s ht
  | saveComplete good => exact execSaveComplete_keeps good s ht
  | powerUp => exact execPowerUp_keeps s ht
  | fieldGroupPower group => exact execFieldGroupPower_keeps group s ht
  | powerUpStepOverdue => exact execPowerUpStepOverdue_keeps s ht
  | resetN => exact execResetN_keeps s ht
  | standbyInputLoss => exact execStandbyInputLoss_keeps s ht
  | fieldResetRequest field => exact execFieldResetRequest_keeps field s ht
  | fieldResetComplete field => exact execFieldResetComplete_keeps field s ht
  | partitionResetRequest via part value => exact execPartitionResetRequest_keeps via part value s ht
  | resolutionLimitExpire part => exact execResolutionLimitExpire_keeps part s ht
  | waferResetRequest => exact execWaferResetRequest_keeps s ht
  | dischargeHoldExpire => exact execDischargeHoldExpire_keeps s ht
  | selfTestRequest via value => exact execSelfTestRequest_keeps via value s ht
  | serviceSelfTestRequest value => exact execServiceSelfTestRequest_keeps value s ht
  | selfTestComplete failures first => exact execSelfTestComplete_keeps failures first s ht
  | selfTestLimitExpire => exact execSelfTestLimitExpire_keeps s ht
  | sidebandFunctionWrite via pin value => exact execSidebandFunctionWrite_keeps via pin value s ht
  | sidebandInputChange pin level => exact execSidebandInputChange_keeps pin level s ht
  | syncPulseEnd pin => exact execSyncPulseEnd_keeps pin s ht
  | holdoverTick => exact execHoldoverTick_keeps s ht
  | supplyGood field => exact execSupplyGood_keeps field s ht
  | overlayTrainingComplete failed => exact execOverlayTrainingComplete_keeps failed s ht
  | busRegulationReached => exact execBusRegulationReached_keeps s ht
  | resetNRelease => exact execResetNRelease_keeps s ht
  | assayParameterChange c => exact execAssayParameterChange_keeps c s ht
  | sealSwitchRelease => exact execSealSwitchRelease_keeps s ht

/-- No command ends in a fault or a refusal (log 118). -/
theorem exec_completes (c : Instr) (s : State) : ∃ t, exec c s = .next t := by
  cases c <;> exact ⟨_, rfl⟩


theorem completes_of_exec {c : Instr} {s t : State} {q : State → Prop} (hc : exec c s = .next t) (hq : q t) : Completes c s q :=
  ⟨t, hc, (exec_keeps c hc).only, hq⟩

/-! ## Frames -/

/-- No footprint names the queue of waiting commands or what manufacture fixed. -/
theorem footprint_spares (c : Instr) : (footprint c).contains .pending = false ∧ (footprint c).contains .ident = false := by
  cases c <;> exact ⟨rfl, rfl⟩

/-- Settles O6, from the law of each command. -/
theorem everyCommandStaysInItsFootprint : Obligations.EveryCommandStaysInItsFootprint :=
  fun c _ _ ht => (exec_keeps c ht).only

/-- Settles O5: neither part is in any footprint. -/
theorem noCommandTouchesTheQueueOrManufacture : Obligations.NoCommandTouchesTheQueueOrManufacture := by
  intro c s t ht
  obtain ⟨hp, hi⟩ := footprint_spares c
  have frame := everyCommandStaysInItsFootprint c s t ht
  exact ⟨frame .pending hp, frame .ident hi⟩

/-- Settles O7: no arm of exec is a stop. -/
theorem everyCommandAnswersANextState : Obligations.EveryCommandAnswersANextState := exec_completes

/-! ## A step -/

/-- Settles O1, as step takes the front of the queue. -/
theorem stepRunsFrontCommand : Obligations.StepRunsFrontCommand := fun _ _ _ => rfl

/-- What a step does: the front command, else a released packet's command, else one reference cycle (R260, log 2). -/
theorem step_cases {s t : State} (ht : step s = .next t) :
    (∃ c rest, s.pending = c :: rest ∧ exec c { s with pending := rest } = .next t) ∨
    (∃ c rest, s.fabric.released = c :: rest ∧ exec c { s with fabric := { s.fabric with released := rest } } = .next t) ∨
    t = tick s := by
  unfold step at ht
  split at ht
  · next c rest hp => exact .inl ⟨c, rest, hp, ht⟩
  · split at ht
    · next c rest hr => exact .inr (.inl ⟨c, rest, hr, ht⟩)
    · injection ht with ht
      exact .inr (.inr ht.symm)

/-- Settles O3: taking a command from its queue touches nothing that Inv speaks of, and each command and the cycle keep it. -/
theorem everyStepKeepsTheInvariant : Obligations.EveryStepKeepsTheInvariant := by
  intro s t ht inv
  obtain ⟨c, rest, -, hc⟩ | ⟨c, rest, -, hc⟩ | rfl := step_cases ht
  · exact (exec_keeps c hc).inv ⟨inv.mem, inv.pending, inv.queue, inv.flows, inv.log⟩
  · exact (exec_keeps c hc).inv ⟨inv.mem, inv.pending, inv.queue, inv.flows, inv.log⟩
  · exact (tick_keeps s).inv inv

/-- Settles O4: every list that Inv bounds is empty at reset. -/
theorem resetHoldsTheInvariant : Obligations.ResetHoldsTheInvariant where
  mem := rfl
  pending := Nat.zero_le _
  queue := Nat.zero_le _
  flows := by intro e he; cases he
  log := Nat.zero_le _

/-! ## A cycle without a command -/

theorem casts_enterAll (l : List MeshMsg) (seen : List Moving) (s : State) : (enterAll l seen s).mesh.casts = s.mesh.casts := by
  induction l generalizing seen s with
  | nil => rfl
  | cons m l ih =>
    unfold enterAll
    dsimp only
    split
    · exact ih _ s
    · exact ih ..

theorem casts_passOutput (heads : List Moving) (s : State) (o : Nat × Nat × Bool) :
    (passOutput heads s o).mesh.casts = s.mesh.casts := by
  unfold passOutput
  split
  · rfl
  · split <;> rfl

theorem casts_foldl_passOutput (heads : List Moving) (l : List (Nat × Nat × Bool)) (s : State) :
    (l.foldl (passOutput heads) s).mesh.casts = s.mesh.casts := by
  induction l generalizing s with
  | nil => rfl
  | cons o l ih => exact (ih _).trans (casts_passOutput heads s o)

/-- The routers' cycle takes no multicast up and ends none. -/
theorem casts_meshCycle (s : State) : (meshCycle s).mesh.casts = s.mesh.casts := by
  unfold meshCycle
  split
  · rfl
  · exact (casts_enterAll ..).trans (casts_foldl_passOutput ..)

theorem castAgain_of_no_casts {s : State} (h : s.mesh.casts = []) : castAgain s = s := by
  unfold castAgain
  rw [h]
  rfl

theorem hangChecks_keeps (l : List Nat) (s : State) : Keeps [.parts] s (l.foldl (fun s p => hangCheck p s) s) :=
  Keeps.foldl (Keeps.refl _ s) fun _ p h => h.trans (hangCheck_keeps p _)

/-- Settles O2: the cycle's parts write neither the reference count nor a register, and without work only the mesh and stillness. -/
theorem stepWithoutCommandRunsTheReference : Obligations.StepWithoutCommandRunsTheReference := by
  intro s hp
  refine ⟨fun c rest hr => ?_, fun hr => ⟨fun hoff => ?_, fun hon hbox => ?_⟩⟩
  · unfold step
    rw [hp, hr]
  · unfold step tick
    rw [hp, hr, hoff]
    rfl
  · have hcyc : serveMailbox (addCycles 1 s) = addCycles 1 s := serveMailbox_of_empty hbox
    have served := (mcServeAll_keeps (addCycles 1 s)).only
    have moved := (meshCycle_keeps (mcServeAll (addCycles 1 s))).only
    have again := (castAgain_keeps (meshCycle (mcServeAll (addCycles 1 s)))).only
    have judged := (hangChecks_keeps (s.parts.map Prod.fst) (castAgain (meshCycle (mcServeAll (addCycles 1 s))))).only
    have htick : tick s = (s.parts.map Prod.fst).foldl (fun s p => hangCheck p s)
        (castAgain (meshCycle (mcServeAll (addCycles 1 s)))) := by
      unfold tick
      rw [if_pos hon, hcyc]
      rfl
    refine ⟨tick s, ?_, ?_, ?_, fun hcasts hremote => ?_⟩
    · unfold step
      rw [hp, hr]
    · rw [htick, judged .time rfl, again .time rfl, moved .time rfl, served .time rfl]
      rfl
    · rw [htick, judged .regs rfl, again .regs rfl, moved .regs rfl, served .regs rfl]
      rfl
    · have hserve : mcServeAll (addCycles 1 s) = addCycles 1 s := mcServeAll_of_no_remote hremote
      have hidle : castAgain (meshCycle (addCycles 1 s)) = meshCycle (addCycles 1 s) :=
        castAgain_of_no_casts ((casts_meshCycle _).trans hcasts)
      rw [htick, judged .events rfl, hserve, hidle, (meshCycle_keeps _).only .events rfl]
      rfl

/-! ## The state after a reset -/

/-- Settles O58: every table is empty at reset, so each read gives its default. -/
theorem resetLeavesTheModuleOff : Obligations.ResetLeavesTheModuleOff := by
  refine ⟨rfl, rfl, fun _ => rfl, fun key => by cases key <;> rfl, rfl, rfl, rfl, rfl, rfl, rfl, rfl, rfl, rfl, rfl, fun _ => ⟨rfl, rfl, rfl⟩,
    fun _ => rfl, fun _ _ => ⟨rfl, rfl, rfl⟩, fun _ => rfl, rfl, rfl, rfl, rfl⟩

/-- A module reset starts every register again that R440 does not keep. -/
theorem moduleReset_resets (detail : Nat) (s : State) : ModuleReset detail s (moduleReset detail s) :=
  ⟨rfl, rfl, rfl, rfl, rfl, rfl, rfl, rfl, rfl, rfl, rfl, rfl, rfl, rfl, rfl, rfl, rfl, rfl, rfl,
    fun c => by cases c <;> exact ⟨rfl, rfl, rfl, rfl, rfl⟩, rfl, rfl, rfl⟩


theorem assayLog_of_room {kind a b : Nat} {s : State} (h : s.assay.log.length < 1024) :
    (assayLog kind a b s).assay.log = s.assay.log ++ [(kind, now s, a, b)] := by
  unfold assayLog
  rw [if_pos h]

/-- An entry in the Assay's log changes neither the serial nor the energy, and nothing outside the Assay. -/
theorem assayLog_rest (kind a b : Nat) (s : State) : ∃ v, assayLog kind a b s = { s with assay := v } ∧
    v.serial = s.assay.serial ∧ v.energy = s.assay.energy := by
  unfold assayLog
  dsimp only
  split
  · exact ⟨_, rfl, rfl, rfl⟩
  · split
    · exact ⟨_, rfl, rfl, rfl⟩
    · exact ⟨_, rfl, rfl, rfl⟩

/-- Settles O36: with standby power both inputs run the module reset, which the log entry of the Assay does not change. -/
theorem moduleResetsStartTheModuleAgain : Obligations.ModuleResetsStartTheModuleAgain := by
  intro s
  refine ⟨fun hon => ⟨?_, ?_⟩, fun hoff => ⟨?_, ?_⟩⟩
  · have hexec : exec .resetN s = .next (moduleReset 1 { s with pilot := { s.pilot with resetLow := true } }) := by
      show execResetN s = _
      simp [execResetN, hon]
    exact completes_of_exec hexec
      ⟨moduleReset_resets 1 { s with pilot := { s.pilot with resetLow := true } }, rfl, rfl, by simp [moduleReset, hon], rfl, rfl⟩
  · have hexec : exec .standbyInputLoss s = .next (moduleReset 2 (assayLog 1 0 0 s)) := by
      show execStandbyInputLoss s = _
      simp [execStandbyInputLoss, hon]
    refine completes_of_exec hexec ⟨?_, rfl, by simp [moduleReset], fun hroom => assayLog_of_room hroom⟩
    obtain ⟨v, hlog, hserial, henergy⟩ := assayLog_rest 1 0 0 s
    rw [hlog]
    have reset := moduleReset_resets 2 { s with assay := v }
    unfold ModuleReset at reset ⊢
    rw [← hserial, ← henergy]
    exact reset
  · have hexec : exec .resetN s = .next { s with pilot := { s.pilot with resetLow := true } } := by
      show execResetN s = _
      simp [execResetN, hoff]
    exact completes_of_exec hexec ⟨rfl, rfl, rfl⟩
  · have hexec : exec .standbyInputLoss s = .next s := by
      show execStandbyInputLoss s = _
      simp [execStandbyInputLoss, hoff]
    exact completes_of_exec hexec rfl

end Sys2Proof.Machine
end

section
/-!
PROOF. Reads of a table all of whose entries change, and frames of repeated changes.
-/

namespace Sys2Proof.Machine

open Sys2Proof

theorem amFind_amMap {α : Type} (m : AMap α) (f : Nat → α → α) (x : Nat) : amFind (amMap m f) x = (amFind m x).map (f x) := by
  induction m with
  | nil => rfl
  | cons e m ih =>
    obtain ⟨k, a⟩ := e
    unfold amMap at ih ⊢
    simp only [List.map_cons, amFind, ih]
    split
    · next h => rw [h]; rfl
    · rfl

/-- A change of every entry that keeps a figure keeps the list of the figures. -/
theorem map_amMap_of_same {α β : Type} (m : AMap α) (f : Nat → α → α) (g : α → β) (h : ∀ k a, g (f k a) = g a) :
    (amMap m f).map (fun e => g e.2) = m.map (fun e => g e.2) := by
  simp only [amMap, List.map_map]
  exact List.map_congr_left fun e _ => h e.1 e.2

theorem amFind_none_of_not_key {α : Type} {m : AMap α} {x : Nat} (h : x ∉ m.map Prod.fst) : amFind m x = none := by
  cases hx : amFind m x with
  | none => rfl
  | some a => exact absurd (List.mem_map_of_mem (f := Prod.fst) (amFind_mem hx)) h

theorem mem_keys_of_getPart {s : State} {p : Nat} {a : Part} (h : getPart s p = some a) : p ∈ s.parts.map Prod.fst :=
  List.mem_map_of_mem (f := Prod.fst) (amFind_mem h)

/-- Several requests in order write the event controller alone. -/
theorem raises_keeps {α : Type} (e : State → α → EvReq) (l : List α) (s : State) :
    Keeps [.events] s (l.foldl (fun s a => raise (e s a) s) s) :=
  Keeps.foldl (Keeps.refl _ s) fun _ _ h => h.trans (raise_keeps ..)

theorem getPart_raises {α : Type} (e : State → α → EvReq) (l : List α) (s : State) (p : Nat) :
    getPart (l.foldl (fun s a => raise (e s a) s) s) p = getPart s p :=
  congrArg (amFind · p) ((raises_keeps e l s).only .parts rfl)

end Sys2Proof.Machine
end

section
/-!
PROOF. The close of a ledger second (R355 to R358): the partitions' parts, each rounded down, never exceed the energy that is shared,
so that house takes the whole rest.
-/

namespace Sys2Proof.Machine

open Sys2Proof

/-! ## Booking -/

/-- The credit of a partition in the open second, 0 where it does not exist. -/
def openCredit (s : State) (p : Nat) : Nat := ((getPart s p).map Part.secondCredit).getD 0

/-- A partition's part of an energy, by a credit out of a total (R357). -/
def partOf (m total credit : Nat) : Nat := if total = 0 then 0 else m * credit / total

theorem partOf_zero (m total : Nat) : partOf m total 0 = 0 := by simp [partOf]

/-- A partition after a booking: no credit is left, and its part is added to its energy. -/
def Booked (m total : Nat) (a b : Part) : Prop :=
  b.secondCredit = 0 ∧ b.energy = a.energy + partOf m total a.secondCredit ∧ b.tenantEnergy = b.energy / 1000

theorem bookPart_ledger (m total p : Nat) (s : State) :
    (bookPart m total p s).ledger = { s.ledger with booked := s.ledger.booked + partOf m total (openCredit s p) } := by
  unfold bookPart openCredit
  cases hp : getPart s p with
  | none => simp [partOf]
  | some a =>
    dsimp only
    rw [(raises_keeps (fun s (e : Word64 × Word64 × Nat) => evPart s 0x34A 0 p e.2.2) _ _).only .ledger rfl]
    simp [partOf]

theorem getPart_bookPart_ne (m total : Nat) {p q : Nat} (h : q ≠ p) (s : State) : getPart (bookPart m total p s) q = getPart s q := by
  unfold bookPart
  cases hp : getPart s p with
  | none => rfl
  | some a =>
    dsimp only
    rw [getPart_raises]
    exact (getPart_modPart ..).trans (if_neg h)

theorem getPart_bookPart_self {m total p : Nat} {s : State} {a : Part} (ha : getPart s p = some a) :
    ∃ b, getPart (bookPart m total p s) p = some b ∧ Booked m total a b := by
  unfold bookPart
  rw [ha]
  dsimp only
  rw [getPart_raises]
  refine ⟨_, (getPart_modPart ..).trans (by rw [if_pos rfl, ha]; rfl), rfl, rfl, rfl⟩

/-- A second booking of a partition adds nothing, since no credit is left. -/
theorem Booked.again {m total : Nat} {a b c : Part} (hab : Booked m total a b) (hbc : Booked m total b c) : Booked m total a c := by
  obtain ⟨hcredit, henergy, -⟩ := hab
  obtain ⟨hc, hce, hct⟩ := hbc
  refine ⟨hc, ?_, hct⟩
  rw [hce, hcredit, partOf_zero, henergy, Nat.add_zero]

theorem openCredit_bookPart (m total p q : Nat) (s : State) :
    openCredit (bookPart m total p s) q = if q = p then 0 else openCredit s q := by
  unfold openCredit
  split
  · next h =>
    subst h
    cases hq : getPart s q with
    | none => simp [bookPart, hq]
    | some a =>
      obtain ⟨b, hb, hcredit, -⟩ := getPart_bookPart_self (m := m) (total := total) hq
      simp [hb, hcredit]
  · next h => rw [getPart_bookPart_ne m total h]

/-! ## The bookings of all partitions -/

/-- The bookings of a list of partitions, one after another. -/
def bookAll (m total : Nat) (l : List Nat) (s : State) : State := l.foldl (fun s p => bookPart m total p s) s

theorem bookAll_keeps (m total : Nat) (l : List Nat) (s : State) : Keeps [.ledger, .events, .parts] s (bookAll m total l s) :=
  Keeps.foldl (Keeps.refl _ s) fun _ p h => h.trans (bookPart_keeps m total p _)

/-- The bookings change only the booked energy of the ledger, which grows by each listed partition's part, taken once. -/
theorem bookAll_ledger (m total : Nat) (l : List Nat) (s : State) : (bookAll m total l s).ledger =
    { s.ledger with booked := s.ledger.booked + ∑ p ∈ l.toFinset, partOf m total (openCredit s p) } := by
  induction l generalizing s with
  | nil => simp [bookAll]
  | cons p l ih =>
    have rest : ∑ q ∈ l.toFinset, partOf m total (openCredit (bookPart m total p s) q) =
        ∑ q ∈ l.toFinset.erase p, partOf m total (openCredit s q) := by
      rw [← Finset.sum_erase l.toFinset (a := p) (by rw [openCredit_bookPart, if_pos rfl, partOf_zero])]
      refine Finset.sum_congr rfl fun q hq => ?_
      rw [openCredit_bookPart, if_neg (Finset.ne_of_mem_erase hq)]
    have all : ∑ q ∈ (p :: l).toFinset, partOf m total (openCredit s q) =
        partOf m total (openCredit s p) + ∑ q ∈ l.toFinset.erase p, partOf m total (openCredit s q) := by
      rw [List.toFinset_cons, ← Finset.add_sum_erase _ _ (Finset.mem_insert_self p _), Finset.erase_insert_eq_erase]
    have step : bookAll m total (p :: l) s = bookAll m total l (bookPart m total p s) := rfl
    rw [step, ih, bookPart_ledger, rest, all, Nat.add_assoc]

theorem getPart_bookAll {m total p : Nat} {l : List Nat} {s : State} {a : Part} (ha : getPart s p = some a) :
    ∃ b, getPart (bookAll m total l s) p = some b ∧ (p ∈ l → Booked m total a b) ∧ (b = a ∨ Booked m total a b) := by
  induction l generalizing s a with
  | nil => exact ⟨a, ha, fun h => absurd h (List.not_mem_nil), .inl rfl⟩
  | cons q l ih =>
    by_cases hq : p = q
    · subst hq
      obtain ⟨b, hb, hab⟩ := getPart_bookPart_self (m := m) (total := total) ha
      obtain ⟨c, hc, -, hbc⟩ := ih hb
      have hac : Booked m total a c := by
        obtain rfl | hbc := hbc
        · exact hab
        · exact hab.again hbc
      exact ⟨c, hc, fun _ => hac, .inr hac⟩
    · obtain ⟨b, hb, hin, hor⟩ := ih (s := bookPart m total q s) ((getPart_bookPart_ne m total hq s).trans ha)
      exact ⟨b, hb, fun h => hin ((List.mem_cons.mp h).resolve_left hq), hor⟩

/-! ## Conservation -/

/-- The first entry of every key, taken once: at most the sum of all entries. -/
theorem sum_first_le (m : AMap Part) :
    ∑ p ∈ (m.map Prod.fst).toFinset, ((amFind m p).map Part.secondCredit).getD 0 ≤ (m.map (fun e => e.2.secondCredit)).sum := by
  induction m with
  | nil => simp
  | cons e m ih =>
    obtain ⟨k, a⟩ := e
    have tail : ∑ p ∈ (m.map Prod.fst).toFinset.erase k, ((amFind ((k, a) :: m) p).map Part.secondCredit).getD 0 ≤
        ∑ p ∈ (m.map Prod.fst).toFinset, ((amFind m p).map Part.secondCredit).getD 0 := by
      rw [Finset.sum_congr rfl fun p hp => by
        show _ = ((amFind m p).map Part.secondCredit).getD 0
        rw [amFind, if_neg (Finset.ne_of_mem_erase hp).symm]]
      exact Finset.sum_le_sum_of_subset (Finset.erase_subset ..)
    rw [List.map_cons, List.toFinset_cons, ← Finset.add_sum_erase _ _ (Finset.mem_insert_self k _), Finset.erase_insert_eq_erase,
      List.map_cons, List.sum_cons]
    have head : ((amFind ((k, a) :: m) k).map Part.secondCredit).getD 0 = a.secondCredit := by simp [amFind]
    rw [head]
    exact Nat.add_le_add_left (tail.trans ih) _

/-- Parts rounded down, by credits that make up at most the total, make up at most the energy. -/
theorem sum_partOf_le (m total : Nat) (t : Finset Nat) (credit : Nat → Nat) (h : ∑ p ∈ t, credit p ≤ total) :
    ∑ p ∈ t, partOf m total (credit p) ≤ m := by
  obtain rfl | hpos := Nat.eq_zero_or_pos total
  · simp [partOf]
  · refine Nat.le_of_mul_le_mul_right ?_ hpos
    calc (∑ p ∈ t, partOf m total (credit p)) * total
        = ∑ p ∈ t, partOf m total (credit p) * total := Finset.sum_mul ..
      _ ≤ ∑ p ∈ t, m * credit p := Finset.sum_le_sum fun p _ => by
          rw [partOf, if_neg hpos.ne']
          exact Nat.div_mul_le_self ..
      _ = m * ∑ p ∈ t, credit p := (Finset.mul_sum ..).symm
      _ ≤ m * total := Nat.mul_le_mul_left m h

/-- The bookings of a second never exceed its energy (R357). -/
theorem booked_le (m : Nat) (s : State) (rest : Nat) :
    ∑ p ∈ (s.parts.map Prod.fst).toFinset,
      partOf m ((s.parts.map (fun e => e.2.secondCredit)).sum + rest) (openCredit s p) ≤ m :=
  sum_partOf_le _ _ _ _ ((sum_first_le s.parts).trans (Nat.le_add_right ..))

/-! ## The second's last ticks -/

/-- The ticks up to a second's end have passed, and the ledger's counter starts again: nothing else that a close reads has changed. -/
structure SecondEnded (s u : State) : Prop where
  only : Only [.time, .ledger, .parts, .pilot] s u
  ledger : u.ledger = { s.ledger with ticks := s.ledger.ticks - 1000 }
  reset : u.pilot.waferReset = s.pilot.waferReset
  parts : ∃ c : Nat → Part → Option Cadence, u.parts = amMap s.parts (fun k a => { a with cadence := c k a })

/-- Cadence that waits for its first tick takes its origin there (R163). -/
def cadenceFrom (w : Int) (a : Part) : Option Cadence :=
  a.cadence.map (fun c => if c.w0Tick then { c with w0 := w, w0Tick := false } else c)

theorem msTicks_ends {n : Nat} {s : State} (h : s.ledger.begun = true) :
    (msTicks n s).ledger = { s.ledger with ticks := s.ledger.ticks + n } ∧ (msTicks n s).pilot.waferReset = s.pilot.waferReset ∧
    ∃ c : Nat → Part → Option Cadence, (msTicks n s).parts = amMap s.parts (fun k a => { a with cadence := c k a }) := by
  unfold msTicks
  split
  · next hn =>
    subst hn
    exact ⟨rfl, rfl, fun _ a => a.cadence, by simp [amMap]⟩
  · dsimp only
    rw [if_pos h]
    split
    · exact ⟨rfl, rfl, fun _ => cadenceFrom (now s), rfl⟩
    · exact ⟨rfl, rfl, fun _ => cadenceFrom (now s), rfl⟩

theorem advanceTo_waferReset (t : Nat) (s : State) : (advanceTo t s).pilot.waferReset = s.pilot.waferReset := by
  cases s
  rfl

theorem secondEnded_of_ticks {n at' left : Nat} {s : State} (h : s.ledger.begun = true) (hn : left = s.ledger.ticks - 1000) :
    SecondEnded s { msTicks n (advanceTo at' s) with ledger := { (msTicks n (advanceTo at' s)).ledger with ticks := left } } := by
  have ran := (advanceTo_keeps at' s).only
  have stays := advanceTo_waferReset at' s
  generalize advanceTo at' s = x at ran stays
  have ticked := (msTicks_keeps n x).only
  have hl : x.ledger = s.ledger := ran .ledger rfl
  obtain ⟨hledger, hreset, c, hparts⟩ := msTicks_ends (n := n) (s := x) (hl.symm ▸ h)
  refine ⟨?_, ?_, hreset.trans stays, c, hparts.trans (by rw [ran .parts rfl])⟩
  · exact ((ran.mono (by decide)).trans (ticked.mono (by decide))).trans fun r hr => by cases r <;> first | rfl | simp_all
  · dsimp only
    rw [hledger, hl, hn]

/-- LEDGER_CLOSE first passes the ticks that the open second still lacks, and then closes it (log 3). -/
theorem exec_ledgerClose {s : State} (h : s.ledger.begun = true) :
    ∃ u, SecondEnded s u ∧ exec .ledgerClose s = .next (closeSecond u) := by
  have hexec : exec .ledgerClose s = execLedgerClose s := rfl
  unfold execLedgerClose at hexec
  rw [if_pos h] at hexec
  refine ⟨_, secondEnded_of_ticks h ?_, hexec⟩
  have ran := (advanceTo_keeps ((s.time.lastTick + (1000 - s.ledger.ticks) * tickCycles) * 64) s).only
  rw [(msTicks_ends ((congrArg LedgerS.begun (ran .ledger rfl)).trans h)).1]
  dsimp only
  rw [ran .ledger rfl]
  omega

theorem SecondEnded.activeCtl {s u : State} (h : SecondEnded s u) : Machine.activeCtl u = Machine.activeCtl s := by
  unfold Machine.activeCtl
  rw [h.only .lease rfl]

theorem SecondEnded.mirror {s u : State} (h : SecondEnded s u) (c : Ctl) : (getCtl c u).mirror = (getCtl c s).mirror := by
  cases c
  · exact congrArg CtlS.mirror (h.only .cope rfl)
  · exact congrArg CtlS.mirror (h.only .drag rfl)

theorem SecondEnded.credits {s u : State} (h : SecondEnded s u) :
    u.parts.map (fun e => e.2.secondCredit) = s.parts.map (fun e => e.2.secondCredit) := by
  obtain ⟨c, hc⟩ := h.parts
  rw [hc]
  exact map_amMap_of_same s.parts _ Part.secondCredit fun _ _ => rfl

theorem SecondEnded.getPart {s u : State} (h : SecondEnded s u) {p : Nat} {a : Part} (ha : Machine.getPart s p = some a) :
    ∃ b, Machine.getPart u p = some b ∧ b.secondCredit = a.secondCredit ∧ b.energy = a.energy := by
  obtain ⟨c, hc⟩ := h.parts
  refine ⟨{ a with cadence := c p a }, ?_, rfl, rfl⟩
  unfold Machine.getPart at ha ⊢
  rw [hc, amFind_amMap, ha]
  rfl

/-! ## The close -/

/-- The close of an unmarked second with a frame: the bookings, and house the rest (R356, R357). -/
def sharedSecond (energy m total : Nat) (s : State) : State :=
  let b := bookAll m total (s.parts.map Prod.fst) s
  { b with ledger := { b.ledger with
      seconds := b.ledger.seconds + 1, total := b.ledger.total + m, house := b.ledger.house + (m - (b.ledger.booked - s.ledger.booked))
      last := m, base := some energy, unapportioned := b.ledger.unapportioned, waferReset := false } }

theorem mirror_freshSecond (c : Ctl) (s : State) : (getCtl c (freshSecond s)).mirror = freshMirror (getCtl c s).mirror := by
  cases c <;> rfl

theorem mirror_sharedSecond (c : Ctl) (energy m total : Nat) (s : State) :
    (getCtl c (sharedSecond energy m total s)).mirror = (getCtl c s).mirror := by
  have booked := (bookAll_keeps m total (s.parts.map Prod.fst) s).only
  cases c
  · exact congrArg CtlS.mirror (booked .cope rfl)
  · exact congrArg CtlS.mirror (booked .drag rfl)

theorem activeCtl_sharedSecond (energy m total : Nat) (s : State) : activeCtl (sharedSecond energy m total s) = activeCtl s :=
  congrArg (fun l : LeaseS => l.owner.getD .cope) ((bookAll_keeps m total (s.parts.map Prod.fst) s).only .lease rfl)

theorem base_sharedSecond (energy m total : Nat) (s : State) : (sharedSecond energy m total s).ledger.base = some energy := rfl

theorem closeSecond_shared {u : State} {energy b : Nat} (hview : closingView (getCtl (activeCtl u) u).mirror = (energy, true, false, false))
    (hbase : u.ledger.base = some b) (hreset : u.ledger.waferReset = false) (hmoved : u.ledger.leaseMoved = false) :
    closeSecond u = freshSecond (sharedSecond energy (energy - b)
      ((u.parts.map (fun e => e.2.secondCredit)).sum + u.power.houseSecond + u.power.standbyEnergy) u) := by
  unfold closeSecond sharedSecond bookAll
  rw [hview]
  simp only [hbase, hreset, hmoved, Bool.false_eq_true, if_false, false_and, Bool.not_true, Option.isNone_some, Bool.or_self, Option.getD_some, Nat.add_zero]

theorem closeSecond_empty {u : State} (hframe : (closingView (getCtl (activeCtl u) u).mirror).2.1 = false)
    (hreset : ¬(u.ledger.waferReset = true ∧ u.pilot.waferReset.isSome = true)) : closeSecond u = emptySecond u := by
  unfold closeSecond
  dsimp only
  rw [if_neg hreset, hframe]
  rfl

theorem closeSecond_skipped {u : State} (h : u.ledger.waferReset = true ∧ u.pilot.waferReset.isSome = true) :
    closeSecond u = skipSecond u := by
  unfold closeSecond
  dsimp only
  rw [if_pos h]

/-- Settles O20: the ticks change nothing that the close reads, and what is booked never exceeds the energy that is shared. -/
theorem theLedgerSecondClosesExactly : Obligations.TheLedgerSecondClosesExactly := by
  intro s hbegun
  obtain ⟨u, ended, hexec⟩ := exec_ledgerClose hbegun
  have hmir : (getCtl (activeCtl u) u).mirror = (getCtl (activeCtl s) s).mirror := by rw [ended.activeCtl, ended.mirror]
  have hpower : u.power = s.power := ended.only .power rfl
  refine ⟨fun b hframe hserial hfell hbase hreset hmoved => ?_, fun hframe hreset => ?_, fun hreset hrunning => ?_⟩
  · have hclose := closeSecond_shared (u := u) (energy := (closingView (getCtl (activeCtl s) s).mirror).1)
      (by rw [hmir]; exact Prod.ext rfl (Prod.ext hframe (Prod.ext hserial hfell))) (by rw [ended.ledger]; exact hbase) (by rw [ended.ledger]; exact hreset)
      (by rw [ended.ledger]; exact hmoved)
    rw [ended.credits, hpower] at hclose
    rw [hclose] at hexec
    generalize htotal : (s.parts.map (fun e => e.2.secondCredit)).sum + s.power.houseSecond + s.power.standbyEnergy = total
      at hexec ⊢
    have hle := booked_le ((closingView (getCtl (activeCtl s) s).mirror).1 - b) u (s.power.houseSecond + s.power.standbyEnergy)
    rw [ended.credits, ← Nat.add_assoc, htotal] at hle
    refine completes_of_exec hexec ⟨?_, ?_, ?_, ?_, ?_, ?_, ?_, ?_, ?_, ?_, fun p a ha => ?_⟩
    case refine_11 =>
      obtain ⟨x, hx, hcredit, henergy⟩ := ended.getPart ha
      obtain ⟨y, hy, hin, -⟩ := getPart_bookAll (m := (closingView (getCtl (activeCtl s) s).mirror).1 - b) (total := total)
        (l := u.parts.map Prod.fst) hx
      obtain ⟨hy0, hye, hyt⟩ := hin (mem_keys_of_getPart hx)
      exact ⟨y, hy, hy0, by rw [hye, henergy, hcredit]; rfl, hyt⟩
    case refine_4 =>
      show dueBase (getCtl (activeCtl _) _).mirror _ = _
      rw [activeCtl_sharedSecond, mirror_sharedSecond, base_sharedSecond, hmir]
    case refine_10 => rw [mirror_freshSecond, mirror_sharedSecond, ended.mirror]
    case refine_7 =>
      simp only [freshSecond, sharedSecond, bookAll_ledger, ended.ledger, Nat.add_sub_cancel_left]
      omega
    all_goals simp [freshSecond, sharedSecond, bookAll_ledger, ended.ledger]
  · have hclose : closeSecond u = emptySecond u :=
      closeSecond_empty (hmir ▸ hframe) (by rw [ended.ledger, ended.reset]; exact hreset)
    have hctl : activeCtl (skipSecond u) = activeCtl s := ended.activeCtl
    rw [hclose] at hexec
    have hraise : emptySecond u = raise (evCtl 0x342 1 (activeCtl s) 0) (creditsToHouse (skipSecond u)) := by
      rw [← ended.activeCtl]
      rfl
    rw [hraise] at hexec
    refine completes_of_exec hexec ⟨?_, ?_, ?_, ?_, ?_, ?_, fun p a ha => ?_, raise_events _ (ended.only .events rfl)⟩
    case refine_7 =>
      obtain ⟨b, hb, -, henergy⟩ := ended.getPart ha
      refine ⟨{ b with secondCredit := 0, ending := b.ending.map (fun e => (e.1, e.2.1, 0, e.2.2.2)),
                       job := b.job.map (fun j => { j with credits := 0 }) }, ?_, rfl, henergy⟩
      unfold getPart at hb ⊢
      simp [creditsToHouse, skipSecond, amFind_amMap, hb]
    all_goals simp [creditsToHouse, skipSecond, ended.ledger, hpower, ended.credits, ended.activeCtl, ended.mirror]
  · have hclose : closeSecond u = skipSecond u := closeSecond_skipped (by rw [ended.ledger, ended.reset]; exact ⟨hreset, hrunning⟩)
    rw [hclose] at hexec
    refine completes_of_exec hexec ⟨?_, ?_, ?_, ended.only .events rfl, hpower⟩ <;>
      simp only [skipSecond, ended.ledger]

end Sys2Proof.Machine
end

section
/-!
PROOF. The timing link (R295, R299): what a lock, a loss and a long holdover do to the reference state.
-/

namespace Sys2Proof.Machine

open Sys2Proof

theorem exec_referenceLock_first {s : State} (h2 : 2 ≤ s.pilot.step) (href : s.time.ref = .noLock) :
    exec .referenceLock s = .next (advanceUp { s with time := { s.time with ref := .locked } }) := by
  show execReferenceLock s = _
  unfold execReferenceLock
  rw [if_neg (by omega), href]

theorem exec_referenceLock_regained {s : State} (h2 : 2 ≤ s.pilot.step) (href : s.time.ref = .holdover ∨ s.time.ref = .holdoverLong)
    (hregain : s.time.regaining = false) :
    exec .referenceLock s = .next (advanceUp (wakeFire [90] { s with time := { s.time with regaining := true } })) := by
  show execReferenceLock s = _
  unfold execReferenceLock
  rw [if_neg (by omega)]
  obtain href | href := href <;> simp [href, hregain]

/-- Step 3 of a first power-up ends with the lock, and step 4 waits for an owner of the lease (R428). -/
theorem advanceUp_locked {s : State} (h3 : s.pilot.step = 3) (hlock : linkLocked s = true) (howner : s.lease.owner = none)
    (hreset : s.pilot.waferReset = none) : advanceUp s = enterStep 4 s := by
  refine advanceUp_once ?_ ?_ (by simp [enterStep])
  · simp [upStep, h3, hlock, hreset]
  · simp [upStep, enterStep, howner]

theorem now_ref (r : RefState) (s : State) : now { s with time := { s.time with ref := r } } = now s := rfl

/-- A holdover that has lasted 60 s is long (R299). -/
theorem exec_holdoverTimeout {s : State} (href : s.time.ref = .holdover) : ∃ due, due = s.time.holdoverSince + 60 * secT ∧
    exec .holdoverTimeout s = .next (raise (evPilot 0x081 1 0)
      { advanceTo due s with time := { (advanceTo due s).time with ref := .holdoverLong } }) := by
  refine ⟨_, rfl, ?_⟩
  show execHoldoverTimeout s = _
  unfold execHoldoverTimeout
  rw [if_pos href]

/-- Settles O8: each case is the command's own branch, and the power-up sequence stops at step 4 for want of an owner. -/
theorem theTimingLinkMovesTheReference : Obligations.TheTimingLinkMovesTheReference := by
  intro s
  refine ⟨fun h2 href => ?_, fun h3 href howner hreset => ?_, fun h2 href hregain => ?_, fun href => ?_, fun href => ?_⟩
  · exact completes_of_exec (exec_referenceLock_first h2 href) rfl
  · have hup := advanceUp_locked (s := { s with time := { s.time with ref := .locked } }) h3 (by simp [linkLocked]) howner hreset
    refine completes_of_exec (exec_referenceLock_first (by omega) href) ?_
    rw [hup]
    exact ⟨rfl, rfl⟩
  · exact completes_of_exec (exec_referenceLock_regained h2 href hregain) rfl
  · have hexec : exec .referenceLoss s = .next (raise (evPilot 0x080 1 0)
        { s with time := { s.time with ref := .holdover, holdoverSince := now s, regaining := false, frameTod := none } }) := by
      show execReferenceLoss s = _
      unfold execReferenceLoss
      rw [href]
    exact completes_of_exec hexec ⟨raise_time .., raise_events _ rfl⟩
  · obtain ⟨due, hdue, hexec⟩ := exec_holdoverTimeout href
    obtain ⟨hlong, hlater⟩ := now_advanceTo due s
    refine completes_of_exec hexec ⟨by rw [raise_time], ?_, ?_, raise_events _ ((advanceTo_keeps due s).only .events rfl)⟩
    · rw [now_raise, now_ref, ← hdue]
      exact hlong
    · rw [now_raise, now_ref]
      exact hlater

end Sys2Proof.Machine
end

section
/-!
PROOF. A served write of a number by the operator (R396): the checks pass, and the owning chapter's rule gives the outcome.
-/

namespace Sys2Proof.Machine

open Sys2Proof

theorem leNat_leBytes (n v : Nat) (h : v < 256 ^ n) : leNat (leBytes n v) = v := by
  induction n generalizing v with
  | zero => simp at h; simp [leBytes, leNat, h]
  | succ n ih =>
    have hdiv : v / 256 < 256 ^ n := Nat.div_lt_of_lt_mul (by rw [pow_succ] at h; omega)
    rw [leBytes, leNat, ih _ hdiv, BitVec.toNat_ofNat]
    omega

theorem length_leBytes (n v : Nat) : (leBytes n v).length = n := by
  induction n generalizing v with
  | zero => rfl
  | succ n ih => simp [leBytes, ih]

theorem setting_accepted {s u : State} (h : Accepted s u) (index sub : Nat) : setting u index sub = setting s index sub := by
  unfold setting reg
  rw [h.regs]

theorem inRange_accepted {s u : State} (h : Accepted s u) (o : Obj) (sub v : Nat) : inRange u o sub v = inRange s o sub v := by
  unfold inRange
  simp only [setting_accepted h]

theorem entryMissing_accepted {s u : State} (h : Accepted s u) (o : Obj) (sub : Nat) : entryMissing u o sub = entryMissing s o sub := by
  unfold entryMissing
  rw [getPart_accepted h]

/-- A number object of the dictionary that the operator may write without a permit (R396, R398). -/
structure OperatorNumber (index sub : Nat) (o : Obj) : Prop where
  known : indexExists index = true
  found : findObj index sub = some o
  named : o.index = index
  acc : o.acc = .rw ∨ o.acc = .wo
  operator : o.roles.contains .operator = true
  number : o.ty < 8
  notKey : index ≠ 0x2510

/-- What an accepted or refused write of a number leaves: the rule's state, saved where the rule accepts (R396 row 10, R424). -/
def ruled (index sub v : Nat) (s : State) : Nat × State :=
  ((ruleWrite none index sub v s).1,
    if (ruleWrite none index sub v s).1 = 0 then saved index sub (ruleWrite none index sub v s).2 else (ruleWrite none index sub v s).2)

/-- The operator's write of a number in range passes the checks of R396 up to the owning chapter's rule. -/
theorem writeObject_operator {index sub v : Nat} {o : Obj} (ho : OperatorNumber index sub o) {w : Asker} (hw : w.own = none) (sdo : Bool)
    {s : State} (hv : v < 256 ^ o.len) (hent : entryMissing s o sub = false) (hrange : inRange s o sub v = true) :
    writeObject w sdo index sub (leBytes o.len v) s = ruled index sub v s := by
  obtain ⟨hknown, hfound, hnamed, hacc, hop, hty, hkey⟩ := ho
  have hmay : mayWrite w o sub = true := by simp only [mayWrite, hw]; exact hop
  have hlen : ¬ (leBytes o.len v).length ≠ o.len := by simp [length_leBytes]
  have hrow : writeObject w sdo index sub (leBytes o.len v) s = writeFound w sdo o sub (leBytes o.len v) s := by
    unfold writeObject
    rw [hknown, hfound]
    rfl
  have hsaved (t : State) : saved index sub t = noteWrite o sub t := by
    unfold saved
    rw [hfound]
  have hbytes : leNat (leBytes o.len v) = v := leNat_leBytes _ _ hv
  rw [hrow]
  unfold writeFound ruled
  obtain hacc | hacc := hacc <;>
    simp [hkey, hacc, hmay, hent, length_leBytes, hbytes, hrange, hw, hnamed, hsaved, Nat.not_le.mpr hty]

/-- A served write of a number by the operator is the rule of its chapter on an accepted state. -/
theorem writes_number {c : Instr} {via : Via} {index sub n v : Nat} {o : Obj} {s : State} {q : State → Nat → State → Prop}
    (hc : exec c s = .next (viaNum c via index sub n v s)) (hs : Served via s) (hown : (writer via s).own = none)
    (ho : OperatorNumber index sub o) (hn : o.len = n) (hv : v < 256 ^ n) (hent : entryMissing s o sub = false)
    (hrange : inRange s o sub v = true)
    (hq : ∀ u, Accepted s u → q u (ruled index sub v u).1 (ruled index sub v u).2) : Writes c via s q := by
  subst hn
  unfold viaNum at hc
  rw [if_pos hv] at hc
  refine writes_of_viaWrite hc hs (fun t ht => (exec_keeps c ht).only) fun u sdo hu => ?_
  rw [writeObject_operator ho hown sdo hv ((entryMissing_accepted hu o sub).trans hent) ((inRange_accepted hu o sub v).trans hrange)]
  exact hq u hu

/-- An object of the wafer, a field or a port has every entry. -/
theorem entryMissing_of_not_part {o : Obj} (h : (o.ent == .part) = false) (s : State) (sub : Nat) : entryMissing s o sub = false := by
  simp [entryMissing, h]

/-- A partition that exists has its entry. -/
theorem entryMissing_of_part {s : State} {p : Nat} {a : Part} (h : getPart s p = some a) (o : Obj) : entryMissing s o (p + 1) = false := by
  simp [entryMissing, h]

end Sys2Proof.Machine
end

section
/-!
PROOF. The sideband pins (R457 to R461): reference edges, samples, sync pulses and written functions.
-/

namespace Sys2Proof.Machine

open Sys2Proof

theorem amGet_amMap {α : Type} (m : AMap α) (f : Nat → α → α) (x : Nat) {d : α} (hd : f x d = d) :
    amGet (amMap m f) x d = f x (amGet m x d) := by
  unfold amGet
  rw [amFind_amMap]
  cases amFind m x with
  | none => exact hd.symm
  | some a => rfl

/-- One reference edge leaves a pin that is not switching (R458). -/
theorem getPin_addCycles_one {s : State} {pin : Nat} (h : (getPin s pin).switching = none) :
    getPin (addCycles 1 s) pin = getPin s pin := by
  have edge : getPin (addCycles 1 s) pin = pinEdge (reg s (0x400101 + pin) 0 == 1) (getPin s pin) :=
    amGet_amMap s.pilot.pins (fun i p => pinEdge (reg s (0x400101 + i) 0 == 1) p) pin (d := {}) rfl
  rw [edge]
  unfold pinEdge
  rw [h]

theorem wakeFire_awake {s : State} (ns : List Nat) (h : s.pilot.sleep = 0) : wakeFire ns s = s := by
  unfold wakeFire
  simp [h]

/-- The stamp changes the offset alone, and holds the time of day less the nearest whole second (R457). -/
theorem ppsStamp_offset (s : State) :
    (s.time.tod.toNat % 1000000000 < 500000000 →
      (ppsStamp s).time.ppsOffset = BitVec.ofNat 32 (s.time.tod.toNat % 1000000000)) ∧
    (500000000 ≤ s.time.tod.toNat % 1000000000 →
      (ppsStamp s).time.ppsOffset = BitVec.ofInt 32 ((s.time.tod.toNat % 1000000000 : Nat) - 1000000000 : Int)) := by
  refine ⟨fun h => ?_, fun h => ?_⟩
  · simp only [ppsStamp, if_neg (Nat.not_le.mpr h)]
    exact BitVec.ofInt_natCast ..
  · simp only [ppsStamp, ge_iff_le, if_pos h]

theorem exec_ppsEdge {s : State} {pin : Nat} (hpin : pin < 8) (hfunc : (getPin s pin).func = 3) : exec (.ppsEdge pin) s =
    .next (ppsStamp (modPin pin (fun p => { p with sample := true, level := true }) (addCycles 1 s))) := by
  show execPpsEdge pin s = _
  unfold execPpsEdge
  rw [if_pos ⟨hpin, hfunc⟩]

theorem exec_sidebandInputChange {s : State} {pin : Nat} (hpin : pin < 8) (level : Bool) :
    exec (.sidebandInputChange pin level) s = .next (wakeFire (pinSample pin level s).1 (pinSample pin level s).2) := by
  show execSidebandInputChange pin level s = _
  unfold execSidebandInputChange
  rw [if_pos hpin]

/-- A sample of a pin that neither switches nor carries the pulse-per-second function (R457). -/
theorem pinSample_plain {s : State} {pin : Nat} (hswitch : (getPin s pin).switching = none) (hfunc : (getPin s pin).func ≠ 3) (level : Bool) :
    (pinSample pin level s).2 = modPin pin (fun p => { p with
      sample := level, level := if p.func = 1 ∨ p.func = 4 then p.level else level }) (addCycles 1 s) := by
  unfold pinSample
  dsimp only
  rw [getPin_addCycles_one hswitch, if_neg (fun h => hfunc h.1)]

/-- Object 0x4000: the functions of the sideband pins, which the operator writes (R461). -/
def pinFunctionObj : Obj := ⟨0x4000, 1, 8, 2, 1, .rw, [.operator], .single, 0, 4, none, true⟩

theorem operatorNumber_pinFunction {pin : Nat} (h : pin < 8) : OperatorNumber 0x4000 (pin + 1) pinFunctionObj where
  known := by decide +kernel
  found := (by decide +kernel : ∀ p < 8, findObj 0x4000 (p + 1) = some pinFunctionObj) pin h
  named := rfl
  acc := .inl rfl
  operator := rfl
  number := by decide
  notKey := by decide

theorem ruleWrite_pinFunction (own : Option Nat) (pin v : Nat) (s : State) : ruleWrite own 0x4000 (pin + 1) v s =
    if v = 3 ∧ ppsTaken s pin = true then (0x08000022, s) else (0, pinFunction pin v (setReg (0x400000 + pin + 1) v s)) := by
  have hput : putNum 0x4000 (pin + 1) v s = setReg (0x400000 + pin + 1) v s := by simp [putNum, keptBits, Nat.add_assoc]
  rw [← hput]
  rfl

theorem ppsTaken_accepted {s u : State} (h : Accepted s u) (pin : Nat) : ppsTaken u pin = ppsTaken s pin := by
  unfold ppsTaken
  simp only [setting_accepted h]

/-- Settles O12: an edge leaves a pin that is not switching, and a written function meets only the rule of R457. -/
theorem sidebandPinsSampleSwitchAndStamp : Obligations.SidebandPinsSampleSwitchAndStamp := by
  intro s pin hpin
  refine ⟨fun hfunc => ?_, fun level hsleep hswitch hfunc => ?_, fun level => ?_, ?_, fun via v hs hown hv => ?_⟩
  · have stamped := ppsStamp_offset (modPin pin (fun p => { p with sample := true, level := true }) (addCycles 1 s))
    refine completes_of_exec (exec_ppsEdge hpin hfunc) ⟨rfl, ?_, ?_, stamped⟩
    · exact congrArg Pin.sample ((getPin_modPin ..).trans (if_pos rfl))
    · exact congrArg Pin.level ((getPin_modPin ..).trans (if_pos rfl))
  · refine completes_of_exec (exec_sidebandInputChange hpin level) ?_
    rw [wakeFire_awake _ (by rw [pinSample_plain hswitch hfunc]; exact hsleep), pinSample_plain hswitch hfunc]
    refine ⟨rfl, ?_, rfl⟩
    rw [getPin_modPin, if_pos rfl, getPin_addCycles_one hswitch]
  · exact completes_of_exec (exec_sidebandInputChange hpin level) rfl
  · have hexec : exec (.syncPulseEnd pin) s = .next (syncEnd pin s) := by
      show execSyncPulseEnd pin s = _
      unfold execSyncPulseEnd
      rw [if_pos hpin]
    refine completes_of_exec hexec ⟨fun i hi => ?_, fun hpulse => ?_, fun hpulse => ?_⟩ <;> unfold syncEnd <;> rw [getPin_modPin]
    · rw [if_neg hi]
    · rw [if_pos rfl, if_pos hpulse]
    · rw [if_pos rfl, if_neg (by simp [hpulse])]
  · refine writes_number rfl hs hown (operatorNumber_pinFunction hpin) rfl (by omega) (entryMissing_of_not_part rfl ..)
      (by simp [inRange, pinFunctionObj, hv]) fun u hu => ?_
    unfold ruled
    rw [ruleWrite_pinFunction, ppsTaken_accepted hu]
    split <;> exact ⟨rfl, rfl⟩

end Sys2Proof.Machine
end

section
/-!
PROOF. What the end of a run or of a job leaves (R159, R171): of the power figures all but the ring's activity counts, and of a
partition all but its job, its runs and its counters' faults.
-/

namespace Sys2Proof.Machine

open Sys2Proof

/-- What a partition holds beside its job, its runs, its stillness and its pending operations. -/
def Part.lasting (a : Part) : Part :=
  { a with pstate := .ready, job := none, stamp := {}, ending := [], resident := [], queue := [], current := none, ended := [], commits := []
           cadence := none, still := [], hangTimer := none, counterFaults := 0, hostOps := [], frozen := false, heldCrest := [], opSeq := 0
           early := [] }

/-- Only jobs, runs, messages and counters have changed: of the mesh what is on its way. -/
structure Calm (s t : State) : Prop where
  only : Only [.power, .events, .parts, .tiles, .mesh, .crest, .fabric] s t
  power : ∃ m, t.power = { s.power with ringActivity := m }
  mesh : ∃ l, t.mesh = { s.mesh with flight := l }
  parts : ∀ p, (getPart t p).map Part.lasting = (getPart s p).map Part.lasting

namespace Calm

variable {s t u : State}

theorem refl (s : State) : Calm s s := ⟨(Keeps.refl _ s).only, ⟨_, rfl⟩, ⟨_, rfl⟩, fun _ => rfl⟩

theorem trans (a : Calm s t) (b : Calm t u) : Calm s u := by
  obtain ⟨ao, ⟨m, ap⟩, ⟨l, am⟩, aq⟩ := a
  obtain ⟨bo, ⟨n, bp⟩, ⟨k, bm⟩, bq⟩ := b
  exact ⟨ao.trans bo, ⟨n, by rw [bp, ap]⟩, ⟨k, by rw [bm, am]⟩, fun p => (bq p).trans (aq p)⟩

/-- A change that writes neither the power figures, the mesh nor the partitions. -/
theorem of_keeps {w : List Region} (h : Keeps w s t) (hw : w.all ([.events, .tiles, .crest, .fabric].contains ·) = true := by rfl) :
    Calm s t := by
  have only : Only [.events, .tiles, .crest, .fabric] s t := h.only.mono hw
  refine ⟨only.mono rfl, ⟨s.power.ringActivity, only .power rfl⟩, ⟨s.mesh.flight, only .mesh rfl⟩, fun p => ?_⟩
  unfold getPart
  rw [only .parts rfl]

theorem step {w : List Region} (a : Calm s t) (h : Keeps w t u)
    (hw : w.all ([.events, .tiles, .crest, .fabric].contains ·) = true := by rfl) : Calm s u :=
  a.trans (of_keeps h hw)

theorem ite {c : Prop} [Decidable c] (a : Calm s t) (b : Calm s u) : Calm s (if c then t else u) := by
  split <;> assumption

theorem foldl {α : Type} {g : State → α → State} (hg : ∀ s a, Calm s (g s a)) (l : List α) (s : State) : Calm s (l.foldl g s) := by
  induction l generalizing s with
  | nil => exact refl s
  | cons a l ih => exact (hg s a).trans (ih _)

theorem setFlight {l : List MeshMsg} (a : Calm s t) : Calm s { t with mesh := { t.mesh with flight := l } } :=
  a.trans ⟨fun r hr => by cases r <;> first | rfl | simp_all, ⟨_, rfl⟩, ⟨_, rfl⟩, fun _ => rfl⟩

theorem setCrest {c : CrestS} (a : Calm s t) : Calm s { t with crest := c } :=
  a.trans ⟨fun r hr => by cases r <;> first | rfl | simp_all, ⟨_, rfl⟩, ⟨_, rfl⟩, fun _ => rfl⟩

end Calm

theorem calm_ringCount (account n : Nat) (s : State) : Calm s (ringCount account n s) :=
  ⟨(ringCount_keeps account n s).only.mono rfl, ⟨_, rfl⟩, ⟨_, rfl⟩, fun _ => rfl⟩

theorem calm_modPart (p : Nat) (g : Part → Part) (s : State) (hg : ∀ a, (g a).lasting = a.lasting := by intro a; rfl) :
    Calm s (modPart p g s) := by
  refine ⟨(modPart_keeps p g s).only.mono rfl, ⟨s.power.ringActivity, by rw [modPart_power]⟩,
    ⟨s.mesh.flight, by rw [(modPart_keeps p g s).only .mesh rfl]⟩, fun x => ?_⟩
  rw [getPart_modPart]
  split
  · next hx =>
    subst hx
    cases getPart s x with
    | none => rfl
    | some a => exact congrArg some (hg a)
  · rfl

theorem calm_noteTraffic (domain : Nat) (s : State) : Calm s (noteTraffic domain s) := by
  unfold noteTraffic
  split
  · exact calm_modPart _ _ _
  · exact Calm.refl s

theorem calm_send (m : MeshMsg) (s : State) : Calm s (send m s) := by
  unfold send
  exact (Calm.ite (calm_ringCount ..) (Calm.refl s)).setFlight.trans (calm_noteTraffic ..)

theorem calm_sendSection (domain k code : Nat) (s : State) : Calm s (sendSection domain k code s) := calm_send ..

/-! ## Counters -/

theorem calm_notifyWatch (w : Watch) (status : Nat) (s : State) : Calm s (notifyWatch w status s) := by
  unfold notifyWatch
  dsimp only
  split
  · exact .of_keeps (sendPkt_keeps ..)
  · exact calm_send ..

theorem calm_fireWatches (key : CtrKey) (s : State) : Calm s (fireWatches key s) := by
  unfold fireWatches
  exact (Calm.refl s).setCrest.trans (Calm.foldl (fun s w => calm_notifyWatch w 0 s) _ _)

theorem calm_applyCtr (op n : Nat) (key : CtrKey) (s : State) : Calm s (applyCtr op n key s).2 := by
  have put (v : Counter) : Calm s (setCtr key v s) := .of_keeps (setCtr_keeps ..)
  have counted (ev : Option (Nat × Nat × Nat)) (v : Counter) : Calm s (match ev with
      | some (code, kind, detail) => raise (evCtr (setCtr key v s) code kind key detail) (setCtr key v s)
      | none => setCtr key v s) := by
    split
    · exact (put v).step (raise_keeps ..)
    · exact put v
  unfold applyCtr
  dsimp only
  refine Calm.trans ?_ (calm_fireWatches ..)
  split
  · exact (counted _ _).trans (calm_modPart _ _ _)
  · exact (counted _ _).trans (calm_modPart _ _ _)
  · exact counted _ _

theorem calm_ackCtr (op status : Nat) (h : Head) (m : CtrMsg) (key : CtrKey) (s : State) : Calm s (ackCtr op status h m key s) := by
  unfold ackCtr
  split
  · exact calm_send ..
  · exact Calm.refl s

theorem calm_performCtr (op n : Nat) (h : Head) (m : CtrMsg) (key : CtrKey) (s : State) : Calm s (performCtr op n h m key s) := by
  unfold performCtr
  dsimp only
  split
  · exact (Calm.of_keeps (raise_keeps ..)).trans (calm_ackCtr ..)
  · exact (calm_applyCtr ..).trans (calm_ackCtr ..)

theorem calm_performHostCtr (op n : Nat) (p : Pkt) (h : Hdr) (key : CtrKey) (s : State) : Calm s (performHostCtr op n p h key s) :=
  (calm_applyCtr op n key s).step (replySync_keeps ..)

theorem calm_endHostOp (p kind : Nat) (s : State) : Calm s (endHostOp p kind s) := calm_modPart _ _ _

theorem calm_applyHeld (i : Instr) (s : State) : Calm s (applyHeld i s) := by
  unfold applyHeld
  split
  case h_1 | h_2 | h_3 | h_4 | h_5 => exact calm_performCtr ..
  case h_6 | h_7 | h_8 | h_9 | h_10 =>
    split
    · exact calm_performHostCtr ..
    · exact .of_keeps (replySync_keeps ..)
  case h_11 =>
    dsimp only
    exact ((calm_applyCtr ..).trans (calm_endHostOp ..)).step (replySync_keeps ..)
  case h_12 => exact Calm.refl s

/-! ## Runs and jobs -/

theorem calm_unfreeze (p : Nat) (s : State) : Calm s (unfreeze p s) := by
  have held (l : List Instr) (s : State) : Calm s (l.foldl (fun s i => applyHeld i s) s) := Calm.foldl (fun s i => calm_applyHeld i s) l s
  unfold unfreeze
  split
  · exact Calm.refl s
  · dsimp only
    refine Calm.trans (Calm.trans (calm_modPart _ _ _) (Calm.foldl (fun s k => ?_) _ _)) (held _ _)
    exact (Calm.of_keeps (modTile_keeps ..)).trans (held _ _)

theorem calm_stopStamp (p : Nat) (mark : JobMark) (s : State) : Calm s (stopStamp p mark s) := by
  refine calm_modPart p _ s fun a => ?_
  split
  · split <;> rfl
  · rfl

/-- What the end of a job makes of its partition (R171). -/
def jobEnded (a : Part) : Part :=
  { a with job := none, resident := [], queue := [], ended := [], commits := [], cadence := none, early := [], opSeq := 0, hangTimer := none
           still := [], pstate := if a.pstate = .jobOpen then .ready else a.pstate }

/-- The end of an open job: calm changes, and then the job is gone. -/
theorem closeJob_of_job {p : Nat} {s : State} {a : Part} (ha : getPart s p = some a) (hj : a.job.isSome = true) :
    ∃ u, Calm s u ∧ closeJob p s = modPart p jobEnded u := by
  have answered (l : List HostOp) (d : Nat) (s : State) :
      Calm s (l.foldl (fun s o => replySyncTo o.node d o.tag 2 0 0 0 0 s) s) :=
    Calm.foldl (fun s o => .of_keeps (replySyncTo_keeps ..)) l s
  have refused (l : List Commit) (s : State) :
      Calm s (l.foldl (fun s (c : Commit) => sendPkt c.node c.domain 0x3F (runReply c.tag 2 0 0xFFFF 0xFFFF 0xFF 0xFF 0) s) s) :=
    Calm.foldl (fun s c => .of_keeps (sendPkt_keeps ..)) l s
  have told := ((calm_stopStamp p .closed s).trans (answered a.hostOps a.domain _)).trans (refused a.commits _)
  have hn : a.job.isNone = false := by cases h : a.job <;> simp_all
  unfold closeJob
  rw [ha]
  dsimp only
  rw [hn]
  exact ⟨_, (((told.trans (calm_modPart _ _ _)).trans (calm_unfreeze ..)).step (dropWatches_keeps ..)), rfl⟩

theorem closeJob_without_job {p : Nat} {s : State} (h : ∀ a, getPart s p = some a → a.job = none) : closeJob p s = s := by
  unfold closeJob
  split
  · rfl
  · next a ha => simp [h a ha]

theorem calm_closeJob (p : Nat) (s : State) : Calm s (closeJob p s) := by
  cases hp : getPart s p with
  | none => rw [closeJob_without_job (by simp [hp])]; exact Calm.refl s
  | some a =>
    cases hj : a.job with
    | none =>
      rw [closeJob_without_job (fun b hb => by rw [hp] at hb; injection hb with hb; rw [← hb, hj])]
      exact Calm.refl s
    | some j =>
      obtain ⟨u, hu, hc⟩ := closeJob_of_job hp (by rw [hj]; rfl)
      rw [hc]
      exact hu.trans (calm_modPart _ _ _)

theorem calm_runNotify (a : Part) (status code number : Nat) (s : State) : Calm s (runNotify a status code number s) :=
  .of_keeps (runNotify_keeps ..)

/-- An abort of the runs of a partition with a job: calm changes, the runs are taken out, and the job ends. -/
theorem abortRun_of_job {p code : Nat} {s : State} {a : Part} (ha : getPart s p = some a) (hj : a.job.isSome = true) :
    ∃ u, Calm s u ∧ abortRun p code s = closeJob p (modPart p (fun a => { a with current := none, queue := [] }) u) := by
  have hn : ¬a.job.isNone = true := by cases h : a.job <;> simp_all
  unfold abortRun
  rw [ha]
  dsimp only
  rw [if_neg hn]
  refine ⟨_, ?_, rfl⟩
  refine Calm.trans (Calm.trans (Calm.trans ?_ (Calm.foldl (fun s r => calm_runNotify ..) _ _)) (Calm.foldl (fun s k => ?_) _ _))
    (Calm.ite (Calm.refl _) (.of_keeps (spreadAbort_keeps ..)))
  · split
    · exact calm_runNotify ..
    · exact Calm.refl s
  · exact (Calm.of_keeps (modTile_keeps ..)).trans (calm_sendSection ..)

theorem abortRun_without_job {p code : Nat} {s : State} (h : ∀ a, getPart s p = some a → a.job = none) : abortRun p code s = s := by
  unfold abortRun
  split
  · rfl
  · next a ha => simp [h a ha]

theorem calm_abortRun (p code : Nat) (s : State) : Calm s (abortRun p code s) := by
  cases hp : getPart s p with
  | none => rw [abortRun_without_job (by simp [hp])]; exact Calm.refl s
  | some a =>
    cases hj : a.job with
    | none =>
      rw [abortRun_without_job (fun b hb => by rw [hp] at hb; injection hb with hb; rw [← hb, hj])]
      exact Calm.refl s
    | some j =>
      obtain ⟨u, hu, hc⟩ := abortRun_of_job (code := code) hp (by rw [hj]; rfl)
      rw [hc]
      exact (hu.trans (calm_modPart _ _ _)).trans (calm_closeJob ..)

end Sys2Proof.Machine
end

section
/-!
PROOF. The wafer reset (R433, R439): its causes, and what its step 3 leaves of the fields, the stores, the keys and the flows.
-/

namespace Sys2Proof.Machine

open Sys2Proof

/-! ## Every field off -/

/-- A field after the wafer's fields are powered down: without power, and its island off or, outside a reset, failed (R418, R439). -/
def FieldDown (reset : Bool) (s : State) (f : Nat) : Prop :=
  (getFld s f).powered = false ∧ (reset = true → (getFld s f).fault = false ∧ (getClk s f).st = .off)

/-- The step of allOff for one field. -/
def downField (reset : Bool) (s : State) (f : Nat) : State :=
  modClk f (fun c => { droops := c.droops, st := if !reset && c.st == .failed then .failed else .off
                       failures := if reset then 0 else c.failures })
    (modFld f (fun x => { x with powered := false, good := false, fault := !reset && x.fault, resetting := false, setPoint := 0
                                 supplyCode := 0, millivolts := 0, milliamps := 0, watts := 0, tSteps := 0, eSteps := 0, activity := []
                                 lastCredit := [], reports := 0 }) s)

theorem downField_keeps (reset : Bool) (s : State) (f : Nat) : Keeps [.clk, .fld] s (downField reset s f) :=
  ((modFld_keeps f _ s).mono rfl).step (modClk_keeps f _ _) rfl

theorem fieldDown_downField (reset : Bool) (s : State) (f : Nat) : FieldDown reset (downField reset s f) f := by
  unfold FieldDown downField
  simp only [getFld_modClk, getFld_modFld, getClk_modClk, if_true]
  refine ⟨trivial, ?_⟩
  rintro rfl
  exact ⟨rfl, rfl⟩

theorem fieldDown_kept {reset : Bool} {s : State} {f : Nat} (h : FieldDown reset s f) (g : Nat) : FieldDown reset (downField reset s g) f := by
  by_cases hg : f = g
  · subst hg
    exact fieldDown_downField ..
  · unfold FieldDown downField
    simp only [getFld_modClk, getFld_modFld, getClk_modClk, getClk_modFld, if_neg hg]
    exact h

theorem fieldDown_foldl {reset : Bool} {s : State} {f : Nat} (l : List Nat) (h : f ∈ l ∨ FieldDown reset s f) :
    FieldDown reset (l.foldl (downField reset) s) f := by
  induction l generalizing s with
  | nil => exact h.resolve_left (List.not_mem_nil)
  | cons g l ih =>
    refine ih ?_
    obtain hin | hdown := h
    · obtain rfl | hin := List.mem_cons.mp hin
      · exact .inr (fieldDown_downField ..)
      · exact .inl hin
    · exact .inr (fieldDown_kept hdown g)

theorem downFields_keeps (reset : Bool) (l : List Nat) (s : State) : Keeps [.clk, .fld] s (l.foldl (downField reset) s) :=
  Keeps.foldl (Keeps.refl _ s) fun _ f h => h.trans (downField_keeps reset _ f)

/-- What the power-down clears beside the fields (R418, R439). -/
def offRest (s : State) : State :=
  { s with mem := [], ecc := [], tiles := s.tiles.map (fun e => (e.1, keepTile { e.2 with routerOff := false }))
           crest := { s.crest with counters := [], watches := [], aggStatus := 0 }
           mesh := { s.mesh with flight := [], transit := [], casts := [], routingReady := false }
           power := { s.power with running := 0, busGood := false, busMv := 0, limiting := false, throttled := false } }

theorem allOff_eq (reset : Bool) (s : State) : allOff reset s = offRest ((List.range 56).foldl (downField reset) s) := by
  unfold allOff
  generalize List.range 56 = l
  rfl

theorem fieldDown_offRest {reset : Bool} {s : State} {f : Nat} (h : FieldDown reset s f) : FieldDown reset (offRest s) f := h

theorem fieldDown_allOff (reset : Bool) (s : State) {f : Nat} (h : f < 56) : FieldDown reset (allOff reset s) f := by
  have down : FieldDown reset ((List.range 56).foldl (downField reset) s) f := fieldDown_foldl _ (.inl (List.mem_range.mpr h))
  rw [allOff_eq]
  exact fieldDown_offRest down

/-- The bus converters and what they feed are off. -/
def busOff (w : PowerS) : PowerS := { w with running := 0, busGood := false, busMv := 0, limiting := false, throttled := false }

theorem allOff_power (reset : Bool) (s : State) : (allOff reset s).power = busOff s.power := by
  rw [allOff_eq, ← (downFields_keeps reset (List.range 56) s).only .power rfl]
  rfl

theorem allOff_mem (reset : Bool) (s : State) : (allOff reset s).mem = [] := by
  rw [allOff_eq]
  rfl

/-! ## Step 3 of the recovery -/

/-- The recovery's own marks at its step 3. -/
def heldAt (t : Nat) (v : PilotS) : PilotS := { v with step := 5, stepSince := t, waferHold := true, groups := 0, waking := false, sleep := 0 }

theorem waferStep3_eq (s : State) : ∃ u, Only [.events, .sec] (allOff true (ringCleared s)) u ∧ u.sec.slots = [] ∧
    waferStep3 s = { u with pilot := heldAt (now s) s.pilot } := by
  have slots := (slotsEmptied_keeps (allOff true (ringCleared s))).only
  have off := (allOff_keeps true (ringCleared s)).only
  have ring := (ringCleared_keeps s).only
  refine ⟨slotsEmptied (allOff true (ringCleared s)), slots, ?_, ?_⟩
  · unfold slotsEmptied
    rw [raise_sec]
  · unfold waferStep3 heldAt
    dsimp only
    rw [now_congr (congrArg TimeS.refCycles (slots .time rfl)), now_congr (congrArg TimeS.refCycles (off .time rfl)),
      now_congr (congrArg TimeS.refCycles (ring .time rfl)), slots .pilot rfl, off .pilot rfl, ring .pilot rfl]

theorem waferStep3_power (s : State) : (waferStep3 s).power = busOff s.power := by
  obtain ⟨u, only, -, heq⟩ := waferStep3_eq s
  have hu : u.power = busOff s.power := by
    rw [only .power rfl, allOff_power, (ringCleared_keeps s).only .power rfl]
  rw [heq]
  exact hu

theorem waferStep3_pilot (s : State) : (waferStep3 s).pilot = heldAt (now s) s.pilot := by
  obtain ⟨u, -, -, heq⟩ := waferStep3_eq s
  rw [heq]

theorem fieldDown_waferStep3 (s : State) {f : Nat} (h : f < 56) : FieldDown true (waferStep3 s) f := by
  obtain ⟨u, only, -, heq⟩ := waferStep3_eq s
  have down := fieldDown_allOff true (ringCleared s) h
  unfold FieldDown getFld getClk at down ⊢
  rw [heq]
  dsimp only
  rw [only .fld rfl, only .clk rfl]
  exact down

theorem ringCleared_flows (s : State) : (ringCleared s).fabric.tx = [] ∧ (ringCleared s).fabric.rx = [] := by
  unfold ringCleared
  generalize List.range 64 = l
  exact ⟨rfl, rfl⟩

/-- The stores are zero, the key slots empty and the flows new at step 3 of the recovery (R439). -/
theorem waferStep3_cleared (s : State) :
    (waferStep3 s).mem = [] ∧ (waferStep3 s).sec.slots = [] ∧ (waferStep3 s).fabric.tx = [] ∧ (waferStep3 s).fabric.rx = [] := by
  obtain ⟨u, only, hslots, heq⟩ := waferStep3_eq s
  have hfabric : u.fabric = (ringCleared s).fabric := (only .fabric rfl).trans ((allOff_keeps true (ringCleared s)).only .fabric rfl)
  obtain ⟨htx, hrx⟩ := ringCleared_flows s
  rw [heq]
  dsimp only
  rw [only .mem rfl, hfabric]
  exact ⟨allOff_mem .., hslots, htx, hrx⟩

/-! ## The beginning of a reset -/

/-- The runs and jobs of all partitions have ended, and the running self-test (R433, R439): what stays is what a wafer reset reads. -/
structure Wound (s u : State) : Prop where
  only : Only [.fld, .power, .events, .parts, .tiles, .mesh, .crest, .fabric, .test] s u
  power : ∃ m, u.power = { s.power with ringActivity := m }

theorem Wound.of_calm {s t u : State} (h : Wound s t) (c : Calm t u) : Wound s u := by
  obtain ⟨m, hm⟩ := h.power
  obtain ⟨n, hn⟩ := c.power
  exact ⟨h.only.trans (c.only.mono rfl), n, by rw [hn, hm]⟩

theorem wound_endTest (code : Nat) (s : State) : Wound s (endTest code s) := by
  have kept := (endTest_keeps code s).only
  exact ⟨kept.mono rfl, s.power.ringActivity, kept .power rfl⟩

/-- The runs, jobs and the self-test end, and event 0x3C2 is written (R433, R439). -/
def windUp (cause : Nat) (s : State) : State :=
  let s := endTest 0x68 s
  let s := s.parts.foldl (fun s e => abortRun e.1 0x44 s) s
  let s := s.parts.foldl (fun s e => closeJob e.1 s) s
  let s := s.parts.foldl (fun s e => modPart e.1 (fun a => { a with pstate := .resetting, current := none }) s) s
  let s := withdraw (fun e => e.cls == 0 || e.cls == 1 || e.cls == 2 || e.cls == 7) s
  raise (evCtl 0x3C2 1 (activeCtl s) cause) s

theorem wound_windUp (cause : Nat) (s : State) : Wound s (windUp cause s) := by
  have aborted (l : AMap Part) (s : State) : Calm s (l.foldl (fun s e => abortRun e.1 0x44 s) s) :=
    Calm.foldl (fun s e => calm_abortRun ..) l s
  have closed (l : AMap Part) (s : State) : Calm s (l.foldl (fun s e => closeJob e.1 s) s) :=
    Calm.foldl (fun s e => calm_closeJob ..) l s
  have marked (l : AMap Part) (s : State) :
      Calm s (l.foldl (fun s e => modPart e.1 (fun a => { a with pstate := .resetting, current := none }) s) s) :=
    Calm.foldl (fun s e => calm_modPart _ _ _) l s
  have ended := wound_endTest 0x68 s
  unfold windUp
  generalize endTest 0x68 s = t at ended
  exact ((((ended.of_calm (aborted t.parts t)).of_calm (closed _ _)).of_calm (marked _ _)).of_calm
    (.of_keeps (withdraw_keeps ..))).of_calm (.of_keeps (raise_keeps ..))

/-- The marks of a wafer reset that begins (R439, R440). -/
def resetMarked (cause n counters : Nat) (u : State) : State :=
  { u with
    fabric := { u.fabric with failedPkts := n }, ledger := { u.ledger with waferReset := true }
    pilot := { u.pilot with waferReset := some (now u), waferCause := cause, waferResets := u.pilot.waferResets + 1
                            recovering := u.pilot.recovering || u.pilot.step == 12, waferAbandoned := n, waferDiscarded := counters } }

theorem waferReset_cases {s : State} (h : MayReset s) (cause : Nat) :
    ∃ n counters, waferReset cause s = waferStep3 (resetMarked cause n counters (windUp cause s)) := by
  obtain ⟨hnone, hstep, hsleep⟩ := h
  have h1 : ¬ s.pilot.waferReset.isSome = true := by simp [hnone]
  have h2 : ¬ (s.pilot.step < 6 ∨ s.pilot.sleep = 2) := by omega
  unfold waferReset
  rw [if_neg h1, if_neg h2]
  extract_lets a counters b c d e u n v
  have hu : u = windUp cause s := rfl
  refine ⟨n, counters, ?_⟩
  rw [← hu]
  rfl

/-- The figures of the inlet that a wafer reset leaves (R312). -/
def SameInlet (s t : State) : Prop :=
  t.power.present = s.power.present ∧ t.power.wasOut = s.power.wasOut ∧ t.power.band = s.power.band ∧ t.power.volts = s.power.volts

/-- A wafer reset begins where it may, with its cause (R439). -/
theorem waferReset_begins {s : State} (h : MayReset s) (cause : Nat) :
    WaferResetBegun cause s (waferReset cause s) ∧ SameInlet s (waferReset cause s) ∧ (waferReset cause s).power.limiting = false := by
  obtain ⟨n, counters, heq⟩ := waferReset_cases h cause
  have wound := wound_windUp cause s
  generalize windUp cause s = u at heq wound
  have hpilot : u.pilot = s.pilot := wound.only .pilot rfl
  have hnow : now u = now s := now_congr (congrArg TimeS.refCycles (wound.only .time rfl))
  obtain ⟨m, hpower⟩ := wound.power
  rw [heq]
  generalize hv : resetMarked cause n counters u = v
  have vpilot : v.pilot.waferCause = cause ∧ v.pilot.waferResets = s.pilot.waferResets + 1 ∧ v.pilot.waferReset = some (now s) := by
    rw [← hv, ← hpilot, ← hnow]
    exact ⟨rfl, rfl, rfl⟩
  have vpower : v.power = { s.power with ringActivity := m } := by rw [← hv]; exact hpower
  have vledger : v.ledger.waferReset = true := by rw [← hv]; rfl
  obtain ⟨vcause, vcount, vsince⟩ := vpilot
  obtain ⟨hmem, hslots, htx, hrx⟩ := waferStep3_cleared v
  refine ⟨⟨?_, ?_, ?_, ?_, ?_, hmem, ?_, ?_, hslots, htx, hrx, ?_, fun f hf => ?_⟩, ⟨?_, ?_, ?_, ?_⟩, ?_⟩
  case refine_9 =>
    obtain ⟨hp, hrest⟩ := fieldDown_waferStep3 v hf
    obtain ⟨hfault, hst⟩ := hrest rfl
    exact ⟨hp, hst, hfault⟩
  case refine_8 => rw [(waferStep3_keeps v).only .ledger rfl, vledger]
  all_goals simp only [waferStep3_pilot, heldAt, busOff, waferStep3_power, vcause, vcount, vsince, vpower]

/-- A wafer reset that comes during another takes over at step 3 (R433). -/
theorem waferReset_again {s : State} (h : s.pilot.waferReset.isSome = true) (cause : Nat) :
    waferReset cause s = waferStep3 { s with pilot := { s.pilot with waferCause := cause } } := by
  unfold waferReset
  rw [if_pos h]

end Sys2Proof.Machine
end

section
/-!
PROOF. A write that a permit grants (R385, R398) has the outcome of the object's own rule, and each cause of R439 begins the wafer reset.
-/

namespace Sys2Proof.Machine

open Sys2Proof

theorem grant_of_found {r : Role} {index sub : Nat} {bs : List Byte} {s : State} {o : Obj} (hf : findObj index sub = some o)
    (hent : entryMissing s o sub = false) (hrange : o.ty < 8 → inRange s o sub (leNat bs) = true) :
    grant r index sub bs s =
      if (permitted r index sub bs s).1 then noteWrite o sub (permitted r index sub bs s).2 else (permitted r index sub bs s).2 := by
  have hok : ¬(entryMissing s o sub = true ∨ (o.ty < 8 ∧ (!inRange s o sub (leNat bs)) = true)) := by
    rintro (h | ⟨hty, h⟩)
    · simp [hent] at h
    · simp [hrange hty] at h
  unfold grant
  rw [hf]
  dsimp only
  rw [if_neg hok]

/-- Object 0x2A00:05: the wafer reset, which a permit of the operator begins (R446). -/
def waferResetObj : Obj := ⟨0x2A00, 5, 5, 1, 1, .rwp, [.operator], .single, 1, 1, none, true⟩

theorem findObj_waferReset : findObj 0x2A00 5 = some waferResetObj := by decide +kernel

theorem grant_waferReset (s : State) : grant .operator 0x2A00 5 [1] s = noteWrite waferResetObj 5 (waferReset 6 s) := by
  have hent : entryMissing s waferResetObj 5 = false := rfl
  have hrange : inRange s waferResetObj 5 (leNat [1]) = true := rfl
  rw [grant_of_found findObj_waferReset hent fun _ => hrange]
  rfl

/-! ## The causes -/

/-- What a wafer reset reads of the state in which it is caused. -/
def CausedFrom (s u : State) : Prop := u.pilot = s.pilot ∧ now u = now s

theorem CausedFrom.mayReset {s u : State} (h : CausedFrom s u) (m : MayReset s) : MayReset u := by
  unfold MayReset
  rw [h.1]
  exact m

theorem CausedFrom.begins {s u : State} (h : CausedFrom s u) (m : MayReset s) (cause : Nat) :
    WaferResetBegun cause s (waferReset cause u) ∧ SameInlet u (waferReset cause u) ∧ (waferReset cause u).power.limiting = false := by
  obtain ⟨begun, rest⟩ := waferReset_begins (h.mayReset m) cause
  obtain ⟨hpilot, hnow⟩ := h
  unfold WaferResetBegun at begun ⊢
  rw [hpilot, hnow] at begun
  exact ⟨begun, rest⟩

theorem causedFrom_raise {s u : State} (e : EvReq) (h : CausedFrom s u) : CausedFrom s (raise e u) := by
  unfold CausedFrom
  rw [raise_pilot, now_raise]
  exact h

theorem WaferResetBegun.kept {cause : Nat} {s t u : State} (h : WaferResetBegun cause s t) (only : Only [.settings] t u) :
    WaferResetBegun cause s u := by
  unfold WaferResetBegun getFld getClk at h ⊢
  rw [only .pilot rfl, only .mem rfl, only .power rfl, only .sec rfl, only .fabric rfl, only .ledger rfl, only .fld rfl, only .clk rfl]
  exact h

theorem exec_waferResetRequest (s : State) :
    exec .waferResetRequest s = .next (noteWrite waferResetObj 5 (waferReset 6 s)) := by
  show execWaferResetRequest s = _
  unfold execWaferResetRequest
  rw [grant_waferReset]

theorem hvOutOfRange_begins {s : State} (m : MayReset s) {v : Nat} (hv : ¬(650 ≤ v ∧ v ≤ 950)) :
    Completes (.hvOutOfRange v) s (fun t =>
      WaferResetBegun 1 s t ∧ t.power.present = false ∧ t.power.wasOut = true ∧ t.power.band = .outOfRange ∧ t.power.volts = v) := by
  have hc : exec (.hvOutOfRange v) s = .next (waferReset 1 (raise (evCtl 0x001 1 (activeCtl s) 0)
      { s with power := { s.power with volts := v, band := .outOfRange, present := false, wasOut := true, running := 0
                                       busGood := false } })) := by
    show execHvOutOfRange v s = _
    unfold execHvOutOfRange
    rw [if_neg hv]
    rfl
  obtain ⟨begun, ⟨hpresent, hwas, hband, hvolts⟩, -⟩ := (causedFrom_raise (s := s) (u := { s with power := { s.power with
    volts := v, band := .outOfRange, present := false, wasOut := true, running := 0, busGood := false } })
    (evCtl 0x001 1 (activeCtl s) 0) ⟨rfl, rfl⟩).begins m 1
  rw [raise_power] at hpresent hwas hband hvolts
  exact completes_of_exec hc ⟨begun, hpresent, hwas, hband, hvolts⟩

theorem converterFault_begins {s : State} (m : MayReset s) {i : Nat} (hi : i < 8) (hrun : s.power.running.getLsbD i = true)
    (hfew : runningK { s with power := { s.power with running := s.power.running &&& ~~~(BitVec.ofNat 8 (2 ^ i)) } } < 4) :
    Completes (.converterFault i) s (WaferResetBegun 2 s) := by
  generalize hu : raise (evCtl 0x003 1 (activeCtl s) 0) { s with power := { s.power with
    running := s.power.running &&& ~~~(BitVec.ofNat 8 (2 ^ i)), faults := s.power.faults ||| BitVec.ofNat 8 (2 ^ i) } } = u
  have hc : exec (.converterFault i) s = .next (checkConverters u) := by
    show execConverterFault i s = _
    unfold execConverterFault
    rw [if_pos ⟨hi, hrun⟩, ← hu]
    rfl
  have few : runningK u < 4 := by rw [← hu, runningK_raise]; exact hfew
  have from_s : CausedFrom s u := by
    rw [← hu]
    exact causedFrom_raise _ ⟨rfl, rfl⟩
  unfold checkConverters at hc
  rw [if_pos few] at hc
  exact completes_of_exec hc (from_s.begins m 2).1

theorem currentLimitTimeout_begins {s : State} (m : MayReset s) (h : s.power.limiting = true) :
    Completes .currentLimitTimeout s (fun t => WaferResetBegun 3 s t ∧ t.power.limiting = false) := by
  have hc : exec .currentLimitTimeout s =
      .next (waferReset 3 { s with power := { s.power with limiting := false, running := 0, busGood := false } }) := by
    show execCurrentLimitTimeout s = _
    unfold execCurrentLimitTimeout
    rw [if_pos h]
  obtain ⟨begun, -, hlimit⟩ := CausedFrom.begins (s := s)
    (u := { s with power := { s.power with limiting := false, running := 0, busGood := false } }) ⟨rfl, rfl⟩ m 3
  exact completes_of_exec hc ⟨begun, hlimit⟩

theorem busUndervoltage_begins {s : State} (m : MayReset s) {mv : Nat} (hmv : mv < 44000) (hrun : s.power.running ≠ 0) :
    Completes (.busUndervoltage mv) s (WaferResetBegun 4 s) := by
  have hc : exec (.busUndervoltage mv) s = .next (waferReset 4 (raise (evCtl 0x00C 1 (activeCtl s) 0)
      { s with power := { s.power with busMv := mv, busGood := false } })) := by
    show execBusUndervoltage mv s = _
    unfold execBusUndervoltage
    dsimp only
    rw [if_pos ⟨hmv, hrun⟩]
    rfl
  have from_s : CausedFrom s { s with power := { s.power with busMv := mv, busGood := false } } := ⟨rfl, rfl⟩
  exact completes_of_exec hc ((causedFrom_raise _ from_s).begins m 4).1

theorem coolingFault_begins {s : State} (m : MayReset s) (h : 450 < s.power.inlet ∨ s.power.flow < 200) :
    Completes .coolingFault s (WaferResetBegun 5 s) := by
  have hc : exec .coolingFault s = .next (waferReset 5 (raise (evCtl 0x047 1 (activeCtl s) 0) s)) := by
    show execCoolingFault s = _
    unfold execCoolingFault
    rw [if_pos h]
  exact completes_of_exec hc ((causedFrom_raise _ ⟨rfl, rfl⟩).begins m 5).1

theorem waferResetRequest_begins {s : State} (m : MayReset s) : Completes .waferResetRequest s (WaferResetBegun 6 s) :=
  completes_of_exec (exec_waferResetRequest s) (WaferResetBegun.kept (waferReset_begins m 6).1 (noteWrite_keeps ..).only)

theorem waferResetRequest_again {s : State} (h : s.pilot.waferReset.isSome = true) :
    Completes .waferResetRequest s (fun t =>
      t.pilot.waferCause = 6 ∧ t.pilot.waferResets = s.pilot.waferResets ∧ t.pilot.waferReset = s.pilot.waferReset ∧
      t.pilot.step = 5 ∧ t.pilot.waferHold = true ∧ t.mem = []) := by
  refine completes_of_exec (exec_waferResetRequest s) ?_
  have saved := (noteWrite_keeps waferResetObj 5 (waferReset 6 s)).only
  rw [saved .pilot rfl, saved .mem rfl, waferReset_again h, waferStep3_pilot, (waferStep3_cleared _).1]
  exact ⟨rfl, rfl, rfl, rfl, rfl, rfl⟩

/-- Settles O13, one cause at a time: every cause reaches the wafer reset from a state with the pilot's marks of the one before. -/
theorem everyCauseBeginsAWaferReset : Obligations.EveryCauseBeginsAWaferReset := by
  unfold Obligations.EveryCauseBeginsAWaferReset
  intro s
  refine ⟨fun m => ⟨?_, ?_, ?_, ?_, ?_, ?_⟩, waferResetRequest_again⟩
  · exact fun v hv => hvOutOfRange_begins m hv
  · exact fun i hi hrun hfew => converterFault_begins m hi hrun hfew
  · exact currentLimitTimeout_begins m
  · exact fun mv hmv hrun => busUndervoltage_begins m hmv hrun
  · exact coolingFault_begins m
  · exact waferResetRequest_begins m

end Sys2Proof.Machine
end

section
/-!
PROOF. The HV inlet, the bus converters and the current limit (R312 to R316, R328, R428).
-/

namespace Sys2Proof.Machine

open Sys2Proof

/-! ## The HV inlet -/

/-- The band of a voltage (R312). -/
def bandOf (v : Nat) : HvBand := if 680 ≤ v ∧ v ≤ 920 then .operating else if 650 ≤ v ∧ v ≤ 950 then .warning else .outOfRange

/-- Writes an event where a condition holds. -/
def raiseIf (p : Prop) [Decidable p] (e : EvReq) (s : State) : State := if p then raise e s else s

theorem raiseIf_keeps (p : Prop) [Decidable p] (e : EvReq) (s : State) : Keeps [.events] s (raiseIf p e s) := by
  unfold raiseIf
  split
  · exact raise_keeps ..
  · exact .refl ..

theorem raiseIf_events (p : Prop) [Decidable p] (e : EvReq) {s t : State} (h : s.events = t.events) :
    if p then Raised e t (raiseIf p e s) else (raiseIf p e s).events = t.events := by
  unfold raiseIf
  split
  · exact raise_events e h
  · exact h

theorem exec_hvBandChange {s : State} (v : Nat) (h12 : s.pilot.step = 12) (hawake : s.pilot.sleep = 0) :
    exec (.hvBandChange v) s = .next (raiseIf (bandOf v = .warning ∧ s.power.band ≠ .warning) (evCtl 0x000 0 (activeCtl s) 0)
      { s with power := { s.power with volts := v, band := bandOf v } }) := by
  show execHvBandChange v s = _
  unfold execHvBandChange
  generalize ht : raiseIf (bandOf v = .warning ∧ s.power.band ≠ .warning) (evCtl 0x000 0 (activeCtl s) 0)
    { s with power := { s.power with volts := v, band := bandOf v } } = t
  have hpilot : t.pilot = s.pilot := by
    rw [← ht, (raiseIf_keeps ..).only .pilot rfl]
  have done : advanceUp (if bandOf v = .operating ∧ s.power.band ≠ .operating then wakeFire [88] t else t) = t := by
    rw [wakeFire_awake _ (by rw [hpilot]; exact hawake), ite_self, advanceUp_up (by rw [hpilot]; exact h12)]
  rw [← done, ← ht]
  rfl

theorem hvBandChange_reports {s : State} (v : Nat) (h12 : s.pilot.step = 12) (hawake : s.pilot.sleep = 0) :
    Completes (.hvBandChange v) s (fun t =>
      t.power = { s.power with volts := v, band := bandOf v } ∧
      if bandOf v = .warning ∧ s.power.band ≠ .warning then Raised (evCtl 0x000 0 (activeCtl s) 0) s t else t.events = s.events) := by
  refine completes_of_exec (exec_hvBandChange v h12 hawake) ⟨?_, raiseIf_events _ _ rfl⟩
  rw [(raiseIf_keeps ..).only .power rfl]

theorem exec_hvPresent {s : State} (hband : s.power.band = .operating) (hnot : s.power.present = false) (h12 : s.pilot.step = 12) :
    exec .hvPresent s = .next (raiseIf (s.power.wasOut = true) (evCtl 0x002 0 (activeCtl s) 0)
      { s with power := { s.power with present := true, wasOut := false } }) := by
  have hcan : s.power.band = .operating ∧ (!s.power.present) = true := ⟨hband, by simp [hnot]⟩
  show execHvPresent s = _
  unfold execHvPresent
  rw [if_pos hcan]
  refine congrArg _ (advanceUp_up ?_)
  exact (congrArg PilotS.step ((raiseIf_keeps (s.power.wasOut = true) ..).only .pilot rfl)).trans h12

theorem hvPresent_reports {s : State} (hband : s.power.band = .operating) (hnot : s.power.present = false) (h12 : s.pilot.step = 12) :
    Completes .hvPresent s (fun t =>
      t.power = { s.power with present := true, wasOut := false } ∧
      if s.power.wasOut then Raised (evCtl 0x002 0 (activeCtl s) 0) s t else t.events = s.events) := by
  refine completes_of_exec (exec_hvPresent hband hnot h12) ⟨?_, raiseIf_events _ _ rfl⟩
  rw [(raiseIf_keeps ..).only .power rfl]

/-! ## The bus converters -/

theorem converterFault_reports {s : State} {i : Nat} (hi : i < 8) (hrun : s.power.running.getLsbD i = true)
    (hmany : 4 ≤ runningK { s with power := { s.power with running := s.power.running &&& ~~~(BitVec.ofNat 8 (2 ^ i)) } }) :
    Completes (.converterFault i) s (fun t =>
      t.power = { s.power with running := s.power.running &&& ~~~(BitVec.ofNat 8 (2 ^ i))
                               faults := s.power.faults ||| BitVec.ofNat 8 (2 ^ i) } ∧
      Raised (evCtl 0x003 1 (activeCtl s) 0) s t) := by
  generalize hu : ({ s with power := { s.power with running := s.power.running &&& ~~~(BitVec.ofNat 8 (2 ^ i))
                                                    faults := s.power.faults ||| BitVec.ofNat 8 (2 ^ i) } } : State) = u
  have many : ¬ runningK (raise (evCtl 0x003 1 (activeCtl s) 0) u) < 4 := by
    rw [runningK_raise, ← hu]
    exact Nat.not_lt.mpr hmany
  have hc : exec (.converterFault i) s = .next (checkConverters (raise (evCtl 0x003 1 (activeCtl s) 0) u)) := by
    show execConverterFault i s = _
    unfold execConverterFault
    rw [if_pos ⟨hi, hrun⟩, ← hu]
    rfl
  unfold checkConverters at hc
  rw [if_neg many] at hc
  refine completes_of_exec hc ⟨?_, raise_events _ ?_⟩
  · rw [raise_power, ← hu]
  · rw [← hu]

/-- The bus in regulation at 54 V (R428). -/
def busInRegulation (s : State) : State := { s with power := { s.power with busGood := true, busMv := 54000 } }

theorem exec_busRegulationReached {s : State} (h : s.power.running ≠ 0) :
    exec .busRegulationReached s = .next (advanceUp (busInRegulation s)) := by
  show execBusRegulationReached s = _
  unfold execBusRegulationReached
  rw [if_neg h]
  rfl

theorem startConverters_running {s : State} (h : s.power.running ≠ 0) : startConverters s = s := by
  unfold startConverters
  rw [if_neg h]

theorem running_of_runningK {s : State} (h : 4 ≤ runningK s) : s.power.running ≠ 0 := by
  intro h0
  have : runningK s = 0 := by
    unfold runningK
    rw [h0]
    decide
  omega

theorem upStep_six {s : State} (h6 : s.pilot.step = 6) (hp : s.power.present = true) (hk : 4 ≤ runningK s) (hg : s.power.busGood = true) :
    upStep s = some (enterStep 7 s) := by
  have still := startConverters_running (running_of_runningK hk)
  unfold upStep busUp
  simp [h6, hp, still, hk, hg]

theorem upStep_seven {s : State} (h7 : s.pilot.step = 7) (hg : s.pilot.groups ≠ 7) : upStep s = none := by
  unfold upStep
  simp [h7, hg]

theorem advanceUp_six {s : State} (h6 : s.pilot.step = 6) (hp : s.power.present = true) (hk : 4 ≤ runningK s)
    (hg : s.power.busGood = true) (hgroups : s.pilot.groups ≠ 7) : advanceUp s = enterStep 7 s :=
  advanceUp_once (upStep_six h6 hp hk hg) (upStep_seven rfl hgroups) (by decide +kernel : (7 : Nat) ≠ 6)

theorem exec_currentLimit {s : State} (hnot : s.power.limiting = false) (hrun : s.power.running ≠ 0) :
    exec .currentLimit s = .next (raise (evCtl 0x004 1 (activeCtl s) 0) { s with power := { s.power with limiting := true } }) := by
  have hcan : ¬(s.power.limiting = true ∨ s.power.running = 0) := by
    rintro (h | h)
    · simp [hnot] at h
    · exact hrun h
  show execCurrentLimit s = _
  unfold execCurrentLimit
  rw [if_neg hcan]

/-- Settles O14: each command's own equation, and a wafer that is up leaves the power-up sequence where it stands. -/
theorem theInletAndTheConvertersReport : Obligations.TheInletAndTheConvertersReport := by
  unfold Obligations.TheInletAndTheConvertersReport
  intro s
  refine ⟨?_, ?_, ?_, ?_, ?_, ?_, ?_⟩
  · exact fun v h12 hawake => hvBandChange_reports v h12 hawake
  · exact fun hband hnot h12 => hvPresent_reports hband hnot h12
  · exact fun i hi hrun hmany => converterFault_reports hi hrun hmany
  · exact fun hrun => completes_of_exec (exec_busRegulationReached hrun) rfl
  · intro hrun h12
    have idle : advanceUp (busInRegulation s) = busInRegulation s := advanceUp_up h12
    refine completes_of_exec (exec_busRegulationReached hrun) ?_
    rw [idle]
    rfl
  · intro h6 hp hk hgroups
    have up : advanceUp (busInRegulation s) = enterStep 7 (busInRegulation s) := advanceUp_six h6 hp hk rfl hgroups
    refine completes_of_exec (exec_busRegulationReached (running_of_runningK hk)) ?_
    rw [up]
    exact ⟨rfl, rfl⟩
  · intro hnot hrun
    refine completes_of_exec (exec_currentLimit hnot hrun) ⟨?_, raise_events _ rfl⟩
    rw [raise_power]

end Sys2Proof.Machine
end

section
/-!
PROOF. The beginning of a partition reset (R433), and the loss of a field's supply (R319).
-/

namespace Sys2Proof.Machine

open Sys2Proof

/-! ## Supplies -/

theorem getFld_congr {s t : State} (h : t.fld = s.fld) (f : Nat) : getFld t f = getFld s f := by
  unfold getFld
  rw [h]

theorem getClk_congr {s t : State} (h : t.clk = s.clk) (f : Nat) : getClk t f = getClk s f := by
  unfold getClk
  rw [h]

theorem getPart_congr {s t : State} (h : t.parts = s.parts) (p : Nat) : getPart t p = getPart s p := by
  unfold getPart
  rw [h]

/-- A field's record but its owner. -/
def supplyOf (x : FieldPwr) : FieldPwr := { x with owner := .idle }

/-- The fields of two states differ in their owners only. -/
structure SameSupplies (s t : State) : Prop where
  same : ∀ f, supplyOf (getFld t f) = supplyOf (getFld s f)

namespace SameSupplies

variable {s t u : State}

theorem refl (s : State) : SameSupplies s s := ⟨fun _ => rfl⟩

theorem trans (a : SameSupplies s t) (b : SameSupplies t u) : SameSupplies s u := ⟨fun f => (b.same f).trans (a.same f)⟩

theorem of_keeps {w : List Region} (h : Keeps w s t) (hw : (!w.contains .fld) = true := by rfl) : SameSupplies s t := by
  exact ⟨fun f => by rw [getFld_congr (h.only .fld (by simpa using hw))]⟩

theorem of_modFld (f : Nat) {g : FieldPwr → FieldPwr} (s : State) (hg : ∀ x, supplyOf (g x) = supplyOf x) :
    SameSupplies s (modFld f g s) := by
  refine ⟨fun x => ?_⟩
  rw [getFld_modFld]
  split
  · next h => rw [h]; exact hg _
  · rfl

theorem foldl {α : Type} {g : State → α → State} (hg : ∀ s a, SameSupplies s (g s a)) (l : List α) (s : State) :
    SameSupplies s (l.foldl g s) := by
  induction l generalizing s with
  | nil => exact refl s
  | cons a l ih => exact (hg s a).trans (ih _)

theorem powered (h : SameSupplies s t) (f : Nat) : (getFld t f).powered = (getFld s f).powered := by
  have same := congrArg FieldPwr.powered (h.same f)
  exact same

theorem fault (h : SameSupplies s t) (f : Nat) : (getFld t f).fault = (getFld s f).fault := by
  have same := congrArg FieldPwr.fault (h.same f)
  exact same

theorem good (h : SameSupplies s t) (f : Nat) : (getFld t f).good = (getFld s f).good := by
  have same := congrArg FieldPwr.good (h.same f)
  exact same

theorem resetting (h : SameSupplies s t) (f : Nat) : (getFld t f).resetting = (getFld s f).resetting := by
  have same := congrArg FieldPwr.resetting (h.same f)
  exact same

end SameSupplies

theorem sameSupplies_endTest (code : Nat) (s : State) : SameSupplies s (endTest code s) := by
  unfold endTest
  split
  · exact .refl s
  · have freed := SameSupplies.foldl (g := fun s f => modFld f (fun x => { x with owner := .idle }) s)
      (fun s f => .of_modFld f s fun _ => rfl) s.test.held s
    generalize s.test.held.foldl (fun s f => modFld f (fun x => { x with owner := .idle }) s) s = u at freed
    have tested : SameSupplies u { u with test := { u.test with st := 5, code := code, held := [] } } := ⟨fun _ => rfl⟩
    exact (freed.trans tested).trans (.of_keeps (raise_keeps ..))

theorem sameSupplies_resetTest (fs : List Nat) (s : State) : SameSupplies s (resetTest fs s) := by
  unfold resetTest
  split
  · exact sameSupplies_endTest ..
  · exact .refl s

theorem resetTest_of_none {fs : List Nat} {s : State} (h : s.test.st ≠ 1) : resetTest fs s = s := by
  unfold resetTest testCovers
  simp [h]

/-! ## The beginning of a partition reset -/

/-- What a reset ends before it marks its partition (R433): self-test, job, tiles, watches, sampling and waiting requests. -/
def resetCleared (p : Nat) (a : Part) (s : State) : State :=
  let s := resetTest (partFields a) s
  let s := abortRun p 0x44 s
  let sites := (s.tiles.filter (fun e => siteHolder s e.1 == some p)).map Prod.fst
  let s := sites.foldl (fun s k => modTile k (fun t =>
    { t with descs := [], waiting := [], opsOut := 0, heldOps := [], arrivedAt := false }) (tileReset k s)) s
  let s := dropWatches p (setReg (0x2D2000 + p + 1) 0 s)
  withdraw (ofPart a) s

theorem sameSupplies_resetCleared (p : Nat) (a : Part) (s : State) : SameSupplies s (resetCleared p a s) := by
  have tiles (l : List Nat) (s : State) : SameSupplies s (l.foldl (fun s k => modTile k (fun t =>
      { t with descs := [], waiting := [], opsOut := 0, heldOps := [], arrivedAt := false }) (tileReset k s)) s) :=
    .foldl (fun s k => (SameSupplies.of_keeps (tileReset_keeps ..)).trans (.of_keeps (modTile_keeps ..))) l s
  unfold resetCleared
  extract_lets u v sites x y
  exact (((((sameSupplies_resetTest ..).trans (.of_keeps (abortRun_keeps ..))).trans (tiles ..)).trans
    (.of_keeps (setReg_keeps ..))).trans (.of_keeps (dropWatches_keeps ..))).trans
    (.of_keeps (withdraw_keeps ..))

/-- The job, the runs and the waiting operations of every partition aside, what a reset ends leaves the partitions as they were. -/
theorem resetCleared_parts (p : Nat) (a : Part) (s : State) (x : Nat) :
    (getPart (resetCleared p a s) x).map Part.lasting = (getPart s x).map Part.lasting := by
  have tiles (l : List Nat) (s : State) : Keeps [.tiles] s (l.foldl (fun s k => modTile k (fun t =>
      { t with descs := [], waiting := [], opsOut := 0, heldOps := [], arrivedAt := false }) (tileReset k s)) s) :=
    Keeps.foldl (Keeps.refl _ _) fun s k h => (h.step (tileReset_keeps ..) rfl).step (modTile_keeps ..) rfl
  unfold resetCleared
  extract_lets u v sites y z
  have late : Only [.tiles, .regs, .crest, .events] v (withdraw (ofPart a) z) :=
    ((((tiles sites v).mono rfl).step (setReg_keeps ..) rfl).step (dropWatches_keeps ..) rfl |>.step (withdraw_keeps ..) rfl).only
  have early : u.parts = s.parts := (resetTest_keeps ..).only .parts rfl
  calc (getPart (withdraw (ofPart a) z) x).map Part.lasting
      = (getPart v x).map Part.lasting := by rw [getPart_congr (late .parts rfl)]
    _ = (getPart u x).map Part.lasting := (calm_abortRun p 0x44 u).parts x
    _ = (getPart s x).map Part.lasting := by rw [getPart_congr early]

/-- A partition in a reset that has just begun (R433). -/
def partInReset (since discarded cause : Nat) (fields : List Nat) (deleting : Bool) (a : Part) : Part :=
  { a with
    pstate := .resetting, resets := a.resets + 1, resetCause := cause, frozen := false, heldCrest := [], hostOps := [], job := none
    current := none, queue := [], resident := [], commits := [], cadence := none, sampling := none, early := []
    reset := some { since := since, deleting := deleting, fields := fields, discarded := discarded } }

/-- The state in which a reset that has just begun waits for its partition (R433, R437). -/
def resetMade (p cause : Nat) (fields : List Nat) (deleting : Bool) (a : Part) (s : State) : State :=
  modPart p (partInReset (now s) (usedCounters s p) cause fields deleting) (resetCleared p a s)

theorem beginReset_of_none {p : Nat} {s : State} {a : Part} (ha : getPart s p = some a) (hr : a.reset = none) (cause : Nat)
    (fields : List Nat) (deleting : Bool) :
    beginReset p cause fields deleting s =
      advanceReset p (raise (evPart (resetMade p cause fields deleting a s) 0x3C4 1 p cause) (resetMade p cause fields deleting a s)) := by
  unfold beginReset
  rw [ha]
  dsimp only
  rw [hr]
  rfl

/-- The reset partition: its record in the reset, over what of it lasts. -/
theorem getPart_resetMade {p : Nat} {s : State} {a : Part} (ha : getPart s p = some a) (cause : Nat) (fields : List Nat) (deleting : Bool) :
    ∃ b, b.lasting = a.lasting ∧ getPart (resetMade p cause fields deleting a s) p =
      some (partInReset (now s) (usedCounters s p) cause fields deleting b) := by
  have kept := resetCleared_parts p a s p
  rw [ha] at kept
  unfold resetMade
  rw [getPart_modPart, if_pos rfl]
  cases hb : getPart (resetCleared p a s) p with
  | none => rw [hb] at kept; simp at kept
  | some b =>
    rw [hb] at kept
    exact ⟨b, Option.some.inj kept, rfl⟩

theorem sameSupplies_resetMade (p cause : Nat) (fields : List Nat) (deleting : Bool) (a : Part) (s : State) :
    SameSupplies s (resetMade p cause fields deleting a s) :=
  (sameSupplies_resetCleared p a s).trans (.of_keeps (modPart_keeps ..))

/-- A reset that does not end in a delete goes on to its scrub, or waits. -/
theorem advanceReset_cases {p : Nat} {s : State} {a : Part} {r : PReset} (ha : getPart s p = some a) (hr : a.reset = some r)
    (hd : r.deleting = false) :
    advanceReset p s = s ∨ advanceReset p s = startScrub p s := by
  unfold advanceReset
  rw [ha]
  dsimp only
  rw [hr]
  dsimp only
  rw [hd]
  split
  · exact .inr rfl
  · exact .inl rfl

/-- A partition that is in a reset with a cause, without job and runs (R433). -/
structure InReset (resets cause : Nat) (r : PReset) (b : Part) : Prop where
  resets : b.resets = resets
  cause : b.resetCause = cause
  job : b.job = none
  current : b.current = none
  queue : b.queue = []
  state : b.pstate = .resetting ∨ b.pstate = .scrubbing
  reset : b.reset = some r

theorem advanceReset_inReset {p n cause : Nat} {r : PReset} {s : State} {a : Part} (ha : getPart s p = some a)
    (hin : InReset n cause r a) (hd : r.deleting = false) :
    (∃ b, getPart (advanceReset p s) p = some b ∧ InReset n cause r b) ∧ SameSupplies s (advanceReset p s) := by
  obtain h | h := advanceReset_cases ha hin.reset hd
  · rw [h]
    exact ⟨⟨a, ha, hin⟩, .refl s⟩
  · rw [h]
    refine ⟨⟨{ a with pstate := .scrubbing }, ?_, ?_⟩, .of_keeps (startScrub_keeps ..)⟩
    · unfold startScrub
      rw [getPart_modPart, if_pos rfl, ha]
      rfl
    · exact { hin with state := .inr rfl }

theorem inReset_partInReset {a b : Part} (h : b.lasting = a.lasting) (since discarded cause : Nat) (fields : List Nat) (deleting : Bool) :
    InReset (a.resets + 1) cause { since := since, deleting := deleting, fields := fields, discarded := discarded }
      (partInReset since discarded cause fields deleting b) :=
  { resets := congrArg (· + 1) (congrArg Part.resets h : b.lasting.resets = a.lasting.resets)
    cause := rfl, job := rfl, current := rfl, queue := rfl, state := .inl rfl, reset := rfl }

/-- A partition reset that begins and does not end in a delete: the partition is in the reset, and no supply has changed. -/
theorem beginReset_begins {p : Nat} {s : State} {a : Part} (ha : getPart s p = some a) (hr : a.reset = none) (cause : Nat)
    (fields : List Nat) :
    (∃ b, getPart (beginReset p cause fields false s) p = some b ∧
      InReset (a.resets + 1) cause { since := now s, fields := fields, discarded := usedCounters s p } b) ∧
    SameSupplies s (beginReset p cause fields false s) := by
  obtain ⟨b, hlast, hb⟩ := getPart_resetMade ha cause fields false
  rw [beginReset_of_none ha hr]
  have made := sameSupplies_resetMade p cause fields false a s
  generalize resetMade p cause fields false a s = u at hb made
  obtain ⟨found, after⟩ := advanceReset_inReset (s := raise (evPart u 0x3C4 1 p cause) u) (by rw [getPart_raise]; exact hb)
    (inReset_partInReset hlast ..) rfl
  exact ⟨found, (made.trans (.of_keeps (raise_keeps ..))).trans after⟩

/-! ## The loss of a supply -/

/-- A field without supply: faulty and off (R319). -/
def supplyLost (f : Nat) (s : State) : State := modFld f (fun x => { x with fault := true, resetting := false }) (fieldOff f s)

theorem supplyLost_keeps (f : Nat) (s : State) : Keeps [.clk, .fld, .tiles, .mem, .ecc, .crest] s (supplyLost f s) :=
  (fieldOff_keeps f s).step (modFld_keeps ..) rfl

/-- The clock island of a field that is off (R304). -/
def islandOff (c : FieldClk) : FieldClk :=
  { c with st := .off, target := 0, trim := 0, measured := 0, inBand := 0, windows := 0, unlocked := 0, everLocked := false }

/-- The supply of a field that is off (R316). -/
def supplyOff (x : FieldPwr) : FieldPwr :=
  { x with powered := false, good := false, setPoint := 0, supplyCode := 0, millivolts := 0, milliamps := 0, watts := 0 }

theorem getClk_fieldOff (f g : Nat) (s : State) : getClk (fieldOff f s) g = if g = f then islandOff (getClk s f) else getClk s g := by
  have kept : (fieldOff f s).clk = (modClk f islandOff (modFld f supplyOff s)).clk :=
    (clearField_keeps f _).only .clk rfl
  rw [getClk_congr kept, getClk_modClk, getClk_modFld, getClk_modFld]

theorem getFld_fieldOff (f g : Nat) (s : State) :
    getFld (fieldOff f s) g = if g = f then supplyOff (getFld s f) else getFld s g := by
  have kept : (fieldOff f s).fld = (modFld f supplyOff s).fld :=
    ((modClk_keeps f islandOff _).only .fld rfl ▸ (clearField_keeps f (modClk f islandOff _)).only .fld rfl)
  rw [getFld_congr kept, getFld_modFld]

theorem getFld_supplyLost (f : Nat) (s : State) :
    (getFld (supplyLost f s) f).powered = false ∧ (getFld (supplyLost f s) f).fault = true ∧ (getFld (supplyLost f s) f).good = false ∧
    (getFld (supplyLost f s) f).resetting = false := by
  unfold supplyLost
  simp only [getFld_modFld, getFld_fieldOff, if_true]
  exact ⟨rfl, trivial, rfl, trivial⟩

theorem getClk_supplyLost (f g : Nat) (s : State) :
    getClk (supplyLost f s) g = if g = f then islandOff (getClk s f) else getClk s g := by
  unfold supplyLost
  rw [getClk_modFld, getClk_fieldOff]

theorem holder_supplyLost (f g : Nat) (s : State) : holder (supplyLost f s) g = holder s g := by
  have owner : (getFld (supplyLost f s) g).owner = (getFld s g).owner := by
    unfold supplyLost
    rw [getFld_modFld, getFld_fieldOff, getFld_fieldOff]
    split
    · next h => rw [h, if_pos rfl]; rfl
    · rfl
  unfold holder
  rw [owner]

/-- The field's own step of its partition's reset is over (R432, R437). -/
def fieldLeaves (f : Nat) (a : Part) : Part := { a with reset := a.reset.map (fun r => { r with fields := r.fields.erase f }) }

theorem exec_fieldSupplyFault {f : Nat} {s : State} (hf : f < 56) (hp : (getFld s f).powered = true) :
    exec (.fieldSupplyFault f) s = .next (supplyFault f s) := by
  show execFieldSupplyFault f s = _
  unfold execFieldSupplyFault
  rw [if_pos ⟨hf, hp⟩]

theorem supplyFault_of_free {f : Nat} {s : State} (h : holder s f = none) :
    supplyFault f s = raise (evField (resetTest [f] (supplyLost f s)) 0x00B 1 f 0) (resetTest [f] (supplyLost f s)) := by
  have free : holder (modFld f (fun x => { x with fault := true, resetting := false }) (fieldOff f s)) f = none :=
    (holder_supplyLost f f s).trans h
  unfold supplyFault
  dsimp only
  rw [free]
  rfl

theorem supplyFault_of_held {f p : Nat} {s : State} (h : holder s f = some p) :
    ∃ e, supplyFault f s = raise e (advanceReset p (modPart p (fieldLeaves f) (beginReset p 2 [] false (supplyLost f s)))) := by
  have held : holder (modFld f (fun x => { x with fault := true, resetting := false }) (fieldOff f s)) f = some p :=
    (holder_supplyLost f f s).trans h
  unfold supplyFault
  dsimp only
  rw [held]
  exact ⟨_, rfl⟩

theorem fieldSupplyFault_free {f : Nat} {s : State} (hf : f < 56) (hp : (getFld s f).powered = true) (h : holder s f = none) :
    Completes (.fieldSupplyFault f) s (fun t =>
      (getFld t f).powered = false ∧ (getFld t f).fault = true ∧ (getFld t f).good = false ∧ (getFld t f).resetting = false ∧
      (getClk t f).st = .off ∧ (∀ g, g ≠ f → getClk t g = getClk s g) ∧
      (s.test.st ≠ 1 → Raised (evField s 0x00B 1 f 0) s t)) := by
  have supplies := sameSupplies_resetTest [f] (supplyLost f s)
  have lost := (supplyLost_keeps f s).only
  have clk : (resetTest [f] (supplyLost f s)).clk = (supplyLost f s).clk := (resetTest_keeps ..).only .clk rfl
  have island (g : Nat) : getClk (resetTest [f] (supplyLost f s)) g = if g = f then islandOff (getClk s f) else getClk s g := by
    rw [← getClk_supplyLost, getClk_congr clk]
  obtain ⟨off, fault, good, resetting⟩ := getFld_supplyLost f s
  refine completes_of_exec (exec_fieldSupplyFault hf hp) ?_
  rw [supplyFault_of_free h]
  simp only [getFld_raise, getClk_raise]
  refine ⟨(supplies.powered f).trans off, (supplies.fault f).trans fault, (supplies.good f).trans good,
    (supplies.resetting f).trans resetting, ?_, fun g hg => ?_, fun hidle => ?_⟩
  · rw [island, if_pos rfl]
    rfl
  · rw [island, if_neg hg]
  · have idle : (supplyLost f s).test.st ≠ 1 := by rw [lost .test rfl]; exact hidle
    have ev : evField (supplyLost f s) 0x00B 1 f 0 = evField s 0x00B 1 f 0 := by
      unfold evField
      rw [holder_supplyLost, h]
      rfl
    rw [resetTest_of_none idle, ev]
    exact raise_events _ (lost .events rfl)

theorem fieldSupplyFault_held {f p : Nat} {a : Part} {s : State} (hf : f < 56) (hp : (getFld s f).powered = true)
    (hh : holder s f = some p) (ha : getPart s p = some a) (hr : a.reset = none) :
    Completes (.fieldSupplyFault f) s (fun t =>
      (getFld t f).powered = false ∧ (getFld t f).fault = true ∧ (getFld t f).good = false ∧ (getClk t f).st = .off ∧
      ∃ b, getPart t p = some b ∧ b.resets = a.resets + 1 ∧ b.resetCause = 2 ∧ b.job = none ∧ b.current = none ∧ b.queue = [] ∧
        (b.pstate = .resetting ∨ b.pstate = .scrubbing)) := by
  obtain ⟨off, fault, good, -⟩ := getFld_supplyLost f s
  have ha' : getPart (supplyLost f s) p = some a := by
    rw [getPart_congr ((supplyLost_keeps f s).only .parts rfl)]
    exact ha
  obtain ⟨⟨b, hb, hin⟩, begun⟩ := beginReset_begins ha' hr 2 []
  obtain ⟨e, heq⟩ := supplyFault_of_held hh
  have bclk := (beginReset_keeps p 2 [] false (supplyLost f s)).only .clk rfl
  generalize beginReset p 2 [] false (supplyLost f s) = u at hb begun bclk heq
  have hb' : getPart (modPart p (fieldLeaves f) u) p = some (fieldLeaves f b) := by
    rw [getPart_modPart, if_pos rfl, hb]
    rfl
  have hin' : InReset (a.resets + 1) 2
      { since := now (supplyLost f s), fields := [], discarded := usedCounters (supplyLost f s) p } (fieldLeaves f b) :=
    { hin with reset := by unfold fieldLeaves; rw [hin.reset]; rfl }
  obtain ⟨⟨c, hc, cin⟩, after⟩ := advanceReset_inReset hb' hin' rfl
  have aclk := (advanceReset_keeps p (modPart p (fieldLeaves f) u)).only .clk rfl
  have supplies := (begun.trans (.of_keeps (modPart_keeps p (fieldLeaves f) u))).trans after
  refine completes_of_exec (exec_fieldSupplyFault hf hp) ?_
  have clk : (getClk (supplyFault f s) f).st = .off := by
    have same : (supplyFault f s).clk = (supplyLost f s).clk := by
      rw [heq, raise_clk, aclk, modPart_clk, bclk]
    rw [getClk_congr same, getClk_supplyLost, if_pos rfl]
    rfl
  refine ⟨?_, ?_, ?_, clk, c, ?_, cin.resets, cin.cause, cin.job, cin.current, cin.queue, cin.state⟩ <;> rw [heq]
  · rw [getFld_raise, supplies.powered f]
    exact off
  · rw [getFld_raise, supplies.fault f]
    exact fault
  · rw [getFld_raise, supplies.good f]
    exact good
  · rw [getPart_raise]
    exact hc

theorem exec_regulatorReport {f : Nat} {s : State} (hf : f < 56) (hp : (getFld s f).powered = true) (mv ma w : Nat) (e : Word64) :
    exec (.regulatorReport f mv ma w e) s = .next (modFld f (fun x => { x with
      millivolts := mv, milliamps := ma, watts := w, delivered := e, reports := x.reports + 1 }) s) := by
  show execRegulatorReport f mv ma w e s = _
  unfold execRegulatorReport
  rw [if_pos ⟨hf, hp⟩]

/-- Settles O15: a report writes one field, and a supply fault is followed through the reset of the partition that holds the field. -/
theorem fieldSuppliesReportAndFault : Obligations.FieldSuppliesReportAndFault := by
  unfold Obligations.FieldSuppliesReportAndFault
  intro f s hf hp
  refine ⟨fun mv ma w e => ?_, ?_, ?_⟩
  · refine completes_of_exec (exec_regulatorReport hf hp mv ma w e) ⟨?_, fun g hg => ?_⟩
    · rw [getFld_modFld, if_pos rfl]
    · rw [getFld_modFld, if_neg hg]
  · exact fieldSupplyFault_free hf hp
  · exact fun p a hh ha hr => fieldSupplyFault_held hf hp hh ha hr

end Sys2Proof.Machine
end

section
/-!
PROOF. The attribution of an interval credits each field's energy whole (R321 to R324), and the peak allowance (R326, R327).
-/

namespace Sys2Proof.Machine

open Sys2Proof

/-! ## Sums of a table -/

theorem amSum_cons (e : Nat × Nat) (m : AMap Nat) : amSum (e :: m) = e.2 + amSum m := by
  simp [amSum]

theorem amSum_amSet_above {m : AMap Nat} {k : Nat} (h : ∀ e ∈ m, e.1 < k) (v : Nat) : amSum (amSet m k v) = amSum m + v := by
  induction m with
  | nil => simp [amSet, amSum]
  | cons e m ih =>
    obtain ⟨hk, hm⟩ := List.forall_mem_cons.mp h
    unfold amSet
    rw [if_neg (by omega), if_neg (by omega), amSum_cons, amSum_cons, ih hm]
    omega

theorem amSum_filter_le (q : Nat × Nat → Bool) (m : AMap Nat) : amSum (m.filter q) ≤ amSum m := by
  induction m with
  | nil => exact le_refl _
  | cons e m ih =>
    rw [List.filter_cons]
    split
    · rw [amSum_cons, amSum_cons]
      omega
    · rw [amSum_cons]
      omega

/-- The parts of a whole by weights, each rounded down, are together no more than the weights' part of it. -/
theorem amSum_parts_le (e total : Nat) (m : AMap Nat) :
    amSum (m.map (fun x => (x.1, if total = 0 then 0 else e * x.2 / total))) * total ≤ e * amSum m := by
  induction m with
  | nil => simp [amSum]
  | cons x m ih =>
    rw [List.map_cons, amSum_cons, amSum_cons, Nat.add_mul, Nat.mul_add]
    refine Nat.add_le_add ?_ ih
    dsimp only
    split
    · next h => rw [h]; simp
    · exact Nat.div_mul_le_self ..

theorem splitEnergy_sum (e : Nat) (m : AMap Nat) : amSum (splitEnergy e m) = e := by
  unfold splitEnergy
  dsimp only
  generalize hp : (m.filter (fun x => decide (x.1 < houseAccount))).map
    (fun x => (x.1, if amSum m = 0 then 0 else e * x.2 / amSum m)) = parts
  have below : ∀ x ∈ parts, x.1 < houseAccount := by
    intro x hx
    rw [← hp] at hx
    obtain ⟨y, hy, rfl⟩ := List.mem_map.mp hx
    exact of_decide_eq_true (List.mem_filter.mp hy).2
  have within : amSum parts ≤ e := by
    by_cases h0 : amSum m = 0
    · have none : amSum parts = 0 := by
        rw [← hp, h0]
        generalize m.filter _ = l
        induction l with
        | nil => rfl
        | cons x l ih => simpa [amSum] using ih
      omega
    · have parted := amSum_parts_le e (amSum m) (m.filter (fun x => decide (x.1 < houseAccount)))
      rw [hp] at parted
      have whole : e * amSum (m.filter (fun x => decide (x.1 < houseAccount))) ≤ e * amSum m :=
        Nat.mul_le_mul_left e (amSum_filter_le ..)
      exact Nat.le_of_mul_le_mul_right (parted.trans whole) (Nat.pos_of_ne_zero h0)
  rw [amSum_amSet_above below]
  omega

theorem settleCredits_sum (s : State) (m : AMap Nat) : amSum (settleCredits s m) = amSum m := by
  unfold settleCredits
  dsimp only
  have below : ∀ x ∈ m.filter (fun x => decide (x.1 < houseAccount) && takesCredit s x.1), x.1 < houseAccount := by
    intro x hx
    have := (List.mem_filter.mp hx).2
    rw [Bool.and_eq_true] at this
    exact of_decide_eq_true this.1
  have within := amSum_filter_le (fun x => decide (x.1 < houseAccount) && takesCredit s x.1) m
  rw [amSum_amSet_above below]
  omega

/-! ## One field -/

/-- The energy that a field's regulator has delivered since the interval began, µJ (R321). -/
def sinceBase (x : FieldPwr) : Nat := (x.delivered - x.intervalBase).toNat

/-- A field's record after its energy of the interval has been attributed (R321, R324). -/
def Attributed (x y : FieldPwr) : Prop :=
  y.energy = x.energy + sinceBase x ∧ amSum y.lastCredit = sinceBase x ∧ y.intervalBase = x.delivered ∧ y.activity = [] ∧ y.reports = 0

/-- The record that the attribution writes. -/
def attributedFld (split : AMap Nat) (missed : Bool) (bad : Nat) (at' : Option Nat) (x : FieldPwr) : FieldPwr :=
  { x with energy := x.energy + sinceBase x, intervalBase := x.delivered, reports := 0, activity := [], lastCredit := split
           missed := missed, ratioBad := bad, missedAt := at' }

theorem attributeField_eq (f : Nat) (s : State) : ∃ split missed bad at', amSum split = sinceBase (getFld s f) ∧
    Only [.events] (modFld f (attributedFld split missed bad at') s) (attributeField f s) := by
  unfold attributeField
  extract_lets x e m missed split total out bad again t u v
  have whole : amSum split = sinceBase (getFld s f) := by
    unfold split
    split
    · exact (amSum_amSet_above (by simp) e).trans (by simp [amSum]; rfl)
    · rw [settleCredits_sum, splitEnergy_sum]
      rfl
  have hu : u = modFld f (attributedFld split missed bad (if again = true then some t else x.missedAt)) s := by
    unfold u modFld amMod
    rfl
  have hv : Only [.events] u v := by
    unfold v
    split
    · exact (raise_keeps ..).only
    · exact (Keeps.refl [.events] _).only
  refine ⟨split, missed, bad, if again = true then some t else x.missedAt, whole, ?_⟩
  rw [← hu]
  split
  · exact hv.trans (raise_keeps ..).only
  · exact hv

theorem attributed_attributeField (f : Nat) (s : State) : Attributed (getFld s f) (getFld (attributeField f s) f) := by
  obtain ⟨split, missed, bad, at', whole, only⟩ := attributeField_eq f s
  rw [getFld_congr (only .fld rfl), getFld_modFld, if_pos rfl]
  exact ⟨rfl, whole, rfl, rfl, rfl⟩

theorem getFld_attributeField_other {f g : Nat} (h : g ≠ f) (s : State) : getFld (attributeField f s) g = getFld s g := by
  obtain ⟨split, missed, bad, at', -, only⟩ := attributeField_eq f s
  rw [getFld_congr (only .fld rfl), getFld_modFld, if_neg h]

/-- The attribution of the fields of a list. -/
def attributeFields (l : List Nat) (s : State) : State := l.foldl (fun s f => attributeField f s) s

theorem attributeFields_keeps (l : List Nat) (s : State) : Keeps [.fld, .events] s (attributeFields l s) :=
  Keeps.foldl (Keeps.refl _ s) fun _ f h => h.step (attributeField_keeps f _) rfl

theorem getFld_attributeFields_other {f : Nat} {l : List Nat} (h : f ∉ l) (s : State) :
    getFld (attributeFields l s) f = getFld s f := by
  induction l generalizing s with
  | nil => rfl
  | cons g l ih =>
    obtain ⟨hg, hl⟩ := List.ne_and_not_mem_of_not_mem_cons h
    exact (ih hl (attributeField g s)).trans (getFld_attributeField_other hg s)

theorem attributed_attributeFields {f : Nat} {l : List Nat} (hl : l.Nodup) (hf : f ∈ l) (s : State) :
    Attributed (getFld s f) (getFld (attributeFields l s) f) := by
  induction l generalizing s with
  | nil => exact absurd hf List.not_mem_nil
  | cons g l ih =>
    obtain ⟨hg, hl⟩ := List.nodup_cons.mp hl
    obtain rfl | hin := List.mem_cons.mp hf
    · have later := getFld_attributeFields_other hg (attributeField f s)
      have now' := attributed_attributeField f s
      rw [← later] at now'
      exact now'
    · have other : f ≠ g := fun h => hg (h ▸ hin)
      have later := ih hl hin (attributeField g s)
      rw [getFld_attributeField_other other] at later
      exact later

/-! ## The interval -/

/-- The interval's measured figures (R321, R326, R356). -/
def intervalMeasured (average ring standby : Nat) (s : State) : State :=
  { s with power := { s.power with average := average, ringEnergy := ring, standbyEnergy := s.power.standbyEnergy + standby
                                   standbyWatts := standby / 1000 } }

/-- The credits of an interval, before the allowance and the step checks. -/
def intervalBooked (average ring standby : Nat) (s : State) : State :=
  bookCredits (attributeFields (List.range 56) (intervalMeasured average ring standby s))

/-- The two 1 ms power-step checks (R333). -/
def stepChecks (average : Nat) (s : State) : State :=
  if average > drawLimit s then addPowerStep s
  else if 100 * average < 98 * drawLimit s ∧ (List.range 56).any (fun f => (getFld s f).eSteps > 0) then dropPowerStep s
  else s

theorem exec_attributionInterval (average ring standby : Nat) (s : State) :
    exec (.attributionInterval average ring standby) s =
      .next (stepChecks average (allowanceStep (intervalBooked average ring standby s))) := rfl

/-- What the step checks leave of the power figures. -/
structure SameBudget (s t : State) : Prop where
  average : t.power.average = s.power.average
  standbyEnergy : t.power.standbyEnergy = s.power.standbyEnergy
  ringActivity : t.power.ringActivity = s.power.ringActivity
  allowance : t.power.allowance = s.power.allowance
  clamped : t.power.clamped = s.power.clamped

/-- A power step, or none, with what it writes of the power figures. -/
def StepTaken (s t : State) : Prop :=
  SameBudget s t ∧ ∀ x f, Attributed x (getFld s f) → Attributed x (getFld t f)

theorem stepTaken_refl (s : State) : StepTaken s s := ⟨⟨rfl, rfl, rfl, rfl, rfl⟩, fun _ _ h => h⟩

theorem StepTaken.trans {s t u : State} (h : StepTaken s t) (k : StepTaken t u) : StepTaken s u :=
  ⟨⟨k.1.average.trans h.1.average, k.1.standbyEnergy.trans h.1.standbyEnergy, k.1.ringActivity.trans h.1.ringActivity,
    k.1.allowance.trans h.1.allowance, k.1.clamped.trans h.1.clamped⟩, fun x f a => k.2 x f (h.2 x f a)⟩

theorem stepTaken_raise (e : EvReq) (s : State) : StepTaken s (raise e s) := by
  unfold StepTaken
  simp only [getFld_raise]
  refine ⟨⟨?_, ?_, ?_, ?_, ?_⟩, fun _ _ h => h⟩ <;> rw [raise_power]

/-- Power steps change a field's count of them only. -/
theorem stepTaken_modSteps (g : Nat) (n : FieldPwr → Nat) (s : State) : StepTaken s (modFld g (fun y => { y with eSteps := n y }) s) := by
  refine ⟨⟨rfl, rfl, rfl, rfl, rfl⟩, fun x f h => ?_⟩
  rw [getFld_modFld]
  split
  · next hg => subst hg; exact h
  · exact h

theorem stepTaken_addPowerStep (s : State) : StepTaken s (addPowerStep s) := by
  have marked (c : Prop) [Decidable c] (n : Option Nat) (u : State) :
      StepTaken u (if c then { u with power := { u.power with channelBad := n } } else u) := by
    split
    · exact ⟨⟨rfl, rfl, rfl, rfl, rfl⟩, fun _ _ h => h⟩
    · exact stepTaken_refl u
  have throttled (u : State) : StepTaken u { u with power := { u.power with throttled := true } } :=
    ⟨⟨rfl, rfl, rfl, rfl, rfl⟩, fun _ _ h => h⟩
  unfold addPowerStep
  split
  · exact stepTaken_refl s
  · next f _ =>
    extract_lets bad u src v
    have step : StepTaken s v := (stepTaken_modSteps f (fun x => x.eSteps + 1) s).trans (marked bad (some s.power.publishes) u)
    split
    · exact step
    · exact (step.trans (throttled v)).trans (stepTaken_raise ..)

theorem stepTaken_dropPowerStep (s : State) : StepTaken s (dropPowerStep s) := by
  have unthrottled (u : State) : StepTaken u { u with power := { u.power with throttled := false } } :=
    ⟨⟨rfl, rfl, rfl, rfl, rfl⟩, fun _ _ h => h⟩
  unfold dropPowerStep
  generalize (List.range 56) = l
  split
  · exact stepTaken_refl s
  · next f _ =>
    have step := stepTaken_modSteps f (fun x => x.eSteps - 1) s
    dsimp only
    split
    · exact step
    · exact (step.trans (unthrottled _)).trans (stepTaken_raise ..)

theorem stepTaken_stepChecks (average : Nat) (s : State) : StepTaken s (stepChecks average s) := by
  unfold stepChecks
  split
  · exact stepTaken_addPowerStep s
  · split
    · exact stepTaken_dropPowerStep s
    · exact stepTaken_refl s

/-! ## The allowance -/

theorem intervalBooked_keeps (average ring standby : Nat) (s : State) :
    Only [.fld, .power, .events, .parts] s (intervalBooked average ring standby s) := by
  have measured : Only [.power] s (intervalMeasured average ring standby s) := by
    intro r hr
    cases r <;> first | rfl | simp at hr
  exact ((measured.mono rfl).trans ((attributeFields_keeps _ _).only.mono rfl)).trans ((bookCredits_keeps _).only.mono rfl)

theorem intervalBooked_power (average ring standby : Nat) (s : State) : ∃ h n,
    (intervalBooked average ring standby s).power = { (intervalMeasured average ring standby s).power with
      houseCredit := h, houseSecond := n, ringActivity := [] } := by
  have attributed := (attributeFields_keeps (List.range 56) (intervalMeasured average ring standby s)).only .power rfl
  have booked (u : State) : ∃ h n, (bookCredits u).power = { u.power with houseCredit := h, houseSecond := n, ringActivity := [] } :=
    ⟨_, _, rfl⟩
  obtain ⟨h, n, power⟩ := booked (attributeFields (List.range 56) (intervalMeasured average ring standby s))
  rw [attributed] at power
  exact ⟨h, n, power⟩

theorem limitS_congr {s t : State} (hk : t.power.running = s.power.running) (hs : t.power.coolantS = s.power.coolantS) :
    limitS t = limitS s := by
  unfold limitS runningK
  rw [hk, hs]

theorem setting_congr {s t : State} (h : t.regs = s.regs) (index sub : Nat) : setting t index sub = setting s index sub := by
  unfold setting reg
  rw [h]

/-- The allowance after an interval of an average (R326). -/
def allowanceAfter (s : State) (average : Nat) : Nat :=
  if average > limitS s then s.power.allowance - (average - limitS s)
  else min 12000000 (s.power.allowance + 12000 / setting s 0x2200 6)

theorem allowanceStep_power (s : State) : (allowanceStep s).power.average = s.power.average ∧
    (allowanceStep s).power.standbyEnergy = s.power.standbyEnergy ∧ (allowanceStep s).power.ringActivity = s.power.ringActivity ∧
    (allowanceStep s).power.allowance = allowanceAfter s s.power.average ∧
    (limitS s + s.power.allowance ≤ s.power.average → limitS s < s.power.average → (allowanceStep s).power.clamped = true) ∧
    (s.power.average ≤ limitS s → (allowanceStep s).power.clamped = s.power.clamped) := by
  unfold allowanceStep allowanceAfter
  dsimp only
  split
  · next above =>
    split
    · rw [raise_power]
      exact ⟨rfl, rfl, rfl, rfl, fun _ _ => rfl, fun h => by omega⟩
    · next unclamped =>
      refine ⟨rfl, rfl, rfl, rfl, fun h _ => ?_, fun h => by omega⟩
      have zero : s.power.allowance - (s.power.average - limitS s) = 0 := by omega
      simpa [zero] using unclamped
  · exact ⟨rfl, rfl, rfl, rfl, fun _ h => by omega, fun _ => rfl⟩

theorem attributionInterval_fields (average ring standby : Nat) {f : Nat} (hf : f < 56) (s : State) :
    Completes (.attributionInterval average ring standby) s (fun t => Attributed (getFld s f) (getFld t f)) := by
  refine completes_of_exec (exec_attributionInterval average ring standby s) ?_
  have attributed := attributed_attributeFields List.nodup_range (List.mem_range.mpr hf) (intervalMeasured average ring standby s)
  have booked : getFld (allowanceStep (intervalBooked average ring standby s)) f =
      getFld (attributeFields (List.range 56) (intervalMeasured average ring standby s)) f :=
    (getFld_congr ((allowanceStep_keeps _).only .fld rfl) f).trans (getFld_congr ((bookCredits_keeps _).only .fld rfl) f)
  rw [← booked] at attributed
  exact (stepTaken_stepChecks average _).2 _ f attributed

theorem attributionInterval_allowance (average ring standby : Nat) (s : State) :
    Completes (.attributionInterval average ring standby) s (fun t =>
      t.power.average = average ∧ t.power.standbyEnergy = s.power.standbyEnergy + standby ∧ t.power.ringActivity = [] ∧
      t.power.allowance = allowanceAfter s average ∧
      (limitS s + s.power.allowance ≤ average → limitS s < average → t.power.clamped = true) ∧
      (average ≤ limitS s → t.power.clamped = s.power.clamped)) := by
  refine completes_of_exec (exec_attributionInterval average ring standby s) ?_
  obtain ⟨h, n, power⟩ := intervalBooked_power average ring standby s
  have regs : (intervalBooked average ring standby s).regs = s.regs := intervalBooked_keeps average ring standby s .regs rfl
  generalize intervalBooked average ring standby s = u at power regs
  have limit : limitS u = limitS s := by
    refine limitS_congr ?_ ?_ <;> rw [power] <;> rfl
  have uaverage : u.power.average = average := by rw [power]; rfl
  have uallowance : u.power.allowance = s.power.allowance := by rw [power]; rfl
  have uclamped : u.power.clamped = s.power.clamped := by rw [power]; rfl
  have after : allowanceAfter u average = allowanceAfter s average := by
    unfold allowanceAfter
    rw [limit, uallowance, setting_congr regs]
  obtain ⟨same, -⟩ := stepTaken_stepChecks average (allowanceStep u)
  obtain ⟨saverage, sstandby, sring, sallowance, sclamp, skeep⟩ := allowanceStep_power u
  rw [uaverage, limit, uallowance] at sclamp
  rw [uaverage, limit, uclamped] at skeep
  refine ⟨?_, ?_, ?_, ?_, ?_, ?_⟩
  · rw [same.average, saverage, uaverage]
  · rw [same.standbyEnergy, sstandby, power]
    rfl
  · rw [same.ringActivity, sring, power]
  · rw [same.allowance, sallowance, uaverage, after]
  · rw [same.clamped]
    exact sclamp
  · rw [same.clamped]
    exact skeep

theorem exec_clampEnd {s : State} (h : s.power.clamped = true) :
    exec .clampEnd s = .next (clampOver (advanceTo s.power.clampEnds s)) := by
  show execClampEnd s = _
  unfold execClampEnd
  rw [if_pos h]

theorem clampOver_eq (s : State) : (clampOver s).power = { s.power with clamped := false, allowance := 12000000 } ∧
    now (clampOver s) = now s ∧ Raised (evCtl 0x006 0 (activeCtl s) 0) s (clampOver s) := by
  unfold clampOver
  exact ⟨by rw [raise_power], by rw [now_raise]; rfl, raise_events _ rfl⟩

theorem clampEnd_ends {s : State} (h : s.power.clamped = true) :
    Completes .clampEnd s (fun t =>
      t.power = { s.power with clamped := false, allowance := 12000000 } ∧ s.power.clampEnds ≤ now t ∧
      Raised (evCtl 0x006 0 (activeCtl s) 0) s t) := by
  obtain ⟨power, time, event⟩ := clampOver_eq (advanceTo s.power.clampEnds s)
  refine completes_of_exec (exec_clampEnd h) ⟨?_, ?_, ?_⟩
  · rw [power, advanceTo_power]
  · rw [time]
    exact (now_advanceTo ..).1
  · rw [activeCtl_advanceTo] at event
    exact event.trans (raise_events _ (advanceTo_events ..))

/-- Settles O16: the sums of the split tables give the credits, and the allowance's step is followed through the interval. -/
theorem energyIsCreditedAndTheAllowanceKept : Obligations.EnergyIsCreditedAndTheAllowanceKept := by
  unfold Obligations.EnergyIsCreditedAndTheAllowanceKept
  intro s
  refine ⟨?_, ?_, clampEnd_ends⟩
  · exact fun average ring standby f hf => attributionInterval_fields average ring standby hf s
  · exact fun average ring standby => attributionInterval_allowance average ring standby s

end Sys2Proof.Machine
end

section
/-!
PROOF. A publication of the shares (R331), and the writes of reservations and pool weights (R330).
-/

namespace Sys2Proof.Machine

open Sys2Proof

/-! ## Nothing to choose -/

theorem resolveReady_of_empty {p n : Nat} {s : State} (h : ∀ a, getPart s p = some a → a.queue = []) : resolveReady p n s = s := by
  cases n with
  | zero => rfl
  | succ n =>
    unfold resolveReady
    split
    · rfl
    · next a ha =>
      split
      · rfl
      · rw [h a ha]
        rfl

theorem nextFrameSection_of_none {p : Nat} {s : State} (h : ∀ a, getPart s p = some a → a.cadence = none) : nextFrameSection p s = s := by
  unfold nextFrameSection
  split
  · rfl
  · next a ha =>
    rw [h a ha]

theorem decideWaiting_of_none {p n : Nat} {s : State} (h : ∀ a, getPart s p = some a → a.cadence = none) : decideWaiting p n s = s := by
  cases n with
  | zero => rfl
  | succ n =>
    unfold decideWaiting
    split
    · rfl
    · next a ha =>
      rw [h a ha]

theorem chooseRun_of_empty {s : State} {a : Part} (h : a.queue = []) : chooseRun s a = none := by
  have none : (if measured s a = true then a.queue.filter Run.ready else []) = [] := by
    rw [h]
    split <;> rfl
  unfold chooseRun
  rw [none]
  dsimp only [List.filter_nil, List.foldl_nil]
  split <;> rfl

/-- A partition without queued runs and without cadence has nothing to choose (R155). -/
theorem schedule_of_idle {p : Nat} {s : State} (h : ∀ a, getPart s p = some a → a.queue = [] ∧ a.cadence = none) : schedule p s = s := by
  have queue (a : Part) (ha : getPart s p = some a) : a.queue = [] := (h a ha).1
  have cadence (a : Part) (ha : getPart s p = some a) : a.cadence = none := (h a ha).2
  unfold schedule
  rw [resolveReady_of_empty queue]
  dsimp only
  split
  · rfl
  · next a ha =>
    split
    · rfl
    · rw [nextFrameSection_of_none cadence, decideWaiting_of_none cadence, ha]
      dsimp only
      split
      · rfl
      · rw [chooseRun_of_empty (queue a ha)]

theorem schedules_of_idle {s : State} (h : ∀ p a, getPart s p = some a → a.queue = [] ∧ a.cadence = none) (l : List Nat) :
    l.foldl (fun s p => schedule p s) s = s := by
  induction l with
  | nil => rfl
  | cons p l ih => rw [List.foldl_cons, schedule_of_idle (h p), ih]

/-! ## A publication -/

/-- The house power that a sample and the last credits give (R331). -/
def houseOf (sample : Nat) (s : State) : Nat := if totalCredit s = 0 then sample else sample * s.power.houseCredit / totalCredit s

/-- The figures of a publication outside the current limit and below the peak (R324, R331). -/
def publication (sample : Nat) (s : State) : State :=
  { s with power := { s.power with
      sample := sample, house := houseOf sample s, publishes := s.power.publishes + 1
      overPeak := s.power.overPeak.filter (fun k => s.power.publishes + 1 < k + 100000) ++ [], limiting := false } }

/-- The shares of every partition under the power of the moment (R331). -/
def sharesGiven (s : State) : State :=
  { s with parts := amMap s.parts (fun _ a => { a with share := shareOf s a, inForce := (a.reservation, a.weight) }) }

theorem channelStep_power (s : State) : ∃ st bad, (channelStep s).power = { s.power with channel := st, channelBad := bad } := by
  unfold channelStep
  extract_lets w bad st u
  split
  · rw [raise_power]
    exact ⟨st, bad, rfl⟩
  · exact ⟨st, bad, rfl⟩

theorem channelStep_parts (s : State) : (channelStep s).parts = s.parts := by
  unfold channelStep
  extract_lets w bad st u
  split
  · rw [raise_parts]
  · rfl

theorem publish_calm {sample : Nat} {s : State} (hlim : s.power.limiting = false) (hpeak : sample ≤ limitPeak s) :
    publish sample s = (List.map Prod.fst (channelStep (sharesGiven (publication sample s))).parts).foldl (fun s p => schedule p s)
      (channelStep (sharesGiven (publication sample s))) := by
  have below : ¬ sample > limitPeak s := Nat.not_lt.mpr hpeak
  have calm : ¬(false = true ∨ (sample > limitPeak (publication sample s) ∧
      (s.power.overPeak.filter (fun k => decide (s.power.publishes + 1 < k + 100000)) ++ []).length ≥ 5000)) := by
    rintro (h | ⟨h, -⟩)
    · exact absurd h (by decide)
    · exact below h
  unfold publish
  dsimp only
  rw [hlim, if_neg below, Bool.false_and]
  exact congrArg (fun u => List.foldl (fun s p => schedule p s) (channelStep (sharesGiven u))
    (List.map Prod.fst (channelStep (sharesGiven u)).parts)) (if_neg calm)

theorem sharePublish_gives {sample : Nat} {s : State} (hidle : ∀ e ∈ s.parts, e.2.queue = [] ∧ e.2.cadence = none)
    (hlim : s.power.limiting = false) (hpeak : sample ≤ limitPeak s) :
    Completes (.sharePublish sample) s (fun t =>
      t.power.sample = sample ∧ t.power.publishes = s.power.publishes + 1 ∧ t.power.house = houseOf sample s ∧
      ∀ p a, getPart s p = some a →
        ∃ b, getPart t p = some b ∧
          b = { a with share := shareOf { s with power := { s.power with house := t.power.house } } a
                       inForce := (a.reservation, a.weight) }) := by
  have hc : exec (.sharePublish sample) s = .next (publish sample s) := rfl
  obtain ⟨st, bad, power⟩ := channelStep_power (sharesGiven (publication sample s))
  have part (p : Nat) : getPart (channelStep (sharesGiven (publication sample s))) p = (getPart s p).map (fun a =>
      { a with share := shareOf (publication sample s) a, inForce := (a.reservation, a.weight) }) := by
    rw [getPart_congr (channelStep_parts _)]
    unfold getPart sharesGiven
    dsimp only
    rw [amFind_amMap]
    rfl
  have idle (p : Nat) (b : Part) (hb : getPart (channelStep (sharesGiven (publication sample s))) p = some b) :
      b.queue = [] ∧ b.cadence = none := by
    rw [part] at hb
    obtain ⟨a, ha, rfl⟩ := Option.map_eq_some_iff.mp hb
    exact hidle (p, a) (amFind_mem ha)
  rw [publish_calm hlim hpeak, schedules_of_idle idle] at hc
  have house : (channelStep (sharesGiven (publication sample s))).power.house = houseOf sample s := by rw [power]; rfl
  refine completes_of_exec hc ⟨?_, ?_, house, fun p a ha => ?_⟩
  · rw [power]
    rfl
  · rw [power]
    rfl
  · refine ⟨_, (part p).trans (by rw [ha]; rfl), ?_⟩
    rw [house]
    rfl

/-! ## Reservations and weights -/

/-- Object 0x2210: the reservations of the partitions (R329). -/
def reservationObj : Obj := ⟨0x2210, 1, 56, 4, 4, .rw, [.operator], .part, 0, 4294967295, none, true⟩

/-- Object 0x2211: the pool weights of the partitions (R329). -/
def weightObj : Obj := ⟨0x2211, 1, 56, 2, 1, .rw, [.operator], .part, 0, 15, none, true⟩

theorem operatorNumber_reservation {p : Nat} (h : p < 56) : OperatorNumber 0x2210 (p + 1) reservationObj where
  known := by decide +kernel
  found := (by decide +kernel : ∀ p < 56, findObj 0x2210 (p + 1) = some reservationObj) p h
  named := rfl
  acc := .inl rfl
  operator := rfl
  number := by decide
  notKey := by decide

theorem operatorNumber_weight {p : Nat} (h : p < 56) : OperatorNumber 0x2211 (p + 1) weightObj where
  known := by decide +kernel
  found := (by decide +kernel : ∀ p < 56, findObj 0x2211 (p + 1) = some weightObj) p h
  named := rfl
  acc := .inl rfl
  operator := rfl
  number := by decide
  notKey := by decide

theorem granularity_accepted {s u : State} (h : Accepted s u) : granularity u = granularity s := by
  unfold granularity reg
  rw [h.regs]

theorem sumReserved_accepted {s u : State} (h : Accepted s u) : sumReserved u = sumReserved s := by
  unfold sumReserved
  rw [h.parts]

theorem ruleWrite_reservation (own : Option Nat) (p v : Nat) (s : State) :
    ruleWrite own 0x2210 (p + 1) v s = writeReservation p v s := rfl

theorem ruleWrite_weight (own : Option Nat) (p v : Nat) (s : State) :
    ruleWrite own 0x2211 (p + 1) v s = (0, modPart p (fun b => { b with weight := v }) s) := rfl

theorem writeReservation_accepted {s u : State} (hu : Accepted s u) {p v : Nat} {a : Part} (ha : getPart s p = some a) :
    writeReservation p v u =
      if v % granularity s = 0 ∧ sumReserved s - a.reservation + v ≤ setting s 0x2200 8 ∧ belowCadence a v = false then
        (0, modPart p (fun b => { b with reservation := v }) u)
      else (0x08000022, raise (evPart s 0x00D 2 p 0) u) := by
  unfold writeReservation
  rw [getPart_accepted hu, ha]
  dsimp only
  rw [granularity_accepted hu, sumReserved_accepted hu, setting_accepted hu, evPart_accepted hu]
  by_cases hok : v % granularity s = 0 ∧ sumReserved s - a.reservation + v ≤ setting s 0x2200 8 ∧ belowCadence a v = false
  · have fits : ¬(v % granularity s ≠ 0 ∨ sumReserved s - a.reservation + v > setting s 0x2200 8 ∨ belowCadence a v = true) := by
      obtain ⟨hg, hl, hb⟩ := hok
      simp [hg, hl, hb]
    rw [if_pos hok, if_neg fits]
    rfl
  · have fails : v % granularity s ≠ 0 ∨ sumReserved s - a.reservation + v > setting s 0x2200 8 ∨ belowCadence a v = true := by
      by_contra h
      push Not at h
      obtain ⟨hg, hl, hb⟩ := h
      exact hok ⟨hg, hl, Bool.eq_false_iff.mpr hb⟩
    rw [if_neg hok, if_pos fails]
    rfl

/-- Settles O17: with nothing to choose a publication gives the shares only, and a write meets the rule of R330. -/
theorem sharesFollowTheBudget : Obligations.SharesFollowTheBudget := by
  unfold Obligations.SharesFollowTheBudget
  intro s
  refine ⟨fun sample hidle hlim hpeak => sharePublish_gives hidle hlim hpeak, ?_, ?_⟩
  · intro via p v a hs hown hp hv ha
    have hmax : v ≤ 4294967295 := by omega
    refine writes_number rfl hs hown (operatorNumber_reservation hp) rfl hv (entryMissing_of_part ha _)
      (by simp [inRange, reservationObj, hmax]) fun u hu => ?_
    unfold ruled
    rw [ruleWrite_reservation, writeReservation_accepted hu ha]
    split <;> exact ⟨rfl, rfl⟩
  · intro via p v a hs hown hp hv ha
    refine writes_number rfl hs hown (operatorNumber_weight hp) rfl (by omega) (entryMissing_of_part ha _)
      (by simp [inRange, weightObj, hv]) fun u hu => ?_
    unfold ruled
    rw [ruleWrite_weight]
    exact ⟨rfl, rfl⟩

end Sys2Proof.Machine
end

section
/-!
PROOF. The fields' sensors, the thermal period and the coolant (R334, R335, R337 to R339).
-/

namespace Sys2Proof.Machine

open Sys2Proof

/-! ## A sample of good readings -/

theorem le_foldl_max (l : List Int) (x : Int) : x ≤ l.foldl max x ∧ ∀ y ∈ l, y ≤ l.foldl max x := by
  induction l generalizing x with
  | nil => simp
  | cons z l ih =>
    obtain ⟨first, rest⟩ := ih (max x z)
    refine ⟨(Int.le_max_left x z).trans first, fun y hy => ?_⟩
    obtain rfl | hy := List.mem_cons.mp hy
    · exact (Int.le_max_right x y).trans first
    · exact rest y hy

theorem foldl_max_mem (l : List Int) (x : Int) : l.foldl max x ∈ x :: l := by
  induction l generalizing x with
  | nil => simp
  | cons z l ih =>
    have h := ih (max x z)
    rw [List.foldl_cons]
    obtain h | h := List.mem_cons.mp h
    · rw [h]
      obtain hm | hm := max_choice x z <;> rw [hm] <;> simp
    · exact List.mem_cons_of_mem _ (List.mem_cons_of_mem _ h)

/-- The greatest of a field's readings, its temperature where no sensor has failed (R335). -/
def hottest (old : Int) (xs : List Int) : Int :=
  match xs with
  | x :: r => r.foldl max x
  | [] => old

theorem hottest_spec {xs : List Int} (h : xs ≠ []) (old : Int) : hottest old xs ∈ xs ∧ ∀ x ∈ xs, x ≤ hottest old xs := by
  cases xs with
  | nil => exact absurd rfl h
  | cons x r =>
    refine ⟨foldl_max_mem r x, fun y hy => ?_⟩
    obtain rfl | hy := List.mem_cons.mp hy
    · exact (le_foldl_max r y).1
    · exact (le_foldl_max r x).2 y hy

/-- The sensors that fail in a sample, with those that had failed before (R335). -/
def badSensors (old : Nat) (xs : List Int) : List Nat :=
  (List.range 16).filter (fun i => i < xs.length && (bitAt old i || sensorFails xs i))

/-- The readings of the sensors that count. -/
def goodReadings (bad : List Nat) (xs : List Int) : List Int :=
  ((List.range 16).filter (fun i => i < xs.length && !bad.contains i)).map (fun i => xs.getD i 0)

theorem badSensors_of_good {xs : List Int} (h : ∀ i, i < 16 → sensorFails xs i = false) : badSensors 0 xs = [] := by
  refine List.filter_eq_nil_iff.mpr fun i hi => ?_
  rw [h i (List.mem_range.mp hi)]
  simp [bitAt]

theorem goodReadings_of_good {xs : List Int} (h : xs.length = 16) : goodReadings [] xs = xs := by
  have all : (List.range 16).filter (fun i => i < xs.length && !([] : List Nat).contains i) = List.range 16 := by
    refine List.filter_eq_self.mpr fun i hi => ?_
    have := List.mem_range.mp hi
    simp
    omega
  unfold goodReadings
  rw [all]
  refine List.ext_getElem (by simp [h]) fun i h1 h2 => ?_
  simp [List.getD_eq_getElem?_getD, h2]

theorem sampleField_of_good {f : Nat} {xs : List Int} {s : State} (hlen : xs.length = 16) (hold : (getFld s f).failedSensors = 0)
    (hgood : ∀ i, i < 16 → sensorFails xs i = false) (hcool : ∀ x ∈ xs, x < 1030) :
    sampleField f xs s = modFld f (fun x => { x with hot103 := false })
      (modFld f (fun x => { x with readings := xs, failedSensors := 0, temp := hottest (getFld s f).temp xs }) s) := by
  have hne : xs ≠ [] := by
    rintro rfl
    simp at hlen
  have bad := badSensors_of_good hgood
  have good := goodReadings_of_good hlen
  have below : hottest (getFld s f).temp xs < 1030 := hcool _ (hottest_spec hne _).1
  unfold badSensors at bad
  unfold goodReadings at good
  unfold sampleField
  rw [hold]
  dsimp only
  rw [bad, good]
  have no1050 : ¬ hottest (getFld s f).temp xs ≥ 1050 := by omega
  have no1030 : ¬ hottest (getFld s f).temp xs ≥ 1030 := by omega
  exact (if_neg (fun h => no1050 h.1)).trans ((if_neg (fun h => no1030 h.1)).trans (if_pos below))

theorem sensorSample_of_good {f : Nat} {xs : List Int} {s : State} (hf : f < 56) (hlen : xs.length = 16)
    (hold : (getFld s f).failedSensors = 0) (hgood : ∀ i, i < 16 → sensorFails xs i = false) (hcool : ∀ x ∈ xs, x < 1030) :
    Completes (.sensorSample f xs) s (fun t =>
      (getFld t f).readings = xs ∧ (getFld t f).failedSensors = 0 ∧ (getFld t f).temp ∈ xs ∧
      (∀ x ∈ xs, x ≤ (getFld t f).temp) ∧ (getFld t f).hot103 = false ∧ (getFld t f).tSteps = (getFld s f).tSteps ∧
      t.events = s.events ∧ ∀ g, g ≠ f → getFld t g = getFld s g) := by
  have hne : xs ≠ [] := by
    rintro rfl
    simp at hlen
  have hc : exec (.sensorSample f xs) s = .next (sampleField f xs s) := by
    show execSensorSample f xs s = _
    unfold execSensorSample
    rw [if_pos hf]
  rw [sampleField_of_good hlen hold hgood hcool] at hc
  obtain ⟨hmem, hmax⟩ := hottest_spec hne (getFld s f).temp
  refine completes_of_exec hc ?_
  rw [getFld_modFld, if_pos rfl, getFld_modFld, if_pos rfl]
  refine ⟨rfl, rfl, hmem, hmax, rfl, rfl, rfl, fun g hg => ?_⟩
  rw [getFld_modFld, if_neg hg, getFld_modFld, if_neg hg]

/-! ## The thermal period -/

/-- The held fields at or above the throttle threshold that can take a step (R334). -/
def hotFields (s : State) : List Nat :=
  (heldFields s).filter (fun f => (getFld s f).temp ≥ (setting s 0x2300 1 * 10 : Nat) && !atFloor s f)

/-- A field is not hot: no partition holds it, or it is below the throttle threshold. -/
def NotHot (s : State) (g : Nat) : Prop := holder s g = none ∨ (getFld s g).temp < (setting s 0x2300 1 * 10 : Nat)

theorem not_hot_of {s : State} {g : Nat} (h : NotHot s g) : g ∉ hotFields s := by
  intro hg
  obtain ⟨hheld, hhot⟩ := List.mem_filter.mp hg
  obtain ⟨-, hsome⟩ := List.mem_filter.mp hheld
  rw [Bool.and_eq_true, decide_eq_true_eq] at hhot
  obtain hnone | hcold := h
  · rw [hnone] at hsome
    exact absurd hsome (by decide)
  · exact absurd hhot.1 (not_le.mpr hcold)

theorem hotFields_nodup (s : State) : (hotFields s).Nodup := (List.nodup_range.filter _).filter _

theorem lt_of_hot {s : State} {g : Nat} (h : g ∈ hotFields s) : g < 56 :=
  List.mem_range.mp (List.mem_filter.mp (List.mem_filter.mp h).1).1

theorem hotFields_none {s : State} (h : ∀ g, g < 56 → NotHot s g) : hotFields s = [] :=
  List.eq_nil_iff_forall_not_mem.mpr fun g hg => not_hot_of (h g (lt_of_hot hg)) hg

theorem hotFields_one {s : State} {f : Nat} (hf : f ∈ hotFields s) (h : ∀ g, g < 56 → g ≠ f → NotHot s g) : hotFields s = [f] := by
  refine List.Perm.eq_singleton ((List.perm_ext_iff_of_nodup (hotFields_nodup s) (List.nodup_singleton f)).mpr fun g => ?_)
  rw [List.mem_singleton]
  refine ⟨fun hg => ?_, fun hg => hg ▸ hf⟩
  by_contra hne
  exact not_hot_of (h g (lt_of_hot hg) hne) hg

/-- The fields that may give a step back (R334). -/
def coolFields (s : State) (first : Option Nat) : List Nat :=
  (List.range 56).filter (fun f =>
    (getFld s f).tSteps > 0 && (getFld s f).temp ≤ (setting s 0x2300 2 * 10 : Nat) && first != some f)

theorem coolFields_none {s : State} (h : ∀ g, g < 56 → (getFld s g).tSteps = 0) (first : Option Nat) : coolFields s first = [] := by
  refine List.filter_eq_nil_iff.mpr fun g hg => ?_
  rw [h g (List.mem_range.mp hg)]
  simp

/-- A thermal step added to a field (R334). -/
def stepAdded (f : Nat) (s : State) : State :=
  raise (evField s 0x040 0 f (unsigned 64 (getFld s f).temp))
    (modFld f (fun x => { x with tSteps := x.tSteps + 1, stepsAdded := x.stepsAdded + 1 }) s)

theorem thermalStep_one {s : State} {f : Nat} (hhot : hotFields s = [f]) (hcool : coolFields s (some f) = []) :
    thermalStep s = stepAdded f s := by
  unfold hotFields at hhot
  unfold coolFields at hcool
  unfold thermalStep
  rw [hhot]
  dsimp only [firstBy, List.foldl_cons, List.foldl_nil]
  rw [hcool]
  rfl

theorem thermalStep_none {s : State} (hhot : hotFields s = []) (hcool : coolFields s none = []) : thermalStep s = s := by
  unfold hotFields at hhot
  unfold coolFields at hcool
  unfold thermalStep
  rw [hhot]
  dsimp only [firstBy, List.foldl_nil]
  rw [hcool]
  rfl

theorem thermalPeriod_adds {s : State} {f : Nat} (hf : f < 56) (hheld : (holder s f).isSome = true)
    (hhot : (getFld s f).temp ≥ (setting s 0x2300 1 * 10 : Nat)) (hfloor : atFloor s f = false)
    (hothers : ∀ g, g < 56 → g ≠ f → NotHot s g) (hsteps : ∀ g, g < 56 → (getFld s g).tSteps = 0) :
    Completes .thermalPeriod s (fun t =>
      (getFld t f).tSteps = 1 ∧ (getFld t f).stepsAdded = (getFld s f).stepsAdded + 1 ∧
      (∀ g, g ≠ f → getFld t g = getFld s g) ∧ Raised (evField s 0x040 0 f (unsigned 64 (getFld s f).temp)) s t) := by
  have hin : f ∈ hotFields s := by
    refine List.mem_filter.mpr ⟨List.mem_filter.mpr ⟨List.mem_range.mpr hf, hheld⟩, ?_⟩
    rw [Bool.and_eq_true, decide_eq_true_eq, hfloor]
    exact ⟨hhot, rfl⟩
  have hc : exec .thermalPeriod s = .next (thermalStep s) := rfl
  rw [thermalStep_one (hotFields_one hin hothers) (coolFields_none hsteps _)] at hc
  refine completes_of_exec hc ?_
  unfold stepAdded
  simp only [getFld_raise, getFld_modFld, if_true]
  refine ⟨by rw [hsteps f hf], trivial, fun g hg => if_neg hg, raise_events _ rfl⟩

theorem thermalPeriod_idle {s : State} (h : ∀ g, g < 56 → (getFld s g).tSteps = 0 ∧ NotHot s g) :
    Completes .thermalPeriod s (fun t => t = s) := by
  have hc : exec .thermalPeriod s = .next (thermalStep s) := rfl
  exact completes_of_exec hc (thermalStep_none (hotFields_none fun g hg => (h g hg).2) (coolFields_none (fun g hg => (h g hg).1) _))

/-! ## The coolant -/

/-- The figures of a coolant sample (R337, R338). -/
def coolantRead (inlet outlet : Int) (flow : Nat) (s : State) : State :=
  { s with power := { s.power with inlet := inlet, outlet := outlet, flow := flow, coolantS := coolantValue inlet flow
                                   derating := coolantValue inlet flow < 30000, cold := inlet < 200 } }

/-- The event of entering or leaving derating (R338). -/
def deratingEvent (v : Nat) (was : Bool) (s : State) : State :=
  if v < 30000 ∧ !was then raise (evCtl 0x045 1 (activeCtl s) 0) s
  else if v ≥ 30000 ∧ was then raise (evCtl 0x046 0 (activeCtl s) 0) s else s

theorem deratingEvent_keeps (v : Nat) (was : Bool) (s : State) : Keeps [.events] s (deratingEvent v was s) := by
  unfold deratingEvent
  exact .ite (raise_keeps ..) (.ite (raise_keeps ..) (.refl ..))

theorem exec_coolantSample {inlet : Int} {s : State} (h12 : s.pilot.step = 12) (hawake : s.pilot.sleep = 0) (hwarm : 200 ≤ inlet)
    (outlet : Int) (flow : Nat) :
    exec (.coolantSample inlet outlet flow) s =
      .next (deratingEvent (coolantValue inlet flow) s.power.derating (coolantRead inlet outlet flow s)) := by
  generalize ht : deratingEvent (coolantValue inlet flow) s.power.derating (coolantRead inlet outlet flow s) = t
  have pilot : t.pilot = s.pilot := by rw [← ht, (deratingEvent_keeps ..).only .pilot rfl]; rfl
  have warm : ¬(inlet < 200 ∧ (!s.power.cold) = true) := fun h => absurd h.1 (not_lt.mpr hwarm)
  have done (c : Prop) [Decidable c] : advanceUp (if c then wakeFire [89] t else t) = t := by
    rw [wakeFire_awake _ (by rw [pilot]; exact hawake), ite_self, advanceUp_up (by rw [pilot]; exact h12)]
  show execCoolantSample inlet outlet flow s = _
  unfold execCoolantSample
  dsimp only
  rw [if_neg warm]
  refine congrArg _ (Eq.trans ?_ (done ((s.power.inlet > 450 || s.power.flow < 200) = true ∧ inlet ≤ 450 ∧ flow ≥ 200)))
  rw [← ht]
  rfl

theorem coolantSample_reads {inlet : Int} {s : State} (h12 : s.pilot.step = 12) (hawake : s.pilot.sleep = 0) (hwarm : 200 ≤ inlet)
    (outlet : Int) (flow : Nat) :
    Completes (.coolantSample inlet outlet flow) s (fun t =>
      t.power = { s.power with inlet := inlet, outlet := outlet, flow := flow, coolantS := coolantValue inlet flow
                               derating := coolantValue inlet flow < 30000, cold := false } ∧
      if coolantValue inlet flow < 30000 ∧ s.power.derating = false then Raised (evCtl 0x045 1 (activeCtl s) 0) s t
      else if 30000 ≤ coolantValue inlet flow ∧ s.power.derating = true then Raised (evCtl 0x046 0 (activeCtl s) 0) s t
      else t.events = s.events) := by
  have notCold : decide (inlet < 200) = false := decide_eq_false (not_lt.mpr hwarm)
  refine completes_of_exec (exec_coolantSample h12 hawake hwarm outlet flow) ⟨?_, ?_⟩
  · rw [(deratingEvent_keeps ..).only .power rfl]
    unfold coolantRead
    rw [notCold]
  · have told (e : EvReq) : Raised e s (raise e (coolantRead inlet outlet flow s)) := raise_events e rfl
    have control : activeCtl (coolantRead inlet outlet flow s) = activeCtl s := rfl
    have events : (coolantRead inlet outlet flow s).events = s.events := rfl
    unfold deratingEvent
    rw [control]
    by_cases hv : coolantValue inlet flow < 30000 <;> cases s.power.derating
    · simp [hv, told]
    · simp [hv, Nat.not_le.mpr hv, events]
    · simp [hv, events]
    · simp [hv, Nat.not_lt.mp hv, told]

/-- Settles O18: good readings and a single hot field leave one branch each of the sample and of the thermal period. -/
theorem heatAndCoolantStepTheFields : Obligations.HeatAndCoolantStepTheFields := by
  unfold Obligations.HeatAndCoolantStepTheFields
  intro s
  refine ⟨?_, ?_, ?_, ?_⟩
  · exact fun f xs hf hlen hold hgood hcool => sensorSample_of_good hf hlen hold hgood hcool
  · exact fun f hf hheld hhot hfloor hothers hsteps _ => thermalPeriod_adds hf hheld hhot hfloor hothers hsteps
  · exact thermalPeriod_idle
  · exact fun inlet outlet flow h12 hawake hwarm => coolantSample_reads h12 hawake hwarm outlet flow

end Sys2Proof.Machine
end

section
/-!
PROOF. The Assay's pulses, its log and its programming mode (R347 to R352).
-/

namespace Sys2Proof.Machine

open Sys2Proof

/-- The Assay with an entry at the end of its log (R349). -/
def withEntry (kind a b t : Nat) (v : AssayS) : AssayS :=
  { v with log := v.log ++ [(kind, t, a, b)], logFull := v.log.length + 1 = 1024 }

theorem assayLog_with_room {kind a b : Nat} {s : State} (h : s.assay.log.length < 1024) :
    (assayLog kind a b s).assay = withEntry kind a b (now s) s.assay := by
  unfold assayLog
  rw [if_pos h]
  rfl

/-- A log entry changes the log and the lost events only. -/
theorem assayLog_kept (kind a b : Nat) (s : State) : ∃ log full lost,
    (assayLog kind a b s).assay = { s.assay with log := log, logFull := full, lostEvents := lost } := by
  unfold assayLog
  dsimp only
  split
  · exact ⟨_, _, _, rfl⟩
  · split
    · exact ⟨_, _, _, rfl⟩
    · exact ⟨_, _, _, rfl⟩

/-- The entry that a change of the Assay leaves in its log (R349). -/
def Logged (kind a b t : Nat) (old : List (Nat × Nat × Nat × Nat)) (v : AssayS) : Prop :=
  v.log = old ++ [(kind, t, a, b)] ∧ v.logFull = (decide (old.length + 1 = 1024))

theorem logged_withEntry (kind a b t : Nat) (v : AssayS) : Logged kind a b t v.log (withEntry kind a b t v) := ⟨rfl, rfl⟩

/-! ## Pulses and the LED check -/

/-- A diagnostic pulse would come within a second of the last one, or within 10 ms of a metrological one (R350). -/
def TooSoon (s : State) : Prop :=
  (∃ d, s.assay.lastDiag = some d ∧ now s < d + secT) ∨ (∃ m, s.assay.lastPulse = some m ∧ now s < m + 10 * msT)

/-- The diagnostic pulse's own two tests (R350). -/
def pulseBlocked (s : State) : Bool :=
  (match s.assay.lastDiag with | some d => decide (now s < d + secT) | none => false) ||
  (match s.assay.lastPulse with | some m => decide (now s < m + 10 * msT) | none => false)

theorem pulseBlocked_iff (s : State) : pulseBlocked s = true ↔ TooSoon s := by
  unfold pulseBlocked TooSoon
  rw [Bool.or_eq_true]
  refine or_congr ?_ ?_
  · cases s.assay.lastDiag <;> simp
  · cases s.assay.lastPulse <;> simp

theorem exec_diagnosticPulse (s : State) : exec .diagnosticPulse s =
    .next (if pulseBlocked s then s
      else { s with assay := { s.assay with windowDiag := s.assay.windowDiag + 1, lastDiag := some (now s) } }) := rfl

theorem diagnosticPulse_sent {s : State} (h : ¬TooSoon s) : Completes .diagnosticPulse s (fun t =>
    t.assay = { s.assay with windowDiag := s.assay.windowDiag + 1, lastDiag := some (now s) }) := by
  have free : ¬pulseBlocked s = true := fun hb => h ((pulseBlocked_iff s).mp hb)
  have hc := exec_diagnosticPulse s
  rw [if_neg free] at hc
  exact completes_of_exec hc rfl

theorem diagnosticPulse_blocked {s : State} (h : TooSoon s) : Completes .diagnosticPulse s (fun t => t = s) := by
  have hc := exec_diagnosticPulse s
  rw [if_pos ((pulseBlocked_iff s).mpr h)] at hc
  exact completes_of_exec hc rfl

/-- The result of an LED check window (R351). -/
def ledResult (drive optical : Bool) (v : AssayS) : LedCheck :=
  if drive = false then .failed
  else if 2000 * v.windowPulses + 20 * v.windowDiag < 4000 then .unverified else if optical then .good else .failed

/-- The Assay at the start of new counts (R351). -/
def windowEnded (r : LedCheck) (s : State) : State := { s with assay := { s.assay with led := r, windowPulses := 0, windowDiag := 0 } }

theorem exec_ledCheckWindow (drive optical : Bool) (s : State) : exec (.ledCheckWindow drive optical) s =
    .next (if ledResult drive optical s.assay = s.assay.led then windowEnded (ledResult drive optical s.assay) s
      else assayLog 6 (ledCode s.assay.led) (ledCode (ledResult drive optical s.assay)) (windowEnded (ledResult drive optical s.assay) s)) := by
  cases drive <;> rfl

theorem ledCheckWindow_yields (drive optical : Bool) (s : State) :
    Completes (.ledCheckWindow drive optical) s (fun t =>
      t.assay.led = ledResult drive optical s.assay ∧
      t.assay.windowPulses = 0 ∧ t.assay.windowDiag = 0 ∧ t.assay.pulses = s.assay.pulses ∧ t.assay.energy = s.assay.energy ∧
      (t.assay.led = s.assay.led → t.assay.log = s.assay.log) ∧
      (t.assay.led ≠ s.assay.led → s.assay.log.length < 1024 →
        Logged 6 (ledCode s.assay.led) (ledCode t.assay.led) (now s) s.assay.log t.assay)) := by
  have hc := exec_ledCheckWindow drive optical s
  generalize ledResult drive optical s.assay = r at hc
  by_cases hr : r = s.assay.led
  · rw [if_pos hr] at hc
    exact completes_of_exec hc ⟨rfl, rfl, rfl, rfl, rfl, fun _ => rfl, fun h => absurd hr h⟩
  · rw [if_neg hr] at hc
    obtain ⟨log, full, lost, kept⟩ := assayLog_kept 6 (ledCode s.assay.led) (ledCode r) (windowEnded r s)
    refine completes_of_exec hc ⟨?_, ?_, ?_, ?_, ?_, fun h => absurd ?_ hr, fun _ hroom => ?_⟩
    case refine_6 => rw [kept] at h; exact h
    case refine_7 =>
      have entry := assayLog_with_room (kind := 6) (a := ledCode s.assay.led) (b := ledCode r) (s := windowEnded r s) hroom
      rw [entry]
      exact logged_withEntry ..
    all_goals rw [kept]; rfl

/-! ## Programming mode -/

theorem programmingMode_entered {s : State} (hroom : s.assay.log.length < 1024) :
    Completes (.programmingMode true true) s (fun t =>
      t.assay.programming = true ∧ t.assay.sealHeld = true ∧ Logged 2 0 0 (now s) s.assay.log t.assay ∧ t.assay.params = s.assay.params) := by
  have hc : exec (.programmingMode true true) s =
      .next (assayLog 2 0 0 { s with assay := { s.assay with sealHeld := true, programming := true } }) := rfl
  have entry := assayLog_with_room (kind := 2) (a := 0) (b := 0)
    (s := { s with assay := { s.assay with sealHeld := true, programming := true } }) hroom
  refine completes_of_exec hc ?_
  rw [entry]
  exact ⟨rfl, rfl, logged_withEntry .., rfl⟩

theorem exec_programmingMode_released (password : Bool) (s : State) :
    exec (.programmingMode false password) s = .next { s with assay := { s.assay with sealHeld := false, programming := false } } := by
  show execProgrammingMode false password s = _
  unfold execProgrammingMode
  simp

theorem exec_programmingMode_refused (s : State) :
    exec (.programmingMode true false) s = .next { s with assay := { s.assay with sealHeld := true } } := by
  show execProgrammingMode true false s = _
  unfold execProgrammingMode
  simp

/-- A change of the Assay that programming mode allows, without its log entry (R347, R349). -/
def changed (c : AssayChange) (v : AssayS) : AssayS :=
  match c with
  | .parameter i x => { v with params := amSet v.params i x }
  | .firmware k => { v with checksum := k }
  | .clearCase => { v with caseOpen := false }

/-- The log entry of a change (R349): its kind and two figures. -/
def changeEntry (c : AssayChange) (v : AssayS) : Nat × Nat × Nat :=
  match c with
  | .parameter i x => (3, i, x)
  | .firmware k => (4, v.checksum.toNat, k.toNat)
  | .clearCase => (3, 0, 0)

/-- A change with its log entry. -/
def changeLogged (c : AssayChange) (t : Nat) (v : AssayS) : AssayS :=
  withEntry (changeEntry c v).1 (changeEntry c v).2.1 (changeEntry c v).2.2 t (changed c v)

theorem assayParameterChange_made (c : AssayChange) {s : State} (hp : s.assay.programming = true) (hf : s.assay.logFull = false)
    (hroom : s.assay.log.length < 1024) :
    exec (.assayParameterChange c) s = .next { s with assay := changeLogged c (now s) s.assay } := by
  have open' : ¬((!s.assay.programming || s.assay.logFull) = true) := by simp [hp, hf]
  show execAssayParameterChange c s = _
  unfold execAssayParameterChange
  rw [if_neg open']
  cases c <;> exact congrArg _ (if_pos hroom)

theorem assayParameterChange_refused (c : AssayChange) {s : State} (h : s.assay.programming = false ∨ s.assay.logFull = true) :
    Completes (.assayParameterChange c) s (fun t => t = s) := by
  have closed : (!s.assay.programming || s.assay.logFull) = true := by
    obtain h | h := h <;> simp [h]
  have hc : exec (.assayParameterChange c) s = .next s := by
    show execAssayParameterChange c s = _
    unfold execAssayParameterChange
    rw [if_pos closed]
  exact completes_of_exec hc rfl

/-! ## Clearing and the case -/

theorem logClear_cleared {s : State} (hp : s.assay.programming = true) (hf : s.assay.logFull = true) :
    Completes .logClear s (fun t =>
      Logged 7 s.assay.log.length 0 (now s) [] t.assay ∧ t.assay.readouts = s.assay.readouts ++ [assayReadout s] ∧
      t.assay.programming = true) := by
  have open' : ¬((!s.assay.programming || !s.assay.logFull) = true) := by simp [hp, hf]
  have hc : exec .logClear s = .next (assayLog 7 s.assay.log.length 0
      { putReadout s with assay := { (putReadout s).assay with log := [], logFull := false } }) := by
    show execLogClear s = _
    unfold execLogClear
    rw [if_neg open']
  have entry := assayLog_with_room (kind := 7) (a := s.assay.log.length) (b := 0)
    (s := { putReadout s with assay := { (putReadout s).assay with log := [], logFull := false } })
    (by decide +kernel : (([] : List (Nat × Nat × Nat × Nat)).length < 1024))
  refine completes_of_exec hc ?_
  rw [entry]
  exact ⟨⟨rfl, rfl⟩, rfl, hp⟩

theorem logClear_refused {s : State} (h : s.assay.programming = false ∨ s.assay.logFull = false) :
    Completes .logClear s (fun t => t = s) := by
  have closed : (!s.assay.programming || !s.assay.logFull) = true := by
    obtain h | h := h <;> simp [h]
  have hc : exec .logClear s = .next s := by
    show execLogClear s = _
    unfold execLogClear
    rw [if_pos closed]
  exact completes_of_exec hc rfl

theorem exec_caseOpened (s : State) :
    exec .caseOpened s = .next (assayLog 5 0 0 { s with assay := { s.assay with caseOpen := true } }) := rfl

theorem caseOpened_logged {s : State} (hroom : s.assay.log.length < 1024) :
    Completes .caseOpened s (fun t => t.assay.caseOpen = true ∧ Logged 5 0 0 (now s) s.assay.log t.assay) := by
  have entry := assayLog_with_room (kind := 5) (a := 0) (b := 0) (s := { s with assay := { s.assay with caseOpen := true } }) hroom
  refine completes_of_exec (exec_caseOpened s) ?_
  rw [entry]
  exact ⟨rfl, logged_withEntry ..⟩

theorem caseOpened_lost {s : State} (hfull : 1024 ≤ s.assay.log.length) :
    Completes .caseOpened s (fun t =>
      t.assay = { s.assay with caseOpen := true, lostEvents := min 0xFFFF (s.assay.lostEvents + 1) }) := by
  refine completes_of_exec (exec_caseOpened s) ?_
  unfold assayLog
  dsimp only
  rw [if_neg (Nat.not_lt.mpr hfull), if_pos (.inr rfl)]

/-- Settles O21, one command after another: each change is followed by its own log entry. -/
theorem theAssayKeepsItsPulsesAndLog : Obligations.TheAssayKeepsItsPulsesAndLog := by
  unfold Obligations.TheAssayKeepsItsPulsesAndLog
  intro s
  refine ⟨?_, ?_, diagnosticPulse_blocked, ?_, programmingMode_entered, ?_, ?_, ?_, ?_, ?_, logClear_cleared, logClear_refused, ?_,
    caseOpened_logged, caseOpened_lost⟩
  · exact completes_of_exec rfl rfl
  · intro hdiag hpulse
    refine diagnosticPulse_sent ?_
    rintro (⟨d, hd, hlt⟩ | ⟨m, hm, hlt⟩)
    · exact absurd (hdiag d hd) (Nat.not_le.mpr hlt)
    · exact absurd (hpulse m hm) (Nat.not_le.mpr hlt)
  · exact fun drive optical => ledCheckWindow_yields drive optical s
  · exact fun password => completes_of_exec (exec_programmingMode_released password s) rfl
  · exact completes_of_exec (exec_programmingMode_refused s) rfl
  · exact completes_of_exec rfl rfl
  · intro hp hf hroom
    refine ⟨fun i x => ?_, fun k => ?_, ?_⟩
    · refine completes_of_exec (assayParameterChange_made (.parameter i x) hp hf hroom) ⟨?_, fun j hj => ?_, logged_withEntry ..⟩
      · exact (amFind_amSet ..).trans (if_pos rfl)
      · exact (amFind_amSet ..).trans (if_neg hj)
    · exact completes_of_exec (assayParameterChange_made (.firmware k) hp hf hroom) ⟨rfl, rfl, logged_withEntry ..⟩
    · exact completes_of_exec (assayParameterChange_made .clearCase hp hf hroom) ⟨rfl, rfl, logged_withEntry ..⟩
  · exact fun c h => assayParameterChange_refused c h
  · exact completes_of_exec rfl rfl

end Sys2Proof.Machine
end

section
/-!
PROOF. The life of a partition: creation (R370), delete (R371) and scrub (R380).
-/

namespace Sys2Proof.Machine

open Sys2Proof

/-! ## Tables -/

theorem amFind_filter {α : Type} (m : AMap α) (q : Nat × α → Bool) (k : Nat) (h : ∀ a, q (k, a) = true) :
    amFind (m.filter q) k = amFind m k := by
  induction m with
  | nil => rfl
  | cons e m ih =>
    obtain ⟨j, a⟩ := e
    by_cases hj : j = k
    · subst hj
      rw [List.filter_cons_of_pos (h a)]
      simp [amFind]
    · rw [List.filter_cons]
      split <;> simp [amFind, hj, ih]

theorem amFind_amDel {α : Type} (m : AMap α) (k x : Nat) : amFind (amDel m k) x = if x = k then none else amFind m x := by
  induction m with
  | nil => simp [amDel, amFind]
  | cons e m ih =>
    obtain ⟨j, a⟩ := e
    unfold amDel at ih ⊢
    rw [List.filter_cons]
    by_cases hj : j = k
    · subst hj
      rw [if_neg (by simp), ih]
      by_cases hx : x = j
      · simp [hx]
      · have hne : ¬j = x := fun h => hx h.symm
        simp [hx, amFind, hne]
    · rw [if_pos (by simpa using hj)]
      by_cases hx : x = k
      · subst hx
        simpa [amFind, hj] using ih
      · simp only [amFind, ih, if_neg hx]

theorem amSet_amSet {α : Type} (m : AMap α) (k : Nat) (a b : α) : amSet (amSet m k a) k b = amSet m k b := by
  induction m with
  | nil => simp [amSet]
  | cons e m ih =>
    obtain ⟨j, c⟩ := e
    by_cases h1 : k < j
    · simp [amSet, h1]
    · by_cases h2 : k = j
      · simp [amSet, h2]
      · simp [amSet, h1, h2, ih]

/-- The sum of the reservations of a table of partitions (R330). -/
def reservedSum (m : AMap Part) : Nat := (m.map (fun e => e.2.reservation)).sum

theorem reservedSum_amSet_new {m : AMap Part} {p : Nat} (h : amFind m p = none) (a : Part) :
    reservedSum (amSet m p a) = reservedSum m + a.reservation := by
  induction m with
  | nil => simp [amSet, reservedSum]
  | cons e m ih =>
    obtain ⟨j, c⟩ := e
    have hj : j ≠ p := by
      rintro rfl
      simp [amFind] at h
    have hm : amFind m p = none := by simpa [amFind, hj] using h
    have rest := ih hm
    unfold reservedSum at rest ⊢
    unfold amSet
    split
    · simp only [List.map_cons, List.sum_cons]
      omega
    · rw [if_neg fun h => hj h.symm]
      simp only [List.map_cons, List.sum_cons]
      omega

theorem reservedSum_amSet_le (m : AMap Part) (p : Nat) (a : Part) :
    reservedSum (amSet m p a) ≤ reservedSum m + a.reservation := by
  induction m with
  | nil => simp [amSet, reservedSum]
  | cons e m ih =>
    obtain ⟨j, c⟩ := e
    unfold reservedSum at ih ⊢
    unfold amSet
    split
    · simp only [List.map_cons, List.sum_cons]
      omega
    · split
      · simp only [List.map_cons, List.sum_cons]
        omega
      · simp only [List.map_cons, List.sum_cons]
        omega

theorem modPart_parts {p : Nat} {s : State} {a : Part} (h : getPart s p = some a) (g : Part → Part) :
    (modPart p g s).parts = amSet s.parts p (g a) := by
  unfold getPart at h
  unfold modPart
  rw [h]

/-! ## The fields of a partition -/

/-- Gives fields an owner. -/
def ownFields (o : FieldOwner) (fs : List Nat) (s : State) : State := fs.foldl (fun s f => modFld f (fun x => { x with owner := o }) s) s

theorem ownFields_keeps (o : FieldOwner) (fs : List Nat) (s : State) : Keeps [.fld] s (ownFields o fs s) :=
  Keeps.foldl (Keeps.refl _ s) fun _ _ h => h.step (modFld_keeps ..) rfl

theorem getFld_ownFields (o : FieldOwner) (fs : List Nat) (s : State) (x : Nat) :
    getFld (ownFields o fs s) x = if x ∈ fs then { getFld s x with owner := o } else getFld s x := by
  induction fs generalizing s with
  | nil => rfl
  | cons f fs ih =>
    refine (ih (modFld f (fun x => { x with owner := o }) s)).trans ?_
    rw [getFld_modFld]
    by_cases hx : x = f
    · subst hx
      simp
    · simp [hx]

theorem foldl_cons_one {α β : Type} (g : α → β → α) (a : α) (b : β) (l : List β) : (b :: l).foldl g a = l.foldl g ([b].foldl g a) := rfl

theorem spanFields_cons (f : Nat) (fs : List Nat) (valid : Bool) (s : State) :
    spanFields (f :: fs) valid s = spanFields fs valid (spanFields [f] valid s) := by
  unfold spanFields
  exact foldl_cons_one _ _ _ _

theorem getFld_spanFields_one (f : Nat) (valid : Bool) (s : State) (x : Nat) :
    ∃ g, getFld (spanFields [f] valid s) x = if x = f then { getFld s x with spanGen := g, spanValid := valid } else getFld s x := by
  refine ⟨s.fabric.spanGen + 1, ?_⟩
  unfold spanFields
  rw [List.foldl_cons, List.foldl_nil]
  dsimp only
  rw [getFld_congr ((raiseAll_keeps _ _).only .fld rfl)]
  refine (getFld_congr (s := modFld f (fun x => { x with spanGen := s.fabric.spanGen + 1, spanValid := valid }) s) rfl x).trans ?_
  rw [getFld_modFld]
  by_cases hx : x = f
  · rw [if_pos hx, if_pos hx, hx]
  · rw [if_neg hx, if_neg hx]

theorem getFld_spanFields (fs : List Nat) (valid : Bool) (s : State) (x : Nat) :
    ∃ g, getFld (spanFields fs valid s) x = if x ∈ fs then { getFld s x with spanGen := g, spanValid := valid } else getFld s x := by
  induction fs generalizing s with
  | nil => exact ⟨0, rfl⟩
  | cons f fs ih =>
    obtain ⟨g, hg⟩ := ih (spanFields [f] valid s)
    obtain ⟨k, hk⟩ := getFld_spanFields_one f valid s x
    rw [spanFields_cons, hg, hk]
    by_cases hin : x ∈ fs
    · refine ⟨g, ?_⟩
      by_cases hx : x = f
      · subst hx
        simp [hin]
      · simp [hin, hx]
    · refine ⟨k, ?_⟩
      by_cases hx : x = f
      · subst hx
        simp [hin]
      · simp [hin, hx]

/-! ## Events of a partition -/

theorem evPart_congr {s t : State} (hl : t.lease = s.lease) (hp : t.parts = s.parts) (code kind p detail : Nat) :
    evPart t code kind p detail = evPart s code kind p detail := by
  unfold evPart activeCtl
  rw [hl, getPart_congr hp]

/-- The last request of a change, and what followed it wrote neither events, partitions nor the lease. -/
theorem lastRaised_evPart {s t : State} {code kind p detail : Nat} (h : Only [.settings] (raise (evPart s code kind p detail) s) t) :
    LastRaised (evPart t code kind p detail) t := by
  have hl : t.lease = s.lease := (h .lease rfl).trans (raise_lease ..)
  have hp : t.parts = s.parts := (h .parts rfl).trans (raise_parts ..)
  rw [evPart_congr hl hp]
  exact ⟨s, h .events rfl⟩

/-! ## Creation -/

/-- The record of a partition that is created without one that is kept (R370). -/
def newPart (fx fy w h domain role : Nat) : Part :=
  { ({} : Part) with fx := fx, fy := fy, width := w, height := h, domain := domain, role := role, pstate := .ready }

/-- The partition and its fields, before its budget (R370). -/
def partMade (fx fy w h domain role : Nat) (s : State) : State :=
  let p := fy * 8 + fx
  let fs := rectFields fx fy w h
  let s := { s with parts := amSet s.parts p (newPart fx fy w h domain role) }
  let s := clearCrest (fun i => i < 14336 && fs.contains (i / 256)) (spanFields fs true (ownFields (.held p) fs s))
  dropBoot p (dropPartSettings p s)

theorem createPart_eq (fx fy w h domain role : Nat) (s : State) : createPart fx fy w h domain role none s =
    noteChange (raise (evPart (applyRole (fy * 8 + fx) role (partMade fx fy w h domain role s)) 0x303 0 (fy * 8 + fx) 0)
      (applyRole (fy * 8 + fx) role (partMade fx fy w h domain role s))) := rfl

theorem partMade_parts (fx fy w h domain role : Nat) (s : State) :
    (partMade fx fy w h domain role s).parts = amSet s.parts (fy * 8 + fx) (newPart fx fy w h domain role) := by
  unfold partMade
  extract_lets p fs u v
  have late : Only [.fld, .events, .crest, .fabric, .settings, .regs] u (dropBoot p (dropPartSettings p v)) :=
    (((((ownFields_keeps (.held p) fs u).mono rfl).step (spanFields_keeps _ _ _) rfl).step (clearCrest_keeps _ _) rfl).step
      (dropPartSettings_keeps p v) rfl |>.step (dropBoot_keeps _ _) rfl).only
  exact late .parts rfl

theorem getFld_partMade (fx fy w h domain role : Nat) (s : State) (x : Nat) :
    ∃ g, getFld (partMade fx fy w h domain role s) x = if x ∈ rectFields fx fy w h then
      { getFld s x with owner := .held (fy * 8 + fx), spanGen := g, spanValid := true } else getFld s x := by
  unfold partMade
  extract_lets p fs u v
  have late : Only [.crest, .settings, .regs] (spanFields fs true (ownFields (.held p) fs u)) (dropBoot p (dropPartSettings p v)) :=
    ((((clearCrest_keeps _ _).mono rfl).step (dropPartSettings_keeps p v) rfl).step (dropBoot_keeps _ _) rfl).only
  obtain ⟨g, hg⟩ := getFld_spanFields fs true (ownFields (.held p) fs u) x
  refine ⟨g, ?_⟩
  rw [getFld_congr (late .fld rfl), hg, getFld_ownFields]
  have same : getFld u x = getFld s x := rfl
  by_cases hx : x ∈ fs
  · rw [if_pos hx, if_pos hx, if_pos hx, same]
  · rw [if_neg hx, if_neg hx, if_neg hx, same]

/-- The settings of one partition's own objects aside, the registers are as they were. -/
theorem reg_dropPartSettings (p : Nat) (s : State) {key : Nat} (h : partSettings.contains (key / 256) = false) (d : Nat) :
    reg (dropPartSettings p s) key d = reg s key d := by
  unfold reg amGet dropPartSettings
  dsimp only
  rw [amFind_filter _ _ _ fun a => by simp only [h, Bool.false_and, Bool.not_false]]

theorem reg_partMade (fx fy w h domain role : Nat) (s : State) {key : Nat} (hk : partSettings.contains (key / 256) = false) (d : Nat) :
    reg (partMade fx fy w h domain role s) key d = reg s key d := by
  unfold partMade
  extract_lets p fs u v
  have boot : reg (dropBoot p (dropPartSettings p v)) key d = reg (dropPartSettings p v) key d := rfl
  have early : v.regs = s.regs :=
    ((((ownFields_keeps (.held p) fs u).mono rfl).step (spanFields_keeps _ _ _) rfl).step (clearCrest_keeps _ _) rfl :
      Keeps [.fld, .events, .fabric, .crest] u v).only .regs rfl
  rw [boot, reg_dropPartSettings p v hk]
  unfold reg
  rw [early]

/-- What a budget leaves where no cadence is admitted (R329, R330). -/
def budgeted (want weight limit sum g : Nat) (a : Part) : Part :=
  { a with reservation := min (want / g * g) ((limit - (sum - a.reservation)) / g * g), weight := weight
           inForce := (min (want / g * g) ((limit - (sum - a.reservation)) / g * g), weight) }

theorem getPart_reserve {p : Nat} {s : State} {a : Part} (ha : getPart s p = some a) (hc : a.cadence = none) (want weight x : Nat) :
    getPart (reserve p want weight s) x =
      if x = p then some (budgeted want weight (setting s 0x2200 8) (sumReserved s) (granularity s) a) else getPart s x := by
  have hn : a.cadence.isSome = false := by rw [hc]; rfl
  have got (e : EvReq) (c : Prop) [Decidable c] (t : State) : getPart (if c then raise e t else t) x = getPart t x := by
    split
    · rw [getPart_raise]
    · rfl
  unfold reserve
  rw [ha]
  dsimp only
  rw [hn, got, getPart_modPart]
  by_cases hx : x = p
  · subst hx
    rw [if_pos rfl, if_pos rfl, ha]
    rfl
  · rw [if_neg hx, if_neg hx]

theorem getPart_applyRole {p role : Nat} {s : State} {a : Part} (ha : getPart s p = some a) (hc : a.cadence = none)
    (x : Nat) :
    getPart (applyRole p role s) x = if x = p then
      some (budgeted ((roleBudget role).1 * (a.width * a.height)) (roleBudget role).2 (setting s 0x2200 8)
        (reservedSum (amSet s.parts p { a with role := role })) (granularity s) { a with role := role }) else getPart s x := by
  have found : getPart (modPart p (fun a => { a with role := role }) s) p = some { a with role := role } := by
    rw [getPart_modPart, if_pos rfl, ha]
    rfl
  have regs : (modPart p (fun a => { a with role := role }) s).regs = s.regs := (modPart_keeps ..).only .regs rfl
  have g : granularity (modPart p (fun a => { a with role := role }) s) = granularity s := by
    unfold granularity reg
    rw [regs]
  unfold applyRole
  rw [ha]
  dsimp only
  rw [getPart_reserve found hc, setting_congr regs, g]
  have sum : sumReserved (modPart p (fun a => { a with role := role }) s) = reservedSum (amSet s.parts p { a with role := role }) := by
    unfold sumReserved
    rw [modPart_parts ha]
    rfl
  rw [sum, getPart_modPart]
  by_cases hx : x = p
  · rw [if_pos hx, if_pos hx]
  · rw [if_neg hx, if_neg hx, if_neg hx]

/-- What a creation makes (R370): its partition with the role's budget. -/
theorem getPart_createPart {fx fy w h domain role : Nat} {s : State} (hn : getPart s (fy * 8 + fx) = none) (x : Nat) :
    getPart (createPart fx fy w h domain role none s) x = if x = fy * 8 + fx then
      some (budgeted ((roleBudget role).1 * (w * h)) (roleBudget role).2 (setting s 0x2200 8) (sumReserved s) (granularity s)
        (newPart fx fy w h domain role)) else getPart s x := by
  generalize hp : fy * 8 + fx = p at hn ⊢
  have parts := partMade_parts fx fy w h domain role s
  have limit : setting (partMade fx fy w h domain role s) 0x2200 8 = setting s 0x2200 8 :=
    reg_partMade fx fy w h domain role s (by decide) _
  have gran : granularity (partMade fx fy w h domain role s) = granularity s := by
    unfold granularity
    rw [reg_partMade fx fy w h domain role s (by decide)]
  have kept (u : State) (e : EvReq) : getPart (noteChange (raise e u)) x = getPart u x := by
    rw [getPart_congr ((noteChange_keeps _).only .parts rfl), getPart_raise]
  rw [hp] at parts
  rw [createPart_eq, kept, hp]
  generalize partMade fx fy w h domain role s = u at parts limit gran
  have found : getPart u p = some (newPart fx fy w h domain role) := by
    unfold getPart
    rw [parts, amFind_amSet, if_pos rfl]
  have sum : reservedSum (amSet u.parts p { newPart fx fy w h domain role with role := role }) = sumReserved s := by
    rw [parts, amSet_amSet]
    exact (reservedSum_amSet_new hn _).trans (Nat.add_zero _)
  have others (hx : x ≠ p) : getPart u x = getPart s x := by
    unfold getPart
    rw [parts, amFind_amSet, if_neg hx]
  rw [getPart_applyRole found rfl, sum, limit, gran]
  by_cases hx : x = p
  · rw [if_pos hx, if_pos hx]
    rfl
  · rw [if_neg hx, if_neg hx, others hx]

theorem getFld_createPart (fx fy w h domain role : Nat) (s : State) (x : Nat) :
    ∃ g, getFld (createPart fx fy w h domain role none s) x = if x ∈ rectFields fx fy w h then
      { getFld s x with owner := .held (fy * 8 + fx), spanGen := g, spanValid := true } else getFld s x := by
  obtain ⟨g, hg⟩ := getFld_partMade fx fy w h domain role s x
  refine ⟨g, ?_⟩
  rw [← hg, createPart_eq]
  have role' := (applyRole_keeps (fy * 8 + fx) role (partMade fx fy w h domain role s)).only
  generalize applyRole (fy * 8 + fx) role (partMade fx fy w h domain role s) = v at role'
  rw [getFld_congr ((noteChange_keeps _).only .fld rfl), getFld_raise, getFld_congr (role' .fld rfl)]

/-! ## The objects of creation and delete -/

/-- Object 0x2400:01: the creation of a partition, which a permit of the operator carries (R370, R391). -/
def createObj : Obj := ⟨0x2400, 1, 1, 4, 4, .rwp, [.operator], .single, 0, 4294967295, none, true⟩

/-- Object 0x2400:02: the delete of a partition (R371, R391). -/
def deleteObj : Obj := ⟨0x2400, 2, 2, 2, 1, .rwp, [.operator], .single, 0, 55, none, true⟩

theorem findObj_create : findObj 0x2400 1 = some createObj := by decide +kernel

theorem findObj_delete : findObj 0x2400 2 = some deleteObj := by decide +kernel

theorem permitted_create (bs : List Byte) (s : State) : permitted .operator 0x2400 1 bs s =
    ((tryCreate (leNat bs) s).1, if (tryCreate (leNat bs) s).1 then putNum 0x2400 1 (leNat bs) (tryCreate (leNat bs) s).2
      else (tryCreate (leNat bs) s).2) := rfl

theorem permitted_delete (bs : List Byte) (s : State) : permitted .operator 0x2400 2 bs s =
    if (getPart s (leNat bs)).isSome then (true, deletePart (leNat bs) (putNum 0x2400 2 (leNat bs) s)) else (false, s) := rfl

theorem grant_create {v : Nat} (hv : v < 2 ^ 32) (s : State) :
    grant .operator 0x2400 1 (leBytes 4 v) s =
      if (tryCreate v s).1 then noteWrite createObj 1 (putNum 0x2400 1 v (tryCreate v s).2) else (tryCreate v s).2 := by
  have value : leNat (leBytes 4 v) = v := leNat_leBytes 4 v hv
  have low : v ≤ 4294967295 := by omega
  have range : inRange s createObj 1 (leNat (leBytes 4 v)) = true := by
    rw [value]
    simp [inRange, createObj, low]
  rw [grant_of_found findObj_create (entryMissing_of_not_part rfl ..) fun _ => range]
  rw [permitted_create, value]
  cases (tryCreate v s).1 <;> rfl

theorem grant_delete {p : Nat} (hp : p < 56) (s : State) :
    grant .operator 0x2400 2 (leBytes 1 p) s =
      if (getPart s p).isSome then noteWrite deleteObj 2 (deletePart p (putNum 0x2400 2 p s)) else s := by
  have value : leNat (leBytes 1 p) = p := leNat_leBytes 1 p (by omega)
  have low : p ≤ 55 := by omega
  have range : inRange s deleteObj 2 (leNat (leBytes 1 p)) = true := by
    rw [value]
    simp [inRange, deleteObj, low]
  rw [grant_of_found findObj_delete (entryMissing_of_not_part rfl ..) fun _ => range]
  rw [permitted_delete, value]
  cases (getPart s p).isSome <;> rfl

theorem exec_partitionDelete {p : Nat} (hp : p < 56) (s : State) : exec (.partitionDelete p) s =
    .next (if (getPart s p).isSome then noteWrite deleteObj 2 (deletePart p (putNum 0x2400 2 p s)) else s) := by
  rw [← grant_delete hp]
  show execPartitionDelete p s = _
  unfold execPartitionDelete
  rw [if_pos hp]

/-- The rectangle and the role that a value of 0x2400:01 names (R391). -/
structure Creation where
  fx : Nat
  fy : Nat
  w : Nat
  h : Nat
  domain : Nat
  role : Nat

/-- The fields of a value of 0x2400:01 (R391). -/
def creationOf (v : Nat) : Creation :=
  ⟨bitsOf v 31 29, bitsOf v 28 26, bitsOf v 25 23 + 1, bitsOf v 22 20 + 1, bitsOf v 19 14, bitsOf v 13 12⟩

theorem tryCreate_allowed {v : Nat} {s : State} {c : Creation} (hc : creationOf v = c)
    (h : mayCreate s c.fx c.fy c.w c.h c.domain c.role = true) :
    tryCreate v s = (true, createPart c.fx c.fy c.w c.h c.domain c.role none s) := by
  subst hc
  exact if_pos h

theorem tryCreate_refused {v : Nat} {s : State} {c : Creation} (hc : creationOf v = c)
    (h : mayCreate s c.fx c.fy c.w c.h c.domain c.role = false) :
    tryCreate v s = (false, raise (evCtl 0x302 2 (activeCtl s) v) s) := by
  subst hc
  exact if_neg fun h' => absurd (h.symm.trans h') (by decide)

/-- A value written to the object of creation or of delete is a register. -/
theorem putNum_2400_keeps (sub v : Nat) (s : State) : Keeps [.regs] s (putNum 0x2400 sub v s) := setReg_keeps ..

theorem partitionCreate_allowed {value : Word32} {s : State} {c : Creation} (hc : creationOf value.toNat = c)
    (h : mayCreate s c.fx c.fy c.w c.h c.domain c.role = true) (hn : getPart s (c.fy * 8 + c.fx) = none) :
    Completes (.partitionCreate value) s (fun t =>
      (∃ a, getPart t (c.fy * 8 + c.fx) = some a ∧ a.fx = c.fx ∧ a.fy = c.fy ∧ a.width = c.w ∧ a.height = c.h ∧ a.domain = c.domain ∧
        a.role = c.role ∧ a.pstate = .ready ∧ a.job = none ∧ a.weight = (roleBudget c.role).2 ∧
        a.reservation = min ((roleBudget c.role).1 * (c.w * c.h) / granularity s * granularity s)
          ((setting s 0x2200 8 - sumReserved s) / granularity s * granularity s)) ∧
      (∀ q, q ≠ c.fy * 8 + c.fx → getPart t q = getPart s q) ∧
      (∀ f, f ∈ rectFields c.fx c.fy c.w c.h → (getFld t f).owner = .held (c.fy * 8 + c.fx) ∧ (getFld t f).spanValid = true) ∧
      (∀ f, f ∉ rectFields c.fx c.fy c.w c.h → getFld t f = getFld s f) ∧ LastRaised (evPart t 0x303 0 (c.fy * 8 + c.fx) 0) t) := by
  have hexec : exec (.partitionCreate value) s = .next (noteWrite createObj 1 (putNum 0x2400 1 value.toNat
      (createPart c.fx c.fy c.w c.h c.domain c.role none s))) := by
    show execPartitionCreate value s = _
    unfold execPartitionCreate
    rw [grant_create value.isLt, tryCreate_allowed hc h]
    rfl
  refine completes_of_exec hexec ?_
  have made := getPart_createPart (w := c.w) (h := c.h) (domain := c.domain) (role := c.role) hn
  have owned := getFld_createPart c.fx c.fy c.w c.h c.domain c.role s
  have equation := createPart_eq c.fx c.fy c.w c.h c.domain c.role s
  generalize createPart c.fx c.fy c.w c.h c.domain c.role none s = u at made owned equation
  have late : Only [.regs, .settings] u (noteWrite createObj 1 (putNum 0x2400 1 value.toNat u)) :=
    (((putNum_2400_keeps 1 value.toNat u).mono rfl).step (noteWrite_keeps ..) rfl).only
  generalize noteWrite createObj 1 (putNum 0x2400 1 value.toNat u) = t at late
  have part (q : Nat) : getPart t q = getPart u q := getPart_congr (late .parts rfl) q
  have field (f : Nat) : getFld t f = getFld u f := getFld_congr (late .fld rfl) f
  refine ⟨⟨_, (part _).trans ((made _).trans (if_pos rfl)), rfl, rfl, rfl, rfl, rfl, rfl, rfl, rfl, rfl, rfl⟩, fun q hq => ?_, fun f hf => ?_,
    fun f hf => ?_, ?_⟩
  · rw [part, made, if_neg hq]
  · obtain ⟨g, hg⟩ := owned f
    rw [if_pos hf] at hg
    rw [field, hg]
    exact ⟨rfl, rfl⟩
  · obtain ⟨g, hg⟩ := owned f
    rw [field, hg, if_neg hf]
  · have last : LastRaised (evPart u 0x303 0 (c.fy * 8 + c.fx) 0) u := by
      rw [equation]
      exact lastRaised_evPart (noteChange_keeps _).only
    rw [evPart_congr (late .lease rfl) (late .parts rfl)]
    obtain ⟨v, hv⟩ := last
    exact ⟨v, (late .events rfl).trans hv⟩

theorem partitionCreate_refused {value : Word32} {s : State} {c : Creation} (hc : creationOf value.toNat = c)
    (h : mayCreate s c.fx c.fy c.w c.h c.domain c.role = false) :
    Completes (.partitionCreate value) s (fun t => t = raise (evCtl 0x302 2 (activeCtl s) value.toNat) s) := by
  have hexec : exec (.partitionCreate value) s = .next (raise (evCtl 0x302 2 (activeCtl s) value.toNat) s) := by
    show execPartitionCreate value s = _
    unfold execPartitionCreate
    rw [grant_create value.isLt, tryCreate_refused hc h]
    rfl
  exact completes_of_exec hexec rfl

end Sys2Proof.Machine
end

section
/-!
PROOF. The delete of a partition (R371), and what a completed scrub leaves (R380, R437).
-/

namespace Sys2Proof.Machine

open Sys2Proof

/-! ## Delete -/

/-- The fields of a delete, out of the span map and of the wafer crest (R371). -/
def spanDeleted (p : Nat) (a : Part) (s : State) : State :=
  let s := clearCrest (fun i => 14336 ≤ i && crestOwner (spanFields (partFields a) false s) i == some p) (spanFields (partFields a) false s)
  ownFields .scrubbing (partFields a)
    { s with crest := { s.crest with base := amDel s.crest.base p, count := amDel s.crest.count p } }

theorem deleteSpan_eq {p : Nat} {s : State} {a : Part} (ha : getPart s p = some a) :
    deleteSpan p s = noteChange (raise (evPart (spanDeleted p a s) 0x304 0 p 0) (spanDeleted p a s)) := by
  unfold deleteSpan
  rw [ha]
  rfl

theorem getFld_spanDeleted (p : Nat) (a : Part) (s : State) (x : Nat) :
    ∃ g, getFld (spanDeleted p a s) x = if x ∈ partFields a then
      { getFld s x with owner := .scrubbing, spanGen := g, spanValid := false } else getFld s x := by
  unfold spanDeleted
  extract_lets u
  obtain ⟨g, hg⟩ := getFld_spanFields (partFields a) false s x
  have same : getFld u x = getFld (spanFields (partFields a) false s) x := getFld_congr ((clearCrest_keeps ..).only .fld rfl) x
  have crest : getFld { u with crest := { u.crest with base := amDel u.crest.base p, count := amDel u.crest.count p } } x = getFld u x := rfl
  refine ⟨g, ?_⟩
  rw [getFld_ownFields, crest, same, hg]
  by_cases hx : x ∈ partFields a
  · rw [if_pos hx, if_pos hx, if_pos hx]
  · rw [if_neg hx, if_neg hx, if_neg hx]

theorem getFld_deleteSpan {p : Nat} {s : State} {a : Part} (ha : getPart s p = some a) (x : Nat) :
    ∃ g, getFld (deleteSpan p s) x = if x ∈ partFields a then
      { getFld s x with owner := .scrubbing, spanGen := g, spanValid := false } else getFld s x := by
  obtain ⟨g, hg⟩ := getFld_spanDeleted p a s x
  refine ⟨g, ?_⟩
  rw [deleteSpan_eq ha, getFld_congr ((noteChange_keeps _).only .fld rfl), getFld_raise, hg]

theorem lastRaised_deleteSpan {p : Nat} {s : State} {a : Part} (ha : getPart s p = some a) :
    LastRaised (evPart (deleteSpan p s) 0x304 0 p 0) (deleteSpan p s) := by
  rw [deleteSpan_eq ha]
  exact lastRaised_evPart (noteChange_keeps _).only

theorem lastRaised_kept {s t : State} {code kind p detail : Nat} (h : LastRaised (evPart s code kind p detail) s)
    (only : Only [.settings, .regs] s t) : LastRaised (evPart t code kind p detail) t := by
  obtain ⟨v, hv⟩ := h
  rw [evPart_congr (only .lease rfl) (only .parts rfl)]
  exact ⟨v, (only .events rfl).trans hv⟩

/-- The record of a quiesced partition whose delete has begun (R371). -/
def deleting (t : Nat) (a : Part) : Part := { a with pstate := .scrubbing, reset := some { since := t, deleting := true } }

/-- The partition marked for its delete, and its scrub begun (R371). -/
def deleteMarked (p : Nat) (s : State) : State :=
  startScrub p (modPart p (fun a => { a with reset := some { since := now s, deleting := true } }) s)

theorem getPart_deleteMarked {p : Nat} {s : State} {a : Part} (ha : getPart s p = some a) (x : Nat) :
    getPart (deleteMarked p s) x = if x = p then some (deleting (now s) a) else getPart s x := by
  unfold deleteMarked startScrub
  rw [getPart_modPart, getPart_modPart, getPart_modPart, if_pos rfl, ha]
  by_cases hx : x = p
  · rw [if_pos hx, if_pos hx]
    rfl
  · rw [if_neg hx, if_neg hx, if_neg hx]

theorem deletePart_quiesced {p : Nat} {s : State} {a : Part} (ha : getPart s p = some a) (hr : a.reset = none)
    (hst : a.pstate ≠ .scrubbing) (hq : quiesced s p = true) (hj : a.job = none) :
    deletePart p s = deleteSpan p (deleteMarked p s) := by
  have quiet : ¬(a.reset.isSome = true ∨ (!quiesced s p) = true) := by simp [hr, hq]
  have closed : closeJob p s = s := by
    refine closeJob_without_job fun b hb => ?_
    rw [ha] at hb
    injection hb with hb
    rw [← hb, hj]
  unfold deletePart
  rw [ha]
  dsimp only
  rw [if_neg hst, if_neg quiet, closed]
  rfl

theorem deletePart_busy {p : Nat} {s : State} {a : Part} (ha : getPart s p = some a) (hst : a.pstate ≠ .scrubbing)
    (hq : quiesced s p = false) : deletePart p s = noteChange (beginReset p 3 [] true s) := by
  have busy : a.reset.isSome = true ∨ (!quiesced s p) = true := .inr (by simp [hq])
  unfold deletePart
  rw [ha]
  dsimp only
  rw [if_neg hst, if_pos busy]

/-- A reset that has just begun leaves its partition in the reset, whether or not it ends in a delete. -/
theorem beginReset_part {p : Nat} {s : State} {a : Part} (ha : getPart s p = some a) (hr : a.reset = none) (cause : Nat)
    (fields : List Nat) (deleting : Bool) :
    ∃ b, getPart (beginReset p cause fields deleting s) p = some b ∧ InReset (a.resets + 1) cause
      { since := now s, deleting := deleting, fields := fields, discarded := usedCounters s p } b := by
  obtain ⟨b, hlast, hb⟩ := getPart_resetMade ha cause fields deleting
  rw [beginReset_of_none ha hr]
  generalize resetMade p cause fields deleting a s = u at hb
  have hin := inReset_partInReset hlast (now s) (usedCounters s p) cause fields deleting
  generalize partInReset (now s) (usedCounters s p) cause fields deleting b = c at hb hin
  have hc : getPart (raise (evPart u 0x3C4 1 p cause) u) p = some c := by rw [getPart_raise]; exact hb
  generalize raise (evPart u 0x3C4 1 p cause) u = v at hc
  have scrubbed : getPart (startScrub p v) p = some { c with pstate := .scrubbing } := by
    unfold startScrub
    rw [getPart_modPart, if_pos rfl, hc]
    rfl
  unfold advanceReset
  rw [hc]
  dsimp only
  rw [hin.reset]
  dsimp only
  split
  · split
    · rw [getPart_congr ((deleteSpan_keeps p (startScrub p v)).only .parts rfl)]
      exact ⟨_, scrubbed, { hin with state := .inr rfl }⟩
    · exact ⟨_, scrubbed, { hin with state := .inr rfl }⟩
  · exact ⟨c, hc, hin⟩

theorem partitionDelete_quiesced {p : Nat} {s : State} {a : Part} (hp : p < 56) (ha : getPart s p = some a) (hr : a.reset = none)
    (hst : a.pstate ≠ .scrubbing) (hq : quiesced s p = true) (hj : a.job = none) :
    Completes (.partitionDelete p) s (fun t =>
      getPart t p = some { a with pstate := .scrubbing, reset := some { since := now s, deleting := true } } ∧
      (∀ q, q ≠ p → getPart t q = getPart s q) ∧
      (∀ f, f ∈ partFields a → (getFld t f).owner = .scrubbing ∧ (getFld t f).spanValid = false) ∧
      (∀ f, f ∉ partFields a → getFld t f = getFld s f) ∧ LastRaised (evPart t 0x304 0 p 0) t) := by
  have hc := exec_partitionDelete hp s
  rw [ha, Option.isSome_some, if_pos rfl] at hc
  refine completes_of_exec hc ?_
  have put := (putNum_2400_keeps 2 p s).only
  have quiet : quiesced (putNum 0x2400 2 p s) p = true := hq
  have time : now (putNum 0x2400 2 p s) = now s := now_congr (congrArg TimeS.refCycles (put .time rfl))
  have fields (f : Nat) : getFld (putNum 0x2400 2 p s) f = getFld s f := getFld_congr (put .fld rfl) f
  have parts (q : Nat) : getPart (putNum 0x2400 2 p s) q = getPart s q := getPart_congr (put .parts rfl) q
  generalize putNum 0x2400 2 p s = u at quiet time fields parts
  have hu : getPart u p = some a := (parts p).trans ha
  rw [deletePart_quiesced hu hr hst quiet hj]
  have marked := getPart_deleteMarked hu
  have mfld (f : Nat) : getFld (deleteMarked p u) f = getFld s f := by
    have kept : Keeps [.parts] u (deleteMarked p u) := (modPart_keeps ..).step (startScrub_keeps ..) rfl
    rw [getFld_congr (kept.only .fld rfl), fields]
  rw [time] at marked
  generalize deleteMarked p u = v at marked mfld
  have hv : getPart v p = some (deleting (now s) a) := (marked p).trans (if_pos rfl)
  have late := (noteWrite_keeps deleteObj 2 (deleteSpan p v)).only
  have part (q : Nat) : getPart (noteWrite deleteObj 2 (deleteSpan p v)) q = getPart v q :=
    (getPart_congr (late .parts rfl) q).trans (getPart_congr ((deleteSpan_keeps p v).only .parts rfl) q)
  have span (f : Nat) := getFld_deleteSpan hv f
  have same : partFields (deleting (now s) a) = partFields a := rfl
  refine ⟨?_, fun q hq => ?_, fun f hf => ?_, fun f hf => ?_, lastRaised_kept (lastRaised_deleteSpan hv) (late.mono rfl)⟩
  · rw [part, hv]
    rfl
  · rw [part, marked, if_neg hq, parts]
  · obtain ⟨g, hg⟩ := span f
    rw [same] at hg
    rw [getFld_congr (late .fld rfl), hg, if_pos hf]
    exact ⟨rfl, rfl⟩
  · obtain ⟨g, hg⟩ := span f
    rw [same] at hg
    rw [getFld_congr (late .fld rfl), hg, if_neg hf, mfld]

theorem partitionDelete_busy {p : Nat} {s : State} {a : Part} (hp : p < 56) (ha : getPart s p = some a) (hr : a.reset = none)
    (hst : a.pstate ≠ .scrubbing) (hq : quiesced s p = false) :
    Completes (.partitionDelete p) s (fun t =>
      ∃ b, getPart t p = some b ∧ b.resets = a.resets + 1 ∧ b.resetCause = 3 ∧ b.job = none ∧ b.current = none ∧ b.queue = [] ∧
        b.reset.map PReset.deleting = some true) := by
  have hc := exec_partitionDelete hp s
  rw [ha, Option.isSome_some, if_pos rfl] at hc
  refine completes_of_exec hc ?_
  have hu : getPart (putNum 0x2400 2 p s) p = some a := (getPart_congr ((putNum_2400_keeps 2 p s).only .parts rfl) p).trans ha
  have busy : quiesced (putNum 0x2400 2 p s) p = false := hq
  generalize putNum 0x2400 2 p s = u at hu busy
  obtain ⟨b, hb, hin⟩ := beginReset_part hu hr 3 [] true
  rw [deletePart_busy hu hst busy]
  refine ⟨b, ?_, hin.resets, hin.cause, hin.job, hin.current, hin.queue, by rw [hin.reset]; rfl⟩
  rw [getPart_congr ((noteWrite_keeps ..).only .parts rfl), getPart_congr ((noteChange_keeps _).only .parts rfl), hb]

theorem partitionDelete_absent {p : Nat} {s : State} (hp : p < 56) (hn : getPart s p = none) :
    Completes (.partitionDelete p) s (fun t => t = s) := by
  have hc := exec_partitionDelete hp s
  rw [hn] at hc
  exact completes_of_exec hc rfl

/-! ## The scrubbed stores -/

theorem cellGet_filter {m : List Host.Cell} {lo : Option Nat} (h : Memory.wfFrom lo m = true) (q : Nat → Bool) (x : Nat) :
    cellGet (m.filter (fun c => q c.1)) x = if q x then cellGet m x else memDefault := by
  induction m generalizing lo with
  | nil => simp [cellGet]
  | cons c m ih =>
    obtain ⟨k, b⟩ := c
    obtain ⟨-, -, hm⟩ := wfFrom_cons.mp h
    rw [List.filter_cons]
    by_cases hk : q k = true
    · rw [if_pos hk]
      simp only [cellGet_cons]
      by_cases hx : k = x
      · subst hx
        simp [hk]
      · rw [if_neg hx, if_neg hx]
        by_cases hlt : x < k
        · simp [hlt]
        · rw [if_neg hlt, if_neg hlt, ih hm]
    · rw [if_neg hk, ih hm]
      by_cases hx : k = x
      · subst hx
        simp [hk]
      · rw [cellGet_cons, if_neg hx]
        by_cases hlt : x < k
        · rw [if_pos hlt, cellGet_below hm (Nat.le_of_lt hlt)]
        · rw [if_neg hlt]

/-- The stores of the sites of a set read zero, and no other byte changes (R380). -/
theorem readByte_clearSites (q : Nat → Bool) {s : State} (h : Memory.wf s.mem = true) (key : Nat) :
    readByte (clearSites q s) key = if q (key / 0x400000) then 0 else readByte s key := by
  have mem : (clearSites q s).mem = s.mem.filter (fun c => (fun k => !q (k / 0x400000)) c.1) := rfl
  unfold readByte
  rw [mem]
  refine (cellGet_filter h (fun k => !q (k / 0x400000)) key).trans ?_
  cases q (key / 0x400000) <;> rfl

/-- The stores and the waiting traffic of a partition at the end of its scrub (R380). -/
def scrubbed (p : Nat) (a : Part) (s : State) : State :=
  let s := dropHeld a.domain (clearSites (fun k => inPart a k) s)
  let s := clearCrest (fun i => (i < 14336 && (partFields a).contains (i / 256)) || crestOwner s i == some p) (dropWatches p s)
  { s with mesh := { s.mesh with
      flight := s.mesh.flight.filter (fun m => m.head.domain != a.domain)
      transit := s.mesh.transit.filter (fun v => v.msg.head.domain != a.domain)
      casts := s.mesh.casts.filter (fun c => c.head.domain != a.domain) } }

/-- The end of the scrub of a partition that is not deleted, and of one that is (R371, R437, R438). -/
def scrubEnded (p : Nat) (a : Part) (s : State) : State :=
  let r := a.reset.getD {}
  if r.deleting then raise { evCtl 0x305 0 (activeCtl s) 0 with part := p } (freePart p s)
  else
    match faultField s a with
    | some f =>
      let s := deleteSpan p s
      let s := writeLoss p r.failed r.abandoned r.discarded 0 r.since s
      raise { evCtl 0x3C6 1 (activeCtl s) f with part := p, domain := a.domain } (freePart p s)
    | none =>
      let s := modPart p (fun a => { a with pstate := .ready, reset := none, lastSec := 0, prevSec := 0 }) s
      let s := reserve p a.reservation a.weight s
      let s := writeLoss p r.failed r.abandoned r.discarded 0 r.since s
      raise (evPart s 0x3C5 0 p ((now s - r.since) / usT)) s

theorem scrubDone_eq {p : Nat} {s : State} {a : Part} (ha : getPart s p = some a) :
    scrubDone p [] s = scrubEnded p a (scrubbed p a s) := by
  unfold scrubDone
  rw [ha]
  rfl

theorem scrubbed_keeps (p : Nat) (a : Part) (s : State) :
    Only [.tiles, .mem, .ecc, .fabric, .crest, .mesh] s (scrubbed p a s) := by
  unfold scrubbed
  extract_lets u v
  have early : Only [.tiles, .mem, .ecc, .fabric, .crest, .mesh] s v :=
    ((((clearSites_keeps (fun k => inPart a k) s).mono rfl).step (dropHeld_keeps a.domain _) rfl).step (dropWatches_keeps p u) rfl |>.step
      (clearCrest_keeps ..) rfl).only
  have mesh : Only [.tiles, .mem, .ecc, .fabric, .crest, .mesh] v { v with mesh := { v.mesh with
      flight := v.mesh.flight.filter (fun m => m.head.domain != a.domain)
      transit := v.mesh.transit.filter (fun w => w.msg.head.domain != a.domain)
      casts := v.mesh.casts.filter (fun c => c.head.domain != a.domain) } } := by
    intro r hr
    cases r <;> first | rfl | simp at hr
  exact early.trans mesh

theorem scrubbed_mem (p : Nat) (a : Part) (s : State) : (scrubbed p a s).mem = (clearSites (fun k => inPart a k) s).mem := by
  unfold scrubbed
  extract_lets u v
  have kept : Only [.fabric, .crest] (clearSites (fun k => inPart a k) s) v :=
    (((dropHeld_keeps a.domain (clearSites (fun k => inPart a k) s)).mono rfl).step (dropWatches_keeps p u) rfl |>.step
      (clearCrest_keeps ..) rfl).only
  exact kept .mem rfl

theorem scrubEnded_mem (p : Nat) (a : Part) (s : State) : (scrubEnded p a s).mem = s.mem := by
  have freed (u : State) (e : EvReq) : (raise e (freePart p u)).mem = u.mem := (raise_mem ..).trans ((freePart_keeps p u).only .mem rfl)
  unfold scrubEnded
  extract_lets r
  split
  · exact freed ..
  · split
    · refine (freed _ _).trans ?_
      exact ((writeLoss_keeps ..).only .mem rfl).trans ((deleteSpan_keeps p s).only .mem rfl)
    · refine (raise_mem ..).trans (((writeLoss_keeps ..).only .mem rfl).trans ?_)
      exact ((reserve_keeps ..).only .mem rfl).trans ((modPart_keeps ..).only .mem rfl)

/-! ## The scrubbed partition -/

theorem freePart_eq {p : Nat} {s : State} {a : Part} (ha : getPart s p = some a) : ∃ c,
    freePart p s = dropPartSettings p { ownFields .idle (partFields a) s with
      parts := amDel (ownFields .idle (partFields a) s).parts p
      power := { (ownFields .idle (partFields a) s).power with houseSecond := c } } := by
  unfold freePart
  rw [ha]
  exact ⟨_, rfl⟩

theorem getPart_freePart {p : Nat} {s : State} {a : Part} (ha : getPart s p = some a) : getPart (freePart p s) p = none := by
  obtain ⟨c, hc⟩ := freePart_eq ha
  rw [hc, getPart_congr ((dropPartSettings_keeps ..).only .parts rfl)]
  exact (amFind_amDel ..).trans (if_pos rfl)

theorem getFld_freePart {p f : Nat} {s : State} {a : Part} (ha : getPart s p = some a) (hf : f ∈ partFields a) :
    (getFld (freePart p s) f).owner = .idle := by
  obtain ⟨c, hc⟩ := freePart_eq ha
  rw [hc, getFld_congr ((dropPartSettings_keeps ..).only .fld rfl)]
  have own : getFld (ownFields .idle (partFields a) s) f = { getFld s f with owner := .idle } := (getFld_ownFields ..).trans (if_pos hf)
  exact congrArg FieldPwr.owner own

theorem scrubEnded_deleted {p : Nat} {s : State} {a : Part} (ha : getPart s p = some a)
    (hd : (a.reset.map PReset.deleting).getD false = true) :
    getPart (scrubEnded p a s) p = none ∧ (∀ f, f ∈ partFields a → (getFld (scrubEnded p a s) f).owner = .idle) ∧
    Raised { evCtl 0x305 0 (activeCtl s) 0 with part := p } s (scrubEnded p a s) := by
  have deleted : (a.reset.getD {}).deleting = true := by
    cases h : a.reset with
    | none => rw [h] at hd; exact absurd hd (by decide)
    | some r => rw [h] at hd; exact hd
  unfold scrubEnded
  dsimp only
  rw [if_pos deleted]
  refine ⟨?_, fun f hf => ?_, raise_events _ ((freePart_keeps p s).only .events rfl)⟩
  · rw [getPart_raise, getPart_freePart ha]
  · rw [getFld_raise, getFld_freePart ha hf]

/-- The record of a partition that is ready again (R437). -/
def readyAgain (a : Part) : Part := { a with pstate := .ready, reset := none, lastSec := 0, prevSec := 0 }

theorem reserve_enough {p want weight : Nat} {s : State} {a : Part} (ha : getPart s p = some a)
    (h : want / granularity s * granularity s ≤ (setting s 0x2200 8 - (sumReserved s - a.reservation)) / granularity s * granularity s) :
    (reserve p want weight s).events = s.events := by
  unfold reserve
  rw [ha]
  dsimp only
  rw [if_neg (Nat.not_lt.mpr h), modPart_events]

theorem getPart_reserve_some {p : Nat} {s : State} {a : Part} (ha : getPart s p = some a) (want weight : Nat) :
    ∃ b, getPart (reserve p want weight s) p = some b ∧ b.pstate = a.pstate ∧ b.reset = a.reset ∧ b.resets = a.resets ∧
      b.domain = a.domain := by
  unfold reserve
  rw [ha]
  dsimp only
  split
  · rw [getPart_raise, getPart_modPart, if_pos rfl, ha]
    exact ⟨_, rfl, rfl, rfl, rfl, rfl⟩
  · rw [getPart_modPart, if_pos rfl, ha]
    exact ⟨_, rfl, rfl, rfl, rfl, rfl⟩

/-- The reservation that a partition had is there again where the limit leaves it (R330). -/
theorem reservation_fits {limit sum r g n : Nat} (hsum : n ≤ sum + r) (hfit : sum + r ≤ limit) (hg : r % g = 0) :
    r / g * g ≤ (limit - (n - r)) / g * g := by
  have whole : r / g * g = r := Nat.div_mul_cancel (Nat.dvd_of_mod_eq_zero hg)
  have within : r ≤ limit - (n - r) := by omega
  calc r / g * g ≤ (limit - (n - r)) / g * g := Nat.mul_le_mul_right g (Nat.div_le_div_right within)

theorem scrubEnded_ready {p : Nat} {s : State} {a : Part} (ha : getPart s p = some a)
    (hd : (a.reset.map PReset.deleting).getD false = false) (hf : faultField s a = none) :
    (∃ b, getPart (scrubEnded p a s) p = some b ∧ b.pstate = .ready ∧ b.reset = none ∧ b.resets = a.resets ∧ b.domain = a.domain) ∧
    (scrubEnded p a s).pilot.lossScope = p ∧ (scrubEnded p a s).pilot.lossTime = s.time.tod ∧
    (∀ f, getFld (scrubEnded p a s) f = getFld s f) ∧
    (sumReserved s + a.reservation ≤ setting s 0x2200 8 → a.reservation % granularity s = 0 →
      Raised (evPart s 0x3C5 0 p ((now s - (a.reset.getD {}).since) / usT)) s (scrubEnded p a s)) := by
  have kept : ¬(a.reset.getD {}).deleting = true := by
    cases h : a.reset with
    | none => decide
    | some r => rw [h] at hd; simpa using hd
  have ready : getPart (modPart p readyAgain s) p = some (readyAgain a) := by
    rw [getPart_modPart, if_pos rfl, ha]
    rfl
  have rkeeps := (modPart_keeps p readyAgain s).only
  have rsum : sumReserved (modPart p readyAgain s) ≤ sumReserved s + a.reservation := by
    unfold sumReserved
    rw [modPart_parts ha]
    exact reservedSum_amSet_le s.parts p (readyAgain a)
  have rgran : granularity (modPart p readyAgain s) = granularity s := by
    unfold granularity reg
    rw [rkeeps .regs rfl]
  have rlimit := setting_congr (rkeeps .regs rfl) 0x2200 8
  have form : scrubEnded p a s = raise
      (evPart (writeLoss p (a.reset.getD {}).failed (a.reset.getD {}).abandoned (a.reset.getD {}).discarded 0 (a.reset.getD {}).since
        (reserve p a.reservation a.weight (modPart p readyAgain s))) 0x3C5 0 p
        ((now (writeLoss p (a.reset.getD {}).failed (a.reset.getD {}).abandoned (a.reset.getD {}).discarded 0 (a.reset.getD {}).since
          (reserve p a.reservation a.weight (modPart p readyAgain s))) - (a.reset.getD {}).since) / usT))
      (writeLoss p (a.reset.getD {}).failed (a.reset.getD {}).abandoned (a.reset.getD {}).discarded 0 (a.reset.getD {}).since
        (reserve p a.reservation a.weight (modPart p readyAgain s))) := by
    unfold scrubEnded
    dsimp only
    rw [if_neg kept, hf]
    rfl
  obtain ⟨b, hb, bst, breset, bresets, bdomain⟩ := getPart_reserve_some ready a.reservation a.weight
  have vkeeps := (reserve_keeps p a.reservation a.weight (modPart p readyAgain s)).only
  have quiet (hfit : sumReserved s + a.reservation ≤ setting s 0x2200 8) (hg : a.reservation % granularity s = 0) :
      (reserve p a.reservation a.weight (modPart p readyAgain s)).events = (modPart p readyAgain s).events := by
    refine reserve_enough ready ?_
    rw [rgran, rlimit]
    exact reservation_fits rsum hfit hg
  generalize reserve p a.reservation a.weight (modPart p readyAgain s) = v at form hb vkeeps quiet
  have wkeeps := (writeLoss_keeps p (a.reset.getD {}).failed (a.reset.getD {}).abandoned (a.reset.getD {}).discarded 0
    (a.reset.getD {}).since v).only
  have loss : (writeLoss p (a.reset.getD {}).failed (a.reset.getD {}).abandoned (a.reset.getD {}).discarded 0 (a.reset.getD {}).since v).pilot.lossScope = p ∧
      (writeLoss p (a.reset.getD {}).failed (a.reset.getD {}).abandoned (a.reset.getD {}).discarded 0 (a.reset.getD {}).since v).pilot.lossTime = v.time.tod :=
    ⟨rfl, rfl⟩
  generalize writeLoss p (a.reset.getD {}).failed (a.reset.getD {}).abandoned (a.reset.getD {}).discarded 0 (a.reset.getD {}).since v = w
    at form wkeeps loss
  have wpart : getPart w p = some b := (getPart_congr (wkeeps .parts rfl) p).trans hb
  have time : w.time = s.time := (wkeeps .time rfl).trans ((vkeeps .time rfl).trans (rkeeps .time rfl))
  rw [form]
  refine ⟨⟨b, (getPart_raise ..).trans wpart, bst, breset, bresets, bdomain⟩, ?_, ?_, fun f => ?_, fun hfit hg => ?_⟩
  · rw [raise_pilot]
    exact loss.1
  · rw [raise_pilot, loss.2, vkeeps .time rfl, rkeeps .time rfl]
  · rw [getFld_raise, getFld_congr (wkeeps .fld rfl), getFld_congr (vkeeps .fld rfl), getFld_congr (rkeeps .fld rfl)]
  · have lease : w.lease = s.lease := (wkeeps .lease rfl).trans ((vkeeps .lease rfl).trans (rkeeps .lease rfl))
    have clock : now w = now s := now_congr (congrArg TimeS.refCycles time)
    have ev : evPart w 0x3C5 0 p ((now w - (a.reset.getD {}).since) / usT) =
        evPart s 0x3C5 0 p ((now s - (a.reset.getD {}).since) / usT) := by
      have domain : b.domain = a.domain := bdomain
      unfold evPart activeCtl
      rw [wpart, ha, lease, clock]
      simp only [Option.map_some, domain]
    rw [ev]
    refine raise_events _ ?_
    rw [wkeeps .events rfl, quiet hfit hg, rkeeps .events rfl]

theorem exec_scrubComplete {p : Nat} {s : State} {a : Part} (ha : getPart s p = some a) (hst : a.pstate = .scrubbing) :
    exec (.scrubComplete p []) s = .next (scrubEnded p a (scrubbed p a (invalidateDone s))) := by
  have ha' : getPart (invalidateDone s) p = some a := ha
  rw [← scrubDone_eq ha']
  show execScrubComplete p [] s = _
  unfold execScrubComplete
  rw [ha]
  exact congrArg _ (if_pos hst)

theorem scrubComplete_scrubs {p : Nat} {s : State} {a : Part} (ha : getPart s p = some a) (hst : a.pstate = .scrubbing)
    (hwf : Memory.wf s.mem = true) :
    Completes (.scrubComplete p []) s (fun t =>
      (∀ key, readByte t key = if inPart a (key / 0x400000) then 0 else readByte s key) ∧
      ((a.reset.map PReset.deleting).getD false = true →
        getPart t p = none ∧ (∀ f, f ∈ partFields a → (getFld t f).owner = .idle) ∧
        Raised { evCtl 0x305 0 (activeCtl s) 0 with part := p } s t) ∧
      ((a.reset.map PReset.deleting).getD false = false → faultField s a = none →
        (∃ b, getPart t p = some b ∧ b.pstate = .ready ∧ b.reset = none ∧ b.resets = a.resets ∧ b.domain = a.domain) ∧
        t.pilot.lossScope = p ∧ t.pilot.lossTime = s.time.tod ∧ (∀ f, getFld t f = getFld s f) ∧
        (sumReserved s + a.reservation ≤ setting s 0x2200 8 → a.reservation % granularity s = 0 →
          Raised (evPart s 0x3C5 0 p ((now s - (a.reset.getD {}).since) / usT)) s t))) := by
  refine completes_of_exec (exec_scrubComplete ha hst) ?_
  have only : Only [.tiles, .mem, .ecc, .fabric, .crest, .mesh] s (scrubbed p a (invalidateDone s)) :=
    ((invalidateDone_keeps s).only.mono rfl).trans (scrubbed_keeps p a _)
  have bytes (key : Nat) : readByte (scrubbed p a (invalidateDone s)) key =
      if inPart a (key / 0x400000) then 0 else readByte s key := by
    have cleared := readByte_clearSites (fun k => inPart a k) (s := invalidateDone s) hwf key
    unfold readByte at cleared ⊢
    rw [scrubbed_mem]
    exact cleared
  generalize scrubbed p a (invalidateDone s) = u at only bytes
  have ua : getPart u p = some a := (getPart_congr (only .parts rfl) p).trans ha
  have ufld (f : Nat) : getFld u f = getFld s f := getFld_congr (only .fld rfl) f
  have uctl : activeCtl u = activeCtl s := by unfold activeCtl; rw [only .lease rfl]
  have utime : now u = now s := now_congr (congrArg TimeS.refCycles (only .time rfl))
  refine ⟨fun key => ?_, fun hd => ?_, fun hd hfault => ?_⟩
  · rw [← bytes key]
    unfold readByte
    rw [scrubEnded_mem]
  · obtain ⟨gone, idle, event⟩ := scrubEnded_deleted ua hd
    rw [uctl] at event
    exact ⟨gone, idle, Eq.trans event (raise_events _ (only .events rfl))⟩
  · have ufault : faultField u a = none := by
      unfold faultField
      rw [← hfault]
      unfold faultField
      simp only [ufld]
    obtain ⟨part, scope, time, fields, event⟩ := scrubEnded_ready ua hd ufault
    refine ⟨part, scope, time.trans (congrArg TimeS.tod (only .time rfl)), fun f => (fields f).trans (ufld f), fun hfit hg => ?_⟩
    have sum : sumReserved u = sumReserved s := by unfold sumReserved; rw [only .parts rfl]
    have gran : granularity u = granularity s := by unfold granularity reg; rw [only .regs rfl]
    rw [sum, gran, setting_congr (only .regs rfl), evPart_congr (only .lease rfl) (only .parts rfl), utime] at event
    exact Eq.trans (event hfit hg) (raise_events _ (only .events rfl))

/-- Settles O22: each stage of a partition's life, from the equation of the operation that carries it out. -/
theorem partitionsAreCreatedDeletedAndScrubbed : Obligations.PartitionsAreCreatedDeletedAndScrubbed := by
  unfold Obligations.PartitionsAreCreatedDeletedAndScrubbed
  intro s
  refine ⟨fun value => ⟨?_, ?_⟩, ?_, ?_, ?_, ?_⟩
  · exact fun hmay hn => partitionCreate_allowed rfl hmay hn
  · exact fun hmay => partitionCreate_refused rfl hmay
  · exact fun p a hp ha hr hst hq hj => partitionDelete_quiesced hp ha hr hst hq hj
  · exact fun p a hp ha hr hst hq => partitionDelete_busy hp ha hr hst hq
  · exact fun p hp hn => partitionDelete_absent hp hn
  · exact fun p a ha hst hwf => scrubComplete_scrubs ha hst hwf

end Sys2Proof.Machine
end

section
/-!
PROOF. The key slots of a domain (R377, R378), and the span secret (R375).
-/

namespace Sys2Proof.Machine

open Sys2Proof

/-! ## What the key operations read -/

theorem keyEvent_eq (code kind d : Nat) (s : State) : keyEvent code kind d s = raise (keyEv s code kind d) s := rfl

/-- A key event depends on the lease and the partitions only. -/
theorem keyEv_congr {s t : State} (hl : t.lease = s.lease) (hp : t.parts = s.parts) (code kind d : Nat) :
    keyEv t code kind d = keyEv s code kind d := by
  unfold keyEv activeCtl partOfDomain
  rw [hl, hp]

/-- Only keys and flows have changed. -/
theorem keyEvent_raised {s u : State} (code kind d : Nat) (h : Only [.sec, .fabric] s u) :
    Raised (keyEv s code kind d) s (keyEvent code kind d u) := by
  rw [keyEvent_eq, keyEv_congr (h .lease rfl) (h .parts rfl)]
  exact raise_events _ (h .events rfl)

theorem getSlots_congr {s t : State} (h : t.sec = s.sec) (d : Nat) : getSlots t d = getSlots s d := by
  unfold getSlots
  rw [h]

theorem keyEvent_sec (code kind d : Nat) (s : State) : (keyEvent code kind d s).sec = s.sec := raise_sec ..

theorem keyEvent_fabric (code kind d : Nat) (s : State) : (keyEvent code kind d s).fabric = s.fabric := raise_fabric ..

theorem modSlots_only (d : Nat) (g : KeySlots → KeySlots) (s : State) : Only [.sec, .fabric] s (modSlots d g s) :=
  (modSlots_keeps d g s).only.mono rfl

/-! ## Flows -/

/-- The flows of a domain start again at 0, those of the others go on (R378). -/
def FlowsRestarted (d : Nat) (s t : State) : Prop :=
  (∀ node, getTx t node d = { getTx s node d with next := 0, exhaustedNoted := false }) ∧
  (∀ node e, e < 64 → e ≠ d → getTx t node e = getTx s node e)

/-- The domain has drained, and its flows start again (R378). -/
def drained (d : Nat) (s : State) : State :=
  let s := modSlots d (fun k => { k with draining := false }) s
  { s with fabric := { s.fabric with
      tx := amMap s.fabric.tx (fun key (f : FlowTx) => if key % 64 = d then { f with next := 0, exhaustedNoted := false } else f)
      ctl := amMap s.fabric.ctl (fun key (c : CtlCount) => if key % 64 = d then {} else c) } }

theorem restartFlows_drained {d : Nat} {s : State} (h : (getSlots s d).draining = true) (h0 : domainOut s d = 0) :
    restartFlows d s = drained d s := by
  unfold restartFlows
  rw [if_pos ⟨h, h0⟩]
  rfl

theorem restartFlows_waits {d : Nat} {s : State} (h : (getSlots s d).draining = false ∨ domainOut s d ≠ 0) : restartFlows d s = s := by
  have waits : ¬((getSlots s d).draining = true ∧ domainOut s d = 0) := by
    rintro ⟨hd, h0⟩
    obtain h | h := h
    · rw [h] at hd
      exact absurd hd (by decide)
    · exact h h0
  unfold restartFlows
  rw [if_neg waits]

theorem drained_only (d : Nat) (s : State) : Only [.sec, .fabric] s (drained d s) := by
  intro r hr
  cases r <;> first | rfl | simp at hr

theorem getSlots_drained (d x : Nat) (s : State) :
    getSlots (drained d s) x = if x = d then { getSlots s d with draining := false } else getSlots s x :=
  getSlots_modSlots ..

theorem flowsRestarted_drained {d : Nat} (hd : d < 64) (s : State) : FlowsRestarted d s (drained d s) := by
  have flow (node e : Nat) : getTx (drained d s) node e =
      if (node * 64 + e) % 64 = d then { getTx s node e with next := 0, exhaustedNoted := false } else getTx s node e := by
    refine amGet_amMap _ (fun key (f : FlowTx) => if key % 64 = d then { f with next := 0, exhaustedNoted := false } else f) _ ?_
    split <;> rfl
  refine ⟨fun node => ?_, fun node e he hne => ?_⟩
  · rw [flow, if_pos (by omega)]
  · rw [flow, if_neg (by omega)]

/-! ## Stage -/

/-- The slots with a key of a generation in one of them (R377). -/
def slotStaged (slot gen : Nat) (key : List Byte) (k : KeySlots) : KeySlots :=
  { k with gens := amSet k.gens slot gen, keys := amSet k.keys slot key }

/-- A staging that R377 allows: the slot takes the domain's key of the generation. -/
def staged (d slot gen : Nat) (s : State) : State :=
  let s' := modSlots d (slotStaged slot gen (domainKey (s.sec.secret.getD []) d gen)) s
  { s' with sec := { s'.sec with highest := amSet s'.sec.highest d gen } }

theorem staged_only (d slot gen : Nat) (s : State) : Only [.sec, .fabric] s (staged d slot gen s) := by
  intro r hr
  cases r <;> first | rfl | simp at hr

theorem getSlots_staged (d slot gen x : Nat) (s : State) : getSlots (staged d slot gen s) x =
    if x = d then slotStaged slot gen (domainKey (s.sec.secret.getD []) d gen) (getSlots s d) else getSlots s x :=
  getSlots_modSlots d x (slotStaged slot gen (domainKey (s.sec.secret.getD []) d gen)) s

theorem exec_stageSlot {d slot gen : Nat} (hd : d < 64) (hs : slot < 4) (hg : gen < 2 ^ 32) (s : State) :
    exec (.stageSlot d slot gen) s = .next (stageKey d slot gen s).2 := by
  show execStageSlot d slot gen s = _
  unfold execStageSlot
  rw [if_pos ⟨hd, hs, hg⟩]

theorem stageSlot_stages {d slot gen : Nat} {s : State} (hd : d < 64) (hs : slot < 4) (hg : gen < 2 ^ 32)
    (hsecret : s.sec.secret.isSome = true) (hhigh : amGet s.sec.highest d 0 < gen) (hsend : (getSlots s d).send ≠ some slot) :
    Completes (.stageSlot d slot gen) s (fun t =>
      amFind (getSlots t d).gens slot = some gen ∧ (∀ i, i ≠ slot → amFind (getSlots t d).gens i = amFind (getSlots s d).gens i) ∧
      (∀ x, s.sec.secret = some x → amFind (getSlots t d).keys slot = some (domainKey x d gen)) ∧
      (getSlots t d).send = (getSlots s d).send ∧ amGet t.sec.highest d 0 = gen ∧ t.sec.secret = s.sec.secret ∧
      (∀ e, e ≠ d → getSlots t e = getSlots s e) ∧ Raised (keyEv s 0x308 0 d) s t) := by
  have allowed : ¬(s.sec.secret.isNone = true ∨ gen ≤ amGet s.sec.highest d 0 ∨ (getSlots s d).send = some slot) := by
    rintro (h | h | h)
    · rw [Option.isNone_iff_eq_none] at h
      rw [h] at hsecret
      exact absurd hsecret (by decide)
    · omega
    · exact hsend h
  have hc := exec_stageSlot hd hs hg s
  unfold stageKey at hc
  rw [if_neg allowed] at hc
  have slots (x : Nat) : getSlots (keyEvent 0x308 0 d (staged d slot gen s)) x = getSlots (staged d slot gen s) x :=
    getSlots_congr (keyEvent_sec ..) x
  refine completes_of_exec (t := keyEvent 0x308 0 d (staged d slot gen s)) hc ?_
  rw [keyEvent_sec, slots, getSlots_staged, if_pos rfl]
  refine ⟨?_, fun i hi => ?_, fun x hx => ?_, rfl, ?_, rfl, fun e he => ?_, keyEvent_raised _ _ _ (staged_only d slot gen s)⟩
  · exact (amFind_amSet ..).trans (if_pos rfl)
  · exact (amFind_amSet ..).trans (if_neg hi)
  · rw [hx]
    exact (amFind_amSet ..).trans (if_pos rfl)
  · exact (amGet_amSet ..).trans (if_pos rfl)
  · rw [slots, getSlots_staged, if_neg he]

theorem stageSlot_refused {d slot gen : Nat} {s : State} (hd : d < 64) (hs : slot < 4) (hg : gen < 2 ^ 32)
    (h : s.sec.secret = none ∨ gen ≤ amGet s.sec.highest d 0 ∨ (getSlots s d).send = some slot) :
    Completes (.stageSlot d slot gen) s (fun t => t = raise (keyEv s 0x309 2 d) s) := by
  have refused : s.sec.secret.isNone = true ∨ gen ≤ amGet s.sec.highest d 0 ∨ (getSlots s d).send = some slot :=
    h.imp_left fun h => by rw [h]; rfl
  have hc := exec_stageSlot hd hs hg s
  unfold stageKey at hc
  rw [if_pos refused] at hc
  exact completes_of_exec hc rfl

/-! ## Load -/

/-- The generation of the previous send slot (R378). -/
def sendGen (k : KeySlots) : Nat :=
  match k.send with
  | some t => amGet k.gens t 0
  | none => 0

/-- The domain's slots with a new send slot, whose flows are still to drain (R378). -/
def sendSet (d slot : Nat) (s : State) : State :=
  modSlots d (fun k => { k with send := some slot, draining := true, oldGen := sendGen (getSlots s d) }) s

theorem getSlots_sendSet (d slot x : Nat) (s : State) : getSlots (sendSet d slot s) x =
    if x = d then { getSlots s d with send := some slot, draining := true, oldGen := sendGen (getSlots s d) } else getSlots s x :=
  getSlots_modSlots ..

theorem exec_loadSlot {d slot : Nat} (hd : d < 64) (hs : slot < 4) (s : State) :
    exec (.loadSlot d slot) s = .next (loadKey d slot s).2 := by
  show execLoadSlot d slot s = _
  unfold execLoadSlot
  rw [if_pos ⟨hd, hs⟩]

/-- What a load makes of the domain's slots, but for the drain. -/
def Loaded (d slot : Nat) (s t : State) : Prop :=
  (getSlots t d).send = some slot ∧ (getSlots t d).gens = (getSlots s d).gens ∧ (∀ e, e ≠ d → getSlots t e = getSlots s e) ∧
  (getSlots t d).oldGen = sendGen (getSlots s d)

theorem loadSlot_loads {d slot : Nat} {s : State} (hd : d < 64) (hs : slot < 4)
    (hgen : (amFind (getSlots s d).gens slot).isSome = true) (hsend : (getSlots s d).send ≠ some slot) :
    Completes (.loadSlot d slot) s (fun t => Loaded d slot s t ∧ Raised (keyEv s 0x308 0 d) s t ∧
      (domainOut s d = 0 → (getSlots t d).draining = false ∧ FlowsRestarted d s t) ∧
      (domainOut s d ≠ 0 → (getSlots t d).draining = true ∧ t.fabric = s.fabric)) := by
  have allowed : ¬((amFind (getSlots s d).gens slot).isNone = true ∨ (getSlots s d).send = some slot) := by
    rintro (h | h)
    · rw [Option.isNone_iff_eq_none] at h
      rw [h] at hgen
      exact absurd hgen (by decide)
    · exact hsend h
  have hc : exec (.loadSlot d slot) s = .next (keyEvent 0x308 0 d (restartFlows d (sendSet d slot s))) := by
    rw [exec_loadSlot hd hs]
    unfold loadKey
    dsimp only
    rw [if_neg allowed]
    rfl
  have mine : getSlots (sendSet d slot s) d = { getSlots s d with
      send := some slot, draining := true, oldGen := sendGen (getSlots s d) } := (getSlots_sendSet ..).trans (if_pos rfl)
  have theirs (e : Nat) (he : e ≠ d) : getSlots (sendSet d slot s) e = getSlots s e := (getSlots_sendSet ..).trans (if_neg he)
  have setOnly : Only [.sec, .fabric] s (sendSet d slot s) := modSlots_only d _ s
  have fabric : (sendSet d slot s).fabric = s.fabric := rfl
  have out : domainOut (sendSet d slot s) d = domainOut s d := rfl
  generalize sendSet d slot s = u at hc mine theirs setOnly fabric out
  by_cases h0 : domainOut s d = 0
  · have draining : (getSlots u d).draining = true := by rw [mine]
    rw [restartFlows_drained draining (out.trans h0)] at hc
    have slots (x : Nat) : getSlots (keyEvent 0x308 0 d (drained d u)) x = getSlots (drained d u) x :=
      getSlots_congr (keyEvent_sec ..) x
    have restarted := flowsRestarted_drained hd u
    refine completes_of_exec hc ⟨⟨?_, ?_, fun e he => ?_, ?_⟩, keyEvent_raised _ _ _ (setOnly.trans (drained_only d u)), fun _ => ⟨?_, ?_⟩,
      fun h => absurd h0 h⟩
    case refine_3 => rw [slots, getSlots_drained, if_neg he, theirs e he]
    case refine_6 =>
      unfold FlowsRestarted getTx at restarted ⊢
      rw [keyEvent_fabric]
      rw [fabric] at restarted
      exact restarted
    all_goals rw [slots, getSlots_drained, if_pos rfl]
    all_goals rw [mine]
  · rw [restartFlows_waits (.inr (by rw [out]; exact h0))] at hc
    have slots (x : Nat) : getSlots (keyEvent 0x308 0 d u) x = getSlots u x := getSlots_congr (keyEvent_sec ..) x
    refine completes_of_exec hc ⟨⟨?_, ?_, fun e he => ?_, ?_⟩, keyEvent_raised _ _ _ setOnly, fun h => absurd h h0, fun _ => ⟨?_, ?_⟩⟩
    case refine_3 => rw [slots, theirs e he]
    case refine_6 => rw [keyEvent_fabric, fabric]
    all_goals rw [slots, mine]

theorem loadSlot_refused {d slot : Nat} {s : State} (hd : d < 64) (hs : slot < 4)
    (h : amFind (getSlots s d).gens slot = none ∨ (getSlots s d).send = some slot) :
    Completes (.loadSlot d slot) s (fun t => t = raise (keyEv s 0x309 2 d) s) := by
  have refused : (amFind (getSlots s d).gens slot).isNone = true ∨ (getSlots s d).send = some slot :=
    h.imp_left fun h => by rw [h]; rfl
  have hc := exec_loadSlot hd hs s
  unfold loadKey at hc
  dsimp only at hc
  rw [if_pos refused] at hc
  exact completes_of_exec hc rfl

/-! ## Clear, and the secret -/

/-- The domain's slots without one slot (R377). -/
def slotCleared (slot : Nat) (k : KeySlots) : KeySlots :=
  { k with gens := amDel k.gens slot, keys := amDel k.keys slot, send := if k.send = some slot then none else k.send }

theorem clearSlot_clears {d slot : Nat} (hd : d < 64) (hs : slot < 4) (s : State) :
    Completes (.clearSlot d slot) s (fun t =>
      amFind (getSlots t d).gens slot = none ∧ (∀ i, i ≠ slot → amFind (getSlots t d).gens i = amFind (getSlots s d).gens i) ∧
      (getSlots t d).send = (if (getSlots s d).send = some slot then none else (getSlots s d).send) ∧ t.sec.highest = s.sec.highest ∧
      (∀ e, e ≠ d → getSlots t e = getSlots s e) ∧ Raised (keyEv s 0x308 0 d) s t) := by
  have hc : exec (.clearSlot d slot) s = .next (keyEvent 0x308 0 d (modSlots d (slotCleared slot) s)) := by
    show execClearSlot d slot s = _
    unfold execClearSlot
    rw [if_pos ⟨hd, hs⟩]
    rfl
  have slots (x : Nat) : getSlots (keyEvent 0x308 0 d (modSlots d (slotCleared slot) s)) x =
      if x = d then slotCleared slot (getSlots s d) else getSlots s x :=
    (getSlots_congr (keyEvent_sec ..) x).trans (getSlots_modSlots ..)
  refine completes_of_exec hc ?_
  rw [keyEvent_sec, slots, if_pos rfl]
  refine ⟨?_, fun i hi => ?_, rfl, rfl, fun e he => ?_, keyEvent_raised _ _ _ (modSlots_only d _ s)⟩
  · exact (amFind_amDel ..).trans (if_pos rfl)
  · exact (amFind_amDel ..).trans (if_neg hi)
  · rw [slots, if_neg he]

theorem clearSecret_clears (s : State) : Completes .clearSecret s (fun t =>
    t.sec = { s.sec with secret := none, slots := [], highest := [] } ∧
    t.events = (raise (evCtl 0x30A 0 (activeCtl s) 0) (raise (keyEv s 0x308 0 0x80) s)).events) := by
  refine completes_of_exec rfl ⟨?_, ?_⟩
  · exact (raise_sec ..).trans (keyEvent_sec ..)
  · exact raise_events _ (raise_events _ rfl)

/-- Object 0x2500:05: the span secret, which a permit of the operator carries (R375). -/
def spanSecretObj : Obj := ⟨0x2500, 5, 5, 8, 64, .rwp, [.operator], .single, 0, 0, none, true⟩

theorem spanSecretLoad_loads {value : List Byte} (h : value.length = 64) (s : State) :
    Completes (.spanSecretLoad value) s (fun t =>
      t.sec = { s.sec with secret := some (List.zipWith (fun (a b : Byte) => a ^^^ b) (slice value 32 32)
        (hkdf (x25519 s.ident.deviceKey (slice value 0 32)) (leBytes 8 s.ident.serial.toNat) (strBytes "ZW56 span secret" 16) 32)) } ∧
      Raised (evCtl 0x30A 0 (activeCtl s) 0) s t) := by
  have found : findObj 0x2500 5 = some spanSecretObj := by decide +kernel
  have granted : grant .operator 0x2500 5 value s = noteWrite spanSecretObj 5 (loadSecret value s) := by
    rw [grant_of_found found (entryMissing_of_not_part rfl ..) fun h => absurd h (by decide)]
    rfl
  have hc : exec (.spanSecretLoad value) s = .next (noteWrite spanSecretObj 5 (loadSecret value s)) := by
    rw [← granted]
    show execSpanSecretLoad value s = _
    unfold execSpanSecretLoad
    rw [if_pos h]
  have late := (noteWrite_keeps spanSecretObj 5 (loadSecret value s)).only
  refine completes_of_exec hc ⟨?_, ?_⟩
  · rw [late .sec rfl]
    exact raise_sec ..
  · refine Eq.trans (late .events rfl) ?_
    exact raise_events _ rfl

/-! ## Restart -/

theorem flowRestart_restarts {d : Nat} {s : State} (hd : d < 64) (hdrain : (getSlots s d).draining = true) (h0 : domainOut s d = 0) :
    Completes (.flowRestart d) s (fun t =>
      getSlots t d = { getSlots s d with draining := false } ∧ (∀ e, e ≠ d → getSlots t e = getSlots s e) ∧
      t.sec.highest = s.sec.highest ∧ FlowsRestarted d s t) := by
  have hc : exec (.flowRestart d) s = .next (restartFlows d s) := rfl
  rw [restartFlows_drained hdrain h0] at hc
  refine completes_of_exec hc ⟨?_, fun e he => ?_, rfl, flowsRestarted_drained hd s⟩
  · rw [getSlots_drained, if_pos rfl]
  · rw [getSlots_drained, if_neg he]

theorem flowRestart_waits {d : Nat} {s : State} (h : (getSlots s d).draining = false ∨ domainOut s d ≠ 0) :
    Completes (.flowRestart d) s (fun t => t = s) :=
  completes_of_exec (t := restartFlows d s) rfl (restartFlows_waits h)

/-- Settles O23, one key operation after another; a load leaves its flows to the restart. -/
theorem keySlotsFollowTheirOperations : Obligations.KeySlotsFollowTheirOperations := by
  unfold Obligations.KeySlotsFollowTheirOperations
  intro d slot s hd hs
  refine ⟨?_, ?_, fun hgen hsend => ?_, loadSlot_refused hd hs, clearSlot_clears hd hs s, clearSecret_clears s,
    fun value h => spanSecretLoad_loads h s, flowRestart_restarts hd, flowRestart_waits⟩
  · exact fun gen hg hsecret hhigh hsend => stageSlot_stages hd hs hg hsecret hhigh hsend
  · exact fun gen hg h => stageSlot_refused hd hs hg h
  · obtain ⟨t, hc, only, ⟨send, gens, others, old⟩, event, free, waits⟩ := loadSlot_loads hd hs hgen hsend
    refine ⟨t, hc, only, send, gens, others, event, fun i hi => ?_, free, waits⟩
    rw [old]
    unfold sendGen
    rw [hi]

end Sys2Proof.Machine
end

section
/-!
PROOF. The checks of a permit in their order (R384, R385), and the read session (R369).
-/

namespace Sys2Proof.Machine

open Sys2Proof

/-! ## The path of a permit -/

/-- Object 0x2500:16: a permit, which every role may submit (R384). -/
def permitObj : Obj := ⟨0x2500, 16, 16, 8, 160, .wo, [.operator, .metrology, .vendor, .service], .single, 0, 0, none, true⟩

theorem findObj_permit : findObj 0x2500 16 = some permitObj := by decide +kernel

theorem indexExists_permit : indexExists 0x2500 = true := by decide +kernel

/-- The operator's write of 160 bytes to the permit object is the permit's own check (R385). -/
theorem writeObject_permit {w : Asker} (hw : w.own = none) (sdo : Bool) {bs : List Byte} (hlen : bs.length = 160) (s : State) :
    writeObject w sdo 0x2500 16 bs s =
      (if (checkPermit none bs s).1 = 0 then 0 else 0x08000022, (checkPermit none bs s).2) := by
  have may : mayWrite w permitObj 16 = true := by simp only [mayWrite, hw]; rfl
  have long : ¬ bs.length ≠ permitObj.len := by simp [hlen, permitObj]
  have row : writeObject w sdo 0x2500 16 bs s = writeFound w sdo permitObj 16 bs s := by
    unfold writeObject
    rw [indexExists_permit, findObj_permit]
    rfl
  have first : (sdo && permitObj.index == 0x2510 && 16 == 1 && s.sec.opKey.isNone) = false := by simp [permitObj]
  have missing : entryMissing s permitObj 16 = false := entryMissing_of_not_part rfl ..
  rw [row]
  unfold writeFound
  rw [first, may, missing]
  dsimp only
  rw [if_neg long]
  rfl

/-- A served permit has the outcome of its check on an accepted state. -/
theorem writes_permit {via : Via} {bs : List Byte} {s : State} {q : State → Nat → State → Prop} (hs : Served via s)
    (hown : (writer via s).own = none) (hlen : bs.length = 160)
    (hq : ∀ u, Accepted s u → q u (if (checkPermit none bs u).1 = 0 then 0 else 0x08000022) (checkPermit none bs u).2) :
    Writes (.permitSubmission via bs) via s q := by
  refine writes_of_viaWrite (c := .permitSubmission via bs) rfl hs (fun t ht => (exec_keeps _ ht).only) fun u sdo hu => ?_
  rw [writeObject_permit hown sdo hlen]
  exact hq u hu

theorem signerKey_accepted {s u : State} (h : Accepted s u) (r : Role) : signerKey u r = signerKey s r := by
  unfold signerKey
  rw [h.only .sec rfl, h.only .ident rfl, h.only .time rfl]
  simp only [setting_accepted h]

/-! ## The checks -/

/-- The key of the role that a permit's signer byte names (R384). -/
def permitKey (s : State) (bs : List Byte) : Option (List Byte) := (signerRole (fieldAt bs 5 1)).bind (signerKey s)

theorem permitKey_accepted {s u : State} (h : Accepted s u) (bs : List Byte) : permitKey u bs = permitKey s bs := by
  unfold permitKey
  rw [funext (signerKey_accepted h)]

/-- The status of the checks before the object's own (R385). -/
def permitStatus (bs : List Byte) (s : State) : Nat :=
  if fieldAt bs 0 4 ≠ 0x5A575031 ∨ fieldAt bs 4 1 ≠ 1 ∨ fieldAt bs 6 2 ≠ 0 ∨ fieldAt bs 28 4 ≠ 0 ∨ fieldAt bs 27 1 = 0 ∨
    fieldAt bs 27 1 > 64 then 1
  else if fieldAt bs 8 8 ≠ s.ident.serial.toNat then 2
  else if fieldAt bs 16 8 ≠ s.sec.nonce.toNat then 3
  else match permitKey s bs with
    | none => 4
    | some k => if edVerify k (slice bs 0 96) (slice bs 96 64) then 0 else 5

/-- A permit's status as it is noted, with the events of a refusal (R385, R386). -/
def permitSet (bs : List Byte) (st : Nat) (s : State) : State :=
  if st = 0 then permitNoted st bs s
  else refuseRetire (fieldAt bs 24 2 == 0x2B00 && fieldAt bs 26 1 == 5) (raise (evCtl 0x301 2 (activeCtl (permitNoted st bs s)) st)
    (permitNoted st bs s))

/-- The nonce is spent (R386). -/
def nonceSpent (s : State) : State := { s with sec := { s.sec with nonce := s.sec.nonce + 1 } }

/-- The object that a permit names, under its own rule (R385). -/
def permitApplied (bs : List Byte) (s : State) : Nat × State :=
  applyPermit none ((signerRole (fieldAt bs 5 1)).getD .operator) (fieldAt bs 24 2) (fieldAt bs 26 1) (fieldAt bs 27 1)
    (slice bs 32 (fieldAt bs 27 1)) (nonceSpent s)

theorem checkPermit_cases (bs : List Byte) (s : State) : checkPermit none bs s =
    if permitStatus bs s ≠ 0 then (permitStatus bs s, permitSet bs (permitStatus bs s) s)
    else ((permitApplied bs s).1, permitSet bs (permitApplied bs s).1 (permitApplied bs s).2) := rfl

theorem permitSet_refused {st : Nat} (h : st ≠ 0) (bs : List Byte) (w : State) :
    PermitRefused st bs w (if st = 0 then 0 else 0x08000022) (permitSet bs st w) := by
  have control (v : SecS) : activeCtl { w with sec := v } = activeCtl w := rfl
  have noted : activeCtl (permitNoted st bs w) = activeCtl w := control _
  unfold permitSet
  rw [if_neg h, if_neg h, noted]
  exact ⟨rfl, rfl⟩

/-- The outcome of a permit that verifies: its status and the state after it (R385). -/
def PermitOutcome (bs : List Byte) (x : Nat × State) (code : Nat) (r : State) : Prop :=
  if x.1 = 0 then code = 0 ∧ r = permitNoted 0 bs x.2 else PermitRefused x.1 bs x.2 code r

theorem permitSet_outcome (bs : List Byte) (x : Nat × State) :
    PermitOutcome bs x (if x.1 = 0 then 0 else 0x08000022) (permitSet bs x.1 x.2) := by
  unfold PermitOutcome
  by_cases h0 : x.1 = 0
  · rw [if_pos h0, if_pos h0, h0]
    exact ⟨rfl, rfl⟩
  · rw [if_neg h0]
    exact permitSet_refused h0 bs x.2

theorem permitStatus_form {bs : List Byte} {s : State} (h : ¬permitFormed bs) : permitStatus bs s = 1 := by
  unfold permitStatus
  refine if_pos ?_
  unfold permitFormed at h
  omega

theorem permitStatus_formed {bs : List Byte} {s : State} (h : permitFormed bs) : permitStatus bs s =
    if fieldAt bs 8 8 ≠ s.ident.serial.toNat then 2
    else if fieldAt bs 16 8 ≠ s.sec.nonce.toNat then 3
    else match permitKey s bs with
      | none => 4
      | some k => if edVerify k (slice bs 0 96) (slice bs 96 64) then 0 else 5 := by
  unfold permitStatus
  refine if_neg ?_
  unfold permitFormed at h
  omega

/-- A permit of this wafer and of the present nonce comes to its signer's key (R385). -/
theorem permitStatus_key {bs : List Byte} {s : State} (h : permitFormed bs) (hserial : fieldAt bs 8 8 = s.ident.serial.toNat)
    (hnonce : fieldAt bs 16 8 = s.sec.nonce.toNat) : permitStatus bs s =
    match permitKey s bs with
    | none => 4
    | some k => if edVerify k (slice bs 0 96) (slice bs 96 64) then 0 else 5 := by
  rw [permitStatus_formed h, if_neg (fun hn => hn hserial), if_neg (fun hn => hn hnonce)]

/-- A permit whose checks give a status is refused with it on every accepted state. -/
theorem writes_refused {via : Via} {bs : List Byte} {s : State} {st : Nat} (hst : st ≠ 0) (hs : Served via s)
    (hown : (writer via s).own = none) (hlen : bs.length = 160) (h : ∀ u, Accepted s u → permitStatus bs u = st) :
    Writes (.permitSubmission via bs) via s (fun u code r => PermitRefused st bs u code r) := by
  refine writes_permit hs hown hlen fun u hu => ?_
  rw [checkPermit_cases, h u hu, if_pos hst]
  exact permitSet_refused hst bs u

/-- A permit that verifies has the outcome of its object on every accepted state. -/
theorem writes_verified {via : Via} {bs : List Byte} {s : State} {q : State → Nat → State → Prop} (hs : Served via s)
    (hown : (writer via s).own = none) (hlen : bs.length = 160) (h : ∀ u, Accepted s u → permitStatus bs u = 0)
    (hq : ∀ u, Accepted s u → q u (if (permitApplied bs u).1 = 0 then 0 else 0x08000022)
      (permitSet bs (permitApplied bs u).1 (permitApplied bs u).2)) :
    Writes (.permitSubmission via bs) via s q := by
  refine writes_permit hs hown hlen fun u hu => ?_
  have applied : checkPermit none bs u = ((permitApplied bs u).1, permitSet bs (permitApplied bs u).1 (permitApplied bs u).2) :=
    (checkPermit_cases bs u).trans (if_neg fun hn => hn (h u hu))
  rw [applied]
  exact hq u hu

theorem accepted_ident {s u : State} (h : Accepted s u) : u.ident = s.ident := h.only .ident rfl

theorem accepted_sec {s u : State} (h : Accepted s u) : u.sec = s.sec := h.only .sec rfl

/-! ## The management domain number -/

/-- Object 0x2500:04: the management domain number, which a permit of the operator changes (R372). -/
def mgmtObj : Obj := ⟨0x2500, 4, 4, 2, 1, .rwp, [.operator], .single, 0, 63, none, true⟩

theorem applyPermit_mgmt {bs : List Byte} {w : State} (hlt : leNat bs < 64) (hfree : partOfDomain w (leNat bs) = none) :
    applyPermit none .operator 0x2500 4 1 bs w =
      (0, noteWrite mgmtObj 4 (setReg 0x250004 (leNat bs) (raise (evCtl 0x300 0 (activeCtl w) 0) w))) := by
  have found : findObj 0x2500 4 = some mgmtObj := by decide +kernel
  have may : ¬(mgmtObj.acc ≠ .rwp ∨ (!mgmtObj.roles.contains .operator) = true ∨ entryMissing w mgmtObj 4 = true) := by
    rw [entryMissing_of_not_part rfl]
    decide
  have low : leNat bs ≤ 63 := by omega
  have range : ¬(1 ≠ mgmtObj.len ∨ (mgmtObj.ty < 8 ∧ (!inRange w mgmtObj 4 (leNat bs)) = true)) := by
    have inside : inRange w mgmtObj 4 (leNat bs) = true := by simp [inRange, mgmtObj, low]
    rw [inside]
    simp [mgmtObj]
  have free : partOfDomain (raise (evCtl 0x300 0 (activeCtl w) 0) w) (leNat bs) = none := by
    unfold partOfDomain at hfree ⊢
    rw [raise_parts]
    exact hfree
  have outcome (u : State) (hu : partOfDomain u (leNat bs) = none) :
      permitted .operator 0x2500 4 bs u = (true, setReg 0x250004 (leNat bs) u) := by
    have unfolded : permitted .operator 0x2500 4 bs u =
        if (partOfDomain u (leNat bs)).isSome then (false, u) else (true, setReg 0x250004 (leNat bs) u) := rfl
    rw [unfolded, hu]
    rfl
  unfold applyPermit
  rw [found]
  dsimp only
  rw [if_neg may, if_neg range, outcome _ free]
  rfl

/-- A permit for the management domain number: its header's fields, for a number that no partition has. -/
structure MgmtPermit (s : State) (bs : List Byte) : Prop where
  signer : fieldAt bs 5 1 = 1
  index : fieldAt bs 24 2 = 0x2500
  sub : fieldAt bs 26 1 = 4
  len : fieldAt bs 27 1 = 1
  number : fieldAt bs 32 1 < 64
  free : partOfDomain s (fieldAt bs 32 1) = none

theorem partOfDomain_accepted {s u : State} (h : Accepted s u) (d : Nat) : partOfDomain u d = partOfDomain s d := by
  unfold partOfDomain
  rw [h.parts]

theorem activeCtl_accepted {s u : State} (h : Accepted s u) : activeCtl u = activeCtl s := by
  unfold activeCtl
  rw [h.only .lease rfl]

theorem permitApplied_mgmt {s u : State} {bs : List Byte} (h : MgmtPermit s bs) (hu : Accepted s u) :
    permitApplied bs u = (0, noteWrite mgmtObj 4 (setReg 0x250004 (fieldAt bs 32 1)
      (raise (evCtl 0x300 0 (activeCtl s) 0) (nonceSpent u)))) := by
  have signer : (signerRole (fieldAt bs 5 1)).getD .operator = .operator := by rw [h.signer]; rfl
  have number : leNat (slice bs 32 1) = fieldAt bs 32 1 := rfl
  have free : partOfDomain (nonceSpent u) (leNat (slice bs 32 1)) = none := (partOfDomain_accepted hu _).trans h.free
  have same : activeCtl (nonceSpent u) = activeCtl u := rfl
  have ctl : activeCtl (nonceSpent u) = activeCtl s := same.trans (activeCtl_accepted hu)
  unfold permitApplied
  rw [signer, h.index, h.sub, h.len, applyPermit_mgmt h.number free, ctl, number]

theorem permitSet_mgmt {s u : State} {bs : List Byte} (h : MgmtPermit s bs) (hu : Accepted s u) :
    mgmtDomain (permitSet bs 0 (permitApplied bs u).2) = fieldAt bs 32 1 ∧
    (permitSet bs 0 (permitApplied bs u).2).sec.nonce = s.sec.nonce + 1 ∧
    (permitSet bs 0 (permitApplied bs u).2).sec.status = 0x00250004 ∧
    (permitSet bs 0 (permitApplied bs u).2).events = (raise (evCtl 0x300 0 (activeCtl s) 0) u).events := by
  rw [permitApplied_mgmt h hu]
  dsimp only
  have late := (noteWrite_keeps mgmtObj 4 (setReg 0x250004 (fieldAt bs 32 1)
    (raise (evCtl 0x300 0 (activeCtl s) 0) (nonceSpent u)))).only
  generalize noteWrite mgmtObj 4 (setReg 0x250004 (fieldAt bs 32 1) (raise (evCtl 0x300 0 (activeCtl s) 0) (nonceSpent u))) = w at late
  have sec : w.sec = (nonceSpent u).sec := (late .sec rfl).trans (raise_sec ..)
  refine ⟨?_, ?_, ?_, ?_⟩
  · have regs : w.regs = _ := late .regs rfl
    have stored : reg w 0x250004 63 = fieldAt bs 32 1 := by
      unfold reg
      rw [regs]
      exact (amGet_amSet ..).trans (if_pos rfl)
    exact stored
  · have nonce : w.sec.nonce = s.sec.nonce + 1 := by
      rw [sec]
      exact congrArg (fun v : SecS => v.nonce + 1) (accepted_sec hu)
    exact nonce
  · have status : (permitSet bs 0 w).sec.status = BitVec.ofNat 32 (0 * 2 ^ 24 + fieldAt bs 24 2 * 256 + fieldAt bs 26 1) := rfl
    rw [status, h.index, h.sub]
    rfl
  · have events : w.events = _ := (late .events rfl)
    exact Eq.trans events (raise_events (evCtl 0x300 0 (activeCtl s) 0) rfl)

/-! ## The read session -/

/-- Object 0x2500:18: the read session of M, V or S (R369). -/
def sessionObj : Obj := ⟨0x2500, 18, 18, 3, 2, .rwp, [.metrology, .vendor, .service], .single, 0, 3600, none, true⟩

theorem exec_readSession {signer : Role} {seconds : Nat} (hsigner : signer = .metrology ∨ signer = .vendor ∨ signer = .service)
    (h : seconds ≤ 3600) (s : State) :
    exec (.readSession signer seconds) s = .next (noteWrite sessionObj 18 (readSessionOp signer seconds s)) := by
  have found : findObj 0x2500 18 = some sessionObj := by decide +kernel
  have value : leNat (leBytes 2 seconds) = seconds := leNat_leBytes 2 seconds (by omega)
  have range : inRange s sessionObj 18 (leNat (leBytes 2 seconds)) = true := by
    rw [value]
    simp [inRange, sessionObj, h]
  have outcome (bs : List Byte) : permitted signer 0x2500 18 bs s = (true, readSessionOp signer (leNat bs) s) := rfl
  have granted : grant signer 0x2500 18 (leBytes 2 seconds) s = noteWrite sessionObj 18 (readSessionOp signer seconds s) := by
    rw [grant_of_found found (entryMissing_of_not_part rfl ..) fun _ => range, outcome, value]
    rfl
  rw [← granted]
  show execReadSession signer seconds s = _
  unfold execReadSession
  rw [if_pos ⟨hsigner, h⟩]

theorem readSession_opens {signer : Role} {seconds : Nat} (hsigner : signer = .metrology ∨ signer = .vendor ∨ signer = .service)
    (hpos : 0 < seconds) (h : seconds ≤ 3600) (s : State) :
    Completes (.readSession signer seconds) s (fun t =>
      t.sec = { s.sec with session := some (signer, now s + seconds * secT) } ∧ Raised (evCtl 0x30C 0 (activeCtl s) 0) s t) := by
  have late := (noteWrite_keeps sessionObj 18 (readSessionOp signer seconds s)).only
  have opened : readSessionOp signer seconds s = raise (evCtl 0x30C 0 (activeCtl s) 0)
      { s with sec := { s.sec with session := some (signer, now s + seconds * secT) } } := if_neg (by omega)
  refine completes_of_exec (exec_readSession hsigner h s) ⟨?_, ?_⟩
  · rw [late .sec rfl, opened]
    exact raise_sec ..
  · refine Eq.trans (late .events rfl) ?_
    rw [opened]
    exact raise_events _ rfl

theorem endSession_open {s : State} {x : Role × Nat} (h : s.sec.session = some x) :
    (endSession s).sec = { s.sec with session := none } ∧ Raised (evCtl 0x30C 0 (activeCtl s) 0) s (endSession s) ∧
    now (endSession s) = now s := by
  unfold endSession
  rw [h]
  exact ⟨raise_sec .., raise_events _ rfl, now_raise ..⟩

theorem readSession_ends {signer : Role} {x : Role × Nat} {s : State} (hsigner : signer = .metrology ∨ signer = .vendor ∨ signer = .service)
    (h : s.sec.session = some x) :
    Completes (.readSession signer 0) s (fun t =>
      t.sec = { s.sec with session := none } ∧ Raised (evCtl 0x30C 0 (activeCtl s) 0) s t) := by
  have late := (noteWrite_keeps sessionObj 18 (readSessionOp signer 0 s)).only
  have ended : readSessionOp signer 0 s = endSession s := if_pos rfl
  obtain ⟨sec, event, -⟩ := endSession_open h
  refine completes_of_exec (exec_readSession hsigner (by omega) s) ⟨?_, ?_⟩
  · rw [late .sec rfl, ended, sec]
  · refine Eq.trans (late .events rfl) ?_
    rw [ended]
    exact event

theorem readSessionExpire_ends {r : Role} {deadline : Nat} {s : State} (h : s.sec.session = some (r, deadline)) :
    Completes .readSessionExpire s (fun t =>
      t.sec = { s.sec with session := none } ∧ deadline ≤ now t ∧ Raised (evCtl 0x30C 0 (activeCtl s) 0) s t) := by
  have hc : exec .readSessionExpire s = .next (endSession (advanceTo deadline s)) := by
    show execReadSessionExpire s = _
    unfold execReadSessionExpire sessionOver
    rw [h]
  have open' : (advanceTo deadline s).sec.session = some (r, deadline) := by rw [advanceTo_sec]; exact h
  obtain ⟨sec, event, time⟩ := endSession_open open'
  refine completes_of_exec hc ⟨?_, ?_, ?_⟩
  · rw [sec, advanceTo_sec]
  · rw [time]
    exact (now_advanceTo ..).1
  · rw [activeCtl_advanceTo] at event
    exact event.trans (raise_events _ (advanceTo_events ..))

/-- Settles O24: the status of the checks in their order, and for a permit that verifies the object's own outcome. -/
theorem permitsAreCheckedInOrder : Obligations.PermitsAreCheckedInOrder := by
  unfold Obligations.PermitsAreCheckedInOrder
  intro s
  refine ⟨fun via bs hs hown hlen => ?_, ?_, ?_, ?_⟩
  · have status (hf : permitFormed bs) (hser : fieldAt bs 8 8 = s.ident.serial.toNat) (hnon : fieldAt bs 16 8 = s.sec.nonce.toNat)
        (u : State) (hu : Accepted s u) := permitStatus_key (s := u) hf (by rw [accepted_ident hu]; exact hser)
          (by rw [accepted_sec hu]; exact hnon)
    have verified (k : List Byte) (hf : permitFormed bs) (hser : fieldAt bs 8 8 = s.ident.serial.toNat)
        (hnon : fieldAt bs 16 8 = s.sec.nonce.toNat) (hk : permitKey s bs = some k)
        (hv : edVerify k (slice bs 0 96) (slice bs 96 64) = true) (u : State) (hu : Accepted s u) : permitStatus bs u = 0 := by
      rw [status hf hser hnon u hu, permitKey_accepted hu, hk]
      exact if_pos hv
    refine ⟨fun hf => ?_, fun hf hser => ?_, fun hf hser hnon => ?_, fun hf hser hnon hk => ?_, fun k hf hser hnon hk hv => ?_,
      fun k hf hser hnon hk hv => ?_, fun k hf hser hnon hk hv hnone => ?_, fun k hf hser hnon hk hv h1 h2 h3 h4 h5 h6 => ?_⟩
    · exact writes_refused (by decide) hs hown hlen fun u _ => permitStatus_form hf
    · refine writes_refused (by decide) hs hown hlen fun u hu => ?_
      rw [permitStatus_formed hf, accepted_ident hu, if_pos hser]
    · refine writes_refused (by decide) hs hown hlen fun u hu => ?_
      rw [permitStatus_formed hf, accepted_ident hu, accepted_sec hu, if_neg (fun hn => hn hser), if_pos hnon]
    · refine writes_refused (by decide) hs hown hlen fun u hu => ?_
      rw [status hf hser hnon u hu, permitKey_accepted hu, show permitKey s bs = none from hk]
    · refine writes_refused (by decide) hs hown hlen fun u hu => ?_
      rw [status hf hser hnon u hu, permitKey_accepted hu, show permitKey s bs = some k from hk]
      exact if_neg (by rw [hv]; decide)
    · refine writes_verified hs hown hlen (verified k hf hser hnon hk hv) fun u hu => ?_
      exact permitSet_outcome bs (permitApplied bs u)
    · refine writes_verified hs hown hlen (verified k hf hser hnon hk hv) fun u hu => ?_
      have applied : permitApplied bs u = (6, nonceSpent u) := by
        unfold permitApplied applyPermit
        rw [hnone]
      rw [applied]
      exact permitSet_refused (by decide) bs (nonceSpent u)
    · refine writes_verified hs hown hlen (verified k hf hser hnon hk hv) fun u hu => ?_
      have permit : MgmtPermit s bs := ⟨h1, h2, h3, h4, h5, h6⟩
      have done : (permitApplied bs u).1 = 0 := by rw [permitApplied_mgmt permit hu]
      rw [done]
      exact ⟨rfl, permitSet_mgmt permit hu⟩
  · exact fun signer seconds hsigner hpos h => readSession_opens hsigner hpos h s
  · exact fun signer x hsigner h => readSession_ends hsigner h
  · exact fun r deadline h => readSessionExpire_ends h

end Sys2Proof.Machine
end

section
/-!
PROOF. The retirement of a tile (R187, R191 to R193): its site, its stores and the routes after it.
-/

namespace Sys2Proof.Machine

open Sys2Proof

/-! ## The state of a site -/

/-- A state in which a site is absent (R186). -/
def absentState : SiteState → Bool
  | .absentAtTest | .retiredCovered | .retiredUncovered => true
  | _ => false

theorem siteAbsent_eq (s : State) (k : Nat) : siteAbsent s k = absentState (siteState s k) := by
  unfold siteAbsent
  cases siteState s k <;> rfl

theorem siteState_congr {s t : State} (hs : t.mesh.sites = s.mesh.sites) (hi : t.ident = s.ident) (k : Nat) :
    siteState t k = siteState s k := by
  unfold siteState
  rw [hs, hi]

/-- The choice of the nearest of a list. -/
theorem nearest_mem {m : Nat} (k : Nat) (l : List Nat) : ∀ b : Option Nat,
    l.foldl (fun (b : Option Nat) n => match b with
      | none => some n
      | some m => if hops k n < hops k m then some n else some m) b = some m → b = some m ∨ m ∈ l := by
  induction l with
  | nil => exact fun b h => .inl h
  | cons n l ih =>
    intro b h
    obtain h | h := ih _ h
    · dsimp only at h
      split at h
      · exact .inr (by simp_all)
      · split at h
        · exact .inr (by simp_all)
        · exact .inl h
    · exact .inr (List.mem_cons_of_mem _ h)

theorem siteState_of_nearestSpare {s : State} {k n : Nat} (h : nearestSpare s k = some n) : siteState s n = .spare := by
  unfold nearestSpare at h
  obtain h | h := nearest_mem k _ none h
  · exact absurd h (by simp)
  · simpa using (List.mem_filter.mp h).2

theorem nearestSpare_congr {s t : State} (hs : t.mesh.sites = s.mesh.sites) (hi : t.ident = s.ident) (k : Nat) :
    nearestSpare t k = nearestSpare s k := by
  unfold nearestSpare
  simp only [siteState_congr hs hi]

/-! ## Taking a site out -/

/-- The spare that takes over a site's position (R191). -/
def takenOver (m : Nat) (s : State) : Option Nat := if siteState s m = .spare then none else nearestSpare s m

/-- The sites after one is taken out (R191, R193). -/
def sitesAfter (m : Nat) (s : State) : AMap SiteState :=
  let pos := positionOf s m
  let own : SiteState := if pos = m then (if (takenOver m s).isSome then .retiredCovered else .retiredUncovered) else .retiredUncovered
  let sites := amSet s.mesh.sites m own
  match takenOver m s with
  | some n => amSet sites n .spareAssigned
  | none => if pos = m then sites else amSet sites pos .retiredUncovered

/-- The covers after a site is taken out (R191). -/
def coverAfter (m : Nat) (s : State) : AMap Nat :=
  match takenOver m s with
  | some n => amSet s.mesh.cover (positionOf s m) n
  | none => amDel s.mesh.cover (positionOf s m)

/-- The state of the mesh and of the stores after a site is taken out, without the span map. -/
def takenOut (m : Nat) (s : State) : State :=
  zeroSites (fun j => j == m || some j == takenOver m s)
    { s with mesh := { s.mesh with sites := sitesAfter m s, cover := coverAfter m s, pendingRet := s.mesh.pendingRet.erase m }
             tiles := amDel (match takenOver m s with | some n => amDel s.tiles n | none => s.tiles) m }

theorem replaceSite_takenOut (m : Nat) (s : State) : (replaceSite m s).1 = (takenOver m s).isSome ∧
    Only [.events, .fabric] (takenOut m s) (replaceSite m s).2 := by
  refine ⟨rfl, ?_⟩
  have made : (replaceSite m s).2 =
      if (holder (takenOut m s) (fieldOf (positionOf s m))).isNone then takenOut m s
      else if (takenOver m s).isSome then spanPosition (positionOf s m) (takenOut m s)
      else { takenOut m s with fabric := { (takenOut m s).fabric with
        spanKept := amSet (takenOut m s).fabric.spanKept (positionOf s m) (physical s (positionOf s m)) } } := by
    unfold replaceSite takenOut sitesAfter coverAfter
    dsimp only
    generalize hsp : takenOver m s = sp
    unfold takenOver at hsp
    rw [hsp]
    cases sp <;> rfl
  rw [made]
  split
  · exact (Keeps.refl [.events, .fabric] _).only
  · split
    · exact (spanPosition_keeps ..).only
    · intro r hr
      cases r <;> first | rfl | simp at hr

theorem takenOut_mesh (m : Nat) (s : State) : (takenOut m s).mesh =
    { s.mesh with sites := sitesAfter m s, cover := coverAfter m s, pendingRet := s.mesh.pendingRet.erase m } := rfl

/-- A site that is taken out is absent, and an absent one stays so. -/
theorem absent_sitesAfter {m k : Nat} {s : State} (h : k = m ∨ siteAbsent s k = true) (d : SiteState)
    (hd : siteState s k = amGet s.mesh.sites k d) : absentState (amGet (sitesAfter m s) k d) = true := by
  have notSpare (hk : k ≠ m) (n : Nat) (hn : takenOver m s = some n) : k ≠ n := by
    rintro rfl
    have spare : siteState s k = .spare := by
      unfold takenOver at hn
      split at hn
      · exact absurd hn (by simp)
      · exact siteState_of_nearestSpare hn
    have gone := h.resolve_left hk
    rw [siteAbsent_eq, spare] at gone
    exact absurd gone (by decide)
  have kept (hk : k ≠ m) : absentState (amGet s.mesh.sites k d) = true := by
    have gone := h.resolve_left hk
    rwa [siteAbsent_eq, hd] at gone
  unfold sitesAfter
  dsimp only
  cases hsp : takenOver m s with
  | some n =>
    dsimp only
    rw [amGet_amSet]
    by_cases hk : k = m
    · subst hk
      have other : k ≠ n := by
        rintro rfl
        unfold takenOver at hsp
        split at hsp
        · exact absurd hsp (by simp)
        · next hne => exact hne (siteState_of_nearestSpare hsp)
      rw [if_neg other, amGet_amSet, if_pos rfl]
      split
      · split <;> rfl
      · rfl
    · rw [if_neg (notSpare hk n hsp), amGet_amSet, if_neg hk]
      exact kept hk
  | none =>
    dsimp only
    have own : absentState (amGet (amSet s.mesh.sites m (if positionOf s m = m then
        (if (takenOver m s).isSome = true then SiteState.retiredCovered else .retiredUncovered) else .retiredUncovered)) k d) = true := by
      rw [amGet_amSet]
      by_cases hk : k = m
      · rw [if_pos hk]
        split
        · split <;> rfl
        · rfl
      · rw [if_neg hk]
        exact kept hk
    by_cases hpos : positionOf s m = m
    · rw [hsp] at own
      rw [if_pos hpos]
      exact own
    · rw [if_neg hpos] at own
      rw [if_neg hpos, amGet_amSet]
      split
      · rfl
      · exact own

/-- A site is out of service: absent, its tile blank and its stores without a byte (R191, R193). -/
structure SiteGone (k : Nat) (s : State) : Prop where
  absent : siteAbsent s k = true
  tile : getTile s k = {}
  stores : ∀ c ∈ s.mem, ¬c.1 / 0x400000 = k

theorem SiteGone.kept {k : Nat} {s t : State} (h : SiteGone k s) (hs : t.mesh.sites = s.mesh.sites) (hi : t.ident = s.ident)
    (ht : t.tiles = s.tiles) (hm : t.mem = s.mem) : SiteGone k t where
  absent := by rw [siteAbsent_eq, siteState_congr hs hi, ← siteAbsent_eq]; exact h.absent
  tile := by
    have tile := h.tile
    unfold getTile at tile ⊢
    rw [ht]
    exact tile
  stores := by rw [hm]; exact h.stores

theorem cellGet_of_absent {m : List Host.Cell} {a : Nat} (h : ∀ c ∈ m, c.1 ≠ a) : cellGet m a = memDefault := by
  induction m with
  | nil => rfl
  | cons c m ih =>
    obtain ⟨k, b⟩ := c
    obtain ⟨hk, hm⟩ := List.forall_mem_cons.mp h
    rw [cellGet_cons, if_neg hk, ih hm]
    split <;> rfl

theorem SiteGone.readByte {k : Nat} {s : State} (h : SiteGone k s) {key : Nat} (hk : key / 0x400000 = k) : readByte s key = 0 :=
  cellGet_of_absent fun c hc hck => h.stores c hc (by rw [hck]; exact hk)

theorem getTile_amDel {tiles : AMap Tile} {m k : Nat} (h : k = m ∨ amGet tiles k {} = ({} : Tile)) : amGet (amDel tiles m) k {} = ({} : Tile) := by
  unfold amGet at h ⊢
  rw [amFind_amDel]
  by_cases hk : k = m
  · rw [if_pos hk]
    rfl
  · rw [if_neg hk]
    exact h.resolve_left hk

theorem siteGone_takenOut {m k : Nat} {s : State} (h : k = m ∨ SiteGone k s) : SiteGone k (takenOut m s) where
  absent := by
    rw [siteAbsent_eq]
    exact absent_sitesAfter (h.imp_right SiteGone.absent) (testState s.ident.grade k) rfl
  tile := by
    refine getTile_amDel (h.imp_right fun g => ?_)
    have tile := g.tile
    split
    · exact getTile_amDel (.inr tile)
    · exact tile
  stores := by
    intro c hc
    obtain ⟨hin, hq⟩ := List.mem_filter.mp hc
    obtain rfl | gone := h
    · intro hk
      rw [hk] at hq
      simp at hq
    · exact gone.stores c hin

theorem siteGone_replaceSite {m k : Nat} {s : State} (h : k = m ∨ SiteGone k s) : SiteGone k (replaceSite m s).2 := by
  have only := (replaceSite_takenOut m s).2
  have mesh : (replaceSite m s).2.mesh = (takenOut m s).mesh := only .mesh rfl
  exact (siteGone_takenOut h).kept (congrArg MeshS.sites mesh) (only .ident rfl) (only .tiles rfl) (only .mem rfl)

theorem routingGen_replaceSite (m : Nat) (s : State) : (replaceSite m s).2.mesh.routingGen = s.mesh.routingGen := by
  have mesh : (replaceSite m s).2.mesh = (takenOut m s).mesh := (replaceSite_takenOut m s).2 .mesh rfl
  rw [mesh, takenOut_mesh]

theorem siteGone_raise {k : Nat} {s : State} (e : EvReq) (h : SiteGone k s) : SiteGone k (raise e s) :=
  h.kept (by rw [raise_mesh]) (raise_ident ..) (raise_tiles ..) (raise_mem ..)

theorem settleRoutes_gone {k : Nat} (n : Nat) (m : Nat) {s : State} (h : SiteGone k s) :
    SiteGone k (settleRoutes n m s) ∧ (settleRoutes n m s).mesh.routingGen = s.mesh.routingGen := by
  induction n generalizing s with
  | zero => exact ⟨h, rfl⟩
  | succ n ih =>
    unfold settleRoutes
    split
    · exact ⟨h, rfl⟩
    · split
      · exact ⟨h, rfl⟩
      · next j _ =>
        obtain ⟨gone, gen⟩ := ih (siteGone_replaceSite (m := j) (.inr (siteGone_raise (evCell s 0x119 1 ⟨siteX j, siteY j, 3⟩ 0) h)))
        refine ⟨gone, gen.trans ?_⟩
        rw [routingGen_replaceSite, raise_mesh]

/-! ## New routes -/

theorem calm_sendRoutes (s : State) : Calm s (sendRoutes s) := by
  unfold sendRoutes
  refine Calm.foldl (fun s k => ?_) _ _
  dsimp only
  exact .ite (.refl s) (calm_send ..)

theorem Calm.mesh_eq {s t : State} (h : Calm s t) : t.mesh.sites = s.mesh.sites ∧ t.mesh.routingGen = s.mesh.routingGen ∧
    t.mesh.pendingRet = s.mesh.pendingRet := by
  obtain ⟨l, hl⟩ := h.mesh
  rw [hl]
  exact ⟨rfl, rfl, rfl⟩

theorem rebuildRoutes_gone {k : Nat} {s : State} (h : SiteGone k s) :
    SiteGone k (rebuildRoutes k s) ∧ (rebuildRoutes k s).mesh.routingGen = s.mesh.routingGen + 1 := by
  obtain ⟨gone, gen⟩ := settleRoutes_gone 81 k h
  unfold rebuildRoutes
  generalize settleRoutes 81 k s = u at gone gen
  obtain ⟨sites, ugen, -⟩ := (calm_sendRoutes u).mesh_eq
  have routed := (sendRoutes_keeps u).only
  have sent : SiteGone k (sendRoutes u) := gone.kept sites (routed .ident rfl) (routed .tiles rfl) (routed .mem rfl)
  dsimp only
  generalize sendRoutes u = v at sent ugen
  have latched : SiteGone k (if routesLanded v then latchEdges v else v) ∧
      (if routesLanded v then latchEdges v else v).mesh.routingGen = v.mesh.routingGen := by
    split
    · exact ⟨sent.kept rfl rfl rfl rfl, rfl⟩
    · exact ⟨sent, rfl⟩
  obtain ⟨lgone, lgen⟩ := latched
  generalize (if routesLanded v then latchEdges v else v) = w at lgone lgen
  refine ⟨siteGone_raise _ (lgone.kept rfl rfl rfl rfl), ?_⟩
  rw [raise_mesh]
  exact congrArg (· + 1) (lgen.trans (ugen.trans gen))

/-! ## The retirement -/

/-- The event of a retirement: whether a spare took the tile over (R191). -/
def retiredEvent (s : State) (k : Nat) : EvReq :=
  if (nearestSpare s k).isSome then { evCell s 0 0 (cellAt k 3) 0 with code := 0x117 }
  else { evCell s 0 0 (cellAt k 3) 0 with code := 0x118, kind := 1 }

/-- What the retirement of a tile leaves (R191, R193). -/
structure RetiredFrom (s : State) (k : Nat) (t : State) : Prop where
  gone : SiteGone k t
  gen : t.mesh.routingGen = s.mesh.routingGen + 1
  event : LastRaised (retiredEvent s k) t

theorem retireNow_retires {k : Nat} {s : State} (h : siteState s k ≠ .spare) : RetiredFrom s k (retireNow k s) := by
  have covered : (replaceSite k s).1 = (nearestSpare s k).isSome := by
    have taken : takenOver k s = nearestSpare s k := if_neg h
    rw [(replaceSite_takenOut k s).1, taken]
  obtain ⟨gone, gen⟩ := rebuildRoutes_gone (siteGone_replaceSite (m := k) (k := k) (s := s) (.inl rfl))
  have form : retireNow k s = noteChange (raise (retiredEvent s k) (rebuildRoutes k (replaceSite k s).2)) := by
    unfold retiredEvent
    rw [← covered]
    rfl
  rw [form]
  generalize rebuildRoutes k (replaceSite k s).2 = u at gone gen
  have noted := (noteChange_keeps (raise (retiredEvent s k) u)).only
  have mesh : (noteChange (raise (retiredEvent s k) u)).mesh = u.mesh := (noted .mesh rfl).trans (raise_mesh ..)
  refine ⟨?_, ?_, u, noted .events rfl⟩
  · exact (siteGone_raise _ gone).kept (by rw [mesh, raise_mesh]) (noted .ident rfl) (noted .tiles rfl) (noted .mem rfl)
  · rw [mesh, gen, routingGen_replaceSite]

theorem RetiredFrom.kept {s t u : State} {k : Nat} (h : RetiredFrom s k t) (only : Only [.settings, .regs] t u) : RetiredFrom s k u where
  gone := h.gone.kept (congrArg MeshS.sites (only .mesh rfl)) (only .ident rfl) (only .tiles rfl) (only .mem rfl)
  gen := by rw [only .mesh rfl]; exact h.gen
  event := by
    obtain ⟨v, hv⟩ := h.event
    exact ⟨v, (only .events rfl).trans hv⟩

/-- A retirement's event depends on the sites, the field owners and the partitions' domains only. -/
theorem retiredEvent_congr {s t : State} (hs : t.mesh.sites = s.mesh.sites) (hi : t.ident = s.ident) (hf : t.fld = s.fld)
    (hp : ∀ p, (getPart t p).map Part.domain = (getPart s p).map Part.domain) (k : Nat) : retiredEvent t k = retiredEvent s k := by
  have holders (f : Nat) : holder t f = holder s f := by
    unfold holder
    rw [getFld_congr hf]
  have ev : evCell t 0 0 (cellAt k 3) 0 = evCell s 0 0 (cellAt k 3) 0 := by
    unfold evCell siteDomain siteHolder
    simp only [holders, hp]
  unfold retiredEvent
  rw [nearestSpare_congr hs hi, ev]

theorem retire_of_idle {k : Nat} {s : State} (ha : siteAbsent s k = false) (hp : k ∉ s.mesh.pendingRet) (hb : siteBusy s k = false) :
    retire k s = retireNow k s := by
  have free : ¬(siteAbsent s k = true ∨ s.mesh.pendingRet.contains k = true) := by simp [ha, hp]
  unfold retire
  rw [if_neg free, if_neg (by rw [hb]; decide)]

theorem retire_of_busy {k : Nat} {s : State} (ha : siteAbsent s k = false) (hp : k ∉ s.mesh.pendingRet) (hb : siteBusy s k = true) :
    retire k s = raise (evCell s 0x116 0 (cellAt k 3) 0) { s with mesh := { s.mesh with pendingRet := s.mesh.pendingRet ++ [k] } } := by
  have free : ¬(siteAbsent s k = true ∨ s.mesh.pendingRet.contains k = true) := by simp [ha, hp]
  unfold retire
  rw [if_neg free, if_pos hb]
  rfl

theorem retire_of_pending {k : Nat} {s : State} (h : k ∈ s.mesh.pendingRet) : retire k s = s := by
  have pending : siteAbsent s k = true ∨ s.mesh.pendingRet.contains k = true := .inr (by simpa using h)
  unfold retire
  rw [if_pos pending]

end Sys2Proof.Machine
end

section
/-!
PROOF. The commands that take tiles and routers out of service, the ROUTE message and the errors of a link (R187 to R193, R204, R206).
-/

namespace Sys2Proof.Machine

open Sys2Proof

/-! ## The end of a job -/

/-- A partition without a job and without queued runs. -/
def Jobless (p : Nat) (s : State) : Prop := ∃ b, getPart s p = some b ∧ b.job = none ∧ b.queue = []

theorem Jobless.kept {p : Nat} {s t : State} (h : Jobless p s) (hp : t.parts = s.parts) : Jobless p t := by
  obtain ⟨b, hb, rest⟩ := h
  exact ⟨b, (getPart_congr hp p).trans hb, rest⟩

theorem Calm.getPart_some {s t : State} (h : Calm s t) {p : Nat} {a : Part} (ha : getPart s p = some a) :
    ∃ b, getPart t p = some b ∧ b.lasting = a.lasting := by
  have kept := h.parts p
  rw [ha] at kept
  cases hb : getPart t p with
  | none => rw [hb] at kept; exact absurd kept (by simp)
  | some b =>
    rw [hb] at kept
    exact ⟨b, rfl, Option.some.inj kept⟩

/-- The end of a job leaves its partition without one, and without runs where none was queued or a job was open. -/
theorem closeJob_jobless {p : Nat} {s : State} {a : Part} (ha : getPart s p = some a) (hq : a.queue = []) : Jobless p (closeJob p s) := by
  cases hj : a.job with
  | none =>
    rw [closeJob_without_job fun b hb => by rw [ha] at hb; injection hb with hb; rw [← hb, hj]]
    exact ⟨a, ha, hj, hq⟩
  | some j =>
    obtain ⟨u, calm, closed⟩ := closeJob_of_job ha (by rw [hj]; rfl)
    obtain ⟨b, hb, -⟩ := calm.getPart_some ha
    rw [closed]
    refine ⟨jobEnded b, ?_, rfl, rfl⟩
    rw [getPart_modPart, if_pos rfl, hb]
    rfl

/-- An abort of the runs of a partition with a job ends the job (R161, R171). -/
theorem abortRun_jobless {p code : Nat} {s : State} {a : Part} (ha : getPart s p = some a) (hj : a.job.isSome = true) :
    Jobless p (abortRun p code s) := by
  obtain ⟨u, calm, aborted⟩ := abortRun_of_job (code := code) ha hj
  obtain ⟨b, hb, -⟩ := calm.getPart_some ha
  rw [aborted]
  refine closeJob_jobless (a := { b with current := none, queue := [] }) ?_ rfl
  rw [getPart_modPart, if_pos rfl, hb]
  rfl

theorem calm_domains {s t : State} (h : Calm s t) (p : Nat) : (getPart t p).map Part.domain = (getPart s p).map Part.domain := by
  have kept := congrArg (Option.map Part.domain) (h.parts p)
  rw [Option.map_map, Option.map_map] at kept
  exact kept

/-! ## Jobs through a retirement -/

theorem jobless_modPart {p q : Nat} {s : State} {g : Part → Part} (h : Jobless p s) (hj : ∀ a, (g a).job = a.job)
    (hq : ∀ a, (g a).queue = a.queue) : Jobless p (modPart q g s) := by
  obtain ⟨b, hb, job, queue⟩ := h
  by_cases hpq : p = q
  · subst hpq
    refine ⟨g b, ?_, (hj b).trans job, (hq b).trans queue⟩
    rw [getPart_modPart, if_pos rfl, hb]
    rfl
  · refine ⟨b, ?_, job, queue⟩
    rw [getPart_modPart, if_neg hpq]
    exact hb

theorem jobless_send {p : Nat} {s : State} (m : MeshMsg) (h : Jobless p s) : Jobless p (send m s) := by
  have counted : (if !m.control && m.head.src.x == 0x1FF then ringCount (domainAccount s m.head.domain) 1 s else s).parts = s.parts := by
    split <;> rfl
  have sent := h.kept (t := { (if !m.control && m.head.src.x == 0x1FF then ringCount (domainAccount s m.head.domain) 1 s else s) with
    mesh := { (if !m.control && m.head.src.x == 0x1FF then ringCount (domainAccount s m.head.domain) 1 s else s).mesh with
      flight := (if !m.control && m.head.src.x == 0x1FF then ringCount (domainAccount s m.head.domain) 1 s else s).mesh.flight ++ [m] } }) counted
  unfold send noteTraffic
  dsimp only
  split
  · exact jobless_modPart sent (fun _ => rfl) (fun _ => rfl)
  · exact sent

theorem jobless_foldl {α : Type} {p : Nat} {g : State → α → State} (hg : ∀ s a, Jobless p s → Jobless p (g s a)) (l : List α) {s : State}
    (h : Jobless p s) : Jobless p (l.foldl g s) := by
  induction l generalizing s with
  | nil => exact h
  | cons a l ih => exact ih (hg s a h)

theorem jobless_sendRoutes {p : Nat} {s : State} (h : Jobless p s) : Jobless p (sendRoutes s) := by
  unfold sendRoutes
  refine jobless_foldl (fun s k h => ?_) _ h
  dsimp only
  split
  · exact h
  · exact jobless_send _ h

theorem jobless_retireNow {p : Nat} (k : Nat) {s : State} (h : Jobless p s) : Jobless p (retireNow k s) := by
  have replaced : Jobless p (replaceSite k s).2 := h.kept ((replaceSite_keeps k s).only .parts rfl)
  have rebuilt (u : State) (hu : Jobless p u) : Jobless p (rebuildRoutes k u) := by
    have settled := hu.kept ((settleRoutes_keeps 81 k u).only .parts rfl)
    unfold rebuildRoutes
    generalize settleRoutes 81 k u = v at settled
    have sent := jobless_sendRoutes settled
    dsimp only
    refine Jobless.kept (s := sendRoutes v) sent ?_
    rw [raise_parts]
    split <;> rfl
  have noted (e : EvReq) (u : State) (hu : Jobless p u) : Jobless p (noteChange (raise e u)) :=
    hu.kept (((noteChange_keeps _).only .parts rfl).trans (raise_parts ..))
  exact noted _ _ (rebuilt _ replaced)

/-- The corrupted units of a tile that count toward its retirement (R206). -/
def recentErrors (k : Nat) (s : State) : List Nat := ((getTile s k).uncorrected ++ [now s]).filter (fun t => now s < t + 24 * 3600 * secT)

theorem jobless_noteUncorrected {p : Nat} (k : Nat) {s : State} (h : Jobless p s) : Jobless p (noteUncorrected k s) := by
  have counted : Jobless p (modTile k (fun t => { t with uncorrected := recentErrors k s }) s) := h.kept rfl
  unfold noteUncorrected
  dsimp only
  split
  · unfold retire
    split
    · exact counted
    · split
      · exact counted.kept (raise_parts ..)
      · exact jobless_retireNow k counted
  · exact counted

/-! ## Retire requests -/

theorem siteX_siteKey {x : Nat} (h : x < 288) (y : Nat) : siteX (siteKey x y) = x := by
  unfold siteX siteKey
  omega

theorem siteY_siteKey {x : Nat} (h : x < 288) (y : Nat) : siteY (siteKey x y) = y := by
  unfold siteY siteKey
  omega

theorem cellAt_siteKey {x : Nat} (h : x < 288) (y slot : Nat) : cellAt (siteKey x y) slot = ⟨x, y, slot⟩ := by
  unfold cellAt
  rw [siteX_siteKey h, siteY_siteKey h]

theorem retireSite_of {v x y : Nat} (hx : x < 288) (hy : y < 280) (h1 : bitsOf v 31 23 = x) (h2 : bitsOf v 22 14 = y) :
    retireSite v = some (siteKey x y) := by
  unfold retireSite
  rw [h1, h2]
  exact if_pos ⟨hx, hy⟩

/-- Object 0x2B00:05: the retirement of a tile by permit (R191, R205). -/
def retireObj : Obj := ⟨0x2B00, 5, 5, 4, 4, .rwp, [.operator, .service], .single, 0, 4294967295, none, true⟩

theorem permitted_retire (bs : List Byte) (s : State) {k : Nat} (hk : retireSite (leNat bs) = some k) (he : siteState s k = .enabled) :
    permitted .operator 0x2B00 5 bs s = (true, retire k (putNum 0x2B00 5 (leNat bs) s)) := by
  have row : permitted .operator 0x2B00 5 bs s = match retireSite (leNat bs) with
    | some k => if siteState s k = .enabled then (true, retire k (putNum 0x2B00 5 (leNat bs) s)) else (false, s)
    | none => (false, s) := rfl
  rw [row, hk]
  exact if_pos he

theorem exec_retireRequest {value : Word32} {s : State} {k : Nat} (hk : retireSite value.toNat = some k) (he : siteState s k = .enabled) :
    exec (.retireRequest value) s = .next (noteWrite retireObj 5 (retire k (putNum 0x2B00 5 value.toNat s))) := by
  have found : findObj 0x2B00 5 = some retireObj := by decide +kernel
  have number : leNat (leBytes 4 value.toNat) = value.toNat := leNat_leBytes 4 value.toNat value.isLt
  have low : value.toNat ≤ 4294967295 := Nat.le_of_lt_succ value.isLt
  have range : inRange s retireObj 5 (leNat (leBytes 4 value.toNat)) = true := by
    rw [number]
    simp [inRange, retireObj, low]
  have granted : grant .operator 0x2B00 5 (leBytes 4 value.toNat) s =
      noteWrite retireObj 5 (retire k (putNum 0x2B00 5 value.toNat s)) := by
    rw [grant_of_found found (entryMissing_of_not_part rfl ..) fun _ => range,
      permitted_retire (leBytes 4 value.toNat) s (by rw [number]; exact hk) he, number]
    rfl
  have any : (retireSite value.toNat).any (fun k => siteState s k == .enabled) = true := by
    rw [hk]
    simp [he]
  rw [← granted]
  show execRetireRequest value s = _
  unfold execRetireRequest
  rw [if_pos any]

theorem retireRequest_refused {value : Word32} {s : State} {k : Nat} (hk : retireSite value.toNat = some k) (he : siteState s k ≠ .enabled) :
    Completes (.retireRequest value) s (fun t =>
      t.mesh = s.mesh ∧ t.tiles = s.tiles ∧ Raised (evCtl 0x11D 2 (activeCtl s) 0) s t) := by
  have any : ¬(retireSite value.toNat).any (fun k => siteState s k == .enabled) = true := by
    rw [hk]
    simp [he]
  have hc : exec (.retireRequest value) s = .next (raise (evCtl 0x11D 2 (activeCtl s) 0) s) := by
    show execRetireRequest value s = _
    unfold execRetireRequest
    rw [if_neg any]
    rfl
  exact completes_of_exec hc ⟨raise_mesh .., raise_tiles .., raise_events _ rfl⟩

theorem putNum_2B00_keeps (v : Nat) (s : State) : Only [.regs] s (putNum 0x2B00 5 v s) := (setReg_keeps ..).only

theorem siteBusy_congr {s t : State} (hf : t.fld = s.fld) (hp : t.parts = s.parts) (k : Nat) : siteBusy t k = siteBusy s k := by
  unfold siteBusy siteHolder holder
  rw [getFld_congr hf, funext (getPart_congr hp)]

theorem RetiredFrom.of_congr {s u t : State} {k : Nat} (h : RetiredFrom u k t)
    (hg : u.mesh.routingGen = s.mesh.routingGen) (he : retiredEvent u k = retiredEvent s k) : RetiredFrom s k t where
  gone := h.gone
  gen := by rw [h.gen, hg]
  event := by rw [← he]; exact h.event

theorem evCell_congr {s t : State} (hf : t.fld = s.fld) (hp : t.parts = s.parts) (code kind : Nat) (c : CellRef) (detail : Nat) :
    evCell t code kind c detail = evCell s code kind c detail := by
  unfold evCell siteDomain siteHolder holder
  rw [getFld_congr hf, funext (getPart_congr hp)]

theorem retireRequest_retires {value : Word32} {s : State} {k : Nat} (hk : retireSite value.toNat = some k) (he : siteState s k = .enabled)
    (hp : k ∉ s.mesh.pendingRet) (hb : siteBusy s k = false) : Completes (.retireRequest value) s (RetiredFrom s k) := by
  refine completes_of_exec (exec_retireRequest hk he) ?_
  have put := putNum_2B00_keeps value.toNat s
  generalize putNum 0x2B00 5 value.toNat s = u at put
  have mesh : u.mesh = s.mesh := put .mesh rfl
  have state : siteState u k = .enabled := (siteState_congr (congrArg MeshS.sites mesh) (put .ident rfl) k).trans he
  have present : siteAbsent u k = false := by rw [siteAbsent_eq, state]; rfl
  have free : k ∉ u.mesh.pendingRet := by rw [mesh]; exact hp
  have idle : siteBusy u k = false := (siteBusy_congr (put .fld rfl) (put .parts rfl) k).trans hb
  rw [retire_of_idle present free idle]
  have retired : RetiredFrom u k (retireNow k u) := retireNow_retires (by rw [state]; decide)
  refine RetiredFrom.kept ?_ ((noteWrite_keeps ..).only.mono rfl)
  exact retired.of_congr (congrArg MeshS.routingGen mesh)
    (retiredEvent_congr (congrArg MeshS.sites mesh) (put .ident rfl) (put .fld rfl) (fun p => by rw [getPart_congr (put .parts rfl)]) k)

theorem retireRequest_waits {value : Word32} {s : State} {k : Nat} (hk : retireSite value.toNat = some k) (he : siteState s k = .enabled)
    (hp : k ∉ s.mesh.pendingRet) (hb : siteBusy s k = true) :
    Completes (.retireRequest value) s (fun t =>
      t.mesh = { s.mesh with pendingRet := s.mesh.pendingRet ++ [k] } ∧ t.tiles = s.tiles ∧ t.mem = s.mem ∧
      Raised (evCell s 0x116 0 (cellAt k 3) 0) s t) := by
  refine completes_of_exec (exec_retireRequest hk he) ?_
  have put := putNum_2B00_keeps value.toNat s
  generalize putNum 0x2B00 5 value.toNat s = u at put
  have mesh : u.mesh = s.mesh := put .mesh rfl
  have state : siteState u k = .enabled := (siteState_congr (congrArg MeshS.sites mesh) (put .ident rfl) k).trans he
  have present : siteAbsent u k = false := by rw [siteAbsent_eq, state]; rfl
  have free : k ∉ u.mesh.pendingRet := by rw [mesh]; exact hp
  have busy : siteBusy u k = true := (siteBusy_congr (put .fld rfl) (put .parts rfl) k).trans hb
  rw [retire_of_busy present free busy]
  generalize hw : raise (evCell u 0x116 0 (cellAt k 3) 0) { u with mesh := { u.mesh with pendingRet := u.mesh.pendingRet ++ [k] } } = w
  have late := (noteWrite_keeps retireObj 5 w).only
  have wmesh : w.mesh = { u.mesh with pendingRet := u.mesh.pendingRet ++ [k] } := by rw [← hw, raise_mesh]
  refine ⟨?_, ?_, ?_, ?_⟩
  · rw [late .mesh rfl, wmesh, mesh]
  · rw [late .tiles rfl, ← hw, raise_tiles]
    exact put .tiles rfl
  · rw [late .mem rfl, ← hw, raise_mem]
    exact put .mem rfl
  · refine Eq.trans (late .events rfl) ?_
    rw [← hw, evCell_congr (put .fld rfl) (put .parts rfl)]
    exact raise_events _ (put .events rfl)

/-! ## Pending retirements -/

theorem retirement_retires {x y : Nat} {s : State} (hp : siteKey x y ∈ s.mesh.pendingRet) (hb : siteBusy s (siteKey x y) = false)
    (hs : siteState s (siteKey x y) ≠ .spare) : Completes (.retirement x y) s (RetiredFrom s (siteKey x y)) := by
  have due : (s.mesh.pendingRet.contains (siteKey x y) && !siteBusy s (siteKey x y)) = true := by simp [hp, hb]
  have hc : exec (.retirement x y) s = .next (retireNow (siteKey x y) s) := by
    show execRetirement x y s = _
    unfold execRetirement
    dsimp only
    rw [if_pos due]
  exact completes_of_exec hc (retireNow_retires hs)

theorem retirement_waits {x y : Nat} {s : State} (h : siteKey x y ∉ s.mesh.pendingRet ∨ siteBusy s (siteKey x y) = true) :
    Completes (.retirement x y) s (fun t => t = s) := by
  have waits : ¬(s.mesh.pendingRet.contains (siteKey x y) && !siteBusy s (siteKey x y)) = true := by
    obtain h | h := h <;> simp [h]
  have hc : exec (.retirement x y) s = .next s := by
    show execRetirement x y s = _
    unfold execRetirement
    dsimp only
    rw [if_neg waits]
  exact completes_of_exec hc rfl

/-! ## Routes -/

/-- The table that a ROUTE message carries (R188). -/
def routeTable (entries : List (Dir × Dir)) : AMap Nat := entries.foldl (fun m e => amSet m (dirNum e.1) (dirNum e.2)) []

theorem routeWrite_takes {x y : Nat} {s : State} {c : Ctl} (entries : List (Dir × Dir)) (h : s.lease.owner = some c) :
    Completes (.routeWrite (some c) x y entries) s (fun t =>
      getTile t (siteKey x y) = { getTile s (siteKey x y) with detours := routeTable entries } ∧
      (∀ j, j ≠ siteKey x y → getTile t j = getTile s j) ∧ t.events = s.events) := by
  generalize hu : modTile (siteKey x y) (fun (t : Tile) => { t with detours := routeTable entries }) (landRoute (siteKey x y) s) = u
  have hc : exec (.routeWrite (some c) x y entries) s = .next (if routesLanded u then latchEdges u else u) := by
    show execRouteWrite (some c) x y entries s = _
    unfold execRouteWrite
    dsimp only
    rw [if_pos ⟨rfl, h.symm⟩, ← hu]
    rfl
  have landed := (landRoute_keeps (siteKey x y) s).only
  have latched : Only [.mesh] u (if routesLanded u then latchEdges u else u) := by
    split
    · exact (latchEdges_keeps u).only
    · exact (Keeps.refl [.mesh] u).only
  have tile (j : Nat) : getTile (if routesLanded u then latchEdges u else u) j = getTile u j := by
    unfold getTile
    rw [latched .tiles rfl]
  have before (j : Nat) : getTile (landRoute (siteKey x y) s) j = getTile s j := by
    unfold getTile
    rw [landed .tiles rfl]
  refine completes_of_exec hc ⟨?_, fun j hj => ?_, ?_⟩
  · rw [tile, ← hu, getTile_modTile, if_pos rfl, before]
  · rw [tile, ← hu, getTile_modTile, if_neg hj, before]
  · rw [latched .events rfl, ← hu]
    exact landed .events rfl

theorem routeWrite_discards {x y : Nat} {s : State} {sender : Option Ctl} (entries : List (Dir × Dir))
    (h : sender = none ∨ sender ≠ s.lease.owner) :
    Completes (.routeWrite sender x y entries) s (fun t => t = raise (evCell s 0x11C 1 ⟨x, y, 3⟩ 0) s) := by
  have other : ¬(sender.isSome = true ∧ sender = s.lease.owner) := by
    rintro ⟨hs, ho⟩
    obtain rfl | h := h
    · exact absurd hs (by decide)
    · exact h ho
  have hc : exec (.routeWrite sender x y entries) s = .next (raise (evCell s 0x11C 1 ⟨x, y, 3⟩ 0) s) := by
    show execRouteWrite sender x y entries s = _
    unfold execRouteWrite
    dsimp only
    rw [if_neg other]
  exact completes_of_exec hc rfl

/-! ## Corrected errors -/

/-- The corrected errors of a tile in this hour, with the new one (R206). -/
def correctedNow (k : Nat) (s : State) : Nat := if (getTile s k).correctedHour = hourOf s then (getTile s k).corrected + 1 else 1

/-- A corrected error counted at its tile and at its field (R206). -/
def correctedCounted (k : Nat) (s : State) : State :=
  modFld (fieldOf k) (fun f => { f with corrected := sat32 (f.corrected + 1) })
    (modTile k (fun t => { t with corrected := correctedNow k s, correctedHour := hourOf s }) s)

theorem countCorrected_eq (k : Nat) (s : State) : countCorrected k s =
    if correctedNow k s = reg s 0x2B0006 1000 then
      raise (evCell (correctedCounted k s) 0x110 1 (cellAt k 3) (correctedNow k s)) (correctedCounted k s)
    else correctedCounted k s := rfl

theorem evCell_correctedCounted (k : Nat) (s : State) (code kind : Nat) (c : CellRef) (detail : Nat) :
    evCell (correctedCounted k s) code kind c detail = evCell s code kind c detail := by
  have owner (f : Nat) : (getFld (correctedCounted k s) f).owner = (getFld s f).owner := by
    unfold correctedCounted
    rw [getFld_modFld, getFld_modTile, getFld_modTile]
    split
    · next h => subst h; rfl
    · rfl
  have holders (f : Nat) : holder (correctedCounted k s) f = holder s f := by
    unfold holder
    rw [owner]
  have parts (p : Nat) : getPart (correctedCounted k s) p = getPart s p := rfl
  unfold evCell siteDomain siteHolder
  rw [holders]
  simp only [parts]

theorem flitError_corrected {x y : Nat} (hx : x < 288) (s : State) :
    Completes (.flitError x y none) s (fun t =>
      getTile t (siteKey x y) = { getTile s (siteKey x y) with corrected := correctedNow (siteKey x y) s, correctedHour := hourOf s } ∧
      getFld t (fieldOf (siteKey x y)) = { getFld s (fieldOf (siteKey x y)) with
        corrected := min ((getFld s (fieldOf (siteKey x y))).corrected + 1) 0xFFFFFFFF } ∧
      t.mesh = s.mesh ∧
      (correctedNow (siteKey x y) s = reg s 0x2B0006 1000 → Raised (evCell s 0x110 1 ⟨x, y, 3⟩ (correctedNow (siteKey x y) s)) s t) ∧
      (correctedNow (siteKey x y) s ≠ reg s 0x2B0006 1000 → t.events = s.events)) := by
  have hc : exec (.flitError x y none) s = .next (countCorrected (siteKey x y) s) := rfl
  generalize hk : siteKey x y = k at hc
  have cell : cellAt k 3 = ⟨x, y, 3⟩ := by rw [← hk, cellAt_siteKey hx]
  have tile : getTile (correctedCounted k s) k = { getTile s k with corrected := correctedNow k s, correctedHour := hourOf s } := by
    unfold correctedCounted
    rw [getTile_modFld, getTile_modTile, if_pos rfl]
  have field : getFld (correctedCounted k s) (fieldOf k) =
      { getFld s (fieldOf k) with corrected := min ((getFld s (fieldOf k)).corrected + 1) 0xFFFFFFFF } := by
    unfold correctedCounted sat32
    rw [getFld_modFld, if_pos rfl, getFld_modTile, Nat.min_comm]
  have mesh : (correctedCounted k s).mesh = s.mesh := rfl
  have events : (correctedCounted k s).events = s.events := rfl
  rw [countCorrected_eq, evCell_correctedCounted, cell] at hc
  by_cases hn : correctedNow k s = reg s 0x2B0006 1000
  · rw [if_pos hn] at hc
    refine completes_of_exec hc ⟨?_, ?_, ?_, fun _ => raise_events _ events, fun h => absurd hn h⟩
    · rw [getTile_raise, tile]
    · rw [getFld_raise, field]
    · rw [raise_mesh, mesh]
  · rw [if_neg hn] at hc
    exact completes_of_exec hc ⟨tile, field, mesh, fun h => absurd h hn, fun _ => events⟩

/-! ## Corrupted units -/

theorem noteUncorrected_below {k : Nat} {s : State} (h : (recentErrors k s).length < setting s 0x2B00 7) :
    noteUncorrected k s = modTile k (fun t => { t with uncorrected := recentErrors k s }) s := by
  unfold noteUncorrected
  exact if_neg (Nat.not_le.mpr h)

/-- What the loss of a unit reads of the tile and of the settings. -/
theorem recentErrors_congr {s t : State} (only : Only [.power, .events, .parts, .mesh] s t) (k : Nat) :
    recentErrors k t = recentErrors k s ∧ setting t 0x2B00 7 = setting s 0x2B00 7 := by
  refine ⟨?_, setting_congr (only .regs rfl) ..⟩
  unfold recentErrors getTile
  rw [only .tiles rfl, now_congr (congrArg TimeS.refCycles (only .time rfl))]

theorem exec_flitError_lost (x y : Nat) (u : LostUnit) (s : State) : exec (.flitError x y (some u)) s =
    .next (noteUncorrected (siteKey x y) (unitLost (siteKey x y) 1 u (raise (evCell s 0x111 1 ⟨x, y, 3⟩ 0) s))) := rfl

/-- A corrupted unit below the threshold, whose loss writes neither tiles nor settings. -/
theorem flitError_below {x y : Nat} {u : LostUnit} {s v : State}
    (hn : (recentErrors (siteKey x y) s).length < setting s 0x2B00 7)
    (hv : unitLost (siteKey x y) 1 u (raise (evCell s 0x111 1 ⟨x, y, 3⟩ 0) s) = v) (only : Only [.power, .events, .parts, .mesh] s v) :
    exec (.flitError x y (some u)) s =
      .next (modTile (siteKey x y) (fun t => { t with uncorrected := recentErrors (siteKey x y) s }) v) := by
  obtain ⟨recent, threshold⟩ := recentErrors_congr only (siteKey x y)
  rw [exec_flitError_lost, hv, noteUncorrected_below (by rw [recent, threshold]; exact hn), recent]

theorem land_raise_mesh (h : Head) (control : Bool) (kind : Nat) (e : EvReq) (s : State) :
    (land h control kind (raise e s)).mesh = (land h control kind s).mesh := by
  unfold land leaveMesh
  rw [raise_mesh]
  split <;> rfl

theorem send_mesh (m : MeshMsg) (s : State) : (send m s).mesh = { s.mesh with flight := s.mesh.flight ++ [m] } := by
  have traffic (d : Nat) (u : State) : (noteTraffic d u).mesh = u.mesh := by
    unfold noteTraffic
    split
    · rw [(modPart_keeps ..).only .mesh rfl]
    · rfl
  unfold send
  rw [traffic]
  dsimp only
  split <;> rfl

theorem flitError_request {x y : Nat} {u : LostUnit} {s : State}
    (hn : (recentErrors (siteKey x y) s).length < setting s 0x2B00 7) (hc : u.control = false) (hk : u.kind = 3) :
    Completes (.flitError x y (some u)) s (fun t =>
      t.mesh.flight = (land u.head false 3 s).mesh.flight ++
        [⟨⟨cellAt (siteKey x y) 3, u.head.src, 4, u.head.domain, BitVec.ofNat 16 u.reqId⟩, false, 10, [1, 3, 0, 0, 0, 0, 0, 0]⟩] ∧
      Raised (evCell s 0x111 1 ⟨x, y, 3⟩ 0) s t) := by
  have lost : unitLost (siteKey x y) 1 u (raise (evCell s 0x111 1 ⟨x, y, 3⟩ 0) s) =
      sendNotice (cellAt (siteKey x y) 3) u.head.src u.head.domain u.reqId 1 3
        (land u.head false 3 (raise (evCell s 0x111 1 ⟨x, y, 3⟩ 0) s)) := by
    unfold unitLost
    dsimp only
    rw [hc, hk]
    rfl
  have landed : Only [.power, .events, .parts, .mesh] s (land u.head false 3 (raise (evCell s 0x111 1 ⟨x, y, 3⟩ 0) s)) :=
    ((raise_keeps ..).only.mono rfl).trans ((land_keeps ..).only.mono rfl)
  have noticed := (sendNotice_keeps (cellAt (siteKey x y) 3) u.head.src u.head.domain u.reqId 1 3
    (land u.head false 3 (raise (evCell s 0x111 1 ⟨x, y, 3⟩ 0) s))).only
  refine completes_of_exec (flitError_below hn lost (landed.trans (noticed.mono rfl))) ⟨?_, ?_⟩
  · have mesh := send_mesh ⟨⟨cellAt (siteKey x y) 3, u.head.src, 4, u.head.domain, BitVec.ofNat 16 u.reqId⟩, false, 10,
      [1, 3, 0, 0, 0, 0, 0, 0]⟩ (land u.head false 3 (raise (evCell s 0x111 1 ⟨x, y, 3⟩ 0) s))
    rw [land_raise_mesh] at mesh
    exact congrArg MeshS.flight mesh
  · have events : (land u.head false 3 (raise (evCell s 0x111 1 ⟨x, y, 3⟩ 0) s)).events =
        (raise (evCell s 0x111 1 ⟨x, y, 3⟩ 0) s).events := (land_keeps ..).only .events rfl
    exact Eq.trans (noticed .events rfl) events

/-- A unit that is neither a memory request nor a reply belongs to a run (R204). -/
theorem unitLost_of_run {k reason : Nat} {u : LostUnit} (h : u.control = true ∨ (u.kind ≠ 3 ∧ u.kind ≠ 4)) (s : State) :
    unitLost k reason u s = (partOfDomain s u.head.domain).elim (land u.head u.control u.kind s)
      (fun p => abortRun p 0x40 (land u.head u.control u.kind s)) := by
  have landed : partOfDomain (land u.head u.control u.kind s) u.head.domain = partOfDomain s u.head.domain := by
    unfold partOfDomain
    rw [(land_keeps ..).only .parts rfl]
  have first : ¬((!u.control) = true ∧ u.kind = 3) := by
    obtain h | ⟨h, -⟩ := h <;> simp [h]
  have second : ¬((!u.control) = true ∧ u.kind = 4) := by
    obtain h | ⟨-, h⟩ := h <;> simp [h]
  unfold unitLost
  dsimp only
  rw [if_neg first, if_neg second, landed]
  cases partOfDomain s u.head.domain <;> rfl

theorem flitError_unowned {x y : Nat} {u : LostUnit} {s : State} (hn : (recentErrors (siteKey x y) s).length < setting s 0x2B00 7)
    (h : u.control = true ∨ (u.kind ≠ 3 ∧ u.kind ≠ 4)) (hp : partOfDomain s u.head.domain = none) :
    Completes (.flitError x y (some u)) s (fun t =>
      t.mesh = (land u.head u.control u.kind s).mesh ∧ t.parts = s.parts ∧ Raised (evCell s 0x111 1 ⟨x, y, 3⟩ 0) s t) := by
  have unowned : partOfDomain (raise (evCell s 0x111 1 ⟨x, y, 3⟩ 0) s) u.head.domain = none := by
    unfold partOfDomain at hp ⊢
    rw [raise_parts]
    exact hp
  have lost : unitLost (siteKey x y) 1 u (raise (evCell s 0x111 1 ⟨x, y, 3⟩ 0) s) =
      land u.head u.control u.kind (raise (evCell s 0x111 1 ⟨x, y, 3⟩ 0) s) := by
    rw [unitLost_of_run h, unowned, Option.elim_none]
  have landed := (land_keeps u.head u.control u.kind (raise (evCell s 0x111 1 ⟨x, y, 3⟩ 0) s)).only
  have only : Only [.power, .events, .parts, .mesh] s (land u.head u.control u.kind (raise (evCell s 0x111 1 ⟨x, y, 3⟩ 0) s)) :=
    ((raise_keeps ..).only.mono rfl).trans (landed.mono rfl)
  refine completes_of_exec (flitError_below hn lost only) ⟨?_, ?_, ?_⟩
  · exact land_raise_mesh ..
  · exact (landed .parts rfl).trans (raise_parts ..)
  · exact landed .events rfl

theorem flitError_aborts {x y p : Nat} {u : LostUnit} {s : State} {a : Part} (h : u.control = true ∨ (u.kind ≠ 3 ∧ u.kind ≠ 4))
    (hp : partOfDomain s u.head.domain = some p) (ha : getPart s p = some a) (hj : a.job.isSome = true) :
    Completes (.flitError x y (some u)) s (Jobless p) := by
  refine completes_of_exec (exec_flitError_lost x y u s) (jobless_noteUncorrected _ ?_)
  have owned : partOfDomain (raise (evCell s 0x111 1 ⟨x, y, 3⟩ 0) s) u.head.domain = some p := by
    unfold partOfDomain at hp ⊢
    rw [raise_parts]
    exact hp
  rw [unitLost_of_run h, owned]
  refine abortRun_jobless (a := a) ?_ hj
  rw [getPart_congr ((land_keeps ..).only .parts rfl), getPart_raise]
  exact ha

/-! ## Faulty routers -/

/-- A router that is off, with the event of its fault (R204). -/
def routerDown (x y : Nat) (s : State) : State :=
  raise (evCell s 0x112 1 ⟨x, y, 3⟩ 0) (modTile (siteKey x y) (fun (t : Tile) => { t with routerOff := true }) s)

theorem exec_routerFault (x y : Nat) (s : State) : exec (.routerFault x y []) s =
    .next (retire (siteKey x y) (closeAround (siteKey x y) (routerDown x y s))) := rfl

theorem routerDown_keeps (x y : Nat) (s : State) : Only [.tiles, .events] s (routerDown x y s) :=
  (((modTile_keeps ..).mono rfl).step (raise_keeps ..) rfl).only

theorem calm_closeAround (k : Nat) (s : State) : Calm s (closeAround k s) := by
  unfold closeAround
  split
  · exact calm_abortRun ..
  · exact .refl s

theorem siteBusy_closeAround (k : Nat) (s : State) : siteBusy (closeAround k s) k = false := by
  have fld : (closeAround k s).fld = s.fld := (closeAround_keeps k s).only .fld rfl
  have same : siteHolder (closeAround k s) k = siteHolder s k := by
    unfold siteHolder holder
    rw [getFld_congr fld]
  unfold siteBusy
  rw [same]
  unfold closeAround
  cases hh : siteHolder s k with
  | none => rfl
  | some p =>
    dsimp only [Option.bind_some]
    cases ha : getPart s p with
    | none =>
      rw [abortRun_without_job (by simp [ha]), ha]
    | some a =>
      cases hj : a.job with
      | none =>
        rw [abortRun_without_job fun b hb => by rw [ha] at hb; injection hb with hb; rw [← hb, hj], ha]
        simp [hj]
      | some j =>
        obtain ⟨b, hb, job, -⟩ := abortRun_jobless (code := 0x40) ha (by rw [hj]; rfl)
        rw [hb]
        simp [job]

theorem jobless_closeAround {k p : Nat} {s : State} {a : Part} (hh : siteHolder s k = some p) (ha : getPart s p = some a)
    (hj : a.job.isSome = true) : Jobless p (closeAround k s) := by
  unfold closeAround
  rw [hh]
  exact abortRun_jobless ha hj

theorem routerFault_retires {x y : Nat} {s : State} (hw : siteState s (siteKey x y) = .enabled ∨ siteState s (siteKey x y) = .spareAssigned)
    (hp : siteKey x y ∉ s.mesh.pendingRet) :
    Completes (.routerFault x y []) s (fun t => RetiredFrom s (siteKey x y) t ∧
      ∀ p a, siteHolder s (siteKey x y) = some p → getPart s p = some a → a.job.isSome = true → ∃ b, getPart t p = some b ∧ b.job = none) := by
  refine completes_of_exec (exec_routerFault x y s) ?_
  generalize siteKey x y = k at hw hp
  have down := routerDown_keeps x y s
  generalize routerDown x y s = u at down
  have umesh : u.mesh = s.mesh := down .mesh rfl
  have calm := calm_closeAround k u
  have kept := (closeAround_keeps k u).only
  have idle := siteBusy_closeAround k u
  have ended (p : Nat) (a : Part) (hh : siteHolder u k = some p) (ha : getPart u p = some a) (hj : a.job.isSome = true) :=
    jobless_closeAround hh ha hj
  obtain ⟨vsites, vgen, vpending⟩ := calm.mesh_eq
  have domains := calm_domains calm
  generalize closeAround k u = v at kept idle ended vsites vgen vpending domains
  rw [umesh] at vsites vgen vpending
  have ident : v.ident = s.ident := (kept .ident rfl).trans (down .ident rfl)
  have state : siteState v k = siteState s k := siteState_congr vsites ident k
  have present : siteAbsent v k = false := by
    rw [siteAbsent_eq, state]
    obtain h | h := hw <;> rw [h] <;> rfl
  have notSpare : siteState v k ≠ .spare := by
    rw [state]
    obtain h | h := hw <;> rw [h] <;> decide
  have free : k ∉ v.mesh.pendingRet := by rw [vpending]; exact hp
  rw [retire_of_idle present free idle]
  have fld : v.fld = s.fld := (kept .fld rfl).trans (down .fld rfl)
  refine ⟨(retireNow_retires notSpare).of_congr vgen (retiredEvent_congr vsites ident fld (fun p => ?_) k), ?_⟩
  · rw [domains, getPart_congr (down .parts rfl)]
  · intro p a hh ha hj
    have holder' : siteHolder u k = some p := by
      unfold siteHolder holder at hh ⊢
      rw [getFld_congr (down .fld rfl)]
      exact hh
    obtain ⟨b, hb, job, -⟩ := jobless_retireNow k (ended p a holder' ((getPart_congr (down .parts rfl) p).trans ha) hj)
    exact ⟨b, hb, job⟩

theorem routerFault_pending {x y : Nat} {s : State} (hp : siteKey x y ∈ s.mesh.pendingRet) (hh : siteHolder s (siteKey x y) = none) :
    Completes (.routerFault x y []) s (fun t =>
      getTile t (siteKey x y) = { getTile s (siteKey x y) with routerOff := true } ∧ t.mesh = s.mesh ∧
      Raised (evCell s 0x112 1 ⟨x, y, 3⟩ 0) s t) := by
  have down := routerDown_keeps x y s
  have tile : getTile (routerDown x y s) (siteKey x y) = { getTile s (siteKey x y) with routerOff := true } := by
    unfold routerDown
    rw [getTile_raise, getTile_modTile, if_pos rfl]
  have event : Raised (evCell s 0x112 1 ⟨x, y, 3⟩ 0) s (routerDown x y s) := raise_events _ rfl
  refine completes_of_exec (exec_routerFault x y s) ?_
  generalize siteKey x y = k at hp hh tile
  generalize routerDown x y s = u at down tile event
  have unheld : closeAround k u = u := by
    have none' : siteHolder u k = none := by
      unfold siteHolder holder at hh ⊢
      rw [getFld_congr (down .fld rfl)]
      exact hh
    unfold closeAround
    rw [none']
  have pending : k ∈ u.mesh.pendingRet := by rw [down .mesh rfl]; exact hp
  rw [unheld, retire_of_pending pending]
  exact ⟨tile, down .mesh rfl, event⟩

/-- What a retirement leaves, as the obligation says it. -/
theorem RetiredFrom.spelled {s t : State} {x y : Nat} (hx : x < 288) (h : RetiredFrom s (siteKey x y) t) :
    siteAbsent t (siteKey x y) = true ∧ t.mesh.routingGen = s.mesh.routingGen + 1 ∧ getTile t (siteKey x y) = {} ∧
    (∀ key, key / 0x400000 = siteKey x y → readByte t key = 0) ∧
    LastRaised (if (nearestSpare s (siteKey x y)).isSome then { evCell s 0 0 ⟨x, y, 3⟩ 0 with code := 0x117 }
      else { evCell s 0 0 ⟨x, y, 3⟩ 0 with code := 0x118, kind := 1 }) t := by
  have event := h.event
  unfold retiredEvent at event
  rw [cellAt_siteKey hx] at event
  exact ⟨h.gone.absent, h.gen, h.gone.tile, fun key hk => h.gone.readByte hk, event⟩

theorem completes_imp {c : Instr} {s : State} {q r : State → Prop} (h : Completes c s q) (hqr : ∀ t, q t → r t) : Completes c s r := by
  obtain ⟨t, hc, only, hq⟩ := h
  exact ⟨t, hc, only, hqr t hq⟩

/-- Settles O25: the retirement of a tile is one lemma, and each command that retires one reaches it with the sites as they were. -/
theorem tilesRetireAndRoutersTakeTheirEntries : Obligations.TilesRetireAndRoutersTakeTheirEntries := by
  unfold Obligations.TilesRetireAndRoutersTakeTheirEntries
  intro x y s hx hy
  refine ⟨fun value h1 h2 => ?_, fun hw hp hb => ?_, retirement_waits, ?_, ?_, ?_, fun u hn => ⟨?_, ?_, ?_⟩, fun hw hp => ?_, ?_⟩
  · have hk := retireSite_of hx hy h1 h2
    refine ⟨fun he hp hb => ?_, fun he hp hb => ?_, fun he => retireRequest_refused hk he⟩
    · exact completes_imp (retireRequest_retires hk he hp hb) fun t h => RetiredFrom.spelled hx h
    · have waits := retireRequest_waits hk he hp hb
      rw [cellAt_siteKey hx] at waits
      exact waits
  · refine completes_imp (retirement_retires hp hb ?_) fun t h => RetiredFrom.spelled hx h
    obtain h | h := hw <;> rw [h] <;> decide
  · exact fun c entries h => routeWrite_takes entries h
  · exact fun sender entries h => routeWrite_discards entries h
  · rintro n rfl
    exact flitError_corrected hx s
  · exact fun hc hk => flitError_request hn hc hk
  · exact fun h hp => flitError_unowned hn h hp
  · exact fun p a h hp ha hj => flitError_aborts h hp ha hj
  · exact completes_imp (routerFault_retires hw hp) fun t h => ⟨RetiredFrom.spelled hx h.1, h.2⟩
  · exact fun _ hp hh => routerFault_pending hp hh

end Sys2Proof.Machine
end

section
/-!
PROOF. The counter aggregates (R110 to R112): the trigger names a partition and section, the completion sums what the cells supply.
-/

namespace Sys2Proof.Machine

open Sys2Proof

/-! ## The trigger -/

/-- The trigger of the aggregates, which the operator and every tenant may write (R111). -/
def triggerObj : Obj := ⟨0x2F00, 3, 3, 1, 1, .wo, [.operator, .tenant], .single, 0, 1, none, true⟩

theorem findObj_trigger : findObj 0x2F00 3 = some triggerObj := by rfl

theorem indexExists_trigger : indexExists 0x2F00 = true := by rfl

theorem mayWrite_trigger (w : Asker) : mayWrite w triggerObj 3 = true := by
  unfold mayWrite
  cases w.own <;> rfl

theorem ruleWrite_trigger (own : Option Nat) (v : Nat) (s : State) : ruleWrite own 0x2F00 3 v s =
    if v = 0 then (0, s) else if s.crest.aggStatus = 1 then (0x08000022, s) else (0, aggStart s) := rfl

/-- A trigger of 0 or 1 passes every check of R396, and nothing of it is stored. -/
theorem writeObject_trigger (w : Asker) (sdo : Bool) {v : Nat} (hv : v ≤ 1) (s : State) :
    writeObject w sdo 0x2F00 3 (leBytes 1 v) s = ruleWrite w.own 0x2F00 3 v s := by
  have row : writeObject w sdo 0x2F00 3 (leBytes 1 v) s = writeFound w sdo triggerObj 3 (leBytes 1 v) s := by
    unfold writeObject
    rw [indexExists_trigger, findObj_trigger]
    rfl
  have first : (sdo && triggerObj.index == 0x2510 && 3 == 1 && s.sec.opKey.isNone) = false := by simp [triggerObj]
  have missing : entryMissing s triggerObj 3 = false := entryMissing_of_not_part rfl ..
  have number : leNat (leBytes 1 v) = v := leNat_leBytes 1 v (by omega)
  have range : inRange s triggerObj 3 v = true := by
    obtain rfl | rfl : v = 0 ∨ v = 1 := by omega
    · rfl
    · rfl
  rw [row]
  unfold writeFound
  rw [first, mayWrite_trigger, missing, number, range]
  simp only [triggerObj, length_leBytes, reduceCtorEq, if_false, Bool.not_true, Bool.false_eq_true, Nat.reduceLeDiff, ne_eq, not_true, false_and, ge_iff_le]
  exact Prod.ext rfl (ite_self _)

theorem writes_trigger {via : Via} {v : Nat} {s : State} {q : State → Nat → State → Prop} (hs : Served via s) (hv : v ≤ 1)
    (hq : ∀ u, Accepted s u →
      q u (ruleWrite (writer via s).own 0x2F00 3 v u).1 (ruleWrite (writer via s).own 0x2F00 3 v u).2) :
    Writes (.aggregateTrigger via v) via s q := by
  have hc : exec (.aggregateTrigger via v) s =
      .next (viaWrite (.aggregateTrigger via v) via 0x2F00 3 (leBytes 1 v) s) := by
    show execAggregateTrigger via v s = _
    unfold execAggregateTrigger viaNum
    rw [if_pos (by omega)]
  refine writes_of_viaWrite hc hs (fun t ht => (exec_keeps _ ht).only) fun u sdo hu => ?_
  rw [writeObject_trigger _ sdo hv]
  exact hq u hu

/-- The section that the selection names, 0 where there is none (R111). -/
def aggNamed (s : State) : Nat :=
  ((getPart s (setting s 0x2F00 1)).map (fun (a : Part) => if setting s 0x2F00 2 == 1 then a.prevSec else a.lastSec)).getD 0

theorem aggNamed_accepted {s u : State} (h : Accepted s u) : aggNamed u = aggNamed s := by
  unfold aggNamed
  simp only [setting_accepted h, getPart_accepted h]

theorem aggStart_crest (s : State) : aggStart s = { s with crest :=
    (if aggNamed s = 0 then { s.crest with aggStatus := 4 }
     else { s.crest with aggStatus := 1, aggPart := setting s 0x2F00 1, aggPrev := setting s 0x2F00 2 == 1, aggSection := aggNamed s }) } := by
  unfold aggStart aggNamed
  dsimp only
  cases getPart s (setting s 0x2F00 1) with
  | none => rfl
  | some a =>
    dsimp only [Option.map_some, Option.getD_some]
    by_cases h : (if setting s 0x2F00 2 == 1 then a.prevSec else a.lastSec) = 0
    · rw [if_pos h, if_pos h]
    · rw [if_neg h, if_neg h]

/-! ## The completion -/

/-- Two sets of counters, added counter by counter (R111). -/
def addSets (m n : NumCounters) : NumCounters :=
  { flushIn := m.flushIn + n.flushIn, flushOut := m.flushOut + n.flushOut, saturated := m.saturated + n.saturated
    nanIn := m.nanIn + n.nanIn, invalid := m.invalid + n.invalid }

/-- A counter that adds up set by set is, of the sum of a list, the sum of the list's. -/
theorem foldl_addSets (g : NumCounters → Nat) (hg : ∀ m n, g (addSets m n) = g m + g n) (l : List NumCounters) (m : NumCounters) :
    g (l.foldl addSets m) = g m + (l.map g).sum := by
  induction l generalizing m with
  | nil => rfl
  | cons n l ih => rw [List.foldl_cons, ih, hg, List.map_cons, List.sum_cons, Nat.add_assoc]

theorem sum_addSets (g : NumCounters → Nat) (hg : ∀ m n, g (addSets m n) = g m + g n) (h0 : g {} = 0) (l : List NumCounters) :
    g (l.foldl addSets {}) = (l.map g).sum := by
  rw [foldl_addSets g hg, h0, Nat.zero_add]

/-- The sets that the cells of the named partition supply for the named section (R111). -/
def suppliedSets (s : State) : List NumCounters :=
  (partCells s s.crest.aggPart).filterMap (fun c => suppliedSet c s.crest.aggSection s.crest.aggPrev)

theorem aggFinish_forms {s : State} (h : s.crest.aggStatus = 1) : aggFinish s = { s with crest := { s.crest with
    aggStatus := if (!s.crest.aggPrev && (((getPart s s.crest.aggPart).bind Part.current).map Current.sec) == some s.crest.aggSection) = true
      then 3 else 2
    aggSums := (suppliedSets s).foldl addSets {}
    aggStopped := ((suppliedSets s).map stoppedIn).sum } } := by
  unfold aggFinish
  exact if_neg (not_not_intro h)

theorem aggregateComplete_sums {s : State} (h : s.crest.aggStatus = 1) : Completes .aggregateComplete s (fun t =>
    t.crest.aggSums = (suppliedSets s).foldl addSets {} ∧ t.crest.aggStopped = ((suppliedSets s).map stoppedIn).sum ∧
    t.crest.counters = s.crest.counters ∧ t.crest.watches = s.crest.watches ∧ t.crest.aggSection = s.crest.aggSection ∧
    t.crest.aggStatus =
      (if s.crest.aggPrev = false ∧
          ((getPart s s.crest.aggPart).bind Part.current).map Current.sec = some s.crest.aggSection then 3 else 2)) := by
  have hc : exec .aggregateComplete s = .next (aggFinish s) := rfl
  rw [aggFinish_forms h] at hc
  refine completes_of_exec hc ⟨rfl, rfl, rfl, rfl, rfl, ?_⟩
  dsimp only
  simp only [Bool.and_eq_true, Bool.not_eq_true', beq_iff_eq]

theorem aggregateComplete_idle {s : State} (h : s.crest.aggStatus ≠ 1) : Completes .aggregateComplete s (fun t => t = s) := by
  have hc : exec .aggregateComplete s = .next s := by
    show execAggregateComplete s = _
    unfold execAggregateComplete aggFinish
    dsimp only
    rw [if_pos h]
  exact completes_of_exec hc rfl

/-- Settles O26: the trigger's rule is read off the accepted state, and each counter of the sum is the sum of that counter. -/
theorem counterAggregatesSumTheCells : Obligations.CounterAggregatesSumTheCells := by
  unfold Obligations.CounterAggregatesSumTheCells
  intro s
  refine ⟨fun via hs => ?_, fun via hs => ?_, fun h => ?_, aggregateComplete_idle⟩
  · refine writes_trigger hs (Nat.zero_le 1) fun u _ => ?_
    rw [ruleWrite_trigger, if_pos rfl]
    exact ⟨rfl, rfl⟩
  · refine writes_trigger hs (Nat.le_refl 1) fun u hu => ?_
    have status : u.crest.aggStatus = s.crest.aggStatus := by rw [hu.only .crest rfl]
    rw [ruleWrite_trigger, if_neg Nat.one_ne_zero, status]
    dsimp only
    by_cases h1 : s.crest.aggStatus = 1
    · rw [if_pos h1, if_pos h1]
      exact ⟨rfl, rfl⟩
    · rw [if_neg h1, if_neg h1]
      refine ⟨rfl, (aggStart_crest u).trans ?_⟩
      rw [aggNamed_accepted hu, setting_accepted hu, setting_accepted hu]
      rfl
  · refine completes_imp (aggregateComplete_sums h) fun t ht => ?_
    obtain ⟨sums, rest⟩ := ht
    rw [sums]
    have counters (g : NumCounters → Nat) (hg : ∀ m n, g (addSets m n) = g m + g n) (h0 : g {} = 0) :=
      sum_addSets g hg h0 (suppliedSets s)
    exact ⟨counters _ (fun _ _ => rfl) rfl, counters _ (fun _ _ => rfl) rfl, counters _ (fun _ _ => rfl) rfl,
      counters _ (fun _ _ => rfl) rfl, counters _ (fun _ _ => rfl) rfl, rest⟩

end Sys2Proof.Machine
end

section
/-!
PROOF. The controllers' images (R387 to R389): a boot takes the preferred slot that verifies, and a trial is confirmed or reverted.
-/

namespace Sys2Proof.Machine

open Sys2Proof

theorem otherCtl_ne (c : Ctl) : otherCtl c ≠ c := by cases c <;> decide

theorem ne_iff_otherCtl {c d : Ctl} : d ≠ c ↔ d = otherCtl c := by cases c <;> cases d <;> decide

theorem getCtl_congr {s t : State} (hc : t.cope = s.cope) (hd : t.drag = s.drag) (c : Ctl) : getCtl c t = getCtl c s := by
  cases c
  · exact hc
  · exact hd

theorem getCtl_raised (c : Ctl) (e : EvReq) (s : State) : getCtl c (raise e s) = getCtl c s :=
  getCtl_congr (raise_cope ..) (raise_drag ..) c

theorem getCtl_accepted {s u : State} (h : Accepted s u) (c : Ctl) : getCtl c u = getCtl c s :=
  getCtl_congr (h.only .cope rfl) (h.only .drag rfl) c

@[simp] theorem slotState_setSlotState_same (b : Bool) (x : ImgSlot) (k : CtlS) : slotState (setSlotState b x k) b = x := by
  cases b <;> rfl

@[simp] theorem slotState_setSlotState_other (b : Bool) (x : ImgSlot) (k : CtlS) :
    slotState (setSlotState b x k) (!b) = slotState k (!b) := by
  cases b <;> rfl

@[simp] theorem slotSec_setSlotState (b c : Bool) (x : ImgSlot) (k : CtlS) : slotSec (setSlotState b x k) c = slotSec k c := by
  cases b <;> rfl

/-! ## Boots -/

/-- What a boot of a slot leaves (R388). -/
structure BootedFrom (s : State) (c : Ctl) (b : Bool) (t : State) : Prop where
  own : getCtl c t = { getCtl c s with runningB := some b, booted := true }
  other : getCtl (otherCtl c) t = getCtl (otherCtl c) s
  lease : t.lease = if s.lease.owner = some (otherCtl c) then { s.lease with standby := .booting } else s.lease
  events : t.events = s.events

theorem bootSlot_boots {c : Ctl} {s : State} (b : Bool) (h : s.settings.trial = none) : BootedFrom s c b (bootSlot c b s) := by
  generalize hm : modCtl c (fun k => { k with runningB := some b, booted := true }) s = m
  have own : getCtl c m = { getCtl c s with runningB := some b, booted := true } := by rw [← hm, getCtl_modCtl, if_pos rfl]
  have other : getCtl (otherCtl c) m = getCtl (otherCtl c) s := by rw [← hm, getCtl_modCtl, if_neg (otherCtl_ne c)]
  have lease : m.lease = s.lease := by rw [← hm, modCtl_lease]
  have events : m.events = s.events := by rw [← hm, modCtl_events]
  have trial : m.settings.trial = none := by rw [← hm, modCtl_settings, h]
  have owned : (m.lease.owner.isSome ∧ m.lease.owner ≠ some c) ↔ s.lease.owner = some (otherCtl c) := by
    rw [lease]
    cases s.lease.owner with
    | none => simp
    | some d => simp [ne_iff_otherCtl]
  have hb : bootSlot c b s =
      if s.lease.owner = some (otherCtl c) then { m with lease := { m.lease with standby := .booting } } else m := by
    unfold bootSlot
    dsimp only
    rw [hm, trial]
    exact ite_cond_congr (propext owned)
  rw [hb]
  split
  · exact ⟨by rw [← own]; cases c <;> rfl, by rw [← other]; cases c <;> rfl, by rw [if_pos ‹_›, lease], events⟩
  · exact ⟨own, other, by rw [if_neg ‹_›, lease], events⟩

/-- What CONTROLLER_BOOT does where no trial runs (R388). -/
theorem exec_controllerBoot {c : Ctl} {s : State} (hb : (getCtl c s).booted = false) (hstep : 4 ≤ s.pilot.step ∨ linkWait s = true)
    (ht : s.settings.trial = none) : exec (.controllerBoot c) s = .next (
      if bootable (getCtl c s) (getCtl c s).prefB then bootSlot c (getCtl c s).prefB s
      else if bootable (getCtl c s) (!(getCtl c s).prefB) then bootSlot c (!(getCtl c s).prefB) (raise (evCtl 0x312 1 (otherCtl c) 0) s)
      else raise (evCtl 0x312 1 (otherCtl c) 0) (modCtl c (fun k => { k with runningB := none }) s)) := by
  have waits : ((getCtl c s).booted || (decide (s.pilot.step < 4) && !linkWait s)) = false := by
    rw [hb]
    obtain h | h := hstep
    · simp [Nat.not_lt.mpr h]
    · simp [h]
  have trial : ((s.settings.trial.map Prod.fst) == some c) = false := by rw [ht]; rfl
  show execControllerBoot c s = _
  unfold execControllerBoot
  dsimp only
  rw [waits, trial]
  rfl

/-! ## Trials -/

/-- The objects that start and confirm a trial (R427). -/
def trialObj (sub : Nat) : Obj := ⟨0x2920, sub, sub, 1, 1, .wo, [.operator], .single, 1, 1, none, true⟩

theorem operatorNumber_startTrial : OperatorNumber 0x2920 5 (trialObj 5) where
  known := by decide +kernel
  found := by decide +kernel
  named := rfl
  acc := .inr rfl
  operator := rfl
  number := by decide
  notKey := by decide

theorem operatorNumber_confirmTrial : OperatorNumber 0x2920 6 (trialObj 6) where
  known := by decide +kernel
  found := by decide +kernel
  named := rfl
  acc := .inr rfl
  operator := rfl
  number := by decide
  notKey := by decide

theorem saved_startTrial (s : State) : saved 0x2920 5 s = s := by
  unfold saved
  rw [operatorNumber_startTrial.found]
  rfl

theorem saved_confirmTrial (s : State) : saved 0x2920 6 s = s := by
  unfold saved
  rw [operatorNumber_confirmTrial.found]
  rfl

/-- A trial operation as the code and the state of a write that is not stored (R427). -/
def trialOutcome (r : Bool × State) : Nat × State := (if r.1 then 0 else 0x08000022, r.2)

theorem ruled_startTrial (s : State) : ruled 0x2920 5 1 s = trialOutcome (startTrialOp s) := by
  unfold ruled
  rw [saved_startTrial, ite_self]
  rfl

theorem ruled_confirmTrial (s : State) : ruled 0x2920 6 1 s = trialOutcome (confirmTrialOp s) := by
  unfold ruled
  rw [saved_confirmTrial, ite_self]
  rfl

theorem writes_startTrial {via : Via} {s : State} {q : State → Nat → State → Prop} (hs : Served via s) (hown : (writer via s).own = none)
    (hq : ∀ u, Accepted s u → q u (trialOutcome (startTrialOp u)).1 (trialOutcome (startTrialOp u)).2) :
    Writes (.startTrial via 1) via s q := by
  refine writes_number rfl hs hown operatorNumber_startTrial rfl (by decide) (entryMissing_of_not_part rfl ..) rfl fun u hu => ?_
  rw [ruled_startTrial]
  exact hq u hu

theorem writes_confirmTrial {via : Via} {s : State} {q : State → Nat → State → Prop} (hs : Served via s) (hown : (writer via s).own = none)
    (hq : ∀ u, Accepted s u → q u (trialOutcome (confirmTrialOp u)).1 (trialOutcome (confirmTrialOp u)).2) :
    Writes (.confirmTrial via 1) via s q := by
  refine writes_number rfl hs hown operatorNumber_confirmTrial rfl (by decide) (entryMissing_of_not_part rfl ..) rfl fun u hu => ?_
  rw [ruled_confirmTrial]
  exact hq u hu

/-- A trial can start: none runs, the target is not the active controller, and the standby's inactive slot is valid (R389, R427). -/
def TrialAllowed (s : State) : Prop :=
  let k := getCtl (otherCtl (activeCtl s)) s
  s.settings.trial = none ∧ targetCtl s ≠ some (activeCtl s) ∧ k.booted = true ∧ slotState k (inactiveB k) = .valid

theorem trialAllowed_accepted {s u : State} (h : Accepted s u) : TrialAllowed u ↔ TrialAllowed s := by
  unfold TrialAllowed targetCtl
  rw [activeCtl_accepted h, getCtl_accepted h, h.only .settings rfl]

/-- The standby as the trial leaves it: restarting on its inactive slot (R389). -/
def onTrial (k : CtlS) : CtlS := { setSlotState (inactiveB k) .trial k with booted := false, runningB := some (inactiveB k), readyAt := none }

/-- The state of a trial that has started (R389). -/
def trialStarted (c : Ctl) (s : State) : State :=
  { modCtl c onTrial s with
      settings := { s.settings with trial := some (c, now s + 600 * secT) }, lease := { s.lease with standby := .trial } }

theorem startTrialOp_starts {s : State} (h : TrialAllowed s) : startTrialOp s =
    (true, raise (evCtl 0x30F 0 (otherCtl (activeCtl s)) 0) (trialStarted (otherCtl (activeCtl s)) s)) := by
  obtain ⟨ht, hx, hb, hv⟩ := h
  unfold startTrialOp
  dsimp only
  rw [ht, hb, hv]
  have other : (targetCtl s == some (activeCtl s)) = false := beq_eq_false_iff_ne.mpr hx
  rw [other]
  unfold trialStarted
  cases otherCtl (activeCtl s) <;> rfl

theorem startTrialOp_refused {s : State} (h : ¬TrialAllowed s) : startTrialOp s = (false, s) := by
  unfold startTrialOp
  refine if_pos ?_
  by_contra hn
  refine h ?_
  unfold TrialAllowed
  simp only [Bool.or_eq_true, not_or, Bool.not_eq_true, Option.isSome_eq_false_iff, Option.isNone_iff_eq_none, beq_eq_false_iff_ne,
    Bool.not_eq_false', bne_eq_false_iff_eq] at hn
  obtain ⟨⟨⟨ht, hx⟩, hb⟩, hv⟩ := hn
  exact ⟨ht, hx, hb, hv⟩

theorem getCtl_trialStarted (c x : Ctl) (s : State) : getCtl x (trialStarted c s) = if x = c then onTrial (getCtl c s) else getCtl x s := by
  rw [← getCtl_modCtl]
  cases x <;> rfl

/-- A controller whose trial has been confirmed (R389). -/
def confirmed (b : Bool) (k : CtlS) : CtlS := { setSlotState b .valid k with prefB := b, minSec := max k.minSec (slotSec k b) }

/-- A controller whose trial has ended unconfirmed (R389). -/
def reverted (b : Bool) (k : CtlS) : CtlS := { setSlotState b .valid k with booted := false, runningB := some (!b), readyAt := none }

/-- The state after a trial: its controller changed, no trial, and the standby's state (R389, R427). -/
def trialEnded (c : Ctl) (f : CtlS → CtlS) (sb : StandbyState) (s : State) : State :=
  { modCtl c f s with settings := { s.settings with trial := none }, lease := { s.lease with standby := sb } }

theorem getCtl_trialEnded (c : Ctl) (f : CtlS → CtlS) (sb : StandbyState) (s : State) : getCtl c (trialEnded c f sb s) = f (getCtl c s) := by
  cases c <;> rfl

theorem trialEnded_events (c : Ctl) (f : CtlS → CtlS) (sb : StandbyState) (s : State) : (trialEnded c f sb s).events = s.events := by
  cases c <;> rfl

theorem confirmTrialOp_confirms {s : State} {c : Ctl} {n : Nat} (h : s.settings.trial = some (c, n)) : confirmTrialOp s =
    (true, raise (evCtl 0x310 0 c 0) (trialEnded c (confirmed ((getCtl c s).runningB.getD false))
      (if s.lease.standby = .trial then .ready else s.lease.standby) s)) := by
  unfold confirmTrialOp
  rw [h]
  cases c <;> rfl

theorem confirmTrialOp_refused {s : State} (h : s.settings.trial = none) : confirmTrialOp s = (false, s) := by
  unfold confirmTrialOp
  rw [h]

theorem revertTrial_reverts {s : State} {c : Ctl} {n : Nat} (h : s.settings.trial = some (c, n)) : revertTrial s =
    raise (evCtl 0x311 1 c 0) (trialEnded c (reverted ((getCtl c s).runningB.getD false)) .booting s) := by
  unfold revertTrial
  rw [h]
  cases c <;> rfl

theorem confirmed_spelled (b : Bool) (k : CtlS) : (confirmed b k).prefB = b ∧ slotState (confirmed b k) b = .valid ∧
    (confirmed b k).minSec = max k.minSec (slotSec k b) ∧ (confirmed b k).runningB = k.runningB := by
  cases b <;> exact ⟨rfl, rfl, rfl, rfl⟩

theorem reverted_spelled (b : Bool) (k : CtlS) : (reverted b k).booted = false ∧ (reverted b k).runningB = some (!b) ∧
    slotState (reverted b k) b = .valid ∧ (reverted b k).prefB = k.prefB := by
  cases b <;> exact ⟨rfl, rfl, rfl, rfl⟩

theorem onTrial_spelled (k : CtlS) : (onTrial k).booted = false ∧ (onTrial k).runningB = some (inactiveB k) ∧
    slotState (onTrial k) (inactiveB k) = .trial ∧ slotState (onTrial k) (!inactiveB k) = slotState k (!inactiveB k) := by
  unfold onTrial
  cases inactiveB k <;> exact ⟨rfl, rfl, rfl, rfl⟩

theorem trialTimeout_reverts {s : State} {c : Ctl} {n : Nat} (h : s.settings.trial = some (c, n)) :
    Completes .trialTimeout s (fun t =>
      getCtl c t = reverted ((getCtl c s).runningB.getD false) (getCtl c s) ∧ t.settings = { s.settings with trial := none } ∧
      t.lease = { s.lease with standby := .booting } ∧ n ≤ now t ∧ Raised (evCtl 0x311 1 c 0) s t) := by
  have own : getCtl c (advanceTo n s) = getCtl c s := getCtl_congr (advanceTo_cope ..) (advanceTo_drag ..) c
  have trial : (advanceTo n s).settings.trial = some (c, n) := by rw [advanceTo_settings, h]
  have hc : exec .trialTimeout s = .next (raise (evCtl 0x311 1 c 0)
      (trialEnded c (reverted ((getCtl c s).runningB.getD false)) .booting (advanceTo n s))) := by
    show execTrialTimeout s = _
    unfold execTrialTimeout
    rw [h]
    dsimp only
    rw [revertTrial_reverts trial, own]
  refine completes_of_exec hc ⟨?_, ?_, ?_, ?_, ?_⟩
  · rw [getCtl_raised, getCtl_trialEnded, own]
  · rw [raise_settings]
    cases c <;> rfl
  · rw [raise_lease]
    cases c <;> rfl
  · rw [now_raise]
    have late : n ≤ now (advanceTo n s) := (now_advanceTo ..).1
    cases c <;> exact late
  · exact raise_events _ ((trialEnded_events ..).trans (advanceTo_events ..))

/-- Settles O27: a boot is the first slot of two that can be booted, and each trial operation has one outcome by its case. -/
theorem controllersBootAndTryImages : Obligations.ControllersBootAndTryImages := by
  unfold Obligations.ControllersBootAndTryImages
  intro c s
  dsimp only
  refine ⟨fun hb hstep ht => ?_, fun via hs hown hcs => ?_, fun n ht => ⟨fun via hs hown => ?_, ?_⟩, fun via hs hown ht => ?_⟩
  · have hc := exec_controllerBoot hb hstep ht
    refine ⟨fun hp => ?_, fun hp ho => ?_, fun hp ho => ?_⟩
    · rw [if_pos hp] at hc
      have boots := bootSlot_boots (c := c) (getCtl c s).prefB ht
      exact completes_of_exec hc ⟨boots.own, boots.other, boots.lease, boots.events⟩
    · rw [if_neg (by simp [hp]), if_pos ho] at hc
      have boots := bootSlot_boots (c := c) (s := raise (evCtl 0x312 1 (otherCtl c) 0) s) (!(getCtl c s).prefB)
        (by rw [raise_settings, ht])
      exact completes_of_exec hc ⟨by rw [boots.own, getCtl_raised], by rw [boots.other, getCtl_raised], boots.events⟩
    · rw [if_neg (by simp [hp]), if_neg (by simp [ho])] at hc
      refine completes_of_exec hc ⟨?_, ?_, raise_events _ (modCtl_events ..)⟩
      · rw [getCtl_raised, getCtl_modCtl, if_pos rfl]
      · rw [raise_lease, modCtl_lease]
  · refine writes_startTrial hs hown fun u hu => ?_
    have active : otherCtl (activeCtl u) = c := by rw [activeCtl_accepted hu, hcs]
    have other : activeCtl s ≠ c := by rw [hcs]; exact (otherCtl_ne _).symm
    have allowed : TrialAllowed u ↔
        s.settings.trial = none ∧ targetCtl s ≠ some (activeCtl s) ∧ (getCtl c s).booted = true ∧
          slotState (getCtl c s) (inactiveB (getCtl c s)) = .valid := by
      rw [trialAllowed_accepted hu]
      unfold TrialAllowed
      rw [← hcs]
    by_cases h : TrialAllowed u
    · rw [if_pos (allowed.mp h), startTrialOp_starts h, active]
      unfold trialOutcome
      dsimp only
      obtain ⟨booted, running, own, kept⟩ := onTrial_spelled (getCtl c s)
      have ctl (x : Ctl) : getCtl x (raise (evCtl 0x30F 0 c 0) (trialStarted c u)) =
          if x = c then onTrial (getCtl c s) else getCtl x s := by
        rw [getCtl_raised, getCtl_trialStarted, getCtl_accepted hu, getCtl_accepted hu]
      have mine := (ctl c).trans (if_pos rfl)
      rw [mine, ctl (activeCtl s), if_neg other, raise_settings, raise_lease]
      refine ⟨rfl, booted, running, own, kept, rfl, ?_, rfl, ?_⟩
      · have clock : now u = now s := now_congr (by rw [hu.only .time rfl])
        rw [← clock]
        rfl
      · have events : (trialStarted c u).events = u.events := modCtl_events ..
        exact raise_events _ events
    · rw [if_neg (fun ha => h (allowed.mpr ha)), startTrialOp_refused h]
      exact ⟨rfl, rfl⟩
  · refine writes_confirmTrial hs hown fun u hu => ?_
    have trial : u.settings.trial = some (c, n) := by rw [hu.only .settings rfl, ht]
    rw [confirmTrialOp_confirms trial]
    unfold trialOutcome
    dsimp only
    rw [getCtl_raised, getCtl_trialEnded, getCtl_accepted hu, raise_settings]
    obtain ⟨pref, slot, least, running⟩ := confirmed_spelled ((getCtl c s).runningB.getD false) (getCtl c s)
    exact ⟨rfl, pref, slot, least, running, rfl, raise_events _ (trialEnded_events ..)⟩
  · refine completes_imp (trialTimeout_reverts ht) fun t h => ?_
    obtain ⟨own, settings, lease, clock, events⟩ := h
    obtain ⟨booted, running, slot, pref⟩ := reverted_spelled ((getCtl c s).runningB.getD false) (getCtl c s)
    rw [own]
    exact ⟨booted, running, slot, pref, settings, lease, clock, events⟩
  · refine writes_confirmTrial hs hown fun u hu => ?_
    rw [confirmTrialOp_refused (by rw [hu.only .settings rfl, ht])]
    exact ⟨rfl, rfl⟩

end Sys2Proof.Machine
end

section
/-!
PROOF. Images and saves (R387, R389, R424, R427): the target, its chunks, the verified image, and the two copies of the settings.
-/

namespace Sys2Proof.Machine

open Sys2Proof

/-! ## The target and its chunks -/

/-- The target of the image, which the operator writes (R427). -/
def targetObj : Obj := ⟨0x2920, 1, 1, 2, 1, .rw, [.operator], .single, 0, 1, some 255, true⟩

theorem operatorNumber_target : OperatorNumber 0x2920 1 targetObj where
  known := by decide +kernel
  found := by decide +kernel
  named := rfl
  acc := .inl rfl
  operator := rfl
  number := by decide
  notKey := by decide

theorem ruled_target (v : Nat) (s : State) : ruled 0x2920 1 v s = (0, writeTarget v s) := by
  have rule : ruleWrite none 0x2920 1 v s = (0, writeTarget v s) := rfl
  unfold ruled saved
  rw [rule, operatorNumber_target.found]
  rfl

/-- The chunk object: 1,024 bytes (R427). -/
def chunkObj : Obj := ⟨0x2920, 3, 3, 8, 1024, .wo, [.operator], .single, 0, 0, none, true⟩

theorem findObj_chunk : findObj 0x2920 3 = some chunkObj := by rfl

theorem writeObject_chunk {w : Asker} (hw : w.own = none) (sdo : Bool) {bs : List Byte} (hlen : bs.length = 1024) (s : State) :
    writeObject w sdo 0x2920 3 bs s = trialOutcome (imageChunkOp bs s) := by
  have known : indexExists 0x2920 = true := operatorNumber_target.known
  have may : mayWrite w chunkObj 3 = true := by simp only [mayWrite, hw]; rfl
  have long : ¬ bs.length ≠ chunkObj.len := not_not_intro hlen
  have row : writeObject w sdo 0x2920 3 bs s = writeFound w sdo chunkObj 3 bs s := by
    unfold writeObject
    rw [known, findObj_chunk]
    rfl
  have first : (sdo && chunkObj.index == 0x2510 && 3 == 1 && s.sec.opKey.isNone) = false := by simp [chunkObj]
  have missing : entryMissing s chunkObj 3 = false := entryMissing_of_not_part rfl ..
  rw [row]
  unfold writeFound
  rw [first, may, missing]
  dsimp only
  rw [if_neg long]
  rfl

/-- The trial's own controller is the target of the image (R427). -/
def targetOnTrial (s : State) : Bool :=
  match targetCtl s, s.settings.trial with
  | some c, some (t, _) => c == t
  | _, _ => false

theorem targetOnTrial_iff {s : State} (h : targetCtl s ≠ none) :
    targetOnTrial s = true ↔ targetCtl s = s.settings.trial.map Prod.fst ∧ s.settings.trial.isSome = true := by
  unfold targetOnTrial
  cases hc : targetCtl s with
  | none => exact absurd hc h
  | some c => cases s.settings.trial <;> simp

/-- The image with the chunk behind it, and its length so far as its header tells it (R387, R427). -/
def chunkLength (bs : List Byte) (s : State) : Nat := (imageLength (s.settings.image ++ bs)).getD 67108864

/-- A chunk that is refused (R427). -/
def ChunkRefused (bs : List Byte) (s : State) : Prop :=
  targetCtl s = none ∨ 2 ≤ s.settings.imageState ∨ (imageLength s.settings.image).getD 67108864 ≤ s.settings.offset ∨
    67108864 < s.settings.offset + 1024 ∨ 67108864 < chunkLength bs s ∨
    (targetCtl s = s.settings.trial.map Prod.fst ∧ s.settings.trial.isSome = true)

theorem imageChunkOp_cases {bs : List Byte} (hlen : bs.length = 1024) (s : State) : imageChunkOp bs s =
    if (targetCtl s).isNone || targetOnTrial s || decide (s.settings.imageState ≥ 2) ||
        decide (s.settings.offset ≥ (imageLength s.settings.image).getD 67108864) || decide (s.settings.offset + 1024 > 67108864) then
      (false, raise (evCtl 0x393 2 (activeCtl s) 0) s)
    else if chunkLength bs s > 67108864 then (false, raise (evCtl 0x393 2 (activeCtl s) 0) s)
    else (true, { s with settings := { s.settings with
      image := (s.settings.image ++ bs).take (chunkLength bs s), offset := ((s.settings.image ++ bs).take (chunkLength bs s)).length
      imageState := if ((s.settings.image ++ bs).take (chunkLength bs s)).length = chunkLength bs s then 2 else 1 } }) := by
  unfold imageChunkOp
  rw [hlen]
  rfl

theorem imageChunkOp_refused {bs : List Byte} (hlen : bs.length = 1024) {s : State} (h : ChunkRefused bs s) :
    imageChunkOp bs s = (false, raise (evCtl 0x393 2 (activeCtl s) 0) s) := by
  rw [imageChunkOp_cases hlen]
  split
  · rfl
  · next hn =>
    rw [if_pos]
    simp only [Bool.or_eq_true, not_or, Bool.not_eq_true, Option.isNone_eq_false_iff, decide_eq_true_eq, ge_iff_le, gt_iff_lt] at hn
    obtain ⟨⟨⟨⟨ht, hr⟩, hi⟩, ho⟩, hm⟩ := hn
    have target : targetCtl s ≠ none := Option.isSome_iff_ne_none.mp ht
    obtain h | h | h | h | h | h := h
    · exact absurd h target
    · exact absurd h hi
    · exact absurd h ho
    · exact absurd h hm
    · exact h
    · rw [(targetOnTrial_iff target).mpr h] at hr
      exact absurd hr (by decide)

theorem imageChunkOp_taken {bs : List Byte} (hlen : bs.length = 1024) {s : State} (h : ¬ChunkRefused bs s) :
    imageChunkOp bs s = (true, { s with settings := { s.settings with
      image := (s.settings.image ++ bs).take (chunkLength bs s)
      offset := min (chunkLength bs s) (s.settings.image ++ bs).length
      imageState := if chunkLength bs s ≤ (s.settings.image ++ bs).length then 2 else 1 } }) := by
  unfold ChunkRefused at h
  simp only [not_or] at h
  obtain ⟨ht, hi, ho, hm, hl, hr⟩ := h
  have open' : ¬(((targetCtl s).isNone || targetOnTrial s || decide (s.settings.imageState ≥ 2) ||
      decide (s.settings.offset ≥ (imageLength s.settings.image).getD 67108864) || decide (s.settings.offset + 1024 > 67108864)) = true) := by
    simp only [Bool.or_eq_true, not_or, decide_eq_true_eq]
    refine ⟨⟨⟨⟨?_, ?_⟩, hi⟩, ho⟩, hm⟩
    · rw [Option.isNone_iff_eq_none]
      exact ht
    · rw [targetOnTrial_iff ht]
      exact hr
  have whole : min (chunkLength bs s) (s.settings.image ++ bs).length = chunkLength bs s ↔
      chunkLength bs s ≤ (s.settings.image ++ bs).length := min_eq_left_iff
  rw [imageChunkOp_cases hlen, if_neg open', if_neg hl]
  simp only [List.length_take, whole]

theorem targetCtl_accepted {s u : State} (h : Accepted s u) : targetCtl u = targetCtl s := by
  unfold targetCtl
  rw [h.only .settings rfl]

theorem chunkRefused_accepted {s u : State} (h : Accepted s u) (bs : List Byte) : ChunkRefused bs u ↔ ChunkRefused bs s := by
  unfold ChunkRefused chunkLength
  rw [targetCtl_accepted h, h.only .settings rfl]

/-! ## Verified images -/

/-- A slot with a verified or refused image (R389). -/
def withImage (b ok : Bool) (ver sec : Nat) (k : CtlS) : CtlS :=
  if b then { setSlotState b (if ok then .valid else .invalid) k with verB := ver, secB := sec }
  else { setSlotState b (if ok then .valid else .invalid) k with verA := ver, secA := sec }

theorem withImage_spelled (b ok : Bool) (ver sec : Nat) (k : CtlS) :
    slotState (withImage b ok ver sec k) b = (if ok then .valid else .invalid) ∧
    slotState (withImage b ok ver sec k) (!b) = slotState k (!b) ∧ slotSec (withImage b ok ver sec k) b = sec ∧
    (if b then (withImage b ok ver sec k).verB else (withImage b ok ver sec k).verA) = ver := by
  cases b <;> exact ⟨rfl, rfl, rfl, rfl⟩

/-- The state after an image has been judged, before its event (R389). -/
def imageJudged (c : Ctl) (ok : Bool) (s : State) : State :=
  { modCtl c (withImage (inactiveB (getCtl c s)) ok (fieldAt s.settings.image 4 4) (fieldAt s.settings.image 8 4)) s with
      settings := { s.settings with imageState := if ok then 3 else 4, image := [] } }

theorem verifyImage_judges {s : State} {c : Ctl} (ht : targetCtl s = some c) (hi : s.settings.imageState = 2) : verifyImage s =
    if imageValid s s.settings.image then imageJudged c (imageValid s s.settings.image) s
    else raise (evCtl 0x30E 1 c 0) (imageJudged c (imageValid s s.settings.image) s) := by
  unfold verifyImage
  rw [ht]
  dsimp only
  rw [if_neg (not_not_intro hi)]
  unfold imageJudged
  cases c <;> rfl

theorem getCtl_imageJudged (c x : Ctl) (ok : Bool) (s : State) : getCtl x (imageJudged c ok s) =
    if x = c then withImage (inactiveB (getCtl c s)) ok (fieldAt s.settings.image 4 4) (fieldAt s.settings.image 8 4) (getCtl c s)
    else getCtl x s := by
  rw [← getCtl_modCtl]
  cases x <;> rfl

theorem imageVerify_valid {s : State} {c : Ctl} (ht : targetCtl s = some c) (hi : s.settings.imageState = 2)
    (hv : imageValid s s.settings.image = true) : Completes .imageVerify s (fun t => t = imageJudged c true s) := by
  have hc : exec .imageVerify s = .next (verifyImage s) := rfl
  rw [verifyImage_judges ht hi, hv] at hc
  exact completes_of_exec hc rfl

theorem imageVerify_invalid {s : State} {c : Ctl} (ht : targetCtl s = some c) (hi : s.settings.imageState = 2)
    (hv : imageValid s s.settings.image = false) :
    Completes .imageVerify s (fun t => t = raise (evCtl 0x30E 1 c 0) (imageJudged c false s)) := by
  have hc : exec .imageVerify s = .next (verifyImage s) := rfl
  rw [verifyImage_judges ht hi, hv] at hc
  exact completes_of_exec hc rfl

/-! ## Saves -/

/-- The settings after a good save: two copies of the snapshot (R424). -/
def savedWell (s : State) : State :=
  { s with settings := { s.settings with
      copy0 := savedCopy s, copy1 := savedCopy s, generation := s.settings.generation + 1, saving := false, failed := false, dirty := false
      snapshot := [] } }

theorem endSave_good {s : State} (h : s.settings.saving = true) :
    endSave true s = if s.settings.dirty then noteChange (savedWell s) else savedWell s := by
  unfold endSave
  exact if_neg (by rw [h]; decide)

/-- The settings after a bad save: both copies stay, and the changes since wait (R424). -/
def saveFailed (s : State) : State :=
  { s with settings := { s.settings with saving := false, failed := true, dirty := false, snapshot := [] } }

theorem endSave_bad {s : State} (h : s.settings.saving = true) (hd : s.settings.dirty = false) :
    endSave false s = raise (evCtl 0x38E 1 (activeCtl s) 0) (saveFailed s) := by
  unfold endSave
  exact (if_neg (by rw [h]; decide)).trans (if_neg (by rw [hd]; decide))

theorem saveFailed_settings {s : State} (hd : s.settings.dirty = false) :
    (saveFailed s).settings = { s.settings with saving := false, failed := true, snapshot := [] } := by
  unfold saveFailed
  dsimp only
  rw [← hd]

theorem noteChange_starts {s : State} (h : s.settings.saving = false) :
    noteChange s = { s with settings := { s.settings with saving := true, snapshot := storedRecords s } } := by
  unfold noteChange
  rw [h]
  rfl

/-- Settles O28: each write and each save has one outcome by its case, and the judged image is one change of its slot. -/
theorem imagesAndSavesAreWritten : Obligations.ImagesAndSavesAreWritten := by
  unfold Obligations.ImagesAndSavesAreWritten
  intro s
  refine ⟨fun via v hs hown hv => ?_, fun via bs hs hown hlen => ?_, fun c ht hi => ⟨fun hv => ?_, fun hv => ?_⟩,
    fun hs hd => ⟨?_, ?_⟩, fun hs hd => ?_⟩
  · have range : inRange s targetObj 1 v = true := by
      obtain h | rfl := hv
      · obtain rfl | rfl : v = 0 ∨ v = 1 := by omega
        · rfl
        · rfl
      · rfl
    refine writes_number rfl hs hown operatorNumber_target rfl (by omega) (entryMissing_of_not_part rfl ..) range fun u _ => ?_
    rw [ruled_target]
    exact ⟨rfl, rfl⟩
  · refine writes_of_viaWrite (c := .imageChunk via bs) rfl hs (fun t ht => (exec_keeps _ ht).only) fun u sdo hu => ?_
    rw [writeObject_chunk hown sdo hlen]
    dsimp only
    have settings : u.settings = s.settings := hu.only .settings rfl
    have length : chunkLength bs u = chunkLength bs s := by unfold chunkLength; rw [settings]
    by_cases h : ChunkRefused bs s
    · rw [imageChunkOp_refused hlen ((chunkRefused_accepted hu bs).mpr h), activeCtl_accepted hu]
      exact (if_pos h).symm ▸ ⟨rfl, rfl⟩
    · rw [imageChunkOp_taken hlen (fun hr => h ((chunkRefused_accepted hu bs).mp hr)), length, settings]
      exact (if_neg h).symm ▸ ⟨rfl, rfl⟩
  · refine completes_imp (imageVerify_valid ht hi hv) ?_
    rintro t rfl
    obtain ⟨slot, kept, sec, ver⟩ := withImage_spelled (inactiveB (getCtl c s)) true (fieldAt s.settings.image 4 4)
      (fieldAt s.settings.image 8 4) (getCtl c s)
    rw [getCtl_imageJudged, if_pos rfl, getCtl_imageJudged, if_neg (otherCtl_ne c)]
    exact ⟨slot, kept, sec, ver, rfl, rfl, modCtl_events ..⟩
  · refine completes_imp (imageVerify_invalid ht hi hv) ?_
    rintro t rfl
    obtain ⟨slot, kept, -, -⟩ := withImage_spelled (inactiveB (getCtl c s)) false (fieldAt s.settings.image 4 4)
      (fieldAt s.settings.image 8 4) (getCtl c s)
    rw [getCtl_raised, getCtl_imageJudged, if_pos rfl, raise_settings]
    exact ⟨slot, kept, rfl, raise_events _ (modCtl_events ..)⟩
  · have hc : exec (.saveComplete true) s = .next (endSave true s) := rfl
    rw [endSave_good hs, hd] at hc
    exact completes_of_exec hc ⟨rfl, rfl, rfl, rfl, rfl, rfl, rfl, rfl⟩
  · have hc : exec (.saveComplete false) s = .next (endSave false s) := rfl
    rw [endSave_bad hs hd] at hc
    exact completes_of_exec hc ⟨(raise_settings ..).trans (saveFailed_settings hd), raise_events _ rfl⟩
  · have hc : exec (.saveComplete true) s = .next (endSave true s) := rfl
    rw [endSave_good hs, hd, if_pos rfl, noteChange_starts rfl] at hc
    exact completes_of_exec hc ⟨rfl, rfl, rfl⟩

end Sys2Proof.Machine
end

section
/-!
PROOF. The service network (R393 to R395, R415): frames, links, the state machine, and the two services of the mailbox.
-/

namespace Sys2Proof.Machine

open Sys2Proof

/-! ## Frames and the state machine -/

theorem exec_ethercatFrame {s : State} (port : Nat) (h : forwards s = true) : exec (.ethercatFrame port) s =
    .next { s with pilot := { s.pilot with frames := s.pilot.frames ++ [if port = 0 ∧ s.pilot.link1 then 1 else 0] } } := by
  show execEthercatFrame port s = _
  unfold execEthercatFrame
  rw [if_pos h]

theorem exec_ethercatFrame_off {s : State} (port : Nat) (h : forwards s = false) : exec (.ethercatFrame port) s = .next s := by
  show execEthercatFrame port s = _
  unfold execEthercatFrame
  rw [if_neg (by rw [h]; decide)]

theorem exec_esmStateChange {s : State} {n : Nat} (hn : n < 4) (h : forwards s = true) :
    exec (.esmStateChange n) s = .next { s with pilot := { s.pilot with esm := n } } := by
  show execEsmStateChange n s = _
  unfold execEsmStateChange
  rw [if_pos ⟨hn, h⟩]

/-! ## Links -/

/-- A link as the pilot stores it (R415). -/
def linkStored (port : Nat) (up : Bool) (s : State) : State :=
  { s with pilot := if port = 0 then { s.pilot with link0 := up } else { s.pilot with link1 := up } }

/-- A stored link with its event 0x38F (R415). -/
def linkNoted (port : Nat) (up : Bool) (s : State) : State :=
  raise (evPilot 0x38F 0 (port + (if up then 256 else 0))) (linkStored port up s)

theorem exec_ethercatLinkChange {port : Nat} (h : port ≤ 1) (up : Bool) (s : State) : exec (.ethercatLinkChange port up) s =
    .next (if up then wakeFire [92] (linkNoted port up s) else linkNoted port up s) := by
  show execEthercatLinkChange port up s = _
  unfold execEthercatLinkChange
  rw [if_neg (Nat.not_lt.mpr h)]
  rfl

theorem linkNoted_pilot (port : Nat) (up : Bool) (s : State) : (linkNoted port up s).pilot =
    if port = 0 then { s.pilot with link0 := up } else { s.pilot with link1 := up } := raise_pilot ..

theorem linkNoted_raised (port : Nat) (up : Bool) (s : State) :
    Raised (evPilot 0x38F 0 (port + (if up then 256 else 0))) s (linkNoted port up s) := raise_events _ rfl

theorem sleep_linkNoted (port : Nat) (up : Bool) (s : State) : (linkNoted port up s).pilot.sleep = s.pilot.sleep := by
  rw [linkNoted_pilot]
  split <;> rfl

theorem ethercatLinkChange_down {port : Nat} (h : port ≤ 1) (s : State) : Completes (.ethercatLinkChange port false) s (fun t =>
    t.pilot = (if port = 0 then { s.pilot with link0 := false } else { s.pilot with link1 := false }) ∧
    Raised (evPilot 0x38F 0 port) s t) :=
  completes_of_exec (exec_ethercatLinkChange h false s) ⟨linkNoted_pilot .., linkNoted_raised port false s⟩

theorem ethercatLinkChange_up {port : Nat} (h : port ≤ 1) {s : State} (hs : s.pilot.sleep = 0) :
    Completes (.ethercatLinkChange port true) s (fun t =>
      t.pilot = (if port = 0 then { s.pilot with link0 := true } else { s.pilot with link1 := true }) ∧
      Raised (evPilot 0x38F 0 (port + 256)) s t) := by
  have hc := exec_ethercatLinkChange h true s
  rw [if_pos rfl, wakeFire_awake _ ((sleep_linkNoted ..).trans hs)] at hc
  exact completes_of_exec hc ⟨linkNoted_pilot .., linkNoted_raised port true s⟩

theorem wakeSelected_congr {s t : State} (h : t.regs = s.regs) (n : Nat) : wakeSelected t n = wakeSelected s n := by
  unfold wakeSelected
  simp only [setting_congr h]

/-- A selected source that fires while sleep is being entered is latched (R420). -/
theorem wakeFire_latches {s : State} {n : Nat} (hs : s.pilot.sleep = 1) (hn : wakeSelected s n = true) :
    wakeFire [n] s = { s with pilot := { s.pilot with wakeLatched := s.pilot.wakeLatched ++ [n] } } := by
  have selected : [n].filter (wakeSelected s) = [n] := by rw [List.filter_cons, if_pos hn, List.filter_nil]
  unfold wakeFire
  rw [selected, hs]
  rfl

theorem ethercatLinkChange_latches {s : State} (hs : s.pilot.sleep = 1) (hw : wakeSelected s 92 = true) :
    Completes (.ethercatLinkChange 1 true) s (fun t =>
      t.pilot.wakeLatched = s.pilot.wakeLatched ++ [92] ∧ t.pilot.link1 = true) := by
  have hc := exec_ethercatLinkChange (Nat.le_refl 1) true s
  have selected : wakeSelected (linkNoted 1 true s) 92 = true := (wakeSelected_congr (raise_regs ..) 92).trans hw
  rw [if_pos rfl, wakeFire_latches ((sleep_linkNoted ..).trans hs) selected, linkNoted_pilot] at hc
  exact completes_of_exec hc ⟨rfl, rfl⟩

/-! ## The mailbox -/

theorem exec_sdoInformation {s : State} (index : Nat) (he : s.pilot.esm ≠ 0) (hm : mailboxServed s = true) :
    exec (.sdoInformation index) s = .next (if indexExists index then sdoReply 0 (objectInfo index) s else sdoReply 0x06020000 [] s) := by
  show execSdoInformation index s = _
  unfold execSdoInformation
  rw [if_neg (by simp [he, hm])]

theorem exec_unsupportedMailboxRequest {s : State} (coe : Bool) (he : s.pilot.esm ≠ 0) :
    exec (.unsupportedMailboxRequest coe) s = .next (sdoReply (if coe then 0x06010000 else 2) [] s) := by
  show execUnsupportedMailboxRequest coe s = _
  unfold execUnsupportedMailboxRequest
  rw [if_neg he]

theorem sdoInformation_silent {s : State} (index : Nat) (he : s.pilot.esm = 0) : exec (.sdoInformation index) s = .next s := by
  show execSdoInformation index s = _
  unfold execSdoInformation
  rw [if_pos (.inl he)]

theorem unsupportedMailboxRequest_silent {s : State} (coe : Bool) (he : s.pilot.esm = 0) :
    exec (.unsupportedMailboxRequest coe) s = .next s := by
  show execUnsupportedMailboxRequest coe s = _
  unfold execUnsupportedMailboxRequest
  rw [if_pos he]

/-- Settles O29: every command of the service network has one outcome by the state of the pilot that its condition names. -/
theorem etherCatForwardsAndAnswers : Obligations.EtherCatForwardsAndAnswers := by
  unfold Obligations.EtherCatForwardsAndAnswers
  intro s
  refine ⟨fun hf => ⟨?_, ?_, fun n hn => completes_of_exec (exec_esmStateChange hn hf) rfl⟩,
    fun hf port => completes_of_exec (exec_ethercatFrame_off port hf) rfl,
    ethercatLinkChange_down (Nat.zero_le 1) s, ethercatLinkChange_down (Nat.le_refl 1) s,
    fun hs => ⟨ethercatLinkChange_up (Nat.zero_le 1) hs, ethercatLinkChange_up (Nat.le_refl 1) hs⟩,
    ethercatLinkChange_latches, fun he hm => ⟨fun index h => ?_, fun index h => ?_⟩,
    fun he => ⟨completes_of_exec (exec_unsupportedMailboxRequest true he) rfl,
      completes_of_exec (exec_unsupportedMailboxRequest false he) rfl⟩,
    fun he => ⟨fun index => completes_of_exec (sdoInformation_silent index he) rfl,
      fun coe => completes_of_exec (unsupportedMailboxRequest_silent coe he) rfl⟩⟩
  · have hc := exec_ethercatFrame 0 hf
    simp only [true_and] at hc
    exact completes_of_exec hc rfl
  · exact completes_of_exec (exec_ethercatFrame 1 hf) rfl
  · have hc := exec_sdoInformation index he hm
    rw [if_pos h] at hc
    exact completes_of_exec hc rfl
  · have hc := exec_sdoInformation index he hm
    rw [if_neg (by rw [h]; decide)] at hc
    exact completes_of_exec hc rfl

end Sys2Proof.Machine
end

section
/-!
PROOF. The lease register (R401 to R406): renewals, ready reports, and one change of owner that every grant and pass makes.
-/

namespace Sys2Proof.Machine

open Sys2Proof

/-! ## The change of owner -/

/-- The new owner in the lease register, with a new nonce and the countdown started again (R401, R406). -/
def ownerSet (c : Ctl) (old : Option Ctl) (v : State) : State :=
  restartLease (newNonce { v with
    events := { v.events with selected := v.events.selected.map (fun (e : EvReq) => { e with withdrawn := true }) }
    ledger := { v.ledger with leaseMoved := true }
    lease := { v.lease with owner := some c, previous := old, epoch := v.lease.epoch + 1, claimSince := none } })

/-- The commits of every partition dropped by a change of owner (R150, R406). -/
def commitsDropped (l : AMap Part) (s : State) : State :=
  l.foldl (fun s e =>
    e.2.commits.foldl (fun s (m : Commit) => loaderRefuse e.1 m.node m.domain m.tag 0x3F 0xFFFF 0xFFFF 0xFF 0xFF s)
      (modPart e.1 (fun a => { a with commits := [] }) s)) s

theorem commitsDropped_only {l : AMap Part} (h : ∀ e ∈ l, e.2.commits = []) (s : State) : Keeps [.parts] s (commitsDropped l s) := by
  induction l generalizing s with
  | nil => exact Keeps.refl _ s
  | cons e l ih =>
    obtain ⟨he, hl⟩ := List.forall_mem_cons.mp h
    unfold commitsDropped
    rw [List.foldl_cons, he, List.foldl_nil]
    exact (modPart_keeps ..).step (ih hl _) rfl

theorem changeOwner_sets {c : Ctl} {s : State} (h : NothingToDrop s) :
    changeOwner c s = ownerSet c s.lease.owner
      (if s.lease.owner.isSome then abortSegmented (commitsDropped s.parts s) else commitsDropped s.parts s) := by
  obtain ⟨hcommits, hsession⟩ := h
  have dropped := (commitsDropped_only hcommits s).only
  have closed : (if s.lease.owner.isSome then abortSegmented (commitsDropped s.parts s) else commitsDropped s.parts s).sec.session = none := by
    have sec : (commitsDropped s.parts s).sec = s.sec := dropped .sec rfl
    split
    · exact (congrArg SecS.session sec).trans hsession
    · exact (congrArg SecS.session sec).trans hsession
  have ended (v : State) (hv : v.sec.session = none) : endSession v = v := by
    unfold endSession
    rw [hv]
    rfl
  show ownerSet c s.lease.owner
    (endSession (if s.lease.owner.isSome then abortSegmented (commitsDropped s.parts s) else commitsDropped s.parts s)) = _
  rw [ended _ closed]

/-- What a change of owner leaves of the lease, the nonce, the session and the selected request (R401, R406). -/
structure LeaseTaken (c : Ctl) (s t : State) : Prop where
  owner : t.lease.owner = some c
  previous : t.lease.previous = s.lease.owner
  epoch : t.lease.epoch = s.lease.epoch + 1
  claim : t.lease.claimSince = none
  deadline : t.lease.deadline = now s + setting s 0x2720 3 * msT
  nonce : t.sec.nonce = Config.freeNonce s.sec.nonceDraws
  draws : t.sec.nonceDraws = s.sec.nonceDraws + 1
  session : t.sec.session = none
  moved : t.ledger.leaseMoved = true
  events : t.events = { s.events with selected := s.events.selected.map (fun (e : EvReq) => { e with withdrawn := true }) }
  time : t.time = s.time
  waits : s.lease.owner = none → t.pilot = s.pilot

theorem ownerSet_takes {c : Ctl} {s v : State} (only : Only [.parts, .pilot] s v) (hs : s.sec.session = none)
    (hp : s.lease.owner = none → v.pilot = s.pilot) : LeaseTaken c s (ownerSet c s.lease.owner v) := by
  have lease : v.lease = s.lease := only .lease rfl
  have sec : v.sec = s.sec := only .sec rfl
  have events : v.events = s.events := only .events rfl
  have time : v.time = s.time := only .time rfl
  have clock : now v = now s := now_congr (by rw [time])
  have set : setting v 0x2720 3 = setting s 0x2720 3 := setting_congr (only .regs rfl) ..
  exact
    { owner := rfl
      previous := rfl
      epoch := by rw [← lease]; rfl
      claim := rfl
      deadline := by rw [← clock, ← set]; rfl
      nonce := by rw [← sec]; rfl
      draws := by rw [← sec]; rfl
      session := (congrArg SecS.session sec).trans hs
      moved := rfl
      events := by rw [← events]; rfl
      time := time
      waits := hp }

theorem changeOwner_takes {c : Ctl} {s : State} (h : NothingToDrop s) : LeaseTaken c s (changeOwner c s) := by
  rw [changeOwner_sets h]
  have dropped := (commitsDropped_only h.1 s).only
  refine ownerSet_takes ?_ h.2 (fun hn => ?_)
  · split
    · exact (dropped.mono rfl).trans ((abortSegmented_keeps _).only.mono rfl)
    · exact dropped.mono rfl
  · rw [hn]
    exact dropped .pilot rfl

theorem raiseAll_events (es : List EvReq) {s t : State} (h : s.events = t.events) : (raiseAll es s).events = (raiseAll es t).events := by
  induction es generalizing s t with
  | nil => exact h
  | cons e es ih => exact ih (raise_events e h)

/-- The same change as the obligations state it, after a move of the reference and with the events that follow. -/
theorem LeaseTaken.leaseMoved {c : Ctl} {s w t x : State} {moved : Bool} {es : List EvReq} (h : LeaseTaken c w t)
    (hl : w.lease = s.lease) (hs : w.sec = s.sec) (he : w.events = s.events) (hr : w.regs = s.regs) (hsec : x.sec = t.sec)
    (howner : x.lease.owner = t.lease.owner) (hprev : x.lease.previous = t.lease.previous) (hepoch : x.lease.epoch = t.lease.epoch)
    (hclaim : x.lease.claimSince = t.lease.claimSince) (hdead : x.lease.deadline = t.lease.deadline) (hnow : now x = now w)
    (hmoved : x.ledger.leaseMoved = moved) (hevents : x.events = (raiseAll es t).events) : LeaseMoved c moved es s x := by
  have set : setting w 0x2720 3 = setting s 0x2720 3 := setting_congr hr ..
  refine ⟨howner.trans h.owner, ?_, ?_, hclaim.trans h.claim, ?_, ?_, ?_, ?_, hmoved, hevents.trans ?_⟩
  · rw [hprev, h.previous, hl]
  · rw [hepoch, h.epoch, hl]
  · rw [hdead, h.deadline, hnow, set]
  · rw [hsec, h.nonce, hs]
  · rw [hsec, h.draws, hs]
  · rw [hsec, h.session]
  · exact raiseAll_events es (by rw [h.events, he])

/-! ## Renewal and expiry -/

theorem restartLease_lease (s : State) :
    (restartLease s).lease = { s.lease with deadline := now s + setting s 0x2720 3 * msT } := by
  unfold restartLease
  rfl

theorem restartLease_events (s : State) : (restartLease s).events = s.events := (restartLease_keeps s).only .events rfl

theorem now_restartLease (s : State) : now (restartLease s) = now s := now_congr (by rw [(restartLease_keeps s).only .time rfl])


theorem leaseRenewal_restarts {s : State} {c : Ctl} (h : s.lease.owner = some c) : Completes (.leaseRenewal c s.lease.epoch) s (fun t =>
    t.lease = { s.lease with deadline := now s + setting s 0x2720 3 * msT } ∧ t.events = s.events) := by
  have hc : exec (.leaseRenewal c s.lease.epoch) s = .next (restartLease s) := by
    show execLeaseRenewal c s.lease.epoch s = _
    unfold execLeaseRenewal
    rw [if_pos ⟨h, rfl⟩]
  exact completes_of_exec hc ⟨restartLease_lease s, restartLease_events s⟩

theorem leaseRenewal_refused {s : State} {c : Ctl} {e : BitVec 32} (h : s.lease.owner ≠ some c ∨ e ≠ s.lease.epoch) :
    Completes (.leaseRenewal c e) s (fun t =>
      t.lease.owner = s.lease.owner ∧ t.lease.epoch = s.lease.epoch ∧ t.lease.deadline = s.lease.deadline ∧
      Raised (evCtl 0x389 1 c 0) s t) := by
  have other : ¬(s.lease.owner = some c ∧ e = s.lease.epoch) := by
    rintro ⟨ho, he⟩
    exact h.elim (fun hn => hn ho) (fun hn => hn he)
  have hc : exec (.leaseRenewal c e) s = .next (raise (evCtl 0x389 1 c 0) { s with lease := { s.lease with
      standby := if s.lease.owner ≠ some c ∧ s.lease.standby = .absent then StandbyState.booting else s.lease.standby } }) := by
    show execLeaseRenewal c e s = _
    unfold execLeaseRenewal
    rw [if_neg other]
  exact completes_of_exec hc ⟨by rw [raise_lease], by rw [raise_lease], by rw [raise_lease], raise_events _ rfl⟩

theorem nothingToDrop_advanceTo {s : State} (h : NothingToDrop s) (n : Nat) : NothingToDrop (advanceTo n s) := by
  unfold NothingToDrop at h ⊢
  rw [advanceTo_parts, advanceTo_sec]
  exact h

/-- The state after a change of owner at the end of the countdown, whose loser is absent (R402). -/
def leasePassed (t : State) : State :=
  raise (evPilot 0x386 1 t.lease.epoch.toNat) { t with lease := { t.lease with standby := .absent } }

/-- The end of the countdown, at its time: the lease passes to a controller that is ready, or the countdown starts again (R402). -/
def expired (c : Ctl) (s : State) : State :=
  if readyLately s (otherCtl c) then
    let s := changeOwner (otherCtl c) s
    let s := { s with lease := { s.lease with standby := .absent } }
    raise (evPilot 0x386 1 s.lease.epoch.toNat) s
  else restartLease s

theorem exec_leaseExpiry {s : State} {c : Ctl} (h : s.lease.owner = some c) :
    exec .leaseExpiry s = .next (expired c (advanceTo s.lease.deadline s)) := by
  have hc : exec .leaseExpiry s =
      .next (match s.lease.owner with | none => s | some c => expired c (advanceTo s.lease.deadline s)) := rfl
  rw [hc, h]

theorem leasePassed_spelled (t : State) :
    (let s := { t with lease := { t.lease with standby := .absent } }
     raise (evPilot 0x386 1 s.lease.epoch.toNat) s) = leasePassed t := rfl

theorem expired_passes {s : State} {c : Ctl} (h : readyLately s (otherCtl c) = true) :
    expired c s = leasePassed (changeOwner (otherCtl c) s) := by
  unfold expired
  split
  · exact leasePassed_spelled _
  · exact absurd h ‹_›

theorem expired_restarts {s : State} {c : Ctl} (h : readyLately s (otherCtl c) = false) : expired c s = restartLease s := by
  unfold expired
  split
  · next ht => rw [h] at ht; exact absurd ht (by decide)
  · rfl

theorem now_leasePassed (t : State) : now (leasePassed t) = now t := (now_raise ..).trans (now_congr rfl)

theorem leasePassed_lease (t : State) : (leasePassed t).lease = { t.lease with standby := .absent } := raise_lease ..

theorem leasePassed_moved {c : Ctl} {s w t : State} (h : LeaseTaken c w t) (hl : w.lease = s.lease) (hs : w.sec = s.sec)
    (he : w.events = s.events) (hr : w.regs = s.regs) :
    LeaseMoved c true [evPilot 0x386 1 (s.lease.epoch + 1).toNat] s (leasePassed t) := by
  have lease := leasePassed_lease t
  have epoch : t.lease.epoch = s.lease.epoch + 1 := by rw [h.epoch, hl]
  have events : (leasePassed t).events = (raiseAll [evPilot 0x386 1 (s.lease.epoch + 1).toNat] t).events := by
    rw [← epoch]
    exact raise_events _ rfl
  have clock : now (leasePassed t) = now w := (now_leasePassed t).trans (now_congr (by rw [h.time]))
  exact h.leaseMoved hl hs he hr (raise_sec ..) (by rw [lease]) (by rw [lease]) (by rw [lease]) (by rw [lease]) (by rw [lease]) clock
    ((congrArg LedgerS.leaseMoved (raise_ledger ..)).trans h.moved) events

theorem leaseExpiry_passes {s : State} {c : Ctl} (h : s.lease.owner = some c) (hn : NothingToDrop s)
    (hr : readyLately (advanceTo s.lease.deadline s) (otherCtl c) = true) :
    Completes .leaseExpiry s (fun t =>
      s.lease.deadline ≤ now t ∧ LeaseMoved (otherCtl c) true [evPilot 0x386 1 (s.lease.epoch + 1).toNat] s t) := by
  have hc := exec_leaseExpiry h
  rw [expired_passes hr] at hc
  have taken : LeaseTaken (otherCtl c) (advanceTo s.lease.deadline s) _ := changeOwner_takes (nothingToDrop_advanceTo hn _)
  refine completes_of_exec hc ⟨?_, leasePassed_moved taken (advanceTo_lease ..) (advanceTo_sec ..) (advanceTo_events ..) (advanceTo_regs ..)⟩
  rw [now_leasePassed, now_congr (congrArg TimeS.refCycles taken.time)]
  exact (now_advanceTo ..).1

theorem leaseExpiry_restarts {s : State} {c : Ctl} (h : s.lease.owner = some c)
    (hr : readyLately (advanceTo s.lease.deadline s) (otherCtl c) = false) :
    Completes .leaseExpiry s (fun t =>
      t.lease = { s.lease with deadline := now t + setting s 0x2720 3 * msT } ∧ s.lease.deadline ≤ now t ∧ t.events = s.events) := by
  have hc := exec_leaseExpiry h
  rw [expired_restarts hr] at hc
  refine completes_of_exec hc ⟨?_, ?_, ?_⟩
  · rw [restartLease_lease, now_restartLease, advanceTo_lease, setting_congr (advanceTo_regs ..)]
  · rw [now_restartLease]
    exact (now_advanceTo ..).1
  · rw [restartLease_events, advanceTo_events]

/-! ## Ready reports -/

/-- A claim before the first grant (R403). -/
def claimNoted (c : Ctl) (s : State) : State :=
  { modCtl c (fun k => { k with claimed := true, readyAt := some (now s) }) s with
      lease := { s.lease with claimSince := some (s.lease.claimSince.getD (now s)) } }

/-- A ready report of the controller that stands by (R403). -/
def readyNoted (c : Ctl) (s : State) : State :=
  modCtl c (fun k => { k with readyAt := some (now s) }) { s with lease := { s.lease with
    standby := if s.settings.trial.map Prod.fst = some c then .trial else .ready } }

theorem readyReport_open {s : State} {c : Ctl} (hb : (getCtl c s).booted = true) (ho : s.lease.owner ≠ some c) :
    ¬(!(getCtl c s).booted || s.lease.epoch != s.lease.epoch || s.lease.owner == some c) = true := by
  simp [hb, ho]

theorem exec_readyReport_claim {s : State} {c : Ctl} (hb : (getCtl c s).booted = true) (ho : s.lease.owner = none) :
    exec (.readyReport c s.lease.epoch) s = .next (claimNoted c s) := by
  show execReadyReport c s.lease.epoch s = _
  unfold execReadyReport
  dsimp only
  rw [if_neg (readyReport_open hb (by rw [ho]; exact nofun)), ho]
  unfold claimNoted
  rw [modCtl_lease]

theorem exec_readyReport_noted {s : State} {c : Ctl} (hb : (getCtl c s).booted = true) (ho : s.lease.owner = some (otherCtl c)) :
    exec (.readyReport c s.lease.epoch) s = .next (readyNoted c s) := by
  have other : s.lease.owner ≠ some c := by rw [ho]; exact fun h => otherCtl_ne c (Option.some.inj h)
  show execReadyReport c s.lease.epoch s = _
  unfold execReadyReport
  dsimp only
  rw [if_neg (readyReport_open hb other)]
  unfold readyNoted
  simp only [ho]

theorem readyReport_claims {s : State} {c : Ctl} (hb : (getCtl c s).booted = true) (ho : s.lease.owner = none) :
    Completes (.readyReport c s.lease.epoch) s (fun t =>
      getCtl c t = { getCtl c s with claimed := true, readyAt := some (now s) } ∧
      getCtl (otherCtl c) t = getCtl (otherCtl c) s ∧
      t.lease = { s.lease with claimSince := some (s.lease.claimSince.getD (now s)) }) := by
  have hc := exec_readyReport_claim hb ho
  refine completes_of_exec hc ?_
  unfold claimNoted
  generalize now s = n
  cases c <;> exact ⟨rfl, rfl, rfl⟩

theorem readyReport_noted {s : State} {c : Ctl} (hb : (getCtl c s).booted = true) (ho : s.lease.owner = some (otherCtl c)) :
    Completes (.readyReport c s.lease.epoch) s (fun t =>
      getCtl c t = { getCtl c s with readyAt := some (now s) } ∧ t.lease.owner = s.lease.owner ∧
      t.lease.standby = (if s.settings.trial.map Prod.fst = some c then .trial else .ready)) := by
  have hc := exec_readyReport_noted hb ho
  refine completes_of_exec hc ?_
  unfold readyNoted
  generalize now s = n
  cases c <;> exact ⟨rfl, rfl, rfl⟩

theorem readyReport_stale {s : State} {c : Ctl} {e : BitVec 32} (h : e ≠ s.lease.epoch) :
    Completes (.readyReport c e) s (fun t => t = s) := by
  have hc : exec (.readyReport c e) s = .next s := by
    show execReadyReport c e s = _
    unfold execReadyReport
    dsimp only
    rw [if_pos (by simp [h])]
  exact completes_of_exec hc rfl

/-! ## The first grant -/

/-- The winner of the claims (R403). -/
def claimWinner (s : State) : Ctl :=
  if (s.cope.claimed && s.drag.claimed) = true then s.ident.strap else if s.drag.claimed = true then .drag else .cope

theorem exec_claimWindowExpire {s : State} {n : Nat} (ho : s.lease.owner = none) (hs : s.lease.claimSince = some n) :
    exec .claimWindowExpire s =
      .next (advanceUp (firstGrant (claimWinner s) (s.cope.claimed && s.drag.claimed) (advanceTo (n + 100 * msT) s))) := by
  show execClaimWindowExpire s = _
  unfold execClaimWindowExpire claimWinner
  simp only [ho, hs, advanceTo_cope, advanceTo_drag, advanceTo_ident]

/-- The events of the first grant (R403). -/
def grantEvents (c : Ctl) (both : Bool) : List EvReq :=
  if both then [evPilot 0x385 0 1, evCtl 0x388 1 (otherCtl c) 0] else [evPilot 0x385 0 0]

/-- What a first grant adds to the change of owner: its events, an unmarked ledger second, and the loser on standby (R403). -/
structure Granted (c : Ctl) (both : Bool) (t x : State) : Prop where
  sec : x.sec = t.sec
  owner : x.lease.owner = t.lease.owner
  previous : x.lease.previous = t.lease.previous
  epoch : x.lease.epoch = t.lease.epoch
  claim : x.lease.claimSince = t.lease.claimSince
  deadline : x.lease.deadline = t.lease.deadline
  time : x.time = t.time
  pilot : x.pilot = t.pilot
  moved : x.ledger.leaseMoved = false
  events : x.events = (raiseAll (grantEvents c both) t).events

/-- The state of a first grant, before the loser stands by (R403). -/
def grantNoted (detail : Nat) (t : State) : State := raise (evPilot 0x385 0 detail) { t with ledger := { t.ledger with leaseMoved := false } }

theorem grantNoted_grants (c : Ctl) (t : State) : Granted c false t (grantNoted 0 t) where
  sec := raise_sec ..
  owner := congrArg LeaseS.owner (raise_lease ..)
  previous := congrArg LeaseS.previous (raise_lease ..)
  epoch := congrArg LeaseS.epoch (raise_lease ..)
  claim := congrArg LeaseS.claimSince (raise_lease ..)
  deadline := congrArg LeaseS.deadline (raise_lease ..)
  time := raise_time ..
  pilot := raise_pilot ..
  moved := congrArg LedgerS.leaseMoved (raise_ledger ..)
  events := raise_events _ rfl

/-- The loser of two claims stands by (R403). -/
def loserStands (c : Ctl) (u : State) : State :=
  raise (evCtl 0x388 1 (otherCtl c) 0) { u with lease := { u.lease with standby := .ready } }

theorem loserStands_grants (c : Ctl) (t : State) : Granted c true t (loserStands c (grantNoted 1 t)) := by
  have lease : (grantNoted 1 t).lease = t.lease := raise_lease ..
  have ledger : (grantNoted 1 t).ledger.leaseMoved = false := congrArg LedgerS.leaseMoved (raise_ledger ..)
  have late : (loserStands c (grantNoted 1 t)).lease = { (grantNoted 1 t).lease with standby := .ready } := raise_lease ..
  exact
    { sec := (raise_sec ..).trans (raise_sec ..)
      owner := by rw [late, ← lease]
      previous := by rw [late, ← lease]
      epoch := by rw [late, ← lease]
      claim := by rw [late, ← lease]
      deadline := by rw [late, ← lease]
      time := (raise_time ..).trans (raise_time ..)
      pilot := (raise_pilot ..).trans (raise_pilot ..)
      moved := (congrArg LedgerS.leaseMoved (raise_ledger ..)).trans ledger
      events := raise_events _ (raise_events _ rfl) }

theorem firstGrant_grants (c : Ctl) (both : Bool) (s : State) : Granted c both (changeOwner c s) (firstGrant c both s) := by
  cases both
  · exact grantNoted_grants c (changeOwner c s)
  · exact loserStands_grants c (changeOwner c s)

/-- A grant while the sequence waits for the timing link changes nothing but the lease (R403). -/
theorem advanceUp_firstGrant {s : State} (m : Nat) (c : Ctl) (both : Bool) (ho : s.lease.owner = none) (h3 : s.pilot.step = 3)
    (hl : linkLocked s = false) (hn : NothingToDrop s) :
    m ≤ now (advanceUp (firstGrant c both (advanceTo m s))) ∧
    LeaseMoved c false (grantEvents c both) s (advanceUp (firstGrant c both (advanceTo m s))) := by
  have taken : LeaseTaken c (advanceTo m s) (changeOwner c (advanceTo m s)) := changeOwner_takes (nothingToDrop_advanceTo hn _)
  have granted := firstGrant_grants c both (advanceTo m s)
  generalize changeOwner c (advanceTo m s) = t at taken granted
  generalize firstGrant c both (advanceTo m s) = x at granted
  have time : x.time = (advanceTo m s).time := granted.time.trans taken.time
  have unlocked : linkLocked x = false := by
    unfold linkLocked
    rw [time]
    exact hl
  have step : x.pilot.step = 3 := by
    rw [granted.pilot, taken.waits (by rw [advanceTo_lease]; exact ho)]
    exact h3
  have stands : upStep x = none := by
    unfold upStep
    simp [step, unlocked]
  have clock : now x = now (advanceTo m s) := now_congr (by rw [time])
  rw [advanceUp_idle stands (by rw [step]; decide)]
  refine ⟨?_, ?_⟩
  · rw [clock]
    exact (now_advanceTo ..).1
  · exact taken.leaseMoved (advanceTo_lease ..) (advanceTo_sec ..) (advanceTo_events ..) (advanceTo_regs ..) granted.sec granted.owner
      granted.previous granted.epoch granted.claim granted.deadline clock granted.moved granted.events

/-! ## A pass on request -/

/-- The object that passes the lease (R405). -/
def passObj : Obj := ⟨0x2720, 4, 4, 1, 1, .wo, [.operator], .single, 1, 1, none, true⟩

theorem operatorNumber_pass : OperatorNumber 0x2720 4 passObj where
  known := by decide +kernel
  found := by decide +kernel
  named := rfl
  acc := .inr rfl
  operator := rfl
  number := by decide
  notKey := by decide

theorem ruled_pass (s : State) : ruled 0x2720 4 1 s = passLeaseOp s := by
  have rule : ruleWrite none 0x2720 4 1 s = passLeaseOp s := rfl
  unfold ruled saved
  rw [rule, operatorNumber_pass.found]
  exact Prod.ext rfl (ite_self _)

theorem readyLately_accepted {s u : State} (h : Accepted s u) (c : Ctl) : readyLately u c = readyLately s c := by
  unfold readyLately
  have clock : now u = now s := now_congr (by rw [h.only .time rfl])
  rw [getCtl_accepted h, clock]

theorem nothingToDrop_accepted {s u : State} (h : Accepted s u) (hn : NothingToDrop s) : NothingToDrop u := by
  unfold NothingToDrop at hn ⊢
  rw [h.only .parts rfl, h.only .sec rfl]
  exact hn

theorem passLeaseOp_passes {s : State} (hn : NothingToDrop s) (hr : readyLately s (otherCtl (activeCtl s)) = true) :
    (passLeaseOp s).1 = 0 ∧ LeaseMoved (otherCtl (activeCtl s)) true [evPilot 0x387 0 (s.lease.epoch + 1).toNat] s (passLeaseOp s).2 := by
  have op : passLeaseOp s = (0, raise (evPilot 0x387 0 (changeOwner (otherCtl (activeCtl s)) s).lease.epoch.toNat)
      (changeOwner (otherCtl (activeCtl s)) s)) := by
    unfold passLeaseOp
    dsimp only
    rw [if_pos hr]
  have taken : LeaseTaken (otherCtl (activeCtl s)) s _ := changeOwner_takes hn
  rw [op, taken.epoch]
  refine ⟨rfl, taken.leaseMoved rfl rfl rfl rfl (raise_sec ..) ?_ ?_ ?_ ?_ ?_ ?_ ?_ rfl⟩
  · rw [raise_lease]
  · rw [raise_lease]
  · rw [raise_lease]
  · rw [raise_lease]
  · rw [raise_lease]
  · rw [now_raise]
    exact now_congr (by rw [taken.time])
  · rw [raise_ledger]
    exact taken.moved

theorem passLeaseOp_refused {s : State} (hr : readyLately s (otherCtl (activeCtl s)) = false) : passLeaseOp s = (0x08000022, s) := by
  unfold passLeaseOp
  exact if_neg (by rw [hr]; decide)

/-- Settles O30: every pass of the lease is the one change of owner, and what is raised after it changes nothing of the lease. -/
theorem theLeasePassesByItsRules : Obligations.TheLeasePassesByItsRules := by
  unfold Obligations.TheLeasePassesByItsRules
  intro s
  refine ⟨fun c h => leaseRenewal_restarts h, fun c e h => leaseRenewal_refused h, fun c h hn hr => leaseExpiry_passes h hn hr,
    fun c h hr => leaseExpiry_restarts h hr, fun c hb ho => readyReport_claims hb ho, fun c hb ho => readyReport_noted hb ho,
    fun c e h => readyReport_stale h, fun n ho hs => ⟨?_, fun h3 hl hn => ?_⟩, fun via hs hown hn _ => ?_⟩
  · exact completes_of_exec (exec_claimWindowExpire ho hs) rfl
  · exact completes_of_exec (exec_claimWindowExpire ho hs) (advanceUp_firstGrant _ _ _ ho h3 hl hn)
  · refine writes_number rfl hs hown operatorNumber_pass rfl (by decide) (entryMissing_of_not_part rfl ..) rfl fun u hu => ?_
    rw [ruled_pass, ← activeCtl_accepted hu, ← readyLately_accepted hu]
    have epoch : s.lease.epoch = u.lease.epoch := by rw [hu.only .lease rfl]
    rw [epoch]
    by_cases hr : readyLately u (otherCtl (activeCtl u)) = true
    · rw [if_pos hr]
      exact passLeaseOp_passes (nothingToDrop_accepted hu hn) hr
    · rw [if_neg hr, passLeaseOp_refused (by simpa using hr)]
      exact ⟨rfl, rfl⟩

end Sys2Proof.Machine
end

section
/-!
PROOF. Event requests (R407 to R412): the places they enter, the selection of the best, and the record that a claim makes.
-/

namespace Sys2Proof.Machine

open Sys2Proof

/-! ## Requests -/

theorem raise_enters {e : EvReq} {s : State} (hp : s.events.pending.length < 256) (hw : s.events.waiting = []) :
    (raise e s).events = { s.events with pending := s.events.pending ++ [e] } := by
  unfold raise
  rw [if_pos ⟨hp, hw⟩]

theorem raise_full {s : State} (h : 256 ≤ s.events.pending.length ∨ s.events.waiting ≠ []) :
    ¬(s.events.pending.length < 256 ∧ s.events.waiting = []) := by
  rintro ⟨hp, hw⟩
  exact h.elim (fun hl => Nat.not_lt.mpr hl hp) (fun hn => hn hw)

theorem raise_waits {e : EvReq} {s : State} (h : 256 ≤ s.events.pending.length ∨ s.events.waiting ≠ [])
    (hw : (s.events.waiting.filter (sameSource e)).length < 4) :
    (raise e s).events = { s.events with waiting := s.events.waiting ++ [e] } := by
  unfold raise
  rw [if_neg (raise_full h), if_pos hw]

theorem raise_lost {e : EvReq} {s : State} (h : 256 ≤ s.events.pending.length ∨ s.events.waiting ≠ [])
    (hw : 4 ≤ (s.events.waiting.filter (sameSource e)).length) :
    (raise e s).events = { s.events with lost := min (s.events.lost + 1) 0xFFFFFFFF, lossFlag := true } := by
  unfold raise
  rw [if_neg (raise_full h), if_neg (Nat.not_lt.mpr hw)]
  rfl

/-! ## Selection -/

/-- The best request of a list that is not empty is the first of the highest priority (R408). -/
theorem bestRequest_first (s : State) {es : List EvReq} (h : es ≠ []) : ∃ pre e post, es = pre ++ e :: post ∧
    (∀ x ∈ pre, evPriority s x < evPriority s e) ∧ (∀ x ∈ post, evPriority s x ≤ evPriority s e) ∧ bestRequest s es = some e := by
  induction es using List.reverseRecOn with
  | nil => exact absurd rfl h
  | append_singleton es x ih =>
    have last : bestRequest s (es ++ [x]) =
        (bestRequest s es).elim (some x) (fun c => if evPriority s c < evPriority s x then some x else some c) := by
      unfold bestRequest
      rw [List.foldl_append, List.foldl_cons, List.foldl_nil]
      generalize List.foldl _ _ es = b
      cases b <;> rfl
    by_cases hes : es = []
    · subst hes
      exact ⟨[], x, [], rfl, nofun, nofun, rfl⟩
    · obtain ⟨pre, e, post, rfl, hpre, hpost, hbest⟩ := ih hes
      rw [last, hbest, Option.elim_some]
      by_cases hx : evPriority s e < evPriority s x
      · refine ⟨pre ++ e :: post, x, [], rfl, fun y hy => ?_, nofun, if_pos hx⟩
        obtain hy | hy := List.mem_append.mp hy
        · exact (hpre y hy).trans hx
        · obtain rfl | hy := List.mem_cons.mp hy
          · exact hx
          · exact (hpost y hy).trans_lt hx
      · refine ⟨pre, e, post ++ [x], by simp, hpre, fun y hy => ?_, if_neg hx⟩
        obtain hy | hy := List.mem_append.mp hy
        · exact hpost y hy
        · rw [List.mem_singleton.mp hy]
          exact Nat.not_lt.mp hx

theorem eventSelect_selects {s : State} (hs : s.events.selected = none) (hp : s.events.pending ≠ []) :
    Completes .eventSelect s (fun t =>
      ∃ pre e post, s.events.pending = pre ++ e :: post ∧ (∀ x ∈ pre, evPriority s x < evPriority s e) ∧
        (∀ x ∈ post, evPriority s x ≤ evPriority s e) ∧
        t.events = { s.events with
          selected := some e, pending := pre ++ post ++ s.events.waiting.take 1, waiting := s.events.waiting.drop 1 }) := by
  obtain ⟨pre, e, post, split, hpre, hpost, hbest⟩ := bestRequest_first s hp
  have taken : s.events.pending.erase e = pre ++ post := by
    have fresh : e ∉ pre := fun he => Nat.lt_irrefl _ (hpre e he)
    rw [split, List.erase_append_right _ fresh, List.erase_cons_head]
  have hc : exec .eventSelect s = .next { s with events := { s.events with
      selected := some e, pending := pre ++ post ++ s.events.waiting.take 1, waiting := s.events.waiting.drop 1 } } := by
    show execEventSelect s = _
    unfold execEventSelect selectEvent
    rw [hs, hbest]
    dsimp only
    rw [taken]
  exact completes_of_exec hc ⟨pre, e, post, split, hpre, hpost, rfl⟩

theorem eventSelect_idle {s : State} (h : s.events.selected.isSome = true ∨ s.events.pending = []) :
    Completes .eventSelect s (fun t => t = s) := by
  have hc : exec .eventSelect s = .next s := by
    show execEventSelect s = _
    unfold execEventSelect selectEvent
    obtain h | h := h
    · obtain ⟨e, he⟩ := Option.isSome_iff_exists.mp h
      rw [he]
    · have none' : bestRequest s s.events.pending = none := by rw [h]; rfl
      rw [none']
      cases s.events.selected <;> rfl
  exact completes_of_exec hc rfl

/-! ## Claims -/

/-- What the event controller of a state keeps through a raised request (R407). -/
structure SameRecords (s t : State) : Prop where
  queue : t.events.queue = s.events.queue
  selected : t.events.selected = s.events.selected
  nextSeq : t.events.nextSeq = s.events.nextSeq
  newest : t.events.newest = s.events.newest

theorem sameRecords_of_events {s t : State} (h : t.events = s.events) : SameRecords s t :=
  ⟨by rw [h], by rw [h], by rw [h], by rw [h]⟩

theorem sameRecords_raise (e : EvReq) {s t : State} (h : t.events = s.events) : SameRecords s (raise e t) :=
  ⟨by rw [raise_queue, h], by rw [raise_selected, h], by rw [raise_nextSeq, h], by rw [raise_newest, h]⟩

theorem sameRecords_sendPkt (node domain opcode : Nat) (data : List Byte) (s : State) : SameRecords s (sendPkt node domain opcode data s) := by
  unfold sendPkt enqueue
  split
  · exact sameRecords_raise _ rfl
  · exact sameRecords_of_events rfl

theorem sameRecords_notifyQueue (was : Bool) (s : State) : SameRecords s (notifyQueue was s) := by
  unfold notifyQueue
  dsimp only
  split
  · exact sameRecords_of_events rfl
  · exact sameRecords_sendPkt ..

theorem notifyQueue_same {was : Bool} {s : State} (h : was = s.events.queue.isEmpty) : notifyQueue was s = s := by
  unfold notifyQueue
  exact if_pos (.inl h)

/-- The record that a claim makes (R409). -/
def claimRecord (s : State) (e : EvReq) (flag : Bool) : EvRec :=
  { seq := s.events.nextSeq, time := s.time.tod, req := recordOf e, prio := evPriority s e, lostBefore := flag }

/-- The event controller with a new record (R409). -/
def recordAdded (s : State) (e : EvReq) : State :=
  { s with events := { s.events with
      selected := none, nextSeq := nextSeqNo s.events.nextSeq, queue := s.events.queue ++ [claimRecord s e s.events.lossFlag]
      newest := s.events.nextSeq, lossFlag := false } }

/-- The event controller in which a record gives way to a new one (R410). -/
def recordReplaced (s : State) (e : EvReq) (w : EvRec) : State :=
  { s with events := { s.events with
      selected := none, nextSeq := nextSeqNo s.events.nextSeq, queue := s.events.queue.erase w ++ [claimRecord s e true]
      newest := s.events.nextSeq, lost := sat32 (s.events.lost + 1), lossFlag := false } }

/-- The event controller in which a request is lost (R410). -/
def requestLost (s : State) : State :=
  { s with events := { s.events with
      selected := none, nextSeq := nextSeqNo s.events.nextSeq, lost := sat32 (s.events.lost + 1), lossFlag := true } }

/-- What a claim of a selected request does (R408 to R410). -/
theorem claimEvent_cases {s : State} {e : EvReq} (h : s.events.selected = some e) : claimEvent s =
    if s.events.queue.length < 4096 then notifyQueue s.events.queue.isEmpty (recordAdded s e)
    else (weakest s.events.queue).elim { s with events := { s.events with selected := none, nextSeq := nextSeqNo s.events.nextSeq } }
      (fun w => if w.prio < evPriority s e then recordReplaced s e w else requestLost s) := by
  unfold claimEvent
  rw [h]
  dsimp only
  cases weakest s.events.queue <;> rfl

theorem exec_eventClaim (s : State) : exec .eventClaim s = .next (claimEvent s) := rfl

theorem eventClaim_added {s : State} {e : EvReq} (h : s.events.selected = some e) (hq : s.events.queue.length < 4096) :
    Completes .eventClaim s (fun t =>
      t.events.queue = s.events.queue ++ [claimRecord s e s.events.lossFlag] ∧ t.events.selected = none ∧
      t.events.nextSeq = nextSeqNo s.events.nextSeq ∧ t.events.newest = s.events.nextSeq ∧
      (s.events.queue ≠ [] → t.events.lossFlag = false ∧ t.events.lost = s.events.lost ∧ t.fabric = s.fabric)) := by
  have hc := exec_eventClaim s
  rw [claimEvent_cases h, if_pos hq] at hc
  obtain ⟨queue, selected, next, newest⟩ := sameRecords_notifyQueue s.events.queue.isEmpty (recordAdded s e)
  refine completes_of_exec hc ⟨queue, selected, next, newest, fun hne => ?_⟩
  have nonempty : s.events.queue.isEmpty = (recordAdded s e).events.queue.isEmpty := by
    have added : (recordAdded s e).events.queue = s.events.queue ++ [claimRecord s e s.events.lossFlag] := rfl
    obtain ⟨a, l, hl⟩ := List.exists_cons_of_ne_nil hne
    rw [added, hl]
    rfl
  rw [notifyQueue_same nonempty]
  exact ⟨rfl, rfl, rfl⟩

/-- Settles O31: the selection keeps the first of the best, and a claim has three outcomes by the queue's length and weakest record. -/
theorem eventsAreSelectedClaimedAndKept : Obligations.EventsAreSelectedClaimedAndKept := by
  unfold Obligations.EventsAreSelectedClaimedAndKept
  intro s
  refine ⟨fun e hp hw => ?_, fun e h hw => ?_, fun e h hw => ?_, eventSelect_selects, eventSelect_idle,
    fun e h => ⟨eventClaim_added h, fun w hq hw hp => ?_, fun w hq hw hp => ?_⟩, fun h => ?_⟩
  · exact completes_of_exec (c := .eventRequest e) rfl (raise_enters hp hw)
  · exact completes_of_exec (c := .eventRequest e) rfl (raise_waits h hw)
  · exact completes_of_exec (c := .eventRequest e) rfl (raise_lost h hw)
  · have hc := exec_eventClaim s
    rw [claimEvent_cases h, if_neg (Nat.not_lt.mpr hq), hw, Option.elim_some, if_pos hp] at hc
    exact completes_of_exec hc ⟨rfl, rfl, rfl, rfl, rfl⟩
  · have hc := exec_eventClaim s
    rw [claimEvent_cases h, if_neg (Nat.not_lt.mpr hq), hw, Option.elim_some, if_neg (Nat.not_lt.mpr hp)] at hc
    exact completes_of_exec hc ⟨rfl, rfl, rfl, rfl, rfl⟩
  · have hc := exec_eventClaim s
    unfold claimEvent at hc
    rw [h] at hc
    exact completes_of_exec hc rfl

end Sys2Proof.Machine
end

section
/-!
PROOF. The event queue over the fabric (R413, R414, R467): what a requester reads, acknowledges and learns of the queue's figures.
-/

namespace Sys2Proof.Machine

open Sys2Proof

theorem mgmtDomain_accepted {s u : State} (h : Accepted s u) : mgmtDomain u = mgmtDomain s := by
  unfold mgmtDomain reg
  rw [h.regs]

theorem fabricAsker_mgmt {s : State} {d : Nat} (h : d = mgmtDomain s) : (fabricAsker s d).own = none := by
  unfold fabricAsker
  rw [if_pos h]

theorem headerOk_operator {w : Asker} (h : w.own = none) (hdr : Hdr) : headerOk w hdr = true := by
  unfold headerOk
  rw [h]

/-! ## EVENT_READ -/

theorem eventData_answers {p : Pkt} {h : Hdr} {first : BitVec 32} {wanted : Nat} {s : State} (h1 : 1 ≤ wanted) (h2 : wanted ≤ 127)
    (hh : headerOk (fabricAsker s p.domain) h = true) : eventData p h first wanted s =
      let rs := (visible (fabricAsker s p.domain).own h.part (recordsFrom s.events.queue first)).take wanted
      sendPkt p.node p.domain 0x5E
        (leBytes 2 h.tag.toNat ++ [BitVec.ofNat 8 rs.length, 0] ++
         leBytes 4 (((rs.getLast?.map (fun r => nextSeqNo r.seq)).getD first).toNat) ++ rs.flatMap recBytes) s := by
  have wellFormed : ¬(wanted = 0 ∨ wanted > 127 ∨ (!headerOk (fabricAsker s p.domain) h) = true) := by
    rw [hh]
    rintro (h | h | h)
    · omega
    · omega
    · exact absurd h (by decide)
  unfold eventData
  dsimp only
  rw [if_neg wellFormed]
  generalize (visible (fabricAsker s p.domain).own h.part (recordsFrom s.events.queue first)).take wanted = rs
  cases rs.getLast? <;> rfl

theorem eventData_refused {p : Pkt} {h : Hdr} {first : BitVec 32} {wanted : Nat} {s : State}
    (hb : wanted = 0 ∨ 127 < wanted ∨ headerOk (fabricAsker s p.domain) h = false) :
    eventData p h first wanted s = mgmtReply p h 2 0 0 0 0 0 [] s := by
  unfold eventData
  refine if_pos ?_
  obtain h | h | h := hb
  · exact .inl h
  · exact .inr (.inl h)
  · exact .inr (.inr (by rw [h]; rfl))

/-! ## EVENT_ACK -/

/-- An acknowledgement of a held record removes it and every record before it (R414). -/
theorem ackEvents_removes {seq : BitVec 32} {s : State} {pre post : List EvRec} {r : EvRec} (hq : s.events.queue = pre ++ r :: post)
    (hr : r.seq = seq) (hpre : ∀ q ∈ pre, q.seq ≠ seq) :
    ackEvents seq s = (true, notifyQueue s.events.queue.isEmpty { s with events := { s.events with queue := post } }) := by
  have held : s.events.queue.any (fun q => q.seq == seq) = true := by
    rw [hq, List.any_append, List.any_cons, hr, beq_self_eq_true, Bool.true_or, Bool.or_true]
  have rest : (s.events.queue.dropWhile (fun q => q.seq != seq)).drop 1 = post := by
    rw [hq, List.dropWhile_append_of_pos (fun q hm => bne_iff_ne.mpr (hpre q hm)), List.dropWhile_cons_of_neg (by rw [hr]; simp)]
    rfl
  unfold ackEvents
  rw [if_pos held]
  dsimp only
  rw [rest]

theorem ackEvents_refused {seq : BitVec 32} {s : State} (h : ∀ q ∈ s.events.queue, q.seq ≠ seq) : ackEvents seq s = (false, s) := by
  have free : ¬s.events.queue.any (fun q => q.seq == seq) = true := by
    rw [List.any_eq_true]
    rintro ⟨q, hq, hs⟩
    exact h q hq (beq_iff_eq.mp hs)
  unfold ackEvents
  exact if_neg free

theorem sameRecords_trans {s t u : State} (h : SameRecords s t) (h' : SameRecords t u) : SameRecords s u :=
  ⟨h'.queue.trans h.queue, h'.selected.trans h.selected, h'.nextSeq.trans h.nextSeq, h'.newest.trans h.newest⟩

/-- What EVENT_ACK does once it is delivered (R414). -/
def ackAnswer (p : Pkt) (h : Hdr) (seq : BitVec 32) (s : State) : State :=
  if p.domain = mgmtDomain s then
    let (ok, s) := ackEvents seq s
    if ok then figuresReply p h s else mgmtReply p h 2 0 0 0 0 0 [] s
  else mgmtReply p h 2 0 0 0 0 0 [] s

theorem ackAnswer_removes {p : Pkt} {h : Hdr} {seq : BitVec 32} {s : State} {pre post : List EvRec} {r : EvRec}
    (hd : p.domain = mgmtDomain s) (hq : s.events.queue = pre ++ r :: post) (hr : r.seq = seq) (hpre : ∀ q ∈ pre, q.seq ≠ seq) :
    ackAnswer p h seq s = figuresReply p h (ackEvents seq s).2 ∧ (ackAnswer p h seq s).events.queue = post ∧
    (ackAnswer p h seq s).events.newest = s.events.newest ∧ (ackAnswer p h seq s).events.nextSeq = s.events.nextSeq := by
  have removed := ackEvents_removes hq hr hpre
  have answer : ackAnswer p h seq s = figuresReply p h (ackEvents seq s).2 := by
    unfold ackAnswer
    rw [if_pos hd, removed]
    rfl
  have kept : SameRecords { s with events := { s.events with queue := post } } (ackAnswer p h seq s) := by
    rw [answer, removed]
    exact sameRecords_trans (sameRecords_notifyQueue ..) (sameRecords_sendPkt ..)
  exact ⟨answer, kept.queue, kept.newest, kept.nextSeq⟩

theorem ackAnswer_refused {p : Pkt} {h : Hdr} {seq : BitVec 32} {s : State}
    (hb : p.domain ≠ mgmtDomain s ∨ (∀ q ∈ s.events.queue, q.seq ≠ seq)) : ackAnswer p h seq s = mgmtReply p h 2 0 0 0 0 0 [] s := by
  unfold ackAnswer
  by_cases hd : p.domain = mgmtDomain s
  · rw [if_pos hd, ackEvents_refused (hb.resolve_left (fun hn => hn hd))]
    rfl
  · rw [if_neg hd]

/-! ## EVENT_STATUS -/

/-- What EVENT_STATUS does once it is delivered (R414). -/
def statusAnswer (p : Pkt) (h : Hdr) (s : State) : State :=
  if headerOk (fabricAsker s p.domain) h then figuresReply p h s else mgmtReply p h 2 0 0 0 0 0 [] s

theorem figuresReply_operator {p : Pkt} {h : Hdr} {s : State} (hw : (fabricAsker s p.domain).own = none) : figuresReply p h s =
    mgmtReply p h 0 0 ((s.events.queue.head?.map (fun r => r.seq.toNat)).getD 0) s.events.newest.toNat
      s.events.queue.length (min s.events.lost 0xFFFFFFFF) [] s := by
  unfold figuresReply queueFigures
  dsimp only
  rw [hw]
  rfl

theorem figuresReply_tenant {p : Pkt} {h : Hdr} {s : State} {part : Nat} (hw : (fabricAsker s p.domain).own = some part) :
    figuresReply p h s =
      let rs := visible (some part) h.part s.events.queue
      mgmtReply p h 0 0 ((rs.head?.map (fun r => r.seq.toNat)).getD 0) ((rs.getLast?.map (fun r => r.seq.toNat)).getD 0)
        rs.length 0 [] s := by
  unfold figuresReply queueFigures
  dsimp only
  rw [hw]

/-- A tenant sees only the records of its own partition (R413). -/
theorem visible_own {part n : Nat} {q : List EvRec} : ∀ r ∈ visible (some part) n q, r.req.part = part := by
  intro r hr
  unfold visible at hr
  obtain ⟨-, seen⟩ := List.mem_filter.mp hr
  simp only [Bool.and_eq_true, beq_iff_eq] at seen
  exact seen.1

/-- Settles O32: each command's answer is read off the accepted state, whose queue and figures are those before it. -/
theorem eventsAreReadOverTheFabric : Obligations.EventsAreReadOverTheFabric := by
  unfold Obligations.EventsAreReadOverTheFabric
  intro p h s harr
  have ack (seq : BitVec 32) (q : State → State → Prop) (hq : ∀ u, Accepted s u → q u (ackAnswer p h seq u)) :
      Delivers (.eventAck p h seq) s q := delivers_of_ingress harr rfl (fun t ht => (exec_keeps _ ht).only) hq
  have status (q : State → State → Prop) (hq : ∀ u, Accepted s u → q u (statusAnswer p h u)) :
      Delivers (.eventStatus p h) s q := delivers_of_ingress harr rfl (fun t ht => (exec_keeps _ ht).only) hq
  refine ⟨fun first wanted h1 h2 hh => ?_, fun first wanted hb => ?_, fun seq pre post r hd hq hr hpre => ?_, fun seq hb => ?_,
    fun hd => ?_, fun part hw hh => ?_, fun hh => ?_⟩
  · refine delivers_of_ingress (c := .eventRead p h first wanted) harr rfl (fun t ht => (exec_keeps _ ht).only) fun u hu => ?_
    rw [eventData_answers h1 h2 (by rw [fabricAsker_accepted hu]; exact hh), fabricAsker_accepted hu, hu.queue]
  · refine delivers_of_ingress (c := .eventRead p h first wanted) harr rfl (fun t ht => (exec_keeps _ ht).only) fun u hu => ?_
    exact eventData_refused (by rw [fabricAsker_accepted hu]; exact hb)
  · refine ack seq _ fun u hu => ?_
    rw [← hu.newest, ← hu.nextSeq]
    exact ackAnswer_removes (by rw [mgmtDomain_accepted hu]; exact hd) (by rw [hu.queue]; exact hq) hr hpre
  · exact ack seq _ fun u hu => ackAnswer_refused (by rw [mgmtDomain_accepted hu, hu.queue]; exact hb)
  · refine status _ fun u hu => ?_
    have operator : (fabricAsker u p.domain).own = none := fabricAsker_mgmt (by rw [mgmtDomain_accepted hu]; exact hd)
    unfold statusAnswer
    rw [if_pos (headerOk_operator operator h), figuresReply_operator operator, hu.queue, hu.newest]
  · refine status _ fun u hu => ?_
    have own : (fabricAsker u p.domain).own = some part := by rw [fabricAsker_accepted hu]; exact hw
    unfold statusAnswer
    rw [if_pos (by rw [fabricAsker_accepted hu]; exact hh), figuresReply_tenant own, hu.queue]
    exact ⟨rfl, visible_own⟩
  · refine status _ fun u hu => ?_
    unfold statusAnswer
    rw [if_neg (by rw [fabricAsker_accepted hu, hh]; decide)]

end Sys2Proof.Machine
end

section
/-!
PROOF. Writes and reads of objects (R396, R398): the checks in their order, and the lease time as an accepted write.
-/

namespace Sys2Proof.Machine

open Sys2Proof

/-! ## The dictionary -/

theorem findObj_spec {index sub : Nat} {o : Obj} (h : findObj index sub = some o) : o.index = index ∧ indexExists index = true := by
  have row := List.find?_some h
  have mem := List.mem_of_find?_eq_some h
  simp only [Bool.and_eq_true, beq_iff_eq, decide_eq_true_eq] at row
  obtain ⟨⟨named, -⟩, -⟩ := row
  exact ⟨named, List.any_eq_true.mpr ⟨o, mem, beq_iff_eq.mpr named⟩⟩

/-- The operator's key, which its first write sets without a permit (R392). -/
theorem findObj_firstKey : (findObj 0x2510 1).map Obj.acc = some .rwp := by decide +kernel

/-! ## Writes by a path -/

/-- A path is the mailbox's. -/
def bySdo : Via → Bool
  | .sdo => true
  | .fabric .. => false

/-- A served write of an object, with the path told: an SDO alone may set the first key (R392, R394, R414). -/
theorem writes_by_path {c : Instr} {via : Via} {index sub : Nat} {v : List Byte} {s : State} {q : State → Nat → State → Prop}
    (hc : exec c s = .next (viaWrite c via index sub v s)) (hs : Served via s)
    (hq : ∀ u, Accepted s u →
      q u (writeObject (writer via s) (bySdo via) index sub v u).1 (writeObject (writer via s) (bySdo via) index sub v u).2) :
    Writes c via s q := by
  have ho {t : State} (ht : exec c s = .next t) : Only (footprint c) s t := (exec_keeps c ht).only
  cases via with
  | sdo =>
    obtain ⟨hesm, hserved, hbox⟩ := hs
    refine ⟨s, _, _, _, hc, ho hc, hq s (Accepted.refl s), rfl, ?_⟩
    simp only [viaWrite, sdoWrite, if_neg hesm, if_pos hserved, serveMailbox_of_empty hbox]
    rfl
  | fabric p h =>
    obtain ⟨harr, hok⟩ := hs
    obtain ⟨u, hu, hact⟩ := ingress_arrives harr c
    obtain ⟨t, ht, hadv⟩ := hact (fabricWrite p h index sub v)
    refine ⟨u, _, _, _, hc, ho hc, hq u hu, hu, ?_⟩
    have hgo : viaWrite c (.fabric p h) index sub v s = t := ht
    rw [hgo]
    unfold fabricWrite at hadv
    dsimp only at hadv
    rw [fabricAsker_accepted hu, if_pos hok] at hadv
    exact hadv

theorem exec_of_writeBy {c : Instr} {via : Via} {index sub : Nat} {v : List Byte} (h : WriteBy c via index sub v) (s : State) :
    exec c s = .next (viaWrite c via index sub v s) := by
  obtain ⟨rfl, rfl⟩ | ⟨p, hdr, rfl, rfl⟩ := h
  · rfl
  · rfl

/-! ## The checks of a write -/

section
variable {w : Asker} {sdo : Bool} {index sub : Nat} {v : List Byte} {s : State}

theorem writeObject_no_index (h : indexExists index = false) : writeObject w sdo index sub v s = (0x06020000, s) := by
  unfold writeObject
  rw [h]
  rfl

theorem writeObject_no_entry (hi : indexExists index = true) (hf : findObj index sub = none) (h0 : sub ≠ 0 ∨ arrayCount index = none) :
    writeObject w sdo index sub v s = (0x06090011, s) := by
  have count : ¬(sub = 0 ∧ (arrayCount index).isSome = true) := by
    rintro ⟨hz, hs⟩
    obtain h | h := h0
    · exact h hz
    · rw [h] at hs
      exact absurd hs (by decide)
  unfold writeObject
  rw [hi, hf]
  dsimp only
  rw [if_neg count]
  rfl

theorem writeObject_found {o : Obj} (hf : findObj index sub = some o) : writeObject w sdo index sub v s = writeFound w sdo o sub v s := by
  unfold writeObject
  rw [(findObj_spec hf).2, hf]
  rfl

/-- The write sets the operator's key for the first time (R392). -/
def firstKey (sdo : Bool) (o : Obj) (sub : Nat) (s : State) : Bool := sdo && o.index == 0x2510 && sub == 1 && s.sec.opKey.isNone

variable {o : Obj}

theorem writeFound_readOnly (h : o.acc = .ro) : writeFound w sdo o sub v s = (0x06010002, s) := by
  unfold writeFound
  exact if_pos h

theorem writeFound_no_role (h : o.acc ≠ .ro) (hm : mayWrite w o sub = false) : writeFound w sdo o sub v s = (0x06010000, s) := by
  unfold writeFound
  dsimp only
  rw [if_neg h, hm]
  rfl

theorem writeFound_missing (h : o.acc ≠ .ro) (hm : mayWrite w o sub = true) (he : entryMissing s o sub = true) :
    writeFound w sdo o sub v s = (0x06090011, s) := by
  unfold writeFound
  dsimp only
  rw [if_neg h, hm, he]
  rfl

theorem writeFound_permit (h : o.acc = .rwp) (hm : mayWrite w o sub = true) (he : entryMissing s o sub = false)
    (hk : firstKey sdo o sub s = false) : writeFound w sdo o sub v s = (0x08000021, raise (evCtl 0x314 2 (activeCtl s) 0) s) := by
  unfold firstKey at hk
  unfold writeFound
  dsimp only
  rw [hk, h, hm, he]
  rfl

/-- A write that no permit guards comes to the check of its length (R396). -/
theorem writeFound_open (h : o.acc = .rw ∨ o.acc = .wo) (hm : mayWrite w o sub = true) (he : entryMissing s o sub = false)
    (hk : firstKey sdo o sub s = false) : writeFound w sdo o sub v s =
      if v.length ≠ o.len then (0x06070010, s)
      else if o.ty ≥ 8 then
        if o.index = 0x2500 then (if (checkPermit none v s).1 = 0 then 0 else 0x08000022, (checkPermit none v s).2)
        else (if (imageChunkOp v s).1 then 0 else 0x08000022, (imageChunkOp v s).2)
      else if !inRange s o sub (leNat v) then (0x06090030, rangeRefused o.index (sub - 1) s)
      else ((ruleWrite w.own o.index sub (leNat v) s).1,
        if (ruleWrite w.own o.index sub (leNat v) s).1 = 0 then noteWrite o sub (ruleWrite w.own o.index sub (leNat v) s).2
        else (ruleWrite w.own o.index sub (leNat v) s).2) := by
  unfold firstKey at hk
  unfold writeFound
  dsimp only
  rw [hk, hm, he]
  obtain h | h := h
  · rw [h]
    rfl
  · rw [h]
    rfl

end

theorem firstKey_open {sdo : Bool} {index sub : Nat} {o : Obj} (hf : findObj index sub = some o) (h : o.acc = .rw ∨ o.acc = .wo)
    (s : State) : firstKey sdo o sub s = false := by
  have named := (findObj_spec hf).1
  by_contra hk
  unfold firstKey at hk
  simp only [Bool.not_eq_false, Bool.and_eq_true, beq_iff_eq] at hk
  obtain ⟨⟨⟨-, hi⟩, rfl⟩, -⟩ := hk
  have key := findObj_firstKey
  rw [← hi, named, hf] at key
  obtain h | h := h
  · rw [Option.map_some, h] at key
    exact absurd key (by decide)
  · rw [Option.map_some, h] at key
    exact absurd key (by decide)

theorem firstKey_of_not {via : Via} {index sub : Nat} {o : Obj} {s u : State} (hf : findObj index sub = some o) (hu : Accepted s u)
    (h : ¬(via = .sdo ∧ index = 0x2510 ∧ sub = 1 ∧ s.sec.opKey = none)) : firstKey (bySdo via) o sub u = false := by
  have named := (findObj_spec hf).1
  have key : u.sec.opKey = s.sec.opKey := by rw [accepted_sec hu]
  by_contra hk
  unfold firstKey at hk
  rw [named, key] at hk
  simp only [Bool.not_eq_false, Bool.and_eq_true, beq_iff_eq, Option.isNone_iff_eq_none] at hk
  obtain ⟨⟨⟨hv, hi⟩, hs⟩, hn⟩ := hk
  refine h ⟨?_, hi, hs, hn⟩
  cases via with
  | sdo => rfl
  | fabric p hdr => exact absurd hv Bool.false_ne_true

/-! ## The lease time -/

/-- The lease time, which the operator writes (R401). -/
def leaseTimeObj : Obj := ⟨0x2720, 3, 3, 3, 2, .rw, [.operator], .single, 5, 1000, none, true⟩

theorem findObj_leaseTime : findObj 0x2720 3 = some leaseTimeObj := by rfl

theorem ruleWrite_leaseTime (own : Option Nat) (v : Nat) (s : State) : ruleWrite own 0x2720 3 v s = (0, setReg 0x272003 v s) := rfl

theorem regs_noteWrite (o : Obj) (sub : Nat) (s : State) : (noteWrite o sub s).regs = s.regs := (noteWrite_keeps o sub s).only .regs rfl

theorem writeObject_leaseTime {w : Asker} (hw : w.own = none) (sdo : Bool) {v : List Byte} (hlen : v.length = 2) (h5 : 5 ≤ leNat v)
    (h1000 : leNat v ≤ 1000) (s : State) :
    writeObject w sdo 0x2720 3 v s = (0, saved 0x2720 3 (setReg 0x272003 (leNat v) s)) := by
  have may : mayWrite w leaseTimeObj 3 = true := by simp only [mayWrite, hw]; rfl
  have range : inRange s leaseTimeObj 3 (leNat v) = true := by simp [inRange, leaseTimeObj, h5, h1000]
  have named : leaseTimeObj.index = 0x2720 := rfl
  have whole : ¬(v.length ≠ leaseTimeObj.len) := not_not_intro hlen
  rw [writeObject_found findObj_leaseTime,
    writeFound_open (.inl rfl) may (entryMissing_of_not_part rfl ..) (firstKey_open findObj_leaseTime (.inl rfl) s),
    if_neg whole, if_neg (by decide), range, named, ruleWrite_leaseTime]
  unfold saved
  rw [findObj_leaseTime]
  rfl

theorem setting_leaseTime (v : Nat) (s : State) : setting (saved 0x2720 3 (setReg 0x272003 v s)) 0x2720 3 = v := by
  have regs : (saved 0x2720 3 (setReg 0x272003 v s)).regs = amSet s.regs 0x272003 v := by
    unfold saved
    rw [findObj_leaseTime]
    exact regs_noteWrite ..
  unfold setting reg
  rw [regs]
  exact (amGet_amSet ..).trans (if_pos rfl)

/-! ## Reads -/

theorem mayRead_accepted {s u : State} (h : Accepted s u) (w : Asker) (o : Obj) (sub : Nat) : mayRead u w o sub = mayRead s w o sub := by
  unfold mayRead holder getFld
  rw [h.only .fld rfl, h.only .pilot rfl, h.only .test rfl]
  simp only [setting_accepted h]

theorem delivers_read {p : Pkt} {h : Hdr} {index sub : Nat} {s : State} {q : State → State → Prop} (harr : Arrives p s)
    (hq : ∀ u, Accepted s u → q u (fabricRead p h index sub u)) : Delivers (.objectRead p h index sub) s q :=
  delivers_of_ingress harr rfl (fun _ ht => (exec_keeps _ ht).only) hq

theorem fabricRead_refused {p : Pkt} {h : Hdr} {index sub : Nat} {s : State} (hh : headerOk (fabricAsker s p.domain) h = false) :
    fabricRead p h index sub s = objReply p h 0x06010000 [] s := by
  unfold fabricRead
  exact if_neg (by rw [hh]; decide)

theorem fabricRead_reads {p : Pkt} {h : Hdr} {index sub : Nat} {s : State} (hh : headerOk (fabricAsker s p.domain) h = true) :
    fabricRead p h index sub s = objReply p h (readObject (fabricAsker s p.domain) index sub s).1
      (readObject (fabricAsker s p.domain) index sub s).2 s := by
  unfold fabricRead
  exact if_pos hh

theorem readObject_found {w : Asker} {index sub : Nat} {o : Obj} (hf : findObj index sub = some o) (s : State) :
    readObject w index sub s =
      if o.acc = .wo then (0x06010001, []) else if !mayRead s w o sub then (0x06010000, [])
      else if entryMissing s o sub then (0x06090011, []) else (0, objBytes s w.own.isSome o sub) := by
  unfold readObject
  rw [(findObj_spec hf).2, hf]
  rfl

theorem readObject_none {w : Asker} {index sub : Nat} (hi : indexExists index = true) (hf : findObj index sub = none) (h0 : sub ≠ 0)
    (s : State) : readObject w index sub s = (0x06090011, []) := by
  unfold readObject
  rw [hi, hf]
  dsimp only
  cases arrayCount index with
  | none => rfl
  | some n => exact if_neg h0

theorem indexExists_of_arrayCount {index n : Nat} (h : arrayCount index = some n) : indexExists index = true := by
  unfold arrayCount at h
  obtain ⟨o, ho, -⟩ := Option.map_eq_some_iff.mp h
  have row := List.find?_some ho
  simp only [Bool.and_eq_true] at row
  exact List.any_eq_true.mpr ⟨o, List.mem_of_find?_eq_some ho, row.1⟩

theorem readObject_count {w : Asker} {index n : Nat} (hf : findObj index 0 = none) (hn : arrayCount index = some n) (s : State) :
    readObject w index 0 s = (0, [BitVec.ofNat 8 n]) := by
  unfold readObject
  rw [indexExists_of_arrayCount hn, hf]
  dsimp only
  rw [hn]
  rfl

/-- Settles O33: a write and a read are refused by the first check that fails, one lemma for each check. -/
theorem objectsAreReadAndWrittenInOrder : Obligations.ObjectsAreReadAndWrittenInOrder := by
  unfold Obligations.ObjectsAreReadAndWrittenInOrder
  intro s
  refine ⟨fun c via index sub v hby hs => ?_, fun p h index sub harr => ?_⟩
  · have write (q : State → Nat → State → Prop) (hq : ∀ u, Accepted s u →
        q u (writeObject (writer via s) (bySdo via) index sub v u).1 (writeObject (writer via s) (bySdo via) index sub v u).2) :
        Writes c via s q := writes_by_path (exec_of_writeBy hby s) hs hq
    refine ⟨fun hi => write _ fun u _ => ?_, fun hi hf h0 => write _ fun u _ => ?_, fun o hf => ⟨fun ha => write _ fun u _ => ?_,
      fun ha hm => write _ fun u _ => ?_, fun ha hm he => write _ fun u hu => ?_, fun ha hm he hk => write _ fun u hu => ?_,
      fun ha hm he hl => write _ fun u hu => ?_, fun ha hm he hl ht hr => write _ fun u hu => ?_⟩, fun hi h3 hw hl h5 h1000 => ?_⟩
    · rw [writeObject_no_index hi]
      exact ⟨rfl, rfl⟩
    · rw [writeObject_no_entry hi hf h0]
      exact ⟨rfl, rfl⟩
    · rw [writeObject_found hf, writeFound_readOnly ha]
      exact ⟨rfl, rfl⟩
    · rw [writeObject_found hf, writeFound_no_role ha hm]
      exact ⟨rfl, rfl⟩
    · rw [writeObject_found hf, writeFound_missing ha hm (by rw [entryMissing_accepted hu]; exact he)]
      exact ⟨rfl, rfl⟩
    · rw [writeObject_found hf, writeFound_permit ha hm (by rw [entryMissing_accepted hu]; exact he) (firstKey_of_not hf hu hk),
        activeCtl_accepted hu]
      exact ⟨rfl, rfl⟩
    · rw [writeObject_found hf, writeFound_open ha hm (by rw [entryMissing_accepted hu]; exact he) (firstKey_open hf ha u), if_pos hl]
      exact ⟨rfl, rfl⟩
    · rw [writeObject_found hf, writeFound_open ha hm (by rw [entryMissing_accepted hu]; exact he) (firstKey_open hf ha u),
        if_neg (not_not_intro hl), if_neg (Nat.not_le.mpr ht), inRange_accepted hu, hr]
      exact ⟨rfl, rfl⟩
    · subst hi h3
      refine write _ fun u _ => ?_
      rw [writeObject_leaseTime hw _ hl h5 h1000]
      exact ⟨rfl, rfl, setting_leaseTime ..⟩
  · have read (q : State → State → Prop) (hh : headerOk (fabricAsker s p.domain) h = true)
        (hq : ∀ u, Accepted s u → q u (objReply p h (readObject (fabricAsker s p.domain) index sub u).1
          (readObject (fabricAsker s p.domain) index sub u).2 u)) : Delivers (.objectRead p h index sub) s q := by
      refine delivers_read harr fun u hu => ?_
      rw [fabricRead_reads (by rw [fabricAsker_accepted hu]; exact hh), fabricAsker_accepted hu]
      exact hq u hu
    refine ⟨fun hh => delivers_read harr fun u hu => ?_, fun hh hi => read _ hh fun u _ => ?_, fun o hh hf => ⟨fun ha => ?_,
      fun ha hm => ?_, fun ha hm he => ?_, fun ha hm he => ?_⟩, fun hh hi hf h0 => read _ hh fun u _ => ?_,
      fun n hh hf hn h0 => read _ hh fun u _ => ?_⟩
    · exact fabricRead_refused (by rw [fabricAsker_accepted hu]; exact hh)
    · have none' : readObject (fabricAsker s p.domain) index sub u = (0x06020000, []) := by
        unfold readObject
        rw [hi]
        rfl
      rw [none']
    · refine read _ hh fun u _ => ?_
      rw [readObject_found hf, if_pos ha]
    · refine read _ hh fun u hu => ?_
      rw [readObject_found hf, if_neg ha, mayRead_accepted hu, hm]
      rfl
    · refine read _ hh fun u hu => ?_
      rw [readObject_found hf, if_neg ha, mayRead_accepted hu, hm, entryMissing_accepted hu, he]
      rfl
    · refine read _ hh fun u hu => ?_
      rw [readObject_found hf, if_neg ha, mayRead_accepted hu, hm, entryMissing_accepted hu, he]
      rfl
    · rw [readObject_none hi hf h0]
    · subst h0
      rw [readObject_count hf hn]

end Sys2Proof.Machine
end

section
/-!
PROOF. Sleep and wake (R418 to R421): what the entry into sleep takes away, and the wake that a selected source begins.
-/

namespace Sys2Proof.Machine

open Sys2Proof

/-! ## What sleep takes away -/

theorem portUp_portStop (i : Nat) (s : State) : portUp (portStop i s) i = false := by
  unfold portUp portStop
  rw [getPort_modPort, if_pos rfl]
  dsimp only
  split <;> rfl

theorem portUp_portStop_kept {i : Nat} {s : State} (h : portUp s i = false) (j : Nat) : portUp (portStop j s) i = false := by
  by_cases hij : i = j
  · subst hij
    exact portUp_portStop ..
  · unfold portUp portStop at *
    rw [getPort_modPort, if_neg hij]
    exact h

/-- One port of those that sleep stops (R418). -/
def stopPort (s : State) (i : Nat) : State := if (amFind s.fabric.ports i).isSome then portStop i s else s

theorem portUp_stopPort (i : Nat) (s : State) : portUp (stopPort s i) i = false := by
  unfold stopPort
  split
  · exact portUp_portStop ..
  · next h =>
    unfold portUp getPort amGet
    rw [Option.not_isSome_iff_eq_none.mp h]
    rfl

theorem portUp_stopPort_kept {i : Nat} {s : State} (h : portUp s i = false) (j : Nat) : portUp (stopPort s j) i = false := by
  unfold stopPort
  split
  · exact portUp_portStop_kept h j
  · exact h

theorem portUp_stopPorts {i : Nat} {s : State} (l : List Nat) (h : i ∈ l ∨ portUp s i = false) : portUp (l.foldl stopPort s) i = false := by
  induction l generalizing s with
  | nil => exact h.resolve_left List.not_mem_nil
  | cons j l ih =>
    refine ih ?_
    obtain hin | hdown := h
    · obtain rfl | hin := List.mem_cons.mp hin
      · exact .inr (portUp_stopPort ..)
      · exact .inl hin
    · exact .inr (portUp_stopPort_kept hdown j)

theorem stopPorts_keeps (l : List Nat) (s : State) : Keeps [.fabric] s (l.foldl stopPort s) := by
  refine Keeps.foldl (Keeps.refl _ s) fun t i h => ?_
  unfold stopPort
  split
  · exact h.trans (portStop_keeps i t)
  · exact h

/-- A loop that sleep stops is off, or failed as it was (R305, R418). -/
def asleepLoop (st : FcState) : FcState := if st = .failed then .failed else .off

theorem getClk_downField_sleep (s : State) (g f : Nat) :
    (getClk (downField false s g) f).st = if f = g then asleepLoop (getClk s f).st else (getClk s f).st := by
  unfold downField
  simp only [getClk_modClk, getClk_modFld]
  by_cases h : f = g
  · subst h
    rw [if_pos rfl, if_pos rfl]
    show (if (!false && (getClk s f).st == .failed) = true then FcState.failed else .off) = asleepLoop (getClk s f).st
    cases (getClk s f).st <;> rfl
  · rw [if_neg h, if_neg h]

theorem getClk_downFields_sleep (l : List Nat) (s : State) (f : Nat) :
    (getClk (l.foldl (downField false) s) f).st = if f ∈ l then asleepLoop (getClk s f).st else (getClk s f).st := by
  have again (st : FcState) : asleepLoop (asleepLoop st) = asleepLoop st := by cases st <;> rfl
  induction l generalizing s with
  | nil => rfl
  | cons g l ih =>
    rw [List.foldl_cons, ih, getClk_downField_sleep]
    by_cases hl : f ∈ l
    · rw [if_pos hl, if_pos (List.mem_cons_of_mem g hl)]
      split
      · rw [again]
      · rfl
    · rw [if_neg hl]
      by_cases hg : f = g
      · rw [if_pos hg, if_pos (hg ▸ List.mem_cons_self)]
      · rw [if_neg hg, if_neg (by simp [hg, hl])]

theorem getClk_offRest (s : State) (f : Nat) : getClk (offRest s) f = getClk s f := rfl

theorem getClk_allOff_sleep (s : State) {f : Nat} (h : f < 56) : (getClk (allOff false s) f).st = asleepLoop (getClk s f).st := by
  have down := getClk_downFields_sleep (List.range 56) s f
  rw [if_pos (List.mem_range.mpr h)] at down
  rw [allOff_eq, getClk_offRest, down]

/-- The marks of the wafer that enters sleep (R418). -/
def sleepMarked (s : State) : State :=
  { s with pilot := { s.pilot with sleep := 1, wakeLatched := [] }
           lease := { s.lease with standby := if s.lease.standby = .absent then .absent else .halted } }

theorem beginSleep_marks (s : State) : beginSleep s = sleepMarked (allOff false ((List.range 64).foldl stopPort s)) := by
  unfold beginSleep stopPort
  generalize List.range 64 = l
  rfl

theorem maySleep_accepted {s u : State} (h : Accepted s u) : maySleep u = maySleep s := by
  unfold maySleep
  rw [h.only .pilot rfl, h.only .parts rfl, funext (quiesced_accepted h)]

/-- What the entry into sleep leaves (R418). -/
structure Sleeping (s t : State) : Prop where
  sleep : t.pilot.sleep = 1
  latched : t.pilot.wakeLatched = []
  mem : t.mem = []
  running : t.power.running = 0
  bus : t.power.busGood = false
  powered : ∀ f, f < 56 → (getFld t f).powered = false
  loops : ∀ f, f < 56 → (getClk t f).st = asleepLoop (getClk s f).st
  ports : ∀ i, i < 64 → portUp t i = false
  sec : t.sec = s.sec
  regs : t.regs = s.regs
  owner : t.lease.owner = s.lease.owner

theorem beginSleep_sleeps (s : State) : Sleeping s (beginSleep s) := by
  rw [beginSleep_marks]
  have ports (i : Nat) (hi : i < 64) : portUp ((List.range 64).foldl stopPort s) i = false :=
    portUp_stopPorts _ (.inl (List.mem_range.mpr hi))
  have only := (stopPorts_keeps (List.range 64) s).only
  generalize (List.range 64).foldl stopPort s = u at ports only
  have off := (allOff_keeps false u).only
  have power := allOff_power false u
  have mem := allOff_mem false u
  have loops (f : Nat) (h : f < 56) : (getClk (allOff false u) f).st = asleepLoop (getClk s f).st := by
    rw [getClk_allOff_sleep u h, getClk_congr (only .clk rfl)]
  have powered (f : Nat) (h : f < 56) : (getFld (allOff false u) f).powered = false := (fieldDown_allOff false u h).1
  have stopped (i : Nat) (hi : i < 64) : portUp (allOff false u) i = false := by
    have same : portUp (allOff false u) i = portUp u i := by
      unfold portUp getPort
      rw [off .fabric rfl]
    rw [same, ports i hi]
  have sec : (allOff false u).sec = s.sec := (off .sec rfl).trans (only .sec rfl)
  have regs : (allOff false u).regs = s.regs := (off .regs rfl).trans (only .regs rfl)
  have lease : (allOff false u).lease = s.lease := (off .lease rfl).trans (only .lease rfl)
  generalize allOff false u = t at power mem loops powered stopped sec regs lease
  exact ⟨rfl, rfl, mem, congrArg PowerS.running power, congrArg PowerS.busGood power, powered, loops, stopped, sec, regs,
    (congrArg LeaseS.owner lease : t.lease.owner = s.lease.owner)⟩

/-! ## The wake -/

/-- A wake that has begun, with its sources and the lowest of them (R420). -/
structure Woken (ns : List Nat) (first : Nat) (s t : State) : Prop where
  fired : t.pilot.wakeFired = ns
  cause : t.pilot.wakeCause = first
  sleep : t.pilot.sleep = 3
  waking : t.pilot.waking = true
  step : t.pilot.step = 6
  latched : t.pilot.wakeLatched = []
  events : t.events = (raise (evPilot 0x391 0 first) s).events

theorem advanceUp_no_hv {s : State} (h6 : s.pilot.step = 6) (hp : s.power.present = false) : advanceUp s = s := by
  have stands : upStep s = none := by
    unfold upStep
    simp [h6, hp]
  have loop : upLoop 12 s = match upStep s with
      | some t => upLoop 11 t
      | none => if s.pilot.step = 6 && s.power.present then startConverters s else s := rfl
  unfold advanceUp
  rw [loop, stands, hp, Bool.and_false]
  rfl

/-- The marks of a wake (R418, R420). -/
def wakeMarked (ns : List Nat) (first : Nat) (s : State) : State :=
  { s with pilot := { s.pilot with
      wakeFired := ns, wakeCause := first, wakeLatched := [], sleep := 3, waking := true, step := 6, stepSince := now s
      trigger := now s, groups := 0 } }

/-- The standby controller starts again with the wafer (R418). -/
def standbyStarts (s : State) : State :=
  { s with lease := { s.lease with standby := if s.lease.standby = .halted then .booting else s.lease.standby } }

theorem beginWake_marks (ns : List Nat) (s : State) : beginWake ns s =
    advanceUp (standbyStarts (raise (evPilot 0x391 0 (ns.foldl min (ns.headD 0xFFFF))) (wakeMarked ns (ns.foldl min (ns.headD 0xFFFF)) s))) := by
  unfold beginWake
  generalize ns.foldl min (ns.headD 0xFFFF) = first
  rfl

theorem beginWake_wakes {ns : List Nat} {s : State} (hp : s.power.present = false) :
    Woken ns (ns.foldl min (ns.headD 0xFFFF)) s (beginWake ns s) := by
  rw [beginWake_marks]
  generalize ns.foldl min (ns.headD 0xFFFF) = first
  have events : (raise (evPilot 0x391 0 first) (wakeMarked ns first s)).events = (raise (evPilot 0x391 0 first) s).events :=
    raise_events _ rfl
  have pilot : (raise (evPilot 0x391 0 first) (wakeMarked ns first s)).pilot = (wakeMarked ns first s).pilot := raise_pilot ..
  have power : (raise (evPilot 0x391 0 first) (wakeMarked ns first s)).power.present = false := by
    rw [raise_power]
    exact hp
  generalize raise (evPilot 0x391 0 first) (wakeMarked ns first s) = u at events pilot power
  have marked : (standbyStarts u).pilot = (wakeMarked ns first s).pilot := pilot
  have step : (standbyStarts u).pilot.step = 6 := by
    rw [marked]
    rfl
  rw [advanceUp_no_hv step power]
  exact ⟨by rw [marked]; rfl, by rw [marked]; rfl, by rw [marked]; rfl, by rw [marked]; rfl, step, by rw [marked]; rfl, events⟩

/-- The lowest of a list that is not empty is in it and at most every member. -/
theorem foldl_min_lowest (a : Nat) (l : List Nat) : l.foldl min a ∈ a :: l ∧ ∀ n ∈ a :: l, l.foldl min a ≤ n := by
  induction l generalizing a with
  | nil => exact ⟨List.mem_cons_self, fun n hn => (List.mem_singleton.mp hn).symm.le⟩
  | cons b l ih =>
    obtain ⟨mem, least⟩ := ih (min a b)
    have low : l.foldl min (min a b) ≤ min a b := least _ List.mem_cons_self
    rw [List.foldl_cons]
    refine ⟨?_, fun n hn => ?_⟩
    · obtain h | h := List.mem_cons.mp mem
      · rw [h]
        obtain h | h := min_choice a b <;> rw [h] <;> simp
      · exact List.mem_cons_of_mem _ (List.mem_cons_of_mem _ h)
    · obtain rfl | hn := List.mem_cons.mp hn
      · exact low.trans (min_le_left ..)
      · obtain rfl | hn := List.mem_cons.mp hn
        · exact low.trans (min_le_right ..)
        · exact least n (List.mem_cons_of_mem _ hn)

theorem foldl_min_head {l : List Nat} (h : l ≠ []) :
    l.foldl min (l.headD 0xFFFF) ∈ l ∧ ∀ n ∈ l, l.foldl min (l.headD 0xFFFF) ≤ n := by
  obtain ⟨a, l, rfl⟩ := List.exists_cons_of_ne_nil h
  obtain ⟨mem, least⟩ := foldl_min_lowest a l
  have same : (a :: l).foldl min ((a :: l).headD 0xFFFF) = l.foldl min a := by
    rw [List.headD_cons, List.foldl_cons, min_self]
  rw [same]
  exact ⟨mem, least⟩

/-! ## Sources -/

theorem wakeFire_unselected {ns : List Nat} {s : State} (h : ns.filter (wakeSelected s) = []) : wakeFire ns s = s := by
  unfold wakeFire
  rw [h]
  rfl

theorem wakeFire_wakes {ns : List Nat} {s : State} (h : ns.filter (wakeSelected s) ≠ []) (hs : s.pilot.sleep = 2) :
    wakeFire ns s = beginWake (ns.filter (wakeSelected s)) s := by
  have some' : ¬(ns.filter (wakeSelected s)).isEmpty = true := by
    rw [List.isEmpty_iff]
    exact h
  unfold wakeFire
  dsimp only
  rw [if_neg some', if_pos hs]

theorem wakeFire_entering {ns : List Nat} {s : State} (hs : s.pilot.sleep = 1) :
    (wakeFire ns s).pilot = { s.pilot with wakeLatched := s.pilot.wakeLatched ++ ns.filter (wakeSelected s) } ∧
    (wakeFire ns s).events = s.events := by
  by_cases h : ns.filter (wakeSelected s) = []
  · rw [wakeFire_unselected h, h, List.append_nil]
    exact ⟨rfl, rfl⟩
  · have some' : ¬(ns.filter (wakeSelected s)).isEmpty = true := by
      rw [List.isEmpty_iff]
      exact h
    have asleep : ¬s.pilot.sleep = 2 := by rw [hs]; decide
    unfold wakeFire
    dsimp only
    rw [if_neg some', if_neg asleep, if_pos hs]
    exact ⟨rfl, rfl⟩

theorem wakeFire_one {n : Nat} {s : State} (hn : wakeSelected s n = true) (hs : s.pilot.sleep = 2) (hp : s.power.present = false) :
    Woken [n] n s (wakeFire [n] s) := by
  have selected : [n].filter (wakeSelected s) = [n] := by rw [List.filter_cons, if_pos hn, List.filter_nil]
  have lowest : [n].foldl min ([n].headD 0xFFFF) = n := min_self n
  have wakes := beginWake_wakes (ns := [n]) hp
  rw [lowest] at wakes
  rw [wakeFire_wakes (by rw [selected]; exact List.cons_ne_nil n []) hs, selected]
  exact wakes

/-! ## The commands -/

/-- The objects that request sleep and a wake (R418, R419). -/
def sleepObj (sub : Nat) : Obj := ⟨0x2731, sub, sub, 1, 1, .wo, [.operator], .single, 1, 1, none, true⟩

theorem operatorNumber_sleep : OperatorNumber 0x2731 1 (sleepObj 1) where
  known := by decide +kernel
  found := by decide +kernel
  named := rfl
  acc := .inr rfl
  operator := rfl
  number := by decide
  notKey := by decide

theorem operatorNumber_wake : OperatorNumber 0x2731 2 (sleepObj 2) where
  known := by decide +kernel
  found := by decide +kernel
  named := rfl
  acc := .inr rfl
  operator := rfl
  number := by decide
  notKey := by decide

theorem ruled_sleep (s : State) : ruled 0x2731 1 1 s = sleepOp s := by
  have rule : ruleWrite none 0x2731 1 1 s = sleepOp s := rfl
  unfold ruled saved
  rw [rule, operatorNumber_sleep.found]
  exact Prod.ext rfl (ite_self _)

theorem ruled_wake (s : State) : ruled 0x2731 2 1 s = (0, wakeFire [93] s) := by
  have rule : ruleWrite none 0x2731 2 1 s = (0, wakeFire [93] s) := rfl
  unfold ruled saved
  rw [rule, operatorNumber_wake.found]
  rfl

theorem writes_wake {via : Via} {s : State} {q : State → Nat → State → Prop} (hs : Served via s) (hown : (writer via s).own = none)
    (hq : ∀ u, Accepted s u → q u 0 (wakeFire [93] u)) : Writes (.wakeRequest via 1) via s q := by
  refine writes_number rfl hs hown operatorNumber_wake rfl (by decide) (entryMissing_of_not_part rfl ..) rfl fun u hu => ?_
  rw [ruled_wake]
  exact hq u hu

theorem exec_sleepComplete {s : State} (h : s.pilot.sleep = 1) : exec .sleepComplete s = .next (
    if s.pilot.wakeLatched.isEmpty then raise (evPilot 0x390 0 0) { s with pilot := { s.pilot with sleep := 2 } }
    else beginWake s.pilot.wakeLatched (raise (evPilot 0x390 0 0) { s with pilot := { s.pilot with sleep := 2 } })) := by
  show execSleepComplete s = _
  unfold execSleepComplete sleepDone
  rw [if_pos h]
  dsimp only
  rw [raise_pilot]

theorem sleepComplete_woken {s : State} {n : Nat} (h : s.pilot.sleep = 1) (hl : s.pilot.wakeLatched = [n]) (hp : s.power.present = false) :
    Completes .sleepComplete s (fun t => Woken [n] n (raise (evPilot 0x390 0 0) s) t) := by
  have hc := exec_sleepComplete h
  rw [hl, if_neg (by simp)] at hc
  have hv : (raise (evPilot 0x390 0 0) { s with pilot := { s.pilot with sleep := 2 } }).power.present = false := by
    rw [raise_power]
    exact hp
  have lowest : [n].foldl min ([n].headD 0xFFFF) = n := min_self n
  have wakes := beginWake_wakes (ns := [n]) hv
  rw [lowest] at wakes
  refine completes_of_exec hc ⟨wakes.fired, wakes.cause, wakes.sleep, wakes.waking, wakes.step, wakes.latched, wakes.events.trans ?_⟩
  exact raise_events _ (raise_events _ rfl)

theorem exec_alarmFire {s : State} {n : Nat} (hn : n < 8) (hv : setting s 0x2732 (n + 1) ≠ 0) :
    exec (.alarmFire n) s = .next (wakeFire [80 + n] (toTod (setting s 0x2732 (n + 1)) s)) := by
  show execAlarmFire n s = _
  unfold execAlarmFire
  dsimp only
  rw [if_pos ⟨hn, hv⟩]

theorem alarmFire_unset {s : State} {n : Nat} (hv : setting s 0x2732 (n + 1) = 0) : exec (.alarmFire n) s = .next s := by
  show execAlarmFire n s = _
  unfold execAlarmFire
  dsimp only
  rw [if_neg (fun h => h.2 hv)]

theorem sleep_toTod (v : Nat) (s : State) : (toTod v s).pilot.sleep = s.pilot.sleep := by
  unfold toTod
  generalize ((v - s.time.tod.toNat) * 10 - s.time.todTenths + 63) / 64 = n
  rfl

theorem toTod_only (v : Nat) (s : State) : Only [.time, .pilot] s (toTod v s) := by
  unfold toTod
  generalize ((v - s.time.tod.toNat) * 10 - s.time.todTenths + 63) / 64 = n
  exact (addCycles_keeps n s).only

theorem alarmFire_wakes {s : State} {n : Nat} (hn : n < 8) (hv : setting s 0x2732 (n + 1) ≠ 0) (hw : wakeSelected s (80 + n) = true)
    (hs : s.pilot.sleep = 2) (hp : s.power.present = false) :
    Completes (.alarmFire n) s (fun t => Woken [80 + n] (80 + n) s t) := by
  have hc := exec_alarmFire hn hv
  have asleep := sleep_toTod (setting s 0x2732 (n + 1)) s
  have only := toTod_only (setting s 0x2732 (n + 1)) s
  generalize toTod (setting s 0x2732 (n + 1)) s = u at hc asleep only
  have wakes := wakeFire_one ((wakeSelected_congr (only .regs rfl) (80 + n)).trans hw) (asleep.trans hs)
    (by rw [only .power rfl]; exact hp)
  exact completes_of_exec hc ⟨wakes.fired, wakes.cause, wakes.sleep, wakes.waking, wakes.step, wakes.latched,
    wakes.events.trans (raise_events _ (only .events rfl))⟩

/-- Settles O34: sleep is the stop of the ports and fields with its marks, and every wake without HV is one lemma. -/
theorem theWaferSleepsAndWakes : Obligations.TheWaferSleepsAndWakes := by
  unfold Obligations.TheWaferSleepsAndWakes
  intro s
  refine ⟨fun via hs hown => ?_, fun hs hl => ?_, fun n hs hl hp => ?_, fun hs => ?_, fun ns hsel hs hp => ?_, fun ns hs => ?_,
    fun ns h => ?_, fun via hv hown hs hw hp => ?_, fun via hv hown hs => ?_, fun n hn hv hw hs hp => ?_, fun n hn hv hs => ?_,
    fun n hv => ?_⟩
  · refine writes_number rfl hs hown operatorNumber_sleep rfl (by decide) (entryMissing_of_not_part rfl ..) rfl fun u hu => ?_
    rw [ruled_sleep, ← maySleep_accepted hu]
    have clk (f : Nat) : getClk s f = getClk u f := (getClk_congr (hu.only .clk rfl) f).symm
    unfold sleepOp
    by_cases h : maySleep u = true
    · rw [if_pos h, if_pos h]
      have sleeps := beginSleep_sleeps u
      exact ⟨rfl, sleeps.sleep, sleeps.latched, sleeps.mem, sleeps.running, sleeps.bus,
        fun f hf => ⟨sleeps.powered f hf, by rw [clk]; exact sleeps.loops f hf⟩, sleeps.ports, sleeps.sec, sleeps.regs, sleeps.owner⟩
    · rw [if_neg h, if_neg h]
      exact ⟨rfl, rfl⟩
  · have hc := exec_sleepComplete hs
    rw [hl] at hc
    exact completes_of_exec hc ⟨raise_pilot .., raise_events _ rfl⟩
  · refine completes_imp (sleepComplete_woken hs hl hp) fun t w => ?_
    exact ⟨⟨w.fired, w.cause, w.sleep, w.waking, w.step, w.latched⟩, w.events⟩
  · have hc : exec .sleepComplete s = .next s := by
      show execSleepComplete s = _
      unfold execSleepComplete sleepDone
      rw [if_neg hs]
    exact completes_of_exec hc rfl
  · obtain ⟨n, hn, hw⟩ := hsel
    have some' : ns.filter (wakeSelected s) ≠ [] := List.ne_nil_of_mem (List.mem_filter.mpr ⟨hn, hw⟩)
    have hc : exec (.wakeSource ns) s = .next (wakeFire ns s) := rfl
    rw [wakeFire_wakes some' hs] at hc
    obtain ⟨mem, least⟩ := foldl_min_head some'
    have w := beginWake_wakes (ns := ns.filter (wakeSelected s)) hp
    exact completes_of_exec hc ⟨⟨w.fired, w.cause, w.sleep, w.waking, w.step, w.latched⟩, mem, least, w.events⟩
  · exact completes_of_exec (c := .wakeSource ns) rfl (wakeFire_entering hs)
  · have hc : exec (.wakeSource ns) s = .next (wakeFire ns s) := rfl
    obtain h | h := h
    · rw [wakeFire_awake ns h] at hc
      exact completes_of_exec hc rfl
    · have none' : ns.filter (wakeSelected s) = [] := List.filter_eq_nil_iff.mpr fun n hn => by rw [h n hn]; exact Bool.false_ne_true
      rw [wakeFire_unselected none'] at hc
      exact completes_of_exec hc rfl
  · refine writes_wake hv hown fun u hu => ?_
    have w := wakeFire_one (n := 93) ((wakeSelected_congr hu.regs 93).trans hw) (by rw [hu.only .pilot rfl]; exact hs)
      (by obtain ⟨m, hm⟩ := hu.power; rw [hm]; exact hp)
    exact ⟨rfl, ⟨w.fired, w.cause, w.sleep, w.waking, w.step, w.latched⟩, w.events⟩
  · refine writes_wake hv hown fun u hu => ⟨rfl, wakeFire_awake _ ?_⟩
    rw [hu.only .pilot rfl]
    exact hs
  · refine completes_imp (alarmFire_wakes hn hv hw hs hp) fun t w => ?_
    exact ⟨⟨w.fired, w.cause, w.sleep, w.waking, w.step, w.latched⟩, w.events⟩
  · have hc := exec_alarmFire hn hv
    rw [wakeFire_awake _ ((sleep_toTod ..).trans hs)] at hc
    exact completes_of_exec hc rfl
  · exact completes_of_exec (alarmFire_unset hv) rfl

end Sys2Proof.Machine
end

section
/-!
PROOF. The power-up sequence (R428, R429): its first steps, the field groups, the overlay training, and steps that are overdue.
-/

namespace Sys2Proof.Machine

open Sys2Proof

/-! ## The first steps -/

theorem upStep_one {s : State} (h1 : s.pilot.step = 1) (hs : s.power.standby = true) (hr : s.pilot.resetLow = false) :
    upStep s = some (enterStep 2 s) := by
  unfold upStep
  simp [h1, hs, hr]

theorem upStep_one_held {s : State} (h1 : s.pilot.step = 1) (hr : s.pilot.resetLow = true) : upStep s = none := by
  unfold upStep
  simp [h1, hr]

theorem upStep_two {s : State} (h2 : s.pilot.step = 2) : upStep s = some (enterStep 3 s) := by
  unfold upStep
  simp [h2]

theorem upStep_three_unlocked {s : State} (h3 : s.pilot.step = 3) (hl : linkLocked s = false) : upStep s = none := by
  unfold upStep
  simp [h3, hl]

/-- The sequence goes from step 1 to the timing link, where it waits (R428). -/
theorem advanceUp_to_link {s : State} (h1 : s.pilot.step = 1) (hs : s.power.standby = true) (hr : s.pilot.resetLow = false)
    (hl : linkLocked s = false) : advanceUp s = enterStep 3 (enterStep 2 s) := by
  unfold advanceUp
  rw [upLoop_next (upStep_one h1 hs hr), upLoop_next (upStep_two rfl)]
  exact upLoop_stop (upStep_three_unlocked rfl hl) (by decide +kernel : (3 : Nat) ≠ 6)

/-- The state in which the sequence begins: standby power, the Assay's volatile marks new, and a log entry (R349, R428). -/
def poweredUp (s : State) : State :=
  let v := { s.assay with led := .notYetRun, windowPulses := 0, windowDiag := 0, programming := false }
  let u := assayLog 0 0 0 { s with power := { s.power with standby := true }, assay := v }
  { u with pilot := { u.pilot with step := 1, trigger := now s, stepSince := now s } }

theorem exec_powerUp {s : State} (h : s.power.standby = false) : exec .powerUp s = .next (advanceUp (poweredUp s)) := by
  show execPowerUp s = _
  unfold execPowerUp
  rw [if_neg (by rw [h]; decide)]
  rfl

/-- What stands after the first rise of the HV (R428). -/
structure PoweredUp (s t : State) : Prop where
  power : t.power = { s.power with standby := true }
  pilot : t.pilot = { s.pilot with step := 1, trigger := now s, stepSince := now s }
  log : s.assay.log.length < 1024 → t.assay.log = s.assay.log ++ [(0, now s, 0, 0)]
  events : t.events = s.events
  time : t.time = s.time

theorem poweredUp_powers (s : State) : PoweredUp s (poweredUp s) := by
  have logged (u : State) (h : u.assay.log.length < 1024) : (assayLog 0 0 0 u).assay.log = u.assay.log ++ [(0, now u, 0, 0)] :=
    congrArg AssayS.log (assayLog_with_room h)
  have only (u : State) : Only [.assay] u (assayLog 0 0 0 u) := (assayLog_keeps 0 0 0 u).only
  unfold poweredUp
  dsimp only
  generalize hu : { s with
    power := { s.power with standby := true }
    assay := { s.assay with led := .notYetRun, windowPulses := 0, windowDiag := 0, programming := false } } = u
  have power : (assayLog 0 0 0 u).power = { s.power with standby := true } := by rw [only u .power rfl, ← hu]
  have pilot : (assayLog 0 0 0 u).pilot = s.pilot := by rw [only u .pilot rfl, ← hu]
  have events : (assayLog 0 0 0 u).events = s.events := by rw [only u .events rfl, ← hu]
  have time : (assayLog 0 0 0 u).time = s.time := by rw [only u .time rfl, ← hu]
  have log (h : s.assay.log.length < 1024) : (assayLog 0 0 0 u).assay.log = s.assay.log ++ [(0, now s, 0, 0)] := by
    have clock : now u = now s := now_congr (by rw [← hu])
    have before : u.assay.log = s.assay.log := by rw [← hu]
    rw [logged u (by rw [before]; exact h), before, clock]
  generalize assayLog 0 0 0 u = w at power pilot events time log
  exact ⟨power, by rw [← pilot], log, events, time⟩

theorem powerUp_held {s : State} (h : s.power.standby = false) (hlog : s.assay.log.length < 1024) (hr : s.pilot.resetLow = true) :
    Completes .powerUp s (fun t =>
      t.power = { s.power with standby := true } ∧ t.pilot = { s.pilot with step := 1, trigger := now s, stepSince := now s } ∧
      t.assay.log = s.assay.log ++ [(0, now s, 0, 0)] ∧ t.events = s.events) := by
  have hc := exec_powerUp h
  have up := poweredUp_powers s
  generalize poweredUp s = u at hc up
  have step : u.pilot.step = 1 := by rw [up.pilot]
  have held : u.pilot.resetLow = true := by rw [up.pilot]; exact hr
  rw [advanceUp_idle (upStep_one_held step held) (by rw [step]; decide)] at hc
  exact completes_of_exec hc ⟨up.power, up.pilot, up.log hlog, up.events⟩

theorem powerUp_to_link {s : State} (h : s.power.standby = false) (hr : s.pilot.resetLow = false) (hl : linkLocked s = false) :
    Completes .powerUp s (fun t =>
      t.power = { s.power with standby := true } ∧ t.pilot.step = 3 ∧ t.pilot.trigger = now s ∧ t.events = s.events) := by
  have hc := exec_powerUp h
  have up := poweredUp_powers s
  generalize poweredUp s = u at hc up
  have unlocked : linkLocked u = false := by
    unfold linkLocked
    rw [up.time]
    exact hl
  rw [advanceUp_to_link (by rw [up.pilot]) (by rw [up.power]) (by rw [up.pilot]; exact hr) unlocked] at hc
  refine completes_of_exec hc ⟨up.power, rfl, ?_, up.events⟩
  have trigger : u.pilot.trigger = now s := by rw [up.pilot]
  exact trigger

/-- RESET_N is released (R428). -/
def resetReleased (s : State) : State := { s with pilot := { s.pilot with resetLow := false } }

theorem exec_resetNRelease (s : State) : exec .resetNRelease s = .next (advanceUp (resetReleased s)) := rfl

theorem resetNRelease_to_link {s : State} (h1 : s.pilot.step = 1) (hs : s.power.standby = true) (hl : linkLocked s = false) :
    Completes .resetNRelease s (fun t => t.pilot.step = 3 ∧ t.pilot.resetLow = false ∧ t.events = s.events) := by
  have hc := exec_resetNRelease s
  rw [advanceUp_to_link (s := resetReleased s) h1 hs rfl hl] at hc
  exact completes_of_exec hc ⟨rfl, rfl, rfl⟩

theorem resetNRelease_up {s : State} (h : s.pilot.step = 12) :
    Completes .resetNRelease s (fun t => t.pilot = { s.pilot with resetLow := false }) := by
  have hc := exec_resetNRelease s
  rw [advanceUp_up (s := resetReleased s) h] at hc
  exact completes_of_exec hc rfl

/-! ## Powered fields -/

/-- A fold that meets a member once: what holds before it, what the member makes of it, and what the others keep. -/
theorem foldl_at {step : State → Nat → State} {l : List Nat} {i : Nat} {P Q : State → Prop} {s : State} (hi : i ∈ l) (hl : l.Nodup)
    (hs : P s) (before : ∀ t j, j ≠ i → P t → P (step t j)) (at' : ∀ t, P t → Q (step t i))
    (after : ∀ t j, j ≠ i → Q t → Q (step t j)) : Q (l.foldl step s) := by
  have keep (R : State → Prop) (hR : ∀ t j, j ≠ i → R t → R (step t j)) (m : List Nat) (hm : i ∉ m) (t : State) (ht : R t) :
      R (m.foldl step t) := by
    induction m generalizing t with
    | nil => exact ht
    | cons j m ih =>
      obtain ⟨hj, hm⟩ := not_or.mp (fun h => hm (List.mem_cons.mpr h))
      exact ih hm _ (hR t j (Ne.symm hj) ht)
  obtain ⟨pre, post, rfl⟩ := List.append_of_mem hi
  obtain ⟨-, hpost, apart⟩ := List.nodup_append.mp hl
  have hpre : i ∉ pre := fun h => apart i h i List.mem_cons_self rfl
  rw [List.foldl_append, List.foldl_cons]
  exact keep Q after post (List.nodup_cons.mp hpost).1 _ (at' _ (keep P before pre hpre s hs))

theorem foldl_kept {step : State → Nat → State} {l : List Nat} {P : State → Prop} {s : State} (hs : P s)
    (h : ∀ t, ∀ j ∈ l, P t → P (step t j)) : P (l.foldl step s) := by
  induction l generalizing s with
  | nil => exact hs
  | cons j l ih => exact ih (h s j List.mem_cons_self hs) fun t i hi => h t i (List.mem_cons_of_mem _ hi)

/-- The target of a field reads its steps, its failed sensors and the settings (R301, R335). -/
theorem effectiveTarget_field {s t : State} {f : Nat} (hr : t.regs = s.regs) (hf : (getFld t f).failedSensors = (getFld s f).failedSensors)
    (ht : (getFld t f).tSteps = (getFld s f).tSteps) (he : (getFld t f).eSteps = (getFld s f).eSteps) :
    effectiveTarget t f = effectiveTarget s f := by
  unfold effectiveTarget failedCount fieldSteps
  rw [setting_congr hr, hf, ht, he]

/-- A field whose supply has been switched on (R316, R317). -/
def FieldOn (s t : State) (f : Nat) : Prop :=
  getFld t f = { getFld s f with powered := true, good := false, setPoint := (getFld t f).setPoint
                                 supplyCode := max (getFld s f).supplyCode (effectiveTarget s f) }

theorem getFld_fieldOn_other {f x : Nat} (h : x ≠ f) (s : State) : getFld (fieldOn f s) x = getFld s x := by
  unfold fieldOn regulate
  dsimp only
  split
  · rw [getFld_modFld, if_neg h, getFld_modFld, if_neg h]
  · rw [getFld_modFld, if_neg h]

theorem fieldOn_powers (f : Nat) (s : State) : FieldOn s (fieldOn f s) f := by
  have target : effectiveTarget (modFld f (fun x => { x with powered := true, good := false }) s) f = effectiveTarget s f :=
    effectiveTarget_field rfl (by rw [getFld_modFld, if_pos rfl]) (by rw [getFld_modFld, if_pos rfl]) (by rw [getFld_modFld, if_pos rfl])
  have code : (getFld (modFld f (fun x => { x with powered := true, good := false }) s) f).supplyCode = (getFld s f).supplyCode := by
    rw [getFld_modFld, if_pos rfl]
  unfold FieldOn fieldOn regulate
  dsimp only
  rw [target, code]
  split
  · next h =>
    have up : (getFld s f).supplyCode < effectiveTarget s f := h.resolve_right (fun hn => absurd hn.2 (by decide))
    rw [getFld_modFld, if_pos rfl, getFld_modFld, if_pos rfl, Nat.max_eq_right (Nat.le_of_lt up)]
  · next h =>
    have still : effectiveTarget s f ≤ (getFld s f).supplyCode := Nat.not_lt.mp (fun hn => h (.inl hn))
    rw [getFld_modFld, if_pos rfl, Nat.max_eq_left still]

/-- The step of FIELD_GROUP_POWER for one field (R428). -/
def groupField (g : Nat) (s : State) (i : Nat) : State :=
  if (getFld s (g * 8 + i)).fault ∨ (getClk s (g * 8 + i)).st = .failed then s else fieldOn (g * 8 + i) s

/-- The step of the last group's second try for one field (R305). -/
def retryField (s : State) (f : Nat) : State :=
  if (getClk s f).failures = 1 ∧ (getClk s f).st = .off ∧ !(getFld s f).powered ∧ !(getFld s f).fault ∧ s.pilot.groups = 7 then fieldOn f s
  else s

theorem groupField_only (g : Nat) (s : State) (i : Nat) : Keeps [.fld] s (groupField g s i) := by
  unfold groupField
  split
  · exact Keeps.refl _ s
  · exact fieldOn_keeps ..

theorem retryField_only (s : State) (f : Nat) : Keeps [.fld] s (retryField s f) := by
  unfold retryField
  split
  · exact fieldOn_keeps ..
  · exact Keeps.refl _ s

theorem getFld_groupField_other {g i f : Nat} (h : f ≠ g * 8 + i) (s : State) : getFld (groupField g s i) f = getFld s f := by
  unfold groupField
  split
  · rfl
  · exact getFld_fieldOn_other h s

theorem getFld_retryField_other {f x : Nat} (h : x ≠ f) (s : State) : getFld (retryField s f) x = getFld s x := by
  unfold retryField
  split
  · exact getFld_fieldOn_other h s
  · rfl

/-- A state that differs in the fields alone, and not in one of them. -/
def SameField (s : State) (f : Nat) (t : State) : Prop := Only [.fld] s t ∧ getFld t f = getFld s f

/-- A state that differs in the fields alone, one of which has been switched on. -/
def OnlyOn (s : State) (f : Nat) (t : State) : Prop := Only [.fld] s t ∧ FieldOn s t f

theorem sameField_refl (s : State) (f : Nat) : SameField s f s := ⟨(Keeps.refl [.fld] s).only, rfl⟩

theorem onlyOn_kept {s t u : State} {f : Nat} (h : OnlyOn s f t) (only : Only [.fld] t u) (hf : getFld u f = getFld t f) : OnlyOn s f u := by
  refine ⟨h.1.trans only, ?_⟩
  unfold FieldOn
  rw [hf]
  exact h.2

theorem onlyOn_fieldOn {s t : State} {f : Nat} (h : SameField s f t) : OnlyOn s f (fieldOn f t) := by
  obtain ⟨only, same⟩ := h
  refine ⟨only.trans (fieldOn_keeps ..).only, ?_⟩
  have on := fieldOn_powers f t
  unfold FieldOn at *
  rw [same, effectiveTarget_field (s := s) (only .regs rfl) (by rw [same]) (by rw [same]) (by rw [same])] at on
  exact on

/-- The fields of a group after the eight steps (R428). -/
theorem group_powers {g f : Nat} {s : State} (hg : f / 8 = g) (hfault : (getFld s f).fault = false) (hst : (getClk s f).st ≠ .failed) :
    OnlyOn s f ((List.range 8).foldl (groupField g) s) := by
  have place : f = g * 8 + f % 8 := by omega
  refine foldl_at (i := f % 8) (P := SameField s f) (List.mem_range.mpr (Nat.mod_lt _ (by decide))) List.nodup_range (sameField_refl s f)
    (fun t j hj h => ⟨h.1.trans (groupField_only ..).only, ?_⟩) (fun t h => ?_) (fun t j hj h => ?_)
  · exact (getFld_groupField_other (by omega) t).trans h.2
  · have fault : (getFld t f).fault = false := by rw [h.2]; exact hfault
    have st : (getClk t f).st ≠ .failed := by rw [getClk_congr (h.1 .clk rfl)]; exact hst
    unfold groupField
    rw [← place, if_neg (by rw [fault]; simp [st])]
    exact onlyOn_fieldOn h
  · exact onlyOn_kept h (groupField_only ..).only (getFld_groupField_other (by omega) t)

theorem group_leaves {g f : Nat} {s : State} (h : f / 8 ≠ g ∨ (getFld s f).fault = true ∨ (getClk s f).st = .failed) :
    SameField s f ((List.range 8).foldl (groupField g) s) := by
  refine foldl_kept (sameField_refl s f) fun t j hj ht => ⟨ht.1.trans (groupField_only ..).only, ?_⟩
  have hj8 := List.mem_range.mp hj
  by_cases hf : f = g * 8 + j
  · have bad : (getFld t f).fault = true ∨ (getClk t f).st = .failed := by
      rw [ht.2, getClk_congr (ht.1 .clk rfl)]
      exact h.resolve_left (fun hn => hn (by omega))
    unfold groupField
    rw [← hf, if_pos bad]
    exact ht.2
  · exact (getFld_groupField_other hf t).trans ht.2

/-! ## The second try of the last group -/

theorem retryFields_foldl (s : State) : retryFields s = (List.range 56).foldl retryField s := rfl

theorem retryFields_only (s : State) : Only [.fld] s (retryFields s) := by
  rw [retryFields_foldl]
  exact (Keeps.foldl (Keeps.refl [.fld] s) fun t f h => h.trans (retryField_only t f)).only

/-- A field that has power, a fault or a loop that is not off is not tried again (R305). -/
theorem retryField_skips {s : State} {f : Nat} (h : (getFld s f).powered = true ∨ (getFld s f).fault = true ∨ (getClk s f).st ≠ .off) :
    retryField s f = s := by
  unfold retryField
  refine if_neg ?_
  rintro ⟨-, hst, hp, hfault, -⟩
  obtain h | h | h := h
  · simp [h] at hp
  · simp [h] at hfault
  · exact h hst

theorem retryFields_leaves {s : State} {f : Nat} (h : (getFld s f).powered = true ∨ (getFld s f).fault = true ∨ (getClk s f).st ≠ .off) :
    getFld (retryFields s) f = getFld s f := by
  have kept : SameField s f (retryFields s) := by
    rw [retryFields_foldl]
    refine foldl_kept (sameField_refl s f) fun t j _ ht => ⟨ht.1.trans (retryField_only ..).only, ?_⟩
    by_cases hj : f = j
    · subst hj
      rw [retryField_skips (by rw [ht.2, getClk_congr (ht.1 .clk rfl)]; exact h)]
      exact ht.2
    · exact (getFld_retryField_other hj t).trans ht.2
  exact kept.2

theorem retryFields_tries {s : State} {f : Nat} (hf : f < 56) (hg : s.pilot.groups = 7) (hn : (getClk s f).failures = 1)
    (hst : (getClk s f).st = .off) (hp : (getFld s f).powered = false) (hfault : (getFld s f).fault = false) :
    (getFld (retryFields s) f).powered = true := by
  have tried : OnlyOn s f (retryFields s) := by
    rw [retryFields_foldl]
    refine foldl_at (i := f) (P := SameField s f) (List.mem_range.mpr hf) List.nodup_range (sameField_refl s f)
      (fun t j hj h => ⟨h.1.trans (retryField_only ..).only, ?_⟩) (fun t h => ?_) (fun t j hj h => ?_)
    · exact (getFld_retryField_other hj.symm t).trans h.2
    · have pilot : t.pilot.groups = 7 := by rw [h.1 .pilot rfl]; exact hg
      unfold retryField
      rw [h.2, getClk_congr (h.1 .clk rfl), pilot, if_pos ⟨hn, hst, by simp [hp], by simp [hfault], rfl⟩]
      exact onlyOn_fieldOn h
    · exact onlyOn_kept h (retryField_only ..).only (getFld_retryField_other hj.symm t)
  rw [tried.2]

/-! ## Field groups -/

/-- A group's fields are powered and the group is counted (R428). -/
def groupPowered (g : Nat) (s : State) : State :=
  let u := (List.range 8).foldl (groupField g) s
  { u with pilot := { u.pilot with groups := g + 1 } }

theorem exec_fieldGroupPower {g : Nat} {s : State} (hg : g < 7) (h7 : s.pilot.step = 7) (hgroups : s.pilot.groups = g) :
    exec (.fieldGroupPower g) s = .next (advanceUp (if g = 6 then retryFields (groupPowered g s) else groupPowered g s)) := by
  show execFieldGroupPower g s = _
  unfold execFieldGroupPower
  rw [if_pos ⟨h7, hgroups.symm, hg⟩]
  unfold groupPowered groupField
  generalize List.range 8 = l
  rfl

theorem groupPowered_field (g f : Nat) (s : State) : getFld (groupPowered g s) f = getFld ((List.range 8).foldl (groupField g) s) f := by
  unfold groupPowered
  generalize (List.range 8).foldl (groupField g) s = u
  rfl

theorem groupPowered_only (g : Nat) (s : State) : Only [.fld, .pilot] s (groupPowered g s) := by
  have kept : Keeps [.fld] s ((List.range 8).foldl (groupField g) s) :=
    Keeps.foldl (Keeps.refl [.fld] s) fun t i h => h.trans (groupField_only g t i)
  unfold groupPowered
  generalize (List.range 8).foldl (groupField g) s = u at kept
  have counted : Only [.pilot] u { u with pilot := { u.pilot with groups := g + 1 } } := by
    intro r hr
    cases r <;> first | rfl | exact absurd hr (by decide)
  exact (kept.only.mono rfl).trans (counted.mono rfl)

theorem groupPowered_pilot (g : Nat) (s : State) : (groupPowered g s).pilot = { s.pilot with groups := g + 1 } := by
  have kept : Keeps [.fld] s ((List.range 8).foldl (groupField g) s) :=
    Keeps.foldl (Keeps.refl [.fld] s) fun t i h => h.trans (groupField_only g t i)
  have pilot := kept.only .pilot rfl
  unfold groupPowered
  generalize (List.range 8).foldl (groupField g) s = u at pilot
  dsimp only
  rw [pilot]

/-- At step 7 the sequence stands, or enters step 8 once every field is settled (R428). -/
theorem advanceUp_seven {s : State} (h7 : s.pilot.step = 7) :
    (advanceUp s).pilot.groups = s.pilot.groups ∧ ∀ f, getFld (advanceUp s) f = getFld s f := by
  cases h : upStep s with
  | none =>
    rw [advanceUp_idle h (by rw [h7]; decide)]
    exact ⟨rfl, fun _ => rfl⟩
  | some t =>
    have next : t = enterStep 8 s := by
      unfold upStep at h
      simp only [h7] at h
      split at h
      · exact (Option.some.inj h).symm
      · exact absurd h nofun
    have stands : upStep t = none := by
      rw [next]
      unfold upStep
      simp [enterStep]
    rw [advanceUp_once h stands (by rw [next]; exact (by decide +kernel : (8 : Nat) ≠ 6)), next]
    exact ⟨rfl, fun _ => rfl⟩

/-- What a group's power leaves of its fields, of those without power and of the second try (R305, R428). -/
structure GroupUp (g : Nat) (s t : State) : Prop where
  groups : t.pilot.groups = g + 1
  on : ∀ f, f / 8 = g → (getFld s f).fault = false → (getClk s f).st ≠ .failed → FieldOn s t f
  bad : ∀ f, f / 8 = g → (getFld s f).fault = true ∨ (getClk s f).st = .failed → getFld t f = getFld s f
  rest : g < 6 → t.pilot.step = 7 ∧ ∀ f, f / 8 ≠ g → getFld t f = getFld s f
  tried : g = 6 → ∀ f, f < 48 → (getClk s f).failures = 1 → (getClk s f).st = .off → (getFld s f).powered = false →
    (getFld s f).fault = false → (getFld t f).powered = true

theorem fieldGroupPower_early {g : Nat} {s : State} (hg : g < 6) (h7 : s.pilot.step = 7) (hgroups : s.pilot.groups = g) :
    Completes (.fieldGroupPower g) s (GroupUp g s) := by
  have hc := exec_fieldGroupPower (Nat.lt_succ_of_lt hg) h7 hgroups
  have pilot := groupPowered_pilot g s
  have stands : upStep (groupPowered g s) = none :=
    upStep_seven (by rw [pilot]; exact h7) (by rw [pilot]; exact (by omega : g + 1 ≠ 7))
  rw [if_neg (Nat.ne_of_lt hg), advanceUp_idle stands (by rw [pilot]; rw [h7]; decide)] at hc
  refine completes_of_exec hc
    { groups := by rw [pilot], on := fun f hf hfault hst => ?_, bad := fun f hf hb => ?_, rest := fun _ => ⟨by rw [pilot]; exact h7, fun f hf => ?_⟩,
      tried := fun h => absurd h (Nat.ne_of_lt hg) }
  · have on := (group_powers hf hfault hst).2
    unfold FieldOn at *
    rw [groupPowered_field]
    exact on
  · rw [groupPowered_field]
    exact (group_leaves (.inr hb)).2
  · rw [groupPowered_field]
    exact (group_leaves (.inl hf)).2

theorem fieldGroupPower_last {s : State} (h7 : s.pilot.step = 7) (hgroups : s.pilot.groups = 6) :
    Completes (.fieldGroupPower 6) s (GroupUp 6 s) := by
  have hc := exec_fieldGroupPower (by decide : 6 < 7) h7 hgroups
  rw [if_pos rfl] at hc
  have pilot := groupPowered_pilot 6 s
  have only := groupPowered_only 6 s
  have before (f : Nat) := groupPowered_field 6 f s
  generalize groupPowered 6 s = u at hc pilot only before
  have clk (f : Nat) : getClk u f = getClk s f := getClk_congr (only .clk rfl) f
  have later : (retryFields u).pilot = u.pilot := retryFields_only u .pilot rfl
  obtain ⟨groups, fields⟩ := advanceUp_seven (s := retryFields u) (by rw [later, pilot]; exact h7)
  refine completes_of_exec hc
    { groups := by rw [groups, later, pilot], on := fun f hf hfault hst => ?_, bad := fun f hf hb => ?_,
      rest := fun h => absurd h (by decide), tried := fun _ f hf hn hst hp hfault => ?_ }
  · have on := (group_powers hf hfault hst).2
    have powered : (getFld u f).powered = true := by rw [before, on]
    unfold FieldOn at *
    rw [fields, retryFields_leaves (.inl powered), before]
    exact on
  · have same : getFld u f = getFld s f := by rw [before]; exact (group_leaves (.inr hb)).2
    have skipped : (getFld u f).powered = true ∨ (getFld u f).fault = true ∨ (getClk u f).st ≠ .off := by
      rw [same, clk]
      obtain hb | hb := hb
      · exact .inr (.inl hb)
      · exact .inr (.inr (by rw [hb]; decide))
    rw [fields, retryFields_leaves skipped, same]
  · have same : getFld u f = getFld s f := by rw [before]; exact (group_leaves (.inl (by omega))).2
    rw [fields]
    exact retryFields_tries (by omega) (by rw [pilot]) (by rw [clk]; exact hn) (by rw [clk]; exact hst) (by rw [same]; exact hp)
      (by rw [same]; exact hfault)

theorem fieldGroupPower_powers {g : Nat} {s : State} (hg : g < 7) (h7 : s.pilot.step = 7) (hgroups : s.pilot.groups = g) :
    Completes (.fieldGroupPower g) s (GroupUp g s) := by
  by_cases h6 : g = 6
  · subst h6
    exact fieldGroupPower_last h7 hgroups
  · exact fieldGroupPower_early (by omega) h7 hgroups

end Sys2Proof.Machine
end

section
/-!
PROOF. The overlay training and overdue steps (R191, R428, R429): a wafer without stored partitions goes from step 8 to step 11 or 12.
-/

namespace Sys2Proof.Machine

open Sys2Proof

/-! ## A step without stored records -/

theorem applySites_empty {s : State} (h : s.settings.boot = []) : applySites s = s := by
  have emptied : { s.settings with boot := [] } = s.settings := by rw [← h]
  unfold applySites
  simp only [h, List.filter_nil, List.foldl_nil, emptied]

theorem settleRoutes_settled {n k : Nat} {s : State} (h : clusterOk (siteAbsent s) (clusterAt s k) = true) :
    settleRoutes (n + 1) k s = s := by
  rw [settleRoutes, if_pos h]

theorem settleRoutes_foldl {n : Nat} {l : List Nat} {s : State} (h : ∀ k ∈ l, clusterOk (siteAbsent s) (clusterAt s k) = true) :
    l.foldl (fun s k => settleRoutes (n + 1) k s) s = s := by
  induction l with
  | nil => rfl
  | cons k l ih =>
    rw [List.foldl_cons, settleRoutes_settled (h k List.mem_cons_self)]
    exact ih fun j hj => h j (List.mem_cons_of_mem _ hj)

/-- Writes into tiles, each by the state before it, leave the mesh as it is. -/
theorem modTiles_mesh (f : State → Nat → Tile → Tile) (ks : List Nat) (u : State) :
    (ks.foldl (fun s k => modTile k (f s k) s) u).mesh = u.mesh := by
  induction ks generalizing u with
  | nil => rfl
  | cons k ks ih => exact ih _

theorem writeDetours_sites (s : State) : (writeDetours s).mesh.sites = s.mesh.sites := by
  unfold writeDetours
  extract_lets ks u
  have mesh := modTiles_mesh (fun s k t => { t with detours := detourEntries (siteAbsent s) k }) ks (latchEdges u)
  exact (congrArg MeshS.sites mesh).trans (rfl : (latchEdges u).mesh.sites = s.mesh.sites)

/-- The routing made ready: the detours written and every store zero (R187, R428). -/
def routed (s : State) : State :=
  { writeDetours s with mem := [], ecc := [], mesh := { (writeDetours s).mesh with routingReady := true } }

theorem routesReady_settled {s : State} (hb : s.settings.boot = [])
    (h : ∀ k ∈ absentSites s, clusterOk (siteAbsent s) (clusterAt s k) = true) : routesReady s = routed s := by
  unfold routesReady
  rw [applySites_empty hb]
  dsimp only
  rw [settleRoutes_foldl h]
  rfl

theorem routed_only (s : State) : Only [.tiles, .mem, .ecc, .mesh] s (routed s) := by
  have written := (writeDetours_keeps s).only
  unfold routed
  generalize writeDetours s = u at written
  have ready : Only [.mem, .ecc, .mesh] u { u with mem := [], ecc := [], mesh := { u.mesh with routingReady := true } } := by
    intro r hr
    cases r <;> first | rfl | exact absurd hr (by decide)
  exact (written.mono rfl).trans (ready.mono rfl)

/-- The fields that a wafer reset frees before it creates its partitions again (R439). -/
theorem freedFields_keeps (l : List Nat) (s : State) :
    Keeps [.fld] s (l.foldl (fun s f => modFld f (fun x => { x with owner := .idle }) s) s) :=
  Keeps.foldl (Keeps.refl [.fld] s) fun t f h => h.trans (modFld_keeps f _ t)

/-- Without partitions and stored records nothing is created, and only the fields' owners are written (R428). -/
theorem partsBack_empty {s : State} (hp : s.parts = []) (hb : s.settings.boot = []) (hw : s.pilot.waferReset = none) :
    Only [.fld, .parts] s (partsBack s) := by
  have recreated : Only [.fld, .parts] s (recreateParts s) := by
    have cleared : Only [.parts] s { s with parts := [] } := by
      intro r hr
      cases r <;> first | rfl | exact absurd hr (by decide)
    unfold recreateParts
    rw [hp]
    generalize List.range 56 = l
    exact (cleared.mono rfl).trans ((freedFields_keeps l _).only.mono rfl)
  have restored (u : State) : restoreParts [] u = u := by
    have none' : (List.range 56).filter (fun p => ([] : List Nat).contains (p + 1) && (bootNum u 0x2401 (p + 1)).isSome) = [] :=
      List.filter_eq_nil_iff.mpr fun p _ => by simp
    unfold restoreParts
    rw [none']
    rfl
  have done (u : State) (hu : u.pilot.waferReset = none) : waferDone u = u := by
    unfold waferDone
    rw [hu]
  have ids : (s.settings.boot.map (fun r => r.key % 256)).eraseDups = [] := by rw [hb]; rfl
  unfold partsBack
  rw [ids]
  dsimp only
  rw [restored, done _ (by rw [recreated .pilot rfl]; exact hw)]
  exact recreated

/-! ## From step 8 on -/

/-- The state at step 10 of a wafer without partitions, and what the restoring of partitions makes of it (R428). -/
theorem partsBack_ten {s : State} (hp : s.parts = []) (hb : s.settings.boot = []) (hw : s.pilot.waferReset = none) :
    Only [.fld, .parts] (enterStep 10 (routed (enterStep 9 s))) (partsBack (enterStep 10 (routed (enterStep 9 s)))) := by
  have only := routed_only (enterStep 9 s)
  have parts : (routed (enterStep 9 s)).parts = [] := (only .parts rfl).trans hp
  have boot : (routed (enterStep 9 s)).settings.boot = [] := (congrArg SettingsS.boot (only .settings rfl)).trans hb
  have reset : (routed (enterStep 9 s)).pilot.waferReset = none := (congrArg PilotS.waferReset (only .pilot rfl)).trans hw
  generalize routed (enterStep 9 s) = u at parts boot reset
  exact partsBack_empty parts boot reset

/-- The state at step 11, before the ports are looked at (R428). -/
def atEleven (s : State) : State := enterStep 11 (partsBack (enterStep 10 (routed (enterStep 9 s))))

/-- What stands at step 11 (R428). -/
structure TrainedUp (s t : State) : Prop where
  mem : t.mem = []
  ecc : t.ecc = []
  ready : t.mesh.routingReady = true
  sites : t.mesh.sites = s.mesh.sites
  step : t.pilot.step = 11
  trigger : t.pilot.trigger = s.pilot.trigger
  recovering : t.pilot.recovering = s.pilot.recovering
  events : t.events = s.events
  time : t.time = s.time
  lease : t.lease = s.lease
  settled : portsSettled t = portsSettled s

theorem trainedUp_of {s u v : State} (hmem : u.mem = []) (hecc : u.ecc = []) (hready : u.mesh.routingReady = true)
    (hsites : u.mesh.sites = s.mesh.sites) (hpilot : u.pilot = (enterStep 9 s).pilot) (hu : Only [.tiles, .mem, .ecc, .mesh, .pilot] s u)
    (hv : Only [.fld, .parts] (enterStep 10 u) v) : TrainedUp s (enterStep 11 v) := by
  have only : Only [.fld, .parts, .tiles, .mem, .ecc, .mesh, .pilot] s (enterStep 11 v) :=
    (((hu.mono rfl).trans ((enterStep_keeps 10 u).only.mono rfl)).trans (hv.mono rfl)).trans ((enterStep_keeps 11 v).only.mono rfl)
  have settled : portsSettled (enterStep 11 v) = portsSettled s := by
    unfold portsSettled getPort
    rw [only .fabric rfl]
    simp only [setting_congr (only .regs rfl)]
  have mesh : v.mesh = u.mesh := hv .mesh rfl
  have pilot : v.pilot = (enterStep 10 u).pilot := hv .pilot rfl
  have trigger : v.pilot.trigger = s.pilot.trigger := by
    have early : u.pilot.trigger = s.pilot.trigger := by rw [hpilot]; rfl
    rw [pilot]
    exact early
  have recovering : v.pilot.recovering = s.pilot.recovering := by
    have early : u.pilot.recovering = s.pilot.recovering := by rw [hpilot]; rfl
    rw [pilot]
    exact early
  exact
    { mem := (hv .mem rfl : v.mem = u.mem).trans hmem
      ecc := (hv .ecc rfl : v.ecc = u.ecc).trans hecc
      ready := (congrArg MeshS.routingReady mesh).trans hready
      sites := (congrArg MeshS.sites mesh).trans hsites
      step := rfl
      trigger := trigger
      recovering := recovering
      events := only .events rfl
      time := only .time rfl
      lease := only .lease rfl
      settled := settled }

theorem atEleven_trained {s : State} (hp : s.parts = []) (hb : s.settings.boot = []) (hw : s.pilot.waferReset = none) :
    TrainedUp s (atEleven s) := by
  have sites : (routed (enterStep 9 s)).mesh.sites = s.mesh.sites := writeDetours_sites _
  have only := routed_only (enterStep 9 s)
  refine trainedUp_of rfl rfl rfl sites (only .pilot rfl) ?_ (partsBack_ten hp hb hw)
  exact ((enterStep_keeps 9 s).only.mono rfl).trans (only.mono rfl)

theorem upStep_nine {s : State} (h : s.pilot.step = 9) : upStep s = some (enterStep 10 (routesReady s)) := by
  unfold upStep
  simp only [h]

theorem upStep_ten {s : State} (h : s.pilot.step = 10) : upStep s = some (enterStep 11 (partsBack s)) := by
  unfold upStep
  simp only [h]

theorem upStep_eleven {s : State} (h : s.pilot.step = 11) : upStep s = if portsSettled s then some (upDone s) else none := by
  unfold upStep
  simp only [h]

/-- The wafer is up after a first power-up, with event 0x3C0 and the duration (R428, R446). -/
theorem upDone_first {s : State} (h : s.pilot.recovering = false) :
    (upDone s).pilot.step = 12 ∧ (upDone s).pilot.duration = (now s - s.pilot.trigger) / msT ∧
    (upDone s).events = (raise (evCtl 0x3C0 0 (activeCtl s) ((now s - s.pilot.trigger) / msT)) s).events ∧
    (upDone s).mem = s.mem ∧ (upDone s).ecc = s.ecc ∧ (upDone s).mesh = s.mesh := by
  unfold upDone
  generalize (now s - s.pilot.trigger) / msT = d
  have recovering : (enterStep 12 s).pilot.recovering = false := h
  have kept := (enterStep_keeps 12 s).only
  have step : (enterStep 12 s).pilot.step = 12 := rfl
  generalize enterStep 12 s = u at recovering kept step
  have active : activeCtl u = activeCtl s := by
    unfold activeCtl
    rw [kept .lease rfl]
  dsimp only
  rw [if_neg (by rw [recovering]; decide)]
  refine ⟨?_, ?_, ?_, ?_, ?_, ?_⟩
  · rw [raise_pilot]
    exact step
  · rw [raise_pilot]
  · rw [← active]
    exact raise_events _ (kept .events rfl)
  · rw [raise_mem]
    exact kept .mem rfl
  · rw [raise_ecc]
    exact kept .ecc rfl
  · rw [raise_mesh]
    exact kept .mesh rfl

/-- From step 9 the sequence comes to step 11, and to step 12 where the ports have settled (R428). -/
theorem advanceUp_nine {s : State} (hp : s.parts = []) (hb : s.settings.boot = []) (hw : s.pilot.waferReset = none)
    (h : ∀ k ∈ absentSites s, clusterOk (siteAbsent s) (clusterAt s k) = true) :
    advanceUp (enterStep 9 s) = if portsSettled s then upDone (atEleven s) else atEleven s := by
  have ready : routesReady (enterStep 9 s) = routed (enterStep 9 s) := routesReady_settled hb h
  have nine : upStep (enterStep 9 s) = some (enterStep 10 (routed (enterStep 9 s))) := by rw [upStep_nine rfl, ready]
  have ten : upStep (enterStep 10 (routed (enterStep 9 s))) = some (atEleven s) := upStep_ten rfl
  have trained := atEleven_trained hp hb hw
  have eleven := upStep_eleven trained.step
  unfold advanceUp
  rw [upLoop_next nine, upLoop_next ten]
  rw [trained.settled] at eleven
  generalize atEleven s = t at eleven trained
  split
  · next hs =>
    rw [if_pos hs] at eleven
    rw [upLoop_next eleven]
    have twelve : (upDone t).pilot.step = 12 := by
      unfold upDone
      dsimp only
      split
      · rfl
      · rw [raise_pilot]
        rfl
    refine upLoop_stop ?_ (by rw [twelve]; decide)
    unfold upStep
    simp only [twelve]
  · next hs =>
    rw [if_neg hs] at eleven
    exact upLoop_stop eleven (by rw [trained.step]; decide)

theorem exec_overlayTrainingComplete {s : State} (h8 : s.pilot.step = 8) (hb : s.settings.boot = []) :
    exec (.overlayTrainingComplete {}) s = .next (advanceUp (enterStep 9 s)) := by
  show execOverlayTrainingComplete {} s = _
  unfold execOverlayTrainingComplete
  dsimp only
  rw [if_pos h8, applySites_empty hb]
  rfl

theorem overlayTrainingComplete_trains {s : State} (h8 : s.pilot.step = 8) (hp : s.parts = []) (hb : s.settings.boot = [])
    (hw : s.pilot.waferReset = none) (hr : s.pilot.recovering = false)
    (h : ∀ k ∈ absentSites s, clusterOk (siteAbsent s) (clusterAt s k) = true) :
    Completes (.overlayTrainingComplete {}) s (fun t =>
      t.mem = [] ∧ t.ecc = [] ∧ t.mesh.routingReady = true ∧ t.mesh.sites = s.mesh.sites ∧
      (portsSettled s = false → t.pilot.step = 11 ∧ t.events = s.events) ∧
      (portsSettled s = true → t.pilot.step = 12 ∧ t.pilot.duration = (now s - s.pilot.trigger) / msT ∧
        Raised (evCtl 0x3C0 0 (activeCtl s) ((now s - s.pilot.trigger) / msT)) s t)) := by
  have hc := exec_overlayTrainingComplete h8 hb
  rw [advanceUp_nine hp hb hw h] at hc
  have trained := atEleven_trained hp hb hw
  generalize atEleven s = u at hc trained
  by_cases hs : portsSettled s = true
  · rw [if_pos hs] at hc
    obtain ⟨step, duration, events, mem, ecc, mesh⟩ := upDone_first (trained.recovering.trans hr)
    have clock : now u = now s := now_congr (by rw [trained.time])
    have active : activeCtl u = activeCtl s := by
      unfold activeCtl
      rw [trained.lease]
    rw [clock, trained.trigger] at duration
    rw [clock, trained.trigger, active] at events
    refine completes_of_exec hc ⟨mem.trans trained.mem, ecc.trans trained.ecc, by rw [mesh]; exact trained.ready,
      by rw [mesh]; exact trained.sites, fun hn => ?_, fun _ => ⟨step, duration, events.trans (raise_events _ trained.events)⟩⟩
    rw [hs] at hn
    exact absurd hn (by decide)
  · rw [if_neg hs] at hc
    exact completes_of_exec hc ⟨trained.mem, trained.ecc, trained.ready, trained.sites, fun _ => ⟨trained.step, trained.events⟩,
      fun hn => absurd hn hs⟩

theorem overlayTrainingComplete_retires {s : State} (h8 : s.pilot.step ≠ 8) {f : SiteFailures} {k : Nat}
    (hf : (f.overlays ++ f.routers).eraseDups = [k]) : Completes (.overlayTrainingComplete f) s (fun t => t = retire k s) := by
  have hc : exec (.overlayTrainingComplete f) s = .next (retire k s) := by
    show execOverlayTrainingComplete f s = _
    unfold execOverlayTrainingComplete
    dsimp only
    rw [if_neg h8, hf]
    rfl
  exact completes_of_exec hc rfl

/-! ## Overdue steps -/

/-- What an overdue step does at the time that it is overdue (R429). -/
def overdueAt (n : Nat) (s : State) : State :=
  if n ≤ 4 ∧ linkWait s = false then { s with pilot := { s.pilot with overdue := s.pilot.overdue ++ [(n, 0)] } }
  else raise (evCtl 0x3C1 1 (activeCtl s) n) s

theorem exec_powerUpStepOverdue {s : State} (h : 1 ≤ s.pilot.step ∧ s.pilot.step ≤ 11) :
    exec .powerUpStepOverdue s = .next (overdueAt s.pilot.step (advanceTo (s.pilot.stepSince + secT) s)) := by
  have under : ¬(s.pilot.step = 0 ∨ s.pilot.step ≥ 12) := by omega
  have hc : exec .powerUpStepOverdue s = .next (if s.pilot.step = 0 ∨ s.pilot.step ≥ 12 then s
      else overdueAt s.pilot.step (advanceTo (s.pilot.stepSince + secT) s)) := rfl
  rw [hc, if_neg under]

theorem advanceTo_linkWait (m : Nat) (s : State) : linkWait (advanceTo m s) = linkWait s := rfl

theorem overdueAt_noted {s : State} (m : Nat) (h4 : s.pilot.step ≤ 4) (hl : linkWait s = false) :
    (overdueAt s.pilot.step (advanceTo m s)).pilot.overdue = s.pilot.overdue ++ [(s.pilot.step, 0)] ∧
    (overdueAt s.pilot.step (advanceTo m s)).pilot.step = s.pilot.step ∧ m ≤ now (overdueAt s.pilot.step (advanceTo m s)) ∧
    (overdueAt s.pilot.step (advanceTo m s)).events = s.events := by
  have clock := (now_advanceTo m s).1
  unfold overdueAt
  rw [if_pos ⟨h4, (advanceTo_linkWait m s).trans hl⟩]
  exact ⟨rfl, rfl, clock, rfl⟩

theorem overdueAt_raises {s : State} (m : Nat) (h : ¬(s.pilot.step ≤ 4 ∧ linkWait s = false)) :
    (overdueAt s.pilot.step (advanceTo m s)).pilot.step = s.pilot.step ∧
    (overdueAt s.pilot.step (advanceTo m s)).pilot.overdue = s.pilot.overdue ∧ m ≤ now (overdueAt s.pilot.step (advanceTo m s)) ∧
    Raised (evCtl 0x3C1 1 (activeCtl s) s.pilot.step) s (overdueAt s.pilot.step (advanceTo m s)) := by
  have clock := (now_advanceTo m s).1
  unfold overdueAt
  rw [advanceTo_linkWait, if_neg h, activeCtl_advanceTo]
  refine ⟨?_, ?_, ?_, raise_events _ (advanceTo_events ..)⟩
  · rw [raise_pilot]
    rfl
  · rw [raise_pilot]
    rfl
  · rw [now_raise]
    exact clock

theorem powerUpStepOverdue_noted {s : State} (h1 : 1 ≤ s.pilot.step) (h4 : s.pilot.step ≤ 4) (hl : linkWait s = false) :
    Completes .powerUpStepOverdue s (fun t =>
      t.pilot.overdue = s.pilot.overdue ++ [(s.pilot.step, 0)] ∧ t.pilot.step = s.pilot.step ∧
      s.pilot.stepSince + secT ≤ now t ∧ t.events = s.events) :=
  completes_of_exec (exec_powerUpStepOverdue ⟨h1, h4.trans (by decide)⟩) (overdueAt_noted _ h4 hl)

theorem powerUpStepOverdue_raises {s : State} (h : (5 ≤ s.pilot.step ∧ s.pilot.step ≤ 11) ∨ linkWait s = true) :
    Completes .powerUpStepOverdue s (fun t =>
      t.pilot.step = s.pilot.step ∧ t.pilot.overdue = s.pilot.overdue ∧ s.pilot.stepSince + secT ≤ now t ∧
      Raised (evCtl 0x3C1 1 (activeCtl s) s.pilot.step) s t) := by
  have bounds : 1 ≤ s.pilot.step ∧ s.pilot.step ≤ 11 := by
    obtain ⟨h5, h11⟩ | hl := h
    · omega
    · unfold linkWait at hl
      simp only [Bool.and_eq_true, beq_iff_eq] at hl
      omega
  have raises : ¬(s.pilot.step ≤ 4 ∧ linkWait s = false) := by
    rintro ⟨h4, hl⟩
    obtain ⟨h5, -⟩ | ht := h
    · omega
    · rw [hl] at ht
      exact absurd ht (by decide)
  exact completes_of_exec (exec_powerUpStepOverdue bounds) (overdueAt_raises _ raises)

/-- Settles O35: each command moves the sequence by steps that have one lemma each, and a group's power is one fold over its fields. -/
theorem thePowerUpSequenceGoesOn : Obligations.ThePowerUpSequenceGoesOn := by
  unfold Obligations.ThePowerUpSequenceGoesOn
  intro s
  refine ⟨fun h hlog _ => ⟨powerUp_held h hlog, powerUp_to_link h⟩, fun h => ?_, resetNRelease_to_link, resetNRelease_up,
    fun g hg h7 hgroups => ?_, overlayTrainingComplete_trains, fun k h8 => ⟨?_, ?_⟩, powerUpStepOverdue_noted, powerUpStepOverdue_raises⟩
  · have hc : exec .powerUp s = .next s := by
      show execPowerUp s = _
      unfold execPowerUp
      rw [if_pos h]
    exact completes_of_exec hc rfl
  · exact completes_imp (fieldGroupPower_powers hg h7 hgroups) fun t up => ⟨up.groups, up.on, up.bad, up.rest, up.tried⟩
  · exact overlayTrainingComplete_retires h8 rfl
  · exact overlayTrainingComplete_retires h8 rfl

end Sys2Proof.Machine
end

section
/-!
PROOF. Field resets (R432): a reset of a field that failed to lock ends a running self-test on it, and the test's hold on the field with it.
-/

namespace Sys2Proof.Machine

open Sys2Proof

/-- A wafer whose field 0 failed to lock and is held by a running self-test of the whole wafer (R305, R444). -/
def failedUnderTest : State :=
  { State.reset with
    fld := [(0, { owner := .scrubbing })]
    clk := [(0, { st := .failed })]
    test := { st := 1, echo := 0x20000, held := [0] } }

/-- Object 0x2A20: the field reset, which a permit of the operator or the service begins (R446). -/
def fieldResetObj : Obj := ⟨0x2A20, 1, 56, 1, 1, .rwp, [.operator, .service], .field, 1, 1, none, true⟩

theorem grant_fieldReset : grant .operator 0x2A20 1 [1] failedUnderTest = noteWrite fieldResetObj 1 (fieldReset 0 failedUnderTest) := by
  have found : findObj 0x2A20 1 = some fieldResetObj := by decide +kernel
  have entry : entryMissing failedUnderTest fieldResetObj 1 = false := rfl
  have range : inRange failedUnderTest fieldResetObj 1 (leNat [1]) = true := rfl
  rw [grant_of_found found entry fun _ => range]
  rfl

/-- The reset ends the test, which gives the field back as idle (R433). -/
theorem fieldReset_frees : (getFld (fieldReset 0 failedUnderTest) 0).owner = .idle := rfl

theorem exec_fieldResetRequest (f : Nat) (s : State) : exec (.fieldResetRequest f) s = .next (grant .operator 0x2A20 (f + 1) [1] s) := rfl

/-- Refutes O37: a field that failed to lock does not stay as it is where a running self-test holds it, since the field reset ends the
test and frees the field (R433). -/
theorem not_fieldsAndPartitionsAreReset : ¬ Obligations.FieldsAndPartitionsAreReset := by
  unfold Obligations.FieldsAndPartitionsAreReset
  intro claim
  obtain ⟨failed, -⟩ := claim failedUnderTest
  obtain ⟨t, step, -, same, -⟩ := failed 0 (by decide) rfl rfl rfl rfl
  have reached : noteWrite fieldResetObj 1 (fieldReset 0 failedUnderTest) = t := by
    rw [exec_fieldResetRequest, grant_fieldReset] at step
    injection step
  have kept : (getFld t 0).owner = (getFld (fieldReset 0 failedUnderTest) 0).owner := by
    rw [← reached, getFld_congr ((noteWrite_keeps ..).only .fld rfl)]
  have scrubbing : (getFld t 0).owner = .scrubbing := congrArg FieldPwr.owner same
  rw [kept, fieldReset_frees] at scrubbing
  exact FieldOwner.noConfusion scrubbing

end Sys2Proof.Machine
end

section
/-!
PROOF. Self-tests (R441 to R446): a request is judged and starts, and a running test completes or meets its limit.
-/

namespace Sys2Proof.Machine

open Sys2Proof

/-! ## The refusal codes -/

theorem getPort_accepted {s u : State} (h : Accepted s u) (i : Nat) : (getPort u i).st = (getPort s i).st := congrArg Prod.fst (h.line i)

theorem partHeld_accepted {s u : State} (h : Accepted s u) (p : Nat) : partHeld u p = partHeld s p := by
  unfold partHeld
  rw [quiesced_accepted h, getPart_accepted h]

theorem testRefusal_accepted {s u : State} (h : Accepted s u) (own : Option Nat) (v : Nat) : testRefusal own v u = testRefusal own v s := by
  have test : u.test = s.test := h.only .test rfl
  have held : partHeld u = partHeld s := funext (partHeld_accepted h)
  have fld : getFld u = getFld s := funext (getFld_congr h.fld)
  have part : getPart u = getPart s := funext (getPart_accepted h)
  unfold testRefusal holder
  simp only [test, held, h.parts, part, getPort_accepted h, fld]

theorem testHeld_accepted {s u : State} (h : Accepted s u) (v : Nat) : testHeld v u = testHeld v s := by
  have fld : getFld u = getFld s := funext (getFld_congr h.fld)
  unfold testHeld
  rw [fld]

/-! ## A request -/

/-- The event of a self-test request, with the partition that it concerns (R444). -/
def testEvent (own : Option Nat) (v : Nat) (s : State) (code kind detail : Nat) : EvReq :=
  { evCtl code kind (activeCtl s) detail with part := if bitsOf v 23 16 = 0 then bitsOf v 15 8 else own.getD 0xFF }

/-- A started self-test (R444). -/
def testBegun (v : Nat) (s : State) : TestS :=
  { st := 1, code := 0, echo := BitVec.ofNat 32 (keptBits 0x2A10 1 v), failures := 0, first := 0, held := testHeld v s }

/-- The self-test after a request that is refused (R442, R446). -/
def testRefused (own : Option Nat) (v : Nat) (s : State) : TestS :=
  if s.test.st = 1 then { s.test with code := testRefusal own v s }
  else { s.test with st := 4, code := testRefusal own v s, echo := BitVec.ofNat 32 (keptBits 0x2A10 1 v), failures := 0, first := 0 }

theorem selfTestOp_of_free {own : Option Nat} {v : Nat} {s : State} (h : testRefusal own v s = 0) :
    selfTestOp own v s = (0, raise (testEvent own v s 0x3C9 0 (bitsOf v 31 24))
      { ownFields .scrubbing (testHeld v s) s with test := testBegun v s }) := by
  unfold selfTestOp
  extract_lets code part ev test held
  exact if_neg (not_not_intro h)

theorem selfTestOp_of_refusal {own : Option Nat} {v : Nat} {s : State} (h : testRefusal own v s ≠ 0) :
    selfTestOp own v s =
      (0x08000022, raise (testEvent own v s 0x3CA 2 (testRefusal own v s)) { s with test := testRefused own v s }) := by
  unfold selfTestOp
  extract_lets code part ev test held
  exact if_pos h

/-- What a started test leaves in r, where it began in s and u holds the events before it (R444). -/
structure TestStarted (own : Option Nat) (v : Nat) (s u r : State) : Prop where
  test : r.test = testBegun v s
  fields : ∀ f, getFld r f = if f ∈ testHeld v s then { getFld s f with owner := .scrubbing } else getFld s f
  events : r.events = (raise (testEvent own v s 0x3C9 0 (bitsOf v 31 24)) u).events

/-- What a refused request leaves in r, as TestStarted (R442). -/
structure TestKept (own : Option Nat) (v : Nat) (s u r : State) : Prop where
  test : r.test = testRefused own v s
  fields : ∀ f, getFld r f = getFld s f
  events : r.events = (raise (testEvent own v s 0x3CA 2 (testRefusal own v s)) u).events

theorem TestStarted.kept {own : Option Nat} {v : Nat} {s u r t : State} (h : TestStarted own v s u r) (ho : Only [.settings, .regs] r t) :
    TestStarted own v s u t where
  test := (ho .test rfl).trans h.test
  fields f := (getFld_congr (ho .fld rfl) f).trans (h.fields f)
  events := Eq.trans (ho .events rfl) h.events

theorem testEvent_congr {s t : State} (h : activeCtl t = activeCtl s) (own : Option Nat) (v code kind detail : Nat) :
    testEvent own v t code kind detail = testEvent own v s code kind detail := by
  unfold testEvent
  rw [h]

theorem selfTestOp_starts {own : Option Nat} {v : Nat} {s u : State} (hu : Accepted s u) (h : testRefusal own v s = 0) :
    (selfTestOp own v u).1 = 0 ∧ TestStarted own v s u (selfTestOp own v u).2 := by
  have free : testRefusal own v u = 0 := (testRefusal_accepted hu own v).trans h
  have owned := (ownFields_keeps .scrubbing (testHeld v u) u).only
  have fields := getFld_ownFields .scrubbing (testHeld v u) u
  rw [selfTestOp_of_free free]
  dsimp only
  rw [testEvent_congr (activeCtl_accepted hu)]
  generalize ownFields .scrubbing (testHeld v u) u = w at owned fields
  refine ⟨rfl, ?_, fun f => ?_, ?_⟩
  · rw [raise_test]
    unfold testBegun
    rw [testHeld_accepted hu]
  · rw [getFld_raise]
    refine (fields f).trans ?_
    rw [testHeld_accepted hu, getFld_congr hu.fld]
  · exact raise_events _ (owned .events rfl)

theorem selfTestOp_refuses {own : Option Nat} {v : Nat} {s u : State} (hu : Accepted s u) (h : testRefusal own v s ≠ 0) :
    (selfTestOp own v u).1 = 0x08000022 ∧ TestKept own v s u (selfTestOp own v u).2 := by
  have code : testRefusal own v u = testRefusal own v s := testRefusal_accepted hu own v
  rw [selfTestOp_of_refusal (by rw [code]; exact h), testEvent_congr (activeCtl_accepted hu), code]
  refine ⟨rfl, ?_, fun f => ?_, raise_events _ rfl⟩
  · rw [raise_test]
    unfold testRefused
    rw [code, hu.only .test rfl]
  · rw [getFld_raise]
    exact getFld_congr hu.fld f

/-- Object 0x2A10:01: a self-test request (R446). -/
def testObj : Obj := ⟨0x2A10, 1, 1, 4, 4, .wo, [.operator, .tenant], .single, 0, 4294967295, none, true⟩

theorem findObj_test : findObj 0x2A10 1 = some testObj := by decide +kernel

theorem ruleWrite_test (own : Option Nat) (v : Nat) (s : State) : ruleWrite own 0x2A10 1 v s = selfTestOp own v s := rfl

theorem writeObject_test (w : Asker) (sdo : Bool) (value : Word32) (s : State) :
    writeObject w sdo 0x2A10 1 (leBytes 4 value.toNat) s = ((selfTestOp w.own value.toNat s).1,
      if (selfTestOp w.own value.toNat s).1 = 0 then noteWrite testObj 1 (selfTestOp w.own value.toNat s).2
      else (selfTestOp w.own value.toNat s).2) := by
  have may : mayWrite w testObj 1 = true := by
    unfold mayWrite
    cases w.own <;> rfl
  have number : leNat (leBytes 4 value.toNat) = value.toNat := leNat_leBytes 4 value.toNat value.isLt
  have low : value.toNat ≤ 4294967295 := Nat.le_of_lt_succ value.isLt
  have range : inRange s testObj 1 value.toNat = true := by simp [inRange, testObj, low]
  have whole : ¬((leBytes 4 value.toNat).length ≠ testObj.len) := not_not_intro (length_leBytes ..)
  have named : testObj.index = 0x2A10 := rfl
  rw [writeObject_found findObj_test,
    writeFound_open (.inr rfl) may (entryMissing_of_not_part rfl ..) (firstKey_open findObj_test (.inr rfl) s), if_neg whole,
    if_neg (by decide), number, range, named, ruleWrite_test]
  rfl

theorem exec_selfTestRequest (via : Via) (value : Word32) (s : State) :
    exec (.selfTestRequest via value) s =
      .next (viaWrite (.selfTestRequest via value) via 0x2A10 1 (leBytes 4 value.toNat) s) := by
  have low : value.toNat < 256 ^ 4 := value.isLt
  show execSelfTestRequest via value s = _
  unfold execSelfTestRequest viaNum
  rw [if_pos low]

theorem selfTestRequest_judged {via : Via} {s : State} (hs : Served via s) (value : Word32) :
    Writes (.selfTestRequest via value) via s (fun u code r =>
      if testRefusal (writer via s).own value.toNat s = 0 then code = 0 ∧ TestStarted (writer via s).own value.toNat s u r
      else code = 0x08000022 ∧ TestKept (writer via s).own value.toNat s u r) := by
  refine writes_by_path (exec_selfTestRequest via value s) hs fun u hu => ?_
  rw [writeObject_test]
  by_cases h : testRefusal (writer via s).own value.toNat s = 0
  · obtain ⟨code, made⟩ := selfTestOp_starts hu h
    rw [if_pos h, if_pos code]
    exact ⟨code, made.kept ((noteWrite_keeps ..).only.mono rfl)⟩
  · obtain ⟨code, made⟩ := selfTestOp_refuses hu h
    rw [if_neg h, if_neg (by rw [code]; decide)]
    exact ⟨code, made⟩

/-! ## A request of the service -/

/-- Object 0x2A10:02: a self-test request of the service, by permit (R446). -/
def serviceTestObj : Obj := ⟨0x2A10, 2, 2, 4, 4, .rwp, [.service], .single, 0, 4294967295, none, true⟩

theorem permitted_test (bs : List Byte) (s : State) : permitted .service 0x2A10 2 bs s =
    ((selfTestOp none (leNat bs) s).1 == 0,
      if (selfTestOp none (leNat bs) s).1 = 0 then putNum 0x2A10 2 (leNat bs) (selfTestOp none (leNat bs) s).2
      else (selfTestOp none (leNat bs) s).2) := rfl

theorem exec_serviceSelfTestRequest (value : Word32) (s : State) :
    exec (.serviceSelfTestRequest value) s = .next (
      if (selfTestOp none value.toNat s).1 = 0 then
        noteWrite serviceTestObj 2 (putNum 0x2A10 2 value.toNat (selfTestOp none value.toNat s).2)
      else (selfTestOp none value.toNat s).2) := by
  have found : findObj 0x2A10 2 = some serviceTestObj := by decide +kernel
  have number : leNat (leBytes 4 value.toNat) = value.toNat := leNat_leBytes 4 value.toNat value.isLt
  have low : value.toNat ≤ 4294967295 := Nat.le_of_lt_succ value.isLt
  have range : inRange s serviceTestObj 2 (leNat (leBytes 4 value.toNat)) = true := by
    rw [number]
    simp [inRange, serviceTestObj, low]
  show Host.Outcome.next (grant .service 0x2A10 2 (leBytes 4 value.toNat) s) = _
  rw [grant_of_found found (entryMissing_of_not_part rfl ..) fun _ => range, permitted_test, number]
  by_cases h : (selfTestOp none value.toNat s).1 = 0
  · rw [if_pos h, if_pos h, h]
    rfl
  · rw [if_neg h, if_neg h, if_neg (by simpa using h)]

theorem serviceSelfTestRequest_judged (value : Word32) (s : State) :
    Completes (.serviceSelfTestRequest value) s (fun t =>
      if testRefusal none value.toNat s = 0 then TestStarted none value.toNat s s t else TestKept none value.toNat s s t) := by
  refine completes_of_exec (exec_serviceSelfTestRequest value s) ?_
  by_cases h : testRefusal none value.toNat s = 0
  · obtain ⟨code, made⟩ := selfTestOp_starts (.refl s) h
    rw [if_pos h, if_pos code]
    have put : Only [.regs] (selfTestOp none value.toNat s).2 (putNum 0x2A10 2 value.toNat (selfTestOp none value.toNat s).2) :=
      (setReg_keeps ..).only
    exact made.kept ((put.mono rfl).trans ((noteWrite_keeps ..).only.mono rfl))
  · obtain ⟨code, made⟩ := selfTestOp_refuses (.refl s) h
    rw [if_neg h, if_neg (by rw [code]; decide)]
    exact made

/-! ## The end of a test -/

/-- The partition that a running test's events name: its own, or none (R444). -/
def testPart (s : State) : Nat := if bitsOf s.test.echo.toNat 23 16 = 0 then bitsOf s.test.echo.toNat 15 8 else 0xFF

/-- A completed test's results (R444). -/
def testResult (failures : Nat) (first : CellRef) (v : TestS) : TestS :=
  { v with
    st := if failures = 0 then 2 else 3
    failures := failures
    first := if failures = 0 then 0 else BitVec.ofNat 64 (first.x * 2 ^ 48 + first.y * 2 ^ 32 + first.slot * 2 ^ 24)
    held := [] }

/-- The event of a completed test (R444). -/
def resultEvent (failures : Nat) (s : State) : EvReq :=
  { (if failures = 0 then evCtl 0x3CB 0 (activeCtl s) (bitsOf s.test.echo.toNat 31 24)
     else evCtl 0x3CC 1 (activeCtl s) failures : EvReq) with part := testPart s }

/-- The test's scope freed and its results written, before the event (R444). -/
def testEnded (failures : Nat) (first : CellRef) (s : State) : State :=
  { ownFields .idle (testStores s).test.held (testStores s) with
    test := testResult failures first (ownFields .idle (testStores s).test.held (testStores s)).test }

theorem exec_selfTestComplete {s : State} (h : s.test.st = 1) (failures : Nat) (first : CellRef) :
    exec (.selfTestComplete failures first) s = .next (raise
      { (if failures = 0 then evCtl 0x3CB 0 (activeCtl (testEnded failures first s)) (bitsOf s.test.echo.toNat 31 24)
         else evCtl 0x3CC 1 (activeCtl (testEnded failures first s)) failures : EvReq) with part := testPart s }
      (testEnded failures first s)) := by
  show execSelfTestComplete failures first s = _
  unfold execSelfTestComplete
  rw [if_neg (not_not_intro h)]
  rfl

/-- A test that does not read the stores corrects nothing: it touches no more than the stores' bytes (R443). -/
theorem testStores_only {s : State} (h : bitsOf s.test.echo.toNat 31 24 ≠ 1) : Only [.mem, .ecc] s (testStores s) := by
  unfold testStores
  split
  · next h1 => exact absurd h1 h
  · exact (zeroSites_keeps ..).only
  · exact (zeroSites_keeps ..).only
  · exact (Keeps.refl _ s).only

/-- A destructive test zeroes the stores of its scope (R441). -/
theorem testStores_zero {s : State} (h : bitsOf s.test.echo.toNat 31 24 = 5 ∨ bitsOf s.test.echo.toNat 31 24 = 6) {key : Nat}
    (hk : testCovers s (fieldOf (key / 0x400000)) = true) : readByte (testStores s) key = 0 := by
  have stores : testStores s = zeroSites (testSite s) s := by
    unfold testStores
    obtain h | h := h
    · rw [h]
      rfl
    · rw [h]
      rfl
  have absent : ∀ c ∈ (zeroSites (testSite s) s).mem, c.1 ≠ key := by
    rintro c hc rfl
    have kept := (List.mem_filter.mp hc).2
    unfold testSite at kept
    rw [hk] at kept
    exact absurd kept (by decide)
  rw [stores]
  exact cellGet_of_absent absent

/-- A test that has ended: its record, its freed fields, and its scope's stores (R441, R444). -/
structure TestOver (s : State) (test : TestS) (e : EvReq) (t : State) : Prop where
  test : t.test = test
  fields : ∀ f, getFld t f = if f ∈ s.test.held then { getFld s f with owner := .idle } else getFld s f
  stores : bitsOf s.test.echo.toNat 31 24 = 5 ∨ bitsOf s.test.echo.toNat 31 24 = 6 →
    ∀ key, testCovers s (fieldOf (key / 0x400000)) = true → readByte t key = 0
  event : Raised e s t

theorem selfTestComplete_ends {s : State} (h : s.test.st = 1) (hk : bitsOf s.test.echo.toNat 31 24 ≠ 1) (failures : Nat) (first : CellRef) :
    Completes (.selfTestComplete failures first) s (TestOver s (testResult failures first s.test) (resultEvent failures s)) := by
  have stored := testStores_only hk
  have owned := (ownFields_keeps .idle (testStores s).test.held (testStores s)).only
  have fields := getFld_ownFields .idle (testStores s).test.held (testStores s)
  have test : (testStores s).test = s.test := stored .test rfl
  have ended : activeCtl (testEnded failures first s) = activeCtl s := by
    unfold activeCtl testEnded
    rw [owned .lease rfl, stored .lease rfl]
  refine completes_of_exec (exec_selfTestComplete h failures first) ⟨?_, fun f => ?_, fun hd key hc => ?_, ?_⟩
  · rw [raise_test]
    unfold testEnded
    rw [owned .test rfl, test]
  · rw [getFld_raise]
    refine (fields f).trans ?_
    rw [test, getFld_congr (stored .fld rfl)]
  · have mem : (testEnded failures first s).mem = (testStores s).mem := owned .mem rfl
    unfold readByte
    rw [raise_mem, mem]
    exact testStores_zero hd hc
  · rw [ended]
    exact raise_events _ ((owned .events rfl : (testEnded failures first s).events = _).trans (stored .events rfl))

theorem endTest_running {s : State} (h : s.test.st = 1) (code : Nat) :
    endTest code s = raise (evCtl 0x3CD 1 (activeCtl s) code)
      { ownFields .idle s.test.held s with test := { s.test with st := 5, code := code, held := [] } } := by
  have owned := (ownFields_keeps .idle s.test.held s).only
  have same : activeCtl (ownFields .idle s.test.held s) = activeCtl s := by
    unfold activeCtl
    rw [owned .lease rfl]
  have running : endTest code s = raise (evCtl 0x3CD 1 (activeCtl (ownFields .idle s.test.held s)) code)
      { ownFields .idle s.test.held s with test := { (ownFields .idle s.test.held s).test with st := 5, code := code, held := [] } } :=
    if_neg (not_not_intro h)
  rw [running, same, owned .test rfl]

theorem selfTestLimit_ends {s : State} (h : s.test.st = 1) : Completes .selfTestLimitExpire s (fun t =>
    t.test = { s.test with st := 5, code := 0x69, held := [] } ∧
    (∀ f, getFld t f = if f ∈ s.test.held then { getFld s f with owner := .idle } else getFld s f) ∧
    Raised (evCtl 0x3CD 1 (activeCtl s) 0x69) s t) := by
  have hc : exec .selfTestLimitExpire s = .next (endTest 0x69 s) := rfl
  rw [endTest_running h] at hc
  refine completes_of_exec hc ⟨raise_test .., fun f => ?_, ?_⟩
  · rw [getFld_raise]
    exact getFld_ownFields .idle s.test.held s f
  · exact raise_events _ ((ownFields_keeps ..).only .events rfl)

theorem selfTest_over {s : State} (h : s.test.st ≠ 1) :
    Completes .selfTestLimitExpire s (fun t => t = s) ∧ ∀ n first, Completes (.selfTestComplete n first) s (fun t => t = s) := by
  refine ⟨completes_of_exec ?_ rfl, fun n first => completes_of_exec ?_ rfl⟩
  · show execSelfTestLimitExpire s = _
    unfold execSelfTestLimitExpire endTest
    rw [if_pos h]
  · show execSelfTestComplete n first s = _
    unfold execSelfTestComplete
    rw [if_pos h]

/-- Settles O38: a request is judged on the state that its path leaves, and a test's end frees the fields that it held. -/
theorem selfTestsAreJudgedRunAndEnded : Obligations.SelfTestsAreJudgedRunAndEnded := by
  unfold Obligations.SelfTestsAreJudgedRunAndEnded
  intro s scope started refused
  have begun {own : Option Nat} {v : Nat} {u r : State} (h : TestStarted own v s u r) : started own v u r :=
    ⟨h.test, h.fields, h.events⟩
  have kept {own : Option Nat} {v : Nat} {u r : State} (h : TestKept own v s u r) : refused own v u r :=
    ⟨h.test, h.fields, h.events⟩
  refine ⟨fun via value hs => ?_, fun value => ?_, fun h hk => ⟨fun first => ?_, fun n first hn => ?_, selfTestLimit_ends h⟩, selfTest_over⟩
  · obtain ⟨u, code, r, t, step, only, judged, answered⟩ := selfTestRequest_judged hs value
    refine ⟨u, code, r, t, step, only, ?_, answered⟩
    dsimp only
    split
    · next h =>
      rw [if_pos h] at judged
      exact judged.imp_right begun
    · next h =>
      rw [if_neg h] at judged
      exact judged.imp_right kept
  · refine completes_imp (serviceSelfTestRequest_judged value s) fun t judged => ?_
    split
    · next h =>
      rw [if_pos h] at judged
      exact begun judged
    · next h =>
      rw [if_neg h] at judged
      exact kept judged
  · exact completes_imp (selfTestComplete_ends h hk 0 first) fun t ended => ⟨ended.test, ⟨ended.fields, ended.stores⟩, ended.event⟩
  · refine completes_imp (selfTestComplete_ends h hk n first) fun t ended => ⟨?_, ⟨ended.fields, ended.stores⟩, ?_⟩
    · rw [ended.test]
      unfold testResult
      rw [if_neg (by omega), if_neg (by omega)]
    · have event := ended.event
      unfold resultEvent at event
      rw [if_neg (by omega)] at event
      exact event

end Sys2Proof.Machine
end

section
/-!
PROOF. The job of a partition (R141, R161, R171, R361, R362): it opens, starts, stops, and ends by an abort or a close.
-/

namespace Sys2Proof.Machine

open Sys2Proof

/-! ## The partition that a command names -/

theorem cmdPart_accepted {s u : State} (h : Accepted s u) (p : Pkt) (hdr : Hdr) : cmdPart u p hdr = cmdPart s p hdr := by
  unfold cmdPart
  rw [getPart_accepted h]

theorem jobPart_accepted {s u : State} (h : Accepted s u) (p : Pkt) (hdr : Hdr) : jobPart u p hdr = jobPart s p hdr := by
  unfold jobPart
  rw [cmdPart_accepted h]

theorem cmdPart_of_domain {p : Pkt} {h : Hdr} {s : State} {a : Part} (ha : getPart s h.part = some a) (hd : a.domain = p.domain) :
    cmdPart s p h = some a := by
  unfold cmdPart
  rw [ha]
  exact if_pos hd

theorem jobPart_of_job {p : Pkt} {h : Hdr} {s : State} {a : Part} {j : Job} (hc : Commands p h s a j) : jobPart s p h = some (a, j) := by
  obtain ⟨-, ha, hd, hj, hid⟩ := hc
  unfold jobPart
  rw [cmdPart_of_domain ha hd]
  dsimp only
  rw [hj]
  exact if_pos hid

theorem testHolds_accepted {s u : State} (h : Accepted s u) (p : Nat) : testHolds u p = testHolds s p := by
  unfold testHolds holder
  rw [h.only .test rfl, funext (getFld_congr h.fld)]

theorem tickStamp_accepted {s u : State} (h : Accepted s u) : tickStamp u = tickStamp s := by
  unfold tickStamp
  rw [h.only .time rfl]

theorem getPart_replyRun (p : Pkt) (h : Hdr) (status code number : Nat) (s : State) (x : Nat) :
    getPart (replyRun p h status code number s) x = getPart s x := getPart_congr ((sendPkt_keeps ..).only .parts rfl) x

/-- A delivered command acts on the accepted state (R260, R261). -/
theorem delivers_act {c : Instr} {p : Pkt} {act : State → State} {s : State} {q : State → State → Prop} (harr : Arrives p s)
    (hc : exec c s = .next (ingress p c act s)) (hq : ∀ u, Accepted s u → q u (act u)) : Delivers c s q :=
  delivers_of_ingress harr hc (fun _ ht => (exec_keeps _ ht).only) hq

/-! ## What messages leave of a partition -/

/-- A partition but its hang timer, which every message of its domain stops (R218). -/
def untimed (a : Part) : Part := { a with hangTimer := none }

/-- The partitions of two states differ in their hang timers only. -/
structure SameJobs (s t : State) : Prop where
  parts : ∀ p, (getPart t p).map untimed = (getPart s p).map untimed

namespace SameJobs

variable {s t u : State}

theorem refl (s : State) : SameJobs s s := ⟨fun _ => rfl⟩

theorem trans (a : SameJobs s t) (b : SameJobs t u) : SameJobs s u := ⟨fun p => (b.parts p).trans (a.parts p)⟩

theorem of_keeps {w : List Region} (h : Keeps w s t) (hw : (!w.contains .parts) = true := by rfl) : SameJobs s t :=
  ⟨fun p => by rw [getPart_congr (h.only .parts (by simpa using hw))]⟩

theorem foldl {α : Type} {g : State → α → State} (hg : ∀ s a, SameJobs s (g s a)) (l : List α) (s : State) : SameJobs s (l.foldl g s) := by
  induction l generalizing s with
  | nil => exact refl s
  | cons a l ih => exact (hg s a).trans (ih _)

theorem ite {c : Prop} [Decidable c] (a : SameJobs s t) (b : SameJobs s u) : SameJobs s (if c then t else u) := by
  split <;> assumption

theorem getPart_some (h : SameJobs s t) {p : Nat} {a : Part} (ha : getPart s p = some a) :
    ∃ b, getPart t p = some b ∧ untimed b = untimed a := by
  have kept := h.parts p
  rw [ha] at kept
  cases hb : getPart t p with
  | none => rw [hb] at kept; exact absurd kept (by simp)
  | some b =>
    rw [hb] at kept
    exact ⟨b, rfl, Option.some.inj kept⟩

end SameJobs

theorem sameJobs_noteTraffic (domain : Nat) (s : State) : SameJobs s (noteTraffic domain s) := by
  unfold noteTraffic
  split
  · next q _ =>
    refine ⟨fun p => ?_⟩
    rw [getPart_modPart]
    split
    · next hp =>
      subst hp
      cases getPart s p <;> rfl
    · rfl
  · exact .refl s

theorem sameJobs_send (m : MeshMsg) (s : State) : SameJobs s (send m s) := by
  have counted : (if !m.control && m.head.src.x == 0x1FF then ringCount (domainAccount s m.head.domain) 1 s else s).parts = s.parts := by
    split <;> rfl
  unfold send
  extract_lets u
  have put : SameJobs s { u with mesh := { u.mesh with flight := u.mesh.flight ++ [m] } } := ⟨fun p => congrArg (Option.map untimed) (getPart_congr counted p)⟩
  exact put.trans (sameJobs_noteTraffic ..)

theorem sameJobs_sendSection (domain k code : Nat) (s : State) : SameJobs s (sendSection domain k code s) := sameJobs_send ..

/-! ## The end of a job -/

/-- A closed job leaves its partition's record without job, runs and sections (R171). -/
theorem closeJob_ended {p : Nat} {s : State} {a : Part} (ha : getPart s p = some a) (hj : a.job.isSome = true) :
    ∃ b, getPart (closeJob p s) p = some (jobEnded b) := by
  obtain ⟨u, calm, closed⟩ := closeJob_of_job ha hj
  obtain ⟨b, hb, -⟩ := calm.getPart_some ha
  refine ⟨b, ?_⟩
  rw [closed, getPart_modPart, if_pos rfl, hb]
  rfl

/-- What an abort sends before the partition's job closes (R161). -/
theorem abortRun_closes {p code : Nat} {s : State} {a : Part} (ha : getPart s p = some a) (hj : a.job.isSome = true) :
    ∃ u, SameJobs s u ∧ abortRun p code s = closeJob p (modPart p (fun a => { a with current := none, queue := [] }) u) := by
  have running : ¬a.job.isNone = true := by cases h : a.job <;> simp_all
  unfold abortRun
  rw [ha]
  dsimp only
  rw [if_neg running]
  refine ⟨_, ?_, rfl⟩
  refine SameJobs.trans (SameJobs.trans (SameJobs.trans ?_ (SameJobs.foldl (fun s r => .of_keeps (runNotify_keeps ..)) _ _))
    (SameJobs.foldl (fun s k => ?_) _ _)) (SameJobs.ite (.refl _) (.of_keeps (spreadAbort_keeps ..)))
  · split
    · exact .of_keeps (runNotify_keeps ..)
    · exact .refl s
  · exact (SameJobs.of_keeps (modTile_keeps ..)).trans (sameJobs_sendSection ..)

theorem abortRun_ended {p code : Nat} {s : State} {a : Part} (ha : getPart s p = some a) (hj : a.job.isSome = true) :
    ∃ b, getPart (abortRun p code s) p = some (jobEnded b) := by
  obtain ⟨u, same, closed⟩ := abortRun_closes (code := code) ha hj
  obtain ⟨b, hb, hab⟩ := same.getPart_some ha
  have job : b.job = a.job := (congrArg Part.job hab : (untimed b).job = (untimed a).job)
  rw [closed]
  refine closeJob_ended (a := { b with current := none, queue := [] }) ?_ (by rw [job]; exact hj)
  rw [getPart_modPart, if_pos rfl, hb]
  rfl

/-! ## The commands -/

section
variable {p : Pkt} {h : Hdr} {s : State}

theorem jobOpen_refused {a : Part} (harr : Arrives p s) (hc : cmdPart s p h = some a)
    (hr : a.job.isSome = true ∨ a.pstate ≠ .ready ∨ testHolds s h.part = true) (group : BitVec 32) (notify : Nat) :
    Delivers (.jobOpen p h group notify) s (fun u v => v = replyRun p h 2 0 0 u) := by
  refine delivers_act harr rfl fun u hu => ?_
  rw [cmdPart_accepted hu, hc]
  dsimp only
  rw [testHolds_accepted hu, if_pos hr]
  rfl

/-- The record of a partition whose job has just been opened (R141). -/
def jobOpened (j : Job) (a : Part) : Part :=
  { a with job := some j, pstate := .jobOpen, stamp := { mark := .open }, ended := [], opSeq := 0, early := [] }

theorem jobOpen_opens {a : Part} (harr : Arrives p s) (ha : getPart s h.part = some a) (hd : a.domain = p.domain) (hj : a.job = none)
    (hp : a.pstate = .ready) (ht : testHolds s h.part = false) (group : BitVec 32) (notify : Nat) :
    Delivers (.jobOpen p h group notify) s (fun u v =>
      getPart v h.part = some (jobOpened { id := h.job, group := group, notify := notify
                                           members := Config.groupMembers group a.domain s.crest.opens } a) ∧
      ∃ w, Only [.parts, .crest] u w ∧ (∀ q, q ≠ h.part → getPart w q = getPart u q) ∧ v = replyRun p h 0 0 0 w) := by
  refine delivers_act harr rfl fun u hu => ?_
  have free : ¬(a.job.isSome = true ∨ a.pstate ≠ .ready ∨ testHolds u h.part = true) := by
    rw [hj, hp, testHolds_accepted hu, ht]
    decide
  have named : cmdPart u p h = some a := by rw [cmdPart_accepted hu, cmdPart_of_domain ha hd]
  have crest : u.crest = s.crest := hu.only .crest rfl
  have found : getPart u h.part = some a := (getPart_accepted hu _).trans ha
  have opened : Only [.parts, .crest] u { u with crest := { s.crest with opens := s.crest.opens + 1 } } := by
    intro r hr
    cases r <;> first | rfl | exact absurd hr (by decide)
  dsimp only
  rw [named]
  dsimp only
  rw [if_neg free, crest]
  refine ⟨?_, _, (opened.trans ((modPart_keeps ..).only.mono rfl)), fun q hq => ?_, rfl⟩
  · rw [getPart_replyRun, getPart_modPart, if_pos rfl]
    exact congrArg (Option.map _) found
  · rw [getPart_modPart, if_neg hq]
    rfl

theorem jobStart_starts {a : Part} {j : Job} (hc : Commands p h s a j) (hs : j.started = false) (hq : a.queue = [])
    (hcad : a.cadence = none) : Delivers (.jobStart p h) s (fun u v =>
      v = replyRun p h 0 0 0 (modPart h.part (fun a => { a with
        job := some { j with started := true, credits := 0 }
        stamp := { mark := .started, start := tickStamp s, stop := 0, energy := 0 } }) u)) := by
  obtain ⟨harr, ha, -, -, -⟩ := id hc
  refine delivers_act harr rfl fun u hu => ?_
  have found : getPart u h.part = some a := (getPart_accepted hu _).trans ha
  rw [jobPart_accepted hu, jobPart_of_job hc]
  dsimp only
  rw [hs, if_neg Bool.false_ne_true, tickStamp_accepted hu]
  refine schedule_of_idle fun b hb => ?_
  rw [getPart_replyRun, getPart_modPart, if_pos rfl, found] at hb
  cases hb
  exact ⟨hq, hcad⟩

theorem jobStart_again {a : Part} {j : Job} (hc : Commands p h s a j) (hs : j.started = true) :
    Delivers (.jobStart p h) s (fun u v => v = replyRun p h 0 0 0 u) := by
  refine delivers_act hc.1 rfl fun u hu => ?_
  rw [jobPart_accepted hu, jobPart_of_job hc]
  dsimp only
  rw [hs, if_pos rfl]

theorem jobStop_stops {a : Part} {j : Job} (hc : Commands p h s a j) (hs : j.started = true) :
    Delivers (.jobStop p h) s (fun u v =>
      v = replyRun p h 0 0 0 (stopStamp h.part .stopped u) ∧
      getPart v h.part = some { a with
        stamp := { a.stamp with mark := .stopped, stop := tickStamp s }
        ending := a.ending ++ [(a.stamp.start, tickStamp s, j.credits, a.stamp.energy)]
        job := some { j with started := false, credits := 0 } }) := by
  obtain ⟨harr, ha, hd, hj, -⟩ := id hc
  refine delivers_act harr rfl fun u hu => ?_
  have found : getPart u h.part = some a := (getPart_accepted hu _).trans ha
  rw [cmdPart_accepted hu, cmdPart_of_domain ha hd, jobPart_accepted hu, jobPart_of_job hc]
  dsimp only
  rw [hs, if_pos rfl]
  refine ⟨rfl, ?_⟩
  rw [getPart_replyRun]
  unfold stopStamp
  rw [getPart_modPart, if_pos rfl, found, tickStamp_accepted hu]
  simp only [Option.map_some, hj, hs, if_true]

theorem jobStop_refused {a : Part} (harr : Arrives p s) (hcmd : cmdPart s p h = some a)
    (hn : ∀ x, jobPart s p h = some x → x.2.started = false) :
    Delivers (.jobStop p h) s (fun u v => v = replyRun p h 2 0 0 (raise (evPart s 0x349 2 h.part 0) u)) := by
  refine delivers_act harr rfl fun u hu => ?_
  rw [cmdPart_accepted hu, hcmd, jobPart_accepted hu, evPart_accepted hu]
  dsimp only
  cases hj : jobPart s p h with
  | none => rfl
  | some x =>
    dsimp only
    rw [hn x hj]
    rfl

theorem jobAbort_ends {a : Part} {j : Job} (hc : Commands p h s a j) :
    Delivers (.jobAbort p h) s (fun u v =>
      v = replyRun p h 0 0 0 (abortRun h.part 0x43 u) ∧ ∃ b, getPart v h.part = some (jobEnded b)) := by
  obtain ⟨harr, ha, -, hj, -⟩ := id hc
  refine delivers_act harr rfl fun u hu => ?_
  have found : getPart u h.part = some a := (getPart_accepted hu _).trans ha
  rw [jobPart_accepted hu, jobPart_of_job hc]
  refine ⟨rfl, ?_⟩
  rw [getPart_replyRun]
  exact abortRun_ended found (by rw [hj]; rfl)

theorem jobClose_closes {a : Part} {j : Job} (hc : Commands p h s a j) (hn : a.current = none) (hq : a.queue = []) :
    Delivers (.jobClose p h) s (fun u v =>
      v = replyRun p h 0 0 0 (closeJob h.part u) ∧ ∃ b, getPart v h.part = some (jobEnded b)) := by
  obtain ⟨harr, ha, -, hj, -⟩ := id hc
  refine delivers_act harr rfl fun u hu => ?_
  have found : getPart u h.part = some a := (getPart_accepted hu _).trans ha
  rw [jobPart_accepted hu, jobPart_of_job hc]
  dsimp only
  rw [hn, hq, if_neg (by decide)]
  refine ⟨rfl, ?_⟩
  rw [getPart_replyRun]
  exact closeJob_ended found (by rw [hj]; rfl)

theorem jobClose_running {a : Part} {j : Job} (hc : Commands p h s a j) (hr : a.current.isSome = true) :
    Delivers (.jobClose p h) s (fun u v => v = replyRun p h 2 0 0 u) := by
  refine delivers_act hc.1 rfl fun u hu => ?_
  rw [jobPart_accepted hu, jobPart_of_job hc]
  dsimp only
  rw [if_pos hr]
  rfl

end

/-- Settles O39: each command is followed on the accepted state, where the partition and the job that it names are as before. -/
theorem jobsOpenStartStopAndClose : Obligations.JobsOpenStartStopAndClose := by
  unfold Obligations.JobsOpenStartStopAndClose
  intro p h s
  refine ⟨fun a group notify harr ha hd => ⟨fun hj hp ht => ?_, fun hr => ?_⟩, fun group notify harr hn => ⟨?_, ?_⟩,
    fun a j hc => ?_, fun hn => ?_⟩
  · exact jobOpen_opens harr ha hd hj hp ht group notify
  · exact jobOpen_refused harr (cmdPart_of_domain ha hd) hr group notify
  · refine delivers_act harr rfl fun u hu => ?_
    rw [cmdPart_accepted hu, hn]
    rfl
  · refine delivers_act harr rfl fun u hu => ?_
    rw [cmdPart_accepted hu, hn]
    rfl
  · have named := jobPart_of_job hc
    obtain ⟨harr, ha, hd, -, -⟩ := id hc
    refine ⟨fun hs hq hcad => jobStart_starts hc hs hq hcad, fun hs => jobStart_again hc hs, fun hs => jobStop_stops hc hs, fun hs => ?_,
      ?_, fun hn hq => ?_, fun hr => jobClose_running hc hr⟩
    · refine jobStop_refused harr (cmdPart_of_domain ha hd) fun x hx => ?_
      rw [named] at hx
      cases hx
      exact hs
    · obtain ⟨u, v, t, step, only, accepted, ⟨hv, b, hb⟩, advanced⟩ := jobAbort_ends hc
      exact ⟨u, v, t, step, only, accepted, ⟨hv, jobEnded b, hb, rfl, rfl, rfl⟩, advanced⟩
    · obtain ⟨u, v, t, step, only, accepted, ⟨hv, b, hb⟩, advanced⟩ := jobClose_closes hc hn hq
      exact ⟨u, v, t, step, only, accepted, ⟨hv, jobEnded b, hb, rfl, rfl, rfl, rfl, rfl⟩, advanced⟩
  · obtain ⟨harr, none'⟩ := hn
    refine ⟨?_, ?_, ?_, fun a ha hd => jobStop_refused harr (cmdPart_of_domain ha hd) fun x hx => ?_⟩
    · refine delivers_act harr rfl fun u hu => ?_
      rw [jobPart_accepted hu, none']
      rfl
    · refine delivers_act harr rfl fun u hu => ?_
      rw [jobPart_accepted hu, none']
      rfl
    · refine delivers_act harr rfl fun u hu => ?_
      rw [jobPart_accepted hu, none']
      rfl
    · rw [none'] at hx
      cases hx

end Sys2Proof.Machine
end

section
/-!
PROOF. Commits and releases of sections (R146, R149, R150, R171): the loader's checks in their order, over partitions that reading an
image leaves as they are.
-/

namespace Sys2Proof.Machine

open Sys2Proof

/-! ## Retirements leave the partitions their jobs -/

theorem sameJobs_sendRoutes (s : State) : SameJobs s (sendRoutes s) := by
  unfold sendRoutes
  refine SameJobs.foldl (fun s k => ?_) _ s
  dsimp only
  split
  · exact .refl s
  · exact sameJobs_send _ s

theorem sameJobs_rebuildRoutes (k : Nat) (s : State) : SameJobs s (rebuildRoutes k s) := by
  have settled : SameJobs s (settleRoutes 81 k s) := .of_keeps (settleRoutes_keeps 81 k s)
  have latched (u : State) : SameJobs u (if routesLanded u then latchEdges u else u) := .ite ⟨fun _ => rfl⟩ (.refl u)
  have counted (u : State) : SameJobs u { u with mesh := { u.mesh with routingGen := u.mesh.routingGen + 1 } } := ⟨fun _ => rfl⟩
  unfold rebuildRoutes
  exact (((settled.trans (sameJobs_sendRoutes _)).trans (latched _)).trans (counted _)).trans (.of_keeps (raise_keeps ..))

theorem sameJobs_retireNow (k : Nat) (s : State) : SameJobs s (retireNow k s) := by
  have replaced : SameJobs s (replaceSite k s).2 := .of_keeps (replaceSite_keeps k s)
  have noted (e : EvReq) (u : State) : SameJobs u (noteChange (raise e u)) :=
    (SameJobs.of_keeps (raise_keeps e u)).trans (.of_keeps (noteChange_keeps _))
  unfold retireNow
  exact (replaced.trans (sameJobs_rebuildRoutes k _)).trans (noted _ _)

theorem sameJobs_noteUncorrected (k : Nat) (s : State) : SameJobs s (noteUncorrected k s) := by
  have counted : SameJobs s (modTile k (fun t => { t with uncorrected := recentErrors k s }) s) := .of_keeps (modTile_keeps ..)
  have pending (u : State) : SameJobs u { u with mesh := { u.mesh with pendingRet := u.mesh.pendingRet ++ [k] } } := ⟨fun _ => rfl⟩
  have retired (u : State) : SameJobs u (retire k u) := by
    unfold retire
    split
    · exact .refl u
    · exact .ite ((pending u).trans (.of_keeps (raise_keeps ..))) (sameJobs_retireNow k u)
  unfold noteUncorrected
  exact counted.trans (.ite (retired _) (.refl _))

theorem sameJobs_touchImage (ps : List Piece) (s : State) : SameJobs s (touchImage ps s) := by
  unfold touchImage
  refine SameJobs.foldl (fun s p => ?_) ps s
  have read : SameJobs s (countAccess (physical s p.pos) p.space 1 (touchRead (pieceAt s p) p.len s)) :=
    (SameJobs.of_keeps (touchRead_keeps (pieceAt s p) p.len s)).trans (.of_keeps (countAccess_keeps ..))
  exact read.trans (.ite (sameJobs_noteUncorrected ..) (.refl _))

/-! ## The loader -/

/-- The loader's figure for a refusal (R150, R151). -/
def refusalWord (code : Nat) (n : Named) : Word64 :=
  BitVec.ofNat 64 (code * 2 ^ 56 + n.2.1 * 2 ^ 40 + n.1 * 2 ^ 24 + n.2.2.1 * 2 ^ 16 + n.2.2.2 * 2 ^ 8)

/-- A refused commit: the last refusal holds it, and the sections stay (R150). -/
structure CommitRefused (part : Nat) (a : Part) (code : Nat) (n : Named) (t : State) : Prop where
  found : ∃ b, getPart t part = some b ∧ b.commits = a.commits ∧ b.resident = a.resident ∧ b.nextSection = a.nextSection ∧
    b.lastRefusal = refusalWord code n

/-- The loader's refusal of a commit. -/
def refuseCommit (part : Nat) (c : Commit) (code : Nat) (n : Named) (s : State) : State :=
  loaderRefuse part c.node c.domain c.tag code n.2.1 n.1 n.2.2.1 n.2.2.2 s

theorem refuseCommit_refuses {part : Nat} {a : Part} {s u : State} (ha : getPart s part = some a) (hs : SameJobs s u) (c : Commit)
    (code : Nat) (n : Named) : CommitRefused part a code n (refuseCommit part c code n u) := by
  obtain ⟨b, hb, same⟩ := hs.getPart_some ha
  have made : getPart (refuseCommit part c code n u) part = some { b with lastRefusal := refusalWord code n } := by
    unfold refuseCommit loaderRefuse
    rw [getPart_congr ((sendPkt_keeps ..).only .parts rfl), getPart_modPart, if_pos rfl, getPart_raise, hb]
    rfl
  have kept (g : Part → List Commit × List Section × Nat) (hg : ∀ a, g (untimed a) = g a) : g b = g a := by
    rw [← hg b, same, hg a]
  have fields := kept (fun a => (a.commits, a.resident, a.nextSection)) fun _ => rfl
  simp only [Prod.mk.injEq] at fields
  obtain ⟨commits, resident, next⟩ := fields
  exact ⟨⟨_, made, commits, resident, next, rfl⟩⟩

/-- The record of a partition with a section more (R146). -/
def withSection (x : Section) (a : Part) : Part := { a with resident := a.resident ++ [x], nextSection := a.nextSection + 1 }

theorem getPart_installSection {part : Nat} {s : State} {b : Part} (hb : getPart s part = some b) (a : Part) (img : Image) (ts : List ImgTile) :
    getPart (installSection part a img ts s) part = some (withSection (makeSection s a img ts) b) := by
  have stored (l : List (Nat × List Byte)) (s : State) : Keeps [.fld, .mem, .ecc] s (l.foldl (fun s r =>
      countAccess r.1 0 ((r.2.length + 255) / 256) (writeBytes (memKey r.1 0 0 img.base) r.2 s)) s) :=
    Keeps.foldl (Keeps.refl _ s) fun s r h => (h.step (writeBytes_keeps ..) rfl).step (countAccess_keeps ..) rfl
  unfold installSection
  dsimp only
  rw [getPart_modPart, if_pos rfl, getPart_congr ((stored ..).only .parts rfl), hb]
  rfl

section
variable {part : Nat} {a : Part} {c : Commit} {s : State} {ps : List Piece} {bs : List Byte}

theorem finishCommit_no_image (h : imagePieces s a c.addr c.len = none) : finishCommit part a c s = refuseCommit part c 0x02 noCell s := by
  unfold finishCommit
  dsimp only
  rw [h]
  rfl

theorem finishCommit_unread (h : imagePieces s a c.addr c.len = some ps) (hb : imageBytes s ps = none) :
    finishCommit part a c s = refuseCommit part c 0x02 noCell (touchImage ps s) := by
  unfold finishCommit
  dsimp only
  rw [h]
  dsimp only
  rw [hb]
  rfl

theorem finishCommit_read (h : imagePieces s a c.addr c.len = some ps) (hb : imageBytes s ps = some bs) :
    finishCommit part a c s =
      if headerBad bs then refuseCommit part c 0x01 noCell (touchImage ps s)
      else if !headerRange bs c.len then refuseCommit part c 0x02 noCell (touchImage ps s)
      else if !tablesOk (readImage bs) then refuseCommit part c 0x02 noCell (touchImage ps s)
      else
        (firstFail (touchImage ps s) part a (readImage bs) (applyFolds (readImage bs)).1 (applyFolds (readImage bs)).2).elim
          (sendPkt c.node c.domain 0x3F (runReply c.tag 0 0 0xFFFF 0xFFFF 0xFF 0xFF a.nextSection)
            (installSection part a (readImage bs) (applyFolds (readImage bs)).1 (touchImage ps s)))
          (fun e => refuseCommit part c e.1 e.2 (touchImage ps s)) := by
  unfold finishCommit
  dsimp only
  rw [h]
  dsimp only
  rw [hb]
  dsimp only
  cases firstFail (touchImage ps s) part a (readImage bs) (applyFolds (readImage bs)).1 (applyFolds (readImage bs)).2 with
  | none => rfl
  | some e => rfl

end

/-- The partition's record without its oldest commit (R150). -/
def commitTaken (rest : List Commit) (a : Part) : Part := { a with commits := rest }

theorem exec_commitComplete {part : Nat} {a : Part} {c : Commit} {rest : List Commit} {s : State} (ha : getPart s part = some a)
    (hc : a.commits = c :: rest) :
    exec (.commitComplete part) s = .next (finishCommit part (commitTaken rest a) c (modPart part (commitTaken rest) s)) := by
  show execCommitComplete part s = _
  unfold execCommitComplete
  rw [ha]
  dsimp only
  rw [hc]
  rfl

/-! ## Sections -/

theorem sectionOf_removed (a : Part) (n : Nat) :
    sectionOf { a with resident := a.resident.filter (fun (x : Section) => x.number != n) } n = none := by
  unfold sectionOf
  refine List.find?_eq_none.mpr fun x hx => ?_
  have other := (List.mem_filter.mp hx).2
  simpa using other

theorem sectionRelease_releases {p : Pkt} {h : Hdr} {s : State} {a : Part} {j : Job} {n : Nat} {x : Section} (hc : Commands p h s a j)
    (hx : sectionOf a n = some x) (hu : sectionUsed a n = false) :
    Delivers (.sectionRelease p h n) s (fun u v =>
      v = replyRun p h 0 0 n (modPart h.part (fun (a : Part) =>
        { a with resident := a.resident.filter (fun (x : Section) => x.number != n) }) u) ∧
      ((getPart v h.part).bind (fun b => sectionOf b n)) = none) := by
  obtain ⟨harr, ha, -, -, -⟩ := id hc
  refine delivers_act harr rfl fun u acc => ?_
  have found : getPart u h.part = some a := (getPart_accepted acc _).trans ha
  rw [jobPart_accepted acc, jobPart_of_job hc]
  dsimp only
  rw [hx, hu, Option.isNone_some, if_neg (by decide)]
  refine ⟨rfl, ?_⟩
  rw [getPart_replyRun, getPart_modPart, if_pos rfl, found]
  exact sectionOf_removed a n

theorem sectionRelease_refused {p : Pkt} {h : Hdr} {s : State} {a : Part} {j : Job} {n : Nat} (hc : Commands p h s a j)
    (hr : sectionOf a n = none ∨ sectionUsed a n = true) :
    Delivers (.sectionRelease p h n) s (fun u v => v = replyRun p h 2 0 0 u) := by
  have refused : ((sectionOf a n).isNone || sectionUsed a n) = true := by
    obtain h | h := hr
    · rw [h]; rfl
    · rw [h, Bool.or_true]
  refine delivers_act hc.1 rfl fun u acc => ?_
  rw [jobPart_accepted acc, jobPart_of_job hc]
  dsimp only
  rw [if_pos refused]
  rfl

theorem sectionCommit_waits {p : Pkt} {h : Hdr} {s : State} {a : Part} {j : Job} (hc : Commands p h s a j) (addr : Word64) (len : Nat) :
    Delivers (.sectionCommit p h addr len) s (fun u v =>
      getPart v h.part = some { a with
        commits := a.commits ++ [{ addr := addr, len := len, node := p.node, domain := p.domain, tag := h.tag }] } ∧
      (∀ q, q ≠ h.part → getPart v q = getPart s q) ∧ v.events = u.events ∧ v.fabric = u.fabric) := by
  obtain ⟨harr, ha, -, -, -⟩ := id hc
  refine delivers_act harr rfl fun u acc => ?_
  have found : getPart u h.part = some a := (getPart_accepted acc _).trans ha
  rw [jobPart_accepted acc, jobPart_of_job hc]
  dsimp only
  refine ⟨?_, fun q hq => ?_, modPart_events .., modPart_fabric ..⟩
  · rw [getPart_modPart, if_pos rfl, found]
    rfl
  · rw [getPart_modPart, if_neg hq, getPart_accepted acc]

/-- Settles O40: the loader's checks are taken in their order, over partitions whose records reading the image leaves. -/
theorem sectionsAreCommittedAndReleased : Obligations.SectionsAreCommittedAndReleased := by
  unfold Obligations.SectionsAreCommittedAndReleased
  intro s
  refine ⟨fun p h a j addr len hc => sectionCommit_waits hc addr len, fun part a c rest ha hc => ?_,
    fun p h a j n hc => ⟨fun x hx hu => sectionRelease_releases hc hx hu, sectionRelease_refused hc⟩, fun p h n hn => ⟨?_, fun addr len => ?_⟩⟩
  · intro s' a' refused
    have taken : getPart s' part = some a' := by
      show getPart (modPart part (commitTaken rest) s) part = _
      rw [getPart_modPart, if_pos rfl, ha]
      rfl
    have step : exec (.commitComplete part) s = .next (finishCommit part a' c s') := exec_commitComplete ha hc
    have outcome {u : State} (hu : SameJobs s' u) {code : Nat} {n : Named} (hf : finishCommit part a' c s' = refuseCommit part c code n u) :
        Completes (.commitComplete part) s (refused code n.1 n.2.1 n.2.2.1 n.2.2.2) := by
      refine completes_of_exec step ?_
      rw [hf]
      exact (refuseCommit_refuses taken hu c code n).found
    refine ⟨fun hn => outcome (n := noCell) (.refl s') (finishCommit_no_image hn), fun ps hps => ⟨fun hb => ?_, fun bs hbs => ⟨fun hh => ?_,
      fun hh hr => ?_, fun hh hr ht => ?_⟩⟩⟩
    · exact outcome (n := noCell) (sameJobs_touchImage ps s') (finishCommit_unread hps hb)
    · exact outcome (n := noCell) (sameJobs_touchImage ps s') ((finishCommit_read hps hbs).trans (if_pos hh))
    · refine outcome (n := noCell) (sameJobs_touchImage ps s') ((finishCommit_read hps hbs).trans ?_)
      rw [hh, if_neg Bool.false_ne_true]
      by_cases hrange : headerRange bs c.len = false
      · rw [hrange]
        rfl
      · rw [hr.resolve_left hrange]
        exact ite_self _
    · have judged := finishCommit_read (part := part) hps hbs
      rw [hh, hr, ht] at judged
      refine ⟨fun code n hf => outcome (sameJobs_touchImage ps s') ?_, fun hf => ?_⟩
      · rw [judged, hf]
        rfl
      · obtain ⟨b, hb, same⟩ := (sameJobs_touchImage ps s').getPart_some taken
        have kept (g : Part → List Commit × List Section × Nat × Word64) (hg : ∀ a, g (untimed a) = g a) : g b = g a' := by
          rw [← hg b, same, hg a']
        have fields := kept (fun a => (a.commits, a.resident, a.nextSection, a.lastRefusal)) fun _ => rfl
        simp only [Prod.mk.injEq] at fields
        obtain ⟨commits, resident, next, last⟩ := fields
        refine completes_of_exec step ?_
        rw [judged, hf]
        refine ⟨withSection _ b, ?_, commits, congrArg (· ++ _) resident, congrArg (· + 1) next, last⟩
        refine (getPart_congr ((sendPkt_keeps ..).only .parts rfl) part).trans ?_
        exact getPart_installSection hb ..
  · obtain ⟨harr, none'⟩ := hn
    refine delivers_act harr rfl fun u acc => ?_
    rw [jobPart_accepted acc, none']
    rfl
  · obtain ⟨harr, none'⟩ := hn
    refine delivers_act harr rfl fun u acc => ?_
    rw [jobPart_accepted acc, none']
    rfl

end Sys2Proof.Machine
end

section
/-!
PROOF. The queue of runs (R153, R154, R155, R160, R172): what an enqueue, a cancel, STATUS and the limits of a run make of it.
-/

namespace Sys2Proof.Machine

open Sys2Proof

/-! ## A scheduler with nothing to choose -/

theorem resolveReady_of_stopped {p n : Nat} {s : State} {a : Part} (ha : getPart s p = some a)
    (hj : (a.job.map Job.started).getD false = false) : resolveReady p n s = s := by
  cases n with
  | zero => rfl
  | succ n =>
    unfold resolveReady
    rw [ha]
    dsimp only
    rw [hj]
    rfl

theorem resolveReady_of_ready {p n : Nat} {s : State} {a : Part} (ha : getPart s p = some a) (hr : ∀ q ∈ a.queue, q.ready = true) :
    resolveReady p n s = s := by
  cases n with
  | zero => rfl
  | succ n =>
    have none' : a.queue.find? (fun q => !q.ready && q.preds.all (predDone a)) = none :=
      List.find?_eq_none.mpr fun q hq => by simp [hr q hq]
    unfold resolveReady
    rw [ha]
    dsimp only
    rw [none']
    exact ite_self _

/-- Without cadence and without a run to choose the scheduler changes nothing (R155). -/
theorem schedule_of_no_choice {p : Nat} {s : State} {a : Part} (ha : getPart s p = some a) (hc : a.cadence = none)
    (hr : ∀ n, resolveReady p n s = s) (hn : (a.job.map Job.started).getD false = true → chooseRun s a = none) : schedule p s = s := by
  have cadence (b : Part) (hb : getPart s p = some b) : b.cadence = none := by
    rw [ha] at hb
    cases hb
    exact hc
  unfold schedule
  rw [hr]
  dsimp only
  rw [ha]
  dsimp only
  rw [nextFrameSection_of_none cadence, decideWaiting_of_none cadence, ha]
  dsimp only
  split
  · rfl
  · split
    · rfl
    · next hs =>
      simp only [Bool.or_eq_true, not_or, Bool.not_eq_true, Bool.not_eq_true'] at hs
      rw [hn (by simpa using hs.2)]

theorem schedule_of_stopped {p : Nat} {s : State} {a : Part} (ha : getPart s p = some a) (hc : a.cadence = none)
    (hj : (a.job.map Job.started).getD false = false) : schedule p s = s :=
  schedule_of_no_choice ha hc (fun _ => resolveReady_of_stopped ha hj) fun h => by rw [hj] at h; exact absurd h (by decide)

theorem chooseRun_of_ineligible {s : State} {a : Part} {r : Run} (hq : a.queue = [r]) (he : eligible a r = false) : chooseRun s a = none := by
  have ready (l : List Run) (hl : ∀ q ∈ l, q = r) : l.filter (fun r => eligible a r && fitsCadence s a r) = [] :=
    List.filter_eq_nil_iff.mpr fun q hmem => by rw [hl q hmem, he]; simp
  have only : ∀ q ∈ (if measured s a = true then a.queue.filter Run.ready else []), q = r := by
    intro q hmem
    split at hmem
    · rw [hq] at hmem
      simpa using (List.mem_filter.mp hmem).1
    · exact absurd hmem (by simp)
  unfold chooseRun
  dsimp only
  generalize (if measured s a = true then a.queue.filter Run.ready else []) = l at only
  split
  · next q rest h =>
    have here : q ∈ l := (List.mem_filter.mp (h ▸ List.mem_cons_self)).1
    rw [only q here, he]
    rfl
  · rw [ready l only]
    split <;> rfl

/-! ## Enqueues -/

theorem largestShare_accepted {s u : State} (h : Accepted s u) (a : Part) : largestShare u a = largestShare s a := by
  unfold largestShare granularity reg
  rw [h.parts, h.regs]

theorem crestOwner_accepted {s u : State} (h : Accepted s u) (i : Nat) : crestOwner u i = crestOwner s i := by
  unfold crestOwner holder getFld
  rw [h.parts, h.fld, h.only .crest rfl]

/-- What a change makes of a partition is what it makes of its record. -/
theorem modPart_of_record {p : Nat} {s : State} {a : Part} (ha : getPart s p = some a) {g g' : Part → Part} (h : g a = g' a) :
    modPart p g s = modPart p g' s := by
  have found : amFind s.parts p = some a := ha
  unfold modPart
  rw [found]
  dsimp only
  rw [h]

/-- The run that an enqueue makes (R153). -/
def enqueued (n sec prio : Nat) (preds : List Nat) (guard : Guard) : Run := { number := n, sec := sec, prio := prio, preds := preds, guard := guard }

/-- The record of a partition with a run more in its queue (R153). -/
def withRun (r : Run) (a : Part) : Part := { a with queue := a.queue ++ [r], nextRun := r.number + 1 }

section
variable {p : Pkt} {h : Hdr} {s : State} {a : Part} {j : Job} {sec prio : Nat} {guard : Guard} {preds : List Nat}

/-- A malformed enqueue (R171). -/
def Malformed (p : Hdr) (s : State) (prio : Nat) (guard : Guard) (preds : List Nat) : Prop :=
  prio > 7 ∨ guard.cmp > 2 ∨ preds.length > 4 ∨ (guard.cmp ≠ 0 ∧ crestOwner s guard.index ≠ some p.part)

theorem enqueue_refused (hc : Commands p h s a j) (hr : sectionOf a sec = none ∨ Malformed h s prio guard preds) :
    Delivers (.sectionEnqueue p h sec prio guard preds) s (fun u v => v = replyRun p h 2 0 0 u) := by
  refine delivers_act hc.1 rfl fun u acc => ?_
  rw [jobPart_accepted acc, jobPart_of_job hc]
  dsimp only
  cases hx : sectionOf a sec with
  | none => rfl
  | some x =>
    have bad := hr.resolve_left (by rw [hx]; simp)
    unfold Malformed at bad
    dsimp only
    rw [crestOwner_accepted acc, if_pos bad]
    rfl

/-- The loader's answer to a well-formed enqueue of a resident section (R149, R156). -/
theorem enqueue_wellFormed {x : Section} (hc : Commands p h s a j) (hx : sectionOf a sec = some x) (hf : ¬Malformed h s prio guard preds) :
    Delivers (.sectionEnqueue p h sec prio guard preds) s (fun u v => getPart u h.part = some a ∧ v =
      if 1000 * x.energy > largestShare s a * x.time then
        loaderRefuse h.part p.node p.domain h.tag 0x05 0xFFFF 0xFFFF 0xFF 0xFF u
      else if a.queue.length ≥ 256 ∨ !preds.all (knownPred a) then
        loaderRefuse h.part p.node p.domain h.tag 0x34 0xFFFF 0xFFFF 0xFF 0xFF u
      else schedule h.part (replyRun p h 0 0 a.nextRun (modPart h.part (fun (b : Part) =>
        { b with queue := b.queue ++ [enqueued a.nextRun sec prio preds guard], nextRun := a.nextRun + 1 }) u))) := by
  obtain ⟨harr, ha, -, -, -⟩ := id hc
  refine delivers_act harr rfl fun u acc => ⟨(getPart_accepted acc _).trans ha, ?_⟩
  unfold Malformed at hf
  rw [jobPart_accepted acc, jobPart_of_job hc]
  dsimp only
  rw [hx]
  dsimp only
  rw [crestOwner_accepted acc, if_neg hf, largestShare_accepted acc]
  rfl

end

/-! ## Cancels -/

/-- The record of a partition with a run less in its queue (R154). -/
def runOut (n : Nat) (a : Part) : Part := { a with queue := a.queue.filter (fun (r : Run) => r.number != n) }

/-- The record of a partition with a run more among those that ended (R172). -/
def runEnded (n status code : Nat) (a : Part) : Part :=
  { a with ended := (a.ended ++ [(n, status, code)]).drop (a.ended.length + 1 - 256) }

theorem getPart_endRun {p : Nat} {s : State} {a : Part} (ha : getPart s p = some a) (n status code : Nat) :
    getPart (endRun p n status code s) p = some (runEnded n status code a) := by
  unfold endRun
  rw [ha]
  dsimp only
  rw [getPart_congr ((runNotify_keeps ..).only .parts rfl), getPart_modPart, if_pos rfl, ha]
  rfl

/-- A partition b, from a, whose run has been cancelled: it is gone from the queue and kept among the ended, which hold one more for each
run that was discarded after it (R154, R172). -/
structure Cancelled (run : Nat) (a b : Part) : Prop where
  ended : ∃ before after, b.ended = before ++ (run, 4, 0) :: after ∧ b.queue.length + after.length ≤ 255
  queue : ∀ q ∈ b.queue, q ∈ a.queue ∧ q.number ≠ run
  current : b.current = a.current

theorem length_runOut {a : Part} {r : Run} (h : r ∈ a.queue) : (runOut r.number a).queue.length < a.queue.length :=
  List.length_filter_lt_length_iff_exists.mpr ⟨r, h, by simp⟩

theorem Cancelled.first {run : Nat} {a : Part} (hr : ∃ r ∈ a.queue, r.number = run) (hq : a.queue.length ≤ 256) :
    Cancelled run a (runEnded run 4 0 (runOut run a)) := by
  obtain ⟨r, hmem, rfl⟩ := hr
  have shorter := length_runOut hmem
  refine ⟨⟨a.ended.drop (a.ended.length + 1 - 256), [], ?_, ?_⟩, fun q hq => ?_, rfl⟩
  · have low : a.ended.length + 1 - 256 ≤ a.ended.length := by omega
    have made : (runEnded r.number 4 0 (runOut r.number a)).ended = (a.ended ++ [(r.number, 4, 0)]).drop (a.ended.length + 1 - 256) := by
      unfold runEnded runOut
      dsimp only
    rw [made, List.drop_append_of_le_length low]
  · have kept : (runEnded r.number 4 0 (runOut r.number a)).queue = (runOut r.number a).queue := rfl
    rw [kept, List.length_nil]
    omega
  · obtain ⟨inside, other⟩ := List.mem_filter.mp hq
    exact ⟨inside, by simpa using other⟩

theorem Cancelled.discard {run : Nat} {a b : Part} {q : Run} (h : Cancelled run a b) (hq : q ∈ b.queue) :
    Cancelled run a (runEnded q.number 4 0 (runOut q.number b)) := by
  obtain ⟨⟨before, after, hended, hlen⟩, hqueue, hcurrent⟩ := h
  have shorter := length_runOut hq
  refine ⟨⟨before.drop (b.ended.length + 1 - 256), after ++ [(q.number, 4, 0)], ?_, ?_⟩, fun r hr => ?_, hcurrent⟩
  · have low : b.ended.length + 1 - 256 ≤ before.length := by
      rw [hended, List.length_append, List.length_cons]
      omega
    have made : (runEnded q.number 4 0 (runOut q.number b)).ended = (b.ended ++ [(q.number, 4, 0)]).drop (b.ended.length + 1 - 256) := by
      unfold runEnded runOut
      dsimp only
    generalize b.ended.length + 1 - 256 = n at low made
    rw [made, hended, List.append_assoc, List.cons_append, List.drop_append_of_le_length low]
  · have kept : (runEnded q.number 4 0 (runOut q.number b)).queue = (runOut q.number b).queue := rfl
    rw [kept, List.length_append, List.length_singleton]
    omega
  · exact hqueue r (List.mem_filter.mp hr).1

theorem discardAfter_cancelled {run p n : Nat} {a b : Part} {s : State} (hb : getPart s p = some b) (h : Cancelled run a b)
    (hn : b.queue.length < n) :
    ∃ c, getPart (discardAfter p n s) p = some c ∧ Cancelled run a c ∧ ∀ q ∈ c.queue, run ∉ q.preds := by
  induction n generalizing s b with
  | zero => omega
  | succ n ih =>
    unfold discardAfter
    rw [hb]
    dsimp only
    cases hf : b.queue.find? (fun q => q.preds.any (fun m => b.ended.any (fun e => e.1 == m && (e.2.1 == 1 || e.2.1 == 4)))) with
    | none =>
      refine ⟨b, hb, h, fun q hq hrun => ?_⟩
      obtain ⟨before, after, hended, -⟩ := h.ended
      have kept := List.find?_eq_none.mp hf q hq
      refine kept (List.any_eq_true.mpr ⟨run, hrun, List.any_eq_true.mpr ⟨(run, 4, 0), ?_, ?_⟩⟩)
      · rw [hended]
        exact List.mem_append_right _ List.mem_cons_self
      · simp
    | some q =>
      have here : q ∈ b.queue := List.mem_of_find?_eq_some hf
      have shorter := length_runOut here
      have taken : getPart (modPart p (runOut q.number) s) p = some (runOut q.number b) := by
        rw [getPart_modPart, if_pos rfl, hb]
        rfl
      exact ih (getPart_endRun taken q.number 4 0) (h.discard here) (show (runOut q.number b).queue.length < n by omega)

theorem sectionCancel_cancels {p : Pkt} {h : Hdr} {s : State} {a : Part} {j : Job} {run : Nat} (hc : Commands p h s a j)
    (hr : ∃ r ∈ a.queue, r.number = run) (hq : a.queue.length ≤ 256) :
    Delivers (.sectionCancel p h run) s (fun _ v =>
      ∃ b, getPart v h.part = some b ∧ (∀ q ∈ b.queue, q.number ≠ run ∧ run ∉ q.preds) ∧
        (∀ q ∈ b.queue, q ∈ a.queue) ∧ (run, 4, 0) ∈ b.ended ∧ b.current = a.current) := by
  obtain ⟨harr, ha, -, -, -⟩ := id hc
  refine delivers_act harr rfl fun u acc => ?_
  have found : getPart u h.part = some a := (getPart_accepted acc _).trans ha
  have queued : a.queue.any (fun (r : Run) => r.number == run) = true := by
    obtain ⟨r, hmem, hnum⟩ := hr
    exact List.any_eq_true.mpr ⟨r, hmem, by rw [hnum]; exact beq_self_eq_true run⟩
  have taken : getPart (modPart h.part (runOut run) (replyRun p h 0 0 run u)) h.part = some (runOut run a) := by
    rw [getPart_modPart, if_pos rfl, getPart_replyRun, found]
    rfl
  have first := Cancelled.first hr hq
  have short : (runEnded run 4 0 (runOut run a)).queue.length < 257 := by
    have kept : (runEnded run 4 0 (runOut run a)).queue = (runOut run a).queue := rfl
    obtain ⟨r, hmem, rfl⟩ := hr
    have shorter := length_runOut hmem
    rw [kept]
    omega
  obtain ⟨b, hb, cancelled, preds⟩ := discardAfter_cancelled (getPart_endRun taken run 4 0) first short
  obtain ⟨before, after, hended, -⟩ := cancelled.ended
  rw [jobPart_accepted acc, jobPart_of_job hc]
  dsimp only
  rw [if_pos queued]
  refine ⟨b, hb, fun q hq => ⟨(cancelled.queue q hq).2, preds q hq⟩, fun q hq => (cancelled.queue q hq).1, ?_, cancelled.current⟩
  rw [hended]
  exact List.mem_append_right _ List.mem_cons_self

theorem sectionCancel_refused {p : Pkt} {h : Hdr} {s : State} {a : Part} {j : Job} {run : Nat} (hc : Commands p h s a j)
    (hr : ∀ r ∈ a.queue, r.number ≠ run) : Delivers (.sectionCancel p h run) s (fun u v => v = replyRun p h 2 0 0 u) := by
  have absent : ¬a.queue.any (fun (r : Run) => r.number == run) = true := by
    intro queued
    obtain ⟨r, hmem, hnum⟩ := List.any_eq_true.mp queued
    exact hr r hmem (by simpa using hnum)
  refine delivers_act hc.1 rfl fun u acc => ?_
  rw [jobPart_accepted acc, jobPart_of_job hc]
  dsimp only
  rw [if_neg absent]
  rfl

/-! ## The state of a run -/

theorem runStatus_answers {p : Pkt} {h : Hdr} {s : State} {a : Part} {j : Job} (hc : Commands p h s a j) (run : Nat) :
    Delivers (.runStatus p h run) s (fun u v =>
      let n := if run = 0 then (a.current.map Current.number).getD 0 else run
      v = (if n = 0 then none else runState a n).elim (replyRun p h 2 0 0 u) (fun e => replyRun p h e.1 e.2 n u)) := by
  refine delivers_act hc.1 rfl fun u acc => ?_
  rw [jobPart_accepted acc, jobPart_of_job hc]
  dsimp only
  generalize (if run = 0 then (a.current.map Current.number).getD 0 else run) = n
  cases (if n = 0 then none else runState a n) with
  | none => rfl
  | some e => rfl

theorem delivers_imp {c : Instr} {s : State} {q r : State → State → Prop} (h : Delivers c s q) (hqr : ∀ u v, q u v → r u v) :
    Delivers c s r := by
  obtain ⟨u, v, t, step, only, accepted, hq, advanced⟩ := h
  exact ⟨u, v, t, step, only, accepted, hqr u v hq, advanced⟩

/-! ## The limits of a run -/

/-- The record of a partition whose run has been noted as starved (R155). -/
def starvedMarked (n : Nat) (a : Part) : Part :=
  { a with queue := a.queue.map (fun (q : Run) => if q.number = n then { q with starvedNoted := true } else q) }

theorem starvationLimit_notes {part : Nat} {s : State} {a : Part} {r : Run} (ha : getPart s part = some a) (hq : a.queue = [r])
    (hr : r.ready = true) (hn : r.starvedNoted = false) (he : eligible a r = false) (hc : a.cadence = none) :
    Completes (.starvationLimitReached part r.number) s (fun t =>
      getPart t part = some { a with queue := [{ r with starvedNoted := true }] } ∧
      r.readySince + setting s 0x2D00 1 * usT ≤ now t ∧ Raised (evPart s 0x00E 0 part r.number) s t) := by
  have time := (now_advanceTo (r.readySince + setting s 0x2D00 1 * usT) s).1
  generalize hu : advanceTo (r.readySince + setting s 0x2D00 1 * usT) s = u at time
  have found : getPart u part = some a := by rw [← hu, getPart_advanceTo]; exact ha
  have events : u.events = s.events := by rw [← hu]; exact advanceTo_events ..
  have lease : u.lease = s.lease := by rw [← hu]; exact advanceTo_lease ..
  have parts : u.parts = s.parts := by rw [← hu]; exact advanceTo_parts ..
  have record : starvedMarked r.number a = { a with queue := [{ r with starvedNoted := true }] } := by
    simp only [starvedMarked, hq, List.map_cons, List.map_nil, if_true]
  generalize hw : raise (evPart u 0x00E 0 part r.number) (modPart part (starvedMarked r.number) u) = w
  have there : getPart w part = some { a with queue := [{ r with starvedNoted := true }] } := by
    rw [← hw, getPart_raise, getPart_modPart, if_pos rfl, found, Option.map_some, record]
  have idle : schedule part w = w := by
    refine schedule_of_no_choice there hc (fun n => resolveReady_of_ready there fun q hmem => ?_) fun _ => ?_
    · rw [List.mem_singleton.mp hmem]
      exact hr
    · exact chooseRun_of_ineligible (r := { r with starvedNoted := true }) rfl he
  have step : exec (.starvationLimitReached part r.number) s = .next w := by
    show execStarvationLimitReached part r.number s = _
    unfold execStarvationLimitReached
    rw [ha, Option.bind_some, hq]
    simp only [List.find?_cons, beq_self_eq_true, hr, Bool.and_self]
    rw [hu, found]
    dsimp only
    rw [he, hn, if_neg (by decide)]
    exact congrArg Host.Outcome.next ((congrArg (schedule part) hw).trans idle)
  refine completes_of_exec step ⟨there, ?_, ?_⟩
  · rw [← hw, now_raise, now_modPart]
    exact time
  · have same : evPart u 0x00E 0 part r.number = evPart s 0x00E 0 part r.number := evPart_congr lease parts ..
    rw [← hw, same]
    exact raise_events _ ((modPart_events ..).trans events)

theorem runOverrun_notes {part : Nat} {s : State} {a : Part} {c : Current} (ha : getPart s part = some a) (hc : a.current = some c)
    (hn : c.overran = false) : Completes (.runOverrun part) s (fun t =>
      getPart t part = some { a with current := some { c with overran := true } } ∧
      c.startedAt + ((sectionOf a c.sec).map Section.time).getD 0 * 10 * setting s 0x2D00 2 ≤ now t ∧
      Raised (evPart s 0x381 0 part c.number) s t) := by
  generalize hm : c.startedAt + ((sectionOf a c.sec).map Section.time).getD 0 * 10 * setting s 0x2D00 2 = m
  have time := (now_advanceTo m s).1
  have step : exec (.runOverrun part) s = .next (raise (evPart (advanceTo m s) 0x381 0 part c.number) (modPart part (fun (a : Part) =>
      { a with current := a.current.map (fun (c : Current) => { c with overran := true }) }) (advanceTo m s))) := by
    show execRunOverrun part s = _
    unfold execRunOverrun
    rw [ha]
    dsimp only
    rw [hc]
    dsimp only
    rw [hn, if_neg (by decide), hm]
  have events : (advanceTo m s).events = s.events := advanceTo_events ..
  have same : evPart (advanceTo m s) 0x381 0 part c.number = evPart s 0x381 0 part c.number :=
    evPart_congr (advanceTo_lease ..) (advanceTo_parts ..) ..
  have found : getPart (advanceTo m s) part = some a := by rw [getPart_advanceTo]; exact ha
  generalize advanceTo m s = u at time step events same found
  refine completes_of_exec step ⟨?_, ?_, ?_⟩
  · rw [getPart_raise, getPart_modPart, if_pos rfl, found, Option.map_some, hc]
    rfl
  · rw [now_raise, now_modPart]
    exact time
  · rw [same]
    exact raise_events _ ((modPart_events ..).trans events)

/-- Settles O41: the queue after a cancel is followed through the discards, of which the ended runs keep the cancelled one. -/
theorem runsAreQueuedReportedAndWatched : Obligations.RunsAreQueuedReportedAndWatched := by
  unfold Obligations.RunsAreQueuedReportedAndWatched
  intro s
  refine ⟨fun p h a j sec prio guard preds x hc hx hp hg hl ho => ?_, fun p h a j sec prio guard preds hc hr => enqueue_refused hc hr,
    fun p h a j run hc => ⟨sectionCancel_cancels hc, sectionCancel_refused hc⟩, fun p h a j run hc => ?_,
    fun part a r ha hq hr hn he hc => starvationLimit_notes ha hq hr hn he hc, fun part a c ha hc hn => runOverrun_notes ha hc hn⟩
  · have formed : ¬Malformed h s prio guard preds := by
      rintro (h | h | h | ⟨h1, h2⟩)
      · omega
      · omega
      · omega
      · exact ho.elim h1 h2
    have answered := enqueue_wellFormed hc hx formed
    refine ⟨fun hpow => delivers_imp answered fun u v hv => ?_, fun hpow hfull => delivers_imp answered fun u v hv => ?_,
      fun hpow hlen hpre => delivers_imp answered fun u v hv => ?_⟩
    · rw [hv.2, if_pos hpow]
    · have full : a.queue.length ≥ 256 ∨ (!preds.all (knownPred a)) = true := hfull.imp_right fun h => by rw [h]; rfl
      rw [hv.2, if_neg (by omega), if_pos full]
    · have room : ¬(a.queue.length ≥ 256 ∨ (!preds.all (knownPred a)) = true) := by
        rintro (h | h)
        · omega
        · rw [hpre] at h
          exact absurd h (by decide)
      obtain ⟨found, made⟩ := hv
      rw [if_neg (by omega), if_neg room] at made
      have queued : getPart (replyRun p h 0 0 a.nextRun (modPart h.part (fun (b : Part) =>
          { b with queue := b.queue ++ [enqueued a.nextRun sec prio preds guard], nextRun := a.nextRun + 1 }) u)) h.part =
          some (withRun (enqueued a.nextRun sec prio preds guard) a) := by
        rw [getPart_replyRun, getPart_modPart, if_pos rfl, found]
        rfl
      refine ⟨?_, fun hs hcad => ?_⟩
      · rw [made]
        exact congrArg (fun w => schedule h.part (replyRun p h 0 0 a.nextRun w)) (modPart_of_record found rfl)
      · have stopped : ((withRun (enqueued a.nextRun sec prio preds guard) a).job.map Job.started).getD false = false := by
          obtain ⟨-, -, -, hj, -⟩ := hc
          have job : (withRun (enqueued a.nextRun sec prio preds guard) a).job = a.job := rfl
          rw [job, hj]
          exact hs
        rw [made, schedule_of_stopped queued hcad stopped]
        exact queued
  · have answered := runStatus_answers hc
    refine ⟨fun st code hrun hst => delivers_imp (answered run) fun u v hv => ?_, fun c hcur hnum => delivers_imp (answered 0) fun u v hv => ?_,
      fun hcur => delivers_imp (answered 0) fun u v hv => ?_, fun hrun hst => delivers_imp (answered run) fun u v hv => ?_⟩
    · rw [if_neg hrun] at hv
      dsimp only at hv
      rw [if_neg hrun, hst] at hv
      exact hv
    · have running : runState a c.number = some (7, 0) := by
        unfold runState
        rw [hcur]
        exact if_pos rfl
      rw [if_pos rfl, hcur] at hv
      dsimp only [Option.map_some, Option.getD_some] at hv
      rw [if_neg hnum, running] at hv
      exact hv
    · rw [if_pos rfl, hcur] at hv
      exact hv
    · rw [if_neg hrun] at hv
      dsimp only at hv
      rw [if_neg hrun, hst] at hv
      exact hv

end Sys2Proof.Machine
end

section
/-!
PROOF. The cadence of a pour partition (R163 to R167, R171): its admission, its stop, and the windows of its grid.
-/

namespace Sys2Proof.Machine

open Sys2Proof

/-! ## A scheduler that waits -/

/-- A partition that a run holds chooses nothing (R155). -/
theorem schedule_of_current {p : Nat} {s : State} {a : Part} (ha : getPart s p = some a) (hq : a.queue = []) (hc : a.current.isSome = true) :
    schedule p s = s := by
  have queue (b : Part) (hb : getPart s p = some b) : b.queue = [] := by
    rw [ha] at hb
    cases hb
    exact hq
  unfold schedule
  rw [resolveReady_of_empty queue]
  dsimp only
  rw [ha]
  dsimp only
  rw [hc]
  rfl

/-- A cadence that is between frames and has nothing to decide (R165). -/
structure Between (c : Cadence) : Prop where
  left : c.frameLeft = []
  frame : c.frameK = none
  going : c.stopping = false
  decided : c.undecided = []

theorem schedule_of_between {p : Nat} {s : State} {a : Part} {c : Cadence} (ha : getPart s p = some a) (hq : a.queue = [])
    (hr : a.current = none) (hc : a.cadence = some c) (hb : Between c) : schedule p s = s := by
  have queue (b : Part) (hb : getPart s p = some b) : b.queue = [] := by
    rw [ha] at hb
    cases hb
    exact hq
  have frames : nextFrameSection p s = s := by
    unfold nextFrameSection
    rw [ha]
    dsimp only
    rw [hc, hr]
    dsimp only
    rw [hb.left]
  have waiting (n : Nat) : decideWaiting p n s = s := by
    cases n with
    | zero => rfl
    | succ n =>
      unfold decideWaiting
      rw [ha]
      dsimp only
      rw [hc]
      dsimp only
      rw [hr, hb.frame, hb.going, hb.decided]
      rfl
  unfold schedule
  rw [resolveReady_of_empty queue]
  dsimp only
  rw [ha]
  dsimp only
  rw [frames, waiting, ha]
  dsimp only
  rw [chooseRun_of_empty hq]
  dsimp only
  rw [ite_self, ite_self]

/-! ## Admissions and stops -/

section
variable {p : Pkt} {h : Hdr} {s : State} {a : Part} {j : Job}

/-- An admission that the reservation covers (R163, R164). -/
def Admissible (a : Part) (r : CadenceReq) : Prop :=
  a.role = 0 ∧ a.cadence = none ∧ 1 ≤ r.sections.length ∧ r.sections.length ≤ 16 ∧ (∀ n ∈ r.sections, (sectionOf a n).isSome = true) ∧
  0 < r.period ∧ r.estimate ≤ r.period ∧ r.energy * 1000000 ≤ a.reservation * r.period

theorem admissible_iff (a : Part) (r : CadenceReq) : ¬Admissible a r ↔
    (a.role ≠ 0 ∨ a.cadence.isSome ∨ r.sections.isEmpty ∨ r.sections.length > 16 ∨ !r.sections.all (fun n => (sectionOf a n).isSome)
      ∨ r.period = 0 ∨ r.estimate > r.period ∨ r.energy * 1000000 > a.reservation * r.period) := by
  have some' : a.cadence.isSome = true ↔ ¬a.cadence = none := by cases a.cadence <;> simp
  have empty : r.sections.isEmpty = true ↔ ¬1 ≤ r.sections.length := by cases r.sections <;> simp
  have all : (!r.sections.all (fun n => (sectionOf a n).isSome)) = true ↔ ¬∀ n ∈ r.sections, (sectionOf a n).isSome = true := by
    rw [← List.all_eq_true, Bool.not_eq_true', Bool.not_eq_true]
  rw [some', empty, all]
  unfold Admissible
  rw [not_and_or, not_and_or, not_and_or, not_and_or, not_and_or, not_and_or, not_and_or, Nat.not_lt, Nat.not_le, Nat.not_le, Nat.not_le,
    Nat.not_le, Nat.le_zero]

/-- The cadence that an admission makes (R163). -/
def admitted (r : CadenceReq) (s : State) : Cadence :=
  { period := r.period, estimate := r.estimate, energy := r.energy, sections := r.sections
    w0 := if r.start = 0 then 0 else startWindow s r.start
    w0Tick := r.start == 0 }

/-- The record of a partition whose cadence has just been admitted (R163, R173). -/
def withAdmitted (r : CadenceReq) (c : Cadence) (a : Part) : Part :=
  { a with cadence := some c, framePeriod := r.period, framesRun := 0, framesLate := 0, framesDropped := 0 }

theorem startWindow_accepted {s u : State} (h : Accepted s u) (start : Word64) : startWindow u start = startWindow s start := by
  unfold startWindow now
  rw [h.only .time rfl]

theorem cadenceAdmit_admits {r : CadenceReq} (hc : Commands p h s a j) (hr : Admissible a r) :
    Delivers (.cadenceAdmit p h r) s (fun _ v =>
      setting v 0x2D12 (h.part + 1) = (if r.late then 1 else 0) ∧
      getPart v h.part = some (withAdmitted r (admitted r s) a)) := by
  obtain ⟨harr, ha, -, -, -⟩ := id hc
  refine delivers_act harr rfl fun u acc => ?_
  have found : getPart u h.part = some a := (getPart_accepted acc _).trans ha
  have good := mt (admissible_iff a r).mpr (not_not_intro hr)
  rw [jobPart_accepted acc, jobPart_of_job hc]
  dsimp only
  rw [if_neg good, startWindow_accepted acc]
  refine ⟨?_, ?_⟩
  · have key : 0x2D12 * 256 + (h.part + 1) = 0x2D1200 + h.part + 1 := by omega
    have stored (w : State) : (replyRun p h 0 0 0 (modPart h.part (withAdmitted r (admitted r s)) w)).regs = w.regs :=
      ((sendPkt_keeps ..).only .regs rfl).trans ((modPart_keeps ..).only .regs rfl)
    unfold setting
    rw [key]
    exact (congrArg (fun m => amGet m _ _) (stored _)).trans ((amGet_amSet ..).trans (if_pos rfl))
  · rw [getPart_replyRun, getPart_modPart, if_pos rfl, getPart_setReg, found]
    rfl

theorem cadenceAdmit_refused {r : CadenceReq} (hc : Commands p h s a j) (hr : ¬Admissible a r) :
    Delivers (.cadenceAdmit p h r) s (fun u v => v = replyRun p h 2 0 0 u) := by
  refine delivers_act hc.1 rfl fun u acc => ?_
  rw [jobPart_accepted acc, jobPart_of_job hc]
  dsimp only
  rw [if_pos ((admissible_iff a r).mp hr)]
  rfl

theorem cadenceStop_between {c : Cadence} (hc : Commands p h s a j) (hcad : a.cadence = some c) (hf : c.frameK = none) (hq : a.queue = []) :
    Delivers (.cadenceStop p h) s (fun u v =>
      v = replyRun p h 0 0 0 (modPart h.part (fun (a : Part) => { a with cadence := none }) u)) := by
  obtain ⟨harr, ha, -, -, -⟩ := id hc
  refine delivers_act harr rfl fun u acc => ?_
  have found : getPart u h.part = some a := (getPart_accepted acc _).trans ha
  rw [jobPart_accepted acc, jobPart_of_job hc]
  dsimp only
  rw [hcad]
  dsimp only
  rw [hf]
  refine schedule_of_idle fun b hb => ?_
  rw [getPart_replyRun, getPart_modPart, if_pos rfl, found] at hb
  cases hb
  exact ⟨hq, rfl⟩

theorem cadenceStop_running {c : Cadence} (hc : Commands p h s a j) (hcad : a.cadence = some c) (hf : c.frameK.isSome = true)
    (hq : a.queue = []) (hr : a.current.isSome = true) :
    Delivers (.cadenceStop p h) s (fun u v =>
      v = replyRun p h 0 0 0 (modPart h.part (fun (a : Part) => { a with cadence := some { c with stopping := true } }) u)) := by
  obtain ⟨harr, ha, -, -, -⟩ := id hc
  refine delivers_act harr rfl fun u acc => ?_
  have found : getPart u h.part = some a := (getPart_accepted acc _).trans ha
  rw [jobPart_accepted acc, jobPart_of_job hc]
  dsimp only
  rw [hcad]
  dsimp only
  rw [hf]
  refine schedule_of_current (a := { a with cadence := some { c with stopping := true } }) ?_ hq hr
  rw [getPart_replyRun, getPart_modPart, if_pos rfl, found]
  rfl

theorem cadenceStop_refused (hc : Commands p h s a j) (hcad : a.cadence = none) :
    Delivers (.cadenceStop p h) s (fun u v => v = replyRun p h 2 0 0 u) := by
  refine delivers_act hc.1 rfl fun u acc => ?_
  rw [jobPart_accepted acc, jobPart_of_job hc]
  dsimp only
  rw [hcad]
  rfl

end

/-! ## A window opens -/

/-- The cadence after its next window has opened (R163). -/
def windowOpened (c : Cadence) : Cadence := { c with nextK := c.nextK + 1, started := true }

/-- The record of a partition with a cadence. -/
def withCadence (c : Cadence) (a : Part) : Part := { a with cadence := some c }

/-- The state in which a window that has just opened is decided. -/
def windowState (part : Nat) (c : Cadence) (s : State) : State :=
  syncPulse (0x80 + part) (modCadence part (fun (b : Cadence) => { b with nextK := c.nextK + 1, started := true })
    (advanceTo (windowAt c c.nextK).toNat s))

/-- What an open window's decision reads. -/
structure Opened (part : Nat) (a : Part) (c : Cadence) (s u : State) : Prop where
  record : getPart u part = some (withCadence (windowOpened c) a)
  time : windowAt c c.nextK ≤ (now u : Int)
  events : u.events = s.events
  mesh : u.mesh = s.mesh
  holds : testHolds u part = testHolds s part
  regs : u.regs = s.regs
  lease : u.lease = s.lease

theorem getPart_modCadence {p : Nat} {s : State} {a : Part} {c : Cadence} (ha : getPart s p = some a) (hc : a.cadence = some c)
    (g : Cadence → Cadence) : getPart (modCadence p g s) p = some (withCadence (g c) a) := by
  unfold modCadence
  rw [getPart_modPart, if_pos rfl, ha, Option.map_some, hc]
  rfl

theorem opened_windowState {part : Nat} {s : State} {a : Part} {c : Cadence} (ha : getPart s part = some a) (hc : a.cadence = some c) :
    Opened part a c s (windowState part c s) := by
  have time := (now_advanceTo (windowAt c c.nextK).toNat s).1
  have kept := (advanceTo_keeps (windowAt c c.nextK).toNat s).only
  unfold windowState
  generalize advanceTo (windowAt c c.nextK).toNat s = w at time kept
  have late := ((((modCadence_keeps part (fun (b : Cadence) => { b with nextK := c.nextK + 1, started := true }) w).mono rfl).step
    (syncPulse_keeps (0x80 + part) _) rfl : Keeps [.parts, .pilot] w _)).only
  have found : getPart w part = some a := (getPart_congr (kept .parts rfl) part).trans ha
  have counted := getPart_modCadence found hc (fun (b : Cadence) => { b with nextK := c.nextK + 1, started := true })
  have same : now (syncPulse (0x80 + part) (modCadence part (fun (b : Cadence) => { b with nextK := c.nextK + 1, started := true }) w)) = now w :=
    congrArg (fun t : TimeS => t.refCycles * 64) (late .time rfl)
  refine ⟨(getPart_congr ((syncPulse_keeps ..).only .parts rfl) part).trans counted, ?_, (late .events rfl).trans (kept .events rfl),
    (late .mesh rfl).trans (kept .mesh rfl), ?_, (late .regs rfl).trans (kept .regs rfl), (late .lease rfl).trans (kept .lease rfl)⟩
  · rw [same]
    omega
  · unfold testHolds holder getFld
    rw [late .test rfl, kept .test rfl, late .fld rfl, kept .fld rfl]

theorem exec_cadenceWindow {part : Nat} {s : State} {a : Part} {c : Cadence} (ha : getPart s part = some a) (hc : a.cadence = some c)
    (ht : c.w0Tick = false) (hs : c.stopping = false) :
    exec (.cadenceWindow part) s = .next (
      if a.current.isSome || c.frameK.isSome || !c.undecided.isEmpty || !s.mesh.routingReady || testHolds s part then
        schedule part (modCadence part (fun (c' : Cadence) => { c' with undecided := c'.undecided ++ [c.nextK] }) (windowState part c s))
      else schedule part (decideFrame part c.nextK (windowState part c s))) := by
  have ready := opened_windowState ha hc
  have cadence : (getPart s part).bind Part.cadence = some c := by
    rw [ha]
    exact hc
  have opened : exec (.cadenceWindow part) s = .next ((getPart (windowState part c s) part).elim (windowState part c s) (fun b =>
      if b.current.isSome || c.frameK.isSome || !c.undecided.isEmpty || !(windowState part c s).mesh.routingReady
          || testHolds (windowState part c s) part then
        schedule part (modCadence part (fun (c' : Cadence) => { c' with undecided := c'.undecided ++ [c.nextK] }) (windowState part c s))
      else schedule part (decideFrame part c.nextK (windowState part c s)))) := by
    show execCadenceWindow part s = _
    unfold execCadenceWindow
    rw [cadence]
    dsimp only
    rw [ht, hs, if_neg (by decide)]
    unfold windowState
    congr 1
    split
    · next h => rw [h]; rfl
    · next b h => rw [h]; rfl
  rw [opened, ready.record, Option.elim_some, ready.mesh, ready.holds]
  rfl

section
variable {part : Nat} {s : State} {a : Part} {c : Cadence}

theorem cadenceWindow_waits (ha : getPart s part = some a) (hc : a.cadence = some c) (ht : c.w0Tick = false) (hs : c.stopping = false)
    (hq : a.queue = []) (hr : a.current.isSome = true) :
    Completes (.cadenceWindow part) s (fun t =>
      windowAt c c.nextK ≤ (now t : Int) ∧ t.events = s.events ∧
      getPart t part = some { a with
        cadence := some { c with nextK := c.nextK + 1, started := true, undecided := c.undecided ++ [c.nextK] } }) := by
  have step := exec_cadenceWindow ha hc ht hs
  have opened := opened_windowState ha hc
  generalize windowState part c s = u at step opened
  have waits := getPart_modCadence opened.record rfl (fun (c' : Cadence) => { c' with undecided := c'.undecided ++ [c.nextK] })
  rw [hr, Bool.true_or, Bool.true_or, Bool.true_or, Bool.true_or, if_pos rfl, schedule_of_current waits hq hr] at step
  refine completes_of_exec step ⟨?_, ?_, waits⟩
  · have same : now (modCadence part (fun (c' : Cadence) => { c' with undecided := c'.undecided ++ [c.nextK] }) u) = now u :=
      congrArg (fun t : TimeS => t.refCycles * 64) ((modCadence_keeps ..).only .time rfl)
    rw [same]
    exact opened.time
  · exact Eq.trans ((modCadence_keeps ..).only .events rfl) opened.events

/-- A partition whose next window can be decided when it opens (R165). -/
structure Idle (part : Nat) (s : State) (a : Part) (c : Cadence) : Prop where
  found : getPart s part = some a
  cadence : a.cadence = some c
  grid : c.w0Tick = false
  queue : a.queue = []
  free : a.current = none
  between : Between c
  ready : s.mesh.routingReady = true
  untested : testHolds s part = false

/-- The frame of the next window fits before the window after it, or may be late (R165). -/
def frameFits (part : Nat) (s : State) (c : Cadence) : Prop :=
  frameStart c c.nextK < windowAt c (c.nextK + 1) ∧
  (frameStart c c.nextK + (c.estimate * 10 : Nat) ≤ windowAt c (c.nextK + 1) ∨ setting s 0x2D12 (part + 1) = 1)

theorem exec_cadenceWindow_idle (hi : Idle part s a c) :
    exec (.cadenceWindow part) s = .next (schedule part (decideFrame part c.nextK (windowState part c s))) := by
  rw [exec_cadenceWindow hi.found hi.cadence hi.grid hi.between.going, hi.free, hi.between.frame, hi.between.decided, hi.ready, hi.untested]
  rfl

theorem decideFrame_opened {u : State} (hu : Opened part a c s u) :
    decideFrame part c.nextK u =
      if frameStart c c.nextK ≥ windowAt c (c.nextK + 1) ∨
          (frameStart c c.nextK + (c.estimate * 10 : Nat) > windowAt c (c.nextK + 1) ∧ !(setting s 0x2D12 (part + 1) == 1)) then
        raise (evPart u 0x382 0 part c.nextK) (modPart part (fun a => { a with framesDropped := a.framesDropped + 1 }) u)
      else
        nextFrameSection part (modCadence part (fun c' => { c' with frameK := some c.nextK, frameLeft := c'.sections, started := true }) u) := by
  have cadence : (getPart u part).bind Part.cadence = some (windowOpened c) := by
    rw [hu.record]
    rfl
  have late : setting u 0x2D12 (part + 1) = setting s 0x2D12 (part + 1) := by
    unfold setting reg
    rw [hu.regs]
  unfold decideFrame
  rw [cadence, late]
  rfl

theorem not_frameFits : ¬frameFits part s c ↔ (frameStart c c.nextK ≥ windowAt c (c.nextK + 1) ∨
    (frameStart c c.nextK + (c.estimate * 10 : Nat) > windowAt c (c.nextK + 1) ∧ (!(setting s 0x2D12 (part + 1) == 1)) = true)) := by
  unfold frameFits
  simp only [not_and_or, not_or, Int.not_lt, Int.not_le, ge_iff_le, gt_iff_lt, Bool.not_eq_true', beq_eq_false_iff_ne, ne_eq]

theorem cadenceWindow_drops (hi : Idle part s a c) (hf : ¬frameFits part s c) :
    Completes (.cadenceWindow part) s (fun t =>
      windowAt c c.nextK ≤ (now t : Int) ∧
      getPart t part = some { a with cadence := some (windowOpened c), framesDropped := a.framesDropped + 1 } ∧
      Raised (evPart s 0x382 0 part c.nextK) s t) := by
  have step := exec_cadenceWindow_idle hi
  have opened := opened_windowState hi.found hi.cadence
  generalize windowState part c s = u at step opened
  rw [decideFrame_opened opened, if_pos (not_frameFits.mp hf)] at step
  have event : evPart u 0x382 0 part c.nextK = evPart s 0x382 0 part c.nextK := by
    unfold evPart activeCtl
    rw [opened.lease, opened.record, hi.found]
    rfl
  have dropped : getPart (raise (evPart u 0x382 0 part c.nextK) (modPart part (fun a => { a with framesDropped := a.framesDropped + 1 }) u)) part =
      some { a with cadence := some (windowOpened c), framesDropped := a.framesDropped + 1 } := by
    rw [getPart_raise, getPart_modPart, if_pos rfl, opened.record]
    rfl
  rw [schedule_of_between (c := windowOpened c) dropped hi.queue hi.free rfl
    ⟨hi.between.left, hi.between.frame, hi.between.going, hi.between.decided⟩] at step
  refine completes_of_exec step ⟨?_, dropped, ?_⟩
  · rw [now_raise, now_modPart]
    exact opened.time
  · rw [event]
    exact raise_events _ ((modPart_events ..).trans opened.events)

/-- The record of a partition whose run has just started (R158). -/
def runStarted (n : Nat) (x : Section) (frame : Bool) (t : Nat) (a : Part) : Part :=
  { a with current := some { number := n, sec := x.number, startedAt := t, frame := frame }, queue := a.queue.filter (fun q => q.number != n)
           still := [], hangTimer := none, lastSec := x.number, prevSec := a.lastSec }

theorem startRun_starts {s : State} {a : Part} (ha : getPart s part = some a) (n : Nat) (x : Section) (frame : Bool) :
    ∃ b, getPart (startRun part n x frame s) part = some b ∧ untimed b = untimed (runStarted n x frame (now s) a) := by
  have begun : getPart (modPart part (runStarted n x frame (now s)) s) part = some (runStarted n x frame (now s) a) := by
    rw [getPart_modPart, if_pos rfl, ha]
    rfl
  have told (d : Nat) (l : List Nat) (s : State) :
      SameJobs s (l.foldl (fun s k => sendSection d k 0 (modTile k (fun t => { t with run := .loading }) s)) s) :=
    .foldl (fun s k => (SameJobs.of_keeps (modTile_keeps ..)).trans (sameJobs_sendSection ..)) l s
  exact (told _ x.sites _).getPart_some begun

theorem cadenceWindow_starts {n : Nat} {rest : List Nat} {x : Section} (hi : Idle part s a c) (hf : frameFits part s c)
    (hsec : c.sections = n :: rest) (hx : sectionOf a n = some x) :
    Completes (.cadenceWindow part) s (fun t =>
      windowAt c c.nextK ≤ (now t : Int) ∧ t.events = s.events ∧ ∃ b, getPart t part = some b ∧
        untimed b = untimed (runStarted a.nextRun x true (now t) (withCadence { windowOpened c with frameK := some c.nextK, frameLeft := rest }
          { a with nextRun := a.nextRun + 1 }))) := by
  have step := exec_cadenceWindow_idle hi
  have opened := opened_windowState hi.found hi.cadence
  generalize windowState part c s = u at step opened
  rw [decideFrame_opened opened, if_neg (fun h => not_frameFits.mpr h hf)] at step
  have framed := getPart_modCadence opened.record rfl (fun c' => { c' with frameK := some c.nextK, frameLeft := c'.sections, started := true })
  have wkept := (modCadence_keeps part (fun c' => { c' with frameK := some c.nextK, frameLeft := c'.sections, started := true }) u).only
  generalize modCadence part (fun c' => { c' with frameK := some c.nextK, frameLeft := c'.sections, started := true }) u = w at step framed wkept
  have chosen : nextFrameSection part w = startRun part a.nextRun x true
      (modCadence part (fun c => { c with frameLeft := rest }) (modPart part (fun b => { b with nextRun := a.nextRun + 1 }) w)) := by
    unfold nextFrameSection
    rw [framed]
    dsimp only [withCadence]
    rw [hi.free]
    dsimp only [windowOpened]
    rw [hsec]
    dsimp only
    unfold sectionOf at hx
    rw [hx]
  have numbered : getPart (modPart part (fun b => { b with nextRun := a.nextRun + 1 }) w) part =
      some { withCadence { windowOpened c with frameK := some c.nextK, frameLeft := c.sections } a with nextRun := a.nextRun + 1 } := by
    rw [getPart_modPart, if_pos rfl, framed]
    rfl
  have left := getPart_modCadence numbered rfl (fun c => { c with frameLeft := rest })
  have vkept := ((modPart_keeps part (fun b => { b with nextRun := a.nextRun + 1 }) w).step
    (modCadence_keeps part (fun c => { c with frameLeft := rest }) _) rfl).only
  rw [chosen] at step
  generalize modCadence part (fun c => { c with frameLeft := rest }) (modPart part (fun b => { b with nextRun := a.nextRun + 1 }) w) = v
    at step left vkept
  obtain ⟨b, hb, same⟩ := startRun_starts left a.nextRun x true
  have run : b.current = some { number := a.nextRun, sec := x.number, startedAt := now v, frame := true } := congrArg Part.current same
  have queue : b.queue = [] := by
    have filtered : b.queue = a.queue.filter (fun q => q.number != a.nextRun) := congrArg Part.queue same
    rw [filtered, hi.queue]
    rfl
  have skept := (startRun_keeps part a.nextRun x true v).only
  rw [schedule_of_current hb queue (by rw [run]; rfl)] at step
  have time : now (startRun part a.nextRun x true v) = now v := congrArg (fun t : TimeS => t.refCycles * 64) (skept .time rfl)
  have clock : now v = now u :=
    congrArg (fun t : TimeS => t.refCycles * 64) ((vkept .time rfl).trans (wkept .time rfl))
  refine completes_of_exec step ⟨?_, ?_, b, hb, ?_⟩
  · rw [time, clock]
    exact opened.time
  · exact (skept .events rfl).trans ((vkept .events rfl).trans ((wkept .events rfl).trans opened.events))
  · rw [time]
    exact same

end

/-- Settles O42: a window is decided on the record that its opening leaves, and the scheduler then has nothing to choose. -/
theorem cadenceFramesFollowTheGrid : Obligations.CadenceFramesFollowTheGrid := by
  unfold Obligations.CadenceFramesFollowTheGrid
  intro s
  refine ⟨fun p h a j r hc => ⟨fun hg => ?_, cadenceAdmit_refused hc⟩, fun p h a j c hc hcad =>
    ⟨fun hf hq => cadenceStop_between hc hcad hf hq, fun hf hq hr => cadenceStop_running hc hcad hf hq hr⟩,
    fun p h a j hc hcad => cadenceStop_refused hc hcad, fun part a c ha hcad ht hs hq => ⟨cadenceWindow_waits ha hcad ht hs hq, ?_⟩,
    fun c k => ⟨fun he => ?_, fun e he => ?_⟩⟩
  · refine delivers_imp (cadenceAdmit_admits hc hg) fun u v made => ?_
    obtain ⟨late, found⟩ := made
    exact ⟨late, _, _, found, rfl, rfl, rfl, rfl, rfl, rfl, rfl, rfl, fun hstart => if_neg hstart, rfl, rfl, rfl, rfl, rfl, rfl⟩
  · intro hr hf hu hl _ hready htest
    have idle : Idle part s a c := ⟨ha, hcad, ht, hq, hr, ⟨hl, hf, hs, hu⟩, hready, htest⟩
    refine ⟨cadenceWindow_drops idle, fun n rest x hfits hsec hx => ?_⟩
    refine completes_imp (cadenceWindow_starts idle hfits hsec hx) fun t made => ?_
    obtain ⟨time, events, b, hb, same⟩ := made
    have kept {α : Type} (g : Part → α) (hg : ∀ a, g (untimed a) = g a) : g b = g (runStarted a.nextRun x true (now t)
        (withCadence { windowOpened c with frameK := some c.nextK, frameLeft := rest } { a with nextRun := a.nextRun + 1 })) := by
      rw [← hg b, same, hg]
    exact ⟨time, events, b, hb, kept Part.current fun _ => rfl, kept Part.nextRun fun _ => rfl, kept Part.lastSec fun _ => rfl,
      kept Part.prevSec fun _ => rfl, kept Part.cadence fun _ => rfl⟩
  · unfold frameStart
    rw [he]
  · unfold frameStart
    rw [he]

end Sys2Proof.Machine
end

section
/-!
PROOF. Rules for tiles, their cells and generators, and for reads of the stores (R67): what each operation leaves of them.
-/

namespace Sys2Proof.Machine

open Sys2Proof

/-! ## Reads of tiles -/

theorem getTile_congr {s t : State} (h : t.tiles = s.tiles) (k : Nat) : getTile t k = getTile s k := by
  unfold getTile
  rw [h]

theorem getCC_of_tile {s t : State} {k : Nat} (h : getTile t k = getTile s k) (i : Nat) : getCC t k i = getCC s k i := by
  unfold getCC
  rw [h]

theorem getAG_of_tile {s t : State} {k : Nat} (h : getTile t k = getTile s k) (g : Nat) : getAG t k g = getAG s k g := by
  unfold getAG
  rw [h]

theorem getCC_congr {s t : State} (h : t.tiles = s.tiles) (k i : Nat) : getCC t k i = getCC s k i := getCC_of_tile (getTile_congr h k) i

theorem getAG_congr {s t : State} (h : t.tiles = s.tiles) (k g : Nat) : getAG t k g = getAG s k g := getAG_of_tile (getTile_congr h k) g

theorem running_congr {s t : State} (hf : t.fld = s.fld) (hp : t.parts = s.parts) (k : Nat) : running t k = running s k := by
  unfold running siteHolder holder
  rw [getFld_congr hf, funext (getPart_congr hp)]

/-- What a running section's tile is told of its partition (R140). -/
structure Runs (s : State) (k p : Nat) (a : Part) (c : Current) (r : Section) : Prop where
  holder : siteHolder s k = some p
  part : getPart s p = some a
  current : a.current = some c
  record : sectionOf a c.sec = some r

theorem runs_of_running {s : State} {k p : Nat} {a : Part} {c : Current} {r : Section} (h : running s k = some (p, a, c, r)) :
    Runs s k p a c r := by
  unfold running at h
  split at h
  · cases h
  · next q hq =>
    split at h
    · cases h
    · next b hb =>
      split at h
      · cases h
      · next d hd =>
        obtain ⟨x, hx, he⟩ := Option.map_eq_some_iff.mp h
        cases he
        exact ⟨hq, hb, hd, hx⟩

/-! ## Reads of the stores -/

/-- A tile but its counts of corrected errors (R205). -/
def uncounted (t : Tile) : Tile := { t with corrected := 0, correctedHour := 0 }

/-- The corrected errors of some bytes of a site have been counted (R67, R205). -/
structure ReadOf (k : Nat) (s t : State) : Prop where
  only : Only [.fld, .events, .tiles, .ecc] s t
  own : uncounted (getTile t k) = uncounted (getTile s k)
  others : ∀ j, j ≠ k → getTile t j = getTile s j
  doubles : ∀ w, amFind t.ecc w = some .double → amFind s.ecc w = some .double
  owners : ∀ f, (getFld t f).owner = (getFld s f).owner

theorem ReadOf.refl (k : Nat) (s : State) : ReadOf k s s := ⟨(Keeps.refl _ s).only, rfl, fun _ _ => rfl, fun _ h => h, fun _ => rfl⟩

theorem ReadOf.trans {k : Nat} {s t u : State} (a : ReadOf k s t) (b : ReadOf k t u) : ReadOf k s u where
  only := a.only.trans b.only
  own := b.own.trans a.own
  others j hj := (b.others j hj).trans (a.others j hj)
  doubles w h := a.doubles w (b.doubles w h)
  owners f := (b.owners f).trans (a.owners f)

theorem readOf_correctedCounted (k : Nat) (s : State) : ReadOf k s (correctedCounted k s) where
  only := (((modTile_keeps ..).mono rfl : Keeps [.fld, .events, .tiles, .ecc] _ _).step (modFld_keeps ..) rfl).only
  own := by
    unfold correctedCounted
    rw [getTile_modFld, getTile_modTile, if_pos rfl]
    rfl
  others j hj := by
    unfold correctedCounted
    rw [getTile_modFld, getTile_modTile, if_neg hj]
  doubles _ h := h
  owners f := by
    unfold correctedCounted
    rw [getFld_modFld]
    split
    · next h => rw [h]; rfl
    · rfl

theorem readOf_raise (k : Nat) (e : EvReq) (s : State) : ReadOf k s (raise e s) where
  only := (raise_keeps e s).only.mono rfl
  own := by rw [getTile_raise]
  others j _ := by rw [getTile_raise]
  doubles w h := by rwa [raise_ecc] at h
  owners f := by rw [getFld_raise]

theorem readOf_countCorrected (k : Nat) (s : State) : ReadOf k s (countCorrected k s) := by
  rw [countCorrected_eq]
  split
  · exact (readOf_correctedCounted k s).trans (readOf_raise k _ _)
  · exact readOf_correctedCounted k s

theorem readOf_marked (k w : Nat) (s : State) : ReadOf k s { s with ecc := amSet s.ecc w .counted } := by
  refine ⟨?_, rfl, fun _ _ => rfl, fun x h => ?_, fun _ => rfl⟩
  · intro r hr
    cases r <;> first | rfl | exact absurd hr (by decide)
  · rw [amFind_amSet] at h
    split at h
    · cases h
    · exact h

theorem readOf_touchRead {k key n : Nat} (h : ∀ w ∈ wordKeys key n, w / 0x80000 = k) (s : State) : ReadOf k s (touchRead key n s) := by
  unfold touchRead
  generalize wordKeys key n = l at h
  induction l generalizing s with
  | nil => exact .refl k s
  | cons w l ih =>
    obtain ⟨hw, hl⟩ := List.forall_mem_cons.mp h
    rw [List.foldl_cons]
    refine ReadOf.trans ?_ (ih _ hl)
    split
    · rw [hw]
      exact (readOf_marked k w s).trans (readOf_countCorrected k _)
    · exact .refl k s

theorem ReadOf.hasDouble {k : Nat} {s t : State} (h : ReadOf k s t) {key n : Nat} (hd : hasDouble s key n = false) :
    hasDouble t key n = false := by
  unfold Machine.hasDouble at hd ⊢
  rw [List.any_eq_false] at hd ⊢
  intro w hw hdw
  exact hd w hw (by rw [beq_iff_eq] at hdw ⊢; exact h.doubles w hdw)

theorem ReadOf.running {k : Nat} {s t : State} (h : ReadOf k s t) (j : Nat) : Machine.running t j = Machine.running s j := by
  unfold Machine.running siteHolder holder
  rw [h.owners, funext (getPart_congr (h.only .parts rfl))]

/-- The words of an overlay's bytes lie in its site. -/
theorem wordKeys_overlay {k addr n w : Nat} (h : addr + n ≤ 2097152) (hw : w ∈ wordKeys (memKey k 0 0 addr) n) : w / 0x80000 = k := by
  have base : memKey k 0 0 addr = k * 0x400000 + 0 + addr := rfl
  rw [base] at hw
  unfold wordKeys at hw
  split at hw
  · cases hw
  · obtain ⟨i, hi, rfl⟩ := List.mem_map.mp hw
    have low := List.mem_range.mp hi
    omega

/-! ## Cells written in turn -/

/-- Each cell of a list written once (R158). -/
theorem getCC_modCCs (k : Nat) (g : Nat → CC → CC) {l : List Nat} (hl : l.Nodup) (s : State) (x y : Nat) :
    getCC (l.foldl (fun s i => modCC k i (g i) s) s) x y = if x = k ∧ y ∈ l then g y (getCC s k y) else getCC s x y := by
  induction l generalizing s with
  | nil => simp
  | cons i l ih =>
    obtain ⟨hi, hl⟩ := List.nodup_cons.mp hl
    rw [List.foldl_cons, ih hl, getCC_modCC, getCC_modCC]
    by_cases hx : x = k
    · subst hx
      by_cases hy : y = i
      · subst hy
        simp [hi]
      · simp [hy]
    · simp [hx]

theorem getAG_modAGs (k : Nat) (f : State → Nat → AG) (hf : ∀ g h s, f (modAG k g h s) = f s) {l : List Nat} (hl : l.Nodup) (s : State)
    (x y : Nat) :
    getAG (l.foldl (fun s g => modAG k g (fun _ => f s g) s) s) x y = if x = k ∧ y ∈ l then f s y else getAG s x y := by
  induction l generalizing s with
  | nil => simp
  | cons g l ih =>
    obtain ⟨hg, hl⟩ := List.nodup_cons.mp hl
    rw [List.foldl_cons, ih hl, hf, getAG_modAG]
    by_cases hx : x = k
    · subst hx
      by_cases hy : y = g
      · subst hy
        simp [hg]
      · simp [hy]
    · simp [hx]

/-- A tile of which nothing but compute cells has changed. -/
structure CellsOf (k : Nat) (s t : State) : Prop where
  only : Only [.tiles] s t
  own : { getTile t k with cc := [] } = { getTile s k with cc := [] }
  others : ∀ j, j ≠ k → getTile t j = getTile s j

theorem cellsOf_modCC (k i : Nat) (g : CC → CC) (s : State) : CellsOf k s (modCC k i g s) where
  only := (modCC_keeps ..).only
  own := by
    unfold modCC
    rw [getTile_modTile, if_pos rfl]
  others j hj := by
    unfold modCC
    rw [getTile_modTile, if_neg hj]

theorem cellsOf_modCCs (k : Nat) (g : Nat → CC → CC) (l : List Nat) (s : State) : CellsOf k s (l.foldl (fun s i => modCC k i (g i) s) s) := by
  induction l generalizing s with
  | nil => exact ⟨(Keeps.refl _ s).only, rfl, fun _ _ => rfl⟩
  | cons i l ih =>
    have first := cellsOf_modCC k i (g i) s
    have rest := ih (modCC k i (g i) s)
    exact ⟨first.only.trans rest.only, rest.own.trans first.own, fun j hj => (rest.others j hj).trans (first.others j hj)⟩

/-- A tile of which nothing but generators has changed. -/
structure GeneratorsOf (k : Nat) (s t : State) : Prop where
  only : Only [.tiles] s t
  own : { getTile t k with ag := [] } = { getTile s k with ag := [] }
  others : ∀ j, j ≠ k → getTile t j = getTile s j

theorem generatorsOf_modAG (k i : Nat) (g : AG → AG) (s : State) : GeneratorsOf k s (modAG k i g s) where
  only := (modAG_keeps ..).only
  own := by
    unfold modAG
    rw [getTile_modTile, if_pos rfl]
  others j hj := by
    unfold modAG
    rw [getTile_modTile, if_neg hj]

theorem generatorsOf_modAGs (k : Nat) (f : State → Nat → AG → AG) (l : List Nat) (s : State) :
    GeneratorsOf k s (l.foldl (fun s g => modAG k g (f s g) s) s) := by
  induction l generalizing s with
  | nil => exact ⟨(Keeps.refl _ s).only, rfl, fun _ _ => rfl⟩
  | cons i l ih =>
    have first := generatorsOf_modAG k i (f s i) s
    have rest := ih (modAG k i (f s i) s)
    exact ⟨first.only.trans rest.only, rest.own.trans first.own, fun j hj => (rest.others j hj).trans (first.others j hj)⟩

end Sys2Proof.Machine
end

section
/-!
PROOF. A tile's part in a run (R144, R147, R158 to R162): it loads its record and starts, reports that it has finished, and stops.
-/

namespace Sys2Proof.Machine

open Sys2Proof

/-! ## The load of a tile -/

/-- The configuration of a compute cell in its tile's record (R144). -/
def cellWords (k : Nat) (r : Section) (s : State) (i : Nat) : List Word32 := overlayWords s k (r.base + 96 * i) 24

/-- The compute cells switched to their records (R152, R158). -/
def cellsSwitched (k : Nat) (r : Section) (s : State) : State :=
  (List.range 3).foldl (fun s' i => modCC k i (switchCC (((List.range 3).map (cellWords k r s)).getD i []) r.number) s') s

/-- A generator switched to its record (R73, R213). -/
def generatorWords (k : Nat) (r : Section) (s : State) (g : Nat) : AG :=
  switchAG (overlayWords s k (r.base + 288 + 64 * g) 16) (amGet r.rings (k * 4 + g) (0, 0, 0))

/-- Cells and generators switched to their records (R158). -/
def agentsSwitched (k : Nat) (r : Section) (s : State) : State :=
  (List.range 4).foldl (fun s g => modAG k g (fun _ => generatorWords k r s g) s) (cellsSwitched k r s)

/-- A tile that has loaded its record runs (R158). -/
def tileStarted (r : Section) (t : Tile) : Tile := { t with run := .running, base := r.base }

theorem loadTile_clean {k : Nat} {r : Section} {s : State}
    (h : hasDouble (touchRead (memKey k 0 0 r.base) (r.recLen * 256) s) (memKey k 0 0 r.base) (r.recLen * 256) = false) :
    ∃ w, Only [.mem, .ecc] (agentsSwitched k r (touchRead (memKey k 0 0 r.base) (r.recLen * 256) s)) w ∧
      loadTile k r s = modTile k (tileStarted r) (countAccess k 0 r.recLen w) := by
  have stored (f : Nat → Nat) (g : Nat → Nat → State → Nat × List Byte) (l : List Nat) (acc : Nat × State) : Only [.mem, .ecc] acc.2
      (l.foldl (fun (acc : Nat × State) i => (acc.1 + f i, if f i = 0 then acc.2 else
        writeBytes (g i acc.1 acc.2).1 (g i acc.1 acc.2).2 acc.2)) acc).2 := by
    induction l generalizing acc with
    | nil => exact (Keeps.refl _ acc.2).only
    | cons i l ih =>
      refine Only.trans ?_ (ih _)
      dsimp only
      split
      · exact (Keeps.refl _ acc.2).only
      · exact (writeBytes_keeps ..).only
  unfold loadTile
  extract_lets len t
  have clean : hasDouble t (memKey k 0 0 r.base) len = false := h
  rw [clean, if_neg Bool.false_ne_true]
  refine ⟨_, stored (fun i => if ccClass (((List.range 3).map (cellWords k r t)).getD i []) = 0 then 0
      else constLines (((List.range 3).map (cellWords k r t)).getD i []) * 64)
    (fun i n s => (memKey k 2 i (ccConstLine (((List.range 3).map (cellWords k r t)).getD i []) * 64), readBytes s (memKey k 0 0 (r.base + n))
      (if ccClass (((List.range 3).map (cellWords k r t)).getD i []) = 0 then 0
        else constLines (((List.range 3).map (cellWords k r t)).getD i []) * 64))) (List.range 3) (544, agentsSwitched k r t), rfl⟩

/-- A tile u that has loaded its record of a section, from s (R144, R158). -/
structure TileLoaded (k : Nat) (r : Section) (s u : State) : Prop where
  base : (getTile u k).base = r.base
  cells : ∀ i, i < 3 → getCC u k i = switchCC (cellWords k r s i) r.number (getCC s k i)
  generators : ∀ g, g < 4 → getAG u k g = generatorWords k r s g
  others : ∀ j, j ≠ k → getTile u j = getTile s j
  run : (getTile u k).run = .running
  held : (getTile u k).heldOps = (getTile s k).heldOps

theorem overlayWords_congr {s t : State} (h : t.mem = s.mem) (k addr n : Nat) : overlayWords t k addr n = overlayWords s k addr n := by
  unfold overlayWords readBytes
  rw [h]

theorem agentsSwitched_only (k : Nat) (r : Section) (s : State) : Only [.tiles] s (agentsSwitched k r s) := by
  have cells := (cellsOf_modCCs k (fun i => switchCC (((List.range 3).map (cellWords k r s)).getD i []) r.number) (List.range 3) s).only
  have generators := (generatorsOf_modAGs k (fun s g _ => generatorWords k r s g) (List.range 4) (cellsSwitched k r s)).only
  exact cells.trans generators

theorem getCC_agentsSwitched {k i : Nat} (hi : i < 3) (r : Section) (s : State) :
    getCC (agentsSwitched k r s) k i = switchCC (cellWords k r s i) r.number (getCC s k i) := by
  have generators := generatorsOf_modAGs k (fun s g _ => generatorWords k r s g) (List.range 4) (cellsSwitched k r s)
  have cc : (getTile (agentsSwitched k r s) k).cc = (getTile (cellsSwitched k r s) k).cc :=
    (congrArg Tile.cc generators.own : ({ getTile (agentsSwitched k r s) k with ag := [] } : Tile).cc = _)
  have words : ((List.range 3).map (cellWords k r s)).getD i [] = cellWords k r s i := by
    rw [List.getD_eq_getElem?_getD, List.getElem?_map, List.getElem?_range hi]
    rfl
  have same : getCC (agentsSwitched k r s) k i = getCC (cellsSwitched k r s) k i := by
    unfold getCC
    rw [cc]
  rw [same]
  unfold cellsSwitched
  rw [getCC_modCCs k (fun i => switchCC (((List.range 3).map (cellWords k r s)).getD i []) r.number) List.nodup_range, words,
    if_pos ⟨rfl, List.mem_range.mpr hi⟩]

theorem getAG_agentsSwitched {k g : Nat} (hg : g < 4) (r : Section) (s : State) :
    getAG (agentsSwitched k r s) k g = generatorWords k r s g := by
  have cells := (cellsOf_modCCs k (fun i => switchCC (((List.range 3).map (cellWords k r s)).getD i []) r.number) (List.range 3) s).only
  have mem : (cellsSwitched k r s).mem = s.mem := cells .mem rfl
  unfold agentsSwitched
  rw [getAG_modAGs k (generatorWords k r) (fun _ _ _ => rfl) List.nodup_range, if_pos ⟨rfl, List.mem_range.mpr hg⟩]
  unfold generatorWords
  rw [overlayWords_congr mem]

theorem getTile_agentsSwitched (k : Nat) (r : Section) (s : State) :
    { getTile (agentsSwitched k r s) k with cc := [], ag := [] } = { getTile s k with cc := [], ag := [] } ∧
    ∀ j, j ≠ k → getTile (agentsSwitched k r s) j = getTile s j := by
  have cells := cellsOf_modCCs k (fun i => switchCC (((List.range 3).map (cellWords k r s)).getD i []) r.number) (List.range 3) s
  have generators := generatorsOf_modAGs k (fun s g _ => generatorWords k r s g) (List.range 4) (cellsSwitched k r s)
  refine ⟨?_, fun j hj => (generators.others j hj).trans (cells.others j hj)⟩
  exact (congrArg (fun t : Tile => { t with cc := [] }) generators.own).trans (congrArg (fun t : Tile => { t with ag := [] }) cells.own)

/-- A clean record is loaded (R144, R158). -/
theorem loadTile_loads {k : Nat} {r : Section} {s : State} (hb : r.base + r.recLen * 256 ≤ 2097152)
    (hd : hasDouble s (memKey k 0 0 r.base) (r.recLen * 256) = false) :
    TileLoaded k r s (loadTile k r s) ∧ (loadTile k r s).parts = s.parts := by
  have read := readOf_touchRead (k := k) (key := memKey k 0 0 r.base) (n := r.recLen * 256) (fun w hw => wordKeys_overlay hb hw) s
  obtain ⟨w, stored, made⟩ := loadTile_clean (read.hasDouble hd)
  generalize touchRead (memKey k 0 0 r.base) (r.recLen * 256) s = t at read stored
  have counted := (countAccess_keeps k 0 r.recLen w).only
  have switched := agentsSwitched_only k r t
  have tiles : (countAccess k 0 r.recLen w).tiles = (agentsSwitched k r t).tiles := (counted .tiles rfl).trans (stored .tiles rfl)
  obtain ⟨own, others⟩ := getTile_agentsSwitched k r t
  have tmem : t.mem = s.mem := read.only .mem rfl
  have cells (i : Nat) : getCC t k i = getCC s k i := by
    have cc : (getTile t k).cc = (getTile s k).cc := (congrArg Tile.cc read.own : (uncounted (getTile t k)).cc = (uncounted (getTile s k)).cc)
    unfold getCC
    rw [cc]
  have tile (j : Nat) : getTile (modTile k (tileStarted r) (countAccess k 0 r.recLen w)) j =
      if j = k then tileStarted r (getTile (agentsSwitched k r t) k) else getTile (agentsSwitched k r t) j := by
    rw [getTile_modTile, getTile_congr tiles, getTile_congr tiles]
  have parts : (modTile k (tileStarted r) (countAccess k 0 r.recLen w)).parts = s.parts :=
    (counted .parts rfl).trans ((stored .parts rfl).trans ((switched .parts rfl).trans (read.only .parts rfl)))
  rw [made]
  refine ⟨⟨?_, fun i hi => ?_, fun g hg => ?_, fun j hj => ?_, ?_, ?_⟩, parts⟩
  · rw [tile, if_pos rfl]
    rfl
  · have same : getCC (modTile k (tileStarted r) (countAccess k 0 r.recLen w)) k i = getCC (agentsSwitched k r t) k i := by
      unfold getCC
      rw [tile, if_pos rfl]
      rfl
    rw [same, getCC_agentsSwitched hi, cells]
    unfold cellWords
    rw [overlayWords_congr tmem]
  · have same : getAG (modTile k (tileStarted r) (countAccess k 0 r.recLen w)) k g = getAG (agentsSwitched k r t) k g := by
      unfold getAG
      rw [tile, if_pos rfl]
      rfl
    rw [same, getAG_agentsSwitched hg]
    unfold generatorWords
    rw [overlayWords_congr tmem]
  · rw [tile, if_neg hj, others j hj, read.others j hj]
  · rw [tile, if_pos rfl]
    rfl
  · have held : (getTile (agentsSwitched k r t) k).heldOps = (getTile t k).heldOps :=
      (congrArg Tile.heldOps own : ({ getTile (agentsSwitched k r t) k with cc := [], ag := [] } : Tile).heldOps = _)
    have before : (getTile t k).heldOps = (getTile s k).heldOps :=
      (congrArg Tile.heldOps read.own : (uncounted (getTile t k)).heldOps = (uncounted (getTile s k)).heldOps)
    rw [tile, if_pos rfl]
    exact held.trans before

/-! ## The start of a tile -/

/-- A run with a tile more that has loaded (R158). -/
def loadedToo (k : Nat) (a : Part) : Part := { a with current := a.current.map (fun (c : Current) => { c with loaded := c.loaded ++ [k] }) }

/-- The state from which a tile loads: its start message has landed and its load is noted (R158). -/
def startLanded (k p : Nat) (c : Current) (r : Section) (s : State) : State :=
  modPart p (loadedToo k) (if c.loaded.isEmpty then setBounds r (landSection k 0 s) else landSection k 0 s)

theorem exec_sectionStart {x y p : Nat} {a : Part} {c : Current} {r : Section} {s : State} (h : running s (siteKey x y) = some (p, a, c, r))
    (hl : (getTile s (siteKey x y)).run = .loading) (hr : siteKey x y ∈ r.sites) :
    exec (.sectionStart x y) s =
      .next (doneTry (siteKey x y) (deliverAll (siteKey x y) (loadTile (siteKey x y) r (startLanded (siteKey x y) p c r s)))) := by
  have landed := (landSection_keeps (siteKey x y) 0 s).only
  have same : running (landSection (siteKey x y) 0 s) (siteKey x y) = some (p, a, c, r) :=
    (running_congr (landed .fld rfl) (landed .parts rfl) _).trans h
  have loading : (getTile (landSection (siteKey x y) 0 s) (siteKey x y)).run = .loading := by
    rw [getTile_congr (landed .tiles rfl)]
    exact hl
  have mapped : r.sites.contains (siteKey x y) = true := by simpa using hr
  have go : ¬((getTile (landSection (siteKey x y) 0 s) (siteKey x y)).run ≠ .loading ∨ (!r.sites.contains (siteKey x y)) = true) := by
    rw [loading, mapped]
    decide
  show execSectionStart x y s = _
  unfold execSectionStart
  dsimp only
  rw [same]
  dsimp only
  rw [if_neg go]
  rfl

theorem setBounds_only (r : Section) (s : State) : Only [.crest] s (setBounds r s) := by
  have crest (l : List (Nat × Nat)) (s : State) : Only [.crest] s
      (l.foldl (fun s e => setCtr (.crest e.1) { getCtr s (.crest e.1) with bound := BitVec.ofNat 16 e.2 } s) s) := by
    induction l generalizing s with
    | nil => exact (Keeps.refl _ s).only
    | cons e l ih =>
      have first : Only [.crest] s (setCtr (.crest e.1) { getCtr s (.crest e.1) with bound := BitVec.ofNat 16 e.2 } s) := by
        intro q hq
        cases q <;> first | rfl | exact absurd hq (by decide)
      exact first.trans (ih _)
  exact crest r.counters s

theorem startLanded_only (k p : Nat) (c : Current) (r : Section) (s : State) : Only [.parts, .mesh, .crest] s (startLanded k p c r s) := by
  have landed : Only [.parts, .mesh, .crest] s (landSection k 0 s) := (landSection_keeps k 0 s).only.mono rfl
  unfold startLanded
  refine Only.trans ?_ ((modPart_keeps ..).only.mono rfl)
  split
  · exact landed.trans ((setBounds_only r _).mono rfl)
  · exact landed

theorem getPart_startLanded {k p : Nat} {a : Part} {c : Current} (r : Section) {s : State} (ha : getPart s p = some a) :
    getPart (startLanded k p c r s) p = some (loadedToo k a) := by
  have landed : (landSection k 0 s).parts = s.parts := (landSection_keeps k 0 s).only .parts rfl
  have before : (if c.loaded.isEmpty then setBounds r (landSection k 0 s) else landSection k 0 s).parts = s.parts := by
    split
    · exact ((setBounds_only r _) .parts rfl).trans landed
    · exact landed
  unfold startLanded
  rw [getPart_modPart, if_pos rfl, getPart_congr before, ha]
  rfl

/-- A loaded tile in its run, from s (R158). -/
structure LoadedInRun (k p : Nat) (c : Current) (r : Section) (s u : State) : Prop where
  base : (getTile u k).base = r.base
  cells : ∀ i, i < 3 → getCC u k i = switchCC (cellWords k r s i) r.number (getCC s k i)
  generators : ∀ g, g < 4 → getAG u k g = generatorWords k r s g
  others : ∀ j, j ≠ k → getTile u j = getTile s j
  run : ∃ b d, getPart u p = some b ∧ b.current = some d ∧ d.loaded = c.loaded ++ [k] ∧ d.number = c.number

theorem loadTile_inRun {k p : Nat} {a : Part} {c : Current} {r : Section} {s : State} (h : running s k = some (p, a, c, r))
    (hb : r.base + r.recLen * 256 ≤ 2097152) (hd : hasDouble s (memKey k 0 0 r.base) (r.recLen * 256) = false) :
    LoadedInRun k p c r s (loadTile k r (startLanded k p c r s)) ∧ (getTile (loadTile k r (startLanded k p c r s)) k).run = .running ∧
    (getTile (loadTile k r (startLanded k p c r s)) k).heldOps = (getTile s k).heldOps := by
  have runs := runs_of_running h
  have landed := startLanded_only k p c r s
  have tiles : (startLanded k p c r s).tiles = s.tiles := landed .tiles rfl
  have mem : (startLanded k p c r s).mem = s.mem := landed .mem rfl
  have clean : hasDouble (startLanded k p c r s) (memKey k 0 0 r.base) (r.recLen * 256) = false := by
    unfold hasDouble at hd ⊢
    rw [landed .ecc rfl]
    exact hd
  obtain ⟨loaded, parts⟩ := loadTile_loads hb clean
  refine ⟨⟨loaded.base, fun i hi => ?_, fun g hg => ?_, fun j hj => ?_, loadedToo k a, { c with loaded := c.loaded ++ [k] }, ?_, ?_, rfl, rfl⟩,
    loaded.run, ?_⟩
  · rw [loaded.cells i hi, getCC_congr tiles]
    unfold cellWords
    rw [overlayWords_congr mem]
  · rw [loaded.generators g hg]
    unfold generatorWords
    rw [overlayWords_congr mem]
  · rw [loaded.others j hj, getTile_congr tiles]
  · rw [getPart_congr parts]
    exact getPart_startLanded r runs.part
  · unfold loadedToo
    rw [runs.current]
    rfl
  · rw [loaded.held, getTile_congr tiles]

/-! ## A tile that has nothing left to do -/

/-- What a send leaves of a partition's run (R227). -/
theorem current_send (m : MeshMsg) (s : State) (p : Nat) :
    (getPart (send m s) p).map Part.current = (getPart s p).map Part.current := by
  have kept := congrArg (Option.map Part.current) ((sameJobs_send m s).parts p)
  rw [Option.map_map, Option.map_map] at kept
  exact kept

theorem doneTry_cases (k : Nat) (s : State) :
    doneTry k s = s ∨ ∃ m, doneTry k s = send m (modTile k (fun (t : Tile) => { t with run := .finished }) s) := by
  unfold doneTry
  split
  · exact .inl rfl
  · split
    · exact .inr ⟨_, rfl⟩
    · exact .inl rfl

theorem LoadedInRun.of_tiles {k p : Nat} {c : Current} {r : Section} {s u t : State} (h : LoadedInRun k p c r s u)
    (hb : (getTile t k).base = (getTile u k).base) (hc : (getTile t k).cc = (getTile u k).cc) (hg : (getTile t k).ag = (getTile u k).ag)
    (ho : ∀ j, j ≠ k → getTile t j = getTile u j) (hp : (getPart t p).map Part.current = (getPart u p).map Part.current) :
    LoadedInRun k p c r s t := by
  refine ⟨hb.trans h.base, fun i hi => ?_, fun g hg' => ?_, fun j hj => (ho j hj).trans (h.others j hj), ?_⟩
  · rw [← h.cells i hi]
    unfold getCC
    rw [hc]
  · rw [← h.generators g hg']
    unfold getAG
    rw [hg]
  · obtain ⟨b, d, found, current, loaded, number⟩ := h.run
    rw [found, Option.map_some, current] at hp
    obtain ⟨e, he, same⟩ := Option.map_eq_some_iff.mp hp
    exact ⟨e, d, he, same, loaded, number⟩

theorem doneTry_loaded {k p : Nat} {c : Current} {r : Section} {s u : State} (h : LoadedInRun k p c r s u)
    (hr : (getTile u k).run = .running) :
    ((getTile (doneTry k u) k).run = .running ∨ (getTile (doneTry k u) k).run = .finished) ∧ LoadedInRun k p c r s (doneTry k u) := by
  obtain same | ⟨m, sent⟩ := doneTry_cases k u
  · rw [same]
    exact ⟨.inl hr, h⟩
  · have tile (j : Nat) : getTile (doneTry k u) j = if j = k then { getTile u k with run := .finished } else getTile u j := by
      rw [sent, getTile_congr ((send_keeps ..).only .tiles rfl), getTile_modTile]
    refine ⟨.inr ?_, h.of_tiles ?_ ?_ ?_ (fun j hj => ?_) ?_⟩
    · rw [tile, if_pos rfl]
    · rw [tile, if_pos rfl]
    · rw [tile, if_pos rfl]
    · rw [tile, if_pos rfl]
    · rw [tile, if_neg hj]
    · rw [sent, current_send]
      rfl

theorem deliverAll_of_counters {k : Nat} {s : State} (h : ∀ o ∈ (getTile s k).heldOps, isCtrInstr o = true) :
    deliverAll k s = modTile k (fun (t : Tile) => { t with heldOps := t.heldOps.filter isCtrInstr }) s := by
  have none' : (getTile s k).heldOps.filter (fun i => !isCtrInstr i) = [] :=
    List.filter_eq_nil_iff.mpr fun o ho => by rw [h o ho]; decide
  unfold deliverAll
  rw [none']
  rfl

theorem deliverAll_loaded {k p : Nat} {c : Current} {r : Section} {s u : State} (h : LoadedInRun k p c r s u)
    (hr : (getTile u k).run = .running) (ho : ∀ o ∈ (getTile u k).heldOps, isCtrInstr o = true) :
    LoadedInRun k p c r s (deliverAll k u) ∧ (getTile (deliverAll k u) k).run = .running := by
  rw [deliverAll_of_counters ho]
  refine ⟨h.of_tiles ?_ ?_ ?_ (fun j hj => ?_) rfl, ?_⟩
  · rw [getTile_modTile, if_pos rfl]
  · rw [getTile_modTile, if_pos rfl]
  · rw [getTile_modTile, if_pos rfl]
  · rw [getTile_modTile, if_neg hj]
  · rw [getTile_modTile, if_pos rfl]
    exact hr

/-! ## A tile that has finished -/

/-- A run with a tile more that has finished (R158). -/
def finishedToo (done : List Nat) (a : Part) : Part := { a with current := a.current.map (fun (c : Current) => { c with finished := done }) }

theorem exec_sectionDone {x y p : Nat} {a : Part} {c : Current} {r : Section} {s : State} (h : running s (siteKey x y) = some (p, a, c, r))
    (hf : (getTile s (siteKey x y)).run = .finished) (hr : siteKey x y ∈ r.sites) (hn : siteKey x y ∉ c.finished) :
    exec (.sectionDone x y) s = .next (
      if r.sites.all (fun j => (c.finished ++ [siteKey x y]).contains j) then
        completeRun p (modPart p (finishedToo (c.finished ++ [siteKey x y])) (landDone (siteKey x y) s))
      else modPart p (finishedToo (c.finished ++ [siteKey x y])) (landDone (siteKey x y) s)) := by
  have go : ¬((getTile s (siteKey x y)).run ≠ .finished ∨ (!r.sites.contains (siteKey x y)) = true ∨ c.finished.contains (siteKey x y) = true) := by
    simp [hf, hr, hn]
  show execSectionDone x y s = _
  unfold execSectionDone
  dsimp only
  rw [h]
  dsimp only
  rw [if_neg go]
  rfl

theorem landDone_only (k : Nat) (s : State) : Only [.mesh] s (landDone k s) := (leaveMesh_keeps ..).only

theorem sectionDone_waits {x y p : Nat} {a : Part} {c : Current} {r : Section} {s : State} (h : running s (siteKey x y) = some (p, a, c, r))
    (hf : (getTile s (siteKey x y)).run = .finished) (hr : siteKey x y ∈ r.sites) (hn : siteKey x y ∉ c.finished)
    (hw : ∃ j ∈ r.sites, j ≠ siteKey x y ∧ j ∉ c.finished) :
    Completes (.sectionDone x y) s (fun t =>
      getPart t p = some { a with current := some { c with finished := c.finished ++ [siteKey x y] } } ∧ t.tiles = s.tiles ∧
      t.events = s.events) := by
  have runs := runs_of_running h
  have landed := landDone_only (siteKey x y) s
  have all : ¬r.sites.all (fun j => (c.finished ++ [siteKey x y]).contains j) = true := by
    obtain ⟨j, hj, hne, hnot⟩ := hw
    intro done
    have here := List.all_eq_true.mp done j hj
    simp [hne, hnot] at here
  have step := exec_sectionDone h hf hr hn
  rw [if_neg all] at step
  refine completes_of_exec step ⟨?_, ?_, ?_⟩
  · rw [getPart_modPart, if_pos rfl, getPart_congr (landed .parts rfl), runs.part, Option.map_some]
    unfold finishedToo
    rw [runs.current]
    rfl
  · exact (modPart_tiles ..).trans (landed .tiles rfl)
  · exact (modPart_events ..).trans (landed .events rfl)

/-- Tiles written in turn to be idle (R158). -/
theorem getTile_idled (l : List Nat) (s : State) (j : Nat) :
    getTile (l.foldl (fun s k => modTile k (fun t => { t with run := .idle }) s) s) j =
      if j ∈ l then { getTile s j with run := .idle } else getTile s j := by
  induction l generalizing s with
  | nil => simp
  | cons k l ih =>
    rw [List.foldl_cons, ih, getTile_modTile]
    by_cases hj : j = k
    · subst hj
      simp
    · simp [hj]

theorem idled_parts (l : List Nat) (s : State) : (l.foldl (fun s k => modTile k (fun t => { t with run := .idle }) s) s).parts = s.parts := by
  induction l generalizing s with
  | nil => rfl
  | cons k l ih => exact ih _

/-- The record of a partition whose run has completed (R158). -/
def runOver (a : Part) : Part := { a with current := none, hangTimer := none, still := [] }

theorem endFrame_of_none {p : Nat} {s : State} {a : Part} (ha : getPart s p = some a) (hc : a.cadence = none) : endFrame p s = s := by
  unfold endFrame
  rw [ha, Option.bind_some, hc]

theorem completeRun_completes {p : Nat} {s : State} {a : Part} {c : Current} (ha : getPart s p = some a) (hc : a.current = some c)
    (hq : a.queue = []) (hcad : a.cadence = none) :
    completeRun p s = endRun p c.number 0 0 (modPart p runOver
      ((sitesOf a c.sec).foldl (fun s k => modTile k (fun t => { t with run := .idle }) s) s)) := by
  have cleared : getPart (modPart p runOver ((sitesOf a c.sec).foldl (fun s k => modTile k (fun t => { t with run := .idle }) s) s)) p =
      some (runOver a) := by
    rw [getPart_modPart, if_pos rfl, getPart_congr (idled_parts ..), ha]
    rfl
  have ended := getPart_endRun cleared c.number 0 0
  unfold completeRun
  rw [ha]
  dsimp only
  rw [hc]
  dsimp only
  rw [hcad]
  change schedule p (if _ then endFrame p (endRun p c.number 0 0 (modPart p runOver _)) else endRun p c.number 0 0 (modPart p runOver _)) = _
  rw [endFrame_of_none ended hcad, ite_self]
  refine schedule_of_idle fun b hb => ?_
  rw [ended] at hb
  cases hb
  exact ⟨hq, hcad⟩

theorem mem_runEnded (n status code : Nat) (a : Part) : (n, status, code) ∈ (runEnded n status code a).ended := by
  have low : a.ended.length + 1 - 256 ≤ a.ended.length := by omega
  unfold runEnded
  generalize a.ended.length + 1 - 256 = m at low
  rw [List.drop_append_of_le_length low]
  exact List.mem_append_right _ List.mem_cons_self

theorem sectionDone_completes {x y p : Nat} {a : Part} {c : Current} {r : Section} {s : State}
    (h : running s (siteKey x y) = some (p, a, c, r)) (hf : (getTile s (siteKey x y)).run = .finished) (hr : siteKey x y ∈ r.sites)
    (hn : siteKey x y ∉ c.finished) (hw : ∀ j ∈ r.sites, j = siteKey x y ∨ j ∈ c.finished) (hq : a.queue = []) (hcad : a.cadence = none) :
    Completes (.sectionDone x y) s (fun t =>
      (∃ b, getPart t p = some b ∧ b.current = none ∧ (c.number, 0, 0) ∈ b.ended ∧ b.hangTimer = none) ∧
      (∀ j ∈ sitesOf a c.sec, (getTile t j).run = .idle)) := by
  have runs := runs_of_running h
  have landed := landDone_only (siteKey x y) s
  have all : r.sites.all (fun j => (c.finished ++ [siteKey x y]).contains j) = true := by
    refine List.all_eq_true.mpr fun j hj => ?_
    obtain h | h := hw j hj
    · simp [h]
    · simp [h]
  have step := exec_sectionDone h hf hr hn
  rw [if_pos all] at step
  have reported : getPart (modPart p (finishedToo (c.finished ++ [siteKey x y])) (landDone (siteKey x y) s)) p =
      some { a with current := some { c with finished := c.finished ++ [siteKey x y] } } := by
    rw [getPart_modPart, if_pos rfl, getPart_congr (landed .parts rfl), runs.part, Option.map_some]
    unfold finishedToo
    rw [runs.current]
    rfl
  have done := completeRun_completes reported rfl hq hcad
  rw [done] at step
  have cleared : getPart (modPart p runOver ((sitesOf { a with current := some { c with finished := c.finished ++ [siteKey x y] } } c.sec).foldl
      (fun s k => modTile k (fun t => { t with run := .idle }) s)
      (modPart p (finishedToo (c.finished ++ [siteKey x y])) (landDone (siteKey x y) s)))) p =
      some (runOver { a with current := some { c with finished := c.finished ++ [siteKey x y] } }) := by
    rw [getPart_modPart, if_pos rfl, getPart_congr (idled_parts ..), reported]
    rfl
  refine completes_of_exec step ⟨⟨_, getPart_endRun cleared c.number 0 0, rfl, mem_runEnded .., rfl⟩, fun j hj => ?_⟩
  rw [getTile_congr ((endRun_keeps ..).only .tiles rfl), getTile_congr (modPart_tiles ..), getTile_idled]
  exact congrArg Tile.run (if_pos hj)

/-! ## A tile that is aborted -/

theorem exec_sectionAbort (x y : Nat) (s : State) : exec (.sectionAbort x y) s = .next
    ((running (landSection (siteKey x y) 2 s) (siteKey x y)).elim
      (modTile (siteKey x y) (fun (t : Tile) => { t with run := .stopped }) (landSection (siteKey x y) 2 s))
      (fun e => if e.2.2.2.sites.contains (siteKey x y) then landSection (siteKey x y) 2 s
        else modTile (siteKey x y) (fun (t : Tile) => { t with run := .stopped }) (landSection (siteKey x y) 2 s))) := by
  show execSectionAbort x y s = _
  unfold execSectionAbort
  dsimp only
  cases running (landSection (siteKey x y) 2 s) (siteKey x y) with
  | none => rfl
  | some e => rfl

theorem running_landSection (k code : Nat) (s : State) : running (landSection k code s) k = running s k :=
  running_congr ((landSection_keeps ..).only .fld rfl) ((landSection_keeps ..).only .parts rfl) k

theorem sectionAbort_stops {x y : Nat} {s : State}
    (h : ∀ p a c r, running s (siteKey x y) = some (p, a, c, r) → siteKey x y ∉ r.sites) :
    Completes (.sectionAbort x y) s (fun t =>
      getTile t (siteKey x y) = { getTile s (siteKey x y) with run := .stopped } ∧ ∀ j, j ≠ siteKey x y → getTile t j = getTile s j) := by
  have tiles : (landSection (siteKey x y) 2 s).tiles = s.tiles := (landSection_keeps ..).only .tiles rfl
  have step := exec_sectionAbort x y s
  have stops : exec (.sectionAbort x y) s =
      .next (modTile (siteKey x y) (fun (t : Tile) => { t with run := .stopped }) (landSection (siteKey x y) 2 s)) := by
    rw [step, running_landSection]
    cases hr : running s (siteKey x y) with
    | none => rfl
    | some e =>
      have outside : ¬e.2.2.2.sites.contains (siteKey x y) = true := by simpa using h e.1 e.2.1 e.2.2.1 e.2.2.2 hr
      rw [Option.elim_some, if_neg outside]
  refine completes_of_exec stops ⟨?_, fun j hj => ?_⟩
  · rw [getTile_modTile, if_pos rfl, getTile_congr tiles]
  · rw [getTile_modTile, if_neg hj, getTile_congr tiles]

theorem sectionAbort_inside {x y p : Nat} {a : Part} {c : Current} {r : Section} {s : State}
    (h : running s (siteKey x y) = some (p, a, c, r)) (hr : siteKey x y ∈ r.sites) :
    Completes (.sectionAbort x y) s (fun t => t.tiles = s.tiles) := by
  have inside : r.sites.contains (siteKey x y) = true := by simpa using hr
  have step := exec_sectionAbort x y s
  rw [running_landSection, h, Option.elim_some, if_pos inside] at step
  exact completes_of_exec step ((landSection_keeps ..).only .tiles rfl)

/-- Settles O43: a tile's start is followed through the load of its record, and its end through the switch barrier. -/
theorem tilesStartFinishAndAbortARun : Obligations.TilesStartFinishAndAbortARun := by
  unfold Obligations.TilesStartFinishAndAbortARun
  intro x y s k
  refine ⟨fun p a c r h hl hr hb hd => ?_, fun p a c r h hf hr hn => ⟨sectionDone_waits h hf hr hn, sectionDone_completes h hf hr hn⟩,
    fun h => sectionAbort_stops fun p a c r hr => ?_, fun p a c r h hr => sectionAbort_stops fun p' a' c' r' h' => ?_,
    fun p a c r h hr => sectionAbort_inside h hr⟩
  · obtain ⟨loaded, running', held⟩ := loadTile_inRun h hb hd
    have facts {u : State} (hu : LoadedInRun k p c r s u) : (getTile u k).base = r.base ∧
        (∀ i, i < 3 → (getCC u k i).cfg = overlayWords s k (r.base + 96 * i) 24 ∧ (getCC u k i).curSection = r.number ∧
          (getCC u k i).current = {} ∧ (getCC u k i).previous = (getCC s k i).current ∧
          (getCC u k i).prevSection = (getCC s k i).curSection ∧ (getCC u k i).slots = [] ∧ (getCC u k i).stopped = false) ∧
        (∀ g, g < 4 → (getAG u k g).cfg = overlayWords s k (r.base + 288 + 64 * g) 16 ∧ (getAG u k g).next = 0 ∧
          (getAG u k g).finished = false) ∧
        (∀ j, j ≠ k → getTile u j = getTile s j) ∧
        ∃ b d, getPart u p = some b ∧ b.current = some d ∧ d.loaded = c.loaded ++ [k] ∧ d.number = c.number := by
      refine ⟨hu.base, fun i hi => ?_, fun g hg => ?_, hu.others, hu.run⟩
      · rw [hu.cells i hi]
        exact ⟨rfl, rfl, rfl, rfl, rfl, rfl, rfl⟩
      · rw [hu.generators g hg]
        exact ⟨rfl, rfl, rfl⟩
    refine completes_of_exec (exec_sectionStart h hl hr) ⟨⟨_, facts loaded, running', held, rfl⟩, fun ho => ?_⟩
    obtain ⟨delivered, still⟩ := deliverAll_loaded loaded running' (by rw [held]; exact ho)
    obtain ⟨state, after⟩ := doneTry_loaded delivered still
    exact ⟨state, facts after⟩
  · have none' : running s k = none := h
    rw [none'] at hr
    cases hr
  · have same : running s k = some (p, a, c, r) := h
    rw [same] at h'
    cases h'
    exact hr

end Sys2Proof.Machine
end

section
/-!
PROOF. What counters, the ends of jobs and cell faults leave of the agents of the tiles (R85, R86, R161, R222): a stopped cell stays
stopped.
-/

namespace Sys2Proof.Machine

open Sys2Proof

/-- The agents of every tile are the same. -/
structure SameAgents (s t : State) : Prop where
  cells : ∀ k, (getTile t k).cc = (getTile s k).cc
  generators : ∀ k, (getTile t k).ag = (getTile s k).ag

namespace SameAgents

variable {s t u : State}

theorem refl (s : State) : SameAgents s s := ⟨fun _ => rfl, fun _ => rfl⟩

theorem trans (a : SameAgents s t) (b : SameAgents t u) : SameAgents s u :=
  ⟨fun k => (b.cells k).trans (a.cells k), fun k => (b.generators k).trans (a.generators k)⟩

theorem of_tiles (h : t.tiles = s.tiles) : SameAgents s t :=
  ⟨fun k => by rw [getTile_congr h], fun k => by rw [getTile_congr h]⟩

theorem of_keeps {w : List Region} (h : Keeps w s t) (hw : (!w.contains .tiles) = true := by rfl) : SameAgents s t :=
  of_tiles (h.only .tiles (by simpa using hw))

theorem of_modTile (k : Nat) {g : Tile → Tile} (s : State) (hc : ∀ t, (g t).cc = t.cc) (hg : ∀ t, (g t).ag = t.ag) :
    SameAgents s (modTile k g s) := by
  refine ⟨fun j => ?_, fun j => ?_⟩
  · rw [getTile_modTile]
    split
    · next h => rw [h, hc]
    · rfl
  · rw [getTile_modTile]
    split
    · next h => rw [h, hg]
    · rfl

theorem ite {c : Prop} [Decidable c] (a : SameAgents s t) (b : SameAgents s u) : SameAgents s (if c then t else u) := by
  split <;> assumption

theorem foldl {α : Type} {g : State → α → State} (hg : ∀ s a, SameAgents s (g s a)) (l : List α) (s : State) :
    SameAgents s (l.foldl g s) := by
  induction l generalizing s with
  | nil => exact refl s
  | cons a l ih => exact (hg s a).trans (ih _)

theorem getCC (h : SameAgents s t) (k i : Nat) : Machine.getCC t k i = Machine.getCC s k i := by
  unfold Machine.getCC
  rw [h.cells]

theorem getAG (h : SameAgents s t) (k g : Nat) : Machine.getAG t k g = Machine.getAG s k g := by
  unfold Machine.getAG
  rw [h.generators]

end SameAgents

theorem sameAgents_setCtr (key : CtrKey) (v : Counter) (s : State) : SameAgents s (setCtr key v s) := by
  cases key with
  | tile k i => exact .of_modTile k s (fun _ => rfl) fun _ => rfl
  | crest i => exact .of_tiles rfl

theorem sameAgents_applyCtr (op n : Nat) (key : CtrKey) (s : State) : SameAgents s (applyCtr op n key s).2 := by
  have counted (ev : Option (Nat × Nat × Nat)) (v : Counter) : SameAgents s (match ev with
      | some (code, kind, detail) => raise (evCtr (setCtr key v s) code kind key detail) (setCtr key v s)
      | none => setCtr key v s) := by
    split
    · exact (sameAgents_setCtr key v s).trans (.of_keeps (raise_keeps ..))
    · exact sameAgents_setCtr key v s
  unfold applyCtr
  dsimp only
  refine SameAgents.trans ?_ (.of_keeps (fireWatches_keeps ..))
  split
  · exact (counted _ _).trans (.of_keeps (modPart_keeps ..))
  · exact (counted _ _).trans (.of_keeps (modPart_keeps ..))
  · exact counted _ _

theorem sameAgents_performCtr (op n : Nat) (h : Head) (m : CtrMsg) (key : CtrKey) (s : State) : SameAgents s (performCtr op n h m key s) := by
  unfold performCtr
  dsimp only
  split
  · exact (SameAgents.of_keeps (raise_keeps ..)).trans (.of_keeps (ackCtr_keeps ..))
  · exact (sameAgents_applyCtr ..).trans (.of_keeps (ackCtr_keeps ..))

theorem sameAgents_performHostCtr (op n : Nat) (p : Pkt) (h : Hdr) (key : CtrKey) (s : State) :
    SameAgents s (performHostCtr op n p h key s) :=
  (sameAgents_applyCtr op n key s).trans (.of_keeps (replySync_keeps ..))

theorem sameAgents_applyHeld (i : Instr) (s : State) : SameAgents s (applyHeld i s) := by
  unfold applyHeld
  split
  case h_1 | h_2 | h_3 | h_4 | h_5 => exact sameAgents_performCtr ..
  case h_6 | h_7 | h_8 | h_9 | h_10 =>
    split
    · exact sameAgents_performHostCtr ..
    · exact .of_keeps (replySync_keeps ..)
  case h_11 =>
    dsimp only
    exact ((sameAgents_applyCtr ..).trans (.of_keeps (modPart_keeps ..))).trans (.of_keeps (replySync_keeps ..))
  case h_12 => exact .refl s

theorem sameAgents_unfreeze (p : Nat) (s : State) : SameAgents s (unfreeze p s) := by
  have held (l : List Instr) (s : State) : SameAgents s (l.foldl (fun s i => applyHeld i s) s) := .foldl (fun s i => sameAgents_applyHeld i s) l s
  unfold unfreeze
  split
  · exact .refl s
  · dsimp only
    refine SameAgents.trans (SameAgents.trans (.of_keeps (modPart_keeps ..)) (SameAgents.foldl (fun s k => ?_) _ _)) (held _ _)
    exact (SameAgents.of_modTile k (g := fun t => { t with heldOps := t.heldOps.filter (fun i => !isCtrInstr i) }) s (fun _ => rfl)
      fun _ => rfl).trans (held _ _)

theorem sameAgents_closeJob (p : Nat) (s : State) : SameAgents s (closeJob p s) := by
  have answered (l : List HostOp) (d : Nat) (s : State) :
      SameAgents s (l.foldl (fun s o => replySyncTo o.node d o.tag 2 0 0 0 0 s) s) :=
    .foldl (fun s o => .of_keeps (replySyncTo_keeps ..)) l s
  have refused (l : List Commit) (s : State) : SameAgents s (l.foldl (fun s (c : Commit) =>
      sendPkt c.node c.domain 0x3F (runReply c.tag 2 0 0xFFFF 0xFFFF 0xFF 0xFF 0) s) s) :=
    .foldl (fun s c => .of_keeps (sendPkt_keeps ..)) l s
  have stamped : SameAgents s (stopStamp p .closed s) := .of_keeps (modPart_keeps ..)
  unfold closeJob
  split
  · exact .refl s
  · next a _ =>
    split
    · exact .refl s
    · have told := (stamped.trans (answered a.hostOps a.domain _)).trans (refused a.commits _)
      exact (((told.trans (.of_keeps (modPart_keeps ..))).trans (sameAgents_unfreeze ..)).trans
        (.of_keeps (dropWatches_keeps ..))).trans (.of_keeps (modPart_keeps ..))

/-! ## Stopped agents -/

/-- A compute cell is stopped and its table is empty (R85). -/
def CellStopped (k i : Nat) (s : State) : Prop := (getCC s k i).stopped = true ∧ (getCC s k i).slots = []

/-- A generator is stopped (R86). -/
def GeneratorStopped (k g : Nat) (s : State) : Prop := (getAG s k g).stopped = true

/-- A tile as an abort leaves it (R161). -/
def tileAborted (t : Tile) : Tile :=
  { t with run := .stopped, cc := amMap t.cc (fun _ c => { resetCC c with stopped := true })
           ag := amMap t.ag (fun _ g => { resetAG g with stopped := true }), heldOps := t.heldOps.filter isCtrInstr }

theorem CellStopped.same {k i : Nat} {s t : State} (h : CellStopped k i s) (a : SameAgents s t) : CellStopped k i t := by
  unfold CellStopped
  rw [a.getCC]
  exact h

theorem GeneratorStopped.same {k g : Nat} {s t : State} (h : GeneratorStopped k g s) (a : SameAgents s t) : GeneratorStopped k g t := by
  unfold GeneratorStopped
  rw [a.getAG]
  exact h

theorem CellStopped.aborted {k i : Nat} {s : State} (h : CellStopped k i s) (j : Nat) : CellStopped k i (modTile j tileAborted s) := by
  by_cases hj : k = j
  · subst hj
    have cell : getCC (modTile k tileAborted s) k i = amGet (amMap (getTile s k).cc (fun _ c => { resetCC c with stopped := true })) i {} := by
      unfold getCC
      rw [getTile_modTile, if_pos rfl]
      rfl
    obtain ⟨stopped, -⟩ := h
    unfold CellStopped
    unfold getCC amGet at stopped
    rw [cell]
    unfold amGet
    rw [amFind_amMap]
    cases hf : amFind (getTile s k).cc i with
    | none => rw [hf] at stopped; exact absurd stopped (by decide)
    | some c => exact ⟨rfl, rfl⟩
  · have same : getCC (modTile j tileAborted s) k i = getCC s k i := getCC_of_tile (by rw [getTile_modTile, if_neg hj]) i
    unfold CellStopped
    rw [same]
    exact h

theorem GeneratorStopped.aborted {k g : Nat} {s : State} (h : GeneratorStopped k g s) (j : Nat) :
    GeneratorStopped k g (modTile j tileAborted s) := by
  by_cases hj : k = j
  · subst hj
    have generator : getAG (modTile k tileAborted s) k g = amGet (amMap (getTile s k).ag (fun _ g => { resetAG g with stopped := true })) g {} := by
      unfold getAG
      rw [getTile_modTile, if_pos rfl]
      rfl
    unfold GeneratorStopped at h ⊢
    unfold getAG amGet at h
    rw [generator]
    unfold amGet
    rw [amFind_amMap]
    cases hf : amFind (getTile s k).ag g with
    | none => rw [hf] at h; exact absurd h (by decide)
    | some a => rfl
  · have same : getAG (modTile j tileAborted s) k g = getAG s k g := getAG_of_tile (by rw [getTile_modTile, if_neg hj]) g
    unfold GeneratorStopped
    rw [same]
    exact h

/-- What stays of the agents through messages and through the abort of a tile stays through the abort of a run (R161). -/
theorem abortRun_keeps_agents {P : State → Prop} (hsame : ∀ s t, SameAgents s t → P s → P t) (habort : ∀ s j, P s → P (modTile j tileAborted s))
    (p code : Nat) {s : State} (h : P s) : P (abortRun p code s) := by
  have tiles (d : Nat) (l : List Nat) (s : State) (hs : P s) :
      P (l.foldl (fun s k => sendSection d k 2 (modTile k tileAborted s)) s) := by
    induction l generalizing s with
    | nil => exact hs
    | cons k l ih => exact ih _ (hsame _ _ (.of_keeps (sendSection_keeps ..)) (habort s k hs))
  have notified (a : Part) (l : List Run) (s : State) : SameAgents s (l.foldl (fun s (r : Run) => runNotify a 4 0 r.number s) s) :=
    .foldl (fun s r => .of_keeps (runNotify_keeps ..)) l s
  unfold abortRun
  split
  · exact h
  · next a _ =>
    split
    · exact h
    · refine hsame _ _ (SameAgents.trans (.of_keeps (modPart_keeps ..)) (sameAgents_closeJob ..)) ?_
      refine hsame _ _ (SameAgents.ite (.refl _) (.of_keeps (spreadAbort_keeps ..))) ?_
      refine tiles a.domain _ _ (hsame _ _ (notified a _ _) ?_)
      split
      · exact hsame _ _ (.of_keeps (runNotify_keeps ..)) h
      · exact h

theorem CellStopped.abortRun {k i : Nat} {s : State} (h : CellStopped k i s) (p code : Nat) : CellStopped k i (abortRun p code s) :=
  abortRun_keeps_agents (P := CellStopped k i) (fun _ _ a h => h.same a) (fun _ j h => h.aborted j) p code h

theorem GeneratorStopped.abortRun {k g : Nat} {s : State} (h : GeneratorStopped k g s) (p code : Nat) :
    GeneratorStopped k g (abortRun p code s) :=
  abortRun_keeps_agents (P := GeneratorStopped k g) (fun _ _ a h => h.same a) (fun _ j h => h.aborted j) p code h

/-- The state of a cell fault before the run that contains the cell is aborted (R85). -/
def faultNoted (k slot g code : Nat) (s : State) : State :=
  let s := raise (evCell s code 1 ⟨siteX k, siteY k, slot⟩ 0) s
  if slot < 3 then modCC k slot (fun c => { c with slots := [], stopped := true }) s
  else if g < 4 then modAG k g (fun a => { a with stopped := true }) s else s

theorem cellFault_cases (k slot g code : Nat) (s : State) :
    cellFault k slot g code s = faultNoted k slot g code s ∨
    ∃ p, cellFault k slot g code s = abortRun p 0x40 (faultNoted k slot g code s) := by
  have unfolded : cellFault k slot g code s = (running (faultNoted k slot g code s) k).elim (faultNoted k slot g code s) (fun e =>
      if e.2.2.2.sites.contains k then abortRun e.1 0x40 (faultNoted k slot g code s) else faultNoted k slot g code s) := by
    unfold cellFault
    dsimp only
    split
    · next h =>
      rw [show running (faultNoted k slot g code s) k = _ from h]
      rfl
    · next h =>
      rw [show running (faultNoted k slot g code s) k = _ from h]
      rfl
  rw [unfolded]
  cases running (faultNoted k slot g code s) k with
  | none => exact .inl rfl
  | some e =>
    rw [Option.elim_some]
    split
    · exact .inr ⟨_, rfl⟩
    · exact .inl rfl

/-- A faulty compute cell is stopped and discards its tags (R85, R86). -/
theorem cellFault_stops_cell {k slot : Nat} (hs : slot < 3) (g code : Nat) (s : State) : CellStopped k slot (cellFault k slot g code s) := by
  have noted : CellStopped k slot (faultNoted k slot g code s) := by
    unfold faultNoted CellStopped
    dsimp only
    rw [if_pos hs, getCC_modCC, if_pos ⟨rfl, rfl⟩]
    exact ⟨rfl, rfl⟩
  obtain h | ⟨p, h⟩ := cellFault_cases k slot g code s
  · rw [h]
    exact noted
  · rw [h]
    exact noted.abortRun p 0x40

/-- A generator of a faulty memory cell is stopped (R86). -/
theorem cellFault_stops_generator {k slot g : Nat} (hs : 3 ≤ slot) (hg : g < 4) (code : Nat) (s : State) :
    GeneratorStopped k g (cellFault k slot g code s) := by
  have noted : GeneratorStopped k g (faultNoted k slot g code s) := by
    unfold faultNoted GeneratorStopped
    dsimp only
    rw [if_neg (Nat.not_lt.mpr hs), if_pos hg, getAG_modAG, if_pos ⟨rfl, rfl⟩]
  obtain h | ⟨p, h⟩ := cellFault_cases k slot g code s
  · rw [h]
    exact noted
  · rw [h]
    exact noted.abortRun p 0x40

end Sys2Proof.Machine
end

section
/-!
PROOF. Tokens, tuples and credits (R60, R63, R73, R79, R138, R207 to R209): what a delivered message does at its cell or generator.
-/

namespace Sys2Proof.Machine

open Sys2Proof

/-! ## The crossing of the mesh -/

theorem Crossed.running {s u : State} (h : Crossed s u) (k : Nat) : Machine.running u k = Machine.running s k := by
  unfold Machine.running
  rw [h.siteHolder, funext (getPart_congr h.parts)]

theorem Crossed.gated {s u : State} (h : Crossed s u) (k : Nat) : Machine.gated u k = Machine.gated s k := by
  unfold Machine.gated
  rw [h.siteHolder, funext (getPart_congr h.parts)]

theorem Crossed.getTile {s u : State} (h : Crossed s u) (k : Nat) : Machine.getTile u k = Machine.getTile s k := getTile_congr h.tiles k

theorem Crossed.getCC {s u : State} (h : Crossed s u) (k i : Nat) : Machine.getCC u k i = Machine.getCC s k i := getCC_congr h.tiles k i

theorem Crossed.getAG {s u : State} (h : Crossed s u) (k g : Nat) : Machine.getAG u k g = Machine.getAG s k g := getAG_congr h.tiles k g

theorem Crossed.events {s u : State} (h : Crossed s u) : u.events = s.events := h.only .events rfl

theorem Crossed.sameAgents {s u : State} (h : Crossed s u) : SameAgents s u := .of_tiles h.tiles

theorem Crossed.domainAt {s u : State} (h : Crossed s u) (k : Nat) : Machine.domainAt u k = Machine.domainAt s k := by
  unfold Machine.domainAt
  rw [h.siteDomain]

theorem atRunning_live {k : Nat} {s : State} (h : (getTile s k).run = .running ∨ (getTile s k).run = .finished) (self : Option Instr)
    (act : State → State) : atRunning k self act s = act s := by
  unfold atRunning
  obtain h | h := h
  · rw [h]
  · rw [h]

theorem atRunning_stopped {k : Nat} {s : State} (h : (getTile s k).run = .stopped) (self : Option Instr) (act : State → State) :
    atRunning k self act s = s := by
  unfold atRunning
  rw [h]

theorem atRunning_waiting {k : Nat} {s : State} (h : (getTile s k).run = .idle ∨ (getTile s k).run = .loading) (i : Instr)
    (act : State → State) : atRunning k (some i) act s = modTile k (fun (t : Tile) => { t with heldOps := t.heldOps ++ [i] }) s := by
  unfold atRunning
  obtain h | h := h
  · rw [h]
  · rw [h]

theorem atRunning_unheld {k : Nat} {s : State} (h : (getTile s k).run = .idle ∨ (getTile s k).run = .loading) (act : State → State) :
    atRunning k none act s = s := by
  unfold atRunning
  obtain h | h := h
  · rw [h]
  · rw [h]

theorem crossed_run {h : Head} (c : Bool) (kind : Nat) {s : State} (k : Nat) :
    (getTile (crossed h c kind s) k).run = (getTile s k).run := by
  rw [(crossed_crossed h c kind s).getTile]

theorem live_crossed {h : Head} {s : State} (hl : Live h s) (c : Bool) (kind : Nat) :
    (getTile (crossed h c kind s) (dstSite h)).run = .running ∨ (getTile (crossed h c kind s) (dstSite h)).run = .finished := by
  rw [crossed_run]
  exact hl.2

section
variable {h : Head} {s : State}

theorem exec_token (hd : delivers s h = true) (rows cols : Nat) : exec (.token h rows cols) s =
    .next (atRunning (dstSite h) (some (.token h rows cols)) (tokenIn h rows cols) (crossed h true 1 s)) :=
  congrArg Host.Outcome.next (arriveCtl_taken 1 _ (.inr hd))

theorem exec_tuple (hd : delivers s h = true) (words : List Word32) : exec (.tuple h words) s = .next (
    if h.dst.slot < 3 then atRunning (dstSite h) (some (.tuple h words)) (tupleIn h words) (crossed h true 3 s)
    else if h.target = 4 then
      postDesc (dstSite h) (readDesc (words.getD 0 0) (words.getD 1 0) (words.getD 2 0) (words.getD 3 0)) (crossed h true 3 s)
    else crossed h true 3 s) :=
  congrArg Host.Outcome.next (arriveCtl_taken 3 _ (.inr hd))

/-- What a credit does at a running tile (R63, R79, R138, R209). -/
def creditIn (h : Head) (s : State) : State :=
  (running s (dstSite h)).elim s (fun e =>
    if 4 ≤ h.target then s
    else if h.dst.slot < 3 then creditCC (dstSite h) h.dst.slot h.target h.src e.2.2.2 s
    else creditAG (dstSite h) h.target e.2.2.2 s)

theorem exec_credit (hd : delivers s h = true) : exec (.credit h) s =
    .next (atRunning (dstSite h) none (creditIn h) (crossed h true 2 s)) := by
  refine congrArg Host.Outcome.next ((arriveCtl_taken 2 _ (.inr hd)).trans ?_)
  refine congrArg (fun act => atRunning (dstSite h) none act (crossed h true 2 s)) (funext fun u => ?_)
  unfold creditIn
  cases running u (dstSite h) with
  | none => rfl
  | some e => rfl

/-! ## Arrivals at a compute cell -/

/-- An arrival that joins the queue of its binding (R60). -/
def arrivalQueued (k slot b : Nat) (a : Arrival) (s : State) : State :=
  modCC k slot (fun (c : CC) => { c with queues := amMod c.queues b [] (· ++ [a]) }) s

/-- A binding of a cell that takes messages (R86). -/
def Takes (c : CC) (b : Nat) : Prop := ccClass c.cfg ≠ 0 ∧ (ccIn c.cfg b).enable = true ∧ portsOn c.cfg b ≠ []

theorem not_takes_iff (c : CC) (b : Nat) :
    (ccClass c.cfg = 0 || !(ccIn c.cfg b).enable || (portsOn c.cfg b).isEmpty) = true ↔ ¬Takes c b := by
  unfold Takes
  rw [Bool.or_eq_true, Bool.or_eq_true, decide_eq_true_iff, Bool.not_eq_true', List.isEmpty_iff, not_and_or, not_and_or, not_not, not_not,
    Bool.not_eq_true, or_assoc]

theorem ccArrive_joins {k slot b : Nat} {a : Arrival} {s : State} (hs : (getCC s k slot).stopped = false) (ht : Takes (getCC s k slot) b) :
    ccArrive k slot b a s = settleCC k slot (arrivalQueued k slot b a s) := by
  unfold ccArrive
  dsimp only
  rw [hs, if_neg Bool.false_ne_true, if_neg (fun h => (not_takes_iff _ _).mp h ht)]
  rfl

theorem ccArrive_faults {k slot b : Nat} {a : Arrival} {s : State} (hs : (getCC s k slot).stopped = false) (ht : ¬Takes (getCC s k slot) b) :
    ccArrive k slot b a s = cellFault k slot 4 0x106 s := by
  unfold ccArrive
  dsimp only
  rw [hs, if_neg Bool.false_ne_true, if_pos ((not_takes_iff _ _).mpr ht)]

theorem ccArrive_stopped {k slot b : Nat} {a : Arrival} {s : State} (hs : (getCC s k slot).stopped = true) : ccArrive k slot b a s = s := by
  unfold ccArrive
  dsimp only
  rw [hs, if_pos rfl]

/-- The end of a streamed block changes nothing of a cell but what has arrived of its blocks (R207). -/
theorem getCC_streamEnd (k slot b : Nat) (tag : BitVec 16) (s : State) :
    { getCC (streamEnd k slot b tag s) k slot with streamFill := [] } = { getCC s k slot with streamFill := [] } := by
  unfold streamEnd
  split
  · rw [getCC_modCC, if_pos ⟨rfl, rfl⟩]
  · rfl

/-! ## The first arrival of a tag -/

theorem findSome_of_unique {α β : Type} {f : α → Option β} {l : List α} {a : α} (ha : a ∈ l) (h : ∀ x, x ≠ a → f x = none) :
    l.findSome? f = f a := by
  induction l with
  | nil => cases ha
  | cons x l ih =>
    rw [List.findSome?_cons]
    by_cases hx : x = a
    · subst hx
      cases hf : f x with
      | some y => rfl
      | none =>
        exact List.findSome?_eq_none_iff.mpr fun y _ => by
          by_cases hy : y = x
          · rw [hy, hf]
          · exact h y hy
    · rw [h x hx]
      exact ih ((List.mem_cons.mp ha).resolve_left (Ne.symm hx))

theorem binding_lt (cfg : List Word32) (i : Nat) : (ccPort cfg i).binding < 4 := by
  have two (w : Nat) : (portDesc w).binding < 4 := Nat.mod_lt _ (by decide)
  unfold ccPort
  dsimp only
  split
  · exact two _
  · exact two _

theorem portsOn_lt {cfg : List Word32} {b i : Nat} {rest : List Nat} (h : portsOn cfg b = i :: rest) : b < 4 := by
  have here : i ∈ portsOn cfg b := by rw [h]; exact List.mem_cons_self
  have row := (List.mem_filter.mp here).2
  simp only [Bool.and_eq_true, beq_iff_eq] at row
  rw [← row.2]
  exact binding_lt cfg i

/-- A tag that lies behind the last one fired (R64). -/
def stale (c : CC) (tag : BitVec 16) : Bool := c.lastFired.any (fun f => decide ((tag - (f + 1)).toNat ≥ 32768))

/-- An empty cell whose port i, not a stationary one, is the first that a binding delivers (R57, R60). -/
structure Awaits (c : CC) (b i : Nat) : Prop where
  ports : ∃ rest, portsOn c.cfg b = i :: rest
  moving : (ccPort c.cfg i).mode ≠ 3
  queues : c.queues = []
  slots : c.slots = []

/-- The cell with one arrival in its queues. -/
def withArrival (b : Nat) (a : Arrival) (c : CC) : CC := { c with queues := amMod c.queues b [] (· ++ [a]) }

/-- The tag-match slot that the first arrival of a tag takes (R60). -/
def firstSlot (c : CC) (i : Nat) (a : Arrival) : TagSlot := { index := freeIndex c, tag := a.tag, age := c.clock, present := amSet [] i a }

variable {c : CC} {b i : Nat} {a : Arrival}

theorem admitReq_first (hw : Awaits c b i) : admitReq (withArrival b a c) i a =
    if stale c a.tag then .fault 0x101
    else .placed { withArrival b a c with slots := [firstSlot (withArrival b a c) i a] } := by
  have slots : (withArrival b a c).slots = [] := hw.slots
  have ref : refTag (withArrival b a c) = c.lastFired.map (fun t => t + 1) := by
    unfold refTag
    rw [slots]
    rfl
  have behind : (refTag (withArrival b a c)).any (fun r => decide ((a.tag - r).toNat ≥ 32768)) = stale c a.tag := by
    rw [ref]
    unfold stale
    rw [Option.any_map]
  have moving : (ccPort (withArrival b a c).cfg i).mode ≠ 3 := hw.moving
  have room : (0 : Nat) < ccWindow (withArrival b a c).cfg := Nat.succ_pos _
  unfold admitReq
  rw [if_neg moving, slots]
  dsimp only [List.find?_nil]
  rw [behind, List.length_nil, if_pos room, List.nil_append]
  rfl

theorem admitNext_first (hw : Awaits c b i) : admitNext (withArrival b a c) =
    if stale c a.tag then some (.inr 0x101)
    else some (.inl (markReady { withArrival b a c with
      slots := [firstSlot (withArrival b a c) i a], queues := amSet (withArrival b a c).queues b [] })) := by
  obtain ⟨rest, ports⟩ := hw.ports
  have queue (x : Nat) : amGet (withArrival b a c).queues x [] = if x = b then [a] else [] := by
    unfold withArrival
    dsimp only
    rw [hw.queues, amGet_amMod]
    rfl
  have lt := portsOn_lt ports
  have here : b ∈ List.range 4 := List.mem_range.mpr lt
  have req := admitReq_first (a := a) hw
  have cfg : (withArrival b a c).cfg = c.cfg := rfl
  unfold admitNext
  rw [findSome_of_unique here]
  · rw [queue, if_pos rfl, cfg, ports]
    dsimp only
    rw [req]
    split
    · next h =>
      split at h
      · cases h
      · next hs =>
        rw [if_neg hs]
        cases h
        rfl
    · next h =>
      split at h
      · next hs =>
        rw [if_pos hs]
        cases h
        rfl
      · cases h
    · next h =>
      split at h
      · cases h
      · cases h
  · intro x hx
    rw [queue, if_neg hx]

end

theorem slots_markReady {d : CC} {t : TagSlot} (h : d.slots = [t]) :
    ∃ x, (markReady d).slots = [x] ∧ x.index = t.index ∧ x.tag = t.tag ∧ x.present = t.present := by
  have made : (markReady d).slots = d.slots.map (fun (t : TagSlot) =>
      if t.readyAt.isNone && slotReady d t then { t with readyAt := some d.clock } else t) := rfl
  rw [made, h, List.map_singleton]
  refine ⟨_, rfl, ?_⟩
  split
  · exact ⟨rfl, rfl, rfl⟩
  · exact ⟨rfl, rfl, rfl⟩

theorem gated_congr {s t : State} (hf : t.fld = s.fld) (hp : t.parts = s.parts) (k : Nat) : gated t k = gated s k := by
  unfold gated siteHolder holder
  rw [getFld_congr hf, funext (getPart_congr hp)]

theorem settleCC_of_ungated {k slot : Nat} {s : State} (hg : gated s k = false) : settleCC k slot s =
    (settle (((getCC s k slot).queues.map (fun e => e.2.length)).sum) (getCC s k slot)).2.elim
      (modCC k slot (fun _ => (settle (((getCC s k slot).queues.map (fun e => e.2.length)).sum) (getCC s k slot)).1) s)
      (fun code => cellFault k slot 4 code
        (modCC k slot (fun _ => (settle (((getCC s k slot).queues.map (fun e => e.2.length)).sum) (getCC s k slot)).1) s)) := by
  unfold settleCC
  rw [hg, if_neg Bool.false_ne_true]
  dsimp only
  cases (settle (((getCC s k slot).queues.map (fun e => e.2.length)).sum) (getCC s k slot)).2 with
  | none => rfl
  | some code => rfl

/-- The first arrival of a tag at an empty cell takes slot 0, and a stale one stops the cell (R60, R64, R85). -/
theorem settleCC_first {k slot b i : Nat} {a : Arrival} {s : State} (hs : slot < 3) (hg : gated s k = false)
    (hw : Awaits (getCC s k slot) b i) :
    (stale (getCC s k slot) a.tag = false → ∃ x, (getCC (settleCC k slot (arrivalQueued k slot b a s)) k slot).slots = [x] ∧
      x.index = 0 ∧ x.tag = a.tag ∧ x.present = [(i, a)]) ∧
    (stale (getCC s k slot) a.tag = true → CellStopped k slot (settleCC k slot (arrivalQueued k slot b a s))) := by
  have only := (modCC_keeps k slot (withArrival b a) s).only
  have ungated : gated (arrivalQueued k slot b a s) k = false := (gated_congr (only .fld rfl) (only .parts rfl) k).trans hg
  have cell : getCC (arrivalQueued k slot b a s) k slot = withArrival b a (getCC s k slot) := by
    unfold arrivalQueued
    rw [getCC_modCC, if_pos ⟨rfl, rfl⟩]
    rfl
  have one : ((withArrival b a (getCC s k slot)).queues.map (fun e => e.2.length)).sum = 1 := by
    unfold withArrival
    dsimp only
    rw [hw.queues]
    rfl
  have next := admitNext_first (a := a) hw
  rw [settleCC_of_ungated ungated, cell, one]
  refine ⟨fun hst => ?_, fun hst => ?_⟩
  · rw [hst, if_neg Bool.false_ne_true] at next
    have settled : settle 1 (withArrival b a (getCC s k slot)) =
        (markReady { withArrival b a (getCC s k slot) with
          slots := [firstSlot (withArrival b a (getCC s k slot)) i a]
          queues := amSet (withArrival b a (getCC s k slot)).queues b [] }, none) := by
      unfold settle
      rw [next]
      rfl
    have free : freeIndex (withArrival b a (getCC s k slot)) = 0 := by
      have slots : (withArrival b a (getCC s k slot)).slots = [] := hw.slots
      unfold freeIndex
      rw [slots]
      rfl
    rw [settled]
    dsimp only [Option.elim_none]
    rw [getCC_modCC, if_pos ⟨rfl, rfl⟩]
    obtain ⟨x, hx, index, tag, present⟩ := slots_markReady (d := { withArrival b a (getCC s k slot) with
      slots := [firstSlot (withArrival b a (getCC s k slot)) i a]
      queues := amSet (withArrival b a (getCC s k slot)).queues b [] }) rfl
    exact ⟨x, hx, index.trans free, tag, present⟩
  · rw [hst, if_pos rfl] at next
    have settled : settle 1 (withArrival b a (getCC s k slot)) = (withArrival b a (getCC s k slot), some 0x101) := by
      unfold settle
      rw [next]
    rw [settled]
    exact cellFault_stops_cell hs 4 0x101 _

/-! ## Only one agent changes -/

theorem onlyCC_modCC {k slot : Nat} {g : CC → CC} {s u : State} (h : SameAgents s u) : OnlyCC k slot s (modCC k slot g u) := by
  refine ⟨fun j i hji => ?_, fun j i => ?_⟩
  · rw [getCC_modCC, if_neg hji, h.getCC]
  · have same : getAG (modCC k slot g u) j i = getAG u j i := by
      unfold getAG modCC
      rw [getTile_modTile]
      split
      · next hj => rw [hj]
      · rfl
    rw [same, h.getAG]

theorem onlyAG_modAG {k gi : Nat} {g : AG → AG} {s u : State} (h : SameAgents s u) : OnlyAG k gi s (modAG k gi g u) := by
  refine ⟨fun j i hji => ?_, fun j i => ?_⟩
  · rw [getAG_modAG, if_neg hji, h.getAG]
  · have same : getCC (modAG k gi g u) j i = getCC u j i := by
      unfold getCC modAG
      rw [getTile_modTile]
      split
      · next hj => rw [hj]
      · rfl
    rw [same, h.getCC]

theorem OnlyAG.same {k gi : Nat} {s t u : State} (h : OnlyAG k gi s t) (a : SameAgents t u) : OnlyAG k gi s u :=
  ⟨fun j i hji => (a.getAG j i).trans (h.1 j i hji), fun j i => (a.getCC j i).trans (h.2 j i)⟩

/-! ## Credits -/

/-- The credits that a consumer of a binding has returned, with one more where it is the sender (R209). -/
def returned (c : CC) (b : Nat) (cs : List CellRef) (src : CellRef) (i : Nat) : Nat :=
  amGet c.creditWait (creditKey b i) 0 + (if cs[i]? = some src then 1 else 0)

theorem creditKey_inj {b i j : Nat} (h : creditKey b i = creditKey b j) : i = j := by
  unfold creditKey at h
  omega

/-- The counts of a list, each written at its place. -/
theorem amGet_counts (b back : Nat) (l : List Nat) (n : Nat) (m : AMap Nat) (i : Nat) :
    amGet ((l.zipIdx n).foldl (fun m e => amSet m (creditKey b e.2) (e.1 - back)) m) (creditKey b i) 0 =
      if n ≤ i ∧ i < n + l.length then l.getD (i - n) 0 - back else amGet m (creditKey b i) 0 := by
  induction l generalizing n m with
  | nil => rw [if_neg (by simp)]; rfl
  | cons x l ih =>
    rw [List.zipIdx_cons, List.foldl_cons, ih, amGet_amSet]
    by_cases hi : i = n
    · subst hi
      rw [if_neg (by omega), if_pos rfl, if_pos ⟨le_refl _, by rw [List.length_cons]; omega⟩, Nat.sub_self]
      rfl
    · have other : ¬creditKey b i = creditKey b n := fun h => hi (creditKey_inj h)
      rw [if_neg other]
      by_cases hin : n + 1 ≤ i ∧ i < n + 1 + l.length
      · have place : i - n = i - (n + 1) + 1 := by omega
        rw [if_pos hin, if_pos ⟨by omega, by rw [List.length_cons]; omega⟩, place, List.getD_cons_succ]
      · have out : ¬(n ≤ i ∧ i < n + (x :: l).length) := by
          rw [List.length_cons]
          omega
        rw [if_neg hin, if_neg out]

section
variable {k slot b : Nat} {src : CellRef} {r : Section} {s : State}

/-- A buffer is back once each of its consumers has returned it (R63, R209). -/
structure CreditTaken (k slot b : Nat) (src : CellRef) (cs : List CellRef) (c : CC) (t : State) : Prop where
  cell : ∃ wait out, getCC t k slot = { c with creditWait := wait, outCredits := out } ∧
    amGet out b 0 = amGet c.outCredits b 0 - (if cs.length ≤ 1 ∨ ∀ i, i < cs.length → 0 < returned c b cs src i then 1 else 0) ∧
    (∀ q, q ≠ b → amGet out q 0 = amGet c.outCredits q 0) ∧
    (2 ≤ cs.length → ∀ i, i < cs.length → amGet wait (creditKey b i) 0 =
      returned c b cs src i - (if cs.length ≤ 1 ∨ ∀ i, i < cs.length → 0 < returned c b cs src i then 1 else 0))

theorem creditCC_takes : CreditTaken k slot b src (consumers r k slot b (ccOut (getCC s k slot).cfg b)) (getCC s k slot)
    (creditCC k slot b src r s) := by
  unfold creditCC
  extract_lets c cs got back
  by_cases hone : cs.length ≤ 1
  · rw [if_pos hone]
    refine ⟨c.creditWait, amMod c.outCredits b 0 (· - 1), ?_, ?_, fun q hq => ?_, fun htwo => absurd htwo (Nat.not_le.mpr (Nat.lt_succ_of_le hone))⟩
    · rw [getCC_modCC, if_pos ⟨rfl, rfl⟩]
    · rw [amGet_amMod, if_pos rfl, if_pos (.inl hone)]
    · rw [amGet_amMod, if_neg hq]
  · rw [if_neg hone]
    have length : got.length = cs.length := by simp [got]
    have each (i : Nat) (hi : i < cs.length) : got.getD i 0 = returned c b cs src i := by
      rw [List.getD_eq_getElem?_getD, List.getElem?_map, List.getElem?_range hi]
      rfl
    have all : got.all (· > 0) = true ↔ ∀ i, i < cs.length → 0 < returned c b cs src i := by
      rw [List.all_eq_true]
      refine ⟨fun h i hi => ?_, fun h x hx => ?_⟩
      · have here : returned c b cs src i ∈ got := List.mem_map.mpr ⟨i, List.mem_range.mpr hi, rfl⟩
        simpa using h _ here
      · obtain ⟨i, hi, rfl⟩ := List.mem_map.mp hx
        have pos := h i (List.mem_range.mp hi)
        unfold returned at pos
        simpa using pos
    have same : back = (if cs.length ≤ 1 ∨ ∀ i, i < cs.length → 0 < returned c b cs src i then 1 else 0) := by
      have iff : (cs.length ≤ 1 ∨ ∀ i, i < cs.length → 0 < returned c b cs src i) ↔ got.all (· > 0) = true :=
        ⟨fun h => all.mpr (h.resolve_left hone), fun h => .inr (all.mp h)⟩
      exact if_congr iff.symm rfl rfl
    refine ⟨got.zipIdx.foldl (fun m e => amSet m (creditKey b e.2) (e.1 - back)) c.creditWait, amMod c.outCredits b 0 (· - back), ?_, ?_, fun q hq => ?_, fun _ i hi => ?_⟩
    · rw [getCC_modCC, if_pos ⟨rfl, rfl⟩]
    · rw [amGet_amMod, if_pos rfl, ← same]
    · rw [amGet_amMod, if_neg hq]
    · rw [amGet_counts, if_pos ⟨Nat.zero_le i, by rw [Nat.zero_add, length]; exact hi⟩, Nat.sub_zero, each i hi, ← same]

theorem creditCC_only {u : State} (h : SameAgents s u) : OnlyCC k slot s (creditCC k slot b src r u) := by
  unfold creditCC
  extract_lets c cs got back
  split
  · exact onlyCC_modCC h
  · exact onlyCC_modCC h

/-! ## Credits of a generator -/

theorem stagingReader_agents {s u : State} (h : SameAgents s u) (k : Nat) (g : AG) : stagingReader u k g = stagingReader s k g := by
  have same : getAG u k = getAG s k := funext (h.getAG k)
  unfold stagingReader
  rw [same]

/-- The credit that a home passes on to a contributor (R214). -/
def contributorCredit (k : Nat) (d : Nat) (e : Nat × Nat × Nat × Nat) : MeshMsg :=
  ⟨⟨cellAt k 3, cellAt (e.1 / 4) (e.1 % 4), e.2.1, d, 0⟩, true, 2, []⟩

theorem domainAt_send (m : MeshMsg) (s : State) (k : Nat) : domainAt (send m s) k = domainAt s k := by
  have kept := (sameJobs_send m s).parts
  have domains (p : Nat) : (getPart (send m s) p).map Part.domain = (getPart s p).map Part.domain := by
    have same := congrArg (Option.map Part.domain) (kept p)
    rw [Option.map_map, Option.map_map] at same
    exact same
  have fld : (send m s).fld = s.fld := (send_keeps m s).only .fld rfl
  unfold domainAt siteDomain siteHolder holder
  rw [getFld_congr fld]
  split
  · rw [domains]
  · rfl

/-- Credits passed on in turn are all on their way (R214). -/
theorem flight_credits (k : Nat) (l : List (Nat × Nat × Nat × Nat)) (s : State) :
    (∀ m ∈ s.mesh.flight, m ∈ (l.foldl (fun s e => sendCredit k 3 (cellAt (e.1 / 4) (e.1 % 4)) e.2.1 s) s).mesh.flight) ∧
    ∀ e ∈ l, contributorCredit k (domainAt s k) e ∈
      (l.foldl (fun s e => sendCredit k 3 (cellAt (e.1 / 4) (e.1 % 4)) e.2.1 s) s).mesh.flight := by
  induction l generalizing s with
  | nil => exact ⟨fun m hm => hm, fun e he => absurd he (by simp)⟩
  | cons e l ih =>
    have sent : (sendCredit k 3 (cellAt (e.1 / 4) (e.1 % 4)) e.2.1 s).mesh.flight = s.mesh.flight ++ [contributorCredit k (domainAt s k) e] :=
      send_flight ..
    have domain : domainAt (sendCredit k 3 (cellAt (e.1 / 4) (e.1 % 4)) e.2.1 s) k = domainAt s k := domainAt_send ..
    obtain ⟨kept, added⟩ := ih (sendCredit k 3 (cellAt (e.1 / 4) (e.1 % 4)) e.2.1 s)
    rw [sent] at kept
    rw [domain] at added
    refine ⟨fun m hm => kept m (List.mem_append_left _ hm), fun f hf => ?_⟩
    obtain rfl | hf := List.mem_cons.mp hf
    · exact kept _ (List.mem_append_right _ List.mem_cons_self)
    · exact added f hf

theorem sameAgents_credits (k : Nat) (l : List (Nat × Nat × Nat × Nat)) (s : State) :
    SameAgents s (l.foldl (fun s e => sendCredit k 3 (cellAt (e.1 / 4) (e.1 % 4)) e.2.1 s) s) :=
  .foldl (fun s e => .of_keeps (send_keeps ..)) l s

section
variable {k g : Nat} {r : Section} {s u : State}

/-- The hand-off of a staging writer comes back (R138). -/
theorem creditAG_handoff (h : SameAgents s u) (hr : (stagingReader s k (getAG s k g)).isSome = true) :
    getAG (creditAG k g r u) k g = { getAG s k g with handoffOut := false } ∧ OnlyAG k g s (creditAG k g r u) := by
  have reader : (stagingReader u k (getAG u k g)).isSome = true := by
    rw [h.getAG, stagingReader_agents h, hr]
  have done : creditAG k g r u = modAG k g (fun (a : AG) => { a with handoffOut := false }) u := if_pos reader
  rw [done]
  refine ⟨?_, onlyAG_modAG h⟩
  rw [getAG_modAG, if_pos ⟨rfl, rfl⟩, h.getAG]

/-- A buffer of a generator's ring comes back, and a home passes the credit on to its contributors (R79, R214). -/
theorem creditAG_buffer (h : SameAgents s u) (hr : stagingReader s k (getAG s k g) = none) :
    getAG (creditAG k g r u) k g = { getAG s k g with used := (getAG s k g).used - 1 } ∧ OnlyAG k g s (creditAG k g r u) ∧
    ((getAG s k g).expected ≠ 0 → ∀ e ∈ r.edges, e.2.2.1 = cellKey k 3 → e.2.2.2 = g →
      contributorCredit k (domainAt u k) e ∈ (creditAG k g r u).mesh.flight) := by
  have reader : ¬(stagingReader u k (getAG u k g)).isSome = true := by
    rw [h.getAG, stagingReader_agents h, hr]
    exact Bool.false_ne_true
  let back := modAG k g (fun (a : AG) => { a with used := a.used - 1 }) u
  let contributors := r.edges.filter (fun e => e.2.2.1 == cellKey k 3 && e.2.2.2 == g)
  have done : creditAG k g r u = if (getAG u k g).expected = 0 then back
      else contributors.foldl (fun s e => sendCredit k 3 (cellAt (e.1 / 4) (e.1 % 4)) e.2.1 s) back := if_neg reader
  have cell : getAG back k g = { getAG s k g with used := (getAG s k g).used - 1 } := by
    show getAG (modAG k g _ u) k g = _
    rw [getAG_modAG, if_pos ⟨rfl, rfl⟩, h.getAG]
  have only : OnlyAG k g s back := onlyAG_modAG h
  rw [done, h.getAG]
  split
  · next none => exact ⟨cell, only, fun hne => absurd none hne⟩
  · have sent := sameAgents_credits k contributors back
    have domain : domainAt back k = domainAt u k := rfl
    refine ⟨(sent.getAG k g).trans cell, OnlyAG.same only sent, fun _ e he hk hg => ?_⟩
    have mem : e ∈ contributors := List.mem_filter.mpr ⟨he, by simp [hk, hg]⟩
    rw [← domain]
    exact (flight_credits k contributors back).2 e mem

end

/-! ## Arrivals after the crossing -/

section
variable {k slot b : Nat} {a : Arrival} {s u : State}

/-- A cell without what has arrived of its streamed blocks. -/
def unstreamed (c : CC) : CC := { c with streamFill := [] }

/-- The states that differ from one before a delivery in nothing that an arrival at a compute cell asks for. -/
structure Arrived (k slot : Nat) (s u : State) : Prop where
  cell : unstreamed (getCC u k slot) = unstreamed (getCC s k slot)
  gated : gated u k = gated s k

theorem Arrived.reads {β : Type} (h : Arrived k slot s u) (f : CC → β) (hf : ∀ c, f (unstreamed c) = f c) :
    f (getCC u k slot) = f (getCC s k slot) := by
  rw [← hf, h.cell, hf]

theorem Crossed.arrived (h : Crossed s u) : Arrived k slot s u := ⟨by rw [h.getCC], h.gated k⟩

theorem Arrived.streamEnd (h : Arrived k slot s u) (b : Nat) (tag : BitVec 16) : Arrived k slot s (streamEnd k slot b tag u) := by
  have only := (streamEnd_keeps k slot b tag u).only
  exact ⟨(getCC_streamEnd k slot b tag u).trans h.cell, (gated_congr (only .fld rfl) (only .parts rfl) k).trans h.gated⟩

theorem Arrived.stopped (h : Arrived k slot s u) : (getCC u k slot).stopped = (getCC s k slot).stopped :=
  h.reads CC.stopped fun _ => rfl

theorem Arrived.takes (h : Arrived k slot s u) : Takes (getCC u k slot) b ↔ Takes (getCC s k slot) b := by
  have cfg : (getCC u k slot).cfg = (getCC s k slot).cfg := h.reads CC.cfg fun _ => rfl
  unfold Takes
  rw [cfg]

theorem Arrived.awaits {i : Nat} (h : Arrived k slot s u) (hw : Awaits (getCC s k slot) b i) : Awaits (getCC u k slot) b i := by
  have cfg : (getCC u k slot).cfg = (getCC s k slot).cfg := h.reads CC.cfg fun _ => rfl
  have queues : (getCC u k slot).queues = (getCC s k slot).queues := h.reads CC.queues fun _ => rfl
  have slots : (getCC u k slot).slots = (getCC s k slot).slots := h.reads CC.slots fun _ => rfl
  obtain ⟨ports, moving, none, empty⟩ := hw
  exact ⟨cfg ▸ ports, cfg ▸ moving, queues.trans none, slots.trans empty⟩

theorem Arrived.stale (h : Arrived k slot s u) (tag : BitVec 16) : Machine.stale (getCC u k slot) tag = Machine.stale (getCC s k slot) tag :=
  h.reads (Machine.stale · tag) fun _ => rfl

/-- What an arrival does to an empty cell that is not held: it takes slot 0, or stops the cell. -/
def FirstTaken (k slot b : Nat) (a : Arrival) (s t : State) : Prop :=
  ∀ i rest, gated s k = false → portsOn (getCC s k slot).cfg b = i :: rest → (ccPort (getCC s k slot).cfg i).mode ≠ 3 →
    (getCC s k slot).queues = [] → (getCC s k slot).slots = [] → 0 < ccWindow (getCC s k slot).cfg →
    (stale (getCC s k slot) a.tag = false →
      ∃ x, (getCC t k slot).slots = [x] ∧ x.index = 0 ∧ x.tag = a.tag ∧ x.present = [(i, a)]) ∧
    (stale (getCC s k slot) a.tag = true → (getCC t k slot).slots = [] ∧ (getCC t k slot).stopped = true)

theorem Arrived.joins (h : Arrived k slot s u) (hs : slot < 3) (hn : (getCC s k slot).stopped = false) (ht : Takes (getCC s k slot) b) :
    ccArrive k slot b a u = settleCC k slot (arrivalQueued k slot b a u) ∧ FirstTaken k slot b a s (ccArrive k slot b a u) := by
  have joined : ccArrive k slot b a u = settleCC k slot (arrivalQueued k slot b a u) :=
    ccArrive_joins (h.stopped.trans hn) (h.takes.mpr ht)
  refine ⟨joined, fun i rest hg hp hm hq hsl _ => ?_⟩
  have waits := h.awaits (i := i) (b := b) ⟨⟨rest, hp⟩, hm, hq, hsl⟩
  obtain ⟨fresh, old⟩ := settleCC_first (a := a) hs (h.gated.trans hg) waits
  rw [joined]
  rw [h.stale] at fresh old
  refine ⟨fresh, fun hst => ?_⟩
  obtain ⟨stopped, slots⟩ := old hst
  exact ⟨slots, stopped⟩

theorem Arrived.faults (h : Arrived k slot s u) (hs : slot < 3) (hn : (getCC s k slot).stopped = false) (ht : ¬Takes (getCC s k slot) b) :
    ccArrive k slot b a u = cellFault k slot 4 0x106 u ∧ (getCC (ccArrive k slot b a u) k slot).stopped = true ∧
    (getCC (ccArrive k slot b a u) k slot).slots = [] := by
  have fault : ccArrive k slot b a u = cellFault k slot 4 0x106 u :=
    ccArrive_faults (h.stopped.trans hn) (fun t => ht (h.takes.mp t))
  rw [fault]
  exact ⟨rfl, cellFault_stops_cell hs 4 0x106 u⟩

theorem Arrived.ignores (h : Arrived k slot s u) (hn : (getCC s k slot).stopped = true) : ccArrive k slot b a u = u :=
  ccArrive_stopped (h.stopped.trans hn)

end

end

end Sys2Proof.Machine
end

section
/-!
PROOF. Tokens, tuples and credits reach their agents (R60, R63, R73, R79, R138, R207 to R209).
-/

namespace Sys2Proof.Machine

open Sys2Proof

section
variable {h : Head} {s : State}

theorem tokenIn_cell (hs : h.dst.slot < 3) (rows cols : Nat) (u : State) : tokenIn h rows cols u =
    ccArrive (dstSite h) h.dst.slot h.target { tag := h.tag, rows := rows, cols := cols }
      (streamEnd (dstSite h) h.dst.slot h.target h.tag u) := if_pos hs

theorem tokenIn_generator (hs : 3 ≤ h.dst.slot) (ht : h.target < 4) (rows cols : Nat) (u : State) :
    tokenIn h rows cols u = tokenAG (dstSite h) h.target { tag := h.tag, rows := rows, cols := cols } u :=
  (if_neg (Nat.not_lt.mpr hs)).trans (if_pos ht)

theorem tokenIn_elsewhere (hs : 3 ≤ h.dst.slot) (ht : 4 ≤ h.target) (rows cols : Nat) (u : State) : tokenIn h rows cols u = u :=
  (if_neg (Nat.not_lt.mpr hs)).trans (if_neg (Nat.not_lt.mpr ht))

theorem exec_token_live (hl : Live h s) (rows cols : Nat) :
    exec (.token h rows cols) s = .next (tokenIn h rows cols (crossed h true 1 s)) := by
  rw [exec_token hl.1, atRunning_live (live_crossed hl true 1)]

theorem exec_tuple_live (hl : Live h s) (hs : h.dst.slot < 3) (words : List Word32) :
    exec (.tuple h words) s = .next (ccArrive (dstSite h) h.dst.slot h.target
      { tag := h.tag, words := words, rows := 8191, cols := 32767 } (crossed h true 3 s)) := by
  rw [exec_tuple hl.1, if_pos hs, atRunning_live (live_crossed hl true 3)]
  rfl

theorem exec_credit_live (hl : Live h s) : exec (.credit h) s = .next (creditIn h (crossed h true 2 s)) := by
  rw [exec_credit hl.1, atRunning_live (live_crossed hl true 2)]

theorem creditIn_running {u : State} {p : Nat} {a : Part} {d : Current} {r : Section} (hr : running u (dstSite h) = some (p, a, d, r))
    (ht : h.target < 4) : creditIn h u = if h.dst.slot < 3 then creditCC (dstSite h) h.dst.slot h.target h.src r u
      else creditAG (dstSite h) h.target r u := by
  unfold creditIn
  rw [hr]
  exact if_neg (Nat.not_le.mpr ht)

theorem creditIn_nothing {u : State} (hn : running u (dstSite h) = none ∨ 4 ≤ h.target) : creditIn h u = u := by
  unfold creditIn
  obtain none | high := hn
  · rw [none]
    rfl
  · cases running u (dstSite h) with
    | none => rfl
    | some e => exact if_pos high

/-! ## At a compute cell -/

theorem token_joins (hl : Live h s) (hs : h.dst.slot < 3) (hn : (getCC s (dstSite h) h.dst.slot).stopped = false)
    (ht : Takes (getCC s (dstSite h) h.dst.slot) h.target) (rows cols : Nat) : Completes (.token h rows cols) s (fun t =>
      t = settleCC (dstSite h) h.dst.slot (arrivalQueued (dstSite h) h.dst.slot h.target { tag := h.tag, rows := rows, cols := cols }
        (streamEnd (dstSite h) h.dst.slot h.target h.tag (crossed h true 1 s))) ∧
      FirstTaken (dstSite h) h.dst.slot h.target { tag := h.tag, rows := rows, cols := cols } s t) := by
  have arrived := (crossed_crossed h true 1 s).arrived.streamEnd h.target h.tag (slot := h.dst.slot) (k := dstSite h)
  exact completes_of_exec ((exec_token_live hl rows cols).trans (by rw [tokenIn_cell hs])) (arrived.joins hs hn ht)

theorem token_faults (hl : Live h s) (hs : h.dst.slot < 3) (hn : (getCC s (dstSite h) h.dst.slot).stopped = false)
    (ht : ¬Takes (getCC s (dstSite h) h.dst.slot) h.target) (rows cols : Nat) : Completes (.token h rows cols) s (fun t =>
      t = cellFault (dstSite h) h.dst.slot 4 0x106 (streamEnd (dstSite h) h.dst.slot h.target h.tag (crossed h true 1 s)) ∧
      (getCC t (dstSite h) h.dst.slot).stopped = true ∧ (getCC t (dstSite h) h.dst.slot).slots = []) := by
  have arrived := (crossed_crossed h true 1 s).arrived.streamEnd h.target h.tag (slot := h.dst.slot) (k := dstSite h)
  exact completes_of_exec ((exec_token_live hl rows cols).trans (by rw [tokenIn_cell hs])) (arrived.faults hs hn ht)

theorem token_ignored (hl : Live h s) (hs : h.dst.slot < 3) (hn : (getCC s (dstSite h) h.dst.slot).stopped = true) (rows cols : Nat) :
    Completes (.token h rows cols) s (fun t => t = streamEnd (dstSite h) h.dst.slot h.target h.tag (crossed h true 1 s)) := by
  have arrived := (crossed_crossed h true 1 s).arrived.streamEnd h.target h.tag (slot := h.dst.slot) (k := dstSite h)
  exact completes_of_exec ((exec_token_live hl rows cols).trans (by rw [tokenIn_cell hs])) (arrived.ignores hn)

theorem tuple_joins (hl : Live h s) (hs : h.dst.slot < 3) (hn : (getCC s (dstSite h) h.dst.slot).stopped = false)
    (ht : Takes (getCC s (dstSite h) h.dst.slot) h.target) (words : List Word32) : Completes (.tuple h words) s (fun t =>
      t = settleCC (dstSite h) h.dst.slot (arrivalQueued (dstSite h) h.dst.slot h.target
        { tag := h.tag, words := words, rows := 8191, cols := 32767 } (crossed h true 3 s)) ∧
      FirstTaken (dstSite h) h.dst.slot h.target { tag := h.tag, words := words, rows := 8191, cols := 32767 } s t) :=
  completes_of_exec (exec_tuple_live hl hs words) ((crossed_crossed h true 3 s).arrived.joins hs hn ht)

theorem tuple_faults (hl : Live h s) (hs : h.dst.slot < 3) (hn : (getCC s (dstSite h) h.dst.slot).stopped = false)
    (ht : ¬Takes (getCC s (dstSite h) h.dst.slot) h.target) (words : List Word32) : Completes (.tuple h words) s (fun t =>
      t = cellFault (dstSite h) h.dst.slot 4 0x106 (crossed h true 3 s) ∧
      (getCC t (dstSite h) h.dst.slot).stopped = true ∧ (getCC t (dstSite h) h.dst.slot).slots = []) :=
  completes_of_exec (exec_tuple_live hl hs words) ((crossed_crossed h true 3 s).arrived.faults hs hn ht)

theorem tuple_ignored (hl : Live h s) (hs : h.dst.slot < 3) (hn : (getCC s (dstSite h) h.dst.slot).stopped = true) (words : List Word32) :
    Completes (.tuple h words) s (fun t => t = crossed h true 3 s) :=
  completes_of_exec (exec_tuple_live hl hs words) ((crossed_crossed h true 3 s).arrived.ignores hn)

/-! ## At a memory cell -/

theorem token_fills (hl : Live h s) (hs : 3 ≤ h.dst.slot) (ht : h.target < 4) (hn : (getAG s (dstSite h) h.target).stopped = false)
    (rows cols : Nat) : Completes (.token h rows cols) s (fun t =>
      getAG t (dstSite h) h.target =
        (if (agSrc (getAG s (dstSite h) h.target).cfg).1 = 1 then { getAG s (dstSite h) h.target with handoff := true }
         else { getAG s (dstSite h) h.target with
                tokens := (getAG s (dstSite h) h.target).tokens ++ [{ tag := h.tag, rows := rows, cols := cols }] }) ∧
      OnlyAG (dstSite h) h.target s t ∧ t.events = s.events) := by
  have cr := crossed_crossed h true 1 s
  refine completes_of_exec (t := tokenAG (dstSite h) h.target { tag := h.tag, rows := rows, cols := cols } (crossed h true 1 s))
    ((exec_token_live hl rows cols).trans (by rw [tokenIn_generator hs ht])) ⟨?_, onlyAG_modAG cr.sameAgents, cr.events⟩
  unfold tokenAG
  rw [getAG_modAG, if_pos ⟨rfl, rfl⟩, cr.getAG]
  dsimp only
  rw [hn, if_neg Bool.false_ne_true]

/-- The service port of a memory cell takes a tuple as a descriptor (R208). -/
theorem tuple_serves (hd : delivers s h = true) (hs : h.dst.slot ≥ 3) :
    (h.target = 4 → ∀ words, Completes (.tuple h words) s (fun t =>
      t = postDesc (dstSite h) (readDesc (words.getD 0 0) (words.getD 1 0) (words.getD 2 0) (words.getD 3 0)) (crossed h true 3 s))) ∧
    (h.target ≠ 4 → ∀ words, Completes (.tuple h words) s (fun t => t = crossed h true 3 s)) := by
  refine ⟨fun ht words => completes_of_exec (exec_tuple hd words) ?_, fun ht words => completes_of_exec (exec_tuple hd words) ?_⟩
  · rw [if_neg (Nat.not_lt.mpr hs), if_pos ht]
  · rw [if_neg (Nat.not_lt.mpr hs), if_neg ht]

/-! ## Credits -/

section
variable {p : Nat} {a : Part} {d : Current} {r : Section} (hl : Live h s) (hr : running s (dstSite h) = some (p, a, d, r))
include hl hr

theorem exec_credit_running (ht : h.target < 4) : exec (.credit h) s = .next (
    if h.dst.slot < 3 then creditCC (dstSite h) h.dst.slot h.target h.src r (crossed h true 2 s)
    else creditAG (dstSite h) h.target r (crossed h true 2 s)) := by
  rw [exec_credit_live hl, creditIn_running (((crossed_crossed h true 2 s).running _).trans hr) ht]

theorem credit_cell (hs : h.dst.slot < 3) (ht : h.target < 4) : Completes (.credit h) s (fun t =>
    CreditTaken (dstSite h) h.dst.slot h.target h.src
      (consumers r (dstSite h) h.dst.slot h.target (ccOut (getCC s (dstSite h) h.dst.slot).cfg h.target))
      (getCC s (dstSite h) h.dst.slot) t ∧
    OnlyCC (dstSite h) h.dst.slot s t ∧ t.events = s.events) := by
  have cr := crossed_crossed h true 2 s
  have taken := creditCC_takes (k := dstSite h) (slot := h.dst.slot) (b := h.target) (src := h.src) (r := r) (s := crossed h true 2 s)
  have events := (creditCC_keeps (dstSite h) h.dst.slot h.target h.src r (crossed h true 2 s)).only .events rfl
  rw [cr.getCC] at taken
  exact completes_of_exec ((exec_credit_running hl hr ht).trans (by rw [if_pos hs]))
    ⟨taken, creditCC_only cr.sameAgents, events.trans cr.events⟩

theorem credit_generator (hs : 3 ≤ h.dst.slot) (ht : h.target < 4) :
    exec (.credit h) s = .next (creditAG (dstSite h) h.target r (crossed h true 2 s)) := by
  rw [exec_credit_running hl hr ht, if_neg (Nat.not_lt.mpr hs)]

end

theorem credit_ignored (hl : Live h s) (hn : running s (dstSite h) = none ∨ 4 ≤ h.target) :
    Completes (.credit h) s (fun t => t = crossed h true 2 s ∧ t.tiles = s.tiles) := by
  have cr := crossed_crossed h true 2 s
  have nothing : creditIn h (crossed h true 2 s) = crossed h true 2 s := creditIn_nothing (by rwa [cr.running])
  exact completes_of_exec ((exec_credit_live hl).trans (by rw [nothing])) ⟨rfl, cr.tiles⟩

/-! ## Tiles that do not run, and refusals -/

theorem waiting_holds (i : Instr) (act : State → State) (kind : Nat)
    (hw : (getTile s (dstSite h)).run = .idle ∨ (getTile s (dstSite h)).run = .loading) :
    getTile (atRunning (dstSite h) (some i) act (crossed h true kind s)) (dstSite h) =
      { getTile s (dstSite h) with heldOps := (getTile s (dstSite h)).heldOps ++ [i] } ∧
    (atRunning (dstSite h) (some i) act (crossed h true kind s)).events = s.events := by
  have cr := crossed_crossed h true kind s
  rw [atRunning_waiting (by rwa [crossed_run])]
  refine ⟨?_, cr.events⟩
  rw [getTile_modTile, if_pos rfl, cr.getTile]

theorem refused_raises (hx : h.dst.x ≠ ringXY) (hd : delivers s h = false) (kind : Nat) (act : State → State) :
    (arriveCtl h kind act s).tiles = s.tiles ∧ (arriveCtl h kind act s).parts = s.parts ∧
    Raised (refuseEvent (crossed h true kind s) h) s (arriveCtl h kind act s) := by
  have cr := crossed_crossed h true kind s
  rw [arriveCtl_refused kind act hx hd]
  refine ⟨(raise_tiles ..).trans cr.tiles, (raise_parts ..).trans cr.parts, ?_⟩
  exact raise_events _ cr.events

end

/-- Settles O44: the mesh delivers a message to its tile, and each agent's own rule says what it does there. -/
theorem tokensTuplesAndCreditsReachTheirAgents : Obligations.TokensTuplesAndCreditsReachTheirAgents := by
  unfold Obligations.TokensTuplesAndCreditsReachTheirAgents
  intro h s
  refine ⟨fun hl hs hn => ⟨fun ht => ⟨fun rows cols => token_joins hl hs hn ht rows cols, fun words => tuple_joins hl hs hn ht words⟩,
    fun ht => ⟨fun rows cols => token_faults hl hs hn ht rows cols, fun words => tuple_faults hl hs hn ht words⟩⟩, ?_⟩
  refine ⟨fun hl hs hn => ⟨fun rows cols => token_ignored hl hs hn rows cols, fun words => tuple_ignored hl hs hn words⟩, ?_⟩
  refine ⟨fun hl hs ht hn rows cols => token_fills hl hs ht hn rows cols, ?_⟩
  refine ⟨fun hl hs ht rows cols => completes_of_exec (exec_token_live hl rows cols) (tokenIn_elsewhere hs ht ..), ?_⟩
  refine ⟨tuple_serves, ?_⟩
  refine ⟨fun p a d r hl hr => ⟨fun hs ht => ?_, fun hs ht reader => ?_, fun hs ht reader => ?_⟩, ?_⟩
  · refine completes_imp (credit_cell hl hr hs ht) ?_
    rintro t ⟨⟨cell⟩, only, events⟩
    exact ⟨cell, only, events⟩
  · exact completes_of_exec (credit_generator hl hr hs ht) (creditAG_handoff (r := r) (crossed_crossed h true 2 s).sameAgents reader)
  · have cr := crossed_crossed h true 2 s
    have back := creditAG_buffer (r := r) cr.sameAgents reader
    rw [cr.domainAt] at back
    exact completes_of_exec (credit_generator hl hr hs ht) back
  refine ⟨credit_ignored, ?_⟩
  refine ⟨fun hd hw => ⟨fun rows cols => completes_of_exec (exec_token hd rows cols) (waiting_holds _ _ 1 hw), fun hs words => ?_, ?_⟩, ?_⟩
  · exact completes_of_exec ((exec_tuple hd words).trans (by rw [if_pos hs])) (waiting_holds _ _ 3 hw)
  · have cr := crossed_crossed h true 2 s
    exact completes_of_exec ((exec_credit hd).trans (by rw [atRunning_unheld (by rwa [crossed_run])])) ⟨rfl, cr.tiles⟩
  refine ⟨fun hd hst => ⟨fun rows cols => ?_, fun hs words => ?_, ?_⟩, ?_⟩
  · exact completes_of_exec ((exec_token hd rows cols).trans (by rw [atRunning_stopped (by rwa [crossed_run])]))
      ⟨rfl, (crossed_crossed h true 1 s).tiles⟩
  · exact completes_of_exec ((exec_tuple hd words).trans (by rw [if_pos hs, atRunning_stopped (by rwa [crossed_run])]))
      ⟨rfl, (crossed_crossed h true 3 s).tiles⟩
  · exact completes_of_exec ((exec_credit hd).trans (by rw [atRunning_stopped (by rwa [crossed_run])]))
      ⟨rfl, (crossed_crossed h true 2 s).tiles⟩
  · intro hx hd
    exact ⟨fun rows cols => completes_of_exec rfl (refused_raises hx hd 1 _), fun words => completes_of_exec rfl (refused_raises hx hd 3 _),
      completes_of_exec rfl (refused_raises hx hd 2 _)⟩

end Sys2Proof.Machine
end

section
/-!
PROOF. Actors: what a firing, a release and a drain do to their compute cell and its stores (R50, R57, R61 to R63, R83, R109, R116, R207).
-/

namespace Sys2Proof.Machine

open Sys2Proof

/-! ## Bytes that are written -/

/-- A write changes its own bytes only (R67). -/
theorem onlyBytes_writeBytes {s t : State} {key : Nat} {bs : List Byte} (h : t.mem = (writeBytes key bs s).mem) :
    OnlyBytes key bs.length s t := by
  intro wf a out
  unfold readByte
  rw [h]
  show cellGet (cellsSet s.mem key bs) a = _
  rw [cellGet_cellsSet bs key a wf, if_neg (by omega)]

theorem OnlyBytes.congr {key n : Nat} {s t u : State} (h : OnlyBytes key n s t) (e : u.mem = t.mem) : OnlyBytes key n s u := by
  intro wf a out
  have same := h wf a out
  unfold readByte at same ⊢
  rw [e, same]

theorem readBytes_congr {s t : State} (h : t.mem = s.mem) (key n : Nat) : readBytes t key n = readBytes s key n := by
  unfold readBytes
  rw [h]

/-! ## What reads and reports leave of the agents -/

theorem sameAgents_countCorrected (k : Nat) (s : State) : SameAgents s (countCorrected k s) := by
  have counted : SameAgents s (correctedCounted k s) :=
    (SameAgents.of_modTile k (g := fun t => { t with corrected := correctedNow k s, correctedHour := hourOf s }) s (fun _ => rfl)
      fun _ => rfl).trans (.of_keeps (modFld_keeps ..))
  rw [countCorrected_eq]
  exact .ite (counted.trans (.of_keeps (raise_keeps ..))) counted

theorem sameAgents_touchRead (key n : Nat) (s : State) : SameAgents s (touchRead key n s) := by
  unfold touchRead
  refine SameAgents.foldl (fun s w => .ite ?_ (.refl s)) _ s
  have marked : SameAgents s { s with ecc := amSet s.ecc w .counted } := .of_tiles rfl
  exact marked.trans (sameAgents_countCorrected (w / 0x80000) _)

theorem sameAgents_doneTry (k : Nat) (s : State) : SameAgents s (doneTry k s) := by
  unfold doneTry
  split
  · exact .refl s
  · refine .ite (SameAgents.trans ?_ (.of_keeps (send_keeps ..))) (.refl s)
    exact .of_modTile k s (fun _ => rfl) fun _ => rfl

theorem doneTry_mem (k : Nat) (s : State) : (doneTry k s).mem = s.mem := (doneTry_keeps k s).only .mem rfl

theorem OnlyCC.same {k slot : Nat} {s t u : State} (h : OnlyCC k slot s t) (a : SameAgents t u) : OnlyCC k slot s u :=
  ⟨fun j i hji => (a.getCC j i).trans (h.1 j i hji), fun j i => (a.getAG j i).trans (h.2 j i)⟩

/-- Every compute cell and generator reads the same. -/
structure Alike (s t : State) : Prop where
  cells : ∀ k i, getCC t k i = getCC s k i
  generators : ∀ k g, getAG t k g = getAG s k g

theorem SameAgents.alike {s t : State} (h : SameAgents s t) : Alike s t := ⟨h.getCC, h.getAG⟩

theorem OnlyCC.alike {k slot : Nat} {s t u : State} (h : OnlyCC k slot s t) (a : Alike t u) : OnlyCC k slot s u :=
  ⟨fun j i hji => (a.cells j i).trans (h.1 j i hji), fun j i => (a.generators j i).trans (h.2 j i)⟩

/-- A cell without a waiting arrival does not change when its queues advance (R60). -/
theorem settleCC_empty {k slot : Nat} {s : State} (h : (getCC s k slot).queues = []) :
    Alike s (settleCC k slot s) ∧ Only [.tiles] s (settleCC k slot s) := by
  have total : (((getCC s k slot).queues.map (fun e => e.2.length)).sum) = 0 := by rw [h]; rfl
  by_cases hg : gated s k = true
  · have same : settleCC k slot s = s := if_pos hg
    rw [same]
    exact ⟨(SameAgents.refl s).alike, (Keeps.refl _ s).only⟩
  · have settled : settleCC k slot s = modCC k slot (fun _ => getCC s k slot) s := by
      rw [settleCC_of_ungated (Bool.not_eq_true _ ▸ hg), total]
      rfl
    rw [settled]
    refine ⟨⟨fun j i => ?_, fun j g => ?_⟩, (modCC_keeps ..).only⟩
    · rw [getCC_modCC]
      split
      · next hji => rw [hji.1, hji.2]
      · rfl
    · exact (onlyCC_modCC (.refl s)).2 j g

/-! ## Firing -/

section
variable {k slot p : Nat} {tag : BitVec 16} {present : AMap Arrival} {s : State}

/-- What the ports of a cell deliver for a tag. -/
def portsFor (s : State) (k slot : Nat) (tag : BitVec 16) (present : AMap Arrival) : List (PortIn × Nat × Nat) :=
  (List.range 4).map (readPort s k slot (getCC s k slot) tag present)

/-- What one port of a cell delivers for a tag. -/
def portFor (s : State) (k slot : Nat) (tag : BitVec 16) (present : AMap Arrival) (i : Nat) : PortIn :=
  ((portsFor s k slot tag present).getD i (⟨[], 0, 0, []⟩, 0, 0)).1

/-- The key of the words with a cell's constants and table (R109). -/
def constKey (s : State) (k slot : Nat) : Nat := memKey k 2 slot (ccConstLine (getCC s k slot).cfg * 64)

def constLen (s : State) (k slot : Nat) : Nat := constLines (getCC s k slot).cfg * 64

/-- An operand of a tag, or the table, holds an uncorrectable word (R85). -/
def badOperand (s : State) (k slot : Nat) (tag : BitVec 16) (present : AMap Arrival) : Bool :=
  (portsFor s k slot tag present).any (fun q => hasDouble s q.2.1 q.2.2) || hasDouble s (constKey s k slot) (constLen s k slot)

/-- The operands of a tag have been read. -/
def operandsRead (s : State) (k slot : Nat) (tag : BitVec 16) (present : AMap Arrival) : State :=
  touchRead (constKey s k slot) (constLen s k slot) ((portsFor s k slot tag present).foldl (fun s q => touchRead q.2.1 q.2.2 s) s)

/-- The cell once a tag has fired (R61 to R63, R108). -/
def tagFired (s : State) (k slot : Nat) (tag : BitVec 16) (present : AMap Arrival) (c : CC) : CC :=
  let pin := portFor s k slot tag present
  let cfg := (getCC s k slot).cfg
  let d := ccPort cfg 4
  let out := computeTag cfg pin (readBytes s (constKey s k slot) (constLen s k slot))
  { c with slots := c.slots.filter (fun (t : TagSlot) => t.tag != tag)
           lastFired := some tag
           firedCount := c.firedCount + 1
           pipe := c.pipe ++ [{ tag := tag, steps := tagSteps c.cfg (pin 0).bytes, blocks := tagBlocks c.cfg, sums := lastBlock c.cfg pin
                                elems := out.1, rows := (outValid cfg pin).1, cols := (outValid cfg pin).2 }]
           counted := countUsed c pin
           current := addCounters c.current out.2
           outCredits := if d.mode = 2 ∧ (ccOut c.cfg d.binding).enable then amMod c.outCredits d.binding 0 (· + 1) else c.outCredits }

/-- The activity of a tag has been counted (R320). -/
def activityCounted (s : State) (p k slot : Nat) (tag : BitVec 16) (present : AMap Arrival) (u : State) : State :=
  let cfg := (getCC s k slot).cfg
  let pin := portFor s k slot tag present
  countActivity (fieldOf k) p (if ccChain64 cfg then 6 else 5) ((outValid cfg pin).1 * (outValid cfg pin).2 * max 1 (ccChain cfg).length)
    (countActivity (fieldOf k) p (widthClass cfg) (arrayCycles cfg (pin 0).bytes) u)

theorem fireTag_faults (h : badOperand s k slot tag present = true) :
    fireTag p k slot tag present s = cellFault k slot 4 0x102 (noteUncorrected k (operandsRead s k slot tag present)) := if_pos h

theorem fireTag_fires (h : badOperand s k slot tag present = false) : fireTag p k slot tag present s =
    settleCC k slot (modCC k slot (tagFired s k slot tag present)
      (activityCounted s p k slot tag present (operandsRead s k slot tag present))) := by
  have good : ¬badOperand s k slot tag present = true := by
    rw [h]
    exact Bool.false_ne_true
  unfold badOperand portsFor constKey constLen at good
  unfold fireTag tagFired activityCounted portFor operandsRead portsFor constKey constLen
  dsimp only
  rw [if_neg good]

theorem sameAgents_operandsRead (s : State) (k slot : Nat) (tag : BitVec 16) (present : AMap Arrival) :
    SameAgents s (operandsRead s k slot tag present) :=
  (SameAgents.foldl (fun _ _ => sameAgents_touchRead ..) _ s).trans (sameAgents_touchRead ..)

theorem operandsRead_only (s : State) (k slot : Nat) (tag : BitVec 16) (present : AMap Arrival) :
    Only [.fld, .events, .tiles, .ecc] s (operandsRead s k slot tag present) :=
  ((Keeps.foldl (Keeps.refl _ s) fun _ _ h => h.trans (touchRead_keeps ..)).trans (touchRead_keeps ..)).only

theorem activityCounted_keeps (s : State) (p k slot : Nat) (tag : BitVec 16) (present : AMap Arrival) (u : State) :
    Keeps [.fld] u (activityCounted s p k slot tag present u) :=
  (countActivity_keeps ..).trans (countActivity_keeps ..)

/-- A tag fires: only its cell changes, and no store. -/
theorem fireTag_fired (h : badOperand s k slot tag present = false) (hq : (getCC s k slot).queues = []) :
    getCC (fireTag p k slot tag present s) k slot = tagFired s k slot tag present (getCC s k slot) ∧
    OnlyCC k slot s (fireTag p k slot tag present s) ∧ Only [.fld, .events, .tiles, .ecc] s (fireTag p k slot tag present s) := by
  let u := activityCounted s p k slot tag present (operandsRead s k slot tag present)
  have agents : SameAgents s u := (sameAgents_operandsRead ..).trans (.of_keeps (activityCounted_keeps ..))
  have read : Only [.fld, .events, .tiles, .ecc] s (operandsRead s k slot tag present) := operandsRead_only s k slot tag present
  have only : Only [.fld, .events, .tiles, .ecc] s u := read.trans ((activityCounted_keeps ..).only.mono rfl)
  have cell : getCC (modCC k slot (tagFired s k slot tag present) u) k slot = tagFired s k slot tag present (getCC s k slot) := by
    rw [getCC_modCC, if_pos ⟨rfl, rfl⟩, agents.getCC]
  have queues : (getCC (modCC k slot (tagFired s k slot tag present) u) k slot).queues = [] := by
    rw [cell]
    exact hq
  obtain ⟨alike, tiles⟩ := settleCC_empty queues
  rw [fireTag_fires h]
  exact ⟨(alike.cells k slot).trans cell, OnlyCC.alike (onlyCC_modCC agents) alike,
    Only.trans (Only.trans only ((modCC_keeps ..).only.mono rfl)) (tiles.mono rfl)⟩

end

end Sys2Proof.Machine
end

section
/-!
PROOF. Actors fire, release and drain (R50, R57, R61 to R63, R83, R109, R116, R207).
-/

namespace Sys2Proof.Machine

open Sys2Proof

section
variable {k slot : Nat} {s : State}

/-! ## When an actor fires -/

/-- The next tag of an actor (R61, R62, R147). -/
def Due (c : CC) (tag : BitVec 16) (present : AMap Arrival) : Prop :=
  (selfPaced c.cfg = false ∧ ∃ f, nextSlot c = some f ∧ f.tag = tag ∧ f.present = present) ∨
  (selfPaced c.cfg = true ∧ (∀ i ∈ fixedPorts c.cfg, (amFind c.filled i).isSome = true) ∧ tag = BitVec.ofNat 16 c.firedCount ∧ present = [])

/-- An actor's pipeline and output have room, and its partition is not held (R40, R50, R61). -/
def hasRoom (s : State) (r : Section) (k slot : Nat) : Bool :=
  pipeReady (getCC s k slot) && outFree s r k slot (getCC s k slot) && !gated s k

/-- What keeps the actor of a running section from firing (R61, R147). -/
def Barred (s : State) (r : Section) (k slot : Nat) : Prop :=
  (getTile s k).run ≠ .running ∨ (getCC s k slot).stopped ∨ ccClass (getCC s k slot).cfg = 0 ∨ !hasRoom s r k slot ∨
    ccTags r k slot ≤ (getCC s k slot).firedCount

theorem fireTry_of_not_running (h : running s k = none) : fireTry k slot s = s := by
  unfold fireTry
  rw [h]

section
variable {p : Nat} {a : Part} {d : Current} {r : Section} (hr : running s k = some (p, a, d, r))
include hr

theorem fireTry_of_barred (h : Barred s r k slot) : fireTry k slot s = s := by
  unfold fireTry
  rw [hr]
  exact if_pos h

theorem fireTry_of_none (hp : selfPaced (getCC s k slot).cfg = false) (hn : nextSlot (getCC s k slot) = none) : fireTry k slot s = s := by
  unfold fireTry
  rw [hr]
  dsimp only
  rw [hp, hn, if_neg Bool.false_ne_true]
  exact ite_self s

theorem fireTry_of_due {tag : BitVec 16} {present : AMap Arrival} (hb : ¬Barred s r k slot) (hd : Due (getCC s k slot) tag present) :
    fireTry k slot s = fireTag p k slot tag present s := by
  unfold Barred hasRoom at hb
  unfold fireTry
  rw [hr]
  dsimp only
  rw [if_neg hb]
  obtain ⟨hp, f, hf, rfl, rfl⟩ | ⟨hp, all, rfl, rfl⟩ := hd
  · rw [hp, hf, if_neg Bool.false_ne_true]
  · rw [hp, if_pos rfl, if_pos (List.all_eq_true.mpr all)]

end

/-! ## Release -/

theorem releaseTry_of_none (h : (getCC s k slot).pipe.find? (fun (q : Fired) => !q.released) = none) : releaseTry k slot s = s := by
  unfold releaseTry
  dsimp only
  rw [h]

/-- The cell whose oldest tag's operands have been read: its last block stands in a bank (R50). -/
def tagReleased (f : Fired) (c : CC) : CC :=
  { c with pipe := c.pipe.map (fun (g : Fired) => if g.tag = f.tag then { g with released := true } else g)
           banks := if f.blocks = 0 then c.banks else c.banks ++ [{ tag := f.tag, sums := f.sums }] }

/-- The credit that returns a port's buffer to its producer (R63). -/
def portCredit (k slot d : Nat) (c : CC) (i : Nat) : MeshMsg :=
  ⟨⟨cellAt k slot, ⟨(ccIn c.cfg (ccPort c.cfg i).binding).x, (ccIn c.cfg (ccPort c.cfg i).binding).y, (ccIn c.cfg (ccPort c.cfg i).binding).slot⟩,
    (ccIn c.cfg (ccPort c.cfg i).binding).peer, d, 0⟩, true, 2, []⟩

/-- The ports in buffer mode return their buffers (R63). -/
def portsReturn (k slot : Nat) (c : CC) (l : List Nat) (s : State) : State :=
  l.foldl (fun s i =>
    if (ccPort c.cfg i).mode = 2 then
      sendCredit k slot ⟨(ccIn c.cfg (ccPort c.cfg i).binding).x, (ccIn c.cfg (ccPort c.cfg i).binding).y, (ccIn c.cfg (ccPort c.cfg i).binding).slot⟩
        (ccIn c.cfg (ccPort c.cfg i).binding).peer s
    else s) s

theorem releaseTry_of_found {f : Fired} (h : (getCC s k slot).pipe.find? (fun (q : Fired) => !q.released) = some f) : releaseTry k slot s =
    if canRelease (getCC s k slot) f then portsReturn k slot (getCC s k slot) (List.range 4) (modCC k slot (tagReleased f) s) else s := by
  unfold releaseTry
  dsimp only
  rw [h]
  dsimp only
  cases canRelease (getCC s k slot) f with
  | true => rfl
  | false => rfl

theorem canRelease_iff (c : CC) (f : Fired) :
    canRelease c f = true ↔ (if 2 ≤ f.blocks then heldResults c = 0 else heldResults c ≤ 1) := by
  unfold canRelease
  split
  · rw [beq_iff_eq]
  · rw [decide_eq_true_iff]

theorem mesh_send_control {m : MeshMsg} (hc : m.control = true) (s : State) :
    (send m s).mesh = { s.mesh with flight := s.mesh.flight ++ [m] } := by
  have traffic (d : Nat) (u : State) : (noteTraffic d u).mesh = u.mesh := (noteTraffic_keeps d u).only .mesh rfl
  have quiet : ¬(!m.control && m.head.src.x == 0x1FF) = true := by
    rw [hc]
    exact Bool.false_ne_true
  unfold send
  rw [if_neg quiet, traffic]

/-- The credits of the ports leave in the order of the ports (R63). -/
theorem portsReturn_mesh (k slot : Nat) (c : CC) (l : List Nat) (s : State) : (portsReturn k slot c l s).mesh =
    { s.mesh with flight := s.mesh.flight ++
        (l.filter (fun i => (ccPort c.cfg i).mode == 2)).map (portCredit k slot (domainAt s k) c) } := by
  induction l generalizing s with
  | nil =>
    rw [List.filter_nil, List.map_nil, List.append_nil]
    rfl
  | cons i l ih =>
    have step : portsReturn k slot c (i :: l) s = portsReturn k slot c l (if (ccPort c.cfg i).mode = 2 then
      send (portCredit k slot (domainAt s k) c i) s else s) := rfl
    rw [step, ih]
    by_cases hm : (ccPort c.cfg i).mode = 2
    · rw [if_pos hm, List.filter_cons_of_pos (by simpa using hm), mesh_send_control rfl, domainAt_send, List.map_cons]
      dsimp only
      rw [List.append_assoc, List.singleton_append]
    · rw [if_neg hm, List.filter_cons_of_neg (by simpa using hm)]

theorem sameAgents_portsReturn (k slot : Nat) (c : CC) (l : List Nat) (s : State) : SameAgents s (portsReturn k slot c l s) :=
  SameAgents.foldl (fun s _ => .ite (.of_keeps (send_keeps ..)) (.refl s)) l s

/-! ## Drain -/

theorem drainTry_of_not_running (h : running s k = none) : drainTry k slot s = s := by
  unfold drainTry
  rw [h]

section
variable {p : Nat} {a : Part} {d : Current} {r : Section} (hr : running s k = some (p, a, d, r))
include hr

theorem drainTry_of_held (h : ((getCC s k slot).stopped || gated s k || drainHolds s r k slot (getCC s k slot)) = true) :
    drainTry k slot s = s := by
  unfold drainTry
  rw [hr]
  exact if_pos h

theorem drainTry_of_empty (h : (getCC s k slot).pipe = []) : drainTry k slot s = s := by
  unfold drainTry
  rw [hr]
  dsimp only
  rw [h]
  exact ite_self s

theorem drainTry_of_oldest {f : Fired} {rest : List Fired}
    (h : ((getCC s k slot).stopped || gated s k || drainHolds s r k slot (getCC s k slot)) = false) (hp : (getCC s k slot).pipe = f :: rest) :
    drainTry k slot s = doneTry k (drainTag k slot r f (if f.released then s else releaseTry k slot s)) := by
  unfold drainTry
  rw [hr]
  dsimp only
  rw [h, hp, if_neg Bool.false_ne_true]

end

/-- The oldest tag has left its cell: its bank is free (R50, R116). -/
def tagDrained (k slot : Nat) (f : Fired) (s : State) : State :=
  modCC k slot (fun (c : CC) => { c with
    pipe := c.pipe.drop 1, banks := c.banks.filter (fun (b : Bank) => b.tag != f.tag), drainedCount := c.drainedCount + 1 }) s

/-- Where the result of a tag stands in the output ring (R57). -/
def resultKey (s : State) (k slot : Nat) (f : Fired) : Nat := memKey k 2 slot (bufferLine (ccPort (getCC s k slot).cfg 4) f.tag.toNat * 64)

def resultLen (s : State) (k slot : Nat) : Nat :=
  ccRows (getCC s k slot).cfg * packedBytes (ccFmtOut (getCC s k slot).cfg) (ccCols (getCC s k slot).cfg)

def resultBytes (s : State) (k slot : Nat) (f : Fired) : List Byte :=
  outBytes (getCC s k slot).cfg f.elems (readBytes s (resultKey s k slot f) (resultLen s k slot))

/-- The result of a tag stands in the output ring (R57, R116). -/
def resultWritten (k slot : Nat) (f : Fired) (s : State) : State :=
  writeBytes (resultKey s k slot f) (resultBytes s k slot f) (tagDrained k slot f s)

/-- The result in value mode leaves as a tuple (R208). -/
def valueSent (k slot : Nat) (r : Section) (f : Fired) (s : State) : State :=
  let c := getCC s k slot
  let b := (ccPort c.cfg 4).binding
  if (ccOut c.cfg b).enable then
    castCtl k slot (consumers r k slot b (ccOut c.cfg b)) (ccOut c.cfg b).peer 3 f.tag (slice (outBytes c.cfg f.elems []) 0 16) (tagDrained k slot f s)
  else tagDrained k slot f s

/-- The result in buffer mode leaves as a contribution, a stream or a token (R207, R213). -/
def bufferSent (k slot : Nat) (r : Section) (f : Fired) (s : State) : State :=
  let c := getCC s k slot
  let b := (ccPort c.cfg 4).binding
  let w := ccOut c.cfg b
  let t := resultWritten k slot f s
  if (ccPort c.cfg 4).mode ≠ 2 ∨ !w.enable then t
  else if w.kind = 3 then combineOut k slot b r w f (resultKey s k slot f) t
  else if w.kind = 2 ∧ w.slot ≠ 3 then streamOut k slot (consumers r k slot b w) w.peer f (readBytes t (resultKey s k slot f) (resultLen s k slot)) t
  else castCtl k slot (consumers r k slot b w) w.peer 1 f.tag (tokenBody f.rows f.cols) t

theorem drainTag_eq (k slot : Nat) (r : Section) (f : Fired) (s : State) : drainTag k slot r f s =
    if (ccPort (getCC s k slot).cfg 4).mode = 1 then valueSent k slot r f s else bufferSent k slot r f s := rfl

theorem sent_value (k slot : Nat) (r : Section) (f : Fired) (s : State) :
    Keeps [.power, .parts, .mesh] (tagDrained k slot f s) (valueSent k slot r f s) := by
  unfold valueSent
  dsimp only
  split
  · exact castCtl_keeps ..
  · exact .refl _ _

theorem sent_buffer (k slot : Nat) (r : Section) (f : Fired) (s : State) :
    Keeps [.power, .parts, .mesh] (resultWritten k slot f s) (bufferSent k slot r f s) := by
  unfold bufferSent
  dsimp only
  split
  · exact .refl _ _
  · split
    · exact combineOut_keeps ..
    · split
      · exact streamOut_keeps ..
      · exact castCtl_keeps ..

theorem sameAgents_drainTag (k slot : Nat) (r : Section) (f : Fired) (s : State) :
    SameAgents (tagDrained k slot f s) (drainTag k slot r f s) := by
  have written : SameAgents (tagDrained k slot f s) (resultWritten k slot f s) := .of_keeps (writeBytes_keeps ..)
  rw [drainTag_eq]
  exact .ite (.of_keeps (sent_value ..)) (written.trans (.of_keeps (sent_buffer ..)))

/-- The drain changes its own cell, and of the stores only the buffer of its result (R57, R116). -/
structure TagDrains (k slot : Nat) (f : Fired) (rest : List Fired) (s t : State) : Prop where
  cell : getCC t k slot = { getCC s k slot with
    pipe := rest, banks := (getCC s k slot).banks.filter (fun (b : Bank) => b.tag != f.tag), drainedCount := (getCC s k slot).drainedCount + 1 }
  only : OnlyCC k slot s t
  value : (ccPort (getCC s k slot).cfg 4).mode = 1 → t.mem = s.mem
  buffer : (ccPort (getCC s k slot).cfg 4).mode ≠ 1 → t.mem = (resultWritten k slot f s).mem ∧
    OnlyBytes (resultKey s k slot f) (resultBytes s k slot f).length s t

theorem drainTag_drains {f : Fired} {rest : List Fired} (r : Section) (hp : (getCC s k slot).pipe = f :: rest) :
    TagDrains k slot f rest s (doneTry k (drainTag k slot r f s)) := by
  have agents : SameAgents (tagDrained k slot f s) (doneTry k (drainTag k slot r f s)) :=
    (sameAgents_drainTag k slot r f s).trans (sameAgents_doneTry ..)
  have popped : OnlyCC k slot s (tagDrained k slot f s) := onlyCC_modCC (.refl s)
  refine ⟨?_, OnlyCC.same popped agents, fun hv => ?_, fun hb => ?_⟩
  · rw [agents.getCC]
    unfold tagDrained
    rw [getCC_modCC, if_pos ⟨rfl, rfl⟩, hp]
    rfl
  · rw [doneTry_mem, drainTag_eq, if_pos hv]
    exact (sent_value k slot r f s).only .mem rfl
  · have mem : (doneTry k (drainTag k slot r f s)).mem = (resultWritten k slot f s).mem := by
      rw [doneTry_mem, drainTag_eq, if_neg hb]
      exact (sent_buffer k slot r f s).only .mem rfl
    exact ⟨mem, onlyBytes_writeBytes mem⟩

end

end Sys2Proof.Machine
end

section
/-!
PROOF. What ACTOR_FIRE, BUFFER_RELEASE and DRAIN_COMPLETE do in each case of a compute cell (R61 to R63, R116).
-/

namespace Sys2Proof.Machine

open Sys2Proof

section
variable {x y slot : Nat} {s : State}

theorem exec_actorFire (x y slot : Nat) (s : State) : exec (.actorFire ⟨x, y, slot⟩) s = .next (fireTry (siteKey x y) slot s) := rfl

theorem exec_bufferRelease (x y slot : Nat) (s : State) : exec (.bufferRelease ⟨x, y, slot⟩) s = .next (releaseTry (siteKey x y) slot s) := rfl

theorem exec_drainComplete (x y slot : Nat) (s : State) : exec (.drainComplete ⟨x, y, slot⟩) s = .next (drainTry (siteKey x y) slot s) := rfl

theorem fireTry_idle (h : running s (siteKey x y) = none ∨ (getTile s (siteKey x y)).run ≠ .running ∨
    (getCC s (siteKey x y) slot).stopped = true ∨ ccClass (getCC s (siteKey x y) slot).cfg = 0 ∨ pipeReady (getCC s (siteKey x y) slot) = false ∨
    gated s (siteKey x y) = true ∨ (selfPaced (getCC s (siteKey x y) slot).cfg = false ∧ nextSlot (getCC s (siteKey x y) slot) = none)) :
    fireTry (siteKey x y) slot s = s := by
  cases hr : running s (siteKey x y) with
  | none => exact fireTry_of_not_running hr
  | some e =>
    obtain ⟨p, a, d, r⟩ := e
    obtain none | tile | stopped | unused | full | held | ⟨paced, empty⟩ := h
    · rw [none] at hr
      cases hr
    · exact fireTry_of_barred hr (.inl tile)
    · exact fireTry_of_barred hr (.inr (.inl stopped))
    · exact fireTry_of_barred hr (.inr (.inr (.inl unused)))
    · exact fireTry_of_barred hr (.inr (.inr (.inr (.inl (by unfold hasRoom; rw [full]; rfl)))))
    · exact fireTry_of_barred hr (.inr (.inr (.inr (.inl (by unfold hasRoom; rw [held, Bool.not_true, Bool.and_false]; rfl)))))
    · exact fireTry_of_none hr paced empty

theorem fireTry_crowded {p : Nat} {a : Part} {d : Current} {r : Section} (hr : running s (siteKey x y) = some (p, a, d, r))
    (h : outFree s r (siteKey x y) slot (getCC s (siteKey x y) slot) = false ∨
      ccTags r (siteKey x y) slot ≤ (getCC s (siteKey x y) slot).firedCount) : fireTry (siteKey x y) slot s = s := by
  obtain full | all := h
  · exact fireTry_of_barred hr (.inr (.inr (.inr (.inl (by unfold hasRoom; rw [full, Bool.and_false]; rfl)))))
  · exact fireTry_of_barred hr (.inr (.inr (.inr (.inr all))))

theorem pipeReady_of_empty {c : CC} (h : c.pipe = []) : pipeReady c = true := by
  unfold pipeReady heldResults
  rw [h]
  rfl

theorem pipeReady_of_two_held {c : CC} (h : 2 ≤ heldResults c) : pipeReady c = false := by
  have many : decide (heldResults c ≤ 1) = false := decide_eq_false (by omega)
  unfold pipeReady
  dsimp only
  rw [many, Bool.false_and, Bool.false_and]

/-- The credits of the ports in buffer mode (R63). -/
def bufferCredits (s : State) (k slot : Nat) : List MeshMsg :=
  ((List.range 4).filter (fun i => (ccPort (getCC s k slot).cfg i).mode == 2)).map (portCredit k slot (domainAt s k) (getCC s k slot))

/-- A tag's operands are released where a bank is free for its last block (R50, R63). -/
theorem releases {f : Fired} {k : Nat} (hf : (getCC s k slot).pipe.find? (fun (q : Fired) => !q.released) = some f) :
    ((if 2 ≤ f.blocks then heldResults (getCC s k slot) = 0 else heldResults (getCC s k slot) ≤ 1) →
      getCC (releaseTry k slot s) k slot = tagReleased f (getCC s k slot) ∧ OnlyCC k slot s (releaseTry k slot s) ∧
      (releaseTry k slot s).mesh = { s.mesh with flight := s.mesh.flight ++ bufferCredits s k slot }) ∧
    (¬(if 2 ≤ f.blocks then heldResults (getCC s k slot) = 0 else heldResults (getCC s k slot) ≤ 1) → releaseTry k slot s = s) := by
  rw [releaseTry_of_found hf, ← canRelease_iff]
  refine ⟨fun room => ?_, fun full => if_neg full⟩
  rw [if_pos room]
  have agents := sameAgents_portsReturn k slot (getCC s k slot) (List.range 4) (modCC k slot (tagReleased f) s)
  refine ⟨?_, OnlyCC.same (onlyCC_modCC (.refl s)) agents, ?_⟩
  · rw [agents.getCC, getCC_modCC, if_pos ⟨rfl, rfl⟩]
  · rw [portsReturn_mesh]
    rfl

theorem drainTry_idle (h : running s (siteKey x y) = none ∨ (getCC s (siteKey x y) slot).stopped = true ∨ gated s (siteKey x y) = true ∨
    (getCC s (siteKey x y) slot).pipe = []) : drainTry (siteKey x y) slot s = s := by
  cases hr : running s (siteKey x y) with
  | none => exact drainTry_of_not_running hr
  | some e =>
    obtain ⟨p, a, d, r⟩ := e
    obtain none | stopped | held | empty := h
    · rw [none] at hr
      cases hr
    · exact drainTry_of_held hr (by rw [stopped, Bool.true_or, Bool.true_or])
    · exact drainTry_of_held hr (by rw [held, Bool.or_true, Bool.true_or])
    · exact drainTry_of_empty hr empty

end

/-- Settles O45: an actor's tag fires, its operands are released and its result drains, each by the rule of its step. -/
theorem actorsFireReleaseAndDrain : Obligations.ActorsFireReleaseAndDrain := by
  unfold Obligations.ActorsFireReleaseAndDrain
  intro x y slot s
  refine ⟨fun p a d r tag present hr tile live used ready open' out left due => ?_, ?_⟩
  · have free : ¬Barred s r (siteKey x y) slot := by
      unfold Barred hasRoom
      rw [ready, out, open', live]
      simp [tile, used, left]
    have fires := (exec_actorFire x y slot s).trans (congrArg Host.Outcome.next (fireTry_of_due hr free due))
    refine ⟨fun ports table queues => ?_, fun hs bad => ?_⟩
    · have good : badOperand s (siteKey x y) slot tag present = false := by
        unfold badOperand
        have each : (portsFor s (siteKey x y) slot tag present).any (fun q => hasDouble s q.2.1 q.2.2) = false :=
          List.any_eq_false.mpr fun q hq => by rw [ports q hq]; exact Bool.false_ne_true
        have const : hasDouble s (constKey s (siteKey x y) slot) (constLen s (siteKey x y) slot) = false := table
        rw [each, const]
        rfl
      obtain ⟨cell, only, kept⟩ := fireTag_fired (p := p) good queues
      exact completes_of_exec fires ⟨cell, only, kept .mem rfl, kept .mesh rfl, kept .parts rfl⟩
    · have faulty : badOperand s (siteKey x y) slot tag present = true := by
        unfold badOperand
        rw [Bool.or_eq_true, List.any_eq_true]
        exact bad
      exact completes_of_exec (fires.trans (by rw [fireTag_faults faulty])) (cellFault_stops_cell hs 4 0x102 _)
  refine ⟨fun h => completes_of_exec (exec_actorFire x y slot s) (fireTry_idle h), ?_⟩
  refine ⟨fun p a d r hr h => completes_of_exec (exec_actorFire x y slot s) (fireTry_crowded hr h), ?_⟩
  refine ⟨pipeReady_of_empty, pipeReady_of_two_held, ?_⟩
  refine ⟨fun f hf => ⟨fun room => completes_of_exec (exec_bufferRelease x y slot s) ((releases hf).1 room),
    fun full => completes_of_exec (exec_bufferRelease x y slot s) ((releases hf).2 full)⟩, ?_⟩
  refine ⟨fun hf => completes_of_exec (exec_bufferRelease x y slot s) (releaseTry_of_none hf), ?_⟩
  refine ⟨fun p a d r f rest hr live open' free pipe => ⟨fun unread => ?_, fun read => ?_⟩, ?_⟩
  · have drains := drainTry_of_oldest hr (by rw [live, open', free]; rfl) pipe
    rw [unread, if_neg Bool.false_ne_true] at drains
    exact completes_of_exec (exec_drainComplete x y slot s) drains
  · have drains := drainTry_of_oldest hr (by rw [live, open', free]; rfl) pipe
    rw [read, if_pos rfl] at drains
    obtain ⟨cell, only, value, buffer⟩ := drainTag_drains r pipe
    refine completes_of_exec ((exec_drainComplete x y slot s).trans (congrArg Host.Outcome.next drains)) ⟨cell, only, value, buffer, ?_, ?_⟩
    · intro mode enabled
      rw [drainTag_eq, if_pos mode]
      unfold valueSent
      dsimp only
      rw [if_pos enabled]
      rfl
    · intro mode enabled
      have sent : ¬((ccPort (getCC s (siteKey x y) slot).cfg 4).mode ≠ 2 ∨
          (!(ccOut (getCC s (siteKey x y) slot).cfg (ccPort (getCC s (siteKey x y) slot).cfg 4).binding).enable) = true) := by
        simp [mode, enabled]
      have buffered : drainTag (siteKey x y) slot r f s = bufferSent (siteKey x y) slot r f s := by
        rw [drainTag_eq, if_neg (by omega)]
      rw [buffered]
      unfold bufferSent
      dsimp only
      rw [if_neg sent]
      refine ⟨fun kind => ?_, fun kind place => ?_, fun kind other => ?_⟩
      · rw [if_pos kind]
        rfl
      · rw [if_neg (by omega), if_pos ⟨kind, place⟩]
        rfl
      · rw [if_neg kind, if_neg (by omega)]
        rfl
  refine ⟨fun p a d r hr held => completes_of_exec (exec_drainComplete x y slot s) ?_,
    fun h => completes_of_exec (exec_drainComplete x y slot s) (drainTry_idle h)⟩
  exact drainTry_of_held hr (by rw [held, Bool.or_true])

end Sys2Proof.Machine
end

section
/-!
PROOF. Rules for the programs of generators (R74 to R82, R137, R138): what a block reads and writes depends on, and what the messages of
a transfer leave as it was.
-/

namespace Sys2Proof.Machine

open Sys2Proof

/-! ## What a transfer leaves of the sites -/

/-- The holders, the places and the waiting requests of the sites are the same. -/
structure Ground (s t : State) : Prop where
  owners : ∀ f, (getFld t f).owner = (getFld s f).owner
  jobs : SameJobs s t
  cover : t.mesh.cover = s.mesh.cover
  remote : ∀ k, (getTile t k).remote = (getTile s k).remote

namespace Ground

variable {s t u : State}

theorem refl (s : State) : Ground s s := ⟨fun _ => rfl, .refl s, rfl, fun _ => rfl⟩

theorem trans (a : Ground s t) (b : Ground t u) : Ground s u :=
  ⟨fun f => (b.owners f).trans (a.owners f), a.jobs.trans b.jobs, b.cover.trans a.cover, fun k => (b.remote k).trans (a.remote k)⟩

theorem of_same (hf : t.fld = s.fld) (hp : t.parts = s.parts) (hm : t.mesh = s.mesh) (ht : t.tiles = s.tiles) : Ground s t :=
  ⟨fun f => by rw [getFld_congr hf], ⟨fun p => by rw [getPart_congr hp]⟩, by rw [hm], fun k => by rw [getTile_congr ht]⟩

theorem foldl {α : Type} {g : State → α → State} (hg : ∀ s a, Ground s (g s a)) (l : List α) (s : State) : Ground s (l.foldl g s) := by
  induction l generalizing s with
  | nil => exact refl s
  | cons a l ih => exact (hg s a).trans (ih _)

theorem ite {c : Prop} [Decidable c] (a : Ground s t) (b : Ground s u) : Ground s (if c then t else u) := by
  split <;> assumption

theorem siteHolder (h : Ground s t) (k : Nat) : Machine.siteHolder t k = Machine.siteHolder s k := by
  unfold Machine.siteHolder holder
  rw [h.owners]

theorem domainAt (h : Ground s t) (k : Nat) : Machine.domainAt t k = Machine.domainAt s k := by
  have domains (p : Nat) : (getPart t p).map Part.domain = (getPart s p).map Part.domain := by
    have same := congrArg (Option.map Part.domain) (h.jobs.parts p)
    rw [Option.map_map, Option.map_map] at same
    exact same
  unfold Machine.domainAt siteDomain
  rw [h.siteHolder]
  cases Machine.siteHolder s k with
  | none => rfl
  | some p => exact congrArg (fun d => Option.getD d 0) (domains p)

/-- The places of the sites that a partition holds (R82). -/
theorem inPart (h : Ground s t) (k n : Nat) : ((Machine.siteHolder t k).bind (getPart t)).map (Machine.inPart · n) =
    ((Machine.siteHolder s k).bind (getPart s)).map (Machine.inPart · n) := by
  rw [h.siteHolder]
  cases Machine.siteHolder s k with
  | none => rfl
  | some p =>
    have same := congrArg (Option.map (Machine.inPart · n)) (h.jobs.parts p)
    rw [Option.map_map, Option.map_map] at same
    exact same

theorem haloPeer (h : Ground s t) (k : Nat) (d : Int × Int) : Machine.haloPeer t k d = Machine.haloPeer s k d := by
  have place (u : State) : Machine.haloPeer u k d =
      let x := (siteX (positionOf u k) : Int) + d.1
      let y := (siteY (positionOf u k) : Int) + d.2
      let n := siteKey x.toNat y.toNat
      if x < 0 ∨ y < 0 then none
      else (((Machine.siteHolder u k).bind (getPart u)).map (Machine.inPart · n)).bind (fun inside =>
        if x.toNat < 288 && y.toNat < 280 && inside then some (physical u n) else none) := by
    unfold Machine.haloPeer
    dsimp only
    cases (Machine.siteHolder u k).bind (getPart u) with
    | none => rfl
    | some a => rfl
  have position : positionOf t k = positionOf s k := by
    unfold positionOf
    rw [h.cover]
  have site (n : Nat) : physical t n = physical s n := by
    unfold physical
    rw [h.cover]
  rw [place, place, position]
  simp only [h.inPart, site]

end Ground

theorem ground_send (m : MeshMsg) (s : State) : Ground s (send m s) where
  owners f := by rw [getFld_congr ((send_keeps m s).only .fld rfl)]
  jobs := sameJobs_send m s
  cover := by
    have traffic (d : Nat) (u : State) : (noteTraffic d u).mesh = u.mesh := (noteTraffic_keeps d u).only .mesh rfl
    unfold send
    dsimp only
    rw [traffic]
    split <;> rfl
  remote k := by rw [getTile_congr ((send_keeps m s).only .tiles rfl)]

theorem ground_modTile (k : Nat) {g : Tile → Tile} (s : State) (hg : ∀ t, (g t).remote = t.remote) : Ground s (modTile k g s) where
  owners f := rfl
  jobs := .of_keeps (modTile_keeps ..)
  cover := rfl
  remote j := by
    rw [getTile_modTile]
    split
    · next hj => rw [hj, hg]
    · rfl

theorem ground_modAG (k g : Nat) (h : AG → AG) (s : State) : Ground s (modAG k g h s) := ground_modTile k s fun _ => rfl

theorem ground_countCorrected (k : Nat) (s : State) : Ground s (countCorrected k s) where
  owners := (readOf_countCorrected k s).owners
  jobs := .of_keeps (countCorrected_keeps k s)
  cover := by rw [(countCorrected_keeps k s).only .mesh rfl]
  remote j := by
    by_cases hj : j = k
    · have own : (uncounted (getTile (countCorrected k s) k)).remote = (uncounted (getTile s k)).remote := by
        rw [(readOf_countCorrected k s).own]
      rw [hj]
      exact own
    · rw [(readOf_countCorrected k s).others j hj]

theorem ground_touchRead (key n : Nat) (s : State) : Ground s (touchRead key n s) := by
  unfold touchRead
  refine Ground.foldl (fun s w => .ite ?_ (.refl s)) _ s
  have marked : Ground s { s with ecc := amSet s.ecc w .counted } := .of_same rfl rfl rfl rfl
  exact marked.trans (ground_countCorrected (w / 0x80000) _)

theorem ground_countActivity (f account category n : Nat) (s : State) : Ground s (countActivity f account category n s) := by
  unfold countActivity
  refine .ite (.refl s) ⟨fun x => ?_, .of_keeps (modFld_keeps ..), rfl, fun _ => rfl⟩
  rw [getFld_modFld]
  split
  · next h => rw [h]
  · rfl

theorem ground_countAccess (k space n : Nat) (s : State) : Ground s (countAccess k space n s) := ground_countActivity ..

theorem ground_doneTry (k : Nat) (s : State) : Ground s (doneTry k s) := by
  unfold doneTry
  split
  · exact .refl s
  · refine .ite (Ground.trans ?_ (ground_send ..)) (.refl s)
    exact ground_modTile k s fun _ => rfl

/-! ## Bytes and their error marks -/

/-- The stores hold the same bytes and uncorrectable words. -/
structure SameStores (s t : State) : Prop where
  mem : t.mem = s.mem
  doubles : ∀ w, amFind t.ecc w = some .double ↔ amFind s.ecc w = some .double

namespace SameStores

variable {s t u : State}

theorem refl (s : State) : SameStores s s := ⟨rfl, fun _ => .rfl⟩

theorem trans (a : SameStores s t) (b : SameStores t u) : SameStores s u := ⟨b.mem.trans a.mem, fun w => (b.doubles w).trans (a.doubles w)⟩

theorem of_keeps {w : List Region} (h : Keeps w s t) (hm : (!w.contains .mem && !w.contains .ecc) = true := by rfl) : SameStores s t := by
  rw [Bool.and_eq_true] at hm
  have mem := h.only .mem (by simpa using hm.1)
  have ecc : t.ecc = s.ecc := h.only .ecc (by simpa using hm.2)
  exact ⟨mem, fun w => by rw [ecc]⟩

theorem foldl {α : Type} {g : State → α → State} (hg : ∀ s a, SameStores s (g s a)) (l : List α) (s : State) :
    SameStores s (l.foldl g s) := by
  induction l generalizing s with
  | nil => exact refl s
  | cons a l ih => exact (hg s a).trans (ih _)

theorem ite {c : Prop} [Decidable c] (a : SameStores s t) (b : SameStores s u) : SameStores s (if c then t else u) := by
  split <;> assumption

theorem hasDouble (h : SameStores s t) (key n : Nat) : Machine.hasDouble t key n = Machine.hasDouble s key n := by
  have same : (fun w => amFind t.ecc w == some EccMark.double) = fun w => amFind s.ecc w == some EccMark.double :=
    funext fun w => Bool.eq_iff_iff.mpr (by rw [beq_iff_eq, beq_iff_eq]; exact h.doubles w)
  unfold Machine.hasDouble
  rw [same]

end SameStores

/-- A corrected word that is counted keeps its bytes and stays correctable (R67). -/
theorem sameStores_touchRead (key n : Nat) (s : State) : SameStores s (touchRead key n s) := by
  unfold touchRead
  refine SameStores.foldl (fun s w => ?_) _ s
  split
  · next single =>
    have marked : SameStores s { s with ecc := amSet s.ecc w .counted } := by
      refine ⟨rfl, fun x => ?_⟩
      rw [amFind_amSet]
      by_cases hx : x = w
      · rw [if_pos hx, hx, single]
        simp
      · rw [if_neg hx]
    refine marked.trans ⟨(countCorrected_keeps ..).only .mem rfl, fun x => ?_⟩
    have ecc : (countCorrected (w / 0x80000) { s with ecc := amSet s.ecc w .counted }).ecc = amSet s.ecc w .counted := by
      rw [countCorrected_eq]
      split
      · rw [raise_ecc]
        rfl
      · rfl
    rw [ecc]
  · exact .refl s

/-! ## What a block depends on -/

section
variable {s t : State} {k : Nat}

theorem agSrcAddr_congr (hc : ∀ i, getCC t k i = getCC s k i) (g : AG) : agSrcAddr t k g = agSrcAddr s k g := by
  unfold agSrcAddr
  simp only [hc]

theorem agReads_congr (hc : ∀ i, getCC t k i = getCC s k i) (g : AG) : agReads t k g = agReads s k g := by
  unfold agReads
  rw [agSrcAddr_congr hc]

theorem agBlock_congr (hc : ∀ i, getCC t k i = getCC s k i) (hm : t.mem = s.mem) (g : AG) : agBlock t k g = agBlock s k g := by
  unfold agBlock
  rw [agSrcAddr_congr hc, show readBytes t = readBytes s from funext₂ (readBytes_congr hm)]

theorem haloWaits_congr (h : Ground s t) (g : AG) : haloWaits t k g = haloWaits s k g := by
  unfold haloWaits
  rw [show haloPeer t k = haloPeer s k from funext (h.haloPeer k)]

theorem haloReady_congr (h : Ground s t) (g : AG) : haloReady t k g = haloReady s k g := by
  unfold haloReady
  rw [haloWaits_congr h]

theorem haloReads_congr (h : Ground s t) (g : AG) : haloReads t k g = haloReads s k g := by
  unfold haloReads
  rw [haloWaits_congr h]

theorem haloRows_congr (h : Ground s t) (hm : t.mem = s.mem) (g : AG) : haloRows t k g = haloRows s k g := by
  unfold haloRows
  rw [haloWaits_congr h, show readBytes t = readBytes s from funext₂ (readBytes_congr hm)]

theorem padded_congr (h : Ground s t) (hc : ∀ i, getCC t k i = getCC s k i) (hm : t.mem = s.mem) (g : AG) : padded t k g = padded s k g := by
  unfold padded
  rw [haloRows_congr h hm, agBlock_congr hc hm]

theorem agWrites_congr (hc : ∀ i, getCC t k i = getCC s k i) (g : AG) (rows : List (List (Option Nat))) :
    agWrites t k g rows = agWrites s k g rows := by
  unfold agWrites agStationary
  simp only [hc]

theorem agValid_congr (hc : ∀ i, getCC t k i = getCC s k i) (g : AG) : agValid t k g = agValid s k g := by
  unfold agValid agExtent agPort
  simp only [hc]

end

end Sys2Proof.Machine
end

section
/-!
PROOF. The steps of a generator's transfer (R75, R77 to R81, R137, R138): its strips, its copy, and what it tells its cells.
-/

namespace Sys2Proof.Machine

open Sys2Proof

/-! ## Messages on their way -/

/-- No message on its way is lost. -/
def Carries (s t : State) : Prop := ∀ m ∈ s.mesh.flight, m ∈ t.mesh.flight

theorem Carries.refl (s : State) : Carries s s := fun _ h => h

theorem Carries.trans {s t u : State} (a : Carries s t) (b : Carries t u) : Carries s u := fun m h => b m (a m h)

theorem carries_send (m : MeshMsg) (s : State) : Carries s (send m s) := fun x hx => by
  rw [send_flight]
  exact List.mem_append_left _ hx

theorem carried_send (m : MeshMsg) (s : State) : m ∈ (send m s).mesh.flight := by
  rw [send_flight]
  exact List.mem_append_right _ List.mem_cons_self

theorem carries_doneTry (k : Nat) (s : State) : Carries s (doneTry k s) := by
  unfold doneTry
  split
  · exact .refl s
  · split
    · exact fun m hm => carries_send _ _ m hm
    · exact .refl s

/-- What a send and its repetitions keep: agents, sites, stores, and the messages on their way. -/
structure Told (s t : State) : Prop where
  agents : SameAgents s t
  ground : Ground s t
  stores : SameStores s t
  carries : Carries s t

namespace Told

variable {s t u : State}

theorem refl (s : State) : Told s s := ⟨.refl s, .refl s, .refl s, .refl s⟩

theorem trans (a : Told s t) (b : Told t u) : Told s u :=
  ⟨a.agents.trans b.agents, a.ground.trans b.ground, a.stores.trans b.stores, a.carries.trans b.carries⟩

theorem send (m : MeshMsg) (s : State) : Told s (Machine.send m s) :=
  ⟨.of_keeps (send_keeps m s), ground_send m s, .of_keeps (send_keeps m s), carries_send m s⟩

theorem ite {c : Prop} [Decidable c] (a : Told s t) (b : Told s u) : Told s (if c then t else u) := by
  split <;> assumption

theorem foldl {α : Type} {g : State → α → State} (hg : ∀ s a, Told s (g s a)) (l : List α) (s : State) : Told s (l.foldl g s) := by
  induction l generalizing s with
  | nil => exact refl s
  | cons a l ih => exact (hg s a).trans (ih _)

end Told

theorem told_doneTry (k : Nat) (s : State) : Told s (doneTry k s) :=
  ⟨sameAgents_doneTry k s, ground_doneTry k s, .of_keeps (doneTry_keeps k s), carries_doneTry k s⟩

/-! ## Strips (R80, R81) -/

/-- A packet of a strip on its way to a neighbour (R80). -/
def stripPiece (k gi region peer d : Nat) (b : List Byte) : MeshMsg :=
  ⟨⟨cellAt k 3, cellAt peer 3, gi, d, BitVec.ofNat 16 region⟩, false, 2, b⟩

theorem told_sendStrip (k gi region peer : Nat) (bytes : List Byte) (s : State) : Told s (sendStrip k gi region peer bytes s) :=
  .foldl (fun _ _ => .send ..) _ s

/-- A list of messages sent one after the other with the domain of their site. -/
theorem carried_foldl {α : Type} (k : Nat) (m : Nat → α → MeshMsg) (l : List α) (s : State) (a : α) (ha : a ∈ l) :
    m (domainAt s k) a ∈ (l.foldl (fun s b => send (m (domainAt s k) b) s) s).mesh.flight := by
  induction l generalizing s with
  | nil => cases ha
  | cons b l ih =>
    rw [List.foldl_cons]
    obtain rfl | ha := List.mem_cons.mp ha
    · exact (Told.foldl (fun _ _ => .send ..) l _).carries _ (carried_send _ s)
    · have rest := ih (send (m (domainAt s k) b) s) ha
      rwa [domainAt_send] at rest

theorem carried_sendStrip (k gi region peer : Nat) (bytes : List Byte) (s : State) (b : List Byte)
    (hb : b ∈ chunks 304 ((bytes.length + 303) / 304) bytes) :
    stripPiece k gi region peer (domainAt s k) b ∈ (sendStrip k gi region peer bytes s).mesh.flight :=
  carried_foldl k (fun d => stripPiece k gi region peer d) _ s b hb

/-- A generator sends its strip of one side (R81). -/
def stripSent (k gi : Nat) (cfg : List Word32) (blk : List (List (Option Nat))) (s : State) (e : Nat × Int × Int) : State :=
  (haloPeer s k e.2).elim s (fun p => sendStrip k gi (haloOpposite e.1) p (haloStrip cfg e.1 blk) s)

theorem told_stripSent (k gi : Nat) (cfg : List Word32) (blk : List (List (Option Nat))) (s : State) (e : Nat × Int × Int) :
    Told s (stripSent k gi cfg blk s e) := by
  unfold stripSent
  cases haloPeer s k e.2 with
  | none => exact .refl s
  | some p => exact told_sendStrip ..

/-- The generator has noted that the strips of its block have left. -/
def stripsNoted (k gi : Nat) (s : State) : State := modAG k gi (fun (g : AG) => { g with haloSent := g.next + 1 }) s

theorem sendStrips_eq (k gi : Nat) (s : State) : sendStrips k gi s =
    ((haloSides (getAG s k gi).cfg).filter (fun e => e.1 < 4)).foldl
      (stripSent k gi (getAG s k gi).cfg (agBlock s k (getAG s k gi))) (stripsNoted k gi s) := by
  unfold sendStrips
  dsimp only
  refine congrArg (fun f => List.foldl f _ _) (funext₂ fun u e => ?_)
  unfold stripSent
  cases haloPeer u k e.2 with
  | none => rfl
  | some p => rfl

theorem carried_strips (k gi : Nat) (cfg : List Word32) (blk : List (List (Option Nat))) (l : List (Nat × Int × Int)) (s : State)
    (e : Nat × Int × Int) (he : e ∈ l) {p : Nat} (hp : haloPeer s k e.2 = some p) (b : List Byte)
    (hb : b ∈ chunks 304 (((haloStrip cfg e.1 blk).length + 303) / 304) (haloStrip cfg e.1 blk)) :
    stripPiece k gi (haloOpposite e.1) p (domainAt s k) b ∈ (l.foldl (stripSent k gi cfg blk) s).mesh.flight := by
  induction l generalizing s with
  | nil => cases he
  | cons x l ih =>
    rw [List.foldl_cons]
    obtain rfl | he := List.mem_cons.mp he
    · refine (Told.foldl (fun _ _ => told_stripSent ..) l _).carries _ ?_
      unfold stripSent
      rw [hp]
      exact carried_sendStrip k gi _ p _ s b hb
    · have told := (told_stripSent k gi cfg blk s x).ground
      have rest := ih (stripSent k gi cfg blk s x) he (by rwa [told.haloPeer])
      rwa [told.domainAt] at rest

/-! ## Rows -/

section
variable {k space slot f : Nat}

/-- One row is written; a masked element keeps what stands there (R77). -/
def rowWritten (k space slot f : Nat) (s : State) (w : Int × List (Option Nat)) : State :=
  let l := w.2.take (validLen w.2)
  let n := packedBytes f l.length
  let key := memKey k space slot w.1.toNat
  let old := readBytes s key n
  if n = 0 then s
  else
    let bits := (l.zipIdx.map (fun e => (e.1.getD (getElem old 0 f e.2)) * 2 ^ (e.2 * fmtBits f))).sum
    writeBytes key (leBytes n (bits + leNat old / 2 ^ (l.length * fmtBits f) * 2 ^ (l.length * fmtBits f))) s

theorem writeRows_eq (ws : List (Int × List (Option Nat))) (s : State) : writeRows k space slot f ws s = ws.foldl (rowWritten k space slot f) s := rfl

theorem rowWritten_mem {s t : State} (h : t.mem = s.mem) (w : Int × List (Option Nat)) :
    (rowWritten k space slot f t w).mem = (rowWritten k space slot f s w).mem := by
  unfold rowWritten
  dsimp only
  rw [readBytes_congr h]
  split
  · exact h
  · show cellsSet t.mem _ _ = cellsSet s.mem _ _
    rw [h]

theorem writeRows_mem {s t : State} (h : t.mem = s.mem) (ws : List (Int × List (Option Nat))) :
    (writeRows k space slot f ws t).mem = (writeRows k space slot f ws s).mem := by
  rw [writeRows_eq, writeRows_eq]
  induction ws generalizing s t with
  | nil => exact h
  | cons w ws ih => exact ih (rowWritten_mem h w)

theorem rowWritten_keeps (s : State) (w : Int × List (Option Nat)) : Keeps [.mem, .ecc] s (rowWritten k space slot f s w) := by
  unfold rowWritten
  dsimp only
  split
  · exact .refl _ s
  · exact writeBytes_keeps ..

theorem rowWritten_wf {s : State} (w : Int × List (Option Nat)) (h : Memory.wf s.mem = true) :
    Memory.wf (rowWritten k space slot f s w).mem = true := by
  unfold rowWritten
  dsimp only
  split
  · exact h
  · exact wf_cellsSet _ _ h

theorem writeRows_keeps_stores (ws : List (Int × List (Option Nat))) (s : State) : Keeps [.mem, .ecc] s (writeRows k space slot f ws s) := by
  rw [writeRows_eq]
  exact Keeps.foldl (.refl _ s) fun t w h => h.trans (rowWritten_keeps t w)

theorem validLen_le (l : List (Option Nat)) : validLen l ≤ l.length := by
  have step (es : List (Option Nat × Nat)) (m : Nat) (hm : m ≤ l.length) (h : ∀ e ∈ es, e.2 < l.length) :
      es.foldl (fun m e => max m (e.2 + 1)) m ≤ l.length := by
    induction es generalizing m with
    | nil => exact hm
    | cons e es ih =>
      obtain ⟨he, hes⟩ := List.forall_mem_cons.mp h
      exact ih _ (max_le hm he) hes
  refine step _ 0 (Nat.zero_le _) fun e he => ?_
  have place := List.mem_zipIdx (List.mem_filter.mp he).1
  omega

theorem OnlyBytes.refl (key n : Nat) (s : State) : OnlyBytes key n s s := fun _ _ _ => rfl

/-- A row that lies in its space changes that space only (R75). -/
theorem onlyBytes_rowWritten {s : State} {w : Int × List (Option Nat)}
    (h : validLen w.2 = 0 ∨ inSpace space w.1 (packedBytes f (validLen w.2)) = true) :
    OnlyBytes (memKey k space slot 0) (spaceSize space) s (rowWritten k space slot f s w) := by
  have length : (w.2.take (validLen w.2)).length = validLen w.2 := List.length_take_of_le (validLen_le w.2)
  unfold rowWritten
  dsimp only
  rw [length]
  split
  · exact OnlyBytes.refl _ _ _
  · next hn =>
    have inside : inSpace space w.1 (packedBytes f (validLen w.2)) = true := by
      refine h.resolve_left fun zero => hn ?_
      rw [zero]
      unfold packedBytes
      omega
    unfold inSpace at inside
    rw [Bool.and_eq_true, decide_eq_true_iff, decide_eq_true_iff] at inside
    obtain ⟨low, high⟩ := inside
    have key : memKey k space slot w.1.toNat = memKey k space slot 0 + w.1.toNat := by
      unfold memKey
      omega
    intro wf a out
    refine onlyBytes_writeBytes rfl wf a ?_
    rw [length_leBytes, key]
    omega

theorem onlyBytes_writeRows {s : State} {ws : List (Int × List (Option Nat))}
    (h : ∀ w ∈ ws, validLen w.2 = 0 ∨ inSpace space w.1 (packedBytes f (validLen w.2)) = true) :
    OnlyBytes (memKey k space slot 0) (spaceSize space) s (writeRows k space slot f ws s) := by
  rw [writeRows_eq]
  induction ws generalizing s with
  | nil => exact OnlyBytes.refl _ _ _
  | cons w ws ih =>
    obtain ⟨hw, hws⟩ := List.forall_mem_cons.mp h
    intro wf a out
    have first := onlyBytes_rowWritten (k := k) (slot := slot) (s := s) hw wf a out
    have rest := ih (s := rowWritten k space slot f s w) hws (rowWritten_wf w wf) a out
    rw [List.foldl_cons, rest, first]

end

end Sys2Proof.Machine
end

section
/-!
PROOF. A generator's transfer (R75, R77 to R81, R137, R138): its blocks, its faults, and what its tile keeps.
-/

namespace Sys2Proof.Machine

open Sys2Proof

theorem OnlyAG.refl (k gi : Nat) (s : State) : OnlyAG k gi s s := ⟨fun _ _ _ => rfl, fun _ _ => rfl⟩

theorem OnlyAG.trans {k gi : Nat} {s t u : State} (a : OnlyAG k gi s t) (b : OnlyAG k gi t u) : OnlyAG k gi s u :=
  ⟨fun j i hji => (b.1 j i hji).trans (a.1 j i hji), fun j i => (b.2 j i).trans (a.2 j i)⟩

theorem SameAgents.onlyAG {s t : State} (h : SameAgents s t) (k gi : Nat) : OnlyAG k gi s t := OnlyAG.same (OnlyAG.refl k gi s) h

/-! ## What a block is told by (R73, R78, R79, R138) -/

/-- The credit for a ring source's buffer. -/
def sourceCredit (s : State) (k : Nat) (g : AG) : MeshMsg :=
  ⟨⟨cellAt k 3, cellAt k (agSrc g.cfg).2.1, (ccPort (getCC s k (agSrc g.cfg).2.1).cfg 4).binding, domainAt s k, 0⟩, true, 2, []⟩

/-- The token of a block for the port that its ring feeds. -/
def blockToken (s : State) (k : Nat) (g : AG) (i : Nat) (valid : Nat × Nat) : MeshMsg :=
  ⟨⟨cellAt k 3, cellAt k (agDst g.cfg).2.1, (ccPort (getCC s k (agDst g.cfg).2.1).cfg i).binding, domainAt s k, agTag g⟩, true, 1,
    tokenBody valid.1 valid.2⟩

/-- A ring source's buffer returns to its cell. -/
def sourceReturned (k : Nat) (g : AG) (s : State) : State := if agFromRing g then send (sourceCredit s k g) s else s

/-- A ring destination's token goes to its port. -/
def destinationTold (k : Nat) (g : AG) (valid : Nat × Nat) (s : State) : State :=
  if agToRing g then (agPort s k g).elim s (fun i => send (blockToken s k g i valid) s) else s

/-- A staging region passes to its reader. -/
def readerTold (k : Nat) (g : AG) (valid : Nat × Nat) (s : State) : State :=
  (stagingReader s k g).elim s (fun r =>
    if g.next + 1 ≥ agTokens g.cfg then sendToken k 3 (cellAt k 3) r (agTag g) valid.1 valid.2 s else s)

/-- A reader that has finished returns the writer's credit. -/
def writerTold (k : Nat) (g : AG) (s : State) : State :=
  (stagingWriter s k g).elim s (fun w => if g.next + 1 ≥ agTokens g.cfg then sendCredit k 3 (cellAt k 3) w s else s)

theorem agNotify_eq (k : Nat) (g : AG) (valid : Nat × Nat) (s : State) :
    agNotify k g valid s = writerTold k g (readerTold k g valid (destinationTold k g valid (sourceReturned k g s))) := by
  have destination (u : State) : (if agToRing g then
      match agPort u k g with
      | some i => sendToken k 3 (cellAt k (agDst g.cfg).2.1) (ccPort (getCC u k (agDst g.cfg).2.1).cfg i).binding (agTag g) valid.1 valid.2 u
      | none => u
      else u) = destinationTold k g valid u := by
    unfold destinationTold
    cases agPort u k g <;> rfl
  have reader (u : State) : (match stagingReader u k g with
      | some r => if g.next + 1 ≥ agTokens g.cfg then sendToken k 3 (cellAt k 3) r (agTag g) valid.1 valid.2 u else u
      | none => u) = readerTold k g valid u := by
    unfold readerTold
    cases stagingReader u k g <;> rfl
  have writer (u : State) : (match stagingWriter u k g with
      | some w => if g.next + 1 ≥ agTokens g.cfg then sendCredit k 3 (cellAt k 3) w u else u
      | none => u) = writerTold k g u := by
    unfold writerTold
    cases stagingWriter u k g <;> rfl
  rw [← writer, ← reader, ← destination]
  rfl

theorem told_sourceReturned (k : Nat) (g : AG) (s : State) : Told s (sourceReturned k g s) := .ite (.send ..) (.refl s)

theorem told_destinationTold (k : Nat) (g : AG) (valid : Nat × Nat) (s : State) : Told s (destinationTold k g valid s) := by
  unfold destinationTold
  refine .ite ?_ (.refl s)
  cases agPort s k g with
  | none => exact .refl s
  | some i => exact .send ..

theorem told_readerTold (k : Nat) (g : AG) (valid : Nat × Nat) (s : State) : Told s (readerTold k g valid s) := by
  unfold readerTold
  cases stagingReader s k g with
  | none => exact .refl s
  | some r => exact .ite (.send ..) (.refl s)

theorem told_writerTold (k : Nat) (g : AG) (s : State) : Told s (writerTold k g s) := by
  unfold writerTold
  cases stagingWriter s k g with
  | none => exact .refl s
  | some r => exact .ite (.send ..) (.refl s)

theorem told_agNotify (k : Nat) (g : AG) (valid : Nat × Nat) (s : State) : Told s (agNotify k g valid s) := by
  rw [agNotify_eq]
  exact (((told_sourceReturned ..).trans (told_destinationTold ..)).trans (told_readerTold ..)).trans (told_writerTold ..)

theorem carried_sourceCredit {k : Nat} {g : AG} (h : agFromRing g = true) (valid : Nat × Nat) (s : State) :
    sourceCredit s k g ∈ (agNotify k g valid s).mesh.flight := by
  rw [agNotify_eq]
  refine (((told_destinationTold ..).trans (told_readerTold ..)).trans (told_writerTold ..)).carries _ ?_
  unfold sourceReturned
  rw [if_pos h]
  exact carried_send ..

theorem carried_blockToken {k i : Nat} {g : AG} {s : State} (h : agToRing g = true) (hi : agPort s k g = some i) (valid : Nat × Nat) :
    blockToken s k g i valid ∈ (agNotify k g valid s).mesh.flight := by
  have told := told_sourceReturned k g s
  have cells (j : Nat) : getCC (sourceReturned k g s) k j = getCC s k j := told.agents.getCC k j
  have port : agPort (sourceReturned k g s) k g = some i := by
    unfold agPort at hi ⊢
    simpa only [cells] using hi
  have same : blockToken (sourceReturned k g s) k g i valid = blockToken s k g i valid := by
    unfold blockToken
    rw [cells, told.ground.domainAt]
  rw [agNotify_eq, ← same]
  refine ((told_readerTold ..).trans (told_writerTold ..)).carries _ ?_
  unfold destinationTold
  rw [if_pos h, port]
  exact carried_send ..

/-! ## The copy -/

/-- The rows of a generator's next block, with its border where it has a halo window (R137). -/
def blockRows (s : State) (k : Nat) (g : AG) : List (List (Option Nat)) := if agHasHalo g.cfg then padded s k g else agBlock s k g

/-- The writes of a generator's next block. -/
def blockWrites (s : State) (k : Nat) (g : AG) : List (Int × List (Option Nat)) := agWrites s k g (blockRows s k g)

/-- A block's writes lie in their space (R75). -/
def blockFits (g : AG) (ws : List (Int × List (Option Nat))) : Bool :=
  ws.all (fun w => validLen w.2 == 0 || inSpace (agDst g.cfg).1 w.1 (packedBytes (agFmt g.cfg) (validLen w.2)))

theorem blockFits_iff (g : AG) (ws : List (Int × List (Option Nat))) : blockFits g ws = true ↔
    ∀ v ∈ ws, validLen v.2 = 0 ∨ inSpace (agDst g.cfg).1 v.1 (packedBytes (agFmt g.cfg) (validLen v.2)) = true := by
  unfold blockFits
  rw [List.all_eq_true]
  exact forall₂_congr fun v _ => by rw [Bool.or_eq_true, beq_iff_eq]

/-- The block and its strips have been read (R67). -/
def blockRead (s : State) (k : Nat) (g : AG) : State := (agReads s k g ++ haloReads s k g).foldl (fun s e => touchRead e.1 e.2 s) s

/-- The rows of a block stand at their places, and its accesses are counted. -/
def blockWritten (s : State) (k : Nat) (g : AG) : State :=
  let ws := blockWrites s k g
  let f := agFmt g.cfg
  writeRows k (agDst g.cfg).1 (agDst g.cfg).2.1 f ws
    (countAccess k (agDst g.cfg).1 (accessesOf (agDst g.cfg).1 (ws.map (fun w => (w.1.toNat, packedBytes f (validLen w.2)))))
      (countAccess k (agSrc g.cfg).1 (accessesOf (agSrc g.cfg).1 (agReads s k g)) (blockRead s k g)))

/-- The generator has counted its block (R78, R79). -/
def blockCounted (s : State) (k gi : Nat) (g : AG) : State :=
  modAG k gi (fun (a : AG) => agAdvance (blockWritten s k g) k a) (blockWritten s k g)

section
variable {k gi : Nat} {s : State}

theorem agCopy_eq (k gi : Nat) (s : State) : agCopy k gi s =
    let g := getAG s k gi
    if !blockFits g (blockWrites s k g) then cellFault k 3 gi 0x105 (blockRead s k g)
    else (agError s k g (haloReads s k g)).elim
      (doneTry k (agNotify k g (agValid (blockRead s k g) k g) (blockCounted s k gi g)))
      (fun code => cellFault k 3 gi code (noteUncorrected k (blockRead s k g))) := by
  unfold agCopy blockFits blockCounted blockWritten blockWrites blockRows blockRead
  dsimp only
  cases agError s k (getAG s k gi) (haloReads s k (getAG s k gi)) with
  | none => dsimp only [Option.elim_none]
  | some code => dsimp only [Option.elim_some]

theorem agCopy_overruns (h : blockFits (getAG s k gi) (blockWrites s k (getAG s k gi)) = false) :
    agCopy k gi s = cellFault k 3 gi 0x105 (blockRead s k (getAG s k gi)) := by
  rw [agCopy_eq]
  dsimp only
  rw [h]
  exact if_pos rfl

theorem agCopy_errs {code : Nat} (h : blockFits (getAG s k gi) (blockWrites s k (getAG s k gi)) = true)
    (he : agError s k (getAG s k gi) (haloReads s k (getAG s k gi)) = some code) :
    agCopy k gi s = cellFault k 3 gi code (noteUncorrected k (blockRead s k (getAG s k gi))) := by
  rw [agCopy_eq]
  dsimp only
  rw [h, he]
  exact if_neg Bool.false_ne_true

theorem agCopy_copies (h : blockFits (getAG s k gi) (blockWrites s k (getAG s k gi)) = true)
    (he : agError s k (getAG s k gi) (haloReads s k (getAG s k gi)) = none) : agCopy k gi s =
    doneTry k (agNotify k (getAG s k gi) (agValid (blockRead s k (getAG s k gi)) k (getAG s k gi)) (blockCounted s k gi (getAG s k gi))) := by
  rw [agCopy_eq]
  dsimp only
  rw [h, he]
  exact if_neg Bool.false_ne_true

/-- The reads of a block change the counts of corrected words only. -/
theorem blockRead_told (s : State) (k : Nat) (g : AG) : SameAgents s (blockRead s k g) ∧ Ground s (blockRead s k g) ∧ SameStores s (blockRead s k g) :=
  ⟨.foldl (fun _ _ => sameAgents_touchRead ..) _ s, .foldl (fun _ _ => ground_touchRead ..) _ s, .foldl (fun _ _ => sameStores_touchRead ..) _ s⟩

theorem ground_writeRows (k space slot f : Nat) (ws : List (Int × List (Option Nat))) (s : State) : Ground s (writeRows k space slot f ws s) := by
  have only := (writeRows_keeps_stores (k := k) (space := space) (slot := slot) (f := f) ws s).only
  exact .of_same (only .fld rfl) (only .parts rfl) (only .mesh rfl) (only .tiles rfl)

/-- A generator that has counted a block (R73, R78, R79, R147). -/
structure Advanced (g a : AG) : Prop where
  next : a.next = g.next + 1
  finished : a.finished = decide (agTokens g.cfg ≤ g.next + 1)
  used : a.used = if agToRing g = true then g.used + 1 else g.used
  tokens : a.tokens = if agFromRing g = true then g.tokens.drop 1 else g.tokens

theorem advanced_agAdvance (s : State) (k : Nat) (g : AG) : Advanced g (agAdvance s k g) := ⟨rfl, rfl, rfl, rfl⟩

/-- A block that a generator has copied (R75, R77 to R79). -/
structure BlockCopied (s : State) (k gi : Nat) (g : AG) (u : State) : Prop where
  mem : u.mem = (writeRows k (agDst g.cfg).1 (agDst g.cfg).2.1 (agFmt g.cfg) (blockWrites s k g) s).mem
  generator : Advanced g (getAG u k gi)
  only : OnlyAG k gi s u
  remote : (getTile u k).remote = (getTile s k).remote
  token : ∀ i, agToRing g = true → agPort s k g = some i → blockToken s k g i (agValid s k g) ∈ u.mesh.flight
  credit : agFromRing g = true → sourceCredit s k g ∈ u.mesh.flight

theorem blockWritten_told (s : State) (k : Nat) (g : AG) : SameAgents s (blockWritten s k g) ∧ Ground s (blockWritten s k g) ∧
    (blockWritten s k g).mem = (writeRows k (agDst g.cfg).1 (agDst g.cfg).2.1 (agFmt g.cfg) (blockWrites s k g) s).mem := by
  obtain ⟨agents, ground, stores⟩ := blockRead_told s k g
  have counted (space n : Nat) (t : State) : SameAgents t (countAccess k space n t) := .of_keeps (countAccess_keeps ..)
  have kept (space n : Nat) (t : State) : (countAccess k space n t).mem = t.mem := (countAccess_keeps ..).only .mem rfl
  refine ⟨((agents.trans (counted ..)).trans (counted ..)).trans (.of_keeps (writeRows_keeps_stores ..)),
    ((ground.trans (ground_countAccess ..)).trans (ground_countAccess ..)).trans (ground_writeRows ..), ?_⟩
  refine writeRows_mem ?_ _
  rw [kept, kept, stores.mem]

theorem copied (he : agError s k (getAG s k gi) (haloReads s k (getAG s k gi)) = none)
    (h : blockFits (getAG s k gi) (blockWrites s k (getAG s k gi)) = true) : BlockCopied s k gi (getAG s k gi) (agCopy k gi s) := by
  rw [agCopy_copies h he]
  generalize hg : getAG s k gi = g
  obtain ⟨agents, ground, mem⟩ := blockWritten_told s k g
  have counted : Ground s (blockCounted s k gi g) := ground.trans (ground_modAG ..)
  have cells (i : Nat) : getCC (blockCounted s k gi g) k i = getCC s k i := by
    have own : OnlyAG k gi s (blockCounted s k gi g) := onlyAG_modAG agents
    exact own.2 k i
  have valid : agValid (blockRead s k g) k g = agValid s k g := agValid_congr (fun i => (blockRead_told s k g).1.getCC k i) g
  have told := (told_agNotify k g (agValid s k g) (blockCounted s k gi g)).trans (told_doneTry k _)
  rw [valid]
  refine ⟨told.stores.mem.trans mem, ?_, OnlyAG.same (onlyAG_modAG agents) told.agents, ?_, fun i hr hi => ?_, fun hr => ?_⟩
  · rw [told.agents.getAG]
    unfold blockCounted
    rw [getAG_modAG, if_pos ⟨rfl, rfl⟩, agents.getAG, hg]
    exact advanced_agAdvance ..
  · rw [told.ground.remote, counted.remote]
  · have port : agPort (blockCounted s k gi g) k g = some i := by
      unfold agPort at hi ⊢
      simpa only [cells] using hi
    have same : blockToken (blockCounted s k gi g) k g i (agValid s k g) = blockToken s k g i (agValid s k g) := by
      unfold blockToken
      rw [cells, counted.domainAt]
    rw [← same]
    exact carries_doneTry k _ _ (carried_blockToken hr port _)
  · have same : sourceCredit (blockCounted s k gi g) k g = sourceCredit s k g := by
      unfold sourceCredit
      rw [cells, counted.domainAt]
    rw [← same]
    exact carries_doneTry k _ _ (carried_sourceCredit hr _ _)

/-! ## The strips go first -/

/-- The strips of a block go before it (R81). -/
def stripsFirst (s : State) (k gi : Nat) : Bool := agHasHalo (getAG s k gi).cfg && (getAG s k gi).haloSent ≤ (getAG s k gi).next

/-- The source of a block has been read for its strips (R67, R81). -/
def sourceRead (s : State) (k gi : Nat) : State := (agReads s k (getAG s k gi)).foldl (fun s e => touchRead e.1 e.2 s) s

/-- A generator's strips have left where they had to (R81). -/
def stripsLeft (s : State) (k gi : Nat) : State := if stripsFirst s k gi then sendStrips k gi (sourceRead s k gi) else s

/-- A generator that has what its next block needs (R78, R79, R138). -/
def MayTransfer (s : State) (k gi : Nat) : Prop :=
  (running s k).isSome = true ∧ (getTile s k).run = .running ∧ (getAG s k gi).expected = 0 ∧ agReady s k (getAG s k gi) = true

theorem agTry_of_not_ready (h : ¬MayTransfer s k gi) : agTry k gi s = s := by
  refine if_pos ?_
  unfold MayTransfer at h
  rw [Bool.not_eq_true', Option.isNone_iff_eq_none]
  rw [Option.isSome_iff_ne_none, ← Bool.not_eq_false] at h
  by_contra hn
  push Not at hn
  obtain ⟨a, b, c, d⟩ := hn
  exact h ⟨a, b, by omega, by simpa using d⟩

section
variable (hr : MayTransfer s k gi)
include hr

theorem agTry_of_ready : agTry k gi s =
    if !agReadsOk s k (getAG s k gi) then cellFault k 3 gi 0x105 s
    else (if stripsFirst s k gi then agError s k (getAG s k gi) [] else none).elim
      (if agHasHalo (getAG s k gi).cfg && !haloReady (stripsLeft s k gi) k (getAG (stripsLeft s k gi) k gi) then stripsLeft s k gi
       else agCopy k gi (stripsLeft s k gi))
      (fun code => cellFault k 3 gi code (noteUncorrected k (sourceRead s k gi))) := by
  obtain ⟨some', run, open', ready⟩ := hr
  have go : ¬((running s k).isNone = true ∨ (getTile s k).run ≠ .running ∨ (getAG s k gi).expected > 0 ∨
      (!agReady s k (getAG s k gi)) = true) := by
    rw [ready, open', run, Option.isNone_eq_false_iff.mpr some']
    simp
  refine (if_neg go).trans ?_
  unfold stripsFirst
  dsimp only
  cases (if (agHasHalo (getAG s k gi).cfg && decide ((getAG s k gi).haloSent ≤ (getAG s k gi).next)) = true then
    agError s k (getAG s k gi) [] else none) with
  | none => rfl
  | some code => rfl

theorem agTry_outside (h : agReadsOk s k (getAG s k gi) = false) : agTry k gi s = cellFault k 3 gi 0x105 s := by
  rw [agTry_of_ready hr, h]
  rfl

theorem agTry_within (h : agReadsOk s k (getAG s k gi) = true) : agTry k gi s =
    (if stripsFirst s k gi then agError s k (getAG s k gi) [] else none).elim
      (if agHasHalo (getAG s k gi).cfg && !haloReady (stripsLeft s k gi) k (getAG (stripsLeft s k gi) k gi) then stripsLeft s k gi
       else agCopy k gi (stripsLeft s k gi))
      (fun code => cellFault k 3 gi code (noteUncorrected k (sourceRead s k gi))) := by
  rw [agTry_of_ready hr, h]
  rfl

end

end

end Sys2Proof.Machine
end

section
/-!
PROOF. What GENERATOR_TRANSFER does in each case of a generator (R75, R77 to R81, R137, R138).
-/

namespace Sys2Proof.Machine

open Sys2Proof

/-! ## A generator whose strips have left -/

/-- A generator that has sent its strips n times. -/
def sentBy (n : Nat) (g : AG) : AG := { g with haloSent := n }

section
variable (s : State) (k n : Nat) (g : AG)

theorem agReads_sentBy : agReads s k (sentBy n g) = agReads s k g := rfl

theorem haloReads_sentBy : haloReads s k (sentBy n g) = haloReads s k g := rfl

theorem haloReady_sentBy : haloReady s k (sentBy n g) = haloReady s k g := rfl

theorem blockRows_sentBy : blockRows s k (sentBy n g) = blockRows s k g := rfl

theorem agWrites_sentBy (rows : List (List (Option Nat))) : agWrites s k (sentBy n g) rows = agWrites s k g rows := rfl

theorem agValid_sentBy : agValid s k (sentBy n g) = agValid s k g := rfl

end

section
variable {k gi : Nat} {s : State}

theorem sourceRead_told (s : State) (k gi : Nat) : SameAgents s (sourceRead s k gi) ∧ Ground s (sourceRead s k gi) ∧ SameStores s (sourceRead s k gi) :=
  ⟨.foldl (fun _ _ => sameAgents_touchRead ..) _ s, .foldl (fun _ _ => ground_touchRead ..) _ s, .foldl (fun _ _ => sameStores_touchRead ..) _ s⟩

/-- What stays of the sites and stores while a generator sends its strips. -/
structure StripsOf (k gi : Nat) (s t : State) : Prop where
  only : OnlyAG k gi s t
  ground : Ground s t
  stores : SameStores s t
  generator : ∃ n, getAG t k gi = sentBy n (getAG s k gi)

theorem strips_told (k gi : Nat) (s : State) : Told (stripsNoted k gi s) (sendStrips k gi s) := by
  rw [sendStrips_eq]
  exact .foldl (fun _ _ => told_stripSent ..) _ _

theorem getAG_sendStrips (k gi : Nat) (s : State) :
    getAG (sendStrips k gi (sourceRead s k gi)) k gi = sentBy ((getAG s k gi).next + 1) (getAG s k gi) := by
  rw [(strips_told ..).agents.getAG]
  unfold stripsNoted
  rw [getAG_modAG, if_pos ⟨rfl, rfl⟩, (sourceRead_told s k gi).1.getAG]
  rfl

theorem stripsOf_sendStrips (k gi : Nat) (s : State) : StripsOf k gi s (sendStrips k gi (sourceRead s k gi)) := by
  obtain ⟨agents, ground, stores⟩ := sourceRead_told s k gi
  have told := strips_told k gi (sourceRead s k gi)
  have noted : Keeps [.tiles] (sourceRead s k gi) (stripsNoted k gi (sourceRead s k gi)) := modAG_keeps ..
  exact ⟨OnlyAG.same (onlyAG_modAG agents) told.agents, (ground.trans (ground_modAG ..)).trans told.ground,
    (stores.trans (.of_keeps noted)).trans told.stores, ⟨_, getAG_sendStrips k gi s⟩⟩

theorem stripsOf_stripsLeft (k gi : Nat) (s : State) : StripsOf k gi s (stripsLeft s k gi) := by
  unfold stripsLeft
  split
  · exact stripsOf_sendStrips k gi s
  · exact ⟨OnlyAG.refl k gi s, .refl s, .refl s, ⟨_, rfl⟩⟩

theorem StripsOf.haloReady {t : State} (h : StripsOf k gi s t) : Machine.haloReady t k (getAG t k gi) = Machine.haloReady s k (getAG s k gi) := by
  obtain ⟨n, e⟩ := h.generator
  rw [e, haloReady_sentBy, haloReady_congr h.ground]

theorem StripsOf.blockWrites {t : State} (h : StripsOf k gi s t) : Machine.blockWrites t k (getAG t k gi) = Machine.blockWrites s k (getAG s k gi) := by
  obtain ⟨n, e⟩ := h.generator
  have cells (i : Nat) : getCC t k i = getCC s k i := h.only.2 k i
  unfold Machine.blockWrites
  rw [e, agWrites_sentBy, blockRows_sentBy, agWrites_congr cells]
  unfold blockRows
  rw [padded_congr h.ground cells h.stores.mem, agBlock_congr cells h.stores.mem]

theorem StripsOf.agReads {t : State} (h : StripsOf k gi s t) : Machine.agReads t k (getAG t k gi) = Machine.agReads s k (getAG s k gi) := by
  obtain ⟨n, e⟩ := h.generator
  rw [e, agReads_sentBy, agReads_congr (h.only.2 k)]

theorem StripsOf.haloReads {t : State} (h : StripsOf k gi s t) : Machine.haloReads t k (getAG t k gi) = Machine.haloReads s k (getAG s k gi) := by
  obtain ⟨n, e⟩ := h.generator
  rw [e, haloReads_sentBy, haloReads_congr h.ground]

/-! ## Errors that a block meets -/

theorem agError_none {g : AG} {halo : List (Nat × Nat)} (hr : ∀ e ∈ agReads s k g, hasDouble s e.1 e.2 = false)
    (hh : ∀ e ∈ halo, hasDouble s e.1 e.2 = false) : agError s k g halo = none := by
  have reads : ¬(agReads s k g).any (fun e => hasDouble s e.1 e.2) = true := by
    rw [List.any_eq_true]
    rintro ⟨e, he, bad⟩
    rw [hr e he] at bad
    cases bad
  have strips : ¬halo.any (fun e => hasDouble s e.1 e.2) = true := by
    rw [List.any_eq_true]
    rintro ⟨e, he, bad⟩
    rw [hh e he] at bad
    cases bad
  unfold agError
  rw [if_neg reads, if_neg strips]

theorem agError_some {g : AG} {halo : List (Nat × Nat)}
    (h : (∃ e ∈ agReads s k g, hasDouble s e.1 e.2 = true) ∨ ∃ e ∈ halo, hasDouble s e.1 e.2 = true) : ∃ code, agError s k g halo = some code := by
  unfold agError
  by_cases reads : (agReads s k g).any (fun e => hasDouble s e.1 e.2) = true
  · rw [if_pos reads]
    exact ⟨_, rfl⟩
  · have strips := h.resolve_left fun bad => reads (List.any_eq_true.mpr bad)
    rw [if_neg reads, if_pos (List.any_eq_true.mpr strips)]
    exact ⟨_, rfl⟩

/-! ## The cases of a transfer -/

section
variable (hr : MayTransfer s k gi)
include hr

theorem agTry_strips_err (hin : agReadsOk s k (getAG s k gi) = true) (hf : stripsFirst s k gi = true)
    (hd : ∃ e ∈ agReads s k (getAG s k gi), hasDouble s e.1 e.2 = true) (hg : gi < 4) : (getAG (agTry k gi s) k gi).stopped = true := by
  obtain ⟨code, err⟩ := agError_some (halo := []) (.inl hd)
  rw [agTry_within hr hin, if_pos hf, err]
  exact cellFault_stops_generator (le_refl 3) hg code _

/-- A generator whose strips meet no error has sent them, or copies its block (R81). -/
theorem agTry_goes (hin : agReadsOk s k (getAG s k gi) = true)
    (hd : stripsFirst s k gi = true → ∀ e ∈ agReads s k (getAG s k gi), hasDouble s e.1 e.2 = false) : agTry k gi s =
      if agHasHalo (getAG s k gi).cfg && !haloReady s k (getAG s k gi) then stripsLeft s k gi else agCopy k gi (stripsLeft s k gi) := by
  have good : (if stripsFirst s k gi then agError s k (getAG s k gi) [] else none) = none := by
    split
    · next hf => exact agError_none (hd hf) fun _ he => by cases he
    · rfl
  rw [agTry_within hr hin, good, (stripsOf_stripsLeft k gi s).haloReady]
  rfl

theorem agTry_waits (hin : agReadsOk s k (getAG s k gi) = true) (hh : agHasHalo (getAG s k gi).cfg = true)
    (hw : haloReady s k (getAG s k gi) = false)
    (hd : stripsFirst s k gi = true → ∀ e ∈ agReads s k (getAG s k gi), hasDouble s e.1 e.2 = false) : agTry k gi s = stripsLeft s k gi := by
  rw [agTry_goes hr hin hd, hh, hw]
  exact if_pos rfl

theorem agTry_copies (hin : agReadsOk s k (getAG s k gi) = true)
    (hw : agHasHalo (getAG s k gi).cfg = true → haloReady s k (getAG s k gi) = true)
    (hd : stripsFirst s k gi = true → ∀ e ∈ agReads s k (getAG s k gi), hasDouble s e.1 e.2 = false) :
    agTry k gi s = agCopy k gi (stripsLeft s k gi) := by
  have go : ¬(agHasHalo (getAG s k gi).cfg && !haloReady s k (getAG s k gi)) = true := by
    rw [Bool.and_eq_true, Bool.not_eq_true']
    rintro ⟨hh, hn⟩
    rw [hw hh] at hn
    cases hn
  rw [agTry_goes hr hin hd, if_neg go]

end

theorem stripsFirst_iff : stripsFirst s k gi = true ↔ agHasHalo (getAG s k gi).cfg = true ∧ (getAG s k gi).haloSent ≤ (getAG s k gi).next := by
  unfold stripsFirst
  rw [Bool.and_eq_true, decide_eq_true_iff]

/-- Each strip's pieces are on their way to the neighbour of its side (R80, R81). -/
theorem strips_sent {e : Nat × Int × Int} {p : Nat} {b : List Byte} (he : e ∈ haloSides (getAG s k gi).cfg) (hs : e.1 < 4)
    (hp : haloPeer s k e.2 = some p)
    (hb : b ∈ chunks 304 (((haloStrip (getAG s k gi).cfg e.1 (agBlock s k (getAG s k gi))).length + 303) / 304)
      (haloStrip (getAG s k gi).cfg e.1 (agBlock s k (getAG s k gi)))) :
    stripPiece k gi (haloOpposite e.1) p (domainAt s k) b ∈ (sendStrips k gi (sourceRead s k gi)).mesh.flight := by
  obtain ⟨agents, ground, stores⟩ := sourceRead_told s k gi
  have noted : Ground s (stripsNoted k gi (sourceRead s k gi)) := ground.trans (ground_modAG ..)
  have block : agBlock (sourceRead s k gi) k (getAG s k gi) = agBlock s k (getAG s k gi) := agBlock_congr (agents.getCC k) stores.mem _
  rw [sendStrips_eq, agents.getAG, block, ← noted.domainAt]
  exact carried_strips k gi _ _ _ _ e (List.mem_filter.mpr ⟨he, by simpa using hs⟩) (by rwa [noted.haloPeer]) b hb

/-- A block that is copied after its strips have left is the block of the state before (R77 to R81). -/
theorem copied_after_strips (hr : ∀ e ∈ agReads s k (getAG s k gi), hasDouble s e.1 e.2 = false)
    (hh : ∀ e ∈ haloReads s k (getAG s k gi), hasDouble s e.1 e.2 = false)
    (hf : blockFits (getAG s k gi) (blockWrites s k (getAG s k gi)) = true) :
    BlockCopied s k gi (getAG s k gi) (agCopy k gi (stripsLeft s k gi)) := by
  have strips := stripsOf_stripsLeft k gi s
  generalize stripsLeft s k gi = t at strips
  obtain ⟨n, e⟩ := strips.generator
  have err : agError t k (getAG t k gi) (haloReads t k (getAG t k gi)) = none := by
    refine agError_none (fun x hx => ?_) fun x hx => ?_
    · rw [strips.stores.hasDouble]
      exact hr x (by rwa [strips.agReads] at hx)
    · rw [strips.stores.hasDouble]
      exact hh x (by rwa [strips.haloReads] at hx)
  have fits : blockFits (getAG t k gi) (blockWrites t k (getAG t k gi)) = true := by
    rw [strips.blockWrites, e]
    exact hf
  have cells : ∀ i, getCC t k i = getCC s k i := strips.only.2 k
  obtain ⟨mem, generator, only, remote, token, credit⟩ := copied err fits
  rw [strips.blockWrites, e] at mem
  rw [e] at generator token credit
  have same (i : Nat) (valid : Nat × Nat) : blockToken t k (sentBy n (getAG s k gi)) i valid = blockToken s k (getAG s k gi) i valid := by
    unfold blockToken
    rw [strips.ground.domainAt]
    simp only [cells]
    rfl
  have back : sourceCredit t k (sentBy n (getAG s k gi)) = sourceCredit s k (getAG s k gi) := by
    unfold sourceCredit
    rw [strips.ground.domainAt]
    simp only [cells]
    rfl
  obtain ⟨next, finished, used, tokens⟩ := generator
  refine ⟨mem.trans (writeRows_mem strips.stores.mem _), ⟨next, finished, used, tokens⟩, OnlyAG.trans strips.only only,
    remote.trans (strips.ground.remote k), fun i ring port => ?_, fun ring => ?_⟩
  · have found : agPort t k (sentBy n (getAG s k gi)) = some i := by
      unfold agPort at port ⊢
      simp only [cells]
      exact port
    have sent := token i ring found
    rwa [same, agValid_sentBy, agValid_congr cells] at sent
  · have sent := credit ring
    rwa [back] at sent

/-- A generator whose block overruns its space, or meets an uncorrectable word, is stopped (R75, R85). -/
theorem copy_fails (hg : gi < 4) (h : ¬blockFits (getAG s k gi) (blockWrites s k (getAG s k gi)) = true ∨
    (∃ e ∈ agReads s k (getAG s k gi), hasDouble s e.1 e.2 = true) ∨ ∃ e ∈ haloReads s k (getAG s k gi), hasDouble s e.1 e.2 = true) :
    (getAG (agCopy k gi (stripsLeft s k gi)) k gi).stopped = true := by
  have strips := stripsOf_stripsLeft k gi s
  generalize stripsLeft s k gi = t at strips
  obtain ⟨n, e⟩ := strips.generator
  have same : blockFits (getAG t k gi) (blockWrites t k (getAG t k gi)) = blockFits (getAG s k gi) (blockWrites s k (getAG s k gi)) := by
    rw [strips.blockWrites, e]
    rfl
  cases fits : blockFits (getAG s k gi) (blockWrites s k (getAG s k gi)) with
  | false =>
    rw [agCopy_overruns (same.trans fits)]
    exact cellFault_stops_generator (le_refl 3) hg 0x105 _
  | true =>
    have bad := h.resolve_left (not_not_intro fits)
    obtain ⟨code, err⟩ : ∃ code, agError t k (getAG t k gi) (haloReads t k (getAG t k gi)) = some code := by
      refine agError_some ?_
      rw [strips.agReads, strips.haloReads]
      simpa only [strips.stores.hasDouble] using bad
    rw [agCopy_errs (same.trans fits) err]
    exact cellFault_stops_generator (le_refl 3) hg code _

end

/-! ## The command -/

theorem generatorTransfer_after {x y gi : Nat} {s : State} {q : State → Prop} (h : q (agTry (siteKey x y) gi s)) :
    Completes (.generatorTransfer x y gi) s (fun t => ∃ u, q u ∧ t = mcServe (siteKey x y) u) :=
  completes_of_exec rfl ⟨_, h, rfl⟩

theorem mcServe_of_empty {k : Nat} {u : State} (h : (getTile u k).remote = []) : mcServe k u = u := by
  unfold mcServe
  rw [h]
  rfl

/-- Settles O46: a transfer's outcome is that of its strips, its checks and its copy, whose parts each state what they leave. -/
theorem generatorsFillTheirBuffers : Obligations.GeneratorsFillTheirBuffers := by
  unfold Obligations.GeneratorsFillTheirBuffers
  intro x y gi s
  refine ⟨fun u h => mcServe_of_empty h, fun h => generatorTransfer_after (agTry_of_not_ready h), ?_⟩
  refine ⟨fun hr hg out => generatorTransfer_after ?_, ?_⟩
  · rw [agTry_outside hr out]
    exact cellFault_stops_generator (le_refl 3) hg 0x105 s
  refine ⟨fun hr hg hin hh first bad => generatorTransfer_after (agTry_strips_err hr hin (stripsFirst_iff.mpr ⟨hh, first⟩) bad hg), ?_⟩
  refine ⟨fun hr hin hh first hw good => generatorTransfer_after ?_, ?_⟩
  · have strips := stripsOf_sendStrips (siteKey x y) gi s
    have left : stripsLeft s (siteKey x y) gi = sendStrips (siteKey x y) gi (sourceRead s (siteKey x y) gi) := if_pos (stripsFirst_iff.mpr ⟨hh, first⟩)
    rw [agTry_waits hr hin hh hw fun _ => good, left]
    exact ⟨getAG_sendStrips (siteKey x y) gi s, strips.only, strips.stores.mem, strips.ground.remote _,
      fun e he hs p hp b hb => strips_sent he hs hp hb⟩
  refine ⟨fun hr hin hh later hw => generatorTransfer_after ?_, ?_⟩
  · have late : ¬stripsFirst s (siteKey x y) gi = true := fun first => absurd (stripsFirst_iff.mp first).2 (Nat.not_le.mpr later)
    rw [agTry_waits hr hin hh hw fun first => absurd first late]
    exact if_neg late
  refine ⟨fun hr hin hw good strips fits => generatorTransfer_after ?_, fun hr hg hin hw good bad => generatorTransfer_after ?_⟩
  · rw [agTry_copies hr hin hw fun _ => good]
    obtain ⟨mem, ⟨next, finished, used, tokens⟩, only, remote, token, credit⟩ := copied_after_strips good strips ((blockFits_iff ..).mpr fits)
    exact ⟨mem, OnlyBytes.congr (onlyBytes_writeRows fits) mem, remote, next, finished, used, tokens, only, token, credit⟩
  · have first : stripsFirst s (siteKey x y) gi = true → ∀ e ∈ agReads s (siteKey x y) (getAG s (siteKey x y) gi), hasDouble s e.1 e.2 = false :=
      fun first => good (stripsFirst_iff.mp first).1 (stripsFirst_iff.mp first).2
    rw [agTry_copies hr hin hw first]
    refine copy_fails hg ?_
    rwa [blockFits_iff]

end Sys2Proof.Machine
end

section
/-!
PROOF. Strips, streams, corrected words and samples (R57, R67, R80, R81, R139, R168, R207): what each writes in a tile's stores.
-/

namespace Sys2Proof.Machine

open Sys2Proof

theorem Crossed.mem {s u : State} (h : Crossed s u) : u.mem = s.mem := h.only .mem rfl

theorem Crossed.ground {s u : State} (h : Crossed s u) : Ground s u where
  owners := h.owner
  jobs := ⟨fun p => by rw [getPart_congr h.parts]⟩
  cover := by
    obtain ⟨l, m, e⟩ := h.mesh
    rw [e]
  remote k := by rw [h.getTile]

theorem writeBytes_mem_congr {s t : State} (h : t.mem = s.mem) (key : Nat) (bs : List Byte) : (writeBytes key bs t).mem = (writeBytes key bs s).mem := by
  show cellsSet t.mem key bs = cellsSet s.mem key bs
  rw [h]

/-! ## Strips that arrive (R80, R81, R139) -/

section
variable {k gi q : Nat} {data : List Byte} {s u : State}

/-- The region of a neighbour that a corner block of a received strip fills (R139). -/
def cornerRegion (side q : Nat) : Nat := if side = 2 then (if q = 1 then 7 else 5) else (if q = 1 then 6 else 4)

/-- The corner block of a received strip goes on to the neighbour of a side (R139). -/
def cornerSent (k gi q : Nat) (g : AG) (s : State) (e : Nat × Int × Int) : State :=
  (haloPeer s k e.2).elim s (fun p => sendStrip k gi (cornerRegion e.1 q) p (cornerBlock s k g q (e.1 == 2)) s)

theorem told_cornerSent (k gi q : Nat) (g : AG) (s : State) (e : Nat × Int × Int) : Told s (cornerSent k gi q g s e) := by
  unfold cornerSent
  cases haloPeer s k e.2 with
  | none => exact .refl s
  | some p => exact told_sendStrip ..

theorem passCorners_eq (k gi q : Nat) (s : State) : passCorners k gi q s =
    if q ≥ 2 ∨ !agCorners (getAG s k gi).cfg then s
    else ((haloSides (getAG s k gi).cfg).filter (fun e => e.1 == 2 || e.1 == 3)).foldl (cornerSent k gi q (getAG s k gi)) s := by
  unfold passCorners
  dsimp only
  refine congrArg (fun f => ite _ s (List.foldl f s _)) (funext₂ fun u e => ?_)
  unfold cornerSent
  cases haloPeer u k e.2 with
  | none => rfl
  | some p => rfl

theorem told_passCorners (k gi q : Nat) (s : State) : Told s (passCorners k gi q s) := by
  rw [passCorners_eq]
  exact .ite (.refl s) (.foldl (fun _ _ => told_cornerSent ..) _ s)

theorem cornerBlock_congr {s t : State} (h : t.mem = s.mem) (k : Nat) (g : AG) (q : Nat) (east : Bool) :
    cornerBlock t k g q east = cornerBlock s k g q east := by
  unfold cornerBlock
  rw [show readBytes t = readBytes s from funext₂ (readBytes_congr h)]

theorem carried_corners (k gi q : Nat) (g : AG) (l : List (Nat × Int × Int)) (s : State) (e : Nat × Int × Int) (he : e ∈ l) {p : Nat}
    (hp : haloPeer s k e.2 = some p) (b : List Byte)
    (hb : b ∈ chunks 304 (((cornerBlock s k g q (e.1 == 2)).length + 303) / 304) (cornerBlock s k g q (e.1 == 2))) :
    stripPiece k gi (cornerRegion e.1 q) p (domainAt s k) b ∈ (l.foldl (cornerSent k gi q g) s).mesh.flight := by
  induction l generalizing s with
  | nil => cases he
  | cons x l ih =>
    rw [List.foldl_cons]
    obtain rfl | he := List.mem_cons.mp he
    · refine (Told.foldl (fun _ _ => told_cornerSent ..) l _).carries _ ?_
      unfold cornerSent
      rw [hp]
      exact carried_sendStrip k gi _ p _ s b hb
    · have told := told_cornerSent k gi q g s x
      have rest := ih (cornerSent k gi q g s x) he (by rwa [told.ground.haloPeer]) (by rwa [cornerBlock_congr told.stores.mem])
      rwa [told.ground.domainAt] at rest

/-- Where the next bytes of a strip stand (R80). -/
def stripKey (g : AG) (k q : Nat) : Nat := memKey k 1 0 (haloBase g.cfg q + amGet g.haloFill q 0)

/-- Those of a strip's bytes that its region still takes. -/
def stripBytes (g : AG) (q : Nat) (data : List Byte) : List Byte := data.take (haloBytes g.cfg q - amGet g.haloFill q 0)

/-- The bytes of a strip stand in its receive region. -/
def stripStored (k gi q : Nat) (data : List Byte) (s : State) : State :=
  let g := getAG s k gi
  countAccess k 1 (accessesOf 1 [(haloBase g.cfg q + amGet g.haloFill q 0, (stripBytes g q data).length)])
    (writeBytes (stripKey g k q) (stripBytes g q data) s)

/-- The generator that has received all of a strip (R81). -/
def stripGot (q : Nat) (g : AG) : AG := { g with haloGot := amMod g.haloGot q 0 (· + 1), haloFill := amDel g.haloFill q }

/-- A generator takes the strips of a region that it has and that lies in its staging bank. -/
def takesStrip (g : AG) (q : Nat) : Bool := !g.stopped && (haloSides g.cfg).any (fun e => e.1 == q)

theorem haloArrive_eq (k gi q : Nat) (data : List Byte) (s : State) : haloArrive k gi q data s =
    if takesStrip (getAG s k gi) q then
      if inSpace 1 (haloBase (getAG s k gi).cfg q) (haloBytes (getAG s k gi).cfg q) then
        if haloBytes (getAG s k gi).cfg q ≤ amGet (getAG s k gi).haloFill q 0 + data.length then
          passCorners k gi q (modAG k gi (stripGot q) (stripStored k gi q data s))
        else modAG k gi (fun (g : AG) => { g with haloFill := amSet g.haloFill q (amGet (getAG s k gi).haloFill q 0 + data.length) })
          (stripStored k gi q data s)
      else cellFault k 3 gi 0x105 s
    else s := by
  unfold haloArrive takesStrip stripStored stripKey stripBytes stripGot
  dsimp only
  generalize (haloSides (getAG s k gi).cfg).any (fun e => e.1 == q) = sides
  generalize inSpace 1 (haloBase (getAG s k gi).cfg q) (haloBytes (getAG s k gi).cfg q) = inside
  generalize (getAG s k gi).stopped = stopped
  cases stopped <;> cases sides <;> cases inside <;> simp

theorem takesStrip_iff (g : AG) : takesStrip g q = true ↔ g.stopped = false ∧ ∃ e ∈ haloSides g.cfg, e.1 = q := by
  unfold takesStrip
  rw [Bool.and_eq_true, Bool.not_eq_true', List.any_eq_true]
  simp only [beq_iff_eq]

/-- What the bytes of a strip leave at the generator and its site. -/
structure StripStored (k gi : Nat) (key : Nat) (bytes : List Byte) (s t : State) : Prop where
  mem : t.mem = (writeBytes key bytes s).mem
  only : OnlyAG k gi s t
  events : t.events = s.events

theorem stripStored_told (k gi q : Nat) (data : List Byte) (s : State) : SameAgents s (stripStored k gi q data s) ∧
    Ground s (stripStored k gi q data s) ∧ (stripStored k gi q data s).mem = (writeBytes (stripKey (getAG s k gi) k q) (stripBytes (getAG s k gi) q data) s).mem ∧
    (stripStored k gi q data s).events = s.events := by
  unfold stripStored
  dsimp only
  have written := writeBytes_keeps (stripKey (getAG s k gi) k q) (stripBytes (getAG s k gi) q data) s
  generalize writeBytes (stripKey (getAG s k gi) k q) (stripBytes (getAG s k gi) q data) s = w at written
  generalize accessesOf 1 _ = n
  have counted : Keeps [.fld] w (countAccess k 1 n w) := countAccess_keeps ..
  have ground : Ground s w := .of_same (written.only .fld rfl) (written.only .parts rfl) (written.only .mesh rfl) (written.only .tiles rfl)
  have mem : (countAccess k 1 n w).mem = w.mem := counted.only .mem rfl
  have events : (countAccess k 1 n w).events = w.events := counted.only .events rfl
  exact ⟨(SameAgents.of_keeps written).trans (.of_keeps counted), ground.trans (ground_countAccess k 1 n w), mem,
    events.trans (written.only .events rfl)⟩

section
variable (ht : takesStrip (getAG s k gi) q = true)
include ht

theorem haloArrive_outside (ho : inSpace 1 (haloBase (getAG s k gi).cfg q) (haloBytes (getAG s k gi).cfg q) = false) :
    haloArrive k gi q data s = cellFault k 3 gi 0x105 s := by
  rw [haloArrive_eq, if_pos ht, ho, if_neg Bool.false_ne_true]

variable (hi : inSpace 1 (haloBase (getAG s k gi).cfg q) (haloBytes (getAG s k gi).cfg q) = true)
include hi

theorem haloArrive_inside : haloArrive k gi q data s =
    if haloBytes (getAG s k gi).cfg q ≤ amGet (getAG s k gi).haloFill q 0 + data.length then
      passCorners k gi q (modAG k gi (stripGot q) (stripStored k gi q data s))
    else modAG k gi (fun (g : AG) => { g with haloFill := amSet g.haloFill q (amGet (getAG s k gi).haloFill q 0 + data.length) })
      (stripStored k gi q data s) := by
  rw [haloArrive_eq, if_pos ht, if_pos hi]

theorem haloArrive_stores : StripStored k gi (stripKey (getAG s k gi) k q) (stripBytes (getAG s k gi) q data) s (haloArrive k gi q data s) := by
  obtain ⟨agents, -, mem, events⟩ := stripStored_told k gi q data s
  have noted (f : AG → AG) : StripStored k gi (stripKey (getAG s k gi) k q) (stripBytes (getAG s k gi) q data) s
      (modAG k gi f (stripStored k gi q data s)) := by
    have kept := (modAG_keeps k gi f (stripStored k gi q data s)).only
    exact ⟨(kept .mem rfl).trans mem, onlyAG_modAG agents, (kept .events rfl).trans events⟩
  rw [haloArrive_inside ht hi]
  split
  · obtain ⟨stored, only, raised⟩ := noted (stripGot q)
    generalize modAG k gi (stripGot q) (stripStored k gi q data s) = u at stored only raised
    have told := told_passCorners k gi q u
    have kept : (passCorners k gi q u).events = u.events := (passCorners_keeps k gi q u).only .events rfl
    exact ⟨told.stores.mem.trans stored, OnlyAG.same only told.agents, kept.trans raised⟩
  · exact noted _

theorem haloArrive_part (hl : amGet (getAG s k gi).haloFill q 0 + data.length < haloBytes (getAG s k gi).cfg q) :
    getAG (haloArrive k gi q data s) k gi =
      { getAG s k gi with haloFill := amSet (getAG s k gi).haloFill q (amGet (getAG s k gi).haloFill q 0 + data.length) } := by
  rw [haloArrive_inside ht hi, if_neg (Nat.not_le.mpr hl), getAG_modAG, if_pos ⟨rfl, rfl⟩, (stripStored_told k gi q data s).1.getAG]

theorem haloArrive_whole (hl : haloBytes (getAG s k gi).cfg q ≤ amGet (getAG s k gi).haloFill q 0 + data.length) :
    getAG (haloArrive k gi q data s) k gi = stripGot q (getAG s k gi) := by
  rw [haloArrive_inside ht hi, if_pos hl, (told_passCorners ..).agents.getAG, getAG_modAG, if_pos ⟨rfl, rfl⟩,
    (stripStored_told k gi q data s).1.getAG]

theorem haloArrive_corners (hl : haloBytes (getAG s k gi).cfg q ≤ amGet (getAG s k gi).haloFill q 0 + data.length) (hq : q < 2)
    (hc : agCorners (getAG s k gi).cfg = true) {e : Nat × Int × Int} (he : e ∈ haloSides (getAG s k gi).cfg) (hs : e.1 = 2 ∨ e.1 = 3) {p : Nat}
    (hp : haloPeer s k e.2 = some p) {b : List Byte}
    (hb : b ∈ chunks 304 (((cornerBlock (haloArrive k gi q data s) k (getAG s k gi) q (e.1 == 2)).length + 303) / 304)
      (cornerBlock (haloArrive k gi q data s) k (getAG s k gi) q (e.1 == 2))) :
    stripPiece k gi (cornerRegion e.1 q) p (domainAt s k) b ∈ (haloArrive k gi q data s).mesh.flight := by
  obtain ⟨agents, ground, -, -⟩ := stripStored_told k gi q data s
  let got := modAG k gi (stripGot q) (stripStored k gi q data s)
  have noted : Ground s got := ground.trans (ground_modAG ..)
  have generator : getAG got k gi = stripGot q (getAG s k gi) := by
    show getAG (modAG k gi (stripGot q) _) k gi = _
    rw [getAG_modAG, if_pos ⟨rfl, rfl⟩, agents.getAG]
  have goes : ¬(q ≥ 2 ∨ (!agCorners (stripGot q (getAG s k gi)).cfg) = true) := by
    have cfg : (stripGot q (getAG s k gi)).cfg = (getAG s k gi).cfg := rfl
    rw [cfg, hc]
    simp
    omega
  have arrived : haloArrive k gi q data s = passCorners k gi q got := (haloArrive_inside ht hi).trans (if_pos hl)
  have block : cornerBlock got k (stripGot q (getAG s k gi)) q (e.1 == 2) = cornerBlock (haloArrive k gi q data s) k (getAG s k gi) q (e.1 == 2) := by
    rw [arrived, cornerBlock_congr (told_passCorners k gi q got).stores.mem]
    rfl
  rw [← block] at hb
  rw [arrived, passCorners_eq, generator, if_neg goes, ← noted.domainAt]
  refine carried_corners k gi q _ _ got e (List.mem_filter.mpr ⟨he, ?_⟩) (by rwa [noted.haloPeer]) b hb
  simpa using hs

end

theorem haloArrive_ignored (h : takesStrip (getAG s k gi) q = false) : haloArrive k gi q data s = s := by
  rw [haloArrive_eq, h, if_neg Bool.false_ne_true]

end

end Sys2Proof.Machine
end

section
/-!
PROOF. What HALO, STREAM, ECC_WRITE_BACK and QUEUE_SAMPLE do (R57, R67, R80, R81, R168, R207).
-/

namespace Sys2Proof.Machine

open Sys2Proof

section
variable {h : Head} {s : State}

theorem exec_halo (hd : delivers s h = true) (part : HaloPart) (data : List Byte) : exec (.halo h part data) s =
    .next (atRunning (dstSite h) (some (.halo h part data)) (haloIn h part data) (crossed h false 2 s)) :=
  congrArg Host.Outcome.next (arriveData_taken 2 _ hd)

theorem exec_stream (hd : delivers s h = true) (data : List Byte) : exec (.stream h data) s = .next (
    if h.dst.slot < 3 then
      atRunning (dstSite h) (some (.stream h data)) (streamArrive (dstSite h) h.dst.slot h.target h.tag data) (crossed h false 1 s)
    else crossed h false 1 s) :=
  congrArg Host.Outcome.next (arriveData_taken 1 _ hd)

theorem exec_halo_live (hl : Live h s) (part : HaloPart) (data : List Byte) :
    exec (.halo h part data) s = .next (haloIn h part data (crossed h false 2 s)) := by
  rw [exec_halo hl.1, atRunning_live (live_crossed hl false 2)]

theorem exec_stream_live (hl : Live h s) (hs : h.dst.slot < 3) (data : List Byte) :
    exec (.stream h data) s = .next (streamArrive (dstSite h) h.dst.slot h.target h.tag data (crossed h false 1 s)) := by
  rw [exec_stream hl.1, if_pos hs, atRunning_live (live_crossed hl false 1)]

/-! ## Strips -/

theorem haloIn_generator (ht : h.target < 4) (part : HaloPart) (data : List Byte) (u : State) :
    haloIn h part data u = haloArrive (dstSite h) h.target (haloRegion part) data u := if_pos ht

section
variable {k gi q : Nat} {data : List Byte} {u : State}

/-- What the bytes of a strip do to its generator (R80, R81, R139). -/
structure StripTaken (k gi q : Nat) (data : List Byte) (s t : State) : Prop where
  stored : StripStored k gi (stripKey (getAG s k gi) k q) (stripBytes (getAG s k gi) q data) s t
  part : amGet (getAG s k gi).haloFill q 0 + data.length < haloBytes (getAG s k gi).cfg q → getAG t k gi =
    { getAG s k gi with haloFill := amSet (getAG s k gi).haloFill q (amGet (getAG s k gi).haloFill q 0 + data.length) }
  whole : haloBytes (getAG s k gi).cfg q ≤ amGet (getAG s k gi).haloFill q 0 + data.length → getAG t k gi = stripGot q (getAG s k gi)
  corners : haloBytes (getAG s k gi).cfg q ≤ amGet (getAG s k gi).haloFill q 0 + data.length → q < 2 → agCorners (getAG s k gi).cfg = true →
    ∀ e ∈ haloSides (getAG s k gi).cfg, e.1 = 2 ∨ e.1 = 3 → ∀ p, haloPeer s k e.2 = some p →
      ∀ b ∈ chunks 304 (((cornerBlock t k (getAG s k gi) q (e.1 == 2)).length + 303) / 304) (cornerBlock t k (getAG s k gi) q (e.1 == 2)),
        stripPiece k gi (cornerRegion e.1 q) p (domainAt s k) b ∈ t.mesh.flight

/-- A strip that has crossed the mesh is taken as in the state before (R81). -/
theorem stripTaken_of_crossed (cr : Crossed s u) (ht : takesStrip (getAG s k gi) q = true)
    (hi : inSpace 1 (haloBase (getAG s k gi).cfg q) (haloBytes (getAG s k gi).cfg q) = true) :
    StripTaken k gi q data s (haloArrive k gi q data u) := by
  have same := cr.getAG k gi
  have takes : takesStrip (getAG u k gi) q = true := by rwa [same]
  have inside : inSpace 1 (haloBase (getAG u k gi).cfg q) (haloBytes (getAG u k gi).cfg q) = true := by rwa [same]
  obtain ⟨mem, only, events⟩ := haloArrive_stores (data := data) takes inside
  have part := haloArrive_part (data := data) takes inside
  have whole := haloArrive_whole (data := data) takes inside
  have corners := haloArrive_corners (data := data) takes inside
  rw [same] at mem part whole
  simp only [same, cr.ground.haloPeer, cr.domainAt] at corners
  exact ⟨⟨mem.trans (writeBytes_mem_congr cr.mem ..), OnlyAG.trans (cr.sameAgents.onlyAG k gi) only, events.trans cr.events⟩, part, whole,
    fun hl hq hc e he hs p hp b hb => corners hl hq hc he hs hp hb⟩

end

/-! ## Streams -/

section
variable {k slot b : Nat} {tag : BitVec 16} {data : List Byte} {u : State}

/-- Where the next bytes of a streamed block stand (R57, R207). -/
def streamKey (c : CC) (k slot i b : Nat) (tag : BitVec 16) : Nat :=
  memKey k 2 slot ((if (ccPort c.cfg i).mode = 3 then (ccPort c.cfg i).base else bufferLine (ccPort c.cfg i) tag.toNat) * 64 +
    amGet c.streamFill (b * 65536 + tag.toNat) 0)

/-- Those of a block's bytes that its buffer still takes. -/
def streamBytes (c : CC) (i b : Nat) (tag : BitVec 16) (data : List Byte) : List Byte :=
  data.take ((ccPort c.cfg i).size * 64 - amGet c.streamFill (b * 65536 + tag.toNat) 0)

/-- A cell that has received bytes of a streamed block. -/
def streamFilled (off b : Nat) (tag : BitVec 16) (data : List Byte) (c : CC) : CC :=
  { c with streamFill := amSet c.streamFill (b * 65536 + tag.toNat) (off + data.length) }

theorem streamArrive_stopped (h : (getCC u k slot).stopped = true) : streamArrive k slot b tag data u = u := by
  unfold streamArrive
  dsimp only
  rw [h, if_pos rfl]

theorem streamArrive_unused (h : (getCC u k slot).stopped = false)
    (hb : ccClass (getCC u k slot).cfg = 0 ∨ (ccIn (getCC u k slot).cfg b).enable = false ∨ portsOn (getCC u k slot).cfg b = []) :
    streamArrive k slot b tag data u = cellFault k slot 4 0x106 u := by
  unfold streamArrive
  dsimp only
  rw [h, if_neg Bool.false_ne_true]
  obtain none | off | ports := hb
  · rw [none]
    rfl
  · rw [off, Bool.not_false, Bool.or_true, if_pos rfl]
  · rw [ports]
    exact ite_self _

section
variable {i : Nat} {rest : List Nat} (hn : (getCC u k slot).stopped = false) (hc : ccClass (getCC u k slot).cfg ≠ 0)
  (he : (ccIn (getCC u k slot).cfg b).enable = true) (hp : portsOn (getCC u k slot).cfg b = i :: rest)
include hn hc he hp

theorem streamArrive_ported : streamArrive k slot b tag data u = if (ccPort (getCC u k slot).cfg i).mode < 2 then u else
    modCC k slot (streamFilled (amGet (getCC u k slot).streamFill (b * 65536 + tag.toNat) 0) b tag data)
      (writeBytes (streamKey (getCC u k slot) k slot i b tag) (streamBytes (getCC u k slot) i b tag data) u) := by
  have used : ¬(decide (ccClass (getCC u k slot).cfg = 0) || !(ccIn (getCC u k slot).cfg b).enable) = true := by
    rw [he, decide_eq_false hc]
    exact Bool.false_ne_true
  unfold streamArrive
  dsimp only
  rw [hn, if_neg Bool.false_ne_true, if_neg used, hp]
  rfl

end

/-- What the bytes of a streamed block do to their cell and its store (R57, R207). -/
structure StreamTaken (k slot i b : Nat) (tag : BitVec 16) (data : List Byte) (s t : State) : Prop where
  mem : t.mem = (writeBytes (streamKey (getCC s k slot) k slot i b tag) (streamBytes (getCC s k slot) i b tag data) s).mem
  cell : getCC t k slot = streamFilled (amGet (getCC s k slot).streamFill (b * 65536 + tag.toNat) 0) b tag data (getCC s k slot)
  only : OnlyCC k slot s t
  events : t.events = s.events

theorem streamTaken_of_crossed {i : Nat} {rest : List Nat} (cr : Crossed s u) (h : (getCC s k slot).stopped = false)
    (hc : ccClass (getCC s k slot).cfg ≠ 0) (he : (ccIn (getCC s k slot).cfg b).enable = true)
    (hp : portsOn (getCC s k slot).cfg b = i :: rest) (hm : 2 ≤ (ccPort (getCC s k slot).cfg i).mode) :
    StreamTaken k slot i b tag data s (streamArrive k slot b tag data u) := by
  have same := cr.getCC k slot
  rw [streamArrive_ported (by rwa [same]) (by rwa [same]) (by rwa [same]) (by rwa [same]), same, if_neg (Nat.not_lt.mpr hm)]
  have written := writeBytes_keeps (streamKey (getCC s k slot) k slot i b tag) (streamBytes (getCC s k slot) i b tag data) u
  have agents : SameAgents s (writeBytes (streamKey (getCC s k slot) k slot i b tag) (streamBytes (getCC s k slot) i b tag data) u) :=
    cr.sameAgents.trans (.of_keeps written)
  have kept := (modCC_keeps k slot (streamFilled (amGet (getCC s k slot).streamFill (b * 65536 + tag.toNat) 0) b tag data)
    (writeBytes (streamKey (getCC s k slot) k slot i b tag) (streamBytes (getCC s k slot) i b tag data) u)).only
  refine ⟨(kept .mem rfl).trans (writeBytes_mem_congr cr.mem ..), ?_, onlyCC_modCC agents,
    (kept .events rfl).trans ((written.only .events rfl).trans cr.events)⟩
  rw [getCC_modCC, if_pos ⟨rfl, rfl⟩, agents.getCC]

end

/-! ## Tiles that do not run -/

theorem waiting_holds_data (i : Instr) (act : State → State) (kind : Nat)
    (hw : (getTile s (dstSite h)).run = .idle ∨ (getTile s (dstSite h)).run = .loading) :
    (atRunning (dstSite h) (some i) act (crossed h false kind s)).mem = s.mem ∧
    getTile (atRunning (dstSite h) (some i) act (crossed h false kind s)) (dstSite h) =
      { getTile s (dstSite h) with heldOps := (getTile s (dstSite h)).heldOps ++ [i] } := by
  have cr := crossed_crossed h false kind s
  rw [atRunning_waiting (by rwa [crossed_run])]
  refine ⟨cr.mem, ?_⟩
  rw [getTile_modTile, if_pos rfl, cr.getTile]

theorem refused_data (hd : delivers s h = false) (kind : Nat) (act : State → State) :
    (arriveData h kind act s).tiles = s.tiles ∧ (arriveData h kind act s).mem = s.mem ∧
    Raised (refuseEvent (crossed h false kind s) h) s (arriveData h kind act s) := by
  have cr := crossed_crossed h false kind s
  rw [arriveData_refused kind act hd]
  exact ⟨(raise_tiles ..).trans cr.tiles, (raise_mem ..).trans cr.mem, raise_events _ cr.events⟩

end

/-! ## Samples -/

section
variable {a : Part} {base len : Nat} {s : State}

/-- A tile's place in its ring of samples moves on (R168). -/
def samplePlaced (len : Nat) (t : Tile) : Tile := { t with sampleAt := (t.sampleAt % max 1 len + 1) % max 1 len }

/-- Where a tile's next sample stands. -/
def sampleKey (base len : Nat) (s : State) (k : Nat) : Nat := memKey k 0 0 (base + 4 * ((getTile s k).sampleAt % max 1 len))

/-- A mapped memory cell writes its sample (R168). -/
def sampleTaken (a : Part) (base len : Nat) (s : State) (k : Nat) : State :=
  countAccess k 0 1 (modTile k (fun (t : Tile) => { t with sampleAt := ((getTile s k).sampleAt % max 1 len + 1) % max 1 len })
    (writeBytes (sampleKey base len s k) (leBytes 4 (sampleWord s a k)) s))

theorem getTile_sampleTaken (k j : Nat) : getTile (sampleTaken a base len s k) j = if j = k then samplePlaced len (getTile s k) else getTile s j := by
  have counted (v : State) : getTile (countAccess k 0 1 v) j = getTile v j := getTile_congr ((countAccess_keeps ..).only .tiles rfl) j
  unfold sampleTaken
  rw [counted, getTile_modTile]
  rfl

theorem sampleTaken_parts (k : Nat) : (sampleTaken a base len s k).parts = s.parts := by
  unfold sampleTaken
  exact (countAccess_keeps k 0 1 _).only .parts rfl

theorem sampleTaken_mem (k : Nat) : (sampleTaken a base len s k).mem = (writeBytes (sampleKey base len s k) (leBytes 4 (sampleWord s a k)) s).mem := by
  unfold sampleTaken
  exact (countAccess_keeps k 0 1 _).only .mem rfl

theorem samples_tiles {l : List Nat} (hl : l.Nodup) (s : State) (j : Nat) : getTile (l.foldl (sampleTaken a base len) s) j =
    if j ∈ l then samplePlaced len (getTile s j) else getTile s j := by
  induction l generalizing s with
  | nil => rfl
  | cons k l ih =>
    obtain ⟨hk, hl⟩ := List.nodup_cons.mp hl
    rw [List.foldl_cons, ih hl, getTile_sampleTaken]
    by_cases hj : j = k
    · subst hj
      rw [if_neg hk, if_pos rfl, if_pos List.mem_cons_self]
    · rw [if_neg hj]
      simp [hj]

theorem samples_parts (l : List Nat) (s : State) : (l.foldl (sampleTaken a base len) s).parts = s.parts := by
  induction l generalizing s with
  | nil => rfl
  | cons k l ih => exact (ih _).trans (sampleTaken_parts k)

theorem nodup_eraseDups (n : Nat) (l : List Nat) (h : l.length ≤ n) : l.eraseDups.Nodup := by
  induction n generalizing l with
  | zero =>
    rw [List.length_eq_zero_iff.mp (Nat.le_zero.mp h)]
    exact List.nodup_nil
  | succ n ih =>
    cases l with
    | nil => exact List.nodup_nil
    | cons a l =>
      have shorter : (l.filter (fun b => !b == a)).length ≤ n := (List.length_filter_le _ l).trans (Nat.le_of_succ_le_succ h)
      rw [List.eraseDups_cons]
      refine List.nodup_cons.mpr ⟨fun ha => ?_, ih _ shorter⟩
      have other := (List.mem_filter.mp (List.mem_eraseDups.mp ha)).2
      rw [beq_self_eq_true] at other
      cases other

theorem nodup_mappedSites (a : Part) : (mappedSites a).Nodup := nodup_eraseDups _ _ (le_refl _)

theorem exec_queueSample {part j : Nat} (hp : getPart s part = some a) (hs : a.sampling = some (j, base, len)) :
    exec (.queueSample part) s = .next ((mappedSites a).foldl (sampleTaken a base len) s) := by
  show execQueueSample part s = _
  unfold execQueueSample
  rw [hp]
  dsimp only
  rw [hs]
  rfl

theorem exec_queueSample_off {part : Nat} (h : (getPart s part).bind Part.sampling = none) : exec (.queueSample part) s = .next s := by
  show execQueueSample part s = _
  unfold execQueueSample
  cases hp : getPart s part with
  | none => rfl
  | some a =>
    rw [hp] at h
    have off : a.sampling = none := h
    dsimp only
    rw [off]

end

end Sys2Proof.Machine
end

section
/-!
PROOF. HALO, STREAM, ECC_WRITE_BACK and QUEUE_SAMPLE write a tile's stores (R57, R67, R80, R81, R168, R207).
-/

namespace Sys2Proof.Machine

open Sys2Proof

section
variable {h : Head} {s : State}

theorem halo_ignored (hl : Live h s) (part : HaloPart) (data : List Byte)
    (hn : haloIn h part data (crossed h false 2 s) = crossed h false 2 s) :
    Completes (.halo h part data) s (fun t => t = crossed h false 2 s ∧ t.tiles = s.tiles ∧ t.mem = s.mem) := by
  have cr := crossed_crossed h false 2 s
  exact completes_of_exec ((exec_halo_live hl part data).trans (by rw [hn])) ⟨rfl, cr.tiles, cr.mem⟩

theorem halo_stored (hl : Live h s) (ht : h.target < 4) (part : HaloPart) (data : List Byte)
    (hn : takesStrip (getAG s (dstSite h) h.target) (haloRegion part) = true)
    (hi : inSpace 1 (haloBase (getAG s (dstSite h) h.target).cfg (haloRegion part))
      (haloBytes (getAG s (dstSite h) h.target).cfg (haloRegion part)) = true) :
    Completes (.halo h part data) s (StripTaken (dstSite h) h.target (haloRegion part) data s) :=
  completes_of_exec ((exec_halo_live hl part data).trans (by rw [haloIn_generator ht]))
    (stripTaken_of_crossed (crossed_crossed h false 2 s) hn hi)

theorem halo_outside (hl : Live h s) (ht : h.target < 4) (part : HaloPart) (data : List Byte)
    (hn : takesStrip (getAG s (dstSite h) h.target) (haloRegion part) = true)
    (ho : inSpace 1 (haloBase (getAG s (dstSite h) h.target).cfg (haloRegion part))
      (haloBytes (getAG s (dstSite h) h.target).cfg (haloRegion part)) = false) :
    Completes (.halo h part data) s (fun t => (getAG t (dstSite h) h.target).stopped = true) := by
  have same := (crossed_crossed h false 2 s).getAG (dstSite h) h.target
  have fault := haloArrive_outside (k := dstSite h) (gi := h.target) (q := haloRegion part) (data := data) (s := crossed h false 2 s)
    (by rwa [same]) (by rwa [same])
  exact completes_of_exec ((exec_halo_live hl part data).trans (by rw [haloIn_generator ht, fault]))
    (cellFault_stops_generator (le_refl 3) ht 0x105 _)

theorem halo_untaken (hl : Live h s) (ht : h.target < 4) (part : HaloPart) (data : List Byte)
    (hn : takesStrip (getAG s (dstSite h) h.target) (haloRegion part) = false) :
    Completes (.halo h part data) s (fun t => t = crossed h false 2 s ∧ t.tiles = s.tiles ∧ t.mem = s.mem) := by
  refine halo_ignored hl part data ?_
  rw [haloIn_generator ht]
  exact haloArrive_ignored (by rwa [(crossed_crossed h false 2 s).getAG])

theorem exec_eccWriteBack (x y addr : Nat) (s : State) : exec (.eccWriteBack x y addr) s = .next (
    if amFind s.ecc ((siteKey x y * 0x400000 + addr) / 8) = some .counted then { s with ecc := amDel s.ecc ((siteKey x y * 0x400000 + addr) / 8) }
    else s) := rfl

theorem sampled_alone {a : Part} {k : Nat} (base len : Nat) (h : mappedSites a = [k]) :
    ((mappedSites a).foldl (sampleTaken a base len) s).mem = (writeBytes (sampleKey base len s k) (leBytes 4 (sampleWord s a k)) s).mem := by
  rw [h]
  exact sampleTaken_mem k

end

/-- Settles O47: what arrives at a generator or a cell that takes it follows what stands there, and nothing else is written. -/
theorem stripsStreamsAndSamplesAreStored : Obligations.StripsStreamsAndSamplesAreStored := by
  unfold Obligations.StripsStreamsAndSamplesAreStored
  intro s
  refine ⟨fun h part data hl ht => ⟨fun live side => ⟨fun inside => ?_, fun outside => ?_⟩, fun none => ?_⟩, ?_⟩
  · have takes := (takesStrip_iff _).mpr ⟨live, side⟩
    refine completes_imp (halo_stored hl ht part data takes inside) ?_
    rintro t ⟨⟨mem, only, events⟩, part, whole, corners⟩
    exact ⟨mem, onlyBytes_writeBytes mem, only, events, part, fun all => ⟨whole all, corners all⟩⟩
  · exact halo_outside hl ht part data ((takesStrip_iff _).mpr ⟨live, side⟩) outside
  · refine halo_untaken hl ht part data (Bool.not_eq_true _ ▸ fun takes => ?_)
    obtain ⟨live, e, he, side⟩ := (takesStrip_iff _).mp takes
    obtain stopped | other := none
    · rw [stopped] at live
      cases live
    · exact other e he side
  refine ⟨fun h part data hl ht => halo_ignored hl part data (if_neg (Nat.not_lt.mpr ht)), ?_⟩
  refine ⟨fun h data hl hs => ⟨fun i rest live used enabled ports => ⟨fun mode => ?_, fun mode => ?_⟩, fun live unused => ?_, fun stopped => ?_⟩, ?_⟩
  · have taken := streamTaken_of_crossed (tag := h.tag) (data := data) (crossed_crossed h false 1 s) live used enabled ports mode
    refine completes_of_exec (exec_stream_live hl hs data) ?_
    obtain ⟨mem, cell, only, events⟩ := taken
    exact ⟨mem, onlyBytes_writeBytes mem, cell, only, events⟩
  · have same := (crossed_crossed h false 1 s).getCC (dstSite h) h.dst.slot
    refine completes_of_exec (exec_stream_live hl hs data) ?_
    rw [streamArrive_ported (by rwa [same]) (by rwa [same]) (by rwa [same]) (by rwa [same]), same, if_pos mode]
  · have cr := crossed_crossed h false 1 s
    have same := cr.getCC (dstSite h) h.dst.slot
    refine completes_of_exec (exec_stream_live hl hs data) ?_
    rw [streamArrive_unused (by rwa [same]) (by rwa [same])]
    exact ⟨(cellFault_stops_cell hs 4 0x106 _).1, ((cellFault_keeps ..).only .mem rfl).trans cr.mem⟩
  · have cr := crossed_crossed h false 1 s
    refine completes_of_exec (exec_stream_live hl hs data) ?_
    rw [streamArrive_stopped (by rwa [cr.getCC])]
    exact ⟨cr.tiles, cr.mem⟩
  refine ⟨fun h data hd hs => completes_of_exec ((exec_stream hd data).trans (by rw [if_neg (Nat.not_lt.mpr hs)])) rfl, ?_⟩
  refine ⟨fun h part data hd => ⟨fun waits => ⟨completes_of_exec (exec_halo hd part data) (waiting_holds_data _ _ 2 waits), fun hs => ?_⟩,
    fun stopped => ⟨?_, ?_⟩⟩, ?_⟩
  · exact completes_of_exec ((exec_stream hd data).trans (by rw [if_pos hs])) (waiting_holds_data _ _ 1 waits)
  · exact completes_of_exec (exec_halo hd part data) (atRunning_stopped (by rwa [crossed_run]) _ _)
  · refine completes_of_exec (exec_stream hd data) ?_
    rw [atRunning_stopped (by rwa [crossed_run])]
    exact ite_self _
  refine ⟨fun h part data hd => ⟨completes_of_exec rfl (refused_data hd 2 _), completes_of_exec rfl (refused_data hd 1 _)⟩, ?_⟩
  refine ⟨fun x y addr => ⟨fun counted => completes_of_exec (exec_eccWriteBack x y addr s) ?_,
    fun other => completes_of_exec (exec_eccWriteBack x y addr s) (if_neg other)⟩, ?_⟩
  · rw [if_pos counted]
    exact ⟨rfl, rfl, rfl⟩
  refine ⟨fun part a j base len hp hs => completes_of_exec (exec_queueSample hp hs) ⟨fun k hk => ?_, fun k hk => ?_, ?_, fun k hk => ?_⟩,
    fun part h => completes_of_exec (exec_queueSample_off h) rfl⟩
  · rw [samples_tiles (nodup_mappedSites a), if_pos hk]
    rfl
  · rw [samples_tiles (nodup_mappedSites a), if_neg hk]
  · exact samples_parts _ s
  · have mem := sampled_alone (s := s) base len hk
    have bytes := onlyBytes_writeBytes mem
    rw [length_leBytes] at bytes
    exact ⟨mem, bytes⟩

end Sys2Proof.Machine
end

section
/-!
PROOF. Pieces at a combining home (R200 to R203, R213 to R216): how each is added, held or refused.
-/

namespace Sys2Proof.Machine

open Sys2Proof

/-! ## The fill of a buffer -/

section
variable {k gi i j : Nat} {s u : State}

/-- The pieces of a buffer are complete and none was discarded (R214, R216). -/
def fillComplete (g : AG) (i : Nat) : Bool :=
  !g.spoiled.contains i && (List.range (pieceCount g.size)).all (fun j => amGet g.arrived (i * pieceCount g.size + j) 0 == g.expected)

/-- The generator whose buffer begins its next fill (R214). -/
def fillCounted (i : Nat) (g : AG) : AG :=
  { g with fills := amSet g.fills i (amGet g.fills i 0 + 1), used := g.used + 1, next := g.next + 1
           arrived := g.arrived.filter (fun e => e.1 / pieceCount g.size != i), finished := g.next + 1 ≥ agTokens g.cfg }

/-- The token of a complete buffer (R214). -/
def fillToken (s : State) (k : Nat) (g : AG) (i : Nat) (d : PortDesc) : MeshMsg :=
  ⟨⟨cellAt k 3, cellAt k (agDst g.cfg).2.1, d.binding, domainAt s k, BitVec.ofNat 16 (agFirstTag g.cfg + amGet g.fills i 0 * g.depth + i)⟩, true, 1,
    tokenBody (if agRowLoop g.cfg = 7 then 8191 else agRowLimit g.cfg) ((agColLimit g.cfg).getD 32767)⟩

/-- The token of a complete buffer leaves for the port that the home fills. -/
def fillTold (k : Nat) (g : AG) (i : Nat) (s : State) : State := (homePort s k g).elim s (fun d => send (fillToken s k g i d) s)

theorem fillDone_incomplete (h : fillComplete (getAG s k gi) i = false) : fillDone k gi i s = s := by
  unfold fillComplete at h
  unfold fillDone
  dsimp only
  rw [h, if_neg Bool.false_ne_true]

/-- The home's generator with its buffer's next fill begun. -/
def fillBegun (k gi i : Nat) (s : State) : State :=
  let g := getAG s k gi
  modAG k gi (fun (a : AG) => { a with
    fills := amSet a.fills i (amGet g.fills i 0 + 1), used := a.used + 1, next := a.next + 1
    arrived := a.arrived.filter (fun e => e.1 / pieceCount g.size != i), finished := a.next + 1 ≥ agTokens a.cfg }) s

theorem fillDone_complete (h : fillComplete (getAG s k gi) i = true) :
    fillDone k gi i s = doneTry k (fillTold k (getAG s k gi) i (fillBegun k gi i s)) := by
  unfold fillComplete at h
  unfold fillDone
  dsimp only
  rw [h, if_pos rfl]
  unfold fillTold
  refine congrArg (doneTry k) ?_
  show (match homePort (fillBegun k gi i s) k (getAG s k gi) with | some d => _ | none => _) = _
  cases homePort (fillBegun k gi i s) k (getAG s k gi) with
  | none => rfl
  | some d => rfl

theorem told_fillTold (k : Nat) (g : AG) (i : Nat) (s : State) : Told s (fillTold k g i s) := by
  unfold fillTold
  cases homePort s k g with
  | none => exact .refl s
  | some d => exact .send ..

theorem homePort_congr (hc : ∀ i, getCC u k i = getCC s k i) (g : AG) : homePort u k g = homePort s k g := by
  unfold homePort
  simp only [hc]

/-- What a complete buffer does to its home (R214). -/
structure FillDone (k gi i : Nat) (s t : State) : Prop where
  generator : getAG t k gi = fillCounted i (getAG s k gi)
  only : OnlyAG k gi s t
  mem : t.mem = s.mem
  token : ∀ d, homePort s k (getAG s k gi) = some d → fillToken s k (getAG s k gi) i d ∈ t.mesh.flight

theorem fillDone_done (h : fillComplete (getAG s k gi) i = true) : FillDone k gi i s (fillDone k gi i s) := by
  have begun : OnlyAG k gi s (fillBegun k gi i s) := onlyAG_modAG (.refl s)
  have generator : getAG (fillBegun k gi i s) k gi = fillCounted i (getAG s k gi) := by
    unfold fillBegun
    dsimp only
    rw [getAG_modAG, if_pos ⟨rfl, rfl⟩]
    rfl
  have ground : Ground s (fillBegun k gi i s) := ground_modAG ..
  have mem : (fillBegun k gi i s).mem = s.mem := (modAG_keeps ..).only .mem rfl
  have told := (told_fillTold k (getAG s k gi) i (fillBegun k gi i s)).trans (told_doneTry k _)
  rw [fillDone_complete h]
  refine ⟨(told.agents.getAG k gi).trans generator, OnlyAG.same begun told.agents, told.stores.mem.trans mem, fun d hd => ?_⟩
  have port : homePort (fillBegun k gi i s) k (getAG s k gi) = some d := (homePort_congr (begun.2 k) _).trans hd
  have same : fillToken (fillBegun k gi i s) k (getAG s k gi) i d = fillToken s k (getAG s k gi) i d := by
    unfold fillToken
    rw [ground.domainAt]
  refine carries_doneTry k _ _ ?_
  unfold fillTold
  rw [port, ← same]
  exact carried_send ..

/-! ## Pieces that are added -/

/-- The elements that stand in a buffer once a piece is added (R202, R214). -/
def pieceSum (s : State) (k : Nat) (g : AG) (i j : Nat) (es : List Nat) : List Byte :=
  (if amGet g.arrived (i * pieceCount g.size + j) 0 = 0 then es
   else es.zipIdx.map (fun e => addElem (homeFloat g) (fieldAt (readBytes s (pieceKey k g i j) (es.length * 4)) (4 * e.2) 4) e.1)).flatMap (leBytes 4)

theorem length_flatMap_leBytes (n : Nat) (l : List Nat) : (l.flatMap (leBytes n)).length = l.length * n := by
  induction l with
  | nil => rw [List.flatMap_nil, List.length_nil, List.length_nil, Nat.zero_mul]
  | cons x l ih => rw [List.flatMap_cons, List.length_append, ih, length_leBytes, List.length_cons, Nat.succ_mul, Nat.add_comm]

theorem length_pieceSum (s : State) (k : Nat) (g : AG) (i j : Nat) (es : List Nat) : (pieceSum s k g i j es).length = es.length * 4 := by
  unfold pieceSum
  rw [length_flatMap_leBytes]
  split
  · rfl
  · rw [List.length_map, List.length_zipIdx]

/-- The contributors of a piece that have arrived. -/
def pieceArrived (g : AG) (i j : Nat) : Nat := amGet g.arrived (i * pieceCount g.size + j) 0

/-- The home that has counted a piece (R214). -/
def pieceCounted (i j n : Nat) (g : AG) : AG := { g with arrived := amSet g.arrived (i * pieceCount g.size + j) n }

/-- A piece stands in its buffer and its contributors are counted. -/
def pieceAdded (k gi i j count : Nat) (es : List Nat) (s : State) : State :=
  let g := getAG s k gi
  modAG k gi (fun (a : AG) => { a with arrived := amSet a.arrived (i * pieceCount g.size + j) (pieceArrived g i j + count) })
    (countAccess k 2 1 (writeBytes (pieceKey k g i j) (pieceSum s k g i j es)
      (if pieceArrived g i j > 0 then touchRead (pieceKey k g i j) (es.length * 4) s else s)))

theorem addPiece_faults {count : Nat} {es : List Nat} (h : 0 < pieceArrived (getAG s k gi) i j)
    (hd : hasDouble s (pieceKey k (getAG s k gi) i j) (es.length * 4) = true) :
    addPiece k gi i j count es s = cellFault k 3 gi 0x102 (noteUncorrected k s) := by
  refine if_pos ?_
  rw [Bool.and_eq_true, decide_eq_true_iff]
  exact ⟨h, hd⟩

theorem addPiece_adds {count : Nat} {es : List Nat}
    (h : pieceArrived (getAG s k gi) i j = 0 ∨ hasDouble s (pieceKey k (getAG s k gi) i j) (es.length * 4) = false) :
    addPiece k gi i j count es s = fillDone k gi i (pieceAdded k gi i j count es s) := by
  have go : ¬(decide (pieceArrived (getAG s k gi) i j > 0) && hasDouble s (pieceKey k (getAG s k gi) i j) (es.length * 4)) = true := by
    rw [Bool.and_eq_true, decide_eq_true_iff]
    rintro ⟨some', bad⟩
    obtain none | good := h
    · omega
    · rw [good] at bad
      cases bad
  have read : readBytes (if pieceArrived (getAG s k gi) i j > 0 then touchRead (pieceKey k (getAG s k gi) i j) (es.length * 4) s else s) =
      readBytes s := by
    refine funext₂ (readBytes_congr ?_)
    split
    · exact (touchRead_keeps ..).only .mem rfl
    · rfl
  unfold pieceArrived at go read
  unfold addPiece pieceAdded pieceSum pieceArrived
  dsimp only
  rw [if_neg go, read]

/-- What a piece that is added leaves of its site. -/
structure PieceAdded (k gi i j count : Nat) (es : List Nat) (s t : State) : Prop where
  generator : getAG t k gi = pieceCounted i j (pieceArrived (getAG s k gi) i j + count) (getAG s k gi)
  only : OnlyAG k gi s t
  ground : Ground s t
  mem : t.mem = (writeBytes (pieceKey k (getAG s k gi) i j) (pieceSum s k (getAG s k gi) i j es) s).mem

theorem pieceAdded_added (k gi i j count : Nat) (es : List Nat) (s : State) : PieceAdded k gi i j count es s (pieceAdded k gi i j count es s) := by
  have read : SameAgents s (if pieceArrived (getAG s k gi) i j > 0 then touchRead (pieceKey k (getAG s k gi) i j) (es.length * 4) s else s) ∧
      Ground s (if pieceArrived (getAG s k gi) i j > 0 then touchRead (pieceKey k (getAG s k gi) i j) (es.length * 4) s else s) ∧
      (if pieceArrived (getAG s k gi) i j > 0 then touchRead (pieceKey k (getAG s k gi) i j) (es.length * 4) s else s).mem = s.mem := by
    split
    · exact ⟨sameAgents_touchRead .., ground_touchRead .., (touchRead_keeps ..).only .mem rfl⟩
    · exact ⟨.refl s, .refl s, rfl⟩
  unfold pieceAdded
  dsimp only
  generalize (if pieceArrived (getAG s k gi) i j > 0 then touchRead (pieceKey k (getAG s k gi) i j) (es.length * 4) s else s) = r at read
  obtain ⟨agents, ground, mem⟩ := read
  generalize hg : getAG s k gi = g
  have written := writeBytes_keeps (pieceKey k g i j) (pieceSum s k g i j es) r
  have same : (writeBytes (pieceKey k g i j) (pieceSum s k g i j es) r).mem = (writeBytes (pieceKey k g i j) (pieceSum s k g i j es) s).mem :=
    writeBytes_mem_congr mem ..
  generalize writeBytes (pieceKey k g i j) (pieceSum s k g i j es) r = w at written same
  have counted : Keeps [.fld] w (countAccess k 2 1 w) := countAccess_keeps ..
  have kept : SameAgents s (countAccess k 2 1 w) := (agents.trans (.of_keeps written)).trans (.of_keeps counted)
  have place : Ground r w := .of_same (written.only .fld rfl) (written.only .parts rfl) (written.only .mesh rfl) (written.only .tiles rfl)
  have ground' : Ground s (countAccess k 2 1 w) := (ground.trans place).trans (ground_countAccess ..)
  have stored : (countAccess k 2 1 w).mem = w.mem := counted.only .mem rfl
  generalize countAccess k 2 1 w = v at kept ground' stored
  have noted (f : AG → AG) : (modAG k gi f v).mem = v.mem := (modAG_keeps k gi f v).only .mem rfl
  refine ⟨?_, onlyAG_modAG kept, ground'.trans (ground_modAG ..), (noted _).trans (stored.trans ?_)⟩
  · rw [getAG_modAG, if_pos ⟨rfl, rfl⟩, kept.getAG, hg]
    rfl
  · rw [hg]
    exact same

/-! ## What a buffer lacks -/

theorem pieceArrived_counted {q n : Nat} (g : AG) :
    pieceArrived (pieceCounted i j n g) i q = if q = j then n else pieceArrived g i q := by
  unfold pieceArrived pieceCounted
  dsimp only
  rw [amGet_amSet]
  refine if_congr ⟨fun h => by omega, fun h => by rw [h]⟩ rfl rfl

theorem fillComplete_iff (g : AG) : fillComplete g i = true ↔ i ∉ g.spoiled ∧ ∀ q < pieceCount g.size, pieceArrived g i q = g.expected := by
  unfold fillComplete pieceArrived
  rw [Bool.and_eq_true, Bool.not_eq_true', List.all_eq_true, List.contains_eq_mem, decide_eq_false_iff_not]
  simp only [List.mem_range, beq_iff_eq]

/-- Once a buffer's fill is done none of its pieces counts as arrived (R214). -/
theorem pieceArrived_fillCounted {q : Nat} (g : AG) (hq : q < pieceCount g.size) : amGet (fillCounted i g).arrived (i * pieceCount g.size + q) 0 = 0 := by
  have absent : amFind (fillCounted i g).arrived (i * pieceCount g.size + q) = none := by
    refine amFind_none_of_not_key fun h => ?_
    obtain ⟨e, he, key⟩ := List.mem_map.mp h
    have other := (List.mem_filter.mp he).2
    have place : (i * pieceCount g.size + q) / pieceCount g.size = i := by
      rw [Nat.mul_comm, Nat.mul_add_div (by omega), Nat.div_eq_of_lt hq, Nat.add_zero]
    rw [key, place, bne_self_eq_false] at other
    cases other
  unfold amGet
  rw [absent]
  rfl

end

end Sys2Proof.Machine
end

section
/-!
PROOF. COMBINE, FAIL_NOTICE and the reserved packets and messages at their destination (R204, R213 to R216).
-/

namespace Sys2Proof.Machine

open Sys2Proof

/-! ## A piece at its home -/

/-- The buffer of a piece's tag (R213). -/
def pieceBuffer (g : AG) (tag : BitVec 16) : Nat := tag.toNat / max 1 (pieceCount g.size)

/-- The place of a piece in its buffer (R213). -/
def piecePlace (g : AG) (tag : BitVec 16) : Nat := tag.toNat % max 1 (pieceCount g.size)

/-- A piece is of the home's length and format, and its contributors are expected (R216). -/
def PieceFits (g : AG) (tag : BitVec 16) (pre : CombinePrefix) (elems : List Word32) : Prop :=
  0 < g.expected ∧ 0 < pieceCount g.size ∧ pieceBuffer g tag < max 1 g.depth ∧ elems.length = pieceLen g (piecePlace g tag) ∧
    pre.isInt = !homeFloat g ∧ 0 < pre.count ∧ pieceArrived g (pieceBuffer g tag) (piecePlace g tag) + pre.count ≤ g.expected

/-- A piece that the home already holds (R215). -/
def PieceHeld (g : AG) (tag : BitVec 16) (pre : CombinePrefix) : Prop :=
  ∃ q ∈ g.held, q.buffer = pieceBuffer g tag ∧ q.piece = piecePlace g tag ∧ q.ordinal = pre.ordinal

section
variable {k gi : Nat} {tag : BitVec 16} {pre : CombinePrefix} {elems : List Word32} {s : State}

theorem combineArrive_stopped (h : (getAG s k gi).stopped = true) : combineArrive k gi tag pre elems s = s := by
  unfold combineArrive
  dsimp only
  rw [h, if_pos rfl]

section
variable (hn : (getAG s k gi).stopped = false)
include hn

theorem combineArrive_misfit (h : ¬PieceFits (getAG s k gi) tag pre elems) :
    combineArrive k gi tag pre elems s = refusePiece k gi (pieceBuffer (getAG s k gi) tag) s := by
  unfold PieceFits pieceBuffer piecePlace pieceArrived at h
  unfold combineArrive pieceBuffer
  dsimp only
  rw [hn, if_neg Bool.false_ne_true]
  refine if_pos ?_
  by_contra all
  push Not at all
  obtain ⟨e, n, d, l, f, c, m⟩ := all
  exact h ⟨by omega, by omega, d, l, (Bool.eq_not_iff).mpr f, by omega, m⟩

section
variable (hf : PieceFits (getAG s k gi) tag pre elems)
include hf

theorem combineArrive_fits : combineArrive k gi tag pre elems s =
    let g := getAG s k gi
    let i := pieceBuffer g tag
    let j := piecePlace g tag
    if !pre.det ∨ pre.ordinal = pieceArrived g i j then
      drainHeld k gi i j g.held.length (addPiece k gi i j pre.count (elems.map BitVec.toNat) s)
    else if pre.ordinal < pieceArrived g i j ∨ pre.ordinal ≥ g.expected
        ∨ g.held.any (fun (p : HeldPiece) => p.buffer == i && p.piece == j && p.ordinal == pre.ordinal) then refusePiece k gi i s
    else if holdAddr g j pre.ordinal + 256 > 131072 then cellFault k 3 gi 0x105 s
    else
      modAG k gi (fun (g : AG) => { g with held := g.held ++ [{ buffer := i, piece := j, ordinal := pre.ordinal, count := pre.count }] })
        (countAccess k 1 2 (writeBytes (memKey k 1 0 (holdAddr g j pre.ordinal)) ((elems.map BitVec.toNat).flatMap (leBytes 4)) s)) := by
  unfold PieceFits pieceBuffer piecePlace pieceArrived at hf
  unfold combineArrive pieceBuffer piecePlace pieceArrived
  dsimp only
  rw [hn, if_neg Bool.false_ne_true]
  refine if_neg ?_
  obtain ⟨e, n, d, l, f, c, m⟩ := hf
  rintro (h | h | h | h | h | h | h)
  · omega
  · omega
  · omega
  · exact h l
  · rw [f] at h
    exact Bool.not_ne_self _ h
  · omega
  · omega

theorem combineArrive_adds (ho : pre.det = false ∨ pre.ordinal = pieceArrived (getAG s k gi) (pieceBuffer (getAG s k gi) tag) (piecePlace (getAG s k gi) tag))
    (hh : (getAG s k gi).held = []) : combineArrive k gi tag pre elems s =
      addPiece k gi (pieceBuffer (getAG s k gi) tag) (piecePlace (getAG s k gi) tag) pre.count (elems.map BitVec.toNat) s := by
  have turn : (!pre.det) = true ∨ pre.ordinal = pieceArrived (getAG s k gi) (pieceBuffer (getAG s k gi) tag) (piecePlace (getAG s k gi) tag) := by
    rwa [Bool.not_eq_true']
  rw [combineArrive_fits hn hf]
  dsimp only
  rw [if_pos turn, hh]
  rfl

section
variable (hd : pre.det = true)
include hd

theorem combineArrive_refuses (h : pre.ordinal < pieceArrived (getAG s k gi) (pieceBuffer (getAG s k gi) tag) (piecePlace (getAG s k gi) tag) ∨
    (pieceArrived (getAG s k gi) (pieceBuffer (getAG s k gi) tag) (piecePlace (getAG s k gi) tag) < pre.ordinal ∧
      ((getAG s k gi).expected ≤ pre.ordinal ∨ PieceHeld (getAG s k gi) tag pre))) :
    combineArrive k gi tag pre elems s = refusePiece k gi (pieceBuffer (getAG s k gi) tag) s := by
  have late : ¬((!pre.det) = true ∨ pre.ordinal = pieceArrived (getAG s k gi) (pieceBuffer (getAG s k gi) tag) (piecePlace (getAG s k gi) tag)) := by
    rw [hd]
    simp
    omega
  rw [combineArrive_fits hn hf]
  dsimp only
  rw [if_neg late]
  refine if_pos ?_
  obtain before | ⟨-, beyond | ⟨q, hq, b, p, o⟩⟩ := h
  · exact .inl before
  · exact .inr (.inl beyond)
  · exact .inr (.inr (List.any_eq_true.mpr ⟨q, hq, by simp [b, p, o]⟩))

section
variable (ha : pieceArrived (getAG s k gi) (pieceBuffer (getAG s k gi) tag) (piecePlace (getAG s k gi) tag) < pre.ordinal)
  (he : pre.ordinal < (getAG s k gi).expected) (hh : ¬PieceHeld (getAG s k gi) tag pre)
include ha he hh

theorem combineArrive_ahead : combineArrive k gi tag pre elems s =
    if holdAddr (getAG s k gi) (piecePlace (getAG s k gi) tag) pre.ordinal + 256 > 131072 then cellFault k 3 gi 0x105 s
    else
      modAG k gi (fun (g : AG) => { g with held := g.held ++
        [{ buffer := pieceBuffer (getAG s k gi) tag, piece := piecePlace (getAG s k gi) tag, ordinal := pre.ordinal, count := pre.count }] })
        (countAccess k 1 2 (writeBytes (memKey k 1 0 (holdAddr (getAG s k gi) (piecePlace (getAG s k gi) tag) pre.ordinal))
          ((elems.map BitVec.toNat).flatMap (leBytes 4)) s)) := by
  have late : ¬((!pre.det) = true ∨ pre.ordinal = pieceArrived (getAG s k gi) (pieceBuffer (getAG s k gi) tag) (piecePlace (getAG s k gi) tag)) := by
    rw [hd]
    simp
    omega
  rw [combineArrive_fits hn hf]
  dsimp only
  rw [if_neg late]
  refine if_neg ?_
  rintro (h | h | h)
  · omega
  · omega
  · obtain ⟨q, hq, row⟩ := List.any_eq_true.mp h
    simp only [Bool.and_eq_true, beq_iff_eq] at row
    obtain ⟨⟨b, p⟩, o⟩ := row
    exact hh ⟨q, hq, b, p, o⟩

end

end

end

end

/-- A piece that its home discards (R216). -/
structure PieceRefused (k gi i : Nat) (s t : State) : Prop where
  generator : getAG t k gi = { getAG s k gi with spoiled := if i ∈ (getAG s k gi).spoiled then (getAG s k gi).spoiled else (getAG s k gi).spoiled ++ [i] }
  only : OnlyAG k gi s t
  mem : t.mem = s.mem
  events : Raised (evCell s 0x186 1 (cellAt k 3) 0) s t

theorem pieceRefused (k gi i : Nat) (s : State) : PieceRefused k gi i s (refusePiece k gi i s) := by
  unfold refusePiece
  let f : AG → AG := fun g => { g with spoiled := if g.spoiled.contains i then g.spoiled else g.spoiled ++ [i] }
  show PieceRefused k gi i s (raise _ (modAG k gi f s))
  have raised : SameAgents (modAG k gi f s) (raise (evCell s 0x186 1 (cellAt k 3) 0) (modAG k gi f s)) := .of_keeps (raise_keeps ..)
  have mem : (modAG k gi f s).mem = s.mem := (modAG_keeps k gi f s).only .mem rfl
  have events : (modAG k gi f s).events = s.events := (modAG_keeps k gi f s).only .events rfl
  refine ⟨?_, OnlyAG.same (onlyAG_modAG (.refl s)) raised, (raise_mem ..).trans mem, raise_events _ events⟩
  rw [raised.getAG, getAG_modAG, if_pos ⟨rfl, rfl⟩]
  show { getAG s k gi with spoiled := if (getAG s k gi).spoiled.contains i then (getAG s k gi).spoiled else (getAG s k gi).spoiled ++ [i] } = _
  rw [List.contains_eq_mem]
  simp only [decide_eq_true_eq]

end

end Sys2Proof.Machine
end

section
/-!
PROOF. COMBINE, FAIL_NOTICE and the reserved packets and messages act at their destination (R204, R213 to R216).
-/

namespace Sys2Proof.Machine

open Sys2Proof

theorem crossed_mergedAway (h : Head) (pre : CombinePrefix) (size n left : Nat) (s : State) : Crossed s (mergedAway h pre size n left s) := by
  induction n generalizing left s with
  | zero => exact .refl s
  | succ n ih =>
    unfold mergedAway
    split
    · exact .refl s
    · split
      · exact .refl s
      · exact (crossed_leaveMesh _ s).trans (ih ..)

section
variable {h : Head} {s : State}

/-- A piece has crossed the mesh, with those that routers have added to it (R201). -/
def pieceCrossed (h : Head) (pre : CombinePrefix) (elems : List Word32) (s : State) : State :=
  mergedAway h pre elems.length pre.count (pre.count - 1) (crossed h false 7 s)

theorem crossed_piece (h : Head) (pre : CombinePrefix) (elems : List Word32) (s : State) : Crossed s (pieceCrossed h pre elems s) :=
  (crossed_crossed h false 7 s).trans (crossed_mergedAway ..)

theorem exec_combine (hd : delivers s h = true) (pre : CombinePrefix) (elems : List Word32) : exec (.combine h pre elems) s = .next (
    if h.dst.slot = 3 ∧ h.target < 4 then
      atRunning (dstSite h) (some (.combine h pre elems)) (combineIn h pre elems) (pieceCrossed h pre elems s)
    else pieceCrossed h pre elems s) :=
  congrArg Host.Outcome.next (arriveData_taken 7 _ hd)

theorem exec_combine_live (hl : Live h s) (hs : h.dst.slot = 3) (ht : h.target < 4) (pre : CombinePrefix) (elems : List Word32) :
    exec (.combine h pre elems) s = .next (combineArrive (dstSite h) h.target h.tag pre elems (pieceCrossed h pre elems s)) := by
  have same := (crossed_piece h pre elems s).getTile (dstSite h)
  rw [exec_combine hl.1, if_pos ⟨hs, ht⟩, atRunning_live (by rw [same]; exact hl.2)]
  rfl

theorem Crossed.hasDouble {u : State} (cr : Crossed s u) (key n : Nat) : Machine.hasDouble u key n = Machine.hasDouble s key n := by
  have ecc : u.ecc = s.ecc := cr.only .ecc rfl
  unfold Machine.hasDouble
  rw [ecc]

section
variable {k gi i j count : Nat} {es : List Nat} {u : State}

/-- What an added piece does where its buffer is then complete, and where it is not (R214). -/
structure PieceTaken (k gi i j count : Nat) (es : List Nat) (s t : State) : Prop where
  mem : t.mem = (writeBytes (pieceKey k (getAG s k gi) i j) (pieceSum s k (getAG s k gi) i j es) s).mem
  only : OnlyAG k gi s t
  partly : fillComplete (pieceCounted i j (pieceArrived (getAG s k gi) i j + count) (getAG s k gi)) i = false →
    getAG t k gi = pieceCounted i j (pieceArrived (getAG s k gi) i j + count) (getAG s k gi)
  wholly : fillComplete (pieceCounted i j (pieceArrived (getAG s k gi) i j + count) (getAG s k gi)) i = true →
    getAG t k gi = fillCounted i (pieceCounted i j (pieceArrived (getAG s k gi) i j + count) (getAG s k gi)) ∧
    ∀ d, homePort s k (getAG s k gi) = some d → fillToken s k (getAG s k gi) i d ∈ t.mesh.flight

theorem pieceTaken_of_crossed (cr : Crossed s u)
    (hd : pieceArrived (getAG s k gi) i j = 0 ∨ hasDouble s (pieceKey k (getAG s k gi) i j) (es.length * 4) = false) :
    PieceTaken k gi i j count es s (addPiece k gi i j count es u) := by
  have same := cr.getAG k gi
  have sum : pieceSum u k (getAG s k gi) i j es = pieceSum s k (getAG s k gi) i j es := by
    unfold pieceSum
    rw [show readBytes u = readBytes s from funext₂ (readBytes_congr cr.mem)]
  obtain ⟨generator, only, ground, mem⟩ := pieceAdded_added k gi i j count es u
  rw [same] at generator mem
  rw [sum, writeBytes_mem_congr cr.mem] at mem
  have added := addPiece_adds (k := k) (gi := gi) (i := i) (j := j) (count := count) (es := es) (s := u) (by rwa [same, cr.hasDouble])
  have before : OnlyAG k gi s (pieceAdded k gi i j count es u) := OnlyAG.trans (cr.sameAgents.onlyAG k gi) only
  rw [added]
  cases full : fillComplete (pieceCounted i j (pieceArrived (getAG s k gi) i j + count) (getAG s k gi)) i with
  | false =>
    rw [fillDone_incomplete (by rwa [generator])]
    exact ⟨mem, before, fun _ => generator, fun h => absurd (full.symm.trans h) (by decide)⟩
  | true =>
    obtain ⟨counted, after, kept, token⟩ := fillDone_done (k := k) (gi := gi) (i := i) (s := pieceAdded k gi i j count es u) (by rwa [generator])
    rw [generator] at counted token
    refine ⟨kept.trans mem, OnlyAG.trans before after, fun h => absurd (full.symm.trans h) (by decide), fun _ => ⟨counted, fun d hp => ?_⟩⟩
    have port : homePort (pieceAdded k gi i j count es u) k (pieceCounted i j (pieceArrived (getAG s k gi) i j + count) (getAG s k gi)) = some d :=
      (homePort_congr (before.2 k) _).trans hp
    have sent := token d port
    have named : fillToken (pieceAdded k gi i j count es u) k (pieceCounted i j (pieceArrived (getAG s k gi) i j + count) (getAG s k gi)) i d =
        fillToken s k (getAG s k gi) i d := by
      unfold fillToken
      rw [(cr.ground.trans ground).domainAt]
      rfl
    rwa [named] at sent

/-- A buffer whose piece is short, that was spoiled, or that lacks another piece is not complete (R214, R216). -/
theorem fill_partly {g : AG} (hj : j < pieceCount g.size)
    (h : pieceArrived g i j + count < g.expected ∨ i ∈ g.spoiled ∨ ∃ q < pieceCount g.size, q ≠ j ∧ pieceArrived g i q ≠ g.expected) :
    fillComplete (pieceCounted i j (pieceArrived g i j + count) g) i = false := by
  refine Bool.not_eq_true _ ▸ fun full => ?_
  obtain ⟨clean, all⟩ := (fillComplete_iff _).mp full
  obtain short | spoiled | ⟨q, hq, other, lacks⟩ := h
  · have own := all j hj
    rw [pieceArrived_counted, if_pos rfl] at own
    have expected : (pieceCounted i j (pieceArrived g i j + count) g).expected = g.expected := rfl
    omega
  · exact clean spoiled
  · have own := all q hq
    rw [pieceArrived_counted, if_neg other] at own
    exact lacks own

theorem fill_wholly {g : AG} (hc : pieceArrived g i j + count = g.expected) (hs : i ∉ g.spoiled)
    (h : ∀ q < pieceCount g.size, q ≠ j → pieceArrived g i q = g.expected) :
    fillComplete (pieceCounted i j (pieceArrived g i j + count) g) i = true := by
  refine (fillComplete_iff _).mpr ⟨hs, fun q hq => ?_⟩
  rw [pieceArrived_counted]
  split
  · exact hc
  · next other => exact h q hq other

theorem piecePlace_lt {g : AG} (h : 0 < pieceCount g.size) (tag : BitVec 16) : piecePlace g tag < pieceCount g.size := by
  have most : max 1 (pieceCount g.size) = pieceCount g.size := Nat.max_eq_right h
  unfold piecePlace
  rw [most]
  exact Nat.mod_lt _ h

/-- What a piece that is held ahead of its turn does (R215). -/
structure PieceKept (k gi i j : Nat) (pre : CombinePrefix) (es : List Nat) (s t : State) : Prop where
  generator : getAG t k gi = { getAG s k gi with held := (getAG s k gi).held ++ [{ buffer := i, piece := j, ordinal := pre.ordinal, count := pre.count }] }
  mem : t.mem = (writeBytes (memKey k 1 0 (holdAddr (getAG s k gi) j pre.ordinal)) (es.flatMap (leBytes 4)) s).mem
  only : OnlyAG k gi s t
  events : t.events = s.events

theorem pieceKept_of_crossed (cr : Crossed s u) (i j : Nat) (pre : CombinePrefix) (es : List Nat) : PieceKept k gi i j pre es s
    (modAG k gi (fun (g : AG) => { g with held := g.held ++ [{ buffer := i, piece := j, ordinal := pre.ordinal, count := pre.count }] })
      (countAccess k 1 2 (writeBytes (memKey k 1 0 (holdAddr (getAG s k gi) j pre.ordinal)) (es.flatMap (leBytes 4)) u))) := by
  have written := writeBytes_keeps (memKey k 1 0 (holdAddr (getAG s k gi) j pre.ordinal)) (es.flatMap (leBytes 4)) u
  have mem := writeBytes_mem_congr cr.mem (memKey k 1 0 (holdAddr (getAG s k gi) j pre.ordinal)) (es.flatMap (leBytes 4))
  generalize writeBytes (memKey k 1 0 (holdAddr (getAG s k gi) j pre.ordinal)) (es.flatMap (leBytes 4)) u = w at written mem
  have counted : Keeps [.fld] w (countAccess k 1 2 w) := countAccess_keeps ..
  have agents : SameAgents s (countAccess k 1 2 w) := (cr.sameAgents.trans (.of_keeps written)).trans (.of_keeps counted)
  have stored : (countAccess k 1 2 w).mem = w.mem := counted.only .mem rfl
  have events : (countAccess k 1 2 w).events = s.events := (counted.only .events rfl).trans ((written.only .events rfl).trans cr.events)
  generalize countAccess k 1 2 w = v at agents stored events
  refine ⟨?_, ((modAG_keeps k gi _ v).only .mem rfl).trans (stored.trans mem), onlyAG_modAG agents, ((modAG_keeps k gi _ v).only .events rfl).trans events⟩
  rw [getAG_modAG, if_pos ⟨rfl, rfl⟩, agents.getAG]

theorem pieceRefused_of_crossed (cr : Crossed s u) (i : Nat) : PieceRefused k gi i s (refusePiece k gi i u) := by
  obtain ⟨generator, only, mem, events⟩ := pieceRefused k gi i u
  rw [cr.getAG] at generator
  refine ⟨generator, OnlyAG.trans (cr.sameAgents.onlyAG k gi) only, mem.trans cr.mem, ?_⟩
  have same : evCell u 0x186 1 (cellAt k 3) 0 = evCell s 0x186 1 (cellAt k 3) 0 := by
    unfold evCell
    rw [cr.siteHolder, cr.siteDomain]
  unfold Raised at events ⊢
  rw [events, same]
  exact raise_events _ cr.events

end

end

end Sys2Proof.Machine
end

section
/-!
PROOF. What COMBINE, FAIL_NOTICE and the reserved packets and messages do (R204, R213 to R216).
-/

namespace Sys2Proof.Machine

open Sys2Proof

section
variable {h : Head} {s : State}

section
variable {pre : CombinePrefix} {elems : List Word32} (hl : Live h s) (hs : h.dst.slot = 3) (ht : h.target < 4)
  (hn : (getAG s (dstSite h) h.target).stopped = false)
include hl hs ht hn

theorem combine_misfit {i : Nat} (hi : i = pieceBuffer (getAG s (dstSite h) h.target) h.tag)
    (hf : ¬PieceFits (getAG s (dstSite h) h.target) h.tag pre elems) :
    Completes (.combine h pre elems) s (PieceRefused (dstSite h) h.target i s) := by
  have cr := crossed_piece h pre elems s
  have same := cr.getAG (dstSite h) h.target
  refine completes_of_exec (exec_combine_live hl hs ht pre elems) ?_
  rw [combineArrive_misfit (by rwa [same]) (by rwa [same]), same, hi]
  exact pieceRefused_of_crossed cr _

section
variable (hf : PieceFits (getAG s (dstSite h) h.target) h.tag pre elems)
include hf

theorem combine_adds {i j : Nat} (hi : i = pieceBuffer (getAG s (dstSite h) h.target) h.tag)
    (hj : j = piecePlace (getAG s (dstSite h) h.target) h.tag)
    (ho : pre.det = false ∨ pre.ordinal = pieceArrived (getAG s (dstSite h) h.target) i j) (hh : (getAG s (dstSite h) h.target).held = [])
    (hd : pieceArrived (getAG s (dstSite h) h.target) i j = 0 ∨
      hasDouble s (pieceKey (dstSite h) (getAG s (dstSite h) h.target) i j) ((elems.map BitVec.toNat).length * 4) = false) :
    Completes (.combine h pre elems) s (PieceTaken (dstSite h) h.target i j pre.count (elems.map BitVec.toNat) s) := by
  have cr := crossed_piece h pre elems s
  have same := cr.getAG (dstSite h) h.target
  subst hi hj
  refine completes_of_exec (exec_combine_live hl hs ht pre elems) ?_
  rw [combineArrive_adds (by rwa [same]) (by rwa [same]) (by rwa [same]) (by rwa [same]), same]
  exact pieceTaken_of_crossed cr hd

theorem combine_faults {i j : Nat} (hi : i = pieceBuffer (getAG s (dstSite h) h.target) h.tag)
    (hj : j = piecePlace (getAG s (dstSite h) h.target) h.tag)
    (ho : pre.det = false ∨ pre.ordinal = pieceArrived (getAG s (dstSite h) h.target) i j) (hh : (getAG s (dstSite h) h.target).held = [])
    (hc : 0 < pieceArrived (getAG s (dstSite h) h.target) i j)
    (hd : hasDouble s (pieceKey (dstSite h) (getAG s (dstSite h) h.target) i j) ((elems.map BitVec.toNat).length * 4) = true) :
    Completes (.combine h pre elems) s (fun t => (getAG t (dstSite h) h.target).stopped = true) := by
  have cr := crossed_piece h pre elems s
  have same := cr.getAG (dstSite h) h.target
  subst hi hj
  refine completes_of_exec (exec_combine_live hl hs ht pre elems) ?_
  rw [combineArrive_adds (by rwa [same]) (by rwa [same]) (by rwa [same]) (by rwa [same]), same,
    addPiece_faults (by rwa [same]) (by rwa [same, cr.hasDouble])]
  exact cellFault_stops_generator (le_refl 3) ht 0x102 _

theorem combine_refuses {i j : Nat} (hi : i = pieceBuffer (getAG s (dstSite h) h.target) h.tag)
    (hj : j = piecePlace (getAG s (dstSite h) h.target) h.tag) (hd : pre.det = true)
    (ho : pre.ordinal < pieceArrived (getAG s (dstSite h) h.target) i j ∨
      (pieceArrived (getAG s (dstSite h) h.target) i j < pre.ordinal ∧
        ((getAG s (dstSite h) h.target).expected ≤ pre.ordinal ∨ PieceHeld (getAG s (dstSite h) h.target) h.tag pre))) :
    Completes (.combine h pre elems) s (PieceRefused (dstSite h) h.target i s) := by
  have cr := crossed_piece h pre elems s
  have same := cr.getAG (dstSite h) h.target
  subst hi hj
  refine completes_of_exec (exec_combine_live hl hs ht pre elems) ?_
  rw [combineArrive_refuses (by rwa [same]) (by rwa [same]) hd (by rwa [same]), same]
  exact pieceRefused_of_crossed cr _

section
variable {i j : Nat} (hi : i = pieceBuffer (getAG s (dstSite h) h.target) h.tag) (hj : j = piecePlace (getAG s (dstSite h) h.target) h.tag)
  (hd : pre.det = true) (ha : pieceArrived (getAG s (dstSite h) h.target) i j < pre.ordinal)
  (he : pre.ordinal < (getAG s (dstSite h) h.target).expected) (hh : ¬PieceHeld (getAG s (dstSite h) h.target) h.tag pre)
include hi hj hd ha he hh

theorem combine_past (hp : 131072 < holdAddr (getAG s (dstSite h) h.target) j pre.ordinal + 256) :
    Completes (.combine h pre elems) s (fun t => (getAG t (dstSite h) h.target).stopped = true) := by
  have same := (crossed_piece h pre elems s).getAG (dstSite h) h.target
  subst hi hj
  refine completes_of_exec (exec_combine_live hl hs ht pre elems) ?_
  rw [combineArrive_ahead (by rwa [same]) (by rwa [same]) hd (by rwa [same]) (by rwa [same]) (by rwa [same]), same, if_pos hp]
  exact cellFault_stops_generator (le_refl 3) ht 0x105 _

theorem combine_holds (hp : holdAddr (getAG s (dstSite h) h.target) j pre.ordinal + 256 ≤ 131072) :
    Completes (.combine h pre elems) s (PieceKept (dstSite h) h.target i j pre (elems.map BitVec.toNat) s) := by
  have cr := crossed_piece h pre elems s
  have same := cr.getAG (dstSite h) h.target
  subst hi hj
  refine completes_of_exec (exec_combine_live hl hs ht pre elems) ?_
  rw [combineArrive_ahead (by rwa [same]) (by rwa [same]) hd (by rwa [same]) (by rwa [same]) (by rwa [same]), same, if_neg (Nat.not_lt.mpr hp)]
  exact pieceKept_of_crossed cr _ _ pre _

end

end

end

/-! ## Pieces without a home, and the other packets -/

theorem combine_discarded {pre : CombinePrefix} {elems : List Word32} (hd : delivers s h = true)
    (hn : ¬(h.dst.slot = 3 ∧ h.target < 4) ∨ (getTile s (dstSite h)).run = .stopped ∨
      ((getTile s (dstSite h)).run ≠ .idle ∧ (getTile s (dstSite h)).run ≠ .loading ∧ (getAG s (dstSite h) h.target).stopped = true)) :
    Completes (.combine h pre elems) s (fun t => t.tiles = s.tiles ∧ t.mem = s.mem ∧ t.events = s.events) := by
  have cr := crossed_piece h pre elems s
  have same := cr.getTile (dstSite h)
  refine completes_of_exec (t := pieceCrossed h pre elems s) ((exec_combine hd pre elems).trans (congrArg Host.Outcome.next ?_))
    ⟨cr.tiles, cr.mem, cr.events⟩
  split
  · next home =>
    obtain away | stopped | ⟨idle, loading, held⟩ := hn
    · exact absurd home away
    · exact atRunning_stopped (by rwa [same]) _ _
    · have none : combineIn h pre elems (pieceCrossed h pre elems s) = pieceCrossed h pre elems s := combineArrive_stopped (by rwa [cr.getAG])
      cases hr : (getTile s (dstSite h)).run with
      | idle => exact absurd hr idle
      | loading => exact absurd hr loading
      | running => exact (atRunning_live (.inl (by rw [same, hr])) _ _).trans none
      | finished => exact (atRunning_live (.inr (by rw [same, hr])) _ _).trans none
      | stopped => exact atRunning_stopped (by rw [same, hr]) _ _
  · rfl

theorem combine_waits {pre : CombinePrefix} {elems : List Word32} (hd : delivers s h = true) (hs : h.dst.slot = 3) (ht : h.target < 4)
    (hw : (getTile s (dstSite h)).run = .idle ∨ (getTile s (dstSite h)).run = .loading) :
    Completes (.combine h pre elems) s (fun t => t.mem = s.mem ∧ t.events = s.events ∧
      getTile t (dstSite h) = { getTile s (dstSite h) with heldOps := (getTile s (dstSite h)).heldOps ++ [.combine h pre elems] }) := by
  have cr := crossed_piece h pre elems s
  have same := cr.getTile (dstSite h)
  refine completes_of_exec ((exec_combine hd pre elems).trans (congrArg Host.Outcome.next (if_pos ⟨hs, ht⟩))) ?_
  rw [atRunning_waiting (by rwa [same])]
  refine ⟨cr.mem, cr.events, ?_⟩
  rw [getTile_modTile, if_pos rfl, same]

theorem exec_failNotice_tile (ht : dstIsTile h = true) (reason lostType reqId : Nat) : exec (.failNotice h reason lostType reqId) s =
    .next (arriveData h 10 (cellLost (dstSite h) reqId reason) s) := congrArg Host.Outcome.next (if_pos ht)

theorem exec_failNotice_ring (ht : dstIsTile h = false) (reason lostType reqId : Nat) : exec (.failNotice h reason lostType reqId) s =
    .next (ringLost reqId reason (crossed h false 10 s)) := congrArg Host.Outcome.next (if_neg (by rw [ht]; exact Bool.false_ne_true))

theorem cellLost_of_none {k reqId : Nat} {u : State} (hd : descOf u k reqId = none) (reason : Nat) : cellLost k reqId reason u = u := by
  unfold cellLost
  rw [hd]

theorem descOf_congr {u : State} (ht : u.tiles = s.tiles) (k reqId : Nat) : descOf u k reqId = descOf s k reqId := by
  unfold descOf
  rw [getTile_congr ht]

theorem discardReserved_raises (h : Head) (s : State) :
    (discardReserved h s).mesh = s.mesh ∧ Raised { evCell s 0x115 1 h.src 0 with domain := h.domain } s (discardReserved h s) :=
  ⟨raise_mesh .., rfl⟩

theorem exec_reservedPacketType (x y type : Nat) (h : Head) (s : State) : exec (.reservedPacketType x y h type) s =
    .next (if [1, 2, 3, 4, 5, 6, 7, 9, 10].contains type then s else discardReserved h s) := rfl

theorem exec_reservedControlKind (x y kind : Nat) (h : Head) (s : State) : exec (.reservedControlKind x y h kind) s =
    .next (if 1 ≤ kind ∧ kind ≤ 9 then s else discardReserved h s) := rfl

theorem servedPacketType_iff (type : Nat) : [1, 2, 3, 4, 5, 6, 7, 9, 10].contains type = true ↔ type ≠ 0 ∧ type ≠ 8 ∧ type ≤ 10 := by
  rw [List.contains_iff_mem]
  simp only [List.mem_cons, List.not_mem_nil, or_false]
  omega

end

/-- Settles O49: a piece that fits is added, held or refused by its turn, and any other is discarded. -/
theorem combiningHomesAddTheirPieces : Obligations.CombiningHomesAddTheirPieces := by
  unfold Obligations.CombiningHomesAddTheirPieces
  intro h s
  refine ⟨fun pre elems hl hs ht => ?_, fun pre elems => ⟨combine_discarded, combine_waits, fun hd => ?_⟩, fun reason lostType reqId => ⟨fun tile hd => ?_, fun tile hd => ?_, fun ring => ?_⟩, ?_⟩
  · intro k gi g n i j cur key es sum fits live
    have place : fits → j < n := fun hf => piecePlace_lt hf.2.1 h.tag
    have count : (elems.map BitVec.toNat).length = elems.length := List.length_map _
    refine ⟨fun hf turn empty good => ?_, fun hf turn empty some' bad => ?_, fun hf det ahead expected fresh past => ?_,
      fun hf det ahead expected fresh inside => ?_, fun bad => ?_⟩
    · refine completes_imp (combine_adds hl hs ht live hf (i := i) (j := j) rfl rfl turn empty good) ?_
      rintro t ⟨mem, only, partly, wholly⟩
      have bytes := onlyBytes_writeBytes mem
      rw [length_pieceSum, count] at bytes
      refine ⟨mem, bytes, only, fun lacks => partly (fill_partly (place hf) lacks), fun all clean others => ?_⟩
      obtain ⟨generator, token⟩ := wholly (fill_wholly all clean others)
      rw [generator]
      exact ⟨rfl, rfl, rfl, rfl, fun q hq => pieceArrived_fillCounted _ hq, token⟩
    · exact combine_faults hl hs ht live hf (i := i) (j := j) rfl rfl turn empty some' bad
    · exact combine_past hl hs ht live hf (i := i) (j := j) rfl rfl det ahead expected (fun ⟨q, hq, held⟩ => fresh q hq held) past
    · refine completes_imp (combine_holds hl hs ht live hf (i := i) (j := j) rfl rfl det ahead expected (fun ⟨q, hq, held⟩ => fresh q hq held) inside) ?_
      rintro t ⟨generator, mem, only, events⟩
      have bytes := onlyBytes_writeBytes mem
      rw [length_flatMap_leBytes, count] at bytes
      exact ⟨generator, mem, bytes, only, events⟩
    · have refused : Completes (.combine h pre elems) s (PieceRefused k gi i s) := by
        by_cases hf : fits
        · obtain ⟨det, order⟩ := bad.resolve_left (not_not_intro hf)
          exact combine_refuses hl hs ht live hf (i := i) (j := j) rfl rfl det order
        · exact combine_misfit hl hs ht live rfl hf
      refine completes_imp refused ?_
      rintro t ⟨generator, only, mem, events⟩
      exact ⟨generator, only, mem, events⟩
  · exact completes_of_exec rfl (refused_data hd 7 _)
  · refine completes_of_exec ((exec_failNotice_tile tile ..).trans (by rw [arriveData_taken 10 _ hd])) ⟨rfl, fun none => ?_⟩
    have cr := crossed_crossed h false 10 s
    rw [cellLost_of_none (by rwa [descOf_congr cr.tiles])]
    exact ⟨cr.tiles, cr.mem, cr.events⟩
  · obtain ⟨tiles, -, events⟩ := refused_data hd 10 (cellLost (dstSite h) reqId reason)
    exact completes_of_exec (exec_failNotice_tile tile ..) ⟨tiles, events⟩
  · exact completes_of_exec (exec_failNotice_ring ring ..) rfl
  refine ⟨fun x y type reserved => ?_, fun x y type a b c => ?_, fun x y kind a b => ?_, fun x y kind reserved => ?_⟩
  · refine completes_of_exec (exec_reservedPacketType ..) ?_
    rw [if_neg (by rw [servedPacketType_iff]; omega)]
    exact discardReserved_raises h s
  · exact completes_of_exec (exec_reservedPacketType ..) (if_pos ((servedPacketType_iff type).mpr ⟨a, b, c⟩))
  · exact completes_of_exec (exec_reservedControlKind ..) (if_pos ⟨a, b⟩)
  · refine completes_of_exec (exec_reservedControlKind ..) ?_
    rw [if_neg (by omega)]
    exact discardReserved_raises h s

end Sys2Proof.Machine
end

section
/-!
PROOF. Counter operations (R219 to R222, R229): a refused operation at a crest counter whose owner a disordered table of partitions changes.
-/

namespace Sys2Proof.Machine

open Sys2Proof

/-- Two partitions whose wafer-crest ranges both hold counters 14336 and 14337, listed with the higher number first. The lower one waits at
a barrier that its arrival counter has already reached. -/
def partsDisordered : State :=
  { State.reset with
    parts := [(1, { domain := 7 }), (0, { domain := 9, job := some {}, hostOps := [{ arrival := 14336, release := 14337 }] })]
    crest := { State.reset.crest with base := [(0, 14336), (1, 14336)], count := [(0, 2), (1, 2)] } }

/-- A tile of domain 9 reads a counter, with the operation number of its message. -/
def readHead : Head := ⟨⟨0, 0, 3⟩, ⟨ringXY, ringXY, 0⟩, 0, 9, 0⟩

def readMsg : CtrMsg := ⟨true, 14336, false, ⟨0, 0, 0⟩, 0⟩

/-- The state after the read, where there is one. -/
def afterRead : Option State :=
  match exec (.ctrRead readHead readMsg) partsDisordered with
  | .next t => some t
  | _ => none

/-- The answer's traffic is noted at partition 0, which puts it first in the table and makes it the counter's owner: its barrier releases
(R227, R229). -/
theorem afterRead_releases : afterRead.map (fun t => (getCtr t (.crest 14337)).p) = some 1 := by decide +kernel

/-- Refutes O50: a refused operation changes another counter where the table of partitions is not in order. The answer's traffic re-enters
the sender's partition before the owner, and the barrier of that partition, whose range holds the counter too, releases. -/
theorem not_countersTakeTheirOperations : ¬ Obligations.CountersTakeTheirOperations := by
  unfold Obligations.CountersTakeTheirOperations
  intro claim
  obtain ⟨-, taken, -⟩ := claim partsDisordered
  have isRead : OfTile readHead readMsg (.ctrRead readHead readMsg) 3 0 := .inr (.inr (.inl ⟨rfl, rfl, rfl⟩))
  obtain ⟨-, -, refused⟩ := taken readHead readMsg _ 3 0 isRead (.inl rfl)
  have other : ¬((ctrOwner partsDisordered (.crest 14336)).bind (getPart partsDisordered)).map Part.domain = some readHead.domain := by decide +kernel
  have quiet : NoBarrier (.crest 14336) partsDisordered := by
    intro q hq
    have owner : ctrOwner partsDisordered (.crest 14336) = some 1 := by decide +kernel
    rw [owner] at hq
    obtain rfl := Option.some.inj hq
    rfl
  obtain ⟨t, step, -, only, -⟩ := refused other quiet
  obtain ⟨-, others, -⟩ := only
  have same : getCtr t (.crest 14337) = getCtr partsDisordered (.crest 14337) := others (.crest 14337) (by decide)
  have reached : afterRead = some t := by
    unfold afterRead
    rw [step]
  have released := afterRead_releases
  rw [reached, Option.map_some, same] at released
  exact absurd released (by decide +kernel)

end Sys2Proof.Machine
end

section
/-!
PROOF. Watches and the answers to counter operations (R222 to R226, R231, R235): what each does at its holder.
-/

namespace Sys2Proof.Machine

open Sys2Proof

/-! ## Counters and their owners -/

/-- The counters, the watches and the owners of the counters are the same. -/
structure SameCounters (s u : State) : Prop where
  crest : u.crest = s.crest
  tiles : u.tiles = s.tiles
  parts : u.parts = s.parts
  holder : ∀ f, holder u f = holder s f
  works : ∀ k, siteWorks u k = siteWorks s k

namespace SameCounters

variable {s u : State}

theorem part (h : SameCounters s u) : getPart u = getPart s := funext (getPart_congr h.parts)

theorem counter (h : SameCounters s u) (key : CtrKey) : getCtr u key = getCtr s key := by
  cases key with
  | tile k i =>
    unfold getCtr
    dsimp only
    rw [getTile_congr h.tiles]
  | crest i =>
    unfold getCtr
    dsimp only
    rw [h.crest]

theorem crestOwner (h : SameCounters s u) (i : Nat) : Machine.crestOwner u i = Machine.crestOwner s i := by
  unfold Machine.crestOwner
  rw [h.holder, h.parts, h.crest]

theorem owner (h : SameCounters s u) (key : CtrKey) : ctrOwner u key = ctrOwner s key := by
  cases key with
  | tile k i =>
    unfold ctrOwner siteHolder
    dsimp only
    rw [h.works, h.holder]
  | crest i => exact h.crestOwner i

theorem ownDomain (h : SameCounters s u) (key : CtrKey) :
    ((ctrOwner u key).bind (getPart u)).map Part.domain = ((ctrOwner s key).bind (getPart s)).map Part.domain := by
  rw [h.owner, h.part]

theorem event (h : SameCounters s u) (code kind : Nat) (key : CtrKey) (detail : Nat) : evCtr u code kind key detail = evCtr s code kind key detail := by
  cases key with
  | tile k i =>
    unfold evCtr evCell siteDomain siteHolder
    dsimp only
    rw [h.holder, h.part]
  | crest i =>
    unfold evCtr evField
    dsimp only
    rw [h.holder, h.part, h.crestOwner]

theorem holds (h : SameCounters s u) (w : Watch) : watchHolds u w = watchHolds s w := by
  unfold watchHolds
  rw [h.counter]

theorem key (h : SameCounters s u) (part : Nat) (c : CtrRef) : hostKey u part c = hostKey s part c := by
  unfold hostKey
  dsimp only
  rw [h.owner]

theorem sync (h : SameCounters s u) (p : Pkt) (hdr : Hdr) : syncPart u p hdr = syncPart s p hdr := by
  unfold syncPart cmdPart
  rw [h.part]

end SameCounters

theorem Crossed.counters {s u : State} (h : Crossed s u) : SameCounters s u := ⟨h.only .crest rfl, h.tiles, h.parts, h.holder, h.siteWorks⟩

theorem counters_of_accepted {s u : State} (h : Accepted s u) : SameCounters s u := by
  refine ⟨h.only .crest rfl, h.only .tiles rfl, h.parts, fun f => ?_, fun k => ?_⟩
  · unfold Machine.holder
    rw [getFld_congr h.fld]
  · unfold Machine.siteWorks siteState
    rw [h.only .mesh rfl, h.only .ident rfl]

theorem dstIsTile_of_delivers {s : State} {h : Head} (hd : delivers s h = true) : dstIsTile h = true := by
  unfold delivers at hd
  rw [Bool.and_eq_true, Bool.and_eq_true] at hd
  exact hd.1.1

theorem dstIsTile_of_ring {h : Head} (hx : h.dst.x = ringXY) : dstIsTile h = false := by
  unfold dstIsTile
  rw [hx]
  rfl

/-! ## Answers (R222, R231) -/

section
variable {h : Head} {m : CtrMsg} {s : State}

/-- A tile whose sync unit has an answer (R222). -/
def answerTaken (m : CtrMsg) (status p c : Nat) (t : Tile) : Tile :=
  { t with opsOut := t.opsOut - 1
           agent := if m.ackWanted then t.agent ++ [(m.retCell.slot, m.retTarget, status, p, c)] else t.agent }

theorem ctrAnswered_ring (hx : h.dst.x = ringXY) (status p c : Nat) : ctrAnswered h m status p c s = crossed h true 4 s := by
  unfold ctrAnswered
  rw [arriveCtl_taken 4 _ (.inl hx)]
  dsimp only
  rw [dstIsTile_of_ring hx]
  rfl

theorem ctrAnswered_tile (hd : delivers s h = true) (status p c : Nat) : ctrAnswered h m status p c s =
    snapArrive (dstSite h) (modTile (dstSite h) (answerTaken m status p c) (crossed h true 4 s)) := by
  unfold ctrAnswered
  rw [arriveCtl_taken 4 _ (.inr hd)]
  dsimp only
  rw [dstIsTile_of_delivers hd]
  rfl

/-- A tile's arrival at a snapshot (R231). -/
def arrivalAt (k d seq : Nat) : MeshMsg := ⟨⟨⟨siteX k, siteY k, 3⟩, ⟨ringXY, ringXY, 0⟩, 0, d, 0⟩, true, 6, crestBody 1 seq 0⟩

theorem snapArrive_of_none {k : Nat} {u : State} (h : ∀ q, siteHolder u k = some q → getHostOp u q 2 = none) : snapArrive k u = u := by
  unfold snapArrive
  cases hs : siteHolder u k with
  | none => rfl
  | some q =>
    have none' := h q hs
    unfold getHostOp at none'
    rw [Option.bind_some]
    cases hp : getPart u q with
    | none => rfl
    | some a =>
      rw [hp] at none'
      have absent : a.hostOps.find? (fun o => o.kind == 2) = none := none'
      dsimp only
      rw [absent]

theorem snapArrive_of_op {k q : Nat} {a : Part} {o : HostOp} {u : State} (hs : siteHolder u k = some q) (hp : getPart u q = some a)
    (ho : getHostOp u q 2 = some o) : snapArrive k u =
      if o.phase == 0 && !(getTile u k).arrivedAt && (getTile u k).opsOut == 0 then
        send (arrivalAt k a.domain o.seq) (modTile k (fun t => { t with arrivedAt := true }) u)
      else u := by
  unfold getHostOp at ho
  rw [hp] at ho
  have found : a.hostOps.find? (fun o => o.kind == 2) = some o := ho
  unfold snapArrive
  rw [hs, Option.bind_some, hp]
  dsimp only
  rw [found]
  rfl

/-- A tile that has taken an answer, with what the crossing left (R222). -/
structure Answered (m : CtrMsg) (status p c : Nat) (k : Nat) (s u t : State) : Prop where
  own : getTile t k = answerTaken m status p c (getTile s k)
  others : ∀ j, j ≠ k → getTile t j = getTile s j
  mesh : t.mesh = u.mesh
  events : t.events = s.events

theorem answered (cr : Crossed s (crossed h true 4 s)) (m : CtrMsg) (status p c k : Nat) :
    Answered m status p c k s (crossed h true 4 s) (modTile k (answerTaken m status p c) (crossed h true 4 s)) := by
  refine ⟨?_, fun j hj => ?_, rfl, cr.events⟩
  · rw [getTile_modTile, if_pos rfl, cr.getTile]
  · rw [getTile_modTile, if_neg hj, cr.getTile]

/-- What an answer does at its tile (R222, R231). -/
structure AnswerRules (h : Head) (m : CtrMsg) (status p c : Nat) (s t : State) : Prop where
  plain : (∀ q, siteHolder s (dstSite h) = some q → getHostOp s q 2 = none) → Answered m status p c (dstSite h) s (crossed h true 4 s) t
  arrives : ∀ q a o, siteHolder s (dstSite h) = some q → getPart s q = some a → getHostOp s q 2 = some o → o.phase = 0 →
    (getTile s (dstSite h)).arrivedAt = false →
      ((getTile s (dstSite h)).opsOut ≤ 1 →
        getTile t (dstSite h) = { answerTaken m status p c (getTile s (dstSite h)) with arrivedAt := true } ∧
        arrivalAt (dstSite h) a.domain o.seq ∈ t.mesh.flight) ∧
      (1 < (getTile s (dstSite h)).opsOut →
        getTile t (dstSite h) = answerTaken m status p c (getTile s (dstSite h)) ∧ t.mesh = (crossed h true 4 s).mesh)

theorem answerRules (hd : delivers s h = true) (m : CtrMsg) (status p c : Nat) : AnswerRules h m status p c s (ctrAnswered h m status p c s) := by
  have cr := crossed_crossed h true 4 s
  rw [ctrAnswered_tile hd]
  obtain ⟨own, others, mesh, events⟩ := answered cr m status p c (dstSite h)
  have holder : siteHolder (modTile (dstSite h) (answerTaken m status p c) (crossed h true 4 s)) (dstSite h) = siteHolder s (dstSite h) :=
    cr.siteHolder _
  have part (q : Nat) : getPart (modTile (dstSite h) (answerTaken m status p c) (crossed h true 4 s)) q = getPart s q := getPart_congr cr.parts q
  have op (q : Nat) : getHostOp (modTile (dstSite h) (answerTaken m status p c) (crossed h true 4 s)) q 2 = getHostOp s q 2 := by
    unfold getHostOp
    rw [part]
  generalize modTile (dstSite h) (answerTaken m status p c) (crossed h true 4 s) = u at own others mesh events holder part op
  refine ⟨fun none' => ?_, fun q a o hs hp ho phase out => ⟨fun few => ?_, fun many => ?_⟩⟩
  · rw [snapArrive_of_none (by rw [holder]; intro q hq; rw [op]; exact none' q hq)]
    exact ⟨own, others, mesh, events⟩
  all_goals rw [snapArrive_of_op (holder.trans hs) ((part q).trans hp) ((op q).trans ho)]
  · have go : (o.phase == 0 && !(getTile u (dstSite h)).arrivedAt && (getTile u (dstSite h)).opsOut == 0) = true := by
      have left : (answerTaken m status p c (getTile s (dstSite h))).opsOut = (getTile s (dstSite h)).opsOut - 1 := rfl
      have yet : (answerTaken m status p c (getTile s (dstSite h))).arrivedAt = (getTile s (dstSite h)).arrivedAt := rfl
      rw [own, left, yet, phase, out]
      simp
      omega
    rw [if_pos go]
    refine ⟨?_, carried_send ..⟩
    rw [getTile_congr ((send_keeps ..).only .tiles rfl), getTile_modTile, if_pos rfl, own]
  · have stay : ¬(o.phase == 0 && !(getTile u (dstSite h)).arrivedAt && (getTile u (dstSite h)).opsOut == 0) = true := by
      have left : (answerTaken m status p c (getTile s (dstSite h))).opsOut = (getTile s (dstSite h)).opsOut - 1 := rfl
      rw [own, left]
      simp
      omega
    rw [if_neg stay]
    exact ⟨own, mesh⟩

end

/-! ## Watches at their holder (R223 to R226) -/

section
variable {h : Head} {m : WatchMsg} {s : State}

/-- The notification of a watch that a message registered (R223, R226). -/
def watchNotice (w : Watch) (status : Nat) : MeshMsg :=
  ⟨⟨ctrHolder w.key, w.tgtCell, w.tgtTarget, w.domain, w.tag⟩, true, 5,
    leBytes 4 (ctrWord2 3 w.key w.onC status) ++ leBytes 4 (w.v.toNat % 2 ^ 32) ++ leBytes 4 (w.v.toNat / 2 ^ 32) ++
    leBytes 4 (cellWord w.tgtCell w.tgtTarget)⟩

theorem notifyWatch_tile {w : Watch} (hw : w.host = none) (status : Nat) (s : State) : notifyWatch w status s = send (watchNotice w status) s := by
  unfold notifyWatch
  dsimp only
  rw [hw]
  rfl

/-- The watches that the holder of a counter keeps (R223). -/
def watchesKept (s : State) (key : CtrKey) : Nat := (s.crest.watches.filter (fun (a : Watch) => ctrHolder a.key == ctrHolder key)).length

theorem registerWatch_full {w : Watch} (hf : watchRoom w.key ≤ watchesKept s w.key) :
    registerWatch w s = notifyWatch w 1 (raise (evCtr s 0x184 2 w.key 0) s) := if_pos hf

theorem registerWatch_fires {w : Watch} (hf : watchesKept s w.key < watchRoom w.key) (hw : watchHolds s w = true) :
    registerWatch w s = notifyWatch w 0 s := (if_neg (Nat.not_le.mpr hf)).trans (if_pos hw)

theorem registerWatch_keeps_it {w : Watch} (hf : watchesKept s w.key < watchRoom w.key) (hw : watchHolds s w = false) :
    registerWatch w s = { s with crest := { s.crest with watches := s.crest.watches ++ [w] } } :=
  (if_neg (Nat.not_le.mpr hf)).trans (if_neg (by rw [hw]; exact Bool.false_ne_true))

theorem watchArrive_own (ht : h.dst.x = ringXY ∨ delivers s h = true) (act : Watch → State → State)
    (ho : ((ctrOwner s (msgKey h m.crest m.index)).bind (getPart s)).map Part.domain = some h.domain) :
    watchArrive h m act s = act (msgWatch h m) (crossed h true 5 s) := by
  have key : (msgWatch h m).key = msgKey h m.crest m.index := rfl
  unfold watchArrive
  rw [arriveCtl_taken 5 _ ht]
  dsimp only
  rw [key, (crossed_crossed h true 5 s).counters.ownDomain, if_pos ho]

theorem watchArrive_foreign (ht : h.dst.x = ringXY ∨ delivers s h = true) (act : Watch → State → State)
    (ho : ¬((ctrOwner s (msgKey h m.crest m.index)).bind (getPart s)).map Part.domain = some h.domain) :
    watchArrive h m act s = raise { evCtr s 0x182 2 (msgKey h m.crest m.index) 0 with domain := h.domain } (crossed h true 5 s) := by
  have key : (msgWatch h m).key = msgKey h m.crest m.index := rfl
  have counters := (crossed_crossed h true 5 s).counters
  unfold watchArrive
  rw [arriveCtl_taken 5 _ ht]
  dsimp only
  rw [key, counters.ownDomain, if_neg ho, counters.event]

end

end Sys2Proof.Machine
end

section
/-!
PROOF. What the answers to counter operations, the watches and the hosts' watches do (R222 to R226, R231, R235).
-/

namespace Sys2Proof.Machine

open Sys2Proof

section
variable {h : Head} {s : State}

/-! ## Watches of messages -/

theorem exec_watchRegister (h : Head) (m : WatchMsg) (s : State) : exec (.watchRegister h m) s = .next (watchArrive h m registerWatch s) := rfl

theorem exec_watchCancel (h : Head) (m : WatchMsg) (s : State) : exec (.watchCancel h m) s = .next (watchArrive h m cancelWatch s) := rfl

theorem watch_refused {m : WatchMsg} (hx : h.dst.x ≠ ringXY) (hd : delivers s h = false) (act : Watch → State → State) :
    (watchArrive h m act s).crest = s.crest ∧ Raised (refuseEvent (crossed h true 5 s) h) s (watchArrive h m act s) := by
  have cr := crossed_crossed h true 5 s
  unfold watchArrive
  rw [arriveCtl_refused 5 _ hx hd]
  exact ⟨(raise_crest ..).trans cr.counters.crest, raise_events _ cr.events⟩

section
variable {m : WatchMsg} (ht : h.dst.x = ringXY ∨ delivers s h = true)
  (ho : ((ctrOwner s (msgKey h m.crest m.index)).bind (getPart s)).map Part.domain = some h.domain)
include ht ho

theorem register_full (hf : watchRoom (msgKey h m.crest m.index) ≤ watchesKept s (msgKey h m.crest m.index)) :
    Completes (.watchRegister h m) s (fun t => (t.crest = s.crest ∧ watchNotice (msgWatch h m) 1 ∈ t.mesh.flight) ∧
      Raised (evCtr s 0x184 2 (msgKey h m.crest m.index) 0) s t) := by
  have cr := crossed_crossed h true 5 s
  have counters := cr.counters
  have full : watchRoom (msgWatch h m).key ≤ watchesKept (crossed h true 5 s) (msgWatch h m).key := by
    unfold watchesKept
    rw [counters.crest]
    exact hf
  refine completes_of_exec (exec_watchRegister h m s) ?_
  rw [watchArrive_own ht _ ho, registerWatch_full full, notifyWatch_tile rfl, counters.event]
  refine ⟨⟨?_, carried_send ..⟩, ?_⟩
  · exact ((send_keeps ..).only .crest rfl).trans ((raise_crest ..).trans counters.crest)
  · have kept : (send (watchNotice (msgWatch h m) 1) (raise (evCtr s 0x184 2 (msgWatch h m).key 0) (crossed h true 5 s))).events = _ :=
      (send_keeps ..).only .events rfl
    exact kept.trans (raise_events _ cr.events)

section
variable (hf : watchesKept s (msgKey h m.crest m.index) < watchRoom (msgKey h m.crest m.index))
include hf

theorem register_fires (hw : watchHolds s (msgWatch h m) = true) : Completes (.watchRegister h m) s (fun t =>
    (t.crest = s.crest ∧ watchNotice (msgWatch h m) 0 ∈ t.mesh.flight) ∧ t.events = s.events) := by
  have cr := crossed_crossed h true 5 s
  have counters := cr.counters
  have room : watchesKept (crossed h true 5 s) (msgWatch h m).key < watchRoom (msgWatch h m).key := by
    unfold watchesKept
    rw [counters.crest]
    exact hf
  refine completes_of_exec (exec_watchRegister h m s) ?_
  rw [watchArrive_own ht _ ho, registerWatch_fires room ((counters.holds _).trans hw), notifyWatch_tile rfl]
  exact ⟨⟨((send_keeps ..).only .crest rfl).trans counters.crest, carried_send ..⟩, ((send_keeps ..).only .events rfl).trans cr.events⟩

theorem register_keeps (hw : watchHolds s (msgWatch h m) = false) : Completes (.watchRegister h m) s (fun t =>
    t.crest = { s.crest with watches := s.crest.watches ++ [msgWatch h m] } ∧ t.mesh = (crossed h true 5 s).mesh ∧ t.events = s.events) := by
  have cr := crossed_crossed h true 5 s
  have counters := cr.counters
  have room : watchesKept (crossed h true 5 s) (msgWatch h m).key < watchRoom (msgWatch h m).key := by
    unfold watchesKept
    rw [counters.crest]
    exact hf
  refine completes_of_exec (exec_watchRegister h m s) ?_
  rw [watchArrive_own ht _ ho, registerWatch_keeps_it room ((counters.holds _).trans hw), counters.crest]
  exact ⟨rfl, rfl, cr.events⟩

end

theorem watch_cancelled : Completes (.watchCancel h m) s (fun t =>
    t.crest = { s.crest with watches := s.crest.watches.filter (fun (a : Watch) => !sameWatch a (msgWatch h m)) } ∧
    t.mesh = (crossed h true 5 s).mesh ∧ t.events = s.events) := by
  have cr := crossed_crossed h true 5 s
  refine completes_of_exec (exec_watchCancel h m s) ?_
  rw [watchArrive_own ht _ ho]
  unfold cancelWatch
  rw [cr.counters.crest]
  exact ⟨rfl, rfl, cr.events⟩

end

theorem watch_foreign {m : WatchMsg} (ht : h.dst.x = ringXY ∨ delivers s h = true)
    (ho : ¬((ctrOwner s (msgKey h m.crest m.index)).bind (getPart s)).map Part.domain = some h.domain) (act : Watch → State → State) :
    (watchArrive h m act s).crest = s.crest ∧ (watchArrive h m act s).mesh = (crossed h true 5 s).mesh ∧
    Raised { evCtr s 0x182 2 (msgKey h m.crest m.index) 0 with domain := h.domain } s (watchArrive h m act s) := by
  have cr := crossed_crossed h true 5 s
  rw [watchArrive_foreign ht act ho]
  exact ⟨(raise_crest ..).trans cr.counters.crest, raise_mesh .., raise_events _ cr.events⟩

/-! ## Notifications (R224) -/

/-- A notification that no binding takes (R224). -/
def noticeUntaken (h : Head) (status : Nat) : Bool := status ≠ 0 || h.dst.slot ≥ 3 || !dstIsTile h

theorem exec_watchNotify (ht : h.dst.x = ringXY ∨ delivers s h = true) (m : WatchMsg) (status : Nat) : exec (.watchNotify h m status) s = .next (
    if noticeUntaken h status then crossed h true 5 s
    else atRunning (dstSite h) (some (.watchNotify h m status)) (notifyIn h) (crossed h true 5 s)) := by
  refine congrArg Host.Outcome.next ((arriveCtl_taken 5 _ ht).trans ?_)
  refine if_congr ?_ rfl rfl
  unfold noticeUntaken
  rw [Bool.or_eq_true, Bool.or_eq_true, decide_eq_true_iff, decide_eq_true_iff, or_assoc]

theorem exec_watchNotify_taken (hd : delivers s h = true) (hs : h.dst.slot < 3) (m : WatchMsg) : exec (.watchNotify h m 0) s =
    .next (atRunning (dstSite h) (some (.watchNotify h m 0)) (notifyIn h) (crossed h true 5 s)) := by
  have takes : noticeUntaken h 0 = false := by
    unfold noticeUntaken
    rw [dstIsTile_of_delivers hd, decide_eq_false (Nat.not_le.mpr hs)]
    rfl
  rw [exec_watchNotify (.inr hd), takes, if_neg Bool.false_ne_true]

theorem notice_token (hl : Live h s) (hs : h.dst.slot < 3) (hb : h.target < 4)
    (hk : (ccIn (getCC s (dstSite h) h.dst.slot).cfg h.target).kind = 1) (m : WatchMsg) :
    Completes (.watchNotify h m 0) s (fun t =>
      t = ccArrive (dstSite h) h.dst.slot h.target { tag := h.tag, rows := 8191, cols := 32767 } (crossed h true 5 s)) := by
  refine completes_of_exec (exec_watchNotify_taken hl.1 hs m) ?_
  rw [atRunning_live (live_crossed hl true 5)]
  refine if_pos ⟨hb, ?_⟩
  rwa [(crossed_crossed h true 5 s).getCC]

theorem notice_untaken (hl : Live h s) {status : Nat}
    (hn : status ≠ 0 ∨ 3 ≤ h.dst.slot ∨ 4 ≤ h.target ∨ (ccIn (getCC s (dstSite h) h.dst.slot).cfg h.target).kind ≠ 1) (m : WatchMsg) :
    Completes (.watchNotify h m status) s (fun t => t = crossed h true 5 s ∧ t.tiles = s.tiles) := by
  have cr := crossed_crossed h true 5 s
  refine completes_of_exec (t := crossed h true 5 s) ((exec_watchNotify (.inr hl.1) m status).trans (congrArg Host.Outcome.next ?_)) ⟨rfl, cr.tiles⟩
  split
  · rfl
  · next taken =>
    unfold noticeUntaken at taken
    rw [Bool.or_eq_true, Bool.or_eq_true, decide_eq_true_iff, decide_eq_true_iff] at taken
    rw [atRunning_live (live_crossed hl true 5)]
    refine if_neg ?_
    rintro ⟨low, kind⟩
    rw [cr.getCC] at kind
    obtain bad | far | high | other := hn
    · exact taken (.inl (.inl bad))
    · exact taken (.inl (.inr far))
    · exact absurd low (Nat.not_lt.mpr high)
    · exact other kind

theorem notice_discarded {status : Nat} (hn : h.dst.x = ringXY ∨ (delivers s h = true ∧ (getTile s (dstSite h)).run = .stopped)) (m : WatchMsg) :
    Completes (.watchNotify h m status) s (fun t => t = crossed h true 5 s ∧ t.tiles = s.tiles) := by
  have cr := crossed_crossed h true 5 s
  refine completes_of_exec (t := crossed h true 5 s)
    ((exec_watchNotify (hn.imp_right And.left) m status).trans (congrArg Host.Outcome.next ?_)) ⟨rfl, cr.tiles⟩
  split
  · rfl
  · next taken =>
    obtain ring | ⟨-, stopped⟩ := hn
    · refine absurd ?_ taken
      unfold noticeUntaken
      rw [dstIsTile_of_ring ring, Bool.not_false, Bool.or_true]
    · exact atRunning_stopped (by rwa [crossed_run]) _ _

/-! ## Watches of hosts (R225, R235) -/

section
variable {p : Pkt} {hdr : Hdr} {c : CtrRef} {count : Nat} {v : Count48} {id : BitVec 32}

/-- The watch that a host sets on a counter. -/
def hostWatch (p : Pkt) (key : CtrKey) (count : Nat) (v : Count48) (id : BitVec 32) : Watch :=
  { key := key, onC := count == 1, v := v, domain := p.domain, host := some (id, p.node) }

/-- WATCH_SET on an accepted packet's state. -/
def watchSetOp (p : Pkt) (hdr : Hdr) (c : CtrRef) (count : Nat) (v : Count48) (id : BitVec 32) (u : State) : State :=
  (syncPart u p hdr).elim (syncError p hdr u) (fun _ => (hostKey u hdr.part c).elim (syncOutside p hdr u) (fun key =>
    if count > 1 then syncError p hdr u
    else replySync p hdr (if watchRoom key ≤ watchesKept u key then 2 else 0) 0 0 0 0 (registerWatch (hostWatch p key count v id) u)))

theorem exec_watchSet : exec (.watchSet p hdr c count v id) s =
    .next (ingress p (.watchSet p hdr c count v id) (watchSetOp p hdr c count v id) s) := by
  refine congrArg (fun act => Host.Outcome.next (ingress p (.watchSet p hdr c count v id) act s)) (funext fun u => ?_)
  unfold watchSetOp
  cases syncPart u p hdr with
  | none => rfl
  | some a =>
    dsimp only [Option.elim_some]
    cases hostKey u hdr.part c with
    | none => rfl
    | some key => rfl

section
variable {a : Part} {key : CtrKey} {u : State} (acc : Accepted s u) (hp : syncPart s p hdr = some a) (hk : hostKey s hdr.part c = some key)
include acc hp hk

theorem watchSetOp_keyed : watchSetOp p hdr c count v id u = if count > 1 then syncError p hdr u
    else replySync p hdr (if watchRoom key ≤ watchesKept s key then 2 else 0) 0 0 0 0 (registerWatch (hostWatch p key count v id) u) := by
  have counters := counters_of_accepted acc
  unfold watchSetOp watchesKept
  rw [counters.sync, hp, Option.elim_some, counters.key, hk, Option.elim_some, counters.crest]

theorem watchSetOp_full (hc : count ≤ 1) (hf : watchRoom key ≤ watchesKept s key) : watchSetOp p hdr c count v id u =
    replySync p hdr 2 0 0 0 0 (notifyWatch (hostWatch p key count v id) 1 (raise (evCtr u 0x184 2 key 0) u)) := by
  have full : watchRoom (hostWatch p key count v id).key ≤ watchesKept u (hostWatch p key count v id).key := by
    unfold watchesKept
    rw [(counters_of_accepted acc).crest]
    exact hf
  rw [watchSetOp_keyed acc hp hk, if_neg (Nat.not_lt.mpr hc), if_pos hf, registerWatch_full full]
  rfl

section
variable (hc : count ≤ 1) (hf : ¬watchRoom key ≤ watchesKept s key)
include hc hf

omit hp hk hc in
theorem hostRoom : watchesKept u (hostWatch p key count v id).key < watchRoom (hostWatch p key count v id).key := by
  unfold watchesKept
  rw [(counters_of_accepted acc).crest]
  exact Nat.not_le.mp hf

theorem watchSetOp_fires (hw : watchHolds s (hostWatch p key count v id) = true) : watchSetOp p hdr c count v id u =
    replySync p hdr 0 0 0 0 0 (notifyWatch (hostWatch p key count v id) 0 u) := by
  rw [watchSetOp_keyed acc hp hk, if_neg (Nat.not_lt.mpr hc), if_neg hf,
    registerWatch_fires (hostRoom acc hf) (((counters_of_accepted acc).holds _).trans hw)]

theorem watchSetOp_keeps (hw : watchHolds s (hostWatch p key count v id) = false) : watchSetOp p hdr c count v id u =
    replySync p hdr 0 0 0 0 0 { u with crest := { u.crest with watches := u.crest.watches ++ [hostWatch p key count v id] } } := by
  rw [watchSetOp_keyed acc hp hk, if_neg (Nat.not_lt.mpr hc), if_neg hf,
    registerWatch_keeps_it (hostRoom acc hf) (((counters_of_accepted acc).holds _).trans hw)]

end

end

/-- WATCH_CANCEL on an accepted packet's state. -/
def hostCancelOp (p : Pkt) (hdr : Hdr) (id : BitVec 32) (u : State) : State :=
  (syncPart u p hdr).elim (syncError p hdr u) (fun _ => replySync p hdr 0 0 0 0 0 { u with crest := { u.crest with
    watches := u.crest.watches.filter (fun (w : Watch) => !(w.host == some (id, p.node) && ctrOwner u w.key == some hdr.part)) } })

theorem exec_hostWatchCancel : exec (.hostWatchCancel p hdr id) s = .next (ingress p (.hostWatchCancel p hdr id) (hostCancelOp p hdr id) s) := by
  refine congrArg (fun act => Host.Outcome.next (ingress p (.hostWatchCancel p hdr id) act s)) (funext fun u => ?_)
  unfold hostCancelOp
  cases syncPart u p hdr with
  | none => rfl
  | some a => rfl

theorem hostCancelOp_cancels {a : Part} {u : State} (acc : Accepted s u) (hp : syncPart s p hdr = some a) : hostCancelOp p hdr id u =
    replySync p hdr 0 0 0 0 0 { u with crest := { u.crest with watches := u.crest.watches.filter (fun (w : Watch) =>
      !(w.host == some (id, p.node) && ctrOwner s w.key == some hdr.part)) } } := by
  unfold hostCancelOp
  rw [(counters_of_accepted acc).sync, hp, Option.elim_some]
  simp only [(counters_of_accepted acc).owner]

end

end

/-- Settles O51: an answer, a watch and a notification each act by the rule of the holder, the tile or the binding that they reach. -/
theorem watchesAreKeptAndNotify : Obligations.WatchesAreKeptAndNotify := by
  unfold Obligations.WatchesAreKeptAndNotify
  intro s
  refine ⟨fun h m i status p c hi => ?_, fun h m hx hd i hi => ?_, fun h m ht => ?_, fun h m status => ?_, fun p h c count v id harr => ?_⟩
  · have step : exec i s = .next (ctrAnswered h m status p c s) := by
      obtain ⟨rfl, rfl, rfl⟩ | ⟨a, b, rfl, rfl, rfl, rfl⟩ := hi
      · rfl
      · rfl
    have cr := crossed_crossed h true 4 s
    refine ⟨fun hx hd => completes_of_exec step ?_, fun hx => completes_of_exec (step.trans (by rw [ctrAnswered_ring hx])) ⟨rfl, cr.tiles⟩, fun hd => ?_⟩
    · obtain ⟨tiles, -, events⟩ := refused_raises hx hd 4 (fun s => if !dstIsTile h then s else
        snapArrive (dstSite h) (modTile (dstSite h) (answerTaken m status p c) s))
      exact ⟨tiles, events⟩
    · obtain ⟨plain, arrives⟩ := answerRules hd m status p c
      refine ⟨fun none' => completes_of_exec step ?_, fun q a o hs hp ho phase out => ?_⟩
      · obtain ⟨own, others, mesh, events⟩ := plain none'
        exact ⟨own, others, mesh, events⟩
      · obtain ⟨few, many⟩ := arrives q a o hs hp ho phase out
        exact ⟨fun n => completes_of_exec step (few n), fun n => completes_of_exec step (many n)⟩
  · obtain rfl | rfl := hi
    · exact completes_of_exec (exec_watchRegister h m s) (watch_refused hx hd _)
    · exact completes_of_exec (exec_watchCancel h m s) (watch_refused hx hd _)
  · refine ⟨fun own full => register_full ht own full, fun own room => ⟨fun holds => ?_, fun fails => ?_⟩, fun own => watch_cancelled ht own,
      fun foreign i hi => ?_⟩
    · exact register_fires ht own room (decide_eq_true holds)
    · exact register_keeps ht own room (decide_eq_false (Nat.not_lt.mpr fails))
    · obtain rfl | rfl := hi
      · exact completes_of_exec (exec_watchRegister h m s) (watch_foreign ht foreign _)
      · exact completes_of_exec (exec_watchCancel h m s) (watch_foreign ht foreign _)
  · refine ⟨fun hl hz hs hb hk => ?_, fun hl hn => notice_untaken hl hn m, fun hn => notice_discarded hn m, fun hd hz hs hw => ?_, fun hx hd => ?_⟩
    · rw [hz]
      exact notice_token hl hs hb hk m
    · rw [hz]
      exact completes_of_exec (exec_watchNotify_taken hd hs m) (waiting_holds _ _ 5 hw)
    · obtain ⟨tiles, -, events⟩ := refused_raises hx hd 5 (fun s =>
        if status ≠ 0 ∨ h.dst.slot ≥ 3 ∨ !dstIsTile h then s
        else atRunning (dstSite h) (some (.watchNotify h m status)) (notifyIn h) s)
      exact completes_of_exec rfl ⟨tiles, events⟩
  · refine ⟨fun a key hp hk => ⟨fun hc => ?_, fun hc hf => ?_, fun hc hf hw => ?_, fun hc hf hw => ?_⟩, fun a hp hk => ?_, fun a hp => ?_,
      fun none' i hi => ?_⟩
    · exact delivers_act harr exec_watchSet fun u acc => (watchSetOp_keyed acc hp hk).trans (if_pos hc)
    · exact delivers_act harr exec_watchSet fun u acc => watchSetOp_full acc hp hk hc hf
    · exact delivers_act harr exec_watchSet fun u acc => watchSetOp_fires acc hp hk hc hf hw
    · exact delivers_act harr exec_watchSet fun u acc => watchSetOp_keeps acc hp hk hc hf hw
    · refine delivers_act harr exec_watchSet fun u acc => ⟨⟨0x182, 2, 7, (partOfDomain u p.domain).getD 0xFF, 0xFFFF, 0xFFFF, 0xFF, p.domain, p.node, 0, false⟩, rfl, rfl, ?_⟩
      unfold watchSetOp
      rw [(counters_of_accepted acc).sync, hp, Option.elim_some, (counters_of_accepted acc).key, hk]
      rfl
    · exact delivers_act harr exec_hostWatchCancel fun u acc => hostCancelOp_cancels acc hp
    · obtain rfl | rfl := hi
      · refine delivers_act harr exec_watchSet fun u acc => ?_
        unfold watchSetOp
        rw [(counters_of_accepted acc).sync, none']
        rfl
      · refine delivers_act harr exec_hostWatchCancel fun u acc => ?_
        unfold hostCancelOp
        rw [(counters_of_accepted acc).sync, none']
        rfl

end Sys2Proof.Machine
end

section
/-!
PROOF. What is reported stays reported: the requests pending at the controller when a run or a job ends are pending after it, in front of
those that its end adds (R161, R171, R407).
-/

namespace Sys2Proof.Machine

open Sys2Proof

/-- Every pending request of a state is pending in a later one, with nothing put before it. -/
structure Reports (s t : State) : Prop where
  more : ∃ l, t.events.pending = s.events.pending ++ l

namespace Reports

variable {s t u : State}

theorem refl (s : State) : Reports s s := ⟨[], (List.append_nil _).symm⟩

theorem trans (a : Reports s t) (b : Reports t u) : Reports s u := by
  obtain ⟨l, hl⟩ := a
  obtain ⟨m, hm⟩ := b
  exact ⟨l ++ m, by rw [hm, hl, List.append_assoc]⟩

theorem of_events (h : t.events = s.events) : Reports s t := ⟨[], by rw [h, List.append_nil]⟩

theorem of_keeps {w : List Region} (h : Keeps w s t) (hw : (!w.contains .events) = true := by rfl) : Reports s t :=
  of_events (h.only .events (by simpa using hw))

theorem foldl {α : Type} {g : State → α → State} (hg : ∀ s a, Reports s (g s a)) (l : List α) (s : State) : Reports s (l.foldl g s) := by
  induction l generalizing s with
  | nil => exact refl s
  | cons a l ih => exact (hg s a).trans (ih _)

theorem ite {c : Prop} [Decidable c] (a : Reports s t) (b : Reports s u) : Reports s (if c then t else u) := by
  split <;> assumption

theorem setFabric {f : FabricS} (a : Reports s t) : Reports s { t with fabric := f } := a.trans (of_events rfl)

theorem setCrest {c : CrestS} (a : Reports s t) : Reports s { t with crest := c } := a.trans (of_events rfl)

end Reports

theorem reports_raise (e : EvReq) (s : State) : Reports s (raise e s) := by
  unfold raise
  split
  · exact ⟨[e], rfl⟩
  · split
    · exact ⟨[], (List.append_nil _).symm⟩
    · exact ⟨[], (List.append_nil _).symm⟩

theorem reports_enqueue (q : Packet) (s : State) : Reports s (enqueue q s) := by
  unfold enqueue
  split
  · dsimp only
    exact (Reports.refl s).setFabric.trans (reports_raise ..)
  · exact .of_events rfl

/-! ## The end of a job -/

/-- A relation of two states that every change keeps of which the end of a job consists, but for the job's own record (R161, R171). -/
structure Endings (R : State → State → Prop) : Prop where
  refl : ∀ s, R s s
  trans : ∀ {s t u}, R s t → R t u → R s u
  packet : ∀ q s, R s (enqueue q s)
  message : ∀ m s, R s (send m s)
  event : ∀ e s, R s (raise e s)
  crest : ∀ c (s : State), R s { s with crest := c }
  tile : ∀ k g s, R s (modTile k g s)
  part : ∀ p g s, (∀ a : Part, (g a).current = a.current) → R s (modPart p g s)

namespace Endings

variable {R : State → State → Prop} (e : Endings R)
include e

theorem foldl {α : Type} {g : State → α → State} (hg : ∀ s a, R s (g s a)) (l : List α) (s : State) : R s (l.foldl g s) := by
  induction l generalizing s with
  | nil => exact e.refl s
  | cons a l ih => exact e.trans (hg s a) (ih _)

theorem sendPkt (node domain opcode : Nat) (data : List Byte) (s : State) : R s (sendPkt node domain opcode data s) := e.packet ..

theorem replySync (p : Pkt) (h : Hdr) (status ack : Nat) (pc cc : Count48) (sum : Word64) (s : State) :
    R s (replySync p h status ack pc cc sum s) := e.packet ..

theorem replySyncTo (node domain : Nat) (tag : BitVec 16) (status ack : Nat) (pc cc : Count48) (sum : Word64) (s : State) :
    R s (replySyncTo node domain tag status ack pc cc sum s) := e.packet ..

theorem endHostOp (p kind : Nat) (s : State) : R s (endHostOp p kind s) := e.part _ _ _ fun _ => rfl

theorem notifyWatch (w : Watch) (status : Nat) (s : State) : R s (notifyWatch w status s) := by
  unfold Machine.notifyWatch
  dsimp only
  split
  · exact e.packet ..
  · exact e.message ..

theorem fireWatches (key : CtrKey) (s : State) : R s (fireWatches key s) := by
  unfold Machine.fireWatches
  exact e.trans (e.crest _ s) (e.foldl (fun s w => e.notifyWatch w 0 s) _ _)

theorem setCtr (key : CtrKey) (v : Counter) (s : State) : R s (setCtr key v s) := by
  unfold Machine.setCtr
  split
  · exact e.tile ..
  · exact e.crest ..

theorem applyCtr (op n : Nat) (key : CtrKey) (s : State) : R s (applyCtr op n key s).2 := by
  have counted (ev : Option (Nat × Nat × Nat)) (v : Counter) : R s (match ev with
      | some (code, kind, detail) => raise (evCtr (Machine.setCtr key v s) code kind key detail) (Machine.setCtr key v s)
      | none => Machine.setCtr key v s) := by
    split
    · exact e.trans (e.setCtr ..) (e.event ..)
    · exact e.setCtr ..
  unfold Machine.applyCtr
  dsimp only
  refine e.trans ?_ (e.fireWatches ..)
  split
  · exact e.trans (counted _ _) (e.part _ _ _ fun _ => rfl)
  · exact e.trans (counted _ _) (e.part _ _ _ fun _ => rfl)
  · exact counted _ _

theorem ackCtr (op status : Nat) (h : Head) (m : CtrMsg) (key : CtrKey) (s : State) : R s (ackCtr op status h m key s) := by
  unfold Machine.ackCtr
  split
  · exact e.message ..
  · exact e.refl s

theorem performCtr (op n : Nat) (h : Head) (m : CtrMsg) (key : CtrKey) (s : State) : R s (performCtr op n h m key s) := by
  unfold Machine.performCtr
  dsimp only
  split
  · exact e.trans (e.event ..) (e.ackCtr ..)
  · exact e.trans (e.applyCtr ..) (e.ackCtr ..)

theorem performHostCtr (op n : Nat) (p : Pkt) (h : Hdr) (key : CtrKey) (s : State) : R s (performHostCtr op n p h key s) :=
  e.trans (e.applyCtr op n key s) (e.replySync ..)

theorem applyHeld (i : Instr) (s : State) : R s (applyHeld i s) := by
  unfold Machine.applyHeld
  split
  case h_1 | h_2 | h_3 | h_4 | h_5 => exact e.performCtr ..
  case h_6 | h_7 | h_8 | h_9 | h_10 =>
    split
    · exact e.performHostCtr ..
    · exact e.replySync ..
  case h_11 =>
    dsimp only
    exact e.trans (e.trans (e.applyCtr ..) (e.endHostOp ..)) (e.replySync ..)
  case h_12 => exact e.refl s

theorem unfreeze (p : Nat) (s : State) : R s (unfreeze p s) := by
  have held (l : List Instr) (s : State) : R s (l.foldl (fun s i => Machine.applyHeld i s) s) := e.foldl (fun s i => e.applyHeld i s) l s
  unfold Machine.unfreeze
  split
  · exact e.refl s
  · dsimp only
    refine e.trans (e.trans (e.part _ _ _ ?_) (e.foldl (fun s k => ?_) _ _)) (held _ _)
    · intro a
      rfl
    · exact e.trans (e.tile ..) (held _ _)

theorem closeJob (p : Nat) (s : State) : R s (closeJob p s) := by
  unfold Machine.closeJob
  split
  · exact e.refl s
  · next a ha =>
    split
    · exact e.refl s
    · have stamped : R s (stopStamp p .closed s) := e.part _ _ _ fun a => by split <;> [split <;> rfl; rfl]
      have replied := e.trans stamped (e.foldl (fun s (o : HostOp) => e.replySyncTo o.node a.domain o.tag 2 0 0 0 0 s) a.hostOps _)
      have refused := e.trans replied (e.foldl (fun s (c : Commit) =>
        e.sendPkt c.node c.domain 0x3F (runReply c.tag 2 0 0xFFFF 0xFFFF 0xFF 0xFF 0) s) a.commits _)
      have freed := e.trans (e.trans refused (e.part p (fun a => { a with hostOps := [] }) _ fun _ => rfl)) (e.unfreeze p _)
      refine e.trans (e.trans freed (e.crest _ _)) (e.part _ _ _ ?_)
      intro a
      rfl

theorem runNotify (a : Part) (status code number : Nat) (s : State) : R s (runNotify a status code number s) := by
  unfold Machine.runNotify
  split
  · split
    · exact e.sendPkt ..
    · exact e.refl s
  · exact e.refl s

theorem spreadAbort (a : Part) (s : State) : R s (spreadAbort a s) := by
  unfold Machine.spreadAbort
  split
  · exact e.foldl (fun s m => e.sendPkt ..) _ _
  · exact e.refl s

theorem abortSpread (a : Part) (code : Nat) (s : State) : R s (if code = 0x42 then s else Machine.spreadAbort a s) := by
  split
  · exact e.refl s
  · exact e.spreadAbort ..

/-- What an abort does before the job closes (R161). -/
theorem abortRun_closes {p : Nat} {s : State} {a : Part} (ha : getPart s p = some a) (hj : a.job.isSome = true) (code : Nat) :
    ∃ u, R s u ∧ abortRun p code s = Machine.closeJob p (modPart p (fun a => { a with current := none, queue := [] }) u) := by
  have running : ¬a.job.isNone = true := by cases h : a.job <;> simp_all
  unfold abortRun
  rw [ha]
  dsimp only
  rw [if_neg running]
  refine ⟨_, ?_, rfl⟩
  refine e.trans (e.trans (e.trans ?_ (e.foldl (fun s r => e.runNotify ..) _ _)) (e.foldl (fun s k => ?_) _ _)) (e.abortSpread ..)
  · split
    · exact e.runNotify ..
    · exact e.refl s
  · exact e.trans (e.tile ..) (e.message ..)

end Endings

theorem endings_reports : Endings Reports where
  refl := .refl
  trans := .trans
  packet := reports_enqueue
  message _ _ := .of_keeps (send_keeps ..)
  event := reports_raise
  crest _ _ := .of_events rfl
  tile _ _ _ := .of_keeps (modTile_keeps ..)
  part _ _ _ _ := .of_keeps (modPart_keeps ..)

theorem reports_abortRun (p code : Nat) (s : State) : Reports s (abortRun p code s) := by
  by_cases h : ∃ a, getPart s p = some a ∧ a.job.isSome = true
  · obtain ⟨a, ha, hj⟩ := h
    obtain ⟨u, told, closed⟩ := endings_reports.abortRun_closes ha hj code
    rw [closed]
    exact (told.trans (.of_keeps (modPart_keeps ..))).trans (endings_reports.closeJob ..)
  · rw [abortRun_without_job fun a ha => Option.not_isSome_iff_eq_none.mp fun hj => h ⟨a, ha, hj⟩]
    exact .refl s

/-- The partitions of two states run the same sections. -/
structure SameRuns (s t : State) : Prop where
  parts : ∀ p, (getPart t p).map Part.current = (getPart s p).map Part.current

theorem SameRuns.of_parts {s t : State} (h : t.parts = s.parts) : SameRuns s t := ⟨fun p => by rw [getPart_congr h]⟩

theorem SameRuns.of_jobs {s t : State} (h : SameJobs s t) : SameRuns s t := by
  refine ⟨fun p => ?_⟩
  have same := congrArg (Option.map Part.current) (h.parts p)
  rw [Option.map_map, Option.map_map] at same
  exact same

theorem sameRuns_modPart (p : Nat) {g : Part → Part} (s : State) (hg : ∀ a, (g a).current = a.current) : SameRuns s (modPart p g s) := by
  refine ⟨fun q => ?_⟩
  rw [getPart_modPart]
  split
  · next hq =>
    subst hq
    rw [Option.map_map]
    exact congrArg (fun f => Option.map f (getPart s q)) (funext hg)
  · rfl

theorem endings_sameRuns : Endings SameRuns where
  refl _ := ⟨fun _ => rfl⟩
  trans a b := ⟨fun p => (b.parts p).trans (a.parts p)⟩
  packet q s := .of_parts ((enqueue_keeps q s).only .parts rfl)
  message m s := .of_jobs (sameJobs_send m s)
  event _ _ := .of_parts (raise_parts ..)
  crest _ _ := .of_parts rfl
  tile _ _ _ := .of_parts rfl
  part p _ s hg := sameRuns_modPart p s hg

/-- An aborted partition with a job is left without job, run and queue; what it has counted stays (R161). -/
theorem abortRun_leaves {p : Nat} {s : State} {a : Part} (ha : getPart s p = some a) (hj : a.job.isSome = true) (code : Nat) :
    ∃ b, getPart (abortRun p code s) p = some (jobEnded b) ∧ b.current = none ∧ b.lasting = a.lasting := by
  obtain ⟨b, hb⟩ := abortRun_ended (code := code) ha hj
  refine ⟨b, hb, ?_, ?_⟩
  · obtain ⟨u, -, closed⟩ := endings_sameRuns.abortRun_closes ha hj code
    have kept := (endings_sameRuns.closeJob p (modPart p (fun a => { a with current := none, queue := [] }) u)).parts p
    rw [← closed, hb, getPart_modPart, if_pos rfl, Option.map_map] at kept
    cases hu : getPart u p with
    | none => rw [hu] at kept; exact absurd kept (by simp)
    | some d =>
      rw [hu] at kept
      exact Option.some.inj kept
  · have kept := (calm_abortRun p code s).parts p
    rw [hb, ha] at kept
    exact Option.some.inj kept

end Sys2Proof.Machine
end

section
/-!
PROOF. The hang timer (R227, R228): what the reports of still and moving tiles do to it, and the end of the hang time.
-/

namespace Sys2Proof.Machine

open Sys2Proof

/-! ## What a tile's stillness depends on -/

section
variable {s t : State}

theorem tileStill_congr {k : Nat} (hr : running t k = running s k) (ht : t.tiles = s.tiles) (hp : ∀ d, haloPeer t k d = haloPeer s k d)
    (r : Section) : tileStill t r k = tileStill s r k := by
  have tile (n : Nat) : getTile t n = getTile s n := getTile_congr ht n
  have cell (n i : Nat) : getCC t n i = getCC s n i := getCC_congr ht n i
  have agent (n g : Nat) : getAG t n g = getAG s n g := getAG_congr ht n g
  unfold tileStill blockedBits outFree queuesFree heldTuples agReady agCredit agStationary stagingWriter haloReady haloWaits
  simp only [hr, tile, cell, agent, hp]

theorem Crossed.haloPeer (cr : Crossed s t) (k : Nat) (d : Int × Int) : Machine.haloPeer t k d = Machine.haloPeer s k d := cr.ground.haloPeer k d

theorem Crossed.tileStill (cr : Crossed s t) (r : Section) (k : Nat) : Machine.tileStill t r k = Machine.tileStill s r k :=
  tileStill_congr (cr.running k) cr.tiles (cr.haloPeer k) r

theorem Crossed.getPart (cr : Crossed s t) (p : Nat) : Machine.getPart t p = Machine.getPart s p := getPart_congr cr.parts p

theorem Crossed.setting (cr : Crossed s t) (index sub : Nat) : Machine.setting t index sub = Machine.setting s index sub :=
  setting_congr (cr.only .regs rfl) index sub

theorem Crossed.evCell (cr : Crossed s t) (code kind : Nat) (c : CellRef) (detail : Nat) :
    Machine.evCell t code kind c detail = Machine.evCell s code kind c detail := by
  unfold Machine.evCell Machine.siteDomain
  rw [cr.siteHolder, funext cr.getPart]

theorem Crossed.now (cr : Crossed s t) : Machine.now t = Machine.now s := by
  unfold Machine.now
  rw [cr.only .time rfl]

/-- A partition's traffic is what its domain and the partition's number say; its own record says nothing else. -/
theorem trafficInFlight_modPart (p : Nat) {g : Part → Part} {a b : Part} (hd : b.domain = a.domain) (s : State) :
    trafficInFlight (modPart p g s) p b = trafficInFlight s p a := by
  have holds (k : Nat) : siteHolder (modPart p g s) k = siteHolder s k := by
    unfold siteHolder holder
    rw [getFld_congr ((modPart_keeps p g s).only .fld rfl)]
  unfold trafficInFlight inMesh partOutstanding
  rw [hd, (modPart_keeps p g s).only .mesh rfl, (modPart_keeps p g s).only .fabric rfl, (modPart_keeps p g s).only .tiles rfl]
  simp only [holds]

end

/-! ## The timer -/

/-- What the hang check finds at a partition that runs a section (R227). -/
def HangQuiet (s : State) (p : Nat) (a : Part) (c : Current) : Prop :=
  setting s 0x2C00 2 = 1 ∧ (∀ j ∈ sitesOf a c.sec, j ∈ a.still) ∧ trafficInFlight s p a = false

theorem hangCheck_of_current {p : Nat} {s : State} {a : Part} {c : Current} (ha : getPart s p = some a) (hc : a.current = some c) :
    hangCheck p s = if setting s 0x2C00 2 = 1 && (sitesOf a c.sec).all (fun k => a.still.contains k) && !trafficInFlight s p a then
      (if a.hangTimer.isSome then s else modPart p (fun a => { a with hangTimer := some (now s) }) s)
    else modPart p (fun a => { a with hangTimer := none }) s := by
  unfold hangCheck
  rw [ha]
  dsimp only
  rw [hc]

theorem hangQuiet_iff (s : State) (p : Nat) (a : Part) (c : Current) :
    (setting s 0x2C00 2 = 1 && (sitesOf a c.sec).all (fun k => a.still.contains k) && !trafficInFlight s p a) = true ↔ HangQuiet s p a c := by
  unfold HangQuiet
  simp only [Bool.and_eq_true, decide_eq_true_eq, List.all_eq_true, List.contains_iff_mem, Bool.not_eq_true', and_assoc]

section
variable {p : Nat} {s : State} {a : Part} {c : Current}

theorem getPart_hangCheck_quiet (ha : getPart s p = some a) (hc : a.current = some c) (quiet : HangQuiet s p a c) :
    getPart (hangCheck p s) p = some { a with hangTimer := some (a.hangTimer.getD (now s)) } := by
  rw [hangCheck_of_current ha hc, if_pos ((hangQuiet_iff ..).mpr quiet)]
  cases timer : a.hangTimer with
  | none =>
    rw [if_neg (by simp), getPart_modPart, if_pos rfl, ha]
    rfl
  | some t =>
    rw [if_pos (by rfl), ha, Option.getD_some, ← timer]

theorem getPart_hangCheck_busy (ha : getPart s p = some a) (hc : a.current = some c) (busy : ¬HangQuiet s p a c) :
    getPart (hangCheck p s) p = some { a with hangTimer := none } := by
  rw [hangCheck_of_current ha hc, if_neg (fun h => busy ((hangQuiet_iff ..).mp h)), getPart_modPart, if_pos rfl, ha]
  rfl

theorem getPart_hangCheck_other (p : Nat) {q : Nat} (hq : q ≠ p) (s : State) : getPart (hangCheck p s) q = getPart s q := by
  have other (g : Part → Part) : getPart (modPart p g s) q = getPart s q := by rw [getPart_modPart, if_neg hq]
  cases ha : getPart s p with
  | none =>
    unfold hangCheck
    rw [ha]
  | some a =>
    cases hc : a.current with
    | none =>
      unfold hangCheck
      rw [ha]
      dsimp only
      rw [hc]
    | some c =>
      rw [hangCheck_of_current ha hc]
      split
      · split
        · rfl
        · exact other _
      · exact other _

end

/-! ## STILL and MOVING -/

section
variable {h : Head} {s : State}

theorem exec_crestStill_taken (hx : h.dst.x = ringXY) (ht : fromTile h = true) (seq : Nat) : exec (.crestStill h seq) s =
    .next (tileRests (siteKey h.src.x h.src.y) (crossed h true 6 s)) := by
  refine congrArg Host.Outcome.next ((arriveCtl_taken 6 _ (.inl hx)).trans ?_)
  rw [ht]
  rfl

theorem exec_crestMoving_taken (hx : h.dst.x = ringXY) (ht : fromTile h = true) (seq : Nat) : exec (.crestMoving h seq) s =
    .next (tileMoves (siteKey h.src.x h.src.y) (crossed h true 6 s)) := by
  refine congrArg Host.Outcome.next ((arriveCtl_taken 6 _ (.inl hx)).trans ?_)
  rw [ht]
  rfl

/-- A partition with one more still tile. -/
def stillJoined (k : Nat) (a : Part) : Part := { a with still := if a.still.contains k then a.still else a.still ++ [k] }

theorem tileRests_running {k p : Nat} {u : State} {a : Part} {c : Current} {r : Section} (hr : running u k = some (p, a, c, r)) :
    tileRests k u = if r.sites.contains k && tileStill u r k then hangCheck p (modPart p (stillJoined k) u) else u := by
  unfold tileRests
  rw [hr]
  rfl

theorem tileRests_idle {k : Nat} {u : State} (hr : running u k = none) : tileRests k u = u := by
  unfold tileRests
  rw [hr]

section
variable {k p : Nat} {u : State} {a : Part} {c : Current} {r : Section} (cr : Crossed s u) (hr : running s k = some (p, a, c, r))
include cr hr

theorem tileRests_moves (hm : k ∉ r.sites ∨ tileStill s r k = false) : tileRests k u = u := by
  rw [tileRests_running ((cr.running k).trans hr), if_neg]
  rw [cr.tileStill, Bool.and_eq_true, List.contains_iff_mem]
  rintro ⟨mem, still⟩
  obtain away | moving := hm
  · exact away mem
  · exact absurd (still.symm.trans moving) (by decide)

section
variable (hk : k ∈ r.sites) (hs : tileStill s r k = true)
include hk hs

theorem tileRests_joins : tileRests k u = hangCheck p (modPart p (stillJoined k) u) := by
  rw [tileRests_running ((cr.running k).trans hr), if_pos]
  rw [cr.tileStill, hs, Bool.and_true, List.contains_iff_mem]
  exact hk

omit hk hs in
theorem getPart_joined : getPart (modPart p (stillJoined k) u) p = some (stillJoined k a) := by
  rw [getPart_modPart, if_pos rfl, cr.getPart, (runs_of_running hr).part]
  rfl

omit hr hk hs in
theorem hangQuiet_joined_iff : HangQuiet (modPart p (stillJoined k) u) p (stillJoined k a) c ↔
    setting s 0x2C00 2 = 1 ∧ (∀ j ∈ sitesOf a c.sec, j ∈ (stillJoined k a).still) ∧ trafficInFlight u p a = false := by
  unfold HangQuiet
  rw [trafficInFlight_modPart p (a := a) (b := stillJoined k a) rfl, setting_congr ((modPart_keeps ..).only .regs rfl), cr.setting]
  rfl

theorem getPart_tileRests_other {q : Nat} (hq : q ≠ p) : getPart (tileRests k u) q = getPart s q := by
  rw [tileRests_joins cr hr hk hs, getPart_hangCheck_other p hq, getPart_modPart, if_neg hq, cr.getPart]

theorem getPart_tileRests_quiet (quiet : setting s 0x2C00 2 = 1 ∧ (∀ j ∈ sitesOf a c.sec, j ∈ (stillJoined k a).still) ∧
    trafficInFlight u p a = false) :
    getPart (tileRests k u) p = some { stillJoined k a with hangTimer := some (a.hangTimer.getD (now s)) } := by
  rw [tileRests_joins cr hr hk hs, getPart_hangCheck_quiet (getPart_joined cr hr) (runs_of_running hr).current
    ((hangQuiet_joined_iff cr).mpr quiet), now_modPart, cr.now]
  rfl

theorem getPart_tileRests_busy (busy : ¬(setting s 0x2C00 2 = 1 ∧ (∀ j ∈ sitesOf a c.sec, j ∈ (stillJoined k a).still) ∧
    trafficInFlight u p a = false)) : getPart (tileRests k u) p = some { stillJoined k a with hangTimer := none } := by
  rw [tileRests_joins cr hr hk hs]
  exact getPart_hangCheck_busy (getPart_joined cr hr) (runs_of_running hr).current fun quiet => busy ((hangQuiet_joined_iff cr).mp quiet)

end

end

theorem tileMoves_held {k p : Nat} {u : State} (hh : siteHolder u k = some p) : tileMoves k u = modPart p (fun (a : Part) =>
    { a with still := a.still.filter (fun j => j != k), hangTimer := if a.current.isSome then none else a.hangTimer }) u := by
  unfold tileMoves
  rw [hh]

theorem tileMoves_free {k : Nat} {u : State} (hh : siteHolder u k = none) : tileMoves k u = u := by
  unfold tileMoves
  rw [hh]

theorem crest_discarded (hd : h.dst.x = ringXY ∨ delivers s h = true) (ht : fromTile h = false) {i : Instr} {seq : Nat}
    (hi : i = .crestStill h seq ∨ i = .crestMoving h seq) :
    Completes i s (fun t => t.parts = s.parts ∧ Raised { evCell s 0x115 1 h.src 0 with domain := h.domain } s t) := by
  have cr := crossed_crossed h true 6 s
  have discarded (act : State → State) : arriveCtl h 6 (fun s => if fromTile h then act s else crestDiscard h s) s =
      crestDiscard h (crossed h true 6 s) := by
    rw [arriveCtl_taken 6 _ hd, ht]
    rfl
  have done : exec i s = .next (crestDiscard h (crossed h true 6 s)) := by
    obtain rfl | rfl := hi
    · exact congrArg Host.Outcome.next (discarded _)
    · exact congrArg Host.Outcome.next (discarded _)
  refine completes_of_exec done ⟨(raise_parts ..).trans cr.parts, ?_⟩
  unfold crestDiscard
  rw [cr.evCell]
  exact raise_events _ cr.events

theorem crest_untaken (hx : h.dst.x ≠ ringXY) (hd : delivers s h = false) {i : Instr} {seq : Nat}
    (hi : i = .crestStill h seq ∨ i = .crestMoving h seq) :
    Completes i s (fun t => t.parts = s.parts ∧ Raised (refuseEvent (crossed h true 6 s) h) s t) := by
  have refused (act : State → State) := (refused_raises hx hd 6 act).2
  obtain rfl | rfl := hi
  · exact completes_of_exec rfl (refused _)
  · exact completes_of_exec rfl (refused _)

end

/-! ## The hang time -/

theorem advanceTo_hangNames (m : Nat) (s : State) (l : List Nat) : hangNames (advanceTo m s) l = hangNames s l := rfl

theorem advanceTo_setting (m : Nat) (s : State) (index sub : Nat) : setting (advanceTo m s) index sub = setting s index sub := rfl

theorem advanceTo_getPart (m : Nat) (s : State) (p : Nat) : getPart (advanceTo m s) p = getPart s p := rfl

/-- What the object of a hang gets: the tile, the slot and the agent that its event names (R228). -/
def lastHang (n : Nat × Nat × Nat) : Word64 := BitVec.ofNat 64 (siteX n.1 * 2 ^ 48 + siteY n.1 * 2 ^ 32 + n.2.1 * 2 ^ 24 + n.2.2 * 2 ^ 16)

/-- A hang is counted at its partition, and its timer stops (R228). -/
def hangCounted (part : Nat) (n : Nat × Nat × Nat) (s : State) : State :=
  modPart part (fun a => { a with hangs := sat32 (a.hangs + 1), lastHang := lastHang n, hangTimer := none }) s

/-- The event of a hang (R228). -/
def hangEvent (n : Nat × Nat × Nat) (s : State) : EvReq := { evCell s 0x185 1 ⟨siteX n.1, siteY n.1, n.2.1⟩ n.2.2 with unit := n.2.1 }

/-- A hang is counted and reported, and its run aborted (R228). -/
def hangReported (part : Nat) (n : Nat × Nat × Nat) (s : State) : State :=
  abortRun part 0x41 (raise (hangEvent n (hangCounted part n s)) (hangCounted part n s))

/-- Under hang action 1 the partition of an aborted run resets (R436). -/
def hangActed (part : Nat) (s : State) : State := if setting s 0x2A05 (part + 1) = 1 then beginReset part 4 [] false s else s

/-- The end of the hang time at a partition with a section (R228, R436). -/
def hangJudged (part : Nat) (a : Part) (r : Section) (s : State) : State :=
  if setting s 0x2C00 2 ≠ 1 || !(r.sites.all (tileStill s r)) || trafficInFlight s part a then
    modPart part (fun a => { a with hangTimer := none }) s
  else hangActed part (hangReported part (hangNames s r.sites) s)

/-- What the expiry finds of a partition whose hang timer runs. -/
structure HangTimed (part since : Nat) (a : Part) (c : Current) (r : Section) (j : Job) (s : State) : Prop where
  found : getPart s part = some a
  timer : a.hangTimer = some since
  current : a.current = some c
  record : sectionOf a c.sec = some r
  job : a.job = some j

/-- The end of the hang time that a partition's timer measures. -/
def hangDue (since : Nat) (s : State) : Nat := since + setting s 0x2C00 1 * usT

/-- A hang at the end of the hang time (R228). -/
def Hung (s : State) (part : Nat) (a : Part) (r : Section) : Prop :=
  setting s 0x2C00 2 = 1 ∧ (∀ k ∈ r.sites, tileStill s r k = true) ∧ trafficInFlight s part a = false

theorem exec_hangTimerExpire_stopped {part : Nat} {s : State} (hn : (getPart s part).bind Part.hangTimer = none) :
    exec (.hangTimerExpire part) s = .next s := by
  show execHangTimerExpire part s = _
  unfold execHangTimerExpire
  rw [hn]

section
variable {part since : Nat} {s : State} {a : Part} {c : Current} {r : Section} {j : Job} (h : HangTimed part since a c r j s)
include h

theorem exec_hangTimerExpire : exec (.hangTimerExpire part) s = .next (hangJudged part a r (advanceTo (hangDue since s) s)) := by
  have timed : (getPart s part).bind Part.hangTimer = some since := by rw [h.found]; exact h.timer
  have names : (a.current.bind (fun (c : Current) => sectionOf a c.sec)).getD {} = r := by
    rw [h.current, Option.bind_some, h.record, Option.getD_some]
  show execHangTimerExpire part s = _
  unfold execHangTimerExpire
  rw [timed]
  dsimp only
  rw [advanceTo_getPart, h.found]
  dsimp only
  rw [names]
  rfl

omit h in
theorem hung_iff : ¬(setting s 0x2C00 2 ≠ 1 || !(r.sites.all (tileStill s r)) || trafficInFlight s part a) = true ↔ Hung s part a r := by
  unfold Hung
  simp only [Bool.or_eq_true, decide_eq_true_eq, Bool.not_eq_true', not_or, Bool.not_eq_true, Bool.not_eq_false, List.all_eq_true, and_assoc,
    ne_eq, not_not]

omit h in
theorem due_le_now (m : Nat) (s t : State) (ht : t.time = (advanceTo m s).time) : m ≤ now t := by
  have same : now t = now (advanceTo m s) := now_congr (by rw [ht])
  rw [same]
  exact (now_advanceTo m s).1

theorem hangTimer_stops (calm : ¬Hung s part a r) : Completes (.hangTimerExpire part) s (fun t =>
    hangDue since s ≤ now t ∧ getPart t part = some { a with hangTimer := none } ∧ t.events = s.events) := by
  have judged : hangJudged part a r (advanceTo (hangDue since s) s) =
      modPart part (fun a => { a with hangTimer := none }) (advanceTo (hangDue since s) s) := by
    unfold hangJudged
    rw [if_pos]
    by_contra quiet
    exact calm (hung_iff.mp quiet)
  refine completes_of_exec ((exec_hangTimerExpire h).trans (congrArg _ judged)) ⟨?_, ?_, ?_⟩
  · exact due_le_now _ s _ ((modPart_keeps ..).only .time rfl)
  · rw [getPart_modPart, if_pos rfl, advanceTo_getPart, h.found]
    rfl
  · exact ((modPart_keeps ..).only .events rfl).trans (advanceTo_events ..)

end

section
variable {part : Nat} {n : Nat × Nat × Nat} {u : State} {a : Part} (hp : getPart u part = some a)
include hp

theorem hangReported_leaves (hj : a.job.isSome = true) : ∃ b, getPart (hangReported part n u) part = some b ∧ b.hangs = sat32 (a.hangs + 1) ∧
    b.hangTimer = none ∧ b.job = none ∧ b.current = none ∧ b.queue = [] := by
  have counted : getPart (raise (hangEvent n (hangCounted part n u)) (hangCounted part n u)) part =
      some { a with hangs := sat32 (a.hangs + 1), lastHang := lastHang n, hangTimer := none } := by
    rw [getPart_congr (raise_parts ..)]
    unfold hangCounted
    rw [getPart_modPart, if_pos rfl, hp]
    rfl
  obtain ⟨b, hb, current, lasting⟩ := abortRun_leaves counted hj 0x41
  exact ⟨_, hb, (congrArg Part.hangs lasting : b.lasting.hangs = _), rfl, rfl, current, rfl⟩

end

theorem hangReported_reports (part : Nat) (n : Nat × Nat × Nat) (u : State) : ∃ l, (hangReported part n u).events.pending =
    (raise (hangEvent n (hangCounted part n u)) u).events.pending ++ l := by
  obtain ⟨l, hl⟩ := (reports_abortRun part 0x41 (raise (hangEvent n (hangCounted part n u)) (hangCounted part n u))).more
  refine ⟨l, hl.trans ?_⟩
  have kept : (hangCounted part n u).events = u.events := (modPart_keeps ..).only .events rfl
  rw [raise_events _ kept]

theorem hangReported_only (part : Nat) (n : Nat × Nat × Nat) (u : State) :
    Only [.power, .events, .parts, .tiles, .mesh, .crest, .fabric] u (hangReported part n u) := by
  have counted : Only [.events, .parts] u (raise (hangEvent n (hangCounted part n u)) (hangCounted part n u)) :=
    ((modPart_keeps ..).only.mono rfl).trans ((raise_keeps ..).only.mono rfl)
  exact (counted.mono rfl).trans (abortRun_keeps ..).only

theorem hangTimer_reports {part since : Nat} {s : State} {a : Part} {c : Current} {r : Section} {j : Job} (h : HangTimed part since a c r j s)
    (hung : Hung s part a r) (ha : setting s 0x2A05 (part + 1) ≠ 1) :
    Completes (.hangTimerExpire part) s (fun t => hangDue since s ≤ now t ∧
      (∃ b, getPart t part = some b ∧ b.hangs = sat32 (a.hangs + 1) ∧ b.hangTimer = none ∧ b.job = none ∧ b.current = none ∧ b.queue = []) ∧
      ∃ e : EvReq, e.code = 0x185 ∧ e.x = siteX (hangNames s r.sites).1 ∧ e.y = siteY (hangNames s r.sites).1 ∧
        ∃ l, t.events.pending = (raise e s).events.pending ++ l) := by
  have judged : hangJudged part a r (advanceTo (hangDue since s) s) =
      hangReported part (hangNames s r.sites) (advanceTo (hangDue since s) s) := by
    have only := hangReported_only part (hangNames s r.sites) (advanceTo (hangDue since s) s)
    unfold hangJudged
    rw [if_neg ((hung_iff (s := advanceTo (hangDue since s) s)).mpr hung), advanceTo_hangNames]
    unfold hangActed
    rw [setting_congr (only .regs rfl), advanceTo_setting, if_neg ha]
  have only := hangReported_only part (hangNames s r.sites) (advanceTo (hangDue since s) s)
  refine completes_of_exec ((exec_hangTimerExpire h).trans (congrArg _ judged)) ⟨?_, ?_, ?_⟩
  · exact due_le_now _ s _ (only .time rfl)
  · exact hangReported_leaves ((advanceTo_getPart ..).trans h.found) (by rw [h.job]; rfl)
  · obtain ⟨l, hl⟩ := hangReported_reports part (hangNames s r.sites) (advanceTo (hangDue since s) s)
    refine ⟨hangEvent (hangNames s r.sites) (hangCounted part (hangNames s r.sites) (advanceTo (hangDue since s) s)), rfl, rfl, rfl, l,
      hl.trans ?_⟩
    rw [raise_events _ (advanceTo_events ..)]

/-- Settles O52: the reports of the tiles move the timer, and its expiry judges the partition again. -/
theorem stillTilesRunTheHangTimer : Obligations.StillTilesRunTheHangTimer := by
  unfold Obligations.StillTilesRunTheHangTimer
  intro s
  refine ⟨fun h seq hx ht => ?_, fun h seq i hi => ⟨fun hd ht => crest_discarded hd ht hi, fun hx hd => crest_untaken hx hd hi⟩,
    fun part hn => completes_of_exec (exec_hangTimerExpire_stopped hn) rfl, fun part a since c r j ha ht hc hr hj => ?_⟩
  · have cr := crossed_crossed h true 6 s
    have still := exec_crestStill_taken (s := s) hx ht seq
    have moving := exec_crestMoving_taken (s := s) hx ht seq
    refine ⟨fun p a c r hr => ⟨fun hk hs => ⟨fun quiet => ?_, fun busy => ?_⟩, fun hm => ?_⟩, fun hn => ?_, fun p a hh hp => ?_, fun hn => ?_⟩
    · exact completes_of_exec still ⟨getPart_tileRests_quiet cr hr hk hs quiet, fun q hq => getPart_tileRests_other cr hr hk hs hq⟩
    · exact completes_of_exec still ⟨getPart_tileRests_busy cr hr hk hs busy, fun q hq => getPart_tileRests_other cr hr hk hs hq⟩
    · exact completes_of_exec (still.trans (by rw [tileRests_moves cr hr hm])) ⟨rfl, cr.parts⟩
    · exact completes_of_exec (still.trans (by rw [tileRests_idle ((cr.running _).trans hn)])) ⟨rfl, cr.parts⟩
    · refine completes_of_exec (moving.trans (by rw [tileMoves_held ((cr.siteHolder _).trans hh)])) ⟨?_, fun q hq => ?_⟩
      · rw [getPart_modPart, if_pos rfl, cr.getPart, hp]
        rfl
      · rw [getPart_modPart, if_neg hq, cr.getPart]
    · exact completes_of_exec (moving.trans (by rw [tileMoves_free ((cr.siteHolder _).trans hn)])) ⟨rfl, cr.parts⟩
  · have timed : HangTimed part since a c r j s := ⟨ha, ht, hc, hr, hj⟩
    exact ⟨fun calm => hangTimer_stops timed calm, fun hung action => hangTimer_reports timed hung action⟩

end Sys2Proof.Machine
end

section
/-!
PROOF. A port in discovery of a wafer whose group table claims more members than a group has nodes (R38, R242): the notice of its refusal
goes to a node number of the hosts, for which there is no route.
-/

namespace Sys2Proof.Machine

open Sys2Proof

/-- A wafer of the last group, with 33 members by its figures, whose port 0 is in discovery and whose management domain has a send key. -/
def crowdedGroup : State :=
  { State.reset with
    fabric := { State.reset.fabric with node := 12256, groupSize := 33, ports := [(0, { st := .discovery })] }
    sec := { State.reset.sec with slots := [(63, { gens := [(0, 1)], send := some 0 })] } }

/-- A peer that the wiring does not give port 0. -/
def strangePeer : Discovery := ⟨0, 0, 33, 1, false, 0⟩

/-- The state after the refusal of the peer. -/
def afterRefusal : Option State :=
  match exec (.discovery 0 strangePeer) crowdedGroup with
  | .next t => some t
  | _ => none

/-- The notice to member 32 is for node 12,288, a host without a route: event 0x207 comes before that of the refusal (R242, R244, R270). -/
theorem afterRefusal_events : afterRefusal.map (fun t => t.events.pending.map EvReq.code) = some [0x207, 0x202] := by decide +kernel

/-- Refutes O54: in a group of 33 members by the state's figures the refusal of a peer writes a second event. Its LINK_STATE notice to the
33rd member goes to a host's node number, and that packet fails at its source with event 0x207 before event 0x202 is written. -/
theorem not_linksTrainReplayAndRoute : ¬ Obligations.LinksTrainReplayAndRoute := by
  unfold Obligations.LinksTrainReplayAndRoute
  intro claim
  obtain ⟨-, -, met, -⟩ := claim 0 crowdedGroup
  obtain ⟨refused, -⟩ := met strangePeer (by decide +kernel) (.inl (by decide +kernel)) (by decide +kernel) (by decide +kernel)
  obtain ⟨t, step, -, -, raised⟩ := refused (by decide +kernel)
  have reached : afterRefusal = some t := by
    unfold afterRefusal
    rw [step]
  have events := afterRefusal_events
  rw [reached, Option.map_some, show t.events = _ from raised] at events
  exact absurd events (by decide +kernel)

end Sys2Proof.Machine
end

section
/-!
PROOF. The edge ports of the ring switch (R252, R258, R264): a link that takes a packet or not, what the departures of packets leave of
the flows, and where a packet stands once it has been put on a port.
-/

namespace Sys2Proof.Machine

open Sys2Proof

/-! ## What the flows' reads depend on -/

section
variable {s u : State}

theorem getTx_congr (h : u.fabric.tx = s.fabric.tx) (n d : Nat) : getTx u n d = getTx s n d := by
  unfold getTx
  rw [h]

theorem outstandingAt_congr (h : u.fabric.tx = s.fabric.tx) (n d : Nat) (q : BitVec 16) : outstandingAt u n d q = outstandingAt s n d q := by
  unfold outstandingAt
  rw [getTx_congr h]

theorem evPortPkt_congr (h : u.parts = s.parts) (code kind port domain node detail : Nat) :
    evPortPkt u code kind port domain node detail = evPortPkt s code kind port domain node detail := by
  unfold evPortPkt partOfDomain
  rw [h]

theorem slots_congr (h : u.sec = s.sec) (d : Nat) : getSlots u d = getSlots s d := by
  unfold getSlots
  rw [h]

end

/-! ## A link takes a packet -/

section
variable {s : State} {i : Nat}

theorem linkTake_down (h : portUp s i = false) (account size : Nat) (hop : BitVec 16) (good : Bool) (act : State → State) :
    linkTake i account size hop good act s = s := by
  unfold linkTake
  rw [h]
  rfl

theorem linkTake_good {hop : BitVec 16} {good : Bool} (h : portUp s i = true) (hg : hopGood s i hop good = true) (account size : Nat)
    (act : State → State) : linkTake i account size hop good act s = act (received i account size s) := by
  unfold linkTake
  rw [h, hg]
  rfl

/-- A bad packet draws a NAK where none has been sent since the last good one (R264). -/
theorem linkTake_bad {hop : BitVec 16} {good : Bool} (h : portUp s i = true) (hg : hopGood s i hop good = false)
    (hn : (getPort s i).nakSent = false) (account size : Nat) (act : State → State) : Nak i s (linkTake i account size hop good act s) := by
  have up : (getPort s i).st = .up := eq_of_beq h
  have bad : linkTake i account size hop good act s = sendBlock i true (modPort i (fun p => { p with nakSent := true }) s) := by
    unfold linkTake hopBad
    rw [h, hg, hn]
    rfl
  have marked : getPort (modPort i (fun p => { p with nakSent := true }) s) i = { getPort s i with nakSent := true } := by
    rw [getPort_modPort, if_pos rfl]
  rw [bad]
  unfold sendBlock
  dsimp only
  rw [marked, if_pos up]
  exact ⟨marked, rfl, rfl⟩

end

/-! ## Departures -/

theorem drainN_rx (i n : Nat) (s : State) : (drainN i n s).fabric.rx = s.fabric.rx := by
  induction n generalizing s with
  | zero => rfl
  | succ n ih =>
    unfold drainN
    split
    · rfl
    · exact (ih _).trans rfl

theorem putOnPort_rx (i : Nat) (w : WirePkt) (s : State) : (putOnPort i w s).fabric.rx = s.fabric.rx := by
  unfold putOnPort drainPort
  split
  · exact (drainN_rx ..).trans rfl
  · rfl

theorem sendUnseq_rx (node domain opcode : Nat) (data : List Byte) (alt : Nat × Nat) (s : State) :
    (sendUnseq node domain opcode data alt s).fabric.rx = s.fabric.rx := by
  unfold sendUnseq
  dsimp only
  split
  · exact congrArg FabricS.rx (raise_fabric ..)
  · split
    · rfl
    · exact (putOnPort_rx ..).trans rfl

/-- A packet but for what each hop writes anew (R247). -/
def hopless (w : WirePkt) : WirePkt := { w with hopSeq := 0, heldAt := none }

/-- A port has a packet in its output queue or its replay buffer. -/
def AtPort (i : Nat) (w : WirePkt) (s : State) : Prop := ∃ v ∈ (getPort s i).queue ++ (getPort s i).replay, hopless v = hopless w

theorem getPort_startPacket (i : Nat) (w : WirePkt) (s : State) :
    (getPort (startPacket i w s) i).queue = (getPort s i).queue.erase w ∧
    (getPort (startPacket i w s) i).replay = (getPort s i).replay ++ [{ w with hopSeq := (getPort s i).txSeq, heldAt := none }] := by
  have started (a n : Nat) (l : List (Nat × WirePkt)) (g : Port → Port) :
      getPort { ringCount a n (modPort i g s) with fabric := { (ringCount a n (modPort i g s)).fabric with wire := l } } i =
        g (getPort s i) := (getPort_modPort ..).trans (if_pos rfl)
  unfold startPacket
  dsimp only
  rw [started]
  exact ⟨rfl, rfl⟩

theorem atPort_startPacket {i : Nat} {w : WirePkt} {s : State} (h : AtPort i w s) (x : WirePkt) : AtPort i w (startPacket i x s) := by
  obtain ⟨queue, replay⟩ := getPort_startPacket i x s
  obtain ⟨v, mem, same⟩ := h
  unfold AtPort
  rw [queue, replay]
  obtain waits | left := List.mem_append.mp mem
  · by_cases hv : v = x
    · subst hv
      exact ⟨_, List.mem_append_right _ (List.mem_append_right _ (List.mem_singleton_self _)), same⟩
    · exact ⟨v, List.mem_append_left _ ((List.mem_erase_of_ne hv).mpr waits), same⟩
  · exact ⟨v, List.mem_append_right _ (List.mem_append_left _ left), same⟩

theorem atPort_drainN {i : Nat} {w : WirePkt} (n : Nat) {s : State} (h : AtPort i w s) : AtPort i w (drainN i n s) := by
  induction n generalizing s with
  | zero => exact h
  | succ n ih =>
    unfold drainN
    split
    · exact h
    · exact ih (atPort_startPacket h _)

theorem atPort_putOnPort (i : Nat) (w : WirePkt) (s : State) : AtPort i w (putOnPort i w s) := by
  have queued (a n : Nat) : AtPort i w (ringCount a n (modPort i (fun p => { p with queue := p.queue ++ [w] }) s)) := by
    refine ⟨w, List.mem_append_left _ ?_, rfl⟩
    have port : getPort (ringCount a n (modPort i (fun p => { p with queue := p.queue ++ [w] }) s)) i =
        { getPort s i with queue := (getPort s i).queue ++ [w] } := (getPort_modPort ..).trans (if_pos rfl)
    rw [port]
    exact List.mem_append_right _ (List.mem_singleton_self _)
  unfold putOnPort drainPort
  split
  · exact atPort_drainN _ (queued ..)
  · exact queued ..

theorem putOnPort_events (i : Nat) (w : WirePkt) (s : State) : (putOnPort i w s).events = s.events := (putOnPort_keeps i w s).only .events rfl

theorem putOnPort_outstanding (i : Nat) (w : WirePkt) (s : State) (x : Nat) :
    (getPort (putOnPort i w s) x).outstanding = (getPort s x).outstanding :=
  congrArg (fun l : PortState × Word32 × Nat × Nat × Nat × Nat => l.2.2.2.2.2) ((accepted_putOnPort i w s).line x)

theorem noteTraffic_fabric (d : Nat) (s : State) : (noteTraffic d s).fabric = s.fabric := (noteTraffic_keeps d s).only .fabric rfl

/-! ## The reorder stage -/

/-- What the reorder stage leaves of a flow's receiving end: the closed numbers stay closed, and a number that is neither held nor passed
on yet is not passed on (R260, R262). -/
structure Stepped (n : Nat) (r r' : FlowRx) : Prop where
  closed : r'.closed = r.closed
  passed : ∃ l, r'.passed = r.passed ++ l ∧ n ∉ l
  held : ∀ h ∈ r'.held, h ∈ r.held

theorem Stepped.refl (n : Nat) (r : FlowRx) : Stepped n r r := ⟨rfl, ⟨[], (List.append_nil _).symm, List.not_mem_nil⟩, fun _ h => h⟩

theorem Stepped.trans {n : Nat} {a b c : FlowRx} (x : Stepped n a b) (y : Stepped n b c) : Stepped n a c := by
  obtain ⟨xc, ⟨l, xp, xl⟩, xh⟩ := x
  obtain ⟨yc, ⟨m, yp, ym⟩, yh⟩ := y
  refine ⟨yc.trans xc, ⟨l ++ m, by rw [yp, xp, List.append_assoc], fun h => ?_⟩, fun h hh => xh h (yh h hh)⟩
  obtain h | h := List.mem_append.mp h
  · exact xl h
  · exact ym h

theorem stepped_advanceRx (node domain : Nat) {n : Nat} (k : Nat) {s : State} (h : ∀ e ∈ (getRx s node domain).held, e.1 ≠ n) :
    Stepped n (getRx s node domain) (getRx (advanceRx node domain k s) node domain) := by
  induction k generalizing s with
  | zero => exact .refl ..
  | succ k ih =>
    unfold advanceRx
    dsimp only
    split
    · refine Stepped.trans ?_ (ih ?_)
      · rw [getRx_modRx_self]
        exact ⟨rfl, ⟨[], (List.append_nil _).symm, List.not_mem_nil⟩, fun _ h => h⟩
      · rw [getRx_modRx_self]
        exact h
    · split
      · exact .refl ..
      · next q i found =>
        have moved (l : List Instr) (g : FlowRx → FlowRx) :
            getRx { modRx node domain g s with fabric := { (modRx node domain g s).fabric with released := l } } node domain =
              g (getRx s node domain) := getRx_modRx_self ..
        refine Stepped.trans ?_ (ih ?_)
        · rw [moved]
          refine ⟨rfl, ⟨[q], rfl, fun hn => ?_⟩, fun e he => (List.mem_filter.mp he).1⟩
          exact h (q, i) (List.mem_of_find?_eq_some found) (List.mem_singleton.mp hn).symm
        · rw [moved]
          exact fun e he => h e (List.mem_filter.mp he).1

end Sys2Proof.Machine
end

section
/-!
PROOF. The packet flows at their source (R258 to R263, R267, R269): the departure of a packet, its resolution, and its retransmission.
-/

namespace Sys2Proof.Machine

open Sys2Proof

/-! ## PACKET_SEND -/

section
variable {dst domain : Nat} {q : Packet} {rest : List Packet} {s : State} (hw : (getTx s dst domain).waiting = q :: rest)
include hw

theorem exec_packetSend_keyed {slot gen : Nat} (hk : sendSlot s domain = some (slot, gen)) : exec (.packetSend dst domain) s = .next (
    if (getTx s dst domain).credits = 0 || (getSlots s domain).draining then s
    else if (getTx s dst domain).next ≥ seqLimit then
      if (getTx s dst domain).exhaustedNoted then s
      else raise (evPortPkt s 0x209 1 0xFF domain dst (getTx s dst domain).next)
        (modTx dst domain (fun f => { f with exhaustedNoted := true }) s)
    else (choosePath s (nodeId s) (getTx s dst domain).next dst).elim s (fun e =>
      if (getPort s e.1).outstanding ≥ 4096 then s else launchPacket dst domain q slot gen e.1 e.2 s)) := by
  show execPacketSend dst domain s = _
  unfold execPacketSend
  dsimp only
  rw [hw, List.head?_cons]
  dsimp only
  rw [hk]
  dsimp only
  cases choosePath s (nodeId s) (getTx s dst domain).next dst with
  | none => rfl
  | some e => rfl

theorem exec_packetSend_keyless (hk : sendSlot s domain = none) : exec (.packetSend dst domain) s = .next (refuseWaiting dst domain q s) := by
  show execPacketSend dst domain s = _
  unfold execPacketSend
  dsimp only
  rw [hw, List.head?_cons]
  dsimp only
  rw [hk]

end

theorem exec_packetSend_empty {dst domain : Nat} {s : State} (hw : (getTx s dst domain).waiting = []) :
    exec (.packetSend dst domain) s = .next s := by
  show execPacketSend dst domain s = _
  unfold execPacketSend
  dsimp only
  rw [hw]
  rfl

/-- The oldest waiting packet of a flow as it leaves: the flow's next number, sealed (R258, R267). -/
def launched (dst domain : Nat) (q : Packet) (slot gen : Nat) (nm : Bool) (s : State) : WirePkt :=
  sealPkt (slotKey s domain slot) (getTx s dst domain).next false
    { pkt := q, src := nodeId s, slot := slot, gen := gen, seq := BitVec.ofNat 16 (getTx s dst domain).next
      vc := if wireBytes q.data.length = 64 then 0 else 1, hops := 1, nonMin := nm, size := wireBytes q.data.length, len := q.data.length }

theorem hopless_launched (dst domain : Nat) (q : Packet) (slot gen : Nat) (nm : Bool) (s : State) :
    hopless (launched dst domain q slot gen nm s) = launched dst domain q slot gen nm s := rfl

/-- A flow that has taken a credit and a record for its oldest waiting packet (R258, R259). -/
def flowLaunched (i : Nat) (w : WirePkt) (f : FlowTx) : FlowTx :=
  { f with next := f.next + 1, credits := f.credits - 1, waiting := f.waiting.drop 1
           out := f.out ++ [{ seq := f.next, wire := w, port := i, last := i }] }

/-- The flow and its port's record before the packet goes on the port (R259). -/
def launchNoted (dst domain i : Nat) (w : WirePkt) (s : State) : State :=
  modPort i (fun p => { p with outstanding := p.outstanding + 1 }) (modTx dst domain (fun f =>
    { f with next := (getTx s dst domain).next + 1, credits := f.credits - 1, waiting := f.waiting.drop 1
             out := f.out ++ [{ seq := (getTx s dst domain).next, wire := w, port := i, last := i }] }) s)

theorem getTx_launchNoted (dst domain i : Nat) (w : WirePkt) (s : State) :
    getTx (launchNoted dst domain i w s) dst domain = flowLaunched i w (getTx s dst domain) := by
  unfold launchNoted
  rw [getTx_modPort, getTx_modTx_self]
  rfl

theorem launchPacket_eq (dst domain : Nat) (q : Packet) (slot gen i : Nat) (nm : Bool) (s : State) :
    launchPacket dst domain q slot gen i nm s = noteTraffic q.domain (putOnPort i (launched dst domain q slot gen nm s)
      (launchNoted dst domain i (launched dst domain q slot gen nm s) s)) := rfl

theorem getPort_launchNoted (dst domain i : Nat) (w : WirePkt) (s : State) :
    getPort (launchNoted dst domain i w s) i = { getPort s i with outstanding := (getPort s i).outstanding + 1 } :=
  (getPort_modPort ..).trans (if_pos rfl)

theorem atPort_congr {i : Nat} {w : WirePkt} {s t : State} (h : t.fabric.ports = s.fabric.ports) : AtPort i w t ↔ AtPort i w s := by
  unfold AtPort getPort
  rw [h]

theorem launchPacket_launches {dst domain : Nat} {q : Packet} {rest : List Packet} {s : State}
    (hw : (getTx s dst domain).waiting = q :: rest) (slot gen i : Nat) (nm : Bool) :
    let t := launchPacket dst domain q slot gen i nm s
    let w := launched dst domain q slot gen nm s
    getTx t dst domain = { getTx s dst domain with
      next := (getTx s dst domain).next + 1, credits := (getTx s dst domain).credits - 1, waiting := rest
      out := (getTx s dst domain).out ++ [{ seq := (getTx s dst domain).next, wire := w, port := i, last := i }] } ∧
    (getPort t i).outstanding = (getPort s i).outstanding + 1 ∧
    (∃ v ∈ (getPort t i).queue ++ (getPort t i).replay, hopless v = w) ∧ t.events = s.events := by
  dsimp only
  rw [launchPacket_eq]
  generalize hl : launched dst domain q slot gen nm s = w
  have same := noteTraffic_fabric q.domain (putOnPort i w (launchNoted dst domain i w s))
  have ports : (noteTraffic q.domain (putOnPort i w (launchNoted dst domain i w s))).fabric.ports =
      (putOnPort i w (launchNoted dst domain i w s)).fabric.ports := congrArg FabricS.ports same
  have port (x : Nat) : getPort (noteTraffic q.domain (putOnPort i w (launchNoted dst domain i w s))) x =
      getPort (putOnPort i w (launchNoted dst domain i w s)) x := by unfold getPort; rw [ports]
  refine ⟨?_, ?_, ?_, ?_⟩
  · rw [getTx_congr ((congrArg FabricS.tx same).trans (accepted_putOnPort i w _).tx)]
    rw [getTx_launchNoted]
    unfold flowLaunched
    rw [hw, List.drop_one, List.tail_cons]
  · rw [port, putOnPort_outstanding, getPort_launchNoted]
  · obtain ⟨v, mem, hv⟩ := (atPort_congr ports).mpr (atPort_putOnPort i w (launchNoted dst domain i w s))
    refine ⟨v, mem, hv.trans ?_⟩
    rw [← hl, hopless_launched]
  · rw [(noteTraffic_keeps ..).only .events rfl, putOnPort_events]
    rfl

theorem memLost_of_opcode {q : Packet} (h : q.opcode = 0 ∨ 6 < q.opcode) (refused : Bool) (s : State) : memLost q refused s = s := by
  unfold memLost
  rw [if_neg]
  rw [Bool.and_eq_true, decide_eq_true_eq, decide_eq_true_eq]
  omega

/-- A waiting packet that has been taken out and counted as refused at its source (R269). -/
def sourceRefused (dst domain : Nat) (s : State) : State :=
  { modTx dst domain (fun f => { f with waiting := f.waiting.drop 1 }) s with fabric := {
    (modTx dst domain (fun f => { f with waiting := f.waiting.drop 1 }) s).fabric with
      refusedAtSource := s.fabric.refusedAtSource + 1, failedPkts := s.fabric.failedPkts + 1 } }

theorem getTx_sourceRefused (dst domain : Nat) (s : State) :
    getTx (sourceRefused dst domain s) dst domain = { getTx s dst domain with waiting := (getTx s dst domain).waiting.drop 1 } := by
  have taken : (sourceRefused dst domain s).fabric.tx = (modTx dst domain (fun f => { f with waiting := f.waiting.drop 1 }) s).fabric.tx := rfl
  rw [getTx_congr taken, getTx_modTx_self]

theorem refuseWaiting_refuses {dst domain : Nat} {q : Packet} {rest : List Packet} {s : State}
    (hw : (getTx s dst domain).waiting = q :: rest) (hp : q.part = none) (ho : q.opcode = 0 ∨ 6 < q.opcode) :
    let t := refuseWaiting dst domain q s
    getTx t dst domain = { getTx s dst domain with waiting := rest } ∧ t.fabric.refusedAtSource = s.fabric.refusedAtSource + 1 ∧
    t.fabric.failedPkts = s.fabric.failedPkts + 1 ∧
    ∃ e : EvReq, e.code = 0x207 ∧ e.domain = q.domain ∧ e.node = q.dst ∧ Raised e s t := by
  have refused : refuseWaiting dst domain q s =
      raise ⟨0x207, 2, 7, q.part.getD 0xFF, 0xFFFF, 0xFFFF, 0xFF, q.domain, q.dst, 0, false⟩ (sourceRefused dst domain s) := by
    unfold refuseWaiting
    dsimp only
    rw [memLost_of_opcode ho, hp]
    rfl
  dsimp only
  rw [refused]
  refine ⟨?_, ?_, ?_, _, rfl, rfl, rfl, raise_events _ rfl⟩
  · rw [getTx_congr (congrArg FabricS.tx (raise_fabric ..)), getTx_sourceRefused, hw, List.drop_one, List.tail_cons]
  · rw [raise_fabric]
    rfl
  · rw [raise_fabric]
    rfl

/-! ## Resolution -/

/-- A flow with a packet resolved: its record and credit are released and one report is counted (R259, R263). -/
def flowResolved (seq : Nat) (how : Resolved) (f : FlowTx) : FlowTx :=
  { f with out := f.out.eraseP (fun x => x.seq == seq), credits := f.credits + 1
           delivered := f.delivered + (if how = .delivered then 1 else 0)
           refused := f.refused + (if how = .refused then 1 else 0)
           failed := f.failed + (if how = .failed then 1 else 0) }

/-- An outstanding packet resolved at its flow and at its port's record. -/
def recordFreed (dst domain : Nat) (o : Outst) (how : Resolved) (s : State) : State :=
  modPort o.port (fun p => { p with outstanding := p.outstanding - 1 }) (modTx dst domain (flowResolved o.seq how) s)

/-- An outstanding packet resolved, and counted where it has failed (R259, R263). -/
def resolvedOut (dst domain : Nat) (o : Outst) (how : Resolved) (s : State) : State :=
  if how = .failed then { recordFreed dst domain o how s with fabric := {
    (recordFreed dst domain o how s).fabric with failedPkts := (recordFreed dst domain o how s).fabric.failedPkts + 1 } }
  else recordFreed dst domain o how s

section
variable (dst domain : Nat) (o : Outst) (how : Resolved) (s : State)

theorem resolvedOut_tx : (resolvedOut dst domain o how s).fabric.tx = (modTx dst domain (flowResolved o.seq how) s).fabric.tx := by
  unfold resolvedOut
  split
  · rfl
  · rfl

theorem getTx_resolvedOut : getTx (resolvedOut dst domain o how s) dst domain = flowResolved o.seq how (getTx s dst domain) := by
  rw [getTx_congr (resolvedOut_tx ..), getTx_modTx_self]

theorem getPort_recordFreed : getPort (recordFreed dst domain o how s) o.port =
    { getPort s o.port with outstanding := (getPort s o.port).outstanding - 1 } := (getPort_modPort ..).trans (if_pos rfl)

theorem resolvedOut_ports : (resolvedOut dst domain o how s).fabric.ports = (recordFreed dst domain o how s).fabric.ports := by
  unfold resolvedOut
  split
  · rfl
  · rfl

theorem resolvedOut_outstanding : (getPort (resolvedOut dst domain o how s) o.port).outstanding = (getPort s o.port).outstanding - 1 := by
  have port : getPort (resolvedOut dst domain o how s) o.port = getPort (recordFreed dst domain o how s) o.port := by
    unfold getPort
    rw [resolvedOut_ports]
  rw [port, getPort_recordFreed]

theorem resolvedOut_failedPkts : (resolvedOut dst domain o how s).fabric.failedPkts = s.fabric.failedPkts + (if how = .failed then 1 else 0) := by
  unfold resolvedOut
  split
  · rfl
  · rfl

theorem resolvedOut_events : (resolvedOut dst domain o how s).events = s.events := by
  unfold resolvedOut
  split
  · rfl
  · rfl

end

section
variable {dst domain : Nat} {q : BitVec 16} {s : State} {o : Outst} (found : outstandingAt s dst domain q = some o)
include found

/-- The packet that a 16-bit number names is the first with its own number. -/
theorem outstandingAt_first : (getTx s dst domain).out.find? (fun x => x.seq == o.seq) = some o := by
  obtain ⟨named, before, after, split, earlier⟩ := List.find?_eq_some_iff_append.mp found
  refine List.find?_eq_some_iff_append.mpr ⟨beq_self_eq_true _, before, after, split, fun x hx => ?_⟩
  have other := earlier x hx
  by_contra same
  rw [Bool.not_eq_true', Bool.not_eq_false, beq_iff_eq] at same
  rw [same, named] at other
  exact absurd other (by decide)

theorem resolveOut_eq (how : Resolved) : resolveOut dst domain o.seq how s = resolvedOut dst domain o how s := by
  unfold resolveOut
  dsimp only
  rw [outstandingAt_first found]
  rfl

theorem resolveSeq_eq (hp : o.wire.pkt.part = none) {how : Resolved} (ho : how = .delivered ∨ o.wire.pkt.opcode = 0 ∨ 6 < o.wire.pkt.opcode)
    (hd : (getSlots s domain).draining = false) : resolveSeq dst domain q how s = resolvedOut dst domain o how s := by
  have lost (u : State) : (if how = .delivered then u else memLost o.wire.pkt (how == .refused) u) = u := by
    split
    · rfl
    · next other => exact memLost_of_opcode (ho.resolve_left other) ..
  have resolved : resolvePkt dst domain o.seq how s = resolveOut dst domain o.seq how s := by
    unfold resolvePkt
    rw [outstandingAt_first found]
    dsimp only
    rw [lost, hp]
  unfold resolveSeq
  rw [found]
  dsimp only
  rw [resolved]
  unfold restartFlows
  rw [if_neg, resolveOut_eq found]
  rw [slots_congr ((resolveOut_keeps ..).only .sec rfl), hd]
  exact fun h => absurd h.1 (by decide)

end

theorem resolveSeq_unknown {dst domain : Nat} {q : BitVec 16} {s : State} (h : outstandingAt s dst domain q = none) (how : Resolved) :
    resolveSeq dst domain q how s = s := by
  unfold resolveSeq
  rw [h]

/-! ## RETRANSMIT_TIMEOUT -/

/-- The marked records of a flow's number (R261, R262). -/
def markOut (dst domain seq : Nat) (g : Outst → Outst) (s : State) : State :=
  modTx dst domain (fun (f : FlowTx) => { f with out := f.out.map (fun x => if x.seq = seq then g x else x) }) s

theorem getTx_markOut (dst domain seq : Nat) (g : Outst → Outst) (s : State) : getTx (markOut dst domain seq g s) dst domain =
    { getTx s dst domain with out := (getTx s dst domain).out.map (fun x => if x.seq = seq then g x else x) } := getTx_modTx_self ..

section
variable {dst domain seq : Nat} {s : State}

theorem exec_retransmitTimeout {o : Outst} (ho : (getTx s dst domain).out.find? (fun o => o.seq == seq) = some o) :
    exec (.retransmitTimeout dst domain seq) s = .next (if o.skipping ∨ o.tries ≥ setting s 0x2600 6 then
        sendSkip dst domain o (markOut dst domain seq (fun x => { x with skipping := true }) s)
      else resend o (markOut dst domain seq (fun x => { x with tries := x.tries + 1 }) s)) := by
  show execRetransmitTimeout dst domain seq s = _
  unfold execRetransmitTimeout
  rw [ho]
  rfl

theorem exec_retransmitTimeout_unknown (ho : (getTx s dst domain).out.find? (fun o => o.seq == seq) = none) :
    exec (.retransmitTimeout dst domain seq) s = .next s := by
  show execRetransmitTimeout dst domain seq s = _
  unfold execRetransmitTimeout
  rw [ho]

/-- The numbers of a flow's outstanding packets with what has been tried. -/
def triesOf (f : FlowTx) : List (Nat × Nat) := f.out.map (fun x => (x.seq, x.tries))

theorem triesOf_leftBy (i n d : Nat) (r : BitVec 16) (s : State) : triesOf (getTx (leftBy i n d r s) dst domain) = triesOf (getTx s dst domain) := by
  unfold leftBy
  rw [getTx_modTx]
  split
  · next key =>
    have same : getTx s n d = getTx s dst domain := by
      unfold getTx
      rw [key]
    unfold triesOf
    rw [same, List.map_map]
    refine List.map_congr_left fun x _ => ?_
    dsimp only [Function.comp_apply]
    split <;> rfl
  · rfl

theorem triesOf_resend (o : Outst) (s : State) : triesOf (getTx (resend o s) dst domain) = triesOf (getTx s dst domain) := by
  unfold resend
  split
  · rfl
  · rw [getTx_congr (accepted_putOnPort ..).tx, triesOf_leftBy]

theorem triesOf_retried (s : State) : triesOf (getTx (markOut dst domain seq (fun x => { x with tries := x.tries + 1 }) s) dst domain) =
    (getTx s dst domain).out.map (fun x => (x.seq, if x.seq = seq then x.tries + 1 else x.tries)) := by
  rw [getTx_markOut]
  unfold triesOf
  rw [List.map_map]
  refine List.map_congr_left fun x _ => ?_
  dsimp only [Function.comp_apply]
  split <;> rfl

theorem getTx_sendSkip (n d : Nat) (o : Outst) (s : State) : getTx (sendSkip n d o s) dst domain = getTx s dst domain :=
  getTx_congr (accepted_sendUnseq ..).tx ..

end

end Sys2Proof.Machine
end

section
/-!
PROOF. The answers about flows (R258 to R263, R269) and the link and maintenance commands (R242, R272).
-/

namespace Sys2Proof.Machine

open Sys2Proof

/-! ## Packets without a flow number -/

/-- E2E_ACK, SKIP and SKIP_ANSWER of a peer. -/
def Unsequenced (p : Pkt) (i : Instr) : Prop :=
  (∃ base d r, i = .e2eAck p base d r) ∨ (∃ seq, i = .skipQuery p seq) ∨ (∃ seq st c, i = .skipAnswer p seq st c)

theorem exec_unsequenced {p : Pkt} {i : Instr} (hi : Unsequenced p i) (s : State) :
    ∃ account act, exec i s = .next (linkTake p.port account 64 p.hop p.good act s) := by
  obtain ⟨base, d, r, rfl⟩ | ⟨seq, rfl⟩ | ⟨seq, st, c, rfl⟩ := hi
  · exact ⟨_, _, rfl⟩
  · by_cases keyless : (!hasKey s p.domain) = true
    · exact ⟨_, _, congrArg Host.Outcome.next (if_pos keyless)⟩
    · exact ⟨_, _, congrArg Host.Outcome.next (if_neg keyless)⟩
  · by_cases clear : (c && st == 3) = true
    · exact ⟨_, _, congrArg Host.Outcome.next (if_pos clear)⟩
    · exact ⟨_, _, congrArg Host.Outcome.next (if_neg clear)⟩

/-- The packet's tag verifies under the count of control packets that the peer has sent (R258, R267). -/
def controlOk (p : Pkt) (s : State) : Bool := authentic s p (amGet s.fabric.ctl (flowKey p.node p.domain) {}).accepted

/-- The state in which a control packet that verifies acts: its port has counted it, and its number is accepted (R258, R264). -/
def controlTaken (p : Pkt) (s : State) : State := noteControl p (received p.port (domainAccount s p.domain) 64 s)

section
variable {p : Pkt} {s : State} (hup : portUp s p.port = true) (hgood : hopGood s p.port p.hop p.good = true)
include hup hgood

theorem unsequenced_ok (hok : controlOk p s = true) (act : State → State) : unsequenced p act s = act (controlTaken p s) := by
  unfold unsequenced
  rw [linkTake_good hup hgood]
  exact if_pos hok

theorem unsequenced_forged (hok : controlOk p s = false) (act : State → State) : unsequenced p act s =
    raise (evPortPkt s 0x205 1 p.port p.domain p.node 0) (received p.port (domainAccount s p.domain) 64 s) := by
  unfold unsequenced
  rw [linkTake_good hup hgood]
  exact if_neg fun h => absurd (hok.symm.trans h) (by decide)

theorem forged_drops (hok : controlOk p s = false) (act : State → State) :
    (unsequenced p act s).fabric.tx = s.fabric.tx ∧ (unsequenced p act s).fabric.rx = s.fabric.rx ∧
    Raised (evPortPkt s 0x205 1 p.port p.domain p.node 0) s (unsequenced p act s) := by
  rw [unsequenced_forged hup hgood hok]
  refine ⟨?_, ?_, raise_events _ rfl⟩
  · rw [raise_fabric]
    rfl
  · rw [raise_fabric]
    rfl

end

theorem controlTaken_tx (p : Pkt) (s : State) : (controlTaken p s).fabric.tx = s.fabric.tx := rfl

theorem controlTaken_rx (p : Pkt) (s : State) : (controlTaken p s).fabric.rx = s.fabric.rx := rfl

theorem controlTaken_sec (p : Pkt) (s : State) : (controlTaken p s).sec = s.sec := rfl

theorem controlTaken_parts (p : Pkt) (s : State) : (controlTaken p s).parts = s.parts := rfl

theorem controlTaken_events (p : Pkt) (s : State) : (controlTaken p s).events = s.events := rfl

theorem controlTaken_failedPkts (p : Pkt) (s : State) : (controlTaken p s).fabric.failedPkts = s.fabric.failedPkts := rfl

theorem controlTaken_outstanding (p : Pkt) (s : State) (i : Nat) :
    (getPort (controlTaken p s) i).outstanding = (getPort s i).outstanding :=
  congrArg (fun l : PortState × Word32 × Nat × Nat × Nat × Nat => l.2.2.2.2.2) ((accepted_received p.port (domainAccount s p.domain) 64 s).line i)

/-! ## E2E_ACK -/

/-- What an acknowledgement says of one number (R261). -/
def ackStep (p : Pkt) (base : BitVec 16) (delivered refused : BitVec 32) (s : State) (i : Nat) : State :=
  if delivered.getLsbD i then resolveSeq p.node p.domain (base + BitVec.ofNat 16 i) .delivered s
  else if refused.getLsbD i then resolveSeq p.node p.domain (base + BitVec.ofNat 16 i) .refused s
  else s

theorem exec_e2eAck (p : Pkt) (base : BitVec 16) (d r : BitVec 32) (s : State) : exec (.e2eAck p base d r) s = .next (unsequenced p (fun s =>
    if hostStray p ((List.range 32).map (fun i => base + BitVec.ofNat 16 i)) s then fabricRefused p.node p.domain (r.setWidth 16) s
    else (List.range 32).foldl (ackStep p base d r) s) s) := rfl

theorem foldl_eq_of_fixed {α : Type} {g : State → α → State} {l : List α} {s : State} (h : ∀ a ∈ l, g s a = s) : l.foldl g s = s := by
  induction l with
  | nil => rfl
  | cons a l ih =>
    rw [List.foldl_cons, h a List.mem_cons_self]
    exact ih fun b hb => h b (List.mem_cons_of_mem _ hb)

/-- An acknowledgement of the base number alone. -/
theorem foldl_ackStep_first (p : Pkt) (base : BitVec 16) {d r : BitVec 32} (s : State)
    (hd : ∀ i ∈ List.range 32, i ≠ 0 → d.getLsbD i = false) (hr : ∀ i ∈ List.range 32, i ≠ 0 → r.getLsbD i = false) :
    (List.range 32).foldl (ackStep p base d r) s = ackStep p base d r s 0 := by
  have range : List.range 32 = 0 :: (List.range 31).map Nat.succ := List.range_succ_eq_map
  rw [range] at hd hr ⊢
  rw [List.foldl_cons]
  refine foldl_eq_of_fixed fun i hi => ?_
  have later : i ≠ 0 := by
    obtain ⟨n, -, rfl⟩ := List.mem_map.mp hi
    exact n.succ_ne_zero
  unfold ackStep
  rw [hd i (List.mem_cons_of_mem _ hi) later, hr i (List.mem_cons_of_mem _ hi) later]
  rfl

theorem foldl_ackStep_unknown (p : Pkt) (base : BitVec 16) (d r : BitVec 32) {s : State}
    (h : ∀ i < 32, outstandingAt s p.node p.domain (base + BitVec.ofNat 16 i) = none) : (List.range 32).foldl (ackStep p base d r) s = s := by
  refine foldl_eq_of_fixed fun i hi => ?_
  unfold ackStep
  rw [resolveSeq_unknown (h i (List.mem_range.mp hi)), resolveSeq_unknown (h i (List.mem_range.mp hi)), ite_self, ite_self]

theorem hostStray_wafer {p : Pkt} (h : p.node < 12288) (qs : List (BitVec 16)) (s : State) : hostStray p qs s = false := by
  unfold hostStray
  rw [decide_eq_false (Nat.not_le.mpr h), Bool.false_and]

theorem hostStray_known {p : Pkt} {qs : List (BitVec 16)} {s : State} {q : BitVec 16} {o : Outst} (hq : q ∈ qs)
    (ho : outstandingAt s p.node p.domain q = some o) : hostStray p qs s = false := by
  have known : qs.any (fun q => (outstandingAt s p.node p.domain q).isSome) = true := List.any_eq_true.mpr ⟨q, hq, by rw [ho]; rfl⟩
  unfold hostStray
  rw [known, Bool.not_true, Bool.and_false]

section
variable {p : Pkt} {s : State} (hup : portUp s p.port = true) (hgood : hopGood s p.port p.hop p.good = true) (hok : controlOk p s = true)
include hup hgood hok

theorem e2eAck_unknown (base : BitVec 16) (d r : BitVec 32)
    (hn : ∀ i < 32, outstandingAt s p.node p.domain (base + BitVec.ofNat 16 i) = none) :
    exec (.e2eAck p base d r) s = .next (if 12288 ≤ p.node then fabricRefused p.node p.domain (r.setWidth 16) (controlTaken p s)
      else controlTaken p s) := by
  have none' (i : Nat) (hi : i < 32) : outstandingAt (controlTaken p s) p.node p.domain (base + BitVec.ofNat 16 i) = none :=
    (outstandingAt_congr (controlTaken_tx p s) ..).trans (hn i hi)
  rw [exec_e2eAck, unsequenced_ok hup hgood hok, foldl_ackStep_unknown _ _ _ _ none']
  by_cases host : 12288 ≤ p.node
  · have stray : hostStray p ((List.range 32).map (fun i => base + BitVec.ofNat 16 i)) (controlTaken p s) = true := by
      unfold hostStray
      rw [decide_eq_true host, Bool.true_and, Bool.not_eq_true', List.any_eq_false]
      intro q hq
      obtain ⟨i, hi, rfl⟩ := List.mem_map.mp hq
      rw [none' i (List.mem_range.mp hi)]
      decide
    rw [stray, if_pos rfl, if_pos host]
  · rw [hostStray_wafer (Nat.not_le.mp host), if_neg (by decide), if_neg host]

section
variable {q : BitVec 16} {o : Outst} (ho : outstandingAt s p.node p.domain q = some o)
include ho

omit hup hgood hok in
theorem outstandingAt_taken : outstandingAt (controlTaken p s) p.node p.domain q = some o :=
  (outstandingAt_congr (controlTaken_tx p s) ..).trans ho

omit hup hgood hok in
theorem resolveSeq_taken (hp : o.wire.pkt.part = none) {how : Resolved}
    (hop : how = .delivered ∨ o.wire.pkt.opcode = 0 ∨ 6 < o.wire.pkt.opcode) (hd : (getSlots s p.domain).draining = false) :
    resolveSeq p.node p.domain q how (controlTaken p s) = resolvedOut p.node p.domain o how (controlTaken p s) :=
  resolveSeq_eq (outstandingAt_taken ho) hp hop (by rwa [slots_congr (controlTaken_sec p s)])

omit hup hgood hok ho in
theorem getTx_resolved_taken (how : Resolved) : getTx (resolvedOut p.node p.domain o how (controlTaken p s)) p.node p.domain =
    flowResolved o.seq how (getTx s p.node p.domain) := by
  rw [getTx_resolvedOut, getTx_congr (controlTaken_tx p s)]

theorem e2eAck_first {d r : BitVec 32} (hd : ∀ i ∈ List.range 32, i ≠ 0 → d.getLsbD i = false)
    (hr : ∀ i ∈ List.range 32, i ≠ 0 → r.getLsbD i = false) :
    exec (.e2eAck p q d r) s = .next (if d.getLsbD 0 then resolveSeq p.node p.domain q .delivered (controlTaken p s)
      else if r.getLsbD 0 then resolveSeq p.node p.domain q .refused (controlTaken p s) else controlTaken p s) := by
  have base : q + BitVec.ofNat 16 0 = q := BitVec.add_zero q
  have known : hostStray p ((List.range 32).map (fun i => q + BitVec.ofNat 16 i)) (controlTaken p s) = false :=
    hostStray_known (List.mem_map.mpr ⟨0, by decide, base⟩) (outstandingAt_taken ho)
  rw [exec_e2eAck, unsequenced_ok hup hgood hok, known, if_neg (by decide), foldl_ackStep_first _ _ _ hd hr]
  unfold ackStep
  rw [base]

end

end

/-! ## SKIP -/

section
variable {p : Pkt} {s : State} (hup : portUp s p.port = true) (hgood : hopGood s p.port p.hop p.good = true)
include hup hgood

theorem exec_skipQuery_keyless (hk : hasKey s p.domain = false) (seq : BitVec 16) : exec (.skipQuery p seq) s =
    .next (sendUnseq p.node p.domain 0x62 (leBytes 2 seq.toNat ++ [3] ++ List.replicate 29 0) (0, 0) (received p.port houseAccount 64 s)) := by
  show execSkipQuery p seq s = _
  unfold execSkipQuery
  rw [hk, if_pos (by decide), linkTake_good hup hgood]

omit hup hgood in
theorem exec_skipQuery_keyed (hk : hasKey s p.domain = true) (seq : BitVec 16) :
    exec (.skipQuery p seq) s = .next (unsequenced p (skipped p seq) s) := by
  show execSkipQuery p seq s = _
  unfold execSkipQuery
  rw [hk, if_neg (by decide)]

end

section
variable {p : Pkt} {v : State}

theorem skipped_old (h : p.gen < (getRx v p.node p.domain).gen) (q : BitVec 16) : skipped p q v = v := if_pos h

/-- A SKIP for a number that is closed already, is passed on already, or is closed from now on (R262). -/
theorem skipped_eq (h : (getRx v p.node p.domain).gen ≤ p.gen) (q : BitVec 16) : skipped p q v =
    if (rxFor p v).closed.contains (extendSeq (rxFor p v).next q) then answerSkip p q 1 (restartRx p v)
    else if extendSeq (rxFor p v).next q < (rxFor p v).next then
      answerSkip p q (if (rxFor p v).refusedSeqs.contains (extendSeq (rxFor p v).next q) then 2 else 0) (restartRx p v)
    else advanceAll p.node p.domain (answerSkip p q 1 (modRx p.node p.domain (fun r =>
      { r with closed := r.closed ++ [extendSeq (rxFor p v).next q]
               held := r.held.filter (fun h => h.1 != extendSeq (rxFor p v).next q) }) (restartRx p v))) := by
  unfold skipped
  rw [if_neg (Nat.not_lt.mpr h)]
  dsimp only
  rw [getRx_restartRx]

/-- A number that is not passed on yet is closed, and the reorder stage never passes it on (R262). -/
theorem skipped_closes (h : (getRx v p.node p.domain).gen ≤ p.gen) {q : BitVec 16} (hn : (rxFor p v).next ≤ extendSeq (rxFor p v).next q)
    (hc : extendSeq (rxFor p v).next q ∉ (rxFor p v).closed) :
    extendSeq (rxFor p v).next q ∈ (getRx (skipped p q v) p.node p.domain).closed ∧
    extendSeq (rxFor p v).next q ∉ (getRx (skipped p q v) p.node p.domain).passed.drop (rxFor p v).passed.length := by
  rw [skipped_eq h, if_neg (by rwa [List.contains_iff_mem]), if_neg (Nat.not_lt.mpr hn)]
  generalize extendSeq (rxFor p v).next q = n
  have answered (u : State) : getRx (answerSkip p q 1 u) p.node p.domain = getRx u p.node p.domain := getRx_congr (sendUnseq_rx ..) ..
  have closed : getRx (answerSkip p q 1 (modRx p.node p.domain (fun r =>
      { r with closed := r.closed ++ [n], held := r.held.filter (fun h => h.1 != n) }) (restartRx p v))) p.node p.domain =
      { rxFor p v with closed := (rxFor p v).closed ++ [n], held := (rxFor p v).held.filter (fun h => h.1 != n) } := by
    rw [answered, getRx_modRx_self, getRx_restartRx]
  generalize answerSkip p q 1 (modRx p.node p.domain (fun r =>
      { r with closed := r.closed ++ [n], held := r.held.filter (fun h => h.1 != n) }) (restartRx p v)) = u at closed
  obtain ⟨kept, ⟨l, passed, free⟩, -⟩ := stepped_advanceRx p.node p.domain
    ((getRx u p.node p.domain).closed.length + (getRx u p.node p.domain).held.length + 1) (n := n) (s := u) fun e he => by
      rw [closed] at he
      exact bne_iff_ne.mp (List.mem_filter.mp he).2
  unfold advanceAll
  dsimp only
  rw [kept, passed, closed]
  refine ⟨List.mem_append_right _ (List.mem_singleton_self _), ?_⟩
  rw [List.drop_left]
  exact free

end

/-! ## SKIP_ANSWER -/

theorem exec_skipAnswer_sealed (p : Pkt) (seq : BitVec 16) {status : Nat} {clear : Bool} (h : clear = false ∨ status ≠ 3) (s : State) :
    exec (.skipAnswer p seq status clear) s = .next (unsequenced p (fun s =>
      if hostStray p [seq] s then fabricRefused p.node p.domain 0 s else skipResolved p seq status s) s) := by
  refine congrArg Host.Outcome.next (if_neg ?_)
  rw [Bool.and_eq_true, beq_iff_eq]
  rintro ⟨clear', three⟩
  obtain sealed | other := h
  · exact absurd (sealed.symm.trans clear') (by decide)
  · exact other three

section
variable {p : Pkt} {s : State} {seq : BitVec 16} {o : Outst} (ho : outstandingAt s p.node p.domain seq = some o)
include ho

theorem skipResolved_waits (hs : o.skipping = false) (status : Nat) : skipResolved p seq status s = s := by
  unfold skipResolved
  rw [ho]
  dsimp only
  rw [hs]
  exact if_pos (.inl rfl)

theorem skipResolved_eq (hs : o.skipping = true) {status : Nat} (h3 : status ≤ 3) : skipResolved p seq status s =
    if status = 0 then resolveSeq p.node p.domain seq .delivered s
    else if status = 2 then resolveSeq p.node p.domain seq .refused s
    else resolveSeq p.node p.domain seq .failed (raise (evPortPkt s 0x208 1 o.port p.domain p.node status) s) := by
  unfold skipResolved
  rw [ho]
  dsimp only
  rw [hs, if_neg]
  rintro (h | h)
  · exact absurd h (by decide)
  · omega

end

section
variable {p : Pkt} {s : State} (hup : portUp s p.port = true) (hgood : hopGood s p.port p.hop p.good = true) (hok : controlOk p s = true)
  {seq : BitVec 16} {o : Outst} (ho : outstandingAt s p.node p.domain seq = some o)
include hup hgood hok ho

theorem skipAnswer_known (status : Nat) : exec (.skipAnswer p seq status false) s = .next (skipResolved p seq status (controlTaken p s)) := by
  rw [exec_skipAnswer_sealed p seq (.inl rfl), unsequenced_ok hup hgood hok,
    hostStray_known (List.mem_singleton_self seq) (outstandingAt_taken ho), if_neg (by decide)]

variable (hs : o.skipping = true) (hp : o.wire.pkt.part = none) (hop : o.wire.pkt.opcode = 0 ∨ 6 < o.wire.pkt.opcode)
  (hd : (getSlots s p.domain).draining = false)
include hs hp hop hd

omit hop in
theorem skipAnswer_delivered : exec (.skipAnswer p seq 0 false) s = .next (resolvedOut p.node p.domain o .delivered (controlTaken p s)) := by
  rw [skipAnswer_known hup hgood hok ho, skipResolved_eq (outstandingAt_taken ho) hs (by omega), if_pos rfl,
    resolveSeq_taken ho hp (.inl rfl) hd]

theorem skipAnswer_refused : exec (.skipAnswer p seq 2 false) s = .next (resolvedOut p.node p.domain o .refused (controlTaken p s)) := by
  rw [skipAnswer_known hup hgood hok ho, skipResolved_eq (outstandingAt_taken ho) hs (by omega), if_neg (by decide), if_pos rfl,
    resolveSeq_taken ho hp (.inr hop) hd]

theorem skipAnswer_failed {status : Nat} (hst : status = 1 ∨ status = 3) : exec (.skipAnswer p seq status false) s =
    .next (resolvedOut p.node p.domain o .failed (raise (evPortPkt s 0x208 1 o.port p.domain p.node status) (controlTaken p s))) := by
  have told (e : EvReq) : outstandingAt (raise e (controlTaken p s)) p.node p.domain seq = some o :=
    (outstandingAt_congr (congrArg FabricS.tx (raise_fabric ..)) ..).trans (outstandingAt_taken ho)
  have slots (e : EvReq) : (getSlots (raise e (controlTaken p s)) p.domain).draining = false := by
    rwa [slots_congr (raise_sec ..), slots_congr (controlTaken_sec p s)]
  rw [skipAnswer_known hup hgood hok ho, skipResolved_eq (outstandingAt_taken ho) hs (by omega), if_neg (by omega), if_neg (by omega),
    resolveSeq_eq (told _) hp (.inr hop) (slots _), evPortPkt_congr (controlTaken_parts p s)]

end

theorem skipAnswer_clear {p : Pkt} {s : State} (hup : portUp s p.port = true) (hgood : hopGood s p.port p.hop p.good = true) (seq : BitVec 16) :
    exec (.skipAnswer p seq 3 true) s = .next (skipResolved p seq 3 (received p.port houseAccount 64 s)) :=
  congrArg Host.Outcome.next ((if_pos rfl).trans (linkTake_good hup hgood ..))

/-! ## Link and maintenance commands -/

theorem notePair_fabric (g : Nat) (before s : State) : (notePair g before s).fabric = s.fabric := by
  unfold notePair
  dsimp only
  split
  · exact raise_fabric ..
  · rfl

theorem notePairs_fabric (l : List Nat) (before s : State) : (l.foldl (fun t g => notePair g before t) s).fabric = s.fabric := by
  induction l generalizing s with
  | nil => rfl
  | cons g l ih => exact (ih _).trans (notePair_fabric ..)

theorem takeNotice_notices {p : Pkt} {u : State} (hg : groupOf p.node = groupOf (nodeId u)) (hn : p.node ≠ nodeId u) (port state peerNode : Nat) :
    (takeNotice p port state peerNode u).fabric.linkNotices = amSet u.fabric.linkNotices (p.node % 32 * 64 + port) (state, peerNode) := by
  unfold takeNotice
  rw [if_neg (by rintro (h | h) <;> [exact h hg; exact hn h])]
  dsimp only
  rw [notePairs_fabric]

theorem portFigures_accepted {s u : State} (h : Accepted s u) (domain port : Nat) : portFigures u domain port = portFigures s domain port := by
  have line := h.line port
  unfold portLine at line
  simp only [Prod.mk.injEq] at line
  obtain ⟨st, peer, delay, replays, -⟩ := line
  unfold portFigures mgmtDomain reg
  dsimp only
  rw [st, peer, delay, replays, setting_congr h.regs, h.regs]

end Sys2Proof.Machine
end

section
/-!
PROOF. The packet flows between wafers (R258 to R263, R269, R270, R272): the clauses of their statement.
-/

namespace Sys2Proof.Machine

open Sys2Proof

section
variable {dst domain : Nat} {q : Packet} {rest : List Packet} {s : State} (hw : (getTx s dst domain).waiting = q :: rest)
  {slot gen : Nat} (hk : sendSlot s domain = some (slot, gen))
include hw hk

theorem packetSend_launches {i : Nat} {nm : Bool} (hc : 0 < (getTx s dst domain).credits) (hd : (getSlots s domain).draining = false)
    (hl : (getTx s dst domain).next < seqLimit) (hp : choosePath s (nodeId s) (getTx s dst domain).next dst = some (i, nm))
    (hr : (getPort s i).outstanding < 4096) : exec (.packetSend dst domain) s = .next (launchPacket dst domain q slot gen i nm s) := by
  rw [exec_packetSend_keyed hw hk, hd, Bool.or_false, decide_eq_false (Nat.pos_iff_ne_zero.mp hc), if_neg (by decide),
    if_neg (Nat.not_le.mpr hl), hp, Option.elim_some, if_neg (Nat.not_le.mpr hr)]

theorem packetSend_waits (h : (getTx s dst domain).credits = 0 ∨ (getSlots s domain).draining = true ∨
      ((getTx s dst domain).next < seqLimit ∧ choosePath s (nodeId s) (getTx s dst domain).next dst = none) ∨
      (seqLimit ≤ (getTx s dst domain).next ∧ (getTx s dst domain).exhaustedNoted = true)) :
    exec (.packetSend dst domain) s = .next s := by
  rw [exec_packetSend_keyed hw hk]
  refine congrArg Host.Outcome.next ?_
  obtain empty | drains | ⟨room, path⟩ | ⟨full, noted⟩ := h
  · rw [decide_eq_true empty, Bool.true_or, if_pos rfl]
  · rw [drains, Bool.or_true, if_pos rfl]
  · rw [if_neg (Nat.not_le.mpr room), path, Option.elim_none, ite_self]
  · rw [if_pos full, noted, if_pos rfl, ite_self]

theorem packetSend_crowded {i : Nat} {nm : Bool} (hl : (getTx s dst domain).next < seqLimit)
    (hp : choosePath s (nodeId s) (getTx s dst domain).next dst = some (i, nm)) (hr : 4096 ≤ (getPort s i).outstanding) :
    exec (.packetSend dst domain) s = .next s := by
  rw [exec_packetSend_keyed hw hk, if_neg (Nat.not_le.mpr hl), hp, Option.elim_some, if_pos hr, ite_self]

theorem packetSend_exhausted (hc : 0 < (getTx s dst domain).credits) (hd : (getSlots s domain).draining = false)
    (hl : seqLimit ≤ (getTx s dst domain).next) (hn : (getTx s dst domain).exhaustedNoted = false) :
    exec (.packetSend dst domain) s = .next (raise (evPortPkt s 0x209 1 0xFF domain dst (getTx s dst domain).next)
        (modTx dst domain (fun f => { f with exhaustedNoted := true }) s)) := by
  rw [exec_packetSend_keyed hw hk, hd, Bool.or_false, decide_eq_false (Nat.pos_iff_ne_zero.mp hc), if_neg (by decide), if_pos hl, hn,
    if_neg (by decide)]

end

/-- Settles O55: each command of the flows by what it does to its flow's record, its port and the reorder stage. -/
theorem flowsAreSequencedAndResolved : Obligations.FlowsAreSequencedAndResolved := by
  unfold Obligations.FlowsAreSequencedAndResolved
  intro s
  refine ⟨fun dst domain q rest hw => ⟨fun slot gen i nm hk hc hd hl hp hr => ?_, fun slot gen hk h => ?_, fun slot gen i nm hk hl hp hr => ?_,
    fun slot gen hk hc hd hl hn => ?_, fun hk hp ho => ?_⟩, fun dst domain hw => completes_of_exec (exec_packetSend_empty hw) rfl, ?_⟩
  · exact completes_of_exec (packetSend_launches hw hk hc hd hl hp hr) (launchPacket_launches hw slot gen i nm)
  · exact completes_of_exec (packetSend_waits hw hk h) rfl
  · exact completes_of_exec (packetSend_crowded hw hk hl hp hr) rfl
  · refine completes_of_exec (packetSend_exhausted hw hk hc hd hl hn) ⟨?_, raise_events _ rfl⟩
    rw [getTx_congr (congrArg FabricS.tx (raise_fabric ..)), getTx_modTx_self]
  · exact completes_of_exec (exec_packetSend_keyless hw hk) (refuseWaiting_refuses hw hp ho)
  refine ⟨fun p i hi => ⟨fun down => ?_, fun up bad fresh => ?_⟩, fun p hup hgood => ?_, fun dst domain seq => ?_, fun p h harr => ?_⟩
  · obtain ⟨account, act, step⟩ := exec_unsequenced hi s
    exact completes_of_exec (step.trans (by rw [linkTake_down down])) rfl
  · obtain ⟨account, act, step⟩ := exec_unsequenced hi s
    exact completes_of_exec step (linkTake_bad up bad fresh ..)
  · refine ⟨fun forged => ⟨fun base d r => ?_, fun seq hk => ?_, fun seq status clear sealed => ?_⟩, fun ok hd => ⟨fun base o ho hp => ⟨?_, fun hop => ?_⟩,
      fun base d r wafer hn => ?_, fun base d r host hn => ?_⟩, fun seq hk => ?_, fun seq hk ok hg => ?_, fun seq hk ok hg => ?_,
      fun seq status ok => ⟨fun o ho hs hp hop hd => ⟨?_, ?_, fun hst => ?_⟩, fun o ho hs => ?_⟩, fun seq => ?_⟩
    · exact completes_of_exec (exec_e2eAck ..) (forged_drops hup hgood forged _)
    · exact completes_of_exec (exec_skipQuery_keyed hk seq) (forged_drops hup hgood forged _)
    · exact completes_of_exec (exec_skipAnswer_sealed p seq sealed s) (forged_drops hup hgood forged _)
    · refine completes_of_exec ((e2eAck_first hup hgood ok ho (by decide) (by decide)).trans
        (by rw [if_pos (by decide), resolveSeq_taken ho hp (.inl rfl) hd])) ⟨getTx_resolved_taken .., ?_, ?_⟩
      · rw [resolvedOut_outstanding, controlTaken_outstanding]
      · rw [resolvedOut_failedPkts, controlTaken_failedPkts]
        rfl
    · exact completes_of_exec ((e2eAck_first hup hgood ok ho (by decide) (by decide)).trans
        (by rw [if_neg (by decide), if_pos (by decide), resolveSeq_taken ho hp (.inr hop) hd])) (getTx_resolved_taken ..)
    · exact completes_of_exec (e2eAck_unknown hup hgood ok base d r hn) (if_neg (Nat.not_le.mpr wafer))
    · exact completes_of_exec (e2eAck_unknown hup hgood ok base d r hn) (if_pos host)
    · exact completes_of_exec (exec_skipQuery_keyless hup hgood hk seq) ⟨rfl, (sendUnseq_rx ..).trans rfl⟩
    · have step := (exec_skipQuery_keyed hk seq).trans (congrArg Host.Outcome.next (unsequenced_ok hup hgood ok (skipped p seq)))
      have same : rxFor p (controlTaken p s) = rxFor p s := rxFor_congr (controlTaken_rx p s) p
      have old : (getRx (controlTaken p s) p.node p.domain).gen ≤ p.gen := by rwa [getRx_congr (controlTaken_rx p s)]
      refine ⟨fun hn hc => ?_, fun hc => ?_, fun hn hc => ?_⟩
      · refine completes_of_exec step ?_
        rw [skipped_eq old, same, if_neg (by rwa [List.contains_iff_mem]), if_pos hn]
        simp only [List.contains_iff_mem]
        rfl
      · refine completes_of_exec step ?_
        rw [skipped_eq old, same, if_pos (List.contains_iff_mem.mpr hc)]
        rfl
      · refine completes_of_exec step ⟨rfl, ?_⟩
        rw [← same] at hn hc ⊢
        exact skipped_closes old hn hc
    · refine completes_of_exec ((exec_skipQuery_keyed hk seq).trans (congrArg Host.Outcome.next (unsequenced_ok hup hgood ok (skipped p seq)))) ?_
      exact skipped_old (by rwa [getRx_congr (controlTaken_rx p s)]) seq
    · rintro rfl
      refine completes_of_exec (skipAnswer_delivered hup hgood ok ho hs hp hd) ⟨getTx_resolved_taken .., ?_⟩
      rw [resolvedOut_events, controlTaken_events]
    · rintro rfl
      refine completes_of_exec (skipAnswer_refused hup hgood ok ho hs hp hop hd) ⟨getTx_resolved_taken .., ?_⟩
      rw [resolvedOut_events, controlTaken_events]
    · refine completes_of_exec (skipAnswer_failed hup hgood ok ho hs hp hop hd hst) ⟨?_, ?_, ?_⟩
      · rw [getTx_resolvedOut, getTx_congr (congrArg FabricS.tx (raise_fabric ..)), getTx_congr (controlTaken_tx p s)]
        rfl
      · rw [resolvedOut_failedPkts, raise_fabric, controlTaken_failedPkts, if_pos rfl]
      · unfold Raised
        rw [resolvedOut_events, raise_events _ (controlTaken_events p s)]
    · exact completes_of_exec (skipAnswer_known hup hgood ok ho status) (skipResolved_waits (outstandingAt_taken ho) hs status)
    · exact completes_of_exec (skipAnswer_clear hup hgood seq) rfl
  · refine ⟨fun o ho hs ht => ?_, fun o ho h => ?_, fun ho => completes_of_exec (exec_retransmitTimeout_unknown ho) rfl⟩
    · have step := (exec_retransmitTimeout ho).trans (congrArg _ (if_neg (by rw [hs]; simpa using ht)))
      refine completes_of_exec step ⟨rfl, ?_, ?_⟩
      · exact ((resend_keeps ..).only .events rfl).trans rfl
      · exact (triesOf_resend ..).trans (triesOf_retried s)
    · exact completes_of_exec ((exec_retransmitTimeout ho).trans (congrArg _ (if_pos h))) ⟨rfl, (getTx_sendSkip ..).trans (getTx_markOut ..)⟩
  · refine ⟨fun port state peerNode peerPort => ⟨fun wafer group other => ?_, fun host => ?_⟩, fun port hp => ?_, fun port hp => ?_,
      fun port action permit => ?_, fun data => delivers_act harr rfl fun u _ => rfl⟩
    · refine delivers_act harr rfl fun u acc => ?_
      obtain ⟨a, b, c, d, fabric⟩ := acc.fabric
      have node : nodeId u = nodeId s := by unfold nodeId; rw [fabric]
      have notices : u.fabric.linkNotices = s.fabric.linkNotices := by rw [fabric]
      rw [if_neg (Nat.not_le.mpr wafer), takeNotice_notices (by rwa [node]) (by rwa [node]), notices]
      refine ⟨by rw [amFind_amSet, if_pos rfl], fun k hk => by rw [amFind_amSet, if_neg hk]⟩
    · exact delivers_act harr rfl fun u _ => if_pos host
    · refine delivers_act harr rfl fun u acc => ?_
      rw [if_neg (Nat.not_lt.mpr hp), portFigures_accepted acc]
    · exact delivers_act harr rfl fun u _ => if_pos hp
    · refine delivers_act harr rfl fun u _ => ⟨fun h0 => ?_, fun h0 => ?_⟩
      · exact if_pos h0
      · exact if_neg h0

end Sys2Proof.Machine
end

section
/-!
PROOF. The ring switch's operations (R278 to R292): what a new operation's own fields decide, what its caches decide, and the messages in
which it goes to its homes.
-/

namespace Sys2Proof.Machine

open Sys2Proof

/-! ## What a refusal leaves of the ring switch -/

/-- The ring switch's operations, copies and caches are as they were. -/
structure SameRing (s t : State) : Prop where
  ops : t.fabric.ops = s.fabric.ops
  bulks : t.fabric.bulks = s.fabric.bulks
  caches : t.fabric.caches = s.fabric.caches
  nextReq : t.fabric.nextReq = s.fabric.nextReq
  misses : t.fabric.misses = s.fabric.misses

namespace SameRing

variable {s t u : State}

theorem trans (a : SameRing s t) (b : SameRing t u) : SameRing s u :=
  ⟨b.ops.trans a.ops, b.bulks.trans a.bulks, b.caches.trans a.caches, b.nextReq.trans a.nextReq, b.misses.trans a.misses⟩

end SameRing

theorem sameRing_accepted {s u : State} (h : Accepted s u) : SameRing s u := by
  obtain ⟨a, b, c, d, e⟩ := h.fabric
  exact ⟨by rw [e], by rw [e], by rw [e], by rw [e], by rw [e]⟩

theorem sameRing_enqueue (q : Packet) (s : State) : SameRing s (enqueue q s) := by
  unfold enqueue
  split
  · dsimp only
    constructor <;> rw [raise_fabric]
  · exact ⟨rfl, rfl, rfl, rfl, rfl⟩

theorem sameRing_answerMem (op node domain : Nat) (tag : BitVec 16) (status : Nat) (old : Word64) (done : Nat) (data : List Byte) (s : State) :
    SameRing s (answerMem op node domain tag status old done data s) := by
  unfold answerMem
  split
  · exact sameRing_enqueue ..
  · exact sameRing_enqueue ..

theorem memEvent_congr {s u : State} (h : u.parts = s.parts) (status node domain : Nat) (pos : Option Nat) :
    memEvent u status node domain pos = memEvent s status node domain pos := by
  unfold memEvent partOfDomain
  rw [h]

theorem memFails_raises (status node domain : Nat) (pos : Option Nat) (s : State) :
    Raised (memEvent s status node domain pos) s (memFails status node domain pos s) := by
  unfold Raised memFails
  dsimp only
  split
  · split
    · rw [(modPart_keeps ..).only .events rfl]
    · rfl
  · rfl

/-! ## What an operation's own fields decide -/

section
variable {op : RingOp} {addr : Word64} {c : Bool} {s : State}

theorem startOp_malformed (h : malformed s op.op (gAddr addr) op.len op.size op.ty op.domain (op.op = 2 && c) = true) :
    startOp op addr c s = tellFailed op 4 (memFails 4 op.reqNode op.domain (if (gAddr addr).good then some (gAddr addr).pos else none) s) := by
  unfold startOp
  dsimp only
  rw [if_pos h]

/-- An operation without completion counter whose data are not compressed. -/
theorem startOp_plain (h : malformed s op.op (gAddr addr) op.len op.size op.ty op.domain (op.op = 2 && c) = false)
    (hc : ¬(op.op = 2 ∧ c = true)) (hctr : op.ctr = none) : startOp op addr c s =
    if op.op = 2 ∧ op.data.length ≠ op.len then tellFailed op 4 (memFails 4 op.reqNode op.domain (some (gAddr addr).pos) s)
    else if (gAddr addr).domain ≠ op.domain then tellFailed op 1 (memFails 1 op.reqNode op.domain (some (gAddr addr).pos) s)
    else if (gAddr addr).node ≠ nodeId s then
      passOn op (gAddr addr).node addr (memFlags op.size op.ty c) (if op.op = 2 then op.data else []) op.s s
    else launch { op with pieces := piecesOf (gAddr addr) 0 op.len } s := by
  have formed : ¬malformed s op.op (gAddr addr) op.len op.size op.ty op.domain (op.op = 2 && c) = true := by rw [h]; decide
  unfold startOp
  dsimp only
  rw [if_neg formed, if_neg hc, hctr]
  dsimp only
  simp only [Bool.false_eq_true, or_false]

/-- A store whose data are not as long as its length says (R276). -/
theorem startOp_short (h : malformed s op.op (gAddr addr) op.len op.size op.ty op.domain (op.op = 2 && c) = false)
    (hc : ¬(op.op = 2 ∧ c = true)) (h2 : op.op = 2) (hl : op.data.length ≠ op.len) :
    startOp op addr c s = tellFailed op 4 (memFails 4 op.reqNode op.domain (some (gAddr addr).pos) s) := by
  have formed : ¬malformed s op.op (gAddr addr) op.len op.size op.ty op.domain (op.op = 2 && c) = true := by rw [h]; decide
  unfold startOp
  dsimp only
  rw [if_neg formed, if_neg hc]
  exact if_pos (.inl ⟨h2, hl⟩)

end

/-! ## What the caches decide -/

/-- The cached entries of two states are the same, their ages aside (R278, R279). -/
def SameEntries (s t : State) : Prop := ∀ c q, (cached t c q).map CacheEntry.entry = (cached s c q).map CacheEntry.entry

theorem SameEntries.refl (s : State) : SameEntries s s := fun _ _ => rfl

theorem SameEntries.trans {s t u : State} (a : SameEntries s t) (b : SameEntries t u) : SameEntries s u := fun c q => (b c q).trans (a c q)

theorem SameEntries.of_caches {s t : State} (h : t.fabric.caches = s.fabric.caches) : SameEntries s t := fun c q => by
  unfold cached
  rw [h]

theorem SameEntries.foldl {α : Type} {g : State → α → State} (hg : ∀ s a, SameEntries s (g s a)) (l : List α) (s : State) :
    SameEntries s (l.foldl g s) := by
  induction l generalizing s with
  | nil => exact .refl s
  | cons a l ih => exact (hg s a).trans (ih _)

theorem SameEntries.isNone {s t : State} (h : SameEntries s t) (c q : Nat) : (cached t c q).isNone = (cached s c q).isNone := by
  have same := congrArg Option.isNone (h c q)
  rwa [Option.isNone_map, Option.isNone_map] at same

/-- An entry that a hit has made young again (R279). -/
def hitEntry (pos t : Nat) (e : CacheEntry) : CacheEntry := if e.pos = pos then { e with age := 0, hitAt := some t } else e

theorem hitEntry_pos (pos t : Nat) (e : CacheEntry) : (hitEntry pos t e).pos = e.pos := by
  unfold hitEntry
  split
  · rfl
  · rfl

theorem hitEntry_entry (pos t : Nat) (e : CacheEntry) : (hitEntry pos t e).entry = e.entry := by
  unfold hitEntry
  split
  · rfl
  · rfl

theorem sameEntries_cacheHit (cache pos : Nat) (s : State) : SameEntries s (cacheHit cache pos s) := by
  intro c q
  have hit : amGet (cacheHit cache pos s).fabric.caches c [] = if c = cache then (amGet s.fabric.caches cache []).map (hitEntry pos s.time.refCycles)
      else amGet s.fabric.caches c [] := amGet_amMod ..
  unfold cached
  rw [hit]
  split
  · next hc =>
    subst hc
    rw [List.find?_map, Option.map_map]
    have pos' : ((fun e : CacheEntry => e.pos == q) ∘ hitEntry pos s.time.refCycles) = (fun e : CacheEntry => e.pos == q) :=
      funext fun e => by rw [Function.comp_apply, hitEntry_pos]
    have entry' : CacheEntry.entry ∘ hitEntry pos s.time.refCycles = CacheEntry.entry :=
      funext fun e => by rw [Function.comp_apply, hitEntry_entry]
    rw [pos', entry']
  · rfl

/-- An operation has found all its positions, and their entries are young again. -/
def positionsHit (op : RingOp) (s : State) : State := (opPositions op).foldl (fun s p => cacheHit op.cache p s) s

theorem sameEntries_positionsHit (op : RingOp) (s : State) : SameEntries s (positionsHit op s) :=
  SameEntries.foldl (fun s p => sameEntries_cacheHit op.cache p s) _ _

/-- Only the caches change when entries are hit. -/
theorem positionsHit_eq (op : RingOp) (s : State) : ∃ m, positionsHit op s = { s with fabric := { s.fabric with caches := m } } := by
  unfold positionsHit
  induction opPositions op generalizing s with
  | nil => exact ⟨s.fabric.caches, rfl⟩
  | cons p l ih =>
    obtain ⟨m, hm⟩ := ih (cacheHit op.cache p s)
    exact ⟨m, hm⟩

theorem entriesRefuse_congr {s t : State} (h : SameEntries s t) (hr : t.regs = s.regs) (op : RingOp) : entriesRefuse t op = entriesRefuse s op := by
  have entry (u : State) (p : Nat) : ((cached u op.cache p).bind (fun e => entryRefuses u op e.entry)) =
      ((cached u op.cache p).map CacheEntry.entry).bind (entryRefuses u op) := by
    cases cached u op.cache p <;> rfl
  have rule : entryRefuses t op = entryRefuses s op := funext fun e => by
    unfold entryRefuses
    dsimp only
    rw [setting_congr hr]
  have each (p : Nat) : ((cached t op.cache p).bind (fun e => entryRefuses t op e.entry)) =
      ((cached s op.cache p).bind (fun e => entryRefuses s op e.entry)) := by
    rw [entry t, entry s, h, rule]
  unfold entriesRefuse
  exact congrArg (fun f => (opPositions op).findSome? f) (funext fun p => congrArg (Option.map fun st => (st, p)) (each p))

/-- The positions of an operation that its cache does not hold (R278). -/
def missing (s : State) (op : RingOp) : List Nat := (opPositions op).filter (fun q => (cached s op.cache q).isNone)

/-- The misses of an operation's first try are counted (R278). -/
def missCounted (first : Bool) (op : RingOp) (s : State) : State :=
  if first then { s with fabric := { s.fabric with misses := amMod s.fabric.misses op.cache 0 (· + (missing s op).length) } } else s

theorem missCounted_eq (first : Bool) (op : RingOp) (s : State) :
    ∃ m, missCounted first op s = { s with fabric := { s.fabric with misses := m } } := by
  unfold missCounted
  split
  · exact ⟨_, rfl⟩
  · exact ⟨s.fabric.misses, rfl⟩

theorem tryOp_eq {id : Nat} {s : State} {op : RingOp} (ho : amFind s.fabric.ops id = some op) (hf : op.fwd = none)
    (hs : op.pieces.any Piece.sent = false) (first : Bool) : tryOp first id s =
    if missing s op ≠ [] then missCounted first op s
    else (entriesRefuse s op).elim (sendPieces id op (positionsHit op (missCounted first op s)))
      (fun e => failOp id e.1 (some e.2) (positionsHit op (missCounted first op s))) := by
  have found : entriesRefuse (positionsHit op (missCounted first op s)) op = entriesRefuse s op := by
    obtain ⟨m, counted⟩ := missCounted_eq first op s
    obtain ⟨n, hit⟩ := positionsHit_eq op (missCounted first op s)
    have caches : SameEntries s (missCounted first op s) := .of_caches (by rw [counted])
    refine entriesRefuse_congr (caches.trans (sameEntries_positionsHit op _)) ?_ op
    rw [hit, counted]
  unfold tryOp
  rw [ho]
  dsimp only
  rw [hf, hs, if_neg (by decide)]
  by_cases hm : missing s op = []
  · have all : ((opPositions op).filter (fun p => (cached s op.cache p).isNone)).isEmpty = true := List.isEmpty_iff.mpr hm
    rw [if_neg (not_not.mpr hm), all, Bool.not_true, if_neg (by decide)]
    split
    · next st p h =>
      rw [← found, show entriesRefuse (positionsHit op (missCounted first op s)) op = some (st, p) from h]
      rfl
    · next h =>
      rw [← found, show entriesRefuse (positionsHit op (missCounted first op s)) op = none from h]
      rfl
  · have some' : ((opPositions op).filter (fun p => (cached s op.cache p).isNone)).isEmpty = false := List.isEmpty_eq_false_iff.mpr hm
    rw [if_pos hm, some', Bool.not_false, if_pos rfl]
    rfl

end Sys2Proof.Machine
end

section
/-!
PROOF. A memory command at the ring switch (R276, R281, R282, R289, R292): its refusal as a whole, its wait for the cache, and its way to
its homes or to another node.
-/

namespace Sys2Proof.Machine

open Sys2Proof

/-! ## A new operation -/

/-- A new operation stands under the next request number (R289). -/
def registered (op : RingOp) (s : State) : State :=
  putOp s.fabric.nextReq op { s with fabric := { s.fabric with nextReq := (s.fabric.nextReq + 1) % 67108864 } }

/-- A new operation has been tried, and has hit all its entries. -/
def triedOnce (op : RingOp) (s : State) : State := positionsHit op (missCounted true op (registered op s))

/-- Of the ring switch's figures only those of a first try change. -/
structure Tried (op : RingOp) (s t : State) : Prop where
  only : ∃ a b, t = { s with fabric := { s.fabric with
    ops := amSet s.fabric.ops s.fabric.nextReq op, nextReq := (s.fabric.nextReq + 1) % 67108864, misses := a, caches := b } }

theorem tried_counted (op : RingOp) (s : State) : Tried op s (missCounted true op (registered op s)) := ⟨_, _, rfl⟩

theorem tried_once (op : RingOp) (s : State) : Tried op s (triedOnce op s) := by
  obtain ⟨m, counted⟩ := missCounted_eq true op (registered op s)
  obtain ⟨n, hit⟩ := positionsHit_eq op (missCounted true op (registered op s))
  refine ⟨m, n, hit.trans ?_⟩
  rw [counted]
  rfl

theorem Tried.found {op : RingOp} {s t : State} (h : Tried op s t) : amFind t.fabric.ops s.fabric.nextReq = some op := by
  obtain ⟨a, b, rfl⟩ := h.only
  exact (amFind_amSet ..).trans (if_pos rfl)

theorem missing_registered (op x : RingOp) (s : State) : missing (registered op s) x = missing s x := rfl

theorem entriesRefuse_registered (op x : RingOp) (s : State) : entriesRefuse (registered op s) x = entriesRefuse s x := rfl

section
variable {op : RingOp} {s : State} (hf : op.fwd = none) (hs : op.pieces.any Piece.sent = false)
include hf hs

theorem launch_eq : launch op s = if missing s op ≠ [] then missCounted true op (registered op s)
    else (entriesRefuse s op).elim (sendPieces s.fabric.nextReq op (triedOnce op s))
      (fun e => failOp s.fabric.nextReq e.1 (some e.2) (triedOnce op s)) := by
  have found : amFind (registered op s).fabric.ops s.fabric.nextReq = some op := (amFind_amSet ..).trans (if_pos rfl)
  have tried := tryOp_eq found hf hs true
  rw [missing_registered, entriesRefuse_registered] at tried
  exact tried

end

/-! ## The parts on their way -/

/-- The request of an operation's part to its home (R289). -/
def pieceRequest (id : Nat) (op : RingOp) (n : Nat) (q : Piece) (entry : Word64) : MeshMsg :=
  ⟨⟨ringCell, ⟨bitsOf entry.toNat 49 41, bitsOf entry.toNat 40 32, 3⟩, 4, op.domain, BitVec.ofNat 16 (id * 64 + n)⟩, false, 3,
    memReqBytes op.op (memFlags op.size op.ty false) (reqLen op q) q.space q.offset (id * 64 + n) (pieceData op q)⟩

/-- A part of an operation goes to the home that its cached entry names. -/
def sendPiece (id : Nat) (op : RingOp) (s : State) (i : Nat) : State :=
  (op.pieces[i]?).elim s (fun q => (cached s op.cache q.pos).elim s (fun e => send (pieceRequest id op i q e.entry) s))

theorem sendPieces_eq (id : Nat) (op : RingOp) (s : State) : sendPieces id op s =
    putOp id { op with pieces := op.pieces.map (fun p => { p with sent := true }) } ((List.range op.pieces.length).foldl (sendPiece id op) s) := by
  unfold sendPieces
  refine congrArg (fun f => putOp id _ ((List.range op.pieces.length).foldl f s)) (funext fun u => funext fun i => ?_)
  unfold sendPiece
  cases op.pieces[i]? with
  | none => rfl
  | some q =>
    dsimp only [Option.elim_some]
    cases cached u op.cache q.pos with
    | none => rfl
    | some e => rfl

section
variable (id : Nat) (op : RingOp)

/-- A part's request leaves the ring switch's own figures, and what is on its way stays on its way. -/
theorem sendPiece_leaves (s : State) (i : Nat) : (sendPiece id op s i).fabric = s.fabric ∧ Carries s (sendPiece id op s i) := by
  unfold sendPiece
  cases op.pieces[i]? with
  | none => exact ⟨rfl, .refl s⟩
  | some q =>
    rw [Option.elim_some]
    cases cached s op.cache q.pos with
    | none => exact ⟨rfl, .refl s⟩
    | some e =>
      rw [Option.elim_some]
      exact ⟨(send_keeps ..).only .fabric rfl, carries_send _ s⟩

theorem sendPiece_foldl (l : List Nat) (s : State) :
    (l.foldl (sendPiece id op) s).fabric = s.fabric ∧ Carries s (l.foldl (sendPiece id op) s) := by
  induction l generalizing s with
  | nil => exact ⟨rfl, .refl s⟩
  | cons i l ih =>
    obtain ⟨fabric, carries⟩ := sendPiece_leaves id op s i
    obtain ⟨fabric', carries'⟩ := ih (sendPiece id op s i)
    exact ⟨fabric'.trans fabric, carries.trans carries'⟩

theorem sendPiece_carried {l : List Nat} {n : Nat} (hn : n ∈ l) {q : Piece} (hq : op.pieces[n]? = some q) {s : State} {e : CacheEntry}
    (he : cached s op.cache q.pos = some e) : pieceRequest id op n q e.entry ∈ (l.foldl (sendPiece id op) s).mesh.flight := by
  induction l generalizing s with
  | nil => exact absurd hn List.not_mem_nil
  | cons i l ih =>
    by_cases hi : n = i
    · subst hi
      have sent : sendPiece id op s n = send (pieceRequest id op n q e.entry) s := by
        unfold sendPiece
        rw [hq, Option.elim_some, he, Option.elim_some]
      refine (sendPiece_foldl id op l _).2 _ ?_
      rw [sent]
      exact carried_send ..
    · have same : cached (sendPiece id op s i) op.cache q.pos = some e := by
        unfold cached at he ⊢
        rwa [(sendPiece_leaves id op s i).1]
      exact ih ((List.mem_cons.mp hn).resolve_left hi) same

end

/-- All parts of an operation are on their way, each to the home that its entry names (R281, R289). -/
structure PiecesSent (op : RingOp) (s t : State) : Prop where
  found : amFind t.fabric.ops s.fabric.nextReq = some { op with pieces := op.pieces.map (fun q => { q with sent := true }) }
  next : t.fabric.nextReq = (s.fabric.nextReq + 1) % 67108864
  mem : t.mem = s.mem
  events : t.events = s.events
  flight : ∀ n q e, op.pieces[n]? = some q → cached s op.cache q.pos = some e → pieceRequest s.fabric.nextReq op n q e.entry ∈ t.mesh.flight

theorem piecesSent (op : RingOp) (s : State) : PiecesSent op s (sendPieces s.fabric.nextReq op (triedOnce op s)) := by
  have kept := (sendPieces_keeps s.fabric.nextReq op (triedOnce op s)).only
  obtain ⟨a, b, tried⟩ := (tried_once op s).only
  have entries : SameEntries s (triedOnce op s) :=
    (SameEntries.of_caches rfl : SameEntries s (missCounted true op (registered op s))).trans (sameEntries_positionsHit op _)
  refine ⟨?_, ?_, (kept .mem rfl).trans (by rw [tried]), (kept .events rfl).trans (by rw [tried]), fun n q e hq he => ?_⟩
  · rw [sendPieces_eq]
    exact (amFind_amSet ..).trans (if_pos rfl)
  · rw [sendPieces_eq]
    have same : ∀ x : State, (putOp s.fabric.nextReq { op with pieces := op.pieces.map (fun p => { p with sent := true }) } x).fabric.nextReq =
      x.fabric.nextReq := fun _ => rfl
    rw [same, (sendPiece_foldl ..).1, tried]
  · have hit := entries op.cache q.pos
    rw [he, Option.map_some] at hit
    obtain ⟨e', he', entry⟩ := Option.map_eq_some_iff.mp hit
    rw [sendPieces_eq, ← entry]
    have same : ∀ x : State, (putOp s.fabric.nextReq { op with pieces := op.pieces.map (fun p => { p with sent := true }) } x).mesh = x.mesh :=
      fun _ => rfl
    rw [same]
    exact sendPiece_carried _ op (List.mem_range.mpr (List.getElem?_eq_some_iff.mp hq).1) hq he'

/-! ## Memory commands -/

/-- The operation that a memory command asks for, before it has parts (R292). -/
def cmdOp (p : Pkt) (m : MemCmd) (op : Nat) (data : List Byte) (s : State) : RingOp :=
  { op := op, issuer := .host p.node p.domain m.tag p.port, domain := p.domain, remote := p.node != nodeId s
    cache := p.port, v := m.v, s := m.s, size := m.size, ty := m.ty, reqNode := p.node, len := m.len, data := data
    ctr := if op = 2 && m.ctrEnable then some m.ctrIndex else none }

theorem startCmd_eq (p : Pkt) (m : MemCmd) (op : Nat) (data : List Byte) (s : State) :
    startCmd op p m data s = startOp (cmdOp p m op data s) m.addr m.compressed s := rfl

/-- A store whose data are whole, not compressed and without a completion counter, or another command (R266, R276, R282). -/
def Plain (m : MemCmd) (op : Nat) (data : List Byte) : Prop := op = 2 → data.length = m.len ∧ m.compressed = false ∧ m.ctrEnable = false

/-- The command's requester is told a failure, with its event, and no byte, tile or message is touched (R290, R292, R294). -/
def CommandTold (s : State) (p : Pkt) (m : MemCmd) (op status : Nat) (pos : Option Nat) (u v : State) : Prop :=
  ∃ w, v = answerMem op p.node p.domain m.tag status 0 0 [] w ∧ w.mem = u.mem ∧ w.mesh = u.mesh ∧ w.tiles = u.tiles ∧
    Raised (memEvent s status p.node p.domain pos) u w

/-- A state with another ring switch. -/
def OnlyFabric (u x : State) : Prop := ∃ f, x = { u with fabric := f }

section
variable {p : Pkt} {m : MemCmd} {op : Nat} {data : List Byte} {s u : State} (acc : Accepted s u)
include acc

theorem commandTold {x : State} (hx : OnlyFabric u x) (status : Nat) (pos : Option Nat) :
    CommandTold s p m op status pos u (answerMem op p.node p.domain m.tag status 0 0 [] (memFails status p.node p.domain pos x)) := by
  obtain ⟨f, hf⟩ := hx
  have kept := (memFails_keeps status p.node p.domain pos x).only
  have event := memEvent_congr (s := s) (u := x) (by rw [hf, ← acc.parts]) status p.node p.domain pos
  refine ⟨_, rfl, (kept .mem rfl).trans (by rw [hf]), (kept .mesh rfl).trans (by rw [hf]), (kept .tiles rfl).trans (by rw [hf]), ?_⟩
  exact (event ▸ memFails_raises status p.node p.domain pos x).trans (raise_events _ (by rw [hf]))

theorem node_accepted : nodeId u = nodeId s := by
  obtain ⟨a, b, c, d, fabric⟩ := acc.fabric
  unfold nodeId
  rw [fabric]

theorem malformed_accepted (op : Nat) (g : GAddr) (len size ty domain : Nat) (framed : Bool) :
    malformed u op g len size ty domain framed = malformed s op g len size ty domain framed := by
  unfold malformed mgmtDomain reg
  rw [acc.regs]

theorem startCmd_malformed
    (hb : malformed s op (gAddr m.addr) m.len m.size m.ty p.domain (op = 2 && m.compressed) = true) :
    startCmd op p m data u = answerMem op p.node p.domain m.tag 4 0 0 []
      (memFails 4 p.node p.domain (if (gAddr m.addr).good then some (gAddr m.addr).pos else none) u) := by
  rw [startCmd_eq]
  exact startOp_malformed (op := cmdOp p m op data u) ((malformed_accepted acc ..).trans hb)

section
variable (hb : malformed s op (gAddr m.addr) m.len m.size m.ty p.domain (op = 2 && m.compressed) = false)
include hb

theorem startCmd_short (h2 : op = 2) (hl : data.length ≠ m.len) (hc : m.compressed = false) : startCmd op p m data u =
    answerMem op p.node p.domain m.tag 4 0 0 [] (memFails 4 p.node p.domain (some (gAddr m.addr).pos) u) := by
  rw [startCmd_eq]
  refine startOp_short (op := cmdOp p m op data u) ((malformed_accepted acc ..).trans hb) ?_ h2 hl
  rintro ⟨-, framed⟩
  exact absurd (hc.symm.trans framed) (by decide)

variable (hp : Plain m op data)
include hp

theorem startCmd_plain : startCmd op p m data u =
    if (gAddr m.addr).domain ≠ p.domain then
      answerMem op p.node p.domain m.tag 1 0 0 [] (memFails 1 p.node p.domain (some (gAddr m.addr).pos) u)
    else if (gAddr m.addr).node ≠ nodeId s then
      passOn { ringOp s p m op data with pieces := [] } (gAddr m.addr).node m.addr (memFlags m.size m.ty m.compressed)
        (if op = 2 then data else []) m.s u
    else launch (ringOp s p m op data) u := by
  have counterless : (if op = 2 && m.ctrEnable then some m.ctrIndex else none) = none := by
    by_cases h2 : op = 2
    · rw [(hp h2).2.2, Bool.and_false]
      rfl
    · rw [decide_eq_false h2, Bool.false_and]
      rfl
  have started : cmdOp p m op data u = { ringOp s p m op data with pieces := [] } := by
    unfold cmdOp ringOp
    rw [counterless, node_accepted acc]
  have whole : ¬(op = 2 ∧ m.compressed = true) := fun ⟨h2, framed⟩ => absurd ((hp h2).2.1.symm.trans framed) (by decide)
  have long : ¬(op = 2 ∧ data.length ≠ m.len) := fun ⟨h2, hl⟩ => hl (hp h2).1
  rw [startCmd_eq, started, startOp_plain (op := { ringOp s p m op data with pieces := [] }) ((malformed_accepted acc ..).trans hb) whole rfl,
    node_accepted acc]
  exact if_neg long

end

end

end Sys2Proof.Machine
end

section
/-!
PROOF. The translation caches and the memory commands of the fabric (R275 to R292): the clauses of their statement.
-/

namespace Sys2Proof.Machine

open Sys2Proof

/-! ## A command for this wafer -/

section
variable {s u : State} (acc : Accepted s u) (o : RingOp)
include acc

theorem missing_accepted : missing u o = missing s o := by
  unfold missing cached
  rw [(sameRing_accepted acc).caches]

theorem entriesRefuse_accepted : entriesRefuse u o = entriesRefuse s o := entriesRefuse_congr (.of_caches (sameRing_accepted acc).caches) acc.regs o

end

theorem pieces_unsent (g : GAddr) (start n : Nat) : (piecesOf g start n).any Piece.sent = false := by
  unfold piecesOf
  rw [List.any_map]
  exact List.any_eq_false.mpr fun x _ => Bool.false_ne_true

theorem onlyFabric_tried {o : RingOp} {u t : State} (h : Tried o u t) : OnlyFabric u t := by
  obtain ⟨a, b, rfl⟩ := h.only
  exact ⟨_, rfl⟩

section
variable {p : Pkt} {m : MemCmd} {op : Nat} {data : List Byte} {s u : State} (acc : Accepted s u)
include acc

/-- A command of this wafer waits for the entries that its cache does not hold (R278). -/
theorem ringOp_waits (hm : missing s (ringOp s p m op data) ≠ []) : let v := launch (ringOp s p m op data) u
    amFind v.fabric.ops s.fabric.nextReq = some (ringOp s p m op data) ∧ v.fabric.nextReq = (s.fabric.nextReq + 1) % 67108864 ∧
    v.mesh = u.mesh ∧ v.mem = u.mem ∧
    amGet v.fabric.misses p.port 0 = amGet s.fabric.misses p.port 0 + (missing s (ringOp s p m op data)).length := by
  dsimp only
  rw [launch_eq rfl (pieces_unsent ..), missing_accepted acc, if_pos hm]
  generalize ho : ringOp s p m op data = o
  have cache : o.cache = p.port := by rw [← ho]; rfl
  have counted : (missCounted true o (registered o u)).fabric.misses = amMod u.fabric.misses o.cache 0 (· + (missing u o).length) := rfl
  refine ⟨?_, ?_, rfl, rfl, ?_⟩
  · rw [← (sameRing_accepted acc).nextReq]
    exact (tried_counted o u).found
  · obtain ⟨a, b, tried⟩ := (tried_counted o u).only
    rw [tried, ← (sameRing_accepted acc).nextReq]
  · rw [counted, cache, amGet_amMod, if_pos rfl, missing_accepted acc, (sameRing_accepted acc).misses]

/-- The first entry that forbids it refuses the whole command (R281). -/
theorem ringOp_refused {st pos : Nat} (hm : missing s (ringOp s p m op data) = [])
    (hr : entriesRefuse s (ringOp s p m op data) = some (st, pos)) :
    CommandTold s p m op st (some pos) u (launch (ringOp s p m op data) u) ∧
    amFind (launch (ringOp s p m op data) u).fabric.ops s.fabric.nextReq = none := by
  have launched : launch (ringOp s p m op data) u = answerMem op p.node p.domain m.tag st 0 0 []
      (memFails st p.node p.domain (some pos) (dropOp s.fabric.nextReq (triedOnce (ringOp s p m op data) u))) := by
    rw [launch_eq rfl (pieces_unsent ..), missing_accepted acc, entriesRefuse_accepted acc, if_neg (not_not.mpr hm), hr, Option.elim_some]
    unfold failOp
    rw [(tried_once ..).found, (sameRing_accepted acc).nextReq]
    rfl
  have fabric : OnlyFabric u (dropOp s.fabric.nextReq (triedOnce (ringOp s p m op data) u)) := by
    obtain ⟨f, hf⟩ := onlyFabric_tried (tried_once (ringOp s p m op data) u)
    exact ⟨_, by rw [hf]; rfl⟩
  rw [launched]
  refine ⟨commandTold acc fabric st (some pos), ?_⟩
  rw [(sameRing_answerMem ..).ops, memFails_fabric]
  exact (amFind_amDel ..).trans (if_pos rfl)

/-- Every part of an accepted command goes to its home (R281, R289). -/
theorem ringOp_sent (hm : missing s (ringOp s p m op data) = []) (hr : entriesRefuse s (ringOp s p m op data) = none) :
    PiecesSent (ringOp s p m op data) u (launch (ringOp s p m op data) u) := by
  rw [launch_eq rfl (pieces_unsent ..), missing_accepted acc, entriesRefuse_accepted acc, if_neg (not_not.mpr hm), hr, Option.elim_none]
  exact piecesSent ..

end

/-! ## A command for another node -/

theorem enqueue_keyed {q : Packet} {s : State} (hk : hasSendKey s q.domain = true) (hd : q.dst < 12288) :
    enqueue q s = modTx q.dst q.domain (fun f => { f with waiting := f.waiting ++ [q] }) s := by
  unfold enqueue
  rw [hk, decide_eq_false (Nat.not_le.mpr hd)]
  rfl

/-- The packet in which an operation of the fabric is passed on (R289, R292). -/
def passedPkt (op : RingOp) (node : Nat) (addr : Word64) (flags : Nat) (body : List Byte) (sw : Word64) (id : Nat) : Packet :=
  ⟨node, op.domain, op.op, memCmdBytes addr op.v sw op.len (BitVec.ofNat 16 id) flags ++ body, bitAt flags 4, none⟩

theorem passOn_eq {op : RingOp} {node dom : Nat} {tag : BitVec 16} {port host : Nat} (hi : op.issuer = .host host dom tag port) {s : State}
    (hk : hasSendKey s op.domain = true) (hd : node < 12288) (addr : Word64) (flags : Nat) (body : List Byte) (sw : Word64) :
    passOn op node addr flags body sw s = modTx node op.domain
      (fun f => { f with waiting := f.waiting ++ [passedPkt op node addr flags body sw s.fabric.nextReq] })
      (registered { op with fwd := some node } s) := by
  have key (u : State) (hu : u.sec = s.sec) : hasSendKey u op.domain = true := by
    unfold hasSendKey at hk ⊢
    rwa [hu]
  unfold passOn
  dsimp only
  rw [hi]
  dsimp only
  refine (if_neg ?_).trans (enqueue_keyed (key _ rfl) hd)
  rw [Bool.or_eq_true, Bool.not_eq_true', Bool.and_eq_true, decide_eq_true_eq]
  rintro (keyless | ⟨host', -⟩)
  · exact absurd ((key _ rfl).symm.trans keyless) (by decide)
  · exact Nat.not_le.mpr hd host'

/-- Only a store carries data (R282). -/
theorem memoryCommand_body {p : Pkt} {m : MemCmd} {i : Instr} {op : Nat} {data : List Byte} (h : MemoryCommand p m i op data) :
    (if op = 2 then data else []) = data := by
  obtain ⟨-, rfl, rfl⟩ | ⟨-, rfl⟩ | ⟨-, rfl, rfl⟩ | ⟨-, rfl, rfl⟩ | ⟨-, rfl, rfl⟩ := h <;> rfl

theorem hasSendKey_accepted {s u : State} (acc : Accepted s u) (d : Nat) : hasSendKey u d = hasSendKey s d := by
  unfold hasSendKey
  rw [acc.slots]

/-! ## BULK_COPY -/

/-- A bulk copy that R286 or R287 calls malformed. -/
def BulkBad (s : State) (p : Pkt) (m : MemCmd) : Prop :=
  gFits (gAddr m.addr) m.len = false ∨ gFits (gAddr m.v) m.len = false ∨ m.len < 64 ∨ m.len % 64 ≠ 0 ∨ 4294967232 < m.len ∨
  (gAddr m.addr).domain ≠ (gAddr m.v).domain ∨ overlaps (gAddr m.addr) (gAddr m.v) m.len = true ∨ p.domain = mgmtDomain s ∨
  (m.ctrEnable = true ∧ (gAddr m.v).node = nodeId s ∧ crestOwner s m.ctrIndex ≠ holder s (fieldOf (gAddr m.v).pos))

/-- The bulk copy that the ring switch begins (R286, R287). -/
def bulkOf (p : Pkt) (m : MemCmd) : BulkOp :=
  { src := m.addr, dst := m.v, len := m.len, domain := p.domain, node := p.node, tag := m.tag, port := p.port
    compressed := m.compressed, ctr := if m.ctrEnable then some m.ctrIndex else none }

/-- A bulk copy that is passed on to the wafer of its source. -/
def bulkPassed (p : Pkt) (m : MemCmd) : RingOp :=
  { op := 6, issuer := .host p.node p.domain m.tag p.port, domain := p.domain, remote := true, cache := p.port, v := m.v
    reqNode := p.node, len := m.len }

section
variable {p : Pkt} {m : MemCmd} {s : State}

theorem startBulk_bad (h : BulkBad s p m) : startBulk p m s = answerMem 6 p.node p.domain m.tag 4 0 0 []
    (memFails 4 p.node p.domain (if (gAddr m.addr).good then some (gAddr m.addr).pos else none) s) := by
  unfold startBulk
  dsimp only
  refine if_pos ?_
  unfold BulkBad at h
  simp only [Bool.and_eq_true, beq_iff_eq, bne_iff_ne, Bool.not_eq_true', gt_iff_lt]
  tauto

theorem startBulk_good (h : ¬BulkBad s p m) : startBulk p m s =
    if (gAddr m.addr).domain ≠ p.domain then
      answerMem 6 p.node p.domain m.tag 1 0 0 [] (memFails 1 p.node p.domain (some (gAddr m.addr).pos) s)
    else if (gAddr m.addr).node ≠ nodeId s then
      passOn (bulkPassed p m) (gAddr m.addr).node m.addr (memFlags 0 0 m.compressed) []
        (if m.ctrEnable then BitVec.ofNat 64 (32768 + m.ctrIndex) else 0) s
    else bulkRead s.fabric.nextBulk (bulkOf p m) 0 { s with fabric := { s.fabric with nextBulk := s.fabric.nextBulk + 1 } } := by
  unfold startBulk
  dsimp only
  refine if_neg ?_
  unfold BulkBad at h
  simp only [Bool.and_eq_true, beq_iff_eq, bne_iff_ne, Bool.not_eq_true', gt_iff_lt]
  tauto

theorem bulkBad_accepted {u : State} (acc : Accepted s u) : BulkBad u p m ↔ BulkBad s p m := by
  have held (f : Nat) : holder u f = holder s f := by
    unfold holder
    rw [getFld_congr acc.fld]
  have domain : mgmtDomain u = mgmtDomain s := by
    unfold mgmtDomain reg
    rw [acc.regs]
  unfold BulkBad
  rw [node_accepted acc, (counters_of_accepted acc).crestOwner, held, domain]

end

section
variable (op node domain : Nat) (tag : BitVec 16) (status : Nat) (pos : Option Nat) (u : State)

theorem answerMem_mem : (answerMem op node domain tag status 0 0 [] (memFails status node domain pos u)).mem = u.mem :=
  ((answerMem_keeps ..).only .mem rfl).trans ((memFails_keeps ..).only .mem rfl)

theorem answerMem_bulks : (answerMem op node domain tag status 0 0 [] (memFails status node domain pos u)).fabric.bulks = u.fabric.bulks := by
  rw [(sameRing_answerMem ..).bulks, memFails_fabric]

end

theorem nextBulk_accepted {s u : State} (acc : Accepted s u) : u.fabric.nextBulk = s.fabric.nextBulk := by
  obtain ⟨a, b, c, d, fabric⟩ := acc.fabric
  rw [fabric]

/-! ## The caches -/

theorem sameRing_tellFailed_caches (op : RingOp) (status : Nat) (s : State) : (tellFailed op status s).fabric.caches = s.fabric.caches := by
  have copied (b : Nat) : (endBulk b status s).fabric.caches = s.fabric.caches := by
    unfold endBulk
    split
    · rfl
    · exact (sameRing_answerMem ..).caches
  unfold tellFailed
  split
  · exact (sameRing_answerMem ..).caches
  · exact congrArg FabricS.caches ((send_keeps ..).only .fabric rfl)
  · exact copied _
  · exact copied _

theorem failOp_caches (id status : Nat) (pos : Option Nat) (s : State) : (failOp id status pos s).fabric.caches = s.fabric.caches := by
  unfold failOp
  split
  · rfl
  · rw [sameRing_tellFailed_caches, memFails_fabric]
    rfl

theorem sendPieces_caches (id : Nat) (op : RingOp) (s : State) : (sendPieces id op s).fabric.caches = s.fabric.caches := by
  have put (x : RingOp) (u : State) : (putOp id x u).fabric.caches = u.fabric.caches := rfl
  rw [sendPieces_eq, put, (sendPiece_foldl ..).1]

theorem sameEntries_tryOp (id : Nat) (s : State) : SameEntries s (tryOp false id s) := by
  cases ho : amFind s.fabric.ops id with
  | none =>
    unfold tryOp
    rw [ho]
    exact .refl s
  | some op =>
    by_cases idle : (op.fwd.isSome || op.pieces.any Piece.sent) = true
    · unfold tryOp
      rw [ho]
      dsimp only
      rw [if_pos idle]
      exact .refl s
    · rw [Bool.or_eq_true, not_or, Bool.not_eq_true, Bool.not_eq_true] at idle
      have hit := sameEntries_positionsHit op s
      rw [tryOp_eq ho (Option.isSome_eq_false_iff.mp idle.1 |> Option.isNone_iff_eq_none.mp) idle.2 false]
      split
      · exact .refl s
      · cases entriesRefuse s op with
        | none =>
          exact SameEntries.trans hit (SameEntries.of_caches (sendPieces_caches ..))
        | some e => exact SameEntries.trans hit (SameEntries.of_caches (failOp_caches ..))

/-- A fill of a cache with a free slot is found at its position (R278). -/
theorem cached_cacheFill {cache pos : Nat} {s : State} (hn : cached s cache pos = none)
    (hf : (freeSlot (amGet s.fabric.caches cache [])).isSome = true) (entry : Word64) :
    (cached (cacheFill cache pos entry s) cache pos).map CacheEntry.entry = some entry := by
  obtain ⟨n, hn'⟩ := Option.isSome_iff_exists.mp hf
  have filled : amGet (cacheFill cache pos entry s).fabric.caches cache [] = amGet s.fabric.caches cache [] ++ [⟨n, pos, entry, 0, none⟩] := by
    unfold cached at hn
    unfold cacheFill modCache
    rw [amGet_amMod, if_pos rfl]
    dsimp only
    rw [hn]
    dsimp only
    rw [hn']
  unfold cached at hn ⊢
  rw [filled, List.find?_append, hn, Option.none_or, List.find?_singleton]
  exact congrArg (Option.map CacheEntry.entry) (if_pos (beq_self_eq_true pos))

theorem cached_of_waitsFor {s : State} {cache pos : Nat} (h : waitsFor s cache pos = true) : cached s cache pos = none := by
  obtain ⟨e, -, he⟩ := List.any_eq_true.mp h
  rw [Bool.and_eq_true] at he
  exact Option.isNone_iff_eq_none.mp he.2

theorem translationFill_fills {cache pos gen : Nat} {s : State} (hw : waitsFor s cache pos = true) (hg : spanGenOf s pos % 2 ^ 32 ≤ gen) :
    Completes (.translationFill cache ⟨pos, gen⟩) s (fun t =>
      t = ((s.fabric.ops.filter (fun e => e.2.cache == cache)).map Prod.fst).foldl (fun s id => tryOp false id s)
        (cacheFill cache pos (spanEntry s pos) s) ∧
      ((freeSlot (amGet s.fabric.caches cache [])).isSome = true → (cached t cache pos).map CacheEntry.entry = some (spanEntry s pos))) := by
  refine completes_of_exec (congrArg Host.Outcome.next (if_pos ⟨hw, hg⟩)) ⟨rfl, fun room => ?_⟩
  exact (SameEntries.foldl (fun s id => sameEntries_tryOp id s) _ _ cache pos).trans (cached_cacheFill (cached_of_waitsFor hw) room _)

theorem invalidateDone_caches (s : State) : ∀ c ∈ (invalidateDone s).fabric.caches, ∃ b ∈ s.fabric.caches, c.1 = b.1 ∧
    ∀ e, e ∈ c.2 ↔ e ∈ b.2 ∧ e.pos ∉ s.fabric.invalPos ∧ fieldOf e.pos ∉ s.fabric.invalidating := by
  intro c hc
  obtain ⟨b, hb, rfl⟩ := List.mem_map.mp hc
  refine ⟨b, hb, rfl, fun e => ?_⟩
  rw [List.mem_filter, Bool.not_eq_true', Bool.or_eq_false_iff, ← Bool.not_eq_true, ← Bool.not_eq_true, List.contains_iff_mem, List.contains_iff_mem]

/-- Settles O56: a command is judged by its own fields, then by its cached entries, and is refused, kept waiting, sent out or passed on. -/
theorem memoryCommandsAreCheckedAndTranslated : Obligations.MemoryCommandsAreCheckedAndTranslated := by
  unfold Obligations.MemoryCommandsAreCheckedAndTranslated
  intro s
  refine ⟨fun p m i op data hi harr => ?_, fun p m harr => ?_, fun cache pos gen => ⟨translationFill_fills, fun h => ?_⟩,
    completes_of_exec rfl rfl, completes_of_exec rfl ⟨rfl, rfl, invalidateDone_caches s⟩⟩
  · have delivers {q : State → State → Prop} (hq : ∀ u, Accepted s u → q u (startCmd op p m data u)) : Delivers i s q :=
      delivers_act harr (exec_memoryCommand hi s) hq
    refine ⟨fun hb => delivers fun u acc => ?_, fun hb h2 hl hc => delivers fun u acc => ?_, fun hb hp hd => delivers fun u acc => ?_,
      fun hb hp hd hn => ⟨fun hm => delivers fun u acc => ?_, fun st pos hm hr => delivers fun u acc => ?_, fun hm hr => delivers fun u acc => ?_⟩,
      fun hb hp hd hn hk hw => delivers fun u acc => ?_⟩
    · rw [startCmd_malformed acc hb]
      refine ⟨commandTold acc ⟨u.fabric, rfl⟩ .., ?_⟩
      rw [(sameRing_answerMem ..).ops, memFails_fabric]
    · rw [startCmd_short acc hb h2 hl hc]
      exact commandTold acc ⟨u.fabric, rfl⟩ ..
    · rw [startCmd_plain acc hb hp, if_pos hd]
      refine ⟨commandTold acc ⟨u.fabric, rfl⟩ .., ?_⟩
      rw [(sameRing_answerMem ..).ops, memFails_fabric]
    · rw [startCmd_plain acc hb hp, if_neg (not_not.mpr hd), if_neg (not_not.mpr hn)]
      exact ringOp_waits acc hm
    · rw [startCmd_plain acc hb hp, if_neg (not_not.mpr hd), if_neg (not_not.mpr hn)]
      exact ringOp_refused acc hm hr
    · rw [startCmd_plain acc hb hp, if_neg (not_not.mpr hd), if_neg (not_not.mpr hn)]
      obtain ⟨found, next, mem, events, flight⟩ := ringOp_sent acc hm hr
      rw [(sameRing_accepted acc).nextReq] at found next flight
      refine ⟨found, next, mem, events, fun n q e hq he => flight n q e hq ?_⟩
      unfold cached at he ⊢
      rwa [(sameRing_accepted acc).caches]
    · rw [startCmd_plain acc hb hp, if_neg (not_not.mpr hd), if_pos hn,
        memoryCommand_body hi, passOn_eq (op := { ringOp s p m op data with pieces := [] }) rfl ((hasSendKey_accepted acc _).trans hk) hw]
      refine ⟨?_, rfl, rfl, ?_⟩
      · rw [← (sameRing_accepted acc).nextReq]
        exact (amFind_amSet ..).trans (if_pos rfl)
      · rw [← (sameRing_accepted acc).nextReq]
        exact congrArg FlowTx.waiting (getTx_modTx_self ..)
  · have delivers {q : State → State → Prop} (hq : ∀ u, Accepted s u → q u (startBulk p m u)) : Delivers (.bulkCopy p m) s q :=
      delivers_act harr rfl hq
    have good {u : State} (acc : Accepted s u) (h : ¬BulkBad s p m) : ¬BulkBad u p m := fun bad => h ((bulkBad_accepted acc).mp bad)
    refine ⟨fun hb => delivers fun u acc => ?_, fun hg hd => delivers fun u acc => ?_, fun hg hd hn => delivers fun u acc => ?_,
      fun hg hd hn hk hw => delivers fun u acc => ?_⟩
    · rw [startBulk_bad ((bulkBad_accepted acc).mpr hb)]
      exact ⟨rfl, answerMem_mem .., answerMem_bulks ..⟩
    · rw [startBulk_good (good acc hg), if_pos hd]
      exact ⟨rfl, answerMem_mem .., answerMem_bulks ..⟩
    · rw [startBulk_good (good acc hg), if_neg (not_not.mpr hd), if_neg (not_not.mpr (hn.trans (node_accepted acc).symm)), nextBulk_accepted acc]
      exact ⟨rfl, ((bulkRead_keeps ..).only .mem rfl).trans rfl⟩
    · rw [startBulk_good (good acc hg), if_neg (not_not.mpr hd), if_pos (fun h => hn (h.trans (node_accepted acc))),
        passOn_eq (op := bulkPassed p m) rfl ((hasSendKey_accepted acc _).trans hk) hw]
      refine ⟨rfl, ?_⟩
      rw [← (sameRing_accepted acc).nextReq]
      refine (congrArg FlowTx.waiting (getTx_modTx_self ..)).trans ?_
      unfold passedPkt
      rw [List.append_nil]
      rfl
  · refine completes_of_exec (congrArg Host.Outcome.next (if_neg ?_)) rfl
    rintro ⟨waits, new⟩
    obtain settled | old := h
    · exact absurd (settled.symm.trans waits) (by decide)
    · exact Nat.not_le.mpr old new

end Sys2Proof.Machine
end

section
/-!
PROOF. A home whose load meets a double-bit error and, in the word before it, the single-bit error that reaches the tile's threshold (R67,
R205, R206): the event of the corrected errors is written before that of the cell fault.
-/

namespace Sys2Proof.Machine

open Sys2Proof

/-- A partition of domain 9 holds field 0. The tile of site 0 has counted 999 corrected errors in the present hour, the first word of its
overlay has a single-bit error and the second a double-bit error. -/
def wornHome : State :=
  { State.reset with
    parts := [(0, { domain := 9 })]
    fld := [(0, { owner := .held 0 })]
    tiles := [(0, { corrected := 999 })]
    mesh := { State.reset.mesh with sites := [(0, .enabled)] }
    ecc := [(0, .single), (1, .double)] }

/-- A request of the ring to the memory cell of site 0. -/
def homeHead : Head := ⟨⟨ringXY, ringXY, 0⟩, ⟨0, 0, 3⟩, 3, 9, 0⟩

/-- A load of both words. -/
def wornLoad : MemReq := ⟨1, 0, 0, 16, 0, 0, 0, 0, [], 0, 0⟩

/-- The state after the load, where there is one. -/
def afterWornLoad : Option State :=
  match exec (.memReq homeHead wornLoad) wornHome with
  | .next t => some t
  | _ => none

/-- The single-bit error is the tile's 1,000th in the hour: event 0x110 comes before the fault's. -/
theorem afterWornLoad_events : afterWornLoad.map (fun t => t.events.pending.map EvReq.code) = some [0x110, 0x104] := by decide +kernel

/-- On an empty store of requests the one raised stands first, whatever follows. -/
theorem raise_wornHome_code_first (e : EvReq) (later : List EvReq) :
    (((raise e wornHome).events.pending ++ later).map EvReq.code).head? = some e.code := by
  rfl

/-- Refutes O57: a load that meets an uncorrectable error need not write the fault's event first. Its bytes also hold a corrected word, and
where that error is the one that reaches the tile's hourly threshold, event 0x110 precedes the cell fault's 0x104. -/
theorem not_homesPerformAndRepliesReturn : ¬ Obligations.HomesPerformAndRepliesReturn := by
  unfold Obligations.HomesPerformAndRepliesReturn
  intro claim
  obtain ⟨-, home, -⟩ := claim wornHome
  obtain ⟨-, idle⟩ := home homeHead wornLoad (by decide +kernel)
  obtain ⟨-, -, -, double⟩ := idle (by decide +kernel) (.inr (by decide +kernel))
  obtain ⟨t, step, -, -, -, later, pending⟩ := double (by decide) (by decide +kernel) (by decide +kernel)
  have reached : afterWornLoad = some t := by
    unfold afterWornLoad
    rw [step]
  have events := afterWornLoad_events
  rw [reached, Option.map_some, pending, Option.some.injEq] at events
  have first := congrArg List.head? events
  rw [raise_wornHome_code_first] at first
  exact absurd first (by decide)

end Sys2Proof.Machine
end
